-- ==== Sys2Proof/Word.lean ====
section
/-! DEFINITION. The word types of Kamurfold (R8) and the sparse map every memory and table of the model is held in. -/

namespace Sys2Proof

/-- One byte. -/
abbrev Byte := BitVec 8

/-- A 64-bit register or data word; every multi-byte quantity is little-endian (R8). -/
abbrev Word := BitVec 64

/-- A sparse table by key, in one canonical form: keys strictly rising, and no entry equal to what an
unlisted key reads as. The operations over it stand in `Machine/Ops.lean`. -/
abbrev FMap (α : Type) := List (Nat × α)

/-- A finite set of keys: strictly rising. -/
abbrev KeySet := List Nat

end Sys2Proof
end

