-- ==== Sys2Proof/Syntax.lean ====
section
/-! DEFINITION. The commands of the block and the data they carry: status codes, hardware endings, messages, frames. -/

namespace Sys2Proof

/-- The status codes of R12. -/
inductive Status
  | ok | partial_ | eState | eShape | eFormat | eAddr | eGone | eLength | eMemUncorr | eLink | eSat | eAbort
  | ePower | eDeadline
  deriving DecidableEq, Repr

/-- The one-byte code of a status (R12). -/
def Status.code : Status → Nat
  | .ok => 0x00 | .partial_ => 0x01 | .eState => 0x10 | .eShape => 0x11 | .eFormat => 0x12 | .eAddr => 0x13
  | .eGone => 0x14 | .eLength => 0x15 | .eMemUncorr => 0x20 | .eLink => 0x21 | .eSat => 0x22 | .eAbort => 0x30
  | .ePower => 0x31 | .eDeadline => 0x32

/-- Where an uncorrectable or corrected error arises in the hardware of an instruction (R73, R146, R239, R260). -/
inductive EccSite
  | ledge | accumulator | weightBank | score | memory | harbour
  deriving DecidableEq, Repr

/-- How the hardware ends an instruction in flight: its work is over; it stopped at its boundary; it met an
uncorrectable error; its power, link or CXL range went; the Tideway peer answered a remote ADD or SUB (R73, R97, R98,
R346). -/
inductive HwEnd
  | finished
  | stopped
  | uncorrected (site : EccSite)
  | power
  | link
  | gone
  | answered (st : Status)
  deriving DecidableEq, Repr

/-- The operations of an atomic (R247). -/
inductive AtomicOp
  | add | and | or | xor | min | max | minu | maxu | swap | cas
  deriving DecidableEq, Repr

/-- How a prefetch fill ends (R257, R259): the line arrived untouched, a demand read came while the fill was in flight, a write came
while it was, or it met an uncorrectable error. -/
inductive Prefetch
  | arrived | late | overwritten | failed
  deriving DecidableEq, Repr

/-- What a scrub of a 32-byte word finds (R239). -/
inductive Scrubbed
  | clean | corrected | uncorrectable
  deriving DecidableEq, Repr

/-- What the Cliff translation layer does on its own (R277, R278): garbage collection, relocation of a block, a
retention rewrite, or retiring a block. -/
inductive Housekeep
  | collect | relocate | retention | retire
  deriving DecidableEq, Repr

/-- What the hardware answers to a hot-add (R271): whether the link trains, its lanes and rate, the device's capacity in
256 MiB units, and whether the read-back of the range succeeds. -/
structure CxlTrain where
  link : Bool
  width : BitVec 5
  rate64 : Bool
  capacity : BitVec 16
  check : Bool
  deriving DecidableEq, Repr

/-- What the host answers to sent packets (R305, R312, R319): an acknowledgement up to a packet number, a sequence-error
NAK or a remote-access NAK at one. -/
inductive AckKind
  | ack | sequence | access
  deriving DecidableEq, Repr

/-- An Ikiotte message (R314): its header and its body, the bytes that follow the header. -/
structure Msg where
  version : BitVec 8
  opcode : BitVec 8
  bodyLen : BitVec 16
  reserved : BitVec 32
  requestId : BitVec 64
  scene : BitVec 32
  stream : BitVec 32
  deadline : BitVec 64
  body : List Byte
  /-- A packet of the message is CE-marked (R305). -/
  ce : Bool := false
  deriving DecidableEq, Repr

/-- Who asks for a hot-add or a managed remove (R271, R286): a write of CXL_CTRL, or a message. -/
inductive CxlSource
  | register (port : Fin 2) (dec : Fin 8)
  | message (qp : BitVec 18) (m : Msg)
  deriving DecidableEq, Repr

/-- A Tideway DATA frame (R333): the sequence number of its port, the acknowledgement and the credits it carries, its
time of sending, its operation and tag, its generation, what its collective is (the fields that R340 compares), and its payload. `final_` tells
elements of a result from partials. `rank` and `addr` place a PERMUTE piece or a MULTICAST payload, and `mapBits` is the
map of non-finite elements, two bits each (R343). -/
structure TwFrame where
  vc : Fin 4
  last : Bool
  seq : BitVec 16
  ack : BitVec 16
  credits : BitVec 16
  time : BitVec 64
  op : BitVec 8
  group : Fin 64
  gseq : BitVec 26
  generation : BitVec 16
  offset : BitVec 32
  inFmt : BitVec 4
  outFmt : BitVec 4
  redOp : BitVec 2
  root : BitVec 8
  count : BitVec 32
  final_ : Bool
  rank : BitVec 8
  addr : BitVec 48
  mapBits : List Byte
  payload : List Byte
  deriving DecidableEq, Repr

/-- What a CONTROL frame carries (R333): an acknowledgement or a negative one, credits of a virtual channel, an abort, a
ready token or a commit token of a group's collective. -/
inductive TwControl
  | ack (seq : BitVec 16)
  | negative (seq : BitVec 16)
  | credit (vc : Fin 4) (n : BitVec 4)
  | abort (group : Fin 64) (gseq : BitVec 26)
  | ready (group : Fin 64) (gseq : BitVec 26)
  | commit (group : Fin 64) (gseq : BitVec 26)
  deriving DecidableEq, Repr

/-- What a SEMAPHORE frame asks (R346, R347). -/
inductive TwSem
  | add | sub | fault
  deriving DecidableEq, Repr

/-- How a training step ends on this module (R359, R364, R368, R370 to R372, R374): how its work ended, the micro-batches
whose B has committed, whether the PERMUTE of a REMAP was decided and whether the gradient was reduced before a failure,
the sums of S and G2 that came from the stage behind, and the accum that stage 0 sends with the next step. -/
structure TrainEnd where
  how : HwEnd
  micro : BitVec 32
  remapped : Bool
  reduced : Bool
  sumS : BitVec 32
  sumG2 : BitVec 32
  next : BitVec 16
  deriving DecidableEq, Repr

/-- The current steps that Breakwater is asked for (R404). -/
inductive BwKind
  | wake (core : Fin 36)
  | spring (core : Fin 36)
  | stack (k : Fin 12)
  | tideway (port : Fin 16)
  | ethernet (port : Fin 4)
  | cxl (port : Fin 2)
  | slice (core : Fin 42)
  deriving DecidableEq, Repr

/-- A self-test slice (R441): a partition of the core's logic under a seed, or 1 MiB of its memory. -/
inductive SliceKind
  | logic (part seed : Fin 8)
  | memory (mib : Fin 20)
  deriving DecidableEq, Repr

/-- What causes a hard stop (R409, R416). -/
inductive StopCause
  | estop | thermal | overvoltage
  deriving DecidableEq, Repr

/-- What the boot battery finds failing (R448, R451): physical cores, with whether their memory fails or else their logic; Harbour slices,
16 the spare; context-cache sets with a way that fails; Foreshore engines, as the cores; semaphore memory; MRAM; HBM4 pseudo-channels below
6 margin steps; Tideway wavelengths (16 * wavelength + port), Ethernet and CXL ports whose loopback fails. -/
structure Battery where
  cores : List (Fin 42 × Bool) := []
  slices : List (Fin 2 × Fin 17) := []
  sets : List (Fin 1024) := []
  foreshore : List (Fin 2 × Bool) := []
  semaphores : Bool := false
  mram : Bool := false
  margins : List (Fin 12 × Fin 64) := []
  wavelengths : List (Fin 80) := []
  ethernet : List (Fin 4) := []
  cxl : List (Fin 2) := []
  deriving DecidableEq, Repr

/-- What a boot finds (R424, R427, R429, R430, R448, R451): valid copies of the records and of the mirror, firmware banks
that fail a check (2 * component + bank), what fails the battery, and whether the digest of Gulkutik's tables matches. -/
structure BootFound where
  mfgA : Bool
  mfgB : Bool
  mirror : Bool
  fieldA : Bool
  fieldB : Bool
  ownerA : Bool
  ownerB : Bool
  badBanks : List (Fin 10)
  battery : Battery
  digestOk : Bool
  deriving DecidableEq, Repr

/-- A step of a margin sweep or a loopback (R451, R452, R453): it starts with a value of ST_MARGIN_CTRL, a sweep of HBM4 takes one step
whose pattern reads back or not, or the one that runs ends with what it found. -/
inductive MarginStep
  | start (ctrl : BitVec 64)
  | step (pass : Bool)
  | result (lo hi : BitVec 8) (height : BitVec 16) (fail : Bool)
  deriving DecidableEq, Repr

/-- A reference check that failed (R450): a temperature sensor (its reading differed for the tenth time), a rail monitor,
or the PLL of a physical core or of an Ethernet, CXL or Tideway port. -/
inductive RefFail
  | sensor (s : Fin 48)
  | rail (r : Fin 8)
  | core (p : Fin 42)
  | ethernet (port : Fin 4)
  | cxl (port : Fin 2)
  | tideway (port : Fin 16)
  deriving DecidableEq, Repr

/-- An access through the management window (R313): a read of a number of bytes, or a write of bytes. -/
inductive WindowOp
  | read (len : BitVec 32)
  | write (data : List Byte)
  deriving DecidableEq, Repr

/-- An SPDM request (R434, R435): GET_MEASUREMENTS of one index or of all (0), CHALLENGE, GET_CERTIFICATE, and
NEGOTIATE_ALGORITHMS with or without the Huaris algorithm; another request by its bytes. -/
inductive Spdm
  | measurements (index : Fin 256) (nonce : List Byte)
  | challenge (slot : Fin 8) (nonce : List Byte)
  | certificate (slot : Fin 8) (off len : BitVec 16)
  | algorithms (huaris : Bool)
  | other (bytes : List Byte)
  deriving DecidableEq, Repr

/-- An operation whose tideline deadline passes (R29): the work of a tile queue, with the deadline that it carries; the job
of a Foreshore engine or the oldest Cliff command in flight, with the rows or units committed when it stops; the collective
of a ring; or a message by its place in the order of acceptance. -/
inductive Late
  | queue (c : Fin 36) (q : Fin 8) (deadline : BitVec 64)
  | job (die : Fin 2) (rows : Nat)
  | command (units : Nat)
  | collective (ring : Fin 8)
  | message (k : BitVec 64)
  deriving DecidableEq, Repr

/-- The commands of the block: one constructor per row of the opcode table, in its order. `c` is a logical core, `q` a tile
queue, `qp` a queue pair, `m` a message, `h` a compute die, `k` a stack (of POOL_WAIT_EXPIRE and RDMA_READ_RESPONSE a
place in the order of acceptance), `v` a value written, `page` a page index, `ring` a collective ring, `p` a port or a
physical core, `n` an entry or a component, `wm` the watermark at which hardware ended, `e` how it ended, `owner` the
agent: 0 host, 1 Gulkutik, 2 Tidewatch. -/
inductive Instr
  /-- MATMUL (R82): Tile instruction that computes C = A·B on one cube array through L2 and L1 tiling, with drain, epilogue and output write. -/
  | matmul (c : Fin 36) (q : Fin 8)
  /-- WLOAD (R83): Tile instruction that loads one weight block into a shadow bank. -/
  | wload (c : Fin 36) (q : Fin 8)
  /-- WEIGHT_LOAD_DONE (R60): A weight bank load finishes and the bank becomes READY, releasing any product that waits on it. -/
  | weightLoadDone (c : Fin 36) (a b : Fin 2)
  /-- RSTEP (R169): Tile instruction that runs a long convolution or gated cell over chunks with carried state. -/
  | rstep (c : Fin 36) (q : Fin 8)
  /-- VCHAIN (R84): Tile instruction that runs one fused chain over a region. -/
  | vchain (c : Fin 36) (q : Fin 8)
  /-- MOVE (R85): Tile instruction that copies rows through the DMA engine, by unicast or to a multicast group. -/
  | move (c : Fin 36) (q : Fin 8)
  /-- WAIT_GE (R86): Tile instruction that waits until a semaphore count reaches a value, with an optional bound. -/
  | waitGe (c : Fin 36) (q : Fin 8)
  /-- WAIT_GE_SATISFIED (R86): A waiting WAIT_GE completes once its semaphore reaches the value, or once it is faulted. -/
  | waitGeSatisfied (c : Fin 36) (q : Fin 8)
  /-- ADD (R86): Tile instruction that adds to a local, global or remote semaphore, saturating at 2^48 − 1. -/
  | add (c : Fin 36) (q : Fin 8)
  /-- SUB (R86): Tile instruction that subtracts from a semaphore, saturating at 0. -/
  | sub (c : Fin 36) (q : Fin 8)
  /-- BRANCH (R87): Tile instruction that compares scalar registers and branches. -/
  | branch (c : Fin 36) (q : Fin 8)
  /-- SCALAR_SET (R87): SCALAR op 0: sets SC[dst] to the immediate. -/
  | scalarSet (c : Fin 36) (q : Fin 8)
  /-- SCALAR_ADD (R87): SCALAR op 1: SC[dst] = SC[src] + imm modulo 2^64. -/
  | scalarAdd (c : Fin 36) (q : Fin 8)
  /-- LEN_IMM (R87): SCALAR op 2: sets a runtime-length slot from the immediate. -/
  | lenImm (c : Fin 36) (q : Fin 8)
  /-- LEN_REG (R87): SCALAR op 3: sets a runtime-length slot from a scalar register. -/
  | lenReg (c : Fin 36) (q : Fin 8)
  /-- SCALAR_LOAD (R87): SCALAR op 4: loads 8 bytes of Ledge into a scalar register. -/
  | scalarLoad (c : Fin 36) (q : Fin 8)
  /-- SCALAR_STORE (R87): SCALAR op 5: stores a scalar register to Ledge. -/
  | scalarStore (c : Fin 36) (q : Fin 8)
  /-- SR_BASE (R87): SCALAR op 6: sets Qn_SRBASE. -/
  | srBase (c : Fin 36) (q : Fin 8)
  /-- SR_STEP (R87): SCALAR op 7: adds to the queue's SR step, or completes with E_STATE on a stream-bound queue. -/
  | srStep (c : Fin 36) (q : Fin 8)
  /-- FENCE (R87): Tile instruction that waits for earlier instructions of named units and, optionally, for device-wide visibility. -/
  | fence (c : Fin 36) (q : Fin 8)
  /-- END (R87): Tile instruction that completes after every earlier instruction and makes the queue IDLE. -/
  | endOp (c : Fin 36) (q : Fin 8)
  /-- INSTRUCTION_COMPLETE (R89): An in-flight tile instruction finishes, with its post ADD, completion record or error handling. -/
  | instructionComplete (c : Fin 36) (q : Fin 8) (seq : Nat) (e : HwEnd) (wm : Nat) (ecc : List EccSite)
  /-- QUEUE_START (R99): Start doorbell: an IDLE or HALTED queue starts at Qn_PC with sequence number 0. -/
  | queueStart (c : Fin 36) (q : Fin 8)
  /-- QUEUE_RESUME (R99): Resume doorbell: a HALTED queue continues from Qn_PC. -/
  | queueResume (c : Fin 36) (q : Fin 8)
  /-- QUEUE_ABORT (R99): Abort doorbell: the oldest in-flight instruction fails with E_ABORT under the HALT rules. -/
  | queueAbort (c : Fin 36) (q : Fin 8)
  /-- TILE_PASS_BOUNDARY (R93): A tile pass reaches its 4,060-cycle limit, and preemption, deadline and abort are checked. -/
  | tilePassBoundary (c : Fin 36) (committed : Nat)
  /-- DEADLINE_PASSED (R29): An operation's tideline deadline passes, and it stops at its next boundary with E_DEADLINE. -/
  | deadlinePassed (x : Late)
  /-- ARRIVAL_GATE_OPEN (R136): The gate semaphore reaches the count for the next group, and the A feeder enters it. -/
  | arrivalGateOpen (c : Fin 36) (q : Fin 8)
  /-- ARRIVE_WRITE (R143): A write to ARRIVEn resets its pointer, its faulted state and its record of landed units. -/
  | arriveWrite (c : Fin 36) (n : Fin 4) (v : Word)
  /-- STAT_REGION_WRITE (R143): A write to STAT_REGION takes effect after any instruction that names a slot. -/
  | statRegionWrite (c : Fin 36) (v : Word)
  /-- SCORE_CTRL_WRITE (R166): A write to SCORE_CTRL takes effect after the score-store instruction in flight. -/
  | scoreCtrlWrite (c : Fin 36) (v : Word)
  /-- RECUR_CTRL_WRITE (R189): A write to the recurrent page control registers takes effect after the RSTEP in flight. -/
  | recurCtrlWrite (c : Fin 36) (which : Fin 3) (v : Word)
  /-- COUNTER_CLEAR (R75): Writing counter_clear clears every counter of a page, keeping an increment in the same cycle. -/
  | counterClear (page : BitVec 14)
  /-- EVENT_CLEAR (R468): A W1C write to EVENT clears event bits, except a bit that hardware sets in the same cycle. -/
  | eventClear (page : BitVec 14) (bits : BitVec 32)
  /-- EVENT_COUNT_CLEAR (R469): CTRL.event_count_clear clears EVENT_COUNT, counting a set in the same cycle. -/
  | eventCountClear (page : BitVec 14)
  /-- REGISTER_WRITE (R460): An 8-byte write to a register that has no row of its own, applied whole with its access codes. -/
  | registerWrite (owner : Fin 3) (addr : BitVec 48) (v : Word)
  /-- SUP_MRAM_DATA_READ (R418): A read of SUP_MRAM_DATA returns 8 bytes of MRAM and advances SUP_MRAM_ADDR by 8. -/
  | supMramDataRead
  /-- QUIESCE (R393): LIVE request 1: the block stops taking work, and work in flight completes. -/
  | quiesce (page : BitVec 14) (owner : Fin 3)
  /-- DRAIN (R393): LIVE request 2: the block stops taking work, and work in flight stops at its next boundary. -/
  | drain (page : BitVec 14) (owner : Fin 3)
  /-- RESUME (R393): LIVE request 3: the block returns to RUNNING, and held work proceeds. -/
  | resume (page : BitVec 14) (owner : Fin 3)
  /-- LIVE_BOUNDARY_REACHED (R394): A block reaches its drain boundary and becomes QUIESCED or DRAINED. -/
  | liveBoundaryReached (page : BitVec 14)
  /-- TICK_IN_EDGE (R26): A TICK_IN edge is timestamped, then accepted to begin a tick or rejected with TICK_EDGE_REJECT. -/
  | tickInEdge (jitter : Fin 3)
  /-- TICK_START (R26): An internal-period tick begins at its expected time. -/
  | tickStart
  /-- TICK_WINDOW_CLOSE (R26): The acceptance window closes with no edge, a missed tick is recorded and TICK_LOST may be raised. -/
  | tickWindowClose
  /-- SLOT_START (R27): A new slot of the running tick begins. -/
  | slotStart
  /-- TICKIN_PERIOD_WRITE (R27): A write to TICKIN_PERIOD takes effect at the next tick start, starts ticks or stops them. -/
  | tickinPeriodWrite (v : Word)
  /-- TICK_CFG_WRITE (R27): A write to TICK_CFG takes effect at the next tick start, or at once when there are no ticks. -/
  | tickCfgWrite (v : Word)
  /-- REFERENCE_MEASUREMENT (R25): A discipline measurement updates the offset, the rate and the state LOCKED or HOLDOVER. -/
  | referenceMeasurement (port : Fin 4) (off : Word)
  /-- REFERENCE_LOST (R25): The discipline reference is lost, and the discipline enters HOLDOVER. -/
  | referenceLost
  /-- TIDELINE_RECORD (R22): Each time the count passes a whole second, Tidewatch records it in MRAM. -/
  | tidelineRecord
  /-- PPS_OUT (R481): PPS_OUT rises at each whole second of the tideline and falls 100 ms later. -/
  | ppsOut
  /-- WAKE_ALARM (R34): In Dry, the tideline reaches WAKE_ALARM and Tidewatch wakes the device. -/
  | wakeAlarm
  /-- PTP_EVENT_MESSAGE (R306): A PTP event message is received or sent and timestamped at the port. -/
  | ptpEventMessage (p : Fin 4) (rx : Bool)
  /-- OPEN_SCENE (R192): Ikiotte message that opens a scene with its model, seed, parameters, root stream and intake region. -/
  | openScene (qp : BitVec 18) (m : Msg)
  /-- OBSERVE (R205): Ikiotte message that brings frames or tokens into the root stream, with prefix reuse. -/
  | observe (qp : BitVec 18) (m : Msg)
  /-- PLAN (R209): Ikiotte message that runs the on-device planner loop and returns the best plans. -/
  | plan (qp : BitVec 18) (m : Msg)
  /-- ROLLOUT (R213): Ikiotte message that forks futures, rolls them out with given actions and returns tokens or frames. -/
  | rollout (qp : BitVec 18) (m : Msg)
  /-- FORK (R197): Ikiotte message that creates N child streams sharing the source's pages, whole or not at all. -/
  | fork (qp : BitVec 18) (m : Msg)
  /-- CLOSE_STREAM (R194): CLOSE of kind 0: closes a stream, or makes it DRAINING while a step is in flight. -/
  | closeStream (qp : BitVec 18) (m : Msg)
  /-- CLOSE_SCENE (R194): CLOSE of kind 1: closes every stream of the scene and frees its slot. -/
  | closeScene (qp : BitVec 18) (m : Msg)
  /-- STEP_DISPATCH (R162): Gulkutik dispatches a stream step, pinning and resolving its pages and building its instructions. -/
  | stepDispatch (i : Fin 16384)
  /-- POOL_WAIT_EXPIRE (R285): An allocation waiting without a victim reaches wait_limit or its deadline. -/
  | poolWaitExpire (k : BitVec 64)
  /-- STEP_COMMIT (R195): A stream step commits or fails, releasing its pins and moving the stream on. -/
  | stepCommit (i : Fin 16384) (e : HwEnd) (badPage : Option (BitVec 28))
  /-- RECOMPUTE_DONE (R208): A page recomputation commits or fails, and the steps that wait on it proceed or fail. -/
  | recomputeDone (g : BitVec 28) (e : HwEnd)
  /-- LOAD_MODEL (R300): Ikiotte message that loads a model version from a Cliff package, makes it live and optionally pins it. -/
  | loadModel (qp : BitVec 18) (m : Msg)
  /-- UNLOAD_MODEL (R302): Ikiotte message that unloads a model version not bound by a scene. -/
  | unloadModel (qp : BitVec 18) (m : Msg)
  /-- PREFETCH_MODEL (R298): Ikiotte message that stages a model version in the Background class. -/
  | prefetchModel (qp : BitVec 18) (m : Msg)
  /-- MODEL_STAGED (R298): Staging of a model version completes, and it becomes RESIDENT or PINNED. -/
  | modelStaged (m : BitVec 16) (v : BitVec 8)
  /-- OPEN_JOB (R356): Ikiotte message that opens a Train job from a configuration object. -/
  | openJob (qp : BitVec 18) (m : Msg)
  /-- TRAIN_STEP (R359): Ikiotte message that runs one training step of micro-batches, split backward and update. -/
  | trainStep (qp : BitVec 18) (m : Msg)
  /-- REMAP (R372): TRAIN_STEP with REMAP set: reshards by PERMUTE under a new configuration. -/
  | remap (qp : BitVec 18) (m : Msg)
  /-- UPDATE_ONLY (R368): TRAIN_STEP with UPDATE_ONLY set: applies the update from the kept reduced gradient. -/
  | updateOnly (qp : BitVec 18) (m : Msg)
  /-- UPDATE_COMMIT (R368): The update engine swaps in shadow weights when every tensor is updated, or skips on non-finite gradients. -/
  | updateCommit (j : Fin 16) (e : TrainEnd)
  /-- CLOSE_JOB (R374): Ikiotte message that closes a training job. -/
  | closeJob (qp : BitVec 18) (m : Msg)
  /-- OBJ_CREATE (R316): Ikiotte message that creates a host object. -/
  | objCreate (qp : BitVec 18) (m : Msg)
  /-- OBJ_WRITE (R316): Ikiotte message that writes a host object from host memory by RDMA READ. -/
  | objWrite (qp : BitVec 18) (m : Msg)
  /-- OBJ_READ (R316): Ikiotte message that reads a host object to host memory by RDMA WRITE. -/
  | objRead (qp : BitVec 18) (m : Msg)
  /-- OBJ_DELETE (R316): Ikiotte message that deletes a host object. -/
  | objDelete (qp : BitVec 18) (m : Msg)
  /-- CREATE_QP (R311): Ikiotte message that creates a queue pair with its role, and returns its number and start PSN. -/
  | createQp (qp : BitVec 18) (m : Msg)
  /-- DESTROY_QP (R325): Ikiotte message that destroys a queue pair, optionally by force. -/
  | destroyQp (qp : BitVec 18) (m : Msg)
  /-- BIND_FAST (R322): Ikiotte message that binds a fast queue pair to a tile queue. -/
  | bindFast (qp : BitVec 18) (m : Msg)
  /-- UNBIND_FAST (R325): Ikiotte message that unbinds a fast queue pair. -/
  | unbindFast (qp : BitVec 18) (m : Msg)
  /-- CANCEL (R325): Ikiotte message that stops a target request at its next boundary with E_ABORT. -/
  | cancel (qp : BitVec 18) (m : Msg)
  /-- FAST_PATH_REQUEST (R323): A SEND on a fast queue pair is served by the bound tile program, or by Gulkutik after a miss. -/
  | fastPathRequest (qp : BitVec 18) (payload : List Byte) (ce : Bool)
  /-- RDMA_WRITE_RECEIVED (R312): A host RDMA WRITE is placed in a device region, or refused with a remote-access NAK. -/
  | rdmaWriteReceived (qp : BitVec 18) (rkey : BitVec 32) (va : BitVec 64) (data : List Byte) (ce : Bool)
  /-- RDMA_READ_REQUEST (R312): A host RDMA READ of a device region is answered. -/
  | rdmaReadRequest (qp : BitVec 18) (rkey : BitVec 32) (va : BitVec 64) (len : BitVec 32) (ce : Bool)
  /-- RDMA_READ_RESPONSE (R316): Host data arrives for a device-issued RDMA READ. -/
  | rdmaReadResponse (k : BitVec 64) (data : List Byte)
  /-- MGMT_WINDOW_ACCESS (R313): A RETH access on queue pair 1 reaches control space or semaphore memory, 8 bytes at a time. -/
  | mgmtWindowAccess (addr : BitVec 64) (op : WindowOp)
  /-- SPDM_MESSAGE (R436): A SEND with immediate 5 on queue pair 1 carries one SPDM message. -/
  | spdmMessage (m : Spdm)
  /-- ACK_TIMEOUT (R305): A RoCE ACK timeout expires and go-back-N retransmission follows. -/
  | ackTimeout (qp : BitVec 18)
  /-- RNR_NAK_RECEIVED (R319): A response is refused for want of a receive and is retried, or the queue pair enters ERROR. -/
  | rnrNakReceived (qp : BitVec 18)
  /-- CNP_RECEIVED (R305): A congestion notification halves the queue pair's send rate. -/
  | cnpReceived (qp : BitVec 18)
  /-- RATE_INCREASE (R305): An increase_period without a notification raises the send rate by rate_ai. -/
  | rateIncrease (qp : BitVec 18)
  /-- NEIGHBOUR_REQUEST (R305): An ARP or IPv6 neighbour-discovery request is answered. -/
  | neighbourRequest (p : Fin 4) (v6 : Bool) (hi lo : Word)
  /-- CONTEXT_FILL (R308): A queue-pair context miss completes its fetch, and the waiting packets proceed. -/
  | contextFill (qp : BitVec 18)
  /-- ETH_LINK_UP (R326): An Ethernet port link comes up and takes its port configuration. -/
  | ethLinkUp (p : Fin 4)
  /-- ETH_LINK_DOWN (R327): An Ethernet port link goes down. -/
  | ethLinkDown (p : Fin 4)
  /-- FS_RING_TAIL_WRITE (R233): A write of FS_RING_TAIL submits Foreshore jobs, or is ignored with RING_OVERRUN. -/
  | fsRingTailWrite (h : Fin 2) (v : Word)
  /-- FS_JOB_START (R231): A Foreshore engine starts the next job in ring order after its checks and any context wait. -/
  | fsJobStart (h : Fin 2)
  /-- FS_JOB_COMPLETE (R232): A Foreshore job completes, commits its context, post ADD and record, and advances the head. -/
  | fsJobComplete (h : Fin 2) (e : HwEnd) (wm : Nat) (ecc : Bool)
  /-- FS_ABORT (R234): FS_CTRL.abort aborts the running job with E_ABORT. -/
  | fsAbort (h : Fin 2)
  /-- HB_FLUSH (R261): HB_CTRL.flush writes back every dirty line of the half. -/
  | hbFlush (h : Fin 2)
  /-- FLUSH_DONE (R263): A Harbour flush completes. -/
  | flushDone (h : Fin 2)
  /-- HB_REGION_WRITE (R246): A Harbour region register write affects accesses accepted after it. -/
  | hbRegionWrite (h : Fin 2) (n : Fin 16) (size : Bool) (v : Word)
  /-- ATOMIC (R247): A service core performs an atomic operation on an 8-byte word at its home slice. -/
  | atomic (op : AtomicOp) (a : Word) (v cmp : Word)
  /-- WC_FLUSH (R249): A write-combining entry is flushed on full cover, replacement or age timeout. -/
  | wcFlush (k : Fin 12)
  /-- PREFETCH_FILL (R257): A prefetch fill completes and the line takes one of four outcomes. -/
  | prefetchFill (h : Fin 2) (c : Fin 36) (o : Prefetch) (line : Nat)
  /-- REGULATOR_WINDOW (R253): A new 256-fabric-cycle regulator window begins and the ceiling buckets refill. -/
  | regulatorWindow (b : Fin 6)
  /-- HBM_REG_CLASS_WRITE (R254): A regulator write takes effect at the next window on both pages of the bay, or is ignored. -/
  | hbmRegClassWrite (k : Fin 12) (n : Fin 4) (v : Word)
  /-- SCRUB (R239): Hardware scrubs Ledge and HBM4 using idle port cycles. -/
  | scrub (a : Word) (f : Scrubbed)
  /-- CXL_HOT_ADD (R271): A CXL decoder is brought up through PROBED to ONLINE, and the pool adds its capacity. -/
  | cxlHotAdd (src : CxlSource) (t : CxlTrain)
  /-- CXL_HOT_REMOVE (R272): Managed hot-remove drains, migrates, fences and turns off a CXL decoder. -/
  | cxlHotRemove (src : CxlSource)
  /-- CXL_LINK_DOWN (R273): A CXL link goes down without a managed removal, and its decoders are fenced. -/
  | cxlLinkDown (p : Fin 2)
  /-- CLIFF_RING_TAIL_WRITE (R288): A write of CLIFF_RING_TAIL submits object commands under the ring write rules. -/
  | cliffRingTailWrite (v : Word)
  /-- CREATE (R280): Cliff object command 1: creates an object. -/
  | create
  /-- WRITE (R276): Cliff object command 2: programs and journals units of an object. -/
  | write
  /-- READ (R282): Cliff object command 3: reads units of an object. -/
  | read
  /-- DELETE (R282): Cliff object command 4: deletes an object once earlier commands complete. -/
  | delete
  /-- CLIFF_COMMAND_COMPLETE (R281): A Cliff command completes with post ADD and record, and the head advances. -/
  | cliffCommandComplete (e : HwEnd) (wm rebuilt : Nat)
  /-- CLIFF_HOUSEKEEPING (R278): Garbage collection, relocation or retention rewrite runs in slack water or in the foreground. -/
  | cliffHousekeeping (k : Housekeep) (low : Bool) (mean top spare : BitVec 16)
  /-- TIDEWAY_DATA_FRAME (R333): A Tideway DATA frame is received, CRC-checked and delivered, or answered with a negative acknowledgement. -/
  | tidewayDataFrame (p : Fin 16) (f : TwFrame) (crcOk : Bool)
  /-- TIDEWAY_CONTROL_FRAME (R333): A Tideway CONTROL frame carrying acknowledgement, credit, abort or commit token is received. -/
  | tidewayControlFrame (p : Fin 16) (k : TwControl)
  /-- TIMING_EXCHANGE (R338): Every 1 ms a port exchanges TIMING frames and updates delay, offset and any followed discipline. -/
  | timingExchange (p : Fin 16) (delay : BitVec 24) (off : Word)
  /-- REMOTE_SEMAPHORE_FRAME (R346): A SEMAPHORE frame applies a remote ADD, SUB or fault to a global semaphore. -/
  | remoteSemaphoreFrame (p : Fin 16) (op : TwSem) (index : BitVec 16) (amount : BitVec 48)
  /-- REPLAY_TIMEOUT (R334): An unacknowledged frame times out and is replayed by go-back-N. -/
  | replayTimeout (p : Fin 16)
  /-- WAVELENGTH_FAIL (R336): A failed wavelength moves its lane to the spare, or the port degrades. -/
  | wavelengthFail (p : Fin 16) (w : Fin 5)
  /-- LINK_TIMEOUT (R334): A retraining port is not UP within link_timeout, and its operations fail with E_LINK. -/
  | linkTimeout (p : Fin 16)
  /-- TIDEWAY_LINK_UP (R339): A Tideway port trains up and checks its neighbour's identity. -/
  | tidewayLinkUp (p : Fin 16) (id : BitVec 32)
  /-- RECALIBRATION (R337): A wavelength is recalibrated on period or temperature change in slack water. -/
  | recalibration (p : Fin 16) (w : Fin 5)
  /-- LASER_DRAIN (R331): laser_op 1 moves a laser source module's ports to their secondary source. -/
  | laserDrain (m : Fin 4)
  /-- LASER_RESTORE (R331): laser_op 2 moves ports back to a present laser source module. -/
  | laserRestore (m : Fin 4)
  /-- LASER_FAILURE (R332): A laser source module fails or is removed without a drain, and its ports switch to the secondary source. -/
  | laserFailure (m : Fin 4) (removed : Bool)
  /-- LASER_INSERT (R484): A laser source module is inserted. -/
  | laserInsert (m : Fin 4) (output : BitVec 16) (temp : BitVec 8)
  /-- TW_RING_TAIL_WRITE (R341): A write of a collective ring tail submits descriptors. -/
  | twRingTailWrite (ring : Fin 8) (v : Word)
  /-- ALL_REDUCE (R342): Collective op 1: reduce-scatter, then gather the rounded chunks to every member. -/
  | allReduce (ring : Fin 8)
  /-- REDUCE_SCATTER (R343): Collective op 2: reduces chunks round the ring to their owners. -/
  | reduceScatter (ring : Fin 8)
  /-- ALL_GATHER (R342): Collective op 3: every rank's source lands in every member's destination. -/
  | allGather (ring : Fin 8)
  /-- BROADCAST (R342): Collective op 4: the root's source lands in every member. -/
  | broadcast (ring : Fin 8)
  /-- MULTICAST (R342): Collective op 5: one-sided write of the source to named peers' arrival windows. -/
  | multicast (ring : Fin 8)
  /-- PERMUTE (R349): Collective op 6: reshards in place through prepare, decision and commit. -/
  | permute (ring : Fin 8)
  /-- PERMUTE_RESOLVE_COMMIT (R350): PERMUTE with resolve 1 commits an in-doubt reshard from staging. -/
  | permuteResolveCommit (ring : Fin 8)
  /-- PERMUTE_RESOLVE_DISCARD (R350): PERMUTE with resolve 2 releases the staging of an in-doubt reshard. -/
  | permuteResolveDiscard (ring : Fin 8)
  /-- COLLECTIVE_START (R344): A checked collective starts once start_sem reaches its value. -/
  | collectiveStart (ring : Fin 8)
  /-- COLLECTIVE_COMPLETE (R345): A collective completes at a member with visibility, acknowledgements, post ADD and record. -/
  | collectiveComplete (ring : Fin 8) (e : HwEnd)
  /-- SEM_RESET (R385): Writing SEM_RESET sets a semaphore to SEM_RESET_VALUE and clears faulted and saturated. -/
  | semReset (v : Word)
  /-- SPARE_CORE_SWAP (R388): A logical core is drained and its state copied to the bay's spare. -/
  | spareCoreSwap (c : Fin 36) (owner : Fin 3)
  /-- SWAP_DONE (R388): The logical core, window and pages move to the spare, the old core powers off and queues continue. -/
  | swapDone
  /-- PC_RETIREMENT (R391): An HBM4 pseudo-channel is copied to a spare image and switched over. -/
  | pcRetirement (k : Fin 12) (pc : Fin 64)
  /-- PC_RETIRED (R391): A pseudo-channel's granules are switched to the spare and PC_RETIRED is raised. -/
  | pcRetired
  /-- FW_ACTIVATE (R395): FW_CTRL op 1 activates a component's inactive firmware bank. -/
  | fwActivate (n : Fin 8) (target : Fin 64) (formatOk : Bool)
  /-- FW_REVERT (R398): FW_CTRL op 2 reverts a component to its previous bank. -/
  | fwRevert (n : Fin 8) (target : Fin 64)
  /-- FW_SWAP (R395): A component's firmware swaps banks at its swap boundary. -/
  | fwSwap (n : Fin 5)
  /-- FW_HEALTH_TIMEOUT (R396): A new image has not declared itself healthy within 1 s and the component reverts. -/
  | fwHealthTimeout (n : Fin 5)
  /-- ORDERLY_HALT (R378): A device-fatal error stops all work, faults semaphores, sends responses and enters Dry. -/
  | orderlyHalt (page : BitVec 14)
  /-- CORRECTED_RECORD_FLUSH (R379): A Corrected record is written 1 ms after its first folded fault. -/
  | correctedRecordFlush
  /-- ERR_RING_BASE_WRITE (R380): A write of ERR_RING_BASE redirects records to a new ring and copies the held buffer. -/
  | errRingBaseWrite (v : Word)
  /-- ROLL_NODE_LIMIT_WRITE (R215): A write of ROLL_NODE_LIMIT evicts prefix-tree nodes until the count fits. -/
  | rollNodeLimitWrite (v : Word)
  /-- ENTER_DRY (R402): A requested Dry entry drains, ends work with E_POWER, self-refreshes HBM4 and turns the rails off. -/
  | enterDry (mctp : Bool)
  /-- NEAP_FORCE (R402): PWR_CTRL.neap_force holds or releases Neap. -/
  | neapForce (on : Bool)
  /-- CLEAR_STOP (R409): PWR_CTRL.clear_stop over MCTP clears the hard-stop latch. -/
  | clearStop (safe : Bool)
  /-- CORE_SLACK_ENTRY (R402): A core with no ready queue for slack_delay enters Slack. -/
  | coreSlackEntry (c : Fin 36)
  /-- BREAKWATER_REQUEST (R403): A current step is requested from Breakwater and becomes pending. -/
  | breakwaterRequest (k : BwKind) (msg : Option (BitVec 64))
  /-- RAMP_END (R403): A Breakwater ramp ends and the highest-class pending request is granted. -/
  | rampEnd
  /-- RULE_FIRE (R412): A Tidewatch rule row fires after its duration and its action takes effect. -/
  | ruleFire (r : Fin 64) (samples : List (BitVec 32)) (unit : BitVec 16)
  /-- RULE_RELEASE (R412): A fired rule row is released after its clear duration or at Dry entry. -/
  | ruleRelease (r : Fin 64) (samples : List (BitVec 32)) (unit : BitVec 16)
  /-- HARD_STOP (R409): ESTOP_N, a 115 °C sensor or overvoltage stops clocks and rails in hardware. -/
  | hardStop (cause : StopCause)
  /-- WAKE_N (R402): WAKE_N held low wakes the device from Dry. -/
  | wakeN
  /-- STANDBY_LOSS (R408): Standby is lost, Tidewatch writes its records and stops, and service continues in Neap. -/
  | standbyLoss (main : Bool)
  /-- STANDBY_RETURN (R408): Standby returns, Tidewatch restarts from MRAM and takes the count. -/
  | standbyReturn (complete : Bool)
  /-- COLD_BOOT (R428): After main power has been valid for 10 ms, the full boot runs with HBM4 zeroed. -/
  | coldBoot (f : BootFound)
  /-- DRY_EXIT (R429): A wake from Dry boots with HBM4 kept and checks Gulkutik's table digest. -/
  | dryExit (f : BootFound)
  /-- REG_READ (R433): Vendor MCTP command 0x01: returns 8 bytes of control space. -/
  | regRead (addr : BitVec 64)
  /-- REG_WRITE (R433): Vendor MCTP command 0x02: writes a register with management permission. -/
  | regWrite (addr : BitVec 64) (v : Word) (safe : Bool)
  /-- SET_MGMT_QP (R433): Vendor MCTP command 0x03: sets up queue pair 1. -/
  | setMgmtQp (p : Fin 4) (ip : BitVec 128) (qpn psn : BitVec 24)
  /-- POWER_WAKE (R433): Vendor MCTP POWER op 0: wakes the device from Dry. -/
  | powerWake
  /-- EMERGENCY_STOP (R409): Vendor MCTP POWER op 2: orderly halt with E_POWER. -/
  | emergencyStop
  /-- OWNER_WRITE (R425): Vendor MCTP command 0x05: writes a new ownership record for the next boot. -/
  | ownerWrite (off : BitVec 32) (piece : List Byte)
  /-- DEBUG_TOKEN (R437): Vendor MCTP command 0x06: arms debug unlock for the next boot. -/
  | debugToken (token : List Byte)
  /-- BOOT_STATUS (R433): Vendor MCTP command 0x07: returns SEC_STAT, failing check, serial number and nonce. -/
  | bootStatus
  /-- PLDM_FIRMWARE_UPDATE (R432): PLDM type 5 writes a component's inactive bank and activates it. -/
  | pldmFirmwareUpdate (n : Fin 8) (img : List Byte) (formatOk : Bool)
  /-- PLDM_FILE_READ (R432): PLDM type 7 reads Tidewatch MRAM as a read-only file. -/
  | pldmFileRead (off len : BitVec 20)
  /-- PLDM_SENSOR_READ (R432): PLDM type 2 reads a Tidewatch channel as a numeric sensor. -/
  | pldmSensorRead (c : Fin 128)
  /-- GET_MEASUREMENTS (R435): SPDM request that returns signed measurements of the active banks and records. -/
  | getMeasurements (window : Bool) (i : Fin 256) (nonce : List Byte)
  /-- CHALLENGE (R434): SPDM request that is answered with a signature by the alias key. -/
  | challenge (window : Bool) (slot : Fin 8) (nonce : List Byte)
  /-- GET_CERTIFICATE (R434): SPDM request that returns a certificate chain slot. -/
  | getCertificate (window : Bool) (slot : Fin 8) (off len : BitVec 16)
  /-- NEGOTIATE_ALGORITHMS (R434): SPDM request that negotiates algorithms, or receives ERROR without the Huaris algorithm. -/
  | negotiateAlgorithms (window huaris : Bool)
  /-- SELF_TEST_SLICE (R444): A LOGIC or MEMORY slice starts on an idle core in slack water after its Breakwater grant. -/
  | selfTestSlice (p : Fin 42) (kind : SliceKind)
  /-- SLICE_COMPLETE (R447): A slice finishes and its result passes or fails the unit. -/
  | sliceComplete (p : Fin 42) (pass : Bool)
  /-- SLICE_ABORT (R446): A slice aborts and restores the core within 256 cycles. -/
  | sliceAbort (p : Fin 42)
  /-- FULL_TEST (R449): ST_CTRL.full_test runs the boot battery in service on drained blocks. -/
  | fullTest
  /-- ST_FULL_DONE (R449): The full test ends and blocks stay DRAINED until RESUME. -/
  | stFullDone (bad : Battery)
  /-- MARGIN_SWEEP (R452): ST_MARGIN_CTRL op 1 runs an HBM4 margin sweep or a link eye read. -/
  | marginSweep (x : MarginStep)
  /-- LOOPBACK (R451): ST_MARGIN_CTRL op 2 runs a PRBS31 loopback of a disabled port. -/
  | loopback (x : MarginStep)
  /-- REFERENCE_CHECK (R450): Every second Tidewatch checks temperature sensors, rail monitors and clocks. -/
  | referenceCheck (bad : Option RefFail)
  /-- FW_HEALTH_DECLARED (R396): A newly swapped firmware image declares itself healthy within 1 s, the swap stands and, with raise_floor set, the component's rollback floor is raised in the field record. -/
  | fwHealthDeclared (n : Fin 5)
  /-- ACK_RECEIVED (R305): A RoCEv2 acknowledgement or negative acknowledgement from the host retires the device's sent packets, or triggers go-back-N retransmission. -/
  | ackReceived (qp : BitVec 18) (psn : BitVec 24) (kind : AckKind)
  /-- PFC_PAUSE_RECEIVED (R305): An IEEE 802.1Qbb PFC pause frame on a priority in pfc_rx_mask pauses, or its expiry resumes, transmission on that priority. -/
  | pfcPauseReceived (p : Fin 4) (prio : Fin 8) (on : Bool)
  /-- FRAME_DROPPED (R310): A received frame longer than 4,200 B, a non-RoCE non-PTP frame, or a packet to queue pair 0 is dropped and counted in EST_DROPPED. -/
  | frameDropped (p : Fin 4)
  /-- TEMP_HIGH (R242): An HBM4 stack's temperature crosses 85 °C, halving or restoring its refresh interval, setting HBM_STAT.temp_high and raising TEMP_HIGH. -/
  | tempHigh (k : Fin 12) (t : Fin 256)
  /-- LASER_DRAINED (R331): The last port of a drained laser source module is moved to its secondary source, the module becomes DRAINED and LASER_DRAINED is raised. -/
  | laserDrained (m : Fin 4)
  deriving DecidableEq, Repr

end Sys2Proof
end

