-- ==== Sys2Proof/Decode.lean ====
section
/-! DEFINITION. The commands that a word spells. The block takes commands from outside and has no instruction decoder of
its own: no row of the opcode table gives bits, so no word spells a command (notes/assumptions/1.md). The tile
instructions that a core fetches from memory are decoded in Machine/Wire.lean. -/

namespace Sys2Proof

/-- The command that a word spells by the table's bits: none, for no row has bits. -/
def decodeTableWord (_nbits _w : Nat) : Option Instr := none

end Sys2Proof
end

