-- ==== Sys2Proof/Machine/Fmt.lean ====
section
/-! DEFINITION. The number formats of Kamurfold, their exact values, and every conversion and rounding between them
(R36 to R56). A value is held exactly, as a sign, a whole number and a power of two. -/

namespace Sys2Proof.Machine

/-- The bits [hi:lo] of a word, as a number. -/
def bits (w : Word) (hi lo : Nat) : Nat := (w.toNat >>> lo) % 2 ^ (hi + 1 - lo)

/-- One bit of a word. -/
def bit1 (w : Word) (i : Nat) : Bool := w.getLsbD i

/-- A number read as two's complement in `w` bits. -/
def toSigned (w n : Nat) : Int := if n % 2 ^ w < 2 ^ (w - 1) then (n % 2 ^ w : Nat) else (n % 2 ^ w : Nat) - 2 ^ w

/-- The number formats of R36; X96 is the storage form of the exact accumulator. -/
inductive Fmt | fp32 | bf16 | fp16 | e4m3 | e5m2 | e2m1 | int8 | int4 | x96
  deriving DecidableEq, Repr

/-- The format a 4-bit code names; codes 0x8 to 0xD and 0xF are reserved (R36). -/
def Fmt.ofCode (n : Nat) : Option Fmt :=
  match n with
  | 0 => some .fp32 | 1 => some .bf16 | 2 => some .fp16 | 3 => some .e4m3 | 4 => some .e5m2
  | 5 => some .e2m1 | 6 => some .int8 | 7 => some .int4 | 14 => some .x96 | _ => none

/-- The width of an element in bits (R36). -/
def Fmt.width : Fmt → Nat
  | .fp32 => 32 | .bf16 => 16 | .fp16 => 16 | .e4m3 => 8 | .e5m2 => 8 | .e2m1 => 4 | .int8 => 8 | .int4 => 4 | .x96 => 96

/-- Two elements share a byte (R40). -/
def Fmt.packed (f : Fmt) : Bool := f.width == 4

/-- Fraction bits of a floating-point format (R36). -/
def Fmt.frac : Fmt → Nat
  | .fp32 => 23 | .bf16 => 7 | .fp16 => 10 | .e4m3 => 3 | .e5m2 => 2 | .e2m1 => 1 | _ => 0

/-- Exponent bias of a floating-point format (R36). -/
def Fmt.bias : Fmt → Nat
  | .fp32 => 127 | .bf16 => 127 | .fp16 => 15 | .e4m3 => 7 | .e5m2 => 15 | .e2m1 => 1 | _ => 0

/-- The largest finite encoding, its sign bit clear (R37). -/
def Fmt.maxFinite : Fmt → Nat
  | .fp32 => 0x7F7FFFFF | .bf16 => 0x7F7F | .fp16 => 0x7BFF | .e4m3 => 0x7E | .e5m2 => 0x7B | .e2m1 => 7
  | .int8 => 127 | .int4 => 7 | .x96 => 0

/-- The canonical NaN (R37); an integer format takes 0 for a NaN (R42). -/
def Fmt.canonNan : Fmt → Nat
  | .fp32 => 0x7FC00000 | .bf16 => 0x7FC0 | .fp16 => 0x7E00 | .e4m3 => 0x7F | .e5m2 => 0x7E | _ => 0

/-- A value, held exactly: NaN, an infinity, or plus or minus m times 2^e, with the sign of a zero kept (R38). -/
inductive FVal
  | nan
  | inf (neg : Bool)
  | fin (neg : Bool) (m : Nat) (e : Int)
  deriving DecidableEq, Repr

/-- Plus zero, where every sum starts (R38). -/
def FVal.zero : FVal := .fin false 0 0

/-- The exact value of a whole number. -/
def FVal.ofInt (i : Int) : FVal := .fin (decide (i < 0)) i.natAbs 0

/-- The value an encoding stands for (R36, R37). -/
def Fmt.decode (f : Fmt) (b : Nat) : FVal :=
  match f with
  | .int8 => FVal.ofInt (toSigned 8 b)
  | .int4 => FVal.ofInt (toSigned 4 b)
  | .x96 => .nan
  | _ =>
    let n := b % 2 ^ f.width
    let neg := decide (2 ^ (f.width - 1) ≤ n)
    let mag := n % 2 ^ (f.width - 1)
    let ex := mag >>> f.frac
    let fr := mag % 2 ^ f.frac
    if mag ≤ f.maxFinite then
      if ex = 0 then .fin neg fr (1 - (f.bias : Int) - f.frac)
      else .fin neg (2 ^ f.frac + fr) ((ex : Int) - f.bias - f.frac)
    else if f ≠ .e4m3 ∧ fr = 0 then .inf neg else .nan

/-- Sign change. -/
def FVal.negate : FVal → FVal
  | .nan => .nan
  | .inf n => .inf (!n)
  | .fin n m e => .fin (!n) m e

/-- The exact sum; opposite infinities give NaN, and a zero is -0 only when both terms are (R38, R54). -/
def FVal.add (x y : FVal) : FVal :=
  match x, y with
  | .nan, _ => .nan
  | _, .nan => .nan
  | .inf a, .inf b => if a = b then .inf a else .nan
  | .inf a, .fin _ _ _ => .inf a
  | .fin _ _ _, .inf b => .inf b
  | .fin n1 m1 e1, .fin n2 m2 e2 =>
    let e := min e1 e2
    let a : Int := (m1 * 2 ^ (e1 - e).toNat : Nat)
    let b : Int := (m2 * 2 ^ (e2 - e).toNat : Nat)
    let s := (if n1 then -a else a) + (if n2 then -b else b)
    if s = 0 then .fin (n1 && n2) 0 0 else .fin (decide (s < 0)) s.natAbs e

/-- The exact difference. -/
def FVal.sub (x y : FVal) : FVal := x.add y.negate

/-- The exact product; zero times an infinity gives NaN (R50, R54). Two infinities give the infinity of the product's sign, as
IEEE 754 does: R50 names only an infinity with a finite operand for the exact pairs (DEDUCED, notes/assumptions/65.md). -/
def FVal.mul (x y : FVal) : FVal :=
  match x, y with
  | .nan, _ => .nan
  | _, .nan => .nan
  | .inf a, .inf b => .inf (a != b)
  | .inf a, .fin n m _ => if m = 0 then .nan else .inf (a != n)
  | .fin n m _, .inf b => if m = 0 then .nan else .inf (n != b)
  | .fin n1 m1 e1, .fin n2 m2 e2 => .fin (n1 != n2) (m1 * m2) (e1 + e2)

/-- The value is below the other, -0 ordering below +0 (R126). NaN is below nothing. -/
def FVal.lt (x y : FVal) : Bool :=
  match x, y with
  | .nan, _ => false
  | _, .nan => false
  | .inf a, .inf b => a && !b
  | .inf a, .fin _ _ _ => a
  | .fin _ _ _, .inf b => !b
  | .fin n1 m1 e1, .fin n2 m2 e2 =>
    let e := min e1 e2
    let a : Int := (m1 * 2 ^ (e1 - e).toNat : Nat)
    let b : Int := (m2 * 2 ^ (e2 - e).toNat : Nat)
    let a := if n1 then -a else a
    let b := if n2 then -b else b
    decide (a < b) || (decide (a = b) && n1 && !n2)

/-- IEEE 754 maximum: a NaN operand gives NaN (R126). -/
def FVal.max (x y : FVal) : FVal :=
  if x = .nan ∨ y = .nan then .nan else if x.lt y then y else x

/-- IEEE 754 minimum (R126). -/
def FVal.min (x y : FVal) : FVal :=
  if x = .nan ∨ y = .nan then .nan else if y.lt x then y else x

/-- The value is NaN. -/
def FVal.isNan (x : FVal) : Bool := x == .nan

/-- The value is a zero of either sign. -/
def FVal.isZero : FVal → Bool
  | .fin _ m _ => m == 0
  | _ => false

/-- The rounding modes of R41; code 3 is reserved. -/
inductive Rnd | rne | rtz | sr
  deriving DecidableEq, Repr

/-- The mode a 2-bit code names (R41). -/
def Rnd.ofCode (n : Nat) : Option Rnd :=
  match n with
  | 0 => some .rne | 1 => some .rtz | 2 => some .sr | _ => none

/-- Rounds the whole part t of a magnitude whose remainder is r out of q, by the mode; u is the element's 24-bit
random value (R41, R45). -/
def roundUp (rnd : Rnd) (u t r q : Nat) : Nat :=
  match rnd with
  | .rne => if 2 * r < q then t else if q < 2 * r then t + 1 else t + t % 2
  | .rtz => t
  | .sr => if r = 0 then t else if 2 ^ 24 ≤ r * 2 ^ 24 / q + u then t + 1 else t

/-- The whole part, the remainder and the divisor of p / q times 2^k. -/
def scaleDiv (p q : Nat) (k : Int) : Nat × Nat × Nat :=
  let p := p * 2 ^ k.toNat
  let q := q * 2 ^ (-k).toNat
  (p / q, p % q, q)

/-- The floor of the base-2 logarithm of p / q, both nonzero. -/
def log2Floor (p q : Nat) : Int :=
  let g : Int := (Nat.log2 p : Int) - Nat.log2 q
  if q * 2 ^ g.toNat ≤ p * 2 ^ (-g).toNat then g else g - 1

/-- The encoding, sign bit clear, of the magnitude p / q times 2^e rounded to a floating-point format as if its
exponent range were unbounded above (R42). -/
def Fmt.roundMag (f : Fmt) (rnd : Rnd) (u p q : Nat) (e : Int) : Nat :=
  if p = 0 then 0 else
  let emin : Int := 1 - (f.bias : Int) - f.frac
  let ulp := max (log2Floor p q + e - f.frac) emin
  let (t, r, d) := scaleDiv p q (e - ulp)
  (ulp - emin).toNat * 2 ^ f.frac + roundUp rnd u t r d

/-- What an overflow gives, sign bit clear (the table of R42). -/
def Fmt.overflow (f : Fmt) (rnd : Rnd) (sat8 : Bool) : Nat :=
  match f with
  | .e4m3 => if sat8 || rnd == .rtz then 0x7E else 0x7F
  | .e5m2 => if sat8 || rnd == .rtz then 0x7B else 0x7C
  | .fp32 => if rnd == .rtz then f.maxFinite else 0x7F800000
  | .bf16 => if rnd == .rtz then f.maxFinite else 0x7F80
  | .fp16 => if rnd == .rtz then f.maxFinite else 0x7C00
  | _ => f.maxFinite

/-- What an infinity gives, sign bit clear (the table of R42). -/
def Fmt.infinity (f : Fmt) (sat8 : Bool) : Nat :=
  match f with
  | .e4m3 => if sat8 then 0x7E else 0x7F
  | .e5m2 => if sat8 then 0x7B else 0x7C
  | .fp32 => 0x7F800000
  | .bf16 => 0x7F80
  | .fp16 => 0x7C00
  | _ => f.maxFinite

/-- A magnitude with its sign bit, the canonical NaN of E4M3 keeping none (R38). -/
def Fmt.signed (f : Fmt) (neg : Bool) (mag : Nat) : Nat :=
  if neg && !(f == .e4m3 && mag == 0x7F) then mag + 2 ^ (f.width - 1) else mag

/-- Saturates a whole number to the range of a two's-complement format and encodes it (R42). -/
def Fmt.satInt (f : Fmt) (i : Int) : Nat :=
  let hi : Int := f.maxFinite
  let lo : Int := -hi - 1
  (((if hi < i then hi else if i < lo then lo else i) % 2 ^ f.width).toNat)

/-- Converts the exact value plus or minus p / q times 2^e to a format by a mode (R41, R42, R45). -/
def Fmt.encodeQ (f : Fmt) (rnd : Rnd) (sat8 : Bool) (u : Nat) (neg : Bool) (p q : Nat) (e : Int) : Nat :=
  match f with
  | .int8 | .int4 =>
    let (t, r, d) := scaleDiv p q e
    let i : Int := (roundUp rnd u t r d : Nat)
    f.satInt (if neg then -i else i)
  | _ =>
    let mag := f.roundMag rnd u p q e
    f.signed neg (if f.maxFinite < mag then f.overflow rnd sat8 else mag)

/-- Converts a value to a format by a mode (R41 to R45). -/
def Fmt.encode (f : Fmt) (rnd : Rnd) (sat8 : Bool) (u : Nat) (x : FVal) : Nat :=
  match x with
  | .nan => f.canonNan
  | .inf neg =>
    match f with
    | .int8 | .int4 => f.satInt (if neg then -1000 else 1000)
    | _ => f.signed neg (f.infinity sat8)
  | .fin neg m e => f.encodeQ rnd sat8 u neg m 1 e

/-- The FP32 pattern of a value, rounded to nearest with ties to even. -/
def rne32 (x : FVal) : BitVec 32 := BitVec.ofNat 32 (Fmt.fp32.encode .rne false 0 x)

/-- The value of an FP32 pattern. -/
def f32 (b : BitVec 32) : FVal := Fmt.fp32.decode b.toNat

/-- A value rounded to FP32 by RNE. -/
def FVal.rne (x : FVal) : FVal := f32 (rne32 x)

/-- A value rounded to a format and read back. -/
def FVal.round (x : FVal) (f : Fmt) (rnd : Rnd) (sat8 : Bool) (u : Nat) : FVal := f.decode (f.encode rnd sat8 u x)

/-! ### The stochastic-rounding generator (R46) -/

/-- The mixing function of R46. -/
def srMix (z : Word) : Word :=
  let z := (z ^^^ (z >>> 30)) * 0xBF58476D1CE4E5B9#64
  let z := (z ^^^ (z >>> 27)) * 0x94D049BB133111EB#64
  z ^^^ (z >>> 31)

/-- The 24-bit random value of an element, from the seed, the step, the 16-bit tag and the 48-bit logical index
(R46). -/
def srBits (seed step : Word) (tag index : Nat) : Nat :=
  let key := srMix (seed ^^^ (step * 0x9E3779B97F4A7C15#64))
  let ctr := (BitVec.ofNat 64 (tag % 2 ^ 16) <<< 48) ||| BitVec.ofNat 64 (index % 2 ^ 48)
  ((srMix (key ^^^ ctr)) >>> 40).toNat

/-! ### E2M1 blocks (R39, R43) -/

/-- An E2M1 element times its block scale; the scale byte 0xFF marks NaN (R39). -/
def e2m1Value (scale el : Nat) : FVal :=
  if scale = 0xFF then .nan else (Fmt.e2m1.decode el).mul (.fin false 1 ((scale : Int) - 127))

/-- The scale byte of a block of values (R43). -/
def e2m1Scale (xs : List FVal) : Nat :=
  if xs.any (fun x => match x with | .fin _ _ _ => false | _ => true) then 0xFF
  else
    let a := xs.foldl (fun a x => match x with | .fin _ m e => a.max (.fin false m e) | _ => a) FVal.zero
    match a with
    | .fin _ m e => if m = 0 then 0 else (max (-127) (min 127 (log2Floor m 1 + e - 2)) + 127).toNat
    | _ => 0xFF

/-- One element of a block converted to E2M1 under a scale byte (R43); u is its random value. -/
def e2m1Element (rnd : Rnd) (u scale : Nat) (x : FVal) : Nat :=
  match x with
  | .fin neg m e =>
    if scale = 0xFF then 0
    else if m = 0 then (if neg then 8 else 0)
    else Fmt.e2m1.encodeQ rnd false u neg m 1 (e - ((scale : Int) - 127))
  | _ => 0

/-! ### The exact accumulator (R49 to R53) -/

/-- The operand pairs of R48 and how their products are summed. -/
inductive PairKind | exact | e2m1 | fp
  deriving DecidableEq, Repr

/-- The kind of an operand pair, or none for a pair that R48 does not list. -/
def pairKind (a w : Fmt) : Option PairKind :=
  match a, w with
  | .e4m3, .e4m3 | .e4m3, .e5m2 | .e5m2, .e4m3 | .e5m2, .e5m2 => some .exact
  | .int8, .int8 | .int8, .int4 | .int4, .int8 | .int4, .int4 => some .exact
  | .e2m1, .e2m1 => some .e2m1
  | .bf16, .bf16 | .fp16, .fp16 | .fp32, .fp32 => some .fp
  | _, _ => none

/-- Both operands are 4-bit: 128 K rows in a weight block (R59). -/
def pair4 (a w : Fmt) : Bool := a.packed && w.packed

/-- An exact-accumulation element (R49): bits [91:0] the value, 92 NaN, 93 +infinity, 94 -infinity, 95 saturated. -/
abbrev X96 := BitVec 96

/-- The value of an element, in units of 2^-32 (R49). -/
def X96.value (x : X96) : Int := toSigned 92 x.toNat

/-- The four flags, bit 0 NaN (R49). -/
def X96.flags (x : X96) : Nat := x.toNat >>> 92

/-- An element from its value and flags; a magnitude of 2^59 or more sets bit 95 (R52, R53). -/
def X96.make (v : Int) (flags : Nat) : X96 :=
  let sat := decide ((2 : Int) ^ 91 ≤ v.natAbs)
  BitVec.ofNat 96 ((v % 2 ^ 92).toNat + ((flags ||| (if sat then 8 else 0)) % 16) * 2 ^ 92)

/-- Adds two stored partials, ORing their flags (R53). -/
def X96.add (x y : X96) : X96 := X96.make (x.value + y.value) (x.flags ||| y.flags)

/-- The value an exact result rounds from (R51): a value of zero gives +0. -/
def X96.val (x : X96) : FVal :=
  let f := x.flags
  if f % 2 = 1 ∨ 8 ≤ f ∨ (f / 2 % 4 = 3) then .nan
  else if f / 2 % 2 = 1 then .inf false
  else if f / 4 % 2 = 1 then .inf true
  else .fin (decide (x.value < 0)) x.value.natAbs (-32)

/-! ### Accumulating along K (R50, R54, R55) -/

/-- Splits a list into pieces of n, the last possibly shorter. -/
def chunksOf {α : Type} (n : Nat) (xs : List α) : Nat → List (List α)
  | 0 => []
  | fuel + 1 => if xs.isEmpty then [] else xs.take n :: chunksOf n (xs.drop n) fuel

/-- The exact sum of a list of values, from +0 (R38). -/
def exactSum (xs : List FVal) : FVal := xs.foldl FVal.add FVal.zero

/-- Adds the exact column sum of one K block to an element, and ORs its flags (R66): the value is tested against 2^59 once, after
the block (R52). -/
def X96.addBlock (x : X96) (products : List FVal) : X96 :=
  let term (p : FVal) : Int × Nat := match p with
    | .nan => (0, 1)
    | .inf neg => (0, if neg then 4 else 2)
    | .fin neg m e =>
      let d : Int := (m * 2 ^ (e + 32).toNat / 2 ^ (-(e + 32)).toNat : Nat)
      (if neg then -d else d, 0)
  let sum := (products.map term).foldl (fun a t => (a.1 + t.1, a.2 ||| t.2)) ((0 : Int), 0)
  X96.make (x.value + sum.1) (x.flags ||| sum.2)

/-- One FP32 accumulator after the products of one chunk (R54). -/
def accChunk (acc : BitVec 32) (products : List FVal) : BitVec 32 := rne32 ((f32 acc).add (exactSum products))

/-- An accumulator element, 96 bits wide; an FP32 tile uses the low 32 (R67). After the products of one K block in ascending K,
by the kind of the operand pair: one exact column sum, one chunk of 64, or blocks of 32 (R66). -/
def accBlock (kind : PairKind) (acc : BitVec 96) (products : List FVal) : BitVec 96 :=
  match kind with
  | .exact => X96.addBlock acc products
  | .fp => (accChunk (acc.setWidth 32) products).setWidth 96
  | .e2m1 => ((chunksOf 32 products (products.length + 1)).foldl accChunk (acc.setWidth 32)).setWidth 96

/-- An accumulator element after the products of its K blocks in ascending order (R66, R105). -/
def accumulate (kind : PairKind) (acc : BitVec 96) (blocks : List (List FVal)) : BitVec 96 := blocks.foldl (accBlock kind) acc

/-- The value an accumulator element stands for at its drain (R51, R69). -/
def accVal (kind : PairKind) (acc : BitVec 96) : FVal :=
  match kind with
  | .exact => X96.val acc
  | _ => f32 (acc.setWidth 32)

/-- The sum of values in 64-element chunks: each chunk formed exactly and rounded once, the chunks combined in order
from +0 (R129). -/
def chunkSum (xs : List FVal) : FVal :=
  (chunksOf 64 xs (xs.length + 1)).foldl (fun acc c => (acc.add (exactSum c).rne).rne) FVal.zero

/-- The squares of values. -/
def squares (xs : List FVal) : List FVal := xs.map (fun x => x.mul x)

/-- The maximum of values in ascending order (R129); of no values, minus infinity. -/
def maxOf (xs : List FVal) : FVal := xs.foldl FVal.max (.inf true)

/-- The minimum of values (R129). -/
def minOf (xs : List FVal) : FVal := xs.foldl FVal.min (.inf false)

/-! ### Weight blocks (R59) -/

/-- K rows of a weight block of an operand pair (R59). -/
def blockK (a w : Fmt) : Nat := if pair4 a w then 128 else 64

/-- Bytes of a weight block, the scale bytes of E2M1 included (R59). -/
def blockBytes (a w : Fmt) : Nat := blockK a w * 64 * w.width / 8 + (if w = .e2m1 then 256 else 0)

end Sys2Proof.Machine
end

