-- ==== Sys2Proof/Machine/Fn.lean ====
section
/-! DEFINITION. The function units of R126: the exact value of each function at its FP32 operand, rounded to FP32 by
RNE, with the special inputs of its table. The value is carried to 640 fraction bits before it is rounded
(notes/assumptions/6.md). -/

namespace Sys2Proof.Machine

/-- Fraction bits of the fixed-point values of this file. -/
def fxBits : Nat := 640

/-- One in fixed point. -/
def fxOne : Nat := 2 ^ fxBits

/-- The integer square root, bit by bit from bit `fuel - 1`. -/
def isqrt (n : Nat) : Nat → Nat → Nat
  | 0, acc => acc
  | fuel + 1, acc => if (acc + 2 ^ fuel) * (acc + 2 ^ fuel) ≤ n then isqrt n fuel (acc + 2 ^ fuel) else isqrt n fuel acc

/-- The terms x^k / k! of the exponential series, in fixed point, added up. -/
def expSeries (x : Nat) : Nat → Nat → Nat → Nat → Nat
  | 0, _, _, sum => sum
  | fuel + 1, k, term, sum =>
    let t := term * x / fxOne / k
    expSeries x fuel (k + 1) t (sum + t)

/-- Squares a fixed-point value n times. -/
def fxSquare : Nat → Nat → Nat
  | 0, y => y
  | n + 1, y => fxSquare n (y * y / fxOne)

/-- e^x for a fixed-point x below 2^11, in fixed point. -/
def fxExp (x : Nat) : Nat := fxSquare 20 (expSeries (x / 2 ^ 20) 70 1 fxOne fxOne)

/-- The odd powers z^(2k+1) / (2k+1) of the inverse hyperbolic tangent, added up. -/
def atanhSeries (z2 : Nat) : Nat → Nat → Nat → Nat → Nat
  | 0, _, _, sum => sum
  | fuel + 1, k, pow, sum =>
    let p := pow * z2 / fxOne
    atanhSeries z2 fuel (k + 2) p (sum + p / (k + 2))

/-- The natural logarithm of p / q in fixed point, for 1 ≤ p / q ≤ 2. -/
def fxLn (p q : Nat) : Nat :=
  let z := (p - q) * fxOne / (p + q)
  2 * atanhSeries (z * z / fxOne) 230 1 z z

/-- The alternating terms of the cosine series of a fixed-point square, added up. -/
def cosSeries (x2 : Nat) : Nat → Nat → Int → Int → Int
  | 0, _, _, sum => sum
  | fuel + 1, k, term, sum =>
    let t := -(term * (x2 : Int) / (fxOne : Int) / ((k * (k + 1) : Nat) : Int))
    cosSeries x2 fuel (k + 2) t (sum + t)

/-- The cosine of a fixed-point angle below 8, in fixed point. -/
def fxCos (x : Nat) : Int := cosSeries (x * x / fxOne) 150 1 (fxOne : Int) (fxOne : Int)

/-- A magnitude m times 2^e in fixed point. -/
def fxOf (m : Nat) (e : Int) : Nat := m * 2 ^ (e + fxBits).toNat / 2 ^ (-(e + fxBits)).toNat

/-- The magnitude p / q times 2^e, with its sign, rounded to FP32 by RNE. -/
def rneQ (neg : Bool) (p q : Nat) (e : Int) : FVal := f32 (BitVec.ofNat 32 (Fmt.fp32.encodeQ .rne false 0 neg p q e))

/-- Numerator and denominator of 1 / (1 + e^-x) for x = plus or minus a fixed-point magnitude. -/
def fxSigmoid (neg : Bool) (x : Nat) : Nat × Nat :=
  if 2048 * fxOne ≤ x then (if neg then (0, 1) else (1, 1))
  else
    let e := fxExp x
    if neg then (fxOne, fxOne + e) else (e, fxOne + e)

/-- e^a (R126). -/
def fnExp : FVal → FVal
  | .nan => .nan
  | .inf n => if n then FVal.zero else .inf false
  | .fin n m e =>
    let x := fxOf m e
    if m = 0 then .fin false 1 0
    else if 200 * fxOne ≤ x then (if n then FVal.zero else .inf false)
    else if n then rneQ false fxOne (fxExp x) 0 else rneQ false (fxExp x) fxOne 0

/-- ln a (R126). -/
def fnLog : FVal → FVal
  | .nan => .nan
  | .inf n => if n then .nan else .inf false
  | .fin n m e =>
    if m = 0 then .inf true
    else if n then .nan
    else
      let l := Nat.log2 m
      let k : Int := e + l
      let v : Int := (fxLn m (2 ^ l) : Int) + k * (fxLn 2 1 : Nat)
      if v = 0 then FVal.zero else rneQ (decide (v < 0)) v.natAbs fxOne 0

/-- 1 / a (R126). -/
def fnRcp : FVal → FVal
  | .nan => .nan
  | .inf n => .fin n 0 0
  | .fin n m e => if m = 0 then .inf n else rneQ n 1 m (-e)

/-- 1 / √a (R126). The root is cut at 640 bits below its leading bit and its last bit says that something was cut. -/
def fnRsqrt : FVal → FVal
  | .nan => .nan
  | .inf n => if n then .nan else FVal.zero
  | .fin n m e =>
    if m = 0 then .inf n
    else if n then .nan
    else
      let (m, e) := if e % 2 = 0 then (m, e) else (2 * m, e - 1)
      let y := isqrt (2 ^ (2 * fxBits) / m) (fxBits + 1) 0
      let sticky := if y * y * m = 2 ^ (2 * fxBits) then 0 else 1
      rneQ false (2 * y + sticky) (2 * fxOne) (-(e / 2))

/-- tanh a (R126). -/
def fnTanh : FVal → FVal
  | .nan => .nan
  | .inf n => .fin n 1 0
  | .fin n m e =>
    if m = 0 then .fin n 0 0
    else
      let x := fxOf m (e + 1)
      if 2048 * fxOne ≤ x then .fin n 1 0
      else rneQ n (fxExp x - fxOne) (fxExp x + fxOne) 0

/-- 1 / (1 + e^-a) (R126). -/
def fnSigmoid : FVal → FVal
  | .nan => .nan
  | .inf n => if n then FVal.zero else .fin false 1 0
  | .fin n m e => let (p, q) := fxSigmoid n (fxOf m e); rneQ false p q 0

/-- a · sigmoid(a) (R126). -/
def fnSilu : FVal → FVal
  | .nan => .nan
  | .inf n => if n then .fin true 0 0 else .inf false
  | .fin n m e => let (p, q) := fxSigmoid n (fxOf m e); rneQ n (m * p) q e

/-- GELU by its tanh form: a · (1 + tanh w) / 2 is a · sigmoid(2w), with w = 0.797 884 56 · (a + 0.044 715 · a³)
(R124, R126). -/
def fnGelu : FVal → FVal
  | .nan => .nan
  | .inf n => if n then .fin true 0 0 else .inf false
  | .fin n m e =>
    let a := fxOf m e
    let a3 := if 2048 * fxOne ≤ a then a else a * a / fxOne * a / fxOne * 44715 / 1000000
    let w2 := (a + a3) * (2 * 79788456) / 100000000
    let (p, q) := fxSigmoid n w2
    rneQ n (m * p) q e

end Sys2Proof.Machine
end

