-- ==== Sys2Proof/Config.lean ====
section
/-! DEFINITION. What the spec leaves open: uninterpreted constants without a body. Nothing in Lean can evaluate
them, so a claim about a state holds whatever they are (notes/assumptions/4.md). -/

namespace Sys2Proof.Config

/-- An unstated or undefined 64-bit value: the n-th one the run needs (`State.freeIx` counts them). -/
opaque freeWord : Nat → BitVec 64

/-- An undefined byte of memory: the n-th draw, byte i of it. -/
opaque freeByte : Nat → Nat → BitVec 8

/-- A choice the spec leaves open between two outcomes. -/
opaque freeBit : Nat → Nat → Bool

/-- The 24-bit random value, under SR, of the FP32 conversion of a gate's accumulator (R51, R174, R177): the rules give the inputs of R46
but no logical index for it. -/
opaque gateRandom : BitVec 64 → BitVec 64 → Nat → Nat → BitVec 24

/-- The signature the alias key makes over a message (R422), for an owner sequence and a debug state. -/
opaque aliasSign : Nat → Bool → List (BitVec 8) → List (BitVec 8)

/-- A number a model package fixes (R111, R170, R298, R316): its layers, heads, formats, sizes. The spec gives what a
package says and not its layout. -/
opaque package : List (Nat × BitVec 8) → Nat → Nat

/-- How many tiling variants beyond the first a layer of a package carries: one to four in all (R111). -/
opaque variantsMore : List (Nat × BitVec 8) → Nat → Fin 4

/-- A tiling variant of a layer of a package, in the layout of R111. -/
opaque variant : List (Nat × BitVec 8) → Nat → Nat → BitVec 128

/-- A byte of the weights of a package (R298). -/
opaque weightByte : List (Nat × BitVec 8) → Nat → BitVec 8

/-- Which weights a version has: its number, and the working copies that training has written, by tensor (R358, R368). -/
abbrev Weights : Type := Nat × List (Nat × List (BitVec 8))

/-- A latent token of a frame, by the encoder of a model version, after the frames that its context holds (R205, R223, R316): rings and
frames seen, the frame's bytes, the token. -/
opaque encodeToken : Nat → Weights → List (BitVec 8) → Nat → List (BitVec 8) → Nat → BitVec 32

/-- A byte of the history rings of an encoding (false) or decoding (true) context after one more frame (R223): rings and frames seen before
it, and the bytes that the frame's job reads. -/
opaque ringByte : Nat → Weights → Bool → List (BitVec 8) → Nat → List (BitVec 8) → Nat → BitVec 8

/-- The token of an action code, by a model version's action codebook (R209). -/
opaque actionToken : Nat → Nat → Nat → BitVec 32

/-- The hash chain of the prefix tree that holds a key (R203, R204): the spec does not state the hash. -/
opaque chainOf : BitVec 128 → Nat

/-- What fixes the values of a step of a stream (R46, R200, R214): the model and its weights; under SR mode 1 the SR inputs of its
layout record (seed, step, member row, positions per member); the keys and values of the positions before it; its carried state; its
first position; and the tokens it brings in. The spec gives what these values are and not the network that computes them. -/
structure StepIn where
  model : Nat
  weights : Weights
  sr : List (BitVec 64)
  kv : List (BitVec 8)
  state : List (BitVec 8)
  pos : Nat
  tokens : List (BitVec 32)

/-- A token that a step generates, by its place in the step (R209, R213). -/
opaque modelToken : StepIn → Nat → BitVec 32

/-- The value head's output for a step (R209), an FP32 pattern. -/
opaque valueHead : StepIn → BitVec 32

/-- A byte of the keys and values a step writes (R157): position in the step, page of the row, keys or values, byte. -/
opaque modelByte : StepIn → Nat → Nat → Nat → Nat → BitVec 8

/-- A byte of the carried state that a step leaves (R185). -/
opaque stateByte : StepIn → Nat → BitVec 8

/-- The drift summary of a step of a stream (R184, R186), an FP32 pattern. -/
opaque driftWord : StepIn → BitVec 32

/-- A value of the carried state, an FP32 pattern, that the forward run of a re-anchor leaves: from an anchored image, over the tokens
since (R186). -/
opaque anchorWord : StepIn → Nat → BitVec 32

/-- A byte of a frame decoded from a history of tokens, in a frame format, with the rings and frames seen of its context (R222, R223,
R318). -/
opaque frameByte : Nat → Weights → Nat → List (BitVec 8) → Nat → List (BitVec 32) → Nat → BitVec 8

/-- Training values that come from another module, or that the spec gives no place: the n-th draw, and two indices (R356, R360, R371). -/
opaque trainWord : Nat → Nat → Nat → BitVec 32

/-- The exact partial of a gradient element that the other replicas bring: the n-th draw, the member and the element (R364). -/
opaque peerPartial : Nat → Nat → Nat → BitVec 96

/-- What fixes the values of a micro-batch (R46, R359): the package and its weights, the job seed, the SR step and the tokens. The spec
gives the products of the backward pass and not the network they belong to. -/
structure MicroIn where
  package : List (Nat × BitVec 8)
  weights : Weights
  seed : BitVec 64
  step : BitVec 64
  tokens : List Nat
  deriving DecidableEq, Repr

/-- An element of a tensor's layer input in a micro-batch, by tensor, position and channel: its pattern (R360). -/
opaque inputElem : MicroIn → Nat → Nat → Nat → Nat

/-- An element of the queries (0), keys (1) or values (2) of a layer, by head, position and channel: its pattern (R362). -/
opaque attnElem : MicroIn → Nat → Nat → Nat → Nat → Nat → Nat

/-- The keys a query position sees (R148). -/
opaque keyLimit : List (Nat × BitVec 8) → Nat → Nat → Nat

/-- An element of a layer's output, by position and channel (R360). -/
opaque layerOut : MicroIn → Nat → Nat → Nat → BitVec 32

/-- The gradient of the loss head, by position and channel (R360), and the loss it adds (R373). -/
opaque lossGrad : MicroIn → Nat → Nat → BitVec 32
opaque lossWord : MicroIn → BitVec 32

/-- An element of the output gradient of an attention head (dO), from the output gradient of its layer (R362): head, position, channel. -/
opaque headGrad : MicroIn → Nat → List (List (BitVec 32)) → Nat → Nat → Nat → Nat

/-- An element of a tensor's output gradient dY, from the output gradient of its layer and the layer's dQ, dK and dV (R360): tensor,
position, channel. -/
opaque outGrad : MicroIn → Nat → List (List (BitVec 32)) → List (List (BitVec 32)) → Nat → Nat → Nat

/-- An element of the gradient of a layer's input, from that of its output and its tensors' input gradients (R360): layer, position,
channel. -/
opaque inGrad : MicroIn → Nat → List (List (BitVec 32)) → List (List (BitVec 32)) → Nat → Nat → BitVec 32

/-- The content of a manufacturing, field or image record that differs from part to part (R423, R471). -/
opaque partByte : Nat → BitVec 8

/-- Byte i of the Huaris keys that records and images are checked with (R420, R424, R427): 0 the manufacturing key, 1 the
key of images. -/
opaque huarisKey : Nat → Nat → BitVec 8

/-- The digest of what no command writes (R435): 0 the security ROM, 1 the Tidewatch ROM, 2 the manufacturing record, 3 the
ownership record of sequence 0, and 10 + n the factory image of bank n. -/
opaque romDigest : Nat → BitVec 384

/-- The class of the request on whose behalf Gulkutik runs a Foreshore job or an atomic (R253, R291), modulo 4, by engine and job or by
address: a job's descriptor does not name it. -/
opaque workClass : Nat → Nat → Nat

/-- The slice and set of a 128-byte line, by line number (R243): 3,072 * slice + set, taken modulo 49,152. The hash is fixed and
not stated. -/
opaque harbourSet : Nat → Nat

/-- The row within an HBM4 bank, from its row and column bits (R241): how they divide is not stated. -/
opaque hbmRow : Nat → Nat

/-- The digest of the field record (R423, R435), by its sequence number: the layout of its body is not stated. -/
opaque fieldDigest : Nat → BitVec 384

/-- Byte i of a certificate chain (R434), by slot, owner sequence and debug state. -/
opaque chainByte : Nat → Nat → Bool → Nat → BitVec 8

end Sys2Proof.Config
end

