-- ==== Sys2Proof/Machine/RegTable.lean ====
section
/-! DEFINITION. The register pages of control space: every register of every page type with its place, its fields,
their access codes (R11) and their reset values, as the field tables of the spec's chapters list them (R34, R74, R101,
R116, R143, R166, R189, R215, R234, R261, R264, R286, R288, R290, R303, R326, R352, R354, R375, R398, R416, R418, R439,
R456, R465, R466, R471, R393). Bits that no field names are reserved (R10). -/

namespace Sys2Proof.Machine

/-- The access codes of R11. -/
inductive Acc | ro | rw | w1c | w1s | wo
  deriving DecidableEq, Repr

/-- One field of a register: bits [hi:lo], its access code and its reset value (R11). -/
structure Field where
  name : String
  hi : Nat
  lo : Nat
  acc : Acc
  reset : Nat
  deriving DecidableEq, Repr

/-- The block types of the page list (R464); `header` stands for the registers common to every page (R466). -/
inductive PageType
  | header
  | directory
  | device
  | tideline
  | power
  | tidewatch
  | security
  | fault
  | selfTest
  | estuary
  | multicast
  | scheduler
  | rollout
  | pool
  | cliff
  | tideway
  | cxl
  | harbour
  | foreshore
  | update
  | twPort
  | hbm
  | sequencer
  | array
  | vector
  | score
  | recurrent
  deriving DecidableEq, Repr

/-- Every register the spec's chapters map, by its name there; an index picks one of a numbered row of them. -/
inductive RegName
  | pageId | pageVer | pageCaps | pageCtrl | pageStat | event | eventMask | eventCount | errHead | lastEventTime
  | live | dirEntry | dirPresent | devId | devSerial0 | devSerial1 | tidelineNow | devAlertSummary | devCoreMap
  | discCtrl | tickinPeriod | tickCfg | discStat | tickNow | tickEdgeTime | wakeAlarm | pwrCtrl | pwrStat
  | pwrWake | bwCfg | bwStat | bwGrants | bwWaitUnits | neapEntries | inputLossCount | supStat | supLastAction
  | supMramAddr | supMramData | supFilter | supValue | supRuleLo | supRuleHi | secStat | secBootTime
  | secOwner | secMctpCfg | secDebug | errRingBase | errRingHead | errRingAck | errLost | semReset | semResetValue
  | swapCtrl | swapStat | swapTime | pcRetire | pcStat | fwCtrl | fwStat | stCtrl | stCfg | stStat | stFailed
  | stMarginCtrl | stMarginResult | stSlicesRun | stSlicesAborted | stSliceTime | stRefFails | stCycleTime
  | estCtrl | estStat | estPortCfg | estPortMac | estPortIpv4 | estPortIpv6Hi | estPortIpv6Lo | estCcCfg
  | estRetryCfg | estRxPkts | estTxPkts | estCtxHits | estCtxMisses | estFastCount | estFastMiss | estRetransmits
  | estRnrNaks | estCnpSent | estCnpReceived | estDropped | estMgmtRejects | mcastGroup | mcastCtrl | mcastMoveCount
  | mcastBridgeBytes | schedCtrl | schedSwitchCount | schedSaveUnits | schedMaxReflexWait | schedSave
  | schedResv | rollCtrl | rollStat | rollNodeLimit | forkCount | cowCopyCount | prefixHitBlocks | prefixMissBlocks
  | prefixCollisions | nodeEvictCount | recomputePages | planCount | planDeadlineCount | poolCtrl | poolFloor
  | poolUsed | poolWaitCount | cliffCtrl | cliffStat | cliffRingBase | cliffRingCfg | cliffRingHead | cliffRingTail
  | cliffWear | cliffHostBytes | cliffNandBytes | cliffRelocations | cliffRebuilds | cliffFgGcCycles
  | twCtrl | twStat | twRing | twRingPtr | twLaser | twCollCount | twRemoteSemCount | twPermuteCount
  | twSemFaults | twGroup | twPeer | cxlCtrl | cxlStat | cxlRemoveTime | cxlDec | cxlRdBytes | cxlWrBytes
  | cxlLinkRetries | cxlGoneCount | hbCtrl | hbStat | hbRegionBase | hbRegionSize | hbHits | hbMisses
  | hbWritebacks | hbAtomics | hbReduceWrites | hbMshrFullCycles | hbPfIssued | hbPfUsed | hbPfLate | hbPfEvictedUnused
  | hbPfOverwritten | hbFrozenTime | hbEccCorrected | pfc | fsCtrl | fsRingBase | fsRingCfg | fsRingHead
  | fsRingTail | fsStat | fsJobCount | fsMacCycles | fsIoWaitCycles | fsCtxWaitCycles | fsCodecBlocksOut
  | fsCodecBlocksIn | fsEccCorrected | updCtrl | updStat | updElements | updRowsSkipped | updNsProducts
  | updCommits | updSkips | updLr | twpCtrl | twpStat | twpTiming | twpCalTime | twpTxFrames | twpRxFrames
  | twpCrcErrors | twpReplays | twpFecCorrected | twpLaneSpares | hbmCtrl | hbmStat | hbmRegClass | hbmRdBytes
  | hbmWrBytes | hbmTurnarounds | hbmActivates | hbmRefreshStallCycles | hbmWcFlushes | hbmWcRmw | hbmRegWaitCycles
  | hbmQueueFullCycles | hbmEccCorrected | seqCtrl | seqStat | seqChainBase | issueCount | passCount
  | preemptCount | branchTakenCount | skippedTileCount | qCfg | qPc | qDoorbell | qStat | qWatermark
  | qSeed | qStep | qSrbase | sc | slot | arrayCtrl | spillRegion | arrayStat | accMap | aPassCount | aStreamCycles
  | aSwapStallCycles | aLedgeStallCycles | aSpillCount | aSpillStallCycles | aEccCorrected | aSatCount
  | vecCtrl | statRegion | arrive | arrivePtr | chainTileCount | vecBusyCycles | vecLedgeWaitCycles | arrivalWaitCycles
  | budgetWaitCycles | scoreCtrl | scoreStat | scoreValid0 | scoreValid1 | scoreTilesWritten | scoreTilesRead
  | scoreMasked | scoreEccCorrected | recurCtrl | driftThreshold | driftLog | rstepChunkCount | maskedPassCount
  | resetAppliedCount | driftHighCount | stateSaveCount
  deriving DecidableEq, Repr

/-- Where a register lies in its page and what fields it has. Entry i of a numbered row lies at base + stride * i. -/
structure RegInfo where
  base : Nat
  stride : Nat
  count : Nat
  fields : List Field
  deriving DecidableEq, Repr

/-- The registers of the header page header (R393, R466). -/
def regsHeader : List (RegName × RegInfo) := [
  (.pageId, ⟨0x000, 8, 1, [⟨"type", 7, 0, .ro, 0⟩,
    ⟨"instance", 15, 8, .ro, 0⟩,
    ⟨"page", 29, 16, .ro, 0⟩]⟩),
  (.pageVer, ⟨0x008, 8, 1, [⟨"minor", 7, 0, .ro, 0⟩,
    ⟨"major", 15, 8, .ro, 1⟩,
    ⟨"stepping", 23, 16, .ro, 176⟩]⟩),
  (.pageCaps, ⟨0x010, 8, 1, [⟨"live", 0, 0, .ro, 0⟩,
    ⟨"counters", 1, 1, .ro, 0⟩,
    ⟨"always_on", 2, 2, .ro, 0⟩,
    ⟨"follows_core", 3, 3, .ro, 0⟩,
    ⟨"event_bits", 15, 8, .ro, 0⟩]⟩),
  (.pageCtrl, ⟨0x018, 8, 1, [⟨"alert_en", 0, 0, .rw, 0⟩,
    ⟨"event_count_clear", 1, 1, .wo, 0⟩]⟩),
  (.pageStat, ⟨0x020, 8, 1, [⟨"present", 0, 0, .ro, 1⟩,
    ⟨"pending", 1, 1, .ro, 0⟩,
    ⟨"held", 2, 2, .ro, 0⟩]⟩),
  (.event, ⟨0x028, 8, 1, [⟨"events", 31, 0, .w1c, 0⟩]⟩),
  (.eventMask, ⟨0x030, 8, 1, [⟨"mask", 31, 0, .rw, 0⟩]⟩),
  (.eventCount, ⟨0x038, 8, 1, [⟨"count", 63, 0, .ro, 0⟩]⟩),
  (.errHead, ⟨0x040, 8, 1, [⟨"seq", 62, 0, .ro, 0⟩,
    ⟨"valid", 63, 63, .ro, 0⟩]⟩),
  (.lastEventTime, ⟨0x048, 8, 1, [⟨"time", 63, 0, .ro, 0⟩]⟩),
  (.live, ⟨0x050, 8, 1, [⟨"req", 1, 0, .wo, 0⟩,
    ⟨"state", 4, 2, .ro, 0⟩,
    ⟨"held", 5, 5, .ro, 0⟩,
    ⟨"owner", 7, 6, .ro, 0⟩,
    ⟨"transitions", 23, 8, .ro, 0⟩]⟩)]

/-- The registers of the directory page (R465). -/
def regsDirectory : List (RegName × RegInfo) := [
  (.dirEntry, ⟨0x080, 16, 248, [⟨"type", 7, 0, .ro, 0⟩,
    ⟨"instances", 15, 8, .ro, 0⟩,
    ⟨"first", 29, 16, .ro, 0⟩,
    ⟨"stride", 39, 32, .ro, 0⟩,
    ⟨"ver_major", 47, 40, .ro, 1⟩]⟩),
  (.dirPresent, ⟨0x088, 16, 248, [⟨"present", 63, 0, .ro, 0⟩]⟩)]

/-- The registers of the device page (R471). -/
def regsDevice : List (RegName × RegInfo) := [
  (.devId, ⟨0x080, 8, 1, [⟨"part", 15, 0, .ro, 19207⟩,
    ⟨"code", 17, 16, .ro, 0⟩,
    ⟨"stepping", 31, 24, .ro, 176⟩,
    ⟨"tideway_id", 63, 32, .ro, 0⟩]⟩),
  (.devSerial0, ⟨0x088, 8, 1, [⟨"serial", 63, 0, .ro, 0⟩]⟩),
  (.devSerial1, ⟨0x090, 8, 1, [⟨"serial", 63, 0, .ro, 0⟩]⟩),
  (.tidelineNow, ⟨0x098, 8, 1, [⟨"time", 63, 0, .ro, 0⟩]⟩),
  (.devAlertSummary, ⟨0x0A0, 8, 1, [⟨"types", 36, 0, .ro, 0⟩]⟩),
  (.devCoreMap, ⟨0x100, 8, 36, [⟨"physical", 5, 0, .ro, 0⟩,
    ⟨"present", 6, 6, .ro, 0⟩,
    ⟨"on_spare", 7, 7, .ro, 0⟩]⟩)]

/-- The registers of the tideline page (R34). -/
def regsTideline : List (RegName × RegInfo) := [
  (.discCtrl, ⟨0x080, 8, 1, [⟨"mode", 1, 0, .rw, 0⟩,
    ⟨"ptp_port", 3, 2, .rw, 0⟩,
    ⟨"step_enable", 4, 4, .rw, 1⟩,
    ⟨"ptp_domain", 15, 8, .rw, 0⟩]⟩),
  (.tickinPeriod, ⟨0x088, 8, 1, [⟨"period", 31, 0, .rw, 0⟩,
    ⟨"tolerance", 47, 32, .rw, 400⟩]⟩),
  (.tickCfg, ⟨0x090, 8, 1, [⟨"slots_m1", 7, 0, .rw, 0⟩,
    ⟨"source", 8, 8, .rw, 0⟩,
    ⟨"holdover_limit", 23, 16, .rw, 3⟩]⟩),
  (.discStat, ⟨0x098, 8, 1, [⟨"state", 2, 0, .ro, 0⟩,
    ⟨"offset", 39, 8, .ro, 0⟩]⟩),
  (.tickNow, ⟨0x0A0, 8, 1, [⟨"tick_index", 39, 0, .ro, 0⟩,
    ⟨"slot", 47, 40, .ro, 0⟩]⟩),
  (.tickEdgeTime, ⟨0x0A8, 8, 1, [⟨"time", 63, 0, .ro, 0⟩]⟩),
  (.wakeAlarm, ⟨0x0B0, 8, 1, [⟨"time", 63, 0, .rw, 0⟩]⟩)]

/-- The registers of the power page (R416). -/
def regsPower : List (RegName × RegInfo) := [
  (.pwrCtrl, ⟨0x080, 8, 1, [⟨"dry_req", 0, 0, .wo, 0⟩,
    ⟨"neap_force", 1, 1, .rw, 0⟩,
    ⟨"clear_stop", 2, 2, .wo, 0⟩,
    ⟨"slack_delay", 15, 3, .rw, 16⟩,
    ⟨"counter_clear", 16, 16, .wo, 0⟩,
    ⟨"count_enable", 17, 17, .rw, 1⟩]⟩),
  (.pwrStat, ⟨0x088, 8, 1, [⟨"clock_state", 1, 0, .ro, 0⟩,
    ⟨"stop_latched", 2, 2, .ro, 0⟩,
    ⟨"stop_cause", 4, 3, .ro, 0⟩,
    ⟨"slack_cores", 40, 5, .ro, 0⟩,
    ⟨"wake_cause", 43, 41, .ro, 0⟩]⟩),
  (.pwrWake, ⟨0x090, 8, 1, [⟨"wake_n_en", 0, 0, .rw, 1⟩,
    ⟨"alarm_en", 1, 1, .rw, 1⟩,
    ⟨"tick_en", 2, 2, .rw, 0⟩,
    ⟨"tick_count", 18, 3, .rw, 0⟩]⟩),
  (.bwCfg, ⟨0x098, 8, 1, [⟨"slew_code", 4, 0, .rw, 4⟩]⟩),
  (.bwStat, ⟨0x0A0, 8, 1, [⟨"pending", 11, 0, .ro, 0⟩,
    ⟨"ramping", 12, 12, .ro, 0⟩,
    ⟨"held", 13, 13, .ro, 0⟩]⟩),
  (.bwGrants, ⟨0x0A8, 8, 1, [⟨"count", 63, 0, .ro, 0⟩]⟩),
  (.bwWaitUnits, ⟨0x0B0, 8, 1, [⟨"count", 63, 0, .ro, 0⟩]⟩),
  (.neapEntries, ⟨0x0B8, 8, 1, [⟨"count", 63, 0, .ro, 0⟩]⟩),
  (.inputLossCount, ⟨0x0C0, 8, 1, [⟨"count", 63, 0, .ro, 0⟩]⟩)]

/-- The registers of the tidewatch page (R418). -/
def regsTidewatch : List (RegName × RegInfo) := [
  (.supStat, ⟨0x088, 8, 1, [⟨"fired", 63, 0, .ro, 0⟩]⟩),
  (.supLastAction, ⟨0x090, 8, 1, [⟨"row", 5, 0, .ro, 0⟩,
    ⟨"action", 9, 6, .ro, 0⟩]⟩),
  (.supMramAddr, ⟨0x098, 8, 1, [⟨"addr", 19, 3, .rw, 0⟩]⟩),
  (.supMramData, ⟨0x0A0, 8, 1, [⟨"data", 63, 0, .ro, 0⟩]⟩),
  (.supFilter, ⟨0x200, 8, 128, [⟨"iir_k", 3, 0, .rw, 0⟩,
    ⟨"median", 5, 4, .rw, 0⟩]⟩),
  (.supValue, ⟨0x600, 8, 128, [⟨"filtered", 31, 0, .ro, 0⟩,
    ⟨"raw", 63, 32, .ro, 0⟩]⟩),
  (.supRuleLo, ⟨0xA00, 16, 64, [⟨"channel", 6, 0, .rw, 0⟩,
    ⟨"dir", 7, 7, .rw, 0⟩,
    ⟨"threshold", 39, 8, .rw, 0⟩,
    ⟨"duration", 55, 40, .rw, 0⟩,
    ⟨"action", 59, 56, .rw, 0⟩,
    ⟨"enable", 63, 63, .rw, 0⟩]⟩),
  (.supRuleHi, ⟨0xA08, 16, 64, [⟨"release", 31, 0, .rw, 0⟩,
    ⟨"clear_duration", 47, 32, .rw, 0⟩]⟩)]

/-- The registers of the security page (R439). -/
def regsSecurity : List (RegName × RegInfo) := [
  (.secStat, ⟨0x080, 8, 1, [⟨"boot_stage", 3, 0, .ro, 0⟩,
    ⟨"cold", 4, 4, .ro, 0⟩,
    ⟨"field_lost", 5, 5, .ro, 0⟩,
    ⟨"owner_pending", 6, 6, .ro, 0⟩,
    ⟨"debug_unlocked", 7, 7, .ro, 0⟩]⟩),
  (.secBootTime, ⟨0x088, 8, 1, [⟨"time", 63, 0, .ro, 0⟩]⟩),
  (.secOwner, ⟨0x090, 8, 1, [⟨"owner_seq", 31, 0, .ro, 0⟩,
    ⟨"field_seq", 63, 32, .ro, 0⟩]⟩),
  (.secMctpCfg, ⟨0x098, 8, 1, [⟨"smbus_addr", 6, 0, .rw, 76⟩,
    ⟨"speed", 8, 7, .rw, 1⟩]⟩),
  (.secDebug, ⟨0x0A0, 8, 1, [⟨"jtag_open", 0, 0, .ro, 0⟩,
    ⟨"ieee1500_open", 1, 1, .ro, 0⟩,
    ⟨"token_armed", 2, 2, .ro, 0⟩,
    ⟨"nonce_tag", 63, 32, .ro, 0⟩]⟩)]

/-- The registers of the fault page (R398). -/
def regsFault : List (RegName × RegInfo) := [
  (.errRingBase, ⟨0x080, 8, 1, [⟨"base", 47, 6, .rw, 0⟩,
    ⟨"size_log2", 52, 48, .rw, 12⟩]⟩),
  (.errRingHead, ⟨0x088, 8, 1, [⟨"count", 63, 0, .ro, 0⟩]⟩),
  (.errRingAck, ⟨0x090, 8, 1, [⟨"count", 63, 0, .rw, 0⟩]⟩),
  (.errLost, ⟨0x098, 8, 1, [⟨"count", 63, 0, .ro, 0⟩]⟩),
  (.semReset, ⟨0x0A0, 8, 1, [⟨"index", 15, 0, .wo, 0⟩,
    ⟨"scope", 16, 16, .wo, 0⟩,
    ⟨"core", 22, 17, .wo, 0⟩]⟩),
  (.semResetValue, ⟨0x0A8, 8, 1, [⟨"count", 47, 0, .rw, 0⟩]⟩),
  (.swapCtrl, ⟨0x0B0, 8, 1, [⟨"core", 5, 0, .wo, 0⟩,
    ⟨"go", 6, 6, .wo, 0⟩]⟩),
  (.swapStat, ⟨0x0B8, 8, 1, [⟨"core", 5, 0, .ro, 0⟩,
    ⟨"busy", 6, 6, .ro, 0⟩,
    ⟨"spare_free", 12, 7, .ro, 0⟩]⟩),
  (.swapTime, ⟨0x0C0, 8, 1, [⟨"time", 63, 0, .ro, 0⟩]⟩),
  (.pcRetire, ⟨0x0C8, 8, 1, [⟨"stack", 3, 0, .wo, 0⟩,
    ⟨"pc", 9, 4, .wo, 0⟩,
    ⟨"go", 10, 10, .wo, 0⟩]⟩),
  (.pcStat, ⟨0x0D0, 8, 1, [⟨"spares_left", 3, 0, .ro, 12⟩,
    ⟨"busy", 4, 4, .ro, 0⟩,
    ⟨"retired", 15, 8, .ro, 0⟩]⟩),
  (.fwCtrl, ⟨0x0D8, 8, 1, [⟨"comp", 2, 0, .wo, 0⟩,
    ⟨"op", 4, 3, .wo, 0⟩,
    ⟨"target", 10, 5, .wo, 0⟩]⟩),
  (.fwStat, ⟨0x100, 8, 5, [⟨"active", 0, 0, .ro, 0⟩,
    ⟨"state", 2, 1, .ro, 0⟩,
    ⟨"release_a", 31, 16, .ro, 0⟩,
    ⟨"release_b", 47, 32, .ro, 0⟩]⟩)]

/-- The registers of the selfTest page (R456). -/
def regsSelfTest : List (RegName × RegInfo) := [
  (.stCtrl, ⟨0x080, 8, 1, [⟨"counter_clear", 0, 0, .wo, 0⟩,
    ⟨"count_enable", 1, 1, .rw, 1⟩,
    ⟨"enable", 2, 2, .rw, 1⟩,
    ⟨"full_test", 3, 3, .wo, 0⟩]⟩),
  (.stCfg, ⟨0x088, 8, 1, [⟨"period_h", 7, 0, .rw, 24⟩,
    ⟨"max_per_bay", 10, 8, .rw, 1⟩,
    ⟨"test_spares", 11, 11, .rw, 1⟩]⟩),
  (.stStat, ⟨0x090, 8, 1, [⟨"running", 41, 0, .ro, 0⟩,
    ⟨"full_busy", 42, 42, .ro, 0⟩,
    ⟨"margin_busy", 43, 43, .ro, 0⟩]⟩),
  (.stFailed, ⟨0x098, 8, 1, [⟨"cores", 41, 0, .ro, 0⟩]⟩),
  (.stMarginCtrl, ⟨0x0A0, 8, 1, [⟨"target", 1, 0, .rw, 0⟩,
    ⟨"unit", 5, 2, .rw, 0⟩,
    ⟨"sub", 11, 6, .rw, 0⟩,
    ⟨"axis", 12, 12, .rw, 0⟩,
    ⟨"op", 14, 13, .wo, 0⟩]⟩),
  (.stMarginResult, ⟨0x0A8, 8, 1, [⟨"lo", 7, 0, .ro, 0⟩,
    ⟨"hi", 15, 8, .ro, 0⟩,
    ⟨"height_mv", 31, 16, .ro, 0⟩,
    ⟨"valid", 32, 32, .ro, 0⟩,
    ⟨"low", 33, 33, .ro, 0⟩,
    ⟨"loop_fail", 34, 34, .ro, 0⟩]⟩),
  (.stSlicesRun, ⟨0x0B0, 8, 1, [⟨"count", 63, 0, .ro, 0⟩]⟩),
  (.stSlicesAborted, ⟨0x0B8, 8, 1, [⟨"count", 63, 0, .ro, 0⟩]⟩),
  (.stSliceTime, ⟨0x0C0, 8, 1, [⟨"count", 63, 0, .ro, 0⟩]⟩),
  (.stRefFails, ⟨0x0C8, 8, 1, [⟨"count", 63, 0, .ro, 0⟩]⟩),
  (.stCycleTime, ⟨0x200, 8, 42, [⟨"time", 63, 0, .ro, 0⟩]⟩)]

/-- The registers of the estuary page (R326). -/
def regsEstuary : List (RegName × RegInfo) := [
  (.estCtrl, ⟨0x080, 8, 1, [⟨"counter_clear", 0, 0, .wo, 0⟩,
    ⟨"count_enable", 1, 1, .rw, 1⟩,
    ⟨"fast_enable", 2, 2, .rw, 1⟩]⟩),
  (.estStat, ⟨0x088, 8, 1, [⟨"link_up", 3, 0, .ro, 0⟩,
    ⟨"spare_way_in_use", 4, 4, .ro, 0⟩,
    ⟨"misses_outstanding", 11, 5, .ro, 0⟩,
    ⟨"fast_bound", 24, 12, .ro, 0⟩]⟩),
  (.estPortCfg, ⟨0x090, 40, 4, [⟨"enable", 0, 0, .rw, 1⟩,
    ⟨"roce_prio", 3, 1, .rw, 3⟩,
    ⟨"pfc_rx_mask", 11, 4, .rw, 8⟩,
    ⟨"pfc_tx_enable", 12, 12, .rw, 1⟩,
    ⟨"dscp", 18, 13, .rw, 26⟩,
    ⟨"ecn_enable", 19, 19, .rw, 1⟩,
    ⟨"ipv6_valid", 20, 20, .rw, 0⟩]⟩),
  (.estPortMac, ⟨0x098, 40, 4, [⟨"mac", 47, 0, .ro, 0⟩]⟩),
  (.estPortIpv4, ⟨0x0A0, 40, 4, [⟨"addr", 31, 0, .rw, 0⟩,
    ⟨"valid", 32, 32, .rw, 0⟩]⟩),
  (.estPortIpv6Hi, ⟨0x0A8, 40, 4, [⟨"addr", 63, 0, .rw, 0⟩]⟩),
  (.estPortIpv6Lo, ⟨0x0B0, 40, 4, [⟨"addr", 63, 0, .rw, 0⟩]⟩),
  (.estCcCfg, ⟨0x130, 8, 1, [⟨"cnp_interval", 15, 0, .rw, 50⟩,
    ⟨"rate_ai", 31, 16, .rw, 50⟩,
    ⟨"increase_period", 47, 32, .rw, 55⟩,
    ⟨"min_rate", 55, 48, .rw, 1⟩]⟩),
  (.estRetryCfg, ⟨0x138, 8, 1, [⟨"ack_timeout", 4, 0, .rw, 10⟩,
    ⟨"retry_cnt", 7, 5, .rw, 7⟩,
    ⟨"rnr_retry", 10, 8, .rw, 7⟩,
    ⟨"rnr_timer", 15, 11, .rw, 14⟩]⟩),
  (.estRxPkts, ⟨0x140, 8, 1, [⟨"count", 63, 0, .ro, 0⟩]⟩),
  (.estTxPkts, ⟨0x148, 8, 1, [⟨"count", 63, 0, .ro, 0⟩]⟩),
  (.estCtxHits, ⟨0x150, 8, 1, [⟨"count", 63, 0, .ro, 0⟩]⟩),
  (.estCtxMisses, ⟨0x158, 8, 1, [⟨"count", 63, 0, .ro, 0⟩]⟩),
  (.estFastCount, ⟨0x160, 8, 1, [⟨"count", 63, 0, .ro, 0⟩]⟩),
  (.estFastMiss, ⟨0x168, 8, 1, [⟨"count", 63, 0, .ro, 0⟩]⟩),
  (.estRetransmits, ⟨0x170, 8, 1, [⟨"count", 63, 0, .ro, 0⟩]⟩),
  (.estRnrNaks, ⟨0x178, 8, 1, [⟨"count", 63, 0, .ro, 0⟩]⟩),
  (.estCnpSent, ⟨0x180, 8, 1, [⟨"count", 63, 0, .ro, 0⟩]⟩),
  (.estCnpReceived, ⟨0x188, 8, 1, [⟨"count", 63, 0, .ro, 0⟩]⟩),
  (.estDropped, ⟨0x190, 8, 1, [⟨"count", 63, 0, .ro, 0⟩]⟩),
  (.estMgmtRejects, ⟨0x198, 8, 1, [⟨"count", 63, 0, .ro, 0⟩]⟩)]

/-- The registers of the multicast page (R116). -/
def regsMulticast : List (RegName × RegInfo) := [
  (.mcastGroup, ⟨0x080, 8, 255, [⟨"members", 35, 0, .rw, 0⟩,
    ⟨"enable", 63, 63, .rw, 0⟩]⟩),
  (.mcastCtrl, ⟨0x880, 8, 1, [⟨"counter_clear", 0, 0, .wo, 0⟩,
    ⟨"count_enable", 1, 1, .rw, 1⟩]⟩),
  (.mcastMoveCount, ⟨0x888, 8, 1, [⟨"count", 63, 0, .ro, 0⟩]⟩),
  (.mcastBridgeBytes, ⟨0x890, 8, 1, [⟨"count", 63, 0, .ro, 0⟩]⟩)]

/-- The registers of the scheduler page (R303). -/
def regsScheduler : List (RegName × RegInfo) := [
  (.schedCtrl, ⟨0x080, 8, 1, [⟨"counter_clear", 0, 0, .wo, 0⟩,
    ⟨"count_enable", 1, 1, .rw, 1⟩]⟩),
  (.schedSwitchCount, ⟨0x088, 8, 1, [⟨"count", 63, 0, .ro, 0⟩]⟩),
  (.schedSaveUnits, ⟨0x090, 8, 1, [⟨"count", 63, 0, .ro, 0⟩]⟩),
  (.schedMaxReflexWait, ⟨0x098, 8, 1, [⟨"cycles", 31, 0, .ro, 0⟩,
    ⟨"core", 63, 32, .ro, 0⟩]⟩),
  (.schedSave, ⟨0x200, 8, 36, [⟨"base", 47, 16, .rw, 0⟩,
    ⟨"part_mib", 52, 48, .rw, 2⟩]⟩),
  (.schedResv, ⟨0x400, 8, 288, [⟨"a0_first", 5, 0, .rw, 0⟩,
    ⟨"a0_count", 11, 6, .rw, 0⟩,
    ⟨"a1_first", 17, 12, .rw, 0⟩,
    ⟨"a1_count", 23, 18, .rw, 0⟩,
    ⟨"ledge_base", 31, 24, .rw, 0⟩,
    ⟨"ledge_size", 39, 32, .rw, 0⟩]⟩)]

/-- The registers of the rollout page (R215). -/
def regsRollout : List (RegName × RegInfo) := [
  (.rollCtrl, ⟨0x080, 8, 1, [⟨"counter_clear", 0, 0, .wo, 0⟩,
    ⟨"count_enable", 1, 1, .rw, 1⟩]⟩),
  (.rollStat, ⟨0x088, 8, 1, [⟨"scenes_open", 6, 0, .ro, 0⟩,
    ⟨"streams_open", 22, 8, .ro, 0⟩,
    ⟨"nodes_used", 45, 23, .ro, 0⟩]⟩),
  (.rollNodeLimit, ⟨0x090, 8, 1, [⟨"limit", 22, 0, .rw, 4194304⟩]⟩),
  (.forkCount, ⟨0x098, 8, 1, [⟨"count", 63, 0, .ro, 0⟩]⟩),
  (.cowCopyCount, ⟨0x0A0, 8, 1, [⟨"count", 63, 0, .ro, 0⟩]⟩),
  (.prefixHitBlocks, ⟨0x0A8, 8, 1, [⟨"count", 63, 0, .ro, 0⟩]⟩),
  (.prefixMissBlocks, ⟨0x0B0, 8, 1, [⟨"count", 63, 0, .ro, 0⟩]⟩),
  (.prefixCollisions, ⟨0x0B8, 8, 1, [⟨"count", 63, 0, .ro, 0⟩]⟩),
  (.nodeEvictCount, ⟨0x0C0, 8, 1, [⟨"count", 63, 0, .ro, 0⟩]⟩),
  (.recomputePages, ⟨0x0C8, 8, 1, [⟨"count", 63, 0, .ro, 0⟩]⟩),
  (.planCount, ⟨0x0D0, 8, 1, [⟨"count", 63, 0, .ro, 0⟩]⟩),
  (.planDeadlineCount, ⟨0x0D8, 8, 1, [⟨"count", 63, 0, .ro, 0⟩]⟩)]

/-- The registers of the pool page (R290). -/
def regsPool : List (RegName × RegInfo) := [
  (.poolCtrl, ⟨0x080, 8, 1, [⟨"wait_limit", 31, 0, .rw, 4000000000⟩]⟩),
  (.poolFloor, ⟨0x088, 8, 3, [⟨"class_0", 15, 0, .rw, 0⟩,
    ⟨"class_1", 31, 16, .rw, 0⟩,
    ⟨"class_2", 47, 32, .rw, 0⟩,
    ⟨"class_3", 63, 48, .rw, 0⟩]⟩),
  (.poolUsed, ⟨0x0A0, 8, 3, [⟨"class_0", 15, 0, .ro, 0⟩,
    ⟨"class_1", 31, 16, .ro, 0⟩,
    ⟨"class_2", 47, 32, .ro, 0⟩,
    ⟨"class_3", 63, 48, .ro, 0⟩]⟩),
  (.poolWaitCount, ⟨0x0B8, 8, 1, [⟨"count", 63, 0, .ro, 0⟩]⟩)]

/-- The registers of the cliff page (R288). -/
def regsCliff : List (RegName × RegInfo) := [
  (.cliffCtrl, ⟨0x080, 8, 1, [⟨"enable", 0, 0, .rw, 1⟩,
    ⟨"counter_clear", 1, 1, .wo, 0⟩,
    ⟨"count_enable", 2, 2, .rw, 1⟩]⟩),
  (.cliffStat, ⟨0x088, 8, 1, [⟨"read_only", 0, 0, .ro, 0⟩,
    ⟨"fg_gc", 1, 1, .ro, 0⟩]⟩),
  (.cliffRingBase, ⟨0x090, 8, 1, [⟨"base", 47, 6, .rw, 0⟩]⟩),
  (.cliffRingCfg, ⟨0x098, 8, 1, [⟨"size_log2", 3, 0, .rw, 4⟩]⟩),
  (.cliffRingHead, ⟨0x0A0, 8, 1, [⟨"count", 31, 0, .ro, 0⟩]⟩),
  (.cliffRingTail, ⟨0x0A8, 8, 1, [⟨"count", 31, 0, .rw, 0⟩]⟩),
  (.cliffWear, ⟨0x0B0, 8, 1, [⟨"pe_mean", 15, 0, .ro, 0⟩,
    ⟨"pe_max", 31, 16, .ro, 0⟩,
    ⟨"spare_blocks", 47, 32, .ro, 0⟩,
    ⟨"life_used", 58, 48, .ro, 0⟩]⟩),
  (.cliffHostBytes, ⟨0x0C0, 8, 1, [⟨"count", 63, 0, .ro, 0⟩]⟩),
  (.cliffNandBytes, ⟨0x0C8, 8, 1, [⟨"count", 63, 0, .ro, 0⟩]⟩),
  (.cliffRelocations, ⟨0x0D0, 8, 1, [⟨"count", 63, 0, .ro, 0⟩]⟩),
  (.cliffRebuilds, ⟨0x0D8, 8, 1, [⟨"count", 63, 0, .ro, 0⟩]⟩),
  (.cliffFgGcCycles, ⟨0x0E0, 8, 1, [⟨"count", 63, 0, .ro, 0⟩]⟩)]

/-- The registers of the tideway page (R352). -/
def regsTideway : List (RegName × RegInfo) := [
  (.twCtrl, ⟨0x080, 8, 1, [⟨"counter_clear", 0, 0, .wo, 0⟩,
    ⟨"count_enable", 1, 1, .rw, 1⟩,
    ⟨"time_follow_en", 2, 2, .rw, 0⟩,
    ⟨"time_port", 6, 3, .rw, 0⟩,
    ⟨"link_timeout", 22, 7, .rw, 10000⟩,
    ⟨"laser_op", 24, 23, .wo, 0⟩,
    ⟨"laser_sel", 26, 25, .wo, 0⟩]⟩),
  (.twStat, ⟨0x088, 8, 1, [⟨"ports_up", 15, 0, .ro, 0⟩,
    ⟨"ports_degraded", 31, 16, .ro, 0⟩,
    ⟨"lasers_present", 35, 32, .ro, 0⟩,
    ⟨"time_locked", 36, 36, .ro, 0⟩]⟩),
  (.twRing, ⟨0x090, 8, 8, [⟨"base", 47, 6, .rw, 0⟩,
    ⟨"size_log2", 51, 48, .rw, 4⟩,
    ⟨"class", 53, 52, .rw, 1⟩,
    ⟨"enable", 63, 63, .rw, 0⟩]⟩),
  (.twRingPtr, ⟨0x0D0, 8, 8, [⟨"head", 31, 0, .ro, 0⟩,
    ⟨"tail", 63, 32, .rw, 0⟩]⟩),
  (.twLaser, ⟨0x110, 8, 4, [⟨"present", 0, 0, .ro, 0⟩,
    ⟨"state", 2, 1, .ro, 0⟩,
    ⟨"output_mw", 18, 3, .ro, 0⟩,
    ⟨"temp", 26, 19, .ro, 0⟩,
    ⟨"ports_fed", 30, 27, .ro, 0⟩]⟩),
  (.twCollCount, ⟨0x130, 8, 1, [⟨"count", 63, 0, .ro, 0⟩]⟩),
  (.twRemoteSemCount, ⟨0x138, 8, 1, [⟨"count", 63, 0, .ro, 0⟩]⟩),
  (.twPermuteCount, ⟨0x140, 8, 1, [⟨"count", 63, 0, .ro, 0⟩]⟩),
  (.twSemFaults, ⟨0x148, 8, 1, [⟨"count", 63, 0, .ro, 0⟩]⟩),
  (.twGroup, ⟨0x200, 8, 64, [⟨"size_m1", 7, 0, .rw, 0⟩,
    ⟨"rank", 15, 8, .rw, 0⟩,
    ⟨"left", 23, 16, .rw, 0⟩,
    ⟨"right", 31, 24, .rw, 0⟩,
    ⟨"ring_start", 39, 32, .rw, 0⟩,
    ⟨"generation", 55, 40, .rw, 0⟩,
    ⟨"ring", 58, 56, .rw, 0⟩,
    ⟨"in_doubt", 62, 62, .ro, 0⟩,
    ⟨"enable", 63, 63, .rw, 0⟩]⟩),
  (.twPeer, ⟨0x400, 8, 256, [⟨"module_id", 31, 0, .rw, 0⟩,
    ⟨"port_mask", 47, 32, .rw, 0⟩,
    ⟨"enable", 63, 63, .rw, 0⟩]⟩)]

/-- The registers of the cxl page (R286). -/
def regsCxl : List (RegName × RegInfo) := [
  (.cxlCtrl, ⟨0x080, 8, 1, [⟨"op", 1, 0, .wo, 0⟩,
    ⟨"dec", 4, 2, .wo, 0⟩,
    ⟨"counter_clear", 5, 5, .wo, 0⟩,
    ⟨"count_enable", 6, 6, .rw, 1⟩]⟩),
  (.cxlStat, ⟨0x088, 8, 1, [⟨"link_up", 0, 0, .ro, 0⟩,
    ⟨"width", 5, 1, .ro, 0⟩,
    ⟨"rate_64", 6, 6, .ro, 0⟩]⟩),
  (.cxlRemoveTime, ⟨0x090, 8, 1, [⟨"time", 63, 0, .ro, 0⟩]⟩),
  (.cxlDec, ⟨0x0C0, 8, 8, [⟨"win_base", 13, 0, .rw, 0⟩,
    ⟨"size", 28, 14, .rw, 0⟩,
    ⟨"dpa_base", 42, 29, .rw, 0⟩,
    ⟨"state", 45, 43, .ro, 0⟩]⟩),
  (.cxlRdBytes, ⟨0x100, 8, 1, [⟨"count", 63, 0, .ro, 0⟩]⟩),
  (.cxlWrBytes, ⟨0x108, 8, 1, [⟨"count", 63, 0, .ro, 0⟩]⟩),
  (.cxlLinkRetries, ⟨0x110, 8, 1, [⟨"count", 63, 0, .ro, 0⟩]⟩),
  (.cxlGoneCount, ⟨0x118, 8, 1, [⟨"count", 63, 0, .ro, 0⟩]⟩)]

/-- The registers of the harbour page (R261). -/
def regsHarbour : List (RegName × RegInfo) := [
  (.hbCtrl, ⟨0x080, 8, 1, [⟨"counter_clear", 0, 0, .wo, 0⟩,
    ⟨"count_enable", 1, 1, .rw, 1⟩,
    ⟨"pf_enable", 2, 2, .rw, 1⟩,
    ⟨"pf_distance", 10, 3, .rw, 8⟩,
    ⟨"flush", 11, 11, .wo, 0⟩]⟩),
  (.hbStat, ⟨0x088, 8, 1, [⟨"slices_in_use", 16, 0, .ro, 0⟩,
    ⟨"spare_in_use", 17, 17, .ro, 0⟩,
    ⟨"flush_busy", 18, 18, .ro, 0⟩,
    ⟨"mode", 21, 19, .ro, 1⟩]⟩),
  (.hbRegionBase, ⟨0x100, 16, 16, [⟨"base", 47, 12, .rw, 0⟩,
    ⟨"policy", 50, 48, .rw, 0⟩,
    ⟨"op", 54, 51, .rw, 0⟩,
    ⟨"enable", 63, 63, .rw, 0⟩]⟩),
  (.hbRegionSize, ⟨0x108, 16, 16, [⟨"size", 35, 0, .rw, 0⟩]⟩),
  (.hbHits, ⟨0x200, 8, 1, [⟨"count", 63, 0, .ro, 0⟩]⟩),
  (.hbMisses, ⟨0x208, 8, 1, [⟨"count", 63, 0, .ro, 0⟩]⟩),
  (.hbWritebacks, ⟨0x210, 8, 1, [⟨"count", 63, 0, .ro, 0⟩]⟩),
  (.hbAtomics, ⟨0x218, 8, 1, [⟨"count", 63, 0, .ro, 0⟩]⟩),
  (.hbReduceWrites, ⟨0x220, 8, 1, [⟨"count", 63, 0, .ro, 0⟩]⟩),
  (.hbMshrFullCycles, ⟨0x228, 8, 1, [⟨"count", 63, 0, .ro, 0⟩]⟩),
  (.hbPfIssued, ⟨0x230, 8, 1, [⟨"count", 63, 0, .ro, 0⟩]⟩),
  (.hbPfUsed, ⟨0x238, 8, 1, [⟨"count", 63, 0, .ro, 0⟩]⟩),
  (.hbPfLate, ⟨0x240, 8, 1, [⟨"count", 63, 0, .ro, 0⟩]⟩),
  (.hbPfEvictedUnused, ⟨0x248, 8, 1, [⟨"count", 63, 0, .ro, 0⟩]⟩),
  (.hbPfOverwritten, ⟨0x250, 8, 1, [⟨"count", 63, 0, .ro, 0⟩]⟩),
  (.hbFrozenTime, ⟨0x258, 8, 1, [⟨"count", 63, 0, .ro, 0⟩]⟩),
  (.hbEccCorrected, ⟨0x260, 8, 1, [⟨"count", 63, 0, .ro, 0⟩]⟩),
  (.pfc, ⟨0x400, 8, 180, [⟨"count", 63, 0, .ro, 0⟩]⟩)]

/-- The registers of the foreshore page (R234). -/
def regsForeshore : List (RegName × RegInfo) := [
  (.fsCtrl, ⟨0x080, 8, 1, [⟨"enable", 0, 0, .rw, 1⟩,
    ⟨"abort", 1, 1, .wo, 0⟩,
    ⟨"counter_clear", 2, 2, .wo, 0⟩,
    ⟨"count_enable", 3, 3, .rw, 1⟩]⟩),
  (.fsRingBase, ⟨0x088, 8, 1, [⟨"base", 47, 6, .rw, 0⟩]⟩),
  (.fsRingCfg, ⟨0x090, 8, 1, [⟨"size_log2", 3, 0, .rw, 4⟩]⟩),
  (.fsRingHead, ⟨0x098, 8, 1, [⟨"count", 31, 0, .ro, 0⟩]⟩),
  (.fsRingTail, ⟨0x0A0, 8, 1, [⟨"count", 31, 0, .rw, 0⟩]⟩),
  (.fsStat, ⟨0x0A8, 8, 1, [⟨"state", 1, 0, .ro, 0⟩,
    ⟨"last_status", 15, 8, .ro, 0⟩,
    ⟨"fail_watermark", 31, 16, .ro, 0⟩,
    ⟨"fail_job", 63, 32, .ro, 0⟩]⟩),
  (.fsJobCount, ⟨0x0B0, 8, 1, [⟨"count", 63, 0, .ro, 0⟩]⟩),
  (.fsMacCycles, ⟨0x0B8, 8, 1, [⟨"count", 63, 0, .ro, 0⟩]⟩),
  (.fsIoWaitCycles, ⟨0x0C0, 8, 1, [⟨"count", 63, 0, .ro, 0⟩]⟩),
  (.fsCtxWaitCycles, ⟨0x0C8, 8, 1, [⟨"count", 63, 0, .ro, 0⟩]⟩),
  (.fsCodecBlocksOut, ⟨0x0D0, 8, 1, [⟨"count", 63, 0, .ro, 0⟩]⟩),
  (.fsCodecBlocksIn, ⟨0x0D8, 8, 1, [⟨"count", 63, 0, .ro, 0⟩]⟩),
  (.fsEccCorrected, ⟨0x0E0, 8, 1, [⟨"count", 63, 0, .ro, 0⟩]⟩)]

/-- The registers of the update page (R375). -/
def regsUpdate : List (RegName × RegInfo) := [
  (.updCtrl, ⟨0x080, 8, 1, [⟨"counter_clear", 0, 0, .wo, 0⟩,
    ⟨"count_enable", 1, 1, .rw, 1⟩]⟩),
  (.updStat, ⟨0x088, 8, 1, [⟨"busy", 0, 0, .ro, 0⟩,
    ⟨"layer", 8, 1, .ro, 0⟩,
    ⟨"job", 12, 9, .ro, 0⟩,
    ⟨"step", 47, 16, .ro, 0⟩]⟩),
  (.updElements, ⟨0x090, 8, 1, [⟨"count", 63, 0, .ro, 0⟩]⟩),
  (.updRowsSkipped, ⟨0x098, 8, 1, [⟨"count", 63, 0, .ro, 0⟩]⟩),
  (.updNsProducts, ⟨0x0A0, 8, 1, [⟨"count", 63, 0, .ro, 0⟩]⟩),
  (.updCommits, ⟨0x0A8, 8, 1, [⟨"count", 63, 0, .ro, 0⟩]⟩),
  (.updSkips, ⟨0x0B0, 8, 1, [⟨"count", 63, 0, .ro, 0⟩]⟩),
  (.updLr, ⟨0x0B8, 8, 1, [⟨"lr", 31, 0, .ro, 0⟩,
    ⟨"step", 63, 32, .ro, 0⟩]⟩)]

/-- The registers of the twPort page (R354). -/
def regsTwPort : List (RegName × RegInfo) := [
  (.twpCtrl, ⟨0x080, 8, 1, [⟨"enable", 0, 0, .rw, 1⟩,
    ⟨"counter_clear", 1, 1, .wo, 0⟩,
    ⟨"count_enable", 2, 2, .rw, 1⟩,
    ⟨"recal_s", 18, 3, .rw, 60⟩]⟩),
  (.twpStat, ⟨0x088, 8, 1, [⟨"state", 2, 0, .ro, 0⟩,
    ⟨"lane_wl", 14, 3, .ro, 0⟩,
    ⟨"wl_failed", 19, 15, .ro, 0⟩,
    ⟨"wl_source", 29, 20, .ro, 0⟩,
    ⟨"peer_id", 63, 32, .ro, 0⟩]⟩),
  (.twpTiming, ⟨0x090, 8, 1, [⟨"delay", 23, 0, .ro, 0⟩,
    ⟨"offset", 55, 24, .ro, 0⟩]⟩),
  (.twpCalTime, ⟨0x098, 8, 1, [⟨"time", 63, 0, .ro, 0⟩]⟩),
  (.twpTxFrames, ⟨0x0A0, 8, 1, [⟨"count", 63, 0, .ro, 0⟩]⟩),
  (.twpRxFrames, ⟨0x0A8, 8, 1, [⟨"count", 63, 0, .ro, 0⟩]⟩),
  (.twpCrcErrors, ⟨0x0B0, 8, 1, [⟨"count", 63, 0, .ro, 0⟩]⟩),
  (.twpReplays, ⟨0x0B8, 8, 1, [⟨"count", 63, 0, .ro, 0⟩]⟩),
  (.twpFecCorrected, ⟨0x0C0, 8, 1, [⟨"count", 63, 0, .ro, 0⟩]⟩),
  (.twpLaneSpares, ⟨0x0C8, 8, 1, [⟨"count", 63, 0, .ro, 0⟩]⟩)]

/-- The registers of the hbm page (R264). -/
def regsHbm : List (RegName × RegInfo) := [
  (.hbmCtrl, ⟨0x080, 8, 1, [⟨"counter_clear", 0, 0, .wo, 0⟩,
    ⟨"count_enable", 1, 1, .rw, 1⟩,
    ⟨"wc_timeout", 9, 2, .rw, 16⟩]⟩),
  (.hbmStat, ⟨0x088, 8, 1, [⟨"stack_temp", 7, 0, .ro, 0⟩,
    ⟨"temp_high", 8, 8, .ro, 0⟩,
    ⟨"retired_pc", 15, 9, .ro, 0⟩,
    ⟨"self_refresh", 16, 16, .ro, 0⟩]⟩),
  (.hbmRegClass, ⟨0x090, 8, 3, [⟨"floor", 7, 0, .rw, 64⟩,
    ⟨"ceiling", 15, 8, .rw, 0⟩,
    ⟨"burst", 31, 16, .rw, 8192⟩]⟩),
  (.hbmRegClass, ⟨0x0A8, 8, 1, [⟨"floor", 7, 0, .rw, 16⟩,
    ⟨"ceiling", 15, 8, .rw, 64⟩,
    ⟨"burst", 31, 16, .rw, 8192⟩]⟩),
  (.hbmRdBytes, ⟨0x0B0, 8, 1, [⟨"count", 63, 0, .ro, 0⟩]⟩),
  (.hbmWrBytes, ⟨0x0B8, 8, 1, [⟨"count", 63, 0, .ro, 0⟩]⟩),
  (.hbmTurnarounds, ⟨0x0C0, 8, 1, [⟨"count", 63, 0, .ro, 0⟩]⟩),
  (.hbmActivates, ⟨0x0C8, 8, 1, [⟨"count", 63, 0, .ro, 0⟩]⟩),
  (.hbmRefreshStallCycles, ⟨0x0D0, 8, 1, [⟨"count", 63, 0, .ro, 0⟩]⟩),
  (.hbmWcFlushes, ⟨0x0D8, 8, 1, [⟨"count", 63, 0, .ro, 0⟩]⟩),
  (.hbmWcRmw, ⟨0x0E0, 8, 1, [⟨"count", 63, 0, .ro, 0⟩]⟩),
  (.hbmRegWaitCycles, ⟨0x0E8, 8, 1, [⟨"count", 63, 0, .ro, 0⟩]⟩),
  (.hbmQueueFullCycles, ⟨0x0F0, 8, 1, [⟨"count", 63, 0, .ro, 0⟩]⟩),
  (.hbmEccCorrected, ⟨0x0F8, 8, 1, [⟨"count", 63, 0, .ro, 0⟩]⟩)]

/-- The registers of the sequencer page (R101). -/
def regsSequencer : List (RegName × RegInfo) := [
  (.seqCtrl, ⟨0x080, 8, 1, [⟨"counter_clear", 0, 0, .wo, 0⟩,
    ⟨"count_enable", 1, 1, .rw, 1⟩]⟩),
  (.seqStat, ⟨0x088, 8, 1, [⟨"running", 7, 0, .ro, 0⟩,
    ⟨"halted", 15, 8, .ro, 0⟩,
    ⟨"holder", 18, 16, .ro, 0⟩,
    ⟨"holder_valid", 19, 19, .ro, 0⟩,
    ⟨"stopping", 20, 20, .ro, 0⟩]⟩),
  (.seqChainBase, ⟨0x090, 8, 1, [⟨"base", 17, 0, .rw, 0⟩]⟩),
  (.issueCount, ⟨0x098, 8, 1, [⟨"count", 63, 0, .ro, 0⟩]⟩),
  (.passCount, ⟨0x0A0, 8, 1, [⟨"count", 63, 0, .ro, 0⟩]⟩),
  (.preemptCount, ⟨0x0A8, 8, 1, [⟨"count", 63, 0, .ro, 0⟩]⟩),
  (.branchTakenCount, ⟨0x0B0, 8, 1, [⟨"count", 63, 0, .ro, 0⟩]⟩),
  (.skippedTileCount, ⟨0x0B8, 8, 1, [⟨"count", 63, 0, .ro, 0⟩]⟩),
  (.qCfg, ⟨0x100, 64, 8, [⟨"class", 1, 0, .rw, 1⟩,
    ⟨"policy", 2, 2, .rw, 0⟩,
    ⟨"fetch_space", 3, 3, .rw, 0⟩,
    ⟨"stream_bound", 4, 4, .rw, 0⟩]⟩),
  (.qPc, ⟨0x108, 64, 8, [⟨"pc", 47, 5, .rw, 0⟩]⟩),
  (.qDoorbell, ⟨0x110, 64, 8, [⟨"start", 0, 0, .wo, 0⟩,
    ⟨"resume", 1, 1, .wo, 0⟩,
    ⟨"abort", 2, 2, .wo, 0⟩]⟩),
  (.qStat, ⟨0x118, 64, 8, [⟨"state", 2, 0, .ro, 0⟩,
    ⟨"last_status", 15, 8, .ro, 0⟩,
    ⟨"seq", 47, 16, .ro, 0⟩]⟩),
  (.qWatermark, ⟨0x120, 64, 8, [⟨"watermark", 31, 0, .ro, 0⟩,
    ⟨"fail_seq", 63, 32, .ro, 0⟩]⟩),
  (.qSeed, ⟨0x128, 64, 8, [⟨"seed", 63, 0, .rw, 0⟩]⟩),
  (.qStep, ⟨0x130, 64, 8, [⟨"step", 63, 0, .rw, 0⟩]⟩),
  (.qSrbase, ⟨0x138, 64, 8, [⟨"base", 47, 0, .rw, 0⟩,
    ⟨"row_len_m1", 63, 48, .rw, 0⟩]⟩),
  (.sc, ⟨0x300, 8, 128, [⟨"value", 63, 0, .rw, 0⟩]⟩),
  (.slot, ⟨0x700, 8, 256, [⟨"even_value", 30, 0, .rw, 0⟩,
    ⟨"even_kind", 31, 31, .rw, 0⟩,
    ⟨"odd_value", 62, 32, .rw, 0⟩,
    ⟨"odd_kind", 63, 63, .rw, 0⟩]⟩)]

/-- The registers of the array page (R74). -/
def regsArray : List (RegName × RegInfo) := [
  (.arrayCtrl, ⟨0x080, 8, 1, [⟨"counter_clear", 0, 0, .wo, 0⟩,
    ⟨"spill_disable", 1, 1, .rw, 0⟩,
    ⟨"count_enable", 2, 2, .rw, 1⟩]⟩),
  (.spillRegion, ⟨0x088, 8, 1, [⟨"base", 7, 0, .rw, 0⟩,
    ⟨"size", 15, 8, .rw, 0⟩]⟩),
  (.arrayStat, ⟨0x090, 8, 1, [⟨"a0_bank0_state", 2, 0, .ro, 0⟩,
    ⟨"a0_bank1_state", 5, 3, .ro, 0⟩,
    ⟨"a0_active_bank", 6, 6, .ro, 0⟩,
    ⟨"a0_busy", 7, 7, .ro, 0⟩,
    ⟨"a0_units_live", 13, 8, .ro, 0⟩,
    ⟨"a1_bank0_state", 18, 16, .ro, 0⟩,
    ⟨"a1_bank1_state", 21, 19, .ro, 0⟩,
    ⟨"a1_active_bank", 22, 22, .ro, 0⟩,
    ⟨"a1_busy", 23, 23, .ro, 0⟩,
    ⟨"a1_units_live", 29, 24, .ro, 0⟩]⟩),
  (.accMap, ⟨0x098, 8, 2, [⟨"units", 47, 0, .ro, 0⟩]⟩),
  (.aPassCount, ⟨0x0C0, 64, 2, [⟨"count", 63, 0, .ro, 0⟩]⟩),
  (.aStreamCycles, ⟨0x0C8, 64, 2, [⟨"count", 63, 0, .ro, 0⟩]⟩),
  (.aSwapStallCycles, ⟨0x0D0, 64, 2, [⟨"count", 63, 0, .ro, 0⟩]⟩),
  (.aLedgeStallCycles, ⟨0x0D8, 64, 2, [⟨"count", 63, 0, .ro, 0⟩]⟩),
  (.aSpillCount, ⟨0x0E0, 64, 2, [⟨"count", 63, 0, .ro, 0⟩]⟩),
  (.aSpillStallCycles, ⟨0x0E8, 64, 2, [⟨"count", 63, 0, .ro, 0⟩]⟩),
  (.aEccCorrected, ⟨0x0F0, 64, 2, [⟨"count", 63, 0, .ro, 0⟩]⟩),
  (.aSatCount, ⟨0x0F8, 64, 2, [⟨"count", 63, 0, .ro, 0⟩]⟩)]

/-- The registers of the vector page (R143). -/
def regsVector : List (RegName × RegInfo) := [
  (.vecCtrl, ⟨0x080, 8, 1, [⟨"counter_clear", 0, 0, .wo, 0⟩,
    ⟨"count_enable", 1, 1, .rw, 1⟩]⟩),
  (.statRegion, ⟨0x088, 8, 1, [⟨"base", 7, 0, .rw, 0⟩,
    ⟨"slot_size", 15, 8, .rw, 0⟩,
    ⟨"slots", 20, 16, .rw, 0⟩]⟩),
  (.arrive, ⟨0x090, 8, 4, [⟨"base", 11, 0, .rw, 0⟩,
    ⟨"size_m1", 23, 12, .rw, 0⟩,
    ⟨"sem", 35, 24, .rw, 0⟩,
    ⟨"enable", 63, 63, .rw, 0⟩]⟩),
  (.arrivePtr, ⟨0x0B0, 8, 4, [⟨"ptr", 11, 0, .ro, 0⟩,
    ⟨"faulted", 12, 12, .ro, 0⟩]⟩),
  (.chainTileCount, ⟨0x0D0, 8, 1, [⟨"count", 63, 0, .ro, 0⟩]⟩),
  (.vecBusyCycles, ⟨0x0D8, 8, 1, [⟨"count", 63, 0, .ro, 0⟩]⟩),
  (.vecLedgeWaitCycles, ⟨0x0E0, 8, 1, [⟨"count", 63, 0, .ro, 0⟩]⟩),
  (.arrivalWaitCycles, ⟨0x0E8, 8, 1, [⟨"count", 63, 0, .ro, 0⟩]⟩),
  (.budgetWaitCycles, ⟨0x0F0, 8, 1, [⟨"count", 63, 0, .ro, 0⟩]⟩)]

/-- The registers of the score page (R166). -/
def regsScore : List (RegName × RegInfo) := [
  (.scoreCtrl, ⟨0x080, 8, 1, [⟨"stat_base", 17, 0, .rw, 0⟩,
    ⟨"limit_enable", 18, 18, .rw, 0⟩,
    ⟨"counter_clear", 19, 19, .wo, 0⟩,
    ⟨"count_enable", 20, 20, .rw, 1⟩]⟩),
  (.scoreStat, ⟨0x088, 8, 1, [⟨"keys_hi", 13, 0, .ro, 0⟩,
    ⟨"max_nan", 14, 14, .ro, 0⟩,
    ⟨"empty_row", 15, 15, .ro, 0⟩,
    ⟨"busy", 16, 16, .ro, 0⟩]⟩),
  (.scoreValid0, ⟨0x090, 8, 1, [⟨"columns", 63, 0, .ro, 0⟩]⟩),
  (.scoreValid1, ⟨0x098, 8, 1, [⟨"columns", 63, 0, .ro, 0⟩]⟩),
  (.scoreTilesWritten, ⟨0x0A0, 8, 1, [⟨"count", 63, 0, .ro, 0⟩]⟩),
  (.scoreTilesRead, ⟨0x0A8, 8, 1, [⟨"count", 63, 0, .ro, 0⟩]⟩),
  (.scoreMasked, ⟨0x0B0, 8, 1, [⟨"count", 63, 0, .ro, 0⟩]⟩),
  (.scoreEccCorrected, ⟨0x0B8, 8, 1, [⟨"count", 63, 0, .ro, 0⟩]⟩)]

/-- The registers of the recurrent page (R189). -/
def regsRecurrent : List (RegName × RegInfo) := [
  (.recurCtrl, ⟨0x080, 8, 1, [⟨"state_rnd", 1, 0, .rw, 0⟩,
    ⟨"drift_en", 2, 2, .rw, 0⟩,
    ⟨"drift_sc", 6, 3, .rw, 0⟩,
    ⟨"counter_clear", 7, 7, .wo, 0⟩,
    ⟨"count_enable", 8, 8, .rw, 1⟩]⟩),
  (.driftThreshold, ⟨0x088, 8, 1, [⟨"value", 31, 0, .rw, 0⟩]⟩),
  (.driftLog, ⟨0x090, 8, 1, [⟨"addr", 17, 0, .rw, 0⟩,
    ⟨"enable", 18, 18, .rw, 0⟩]⟩),
  (.rstepChunkCount, ⟨0x098, 8, 1, [⟨"count", 63, 0, .ro, 0⟩]⟩),
  (.maskedPassCount, ⟨0x0A0, 8, 1, [⟨"count", 63, 0, .ro, 0⟩]⟩),
  (.resetAppliedCount, ⟨0x0A8, 8, 1, [⟨"count", 63, 0, .ro, 0⟩]⟩),
  (.driftHighCount, ⟨0x0B0, 8, 1, [⟨"count", 63, 0, .ro, 0⟩]⟩),
  (.stateSaveCount, ⟨0x0B8, 8, 1, [⟨"count", 63, 0, .ro, 0⟩]⟩)]

/-- The registers of a page type, the header's own apart. -/
def regsOf : PageType → List (RegName × RegInfo)
  | .header => regsHeader
  | .directory => regsDirectory
  | .device => regsDevice
  | .tideline => regsTideline
  | .power => regsPower
  | .tidewatch => regsTidewatch
  | .security => regsSecurity
  | .fault => regsFault
  | .selfTest => regsSelfTest
  | .estuary => regsEstuary
  | .multicast => regsMulticast
  | .scheduler => regsScheduler
  | .rollout => regsRollout
  | .pool => regsPool
  | .cliff => regsCliff
  | .tideway => regsTideway
  | .cxl => regsCxl
  | .harbour => regsHarbour
  | .foreshore => regsForeshore
  | .update => regsUpdate
  | .twPort => regsTwPort
  | .hbm => regsHbm
  | .sequencer => regsSequencer
  | .array => regsArray
  | .vector => regsVector
  | .score => regsScore
  | .recurrent => regsRecurrent

/-- The page type a register belongs to. -/
def RegName.page : RegName → PageType
  | .pageId | .pageVer | .pageCaps | .pageCtrl | .pageStat | .event | .eventMask | .eventCount | .errHead
  | .lastEventTime | .live => .header
  | .dirEntry | .dirPresent => .directory
  | .devId | .devSerial0 | .devSerial1 | .tidelineNow | .devAlertSummary | .devCoreMap => .device
  | .discCtrl | .tickinPeriod | .tickCfg | .discStat | .tickNow | .tickEdgeTime | .wakeAlarm => .tideline
  | .pwrCtrl | .pwrStat | .pwrWake | .bwCfg | .bwStat | .bwGrants | .bwWaitUnits | .neapEntries | .inputLossCount
  => .power
  | .supStat | .supLastAction | .supMramAddr | .supMramData | .supFilter | .supValue | .supRuleLo | .supRuleHi
  => .tidewatch
  | .secStat | .secBootTime | .secOwner | .secMctpCfg | .secDebug => .security
  | .errRingBase | .errRingHead | .errRingAck | .errLost | .semReset | .semResetValue | .swapCtrl | .swapStat
  | .swapTime | .pcRetire | .pcStat | .fwCtrl | .fwStat => .fault
  | .stCtrl | .stCfg | .stStat | .stFailed | .stMarginCtrl | .stMarginResult | .stSlicesRun | .stSlicesAborted
  | .stSliceTime | .stRefFails | .stCycleTime => .selfTest
  | .estCtrl | .estStat | .estPortCfg | .estPortMac | .estPortIpv4 | .estPortIpv6Hi | .estPortIpv6Lo
  | .estCcCfg | .estRetryCfg | .estRxPkts | .estTxPkts | .estCtxHits | .estCtxMisses | .estFastCount
  | .estFastMiss | .estRetransmits | .estRnrNaks | .estCnpSent | .estCnpReceived | .estDropped | .estMgmtRejects
  => .estuary
  | .mcastGroup | .mcastCtrl | .mcastMoveCount | .mcastBridgeBytes => .multicast
  | .schedCtrl | .schedSwitchCount | .schedSaveUnits | .schedMaxReflexWait | .schedSave | .schedResv
  => .scheduler
  | .rollCtrl | .rollStat | .rollNodeLimit | .forkCount | .cowCopyCount | .prefixHitBlocks | .prefixMissBlocks
  | .prefixCollisions | .nodeEvictCount | .recomputePages | .planCount | .planDeadlineCount => .rollout
  | .poolCtrl | .poolFloor | .poolUsed | .poolWaitCount => .pool
  | .cliffCtrl | .cliffStat | .cliffRingBase | .cliffRingCfg | .cliffRingHead | .cliffRingTail | .cliffWear
  | .cliffHostBytes | .cliffNandBytes | .cliffRelocations | .cliffRebuilds | .cliffFgGcCycles => .cliff
  | .twCtrl | .twStat | .twRing | .twRingPtr | .twLaser | .twCollCount | .twRemoteSemCount | .twPermuteCount
  | .twSemFaults | .twGroup | .twPeer => .tideway
  | .cxlCtrl | .cxlStat | .cxlRemoveTime | .cxlDec | .cxlRdBytes | .cxlWrBytes | .cxlLinkRetries | .cxlGoneCount
  => .cxl
  | .hbCtrl | .hbStat | .hbRegionBase | .hbRegionSize | .hbHits | .hbMisses | .hbWritebacks | .hbAtomics
  | .hbReduceWrites | .hbMshrFullCycles | .hbPfIssued | .hbPfUsed | .hbPfLate | .hbPfEvictedUnused | .hbPfOverwritten
  | .hbFrozenTime | .hbEccCorrected | .pfc => .harbour
  | .fsCtrl | .fsRingBase | .fsRingCfg | .fsRingHead | .fsRingTail | .fsStat | .fsJobCount | .fsMacCycles
  | .fsIoWaitCycles | .fsCtxWaitCycles | .fsCodecBlocksOut | .fsCodecBlocksIn | .fsEccCorrected => .foreshore
  | .updCtrl | .updStat | .updElements | .updRowsSkipped | .updNsProducts | .updCommits | .updSkips | .updLr
  => .update
  | .twpCtrl | .twpStat | .twpTiming | .twpCalTime | .twpTxFrames | .twpRxFrames | .twpCrcErrors | .twpReplays
  | .twpFecCorrected | .twpLaneSpares => .twPort
  | .hbmCtrl | .hbmStat | .hbmRegClass | .hbmRdBytes | .hbmWrBytes | .hbmTurnarounds | .hbmActivates
  | .hbmRefreshStallCycles | .hbmWcFlushes | .hbmWcRmw | .hbmRegWaitCycles | .hbmQueueFullCycles | .hbmEccCorrected
  => .hbm
  | .seqCtrl | .seqStat | .seqChainBase | .issueCount | .passCount | .preemptCount | .branchTakenCount
  | .skippedTileCount | .qCfg | .qPc | .qDoorbell | .qStat | .qWatermark | .qSeed | .qStep | .qSrbase
  | .sc | .slot => .sequencer
  | .arrayCtrl | .spillRegion | .arrayStat | .accMap | .aPassCount | .aStreamCycles | .aSwapStallCycles
  | .aLedgeStallCycles | .aSpillCount | .aSpillStallCycles | .aEccCorrected | .aSatCount => .array
  | .vecCtrl | .statRegion | .arrive | .arrivePtr | .chainTileCount | .vecBusyCycles | .vecLedgeWaitCycles
  | .arrivalWaitCycles | .budgetWaitCycles => .vector
  | .scoreCtrl | .scoreStat | .scoreValid0 | .scoreValid1 | .scoreTilesWritten | .scoreTilesRead | .scoreMasked
  | .scoreEccCorrected => .score
  | .recurCtrl | .driftThreshold | .driftLog | .rstepChunkCount | .maskedPassCount | .resetAppliedCount
  | .driftHighCount | .stateSaveCount => .recurrent

/-- Offset of entry i of a register in its page: the register lists of the chapters. -/
def RegName.off (r : RegName) (i : Nat) : Nat :=
  match r with
  | .pageId => 0x000
  | .pageVer => 0x008
  | .pageCaps => 0x010
  | .pageCtrl => 0x018
  | .pageStat => 0x020
  | .event => 0x028
  | .eventMask => 0x030
  | .eventCount => 0x038
  | .errHead => 0x040
  | .lastEventTime => 0x048
  | .live => 0x050
  | .dirEntry => 0x080 + 16 * i
  | .dirPresent => 0x088 + 16 * i
  | .devId => 0x080
  | .devSerial0 => 0x088
  | .devSerial1 => 0x090
  | .tidelineNow => 0x098
  | .devAlertSummary => 0x0A0
  | .devCoreMap => 0x100 + 8 * i
  | .discCtrl => 0x080
  | .tickinPeriod => 0x088
  | .tickCfg => 0x090
  | .discStat => 0x098
  | .tickNow => 0x0A0
  | .tickEdgeTime => 0x0A8
  | .wakeAlarm => 0x0B0
  | .pwrCtrl => 0x080
  | .pwrStat => 0x088
  | .pwrWake => 0x090
  | .bwCfg => 0x098
  | .bwStat => 0x0A0
  | .bwGrants => 0x0A8
  | .bwWaitUnits => 0x0B0
  | .neapEntries => 0x0B8
  | .inputLossCount => 0x0C0
  | .supStat => 0x088
  | .supLastAction => 0x090
  | .supMramAddr => 0x098
  | .supMramData => 0x0A0
  | .supFilter => 0x200 + 8 * i
  | .supValue => 0x600 + 8 * i
  | .supRuleLo => 0xA00 + 16 * i
  | .supRuleHi => 0xA08 + 16 * i
  | .secStat => 0x080
  | .secBootTime => 0x088
  | .secOwner => 0x090
  | .secMctpCfg => 0x098
  | .secDebug => 0x0A0
  | .errRingBase => 0x080
  | .errRingHead => 0x088
  | .errRingAck => 0x090
  | .errLost => 0x098
  | .semReset => 0x0A0
  | .semResetValue => 0x0A8
  | .swapCtrl => 0x0B0
  | .swapStat => 0x0B8
  | .swapTime => 0x0C0
  | .pcRetire => 0x0C8
  | .pcStat => 0x0D0
  | .fwCtrl => 0x0D8
  | .fwStat => 0x100 + 8 * i
  | .stCtrl => 0x080
  | .stCfg => 0x088
  | .stStat => 0x090
  | .stFailed => 0x098
  | .stMarginCtrl => 0x0A0
  | .stMarginResult => 0x0A8
  | .stSlicesRun => 0x0B0
  | .stSlicesAborted => 0x0B8
  | .stSliceTime => 0x0C0
  | .stRefFails => 0x0C8
  | .stCycleTime => 0x200 + 8 * i
  | .estCtrl => 0x080
  | .estStat => 0x088
  | .estPortCfg => 0x090 + 40 * i
  | .estPortMac => 0x098 + 40 * i
  | .estPortIpv4 => 0x0A0 + 40 * i
  | .estPortIpv6Hi => 0x0A8 + 40 * i
  | .estPortIpv6Lo => 0x0B0 + 40 * i
  | .estCcCfg => 0x130
  | .estRetryCfg => 0x138
  | .estRxPkts => 0x140
  | .estTxPkts => 0x148
  | .estCtxHits => 0x150
  | .estCtxMisses => 0x158
  | .estFastCount => 0x160
  | .estFastMiss => 0x168
  | .estRetransmits => 0x170
  | .estRnrNaks => 0x178
  | .estCnpSent => 0x180
  | .estCnpReceived => 0x188
  | .estDropped => 0x190
  | .estMgmtRejects => 0x198
  | .mcastGroup => 0x080 + 8 * i
  | .mcastCtrl => 0x880
  | .mcastMoveCount => 0x888
  | .mcastBridgeBytes => 0x890
  | .schedCtrl => 0x080
  | .schedSwitchCount => 0x088
  | .schedSaveUnits => 0x090
  | .schedMaxReflexWait => 0x098
  | .schedSave => 0x200 + 8 * i
  | .schedResv => 0x400 + 8 * i
  | .rollCtrl => 0x080
  | .rollStat => 0x088
  | .rollNodeLimit => 0x090
  | .forkCount => 0x098
  | .cowCopyCount => 0x0A0
  | .prefixHitBlocks => 0x0A8
  | .prefixMissBlocks => 0x0B0
  | .prefixCollisions => 0x0B8
  | .nodeEvictCount => 0x0C0
  | .recomputePages => 0x0C8
  | .planCount => 0x0D0
  | .planDeadlineCount => 0x0D8
  | .poolCtrl => 0x080
  | .poolFloor => 0x088 + 8 * i
  | .poolUsed => 0x0A0 + 8 * i
  | .poolWaitCount => 0x0B8
  | .cliffCtrl => 0x080
  | .cliffStat => 0x088
  | .cliffRingBase => 0x090
  | .cliffRingCfg => 0x098
  | .cliffRingHead => 0x0A0
  | .cliffRingTail => 0x0A8
  | .cliffWear => 0x0B0
  | .cliffHostBytes => 0x0C0
  | .cliffNandBytes => 0x0C8
  | .cliffRelocations => 0x0D0
  | .cliffRebuilds => 0x0D8
  | .cliffFgGcCycles => 0x0E0
  | .twCtrl => 0x080
  | .twStat => 0x088
  | .twRing => 0x090 + 8 * i
  | .twRingPtr => 0x0D0 + 8 * i
  | .twLaser => 0x110 + 8 * i
  | .twCollCount => 0x130
  | .twRemoteSemCount => 0x138
  | .twPermuteCount => 0x140
  | .twSemFaults => 0x148
  | .twGroup => 0x200 + 8 * i
  | .twPeer => 0x400 + 8 * i
  | .cxlCtrl => 0x080
  | .cxlStat => 0x088
  | .cxlRemoveTime => 0x090
  | .cxlDec => 0x0C0 + 8 * i
  | .cxlRdBytes => 0x100
  | .cxlWrBytes => 0x108
  | .cxlLinkRetries => 0x110
  | .cxlGoneCount => 0x118
  | .hbCtrl => 0x080
  | .hbStat => 0x088
  | .hbRegionBase => 0x100 + 16 * i
  | .hbRegionSize => 0x108 + 16 * i
  | .hbHits => 0x200
  | .hbMisses => 0x208
  | .hbWritebacks => 0x210
  | .hbAtomics => 0x218
  | .hbReduceWrites => 0x220
  | .hbMshrFullCycles => 0x228
  | .hbPfIssued => 0x230
  | .hbPfUsed => 0x238
  | .hbPfLate => 0x240
  | .hbPfEvictedUnused => 0x248
  | .hbPfOverwritten => 0x250
  | .hbFrozenTime => 0x258
  | .hbEccCorrected => 0x260
  | .pfc => 0x400 + 8 * i
  | .fsCtrl => 0x080
  | .fsRingBase => 0x088
  | .fsRingCfg => 0x090
  | .fsRingHead => 0x098
  | .fsRingTail => 0x0A0
  | .fsStat => 0x0A8
  | .fsJobCount => 0x0B0
  | .fsMacCycles => 0x0B8
  | .fsIoWaitCycles => 0x0C0
  | .fsCtxWaitCycles => 0x0C8
  | .fsCodecBlocksOut => 0x0D0
  | .fsCodecBlocksIn => 0x0D8
  | .fsEccCorrected => 0x0E0
  | .updCtrl => 0x080
  | .updStat => 0x088
  | .updElements => 0x090
  | .updRowsSkipped => 0x098
  | .updNsProducts => 0x0A0
  | .updCommits => 0x0A8
  | .updSkips => 0x0B0
  | .updLr => 0x0B8
  | .twpCtrl => 0x080
  | .twpStat => 0x088
  | .twpTiming => 0x090
  | .twpCalTime => 0x098
  | .twpTxFrames => 0x0A0
  | .twpRxFrames => 0x0A8
  | .twpCrcErrors => 0x0B0
  | .twpReplays => 0x0B8
  | .twpFecCorrected => 0x0C0
  | .twpLaneSpares => 0x0C8
  | .hbmCtrl => 0x080
  | .hbmStat => 0x088
  | .hbmRegClass => 0x090 + 8 * i
  | .hbmRdBytes => 0x0B0
  | .hbmWrBytes => 0x0B8
  | .hbmTurnarounds => 0x0C0
  | .hbmActivates => 0x0C8
  | .hbmRefreshStallCycles => 0x0D0
  | .hbmWcFlushes => 0x0D8
  | .hbmWcRmw => 0x0E0
  | .hbmRegWaitCycles => 0x0E8
  | .hbmQueueFullCycles => 0x0F0
  | .hbmEccCorrected => 0x0F8
  | .seqCtrl => 0x080
  | .seqStat => 0x088
  | .seqChainBase => 0x090
  | .issueCount => 0x098
  | .passCount => 0x0A0
  | .preemptCount => 0x0A8
  | .branchTakenCount => 0x0B0
  | .skippedTileCount => 0x0B8
  | .qCfg => 0x100 + 64 * i
  | .qPc => 0x108 + 64 * i
  | .qDoorbell => 0x110 + 64 * i
  | .qStat => 0x118 + 64 * i
  | .qWatermark => 0x120 + 64 * i
  | .qSeed => 0x128 + 64 * i
  | .qStep => 0x130 + 64 * i
  | .qSrbase => 0x138 + 64 * i
  | .sc => 0x300 + 8 * i
  | .slot => 0x700 + 8 * i
  | .arrayCtrl => 0x080
  | .spillRegion => 0x088
  | .arrayStat => 0x090
  | .accMap => 0x098 + 8 * i
  | .aPassCount => 0x0C0 + 64 * i
  | .aStreamCycles => 0x0C8 + 64 * i
  | .aSwapStallCycles => 0x0D0 + 64 * i
  | .aLedgeStallCycles => 0x0D8 + 64 * i
  | .aSpillCount => 0x0E0 + 64 * i
  | .aSpillStallCycles => 0x0E8 + 64 * i
  | .aEccCorrected => 0x0F0 + 64 * i
  | .aSatCount => 0x0F8 + 64 * i
  | .vecCtrl => 0x080
  | .statRegion => 0x088
  | .arrive => 0x090 + 8 * i
  | .arrivePtr => 0x0B0 + 8 * i
  | .chainTileCount => 0x0D0
  | .vecBusyCycles => 0x0D8
  | .vecLedgeWaitCycles => 0x0E0
  | .arrivalWaitCycles => 0x0E8
  | .budgetWaitCycles => 0x0F0
  | .scoreCtrl => 0x080
  | .scoreStat => 0x088
  | .scoreValid0 => 0x090
  | .scoreValid1 => 0x098
  | .scoreTilesWritten => 0x0A0
  | .scoreTilesRead => 0x0A8
  | .scoreMasked => 0x0B0
  | .scoreEccCorrected => 0x0B8
  | .recurCtrl => 0x080
  | .driftThreshold => 0x088
  | .driftLog => 0x090
  | .rstepChunkCount => 0x098
  | .maskedPassCount => 0x0A0
  | .resetAppliedCount => 0x0A8
  | .driftHighCount => 0x0B0
  | .stateSaveCount => 0x0B8

/-- The counters of a page type: what its counter_clear clears and its count_enable holds (R75). -/
def countersOf : PageType → List RegName
  | .header => []
  | .directory => []
  | .device => []
  | .tideline => []
  | .power => [.bwGrants, .bwWaitUnits, .neapEntries, .inputLossCount]
  | .tidewatch => []
  | .security => []
  | .fault => [.errLost]
  | .selfTest => [.stSlicesRun, .stSlicesAborted, .stSliceTime, .stRefFails]
  | .estuary => [.estRxPkts, .estTxPkts, .estCtxHits, .estCtxMisses, .estFastCount, .estFastMiss, .estRetransmits, .estRnrNaks, .estCnpSent, .estCnpReceived, .estDropped, .estMgmtRejects]
  | .multicast => [.mcastMoveCount, .mcastBridgeBytes]
  | .scheduler => [.schedSwitchCount, .schedSaveUnits]
  | .rollout => [.forkCount, .cowCopyCount, .prefixHitBlocks, .prefixMissBlocks, .prefixCollisions, .nodeEvictCount, .recomputePages, .planCount, .planDeadlineCount]
  | .pool => [.poolWaitCount]
  | .cliff => [.cliffHostBytes, .cliffNandBytes, .cliffRelocations, .cliffRebuilds, .cliffFgGcCycles]
  | .tideway => [.twCollCount, .twRemoteSemCount, .twPermuteCount, .twSemFaults]
  | .cxl => [.cxlRdBytes, .cxlWrBytes, .cxlLinkRetries, .cxlGoneCount]
  | .harbour => [.hbHits, .hbMisses, .hbWritebacks, .hbAtomics, .hbReduceWrites, .hbMshrFullCycles, .hbPfIssued, .hbPfUsed, .hbPfLate, .hbPfEvictedUnused, .hbPfOverwritten, .hbFrozenTime, .hbEccCorrected, .pfc]
  | .foreshore => [.fsJobCount, .fsMacCycles, .fsIoWaitCycles, .fsCtxWaitCycles, .fsCodecBlocksOut, .fsCodecBlocksIn, .fsEccCorrected]
  | .update => [.updElements, .updRowsSkipped, .updNsProducts, .updCommits, .updSkips]
  | .twPort => [.twpTxFrames, .twpRxFrames, .twpCrcErrors, .twpReplays, .twpFecCorrected, .twpLaneSpares]
  | .hbm => [.hbmRdBytes, .hbmWrBytes, .hbmTurnarounds, .hbmActivates, .hbmRefreshStallCycles, .hbmWcFlushes, .hbmWcRmw, .hbmRegWaitCycles, .hbmQueueFullCycles, .hbmEccCorrected]
  | .sequencer => [.issueCount, .passCount, .preemptCount, .branchTakenCount, .skippedTileCount]
  | .array => [.aPassCount, .aStreamCycles, .aSwapStallCycles, .aLedgeStallCycles, .aSpillCount, .aSpillStallCycles, .aEccCorrected, .aSatCount]
  | .vector => [.chainTileCount, .vecBusyCycles, .vecLedgeWaitCycles, .arrivalWaitCycles, .budgetWaitCycles]
  | .score => [.scoreTilesWritten, .scoreTilesRead, .scoreMasked, .scoreEccCorrected]
  | .recurrent => [.rstepChunkCount, .maskedPassCount, .resetAppliedCount, .driftHighCount, .stateSaveCount]

/-- A register page of control space: a block and its instance (the page list of R464). -/
inductive Pg
  | directory | device | tideline | power | tidewatch | security | fault | selfTest | estuary | multicast
  | scheduler | rollout | pool | cliff | tideway
  | cxl (port : Fin 2) | harbour (half : Fin 2) | foreshore (die : Fin 2) | update (die : Fin 2)
  | twPort (port : Fin 16) | hbm (stack : Fin 12)
  | sequencer (core : Fin 36) | array (core : Fin 36) | vector (core : Fin 36) | score (core : Fin 36)
  | recurrent (core : Fin 36)
  deriving DecidableEq, Repr

/-- The page's block type. -/
def Pg.type : Pg → PageType
  | .directory => .directory | .device => .device | .tideline => .tideline | .power => .power
  | .tidewatch => .tidewatch | .security => .security | .fault => .fault | .selfTest => .selfTest
  | .estuary => .estuary | .multicast => .multicast | .scheduler => .scheduler | .rollout => .rollout
  | .pool => .pool | .cliff => .cliff | .tideway => .tideway | .cxl _ => .cxl | .harbour _ => .harbour
  | .foreshore _ => .foreshore | .update _ => .update | .twPort _ => .twPort | .hbm _ => .hbm
  | .sequencer _ => .sequencer | .array _ => .array | .vector _ => .vector | .score _ => .score
  | .recurrent _ => .recurrent

/-- The page's instance number (R464). -/
def Pg.inst : Pg → Nat
  | .cxl i | .harbour i | .foreshore i | .update i => i.val
  | .twPort i => i.val
  | .hbm i => i.val
  | .sequencer c | .array c | .vector c | .score c | .recurrent c => c.val
  | _ => 0

/-- First page index and stride of a block type, and its type code (R464). -/
def PageType.place : PageType → Nat × Nat × Nat × Nat
  -- first page, stride, instances, type code
  | .header => (0, 0, 0, 0)
  | .directory => (0, 0, 1, 0x01) | .device => (1, 0, 1, 0x02) | .tideline => (2, 0, 1, 0x03)
  | .power => (3, 0, 1, 0x04) | .tidewatch => (4, 0, 1, 0x05) | .security => (5, 0, 1, 0x06)
  | .fault => (6, 0, 1, 0x07) | .selfTest => (7, 0, 1, 0x08) | .estuary => (8, 0, 1, 0x09)
  | .multicast => (9, 0, 1, 0x0A) | .scheduler => (10, 0, 1, 0x0B) | .rollout => (11, 0, 1, 0x0C)
  | .pool => (12, 0, 1, 0x0D) | .cliff => (13, 0, 1, 0x0E) | .tideway => (14, 0, 1, 0x0F)
  | .cxl => (16, 1, 2, 0x10) | .harbour => (18, 1, 2, 0x11) | .foreshore => (20, 1, 2, 0x12)
  | .update => (22, 1, 2, 0x13) | .twPort => (32, 1, 16, 0x14) | .hbm => (48, 1, 12, 0x15)
  | .sequencer => (256, 8, 36, 0x20) | .array => (257, 8, 36, 0x21) | .vector => (258, 8, 36, 0x22)
  | .score => (259, 8, 36, 0x23) | .recurrent => (260, 8, 36, 0x24)

/-- The block types in ascending type order (R464). -/
def pageTypes : List PageType :=
  [.directory, .device, .tideline, .power, .tidewatch, .security, .fault, .selfTest, .estuary, .multicast,
   .scheduler, .rollout, .pool, .cliff, .tideway, .cxl, .harbour, .foreshore, .update, .twPort, .hbm,
   .sequencer, .array, .vector, .score, .recurrent]

/-- The page index of a page: first + stride * instance (R464). -/
def Pg.index (p : Pg) : Nat := p.type.place.1 + p.type.place.2.1 * p.inst

/-- The page of a type and an instance number. -/
def Pg.of (t : PageType) (i : Nat) : Option Pg :=
  let two (f : Fin 2 → Pg) : Option Pg := if h : i < 2 then some (f ⟨i, h⟩) else none
  let core (f : Fin 36 → Pg) : Option Pg := if h : i < 36 then some (f ⟨i, h⟩) else none
  match t with
  | .header => none
  | .directory => some .directory | .device => some .device | .tideline => some .tideline
  | .power => some .power | .tidewatch => some .tidewatch | .security => some .security
  | .fault => some .fault | .selfTest => some .selfTest | .estuary => some .estuary
  | .multicast => some .multicast | .scheduler => some .scheduler | .rollout => some .rollout
  | .pool => some .pool | .cliff => some .cliff | .tideway => some .tideway
  | .cxl => two .cxl | .harbour => two .harbour | .foreshore => two .foreshore | .update => two .update
  | .twPort => if h : i < 16 then some (.twPort ⟨i, h⟩) else none
  | .hbm => if h : i < 12 then some (.hbm ⟨i, h⟩) else none
  | .sequencer => core .sequencer | .array => core .array | .vector => core .vector | .score => core .score
  | .recurrent => core .recurrent

/-- The page with a page index, if the page list assigns it (R464). -/
def Pg.ofIndex (n : Nat) : Option Pg :=
  if n < 15 then Pg.of (pageTypes.getD n .header) 0
  else if n < 16 then none
  else if n < 18 then Pg.of .cxl (n - 16)
  else if n < 20 then Pg.of .harbour (n - 18)
  else if n < 22 then Pg.of .foreshore (n - 20)
  else if n < 24 then Pg.of .update (n - 22)
  else if n < 32 then none
  else if n < 48 then Pg.of .twPort (n - 32)
  else if n < 60 then Pg.of .hbm (n - 48)
  else if n < 256 then none
  else
    match (n - 256) % 8 with
    | 0 => Pg.of .sequencer ((n - 256) / 8)
    | 1 => Pg.of .array ((n - 256) / 8)
    | 2 => Pg.of .vector ((n - 256) / 8)
    | 3 => Pg.of .score ((n - 256) / 8)
    | 4 => Pg.of .recurrent ((n - 256) / 8)
    | _ => none

/-- The register at an offset of a page and its place in a numbered row; none where the chapter maps none (R460). -/
def findReg (t : PageType) (off : Nat) : Option (RegName × Nat × RegInfo) :=
  ((regsHeader ++ regsOf t).findSome? fun (r, i) =>
    if i.base ≤ off ∧ (off - i.base) % i.stride = 0 ∧ (off - i.base) / i.stride < i.count then
      some (r, (off - r.off 0) / i.stride, i)
    else none)

/-- The mask of the bits [hi:lo]. -/
def maskOf (hi lo : Nat) : Nat := (2 ^ (hi + 1 - lo) - 1) * 2 ^ lo

/-- The bits of a register whose fields have an access code. -/
def RegInfo.mask (i : RegInfo) (a : Acc) : Word :=
  BitVec.ofNat 64 (i.fields.foldl (fun m f => if f.acc = a then m ||| maskOf f.hi f.lo else m) 0)

/-- The value of a register at reset (R11 tables). -/
def RegInfo.reset (i : RegInfo) : Word :=
  BitVec.ofNat 64 (i.fields.foldl (fun m f => m + f.reset * 2 ^ f.lo) 0)

/-- The reset value of the register at a key: page index times 4,096 plus offset. -/
def regReset (key : Nat) : Word :=
  match Pg.ofIndex (key / 4096) with
  | none => 0
  | some p =>
    match findReg p.type (key % 4096) with
    | none => 0
    | some (_, _, i) => i.reset

/-- The key of entry i of a register of a page. -/
def regKey (p : Pg) (r : RegName) (i : Nat) : Nat := p.index * 4096 + r.off i

end Sys2Proof.Machine
end

