-- ==== Sys2Proof/Machine/State.lean ====
section
/-! DEFINITION. The state of Kamurfold: everything the spec gives the machine, as plain data, and the state after
reset. Memory, tables of units and sets of keys are sparse and canonical (`FMap`, `KeySet`). -/

namespace Sys2Proof.Machine

/-- The reasons a step can stop with a fault. None is raised: the spec gives every command of the table an effect, and
a failure of an operation is a status in its record (R12), not a stop of the machine. -/
inductive Fault
  /-- Raised by no meaning. Safe. -/
  | none_
  deriving DecidableEq, Repr

/-- The reasons a command can be refused. -/
inductive Refusal
  /-- Answered by an arm of `exec` for a row that has no meaning yet. Safe. -/
  | notModelled (mnemonic : String)
  deriving DecidableEq, Repr

/-- The ordering codes of R1. -/
inductive Code | la768 | lb768 | la512
  deriving DecidableEq, Repr

/-! ### A core: arrays, sequencer, vector engine, score store -/

/-- The states of a weight bank (R60). -/
inductive BankState | empty | loading | ready | active | releasing
  deriving DecidableEq, Repr

/-- The tag of a weight block (R61): Ledge byte address, format code, orientation and K rows. -/
structure BankTag where
  addr : Nat
  fmt : Nat
  transposed : Bool
  kRows : Nat
  deriving DecidableEq, Repr

/-- One weight bank of an array with the snapshot it holds (R60, R61). `bytes` are the block's bytes as read, the
scale bytes of an E2M1 block after its element bytes. -/
structure Bank where
  state : BankState := .empty
  tag : Option BankTag := none
  bytes : List Byte := []
  deriving DecidableEq, Repr

/-- Output tiles kept in accumulator memory for a later CONTINUE (R68, R107), or left there by a product that is
stopped. Key (mt * Nt + nt) * 4096 + 64 * row + column of `vals`. -/
structure KeptTiles where
  queue : Nat
  unit : Nat
  m : Nat
  n : Nat
  exact : Bool
  terms : Nat
  vals : FMap (BitVec 96)
  saved : KeySet := []
  deriving DecidableEq, Repr

/-- Carried state of a recurrent operator in accumulator units (R172, R178): FP32 patterns at key 64 * row + column,
and the c values of a four-gate cell from key 64 * 65536. -/
structure Carried where
  queue : Nat
  gated : Bool
  unit : Nat
  su : Nat
  fmt : Nat
  vals : FMap (BitVec 32)
  saved : KeySet := []
  deriving DecidableEq, Repr

/-- A cube array: two weight banks, the bank in use at cube (0, 0), kept tiles and carried state (R60, R67, R178). -/
structure ArraySt where
  bank0 : Bank := {}
  bank1 : Bank := {}
  active : Bool := false
  kept : List KeptTiles := []
  carried : List Carried := []
  deriving DecidableEq, Repr

/-- The states of a tile queue (R77). -/
inductive QState | idle | running | waiting | halted | stopping
  deriving DecidableEq, Repr

/-- What an instruction can touch, fixed at its decode (R88): byte ranges by device address, accumulator units as
48 * array + unit, scalar registers, length slots, and the score store as one unit. -/
structure Touch where
  rd : List (Nat × Nat) := []
  wr : List (Nat × Nat) := []
  units : List Nat := []
  scs : List Nat := []
  slots : List Nat := []
  score : Bool := false
  deriving DecidableEq, Repr

/-- What the score store held (R146 to R148): entries, maxima, sums, valid columns, and whether a score MATMUL had completed. -/
structure ScoreOld where
  entries : FMap (BitVec 32)
  maxima : FMap (BitVec 32)
  sums : FMap (BitVec 32)
  valid : BitVec 128
  done : Bool
  deriving DecidableEq, Repr

/-- What an instruction's effects replaced as it issued: memory, registers by key, kept tiles, carried state, the score
store and tile registers. An instruction that is discarded in flight, or ends
before it has started, does nothing: all of it is put back (R98). -/
structure Undo where
  /-- Something was noted: the instruction passed its checks. -/
  taken : Bool := false
  mem : List (Nat × List Byte) := []
  regs : List (Nat × Word) := []
  slots : List (Nat × Nat) := []
  /-- The bank a weight load has replaced. -/
  bank : Option Bank := none
  kept : List KeptTiles := []
  carried : List Carried := []
  score : Option ScoreOld := none
  tregs : FMap (BitVec 32) := []
  deriving DecidableEq, Repr

/-- What one chunk of an RSTEP adds to the recurrent page when it is committed (R182, R184, R189): masked passes, resets
applied, groups that entered, a NaN at its boundary, and the largest drift sum of its rows. -/
structure RsNote where
  masked : Nat
  resets : Nat
  groups : Nat
  nan : Bool
  drift : BitVec 32
  deriving DecidableEq, Repr

/-- An instruction in flight: its number and address, its four words, what it has done and what is still to happen
when it completes. -/
structure Flight where
  seq : Nat
  pc : Nat
  w0 : Word
  w1 : Word
  w2 : Word
  w3 : Word
  /-- The status its checks or its work gave; OK until something failed. -/
  status : Status := .ok
  /-- Its own work is over. -/
  done : Bool := false
  /-- The failure is queue-fatal: the HALT rules hold whatever the policy (R377). -/
  fatal : Bool := false
  /-- An earlier instruction failed, so this one completes with E_ABORT and its ADDs are not performed (R98). -/
  aborted : Bool := false
  /-- The runtime extents of its shape (R90). -/
  m : Nat := 0
  n : Nat := 0
  k : Nat := 0
  /-- Committed tiles, chunks or 4 KiB units (R96). -/
  wm : Nat := 0
  /-- Tiles, chunks or units in all. -/
  total : Nat := 0
  touch : Touch := {}
  /-- Accumulator units of its live tiles, and those of them that are in the save area (R295). -/
  units : List Nat := []
  saved : KeySet := []
  /-- A gated product: groups of the A feed entered so far (R136). -/
  gated : Bool := false
  groups : Nat := 0
  /-- The chain and prologue entries as read at decode (R123), and the SR inputs at issue (R100). -/
  chainW : List Word := []
  proW : List Word := []
  seed : Word := 0
  step : Word := 0
  srbase : Word := 0
  /-- A load into a weight bank has begun (R60, R83). -/
  loading : Bool := false
  /-- Ledge writes made at completion: statistics, summaries, slot headers (R129, R138, R149). -/
  atEnd : List (Nat × List Byte) := []
  /-- A scalar register written at completion (R130, R184). -/
  scAtEnd : Option (Nat × Word) := none
  /-- Whether the post ADD has been performed (R89). -/
  posted : Bool := false
  issued : Word := 0
  /-- Weight blocks of a product that have swapped in so far, 0 before it enters its array (R60, R92). -/
  visited : Nat := 0
  /-- What its effects replaced (R98). -/
  old : Undo := {}
  /-- Tile registers that its chain instance needs (R132, R140). -/
  need : Nat := 0
  /-- The blocks of a product in the order it visits them (R105, R108, R176). -/
  blocks : List BankTag := []
  /-- What its pages count in full when it ends with OK (R71, R74, R116, R143, R166). -/
  counts : List (Pg × RegName × Nat × Nat) := []
  /-- What each chunk of an RSTEP counts when it is committed (R189). -/
  chunks : List RsNote := []
  deriving DecidableEq, Repr

/-- A tile queue (R77). Its configuration, pc, scalar registers, slots and SR registers are page registers (R101). -/
structure Queue where
  state : QState := .idle
  lastStatus : Nat := 0
  seq : Nat := 0
  watermark : Nat := 0
  failSeq : Nat := 0
  /-- The status of the last instruction that failed since the start doorbell, 0 for none (R324). -/
  runStatus : Nat := 0
  flights : List Flight := []
  /-- SKIP is discarding up to the next resync instruction (R98). -/
  discarding : Bool := false
  /-- The tideline deadline of the work the queue runs, 0 for none (R29). -/
  deadline : Word := 0
  /-- Ledge bytes of its reservation that stand in the save area: offset and contents (R295). -/
  ledgeSaved : List (Nat × List Byte) := []
  /-- The stream slot Gulkutik has bound the queue to, with the SR seed and step it takes from it (R100, R200). -/
  bound : Option (Nat × Word × Word) := none
  deriving DecidableEq, Repr

/-- A logical core. -/
structure Core where
  holder : Option Nat := none
  prevHolder : Nat := 7
  stopping : Bool := false
  queues : FMap Queue := []
  sems : FMap Word := []
  a0 : ArraySt := {}
  a1 : ArraySt := {}
  /-- Tile registers: FP32 patterns at key 4096 * register + 64 * row + column (R121). -/
  tregs : FMap (BitVec 32) := []
  /-- Score store: FP32 patterns at key 8192 * query + key (R146). -/
  score : FMap (BitVec 32) := []
  scoreMax : FMap (BitVec 32) := []
  scoreSum : FMap (BitVec 32) := []
  /-- The 128 column-valid bits of the score store (R147). -/
  scoreValid : BitVec 128 := 0
  /-- A score MATMUL has completed since the last reset of the store (EMPTY_ROW, R166). -/
  scoreDone : Bool := false
  /-- The 64 key limits read when the last k0 = 0 MATMUL started, none where limits were off (R148). -/
  scoreLimit : Option (List Nat) := none
  /-- Score-store words with an uncorrectable error, by 32-byte word (R146). -/
  scoreBad : KeySet := []
  /-- 64-byte sectors landed in the arrival windows, at key 2^20 * window + sector (R135). -/
  landed : KeySet := []
  /-- Sectors of the arrival windows that have landed in part: the bytes of each that have, as a mask, by the same key (R135). -/
  landing : FMap (BitVec 64) := []
  /-- Register writes that wait for an instruction in flight (R143, R166, R189): key and value, oldest first. -/
  waiting : List (Nat × Word) := []
  /-- The queue whose contents each 64 KiB of Ledge holds, plus one; 0 for none (R295). -/
  ledgeOwner : FMap Nat := []
  /-- Start and resume doorbells that wait for RESUME: queue and value, oldest first (R393). -/
  heldBells : List (Nat × Word) := []
  /-- The core is in Slack (R401). -/
  slack : Bool := false
  /-- The core is retired (R390). -/
  retired : Bool := false
  deriving DecidableEq, Repr

/-! ### Records, traces and what leaves the device -/

/-- A completion record (R320). -/
structure Completion where
  id : Nat
  status : Nat
  opcode : Nat
  extraKind : Nat := 0
  flags : Nat := 0
  watermark : Nat := 0
  doneTime : Word
  service : Nat := 0
  extra : Nat := 0
  deriving DecidableEq, Repr

/-- An error record (R379); its seq and flags bit 2 are set as it is written. -/
structure ErrRec where
  time : Word
  seq : Nat := 0
  page : Nat
  cls : Nat
  code : Nat
  subjectKind : Nat := 0
  wmUnit : Nat := 0
  flags : Nat := 0
  subject : Nat := 0
  watermark : Nat := 0
  count : Nat := 1
  address : Nat := 0
  further : List Nat := []
  detail : Nat := 0
  deriving DecidableEq, Repr

/-- A 16-byte summary of an error record in Tidewatch MRAM (R381). -/
structure Summary where
  time : Word
  page : Nat
  cls : Nat
  code : Nat
  subject : Nat
  deriving DecidableEq, Repr

/-- An entry of the semaphore trace: the operation applied, and when (R30, R80). -/
structure TraceEntry where
  scope : Bool
  core : Nat
  index : Nat
  time : Word
  deriving DecidableEq, Repr

/-- The states of a LIVE handshake (R393). -/
inductive LiveSt | running | quiescing | quiesced | draining | drained | resuming
  deriving DecidableEq, Repr

/-- The LIVE handshake of a governing page (R393), and the requests that wait for the end of a swap (R388). -/
structure Live where
  state : LiveSt := .running
  held : Bool := false
  owner : Nat := 0
  transitions : Nat := 0
  waiting : List (Nat × Nat) := []
  deriving DecidableEq, Repr

/-- Where error records go (R379 to R381). -/
structure Records where
  /-- Records held on the Headland die while ERR_RING_BASE.base is 0, oldest first (R380). -/
  buffered : List ErrRec := []
  /-- Corrected records in their 1 ms (R379). -/
  held : List ErrRec := []
  /-- The MRAM summaries, oldest first, at most 32,768 (R381). -/
  summaries : List Summary := []
  /-- Summaries ever written to MRAM: the n-th lies in slot n mod 32,768 (R381, R414). -/
  pushed : Nat := 0
  /-- Summaries kept on the Headland die while Tidewatch is stopped, at most 4,096 (R381). -/
  kept : List Summary := []
  /-- When a corrected record of a page was last summarised, by page index; 0 for never (R381). -/
  lastCorrected : FMap Word := []
  deriving DecidableEq, Repr

/-- An entry of a stack's write-combining buffer: its line and byte mask, and when it was made (R249). -/
structure WcEntry where
  line : Nat
  mask : BitVec 128
  since : Word
  deriving DecidableEq, Repr

/-- The stream prefetcher of a Harbour half for one core (R256): the misses that may form a stream, newest first, and for each
stream the line it has reached, the most recently used stream first. -/
structure Prefetcher where
  misses : List Nat := []
  streams : List Nat := []
  deriving DecidableEq, Repr

/-! ### The tideline (R22 to R29) -/

/-- A write of TICKIN_PERIOD (`cfg` false) or TICK_CFG (`cfg` true) that waits for a tick start, and its time (R27). -/
structure TickWrite where
  at_ : Word
  cfg : Bool
  value : Word
  deriving DecidableEq, Repr

/-- Ticks and discipline: the configuration in force, the running tick, missed edges, the measurements counted toward
LOCKED and HOLDOVER, the count kept in MRAM and the PPS_OUT pin. -/
structure Tide where
  /-- TICKIN_PERIOD and TICK_CFG in force. -/
  period : Word := 0x0000019000000000
  cfg : Word := 0x0000000000030000
  waiting : List TickWrite := []
  /-- Ticks run. -/
  running : Bool := false
  /-- A nonzero period waits for its first tick since this write. -/
  armed : Option Word := none
  start : Word := 0
  missed : Nat := 0
  /-- TICK_LOST has been raised and no edge has come since: the window is the whole period (R26). -/
  widened : Bool := false
  /-- Consecutive measurements within 40 units, and beyond 400 (R25). -/
  near : Nat := 0
  far : Nat := 0
  /-- The discipline has locked once, or has stepped (R23). -/
  locked : Bool := false
  stepped : Bool := false
  /-- The frequency the discipline keeps and the correction it slews by, in parts per billion (R23, R25). -/
  freq : Int := 0
  slew : Int := 0
  /-- The last whole second recorded in MRAM, and the final record of a loss of standby (R22). -/
  recorded : Word := 0
  final : Option Word := none
  pps : Bool := false
  deriving DecidableEq, Repr

/-! ### Partitions -/

/-- The regulators of a bay's partition (R253, R254): the class settings in force, by class, and the tokens of the
ceiling buckets, in 64-byte units. -/
structure Regulator where
  inForce : List Word := [0x0000000020000040, 0x0000000020000040, 0x0000000020000040, 0x0000000020004010]
  tokens : List Nat := [0, 0, 0, 0]
  deriving DecidableEq, Repr

/-! ### Rings and far memory -/

/-- A Foreshore job that runs or waits for its context (R230 to R233): its descriptor, its layer descriptors, its ring
count, and whether an abort is pending. -/
structure FsJob where
  words : List Word
  layers : List Word
  ix : Nat
  waiting : Bool := false
  abort : Bool := false
  started : Word
  deriving DecidableEq, Repr

/-- A Cliff object (R276, R280): its size in 4 KiB units, its class and its contents; `gone` once a DELETE of it was accepted. -/
structure CliffObj where
  units : Nat
  cls : Nat := 0
  data : FMap Byte := []
  gone : Bool := false
  /-- The tiers it may live in, the one it lives in, its age and, in CXL memory, its decoder as 8 * port + n (R283). -/
  tiers : List Nat := [2]
  tier : Nat := 2
  lastUse : Word := 0
  home : Nat := 0
  deriving DecidableEq, Repr

/-- A Cliff command that has started (R280, R281): its descriptor, its ring count, and the status its checks gave. -/
structure CliffRun where
  words : List Word
  ix : Nat
  status : Status
  started : Word
  deriving DecidableEq, Repr

/-- Cliff (R275 to R282): its objects by identifier and the commands in flight, in ring order. -/
structure CliffSt where
  objs : FMap (Option CliffObj) := []
  runs : List CliffRun := []
  deriving DecidableEq, Repr

/-! ### Gulkutik: models, scenes, streams, pages and requests -/

/-- The states of a KV page (R159, R161). -/
inductive PageSt | free | resident | spilled | dropped | recomputing
  deriving DecidableEq, Repr

/-- A KV page descriptor (R159), with the class of the scene that owns it (R283). -/
structure KvPage where
  st : PageSt := .free
  tail : Bool := false
  memCause : Bool := false
  refs : Nat := 0
  pins : Nat := 0
  filled : Nat := 0
  lastUse : Word := 0
  loc : Nat := 0
  fmt : Nat := 0
  dCode : Nat := 0
  model : Nat := 0
  version : Nat := 0
  layer : Nat := 0
  head : Nat := 0
  first : Nat := 0
  cls : Nat := 0
  /-- The bay whose partition holds the page in HBM4 (R119). -/
  bay : Nat := 0
  /-- The bits a dropped page held, which its recomputation gives again (R164). -/
  memo : List Byte := []
  deriving DecidableEq, Repr

/-- A token page (R196): references, class, age, and whether it was demoted to Cliff (R283). -/
structure TokPage where
  refs : Nat
  cls : Nat
  lastUse : Word
  cliff : Bool := false
  deriving DecidableEq, Repr

/-- A carried-state checkpoint (R185): the values of the output state images of every recurrent layer, at a position. -/
structure Ckpt where
  refs : Nat
  pos : Nat
  image : List Byte
  units : Nat
  cls : Nat
  lastUse : Word
  cliff : Bool := false
  deriving DecidableEq, Repr

/-- A prefix-tree node (R202, R203). `next` goes on in its hash chain; `rowAt` and `tokensAt` are the device addresses of its row of
page identifiers and of its token block, which the spec leaves open. -/
structure Node where
  key : BitVec 128
  parent : Option Nat
  model : Nat
  version : Nat
  ckpt : Option Nat
  first : Nat
  children : Nat
  lastUse : Word
  row : List Nat
  tokens : List (BitVec 32)
  cls : Nat
  next : Option Nat := none
  rowAt : Word := 0
  tokensAt : Word := 0
  deriving DecidableEq, Repr

/-- A layout record (R200): leader's seed, group size, member row and positions per member. -/
structure Layout where
  seed : Word
  size : Nat
  member : Nat
  nPos : Nat
  deriving DecidableEq, Repr

/-- What the step of a stream waits for, or that it runs (R162 to R165, R285, R298). -/
inductive Phase
  | idle
  | model
  | pages (ids : List Nat) (since : Word) (starter : Bool)
  | pool (since : Word)
  | running
  deriving DecidableEq, Repr

/-- Columns of a layer that an array of a logical core computes, in 64-column tiles (R118). -/
structure ColRange where
  core : Nat
  array : Nat
  first : Nat
  count : Nat
  deriving DecidableEq, Repr

/-- An L3 tile of a layer on an array (R105, R109, R111): first row tile and row tiles, column tiles, K blocks; `cont` where it goes on
from the partial sums of an earlier K tile. -/
structure LayerTile where
  core : Nat
  array : Nat
  m0 : Nat
  m : Nat
  n0 : Nat
  n : Nat
  k0 : Nat
  k : Nat
  cont : Bool
  deriving DecidableEq, Repr

/-- How a dispatch runs a layer (R111, R112, R118): its variant, what the MATMULs take from it, the columns of each array, the
multicast group of its cores, the K blocks of each core where K is divided, and its L3 tiles in order. -/
structure LayerRun where
  layer : Nat
  variant : Nat
  l2Order : Nat
  l1Order : Nat
  l2Tm : Nat
  l2Tn : Nat
  cols : List ColRange
  group : Nat
  kParts : List (Nat × Nat × Nat)
  tiles : List LayerTile
  deriving DecidableEq, Repr

/-- A dispatch of one step of a group of streams (R100, R118, R119, R200): its members, the leader's seed, the first position it
writes, the positions of a member, whether every rounding is RNE, its layers, the core of each key-value head group by layer and head,
the core of each member's own work, its step buffers, and the queues bound to it. -/
structure Dispatch where
  members : List Nat
  seed : Word
  step : Word
  nPos : Nat
  rne : Bool
  layers : List LayerRun
  heads : List (Nat × Nat × Nat)
  futures : List Nat
  buffers : List Nat
  queues : List (Nat × Nat)
  deriving DecidableEq, Repr

/-- A Foreshore context that Gulkutik keeps (R223): frames seen, and the bytes of its history rings; none stands for zeros. -/
structure FsCtx where
  seen : Nat := 0
  rings : List Byte := []
  deriving DecidableEq, Repr

/-- A stream (R194, R196). -/
structure Stream where
  gen : Nat
  scene : Nat
  draining : Bool := false
  phase : Phase := .idle
  parent : Option Nat := none
  forkKey : Nat := 0
  ordinal : Nat := 0
  seed : Word
  position : Nat := 0
  /-- Rows of page identifiers (R160). -/
  map : List (List Nat) := []
  /-- Device address of the page map, which the spec leaves open. -/
  mapAt : Word := 0
  /-- The carried state at the position: the values of the state images of every recurrent layer (R185). -/
  state : List Byte := []
  /-- The tokens of the committed positions, and the token pages that hold them. -/
  tokens : List (BitVec 32) := []
  tokPages : List Nat := []
  ckpts : List Nat := []
  /-- The checkpoints that are anchored for the stream, and the positions at which it was re-anchored (R186, R205). -/
  anchored : List Nat := []
  anchors : List Nat := []
  layouts : List Layout := []
  /-- Requests that act on the stream, in acceptance order; the first is being applied. -/
  work : List Nat := []
  /-- The step in flight: pages pinned, first position, tokens it brings in, positions it generates. -/
  pinned : List Nat := []
  bring : List (BitVec 32) := []
  gens : Nat := 0
  /-- A future of a PLAN or ROLLOUT: steps committed, its group (R200), and the value head's outputs. -/
  steps : Nat := 0
  leader : Nat := 0
  group : Nat := 1
  member : Nat := 0
  bay : Option Nat := none
  /-- The dispatch in flight that the stream leads (R200). -/
  run : Option Dispatch := none
  values : List (BitVec 32) := []
  /-- The first position the request's steps wrote. -/
  base : Nat := 0
  /-- The recomputation time or wait of the step (R208). -/
  extra : Nat × Nat := (0, 0)
  /-- The context of the stream's decoding, once it has one (R223). -/
  decCtx : Option FsCtx := none
  deriving DecidableEq, Repr

/-- A scene (R192). -/
structure Scene where
  gen : Nat
  model : Nat
  version : Nat
  cls : Nat
  srMode : Nat
  frameFmt : Nat
  seed : Word
  interval : Nat
  threshold : BitVec 32
  root : Nat
  intake : Nat
  intakeBytes : Nat
  rkey : Nat
  forkSerial : Nat := 0
  /-- Requests of the whole scene that wait for earlier ones (R321). -/
  closing : List Nat := []
  /-- The context of the scene's encoding (R223). -/
  encCtx : FsCtx := {}
  deriving DecidableEq, Repr

/-- The hot-set states in which a version's weights are held (R298). -/
inductive Hot | cold | staging | resident | pinned
  deriving DecidableEq, Repr

/-- A loaded model version (R298 to R301). -/
structure ModelV where
  hot : Hot := .cold
  retiring : Bool := false
  package : Nat
  pin : Bool
  bays : Nat
  cores : Nat
  /-- The tideline time from which OPEN_SCENE may bind it (R300). -/
  live : Option Word := none
  /-- Staged to HBM4, it waits for a tick start to become PINNED (R301). -/
  waitTick : Bool := false
  lastUse : Word
  /-- The LOAD_MODEL that waits for its staging. -/
  loader : Option Nat := none
  /-- The working copies that training steps have written, by tensor (R358, R368). -/
  work : FMap (List Byte) := []
  /-- Its home copies (R14, R298): the units of the replica in each bay, and of a pinned version the offset and bytes of its part in the
  Ledge of each core. -/
  homes : List (Nat × List Nat) := []
  ledge : List (Nat × Nat × Nat) := []
  deriving DecidableEq, Repr

/-- A plan of an iteration (R211). -/
structure PlanRec where
  score : BitVec 32
  iter : Nat
  ordinal : Nat
  handle : Nat
  tokens : List (BitVec 32)
  deriving DecidableEq, Repr

/-- A message that Estuary accepted and Gulkutik has not answered (R309, R314). -/
structure Req where
  qp : Nat
  id : Word
  op : Nat
  accepted : Word
  deadline : Word
  scene : Nat
  stream : Nat
  body : List Byte
  /-- The request it follows failed a step (R194). -/
  broken : Bool := false
  cancel : Bool := false
  /-- An allocation of it waits since (R285). -/
  poolWait : Option Word := none
  /-- An OBSERVE has walked the prefix tree; the positions it reused (R205). -/
  walked : Bool := false
  reused : Nat := 0
  /-- The nodes its walk has hit, while the lookup goes on (R206). -/
  hits : Option (List Nat) := none
  /-- Futures by ordinal; iterations completed; the distribution, the codes drawn, the plans of the last iteration. -/
  started : Bool := false
  futures : List Nat := []
  iter : Nat := 0
  dist : List (BitVec 32) := []
  codes : List Nat := []
  plans : List PlanRec := []
  /-- Committed steps of futures that are closed. -/
  counts : List Nat := []
  failed : Option Nat := none
  extra : Nat × Nat := (0, 0)
  /-- Bytes of host data received for an OBJ_WRITE. -/
  data : List Byte := []
  /-- Progress of a training step (R359): the micro-batches committed on the module. -/
  micro : Nat := 0
  deriving DecidableEq, Repr

/-- Everything Gulkutik keeps for models, scenes, streams and the pool. -/
structure Gulk where
  pages : FMap KvPage := []
  toks : FMap (Option TokPage) := []
  ckpts : FMap (Option Ckpt) := []
  nodes : FMap (Option Node) := []
  streams : FMap (Option Stream) := []
  scenes : FMap (Option Scene) := []
  /-- Generations of free slots. -/
  streamGen : FMap Nat := []
  sceneGen : FMap Nat := []
  /-- Loaded versions by model * 256 + version. -/
  models : FMap (Option ModelV) := []
  /-- Requests by place in the order of acceptance (R309). -/
  reqs : FMap (Option Req) := []
  accepted : Nat := 0
  deriving DecidableEq, Repr

/-! ### Estuary: queue pairs, regions, ports -/

/-- What a queue pair puts on the wire: an RDMA WRITE of a result, a SEND with or without immediate, an RDMA READ
(R305, R312, R319). -/
inductive Wire
  | write (addr rkey : Nat) (bytes : List Byte)
  | send (bytes : List Byte) (imm : Option Nat)
  | read (addr rkey len : Nat)
  deriving DecidableEq, Repr

/-- What a queue pair has sent and the host has not acknowledged (R305): first packet number, packets, the request it
belongs to. -/
structure Sent where
  psn : Nat
  packets : Nat
  req : Option Nat
  what : Wire
  deriving DecidableEq, Repr

/-- A fast-path binding (R322). -/
structure FastBind where
  core : Fin 36
  /-- Address of the program: Qn_PC at the bind. -/
  pc : Nat
  queue : Fin 8
  inLen : Nat
  inOff : Nat
  outOff : Nat
  outLen : Nat
  array : Nat
  bank : Nat
  wt : Nat
  wFmt : Nat
  transposed : Bool
  deriving DecidableEq, Repr

/-- A queue pair (R305, R310, R311). -/
structure Qp where
  ud : Bool := false
  role : Nat
  port : Nat := 0
  cls : Nat := 0
  mtu : Nat := 4096
  dscp : Nat := 0
  prio : Nat := 0
  mgmt : Bool := false
  peerQpn : Nat := 0
  peerIp : Nat := 0
  udpPort : Nat := 0
  error : Bool := false
  sendPsn : Nat := 0
  recvPsn : Nat := 0
  unacked : List Sent := []
  /-- Since when the ACK timeout runs (R305). -/
  timer : Word := 0
  retries : Nat := 0
  rnrRetries : Nat := 0
  /-- Send rate in 100 Mb/s (R305). -/
  rate : Nat := 4000
  lastCnp : Option Word := none
  /-- The latest notification received, or the latest rise of the rate since (R305). -/
  notified : Word := 0
  fast : Option FastBind := none
  fastCount : Nat := 0
  deriving DecidableEq, Repr

/-- A device region (R312). -/
structure DevRegion where
  addr : Nat
  size : Nat
  rkey : Nat
  qp : Nat
  deriving DecidableEq, Repr

/-- A fast-path request that runs or waits (R323): its queue pair, payload, whether Gulkutik serves it, whether it
runs, its acceptance. -/
structure FastReq where
  qp : Nat
  payload : List Byte
  miss : Bool
  running : Bool := false
  count : Nat
  /-- The binding at its acceptance. -/
  bind : FastBind
  /-- When its frame was accepted (R30). -/
  accepted : Word := 0
  deriving DecidableEq, Repr

/-- Estuary (R305 to R313, R322, R323). -/
structure Est where
  qps : FMap (Option Qp) := []
  regions : List DevRegion := []
  fast : List FastReq := []
  /-- Priorities a port has paused, as a mask by port (R305). -/
  paused : FMap Nat := []
  /-- Port configurations in force, by port, taken at link-up (R326). -/
  ports : FMap (Option Word) := []
  /-- Cached contexts, by set, latest used first, and queue pairs whose fetch is outstanding (R308). -/
  cache : FMap (List Nat) := []
  misses : List Nat := []
  /-- Packets of queue pairs whose context is not cached wait, in the order of arrival (R308). -/
  held : List (Nat × Instr) := []
  /-- Timestamps of PTP event messages: port, received, time (R306). -/
  ptp : List (Nat × Bool × Word) := []
  /-- Context sets that use the spare way (R308). -/
  spared : KeySet := []
  /-- No further message is accepted (R378). -/
  closed : Bool := false
  deriving DecidableEq, Repr

/-! ### Tideway: ports and collectives -/

/-- The link engine of a Tideway port (R333 to R335): the next sequence number, the number expected, frames that wait,
the replay buffer, credits by virtual channel, consecutive replays, and since when it retrains. -/
structure TwPort where
  next : Nat := 0
  expect : Nat := 0
  queue : List TwFrame := []
  replay : List TwFrame := []
  credits : List Nat := [64, 64, 64, 64]
  replays : Nat := 0
  retrain : Option Word := none
  /-- A wavelength's lane is paused or lost; the lanes that run. -/
  lanes : Nat := 4
  /-- When the latest frame came in, and the send time it carries (R30, R333). -/
  rxTime : Word := 0
  rxSent : Word := 0
  deriving DecidableEq, Repr

/-- A collective of a ring (R341 to R345, R348 to R350): its descriptor, ring count and group sequence number; the
status so far; whether it runs; what has come in, by 64-byte unit and byte of its two streams (partials, and results from
2^40); the chunks done in each (results from 2^20); and, of a PERMUTE, its staged units in order of arrival, and the
tokens. -/
structure Coll where
  words : List Word
  ix : Nat
  gseq : Nat := 0
  started : Word
  status : Status := .ok
  running : Bool := false
  got : KeySet := []
  inbox : FMap Byte := []
  flags : FMap Nat := []
  done : KeySet := []
  /-- Destination offset of each staged 4 KiB unit, in order of arrival. -/
  staged : List Nat := []
  tokenHere : Bool := false
  passed : Bool := false
  committed : Bool := false
  wm : Nat := 0
  /-- The number of a MULTICAST at each of its peers (R342). -/
  numbers : List Nat := []
  deriving DecidableEq, Repr

/-- Tideway (R328 to R351). -/
structure TwSt where
  ports : FMap TwPort := []
  colls : FMap (Option Coll) := []
  /-- Collectives issued on each group, and MULTICASTs sent to each peer (R340, R342). -/
  gseq : FMap Nat := []
  mcast : FMap Nat := []
  /-- Frames of collectives not issued yet, whose credits are kept (R335), with their port. -/
  held : List (Nat × TwFrame) := []
  /-- Group and sequence number of collectives that a neighbour has aborted before they were issued. -/
  aborted : List (Nat × Nat) := []
  /-- SEMAPHORE frames that wait until earlier frames to their peer are acknowledged (R346): peer, operation, index,
  amount. -/
  sems : List (Nat × Nat × Nat × Nat) := []
  /-- Peers whose latest SEMAPHORE frame is not acknowledged (R346). -/
  semOut : List Nat := []
  /-- The port of the latest remote operation on a global semaphore, plus one (R347). -/
  remote : FMap Nat := []
  /-- The staging of a PERMUTE in doubt, by group (R350). -/
  doubt : FMap (Option Coll) := []
  deriving DecidableEq, Repr

/-! ### Training -/

/-- A tensor of a training job (R358, R365, R366): FP32 patterns of its master weights, and its moments in the state
format's values. -/
structure TensorSt where
  w : List (BitVec 32)
  m : List (BitVec 32) := []
  v : List (BitVec 32) := []
  deriving DecidableEq, Repr

/-- A TRAIN_STEP in progress (R359): its request, step, micro-batches, and what its flags ask; the configuration it brings,
when the step reshards (R372). -/
structure TrainRun where
  req : Nat
  step : Nat
  accum : Nat
  stats : Bool
  only : Bool
  remap : Option (List Byte)
  deriving DecidableEq, Repr

/-- A training job (R356): its configuration object, generation, last committed step, steering (R371), tensors by place in
the configuration, the gradient it keeps with its step (R368), and its steps in the order of acceptance. -/
structure Job where
  model : Nat
  version : Nat
  cfg : List Byte
  gen : Nat
  step : Nat := 0
  accum : Nat
  beta : Option (BitVec 32) := none
  tensors : FMap (Option TensorSt) := []
  kept : Option (Nat × List (List (BitVec 32))) := none
  runs : List TrainRun := []
  /-- The 64 KiB units of HBM4 that its master weights and moments take (R283, R358). -/
  units : Nat := 0
  /-- The configuration of a REMAP whose PERMUTE is in doubt (R350, R372). -/
  doubt : Option (List Byte) := none
  deriving DecidableEq, Repr


/-! ### The module as a whole: swaps, firmware, power, boot and self-test -/

/-- A spare-core swap in progress (R388): the logical core, its LIVE before the swap, and whether its sequencer page has
drained. -/
structure Swap where
  core : Nat
  before : Live
  owner : Nat
  deriving DecidableEq, Repr

/-- A firmware component (R395 to R398): the images of banks A and B (none for the one it was made with), the agent and
target of an activation, whether the swap awaited is a return to the other bank, the time of a swap whose image has not
yet declared itself healthy, and its rollback floor. -/
structure FwComp where
  a : List Byte := []
  b : List Byte := []
  target : Nat := 63
  revert : Bool := false
  since : Option Word := none
  floor : Nat := 0
  deriving DecidableEq, Repr

/-- A request to Breakwater (R403, R405): what for, its class, its step in 0.01 A, its arrival, and the message it wakes a
core for. -/
structure BwReq where
  kind : BwKind
  cls : Nat
  step : Nat
  arrived : Word
  msg : Option Nat := none
  deriving DecidableEq, Repr

/-- A Breakwater ramp in progress: its request and when it started. -/
structure Ramp where
  req : BwReq
  start : Word
  deriving DecidableEq, Repr

/-- A filter of Tidewatch (R411): the newest samples, newest first, and the output of the IIR stage. -/
structure Filter where
  samples : List Int
  y : Int
  deriving DecidableEq, Repr

/-- An entry of the action log (R414). -/
structure ActionEntry where
  time : Word
  row : Nat
  action : Nat
  channel : Nat
  value : BitVec 32
  deriving DecidableEq, Repr

/-- A slice that runs on a physical core (R441): its kind, its start, and whether it runs again after a mismatch. -/
structure SliceRun where
  kind : SliceKind
  start : Word
  again : Bool := false
  deriving DecidableEq, Repr

/-- What Tidewatch, Breakwater, the security engine and self-test keep beside their registers. -/
structure Sys where
  swap : Option Swap := none
  /-- The retirement in progress: stack and pseudo-channel; and those retired, as 64 * stack + pseudo-channel (R391). -/
  retiring : Option (Nat × Nat) := none
  retiredPcs : KeySet := []
  /-- HBM4 rows found failing in service and added to the repair map, and those that a boot has repaired (R392, R423). -/
  repairRows : KeySet := []
  repairedRows : KeySet := []
  /-- Physical core of a logical core, plus one, where a swap has moved it; 0 for the core map as made (R388, R471). -/
  phys : FMap Nat := []
  /-- Bays whose spare is in service or unusable (R387, R430), and 6 + half for a Harbour half whose spare slice failed a boot (R448). -/
  spareGone : KeySet := []
  fw : FMap FwComp := []
  /-- The device is in Dry (R401); HBM4 has not been kept, so the next boot is cold (R428); the main input is absent. -/
  dry : Bool := false
  cold : Bool := true
  mainLost : Bool := false
  /-- The last boot failed (R431); a hard stop has come since the last boot (R417). -/
  failed : Bool := false
  stopped : Bool := false
  /-- The wake that has come, by its cause (R416). -/
  wake : Option Nat := none
  /-- Tick starts since Dry entry (R416). -/
  dryTicks : Nat := 0
  /-- When the clock state last changed (R444). -/
  clockSince : Word := 0
  ramp : Option Ramp := none
  ramps : List BwReq := []
  filters : FMap (Option Filter) := []
  /-- Samples in a row beyond a row's threshold, and on the other side of its release threshold (R412). -/
  beyond : FMap Nat := []
  clear : FMap Nat := []
  /-- The action log, oldest first, and the entries ever written (R414). -/
  log : List ActionEntry := []
  logged : Nat := 0
  /-- The ownership record in force and the one that waits, the pieces of a record that comes in, the debug nonce, the
  scope of an armed token, and the bytes of the wake cause that MRAM keeps (R423, R425, R437). -/
  owner : List Byte := []
  nextOwner : List Byte := []
  pieces : FMap Byte := []
  got : KeySet := []
  nonce : List Byte := []
  token : Option Nat := none
  bootFail : Nat := 0
  /-- Slices that run, physical cores whose grant has come, slices passed in the running cycle, and when a cycle last
  ended or began (R441 to R446). -/
  slices : FMap (Option SliceRun) := []
  granted : KeySet := []
  cycle : FMap KeySet := []
  /-- When the full test began, and the margin request that runs (R449, R452). -/
  fullTest : Option Word := none
  margin : Option Word := none
  /-- An HBM4 sweep: the steps that passed on the low and on the high side, and the side it steps on; 2 when both are over (R452). -/
  marginLo : Nat := 0
  marginHi : Nat := 0
  marginSide : Nat := 0
  /-- Physical cores whose cycle is overdue (R445). -/
  overdue : KeySet := []
  /-- Ports that failed a test since boot: Ethernet, 16 + CXL, 32 + Tideway (R450, R451). -/
  deadPorts : KeySet := []
  /-- Since when each Harbour half is in its mode (R258). -/
  modeSince : FMap Word := []
  deriving DecidableEq, Repr
/-! ### What leaves the device -/

/-- An SPDM response (R434, R435): measurement blocks by index with a signature, the signature of a challenge, part of a
certificate chain, the algorithms of R434, an ERROR, or the response to a request of the standard alone. -/
inductive SpdmAnswer
  | measurements (blocks : List (Nat × List Byte)) (signature : List Byte)
  | challenge (slot : Nat) (signature : List Byte)
  | certificate (slot : Nat) (bytes : List Byte)
  | algorithms
  | error
  | other (bytes : List Byte)
  deriving DecidableEq, Repr

/-- What the device gives to an agent outside the state, in order. -/
inductive Out
  /-- The old value of an atomic, to the service core that issued it (R247). -/
  | atomic (addr : Nat) (old : Word) (status : Status)
  /-- A SEMAPHORE frame to a Tideway peer: 0 ADD, 1 SUB, 2 fault (R346, R347). -/
  | semFrame (peer op index amount : Nat)
  /-- Packets of a queue pair, from a packet number on (R305). -/
  | wire (qp psn : Nat) (what : Wire)
  /-- A NAK of a queue pair: 0 remote access, 1 invalid request, 2 receiver not ready, 3 sequence (R305, R312, R321). -/
  | nak (qp kind : Nat)
  /-- An acknowledgement of a queue pair. -/
  | ack (qp psn : Nat)
  /-- The answer to a host RDMA READ (R312, R313). -/
  | readData (qp : Nat) (bytes : List Byte)
  /-- A congestion notification to the sender of a marked packet (R305). -/
  | cnp (qp : Nat)
  /-- An ARP or neighbour-discovery answer from a port: its MAC address (R305). -/
  | neighbour (port : Nat) (mac : Nat)
  /-- A pause or its end on the RoCE priority of a port (R305). -/
  | pause (port : Nat) (on : Bool)
  /-- A DATA frame sent from a Tideway port (R333). -/
  | twFrame (port : Nat) (f : TwFrame)
  /-- What a Tideway port answers to a frame: an acknowledgement or a negative one (R334). -/
  | twAck (port seq : Nat) (good : Bool)
  /-- A token or an abort to a peer: 0 abort, 1 ready, 2 commit (R345, R349). -/
  | twToken (peer kind group gseq : Nat)
  /-- The answer to a remote semaphore operation (R346), or to a MULTICAST that is refused (R342). -/
  | twAnswer (port : Nat) (status : Status)
  /-- A register's value, to software on the device that read it (R418, R460). -/
  | register (addr : Nat) (value : Word)
  /-- The answer to a vendor command over MCTP: its code, status and data (R433). -/
  | mctp (command : Nat) (status : Status) (data : List Byte)
  /-- The answer to a PLDM request: its type, whether it succeeded, and data (R432). -/
  | pldm (type : Nat) (ok : Bool) (data : List Byte)
  /-- An SPDM response, over queue pair 1 or over MCTP (R434, R436). -/
  | spdm (window : Bool) (answer : SpdmAnswer)
  deriving DecidableEq, Repr


/-- The state of the module. -/
structure State where
  /-- The ordering code (R1). -/
  code : Code
  /-- Commands waiting, first in, first out. -/
  pending : List Instr
  /-- The tideline count (R21). -/
  now : Word
  /-- The model's own: how many free values the run has used (notes/assumptions/4.md). -/
  freeIx : Nat
  /-- The registers of control space whose home is the page: key page * 4096 + offset (R458). -/
  regs : FMap Word
  /-- Every byte with a device address: HBM4, CXL windows and Ledge windows (R236, R240, R269). -/
  mem : FMap Byte
  /-- 32-byte words of memory that hold an uncorrectable error, by address / 32 (R239, R260). -/
  bad : KeySet
  /-- The 128-byte lines present in Harbour, by address / 128, the most recently used first (R243). -/
  harbour : List Nat
  /-- Prefetched lines that no access has touched, by line, with the core + 1 they were fetched for (R257). -/
  pfLines : FMap Nat
  /-- The stream prefetchers, by 36 * half + core (R256). -/
  pf : FMap Prefetcher
  /-- Harbour sectors with a dirty bit, by address / 64 (R243). -/
  dirty : KeySet
  /-- The write-combining buffers, by stack, oldest entry first (R249). -/
  wc : FMap (List WcEntry)
  /-- The regulators, by bay (R253). -/
  regulators : FMap Regulator
  /-- Global semaphores (R86, R461). -/
  sems : FMap Word
  trace : List TraceEntry
  tide : Tide
  /-- Completion records written (R320). -/
  records : List Completion
  cores : FMap Core
  lives : FMap Live
  errs : Records
  /-- The 12 V standby input is present, so Tidewatch runs (R408). -/
  standby : Bool
  /-- The job of each Foreshore engine, by die (R217). -/
  fore : FMap (Option FsJob)
  cliff : CliffSt
  gulk : Gulk
  est : Est
  tw : TwSt
  /-- Training jobs (R356). -/
  jobs : FMap (Option Job)
  sys : Sys
  /-- What has left the device. -/
  out : List Out
  deriving DecidableEq, Repr

/-- The machine right after reset. -/
def State.reset : State where
  code := .la768
  pending := []
  now := 0
  freeIx := 0
  regs := []
  mem := []
  bad := []
  harbour := []
  pfLines := []
  pf := []
  dirty := []
  wc := []
  regulators := []
  sems := []
  trace := []
  tide := {}
  records := []
  cores := []
  lives := []
  errs := {}
  standby := true
  fore := []
  cliff := {}
  gulk := {}
  est := {}
  tw := {}
  jobs := []
  sys := {}
  out := []

end Sys2Proof.Machine
end

