-- ==== Sys2Proof/Machine/Ops.lean ====
section
/-! DEFINITION. The named operations over the state: sparse tables, registers, events and counters, memory,
semaphores, records. Every command's meaning is written over them. -/

namespace Sys2Proof

/-- The entry of a key, if the table lists it. -/
def FMap.find? {α : Type} : FMap α → Nat → Option α
  | [], _ => none
  | (k, v) :: m, i => if k = i then some v else FMap.find? m i

/-- Lists a value at a key, in place of what stood there, keys strictly rising. -/
def FMap.put {α : Type} : FMap α → Nat → α → FMap α
  | [], i, x => [(i, x)]
  | (k, v) :: m, i, x => if i < k then (i, x) :: (k, v) :: m else if i = k then (i, x) :: m else (k, v) :: FMap.put m i x

/-- Takes a key out. -/
def FMap.del {α : Type} (m : FMap α) (i : Nat) : FMap α := m.filter (fun x => x.1 != i)

/-- The value at a key, where an unlisted key reads as the default. -/
def FMap.get {α : Type} (d : α) (m : FMap α) (i : Nat) : α := (FMap.find? m i).getD d

/-- Sets the value at a key; setting the default takes the entry out, so that equal tables are equal data. -/
def FMap.set {α : Type} [DecidableEq α] (d : α) (m : FMap α) (i : Nat) (x : α) : FMap α :=
  if x = d then FMap.del m i else FMap.put m i x

/-- Keys strictly rising. -/
def FMap.sorted {α : Type} : FMap α → Bool
  | [] => true
  | [_] => true
  | (a, _) :: (b, w) :: m => decide (a < b) && FMap.sorted ((b, w) :: m)

/-- The canonical form of a table: keys strictly rising and no entry equal to what an unlisted key reads as. -/
def FMap.wf {α : Type} [DecidableEq α] (d : Nat → α) (m : FMap α) : Bool :=
  FMap.sorted m && m.all (fun (k, v) => decide (v ≠ d k))

/-- Puts a key into a set. -/
def KeySet.add : KeySet → Nat → KeySet
  | [], i => [i]
  | k :: m, i => if i < k then i :: k :: m else if i = k then k :: m else k :: KeySet.add m i

/-- Takes a key out of a set. -/
def KeySet.del (m : KeySet) (i : Nat) : KeySet := m.filter (· != i)

/-- The set without the keys of [lo, hi). -/
def KeySet.delRange (m : KeySet) (lo hi : Nat) : KeySet := m.filter (fun k => k < lo || hi ≤ k)

end Sys2Proof

namespace Sys2Proof.Machine

/-! ### Words and bytes -/

/-- A number read from bytes, little-endian (R8). -/
def leNat : List Byte → Nat
  | [] => 0
  | b :: bs => b.toNat + 256 * leNat bs

/-- The low n bytes of a number, little-endian (R8). -/
def leBytes (x : Nat) : Nat → List Byte
  | 0 => []
  | n + 1 => BitVec.ofNat 8 x :: leBytes (x / 256) n

/-- A word with the bits [hi:lo] replaced. -/
def setBits (w : Word) (hi lo : Nat) (x : Nat) : Word :=
  (w &&& ~~~ BitVec.ofNat 64 (maskOf hi lo)) ||| BitVec.ofNat 64 (x % 2 ^ (hi + 1 - lo) * 2 ^ lo)

/-- Addition that stops at 2^64 - 1 (R75, R468). -/
def satAdd (a : Word) (n : Nat) : Word := if 2 ^ 64 ≤ a.toNat + n then BitVec.allOnes 64 else a + BitVec.ofNat 64 n

/-- a divided by b, rounded up. -/
def ceilDiv (a b : Nat) : Nat := (a + b - 1) / b

/-! ### Cores and queues -/

/-- Logical core c. -/
def State.core (s : State) (c : Nat) : Core := FMap.get {} s.cores c

/-- Replaces logical core c. -/
def State.setCore (s : State) (c : Nat) (k : Core) : State := { s with cores := FMap.set {} s.cores c k }

/-- Queue q of a core. -/
def Core.queue (k : Core) (q : Nat) : Queue := FMap.get {} k.queues q

/-- Replaces queue q of a core. -/
def Core.setQueue (k : Core) (q : Nat) (x : Queue) : Core := { k with queues := FMap.set {} k.queues q x }

/-- Queue q of logical core c. -/
def State.queue (s : State) (c q : Nat) : Queue := (s.core c).queue q

/-- Replaces queue q of logical core c. -/
def State.setQueue (s : State) (c q : Nat) (x : Queue) : State := s.setCore c ((s.core c).setQueue q x)

/-- Array a of a core. -/
def Core.arr (k : Core) (a : Nat) : ArraySt := if a = 0 then k.a0 else k.a1

/-- Replaces array a of a core. -/
def Core.setArr (k : Core) (a : Nat) (x : ArraySt) : Core := if a = 0 then { k with a0 := x } else { k with a1 := x }

/-- Bank b of an array. -/
def ArraySt.bank (x : ArraySt) (b : Nat) : Bank := if b = 0 then x.bank0 else x.bank1

/-- Replaces bank b of an array. -/
def ArraySt.setBank (x : ArraySt) (b : Nat) (k : Bank) : ArraySt :=
  if b = 0 then { x with bank0 := k } else { x with bank1 := k }

/-- Bay b is enabled on the ordering code (R1, R2). -/
def Code.bayEnabled (code : Code) (b : Nat) : Bool := b < 6 && !(code == .la512 && (b == 2 || b == 5))

/-- Logical core c is present: its bay is enabled and it is not retired (R2, R113, R390). -/
def State.coreLive (s : State) (c : Nat) : Bool := c < 36 && s.code.bayEnabled (c / 6) && !(s.core c).retired

/-- Stack k is present: stacks 2b and 2b + 1 of bay b (R2, R240). -/
def Code.stackPresent (code : Code) (k : Nat) : Bool := code.bayEnabled (k / 2)

/-- The page's unit is present (R2, R458). -/
def State.present (s : State) (p : Pg) : Bool :=
  match p with
  | .sequencer c | .array c | .vector c | .score c | .recurrent c => s.coreLive c.val
  | .hbm k => s.code.stackPresent k.val
  | _ => true

/-! ### Registers, events and counters -/

/-- The stored value of entry i of a register of a page. -/
def State.rd (s : State) (p : Pg) (r : RegName) (i : Nat) : Word :=
  FMap.get (regReset (regKey p r i)) s.regs (regKey p r i)

/-- Stores a value in entry i of a register of a page. -/
def State.wr (s : State) (p : Pg) (r : RegName) (i : Nat) (v : Word) : State :=
  { s with regs := FMap.set (regReset (regKey p r i)) s.regs (regKey p r i) v }

/-- A field of a register. -/
def State.fld (s : State) (p : Pg) (r : RegName) (i hi lo : Nat) : Nat := bits (s.rd p r i) hi lo

/-- Sets a field of a register. -/
def State.setFld (s : State) (p : Pg) (r : RegName) (i hi lo x : Nat) : State :=
  s.wr p r i (setBits (s.rd p r i) hi lo x)

/-- Sets an EVENT bit: EVENT_COUNT rises and LAST_EVENT_TIME takes the time, whether or not the bit was set (R468). -/
def State.event (s : State) (p : Pg) (b : Nat) : State :=
  let s := s.wr p .event 0 (s.rd p .event 0 ||| BitVec.ofNat 64 (2 ^ b))
  let s := s.wr p .eventCount 0 (satAdd (s.rd p .eventCount 0) 1)
  s.wr p .lastEventTime 0 s.now

/-- The control register of a page's counters, its clear bit and its enable bit (R75 and the chapters' tables). -/
def PageType.counterCtl : PageType → Option (RegName × Nat × Nat)
  | .array => some (.arrayCtrl, 0, 2)
  | .sequencer => some (.seqCtrl, 0, 1)
  | .multicast => some (.mcastCtrl, 0, 1)
  | .vector => some (.vecCtrl, 0, 1)
  | .score => some (.scoreCtrl, 19, 20)
  | .recurrent => some (.recurCtrl, 7, 8)
  | .rollout => some (.rollCtrl, 0, 1)
  | .foreshore => some (.fsCtrl, 2, 3)
  | .harbour => some (.hbCtrl, 0, 1)
  | .hbm => some (.hbmCtrl, 0, 1)
  | .cxl => some (.cxlCtrl, 5, 6)
  | .cliff => some (.cliffCtrl, 1, 2)
  | .scheduler => some (.schedCtrl, 0, 1)
  | .estuary => some (.estCtrl, 0, 1)
  | .tideway => some (.twCtrl, 1, 2)
  | .twPort => some (.twpCtrl, 1, 2)
  | .update => some (.updCtrl, 0, 1)
  | .power => some (.pwrCtrl, 16, 17)
  | .selfTest => some (.stCtrl, 0, 1)
  | _ => none

/-- The physical core that holds logical core c (R2, R388, R471): at first core 7b + i for c = 6b + i. -/
def State.physOf (s : State) (c : Nat) : Nat :=
  match FMap.get 0 s.sys.phys c with
  | 0 => 7 * (c / 6) + c % 6
  | n + 1 => n

/-- The logical core that a physical core holds, if it holds one. -/
def State.logicalOf (s : State) (p : Nat) : Option Nat :=
  (List.range 36).find? (fun c => s.coreLive c && s.physOf c == p)

/-- A slice runs on a logical core (R454). -/
def State.sliceOn (s : State) (c : Nat) : Bool := (FMap.get none s.sys.slices (s.physOf c)).isSome

/-- A page's counters advance: count_enable is set (R75), a Harbour half is in SERVICE (R258), no slice runs on the core of
a page of a core, and no full test runs (R454). -/
def State.counting (s : State) (p : Pg) : Bool :=
  (match p.type.counterCtl with
   | some (r, _, e) => bit1 (s.rd p r 0) e
   | none => true) &&
  s.sys.fullTest.isNone &&
  (match p with
   | .harbour _ => s.fld p .hbStat 0 21 19 == 0
   | .sequencer c | .array c | .vector c | .score c | .recurrent c => !s.sliceOn c.val
   | _ => true)

/-- Adds n to a counter, which saturates at 2^64 - 1 and holds while its page does not count (R75). -/
def State.bump (s : State) (p : Pg) (r : RegName) (i n : Nat) : State :=
  if s.counting p then s.wr p r i (satAdd (s.rd p r i) n) else s

/-- A register's description in the tables of its page type. -/
def RegName.info (r : RegName) : Option RegInfo :=
  ((if r.page = .header then regsHeader else regsOf r.page).find? (fun x => x.1 == r)).map (·.2)

/-- The bits of a register that have an access code (R11). -/
def RegName.mask (r : RegName) (a : Acc) : Word := (r.info.map (·.mask a)).getD 0

/-- A software write of the RW fields of a register; its other bits keep their values (R10, R11). -/
def State.wrRw (s : State) (p : Pg) (r : RegName) (i : Nat) (v : Word) : State :=
  s.wr p r i ((s.rd p r i &&& ~~~ r.mask .rw) ||| (v &&& r.mask .rw))

/-- How many entries a counter has in its page. -/
def RegName.entries (r : RegName) : Nat :=
  match (regsOf r.page).find? (fun x => x.1 == r) with
  | some (_, i) => i.count
  | none => 1

/-- Sets every entry of a counter to zero. -/
def State.clearCounter (s : State) (p : Pg) (r : RegName) : State :=
  (List.range r.entries).foldl (fun s i => s.wr p r i 0) s

/-- Clears every counter of a page (R75), and SCHED_MAX_REFLEX_WAIT on the scheduler page (R303). -/
def State.clearCounters (s : State) (p : Pg) : State :=
  let s := (countersOf p.type).foldl (fun s r => s.clearCounter p r) s
  match p with
  | .scheduler => s.wr p .schedMaxReflexWait 0 0
  | _ => s

/-! ### Free values -/

/-- A free 64-bit value, and the state in which the next one is another (notes/assumptions/4.md). -/
def State.draw (s : State) : Word × State := (Config.freeWord s.freeIx, { s with freeIx := s.freeIx + 1 })

/-- A choice the spec leaves open. -/
def State.drawBit (s : State) (i : Nat) : Bool × State :=
  (Config.freeBit s.freeIx i, { s with freeIx := s.freeIx + 1 })

/-- Adds a free amount to a counter whose amount the spec does not fix: cycles waited, lines that hit. -/
def State.bumpFree (s : State) (p : Pg) (r : RegName) (i : Nat) : State :=
  let (w, s) := s.draw
  s.bump p r i w.toNat

/-- Adds free amounts to several counters of a page. -/
def State.bumpAllFree (s : State) (p : Pg) (rs : List RegName) : State :=
  rs.foldl (fun s r => s.bumpFree p r 0) s

/-- A watermark that nothing fixes, up to a limit. -/
def State.drawUpTo (s : State) (limit : Nat) : Nat × State :=
  let (w, s) := s.draw
  (w.toNat % (limit + 1), s)

/-! ### Memory -/

/-- Size of a Ledge in bytes. -/
def ledgeSize : Nat := 0x1000000

/-- The device address at which the Ledge of logical core c appears (R236). -/
def ledgeBase (c : Nat) : Nat := 0x300000000000 + c * 0x2000000

/-- One byte of memory; a byte that nothing has written reads zero (notes/assumptions/5.md). -/
def State.byte (s : State) (a : Nat) : Byte := FMap.get 0 s.mem a

/-- n bytes of memory from an address. -/
def State.bytes (s : State) (a : Nat) : Nat → List Byte
  | 0 => []
  | n + 1 => s.byte a :: s.bytes (a + 1) n

/-- Bytes from an address on as the entries of a memory: a byte that is 0 is not listed. -/
def memRun (a : Nat) : List Byte → FMap Byte
  | [] => []
  | b :: bs => if b = 0 then memRun (a + 1) bs else (a, b) :: memRun (a + 1) bs

/-- A memory after bytes are stored from an address on. -/
def memWrite (m : FMap Byte) (a : Nat) (bs : List Byte) : FMap Byte :=
  if bs.isEmpty then m
  else m.filter (fun x => x.1 < a) ++ (memRun a bs ++ m.filter (fun x => a + bs.length ≤ x.1))

/-- The 32-byte words that a write covers whole: it stores them with a fresh code (R239). -/
def coveredWords (a n : Nat) : Nat × Nat := (ceilDiv a 32, (a + n) / 32)

/-! ### Places (R241, R243) -/

/-- An address is cached in Harbour: HBM4 or a CXL window (R243). -/
def harbourAddr (a : Nat) : Bool := a < 0x180000000000

/-- An HBM4 address, as against a CXL one. -/
def hbmAddr (a : Nat) : Bool := a < 0xC000000000

/-- The stack of an HBM4 address (R241). -/
def stackOf (a : Nat) : Fin 12 := Fin.ofNat 12 (2 * (a / 0x2000000000) + a / 512 % 2)

/-- The Harbour half that caches an HBM4 or CXL address (R243). -/
def halfOf (a : Nat) : Fin 2 :=
  if a < 0xC000000000 then (if a / 0x2000000000 < 3 then 0 else 1) else (if a / 4096 % 2 = 0 then 0 else 1)

/-- The 128-byte line of an address (R243). -/
def lineOf (a : Nat) : Nat := a / 128

/-- The 64-byte sectors that n bytes from an address touch. -/
def sectorsOf (a n : Nat) : List Nat :=
  if n = 0 then [] else (List.range ((a + n - 1) / 64 + 1 - a / 64)).map (· + a / 64)

/-! ### Harbour regions (R245) -/

/-- A region in force at an address. -/
structure Region where
  base : Nat
  policy : Nat
  op : Nat
  deriving DecidableEq, Repr

/-- The lowest-numbered enabled region of a half that covers an address (R245). -/
def State.regionAt (s : State) (a : Nat) : Option Region :=
  let p : Pg := .harbour (halfOf a)
  ((List.range 16).find? (fun n =>
    let b := s.fld p .hbRegionBase n 47 12 * 4096
    bit1 (s.rd p .hbRegionBase n) 63 && b ≤ a && a < b + s.fld p .hbRegionSize n 35 0 * 4096)).map
    (fun n => ⟨s.fld p .hbRegionBase n 47 12 * 4096, s.fld p .hbRegionBase n 50 48, s.fld p .hbRegionBase n 54 51⟩)

/-! ### The write-combining buffers (R249, R250) -/

/-- The entries of a stack's buffer, oldest first. -/
def State.wcOf (s : State) (k : Fin 12) : List WcEntry := FMap.get [] s.wc k.val

/-- Replaces a stack's buffer. -/
def State.setWc (s : State) (k : Fin 12) (l : List WcEntry) : State := { s with wc := FMap.set [] s.wc k.val l }

/-- A 32-byte word of a line is covered in part only, so the flush reads the line first (R249). -/
def partlyCovered (m : BitVec 128) : Bool :=
  (List.range 4).any (fun w => bits (BitVec.ofNat 64 (m.toNat >>> (32 * w) % 2 ^ 32)) 31 0 ≠ 0 &&
    m.toNat >>> (32 * w) % 2 ^ 32 ≠ 2 ^ 32 - 1)

/-- Flushes an entry to its stack: one flush, and one read of the line when a word is partly covered (R249). -/
def State.wcFlushed (s : State) (k : Fin 12) (e : WcEntry) : State :=
  let s := s.bump (.hbm k) .hbmWcFlushes 0 1
  if partlyCovered e.mask then s.bump (.hbm k) .hbmWcRmw 0 1 else s

/-- A write into the buffer: it merges into its line's entry, or takes a new one, the oldest making room when all 512
are in use; an entry whose mask covers the line is flushed (R249). -/
def State.wcPut (s : State) (line : Nat) (m : BitVec 128) : State :=
  let k := stackOf (line * 128)
  let l := s.wcOf k
  let s := match l with
    | e :: r => if !l.any (·.line = line) && 512 ≤ l.length then (s.setWc k r).wcFlushed k e else s
    | [] => s
  let l := s.wcOf k
  let l := if l.any (·.line = line) then l.map (fun e => if e.line = line then { e with mask := e.mask ||| m } else e)
           else l ++ [⟨line, m, s.now⟩]
  match l.find? (fun e => e.line = line && e.mask == BitVec.allOnes 128) with
  | some e => (s.setWc k (l.filter (·.line ≠ line))).wcFlushed k e
  | none => s.setWc k l

/-- Harbour allocates a line: an entry of the buffer is merged into it and freed (R250). -/
def State.wcTake (s : State) (line : Nat) : State :=
  if hbmAddr (line * 128) then
    let k := stackOf (line * 128)
    match (s.wcOf k).find? (·.line = line) with
    | none => s
    | some e =>
      let s := s.setWc k ((s.wcOf k).filter (·.line ≠ line))
      let secs := (if e.mask.toNat % 2 ^ 64 ≠ 0 then [2 * line] else []) ++ (if e.mask.toNat / 2 ^ 64 ≠ 0 then [2 * line + 1] else [])
      { s with dirty := secs.foldl KeySet.add s.dirty }
  else s

/-- The lines of n bytes from an address. -/
def linesOf (a n : Nat) : List Nat :=
  if n = 0 then [] else (List.range ((a + n - 1) / 128 + 1 - a / 128)).map (· + a / 128)

/-- The byte mask of a line that [a, a + n) covers. -/
def lineMask (line a n : Nat) : BitVec 128 :=
  let lo := a - line * 128
  let hi := min 128 (a + n - line * 128)
  BitVec.ofNat 128 ((2 ^ (hi - lo) - 1) * 2 ^ lo)

/-! ### Harbour lines (R243, R245, R250) -/

/-- Two lines share a set of a half (R243). -/
def sameSet (a b : Nat) : Bool :=
  halfOf (a * 128) == halfOf (b * 128) && Config.harbourSet a % 49152 == Config.harbourSet b % 49152

/-- The dirty sectors of a line are written back (R243); a single one goes to the write-combining buffer of the line's stack
(R249). -/
def State.lineBack (s : State) (line : Nat) : State :=
  let l := s.dirty.filter (fun x => x / 2 = line)
  let s := s.bump (.harbour (halfOf (line * 128))) .hbWritebacks 0 l.length
  let s := { s with dirty := s.dirty.filter (fun x => x / 2 ≠ line) }
  match l with
  | [x] => if hbmAddr (x * 64) then s.wcPut line (lineMask line (x * 64) 64) else s
  | _ => s

/-- A prefetched line that nothing has touched takes its outcome k, counted in the half's counter and in the core's row (R257). -/
def State.prefetched (s : State) (line : Nat) (r : RegName) (k : Nat) : State :=
  match FMap.get 0 s.pfLines line with
  | 0 => s
  | c + 1 =>
    let p : Pg := .harbour (halfOf (line * 128))
    ({ s with pfLines := FMap.del s.pfLines line }.bump p r 0 1).bump p .pfc (5 * (c % 36) + k) 1

/-- A line leaves Harbour, written back; a prefetched line that nothing has touched was evicted unused (R257). -/
def State.lineOut (s : State) (line : Nat) : State :=
  let s := (s.prefetched line .hbPfEvictedUnused 3).lineBack line
  { s with harbour := s.harbour.filter (· ≠ line) }

/-- A set makes room for a line: with all 16 ways in use the least recently used line leaves (R243). -/
def State.wayFor (s : State) (line : Nat) : State :=
  if s.harbour.length < 16 then s
  else
    let l := s.harbour.filter (sameSet line)
    if l.length < 16 then s else match l.getLast? with
      | some v => s.lineOut v
      | none => s

/-- A line that is not present is allocated: its set makes room, and an entry of the write-combining buffer is merged into it (R243,
R250). -/
def State.lineIn (s : State) (line : Nat) : State :=
  let s := (s.wayFor line).wcTake line
  { s with harbour := line :: s.harbour }

/-- An access to one line (R243, R257, R261): a hit makes it the most recently used of its set, and is the outcome of a prefetched
line; a miss allocates it where it is to. -/
def State.lineUse (s : State) (write alloc : Bool) (line : Nat) : State :=
  let p : Pg := .harbour (halfOf (line * 128))
  if s.harbour.contains line then
    let s := s.bump p .hbHits 0 1
    let s := if write then s.prefetched line .hbPfOverwritten 4 else s.prefetched line .hbPfUsed 1
    { s with harbour := line :: s.harbour.filter (· ≠ line) }
  else
    let s := s.bump p .hbMisses 0 1
    if alloc then s.lineIn line else s

/-- Stores bytes at an address, every word it covers whole getting a fresh code (R239). -/
def State.poke (s : State) (a : Nat) (bs : List Byte) : State :=
  { s with mem := memWrite s.mem a bs, bad := KeySet.delRange s.bad (coveredWords a bs.length).1 (coveredWords a bs.length).2 }

/-- The sectors that a write touches become dirty in Harbour (R243). -/
def State.soil (s : State) (a n : Nat) : State := { s with dirty := (sectorsOf a n).foldl KeySet.add s.dirty }

/-- Stores bytes at an address; of HBM4 or CXL memory each line is allocated and each sector becomes dirty (R239, R243). -/
def State.store (s : State) (a : Nat) (bs : List Byte) : State :=
  if bs.isEmpty then s else
  let s := s.poke a bs
  if harbourAddr a then ((linesOf a bs.length).foldl (State.lineUse · true true) s).soil a bs.length else s

/-- A 64-bit word of memory. -/
def State.word (s : State) (a : Nat) : Word := BitVec.ofNat 64 (leNat (s.bytes a 8))

/-- The first 32-byte word of [a, a + n) that holds an uncorrectable error, by its address (R239). -/
def State.badIn (s : State) (a n : Nat) : Option Nat :=
  if n = 0 then none
  else (s.bad.find? (fun w => a / 32 ≤ w && w ≤ (a + n - 1) / 32)).map (· * 32)

/-- n bytes that nothing fixes, of the next free draw. -/
def freeBytes (ix n : Nat) : List Byte := (List.range n).map (Config.freeByte ix)

/-- Stores n bytes that nothing fixes. -/
def State.storeFree (s : State) (a n : Nat) : State :=
  { (s.store a (freeBytes s.freeIx n)) with freeIx := s.freeIx + 1 }

/-- Makes the bytes of [a, a + n) undefined. -/
def State.scramble (s : State) (a n : Nat) : State :=
  { (s.poke a (freeBytes s.freeIx n)) with freeIx := s.freeIx + 1 }

/-- The first HBM4 address software may not use: the top 16 GiB of the highest enabled bay (R3, R240). -/
def Code.hbmTop (code : Code) : Nat := if code = .la512 then 0x9C00000000 else 0xBC00000000

/-- [a, a + n) lies in HBM4 that software may use (R240). -/
def Code.hbmOk (code : Code) (a n : Nat) : Bool :=
  a + n ≤ code.hbmTop && n ≤ 0x2000000000 * 6 &&
  code.bayEnabled (a / 0x2000000000) && code.bayEnabled ((a + n - 1) / 0x2000000000) &&
  !(code == .la512 && a < 0x4000000000 && 0x6000000000 ≤ a + n)

/-- The CXL port that owns an address (R269). -/
def cxlPort (a : Nat) : Option (Fin 2) :=
  if 0x100000000000 ≤ a ∧ a < 0x140000000000 then some 0
  else if 0x140000000000 ≤ a ∧ a < 0x180000000000 then some 1 else none

/-- The base address of a CXL port (R269). -/
def cxlBase (p : Fin 2) : Nat := 0x100000000000 + p.val * 0x40000000000

/-- The state code of decoder n of a port (R270, R286). -/
def State.decState (s : State) (p : Fin 2) (n : Nat) : Nat := s.fld (.cxl p) .cxlDec n 45 43

/-- The window of decoder n of a port: first address and size (R269). -/
def State.decWindow (s : State) (p : Fin 2) (n : Nat) : Nat × Nat :=
  (cxlBase p + 0x10000000 * s.fld (.cxl p) .cxlDec n 13 0, 0x10000000 * s.fld (.cxl p) .cxlDec n 28 14)

/-- The decoder that covers an address, and its state code (R269). -/
def State.decoderAt (s : State) (p : Fin 2) (a : Nat) : Option (Nat × Nat) :=
  ((List.range 8).find? (fun n => s.decState p n ≠ 0 ∧ (s.decWindow p n).1 ≤ a ∧
    a < (s.decWindow p n).1 + (s.decWindow p n).2)).map (fun n => (n, s.decState p n))

/-- What an access to one address meets, for an agent that is not one of those that reach control space or semaphore
memory (R236, R240, R269, R458, R459, R461): OK, E_ADDR or E_GONE. -/
def State.reach (s : State) (a : Nat) : Status :=
  if a < 0xC000000000 then (if s.code.hbmOk a 1 then .ok else .eAddr)
  else
    match cxlPort a with
    | some p =>
      match s.decoderAt p a with
      | some (_, 2) | some (_, 3) => .ok
      | some (_, 4) => .eGone
      | _ => .eAddr
    | none =>
      if 0x300000000000 ≤ a ∧ a < 0x300000000000 + 36 * 0x2000000 then
        (if (a - 0x300000000000) % 0x2000000 < ledgeSize ∧ s.coreLive ((a - 0x300000000000) / 0x2000000)
         then .ok else .eAddr)
      else .eAddr

/-- The first failing access of [a, a + n) in 64-byte steps, with its offset; OK where every access is served. -/
def State.reachRange (s : State) (a : Nat) : Nat → Nat → Status × Nat
  | 0, _ => (.ok, 0)
  | fuel + 1, off =>
    match s.reach (a + off) with
    | .ok => s.reachRange a fuel (off + 64)
    | st => (st, off)

/-- What an access to [a, a + n) meets (R236, R240, R269). -/
def State.access (s : State) (a n : Nat) : Status :=
  if n = 0 then .ok
  else if 2 ^ 48 < a + n then .eAddr
  else
    match (s.reachRange (a / 64 * 64) ((a + n - 1) / 64 + 1 - a / 64) 0).1 with
    | .ok => .ok
    | st => st

/-! ### Semaphores (R86) -/

/-- A semaphore word: the count, with bits 48 faulted and 49 saturated. -/
def semCount (w : Word) : Nat := bits w 47 0

/-- Bit 48 is set (R86). -/
def semFaulted (w : Word) : Bool := bit1 w 48

/-- A semaphore: scope false is local to a core, true is global (R80). -/
def State.sem (s : State) (scope : Bool) (c i : Nat) : Word :=
  if scope then FMap.get 0 s.sems i else FMap.get 0 (s.core c).sems i

/-- Replaces a semaphore. -/
def State.setSem (s : State) (scope : Bool) (c i : Nat) (w : Word) : State :=
  if scope then { s with sems := FMap.set 0 s.sems i w }
  else s.setCore c { s.core c with sems := FMap.set 0 (s.core c).sems i w }

/-- An ADD on a semaphore word (R86): saturating at 2^48 - 1 with bit 49 set and E_SAT; E_ABORT on a faulted one. -/
def semAdd (w : Word) (n : Nat) : Word × Status :=
  if semFaulted w then (w, .eAbort)
  else if 2 ^ 48 ≤ semCount w + n then (setBits (setBits w 47 0 (2 ^ 48 - 1)) 49 49 1, .eSat)
  else (setBits w 47 0 (semCount w + n), .ok)

/-- A SUB on a semaphore word (R86): saturating at 0 with bit 49 set and E_SAT; E_ABORT on a faulted one. -/
def semSub (w : Word) (n : Nat) : Word × Status :=
  if semFaulted w then (w, .eAbort)
  else if semCount w < n then (setBits (setBits w 47 0 0) 49 49 1, .eSat)
  else (setBits w 47 0 (semCount w - n), .ok)

/-- Applies an ADD or SUB to a semaphore, tracing it when asked (R30, R80, R86). -/
def State.semOp (s : State) (sub : Bool) (scope : Bool) (c i n : Nat) (trace : Bool) : Status × State :=
  let (w, st) := if sub then semSub (s.sem scope c i) n else semAdd (s.sem scope c i) n
  let s := s.setSem scope c i w
  (st, if trace then { s with trace := s.trace ++ [⟨scope, c, i, s.now⟩] } else s)

/-- Puts a semaphore into the faulted state; it holds its count (R384). -/
def State.markFaulted (s : State) (scope : Bool) (c i : Nat) : State :=
  s.setSem scope c i (setBits (s.sem scope c i) 48 48 1)

/-! ### Error records (R379 to R381) -/

/-- The detail of a memory fault (R379): of an HBM4 word its stack, pseudo-channel and bank (R241). -/
def memDetail (a : Nat) : Nat :=
  if hbmAddr a then (stackOf a).val + a / 1024 % 64 * 2 ^ 8 + ((a / 2 ^ 16 % 16) ^^^ (a / 2 ^ 20 % 16)) * 2 ^ 16 else 0

/-- The fields of a record that an address gives: its flag, the address and the detail. -/
def ErrRec.at (r : ErrRec) : Option Nat → ErrRec
  | none => r
  | some a => { r with flags := r.flags ||| 2, address := a, detail := memDetail a }

/-- The codes of the other conditions that apply where one is reported: at most four (R13, R379). -/
def furtherCodes (l : List Nat) (st : Status) : List Nat := ((l.filter (· ≠ st.code)).eraseDups).take 4

/-- E_DEADLINE applies to an operation whose deadline has passed (R29). -/
def lateCode (deadline now : Word) : List Nat :=
  if deadline ≠ 0 ∧ deadline.toNat < now.toNat then [Status.eDeadline.code] else []

/-- The 64 bytes of an error record (R379). -/
def ErrRec.bytes (r : ErrRec) : List Byte :=
  leBytes r.time.toNat 8 ++ leBytes r.seq 8 ++ leBytes r.page 2 ++ leBytes r.cls 1 ++ leBytes r.code 1 ++
  leBytes r.subjectKind 1 ++ leBytes r.wmUnit 1 ++ leBytes r.flags 1 ++ leBytes 0 1 ++ leBytes r.subject 8 ++
  leBytes r.watermark 4 ++ leBytes r.count 4 ++ leBytes r.address 8 ++
  ((r.further ++ [0, 0, 0, 0]).take 4).flatMap (fun x => leBytes x 1) ++ leBytes r.detail 12

/-- Tidewatch runs: the standby input is present (R408). -/
def State.tidewatchUp (s : State) : Bool := s.standby

/-- A record is summarised: every one of classes 1 to 3, a corrected one at most once per source page per second
(R381). -/
def State.summarised (s : State) (r : ErrRec) : Bool :=
  r.cls ≠ 0 || (let t := FMap.get 0 s.errs.lastCorrected r.page
                t == 0 || decide (t.toNat + 4000000000 ≤ r.time.toNat))

/-- Adds a summary to MRAM, which keeps the newest 32,768 (R381). -/
def pushSummary (l : List Summary) (x : Summary) : List Summary :=
  let l := l ++ [x]
  if 32768 < l.length then l.drop 1 else l

/-- Summarises a record in MRAM, or keeps its summary on the Headland die while Tidewatch is stopped (R381). -/
def State.summarise (s : State) (r : ErrRec) : State :=
  if s.summarised r then
    let x : Summary := ⟨r.time, r.page, r.cls, r.code, r.subject % 2 ^ 32⟩
    let e := s.errs
    let e := if r.cls = 0 then { e with lastCorrected := FMap.set 0 e.lastCorrected r.page r.time } else e
    { s with errs :=
      if s.tidewatchUp then { e with summaries := pushSummary e.summaries x, pushed := e.pushed + 1 }
      else if e.kept.length < 4096 then { e with kept := e.kept ++ [x] } else e }
  else s

/-- Records the ring can hold, 2^size_log2 (R380). -/
def State.ringSize (s : State) : Nat := 2 ^ s.fld .fault .errRingBase 0 52 48

/-- Device address of the error ring; 0 means none (R380). -/
def State.ringBase (s : State) : Nat := s.fld .fault .errRingBase 0 47 6 * 64

/-- Writes a record into its slot of the ring in HBM4 (R380). -/
def State.ringWrite (s : State) (r : ErrRec) : State :=
  s.store (s.ringBase + 64 * (r.seq % s.ringSize)) r.bytes

/-- Writes an error record: it takes the next seq and goes to the ring, or to the 256-record buffer while there is no
ring; beyond that it counts in ERR_LOST. ERR_HEAD of its page takes the seq (R379, R380, R381). -/
def State.commitRecord (s : State) (r : ErrRec) : State :=
  if s.ringBase = 0 ∧ 256 ≤ s.errs.buffered.length then (s.bump .fault .errLost 0 1).summarise r
  else
    let head := s.rd .fault .errRingHead 0
    let live := s.tidewatchUp && s.summarised r
    let r := { r with seq := head.toNat, flags := if live then r.flags ||| 4 else r.flags }
    let s := if s.ringBase = 0 then { s with errs := { s.errs with buffered := s.errs.buffered ++ [r] } }
             else s.ringWrite r
    let s := s.wr .fault .errRingHead 0 (head + 1)
    let s := match Pg.ofIndex r.page with
      | some p => s.wr p .errHead 0 (setBits (BitVec.ofNat 64 r.seq) 63 63 1)
      | none => s
    let s := if s.ringBase ≠ 0 ∧ (s.rd .fault .errRingAck 0).toNat + s.ringSize ≤ r.seq then
        (s.bump .fault .errLost 0 1).event .fault 0
      else s
    s.summarise r

/-- Reports a fault: a corrected one is folded into a held record of the same page, code and address or begins one,
and every other is written at once (R379). -/
def State.report (s : State) (r : ErrRec) : State :=
  if r.cls = 0 then
    let same (h : ErrRec) := h.page = r.page && h.code = r.code && h.address = r.address &&
      decide (r.time.toNat < h.time.toNat + 4000000)
    if s.errs.held.any same then
      { s with errs := { s.errs with
        held := s.errs.held.map (fun h => if same h then { h with count := h.count + 1 } else h) } }
    else { s with errs := { s.errs with held := s.errs.held ++ [r] } }
  else s.commitRecord r

/-- A record of class Contained about an operation of a page (R377, R386). -/
def State.contained (s : State) (p : Pg) (st : Status) (a : Option Nat) : State :=
  s.report (ErrRec.at { time := s.now, page := p.index, cls := 1, code := st.code } a)

/-- A record of class Corrected from a page (R377). -/
def State.corrected (s : State) (p : Pg) (st : Status) (addr : Nat) : State :=
  s.report (ErrRec.at { time := s.now, page := p.index, cls := 0, code := st.code } (some addr))

/-- A record of class Corrected from a page, without an address (R377). -/
def State.noted (s : State) (p : Pg) (st : Status) : State :=
  s.report { time := s.now, page := p.index, cls := 0, code := st.code }

/-- An operation completes with a status: an access to CXL memory that was gone counts on its port (R286). `l` are the
addresses it names. -/
def State.goneCount (s : State) (st : Status) (l : List Nat) : State :=
  if st ≠ .eGone then s
  else match (l.filter (fun a => s.reach a == .eGone)).head?.bind cxlPort with
    | some p => s.bump (.cxl p) .cxlGoneCount 0 1
    | none => s

/-! ### Completion records (R320) -/

/-- A time in 64 ns units, rounded up, saturating (R320). -/
def units64 (t : Nat) : Nat := min (ceilDiv t 256) (2 ^ 32 - 1)

/-- Writes a completion record of an operation accepted at a time (R320). -/
def State.complete (s : State) (id opcode : Nat) (st : Status) (wm : Nat) (accepted : Word) (deadline : Bool)
    (extraKind extra : Nat) : State :=
  { s with records := s.records ++ [{
      id := id, status := st.code, opcode := opcode, extraKind := extraKind, flags := if deadline then 2 else 0,
      watermark := wm, doneTime := s.now, service := units64 (s.now - accepted).toNat, extra := units64 extra }] }

/-! ### The LIVE handshake and Dry -/

/-- The LIVE state of a page (R393). -/
def State.live (s : State) (p : Pg) : LiveSt := (FMap.get {} s.lives p.index).state

/-- What a block does while the main rails are up and the last boot succeeded; in Dry, and after a boot that failed, the
block does nothing (R401, R431). -/
def State.awake (s : State) (f : State → State) : State := if s.sys.dry || s.sys.failed then s else f s

/-! ### Configuration that is ignored -/

/-- The EVENT bit CFG_IGNORED of a page type, where the page defines one (R490). -/
def PageType.cfgIgnored : PageType → Option Nat
  | .sequencer => some 3 | .foreshore => some 2 | .harbour => some 3 | .hbm => some 3 | .cxl => some 3
  | .cliff => some 5 | .pool => some 0 | .scheduler => some 0 | .estuary => some 4 | .fault => some 5
  | .power => some 5 | .tidewatch => some 3 | .selfTest => some 4 | .tideway => some 4
  | _ => none

/-- A register write is ignored: nothing changes, and CFG_IGNORED is raised where the page defines it (R490). -/
def State.ignore (s : State) (p : Pg) : State :=
  match p.type.cfgIgnored with
  | some b => s.event p b
  | none => s

end Sys2Proof.Machine
end

