-- ==== Sys2Proof/Machine/Traffic.lean ====
section
/-! DEFINITION. Which half and stack an address lies in, whether the memory that holds it is served, and what an access moves on
the pages of Harbour, HBM4 and CXL (R240 to R243, R251 to R253, R393, R394). -/

namespace Sys2Proof.Machine

/-! ### Places -/

/-- The Harbour half and the stack of an address, where it has them, are RUNNING: an access waits while one is not
(R393, R394). -/
def State.serves (s : State) (a : Nat) : Bool :=
  !harbourAddr a || (s.live (.harbour (halfOf a)) == .running && (!hbmAddr a || s.live (.hbm (stackOf a)) == .running))

/-- Every page that can make a memory access wait is RUNNING. -/
def State.memoryRuns (s : State) : Bool :=
  [(0 : Fin 2), 1].all (fun h => s.live (.harbour h) == .running) &&
  (List.range 12).all (fun k => s.live (.hbm (Fin.ofNat 12 k)) == .running)

/-- Accesses to [a, a + n) are served and do not wait for a RESUME (R393, R394). -/
def State.served (s : State) (a n : Nat) : Bool :=
  s.memoryRuns || (List.range (n / 512 + 2)).all (fun i => a / 512 * 512 + 512 * i ≥ a + n || s.serves (a / 512 * 512 + 512 * i))

/-- The tokens left in a bucket after a request of some units (R253). -/
def spend (l : List Nat) (cl units : Nat) : List Nat := l.zipIdx.map (fun (t, i) => if i = cl then t - units else t)

/-- The lines of [a, a + n) that Harbour does not hold. -/
def State.missing (s : State) (a n : Nat) : Nat := ((linesOf a n).filter (fun l => !s.harbour.contains l)).length

/-- What an access of a class at an address that missed in some lines moves behind Harbour: the counters whose amounts depend on
timing, granules and buffers rise by free amounts, and the class's bucket is spent (R251 to R253, notes/assumptions/13.md). -/
def State.traffic (s : State) (cl a lines : Nat) : State :=
  if lines = 0 ∨ !harbourAddr a then s
  else
    let s := s.bumpFree (.harbour (halfOf a)) .hbMshrFullCycles 0
    if hbmAddr a then
      let b := a / 0x2000000000
      let r := FMap.get {} s.regulators b
      let s := { s with regulators := FMap.set {} s.regulators b { r with tokens := spend r.tokens cl (2 * lines) } }
      [stackOf a, stackOf (a + 512)].foldl (fun (s : State) k => s.bumpAllFree (.hbm k)
        [.hbmRdBytes, .hbmWrBytes, .hbmTurnarounds, .hbmActivates, .hbmRefreshStallCycles, .hbmRegWaitCycles,
         .hbmQueueFullCycles]) s
    else match cxlPort a with
      | some p => s.bumpAllFree (.cxl p) [.cxlRdBytes, .cxlWrBytes, .cxlLinkRetries]
      | none => s

/-- A read of n bytes for a class: in HBM4 and CXL memory a miss allocates its line unless a STREAM region governs it (R245). -/
def State.reads (s : State) (cl a n : Nat) : State :=
  if !harbourAddr a then s
  else ((linesOf a n).foldl (fun (s : State) l =>
    s.lineUse false ((s.regionAt (l * 128)).map (·.policy) != some 1) l) s).traffic cl a (s.missing a n)

/-- A prefetcher after a core's miss of a line (R256): it takes further the stream of the line's 64 KiB range, or the third ascending
miss of a 4 KiB range forms one; at most 16 streams. -/
def Prefetcher.miss (p : Prefetcher) (line : Nat) : Prefetcher :=
  match p.streams.find? (fun l => l / 512 == line / 512) with
  | some l => { p with streams := max l line :: p.streams.filter (· ≠ l) }
  | none =>
    match p.misses.filter (fun l => l / 32 = line / 32) with
    | b :: a :: _ =>
      if a < b ∧ b < line then
        { misses := p.misses.filter (fun l => l / 32 ≠ line / 32), streams := (line :: p.streams).take 16 }
      else { p with misses := line :: p.misses }
    | _ => { p with misses := line :: p.misses }

/-- A core reads a line (R256): a miss, or the first use of a prefetched line, is one of the core's misses for the half's
prefetcher while it runs. -/
def State.coreReads (s : State) (c : Fin 36) (line : Nat) : State :=
  let h := halfOf (line * 128)
  if bit1 (s.rd (.harbour h) .hbCtrl 0) 2 ∧ (!s.harbour.contains line ∨ FMap.get 0 s.pfLines line ≠ 0) then
    { s with pf := FMap.set {} s.pf (36 * h.val + c.val) ((FMap.get {} s.pf (36 * h.val + c.val)).miss line) }
  else s

/-- A read of n bytes by a core (R256). -/
def State.readsBy (s : State) (c : Fin 36) (cl a n : Nat) : State :=
  if !harbourAddr a then s else ((linesOf a n).foldl (State.coreReads · c) s).reads cl a n

/-- A prefetcher may fetch a line (R256): its granule is at most `dist` granules ahead of a stream, in the stream's 64 KiB range. -/
def Prefetcher.may (p : Prefetcher) (dist line : Nat) : Bool :=
  p.streams.any (fun l => l / 512 == line / 512 && decide (l / 4 < line / 4) && decide (line / 4 ≤ l / 4 + min 64 dist))

end Sys2Proof.Machine
end

