-- ==== Sys2Proof/Machine/Wire.lean ====
section
/-! DEFINITION. Queue pairs: what Estuary sends, its contexts, errors of a queue pair, and the response of a request
(R305, R308, R311, R319, R320). -/

namespace Sys2Proof.Machine

/-- The 32 bytes of a completion record (R320). -/
def Completion.bytes (r : Completion) : List Byte :=
  leBytes r.id 8 ++ leBytes r.status 1 ++ leBytes r.opcode 1 ++ leBytes r.extraKind 1 ++ leBytes r.flags 1 ++
  leBytes r.watermark 4 ++ leBytes r.doneTime.toNat 8 ++ leBytes r.service 4 ++ leBytes r.extra 4

/-- A queue pair by number. -/
def State.qp (s : State) (n : Nat) : Option Qp := FMap.get none s.est.qps n

/-- Replaces a queue pair. -/
def State.setQp (s : State) (n : Nat) (q : Option Qp) : State :=
  { s with est := { s.est with qps := FMap.set none s.est.qps n q } }

/-- Something leaves the device. -/
def State.emit (s : State) (o : Out) : State := { s with out := s.out ++ [o] }

/-- Bytes of an Ikiotte message (R314). -/
def msgSize (m : Msg) : Nat := 32 + m.body.length

/-- Bytes of a message. -/
def Wire.len : Wire → Nat
  | .write _ _ bs => bs.length
  | .send bs _ => bs.length
  | .read _ _ n => n

/-- Packets of a message at an MTU. -/
def Wire.packets (w : Wire) (mtu : Nat) : Nat := max 1 (ceilDiv w.len mtu)

/-- A queue pair sends a message: a reliable one keeps it until it is acknowledged (R305). -/
def State.send (s : State) (n : Nat) (req : Option Nat) (w : Wire) : State :=
  match s.qp n with
  | none => s
  | some q =>
    if q.error then s
    else
      let k := w.packets q.mtu
      let s := s.setQp n (some { q with
        sendPsn := (q.sendPsn + k) % 2 ^ 24, timer := if q.unacked.isEmpty then s.now else q.timer, unacked := if q.ud then [] else q.unacked ++ [⟨q.sendPsn, k, req, w⟩] })
      (s.bump .estuary .estTxPkts 0 k).emit (.wire n q.sendPsn w)

/-- Sends again everything a queue pair has not had acknowledged (R305). -/
def State.resend (s : State) (n : Nat) : State :=
  match s.qp n with
  | none => s
  | some q =>
    let k := (q.unacked.map (·.packets)).sum
    let s := s.setQp n (some { q with timer := s.now })
    q.unacked.foldl (fun (s : State) x => s.emit (.wire n x.psn x.what))
      ((s.bump .estuary .estRetransmits 0 k).bump .estuary .estTxPkts 0 k)

/-- The error record of a message (R379): its request_id, the queue pair in the detail, and the codes of the other conditions
that apply (R13). -/
def State.msgError (s : State) (qp : Nat) (id : Word) (st : Status) (wmUnit wm : Nat) (further : List Nat) : State :=
  s.report { time := s.now, page := Pg.estuary.index, cls := 1, code := st.code, subjectKind := 2, wmUnit := wmUnit,
             flags := 1, subject := id.toNat, watermark := wm, detail := qp, further := further }

/-- The codes of the conditions that stop a request: a step of it failed, it was cancelled, its deadline has passed (R29,
R212, R213, R325). -/
def Req.applies (r : Req) (now : Word) : List Nat :=
  r.failed.toList ++ (if r.cancel then [Status.eAbort.code] else []) ++
    (if r.deadline ≠ 0 ∧ r.deadline.toNat < now.toNat then [Status.eDeadline.code] else [])

/-- A queue pair enters ERROR (R311, R319): a transport failure is queue-fatal (R377), and each response it has not
delivered is lost with an error record. -/
def State.qpError (s : State) (n : Nat) : State :=
  match s.qp n with
  | none => s
  | some q =>
    let s := s.report { time := s.now, page := Pg.estuary.index, cls := 2, code := Status.eLink.code, detail := n }
    let s := q.unacked.foldl (fun (s : State) x => match x.what, x.req with
      | .send bs _, some _ => s.msgError n (BitVec.ofNat 64 (leNat (bs.take 8))) .eLink 0 0 []
      | _, _ => s) s
    (s.setQp n (some { q with error := true, unacked := [] })).event .estuary 3

/-! ### Contexts (R308) -/

/-- A queue pair's context is pinned by a fast-path binding (R322). -/
def State.pinnedCtx (s : State) (n : Nat) : Bool := ((s.qp n).bind (·.fast)).isSome

/-- Contexts cached in the set of a queue pair. -/
def State.ctxSet (s : State) (n : Nat) : List Nat := FMap.get [] s.est.cache (n % 1024)

/-- A packet of a queue pair looks its context up: a hit makes it the latest used, a miss begins a fetch (R308). -/
def State.ctxLook (s : State) (n packets : Nat) : Bool × State :=
  let l := s.ctxSet n
  let s := s.bump .estuary .estRxPkts 0 packets
  if l.contains n then
    (true, { (s.bump .estuary .estCtxHits 0 packets) with
      est := { s.est with cache := FMap.set [] s.est.cache (n % 1024) (n :: l.filter (· ≠ n)) } })
  else
    let s := s.bump .estuary .estCtxMisses 0 packets
    (false, if s.est.misses.contains n then s else { s with est := { s.est with misses := s.est.misses ++ [n] } })

/-- Context misses whose fetch is in flight: at most 64, in the order they began (R308). -/
def State.fetching (s : State) : List Nat := s.est.misses.take 64

/-- A packet of a queue pair whose context is not cached waits, and those that come after it: the first of them begins a miss (R308).
Packets are looked up again when they proceed. -/
def State.holds (s : State) (n packets : Nat) (i : Instr) : State :=
  let s := s.bump .estuary .estCtxMisses 0 packets
  { s with est := { s.est with held := s.est.held ++ [(n, i)],
                               misses := if s.est.misses.contains n then s.est.misses else s.est.misses ++ [n] } }

/-- A packet of `bytes` arrives for a queue pair (R308, R310): one for queue pair 0 is dropped and counted, one that misses its context
waits, and any other is served. -/
def State.heard (s : State) (n bytes : Nat) (i : Instr) (f : State → State) : State :=
  match s.qp n with
  | none => if n = 0 then s.bump .estuary .estDropped 0 1 else s
  | some q =>
    if !q.error && !s.est.closed && (!(s.ctxSet n).contains n || s.est.held.any (·.1 == n)) then
      s.holds n (max 1 (ceilDiv bytes q.mtu)) i
    else f s

/-- A CE-marked packet of a queue pair: a congestion notification goes to its sender, at most once per interval (R305). -/
def State.marked (s : State) (n : Nat) (ce : Bool) : State :=
  match s.qp n with
  | none => s
  | some q =>
    let cfg := (FMap.get none s.est.ports q.port).getD (s.rd .estuary .estPortCfg q.port)
    let gap := s.fld .estuary .estCcCfg 0 15 0 * 4000
    let due : Bool := match q.lastCnp with
      | some t => decide (t.toNat + gap ≤ s.now.toNat)
      | none => true
    if ce && bit1 cfg 19 && due then
      ((s.setQp n (some { q with lastCnp := some s.now })).bump .estuary .estCnpSent 0 1).emit (.cnp n)
    else s

/-- A context comes into its set: beyond eight ways the least recently used unpinned one goes (R308). -/
def State.ctxFill (s : State) (n : Nat) : State :=
  let l := (s.ctxSet n).filter (· ≠ n)
  let l := if l.length < 8 then l
    else match l.reverse.find? (fun x => !s.pinnedCtx x) with
      | some x => l.filter (· ≠ x)
      | none => l
  { s with est := { s.est with cache := FMap.set [] s.est.cache (n % 1024) (n :: l),
                               misses := s.est.misses.filter (· ≠ n) } }

/-! ### Responses (R319, R320) -/

/-- The request leaves the list of unanswered messages and its response goes out: result WRITEs, then the SEND with the
completion record and the response body (R20, R319). R20 speaks of a reliable pair only: on a service queue pair of type UD the same
messages go out, unreliable and kept for no resending (DESIGN CHOICE; notes/assumptions/72.md). A failure leaves its error record first (R379). `writes` are
addresses, rkeys and bytes. -/
def State.respond (s : State) (k : Nat) (r : Req) (st : Status) (wmUnit wm : Nat) (body : List Byte)
    (writes : List (Nat × Nat × List Byte)) : State :=
  let s := if st ≠ .ok then s.msgError r.qp r.id st wmUnit wm (furtherCodes (r.applies s.now) st) else s
  let c : Completion := {
    id := r.id.toNat, status := st.code, opcode := r.op, extraKind := r.extra.1,
    flags := if r.deadline ≠ 0 then 2 else 0, watermark := wm, doneTime := s.now,
    service := units64 (s.now - r.accepted).toNat, extra := units64 r.extra.2 }
  let s := { s with records := s.records ++ [c], gulk := { s.gulk with reqs := FMap.set none s.gulk.reqs k none } }
  match s.qp r.qp with
  | none => s
  | some q =>
    if q.error then s.msgError r.qp r.id .eLink wmUnit wm []
    else
      let s := writes.foldl (fun (s : State) w => s.send r.qp (some k) (.write w.1 w.2.1 w.2.2)) s
      s.send r.qp (some k) (.send (c.bytes ++ body) none)

/-! ### Semaphore frames to a peer (R346) -/

/-- The link engine of a Tideway port. -/
def State.twPort (s : State) (p : Nat) : TwPort := FMap.get {} s.tw.ports p

/-- Ports of a peer entry (R339). -/
def State.peerPorts (s : State) (k : Nat) : List Nat :=
  (List.range 16).filter (fun p => bit1 (s.rd .tideway .twPeer k) (32 + p))

/-- The page of a port. -/
def twPg (p : Nat) : Pg := .twPort (Fin.ofNat 16 p)

/-- The state code of a port (R354). -/
def State.twState (s : State) (p : Nat) : Nat := s.fld (twPg p) .twpStat 0 2 0

/-- A port carries frames: it is UP or DEGRADED. -/
def State.twUp (s : State) (p : Nat) : Bool := s.twState p == 2 || s.twState p == 3

/-- A port sends a frame that is no DATA frame (R333, R354). -/
def State.sentOn (s : State) (p : Nat) : State := s.bump (twPg p) .twpTxFrames 0 1

/-- A frame that is no DATA frame goes to a peer: on the first of its ports that carries frames. -/
def State.sentTo (s : State) (k : Nat) : State :=
  match (s.peerPorts k).find? s.twUp with
  | some p => s.sentOn p
  | none => s

/-- An acknowledgement or a refusal goes out on a port: in the header of a DATA frame or in a CONTROL frame of its own, which nothing
fixes, so that the frames sent rise by a free amount (R335). -/
def State.ackOn (s : State) (p seq : Nat) (good : Bool) : State :=
  (s.emit (.twAck p seq good)).bumpFree (twPg p) .twpTxFrames 0

/-- A port of a peer carries frames, and every frame this module sent to the peer is acknowledged, the SEMAPHORE frames among them
(R346). -/
def State.peerQuiet (s : State) (k : Nat) : Bool :=
  (s.peerPorts k).any s.twUp && !s.tw.semOut.contains k &&
  (s.peerPorts k).all (fun p => (s.twPort p).queue.isEmpty && (s.twPort p).replay.isEmpty)

/-- Sends the SEMAPHORE frames whose peers have acknowledged everything sent before, in order. -/
def State.pumpSems (s : State) : List (Nat × Nat × Nat × Nat) → List (Nat × Nat × Nat × Nat) → State
  | [], keep => { s with tw := { s.tw with sems := keep.reverse } }
  | x :: r, keep =>
    if s.peerQuiet x.1 && keep.all (fun y => y.1 != x.1) then
      let s := (s.sentTo x.1).emit (.semFrame x.1 x.2.1 x.2.2.1 x.2.2.2)
      { s with tw := { s.tw with semOut := s.tw.semOut ++ [x.1] } }.pumpSems r keep
    else s.pumpSems r (x :: keep)

/-- The peers that a predicate names have acknowledged their SEMAPHORE frames: the next ones leave (R346). -/
def State.semsAcked (s : State) (peer : Nat → Bool) : State :=
  let s := { s with tw := { s.tw with semOut := s.tw.semOut.filter (fun k => !peer k) } }
  s.pumpSems s.tw.sems []

/-- Sends a SEMAPHORE frame to a peer, once what was sent to it earlier is acknowledged (R346). -/
def State.sendSem (s : State) (peer op index amount : Nat) : State :=
  s.pumpSems (s.tw.sems ++ [(peer, op, index, amount)]) []

end Sys2Proof.Machine
end

