-- ==== Sys2Proof/Machine/Seq.lean ====
section
/-! DEFINITION. The core sequencer's shared parts: fetching an instruction, its common word, hazards, completion in
order with the post ADD, the error policies, the choice of the holder with the context switch, and the release of
waiters of a faulted semaphore (R77 to R99, R295, R384). -/

namespace Sys2Proof.Machine

/-! ### The instruction word (R80) -/

/-- A fetched tile instruction: its address and its four words. -/
structure Ins where
  pc : Nat
  w0 : Word
  w1 : Word
  w2 : Word
  w3 : Word
  deriving DecidableEq, Repr

/-- Opcode (R81). -/
def Ins.opcode (i : Ins) : Nat := bits i.w0 7 0
/-- FP8 saturation option (R42). -/
def Ins.sat8 (i : Ins) : Bool := bit1 i.w0 10
/-- NO_SPILL (R71). -/
def Ins.noSpill (i : Ins) : Bool := bit1 i.w0 11
/-- The instruction has a post ADD (R80). -/
def Ins.postEn (i : Ins) : Bool := bit1 i.w0 12
/-- The semaphore operation is traced (R80). -/
def Ins.trace (i : Ins) : Bool := bit1 i.w0 13
/-- Resynchronisation point of SKIP (R98). -/
def Ins.resync (i : Ins) : Bool := bit1 i.w0 14
/-- A completion record is written (R80). -/
def Ins.record (i : Ins) : Bool := bit1 i.w0 15
/-- Semaphore index of the post ADD. -/
def Ins.postIndex (i : Ins) : Nat := bits i.w0 31 16
/-- Scope of the post ADD: true is global. -/
def Ins.postScope (i : Ins) : Bool := bit1 i.w0 32
/-- Amount of the post ADD, 1 to 256. -/
def Ins.postInc (i : Ins) : Nat := bits i.w0 40 33 + 1
/-- SR tag field: bits [15:4] of the tag of R46. -/
def Ins.srTag (i : Ins) : Nat := bits i.w0 52 41
/-- Runtime-length slot. -/
def Ins.lenSlot (i : Ins) : Nat := bits i.w0 58 53
/-- Axis the slot limits: 0 none, 1 M, 2 N, 3 K. -/
def Ins.lenAxis (i : Ins) : Nat := bits i.w0 60 59
/-- The rounding mode, if its code is not reserved (R41). -/
def Ins.rnd (i : Ins) : Option Rnd := Rnd.ofCode (bits i.w0 9 8)

/-- The instruction of a flight. -/
def Flight.ins (f : Flight) : Ins := ⟨f.pc, f.w0, f.w1, f.w2, f.w3⟩

/-- The opcodes of R81. -/
def opMatmul : Nat := 0x01
def opWload : Nat := 0x02
def opRstep : Nat := 0x03
def opVchain : Nat := 0x08
def opMove : Nat := 0x10
def opWaitGe : Nat := 0x18
def opAdd : Nat := 0x19
def opSub : Nat := 0x1A
def opBranch : Nat := 0x20
def opScalar : Nat := 0x21
def opFence : Nat := 0x28
def opEnd : Nat := 0x3F

/-- The opcode is in the table of R81. -/
def opListed (o : Nat) : Bool :=
  [opMatmul, opWload, opRstep, opVchain, opMove, opWaitGe, opAdd, opSub, opBranch, opScalar, opFence, opEnd].contains o

/-- The axis is one the table lists for the opcode (R81). -/
def axisOk (o ax : Nat) : Bool :=
  ax == 0 || o == opMatmul || (o == opRstep && (ax == 1 || ax == 3)) || (o == opVchain && (ax == 1 || ax == 2)) ||
  (o == opMove && ax == 1)

/-- The instruction is a product of an array: a MATMUL or an RSTEP. -/
def Flight.product (f : Flight) : Bool := f.ins.opcode == opMatmul || f.ins.opcode == opRstep
/-- The array of a product (R82). -/
def Flight.arr (f : Flight) : Nat := bits f.w1 54 54

/-- The opcode runs on an array or the vector engine, so it holds the core (R94). -/
def opHolds (o : Nat) : Bool := o == opMatmul || o == opRstep || o == opVchain

/-! ### Queue registers (R101) -/

/-- The sequencer page of a core. -/
def seqPg (c : Fin 36) : Pg := .sequencer c

/-- The scalar register i of queue q. -/
def State.scReg (s : State) (c : Fin 36) (q i : Nat) : Word := s.rd (.sequencer c) .sc (16 * q + i)

/-- Writes scalar register i of queue q. -/
def State.setSc (s : State) (c : Fin 36) (q i : Nat) (v : Word) : State := s.wr (.sequencer c) .sc (16 * q + i) v

/-- The runtime-length slot j of queue q: value in [30:0], kind in [31] (R90). -/
def State.slotVal (s : State) (c : Fin 36) (q j : Nat) : Nat :=
  let w := s.rd (.sequencer c) .slot (32 * q + j / 2)
  if j % 2 = 0 then bits w 31 0 else bits w 63 32

/-- Writes runtime-length slot j of queue q. -/
def State.setSlot (s : State) (c : Fin 36) (q j v : Nat) : State :=
  let w := s.rd (.sequencer c) .slot (32 * q + j / 2)
  s.wr (.sequencer c) .slot (32 * q + j / 2) (if j % 2 = 0 then setBits w 31 0 v else setBits w 63 32 v)

/-- The SR seed and step of a queue: those of its stream where it is bound to one and stream_bound is set, else Qn_SEED and Qn_STEP
(R100). -/
def State.srOf (s : State) (c : Fin 36) (q : Nat) : Word × Word :=
  match (if bit1 (s.rd (.sequencer c) .qCfg q) 4 then (s.queue c q).bound else none) with
  | some b => b.2
  | none => (s.rd (.sequencer c) .qSeed q, s.rd (.sequencer c) .qStep q)

/-- Service class of a queue (R291). -/
def State.qClass (s : State) (c : Fin 36) (q : Nat) : Nat := s.fld (.sequencer c) .qCfg q 1 0

/-- Address of the next instruction of a queue. -/
def State.qPcVal (s : State) (c : Fin 36) (q : Nat) : Nat := s.fld (.sequencer c) .qPc q 47 5 * 32

/-- Sets the program counter of a queue. -/
def State.setPc (s : State) (c : Fin 36) (q pc : Nat) : State := s.setFld (.sequencer c) .qPc q 47 5 (pc / 32)

/-- The queue fetches from device addresses (R79). -/
def State.qDevice (s : State) (c : Fin 36) (q : Nat) : Bool := bit1 (s.rd (.sequencer c) .qCfg q) 3

/-- Device address of a Ledge byte offset of a core. -/
def ledgeAt (c : Fin 36) (off : Nat) : Nat := ledgeBase c.val + off

/-- Fetches the 32 bytes at Qn_PC (R79): E_ADDR beyond the Ledge or from an address not mapped or not permitted,
E_MEM_UNCORR where a word is uncorrectable (R377). -/
def State.fetch (s : State) (c : Fin 36) (q : Nat) : Status × Ins :=
  let pc := s.qPcVal c q
  let a := if s.qDevice c q then pc else ledgeAt c pc
  let ok := if s.qDevice c q then s.access a 32 == .ok else pc + 32 ≤ ledgeSize
  if !ok then (.eAddr, ⟨pc, 0, 0, 0, 0⟩)
  else if (s.badIn a 32).isSome then (.eMemUncorr, ⟨pc, 0, 0, 0, 0⟩)
  else (.ok, ⟨pc, s.word a, s.word (a + 8), s.word (a + 16), s.word (a + 24)⟩)

/-- The id of a tile instruction's records (R320). -/
def tileId (c : Fin 36) (q seq : Nat) : Nat := seq % 2 ^ 32 + q * 2 ^ 32 + c.val * 2 ^ 35

/-! ### Hazards (R88) -/

/-- Two byte ranges share a 4 KiB granule. -/
def sameGranule (x y : Nat × Nat) : Bool :=
  x.2 ≠ 0 && y.2 ≠ 0 && x.1 / 4096 ≤ (y.1 + y.2 - 1) / 4096 && y.1 / 4096 ≤ (x.1 + x.2 - 1) / 4096

/-- Two lists of ranges share a granule. -/
def rangesMeet (xs ys : List (Nat × Nat)) : Bool := xs.any (fun x => ys.any (sameGranule x))

/-- An instruction may not start while an earlier one is in flight (R88). -/
def Touch.meets (new old : Touch) : Bool :=
  rangesMeet (new.rd ++ new.wr) old.wr || rangesMeet new.wr old.rd ||
  new.units.any old.units.contains || new.scs.any old.scs.contains || new.slots.any old.slots.contains ||
  (new.score && old.score)

/-- Nothing in flight in the queue holds the instruction back, a waiting WAIT_GE included (R88, R89). -/
def Queue.free (x : Queue) (t : Touch) : Bool :=
  x.flights.all (fun f => !t.meets f.touch && (f.done || f.ins.opcode ≠ opWaitGe))

/-! ### Semaphores of an instruction -/

/-- The semaphore exists: 4,096 local ones, 65,536 global ones (R80). -/
def semExists (scope : Bool) (i : Nat) : Bool := scope || i < 4096

/-- Faults one semaphore for an ADD of a core that is not performed (R98, R102). -/
def State.faultAdd (s : State) (c : Fin 36) (scope : Bool) (i : Nat) : State :=
  if semExists scope i then (s.markFaulted scope c.val i).event (.sequencer c) 2 else s

/-- Faults the semaphore of an instruction's post ADD, which is not performed (R98). -/
def State.faultPost (s : State) (c : Fin 36) (i : Ins) : State :=
  if i.postEn then s.faultAdd c i.postScope i.postIndex else s

/-- Faults the semaphore of a standalone ADD or SUB that is not performed (R98). A remote one is sent as a fault to its peer
(R347). -/
def State.faultOwn (s : State) (c : Fin 36) (i : Ins) : State :=
  if i.opcode = opAdd ∨ i.opcode = opSub then
    (if bit1 i.w1 17 then s.sendSem (bits i.w1 25 18) 2 (bits i.w1 15 0) 0
     else s.faultAdd c (bit1 i.w1 16) (bits i.w1 15 0))
  else s

/-- Faults the semaphores of an instruction's ADDs, none of which is performed: its post ADD and its own ADD or SUB (R98). -/
def State.faultAdds (s : State) (c : Fin 36) (i : Ins) : State := (s.faultPost c i).faultOwn c i

/-! ### Units held -/

/-- The units of kept tiles (R107). -/
def KeptTiles.span (t : KeptTiles) : List Nat :=
  (List.range (ceilDiv t.m 64 * ceilDiv t.n 64 * (if t.exact then 3 else 1))).map (· + t.unit)

/-- The units of carried state (R178). -/
def Carried.span (t : Carried) : List Nat := (List.range t.su).map (· + t.unit)

/-- Accumulator units of an array that carried state and tiles kept for a CONTINUE hold and that are not in the save area
(R70, R295). -/
def Core.keptUnits (k : Core) (a : Nat) : List Nat :=
  let x := k.arr a
  let kept := x.kept.flatMap (fun t => t.span.filter (fun u => !t.saved.contains u))
  let car := x.carried.flatMap (fun t => t.span.filter (fun u => !t.saved.contains u))
  (List.range 48).filter (kept ++ car).contains

/-- Accumulator units of an array that kept tiles, carried state or live tiles occupy and that are not in the save
area, each once (R67, R70, R295). -/
def Core.occupied (k : Core) (a : Nat) : List Nat :=
  let live := k.queues.flatMap (fun (_, q) => q.flights.flatMap (fun f =>
    if f.done then [] else (f.units.filter (fun u => u / 48 = a && !f.saved.contains u)).map (· % 48)))
  (List.range 48).filter (k.keptUnits a ++ live).contains

/-! ### The holder and the context switch (R78, R295) -/

/-- The units of an array that a queue reserves (R295, R303). -/
def State.reserved (s : State) (c : Fin 36) (q a : Nat) : List Nat :=
  let w := s.rd .scheduler .schedResv (8 * c.val + q)
  let first := if a = 0 then bits w 5 0 else bits w 17 12
  let count := if a = 0 then bits w 11 6 else bits w 23 18
  if count = 0 then List.range 48
  else if count = 63 then []
  else ((List.range count).map (· + first)).filter (· < 48)

/-- The Ledge range a queue reserves: byte offset and size (R295, R303). -/
def State.resvLedge (s : State) (c : Fin 36) (q : Nat) : Nat × Nat :=
  let w := s.rd .scheduler .schedResv (8 * c.val + q)
  (bits w 31 24 * 65536, bits w 39 32 * 65536)

/-- Marks the units of a set that a switch saves: units of another queue than y that stand in y's way. -/
def saveUnits (y queue : Nat) (way units : List Nat) (saved : KeySet) : KeySet :=
  if queue = y then []
  else (units.filter way.contains).foldl KeySet.add saved

/-- One array at a switch to queue y: what overlaps y's reservation, or the units to which y's saved units return, is
saved, and y's own units are restored (R295). -/
def ArraySt.switch (x : ArraySt) (y : Nat) (way : List Nat) : ArraySt :=
  { x with
    kept := x.kept.map (fun t => { t with saved := saveUnits y t.queue way t.span t.saved })
    carried := x.carried.map (fun t => { t with saved := saveUnits y t.queue way t.span t.saved }) }

/-- Units of an array that stand in the save area, with their queues. -/
def ArraySt.savedUnits (x : ArraySt) : List (Nat × Nat) :=
  x.kept.flatMap (fun t => t.saved.map (fun u => (t.queue, u))) ++
  x.carried.flatMap (fun t => t.saved.map (fun u => (t.queue, u)))

/-- Units of an array that stand in the save area for queue y. -/
def Core.savedOf (k : Core) (a y : Nat) : List Nat :=
  ((k.arr a).savedUnits.filter (fun p => p.1 = y)).map (·.2) ++
  (k.queue y).flights.flatMap (fun f => (f.saved.filter (fun u => u / 48 = a)).map (· % 48))

/-- The units a switch to queue y clears on an array: y's reservation and the units its saved state returns to. -/
def State.wayOf (s : State) (c : Fin 36) (y a : Nat) : List Nat := s.reserved c y a ++ (s.core c).savedOf a y

/-- The flights of a queue at a switch to queue y. -/
def switchFlights (y q : Nat) (way0 way1 : List Nat) (fs : List Flight) : List Flight :=
  fs.map (fun f => { f with
    saved := if q = y then [] else
      (f.units.filter (fun u => if u < 48 then way0.contains u else way1.contains (u - 48))).foldl KeySet.add f.saved })

/-- The Ledge ranges of a core that hold pinned versions: offset and bytes (R14, R298). -/
def State.pinRanges (s : State) (c : Nat) : List (Nat × Nat) :=
  s.gulk.models.flatMap (fun y => (y.2.map (fun z => (z.ledge.filter (·.1 = c)).map (·.2))).getD [])

/-- A range without the bytes of others: offsets and bytes of what is left. -/
def lessRanges (others : List (Nat × Nat)) (r : Nat × Nat) : List (Nat × Nat) :=
  others.foldl (fun l o => l.flatMap (fun (a, n) =>
    ([(a, min n (o.1 - a)), (max a (o.1 + o.2), a + n - max a (o.1 + o.2))] : List (Nat × Nat)).filter (fun p => p.2 ≠ 0))) [r]

/-- Ledge bytes of another queue that lie in y's range, saved into that queue's part, and y's own bytes restored; bytes of a pinned
model are never moved (R14, R295). -/
def State.switchLedge (s : State) (c : Fin 36) (y : Nat) : State :=
  let (yb, yn) := s.resvLedge c y
  let s := (List.range 8).foldl (fun (s : State) q =>
    if q = y then s else
    let (qb, qn) := s.resvLedge c q
    let lo := max yb qb
    let hi := min (yb + yn) (qb + qn)
    let blocks := (List.range (hi / 65536 - lo / 65536)).map (fun i => lo / 65536 + i)
    let mine := blocks.filter (fun b => FMap.get 0 (s.core c).ledgeOwner b = q + 1)
    let x := s.queue c q
    let parts := mine.flatMap (fun b => lessRanges (s.pinRanges c.val) (b * 65536, 65536))
    let x := { x with ledgeSaved := x.ledgeSaved ++ parts.map (fun p => (p.1, s.bytes (ledgeAt c p.1) p.2)) }
    let k := (s.core c).setQueue q x
    s.setCore c { k with ledgeOwner := mine.foldl (fun m b => FMap.set 0 m b 0) k.ledgeOwner }) s
  let x := s.queue c y
  let s := x.ledgeSaved.foldl (fun (s : State) p => s.store (ledgeAt c p.1) p.2) s
  let s := s.setQueue c y { s.queue c y with ledgeSaved := [] }
  let k := s.core c
  s.setCore c { k with
    ledgeOwner := ((List.range (yn / 65536)).map (· + yb / 65536)).foldl (fun m b => FMap.set 0 m b (y + 1)) k.ledgeOwner }

/-- Units saved by a core's queues in all. -/
def Core.savedCount (k : Core) : Nat :=
  k.a0.savedUnits.length + k.a1.savedUnits.length +
  (k.queues.foldl (fun n (_, q) => n + q.flights.foldl (fun n f => n + f.saved.length) 0) 0)

/-- State units saved: those of carried state, and those of an RSTEP that is stopped at a boundary (R187). -/
def Core.savedState (k : Core) : Nat :=
  (k.a0.carried ++ k.a1.carried).foldl (fun n t => n + t.saved.length) 0 +
  k.queues.foldl (fun n (_, q) => n + q.flights.foldl (fun n f =>
    if f.ins.opcode = opRstep then n + f.saved.length else n) 0) 0

/-- Bytes of a queue that stand in the save area: 16 KiB of each accumulator unit (R389), and its Ledge bytes. -/
def Core.savedBytes (k : Core) (q : Nat) : Nat :=
  16384 * (k.savedOf 0 q ++ k.savedOf 1 q).length + ((k.queue q).ledgeSaved.map (fun p => p.2.length)).sum

/-- What a switch saves is written into each queue's part of the core's save area in HBM4 (R295). The layout of a part is not
stated: its bytes are free. -/
def State.saveArea (s : State) (c : Fin 36) (before : Core) : State :=
  let w := s.rd .scheduler .schedSave c.val
  (List.range 8).foldl (fun (s : State) q =>
    let n := (s.core c).savedBytes q - before.savedBytes q
    let a := bits w 47 16 * 65536 + q * bits w 52 48 * 2 ^ 20
    if n = 0 ∨ s.access a n ≠ .ok then s else s.storeFree a n) s

/-- A Reflex queue has waited for its core: SCHED_MAX_REFLEX_WAIT keeps the largest wait, which timing decides, and one above
6,144 cycles raises REFLEX_WAIT_HIGH (R293, R303, R304). -/
def State.reflexWaited (s : State) (c : Fin 36) (y : Nat) : State :=
  if s.qClass c y ≠ 0 then s
  else
    let (w, s) := s.draw
    let s := if 6144 < bits w 31 0 then s.event .scheduler 1 else s
    if s.fld .scheduler .schedMaxReflexWait 0 31 0 < bits w 31 0 then
      s.wr .scheduler .schedMaxReflexWait 0 (BitVec.ofNat 64 (bits w 31 0 + c.val * 2 ^ 32))
    else s

/-! ### The block a switch loads (R295, R323) -/

/-- K rows of the weight block of the first MATMUL on an array in a program of Ledge (R61). -/
def State.programRows (s : State) (c : Fin 36) (a pc : Nat) : Nat → Option Nat
  | 0 => none
  | fuel + 1 =>
    let w (i : Nat) := s.word (ledgeAt c pc + 8 * i)
    let fmt (x : Nat) : Fmt := (Fmt.ofCode x).getD .fp32
    if bits (w 0) 7 0 = opMatmul ∧ bits (w 1) 54 54 = a then some (blockK (fmt (bits (w 2) 49 46)) (fmt (bits (w 2) 53 50)))
    else if bits (w 0) 7 0 = opEnd ∨ ledgeSize < pc + 64 then none
    else s.programRows c a (pc + 32) fuel

/-- The named bank holds the weight block of a binding (R61, R323). -/
def State.bankHolds (s : State) (b : FastBind) : Bool :=
  let k := (((s.core b.core.val).arr b.array).bank b.bank)
  (k.state == .ready || k.state == .active) &&
  (match k.tag with
   | some t => t.addr == b.wt && t.fmt == b.wFmt && t.transposed == b.transposed &&
      s.programRows b.core b.array b.pc 4096 == some t.kRows
   | none => false)

/-- What a switch to queue y loads: the block of a fast-path request that starts there and whose bank does not hold it, with
its K rows (R295, R323; notes/assumptions/18.md). -/
def State.switchBlock (s : State) (c : Fin 36) (y : Nat) : Option (FastBind × Nat) :=
  if (s.queue c y).seq ≠ 0 then none
  else
    (s.est.fast.find? (fun f => f.running && f.bind.core == c && f.bind.queue.val == y && !s.bankHolds f.bind)).bind
      (fun f => (s.programRows c f.bind.array f.bind.pc 4096).map (fun r => (f.bind, r)))

/-- Bytes of the block a tag names (R59, R61). -/
def BankTag.size (t : BankTag) : Nat :=
  let f := (Fmt.ofCode t.fmt).getD .fp32
  t.kRows * 64 * f.width / 8 + (if f = .e2m1 then 256 else 0)

/-- The bytes of the block a tag names, as they stand in the Ledge. -/
def State.blockAt (s : State) (c : Fin 36) (t : BankTag) : List Byte := s.bytes (ledgeAt c t.addr) t.size

/-- Loads a block at a switch: its bank is READY with its tag (R60, R61, R295). -/
def State.switchLoads (s : State) (c : Fin 36) (b : FastBind) (rows : Nat) : State :=
  let k := s.core c
  let t : BankTag := ⟨b.wt, b.wFmt, b.transposed, rows⟩
  s.setCore c (k.setArr b.array ((k.arr b.array).setBank b.bank { state := .ready, tag := some t, bytes := s.blockAt c t }))

/-- Loads again, for a queue that takes the core back, the block that each of its products was stopped in (R187, R295). -/
def State.switchBlocks (s : State) (c : Fin 36) (y : Nat) : State :=
  (s.queue c y).flights.foldl (fun (s : State) f =>
    if !f.product || f.done || f.visited == 0 then s
    else
      let k := s.core c
      let a := k.arr f.arr
      match f.blocks[f.visited - 1]? with
      | none => s
      | some t => s.setCore c (k.setArr f.arr (a.setBank (if a.active then 1 else 0)
          { state := .active, tag := some t, bytes := s.blockAt c t }))) s

/-- The change of holder to queue y: state in y's way is saved, y's own is restored, and nothing changes a bit (R78,
R295). It counts as a context switch when anything was saved, restored or is to be loaded (R296). -/
def State.switchTo (s : State) (c : Fin 36) (y : Nat) : State :=
  let k := s.core c
  let k0 := k
  let own := k.savedOf 0 y ++ k.savedOf 1 y
  let way0 := s.wayOf c y 0
  let way1 := s.wayOf c y 1
  let restored : Nat := own.length + (k.queue y).ledgeSaved.length
  let before : Nat := k.savedCount
  let beforeState := k.savedState
  let k := { k with
    a0 := k.a0.switch y way0
    a1 := k.a1.switch y way1
    queues := k.queues.map (fun (q, x) => (q, { x with flights := switchFlights y q way0 way1 x.flights }))
    holder := some y, stopping := false }
  let saved : Nat := k.savedCount + own.length - before
  let savedState := k.savedState - beforeState
  let ledgeBefore : Nat := k.queues.foldl (fun n (_, x) => n + x.ledgeSaved.length) 0
  let s := (((s.setCore c k).switchLedge c y).saveArea c k0).reflexWaited c y
  let block := s.switchBlock c y
  let s := ((block.map (fun x => s.switchLoads c x.1 x.2)).getD s).switchBlocks c y
  let ledgeAfter : Nat := (s.core c).queues.foldl (fun n (_, x) => n + x.ledgeSaved.length) 0
  let reload := block.isSome || (k.queue y).flights.any (fun f => f.product && !f.done)
  let s := s.bump .scheduler .schedSaveUnits 0 saved
  let s := s.bump (.recurrent c) .stateSaveCount 0 savedState
  if saved ≠ 0 ∨ restored ≠ 0 ∨ ledgeBefore ≠ ledgeAfter ∨ reload then s.bump .scheduler .schedSwitchCount 0 1 else s

/-- Something of the queue is in flight on the arrays or the vector engine. -/
def Queue.onUnits (x : Queue) : Bool := x.flights.any (fun f => !f.done && opHolds f.ins.opcode)

/-- The queue keeps the core while it holds it (R78). -/
def Queue.keeps (x : Queue) : Bool :=
  match x.state with
  | .running => true
  | .stopping => true
  | .waiting => x.onUnits
  | _ => false

/-- The next holder: the ready queue of the highest class, the first after the previous holder among equals (R78). -/
def State.nextHolder (s : State) (c : Fin 36) : Option Nat :=
  let prev := (s.core c).prevHolder
  let order := (List.range 8).map (fun i => (prev + 1 + i) % 8)
  let ready := order.filter (fun q => (s.queue c q).state == .running)
  [0, 1, 2, 3].findSome? (fun cl => ready.find? (fun q => s.qClass c q = cl))

/-- A ready queue of a higher class than the holder's waits (R78). -/
def State.higherReady (s : State) (c : Fin 36) (h : Nat) : Bool :=
  (List.range 8).any (fun q => q ≠ h && (s.queue c q).state == .running && s.qClass c q < s.qClass c h)

/-- The holder lets the core go, and the next holder takes it (R78). -/
def State.handOn (s : State) (c : Fin 36) (h : Option Nat) : State :=
  let k := s.core c
  let s := match h with
    | some h => s.setCore c { k with holder := none, prevHolder := h, stopping := false }
    | none => s
  match s.nextHolder c with
  | some y => s.switchTo c y
  | none => s

/-- The queue waits in a WAIT_GE. -/
def Queue.inWaitGe (x : Queue) : Bool :=
  match x.flights.getLast? with
  | some f => f.ins.opcode == opWaitGe && !f.done
  | none => false

/-- MOVEs of a core that hold a DMA tag (R85, R251). -/
def Core.dmaTags (k : Core) : Nat :=
  k.queues.foldl (fun n (_, q) => n + (q.flights.filter (fun f => f.ins.opcode == opMove && !f.done)).length) 0

/-- A queue that waits at issue for a DMA tag is ready again once a tag is free (R78, R85). -/
def Core.freeTags (k : Core) : Core :=
  if 256 ≤ k.dmaTags then k
  else { k with queues := k.queues.map (fun (q, x) =>
    (q, if x.state = .waiting ∧ !x.inWaitGe then { x with state := .running } else x)) }

/-- Settles who holds the core after a queue's state has changed: a holder with a product or chain in flight stops only
at its next tile-pass boundary (R78). -/
def State.arbitrate (s : State) (c : Fin 36) : State :=
  let k := (s.core c).freeTags
  let s := s.setCore c k
  match k.holder with
  | some h =>
    if (k.queue h).keeps then
      if !s.higherReady c h then s.setCore c { k with stopping := false }
      else if (k.queue h).onUnits then s.setCore c { k with stopping := true }
      else s.handOn c (some h)
    else s.handOn c (some h)
  | none => s.handOn c none

/-! ### Register writes that wait (R143, R166, R189) -/

/-- The instruction names a deferred-statistic slot: a STAT or NORM stage of its chain or prologue. -/
def Flight.namesSlot (f : Flight) : Bool :=
  let has (ws : List Word) : Bool :=
    ((ws.drop 1).take (bits (ws.getD 0 0) 3 0)).any (fun w => bits w 5 0 == 0x28 || bits w 5 0 == 0x29)
  has f.chainW || has f.proW

/-- An instruction in flight on the core that holds back a write to a register: one that names a slot for STAT_REGION,
one that uses the score store for SCORE_CTRL, an RSTEP for the recurrent page. -/
def Core.holdsWrite (k : Core) (p : Pg) : Bool :=
  let any (f : Flight → Bool) : Bool := k.queues.any (fun (_, q) => q.flights.any f)
  match p with
  | .vector _ => any Flight.namesSlot
  | .score _ => any (fun f => f.touch.score)
  | .recurrent _ => any (fun f => f.ins.opcode == opRstep)
  | _ => false

/-- Applies a write to a control register whose bit `clr` clears the page's counters: the clear takes effect with the write
(R75, R166, R189). -/
def State.applyCtl (s : State) (key : Nat) (v : Word) : State :=
  let put (s : State) (v : Word) : State := { s with regs := FMap.set (regReset key) s.regs key v }
  match Pg.ofIndex (key / 4096) with
  | some p =>
    match p.type.counterCtl with
    | some (r, clr, _) =>
      if key = regKey p r 0 then
        (put (if bit1 v clr then s.clearCounters p else s) (setBits v clr clr 0))
      else put s v
    | none => put s v
  | none => put s v

/-- Applies the waiting register writes whose instructions are over, oldest first. -/
def State.applyWaiting (s : State) (c : Fin 36) : State :=
  let free (w : Nat × Word) : Bool :=
    match Pg.ofIndex (w.1 / 4096) with
    | some p => !(s.core c).holdsWrite p
    | none => true
  let due := (s.core c).waiting.filter free
  let k := s.core c
  due.foldl (fun (s : State) w => s.applyCtl w.1 w.2)
    (s.setCore c { k with waiting := k.waiting.filter (fun w => !free w) })

/-! ### Completion in order (R89) and the error policies (R98) -/

/-- Writes the Ledge bytes and the scalar register an instruction writes when it completes (R129, R130, R138, R149). -/
def State.atEnd (s : State) (c : Fin 36) (q : Nat) (f : Flight) : State :=
  let s := f.atEnd.foldl (fun (s : State) p => s.store (ledgeAt c p.1) p.2) s
  match f.scAtEnd with
  | some (i, v) => s.setSc c q i v
  | none => s

/-- Performs an instruction's own ADD or SUB, as a release (R86, R89). -/
def State.performOwn (s : State) (c : Fin 36) (f : Flight) : Status × State :=
  let i := f.ins
  if (i.opcode = opAdd ∨ i.opcode = opSub) ∧ bit1 i.w1 17 = false then
    s.semOp (i.opcode = opSub) (bit1 i.w1 16) c.val (bits i.w1 15 0) (bits i.w2 47 0) i.trace
  else (.ok, s)

/-- Performs an instruction's post ADD, as a release (R89). -/
def State.performPost (s : State) (c : Fin 36) (f : Flight) : Status × State :=
  let i := f.ins
  if i.postEn then s.semOp false i.postScope c.val i.postIndex i.postInc i.trace else (.ok, s)

/-- A remote ADD or SUB whose peer has answered with a failure: the operation has acted there as R86 states (R89, R347). -/
def Flight.answered (f : Flight) : Bool :=
  (f.ins.opcode == opAdd || f.ins.opcode == opSub) && bit1 f.w1 17 && !f.aborted && !f.fatal &&
  (f.status == .eSat || f.status == .eAbort)

/-- The watermark unit of an opcode (R96, R379): tiles, chunks or 4 KiB units. -/
def opWmUnit (o : Nat) : Nat := if o = opRstep then 1 else if o = opMove then 3 else 0

/-- The codes of what applies to an instruction beside the status it completes with: an abort, its queue's deadline (R13, R29, R98, R99). -/
def State.tileApplies (s : State) (c : Fin 36) (q : Nat) (f : Flight) : List Nat :=
  (if f.aborted then [Status.eAbort.code] else []) ++ lateCode (s.queue c q).deadline s.now

/-- The first uncorrectable word of what an instruction reads. -/
def State.readBad (s : State) (f : Flight) : Option Nat := f.touch.rd.findSome? (fun r => s.badIn r.1 r.2)

/-- Writes the error record of an instruction that completes with a status other than OK (R13, R98, R379). -/
def State.tileRecord (s : State) (c : Fin 36) (q : Nat) (f : Flight) (st : Status) : State :=
  (s.goneCount st [bits f.w1 47 0, bits f.w2 47 0, bits f.w3 47 0]).report (ErrRec.at {
    time := s.now, page := (Pg.sequencer c).index, cls := if f.fatal then 2 else 1, code := st.code,
    subjectKind := 1, wmUnit := opWmUnit f.ins.opcode, flags := 1, subject := tileId c q f.seq,
    watermark := f.wm, further := furtherCodes (s.tileApplies c q f) st } (if st = .eMemUncorr then s.readBad f else none))

/-- Writes an instruction's completion record when it asks for one (R80, R320). -/
def State.tileComplete (s : State) (c : Fin 36) (q : Nat) (f : Flight) (st : Status) : State :=
  if f.ins.record then
    s.complete (tileId c q f.seq) f.ins.opcode st f.wm f.issued ((s.queue c q).deadline ≠ 0) 0 0
  else s

/-- The instruction has not started: it only waits, at a gate, for a bank, for its array, or in a WAIT_GE (R88, R92, R98). -/
def Flight.unstarted (f : Flight) : Bool :=
  !f.done && (f.ins.opcode == opWaitGe || (f.gated && f.groups == 0) || (f.ins.opcode == opWload && !f.loading) ||
    (f.product && !f.gated && f.visited == 0))

/-- Marks a later instruction in flight as aborted; one that has not started is over at once (R98). -/
def Flight.abort (f : Flight) : Flight :=
  { f with aborted := true, status := .eAbort, done := f.done || f.unstarted, wm := if f.unstarted then 0 else f.wm }

/-- Tile registers a VCHAIN writes: their elements' first key and the key after their last (R121). -/
def Flight.tregRange (f : Flight) : Nat × Nat :=
  let lo := 4096 * (bits f.w1 53 36 % 32)
  (lo, lo + 4096 * (ceilDiv (bits f.w2 15 0 + 1) 64 * ceilDiv (bits f.w2 31 16 + 1) 64))

/-- What the effects of an instruction are about to replace (R98). -/
def State.snapshot (s : State) (c : Fin 36) (q : Nat) (f : Flight) : Undo :=
  let k := s.core c
  let a := k.arr f.arr
  let op := f.ins.opcode
  let keys := if op = opScalar then
      f.touch.scs.map (fun n => regKey (.sequencer c) .sc (16 * q + n)) ++
        [regKey (.sequencer c) .qSrbase q, regKey (.sequencer c) .qStep q]
    else []
  let (lo, hi) := f.tregRange
  { taken := true
    mem := f.touch.wr.map (fun r => (r.1, s.bytes r.1 r.2))
    regs := keys.map (fun key => (key, FMap.get (regReset key) s.regs key))
    slots := if op = opScalar then f.touch.slots.map (fun j => (j, s.slotVal c q j)) else []
    kept := if op = opMatmul then a.kept.filter (fun t => t.queue = q && t.unit = bits f.w3 37 32) else []
    carried := if op = opRstep then a.carried.filter (fun t => t.queue = q && t.unit = bits f.w3 37 32) else []
    score := if f.touch.score then some ⟨k.score, k.scoreMax, k.scoreSum, k.scoreValid, k.scoreDone⟩ else none
    tregs := if op = opVchain ∧ bits f.w1 57 56 = 2 then k.tregs.filter (fun p => lo ≤ p.1 && p.1 < hi) else [] }

/-- The array after a product, or a weight load that had begun, is put back (R98). -/
def ArraySt.putBack (a : ArraySt) (q : Nat) (f : Flight) : ArraySt :=
  let op := f.ins.opcode
  if op = opMatmul then
    { a with kept := a.kept.filter (fun t => !(t.queue = q && t.unit = bits f.w3 37 32)) ++ f.old.kept }
  else if op = opRstep then
    { a with carried := a.carried.filter (fun t => !(t.queue = q && t.unit = bits f.w3 37 32)) ++ f.old.carried }
  else a

/-- The core's vector state and score store after an instruction is put back (R98). -/
def Core.putBack (k : Core) (f : Flight) : Core :=
  let (lo, hi) := f.tregRange
  let k := match f.old.score with
    | some o => { k with score := o.entries, scoreMax := o.maxima, scoreSum := o.sums, scoreValid := o.valid, scoreDone := o.done }
    | none => k
  if f.ins.opcode = opVchain ∧ bits f.w1 57 56 = 2 then
    let rest := k.tregs.filter (fun p => p.1 < lo || hi ≤ p.1)
    { k with tregs := f.old.tregs.foldl (fun t p => FMap.set 0 t p.1 p.2) rest }
  else k

/-- Puts back everything an instruction in flight has replaced: it is discarded, or ends before it has started, and does
nothing (R98). -/
def State.putBack (s : State) (c : Fin 36) (q : Nat) (f : Flight) : State :=
  if !f.old.taken then s
  else
    let s := f.old.mem.foldl (fun (s : State) p => s.store p.1 p.2) s
    let s := { s with regs := List.foldl (fun m p => FMap.set (regReset p.1) m p.1 p.2) s.regs f.old.regs }
    let s := f.old.slots.foldl (fun (s : State) p => s.setSlot c q p.1 p.2) s
    let k := (s.core c).putBack f
    let s := s.setCore c (if f.product then k.setArr f.arr ((k.arr f.arr).putBack q f) else k)
    match f.old.bank with
    | some b =>
      let k := s.core c
      let n := bits f.w1 18 18
      s.setCore c (k.setArr n ((k.arr n).setBank (bits f.w1 19 19) b))
    | none => s

/-- Puts back what instructions in flight have replaced, the latest first. -/
def State.putAllBack (s : State) (c : Fin 36) (q : Nat) (fs : List Flight) : State :=
  fs.reverse.foldl (fun (s : State) f => s.putBack c q f) s

/-- What of a failed instruction's ADDs has acted: nothing, its own ADD or SUB, from which the failure came, or its post ADD too,
from which it came (R89, R98). -/
inductive Acted | none | own | post
  deriving DecidableEq, Repr

/-- The head of a queue has failed: HALT, or SKIP (R98, R99). The semaphores of its ADDs that have not acted are faulted. -/
def State.failHead (s : State) (c : Fin 36) (q : Nat) (f : Flight) (st : Status) (acted : Acted) : State :=
  let rest := (s.queue c q).flights.drop 1
  let s := s.tileRecord c q f st
  let s := s.tileComplete c q f st
  let s := match acted with
    | .none => s.faultAdds c f.ins
    | .own => s.faultPost c f.ins
    | .post => s
  let x := s.queue c q
  let x := { x with lastStatus := st.code, runStatus := st.code, watermark := f.wm, failSeq := f.seq }
  if f.aborted then s.setQueue c q { s.queue c q with flights := rest }
  else if !f.fatal && bit1 (s.rd (.sequencer c) .qCfg q) 2 then
    -- SKIP
    let drop := rest.takeWhile (fun g => !g.ins.resync)
    let after := rest.dropWhile (fun g => !g.ins.resync)
    let s := (drop.foldl (fun (s : State) g => s.faultAdds c g.ins) s).putAllBack c q drop
    let ended := drop.any (fun g => g.ins.opcode == opEnd)
    let s := s.setQueue c q { x with
      flights := if ended then [] else after
      discarding := after.isEmpty && !ended
      state := if ended then .idle else if x.state == .waiting && after.isEmpty then .running else x.state }
    s.event (.sequencer c) 1
  else
    -- HALT
    let s := (rest.foldl (fun (s : State) g => s.faultAdds c g.ins) s).putAllBack c q (rest.filter Flight.unstarted)
    let s := s.setQueue c q { x with flights := rest.map Flight.abort, state := .stopping }
    s.setPc c q f.pc

/-- Completes the head of a queue, which has finished its work (R89). -/
def State.retireHead (s : State) (c : Fin 36) (q : Nat) (f : Flight) : State :=
  if f.status ≠ .ok then s.failHead c q f f.status (if f.answered then .own else .none)
  else
    let s := s.atEnd c q f
    let (st, s) := s.performOwn c f
    if st ≠ .ok then s.failHead c q f st .own
    else
    let (st, s) := s.performPost c f
    if st ≠ .ok then s.failHead c q f st .post
    else
      let s := s.tileComplete c q f .ok
      let x := s.queue c q
      let x := { x with flights := x.flights.drop 1 }
      s.setQueue c q (if f.ins.opcode = opEnd then { x with state := .idle } else x)

/-- Completes finished instructions from the head of a queue, in sequence-number order (R89). -/
def State.retire (s : State) (c : Fin 36) (q : Nat) : Nat → State
  | 0 => s
  | fuel + 1 =>
    match (s.queue c q).flights with
    | [] => s
    | f :: _ => if f.done then (s.retireHead c q f).retire c q fuel else s

/-- A queue that was stopping and has nothing left in flight becomes HALTED (R98). -/
def State.settleHalt (s : State) (c : Fin 36) (q : Nat) : State :=
  let x := s.queue c q
  if x.state = .stopping ∧ x.flights = [] then
    (s.setQueue c q { x with state := .halted }).event (.sequencer c) 0
  else s

/-- Completes what a queue can complete and settles its state and the holder. -/
def State.drainQueue (s : State) (c : Fin 36) (q : Nat) : State :=
  (((s.retire c q ((s.queue c q).flights.length + 1)).settleHalt c q).applyWaiting c).arbitrate c

/-- The queue waits in a WAIT_GE whose semaphore is faulted (R86). -/
def State.waitsOnFault (s : State) (c q : Nat) : Bool :=
  let x := s.queue c q
  x.state == .waiting &&
  (match x.flights.getLast? with
   | some f => x.inWaitGe && semFaulted (s.sem (bit1 f.w1 16) c (bits f.w1 15 0))
   | none => false)

/-- A product that stands at an arrival gate whose semaphore is faulted (R135, R136; notes/assumptions/70.md). -/
def State.gateFaulted (s : State) (c : Nat) (f : Flight) : Bool :=
  f.gated && !f.done && f.status == .ok && semFaulted (s.sem false c (bits (f.chainW.getD 0 0) 27 16))

/-- A core and queue that wait on a faulted semaphore: in a WAIT_GE, or with a product at an arrival gate. -/
def State.faultedWaiter (s : State) : Option (Fin 36 × Nat) :=
  (List.finRange 36).findSome? (fun (c : Fin 36) => ((List.range 8).find? (fun q =>
    s.waitsOnFault c.val q || (s.queue c q).flights.any (s.gateFaulted c.val))).map (fun q => (c, q)))

/-- Marks the last instruction in flight of a queue as over with a status. -/
def Queue.endLast (x : Queue) (st : Status) : Queue :=
  match x.flights.getLast? with
  | some f => { x with flights := x.flights.dropLast ++ [{ f with done := true, status := st }], state := .running }
  | none => x

/-- Ends the waits of a queue on faulted semaphores with E_ABORT: of its WAIT_GE, and of its products at arrival gates, which stop at
their next boundary where some of their groups have entered (R86, R135). -/
def State.release (s : State) (c : Fin 36) (q : Nat) : State :=
  let x := s.queue c q
  let x := if s.waitsOnFault c q then x.endLast .eAbort else x
  s.setQueue c q { x with flights := x.flights.map (fun f =>
    if s.gateFaulted c f then { f with status := .eAbort, done := f.groups == 0 } else f) }

/-- Releases the waiters of faulted semaphores with E_ABORT, and the waiters of those their failures fault in turn (R86, R384). -/
def State.settle (s : State) : Nat → State
  | 0 => s
  | fuel + 1 =>
    match s.faultedWaiter with
    | none => s
    | some (c, q) => ((s.release c q).drainQueue c q).settle fuel

/-! ### The fast path at a queue (R323, R324) -/

/-- A queue starts at Qn_PC with sequence number 0, or goes on from Qn_PC (R99). -/
def State.queueRuns (s : State) (c : Fin 36) (q : Nat) (fromZero : Bool) : State :=
  let x := s.queue c q
  let x := { x with state := .running, discarding := false, flights := [] }
  (s.setQueue c q (if fromZero then { x with seq := 0, runStatus := 0, deadline := 0 } else x)).arbitrate c

/-- The two are one request: the queue pair and its count name it. -/
def FastReq.same (f g : FastReq) : Bool := f.qp == g.qp && f.count == g.count

/-- The response of a fast-path request whose program has ended (R324). -/
def State.fastAnswer (s : State) (f : FastReq) (b : FastBind) : State :=
  let x := s.queue b.core b.queue
  let ok := x.state = .idle ∧ x.runStatus = 0
  let imm := x.runStatus + min 127 (if ok then 0 else x.watermark) * 2 ^ 8 + (if f.miss then 2 ^ 15 else 0) +
    f.count % 2 ^ 16 * 2 ^ 16
  s.send f.qp none (.send (if ok then s.bytes (ledgeBase b.core.val + b.outOff) b.outLen else []) (some imm))

/-- Writes the payload of a fast-path request and rings the start doorbell of its program (R323). -/
def State.fastStart (s : State) (f : FastReq) (b : FastBind) : State :=
  let s := s.store (ledgeBase b.core.val + b.inOff) f.payload
  let l := s.est.fast.map (fun g => if g.same f then { g with running := true } else g)
  let s := { s with est := { s.est with fast := l } }
  (s.setPc b.core b.queue b.pc).queueRuns b.core b.queue.val true

/-- The queue a fast-path request is bound to. -/
def State.fastBind (s : State) (f : FastReq) : Option FastBind := (s.qp f.qp).map (fun _ => f.bind)

/-- A queue is bound to the fast path. -/
def State.queueFast (s : State) (c q : Nat) : Bool :=
  s.est.qps.any (fun x => match x.2.bind (·.fast) with
    | some b => b.core.val == c && b.queue.val == q
    | none => false)

/-- The named bank holds the block of a binding, or the switch to its queue loads it: a queue that is not bound to the fast path holds
the core (R295, R323). -/
def State.blockComes (s : State) (b : FastBind) : Bool :=
  s.bankHolds b ||
  (match (s.core b.core.val).holder with
   | some h => !s.queueFast b.core.val h
   | none => false)

/-- A request may start. One on the fast path starts once every earlier request that Estuary serves on its core has ended (R17). One
that Gulkutik serves starts once the conditions of R323 hold, with every earlier request of its queue ended: the context is cached,
the queue is IDLE, and the block is there or comes with the switch (R18, R323; notes/assumptions/15.md). -/
def State.fastMayStart (s : State) (f : FastReq) : Bool :=
  let b := f.bind
  let earlier := s.est.fast.takeWhile (fun g => !g.same f)
  let onQueue (g : FastReq) : Bool := g.bind.core == b.core && g.bind.queue == b.queue
  (s.queue b.core b.queue).state == .idle && !s.est.fast.any (fun g => g.running && onQueue g) &&
  (if f.miss then !earlier.any onQueue && (s.ctxSet f.qp).contains f.qp && s.blockComes b
   else !earlier.any (fun g => !g.miss && g.bind.core == b.core))

/-- A fast-path request whose program has ended is answered, and a request that waits starts when it may. -/
def State.fastOne (s : State) (f : FastReq) : State :=
  match s.fastBind f with
  | none => s
  | some b =>
    let x := s.queue b.core b.queue
    if f.running then
      if x.state = .idle ∨ x.state = .halted then
        let s := s.fastAnswer f b
        { s with est := { s.est with fast := s.est.fast.filter (fun g => !g.same f) } }
      else s
    else if s.fastMayStart f then s.fastStart f b else s

/-- Serves the fast path after queues have changed. -/
def State.fastPump (s : State) : State :=
  let s := s.est.fast.foldl State.fastOne s
  s.est.fast.foldl State.fastOne s

/-- A bound on the waits that can end: each of the 288 queues waits in at most one WAIT_GE, and each of its products at most once at its
gate. -/
def State.waits (s : State) : Nat :=
  289 + s.cores.foldl (fun n (_, k) => n + k.queues.foldl (fun n (_, x) => n + (x.flights.filter (·.gated)).length) 0) 0

/-- Releases every waiter of a faulted semaphore, and serves the fast path. -/
def State.settled (s : State) : State := (s.settle s.waits).fastPump

/-- Puts a semaphore into the faulted state and releases its waiters (R384). -/
def State.faultSem (s : State) (scope : Bool) (c i : Nat) : State := (s.markFaulted scope c i).settled

/-! ### Issue -/

/-- The core runs: it is present, and its LIVE handshake lets the work in flight go on, as RUNNING and QUIESCING do
(R393, R394). -/
def State.coreRuns (s : State) (c : Fin 36) : Bool :=
  s.coreLive c.val && (s.live (.sequencer c) == .running || s.live (.sequencer c) == .quiescing)

/-- Work in flight on the core goes on: its handshake has not reached QUIESCED or DRAINED (R393, R394). -/
def State.coreMoves (s : State) (c : Fin 36) : Bool :=
  s.coreLive c.val && s.live (.sequencer c) != .quiesced && s.live (.sequencer c) != .drained

/-- An END is in flight: nothing issues after it (R87). -/
def Queue.ending (x : Queue) : Bool := x.flights.any (fun f => f.ins.opcode == opEnd)

/-- The queue may issue: it holds the core, it is RUNNING and has issued no END, and nothing stops the core (R78, R402,
R441). -/
def State.canIssue (s : State) (c : Fin 36) (q : Nat) : Bool :=
  s.coreRuns c && !(s.core c).slack && !s.sliceOn c.val && (s.core c).holder == some q && !(s.core c).stopping && (s.queue c q).state == .running &&
  !(s.queue c q).ending

/-- A queue has fetched 32 bytes: a fetch from a device address goes through Harbour, with its counters and the class's bucket
(R79, R253). -/
def State.fetched (s : State) (c : Fin 36) (q pc : Nat) : State :=
  if s.qDevice c q then s.readsBy c (s.qClass c q) pc 32 else s

/-- A queue's next fetch is served: one from a device address waits for the Harbour half and the stack that hold it (R79, R393). -/
def State.fetchServed (s : State) (c : Fin 36) (q : Nat) : Bool := !s.qDevice c q || s.served (s.qPcVal c q) 32

/-- Puts an instruction in flight with the next sequence number, and moves the program counter on (R79). -/
def State.issue (s : State) (c : Fin 36) (q : Nat) (f : Flight) (nextPc : Nat) : State :=
  let x := s.queue c q
  let f := { f with seq := x.seq, issued := s.now }
  let s := s.setQueue c q { x with flights := x.flights ++ [f], seq := (x.seq + 1) % 2 ^ 32 }
  ((s.fetched c q f.pc).setPc c q nextPc).bump (.sequencer c) .issueCount 0 1

/-- An instruction that failed its checks, or could not be fetched: no side effect, watermark 0 (R95). -/
def failed (i : Ins) (st : Status) (fatal : Bool) : Flight :=
  { seq := 0, pc := i.pc, w0 := i.w0, w1 := i.w1, w2 := i.w2, w3 := i.w3, status := st, done := true, fatal := fatal }

/-- An instruction in flight. -/
def started (i : Ins) (t : Touch) (done : Bool) : Flight :=
  { seq := 0, pc := i.pc, w0 := i.w0, w1 := i.w1, w2 := i.w2, w3 := i.w3, touch := t, done := done }

/-- Issues a failed instruction and lets the queue's policy act. -/
def State.issueFailed (s : State) (c : Fin 36) (q : Nat) (i : Ins) (st : Status) (fatal : Bool) : State :=
  ((s.issue c q (failed i st fatal) (i.pc + 32)).drainQueue c q).settled

/-- Discards an instruction under SKIP: it does nothing but fault the semaphores of its ADDs; END ends the queue
(R98). It is not issued, so it takes no sequence number (R79; notes/assumptions/14.md). -/
def State.discard (s : State) (c : Fin 36) (q : Nat) (i : Ins) : State :=
  let s := (s.fetched c q i.pc).faultAdds c i
  let x := s.queue c q
  let s := s.setQueue c q (if i.opcode = opEnd then { x with discarding := false, state := .idle } else x)
  ((s.setPc c q (i.pc + 32)).arbitrate c).settled

/-- Issues the next instruction of a queue when its opcode is one of a row: a fetch that fails is queue-fatal (R79),
an opcode that is not listed gives E_FORMAT (R81), SKIP discards (R98), and anything else is the row's own `run`. A
row whose opcode the instruction does not have leaves everything as it is (notes/assumptions/2.md). -/
def State.row (s : State) (c : Fin 36) (q : Nat) (mine : Ins → Bool) (run : State → Ins → State) : State :=
  if !s.canIssue c q || !s.fetchServed c q then s
  else
    let (st, i) := s.fetch c q
    if st ≠ .ok then s.issueFailed c q i st true
    else if (s.queue c q).discarding ∧ !i.resync then (if mine i || !opListed i.opcode then s.discard c q i else s)
    else if (s.queue c q).discarding ∧ (s.queue c q).flights ≠ [] then s
    else
      let s := if (s.queue c q).discarding then s.setQueue c q { s.queue c q with discarding := false } else s
      if !opListed i.opcode || (i.opcode == opScalar && 7 < bits i.w1 3 0) then s.issueFailed c q i .eFormat false
      else if mine i && i.postEn && !semExists i.postScope i.postIndex then s.issueFailed c q i .eFormat false
      else if mine i then run s i
      else s

end Sys2Proof.Machine
end

