-- ==== Sys2Proof/Machine/Operands.lean ====
section
/-! DEFINITION. The operand forms of tile instructions: rows of elements in every format, pre-blocked weights, length
slots, the stochastic-rounding inputs of a queue, and the writing of result rows (R40, R46, R82, R90, R100, R125). -/

namespace Sys2Proof.Machine

/-- A matrix of exact values, row by row. -/
abbrev Mat := List (List FVal)

/-- The bytes n elements of a format take in a row: for E2M1, the scale bytes after the element bytes (R40, R82). -/
def Fmt.rowBytes (f : Fmt) (n : Nat) : Nat :=
  ceilDiv (n * f.width) 8 + (if f = .e2m1 then ceilDiv n 32 else 0)

/-- The raw bits of element i of a row of bytes (R40). -/
def rawElem (f : Fmt) (bs : List Byte) (i : Nat) : Nat :=
  if f.packed then (bs.getD (i / 2) 0).toNat >>> (4 * (i % 2)) % 16
  else leNat ((bs.drop (i * (f.width / 8))).take (f.width / 8))

/-- The values of `count` elements from element `first` on of a row laid out for n elements (R39, R40). -/
def decodeSpan (f : Fmt) (bs : List Byte) (n first count : Nat) : List FVal :=
  (List.range count).map (fun i =>
    let i := first + i
    match f with
    | .e2m1 => e2m1Value ((bs.getD (ceilDiv n 2 + i / 32) 0).toNat) (rawElem f bs i)
    | .x96 => X96.val (BitVec.ofNat 96 (leNat ((bs.drop (12 * i)).take 12)))
    | _ => f.decode (rawElem f bs i))

/-- The values of a row of n elements (R39, R40). -/
def decodeRow (f : Fmt) (bs : List Byte) (n : Nat) : List FVal := decodeSpan f bs n 0 n

/-- Reads rows of n elements from memory, each stride bytes after the one before. -/
def State.readRows (s : State) (f : Fmt) (a stride rows n : Nat) : Mat :=
  (List.range rows).map (fun i => decodeRow f (s.bytes (a + i * stride) (f.rowBytes n)) n)

/-- Reads a vector of n values (COL and ROW sources, R124). -/
def State.readVec (s : State) (f : Fmt) (a n : Nat) : List FVal := decodeRow f (s.bytes a (f.rowBytes n)) n

/-- Element (i, j) of a matrix. -/
def Mat.at (m : Mat) (i j : Nat) : FVal := (m.getD i []).getD j FVal.zero

/-- A matrix made element by element. -/
def Mat.build (rows cols : Nat) (f : Nat → Nat → FVal) : Mat :=
  (List.range rows).map (fun i => (List.range cols).map (f i))

/-- A matrix changed element by element, with the element's place. -/
def Mat.mapIdx (m : Mat) (f : Nat → Nat → FVal → FVal) : Mat :=
  m.zipIdx.map (fun (r, i) => r.zipIdx.map (fun (x, j) => f i j x))

/-- A column of a matrix. -/
def Mat.col (m : Mat) (j : Nat) : List FVal := m.map (fun r => r.getD j FVal.zero)

/-! ### Stochastic-rounding inputs (R46, R100) -/

/-- What fixes the random value of an element, but for its place and conversion point. -/
structure SrIn where
  rnd : Rnd
  sat8 : Bool
  seed : Word
  step : Word
  tag : Nat
  base : Nat
  rowLen : Nat
  deriving DecidableEq, Repr

/-- The SR inputs of an instruction in flight, as they stood at its issue (R100). -/
def Flight.srIn (f : Flight) (rnd : Rnd) : SrIn :=
  { rnd := rnd, sat8 := f.ins.sat8, seed := f.seed, step := f.step, tag := f.ins.srTag, base := bits f.srbase 47 0,
    rowLen := bits f.srbase 63 48 + 1 }

/-- Notes the SR inputs of a queue in an instruction that issues (R100). -/
def State.withSr (s : State) (c : Fin 36) (q : Nat) (f : Flight) : Flight :=
  { f with seed := (s.srOf c q).1, step := (s.srOf c q).2,
           srbase := s.rd (.sequencer c) .qSrbase q }

/-- The random value at a conversion point for a 48-bit logical index (R46). -/
def SrIn.uAt (x : SrIn) (point index : Nat) : Nat :=
  if x.rnd = .sr then srBits x.seed x.step (x.tag * 16 + point % 16) index else 0

/-- The random value of output element (i, j) at a conversion point (R46, R100). -/
def SrIn.u (x : SrIn) (point i j : Nat) : Nat := x.uAt point (x.base + i * x.rowLen + j)

/-- Rounds every element of a matrix to a format at a conversion point (R41, R126). E2M1 rounds in blocks of 32 along
the row (R43, R125). -/
def Mat.roundTo (m : Mat) (f : Fmt) (x : SrIn) (point : Nat) : Mat :=
  match f with
  | .e2m1 => m.zipIdx.map (fun (r, i) =>
      ((chunksOf 32 r (r.length + 1)).zipIdx.map (fun (b, k) =>
        let sc := e2m1Scale b
        b.zipIdx.map (fun (v, j) => e2m1Value sc (e2m1Element x.rnd (x.u point i (32 * k + j)) sc v)))).flatten)
  | _ => m.mapIdx (fun i j v => v.round f x.rnd x.sat8 (x.u point i j))

/-- The bytes of a row rounded to a format, over the bytes that stand there: the unused nibble of an odd 4-bit row
keeps its value (R40). -/
def encodeRow (f : Fmt) (x : SrIn) (point i : Nat) (old : List Byte) (r : List FVal) : List Byte :=
  let n := r.length
  match f with
  | .e2m1 =>
    let blocks := (chunksOf 32 r (n + 1)).map (fun b => (e2m1Scale b, b))
    let els := (blocks.zipIdx.map (fun ((sc, b), k) =>
      b.zipIdx.map (fun (v, j) => e2m1Element x.rnd (x.u point i (32 * k + j)) sc v))).flatten
    (List.range (ceilDiv n 2)).map (fun p =>
      let hi := if 2 * p + 1 < n then els.getD (2 * p + 1) 0 else (old.getD p 0).toNat / 16
      BitVec.ofNat 8 (els.getD (2 * p) 0 + 16 * hi)) ++ blocks.map (fun (sc, _) => BitVec.ofNat 8 sc)
  | .int4 =>
    let els := r.zipIdx.map (fun (v, j) => f.encode x.rnd x.sat8 (x.u point i j) v)
    (List.range (ceilDiv n 2)).map (fun p =>
      let hi := if 2 * p + 1 < n then els.getD (2 * p + 1) 0 else (old.getD p 0).toNat / 16
      BitVec.ofNat 8 (els.getD (2 * p) 0 + 16 * hi))
  | _ => (r.zipIdx.map (fun (v, j) => leBytes (f.encode x.rnd x.sat8 (x.u point i j) v) (f.width / 8))).flatten

/-- Writes the rows of a matrix rounded to a format (R96, R125). -/
def State.writeRows (s : State) (f : Fmt) (x : SrIn) (point a stride : Nat) (m : Mat) : State :=
  m.zipIdx.foldl (fun (s : State) (r, i) =>
    s.store (a + i * stride) (encodeRow f x point i (s.bytes (a + i * stride) (f.rowBytes r.length)) r)) s

/-! ### Weight blocks (R59, R82) -/

/-- Element W[k][n] of a weight block's bytes, as stored or transposed (R82). -/
def blockElem (w : Fmt) (kb : Nat) (transposed : Bool) (bs : List Byte) (k n : Nat) : FVal :=
  let i := if transposed then n * kb + k else k * 64 + n
  match w with
  | .e2m1 =>
    let sc := kb * 32 + (if transposed then 4 * n + k / 32 else 64 * (k / 32) + n)
    e2m1Value (bs.getD sc 0).toNat (rawElem w bs i)
  | _ => w.decode (rawElem w bs i)

/-! ### Runtime lengths (R90) -/

/-- The runtime extent of an axis whose planned extent is p: the slot's value where the instruction names the axis. -/
def State.extent (s : State) (c : Fin 36) (q : Nat) (i : Ins) (ax p : Nat) : Nat :=
  if i.lenAxis = ax then s.slotVal c q i.lenSlot % 2 ^ 31 else p

/-- The check of a runtime length against the planned extent of its axis (R90). -/
def State.lenCheck (s : State) (c : Fin 36) (q : Nat) (i : Ins) (planned : Nat) : Status :=
  if i.lenAxis = 0 then .ok
  else
    let v := s.slotVal c q i.lenSlot
    if 2 ^ 31 ≤ v ∧ 1048576 < v % 2 ^ 31 then .eLength
    else if planned < v % 2 ^ 31 then .eShape
    else .ok

/-- The runtime length is zero: the instruction completes at once and writes nothing (R90). -/
def State.lenZero (s : State) (c : Fin 36) (q : Nat) (i : Ins) : Bool :=
  i.lenAxis ≠ 0 && s.slotVal c q i.lenSlot % 2 ^ 31 == 0

/-- The first status other than OK of a list of checks (R95). -/
def firstFail : List Status → Status
  | [] => .ok
  | .ok :: r => firstFail r
  | st :: _ => st

/-- A check: OK when it holds, else its status. -/
def check (ok : Bool) (st : Status) : Status := if ok then .ok else st

/-- A Ledge range lies inside the Ledge. -/
def inLedge (off n : Nat) : Bool := off + n ≤ ledgeSize

end Sys2Proof.Machine
end

