-- ==== Sys2Proof/Machine/Control.lean ====
section
/-! DEFINITION. Semaphore and control instructions: WAIT_GE, ADD, SUB, BRANCH, SCALAR, FENCE and END (R86, R87, R89,
R346). -/

namespace Sys2Proof.Machine

/-- The first check of R95 for an instruction that takes no runtime length: every reserved bit is clear. `r1`, `r2`
and `r3` are the reserved bits of words 1 to 3. -/
def ctlFormatOk (i : Ins) (r1 r2 r3 : Word) : Bool :=
  i.rnd.isSome && bits i.w0 63 61 = 0 && i.lenAxis = 0 && i.w1 &&& r1 = 0 && i.w2 &&& r2 = 0 && i.w3 &&& r3 = 0

/-- The bits [63:lo] of a word. -/
def highBits (lo : Nat) : Word := BitVec.ofNat 64 (maskOf 63 lo)

/-- Issues an instruction whose own work is over at once, and completes what the queue can complete. -/
def State.issueDone (s : State) (c : Fin 36) (q : Nat) (i : Ins) (t : Touch) (nextPc : Nat) : State :=
  ((s.issue c q (started i t true) nextPc).drainQueue c q).settled

/-- Issues an instruction whose effect happens at once, noting what the effect replaces (R98), and completes what the queue can. -/
def State.issueEffect (s : State) (c : Fin 36) (q : Nat) (i : Ins) (t : Touch) (eff : State → State) : State :=
  let f := started i t true
  (((eff s).issue c q { f with old := s.snapshot c q f } (i.pc + 32)).drainQueue c q).settled

/-! ### Semaphores (R86) -/

/-- The semaphore of a WAIT_GE: its scope and index. -/
def Ins.semScope (i : Ins) : Bool := bit1 i.w1 16
/-- Its index. -/
def Ins.semIndex (i : Ins) : Nat := bits i.w1 15 0

/-- What a WAIT_GE that may complete completes with: E_ABORT on a faulted semaphore, E_SAT beyond the bound, else OK;
none while the count is below its value (R86). -/
def waitDone (w : Word) (value bound : Nat) : Option Status :=
  if semFaulted w then some .eAbort
  else if semCount w < value then none
  else if bound ≠ 0 ∧ value + bound < semCount w then some .eSat
  else some .ok

/-- The checks of a WAIT_GE (R80, R95). -/
def wgCheck (i : Ins) : Status :=
  firstFail [check (ctlFormatOk i (highBits 17) (highBits 48) (highBits 48)) .eFormat,
    check (semExists i.semScope i.semIndex) .eAddr]

/-- Traces a WAIT_GE's operation when it asks for it (R80). -/
def State.traceWait (s : State) (c : Fin 36) (i : Ins) : State :=
  if i.trace then { s with trace := s.trace ++ [⟨i.semScope, c.val, i.semIndex, s.now⟩] } else s

/-- WAIT_GE (R86, R89): it completes at once, or the queue waits. -/
def execWaitGe (c : Fin 36) (q : Fin 8) (s : State) : Host.Outcome State Fault Refusal :=
  .next (s.awake fun s => s.row c q (fun i => i.opcode == opWaitGe) fun s i =>
    let st := wgCheck i
    if st ≠ .ok then s.issueFailed c q i st false
    else
      match waitDone (s.sem i.semScope c.val i.semIndex) (bits i.w2 47 0) (bits i.w3 47 0) with
      | some .ok => (s.traceWait c i).issueDone c q i {} (i.pc + 32)
      | some e => (s.traceWait c i).issueFailed c q i e false
      | none =>
        let s := s.issue c q (started i {} false) (i.pc + 32)
        (s.setQueue c q { s.queue c q with state := .waiting }).arbitrate c)

/-- WAIT_GE_SATISFIED (R86): a waiting WAIT_GE completes once its semaphore has reached its value or is faulted. -/
def execWaitGeSatisfied (c : Fin 36) (q : Fin 8) (s : State) : Host.Outcome State Fault Refusal :=
  .next (s.awake fun s =>
    let x := s.queue c q
    match x.flights.getLast? with
    | some f =>
      if x.state = .waiting ∧ f.ins.opcode = opWaitGe ∧ !f.done then
        match waitDone (s.sem f.ins.semScope c.val f.ins.semIndex) (bits f.w2 47 0) (bits f.w3 47 0) with
        | some st => ((((s.traceWait c f.ins).setQueue c q (x.endLast st)).drainQueue c q).settled)
        | none => s
      else s
    | none => s)

/-- The Tideway peer entry a remote operation names may be used (R346). -/
def State.peerOk (s : State) (i : Ins) : Bool := bit1 (s.rd .tideway .twPeer (bits i.w1 25 18)) 63

/-- The checks of an ADD or SUB (R80, R86, R95, R346). -/
def State.addCheck (s : State) (i : Ins) : Status :=
  firstFail [check (ctlFormatOk i (highBits 26) (highBits 48) (highBits 0)) .eFormat,
    check (semExists i.semScope i.semIndex) .eAddr,
    check (!bit1 i.w1 17 || (i.semScope && s.peerOk i)) .eAddr]

/-- ADD and SUB of one core (R86, R89, R346): a local one acts when every earlier instruction of the queue has
completed; a remote one is sent then too, and completes with its peer's answer. -/
def State.addSub (s : State) (c : Fin 36) (q : Nat) (i : Ins) : State :=
  let st := s.addCheck i
  if st ≠ .ok then s.issueFailed c q i st false
  else if bit1 i.w1 17 then
    let s := s.sendSem (bits i.w1 25 18) (if i.opcode = opSub then 1 else 0) i.semIndex (bits i.w2 47 0)
    s.issue c q (started i {} false) (i.pc + 32)
  else s.issueDone c q i {} (i.pc + 32)

/-- Every earlier instruction of the queue has completed. -/
def Queue.empty (x : Queue) : Bool := x.flights.isEmpty

/-- ADD (R86). A remote one waits at issue until every earlier instruction of the queue has completed (R346). -/
def execAdd (c : Fin 36) (q : Fin 8) (s : State) : Host.Outcome State Fault Refusal :=
  .next (s.awake fun s => s.row c q (fun i => i.opcode == opAdd) fun s i =>
    if bit1 i.w1 17 ∧ !(s.queue c q).empty then s else s.addSub c q i)

/-- SUB (R86). A remote one waits at issue as an ADD does. -/
def execSub (c : Fin 36) (q : Fin 8) (s : State) : Host.Outcome State Fault Refusal :=
  .next (s.awake fun s => s.row c q (fun i => i.opcode == opSub) fun s i =>
    if bit1 i.w1 17 ∧ !(s.queue c q).empty then s else s.addSub c q i)

/-! ### BRANCH (R87) -/

/-- The condition of a branch on two values; code 6 is ALWAYS (R87). -/
def branchTaken (cond : Nat) (a b : Word) : Bool :=
  match cond with
  | 0 => a == b
  | 1 => a != b
  | 2 => decide (a.toInt < b.toInt)
  | 3 => decide (b.toInt ≤ a.toInt)
  | 4 => decide (a.toNat < b.toNat)
  | 5 => decide (b.toNat ≤ a.toNat)
  | _ => true

/-- The reserved bits of a BRANCH's word 1. -/
def branchRsv : Word := BitVec.ofNat 64 (maskOf 15 12 + maskOf 63 48)

/-- The target of a branch (R87). -/
def branchTarget (i : Ins) : Int := (i.pc : Int) + 32 * toSigned 32 (bits i.w1 47 16)

/-- The target lies in the fetch space (R79, R87). -/
def State.targetOk (s : State) (c : Fin 36) (q : Nat) (t : Int) : Bool :=
  0 ≤ t && (if s.qDevice c q then s.access t.toNat 32 == .ok else t.toNat + 32 ≤ ledgeSize)

/-- BRANCH (R87): it waits for a summary that one of its registers awaits (R88). Its target is checked with its address, taken or not
(R95). -/
def execBranch (c : Fin 36) (q : Fin 8) (s : State) : Host.Outcome State Fault Refusal :=
  .next (s.awake fun s => s.row c q (fun i => i.opcode == opBranch) fun s i =>
    let cond := bits i.w1 10 8
    let sa := bits i.w1 3 0
    let sb := bits i.w1 7 4
    let imm := bit1 i.w1 11
    let t : Touch := { scs := if cond = 6 then [] else if imm then [sa] else [sa, sb] }
    if !(s.queue c q).free t then s
    else if !ctlFormatOk i branchRsv 0 (highBits 0) || cond = 7 then s.issueFailed c q i .eFormat false
    else if !s.targetOk c q (branchTarget i) then s.issueFailed c q i .eAddr false
    else if branchTaken cond (s.scReg c q sa) (if imm then i.w2 else s.scReg c q sb) then
      (s.bump (.sequencer c) .branchTakenCount 0 1).issueDone c q i t (branchTarget i).toNat
    else s.issueDone c q i t (i.pc + 32))

/-! ### SCALAR (R87) -/

/-- The fields of a SCALAR: op, dst, src, slot, kind. -/
def Ins.scOp (i : Ins) : Nat := bits i.w1 3 0
/-- Destination register. -/
def Ins.scDst (i : Ins) : Nat := bits i.w1 7 4
/-- Source register. -/
def Ins.scSrc (i : Ins) : Nat := bits i.w1 11 8
/-- Length slot. -/
def Ins.scSlot (i : Ins) : Nat := bits i.w1 17 12
/-- Slot kind, as the slot's bit 31. -/
def Ins.scKind (i : Ins) : Nat := if bit1 i.w1 18 then 2 ^ 31 else 0

/-- The frame of the eight SCALAR rows: one op each, its hazards, its checks, its effect (R87, R88, R95). -/
def State.scalar (s : State) (c : Fin 36) (q : Nat) (op : Nat) (t : Ins → Touch) (chk : Ins → Status)
    (eff : State → Ins → State) : State :=
  s.row c q (fun i => i.opcode == opScalar && i.scOp == op) fun s i =>
    if !(s.queue c q).free (t i) then s
    else
      let st := firstFail [check (ctlFormatOk i (highBits 19) 0 (highBits 0)) .eFormat, chk i]
      if st ≠ .ok then s.issueFailed c q i st false else s.issueEffect c q i (t i) (fun s => eff s i)

/-- SCALAR_SET (R87): SC[dst] = imm. -/
def execScalarSet (c : Fin 36) (q : Fin 8) (s : State) : Host.Outcome State Fault Refusal :=
  .next (s.awake fun s => s.scalar c q 0 (fun i => { scs := [i.scDst] }) (fun _ => .ok) fun s i => s.setSc c q i.scDst i.w2)

/-- SCALAR_ADD (R87): SC[dst] = SC[src] + imm modulo 2^64. -/
def execScalarAdd (c : Fin 36) (q : Fin 8) (s : State) : Host.Outcome State Fault Refusal :=
  .next (s.awake fun s => s.scalar c q 1 (fun i => { scs := [i.scDst, i.scSrc] }) (fun _ => .ok)
    fun s i => s.setSc c q i.scDst (s.scReg c q i.scSrc + i.w2))

/-- LEN_IMM (R87): slot = imm[30:0] with kind. -/
def execLenImm (c : Fin 36) (q : Fin 8) (s : State) : Host.Outcome State Fault Refusal :=
  .next (s.awake fun s => s.scalar c q 2 (fun i => { slots := [i.scSlot] }) (fun _ => .ok)
    fun s i => s.setSlot c q i.scSlot (bits i.w2 30 0 + i.scKind))

/-- LEN_REG (R87): slot = SC[src][30:0] with kind. -/
def execLenReg (c : Fin 36) (q : Fin 8) (s : State) : Host.Outcome State Fault Refusal :=
  .next (s.awake fun s => s.scalar c q 3 (fun i => { slots := [i.scSlot], scs := [i.scSrc] }) (fun _ => .ok)
    fun s i => s.setSlot c q i.scSlot (bits (s.scReg c q i.scSrc) 30 0 + i.scKind))

/-- The offset of a LOAD or STORE is 8-byte aligned inside the Ledge (R87). -/
def scOffsetOk (i : Ins) : Status := check (i.w2.toNat % 8 = 0 && inLedge i.w2.toNat 8) .eAddr

/-- SCALAR_LOAD (R87): SC[dst] = the 8 bytes at Ledge byte offset imm. -/
def execScalarLoad (c : Fin 36) (q : Fin 8) (s : State) : Host.Outcome State Fault Refusal :=
  .next (s.awake fun s => s.scalar c q 4 (fun i => { rd := [(ledgeAt c i.w2.toNat, 8)], scs := [i.scDst] })
    (fun i => firstFail [scOffsetOk i, check (s.badIn (ledgeAt c i.w2.toNat) 8).isNone .eMemUncorr])
    fun s i => s.setSc c q i.scDst (s.word (ledgeAt c i.w2.toNat)))

/-- SCALAR_STORE (R87): the 8 bytes at Ledge byte offset imm = SC[src]. -/
def execScalarStore (c : Fin 36) (q : Fin 8) (s : State) : Host.Outcome State Fault Refusal :=
  .next (s.awake fun s => s.scalar c q 5 (fun i => { wr := [(ledgeAt c i.w2.toNat, 8)], scs := [i.scSrc] }) scOffsetOk
    fun s i => s.store (ledgeAt c i.w2.toNat) (leBytes (s.scReg c q i.scSrc).toNat 8))

/-- SR_BASE (R87): Qn_SRBASE = imm, both fields at once. -/
def execSrBase (c : Fin 36) (q : Fin 8) (s : State) : Host.Outcome State Fault Refusal :=
  .next (s.awake fun s => s.scalar c q 6 (fun _ => {}) (fun _ => .ok) fun s i => s.wr (.sequencer c) .qSrbase q i.w2)

/-- SR_STEP (R87, R100): SR step += imm, or E_STATE on a stream-bound queue. -/
def execSrStep (c : Fin 36) (q : Fin 8) (s : State) : Host.Outcome State Fault Refusal :=
  .next (s.awake fun s => s.scalar c q 7 (fun _ => {}) (fun _ => check (!bit1 (s.rd (.sequencer c) .qCfg q) 4) .eState)
    fun s i => s.wr (.sequencer c) .qStep q (s.rd (.sequencer c) .qStep q + i.w2))

/-! ### FENCE and END (R87) -/

/-- FENCE (R87): it completes when what it names is complete and visible; a queue completes in order (R89), and every
write is visible as its instruction completes (R238, R249). -/
def execFence (c : Fin 36) (q : Fin 8) (s : State) : Host.Outcome State Fault Refusal :=
  .next (s.awake fun s => s.row c q (fun i => i.opcode == opFence) fun s i =>
    if !ctlFormatOk i (highBits 4) (highBits 0) (highBits 0) then s.issueFailed c q i .eFormat false
    else s.issueDone c q i {} (i.pc + 32))

/-- END (R87): it completes once every earlier instruction of the queue has, and the queue becomes IDLE. -/
def execEnd (c : Fin 36) (q : Fin 8) (s : State) : Host.Outcome State Fault Refusal :=
  .next (s.awake fun s => s.row c q (fun i => i.opcode == opEnd) fun s i =>
    if !ctlFormatOk i (highBits 0) (highBits 0) (highBits 0) then s.issueFailed c q i .eFormat false
    else s.issueDone c q i {} (i.pc + 32))

end Sys2Proof.Machine
end

