-- ==== Sys2Proof/Machine/Memory.lean ====
section
/-! DEFINITION. On-package memory: Harbour regions and reductions, the write-combining buffers, the writes of engines,
delivery into Ledge with the arrival windows, atomics, prefetch outcomes, regulators, flushes and scrubbing (R135, R236
to R266). -/

namespace Sys2Proof.Machine

/-! ### Regions (R245, R248) -/

/-- A STREAM write to one line: a hit updates Harbour, a miss enters the buffer of the line's stack (R245, R250). -/
def State.streamLine (s : State) (a n line : Nat) : State :=
  let s := s.lineUse true false line
  if s.harbour.contains line then s.soil a n
  else if hbmAddr a then s.wcPut line (lineMask line a n)
  else s

/-- Cuts bytes at 4 KiB boundaries, at which regions begin and end. -/
def pages4k (a : Nat) (bs : List Byte) : Nat → List (Nat × List Byte)
  | 0 => []
  | fuel + 1 =>
    if bs.isEmpty then []
    else
      let n := 4096 - a % 4096
      (a, bs.take n) :: pages4k (a + n) (bs.drop n) fuel

/-- Joins neighbouring pieces that one region governs. -/
def State.joinRuns (s : State) : List (Nat × List Byte) → List (Option Region × Nat × List Byte)
  | [] => []
  | (a, bs) :: r =>
    match s.joinRuns r with
    | (g, _, cs) :: t => if g = s.regionAt a then (g, a, bs ++ cs) :: t else (s.regionAt a, a, bs) :: (g, a + bs.length, cs) :: t
    | [] => [(s.regionAt a, a, bs)]

/-- The pieces of a write, each under one region. -/
def State.runs (s : State) (a : Nat) (bs : List Byte) : List (Option Region × Nat × List Byte) :=
  s.joinRuns (pages4k a bs (bs.length / 4096 + 2))

/-- Bytes of an element of a reduction (R248). -/
def redSize (op : Nat) : Nat := if op = 0 then 12 else 4

/-- One element combined into the stored one (R248). -/
def redElem (op : Nat) (old new : Nat) : Nat :=
  let a := BitVec.ofNat 32 old
  let b := BitVec.ofNat 32 new
  match op with
  | 0 => (X96.add (BitVec.ofNat 96 old) (BitVec.ofNat 96 new)).toNat
  | 1 => (a + b).toNat
  | 2 => (rne32 ((f32 a).add (f32 b))).toNat
  | 3 => (rne32 ((f32 a).max (f32 b))).toNat
  | _ => (rne32 ((f32 a).min (f32 b))).toNat

/-- Bytes combined element by element into the stored ones (R248). -/
def redBytes (op : Nat) (old new : List Byte) : List Byte :=
  let k := redSize op
  (List.range (new.length / k)).flatMap (fun i =>
    leBytes (redElem op (leNat ((old.drop (k * i)).take k)) (leNat ((new.drop (k * i)).take k))) k)

/-- A write begins and ends on element boundaries of its REDUCE region (R248). -/
def runAligned (r : Option Region × Nat × List Byte) : Bool :=
  match r.1 with
  | some g => g.policy ≠ 2 || ((r.2.1 - g.base) % redSize g.op = 0 && r.2.2.length % redSize g.op = 0)
  | none => true

/-! ### Writes of engines -/

/-- Bytes are combined into the stored ones at their slices (R248). -/
def State.reduceAt (s : State) (op a : Nat) (bs : List Byte) : State :=
  let lines := linesOf a bs.length
  let s := s.store a (redBytes op (s.bytes a bs.length) bs)
  s.bump (.harbour (halfOf a)) .hbReduceWrites 0 lines.length

/-- One piece of a write, under the region that governs it (R245, R248). -/
def State.writeRun (s : State) (r : Option Region × Nat × List Byte) : State :=
  let (g, a, bs) := r
  match g.map (·.policy) with
  | some 1 => (linesOf a bs.length).foldl (fun (s : State) l =>
      let lo := max a (l * 128)
      s.streamLine lo (min (a + bs.length) (l * 128 + 128) - lo) l) (s.poke a bs)
  | some 2 => s.reduceAt ((g.map (·.op)).getD 0) a bs
  | _ => s.store a bs

/-- A write of a MOVE, Estuary, the Foreshore engine or a Tideway delivery to a reachable range, for a class: E_ADDR
before any combination where a REDUCE region's elements are cut (R248). -/
def State.engineWrite (s : State) (cl a : Nat) (bs : List Byte) : Status × State :=
  if bs.isEmpty then (.ok, s)
  else if !harbourAddr a then (.ok, s.poke a bs)
  else
    let rs := s.runs a bs
    if rs.all runAligned then (.ok, (rs.foldl State.writeRun s).traffic cl a (s.missing a bs.length)) else (.eAddr, s)

/-- The write of [a, a + n) would be cut by a REDUCE region. -/
def State.writeCut (s : State) (a n : Nat) : Bool :=
  harbourAddr a && !((s.runs a (List.replicate n 0)).all runAligned)

/-- The page that reports an uncorrectable word of HBM4 or CXL memory: the half, where the sector is dirty there, else
the stack; ECC_UNCORR is bit 1 of both (R260, R263, R266). -/
def State.eccUncorr (s : State) (a : Nat) : State :=
  if !harbourAddr a then s
  else if s.dirty.contains (a / 64) || !hbmAddr a then s.event (.harbour (halfOf a)) 1
  else s.event (.hbm (stackOf a)) 1

/-! ### Delivery into a Ledge (R115, R135) -/

/-- Window n of a core: Ledge byte offset, units, semaphore, counting. -/
def State.window (s : State) (c : Fin 36) (n : Nat) : Nat × Nat × Nat × Bool :=
  let w := s.rd (.vector c) .arrive n
  (bits w 11 0 * 4096, bits w 23 12 + 1, bits w 35 24, bit1 w 63 && !bit1 (s.rd (.vector c) .arrivePtr n) 12)

/-- The pointer of a window passes every complete unit, its semaphore rising by one for each (R135). -/
def State.passUnits (s : State) (c : Fin 36) (n units sem : Nat) : Nat → State
  | 0 => s
  | fuel + 1 =>
    let p := s.fld (.vector c) .arrivePtr n 11 0
    let k := s.core c
    let keys := (List.range 64).map (fun i => 2 ^ 20 * n + 64 * p + i)
    if keys.all k.landed.contains then
      let s := s.setCore c { k with landed := keys.foldl KeySet.del k.landed }
      let s := s.setFld (.vector c) .arrivePtr n 11 0 ((p + 1) % units)
      let s := (s.semOp false false c.val sem 1 false).2
      s.passUnits c n units sem fuel
    else s

/-- A 64-byte sector lands in a window (R135): a unit completed 64 or more ahead of the pointer disables the window
and faults its semaphore. -/
def State.landSector (s : State) (c : Fin 36) (n sec : Nat) : State :=
  let (_, units, sem, on) := s.window c n
  if !on then s
  else
    let k := s.core c
    let s := s.setCore c { k with landed := KeySet.add k.landed (2 ^ 20 * n + sec) }
    let u := sec / 64
    let whole := ((List.range 64).map (fun i => 2 ^ 20 * n + 64 * u + i)).all (s.core c).landed.contains
    let p := s.fld (.vector c) .arrivePtr n 11 0
    if !whole then s
    else if 64 ≤ (u + units - p) % units then
      ((s.setFld (.vector c) .arrivePtr n 12 12 1).event (.vector c) 0).markFaulted false c.val sem
    else s.passUnits c n units sem (units + 1)

/-- The bytes of the 64-byte sector at an offset that [off, off + len) covers, as a mask. -/
def sectorMask (sec off len : Nat) : BitVec 64 :=
  let lo := off - sec
  let hi := min 64 (off + len - sec)
  BitVec.ofNat 64 ((2 ^ (hi - lo) - 1) * 2 ^ lo)

/-- Some bytes of a 64-byte sector land in a window; with the last of them the sector has landed (R135). -/
def State.landPart (s : State) (c : Fin 36) (n sec : Nat) (m : BitVec 64) : State :=
  let k := s.core c
  let key := 2 ^ 20 * n + sec
  let all := FMap.get 0 k.landing key ||| m
  if all = BitVec.allOnes 64 then
    (s.setCore c { k with landing := FMap.set 0 k.landing key 0 }).landSector c n sec
  else s.setCore c { k with landing := FMap.set 0 k.landing key all }

/-- A multicast or Tideway delivery of bytes to a Ledge offset of a core: stored, and counted by the windows (R135). -/
def State.deliver (s : State) (c : Fin 36) (off : Nat) (bs : List Byte) : State :=
  let s := s.poke (ledgeAt c off) bs
  (List.range 4).foldl (fun (s : State) n =>
    let (base, units, _, on) := s.window c n
    if !on then s
    else ((sectorsOf off bs.length).filter (fun x => base ≤ 64 * x && 64 * x < base + units * 4096)).foldl
      (fun (s : State) x => s.landPart c n ((64 * x - base) / 64) (sectorMask (64 * x) off bs.length)) s) s

/-! ### Commands -/

/-- HB_FLUSH (R261): a flush of every dirty line of the half begins. -/
def State.hbFlush (s : State) (h : Fin 2) : State := s.setFld (.harbour h) .hbStat 0 18 18 1

/-- HB_FLUSH (R261). -/
def execHbFlush (h : Fin 2) (s : State) : Host.Outcome State Fault Refusal := .next (s.awake fun s => s.hbFlush h)

/-- Writes back the dirty sectors that meet a condition: a line with a single dirty sector goes to the write-combining
buffer of its stack (R249, R261). -/
def State.writeBackOf (s : State) (mine : Nat → Bool) : State :=
  let l := s.dirty.filter mine
  l.foldl (fun (s : State) x =>
    let other := if x % 2 = 0 then x + 1 else x - 1
    if l.contains other || !hbmAddr (x * 64) then s
    else s.wcPut (x / 2) (lineMask (x / 2) (x * 64) 64)) { s with dirty := s.dirty.filter (fun x => !mine x) }

/-- Writes back every dirty line of a half (R261). -/
def State.writeBack (s : State) (h : Fin 2) : State :=
  let mine (x : Nat) : Bool := halfOf (x * 64) == h
  (s.bump (.harbour h) .hbWritebacks 0 (s.dirty.filter mine).length).writeBackOf mine

/-- FLUSH_DONE (R263): the dirty lines are written back, flush_busy clears and FLUSH_DONE is raised. -/
def execFlushDone (h : Fin 2) (s : State) : Host.Outcome State Fault Refusal :=
  .next (s.awake fun s => if s.fld (.harbour h) .hbStat 0 18 18 = 0 then s
    else ((s.writeBack h).setFld (.harbour h) .hbStat 0 18 18 0).event (.harbour h) 4)

/-- A write of a Harbour region register (R246, R261): one that names a reserved policy or operation is ignored. -/
def State.hbRegionWrite (s : State) (h : Fin 2) (n : Fin 16) (size : Bool) (v : Word) : State :=
  if size then s.wrRw (.harbour h) .hbRegionSize n.val v
  else if 2 < bits v 50 48 ∨ 4 < bits v 54 51 then s.ignore (.harbour h)
  else s.wrRw (.harbour h) .hbRegionBase n.val v

/-- HB_REGION_WRITE (R246, R261). -/
def execHbRegionWrite (h : Fin 2) (n : Fin 16) (size : Bool) (v : Word) (s : State) :
    Host.Outcome State Fault Refusal := .next (s.awake fun s => s.hbRegionWrite h n size v)

/-- The new value of an atomic's word (R247). -/
def atomicNew (op : AtomicOp) (old v cmp : Word) : Word :=
  match op with
  | .add => old + v
  | .and => old &&& v
  | .or => old ||| v
  | .xor => old ^^^ v
  | .min => if old.toInt ≤ v.toInt then old else v
  | .max => if old.toInt ≤ v.toInt then v else old
  | .minu => if old.toNat ≤ v.toNat then old else v
  | .maxu => if old.toNat ≤ v.toNat then v else old
  | .swap => v
  | .cas => if old = cmp then v else old

/-- ATOMIC (R247): on an 8-byte aligned word of HBM4 or a CXL window, at its home slice; the buffer's entry for the
line is merged first. It waits while its half or its stack is not RUNNING. -/
def execAtomic (op : AtomicOp) (a : Word) (v cmp : Word) (s : State) : Host.Outcome State Fault Refusal :=
  let n := a.toNat
  let old := s.word n
  .next (s.awake fun s =>
    if !s.served n 8 then s
    else if n % 8 ≠ 0 ∨ !harbourAddr n then { s with out := s.out ++ [.atomic n 0 .eAddr] }
    else if s.access n 8 ≠ .ok then
      let s := s.goneCount (s.access n 8) [n]
      { s with out := s.out ++ [.atomic n 0 (s.access n 8)] }
    else if (s.badIn n 8).isSome then
      let s := (s.eccUncorr n).contained (.harbour (halfOf n)) .eMemUncorr (s.badIn n 8)
      { s with out := s.out ++ [.atomic n 0 .eMemUncorr] }
    else
      let s := (s.store n (leBytes (atomicNew op old v cmp).toNat 8)).traffic (Config.workClass 2 n % 4) n (s.missing n 8)
      let s := s.bump (.harbour (halfOf n)) .hbAtomics 0 1
      { s with out := s.out ++ [.atomic n old .ok] })

/-- Cycles of the fabric clock in 250 ps tideline units: two (R244). -/
def fabricUnits (n : Nat) : Nat := 2 * n

/-- WC_FLUSH (R249): the oldest entry of a stack's buffer is flushed once its age has reached the limit. -/
def execWcFlush (k : Fin 12) (s : State) : Host.Outcome State Fault Refusal :=
  .next (s.awake fun s => match s.wcOf k with
    | [] => s
    | e :: r =>
      let limit := fabricUnits (256 * max 1 (s.fld (.hbm k) .hbmCtrl 0 9 2))
      if limit ≤ (s.now - e.since).toNat then (s.setWc k r).wcFlushed k e else s)

/-- The class of a core's holding queue (R256). -/
def State.holderClass (s : State) (c : Fin 36) : Nat := match (s.core c).holder with
  | some q => s.qClass c q
  | none => 3

/-- PREFETCH_FILL (R256, R257, R259): a line that a stream of a core asks for arrives and waits for its first access, or the fill was
late, overwritten in flight, or failed: it is then not filled, recorded as corrected and counted as evicted unused. -/
def execPrefetchFill (h : Fin 2) (c : Fin 36) (o : Prefetch) (line : Nat) (s : State) :
    Host.Outcome State Fault Refusal :=
  let p : Pg := .harbour h
  .next (s.awake fun s =>
    if !bit1 (s.rd p .hbCtrl 0) 2 ∨ halfOf (line * 128) ≠ h ∨ !harbourAddr (line * 128) ∨ s.reach (line * 128) ≠ .ok ∨
        s.harbour.contains line ∨ !(FMap.get {} s.pf (36 * h.val + c.val)).may (s.fld p .hbCtrl 0 10 3) line then s
    else
      let s := ((s.bump p .hbPfIssued 0 1).bump p .pfc (5 * c.val) 1).traffic (s.holderClass c) (line * 128) 1
      let t := { s with pfLines := FMap.set 0 s.pfLines line (c.val + 1) }
      match o with
      | .arrived => t.lineIn line
      | .late => ((t.prefetched line .hbPfLate 2).coreReads c line).lineIn line
      | .overwritten => (t.prefetched line .hbPfOverwritten 4).lineIn line
      | .failed => (t.prefetched line .hbPfEvictedUnused 3).corrected p .eMemUncorr (line * 128))

/-- REGULATOR_WINDOW (R253, R254): the settings written since the last window take effect, and each ceiling bucket is
refilled up to its depth. -/
def execRegulatorWindow (b : Fin 6) (s : State) : Host.Outcome State Fault Refusal :=
  .next (s.awake fun s => if !s.code.bayEnabled b.val then s
    else
      let k : Fin 12 := Fin.ofNat 12 (2 * b.val)
      let ws := (List.range 4).map (fun n => s.rd (.hbm k) .hbmRegClass n)
      let r := FMap.get {} s.regulators b.val
      let toks := ws.zipIdx.map (fun (w, i) => min (bits w 31 16) (r.tokens.getD i 0 + 32 * bits w 15 8))
      { s with regulators := FMap.set {} s.regulators b.val { inForce := ws, tokens := toks } })

/-- A write of a regulator register (R254): ignored when the four floors would sum above 256, else it writes the pages
of both stacks of the bay. -/
def State.hbmRegClassWrite (s : State) (k : Fin 12) (n : Fin 4) (v : Word) : State :=
  let floors := (List.range 4).foldl (fun t i =>
    t + (if i = n.val then bits v 7 0 else s.fld (.hbm k) .hbmRegClass i 7 0)) 0
  if 256 < floors then s.ignore (.hbm k)
  else
    let other : Fin 12 := if k.val % 2 = 0 then Fin.ofNat 12 (k.val + 1) else Fin.ofNat 12 (k.val - 1)
    (s.wrRw (.hbm k) .hbmRegClass n.val v).wrRw (.hbm other) .hbmRegClass n.val v

/-- HBM_REG_CLASS_WRITE (R254). -/
def execHbmRegClassWrite (k : Fin 12) (n : Fin 4) (v : Word) (s : State) : Host.Outcome State Fault Refusal :=
  .next (s.awake fun s => if s.code.stackPresent k.val then s.hbmRegClassWrite k n v else s)

/-- TEMP_HIGH (R242): a stack's temperature is measured; crossing 85 °C halves or restores its refresh interval. -/
def execTempHigh (k : Fin 12) (t : Fin 256) (s : State) : Host.Outcome State Fault Refusal :=
  let p : Pg := .hbm k
  .next (s.awake fun s => if !s.code.stackPresent k.val then s
    else
      let was := s.fld p .hbmStat 0 8 8
      let s := s.setFld p .hbmStat 0 7 0 t.val
      let high : Nat := if 85 < t.val then 1 else 0
      let s := s.setFld p .hbmStat 0 8 8 high
      if was = 0 ∧ high = 1 then s.event p 2 else s)

end Sys2Proof.Machine
end

