-- ==== Sys2Proof/Machine/Move.lean ====
section
/-! DEFINITION. MOVE: unicast and multicast copies through the DMA engine (R85, R96, R113 to R117, R255). -/

namespace Sys2Proof.Machine

/-- The fields of a MOVE (R85); strides in bytes. -/
structure Mv where
  src : Nat
  dst : Nat
  group : Nat
  rows : Nat
  rowBytes : Nat
  srcStride : Nat
  dstStride : Nat
  deriving DecidableEq, Repr

/-- The MOVE fields of an instruction (R85). -/
def Mv.of (i : Ins) : Mv :=
  { src := bits i.w1 47 0, rows := bits i.w1 63 48 + 1, dst := bits i.w2 47 0, group := bits i.w2 55 48,
    rowBytes := bits i.w3 23 0, srcStride := bits i.w3 43 24 * 64, dstStride := bits i.w3 63 44 * 64 }

/-- The members of a group that are present (R113, R116). -/
def State.members (s : State) (g : Nat) : List (Fin 36) :=
  let w := s.rd .multicast .mcastGroup (g - 1)
  (List.finRange 36).filter (fun c => bit1 w c.val && s.coreLive c.val)

/-- The group may be named: its enable bit is set and it has a member (R113). -/
def State.groupOk (s : State) (g : Nat) : Bool :=
  bit1 (s.rd .multicast .mcastGroup (g - 1)) 63 && !(s.members g).isEmpty

/-- Bytes from the first to the last byte of rows. -/
def spanOf (rows stride n : Nat) : Nat := (rows - 1) * stride + n

/-- Some access of n bytes from an address meets a status (R236, R240, R269). -/
def State.meets (s : State) (a n : Nat) (st : Status) : Bool :=
  (st == .eAddr && n ≠ 0 && decide (2 ^ 48 < a + n)) || (sectorsOf a n).any (fun x => s.reach (x * 64) == st)

/-- Some access of the rows of a tensor meets a status. -/
def State.rowsMeet (s : State) (a stride rows n : Nat) (st : Status) : Bool :=
  (List.range rows).any (fun r => s.meets (a + r * stride) n st)

/-- The checks of R95 for a MOVE in their order. Among its addresses the lowest code holds (R13): E_ADDR, for a group that is disabled
or empty (R113) and for a write that would cut elements of a REDUCE region (R248) too, goes before E_GONE. -/
def State.mvCheck (s : State) (c : Fin 36) (q : Nat) (i : Ins) : Status :=
  let x := Mv.of i
  if !(i.rnd.isSome && bits i.w0 63 61 = 0 && axisOk opMove i.lenAxis && bits i.w2 63 56 = 0) then .eFormat
  else
    let l := s.lenCheck c q i x.rows
    if l ≠ .ok then l
    else if s.lenZero c q i then .ok
    else if x.rowBytes = 0 ∨ x.rowBytes % 64 ≠ 0 then .eShape
    else
      let rows := s.extent c q i 1 x.rows
      let meet (st : Status) : Bool := s.rowsMeet x.src x.srcStride rows x.rowBytes st ||
        (x.group = 0 && s.rowsMeet x.dst x.dstStride rows x.rowBytes st)
      firstFail [check (!meet .eAddr) .eAddr,
        check (x.group = 0 || (s.groupOk x.group && inLedge x.dst (spanOf x.rows x.dstStride x.rowBytes))) .eAddr,
        check (x.group ≠ 0 || !(List.range rows).any (fun r => s.writeCut (x.dst + r * x.dstStride) x.rowBytes)) .eAddr,
        check (!meet .eGone) .eGone]

/-- What a MOVE can touch (R88): for a multicast, the destination offsets in its own Ledge and in every member's. -/
def State.mvTouch (s : State) (c : Fin 36) (i : Ins) : Touch :=
  let x := Mv.of i
  let n := spanOf x.rows x.dstStride x.rowBytes
  { rd := [(x.src, spanOf x.rows x.srcStride x.rowBytes)]
    wr := if x.group = 0 then [(x.dst, n)]
      else (ledgeAt c x.dst, n) :: (s.members x.group).map (fun m => (ledgeAt m x.dst, n))
    slots := if i.lenAxis ≠ 0 then [i.lenSlot] else [] }

/-- The leading 4 KiB units of the destination that are written when its first n bytes are (R96). -/
def unitsOf (n : Nat) : Nat := n / 4096

/-- The rows that reach the destination: each as read, cut at the first uncorrectable sector (R239, R255). -/
def State.mvRead (s : State) (x : Mv) (rows : Nat) : List (List Byte) × Option Nat :=
  match (List.range rows).findSome? (fun r => (s.badIn (x.src + r * x.srcStride) x.rowBytes).map (fun a => (r, a))) with
  | none => ((List.range rows).map (fun r => s.bytes (x.src + r * x.srcStride) x.rowBytes), none)
  | some (r, a) =>
    let good := (a - (x.src + r * x.srcStride)) / 64 * 64
    (((List.range r).map (fun j => s.bytes (x.src + j * x.srcStride) x.rowBytes)) ++ [s.bytes (x.src + r * x.srcStride) good],
     some a)

/-- Delivers the rows of a MOVE (R115): by unicast, or to every member. -/
def State.mvWrite (s : State) (cl : Nat) (x : Mv) (rows : List (List Byte)) : State :=
  if x.group = 0 then
    rows.zipIdx.foldl (fun (s : State) (bs, r) => (s.engineWrite cl (x.dst + r * x.dstStride) bs).2) s
  else
    (s.members x.group).foldl (fun (s : State) m =>
      rows.zipIdx.foldl (fun (s : State) (bs, r) => if bs.isEmpty then s else s.deliver m (x.dst + r * x.dstStride) bs) s) s

/-- The destinations of a MOVE as device addresses. -/
def State.mvDests (s : State) (x : Mv) : List Nat :=
  if x.group = 0 then [x.dst] else (s.members x.group).map (fun m => ledgeAt m x.dst)

/-- The destinations a MOVE in flight was issued with, as device addresses: the members of its group then (R114). -/
def mvIssued (f : Flight) : List Nat :=
  if (Mv.of f.ins).group = 0 then [(Mv.of f.ins).dst] else (f.touch.wr.drop 1).map (·.1)

/-- Makes undefined the bytes of a MOVE's destination at and above a watermark (R96). -/
def State.mvScramble (s : State) (x : Mv) (dests : List Nat) (rows wm : Nat) : State :=
  dests.foldl (fun (s : State) d =>
    (List.range rows).foldl (fun (s : State) r =>
      let lo := max (r * x.dstStride) (wm * 4096)
      let hi := r * x.dstStride + x.rowBytes
      if lo < hi then s.scramble (d + lo) (hi - lo) else s) s) s

/-- The compute die of a logical core (R2). -/
def dieOf (c : Nat) : Nat := c / 18

/-- Bytes a multicast carries across the die-to-die bridge: once per MOVE when a member is on the other die (R115). -/
def State.mvBridge (s : State) (c : Fin 36) (x : Mv) (bytes : Nat) : Nat :=
  if (s.members x.group).any (fun m => dieOf m.val ≠ dieOf c.val) then bytes else 0

/-- Runs a MOVE of some rows (R85, R96, R115). -/
def State.mvRun (s : State) (c : Fin 36) (q : Nat) (f : Flight) : State × Flight :=
  let x := Mv.of f.ins
  let cl := s.qClass c q
  let (rows, bad) := s.mvRead x f.m
  let total := ceilDiv (spanOf f.m x.dstStride x.rowBytes) 4096
  let f := { f with
    old := s.snapshot c q f
    counts := if x.group = 0 then [] else [(Pg.multicast, RegName.mcastBridgeBytes, 0, s.mvBridge c x (rows.map List.length).sum)] }
  let s := (rows.zipIdx.foldl (fun (s : State) r => s.readsBy c cl (x.src + r.2 * x.srcStride) r.1.length) s).mvWrite cl x rows
  match bad with
  | none => (s, { f with total := total, wm := total })
  | some a =>
    let done := (rows.length - 1) * x.dstStride + (rows.getLast?.getD []).length
    let wm := unitsOf done
    (((s.eccUncorr a).mvScramble x (mvIssued f) f.m wm), { f with total := total, wm := wm, status := .eMemUncorr })

/-- Every place a MOVE reads or writes is served (R393, R394). -/
def State.mvServed (s : State) (x : Mv) : Bool :=
  s.memoryRuns || (s.served x.src (spanOf x.rows x.srcStride x.rowBytes) &&
    (s.mvDests x).all (fun d => s.served d (spanOf x.rows x.dstStride x.rowBytes)))

/-- A queue waits at issue for a DMA tag: unless something of it is on the arrays or the vector engine, it lets the core go (R78, R85,
R94). -/
def State.tagWait (s : State) (c : Fin 36) (q : Nat) : State :=
  (s.setQueue c q { s.queue c q with state := .waiting }).arbitrate c

/-- MOVE (R85). It waits at issue while no DMA tag is free, or while memory it names waits for a RESUME. A group that is disabled or
empty raises GROUP_INVALID (R117). -/
def execMove (c : Fin 36) (q : Fin 8) (s : State) : Host.Outcome State Fault Refusal :=
  .next (s.awake fun s => s.row c q (fun i => i.opcode == opMove) fun s i =>
    let x := Mv.of i
    let t := s.mvTouch c i
    if !(s.queue c q).free t then s
    else if 256 ≤ (s.core c).dmaTags then s.tagWait c q
    else if !s.mvServed x then s
    else
      let st := s.mvCheck c q i
      if st ≠ .ok then
        let noGroup := st == .eAddr && x.group ≠ 0 && !s.groupOk x.group
        (if noGroup then s.event .multicast 0 else s).issueFailed c q i st false
      else if s.lenZero c q i then ((s.issue c q (started i {} true) (i.pc + 32)).drainQueue c q).settled
      else
        let (s, f) := s.mvRun c q { started i t false with m := s.extent c q i 1 x.rows }
        (s.issue c q f (i.pc + 32)).settled)

end Sys2Proof.Machine
end

