-- ==== Sys2Proof/Machine/Ring.lean ====
section
/-! DEFINITION. What every descriptor ring shares: the writes of its registers, its slots, the post ADD and the records
of a job (R232, R233, R281, R341, R345). -/

namespace Sys2Proof.Machine

/-- Bytes of a ring entry (R217, R280, R340). -/
def slotSize : Nat := 64

/-- A ring lies at a base and holds 2^n entries; how many of its entries wait between head and tail, modulo 2^32. -/
def waitingIn (head tail : Nat) : Nat := (tail + 2 ^ 32 - head % 2 ^ 32) % 2 ^ 32

/-- The slot of an entry by its free-running count. -/
def slotAddr (base log2 count : Nat) : Nat := base + slotSize * (count % 2 ^ log2)

/-- A write of a ring's tail: ignored, with an overrun event, when it is more than the ring size ahead of the head
(R233). -/
def State.tailWrite (s : State) (p : Pg) (head tail : RegName) (log2 overrun : Nat) (v : Word) : State :=
  if 2 ^ log2 < waitingIn (s.fld p head 0 31 0) (bits v 31 0) then s.event p overrun
  else s.setFld p tail 0 31 0 (bits v 31 0)

/-- A write of a ring's base or configuration: ignored while the ring holds entries, or with a size out of range
(R233, R234). -/
def State.ringCfgWrite (s : State) (p : Pg) (head tail r : RegName) (isCfg : Bool) (v : Word) : State :=
  if s.fld p head 0 31 0 ≠ s.fld p tail 0 31 0 ∨ (isCfg ∧ (bits v 3 0 < 4 ∨ 12 < bits v 3 0)) then s.ignore p
  else s.wrRw p r 0 v

/-- The words of a descriptor. -/
def State.words (s : State) (a n : Nat) : List Word := (List.range n).map (fun i => s.word (a + 8 * i))

/-- The post ADD of a job on a global semaphore: performed on success, its semaphore faulted on a failure (R232, R281,
R384). The status is that of the job with its ADD. -/
def State.jobPost (s : State) (st : Status) (en trace : Bool) (index inc : Nat) : Status × State :=
  if !en then (st, s)
  else if st = .ok then
    let (st, s) := s.semOp false true 0 index inc trace
    (st, s.settled)
  else (st, s.faultSem true 0 index)

/-- The completion record of a ring entry, over the first 32 bytes of its slot (R232). -/
def State.ringRecord (s : State) (slot id : Nat) (st : Status) (wm : Nat) (started : Word) (deadline : Bool) : State :=
  let r : Completion := { id := id, status := st.code, opcode := 0, flags := if deadline then 2 else 0, watermark := wm,
                          doneTime := s.now, service := units64 (s.now - started).toNat }
  { s.store slot r.bytes with records := s.records ++ [r] }

/-- The error record of a ring entry that failed (R13, R232, R379), and ECC_UNCORR of the memory whose word was uncorrectable (R260):
`addr` is where its data failed, where that is known. -/
def State.ringError (s : State) (p : Pg) (st : Status) (id wmUnit wm : Nat) (addr : Option Nat) (deadline : Word) : State :=
  let s := match addr with
    | some a => s.eccUncorr a
    | none => s
  s.report (ErrRec.at { time := s.now, page := p.index, cls := 1, code := st.code, subjectKind := 4, wmUnit := wmUnit, flags := 1,
                        subject := id, watermark := wm, further := furtherCodes (lateCode deadline s.now) st } addr)

end Sys2Proof.Machine
end

