-- ==== Sys2Proof/Machine/Tideline.lean ====
section
/-! DEFINITION. Tideline time: ticks and slots, their configuration, the discipline, the records of the count and
PPS_OUT (R21 to R35, R481). -/

namespace Sys2Proof.Machine

/-- Units of one second (R22). -/
def secondUnits : Nat := 4000000000

/-- Tick period in force (R26). -/
def Tide.per (t : Tide) : Nat := bits t.period 31 0
/-- Acceptance window in force. -/
def Tide.tolerance (t : Tide) : Nat := bits t.period 47 32
/-- Slots of a tick in force. -/
def Tide.slots (t : Tide) : Nat := bits t.cfg 7 0 + 1
/-- Ticks follow the internal period. -/
def Tide.internal (t : Tide) : Bool := bit1 t.cfg 8
/-- Missed edges before TICK_LOST; 0 acts as 1 (R34). -/
def Tide.limit (t : Tide) : Nat := max 1 (bits t.cfg 23 16)
/-- Units of a slot (R27). -/
def Tide.slotLen (t : Tide) : Nat := t.per / t.slots
/-- The expected time of the next tick (R26). -/
def Tide.expected (t : Tide) : Nat := t.start.toNat + t.per

/-- The configuration after the waiting writes made before a tick start (R27). -/
def Tide.apply (t : Tide) (start : Nat) : Tide :=
  let due := t.waiting.filter (fun w => w.at_.toNat < start)
  let t := due.foldl (fun (t : Tide) w => if w.cfg then { t with cfg := w.value } else { t with period := w.value }) t
  { t with waiting := t.waiting.filter (fun w => start ≤ w.at_.toNat) }

/-- A tick begins at a time: waiting configuration takes effect, the index rises, or is 0 in the first tick (R26, R27,
R30). -/
def State.beginTick (s : State) (start : Nat) : State :=
  let first := !s.tide.running
  let t := s.tide.apply start
  let ix := if first then 0 else s.fld .tideline .tickNow 0 39 0 + 1
  let s := { s with tide := { t with running := true, armed := none, start := BitVec.ofNat 64 start } }
  let s := (s.setFld .tideline .tickNow 0 39 0 ix).setFld .tideline .tickNow 0 47 40 0
  s.wr .tideline .tickEdgeTime 0 (BitVec.ofNat 64 start)

/-- The slot of the running tick at the present time (R27). -/
def State.slotNow (s : State) : Nat :=
  min (s.tide.slots - 1) ((s.now.toNat - s.tide.start.toNat) / max 1 s.tide.slotLen)

/-- A TICK_IN edge timestamped at a time (R25, R26): whether it begins a tick, and the state after it. While ticks follow the
internal period, or there are none, it is ignored in silence (notes/assumptions/27.md). -/
def State.tickEdge (s : State) (at_ : Nat) : Bool × State :=
  let t := s.tide
  if t.internal ∨ t.per = 0 then (false, s)
  else if !t.running then
    (if t.armed.isSome then (true, { s with tide := { t with missed := 0, widened := false } }.beginTick at_) else (false, s))
  else if t.widened || (t.expected ≤ at_ + t.tolerance && at_ ≤ t.expected + t.tolerance) then
    (true, { s with tide := { t with missed := 0, widened := false } }.beginTick at_)
  else (false, s.event .tideline 4)

/-- The first whole multiple of the period after a time (R27). -/
def firstMultiple (period after : Nat) : Nat := (after / max 1 period + 1) * period

/-- A tick of the internal period that is due begins (R26, R27). -/
def State.tickInternal (s : State) : Bool × State :=
  let t := s.tide
  if !t.internal ∨ t.per = 0 then (false, s)
  else
    match t.running, t.armed with
    | true, _ => if t.expected ≤ s.now.toNat then (true, s.beginTick t.expected) else (false, s)
    | false, some w =>
      let f := firstMultiple t.per w.toNat
      if f ≤ s.now.toNat then (true, s.beginTick f) else (false, s)
    | false, none => (false, s)

/-- The acceptance window closes with no edge (R26): the tick begins at its expected time, its slot counted from there,
and TICK_LOST follows enough missed edges. -/
def State.tickWindow (s : State) : Bool × State :=
  let t := s.tide
  let due := if t.widened then t.expected else t.expected + t.tolerance
  if t.internal ∨ t.per = 0 ∨ !t.running ∨ s.now.toNat < due then (false, s)
  else
    let missed := t.missed + 1
    let lost := !t.widened && t.limit ≤ missed
    let s := { s with tide := { t with missed := missed, widened := t.widened || lost } }
    let s := if lost then s.event .tideline 0 else s
    let s := s.beginTick t.expected
    (true, s.setFld .tideline .tickNow 0 47 40 s.slotNow)

/-- A new slot of the running tick begins when its time has come; the last slot takes the remainder (R27). -/
def State.nextSlot (s : State) : State :=
  let n := s.fld .tideline .tickNow 0 47 40 + 1
  if s.tide.running ∧ n < s.tide.slots ∧ s.tide.start.toNat + n * s.tide.slotLen ≤ s.now.toNat then
    s.setFld .tideline .tickNow 0 47 40 n
  else s

/-- A register of the tick configuration takes effect: at the next tick start while ticks run, at once otherwise; a
period of 0 ends the running tick at once (R27). Then TICK_NOW and TICK_EDGE_TIME stay as they are and a write of TICK_CFG that waited
takes effect (notes/assumptions/27.md). -/
def State.tickConfig (s : State) (cfg : Bool) (v : Word) : State :=
  let t := s.tide
  if !cfg ∧ bits v 31 0 = 0 then
    { s with tide := { t with period := v, cfg := s.rd .tideline .tickCfg 0, waiting := [], running := false, armed := none,
                              missed := 0, widened := false } }
  else if t.running then { s with tide := { t with waiting := t.waiting ++ [⟨s.now, cfg, v⟩] } }
  else
    let t := if cfg then { t with cfg := v } else { t with period := v }
    { s with tide := if t.per = 0 then t else { t with armed := some s.now, missed := 0, widened := false } }

/-- A write of TICKIN_PERIOD (R27, R34): one of 1 to 3,999 is ignored. -/
def State.tickinPeriodWrite (s : State) (v : Word) : State :=
  if 1 ≤ bits v 31 0 ∧ bits v 31 0 ≤ 3999 then s
  else
    let s := s.wrRw .tideline .tickinPeriod 0 v
    s.tickConfig false (s.rd .tideline .tickinPeriod 0)

/-- A write of TICK_CFG (R27). -/
def State.tickCfgWrite (s : State) (v : Word) : State :=
  let s := s.wrRw .tideline .tickCfg 0 v
  s.tickConfig true (s.rd .tideline .tickCfg 0)

/-- TICKIN_PERIOD_WRITE (R27); while standby is lost the page ignores writes (R408). -/
def execTickinPeriodWrite (v : Word) (s : State) : Host.Outcome State Fault Refusal := .next (if s.standby then s.tickinPeriodWrite v else s)

/-- TICK_CFG_WRITE (R27, R408). -/
def execTickCfgWrite (v : Word) (s : State) : Host.Outcome State Fault Refusal := .next (if s.standby then s.tickCfgWrite v else s)

/-! ### Slack water (R28) -/

/-- Work is scheduled: a request that is not answered, a fast-path request, a Foreshore job, a collective, or a tile queue of a class
above Background that runs (R28, R291; notes/assumptions/71.md). -/
def State.scheduled (s : State) : Bool :=
  s.gulk.reqs.any (·.2.isSome) || !s.est.fast.isEmpty || s.fore.any (·.2.isSome) || s.tw.colls.any (·.2.isSome) ||
  (List.finRange 36).any (fun c => s.coreLive c.val && (s.core c.val).queues.any (fun (q, x) =>
    (x.state == .running || x.state == .stopping) && s.fld (.sequencer c) .qCfg q 1 0 != 3))

/-- Units that are left of the running slot; none while no ticks run, so that no slot ends (R27, R28). -/
def State.slotLeft (s : State) : Option Nat :=
  if !s.tide.running then none
  else
    let n := s.slotNow
    let stop := if n + 1 = s.tide.slots then s.tide.expected else s.tide.start.toNat + (n + 1) * s.tide.slotLen
    some (stop - s.now.toNat)

/-- Background work of some units may start: the slot is slack water, and holds the work (R28, R445). A new tick's first slot begins for
it when the window closes (R26). -/
def State.slackFor (s : State) (units : Nat) : Bool :=
  !s.scheduled && (match s.slotLeft with | some left => 0 < left && units ≤ left | none => true)

/-! ### Discipline (R23 to R25) -/

/-- The state field of DISC_STAT (R34). -/
def State.discState (s : State) : Nat := s.fld .tideline .discStat 0 2 0

/-- Sets the discipline state, raising LOCKED and UNLOCKED as lock is gained and lost (R35). -/
def State.setDisc (s : State) (x : Nat) : State :=
  let was := s.discState
  let s := s.setFld .tideline .discStat 0 2 0 x
  if was ≠ 2 ∧ x = 2 then s.event .tideline 1
  else if was = 2 ∧ x ≠ 2 then s.event .tideline 2 else s

/-- A signed number saturated to 32 bits. -/
def sat32 (x : Int) : Nat :=
  let y : Int := if 2 ^ 31 - 1 < x then 2 ^ 31 - 1 else if x < -(2 ^ 31) then -(2 ^ 31) else x
  (y % 2 ^ 32).toNat

/-- The rate of the count, in parts per billion off nominal: within 200 ppm (R23). -/
def Tide.rate (t : Tide) : Int := max (-200000) (min 200000 (t.freq + t.slew))

/-- A frequency that the discipline has found, within 200 ppm: its filter is not stated (R23, notes/assumptions/26.md). -/
def freeFreq (w : Word) : Int := (w.toNat % 400001 : Nat) - 200000

/-- The rate by which an offset is slewed away: forward within 200 ppm, backward within 100 ppm (R23). -/
def freeSlew (w : Word) (off : Int) : Int := if 0 < off then (w.toNat % 200001 : Nat) else if off = 0 then 0 else -(w.toNat % 100001 : Nat)

/-- What a measurement gives beside its offset: a frequency, or a phase that is slewed away, and whether it may step the count. -/
structure DiscUse where
  freq : Bool
  phase : Bool
  step : Bool
  deriving DecidableEq, Repr

/-- A discipline measurement of an offset, reference minus tideline (R23, R25): the one forward step if it may be made, the
offset, the counts toward LOCKED and HOLDOVER, and the rate; HOLDOVER keeps the last frequency. A first measurement begins to
acquire (notes/assumptions/26.md). -/
def State.disciplined (s : State) (u : DiscUse) (off : Int) : State :=
  let t := s.tide
  let step := !t.locked && !t.stepped && u.step && bit1 (s.rd .tideline .discCtrl 0) 4 && decide (4000000 < off)
  let s := s.setFld .tideline .discStat 0 39 8 (sat32 off)
  let (r, s) := s.draw
  let (w, s) := s.draw
  let near := if off.natAbs ≤ 40 then t.near + 1 else 0
  let far := if 400 < off.natAbs then t.far + 1 else 0
  let held := near < 16 && (decide (4 ≤ far) || s.discState == 3)
  let s := { s with tide := { t with
    near := near, far := far, freq := if u.freq && !held then freeFreq r else t.freq,
    slew := if u.phase && !held && !step then freeSlew w off else 0 } }
  let s := if step then
      ({ s with now := s.now + BitVec.ofInt 64 off, tide := { s.tide with stepped := true } }).event .tideline 3
    else s
  if 16 ≤ near then { s with tide := { s.tide with locked := true } }.setDisc 2
  else if 4 ≤ far ∧ s.discState ≠ 4 then s.setDisc 3
  else if s.discState = 0 then s.setDisc 1
  else s

/-- The tideline follows a Tideway port, in a mode without an epoch of its own (R338). -/
def State.timeFollows (s : State) : Bool := bit1 (s.rd .tideway .twCtrl 0) 2 && s.fld .tideline .discCtrl 0 1 0 % 2 == 0

/-- A PTP measurement on a port: of frequency and epoch in mode PTP, of phase in mode TICK_PTP, where it is the port that
DISC_CTRL names and its link is up. FREE and TICK take none, and a standby outage stops the discipline (R24, R408). -/
def State.measured (s : State) (port : Fin 4) (off : Int) : State :=
  let mode := s.fld .tideline .discCtrl 0 1 0
  if mode % 2 = 1 ∧ s.standby ∧ port.val = s.fld .tideline .discCtrl 0 3 2 ∧ bit1 (s.rd .estuary .estStat 0) port.val then
    s.disciplined ⟨mode = 1, true, true⟩ off
  else s

/-- REFERENCE_MEASUREMENT (R25): a PTP measurement; those of TICK_IN edges are made where the edges come. -/
def execReferenceMeasurement (port : Fin 4) (off : Word) (s : State) : Host.Outcome State Fault Refusal := .next (s.measured port off.toInt)

/-- An edge that was accepted disciplines the frequency in modes TICK and TICK_PTP: it should have come at the expected time. In mode
TICK it is the reference that locks, unless the phase follows a port (R24, R25, R338). -/
def State.edgeMeasured (s : State) (expected at_ : Nat) : State :=
  let mode := s.fld .tideline .discCtrl 0 1 0
  if mode < 2 ∨ !s.standby then s
  else if mode = 2 ∧ !s.timeFollows then s.disciplined ⟨true, false, false⟩ ((expected : Int) - (at_ : Int))
  else if s.discState = 3 then s
  else
    let (r, s) := s.draw
    { s with tide := { s.tide with freq := freeFreq r } }

/-- A TICK_IN edge, with what it tells the discipline (R24, R26). -/
def State.edgeComes (s : State) (at_ : Nat) : Bool × State :=
  let r := s.tickEdge at_
  if r.1 && s.tide.running then (true, r.2.edgeMeasured s.tide.expected at_) else r

/-- REFERENCE_LOST (R25): the discipline enters HOLDOVER. A standby outage stops the discipline (R408). -/
def execReferenceLost (s : State) : Host.Outcome State Fault Refusal :=
  .next (if s.standby ∧ (s.discState = 1 ∨ s.discState = 2) then
      { s with tide := { s.tide with near := 0, far := 0, slew := 0 } }.setDisc 3 else s)

/-- A write of DISC_CTRL: a change of mode starts the discipline again, FREE at the standby oscillator's own rate; UNSYNCED stands
until it locks (R22, R24). -/
def State.discCtrlWrite (s : State) (v : Word) : State :=
  let was := s.fld .tideline .discCtrl 0 1 0
  let s := s.wrRw .tideline .discCtrl 0 v
  let mode := s.fld .tideline .discCtrl 0 1 0
  if mode = was then s
  else
    let s := { s with tide := { s.tide with near := 0, far := 0, freq := if mode = 0 then 0 else s.tide.freq, slew := 0 } }
    if s.discState = 4 then s else s.setDisc (if mode = 0 then 0 else 1)

/-! ### Records of the count and the pulse (R22, R481) -/

/-- TIDELINE_RECORD (R22): once the count has passed a whole second, Tidewatch records it in MRAM. -/
def execTidelineRecord (s : State) : Host.Outcome State Fault Refusal :=
  .next (
    let whole := s.now.toNat / secondUnits * secondUnits
    if s.standby ∧ s.tide.recorded.toNat < whole then
      { s with tide := { s.tide with recorded := BitVec.ofNat 64 whole } }
    else s)

/-- PPS_OUT (R481): high for the first 100 ms of each second of the tideline, low for the rest. -/
def execPpsOut (s : State) : Host.Outcome State Fault Refusal :=
  .next { s with tide := { s.tide with pps := decide (s.now.toNat % secondUnits < 400000000) } }

end Sys2Proof.Machine
end

