-- ==== Sys2Proof/Machine/Tideway.lean ====
section
/-! DEFINITION. The Tideway link layer: frames, replay, lanes, lasers, remote semaphores (R328 to R339, R346, R347, R351
to R355). -/

namespace Sys2Proof.Machine

/-! ### Ports -/

/-- Replaces the link engine of a port. -/
def State.setTwPort (s : State) (p : Nat) (x : TwPort) : State :=
  { s with tw := { s.tw with ports := FMap.set {} s.tw.ports p x } }

/-- Sets the state of a port, and its bits in TW_STAT (R352, R354). -/
def State.setTwState (s : State) (p st : Nat) : State :=
  let s := s.setFld (twPg p) .twpStat 0 2 0 st
  let s := s.setFld .tideway .twStat 0 p p (if st = 2 ∨ st = 3 then 1 else 0)
  s.setFld .tideway .twStat 0 (16 + p) (16 + p) (if st = 3 then 1 else 0)

/-- The last frame of a port that is applied (R334, R345): the one before the oldest it holds for a collective that is
not issued, else the last received in order. -/
def State.ackFor (s : State) (p : Nat) : Nat :=
  match s.tw.held.find? (fun h => h.1 = p) with
  | some h => (h.2.seq.toNat + 65535) % 65536
  | none => ((s.twPort p).expect + 65535) % 65536

/-- Puts a port's waiting frames on the wire while the replay buffer has room and their virtual channel has credits,
lower channels first (R334, R335); none leaves while the port's handshake is not RUNNING (R394). -/
def State.pumpPort (s : State) (p : Nat) : Nat → State
  | 0 => s
  | fuel + 1 =>
    let x := s.twPort p
    if !s.twUp p ∨ 128 ≤ x.replay.length ∨ s.live (twPg p) ≠ .running then s
    else
      let pick (vc : Nat) : Option TwFrame :=
        if x.credits.getD vc 0 = 0 then none else x.queue.find? (fun f => f.vc.val = vc)
      match (List.range 4).findSome? pick with
      | none => s
      | some f =>
        let g := { f with seq := BitVec.ofNat 16 x.next, ack := BitVec.ofNat 16 (s.ackFor p), time := s.now }
        let s := s.setTwPort p { x with
          next := (x.next + 1) % 65536, queue := x.queue.erase f, replay := x.replay ++ [g]
          credits := x.credits.zipIdx.map (fun (c, i) => if i = f.vc.val then c - 1 else c) }
        ((s.emit (.twFrame p g)).bump (twPg p) .twpTxFrames 0 1).pumpPort p fuel

/-- Lets every port send. -/
def State.pumpPorts (s : State) : State :=
  let s := (List.range 16).foldl (fun (s : State) p => s.pumpPort p 128) s
  s.pumpSems s.tw.sems []

/-- Hands frames to the ports of a peer, in turn (R329). -/
def State.sendFrames (s : State) (peer : Nat) (fs : List TwFrame) : State :=
  let up := (s.peerPorts peer).filter s.twUp
  let ports := if up.isEmpty then s.peerPorts peer else up
  if ports.isEmpty then s
  else fs.zipIdx.foldl (fun (s : State) (x : TwFrame × Nat) =>
    let p := ports.getD (x.2 % ports.length) 0
    s.setTwPort p { s.twPort p with queue := (s.twPort p).queue ++ [x.1] }) s

/-- A token or an abort goes to a peer. -/
def State.sendToken (s : State) (peer kind group gseq : Nat) : State := (s.sentTo peer).emit (.twToken peer kind group gseq)

/-- An acknowledgement of frames up to a sequence number (R334); one that a replay brought about is recorded (R377). -/
def State.twAcked (s : State) (p seq : Nat) : State :=
  let x := s.twPort p
  let r := x.replay.filter (fun f => 32768 ≤ (seq + 65536 - f.seq.toNat) % 65536)
  let went : Bool := decide (r.length < x.replay.length)
  let s := s.setTwPort p { x with replay := r, replays := if went then 0 else x.replays }
  if went ∧ 0 < x.replays then s.noted (twPg p) .eLink else s

/-- Credits come back (R335). -/
def State.twCredit (s : State) (p vc n : Nat) : State :=
  let x := s.twPort p
  s.setTwPort p { x with credits := x.credits.zipIdx.map (fun (c, i) => if i = vc then min 64 (c + n) else c) }

/-- A port sends its replay buffer again, each frame with the time of this sending (R30, R334). -/
def State.twReplay (s : State) (p : Nat) : State :=
  let x := s.twPort p
  let again := x.replay.map (fun f => { f with time := s.now })
  let s := s.setTwPort p { x with replay := again }
  again.foldl (fun (s : State) f => s.emit (.twFrame p f)) (s.bump (twPg p) .twpReplays 0 x.replay.length)

/-- A port retrains (R334). -/
def State.twRetrain (s : State) (p : Nat) : State :=
  (s.setTwState p 4).setTwPort p { s.twPort p with retrain := some s.now, replays := 0 }

/-- A port that carries frames replays those not acknowledged; once 32 consecutive replays have failed it retrains (R334). -/
def State.twAgain (s : State) (p : Nat) : State :=
  let x := s.twPort p
  if !s.twUp p ∨ x.replay.isEmpty then s
  else if 32 ≤ x.replays then s.twRetrain p
  else (s.setTwPort p { x with replays := x.replays + 1 }).twReplay p

/-- A frame of a port is not acknowledged 2 µs and twice the measured one-way delay after its latest sending (R334). -/
def State.ackLate (s : State) (p : Nat) : Bool :=
  (s.twPort p).replay.any (fun f => 8000 + 2 * s.fld (twPg p) .twpTiming 0 23 0 ≤ (s.now - f.time).toNat)

/-- REPLAY_TIMEOUT (R334): frames not acknowledged in time are replayed. -/
def execReplayTimeout (p : Fin 16) (s : State) : Host.Outcome State Fault Refusal :=
  .next (s.awake fun s => if s.ackLate p.val then s.twAgain p.val else s)

/-! ### Lanes and wavelengths (R336, R337) -/

/-- The wavelength of a lane; 7 for a lane that is lost (R354). -/
def State.laneWl (s : State) (p lane : Nat) : Nat := s.fld (twPg p) .twpStat 0 (3 * lane + 5) (3 * lane + 3)

/-- Sets the wavelength of a lane. -/
def State.setLaneWl (s : State) (p lane w : Nat) : State := s.setFld (twPg p) .twpStat 0 (3 * lane + 5) (3 * lane + 3) w

/-- A wavelength of a port has failed. -/
def State.wlFailed (s : State) (p w : Nat) : Bool := bit1 (s.rd (twPg p) .twpStat 0) (15 + w)

/-- The wavelength that carries no lane and has not failed. -/
def State.spareWl (s : State) (p : Nat) : Option Nat :=
  (List.range 5).find? (fun w => !s.wlFailed p w && (List.range 4).all (fun i => s.laneWl p i ≠ w))

/-- Lanes a port has. -/
def State.lanes (s : State) (p : Nat) : Nat := ((List.range 4).filter (fun i => s.laneWl p i ≠ 7)).length

/-- A port that carries frames runs DEGRADED from now on (R336, R355). -/
def State.twDegraded (s : State) (p : Nat) : State := if s.twUp p then (s.setTwState p 3).event (twPg p) 3 else s

/-- A port has no lane left: it is DOWN, and retrains within link_timeout or not at all (R334, R336). -/
def State.twDark (s : State) (p : Nat) : State :=
  ((s.setTwState p 0).setTwPort p { s.twPort p with retrain := some s.now }).event (twPg p) 0

/-- A wavelength fails (R336): its lane moves to the spare, or is lost. While the port's source is drained the lane may stand on the
spare already; it then stays there and the port runs DEGRADED (R351). Which it is, nothing fixes: a free value says it. -/
def State.wavelengthFails (s : State) (p w : Nat) : State :=
  if s.wlFailed p w then s
  else
    let s := s.setFld (twPg p) .twpStat 0 (15 + w) (15 + w) 1
    match (List.range 4).find? (fun i => s.laneWl p i = w) with
    | none => s
    | some i =>
      match s.spareWl p with
      | some v =>
        let (r, s) := if s.fld .tideway .twLaser (p / 4) 2 1 = 1 then s.draw else (0, s)
        let s := s.setLaneWl p i v
        if bit1 r 0 then s.twDegraded p
        else ((s.bump (twPg p) .twpLaneSpares 0 1).event (twPg p) 2).noted (twPg p) .eLink
      | none =>
        let s := s.setLaneWl p i 7
        if s.lanes p = 0 then s.twDark p else s.twDegraded p

/-- WAVELENGTH_FAIL (R336). -/
def execWavelengthFail (p : Fin 16) (w : Fin 5) (s : State) : Host.Outcome State Fault Refusal :=
  .next (s.awake fun s => s.wavelengthFails p.val w.val)

/-- RECALIBRATION (R337): a wavelength of a port that carries frames is recalibrated, in slack water (R28). The command says that
one of its two triggers has held: the module's temperature at a wavelength's last calibration is in no register (DESIGN CHOICE,
notes/assumptions/9.md). -/
def execRecalibration (p : Fin 16) (w : Fin 5) (s : State) : Host.Outcome State Fault Refusal :=
  .next (s.awake fun s => if s.slackFor 0 ∧ s.twUp p.val ∧ !s.wlFailed p.val w.val then ((s.wr (twPg p.val) .twpCalTime 0 s.now).event (twPg p.val) 5) else s)

/-- TIMING_EXCHANGE (R338): the delay and the peer's offset are published; when the port is followed, the tideline is
disciplined to its peer. -/
def execTimingExchange (p : Fin 16) (delay : BitVec 24) (off : Word) (s : State) : Host.Outcome State Fault Refusal :=
  .next (s.awake fun s => if !s.twUp p.val then s
    else
      let s := (s.sentOn p.val).bump (twPg p.val) .twpRxFrames 0 1
      let s := s.wr (twPg p.val) .twpTiming 0 (BitVec.ofNat 64 (delay.toNat + sat32 off.toInt * 2 ^ 24))
      if s.timeFollows ∧ s.fld .tideway .twCtrl 0 6 3 = p.val ∧ s.standby then
        s.disciplined ⟨false, true, true⟩ off.toInt
      else s)

/-- A port trains up (R334, R339): its neighbour's identity must be what the port's peer entries expect. One whose clock
failed stays down (R450). -/
def State.twLinkUp (s : State) (p : Nat) (id : Nat) : State :=
  if s.twUp p ∨ !bit1 (s.rd (twPg p) .twpCtrl 0) 0 ∨ s.sys.deadPorts.contains (32 + p) then s
  else
    let s := s.setFld (twPg p) .twpStat 0 63 32 id
    let wrong := (List.range 256).any (fun k => bit1 (s.rd .tideway .twPeer k) 63 && (s.peerPorts k).contains p &&
      s.fld .tideway .twPeer k 31 0 != id)
    if wrong then (s.setTwState p 0).event (twPg p) 4
    else
      -- a first training gives the lanes the wavelengths that have not failed
      let fresh := (s.twPort p).retrain.isNone && (List.range 4).all (fun i => s.laneWl p i = 0)
      let good := (List.range 5).filter (fun w => !s.wlFailed p w)
      let s := if fresh then (List.range 4).foldl (fun (s : State) i => s.setLaneWl p i (good.getD i 7)) s else s
      let s := if fresh then (List.range 5).foldl (fun (s : State) w =>
          s.setFld (twPg p) .twpStat 0 (2 * w + 21) (2 * w + 20) (p / 4)) s else s
      let again := (s.twPort p).retrain.isSome
      if s.lanes p = 0 then s else
      let s := if s.lanes p = 4 then s.setTwState p 2 else (s.setTwState p 3).event (twPg p) 3
      let s := (s.setTwPort p { s.twPort p with retrain := none }).event (twPg p) 1
      (if again then s.twReplay p else s).pumpPorts

/-- TIDEWAY_LINK_UP (R339). -/
def execTidewayLinkUp (p : Fin 16) (id : BitVec 32) (s : State) : Host.Outcome State Fault Refusal :=
  .next (s.awake fun s => s.twLinkUp p.val id.toNat)

/-! ### Lasers (R330 to R332, R352) -/

/-- The secondary source of the ports of a module (R330). -/
def secondary (m : Nat) : Nat := (m + 3) % 4

/-- State of a laser source module: 0 ACTIVE, 1 DRAINING, 2 DRAINED, 3 FAULT. -/
def State.laserState (s : State) (m : Nat) : Nat := s.fld .tideway .twLaser m 2 1

/-- A module is inserted. -/
def State.laserPresent (s : State) (m : Nat) : Bool := bit1 (s.rd .tideway .twLaser m) 0

/-- The ports whose wavelengths a module feeds. -/
def State.portsFed (s : State) (m : Nat) : List Nat :=
  (List.range 16).filter (fun p => s.fld (twPg p) .twpStat 0 21 20 = m ∧ (p / 4 = m ∨ secondary (p / 4) = m))

/-- Sets ports_fed of every module, and lasers_present (R352). -/
def State.laserCounts (s : State) : State :=
  (List.range 4).foldl (fun (s : State) m =>
    let s := s.setFld .tideway .twLaser m 30 27 (if s.laserPresent m then (s.portsFed m).length else 0)
    s.setFld .tideway .twStat 0 (32 + m) (32 + m) (if s.laserPresent m then 1 else 0)) s

/-- Moves the ports of a module to a source. -/
def State.moveSource (s : State) (m src : Nat) : State :=
  ((List.range 4).foldl (fun (s : State) i =>
    (List.range 5).foldl (fun (s : State) w => s.setFld (twPg (4 * m + i)) .twpStat 0 (2 * w + 21) (2 * w + 20) src) s) s).laserCounts

/-- The secondary source of a module can take its ports: it is ACTIVE and feeds no other module's ports (R331). -/
def State.secondaryFree (s : State) (m : Nat) : Bool :=
  let k := secondary m
  s.laserPresent k && s.laserState k == 0 && (s.portsFed k).all (fun p => p / 4 == k || p / 4 == m)

/-- A module can be drained: it is present and ACTIVE, and its secondary source is free (R331). -/
def State.mayDrain (s : State) (m : Nat) : Bool := s.laserPresent m && s.laserState m == 0 && s.secondaryFree m

/-- A drain is asked (R331). -/
def State.laserDrain (s : State) (m : Nat) : State :=
  if !s.mayDrain m then s.ignore .tideway
  else s.setFld .tideway .twLaser m 2 1 1

/-- A restore is asked (R331): a present module takes its ports back. -/
def State.laserRestore (s : State) (m : Nat) : State :=
  if !s.laserPresent m ∨ s.laserState m = 3 then s else (s.setFld .tideway .twLaser m 2 1 0).moveSource m m

/-- LASER_DRAIN (R331). -/
def execLaserDrain (m : Fin 4) (s : State) : Host.Outcome State Fault Refusal := .next (s.awake fun s => s.laserDrain m.val)
/-- LASER_RESTORE (R331). -/
def execLaserRestore (m : Fin 4) (s : State) : Host.Outcome State Fault Refusal := .next (s.awake fun s => s.laserRestore m.val)

/-- LASER_DRAINED (R331): every port of the module is moved, in slack water. -/
def execLaserDrained (m : Fin 4) (s : State) : Host.Outcome State Fault Refusal :=
  .next (s.awake fun s => if s.slackFor 0 ∧ s.laserPresent m.val ∧ s.laserState m.val = 1 then
      ((s.setFld .tideway .twLaser m.val 2 1 2).moveSource m.val (secondary m.val)).event .tideway 1
    else s)

/-- The ports of a module lose their light, and go down with their frames undelivered (R332). -/
def State.portsDark (s : State) (m : Nat) : State :=
  (List.range 4).foldl (fun (s : State) i =>
    let p := 4 * m + i
    if s.twUp p then s.twDark p else s) s

/-- A module fails, or is removed without a drain (R332). -/
def State.laserFails (s : State) (m : Nat) (removed : Bool) : State :=
  if !s.laserPresent m then s
  else
    let fed := (s.portsFed m).map (· / 4)
    let drained := s.laserState m = 2
    let s := if removed then s.wr .tideway .twLaser m 0 else s.setFld .tideway .twLaser m 2 1 3
    let s := if drained then s.laserCounts
      else
        -- the module's own ports go to their secondary source; ports it fed for another module have none left
        let s := if fed.contains m then (if s.secondaryFree m then s.moveSource m (secondary m) else s.portsDark m) else s
        let k := (m + 1) % 4
        let s := if fed.contains k then s.portsDark k else s
        s.laserCounts
    if removed ∧ drained then s else s.event .tideway 0

/-- LASER_FAILURE (R332). -/
def execLaserFailure (m : Fin 4) (removed : Bool) (s : State) : Host.Outcome State Fault Refusal :=
  .next (s.laserFails m.val removed)

/-- LASER_INSERT (R484): a module is inserted; its output and temperature are what they are. -/
def execLaserInsert (m : Fin 4) (output : BitVec 16) (temp : BitVec 8) (s : State) : Host.Outcome State Fault Refusal :=
  .next (if s.laserPresent m.val then s
    else (s.wr .tideway .twLaser m.val (BitVec.ofNat 64 (1 + output.toNat * 8 + temp.toNat * 2 ^ 19))).laserCounts)

/-- A write of TW_CTRL (R352): one that asks for a drain which cannot be is ignored whole (R331, R490). -/
def State.twCtrlWrite (s : State) (v : Word) : State :=
  if bits v 24 23 = 1 ∧ !s.mayDrain (bits v 26 25) then s.ignore .tideway
  else
    let s := if bit1 v 0 then s.clearCounters .tideway else s
    let s := s.wrRw .tideway .twCtrl 0 v
    match bits v 24 23 with
    | 1 => s.laserDrain (bits v 26 25)
    | 2 => s.laserRestore (bits v 26 25)
    | _ => s

/-! ### Remote semaphores (R346, R347) -/

/-- REMOTE_SEMAPHORE_FRAME (R346): an operation of a neighbour on a global semaphore is applied in order of arrival and
answered; a fault releases the semaphore's waiters. -/
def execRemoteSemaphoreFrame (p : Fin 16) (op : TwSem) (index : BitVec 16) (amount : BitVec 48) (s : State) :
    Host.Outcome State Fault Refusal :=
  .next (s.awake fun s => if !s.twUp p.val then s
    else
      let s := s.bump (twPg p.val) .twpRxFrames 0 1
      let s := { s with tw := { s.tw with remote := FMap.set 0 s.tw.remote index.toNat (p.val + 1) } }
      match op with
      | .fault => ((s.faultSem true 0 index.toNat).sentOn p.val).emit (.twAnswer p.val .ok)
      | o =>
        let (st, s) := s.semOp (o == .sub) true 0 index.toNat amount.toNat false
        (s.settled.sentOn p.val).emit (.twAnswer p.val st))

/-- A WAIT_GE of some queue waits on a global semaphore, or a collective does. -/
def State.hasWaiters (s : State) (i : Nat) : Bool :=
  s.cores.any (fun c => c.2.queues.any (fun q => q.2.state == .waiting && (match q.2.flights.getLast? with
    | some f => f.ins.opcode == opWaitGe && f.ins.semScope && f.ins.semIndex == i
    | none => false))) ||
  s.tw.colls.any (fun x => match x.2 with
    | some c => !c.running && c.status == .ok && bits (c.words.getD 5 0) 15 0 == i
    | none => false)

/-- A port that has failed faults every semaphore with waiters whose latest remote operation came through it (R347). -/
def State.faultRemote (s : State) (p : Nat) : State :=
  (s.tw.remote.filter (fun x => x.2 = p + 1)).foldl (fun (s : State) x =>
    if s.hasWaiters x.1 ∧ !semFaulted (s.sem true 0 x.1) then (s.faultSem true 0 x.1).bump .tideway .twSemFaults 0 1 else s) s

end Sys2Proof.Machine
end

