-- ==== Sys2Proof/Machine/Chain.lean ====
section
/-! DEFINITION. Fused chains: the chain table, the checks of an entry, and what its stages compute (R123 to R130, R133,
R137 to R141). -/

namespace Sys2Proof.Machine

/-- A stage descriptor (R124). -/
structure Stage where
  op : Nat
  fmt : Nat
  srcA : Nat
  srcB : Nat
  hold : Bool
  holdOut : Nat
  holdIn : Nat
  axis : Bool
  vecWrite : Bool
  statAcc : Bool
  slot : Nat
  release : Bool
  rms : Bool
  causal : Bool
  halo : Bool
  reserved : Bool
  param : Nat
  deriving DecidableEq, Repr

/-- A stage word, field by field (R124). -/
def Stage.ofWord (w : Word) : Stage :=
  { op := bits w 5 0, fmt := bits w 9 6, srcA := bits w 11 10, srcB := bits w 14 12, hold := bit1 w 15,
    holdOut := bits w 17 16, holdIn := bits w 19 18, axis := bit1 w 20, vecWrite := bit1 w 21, statAcc := bit1 w 22,
    slot := bits w 26 23, release := bit1 w 27, rms := bit1 w 28, causal := bit1 w 29, halo := bit1 w 30,
    reserved := bit1 w 31, param := bits w 63 32 }

/-- The 64-byte-unit address in param, as a Ledge byte offset. -/
def Stage.addr (g : Stage) : Nat := g.param % 2 ^ 18 * 64
/-- The format code in param. -/
def Stage.pfmt (g : Stage) : Nat := g.param / 2 ^ 18 % 16
/-- STAT: chunk_base. -/
def Stage.chunkBase (g : Stage) : Nat := g.param % 2 ^ 10
/-- STAT: chunks_total. -/
def Stage.chunksTotal (g : Stage) : Nat := g.param / 2 ^ 10 % 2 ^ 9 + 1
/-- DWCONV: taps. -/
def Stage.taps (g : Stage) : Nat := g.param / 2 ^ 22 % 2 ^ 5 + 1
/-- DWCONV: spacing. -/
def Stage.dil (g : Stage) : Nat := 2 ^ (g.param / 2 ^ 27 % 2 ^ 3)
/-- DWCONV: channels in a group. -/
def Stage.group (g : Stage) : Nat := 2 ^ (g.param / 2 ^ 30)

/-- A two-operand operation (R124). -/
def Stage.two (g : Stage) : Bool := 1 ≤ g.op && g.op ≤ 5
/-- A function operation (R124). -/
def Stage.isFn (g : Stage) : Bool := 0x10 ≤ g.op && g.op ≤ 0x17
/-- A reduction (R124). -/
def Stage.isRed (g : Stage) : Bool := 0x20 ≤ g.op && g.op ≤ 0x23
/-- The stage gathers statistics. -/
def Stage.isStat (g : Stage) : Bool := g.op == 0x28
/-- The stage normalises. -/
def Stage.isNorm (g : Stage) : Bool := g.op == 0x29
/-- The stage convolves. -/
def Stage.isConv (g : Stage) : Bool := g.op == 0x30
/-- The operation code is listed (R124). -/
def Stage.listed (g : Stage) : Bool :=
  g.op ≤ 5 || g.isFn || g.isRed || g.isStat || g.isNorm || g.isConv

/-- The stage reads a source; src_b counts only where the operation takes two operands. -/
def Stage.reads (g : Stage) (a b : Nat) : Bool :=
  (!g.isConv && g.srcA == a) || (g.two && g.srcB == b)
/-- The stage reads SRC2. -/
def Stage.readsSrc2 (g : Stage) : Bool := g.reads 2 2
/-- The stage reads HOLD. -/
def Stage.readsHold (g : Stage) : Bool := g.reads 3 3
/-- The stage reads COL, ROW, IMM or RED. -/
def Stage.readsB (g : Stage) (b : Nat) : Bool := g.two && g.srcB == b

/-- A chain entry (R123). -/
structure Chain where
  n : Nat
  inFmt : Nat
  srBase : Nat
  gateEn : Bool
  gateSc : Nat
  gateSem : Nat
  proChain : Nat
  reserved : Bool
  stages : List Stage
  deriving DecidableEq, Repr

/-- Ledge byte offset of chain entry i (R123). -/
def State.chainOff (s : State) (c : Fin 36) (i : Nat) : Nat :=
  64 * s.fld (.sequencer c) .seqChainBase 0 17 0 + 128 * i

/-- The entry lies inside the Ledge (R123). -/
def State.chainInside (s : State) (c : Fin 36) (i : Nat) : Bool := i = 0 || inLedge (s.chainOff c i) 128

/-- The sixteen words of chain entry i (R123). An entry that does not lie inside the Ledge is not read: check 4 stops on it. -/
def State.chainWords (s : State) (c : Fin 36) (i : Nat) : List Word :=
  if i = 0 || !s.chainInside c i then [] else (List.range 16).map (fun j => s.word (ledgeAt c (s.chainOff c i + 8 * j)))

/-- A chain entry from its words; entry 0, which is not read, is one PASS stage (R123). -/
def Chain.ofWords (ws : List Word) : Chain :=
  if ws.isEmpty then ⟨1, 0, 0, false, 0, 0, 0, false, [Stage.ofWord 0]⟩
  else
    let h := ws.getD 0 0
    let n := bits h 3 0
    { n := n, inFmt := bits h 7 4, srBase := bits h 10 8, gateEn := bit1 h 11, gateSc := bits h 15 12,
      gateSem := bits h 27 16, proChain := bits h 35 28,
      reserved := bits h 63 36 ≠ 0 || (ws.drop 9).any (· ≠ 0),
      stages := ((ws.drop 1).take (min n 8)).map Stage.ofWord }

/-- Chain entry i as it stands in the Ledge. -/
def State.chain (s : State) (c : Fin 36) (i : Nat) : Chain := Chain.ofWords (s.chainWords c i)

/-- A format code that a stage or a stage operand may name: listed, and not X96 (R125). -/
def stageFmtOk (n : Nat) : Bool := match Fmt.ofCode n with | some .x96 => false | some _ => true | none => false

/-- Stage k of a chain passes the first check (R125): `last` is its place, `earlier` the stages before it. -/
def Stage.ok (g : Stage) (k : Nat) (last : Bool) (earlier : List Stage) : Bool :=
  g.listed && !g.reserved &&
  (last || (stageFmtOk g.fmt && g.fmt ≠ 5)) &&
  (g.isConv || !(g.srcA == 3) || earlier.any (fun e => e.hold && e.holdOut == g.holdIn)) &&
  (!(g.readsB 3) || earlier.any (fun e => e.hold && e.holdOut == g.holdIn)) &&
  (!(g.readsB 7) || earlier.any Stage.isRed) &&
  (!(g.readsB 4 || g.readsB 5) || stageFmtOk g.pfmt) &&
  (!g.isConv || (k = 1 && stageFmtOk g.pfmt && (g.causal || g.taps % 2 = 1))) &&
  (!g.vecWrite || g.isRed)

/-- The first stage of an epilogue that reads SRC2 names its format, and reads no other parameter (R124, R125). -/
def epilogueSrc2Ok (stages : List Stage) : Bool :=
  match stages.find? Stage.readsSrc2 with
  | some g => stageFmtOk g.pfmt && !(g.readsB 4 || g.readsB 5 || g.readsB 6 || g.vecWrite)
  | none => true

/-- The stages of a chain pass the first check of R95 (R125). -/
def Chain.stagesOk (h : Chain) : Bool :=
  h.n ≤ 8 && h.srBase + h.n ≤ 8 && !h.reserved &&
  (List.range h.stages.length).all (fun k =>
    (h.stages.getD k (Stage.ofWord 0)).ok (k + 1) (k + 1 == h.stages.length) (h.stages.take k))

/-- An entry named as a prologue is within the limits of R133. Its in_fmt field is not checked: a prologue takes A in the product's
a_fmt (DEDUCED, notes/assumptions/66.md). -/
def Chain.prologueOk (h : Chain) : Bool :=
  (h.n = 1 || h.n = 2) && h.stagesOk && !h.gateEn && h.proChain = 0 &&
  h.stages.all (fun g => (g.op ≤ 5 || g.isFn || g.isNorm) && (g.srcA ≤ 1) &&
    (!g.two || g.srcB ≤ 1 || g.srcB = 4 || g.srcB = 6) && !g.vecWrite)

/-! ### Deferred row statistics (R137 to R139) -/

/-- Ledge byte offset and size of a statistics slot, if it is one (R137). -/
def State.slotAt (s : State) (c : Fin 36) (i : Nat) : Option (Nat × Nat) :=
  let w := s.rd (.vector c) .statRegion 0
  let size := bits w 15 8 * 65536
  if i < min (bits w 20 16) 16 ∧ 0 < size then some (bits w 7 0 * 65536 + i * size, size) else none

/-- Bytes of a slot image of some chunks and rows (R137). -/
def slotBytes (chunks rows : Nat) : Nat := 64 + 8 * chunks * rows

/-- The header of a slot: state, chunks_total and rows (R137). -/
def State.slotHeader (s : State) (c : Fin 36) (off : Nat) : Nat × Nat × Nat :=
  let w := s.word (ledgeAt c off)
  (bits w 7 0, bits w 23 8, bits w 47 24)

/-- x divided by a nonzero whole number, rounded to FP32 by RNE. -/
def divRne (x : FVal) (n : Nat) : FVal :=
  match x with
  | .fin neg m e => rneQ neg m n e
  | y => y

/-- The FP32 factor pair (mean, scale) of row r from its chunk records (R139). -/
def State.rowFactors (s : State) (c : Fin 36) (off : Nat) (rms : Bool) (eps : BitVec 32) (r : Nat) : FVal × FVal :=
  let (_, chunks, rows) := s.slotHeader c off
  let rec_ (q : Nat) : Nat := (s.word (ledgeAt c (off + 64 + 8 * (q * rows + r)))).toNat
  let lo (q : Nat) : FVal := f32 (BitVec.ofNat 32 (rec_ q % 2 ^ 32))
  let hi (q : Nat) : FVal := f32 (BitVec.ofNat 32 (rec_ q / 2 ^ 32))
  let sum := (List.range chunks).foldl (fun a q => (a.add (lo q)).rne) FVal.zero
  let sq := (List.range chunks).foldl (fun a q => (a.add (hi q)).rne) FVal.zero
  let n := 64 * chunks
  let mu := divRne sum n
  let qn := divRne sq n
  let v := if rms then qn else FVal.zero.max (qn.sub (mu.mul mu).rne).rne
  (mu, fnRsqrt (v.add (f32 eps)).rne)

/-! ### Running the stages -/

/-- Where a chain takes its operands: the second source, the core and the planned shape. -/
structure ChainIn where
  core : Fin 36
  sr : SrIn
  point : Nat
  /-- The second source, already read (R124). -/
  src2 : Mat
  /-- The accumulator values of the region, for STAT with stat_acc (R138). -/
  acc : Mat
  /-- Rows before and after the region, read with halo (R141): value of row i - halo, if it is readable. -/
  input : Int → Nat → FVal
  plannedM : Nat

/-- What a chain leaves: its last result, the holds, the last reduction, and the Ledge bytes it writes on the way and
at completion. -/
structure ChainOut where
  cur : Mat
  holds : List (Nat × Mat)
  red : Bool × List FVal
  redOp : Nat
  writes : List (Nat × List Byte)
  atEnd : List (Nat × List Byte)
  deriving Repr

/-- The function a code names (R124, R126). -/
def fnOf (op : Nat) : FVal → FVal :=
  match op with
  | 0x10 => fnExp | 0x11 => fnLog | 0x12 => fnRcp | 0x13 => fnRsqrt | 0x14 => fnTanh | 0x15 => fnSigmoid
  | 0x16 => fnGelu | 0x17 => fnSilu | _ => id

/-- The exact result of a two-operand operation (R124, R126). -/
def arith (op : Nat) (a b : FVal) : FVal :=
  match op with
  | 1 => a.add b | 2 => a.sub b | 3 => a.mul b | 4 => a.max b | 5 => a.min b | _ => a

/-- A reduction of a list of values (R129). -/
def reduceList (op : Nat) (xs : List FVal) : FVal :=
  match op with
  | 0x20 => chunkSum xs
  | 0x21 => chunkSum (squares xs)
  | 0x22 => (maxOf xs).rne
  | _ => (minOf xs).rne

/-- A reduction of a matrix along each row (axis 0) or each column (axis 1) (R129). -/
def reduceMat (op : Nat) (axis : Bool) (cols : Nat) (m : Mat) : List FVal :=
  if axis then (List.range cols).map (fun j => reduceList op (m.col j)) else m.map (reduceList op)

/-- FP32 bytes of a vector. -/
def vecBytes (xs : List FVal) : List Byte := (xs.map (fun x => leBytes (rne32 x).toNat 4)).flatten

/-- The convolution of the chain input at row r, column c (R141). -/
def State.conv (s : State) (x : ChainIn) (g : Stage) (r cl : Nat) (cols : Nat) : FVal :=
  let f := (Fmt.ofCode g.pfmt).getD .fp32
  let w := s.readVec f (ledgeAt x.core g.addr) (g.taps * cols * g.group)
  exactSum ((List.range g.taps).flatMap (fun t => (List.range g.group).map (fun j =>
    let o : Int := if g.causal then -(t * g.dil : Nat) else ((t : Int) - ((g.taps - 1) / 2 : Nat)) * g.dil
    (w.getD ((t * cols + cl) * g.group + j) FVal.zero).mul (x.input ((r : Int) + o) (g.group * (cl / g.group) + j)))))

/-- The statistics records a STAT stage writes (R138). -/
def State.statWrites (s : State) (x : ChainIn) (g : Stage) (m : Mat) : List (Nat × List Byte) :=
  match s.slotAt x.core g.slot with
  | none => []
  | some (off, _) =>
    let rows := ceilDiv x.plannedM 64 * 64
    m.zipIdx.flatMap (fun (r, i) => (chunksOf 64 r (r.length + 1)).zipIdx.map (fun (ch, q) =>
      (off + 64 + 8 * ((g.chunkBase + q) * rows + i), vecBytes [exactSum ch, exactSum (squares ch)])))

/-- The header a STAT stage writes at completion: FILLED, chunks_total and rows (R138). -/
def State.statHeader (s : State) (x : ChainIn) (g : Stage) : List (Nat × List Byte) :=
  match s.slotAt x.core g.slot with
  | none => []
  | some (off, _) =>
    [(off, leBytes (1 + g.chunksTotal * 256 + ceilDiv x.plannedM 64 * 64 % 2 ^ 24 * 2 ^ 24) 64)]

/-- One stage of a chain (R124 to R130, R138, R139, R141). `outFmt` is the format of its result. -/
def State.stage (s : State) (x : ChainIn) (inp : Mat) (g : Stage) (k : Nat) (outFmt : Fmt) (o : ChainOut) : ChainOut :=
  let cols := (inp.headD []).length
  let holdM := ((o.holds.filter (fun p => p.1 = g.holdIn)).getLast?.map (·.2)).getD []
  let src (n : Nat) : Mat := match n with | 0 => o.cur | 1 => inp | 2 => x.src2 | _ => holdM
  let pf := (Fmt.ofCode g.pfmt).getD .fp32
  let a := src g.srcA
  let colV := if g.readsB 4 then s.readVec pf (ledgeAt x.core g.addr) cols else []
  let rowV := if g.readsB 5 then s.readVec pf (ledgeAt x.core g.addr) inp.length else []
  let b (i j : Nat) : FVal :=
    match g.srcB with
    | 4 => colV.getD j FVal.zero
    | 5 => rowV.getD i FVal.zero
    | 6 => f32 (BitVec.ofNat 32 g.param)
    | 7 => if o.red.1 then o.red.2.getD j FVal.zero else o.red.2.getD i FVal.zero
    | n => (src n).at i j
  let fac := if g.isNorm then
      (match s.slotAt x.core g.slot with
       | some (off, _) => (List.range inp.length).map (s.rowFactors x.core off g.rms (BitVec.ofNat 32 g.param))
       | none => [])
    else []
  let exact : Mat :=
    if g.two then a.mapIdx (fun i j v => arith g.op v (b i j))
    else if g.isFn then a.mapIdx (fun _ _ v => fnOf g.op v)
    else if g.isNorm then a.mapIdx (fun i _ v =>
      let (mu, f) := fac.getD i (FVal.zero, FVal.zero)
      if g.rms then v.mul f else (v.sub mu).mul f)
    else if g.isConv then Mat.build inp.length cols (fun i j => s.conv x g i j cols)
    else a
  let res := exact.roundTo outFmt x.sr (x.point + k)
  let red := if g.isRed then (g.axis, reduceMat g.op g.axis cols res) else o.red
  let statSrc := if g.statAcc then x.acc.mapIdx (fun _ _ v => v.rne) else res
  { cur := res
    holds := if g.hold then o.holds ++ [(g.holdOut, res)] else o.holds
    red := red
    redOp := if g.isRed then g.op else o.redOp
    writes := o.writes ++
      (if g.vecWrite && !g.axis then [(g.addr, vecBytes red.2)] else []) ++
      (if g.isStat then s.statWrites x g statSrc else [])
    atEnd := o.atEnd ++
      (if g.vecWrite && g.axis then [(g.addr, vecBytes red.2)] else []) ++
      (if g.isStat then s.statHeader x g else []) ++
      (if g.isNorm && g.release then
        (match s.slotAt x.core g.slot with | some (off, _) => [(off, [0#8])] | none => []) else []) }

/-- Runs the stages of a chain over a region, the last into the output format (R124). -/
def State.runStages (s : State) (x : ChainIn) (inp : Mat) (outFmt : Fmt) : List Stage → Nat → ChainOut → ChainOut
  | [], _, o => o
  | [g], k, o => s.stage x inp g k outFmt o
  | g :: r, k, o => s.runStages x inp outFmt r (k + 1) (s.stage x inp g k ((Fmt.ofCode g.fmt).getD .fp32) o)

/-- Runs a chain over a region. -/
def State.runChain (s : State) (x : ChainIn) (inp : Mat) (outFmt : Fmt) (stages : List Stage) : ChainOut :=
  s.runStages x inp outFmt stages 1 { cur := inp, holds := [], red := (false, []), redOp := 0, writes := [], atEnd := [] }

/-- The scalar summary of the last reduction (R130). -/
def ChainOut.summary (o : ChainOut) : Word :=
  let v := match o.redOp with
    | 0x20 => chunkSum o.red.2
    | 0x21 => chunkSum o.red.2
    | 0x22 => maxOf o.red.2
    | _ => minOf o.red.2
  (rne32 v).setWidth 64

/-- Stores the Ledge bytes a chain writes on the way. -/
def State.chainWrites (s : State) (c : Fin 36) (l : List (Nat × List Byte)) : State :=
  l.foldl (fun (s : State) p => s.store (ledgeAt c p.1) p.2) s

/-! ### What a chain touches and needs (R88, R140) -/

/-- Tile registers a chain instance works in (R140): n_c * (2 + H + s). -/
def chainRegs (stages : List Stage) (cols : Nat) : Nat :=
  let nc := if stages.any (fun g => g.isRed && !g.axis) then ceilDiv cols 64 else 1
  let h := ((stages.filter (·.hold)).map (·.holdOut)).dedup.length
  nc * (2 + h + (if stages.any Stage.readsSrc2 then 1 else 0))

/-- The Ledge ranges a chain's stages read, in a core (R88). -/
def State.chainReads (s : State) (c : Fin 36) (stages : List Stage) (rows cols : Nat) : List (Nat × Nat) :=
  stages.flatMap (fun g =>
    let pf := (Fmt.ofCode g.pfmt).getD .fp32
    (if g.readsB 4 then [(ledgeAt c g.addr, pf.rowBytes cols)] else []) ++
    (if g.readsB 5 then [(ledgeAt c g.addr, pf.rowBytes rows)] else []) ++
    (if g.isConv then [(ledgeAt c g.addr, pf.rowBytes (g.taps * cols * g.group))] else []) ++
    (if g.isNorm then (match s.slotAt c g.slot with | some (o, n) => [(ledgeAt c o, n)] | none => []) else []))

/-- The Ledge ranges a chain's stages write beside the destination (R88). -/
def State.chainStores (s : State) (c : Fin 36) (stages : List Stage) (rows cols : Nat) : List (Nat × Nat) :=
  stages.flatMap (fun g =>
    (if g.vecWrite then [(ledgeAt c g.addr, 4 * (if g.axis then cols else rows))] else []) ++
    (if g.isStat || (g.isNorm && g.release) then
      (match s.slotAt c g.slot with | some (o, n) => [(ledgeAt c o, n)] | none => []) else []))

/-- The address checks of a chain's slots: a slot is one of the region's, inside the Ledge, and the image that a NORM reads, of
the chunks and rows its header gives, is no larger than the slot (R137). -/
def State.chainSlotsOk (s : State) (c : Fin 36) (stages : List Stage) : Bool :=
  stages.all (fun g =>
    !(g.isStat || g.isNorm) ||
    (match s.slotAt c g.slot with
     | some (o, n) =>
       let (_, chunks, rows) := s.slotHeader c o
       inLedge o n && (!g.isNorm || decide (slotBytes chunks rows ≤ n))
     | none => false))

/-- The Ledge a chain needs fits: a column vector within the Ledge, and a slot image within its slot (R140). -/
def State.chainRoomOk (s : State) (c : Fin 36) (stages : List Stage) (rows cols : Nat) : Bool :=
  stages.all (fun g =>
    (!(g.vecWrite && g.axis) || inLedge g.addr (4 * cols)) &&
    (!g.isStat || (match s.slotAt c g.slot with
     | some (_, n) => slotBytes g.chunksTotal (ceilDiv rows 64 * 64) ≤ n
     | none => true)))

/-- The vectors and filters a chain names lie inside the Ledge (R95, check 4). -/
def chainAddrOk (stages : List Stage) (rows cols : Nat) : Bool :=
  stages.all (fun g =>
    let pf := (Fmt.ofCode g.pfmt).getD .fp32
    (!g.readsB 4 || inLedge g.addr (pf.rowBytes cols)) && (!g.readsB 5 || inLedge g.addr (pf.rowBytes rows)) &&
    (!g.isConv || inLedge g.addr (pf.rowBytes (g.taps * cols * g.group))) &&
    (!(g.vecWrite && !g.axis) || inLedge g.addr (4 * rows)))

/-- A 4-bit vector or filter that a chain reads has an even planned count along its innermost axis: the columns, the rows, or the
members of a filter's group (R40, R141). -/
def chainEvenOk (stages : List Stage) (rows cols : Nat) : Bool :=
  stages.all (fun g => !((Fmt.ofCode g.pfmt).getD .fp32).packed ||
    ((!g.readsB 4 || cols % 2 = 0) && (!g.readsB 5 || rows % 2 = 0) && (!g.isConv || g.group % 2 = 0)))

/-- A grouped convolution's column count is a multiple of its group (R141). -/
def chainColsOk (stages : List Stage) (cols : Nat) : Bool := stages.all (fun g => !g.isConv || cols % g.group = 0)

/-- Part of a row of n elements at a Ledge offset, from element `first` on, holds an uncorrectable word: its element bytes,
or the E8M0 scales of its blocks (R40, R239). -/
def State.rowPartBad (s : State) (c : Fin 36) (f : Fmt) (off n first count : Nat) : Bool :=
  (s.badIn (ledgeAt c (off + first * f.width / 8)) (ceilDiv (count * f.width) 8)).isSome ||
  (f == .e2m1 && (s.badIn (ledgeAt c (off + ceilDiv (n * f.width) 8 + first / 32)) (ceilDiv count 32)).isSome)

/-- Tile (a, b) of a chain meets an uncorrectable word in a vector, a filter or a slot it reads (R239). -/
def State.chainTileBad (s : State) (c : Fin 36) (stages : List Stage) (rows cols a b : Nat) : Bool :=
  stages.any (fun g =>
    let part (len first n : Nat) : Bool := s.rowPartBad c ((Fmt.ofCode g.pfmt).getD .fp32) g.addr len first n
    (g.readsB 4 && part cols (64 * b) (min 64 (cols - 64 * b))) ||
    (g.readsB 5 && part rows (64 * a) (min 64 (rows - 64 * a))) ||
    (g.isConv && part (g.taps * cols * g.group) 0 (g.taps * cols * g.group)) ||
    (g.isNorm && (match s.slotAt c g.slot with
      | some (o, _) =>
        let (_, chunks, r) := s.slotHeader c o
        (s.badIn (ledgeAt c o) 64).isSome || (List.range chunks).any (fun q =>
          (s.badIn (ledgeAt c (o + 64 + 8 * (q * r + 64 * a))) (8 * min 64 (rows - 64 * a))).isSome)
      | none => false)))

/-- The words of a chain entry hold an uncorrectable error (R239). -/
def State.chainEntryBad (s : State) (c : Fin 36) (i : Nat) : Bool :=
  i ≠ 0 && s.chainInside c i && (s.badIn (ledgeAt c (s.chainOff c i)) 128).isSome

/-- A slot that a NORM stage reads is filled for enough rows, and in a prologue for enough columns (R139). -/
def State.slotFilled (s : State) (c : Fin 36) (stages : List Stage) (rows minCols : Nat) : Bool :=
  stages.all (fun g =>
    !g.isNorm ||
    (match s.slotAt c g.slot with
     | some (o, _) =>
       let (st, chunks, r) := s.slotHeader c o
       st == 1 && rows ≤ r && minCols ≤ 64 * chunks
     | none => false))

end Sys2Proof.Machine
end

