-- ==== Sys2Proof/Machine/Arrays.lean ====
section
/-! DEFINITION. The cube arrays: MATMUL with its checks, its product, its drain and its footprint, weight loads, arrival
gates, and the score store as a product's destination (R57 to R76, R82, R83, R91, R95, R103 to R109, R131 to R136,
R146 to R151). -/

namespace Sys2Proof.Machine

/-- The fields of a MATMUL (R82), shapes already plus one, Ledge offsets in bytes. -/
structure Mm where
  act : Nat
  wt : Nat
  out : Nat
  array : Nat
  accMode : Nat
  keep : Bool
  bank : Nat
  bankExpect : Bool
  transposed : Bool
  actScore : Bool
  outScore : Bool
  m : Nat
  n : Nat
  k : Nat
  aF : Nat
  wF : Nat
  oF : Nat
  actStride : Nat
  outStride : Nat
  accUnit : Nat
  chainId : Nat
  l2 : Nat
  l1 : Nat
  tm : Nat
  tn : Nat
  deriving DecidableEq, Repr

/-- The MATMUL fields of an instruction (R82). -/
def Mm.of (i : Ins) : Mm :=
  { act := bits i.w1 17 0 * 64, wt := bits i.w1 35 18 * 64, out := bits i.w1 53 36 * 64, array := bits i.w1 54 54,
    accMode := bits i.w1 56 55, keep := bit1 i.w1 57, bank := bits i.w1 58 58, bankExpect := bit1 i.w1 59,
    transposed := bit1 i.w1 60, actScore := bit1 i.w1 61, outScore := bit1 i.w1 62,
    m := bits i.w2 15 0 + 1, n := bits i.w2 29 16 + 1, k := bits i.w2 45 30 + 1,
    aF := bits i.w2 49 46, wF := bits i.w2 53 50, oF := bits i.w2 57 54,
    actStride := bits i.w3 15 0 * 64, outStride := bits i.w3 31 16 * 64, accUnit := bits i.w3 37 32,
    chainId := bits i.w3 45 38, l2 := bits i.w3 48 46, l1 := bits i.w3 51 49,
    tm := bits i.w3 57 52, tn := bits i.w3 63 58 }

/-- The formats of a MATMUL, where they are listed. -/
def Mm.fa (x : Mm) : Fmt := (Fmt.ofCode x.aF).getD .fp32
def Mm.fw (x : Mm) : Fmt := (Fmt.ofCode x.wF).getD .fp32
def Mm.fo (x : Mm) : Fmt := (Fmt.ofCode x.oF).getD .fp32
/-- The kind of the operand pair. -/
def Mm.kind (x : Mm) : PairKind := (pairKind x.fa x.fw).getD .fp
/-- The tiles are X96 (R67). -/
def Mm.exact (x : Mm) : Bool := x.kind == .exact
/-- Units of an output tile (R70). -/
def Mm.u (x : Mm) : Nat := if x.exact then 3 else 1
/-- Planned row tiles and column tiles (R106). -/
def Mm.mt (x : Mm) : Nat := ceilDiv x.m 64
def Mm.nt (x : Mm) : Nat := ceilDiv x.n 64
/-- L2 tile extents, clipped (R106). -/
def Mm.tmE (x : Mm) : Nat := if x.tm = 0 then x.mt else min x.tm x.mt
def Mm.tnE (x : Mm) : Nat := if x.tn = 0 then x.nt else min x.tn x.nt

/-- The footprint of a product (R70, R106, R107). -/
def Mm.footprint (x : Mm) : Nat :=
  x.u * (if x.keep || x.accMode == 1 then x.mt * x.nt
         else match x.l2 with
           | 0 | 1 => x.tmE * x.tnE
           | 2 => x.tmE * x.nt
           | 3 => x.mt * x.tnE
           | _ => x.mt * x.nt)

/-- Address of weight block (kb, nb) when the K extent is k (R82). -/
def Mm.blockAddr (x : Mm) (k kb nb : Nat) : Nat :=
  x.wt + (nb * ceilDiv k (blockK x.fa x.fw) + kb) * blockBytes x.fa x.fw

/-- The tag of a weight block (R61). -/
def Mm.tag (x : Mm) (addr : Nat) : BankTag := ⟨addr, x.wF, x.transposed, blockK x.fa x.fw⟩

/-- Any reserved bit of a MATMUL is set (R82). -/
def mmReserved (i : Ins) : Bool := bits i.w0 63 61 ≠ 0 || bit1 i.w1 63 || bits i.w2 63 58 ≠ 0

/-- Accumulator units of an array occupied by others than a queue's own instructions in flight. -/
def Core.heldUnits (k : Core) (a q : Nat) : List Nat :=
  { k with queues := k.queues.filter (fun p => p.1 ≠ q) }.occupied a

/-- The tiles a CONTINUE goes on with (R68, R107). -/
def Core.keptMatch (k : Core) (q : Nat) (x : Mm) : Option KeptTiles :=
  (k.arr x.array).kept.find? (fun t =>
    t.queue = q ∧ t.unit = x.accUnit ∧ t.m = x.m ∧ t.n = x.n ∧ t.exact = x.exact)

/-- The units available to a product: the 48 less those of carried state and of tiles kept for a CONTINUE, its own among them
(R70, R107). -/
def Core.available (k : Core) (q : Nat) (x : Mm) : Nat :=
  48 - (k.keptUnits x.array).length + (if x.accMode = 1 then (k.keptMatch q x).elim 0 (fun t => t.span.length) else 0)

/-- The product spills (R71). -/
def State.spills (s : State) (c : Fin 36) (q : Nat) (x : Mm) : Bool :=
  !(x.keep || x.accMode == 1) && (s.core c).available q x < x.footprint

/-- Tiles of a spilled product that stay resident (R71). -/
def Mm.pinned (x : Mm) (avail : Nat) : Nat := (avail - 2 * x.u) / x.u

/-- Rotating tiles of a spilled product, by its planned shape (R71). -/
def Mm.rotating (x : Mm) (avail : Nat) : Nat := x.footprint / x.u - x.pinned avail

/-- The sets of tiles that are live at once under the runtime shape, each by its number of tiles, in the order they follow each
other (R106, R107). -/
def Mm.liveSets (x : Mm) (m n : Nat) : List Nat :=
  let mt := ceilDiv m 64
  let nt := ceilDiv n 64
  let rows := (List.range (ceilDiv mt (max 1 x.tmE))).map (fun i => min x.tmE (mt - i * x.tmE))
  let cols := (List.range (ceilDiv nt (max 1 x.tnE))).map (fun j => min x.tnE (nt - j * x.tnE))
  match x.l2 with
  | 0 | 1 => rows.flatMap (fun r => cols.map (r * ·))
  | 2 => rows.map (· * nt)
  | 3 => cols.map (mt * ·)
  | _ => [mt * nt]

/-- Tiles a spilled product writes back in all: each rotating tile of each live set after every visit but its last (R71). -/
def Mm.spilled (x : Mm) (avail m n k : Nat) : Nat :=
  (ceilDiv k (blockK x.fa x.fw) - 1) * ((x.liveSets m n).map (· - x.pinned avail)).sum

/-- An array's half of the spill region: Ledge offset and size (R71, R74). With an odd size each half is the size halved and rounded
down, the upper one directly above the lower; a region that reaches past the Ledge is not checked, and what is written there reaches
nothing (DESIGN CHOICE, notes/assumptions/67.md). -/
def State.spillHalf (s : State) (c : Fin 36) (a : Nat) : Nat × Nat :=
  let w := s.rd (.array c) .spillRegion 0
  let half := bits w 15 8 / 2 * 65536
  (bits w 7 0 * 65536 + a * half, half)

/-- The chain whose stages run at the drain: chain 0 where the entry has no stage (R123). -/
def drainStages (h : Chain) : List Stage := if h.n = 0 then [Stage.ofWord 0] else h.stages

/-- The format an accumulator is rounded into before stage 1; none for X96 (R69, R123). -/
def point0Fmt (x : Mm) (h : Chain) : Option Fmt :=
  if x.chainId = 0 ∨ h.n = 0 then some x.fo
  else match Fmt.ofCode h.inFmt with
    | some .x96 => none
    | some f => some f
    | none => some x.fo

/-- The SRC2 tensor of an epilogue: the param of the first stage that reads it (R124). -/
def epilogueSrc2 (st : List Stage) : Option Stage := st.find? Stage.readsSrc2

/-- Check 1 of R95 for a MATMUL: E_FORMAT. -/
def State.mmFormatOk (s : State) (c : Fin 36) (i : Ins) (x : Mm) : Bool :=
  let h := s.chain c x.chainId
  let p := s.chain c h.proChain
  i.rnd.isSome && !mmReserved i && axisOk opMatmul i.lenAxis && x.accMode ≠ 3 && x.l2 < 6 && x.l1 < 6 &&
  (Fmt.ofCode x.aF).isSome && (Fmt.ofCode x.wF).isSome && (Fmt.ofCode x.oF).isSome &&
  (pairKind x.fa x.fw).isSome &&
  (x.fo ≠ .x96 || (x.exact && x.chainId = 0)) &&
  !(x.fa.packed && x.k % 2 = 1) && !(x.fo.packed && x.n % 2 = 1) &&
  chainEvenOk h.stages x.m x.n && (h.proChain = 0 || chainEvenOk p.stages x.m x.k) &&
  (match epilogueSrc2 h.stages with
   | some g => !(((Fmt.ofCode g.pfmt).getD .fp32).packed && x.n % 2 = 1)
   | none => true) &&
  (x.chainId = 0 || !s.chainInside c x.chainId ||
    (h.stagesOk && chainColsOk h.stages x.n && (h.n ≠ 0 || h.proChain ≠ 0) && epilogueSrc2Ok h.stages &&
     (match Fmt.ofCode h.inFmt with | some .x96 => x.exact | some _ => true | none => false) &&
     (h.proChain = 0 || !s.chainInside c h.proChain || p.prologueOk)))

/-- Check 3 of R95 for a MATMUL: E_SHAPE. `k` is the runtime K. A product that would spill with fewer units available than the two
tiles that rotate take has no room to run in: E_SHAPE (DESIGN CHOICE, notes/assumptions/67.md). -/
def State.mmShapeOk (s : State) (c : Fin 36) (q : Nat) (i : Ins) (x : Mm) (k : Nat) : Bool :=
  let h := s.chain c x.chainId
  let st := drainStages h
  let p := s.chain c h.proChain
  let avail := (s.core c).available q x
  let rot := x.rotating avail
  (x.kind ≠ .e2m1 || (x.k % 32 = 0 && k % 32 = 0)) &&
  (!x.outScore || (x.n = 64 && x.fo == .fp32 && x.chainId = 0 && !x.keep && x.out / 64 % 4 = 0 &&
    x.out / 64 * 16 + x.m ≤ 8192)) &&
  (!x.actScore || (x.fa == .fp32 && x.m ≤ 64)) &&
  (!(st.any (fun g => g.isRed && !g.axis)) || (x.l2 ≤ 1 && x.tnE = x.nt)) &&
  (!(h.proChain ≠ 0 && p.stages.any Stage.isNorm) || x.tmE * 64 ≤ 1024) &&
  chainRegs st x.n ≤ 32 &&
  s.chainRoomOk c st x.m x.n &&
  (if x.keep || x.accMode == 1 then x.footprint ≤ avail
   else x.footprint ≤ avail ||
     (!i.noSpill && !bit1 (s.rd (.array c) .arrayCtrl 0) 1 &&
      2 * x.u ≤ avail && rot * 16384 * x.u ≤ (s.spillHalf c x.array).2))

/-- Check 4 of R95 for a MATMUL: E_ADDR. -/
def State.mmAddrOk (s : State) (c : Fin 36) (x : Mm) : Bool :=
  let h := s.chain c x.chainId
  (if x.actScore then x.act / 4 + x.k ≤ 8192
   else inLedge x.act ((x.m - 1) * x.actStride + x.fa.rowBytes x.k)) &&
  inLedge x.wt (x.nt * ceilDiv x.k (blockK x.fa x.fw) * blockBytes x.fa x.fw) &&
  (x.keep || x.outScore || inLedge x.out ((x.m - 1) * x.outStride + x.fo.rowBytes x.n)) &&
  (x.accMode ≠ 2 || inLedge x.out ((x.m - 1) * x.outStride + x.n * (if x.exact then 12 else 4))) &&
  (!x.outScore || inLedge (64 * s.fld (.score c) .scoreCtrl 0 17 0) 1280) &&
  s.chainInside c x.chainId && s.chainInside c h.proChain &&
  s.chainSlotsOk c (drainStages h) && chainAddrOk (drainStages h) x.m x.n &&
  (h.proChain = 0 || (s.chainSlotsOk c (s.chain c h.proChain).stages && chainAddrOk (s.chain c h.proChain).stages x.m x.k)) &&
  (match epilogueSrc2 (drainStages h) with
   | some g => inLedge g.addr ((x.m - 1) * x.outStride + ((Fmt.ofCode g.pfmt).getD .fp32).rowBytes x.n)
   | none => true) &&
  (!h.gateEn || x.act % 4096 = 0)

/-- The first bank a product takes: the one it names, or the one opposite the active bank (R60; DESIGN CHOICE,
notes/assumptions/68.md). -/
def ArraySt.firstBank (a : ArraySt) (f : Flight) : Nat :=
  if bit1 f.w1 59 then bits f.w1 58 58 else if a.active then 0 else 1

/-- A product enters its array: the swap makes its first block's bank ACTIVE, and the bank that was active is RELEASING; a product of
several blocks loads its second into the other bank (R60). `bytes` are the first block's. -/
def ArraySt.enter (a : ArraySt) (f : Flight) (bytes : List Byte) : ArraySt :=
  let first := a.firstBank f
  let other := a.bank (1 - first)
  let a := a.setBank first { state := .active, tag := f.blocks.head?, bytes := bytes }
  let o : Bank := if other.state = .active then { other with state := .releasing }
    else if f.blocks.length ≤ 1 then other else { state := .loading, tag := f.blocks[1]? }
  { (a.setBank (1 - first) o) with active := first == 1 }

/-- The bank that holds block v of a product in flight, blocks counted from 1: the banks take turns (R60). -/
def ArraySt.bankOf (a : ArraySt) (f : Flight) (v : Nat) : Nat := ((if a.active then 1 else 0) + (v - f.visited)) % 2

/-- A product that has entered goes on to its v-th block, which is ACTIVE in its bank; `other` is what the other bank is then (R60). -/
def ArraySt.goOn (a : ArraySt) (f : Flight) (v : Nat) (bytes : List Byte) (other : Bank) : ArraySt :=
  let b := a.bankOf f v
  { ((a.setBank b { state := .active, tag := f.blocks[v - 1]?, bytes := bytes }).setBank (1 - b) other) with active := b == 1 }

/-- The other bank once a product's last block has swapped in and its cubes are free: a block of its own has gone, a block that a
weight load has put there stays (R60, R61, R83). -/
def ArraySt.freed (a : ArraySt) (f : Flight) : Bank :=
  let o := a.bank (1 - a.bankOf f f.visited)
  if f.visited < f.blocks.length ∨ o.state = .releasing then {} else o

/-- A product has run to its end: its last block is ACTIVE, the other bank free (R60). -/
def ArraySt.finish (a : ArraySt) (f : Flight) (block : BankTag → List Byte) : ArraySt :=
  let n := f.blocks.length
  if n ≤ f.visited then
    let b := a.bankOf f f.visited
    a.setBank (1 - b) (a.freed f)
  else a.goOn f n ((f.blocks.getLast?.map block).getD []) (a.freed f)

/-- The banks of an array as the queue's products in flight there will leave them (R61, R92). -/
def State.banksSoon (s : State) (c : Fin 36) (q n : Nat) : ArraySt :=
  (s.queue c q).flights.foldl (fun (a : ArraySt) f =>
    if !f.product || f.done || f.arr ≠ n then a
    else
      let a' := if f.visited = 0 then a.enter f ((f.blocks.head?.map (s.blockAt c)).getD []) else a
      a'.finish { f with visited := max 1 f.visited } (s.blockAt c)) ((s.core c).arr n)

/-- The bank a product names is loading the block it expects, so the product waits (R61). -/
def Core.mmBankWait (k : Core) (x : Mm) : Bool :=
  x.bankExpect && ((k.arr x.array).bank x.bank).state == .loading &&
  ((k.arr x.array).bank x.bank).tag == some (x.tag x.wt)

/-- Check 5 of R95 for a MATMUL: E_STATE. -/
def State.mmStateOk (s : State) (c : Fin 36) (q : Nat) (x : Mm) (m k : Nat) : Bool :=
  let kc := s.core c
  let h := s.chain c x.chainId
  let b := (s.banksSoon c q x.array).bank x.bank
  let mine := if x.accMode = 1 then (kc.keptMatch q x).elim [] KeptTiles.span else []
  let held := (kc.heldUnits x.array q).filter (fun u => !mine.contains u)
  (!x.bankExpect || ((b.state == .ready || b.state == .active) && b.tag == some (x.tag x.wt))) &&
  (!x.exact || x.accUnit % 3 = 0) &&
  (x.accMode ≠ 1 || (kc.keptMatch q x).isSome) &&
  (s.spills c q x || (x.accUnit + x.footprint ≤ 48 &&
    held.all (fun u => u < x.accUnit || x.accUnit + x.footprint ≤ u))) &&
  s.slotFilled c (drainStages h) m 0 &&
  s.slotFilled c (if h.proChain = 0 then [] else (s.chain c h.proChain).stages) m k

/-- The checks of R95 for a MATMUL in their order. -/
def State.mmCheck (s : State) (c : Fin 36) (q : Nat) (i : Ins) : Status :=
  let x := Mm.of i
  let planned := match i.lenAxis with | 1 => x.m | 2 => x.n | _ => x.k
  let m := s.extent c q i 1 x.m
  let k := s.extent c q i 3 x.k
  if !s.mmFormatOk c i x then .eFormat
  else if s.chainEntryBad c x.chainId || s.chainEntryBad c (s.chain c x.chainId).proChain then .eMemUncorr
  else if s.lenCheck c q i planned ≠ .ok then s.lenCheck c q i planned
  else if s.lenZero c q i then .ok
  else firstFail [check (s.mmShapeOk c q i x k) .eShape, check (s.mmAddrOk c x) .eAddr,
    check (s.mmStateOk c q x m k) .eState]

/-- The units a product uses (R88, R107): both sets when its L2 tiles alternate, all 48 when it spills. -/
def State.mmUnits (s : State) (c : Fin 36) (q : Nat) (x : Mm) : List Nat :=
  let f := x.footprint
  let held := (s.core c).heldUnits x.array q
  if s.spills c q x then (List.range 48).map (· + 48 * x.array)
  else
    let two := (x.l2 ≤ 1 && !x.keep && x.accMode ≠ 1) && x.accUnit + 2 * f ≤ 48 &&
      held.all (fun u => u < x.accUnit || x.accUnit + 2 * f ≤ u)
    (List.range (if two then 2 * f else f)).map (· + x.accUnit + 48 * x.array)

/-- The units that the tiles live at once occupy when a product starts; those of tiles it keeps are held as kept tiles (R70, R107). -/
def State.mmLive (s : State) (c : Fin 36) (q : Nat) (x : Mm) : List Nat :=
  if x.keep then []
  else if s.spills c q x then s.mmUnits c q x else (s.mmUnits c q x).take x.footprint

/-- The Ledge range of a tensor of rows. -/
def ledgeRows (c : Fin 36) (off stride rows bytes : Nat) : Nat × Nat := (ledgeAt c off, (rows - 1) * stride + bytes)

/-- What a MATMUL can touch (R88). -/
def State.mmTouch (s : State) (c : Fin 36) (q : Nat) (i : Ins) : Touch :=
  let x := Mm.of i
  let h := s.chain c x.chainId
  let st := drainStages h
  let pro := if h.proChain = 0 then [] else (s.chain c h.proChain).stages
  let (sp, sn) := s.spillHalf c x.array
  { rd := (if x.actScore then [] else [ledgeRows c x.act x.actStride x.m (x.fa.rowBytes x.k)]) ++
      [(ledgeAt c x.wt, x.nt * ceilDiv x.k (blockK x.fa x.fw) * blockBytes x.fa x.fw)] ++
      (if x.accMode = 2 then [ledgeRows c x.out x.outStride x.m (x.n * (if x.exact then 12 else 4))] else []) ++
      s.chainReads c st x.m x.n ++ s.chainReads c pro x.m x.k ++
      (match epilogueSrc2 st with
       | some g => [ledgeRows c g.addr x.outStride x.m (((Fmt.ofCode g.pfmt).getD .fp32).rowBytes x.n)]
       | none => []) ++
      (if x.outScore then [(ledgeAt c (64 * s.fld (.score c) .scoreCtrl 0 17 0), 1280)] else [])
    wr := (if x.keep || x.outScore then [] else [ledgeRows c x.out x.outStride x.m (x.fo.rowBytes x.n)]) ++
      s.chainStores c st x.m x.n ++
      (if x.outScore then [(ledgeAt c (64 * s.fld (.score c) .scoreCtrl 0 17 0), 1280)] else []) ++
      (if s.spills c q x then [(ledgeAt c sp, sn)] else [])
    units := s.mmUnits c q x
    scs := if h.gateEn then [h.gateSc] else []
    slots := if i.lenAxis ≠ 0 then [i.lenSlot] else []
    score := x.actScore || x.outScore }

/-! ### The product -/

/-- Row r of A, k elements, from the Ledge or the score store (R82, R150); a read of an invalid column gives minus
infinity (R148). -/
def State.mmRow (s : State) (c : Fin 36) (x : Mm) (k r : Nat) : List FVal :=
  if x.actScore then
    let kc := s.core c
    (List.range k).map (fun j =>
      let key := x.act / 4 + j
      if kc.scoreValid.getLsbD (key / 64) then f32 (FMap.get 0 kc.score (8192 * r + key)) else .inf true)
  else decodeRow x.fa (s.bytes (ledgeAt c (x.act + r * x.actStride)) (x.fa.rowBytes k)) k

/-- A row of A after the prologue (R133, R134). -/
def State.mmProRow (s : State) (c : Fin 36) (x : Mm) (sr : SrIn) (p : Chain) (k r : Nat) : List FVal :=
  let row := s.mmRow c x k r
  if p.n = 0 then row
  else
    let ci : ChainIn := { core := c, sr := { sr with base := sr.base + r * sr.rowLen }, point := p.srBase, src2 := [],
                          acc := [], input := fun _ _ => FVal.zero, plannedM := x.m }
    -- one row at a time; a NORM stage takes the factors of row r
    let facRow (g : Stage) : FVal × FVal :=
      match s.slotAt c g.slot with
      | some (off, _) => s.rowFactors c off g.rms (BitVec.ofNat 32 g.param) r
      | none => (FVal.zero, FVal.zero)
    let step (o : List FVal) (g : Stage) (f : Fmt) (pt : Nat) : List FVal :=
      if g.isNorm then
        let (mu, fc) := facRow g
        (Mat.roundTo (Mat.mapIdx [o] (fun _ _ v => if g.rms then v.mul fc else (v.sub mu).mul fc)) f ci.sr pt).headD []
      else ((s.stage { ci with point := pt - 1 } [row] g 1 f
        { cur := [o], holds := [], red := (false, []), redOp := 0, writes := [], atEnd := [] }).cur).headD []
    match p.stages with
    | [g] => step row g x.fa (p.srBase + 1)
    | [g, g'] => step (step row g ((Fmt.ofCode g.fmt).getD .fp32) (p.srBase + 1)) g' x.fa (p.srBase + 2)
    | _ => row

/-- The bytes of weight block (kb, nb): the snapshot of the bank for the first visit of a block expected there, else the Ledge
(R61, R82, R108). -/
def State.mmBlock (s : State) (c : Fin 36) (q : Nat) (x : Mm) (first : Bool) (k kb nb : Nat) : List Byte :=
  if x.bankExpect ∧ first ∧ kb = 0 ∧ nb = 0 then ((s.banksSoon c q x.array).bank x.bank).bytes
  else s.bytes (ledgeAt c (x.blockAddr k kb nb)) (blockBytes x.fa x.fw)

/-- Column j of B, K block by K block (R82). -/
def State.mmCol (s : State) (c : Fin 36) (q : Nat) (x : Mm) (first : Bool) (k j : Nat) : List (List FVal) :=
  let kk := blockK x.fa x.fw
  (List.range (ceilDiv k kk)).map (fun kb =>
    let bs := s.mmBlock c q x first k kb (j / 64)
    (List.range (min kk (k - kb * kk))).map (fun r => blockElem x.fw kk x.transposed bs r (j % 64)))

/-- The products of a row of A with a column of B, K block by K block. -/
def blockProducts : List FVal → List (List FVal) → List (List FVal)
  | _, [] => []
  | row, col :: cols => ((row.zip col).map (fun (a, b) => a.mul b)) :: blockProducts (row.drop col.length) cols

/-- The value an accumulator element starts from (R68). -/
def State.mmInit (s : State) (c : Fin 36) (q : Nat) (x : Mm) (i j : Nat) : BitVec 96 :=
  match x.accMode with
  | 1 => ((s.core c).keptMatch q x).elim 0 (fun t => FMap.get 0 t.vals ((i / 64 * x.nt + j / 64) * 4096 + i % 64 * 64 + j % 64))
  | 2 => let w := if x.exact then 12 else 4
         BitVec.ofNat 96 (leNat (s.bytes (ledgeAt c (x.out + i * x.outStride + j * w)) w))
  | _ => 0

/-- Every accumulator element of a product after its K positions (R50, R54, R55, R66). -/
def State.mmAccs (s : State) (c : Fin 36) (q : Nat) (x : Mm) (sr : SrIn) (p : Chain) (m n k : Nat) :
    List (List (BitVec 96)) :=
  -- the rows of the first run of a block, and those of its later runs, for which it is loaded again (R108)
  let once := if x.l1 % 2 = 1 then 64 * x.tmE else 64
  let cols := (List.range n).map (s.mmCol c q x true k)
  let again := if x.bankExpect ∧ once < m then (List.range n).map (s.mmCol c q x false k) else cols
  (List.range m).map (fun i =>
    let row := s.mmProRow c x sr p k i
    (if i < once then cols else again).zipIdx.map (fun (col, j) =>
      accumulate x.kind (s.mmInit c q x i j) (blockProducts row col)))

/-- Terms behind each element after this product (R52, R68). -/
def State.mmTerms (s : State) (c : Fin 36) (q : Nat) (x : Mm) (k : Nat) : Nat :=
  (if x.accMode = 1 then ((s.core c).keptMatch q x).elim 0 (·.terms) else 0) + k

/-- The first tile, in tile-sequence order, one of whose elements satisfies a test. -/
def firstTile (nt : Nat) (accs : List (List (BitVec 96))) (f : BitVec 96 → Bool) : Option Nat :=
  (accs.zipIdx.flatMap (fun (r, i) => r.zipIdx.filterMap (fun (v, j) =>
    if f v then some (i / 64 * nt + j / 64) else none))).min?

/-- A stored X96 image of an element: the 92 value bits of a saturated one are free (R52). -/
def x96Bytes (ix i : Nat) (v : X96) : List Byte :=
  let free := (Config.freeWord (ix + 2 * i)).toNat + (Config.freeWord (ix + 2 * i + 1)).toNat % 2 ^ 28 * 2 ^ 64
  let v := if 8 ≤ v.flags then BitVec.ofNat 96 (free + v.flags * 2 ^ 92) else v
  leBytes v.toNat 12

/-- Groups of activation rows a product enters, per visited block (R58, R59). -/
def rowsPerGroup (f : Fmt) : Nat := match f with | .bf16 | .fp16 => 2 | .fp32 => 1 | _ => 4

/-- Weight blocks a product visits, and the groups it streams in all (R63, R105, R108). -/
def Mm.visits (x : Mm) (m n k : Nat) : Nat × Nat :=
  let mt := ceilDiv m 64
  let nt := ceilDiv n 64
  let kb := ceilDiv k (blockK x.fa x.fw)
  let r := rowsPerGroup x.fa
  let tm := min x.tmE mt
  let runs := if x.l1 % 2 = 1 then ceilDiv mt (max tm 1) else mt
  let rowsOf (i : Nat) : Nat :=
    let per := if x.l1 % 2 = 1 then 64 * tm else 64
    min per (m - i * per)
  (kb * nt * runs, kb * nt * ((List.range runs).foldl (fun t i => t + ceilDiv (rowsOf i) r) 0))

/-- The weight blocks a product visits, in order: K block and column tile. L2 tiles follow the L2 order; within one, each block
streams against all its rows in one run, or, with M before N at L1, once for every 64 rows (R104, R105, R108). -/
def Mm.visitSeq (x : Mm) (m n k : Nat) : List (Nat × Nat) :=
  let mt := ceilDiv m 64
  let nt := ceilDiv n 64
  let tm := max 1 x.tmE
  let tn := max 1 x.tnE
  let is := List.range (ceilDiv mt tm)
  let js := List.range (ceilDiv nt tn)
  let ks := List.range (ceilDiv k (blockK x.fa x.fw))
  let one (i j kb : Nat) : List (Nat × Nat) :=
    let cols := (List.range (min tn (nt - j * tn))).map (fun b => (kb, j * tn + b))
    if x.l1 % 2 = 1 then cols else (List.range (min tm (mt - i * tm))).flatMap (fun _ => cols)
  match x.l2 with
  | 0 => is.flatMap (fun i => js.flatMap (fun j => ks.flatMap (fun b => one i j b)))
  | 1 => js.flatMap (fun j => is.flatMap (fun i => ks.flatMap (fun b => one i j b)))
  | 2 => is.flatMap (fun i => ks.flatMap (fun b => js.flatMap (fun j => one i j b)))
  | 3 => js.flatMap (fun j => ks.flatMap (fun b => is.flatMap (fun i => one i j b)))
  | 4 => ks.flatMap (fun b => is.flatMap (fun i => js.flatMap (fun j => one i j b)))
  | _ => ks.flatMap (fun b => js.flatMap (fun j => is.flatMap (fun i => one i j b)))

/-- The tags of the blocks a product visits, in order. -/
def Mm.tags (x : Mm) (m n k : Nat) : List BankTag := (x.visitSeq m n k).map (fun p => x.tag (x.blockAddr k p.1 p.2))

/-- Output tile t of an m by n product in a format written to rows from an offset: its row ranges in the Ledge, the scale bytes of
E2M1 after the row's elements among them. -/
def tileRanges (off stride : Nat) (f : Fmt) (m n t : Nat) : List (Nat × Nat) :=
  let nt := ceilDiv n 64
  let r0 := t / nt * 64
  let c0 := t % nt * 64
  let w := min 64 (n - c0)
  (List.range (min 64 (m - r0))).flatMap (fun r =>
    let row := off + (r0 + r) * stride
    (row + c0 * f.width / 8, ceilDiv (w * f.width) 8) ::
      (if f = .e2m1 then [(row + ceilDiv n 2 + c0 / 32, ceilDiv w 32)] else []))

/-- Makes undefined every output tile at or above a watermark (R96). -/
def State.scrambleTiles (s : State) (c : Fin 36) (off stride : Nat) (f : Fmt) (m n wm : Nat) : State :=
  ((List.range (ceilDiv m 64 * ceilDiv n 64 - wm)).flatMap (fun t => tileRanges off stride f m n (wm + t))).foldl
    (fun (s : State) r => s.scramble (ledgeAt c r.1) r.2) s

/-! ### The score store as destination (R147 to R149) -/

/-- The row maximum of a query (R148). -/
def Core.maxOf (k : Core) (n : Nat) : BitVec 32 := FMap.get 0xFF800000 k.scoreMax n

/-- A reset of the score store: every row maximum minus infinity, every row sum +0, no valid column (R147). -/
def Core.scoreReset (k : Core) : Core :=
  { k with scoreMax := [], scoreSum := [], scoreValid := 0, scoreDone := false }

/-- Writes score entry (n, key): minus infinity where it is masked, else raising the row maximum (R148). -/
def Core.scoreEntry (k : Core) (n key : Nat) (v : BitVec 32) (masked : Bool) : Core :=
  let v := if masked then 0xFF800000 else v
  { k with
    score := FMap.set 0 k.score (8192 * n + key) v
    scoreMax := if masked then k.scoreMax else FMap.set 0xFF800000 k.scoreMax n
      (if (f32 v).isNan || (f32 (k.maxOf n)).isNan then 0x7FC00000
       else if (f32 (k.maxOf n)).lt (f32 v) then v else k.maxOf n) }

/-- The key limits in force for a score MATMUL from key k0 on: those of the image where it is the one that resets the store and limits
are on, else those read at the last reset (R148). -/
def State.scoreLimits (s : State) (c : Fin 36) (k0 : Nat) : Option (List Nat) :=
  if bit1 (s.rd (.score c) .scoreCtrl 0) 18 then
    if k0 = 0 then
      let img := ledgeAt c (64 * s.fld (.score c) .scoreCtrl 0 17 0)
      some ((List.range 64).map (fun n => leNat (s.bytes (img + 4 * n) 4)))
    else (s.core c).scoreLimit
  else none

/-- A MATMUL with out_space 1: entries (n, k0 + m) of the runtime N queries, columns made valid, keys beyond the runtime M minus
infinity, the per-row key limits, the row maxima; the entries masked are noted for SCORE_MASKED (R147, R148). -/
def State.scoreWrite (s : State) (c : Fin 36) (x : Mm) (sr : SrIn) (m q : Nat) (accs : List (List (BitVec 96))) : State × Nat :=
  let k0 := x.out / 64 * 16
  let lims := s.scoreLimits c k0
  let lim (n : Nat) : Nat := (lims.getD []).getD n 0
  let limited := lims.isSome
  let k := s.core c
  let k := if k0 = 0 then { k.scoreReset with scoreLimit := lims } else k
  let cells := (List.range (ceilDiv m 64 * 64)).flatMap (fun mm => (List.range q).map (fun n => (mm, n)))
  let k := cells.foldl (fun (k : Core) (mm, n) =>
    let key := k0 + mm
    if 8192 ≤ key then k
    else if m ≤ mm then { k with score := FMap.set 0 k.score (8192 * n + key) 0xFF800000 }
    else
      let v := accVal x.kind ((accs.getD mm []).getD n 0)
      let b := BitVec.ofNat 32 (Fmt.fp32.encode sr.rnd sr.sat8 (sr.u 0 mm n) v)
      k.scoreEntry n key b (limited && decide (lim n ≤ key))) k
  let masked := (cells.filter (fun (mm, n) => mm < m && limited && decide (lim n ≤ k0 + mm))).length
  let nan := cells.any (fun (mm, n) => mm < m && !(limited && decide (lim n ≤ k0 + mm)) &&
    (accVal x.kind ((accs.getD mm []).getD n 0)).isNan)
  let tiles := ceilDiv m 64
  let k := { k with scoreValid := (List.range tiles).foldl (fun v t => v ||| (1#128 <<< (k0 / 64 + t))) k.scoreValid }
  let s := s.setCore c k
  (if nan then s.event (.score c) 1 else s, masked)

/-- The MAX vector of the statistics image (R149). -/
def State.maxImage (s : State) (c : Fin 36) : Nat × List Byte :=
  (64 * s.fld (.score c) .scoreCtrl 0 17 0 + 256,
   ((List.range 64).map (fun n => leBytes ((s.core c).maxOf n).toNat 4)).flatten)

/-! ### Running a product -/

/-- The first uncorrectable word a product reads, by the first tile that reads it (R73, R96, R239). -/
def State.mmBadTile (s : State) (c : Fin 36) (f : Flight) (x : Mm) (m n k : Nat) : Option Nat :=
  let nt := ceilDiv n 64
  let tiles := (List.range (ceilDiv m 64)).flatMap (fun a => (List.range nt).map (fun b => (a, b)))
  (tiles.filterMap (fun (a, b) =>
    let badA := !x.actScore && (List.range (min 64 (m - 64 * a))).any (fun r =>
      (s.badIn (ledgeAt c (x.act + (64 * a + r) * x.actStride)) (x.fa.rowBytes k)).isSome)
    let badS := x.actScore && (s.core c).scoreBad.any (fun w =>
      w / 1024 < m && x.act / 4 ≤ w % 1024 * 8 + 7 && w % 1024 * 8 < x.act / 4 + k)
    let badB := (List.range (ceilDiv k (blockK x.fa x.fw))).any (fun kb =>
      !(x.bankExpect && kb == 0 && b == 0) &&
      (s.badIn (ledgeAt c (x.blockAddr k kb b)) (blockBytes x.fa x.fw)).isSome)
    let h := Chain.ofWords f.chainW
    let st := drainStages h
    let badC := s.chainTileBad c st m n a b ||
      (h.proChain ≠ 0 && s.chainTileBad c (Chain.ofWords f.proW).stages m k a 0) ||
      (match epilogueSrc2 st with
       | some g => (List.range (min 64 (m - 64 * a))).any (fun r =>
           s.rowPartBad c ((Fmt.ofCode g.pfmt).getD .fp32) (g.addr + (64 * a + r) * x.outStride) n (64 * b)
             (min 64 (n - 64 * b)))
       | none => false)
    let w := if x.exact then 12 else 4
    let badL := x.accMode == 2 && (List.range (min 64 (m - 64 * a))).any (fun r =>
      (s.badIn (ledgeAt c (x.out + (64 * a + r) * x.outStride + 64 * b * w)) (min 64 (n - 64 * b) * w)).isSome)
    if badA || badS || badB || badC || badL then some (a * nt + b) else none)).min?

/-- The accumulators of a product after its K positions, saturated where an exact element takes too many terms (R52, R66). -/
def State.mmSums (s : State) (c : Fin 36) (q : Nat) (f : Flight) : List (List (BitVec 96)) :=
  let x := Mm.of f.ins
  let sr := f.srIn (f.ins.rnd.getD .rne)
  let h := Chain.ofWords f.chainW
  let p := if h.proChain = 0 then { Chain.ofWords [] with n := 0 } else Chain.ofWords f.proW
  let accs := s.mmAccs c q x sr p f.m f.n f.k
  if x.exact && 2 ^ 24 < s.mmTerms c q x f.k then accs.map (·.map (fun v => v ||| (1#96 <<< 95))) else accs

/-- The values that enter the drain: rounded once at point 0, or exact where there is no chain (R69, R123). -/
def mmDrainIn (f : Flight) (accs : List (List (BitVec 96))) : Mat :=
  let x := Mm.of f.ins
  let h := Chain.ofWords f.chainW
  let accV : Mat := accs.map (·.map (accVal x.kind))
  match point0Fmt x h with
  | some fm => if x.chainId = 0 ∨ h.n = 0 then accV else accV.roundTo fm (f.srIn (f.ins.rnd.getD .rne)) 0
  | none => accV.map (·.map FVal.rne)

/-- What the epilogue of a product leaves (R69, R131). -/
def State.mmOut (s : State) (c : Fin 36) (f : Flight) (accs : List (List (BitVec 96))) : ChainOut :=
  let x := Mm.of f.ins
  let h := Chain.ofWords f.chainW
  let inp := mmDrainIn f accs
  let src2 := match epilogueSrc2 h.stages with
    | some g => s.readRows ((Fmt.ofCode g.pfmt).getD .fp32) (ledgeAt c g.addr) x.outStride f.m f.n
    | none => []
  let ci : ChainIn := { core := c, sr := f.srIn (f.ins.rnd.getD .rne), point := h.srBase, src2 := src2,
                        acc := accs.map (·.map (accVal x.kind)),
                        input := fun r j => if r < 0 then FVal.zero else inp.at r.toNat j, plannedM := x.m }
  s.runChain ci inp x.fo h.stages

/-- Ledge bytes a chain's NORM stages write at completion: the slots they release are marked EMPTY (R139). -/
def State.slotReleases (s : State) (c : Fin 36) (stages : List Stage) : List (Nat × List Byte) :=
  stages.flatMap (fun g => if g.isNorm && g.release then
    (match s.slotAt c g.slot with | some (off, _) => [(off, [0#8])] | none => []) else [])

/-- Kept tiles with the elements a product has accumulated: those beyond its runtime shape stand as they were (R68, R91). -/
def overlay (nt : Nat) (base : FMap (BitVec 96)) (accs : List (List (BitVec 96))) : FMap (BitVec 96) :=
  accs.zipIdx.foldl (fun mp (r, a) => r.zipIdx.foldl (fun mp (v, b) =>
    FMap.set 0 mp ((a / 64 * nt + b / 64) * 4096 + a % 64 * 64 + b % 64) v) mp) base

/-- The product itself: it accumulates, then keeps its tiles or drains them through its chain into the Ledge or the
score store (R66, R69, R82, R131). The flight carries the inputs as they stood at its issue, and what its pages count at its end.
An exact element whose bit 95 is set ends the product with E_SAT, one that a LOAD or an earlier product brought with it included
(DEDUCED, notes/assumptions/65.md). -/
def State.mmRun (s : State) (c : Fin 36) (q : Nat) (f : Flight) : State × Flight :=
  let i := f.ins
  let x := Mm.of i
  let sr := f.srIn (i.rnd.getD .rne)
  let h := Chain.ofWords f.chainW
  let pro := if h.proChain = 0 then [] else (Chain.ofWords f.proW).stages
  let (m, n, k) := (f.m, f.n, f.k)
  let accs := s.mmSums c q f
  let terms := s.mmTerms c q x k
  let sat : Option Nat := if x.exact && 2 ^ 24 < terms then some 0
    else if x.exact then firstTile (ceilDiv n 64) accs (fun v => 8 ≤ X96.flags v) else none
  let bad := s.mmBadTile c f x m n k
  let o := s.mmOut c f accs
  let total := ceilDiv m 64 * ceilDiv n 64
  let drains := !x.keep && !x.outScore
  let f := { f with
    total := total
    atEnd := f.atEnd ++ s.slotReleases c pro
    counts := f.counts ++ (if drains then [(Pg.vector c, RegName.chainTileCount, 0, total)] else []) }
  let f := match bad, sat with
    | some t, _ => { f with status := .eMemUncorr, wm := t }
    | none, some t => { f with status := .eSat, wm := t }
    | none, none => { f with wm := total }
  let kc := s.core c
  let arr := kc.arr x.array
  let mine := if x.accMode = 1 then (kc.keptMatch q x).elim [] (fun t => [t]) else []
  let others := arr.kept.filter (fun t => !mine.contains t)
  let kept := if x.keep then
      others ++ [{ queue := q, unit := x.accUnit, m := x.m, n := x.n, exact := x.exact, terms := terms,
                   vals := overlay x.nt ((mine.head?.map (·.vals)).getD []) accs }]
    else others
  let s := s.setCore c (kc.setArr x.array { arr with kept := kept })
  if x.keep then (s, f)
  else if x.outScore then
    let (s, masked) := s.scoreWrite c x sr m n accs
    (s, { f with
      atEnd := f.atEnd ++ [s.maxImage c]
      counts := f.counts ++ [(Pg.score c, RegName.scoreTilesWritten, 0, ceilDiv m 64), (Pg.score c, RegName.scoreMasked, 0, masked)] })
  else if x.fo = .x96 then
    let s := accs.zipIdx.foldl (fun (s : State) (r, a) =>
      s.store (ledgeAt c (x.out + a * x.outStride)) (r.zipIdx.map (fun (v, b) => x96Bytes s.freeIx (a * n + b) v)).flatten) s
    ({ s with freeIx := s.freeIx + 2 * (m * n) }, f)
  else if x.chainId = 0 ∨ h.n = 0 then (s.writeRows x.fo sr 0 (ledgeAt c x.out) x.outStride (mmDrainIn f accs), f)
  else
    let s := s.writeRows x.fo sr (h.srBase + h.n) (ledgeAt c x.out) x.outStride o.cur
    let s := s.chainWrites c o.writes
    (s, { f with atEnd := f.atEnd ++ o.atEnd })

/-- What a product counts when it has run to its end: its streamed groups, the tiles it skips, the score tiles it reads, the tiles it
spills (R71, R74, R91, R166). -/
def State.mmCounts (s : State) (c : Fin 36) (q : Nat) (x : Mm) (m n k : Nat) : List (Pg × RegName × Nat × Nat) :=
  [(.array c, .aStreamCycles, x.array, (x.visits m n k).2),
   (.sequencer c, .skippedTileCount, 0, x.mt * x.nt - ceilDiv m 64 * ceilDiv n 64)] ++
  (if x.actScore then [(.score c, .scoreTilesRead, 0, ceilDiv k 64)] else []) ++
  (if s.spills c q x then [(.array c, .aSpillCount, x.array, x.spilled ((s.core c).available q x) m n k)] else [])

/-- A product enters spill mode: its half of the spill region is undefined from then on, and it waits on the spill port (R71, R76). -/
def State.spillStart (s : State) (c : Fin 36) (q : Nat) (x : Mm) : State :=
  if s.spills c q x then
    let (sp, sn) := s.spillHalf c x.array
    ((s.scramble (ledgeAt c sp) sn).bumpFree (.array c) .aSpillStallCycles x.array).event (.array c) x.array
  else s

/-- Registers that the running chain instances of a queue need (R132, R140). -/
def Queue.regNeed (x : Queue) : Nat := (x.flights.map (fun f => if f.done then 0 else f.need)).sum

/-- A chain instance starts in the vector engine: it waits for tile registers while its need and that of the instances running pass
32 (R132), it keeps the engine busy, and it waits at the Ledge port (R143). -/
def State.chainStarts (s : State) (c : Fin 36) (q need : Nat) : State :=
  let s := if 32 < need + (s.queue c q).regNeed then s.bumpFree (.vector c) .budgetWaitCycles 0 else s
  (s.bumpFree (.vector c) .vecBusyCycles 0).bumpFree (.vector c) .vecLedgeWaitCycles 0

/-- The groups of a gated product that its semaphore lets in (R136). -/
def State.gateOpen (s : State) (c : Fin 36) (q : Nat) (f : Flight) : Nat :=
  let x := Mm.of f.ins
  let h := Chain.ofWords f.chainW
  let cnt := semCount (s.sem false c.val h.gateSem)
  let base := (s.scReg c q h.gateSc).toNat
  let r := rowsPerGroup x.fa
  let need (g : Nat) : Nat :=
    let lastRow := min (g * r + r) f.m - 1
    base + ceilDiv (lastRow * x.actStride + x.fa.rowBytes f.k) 4096
  ((List.range (ceilDiv f.m r)).takeWhile (fun g => need g ≤ cnt)).length

/-- The state in which a product runs: it has entered spill mode where it spills, its chain instance has started where it drains
through one, and it has waited for the row factors of a prologue's NORM (R71, R132, R134). -/
def State.mmReady (s : State) (c : Fin 36) (q : Nat) (f : Flight) (need : Nat) : State :=
  let x := Mm.of f.ins
  let s := s.spillStart c q x
  let s := if !x.keep && !x.outScore then s.chainStarts c q need else s
  if (Chain.ofWords f.chainW).proChain ≠ 0 ∧ (Chain.ofWords f.proW).stages.any Stage.isNorm then
    s.bumpFree (.vector c) .arrivalWaitCycles 0
  else s

/-- Tile registers that the chain instance of a product needs (R132). -/
def mmNeed (f : Flight) : Nat :=
  let x := Mm.of f.ins
  if !x.keep && !x.outScore then chainRegs (drainStages (Chain.ofWords f.chainW)) x.n else 0

/-- The product starts with its effects, or stays at its arrival gate until its last group may enter (R136). Row factors of a
prologue's NORM make the first group wait (R134). -/
def State.mmStart (s : State) (c : Fin 36) (q : Nat) (f : Flight) : State × Flight :=
  let x := Mm.of f.ins
  let h := Chain.ofWords f.chainW
  let groups := s.gateOpen c q f
  let all := ceilDiv f.m (rowsPerGroup x.fa)
  if h.gateEn ∧ groups < all then (s, { f with gated := true, groups := groups, total := ceilDiv f.m 64 * ceilDiv f.n 64 })
  else
    let need := mmNeed f
    let f := { f with
      gated := false, groups := all, old := s.snapshot c q f, counts := s.mmCounts c q x f.m f.n f.k, need := need }
    (s.mmReady c q f need).mmRun c q f

/-- Replaces a flight of a queue, found by its sequence number. -/
def State.setFlight (s : State) (c : Fin 36) (q : Nat) (f : Flight) : State :=
  let x := s.queue c q
  s.setQueue c q { x with flights := x.flights.map (fun g => if g.seq = f.seq then f else g) }

/-! ### Weight loads and the banks of products in flight (R60, R61, R83, R92) -/

/-- The fields of a WLOAD (R83): Ledge byte address, array, bank, orientation, weight and activation formats. -/
structure Wl where
  wt : Nat
  array : Nat
  bank : Nat
  transposed : Bool
  wF : Nat
  aF : Nat
  deriving DecidableEq, Repr

/-- The WLOAD fields of an instruction (R83). -/
def Wl.of (i : Ins) : Wl :=
  { wt := bits i.w1 17 0 * 64, array := bits i.w1 18 18, bank := bits i.w1 19 19, transposed := bit1 i.w1 20,
    wF := bits i.w1 24 21, aF := bits i.w1 28 25 }

/-- The formats of a WLOAD, where they are listed. -/
def Wl.fa (x : Wl) : Fmt := (Fmt.ofCode x.aF).getD .fp32
def Wl.fw (x : Wl) : Fmt := (Fmt.ofCode x.wF).getD .fp32
/-- The tag of the block a WLOAD loads (R61, R83). -/
def Wl.tag (x : Wl) : BankTag := ⟨x.wt, x.wF, x.transposed, blockK x.fa x.fw⟩

/-- The checks of R95 for a WLOAD. -/
def State.wlCheck (_s : State) (i : Ins) : Status :=
  let x := Wl.of i
  firstFail
    [check (i.rnd.isSome && bits i.w0 63 61 = 0 && i.lenAxis = 0 && bits i.w1 63 29 = 0 && i.w2 = 0 && i.w3 = 0 &&
       (Fmt.ofCode x.aF).isSome && (Fmt.ofCode x.wF).isSome && (pairKind x.fa x.fw).isSome) .eFormat,
     check (inLedge x.wt (blockBytes x.fa x.fw)) .eAddr]

/-- The queue and flight whose load into a bank has begun. -/
def State.loaderOf (s : State) (c : Fin 36) (a b : Nat) : Option (Nat × Flight) :=
  (List.range 8).findSome? (fun q =>
    ((s.queue c q).flights.find? (fun f => f.ins.opcode == opWload && !f.done && f.loading &&
      (Wl.of f.ins).array == a && (Wl.of f.ins).bank == b)).map (fun f => (q, f)))

/-- A product in flight on an array, which has entered it or has still to. -/
def Flight.onArray (f : Flight) (a : Nat) : Bool := f.product && !f.done && f.arr == a

/-- A bank that a product must load a block into is still being loaded by a WLOAD: the product enters after it (R60, R83). -/
def State.entryWaits (s : State) (c : Fin 36) (f : Flight) : Bool :=
  let a := (s.core c).arr f.arr
  let first := a.firstBank f
  (!bit1 f.w1 59 && (s.loaderOf c f.arr first).isSome) ||
  (1 < f.blocks.length && (s.loaderOf c f.arr (1 - first)).isSome)

/-- The first product of a queue on an array enters it, unless it has done so, stands at its gate or waits for a bank (R60, R92). The
block it finds READY in its bank is the one it uses. -/
def State.enterNext (s : State) (c : Fin 36) (q n : Nat) : State :=
  match (s.queue c q).flights.find? (fun f => f.onArray n) with
  | none => s
  | some f =>
    if f.gated ∨ f.visited ≠ 0 ∨ (s.core c).holder ≠ some q ∨ s.entryWaits c f then s
    else
      let k := s.core c
      let a := k.arr n
      let b := a.bank (a.firstBank f)
      let bytes := if bit1 f.w1 59 ∨ (b.state = .ready ∧ b.tag = f.blocks.head?) then b.bytes
        else (f.blocks.head?.map (s.blockAt c)).getD []
      (s.setCore c (k.setArr n (a.enter f bytes))).setFlight c q { f with visited := 1 }

/-- The first block of the product behind a product on its array, which the sequencer may load ahead (R92). -/
def Queue.ahead (x : Queue) (f : Flight) : Option BankTag :=
  ((((x.flights.dropWhile (·.seq ≠ f.seq)).drop 1).find? (fun g => g.onArray f.arr)).bind
    (fun g => if bit1 g.w1 59 then none else g.blocks.head?))

/-- At a pass boundary a product has gone on by some blocks, which timing decides, and the other bank is RELEASING, EMPTY, or LOADING or
READY with the block that follows; where the array stops there, a load in progress ends and nothing is being released (R60, R92, R93). -/
def State.passBanks (s : State) (c : Fin 36) (q : Nat) (f : Flight) (stop : Bool) : State × Flight :=
  if f.visited = 0 then (s, f)
  else
    let n := f.blocks.length
    let (w, s) := s.draw
    let v := f.visited + w.toNat % 2 ^ 32 % (n - f.visited + 1)
    let r := w.toNat / 2 ^ 32 % 4
    let k := s.core c
    let a := k.arr f.arr
    let old := a.bank (1 - a.bankOf f f.visited)
    let next := if v < n then f.blocks[v]? else (s.queue c q).ahead f
    let other : Bank :=
      if f.visited = n then (if old.state = .releasing ∧ (stop ∨ r % 2 = 1) then {} else old)
      else match next with
        | none => if r = 0 ∧ !stop then { state := .releasing } else {}
        | some t =>
          if r = 3 ∨ (r = 2 ∧ stop) then { state := .ready, tag := some t, bytes := s.blockAt c t }
          else if r = 2 then { state := .loading, tag := some t, bytes := s.blockAt c t }
          else if r = 0 ∧ !stop then { state := .releasing } else {}
    let bytes := if v = f.visited then (a.bank (a.bankOf f v)).bytes else (f.blocks[v - 1]?.map (s.blockAt c)).getD []
    let f' := { f with visited := v }
    ((s.setCore c (k.setArr f.arr (a.goOn f v bytes other))).setFlight c q f', f')

/-- A product leaves its array: it has run to its end, or stops (R60). -/
def State.leaveArray (s : State) (c : Fin 36) (q : Nat) (f : Flight) (ran : Bool) : State :=
  if !f.product ∨ f.visited = 0 then s
  else if ran then
    let k := s.core c
    s.setCore c (k.setArr f.arr ((k.arr f.arr).finish f (s.blockAt c)))
  else (s.passBanks c q f true).1

/-- The load of a WLOAD may begin: no product of the holder holds both banks of the array, none of its queue is to enter before it, and
the bank is EMPTY, is being released, or holds an unused READY block, which it replaces; or it holds the last block of a product that has
just ended on the array, and is freed (R60, R61, R83). -/
def State.loadMayBegin (s : State) (c : Fin 36) (q seq : Nat) (x : Wl) (ended : Option Nat) : Bool :=
  let k := s.core c
  let on : List Flight := match k.holder with
    | some h => (k.queue h).flights.filter (fun f => f.onArray x.array && 0 < f.visited)
    | none => []
  let st := ((k.arr x.array).bank x.bank).state
  on.all (fun f => f.blocks.length ≤ f.visited) &&
  !(((s.queue c q).flights.takeWhile (·.seq ≠ seq)).any (fun f => f.onArray x.array && f.visited == 0)) &&
  (st == .empty || st == .ready || st == .releasing || (st == .active && ended == some x.array && on.isEmpty))

/-- Begins the load of a WLOAD: the bank is LOADING with the snapshot taken now (R60, R61). -/
def State.beginLoad (s : State) (c : Fin 36) (x : Wl) : State :=
  let k := s.core c
  s.setCore c (k.setArr x.array ((k.arr x.array).setBank x.bank
    { state := .loading, tag := some x.tag, bytes := s.blockAt c x.tag }))

/-- A WLOAD whose load begins, with the block it replaces noted. -/
def State.loadBegun (s : State) (c : Fin 36) (f : Flight) : Flight :=
  let x := Wl.of f.ins
  { f with loading := true, old := { f.old with taken := true, bank := some (((s.core c).arr x.array).bank x.bank) } }

/-- WLOAD (R83): the load begins when the bank is free, and completes at WEIGHT_LOAD_DONE. -/
def execWload (c : Fin 36) (q : Fin 8) (s : State) : Host.Outcome State Fault Refusal :=
  .next (s.awake fun s => s.row c q (fun i => i.opcode == opWload) fun s i =>
    let x := Wl.of i
    let t : Touch := { rd := [(ledgeAt c x.wt, blockBytes x.fa x.fw)] }
    let st := s.wlCheck i
    if st ≠ .ok then s.issueFailed c q i st false
    else if !(s.queue c q).free t then s
    else
      let f := started i t false
      if s.loadMayBegin c q (s.queue c q).seq x none then (s.beginLoad c x).issue c q (s.loadBegun c f) (i.pc + 32)
      else s.issue c q f (i.pc + 32))

/-- Begins the loads that waited for an array's banks, when a product on an array or a load has ended, or a product's last block has
swapped in (R83). -/
def State.beginWaiting (s : State) (c : Fin 36) (ended : Option Nat) : State :=
  (List.range 8).foldl (fun (s : State) q =>
    match (s.queue c q).flights.find? (fun f => f.ins.opcode == opWload && !f.done && !f.loading) with
    | none => s
    | some f =>
      if s.loadMayBegin c q f.seq (Wl.of f.ins) ended then (s.beginLoad c (Wl.of f.ins)).setFlight c q (s.loadBegun c f)
      else s) s

/-- What waits for the banks of an array goes on: the loads, then the products that enter (R60, R83, R92). -/
def State.banksMove (s : State) (c : Fin 36) (ended : Option Nat) : State :=
  [0, 1].foldl (fun (s : State) n => (List.range 8).foldl (fun (s : State) q => s.enterNext c q n) s) (s.beginWaiting c ended)

/-- MATMUL (R82): the checks of R95 in order, then the product. A product whose bank is still loading, or that
something in flight holds back, does not start yet (R61, R88). -/
def execMatmul (c : Fin 36) (q : Fin 8) (s : State) : Host.Outcome State Fault Refusal :=
  .next (s.awake fun s => s.row c q (fun i => i.opcode == opMatmul) fun s i =>
    let x := Mm.of i
    let t := s.mmTouch c q i
    if !(s.queue c q).free t || (s.core c).mmBankWait x then s
    else
      let st := s.mmCheck c q i
      if st ≠ .ok then
        let h := s.chain c x.chainId
        let slotMissing := st == .eState &&
          !(s.slotFilled c (drainStages h) (s.extent c q i 1 x.m) 0 &&
            s.slotFilled c (if h.proChain = 0 then [] else (s.chain c h.proChain).stages) (s.extent c q i 1 x.m)
              (s.extent c q i 3 x.k))
        (if slotMissing then s.event (.vector c) 1 else s).issueFailed c q i st false
      else if s.lenZero c q i then ((s.issue c q (started i {} true) (i.pc + 32)).drainQueue c q).settled
      else
        let h := s.chain c x.chainId
        let m := s.extent c q i 1 x.m
        let n := s.extent c q i 2 x.n
        let k := s.extent c q i 3 x.k
        let f := s.withSr c q { started i t false with
          m := m, n := n, k := k, units := s.mmLive c q x, blocks := x.tags m n k,
          chainW := s.chainWords c x.chainId, proW := s.chainWords c h.proChain }
        let (s, f) := s.mmStart c q f
        let s := (s.issue c q f (i.pc + 32)).enterNext c q x.array
        if f.gated then s.settled else s)

/-- The cube that holds a byte of a weight block of a format with kk K rows, as stored or transposed: cube (i, j) holds the W[k][n]
with k in the i-th sixteenth of the rows and n / 4 = j (R58, R82). The scale bytes of E2M1 stand in a bank of their own, each for itself. -/
def cubeOf (w : Fmt) (kk : Nat) (transposed : Bool) (b : Nat) : Nat :=
  let els := kk * 64 * w.width / 8
  if els ≤ b then 256 + (b - els)
  else
    let e := b * 8 / w.width
    let k := if transposed then e % kk else e / 64
    let n := if transposed then e / kk else e % 64
    k / (kk / 16) * 16 + n / 4

/-- A bank's bytes after a load during which the source may have been written: each cube's bytes are wholly those of
the start or wholly those of the end, and nothing says which (R61). -/
def mixCubes (ix : Nat) (w : Fmt) (kk : Nat) (transposed : Bool) (old new : List Byte) : List Byte :=
  if old = new then old
  else (old.zip new).zipIdx.map (fun ((o, n), b) => if Config.freeBit ix (cubeOf w kk transposed b) then o else n)

/-- WEIGHT_LOAD_DONE (R60, R83): the bank is READY and the WLOAD completes; an uncorrectable source word ends it with
E_MEM_UNCORR and the bank EMPTY. The feeder has lost some cycles at the Ledge port (R64). -/
def execWeightLoadDone (c : Fin 36) (a b : Fin 2) (s : State) : Host.Outcome State Fault Refusal :=
  .next (s.awake fun s => match (if s.coreMoves c then s.loaderOf c a b else none) with
    | none => s
    | some (q, f) =>
      let x := Wl.of f.ins
      let k := s.core c
      let bank := (k.arr a).bank b
      let bad := (s.badIn (ledgeAt c x.wt) (blockBytes x.fa x.fw)).isSome
      let bank := if bad then {} else
        { bank with state := .ready
                    bytes := mixCubes s.freeIx x.fw (blockK x.fa x.fw) x.transposed bank.bytes (s.blockAt c x.tag) }
      let s := s.setCore c (k.setArr a ((k.arr a).setBank b bank))
      let s := { s with freeIx := s.freeIx + 1 }.bumpFree (.array c) .aLedgeStallCycles a
      let s := s.setFlight c q { f with
        done := true, status := if f.status ≠ .ok then f.status else if bad then .eMemUncorr else .ok }
      ((s.banksMove c none).drainQueue c q).settled)

/-- ARRIVAL_GATE_OPEN (R136): the groups of a gated product that its semaphore now lets in enter; with the last of
them the product runs. -/
def execArrivalGateOpen (c : Fin 36) (q : Fin 8) (s : State) : Host.Outcome State Fault Refusal :=
  .next (s.awake fun s => match (s.queue c q).flights.find? (fun f => s.coreMoves c && f.gated && !f.done && f.status == .ok) with
    | none => s
    | some f =>
      let groups := s.gateOpen c q f
      if groups ≤ f.groups then s
      else
        let s := s.bumpFree (.vector c) .arrivalWaitCycles 0
        let (s, g) := s.mmStart c q f
        (s.setFlight c q g).enterNext c q g.arr)

end Sys2Proof.Machine
end

