-- ==== Sys2Proof/Machine/Vector.lean ====
section
/-! DEFINITION. The vector engine's own instruction: VCHAIN over Ledge, the score store or tile registers, with its
summary and the row sums of the statistics image (R84, R121, R130, R140, R149, R150, R370). -/

namespace Sys2Proof.Machine

/-- The fields of a VCHAIN (R84), shapes already plus one; addresses in 64-byte units, strides in bytes. -/
structure Vc where
  src : Nat
  src2 : Nat
  dst : Nat
  srcSpace : Nat
  dstSpace : Nat
  rows : Nat
  cols : Nat
  inF : Nat
  oF : Nat
  sumReg : Nat
  sumEn : Bool
  srcStride : Nat
  dstStride : Nat
  chainId : Nat
  deriving DecidableEq, Repr

/-- The VCHAIN fields of an instruction (R84). -/
def Vc.of (i : Ins) : Vc :=
  { src := bits i.w1 17 0, src2 := bits i.w1 35 18, dst := bits i.w1 53 36, srcSpace := bits i.w1 55 54,
    dstSpace := bits i.w1 57 56, rows := bits i.w2 15 0 + 1, cols := bits i.w2 31 16 + 1, inF := bits i.w2 35 32,
    oF := bits i.w2 39 36, sumReg := bits i.w2 43 40, sumEn := bit1 i.w2 44, srcStride := bits i.w3 15 0 * 64,
    dstStride := bits i.w3 31 16 * 64, chainId := bits i.w3 39 32 }

/-- The formats of a VCHAIN, where they are listed. -/
def Vc.fi (x : Vc) : Fmt := (Fmt.ofCode x.inF).getD .fp32
def Vc.fo (x : Vc) : Fmt := (Fmt.ofCode x.oF).getD .fp32
/-- Bytes of a source row; 12 for each X96 element (R49, R370). -/
def Fmt.srcRow (f : Fmt) (n : Nat) : Nat := if f = .x96 then 12 * n else f.rowBytes n
/-- Tile registers the region maps onto (R121). -/
def Vc.regs (x : Vc) : Nat := ceilDiv x.rows 64 * ceilDiv x.cols 64
/-- Tile registers a VCHAIN names, so that its working registers come from the others (R140). -/
def Vc.named (x : Vc) : List Nat :=
  ((if x.srcSpace = 2 then (List.range x.regs).map (· + x.src % 32) else []) ++
   (if x.dstSpace = 2 then (List.range x.regs).map (· + x.dst % 32) else [])).dedup
/-- Tile registers its chain instance needs, those it names among them (R132, R140). -/
def Vc.need (x : Vc) (st : List Stage) : Nat := chainRegs st x.cols + x.named.length
/-- The first key of a score-store source (R146, R150). -/
def Vc.key0 (x : Vc) : Nat := x.src * 16

/-- Check 1 of R95: E_FORMAT. -/
def State.vcFormatOk (s : State) (c : Fin 36) (i : Ins) (x : Vc) : Bool :=
  let h := s.chain c x.chainId
  i.rnd.isSome && bits i.w0 63 61 = 0 && axisOk opVchain i.lenAxis && bits i.w1 63 58 = 0 && bits i.w2 63 45 = 0 &&
  bits i.w3 63 40 = 0 && x.srcSpace ≠ 3 && (x.dstSpace = 0 || x.dstSpace = 2) &&
  (Fmt.ofCode x.inF).isSome && (Fmt.ofCode x.oF).isSome && x.fo ≠ .x96 &&
  !(x.fi.packed && x.cols % 2 = 1) && !(x.fo.packed && x.cols % 2 = 1) && chainEvenOk h.stages x.rows x.cols &&
  (!s.chainInside c x.chainId ||
    (h.n ≠ 0 && h.stagesOk && chainColsOk h.stages x.cols && (!x.sumEn || h.stages.any Stage.isRed)))

/-- Check 3 of R95: E_SHAPE (R140, R150). -/
def State.vcShapeOk (s : State) (c : Fin 36) (x : Vc) : Bool :=
  let st := (s.chain c x.chainId).stages
  x.need st ≤ 32 &&
  (x.srcSpace ≠ 2 || x.src % 32 + x.regs ≤ 32) && (x.dstSpace ≠ 2 || x.dst % 32 + x.regs ≤ 32) &&
  s.chainRoomOk c st x.rows x.cols &&
  (x.srcSpace ≠ 1 || (x.srcStride = 512 * 64 && x.src < 512 && x.src % 4 = 0 && x.rows ≤ 64))

/-- The rows a convolution reads outside its region, before and after (R141). -/
def haloRows (st : List Stage) : Nat × Nat :=
  match st.find? Stage.isConv with
  | some g => if !g.halo then (0, 0)
    else if g.causal then ((g.taps - 1) * g.dil, 0) else ((g.taps - 1) / 2 * g.dil, (g.taps - 1) / 2 * g.dil)
  | none => (0, 0)

/-- Check 4 of R95: E_ADDR. -/
def State.vcAddrOk (s : State) (c : Fin 36) (x : Vc) : Bool :=
  let st := (s.chain c x.chainId).stages
  let (before, after) := haloRows st
  let rowN := x.fi.srcRow x.cols
  (match x.srcSpace with
   | 0 => inLedge (x.src * 64) ((x.rows - 1 + after) * x.srcStride + rowN) && before * x.srcStride ≤ x.src * 64
   | 1 => x.key0 + x.cols ≤ 8192 && inLedge (64 * s.fld (.score c) .scoreCtrl 0 17 0) 1280
   | _ => true) &&
  (!st.any Stage.readsSrc2 || inLedge (x.src2 * 64) ((x.rows - 1) * x.srcStride + rowN)) &&
  (x.dstSpace ≠ 0 || inLedge (x.dst * 64) ((x.rows - 1) * x.dstStride + x.fo.rowBytes x.cols)) &&
  s.chainInside c x.chainId && s.chainSlotsOk c st && chainAddrOk st x.rows x.cols

/-- The checks of R95 for a VCHAIN in their order. -/
def State.vcCheck (s : State) (c : Fin 36) (q : Nat) (i : Ins) : Status :=
  let x := Vc.of i
  if !s.vcFormatOk c i x then .eFormat
  else if s.chainEntryBad c x.chainId then .eMemUncorr
  else
    let l := s.lenCheck c q i (if i.lenAxis = 1 then x.rows else x.cols)
    if l ≠ .ok then l
    else if s.lenZero c q i then .ok
    else firstFail [check (s.vcShapeOk c x) .eShape, check (s.vcAddrOk c x) .eAddr,
      check (s.slotFilled c (s.chain c x.chainId).stages (s.extent c q i 1 x.rows) 0) .eState]

/-- What a VCHAIN can touch (R88): its second source whether or not the chain reads it. -/
def State.vcTouch (s : State) (c : Fin 36) (i : Ins) : Touch :=
  let x := Vc.of i
  let st := (s.chain c x.chainId).stages
  let (before, after) := haloRows st
  let rowN := x.fi.srcRow x.cols
  let img := 64 * s.fld (.score c) .scoreCtrl 0 17 0
  { rd := (if x.srcSpace = 0 then
        [(ledgeAt c (x.src * 64 - before * x.srcStride), (x.rows - 1 + before + after) * x.srcStride + rowN)] else []) ++
      [ledgeRows c (x.src2 * 64) x.srcStride x.rows rowN] ++ s.chainReads c st x.rows x.cols
    wr := (if x.dstSpace = 0 then [ledgeRows c (x.dst * 64) x.dstStride x.rows (x.fo.rowBytes x.cols)] else []) ++
      s.chainStores c st x.rows x.cols ++ (if x.srcSpace = 1 then [(ledgeAt c img, 1280)] else [])
    scs := if x.sumEn then [x.sumReg] else []
    slots := if i.lenAxis ≠ 0 then [i.lenSlot] else []
    score := x.srcSpace == 1 }

/-- A tile-register element of a region of some columns (R121). -/
def tregKey (first cols r j : Nat) : Nat := 4096 * (first + r / 64 * ceilDiv cols 64 + j / 64) + 64 * (r % 64) + j % 64

/-- Row r of the source, exactly (R84, R146, R148, R370); a row outside the region is a halo row. -/
def State.vcRow (s : State) (c : Fin 36) (x : Vc) (cols : Nat) (r : Int) : List FVal :=
  match x.srcSpace with
  | 0 => decodeRow x.fi (s.bytes (((ledgeAt c (x.src * 64) : Nat) : Int) + r * x.srcStride).toNat (x.fi.srcRow cols)) cols
  | 1 =>
    let k := s.core c
    (List.range cols).map (fun j =>
      let key := x.key0 + j
      if k.scoreValid.getLsbD (key / 64) then f32 (FMap.get 0 k.score (8192 * r.toNat + key)) else .inf true)
  | _ => (List.range cols).map (fun j => f32 (FMap.get 0 (s.core c).tregs (tregKey (x.src % 32) x.cols r.toNat j)))

/-- The values that enter stage 1: X96 elements rounded once to FP32 (R370). -/
def Vc.enter (x : Vc) (row : List FVal) : List FVal := if x.fi = .x96 then row.map FVal.rne else row

/-- The first tile that meets an uncorrectable word (R96, R239). -/
def State.vcBadTile (s : State) (c : Fin 36) (f : Flight) (x : Vc) (rows cols : Nat) : Option Nat :=
  let st := (Chain.ofWords f.chainW).stages
  let nt := ceilDiv cols 64
  let tiles := (List.range (ceilDiv rows 64)).flatMap (fun a => (List.range nt).map (fun b => (a, b)))
  let rowBad (off stride r : Nat) : Bool := (s.badIn (ledgeAt c (off * 64 + r * stride)) (x.fi.srcRow cols)).isSome
  (tiles.filterMap (fun (a, b) =>
    let rs := (List.range (min 64 (rows - 64 * a))).map (· + 64 * a)
    let srcBad := match x.srcSpace with
      | 0 => rs.any (rowBad x.src x.srcStride)
      | 1 => (s.core c).scoreBad.any (fun w => rs.contains (w / 1024) &&
          x.key0 + 64 * b ≤ w % 1024 * 8 + 7 && w % 1024 * 8 < x.key0 + min cols (64 * b + 64))
      | _ => false
    if srcBad || (st.any Stage.readsSrc2 && rs.any (rowBad x.src2 x.srcStride)) || s.chainTileBad c st rows cols a b
    then some (a * nt + b) else none)).min?

/-- Writes the result of a VCHAIN to the Ledge or to tile registers (R121, R125). -/
def State.vcWrite (s : State) (c : Fin 36) (x : Vc) (sr : SrIn) (point : Nat) (m : Mat) : State :=
  if x.dstSpace = 0 then s.writeRows x.fo sr point (ledgeAt c (x.dst * 64)) x.dstStride m
  else
    let k := s.core c
    s.setCore c { k with tregs := m.zipIdx.foldl (fun t (r, i) => r.zipIdx.foldl (fun t (v, j) =>
      FMap.set 0 t (tregKey (x.dst % 32) x.cols i j) (rne32 v)) t) k.tregs }

/-- The SUM, RCP and LSE vectors of the statistics image (R149). -/
def State.sumImage (s : State) (c : Fin 36) : Nat × List Byte :=
  let k := s.core c
  let sums := (List.range 64).map (fun n => f32 (FMap.get 0 k.scoreSum n))
  (64 * s.fld (.score c) .scoreCtrl 0 17 0 + 512, vecBytes (sums ++ sums.map fnRcp ++ sums.map fnLog))

/-- What the chain of a VCHAIN leaves over the region (R84, R130, R141). -/
def State.vcOut (s : State) (c : Fin 36) (f : Flight) : ChainOut :=
  let i := f.ins
  let x := Vc.of i
  let sr := f.srIn (i.rnd.getD .rne)
  let h := Chain.ofWords f.chainW
  let (rows, cols) := (f.m, f.n)
  let inp : Mat := (List.range rows).map (fun (r : Nat) => x.enter (s.vcRow c x cols r))
  let src2 : Mat := if h.stages.any Stage.readsSrc2 then
      (List.range rows).map (fun r =>
        x.enter (decodeRow x.fi (s.bytes (ledgeAt c (x.src2 * 64 + r * x.srcStride)) (x.fi.srcRow cols)) cols))
    else []
  let halo := h.stages.any (fun g => g.isConv && g.halo)
  let outside (r : Int) (j : Nat) : FVal :=
    if 0 ≤ r ∧ r < rows then inp.at r.toNat j
    else if halo ∧ x.srcSpace = 0 then (x.enter (s.vcRow c x cols r)).getD j FVal.zero else FVal.zero
  let ci : ChainIn := { core := c, sr := sr, point := h.srBase, src2 := src2, acc := inp, input := outside,
                        plannedM := x.rows }
  s.runChain ci inp x.fo h.stages

/-- Runs a VCHAIN: its chain over the region, its writes, its row sums and its summary (R84, R130, R150). -/
def State.vcRun (s : State) (c : Fin 36) (f : Flight) : State × Flight :=
  let i := f.ins
  let x := Vc.of i
  let sr := f.srIn (i.rnd.getD .rne)
  let h := Chain.ofWords f.chainW
  let (rows, cols) := (f.m, f.n)
  let o := s.vcOut c f
  let total := ceilDiv rows 64 * ceilDiv cols 64
  let bad := s.vcBadTile c f x rows cols
  let empty := x.srcSpace == 1 && (List.range rows).any (fun n => (s.core c).maxOf n == 0xFF800000#32)
  let s := s.vcWrite c x sr (h.srBase + h.n) o.cur
  let s := s.chainWrites c o.writes
  let counts : List (Pg × RegName × Nat × Nat) := [(.vector c, .chainTileCount, 0, total),
    (.sequencer c, .skippedTileCount, 0, ceilDiv x.rows 64 * ceilDiv x.cols 64 - total)] ++
    (if x.srcSpace = 1 then [(.score c, .scoreTilesRead, 0, total)] else [])
  let (s, img) :=
    if x.srcSpace = 1 then
      let k := s.core c
      let sums := o.cur.zipIdx.foldl (fun t (r, n) => FMap.set 0 t n (rne32 (chunkSum r))) ([] : FMap (BitVec 32))
      let s := s.setCore c { k with scoreSum := sums }
      ((if empty then s.event (.score c) 0 else s), [s.sumImage c])
    else (s, [])
  (s, { f with
    total := total
    wm := bad.getD total
    status := if bad.isSome then .eMemUncorr else .ok
    atEnd := f.atEnd ++ o.atEnd ++ img
    counts := counts
    scAtEnd := if x.sumEn then some (x.sumReg, o.summary) else none })

/-- VCHAIN (R84): the checks of R95 in order, then the chain. -/
def execVchain (c : Fin 36) (q : Fin 8) (s : State) : Host.Outcome State Fault Refusal :=
  .next (s.awake fun s => s.row c q (fun i => i.opcode == opVchain) fun s i =>
    let x := Vc.of i
    let t := s.vcTouch c i
    if !(s.queue c q).free t then s
    else
      let st := s.vcCheck c q i
      if st ≠ .ok then (if st = .eState then s.event (.vector c) 1 else s).issueFailed c q i st false
      else if s.lenZero c q i then ((s.issue c q (started i {} true) (i.pc + 32)).drainQueue c q).settled
      else
        let f := s.withSr c q { started i t false with
          m := s.extent c q i 1 x.rows, n := s.extent c q i 2 x.cols, chainW := s.chainWords c x.chainId }
        let need := x.need (Chain.ofWords f.chainW).stages
        let f := { f with old := s.snapshot c q f, need := need }
        let (s, f) := (s.chainStarts c q need).vcRun c f
        s.issue c q f (i.pc + 32))

end Sys2Proof.Machine
end

