-- ==== Sys2Proof/Machine/Collective.lean ====
section
/-! DEFINITION. Collectives and PERMUTE, and the frames that carry them (R333 to R335, R340 to R345, R348 to R351). -/

namespace Sys2Proof.Machine

/-! ### The descriptor (R341) -/

/-- Word i of a descriptor. -/
def Coll.w (c : Coll) (i : Nat) : Word := c.words.getD i 0
/-- 1 ALL_REDUCE, 2 REDUCE_SCATTER, 3 ALL_GATHER, 4 BROADCAST, 5 MULTICAST, 6 PERMUTE. -/
def Coll.op (c : Coll) : Nat := bits (c.w 0) 7 0
/-- Format code of src. -/
def Coll.inF (c : Coll) : Nat := bits (c.w 0) 11 8
/-- Format code of dst. -/
def Coll.outF (c : Coll) : Nat := bits (c.w 0) 15 12
/-- Format of src. -/
def Coll.fi (c : Coll) : Fmt := (Fmt.ofCode c.inF).getD .fp32
/-- Format of dst. -/
def Coll.fo (c : Coll) : Fmt := (Fmt.ofCode c.outF).getD .fp32
/-- 0 SUM, 1 MAX, 2 MIN. -/
def Coll.red (c : Coll) : Nat := bits (c.w 0) 20 19
/-- Group. -/
def Coll.group (c : Coll) : Nat := bits (c.w 0) 26 21
/-- Root rank. -/
def Coll.root (c : Coll) : Nat := bits (c.w 0) 34 27
/-- 0 normal, 1 resolve by commit, 2 resolve by discard. -/
def Coll.resolve (c : Coll) : Nat := bits (c.w 0) 40 39
/-- Source, or table of a PERMUTE. -/
def Coll.src (c : Coll) : Nat := bits (c.w 1) 47 0
/-- Destination base. -/
def Coll.dst (c : Coll) : Nat := bits (c.w 2) 47 0
/-- Elements per member, or table entries. -/
def Coll.count (c : Coll) : Nat := bits (c.w 3) 31 0
/-- Units a member of a PERMUTE receives. -/
def Coll.inUnits (c : Coll) : Nat := bits (c.w 3) 63 32
/-- Tideline deadline. -/
def Coll.deadline (c : Coll) : Word := c.w 6
/-- Staging address of a PERMUTE. -/
def Coll.aux (c : Coll) : Nat := bits (c.w 7) 47 0
/-- First peer of a MULTICAST, and their number. -/
def Coll.peers (c : Coll) : List Nat := (List.range (bits (c.w 5) 55 48 + 1)).map (fun i => bits (c.w 5) 47 40 + i)
/-- The op adds, or takes the greatest or the least. -/
def Coll.reduces (c : Coll) : Bool := c.op == 1 || c.op == 2

/-- A collective of a ring. -/
def State.coll (s : State) (ring : Nat) : Option Coll := FMap.get none s.tw.colls ring
/-- Replaces the collective of a ring. -/
def State.setColl (s : State) (ring : Nat) (c : Option Coll) : State :=
  { s with tw := { s.tw with colls := FMap.set none s.tw.colls ring c } }
/-- A field of a group (R352). -/
def State.grp (s : State) (g hi lo : Nat) : Nat := s.fld .tideway .twGroup g hi lo
/-- Members of a group. -/
def State.grpSize (s : State) (g : Nat) : Nat := s.grp g 7 0 + 1
/-- This module's rank in a group. -/
def State.grpRank (s : State) (g : Nat) : Nat := s.grp g 15 8
/-- The peer entry of the left neighbour. -/
def State.grpLeft (s : State) (g : Nat) : Nat := s.grp g 23 16
/-- The peer entry of the right neighbour. -/
def State.grpRight (s : State) (g : Nat) : Nat := s.grp g 31 24
/-- The ring start. -/
def State.grpStart (s : State) (g : Nat) : Nat := s.grp g 39 32
/-- The generation. -/
def State.grpGen (s : State) (g : Nat) : Nat := s.grp g 55 40
/-- A PERMUTE of the group is in doubt (R350). -/
def State.inDoubt (s : State) (g : Nat) : Bool := bit1 (s.rd .tideway .twGroup g) 62
/-- The base of a ring. -/
def State.twRingBase (s : State) (ring : Nat) : Nat := s.fld .tideway .twRing ring 47 6 * 64
/-- The slot of a descriptor. -/
def State.twSlot (s : State) (ring ix : Nat) : Nat := slotAddr (s.twRingBase ring) (s.fld .tideway .twRing ring 51 48) ix
/-- The class of a ring, which is its virtual channel. -/
def State.twClass (s : State) (ring : Nat) : Nat := s.fld .tideway .twRing ring 53 52

/-- A reduction of the format is exact (R343). -/
def exactForm (f : Fmt) : Bool := match f with | .e4m3 | .e5m2 | .int8 | .int4 | .x96 => true | _ => false

/-- Bytes src takes. -/
def Coll.srcBytes (c : Coll) : Nat := c.fi.srcRow c.count
/-- Elements that land in a member's dst. -/
def Coll.dstElems (c : Coll) (n : Nat) : Nat :=
  match c.op with
  | 2 => min c.count (ceilDiv (ceilDiv c.count n) 64 * 64)
  | 3 => c.count * n
  | _ => c.count
/-- Bytes that land in a member's dst. -/
def Coll.dstBytes (c : Coll) (n : Nat) : Nat := if c.op = 6 then c.inUnits * 4096 else c.fo.srcRow (c.dstElems n)

/-- Entry i of the table of a PERMUTE: source, destination rank, offset and units (R348). -/
def State.piece (s : State) (c : Coll) (i : Nat) : Nat × Nat × Nat × Nat :=
  let a := s.word (c.src + 16 * i)
  let b := s.word (c.src + 16 * i + 8)
  (bits a 47 0, bits a 55 48, bits b 39 0, bits b 63 40)

/-- The first check of R344: reserved codes, rounding and pairings. -/
def Coll.formatOk (c : Coll) : Bool :=
  1 ≤ c.op && c.op ≤ 6 && bits (c.w 0) 63 41 == 0 && bits (c.w 5) 63 56 == 0 && c.resolve ≠ 3 &&
  (if c.op = 6 then true
   else (Fmt.ofCode c.inF).isSome && (Fmt.ofCode c.outF).isSome && bits (c.w 0) 17 16 ≤ 1 &&
     c.red ≤ 2 && (if c.reduces then c.fo ≠ .x96 || exactForm c.fi else c.fi == c.fo))

/-- The counts of a collective (R39, R40, R343, R344). -/
def Coll.countOk (c : Coll) : Bool :=
  c.op == 6 || (0 < c.count && !(c.count % 32 ≠ 0 && (c.fi == .e2m1 || c.fo == .e2m1)) &&
    !(c.count % 2 = 1 && (c.fi == .int4 || c.fo == .int4)))

/-- The addresses of a collective, its peers and its group (R342, R344, R348). -/
def State.collAddr (s : State) (c : Coll) : Status :=
  let g := c.group
  let n := s.grpSize g
  let named := if c.op = 5 then c.peers else if n = 1 then [] else [s.grpLeft g, s.grpRight g]
  firstFail [
    check (c.op = 5 || bit1 (s.rd .tideway .twGroup g) 63) .eAddr,
    check (named.all (fun k => k < 256 && bit1 (s.rd .tideway .twPeer k) 63)) .eAddr,
    check (c.op ≠ 4 || c.root < n) .eAddr,
    if c.op = 6 then
      firstFail [if c.count = 0 then .ok else s.access c.src (16 * c.count),
        check (c.aux % 4096 = 0 && c.dst % 4096 = 0) .eAddr,
        s.access c.aux (c.inUnits * 4096 + 65536),
        check ((List.range c.count).all (fun i =>
          let (a, r, o, _) := s.piece c i
          a % 4096 = 0 && o % 4096 = 0 && r < n)) .eAddr,
        firstFail ((List.range c.count).map (fun i =>
          let (a, _, _, u) := s.piece c i
          if u = 0 then .ok else s.access a (u * 4096)))]
    else
      firstFail [if c.op = 4 ∧ s.grpRank g ≠ c.root then .ok else s.access c.src c.srcBytes,
        if c.op = 5 then .ok else s.access c.dst (c.dstBytes n),
        check (c.op = 5 || !s.writeCut c.dst (c.dstBytes n)) .eAddr]]

/-- The checks of R344 in their order; a group in doubt takes nothing but its resolution (R350). -/
def State.collCheck (s : State) (c : Coll) : Status :=
  if !c.formatOk then .eFormat
  else if !c.countOk then .eShape
  else if s.collAddr c ≠ .ok then s.collAddr c
  else if c.op ≠ 5 ∧ bits (c.w 4) 63 48 ≠ s.grpGen c.group then .eState
  else if c.op ≠ 5 ∧ s.inDoubt c.group ≠ (c.op == 6 && c.resolve != 0) then .eState
  else if c.deadline ≠ 0 ∧ c.deadline.toNat < s.now.toNat then .eDeadline
  else .ok

/-! ### Elements on the way (R343) -/

/-- Bits of an element of a partial. -/
def wireBits (f : Fmt) (red : Nat) : Nat :=
  if red = 0 then (match f with | .e5m2 => 64 | .x96 => 96 | _ => 32)
  else if f = .e2m1 then 32 else f.width

/-- The place of the least significant bit of an exact wire form, below 2^0. -/
def wireScale (f : Fmt) : Nat := match f with | .e4m3 => 9 | .e5m2 => 16 | _ => 0

/-- A finite value in two's complement with its least significant bit at 2^-k. -/
def fixedOf (k : Nat) : FVal → Int
  | .fin neg m e =>
    let v : Int := if 0 ≤ e + k then (m * 2 ^ (e + k).toNat : Nat) else (m / 2 ^ (-(e + k)).toNat : Nat)
    if neg then -v else v
  | _ => 0

/-- The format a partial of MAX or MIN is read in: E2M1 elements travel as FP32 patterns. -/
def redFmt (f : Fmt) : Fmt := if f = .e2m1 then .fp32 else f

/-- The pattern and the map code (0 finite, 1 +infinity, 2 -infinity, 3 NaN) of a member's own element. -/
def ownElem (f : Fmt) (red raw : Nat) (v : FVal) : Nat × Nat :=
  if red ≠ 0 then (if f = .e2m1 then (rne32 v).toNat else raw, 0)
  else match f with
    | .x96 => (raw, 0)
    | .e4m3 | .e5m2 | .int8 | .int4 =>
      (((fixedOf (wireScale f) v) % (2 : Int) ^ wireBits f 0).toNat,
       match v with | .nan => 3 | .inf neg => (if neg then 2 else 1) | _ => 0)
    | _ => ((rne32 v).toNat, 0)

/-- The exact value of a pattern that MAX or MIN compares. -/
def redVal (f : Fmt) (p : Nat) : FVal := if f = .x96 then X96.val (BitVec.ofNat 96 p) else (redFmt f).decode p

/-- Map codes combined as R50 combines flags: opposite infinities give NaN. -/
def mapJoin (a b : Nat) : Nat := if a = 0 then b else if b = 0 ∨ a = b then a else 3

/-- A partial with an element added to it (R343). -/
def combine (f : Fmt) (red : Nat) (a b : Nat × Nat) : Nat × Nat :=
  if red ≠ 0 then
    let x := redVal f a.1
    let y := redVal f b.1
    if x.isNan ∨ y.isNan then (if f = .x96 then 2 ^ 92 else (redFmt f).canonNan, 0)
    else if (if red = 1 then x.lt y else y.lt x) then b else a
  else match f with
    | .x96 => ((X96.add (BitVec.ofNat 96 a.1) (BitVec.ofNat 96 b.1)).toNat, 0)
    | .e4m3 | .e5m2 | .int8 | .int4 => ((a.1 + b.1) % 2 ^ wireBits f 0, mapJoin a.2 b.2)
    | _ => ((rne32 ((f32 (BitVec.ofNat 32 a.1)).add (f32 (BitVec.ofNat 32 b.1)))).toNat, 0)

/-- The value a total rounds from (R51). -/
def totalVal (f : Fmt) (red : Nat) (a : Nat × Nat) : FVal :=
  if red ≠ 0 then redVal f a.1
  else match f with
    | .x96 => X96.val (BitVec.ofNat 96 a.1)
    | .e4m3 | .e5m2 | .int8 | .int4 =>
      match a.2 with
      | 1 => .inf false
      | 2 => .inf true
      | 3 => .nan
      | _ =>
        let v := toSigned (wireBits f 0) a.1
        .fin (decide (v < 0)) v.natAbs (-(wireScale f : Int))
    | _ => f32 (BitVec.ofNat 32 a.1)

/-- A value as a stored X96 element. -/
def x96Of : FVal → X96
  | .nan => X96.make 0 1
  | .inf neg => X96.make 0 (if neg then 4 else 2)
  | v => X96.make (fixedOf 32 v) 0

/-- The bytes of a row of totals in the output format, rounded once (R343). -/
def Coll.outBytes (c : Coll) (xs : List (Nat × Nat)) : List Byte :=
  let vals := xs.map (totalVal c.fi c.red)
  let sr : SrIn := { seed := 0, step := 0, tag := 0, base := 0, rowLen := 0,
                     rnd := (Rnd.ofCode (bits (c.w 0) 17 16)).getD .rne, sat8 := bit1 (c.w 0) 18 }
  if c.fo = .x96 then
    (if c.fi = .x96 then xs.map (fun x => leBytes x.1 12) else vals.map (fun v => leBytes (x96Of v).toNat 12)).flatten
  else encodeRow c.fo sr 0 0 [] vals

/-- The members' own elements from a first one, some of them. -/
def State.ownElems (s : State) (c : Coll) (first n : Nat) : List (Nat × Nat) :=
  let f := c.fi
  if f.packed then
    let bs := s.bytes (c.src + first / 2) (n / 2)
    let sc := s.bytes (c.src + c.count / 2 + first / 32) (ceilDiv n 32)
    (List.range n).map (fun i =>
      let raw := rawElem f bs i
      ownElem f c.red raw (if f = .e2m1 then e2m1Value (sc.getD (i / 32) 0).toNat raw else f.decode raw))
  else
    let k := f.width / 8
    let bs := s.bytes (c.src + first * k) (n * k)
    let vals := decodeRow f bs n
    (List.range n).map (fun i => ownElem f c.red (leNat ((bs.drop (i * k)).take k)) (vals.getD i FVal.zero))

/-- Elements laid out in a number of bits each, low bits first. -/
def packBits (w : Nat) (xs : List Nat) : List Byte :=
  if w = 4 then (chunksOf 2 xs (xs.length + 1)).map (fun p => BitVec.ofNat 8 (p.getD 0 0 + 16 * p.getD 1 0))
  else (xs.map (fun x => leBytes x (w / 8))).flatten

/-- Element i of bytes laid out so. -/
def unpackBits (w : Nat) (bs : List Byte) (i : Nat) : Nat :=
  if w = 4 then (bs.getD (i / 2) 0).toNat >>> (4 * (i % 2)) % 16 else leNat ((bs.drop (i * (w / 8))).take (w / 8))

/-- The map of non-finite elements, two bits each; empty when it is not needed (R343). -/
def mapOf (xs : List Nat) : List Byte :=
  if xs.all (· == 0) then []
  else (chunksOf 4 xs (xs.length + 1)).map (fun p =>
    BitVec.ofNat 8 (p.getD 0 0 + 4 * p.getD 1 0 + 16 * p.getD 2 0 + 64 * p.getD 3 0))

/-! ### Chunks (R342) -/

/-- Elements of a chunk slot: ⌈count / n⌉ rounded up to a multiple of 64. -/
def Coll.slot (c : Coll) (n : Nat) : Nat := ceilDiv (ceilDiv c.count n) 64 * 64
/-- First element of chunk j, and its elements. -/
def Coll.chunk (c : Coll) (n j : Nat) : Nat × Nat := (j * c.slot n, min ((j + 1) * c.slot n) c.count - min (j * c.slot n) c.count)
/-- The bytes of n elements in whole 64-byte units. -/
def unitBytes64 (n : Nat) : Nat := ceilDiv n 64 * 64
/-- Where chunk j starts in the stream of partials, and its bytes. -/
def Coll.partSpan (c : Coll) (n j : Nat) : Nat × Nat :=
  (j * unitBytes64 (c.slot n * wireBits c.fi c.red / 8), (c.chunk n j).2 * wireBits c.fi c.red / 8)

/-- A block of a result (R342): the rank it starts from, its first element in dst and its elements. -/
structure ResBlock where
  origin : Nat
  first : Nat
  len : Nat
  deriving DecidableEq, Repr

/-- The rank that owns chunk j. -/
def State.owner (s : State) (c : Coll) (j : Nat) : Nat := (j + s.grpStart c.group) % s.grpSize c.group

/-- The result blocks that go round the ring. -/
def State.blocks (s : State) (c : Coll) : List ResBlock :=
  let n := s.grpSize c.group
  match c.op with
  | 1 => (List.range n).map (fun j => ⟨s.owner c j, (c.chunk n j).1, (c.chunk n j).2⟩)
  | 3 => (List.range n).map (fun r => ⟨r, r * c.count, c.count⟩)
  | 4 => [⟨c.root, 0, c.count⟩]
  | _ => []

/-- Bytes of a result slot: as large as the largest block, in whole units. -/
def State.resSlot (s : State) (c : Coll) : Nat :=
  unitBytes64 (c.fo.srcRow (if c.op = 1 then c.slot (s.grpSize c.group) else c.count))

/-! ### Moving bytes -/

/-- A Tideway delivery: into a Ledge it counts toward arrival windows (R135), elsewhere it is an engine write (R248,
R341). -/
def State.twWrite (s : State) (cl a : Nat) (bs : List Byte) : State :=
  if ledgeBase 0 ≤ a ∧ a < ledgeBase 36 then
    s.deliver (Fin.ofNat 36 ((a - ledgeBase 0) / 0x2000000)) ((a - ledgeBase 0) % 0x2000000) bs
  else (s.engineWrite cl a bs).2

/-- Stores the bytes of elements from a first one into a row of total elements: for E2M1 the scale bytes stand after the
row's element bytes (R40). -/
def State.storeBlock (s : State) (cl : Nat) (f : Fmt) (base total first n : Nat) (bs : List Byte) : State :=
  if f = .e2m1 then
    let s := s.twWrite cl (base + first / 2) (bs.take (n / 2))
    s.twWrite cl (base + total / 2 + first / 32) (bs.drop (n / 2))
  else s.twWrite cl (base + f.srcRow first) bs

/-- The bytes of elements from a first one of src. -/
def State.loadBlock (s : State) (f : Fmt) (base total first n : Nat) : List Byte :=
  if f = .e2m1 then s.bytes (base + first / 2) (n / 2) ++ s.bytes (base + total / 2 + first / 32) (ceilDiv n 32)
  else s.bytes (base + f.srcRow first) (f.srcRow n)

/-- The frames of some bytes of a stream, at most 4,096 B each and padded to whole units (R333). -/
def State.framesOf (s : State) (ring : Nat) (c : Coll) (final_ : Bool) (start : Nat) (bs : List Byte) (codes : List Nat)
    (wbits rank addr : Nat) : List TwFrame :=
  let k := ceilDiv bs.length 4096
  (List.range k).map (fun i =>
    let part := (bs.drop (4096 * i)).take 4096
    let e0 := if wbits = 0 then 0 else 8 * 4096 * i / wbits
    let e1 := if wbits = 0 then 0 else ceilDiv (8 * 4096 * (i + 1)) wbits
    { vc := Fin.ofNat 4 (s.twClass ring), last := i + 1 = k, seq := 0, ack := 0, credits := 0, time := 0, op := BitVec.ofNat 8 c.op
      group := if c.op = 5 then 0 else Fin.ofNat 64 c.group, gseq := BitVec.ofNat 26 c.gseq
      generation := BitVec.ofNat 16 (bits (c.w 4) 63 48), offset := BitVec.ofNat 32 (start / 64 + 64 * i)
      inFmt := BitVec.ofNat 4 c.inF, outFmt := BitVec.ofNat 4 c.outF, redOp := BitVec.ofNat 2 c.red
      root := BitVec.ofNat 8 c.root, count := BitVec.ofNat 32 c.count, final_ := final_, rank := BitVec.ofNat 8 rank
      addr := BitVec.ofNat 48 (addr + 4096 * i), mapBits := mapOf ((codes.drop e0).take (e1 - e0))
      payload := part ++ List.replicate (unitBytes64 part.length - part.length) 0 })

/-- Sends bytes of a stream to the right neighbour. -/
def State.sendRight (s : State) (ring : Nat) (c : Coll) (final_ : Bool) (start : Nat) (bs : List Byte) (codes : List Nat)
    (wbits : Nat) : State :=
  s.sendFrames (s.grpRight c.group) (s.framesOf ring c final_ start bs codes wbits 0 0)

/-- The place of a result in the keys of a collective's inbox. -/
def resultBase : Nat := 2 ^ 40

/-- Bytes of the inbox. -/
def Coll.take (c : Coll) (a n : Nat) : List Byte := (List.range n).map (fun i => FMap.get 0 c.inbox (a + i))

/-- Every unit of a range has come in. -/
def Coll.has (c : Coll) (a n : Nat) : Bool := (List.range (ceilDiv n 64)).all (fun i => c.got.contains ((a / 64) + i))

/-- A result block is known here: it lands in dst and goes on to the right (R342). -/
def State.landResult (s : State) (ring : Nat) (c : Coll) (k : Nat) (b : ResBlock) (bs : List Byte) : State :=
  let n := s.grpSize c.group
  let total := if c.op = 3 then n * c.count else c.count
  let s := s.storeBlock (s.twClass ring) c.fo c.dst total b.first b.len bs
  if (s.grpRank c.group + 1) % n = b.origin then s else s.sendRight ring c true (k * s.resSlot c) bs [] 0

/-- A chunk is complete at its owner: it is rounded once and lands (R342, R343). -/
def State.landChunk (s : State) (ring : Nat) (c : Coll) (j : Nat) (xs : List (Nat × Nat)) : State :=
  let bs := c.outBytes xs
  if c.op = 2 then s.storeBlock (s.twClass ring) c.fo c.dst xs.length 0 xs.length bs
  else s.landResult ring c j ⟨s.grpRank c.group, (c.chunk (s.grpSize c.group) j).1, xs.length⟩ bs

/-- Chunk j, whose partial from the left is known, or which starts here: this rank's elements are added, and the chunk
goes on or lands (R343). -/
def State.addChunk (s : State) (ring : Nat) (c : Coll) (j : Nat) : State :=
  let n := s.grpSize c.group
  let r := s.grpRank c.group
  let (first, len) := c.chunk n j
  let own := s.ownElems c first len
  let (a, _) := c.partSpan n j
  let w := wireBits c.fi c.red
  let xs := if (s.owner c j + 1) % n = r then own
    else
      let bs := c.take a (len * w / 8)
      own.zipIdx.map (fun (x, i) =>
        combine c.fi c.red (unpackBits w bs i, FMap.get 0 c.flags (a * 8 / w + i)) x)
  if s.owner c j = r then s.landChunk ring c j xs
  else s.sendRight ring c false a (packBits w (xs.map (·.1))) (xs.map (·.2)) w

/-- The chunks and blocks a collective has done are noted. -/
def State.collDid (s : State) (ring key : Nat) : State :=
  match s.coll ring with
  | none => s
  | some c => s.setColl ring (some { c with done := KeySet.add c.done key })

/-- Keys of result blocks among the chunks done. -/
def resKey (k : Nat) : Nat := 2 ^ 20 + k

/-- Adds every chunk whose partial is in. -/
def State.addChunks (s : State) (ring : Nat) (c : Coll) : State :=
  let n := s.grpSize c.group
  let r := s.grpRank c.group
  if !c.reduces then s
  else (List.range n).foldl (fun (s : State) j =>
    let (a, len) := c.partSpan n j
    if c.done.contains j ∨ !((s.owner c j + 1) % n = r || c.has a len) then s
    else
      let s := (s.addChunk ring c j).collDid ring j
      if c.op = 1 ∧ s.owner c j = r then s.collDid ring (resKey j) else s) s

/-- Stores and passes on every result block that is in, or starts here. -/
def State.passResults (s : State) (ring : Nat) (c : Coll) : State :=
  (s.blocks c).zipIdx.foldl (fun (s : State) (b, k) =>
    let start := k * s.resSlot c
    let mine := c.op ≠ 1 ∧ b.origin = s.grpRank c.group
    let len := c.fo.srcRow b.len
    if c.done.contains (resKey k) then s
    else if mine then (s.landResult ring c k b (s.loadBlock c.fi c.src c.count 0 c.count)).collDid ring (resKey k)
    else if b.origin ≠ s.grpRank c.group ∧ c.has (resultBase + start) len then
      (s.landResult ring c k b (c.take (resultBase + start) len)).collDid ring (resKey k)
    else s) s

/-- Every chunk and block of a collective is done here. -/
def State.collDone (s : State) (c : Coll) : Bool :=
  let n := s.grpSize c.group
  (!c.reduces || (List.range n).all c.done.contains) && (List.range (s.blocks c).length).all (fun k => c.done.contains (resKey k))

/-- Every frame a collective sent is acknowledged (R345). The frames of a MULTICAST carry its number at each of its peers (R342). -/
def State.collQuiet (s : State) (c : Coll) : Bool :=
  let quiet (ports : List Nat) (mine : TwFrame → Bool) : Bool :=
    ports.all (fun p => !(s.twPort p).queue.any mine && !(s.twPort p).replay.any mine)
  if c.op = 5 then
    (c.peers.zip c.numbers).all (fun k => quiet (s.peerPorts k.1) (fun f => f.op.toNat == 5 && f.gseq.toNat == k.2 % 2 ^ 26))
  else quiet (List.range 16) (fun f => f.op.toNat == c.op && f.gseq.toNat == c.gseq % 2 ^ 26 && f.group.val == c.group)

/-! ### PERMUTE (R348 to R350) -/

/-- A 4 KiB unit comes in for this member: it lands in staging; a piece begins at offset 0 (R348). -/
def State.stage1 (s : State) (ring : Nat) (c : Coll) (f : TwFrame) : State :=
  let k := c.staged.length
  let pieces := c.wm + (if f.offset = 0 then 1 else 0)
  if c.inUnits ≤ k ∨ 1024 < pieces then s.setColl ring (some { c with status := .eShape })
  else
    let s := s.twWrite (s.twClass ring) (c.aux + 4096 * k) f.payload
    let s := if f.offset = 0 then s.storeFree (c.aux + 4096 * c.inUnits + 64 * c.wm) 64 else s
    s.setColl ring (some { c with staged := c.staged ++ [f.addr.toNat], wm := pieces })

/-- Sends every piece, this member's own among them (R349). -/
def State.sendPieces (s : State) (ring : Nat) (c : Coll) : State :=
  (List.range c.count).foldl (fun (s : State) i =>
    let (a, r, o, u) := s.piece c i
    let fs := s.framesOf ring c false 0 (s.bytes a (u * 4096)) [] 0 r o
    if r = s.grpRank c.group then
      fs.foldl (fun (s : State) f => match s.coll ring with
        | some c => if c.status = .ok then s.stage1 ring c f else s
        | none => s) s
    else s.sendFrames (s.grpRight c.group) fs) s

/-- The staged units of a PERMUTE with their places in staging, in ascending offset. -/
def Coll.ordered (c : Coll) : List (Nat × Nat) :=
  c.staged.zipIdx.mergeSort (fun x y => x.1 ≤ y.1)

/-- Commits a PERMUTE (R349): its staged units are copied to dst in ascending offset and the group's generation
advances; an uncorrectable unit ends the copy there. -/
def State.permuteCommit (s : State) (ring : Nat) (c : Coll) : State :=
  let units := c.ordered
  let good := units.takeWhile (fun x => (s.badIn (c.aux + 4096 * x.2) 4096).isNone)
  let s := good.foldl (fun (s : State) x => s.twWrite (s.twClass ring) (c.dst + x.1) (s.bytes (c.aux + 4096 * x.2) 4096)) s
  if good.length < units.length then
    s.setColl ring (some { c with committed := true, status := .eMemUncorr, wm := good.length })
  else
    let s := s.setFld .tideway .twGroup c.group 55 40 ((s.grpGen c.group + 1) % 65536)
    (s.bump .tideway .twPermuteCount 0 1).setColl ring (some { c with committed := true, wm := good.length })

/-- The decision of a PERMUTE (R349): a member whose sends are acknowledged and whose units are in passes the ready token
on; where it has come back to the ring start, the commit is decided and goes round. -/
def State.permuteMove (s : State) (ring : Nat) (c : Coll) : State :=
  let g := c.group
  let n := s.grpSize g
  let first := s.grpRank g = s.grpStart g % n
  let ready := s.collQuiet c ∧ c.staged.length = c.inUnits
  if c.op ≠ 6 ∨ c.committed ∨ c.resolve ≠ 0 then s
  else if n = 1 then (if ready then s.permuteCommit ring c else s)
  else if first ∧ c.passed ∧ c.tokenHere then
    (s.sendToken (s.grpRight g) 2 g c.gseq).permuteCommit ring c
  else if ready ∧ !c.passed ∧ (first ∨ c.tokenHere) then
    (s.sendToken (s.grpRight g) 1 g c.gseq).setColl ring (some { c with passed := true, tokenHere := false })
  else s

/-- A commit token comes (R349). -/
def State.permuteToken (s : State) (ring : Nat) (c : Coll) : State :=
  let g := c.group
  let n := s.grpSize g
  if c.op ≠ 6 ∨ c.committed ∨ !c.passed then s
  else
    let s := if (s.grpRank g + 1) % n = s.grpStart g % n then s else s.sendToken (s.grpRight g) 2 g c.gseq
    s.permuteCommit ring c

/-! ### Running -/

/-- A running collective goes on with what has come in. -/
def State.collGo (s : State) (ring : Nat) : State :=
  match s.coll ring with
  | none => s
  | some c =>
    if !c.running ∨ c.status ≠ .ok then s
    else
      let s := s.addChunks ring c
      let s := match s.coll ring with
        | some c => s.passResults ring c
        | none => s
      match s.coll ring with
      | some c => s.permuteMove ring c
      | none => s

/-- Every collective goes on, and the ports send. -/
def State.collsGo (s : State) : State := ((List.range 8).foldl State.collGo s.pumpPorts).pumpPorts

/-- The MULTICAST of src to its peers (R342). -/
def State.multicastOut (s : State) (ring : Nat) (c : Coll) : State :=
  let bs := s.bytes c.src c.srcBytes
  let s := s.setColl ring (some { c with numbers := c.peers.map (FMap.get 0 s.tw.mcast) })
  c.peers.foldl (fun (s : State) k =>
    let m := FMap.get 0 s.tw.mcast k
    let s := { s with tw := { s.tw with mcast := FMap.set 0 s.tw.mcast k (m + 1) } }
    s.sendFrames k (s.framesOf ring { c with gseq := m } false 0 bs [] 0 0 c.dst)) s

/-- A uncorrectable word stands in what a collective reads. -/
def State.collBad (s : State) (c : Coll) : Bool :=
  if c.op = 6 then
    (s.badIn c.src (16 * c.count)).isSome ||
    (List.range c.count).any (fun i => let (a, _, _, u) := s.piece c i; (s.badIn a (u * 4096)).isSome)
  else if c.op = 4 ∧ s.grpRank c.group ≠ c.root then false
  else (s.badIn c.src c.srcBytes).isSome

/-- A collective reads what it is to send (R342, R348). -/
def State.collReads (s : State) (ring : Nat) (c : Coll) : State :=
  let cl := s.twClass ring
  if c.resolve ≠ 0 then s
  else if c.op = 6 then
    (List.range c.count).foldl (fun (s : State) i => let (a, _, _, u) := s.piece c i; s.reads cl a (u * 4096)) (s.reads cl c.src (16 * c.count))
  else if c.op = 4 ∧ s.grpRank c.group ≠ c.root then s
  else s.reads cl c.src c.srcBytes

/-- The peer entries a collective sends to or hears from (R340, R342). -/
def State.collPeers (s : State) (c : Coll) : List Nat :=
  if c.op = 5 then c.peers else if s.grpSize c.group = 1 then [] else [s.grpLeft c.group, s.grpRight c.group]

/-- No port of a peer carries frames, and none is within its link_timeout: an operation that needs the peer completes with E_LINK
(R334). -/
def State.peerDead (s : State) (k : Nat) : Bool := (s.peerPorts k).all (fun p => !s.twUp p && (s.twPort p).retrain.isNone)

/-- A collective starts to move data: a group of one copies src to dst (R342). -/
def State.collBegin (s : State) (ring : Nat) (c : Coll) : State :=
  if c.resolve = 0 ∧ s.collBad c then s.setColl ring (some { c with status := .eMemUncorr })
  else if c.resolve = 0 ∧ (s.collPeers c).any s.peerDead then s.setColl ring (some { c with status := .eLink })
  else
    let s := (s.collReads ring c).setColl ring (some { c with running := true })
    let c := { c with running := true }
    let n := s.grpSize c.group
    let s := if c.op = 6 then
        (match c.resolve with
         | 0 => s.sendPieces ring c
         | 1 =>
           let staged := ((FMap.get none s.tw.doubt c.group).map (·.staged)).getD []
           let s := s.permuteCommit ring { c with staged := staged }
           let s := { s with tw := { s.tw with doubt := FMap.set none s.tw.doubt c.group none } }
           s.setFld .tideway .twGroup c.group 62 62 0
         | _ =>
           let s := { s with tw := { s.tw with doubt := FMap.set none s.tw.doubt c.group none } }
           (s.setFld .tideway .twGroup c.group 62 62 0).setColl ring (some { c with committed := true }))
      else if c.op = 5 then s.multicastOut ring c
      else if n = 1 ∧ c.fi = c.fo then
        (s.twWrite (s.twClass ring) c.dst (s.bytes c.src c.srcBytes)).setColl ring
          (some { c with done := [0, resKey 0] })
      else s
    s.collsGo

/-! ### Frames -/

/-- A frame is of a collective that this member issued otherwise (R340). -/
def collMismatch (c : Coll) (f : TwFrame) : Bool :=
  f.op.toNat != c.op || f.generation.toNat != bits (c.w 4) 63 48 ||
  (c.op != 6 && (f.count.toNat != c.count || f.inFmt.toNat != c.inF || f.outFmt.toNat != c.outF || f.redOp.toNat != c.red ||
    f.root.toNat != c.root))

/-- The payload of a frame enters the inbox of its collective. -/
def Coll.put (c : Coll) (f : TwFrame) : Coll :=
  let a := (if f.final_ then resultBase else 0) + 64 * f.offset.toNat
  let w := wireBits c.fi c.red
  let e := 64 * f.offset.toNat * 8 / w
  { c with
    inbox := memWrite c.inbox a f.payload
    got := (List.range (ceilDiv f.payload.length 64)).foldl (fun k i => KeySet.add k (a / 64 + i)) c.got
    flags := if f.final_ then c.flags
      else (List.range (4 * f.mapBits.length)).foldl (fun m i =>
        FMap.set 0 m (e + i) ((f.mapBits.getD (i / 4) 0).toNat >>> (2 * (i % 4)) % 4)) c.flags }

/-- The ring whose collective a frame belongs to. -/
def State.ringOf (s : State) (g gseq : Nat) : Option Nat :=
  (List.range 8).find? (fun r => match s.coll r with
    | some c => c.op ≠ 5 && c.resolve == 0 && c.group == g && c.gseq % 2 ^ 26 == gseq
    | none => false)

/-- A frame of a collective is applied. -/
def State.applyFrame (s : State) (ring : Nat) (f : TwFrame) : State :=
  match s.coll ring with
  | none => s
  | some c =>
    if c.status ≠ .ok then s
    else if collMismatch c f then s.setColl ring (some { c with status := .eState })
    else if c.op = 6 then
      if f.rank.toNat = s.grpRank c.group then s.stage1 ring c f else s.sendFrames (s.grpRight c.group) [f]
    else s.setColl ring (some (c.put f))

/-- A frame of a collective that this member has not issued yet. -/
def State.unissued (s : State) (f : TwFrame) : Bool :=
  (f.gseq.toNat + 2 ^ 26 - FMap.get 0 s.tw.gseq f.group.val % 2 ^ 26) % 2 ^ 26 < 2 ^ 25

/-- The frames held for a collective are applied once it is issued, and acknowledged; their credits return (R335). -/
def State.releaseHeld (s : State) (ring : Nat) (c : Coll) : State :=
  let mine (h : Nat × TwFrame) : Bool := h.2.group.val == c.group && h.2.gseq.toNat == c.gseq % 2 ^ 26
  let hs := s.tw.held.filter mine
  let s := { s with tw := { s.tw with held := s.tw.held.filter (fun h => !mine h) } }
  hs.foldl (fun (s : State) h =>
    let s := s.applyFrame ring h.2
    s.ackOn h.1 (s.ackFor h.1) true) s

/-- The Ledge bytes of a MULTICAST payload lie in enabled arrival windows (R342). -/
def State.inWindow (s : State) (a n : Nat) : Bool :=
  if ledgeBase 0 ≤ a ∧ a + n ≤ ledgeBase 36 then
    let c : Fin 36 := Fin.ofNat 36 ((a - ledgeBase 0) / 0x2000000)
    let off := (a - ledgeBase 0) % 0x2000000
    s.coreLive c.val && (List.range 4).any (fun i =>
      let (base, units, _, on) := s.window c i
      on && base ≤ off && off + n ≤ base + units * 4096)
  else false

/-- The bytes of a frame's payload that are data: its last unit may be padded. -/
def TwFrame.data (f : TwFrame) : List Byte :=
  f.payload.take (((Fmt.ofCode f.inFmt.toNat).getD .fp32).srcRow f.count.toNat - 64 * f.offset.toNat)

/-- A MULTICAST frame: stored, or refused with E_ADDR (R342). -/
def State.multicastIn (s : State) (p : Nat) (f : TwFrame) : State :=
  let bs := TwFrame.data f
  if s.inWindow f.addr.toNat bs.length then s.twWrite f.vc.val f.addr.toNat bs else (s.sentOn p).emit (.twAnswer p .eAddr)

/-- The credits of a frame's header come back, four bits for each virtual channel (R333). -/
def State.headerCredits (s : State) (p : Nat) (w : BitVec 16) : State :=
  (List.range 4).foldl (fun (s : State) i => s.twCredit p i (w.toNat >>> (4 * i) % 16)) s

/-- TIDEWAY_DATA_FRAME (R333 to R335): a frame that fails its CRC or is out of order is refused; one in order is applied,
or held until its collective is issued. -/
def execTidewayDataFrame (p : Fin 16) (f : TwFrame) (crcOk : Bool) (s : State) : Host.Outcome State Fault Refusal :=
  .next (s.awake fun s =>
    let pg := twPg p.val
    if !s.twUp p.val then s
    else if !crcOk then (s.bump pg .twpCrcErrors 0 1).ackOn p.val (s.twPort p.val).expect false
    else
      let s := (s.bump pg .twpRxFrames 0 1).bumpFree pg .twpFecCorrected 0
      let s := s.setTwPort p.val { s.twPort p.val with rxTime := s.now, rxSent := f.time }
      let x := s.twPort p.val
      let s := (s.twAcked p.val f.ack.toNat).headerCredits p.val f.credits
      if f.seq.toNat ≠ x.expect then
        -- a frame already received is acknowledged again, one from beyond a gap refused
        (if (f.seq.toNat + 65536 - x.expect) % 65536 < 32768 then s.ackOn p.val x.expect false
         else s.ackOn p.val (s.ackFor p.val) true).collsGo
      else
        let s := s.setTwPort p.val { s.twPort p.val with expect := (x.expect + 1) % 65536 }
        if f.op = 5 then ((s.multicastIn p.val f).ackOn p.val (s.ackFor p.val) true).collsGo.settled
        else
          match s.ringOf f.group.val f.gseq.toNat with
          | some r => ((s.applyFrame r f).ackOn p.val (s.ackFor p.val) true).collsGo.settled
          | none =>
            if s.unissued f then { s with tw := { s.tw with held := s.tw.held ++ [(p.val, f)] } }.collsGo
            else (s.ackOn p.val (s.ackFor p.val) true).collsGo)

/-- An abort comes for a group's collective (R345, R349, R351): a PERMUTE that has seen its commit ignores it, and one
for a collective not issued yet waits for it. -/
def State.collAborted (s : State) (g gseq : Nat) : State :=
  match s.ringOf g gseq with
  | some r =>
    match s.coll r with
    | some c => if c.committed ∨ c.status ≠ .ok then s else s.setColl r (some { c with status := .eAbort })
    | none => s
  | none =>
    if (gseq + 2 ^ 26 - FMap.get 0 s.tw.gseq g % 2 ^ 26) % 2 ^ 26 < 2 ^ 25 ∧ !s.tw.aborted.contains (g, gseq) then
      { s with tw := { s.tw with aborted := s.tw.aborted ++ [(g, gseq)] } }
    else s

/-- TIDEWAY_CONTROL_FRAME (R333, R334, R345, R349). -/
def execTidewayControlFrame (p : Fin 16) (k : TwControl) (s : State) : Host.Outcome State Fault Refusal :=
  .next (s.awake fun s =>
    if !s.twUp p.val then s
    else
      let s := s.bump (twPg p.val) .twpRxFrames 0 1
      match k with
      | .ack q => ((s.twAcked p.val q.toNat).semsAcked (fun k => (s.peerPorts k).contains p.val)).collsGo
      | .negative q => ((s.twAcked p.val (q.toNat + 65535)).twAgain p.val).collsGo
      | .credit vc n => (s.twCredit p.val vc.val n.toNat).collsGo
      | .abort g q => s.collAborted g.val q.toNat
      | .ready g q =>
        match s.ringOf g.val q.toNat with
        | some r =>
          match s.coll r with
          | some c => (s.setColl r (some { c with tokenHere := true })).collsGo
          | none => s
        | none => s
      | .commit g q =>
        match s.ringOf g.val q.toNat with
        | some r => match s.coll r with | some c => s.permuteToken r c | none => s
        | none => s)

/-! ### Rings -/

/-- TW_RING_TAIL_WRITE (R233, R341): descriptors are submitted, or RING_OVERRUN is raised. -/
def State.twRingTailWrite (s : State) (ring : Nat) (v : Word) : State :=
  let head := s.fld .tideway .twRingPtr ring 31 0
  if 2 ^ s.fld .tideway .twRing ring 51 48 < waitingIn head (bits v 63 32) then s.event .tideway 5
  else s.setFld .tideway .twRingPtr ring 63 32 (bits v 63 32)

/-- TW_RING_TAIL_WRITE (R341, R352). -/
def execTwRingTailWrite (ring : Fin 8) (v : Word) (s : State) : Host.Outcome State Fault Refusal :=
  .next (s.awake fun s => s.twRingTailWrite ring.val v)

/-- A write of a ring register (R233, R352): ignored while descriptors wait, or with a size out of range. -/
def State.twRingWrite (s : State) (ring : Nat) (v : Word) : State :=
  if s.fld .tideway .twRingPtr ring 31 0 ≠ s.fld .tideway .twRingPtr ring 63 32 ∨ bits v 51 48 < 4 ∨ 12 < bits v 51 48 then
    s.ignore .tideway
  else s.wrRw .tideway .twRing ring v

/-- A write of a group register (R351): ignored while a collective of the group is in flight. -/
def State.twGroupWrite (s : State) (g : Nat) (v : Word) : State :=
  if s.tw.colls.any (fun x => match x.2 with | some c => c.op ≠ 5 && c.group == g | none => false) then s.ignore .tideway
  else s.wrRw .tideway .twGroup g v

/-- The next descriptor of a ring, if the ring may start one (R341). -/
def State.twNext (s : State) (ring : Nat) : Option Coll :=
  let head := s.fld .tideway .twRingPtr ring 31 0
  if !bit1 (s.rd .tideway .twRing ring) 63 ∨ head = s.fld .tideway .twRingPtr ring 63 32 ∨ (s.coll ring).isSome ∨
      s.live .tideway ≠ .running then none
  else
    let a := s.twSlot ring head
    let st := if s.access a 64 ≠ .ok then s.access a 64 else if (s.badIn a 64).isSome then .eMemUncorr else .ok
    some { words := if st = .ok then s.words a 8 else [], ix := head, started := s.now, status := st }

/-- Takes the next descriptor of a ring when it is a row's, or one that no row lists: it is numbered in its group, checked,
and starts unless it waits for start_sem (R340, R341, R344). -/
def State.collTake (s : State) (ring op resolve : Nat) : State :=
  match s.twNext ring with
  | none => s
  | some c =>
    let listed := 1 ≤ c.op ∧ c.op ≤ 6 ∧ (c.op ≠ 6 ∨ c.resolve ≤ 2)
    if listed ∧ !(c.op = op && (op ≠ 6 || c.resolve = resolve)) then s
    else
      let numbered := c.op ≠ 5 ∧ c.resolve = 0 ∧ listed
      let q := FMap.get 0 s.tw.gseq c.group
      let s := s.reads (s.twClass ring) (s.twSlot ring c.ix) 64
      let c := { c with gseq := if c.op = 5 then FMap.get 0 s.tw.mcast (c.peers.headD 0) else q }
      let s := if numbered then { s with tw := { s.tw with gseq := FMap.set 0 s.tw.gseq c.group (q + 1) } } else s
      let st := if c.status = .ok then s.collCheck c else c.status
      let st := if st = .ok ∧ numbered ∧ s.tw.aborted.contains (c.group, q % 2 ^ 26) then .eAbort else st
      let s := { s with tw := { s.tw with aborted := s.tw.aborted.filter (· ≠ (c.group, q % 2 ^ 26)) } }
      let c := { c with status := st }
      let s := (s.setColl ring (some c)).releaseHeld ring c
      if bit1 (c.w 0) 38 then s
      else match s.coll ring with
        | some c => if c.status = .ok then s.collBegin ring c else s
        | none => s

/-- ALL_REDUCE (R342). -/
def execAllReduce (ring : Fin 8) (s : State) : Host.Outcome State Fault Refusal := .next (s.awake fun s => s.collTake ring.val 1 0)
/-- REDUCE_SCATTER (R342). -/
def execReduceScatter (ring : Fin 8) (s : State) : Host.Outcome State Fault Refusal := .next (s.awake fun s => s.collTake ring.val 2 0)
/-- ALL_GATHER (R342). -/
def execAllGather (ring : Fin 8) (s : State) : Host.Outcome State Fault Refusal := .next (s.awake fun s => s.collTake ring.val 3 0)
/-- BROADCAST (R342). -/
def execBroadcast (ring : Fin 8) (s : State) : Host.Outcome State Fault Refusal := .next (s.awake fun s => s.collTake ring.val 4 0)
/-- MULTICAST (R342). -/
def execMulticast (ring : Fin 8) (s : State) : Host.Outcome State Fault Refusal := .next (s.awake fun s => s.collTake ring.val 5 0)
/-- PERMUTE (R348, R349). -/
def execPermute (ring : Fin 8) (s : State) : Host.Outcome State Fault Refusal := .next (s.awake fun s => s.collTake ring.val 6 0)
/-- PERMUTE_RESOLVE_COMMIT (R350). -/
def execPermuteResolveCommit (ring : Fin 8) (s : State) : Host.Outcome State Fault Refusal := .next (s.awake fun s => s.collTake ring.val 6 1)
/-- PERMUTE_RESOLVE_DISCARD (R350). -/
def execPermuteResolveDiscard (ring : Fin 8) (s : State) : Host.Outcome State Fault Refusal := .next (s.awake fun s => s.collTake ring.val 6 2)

/-- COLLECTIVE_START (R344): a collective that waits for start_sem starts when it has reached its count; a faulted
semaphore ends the wait with E_ABORT. -/
def execCollectiveStart (ring : Fin 8) (s : State) : Host.Outcome State Fault Refusal :=
  .next (s.awake fun s => match s.coll ring.val with
    | none => s
    | some c =>
      let w := s.sem true 0 (bits (c.w 5) 15 0)
      if c.running ∨ c.status ≠ .ok ∨ !bit1 (c.w 0) 38 then s
      else if semFaulted w then s.setColl ring.val (some { c with status := .eAbort })
      else if bits (c.w 4) 47 0 ≤ semCount w then s.collBegin ring.val c
      else s)

/-- The bytes of dst that are committed, by element range (R345). -/
def State.landed (s : State) (c : Coll) : List (Nat × Nat) :=
  let n := s.grpSize c.group
  let r := s.grpRank c.group
  if c.op = 2 then
    (List.range n).filterMap (fun j => if c.done.contains j ∧ s.owner c j = r then some (0, c.fo.srcRow (c.chunk n j).2) else none)
  else (s.blocks c).zipIdx.filterMap (fun (b, k) =>
    if c.done.contains (resKey k) then some (c.fo.srcRow b.first, c.fo.srcRow (b.first + b.len)) else none)

/-- The leading bytes that ranges cover, in any order. -/
def leading (rs : List (Nat × Nat)) : Nat :=
  (rs.mergeSort (fun x y => x.1 ≤ y.1)).foldl (fun n r => if r.1 ≤ n then max n r.2 else n) 0

/-- The watermark of a collective: leading 4 KiB units of its dst that are committed (R345). -/
def State.collWm (s : State) (c : Coll) (st : Status) : Nat :=
  let n := s.grpSize c.group
  if c.op = 6 then (if c.committed then c.wm else 0)
  else if c.op = 5 then (if st = .ok then ceilDiv c.srcBytes 4096 else 0)
  else if st = .ok then ceilDiv (c.dstBytes n) 4096
  else leading (s.landed c) / 4096

/-- How the hardware ends a collective, or none where it cannot end so (R98, R344, R345, R349). -/
def State.collEnding (s : State) (c : Coll) (e : HwEnd) : Option Status :=
  if c.status ≠ .ok then some c.status
  else match e with
    | .finished =>
      if !c.running then none
      else if c.op = 6 then (if c.committed then some .ok else none)
      else if s.collDone c && s.collQuiet c then some .ok else none
    | .stopped => if c.deadline ≠ 0 ∧ c.deadline.toNat < s.now.toNat ∧ !c.committed then some .eDeadline else none
    | .uncorrected _ => if c.op = 6 ∧ c.committed then none else some .eMemUncorr
    | .power => some .ePower
    | .gone => if s.access c.dst (max 1 (c.dstBytes (s.grpSize c.group))) = .eGone ∨ s.access c.src (max 1 c.srcBytes) = .eGone
        then some .eGone else none
    | .answered st => if c.op = 5 ∧ st = .eAddr then some .eAddr else none
    | .link => none

/-- A collective ends with a status (R345): on a failure its neighbours are told, its dst at and above the watermark is
undefined, and its post semaphore is faulted; a PERMUTE in doubt keeps its staging (R350). -/
def State.collEnd (s : State) (ring : Nat) (c : Coll) (st : Status) : State :=
  let n := s.grpSize c.group
  let wm := s.collWm c st
  let doubt := c.op = 6 ∧ st = .eLink ∧ c.passed ∧ !c.committed ∧ c.tokenHere
  let s := s.setColl ring none
  let s := if st = .ok then s
    else
      let s := s.event .tideway 3
      let s := if c.op = 5 ∨ c.resolve ≠ 0 ∨ n = 1 then s
        else (s.sendToken (s.grpLeft c.group) 0 c.group c.gseq).sendToken (s.grpRight c.group) 0 c.group c.gseq
      if c.running ∧ c.op ≠ 5 ∧ c.op ≠ 6 then
        s.scramble (c.dst + 4096 * wm) (c.dstBytes n - 4096 * wm)
      else s
  let s := if doubt then
      ({ s with tw := { s.tw with doubt := FMap.set none s.tw.doubt c.group (some c) } }.setFld
        .tideway .twGroup c.group 62 62 1).event .tideway 2
    else s
  let id := c.ix + ring * 2 ^ 32
  let s := if st ≠ .ok then (s.goneCount st [c.src, c.dst]).ringError .tideway st id 3 wm (if st = .eMemUncorr then s.badIn c.src c.srcBytes else none) c.deadline else s
  let (stp, s) := s.jobPost st (bit1 (c.w 0) 36) (bit1 (c.w 0) 37) (bits (c.w 5) 31 16) (bits (c.w 5) 39 32 + 1)
  let s := if stp ≠ .ok ∧ st = .ok then s.ringError .tideway stp id 3 wm none c.deadline else s
  let s := if bit1 (c.w 0) 35 then s.ringRecord (s.twSlot ring c.ix) id stp wm c.started (c.deadline ≠ 0) else s
  (s.bump .tideway .twCollCount 0 1).setFld .tideway .twRingPtr ring 31 0 (c.ix + 1)

/-- COLLECTIVE_COMPLETE (R345): the collective of a ring ends. -/
def execCollectiveComplete (ring : Fin 8) (e : HwEnd) (s : State) : Host.Outcome State Fault Refusal :=
  .next (s.awake fun s => match s.coll ring.val with
    | none => s
    | some c =>
      match s.collEnding c e with
      | none => s
      | some st => s.collEnd ring.val c st)

/-- A collective's deadline has passed (R29, R344, R349): it stops, unless its commit is decided. -/
def State.collDeadline (s : State) (ring : Nat) : State :=
  match s.coll ring with
  | none => s
  | some c =>
    if c.status = .ok ∧ c.deadline ≠ 0 ∧ c.deadline.toNat < s.now.toNat ∧ !c.committed then
      s.setColl ring (some { c with status := .eDeadline })
    else s

/-! ### Links that do not come back (R334, R347, R350) -/

/-- A peer is reached by no port that carries frames. -/
def State.peerLost (s : State) (k : Nat) : Bool := (s.peerPorts k).all (fun p => !s.twUp p)

/-- The collectives that use a port end with E_LINK; a member of a PERMUTE that has passed the ready token and has lost
both its ring links is in doubt (R350): its token bit says so. -/
def State.linkLost (s : State) (p : Nat) : State :=
  (List.range 8).foldl (fun (s : State) r =>
    match s.coll r with
    | none => s
    | some c =>
      let used := s.collPeers c
      if c.status ≠ .ok ∨ c.committed ∨ !used.any (fun k => (s.peerPorts k).contains p) then s
      else
        let both := c.passed ∧ used.all s.peerLost
        s.setColl r (some { c with status := .eLink, tokenHere := both })) s

/-- LINK_TIMEOUT (R334): a port that has retrained for longer than link_timeout is down; every operation that uses it
completes with E_LINK, and the semaphores it fed are faulted (R347). -/
def execLinkTimeout (p : Fin 16) (s : State) : Host.Outcome State Fault Refusal :=
  .next (s.awake fun s =>
    let x := s.twPort p.val
    let limit := 4000 * max 1 (s.fld .tideway .twCtrl 0 22 7)
    match x.retrain with
    | none => s
    | some t =>
      if s.twUp p.val ∨ (s.now - t).toNat < limit then s
      else
        let s := (s.setTwState p.val 0).setTwPort p.val { x with queue := [], replay := [], retrain := none, replays := 0 }
        let s := s.event (twPg p.val) 0
        let s := { s with tw := { s.tw with held := s.tw.held.filter (fun h => h.1 ≠ p.val)
                                            sems := s.tw.sems.filter (fun m => !s.peerLost m.1)
                                            semOut := s.tw.semOut.filter (fun k => !s.peerLost k) } }
        ((s.linkLost p.val).faultRemote p.val).collsGo)

end Sys2Proof.Machine
end

