-- ==== Sys2Proof/Machine/Foreshore.lean ====
section
/-! DEFINITION. The Foreshore engine: layer stacks over frames and feature maps, the feature-map codec, and the jobs of
its ring (R217 to R235). -/

namespace Sys2Proof.Machine

/-! ### Layers (R218) -/

/-- A layer descriptor (R218). -/
structure Layer where
  op : Nat
  kh : Nat
  kw : Nat
  kt : Nat
  strideCode : Nat
  cIn : Nat
  cOut : Nat
  act : Nat
  split : Bool
  splitCodec : Nat
  ringCodec : Nat
  layout : Nat
  frameFmt : Nat
  param : Nat
  w : Nat
  h : Nat
  splitAddr : Nat
  reserved : Bool
  deriving DecidableEq, Repr

/-- The layer descriptor in four words (R218). -/
def Layer.of (x0 x1 x2 x3 : Word) : Layer :=
  { op := bits x0 1 0, kh := bits x0 4 2 + 1, kw := bits x0 7 5 + 1, kt := bits x0 9 8 + 1, strideCode := bits x0 11 10,
    cIn := bits x0 19 12 + 1, cOut := bits x0 27 20 + 1, act := bits x0 29 28, split := bit1 x0 30,
    splitCodec := bits x0 32 31, ringCodec := bits x0 34 33, layout := bits x0 36 35, frameFmt := bits x0 39 37,
    param := bits x1 47 0, w := bits x2 15 0 + 1, h := bits x2 31 16 + 1, splitAddr := bits x3 47 0,
    reserved := bits x0 63 40 ≠ 0 || bits x1 63 48 ≠ 0 || bits x2 63 32 ≠ 0 || bits x3 63 48 ≠ 0 }

/-- The layers of a stack from its words, four each. -/
def layersOf : List Word → List Layer
  | a :: b :: c :: d :: r => Layer.of a b c d :: layersOf r
  | _ => []

/-- The spatial stride (R218). -/
def Layer.s (l : Layer) : Nat := 2 ^ l.strideCode
/-- A convolution, forward or transposed. -/
def Layer.conv (l : Layer) : Bool := l.op ≤ 1
/-- Width of the output map. -/
def Layer.wOut (l : Layer) : Nat := if l.op = 0 then l.w / l.s else if l.op = 1 then l.w * l.s else l.w
/-- Height of the output map. -/
def Layer.hOut (l : Layer) : Nat := if l.op = 0 then l.h / l.s else if l.op = 1 then l.h * l.s else l.h

/-- Channels of a frame format (R222). -/
def frameChannels (f : Nat) : Nat := if f = 2 then 1 else 3
/-- Bytes of a pixel of a frame format (R222). -/
def framePixel (f : Nat) : Nat := match f with | 0 => 3 | 1 => 4 | 2 => 1 | 3 => 4 | _ => 6

/-- Values stored for a map in a layout; NC16HW16 stores channels in whole blocks of 16 (R218). -/
def mapValues (layout w h c : Nat) : Nat := if layout = 2 then ceilDiv c 16 * 16 * w * h else w * h * c

/-- Bytes of a BF16 map of n values under a codec (R226). -/
def codecBytes (codec n : Nat) : Nat := match codec with | 0 => 2 * n | 1 => ceilDiv n 64 * 64 | _ => ceilDiv n 64 * 32

/-- Bytes of the input of a layer as its history ring keeps it (R223): the frame of a FRAME_IN, else a map under ring_codec. -/
def Layer.keptBytes (l : Layer) : Nat :=
  if l.op = 2 then l.w * l.h * framePixel l.frameFmt else codecBytes l.ringCodec (mapValues l.layout l.w l.h l.cIn)

/-- Bytes of one slot of a layer's history ring, padded to 64 (R223). -/
def Layer.ringSlot (l : Layer) : Nat := ceilDiv l.keptBytes 64 * 64

/-- Bytes of a layer's history ring (R223). -/
def Layer.ringBytes (l : Layer) : Nat := (l.kt - 1) * l.ringSlot

/-- Bytes of the line buffer a layer holds (R223). -/
def Layer.lineBytes (l : Layer) : Nat :=
  if l.op = 0 then (l.kh + l.s - 1) * l.w * l.cIn * 2 * l.kt
  else if l.op = 1 then (ceilDiv l.kh l.s + 1) * l.w * l.cIn * 2 * l.kt else 0

/-- Bytes of a layer's parameters (R218). -/
def Layer.paramBytes (l : Layer) : Nat :=
  if l.conv then 2 * l.cOut * l.kt * l.kh * l.kw * l.cIn + 4 * l.cOut else 8 * frameChannels l.frameFmt

/-! ### The codec (R226 to R228) -/

/-- Floor of the base-2 logarithm of a nonzero finite magnitude. -/
def FVal.log2 : FVal → Int
  | .fin _ m e => Nat.log2 m + e
  | _ => 0

/-- The magnitude of a value. -/
def FVal.abs : FVal → FVal
  | .fin _ m e => .fin false m e
  | .inf _ => .inf false
  | .nan => .nan

/-- The sign bit of a finite value. -/
def FVal.neg : FVal → Bool
  | .fin n _ _ => n
  | _ => false

/-- |x| / 2^k rounded to a whole number, ties to even. -/
def quanta (k : Int) : FVal → Nat
  | .fin _ m e => let (t, r, d) := scaleDiv m 1 (e - k); roundUp .rne 0 t r d
  | _ => 0

/-- The compressed block of 64 values at m magnitude bits, as one number (R226, R227). -/
def encodeBlock (m : Nat) (xs : List FVal) : Nat :=
  if xs.any (fun x => match x with | .fin _ _ _ => false | _ => true) then 0xFF
  else
    let a := maxOf (xs.map FVal.abs)
    let ef : Int := if a.isZero then 0 else max 1 (a.log2 + 127)
    let eb : Int := max ef 1 - 127
    let w := m + 1
    (chunksOf 8 xs 8).zipIdx.foldl (fun acc (ys, j) =>
      let b := maxOf (ys.map FVal.abs)
      let e : Int := if b.isZero then eb - 3 else max (eb - 3) b.log2
      let acc := acc + (eb - e).toNat * 2 ^ (8 + 2 * j)
      ys.zipIdx.foldl (fun acc (x, i) =>
        let q := min (quanta (e + 1 - m) x) (2 ^ m - 1)
        acc + (q + if x.neg then 2 ^ m else 0) * 2 ^ (64 + w * (8 * j + i))) acc) ef.toNat

/-- The 64 values of a compressed block at m magnitude bits (R227). -/
def decodeBlock (m : Nat) (b : Nat) : List FVal :=
  let ef := b % 256
  let w := m + 1
  (List.range 64).map (fun i =>
    let v := b / 2 ^ (64 + w * i) % 2 ^ w
    let off := b / 2 ^ (8 + 2 * (i / 8)) % 4
    let eb : Int := (max ef 1 : Nat) - 127
    if ef = 0xFF then .nan
    else if ef = 0 then .fin (2 ^ m ≤ v) 0 0
    else (FVal.fin (2 ^ m ≤ v) (v % 2 ^ m) (eb - off + 1 - m)).round .bf16 .rne false 0)

/-- Magnitude bits of a codec (R226). -/
def codecBits (codec : Nat) : Nat := if codec = 1 then 6 else 2

/-- The bytes of BF16 values under a codec (R226, R227). -/
def encodeMap (codec : Nat) (xs : List FVal) : List Byte :=
  if codec = 0 then xs.flatMap (fun x => leBytes (Fmt.bf16.encode .rne false 0 x) 2)
  else (chunksOf 64 xs (xs.length + 1)).flatMap (fun b => leBytes (encodeBlock (codecBits codec) b) (if codec = 1 then 64 else 32))

/-- The BF16 values of n bytes of a map under a codec (R226, R227). -/
def decodeMap (codec : Nat) (bs : List Byte) : List FVal :=
  if codec = 0 then (chunksOf 2 bs (bs.length + 1)).map (fun b => Fmt.bf16.decode (leNat b))
  else (chunksOf (if codec = 1 then 64 else 32) bs (bs.length + 1)).flatMap (fun b => decodeBlock (codecBits codec) (leNat b))

/-- A compressed map holds a NaN block (R227). -/
def mapNan (codec : Nat) (bs : List Byte) : Bool :=
  codec ≠ 0 && (chunksOf (if codec = 1 then 64 else 32) bs (bs.length + 1)).any (fun b => leNat b % 256 == 0xFF)

/-- Compressed blocks of n values, 0 without a codec. -/
def codecBlocks (codec n : Nat) : Nat := if codec = 0 then 0 else ceilDiv n 64

/-! ### Maps -/

/-- A feature map in the engine: values by (row, column, channel), channels innermost. -/
structure FeatMap where
  w : Nat
  h : Nat
  c : Nat
  v : List FVal
  deriving Repr

/-- The value at a position, where in range. -/
def FeatMap.at (m : FeatMap) (y x ch : Nat) : FVal := m.v.getD ((y * m.w + x) * m.c + ch) FVal.zero

/-- A map built from its entries. -/
def FeatMap.build (w h c : Nat) (f : Nat → Nat → Nat → FVal) : FeatMap :=
  ⟨w, h, c, (List.range h).flatMap (fun y => (List.range w).flatMap (fun x => (List.range c).map (f y x)))⟩

/-- Where a position lies in a layout's storage order (R218). -/
def layoutIndex (layout w h c y x ch : Nat) : Nat :=
  match layout with
  | 0 => (ch * h + y) * w + x
  | 1 => (y * w + x) * c + ch
  | _ => ((ch / 16 * h + y) * w + x) * 16 + ch % 16

/-- The position that stands at an index of a layout's storage order: row, column, channel. -/
def layoutPos (layout w h c i : Nat) : Nat × Nat × Nat :=
  match layout with
  | 0 => (i / w % h, i % w, i / (w * h))
  | 1 => (i / (w * c), i / c % w, i % c)
  | _ => (i / (16 * w) % h, i / 16 % w, i / (16 * w * h) * 16 + i % 16)

/-- The values of a map in a layout's storage order; those of channels a block of 16 holds beyond the last are free. -/
def FeatMap.stored (m : FeatMap) (layout ix : Nat) : List FVal :=
  (List.range (mapValues layout m.w m.h m.c)).map (fun i =>
    let (y, x, ch) := layoutPos layout m.w m.h m.c i
    if ch < m.c then m.at y x ch else Fmt.bf16.decode (bits (Config.freeWord (ix + i)) 15 0))

/-- The map of a list of stored values. -/
def FeatMap.ofStored (layout w h c : Nat) (xs : List FVal) : FeatMap :=
  FeatMap.build w h c (fun y x ch => xs.getD (layoutIndex layout w h c y x ch) FVal.zero)

/-- The bytes of a map in a layout under a codec. -/
def FeatMap.bytes (m : FeatMap) (layout codec ix : Nat) : List Byte := encodeMap codec (m.stored layout ix)

/-! ### Frames (R222) -/

/-- The channel values of a pixel as stored (R222). -/
def pixelValue (f : Nat) (p : List Byte) (ch : Nat) : FVal :=
  match f with
  | 3 => .ofInt ((leNat p / 2 ^ (10 * ch) % 1024 : Nat))
  | 4 => Fmt.fp16.decode (leNat ((p.drop (2 * ch)).take 2))
  | _ => .ofInt ((p.getD ch 0).toNat : Nat)

/-- A value converted to a whole number of a channel's range by a mode (R42, R222). -/
def clampPixel (rnd : Rnd) (u hi : Nat) : FVal → Nat
  | .nan => 0
  | .inf n => if n then 0 else hi
  | .fin n m e =>
    let (t, r, d) := scaleDiv m 1 e
    if n then 0 else min hi (roundUp rnd u t r d)

/-- The bytes of a pixel from its channel codes (R222). -/
def pixelBytes (f : Nat) (v : Nat → Nat) : List Byte :=
  match f with
  | 0 => leBytes (v 0) 1 ++ leBytes (v 1) 1 ++ leBytes (v 2) 1
  | 1 => leBytes (v 0) 1 ++ leBytes (v 1) 1 ++ leBytes (v 2) 1 ++ [0xFF]
  | 2 => leBytes (v 0) 1
  | 3 => leBytes (v 0 + 1024 * v 1 + 1048576 * v 2) 4
  | _ => leBytes (v 0) 2 ++ leBytes (v 1) 2 ++ leBytes (v 2) 2

/-- A channel's code in a frame format, rounded at conversion point 13 (R222). -/
def channelCode (f : Nat) (rnd : Rnd) (u : Nat) (x : FVal) : Nat :=
  match f with
  | 3 => clampPixel rnd u 1023 x
  | 4 => Fmt.fp16.encode rnd false u x
  | _ => clampPixel rnd u 255 x

/-! ### Jobs (R230) -/

/-- Word i of a descriptor. -/
def FsJob.word (j : FsJob) (i : Nat) : Word := j.words.getD i 0
/-- Device address of layer descriptor 0. -/
def FsJob.stack (j : FsJob) : Nat := bits (j.word 0) 47 0
/-- Layers of the stack. -/
def FsJob.count (j : FsJob) : Nat := bits (j.word 0) 51 48 + 1
/-- The rounding mode; mode 3 is refused. -/
def FsJob.rnd (j : FsJob) : Option Rnd := Rnd.ofCode (bits (j.word 0) 53 52)
/-- Frame or input map. -/
def FsJob.inAddr (j : FsJob) : Nat := bits (j.word 1) 47 0
/-- Output. -/
def FsJob.outAddr (j : FsJob) : Nat := bits (j.word 2) 47 0
/-- Context; 0 means none. -/
def FsJob.ctx (j : FsJob) : Nat := bits (j.word 3) 47 0
/-- Tideline deadline; 0 means none. -/
def FsJob.deadline (j : FsJob) : Word := j.word 7
/-- The layers of the job. -/
def FsJob.ls (j : FsJob) : List Layer := layersOf j.layers
/-- The id of the job: ring count and engine (R320). -/
def FsJob.id (j : FsJob) (h : Fin 2) : Nat := j.ix + h.val * 2 ^ 32

/-- The SR inputs of a job at a layer (R221). -/
def FsJob.srU (j : FsJob) (layer point index : Nat) : Nat :=
  if j.rnd = some .sr then
    srBits (j.word 4) (j.word 5) (bits (j.word 3) 55 48 * 256 + layer * 16 + point) index
  else 0

/-- Bytes of the input of a job (R218, R222). -/
def FsJob.inBytes (j : FsJob) : Nat :=
  match j.ls.head? with
  | some l => if l.op = 2 then l.w * l.h * framePixel l.frameFmt
              else codecBytes (bits (j.word 1) 51 50) (mapValues (bits (j.word 1) 49 48) l.w l.h l.cIn)
  | none => 0

/-- Bytes of the output of a job (R222, R230). -/
def FsJob.outBytes (j : FsJob) : Nat :=
  match j.ls.getLast? with
  | some l => if l.op = 3 then l.w * l.h * framePixel l.frameFmt
              else codecBytes l.splitCodec (mapValues l.layout l.wOut l.hOut l.cOut)
  | none => 0

/-- The output rows of a job (R232). -/
def FsJob.rows (j : FsJob) : Nat := (j.ls.getLast?.map Layer.hOut).getD 0

/-- Check 1 of R231: reserved codes and bits of the descriptor. -/
def FsJob.wordsOk (j : FsJob) : Bool :=
  bits (j.word 0) 63 57 == 0 && j.rnd.isSome && bits (j.word 1) 63 52 == 0 && bits (j.word 1) 51 50 ≠ 3 &&
  bits (j.word 2) 63 48 == 0 && bits (j.word 3) 63 56 == 0 && bits (j.word 6) 63 24 == 0

/-- Check 1 of R231: reserved codes and bits of the layers, and codecs named on maps of another format (R226). -/
def FsJob.layersOk (j : FsJob) : Bool :=
  let ls := j.ls
  let first := (ls.head?.map Layer.op).getD 0
  ls.all (fun l => !l.reserved && l.strideCode ≠ 3 && l.splitCodec ≠ 3 && l.ringCodec ≠ 3 && l.layout ≠ 3 &&
    (l.conv || l.frameFmt ≤ 4) && !(l.op == 3 && l.splitCodec ≠ 0) && !(l.op == 2 && l.kt ≠ 1 && l.ringCodec ≠ 0)) &&
  (first == 2 || bits (j.word 1) 49 48 ≠ 3) && !(first == 2 && bits (j.word 1) 51 50 ≠ 0)

/-- R219 for one layer at its place in the stack. -/
def Layer.shapeOk (l : Layer) (i n : Nat) (before : Option Layer) : Bool :=
  l.kh ≤ 7 && l.kw ≤ 7 &&
  (match before with
   | some b => b.wOut == l.w && b.hOut == l.h
   | none => true) &&
  (if l.op = 0 then l.w % (16 * l.s) = 0 && l.h % (16 * l.s) = 0 else l.w % 16 = 0 && l.h % 16 = 0) &&
  16 ≤ l.w && l.w ≤ 4096 && 16 ≤ l.h && l.h ≤ 4096 && !(l.op == 2 && i ≠ 0) && !(l.op == 3 && i + 1 ≠ n) &&
  (l.conv || (l.cIn == frameChannels l.frameFmt && l.cOut == frameChannels l.frameFmt))

/-- The line-buffer bytes of the segments of a stack: the running segment's, then the largest (R223). -/
def segmentBytes : List Layer → Nat → Nat → Nat
  | [], cur, top => max cur top
  | l :: r, cur, top =>
    let cur := cur + l.lineBytes
    if l.split then segmentBytes r 0 (max cur top) else segmentBytes r cur top

/-- Check 2 of R231: R219, the line buffer of R223 and whole codec blocks (R226). -/
def FsJob.shapeOk (j : FsJob) : Bool :=
  let ls := j.ls
  ls.zipIdx.all (fun (l, i) => l.shapeOk i ls.length (if i = 0 then none else ls[i - 1]?)) &&
  segmentBytes ls 0 0 ≤ 0x800000 &&
  ls.all (fun l => (l.splitCodec == 0 || mapValues l.layout l.wOut l.hOut l.cOut % 64 = 0) &&
    (l.ringCodec == 0 || mapValues l.layout l.w l.h l.cIn % 64 = 0))

/-- Bytes of the job's context: header and rings (R223). -/
def FsJob.ctxBytes (j : FsJob) : Nat := 64 + (j.ls.map Layer.ringBytes).sum

/-- The split maps a job writes: address and bytes. -/
def FsJob.splits (j : FsJob) : List (Nat × Nat) :=
  (j.ls.dropLast.filter Layer.split).map (fun l => (l.splitAddr, codecBytes l.splitCodec (mapValues l.layout l.wOut l.hOut l.cOut)))

/-- Check 3 of R231: alignment to 64 bytes and address ranges. -/
def State.fsAddr (s : State) (j : FsJob) : Status :=
  let need := [(j.inAddr, j.inBytes), (j.outAddr, j.outBytes)] ++ j.splits ++ j.ls.map (fun l => (l.param, l.paramBytes)) ++
    (if j.ctx = 0 then [] else [(j.ctx, j.ctxBytes)])
  let cut := ((j.outAddr, j.outBytes) :: j.splits).any (fun (a, n) => s.writeCut a n)
  match need.findSome? (fun (a, n) =>
      if a % 64 ≠ 0 then some Status.eAddr else if s.access a n = .ok then none else some (s.access a n)) with
  | some st => st
  | none => if cut then .eAddr else .ok

/-- Check 4 of R231: the context. -/
def State.fsCtxOk (s : State) (j : FsJob) : Bool :=
  if j.ctx = 0 then j.ls.all (fun l => l.kt == 1)
  else s.word (j.ctx + 16) ≠ 1 && (s.word j.ctx == 0 || (s.word j.ctx).toNat == j.stack)

/-- The checks of a job, in the order of R231. -/
def State.fsCheck (s : State) (j : FsJob) : Status :=
  if !j.wordsOk then .eFormat
  else if j.stack % 32 ≠ 0 then .eAddr
  else if s.access j.stack (32 * j.count) ≠ .ok then s.access j.stack (32 * j.count)
  else if (s.badIn j.stack (32 * j.count)).isSome then .eMemUncorr
  else if !j.layersOk then .eFormat
  else if !j.shapeOk then .eShape
  else if s.fsAddr j ≠ .ok then s.fsAddr j
  else if !s.fsCtxOk j then .eState
  else if j.deadline ≠ 0 ∧ j.deadline.toNat < s.now.toNat then .eDeadline
  else .ok

/-! ### What a job computes -/

/-- A weight of a convolution layer by (output, tap, row, column, channel) (R218). -/
def State.fsWeight (s : State) (l : Layer) (o t ky kx c : Nat) : FVal :=
  Fmt.bf16.decode (leNat (s.bytes (l.param + 2 * ((((o * l.kt + t) * l.kh + ky) * l.kw + kx) * l.cIn + c)) 2))

/-- An FP32 parameter after the weights, or of a FRAME layer. -/
def State.fsParam (s : State) (a i : Nat) : FVal := f32 (BitVec.ofNat 32 (leNat (s.bytes (a + 4 * i) 4)))

/-- The bias of an output channel. -/
def State.fsBias (s : State) (l : Layer) (o : Nat) : FVal :=
  s.fsParam (l.param + 2 * l.cOut * l.kt * l.kh * l.kw * l.cIn) o

/-- An activation function (R220). -/
def fsAct (a : Nat) (x : FVal) : FVal :=
  match a with
  | 1 => FVal.zero.max x
  | 2 => fnSilu x
  | 3 => fnGelu x
  | _ => x

/-- The input value of a layer's map; a channel the earlier layer does not have is free. -/
def chan (m : FeatMap) (ix y x ch : Nat) : FVal :=
  if ch < m.c then m.at y x ch else Fmt.bf16.decode (bits (Config.freeWord (ix + ch)) 15 0)

/-- Where tap (ky, kx) of output (y, x) reads the input: none where an UPCONV has no term; `some none` outside the map,
where a CONV3D reads zero (R218). -/
def Layer.tap (l : Layer) (y x ky kx : Nat) : Option (Option (Nat × Nat)) :=
  let inside (i j : Int) : Option (Nat × Nat) :=
    if 0 ≤ i ∧ i < l.h ∧ 0 ≤ j ∧ j < l.w then some (i.toNat, j.toNat) else none
  if l.op = 0 then
    let ph : Int := ((l.kh - 1) / 2 : Nat)
    let pw : Int := ((l.kw - 1) / 2 : Nat)
    some (inside ((l.s * y + ky : Nat) - ph) ((l.s * x + kx : Nat) - pw))
  else
    let ph := (l.kh - l.s) / 2
    let pw := (l.kw - l.s) / 2
    let i : Int := ((y + ph : Nat) : Int) - ky
    let j : Int := ((x + pw : Nat) : Int) - kx
    if i % l.s = 0 ∧ j % l.s = 0 then
      match inside (i / l.s) (j / l.s) with
      | some p => some (some p)
      | none => none
    else none

/-- One output element of a convolution layer before its last rounding (R220): chunks of 32 terms in the order
(tap, ky, kx, c), then bias and activation. `hist t` is the layer's input t frames before the current one. -/
def State.fsElem (s : State) (l : Layer) (hist : List (Option FeatMap)) (ix y x o : Nat) : FVal :=
  let terms := hist.zipIdx.flatMap (fun (m, t) => (List.range l.kh).flatMap (fun ky => (List.range l.kw).flatMap (fun kx =>
    match l.tap y x ky kx with
    | none => []
    | some p => (List.range l.cIn).map (fun c =>
        (s.fsWeight l o t ky kx c).mul (match m, p with
          | some m, some (i, j) => chan m ix i j c
          | _, _ => FVal.zero)))))
  let acc := (chunksOf 32 terms (terms.length + 1)).foldl accChunk 0
  fsAct l.act (((f32 acc).add (s.fsBias l o)).rne)

/-- What a job has produced so far: the current map, the writes, where the next ring lies, whether a decoded block held
NaNs, and the blocks compressed and decompressed. -/
structure FsRun where
  m : FeatMap
  frame : List Byte := []
  writes : List (Nat × List Byte) := []
  ring : Nat
  nan : Bool := false
  blocksOut : Nat := 0
  blocksIn : Nat := 0
  deriving Repr

/-- The inputs of a layer's taps: the current map, then earlier frames from its history ring; beyond frames_seen zero
(R223). -/
def State.fsHist (s : State) (l : Layer) (ring seen : Nat) (m : FeatMap) : List (Option FeatMap) :=
  (List.range l.kt).map (fun t =>
    if t = 0 then some m
    else if seen < t then none
    else
      let a := ring + (seen - t) % (l.kt - 1) * l.ringSlot
      let n := mapValues l.layout l.w l.h l.cIn
      some (FeatMap.ofStored l.layout l.w l.h l.cIn (decodeMap l.ringCodec (s.bytes a (codecBytes l.ringCodec n)))))

/-- The current input of a layer goes into its history ring (R223): a slot written, and the blocks compressed. -/
def FsRun.keepInput (r : FsRun) (l : Layer) (seen ix : Nat) (frame : List Byte) : FsRun :=
  if l.kt = 1 then r
  else
    let bs := if l.op = 2 then frame
      else (FeatMap.build l.w l.h l.cIn (fun y x c => chan r.m ix y x c)).bytes l.layout l.ringCodec ix
    { r with
      ring := r.ring + l.ringBytes
      writes := r.writes ++ [(r.ring + seen % (l.kt - 1) * l.ringSlot, bs)]
      blocksOut := r.blocksOut + (if l.op = 2 then 0 else codecBlocks l.ringCodec (mapValues l.layout l.w l.h l.cIn)) }

/-- Runs one layer (R218 to R223). -/
def State.fsLayer (s : State) (j : FsJob) (rnd : Rnd) (seen last : Nat) (r : FsRun) (l : Layer) (k : Nat) : FsRun :=
  let ix := s.freeIx + 65536 * (k + 1)
  let r : FsRun := match l.op with
    | 2 =>
      -- FRAME_IN: pixels to values
      { r.keepInput l seen ix (s.bytes j.inAddr j.inBytes) with m := FeatMap.build l.w l.h l.cOut (fun y x o =>
          ((((r.m.at y x o).sub (s.fsParam l.param (l.cOut + o))).mul (s.fsParam l.param o)).rne).round .bf16 rnd false
            (j.srU k 12 ((y * l.w + x) * l.cOut + o))) }
    | 3 =>
      -- FRAME_OUT: values to pixels
      { r.keepInput l seen ix [] with frame := (List.range l.h).flatMap (fun y => (List.range l.w).flatMap (fun x =>
          pixelBytes l.frameFmt (fun o =>
            channelCode l.frameFmt rnd (j.srU k 13 ((y * l.w + x) * l.cOut + o))
              ((((chan r.m ix y x o).mul (s.fsParam l.param o)).rne.add (s.fsParam l.param (l.cOut + o))).rne)))) }
    | _ =>
      let n := mapValues l.layout l.w l.h l.cIn
      let taps := (List.range l.kt).filter (fun t => t ≠ 0 && t ≤ seen)
      let hist := s.fsHist l r.ring seen r.m
      let nan := taps.any (fun t =>
        mapNan l.ringCodec (s.bytes (r.ring + (seen - t) % (l.kt - 1) * l.ringSlot) (codecBytes l.ringCodec n)))
      let out := FeatMap.build l.wOut l.hOut l.cOut (fun y x o =>
        (s.fsElem l hist ix y x o).round .bf16 rnd false (j.srU k 12 ((y * l.wOut + x) * l.cOut + o)))
      { r.keepInput l seen ix [] with
        m := out, nan := r.nan || nan, blocksIn := r.blocksIn + taps.length * codecBlocks l.ringCodec n }
  if l.split ∧ k ≠ last then
    let n := mapValues l.layout r.m.w r.m.h r.m.c
    let bs := r.m.bytes l.layout l.splitCodec ix
    { r with
      m := FeatMap.ofStored l.layout r.m.w r.m.h r.m.c (decodeMap l.splitCodec bs)
      writes := r.writes ++ [(l.splitAddr, bs)], nan := r.nan || mapNan l.splitCodec bs
      blocksOut := r.blocksOut + codecBlocks l.splitCodec n, blocksIn := r.blocksIn + codecBlocks l.splitCodec n }
  else r

/-- The input of a job: a frame's pixels, or a map (R222, R230). -/
def State.fsInput (s : State) (j : FsJob) : FsRun :=
  match j.ls.head? with
  | none => { m := ⟨0, 0, 0, []⟩, ring := j.ctx + 64 }
  | some l =>
    if l.op = 2 then
      let px := framePixel l.frameFmt
      { m := FeatMap.build l.w l.h l.cIn (fun y x c => pixelValue l.frameFmt (s.bytes (j.inAddr + px * (y * l.w + x)) px) c)
        ring := j.ctx + 64 }
    else
      let lay := bits (j.word 1) 49 48
      let codec := bits (j.word 1) 51 50
      let bs := s.bytes j.inAddr j.inBytes
      { m := FeatMap.ofStored lay l.w l.h l.cIn (decodeMap codec bs), ring := j.ctx + 64, nan := mapNan codec bs
        blocksIn := codecBlocks codec (mapValues lay l.w l.h l.cIn) }

/-- The service class of a job (R291). -/
def FsJob.cls (j : FsJob) : Nat := Config.workClass 0 j.ix % 4

/-- Everything a job computes (R218 to R227). -/
def State.fsRun (s : State) (j : FsJob) : FsRun :=
  let seen := if j.ctx = 0 then 0 else (s.word (j.ctx + 8)).toNat
  let ls := j.ls
  ls.zipIdx.foldl (fun r (l, k) => s.fsLayer j (j.rnd.getD .rne) seen (ls.length - 1) r l k) (s.fsInput j)

/-- The output bytes of a job. -/
def FsJob.outOf (j : FsJob) (r : FsRun) (ix : Nat) : List Byte :=
  match j.ls.getLast? with
  | some l => if l.op = 3 then r.frame else r.m.bytes l.layout l.splitCodec ix
  | none => []

/-- The byte ranges of the output, relative to its base, that hold rows at or above a watermark, in a layout. -/
def FsJob.rowRanges (j : FsJob) (wm : Nat) : List (Nat × Nat) :=
  match j.ls.getLast? with
  | none => []
  | some l =>
    if l.op = 3 then [(wm * l.w * framePixel l.frameFmt, (l.h - wm) * l.w * framePixel l.frameFmt)]
    else
      let w := l.wOut
      let h := l.hOut
      let size (i : Nat) : Nat := match l.splitCodec with | 0 => 2 * i | 1 => i / 64 * 64 | _ => i / 64 * 32
      match l.layout with
      | 0 => (List.range l.cOut).map (fun c => (size ((c * h + wm) * w), size (((c + 1) * h) * w) - size ((c * h + wm) * w)))
      | 1 => [(size (wm * w * l.cOut), size (h * w * l.cOut) - size (wm * w * l.cOut))]
      | _ => (List.range (ceilDiv l.cOut 16)).map (fun c =>
          (size ((c * h + wm) * w * 16), size ((c + 1) * h * w * 16) - size ((c * h + wm) * w * 16)))

/-- What a job reads beside its split maps: its input, its layers' parameters, its context's header and the ring slots its taps reach (R218,
R223). -/
def State.fsReads (s : State) (j : FsJob) : List (Nat × Nat) :=
  let seen := (s.word (j.ctx + 8)).toNat
  let slots := (j.ls.foldl (fun (p : List (Nat × Nat) × Nat) l =>
    (p.1 ++ (if l.conv then ((List.range l.kt).filter (fun t => t ≠ 0 && t ≤ seen)).map (fun t =>
        (p.2 + (seen - t) % (l.kt - 1) * l.ringSlot, l.keptBytes)) else []), p.2 + l.ringBytes))
    (([] : List (Nat × Nat)), j.ctx + 64)).1
  [(j.inAddr, j.inBytes)] ++ j.ls.map (fun l => (l.param, l.paramBytes)) ++ (if j.ctx = 0 then [] else (j.ctx, 64) :: slots)

/-- A job's reads (R232, R243). -/
def State.fsRead (s : State) (j : FsJob) : State := (s.fsReads j).foldl (fun (s : State) r => s.reads j.cls r.1 r.2) s

/-- The first uncorrectable word of what a job reads (R239, R260). -/
def State.jobBad (s : State) (j : FsJob) : Option Nat := (s.fsReads j).findSome? (fun r => s.badIn r.1 r.2)

/-! ### The ring (R231 to R234) -/

/-- The job of an engine. -/
def State.fsJob (s : State) (h : Fin 2) : Option FsJob := FMap.get none s.fore h.val

/-- Replaces the job of an engine; FS_STAT.state follows it (R234). -/
def State.setFsJob (s : State) (h : Fin 2) (j : Option FsJob) : State :=
  let s := { s with fore := FMap.set none s.fore h.val j }
  let st := match j with
    | some j => if j.waiting then 2 else 1
    | none => if bit1 (s.rd (.foreshore h) .fsCtrl 0) 0 then 0 else 3
  s.setFld (.foreshore h) .fsStat 0 1 0 st

/-- The ring's slot of a count. -/
def State.fsSlot (s : State) (h : Fin 2) (n : Nat) : Nat :=
  slotAddr (s.fld (.foreshore h) .fsRingBase 0 47 6 * 64) (s.fld (.foreshore h) .fsRingCfg 0 3 0) n

/-- A job ends with a status and a watermark: post ADD, records, and the head advances (R232). -/
def State.fsEnd (s : State) (h : Fin 2) (j : FsJob) (st : Status) (wm : Nat) : State :=
  let p : Pg := .foreshore h
  let failed := st ≠ .ok
  let s := if failed then (s.goneCount st [j.inAddr, j.stack]).ringError p st (j.id h) 4 wm (if st = .eMemUncorr then s.jobBad j else none) j.deadline else s
  let (st, s) := s.jobPost st (bit1 (j.word 0) 55) (bit1 (j.word 0) 56) (bits (j.word 6) 15 0) (bits (j.word 6) 23 16 + 1)
  let s := if st ≠ .ok ∧ !failed then s.ringError p st (j.id h) 4 wm none j.deadline else s
  let s := if bit1 (j.word 0) 54 then s.ringRecord (s.fsSlot h j.ix) (j.id h) st wm j.started (j.deadline ≠ 0) else s
  let s := if st = .ok then s
    else
      let s := (s.setFld p .fsStat 0 15 8 st.code).setFld p .fsStat 0 31 16 (min wm 65535)
      (s.setFld p .fsStat 0 63 32 j.ix).event p 0
  let s := s.setFld p .fsRingHead 0 31 0 (j.ix + 1)
  (s.bump p .fsJobCount 0 1).setFsJob h none

/-- The other engine runs a job on the same context (R233). -/
def State.fsTaken (s : State) (h : Fin 2) (j : FsJob) : Bool :=
  match s.fsJob (h + 1) with
  | some o => o.ctx == j.ctx && j.ctx != 0 && !o.waiting
  | none => false

/-- A job that passed its checks runs, or waits while the other engine runs a job on its context (R233). -/
def State.fsBegin (s : State) (h : Fin 2) (j : FsJob) : State :=
  if s.fsTaken h j then (s.bumpFree (.foreshore h) .fsCtxWaitCycles 0).setFsJob h (some { j with waiting := true })
  else
    -- the first job that names an unbound context binds it (R223)
    let s := if j.ctx ≠ 0 ∧ s.word j.ctx = 0 then s.store j.ctx (leBytes j.stack 8) else s
    s.setFsJob h (some { j with waiting := false })

/-- FS_JOB_START (R231, R233): the next job of the ring is checked and starts, waits for its context, or fails at
decode; a job that waits starts once its context is free. -/
def execFsJobStart (h : Fin 2) (s : State) : Host.Outcome State Fault Refusal :=
  .next (s.awake fun s =>
    let p : Pg := .foreshore h
    match s.fsJob h with
    | some j =>
      if !j.waiting ∨ s.live p ≠ .running ∨ !bit1 (s.rd p .fsCtrl 0) 0 then s
      else if s.fsCheck j ≠ .ok then s.fsEnd h j (s.fsCheck j) 0
      else s.fsBegin h j
    | none =>
      let head := s.fld p .fsRingHead 0 31 0
      if !bit1 (s.rd p .fsCtrl 0) 0 ∨ head = s.fld p .fsRingTail 0 31 0 ∨ s.live p ≠ .running then s
      else
        let a := s.fsSlot h head
        let ws := s.words a 8
        let j : FsJob := { words := ws, layers := s.words (bits (ws.getD 0 0) 47 0) (4 * (bits (ws.getD 0 0) 51 48 + 1)),
                           ix := head, started := s.now }
        let s := (s.reads j.cls a 64).reads j.cls j.stack (32 * j.count)
        if s.access a 64 ≠ .ok then s.fsEnd h { j with words := [], layers := [] } (s.access a 64) 0
        else if (s.badIn a 64).isSome then s.fsEnd h { j with words := [], layers := [] } .eMemUncorr 0
        else if s.fsCheck j ≠ .ok then s.fsEnd h j (s.fsCheck j) 0
        else s.fsBegin h j)

/-- What a job whose engine stopped at a watermark leaves: rows below it committed; its other rows, its split maps and
the ring slots it writes undefined; its context FAULTED (R232); CODEC_NAN for a NaN block it decoded (R227). -/
def State.fsPartial (s : State) (h : Fin 2) (j : FsJob) (wm : Nat) : State :=
  let r := s.fsRun j
  let out := j.outOf r s.freeIx
  let s := ((s.fsRead j).engineWrite j.cls j.outAddr out).2
  let (k, s) := s.drawUpTo r.blocksOut
  let (n, s) := s.drawUpTo r.blocksIn
  let p : Pg := .foreshore h
  let s := ((s.bump p .fsCodecBlocksOut 0 k).bump p .fsCodecBlocksIn 0 n).bumpAllFree p [.fsMacCycles, .fsIoWaitCycles]
  let s := (j.rowRanges wm).foldl (fun (s : State) (a, n) => s.scramble (j.outAddr + a) n) s
  let s := r.writes.foldl (fun (s : State) (a, bs) => s.storeFree a bs.length) s
  let s := if r.nan then s.event p 5 else s
  if j.ctx = 0 then s else s.store (j.ctx + 16) (leBytes 1 8)

/-- What a job that ends with OK leaves: its maps, its history and its output, and frames_seen advanced (R232). -/
def State.fsCommit (s : State) (h : Fin 2) (j : FsJob) : State :=
  let p : Pg := .foreshore h
  let r := s.fsRun j
  let out := j.outOf r s.freeIx
  let s := { s.fsRead j with freeIx := s.freeIx + 65536 * 18 }
  let s := r.writes.foldl (fun (s : State) (a, bs) => (s.engineWrite j.cls a bs).2) s
  let s := (s.engineWrite j.cls j.outAddr out).2
  let outBlocks := match j.ls.getLast? with
    | some l => if l.op = 3 then 0 else codecBlocks l.splitCodec (mapValues l.layout l.wOut l.hOut l.cOut)
    | none => 0
  let s := (s.bump p .fsCodecBlocksOut 0 (r.blocksOut + outBlocks)).bump p .fsCodecBlocksIn 0 r.blocksIn
  let s := if r.nan then s.event p 5 else s
  let s := s.bumpAllFree p [.fsMacCycles, .fsIoWaitCycles]
  if j.ctx = 0 then s else s.store (j.ctx + 8) (leBytes ((s.word (j.ctx + 8)).toNat + 1) 8)

/-- How the hardware ends a running job: OK, a failure, or none where it cannot end so (R232). -/
def FsJob.ending (j : FsJob) (now : Word) (e : HwEnd) : Option Status :=
  match e with
  | .finished => some .ok
  | .stopped =>
    if j.abort then some .eAbort
    else if j.deadline ≠ 0 ∧ j.deadline.toNat < now.toNat then some .eDeadline else none
  | .uncorrected _ => some .eMemUncorr
  | .power => some .ePower
  | _ => none

/-- FS_JOB_COMPLETE (R232): the running job ends. `wm` is the rows committed where it did not finish, and `ecc` says
that a line-buffer word was corrected. -/
def execFsJobComplete (h : Fin 2) (e : HwEnd) (wm : Nat) (ecc : Bool) (s : State) : Host.Outcome State Fault Refusal :=
  .next (s.awake fun s => match s.fsJob h with
    | none => s
    | some j =>
      if j.waiting then s
      else
        let p : Pg := .foreshore h
        let s := if ecc then ((s.bump p .fsEccCorrected 0 1).event p 3).noted p .eMemUncorr else s
        match j.ending s.now e with
        | none => s
        | some .ok =>
          if (s.jobBad j).isSome then ((s.fsPartial h j (min wm j.rows)).event p 4).fsEnd h j .eMemUncorr (min wm j.rows)
          else (s.fsCommit h j).fsEnd h j .ok j.rows
        | some st =>
          let s := if st = .eMemUncorr then s.event p 4 else s
          (s.fsPartial h j (min wm j.rows)).fsEnd h j st (min wm j.rows))

/-- FS_RING_TAIL_WRITE (R233): jobs are submitted, or RING_OVERRUN is raised. -/
def execFsRingTailWrite (h : Fin 2) (v : Word) (s : State) : Host.Outcome State Fault Refusal :=
  .next (s.awake fun s => s.tailWrite (.foreshore h) .fsRingHead .fsRingTail (s.fld (.foreshore h) .fsRingCfg 0 3 0) 1 v)

/-- FS_CTRL.abort: the running job is to stop at its next check (R232, R234). -/
def State.fsAbort (s : State) (h : Fin 2) : State :=
  match s.fsJob h with
  | some j => if j.waiting then s else s.setFsJob h (some { j with abort := true })
  | none => s

/-- FS_ABORT (R234). -/
def execFsAbort (h : Fin 2) (s : State) : Host.Outcome State Fault Refusal := .next (s.awake fun s => s.fsAbort h)

/-- A write of FS_CTRL (R234): counter_clear and abort act at once. -/
def State.fsCtrlWrite (s : State) (h : Fin 2) (v : Word) : State :=
  let p : Pg := .foreshore h
  let s := if bit1 v 2 then s.clearCounters p else s
  let s := if bit1 v 1 then s.fsAbort h else s
  let s := s.wrRw p .fsCtrl 0 v
  s.setFsJob h (s.fsJob h)

end Sys2Proof.Machine
end

