-- ==== Sys2Proof/Machine/Cliff.lean ====
section
/-! DEFINITION. Cliff, the flash tier: object commands of its ring, and the work of its translation layer (R275 to R282,
R288, R289). -/

namespace Sys2Proof.Machine

/-- Bytes of an object unit (R280). -/
def unitBytes : Nat := 4096

/-- Units Cliff holds for objects: 12.8 TB, or 8 TB on KF7-512-LA (R275). -/
def Code.cliffUnits (code : Code) : Nat := if code = .la512 then 1953125000 else 3125000000

/-- An object by identifier, unless a DELETE of it was accepted (R282). -/
def State.cliffObj (s : State) (i : Nat) : Option CliffObj :=
  match FMap.get none s.cliff.objs i with
  | some o => if o.gone then none else some o
  | none => none

/-- Replaces an object. -/
def State.setCliffObj (s : State) (i : Nat) (o : Option CliffObj) : State :=
  { s with cliff := { s.cliff with objs := FMap.set none s.cliff.objs i o } }

/-- What stands in Cliff, in the pool's units of 64 KiB: objects, token pages and checkpoints (R283). -/
def State.cliffUsed (s : State) : Nat :=
  (s.cliff.objs.map (fun x => (x.2.map (fun o => if o.tier = 2 then ceilDiv o.units 16 else 0)).getD 0)).sum +
  (s.gulk.toks.map (fun x => if (x.2.map (·.cliff)).getD false then 1 else 0)).sum +
  (s.gulk.ckpts.map (fun x => (x.2.map (fun k => if k.cliff then k.units else 0)).getD 0)).sum

/-- n bytes of an object from an offset. -/
def CliffObj.bytes (o : CliffObj) (off n : Nat) : List Byte := (List.range n).map (fun i => FMap.get 0 o.data (off + i))

/-- An object with bytes stored at an offset. -/
def CliffObj.store (o : CliffObj) (off : Nat) (bs : List Byte) : CliffObj := { o with data := memWrite o.data off bs }

/-- Cliff is READ_ONLY (R279). -/
def State.cliffReadOnly (s : State) : Bool := bit1 (s.rd .cliff .cliffStat 0) 0

/-- Fields of a command (R280). -/
def CliffRun.w (r : CliffRun) (i : Nat) : Word := r.words.getD i 0
/-- 1 CREATE, 2 WRITE, 3 READ, 4 DELETE. -/
def CliffRun.op (r : CliffRun) : Nat := bits (r.w 0) 7 0
/-- Service class. -/
def CliffRun.cls (r : CliffRun) : Nat := bits (r.w 0) 9 8
/-- Object identifier. -/
def CliffRun.object (r : CliffRun) : Nat := bits (r.w 1) 31 0
/-- First unit. -/
def CliffRun.first (r : CliffRun) : Nat := bits (r.w 2) 31 0
/-- Units. -/
def CliffRun.count (r : CliffRun) : Nat := bits (r.w 2) 63 32
/-- Device address. -/
def CliffRun.addr (r : CliffRun) : Nat := bits (r.w 3) 47 0
/-- Tideline deadline. -/
def CliffRun.deadline (r : CliffRun) : Word := r.w 5

/-- The checks of a command, in the order of R281. -/
def State.cliffCheck (s : State) (r : CliffRun) : Status :=
  let op := r.op
  let moves := op = 2 ∨ op = 3
  let reserved := bits (r.w 0) 63 13 ≠ 0 || bits (r.w 1) 63 32 ≠ 0 || bits (r.w 3) 63 48 ≠ 0 || bits (r.w 4) 63 24 ≠ 0 ||
    r.w 6 ≠ 0 || r.w 7 ≠ 0 || r.object == 0xFFFFFFFF
  if op = 0 ∨ 4 < op ∨ reserved then .eFormat
  else if op ≠ 1 ∧ (s.cliffObj r.object).isNone then .eGone
  else if moves ∧ (((s.cliffObj r.object).map (·.units)).getD 0 < r.first + r.count) then .eShape
  else if moves ∧ r.addr % unitBytes ≠ 0 then .eAddr
  else if moves ∧ s.access r.addr (r.count * unitBytes) ≠ .ok then s.access r.addr (r.count * unitBytes)
  else if op = 3 ∧ s.writeCut r.addr (r.count * unitBytes) then .eAddr
  else if op = 1 ∧ ((FMap.get none s.cliff.objs r.object).isSome ∨ s.code.cliffUnits / 16 < s.cliffUsed + ceilDiv r.count 16) then .eState
  else if op ≠ 3 ∧ s.cliffReadOnly then .eState
  else if r.deadline ≠ 0 ∧ r.deadline.toNat < s.now.toNat then .eDeadline
  else .ok

/-- The next command of the ring that has not started, if Cliff may start it. -/
def State.cliffNext (s : State) : Option CliffRun :=
  let head := s.fld .cliff .cliffRingHead 0 31 0
  let ix := (head + s.cliff.runs.length) % 2 ^ 32
  if !bit1 (s.rd .cliff .cliffCtrl 0) 0 ∨ ix = s.fld .cliff .cliffRingTail 0 31 0 ∨ 1024 ≤ s.cliff.runs.length ∨
      s.live .cliff ≠ .running then none
  else
    let a := slotAddr (s.fld .cliff .cliffRingBase 0 47 6 * 64) (s.fld .cliff .cliffRingCfg 0 3 0) ix
    let st := if s.access a 64 ≠ .ok then s.access a 64 else if (s.badIn a 64).isSome then .eMemUncorr else .ok
    some { words := if st = .ok then s.words a 8 else [], ix := ix, status := st, started := s.now }

/-- Starts the next command of the ring when it has the row's opcode, or none that the table lists (R280, R281): its
checks are made; CREATE makes the object, and DELETE closes it to later commands (R282). -/
def State.cliffStart (s : State) (op : Nat) : State :=
  match s.cliffNext with
  | none => s
  | some r =>
    if r.op ≠ op ∧ 1 ≤ r.op ∧ r.op ≤ 4 then s
    else
      let s := s.reads r.cls (slotAddr (s.fld .cliff .cliffRingBase 0 47 6 * 64) (s.fld .cliff .cliffRingCfg 0 3 0) r.ix) 64
      let st := if r.status = .ok then s.cliffCheck r else r.status
      let s := { s with cliff := { s.cliff with runs := s.cliff.runs ++ [{ r with status := st }] } }
      if st ≠ .ok then s
      else if op = 1 then s.setCliffObj r.object (some { units := r.count, cls := r.cls })
      else if op = 4 then s.setCliffObj r.object ((s.cliffObj r.object).map (fun o => { o with gone := true }))
      else if op = 2 ∧ bit1 (s.rd .cliff .cliffStat 0) 1 then
        -- at most 2 ms for every 64 KiB, in cycles of 0.5 ns (R278)
        let (n, s) := s.drawUpTo (4000000 * ceilDiv r.count 16)
        s.bump .cliff .cliffFgGcCycles 0 n
      else s

/-- CREATE (R280). -/
def execCreate (s : State) : Host.Outcome State Fault Refusal := .next (s.awake fun s => s.cliffStart 1)
/-- WRITE (R276). -/
def execWrite (s : State) : Host.Outcome State Fault Refusal := .next (s.awake fun s => s.cliffStart 2)
/-- READ (R282). -/
def execRead (s : State) : Host.Outcome State Fault Refusal := .next (s.awake fun s => s.cliffStart 3)
/-- DELETE (R282). -/
def execDelete (s : State) : Host.Outcome State Fault Refusal := .next (s.awake fun s => s.cliffStart 4)

/-- Stores the units of a WRITE: those below a watermark new, each other one old or new (R276). -/
def State.cliffProgram (s : State) (o : CliffObj) (r : CliffRun) (wm : Nat) : CliffObj :=
  (List.range r.count).foldl (fun (o : CliffObj) i =>
    if i < wm ∨ Config.freeBit s.freeIx i then
      o.store ((r.first + i) * unitBytes) (s.bytes (r.addr + i * unitBytes) unitBytes) else o) o

/-- Stores the units of a READ: those below a watermark, each other one old or new (R282). -/
def State.cliffLoad (s : State) (o : CliffObj) (r : CliffRun) (wm : Nat) : State :=
  (List.range r.count).foldl (fun (t : State) i =>
    if i < wm ∨ Config.freeBit s.freeIx i then
      (t.engineWrite r.cls (r.addr + i * unitBytes) (o.bytes ((r.first + i) * unitBytes) unitBytes)).2 else t) s

/-- What a command that ends with a status and a watermark leaves in Cliff and in memory. -/
def State.cliffEffect (s : State) (r : CliffRun) (st : Status) (wm : Nat) : State :=
  let s' := { s with freeIx := s.freeIx + 1 }
  match r.op, FMap.get none s.cliff.objs r.object with
  | 1, some _ => if st = .ok then s else s.setCliffObj r.object none
  | 2, some o =>
    let s := (s'.reads r.cls r.addr (r.count * unitBytes)).setCliffObj r.object (some (s.cliffProgram o r wm))
    (s.bump .cliff .cliffHostBytes 0 (wm * unitBytes)).bumpFree .cliff .cliffNandBytes 0
  | 3, some o => { s.cliffLoad o r wm with freeIx := (s.cliffLoad o r wm).freeIx + 1 }
  | 4, some o => if st = .ok then s.setCliffObj r.object none else s.setCliffObj r.object (some { o with gone := false })
  | _, _ => s

/-- How the hardware ends a command, or none where it cannot end so (R277, R281). -/
def CliffRun.ending (r : CliffRun) (now : Word) (e : HwEnd) : Option Status :=
  if r.status ≠ .ok then some r.status
  else
    match e with
    | .finished => some .ok
    | .stopped => if r.deadline ≠ 0 ∧ r.deadline.toNat < now.toNat then some .eDeadline else none
    | .uncorrected _ => some .eMemUncorr
    | .power => some .ePower
    | .link => some .eLink
    | .gone => some .eGone
    | .answered _ => none

/-- The error record of a Cliff command names the 4 KiB unit (R379). -/
def State.cliffError (s : State) (st : Status) (id wm unit : Nat) (deadline : Word) : State :=
  s.report { time := s.now, page := Pg.cliff.index, cls := 1, code := st.code, subjectKind := 4, wmUnit := 3, flags := 3,
             subject := id, watermark := wm, address := unit, further := furtherCodes (lateCode deadline s.now) st }

/-- A command in flight ends (R281), with its post ADD and records, and the head advances. `wm` is the units committed
where it did not finish; `rebuilt` counts pages rebuilt from parity (R277). -/
def State.cliffEnds (s : State) (r : CliffRun) (rest : List CliffRun) (st0 : Status) (wm rebuilt : Nat) : State :=
  -- an uncorrectable word of a WRITE's source stops it there
  let bad := if r.op = 2 ∧ st0 = .ok then s.badIn r.addr (r.count * unitBytes) else none
  let st := if bad.isSome then Status.eMemUncorr else st0
  let wm := if r.status ≠ .ok then 0
    else match bad with
      | some a => (a - r.addr) / unitBytes
      | none => if r.op ≠ 2 ∧ r.op ≠ 3 then 0 else if st = .ok then r.count else min wm r.count
  let s := { s with cliff := { s.cliff with runs := rest } }
  let s := if rebuilt = 0 then s else (s.bump .cliff .cliffRebuilds 0 rebuilt).event .cliff 2
  let s := if r.status = .ok then s.cliffEffect r st wm else s
  let s := match bad with
    | some a => s.eccUncorr a
    | none => s
  let s := if st ≠ .ok then (s.goneCount st [r.addr]).cliffError st r.ix wm (r.first + wm) r.deadline else s
  let (stp, s) := s.jobPost st (bit1 (r.w 0) 11) (bit1 (r.w 0) 12) (bits (r.w 4) 15 0) (bits (r.w 4) 23 16 + 1)
  let s := if stp ≠ .ok ∧ st = .ok then s.ringError .cliff stp r.ix 3 wm none r.deadline else s
  let slot := slotAddr (s.fld .cliff .cliffRingBase 0 47 6 * 64) (s.fld .cliff .cliffRingCfg 0 3 0) r.ix
  let s := if bit1 (r.w 0) 10 then s.ringRecord slot r.ix stp wm r.started (r.deadline ≠ 0) else s
  s.setFld .cliff .cliffRingHead 0 31 0 (r.ix + 1)

/-- CLIFF_COMMAND_COMPLETE (R281): the oldest command in flight ends. -/
def execCliffCommandComplete (e : HwEnd) (wm rebuilt : Nat) (s : State) : Host.Outcome State Fault Refusal :=
  .next (s.awake fun s => match s.cliff.runs with
    | [] => s
    | r :: rest =>
      match r.ending s.now e with
      | none => s
      | some st => s.cliffEnds r rest st wm rebuilt)

/-- CLIFF_RING_TAIL_WRITE (R288). -/
def execCliffRingTailWrite (v : Word) (s : State) : Host.Outcome State Fault Refusal :=
  .next (s.awake fun s => s.tailWrite .cliff .cliffRingHead .cliffRingTail (s.fld .cliff .cliffRingCfg 0 3 0) 4 v)

/-- The wear figures the translation layer publishes (R279): life_used in thousandths of 3,000 erases, WEAR_HIGH at 900,
READ_ONLY below 256 spare blocks. -/
def State.cliffWear (s : State) (mean top spare : Nat) : State :=
  let was := s.fld .cliff .cliffWear 0 58 48
  let life := min 2047 (mean * 1000 / 3000)
  let s := s.wr .cliff .cliffWear 0 (setBits (setBits (setBits (setBits (s.rd .cliff .cliffWear 0) 15 0 mean) 31 16 top)
    47 32 spare) 58 48 life)
  let s := if was < 900 ∧ 900 ≤ life then s.event .cliff 0 else s
  if spare < 256 ∧ !s.cliffReadOnly then (s.setFld .cliff .cliffStat 0 0 0 1).event .cliff 1 else s

/-- CLIFF_HOUSEKEEPING (R277 to R279): a collection, relocation, retention rewrite or retirement has run, in slack water; `low` says
that free blocks stay below 1 %, so that the work also runs in the foreground. The retirement of a block that fails, and what moves with
it, waits for no slack water (R277). -/
def execCliffHousekeeping (k : Housekeep) (low : Bool) (mean top spare : BitVec 16) (s : State) :
    Host.Outcome State Fault Refusal :=
  .next (s.awake fun s =>
    if !low && k != .retire && !s.slackFor 0 then s else
    let s := s.setFld .cliff .cliffStat 0 1 1 (if low then 1 else 0)
    let s := match k with
      | .relocate | .retention => s.bump .cliff .cliffRelocations 0 1
      | .retire => (s.bump .cliff .cliffRelocations 0 1).event .cliff 3
      | .collect => s
    (s.bumpFree .cliff .cliffNandBytes 0).cliffWear mean.toNat top.toNat spare.toNat)

end Sys2Proof.Machine
end

