-- ==== Sys2Proof/Machine/Pool.lean ====
section
/-! DEFINITION. The object pool: what stands in each tier, key-value pages and their states, allocation and eviction
(R157 to R165, R206, R283 to R285, R290, R298, R299). -/

namespace Sys2Proof.Machine

/-! ### Model packages -/

/-- What a model package fixes for its model (R111, R157, R158, R170, R316). -/
structure Shape where
  /-- Attention layers, key-value heads and head dimension. -/
  layers : Nat
  heads : Nat
  dim : Nat
  kvFmt : Nat
  /-- Recurrent layers, their largest gated-cell channel count, and bytes of their output state images. -/
  recurrent : Nat
  gated : Nat
  stateBytes : Nat
  /-- Tokens of a frame and action tokens of a step. -/
  frame : Nat
  acts : Nat
  /-- Bytes of one replica of the weights. -/
  bytes : Nat
  width : Nat
  height : Nat
  /-- Layers with tiling variants. -/
  tiled : Nat
  /-- Units of the step buffers of a dispatch. -/
  buffers : Nat
  deriving DecidableEq, Repr

/-- What a package says of one of its layers: 0 its product is an exact pair (R111), 1 its columns in 64-column tiles, 2 its K blocks;
of a recurrent layer, 3 the rows of its output state images, 4 the values of a row, 5 its a_fmt (R170, R172). -/
def layerNum (data : FMap Byte) (layer kind : Nat) : Nat := Config.package data (16 * (layer + 1) + kind)

/-- What a package says of one of its tensors: 0 its place in the weights, 1 its format, 2 whether its working copy saturates, 3 the
format of its product's input, 4 of its output gradient (R358, R360). -/
def tensorNum (data : FMap Byte) (t kind : Nat) : Nat := Config.package data (2 ^ 42 + 8 * t + kind)

/-- A format that a package names by its code. -/
def fmtNamed (code : Nat) : Fmt := (Fmt.ofCode code).getD .fp32

/-- The recurrent layers' state images: rows, values of a row, and format, layer by layer (R172, R185). -/
def imageParts (data : FMap Byte) : List (Nat × Nat × Fmt) :=
  (List.range (Config.package data 4)).map (fun l =>
    (layerNum data l 3, layerNum data l 4, (Fmt.ofCode (layerNum data l 5)).getD .fp32))

/-- Bytes of the values of the state images of a model (R185). -/
def imageBytes (data : FMap Byte) : Nat := ((imageParts data).map (fun p => p.1 * p.2.1 * (p.2.2.width / 8))).sum

/-- The shape a package gives; each row of a state image is padded to 64 bytes (R172). -/
def shapeOf (data : FMap Byte) : Shape :=
  let f := Config.package data
  { layers := f 0, heads := f 1, dim := f 2, kvFmt := f 3, recurrent := f 4, gated := f 5,
    stateBytes := ((imageParts data).map (fun p => p.1 * (ceilDiv (p.2.1 * (p.2.2.width / 8)) 64 * 64))).sum, frame := f 7,
    acts := f 8, bytes := f 9, width := f 10, height := f 11, tiled := f 12, buffers := f 13 }

/-- Key of a model version in the table of loaded versions. -/
def modelKey (m v : Nat) : Nat := m * 256 + v

/-- A loaded model version. -/
def State.model (s : State) (m v : Nat) : Option ModelV := FMap.get none s.gulk.models (modelKey m v)

/-- Replaces a model version. -/
def State.setModel (s : State) (m v : Nat) (x : Option ModelV) : State :=
  { s with gulk := { s.gulk with models := FMap.set none s.gulk.models (modelKey m v) x } }

/-- Which weights a version has: its number, and the working copies that training has written (R368). -/
def State.weightsId (s : State) (m v : Nat) : Config.Weights := (v, ((s.model m v).map (·.work)).getD [])

/-- The bytes of a package object. -/
def State.pkg (s : State) (obj : Nat) : FMap Byte := ((s.cliffObj obj).map (·.data)).getD []

/-- The package of a loaded model version. -/
def State.packageOf (s : State) (m v : Nat) : FMap Byte := s.pkg (((s.model m v).map (·.package)).getD 0)

/-- The shape of a loaded model version. -/
def State.shape (s : State) (m v : Nat) : Shape := shapeOf (s.packageOf m v)

/-- Bytes of an element of a KV format (R158). -/
def kvWidth (f : Nat) : Nat := match Fmt.ofCode f with | some x => x.width / 8 | none => 1

/-- A KV format and head dimension a model may have (R158). -/
def kvOk (fmt d : Nat) : Bool :=
  (match Fmt.ofCode fmt with
   | some .e4m3 | some .e5m2 | some .int8 | some .bf16 | some .fp16 => true
   | _ => false) && (d == 64 || d == 128 || d == 256)

/-- Positions of a page (R157). -/
def Shape.positions (x : Shape) : Nat := max 1 (32768 / max 1 (x.dim * kvWidth x.kvFmt))

/-- Pages of a page row (R160). -/
def Shape.pages (x : Shape) : Nat := x.layers * x.heads

/-- Bytes of a pool unit. -/
def poolUnit : Nat := 65536

/-- Units of one replica of the weights (R283, R285). -/
def Shape.units (x : Shape) : Nat := ceilDiv x.bytes poolUnit

/-- Units of a checkpoint. -/
def Shape.ckptUnits (x : Shape) : Nat := ceilDiv x.stateBytes poolUnit

/-! ### Tables -/

/-- A page by identifier. -/
def State.page (s : State) (i : Nat) : KvPage := FMap.get {} s.gulk.pages i

/-- Replaces a page. -/
def State.setPage (s : State) (i : Nat) (p : KvPage) : State :=
  { s with gulk := { s.gulk with pages := FMap.set {} s.gulk.pages i p } }

/-- A token page. -/
def State.tok (s : State) (i : Nat) : Option TokPage := FMap.get none s.gulk.toks i
/-- Replaces a token page. -/
def State.setTok (s : State) (i : Nat) (t : Option TokPage) : State :=
  { s with gulk := { s.gulk with toks := FMap.set none s.gulk.toks i t } }

/-- A checkpoint. -/
def State.ckpt (s : State) (i : Nat) : Option Ckpt := FMap.get none s.gulk.ckpts i
/-- Replaces a checkpoint. -/
def State.setCkpt (s : State) (i : Nat) (t : Option Ckpt) : State :=
  { s with gulk := { s.gulk with ckpts := FMap.set none s.gulk.ckpts i t } }

/-- A prefix-tree node. -/
def State.node (s : State) (i : Nat) : Option Node := FMap.get none s.gulk.nodes i
/-- Replaces a node. -/
def State.setNode (s : State) (i : Nat) (t : Option Node) : State :=
  { s with gulk := { s.gulk with nodes := FMap.set none s.gulk.nodes i t } }

/-- A stream by slot. -/
def State.stream (s : State) (i : Nat) : Option Stream := FMap.get none s.gulk.streams i
/-- Replaces a stream. -/
def State.setStream (s : State) (i : Nat) (t : Option Stream) : State :=
  { s with gulk := { s.gulk with streams := FMap.set none s.gulk.streams i t } }

/-- A scene by slot. -/
def State.scene (s : State) (i : Nat) : Option Scene := FMap.get none s.gulk.scenes i
/-- Replaces a scene. -/
def State.setScene (s : State) (i : Nat) (t : Option Scene) : State :=
  { s with gulk := { s.gulk with scenes := FMap.set none s.gulk.scenes i t } }

/-- A request by its place in the order of acceptance. -/
def State.req (s : State) (i : Nat) : Option Req := FMap.get none s.gulk.reqs i
/-- Replaces a request. -/
def State.setReq (s : State) (i : Nat) (t : Option Req) : State :=
  { s with gulk := { s.gulk with reqs := FMap.set none s.gulk.reqs i t } }

/-- The first number from a start on, round a range, that is not in use. -/
def firstFree (used : List Nat) (limit start : Nat) : Nat → Option Nat
  | 0 => none
  | fuel + 1 => if used.contains (start % limit) then firstFree used limit (start + 1) fuel else some (start % limit)

/-- A number below a limit that is not in use; which one the spec does not say. -/
def State.pick (s : State) (used : List Nat) (limit : Nat) : Option Nat × State :=
  let (w, s) := s.draw
  (if limit = 0 then none else firstFree used limit w.toNat (used.length + 1), s)

/-! ### Tiers -/

/-- Units of HBM4 the pool accounts (R283). -/
def Code.hbmUnits (code : Code) : Nat := if code = .la512 then 8126464 else 12320768

/-- Units of a whole home partition (R240). -/
def bayUnits : Nat := 0x2000000000 / poolUnit

/-- Bays enabled on a code. -/
def Code.bays (code : Code) : Nat := if code = .la512 then 4 else 6

/-- The bay with a place among the enabled ones. -/
def Code.bayAt (code : Code) (i : Nat) : Nat := if code = .la512 ∧ 2 ≤ i then i + 1 else i

/-- Device address of unit i of the pool's HBM4. -/
def Code.unitAddr (code : Code) (i : Nat) : Nat := code.bayAt (i / bayUnits) * 0x2000000000 + i % bayUnits * poolUnit

/-- Units of a bay's partition that the pool accounts: all but the top 16 GiB of the highest enabled bay (R3, R240). -/
def Code.unitsOf (code : Code) (b : Nat) : Nat := if b = code.bayAt (code.bays - 1) then bayUnits - 0x400000000 / poolUnit else bayUnits

/-- The decoders, as 8 * port + n, in a state. -/
def State.decoders (s : State) (states : List Nat) : List Nat :=
  (List.range 16).filter (fun d => states.contains (s.decState (if d < 8 then 0 else 1) (d % 8)))

/-- Window of a decoder: first address and size. -/
def State.window16 (s : State) (d : Nat) : Nat × Nat := s.decWindow (if d < 8 then 0 else 1) (d % 8)

/-- Units a decoder maps. -/
def State.decUnits (s : State) (d : Nat) : Nat := (s.window16 d).2 / poolUnit

/-- The decoder whose window holds an address. -/
def State.decOf (s : State) (a : Nat) : Option Nat :=
  (s.decoders [2, 3]).find? (fun d => (s.window16 d).1 ≤ a ∧ a < (s.window16 d).1 + (s.window16 d).2)

/-- Units of a tier (R283): HBM4, the ONLINE and DRAINING decoders, Cliff. -/
def State.tierUnits (s : State) (t : Nat) : Nat :=
  match t with
  | 0 => s.code.hbmUnits
  | 1 => ((s.decoders [2, 3]).map s.decUnits).sum
  | _ => s.code.cliffUnits / 16

/-- An object the pool accounts: tier, class, units. -/
structure Acct where
  tier : Nat
  cls : Nat
  units : Nat
  deriving DecidableEq, Repr

/-- Number of ones of a mask. -/
def ones (n : Nat) : Nat → Nat
  | 0 => 0
  | f + 1 => n % 2 + ones (n / 2) f

/-- Class of the scenes that bind a model version, for its weights: the highest of them, else Background (R283, R291). -/
def State.modelClass (s : State) (m v : Nat) : Nat :=
  (s.gulk.scenes.filterMap (fun x => x.2.bind (fun sc => if sc.model = m ∧ sc.version = v then some sc.cls else none))).foldl
    Nat.min 3

/-- Everything the pool accounts (R283). -/
def State.accounts (s : State) : List Acct :=
  s.gulk.pages.filterMap (fun x => match x.2.st with
    | .resident | .recomputing => some ⟨0, x.2.cls, 1⟩
    | .spilled => some ⟨1, x.2.cls, 1⟩
    | _ => none) ++
  s.gulk.toks.filterMap (fun x => x.2.map (fun t => ⟨if t.cliff then 2 else 0, t.cls, 1⟩)) ++
  s.gulk.ckpts.filterMap (fun x => x.2.map (fun t => ⟨if t.cliff then 2 else 0, t.cls, t.units⟩)) ++
  s.gulk.models.filterMap (fun x => x.2.bind (fun m =>
    if m.hot = .cold ∨ (m.pin ∧ !m.waitTick ∧ m.hot = .pinned) then none
    else some ⟨0, s.modelClass (x.1 / 256) (x.1 % 256), (shapeOf (s.pkg m.package)).units * ones m.bays 8⟩)) ++
  s.gulk.streams.filterMap (fun x => x.2.bind (fun t => t.run.map (fun r =>
    ⟨0, ((s.scene t.scene).map (·.cls)).getD 3, r.buffers.length⟩))) ++
  s.cliff.objs.filterMap (fun x => x.2.map (fun o => ⟨o.tier, o.cls, ceilDiv o.units 16⟩)) ++
  s.jobs.filterMap (fun x => x.2.map (fun j => ⟨0, 2, j.units⟩))

/-- Units in use in a tier. -/
def State.tierUsed (s : State) (t : Nat) : Nat := ((s.accounts.filter (·.tier = t)).map (·.units)).sum

/-- Units of a class in use in a tier. -/
def State.classUsed (s : State) (t c : Nat) : Nat :=
  ((s.accounts.filter (fun a => a.tier = t ∧ a.cls = c)).map (·.units)).sum

/-- Floor of a class in a tier, in units (R284, R290). -/
def State.floorOf (s : State) (t c : Nat) : Nat :=
  s.fld .pool .poolFloor t (16 * c + 15) (16 * c) * 16384

/-- Units of tier 1 in use on a decoder. -/
def State.decUsed (s : State) (d : Nat) : Nat :=
  (s.gulk.pages.filter (fun x => x.2.st = .spilled ∧ s.decOf x.2.loc = some d)).length +
  ((s.cliff.objs.filterMap (fun x => x.2.bind (fun o => if o.tier = 1 ∧ o.home = d then some (ceilDiv o.units 16) else none)))).sum

/-- Units free for something new in a tier: none on a decoder that is DRAINING (R270, R274). -/
def State.freeUnits (s : State) (t : Nat) : Nat :=
  match t with
  | 1 => ((s.decoders [2]).map (fun d => s.decUnits d - s.decUsed d)).sum
  | _ => s.tierUnits t - s.tierUsed t

/-- A decoder with room for n units. -/
def State.decWithRoom (s : State) (n : Nat) : Option Nat :=
  (s.decoders [2]).find? (fun d => n + s.decUsed d ≤ s.decUnits d)

/-! ### Storage of pages -/

/-- Units of HBM4 at fixed addresses, by unit number of the address: pages, intake regions, home copies of weights and the step buffers
of dispatches. -/
def State.hbmTaken (s : State) : List Nat :=
  s.gulk.pages.filterMap (fun x => if x.2.st = .resident ∨ x.2.st = .recomputing then some (x.2.loc / poolUnit) else none) ++
  s.gulk.scenes.flatMap (fun x => match x.2 with
    | some sc => (List.range (sc.intakeBytes / poolUnit)).map (· + sc.intake / poolUnit)
    | none => []) ++
  s.gulk.models.flatMap (fun x => (x.2.map (fun m => m.homes.flatMap (fun h => h.2.map (· / poolUnit)))).getD []) ++
  s.gulk.streams.flatMap (fun x => ((x.2.bind (·.run)).map (fun r => r.buffers.map (· / poolUnit))).getD [])

/-- The first free unit of a bay's partition from a place on, going round, by address. -/
def Code.unitFrom (code : Code) (b : Nat) (used : List Nat) (i : Nat) : Nat → Option Nat
  | 0 => none
  | fuel + 1 =>
    let u := b * bayUnits + i % code.unitsOf b
    if used.contains u then code.unitFrom b used (i + 1) fuel else some (u * poolUnit)

/-- A free 64 KiB unit of HBM4, by address: one of a bay's partition where it has one, else of another bay's
(notes/assumptions/73.md). Which unit the spec does not say. -/
def State.hbmUnit (s : State) (b : Nat) : Option Nat × State :=
  let (w, s) := s.draw
  let used := s.hbmTaken
  let at_ (b : Nat) : Option Nat := s.code.unitFrom b used w.toNat (min (s.code.unitsOf b) (used.length + 1))
  ((at_ b).orElse (fun _ => ((List.range s.code.bays).map s.code.bayAt).findSome? at_), s)

/-- Several free units of a bay's partition, by address, beside units just taken. -/
def State.hbmUnits (s : State) (b : Nat) (used : List Nat) (start : Nat) : Nat → List Nat
  | 0 => []
  | n + 1 =>
    match s.code.unitFrom b used start (min (s.code.unitsOf b) (used.length + 1)) with
    | some a => a :: s.hbmUnits b (a / poolUnit :: used) start n
    | none => []

/-- A free 64 KiB unit of a decoder's window, by address. -/
def State.cxlUnit (s : State) (d : Nat) : Option Nat × State :=
  let (base, size) := s.window16 d
  let used := s.gulk.pages.filterMap (fun x =>
    if x.2.st = .spilled ∧ base ≤ x.2.loc ∧ x.2.loc < base + size then some ((x.2.loc - base) / poolUnit) else none)
  let (i, s) := s.pick used (size / poolUnit)
  (i.map (fun i => base + i * poolUnit), s)

/-- Moves the 64 KiB of a page to another place. -/
def State.moveUnit (s : State) (src dst : Nat) : State := (s.reads 3 src poolUnit).store dst (s.bytes src poolUnit)

/-- A page becomes FREE: no reference is left (R161). -/
def State.freePage (s : State) (i : Nat) : State := s.setPage i {}

/-- A page is dropped: its storage is released (R161). -/
def State.dropPage (s : State) (i : Nat) (mem : Bool) : State :=
  let p := s.page i
  s.setPage i { p with st := .dropped, tail := false, memCause := mem, loc := 0, memo := s.bytes p.loc poolUnit }

/-- One reference less on a page. During RECOMPUTING the page stays until the recomputation ends (R165); a pinned page
goes when its pins do. -/
def State.unrefPage (s : State) (i : Nat) : State :=
  let p := s.page i
  let p := { p with refs := p.refs - 1 }
  if p.refs = 0 ∧ p.st ≠ .recomputing ∧ p.pins = 0 then s.freePage i else s.setPage i p

/-- One reference less on a token page. -/
def State.unrefTok (s : State) (i : Nat) : State :=
  match s.tok i with
  | some t => s.setTok i (if t.refs ≤ 1 then none else some { t with refs := t.refs - 1 })
  | none => s

/-- One reference less on a checkpoint. -/
def State.unrefCkpt (s : State) (i : Nat) : State :=
  match s.ckpt i with
  | some t => s.setCkpt i (if t.refs ≤ 1 then none else some { t with refs := t.refs - 1 })
  | none => s

/-- A page's pins fall by one; an uncorrectable page is then dropped, and one without references freed (R161, R165). -/
def State.unpin (s : State) (i : Nat) : State :=
  let p := s.page i
  let p := { p with pins := p.pins - 1 }
  let s := s.setPage i p
  if p.pins ≠ 0 then s
  else if p.refs = 0 then s.freePage i
  else if p.memCause ∧ (p.st = .resident ∨ p.st = .spilled) then s.dropPage i true
  else s

/-! ### Descriptors and page maps (R159, R160) -/

/-- The code of a page state (R159). -/
def PageSt.code : PageSt → Nat
  | .free => 0 | .resident => 1 | .spilled => 2 | .dropped => 3 | .recomputing => 4

/-- The 32 bytes of a page descriptor (R159). -/
def KvPage.descriptor (p : KvPage) : List Byte :=
  let flag (b : Bool) (i : Nat) : Nat := if b then 2 ^ i else 0
  leBytes (p.st.code + flag p.tail 3 + flag p.memCause 4 + p.refs % 2 ^ 24 * 2 ^ 8 + p.pins % 2 ^ 16 * 2 ^ 32 +
    p.filled % 2 ^ 10 * 2 ^ 48) 8 ++
  leBytes p.lastUse.toNat 8 ++
  leBytes (p.loc % 2 ^ 48 + p.fmt % 2 ^ 4 * 2 ^ 48 + p.dCode % 2 ^ 2 * 2 ^ 52) 8 ++
  leBytes (p.model % 2 ^ 16 + p.version % 2 ^ 8 * 2 ^ 16 + p.layer % 2 ^ 8 * 2 ^ 24 + p.head % 2 ^ 8 * 2 ^ 32 +
    p.first % 2 ^ 21 * 2 ^ 40) 8

/-- Byte i of the table of descriptors: descriptor g stands at 32 times g (R159). The table stands in HBM4 that software does not read;
the spec does not say where (notes/assumptions/74.md). -/
def State.pageTable (s : State) (i : Nat) : Byte := ((s.page (i / 32)).descriptor).getD (i % 32) 0

/-- The bytes of a stream's page map from its base: 4-byte identifiers, row by row (R160). -/
def Stream.mapBytes (st : Stream) : List Byte := st.map.flatMap (fun row => row.flatMap (fun g => leBytes g 4))

/-! ### Nodes (R206) -/

/-- Nodes in use. -/
def State.nodeCount (s : State) : Nat := (s.gulk.nodes.filter (·.2.isSome)).length

/-- Evicts a node: its page and checkpoint references, its token block and its record go, its hash chain closes up, and its parent has
one child less (R203, R206). -/
def State.evictNode (s : State) (i : Nat) : State :=
  match s.node i with
  | none => s
  | some n =>
    let s := s.setNode i none
    let s := { s with gulk := { s.gulk with
      nodes := s.gulk.nodes.map (fun x => (x.1, x.2.map (fun m => if m.next = some i then { m with next := n.next } else m))) } }
    let s := n.row.foldl State.unrefPage s
    let s := match n.ckpt with
      | some c => s.unrefCkpt c
      | none => s
    let s := match n.parent with
      | some p => (match s.node p with
        | some m => s.setNode p (some { m with children := m.children - 1 })
        | none => s)
      | none => s
    s.bump .rollout .nodeEvictCount 0 1

/-- Nodes that a lookup is walking: none of them is evicted (R206). -/
def State.heldNodes (s : State) : List Nat := s.gulk.reqs.flatMap (fun x => (x.2.bind (·.hits)).getD [])

/-- The childless node with the oldest last use that a condition allows (R206). -/
def State.oldestNode (s : State) (ok : Nat → Node → Bool) : Option Nat :=
  let l := s.gulk.nodes.filterMap (fun x => x.2.bind (fun n =>
    if n.children = 0 ∧ !s.heldNodes.contains x.1 ∧ ok x.1 n then some (n.lastUse.toNat, x.1) else none))
  (l.foldl (fun (b : Option (Nat × Nat)) x => match b with
    | some y => if x.1 < y.1 then some x else b
    | none => some x) none).map (·.2)

/-! ### Victims (R283, R284) -/

/-- A victim: age, kind in the order of the kinds table, identifier, class and the units it frees. -/
structure Victim where
  lastUse : Nat
  kind : Nat
  id : Nat
  cls : Nat
  units : Nat
  deriving DecidableEq, Repr

/-- A model version is not held by an open scene (R299). -/
def State.unbound (s : State) (m v : Nat) : Bool :=
  s.gulk.scenes.all (fun x => match x.2 with | some sc => !(sc.model == m && sc.version == v) | none => true)

/-- The unpinned evictable objects of a tier (R283). `keep` are victims by kind and identifier that must stay: what the allocation
itself needs, and objects for which no place was found. A tail page is never dropped, so it goes only
where CXL memory has room (R162). -/
def State.victims (s : State) (t : Nat) (keep : List (Nat × Nat)) : List Victim :=
  let tierOk (n : Nat) : Bool := n != 2 || !s.cliffReadOnly
  let found : List Victim :=
    s.gulk.pages.filterMap (fun (i, p) =>
      let here := (t = 0 ∧ p.st = .resident) ∨ (t = 1 ∧ p.st = .spilled)
      if here ∧ p.pins = 0 ∧ (!p.tail ∨ (t = 0 ∧ (s.decWithRoom 1).isSome)) then some ⟨p.lastUse.toNat, 0, i, p.cls, 1⟩ else none) ++
    (if t = 0 then
      s.gulk.toks.filterMap (fun (i, x) => x.bind (fun k =>
        if !k.cliff ∧ tierOk 2 then some ⟨k.lastUse.toNat, 1, i, k.cls, 1⟩ else none)) ++
      s.gulk.ckpts.filterMap (fun (i, x) => x.bind (fun k =>
        if !k.cliff ∧ 0 < k.units ∧ tierOk 2 then some ⟨k.lastUse.toNat, 1, i + 2 ^ 32, k.cls, k.units⟩ else none)) ++
      s.gulk.nodes.filterMap (fun (i, x) => x.bind (fun n =>
        if n.children = 0 ∧ !s.heldNodes.contains i then some ⟨n.lastUse.toNat, 2, i, n.cls,
          (n.row.filter (fun g => (s.page g).refs = 1 ∧ (s.page g).pins = 0 ∧ (s.page g).st = .resident)).length⟩ else none)) ++
      s.gulk.models.filterMap (fun (i, x) => x.bind (fun m =>
        if m.hot = .resident ∧ s.unbound (i / 256) (i % 256) then
          some ⟨m.lastUse.toNat, 3, i, s.modelClass (i / 256) (i % 256), (shapeOf (s.pkg m.package)).units * ones m.bays 8⟩
        else none))
    else []) ++
    s.cliff.objs.filterMap (fun (i, x) => x.bind (fun o =>
      match (if o.tier = t then (o.tiers.dropWhile (· ≠ t)).drop 1 else []) with
      | n :: _ => if tierOk n then some ⟨o.lastUse.toNat, 5, i, o.cls, ceilDiv o.units 16⟩ else none
      | [] => none))
  found.filter (fun v => !keep.contains (v.kind, v.id))

/-- A victim qualifies for an allocation of a class (R284). -/
def State.qualifies (s : State) (t c : Nat) (v : Victim) : Bool :=
  v.cls == c || decide (s.floorOf t v.cls ≤ s.classUsed t v.cls - v.units)

/-- One victim comes before another (R284). -/
def Victim.before (a b : Victim) : Bool :=
  a.lastUse < b.lastUse || (a.lastUse == b.lastUse && (a.kind < b.kind || (a.kind == b.kind && a.id < b.id)))

/-- The first victim of a list. -/
def firstVictim (l : List Victim) : Option Victim :=
  l.foldl (fun b x => match b with | some y => if x.before y then some x else b | none => some x) none

/-- A page goes to a free unit of a CXL decoder; without one it is dropped, unless it is a tail page (R161, R162, R283). -/
def State.spillInto (s : State) (d i : Nat) : State :=
  match s.cxlUnit d with
  | (some a, s) => (s.moveUnit (s.page i).loc a).setPage i { s.page i with st := .spilled, loc := a }
  | (none, s) => if (s.page i).tail then s else s.dropPage i false

/-- Spills a page to CXL memory, or drops it (R161, R283). -/
def State.spillPage (s : State) (i : Nat) : State :=
  match s.decWithRoom 1 with
  | none => if (s.page i).tail then s else s.dropPage i false
  | some d => s.spillInto d i

/-- Object data programmed into Cliff (R277, R288). -/
def State.programmed (s : State) (bytes : Nat) : State := (s.bump .cliff .cliffHostBytes 0 bytes).bumpFree .cliff .cliffNandBytes 0

/-- Moves a host object to the next tier on its list (R283). -/
def State.demoteObj (s : State) (i t : Nat) : State :=
  match FMap.get none s.cliff.objs i with
  | none => s
  | some o =>
    let n := ((o.tiers.dropWhile (· ≠ t)).drop 1).headD 2
    let s := if n = 2 then s.programmed (o.units * unitBytes) else s
    s.setCliffObj i (some { o with tier := n, home := if n = 1 then (s.decWithRoom (ceilDiv o.units 16)).getD 0 else 0 })

/-- A version leaves its home copies: it is COLD, its master copy in Cliff (R298, R299). -/
def ModelV.cooled (m : ModelV) : ModelV := { m with hot := .cold, homes := [], ledge := [] }

/-- A PINNED version whose Ledge copy is lost stages again (R390, R402). -/
def ModelV.restaged (m : ModelV) : ModelV := { m.cooled with hot := .staging }

/-- Evicts a victim from a tier (R161, R206, R283, R299). -/
def State.evict (s : State) (t : Nat) (v : Victim) : State :=
  match v.kind with
  | 0 => if t = 0 then s.spillPage v.id else s.dropPage v.id false
  | 1 =>
    let s := s.programmed (v.units * poolUnit)
    if v.id < 2 ^ 32 then s.setTok v.id ((s.tok v.id).map (fun k => { k with cliff := true }))
    else s.setCkpt (v.id - 2 ^ 32) ((s.ckpt (v.id - 2 ^ 32)).map (fun k => { k with cliff := true }))
  | 2 => s.evictNode v.id
  | 3 => s.setModel (v.id / 256) (v.id % 256) ((s.model (v.id / 256) (v.id % 256)).map ModelV.cooled)
  | _ => s.demoteObj v.id t

/-- The tier a victim is demoted to, where it needs room there: Cliff for token pages and checkpoints, the next tier of its list for a
host object (R283). A page that finds no room in CXL memory is dropped, and the other kinds leave the pool's tiers. -/
def State.demotedTo (s : State) (t : Nat) (v : Victim) : Option Nat :=
  match v.kind with
  | 1 => some 2
  | 5 => ((FMap.get none s.cliff.objs v.id).map (fun o => ((o.tiers.dropWhile (· ≠ t)).drop 1).headD 2))
  | _ => none

/-- There is room for n units in a tier; in tier 1, on one decoder. -/
def State.roomFor (s : State) (t n : Nat) : Bool :=
  decide (n ≤ s.freeUnits t) && (t != 1 || n == 0 || (s.decWithRoom n).isSome)

/-- Takes victims of a tier until n units are free, or none is left (R284). `below` finds room in the tier a victim is demoted to; one
that finds none there stays. -/
def State.takeVictims (below : State → Nat → Nat → Nat → Bool × State) (s : State) (c t n : Nat) (keep : List (Nat × Nat)) :
    Nat → Bool × State
  | 0 => (s.roomFor t n, s)
  | fuel + 1 =>
    if s.roomFor t n then (true, s)
    else
      match firstVictim ((s.victims t keep).filter (s.qualifies t c)) with
      | none => (false, s)
      | some v =>
        match s.demotedTo t v with
        | none => (s.evict t v).takeVictims below c t n keep fuel
        | some u =>
          match below s v.cls u v.units with
          | (true, s) => (s.evict t v).takeVictims below c t n keep fuel
          | (false, s) => s.takeVictims below c t n ((v.kind, v.id) :: keep) fuel

/-- Everything the pool could evict: no object leaves a tier twice, so taking victims ends within so many steps. -/
def State.poolObjects (s : State) : Nat :=
  s.gulk.pages.length + s.gulk.toks.length + s.gulk.ckpts.length + s.gulk.nodes.length + s.gulk.models.length + s.cliff.objs.length

/-- Makes room for n units of a tier, and in the tiers below it where a demotion finds its target full: three tiers in all (R284). -/
def State.makeRoom (keep : List (Nat × Nat)) : Nat → State → Nat → Nat → Nat → Bool × State
  | 0, s, _, t, n => (s.roomFor t n, s)
  | depth + 1, s, c, t, n => s.takeVictims (State.makeRoom keep depth) c t n keep (s.poolObjects + 1)

/-- Allocates n units of a tier for a class, evicting as R284 states: whether it could, and the state after it. -/
def State.allocate (s : State) (c t n : Nat) (keep : List (Nat × Nat)) : Bool × State := s.makeRoom keep 3 c t n

/-- Pages that an allocation must leave in place. -/
def keepPages (l : List Nat) : List (Nat × Nat) := l.map (fun g => (0, g))

/-- An allocation begins to wait (R285). -/
def State.poolWaits (s : State) : State := s.bump .pool .poolWaitCount 0 1

/-! ### The pool page (R290) -/

/-- Usage of a tier by class in GiB, rounded up (R290). -/
def State.poolUsedReg (s : State) (t : Nat) : Word :=
  BitVec.ofNat 64 (((List.range 4).map (fun c => min 65535 (ceilDiv (s.classUsed t c) 16384) * 2 ^ (16 * c))).sum)

/-- A write of POOL_FLOORt: ignored when the floors of the tier sum above its capacity (R290). -/
def State.poolFloorWrite (s : State) (t : Fin 3) (v : Word) : State :=
  let total := ((List.range 4).map (fun c => bits v (16 * c + 15) (16 * c))).sum * 16384
  if s.tierUnits t.val < total then s.ignore .pool else s.wrRw .pool .poolFloor t.val v

end Sys2Proof.Machine
end

