-- ==== Sys2Proof/Machine/Place.lean ====
section
/-! DEFINITION. Placement: where a version's home copies stand, which cores run a layer, how its columns, its K and its key-value head
groups are divided among them, its L3 tiles, and the queues bound to a dispatch (R14, R100, R104, R105, R109, R111, R112, R118, R119,
R200, R297). -/

namespace Sys2Proof.Machine

/-! ### Home copies (R14, R298) -/

/-- Bytes of a pinned version in the Ledge of each of its cores. -/
def State.pinBytes (s : State) (x : ModelV) : Nat := ceilDiv (shapeOf (s.pkg x.package)).bytes (max 1 (ones x.cores 64))

/-- The first offset at which n bytes lie beside some ranges of a Ledge: 0, or the end of one of them. -/
def ledgePlace (used : List (Nat × Nat)) (n : Nat) : Option Nat :=
  let free (o : Nat) : Bool := decide (o + n ≤ ledgeSize) && used.all (fun r => o + n ≤ r.1 || r.1 + r.2 ≤ o)
  (0 :: used.map (fun r => ceilDiv (r.1 + r.2) 64 * 64)).find? free

/-- The places of a version's parts in the Ledges of its cores, beside what is pinned there. -/
def State.pinPlaces (s : State) (x : ModelV) : Option (List (Nat × Nat × Nat)) :=
  let n := s.pinBytes x
  ((List.range 36).filter (fun c => x.cores / 2 ^ c % 2 = 1)).foldr
    (fun c l => l.bind (fun l => (ledgePlace (s.pinRanges c) n).map (fun o => (c, o, n) :: l))) (some [])

/-- A byte of a version's weights: of the working copy of a tensor that training has changed, else of the package. -/
def weightAt (data : FMap Byte) (work : FMap (List Byte)) (i : Nat) : Byte :=
  match List.find? (fun (w : Nat × List Byte) => tensorNum data w.1 0 ≤ i && i < tensorNum data w.1 0 + w.2.length) work with
  | some w => w.2.getD (i - tensorNum data w.1 0) 0
  | none => Config.weightByte data i

/-- Bytes of a version's weights from a place on. -/
def State.weights (s : State) (x : ModelV) (first n : Nat) : List Byte :=
  (List.range n).map (fun i => weightAt (s.pkg x.package) x.work (first + i))

/-- Writes a version's weights into its home copies (R298). -/
def State.writeHomes (s : State) (x : ModelV) : State :=
  let total := (shapeOf (s.pkg x.package)).bytes
  let s := x.homes.foldl (fun (s : State) h => h.2.zipIdx.foldl (fun (s : State) (u : Nat × Nat) =>
    s.store u.1 (s.weights x (u.2 * poolUnit) (min poolUnit (total - u.2 * poolUnit)))) s) s
  x.ledge.zipIdx.foldl (fun (s : State) (p : (Nat × Nat × Nat) × Nat) =>
    s.store (ledgeAt (Fin.ofNat 36 p.1.1) p.1.2.1) (s.weights x (p.2 * p.1.2.2) (min p.1.2.2 (total - p.2 * p.1.2.2)))) s

/-- A version takes its home copies: a replica in each bay it names, or, where it is pinned, its parts in Ledge. Which free units
a replica takes the spec does not say. -/
def State.takeHomes (s : State) (x : ModelV) (pinned : Option (List (Nat × Nat × Nat))) : ModelV × State :=
  match pinned with
  | some l =>
    let x := { x with homes := [], ledge := l }
    (x, s.writeHomes x)
  | none =>
    let (w, s) := s.draw
    let n := (shapeOf (s.pkg x.package)).units
    let x := { x with
      homes := ((List.range 6).filter (fun b => x.bays / 2 ^ b % 2 = 1)).map (fun b => (b, s.hbmUnits b s.hbmTaken w.toNat n))
      ledge := [] }
    (x, s.writeHomes x)

/-! ### Which cores run a layer (R297) -/

/-- Logical cores of a bay (R113). -/
def bayCores (b : Nat) : List Nat := (List.range 6).map (· + 6 * b)

/-- Bulk and Train work queued on a bay's cores: their queues that are neither IDLE nor HALTED, and the dispatches in flight there. -/
def State.queuedWork (s : State) (b : Nat) : Nat :=
  ((bayCores b).map (fun c => ((List.range 8).filter (fun q =>
    let x := s.queue c q
    let cl := s.qClass (Fin.ofNat 36 c) q
    (cl = 1 || cl = 2) && x.state != .idle && x.state != .halted)).length)).sum +
  (s.gulk.streams.filter (fun x => match x.2 with
    | some t => (match t.run with
      | some r => (((s.scene t.scene).map (·.cls)).getD 3 == 1) && r.layers.any (fun l => l.cols.any (fun k => k.core / 6 == b))
      | none => false)
    | none => false)).length

/-- The bay with the least queued work, ties to the lower bay (R297). -/
def State.leastLoaded (s : State) : List Nat → Option Nat
  | [] => none
  | b :: r => match s.leastLoaded r with
    | some c => if s.queuedWork c < s.queuedWork b then some c else some b
    | none => some b

/-- The bay that holds a stream's pages of an attention layer. -/
def State.kvBay (s : State) (t : Stream) (entry : Nat) : Option Nat :=
  (t.map.head?.bind (fun r => r[entry]?)).map (fun g => (s.page g).bay)

/-- The cores a dispatch of a layer runs on (R200, R297): those that hold the model pinned; else the cores of the bay a future's group
has, of the bay that holds the stream's pages for the layer, or of the bay with the least queued work, each where a replica is resident
(notes/assumptions/75.md). -/
def State.coresFor (s : State) (x : ModelV) (t : Stream) (entry : Option Nat) : List Nat :=
  if x.hot = .pinned then (List.range 36).filter (fun c => x.cores / 2 ^ c % 2 = 1)
  else
    let homes := x.homes.map (·.1)
    let at_ (b : Option Nat) : Option Nat := b.filter homes.contains
    match ((at_ t.bay).orElse (fun _ => at_ (entry.bind (s.kvBay t)))).orElse (fun _ => s.leastLoaded homes) with
    | some b => bayCores b
    | none => []

/-! ### Division (R118, R119, R200) -/

/-- n things divided among k takers in contiguous ranges, as evenly as possible, the first taking the remainder: first and count. -/
def shares (n k : Nat) : List (Nat × Nat) :=
  (List.range k).map (fun i => (i * (n / k) + min i (n % k), n / k + (if i < n % k then 1 else 0)))

/-- The columns of a core's range on its two arrays, cut at a 64-column boundary (R118). -/
def arrayCols (core first count : Nat) : List ColRange :=
  let a := ceilDiv count 2
  ([⟨core, 0, first, a⟩, ⟨core, 1, first + a, count - a⟩] : List ColRange).filter (·.count ≠ 0)

/-- The columns of a layer on some cores: shared out in whole 64-column tiles, or all of them on each core where K is divided (R118). -/
def layerCols (cores : List Nat) (nt : Nat) (split : Bool) : List ColRange :=
  if split then cores.flatMap (fun c => arrayCols c 0 nt)
  else (cores.zip (shares nt cores.length)).flatMap (fun p => arrayCols p.1 p.2.1 p.2.2)

/-- The logical core of each key-value head group of the attention layers, by layer and head: the groups are dealt to the cores in
ascending order, one each in every round (R119). -/
def headCores (cores : List Nat) (layers heads : Nat) : List (Nat × Nat × Nat) :=
  (List.range layers).flatMap (fun l => (List.range heads).map (fun h => (l, h, cores.getD (h % max 1 cores.length) 0)))

/-- The core of each member's own work: first the cores with the fewest attention groups (R200). -/
def memberCores (cores : List Nat) (heads n : Nat) : List Nat :=
  let more := heads % max 1 cores.length
  let order := cores.drop more ++ cores.take more
  (List.range n).map (fun m => order.getD (m % max 1 order.length) 0)

/-! ### Tiling variants (R111, R112) -/

/-- Tiling variants of a layer, one to four. -/
def variants (data : FMap Byte) (layer : Nat) : List (BitVec 128) :=
  (List.range ((Config.variantsMore data layer).val + 1)).map (Config.variant data layer)

/-- A field of a variant: bits [hi:lo] of its 16 bytes. -/
def variantField (v : BitVec 128) (hi lo : Nat) : Nat := v.toNat >>> lo % 2 ^ (hi + 1 - lo)

/-- Largest M of a variant. -/
def variantMax (v : BitVec 128) : Nat := variantField v 127 96

/-- The variant a dispatch of a layer runs with for a runtime M: the first whose max_m is at least M (R112). -/
def variantFor (data : FMap Byte) (layer m : Nat) : Option (Nat × BitVec 128) :=
  ((variants data layer).zipIdx.find? (fun v => m ≤ variantMax v.1)).map (fun v => (v.2, v.1))

/-- A range cut into pieces of an extent, 0 for the whole: first and count. -/
def pieces (first n t : Nat) : List (Nat × Nat) :=
  let e := if t = 0 then max 1 n else t
  (List.range (ceilDiv n e)).map (fun i => (first + i * e, min e (n - i * e)))

/-- The iterations of three nested loops in the order a loop-order code names (R104, R105). -/
def loop3 (code : Nat) (ms ns ks : List (Nat × Nat)) : List ((Nat × Nat) × (Nat × Nat) × (Nat × Nat)) :=
  match code with
  | 0 => ms.flatMap (fun m => ns.flatMap (fun n => ks.map (fun k => (m, n, k))))
  | 1 => ns.flatMap (fun n => ms.flatMap (fun m => ks.map (fun k => (m, n, k))))
  | 2 => ms.flatMap (fun m => ks.flatMap (fun k => ns.map (fun n => (m, n, k))))
  | 3 => ns.flatMap (fun n => ks.flatMap (fun k => ms.map (fun m => (m, n, k))))
  | 4 => ks.flatMap (fun k => ms.flatMap (fun m => ns.map (fun n => (m, n, k))))
  | _ => ks.flatMap (fun k => ns.flatMap (fun n => ms.map (fun m => (m, n, k))))

/-- The L3 tiles of one array's columns over a range of K blocks (R105, R109, R111). -/
def tilesOf (v : BitVec 128) (mt : Nat) (c : ColRange) (k0 kn : Nat) : List LayerTile :=
  (loop3 (variantField v 2 0) (pieces 0 mt (variantField v 31 16)) (pieces c.first c.count (variantField v 47 32))
    (pieces k0 kn (variantField v 63 48))).map (fun (m, n, k) =>
      ⟨c.core, c.array, m.1, m.2, n.1, n.2, k.1, k.2, decide (k0 < k.1)⟩)

/-- How a dispatch runs a layer on some cores for a runtime M: none where no variant qualifies (R111, R112, R118). The activations of
each L3 tile go to the group of those cores. -/
def layerRun (data : FMap Byte) (layer m : Nat) (cores : List Nat) : Option LayerRun :=
  (variantFor data layer m).map (fun (i, v) =>
    let split := v.toNat.testBit 76
    let kb := layerNum data layer 2
    let parts := if split then (cores.zip (shares kb cores.length)).map (fun p => (p.1, p.2.1, p.2.2)) else []
    let cols := layerCols cores (layerNum data layer 1) split
    { layer := layer, variant := i, l2Order := variantField v 5 3, l1Order := variantField v 8 6, l2Tm := variantField v 69 64
      l2Tn := variantField v 75 70, cols := cols, group := (cores.map (2 ^ ·)).sum, kParts := parts
      tiles := cols.flatMap (fun c =>
        let (k0, kn) := ((parts.find? (·.1 = c.core)).map (·.2)).getD (0, kb)
        tilesOf v (ceilDiv m 64) c k0 kn) })

/-! ### Partial sums of a divided K (R118) -/

/-- X96 elements of a 64 KiB step buffer. -/
def bufferElems : Nat := poolUnit / 12

/-- The partial sums of a layer whose K is divided: each core writes its X96 partials, and Harbour adds them into the step buffers, which
hold zeros before (R118, R248). The partials are what the cores' products give, which the package alone does not fix. -/
def State.combineSplit (s : State) (cl : Nat) (buffers : List Nat) (elems : Nat) (parts : List (Nat × Nat × Nat)) : State :=
  let pieces := buffers.zipIdx.map (fun (a, i) => (a, min bufferElems (elems - i * bufferElems)))
  let s := pieces.foldl (fun (s : State) p => s.store p.1 (List.replicate (12 * p.2) 0)) s
  parts.foldl (fun (s : State) _ => pieces.foldl (fun (s : State) p =>
    ({ s with freeIx := s.freeIx + 1 }.reduceAt 0 p.1 (freeBytes s.freeIx (12 * p.2))).traffic cl p.1 (s.missing p.1 (12 * p.2))) s) s

/-! ### Queues bound to a dispatch (R100, R200, R293, R294) -/

/-- A queue is bound to the fast path or to a stream. -/
def State.queueTaken (s : State) (c : Fin 36) (q : Nat) : Bool := s.queueFast c.val q || (s.queue c q).bound.isSome

/-- A core has a queue bound to a stream of a scene. -/
def State.sceneOn (s : State) (c : Fin 36) (scene : Nat) : Bool :=
  (List.range 8).any (fun q => match (s.queue c q).bound with
    | some b => ((s.stream b.1).map (fun t => t.scene == scene)).getD false
    | none => false)

/-- Gulkutik binds an IDLE queue of a core, of the scene's class, to the stream that leads a dispatch: the queue takes its SR seed and
step from it. A core without such a queue, and one that has a queue of the same Reflex scene, gets none. Which queue the spec does not
say (notes/assumptions/76.md). -/
def State.bindQueue (s : State) (scene cls leader : Nat) (seed step : Word) (c : Fin 36) : Option Nat × State :=
  let bad := (List.range 8).filter (fun q => (s.queue c q).state != .idle || s.queueTaken c q || s.qClass c q != cls)
  if cls = 0 ∧ s.sceneOn c scene then (none, s)
  else
    match s.pick bad 8 with
    | (some q, s) =>
      let s := s.setQueue c q { s.queue c q with bound := some (leader, seed, step) }
      (some q, s.setFld (.sequencer c) .qCfg q 4 4 1)
    | (none, s) => (none, s)

/-- Binds a queue of each core of a dispatch. -/
def State.bindQueues (s : State) (scene cls leader : Nat) (seed step : Word) : List Nat → List (Nat × Nat) × State
  | [] => ([], s)
  | c :: r =>
    let (q, s) := s.bindQueue scene cls leader seed step (Fin.ofNat 36 c)
    let (l, s) := s.bindQueues scene cls leader seed step r
    ((q.map (fun q => (c, q))).toList ++ l, s)

/-- A dispatch is over: its queues are bound no longer, and take their seed and step from their registers again. -/
def State.unbindQueues (s : State) (l : List (Nat × Nat)) : State :=
  l.foldl (fun (s : State) p =>
    let c := Fin.ofNat 36 p.1
    (s.setQueue c p.2 { s.queue c p.2 with bound := none }).setFld (.sequencer c) .qCfg p.2 4 4 0) s

end Sys2Proof.Machine
end

