-- ==== Sys2Proof/Machine/Tree.lean ====
section
/-! DEFINITION. The prefix tree: keys, lookup, insertion and reuse (R202 to R206). -/

namespace Sys2Proof.Machine

/-- A block's tokens, 4 bytes each, little-endian (R202). -/
def tokenBytes (l : List (BitVec 32)) : List Byte := l.flatMap (fun t => leBytes t.toNat 4)

/-- The key of a node (R202): the first 16 bytes of the SHA-384 digest of parent key, model, version and tokens. -/
def nodeKey (parent : BitVec 128) (model version : Nat) (tokens : List (BitVec 32)) : BitVec 128 :=
  BitVec.ofNat 128 ((sha384 (beBytes parent.toNat 16 ++ leBytes model 2 ++ leBytes version 1 ++ tokenBytes tokens)).toNat / 2 ^ 256)

/-- The complete 64-token blocks of a history. -/
def blocksOf (l : List (BitVec 32)) : List (List (BitVec 32)) := chunksOf 64 (l.take (l.length / 64 * 64)) (l.length + 1)

/-- A hit: key, parent, model, version and all tokens are equal (R204). -/
def Node.same (n : Node) (key : BitVec 128) (parent : Option Nat) (model version : Nat) (tokens : List (BitVec 32)) : Bool :=
  n.key == key && n.parent == parent && n.model == model && n.version == version && n.tokens == tokens

/-- The node of a block, if there is one; a key match that fails the compare counts as a collision (R204). -/
def State.lookNode (s : State) (key : BitVec 128) (parent : Option Nat) (model version : Nat) (tokens : List (BitVec 32)) :
    Option Nat × State :=
  let l := s.gulk.nodes.filterMap (fun x => x.2.bind (fun n => if n.key = key then some (x.1, n) else none))
  match l.find? (fun x => x.2.same key parent model version tokens) with
  | some x => (some x.1, s)
  | none => (none, if l.isEmpty then s else (s.bump .rollout .prefixCollisions 0 1).event .rollout 2)

/-- The walk of a history from block 0: the nodes hit, their last use set (R205). -/
def State.walkTree (s : State) (model version : Nat) (parent : Option Nat) (pkey : BitVec 128) :
    List (List (BitVec 32)) → List Nat × State
  | [] => ([], s)
  | b :: r =>
    let key := nodeKey pkey model version b
    match s.lookNode key parent model version b with
    | (some i, s) =>
      let s := s.setNode i ((s.node i).map (fun n => { n with lastUse := s.now }))
      let (l, s) := s.walkTree model version (some i) key r
      (i :: l, s)
    | (none, s) => ([], s)

/-- Adds a reference to a page; a page that several maps or nodes hold is open to no one stream's writes (R159, R163). -/
def State.refPage (s : State) (i n : Nat) : State :=
  let p := s.page i
  s.setPage i { p with refs := p.refs + n, tail := p.tail && p.refs + n ≤ 1 }

/-- Adds references to a token page. -/
def State.refTok (s : State) (i n : Nat) : State := s.setTok i ((s.tok i).map (fun t => { t with refs := t.refs + n }))

/-- Adds references to a checkpoint. -/
def State.refCkpt (s : State) (i n : Nat) : State := s.setCkpt i ((s.ckpt i).map (fun t => { t with refs := t.refs + n }))

/-- The 64 bytes of a node's record (R203). -/
def Node.record (n : Node) : List Byte :=
  let none32 : Nat := 0xFFFFFFFF
  beBytes n.key.toNat 16 ++
  leBytes (n.parent.getD none32 + n.model % 2 ^ 16 * 2 ^ 32 + n.version % 2 ^ 8 * 2 ^ 48 + (if n.ckpt.isSome then 2 ^ 56 else 0)) 8 ++
  leBytes (n.first % 2 ^ 20 + n.children % 2 ^ 24 * 2 ^ 32) 8 ++
  leBytes n.lastUse.toNat 8 ++
  leBytes (n.rowAt.toNat % 2 ^ 48) 8 ++
  leBytes (n.ckpt.getD 0 % 2 ^ 32 + n.next.getD none32 * 2 ^ 32) 8 ++
  leBytes (n.tokensAt.toNat % 2 ^ 48) 8

/-- The 256 bytes of a node's token block (R203). -/
def Node.tokenBlock (n : Node) : List Byte := tokenBytes n.tokens

/-- The 4-byte identifiers of a node's page row, from the address its record names (R203). -/
def Node.rowBytes (n : Node) : List Byte := n.row.flatMap (fun g => leBytes g 4)

/-- The first node of the hash chain that holds a key (R203, R204). -/
def State.chainHead (s : State) (key : BitVec 128) : Option Nat :=
  let mine := s.gulk.nodes.filter (fun x => (x.2.map (fun n => Config.chainOf n.key == Config.chainOf key)).getD false)
  (mine.find? (fun x => mine.all (fun y => (y.2.bind (·.next)) ≠ some x.1))).map (·.1)

/-- Makes room for a node under ROLL_NODE_LIMIT by evicting the oldest childless node that is not on the path (R206). -/
def State.nodeRoom (s : State) (path : List Nat) : State :=
  if s.nodeCount < s.fld .rollout .rollNodeLimit 0 22 0 then s
  else
    match s.oldestNode (fun i _ => !path.contains i) with
    | some i => (s.evictNode i).event .rollout 1
    | none => s

/-- Inserts a history's blocks under a parent (R204). `rows` are the page rows by index, `per` positions a row holds,
`ck` the checkpoints by position. -/
def State.insertTree (s : State) (model version cls per : Nat) (rows : List (List Nat)) (ck : List (Nat × Nat))
    (parent : Option Nat) (pkey : BitVec 128) (path : List Nat) : Nat → List (List (BitVec 32)) → State
  | _, [] => s
  | b, toks :: r =>
    let key := nodeKey pkey model version toks
    match s.lookNode key parent model version toks with
    | (some i, s) =>
      let s := s.setNode i ((s.node i).map (fun n => { n with lastUse := s.now }))
      s.insertTree model version cls per rows ck (some i) key (i :: path) (b + 1) r
    | (none, s) =>
      let s := s.nodeRoom path
      if s.fld .rollout .rollNodeLimit 0 22 0 ≤ s.nodeCount then s
      else
        let (i, s) := s.pick ((s.gulk.nodes.filter (·.2.isSome)).map (·.1)) (s.fld .rollout .rollNodeLimit 0 22 0)
        match i with
        | none => s
        | some i =>
          let row := rows.getD (64 * b / per) []
          let c := (ck.find? (fun x => x.1 = 64 * b + 64)).map (·.2)
          let (rowAt, s) := s.draw
          let (toksAt, s) := s.draw
          let s := s.setNode i (some { key := key, parent := parent, model := model, version := version, ckpt := c, first := 64 * b,
                                       children := 0, lastUse := s.now, row := row, tokens := toks, cls := cls,
                                       next := s.chainHead key, rowAt := rowAt, tokensAt := toksAt })
          let s := row.foldl (fun (s : State) g => s.refPage g 1) s
          let s : State := match c with | some c => s.refCkpt c 1 | none => s
          let s : State := match parent with
            | some p => s.setNode p ((s.node p).map (fun (n : Node) => { n with children := n.children + 1 }))
            | none => s
          s.insertTree model version cls per rows ck (some i) key (i :: path) (b + 1) r

/-- Inserts a stream's blocks that lie below a position (R204). -/
def State.insertStream (s : State) (i below : Nat) : State :=
  match s.stream i with
  | none => s
  | some st =>
    match s.scene st.scene with
    | none => s
    | some sc =>
      let x := s.shape sc.model sc.version
      let ck := st.ckpts.filterMap (fun c => (s.ckpt c).map (fun k => (k.pos, c)))
      s.insertTree sc.model sc.version sc.cls x.positions st.map ck none 0 [] 0 (blocksOf (st.tokens.take below))

/-- The number of blocks a walk lets a stream reuse (R205): all that hit, or, with recurrent layers, up to the deepest
node with a checkpoint; and that checkpoint. -/
def State.reuse (s : State) (recurrent : Bool) (hits : List Nat) : Nat × Option Nat :=
  if !recurrent then (hits.length, none)
  else
    match ((hits.zipIdx.filterMap (fun (i, b) => (s.node i).bind (fun n => n.ckpt.map (fun c => (b + 1, c))))).getLast?) with
    | some (b, c) => (b, some c)
    | none => (0, none)

/-- Evicts nodes until the count fits a limit (R206, R215). -/
def State.fitNodes (s : State) (limit : Nat) : Nat → State
  | 0 => s
  | fuel + 1 =>
    if s.nodeCount ≤ limit then s
    else
      match s.oldestNode (fun _ _ => true) with
      | some i => (s.evictNode i).fitNodes limit fuel
      | none => s

/-- A write of ROLL_NODE_LIMIT: 64 to 4,194,304, other values ignored; nodes are evicted until the count fits (R215). -/
def State.rollNodeLimitWrite (s : State) (v : Word) : State :=
  let n := bits v 22 0
  if n < 64 ∨ 4194304 < n then s else (s.wrRw .rollout .rollNodeLimit 0 v).fitNodes n s.nodeCount

/-- ROLL_NODE_LIMIT_WRITE (R215). -/
def execRollNodeLimitWrite (v : Word) (s : State) : Host.Outcome State Fault Refusal := .next (s.awake fun s => s.rollNodeLimitWrite v)

/-- Evicts every node of a model version, leaves first (R206, R300). -/
def State.evictVersion (s : State) (m v : Nat) : Nat → State
  | 0 => s
  | fuel + 1 =>
    match s.oldestNode (fun _ n => n.model == m && n.version == v) with
    | some i => (s.evictNode i).evictVersion m v fuel
    | none => s

end Sys2Proof.Machine
end

