-- ==== Sys2Proof/Machine/Scene.lean ====
section
/-! DEFINITION. Scenes and streams: handles, closing, forks, the dispatch of a step with its pages, and its commit
(R157 to R165, R185, R186, R192 to R208, R300). -/

namespace Sys2Proof.Machine

/-! ### Handles and bodies (R193, R312, R316) -/

/-- Handle of a scene slot at a generation (R193). -/
def sceneHandle (i gen : Nat) : Nat := i + 64 * (gen % 2 ^ 26)

/-- Handle of a stream slot at a generation (R193). -/
def streamHandle (i gen : Nat) : Nat := i + 16384 * (gen % 2 ^ 18)

/-- The scene a handle names, if its generation is current (R193). -/
def State.sceneOf (s : State) (h : Nat) : Option (Nat × Scene) :=
  (s.scene (h % 64)).bind (fun x => if sceneHandle (h % 64) x.gen = h then some (h % 64, x) else none)

/-- The stream a handle names, if its generation is current (R193). -/
def State.streamOf (s : State) (h : Nat) : Option (Nat × Stream) :=
  (s.stream (h % 16384)).bind (fun x => if streamHandle (h % 16384) x.gen = h then some (h % 16384, x) else none)

/-- An n-byte field of a body (R316). -/
def field (b : List Byte) (o n : Nat) : Nat := leNat ((b.drop o).take n)

/-- A host buffer descriptor (R312). -/
structure Desc where
  addr : Nat
  rkey : Nat
  len : Nat
  deriving DecidableEq, Repr

/-- The descriptor at an offset of a body. -/
def descAt (b : List Byte) (o : Nat) : Desc := ⟨field b o 8, field b (o + 8) 4, field b (o + 12) 4⟩

/-- Bytes of a response's body (R316). -/
def replyBytes (op : Nat) : Nat :=
  match op with
  | 0x01 => 24
  | 0x02 | 0x03 | 0x04 | 0x05 | 0x10 | 0x18 | 0x19 | 0x30 => 8
  | _ => 0

/-- A request leaves the lists of the streams it acts on. -/
def State.dropWork (s : State) (k : Nat) : State :=
  { s with gulk := { s.gulk with
    streams := s.gulk.streams.map (fun x => (x.1, x.2.map (fun t => { t with work := t.work.filter (· ≠ k) }))) } }

/-- Answers a request; every PLAN counts, and one that ends with E_DEADLINE raises PLAN_DEADLINE (R215, R216). -/
def State.answer (s : State) (k : Nat) (st : Status) (wmUnit wm : Nat) (body : List Byte)
    (writes : List (Nat × Nat × List Byte)) : State :=
  match s.req k with
  | none => s
  | some r =>
    let s := (s.dropWork k).respond k r st wmUnit wm body writes
    if r.op ≠ 3 then s
    else
      let s := s.bump .rollout .planCount 0 1
      if st = .eDeadline then (s.bump .rollout .planDeadlineCount 0 1).event .rollout 3 else s

/-- The body of a failed request: nothing was created or written; the other fields nothing fixes. -/
def failBody (op ix : Nat) : List Byte :=
  if op = 3 ∨ op = 4 ∨ op = 5 then List.replicate 8 0 else freeBytes ix (replyBytes op)

/-- Answers a request that failed before it did any work. -/
def State.refuse (s : State) (k : Nat) (st : Status) : State :=
  match s.req k with
  | none => s
  | some r => { s with freeIx := s.freeIx + 1 }.answer k st 0 0 (failBody r.op s.freeIx) []

/-- The reason a request must stop at its next boundary: of those that apply, the one with the lowest code (R13), `codes` rising
(R29, R212, R213, R325). -/
def Req.stop (r : Req) (now : Word) (codes : List Status) : Option Status :=
  codes.find? (fun st => (r.applies now).contains st.code)

/-- Every status, by rising code. -/
def allStatus : List Status :=
  [.ok, .partial_, .eState, .eShape, .eFormat, .eAddr, .eGone, .eLength, .eMemUncorr, .eLink, .eSat, .eAbort, .ePower,
   .eDeadline]

/-! ### Closing (R194, R206, R300) -/

/-- Closes a stream that has no step in flight (R194, R204): its blocks go into the tree, its references are released,
its slot is free, and requests that still name it, but for one, complete with E_GONE. -/
def State.closeStream (s : State) (i : Nat) (but : Option Nat) : State :=
  match s.stream i with
  | none => s
  | some st =>
    let s := s.insertStream i st.position
    let s := st.map.foldl (fun (s : State) row => row.foldl State.unrefPage s) s
    let s := st.tokPages.foldl State.unrefTok s
    let s := st.ckpts.foldl State.unrefCkpt s
    let s := s.setStream i none
    let s := { s with gulk := { s.gulk with streamGen := FMap.set 0 s.gulk.streamGen i ((st.gen + 1) % 2 ^ 18) } }
    (st.work.filter (fun k => some k ≠ but)).foldl (fun (s : State) k => s.refuse k .eGone) s

/-- A version that retires and that no scene binds becomes COLD; its nodes are evicted (R300, R206). -/
def State.retireCheck (s : State) (m v : Nat) : State :=
  match s.model m v with
  | some x =>
    if x.retiring ∧ s.unbound m v then
      (s.setModel m v (some x.cooled)).evictVersion m v s.nodeCount
    else s
  | none => s

/-- Closes a scene whose streams have no step in flight: its streams in ascending slot order, then its slot (R194). -/
def State.closeScene (s : State) (i : Nat) : State :=
  match s.scene i with
  | none => s
  | some sc =>
    let l := (s.gulk.streams.filter (fun x => (x.2.map (fun t => t.scene == i)).getD false)).map (·.1)
    let s := l.foldl (fun (s : State) j => s.closeStream j none) s
    let s := s.setScene i none
    let s := { s with
      gulk := { s.gulk with sceneGen := FMap.set 0 s.gulk.sceneGen i ((sc.gen + 1) % 2 ^ 26) }
      est := { s.est with regions := s.est.regions.filter (fun x => x.rkey ≠ sc.rkey) } }
    s.retireCheck sc.model sc.version

/-! ### Forks (R197, R198) -/

/-- Several free stream slots; which ones the spec does not say. -/
def State.pickSlots (s : State) (used : List Nat) : Nat → List Nat × State
  | 0 => ([], s)
  | n + 1 =>
    match s.pick used 16384 with
    | (some i, s) =>
      let (l, s) := s.pickSlots (i :: used) n
      (i :: l, s)
    | (none, s) => ([], s)

/-- The child with an ordinal, and its page map at a device address (R196, R198). -/
def Stream.child (src : Stream) (i gen key ord : Nat) (mapAt : Word) : Stream :=
  { gen := gen, scene := src.scene, parent := some i, forkKey := key, ordinal := ord,
    seed := srMix (src.seed ^^^ srMix (BitVec.ofNat 64 (key * 2 ^ 32 ||| ord))),
    position := src.position, map := src.map, mapAt := mapAt, state := src.state, tokens := src.tokens, tokPages := src.tokPages,
    ckpts := src.ckpts, anchored := src.anchored, anchors := src.anchors, layouts := src.layouts, base := src.position, decCtx := src.decCtx }

/-- References added by one Harbour atomic addition for each object (R197, R247). Which half caches a count the spec does not say, as it
does not say where the descriptors stand. -/
def State.countAtomics (s : State) (n : Nat) : State :=
  (List.range n).foldl (fun (s : State) i =>
    let (b, s) := s.drawBit i
    s.bump (.harbour (if b then 1 else 0)) .hbAtomics 0 1) s

/-- Streams open (R192, R215). -/
def State.openStreams (s : State) : List Nat := (s.gulk.streams.filter (·.2.isSome)).map (·.1)

/-- A FORK of n children from a source, whole or not at all (R197, R198): their slots, or none for want of slots or of
room for their page maps. `key` none takes the scene's fork serial; ordinals count from `first`. -/
def State.fork (s : State) (src n : Nat) (key : Option Nat) (first : Nat) : Option (List Nat) × State :=
  match s.stream src with
  | none => (none, s)
  | some st =>
    match s.scene st.scene with
    | none => (none, s)
    | some sc =>
      let used := s.openStreams
      if 16384 < used.length + n then (none, s.event .rollout 0)
      else
        let mapUnits := ceilDiv (n * (st.map.map (fun r => 4 * r.length)).sum) poolUnit
        let (room, s) := s.allocate sc.cls 0 mapUnits (keepPages st.map.flatten)
        if !room then (none, s)
        else
          let f := key.getD (sc.forkSerial % 2 ^ 32)
          let s := s.setScene st.scene (some { sc with forkSerial := sc.forkSerial + 1 })
          if n = 0 then (some [], s)
          else
            let s := s.insertStream src st.position
            let s := st.map.foldl (fun (s : State) row => row.foldl (fun (s : State) g => s.refPage g n) s) s
            let s := st.tokPages.foldl (fun (s : State) g => s.refTok g n) s
            let s := st.ckpts.foldl (fun (s : State) g => s.refCkpt g n) s
            let s := s.countAtomics (st.map.flatten.eraseDups.length + st.tokPages.length + st.ckpts.length)
            let (slots, s) := s.pickSlots used n
            let s := slots.zipIdx.foldl (fun (s : State) (x : Nat × Nat) =>
              let (a, s) := s.draw
              s.setStream x.1 (some (st.child src (FMap.get 0 s.gulk.streamGen x.1) f (first + x.2) a))) s
            (some slots, s.bump .rollout .forkCount 0 n)

/-! ### Groups (R200) -/

/-- The groups of n futures over the enabled bays, in ascending order of ordinals, by bay and size: the bays share them as evenly as
possible, lower bays taking the remainder, and a bay's share is cut at the group limit. -/
def Code.groups (code : Code) (n limit : Nat) : List (Nat × Nat) :=
  (shares n code.bays).zipIdx.flatMap (fun ((_, k), b) =>
    (pieces 0 k limit).map (fun p => (code.bayAt b, p.2)))

/-- Gives each future its group. -/
def State.setGroups (s : State) (k : Nat) : List Nat → List (Nat × Nat) → State
  | _, [] => s
  | slots, (bay, g) :: gs =>
    let mine := slots.take g
    let s := mine.zipIdx.foldl (fun (s : State) (x : Nat × Nat) =>
      s.setStream x.1 ((s.stream x.1).map (fun t =>
        { t with work := [k], leader := mine.headD 0, group := g, member := x.2, bay := some bay }))) s
    s.setGroups k (slots.drop g) gs

/-! ### Tokens of a step -/

/-- Bytes of a frame in a frame format (R222). -/
def Shape.frameBytes (x : Shape) (fmt : Nat) : Nat := x.width * x.height * framePixel fmt

/-- 32-bit words of memory. -/
def State.words32 (s : State) (a n : Nat) : List (BitVec 32) :=
  (List.range n).map (fun i => BitVec.ofNat 32 (leNat (s.bytes (a + 4 * i) 4)))

/-- A context after one more frame (R223): `kind` 0 encodes and 1 decodes; the package says how long the rings are. -/
def State.nextCtx (s : State) (sc : Scene) (kind : Nat) (c : FsCtx) (input : List Byte) : FsCtx :=
  { seen := c.seen + 1
    rings := (List.range (Config.package (s.packageOf sc.model sc.version) (14 + kind))).map
      (Config.ringByte sc.model (s.weightsId sc.model sc.version) (kind = 1) c.rings c.seen input) }

/-- The tokens an OBSERVE brings in (R205, R316), the action tokens of each frame before its frame tokens, and the encoding context after
its frames (R223). -/
def State.observeTokens (s : State) (sc : Scene) (b : List Byte) : List (BitVec 32) × FsCtx :=
  let x := s.shape sc.model sc.version
  let count := field b 4 4
  let input := sc.intake + field b 8 4
  let an := if field b 12 4 = 0xFFFFFFFF then 0 else field b 16 2
  let acts := s.words32 (sc.intake + field b 12 4) an
  if field b 0 1 = 1 then (acts ++ s.words32 input count, sc.encCtx)
  else
    let fb := x.frameBytes sc.frameFmt
    let (frames, ctx) := (List.range count).foldl (fun (p : List (List (BitVec 32)) × FsCtx) i =>
      let bs := s.bytes (input + i * fb) fb
      (p.1 ++ [(List.range x.frame).map (Config.encodeToken sc.model (s.weightsId sc.model sc.version) p.2.rings p.2.seen bs)],
       s.nextCtx sc 0 p.2 bs)) (([] : List (List (BitVec 32))), sc.encCtx)
    if count ≠ 0 ∧ an % count = 0 then
      ((List.range count).flatMap (fun i => (acts.drop (i * (an / count))).take (an / count) ++ frames.getD i []), ctx)
    else (acts ++ frames.flatten, ctx)

/-- Action slots of a step of a request: those a PLAN names, or those the package fixes (R209, R318). -/
def Req.acts (r : Req) (x : Shape) : Nat := if r.op = 3 then field r.body 5 1 else x.acts

/-- Steps of each future of a request. -/
def Req.steps (r : Req) : Nat := field r.body 2 2

/-- The action tokens of step t of the future with index o (R209, R318). -/
def State.actionTokens (s : State) (sc : Scene) (x : Shape) (r : Req) (o t : Nat) : List (BitVec 32) :=
  let a := r.acts x
  if r.op = 3 then
    ((r.codes.drop ((o * r.steps + t) * a)).take a).map (Config.actionToken sc.model sc.version)
  else s.words32 (sc.intake + field r.body 16 4 + 4 * ((o * r.steps + t) * a)) a

/-! ### Pages of a step (R161 to R165) -/

/-- Rows of a stream's map that a step of n positions needs beyond those it has. -/
def Stream.newRows (st : Stream) (x : Shape) (n : Nat) : Nat := ceilDiv (st.position + n) x.positions - st.map.length

/-- Pages of existing rows that a step writes and that others share (R163). -/
def State.cowPages (s : State) (st : Stream) (x : Shape) (n : Nat) : List Nat :=
  if n = 0 then []
  else ((st.map.drop (st.position / x.positions)).flatten).filter (fun g => 1 < (s.page g).refs)

/-- A step of n positions writes a token page that other streams share (R196). -/
def State.tokShared (s : State) (st : Stream) (n : Nat) : Bool :=
  n != 0 && st.position % 16384 != 0 &&
  (match st.tokPages.getLast? with
   | some g => decide (1 < ((s.tok g).map (·.refs)).getD 0)
   | none => false)

/-- Token pages a step needs: new ones, and a copy of a shared last page that it writes (R196). -/
def State.tokNeed (s : State) (st : Stream) (n : Nat) : Nat :=
  ceilDiv (st.position + n) 16384 - st.tokPages.length +
  (if s.tokShared st n then 1 else 0)

/-- The bays in whose partitions a stream's pages live, by entry of a page row: that of the core that has the key-value head group
(R119). -/
def State.pageBays (s : State) (sc : Scene) (x : Shape) (t : Stream) : List Nat :=
  match s.model sc.model sc.version with
  | none => []
  | some m => (List.range x.layers).flatMap (fun l =>
      let cores := s.coresFor m t (some (l * x.heads))
      (List.range x.heads).map (fun h => cores.getD (h % max 1 cores.length) 0 / 6))

/-- Bytes of a page's keys and values at positions r to r + n - 1 of the page: offset and bytes (R157). -/
def Shape.entryRanges (x : Shape) (r n : Nat) : List (Nat × Nat) :=
  let b := kvWidth x.kvFmt
  (r * x.dim * b, n * x.dim * b) ::
  (List.range (x.dim / 64)).flatMap (fun c => (List.range n).map (fun i =>
    (32768 + (c * (x.positions / 64) + (r + i) / 64) * 4096 * b + (r + i) % 64 * 64 * b, 64 * b)))

/-- The entries of a page at or beyond a position of it are undefined (R157). -/
def State.freeEntries (s : State) (x : Shape) (loc from_ : Nat) : State :=
  (x.entryRanges from_ (x.positions - from_)).foldl (fun (s : State) r => s.scramble (loc + r.1) r.2) s

/-- A new page of a row, RESIDENT with tail set (R161): its entries are undefined until they are written. -/
def State.newPage (s : State) (sc : Scene) (x : Shape) (bays : List Nat) (entry first filled : Nat) (tail : Bool) : Nat × State :=
  let (i, s) := s.pick (s.gulk.pages.map (·.1)) (2 ^ 28)
  let bay := bays.getD entry 0
  let (a, s) := s.hbmUnit bay
  let i := i.getD 0
  let s := s.freeEntries x (a.getD 0) 0
  (i, s.setPage i { st := .resident, tail := tail, refs := 1, filled := filled, lastUse := s.now, loc := a.getD 0,
                    fmt := x.kvFmt, dCode := if x.dim = 64 then 0 else if x.dim = 128 then 1 else 2, model := sc.model,
                    version := sc.version, layer := entry / x.heads, head := entry % x.heads, first := first,
                    cls := sc.cls, bay := bay })

/-- A new page row from a position on. -/
def State.newRow (s : State) (sc : Scene) (x : Shape) (bays : List Nat) (first : Nat) : Nat → List Nat × State
  | 0 => ([], s)
  | n + 1 =>
    let (l, s) := s.newRow sc x bays first n
    let (i, s) := s.newPage sc x bays n first 0 true
    (l ++ [i], s)

/-- Several new rows. -/
def State.newRows (s : State) (sc : Scene) (x : Shape) (bays : List Nat) (row : Nat) : Nat → List (List Nat) × State
  | 0 => ([], s)
  | n + 1 =>
    let (r, s) := s.newRow sc x bays (row * x.positions) x.pages
    let (l, s) := s.newRows sc x bays (row + 1) n
    (r :: l, s)

/-- Copies a page for one stream (R163, R205): the copy is open for writing, its entries beyond `filled` undefined, and the original
loses a reference. -/
def State.copyPage (s : State) (sc : Scene) (x : Shape) (bays : List Nat) (g filled : Nat) : Nat × State :=
  let p := s.page g
  let (i, s) := s.newPage sc x bays (p.layer * x.heads + p.head) p.first filled true
  let s := (s.moveUnit p.loc (s.page i).loc).freeEntries x (s.page i).loc filled
  (i, (s.unrefPage g).bump .rollout .cowCopyCount 0 1)

/-- Copies the shared pages of a row. -/
def State.copyRow (s : State) (sc : Scene) (x : Shape) (bays : List Nat) : List Nat → List Nat × State
  | [] => ([], s)
  | g :: r =>
    let (i, s) := if 1 < (s.page g).refs then s.copyPage sc x bays g (s.page g).filled else (g, s)
    let (l, s) := s.copyRow sc x bays r
    (i :: l, s)

/-- Copies the shared pages of several rows. -/
def State.copyRows (s : State) (sc : Scene) (x : Shape) (bays : List Nat) : List (List Nat) → List (List Nat) × State
  | [] => ([], s)
  | r :: rs =>
    let (a, s) := s.copyRow sc x bays r
    let (l, s) := s.copyRows sc x bays rs
    (a :: l, s)

/-- Token pages of a stream for a step. -/
def State.tokPagesFor (s : State) (sc : Scene) (st : Stream) (n : Nat) : List Nat × State :=
  let want := ceilDiv (st.position + n) 16384
  let shared := s.tokShared st n
  let keep := if shared then st.tokPages.dropLast else st.tokPages
  let s := (st.tokPages.drop keep.length).foldl State.unrefTok s
  (List.range (want - keep.length)).foldl (fun (p : List Nat × State) _ =>
    let (i, s) := p.2.pick (p.2.gulk.toks.map (·.1)) (2 ^ 32)
    (p.1 ++ [i.getD 0], s.setTok (i.getD 0) (some { refs := 1, cls := sc.cls, lastUse := s.now }))) (keep, s)

/-- Pins the pages of a stream's map (R162). -/
def State.pinAll (s : State) (l : List Nat) : State :=
  l.foldl (fun (s : State) g => s.setPage g { s.page g with pins := (s.page g).pins + 1, lastUse := s.now }) s

/-- The step of a stream takes its rows, copies and token pages, pins its map and runs. -/
def State.runStep (s : State) (sc : Scene) (x : Shape) (i : Nat) (bring : List (BitVec 32)) (gens : Nat) : State :=
  match s.stream i with
  | none => s
  | some st =>
    let n := bring.length + gens
    let cut := st.position / x.positions
    let bays := s.pageBays sc x st
    let (tail, s) := s.copyRows sc x bays (if n = 0 then [] else st.map.drop cut)
    let map := if n = 0 then st.map else st.map.take cut ++ tail
    let (rows, s) := s.newRows sc x bays map.length (st.newRows x n)
    let map := map ++ rows
    let (toks, s) := s.tokPagesFor sc st n
    let s := s.pinAll map.flatten
    let closes := st.work.any (fun k => ((s.req k).map (fun r => r.op == 6)).getD false)
    s.setStream i (some { st with map := map, tokPages := toks, pinned := map.flatten, bring := bring, gens := gens,
                                  phase := .running, draining := st.draining || closes || !sc.closing.isEmpty })

/-! ### Dispatch of the layers (R100, R111, R112, R118, R119, R200, R297) -/

/-- Every layer has a variant for a runtime M (R112). -/
def State.variantsOk (s : State) (sc : Scene) (x : Shape) (m : Nat) : Bool :=
  (List.range x.tiled).all (fun l => (variantFor (s.packageOf sc.model sc.version) l m).isSome)

/-- The cores of a tiled layer of a dispatch that a stream leads; what the package says of the layer (kind 6) is its attention layer
counted from 1, or 0. -/
def State.layerCores (s : State) (sc : Scene) (x : Shape) (t : Stream) (m : ModelV) (l : Nat) : List Nat :=
  let a := layerNum (s.packageOf sc.model sc.version) l 6
  s.coresFor m t (if a = 0 then none else some ((a - 1) * x.heads))

/-- The dispatch of one step of a group, n positions of each member (R200): its SR inputs, its layers with their variants and their
division, its step buffers, the partial sums of layers whose K is divided, and the queues bound to its leader. -/
def State.dispatchRun (s : State) (sc : Scene) (x : Shape) (i : Nat) (gs : List Nat) (n : Nat) : State :=
  match s.stream i, s.model sc.model sc.version with
  | some t, some m =>
    let data := s.packageOf sc.model sc.version
    let layers := (List.range x.tiled).filterMap (fun l => layerRun data l (n * gs.length) (s.layerCores sc x t m l))
    let heads := (List.range x.layers).flatMap (fun l =>
      (headCores (s.coresFor m t (some (l * x.heads))) 1 x.heads).map (fun h => (l, h.2)))
    let cores := (layers.flatMap (fun l => l.cols.map (·.core))).eraseDups
    let own := s.coresFor m t (if x.layers = 0 then none else some 0)
    let (w, s) := s.draw
    let buffers := s.hbmUnits (own.headD 0 / 6) s.hbmTaken w.toNat x.buffers
    let s := layers.foldl (fun (s : State) l =>
      s.combineSplit sc.cls buffers (n * gs.length * 64 * layerNum data l.layer 1) l.kParts) s
    let step := BitVec.ofNat 64 t.position
    let (queues, s) := s.bindQueues t.scene sc.cls i t.seed step cores
    s.setStream i ((s.stream i).map (fun t => { t with run := some {
      members := gs, seed := t.seed, step := step, nPos := n, rne := sc.srMode = 0, layers := layers, heads := heads,
      futures := memberCores own x.heads gs.length, buffers := buffers, queues := queues } }))
  | _, _ => s

/-- A step of a group's stream is over: with the last of its members the dispatch is, and its queues are bound no longer. -/
def State.endRun (s : State) (i : Nat) : State :=
  let mine (x : Nat × Option Stream) : Bool := ((x.2.bind (·.run)).map (fun r => r.members.contains i)).getD false
  let l := ((List.find? mine s.gulk.streams).map (·.1)).getD i
  match (s.stream l).bind (·.run) with
  | none => s
  | some r =>
    if r.members.any (fun j => ((s.stream j).map (fun t => t.phase == .running)).getD false) then s
    else (s.unbindQueues r.queues).setStream l ((s.stream l).map (fun t => { t with run := none }))

/-! ### The prefix walk (R205) -/

/-- Copies the pages of a row that a reuse point cuts. -/
def State.cutRow (s : State) (sc : Scene) (x : Shape) (bays : List Nat) (filled : Nat) : List Nat → List Nat × State
  | [] => ([], s)
  | g :: r =>
    -- the copy of R163 gives up a reference the stream does not hold yet
    let (i, s) := (s.refPage g 1).copyPage sc x bays g filled
    let (l, s) := s.cutRow sc x bays filled r
    (i :: l, s)

/-- The page row that a walk's hits give for a row of a map, up to a reuse point. -/
def State.hitRow (s : State) (hits : List Nat) (point per row : Nat) : List Nat :=
  ((s.node (hits.getD (min (point - 1) ((row + 1) * per - 1) / 64) 0)).map (·.row)).getD []

/-- A stream takes the rows of hit nodes up to a reuse point beyond its position. -/
def State.takeRows (s : State) (sc : Scene) (x : Shape) (i point : Nat) (hits : List Nat) (all : List (BitVec 32))
    (ckpt : Option Nat) : State :=
  match s.stream i with
  | none => s
  | some st =>
    let p := x.positions
    let bays := s.pageBays sc x st
    let lo := st.position / p
    let s := (st.map.drop lo).flatten.foldl State.unrefPage s
    let whole := (List.range (point / p - lo)).map (fun j => s.hitRow hits point p (lo + j))
    let s := whole.foldl (fun (s : State) r => r.foldl (fun (s : State) g => s.refPage g 1) s) s
    let (cut, s) := if point % p = 0 then ([], s)
      else (let (r, s) := s.cutRow sc x bays (point % p) (s.hitRow hits point p (point / p)); ([r], s))
    let (toks, s) := s.tokPagesFor sc st (point - st.position)
    let s := match ckpt with
      | some c => s.refCkpt c 1
      | none => s
    s.setStream i (some { st with position := point, map := st.map.take lo ++ whole ++ cut, tokPages := toks,
                                  tokens := all.take point, ckpts := st.ckpts ++ ckpt.toList,
                                  anchored := st.anchored ++ ckpt.toList,
                                  state := ((ckpt.bind s.ckpt).map (·.image)).getD st.state })

/-- A SPILLED page comes back to HBM4, into its bay's partition (R161). -/
def State.unspill (s : State) (g : Nat) : State :=
  match s.hbmUnit (s.page g).bay with
  | (some a, s) => (s.moveUnit (s.page g).loc a).setPage g { s.page g with st := .resident, loc := a }
  | (none, s) => s

/-- The recomputation of a DROPPED page begins (R164). -/
def State.beginRecompute (s : State) (g : Nat) : State :=
  let (a, s) := s.hbmUnit (s.page g).bay
  s.setPage g { s.page g with st := .recomputing, loc := a.getD 0 }

/-- How a walk of the prefix tree ends: it is done, it waits for units, or for pages of a row that it must copy. -/
inductive WalkEnd
  | done
  | noRoom
  | pages (ids : List Nat) (starter : Bool)
  deriving DecidableEq, Repr

/-- An OBSERVE walks the tree once over its stream's history with the tokens it brings (R205). The nodes it hits stay until the lookup
ends (R206). Pages of a row that the reuse point cuts are copied, so those that are DROPPED are recomputed first. A history beyond the
limit is left to the dispatch (R165). -/
def State.walkPrefix (s : State) (i k : Nat) (r : Req) (st : Stream) (sc : Scene) : WalkEnd × State :=
  let x := s.shape sc.model sc.version
  let (bring, ctx) := if r.hits.isSome then (st.bring, sc.encCtx) else s.observeTokens sc r.body
  let all := st.tokens ++ bring
  let s := (s.setScene st.scene (some { sc with encCtx := ctx })).setStream i (some { st with bring := bring })
  if 1048576 < all.length then (.done, s.setReq k (some { r with walked := true, hits := none }))
  else
    let (hits, s) := match r.hits with
      | some h => (h, s)
      | none => s.walkTree sc.model sc.version none 0 (blocksOf all)
    let r := { r with hits := some hits }
    let s := s.setReq k (some r)
    let (nb, c) := s.reuse (0 < x.recurrent) hits
    let point := 64 * nb
    let blocks := all.length / 64
    let rows := hits.flatMap (fun h => ((s.node h).map (·.row)).getD [])
    let cut := if st.position < point ∧ point % x.positions ≠ 0 then s.hitRow hits point x.positions (point / x.positions) else []
    let dropped := cut.filter (fun g => (s.page g).st = .dropped)
    let wait := cut.filter (fun g => (s.page g).st = .dropped ∨ (s.page g).st = .recomputing)
    if wait ≠ [] then
      match s.allocate sc.cls 0 dropped.length (keepPages rows) with
      | (true, s) => (.pages wait (dropped ≠ []), dropped.foldl State.beginRecompute s)
      | (false, s) => (.noRoom, s)
    else
      let (room, s) := if st.position < point then
          s.allocate sc.cls 0 ((if point % x.positions = 0 then 0 else x.pages) + s.tokNeed st (point - st.position)) (keepPages rows)
        else (true, s)
      if !room then (.noRoom, s)
      else
        let from_ := max point st.position
        let s := s.bump .rollout .prefixHitBlocks 0 (from_ / 64 - st.position / 64)
        let s := s.bump .rollout .prefixMissBlocks 0 (blocks - from_ / 64)
        let s := s.setStream i (some { st with base := st.position })
        let s := if st.position < point then s.takeRows sc x i point hits all c else s
        let s := s.setReq k (some { r with walked := true, reused := from_ - st.position, hits := none })
        (.done, s.setStream i ((s.stream i).map (fun t => { t with bring := all.drop from_ })))

/-! ### The outcome of a step -/

/-- The response of an OBSERVE: its position and the positions reused. -/
def State.observeEnd (s : State) (i k : Nat) (st : Status) (wm : Nat) : State :=
  let pos := ((s.stream i).map (·.position)).getD 0
  let reused := ((s.req k).map (·.reused)).getD 0
  s.answer k st 2 wm (leBytes pos 4 ++ leBytes reused 4) []

/-- A FORK that waits on a step that failed completes with E_ABORT (R194). -/
def State.breakForks (s : State) (l : List Nat) : State :=
  (l.takeWhile (fun k => ((s.req k).map (fun r => r.op == 5)).getD false)).foldl (fun (s : State) k => s.refuse k .eAbort) s

/-- What a failed step of a stream wrote beyond the committed positions of its pages is undefined (R157, R195). -/
def State.freeWritten (s : State) (st : Stream) : State :=
  match s.scene st.scene with
  | none => s
  | some sc =>
    let x := s.shape sc.model sc.version
    (st.map.drop (st.position / x.positions)).flatten.foldl (fun (s : State) g => s.freeEntries x (s.page g).loc (s.page g).filled) s

/-- The step of a stream is over without a commit (R195): its request has failed with a status, and a FORK that waits on the step
completes with E_ABORT (R194). -/
def State.stepFails (s : State) (i : Nat) (code : Status) : State :=
  match s.stream i with
  | none => s
  | some st =>
    let s := if st.phase = .running then s.freeWritten st else s
    let s := st.pinned.foldl State.unpin s
    let s := (s.setStream i (some { st with phase := .idle, pinned := [], bring := [], gens := 0, extra := (0, 0) })).endRun i
    match st.work with
    | [] => s
    | k :: rest =>
      match s.req k with
      | none => s
      | some r =>
        let s := s.setReq k (some { r with extra := if st.extra.1 = 0 then r.extra else st.extra,
                                           failed := if r.op = 2 then r.failed else r.failed.orElse (fun _ => some code.code) })
        (if r.op = 2 then s.observeEnd i k code 0 else s).breakForks rest

/-! ### Dispatch (R112, R162 to R165, R297, R298) -/

/-- A stream's step waits. -/
def State.waitPhase (s : State) (i : Nat) (p : Phase) : State :=
  s.setStream i ((s.stream i).map (fun t => { t with phase := p }))

/-- A step waits for units (R285). -/
def State.waitPool (s : State) (i : Nat) : State :=
  match s.stream i with
  | none => s
  | some st =>
    match st.phase with
    | .pool _ => s
    | _ =>
      let s := (s.poolWaits).waitPhase i (.pool s.now)
      match st.work with
      | k :: _ => s.setReq k ((s.req k).map (fun r => { r with poolWait := some s.now }))
      | [] => s

/-- A version's weights are resident, or their staging begins (R298). -/
def State.modelReady (s : State) (m v : Nat) : Bool × State :=
  match s.model m v with
  | none => (false, s)
  | some x =>
    match x.hot with
    | .resident | .pinned => (true, s.setModel m v (some { x with lastUse := s.now }))
    | .cold =>
      if x.waitTick then (true, s)
      else (false, s.setModel m v (some { x with hot := .staging }))
    | .staging => (false, s)

/-- The streams of a dispatch: a root stream alone, or the group a future leads (R200). -/
def State.groupOf (s : State) (i : Nat) (r : Req) : List Nat :=
  if r.op = 2 then [i]
  else r.futures.filter (fun j => ((s.stream j).map (fun t => t.leader == i)).getD false)

/-- Index of a future in its request. -/
def Req.indexOf (r : Req) (j : Nat) : Nat := r.futures.findIdx (· == j)

/-- The pages of several streams, each once. -/
def State.mapsOf (s : State) (l : List Nat) : List Nat :=
  (l.flatMap (fun j => ((s.stream j).map (fun t => t.map.flatten)).getD [])).eraseDups

/-- The step of every stream of a group fails before any write. -/
def State.groupFails (s : State) (gs : List Nat) (code : Status) : State := gs.foldl (fun (s : State) j => s.stepFails j code) s

/-- Gives the streams of a group what their step brings in, and lets them run: one dispatch, which stream i leads. -/
def State.runGroup (s : State) (sc : Scene) (x : Shape) (r : Req) (i n : Nat) (gs : List Nat) : State :=
  let s := s.dispatchRun sc x i gs n
  gs.foldl (fun (s : State) j =>
    match s.stream j with
    | none => s
    | some t =>
      if r.op = 2 then s.runStep sc x j t.bring 0
      else s.runStep sc x j (s.actionTokens sc x r (r.indexOf j) t.steps) x.frame) s

/-- The pages of a dispatch: spilled ones come back, dropped ones are recomputed, then new rows and copies are
allocated (R161 to R164). -/
def State.dispatchPages (s : State) (i : Nat) (sc : Scene) (x : Shape) (r : Req) (gs : List Nat) (n : Nat) : State :=
  let pages := s.mapsOf gs
  let spilled := pages.filter (fun g => (s.page g).st = .spilled)
  let dropped := pages.filter (fun g => (s.page g).st = .dropped)
  let (room, s) := s.allocate sc.cls 0 (spilled.length + dropped.length) (keepPages pages)
  if !room then s.waitPool i
  else
    let s := spilled.foldl State.unspill s
    let s := dropped.foldl State.beginRecompute s
    let wait := pages.filter (fun g => (s.page g).st = .recomputing)
    if wait ≠ [] then s.waitPhase i (.pages wait s.now (dropped ≠ []))
    else
      let need := (gs.map (fun j => match s.stream j with
        | some t => t.newRows x n * x.pages + (s.cowPages t x n).length + s.tokNeed t n
        | none => 0)).sum
      let (room, s) := s.allocate sc.cls 0 (need + x.buffers) (keepPages pages)
      if !room then s.waitPool i else s.runGroup sc x r i n gs

/-- The dispatch of a step of the group stream i leads (R162). -/
def State.dispatchGroup (s : State) (i k : Nat) (r : Req) (sc : Scene) : State :=
  let x := s.shape sc.model sc.version
  let gs := s.groupOf i r
  let bring := match s.stream i with | some t => t.bring.length | none => 0
  let n := if r.op = 2 then bring else r.acts x + x.frame
  let far := gs.any (fun j => 1048576 < ((s.stream j).map (·.position)).getD 0 + n)
  match s.modelReady sc.model sc.version with
  | (false, s) => s.waitPhase i .model
  | (true, s) =>
    if r.op = 2 ∧ n = 0 then s.observeEnd i k .ok 1
    else if !s.variantsOk sc x (n * gs.length) then s.groupFails gs .eShape
    else if far then s.groupFails gs .eLength
    else s.dispatchPages i sc x r gs n

/-- A stream's step may be dispatched: it is in order, not running, and every stream of its group stands at the same
step with none in flight (R194, R200). -/
def State.dispatchable (s : State) (i : Nat) (st : Stream) (r : Req) : Bool :=
  let waits := match st.phase with
    | .running => false
    | .pages l _ _ => l.isEmpty
    | _ => true
  waits && (r.stop s.now allStatus).isNone &&
  (if r.op = 2 then true
   else (r.op == 3 || r.op == 4) && r.started && r.futures.contains i && st.leader == i && decide (st.steps < r.steps) &&
     (s.groupOf i r).all (fun j => match s.stream j with
       | some t => t.steps == st.steps && t.phase != .running
       | none => false))

/-- STEP_DISPATCH (R162): Gulkutik dispatches the next step of the stream in a slot, or takes up one that waited. -/
def State.stepDispatch (s : State) (i : Nat) : State :=
  match s.stream i with
  | none => s
  | some st =>
    match st.work, s.scene st.scene with
    | k :: _, some sc =>
      match s.req k with
      | none => s
      | some r =>
        if !s.dispatchable i st r then s
        else if r.op = 2 ∧ !r.walked then
          match s.walkPrefix i k r st sc with
          | (.done, s) => match s.req k with
            | some r => s.dispatchGroup i k r sc
            | none => s
          | (.noRoom, s) => s.waitPool i
          | (.pages l starter, s) => s.waitPhase i (.pages l s.now starter)
        else s.dispatchGroup i k r sc
    | _, _ => s

/-! ### Commit (R157, R185, R186, R195, R200, R204) -/

/-- The status of a step that hardware ended before its commit. -/
def stepStatus : HwEnd → Option Status
  | .finished => none
  | .stopped => some .eAbort
  | .uncorrected _ => some .eMemUncorr
  | .power => some .ePower
  | .link => some .eLink
  | .gone => some .eGone
  | .answered st => if st = .ok then none else some st

/-- The SR inputs of a stream's step under SR mode 1 (R46, R200): its layout record's seed, the first position the dispatch writes, its
member row and the positions of a member. Under SR mode 0 every rounding is RNE, and none counts. -/
def Layout.srIn (l : Layout) (mode pos : Nat) : List Word :=
  if mode = 0 then [] else [l.seed, BitVec.ofNat 64 pos, BitVec.ofNat 64 l.member, BitVec.ofNat 64 l.nPos]

/-- The keys and values a page holds of position r of it (R157). -/
def State.readKv (s : State) (x : Shape) (loc r : Nat) : List Byte :=
  (x.entryRanges r 1).flatMap (fun p => s.bytes (loc + p.1) p.2)

/-- The keys and values of a stream's committed positions, position by position and page by page. -/
def State.kvBytes (s : State) (x : Shape) (st : Stream) : List Byte :=
  (List.range st.position).flatMap (fun p =>
    (st.map.getD (p / x.positions) []).flatMap (fun g => s.readKv x (s.page g).loc (p % x.positions)))

/-- What fixes the values of a stream's step with a layout record (R200, R214). -/
def State.stepIn (s : State) (sc : Scene) (x : Shape) (st : Stream) (l : Layout) : Config.StepIn :=
  { model := sc.model, weights := s.weightsId sc.model sc.version, sr := l.srIn sc.srMode st.position, kv := s.kvBytes x st,
    state := st.state, pos := st.position, tokens := st.bring }

/-- The keys and values of position j of a step in a page (R157). -/
def State.writeKv (s : State) (cl : Nat) (x : Shape) (inp : Config.StepIn) (j entry loc : Nat) : State :=
  let r := (inp.pos + j) % x.positions
  match x.entryRanges r 1 with
  | [] => s
  | k :: vs =>
    let s := (s.engineWrite cl (loc + k.1) ((List.range k.2).map (Config.modelByte inp j entry 0))).2
    vs.zipIdx.foldl (fun (s : State) (v : (Nat × Nat) × Nat) =>
      (s.engineWrite cl (loc + v.1.1) ((List.range v.1.2).map (fun i => Config.modelByte inp j entry 1 (v.2 * v.1.2 + i)))).2) s

/-- The pages of position j of a step are written, and their filled counts rise (R157, R159). -/
def State.writePos (s : State) (cl : Nat) (x : Shape) (inp : Config.StepIn) (map : List (List Nat)) (j : Nat) : State :=
  let p := inp.pos + j
  (map.getD (p / x.positions) []).zipIdx.foldl (fun (s : State) (y : Nat × Nat) =>
    let s := s.writeKv cl x inp j y.2 (s.page y.1).loc
    let f := p % x.positions + 1
    s.setPage y.1 { s.page y.1 with filled := f, tail := f ≠ x.positions }) s

/-- A checkpoint of a stream's carried state at its position (R185); an anchored one is noted in the stream (R186). A checkpoint taken at
the same position before holds the state as it is now. -/
def State.takeCkpt (s : State) (i : Nat) (anchored : Bool) : State :=
  match s.stream i with
  | none => s
  | some st =>
    match s.scene st.scene with
    | none => s
    | some sc =>
      let x := s.shape sc.model sc.version
      let note (t : Stream) (c : Nat) : Stream := { t with anchored := if anchored then t.anchored ++ [c] else t.anchored }
      match st.ckpts.find? (fun c => ((s.ckpt c).map (fun k => k.pos == st.position)).getD false) with
      | some c =>
        (s.setCkpt c ((s.ckpt c).map (fun k => { k with image := st.state }))).setStream i (some (note st c))
      | none =>
        let (_, s) := s.allocate sc.cls 0 x.ckptUnits []
        let (c, s) := s.pick (s.gulk.ckpts.map (·.1)) (2 ^ 32)
        let s := s.setCkpt (c.getD 0) (some {
          refs := 1, pos := st.position, image := st.state, units := x.ckptUnits, cls := sc.cls, lastUse := s.now })
        s.setStream i (some (note { st with ckpts := st.ckpts ++ [c.getD 0] } (c.getD 0)))

/-- The values of the state images in each layer's a_fmt, rounded by RNE from the FP32 states that a forward run leaves (R186). -/
def imageOf (parts : List (Nat × Nat × Fmt)) (word : Nat → BitVec 32) : List Byte :=
  let sizes := parts.map (fun p => p.1 * p.2.1)
  parts.zipIdx.flatMap (fun ((rows, vals, f), l) =>
    let first := (sizes.take l).sum
    (List.range (rows * vals)).flatMap (fun j => leBytes (f.encode .rne false 0 (f32 (word (first + j)))) (f.width / 8)))

/-- A stream is re-anchored at its position (R186): the model runs forward, its recurrent RSTEPs in FP32 with RNE, from the latest
anchored checkpoint over the tokens since; the states it leaves, rounded, replace the carried state; an anchored checkpoint is taken, and
the position is recorded. No KV page and no output is written. -/
def State.reanchor (s : State) (i : Nat) (sc : Scene) (x : Shape) : State :=
  match s.stream i with
  | none => s
  | some st =>
    let from_ := (st.anchored.getLast?).bind s.ckpt
    let start := (from_.map (·.pos)).getD 0
    let data := s.packageOf sc.model sc.version
    let inp : Config.StepIn :=
      { model := sc.model, weights := s.weightsId sc.model sc.version, sr := [], kv := s.kvBytes x st,
        state := (from_.map (·.image)).getD (List.replicate (imageBytes data) 0), pos := start, tokens := st.tokens.drop start }
    let s := s.setStream i (some { st with
      state := imageOf (imageParts data) (Config.anchorWord inp), anchors := st.anchors ++ [st.position] })
    s.takeCkpt i true

/-- The carried state at the end of a committed step: the checkpoint of R185, and the re-anchor of R186 where the drift summary reaches
the scene's threshold, a NaN too, compared as R130 describes. -/
def State.carried (s : State) (i before : Nat) (sc : Scene) (drift : BitVec 32) : State :=
  match s.stream i with
  | none => s
  | some st =>
    let x := s.shape sc.model sc.version
    if x.recurrent = 0 then s
    else
      let due := sc.interval ≠ 0 ∧ before / sc.interval < st.position / sc.interval
      let s := if due then s.takeCkpt i false else s
      if sc.threshold.toInt ≤ drift.toInt then s.reanchor i sc x else s

/-- The step of a stream commits (R195): its tokens, pages, layout record and value, its carried state, its pins. -/
def State.commitStep (s : State) (i : Nat) (st : Stream) (sc : Scene) (r : Req) : State :=
  let x := s.shape sc.model sc.version
  let n := st.bring.length + st.gens
  let lead := (((s.stream st.leader).map (·.seed)).getD st.seed)
  let given := r.op = 4 ∧ bit1 (BitVec.ofNat 64 (field r.body 6 2)) 3
  let la := ((s.scene st.scene).map (·.intake)).getD 0 + field r.body 20 4 + 16 * (r.indexOf i * r.steps + st.steps)
  let lay : Layout := if given then ⟨s.word la, leNat (s.bytes (la + 8) 2), leNat (s.bytes (la + 10) 2), leNat (s.bytes (la + 12) 4)⟩
    else if r.op = 2 then ⟨st.seed, 1, 0, n⟩ else ⟨lead, st.group, st.member, n⟩
  let inp := s.stepIn sc x st lay
  let toks := st.tokens ++ st.bring ++ (List.range st.gens).map (Config.modelToken inp)
  let s := (List.range n).foldl (fun (s : State) j => s.writePos sc.cls x inp st.map j) s
  let s := st.pinned.foldl State.unpin s
  let pos := st.position + n
  let state := if x.recurrent = 0 then st.state
    else (List.range (imageBytes (s.packageOf sc.model sc.version))).map (Config.stateByte inp)
  let s := s.setStream i (some { st with
    layouts := st.layouts ++ [lay], position := pos, tokens := toks, state := state, phase := .idle, pinned := [], bring := [], gens := 0,
    steps := if r.op = 2 then st.steps else st.steps + 1,
    values := if r.op = 3 then st.values ++ [Config.valueHead inp] else st.values })
  let s := (s.carried i st.position sc (Config.driftWord inp)).endRun i
  if st.position / x.positions < pos / x.positions then s.insertStream i (pos / x.positions * x.positions) else s

/-- A page that a step read held an uncorrectable error (R165). -/
def State.pageBad (s : State) (st : Stream) (badPage : Option Nat) : State :=
  match badPage with
  | some g => if st.pinned.contains g then s.setPage g { s.page g with memCause := true } else s
  | none => s

/-- A step in flight ends (R195): it commits, or it fails and leaves its stream at the last committed position; a page
that held an uncorrectable error is dropped when its pins are released (R165). -/
def State.stepEnds (s : State) (i : Nat) (e : HwEnd) (badPage : Option Nat) : State :=
  match s.stream i with
  | none => s
  | some st =>
    match st.work, s.scene st.scene with
    | k :: _, some sc =>
      match s.req k with
      | none => s
      | some r =>
        if st.phase ≠ .running then s
        else
          let stop := r.stop s.now allStatus
          match stepStatus e with
          | some code =>
            if e = HwEnd.stopped ∧ stop.isNone then s
            else
              let s := if code = Status.eMemUncorr then s.pageBad st badPage else s
              s.stepFails i (if e = HwEnd.stopped then stop.getD .eAbort else code)
          | none =>
            let s := s.commitStep i st sc r
            let s := s.setReq k (some { r with extra := if st.extra.1 = 0 then r.extra else st.extra })
            let s := s.setStream i ((s.stream i).map (fun t => { t with extra := (0, 0) }))
            if r.op = 2 then s.observeEnd i k (stop.getD .ok) 1 else s
    | _, _ => s

/-! ### Recomputation (R164, R165, R207, R208) -/

/-- A stream with the time it has waited on pages added to what its step's record carries: recomputation time where it started one, else
a wait (R208). -/
def Stream.waited (st : Stream) (since now : Word) (starter : Bool) : Stream :=
  { st with extra := (if starter ∨ st.extra.1 = 1 then 1 else 2, st.extra.2 + (now - since).toNat) }

/-- A stream that waits on pages: without one of them, and with its recorded time when none is left. -/
def Stream.gotPage (st : Stream) (g : Nat) (now : Word) : Stream :=
  match st.phase with
  | .pages l since starter =>
    let l' := l.filter (· ≠ g)
    let st' := { st with phase := .pages l' since starter }
    if l = l' then st else if l' = [] then st'.waited since now starter else st'
  | _ => st

/-- A stream whose wait on a page ends with the failure of its recomputation, with its recorded time (R208). -/
def Stream.lostPage (st : Stream) (g : Nat) (now : Word) : Stream :=
  match st.phase with
  | .pages l since starter => if l.contains g then st.waited since now starter else st
  | _ => st

/-- A stream waits on a page. -/
def Stream.waitsFor (st : Stream) (g : Nat) : Bool :=
  match st.phase with
  | .pages l _ _ => l.contains g
  | _ => false

/-- An earlier page of a waiting stream is still to be recomputed, and goes first (R164). -/
def State.earlierFirst (s : State) (g : Nat) : Bool :=
  s.gulk.streams.any (fun x => match x.2 with
    | some st => st.waitsFor g && (match st.phase with
      | .pages l _ _ => l.any (fun h => (s.page h).st == .recomputing && decide ((s.page h).first < (s.page g).first))
      | _ => false)
    | none => false)

/-- Every stream that waits on a page waits on it no more. -/
def State.gotPage (s : State) (g : Nat) : State :=
  { s with gulk := { s.gulk with
    streams := s.gulk.streams.map (fun x => (x.1, x.2.map (fun (t : Stream) => t.gotPage g s.now))) } }

/-- Every stream that waits on a page notes its time: the recomputation has failed. -/
def State.lostPage (s : State) (g : Nat) : State :=
  { s with gulk := { s.gulk with
    streams := s.gulk.streams.map (fun x => (x.1, x.2.map (fun (t : Stream) => t.lostPage g s.now))) } }

/-- The streams that wait on a page. -/
def State.waitersOf (s : State) (g : Nat) : List Nat :=
  (s.gulk.streams.filter (fun x => (x.2.map (fun (t : Stream) => t.waitsFor g)).getD false)).map (·.1)

/-- The class a page recomputation runs in: the highest of the steps that wait on it (R291). -/
def State.recomputeClass (s : State) (g : Nat) : Nat :=
  ((s.waitersOf g).filterMap (fun i => ((s.stream i).bind (fun t => s.scene t.scene)).map (·.cls))).foldl Nat.min 3

/-- A page recomputation ends (R164, R165, R208). -/
def State.recomputeEnds (s : State) (g : Nat) (e : HwEnd) : State :=
  let p := s.page g
  if p.st ≠ .recomputing ∨ s.earlierFirst g then s
  else
    match stepStatus e with
    | none =>
      let s := (s.engineWrite (s.recomputeClass g) p.loc p.memo).2
      let s := s.setPage g { p with st := .resident, memCause := false, memo := [] }
      let s := s.gotPage g
      let s := s.bump .rollout .recomputePages 0 1
      if p.refs = 0 then s.freePage g else s
    | some code =>
      let s := if p.refs = 0 then s.freePage g else s.setPage g { p with st := .dropped, loc := 0 }
      let s := s.lostPage g
      (s.waitersOf g).foldl (fun (s : State) i =>
        match (s.stream i).bind (fun t => t.work.head?) with
        | some k => match s.req k with
          | some r => s.groupFails (s.groupOf i r) code
          | none => s
        | none => s) s

end Sys2Proof.Machine
end

