-- ==== Sys2Proof/Machine/Objects.lean ====
section
/-! DEFINITION. Model versions in the hot set, and host objects (R111, R158, R170, R283, R298 to R302, R316). -/

namespace Sys2Proof.Machine

/-! ### Loading (R111, R158, R170, R298 to R301) -/

/-- The variants of a layer are well formed (R111): loop orders listed, reserved bits clear, max_m strictly rising,
split_k only where the layer's product is an exact pair. -/
def variantsFormed (data : FMap Byte) (layer : Nat) : Bool :=
  let vs := (variants data layer).map BitVec.toNat
  vs.all (fun v => v % 8 ≤ 5 && v / 8 % 8 ≤ 5 && v / 64 % 8 ≤ 5 && v / 2 ^ 9 % 2 ^ 7 = 0 && v / 2 ^ 77 % 2 ^ 19 = 0 &&
    (v / 2 ^ 76 % 2 = 0 || layerNum data layer 0 = 1)) &&
  decide ((vs.map (· / 2 ^ 96)).Pairwise (· < ·))

/-- A package that LOAD_MODEL accepts (R111, R158, R170). -/
def packageOk (data : FMap Byte) : Bool :=
  let x := shapeOf data
  (x.layers == 0 || kvOk x.kvFmt x.dim) && decide (x.gated ≤ 512) && (List.range x.tiled).all (variantsFormed data)

/-- Bays a mask names; 0 names every enabled bay (R298). -/
def State.bayMask (s : State) (m : Nat) : Nat :=
  ((List.range 6).map (fun b => if s.code.bayEnabled b ∧ (m = 0 ∨ m / 2 ^ b % 2 = 1) then 2 ^ b else 0)).sum

/-- Bytes pinned in the Ledge of a core by other versions, `but` those of one model. -/
def State.pinnedOn (s : State) (c : Nat) (but : Option Nat) : Nat :=
  (s.gulk.models.map (fun y => match y.2 with
    | some z => if z.pin ∧ z.hot = .pinned ∧ z.cores / 2 ^ c % 2 = 1 ∧ some (y.1 / 256) ≠ but then s.pinBytes z else 0
    | none => 0)).sum

/-- The Ledge of every core of a version has room for it beside what is pinned there, `but` the versions of one model. -/
def State.pinFits (s : State) (x : ModelV) (but : Option Nat) : Bool :=
  (List.range 36).all (fun c => x.cores / 2 ^ c % 2 = 0 || decide (s.pinBytes x + s.pinnedOn c but ≤ ledgeSize))

/-- Units a version's replicas take. -/
def State.stageUnits (s : State) (x : ModelV) : Nat := (shapeOf (s.pkg x.package)).units * ones x.bays 8

/-- A version becomes live: older live versions of its model retire (R300). -/
def State.goLive (s : State) (m v : Nat) : State :=
  let older := (s.gulk.models.filter (fun y => y.1 / 256 = m ∧ y.1 % 256 ≠ v ∧
    ((y.2.map (fun z => z.live.isSome && !z.retiring)).getD false))).map (·.1)
  let s := s.setModel m v ((s.model m v).map (fun x => { x with live := some s.now }))
  older.foldl (fun (s : State) k =>
    (s.setModel m (k % 256) ((s.model m (k % 256)).map (fun x => { x with retiring := true }))).retireCheck m (k % 256)) s

/-- Staging of a version completes (R298, R300, R301): it is RESIDENT or PINNED, or waits in HBM4 for a tick start; its
LOAD_MODEL is answered with the time at which it is live. -/
def State.staged (s : State) (m v : Nat) : State :=
  match s.model m v with
  | none => s
  | some x =>
    if x.hot ≠ .staging then s
    else
      let pinned := if x.pin ∧ s.pinFits x none then s.pinPlaces x else none
      -- the units are found as if the version held none yet
      let (room, s') := (s.setModel m v none).allocate (s.modelClass m v) 0 (if pinned.isSome then 0 else s.stageUnits x) []
      if !room then s
      else
        let hot := if pinned.isSome then Hot.pinned else .resident
        let (y, s) := s'.takeHomes
          { x with hot := hot, waitTick := x.pin && pinned.isNone, lastUse := s.now, loader := none } pinned
        let s := s.setModel m v (some y)
        match x.loader with
        | none => s
        | some k => (s.goLive m v).answer k .ok 0 0 (leBytes s.now.toNat 8) []

/-- MODEL_STAGED (R298). -/
def State.modelStaged (s : State) (m : BitVec 16) (v : BitVec 8) : State := s.staged m.toNat v.toNat

/-- At a tick start, pinned versions that wait for the Ledge of an older one take it, once that one's last Reflex scene
has closed (R301). -/
def State.pinnedSwitch (s : State) : State :=
  s.gulk.models.foldl (fun (s : State) y =>
    match y.2 with
    | some x =>
      let m := y.1 / 256
      let reflex := s.gulk.scenes.any (fun z => match z.2 with
        | some sc => sc.model == m && sc.version != y.1 % 256 && sc.cls == 0
        | none => false)
      if x.waitTick ∧ x.hot = .resident ∧ !reflex ∧ s.pinFits x (some m) then
        let old := (s.gulk.models.filter (fun z => z.1 / 256 = m ∧ z.1 ≠ y.1 ∧
          ((z.2.map (fun w => w.hot == .pinned)).getD false))).map (·.1)
        let s := old.foldl (fun (s : State) k =>
          s.setModel m (k % 256) ((s.model m (k % 256)).map ModelV.cooled)) s
        match s.pinPlaces x with
        | some l =>
          let (z, s) := s.takeHomes { x with hot := .pinned, waitTick := false } (some l)
          s.setModel m (y.1 % 256) (some z)
        | none => s
      else s
    | none => s) s

/-- A LOAD_MODEL stops: what was staged is discarded. -/
def State.loadStops (s : State) (k : Nat) (r : Req) (st : Status) : State :=
  let m := field r.body 4 2
  let v := field r.body 6 1
  let s := if ((s.model m v).map (fun x => x.loader == some k)).getD false then s.setModel m v none else s
  s.refuse k st

/-- LOAD_MODEL begins: the version stages from Cliff (R298). -/
def State.loadBegins (s : State) (k : Nat) (r : Req) : State :=
  let b := r.body
  let m := field b 4 2
  let v := field b 6 1
  let x : ModelV := { package := field b 0 4, pin := field b 7 1 % 2 = 1, bays := s.bayMask (field b 8 1),
                      cores := field b 16 8, lastUse := s.now, loader := some k, hot := .staging }
  let (room, s) := s.allocate 3 0 (s.stageUnits x) []
  let s := s.setModel m v (some x)
  if room then s
  else s.poolWaits.setReq k (some { r with poolWait := some s.now })

/-- The latest live version of a model at an acceptance (R300, R302). -/
def State.latestLive (s : State) (m : Nat) : Option Nat :=
  let l := s.gulk.models.filterMap (fun y => match y.2 with
    | some x => if y.1 / 256 = m then (match x.live with
        | some t => if t.toNat < s.now.toNat then some (t.toNat, y.1 % 256) else none
        | none => none) else none
    | none => none)
  (l.foldl (fun (b : Option (Nat × Nat)) x => match b with
    | some y => if y.1 ≤ x.1 then some x else b
    | none => some x) none).map (·.2)

/-- UNLOAD_MODEL: the version's nodes are evicted and its weights released (R206, R299). -/
def State.unload (s : State) (m v : Nat) : State := (s.evictVersion m v s.nodeCount).setModel m v none

/-! ### Host objects (R280, R282, R283, R316) -/

/-- The tiers of a placement, in order. -/
def placement (p : Nat) : List Nat := [p % 4, p / 4 % 4, p / 16 % 4].take (p / 64 + 1)

/-- Creates a host object in the first tier of its list, once its units are there. -/
def State.objCreate (s : State) (k : Nat) (r : Req) : Bool × State :=
  let units := field r.body 4 4
  let cls := field r.body 8 1
  let tiers := placement (field r.body 9 1)
  let t := tiers.headD 2
  let (room, s) := s.allocate cls t (ceilDiv units 16) []
  let d := s.decWithRoom (ceilDiv units 16)
  if !room ∨ (t = 1 ∧ d.isNone ∧ units ≠ 0) then (false, s)
  else
    let s := s.setCliffObj (field r.body 0 4) (some {
      units := units, cls := cls, tiers := tiers, tier := t, lastUse := s.now, home := if t = 1 then d.getD 0 else 0 })
    (true, s.answer k .ok 0 0 [] [])

/-- Creates a host object, or lets the request wait for units (R285). -/
def State.objBegin (s : State) (k : Nat) (r : Req) : State :=
  match s.objCreate k r with
  | (true, s) => s
  | (false, s) => s.poolWaits.setReq k (some { r with poolWait := some s.now })

/-- A creation that waits is tried again. -/
def State.objRetry (s : State) (k : Nat) (r : Req) : Option State :=
  if r.poolWait.isNone then none
  else match s.objCreate k r with
    | (true, s) => some s
    | (false, _) => none

/-- Writes host data into an object (R276, R316): every unit that came in. -/
def State.objStore (s : State) (obj first : Nat) (data : List Byte) : State :=
  match FMap.get none s.cliff.objs obj with
  | none => s
  | some o =>
    let s := s.setCliffObj obj (some { o.store (first * unitBytes) data with lastUse := s.now })
    if o.tier = 2 then s.programmed data.length else s

/-- OBJ_WRITE begins: Estuary reads the host's buffer by RDMA READ (R316). -/
def State.objWriteBegins (s : State) (k : Nat) (r : Req) : State :=
  let d := descAt r.body 16
  let n := field r.body 8 4 * unitBytes
  if n = 0 then s.answer k .ok 3 0 [] [] else s.send r.qp (some k) (.read d.addr d.rkey n)

/-- OBJ_READ: the units go to the host's buffer by RDMA WRITE (R316). -/
def State.objRead (s : State) (k : Nat) (r : Req) : State :=
  let d := descAt r.body 16
  let n := field r.body 8 4
  match s.cliffObj (field r.body 0 4) with
  | none => s.refuse k .eGone
  | some o =>
    let s := s.setCliffObj (field r.body 0 4) (some { o with lastUse := s.now })
    s.answer k .ok 3 n [] (if n = 0 then [] else [(d.addr, d.rkey, o.bytes (field r.body 4 4 * unitBytes) (n * unitBytes))])

/-- RDMA_READ_RESPONSE (R316): host data for an OBJ_WRITE arrives in order; with the last of it the object is written. -/
def State.readResponse (s : State) (k : Nat) (data : List Byte) : State :=
  match s.req k with
  | none => s
  | some r =>
    if r.op ≠ 0x21 then s
    else
      let n := field r.body 8 4 * unitBytes
      let got := (r.data ++ data).take n
      if got.length < n then s.setReq k (some { r with data := got })
      else
        let s := match s.qp r.qp with
          | some q => s.setQp r.qp (some { q with unacked := q.unacked.filter (fun x => match x.what with
              | .read _ _ _ => x.req != some k
              | _ => true) })
          | none => s
        match s.cliffObj (field r.body 0 4) with
        | none => s.refuse k .eGone
        | some o =>
          if o.tier = 2 ∧ s.cliffReadOnly then s.refuse k .eState
          else (s.objStore (field r.body 0 4) (field r.body 4 4) got).answer k .ok 3 (field r.body 8 4) [] []

end Sys2Proof.Machine
end

