-- ==== Sys2Proof/Machine/Cxl.lean ====
section
/-! DEFINITION. CXL far memory: decoders, hot-add, managed remove with its migration, and the loss of a link (R268 to
R274, R286, R287). -/

namespace Sys2Proof.Machine

/-- Sets the state of a decoder (R270). -/
def State.setDec (s : State) (p : Fin 2) (n st : Nat) : State := s.setFld (.cxl p) .cxlDec n 45 43 st

/-- Decoder fields a message or a register gives (R286). -/
structure DecFields where
  base : Nat
  size : Nat
  dpa : Nat
  deriving DecidableEq, Repr

/-- The fields in a decoder's register. -/
def State.decFields (s : State) (p : Fin 2) (n : Nat) : DecFields :=
  ⟨s.fld (.cxl p) .cxlDec n 13 0, s.fld (.cxl p) .cxlDec n 28 14, s.fld (.cxl p) .cxlDec n 42 29⟩

/-- The windows of a decoder's fields lie within the port and meet no other decoder that is not OFF (R269). -/
def State.windowOk (s : State) (p : Fin 2) (n : Nat) (f : DecFields) : Bool :=
  f.size != 0 && decide (f.base + f.size ≤ 16384) &&
  (List.range 8).all (fun j => j == n || s.decState p j == 0 ||
    (let g := s.decFields p j; decide (f.base + f.size ≤ g.base) || decide (g.base + g.size ≤ f.base)))

/-- The link state of a port in CXL_STAT (R286). -/
def State.setCxlLink (s : State) (p : Fin 2) (up : Bool) (width : Nat) (rate64 : Bool) : State :=
  s.wr (.cxl p) .cxlStat 0 (BitVec.ofNat 64 (if up then 1 + 2 * width + (if rate64 then 64 else 0) else 0))

/-- A hot-add (R271): OK, or the status of the step that failed, which returns the decoder to OFF. The link trains at ×8 or ×16
(R268); one that is up already stays as it is. The check writes and reads back the first and the last 4 KiB of the range. -/
def State.hotAdd (s : State) (p : Fin 2) (n : Nat) (f : DecFields) (t : CxlTrain) : Status × State :=
  if s.decState p n ≠ 0 then (.eState, s)
  else if !s.windowOk p n f then (.eAddr, s)
  else if s.sys.deadPorts.contains (16 + p.val) then (.eLink, s)
  else if !bit1 (s.rd (.cxl p) .cxlStat 0) 0 ∧ (!t.link ∨ (t.width ≠ 8 ∧ t.width ≠ 16)) then (.eLink, s)
  else
    let s := if bit1 (s.rd (.cxl p) .cxlStat 0) 0 then s else s.setCxlLink p true t.width.toNat t.rate64
    if t.capacity.toNat < f.dpa + f.size then (.eAddr, s)
    else
      let s := s.setFld (.cxl p) .cxlDec n 42 0 (f.base + f.size * 2 ^ 14 + f.dpa * 2 ^ 29)
      if !t.check then (.eLink, s)
      else
        let s := s.setDec p n 2
        let a := (s.decWindow p n).1
        let s := (s.storeFree a 4096).storeFree (a + (s.decWindow p n).2 - 4096) 4096
        (.ok, s.event (.cxl p) 0)

/-- A page in a window that drains goes to another window, or to HBM4, or is dropped (R272, R283). -/
def State.migratePage (s : State) (g : Nat) : State :=
  let p := s.page g
  match s.decWithRoom 1 with
  | some d =>
    match s.cxlUnit d with
    | (some a, s) => (s.moveUnit p.loc a).setPage g { p with loc := a }
    | (none, s) => if p.tail then s else s.dropPage g false
  | none =>
    match s.allocate p.cls 0 1 (keepPages [g]) with
    | (true, s) => s.unspill g
    | (false, s) => if p.tail then s else s.dropPage g false

/-- A host object in a window that drains goes to another window, or to another tier of its list (R272). -/
def State.migrateObj (s : State) (i : Nat) (o : CliffObj) : State :=
  let n := ceilDiv o.units 16
  match s.decWithRoom n with
  | some d => s.setCliffObj i (some { o with home := d })
  | none =>
    match o.tiers.find? (fun t => t ≠ 1 ∧ (s.allocate o.cls t n []).1) with
    | some t => (s.allocate o.cls t n []).2.setCliffObj i (some { o with tier := t, home := 0 })
    | none => s

/-- Pages SPILLED to a decoder's window. -/
def State.pagesOn (s : State) (d : Nat) : List Nat :=
  (s.gulk.pages.filter (fun x => x.2.st = .spilled ∧ s.decOf x.2.loc = some d)).map (·.1)

/-- Host objects on a decoder. -/
def State.objsOn (s : State) (d : Nat) : List (Nat × CliffObj) :=
  s.cliff.objs.filterMap (fun x => x.2.bind (fun o => if o.tier = 1 ∧ o.home = d then some (x.1, o) else none))

/-- A decoder drains: what can be migrated is, and once the range is empty it is fenced and turned off (R272). -/
def State.drainDecoder (s : State) (d : Nat) : State :=
  let p : Fin 2 := if d < 8 then 0 else 1
  let n := d % 8
  if s.decState p n ≠ 3 then s
  else
    let s := ((s.pagesOn d).filter (fun g => (s.page g).pins = 0)).foldl State.migratePage s
    let s := (s.objsOn d).foldl (fun (s : State) x => s.migrateObj x.1 x.2) s
    if s.pagesOn d ≠ [] ∨ s.objsOn d ≠ [] then s
    else
      let (a, len) := s.decWindow p n
      let s := (s.harbour.filter (fun l => a / 128 ≤ l && l < (a + len) / 128)).foldl State.lineOut s
      let s := (s.setDec p n 0).wr (.cxl p) .cxlRemoveTime 0 s.now
      let s := if (List.range 8).any (fun j => s.decState p j == 2 || s.decState p j == 3) then s
        else s.setCxlLink p false 0 false
      (s.corrected (.cxl p) .eGone a).event (.cxl p) 1

/-- Every decoder that drains goes on. -/
def State.drainDecoders (s : State) : State := (List.range 16).foldl State.drainDecoder s

/-- A managed remove begins (R272). -/
def State.hotRemove (s : State) (p : Fin 2) (n : Nat) : Status × State :=
  if s.decState p n ≠ 2 then (.eState, s) else (.ok, (s.setDec p n 3).drainDecoder (8 * p.val + n))

/-- The link of a port goes down without a managed removal (R273). -/
def State.cxlLost (s : State) (p : Fin 2) : State :=
  if !bit1 (s.rd (.cxl p) .cxlStat 0) 0 then s
  else
    let ds := (List.range 8).filter (fun n => s.decState p n = 2 ∨ s.decState p n = 3)
    let s := ds.foldl (fun (s : State) n =>
      let d := 8 * p.val + n
      let objs := s.objsOn d
      let s := (s.pagesOn d).foldl (fun (s : State) g => s.dropPage g true) s
      let s := objs.foldl (fun (s : State) x => s.setCliffObj x.1 none) s
      s.setDec p n 4) s
    let s := s.setFld (.cxl p) .cxlStat 0 0 0 0
    (s.contained (.cxl p) .eLink none).event (.cxl p) 2

/-- The decoder a CXL_OP names. -/
def cxlPortOf (b : List Byte) : Fin 2 := Fin.ofNat 2 (field b 0 1)

/-- A CXL_OP remove that waited is answered once its decoder is off, or fenced by the loss of its link (R272 to R274). -/
def State.cxlAnswer (s : State) (k : Nat) (r : Req) : Option State :=
  match s.decState (cxlPortOf r.body) (field r.body 2 1 % 8) with
  | 0 => some (s.answer k .ok 0 0 [] [])
  | 4 => some (s.refuse k .eLink)
  | _ => none

end Sys2Proof.Machine
end

