-- ==== Sys2Proof/Machine/Plan.lean ====
section
/-! DEFINITION. The planner, rollouts, and the order in which Gulkutik applies requests (R194, R209 to R214, R317,
R318). -/

namespace Sys2Proof.Machine

/-! ### Drawing, scoring and refitting (R209, R210) -/

/-- ⌊x · 2^24⌋; of a NaN or an infinity nothing is stated. -/
def floor24 (ix : Nat) : FVal → Int
  | .fin neg m e =>
    let p := m * 2 ^ (e + 24).toNat
    let q := 2 ^ (-(e + 24)).toNat
    if neg then -((ceilDiv p q : Nat) : Int) else ((p / q : Nat) : Int)
  | _ => ((Config.freeWord ix).toNat : Int)

/-- The smallest code whose cumulative count exceeds u (R210). -/
def firstCode (u : Int) : Int → Nat → List Int → Option Nat
  | _, _, [] => none
  | acc, j, p :: r => if u < acc + p then some j else firstCode u (acc + p) (j + 1) r

/-- The highest code with a positive probability (R210). -/
def lastPositive (ps : List FVal) : Option Nat :=
  (ps.zipIdx.filter (fun x => FVal.zero.lt x.1)).getLast?.map (·.2)

/-- The code drawn for a random value from a distribution (R210). Where no probability is positive nothing is stated. -/
def drawCode (ix : Nat) (u : Nat) (ps : List FVal) : Nat :=
  match firstCode u 0 0 (ps.map (floor24 ix)) with
  | some j => j
  | none => (lastPositive ps).getD ((Config.freeWord ix).toNat % max 1 ps.length)

/-- The random value u(i, o, t, s) of a PLAN (R210); steps count from 1 as in R209, futures and slots from 0
(notes/assumptions/77.md). -/
def planU (seed : Word) (k i o t sl : Nat) : Nat :=
  (srMix (srMix (seed ^^^ BitVec.ofNat 64 k) ^^^
    BitVec.ofNat 64 (i * 2 ^ 48 ||| o * 2 ^ 28 ||| t * 2 ^ 8 ||| sl))).toNat / 2 ^ 40

/-- A PLAN's parameters (R209, R316). -/
structure PlanP where
  n : Nat
  h : Nat
  iters : Nat
  a : Nat
  b : Nat
  keep : Bool
  e : Nat
  v : Nat
  key : Nat
  alpha : BitVec 32
  gamma : BitVec 32
  dist : Nat
  desc : Desc
  deriving DecidableEq, Repr

/-- The parameters a body gives. -/
def PlanP.of (x : List Byte) : PlanP :=
  { n := field x 0 2, h := field x 2 2, iters := field x 4 1, a := field x 5 1, b := field x 6 1,
    keep := field x 7 1 % 2 = 1, e := field x 8 2, v := field x 10 2, key := field x 12 4,
    alpha := BitVec.ofNat 32 (field x 16 4), gamma := BitVec.ofNat 32 (field x 20 4), dist := field x 24 4,
    desc := descAt x 32 }

/-- Bytes of a plan record (R317). -/
def PlanP.recBytes (p : PlanP) : Nat := ceilDiv (16 + 4 * p.h * p.a) 16 * 16

/-- The codes of one iteration, by future, step and slot (R209, R210). -/
def PlanP.draws (p : PlanP) (ix : Nat) (seed : Word) (i : Nat) (dist : List (BitVec 32)) : List Nat :=
  (List.range p.n).flatMap (fun o => (List.range p.h).flatMap (fun t => (List.range p.a).map (fun sl =>
    drawCode ix (planU seed p.key i o (t + 1) sl) (((dist.drop ((t * p.a + sl) * p.v)).take p.v).map f32))))

/-- The score of a future from its value-head outputs (R209). -/
def planScore (gamma : FVal) : FVal → FVal → List (BitVec 32) → FVal
  | _, acc, [] => acc
  | g, acc, v :: r => planScore gamma (g.mul gamma).rne (acc.add (g.mul (f32 v)).rne).rne r

/-- One future ranks before another: higher score, NaN last, ties to the lower ordinal (R209). -/
def rankBefore (a b : FVal × Nat) : Bool :=
  if a.1.isNan then b.1.isNan && decide (a.2 < b.2)
  else b.1.isNan || b.1.lt a.1 || (!a.1.lt b.1 && decide (a.2 < b.2))

/-- Puts a future into a ranking. -/
def rankInsert (x : FVal × Nat) : List (FVal × Nat) → List (FVal × Nat)
  | [] => [x]
  | y :: r => if rankBefore x y then x :: y :: r else y :: rankInsert x r

/-- The futures in rank order (R209). -/
def ranking (scores : List FVal) : List (FVal × Nat) := scores.zipIdx.foldr rankInsert []

/-- The refitted distribution (R209). `elite` are the ordinals of the first E futures. -/
def PlanP.refit (p : PlanP) (codes : List Nat) (elite : List Nat) (dist : List (BitVec 32)) : List (BitVec 32) :=
  let alpha := f32 p.alpha
  let beta := ((f32 0x3F800000).sub alpha).rne
  dist.zipIdx.map (fun (d, i) =>
    let ts := i / p.v
    let c := i % p.v
    let cnt := (elite.filter (fun o => codes.getD (o * (p.h * p.a) + ts) p.v = c)).length
    rne32 ((alpha.mul (divRne (FVal.ofInt cnt) p.e)).rne.add (beta.mul (f32 d)).rne))

/-! ### Futures -/

/-- A request's futures leave the streams it holds: those kept become streams of their own, the others close. -/
def State.endFutures (s : State) (k : Nat) (l keep : List Nat) : State :=
  l.foldl (fun (s : State) i =>
    let s := s.setStream i ((s.stream i).map (fun t => { t with work := t.work.filter (· ≠ k), phase := .idle }))
    if keep.contains i then s else s.closeStream i none) s

/-- No future of a request has a step in flight. -/
def State.quiet (s : State) (r : Req) : Bool :=
  r.futures.all (fun i => ((s.stream i).map (fun t => t.phase != .running)).getD true)

/-- Every future of a request has done its steps. -/
def State.allDone (s : State) (r : Req) : Bool :=
  r.futures.all (fun i => ((s.stream i).map (fun t => decide (r.steps ≤ t.steps) && t.phase == .idle)).getD true)

/-- Forks the futures of a request and forms their groups (R197, R200, R209, R213). -/
def State.startFutures (s : State) (k src n : Nat) (key : Option Nat) (first limit : Nat) : Bool × State :=
  match s.fork src n key first with
  | (none, s) => (false, s)
  | (some l, s) =>
    let s := s.setGroups k l (s.code.groups n limit)
    (true, s.setReq k ((s.req k).map (fun r => { r with started := true, futures := l })))

/-! ### PLAN (R209 to R212, R317) -/

/-- The record of a plan (R317). -/
def PlanP.record (p : PlanP) (x : PlanRec) (handle : Nat) : List Byte :=
  let bs := leBytes x.score.toNat 4 ++ leBytes x.iter 1 ++ [0] ++ leBytes x.ordinal 2 ++ leBytes handle 4 ++ leBytes 0 4 ++
    x.tokens.flatMap (fun t => leBytes t.toNat 4)
  bs ++ List.replicate (p.recBytes - bs.length) 0

/-- A PLAN ends (R209, R212): its plans are those of the last completed iteration. -/
def State.planEnds (s : State) (k : Nat) (r : Req) (st : Status) : State :=
  let p := PlanP.of r.body
  let plans := r.plans.take p.b
  let kept := if st = .ok ∧ p.keep then plans.map (·.handle) else []
  let handles := plans.map (fun x => if kept.contains x.handle then
    streamHandle x.handle (((s.stream x.handle).map (·.gen)).getD 0) else 0xFFFFFFFF)
  let s := s.endFutures k r.futures kept
  let bytes := (plans.zip handles).flatMap (fun x => p.record x.1 x.2)
  s.answer k st 5 r.iter (leBytes plans.length 4 ++ leBytes bytes.length 4)
    (if bytes.isEmpty then [] else [(p.desc.addr, p.desc.rkey, bytes)])

/-- Iteration i of a PLAN begins: the futures fork and their actions are drawn (R209, R210). -/
def State.planIteration (s : State) (k root : Nat) (r : Req) : State :=
  let p := PlanP.of r.body
  let s := { s with freeIx := s.freeIx + 1 }
  let seed := ((s.stream root).map (·.seed)).getD 0
  let r := { r with codes := p.draws (s.freeIx - 1) seed r.iter r.dist }
  match s.startFutures k root p.n (some ((p.key * 16 + r.iter) % 2 ^ 32)) 0 0 with
  | (true, s) => s.setReq k ((s.req k).map (fun x => { x with codes := r.codes }))
  | (false, s) => s.planEnds k { r with futures := [] } .eState

/-- A PLAN begins on the root stream as it stands (R209). -/
def State.planStart (s : State) (k root : Nat) (r : Req) (sc : Scene) : State :=
  let p := PlanP.of r.body
  let n := p.h * p.a * p.v
  let dist := if p.dist = 0xFFFFFFFF then
      List.replicate n (rne32 (divRne (f32 0x3F800000) p.v))
    else s.words32 (sc.intake + p.dist) n
  let r := { r with dist := dist }
  (s.setReq k (some r)).planIteration k root r

/-- An iteration of a PLAN is complete: scores, ranking, refit, and the next iteration or the end (R209). -/
def State.planStep (s : State) (k root : Nat) (r : Req) (m v : Nat) : State :=
  let p := PlanP.of r.body
  let one := f32 0x3F800000
  let scores := r.futures.map (fun i => planScore (f32 p.gamma) one FVal.zero (((s.stream i).map (·.values)).getD []))
  let rank := ranking scores
  let plans := rank.map (fun (x : FVal × Nat) =>
    ({ score := rne32 x.1, iter := r.iter, ordinal := x.2, handle := r.futures.getD x.2 0,
       tokens := ((r.codes.drop (x.2 * (p.h * p.a))).take (p.h * p.a)).map (Config.actionToken m v) } : PlanRec))
  let dist := p.refit r.codes ((rank.take p.e).map (·.2)) r.dist
  let r := { r with plans := plans, dist := dist, iter := r.iter + 1 }
  let s := s.setReq k (some r)
  if r.iter < p.iters ∧ (r.stop s.now allStatus).isNone then
    let s := s.endFutures k r.futures []
    let r := { r with futures := [] }
    (s.setReq k (some r)).planIteration k root r
  else s.planEnds k r ((r.stop s.now allStatus).getD .ok)

/-! ### ROLLOUT (R213, R214, R318) -/

/-- A ROLLOUT's parameters (R316). -/
structure RollP where
  n : Nat
  steps : Nat
  limit : Nat
  keep : Bool
  frames : Bool
  key : Option Nat
  first : Nat
  fmt : Nat
  desc : Desc
  deriving DecidableEq, Repr

/-- The parameters a body gives. -/
def RollP.of (b : List Byte) : RollP :=
  let f := BitVec.ofNat 64 (field b 6 2)
  { n := field b 0 2, steps := field b 2 2, limit := field b 4 2, keep := bit1 f 0, frames := bit1 f 1,
    key := if bit1 f 2 then some (field b 8 4) else none, first := field b 12 2, fmt := field b 14 1,
    desc := descAt b 24 }

/-- Rounds a size up to 64 bytes. -/
def pad64 (n : Nat) : Nat := ceilDiv n 64 * 64

/-- Where the parts of a ROLLOUT's result lie (R318): counts, handles, tokens, layout records, frames, and the end. -/
def RollP.parts (p : RollP) (x : Shape) (srMode : Nat) : List Nat :=
  let handles := pad64 (2 * p.n)
  let toks := handles + (if p.keep then pad64 (4 * p.n) else 0)
  let lays := toks + pad64 (4 * (p.n * p.steps * x.frame))
  let frames := lays + (if srMode = 1 then pad64 (16 * (p.n * p.steps)) else 0)
  [0, handles, toks, lays, frames, frames + (if p.frames then pad64 (p.n * p.steps * x.frameBytes p.fmt) else 0)]

/-- The 16 bytes of a layout record. -/
def Layout.bytes (l : Layout) : List Byte := leBytes l.seed.toNat 8 ++ leBytes l.size 2 ++ leBytes l.member 2 ++ leBytes l.nPos 4

/-- The generated tokens of the committed steps of a future: the last tokens of each step. -/
def Stream.generated (t : Stream) (acts frame : Nat) : List (BitVec 32) :=
  (List.range t.steps).flatMap (fun j => ((t.tokens.drop (t.base + j * (acts + frame) + acts)).take frame))

/-- The frames of a future's committed steps, decoded in their order, and the context of its decoding after them (R223, R318). -/
def State.decodeFrames (s : State) (sc : Scene) (x : Shape) (fmt : Nat) (t : Stream) : List Byte × FsCtx :=
  (List.range t.steps).foldl (fun (p : List Byte × FsCtx) j =>
    let toks := t.tokens.take (t.base + (j + 1) * (x.acts + x.frame))
    (p.1 ++ (List.range (x.frameBytes fmt)).map
        (Config.frameByte sc.model (s.weightsId sc.model sc.version) fmt p.2.rings p.2.seen toks),
     s.nextCtx sc 1 p.2 (toks.flatMap (fun w => leBytes w.toNat 4)))) (([] : List Byte), t.decCtx.getD {})

/-- A future whose frames are decoded has a decoding context from then on (R223). -/
def State.decoded (s : State) (sc : Scene) (x : Shape) (fmt : Nat) (l : List Nat) : State :=
  l.foldl (fun (s : State) i => match s.stream i with
    | some t => s.setStream i (some { t with decCtx := some (s.decodeFrames sc x fmt t).2 })
    | none => s) s

/-- The result parts of one future, with nothing beyond its committed steps (R213, R318). -/
def State.rollWrites (s : State) (r : Req) (p : RollP) (sc : Scene) (x : Shape) (o i : Nat) : List (Nat × Nat × List Byte) :=
  match s.stream i with
  | none => []
  | some t =>
    let parts := p.parts x sc.srMode
    let at_ (part off : Nat) := p.desc.addr + parts.getD part 0 + off
    let toks := (t.generated x.acts x.frame).flatMap (fun w => leBytes w.toNat 4)
    let lays := (t.layouts.drop (t.layouts.length - t.steps)).flatMap Layout.bytes
    let fb := x.frameBytes p.fmt
    let frames := (s.decodeFrames sc x p.fmt t).1
    [(at_ 2 (4 * (o * r.steps * x.frame)), p.desc.rkey, toks)] ++
    (if sc.srMode = 1 then [(at_ 3 (16 * (o * r.steps)), p.desc.rkey, lays)] else []) ++
    (if p.frames then [(at_ 4 (o * r.steps * fb), p.desc.rkey, frames)] else [])

/-- A ROLLOUT ends (R213): counts, handles, and what its committed steps gave. -/
def State.rollEnds (s : State) (k : Nat) (r : Req) (st : Status) : State :=
  let p := RollP.of r.body
  match s.scene (r.scene % 64) with
  | none => s.answer k st 2 0 (List.replicate 8 0) []
  | some sc =>
    let x := s.shape sc.model sc.version
    let counts := r.futures.map (fun i => ((s.stream i).map (·.steps)).getD 0)
    let wm := counts.foldl min (r.steps)
    let handles := r.futures.map (fun i => streamHandle i (((s.stream i).map (·.gen)).getD 0))
    let pad (l : List Byte) : List Byte := l ++ List.replicate (pad64 l.length - l.length) 0
    let writes := [(p.desc.addr, p.desc.rkey, pad (counts.flatMap (fun c => leBytes c 2)))] ++
      (if p.keep then [(p.desc.addr + pad64 (2 * p.n), p.desc.rkey, pad (handles.flatMap (fun h => leBytes h 4)))] else []) ++
      r.futures.zipIdx.flatMap (fun (y : Nat × Nat) => s.rollWrites r p sc x y.2 y.1)
    let writes := writes.filter (fun w => !w.2.2.isEmpty)
    let s := if p.frames then s.decoded sc x p.fmt r.futures else s
    let s := s.endFutures k r.futures (if p.keep then r.futures else [])
    s.answer k st 2 wm (leBytes r.futures.length 4 ++ leBytes ((writes.map (fun w => w.2.2.length)).sum) 4) writes

/-- A ROLLOUT begins: its futures fork, and it holds the source no longer (R194, R213). -/
def State.rollStart (s : State) (k src : Nat) (r : Req) : State :=
  let p := RollP.of r.body
  match s.startFutures k src p.n p.key p.first p.limit with
  | (true, s) => s.setStream src ((s.stream src).map (fun t => { t with work := t.work.filter (· ≠ k) }))
  | (false, s) => s.refuse k .eState

/-! ### FORK and CLOSE (R194, R197) -/

/-- A FORK is applied (R197). -/
def State.forkNow (s : State) (k src : Nat) (r : Req) : State :=
  let n := field r.body 0 2
  let d := descAt r.body 8
  match s.fork src n (if field r.body 2 2 % 2 = 1 then some (field r.body 4 4) else none) 0 with
  | (none, s) => s.refuse k .eState
  | (some l, s) =>
    let hs := l.flatMap (fun i => leBytes (streamHandle i (((s.stream i).map (·.gen)).getD 0)) 4)
    s.answer k .ok 0 0 (leBytes l.length 4 ++ leBytes 0 4) (if hs.isEmpty then [] else [(d.addr, d.rkey, hs)])

/-- A CLOSE of a stream is applied (R194). -/
def State.closeNow (s : State) (k i : Nat) : State := (s.closeStream i (some k)).answer k .ok 0 0 [] []

end Sys2Proof.Machine
end

