-- ==== Sys2Proof/Machine/Serve.lean ====
section
/-! DEFINITION. The order in which Gulkutik applies the requests it has accepted (R194, R309, R321), and the rows by
which steps and recomputations go on. -/

namespace Sys2Proof.Machine

/-! ### The order of application (R194, R309, R321) -/

/-- Streams of a scene that a CLOSE of it can close at once: no step is in flight and no earlier request is queued on them or works with
them (R194). -/
def State.closable (s : State) (si : Nat) : List Nat :=
  (s.gulk.streams.filter (fun x => match x.2 with
    | some t => t.scene == si && t.phase == .idle && t.work.isEmpty &&
        s.gulk.reqs.all (fun y => match y.2 with
          | some r => !(r.started && r.futures.contains x.1)
          | none => true)
    | none => false)).map (·.1)

/-- A CLOSE of a scene goes on: streams that are OPEN close at once, those that drain when their steps are over, and then the scene's
slot is freed (R194). -/
def State.sceneCloses (s : State) (k si : Nat) (r : Req) : Option State :=
  let earlier := s.gulk.reqs.any (fun x => x.1 < k && (match x.2 with
    | some y => y.scene == r.scene && (2 ≤ y.op && y.op ≤ 6)
    | none => false))
  let busy := s.gulk.streams.any (fun x => (x.2.map (fun t => t.scene == si && t.phase != .idle)).getD false)
  let root := (s.scene si).map (·.root)
  let now := (s.closable si).filter (fun i => !(earlier && root == some i))
  if !earlier ∧ !busy then some ((s.closeScene si).answer k .ok 0 0 [] [])
  else if now = [] then none
  else some (now.foldl (fun (s : State) i => s.closeStream i none) s)

/-- What Gulkutik can do now for a request without a step: start it, go on with it, or end it. -/
def State.serveReq (s : State) (k : Nat) (r : Req) : Option State :=
  let stop := r.stop s.now allStatus
  let front (i : Nat) : Bool := ((s.stream i).map (fun t => t.work.head? == some k)).getD false
  let idle (i : Nat) : Bool := ((s.stream i).map (fun t => t.phase == .idle)).getD false
  let still (i : Nat) : Bool := ((s.stream i).map (fun t => t.phase != .running)).getD false
  let i := r.stream % 16384
  match r.op with
  | 2 =>
    match stop with
    | some st =>
      if front i ∧ still i then
        some ((s.waitPhase i .idle).observeEnd i k st 0)
      else if front i then none else some (s.observeEnd i k st 0)
    | none => none
  | 3 =>
    match s.sceneOf r.scene with
    | none => none
    | some (_, sc) =>
      if !r.started then
        match stop with
        | some st => some (s.planEnds k r st)
        | none => if front sc.root ∧ idle sc.root then some (s.planStart k sc.root r sc) else none
      else if s.allDone r then some (s.planStep k sc.root r sc.model sc.version)
      else if stop.isSome ∧ s.quiet r then some (s.planEnds k r (stop.getD .ok))
      else none
  | 4 =>
    if !r.started then
      match stop with
      | some st => some (s.refuse k st)
      | none => if front i ∧ idle i then some (s.rollStart k i r) else none
    else if s.allDone r ∨ (stop.isSome ∧ s.quiet r) then some (s.rollEnds k r (stop.getD .ok))
    else none
  | 5 =>
    match stop with
    | some st => some (s.refuse k st)
    | none => if front i ∧ idle i then some (s.forkNow k i r) else none
  | 6 =>
    if field r.body 0 1 = 1 then s.sceneCloses k (r.scene % 64) r
    else if front i ∧ idle i then some (s.closeNow k i)
    else none
  | 0x10 => if stop.isSome then some (s.loadStops k r (stop.getD .ok)) else none
  | 0x20 =>
    match stop with
    | some st => some (s.refuse k st)
    | none => s.objRetry k r
  | 0x21 => stop.map (s.refuse k)
  | 0x34 => s.cxlAnswer k r
  | _ => none

/-- The first request, in the order of acceptance, that Gulkutik can serve now. -/
def State.serveFirst (s : State) : List (Nat × Option Req) → Option State
  | [] => none
  | (k, some r) :: l => match s.serveReq k r with
    | some s => some s
    | none => s.serveFirst l
  | (_, none) :: l => s.serveFirst l

/-- Serves requests until none can go on. -/
def State.serveSome (s : State) : Nat → State
  | 0 => s
  | fuel + 1 => match s.serveFirst s.gulk.reqs with
    | some s => s.serveSome fuel
    | none => s

/-- Gulkutik serves what it can: decoders that drain, then requests: each starts, iterates at most sixteen times, and ends. -/
def State.serve (s : State) : State := s.drainDecoders.serveSome (18 * s.gulk.reqs.length + 1)

/-- STEP_DISPATCH (R162, R163, R164, R284). -/
def execStepDispatch (i : Fin 16384) (s : State) : Host.Outcome State Fault Refusal := .next (s.awake fun s => (s.stepDispatch i.val).serve)

/-- STEP_COMMIT (R195): how hardware ended the step, and a page in which it met an error. -/
def execStepCommit (i : Fin 16384) (e : HwEnd) (badPage : Option (BitVec 28)) (s : State) :
    Host.Outcome State Fault Refusal := .next (s.awake fun s => (s.stepEnds i.val e (badPage.map (·.toNat))).serve)

/-- RECOMPUTE_DONE (R208). -/
def execRecomputeDone (g : BitVec 28) (e : HwEnd) (s : State) : Host.Outcome State Fault Refusal :=
  .next (s.awake fun s => (s.recomputeEnds g.toNat e).serve)

end Sys2Proof.Machine
end

