-- ==== Sys2Proof/Machine/Message.lean ====
section
/-! DEFINITION. Ikiotte messages: how a message is accepted and checked (R309, R314, R315, R319, R321), and the rows of
scenes, streams, models and host objects (R316). -/

namespace Sys2Proof.Machine

/-! ### Acceptance (R309, R311, R314, R315, R321) -/

/-- Body size of an opcode (R316). -/
def bodySize (op : Nat) : Option Nat :=
  match op with
  | 0x01 => some 32 | 0x02 => some 24 | 0x03 => some 48 | 0x04 => some 40 | 0x05 => some 24 | 0x06 => some 8
  | 0x10 => some 24 | 0x11 => some 8 | 0x12 => some 8
  | 0x18 => some 16 | 0x19 => some 48 | 0x1A => some 8
  | 0x20 => some 16 | 0x21 => some 32 | 0x22 => some 32 | 0x23 => some 8
  | 0x30 => some 48 | 0x31 => some 8 | 0x32 => some 32 | 0x33 => some 8 | 0x34 => some 16 | 0x35 => some 16
  | _ => none

/-- The opcode is listed (R316). -/
def msgListed (m : Msg) : Bool := (bodySize m.opcode.toNat).isSome

/-- Version, opcode, sizes and reserved bits of the header are as R314 and R315 state. -/
def msgHeaderOk (m : Msg) : Bool :=
  m.version == 1 && bodySize m.opcode.toNat == some m.bodyLen.toNat && m.body.length == m.bodyLen.toNat && m.reserved == 0

/-- n bytes of a body from an offset are zero. -/
def zeros (b : List Byte) (o n : Nat) : Bool := ((b.drop o).take n).all (· == 0)

/-- A queue pair takes Ikiotte messages: a service one, or a fast one that is not bound (R311, R325). -/
def Qp.service (q : Qp) : Bool := !q.error && (q.role == 0 || (q.role == 2 && q.fast.isNone))

/-- Messages accepted and not answered, of a queue pair and in all (R321). -/
def State.unanswered (s : State) (qp : Option Nat) : Nat :=
  (s.gulk.reqs.filter (fun x => match x.2 with
    | some r => qp.isNone || qp == some r.qp
    | none => false)).length

/-- Management opcodes are accepted (R311, R315). -/
def State.permitted (s : State) (qp : Nat) : Bool := qp == 1 || ((s.qp qp).map (·.mgmt)).getD false

/-- A SEND arrives on a queue pair: its packets, and its acknowledgement (R305, R308). -/
def State.received (s : State) (qp bytes : Nat) : State :=
  match s.qp qp with
  | none => s
  | some q =>
    let k := max 1 (ceilDiv bytes q.mtu)
    let s := (s.ctxLook qp k).2
    let s := s.setQp qp (some { q with recvPsn := (q.recvPsn + k) % 2 ^ 24 })
    if q.ud then s else s.emit (.ack qp ((q.recvPsn + k - 1) % 2 ^ 24))

/-- A receiver-not-ready NAK (R305, R321, R394). -/
def State.rnr (s : State) (qp : Nat) : State := (s.emit (.nak qp 2)).bump .estuary .estRnrNaks 0 1

/-- The request of a message. -/
def msgReq (m : Msg) (qp : Nat) (now : Word) : Req :=
  { qp := qp, id := m.requestId, op := m.opcode.toNat, accepted := now, deadline := m.deadline,
    scene := m.scene.toNat, stream := m.stream.toNat, body := m.body }

/-- The checks of a message in the order of R315: the first that fails gives the status. -/
def firstFailure : List (Bool × Status) → Option Status
  | [] => none
  | (bad, st) :: r => if bad then some st else firstFailure r

/-- A message of one of a row's opcodes is accepted, checked before any side effect, and applied; an opcode that is not
listed completes with E_FORMAT in any row, and one of another row leaves everything as it is. `checks` are the opcode's
own, with the deadline added last. -/
def State.message (s : State) (qp : Nat) (m : Msg) (mine : Bool) (checks : State → Req → List (Bool × Status))
    (act : Nat → Req → State → State) : State :=
  match s.qp qp with
  | none => s
  | some q =>
    if !q.service ∨ s.est.closed ∨ (msgListed m ∧ !mine) then s
    else if 4096 < 32 + m.body.length then ((s.ctxLook qp (max 1 (ceilDiv (32 + m.body.length) q.mtu))).2.emit (.nak qp 1)).qpError qp
    else if s.live .estuary ≠ .running ∨ 256 ≤ s.unanswered (some qp) ∨ 65536 ≤ s.unanswered none then s.rnr qp
    else
      let s := (s.received qp (32 + m.body.length)).marked qp m.ce
      let k := s.gulk.accepted
      let r := msgReq m qp s.now
      let s := { s with gulk := { s.gulk with reqs := FMap.set none s.gulk.reqs k (some r), accepted := k + 1 } }
      let late := m.deadline ≠ 0 ∧ m.deadline.toNat < s.now.toNat
      match (if !(msgHeaderOk m) then some .eFormat else firstFailure (checks s r ++ [(decide late, .eDeadline)])) with
      | some st => s.refuse k st
      | none => (act k r s).serve

/-! ### Checks of handles -/

/-- The scene of a request. -/
def State.reqScene (s : State) (r : Req) : Option Scene := (s.sceneOf r.scene).map (·.2)

/-- The stream of a request. -/
def State.reqStream (s : State) (r : Req) : Option Stream := (s.streamOf r.stream).map (·.2)

/-- Scene and stream are current, and the stream is of the scene. -/
def State.handlesOk (s : State) (r : Req) : Bool :=
  match s.reqScene r, s.reqStream r with
  | some _, some t => t.scene == r.scene % 64
  | _, _ => false

/-- A stream takes no more commands: it drains, or its scene closes (R194). -/
def State.streamClosed (s : State) (r : Req) : Bool :=
  match s.reqStream r with
  | some t => t.draining || ((s.scene t.scene).map (fun sc => !sc.closing.isEmpty)).getD false
  | none => false

/-- The stream is the root of the scene (R192). -/
def State.isRoot (s : State) (r : Req) : Bool := ((s.reqScene r).map (fun sc => sc.root == r.stream % 16384)).getD false

/-- [off, off + n) lies in the scene's intake region. -/
def State.intakeHas (s : State) (r : Req) (off n : Nat) : Bool :=
  ((s.reqScene r).map (fun sc => decide (off + n ≤ sc.intakeBytes))).getD false

/-- Shape of the model of a request's scene. -/
def State.reqShape (s : State) (r : Req) : Shape :=
  match s.reqScene r with
  | some sc => s.shape sc.model sc.version
  | none => s.shape 0 0

/-- Position of a request's stream. -/
def State.reqPos (s : State) (r : Req) : Nat := ((s.reqStream r).map (·.position)).getD 0

/-- A request joins those of its stream, in the order of acceptance (R194). -/
def State.enqueue (s : State) (k i : Nat) : State :=
  s.setStream i ((s.stream i).map (fun t => { t with work := t.work ++ [k] }))

/-! ### OPEN_SCENE (R192, R193, R312) -/

/-- The version an OPEN_SCENE binds (R300, R302). -/
def State.openVersion (s : State) (b : List Byte) : Option Nat :=
  let m := field b 0 2
  let v := field b 2 1
  if v = 0 then s.latestLive m else if (s.model m v).isSome then some v else none

/-- A version accepts a new scene (R300 to R302): it is live, and no newer one was live before now. -/
def State.bindable (s : State) (m v : Nat) : Bool :=
  match s.model m v with
  | some x => x.live.isSome && !x.waitTick && (!x.retiring || s.latestLive m == some v)
  | none => false

/-- A place for an intake region: units of HBM4 in a row that hold no page and no other region. -/
def State.intakePlace (s : State) (n : Nat) : Option Nat × State :=
  let (w, s) := s.draw
  let used := s.hbmTaken
  let ok (i : Nat) : Bool :=
    let a := s.code.unitAddr i / poolUnit
    decide (i + n ≤ s.code.hbmUnits) && s.code.unitAddr (i + n - 1) / poolUnit == a + n - 1 &&
    used.all (fun u => u < a || a + n ≤ u)
  let starts := [w.toNat % s.code.hbmUnits, 0] ++ (List.range s.code.bays).map (· * (0x2000000000 / poolUnit)) ++
    (List.range s.code.hbmUnits).filter (fun i => used.contains (s.code.unitAddr i / poolUnit - 1))
  if n = 0 then (some (s.code.unitAddr (w.toNat % s.code.hbmUnits)), s)
  else ((starts.find? ok).map s.code.unitAddr, s)

/-- The checks of an OPEN_SCENE (R315, R316, R321). -/
def State.openChecks (s : State) (r : Req) : List (Bool × Status) :=
  let b := r.body
  let m := field b 0 2
  let v := s.openVersion b
  [(2 < field b 3 1 || 1 < field b 4 1 || 4 < field b 5 1 || !zeros b 6 2 || !zeros b 28 4, .eFormat),
   (if field b 2 1 = 0 then s.gulk.models.all (fun y => y.1 / 256 ≠ m) else v.isNone, .eGone),
   (0x10000000 < field b 24 4 || field b 24 4 % poolUnit != 0, .eShape),
   (v.isNone || !s.bindable m (v.getD 0), .eState)]

/-- Scenes in use. -/
def State.openScenes (s : State) : List Nat := (s.gulk.scenes.filter (·.2.isSome)).map (·.1)

/-- OPEN_SCENE is applied: a scene slot, a root stream and an intake region (R192, R193, R198, R312). -/
def State.openScene (k : Nat) (r : Req) (s : State) : State :=
  let b := r.body
  let m := field b 0 2
  let v := (s.openVersion b).getD 0
  if 64 ≤ s.openScenes.length ∨ 16384 ≤ s.openStreams.length then (s.event .rollout 0).refuse k .eState
  else
    let n := field b 24 4
    let (place, s) := s.intakePlace (n / poolUnit)
    let (i, s) := s.pick s.openScenes 64
    let (j, s) := s.pick s.openStreams 16384
    let (key, s) := s.pick (s.est.regions.map (·.rkey)) (2 ^ 32)
    match place, i, j, key with
    | some a, some i, some j, some key =>
      if 4096 ≤ s.est.regions.length then s.refuse k .eState
      else
        let seed := BitVec.ofNat 64 (field b 8 8)
        let g := FMap.get 0 s.gulk.sceneGen i
        let sc : Scene := { gen := g, model := m, version := v, cls := field b 3 1, srMode := field b 4 1,
                            frameFmt := field b 5 1, seed := seed, interval := field b 16 4,
                            threshold := BitVec.ofNat 32 (field b 20 4), root := j, intake := a, intakeBytes := n, rkey := key }
        let h := FMap.get 0 s.gulk.streamGen j
        let (mapAt, s) := s.draw
        let s := (s.setScene i (some sc)).setStream j (some {
          gen := h, scene := i, seed := srMix seed, mapAt := mapAt, state := List.replicate (imageBytes (s.packageOf m v)) 0 })
        let s := { s with est := { s.est with regions := s.est.regions ++ [(⟨a, n, key, r.qp⟩ : DevRegion)] } }
        let s := if 0 < (s.shape m v).recurrent then s.takeCkpt j true else s
        s.answer k .ok 0 0 (leBytes (sceneHandle i g) 4 ++ leBytes (streamHandle j h) 4 ++ leBytes a 8 ++ leBytes key 4 ++
          leBytes n 4) []
    | _, _, _, _ => s.refuse k .eState

/-- OPEN_SCENE (R192). -/
def execOpenScene (qp : BitVec 18) (m : Msg) (s : State) : Host.Outcome State Fault Refusal :=
  .next (s.awake fun s => s.heard qp.toNat (msgSize m) (.openScene qp m) fun s => s.message qp.toNat m (m.opcode == 0x01) State.openChecks State.openScene)

/-! ### OBSERVE (R205) -/

/-- The checks of an OBSERVE (R194, R315, R316). -/
def State.observeChecks (s : State) (r : Req) : List (Bool × Status) :=
  let b := r.body
  let x := s.reqShape r
  let count := field b 4 4
  let an := if field b 12 4 = 0xFFFFFFFF then 0 else field b 16 2
  let frames := field b 0 1 = 0
  let fmt := ((s.reqScene r).map (·.frameFmt)).getD 0
  let n := (if frames then count * x.frame else count) + an
  [(1 < field b 0 1 || !zeros b 18 6, .eFormat),
   (!s.handlesOk r, .eGone),
   (1048576 < s.reqPos r + n, .eLength),
   (!s.intakeHas r (field b 8 4) (if frames then count * x.frameBytes fmt else 4 * count) ||
      (an != 0 && !s.intakeHas r (field b 12 4) (4 * an)), .eAddr),
   (!s.isRoot r || s.streamClosed r, .eState)]

/-- OBSERVE (R205): it waits for its step's dispatch behind what was accepted before it. -/
def execObserve (qp : BitVec 18) (m : Msg) (s : State) : Host.Outcome State Fault Refusal :=
  .next (s.awake fun s => s.heard qp.toNat (msgSize m) (.observe qp m) fun s => s.message qp.toNat m (m.opcode == 0x02) State.observeChecks (fun k r s => s.enqueue k (r.stream % 16384)))

/-! ### PLAN, ROLLOUT, FORK (R197, R209, R213) -/

/-- The checks of a PLAN (R209, R315, R317). -/
def State.planChecks (s : State) (r : Req) : List (Bool × Status) :=
  let b := r.body
  let p := PlanP.of b
  [(1 < field b 7 1 || !zeros b 28 4, .eFormat),
   (!s.handlesOk r, .eGone),
   (p.n = 0 || 4096 < p.n || p.h = 0 || 256 < p.h || p.iters = 0 || 16 < p.iters || p.a = 0 || 16 < p.a || p.b = 0 ||
      64 < p.b || p.e = 0 || p.n < p.e || p.v < 2 || 4096 < p.v, .eShape),
   (1048576 < s.reqPos r + p.h * (p.a + (s.reqShape r).frame), .eLength),
   ((p.dist != 0xFFFFFFFF && !s.intakeHas r p.dist (4 * (p.h * p.a * p.v))) || p.desc.len < min p.b p.n * p.recBytes, .eAddr),
   (!s.isRoot r || s.streamClosed r, .eState)]

/-- PLAN (R209). -/
def execPlan (qp : BitVec 18) (m : Msg) (s : State) : Host.Outcome State Fault Refusal :=
  .next (s.awake fun s => s.heard qp.toNat (msgSize m) (.plan qp m) fun s => s.message qp.toNat m (m.opcode == 0x03) State.planChecks (fun k r s => s.enqueue k (r.stream % 16384)))

/-- The checks of a ROLLOUT (R213, R315, R318). -/
def State.rollChecks (s : State) (r : Req) : List (Bool × Status) :=
  let b := r.body
  let p := RollP.of b
  let x := s.reqShape r
  let flags := BitVec.ofNat 64 (field b 6 2)
  let sr := ((s.reqScene r).map (·.srMode)).getD 0
  [(15 < field b 6 2 || (p.frames && 4 < p.fmt) || !zeros b 15 1, .eFormat),
   (!s.handlesOk r, .eGone),
   (4096 < p.n, .eShape),
   (1048576 < s.reqPos r + p.steps * (x.acts + x.frame), .eLength),
   (!s.intakeHas r (field b 16 4) (4 * (p.n * p.steps * x.acts)) ||
      (bit1 flags 3 && !s.intakeHas r (field b 20 4) (16 * (p.n * p.steps))) ||
      p.desc.len < (p.parts x sr).getD 5 0, .eAddr),
   (s.streamClosed r, .eState)]

/-- ROLLOUT (R213). -/
def execRollout (qp : BitVec 18) (m : Msg) (s : State) : Host.Outcome State Fault Refusal :=
  .next (s.awake fun s => s.heard qp.toNat (msgSize m) (.rollout qp m) fun s => s.message qp.toNat m (m.opcode == 0x04) State.rollChecks (fun k r s => s.enqueue k (r.stream % 16384)))

/-- The checks of a FORK (R197, R315). -/
def State.forkChecks (s : State) (r : Req) : List (Bool × Status) :=
  let b := r.body
  [(1 < field b 2 2, .eFormat),
   (!s.handlesOk r, .eGone),
   (4096 < field b 0 2, .eShape),
   ((descAt b 8).len < 4 * field b 0 2, .eAddr),
   (s.streamClosed r, .eState)]

/-- FORK (R197). -/
def execFork (qp : BitVec 18) (m : Msg) (s : State) : Host.Outcome State Fault Refusal :=
  .next (s.awake fun s => s.heard qp.toNat (msgSize m) (.fork qp m) fun s => s.message qp.toNat m (m.opcode == 0x05) State.forkChecks (fun k r s => s.enqueue k (r.stream % 16384)))

/-! ### CLOSE (R194) -/

/-- The kind of a CLOSE: 0 a stream, 1 a scene. -/
def msgCloseKind (m : Msg) : Nat := field m.body 0 1

/-- The checks of a CLOSE of a stream. -/
def State.closeStreamChecks (s : State) (r : Req) : List (Bool × Status) :=
  [(0 < field r.body 0 1 || !zeros r.body 1 7, .eFormat),
   ((s.reqStream r).isNone, .eGone),
   (s.streamClosed r, .eState)]

/-- A CLOSE of a stream is accepted: while a step is in flight the stream drains (R194). What was accepted before it is applied before
it; a step of that drains the stream when it is dispatched. -/
def State.closeBegins (s : State) (k i : Nat) : State :=
  match s.stream i with
  | none => s
  | some t => s.setStream i (some { t with work := t.work ++ [k], draining := t.phase != .idle })

/-- CLOSE_STREAM (R194). -/
def execCloseStream (qp : BitVec 18) (m : Msg) (s : State) : Host.Outcome State Fault Refusal :=
  .next (s.awake fun s => s.heard qp.toNat (msgSize m) (.closeStream qp m) fun s => s.message qp.toNat m (m.opcode == 0x06 && msgCloseKind m != 1) State.closeStreamChecks
    (fun k r s => s.closeBegins k (r.stream % 16384)))

/-- The checks of a CLOSE of a scene. -/
def State.closeSceneChecks (s : State) (r : Req) : List (Bool × Status) :=
  [(1 < field r.body 0 1 || !zeros r.body 1 7, .eFormat),
   ((s.reqScene r).isNone, .eGone),
   (((s.reqScene r).map (fun sc => !sc.closing.isEmpty)).getD false, .eState)]

/-- A CLOSE of a scene is accepted: its streams with a step in flight drain, and nothing new is taken (R194). -/
def State.closeSceneBegins (s : State) (k i : Nat) : State :=
  let s := s.setScene i ((s.scene i).map (fun sc => { sc with closing := sc.closing ++ [k] }))
  { s with gulk := { s.gulk with streams := s.gulk.streams.map (fun x => (x.1, x.2.map (fun (t : Stream) =>
    if t.scene = i ∧ t.phase ≠ .idle then { t with draining := true } else t))) } }

/-- CLOSE_SCENE (R194). -/
def execCloseScene (qp : BitVec 18) (m : Msg) (s : State) : Host.Outcome State Fault Refusal :=
  .next (s.awake fun s => s.heard qp.toNat (msgSize m) (.closeScene qp m) fun s => s.message qp.toNat m (m.opcode == 0x06 && msgCloseKind m != 0) State.closeSceneChecks
    (fun k r s => s.closeSceneBegins k (r.scene % 64)))

/-! ### Models (R298 to R302) -/

/-- The checks of a LOAD_MODEL (R111, R158, R170, R298, R302, R321). -/
def State.loadChecks (s : State) (r : Req) : List (Bool × Status) :=
  let b := r.body
  let obj := field b 0 4
  let x : ModelV := { package := obj, pin := true, bays := 0, cores := field b 16 8, lastUse := 0 }
  let pin := field b 7 1 % 2 = 1
  let cores := field b 16 8
  [(field b 6 1 = 0 || 1 < field b 7 1 || !zeros b 9 7, .eFormat),
   ((s.cliffObj obj).isNone, .eGone),
   (!packageOk (s.pkg obj), .eFormat),
   (s.bayMask (field b 8 1) = 0 || (pin && (cores = 0 || (List.range 64).any (fun c => cores / 2 ^ c % 2 = 1 && !s.coreLive c))), .eShape),
   ((s.model (field b 4 2) (field b 6 1)).isSome || 256 ≤ (s.gulk.models.filter (·.2.isSome)).length ||
      (pin && !s.pinFits x (some (field b 4 2))), .eState)]

/-- LOAD_MODEL (R300). -/
def execLoadModel (qp : BitVec 18) (m : Msg) (s : State) : Host.Outcome State Fault Refusal :=
  .next (s.awake fun s => s.heard qp.toNat (msgSize m) (.loadModel qp m) fun s => s.message qp.toNat m (m.opcode == 0x10) State.loadChecks (fun k r s => s.loadBegins k r))

/-- The checks of an UNLOAD_MODEL and of a PREFETCH_MODEL. -/
def State.versionChecks (s : State) (r : Req) (unload : Bool) : List (Bool × Status) :=
  let b := r.body
  let m := field b 0 2
  let v := field b 2 1
  [(!zeros b 3 5, .eFormat),
   ((s.model m v).isNone, .eGone),
   (unload && (!s.unbound m v || ((s.model m v).map (fun x => x.loader.isSome)).getD false), .eState)]

/-- UNLOAD_MODEL (R302). -/
def execUnloadModel (qp : BitVec 18) (m : Msg) (s : State) : Host.Outcome State Fault Refusal :=
  .next (s.awake fun s => s.heard qp.toNat (msgSize m) (.unloadModel qp m) fun s => s.message qp.toNat m (m.opcode == 0x11) (fun s r => s.versionChecks r true)
    (fun k r s => (s.unload (field r.body 0 2) (field r.body 2 1)).answer k .ok 0 0 [] []))

/-- PREFETCH_MODEL (R298): a COLD version begins to stage in Background. -/
def execPrefetchModel (qp : BitVec 18) (m : Msg) (s : State) : Host.Outcome State Fault Refusal :=
  .next (s.awake fun s => s.heard qp.toNat (msgSize m) (.prefetchModel qp m) fun s => s.message qp.toNat m (m.opcode == 0x12) (fun s r => s.versionChecks r false)
    (fun k r s => (s.modelReady (field r.body 0 2) (field r.body 2 1)).2.answer k .ok 0 0 [] []))

/-- MODEL_STAGED (R298). -/
def execModelStaged (m : BitVec 16) (v : BitVec 8) (s : State) : Host.Outcome State Fault Refusal :=
  .next (s.awake fun s => (s.modelStaged m v).serve)

/-- POOL_WAIT_EXPIRE (R285): an allocation that waits has reached its deadline, or without one the wait limit. -/
def State.poolExpires (s : State) (k : Nat) : State :=
  match s.req k with
  | none => s
  | some r =>
    let limit := s.fld .pool .poolCtrl 0 31 0
    let over_ (since : Word) : Bool := decide (since.toNat + limit ≤ s.now.toNat)
    if r.deadline ≠ 0 then s.serve
    else
      let l := if r.op = 2 then [r.stream % 16384] else r.futures
      let waits := l.filter (fun i => match s.stream i with
        | some t => t.work.head? == some k && (match t.phase with
          | .pool since => over_ since
          | _ => false)
        | none => false)
      if waits ≠ [] then
        (waits.foldl (fun (s : State) i => s.groupFails (s.groupOf i r) .eState) s).serve
      else match r.poolWait with
        | some since =>
          if !over_ since then s
          else if r.op = 0x20 then (s.refuse k .eState).serve
          else if r.op = 0x10 then (s.loadStops k r .eState).serve
          else s
        | none => s

/-- POOL_WAIT_EXPIRE (R285). -/
def execPoolWaitExpire (k : BitVec 64) (s : State) : Host.Outcome State Fault Refusal := .next (s.awake fun s => s.poolExpires k.toNat)

/-! ### Host objects (R280, R282, R316) -/

/-- The checks of an OBJ_CREATE. -/
def State.objCreateChecks (s : State) (r : Req) : List (Bool × Status) :=
  let b := r.body
  let o := field b 0 4
  [(3 < field b 8 1 || 191 < field b 9 1 || (placement (field b 9 1)).any (· == 3) || !zeros b 10 6 || o == 0xFFFFFFFF, .eFormat),
   ((FMap.get none s.cliff.objs o).isSome || s.cliffReadOnly && (placement (field b 9 1)).headD 2 == 2, .eState)]

/-- OBJ_CREATE (R316). -/
def execObjCreate (qp : BitVec 18) (m : Msg) (s : State) : Host.Outcome State Fault Refusal :=
  .next (s.awake fun s => s.heard qp.toNat (msgSize m) (.objCreate qp m) fun s => s.message qp.toNat m (m.opcode == 0x20) State.objCreateChecks (fun k r s => s.objBegin k r))

/-- The checks of an OBJ_WRITE and an OBJ_READ. -/
def State.objMoveChecks (s : State) (r : Req) (write : Bool) : List (Bool × Status) :=
  let b := r.body
  let o := s.cliffObj (field b 0 4)
  let n := field b 8 4
  [(!zeros b 12 4, .eFormat),
   (o.isNone, .eGone),
   ((o.map (·.units)).getD 0 < field b 4 4 + n, .eShape),
   ((descAt b 16).len < n * unitBytes, .eAddr),
   (write && s.cliffReadOnly && (o.map (·.tier)).getD 2 == 2, .eState)]

/-- OBJ_WRITE (R316). -/
def execObjWrite (qp : BitVec 18) (m : Msg) (s : State) : Host.Outcome State Fault Refusal :=
  .next (s.awake fun s => s.heard qp.toNat (msgSize m) (.objWrite qp m) fun s => s.message qp.toNat m (m.opcode == 0x21) (fun s r => s.objMoveChecks r true) (fun k r s => s.objWriteBegins k r))

/-- OBJ_READ (R316). -/
def execObjRead (qp : BitVec 18) (m : Msg) (s : State) : Host.Outcome State Fault Refusal :=
  .next (s.awake fun s => s.heard qp.toNat (msgSize m) (.objRead qp m) fun s => s.message qp.toNat m (m.opcode == 0x22) (fun s r => s.objMoveChecks r false) (fun k r s => s.objRead k r))

/-- The checks of an OBJ_DELETE: the package of a loaded version stays (R298). -/
def State.objDeleteChecks (s : State) (r : Req) : List (Bool × Status) :=
  let o := field r.body 0 4
  [(!zeros r.body 4 4, .eFormat),
   ((s.cliffObj o).isNone, .eGone),
   (s.gulk.models.any (fun y => (y.2.map (fun x => x.package == o)).getD false) ||
      (s.cliffReadOnly && ((s.cliffObj o).map (·.tier)).getD 2 == 2), .eState)]

/-- OBJ_DELETE (R316). -/
def execObjDelete (qp : BitVec 18) (m : Msg) (s : State) : Host.Outcome State Fault Refusal :=
  .next (s.awake fun s => s.heard qp.toNat (msgSize m) (.objDelete qp m) fun s => s.message qp.toNat m (m.opcode == 0x23) State.objDeleteChecks
    (fun k r s => (s.setCliffObj (field r.body 0 4) none).answer k .ok 0 0 [] []))

/-- RDMA_READ_RESPONSE (R316): data for the request with a place in the order of acceptance. -/
def execRdmaReadResponse (k : BitVec 64) (data : List Byte) (s : State) : Host.Outcome State Fault Refusal :=
  .next (s.awake fun s => (s.readResponse k.toNat data).serve)

/-! ### CANCEL (R325) -/

/-- The request a CANCEL names. -/
def State.cancelTarget (s : State) (r : Req) : Option Nat :=
  (List.find? (fun (x : Nat × Option Req) => match x.2 with
    | some y => y.qp == field r.body 8 4 && y.id.toNat == field r.body 0 8 && y.op != 0x35
    | none => false) s.gulk.reqs).map (·.1)

/-- The checks of a CANCEL: a target already completed gives E_GONE (R325). -/
def State.cancelChecks (s : State) (r : Req) : List (Bool × Status) :=
  [(!zeros r.body 12 4, .eFormat), ((s.cancelTarget r).isNone, .eGone)]

/-- CANCEL (R325). -/
def execCancel (qp : BitVec 18) (m : Msg) (s : State) : Host.Outcome State Fault Refusal :=
  .next (s.awake fun s => s.heard qp.toNat (msgSize m) (.cancel qp m) fun s => s.message qp.toNat m (m.opcode == 0x35) State.cancelChecks (fun k r s =>
    let t := (s.cancelTarget r).getD 0
    (s.setReq t ((s.req t).map (fun x => { x with cancel := true }))).answer k .ok 0 0 [] []))

end Sys2Proof.Machine
end

