-- ==== Sys2Proof/Machine/FarMemory.lean ====
section
/-! DEFINITION. The rows of CXL far memory (R271 to R274, R286, R316). -/

namespace Sys2Proof.Machine

/-- The checks of a CXL_OP (R315, R316). -/
def State.cxlChecks (s : State) (r : Req) : List (Bool × Status) :=
  let b := r.body
  [(1 < field b 0 1 || field b 1 1 = 0 || 2 < field b 1 1 || 7 < field b 2 1 || !zeros b 3 1 || !zeros b 10 6 ||
      16383 < field b 4 2 || 32767 < field b 6 2 || 16383 < field b 8 2, .eFormat),
   (!s.permitted r.qp || s.decState (cxlPortOf b) (field b 2 1 % 8) ≠ (if field b 1 1 = 1 then 0 else 2), .eState)]

/-- A message of op 0x34 whose op byte is of a row; one with another code belongs to either row. -/
def cxlRow (m : Msg) (op : Nat) : Bool := m.opcode == 0x34 && (field m.body 1 1 == op || field m.body 1 1 == 0 || decide (2 < field m.body 1 1))

/-- A hot-add by register: a step that fails leaves an error record (R271). -/
def State.cxlAddReg (s : State) (p : Fin 2) (d : Nat) (t : CxlTrain) : State :=
  match s.hotAdd p d (s.decFields p d) t with
  | (.ok, s) => s
  | (st, s) => s.contained (.cxl p) st none

/-- CXL_HOT_ADD (R271). -/
def execCxlHotAdd (src : CxlSource) (t : CxlTrain) (s : State) : Host.Outcome State Fault Refusal :=
  .next (s.awake fun s => match src with
    | .register p d => s.cxlAddReg p d.val t
    | .message qp m => s.heard qp.toNat (msgSize m) (.cxlHotAdd src t) fun s => s.message qp.toNat m (cxlRow m 1) State.cxlChecks (fun k r s =>
        let b := r.body
        match s.hotAdd (cxlPortOf b) (field b 2 1) ⟨field b 4 2, field b 6 2, field b 8 2⟩ t with
        | (.ok, s) => s.answer k .ok 0 0 [] []
        | (st, s) => s.refuse k st))

/-- A managed remove by register. -/
def State.cxlRemoveReg (s : State) (p : Fin 2) (d : Nat) : State :=
  match s.hotRemove p d with
  | (.ok, s) => s
  | (st, s) => s.contained (.cxl p) st none

/-- CXL_HOT_REMOVE (R272). -/
def execCxlHotRemove (src : CxlSource) (s : State) : Host.Outcome State Fault Refusal :=
  .next (s.awake fun s => match src with
    | .register p d => s.cxlRemoveReg p d.val
    | .message qp m => s.heard qp.toNat (msgSize m) (.cxlHotRemove src) fun s => s.message qp.toNat m (cxlRow m 2) State.cxlChecks (fun _ r s =>
        (s.hotRemove (cxlPortOf r.body) (field r.body 2 1)).2))

/-- CXL_LINK_DOWN (R273). -/
def execCxlLinkDown (p : Fin 2) (s : State) : Host.Outcome State Fault Refusal := .next (s.awake fun s => (s.cxlLost p).serve)

/-- A write of CXL_CTRL (R286): what the hardware of a hot-add answers is not the write's to say. -/
def State.cxlCtrlWrite (s : State) (p : Fin 2) (v : Word) : State :=
  let s := if bit1 v 5 then s.clearCounters (.cxl p) else s
  let s := s.wrRw (.cxl p) .cxlCtrl 0 v
  match bits v 1 0 with
  | 1 =>
    let (w, s) := s.draw
    s.cxlAddReg p (bits v 4 2) ⟨bit1 w 0, BitVec.ofNat 5 (bits w 5 1), bit1 w 6, BitVec.ofNat 16 (bits w 22 7), bit1 w 23⟩
  | 2 => (s.cxlRemoveReg p (bits v 4 2)).serve
  | _ => s

/-- A write of a CXL decoder: its fields accept writes only in OFF (R286). -/
def State.cxlDecWrite (s : State) (p : Fin 2) (n : Nat) (v : Word) : State :=
  if s.decState p n = 0 then s.wrRw (.cxl p) .cxlDec n v else s.ignore (.cxl p)

end Sys2Proof.Machine
end

