-- ==== Sys2Proof/Machine/Estuary.lean ====
section
/-! DEFINITION. Estuary: queue pairs and their roles, RDMA on device regions, transport events, the fast path, ports
(R305 to R313, R319, R322 to R327). -/

namespace Sys2Proof.Machine

/-! ### Queue pairs (R310, R311, R325) -/

/-- Queue pair numbers in use, 0 and 1 among them. -/
def State.qpUsed (s : State) : List Nat := [0, 1] ++ (s.est.qps.filter (·.2.isSome)).map (·.1)

/-- The checks of a CREATE_QP (R315, R316): management permission is given only by a queue pair that has it
(notes/assumptions/16.md). -/
def State.createQpChecks (s : State) (r : Req) : List (Bool × Status) :=
  let b := r.body
  [(1 < field b 0 1 || 2 < field b 1 1 || 3 < field b 2 1 || 3 < field b 3 1 || 2 < field b 4 1 || 63 < field b 5 1 ||
      7 < field b 6 1 || 1 < field b 7 1 || !zeros b 34 14, .eFormat),
   ((field b 7 1 == 1 && !s.permitted r.qp) || 262144 ≤ s.qpUsed.length, .eState)]

/-- The MTU of a code (R305, R316). -/
def mtuOf (n : Nat) : Nat := match n with | 0 => 1024 | 1 => 2048 | _ => 4096

/-- A queue pair is created, in RTS (R311). Which free number and start PSN it gets the spec does not say. -/
def State.createQp (k : Nat) (r : Req) (s : State) : State :=
  let b := r.body
  let (n, s) := s.pick s.qpUsed 262144
  let (w, s) := s.draw
  match n with
  | none => s.refuse k .eState
  | some n =>
    let psn := w.toNat % 2 ^ 24
    let s := s.setQp n (some { ud := field b 0 1 = 1, role := field b 1 1, port := field b 2 1, cls := field b 3 1,
                               mtu := mtuOf (field b 4 1), dscp := field b 5 1, prio := field b 6 1,
                               mgmt := field b 7 1 = 1, peerQpn := field b 8 4, recvPsn := field b 12 4 % 2 ^ 24,
                               peerIp := field b 16 16, udpPort := field b 32 2, sendPsn := psn })
    (s.ctxFill n).answer k .ok 0 0 (leBytes n 4 ++ leBytes psn 4) []

/-- CREATE_QP (R311). -/
def execCreateQp (qp : BitVec 18) (m : Msg) (s : State) : Host.Outcome State Fault Refusal :=
  .next (s.awake fun s => s.heard qp.toNat (msgSize m) (.createQp qp m) fun s => s.message qp.toNat m (m.opcode == 0x30) State.createQpChecks State.createQp)

/-- The requests of a queue pair other than one. -/
def State.qpReqs (s : State) (n but : Nat) : List Nat :=
  (List.filter (fun (x : Nat × Option Req) => x.1 != but && ((x.2.map (fun y => y.qp == n)).getD false)) s.gulk.reqs).map (·.1)

/-- The checks of a DESTROY_QP (R325). -/
def State.destroyQpChecks (s : State) (r : Req) : List (Bool × Status) :=
  let n := field r.body 0 4
  [(1 < field r.body 4 4, .eFormat),
   ((s.qp n).isNone, .eGone),
   (n == 1 || (field r.body 4 4 == 0 && (s.qpReqs n s.gulk.accepted.pred ≠ [] || s.est.fast.any (·.qp == n))), .eState)]

/-- A queue pair is destroyed; with force, its unanswered messages complete with E_ABORT and no response (R319, R325). -/
def State.destroyQp (k : Nat) (r : Req) (s : State) : State :=
  let n := field r.body 0 4
  let s := (s.qpReqs n k).foldl (fun (s : State) j => s.setReq j ((s.req j).map (fun x => { x with cancel := true }))) s
  let s := if n = r.qp then s else s.setQp n none
  let s := (s.est.fast.filter (·.qp = n)).foldl (fun (s : State) _ => s.msgError n 0 .eAbort 0 0 []) s
  let s := { s with est := { s.est with fast := s.est.fast.filter (fun f => f.qp != n),
                                        held := s.est.held.filter (fun x => x.1 != n), misses := s.est.misses.filter (· ≠ n),
                                        cache := FMap.set [] s.est.cache (n % 1024) ((s.ctxSet n).filter (· ≠ n)) } }
  (s.answer k .ok 0 0 [] []).setQp n none

/-- DESTROY_QP (R325). -/
def execDestroyQp (qp : BitVec 18) (m : Msg) (s : State) : Host.Outcome State Fault Refusal :=
  .next (s.awake fun s => s.heard qp.toNat (msgSize m) (.destroyQp qp m) fun s => s.message qp.toNat m (m.opcode == 0x31) State.destroyQpChecks State.destroyQp)

/-! ### The fast path (R322 to R325) -/

/-- The binding a BIND_FAST names (R322): the program stands at Qn_PC, and wt_addr counts 64-byte units as the field of the
same name in R83 does (notes/assumptions/17.md). -/
def State.bindOf (s : State) (b : List Byte) : FastBind :=
  { core := Fin.ofNat 36 (field b 4 1), queue := Fin.ofNat 8 (field b 5 1),
    pc := s.qPcVal (Fin.ofNat 36 (field b 4 1)) (field b 5 1 % 8), inLen := field b 6 2, inOff := field b 8 4,
    outOff := field b 12 4, outLen := field b 16 2, array := field b 18 1, bank := field b 19 1,
    wt := 64 * field b 20 4, wFmt := field b 24 1, transposed := field b 25 1 = 1 }

/-- Queue pairs bound to the fast path (R321, R326). -/
def State.fastBound (s : State) : Nat := (s.est.qps.filter (fun x => ((x.2.bind (·.fast)).isSome))).length

/-- Contexts of a set that bindings pin (R322). -/
def State.pinnedIn (s : State) (n : Nat) : Nat :=
  (s.est.qps.filter (fun x => x.1 % 1024 = n % 1024 ∧ ((x.2.bind (·.fast)).isSome))).length

/-- The checks of a BIND_FAST (R315, R321, R322). -/
def State.bindChecks (s : State) (r : Req) : List (Bool × Status) :=
  let b := r.body
  let n := field b 0 4
  let x := s.bindOf b
  [(35 < field b 4 1 || 7 < field b 5 1 || 1 < field b 18 1 || 1 < field b 19 1 || 1 < field b 25 1 ||
      ((Fmt.ofCode (field b 24 1)).map (· == .x96)).getD true || !zeros b 26 6, .eFormat),
   ((s.qp n).isNone || !s.coreLive x.core.val, .eGone),
   (x.inLen = 0 || 4096 < x.inLen || x.inLen % 64 != 0 || 4096 < x.outLen, .eShape),
   (x.inOff % 64 != 0 || x.outOff % 64 != 0 || ledgeSize < x.inOff + x.inLen || ledgeSize < x.outOff + x.outLen ||
      ledgeSize ≤ x.wt, .eAddr),
   (((s.qp n).map (fun q => q.role != 2 || q.fast.isSome || q.error)).getD true || 4096 ≤ s.fastBound || 4 ≤ s.pinnedIn n ||
      s.qDevice x.core x.queue.val || (s.queue x.core.val x.queue.val).state != .idle, .eState)]

/-- BIND_FAST (R322): the queue pair is bound, and its context pinned in the cache. -/
def execBindFast (qp : BitVec 18) (m : Msg) (s : State) : Host.Outcome State Fault Refusal :=
  .next (s.awake fun s => s.heard qp.toNat (msgSize m) (.bindFast qp m) fun s => s.message qp.toNat m (m.opcode == 0x32) State.bindChecks (fun k r s =>
    let n := field r.body 0 4
    let s := (s.ctxFill n).setQp n ((s.qp n).map (fun q => { q with fast := some (s.bindOf r.body) }))
    s.answer k .ok 0 0 [] []))

/-- The checks of an UNBIND_FAST. -/
def State.unbindChecks (s : State) (r : Req) : List (Bool × Status) :=
  let q := s.qp (field r.body 0 4)
  [(!zeros r.body 4 4, .eFormat), (q.isNone, .eGone), ((q.bind (·.fast)).isNone, .eState)]

/-- UNBIND_FAST (R325): requests accepted before it still complete on the fast path. -/
def execUnbindFast (qp : BitVec 18) (m : Msg) (s : State) : Host.Outcome State Fault Refusal :=
  .next (s.awake fun s => s.heard qp.toNat (msgSize m) (.unbindFast qp m) fun s => s.message qp.toNat m (m.opcode == 0x33) State.unbindChecks (fun k r s =>
    let n := field r.body 0 4
    (s.setQp n ((s.qp n).map (fun q => { q with fast := none }))).answer k .ok 0 0 [] []))

/-- The conditions of R323 on the queue and the bank. -/
def State.fastOk (s : State) (b : FastBind) : Bool :=
  let mine := s.est.fast.filter (fun f => f.bind.core = b.core ∧ f.bind.queue = b.queue)
  let x := s.queue b.core.val b.queue.val
  bit1 (s.rd .estuary .estCtrl 0) 2 &&
  (if mine.isEmpty then x.state == .idle else mine.length == 1 && mine.all (·.running)) && s.blockComes b

/-- FAST_PATH_REQUEST (R323): a SEND on a bound fast queue pair. Estuary serves it when every condition holds at its acceptance, and
Gulkutik after a miss, also where the SEND is not exactly in_len bytes in one packet: its first in_len bytes are written
(R18; notes/assumptions/15.md). -/
def execFastPathRequest (qp : BitVec 18) (payload : List Byte) (ce : Bool) (s : State) : Host.Outcome State Fault Refusal :=
  .next (s.awake fun s => match s.qp qp.toNat with
    | none => s
    | some q =>
      match q.fast with
      | none => s
      | some b =>
        if q.error ∨ s.est.closed then s
        else if s.live .estuary ≠ .running then s.rnr qp.toNat
        else
          let hit := (s.ctxLook qp.toNat 0).1
          let s := (s.received qp.toNat payload.length).marked qp.toNat ce
          let ok := payload.length == b.inLen && decide (payload.length ≤ q.mtu) && hit && s.fastOk b
          let s := s.bump .estuary (if ok then .estFastCount else .estFastMiss) 0 1
          let f : FastReq :=
            { qp := qp.toNat, payload := payload.take b.inLen, miss := !ok, count := q.fastCount, bind := b, accepted := s.now }
          let s := s.setQp qp.toNat ((s.qp qp.toNat).map (fun q => { q with fastCount := (q.fastCount + 1) % 2 ^ 16 }))
          { s with est := { s.est with fast := s.est.fast ++ [f] } }.fastPump)

/-! ### RDMA on device regions (R312) -/

/-- The device region an operation of a queue pair hits whole: its own, or any for a data queue pair. -/
def State.devRegion (s : State) (n : Nat) (q : Qp) (rkey va len : Nat) : Option DevRegion :=
  s.est.regions.find? (fun x => x.rkey = rkey ∧ x.addr ≤ va ∧ va + len ≤ x.addr + x.size ∧ (x.qp = n ∨ q.role = 1))

/-- Operations on device regions are for reliable queue pairs of the service and data roles (R305, R311). -/
def Qp.takesRdma (q : Qp) : Bool := !q.error && !q.ud && q.role ≤ 1

/-- RDMA_WRITE_RECEIVED (R312): the bytes go into the region the rkey names, by the combining rules of its memory
(R248), or the operation receives a remote-access NAK. -/
def execRdmaWriteReceived (qp : BitVec 18) (rkey : BitVec 32) (va : BitVec 64) (data : List Byte) (ce : Bool) (s : State) :
    Host.Outcome State Fault Refusal :=
  .next (s.awake fun s => s.heard qp.toNat data.length (.rdmaWriteReceived qp rkey va data ce) fun s => match s.qp qp.toNat with
    | none => s
    | some q =>
      if !q.takesRdma ∨ s.est.closed ∨ !s.served va.toNat data.length then s
      else
        match s.devRegion qp.toNat q rkey.toNat va.toNat data.length with
        | none => ((s.ctxLook qp.toNat (max 1 (ceilDiv data.length q.mtu))).2.marked qp.toNat ce).emit (.nak qp.toNat 0)
        | some _ => (((s.received qp.toNat data.length).marked qp.toNat ce).engineWrite q.cls va.toNat data).2)

/-- RDMA_READ_REQUEST (R312). -/
def execRdmaReadRequest (qp : BitVec 18) (rkey : BitVec 32) (va : BitVec 64) (len : BitVec 32) (ce : Bool) (s : State) :
    Host.Outcome State Fault Refusal :=
  .next (s.awake fun s => s.heard qp.toNat 0 (.rdmaReadRequest qp rkey va len ce) fun s => match s.qp qp.toNat with
    | none => s
    | some q =>
      if !q.takesRdma ∨ s.est.closed ∨ !s.served va.toNat len.toNat then s
      else
        let s := ((s.ctxLook qp.toNat 1).2).marked qp.toNat ce
        match s.devRegion qp.toNat q rkey.toNat va.toNat len.toNat with
        | none => s.emit (.nak qp.toNat 0)
        | some _ =>
          match s.badIn va.toNat len.toNat with
          | some a => ((s.eccUncorr a).contained .estuary .eMemUncorr (some a)).emit (.nak qp.toNat 0)
          | none => ((s.reads q.cls va.toNat len.toNat).bump .estuary .estTxPkts 0 (max 1 (ceilDiv len.toNat q.mtu))).emit
            (.readData qp.toNat (s.bytes va.toNat len.toNat)))

/-! ### Transport events (R305, R319) -/

/-- ACK_TIMEOUT (R305): 4.096 µs times 2^ack_timeout after the oldest unacknowledged packet went out; go-back-N, up to retry_cnt
times. -/
def execAckTimeout (qp : BitVec 18) (s : State) : Host.Outcome State Fault Refusal :=
  .next (s.awake fun s => match s.qp qp.toNat with
    | none => s
    | some q =>
      if q.error ∨ q.unacked.isEmpty ∨ s.now.toNat < q.timer.toNat + 16384 * 2 ^ s.fld .estuary .estRetryCfg 0 4 0 then s
      else if s.fld .estuary .estRetryCfg 0 7 5 ≤ q.retries then s.qpError qp.toNat
      else (s.setQp qp.toNat (some { q with retries := q.retries + 1 })).resend qp.toNat)

/-- RNR_NAK_RECEIVED (R319): retried under the RNR rules; when the retries run out the queue pair enters ERROR. -/
def execRnrNakReceived (qp : BitVec 18) (s : State) : Host.Outcome State Fault Refusal :=
  .next (s.awake fun s => s.heard qp.toNat 0 (.rnrNakReceived qp) fun s => match s.qp qp.toNat with
    | none => s
    | some q =>
      if q.error ∨ q.unacked.isEmpty then s
      else
        let s := s.bump .estuary .estRnrNaks 0 1
        let n := s.fld .estuary .estRetryCfg 0 10 8
        if n ≠ 7 ∧ n ≤ q.rnrRetries then s.qpError qp.toNat
        else (s.setQp qp.toNat (some { q with rnrRetries := q.rnrRetries + 1 })).resend qp.toNat)

/-- Numbers the messages that stay after one is taken back, from a packet number on. -/
def renumber (psn : Nat) : List Sent → List Sent
  | [] => []
  | x :: r => { x with psn := psn } :: renumber ((psn + x.packets) % 2 ^ 24) r

/-- A message lies wholly at or before a packet number. -/
def Sent.before (x : Sent) (psn : Nat) : Bool := decide ((psn + 2 ^ 24 + 1 - (x.psn + x.packets) % 2 ^ 24) % 2 ^ 24 < 2 ^ 23)

/-- Messages a packet number acknowledges; a READ stays until its data has come. -/
def acked (l : List Sent) (psn : Nat) : List Sent :=
  l.filter (fun x => !x.before psn || (match x.what with
    | .read _ _ _ => true
    | _ => false))

/-- The response of a request whose result WRITE the host refused carries E_ADDR (R319). -/
def amend (req : Option Nat) (x : Sent) : Sent :=
  match x.what with
  | .send bs imm => if x.req = req ∧ req.isSome then { x with what := .send (bs.take 8 ++ [0x13] ++ bs.drop 9) imm } else x
  | _ => x

/-- The first message that is not wholly before a packet number. -/
def firstAt (l : List Sent) (psn : Nat) : Option Sent := l.find? (fun x => !x.before ((psn + 2 ^ 24 - 1) % 2 ^ 24))

/-- The host refused the message at a packet number (R312, R319). -/
def State.refusedAt (s : State) (n psn : Nat) : State :=
  match s.qp n with
  | none => s
  | some q =>
    let l := acked q.unacked ((psn + 2 ^ 24 - 1) % 2 ^ 24)
    match firstAt l psn with
    | none => s
    | some x =>
      let rest := (l.filter (fun y => y ≠ x)).map (fun y => if (match x.what with | .write _ _ _ => true | _ => false) then amend x.req y else y)
      let rest := renumber x.psn rest
      let s := s.setQp n (some { q with unacked := rest, sendPsn := (x.psn + (rest.map (·.packets)).sum) % 2 ^ 24 })
      match x.what, x.req with
      | .read _ _ _, some k => (s.resend n).refuse k .eAddr
      | .write _ _ _, _ =>
        let id := (rest.find? (fun y => y.req == x.req && (match y.what with | .send _ _ => true | _ => false))).map (fun y =>
          match y.what with
          | .send bs _ => leNat (bs.take 8)
          | _ => 0)
        (s.msgError n (BitVec.ofNat 64 (id.getD 0)) .eAddr 0 0 []).resend n
      | _, _ => s.resend n

/-- ACK_RECEIVED (R305). -/
def execAckReceived (qp : BitVec 18) (psn : BitVec 24) (kind : AckKind) (s : State) : Host.Outcome State Fault Refusal :=
  .next (s.awake fun s => s.heard qp.toNat 0 (.ackReceived qp psn kind) fun s => match s.qp qp.toNat with
    | none => s
    | some q =>
      if q.error ∨ q.ud then s
      else
        let q := { q with retries := 0, rnrRetries := 0, timer := s.now }
        match kind with
        | .ack => s.setQp qp.toNat (some { q with unacked := acked q.unacked psn.toNat })
        | .sequence =>
          (s.setQp qp.toNat (some { q with unacked := acked q.unacked ((psn.toNat + 2 ^ 24 - 1) % 2 ^ 24) })).resend qp.toNat
        | .access => s.refusedAt qp.toNat psn.toNat)

/-- CNP_RECEIVED (R305): the rate halves, down to min_rate. -/
def execCnpReceived (qp : BitVec 18) (s : State) : Host.Outcome State Fault Refusal :=
  .next (s.awake fun s => s.heard qp.toNat 0 (.cnpReceived qp) fun s => match s.qp qp.toNat with
    | none => s
    | some q =>
      let low := s.fld .estuary .estCcCfg 0 55 48 * 10
      (s.setQp qp.toNat (some { q with rate := max (q.rate / 2) (min low 4000), notified := s.now })).bump .estuary .estCnpReceived 0 1)

/-- RATE_INCREASE (R305): an increase_period without a notification raises the rate by rate_ai, up to line rate. -/
def execRateIncrease (qp : BitVec 18) (s : State) : Host.Outcome State Fault Refusal :=
  .next (s.awake fun s => match s.qp qp.toNat with
    | none => s
    | some q =>
      if s.now.toNat < q.notified.toNat + s.fld .estuary .estCcCfg 0 47 32 * 4000 then s
      else s.setQp qp.toNat (some { q with rate := min 4000 (q.rate + s.fld .estuary .estCcCfg 0 31 16), notified := s.now }))

/-! ### Ports (R305, R306, R308, R310, R326, R327) -/

/-- The link of a port is up. -/
def State.linkUp (s : State) (p : Fin 4) : Bool := bit1 (s.rd .estuary .estStat 0) p.val

/-- The MAC address of a port, from the manufacturing record (R305, R423). -/
def macOf (p : Nat) : Nat := leNat ((List.range 6).map (fun i => Config.partByte (6 * p + i)))

/-- NEIGHBOUR_REQUEST (R305): an ARP request for the port's IPv4 address, or a neighbour solicitation for its IPv6
address, is answered with the port's MAC address. -/
def execNeighbourRequest (p : Fin 4) (v6 : Bool) (hi lo : Word) (s : State) : Host.Outcome State Fault Refusal :=
  .next (s.awake fun s =>
    let cfg := (FMap.get none s.est.ports p.val).getD (s.rd .estuary .estPortCfg p.val)
    let v4 := s.rd .estuary .estPortIpv4 p.val
    let mine : Bool := if v6 then bit1 cfg 20 && s.rd .estuary .estPortIpv6Hi p.val == hi && s.rd .estuary .estPortIpv6Lo p.val == lo
      else bit1 v4 32 && bits v4 31 0 == lo.toNat
    if s.linkUp p && mine then s.emit (.neighbour p.val (macOf p.val)) else s)

/-- ETH_LINK_UP (R326): the port takes its configuration; one that failed a test stays down (R450, R451). -/
def execEthLinkUp (p : Fin 4) (s : State) : Host.Outcome State Fault Refusal :=
  .next (s.awake fun s => if s.linkUp p ∨ !bit1 (s.rd .estuary .estPortCfg p.val) 0 ∨ s.sys.deadPorts.contains p.val then s
    else
      let s := { s with est := { s.est with ports := FMap.set none s.est.ports p.val (some (s.rd .estuary .estPortCfg p.val)) } }
      (s.setFld .estuary .estStat 0 p.val p.val 1).event .estuary 1)

/-- The link of a port goes down (R327). -/
def State.ethDown (s : State) (p : Fin 4) : State :=
  if s.linkUp p then
    let s := { s with est := { s.est with paused := FMap.set 0 s.est.paused p.val 0 } }
    (s.setFld .estuary .estStat 0 p.val p.val 0).event .estuary 0
  else s

/-- ETH_LINK_DOWN (R327). -/
def execEthLinkDown (p : Fin 4) (s : State) : Host.Outcome State Fault Refusal := .next (s.awake fun s => s.ethDown p)

/-- PFC_PAUSE_RECEIVED (R305): a pause on a priority in pfc_rx_mask, or its end. -/
def execPfcPauseReceived (p : Fin 4) (prio : Fin 8) (on : Bool) (s : State) : Host.Outcome State Fault Refusal :=
  .next (s.awake fun s =>
    let cfg := (FMap.get none s.est.ports p.val).getD (s.rd .estuary .estPortCfg p.val)
    let m := FMap.get 0 s.est.paused p.val
    let bit := 2 ^ prio.val
    if bit1 cfg (4 + prio.val) then
      { s with est := { s.est with paused := FMap.set 0 s.est.paused p.val (if on then m ||| bit else m - (m &&& bit)) } }
    else s)

/-- FRAME_DROPPED (R305, R310). -/
def execFrameDropped (_p : Fin 4) (s : State) : Host.Outcome State Fault Refusal := .next (s.awake fun s => s.bump .estuary .estDropped 0 1)

/-- PTP_EVENT_MESSAGE (R306): every event message is timestamped at its port, in both directions. -/
def execPtpEventMessage (p : Fin 4) (rx : Bool) (s : State) : Host.Outcome State Fault Refusal :=
  .next (s.awake fun s => if s.linkUp p then { s with est := { s.est with ptp := s.est.ptp ++ [(p.val, rx, s.now)] } } else s)

/-- SET_MGMT_QP (R310, R433): queue pair 1 is set up; its start PSN is returned. -/
def execSetMgmtQp (p : Fin 4) (ip : BitVec 128) (qpn psn : BitVec 24) (s : State) : Host.Outcome State Fault Refusal :=
  .next (
    if !s.standby then s
    else if s.sys.dry || s.sys.failed then s.emit (.mctp 3 .eState [])
    else
      let (w, s) := s.draw
      (s.setQp 1 (some { role := 0, port := p.val, mgmt := true, peerQpn := qpn.toNat, peerIp := ip.toNat, recvPsn := psn.toNat,
                         sendPsn := w.toNat % 2 ^ 24 })).emit (.mctp 3 .ok (leBytes (w.toNat % 2 ^ 24) 3)))

/-- A write of a port register (R326): ignored while the link is up unless only enable changes; clearing enable takes
the port out of service. -/
def State.estPortWrite (s : State) (r : RegName) (p : Fin 4) (v : Word) : State :=
  let old := s.rd .estuary r p.val
  let new := (old &&& ~~~ r.mask .rw) ||| (v &&& r.mask .rw)
  if new = old then s
  else if !s.linkUp p then s.wr .estuary r p.val new
  else
    let s := if r = .estPortCfg ∧ bits new 63 1 = bits old 63 1 then s.wr .estuary r p.val new else s.ignore .estuary
    if bit1 (s.rd .estuary .estPortCfg p.val) 0 then s else s.ethDown p

end Sys2Proof.Machine
end

