-- ==== Sys2Proof/Machine/Recurrent.lean ====
section
/-! DEFINITION. Recurrent operators: RSTEP with its checks, the long convolution with its masked passes, the gated cell,
the boundary rounding, the carried state and the drift summary (R169 to R191). -/

namespace Sys2Proof.Machine

/-- The fields of an RSTEP (R82), shapes already plus one, Ledge offsets in bytes. -/
structure Rs where
  act : Nat
  wt : Nat
  out : Nat
  array : Nat
  accMode : Nat
  keep : Bool
  bank : Nat
  bankExpect : Bool
  transposed : Bool
  m : Nat
  n : Nat
  k : Nat
  aF : Nat
  wF : Nat
  oF : Nat
  actStride : Nat
  outStride : Nat
  unit : Nat
  chunk : Nat
  gated : Bool
  gates : Nat
  reset : Option Nat
  deriving DecidableEq, Repr

/-- The RSTEP fields of an instruction (R82). -/
def Rs.of (i : Ins) : Rs :=
  { act := bits i.w1 17 0 * 64, wt := bits i.w1 35 18 * 64, out := bits i.w1 53 36 * 64, array := bits i.w1 54 54,
    accMode := bits i.w1 56 55, keep := bit1 i.w1 57, bank := bits i.w1 58 58, bankExpect := bit1 i.w1 59,
    transposed := bit1 i.w1 60, m := bits i.w2 15 0 + 1, n := bits i.w2 29 16 + 1, k := bits i.w2 45 30 + 1,
    aF := bits i.w2 49 46, wF := bits i.w2 53 50, oF := bits i.w2 57 54,
    actStride := bits i.w3 15 0 * 64, outStride := bits i.w3 31 16 * 64, unit := bits i.w3 37 32,
    chunk := bits i.w3 39 38, gated := bit1 i.w3 40, gates := bits i.w3 42 41 + 1,
    reset := if bits i.w3 60 43 = 0x3FFFF then none else some (bits i.w3 60 43 * 64) }

/-- The formats of an RSTEP, where they are listed. -/
def Rs.fa (x : Rs) : Fmt := (Fmt.ofCode x.aF).getD .fp32
def Rs.fw (x : Rs) : Fmt := (Fmt.ofCode x.wF).getD .fp32
def Rs.fo (x : Rs) : Fmt := (Fmt.ofCode x.oF).getD .fp32
/-- The kind of the operand pair. -/
def Rs.kind (x : Rs) : PairKind := (pairKind x.fa x.fw).getD .fp
/-- Units of a working tile (R67). -/
def Rs.u (x : Rs) : Nat := if x.kind = .exact then 3 else 1
/-- q: the chunk in blocks of 64 positions (R169, R173). -/
def Rs.q (x : Rs) : Nat := match x.chunk with | 0 => 1 | 1 => 2 | _ => 4
/-- L: positions of a chunk (R173). -/
def Rs.len (x : Rs) : Nat := 64 * x.q
/-- State columns of a row: 64, or C_h (R172). -/
def Rs.cols (x : Rs) : Nat := if x.gated then x.n else 64
/-- A gated cell of four gates, which carries c beside h (R172). -/
def Rs.hasC (x : Rs) : Bool := x.gated && x.gates == 4
/-- Row tiles of the planned M. -/
def Rs.mt (x : Rs) : Nat := ceilDiv x.m 64
/-- Units of the carried state (R178). -/
def Rs.su (x : Rs) : Nat := if x.hasC then 2 * x.mt else x.mt
/-- Units from state_unit to the last working tile: the state, the gap to the first unit at which an X96 tile may
start, and the working tiles (R178). -/
def Rs.footprint (x : Rs) : Nat :=
  let first := ceilDiv (x.unit + x.su) 3 * 3
  first - x.unit + (if x.gated then x.mt * x.u else x.mt * (x.q + 1) * x.u)

/-- Bytes of the planned input region, after which the input state image lies (R172). -/
def Rs.inBytes (x : Rs) : Nat := (if x.gated then x.k * x.m else x.m) * x.actStride
/-- Bytes of the planned output region, after which the output state image lies (R172). -/
def Rs.outBytes (x : Rs) : Nat := (if x.gated then x.k * x.m else x.m) * x.outStride
/-- Bytes of a padded row of a state image (R172). -/
def Rs.imageRow (x : Rs) : Nat := ceilDiv (x.fa.rowBytes x.cols) 64 * 64
/-- Bytes of a state image (R172). -/
def Rs.imageBytes (x : Rs) : Nat := x.imageRow * x.m * (if x.hasC then 2 else 1)
/-- Elements of an input row (R171). -/
def Rs.inRow (x : Rs) : Nat := if x.gated then x.gates * x.n else x.k
/-- Elements of an output row (R171). -/
def Rs.outRow (x : Rs) : Nat := if x.gated then x.n else x.k
/-- Bytes of the weights (R169). -/
def Rs.wtBytes (x : Rs) : Nat := blockBytes x.fa x.fw * (if x.gated then 1 else (x.q + 1) * (x.q + 1))
/-- Bytes of the planned reset mask (R180). -/
def Rs.maskBytes (x : Rs) : Nat := 8 * x.k * x.mt

/-- Load cycles and swap lag of an operand pair (R59). -/
def loadLag (a w : Fmt) : Nat × Nat :=
  match a, w with
  | .int8, .int4 => (32, 4)
  | .e2m1, _ => (68, 2)
  | .bf16, _ | .fp16, _ => (128, 1)
  | .fp32, _ => (256, 0)
  | _, _ => (64, 2)

/-- Cycles a position's rows take to enter: M / r rounded up, 2M in FP32 (R179). -/
def streamCycles (a : Fmt) (rows : Nat) : Nat :=
  match a with
  | .fp32 => 2 * rows
  | .bf16 | .fp16 => ceilDiv rows 2
  | _ => ceilDiv rows 4

/-- Functions per channel (R177). -/
def gateFns (g : Nat) : Nat := if g = 4 then 5 else g

/-- The planned chunk time (R179). -/
def Rs.chunkTime (x : Rs) : Nat :=
  let c := streamCycles x.fa x.m
  if x.gated then x.len * (c + 40 + ceilDiv (x.m * x.n * gateFns x.gates) 256) + 16 * x.su
  else
    let w := max c ((loadLag x.fa x.fw).1 + (loadLag x.fa x.fw).2)
    (x.q * (x.q + 1) / 2 + 2 * x.q + 1) * w + 36 + 16 * x.su +
      (if x.reset.isSome then (x.q * (x.q + 1) / 2 + x.q) * w + 36 else 0)

/-! ### Checks (R95, R169, R172, R178 to R180) -/

/-- Check 1: E_FORMAT. -/
def rsFormatOk (i : Ins) (x : Rs) : Bool :=
  i.rnd.isSome && bits i.w0 63 61 = 0 && axisOk opRstep i.lenAxis && !bit1 i.w1 63 && bits i.w2 63 58 = 0 &&
  bits i.w3 63 61 = 0 && x.accMode ≠ 3 && x.chunk ≠ 3 &&
  (Fmt.ofCode x.aF).isSome && (Fmt.ofCode x.wF).isSome && (Fmt.ofCode x.oF).isSome &&
  (pairKind x.fa x.fw).isSome && x.fo ≠ .x96 &&
  !(x.fa.packed && x.inRow % 2 = 1) && !(x.fo.packed && x.outRow % 2 = 1)

/-- Check 3: E_SHAPE. -/
def rsShapeOk (x : Rs) (k : Nat) : Bool :=
  (if x.gated then (x.n = 16 || x.n = 32 || x.n = 64) && x.gates * x.n ≤ 64 else x.n = 64 && x.gates = 1) &&
  (x.kind ≠ .e2m1 || (if x.gated then x.n % 32 = 0 else x.k % 32 = 0 && k % 32 = 0)) &&
  x.footprint ≤ 48 && x.chunkTime ≤ 4060

/-- Bytes from the start of the planned input region to the end of its state image, or of its last row where the rows
overlap (R88, R172). -/
def Rs.inSpan (x : Rs) : Nat :=
  max (x.inBytes + x.imageBytes) ((if x.gated then x.k * x.m - 1 else x.m - 1) * x.actStride + x.fa.rowBytes x.inRow)
/-- The same of the output region. -/
def Rs.outSpan (x : Rs) : Nat :=
  max (x.outBytes + x.imageBytes) ((if x.gated then x.k * x.m - 1 else x.m - 1) * x.outStride + x.fo.rowBytes x.outRow)

/-- Two byte ranges share a byte. -/
def rangesTouch (a n b m : Nat) : Bool := n ≠ 0 && m ≠ 0 && a < b + m && b < a + n

/-- Check 4: E_ADDR. -/
def State.rsAddrOk (s : State) (c : Fin 36) (x : Rs) : Bool :=
  inLedge x.act x.inSpan && inLedge x.out x.outSpan && inLedge x.wt x.wtBytes &&
  !rangesTouch x.act x.inSpan x.out x.outSpan &&
  (match x.reset with | some a => inLedge a x.maskBytes | none => true) &&
  (!bit1 (s.rd (.recurrent c) .driftLog 0) 18 ||
    inLedge (64 * s.fld (.recurrent c) .driftLog 0 17 0) (4 * x.m))

/-- The carried state a CONTINUE takes (R178). -/
def Core.carriedMatch (k : Core) (q : Nat) (x : Rs) : Option Carried :=
  (k.arr x.array).carried.find? (fun t =>
    t.queue = q ∧ t.gated = x.gated ∧ t.unit = x.unit ∧ t.su = x.su ∧ t.fmt = x.aF)

/-- The bank an RSTEP names is loading the block it expects (R61). -/
def Core.rsBankWait (k : Core) (x : Rs) : Bool :=
  x.bankExpect && ((k.arr x.array).bank x.bank).state == .loading &&
  ((k.arr x.array).bank x.bank).tag == some ⟨x.wt, x.wF, x.transposed, blockK x.fa x.fw⟩

/-- Check 5: E_STATE. -/
def State.rsStateOk (s : State) (c : Fin 36) (q : Nat) (x : Rs) : Bool :=
  let kc := s.core c
  let b := (s.banksSoon c q x.array).bank x.bank
  let mine := if x.accMode = 1 then (kc.carriedMatch q x).elim [] Carried.span else []
  let held := (kc.heldUnits x.array q).filter (fun u => !mine.contains u)
  (!x.bankExpect || ((b.state == .ready || b.state == .active) &&
    b.tag == some ⟨x.wt, x.wF, x.transposed, blockK x.fa x.fw⟩)) &&
  (x.accMode ≠ 1 || (kc.carriedMatch q x).isSome) &&
  x.unit + x.footprint ≤ 48 && held.all (fun u => u < x.unit || x.unit + x.footprint ≤ u)

/-- The checks of R95 for an RSTEP in their order. -/
def State.rsCheck (s : State) (c : Fin 36) (q : Nat) (i : Ins) : Status :=
  let x := Rs.of i
  if !rsFormatOk i x then .eFormat
  else
    let l := s.lenCheck c q i (if i.lenAxis = 1 then x.m else x.k)
    if l ≠ .ok then l
    else if s.lenZero c q i then .ok
    else firstFail [check (rsShapeOk x (s.extent c q i 3 x.k)) .eShape, check (s.rsAddrOk c x) .eAddr,
      check (s.rsStateOk c q x) .eState]

/-- What an RSTEP can touch (R88, R184). -/
def State.rsTouch (s : State) (c : Fin 36) (i : Ins) : Touch :=
  let x := Rs.of i
  let dl := s.rd (.recurrent c) .driftLog 0
  { rd := [(ledgeAt c x.act, x.inSpan), (ledgeAt c x.wt, x.wtBytes)] ++
      (match x.reset with | some a => [(ledgeAt c a, x.maskBytes)] | none => [])
    wr := [(ledgeAt c x.out, x.outSpan)] ++
      (if bit1 dl 18 then [(ledgeAt c (64 * bits dl 17 0), 4 * x.m)] else [])
    units := (List.range x.footprint).map (· + x.unit + 48 * x.array)
    scs := if bit1 (s.rd (.recurrent c) .recurCtrl 0) 2 then [s.fld (.recurrent c) .recurCtrl 0 6 3] else []
    slots := if i.lenAxis ≠ 0 then [i.lenSlot] else [] }

/-! ### What one RSTEP computes -/

/-- The rounding of the boundary: the instruction's, or RNE, or SR (R174). -/
def stateRnd (code : Nat) (rnd : Rnd) : Rnd := if code = 1 then .rne else if code = 2 then .sr else rnd

/-- The inputs of an RSTEP fixed at its issue. -/
structure RsIn where
  core : Fin 36
  x : Rs
  sr : SrIn
  /-- The boundary rounding mode (R174). -/
  state : Rnd
  /-- The runtime M and K (R90). -/
  m : Nat
  k : Nat
  /-- The weight block that is loaded once: a gated cell's, or block (0, 0) expected in its bank (R61, R169). -/
  block0 : List Byte
  deriving DecidableEq, Repr

/-- SR inputs with the logical index base + 64 * (first + row) + column of points 9 to 11 (R173, R177). -/
def RsIn.srAt (v : RsIn) (rnd : Rnd) (first : Nat) : SrIn :=
  { v.sr with rnd := rnd, base := v.sr.base + 64 * first, rowLen := 64 }

/-- The reset bit of position p and row r (R180). -/
def State.rsReset (s : State) (v : RsIn) (p r : Nat) : Bool :=
  match v.x.reset with
  | none => false
  | some a => bit1 (s.word (ledgeAt v.core (a + 8 * (p * v.x.mt + r / 64)))) (r % 64)

/-- The chunk positions of a row's resets, of a chunk of n positions from position p0 on. -/
def State.rsResets (s : State) (v : RsIn) (p0 n r : Nat) : List Nat :=
  (List.range n).filter (fun p => s.rsReset v (p0 + p) r)

/-- Address of weight block (kb, nb) of an operator (R82, R169). -/
def Rs.blockAddr (x : Rs) (kb nb : Nat) : Nat := x.wt + (nb * (x.q + 1) + kb) * blockBytes x.fa x.fw

/-- The bytes of weight block (kb, nb) of the operator in chunk j: the snapshot of the bank for the first visit of a block expected
there, else the Ledge (R61, R176). -/
def State.rsBlock (s : State) (v : RsIn) (j kb nb : Nat) : List Byte :=
  let x := v.x
  if x.bankExpect ∧ j = 0 ∧ kb = 0 ∧ nb = 0 then v.block0
  else s.bytes (ledgeAt v.core (x.blockAddr kb nb)) (blockBytes x.fa x.fw)

/-- Blocks a pass visits for output block nb: the main pass of a chunk of n positions, or a masked pass from block j
on, which leaves the state row out (R176, R182). -/
def Rs.visited (x : Rs) (n j : Nat) (masked : Bool) (nb : Nat) : List Nat :=
  (List.range (x.q + 1)).filter (fun kb =>
    (kb = x.q || nb = x.q || kb ≤ nb) && j ≤ kb && !(masked && kb = x.q) && (kb = x.q || 64 * kb < n))

/-- The blocks a pass visits, in order: visits into the state row come last (R176, R182). -/
def Rs.visitSeq (x : Rs) (n j : Nat) (masked : Bool) : List (Nat × Nat) :=
  let of (keep : Nat → Bool) : List (Nat × Nat) := (List.range (x.q + 1)).flatMap (fun nb =>
    if masked && nb < j then [] else ((x.visited n j masked nb).filter keep).map (fun kb => (kb, nb)))
  of (· ≠ x.q) ++ of (· = x.q)

/-- One output element of a long convolution: columns 0 to L - 1 are y and the last 64 the new state (R176). `pos` and
`st` are the row's positions and state as the feeder gives them; positions past the chunk's end add nothing (R91). -/
def RsIn.convElem (v : RsIn) (blocks : Nat → Nat → List Byte) (n j : Nat) (masked : Bool) (pos st : List FVal) (col : Nat) :
    BitVec 96 :=
  let x := v.x
  accumulate x.kind 0 ((x.visited n j masked (col / 64)).map (fun kb =>
    (List.range (if kb = x.q then 64 else min 64 (n - 64 * kb))).map (fun r =>
      let a := if kb = x.q then st.getD r FVal.zero else pos.getD (64 * kb + r) FVal.zero
      a.mul (blockElem x.fw (blockK x.fa x.fw) x.transposed (blocks kb (col / 64)) r (col % 64)))))

/-- What a chunk leaves: its outputs and carried state in exact form, whether an exact element saturated, and the
masked passes and resets it took. -/
structure ChunkOut where
  y : Mat
  h : Mat
  c : Mat
  sat : Bool := false
  masked : Nat := 0
  resets : Nat := 0
  /-- The weight blocks it visited and the groups that entered (R74, R176). -/
  blocks : List (Nat × Nat) := []
  groups : Nat := 0
  deriving Repr

/-- One chunk of a long convolution from position p0, n positions (R176, R180, R182). -/
def State.convChunk (s : State) (v : RsIn) (p0 n : Nat) (h : Mat) : ChunkOut :=
  let x := v.x
  let rst := (List.range v.m).map (s.rsResets v p0 n)
  let mids := rst.map (fun l => (l.filter (0 < ·)).head?)
  let first := (mids.filterMap id).min?
  let j := (first.getD 0) / 64
  let accs := (List.range v.m).map (fun r =>
    let row := decodeSpan x.fa (s.bytes (ledgeAt v.core (x.act + r * x.actStride)) (x.fa.rowBytes x.k)) x.k p0 n
    let st := if (rst.getD r []).contains 0 then [] else h.getD r []
    let blk := s.rsBlock v (p0 / x.len)
    let main := (List.range (x.len + 64)).map (v.convElem blk n 0 false row st)
    match mids.getD r none with
    | none => main
    | some p =>
      let row' := row.zipIdx.map (fun (e, i) => if i < p then FVal.zero else e)
      let again := (List.range (x.len + 64)).map (v.convElem blk n j true row' [])
      main.take p ++ again.drop p)
  { y := accs.map (fun a => (a.take n).map (accVal x.kind))
    h := accs.map (fun a => (a.drop x.len).map (accVal x.kind))
    c := []
    sat := x.kind == .exact && accs.any (·.any (fun e => 8 ≤ X96.flags e))
    masked := if first.isSome then 1 else 0
    resets := rst.foldl (fun t l => t + l.length) 0
    blocks := x.visitSeq n 0 false ++ (if first.isSome then x.visitSeq n j true else [])
    groups := (x.visitSeq n 0 false).length * ceilDiv v.m (rowsPerGroup x.fa) +
      (if first.isSome then (x.visitSeq n j true).length * ceilDiv (mids.filterMap id).length (rowsPerGroup x.fa) else 0) }

/-- The cell update of one channel from its gates z, the carried h and c: the new h and c (R177). -/
def cellUpdate (g : Nat) (z : Nat → FVal) (h c : FVal) : FVal × FVal :=
  let one := f32 0x3F800000
  let mul (a b : FVal) := (a.mul b).rne
  let add (a b : FVal) := (a.add b).rne
  match g with
  | 1 => (fnTanh (z 0), c)
  | 2 =>
    let f := fnSigmoid (z 0)
    (add (mul f h) (mul (one.sub f).rne (fnTanh (z 1))), c)
  | 3 =>
    let f := fnSigmoid (z 0)
    let i := fnSigmoid (z 1)
    (add (mul f h) (mul i (fnTanh (z 2))), c)
  | _ =>
    let f := fnSigmoid (z 0)
    let i := fnSigmoid (z 1)
    let o := fnSigmoid (z 2)
    let c := add (mul f c) (mul i (fnTanh (z 3)))
    (mul o (fnTanh c), c)

/-- The accumulator of a gate in FP32: an exact one is rounded once by the instruction's mode (R51, R54, R174). Under SR the element's
random value is free: the rules give no logical index for U·h (notes/assumptions/22.md). -/
def RsIn.gateSum (v : RsIn) (p r col : Nat) (acc : BitVec 96) : FVal :=
  let u := if v.sr.rnd = .sr then (Config.gateRandom v.sr.seed v.sr.step v.sr.tag (((p * 65536) + r) * 64 + col)).toNat else 0
  match v.x.kind with
  | .exact => (X96.val acc).round .fp32 v.sr.rnd false u
  | _ => f32 (acc.setWidth 32)

/-- One position of a gated cell at position p: y, the new h and c, and the fed copy for the next position (R177,
R181). -/
def State.cellStep (s : State) (v : RsIn) (p : Nat) (h c fed : Mat) : Mat × Mat × Mat × Bool :=
  let x := v.x
  let blk := v.block0
  let rows := (List.range v.m).map (fun r =>
    let zero := s.rsReset v p r
    let hr := if zero then [] else h.getD r []
    let cr := if zero then [] else c.getD r []
    let fr := if zero then [] else fed.getD r []
    let pr := decodeRow x.fa (s.bytes (ledgeAt v.core (x.act + (p * x.m + r) * x.actStride)) (x.fa.rowBytes x.inRow)) x.inRow
    let acc (col : Nat) : BitVec 96 := accumulate x.kind 0 [(List.range x.n).map (fun k =>
      (fr.getD k FVal.zero).mul (blockElem x.fw (blockK x.fa x.fw) x.transposed blk k col))]
    let z (ch g : Nat) : FVal :=
      ((pr.getD (g * x.n + ch) FVal.zero).add (v.gateSum p r (g * x.n + ch) (acc (g * x.n + ch)))).rne
    ((List.range x.n).map (fun ch => cellUpdate x.gates (z ch) (hr.getD ch FVal.zero) (cr.getD ch FVal.zero)),
     (List.range (x.gates * x.n)).any (fun col => x.kind == .exact && decide (8 ≤ X96.flags (acc col)))))
  let h' := rows.map (fun r => r.1.map (·.1))
  let c' := rows.map (fun r => r.1.map (·.2))
  (h', c', Mat.roundTo h' x.fa (v.srAt v.sr.rnd (p * v.m)) 10, rows.any (·.2))

/-- One chunk of a gated cell: position by position (R177). -/
def State.cellRun (s : State) (v : RsIn) : Nat → Nat → Mat → Mat → Mat → ChunkOut → ChunkOut
  | 0, _, h, c, _, o => { o with h := h, c := c }
  | n + 1, p, h, c, fed, o =>
    let (h', c', fed', sat) := s.cellStep v p h c fed
    s.cellRun v n (p + 1) h' c' fed'
      { o with y := o.y ++ h', sat := o.sat || sat
               resets := o.resets + ((List.range v.m).filter (s.rsReset v p)).length
               groups := o.groups + ceilDiv v.m (rowsPerGroup v.x.fa) }

/-- One chunk from position p0. -/
def State.rsChunk (s : State) (v : RsIn) (p0 n : Nat) (h c : Mat) : ChunkOut :=
  if v.x.gated then s.cellRun v n p0 h c h { y := [], h := [], c := [], blocks := if p0 = 0 then [(0, 0)] else [] }
  else s.convChunk v p0 n h

/-- Writes the outputs of a chunk (R171, R176, R177). -/
def State.rsWriteY (s : State) (v : RsIn) (p0 : Nat) (y : Mat) : State :=
  let x := v.x
  if x.gated then
    y.zipIdx.foldl (fun (s : State) (r, i) =>
      let p := p0 + i / v.m
      let a := ledgeAt v.core (x.out + (p * x.m + i % v.m) * x.outStride)
      s.store a (encodeRow x.fo v.sr 0 (p * v.m + i % v.m) (s.bytes a (x.fo.rowBytes r.length)) r)) s
  else
    y.zipIdx.foldl (fun (s : State) (r, i) =>
      -- positions p0 on of row i; the whole row is re-encoded from the values already there for a packed format
      let a := ledgeAt v.core (x.out + i * x.outStride)
      let at0 : SrIn := { v.sr with base := v.sr.base + p0 }
      let first := p0 * x.fo.width / 8
      let bs := encodeRow x.fo at0 0 i (s.bytes (a + first) (ceilDiv (r.length * x.fo.width) 8)) r
      if x.fo = .e2m1 then
        let n := ceilDiv (r.length * 4) 8
        (s.store (a + first) (bs.take n)).store (a + ceilDiv x.k 2 + p0 / 32) (bs.drop n)
      else s.store (a + first) bs) s

/-- The state a chunk hands on, rounded at its boundary (R173, R174). -/
def RsIn.boundary (v : RsIn) (j : Nat) (point : Nat) (m : Mat) : Mat :=
  Mat.roundTo m v.x.fa (v.srAt v.state (j * v.m)) point

/-- The per-row sums of the drift summary (R184). -/
def driftRows (h c : Mat) : List FVal :=
  h.zipIdx.map (fun (r, i) => (exactSum (squares (r ++ c.getD i []))).rne)

/-- What a run of the chunks leaves. -/
structure RsOut where
  s : State
  h : Mat
  c : Mat
  done : Nat := 0
  status : Status := .ok
  drift : FVal := .fin false 0 0
  rows : List FVal := []
  /-- What each chunk counts when it is committed, and the blocks visited. -/
  notes : List RsNote := []
  blocks : List (Nat × Nat) := []

/-- An uncorrectable word of a chunk's reset mask, which is read as the chunk starts (R180, R239). -/
def State.rsMaskBad (s : State) (v : RsIn) (p0 n : Nat) : Bool :=
  match v.x.reset with
  | some a => (s.badIn (ledgeAt v.core (a + 8 * p0 * v.x.mt)) (8 * n * v.x.mt)).isSome
  | none => false

/-- The weight blocks a chunk reads from the Ledge: those its passes visit, but for a block expected in its bank at its first visit, and a
gated cell's only once (R61, R169, R176). -/
def State.rsReads (s : State) (v : RsIn) (p0 n : Nat) : List (Nat × Nat) :=
  let x := v.x
  if x.gated then (if p0 = 0 ∧ !x.bankExpect then [(0, 0)] else [])
  else
    let mid := (List.range v.m).any (fun r => ((s.rsResets v p0 n r).filter (0 < ·)) ≠ [])
    (x.visitSeq n 0 false).filter (fun b => !(x.bankExpect && p0 == 0 && b == (0, 0) && !mid))

/-- An uncorrectable word that a chunk reads, its mask apart (R239). -/
def State.rsBad (s : State) (v : RsIn) (p0 n : Nat) : Bool :=
  let x := v.x
  let rowBad (a b : Nat) : Bool := (s.badIn (ledgeAt v.core a) b).isSome
  let inBad := if x.gated then
      (List.range n).any (fun p => (List.range v.m).any (fun r =>
        rowBad (x.act + ((p0 + p) * x.m + r) * x.actStride) (x.fa.rowBytes x.inRow)))
    else (List.range v.m).any (fun r => s.rowPartBad v.core x.fa (x.act + r * x.actStride) x.k p0 n)
  inBad || (s.rsReads v p0 n).any (fun b => rowBad (x.blockAddr b.1 b.2) (blockBytes x.fa x.fw)) ||
  (p0 = 0 && x.accMode = 2 && rowBad (x.act + x.inBytes) x.imageBytes)

/-- The chunks one after another (R173): a second mid-chunk reset of a row ends it (R183). -/
def State.rsRun (s : State) (v : RsIn) : Nat → Nat → RsOut → RsOut
  | 0, _, o => { o with s := s }
  | fuel + 1, j, o =>
    let x := v.x
    let p0 := j * x.len
    if v.k ≤ p0 then { o with s := s }
    else
      let n := min x.len (v.k - p0)
      if s.rsMaskBad v p0 n then { o with s := s, status := .eMemUncorr }
      else if !x.gated && (List.range v.m).any (fun r => 2 ≤ ((s.rsResets v p0 n r).filter (0 < ·)).length) then
        { o with s := s, status := .eShape }
      else if s.rsBad v p0 n then { o with s := s, status := .eMemUncorr }
      else
        let ch := s.rsChunk v p0 n o.h o.c
        if ch.sat then { o with s := s, status := .eSat }
        else
          let h := v.boundary j 9 ch.h
          let c := if x.hasC then v.boundary j 11 ch.c else []
          let rows := driftRows h c
          (s.rsWriteY v p0 ch.y).rsRun v fuel (j + 1)
            { o with h := h, c := c, done := j + 1, rows := rows
                     drift := rows.foldl FVal.max o.drift
                     notes := o.notes ++ [{ masked := ch.masked, resets := ch.resets, groups := ch.groups,
                                            nan := h.any (·.any FVal.isNan) || c.any (·.any FVal.isNan),
                                            drift := rne32 (rows.foldl FVal.max (.fin false 0 0)) }]
                     blocks := o.blocks ++ ch.blocks }

/-- Some rows of the state image at an address: h and, for four gates, c (R172). -/
def State.readImage (s : State) (v : RsIn) (m a : Nat) : Mat × Mat :=
  let x := v.x
  let rows (b : Nat) : Mat := s.readRows x.fa (ledgeAt v.core b) x.imageRow m x.cols
  (rows a, if x.hasC then rows (a + x.m * x.imageRow) else [])

/-- Writes a state image; its values are representable in a_fmt, so nothing is rounded (R172, R178). -/
def State.writeImage (s : State) (v : RsIn) (a : Nat) (h c : Mat) : State :=
  let x := v.x
  let sr := { v.sr with rnd := Rnd.rne }
  let s := s.writeRows x.fa sr 9 (ledgeAt v.core a) x.imageRow h
  if x.hasC then s.writeRows x.fa sr 11 (ledgeAt v.core (a + x.m * x.imageRow)) x.imageRow c else s

/-- A matrix as FP32 patterns from a key on (R178). -/
def packMat (first : Nat) (m : Mat) (t : FMap (BitVec 32)) : FMap (BitVec 32) :=
  m.zipIdx.foldl (fun t (r, i) => r.zipIdx.foldl (fun t (v, j) => FMap.set 0 t (first + 64 * i + j) (rne32 v)) t) t

/-- Rows of FP32 patterns from a key on. -/
def unpackMat (first rows cols : Nat) (t : FMap (BitVec 32)) : Mat :=
  Mat.build rows cols (fun i j => f32 (FMap.get 0 t (first + 64 * i + j)))

/-- Where the c values of carried state begin. -/
def carriedC : Nat := 64 * 65536

/-- The state that enters the first chunk (R178). -/
def State.rsEnter (s : State) (q : Nat) (v : RsIn) : Mat × Mat :=
  let x := v.x
  match x.accMode with
  | 1 => match (s.core v.core).carriedMatch q x with
    | some t => (unpackMat 0 v.m x.cols t.vals, if x.hasC then unpackMat carriedC v.m x.cols t.vals else [])
    | none => ([], [])
  | 2 => s.readImage v v.m (x.act + x.inBytes)
  | _ => (Mat.build v.m x.cols (fun _ _ => FVal.zero), if x.hasC then Mat.build v.m x.cols (fun _ _ => FVal.zero) else [])

/-- What the state units hold as the RSTEP enters them: the rows beyond its runtime M stand as they were (R91, R178). -/
def State.rsBase (s : State) (q : Nat) (v : RsIn) : FMap (BitVec 32) :=
  let x := v.x
  match x.accMode with
  | 1 => ((s.core v.core).carriedMatch q x).elim [] (·.vals)
  | 2 =>
    let (h, c) := s.readImage v x.m (x.act + x.inBytes)
    packMat carriedC c (packMat 0 h [])
  | _ => []

/-- The weight block a product finds loaded: the one expected in its bank, or a gated cell's, read once (R61, R169). -/
def State.rsBlock0 (s : State) (c : Fin 36) (q : Nat) (x : Rs) : List Byte :=
  if x.bankExpect then ((s.banksSoon c q x.array).bank x.bank).bytes
  else s.bytes (ledgeAt c x.wt) (blockBytes x.fa x.fw)

/-- Output tiles of 64 rows by 64 positions, or of 64 rows at one position of a gated cell. -/
def Rs.outTiles (x : Rs) (m k : Nat) : Nat := ceilDiv m 64 * (if x.gated then k else ceilDiv k 64)

/-- What an RSTEP in flight works on: its fields, its rounding inputs, its runtime extents, and the block it finds loaded (R169, R174). -/
def State.rsIn (s : State) (c : Fin 36) (q : Nat) (f : Flight) : RsIn :=
  let x := Rs.of f.ins
  let rnd := f.ins.rnd.getD .rne
  { core := c, x := x, sr := f.srIn rnd, state := stateRnd (bits (s.rd (.recurrent c) .recurCtrl 0) 1 0) rnd, m := f.m, k := f.k,
    block0 := s.rsBlock0 c q x }

/-- What the chunks of an RSTEP leave, from the state that enters the first (R173, R178). -/
def State.rsOut (s : State) (c : Fin 36) (q : Nat) (f : Flight) : RsOut :=
  let v := s.rsIn c q f
  let (h, cc) := s.rsEnter q v
  s.rsRun v (ceilDiv f.k v.x.len + 1) 0 { s := s, h := h, c := cc }

/-- Runs an RSTEP: its chunks, then its state kept or written; what its pages count is noted by chunk, since a stop commits only some
of them (R173 to R184, R189). -/
def State.rsStart (s : State) (c : Fin 36) (q : Nat) (f : Flight) : State × Flight :=
  let x := Rs.of f.ins
  let ctrl := s.rd (.recurrent c) .recurCtrl 0
  let v := s.rsIn c q f
  let old := s.snapshot c q f
  let base := s.rsBase q v
  let total := ceilDiv f.k x.len
  let o := s.rsOut c q f
  let s := o.s
  let k := s.core c
  let a := k.arr x.array
  let others := a.carried.filter (fun t => !(t.queue = q && t.unit < x.unit + x.su && x.unit < t.unit + t.su))
  let ok := o.status == .ok
  let kept := if ok && x.keep then
      others ++ [{ queue := q, gated := x.gated, unit := x.unit, su := x.su, fmt := x.aF,
                   vals := packMat carriedC o.c (packMat 0 o.h base) }]
    else others
  let s := s.setCore c (k.setArr x.array { a with carried := kept })
  let img := ledgeAt c (x.out + x.outBytes)
  let s := if x.keep then s
    else if ok then s.writeImage v (x.out + x.outBytes) o.h o.c else s.scramble img x.imageBytes
  let on := bit1 ctrl 2 && ok
  let dl := s.rd (.recurrent c) .driftLog 0
  let log := if on && bit1 dl 18 then [(64 * bits dl 17 0, vecBytes o.rows)] else []
  (s, { f with total := total, wm := o.done, status := o.status
               atEnd := f.atEnd ++ log
               scAtEnd := if on then some (bits ctrl 6 3, (rne32 o.drift).setWidth 64) else none
               old := old
               units := if ok then f.units else (List.range x.footprint).map (· + x.unit + 48 * x.array)
               chunks := o.notes
               counts := [(.sequencer c, .skippedTileCount, 0, x.outTiles x.m x.k - x.outTiles f.m f.k)]
               blocks := (if o.blocks = [] then [(0, 0)] else o.blocks).map (fun b =>
                 ⟨x.blockAddr b.1 b.2, x.wF, x.transposed, blockK x.fa x.fw⟩) })

/-- The units an RSTEP holds while it runs, those of state it keeps apart: its working tiles, and its state (R178). -/
def Rs.units (x : Rs) : List Nat :=
  ((List.range x.footprint).filter (fun u => !(x.keep && u < x.su))).map (· + x.unit + 48 * x.array)

/-- RSTEP (R169): the checks of R95 in order, then the chunks. -/
def execRstep (c : Fin 36) (q : Fin 8) (s : State) : Host.Outcome State Fault Refusal :=
  .next (s.awake fun s => s.row c q (fun i => i.opcode == opRstep) fun s i =>
    let x := Rs.of i
    let t := s.rsTouch c i
    if !(s.queue c q).free t || (s.core c).rsBankWait x then s
    else
      let st := s.rsCheck c q i
      if st ≠ .ok then s.issueFailed c q i st false
      else if s.lenZero c q i then ((s.issue c q (started i {} true) (i.pc + 32)).drainQueue c q).settled
      else
        let f := s.withSr c q { started i t false with
          m := s.extent c q i 1 x.m, n := x.n, k := s.extent c q i 3 x.k, units := x.units }
        let (s, f) := s.rsStart c q f
        (s.issue c q f (i.pc + 32)).enterNext c q x.array)

end Sys2Proof.Machine
end

