-- ==== Sys2Proof/Machine/Completion.lean ====
section
/-! DEFINITION. How tile instructions end: completion with what the hardware met, pass boundaries, deadlines, doorbells,
and the register writes that wait for an instruction (R73, R93 to R99, R143, R166, R189). -/

namespace Sys2Proof.Machine

/-! ### What a failure leaves undefined (R96) -/

/-- Free patterns of accumulator elements. -/
def freeElem (ix i : Nat) : BitVec 96 :=
  (Config.freeWord (ix + 2 * i)).setWidth 96 ||| ((Config.freeWord (ix + 2 * i + 1)).setWidth 96 <<< 64)

/-- Tiles a failed product was to keep: those at and above its watermark are undefined. A product that ended with E_SAT leaves its tiles
as they are, its saturated state and its term count among them (R52, R96). -/
def KeptTiles.undo (t : KeptTiles) (ix : Nat) (f : Flight) : KeptTiles :=
  if f.status = .eSat then t
  else
    let nt := (Mm.of f.ins).nt
    let cells := (List.range f.m).flatMap (fun i => (List.range f.n).filterMap (fun j =>
      if f.wm ≤ i / 64 * ceilDiv f.n 64 + j / 64 then some ((i / 64 * nt + j / 64) * 4096 + i % 64 * 64 + j % 64) else none))
    { t with vals := cells.foldl (fun v key => FMap.set 0 v key (freeElem ix key)) t.vals }

/-- Makes undefined the output of a product at and above a watermark, and what its chain wrote beside it. In the score store the entries
and the validity of the columns at and above it are undefined (R96, R148). -/
def State.mmUndo (s : State) (c : Fin 36) (q : Nat) (f : Flight) : State :=
  let x := Mm.of f.ins
  let st := drainStages (Chain.ofWords f.chainW)
  let k := s.core c
  let a := k.arr x.array
  let s := (s.chainStores c st x.m x.n).foldl (fun (s : State) r => s.scramble r.1 r.2) s
  if x.keep then
    { (s.setCore c (k.setArr x.array { a with kept := a.kept.map (fun t => if t.queue = q ∧ t.unit = x.accUnit then t.undo s.freeIx f else t) })) with
      freeIx := s.freeIx + 524288 }
  else if x.outScore then
    let k := s.core c
    let k0 := x.out / 64 * 16
    let tiles := (List.range (ceilDiv f.m 64)).filter (f.wm ≤ ·)
    let cells := tiles.flatMap (fun t => (List.range 64).flatMap (fun m => (List.range f.n).map (fun n => 8192 * n + k0 + 64 * t + m)))
    let valid := tiles.foldl (fun (v : BitVec 128) t =>
      let i := k0 / 64 + t
      if Config.freeBit s.freeIx i then v ||| (1#128 <<< i) else v &&& ~~~(1#128 <<< i)) k.scoreValid
    { (s.setCore c { k with
        score := cells.foldl (fun t i => FMap.set 0 t i ((Config.freeWord (s.freeIx + i)).setWidth 32)) k.score
        scoreValid := valid }) with
      freeIx := s.freeIx + 524288 }
  else s.scrambleTiles c x.out x.outStride x.fo f.m f.n f.wm

/-- Makes undefined the chunks at and above a watermark, the state units and the output state image (R188). -/
def State.rsUndo (s : State) (c : Fin 36) (q : Nat) (f : Flight) : State :=
  let x := Rs.of f.ins
  let k := s.core c
  let a := k.arr x.array
  let s := s.setCore c (k.setArr x.array { a with carried := a.carried.filter (fun t => !(t.queue = q && t.unit = x.unit)) })
  let s := if x.keep then s else s.scramble (ledgeAt c (x.out + x.outBytes)) x.imageBytes
  let p0 := f.wm * x.len
  if f.k ≤ p0 then s
  else if x.gated then
    (List.range (f.k - p0)).foldl (fun (s : State) p => (List.range f.m).foldl (fun (s : State) r =>
      s.scramble (ledgeAt c (x.out + ((p0 + p) * x.m + r) * x.outStride)) (x.fo.rowBytes x.n)) s) s
  else
    (List.range f.m).foldl (fun (s : State) r =>
      let row := x.out + r * x.outStride
      let lo := p0 * x.fo.width / 8
      let s := s.scramble (ledgeAt c (row + lo)) (ceilDiv (f.k * x.fo.width) 8 - lo)
      if x.fo = .e2m1 then s.scramble (ledgeAt c (row + ceilDiv x.k 2 + p0 / 32)) (ceilDiv f.k 32 - p0 / 32) else s) s

/-- Makes undefined the output of a VCHAIN at and above a watermark. -/
def State.vcUndo (s : State) (c : Fin 36) (f : Flight) : State :=
  let x := Vc.of f.ins
  let st := (Chain.ofWords f.chainW).stages
  let s := (s.chainStores c st x.rows x.cols).foldl (fun (s : State) r => s.scramble r.1 r.2) s
  if x.dstSpace = 0 then s.scrambleTiles c (x.dst * 64) x.dstStride x.fo f.m f.n f.wm
  else
    let k := s.core c
    let nt := ceilDiv f.n 64
    let keys := (List.range f.m).flatMap (fun r => ((List.range f.n).filter (fun j => f.wm ≤ r / 64 * nt + j / 64)).map
      (tregKey (x.dst % 32) x.cols r))
    { (s.setCore c { k with tregs := keys.foldl (fun t i => FMap.set 0 t i ((Config.freeWord (s.freeIx + i)).setWidth 32)) k.tregs }) with
      freeIx := s.freeIx + 131072 }

/-- A weight load that had begun and does not complete leaves its bank EMPTY (R60, R73). -/
def State.wlUndo (s : State) (c : Fin 36) (f : Flight) : State :=
  let x := Wl.of f.ins
  let k := s.core c
  let a := k.arr x.array
  if f.loading ∧ (a.bank x.bank).state = .loading ∧ (a.bank x.bank).tag = some x.tag then
    s.setCore c (k.setArr x.array (a.setBank x.bank {}))
  else s

/-- Makes undefined what a failed instruction leaves at and above its watermark (R96, R188). A MOVE's destinations are those its issue
found (R114). -/
def State.undo (s : State) (c : Fin 36) (q : Nat) (f : Flight) : State :=
  if f.gated ∧ f.groups = 0 then s
  else if f.ins.opcode = opMatmul then s.mmUndo c q f
  else if f.ins.opcode = opRstep then s.rsUndo c q f
  else if f.ins.opcode = opVchain then s.vcUndo c f
  else if f.ins.opcode = opWload then s.wlUndo c f
  else if f.ins.opcode = opMove then s.mvScramble (Mv.of f.ins) (mvIssued f) f.m f.wm
  else s

/-! ### INSTRUCTION_COMPLETE -/

/-- The status a hardware end gives an opcode, for those R97 lists for it. -/
def hwStatus (e : HwEnd) (op : Nat) : Option Status :=
  let unit := opHolds op
  match e with
  | .finished => some .ok
  | .stopped => none
  | .uncorrected _ => if unit || op = opMove then some .eMemUncorr else none
  | .power => if unit || op = opMove then some .ePower else none
  | .link => if op = opMove then some .eLink else none
  | .gone => if op = opMove then some .eGone else none
  | .answered st => if op = opAdd || op = opSub then (if [.ok, .eSat, .eAbort, .eLink, .eAddr].contains st then some st else none) else none

/-- The instruction is to stop with E_ABORT: an earlier one failed, an abort doorbell acts on it, or the semaphore of its arrival gate
is faulted (R86, R98, R99, R135). -/
def Flight.stopping (f : Flight) : Bool := f.aborted || ((f.fatal || f.gated) && f.status == .eAbort)

/-- An instruction in flight that ends by the hardware: not one whose end has a command of its own, nor a product that has not
entered its array, nor an array or vector instruction of a queue that does not hold the core (R60, R78). -/
def State.endable (s : State) (c : Fin 36) (q : Nat) (f : Flight) : Bool :=
  let op := f.ins.opcode
  s.coreMoves c && !f.done && op ≠ opWaitGe && (op ≠ opWload || f.stopping) && (!f.gated || f.stopping) &&
  (!f.product || f.stopping || f.visited ≠ 0) && (!opHolds op || f.stopping || (s.core c).holder == some q)

/-- What the array or store reports where an uncorrectable error is met (R73, R146, R239, R260). -/
def State.siteUncorr (s : State) (c : Fin 36) (f : Flight) (site : EccSite) : State :=
  match site with
  | .accumulator => s.event (.array c) 3
  | .weightBank =>
    let a := bits f.w1 54 54
    let k := s.core c
    (s.setCore c (k.setArr a ((k.arr a).setBank (if (k.arr a).active then 1 else 0) {}))).event (.array c) 4
  | .score => s.event (.score c) 3
  | .memory => s.eccUncorr (bits f.w1 47 0)
  | .harbour => s.event (.harbour (halfOf (bits f.w1 47 0))) 1
  | .ledge => s

/-- What is counted and logged where a word is corrected (R73, R146, R239, R264). A weight bank has parity alone, which corrects nothing
(R73). -/
def State.siteCorrected (s : State) (c : Fin 36) (f : Flight) (site : EccSite) : State :=
  match site with
  | .weightBank => s
  | .accumulator =>
    ((s.bump (.array c) .aEccCorrected (bits f.w1 54 54) 1).event (.array c) 2).noted (.array c) .eMemUncorr
  | .score => ((s.bump (.score c) .scoreEccCorrected 0 1).event (.score c) 2).noted (.score c) .eMemUncorr
  | .ledge => s.noted (.sequencer c) .eMemUncorr
  | .harbour =>
    let p : Pg := .harbour (halfOf (bits f.w1 47 0))
    ((s.bump p .hbEccCorrected 0 1).event p 0).corrected p .eMemUncorr (bits f.w1 47 0)
  | .memory =>
    let a := bits f.w1 47 0
    if hbmAddr a then
      let p : Pg := .hbm (stackOf a)
      ((s.bump p .hbmEccCorrected 0 1).event p 0).corrected p .eMemUncorr a
    else s

/-- Adds a free amount of at most n to a counter. -/
def State.bumpUpTo (s : State) (p : Pg) (r : RegName) (i n : Nat) : State :=
  let (w, s) := s.draw
  s.bump p r i (w.toNat % (n + 1))

/-- What the pages count of an instruction as it ends: in full when it ends with OK, else some of it, which timing decides (R71, R74,
R116, R143, R166; notes/assumptions/69.md). -/
def State.countsOf (s : State) (f : Flight) : State :=
  f.counts.foldl (fun (s : State) (p, r, i, n) => if f.status = .ok then s.bump p r i n else s.bumpUpTo p r i n) s

/-- What one committed chunk of an RSTEP counts and raises (R74, R184, R189). -/
def State.chunkCounts (s : State) (c : Fin 36) (a : Nat) (n : RsNote) : State :=
  let s := s.bump (.recurrent c) .rstepChunkCount 0 1
  let s := s.bump (.recurrent c) .maskedPassCount 0 n.masked
  let s := s.bump (.recurrent c) .resetAppliedCount 0 n.resets
  let s := s.bump (.array c) .aStreamCycles a n.groups
  if n.nan then s.event (.recurrent c) 2 else s

/-- What an RSTEP counts and raises as it ends: its committed chunks, a second mid-chunk reset, and its summary against the
threshold when it completes with OK (R183, R184, R189). -/
def State.rsEnds (s : State) (c : Fin 36) (f : Flight) : State :=
  let done := f.chunks.take f.wm
  let s := done.foldl (fun (s : State) n => s.chunkCounts c f.arr n) s
  let s := if f.status = .eShape then s.event (.recurrent c) 1 else s
  let thr := s.fld (.recurrent c) .driftThreshold 0 31 0
  let sum := rne32 ((done.map (fun n => f32 n.drift)).foldl FVal.max (.fin false 0 0))
  if f.status = .ok ∧ f.scAtEnd.isSome ∧ thr ≠ 0 ∧ thr ≤ sum.toNat then
    (s.bump (.recurrent c) .driftHighCount 0 1).event (.recurrent c) 0
  else s

/-- What the pages count as an instruction ends (R74, R93, R116, R189). A product that ends with another status than OK, and a
zero-length one, is no product completed for An_PASS_COUNT, and an E_SAT of its post ADD is none of its own (DESIGN CHOICE,
notes/assumptions/69.md). -/
def State.endCounts (s : State) (c : Fin 36) (f : Flight) : State :=
  let op := f.ins.opcode
  let s := s.countsOf f
  let s := if opHolds op then s.bump (.sequencer c) .passCount 0 1 else s
  let s := if (op = opAdd ∨ op = opSub) ∧ bit1 f.w1 17 then
      (s.bump .tideway .twRemoteSemCount 0 1).semsAcked (· == bits f.w1 25 18) else s
  let s := if op = opMove ∧ bits f.w2 55 48 ≠ 0 ∧ f.status = .ok then s.bump .multicast .mcastMoveCount 0 1 else s
  let s := if op = opRstep then s.rsEnds c f else s
  if f.product then
    let s := if f.status = .ok then s.bump (.array c) .aPassCount f.arr 1 else s
    let s := (s.bumpFree (.array c) .aSwapStallCycles f.arr).bumpFree (.array c) .aLedgeStallCycles f.arr
    if f.status = .eSat then (s.bump (.array c) .aSatCount f.arr 1).event (.array c) 5 else s
  else s

/-- A score MATMUL that completed: the store's maxima are those of a completed product (R149, R166). -/
def State.scoreEnded (s : State) (c : Fin 36) (f : Flight) : State :=
  if f.ins.opcode = opMatmul ∧ (Mm.of f.ins).outScore ∧ f.status = .ok then
    s.setCore c { s.core c with scoreDone := true }
  else s

/-- The array on which a product has ended. -/
def Flight.endedOn (f : Flight) : Option Nat := if f.product then some f.arr else none

/-- An instruction in flight is over with its status and watermark: what it leaves undefined, what is counted, and the banks of its
array, which go on (R60, R74, R83, R96). -/
def State.endFlight (s : State) (c : Fin 36) (q : Nat) (f : Flight) : State :=
  let s := s.setFlight c q f
  let s := if f.status ≠ .ok then s.undo c q f else s
  (((s.endCounts c f).scoreEnded c f).leaveArray c q f (f.status == .ok || f.status == .eSat)).banksMove c f.endedOn

/-- How an instruction in flight ends: stopped by an earlier failure or an abort, by its own work's failure, or by what the hardware met,
whichever comes first (R96, R98). -/
def Flight.ending (f : Flight) (e : HwEnd) (st : Status) (cut : Nat) : Flight :=
  if f.stopping then { f with done := true, status := .eAbort, wm := if e = .finished then f.wm else cut }
  else if st = .ok then { f with done := true }
  else if f.status ≠ .ok ∧ f.wm ≤ cut then { f with done := true }
  else { f with done := true, status := st, wm := cut }

/-- INSTRUCTION_COMPLETE (R89): an instruction in flight ends with its status and its watermark; what stands at and
above the watermark of a failure is undefined (R96), and the queue completes what it can in order. `ecc` lists the words that were
corrected on the way. -/
def execInstructionComplete (c : Fin 36) (q : Fin 8) (seq : Nat) (e : HwEnd) (wm : Nat) (ecc : List EccSite) (s : State) :
    Host.Outcome State Fault Refusal :=
  .next (s.awake fun s => match (s.queue c q).flights.find? (fun f => f.seq = seq) with
    | none => s
    | some f =>
      if !s.endable c q f then s
      else
        match (if f.stopping then some Status.eAbort else hwStatus e f.ins.opcode) with
        | none => s
        | some st =>
          let s := s.endFlight c q (f.ending e st (min wm f.total))
          let s := match e with
            | .uncorrected site => s.siteUncorr c f site
            | _ => s
          let s := ecc.foldl (fun (s : State) site => s.siteCorrected c f site) s
          (s.drainQueue c q).settled)

/-! ### Pass boundaries and deadlines (R29, R93, R94) -/

/-- The first instruction of a queue that is on the arrays or the vector engine. -/
def Queue.onUnit (x : Queue) : Option Flight := x.flights.find? (fun f => !f.done && opHolds f.ins.opcode)

/-- An instruction stops at a boundary with a status, its watermark the tiles or chunks committed so far (R93). -/
def State.stopAt (s : State) (c : Fin 36) (q : Nat) (f : Flight) (st : Status) (committed : Nat) : State :=
  let s := s.endFlight c q { f with done := true, status := st, wm := min committed f.total }
  ((s.bump (.sequencer c) .preemptCount 0 1).drainQueue c q).settled

/-- The deadline of the work a queue runs has passed (R29). -/
def State.late (s : State) (c : Fin 36) (q : Nat) : Bool :=
  let d := (s.queue c q).deadline
  d ≠ 0 && decide (d.toNat < s.now.toNat)

/-- What of a product is live at a boundary: a MATMUL whose L2 tiles alternate has the units of the set in progress, and an RSTEP, at
the end of a chunk, the units of its state, unless it keeps them as carried state (R107, R187; notes/assumptions/19.md). -/
def Flight.liveAt (f : Flight) (committed : Nat) : Flight :=
  if f.ins.opcode = opRstep then
    let x := Rs.of f.ins
    { f with units := if x.keep ∧ f.status = .ok then [] else (List.range x.su).map (· + x.unit + 48 * x.array) }
  else
    let x := Mm.of f.ins
    let n := x.footprint
    if f.ins.opcode = opMatmul ∧ f.units.length = n ∧ f.touch.units.length = 2 * n then
      { f with units := (f.touch.units.drop (committed / max 1 (x.tmE * x.tnE) % 2 * n)).take n }
    else f

/-- TILE_PASS_BOUNDARY (R93, R94): a pass of the holder's instruction ends, its banks as they then stand; a ready queue of a higher
class, a passed deadline or an abort stops it there. -/
def execTilePassBoundary (c : Fin 36) (committed : Nat) (s : State) : Host.Outcome State Fault Refusal :=
  .next (s.awake fun s => match (if s.coreMoves c then (s.core c).holder else none) with
    | none => s
    | some q =>
      match (s.queue c q).onUnit with
      | none => s
      | some f =>
        if f.stopping then s.stopAt c q f .eAbort committed
        else if s.late c q then s.stopAt c q f .eDeadline committed
        else
          let s := s.bump (.sequencer c) .passCount 0 1
          let stop := s.higherReady c q
          let (s, f) := if f.product then s.passBanks c q f stop else (s, f)
          let s := s.banksMove c none
          if stop then
            ((s.setFlight c q (f.liveAt committed)).bump (.sequencer c) .preemptCount 0 1).handOn c (some q)
          else s)

/-! ### Doorbells (R99) -/

/-- A doorbell waits for RESUME while the core's handshake is not RUNNING (R393). -/
def State.holdBell (s : State) (c : Fin 36) (q : Nat) (v : Word) : State :=
  let k := s.core c
  let p : Pg := .sequencer c
  let l := FMap.get {} s.lives p.index
  let s := s.setCore c { k with heldBells := k.heldBells ++ [(q, v)] }
  { s with lives := FMap.set {} s.lives p.index { l with held := true } }

/-- A start doorbell (R79, R99). -/
def State.queueStart (s : State) (c : Fin 36) (q : Fin 8) : State :=
  if !s.coreLive c.val then s
  else if s.live (.sequencer c) ≠ .running then s.holdBell c q.val 1
  else
    let x := s.queue c q
    if x.state = .idle ∨ x.state = .halted then s.queueRuns c q true else s.ignore (.sequencer c)

/-- A resume doorbell (R99). -/
def State.queueResume (s : State) (c : Fin 36) (q : Fin 8) : State :=
  if !s.coreLive c.val then s
  else if s.live (.sequencer c) ≠ .running then s.holdBell c q.val 2
  else if (s.queue c q).state = .halted then s.queueRuns c q false else s.ignore (.sequencer c)

/-- An abort doorbell (R99): E_ABORT on the oldest instruction in flight, under the HALT rules and queue-fatal (R377).
A running queue with nothing in flight fails the instruction it would issue next. -/
def State.queueAbort (s : State) (c : Fin 36) (q : Fin 8) : State :=
  if !s.coreLive c.val then s
  else
    let x := s.queue c q
    if x.state = .idle ∨ x.state = .halted then s.ignore (.sequencer c)
    else if x.state = .stopping then s
    else
      match x.flights with
      | [] => s.issueFailed c q ⟨s.qPcVal c q, 0, 0, 0, 0⟩ .eAbort true
      | f :: r =>
        let now := f.unstarted
        let f' := { f with status := .eAbort, fatal := true, done := f.done || now, wm := if now then 0 else f.wm }
        let s := s.putAllBack c q ((f :: r).filter Flight.unstarted)
        let s := s.setQueue c q { s.queue c q with flights := f' :: r.map Flight.abort, state := .stopping }
        (s.drainQueue c q).settled

/-- QUEUE_START (R99). -/
def execQueueStart (c : Fin 36) (q : Fin 8) (s : State) : Host.Outcome State Fault Refusal := .next (s.awake fun s => s.queueStart c q)

/-- QUEUE_RESUME (R99). -/
def execQueueResume (c : Fin 36) (q : Fin 8) (s : State) : Host.Outcome State Fault Refusal := .next (s.awake fun s => s.queueResume c q)

/-- QUEUE_ABORT (R99). -/
def execQueueAbort (c : Fin 36) (q : Fin 8) (s : State) : Host.Outcome State Fault Refusal := .next (s.awake fun s => s.queueAbort c q)

/-- A write of Qn_DOORBELL: an abort takes effect alone; start goes before resume (R99). -/
def State.doorbell (s : State) (c : Fin 36) (q : Fin 8) (v : Word) : State :=
  if bit1 v 2 then s.queueAbort c q
  else if bit1 v 0 then s.queueStart c q
  else if bit1 v 1 then s.queueResume c q
  else s

/-! ### Register writes of a core's pages (R143, R166, R189) -/

/-- A write to a core's register that waits for an instruction in flight, with everything it does (R143, R166, R189). A later write to the
same register is merged over the value that waits; a write whose counter_clear is 1 keeps it until it takes effect. -/
def State.writeLater (s : State) (c : Fin 36) (p : Pg) (r : RegName) (i : Nat) (v : Word) : State :=
  let k := s.core c
  let base := ((k.waiting.filter (fun w => w.1 = regKey p r i)).getLast?.map (·.2)).getD (s.rd p r i)
  let clr : Word := match p.type.counterCtl with
    | some (x, b, _) => if x = r then BitVec.ofNat 64 (2 ^ b) else 0
    | none => 0
  let keep := base &&& ~~~ r.mask .rw &&& ~~~ clr
  let new := keep ||| (v &&& (r.mask .rw ||| clr))
  if k.holdsWrite p then s.setCore c { k with waiting := k.waiting ++ [(regKey p r i, new)] }
  else s.applyCtl (regKey p r i) new

/-- A write to ARRIVEn (R143): its pointer, its faulted state and its record of landed units are reset. -/
def State.arriveWrite (s : State) (c : Fin 36) (n : Fin 4) (v : Word) : State :=
  if !s.coreLive c.val then s
  else
    let k := s.core c
    let lo := 2 ^ 20 * n.val
    let s := s.setCore c { k with
      landed := KeySet.delRange k.landed lo (lo + 2 ^ 20)
      landing := k.landing.filter (fun p => p.1 < lo || lo + 2 ^ 20 ≤ p.1) }
    (s.wr (.vector c) .arrivePtr n.val 0).wrRw (.vector c) .arrive n.val v

/-- ARRIVE_WRITE (R143). -/
def execArriveWrite (c : Fin 36) (n : Fin 4) (v : Word) (s : State) : Host.Outcome State Fault Refusal :=
  .next (s.awake fun s => s.arriveWrite c n v)

/-- STAT_REGION_WRITE (R143). -/
def execStatRegionWrite (c : Fin 36) (v : Word) (s : State) : Host.Outcome State Fault Refusal :=
  .next (s.awake fun s => if s.coreLive c.val then s.writeLater c (.vector c) .statRegion 0 v else s)

/-- A write to SCORE_CTRL, counter_clear among it (R166, R167). -/
def State.scoreCtrlWrite (s : State) (c : Fin 36) (v : Word) : State :=
  if s.coreLive c.val then s.writeLater c (.score c) .scoreCtrl 0 v else s

/-- SCORE_CTRL_WRITE (R166). -/
def execScoreCtrlWrite (c : Fin 36) (v : Word) (s : State) : Host.Outcome State Fault Refusal :=
  .next (s.awake fun s => s.scoreCtrlWrite c v)

/-- A write to a register of the recurrent page: 0 RECUR_CTRL, where 3 in state_rnd is ignored, 1 DRIFT_THRESHOLD,
2 DRIFT_LOG (R189). -/
def State.recurCtrlWrite (s : State) (c : Fin 36) (which : Fin 3) (v : Word) : State :=
  if !s.coreLive c.val then s
  else
    match which with
    | 0 =>
      if bits v 1 0 = 3 then s.ignore (.recurrent c) else s.writeLater c (.recurrent c) .recurCtrl 0 v
    | 1 => s.writeLater c (.recurrent c) .driftThreshold 0 v
    | _ => s.writeLater c (.recurrent c) .driftLog 0 v

/-- RECUR_CTRL_WRITE (R189). -/
def execRecurCtrlWrite (c : Fin 36) (which : Fin 3) (v : Word) (s : State) : Host.Outcome State Fault Refusal :=
  .next (s.awake fun s => s.recurCtrlWrite c which v)

end Sys2Proof.Machine
end

