-- ==== Sys2Proof/Machine/Backward.lean ====
section
/-! DEFINITION. The split backward of a training step: forwards, B and W of the micro-batches of a stage in their order, the
attention backward, and the sum of the gradients (R156, R360 to R364, R370). -/

namespace Sys2Proof.Machine

/-! ### The order of a stage (R361) -/

/-- What a stage runs for a micro-batch: its forward, B, or W. -/
inductive StageOp | forward (k : Nat) | back (k : Nat) | weight (k : Nat)
  deriving DecidableEq, Repr

/-- The forwards and Bs of stage s of p, for m micro-batches: p - 1 - s forwards, one forward and one B in turn, the remaining Bs. -/
def passOrder (p s m : Nat) : List StageOp :=
  let w := min (p - 1 - s) m
  (List.range w).map .forward ++ (List.range (m - w)).flatMap (fun i => [.forward (w + i), .back i]) ++
    (List.range w).map (fun i => .back (m - w + i))

/-- Puts the Ws in: each enters the queue when its B completes, `waits n` of the queued ones run where the stage would wait before its
n-th operation, at most p are queued, and all run after the last B; without the split each runs directly after its B. -/
def withWeights (p : Nat) (noSplit : Bool) (waits : Nat → Nat) : List Nat → Nat → List StageOp → List StageOp
  | q, _, [] => q.map .weight
  | q, n, op :: r =>
    let idle := min (waits n) q.length
    let q' := q.drop idle
    let (after, q'') := match op with
      | .back k =>
        if noSplit then ([k], q')
        else ((q' ++ [k]).take (q'.length + 1 - p), (q' ++ [k]).drop (q'.length + 1 - p))
      | _ => ([], q')
    (q.take idle).map .weight ++ op :: after.map .weight ++ withWeights p noSplit waits q'' (n + 1) r

/-- The operations up to the n-th B (R359). -/
def untilBack : Nat → List StageOp → List StageOp
  | 0, _ => []
  | _, [] => []
  | n + 1, op :: r => match op with
    | .back _ => op :: untilBack n r
    | _ => op :: untilBack (n + 1) r

/-! ### Products -/

/-- One element of a product with an FP32 result: summed along K as its operand pair is (R50, R54, R55). -/
def prodOf (kind : PairKind) (x y : List FVal) : FVal :=
  (accVal kind (accumulate kind 0 (chunksOf 64 (List.zipWith FVal.mul x y) (x.length + 1)))).rne

/-- X · Yᵀ with an FP32 result. -/
def mulT (kind : PairKind) (x y : Mat) : Mat := x.map (fun r => y.map (prodOf kind r))

/-- A matrix transposed. -/
def Mat.flip (m : Mat) (cols : Nat) : Mat := (List.range cols).map m.col

/-- How a pair of formats is summed. -/
def kindOf (a w : Fmt) : PairKind := (pairKind a w).getD .fp

/-- FP32 patterns of values. -/
def patterns (xs : List FVal) : List (BitVec 32) := xs.map rne32

/-- A sum rounded to FP32. -/
def fAdd (a b : FVal) : FVal := (a.add b).rne
/-- A difference rounded to FP32. -/
def fSub (a b : FVal) : FVal := (a.sub b).rne
/-- A product rounded to FP32. -/
def fMul (a b : FVal) : FVal := (a.mul b).rne

/-! ### Attention (R156, R362) -/

/-- What a package says of its attention layers: 0 query heads for each key-value head, 1 the P format, 2 the format of dO, 3 channels of a
layer's output, 4 the format activations travel in, 5 the format gradients travel in. -/
def attnNum (data : FMap Byte) (kind : Nat) : Nat := Config.package data (2 ^ 41 + kind)

/-- Scores of a query block with keys beyond the limits masked (R147, R148). -/
def masked (limit : Nat → Nat) (scores : Mat) : Mat := scores.mapIdx (fun i k v => if limit i ≤ k then .inf true else v)

/-- m and λ of a query row, from its scores in segments of 8,192 keys (R151, R153, R156). -/
def rowStats (p : Fmt) (scores : List FVal) : FVal × FVal :=
  let segs := (chunksOf 8192 scores (scores.length + 1)).map (fun x =>
    let m := maxOf x
    (m, chunkSum (x.map (fun v => (fnExp (fSub v m)).round p .rne false 0))))
  let live := segs.filter (fun x => x.1 != .inf true)
  let m := maxOf (live.map (·.1))
  (m, fnLog (chunkSum (live.map (fun x => fMul (fnExp (fSub x.1 m)) x.2))))

/-- The recomputed probabilities of a row: SUB ROW (m), SUB ROW (λ) and EXP, each in FP32 (R156). -/
def rowProbs (st : FVal × FVal) (scores : List FVal) : List FVal := scores.map (fun v => fnExp (fSub (fSub v st.1) st.2))

/-- dS of a query row, in the P format (R362): dS_k = P_k (dP_k - D), with D the sum of P_k dP_k as R129 forms it. -/
def rowGrad (p : Fmt) (probs dp : List FVal) : List FVal :=
  let d := chunkSum (List.zipWith fMul probs dp)
  List.zipWith (fun x y => (fMul x (fSub y d)).round p .rne false 0) probs dp

/-- The backward of one query head (R362): dQ, dK and dV, from the probabilities, dO, Q, K and V. -/
def attnBack (kv p g : Fmt) (d keys : Nat) (probs dO q k v : Mat) : Mat × Mat × Mat :=
  let dp := mulT (kindOf g kv) dO v
  let ds := List.zipWith (rowGrad p) probs dp
  (mulT (kindOf p kv) ds (Mat.flip k d),
   mulT (kindOf p kv) (Mat.flip ds keys) (Mat.flip q d),
   mulT .fp (Mat.flip probs keys) (Mat.flip dO d))

/-! ### A micro-batch -/

/-- One micro-batch in progress on a stage (R360): what fixes its values, the saved layer inputs by tensor entry, the saved m and λ by
layer and query head, and, from its B on, the output gradients by tensor entry. -/
structure MicroRun where
  inp : Config.MicroIn
  saved : List Mat
  stats : List (List (FVal × FVal))
  grads : List Mat := []
  deriving DecidableEq, Repr

/-- The training of a stage as a step's operations go on: its micro-batches, the gradient of each tensor entry with the elements of exact
pairs in X96, the noise sums q by layer, and the loss (R363, R370, R373). -/
structure StageRun where
  micro : FMap (Option MicroRun) := []
  grad : List (List (BitVec 96))
  q : List FVal
  loss : FVal := FVal.zero
  deriving DecidableEq, Repr

/-- A tensor of a stage: its index in the package, rows, columns and layer, whether it is trained, and its working copy. -/
structure StageTensor where
  ix : Nat
  rows : Nat
  cols : Nat
  layer : Nat
  trained : Bool
  weights : Mat
  deriving DecidableEq, Repr

/-- A stage of a job as a step finds it: package, shape, tensors, layers, sequences of a micro-batch and their positions, whether
activations go on to a next stage and gradients to one before, and the draw that values from other stages come from. -/
structure PipeStage where
  data : FMap Byte
  shape : Shape
  tensors : List StageTensor
  layers : List Nat
  seqs : Nat
  len : Nat
  next : Option Nat
  prev : Option Nat
  draw : Nat
  deriving DecidableEq, Repr

/-- Positions of a micro-batch. -/
def PipeStage.positions (g : PipeStage) : Nat := g.seqs * g.len
/-- Channels of a layer's output. -/
def PipeStage.width (g : PipeStage) : Nat := attnNum g.data 3
/-- Query heads of a layer. -/
def PipeStage.heads (g : PipeStage) : Nat := g.shape.heads * max 1 (attnNum g.data 0)
/-- The format of keys and values. -/
def PipeStage.kv (g : PipeStage) : Fmt := fmtNamed g.shape.kvFmt
/-- The formats of a tensor's product W: its input's and its output gradient's. -/
def PipeStage.kinds (g : PipeStage) (t : StageTensor) : Fmt × Fmt := (fmtNamed (tensorNum g.data t.ix 3), fmtNamed (tensorNum g.data t.ix 4))

/-- Queries (0), keys (1) or values (2) of a head in a sequence. -/
def PipeStage.attn (g : PipeStage) (x : Config.MicroIn) (kind l h q : Nat) : Mat :=
  Mat.build g.len g.shape.dim (fun i c => g.kv.decode (Config.attnElem x kind l h (q * g.len + i) c))

/-- The key-value head of a query head. -/
def PipeStage.kvHead (g : PipeStage) (h : Nat) : Nat := h / max 1 (attnNum g.data 0)

/-- The scores of a query head in a sequence. -/
def PipeStage.scores (g : PipeStage) (x : Config.MicroIn) (l h q : Nat) : Mat :=
  masked (Config.keyLimit g.data l) (mulT (kindOf g.kv g.kv) (g.attn x 0 l h q) (g.attn x 1 l (g.kvHead h) q))

/-- Layers, query heads and sequences in their order. -/
def PipeStage.blocks (g : PipeStage) (l : Nat) : List (Nat × Nat × Nat) :=
  (List.range g.heads).flatMap (fun h => (List.range g.seqs).map (fun q => (l, h, q)))

/-- The forward of a micro-batch (R360, R156): the layer inputs that W reads, and m and λ, are saved. -/
def PipeStage.forward (g : PipeStage) (x : Config.MicroIn) : MicroRun :=
  { inp := x
    saved := g.tensors.map (fun t => Mat.build g.positions t.rows (fun i c => (g.kinds t).1.decode (Config.inputElem x t.ix i c)))
    stats := (g.layers.flatMap g.blocks).map (fun b =>
      (g.scores x b.1 b.2.1 b.2.2).map (rowStats (fmtNamed (attnNum g.data 1)))) }

/-- dQ, dK and dV of a layer, head by head and sequence by sequence, from its output gradient (R362). -/
def PipeStage.attnGrads (g : PipeStage) (m : MicroRun) (l : Nat) (out : List (List (BitVec 32))) : List (List (BitVec 32)) :=
  let fo := fmtNamed (attnNum g.data 2)
  ((g.layers.flatMap g.blocks).zip m.stats).flatMap (fun y =>
    let (i, h, q) := y.1
    if i ≠ l then []
    else
      let probs := List.zipWith rowProbs y.2 (g.scores m.inp l h q)
      let dO := Mat.build g.len g.shape.dim (fun i c => fo.decode (Config.headGrad m.inp l out h (q * g.len + i) c))
      let (dQ, dK, dV) := attnBack g.kv (fmtNamed (attnNum g.data 1)) fo g.shape.dim g.len probs dO (g.attn m.inp 0 l h q)
        (g.attn m.inp 1 l (g.kvHead h) q) (g.attn m.inp 2 l (g.kvHead h) q)
      (dQ ++ dK ++ dV).map patterns)

/-- One layer of a B (R360): the output gradients of its tensors, and the gradient of its input, from that of its output. -/
def PipeStage.layerBack (g : PipeStage) (m : MicroRun) (l : Nat) (out : List (List (BitVec 32))) :
    List (Nat × Mat) × List (List (BitVec 32)) :=
  let attn := g.attnGrads m l out
  let ts := g.tensors.zipIdx.filter (fun t => t.1.layer = l)
  let dy := ts.map (fun t => (t.2, Mat.build g.positions t.1.cols (fun i c =>
    (g.kinds t.1).2.decode (Config.outGrad m.inp t.1.ix out attn i c))))
  let dx := (List.zipWith (fun (t : StageTensor × Nat) (y : Nat × Mat) =>
    (mulT (kindOf (g.kinds t.1).2 (fmtNamed (tensorNum g.data t.1.ix 1))) y.2 t.1.weights).map patterns) ts dy).flatten
  (dy, (List.range g.positions).map (fun i => (List.range g.width).map (Config.inGrad m.inp l out dx i)))

/-- The gradient of the last layer's output: of the loss head on the last stage, else what the next stage sends. -/
def PipeStage.lastGrad (g : PipeStage) (m : MicroRun) (k : Nat) : List (List (BitVec 32)) :=
  (List.range g.positions).map (fun i => (List.range g.width).map (fun c =>
    if g.next.isNone then Config.lossGrad m.inp i c else Config.trainWord g.draw (2 ^ 20 + k) (i * g.width + c)))

/-- The B of a micro-batch (R360): layers in descending order, each from the input gradient of the one after it; and the gradient of the
first layer's input. -/
def PipeStage.back (g : PipeStage) (m : MicroRun) (k : Nat) : MicroRun × List (List (BitVec 32)) :=
  let (dys, first) := g.layers.reverse.foldl (fun (p : List (Nat × Mat) × List (List (BitVec 32))) l =>
    let (dy, inp) := g.layerBack m l p.2
    (p.1 ++ dy, inp)) (([] : List (Nat × Mat)), g.lastGrad m k)
  ({ m with grads := (List.range g.tensors.length).map (fun i =>
      ((List.find? (fun (y : Nat × Mat) => y.1 = i) dys).map (·.2)).getD []) }, first)

/-- W of a tensor (R360): dW = Xᵀ · dY, row-major; in X96 for an exact pair, else in FP32 (R363). -/
def PipeStage.weightGrad (g : PipeStage) (t : StageTensor) (x dy : Mat) : List (BitVec 96) :=
  let kind := kindOf (g.kinds t).1 (g.kinds t).2
  let cols := Mat.flip dy t.cols
  (Mat.flip x t.rows).flatMap (fun r => cols.map (fun c =>
    let products := List.zipWith FVal.mul r c
    accumulate kind 0 (chunksOf 64 products (products.length + 1))))

/-- A gradient element with another micro-batch's added: exactly, or in FP32 (R363). -/
def gradAdd (kind : PairKind) (a b : BitVec 96) : BitVec 96 :=
  match kind with
  | .exact => X96.add a b
  | _ => (rne32 ((accVal kind a).add (accVal kind b))).setWidth 96

/-- The sum of squares of a tensor: a record for each row and 64-column chunk, as RED_SUMSQ forms it, and the records in ascending element
order as R129 combines them (R370). -/
def sumSquares (cols : Nat) (xs : List FVal) : FVal :=
  chunkSum ((chunksOf cols xs (xs.length + 1)).flatMap (fun r => (chunksOf 64 r (r.length + 1)).map (fun c => chunkSum (squares c))))

/-- The noise sum of a layer's tensors. -/
def PipeStage.layerSquares (g : PipeStage) (l : Nat) (xs : List (List FVal)) : FVal :=
  ((g.tensors.zip xs).filter (fun y => y.1.layer = l)).foldl (fun a y => fAdd a (sumSquares y.1.cols y.2)) FVal.zero

/-- W of a micro-batch: its products are added to the gradient, and to the noise sums (R363, R370). -/
def PipeStage.weight (g : PipeStage) (r : StageRun) (m : MicroRun) : StageRun :=
  let dw := List.zipWith (fun (t : StageTensor) (y : Mat × Mat) => if t.trained then g.weightGrad t y.1 y.2 else [])
    g.tensors (m.saved.zip m.grads)
  let kind (t : StageTensor) : PairKind := kindOf (g.kinds t).1 (g.kinds t).2
  let vals := List.zipWith (fun (t : StageTensor) (xs : List (BitVec 96)) => xs.map (fun x => (accVal (kind t) x).rne)) g.tensors dw
  { r with
    grad := List.zipWith (fun (t : StageTensor) (y : List (BitVec 96) × List (BitVec 96)) =>
      List.zipWith (gradAdd (kind t)) y.1 y.2) g.tensors (r.grad.zip dw)
    q := List.zipWith (fun l a => fAdd a (g.layerSquares l vals)) g.layers r.q }

/-! ### Between the stages (R342, R360) -/

/-- Sends bytes to a neighbouring stage by a MULTICAST of class Train into its arrival windows; where they stand there is not stated. -/
def State.passOn (s : State) (peer fmt count : Nat) (bs : List Byte) : State :=
  let (w, s) := s.draw
  let m := FMap.get 0 s.tw.mcast peer
  let s := { s with tw := { s.tw with mcast := FMap.set 0 s.tw.mcast peer (m + 1) } }
  let c : Coll := { words := [BitVec.ofNat 64 (5 + fmt * 2 ^ 8 + fmt * 2 ^ 12), 0, 0, BitVec.ofNat 64 count], ix := 0, started := s.now,
                    gseq := m }
  let fs := (s.framesOf 0 c false 0 bs [] 0 0 (w.toNat % 2 ^ 48)).map (fun f => { f with vc := 2 })
  (s.sendFrames peer fs).bump .tideway .twCollCount 0 1

/-- Bytes of FP32 rows in the format they travel in, rounded by RNE. -/
def travelBytes (f : Fmt) (rows : List (List (BitVec 32))) : List Byte :=
  let sr : SrIn := { seed := 0, step := 0, tag := 0, base := 0, rowLen := 0, rnd := .rne, sat8 := false }
  rows.flatMap (fun r => encodeRow f sr 0 0 [] (r.map f32))

/-- One operation of a stage (R360, R361): a forward sends its activations on, and a B its input gradient back. -/
def PipeStage.run (g : PipeStage) (inp : Nat → Config.MicroIn) (p : StageRun × State) (op : StageOp) : StageRun × State :=
  let (r, s) := p
  let n := g.positions * g.width
  match op with
  | .forward k =>
    let m := g.forward (inp k)
    let r := { r with micro := FMap.set none r.micro k (some m)
                      loss := if g.next.isNone then fAdd r.loss (f32 (Config.lossWord m.inp)) else r.loss }
    match g.next with
    | none => (r, s)
    | some peer =>
      let rows := (List.range g.positions).map (fun i => (List.range g.width).map (Config.layerOut m.inp (g.layers.getLastD 0) i))
      (r, s.passOn peer (attnNum g.data 4 % 16) n (travelBytes (fmtNamed (attnNum g.data 4)) rows))
  | .back k =>
    match FMap.get none r.micro k with
    | none => (r, s)
    | some m =>
      let (m, first) := g.back m k
      let r := { r with micro := FMap.set none r.micro k (some m) }
      match g.prev with
      | none => (r, s)
      | some peer => (r, s.passOn peer (attnNum g.data 5 % 16) n (travelBytes (fmtNamed (attnNum g.data 5)) first))
  | .weight k =>
    match FMap.get none r.micro k with
    | none => (r, s)
    | some m => ({ g.weight r m with micro := FMap.set none r.micro k none }, s)

/-- A stage before its first operation. -/
def PipeStage.start (g : PipeStage) : StageRun :=
  { grad := g.tensors.map (fun t => if t.trained then List.replicate (t.rows * t.cols) 0 else [])
    q := g.layers.map (fun _ => FVal.zero) }

/-! ### Reduction (R364) -/

/-- Ranks in the order in which a reduction adds the elements of chunk j: from the rank after its owner round to the owner (R343). -/
def ringRanks (n start j : Nat) : List Nat := (List.range n).map (fun i => (j + start + 1 + i) % n)

/-- A reduced gradient element: the partials added in the order of the ring, exactly for an exact pair, and rounded once to FP32. -/
def reduceElem (kind : PairKind) : List (BitVec 96) → BitVec 32
  | [] => 0
  | x :: r => rne32 (accVal kind (r.foldl (gradAdd kind) x))

/-- Gradient elements of a layer before those of tensor entry i. -/
def PipeStage.before (g : PipeStage) (i : Nat) : Nat :=
  let l := (g.tensors[i]?.map (·.layer)).getD 0
  (((g.tensors.take i).filter (fun t => t.layer = l && t.trained)).map (fun t => t.rows * t.cols)).sum

/-- Gradient elements of a layer. -/
def PipeStage.elems (g : PipeStage) (l : Nat) : Nat :=
  ((g.tensors.filter (fun t => t.layer = l && t.trained)).map (fun t => t.rows * t.cols)).sum

/-- The reduced gradient of a stage over its n replicas, by tensor entry (R342, R343, R364): each layer's elements are one ALL_REDUCE, in chunks
as REDUCE_SCATTER cuts them. What the other replicas bring is not known here. -/
def PipeStage.reduced (g : PipeStage) (r : StageRun) (rank n start : Nat) : List (List (BitVec 32)) :=
  (g.tensors.zip r.grad).zipIdx.map (fun y =>
    let kind := kindOf (g.kinds y.1.1).1 (g.kinds y.1.1).2
    let chunk := max 1 (ceilDiv (ceilDiv (g.elems y.1.1.layer) n) 64 * 64)
    y.1.2.zipIdx.map (fun e => reduceElem kind ((ringRanks n start ((g.before y.2 + e.2) / chunk)).map (fun k =>
      if k = rank % n then e.1 else Config.peerPartial g.draw (y.2 * n + k) e.2))))

/-- A collective of a job's data group may run: the group and its neighbours are enabled, its generation is the job's and no PERMUTE is in
doubt (R340, R344, R350). -/
def State.dataGroup (s : State) (k gen : Nat) : Status :=
  if k = 255 then .ok
  else firstFail [check (bit1 (s.rd .tideway .twGroup k) 63) .eAddr,
    check (s.grpSize k = 1 || [s.grpLeft k, s.grpRight k].all (fun p => bit1 (s.rd .tideway .twPeer p) 63)) .eAddr,
    check (s.grpGen k = gen % 65536) .eState, check (!s.inDoubt k) .eState]

/-- The collectives of a step on a data group (R364, R370): an ALL_REDUCE for each layer, in descending order, and the ALL_GATHER of the
noise sums; each is numbered in the group and counted. -/
def State.dataCollectives (s : State) (k layers : Nat) : State :=
  if k = 255 then s
  else
    let s := { s with tw := { s.tw with gseq := FMap.set 0 s.tw.gseq k (FMap.get 0 s.tw.gseq k + layers + 1) } }
    s.bump .tideway .twCollCount 0 (layers + 1)

end Sys2Proof.Machine
end

