-- ==== Sys2Proof/Machine/Train.lean ====
section
/-! DEFINITION. Training: jobs, the schedule engine, the update engine, steering, and their rows (R356 to R376). -/

namespace Sys2Proof.Machine

/-! ### The configuration object (R357, R358) -/

/-- An FP32 field of a configuration. -/
def cfgF (b : List Byte) (o : Nat) : FVal := f32 (BitVec.ofNat 32 (field b o 4))
/-- Tensor entries. -/
def cfgTensors (b : List Byte) : Nat := field b 8 4
/-- Pipeline stages. -/
def cfgStages (b : List Byte) : Nat := field b 12 1
/-- This module's stage. -/
def cfgStage (b : List Byte) : Nat := field b 13 1
/-- Group of the stage's replicas; 255 for none. -/
def cfgData (b : List Byte) : Nat := field b 14 1
/-- First and last layer of the stage. -/
def cfgLayers (b : List Byte) : List Nat := (List.range (field b 19 1 + 1 - field b 18 1)).map (· + field b 18 1)
/-- Positions of a micro-batch. -/
def cfgPositions (b : List Byte) : Nat := field b 20 4 * field b 24 2
/-- Group of every module of the job. -/
def cfgJobGroup (b : List Byte) : Nat := field b 49 1

/-- The 32 bytes of tensor entry i. -/
def cfgEntry (b : List Byte) (i : Nat) : List Byte := (b.drop (128 + 32 * i)).take 32
/-- The tensor an entry names in the model package. -/
def entTensor (e : List Byte) : Nat := field e 0 4
/-- 0 FROZEN, 1 ADAMW, 2 ORTHO. -/
def entRule (e : List Byte) : Nat := field e 4 1
/-- Rows that no token of the step names stay as they are (R367). -/
def entSparse (e : List Byte) : Bool := field e 5 1 % 2 = 1
/-- The state format. -/
def entFmt (e : List Byte) : Fmt := (Fmt.ofCode (field e 6 1)).getD .fp32
/-- The rate multiplier. -/
def entLr (e : List Byte) : FVal := cfgF e 8
/-- The weight decay, 0 with decay_exempt set. -/
def entDecay (e : List Byte) : FVal := if field e 5 1 / 2 % 2 = 1 then FVal.zero else cfgF e 12

/-- A tensor of a package: its rows and columns (1 row for a tensor that is not 2-D), and its layer. -/
def tensorShape (data : FMap Byte) (t : Nat) : Nat × Nat × Nat :=
  (Config.package data (2 ^ 40 + 4 * t), Config.package data (2 ^ 40 + 4 * t + 1), Config.package data (2 ^ 40 + 4 * t + 2))

/-- A tensor of a package has two dimensions. -/
def tensorFlat (data : FMap Byte) (t : Nat) : Bool := Config.package data (2 ^ 40 + 4 * t + 3) = 2

/-- A tensor entry breaks nothing of R358. -/
def entryOk (data : FMap Byte) (e : List Byte) : Bool :=
  let (r, c, _) := tensorShape data (entTensor e)
  entRule e ≤ 2 && field e 5 1 ≤ 3 && (field e 6 1 = 0 || field e 6 1 = 1) && zeros e 7 1 && zeros e 16 16 &&
  (entRule e ≠ 2 || (tensorFlat data (entTensor e) && r % 64 = 0 && c % 64 = 0 && r ≤ 16384 && c ≤ 16384)) &&
  (!entSparse e || entRule e = 1)

/-- A configuration object breaks nothing of R357 and R358. -/
def cfgOk (data : FMap Byte) (layers : Nat) (b : List Byte) : Bool :=
  let p := cfgStages b
  let s := cfgStage b
  128 ≤ b.length && 128 + 32 * cfgTensors b ≤ b.length && 1 ≤ p && p ≤ 64 && s < p && (cfgData b < 64 || cfgData b = 255) &&
  field b 15 1 ≤ 1 && (s = 0 → field b 16 1 = 255) && (s + 1 = p → field b 17 1 = 255) && field b 18 1 ≤ field b 19 1 &&
  field b 19 1 < layers && field b 26 1 ≤ 1 && 1 ≤ field b 27 1 && field b 27 1 ≤ 8 && field b 48 1 ≤ 3 &&
  (field b 49 1 < 64 || field b 49 1 = 255) && zeros b 50 2 && zeros b 100 28 &&
  (List.range (cfgTensors b)).all (fun i => entryOk data (cfgEntry b i))

/-! ### FP32 arithmetic in the order written -/

/-- A quotient rounded to FP32. -/
def fDiv : FVal → FVal → FVal
  | .nan, _ => .nan
  | _, .nan => .nan
  | .inf _, .inf _ => .nan
  | .inf a, .fin b _ _ => .inf (a != b)
  | .fin a _ _, .inf b => .fin (a != b) 0 0
  | .fin a m e, .fin b n g =>
    if n = 0 then (if m = 0 then .nan else .inf (a != b))
    else if m = 0 then .fin (a != b) 0 0
    else rneQ (a != b) m n (e - g)

/-- A square root rounded to FP32. -/
def fSqrt : FVal → FVal
  | .nan => .nan
  | .inf n => if n then .nan else .inf false
  | .fin n m e =>
    if m = 0 then .fin n 0 0
    else if n then .nan
    else
      let (m, e) := if e % 2 = 0 then (m, e) else (2 * m, e - 1)
      let y := isqrt (m * 2 ^ 128) (fxBits + 1) 0
      let sticky := if y * y = m * 2 ^ 128 then 0 else 1
      rneQ false (2 * y + sticky) 1 (e / 2 - 65)

/-- A whole power, exact and rounded once to FP32. -/
def fPow (x : FVal) (n : Nat) : FVal :=
  match x with
  | .nan => .nan
  | .inf s => .inf (s && n % 2 == 1)
  | .fin s m e => (FVal.fin (s && n % 2 == 1) (m ^ n) (e * n)).rne

/-- A whole number in FP32. -/
def fNat (n : Nat) : FVal := (FVal.ofInt n).rne

/-- One. -/
def fOne : FVal := .ofInt 1

/-- The greater of two values. -/
def fMax (a b : FVal) : FVal := FVal.max a b

/-! ### The schedule engine (R369) -/

/-- arctan(1 / n) in fixed point. -/
def atanInv (n : Nat) : Nat → Nat → Nat → Int → Int → Int
  | 0, _, _, _, sum => sum
  | fuel + 1, k, p, sign, sum => atanInv n fuel (k + 2) (p / (n * n)) (-sign) (sum + sign * ((p / k : Nat) : Int))

/-- π in fixed point, by Machin's formula. -/
def fxPi : Int := 16 * atanInv 5 300 1 (fxOne / 5) 1 0 - 4 * atanInv 239 100 1 (fxOne / 239) 1 0

/-- cos(π f) for f from 0 to 1, rounded to FP32 by RNE. -/
def cosPi (f : FVal) : FVal :=
  match f with
  | .fin _ m e =>
    if m = 0 then fOne
    else
      let x := fxOf m e
      -- the half turns fall on their exact values
      if 2 * x = fxOne then FVal.zero
      else if x = fxOne then .ofInt (-1)
      else
        let v := fxCos (fxPi.toNat * x / fxOne)
        rneQ (decide (v < 0)) v.natAbs fxOne 0
  | _ => .nan

/-- The rate of step t (R369). -/
def rateOf (b : List Byte) (t : Nat) : FVal :=
  let peak0 := cfgF b 32
  let low := cfgF b 36
  let warm := field b 40 4
  if t < warm then fDiv (fMul peak0 (fNat (t + 1))) (fNat warm)
  else
    let period := field b 52 4
    let u0 := t - warm
    let k := if period = 0 then 0 else u0 / period
    let u := if period = 0 then u0 else u0 % period
    let d := if period = 0 then field b 44 4 else period
    let peak := if period = 0 then peak0 else fMul peak0 (fPow (cfgF b 56) k)
    let f := if d = 0 then fOne else fDiv (fNat (min u d)) (fNat d)
    match field b 48 1 with
    | 0 => peak
    | 1 => fAdd low (fMul (fSub peak low) (fSub fOne f))
    | 2 => fAdd low (fDiv (fMul (fSub peak low) (fAdd fOne (cosPi f))) (.ofInt 2))
    | _ =>
      let every := field b 64 4
      fMax low (fMul peak (fPow (cfgF b 60) (if every = 0 then 0 else u / every)))

/-! ### The update engine (R365 to R368) -/

/-- A value kept in the state format. -/
def keep (f : Fmt) (x : FVal) : FVal := x.round f .rne false 0

/-- ADAMW on one element (R365): the weight and its moments. -/
def adamw (b e : List Byte) (t : Nat) (lr : FVal) (w m v g : FVal) : FVal × FVal × FVal :=
  let b1 := cfgF b 68
  let b2 := cfgF b 72
  let eps := cfgF b 76
  let f := entFmt e
  let eta := fMul lr (entLr e)
  let c1 := fDiv fOne (fSub fOne (fPow b1 t))
  let c2 := fDiv fOne (fSub fOne (fPow b2 t))
  let m := fAdd (fMul b1 m) (fMul (fSub fOne b1) g)
  let v := fAdd (fMul b2 v) (fMul (fMul (fSub fOne b2) g) g)
  let m := keep f m
  let v := keep f v
  let step := fAdd (fDiv (fMul m c1) (fAdd (fSqrt (fMul v c2)) eps)) (fMul (entDecay e) w)
  (fSub w (fMul eta step), m, v)

/-- A BF16 product: FP32 accumulation in chunks of 64 along K, its result rounded to BF16 (R54, R366). -/
def mulBf16 (x y : Mat) (cols : Nat) : Mat :=
  let bf (v : FVal) : FVal := v.round .bf16 .rne false 0
  let x := x.map (·.map bf)
  let y := y.map (·.map bf)
  let columns := (List.range cols).map (Mat.col y)
  x.map (fun r => columns.map (fun cl =>
    let products := List.zipWith FVal.mul r cl
    bf (f32 ((chunksOf 64 products (products.length + 1)).foldl accChunk 0))))

/-- One Newton–Schulz iteration (R366): three products. -/
def newtonSchulz (a b c : FVal) (rows cols : Nat) (x : Mat) : Mat :=
  let bf (v : FVal) : FVal := v.round .bf16 .rne false 0
  let aa := mulBf16 x (Mat.flip x cols) rows
  let aaa := mulBf16 aa aa rows
  let bb := List.zipWith (List.zipWith (fun p q => bf (fAdd (fMul b p) (fMul c q)))) aa aaa
  let bx := mulBf16 bb x cols
  List.zipWith (List.zipWith (fun p q => bf (fAdd (fMul a p) q))) x bx

/-- ORTHO on a tensor (R366): weights and momentum, row by row. -/
def ortho (b e : List Byte) (lr : FVal) (r c : Nat) (w m g : Mat) : Mat × Mat :=
  let eta := fMul lr (entLr e)
  let m := List.zipWith (List.zipWith (fun x y => keep (entFmt e) (fAdd (fMul (cfgF b 68) x) y))) m g
  let (mt, rows, cols) := if c < r then (Mat.flip m c, c, r) else (m, r, c)
  let norm2 := (mt.map (fun row => chunkSum (squares row))).foldl fAdd FVal.zero
  let inv := fnRcp (fAdd (fSqrt norm2) (cfgF b 76))
  let x0 := mt.map (·.map (fun v => fMul v inv))
  let x := (List.range (field b 27 1)).foldl (fun x _ => newtonSchulz (cfgF b 80) (cfgF b 84) (cfgF b 88) rows cols x) x0
  let x := if c < r then Mat.flip x r else x
  let k := fSqrt (fMax fOne (fDiv (fNat r) (fNat c)))
  (List.zipWith (List.zipWith (fun w x => fSub w (fMul eta (fAdd (fMul k x) (fMul (entDecay e) w))))) w x, m)

/-- A list of values as rows of some columns. -/
def rowsOf (cols : Nat) (xs : List FVal) : Mat := chunksOf cols xs (xs.length + 1)

/-- A tensor after the update of step t (R365 to R367); `marked` says which rows of a sparse_rows tensor are. -/
def updateTensor (b e : List Byte) (t : Nat) (r c : Nat) (marked : Nat → Bool) (x : TensorSt) (g : List (BitVec 32)) :
    TensorSt :=
  let lr := rateOf b t
  let at_ (l : List (BitVec 32)) (i : Nat) : FVal := f32 (l.getD i 0)
  match entRule e with
  | 1 =>
    let out := (List.range x.w.length).map (fun i =>
      if entSparse e && !marked (i / max 1 c) then (at_ x.w i, at_ x.m i, at_ x.v i)
      else adamw b e t lr (at_ x.w i) (at_ x.m i) (at_ x.v i) (at_ g i))
    { w := patterns (out.map (·.1)), m := patterns (out.map (·.2.1)), v := patterns (out.map (·.2.2)) }
  | 2 =>
    let m0 := (List.range x.w.length).map (at_ x.m)
    let (w, m) := ortho b e lr r c (rowsOf c (x.w.map f32)) (rowsOf c m0) (rowsOf c (g.map f32))
    { x with w := patterns w.flatten, m := patterns m.flatten }
  | _ => x

/-! ### Jobs -/

/-- A job by number. -/
def State.job (s : State) (j : Nat) : Option Job := FMap.get none s.jobs j
/-- Replaces a job. -/
def State.setJob (s : State) (j : Nat) (x : Option Job) : State := { s with jobs := FMap.set none s.jobs j x }

/-- The package a job trains. -/
def State.jobPkg (s : State) (x : Job) : FMap Byte := s.pkg (((s.model x.model x.version).map (·.package)).getD 0)

/-- The tensors of a job with their shapes, in the order of the configuration. -/
def Job.entries (x : Job) (data : FMap Byte) : List (List Byte × Nat × Nat × Nat) :=
  (List.range (cfgTensors x.cfg)).map (fun i =>
    let e := cfgEntry x.cfg i
    (e, tensorShape data (entTensor e)))

/-- A list of n free FP32 patterns. -/
def freePatterns (ix tensor n : Nat) : List (BitVec 32) := (List.range n).map (Config.trainWord ix tensor)

/-- The 64 KiB units of HBM4 that the tensors of a job take: FP32 master weights, and the moments of their rule in the state format
(R358, R365, R366; notes/assumptions/34.md). -/
def Job.tensorUnits (x : Job) (data : FMap Byte) : Nat :=
  ceilDiv ((x.entries data).map (fun (e, r, c, _) =>
    r * c * (4 + (if entRule e = 1 then 2 else if entRule e = 2 then 1 else 0) * ((entFmt e).width / 8)))).sum poolUnit

/-- The place of a tensor in a job's configuration. -/
def Job.place (x : Job) (tensor : Nat) : Option Nat :=
  (List.range (cfgTensors x.cfg)).find? (fun i => entTensor (cfgEntry x.cfg i) = tensor)

/-- Gives a job the tensors of its configuration: those of `old` as they stand there (R372); the master weights of others, and what other
modules held, are values the spec gives no place (notes/assumptions/30.md); moments start at zero. -/
def State.fillTensors (s : State) (x : Job) (old : Option Job) : Job × State :=
  let data := s.jobPkg x
  let ts := (x.entries data).zipIdx.map (fun ((e, r, c, _), i) =>
    let n := r * c
    let zero := List.replicate n 0
    let draw (k : Nat) := freePatterns (s.freeIx + k) (entTensor e) n
    let fresh : TensorSt := { w := draw 0, m := if old.isNone then zero else draw 1, v := if old.isNone then zero else draw 2 }
    let kept := old.bind (fun o => (o.place (entTensor e)).bind (FMap.get none o.tensors))
    (i, some (kept.getD fresh)))
  ({ x with tensors := ts, units := x.tensorUnits data }, { s with freeIx := s.freeIx + 3 })

/-- The bytes of a configuration object. -/
def State.cfgBytes (s : State) (obj : Nat) : List Byte :=
  match s.cliffObj obj with
  | some o => o.bytes 0 (min (o.units * 4096) (128 + 32 * field (o.bytes 0 128) 8 4))
  | none => []

/-- Members of a job's data group, or 1. -/
def State.replicas (s : State) (b : List Byte) : Nat := if cfgData b = 255 then 1 else s.grpSize (cfgData b)

/-- The checks of an OPEN_JOB (R315, R356 to R358). -/
def State.openJobChecks (s : State) (r : Req) : List (Bool × Status) :=
  let b := r.body
  let m := field b 0 2
  let v := field b 2 1
  let c := s.cfgBytes (field b 4 4)
  [(!zeros b 3 1 || !zeros b 12 4, .eFormat),
   ((s.model m v).isNone || (s.cliffObj (field b 4 4)).isNone, .eGone),
   (!cfgOk (s.pkg (((s.model m v).map (·.package)).getD 0)) (s.shape m v).layers c, .eFormat),
   (16 ≤ (s.jobs.filter (·.2.isSome)).length, .eState)]

/-- OPEN_JOB is applied: the job takes a free number (R356). -/
def State.openJob (k : Nat) (r : Req) (s : State) : State :=
  let b := r.body
  let c := s.cfgBytes (field b 4 4)
  let (j, s) := s.pick ((s.jobs.filter (·.2.isSome)).map (·.1)) 16
  match j with
  | none => s.refuse k .eState
  | some j =>
    let x : Job := { model := field b 0 2, version := field b 2 1, cfg := c, gen := field b 8 4, accum := field c 28 2 }
    let (x, s) := s.fillTensors x none
    (s.setJob j (some x)).answer k .ok 0 0 (leBytes j 4 ++ leBytes 0 4) []

/-- OPEN_JOB (R356). -/
def execOpenJob (qp : BitVec 18) (m : Msg) (s : State) : Host.Outcome State Fault Refusal :=
  .next (s.awake fun s => s.heard qp.toNat (msgSize m) (.openJob qp m) fun s => s.message qp.toNat m (m.opcode == 0x18) State.openJobChecks State.openJob)

/-- The checks of a CLOSE_JOB (R374). -/
def State.closeJobChecks (s : State) (r : Req) : List (Bool × Status) :=
  [(!zeros r.body 4 4, .eFormat), ((s.job (field r.body 0 4)).isNone, .eGone),
   (((s.job (field r.body 0 4)).map (fun x => !x.runs.isEmpty)).getD false, .eState)]

/-- CLOSE_JOB (R374). -/
def execCloseJob (qp : BitVec 18) (m : Msg) (s : State) : Host.Outcome State Fault Refusal :=
  .next (s.awake fun s => s.heard qp.toNat (msgSize m) (.closeJob qp m) fun s => s.message qp.toNat m (m.opcode == 0x1A) State.closeJobChecks
    (fun k r s => (s.setJob (field r.body 0 4) none).answer k .ok 0 0 [] []))

/-! ### Steps (R359, R363, R368, R372) -/

/-- Flags of a TRAIN_STEP (R359): bit 0 REMAP, bit 1 STATS, bit 2 UPDATE_ONLY. -/
def stepFlags (b : List Byte) : Nat := field b 6 2
/-- A TRAIN_STEP with REMAP set. -/
def stepRemap (b : List Byte) : Bool := stepFlags b % 2 = 1
/-- A TRAIN_STEP with UPDATE_ONLY set. -/
def stepOnly (b : List Byte) : Bool := stepFlags b / 4 % 2 = 1

/-- Where the intake of a TRAIN_STEP starts: in the region of the scene its header names. -/
def State.stepIntake (s : State) (r : Req) : Nat := ((s.reqScene r).map (·.intake)).getD 0 + field r.body 20 4

/-- The configuration a TRAIN_STEP runs under: with REMAP, that of the object its intake names first (R372). -/
def State.stepCfg (s : State) (r : Req) (x : Job) : List Byte :=
  if stepRemap r.body then s.cfgBytes (leNat (s.bytes (s.stepIntake r) 4)) else x.cfg

/-- Micro-batches of a TRAIN_STEP: an accum of 0 takes the steering value (R359). -/
def stepAccum (b : List Byte) (x : Job) : Nat := if field b 4 2 = 0 then x.accum else field b 4 2

/-- Bytes of one record of the intake, padded to 64 (R359). -/
def recordBytes (c : List Byte) : Nat := unitBytes64 (4 + 4 * cfgPositions c)

/-- The stage takes data. -/
def takesData (c : List Byte) : Bool := cfgStage c = 0 || cfgStage c + 1 = cfgStages c

/-- Bytes of the intake that a TRAIN_STEP must name. -/
def stepBytes (b : List Byte) (c : List Byte) (a : Nat) : Nat :=
  (if stepRemap b then 4 else 0) + (if takesData c && !stepOnly b then a * recordBytes c else 0)

/-- The global indices of the records of a TRAIN_STEP. -/
def State.recordIndices (s : State) (r : Req) (c : List Byte) (a : Nat) : List Nat :=
  if !takesData c ∨ stepOnly r.body then []
  else (List.range a).map (fun i =>
    leNat (s.bytes (s.stepIntake r + (if stepRemap r.body then 4 else 0) + i * recordBytes c) 4))

/-- Bytes of the statistics block (R373). -/
def statBytes (c : List Byte) : Nat := 64 + 16 * (cfgLayers c).length

/-- The step after the last one of a job that is committed or in progress. -/
def Job.nextStep (x : Job) : Nat :=
  match x.runs.getLast? with
  | some t => t.step + 1
  | none => x.step + 1

/-- The PERMUTE of a job's group is in doubt (R372). -/
def State.jobDoubt (s : State) (c : List Byte) : Bool := cfgJobGroup c < 64 && s.inDoubt (cfgJobGroup c)

/-- The checks of a TRAIN_STEP (R315, R359, R363, R368, R372). -/
def State.stepChecks (s : State) (r : Req) : List (Bool × Status) :=
  let b := r.body
  let job := s.job (field b 0 4)
  let bytes := field b 24 4
  let x := job.getD { model := 0, version := 0, cfg := [], gen := 0, accum := 0 }
  let c := s.stepCfg r x
  let a := stepAccum b x
  let nr := s.replicas c
  let gens := if stepRemap b then [x.gen + 1, x.gen] else [x.gen]
  [(7 < stepFlags b || !zeros b 28 4 || (stepRemap b && stepOnly b), .eFormat),
   (job.isNone || (bytes ≠ 0 && (s.reqScene r).isNone) ||
      (stepRemap b && 4 ≤ bytes && (s.cliffObj (leNat (s.bytes (s.stepIntake r) 4))).isNone), .eGone),
   (stepRemap b && 4 ≤ bytes && !cfgOk (s.jobPkg x) (s.shape x.model x.version).layers c, .eFormat),
   (bytes ≠ stepBytes b c a || 2 ^ 24 < cfgPositions c * a * nr || 2 ^ 40 ≤ field b 8 8 ||
      (s.recordIndices r c a).any (fun g => a * nr ≤ g), .eShape),
   ((bytes ≠ 0 && !s.intakeHas r (field b 20 4) bytes) ||
      (stepFlags b / 2 % 2 = 1 && (descAt b 32).len < statBytes c), .eAddr),
   (field b 8 8 ≠ x.nextStep || !gens.contains (field b 16 4) || s.jobDoubt x.cfg ||
      (stepOnly b && x.kept.map (·.1) ≠ some (field b 8 8)), .eState)]

/-- A TRAIN_STEP is accepted: it runs after those of its job before it (R374). -/
def State.stepBegins (k : Nat) (r : Req) (s : State) : State :=
  let b := r.body
  match s.job (field b 0 4) with
  | none => s.refuse k .eGone
  | some x =>
    let t : TrainRun := { req := k, step := field b 8 8, accum := stepAccum b x, stats := stepFlags b / 2 % 2 = 1,
                          only := stepOnly b
                          remap := if stepRemap b then some (s.stepCfg r x) else none }
    s.setJob (field b 0 4) (some { x with runs := x.runs ++ [t] })

/-- A REMAP's PERMUTE has been decided (R372): the job runs under its new configuration and generation, and the group of
the job advances. -/
def State.remapped (s : State) (j : Nat) (x : Job) (c : List Byte) (gen : Nat) : Job × State :=
  if gen = x.gen then ({ x with cfg := c }, s)
  else
    let g := cfgJobGroup x.cfg
    let s := s.bump .tideway .twPermuteCount 0 1
    let s := if g < 64 then s.setFld .tideway .twGroup g 55 40 (gen % 65536) else s
    let x := { x with doubt := none }
    let (y, s) := s.fillTensors { x with cfg := c, gen := gen } (some x)
    let kept := x.kept.map (fun k => (k.1, (y.entries (s.jobPkg y)).map (fun (e, r, cols, _) =>
      match x.place (entTensor e) with
      | some i => k.2.getD i []
      | none => if entRule e = 0 then [] else freePatterns s.freeIx (entTensor e) (r * cols))))
    let y := { y with kept := kept }
    (y, { s with freeIx := s.freeIx + 1 }.setJob j (some y))

/-- A PERMUTE on a job's group takes a number of the group, and is counted (R340, R345, R352). -/
def State.permuteNumbered (s : State) (g : Nat) : State :=
  if 64 ≤ g then s
  else { s with tw := { s.tw with gseq := FMap.set 0 s.tw.gseq g (FMap.get 0 s.tw.gseq g + 1) } }.bump .tideway .twCollCount 0 1

/-- A job whose last REMAP is in doubt: once a ring neighbour is reached, Gulkutik resolves the PERMUTE by the generation at ring_start,
which a free value tells, before the job takes another step (R350, R372). -/
def State.resolveDoubt (s : State) (j : Nat) : State :=
  match s.job j with
  | none => s
  | some x =>
    match x.doubt with
    | none => s
    | some c =>
      let g := cfgJobGroup x.cfg
      if s.peerLost (s.grpLeft g) ∧ s.peerLost (s.grpRight g) then s
      else
        let (r, s) := s.draw
        let s := (s.setFld .tideway .twGroup g 62 62 0).bump .tideway .twCollCount 0 1
        if bit1 r 0 then (s.remapped j x c (x.gen + 1)).2 else s.setJob j (some { x with doubt := none })

/-- The row of a TRAIN_STEP by its flags: REMAP and UPDATE_ONLY have rows of their own. -/
def stepRow (m : Msg) : Nat := if stepOnly m.body then 2 else if stepRemap m.body then 1 else 0

/-- TRAIN_STEP (R359). -/
def execTrainStep (qp : BitVec 18) (m : Msg) (s : State) : Host.Outcome State Fault Refusal :=
  .next (s.awake fun s => s.heard qp.toNat (msgSize m) (.trainStep qp m) fun s => (s.resolveDoubt (field m.body 0 4)).message qp.toNat m (m.opcode == 0x19 && stepRow m == 0) State.stepChecks State.stepBegins)
/-- REMAP (R372). -/
def execRemap (qp : BitVec 18) (m : Msg) (s : State) : Host.Outcome State Fault Refusal :=
  .next (s.awake fun s => s.heard qp.toNat (msgSize m) (.remap qp m) fun s => (s.resolveDoubt (field m.body 0 4)).message qp.toNat m (m.opcode == 0x19 && stepRow m == 1) State.stepChecks State.stepBegins)
/-- UPDATE_ONLY (R368). -/
def execUpdateOnly (qp : BitVec 18) (m : Msg) (s : State) : Host.Outcome State Fault Refusal :=
  .next (s.awake fun s => s.heard qp.toNat (msgSize m) (.updateOnly qp m) fun s => (s.resolveDoubt (field m.body 0 4)).message qp.toNat m (m.opcode == 0x19 && stepRow m == 2) State.stepChecks State.stepBegins)

/-! ### Noise statistics and steering (R370, R371) -/

/-- The working copy of a tensor as its products read it. -/
def State.tensorWeights (s : State) (x : Job) (t r c : Nat) : Mat :=
  let f := fmtNamed (tensorNum (s.jobPkg x) t 1)
  let place := tensorNum (s.jobPkg x) t 0
  let work := (s.weightsId x.model x.version).2
  (List.range r).map (fun i =>
    decodeRow f ((List.range (f.rowBytes c)).map (fun j => weightAt (s.jobPkg x) work (place + i * f.rowBytes c + j))) c)

/-- The stage of a job as its next step finds it. -/
def State.stageOf (s : State) (x : Job) : PipeStage :=
  let c := x.cfg
  { data := s.jobPkg x, shape := shapeOf (s.jobPkg x)
    tensors := (x.entries (s.jobPkg x)).map (fun (e, r, cols, l) =>
      { ix := entTensor e, rows := r, cols := cols, layer := l, trained := entRule e ≠ 0,
        weights := s.tensorWeights x (entTensor e) r cols })
    layers := cfgLayers c, seqs := field c 24 2, len := field c 20 4
    next := if cfgStage c + 1 = cfgStages c then none else some (field c 17 1)
    prev := if cfgStage c = 0 then none else some (field c 16 1)
    draw := s.freeIx }

/-- What fixes the values of the k-th micro-batch of a step (R359): on a stage that takes data its record; elsewhere its index came with the
activations. -/
def State.microIn (s : State) (x : Job) (t : TrainRun) (r : Req) (k : Nat) : Config.MicroIn :=
  let c := x.cfg
  let at_ := s.stepIntake r + (if stepRemap r.body then 4 else 0) + k * recordBytes c
  let g := if takesData c then leNat (s.bytes at_ 4)
    else (Config.trainWord s.freeIx (2 ^ 21) k).toNat % max 1 (t.accum * s.replicas c)
  { package := s.jobPkg x, weights := s.weightsId x.model x.version, seed := BitVec.ofNat 64 (field c 0 8)
    step := BitVec.ofNat 64 (t.step * 2 ^ 24 + g)
    tokens := (List.range (cfgPositions c)).map (fun i =>
      if takesData c then leNat (s.bytes (at_ + 4 + 4 * i) 4) else (Config.trainWord s.freeIx (2 ^ 22 + k) i).toNat) }

/-- The neighbours and the data group of a stage can take its collectives (R342, R344, R364). -/
def State.stageLinks (s : State) (x : Job) (g : PipeStage) : Status :=
  firstFail [check ((g.next.toList ++ g.prev.toList).all (fun p => bit1 (s.rd .tideway .twPeer p) 63)) .eAddr,
    s.dataGroup (cfgData x.cfg) x.gen]

/-- Runs the micro-batches of a step (R360, R361): all of them, or those up to the B with which a failed step ended. -/
def State.runMicro (s : State) (x : Job) (t : TrainRun) (r : Req) (upTo : Option Nat) : StageRun × State :=
  let g := s.stageOf x
  let c := x.cfg
  let all := withWeights (cfgStages c) (field c 15 1 = 1) (fun n => (Config.trainWord g.draw (2 ^ 20) n).toNat) [] 0
    (passOrder (cfgStages c) (cfgStage c) t.accum)
  let ops := match upTo with | none => all | some n => untilBack n all
  ops.foldl (g.run (s.microIn x t r)) (g.start, { s with freeIx := s.freeIx + 1 })

/-- The reduced gradient of a step by tensor entry (R363, R364). -/
def State.gradient (s : State) (x : Job) (g : PipeStage) (r : StageRun) : List (List (BitVec 32)) :=
  let k := cfgData x.cfg
  if k = 255 then g.reduced r 0 1 0 else g.reduced r (s.grpRank k) (s.grpSize k) (s.grpStart k)

/-- A value is NaN or infinite. -/
def nonFinite (p : BitVec 32) : Bool := match f32 p with | .fin _ _ _ => false | _ => true

/-- The figures of a layer: Σq, Q_b, G2 and S (R370). `q` is Σ_g q over the replicas, `bt` the positions b and `n` the
micro-batches of all replicas. -/
def layerFigures (q qb : FVal) (bt n : Nat) : FVal × FVal × FVal × FVal :=
  if n = 1 then (q, qb, .nan, .nan)
  else
    let qbar := fDiv q (fNat n)
    let all := bt * n
    let g2 := fDiv (fSub (fDiv qb (fNat all)) (fDiv qbar (fNat bt))) (fNat (all - bt))
    (q, qb, g2, fSub (fDiv qbar (fNat bt)) (fMul (fNat bt) g2))

/-- The figures of a step by layer (R370): the noise sums of the replicas, added in ascending rank, and the squared norm of the reduced
gradient. -/
def State.stepFigures (s : State) (x : Job) (g : PipeStage) (a : Nat) (q : List FVal) (grad : List (List (BitVec 32))) :
    List (FVal × FVal × FVal × FVal) :=
  let c := x.cfg
  let nr := s.replicas c
  let rank := if cfgData c = 255 then 0 else s.grpRank (cfgData c) % nr
  List.zipWith (fun l own =>
    let all := (List.range nr).foldl (fun acc k => fAdd acc (if k = rank then own else f32 (Config.trainWord g.draw (2 ^ 23 + l) k)))
      FVal.zero
    layerFigures all (g.layerSquares l (grad.map (·.map f32))) (cfgPositions c) (a * nr)) g.layers q

/-- B_crit from the sums of S and G2 (R370). -/
def bCrit (sumS sumG2 : FVal) : FVal :=
  match sumG2 with
  | .nan => .nan
  | g => if FVal.lt FVal.zero g then fDiv sumS g else .inf false

/-- A value rounded to a whole number by RNE and limited (R371). -/
def wholeOf (lo hi : Nat) (x : FVal) : Nat :=
  match x with
  | .fin false m e =>
    let q := if 0 ≤ e then m * 2 ^ e.toNat else
      let d := 2 ^ (-e).toNat
      let k := m / d
      let r := m % d
      if 2 * r < d then k else if d < 2 * r then k + 1 else k + k % 2
    max lo (min hi q)
  | .inf false => max lo hi
  | _ => lo

/-- The next accum of stage 0 (R371): β and a_next. -/
def steer (c : List Byte) (nr accum : Nat) (beta : Option (BitVec 32)) (crit : FVal) : Option (BitVec 32) × Nat :=
  if field c 26 1 = 0 then (beta, accum)
  else if crit.isNan then (beta, accum)
  else
    let k := cfgF c 92
    let g := cfgF c 96
    let b := match beta with
      | none => crit
      | some b0 => fAdd (fMul g (f32 b0)) (fMul (fSub fOne g) crit)
    let bt := cfgPositions c
    let lo := max (field c 28 2) ((accum + 1) / 2)
    let hi := min (field c 30 2) (min (2 * accum) (2 ^ 24 / max 1 (bt * nr)))
    (some (rne32 b), if b.isNan then accum else wholeOf lo hi (fDiv (fMul k b) (fNat (bt * nr))))

/-! ### UPDATE_COMMIT (R368) -/

/-- Rows of a sparse_rows tensor that a token of the step names; which tokens other replicas and stages read is not known
here (R367). -/
def State.rowMarked (s : State) (tokens : List Nat) (i : Nat) : Bool := tokens.contains i || Config.freeBit (s.freeIx + 2) i

/-- Tokens of the records of a step on this module. -/
def State.stepTokens (s : State) (r : Req) (c : List Byte) (a : Nat) : List Nat :=
  if !takesData c then []
  else (List.range a).flatMap (fun i =>
    (List.range (cfgPositions c)).map (fun j =>
      leNat (s.bytes (s.stepIntake r + (if stepRemap r.body then 4 else 0) + i * recordBytes c + 4 + 4 * j) 4)))

/-- The tensors of a job after the update of a step. -/
def State.updated (s : State) (x : Job) (t : Nat) (tokens : List Nat) (grad : List (List (BitVec 32))) :
    FMap (Option TensorSt) :=
  (x.entries (s.jobPkg x)).zipIdx.map (fun ((e, r, c, _), i) =>
    (i, (FMap.get none x.tensors i).map (fun y => updateTensor x.cfg e t r c (s.rowMarked tokens) y (grad.getD i []))))

/-- The statistics block (R373). -/
def statBlock (t : TrainRun) (next gen : Nat) (lr loss crit : BitVec 32) (skipped : Bool)
    (figures : List (FVal × FVal × FVal × FVal)) : List Byte :=
  leBytes t.step 8 ++ leBytes lr.toNat 4 ++ leBytes t.accum 2 ++ leBytes next 2 ++ leBytes gen 4 ++ leBytes loss.toNat 4 ++
  leBytes crit.toNat 4 ++ leBytes (if skipped then 1 else 0) 1 ++ List.replicate 35 0 ++
  figures.flatMap (fun (a, b, c, d) => [a, b, c, d].flatMap (fun v => leBytes (rne32 v).toNat 4))

/-- Both update engines do the same. -/
def State.onUpdate (s : State) (f : State → Pg → State) : State := f (f s (.update 0)) (.update 1)

/-- How the work of a training step ends (R359, R368, R374). -/
def State.stepEnding (s : State) (r : Req) (e : HwEnd) : Option Status :=
  match e with
  | .finished => some .ok
  | .stopped => r.stop s.now allStatus
  | .uncorrected _ => some .eMemUncorr
  | .power => some .ePower
  | .link => some .eLink
  | .gone => some .eGone
  | .answered st => if st = .ok then none else some st

/-- A training step fails (R359, R368, R374): no tensor changes; later steps of the job, which counted on it, end with
E_STATE. -/
def State.trainFails (s : State) (j : Nat) (x : Job) (t : TrainRun) (st : Status) (e : TrainEnd)
    (grad : List (List (BitVec 32))) : State :=
  let rest := x.runs.drop 1
  let x := { x with runs := [], kept := if e.reduced then some (t.step, grad) else x.kept }
  let s := s.setJob j (some x)
  let s := if e.reduced ∨ t.only then s.onUpdate (fun s p => s.event p 1) else s
  let s := { s with freeIx := s.freeIx + 1 }.answer t.req st 0 (if t.remap.isSome && !e.remapped then 0 else min e.micro.toNat t.accum)
    (leBytes 0 4 ++ leBytes (if cfgStage x.cfg = 0 then x.accum else 0) 4) []
  rest.foldl (fun (s : State) y => s.refuse y.req .eState) s

/-- The working copies of a job's tensors, from their master weights, in the formats of the package by RNE (R358). -/
def State.workCopies (s : State) (x : Job) (ts : FMap (Option TensorSt)) (old : FMap (List Byte)) : FMap (List Byte) :=
  (x.entries (s.jobPkg x)).zipIdx.foldl (fun (w : FMap (List Byte)) y =>
    let ((e, _, c, _), i) := y
    match FMap.get none ts i with
    | none => w
    | some z =>
      let n := entTensor e
      let sr : SrIn := { seed := 0, step := 0, tag := 0, base := 0, rowLen := 0, rnd := .rne,
                         sat8 := tensorNum (s.jobPkg x) n 2 % 2 = 1 }
      if entRule e = 0 then w
      else FMap.set [] w n ((rowsOf c (z.w.map f32)).flatMap (encodeRow (fmtNamed (tensorNum (s.jobPkg x) n 1)) sr 0 0 []))) old

/-- The working copies of a job's model take the place of the old ones (R358, R368). -/
def State.swapWeights (s : State) (x : Job) (ts : FMap (Option TensorSt)) : State :=
  match s.model x.model x.version with
  | none => s
  | some m =>
    let m := { m with work := s.workCopies x ts m.work }
    (s.setModel x.model x.version (some m)).writeHomes m

/-- Elements that the update of a step changes, and rows that it leaves untouched (R367, R375). -/
def State.updateCounts (s : State) (x : Job) (tokens : List Nat) : Nat × Nat :=
  (x.entries (s.jobPkg x)).foldl (fun n y =>
    let (e, r, c, _) := y
    if entRule e = 0 then n
    else
      let rows := if entSparse e then ((List.range r).filter (s.rowMarked tokens)).length else r
      (n.1 + rows * c, n.2 + (r - rows))) (0, 0)

/-- Adds to a counter of the update engines: each counts what lies in its die's partitions, which the spec does not fix. -/
def State.updateBump (s : State) (c : RegName) (n : Nat) : State :=
  let (w, s) := s.draw
  (s.bump (.update 0) c 0 (w.toNat % (n + 1))).bump (.update 1) c 0 (n - w.toNat % (n + 1))

/-- A training step commits (R368): every tensor is updated, or the update is skipped for a gradient that is not finite;
the statistics and the response go out. `q` holds the module's own noise sums by layer, and `own` the loss of its micro-batches. -/
def State.trainCommits (s : State) (j : Nat) (x : Job) (t : TrainRun) (r : Req) (e : TrainEnd) (g : PipeStage)
    (grad : List (List (BitVec 32))) (q : List FVal) (own : FVal) : State :=
  let c := x.cfg
  let nr := s.replicas c
  let figures := s.stepFigures x g t.accum q grad
  let own2 := figures.foldl (fun a f => fAdd a f.2.2.1) FVal.zero
  let ownS := figures.foldl (fun a f => fAdd a f.2.2.2) FVal.zero
  let last := cfgStage c + 1 = cfgStages c
  let totS := if last then ownS else fAdd (f32 e.sumS) ownS
  let tot2 := if last then own2 else fAdd (f32 e.sumG2) own2
  let first := cfgStage c = 0
  let (beta, next) := if first then steer c nr t.accum x.beta (bCrit totS tot2) else (x.beta, e.next.toNat)
  let skipped := grad.any (·.any nonFinite)
  let lr := rne32 (rateOf c t.step)
  let tokens := s.stepTokens r c t.accum
  let tensors := if skipped then x.tensors else s.updated x t.step tokens grad
  let counts := s.updateCounts x tokens
  let ortho := (x.entries (s.jobPkg x)).any (fun y => entRule y.1 = 2)
  let loss := if last then rne32 own else 0
  let s := s.setJob j (some { x with
    step := t.step, accum := next, beta := beta, tensors := tensors, kept := some (t.step, grad), runs := x.runs.drop 1 })
  let s := if skipped then s
    else (((s.swapWeights x tensors).updateBump .updElements counts.1).updateBump .updRowsSkipped counts.2)
  let s := s.onUpdate (fun s p =>
    let s := if skipped then (s.bump p .updSkips 0 1).event p 0
      else if ortho then (s.bump p .updCommits 0 1).bumpFree p .updNsProducts 0
      else s.bump p .updCommits 0 1
    let s := (s.setFld p .updStat 0 47 16 (t.step % 2 ^ 32)).setFld p .updStat 0 12 9 j
    s.wr p .updLr 0 (BitVec.ofNat 64 (lr.toNat + t.step % 2 ^ 32 * 2 ^ 32)))
  let s := if first ∧ next ≠ t.accum then s.onUpdate (fun s p => s.event p 2) else s
  let crit := rne32 (bCrit ownS own2)
  let d := descAt r.body 32
  let block := statBlock t (if first then next else 0) x.gen lr loss crit skipped figures
  let s := { s with freeIx := s.freeIx + 3 }
  s.answer t.req .ok 0 t.accum (leBytes (if t.stats then block.length else 0) 4 ++ leBytes (if first then next else 0) 4)
    (if t.stats then [(d.addr, d.rkey, block)] else [])

/-- The update engines run: neither is QUIESCED or DRAINED (R394). -/
def State.updates (s : State) : Bool :=
  [(0 : Fin 2), 1].all (fun h => s.live (.update h) != .quiesced && s.live (.update h) != .drained)

/-- UPDATE_COMMIT (R368): the oldest training step of a job ends on this module. -/
def execUpdateCommit (j : Fin 16) (e : TrainEnd) (s : State) : Host.Outcome State Fault Refusal :=
  .next (s.awake fun s => match (if s.updates then s.job j.val else none) with
    | none => s
    | some x =>
      match x.runs with
      | [] => s
      | t :: _ =>
        match s.req t.req with
        | none => s
        | some r =>
          match s.stepEnding r e.how with
          | none => s
          | some st =>
            -- a REMAP whose PERMUTE was not decided does not run the step
            let moves : Bool := t.remap.isSome && field r.body 16 4 != x.gen
            if st = .ok ∧ moves ∧ !e.remapped then s
            else
              let s := if moves then s.permuteNumbered (cfgJobGroup x.cfg) else s
              let (x, s) := match t.remap with
                | some c => if e.remapped || !moves then s.remapped j.val x c (field r.body 16 4) else (x, s)
                | none => (x, s)
              -- micro-batches whose values the spec gives no place where only the update runs
              let g := s.stageOf x
              let st := if st = .ok ∧ !t.only then s.stageLinks x g else st
              let moved := !moves || e.remapped
              let whole : Bool := decide (st = .ok) || e.reduced
              let ((run : StageRun), s) := if t.only || !moved then
                  (({ grad := [], q := g.layers.map (fun l => f32 (Config.trainWord g.draw l 0)),
                      loss := f32 (Config.trainWord g.draw 2 0xFFFFFFFF) } : StageRun), { s with freeIx := s.freeIx + 1 })
                else s.runMicro x t r (if whole then none else some (min e.micro.toNat t.accum))
              let s := if !t.only && moved && whole then s.dataCollectives (cfgData x.cfg) g.layers.length else s
              let grad := if t.only then (x.kept.map (·.2)).getD [] else s.gradient x g run
              let s := if st = .eLink ∧ moves ∧ !e.remapped ∧ e.reduced then
                  -- in doubt: both ring links were lost after the ready token (R350, R372)
                  (s.setFld .tideway .twGroup (cfgJobGroup x.cfg % 64) 62 62 1).event .tideway 2
                else s
              let x := if st = .eLink ∧ moves ∧ !e.remapped ∧ e.reduced then { x with doubt := t.remap } else x
              if st = .ok then s.trainCommits j.val x t r e g grad run.q run.loss
              else s.trainFails j.val x t st (if moves ∧ !e.remapped then { e with reduced := false } else e) grad)

end Sys2Proof.Machine
end

