-- ==== Sys2Proof/Machine/Live.lean ====
section
/-! DEFINITION. The LIVE handshake of the blocks: requests, drain boundaries and RESUME (R393, R394, R467). -/

namespace Sys2Proof.Machine

/-- The page whose LIVE governs a page's block; none for a page whose LIVE reads RUNNING (R394, R467). -/
def Pg.governing : Pg → Option Pg
  | .sequencer c | .array c | .vector c | .score c | .recurrent c => some (.sequencer c)
  | .foreshore h => some (.foreshore h)
  | .update h => some (.update h)
  | .harbour h => some (.harbour h)
  | .hbm k => some (.hbm k)
  | .twPort p => some (.twPort p)
  | .estuary => some .estuary
  | .cliff => some .cliff
  | .tideway => some .tideway
  | _ => none

/-- The handshake of a page (R393). -/
def State.liveRec (s : State) (p : Pg) : Live := FMap.get {} s.lives p.index

/-- Replaces the handshake of a page. -/
def State.setLive (s : State) (p : Pg) (l : Live) : State := { s with lives := FMap.set {} s.lives p.index l }

/-- A swap of the page's core is in progress, so a request waits for its end (R388). -/
def State.swapping (s : State) (p : Pg) : Bool :=
  match p, s.sys.swap with
  | .sequencer c, some w => w.core == c.val
  | _, _ => false

/-- RESUME: the block returns to RUNNING, and the doorbells that waited take effect in order (R393). -/
def State.resume (s : State) (p : Pg) : State :=
  let l := s.liveRec p
  let s := s.setLive p { l with state := .running, held := false }
  match p with
  | .sequencer c =>
    let bells := (s.core c).heldBells
    let s := s.setCore c { s.core c with heldBells := [] }
    (bells.foldl (fun (s : State) b => s.doorbell c (Fin.ofNat 8 b.1) b.2) s).arbitrate c
  | .twPort _ => s.pumpPorts
  | _ => s

/-! ### Slices that stop (R446) -/

/-- The running bits of ST_STAT follow the slices that run (R456). -/
def State.sliceBits (s : State) : State :=
  s.setFld .selfTest .stStat 0 41 0
    ((List.range 42).foldl (fun n p => if (FMap.get none s.sys.slices p).isSome then n + 2 ^ p else n) 0)

/-- The slice of a physical core is over: its time counts in ST_SLICE_TIME (R454). -/
def State.sliceOver (s : State) (p : Nat) : State :=
  match FMap.get none s.sys.slices p with
  | none => s
  | some x =>
    let s := { s with sys := { s.sys with slices := FMap.set none s.sys.slices p none } }
    (s.bump .selfTest .stSliceTime 0 (s.now - x.start).toNat).sliceBits

/-- The slice of a physical core aborts: the core stands as it did before it, and it counts as not run (R446). -/
def State.sliceAborts (s : State) (p : Nat) : State :=
  let s := { s with sys := { s.sys with granted := s.sys.granted.del p } }
  if (FMap.get none s.sys.slices p).isSome then (s.sliceOver p).bump .selfTest .stSlicesAborted 0 1 else s

/-- A handshake that begins on a core aborts the slice that runs on it (R444, R455). -/
def State.liveAborts (s : State) (p : Pg) : State :=
  match p with
  | .sequencer c => s.sliceAborts (s.physOf c.val)
  | _ => s

/-! ### Requests (R393) -/

/-- A LIVE request on a governing page: 1 QUIESCE, 2 DRAIN, 3 RESUME, by an owner 0 host, 1 Gulkutik, 2 Tidewatch
(R393). -/
def State.liveNow (s : State) (p : Pg) (req owner : Nat) : State :=
  let l := s.liveRec p
  if l.state = .running then
    match req with
    | 1 => (s.liveAborts p).setLive p { l with state := .quiescing, owner := owner }
    | 2 => (s.liveAborts p).setLive p { l with state := .draining, owner := owner }
    | _ => s
  else if l.owner ≠ owner ∧ owner ≠ 2 then s
  else
    match req with
    | 3 => s.resume p
    | 2 => if l.state = .quiescing ∨ l.state = .quiesced ∨ l.owner ≠ owner then s.setLive p { l with state := .draining, owner := owner } else s
    | 1 => if l.owner ≠ owner then s.setLive p { l with state := .quiescing, owner := owner } else s
    | _ => s

/-- A LIVE request written to a page: only a governing page of a unit that is present takes one (R393, R458, R467), one of 0
is ignored (R490), and one on a core that is being swapped waits (R388). -/
def State.liveReq (s : State) (p : Pg) (req owner : Nat) : State :=
  if p.governing ≠ some p ∨ !s.present p then s
  else if req = 0 then s.ignore p
  else if s.swapping p then
    let l := s.liveRec p
    s.setLive p { l with waiting := l.waiting ++ [(req, owner)] }
  else s.liveNow p req owner

/-- A handshake over the pages of a row's operand: a page index (R464). -/
def State.liveRow (s : State) (page : Nat) (req : Nat) (owner : Fin 3) : State :=
  match Pg.ofIndex page with
  | some p => s.liveReq p req owner.val
  | none => s

/-- QUIESCE (R393). -/
def execQuiesce (page : BitVec 14) (owner : Fin 3) (s : State) : Host.Outcome State Fault Refusal :=
  .next (s.awake fun s => s.liveRow page.toNat 1 owner)

/-- DRAIN (R393). -/
def execDrain (page : BitVec 14) (owner : Fin 3) (s : State) : Host.Outcome State Fault Refusal :=
  .next (s.awake fun s => s.liveRow page.toNat 2 owner)

/-- RESUME (R393). -/
def execResume (page : BitVec 14) (owner : Fin 3) (s : State) : Host.Outcome State Fault Refusal :=
  .next (s.awake fun s => s.liveRow page.toNat 3 owner)

/-! ### Drain boundaries (R394) -/

/-- The states of the queues of a core. -/
def State.queueStates (s : State) (c : Nat) : List QState := (List.range 8).map (fun q => (s.queue c q).state)

/-- A MOVE of a core is in flight. -/
def State.movesInFlight (s : State) (c : Nat) : Bool :=
  (List.range 8).any (fun q => (s.queue c q).flights.any (fun f => !f.done && f.ins.opcode == opMove))

/-- A MOVE of another core that was issued with a destination in the Ledge of a core is in flight (R114). -/
def State.deliveriesTo (s : State) (c : Nat) : Bool :=
  (List.range 36).any (fun k => k ≠ c && (List.range 8).any (fun q => (s.queue k q).flights.any (fun f =>
    !f.done && f.ins.opcode == opMove && (mvIssued f).any (fun a => decide (ledgeBase c ≤ a) && decide (a < ledgeBase c + ledgeSize)))))

/-- The work that a block's handshake waits for is over (R394). A swap waits for the deliveries accepted for its core too (R114,
R388). -/
def State.atBoundary (s : State) (p : Pg) (drain : Bool) : Bool :=
  match p with
  | .sequencer c =>
    if drain then !s.movesInFlight c.val && (!s.swapping p || !s.deliveriesTo c.val)
    else (s.queueStates c.val).all (fun x => x == .idle || x == .halted || x == .waiting)
  | .foreshore h => (s.fsJob h).all (fun j => j.waiting)
  | .cliff => s.cliff.runs.isEmpty
  | .tideway => (List.range 8).all (fun r => (s.coll r).isNone)
  | _ => true

/-- Flushes every write-combining entry of a stack (R249, R394). -/
def State.wcDrain (s : State) (k : Fin 12) : State := (s.wcOf k).foldl (fun (s : State) e => s.wcFlushed k e) (s.setWc k [])

/-- What a block does on the way to its boundary (R394): a Harbour half writes back its dirty lines, and a stack's
controller flushes its write-combining entries. -/
def State.empties (s : State) (p : Pg) : State :=
  match p with
  | .harbour h => s.writeBack h
  | .hbm k => s.wcDrain k
  | _ => s

/-- A block reaches its boundary (R393, R394); the drain of a swap is not counted (R388). -/
def State.liveReached (s : State) (p : Pg) : State :=
  let l := s.liveRec p
  let n := if s.swapping p then l.transitions else (l.transitions + 1) % 65536
  if l.state = .quiescing ∧ s.atBoundary p false then (s.empties p).setLive p { l with state := .quiesced, transitions := n }
  else if l.state = .draining ∧ s.atBoundary p true then (s.empties p).setLive p { l with state := .drained, transitions := n }
  else s

/-- LIVE_BOUNDARY_REACHED (R394). -/
def execLiveBoundaryReached (page : BitVec 14) (s : State) : Host.Outcome State Fault Refusal :=
  .next (s.awake fun s => match Pg.ofIndex page.toNat with
    | some p => if p.governing = some p then s.liveReached p else s
    | none => s)

/-- Work waits for a RESUME on a block (R393): doorbells of a core, jobs, commands and descriptors of a ring, frames of a
port, or training steps. -/
def State.liveHeld (s : State) (p : Pg) : Bool :=
  let l := s.liveRec p
  l.state != .running && (l.held || match p with
    | .foreshore _ => (s.fsJob ((if p.inst = 0 then 0 else 1))).isSome || s.fld p .fsRingHead 0 31 0 != s.fld p .fsRingTail 0 31 0
    | .cliff => s.fld .cliff .cliffRingHead 0 31 0 != s.fld .cliff .cliffRingTail 0 31 0
    | .tideway => (List.range 8).any (fun r => s.fld .tideway .twRingPtr r 31 0 != s.fld .tideway .twRingPtr r 63 32)
    | .twPort p => (s.twPort p.val).queue != []
    | .update _ => s.jobs.any (fun x => (x.2.map (fun j => j.runs != [])).getD false)
    | _ => false)

/-- The LIVE register as it reads (R393, R467): the governing page's handshake on every page of its block. -/
def State.liveValue (s : State) (p : Pg) : Word :=
  match p.governing with
  | none => 0
  | some g =>
    let l := s.liveRec g
    let st := match l.state with | .running => 0 | .quiescing => 1 | .quiesced => 2 | .draining => 3 | .drained => 4 | .resuming => 5
    BitVec.ofNat 64 (st * 4 + (if s.liveHeld g then 32 else 0) + l.owner * 64 + l.transitions % 65536 * 256)

end Sys2Proof.Machine
end

