-- ==== Sys2Proof/Machine/Repair.lean ====
section
/-! DEFINITION. Recovery in service: semaphore resets, the error ring, spare-core swaps, retirement of cores and of
pseudo-channels, and the modes of the Harbour counters (R258, R379, R380, R385, R387 to R391). -/

namespace Sys2Proof.Machine

/-! ### The field record and the Harbour mode -/

/-- The security engine writes the field record with the next sequence number (R423). -/
def State.fieldWrite (s : State) : State :=
  s.setFld .security .secOwner 0 63 32 (s.fld .security .secOwner 0 63 32 + 1)

/-! ### Row repair (R392) -/

/-- The HBM4 row of an address: its stack, pseudo-channel, bank and row (R241). -/
def rowKey (a : Nat) : Nat :=
  let o := a % 0x2000000000
  (((stackOf a).val * 64 + o / 1024 % 64) * 16 + ((o / 2 ^ 16 % 16) ^^^ (o / 2 ^ 20 % 16))) * 2 ^ 21 + Config.hbmRow (o / 2 ^ 16)

/-- A row found failing in service is added to the repair map, which the field record holds (R392, R423). -/
def State.addRow (s : State) (a : Nat) : State :=
  if s.sys.repairRows.contains (rowKey a) then s
  else { s with sys := { s.sys with repairRows := s.sys.repairRows.add (rowKey a) } }.fieldWrite

/-- SCRUB (R239, R392): one 32-byte word of Ledge or HBM4 is read in an idle port cycle. A corrected error is a Corrected
record; an uncorrectable one leaves the word failing until a write covers it, and its HBM4 row failing
(R392). -/
def execScrub (a : Word) (f : Scrubbed) (s : State) : Host.Outcome State Fault Refusal :=
  let n := a.toNat / 32 * 32
  .next (s.awake fun s => if s.reach n ≠ .ok then s
    else match f with
    | .clean => s
    | .uncorrectable =>
      let s := { s with bad := KeySet.add s.bad (n / 32) }
      if hbmAddr n then s.addRow n else s
    | .corrected =>
      if hbmAddr n then
        let p : Pg := .hbm (stackOf n)
        ((s.bump p .hbmEccCorrected 0 1).event p 0).corrected p .eMemUncorr n
      else if 0x300000000000 ≤ n then
        s.corrected (.sequencer (Fin.ofNat 36 ((n - 0x300000000000) / 0x2000000))) .eMemUncorr n
      else s)

/-- HB_FROZEN_TIME now (R258): the tideline units that a half has spent outside SERVICE, those of the running mode among them. -/
def State.frozenTime (s : State) (h : Fin 2) : Word :=
  let p : Pg := .harbour h
  if s.fld p .hbStat 0 21 19 ≠ 0 ∧ bit1 (s.rd p .hbCtrl 0) 1 then
    satAdd (s.rd p .hbFrozenTime 0) (s.now - FMap.get 0 s.sys.modeSince h.val).toNat
  else s.rd p .hbFrozenTime 0

/-- HB_FROZEN_TIME takes its value now, and counts on from here. -/
def State.frozenNow (s : State) (h : Fin 2) : State :=
  let s := s.wr (.harbour h) .hbFrozenTime 0 (s.frozenTime h)
  { s with sys := { s.sys with modeSince := FMap.set 0 s.sys.modeSince h.val s.now } }

/-- Puts a Harbour half into a mode; the time spent outside SERVICE counts in HB_FROZEN_TIME (R258). -/
def State.setMode (s : State) (h : Fin 2) (m : Nat) : State :=
  if s.fld (.harbour h) .hbStat 0 21 19 = m then s else (s.frozenNow h).setFld (.harbour h) .hbStat 0 21 19 m

/-- A swap or a retirement on a compute die (R258). -/
def State.recovering (s : State) (h : Fin 2) : Bool :=
  (s.sys.swap.map (fun w => w.core / 18 == h.val)).getD false ||
  (s.sys.retiring.map (fun r => r.1 / 6 == h.val)).getD false

/-- Gives each half the mode that holds: BOOT until Estuary accepts messages, then TEST, then RECOVERY (R258). -/
def State.reMode (s : State) : State :=
  [(0 : Fin 2), 1].foldl (fun (s : State) h =>
    if s.fld (.harbour h) .hbStat 0 21 19 = 1 then s
    else s.setMode h (if s.sys.fullTest.isSome then 2 else if s.recovering h then 3 else 0)) s

/-! ### Semaphore resets (R385) -/

/-- A reset of a semaphore: it takes SEM_RESET_VALUE with bits 48 and 49 clear; one that names no semaphore is ignored. -/
def State.semReset (s : State) (scope : Bool) (core index : Nat) : State :=
  if !scope ∧ (4095 < index ∨ !s.coreLive core) then s.ignore .fault
  else s.setSem scope core index (BitVec.ofNat 64 (s.fld .fault .semResetValue 0 47 0))

/-- SEM_RESET (R385). -/
def execSemReset (v : Word) (s : State) : Host.Outcome State Fault Refusal :=
  .next (s.awake fun s => s.semReset (bit1 v 16) (bits v 22 17) (bits v 15 0))

/-! ### The error ring (R379, R380) -/

/-- A write of ERR_RING_BASE (R380, R398): ignored with a size out of range or a ring outside the HBM4 that software may
use; the records held on the Headland die go to the ring, oldest first. -/
def State.errRingBaseWrite (s : State) (v : Word) : State :=
  let base := bits v 47 6 * 64
  let log2 := bits v 52 48
  if log2 < 8 ∨ 20 < log2 ∨ (base ≠ 0 ∧ !s.code.hbmOk base (64 * 2 ^ log2)) then s.ignore .fault
  else
    let s := s.wrRw .fault .errRingBase 0 v
    if base = 0 then s
    else
      let l := s.errs.buffered
      l.foldl State.ringWrite { s with errs := { s.errs with buffered := [] } }

/-- ERR_RING_BASE_WRITE (R380). -/
def execErrRingBaseWrite (v : Word) (s : State) : Host.Outcome State Fault Refusal :=
  .next (s.awake fun s => s.errRingBaseWrite v)

/-- Writes the corrected records that are held and meet a condition, oldest first (R379). -/
def State.flushHeld (s : State) (due : ErrRec → Bool) : State :=
  let l := s.errs.held.filter due
  l.foldl State.commitRecord { s with errs := { s.errs with held := s.errs.held.filter (fun r => !due r) } }

/-- CORRECTED_RECORD_FLUSH (R379): the corrected records whose 1 ms has passed are written. -/
def execCorrectedRecordFlush (s : State) : Host.Outcome State Fault Refusal :=
  .next (s.awake fun s => s.flushHeld (fun r => decide (r.time.toNat + 4000000 ≤ s.now.toNat)))

/-! ### What a stop does to a queue (R378, R390) -/

/-- The status with which a halt ends an instruction: E_POWER for the opcodes that may complete with it, else E_ABORT (R97, R378). -/
def haltStatus (st : Status) (op : Nat) : Status :=
  if st = .ePower ∧ !(opHolds op || op == opWload || op == opMove) then .eAbort else st

/-- An instruction in flight ends with a status and its watermark; its ADDs fault their semaphores (R98, R378). One that has not started
does nothing. -/
def State.haltFlight (s : State) (c : Fin 36) (q : Nat) (st : Status) (f : Flight) : State :=
  let (w, s) := s.draw
  let st := if f.status ≠ .ok then f.status else haltStatus st f.ins.opcode
  let g := { f with status := st, wm := if f.done then f.wm else if f.unstarted then 0 else w.toNat % (f.total + 1), done := true, fatal := true }
  let s := if f.unstarted then s.putBack c q f
    else if f.done then (if f.status = .ok then s.undo c q g else s)
    else (((s.setFlight c q g).undo c q g).endCounts c g).leaveArray c q g false
  let s := (s.tileRecord c q g st).tileComplete c q g st
  s.faultAdds c g.ins

/-- A queue stops: everything in flight ends, and it is HALTED (R98, R378). -/
def State.haltQueue (s : State) (c : Fin 36) (q : Nat) (st : Status) : State :=
  let fs := (s.queue c q).flights
  let s := fs.foldl (fun (s : State) f => s.haltFlight c q st f) s
  let x := s.queue c q
  if x.state = .idle ∨ x.state = .halted then s
  else s.setQueue c q { x with flights := [], state := .halted, lastStatus := st.code, runStatus := st.code }

/-- Every queue of a core stops. -/
def State.haltCore (s : State) (c : Fin 36) (st : Status) : State :=
  let s := (List.range 8).foldl (fun (s : State) q => s.haltQueue c q st) s
  s.setCore c { s.core c with holder := none, stopping := false }

/-! ### Spare-core swap (R387 to R390) -/

/-- The spare of a bay can take a core (R387). -/
def State.spareFree (s : State) (bay : Nat) : Bool := s.code.bayEnabled bay && !s.sys.spareGone.contains bay

/-- SWAP_STAT.spare_free (R398). -/
def State.spareBits (s : State) : Nat := (List.range 6).foldl (fun n b => if s.spareFree b then n + 2 ^ b else n) 0

/-- The physical core that is a bay's spare while no swap has used it: the one that holds no logical core (R113). -/
def State.spareOf (s : State) (bay : Nat) : Nat :=
  ((List.range 7).find? (fun i => (List.range 6).all (fun j => s.physOf (6 * bay + j) ≠ 7 * bay + i))).getD 6 + 7 * bay

/-- A spare-core swap begins, or is refused (R387, R388): CFG_IGNORED for a core that is absent or while a swap runs,
NO_SPARE where the bay's spare is in service. -/
def State.swapBegins (s : State) (c : Fin 36) (owner : Nat) : Bool × State :=
  if !s.coreLive c.val ∨ s.sys.swap.isSome then (false, s.ignore .fault)
  else if !s.spareFree (c.val / 6) then (false, s.event .fault 2)
  else
    let p : Pg := .sequencer c
    let s := (s.sliceAborts (s.physOf c.val)).sliceAborts (s.spareOf (c.val / 6))
    let l := s.liveRec p
    let s := { s with sys := { s.sys with swap := some { core := c.val, before := l, owner := owner } } }
    let s := s.setLive p { l with state := .draining, owner := owner }
    let s := (s.setFld .fault .swapStat 0 5 0 c.val).setFld .fault .swapStat 0 6 6 1
    (true, s.reMode)

/-- SPARE_CORE_SWAP (R388), by the host (0), Gulkutik (1) or Tidewatch (2). -/
def execSpareCoreSwap (c : Fin 36) (owner : Fin 3) (s : State) : Host.Outcome State Fault Refusal :=
  .next (s.awake fun s => (s.swapBegins c owner.val).2)

/-- A write of SWAP_CTRL (R398). -/
def State.swapCtrlWrite (s : State) (v : Word) (owner : Nat) : State :=
  if !bit1 v 6 then s
  else if h : bits v 5 0 < 36 then (s.swapBegins ⟨bits v 5 0, h⟩ owner).2
  else s.ignore .fault

/-- State units that a swap moves: those of carried state and of an RSTEP stopped at a boundary, where they are not in the save area
(R187, R189). -/
def Core.stateUnits (k : Core) : Nat :=
  (k.a0.carried ++ k.a1.carried).foldl (fun n t => n + (t.span.filter (fun u => !t.saved.contains u)).length) 0 +
  k.queues.foldl (fun n (_, q) => n + q.flights.foldl (fun n f =>
    if f.ins.opcode = opRstep ∧ !f.done then n + ((f.liveAt 0).units.filter (fun u => !f.saved.contains u)).length else n) 0) 0

/-- The end of a swap: the logical core is held by the spare, LIVE is as it was, and requests that waited are applied
(R388). The weight banks are as they were (DEDUCED from R390, notes/assumptions/68.md). -/
def State.swapEnds (s : State) (w : Swap) (c : Fin 36) : State :=
  let p : Pg := .sequencer c
  let spare := s.spareOf (c.val / 6)
  let waiting := (s.liveRec p).waiting
  let held := (s.liveRec p).held
  let s := { s with sys := { s.sys with swap := none, phys := FMap.set 0 s.sys.phys c.val (spare + 1),
                                        spareGone := s.sys.spareGone.add (c.val / 6) } }
  let s := (s.setFld .fault .swapStat 0 6 6 0).wr .fault .swapTime 0 s.now
  let s := (s.event .fault 1).fieldWrite.reMode
  let s := s.bump (.recurrent c) .stateSaveCount 0 (s.core c).stateUnits
  -- a member of an enabled multicast group has moved (R117)
  let member : Bool := (List.range 255).any (fun g => bit1 (s.rd .multicast .mcastGroup g) 63 && bit1 (s.rd .multicast .mcastGroup g) c.val)
  let s := if member then s.event .multicast 1 else s
  let s := s.setLive p { w.before with held := w.before.held || held, waiting := [] }
  let s := if w.before.state = .running then s.resume p else s
  waiting.foldl (fun (s : State) r => s.liveNow p r.1 r.2) s

/-- SWAP_DONE (R388): the core of the swap has drained and its state is on the spare. -/
def execSwapDone (s : State) : Host.Outcome State Fault Refusal :=
  .next (s.awake fun s => match s.sys.swap with
    | none => s
    | some w =>
      if h : w.core < 36 then
        (if s.live (.sequencer ⟨w.core, h⟩) = .drained then s.swapEnds w ⟨w.core, h⟩ else s)
      else s)

/-- A core that fails while its bay has no spare is retired: its logical core is absent, what it had in flight ends with
E_ABORT, and models pinned there stage again (R390). -/
def State.retireCore (s : State) (c : Fin 36) : State :=
  let s := (s.haltCore c .eAbort).settled
  let s := s.setCore c { retired := true }
  let s := { s with lives := FMap.set {} s.lives (Pg.sequencer c).index {} }
  let models := s.gulk.models.map (fun x => (x.1, x.2.map (fun m =>
    if m.hot = .pinned ∧ bit1 (BitVec.ofNat 64 m.cores) c.val then m.restaged else m)))
  { s with gulk := { s.gulk with models := models } }.fieldWrite

/-! ### Retirement of a pseudo-channel (R391) -/

/-- The pseudo-channel of an HBM4 address in its stack (R241). -/
def pcOf (a : Nat) : Nat := a / 1024 % 64

/-- A pseudo-channel's retirement begins, or is refused (R391): its write-combining entries are flushed. -/
def State.pcBegins (s : State) (k : Fin 12) (pc : Nat) : Bool × State :=
  if !s.code.stackPresent k.val ∨ s.sys.retiring.isSome ∨ s.sys.retiredPcs.contains (64 * k.val + pc) then (false, s.ignore .fault)
  else if s.fld .fault .pcStat 0 3 0 = 0 then (false, s.event .fault 2)
  else
    let l := s.wcOf k
    let mine (e : WcEntry) : Bool := pcOf (e.line * 128) == pc
    let s := (l.filter mine).foldl (fun (s : State) e => s.wcFlushed k e) (s.setWc k (l.filter (fun e => !mine e)))
    let s := { s with sys := { s.sys with retiring := some (k.val, pc) } }
    (true, (s.setFld .fault .pcStat 0 4 4 1).reMode)

/-- PC_RETIREMENT (R391). -/
def execPcRetirement (k : Fin 12) (pc : Fin 64) (s : State) : Host.Outcome State Fault Refusal :=
  .next (s.awake fun s => (s.pcBegins k pc.val).2)

/-- A write of PC_RETIRE (R398). -/
def State.pcRetireWrite (s : State) (v : Word) : State :=
  if !bit1 v 10 then s
  else if h : bits v 3 0 < 12 then (s.pcBegins ⟨bits v 3 0, h⟩ (bits v 9 4)).2
  else s.ignore .fault

/-- PC_RETIRED (R391): the granules are switched to the spare image. -/
def execPcRetired (s : State) : Host.Outcome State Fault Refusal :=
  .next (s.awake fun s => match s.sys.retiring with
    | none => s
    | some (k, pc) =>
      let p : Pg := .hbm (Fin.ofNat 12 k)
      let s := { s with sys := { s.sys with retiring := none, retiredPcs := s.sys.retiredPcs.add (64 * k + pc) } }
      let s := (s.setFld p .hbmStat 0 15 9 (s.fld p .hbmStat 0 15 9 + 1)).event p 4
      let s := (s.setFld .fault .pcStat 0 4 4 0).setFld .fault .pcStat 0 3 0 (s.fld .fault .pcStat 0 3 0 - 1)
      (s.setFld .fault .pcStat 0 15 8 (s.fld .fault .pcStat 0 15 8 + 1)).fieldWrite.reMode)

end Sys2Proof.Machine
end

