-- ==== Sys2Proof/Machine/Power.lean ====
section
/-! DEFINITION. Power: the rows of Tidewatch as they stand, the clock states, Slack, Breakwater, the wake sources and the
pins that power drives (R401 to R405, R408, R409, R412, R413, R416, R479). -/

namespace Sys2Proof.Machine

/-! ### Rule rows as they stand (R412, R413, R418) -/

/-- A row of the rule table: its channel and condition, its action and its release, and, of a protection row, its own
filter. -/
structure RuleRow where
  enable : Bool
  channel : Nat
  below : Bool
  threshold : Int
  duration : Nat
  action : Nat
  release : Int
  clear : Nat
  k : Nat := 0
  median : Nat := 1
  deriving DecidableEq, Repr

/-- A release threshold that no value passes: the row is released at Dry entry alone (R413). -/
def neverBelow : Int := -(2 ^ 31)
/-- The same for a row whose condition is below its threshold. -/
def neverAbove : Int := 2 ^ 31 - 1

/-- The protection rows by ordering code (R413). -/
def Code.protection (code : Code) (r : Nat) : RuleRow :=
  let small : Bool := code = .la512
  let lb : Bool := code = .lb768
  match r with
  | 0 => ⟨true, 0, true, 40000, 20, 2, 41000, 1000, 0, 1⟩
  | 1 => ⟨true, 0, true, 36000, 100, 8, neverAbove, 1, 0, 1⟩
  | 2 => ⟨true, 0, false, 61000, 20, 1, 60000, 1000, 0, 1⟩
  | 3 => ⟨true, 2, false, if small then 1350 else 1800, 1, 2, if small then 1275 else 1700, 10000, 13, 1⟩
  | 4 => ⟨true, 3, false, if small then 1540 else 2050, 5000, 2, if small then 1350 else 1800, 10000, 0, 1⟩
  | 5 => ⟨true, 4, false, 9500, 100, 2, 9000, 1000, 0, 3⟩
  | 6 => ⟨true, 4, false, 10500, 10, 4, neverBelow, 1, 0, 3⟩
  | 7 => ⟨true, 64, false, if lb then 4700 else 3700, 10, 2, if lb then 4500 else 3500, 100, 2, 1⟩
  | 8 => ⟨true, 64, false, if lb then 5300 else 4300, 10, 4, neverBelow, 1, 2, 1⟩
  | 9 => ⟨true, 65, true, 8400, 10, 2, 12000, 100, 0, 5⟩
  | 10 => ⟨true, 65, true, 4800, 20, 4, neverAbove, 1, 0, 5⟩
  | 11 => ⟨true, 96, false, 64, 1, 5, 1, 60, 0, 1⟩
  | 12 => ⟨true, 97, false, 256, 1, 6, 1, 60, 0, 1⟩
  | 13 => ⟨true, 98, false, 64, 1, 7, 1, 60, 0, 1⟩
  | 14 => ⟨true, 99, false, 16, 1, 7, 1, 60, 0, 1⟩
  | _ => ⟨lb, 64, false, 4000, 10, 3, 4001, 600, 2, 1⟩

/-- A row of the rule table: protection rows 0 to 15, programmed rows 16 to 63 (R413, R418). -/
def State.ruleRow (s : State) (r : Nat) : RuleRow :=
  if r < 16 then s.code.protection r
  else
    let lo := s.rd .tidewatch .supRuleLo r
    let hi := s.rd .tidewatch .supRuleHi r
    { enable := bit1 lo 63, channel := bits lo 6 0, below := bit1 lo 7, threshold := toSigned 32 (bits lo 39 8),
      duration := bits lo 55 40, action := bits lo 59 56, release := toSigned 32 (bits hi 31 0), clear := bits hi 47 32 }

/-- SUP_RULEr_LO as it reads (R418). -/
def RuleRow.lo (x : RuleRow) : Word :=
  BitVec.ofNat 64 (x.channel + (if x.below then 2 ^ 7 else 0) + (x.threshold % 2 ^ 32).toNat * 2 ^ 8 + x.duration * 2 ^ 40 +
    x.action * 2 ^ 56 + (if x.enable then 2 ^ 63 else 0))

/-- SUP_RULEr_HI as it reads (R418). -/
def RuleRow.hi (x : RuleRow) : Word := BitVec.ofNat 64 ((x.release % 2 ^ 32).toNat + x.clear * 2 ^ 32)

/-- A row is fired (R418). -/
def State.fired (s : State) (r : Nat) : Bool := bit1 (s.rd .tidewatch .supStat 0) r

/-- A fired row has one of some actions (R412). -/
def State.firedWith (s : State) (acts : List Nat) : Bool :=
  (List.range 64).any (fun r => s.fired r && acts.contains (s.ruleRow r).action)

/-! ### Breakwater (R403 to R405) -/

/-- The step of a request in 0.01 A (R404). -/
def bwStep : BwKind → Nat
  | .wake _ => 45
  | .spring _ => 25
  | .stack _ => 30
  | .tideway _ => 21
  | .ethernet _ => 21
  | .cxl _ => 31
  | .slice _ => 60

/-- Tideline units of a ramp: the step divided by the slew, rounded up (R403). -/
def State.rampUnits (s : State) (step : Nat) : Nat := ceilDiv (step * 80) (max 1 (s.fld .power .bwCfg 0 4 0))

/-- While a row with action NEAP, HALT or LOSS is fired, no new ramp starts (R403). -/
def State.rampsHeld (s : State) : Bool := s.firedWith [2, 4, 8]

/-- BW_STAT follows the requests (R416). -/
def State.bwStat (s : State) : State :=
  s.wr .power .bwStat 0 (BitVec.ofNat 64 (min 4095 s.sys.ramps.length + (if s.sys.ramp.isSome then 4096 else 0) +
    (if s.rampsHeld then 8192 else 0)))

/-- The pending request of the highest class, the earliest among those of one class (R403). -/
def nextRamp : List BwReq → Option BwReq
  | [] => none
  | x :: l => match nextRamp l with
    | some y => if y.cls < x.cls then some y else some x
    | none => some x

/-- The grant delay a PLAN or ROLLOUT carries: the largest among the cores it woke (R405). -/
def State.grantDelay (s : State) (msg : Option Nat) (units : Nat) : State :=
  match msg with
  | none => s
  | some k => match s.req k with
    | none => s
    | some r =>
      if (r.op = 3 ∨ r.op = 4) ∧ 0 < units ∧ (r.extra.1 = 0 ∨ (r.extra.1 = 3 ∧ r.extra.2 < units)) then
        s.setReq k (some { r with extra := (3, units) })
      else s

/-- Grants the next request, when no ramp is in progress and none is held (R403, R405). -/
def State.bwGrant (s : State) : State :=
  if s.sys.ramp.isSome ∨ s.rampsHeld then s.bwStat
  else match nextRamp s.sys.ramps with
    | none => s.bwStat
    | some x =>
      let waited := (s.now - x.arrived).toNat
      let s := { s with sys := { s.sys with ramps := s.sys.ramps.erase x, ramp := some { req := x, start := s.now } } }
      let s := (s.bump .power .bwGrants 0 1).bump .power .bwWaitUnits 0 waited
      (s.grantDelay x.msg waited).bwStat

/-- A request becomes pending, and is granted when nothing ramps (R403). -/
def State.bwAsk (s : State) (k : BwKind) (cls : Nat) (msg : Option Nat) : State :=
  let x : BwReq := { kind := k, cls := cls, step := bwStep k, arrived := s.now, msg := msg }
  { s with sys := { s.sys with ramps := s.sys.ramps ++ [x] } }.bwGrant

/-- A request of a kind is pending or ramps. -/
def State.bwAsked (s : State) (k : BwKind) : Bool :=
  s.sys.ramps.any (fun x => x.kind == k) || (s.sys.ramp.map (fun x => x.req.kind == k)).getD false

/-! ### The clock states (R401, R402, R412) -/

/-- What holds Neap: neap_force, a fired row with action NEAP, or standby lost (R402, R408). -/
def State.neapHeld (s : State) : Bool := bit1 (s.rd .power .pwrCtrl 0) 1 || s.firedWith [2] || !s.standby

/-- The sweep of an HBM4 margin aborts with valid clear (R455). -/
def State.marginAborts (s : State) : State :=
  match s.sys.margin with
  | some v =>
    if bits v 1 0 = 0 then
      ({ s with sys := { s.sys with margin := none } }.setFld .selfTest .stStat 0 43 43 0).setFld .selfTest .stMarginResult 0 32 32 0
    else s
  | none => s

/-- The clock state changes; slices abort, since the clock must have stood for 100 us (R444). -/
def State.setClock (s : State) (x : Nat) : State :=
  if s.fld .power .pwrStat 0 1 0 = x then s
  else
    let s := (List.range 42).foldl State.sliceAborts s
    { s with sys := { s.sys with clockSince := s.now } }.setFld .power .pwrStat 0 1 0 x

/-- Spring, limited to 3.6 GHz while a row with action LIMIT is fired (R412). -/
def State.springState (s : State) : Nat := if s.firedWith [3] then 2 else 0

/-- Neap is entered (R402, R417); grants toward Spring that are pending are withdrawn (R415). -/
def State.entersNeap (s : State) : State :=
  let spring (x : BwReq) : Bool := match x.kind with | .spring _ => true | _ => false
  let s := { s with sys := { s.sys with ramps := s.sys.ramps.filter (fun x => !spring x) } }.bwStat
  if s.fld .power .pwrStat 0 1 0 = 1 then s
  else (((s.marginAborts.setClock 1).bump .power .neapEntries 0 1).event .power 0)

/-- Grants toward Spring are pending or ramp. -/
def State.leaving (s : State) : Bool := (List.finRange 36).any (fun c => s.bwAsked (.spring c))

/-- Neap is left once every core's grant has been given (R402, R417). -/
def State.leftNeap (s : State) : State :=
  if s.fld .power .pwrStat 0 1 0 = 1 ∧ !s.neapHeld ∧ !s.leaving then (s.setClock s.springState).event .power 1 else s

/-- Asks for the grant of every core that is not in Slack (R402). -/
def State.leavesNeap (s : State) : State :=
  if s.leaving then s
  else ((List.finRange 36).foldl (fun (s : State) c =>
    if s.coreLive c.val && !(s.core c.val).slack then s.bwAsk (.spring c) 3 none else s) s).leftNeap

/-- The clock follows what holds it (R402, R412). -/
def State.reClock (s : State) : State :=
  if s.sys.dry ∨ s.sys.failed then s
  else if s.neapHeld then s.entersNeap
  else if s.fld .power .pwrStat 0 1 0 = 1 then s.leavesNeap
  else s.setClock s.springState

/-- A write of PWR_CTRL.neap_force (R402). -/
def State.neapForce (s : State) (on : Bool) : State :=
  if s.standby then ((s.setFld .power .pwrCtrl 0 1 1 (if on then 1 else 0)).reClock).bwGrant else s

/-- NEAP_FORCE (R402). -/
def execNeapForce (on : Bool) (s : State) : Host.Outcome State Fault Refusal := .next (s.neapForce on)

/-! ### Slack (R401, R402) -/

/-- A queue that can run: RUNNING or STOPPING (R78). -/
def State.readyQueues (s : State) (c : Nat) : List Nat :=
  (List.range 8).filter (fun q => (s.queue c q).state == .running || (s.queue c q).state == .stopping)

/-- Puts a core into Slack or out of it, with its bit of slack_cores (R416). -/
def State.setSlack (s : State) (c : Fin 36) (on : Bool) : State :=
  (s.setCore c { s.core c with slack := on }).setFld .power .pwrStat 0 (5 + c.val) (5 + c.val) (if on then 1 else 0)

/-- CORE_SLACK_ENTRY (R402): a core without a ready queue, and without a slice, is clock-gated; slack_delay 0 disables
Slack. -/
def execCoreSlackEntry (c : Fin 36) (s : State) : Host.Outcome State Fault Refusal :=
  .next (s.awake fun s =>
    if !s.coreLive c.val ∨ (s.core c).slack ∨ s.fld .power .pwrCtrl 0 15 3 = 0 ∨ s.readyQueues c.val ≠ [] ∨ s.sliceOn c.val then s
    else s.setSlack c true)

/-- The class of a request (R403): that of the highest ready queue of a core that wakes, Background for the rest. -/
def State.bwClass (s : State) (k : BwKind) : Nat :=
  match k with
  | .wake c => ((s.readyQueues c.val).map (s.qClass c)).foldl min 3
  | _ => 3

/-- A request can be made: its unit is there, and needs the step (R402, R404, R445). -/
def State.bwMay (s : State) (k : BwKind) : Bool :=
  !s.bwAsked k &&
  match k with
  | .wake c => s.coreLive c.val && (s.core c).slack && s.readyQueues c.val != []
  | .spring c => s.coreLive c.val && s.fld .power .pwrStat 0 1 0 == 1 && !s.neapHeld
  | .stack k => s.code.stackPresent k.val
  | .slice p => s.code.bayEnabled (p.val / 7) && bit1 (s.rd .selfTest .stCtrl 0) 2 && !s.sys.granted.contains p.val &&
      (FMap.get none s.sys.slices p.val).isNone
  | _ => true

/-- BREAKWATER_REQUEST (R403): a request becomes pending; `msg` is the PLAN or ROLLOUT a core wakes for. -/
def execBreakwaterRequest (k : BwKind) (msg : Option (BitVec 64)) (s : State) : Host.Outcome State Fault Refusal :=
  .next (s.awake fun s => if s.bwMay k then s.bwAsk k (s.bwClass k) (msg.map (·.toNat)) else s)

/-- What a ramp's end allows: a core out of Slack, the step to Spring, or the start of a slice (R402, R445). -/
def State.rampGives (s : State) (k : BwKind) : State :=
  match k with
  | .wake c => (s.setSlack c false).arbitrate c
  | .spring _ => s.leftNeap
  | .slice p => { s with sys := { s.sys with granted := s.sys.granted.add p.val } }
  | _ => s

/-- RAMP_END (R403): the ramp in progress has run its units; the next request is granted. -/
def execRampEnd (s : State) : Host.Outcome State Fault Refusal :=
  .next (s.awake fun s => match s.sys.ramp with
    | none => s
    | some x =>
      if s.now.toNat < x.start.toNat + s.rampUnits x.req.step then s
      else ({ s with sys := { s.sys with ramp := none } }.rampGives x.req.kind).bwGrant)

/-! ### Wake sources (R34, R402, R409, R415, R416) -/

/-- The hard-stop latch is set (R409). -/
def State.latched (s : State) : Bool := bit1 (s.rd .power .pwrStat 0) 2

/-- A wake source acts: in Dry, while the latch is clear; of two, the lowest code is the cause (R409, R415). -/
def State.wakes (s : State) (cause : Nat) : State :=
  if !s.sys.dry ∨ s.latched then s
  else { s with sys := { s.sys with wake := some (min cause (s.sys.wake.getD cause)) } }

/-- WAKE_N (R402). Standby runs its detection, or main where standby is lost (R408). -/
def execWakeN (s : State) : Host.Outcome State Fault Refusal :=
  .next (if bit1 (s.rd .power .pwrWake 0) 0 then s.wakes 1 else s)

/-- The tideline has reached WAKE_ALARM, and alarm_en is set (R34). -/
def State.alarmDue (s : State) : Bool :=
  let a := s.rd .tideline .wakeAlarm 0
  a != 0 && decide (a.toNat ≤ s.now.toNat) && bit1 (s.rd .power .pwrWake 0) 1

/-- WAKE_ALARM (R34). -/
def execWakeAlarm (s : State) : Host.Outcome State Fault Refusal := .next (if s.alarmDue then s.wakes 3 else s)

/-- A tick start in Dry: the tick_count-th one wakes the device, if tick_en is set (R416). -/
def State.tickWake (s : State) : State :=
  if !s.sys.dry then s
  else
    let n := s.sys.dryTicks + 1
    let s := { s with sys := { s.sys with dryTicks := n } }
    if bit1 (s.rd .power .pwrWake 0) 2 ∧ max 1 (s.fld .power .pwrWake 0 18 3) ≤ n then s.wakes 4 else s

/-- Clears the stop latch (R409): `safe` says that ESTOP_N is high and every sensor is below 105 degrees. -/
def State.clearStop (s : State) (safe : Bool) : State :=
  if s.standby ∧ s.latched ∧ safe then (s.setFld .power .pwrStat 0 2 2 0).setFld .power .pwrStat 0 4 3 0 else s

/-- CLEAR_STOP (R409): a write of PWR_CTRL.clear_stop over MCTP. -/
def execClearStop (safe : Bool) (s : State) : Host.Outcome State Fault Refusal := .next (s.clearStop safe)

/-! ### Pins (R479) -/

/-- ALERT_N is asserted: a fired ALERT row, or STAT.pending of a page whose alert_en is set (R412, R466, R479). -/
def State.alertN (s : State) : Bool :=
  s.firedWith [1] || (List.range 541).any (fun i => match Pg.ofIndex i with
    | some p => s.present p && bit1 (s.rd p .pageCtrl 0) 0 && (s.rd p .event 0 &&& ~~~ s.rd p .eventMask 0) != 0
    | none => false)

/-- PWR_OK: the main rails are up (R402, R479). -/
def State.pwrOk (s : State) : Bool := !s.sys.dry

/-- STBY_OK: the standby input is within range (R406, R479). -/
def State.stbyOk (s : State) : Bool := s.standby

/-- THERM_TRIP_N is asserted: a thermal stop, until it clears (R409, R479). -/
def State.thermTrip (s : State) : Bool := s.latched && s.fld .power .pwrStat 0 4 3 == 2

/-- CXL_PERST_N of a port is asserted: its link is down (R271, R272, R479). -/
def State.cxlPerst (s : State) (p : Fin 2) : Bool := !bit1 (s.rd (.cxl p) .cxlStat 0) 0

end Sys2Proof.Machine
end

