-- ==== Sys2Proof/Machine/Halt.lean ====
section
/-! DEFINITION. How the device stops: the orderly halt, the input-loss halt, a requested Dry entry, the hard stop and the
losses of power (R22, R378, R401, R402, R406 to R409). -/

namespace Sys2Proof.Machine

/-! ### The work in flight ends (R378) -/

/-- Every core stops, and what its queues have in flight ends. -/
def State.haltCores (s : State) (st : Status) : State :=
  (List.finRange 36).foldl (fun (s : State) c => if s.coreLive c.val then s.haltCore c st else s) s

/-- A Foreshore engine stops (R232, R378). -/
def State.haltFore (s : State) (st : Status) (h : Fin 2) : State :=
  match s.fsJob h with
  | none => s
  | some j =>
    if j.waiting then s.fsEnd h j st 0
    else
      let (wm, s) := s.drawUpTo j.rows
      (s.fsPartial h j wm).fsEnd h j st wm

/-- Cliff stops: its commands in flight end in ring order (R281, R378). -/
def State.haltCliff (s : State) (st : Status) : State :=
  s.cliff.runs.foldl (fun (s : State) r =>
    let (wm, s) := s.drawUpTo r.count
    s.cliffEnds r (s.cliff.runs.drop 1) (if r.status = .ok then st else r.status) wm 0) s

/-- The collectives end (R345, R378); a PERMUTE whose commit is decided has its effect (R349). -/
def State.haltColls (s : State) (st : Status) : State :=
  (List.range 8).foldl (fun (s : State) ring => match s.coll ring with
    | none => s
    | some c => s.collEnd ring c (if c.status ≠ .ok then c.status else if c.op = 6 && c.committed then .ok else st)) s

/-- The steps of the streams stop: pins are released, and recomputations leave their pages DROPPED (R162, R164, R195). -/
def State.haltSteps (s : State) : State :=
  let s := s.gulk.streams.foldl (fun (s : State) x => match x.2 with
    | some t =>
      let s := t.pinned.foldl State.unpin s
      s.setStream x.1 (some { t with phase := .idle, pinned := [], bring := [], gens := 0 })
    | none => s) s
  s.gulk.pages.foldl (fun (s : State) x => if x.2.st = .recomputing then s.setPage x.1 { x.2 with st := .dropped, loc := 0 } else s) s

/-- The oldest training step of each job fails, and with it those queued behind it (R368, R378). -/
def State.haltTraining (s : State) (st : Status) : State :=
  s.jobs.foldl (fun (s : State) x => match x.2 with
    | some j => match j.runs with
      | [] => s
      | t :: _ =>
        let (m, s) := s.drawUpTo t.accum
        s.trainFails x.1 j t st { how := .power, micro := BitVec.ofNat 32 m, remapped := false, reduced := false, sumS := 0,
                                  sumG2 := 0, next := 0 } []
    | none => s) s

/-- A message that is accepted is answered (R319, R378). -/
def State.haltReq (s : State) (st : Status) (k : Nat) (r : Req) : State :=
  match r.op with
  | 2 => s.observeEnd (r.stream % 16384) k st 0
  | 3 => s.planEnds k r st
  | 4 => if r.started then s.rollEnds k r st else s.refuse k st
  | 0x10 => s.loadStops k r st
  | _ => s.refuse k st

/-- Every accepted message is answered, in the order of acceptance. -/
def State.haltReqs (s : State) (st : Status) : State :=
  s.gulk.reqs.foldl (fun (s : State) x => match s.req x.1 with
    | some r => s.haltReq st x.1 r
    | none => s) s

/-- Fast-path requests that have no answer are answered with the status (R324). -/
def State.haltFast (s : State) (st : Status) : State :=
  let s := s.est.fast.foldl (fun (s : State) f =>
    s.send f.qp none (.send [] (some (st.code + (if f.miss then 2 ^ 15 else 0) + f.count % 2 ^ 16 * 2 ^ 16)))) s
  { s with est := { s.est with fast := [] } }

/-- Every global semaphore enters the faulted state (R378). -/
def State.haltSems (s : State) : State :=
  { s with sems := (List.range 65536).map (fun i => (i, setBits (FMap.get 0 s.sems i) 48 48 1)) }

/-- The work of the device ends with a status: Estuary accepts nothing, cores and engines stop, semaphores fault, Harbour is
written back, every message is answered, and the records are written (R378). -/
def State.haltWork (s : State) (st : Status) : State :=
  let s := { s with est := { s.est with closed := true } }
  let s := s.haltCores st
  let s := [(0 : Fin 2), 1].foldl (fun (s : State) h => s.haltFore st h) s
  let s := (s.haltCliff st).haltColls st
  let s := s.haltSteps.haltSems
  let s := (s.writeBack 0).writeBack 1
  let s := ((s.haltTraining st).haltReqs st).haltFast st
  s.flushHeld (fun _ => true)

/-! ### Dry (R401, R402, R412) -/

/-- A row that is fired with action HALT or LOSS is released at Dry entry (R412, R419). -/
def State.dryRelease (s : State) (r : Nat) : State :=
  if s.fired r ∧ [4, 8].contains (s.ruleRow r).action then
    let s := { s with sys := { s.sys with beyond := FMap.set 0 s.sys.beyond r 0, clear := FMap.set 0 s.sys.clear r 0 } }
    (s.setFld .tidewatch .supStat 0 r r 0).event .tidewatch 1
  else s

/-- The main rails go off. `keeps` says that HBM4 is in self-refresh with its contents kept. Links go down, a swap, a
retirement, slices and ramps end where they stand (R273, R401, R402, R415). A WAKE_ALARM that has passed wakes at once (R34). -/
def State.railsOff (s : State) (keeps : Bool) : State :=
  let s := [(0 : Fin 2), 1].foldl State.cxlLost s
  let s := (List.finRange 4).foldl State.ethDown s
  let s := (List.range 64).foldl State.dryRelease s
  let s := { s with sys := { s.sys with
    dry := true, cold := !keeps, wake := none, dryTicks := 0, swap := none, retiring := none, ramp := none, ramps := []
    slices := [], granted := [], fullTest := none, margin := none } }
  let s := (List.finRange 12).foldl (fun (s : State) k =>
    if s.code.stackPresent k.val then s.setFld (.hbm k) .hbmStat 0 16 16 (if keeps then 1 else 0) else s) s
  let s := (s.setFld .power .pwrStat 0 40 5 0).bwStat
  if s.alarmDue then s.wakes 3 else s

/-- An orderly halt, and Dry (R378): with E_POWER when Tidewatch orders it, else with E_ABORT. -/
def State.orderlyHalt (s : State) (st : Status) : State := (s.haltWork st).railsOff true

/-- The record of a device-fatal error (R377, R379). -/
def State.fatalRecord (s : State) (page : Nat) : State :=
  s.report { time := s.now, page := page, cls := 3, code := Status.eMemUncorr.code }

/-- ORDERLY_HALT (R378): a device-fatal error whose record names a source page. -/
def execOrderlyHalt (page : BitVec 14) (s : State) : Host.Outcome State Fault Refusal :=
  .next (s.awake fun s => (s.fatalRecord page.toNat).orderlyHalt .eAbort)

/-- The input-loss halt (R407): operations end with E_POWER and their watermarks, no response is sent, Harbour is written
back, and the device is in Dry. -/
def State.lossHalt (s : State) : State :=
  let s := (s.bump .power .inputLossCount 0 1).event .power 3
  let t := s.haltWork .ePower
  { t with out := s.out, est := { s.est with fast := [], closed := true } }.railsOff s.standby

/-- A requested Dry entry (R402). No Dry entry can be requested while standby is lost (R408). -/
def State.entersDry (s : State) : State :=
  if s.standby then s.awake (fun s => s.orderlyHalt .ePower) else s

/-- ENTER_DRY (R402): PWR_CTRL.dry_req, or the POWER command over MCTP, which is answered (R433). -/
def execEnterDry (mctp : Bool) (s : State) : Host.Outcome State Fault Refusal :=
  .next (
    let ok : Bool := s.standby && !s.sys.dry && !s.sys.failed
    let t := s.entersDry
    if mctp ∧ s.standby then t.emit (.mctp 4 (if ok then .ok else .eState) []) else t)

/-- EMERGENCY_STOP (R409, R433): an orderly halt with E_POWER. -/
def execEmergencyStop (s : State) : Host.Outcome State Fault Refusal :=
  .next (if !s.standby then s
    else if s.sys.dry ∨ s.sys.failed then s.emit (.mctp 4 .eState [])
    else (s.orderlyHalt .ePower).emit (.mctp 4 .ok []))

/-- POWER_WAKE (R402, R433): the MCTP wake, which cannot be disabled (R416); ignored while the device is not in Dry
(R438). -/
def execPowerWake (s : State) : Host.Outcome State Fault Refusal :=
  .next (if !s.standby then s
    else (s.wakes 2).emit (.mctp 4 (if s.sys.dry ∧ !s.latched then .ok else .eState) []))

/-! ### Hard stop (R409) -/

/-- The code of a stop cause (R416). -/
def stopCode : StopCause → Nat
  | .estop => 1 | .thermal => 2 | .overvoltage => 3

/-- HARD_STOP (R409): clocks and rails go off without firmware; no record of the work is written, HBM4 is lost, and
Tidewatch latches the stop and summarises it. -/
def execHardStop (cause : StopCause) (s : State) : Host.Outcome State Fault Refusal :=
  .next (
    let s := s.railsOff false
    let s := { s with sys := { s.sys with stopped := true, wake := none } }
    let s := if s.standby then
        let x : Summary := ⟨s.now, Pg.power.index, 3, Status.ePower.code, stopCode cause⟩
        { s with errs := { s.errs with summaries := pushSummary s.errs.summaries x, pushed := s.errs.pushed + 1 } }
      else s
    (s.setFld .power .pwrStat 0 2 2 1).setFld .power .pwrStat 0 4 3 (stopCode cause))

/-! ### Losses of standby and of power (R22, R406, R408) -/

/-- Power is gone: standby and main are both lost. The module holds nothing but MRAM and Cliff (R22, R381). -/
def State.powerGone (s : State) : State :=
  let s := { s with errs := { s.errs with kept := [] } }
  let s := s.railsOff false
  { s with sys := { s.sys with mainLost := true } }

/-- STANDBY_LOSS (R406, R408): Tidewatch writes its final record and stops. With main present the device serves on in Neap,
or, in Dry, HBM4 loses its self-refresh; with main absent, power is gone. A loss of main during the outage is the same
row again. -/
def execStandbyLoss (main : Bool) (s : State) : Host.Outcome State Fault Refusal :=
  .next (
    if !s.standby then (if main ∨ s.sys.mainLost then s else s.powerGone)
    else
      let whole := s.now.toNat / secondUnits * secondUnits
      let s := { s with standby := false, tide := { s.tide with
        final := some s.now, recorded := BitVec.ofNat 64 (max s.tide.recorded.toNat whole) } }
      if !main then s.powerGone
      else
        -- the discipline stops while Tidewatch does
        let s := if s.discState = 1 ∨ s.discState = 2 then s.setDisc 3 else s
        let s := { s with tide := { s.tide with near := 0, far := 0 } }
        let s := (List.range 42).foldl State.sliceAborts s
        if s.sys.dry then { s with sys := { s.sys with cold := true } } else s.reClock)

/-- STANDBY_RETURN (R22, R408): Tidewatch restarts from MRAM. With main present it takes the count from the Headland die,
writes the summaries that were kept, and the device may leave Neap. After a loss of all power the count resumes beyond
every value it reached, from the final record when that is complete, the Tideline page has its reset values, and a power-up
follows (R416, R428). -/
def execStandbyReturn (complete : Bool) (s : State) : Host.Outcome State Fault Refusal :=
  .next (
    if s.standby then s
    else if s.sys.mainLost then
      let final := s.tide.final.getD s.tide.recorded
      let next : Word := if complete then final + 1 else s.tide.recorded + BitVec.ofNat 64 secondUnits
      -- the count never repeats a value (R21)
      let count : Word := if next.toNat ≤ s.now.toNat then s.now + 1 else next
      let s := { s with standby := true, now := count, tide := { recorded := s.tide.recorded },
                        regs := s.regs.filter (fun x => x.1 / 4096 ≠ Pg.tideline.index),
                        sys := { s.sys with mainLost := false, wake := if s.latched then none else some 0 } }
      s.setFld .tideline .discStat 0 2 0 4
    else
      let kept := s.errs.kept
      let s := { s with standby := true, tide := { s.tide with final := none },
                        errs := { s.errs with kept := [], summaries := kept.foldl pushSummary s.errs.summaries,
                                              pushed := s.errs.pushed + kept.length } }
      let s := if s.discState = 3 ∧ s.fld .tideline .discCtrl 0 1 0 ≠ 0 then s.setDisc 1 else s
      s.reClock.bwGrant)

end Sys2Proof.Machine
end

