-- ==== Sys2Proof/Machine/Tidewatch.lean ====
section
/-! DEFINITION. Tidewatch: filters, the rule table and its actions, sparing of Harbour slices and context ways, and MRAM
(R260, R308, R381, R406, R408, R410 to R415, R418, R419, R432). -/

namespace Sys2Proof.Machine

/-! ### Channels and filters (R410, R411) -/

/-- A channel of R410. -/
def channelListed (c : Nat) : Bool := c ≤ 6 || (8 ≤ c && c ≤ 65) || (96 ≤ c && c ≤ 99)

/-- Puts a number into a list that rises. -/
def insertInt (x : Int) : List Int → List Int
  | [] => [x]
  | y :: l => if x ≤ y then x :: y :: l else y :: insertInt x l

/-- The middle one of the newest n samples. -/
def median (n : Nat) (l : List Int) : Int := ((l.take n).foldl (fun acc x => insertInt x acc) []).getD (n / 2) 0

/-- A sample enters a filter: the median of n, then y + (x - y) * 2^-k, rounded toward negative infinity (R411). -/
def Filter.next (f : Filter) (n k : Nat) (x : Int) : Filter :=
  let l := (x :: f.samples).take 7
  { samples := l, y := f.y + (median n l - f.y) / 2 ^ k }

/-- What a filter holds before its first samples: nothing fixes it (notes/assumptions/4.md). -/
def freeFilter (ix : Nat) : Filter :=
  let x (i : Nat) : Int := (Config.freeWord (ix + i)).toInt % 2 ^ 32 - 2 ^ 31
  { samples := (List.range 7).map x, y := x 7 }

/-- The filter at a key: a channel's own, or that of protection row r at 128 + r. -/
def State.filterAt (s : State) (key : Nat) : Filter × State :=
  match FMap.get none s.sys.filters key with
  | some f => (f, s)
  | none => (freeFilter s.freeIx, { s with freeIx := s.freeIx + 8 })

/-- A sample enters the filter at a key. -/
def State.filterIn (s : State) (key n k : Nat) (x : Int) : State :=
  let (f, s) := s.filterAt key
  { s with sys := { s.sys with filters := FMap.set none s.sys.filters key (some (f.next n k x)) } }

/-- The output of the filter at a key. -/
def State.filtered (s : State) (key : Nat) : Int := ((FMap.get none s.sys.filters key).map (·.y)).getD 0

/-- What a row compares: its own filter's output for a protection row, its channel's for the others (R411). -/
def State.rowValue (s : State) (r : Nat) : Int := s.filtered (if r < 16 then 128 + r else (s.ruleRow r).channel)

/-- A row is evaluated: it is enabled, and in Dry its action is neither HALT nor LOSS (R412). -/
def State.evaluated (s : State) (r : Nat) : Bool :=
  (s.ruleRow r).enable && !(s.sys.dry && [4, 8].contains (s.ruleRow r).action)

/-! ### Sparing (R260, R308) -/

/-- A Harbour slice moves to its half's spare: its dirty lines are written back first. It is refused without a spare. -/
def State.spareSlice (s : State) (h : Fin 2) (k : Nat) : Bool × State :=
  let p : Pg := .harbour h
  if bit1 (s.rd p .hbStat 0) 17 ∨ s.sys.spareGone.contains (6 + h.val) ∨ 16 ≤ k ∨ !bit1 (s.rd p .hbStat 0) k then (false, s)
  else
    let s := s.writeBackOf (fun x => halfOf (x * 64) == h && Config.harbourSet (x / 2) % 49152 / 3072 == k)
    let s := ((s.setFld p .hbStat 0 k k 0).setFld p .hbStat 0 16 16 1).setFld p .hbStat 0 17 17 1
    (true, ((s.event p 2).noted p .eMemUncorr).fieldWrite)

/-- A context set moves to the spare way. It is refused when the set uses it already. -/
def State.spareWay (s : State) (set_ : Nat) : Bool × State :=
  if s.est.spared.contains set_ then (false, s)
  else
    let s := { s with est := { s.est with spared := s.est.spared.add set_ } }
    let s := (s.setFld .estuary .estStat 0 4 4 1).event .estuary 2
    (true, (s.noted .estuary .eMemUncorr).fieldWrite)

/-! ### Firing and release (R412) -/

/-- Takes the counts of a row back to zero. -/
def State.rowCounts (s : State) (r b c : Nat) : State :=
  { s with sys := { s.sys with beyond := FMap.set 0 s.sys.beyond r b, clear := FMap.set 0 s.sys.clear r c } }

/-- What a row's action does, and whether it was refused: `unit` is the instance of channels 96 to 99. A core is named by
its physical number, a pseudo-channel as 64 * stack + number, a slice as 32 * half + number, a context way by its set. -/
def State.ruleActs (s : State) (action channel unit : Nat) : Bool × State :=
  if s.sys.failed then (true, s)
  else
    match action with
    | 2 | 3 => (true, s.reClock)
    | 4 => (true, s.awake fun s => s.orderlyHalt .ePower)
    | 5 =>
      if s.sys.dry then (false, s)
      else match s.logicalOf unit with
        | some c => s.swapBegins (Fin.ofNat 36 c) 2
        | none => (false, s)
    | 6 => if s.sys.dry ∨ 768 ≤ unit then (false, s) else s.pcBegins (Fin.ofNat 12 (unit / 64)) (unit % 64)
    | 7 =>
      if s.sys.dry then (false, s)
      else if channel = 98 then (if 64 ≤ unit then (false, s) else s.spareSlice (Fin.ofNat 2 (unit / 32)) (unit % 32))
      else if channel = 99 then s.spareWay (unit % 1024)
      else (false, s)
    | 8 => (true, s.awake State.lossHalt)
    | _ => (true, s)

/-- A row fires: SUP_STAT, the action log, its action and RULE_FIRED; row 0 is the sag of R406. -/
def State.rowFires (s : State) (r unit : Nat) : State :=
  let x := s.ruleRow r
  let s := (s.setFld .tidewatch .supStat 0 r r 1).rowCounts r 0 0
  let s := s.wr .tidewatch .supLastAction 0 (BitVec.ofNat 64 (r + x.action * 64))
  let e : ActionEntry := { time := s.now, row := r, action := x.action, channel := x.channel, value := BitVec.ofInt 32 (s.rowValue r) }
  let l := s.sys.log ++ [e]
  let s := { s with sys := { s.sys with log := if 16384 < l.length then l.drop 1 else l, logged := s.sys.logged + 1 } }
  let s := s.event .tidewatch 0
  let s := if r = 0 then s.event .power 2 else s
  let done := s.ruleActs x.action x.channel unit
  (if done.1 then done.2 else done.2.event .tidewatch 2).bwGrant

/-- A row is released. -/
def State.rowReleased (s : State) (r : Nat) : State :=
  let s := ((s.setFld .tidewatch .supStat 0 r r 0).rowCounts r 0 0).event .tidewatch 1
  s.reClock.bwGrant

/-- A row meets the newest value of its channel. -/
def State.rowMeets (s : State) (unit r : Nat) : State :=
  if !s.evaluated r then s
  else
    let x := s.ruleRow r
    let v := s.rowValue r
    if s.fired r then
      let n := if (if x.below then decide (x.release < v) else decide (v < x.release)) then FMap.get 0 s.sys.clear r + 1 else 0
      if max 1 x.clear ≤ n then s.rowReleased r else s.rowCounts r 0 n
    else
      let n := if (if x.below then decide (v < x.threshold) else decide (x.threshold < v)) then FMap.get 0 s.sys.beyond r + 1 else 0
      if max 1 x.duration ≤ n then s.rowFires r unit else s.rowCounts r n 0

/-- A sample of a channel: SUP_VALUE, the filters, and every row of the channel in order (R410 to R412). -/
def State.sampleIn (s : State) (c unit : Nat) (v : BitVec 32) : State :=
  let f := s.rd .tidewatch .supFilter c
  let s := s.filterIn c (2 * bits f 5 4 + 1) (bits f 3 0) v.toInt
  let s := s.wr .tidewatch .supValue c (BitVec.ofNat 64 ((s.filtered c % 2 ^ 32).toNat + v.toNat * 2 ^ 32))
  let rows := (List.range 64).filter (fun r => (s.ruleRow r).channel == c)
  let s := (rows.filter (· < 16)).foldl (fun (s : State) r =>
    s.filterIn (128 + r) (s.ruleRow r).median (s.ruleRow r).k v.toInt) s
  rows.foldl (fun (s : State) r => s.rowMeets unit r) s

/-- While standby is lost, no row is evaluated; the hardware still sees the main input below 36.0 V for 100 us (R408). -/
def State.lossSeen (s : State) (r : Nat) (samples : List (BitVec 32)) : State :=
  if r = 1 ∧ 100 ≤ samples.length ∧ samples.all (fun v => decide (v.toInt < 36000)) then s.awake State.lossHalt else s

/-- The samples of a row's channel, in order. -/
def State.samplesIn (s : State) (r : Nat) (samples : List (BitVec 32)) (unit : Nat) : State :=
  if !s.standby then s.lossSeen r samples
  else if channelListed (s.ruleRow r).channel then
    samples.foldl (fun (s : State) v => s.sampleIn (s.ruleRow r).channel unit v) s
  else s

/-- RULE_FIRE (R412): the samples with which a row fires. -/
def execRuleFire (r : Fin 64) (samples : List (BitVec 32)) (unit : BitVec 16) (s : State) : Host.Outcome State Fault Refusal :=
  .next (s.samplesIn r.val samples unit.toNat)

/-- RULE_RELEASE (R412): the samples with which a fired row is released. -/
def execRuleRelease (r : Fin 64) (samples : List (BitVec 32)) (unit : BitVec 16) (s : State) : Host.Outcome State Fault Refusal :=
  .next (s.samplesIn r.val samples unit.toNat)

/-! ### Writes of rows and filters (R413, R415, R418) -/

/-- A row is written: an action in force ends, and the row restarts from not fired (R415). -/
def State.rowRestarts (s : State) (r : Nat) : State :=
  let s := s.rowCounts r 0 0
  if s.fired r then (s.setFld .tidewatch .supStat 0 r r 0).reClock.bwGrant else s

/-- A write of SUP_RULEr_LO or SUP_RULEr_HI: rows 0 to 15 ignore it, and one that names a reserved channel or action is
ignored. -/
def State.supRuleWrite (s : State) (reg : RegName) (r : Nat) (v : Word) : State :=
  if r < 16 ∨ (reg = .supRuleLo ∧ (!channelListed (bits v 6 0) ∨ 8 < bits v 59 56)) then s.ignore .tidewatch
  else (s.wrRw .tidewatch reg r v).rowRestarts r

/-- A write of SUP_FILTERc. -/
def State.supFilterWrite (s : State) (c : Nat) (v : Word) : State :=
  if channelListed c then s.wrRw .tidewatch .supFilter c v else s.ignore .tidewatch

/-! ### MRAM (R381, R414, R432) -/

/-- The bytes of an action log entry (R414). -/
def ActionEntry.bytes (e : ActionEntry) : List Byte :=
  leBytes e.time.toNat 8 ++ [BitVec.ofNat 8 e.row, BitVec.ofNat 8 e.action, BitVec.ofNat 8 e.channel, 0] ++ leBytes e.value.toNat 4

/-- The bytes of a summary (R381). -/
def Summary.bytes (x : Summary) : List Byte :=
  leBytes x.time.toNat 8 ++ leBytes x.page 2 ++ leBytes x.cls 1 ++ leBytes x.code 1 ++ leBytes x.subject 4

/-- The entry in a slot of a ring that keeps the newest `size` of `n` entries ever written. -/
def slotOf {α : Type} (l : List α) (n size slot : Nat) : Option α :=
  if n ≤ size then l[slot]?
  else l[(slot + size - n % size) % size]?

/-- A byte of Tidewatch MRAM (R414). What the first 64 KiB hold is known, and not how it is laid out: the bytes are free. -/
def State.mramByte (s : State) (off : Nat) : Byte :=
  if off < 0x10000 then Config.freeByte s.freeIx off
  else if off < 0x40000 then Config.partByte (2 ^ 20 + off)
  else if off < 0x80000 then
    (((slotOf s.sys.log s.sys.logged 16384 ((off - 0x40000) / 16)).map (fun e => e.bytes.getD (off % 16) 0)).getD 0)
  else (((slotOf s.errs.summaries s.errs.pushed 32768 ((off - 0x80000) / 16)).map (fun x => x.bytes.getD (off % 16) 0)).getD 0)

/-- n bytes of MRAM from an offset; what is free takes a draw. -/
def State.mramRead (s : State) (off n : Nat) : List Byte × State :=
  ((List.range n).map (fun i => s.mramByte (off + i)), { s with freeIx := s.freeIx + 1 })

/-- A read of SUP_MRAM_DATA: 8 bytes at the address, which advances by 8 (R418). -/
def State.mramNext (s : State) : Word × State :=
  let a := s.fld .tidewatch .supMramAddr 0 19 3
  let (bs, s) := s.mramRead (a * 8) 8
  (BitVec.ofNat 64 (leNat bs), s.setFld .tidewatch .supMramAddr 0 19 3 (a + 1))

/-- SUP_MRAM_DATA_READ (R414, R418), by software on the device. While standby is lost the register reads zero (R408). -/
def execSupMramDataRead (s : State) : Host.Outcome State Fault Refusal :=
  .next (s.awake fun s =>
    let a := 0x3F00000040A0
    if s.standby then
      let (v, s) := s.mramNext
      s.emit (.register a v)
    else s.emit (.register a 0))

/-- PLDM_FILE_READ (R414, R432): MRAM as one read-only file, served from standby. -/
def execPldmFileRead (off len : BitVec 20) (s : State) : Host.Outcome State Fault Refusal :=
  .next (if !s.standby then s
    else if 2 ^ 20 < off.toNat + len.toNat then s.emit (.pldm 7 false [])
    else
      let (bs, s) := s.mramRead off.toNat len.toNat
      s.emit (.pldm 7 true bs))

/-- PLDM_SENSOR_READ (R410, R432): a numeric sensor is a Tidewatch channel. -/
def execPldmSensorRead (c : Fin 128) (s : State) : Host.Outcome State Fault Refusal :=
  .next (if !s.standby then s
    else if channelListed c.val then s.emit (.pldm 2 true (leBytes (bits (s.rd .tidewatch .supValue c.val) 31 0) 4))
    else s.emit (.pldm 2 false []))

end Sys2Proof.Machine
end

