-- ==== Sys2Proof/Machine/Firmware.lean ====
section
/-! DEFINITION. Firmware images, their checks and live update (R395 to R398, R420, R423 to R427, R432). -/

namespace Sys2Proof.Machine

/-! ### Keys and images (R420, R423, R426, R427) -/

/-- A Huaris public key: 0 of manufacture, 1 of images. -/
def huarisKey (n : Nat) : List Byte := (List.range 97).map (Config.huarisKey n)

/-- The owner's public key: bytes 32 to 128 of the ownership record in force, or the Huaris manufacturing key in sequence 0
(R423, R425; the place is the model's, notes/assumptions/57.md). -/
def State.ownerKey (s : State) : List Byte := if s.sys.owner.isEmpty then huarisKey 0 else (s.sys.owner.drop 32).take 97

/-- The owner's flags: byte 129 of the record; what sequence 0 holds differs from part to part. -/
def State.ownerFlags (s : State) : Nat :=
  if s.sys.owner.isEmpty then (Config.partByte (2 ^ 22)).toNat else (s.sys.owner.getD 129 0).toNat

/-- A component's banks and activation (R395). -/
def State.fwComp (s : State) (n : Nat) : FwComp := FMap.get {} s.sys.fw n

/-- Replaces what is kept of a component. -/
def State.setFw (s : State) (n : Nat) (x : FwComp) : State := { s with sys := { s.sys with fw := FMap.set {} s.sys.fw n x } }

/-- The image of a bank; none of its bytes for the one it was made with. -/
def FwComp.bank (x : FwComp) (b : Nat) : List Byte := if b = 0 then x.a else x.b

/-- The active bank of a component. -/
def State.fwActive (s : State) (n : Nat) : Nat := s.fld .fault .fwStat n 0 0

/-- The security version of an image; that of a factory image is the part's. -/
def imageVersion (n bank : Nat) (img : List Byte) : Nat :=
  if img.isEmpty then (Config.partByte (2 ^ 22 + 1 + 2 * n + bank)).toNat else leNat ((img.drop 4).take 4)

/-- An image passes the checks of R427 for a component. -/
def State.imageOk (s : State) (n : Nat) (img : List Byte) : Bool :=
  decide (256 ≤ img.length) && (img.getD 0 0).toNat == n && leNat ((img.drop 8).take 4) == img.length - 256 &&
  verifies (huarisKey 1) (img.take 64) ((img.drop 64).take 96) &&
  (sha384 (img.drop 256)).toNat == beNat ((img.drop 16).take 48) &&
  decide ((s.fwComp n).floor ≤ leNat ((img.drop 4).take 4)) &&
  (!s.ownerFlags.testBit 0 || verifies s.ownerKey (img.take 160) ((img.drop 160).take 96))

/-- A bank passes the checks of R427; a factory image is checked against the floor alone. -/
def State.bankOk (s : State) (n b : Nat) : Bool :=
  let img := (s.fwComp n).bank b
  if img.isEmpty then decide ((s.fwComp n).floor ≤ imageVersion n b img) else s.imageOk n img

/-- Sets FW_STATn.state (R398). -/
def State.setFwState (s : State) (n x : Nat) : State := s.setFld .fault .fwStat n 2 1 x

/-- An image is refused: REFUSED, and IMAGE_REFUSED (R427). -/
def State.fwRefused (s : State) (n : Nat) : State := (s.setFwState n 3).event .security 4

/-! ### Activation (R395 to R398) -/

/-- An activation of the inactive bank, or a revert to it, begins (R395, R398): refused where the bank fails its checks, and,
for Gulkutik, where the table format differs (R396). A component that is ACTIVATING already takes no other. -/
def State.fwBegins (s : State) (n target : Nat) (revert formatOk : Bool) : State :=
  if 5 ≤ n then s.ignore .fault
  else if s.fld .fault .fwStat n 2 1 = 2 then s
  else if !s.bankOk n (1 - s.fwActive n) then s.fwRefused n
  else if n = 0 ∧ !revert ∧ !formatOk then s.setFwState n 3
  else (s.setFw n { s.fwComp n with target := target, revert := revert }).setFwState n 2

/-- The cores an activation names: all with 0x3F. -/
def fwCores (target : Nat) : List (Fin 36) := (List.finRange 36).filter (fun c => target = 63 || target = c.val)

/-- The ports an activation names. -/
def fwPorts (target : Nat) : List (Fin 16) := (List.finRange 16).filter (fun p => target = 63 || target = p.val)

/-- A component stands at its swap boundary, its block held by no other owner (R395 to R397); microcode waits for swaps and
for slices (R397, R455), optical engines for slack water (R28). -/
def State.fwBoundary (s : State) (n : Nat) : Bool :=
  match n with
  | 1 => (fwCores (s.fwComp n).target).all (fun c => !s.coreLive c.val ||
      (s.live (.sequencer c) == .running && s.atBoundary (.sequencer c) true && !s.sliceOn c.val)) && s.sys.swap.isNone
  | 3 => s.slackFor 0 && (fwPorts (s.fwComp n).target).all (fun p => s.live (.twPort p) == .running)
  | 4 => s.live .cliff == .running && s.cliff.runs.isEmpty
  | _ => true

/-- A component swaps its banks when it is ACTIVATING and stands at its boundary (R395, R396, R399). -/
def State.fwSwaps (s : State) (n : Nat) : State :=
  if s.fld .fault .fwStat n 2 1 ≠ 2 ∨ !s.fwBoundary n then s
  else
    let x := s.fwComp n
    let s := (s.setFld .fault .fwStat n 0 0 (1 - s.fwActive n)).setFwState n 0
    let s := s.setFw n { x with revert := false, since := if x.revert then none else some s.now }
    s.event .fault (if x.revert then 3 else 4)

/-- FW_ACTIVATE (R395): FW_CTRL op 1. `formatOk` says that a Gulkutik image has the table format in use. -/
def execFwActivate (n : Fin 8) (target : Fin 64) (formatOk : Bool) (s : State) : Host.Outcome State Fault Refusal :=
  .next (s.awake fun s => s.fwBegins n.val target.val false formatOk)

/-- FW_REVERT (R398): FW_CTRL op 2. -/
def execFwRevert (n : Fin 8) (target : Fin 64) (s : State) : Host.Outcome State Fault Refusal :=
  .next (s.awake fun s => s.fwBegins n.val target.val true true)

/-- FW_SWAP (R395). -/
def execFwSwap (n : Fin 5) (s : State) : Host.Outcome State Fault Refusal := .next (s.awake fun s => s.fwSwaps n.val)

/-- FW_HEALTH_TIMEOUT (R396): 1 s after its swap an image has not declared itself healthy; the component returns to the
other bank at the same boundary. -/
def execFwHealthTimeout (n : Fin 5) (s : State) : Host.Outcome State Fault Refusal :=
  .next (s.awake fun s =>
    let x := s.fwComp n.val
    match x.since with
    | some t =>
      if s.now.toNat < t.toNat + secondUnits then s
      else ((s.setFw n.val { x with since := none, revert := true }).setFwState n.val 2).fwSwaps n.val
    | none => s)

/-- FW_HEALTH_DECLARED (R396, R427): a swapped image declares itself healthy in time; with raise_floor set, its security
version becomes the component's floor in the field record. -/
def execFwHealthDeclared (n : Fin 5) (s : State) : Host.Outcome State Fault Refusal :=
  .next (s.awake fun s =>
    let x := s.fwComp n.val
    match x.since with
    | some t =>
      if t.toNat + secondUnits ≤ s.now.toNat then s
      else
        let img := x.bank (s.fwActive n.val)
        let raise : Bool := bit1 (BitVec.ofNat 64 (img.getD 1 0).toNat) 0
        let s := s.setFw n.val { x with since := none, floor := if raise then leNat ((img.drop 4).take 4) else x.floor }
        if raise then s.fieldWrite else s
    | none => s)

/-- A write of FW_CTRL (R398); whether a Gulkutik image has the table format in use is the image's to say. -/
def State.fwCtrlWrite (s : State) (v : Word) : State :=
  match bits v 4 3 with
  | 0 => s
  | 1 => let (b, s) := s.drawBit 0; s.fwBegins (bits v 2 0) (bits v 10 5) false b
  | 2 => s.fwBegins (bits v 2 0) (bits v 10 5) true true
  | _ => s.ignore .fault

/-! ### Images by PLDM (R427, R431, R432) -/

/-- An image is written to the inactive bank of a component and checked. -/
def State.imageIn (s : State) (n : Nat) (img : List Byte) : Bool × State :=
  let b := 1 - s.fwActive n
  let x := s.fwComp n
  let release := (img.getD 3 0).toNat * 256 + (img.getD 2 0).toNat
  let s := s.setFw n (if b = 0 then { x with a := img } else { x with b := img })
  let s := if b = 0 then s.setFld .fault .fwStat n 31 16 release else s.setFld .fault .fwStat n 47 32 release
  if s.imageOk n img then (true, s.setFwState n 1) else (false, s.fwRefused n)

/-- PLDM_FIRMWARE_UPDATE (R432): the inactive bank is written, then activated. After a boot that failed, a successful update
restarts the boot (R431). The banks lie in Cliff, which is without power in Dry. -/
def execPldmFirmwareUpdate (n : Fin 8) (img : List Byte) (formatOk : Bool) (s : State) : Host.Outcome State Fault Refusal :=
  .next (
    if !s.standby then s
    else if 5 ≤ n.val ∨ s.sys.dry ∨ s.fld .fault .fwStat n.val 2 1 = 2 then s.emit (.pldm 5 false [])
    else
      let done := s.imageIn n.val img
      let s := done.2
      if !done.1 then s.emit (.pldm 5 false [])
      else if s.sys.failed then { s with sys := { s.sys with wake := some 0 } }.emit (.pldm 5 true [])
      else
        let s := s.fwBegins n.val 63 false formatOk
        s.emit (.pldm 5 (s.fld .fault .fwStat n.val 2 1 == 2) []))

end Sys2Proof.Machine
end

