-- ==== Sys2Proof/Machine/SelfTest.lean ====
section
/-! DEFINITION. Self-test: slices, failures, the full test, reference checks, loopback and margining (R441 to R457). -/

namespace Sys2Proof.Machine

/-! ### Failures (R447, R450) -/

/-- The record of a failed test: byte 52 gives its kind, 1 logic, 2 memory, 3 reference, 4 loopback, bytes 53 and 54 the
physical unit; ST_FAIL is raised. -/
def State.testFails (s : State) (kind unit : Nat) : State :=
  (s.report { time := s.now, page := Pg.selfTest.index, cls := 0, code := Status.eAbort.code, detail := kind + unit * 256 }).event
    .selfTest 0

/-- What the battery finds failing beside the cores and the links (R430, R447, R448): each has its record; a Harbour slice and a context
set move to their spare, and a pseudo-channel below 6 steps raises MARGIN_LOW. A unit that is no core or port has its number from 64 on
(notes/assumptions/78.md). -/
def State.blocksFail (s : State) (b : Battery) : State :=
  let s := b.slices.foldl (fun (s : State) x =>
    let s := s.testFails 2 (64 + 32 * x.1.val + x.2.val)
    if x.2.val = 16 then { s with sys := { s.sys with spareGone := s.sys.spareGone.add (6 + x.1.val) } }.fieldWrite
    else (s.spareSlice x.1 x.2.val).2) s
  let s := b.sets.foldl (fun (s : State) k => ((s.testFails 2 (1024 + k.val)).spareWay k.val).2) s
  let s := b.foreshore.foldl (fun (s : State) x => s.testFails (if x.2 then 2 else 1) (128 + x.1.val)) s
  let s := if b.semaphores then s.testFails 2 130 else s
  let s := if b.mram then s.testFails 2 131 else s
  b.margins.foldl (fun (s : State) _ => s.event .selfTest 2) s

/-- A logical core's physical core has failed: it is swapped, or retired where its bay has no spare (R390, R447). -/
def State.coreFails (s : State) (c : Fin 36) : State :=
  if s.spareFree (c.val / 6) then (s.swapBegins c 1).2 else (s.swapBegins c 1).2.retireCore c

/-- A physical core fails a test (R447): a spare that fails is unusable from then on. -/
def State.physFails (s : State) (p kind : Nat) : State :=
  let s := (s.testFails kind p).setFld .selfTest .stFailed 0 p p 1
  match s.logicalOf p with
  | some c => s.coreFails (Fin.ofNat 36 c)
  | none =>
    if s.spareFree (p / 7) ∧ s.spareOf (p / 7) = p then
      { s with sys := { s.sys with spareGone := s.sys.spareGone.add (p / 7) } }.fieldWrite
    else s

/-- An Ethernet, CXL or Tideway port fails a test, and stays down (R450, R451). -/
def State.portFails (s : State) (kind unit : Nat) : State :=
  let s := (s.testFails kind unit)
  let s := { s with sys := { s.sys with deadPorts := s.sys.deadPorts.add unit } }
  if unit < 16 then s.ethDown (Fin.ofNat 4 unit)
  else if unit < 32 then s.cxlLost (Fin.ofNat 2 (unit - 16))
  else if s.twUp (unit - 32) then (s.setTwState (unit - 32) 0).event (twPg (unit - 32)) 0
  else s

/-! ### Slices (R441 to R446) -/

/-- The place of a slice in a core's cycle: 64 of logic and 20 of memory (R441). -/
def sliceKey : SliceKind → Nat
  | .logic part seed => 8 * part.val + seed.val
  | .memory mib => 64 + mib.val

/-- A physical core may be tested: its logical core is idle and in no handshake, or it is a spare that may be (R444, R445). -/
def State.sliceCore (s : State) (p : Nat) : Bool :=
  match s.logicalOf p with
  | some c => (s.core c).holder.isNone && (s.readyQueues c).isEmpty && s.live (.sequencer (Fin.ofNat 36 c)) == .running
  | none => s.spareFree (p / 7) && s.spareOf (p / 7) == p && bit1 (s.rd .selfTest .stCfg 0) 11

/-- Slices that run in a bay. -/
def State.baySlices (s : State) (b : Nat) : Nat :=
  ((List.range 7).filter (fun i => (FMap.get none s.sys.slices (7 * b + i)).isSome)).length

/-- Cycles of a slice (R441). -/
def sliceCycles : SliceKind → Nat
  | .logic _ _ => 131392
  | .memory _ => 8192

/-- Tideline units of cycles of the arithmetic clock: 250 ps in Spring, twice that in Neap, 10/9 of it at 3.6 GHz (R6). -/
def State.cycleUnits (s : State) (n : Nat) : Nat :=
  match s.fld .power .pwrStat 0 1 0 with
  | 1 => 2 * n
  | 2 => ceilDiv (10 * n) 9
  | _ => n

/-- A core whose full cycle is overdue may be tested now: its slices come before those of any other core (R445). -/
def State.overdueFirst (s : State) (p : Nat) : Bool :=
  s.sys.overdue.any (fun o => o != p && s.sliceCore o && (FMap.get none s.sys.slices o).isNone) && !s.sys.overdue.contains p

/-- The conditions of R444 and R445 on a physical core and a slice, which takes slack water that is left of the slot. -/
def State.sliceMay (s : State) (p : Nat) (kind : SliceKind) : Bool :=
  s.standby && !s.overdueFirst p && s.slackFor (s.cycleUnits (sliceCycles kind)) && bit1 (s.rd .selfTest .stCtrl 0) 2 && s.code.bayEnabled (p / 7) && s.sliceCore p &&
  decide (s.sys.clockSince.toNat + 400000 ≤ s.now.toNat) && !s.rampsHeld && s.sys.swap.isNone &&
  s.fld .fault .fwStat 1 2 1 != 2 && s.sys.fullTest.isNone

/-- SELF_TEST_SLICE (R444, R445): a slice starts on a core whose grant has come. -/
def execSelfTestSlice (p : Fin 42) (kind : SliceKind) (s : State) : Host.Outcome State Fault Refusal :=
  .next (s.awake fun s =>
    if !s.sys.granted.contains p.val ∨ !s.sliceMay p.val kind ∨ (FMap.get none s.sys.slices p.val).isSome ∨
        max 1 (s.fld .selfTest .stCfg 0 10 8) ≤ s.baySlices (p.val / 7) then s
    else
      let run := some { kind := kind, start := s.now }
      { s with sys := { s.sys with
        granted := s.sys.granted.del p.val, slices := FMap.set none s.sys.slices p.val run } }.sliceBits)

/-- A slice has passed; a full cycle of 84 gives ST_CYCLE_TIMEp its time (R441, R456). -/
def State.slicePassed (s : State) (p : Nat) (k : SliceKind) : State :=
  let done := KeySet.add (FMap.get [] s.sys.cycle p) (sliceKey k)
  if done.length < 84 then { s with sys := { s.sys with cycle := FMap.set [] s.sys.cycle p done } }
  else { s with sys := { s.sys with cycle := FMap.set [] s.sys.cycle p [], overdue := s.sys.overdue.del p } }.wr
    .selfTest .stCycleTime p s.now

/-- SLICE_COMPLETE (R447): a slice finishes; a logic slice whose signature mismatches runs again once. -/
def execSliceComplete (p : Fin 42) (pass : Bool) (s : State) : Host.Outcome State Fault Refusal :=
  .next (s.awake fun s => match FMap.get none s.sys.slices p.val with
    | none => s
    | some x =>
      let logic : Bool := match x.kind with | .logic _ _ => true | .memory _ => false
      if !pass ∧ logic ∧ !x.again then
        { s with sys := { s.sys with slices := FMap.set none s.sys.slices p.val (some { x with again := true }) } }
      else
        let s := (s.sliceOver p.val).bump .selfTest .stSlicesRun 0 1
        if pass then s.slicePassed p.val x.kind else s.physFails p.val (if logic then 1 else 2))

/-- SLICE_ABORT (R446): a slice stops, and the core stands as it did before. -/
def execSliceAbort (p : Fin 42) (s : State) : Host.Outcome State Fault Refusal := .next (s.awake fun s => s.sliceAborts p.val)

/-- Cores whose full cycle is overdue (R445): more than period_h hours since the last one, or since the boot. -/
def State.overdueNow (s : State) : State :=
  let limit := s.fld .selfTest .stCfg 0 7 0 * 3600 * 4000000000
  let late (p : Nat) : Bool := s.code.bayEnabled (p / 7) && !s.sys.overdue.contains p &&
    decide (max (s.rd .selfTest .stCycleTime p).toNat (s.rd .security .secBootTime 0).toNat + limit < s.now.toNat)
  let l := if bit1 (s.rd .selfTest .stCtrl 0) 2 then (List.range 42).filter late else []
  l.foldl (fun (s : State) p => { s with sys := { s.sys with overdue := s.sys.overdue.add p } }.event .selfTest 1) s

/-! ### The battery (R448, R449) -/

/-- What a battery leaves of a core: Ledge, score store, accumulators and tile registers hold zero, banks are EMPTY. -/
def State.clearCore (s : State) (c : Nat) : State :=
  let k := s.core c
  let q (x : Queue) : Queue := { x with ledgeSaved := [] }
  s.setCore c { k with a0 := {}, a1 := {}, tregs := [], score := [], scoreMax := [], scoreSum := [], scoreValid := 0,
                       scoreDone := false, scoreLimit := none, scoreBad := [], landed := [], landing := [], ledgeOwner := []
                       queues := k.queues.map (fun x => (x.1, q x.2)) }

/-- An address of a Ledge window. -/
def ledgeWindow (a : Nat) : Bool := decide (0x300000000000 ≤ a) && decide (a < 0x310000000000)

/-- What a battery leaves on the dies: every core cleared, no line in Harbour and no cached context. -/
def State.clearOnChip (s : State) : State :=
  let s := (List.range 36).foldl State.clearCore s
  { s with mem := s.mem.filter (fun x => !ledgeWindow x.1), bad := s.bad.filter (fun w => !ledgeWindow (w * 32)), harbour := [], pfLines := [], pf := [], dirty := [],
           est := { s.est with cache := [], misses := [] } }

/-- Everything that the full test needs to be DRAINED is, and Harbour holds no dirty line (R449). -/
def State.fullMay (s : State) : Bool :=
  s.sys.fullTest.isNone && s.live .estuary == .drained && s.dirty.isEmpty &&
  (List.finRange 36).all (fun c => !s.coreLive c.val || s.live (.sequencer c) == .drained) &&
  [(0 : Fin 2), 1].all (fun h => s.live (.foreshore h) == .drained && s.live (.update h) == .drained)

/-- The full test is asked (R449). -/
def State.fullBegins (s : State) : State :=
  if !s.fullMay then s.ignore .selfTest
  else
    let s := (List.range 42).foldl State.sliceAborts s
    ({ s with sys := { s.sys with fullTest := some s.now } }.setFld .selfTest .stStat 0 42 42 1).reMode

/-- FULL_TEST (R449): a write of ST_CTRL.full_test. -/
def execFullTest (s : State) : Host.Outcome State Fault Refusal := .next (s.awake fun s => s.fullBegins)

/-! ### Reference checks (R450) -/

/-- REFERENCE_CHECK (R450): the checks of a second, and the one that failed, if one did. A sensor that fails then carries the
hottest of its neighbours: the samples of its channel are what the channel carries. -/
def execReferenceCheck (bad : Option RefFail) (s : State) : Host.Outcome State Fault Refusal :=
  .next (if !s.standby then s
    else match bad with
      | none => s
      | some f =>
        let s := s.bump .selfTest .stRefFails 0 1
        match f with
        | .sensor n => s.testFails 3 n.val
        | .rail r => s.testFails 3 (48 + r.val)
        | .core p => s.awake fun s => s.physFails p.val 3
        | .ethernet p => s.awake fun s => s.portFails 3 p.val
        | .cxl p => s.awake fun s => s.portFails 3 (16 + p.val)
        | .tideway p => s.awake fun s => s.portFails 3 (32 + p.val))

/-! ### Margining and loopback (R451 to R453) -/

/-- The unit and part that ST_MARGIN_CTRL names exist (R456): an HBM4 pseudo-channel, or a wavelength or lane of a port. -/
def State.marginUnit (s : State) (v : Word) : Bool :=
  let u := bits v 5 2
  let sub := bits v 11 6
  match bits v 1 0 with
  | 0 => s.code.stackPresent u && decide (u < 12)
  | 1 => decide (sub < 5)
  | 2 => decide (u < 4) && decide (sub < 4)
  | _ => decide (u < 2) && decide (sub < 16)

/-- A port whose enable bit is clear (R451); a CXL port has none and is disabled while its link is down. -/
def State.portDisabled (s : State) (v : Word) : Bool :=
  let u := bits v 5 2
  match bits v 1 0 with
  | 1 => !bit1 (s.rd (twPg u) .twpCtrl 0) 0
  | 2 => !bit1 (s.rd .estuary .estPortCfg (u % 4)) 0
  | 3 => !bit1 (s.rd (.cxl (Fin.ofNat 2 u)) .cxlStat 0) 0
  | _ => false

/-- A request of ST_MARGIN_CTRL starts a sweep or eye read (op 1) or a loopback (op 2), or is ignored (R451, R455). -/
def State.marginBegins (s : State) (op : Nat) (v : Word) : State :=
  if s.sys.margin.isSome ∨ !s.marginUnit v ∨ (op = 2 ∧ !s.portDisabled v) then s.ignore .selfTest
  else
    let s := (s.wrRw .selfTest .stMarginCtrl 0 v).wr .selfTest .stMarginResult 0 0
    { s with sys := { s.sys with margin := some (setBits v 14 13 op), marginLo := 0, marginHi := 0, marginSide := 0 } }.setFld
      .selfTest .stStat 0 43 43 1

/-- A queue of a class above Train of a core of a stack's bay is ready (R292, R452). -/
def State.bayReady (s : State) (k : Nat) : Bool :=
  (List.range 6).any (fun i => (s.readyQueues (6 * (k / 2) + i)).any (fun q =>
    s.fld (.sequencer (Fin.ofNat 36 (6 * (k / 2) + i))) .qCfg q 1 0 < 2))

/-- A step of an HBM4 sweep: the setting moves one step away from the trained one, a pattern is written to the test area, which no
other access reaches, and read back, and the trained setting is restored. It starts only in slack water, and while no Reflex or Bulk
work is ready in the stack's bay; each side ends at the first step that fails, or after 32 (R452). -/
def State.marginStep (s : State) (v : Word) (pass : Bool) : State :=
  let y := s.sys
  if bits v 1 0 ≠ 0 ∨ !s.slackFor 0 ∨ s.bayReady (bits v 5 2) then s
  else match y.marginSide with
    | 0 =>
      let n := if pass then y.marginLo + 1 else y.marginLo
      { s with sys := { y with marginLo := n, marginSide := if pass ∧ n < 32 then 0 else 1 } }
    | 1 =>
      let n := if pass then y.marginHi + 1 else y.marginHi
      { s with sys := { y with marginHi := n, marginSide := if pass ∧ n < 32 then 1 else 2 } }
    | _ => s

/-- The request that runs is over. -/
def State.marginOver (s : State) : State := { s with sys := { s.sys with margin := none } }.setFld .selfTest .stStat 0 43 43 0

/-- The result of a sweep or eye read (R452, R453): below 6 steps on a side raises MARGIN_LOW. -/
def State.marginEnds (s : State) (v : Word) (lo hi height : Nat) : State :=
  let low : Bool := decide (lo < 6) || decide (hi < 6)
  let h := if bits v 1 0 = 0 then 0 else height
  let s := s.marginOver.wr .selfTest .stMarginResult 0
    (BitVec.ofNat 64 (lo + hi * 2 ^ 8 + h * 2 ^ 16 + 2 ^ 32 + (if low then 2 ^ 33 else 0)))
  if low then s.event .selfTest 2 else s

/-- The end of the sweep or eye read that runs: an HBM4 sweep gives the steps it has counted, once both sides are over, and a link's eye
monitor what it reads (R452, R453). -/
def State.sweepEnds (s : State) (v : Word) (lo hi height : Nat) : State :=
  if bits v 1 0 ≠ 0 then s.marginEnds v lo hi height
  else if s.sys.marginSide < 2 then s
  else s.marginEnds v s.sys.marginLo s.sys.marginHi 0

/-- MARGIN_SWEEP (R452, R453): ST_MARGIN_CTRL op 1, a step of the sweep that runs, or its result. -/
def execMarginSweep (x : MarginStep) (s : State) : Host.Outcome State Fault Refusal :=
  .next (s.awake fun s => match x with
    | .start v => s.marginBegins 1 v
    | .step pass => match s.sys.margin with
      | some v => if bits v 14 13 = 1 then s.marginStep v pass else s
      | none => s
    | .result lo hi height _ => match s.sys.margin with
      | some v => if bits v 14 13 = 1 then s.sweepEnds v lo.toNat hi.toNat height.toNat else s
      | none => s)

/-- The result of a loopback (R451): a Tideway wavelength fails under R336; an Ethernet or CXL port stays down. -/
def State.loopEnds (s : State) (v : Word) (fail : Bool) : State :=
  let u := bits v 5 2
  let s := s.marginOver.wr .selfTest .stMarginResult 0 (BitVec.ofNat 64 (2 ^ 32 + (if fail then 2 ^ 34 else 0)))
  if !fail then s
  else match bits v 1 0 with
    | 1 => (s.testFails 4 (32 + u)).wavelengthFails u (bits v 11 6)
    | 2 => s.portFails 4 u
    | _ => s.portFails 4 (16 + u)

/-- LOOPBACK (R451): ST_MARGIN_CTRL op 2 of a disabled port, or the result of the loopback that runs. -/
def execLoopback (x : MarginStep) (s : State) : Host.Outcome State Fault Refusal :=
  .next (s.awake fun s => match x with
    | .start v => s.marginBegins 2 v
    | .step _ => s
    | .result _ _ _ fail => match s.sys.margin with
      | some v => if bits v 14 13 = 2 then s.loopEnds v fail else s
      | none => s)

/-- ST_FULL_DONE (R447, R449): the battery is over; `bad` is what failed it. -/
def execStFullDone (bad : Battery) (s : State) : Host.Outcome State Fault Refusal :=
  .next (s.awake fun s => match s.sys.fullTest with
    | none => s
    | some t =>
      let s := { s with sys := { s.sys with fullTest := none } }.clearOnChip
      let s := (s.bump .selfTest .stSliceTime 0 (s.now - t).toNat).setFld .selfTest .stStat 0 42 42 0
      let s := s.reMode.event .selfTest 3
      let s := (bad.cores.foldl (fun (s : State) x => s.physFails x.1.val (if x.2 then 2 else 1)) s).blocksFail bad
      let s := bad.wavelengths.foldl (fun (s : State) x =>
        (s.testFails 4 (32 + x.val % 16)).wavelengthFails (x.val % 16) (x.val / 16)) s
      let s := bad.ethernet.foldl (fun (s : State) p => s.portFails 4 p.val) s
      bad.cxl.foldl (fun (s : State) p => s.portFails 4 (16 + p.val)) s)

/-- A write of ST_MARGIN_CTRL (R456). -/
def State.marginCtrlWrite (s : State) (v : Word) : State :=
  match bits v 14 13 with
  | 0 => if s.sys.margin.isSome then s.ignore .selfTest else s.wrRw .selfTest .stMarginCtrl 0 v
  | 1 => s.marginBegins 1 v
  | 2 => s.marginBegins 2 v
  | _ => s.ignore .selfTest

/-- A write of ST_CTRL (R446, R449, R456): clearing enable aborts every slice; one that asks for a full test that may not
begin is ignored whole (R490). -/
def State.stCtrlWrite (s : State) (v : Word) : State :=
  if bit1 v 3 && !s.fullMay then s.ignore .selfTest
  else
    let s := if bit1 v 0 then s.clearCounters .selfTest else s
    let s := s.wrRw .selfTest .stCtrl 0 v
    let s := if bit1 v 2 then s else (List.range 42).foldl State.sliceAborts s
    if bit1 v 3 then s.fullBegins else s

/-- A write of ST_CFG (R456): a period of 0 is ignored. -/
def State.stCfgWrite (s : State) (v : Word) : State := if bits v 7 0 = 0 then s.ignore .selfTest else s.wrRw .selfTest .stCfg 0 v

end Sys2Proof.Machine
end

