-- ==== Sys2Proof/Machine/Boot.lean ====
section
/-! DEFINITION. Boots: records, firmware banks, the self-test and what survives (R3, R22, R258, R392, R402, R412, R415, R417,
R422 to R431, R437, R448, R491). -/

namespace Sys2Proof.Machine

/-! ### What a boot starts from (R401, R428, R429, R491) -/

/-- Registers that keep a value across a boot: those of pages 1 to 4, and those that a record, Cliff or a laser module holds. -/
def keptRegs : List (Pg × RegName × Nat) :=
  ((List.range 5).map (fun n => (Pg.fault, RegName.fwStat, n))) ++
  [(.fault, .pcStat, 0), (.security, .secOwner, 0), (.cliff, .cliffStat, 0), (.cliff, .cliffWear, 0), (.estuary, .estStat, 0),
   (.harbour 0, .hbStat, 0), (.harbour 1, .hbStat, 0)] ++
  ((List.range 4).map (fun m => (Pg.tideway, RegName.twLaser, m))) ++
  ((List.finRange 12).map (fun k => (Pg.hbm k, RegName.hbmStat, 0)))

/-- The registers after the main rails have been off: every page outside Tidewatch has its reset values, but for what the
field record, Cliff and the laser modules hold. -/
def State.bootRegs (s : State) : State :=
  let kept := keptRegs.map (fun k => regKey k.1 k.2.1 k.2.2)
  let s := { s with regs := s.regs.filter (fun x => (1 ≤ x.1 / 4096 && x.1 / 4096 ≤ 4) || kept.contains x.1) }
  let s := (List.range 5).foldl (fun (s : State) n => s.setFwState n 0) s
  let s := (List.range 4).foldl (fun (s : State) m => s.setFld .tideway .twLaser m 2 1 0) s
  let s := (List.finRange 12).foldl (fun (s : State) k =>
    s.wr (.hbm k) .hbmStat 0 (BitVec.ofNat 64 (s.fld (.hbm k) .hbmStat 0 15 9 * 2 ^ 9))) s
  let s := s.wr .estuary .estStat 0 (BitVec.ofNat 64 (s.fld .estuary .estStat 0 4 4 * 16))
  let s := [(0 : Fin 2), 1].foldl (fun (s : State) h =>
    if bit1 (s.rd (.harbour h) .hbStat 0) 17 then s else s.setFld (.harbour h) .hbStat 0 16 0 0xFFFF) s
  let s := [(0 : Fin 2), 1].foldl (fun (s : State) h => (s.setFld (.harbour h) .hbStat 0 18 18 0).setFld (.harbour h) .hbStat 0 21 19 1) s
  (s.setFld .fault .pcStat 0 4 4 0).laserCounts

/-- A model that was PINNED stages into Ledge again (R402). -/
def Gulk.restage (g : Gulk) : Gulk :=
  { g with reqs := [], models := g.models.map (fun x =>
      (x.1, x.2.map (fun m => if m.hot = .pinned then m.restaged else m))) }

/-- Gulkutik's tables start empty: no scene, stream, job or model, and host objects in Cliff alone are kept (R428, R429). -/
def State.emptyTables (s : State) : State :=
  { s with gulk := {}, jobs := [], est := { s.est with regions := [] }
           cliff := { s.cliff with objs := s.cliff.objs.filter (fun x => (x.2.map (fun o => o.tier == 2)).getD false) } }

/-- An address of HBM4. -/
def hbmWindow (a : Nat) : Bool := decide (a < 0xC000000000)

/-- The state that a boot starts from: what Dry loses is lost, and at a cold boot HBM4 holds zeros (R401, R428, R448). -/
def State.bootState (s : State) (cold : Bool) : State :=
  let s := s.bootRegs
  let s := { s with
    mem := s.mem.filter (fun x => !ledgeWindow x.1 && !(cold && hbmWindow x.1))
    bad := s.bad.filter (fun w => !ledgeWindow (w * 32) && !(cold && hbmWindow (w * 32)))
    harbour := [], pfLines := [], pf := [], dirty := [], wc := [], regulators := [], sems := [], lives := [], fore := [], tw := {}
    cores := (s.cores.filter (fun x => x.2.retired)).map (fun x => (x.1, { retired := true }))
    cliff := { s.cliff with runs := [] }
    errs := { s.errs with buffered := [], held := [], lastCorrected := [] }
    est := { qps := if cold then [] else s.est.qps, regions := s.est.regions, spared := s.est.spared }
    gulk := s.gulk.restage
    jobs := s.jobs.map (fun x => (x.1, x.2.map (fun j => { j with runs := [] })))
    sys := { s.sys with
      swap := none, retiring := none, dry := false, failed := false, ramp := none, ramps := [], pieces := [], got := []
      slices := [], granted := [], cycle := [], fullTest := none, margin := none, overdue := [], deadPorts := []
      clockSince := s.now, modeSince := [], fw := s.sys.fw.map (fun x => (x.1, { x.2 with revert := false, since := none })) } }
  if cold then s.emptyTables else s

/-! ### Records (R424) -/

/-- A boot fails at a check: 1 manufacturing, 2 ownership, 3 Gulkutik's banks (R431). -/
def State.bootFails (s : State) (check : Nat) : State :=
  { s with sys := { s.sys with failed := true, bootFail := check, wake := none } }.setFld .security .secStat 0 3 0 15

/-- One copy of a record is valid, and the other is rewritten from it. -/
def State.repaired (s : State) (a b : Bool) : State :=
  if a && b then s else (s.noted .security .eMemUncorr).event .security 0

/-- The field record is lost: the manufacturing record's maps hold, and no unit is spared or retired. -/
def State.fieldLost (s : State) : State :=
  let s := { s with
    cores := [], est := { s.est with spared := [] }
    sys := { s.sys with phys := [], spareGone := [], retiredPcs := [], repairRows := [], fw := s.sys.fw.map (fun x => (x.1, { x.2 with floor := 0 })) } }
  let s := (List.finRange 12).foldl (fun (s : State) k => s.setFld (.hbm k) .hbmStat 0 15 9 0) s
  let s := [(0 : Fin 2), 1].foldl (fun (s : State) h => s.setFld (.harbour h) .hbStat 0 17 0 0xFFFF) s
  let s := (s.wr .fault .pcStat 0 12).setFld .estuary .estStat 0 4 4 0
  ((s.setFld .security .secStat 0 5 5 1).event .security 1).fieldWrite

/-- HBM4 rows of the repair map are repaired (R392, R428). -/
def State.repairHbm (s : State) : State := { s with sys := { s.sys with repairedRows := s.sys.repairRows } }

/-- The records as a boot finds them; none where it fails. -/
def State.bootRecords (s : State) (f : BootFound) : State :=
  let s := if f.mfgA || f.mfgB || f.mirror then s.repaired f.mfgA f.mfgB else s.bootFails 1
  if s.sys.failed then s
  else
    let s := if f.fieldA || f.fieldB then s.repaired f.fieldA f.fieldB else s.fieldLost
    let s := s.repairHbm
    if f.ownerA || f.ownerB then s.repaired f.ownerA f.ownerB else s.bootFails 2

/-! ### Firmware banks (R427) -/

/-- A bank passes the checks of a boot. -/
def State.bankBoots (s : State) (f : BootFound) (n b : Nat) : Bool :=
  !f.badBanks.contains (Fin.ofNat 10 (2 * n + b)) && s.bankOk n b

/-- A component starts from its active bank, or from the other one when that fails. -/
def State.bootBank (s : State) (f : BootFound) (n : Nat) : State :=
  let a := s.fwActive n
  if s.bankBoots f n a then s
  else if s.bankBoots f n (1 - a) then s.setFld .fault .fwStat n 0 0 (1 - a)
  else if n = 0 then s.bootFails 3
  else s

/-! ### Identity (R422, R425, R437) -/

/-- A transfer of ownership takes effect (R425). -/
def State.bootOwner (s : State) : State :=
  if s.sys.nextOwner.isEmpty then s
  else { s with sys := { s.sys with owner := s.sys.nextOwner, nextOwner := [] } }.setFld .security .secOwner 0 31 0
    (s.fld .security .secOwner 0 31 0 + 1)

/-- An armed token opens its ports for this boot, and a new nonce is drawn (R437). -/
def State.bootDebug (s : State) : State :=
  let scope := s.sys.token.getD 0 % 4
  let nonce := (List.range 32).map (Config.freeByte s.freeIx)
  let s := { s with freeIx := s.freeIx + 1, sys := { s.sys with token := none, nonce := nonce } }
  let s := s.wr .security .secDebug 0 (BitVec.ofNat 64 (scope + leNat (nonce.take 4) * 2 ^ 32))
  s.setFld .security .secStat 0 7 7 (if scope = 0 then 0 else 1)

/-! ### Self-test and sparing (R430, R447, R451) -/

/-- The highest logical core of a bay that is present. -/
def State.lastCore (s : State) (b : Nat) : Nat := ((List.range 6).reverse.find? (fun i => s.coreLive (6 * b + i))).getD 0 + 6 * b

/-- A physical core fails the battery: its logical core moves to the bay's spare, or, without one, takes the core of the
bay's last logical core, which becomes absent. -/
def State.bootCoreFails (kind : Nat → Nat) (s : State) (p : Nat) : State :=
  let s := (s.testFails (kind p) p).setFld .selfTest .stFailed 0 p p 1
  match s.logicalOf p with
  | none => { s with sys := { s.sys with spareGone := s.sys.spareGone.add (p / 7) } }
  | some c =>
    let s := if s.spareFree (p / 7) then
        { s with sys := { s.sys with phys := FMap.set 0 s.sys.phys c (s.spareOf (p / 7) + 1), spareGone := s.sys.spareGone.add (p / 7) } }
      else
        let l := s.lastCore (p / 7)
        { s with sys := { s.sys with phys := FMap.set 0 s.sys.phys c (s.physOf l + 1) } }.setCore l { retired := true }
    s

/-- The battery over the cores, spares first; a change goes to the field record (R430). -/
def State.bootCores (s : State) (bad : List (Fin 42 × Bool)) : State :=
  let kind (p : Nat) : Nat := if bad.any (fun x => x.1.val == p && !x.2) then 1 else 2
  let l := (bad.map (·.1.val)).eraseDups.filter (fun p => s.code.bayEnabled (p / 7))
  let spares := l.filter (fun p => (s.logicalOf p).isNone)
  let t := (spares ++ l.filter (fun p => (s.logicalOf p).isSome)).foldl (State.bootCoreFails kind) s
  if l.isEmpty then t else t.fieldWrite

/-- The loopbacks of a boot: wavelengths fail under R336, Ethernet and CXL ports stay down (R451). -/
def State.bootLinks (s : State) (b : Battery) : State :=
  let s := b.wavelengths.foldl (fun (s : State) x =>
    (s.testFails 4 (32 + x.val % 16)).setFld (twPg (x.val % 16)) .twpStat 0 (15 + x.val / 16) (15 + x.val / 16) 1) s
  let s := b.ethernet.foldl (fun (s : State) p => s.portFails 4 p.val) s
  b.cxl.foldl (fun (s : State) p => s.portFails 4 (16 + p.val)) s

/-! ### The boot -/

/-- Rows with action HALT or LOSS are evaluated again from not fired (R412). -/
def State.freshRows (s : State) : State :=
  (List.range 64).foldl (fun (s : State) r =>
    if [4, 8].contains (s.ruleRow r).action then (s.setFld .tidewatch .supStat 0 r r 0).rowCounts r 0 0 else s) s

/-- Estuary accepts messages: the registers that say so, and the clock state (R258, R402, R416, R417, R439). -/
def State.bootDone (s : State) (cold : Bool) (digestOk : Bool) : State :=
  let s := if !cold && !digestOk then s.emptyTables.event .security 2 else s
  let s := (s.setFld .security .secStat 0 3 0 6).setFld .security .secStat 0 4 4 (if cold then 1 else 0)
  let s := s.wr .security .secBootTime 0 s.now
  let s := [(0 : Fin 2), 1].foldl (fun (s : State) h =>
    let (w, s) := s.draw
    (s.wr (.harbour h) .hbFrozenTime 0 w).setFld (.harbour h) .hbStat 0 21 19 0) s
  let s := { s with sys := { s.sys with modeSince := FMap.set 0 (FMap.set 0 [] 0 s.now) 1 s.now } }
  -- the boot's own ramps are granted in the order in which it asks for them (R403); how many there are is not stated
  let s := s.bumpAllFree .power [.bwGrants, .bwWaitUnits]
  let s := s.bumpFree .selfTest .stSliceTime 0
  let s := s.setFld .power .pwrStat 0 43 41 (s.sys.wake.getD 0)
  let s := if s.sys.stopped then s.event .power 4 else s
  let s := { s with sys := { s.sys with wake := none, stopped := false, cold := false } }
  ((s.setFld .power .pwrStat 0 1 0 s.springState).reClock).bwGrant

/-- A boot may start: standby is up, the stop latch is clear, and the device is at its first power-up, or in Dry or after a boot
that failed with a wake (R402, R409, R428, R431); it is cold when HBM4 has not been kept. Its ramps wait while a row with
action NEAP, HALT or LOSS is fired (R403). -/
def State.bootMay (s : State) (cold : Bool) : Bool :=
  s.standby && !s.latched && s.sys.cold == cold && !s.rampsHeld &&
  (if s.sys.dry || s.sys.failed then s.sys.wake.isSome else s.fld .security .secStat 0 3 0 != 6)

/-- A boot, in the order of R428. -/
def State.boots (s : State) (cold : Bool) (f : BootFound) : State :=
  if !s.bootMay cold then s
  else
    let s := (s.bootState cold).freshRows.bootRecords f
    if s.sys.failed then s
    else
      let s := (List.range 5).foldl (fun (s : State) n => s.bootBank f n) s.bootOwner
      if s.sys.failed then s
      else (((s.bootDebug.bootCores f.battery.cores).blocksFail f.battery).bootLinks f.battery).bootDone cold f.digestOk

/-- COLD_BOOT (R428). -/
def execColdBoot (f : BootFound) (s : State) : Host.Outcome State Fault Refusal := .next (s.boots true f)

/-- DRY_EXIT (R429). -/
def execDryExit (f : BootFound) (s : State) : Host.Outcome State Fault Refusal := .next (s.boots false f)

end Sys2Proof.Machine
end

