-- ==== Sys2Proof/Machine/Manage.lean ====
section
/-! DEFINITION. The management interface and attestation: ownership, the debug token, boot status and SPDM (R408, R422 to R425,
R431 to R438). -/

namespace Sys2Proof.Machine

/-! ### Ownership and debug (R425, R431, R433, R437) -/

/-- The security engine takes commands: standby is up for MCTP, the main rails for the engine, and the last boot succeeded
(R401, R431). -/
def State.secured (s : State) : Bool := s.standby && !s.sys.dry && !s.sys.failed

/-- The bytes of a record that has come in whole: its header gives the length of its body (R424). -/
def State.recordIn (s : State) : Option (List Byte) :=
  let at_ (i : Nat) : Byte := FMap.get 0 s.sys.pieces i
  let n := 32 + leNat ((List.range 4).map (fun i => at_ (8 + i))) + 96
  if (List.range 32).all (fun i => s.sys.got.contains i) && s.sys.got.length == n && s.sys.got.getLast? == some (n - 1) then
    some ((List.range n).map at_)
  else none

/-- A new ownership record: of kind 3, with the next sequence, signed by the key in force (R424, R425). -/
def State.ownerOk (s : State) (r : List Byte) : Bool :=
  (r.getD 0 0).toNat == 3 && leNat ((r.drop 4).take 4) == s.fld .security .secOwner 0 31 0 + 1 &&
  verifies s.ownerKey (r.take (r.length - 96)) (r.drop (r.length - 96))

/-- A piece of a record is kept; one at offset 0 begins the record again. -/
def State.pieceIn (s : State) (off : Nat) (bs : List Byte) : State :=
  let s := if off = 0 then { s with sys := { s.sys with pieces := [], got := [] } } else s
  bs.zipIdx.foldl (fun (s : State) x =>
    { s with sys := { s.sys with pieces := FMap.set 0 s.sys.pieces (off + x.2) x.1, got := s.sys.got.add (off + x.2) } }) s

/-- OWNER_WRITE (R425, R433): a piece of at most 240 bytes; when the record is whole it is checked, and waits for the next
boot. A record that fails a check, or one while a transfer waits, completes with E_STATE and changes nothing (R438). -/
def execOwnerWrite (off : BitVec 32) (piece : List Byte) (s : State) : Host.Outcome State Fault Refusal :=
  .next (
    if !s.standby then s
    else if !s.secured ∨ bit1 (s.rd .security .secStat 0) 6 then s.emit (.mctp 5 .eState [])
    else if 240 < piece.length then s.emit (.mctp 5 .eLength [])
    else
      let s := s.pieceIn off.toNat piece
      match s.recordIn with
      | none => s.emit (.mctp 5 .ok [])
      | some r =>
        let ok := s.ownerOk r
        let s := { s with sys := { s.sys with pieces := [], got := [] } }
        if ok then
          (({ s with sys := { s.sys with nextOwner := r } }.setFld .security .secStat 0 6 6 1).event .security 3).emit (.mctp 5 .ok [])
        else s.emit (.mctp 5 .eState []))

/-- The serial number, of the manufacturing record (R423). -/
def serial : List Byte := (List.range 16).map (fun i => Config.partByte (64 + i))

/-- A debug token is accepted (R437): the ownership record allows debug, serial number and nonce are the device's, and the
owner's key has signed it. -/
def State.tokenOk (s : State) (t : List Byte) : Bool :=
  t.length == 160 && s.ownerFlags.testBit 1 && t.take 16 == serial && (t.drop 16).take 32 == s.sys.nonce &&
  verifies s.ownerKey (t.take 64) (t.drop 64)

/-- DEBUG_TOKEN (R437): an accepted token opens the ports of its scope, byte 48, at the next boot. -/
def execDebugToken (token : List Byte) (s : State) : Host.Outcome State Fault Refusal :=
  .next (
    if !s.standby then s
    else if !s.secured ∨ !s.tokenOk token then s.emit (.mctp 6 .eState [])
    else
      let s := { s with sys := { s.sys with token := some ((token.getD 48 0).toNat % 4) } }
      (s.setFld .security .secDebug 0 2 2 1).emit (.mctp 6 .ok []))

/-- BOOT_STATUS (R433): SEC_STAT, the check that failed, the serial number and the nonce. It answers after a boot that failed
(R431); in Dry the security engine is without power. -/
def execBootStatus (s : State) : Host.Outcome State Fault Refusal :=
  .next (
    if !s.standby then s
    else if s.sys.dry then s.emit (.mctp 7 .eState [])
    else s.emit (.mctp 7 .ok (leBytes (s.rd .security .secStat 0).toNat 8 ++
      [BitVec.ofNat 8 (if s.sys.failed then s.sys.bootFail else 0)] ++ serial ++ s.sys.nonce)))

/-! ### Attestation (R422, R434 to R436) -/

/-- The 48 bytes of a digest, most significant first. -/
def digestBytes (d : BitVec 384) : List Byte := (leBytes d.toNat 48).reverse

/-- The owner sequence in force. -/
def State.ownerSeq (s : State) : Nat := s.fld .security .secOwner 0 31 0

/-- Debug is unlocked at this boot. -/
def State.unlocked (s : State) : Bool := bit1 (s.rd .security .secStat 0) 7

/-- The digest of a component's active bank. -/
def State.bankDigest (s : State) (n : Nat) : BitVec 384 :=
  let b := s.fwActive n
  let img := (s.fwComp n).bank b
  if img.isEmpty then Config.romDigest (10 + 2 * n + b) else sha384 img

/-- A measurement (R435). -/
def State.measure (s : State) (i : Nat) : List Byte :=
  match i with
  | 1 => digestBytes (Config.romDigest 0)
  | 2 => digestBytes (sha384 (digestBytes (Config.romDigest 1) ++ digestBytes (s.bankDigest 2)))
  | 3 => digestBytes (Config.romDigest 2)
  | 4 => digestBytes (Config.fieldDigest (s.fld .security .secOwner 0 63 32))
  | 5 => digestBytes (if s.sys.owner.isEmpty then Config.romDigest 3 else sha384 s.sys.owner)
  | 6 => digestBytes (s.bankDigest 0)
  | 7 => digestBytes (s.bankDigest 1)
  | 8 => digestBytes (s.bankDigest 3)
  | 9 => digestBytes (s.bankDigest 4)
  | _ => [if s.unlocked then 1 else 0]

/-- The alias key signs a transcript: what the response gives, the nonce, and the rest of the transcript, which is free. -/
def State.aliasSigns (s : State) (bs nonce : List Byte) : List Byte × State :=
  (Config.aliasSign s.ownerSeq s.unlocked (freeBytes s.freeIx 32 ++ bs ++ nonce), { s with freeIx := s.freeIx + 1 })

/-- The response to GET_MEASUREMENTS: block i, every block (255), or the number of blocks (0). -/
def State.measured_ (s : State) (i : Nat) (nonce : List Byte) : SpdmAnswer × State :=
  if 10 < i ∧ i ≠ 255 then (.error, s)
  else
    let blocks := if i = 0 then [(0, [10])] else if i = 255 then (List.range 10).map (fun n => (n + 1, s.measure (n + 1)))
      else [(i, s.measure i)]
    let (sig, s) := s.aliasSigns (blocks.flatMap (·.2)) nonce
    (.measurements blocks sig, s)

/-- The owner's chain for the alias key, when the ownership record has one (R423, R434). -/
def State.ownerChain (s : State) : List Byte := (s.sys.owner.drop 130).take (s.sys.owner.length - 226)

/-- A certificate slot is there. -/
def State.slotThere (s : State) (slot : Nat) : Bool := slot == 0 || (slot == 1 && !s.ownerChain.isEmpty)

/-- The response to CHALLENGE. -/
def State.challenged (s : State) (slot : Nat) (nonce : List Byte) : SpdmAnswer × State :=
  if !s.slotThere slot then (.error, s)
  else
    let (sig, s) := s.aliasSigns [] nonce
    (.challenge slot sig, s)

/-- The response to GET_CERTIFICATE: a part of a chain. -/
def State.certificate (s : State) (slot off len : Nat) : SpdmAnswer :=
  if !s.slotThere slot then .error
  else if slot = 1 then .certificate 1 ((s.ownerChain.drop off).take len)
  else .certificate 0 ((List.range len).map (fun i => Config.chainByte 0 s.ownerSeq s.unlocked (off + i)))

/-- The response to NEGOTIATE_ALGORITHMS. -/
def algorithmsAnswer (huaris : Bool) : SpdmAnswer := if huaris then .algorithms else .error

/-- The response to an SPDM request; what the standard alone gives is free. -/
def State.spdm (s : State) (m : Spdm) : SpdmAnswer × State :=
  match m with
  | .measurements i nonce => s.measured_ i.val nonce
  | .challenge slot nonce => s.challenged slot.val nonce
  | .certificate slot off len => (s.certificate slot.val off.toNat len.toNat, s)
  | .algorithms huaris => (algorithmsAnswer huaris, s)
  | .other _ =>
    let (w, s) := s.draw
    (.other (freeBytes s.freeIx (w.toNat % 4096)), { s with freeIx := s.freeIx + 1 })

/-- An SPDM request over queue pair 1 (`window`) or over MCTP is answered (R432, R436). Over queue pair 1 it is a packet as any other: it
waits for its context, and for Estuary (R308, R394); `i` is its row. -/
def State.attests (s : State) (window : Bool) (i : Instr) (m : Spdm) : State :=
  if window then
    s.awake fun s => s.heard 1 0 i fun s =>
      if (s.qp 1).isNone ∨ ((s.qp 1).map (·.error)).getD false ∨ s.est.closed then s
      else if s.live .estuary ≠ .running then s.rnr 1
      else
        let (a, s) := (s.ctxLook 1 1).2.spdm m
        s.emit (.spdm true a)
  else if !s.standby then s
  else if !s.secured then s.emit (.spdm false .error)
  else
    let (a, s) := s.spdm m
    s.emit (.spdm false a)

/-- SPDM_MESSAGE (R436): a SEND with immediate 5 on queue pair 1. -/
def execSpdmMessage (m : Spdm) (s : State) : Host.Outcome State Fault Refusal := .next (s.attests true (.spdmMessage m) m)

/-- GET_MEASUREMENTS (R435). -/
def execGetMeasurements (window : Bool) (i : Fin 256) (nonce : List Byte) (s : State) : Host.Outcome State Fault Refusal :=
  .next (s.attests window (.getMeasurements window i nonce) (.measurements i nonce))

/-- CHALLENGE (R434). -/
def execChallenge (window : Bool) (slot : Fin 8) (nonce : List Byte) (s : State) : Host.Outcome State Fault Refusal :=
  .next (s.attests window (.challenge window slot nonce) (.challenge slot nonce))

/-- GET_CERTIFICATE (R434). -/
def execGetCertificate (window : Bool) (slot : Fin 8) (off len : BitVec 16) (s : State) : Host.Outcome State Fault Refusal :=
  .next (s.attests window (.getCertificate window slot off len) (.certificate slot off len))

/-- NEGOTIATE_ALGORITHMS (R434). -/
def execNegotiateAlgorithms (window huaris : Bool) (s : State) : Host.Outcome State Fault Refusal :=
  .next (s.attests window (.negotiateAlgorithms window huaris) (.algorithms huaris))

end Sys2Proof.Machine
end

