-- ==== Sys2Proof/Machine/Ticks.lean ====
section
/-! DEFINITION. What the tideline brings: ticks, slots, deadlines, and the passing of time (R21, R26 to R29, R301, R416, R445). -/

namespace Sys2Proof.Machine

/-- What happens at a tick start besides the tick: pinned versions that wait take their Ledge (R301), and in Dry the tick counts
toward a wake (R416). -/
def State.tickBegan (x : Bool × State) : State :=
  if x.1 then (x.2.awake State.pinnedSwitch).tickWake else x.2

/-- TICK_IN_EDGE (R25, R26): an edge, timestamped within one unit of its crossing: `jitter` 0 to 2 for -1 to 1. -/
def execTickInEdge (jitter : Fin 3) (s : State) : Host.Outcome State Fault Refusal :=
  .next (State.tickBegan (s.edgeComes (s.now.toNat + jitter.val - 1)))

/-- TICK_START (R26, R27): a tick of the internal period. -/
def execTickStart (s : State) : Host.Outcome State Fault Refusal := .next (State.tickBegan s.tickInternal)

/-- TICK_WINDOW_CLOSE (R26). -/
def execTickWindowClose (s : State) : Host.Outcome State Fault Refusal := .next (State.tickBegan s.tickWindow)

/-- SLOT_START (R27); the cores whose cycle of self-test is overdue are found at slots (R445). -/
def execSlotStart (s : State) : Host.Outcome State Fault Refusal := .next (s.nextSlot.awake State.overdueNow)

/-- A time has come: it is not 0 and lies before the present (R29). -/
def State.past (s : State) (d : Word) : Bool := d != 0 && decide (d.toNat < s.now.toNat)

/-- The work of a queue is late: it stops at its next tile-pass boundary. -/
def State.queueLate (s : State) (c : Fin 36) (q : Nat) (d : Word) : State :=
  if s.coreLive c.val ∧ s.past d then s.setQueue c q { s.queue c q with deadline := d } else s

/-- A Foreshore job is late: it stops with E_DEADLINE and its rows (R232). -/
def State.jobLate (s : State) (h : Fin 2) (rows : Nat) : State :=
  match s.fsJob h with
  | none => s
  | some j =>
    if !s.past j.deadline then s
    else if j.waiting then s.fsEnd h j .eDeadline 0
    else (s.fsPartial h j (min rows j.rows)).fsEnd h j .eDeadline (min rows j.rows)

/-- The oldest Cliff command is late (R281). -/
def State.commandLate (s : State) (units : Nat) : State :=
  match s.cliff.runs with
  | [] => s
  | r :: rest => if s.past r.deadline ∧ r.status = .ok then s.cliffEnds r rest .eDeadline units 0 else s

/-- DEADLINE_PASSED (R29): an operation whose deadline has passed stops at its next boundary with E_DEADLINE. -/
def execDeadlinePassed (x : Late) (s : State) : Host.Outcome State Fault Refusal :=
  .next (s.awake fun s => match x with
    | .queue c q d => s.queueLate c q.val d
    | .job h rows => s.jobLate h rows
    | .command units => s.commandLate units
    | .collective ring => s.collDeadline ring.val
    | .message k => if ((s.req k.toNat).map (fun r => s.past r.deadline)).getD false then s.serve else s)

/-- With no command waiting, the tideline moves on by one unit of 250 ps (R21); with standby and main power lost it stands
(R22). -/
def State.idle (s : State) : State := if s.sys.mainLost && !s.standby then s else { s with now := s.now + 1 }

end Sys2Proof.Machine
end

