-- ==== Sys2Proof/Machine/Regs.lean ====
section
/-! DEFINITION. Control space: what a register reads as, what a write of it does, and the agents' accesses to it (R10, R11,
R75, R77, R100, R303, R313, R433, R458 to R473, R490). -/

namespace Sys2Proof.Machine

/-! ### What registers read as -/

/-- Defined EVENT bits of a page type, counted from bit 0 (R466 and the chapters' event lists). -/
def PageType.eventBits : PageType → Nat
  | .header | .directory | .device => 0
  | .tideline => 5 | .power => 6 | .tidewatch => 4 | .security => 5 | .fault => 6 | .selfTest => 5 | .estuary => 5
  | .multicast => 2 | .scheduler => 2 | .rollout => 4 | .pool => 1 | .cliff => 6 | .tideway => 6 | .cxl => 4
  | .harbour => 5 | .foreshore => 6 | .update => 3 | .twPort => 6 | .hbm => 5 | .sequencer => 4 | .array => 6
  | .vector => 2 | .score => 4 | .recurrent => 3

/-- The page lies in Tidewatch, which keeps pages 1 to 4 in every power state (R464). -/
def Pg.always (p : Pg) : Bool := 1 ≤ p.index && p.index ≤ 4

/-- The page is one of a logical core (R464). -/
def Pg.ofCore : Pg → Bool
  | .sequencer _ | .array _ | .vector _ | .score _ | .recurrent _ => true
  | _ => false

/-- A bit at a place. -/
def bitAt (b : Bool) (n : Nat) : Nat := if b then 2 ^ n else 0

/-- CAPS as it reads (R466, R467). -/
def Pg.caps (p : Pg) : Word :=
  BitVec.ofNat 64 (bitAt p.governing.isSome 0 + bitAt (countersOf p.type != []) 1 + bitAt p.always 2 + bitAt p.ofCore 3 +
    p.type.eventBits * 256)

/-- STAT.pending: EVENT AND NOT EVENT_MASK is nonzero (R466). -/
def State.pendingEvent (s : State) (p : Pg) : Bool := (s.rd p .event 0 &&& ~~~ s.rd p .eventMask 0) != 0

/-- STAT as it reads (R466). -/
def State.pageStat (s : State) (p : Pg) : Word :=
  BitVec.ofNat 64 (1 + bitAt (s.pendingEvent p) 1 + bitAt (bit1 (s.liveValue p) 5) 2)

/-- The instances of a type that are present, as a mask (R465). -/
def State.presentMask (s : State) (t : PageType) : Nat :=
  (List.range t.place.2.2.1).foldl (fun n i => n + bitAt ((Pg.of t i).any s.present) i) 0

/-- DIR_ENTRYk as it reads (R465). -/
def dirEntry (k : Nat) : Word :=
  match pageTypes[k]? with
  | some t => BitVec.ofNat 64 (t.place.2.2.2 + t.place.2.2.1 * 2 ^ 8 + t.place.1 * 2 ^ 16 + t.place.2.1 * 2 ^ 32 + 2 ^ 40)
  | none => 0

/-- DIR_PRESENTk as it reads (R465). -/
def State.dirPresent (s : State) (k : Nat) : Word :=
  match pageTypes[k]? with
  | some t => BitVec.ofNat 64 (s.presentMask t)
  | none => 0

/-- The code of DEV_ID (R471). -/
def Code.number : Code → Nat
  | .la768 => 0 | .lb768 => 1 | .la512 => 2

/-- DEV_ID as it reads (R471): the identity stands in the manufacturing record. -/
def State.devId (s : State) : Word :=
  BitVec.ofNat 64 (0x4B07 + s.code.number * 2 ^ 16 + 0xB0 * 2 ^ 24 +
    leNat ((List.range 4).map (fun i => Config.partByte (96 + i))) * 2 ^ 32)

/-- DEV_ALERT_SUMMARY as it reads: bit t, a present page of type t has STAT.pending set (R471). -/
def State.alertSummary (s : State) : Word :=
  BitVec.ofNat 64 (pageTypes.foldl (fun n t => n + bitAt ((List.range t.place.2.2.1).any (fun i =>
    (Pg.of t i).any (fun p => s.present p && s.pendingEvent p))) t.place.2.2.2) 0)

/-- DEV_CORE_MAPc as it reads (R471, R473): the spare of bay b is physical core 7b + 6 as made. -/
def State.coreMap (s : State) (c : Nat) : Word :=
  let p := s.physOf c
  BitVec.ofNat 64 (p + bitAt (s.coreLive c) 6 + bitAt (p == 7 * (c / 6) + 6) 7)

/-- SEQ_STAT as it reads (R101). -/
def State.seqStat (s : State) (c : Nat) : Word :=
  let k := s.core c
  let mask (f : QState → Bool) : Nat := (List.range 8).foldl (fun n q => n + bitAt (f (k.queue q).state) q) 0
  BitVec.ofNat 64 (mask (fun x => x == .running || x == .waiting) + mask (· == .halted) * 2 ^ 8 +
    (k.holder.getD 0) * 2 ^ 16 + bitAt k.holder.isSome 19 + bitAt k.stopping 20)

/-- The code of a queue's state (R101). -/
def QState.number : QState → Nat
  | .idle => 0 | .running => 1 | .waiting => 2 | .halted => 3 | .stopping => 4

/-- Qn_STAT as it reads (R101). -/
def Queue.stat (x : Queue) : Word := BitVec.ofNat 64 (x.state.number + x.lastStatus * 2 ^ 8 + x.seq % 2 ^ 32 * 2 ^ 16)

/-- Qn_WATERMARK as it reads (R101). -/
def Queue.mark (x : Queue) : Word := BitVec.ofNat 64 (x.watermark % 2 ^ 32 + x.failSeq % 2 ^ 32 * 2 ^ 32)

/-- The code of a bank's state (R74). -/
def BankState.number : BankState → Nat
  | .empty => 0 | .loading => 1 | .ready => 2 | .active => 3 | .releasing => 4

/-- The accumulator units of an array that are occupied, as a mask (R74). -/
def Core.unitMask (k : Core) (a : Nat) : Nat :=
  (List.range 48).foldl (fun n u => n + bitAt ((k.occupied a).contains u) u) 0

/-- A product is in flight on an array (R74). -/
def Core.arrayBusy (k : Core) (a : Nat) : Bool :=
  k.queues.any (fun (_, q) => q.flights.any (fun f =>
    !f.done && (f.ins.opcode == opMatmul || f.ins.opcode == opRstep) && bits f.w1 54 54 == a))

/-- One array's half of ARRAY_STAT (R74). -/
def Core.arrayHalf (k : Core) (a : Nat) : Nat :=
  let x := k.arr a
  x.bank0.state.number + x.bank1.state.number * 8 + bitAt x.active 6 + bitAt (k.arrayBusy a) 7 +
    ((List.range 48).filter (k.occupied a).contains).length * 256

/-- ARRAY_STAT as it reads (R74). -/
def Core.arrayStat (k : Core) : Word := BitVec.ofNat 64 (k.arrayHalf 0 + k.arrayHalf 1 * 2 ^ 16)

/-- SCORE_STAT as it reads (R166). -/
def Core.scoreStat (k : Core) : Word :=
  let cols := (List.range 128).filter k.scoreValid.getLsbD
  let busy := k.queues.any (fun (_, q) => q.flights.any (fun f => !f.done && f.touch.score))
  BitVec.ofNat 64 ((cols.getLast?.map (fun n => 64 * (n + 1))).getD 0 +
    bitAt ((List.range 64).any (fun n => (f32 (k.maxOf n)).isNan)) 14 +
    bitAt (k.scoreDone && (List.range 64).any (fun n => k.maxOf n == 0xFF800000)) 15 + bitAt busy 16)

/-- ROLL_STAT as it reads (R215). -/
def State.rollStat (s : State) : Word :=
  BitVec.ofNat 64 ((s.gulk.scenes.filter (·.2.isSome)).length + (s.gulk.streams.filter (·.2.isSome)).length * 2 ^ 8 +
    s.nodeCount * 2 ^ 23)

/-- EST_STAT as it reads (R326). -/
def State.estStat (s : State) : Word :=
  BitVec.ofNat 64 (s.fld .estuary .estStat 0 4 0 + s.fetching.length * 2 ^ 5 +
    (s.est.qps.filter (fun x => (x.2.bind (·.fast)).isSome)).length * 2 ^ 12)

/-- TW_STAT as it reads (R352): time_locked follows the discipline. -/
def State.twStat (s : State) : Word :=
  setBits (s.rd .tideway .twStat 0) 36 36 (if s.timeFollows && s.discState == 2 then 1 else 0)

/-- SWAP_STAT as it reads (R398). -/
def State.swapStat (s : State) : Word := setBits (s.rd .fault .swapStat 0) 12 7 s.spareBits

/-- The member bits of present cores, and the enable bit, of a multicast group (R116). -/
def State.presentCores (s : State) : Word := BitVec.ofNat 64 ((List.range 36).foldl (fun n c => n + bitAt (s.coreLive c) c) (2 ^ 63))

/-- What entry i of a register reads as. A value that other state fixes is computed from it; every other register reads as
stored, its WO bits as zero (R10, R11). -/
def State.value (s : State) (p : Pg) (r : RegName) (i : Nat) : Word :=
  let c := p.inst
  match r with
  | .pageId => BitVec.ofNat 64 (p.type.place.2.2.2 + p.inst * 2 ^ 8 + p.index * 2 ^ 16)
  | .pageCaps => p.caps
  | .pageStat => s.pageStat p
  | .live => s.liveValue p
  | .dirEntry => dirEntry i
  | .dirPresent => s.dirPresent i
  | .devId => s.devId
  | .devSerial0 => BitVec.ofNat 64 (leNat (serial.take 8))
  | .devSerial1 => BitVec.ofNat 64 (leNat (serial.drop 8))
  | .tidelineNow => s.now
  | .devAlertSummary => s.alertSummary
  | .devCoreMap => s.coreMap i
  | .hbFrozenTime => s.frozenTime (Fin.ofNat 2 c)
  | .supRuleLo => if i < 16 then (s.ruleRow i).lo else s.rd p r i
  | .supRuleHi => if i < 16 then (s.ruleRow i).hi else s.rd p r i
  | .swapStat => s.swapStat
  | .mcastGroup => s.rd p r i &&& s.presentCores
  | .estStat => s.estStat
  | .estPortMac => BitVec.ofNat 64 (macOf i)
  | .rollStat => s.rollStat
  | .poolUsed => s.poolUsedReg i
  | .twStat => s.twStat
  | .seqStat => s.seqStat c
  | .qStat => (s.queue c i).stat
  | .qSeed => (s.srOf (Fin.ofNat 36 c) i).1
  | .qStep => (s.srOf (Fin.ofNat 36 c) i).2
  | .qWatermark => (s.queue c i).mark
  | .arrayStat => (s.core c).arrayStat
  | .accMap => BitVec.ofNat 64 ((s.core c).unitMask i)
  | .scoreStat => (s.core c).scoreStat
  | .scoreValid0 => (s.core c).scoreValid.setWidth 64
  | .scoreValid1 => ((s.core c).scoreValid >>> 64).setWidth 64
  | r => s.rd p r i &&& ~~~ r.mask .wo

/-- A page answers: its unit is present, and standby has not gone from a page in Tidewatch (R408, R458). -/
def State.answersAt (s : State) (p : Pg) : Bool := s.present p && (s.standby || !p.always)

/-- A read of one register of control space (R458, R460): reserved pages, absent units and unmapped offsets read zero; the
MRAM window reads on (R418); while standby is lost TIDELINE_NOW alone of pages 1 to 4 answers (R408). -/
def State.readReg (s : State) (page off : Nat) : Word × State :=
  match Pg.ofIndex page with
  | none => (0, s)
  | some p =>
    match findReg p.type off with
    | none => (0, s)
    | some (r, i, _) =>
      if r = .tidelineNow then (s.now, s)
      else if !s.answersAt p then (0, s)
      else if r = .supMramData then s.mramNext
      else (s.value p r i, s)

/-! ### What writes do -/

/-- A write of a register whose fields have their plain access codes; in the control register of a page's counters,
counter_clear clears them first (R10, R11, R75). -/
def State.plainWrite (s : State) (p : Pg) (r : RegName) (i : Nat) (v : Word) : State :=
  let s := match p.type.counterCtl with
    | some (ctl, clr, _) => if ctl = r && bit1 v clr then s.clearCounters p else s
    | none => s
  s.wrRw p r i v

/-- A write of EVENT (R11, R468). -/
def State.eventWrite (s : State) (p : Pg) (v : Word) : State := s.wr p .event 0 (s.rd p .event 0 &&& ~~~ v)

/-- A write of CTRL (R466). -/
def State.pageCtrlWrite (s : State) (p : Pg) (v : Word) : State :=
  let s := if bit1 v 1 then s.wr p .eventCount 0 0 else s
  s.wrRw p .pageCtrl 0 v

/-- A register of a queue accepts writes only while the queue is IDLE or HALTED (R77). -/
def State.queueWrite (s : State) (c : Fin 36) (r : RegName) (i q : Nat) (v : Word) : State :=
  let st := (s.queue c q).state
  if st = .idle ∨ st = .halted then s.wrRw (.sequencer c) r i v else s.ignore (.sequencer c)

/-- A write of a sequencer page (R77, R79, R99 to R101). -/
def State.seqWrite (s : State) (c : Fin 36) (r : RegName) (i : Nat) (v : Word) : State :=
  match r with
  | .qCfg | .qPc | .qSrbase => s.queueWrite c r i i v
  | .qSeed | .qStep => if bit1 (s.rd (.sequencer c) .qCfg i) 4 then s.ignore (.sequencer c) else s.queueWrite c r i i v
  | .sc => s.queueWrite c r i (i / 16) v
  | .slot => s.queueWrite c r i (i / 32) v
  | .qDoorbell => s.doorbell c (Fin.ofNat 8 i) v
  | _ => s.plainWrite (.sequencer c) r i v

/-- A write of a vector page (R143). -/
def State.vecWrite (s : State) (c : Fin 36) (r : RegName) (i : Nat) (v : Word) : State :=
  match r with
  | .statRegion => s.writeLater c (.vector c) .statRegion 0 v
  | .arrive => s.arriveWrite c (Fin.ofNat 4 i) v
  | _ => s.plainWrite (.vector c) r i v

/-- A write of a recurrent page (R189). -/
def State.recurWrite (s : State) (c : Fin 36) (r : RegName) (i : Nat) (v : Word) : State :=
  match r with
  | .recurCtrl => s.recurCtrlWrite c 0 v
  | .driftThreshold => s.recurCtrlWrite c 1 v
  | .driftLog => s.recurCtrlWrite c 2 v
  | _ => s.plainWrite (.recurrent c) r i v

/-- A write of the Tideline page (R27, R34). -/
def State.tideWrite (s : State) (r : RegName) (i : Nat) (v : Word) : State :=
  match r with
  | .discCtrl => s.discCtrlWrite v
  | .tickinPeriod => s.tickinPeriodWrite v
  | .tickCfg => s.tickCfgWrite v
  | .wakeAlarm =>
    -- a time already passed when it is written during Dry wakes at once
    let s := s.wrRw .tideline .wakeAlarm 0 v
    if s.alarmDue then s.wakes 3 else s
  | _ => s.plainWrite .tideline r i v

/-- A write of PWR_CTRL (R402, R409, R416): one of clear_stop that does not come over MCTP is ignored whole (R460, R490), and one
that does clears the latch only where it is `safe` to. -/
def State.pwrCtrlWrite (s : State) (v : Word) (mctp safe : Bool) : State :=
  if bit1 v 2 && !mctp then s.ignore .power
  else
    let s := s.plainWrite .power .pwrCtrl 0 v
    let s := s.neapForce (bit1 v 1)
    let s := if bit1 v 2 then s.clearStop safe else s
    if bit1 v 0 && !s.sys.dry then s.entersDry else s

/-- A write of the power page (R416). -/
def State.powerWrite (s : State) (r : RegName) (i : Nat) (v : Word) (mctp safe : Bool) : State :=
  match r with
  | .pwrCtrl => s.pwrCtrlWrite v mctp safe
  | .bwCfg => if 1 ≤ bits v 4 0 && bits v 4 0 ≤ 16 then s.plainWrite .power r i v else s.ignore .power
  | _ => s.plainWrite .power r i v

/-- A write of the fault page (R380, R385, R388, R391, R395, R398). -/
def State.faultWrite (s : State) (r : RegName) (i : Nat) (v : Word) (owner : Nat) : State :=
  match r with
  | .errRingBase => s.errRingBaseWrite v
  | .semReset => s.semReset (bit1 v 16) (bits v 22 17) (bits v 15 0)
  | .swapCtrl => s.swapCtrlWrite v owner
  | .pcRetire => s.pcRetireWrite v
  | .fwCtrl => s.fwCtrlWrite v
  | _ => s.plainWrite .fault r i v

/-- A write of the scheduler page (R295, R303): the settings of a core stand while one of its queues runs. -/
def State.schedWrite (s : State) (r : RegName) (i : Nat) (v : Word) : State :=
  let still (c : Nat) : Bool := (s.queueStates c).all (fun x => x == .idle || x == .halted)
  let count (n : Nat) : Bool := n ≤ 48 || n == 63
  match r with
  | .schedSave =>
    if still i && 2 ≤ bits v 52 48 && bits v 52 48 ≤ 18 then s.plainWrite .scheduler r i v else s.ignore .scheduler
  | .schedResv =>
    if still (i / 8) && count (bits v 11 6) && count (bits v 23 18) &&
        bits v 39 32 + 24 ≤ 16 * s.fld .scheduler .schedSave (i / 8) 52 48 then
      s.plainWrite .scheduler r i v
    else s.ignore .scheduler
  | _ => s.plainWrite .scheduler r i v

/-- A write of the self-test page (R446, R449, R452, R456). -/
def State.testWrite (s : State) (r : RegName) (i : Nat) (v : Word) : State :=
  match r with
  | .stCtrl => s.stCtrlWrite v
  | .stCfg => s.stCfgWrite v
  | .stMarginCtrl => s.marginCtrlWrite v
  | _ => s.plainWrite .selfTest r i v

/-- A write of the Tidewatch page (R411, R413, R415, R418). -/
def State.supWrite (s : State) (r : RegName) (i : Nat) (v : Word) : State :=
  match r with
  | .supRuleLo | .supRuleHi => s.supRuleWrite r i v
  | .supFilter => s.supFilterWrite i v
  | _ => s.plainWrite .tidewatch r i v

/-- A write of a multicast group: bits of absent cores ignore it (R116). -/
def State.mcastWrite (s : State) (r : RegName) (i : Nat) (v : Word) : State :=
  match r with
  | .mcastGroup => s.plainWrite .multicast r i (v &&& s.presentCores)
  | _ => s.plainWrite .multicast r i v

/-- A write of the Tideway page (R331, R341, R351, R352). -/
def State.tidewayWrite (s : State) (r : RegName) (i : Nat) (v : Word) : State :=
  match r with
  | .twCtrl => s.twCtrlWrite v
  | .twRing => s.twRingWrite i v
  | .twRingPtr => s.twRingTailWrite i v
  | .twGroup => s.twGroupWrite i v
  | _ => s.plainWrite .tideway r i v

/-- A write of a Tideway port page (R354): a port taken out of service goes down with its frames undelivered. -/
def State.twPortWrite (s : State) (p : Fin 16) (r : RegName) (i : Nat) (v : Word) : State :=
  let s := s.plainWrite (.twPort p) r i v
  if r = .twpCtrl && !bit1 v 0 && s.twUp p.val then
    s.twDark p.val
  else s

/-- A write of the Cliff page (R233, R288). -/
def State.cliffWrite (s : State) (r : RegName) (i : Nat) (v : Word) : State :=
  match r with
  | .cliffRingBase => s.ringCfgWrite .cliff .cliffRingHead .cliffRingTail r false v
  | .cliffRingCfg => s.ringCfgWrite .cliff .cliffRingHead .cliffRingTail r true v
  | .cliffRingTail => s.tailWrite .cliff .cliffRingHead .cliffRingTail (s.fld .cliff .cliffRingCfg 0 3 0) 4 v
  | _ => s.plainWrite .cliff r i v

/-- A write of a Foreshore page (R233, R234). -/
def State.foreWrite (s : State) (h : Fin 2) (r : RegName) (i : Nat) (v : Word) : State :=
  let p : Pg := .foreshore h
  match r with
  | .fsCtrl => s.fsCtrlWrite h v
  | .fsRingBase => s.ringCfgWrite p .fsRingHead .fsRingTail r false v
  | .fsRingCfg => s.ringCfgWrite p .fsRingHead .fsRingTail r true v
  | .fsRingTail => s.tailWrite p .fsRingHead .fsRingTail (s.fld p .fsRingCfg 0 3 0) 1 v
  | _ => s.plainWrite p r i v

/-- A write of a Harbour page (R245, R261). -/
def State.harbourWrite (s : State) (h : Fin 2) (r : RegName) (i : Nat) (v : Word) : State :=
  match r with
  | .hbCtrl =>
    let s := if s.fld (.harbour h) .hbStat 0 21 19 = 0 then s else s.frozenNow h
    let s := s.plainWrite (.harbour h) r i v
    if bit1 v 11 then s.hbFlush h else s
  | .hbRegionBase => s.hbRegionWrite h (Fin.ofNat 16 i) false v
  | .hbRegionSize => s.hbRegionWrite h (Fin.ofNat 16 i) true v
  | _ => s.plainWrite (.harbour h) r i v

/-- A write of a CXL page (R271, R272, R286). -/
def State.cxlWrite (s : State) (p : Fin 2) (r : RegName) (i : Nat) (v : Word) : State :=
  match r with
  | .cxlCtrl => s.cxlCtrlWrite p v
  | .cxlDec => s.cxlDecWrite p i v
  | _ => s.plainWrite (.cxl p) r i v

/-- A write of the Estuary page (R326). -/
def State.estWrite (s : State) (r : RegName) (i : Nat) (v : Word) : State :=
  match r with
  | .estPortCfg | .estPortIpv4 | .estPortIpv6Hi | .estPortIpv6Lo => s.estPortWrite r (Fin.ofNat 4 i) v
  | _ => s.plainWrite .estuary r i v

/-- A write of SEC_MCTP_CFG: only over MCTP; the speed codes are 0 to 2 (R439, R460). -/
def State.securityWrite (s : State) (r : RegName) (i : Nat) (v : Word) (mctp : Bool) : State :=
  match r with
  | .secMctpCfg => if mctp && bits v 8 7 != 3 then s.plainWrite .security r i v else s.ignore .security
  | _ => s.plainWrite .security r i v

/-- A write of a block register (R460, R490). `owner` is the agent: 0 host, 1 Gulkutik, 2 Tidewatch. -/
def State.blockWrite (s : State) (p : Pg) (r : RegName) (i : Nat) (v : Word) (owner : Nat) (mctp safe : Bool) : State :=
  match p with
  | .sequencer c => s.seqWrite c r i v
  | .vector c => s.vecWrite c r i v
  | .score c => if r = .scoreCtrl then s.scoreCtrlWrite c v else s.plainWrite p r i v
  | .recurrent c => s.recurWrite c r i v
  | .tideline => s.tideWrite r i v
  | .power => s.powerWrite r i v mctp safe
  | .tidewatch => s.supWrite r i v
  | .security => s.securityWrite r i v mctp
  | .fault => s.faultWrite r i v owner
  | .selfTest => s.testWrite r i v
  | .estuary => s.estWrite r i v
  | .multicast => s.mcastWrite r i v
  | .scheduler => s.schedWrite r i v
  | .rollout => if r = .rollNodeLimit then s.rollNodeLimitWrite v else s.plainWrite p r i v
  | .pool => if r = .poolFloor then s.poolFloorWrite (Fin.ofNat 3 i) v else s.plainWrite p r i v
  | .cliff => s.cliffWrite r i v
  | .tideway => s.tidewayWrite r i v
  | .cxl q => s.cxlWrite q r i v
  | .harbour h => s.harbourWrite h r i v
  | .foreshore h => s.foreWrite h r i v
  | .twPort q => s.twPortWrite q r i v
  | .hbm k => if r = .hbmRegClass then s.hbmRegClassWrite k (Fin.ofNat 4 i) v else s.plainWrite p r i v
  | .directory | .device | .update _ | .array _ => s.plainWrite p r i v

/-- A write of one register of control space (R458, R460). -/
def State.writeReg (s : State) (page off : Nat) (v : Word) (owner : Nat) (mctp safe : Bool) : State :=
  match Pg.ofIndex page with
  | none => s
  | some p =>
    match findReg p.type off with
    | none => s
    | some (r, i, _) =>
      if !s.answersAt p then s
      else match r with
        | .pageCtrl => s.pageCtrlWrite p v
        | .event => s.eventWrite p v
        | .live => s.liveReq p (bits v 1 0) owner
        | .pageId | .pageVer | .pageCaps | .pageStat | .eventMask | .eventCount | .errHead | .lastEventTime => s.wrRw p r 0 v
        | r => s.blockWrite p r i v owner mctp safe

/-! ### The rows -/

/-- The pages an agent on the device reaches: every page, but in Dry and after a boot that failed those of Tidewatch alone,
which is the only agent that runs then (R401, R431, R459). -/
def State.agentReaches (s : State) (page owner : Nat) : Bool :=
  !(s.sys.dry || s.sys.failed) || (owner == 2 && 1 ≤ page && page ≤ 4)

/-- A device address lies in control space, and is 8-byte aligned: its page and offset (R458, R460). -/
def pageOf (a : Nat) : Option (Nat × Nat) :=
  if 0x3F0000000000 ≤ a ∧ a < 0x3F0004000000 ∧ a % 8 = 0 then some ((a - 0x3F0000000000) / 4096, a % 4096) else none

/-- A write into semaphore memory by Gulkutik or Tidewatch: a reset of that semaphore, with the written count (R461). -/
def State.semWrite (s : State) (a owner : Nat) (v : Word) : State :=
  if owner = 0 ∨ a % 8 ≠ 0 ∨ a < 0x310000000000 ∨ 0x310000080000 ≤ a then s
  else s.awake fun s => s.setSem true 0 ((a - 0x310000000000) / 8) (BitVec.ofNat 64 (bits v 47 0))

/-- REGISTER_WRITE (R460): a write of one whole register by the host (0), Gulkutik (1) or Tidewatch (2). -/
def execRegisterWrite (owner : Fin 3) (addr : BitVec 48) (v : Word) (s : State) : Host.Outcome State Fault Refusal :=
  .next (match pageOf addr.toNat with
    | some (page, off) => if s.agentReaches page owner.val then s.writeReg page off v owner.val false false else s
    | none => s.semWrite addr.toNat owner.val v)

/-- A page of a row's operand, while its agents reach it. -/
def State.onPage (s : State) (page : BitVec 14) (f : Pg → State) : State :=
  match Pg.ofIndex page.toNat with
  | some p => if s.answersAt p && s.agentReaches page.toNat 2 then f p else s
  | none => s

/-- A write of 1 to the counter_clear of a page, its other fields as they are. On the score-store and the recurrent page it waits for
the instruction in flight as every write there does (R166, R189). A page without one has no counter to clear so. -/
def State.clearWrite (s : State) (p : Pg) : State :=
  match p, p.type.counterCtl with
  | .score c, some (r, clr, _) | .recurrent c, some (r, clr, _) => s.writeLater c p r 0 (s.rd p r 0 ||| BitVec.ofNat 64 (2 ^ clr))
  | .harbour h, some _ => (if s.fld p .hbStat 0 21 19 = 0 then s else s.frozenNow h).clearCounters p
  | _, some _ => s.clearCounters p
  | _, none => s

/-- COUNTER_CLEAR (R75): a write of 1 to counter_clear. -/
def execCounterClear (page : BitVec 14) (s : State) : Host.Outcome State Fault Refusal :=
  .next (s.onPage page fun p => s.clearWrite p)

/-- EVENT_CLEAR (R468, R469): a write of EVENT; a bit that hardware sets in the same cycle is one set after it. -/
def execEventClear (page : BitVec 14) (bits : BitVec 32) (s : State) : Host.Outcome State Fault Refusal :=
  .next (s.onPage page fun p => s.eventWrite p (bits.setWidth 64))

/-- EVENT_COUNT_CLEAR (R469): a write of 1 to CTRL.event_count_clear. -/
def execEventCountClear (page : BitVec 14) (s : State) : Host.Outcome State Fault Refusal :=
  .next (s.onPage page fun p => s.wr p .eventCount 0 0)

/-! ### The management window (R313, R461, R462) -/

/-- The window's registers in ascending order: reads, each applied before the next. -/
def State.windowRead (s : State) (a : Nat) : Nat → List Byte × State
  | 0 => ([], s)
  | n + 1 =>
    let x := match pageOf a with
      | some (page, off) => s.readReg page off
      | none => (s.sem true 0 ((a - 0x310000000000) / 8), s)
    let rest := x.2.windowRead (a + 8) n
    (leBytes x.1.toNat 8 ++ rest.1, rest.2)

/-- The window's registers in ascending order: writes. -/
def State.windowWrite (s : State) (a : Nat) (bs : List Byte) : Nat → State
  | 0 => s
  | n + 1 =>
    let s := match pageOf a with
      | some (page, off) => s.writeReg page off (BitVec.ofNat 64 (leNat (bs.take 8))) 0 false false
      | none => s
    s.windowWrite (a + 8) (bs.drop 8) n

/-- An access the window takes: 8-byte aligned, a multiple of 8 bytes long, within one 4 KiB page, in control space, or a
read in semaphore memory (R313, R461). -/
def windowTakes (a n : Nat) (write : Bool) : Bool :=
  a % 8 == 0 && n % 8 == 0 && n != 0 && a / 4096 == (a + n - 1) / 4096 &&
  ((0x3F0000000000 ≤ a && a < 0x3F0004000000) || (!write && 0x310000000000 ≤ a && a < 0x310000080000))

/-- A management access that is refused (R313). -/
def State.windowRefuses (s : State) (qp : Nat) : State := (s.emit (.nak qp 0)).bump .estuary .estMgmtRejects 0 1

/-- MGMT_WINDOW_ACCESS (R313): an RDMA READ or WRITE on queue pair 1. -/
def execMgmtWindowAccess (addr : BitVec 64) (op : WindowOp) (s : State) : Host.Outcome State Fault Refusal :=
  .next (s.awake fun s => s.heard 1 (match op with | .read _ => 0 | .write data => data.length) (.mgmtWindowAccess addr op) fun s =>
    match s.qp 1 with
    | none => s
    | some q =>
      if q.error ∨ s.est.closed then s
      else match op with
      | .read len =>
        let s := (s.ctxLook 1 1).2
        if !windowTakes addr.toNat len.toNat false then s.windowRefuses 1
        else
          let x := s.windowRead addr.toNat (len.toNat / 8)
          x.2.emit (.readData 1 x.1)
      | .write data =>
        if !windowTakes addr.toNat data.length true then ((s.ctxLook 1 (max 1 (ceilDiv data.length q.mtu))).2).windowRefuses 1
        else (s.received 1 data.length).windowWrite addr.toNat data (data.length / 8))

/-! ### Register access over MCTP (R432, R433) -/

/-- The status of a register access over MCTP: E_ADDR outside control space, E_STATE in Dry outside pages 1 to 4 (R433,
R458). -/
def State.mctpStatus (s : State) (a : Nat) : Status :=
  match pageOf a with
  | none => .eAddr
  | some (page, _) => if s.sys.dry && !(1 ≤ page && page ≤ 4) then .eState else .ok

/-- REG_READ (R433): 8 bytes of control space. MCTP runs on standby power (R432). -/
def execRegRead (addr : BitVec 64) (s : State) : Host.Outcome State Fault Refusal :=
  .next (
    if !s.standby then s
    else match s.mctpStatus addr.toNat, pageOf addr.toNat with
      | .ok, some (page, off) =>
        let x := s.readReg page off
        x.2.emit (.mctp 1 .ok (leBytes x.1.toNat 8))
      | st, _ => s.emit (.mctp 1 st []))

/-- REG_WRITE (R433): a write with management permission, clear_stop included; `safe` says that ESTOP_N is high and every
sensor below 105 degrees (R409). After a boot that failed it answers E_STATE (R431). -/
def execRegWrite (addr : BitVec 64) (v : Word) (safe : Bool) (s : State) : Host.Outcome State Fault Refusal :=
  .next (
    if !s.standby then s
    else match s.mctpStatus addr.toNat, pageOf addr.toNat with
      | .ok, some (page, off) =>
        if s.sys.failed && !s.sys.dry then s.emit (.mctp 2 .eState [])
        else (s.emit (.mctp 2 .ok [])).writeReg page off v 0 true safe
      | st, _ => s.emit (.mctp 2 st []))

end Sys2Proof.Machine
end

