-- ==== Sys2Proof/Machine/Packets.lean ====
section
/-! DEFINITION. Packets that waited for their queue pair's context proceed (R308). -/

namespace Sys2Proof.Machine

/-- What a packet that waited does once its context is there. -/
def packetOf (i : Instr) (s : State) : Host.Outcome State Fault Refusal :=
  match i with
  | .openScene qp m => execOpenScene qp m s
  | .observe qp m => execObserve qp m s
  | .plan qp m => execPlan qp m s
  | .rollout qp m => execRollout qp m s
  | .fork qp m => execFork qp m s
  | .closeStream qp m => execCloseStream qp m s
  | .closeScene qp m => execCloseScene qp m s
  | .loadModel qp m => execLoadModel qp m s
  | .unloadModel qp m => execUnloadModel qp m s
  | .prefetchModel qp m => execPrefetchModel qp m s
  | .openJob qp m => execOpenJob qp m s
  | .trainStep qp m => execTrainStep qp m s
  | .remap qp m => execRemap qp m s
  | .updateOnly qp m => execUpdateOnly qp m s
  | .closeJob qp m => execCloseJob qp m s
  | .objCreate qp m => execObjCreate qp m s
  | .objWrite qp m => execObjWrite qp m s
  | .objRead qp m => execObjRead qp m s
  | .objDelete qp m => execObjDelete qp m s
  | .createQp qp m => execCreateQp qp m s
  | .destroyQp qp m => execDestroyQp qp m s
  | .bindFast qp m => execBindFast qp m s
  | .unbindFast qp m => execUnbindFast qp m s
  | .cancel qp m => execCancel qp m s
  | .spdmMessage m => execSpdmMessage m s
  | .getMeasurements w i nonce => execGetMeasurements w i nonce s
  | .challenge w slot nonce => execChallenge w slot nonce s
  | .getCertificate w slot off len => execGetCertificate w slot off len s
  | .negotiateAlgorithms w h => execNegotiateAlgorithms w h s
  | .mgmtWindowAccess addr op => execMgmtWindowAccess addr op s
  | .cxlHotAdd src t => execCxlHotAdd src t s
  | .cxlHotRemove src => execCxlHotRemove src s
  | .rdmaWriteReceived qp rkey va data ce => execRdmaWriteReceived qp rkey va data ce s
  | .rdmaReadRequest qp rkey va len ce => execRdmaReadRequest qp rkey va len ce s
  | .rnrNakReceived qp => execRnrNakReceived qp s
  | .ackReceived qp psn kind => execAckReceived qp psn kind s
  | .cnpReceived qp => execCnpReceived qp s
  | _ => .next s

/-- A packet that waited proceeds. -/
def State.proceeds (s : State) (i : Instr) : State :=
  match packetOf i s with
  | .next t => t
  | _ => s

/-- CONTEXT_FILL (R308): a context miss in flight completes its fetch, and the packets that waited for it proceed in the order of their
arrival. -/
def execContextFill (qp : BitVec 18) (s : State) : Host.Outcome State Fault Refusal :=
  .next (s.awake fun s =>
    if !s.fetching.contains qp.toNat then s
    else
      let s := s.ctxFill qp.toNat
      let l := s.est.held.filter (fun x => x.1 == qp.toNat)
      let s := { s with est := { s.est with held := s.est.held.filter (fun x => x.1 != qp.toNat) } }
      (l.foldl (fun (s : State) x => s.proceeds x.2) s).fastPump)

end Sys2Proof.Machine
end

