-- ==== Sys2Proof/Machine/Dispatch.lean ====
section
/-! DEFINITION. The one match from a command to its meaning. -/

namespace Sys2Proof.Machine

/-- The effect of a command on everything but the queue. -/
def exec (i : Instr) (s : State) : Host.Outcome State Fault Refusal :=
  match i with
  | .matmul c q => Sys2Proof.Machine.execMatmul c q s
  | .wload c q => Sys2Proof.Machine.execWload c q s
  | .weightLoadDone c a b => Sys2Proof.Machine.execWeightLoadDone c a b s
  | .rstep c q => Sys2Proof.Machine.execRstep c q s
  | .vchain c q => Sys2Proof.Machine.execVchain c q s
  | .move c q => Sys2Proof.Machine.execMove c q s
  | .waitGe c q => Sys2Proof.Machine.execWaitGe c q s
  | .waitGeSatisfied c q => Sys2Proof.Machine.execWaitGeSatisfied c q s
  | .add c q => Sys2Proof.Machine.execAdd c q s
  | .sub c q => Sys2Proof.Machine.execSub c q s
  | .branch c q => Sys2Proof.Machine.execBranch c q s
  | .scalarSet c q => Sys2Proof.Machine.execScalarSet c q s
  | .scalarAdd c q => Sys2Proof.Machine.execScalarAdd c q s
  | .lenImm c q => Sys2Proof.Machine.execLenImm c q s
  | .lenReg c q => Sys2Proof.Machine.execLenReg c q s
  | .scalarLoad c q => Sys2Proof.Machine.execScalarLoad c q s
  | .scalarStore c q => Sys2Proof.Machine.execScalarStore c q s
  | .srBase c q => Sys2Proof.Machine.execSrBase c q s
  | .srStep c q => Sys2Proof.Machine.execSrStep c q s
  | .fence c q => Sys2Proof.Machine.execFence c q s
  | .endOp c q => Sys2Proof.Machine.execEnd c q s
  | .instructionComplete c q seq e wm ecc => Sys2Proof.Machine.execInstructionComplete c q seq e wm ecc s
  | .queueStart c q => Sys2Proof.Machine.execQueueStart c q s
  | .queueResume c q => Sys2Proof.Machine.execQueueResume c q s
  | .queueAbort c q => Sys2Proof.Machine.execQueueAbort c q s
  | .tilePassBoundary c committed => Sys2Proof.Machine.execTilePassBoundary c committed s
  | .deadlinePassed x => Sys2Proof.Machine.execDeadlinePassed x s
  | .arrivalGateOpen c q => Sys2Proof.Machine.execArrivalGateOpen c q s
  | .arriveWrite c n v => Sys2Proof.Machine.execArriveWrite c n v s
  | .statRegionWrite c v => Sys2Proof.Machine.execStatRegionWrite c v s
  | .scoreCtrlWrite c v => Sys2Proof.Machine.execScoreCtrlWrite c v s
  | .recurCtrlWrite c which v => Sys2Proof.Machine.execRecurCtrlWrite c which v s
  | .counterClear page => Sys2Proof.Machine.execCounterClear page s
  | .eventClear page bits => Sys2Proof.Machine.execEventClear page bits s
  | .eventCountClear page => Sys2Proof.Machine.execEventCountClear page s
  | .registerWrite owner addr v => Sys2Proof.Machine.execRegisterWrite owner addr v s
  | .supMramDataRead => Sys2Proof.Machine.execSupMramDataRead s
  | .quiesce page owner => Sys2Proof.Machine.execQuiesce page owner s
  | .drain page owner => Sys2Proof.Machine.execDrain page owner s
  | .resume page owner => Sys2Proof.Machine.execResume page owner s
  | .liveBoundaryReached page => Sys2Proof.Machine.execLiveBoundaryReached page s
  | .tickInEdge jitter => Sys2Proof.Machine.execTickInEdge jitter s
  | .tickStart => Sys2Proof.Machine.execTickStart s
  | .tickWindowClose => Sys2Proof.Machine.execTickWindowClose s
  | .slotStart => Sys2Proof.Machine.execSlotStart s
  | .tickinPeriodWrite v => Sys2Proof.Machine.execTickinPeriodWrite v s
  | .tickCfgWrite v => Sys2Proof.Machine.execTickCfgWrite v s
  | .referenceMeasurement port off => Sys2Proof.Machine.execReferenceMeasurement port off s
  | .referenceLost => Sys2Proof.Machine.execReferenceLost s
  | .tidelineRecord => Sys2Proof.Machine.execTidelineRecord s
  | .ppsOut => Sys2Proof.Machine.execPpsOut s
  | .wakeAlarm => Sys2Proof.Machine.execWakeAlarm s
  | .ptpEventMessage p rx => Sys2Proof.Machine.execPtpEventMessage p rx s
  | .openScene qp m => Sys2Proof.Machine.execOpenScene qp m s
  | .observe qp m => Sys2Proof.Machine.execObserve qp m s
  | .plan qp m => Sys2Proof.Machine.execPlan qp m s
  | .rollout qp m => Sys2Proof.Machine.execRollout qp m s
  | .fork qp m => Sys2Proof.Machine.execFork qp m s
  | .closeStream qp m => Sys2Proof.Machine.execCloseStream qp m s
  | .closeScene qp m => Sys2Proof.Machine.execCloseScene qp m s
  | .stepDispatch ix => Sys2Proof.Machine.execStepDispatch ix s
  | .poolWaitExpire k => Sys2Proof.Machine.execPoolWaitExpire k s
  | .stepCommit ix e badPage => Sys2Proof.Machine.execStepCommit ix e badPage s
  | .recomputeDone g e => Sys2Proof.Machine.execRecomputeDone g e s
  | .loadModel qp m => Sys2Proof.Machine.execLoadModel qp m s
  | .unloadModel qp m => Sys2Proof.Machine.execUnloadModel qp m s
  | .prefetchModel qp m => Sys2Proof.Machine.execPrefetchModel qp m s
  | .modelStaged m v => Sys2Proof.Machine.execModelStaged m v s
  | .openJob qp m => Sys2Proof.Machine.execOpenJob qp m s
  | .trainStep qp m => Sys2Proof.Machine.execTrainStep qp m s
  | .remap qp m => Sys2Proof.Machine.execRemap qp m s
  | .updateOnly qp m => Sys2Proof.Machine.execUpdateOnly qp m s
  | .updateCommit j e => Sys2Proof.Machine.execUpdateCommit j e s
  | .closeJob qp m => Sys2Proof.Machine.execCloseJob qp m s
  | .objCreate qp m => Sys2Proof.Machine.execObjCreate qp m s
  | .objWrite qp m => Sys2Proof.Machine.execObjWrite qp m s
  | .objRead qp m => Sys2Proof.Machine.execObjRead qp m s
  | .objDelete qp m => Sys2Proof.Machine.execObjDelete qp m s
  | .createQp qp m => Sys2Proof.Machine.execCreateQp qp m s
  | .destroyQp qp m => Sys2Proof.Machine.execDestroyQp qp m s
  | .bindFast qp m => Sys2Proof.Machine.execBindFast qp m s
  | .unbindFast qp m => Sys2Proof.Machine.execUnbindFast qp m s
  | .cancel qp m => Sys2Proof.Machine.execCancel qp m s
  | .fastPathRequest qp payload ce => Sys2Proof.Machine.execFastPathRequest qp payload ce s
  | .rdmaWriteReceived qp rkey va data ce => Sys2Proof.Machine.execRdmaWriteReceived qp rkey va data ce s
  | .rdmaReadRequest qp rkey va len ce => Sys2Proof.Machine.execRdmaReadRequest qp rkey va len ce s
  | .rdmaReadResponse k data => Sys2Proof.Machine.execRdmaReadResponse k data s
  | .mgmtWindowAccess addr op => Sys2Proof.Machine.execMgmtWindowAccess addr op s
  | .spdmMessage m => Sys2Proof.Machine.execSpdmMessage m s
  | .ackTimeout qp => Sys2Proof.Machine.execAckTimeout qp s
  | .rnrNakReceived qp => Sys2Proof.Machine.execRnrNakReceived qp s
  | .cnpReceived qp => Sys2Proof.Machine.execCnpReceived qp s
  | .rateIncrease qp => Sys2Proof.Machine.execRateIncrease qp s
  | .neighbourRequest p v6 hi lo => Sys2Proof.Machine.execNeighbourRequest p v6 hi lo s
  | .contextFill qp => Sys2Proof.Machine.execContextFill qp s
  | .ethLinkUp p => Sys2Proof.Machine.execEthLinkUp p s
  | .ethLinkDown p => Sys2Proof.Machine.execEthLinkDown p s
  | .fsRingTailWrite h v => Sys2Proof.Machine.execFsRingTailWrite h v s
  | .fsJobStart h => Sys2Proof.Machine.execFsJobStart h s
  | .fsJobComplete h e wm ecc => Sys2Proof.Machine.execFsJobComplete h e wm ecc s
  | .fsAbort h => Sys2Proof.Machine.execFsAbort h s
  | .hbFlush h => Sys2Proof.Machine.execHbFlush h s
  | .flushDone h => Sys2Proof.Machine.execFlushDone h s
  | .hbRegionWrite h n size v => Sys2Proof.Machine.execHbRegionWrite h n size v s
  | .atomic op a v cmp => Sys2Proof.Machine.execAtomic op a v cmp s
  | .wcFlush k => Sys2Proof.Machine.execWcFlush k s
  | .prefetchFill h c o line => Sys2Proof.Machine.execPrefetchFill h c o line s
  | .regulatorWindow b => Sys2Proof.Machine.execRegulatorWindow b s
  | .hbmRegClassWrite k n v => Sys2Proof.Machine.execHbmRegClassWrite k n v s
  | .scrub a f => Sys2Proof.Machine.execScrub a f s
  | .cxlHotAdd src t => Sys2Proof.Machine.execCxlHotAdd src t s
  | .cxlHotRemove src => Sys2Proof.Machine.execCxlHotRemove src s
  | .cxlLinkDown p => Sys2Proof.Machine.execCxlLinkDown p s
  | .cliffRingTailWrite v => Sys2Proof.Machine.execCliffRingTailWrite v s
  | .create => Sys2Proof.Machine.execCreate s
  | .write => Sys2Proof.Machine.execWrite s
  | .read => Sys2Proof.Machine.execRead s
  | .delete => Sys2Proof.Machine.execDelete s
  | .cliffCommandComplete e wm rebuilt => Sys2Proof.Machine.execCliffCommandComplete e wm rebuilt s
  | .cliffHousekeeping k low mean top spare => Sys2Proof.Machine.execCliffHousekeeping k low mean top spare s
  | .tidewayDataFrame p f crcOk => Sys2Proof.Machine.execTidewayDataFrame p f crcOk s
  | .tidewayControlFrame p k => Sys2Proof.Machine.execTidewayControlFrame p k s
  | .timingExchange p delay off => Sys2Proof.Machine.execTimingExchange p delay off s
  | .remoteSemaphoreFrame p op index amount => Sys2Proof.Machine.execRemoteSemaphoreFrame p op index amount s
  | .replayTimeout p => Sys2Proof.Machine.execReplayTimeout p s
  | .wavelengthFail p w => Sys2Proof.Machine.execWavelengthFail p w s
  | .linkTimeout p => Sys2Proof.Machine.execLinkTimeout p s
  | .tidewayLinkUp p id => Sys2Proof.Machine.execTidewayLinkUp p id s
  | .recalibration p w => Sys2Proof.Machine.execRecalibration p w s
  | .laserDrain m => Sys2Proof.Machine.execLaserDrain m s
  | .laserRestore m => Sys2Proof.Machine.execLaserRestore m s
  | .laserFailure m removed => Sys2Proof.Machine.execLaserFailure m removed s
  | .laserInsert m output temp => Sys2Proof.Machine.execLaserInsert m output temp s
  | .twRingTailWrite ring v => Sys2Proof.Machine.execTwRingTailWrite ring v s
  | .allReduce ring => Sys2Proof.Machine.execAllReduce ring s
  | .reduceScatter ring => Sys2Proof.Machine.execReduceScatter ring s
  | .allGather ring => Sys2Proof.Machine.execAllGather ring s
  | .broadcast ring => Sys2Proof.Machine.execBroadcast ring s
  | .multicast ring => Sys2Proof.Machine.execMulticast ring s
  | .permute ring => Sys2Proof.Machine.execPermute ring s
  | .permuteResolveCommit ring => Sys2Proof.Machine.execPermuteResolveCommit ring s
  | .permuteResolveDiscard ring => Sys2Proof.Machine.execPermuteResolveDiscard ring s
  | .collectiveStart ring => Sys2Proof.Machine.execCollectiveStart ring s
  | .collectiveComplete ring e => Sys2Proof.Machine.execCollectiveComplete ring e s
  | .semReset v => Sys2Proof.Machine.execSemReset v s
  | .spareCoreSwap c owner => Sys2Proof.Machine.execSpareCoreSwap c owner s
  | .swapDone => Sys2Proof.Machine.execSwapDone s
  | .pcRetirement k pc => Sys2Proof.Machine.execPcRetirement k pc s
  | .pcRetired => Sys2Proof.Machine.execPcRetired s
  | .fwActivate n target formatOk => Sys2Proof.Machine.execFwActivate n target formatOk s
  | .fwRevert n target => Sys2Proof.Machine.execFwRevert n target s
  | .fwSwap n => Sys2Proof.Machine.execFwSwap n s
  | .fwHealthTimeout n => Sys2Proof.Machine.execFwHealthTimeout n s
  | .orderlyHalt page => Sys2Proof.Machine.execOrderlyHalt page s
  | .correctedRecordFlush => Sys2Proof.Machine.execCorrectedRecordFlush s
  | .errRingBaseWrite v => Sys2Proof.Machine.execErrRingBaseWrite v s
  | .rollNodeLimitWrite v => Sys2Proof.Machine.execRollNodeLimitWrite v s
  | .enterDry mctp => Sys2Proof.Machine.execEnterDry mctp s
  | .neapForce on => Sys2Proof.Machine.execNeapForce on s
  | .clearStop safe => Sys2Proof.Machine.execClearStop safe s
  | .coreSlackEntry c => Sys2Proof.Machine.execCoreSlackEntry c s
  | .breakwaterRequest k msg => Sys2Proof.Machine.execBreakwaterRequest k msg s
  | .rampEnd => Sys2Proof.Machine.execRampEnd s
  | .ruleFire r samples unit => Sys2Proof.Machine.execRuleFire r samples unit s
  | .ruleRelease r samples unit => Sys2Proof.Machine.execRuleRelease r samples unit s
  | .hardStop cause => Sys2Proof.Machine.execHardStop cause s
  | .wakeN => Sys2Proof.Machine.execWakeN s
  | .standbyLoss main => Sys2Proof.Machine.execStandbyLoss main s
  | .standbyReturn complete => Sys2Proof.Machine.execStandbyReturn complete s
  | .coldBoot f => Sys2Proof.Machine.execColdBoot f s
  | .dryExit f => Sys2Proof.Machine.execDryExit f s
  | .regRead addr => Sys2Proof.Machine.execRegRead addr s
  | .regWrite addr v safe => Sys2Proof.Machine.execRegWrite addr v safe s
  | .setMgmtQp p ip qpn psn => Sys2Proof.Machine.execSetMgmtQp p ip qpn psn s
  | .powerWake => Sys2Proof.Machine.execPowerWake s
  | .emergencyStop => Sys2Proof.Machine.execEmergencyStop s
  | .ownerWrite off piece => Sys2Proof.Machine.execOwnerWrite off piece s
  | .debugToken token => Sys2Proof.Machine.execDebugToken token s
  | .bootStatus => Sys2Proof.Machine.execBootStatus s
  | .pldmFirmwareUpdate n img formatOk => Sys2Proof.Machine.execPldmFirmwareUpdate n img formatOk s
  | .pldmFileRead off len => Sys2Proof.Machine.execPldmFileRead off len s
  | .pldmSensorRead c => Sys2Proof.Machine.execPldmSensorRead c s
  | .getMeasurements window ix nonce => Sys2Proof.Machine.execGetMeasurements window ix nonce s
  | .challenge window slot nonce => Sys2Proof.Machine.execChallenge window slot nonce s
  | .getCertificate window slot off len => Sys2Proof.Machine.execGetCertificate window slot off len s
  | .negotiateAlgorithms window huaris => Sys2Proof.Machine.execNegotiateAlgorithms window huaris s
  | .selfTestSlice p kind => Sys2Proof.Machine.execSelfTestSlice p kind s
  | .sliceComplete p pass => Sys2Proof.Machine.execSliceComplete p pass s
  | .sliceAbort p => Sys2Proof.Machine.execSliceAbort p s
  | .fullTest => Sys2Proof.Machine.execFullTest s
  | .stFullDone bad => Sys2Proof.Machine.execStFullDone bad s
  | .marginSweep x => Sys2Proof.Machine.execMarginSweep x s
  | .loopback x => Sys2Proof.Machine.execLoopback x s
  | .referenceCheck bad => Sys2Proof.Machine.execReferenceCheck bad s
  | .fwHealthDeclared n => Sys2Proof.Machine.execFwHealthDeclared n s
  | .ackReceived qp psn kind => Sys2Proof.Machine.execAckReceived qp psn kind s
  | .pfcPauseReceived p prio on => Sys2Proof.Machine.execPfcPauseReceived p prio on s
  | .frameDropped p => Sys2Proof.Machine.execFrameDropped p s
  | .tempHigh k t => Sys2Proof.Machine.execTempHigh k t s
  | .laserDrained m => Sys2Proof.Machine.execLaserDrained m s

end Sys2Proof.Machine
end

