-- ==== Sys2Proof/Safety.lean ====
section
/-! DEFINITION. What counts as a safe state and a safe run: the canonical forms that make equal memories and equal tables
equal data, and the ranges that the spec gives the counts of the machine. -/

namespace Sys2Proof.Machine

/-- The canonical form of memory: addresses strictly rising, and no entry equal to the zero that an unlisted address reads
as (notes/assumptions/5.md). -/
def Memory.wf (m : FMap Byte) : Bool := FMap.wf (fun _ => (0 : Byte)) m

/-- The canonical form of the register table: no entry equal to its reset value (R11). -/
def Registers.wf (m : FMap Word) : Bool := FMap.wf regReset m

/-- The canonical form of semaphore memory. -/
def Semaphores.wf (m : FMap Word) : Bool := FMap.wf (fun _ => (0 : Word)) m

/-- The memory of a state is canonical. -/
def State.memOk (s : State) : Bool := Memory.wf s.mem

/-- The tables of a state are canonical. -/
def State.tablesOk (s : State) : Bool := Memory.wf s.mem && Registers.wf s.regs && Semaphores.wf s.sems

/-- MRAM and the error buffers hold no more than they can (R380, R381, R414). -/
def Records.ok (e : Records) : Bool :=
  decide (e.buffered.length ≤ 256) && decide (e.summaries.length ≤ 32768) && decide (e.kept.length ≤ 4096)

/-! ### The terms of the statements: what two states have in common -/

/-- The main rails are up and the last boot succeeded, so the blocks act (R401, R431). -/
def State.up (s : State) : Prop := s.sys.dry = false ∧ s.sys.failed = false

/-- The register with a key: what its page shows, but for the fields a page derives. -/
def State.reg (s : State) (k : Nat) : Word := FMap.get (regReset k) s.regs k

/-- Every register but those with the given keys is the same. -/
def State.regsBut (s t : State) (ks : List Nat) : Prop := ∀ k, k ∉ ks → t.reg k = s.reg k

/-- Every byte of memory outside the given ranges, first address and size, is the same. -/
def State.bytesBut (s t : State) (rs : List (Nat × Nat)) : Prop :=
  ∀ a, (∀ r ∈ rs, ¬(r.1 ≤ a ∧ a < r.1 + r.2)) → t.byte a = s.byte a

/-- Every logical core but one is the same. -/
def State.coresBut (s t : State) (c : Nat) : Prop := ∀ d, d ≠ c → t.core d = s.core d

/-- Memory and its uncorrectable words are the same. -/
def State.memSame (s t : State) : Prop := t.mem = s.mem ∧ t.bad = s.bad

/-- A register of the pages that count what goes on behind an access: Harbour's, the stacks' and the CXL ports' (R251, R263, R264,
R286). -/
def memoryKey (k : Nat) : Bool :=
  match Pg.ofIndex (k / 4096) with
  | some p => p.type == .harbour || p.type == .hbm || p.type == .cxl
  | none => false

/-- The state t has what Harbour and the stacks keep beside the bytes of memory as s has it: lines, dirty sectors, prefetchers,
write-combining buffers and buckets. -/
def State.cacheOf (t s : State) : State :=
  { t with harbour := s.harbour, pfLines := s.pfLines, pf := s.pf, dirty := s.dirty, wc := s.wc, regulators := s.regulators }

/-- What Harbour and the stacks keep beside the bytes of memory is the same. -/
def State.cacheSame (s t : State) : Prop := t.cacheOf s = t

/-- From s to t an access has gone through Harbour: beside the bytes of memory, what has left the device and the error records only what
Harbour and the stacks keep, their pages' registers and the count of free values drawn may differ. -/
def State.accessed (s t : State) : Prop :=
  (∀ k, memoryKey k = false → t.reg k = s.reg k) ∧
  t = { s.cacheOf t with regs := t.regs, mem := t.mem, bad := t.bad, freeIx := t.freeIx, out := t.out, errs := t.errs }

/-- Every register but those with the given keys and those of the pages that count what goes on behind an access is the same. -/
def State.regsBehind (s t : State) (ks : List Nat) : Prop := ∀ k, k ∉ ks → memoryKey k = false → t.reg k = s.reg k

/-- The registers of the CXL pages but those with the given keys are the same. -/
def State.cxlBut (s t : State) (ks : List Nat) : Prop :=
  ∀ (p : Fin 2) (r : RegName) (i : Nat), regKey (.cxl p) r i ∉ ks → t.rd (.cxl p) r i = s.rd (.cxl p) r i

/-- Every semaphore is the same. -/
def State.semsSame (s t : State) : Prop := ∀ scope c i, t.sem scope c i = s.sem scope c i

/-- A counter after n more events: it saturates, and holds while its page does not count (R75). -/
def State.counted (s : State) (p : Pg) (r : RegName) (i n : Nat) : Word :=
  if s.counting p then satAdd (s.rd p r i) n else s.rd p r i

/-- The keys of the registers that an event of a page writes (R468). -/
def eventKeys (p : Pg) : List Nat := [regKey p .event 0, regKey p .eventCount 0, regKey p .lastEventTime 0]

/-- The keys of the counters that an access to an address can move: those of its half, of the stacks of its bay and of its CXL
port (R253). -/
def trafficKeys (a : Nat) : List Nat :=
  [RegName.hbHits, .hbMisses, .hbWritebacks, .hbMshrFullCycles].map (regKey (.harbour (halfOf a)) · 0) ++
  [stackOf a, stackOf (a + 512)].flatMap (fun k => [RegName.hbmRdBytes, .hbmWrBytes, .hbmTurnarounds, .hbmActivates,
    .hbmRefreshStallCycles, .hbmRegWaitCycles, .hbmQueueFullCycles].map (regKey (.hbm k) · 0)) ++
  (cxlPort a).toList.flatMap (fun p => [RegName.cxlRdBytes, .cxlWrBytes, .cxlLinkRetries].map (regKey (.cxl p) · 0))

/-- An event has been raised: its bit is set, the count is one more, and the time is now (R468). -/
def State.raised (s t : State) (p : Pg) (b : Nat) : Prop :=
  t.rd p .event 0 = s.rd p .event 0 ||| BitVec.ofNat 64 (2 ^ b) ∧
  t.rd p .eventCount 0 = satAdd (s.rd p .eventCount 0) 1 ∧ t.rd p .lastEventTime 0 = s.now

/-- Error records wait in their buffer, which has room: no ring has been given (R380). -/
def State.buffers (s : State) : Prop := s.ringBase = 0 ∧ s.errs.buffered.length < 256

/-- From s to t an error record of class Contained of a page has been written into the buffer: it has the status, the time and the
next number, which the page's ERR_HEAD shows (R379, R380). -/
def State.logged (s t : State) (p : Pg) (st : Status) : Prop :=
  ∃ r, t.errs.buffered = s.errs.buffered ++ [r] ∧ r.page = p.index ∧ r.cls = 1 ∧ r.code = st.code ∧ r.time = s.now ∧
    r.seq = (s.rd .fault .errRingHead 0).toNat ∧ t.rd .fault .errRingHead 0 = s.rd .fault .errRingHead 0 + 1 ∧
    t.rd p .errHead 0 = setBits (s.rd .fault .errRingHead 0) 63 63 1

/-- The keys of the registers that an error record of a page writes. -/
def logKeys (p : Pg) : List Nat := [regKey .fault .errRingHead 0, regKey p .errHead 0]

/-! ### Tile instructions -/

/-- Queue q of core c issues instruction i now: the blocks are up, the queue may issue and its fetch is served, i stands at its program counter, SKIP
does not discard it, and its post ADD names a semaphore that exists (R78, R79, R80, R98). -/
structure State.issues (s : State) (c : Fin 36) (q : Fin 8) (i : Ins) : Prop where
  up : s.up
  may : s.canIssue c q = true
  served : s.fetchServed c q = true
  fetch : s.fetch c q = (.ok, i)
  kept : (s.queue c q).discarding = false
  post : i.postEn = true → semExists i.postScope i.postIndex = true

/-- Nothing else is about to happen: nothing is in flight in the queue, no register write waits in the core, no other queue of
the core is ready or waits for a DMA tag, no queue waits on a faulted semaphore, and no fast-path request is open. -/
structure State.calm (s : State) (c : Fin 36) (q : Fin 8) : Prop where
  flights : (s.queue c q).flights = []
  waiting : (s.core c).waiting = []
  ready : ∀ r < 8, r ≠ q.val → (s.queue c r).state ≠ .running
  tags : ∀ r, (s.queue c r).state = .waiting → (s.queue c r).inWaitGe = true
  faulted : s.faultedWaiter = none
  fast : s.est.fast = []

/-- The semaphore operations of an instruction in flight as it completes: its own ADD or SUB, then its post ADD (R86, R89). -/
def State.performAdds (s : State) (c : Fin 36) (f : Flight) : Status × State :=
  let p := s.performOwn c f
  if p.1 = .ok then p.2.performPost c f else p

/-- The semaphore operations an instruction performs as it completes: its own ADD or SUB and its post ADD (R86, R89). -/
def State.adds (s : State) (c : Fin 36) (i : Ins) : Status × State := s.performAdds c (started i {} true)

/-- The completion record of a tile instruction that completes with OK at its issue (R80, R320). -/
def State.tileDone (s : State) (c : Fin 36) (q : Fin 8) (i : Ins) : Completion :=
  { id := tileId c q (s.queue c q).seq, status := 0, opcode := i.opcode,
    flags := if (s.queue c q).deadline ≠ 0 then 2 else 0, watermark := 0, doneTime := s.now, service := units64 0,
    extra := units64 0 }

/-- From s to t, queue q of core c has issued instruction i and completed it with OK, and goes on at `next`: the queue has one
sequence number more and nothing in flight, IDLE after END; the program counter and ISSUE_COUNT have moved on; the
instruction's ADDs have acted and its completion record is written when it asks for one. Beside these only the registers with
the given keys and memory with its uncorrectable words may differ, and, where the queue fetches from a device address, what that read
moves in Harbour and behind it (R79, R80, R86, R89). -/
structure State.completes (s t : State) (c : Fin 36) (q : Fin 8) (i : Ins) (next : Nat) (ks : List Nat) : Prop where
  queue : t.queue c q = { s.queue c q with
    seq := ((s.queue c q).seq + 1) % 2 ^ 32, state := if i.opcode = opEnd then .idle else .running }
  queues : ∀ d r, ¬(d = c.val ∧ r = q.val) → t.queue d r = s.queue d r
  pc : t.rd (.sequencer c) .qPc q = setBits (s.rd (.sequencer c) .qPc q) 47 5 (next / 32)
  issued : t.rd (.sequencer c) .issueCount 0 = s.counted (.sequencer c) .issueCount 0 1
  regs : ∀ k, k ∉ regKey (.sequencer c) .qPc q :: regKey (.sequencer c) .issueCount 0 :: ks →
    (s.qDevice c q = true → memoryKey k = false) → t.reg k = s.reg k
  cache : s.qDevice c q = false → s.cacheSame t ∧ t.freeIx = s.freeIx
  sems : ∀ scope d j, t.sem scope d j = (s.adds c i).2.sem scope d j
  trace : t.trace = (s.adds c i).2.trace
  records : t.records = s.records ++ if i.record then [s.tileDone c q i] else []
  holder : (t.core c).holder = if i.opcode = opEnd then none else some q.val
  cores : ∀ d, ∃ h p, t.core d = { s.core d with queues := (t.core d).queues, sems := (t.core d).sems, holder := h, prevHolder := p }
  rest : t = { s.cacheOf t with regs := t.regs, cores := t.cores, sems := t.sems, trace := t.trace, records := t.records,
                                mem := t.mem, bad := t.bad, freeIx := t.freeIx }

/-- From s to t, queue q of core c has issued an instruction that is now in flight as `f`, with the queue's sequence number and
the time: the program counter and ISSUE_COUNT have moved on, every other queue and every semaphore is as it was, and beside these
only the registers with the given keys, memory with its uncorrectable words, the other state of core c and the count of free values
drawn may differ, and, where the queue fetches from a device address, what that read moves in Harbour and behind it (R79, R89). -/
structure State.enters (s t : State) (c : Fin 36) (q : Fin 8) (f : Flight) (ks : List Nat) : Prop where
  queue : t.queue c q = { s.queue c q with
    flights := (s.queue c q).flights ++ [{ f with seq := (s.queue c q).seq, issued := s.now }],
    seq := ((s.queue c q).seq + 1) % 2 ^ 32 }
  queues : ∀ d r, ¬(d = c.val ∧ r = q.val) → t.queue d r = s.queue d r
  pc : t.rd (.sequencer c) .qPc q = setBits (s.rd (.sequencer c) .qPc q) 47 5 ((f.pc + 32) / 32)
  issued : t.rd (.sequencer c) .issueCount 0 = s.counted (.sequencer c) .issueCount 0 1
  regs : ∀ k, k ∉ regKey (.sequencer c) .qPc q :: regKey (.sequencer c) .issueCount 0 :: ks →
    (s.qDevice c q = true → memoryKey k = false) → t.reg k = s.reg k
  cache : s.qDevice c q = false → s.cacheSame t
  sems : s.semsSame t
  cores : s.coresBut t c
  rest : t = { s.cacheOf t with regs := t.regs, cores := t.cores, mem := t.mem, bad := t.bad, freeIx := t.freeIx }

/-- The completion record of an instruction in flight that completes with OK (R80, R320). -/
def State.flightDone (s : State) (c : Fin 36) (q : Fin 8) (f : Flight) : Completion :=
  { id := tileId c q f.seq, status := 0, opcode := f.ins.opcode, flags := if (s.queue c q).deadline ≠ 0 then 2 else 0,
    watermark := f.wm, doneTime := s.now, service := units64 (s.now - f.issued).toNat, extra := units64 0 }

/-- Flight f is alone in flight in queue q, the holder of core c, which runs; nothing is wrong with it, what it counts at its end are
counters of its pages, its ADDs may act, and nothing else is about to happen in the core or waits on a faulted semaphore. -/
structure State.lone (s : State) (c : Fin 36) (q : Fin 8) (f : Flight) : Prop where
  up : s.up
  moves : s.coreMoves c = true
  flights : (s.queue c q).flights = [f]
  running : (s.queue c q).state = .running
  pending : f.done = false
  status : f.status = .ok
  aborted : f.aborted = false
  fatal : f.fatal = false
  gated : f.gated = false
  scalar : ∀ p, f.scAtEnd = some p → p.1 < 16
  notes : ∀ x ∈ f.counts, (x.1, x.2.1, x.2.2.1) ∈ [(Pg.array c, RegName.aStreamCycles, f.arr), (.array c, .aSpillCount, f.arr),
    (.sequencer c, .skippedTileCount, 0), (.vector c, .chainTileCount, 0), (.score c, .scoreTilesRead, 0),
    (.score c, .scoreTilesWritten, 0), (.score c, .scoreMasked, 0), (.multicast, .mcastBridgeBytes, 0)]
  adds : (s.performAdds c f).1 = .ok
  holder : (s.core c).holder = some q.val
  stopping : (s.core c).stopping = false
  waiting : (s.core c).waiting = []
  ready : ∀ r < 8, r ≠ q.val → (s.queue c r).state ≠ .running
  tags : ∀ r, (s.queue c r).state = .waiting → (s.queue c r).inWaitGe = true
  loads : ∀ r < 8, r ≠ q.val → ∀ g ∈ (s.queue c r).flights, g.ins.opcode ≠ opWload
  faulted : s.faultedWaiter = none
  fast : s.est.fast = []

/-- From s to t, flight f of queue q has completed with OK (R80, R86, R89): the queue runs with nothing in flight; what the
instruction leaves for its completion is stored and its ADDs have acted; its record is written when it asks for one; beside these only the
registers with the given keys, the counters of what it counts at its end and the banks of its array may differ. -/
structure State.finishes (s t : State) (c : Fin 36) (q : Fin 8) (f : Flight) (ks : List Nat) : Prop where
  queue : t.queue c q = { s.queue c q with flights := [] }
  queues : ∀ d r, ¬(d = c.val ∧ r = q.val) → t.queue d r = s.queue d r
  sems : ∀ scope d j, t.sem scope d j = (s.performAdds c f).2.sem scope d j
  trace : t.trace = (s.performAdds c f).2.trace
  records : t.records = s.records ++ if f.ins.record then [s.flightDone c q f] else []
  bytes : s.bytesBut t (f.atEnd.map (fun p => (ledgeAt c p.1, p.2.length)))
  stored : ∀ p, f.atEnd = [p] → t.bytes (ledgeAt c p.1) p.2.length = p.2
  scalar : ∀ p, f.scAtEnd = some p → t.scReg c q p.1 = p.2
  regs : s.regsBut t (ks ++ (f.scAtEnd.toList.map (fun p => regKey (.sequencer c) .sc (16 * q.val + p.1))) ++
    f.counts.map (fun x => regKey x.1 x.2.1 x.2.2.1))
  core : t.core c = { s.core c with queues := (t.core c).queues, sems := (t.core c).sems, scoreDone := (t.core c).scoreDone,
                                    a0 := (t.core c).a0, a1 := (t.core c).a1 }
  cores : s.coresBut t c
  rest : t = { s with regs := t.regs, cores := t.cores, sems := t.sems, trace := t.trace, records := t.records, mem := t.mem,
                      bad := t.bad, freeIx := t.freeIx }

/-! ### The tideline -/

/-- From s to t a tick has begun at a time, in a slot (R26, R27): TICK_NOW shows the next index, or 0 in a first tick, and the slot,
and TICK_EDGE_TIME the time; beside the tick's own registers, those with the given keys and the configuration only the ticks counted in
Dry may have changed and, where a version waits for a tick, versions and the Ledges they are pinned in. -/
structure State.ticks (s t : State) (start slot : Nat) (ks : List Nat) : Prop where
  running : t.tide.running = true
  began : t.tide.start = BitVec.ofNat 64 start
  edge : t.rd .tideline .tickEdgeTime 0 = BitVec.ofNat 64 start
  index : t.fld .tideline .tickNow 0 39 0 = if s.tide.running then (s.fld .tideline .tickNow 0 39 0 + 1) % 2 ^ 40 else 0
  slot : t.fld .tideline .tickNow 0 47 40 = slot % 256
  regs : s.regsBut t (regKey .tideline .tickNow 0 :: regKey .tideline .tickEdgeTime 0 :: ks)
  draws : ks = [] → t.freeIx = s.freeIx
  still : (∀ y ∈ s.gulk.models, ∀ x, y.2 = some x → x.waitTick = false) → t.gulk = s.gulk ∧ s.memSame t
  rest : t = { s with regs := t.regs, tide := t.tide, gulk := { s.gulk with models := t.gulk.models }, mem := t.mem, bad := t.bad,
                      sys := { s.sys with wake := t.sys.wake, dryTicks := t.sys.dryTicks }, freeIx := t.freeIx }

/-- An edge that begins a tick tells the discipline something (R24, R408). -/
def State.edgeTells (s : State) : Bool := decide (2 ≤ s.fld .tideline .discCtrl 0 1 0) && s.standby

/-- From s to t the discipline has taken a measurement of an offset that does not step the count (R23, R25, R35): DISC_STAT shows the
offset; the sixteenth in a row within 40 units locks it, and the fourth in a row beyond 400 units leads to HOLDOVER, which keeps
the frequency; the rate stays within 200 ppm, and the count slows by at most 100 ppm to be rid of an offset. -/
structure State.measures (s t : State) (off : Int) : Prop where
  offset : t.fld .tideline .discStat 0 39 8 = sat32 off
  near : t.tide.near = if off.natAbs ≤ 40 then s.tide.near + 1 else 0
  far : t.tide.far = if 400 < off.natAbs then s.tide.far + 1 else 0
  locks : 16 ≤ t.tide.near → t.discState = 2 ∧ t.tide.locked = true ∧ (s.discState ≠ 2 → s.raised t .tideline 1)
  loses : t.tide.near < 16 → 4 ≤ t.tide.far → s.discState ≠ 4 → t.discState = 3 ∧ (s.discState = 2 → s.raised t .tideline 2)
  stays : t.tide.near < 16 → t.tide.far < 4 ∨ s.discState = 4 → t.discState = if s.discState = 0 then 1 else s.discState
  held : t.tide.near < 16 → 4 ≤ t.tide.far ∨ s.discState = 3 → t.tide.freq = s.tide.freq
  rate : -200000 ≤ t.tide.rate ∧ t.tide.rate ≤ 200000
  slew : (0 < off → 0 ≤ t.tide.slew ∧ t.tide.slew ≤ 200000) ∧ (off < 0 → -100000 ≤ t.tide.slew ∧ t.tide.slew ≤ 0)
  regs : s.regsBut t (regKey .tideline .discStat 0 :: eventKeys .tideline)
  rest : t = { s with regs := t.regs, tide := t.tide, freeIx := t.freeIx }

/-- Nothing goes over Tideway: no port has a frame waiting, no SEMAPHORE frame waits, and no ring has a collective. -/
structure State.twCalm (s : State) : Prop where
  queues : ∀ p, (s.twPort p).queue = []
  sems : s.tw.sems = []
  colls : ∀ r, s.coll r = none

/-! ### Messages -/

/-- The state in which Estuary has accepted a message and Gulkutik holds it as its next request (R305, R309, R314). -/
def State.accepts (s : State) (qp : Nat) (m : Msg) : State :=
  let u := (s.received qp (32 + m.body.length)).marked qp m.ce
  { u with gulk := { u.gulk with
      reqs := FMap.set none u.gulk.reqs u.gulk.accepted (some (msgReq m qp u.now)), accepted := u.gulk.accepted + 1 } }

/-- Queue pair 1 serves a packet now (R308, R310): it is set up, not in ERROR, and its context is cached with no packet before it. -/
structure State.windowServes (s : State) (q : Qp) : Prop where
  up : s.up
  pair : s.qp 1 = some q
  usable : q.error = false ∧ s.est.closed = false
  cached : (s.ctxSet 1).contains 1 = true
  first : ∀ x ∈ s.est.held, x.1 ≠ 1

/-- A queue pair takes a message now, its header is right and its deadline has not passed (R309, R311, R314, R315, R321). -/
structure State.takes (s : State) (qp : Nat) (m : Msg) : Prop where
  up : s.up
  pair : ∃ q, s.qp qp = some q ∧ q.service = true
  cached : (s.ctxSet qp).contains qp = true
  first : ∀ x ∈ s.est.held, x.1 ≠ qp
  opened : s.est.closed = false
  size : 32 + m.body.length ≤ 4096
  live : s.live .estuary = .running
  room : s.unanswered (some qp) < 256 ∧ s.unanswered none < 65536
  header : msgHeaderOk m = true
  onTime : m.deadline = 0 ∨ s.now.toNat ≤ m.deadline.toNat

/-- Gulkutik has nothing to do: no request is unanswered, no stream works for the next one, and no CXL decoder drains. -/
structure State.gulkIdle (s : State) : Prop where
  reqs : ∀ x ∈ s.gulk.reqs, x.2 = none
  fresh : ∀ x ∈ s.gulk.streams, ∀ y, x.2 = some y → s.gulk.accepted ∉ y.work
  drains : ∀ (p : Fin 2) (n : Nat), n < 8 → s.decState p n ≠ 3

/-- There is room for n children of a stream: free slots, and units of HBM4 for their page maps (R197). -/
def State.forkRoom (s : State) (st : Stream) (n : Nat) : Bool :=
  decide (s.openStreams.length + n ≤ 16384) && s.roomFor 0 (ceilDiv (n * (st.map.map (fun r => 4 * r.length)).sum) poolUnit)

/-- From s to t, request k, which came as a message, has been answered with a status (R319, R320). -/
def State.answers (s t : State) (m : Msg) (k : Nat) (st : Status) : Prop :=
  t.req k = none ∧ ∃ c, t.records = s.records ++ [c] ∧ c.id = m.requestId.toNat ∧ c.status = st.code ∧
    c.opcode = m.opcode.toNat ∧ c.doneTime = s.now

/-- The rows of messages, each with its opcode's checks (R315, R316). -/
def checkedRows (qp : BitVec 18) (m : Msg) : List (Instr × Nat × (State → Req → List (Bool × Status))) :=
  [(.openScene qp m, 0x01, State.openChecks), (.observe qp m, 0x02, State.observeChecks), (.plan qp m, 0x03, State.planChecks),
   (.rollout qp m, 0x04, State.rollChecks), (.fork qp m, 0x05, State.forkChecks), (.loadModel qp m, 0x10, State.loadChecks),
   (.objCreate qp m, 0x20, State.objCreateChecks), (.objDelete qp m, 0x23, State.objDeleteChecks),
   (.cancel qp m, 0x35, State.cancelChecks), (.openJob qp m, 0x18, State.openJobChecks)]

/-- From s to t, request k has been answered with a status (R319, R320). -/
def State.ended (s t : State) (k : Nat) (r : Req) (st : Status) : Prop :=
  t.req k = none ∧ ∃ c, t.records = s.records ++ [c] ∧ c.id = r.id.toNat ∧ c.status = st.code ∧ c.opcode = r.op ∧ c.doneTime = s.now

/-- From s to t no memory, core, semaphore or tideline state has changed. -/
def State.coreSide (s t : State) : Prop :=
  t.mem = s.mem ∧ t.bad = s.bad ∧ t.cores = s.cores ∧ t.sems = s.sems ∧ t.now = s.now ∧ t.tide = s.tide ∧ t.pending = s.pending

/-! ### Whole-machine rules -/

/-- The commands of the blocks that run from the main rails: in Dry, and after a boot that failed, they have no effect; every other
command is Tidewatch's, the management interface's, the tideline's, a register's or a boot's (R401, R431, R432). -/
def mainRails : Instr → Bool
  | .matmul .. | .wload .. | .weightLoadDone .. | .rstep .. | .vchain .. | .move .. | .waitGe .. | .waitGeSatisfied ..
  | .add .. | .sub .. | .branch .. | .scalarSet .. | .scalarAdd .. | .lenImm .. | .lenReg .. | .scalarLoad .. | .scalarStore ..
  | .srBase .. | .srStep .. | .fence .. | .endOp .. | .instructionComplete .. | .queueStart .. | .queueResume ..
  | .queueAbort .. | .tilePassBoundary .. | .deadlinePassed .. | .arrivalGateOpen .. | .arriveWrite .. | .statRegionWrite ..
  | .scoreCtrlWrite .. | .recurCtrlWrite .. | .supMramDataRead | .quiesce .. | .drain .. | .resume .. | .liveBoundaryReached ..
  | .ptpEventMessage .. | .openScene .. | .observe .. | .plan .. | .rollout .. | .fork .. | .closeStream .. | .closeScene ..
  | .stepDispatch .. | .poolWaitExpire .. | .stepCommit .. | .recomputeDone .. | .loadModel .. | .unloadModel ..
  | .prefetchModel .. | .modelStaged .. | .openJob .. | .trainStep .. | .remap .. | .updateOnly .. | .updateCommit ..
  | .closeJob .. | .objCreate .. | .objWrite .. | .objRead .. | .objDelete .. | .createQp .. | .destroyQp .. | .bindFast ..
  | .unbindFast .. | .cancel .. | .fastPathRequest .. | .rdmaWriteReceived .. | .rdmaReadRequest .. | .rdmaReadResponse ..
  | .mgmtWindowAccess .. | .ackTimeout .. | .rnrNakReceived .. | .cnpReceived .. | .rateIncrease .. | .neighbourRequest ..
  | .contextFill .. | .ethLinkUp .. | .ethLinkDown .. | .fsRingTailWrite .. | .fsJobStart .. | .fsJobComplete .. | .fsAbort ..
  | .hbFlush .. | .flushDone .. | .hbRegionWrite .. | .atomic .. | .wcFlush .. | .prefetchFill .. | .regulatorWindow ..
  | .hbmRegClassWrite .. | .scrub .. | .cxlHotAdd .. | .cxlHotRemove .. | .cxlLinkDown .. | .cliffRingTailWrite .. | .create
  | .write | .read | .delete | .cliffCommandComplete .. | .cliffHousekeeping .. | .tidewayDataFrame ..
  | .tidewayControlFrame .. | .timingExchange .. | .remoteSemaphoreFrame .. | .replayTimeout .. | .wavelengthFail ..
  | .linkTimeout .. | .tidewayLinkUp .. | .recalibration .. | .laserDrain .. | .laserRestore .. | .twRingTailWrite ..
  | .allReduce .. | .reduceScatter .. | .allGather .. | .broadcast .. | .multicast .. | .permute .. | .permuteResolveCommit ..
  | .permuteResolveDiscard .. | .collectiveStart .. | .collectiveComplete .. | .semReset .. | .spareCoreSwap .. | .swapDone
  | .pcRetirement .. | .pcRetired | .fwActivate .. | .fwRevert .. | .fwSwap .. | .fwHealthTimeout .. | .orderlyHalt ..
  | .correctedRecordFlush | .errRingBaseWrite .. | .rollNodeLimitWrite .. | .coreSlackEntry .. | .breakwaterRequest ..
  | .rampEnd | .selfTestSlice .. | .sliceComplete .. | .sliceAbort .. | .fullTest | .stFullDone .. | .marginSweep ..
  | .loopback .. | .fwHealthDeclared .. | .ackReceived .. | .pfcPauseReceived .. | .frameDropped .. | .tempHigh ..
  | .laserDrained .. => true
  | .counterClear .. | .eventClear .. | .eventCountClear .. | .registerWrite .. | .tickInEdge .. | .tickStart
  | .tickWindowClose | .slotStart | .tickinPeriodWrite .. | .tickCfgWrite .. | .referenceMeasurement .. | .referenceLost
  | .tidelineRecord | .ppsOut | .wakeAlarm | .spdmMessage .. | .laserFailure .. | .laserInsert .. | .enterDry ..
  | .neapForce .. | .clearStop .. | .ruleFire .. | .ruleRelease .. | .hardStop .. | .wakeN | .standbyLoss ..
  | .standbyReturn .. | .coldBoot .. | .dryExit .. | .regRead .. | .regWrite .. | .setMgmtQp .. | .powerWake | .emergencyStop
  | .ownerWrite .. | .debugToken .. | .bootStatus | .pldmFirmwareUpdate .. | .pldmFileRead .. | .pldmSensorRead ..
  | .getMeasurements .. | .challenge .. | .getCertificate .. | .negotiateAlgorithms .. | .referenceCheck .. => false

/-- What every step keeps: canonical tables, and error buffers that hold no more than they can (R380, R381, R414). -/
def State.inv (s : State) : Bool := s.tablesOk && s.errs.ok

/-- The state after a training step's micro-batches and collectives, and its gradient: the kept one where only the update runs
(R359 to R364, R368). -/
def State.stepRuns (s : State) (x : Job) (y : TrainRun) (r : Req) : State × List (List (BitVec 32)) :=
  if y.only then ({ s with freeIx := s.freeIx + 1 }, (x.kept.map (·.2)).getD [])
  else
    let p := s.runMicro x y r none
    let u := p.2.dataCollectives (cfgData x.cfg) (s.stageOf x).layers.length
    (u, u.gradient x (s.stageOf x) p.1)

/-! ### Halts, attestation and boots -/

/-- Nothing is at work: no queue has anything in flight and each is IDLE or HALTED, no engine, ring, stream, page, job or message is
under way, no corrected record is held, both CXL links are down, and no row of the rule table is fired. -/
structure State.atRest (s : State) : Prop where
  up : s.up
  flights : ∀ c q, (s.queue c q).flights = []
  queues : ∀ c q, (s.queue c q).state = .idle ∨ (s.queue c q).state = .halted
  fore : ∀ h, s.fsJob h = none
  cliff : s.cliff.runs = []
  colls : ∀ r, s.coll r = none
  streams : s.gulk.streams = []
  pages : s.gulk.pages = []
  reqs : s.gulk.reqs = []
  jobs : s.jobs = []
  fast : s.est.fast = []
  held : s.errs.held = []
  cxl : ∀ p, bit1 (s.rd (.cxl p) .cxlStat 0) 0 = false
  rows : ∀ r < 64, s.fired r = false

/-- From s to t the device has been halted, from rest, and is in Dry (R378, R402): every global semaphore holds its count and is
faulted, local ones are as they were; no sector is dirty, the Ethernet links are down, HBM4 is in self-refresh, and memory and
the queues are as they were; Estuary accepts nothing. -/
structure State.halts (s t : State) : Prop where
  dry : t.sys.dry = true ∧ t.sys.cold = false ∧ t.est.closed = true
  sems : ∀ i < 65536, t.sem true 0 i = setBits (s.sem true 0 i) 48 48 1
  local_ : ∀ c i, t.sem false c i = s.sem false c i
  mem : t.mem = s.mem ∧ t.bad = s.bad ∧ t.dirty = []
  queues : ∀ c q, t.queue c q = s.queue c q
  holders : ∀ c < 36, s.coreLive c = true → (t.core c).holder = none
  links : ∀ p, t.linkUp p = false
  refresh : ∀ k : Fin 12, s.code.stackPresent k = true → t.fld (.hbm k) .hbmStat 0 16 16 = 1
  records : t.records = s.records
  now : t.now = s.now ∧ t.tide = s.tide ∧ t.gulk = s.gulk ∧ t.pending = s.pending

/-- An SPDM request reaches the security engine: over queue pair 1, or over MCTP (R308, R394, R432, R436). -/
def State.spdmReaches (s : State) (window : Bool) : Prop :=
  s.up ∧ if window then (∃ q, s.windowServes q) ∧ s.live .estuary = .running else s.standby = true

/-- The state in which an SPDM request is answered: one over queue pair 1 has looked its context up. -/
def State.spdmAt (s : State) (window : Bool) : State := if window then (s.ctxLook 1 1).2 else s

/-- A boot finds everything good (R424, R427, R430, R451): every copy of a record valid, no bank that fails, and nothing in the battery. -/
def foundGood (f : BootFound) : Prop :=
  f.mfgA = true ∧ f.mfgB = true ∧ f.fieldA = true ∧ f.fieldB = true ∧ f.ownerA = true ∧ f.ownerB = true ∧ f.badBanks = [] ∧
  f.battery = {}

/-- A run is safe while no step ends in a fault or a refusal. -/
def safeRun : Nat → State → Bool
  | 0, _ => true
  | n + 1, s =>
    match step s with
    | .next t => safeRun n t
    | .fault _ | .refused _ => false

end Sys2Proof.Machine
end

