-- ==== Sys2Proof/Certificates/Slice0/Obligations.lean ====
section
/-! DEFINITION. The statements for the provers: what a step does, what every step keeps, and, family by family, what each
command leaves and that it completes, from the numbered rules of the spec. -/

open Sys2Proof Sys2Proof.Machine

/-! ### The step -/

/-- A step takes the command at the front of the queue: it is that command's effect on the state with the queue's rest. It rests on
a reading or choice of the model: notes/assumptions/3.md. -/
def Obligations.StepTakesTheFront : Prop :=
  ∀ (c : Instr) (rest : List Instr) (s : State), s.pending = c :: rest → step s = exec c { s with pending := rest }

/-- With no command waiting the block idles: the tideline count is one more, unless standby and main power are both lost, and
nothing else changes. This is the model's choice (notes/assumptions/3.md). -/
def Obligations.EmptyQueueIdles : Prop :=
  ∀ s : State, s.pending = [] →
    (s.sys.mainLost = false ∨ s.standby = true → step s = .next { s with now := s.now + 1 }) ∧
    (s.sys.mainLost = true → s.standby = false → step s = .next s)

/-- What reset leaves: canonical tables and empty error buffers; an empty queue of commands, every semaphore at count 0 with bits 48
and 49 clear, every tile queue IDLE, every register at its reset value, nothing written to memory, and standby present. It rests
on readings and choices of the model: notes/assumptions/5.md, notes/assumptions/8.md, notes/assumptions/25.md. -/
def Obligations.ResetValues : Prop :=
  State.reset.inv = true ∧ State.reset.pending = [] ∧ (∀ g c i, State.reset.sem g c i = 0) ∧
  (∀ c q, State.reset.queue c q = {}) ∧ (∀ p r i, State.reset.rd p r i = regReset (regKey p r i)) ∧
  (∀ a, State.reset.byte a = 0) ∧ State.reset.standby = true ∧ (∀ p, State.reset.live p = .running)

/-- Every step answers a next state, in every state: no command is refused and none faults. A step takes one command off the queue
and puts none on it. It rests on readings and choices of the model: notes/assumptions/2.md, notes/assumptions/3.md. -/
def Obligations.EveryStepGoesOn : Prop :=
  ∀ s : State, ∃ t, step s = .next t ∧ t.pending = s.pending.tail

/-- Every step keeps memory, registers and semaphores in their canonical forms and the error buffers within their sizes (R380, R381,
R414): at most 256 records held on the Headland die, 32,768 summaries in MRAM and 4,096 kept while Tidewatch is stopped. It
rests on a reading or choice of the model: notes/assumptions/5.md. -/
def Obligations.StepKeepsInvariant : Prop :=
  ∀ s t : State, s.inv = true → step s = .next t → t.inv = true

/-- Every step leaves what has left the device and the completion records written as they are, and only adds to them; the ordering
code does not change. -/
def Obligations.StepOnlyAdds : Prop :=
  ∀ s t : State, step s = .next t → s.out <+: t.out ∧ s.records <+: t.records ∧ t.code = s.code

/-- In Dry, and after a boot that failed, the blocks on the main rails do nothing: their commands change no state (R401, R431). It
rests on a reading or choice of the model: notes/assumptions/2.md. -/
def Obligations.DryBlocksRest : Prop :=
  ∀ (c : Instr) (s : State), mainRails c = true → s.sys.dry = true ∨ s.sys.failed = true → exec c s = .next s

/-! ### Tile programs -/

/-- SCALAR on registers (R87): SET, ADD, LEN_IMM, LEN_REG, SR_BASE and SR_STEP give their register its value, the instruction
completes, and nothing else changes. SCALAR on Ledge (R87): LOAD gives its register the 8 bytes at the offset, STORE gives the 8
bytes at the offset its register, where the offset is 8-byte aligned inside the Ledge; no other byte of memory changes. It rests
on readings and choices of the model: notes/assumptions/12.md, notes/assumptions/24.md. -/
def Obligations.ScalarResults : Prop :=
  (∀ (s : State) (c : Fin 36) (q : Fin 8) (i : Ins), s.issues c q i → s.calm c q → (s.adds c i).1 = .ok →
      i.opcode = opScalar → ctlFormatOk i (highBits 19) 0 (highBits 0) = true →
      (i.scOp = 0 → ∃ t, exec (.scalarSet c q) s = .next t ∧ t.scReg c q i.scDst = i.w2 ∧ s.memSame t ∧
        s.completes t c q i (i.pc + 32) [regKey (.sequencer c) .sc (16 * q.val + i.scDst)]) ∧
      (i.scOp = 1 → ∃ t, exec (.scalarAdd c q) s = .next t ∧ t.scReg c q i.scDst = s.scReg c q i.scSrc + i.w2 ∧ s.memSame t ∧
        s.completes t c q i (i.pc + 32) [regKey (.sequencer c) .sc (16 * q.val + i.scDst)]) ∧
      (i.scOp = 2 → ∃ t, exec (.lenImm c q) s = .next t ∧ t.slotVal c q i.scSlot = bits i.w2 30 0 + i.scKind ∧
        (∀ j < 64, j ≠ i.scSlot → t.slotVal c q j = s.slotVal c q j) ∧ s.memSame t ∧
        s.completes t c q i (i.pc + 32) [regKey (.sequencer c) .slot (32 * q.val + i.scSlot / 2)]) ∧
      (i.scOp = 3 → ∃ t, exec (.lenReg c q) s = .next t ∧
        t.slotVal c q i.scSlot = bits (s.scReg c q i.scSrc) 30 0 + i.scKind ∧
        (∀ j < 64, j ≠ i.scSlot → t.slotVal c q j = s.slotVal c q j) ∧ s.memSame t ∧
        s.completes t c q i (i.pc + 32) [regKey (.sequencer c) .slot (32 * q.val + i.scSlot / 2)]) ∧
      (i.scOp = 6 → ∃ t, exec (.srBase c q) s = .next t ∧ t.rd (.sequencer c) .qSrbase q = i.w2 ∧ s.memSame t ∧
        s.completes t c q i (i.pc + 32) [regKey (.sequencer c) .qSrbase q]) ∧
      (i.scOp = 7 → bit1 (s.rd (.sequencer c) .qCfg q) 4 = false → ∃ t, exec (.srStep c q) s = .next t ∧
        t.rd (.sequencer c) .qStep q = s.rd (.sequencer c) .qStep q + i.w2 ∧ s.memSame t ∧
        s.completes t c q i (i.pc + 32) [regKey (.sequencer c) .qStep q])) ∧
  (∀ (s : State) (c : Fin 36) (q : Fin 8) (i : Ins), s.issues c q i → s.calm c q → (s.adds c i).1 = .ok →
      i.opcode = opScalar → ctlFormatOk i (highBits 19) 0 (highBits 0) = true → i.w2.toNat % 8 = 0 →
      i.w2.toNat + 8 ≤ ledgeSize →
      (i.scOp = 4 → s.badIn (ledgeAt c i.w2.toNat) 8 = none → ∃ t, exec (.scalarLoad c q) s = .next t ∧
        t.scReg c q i.scDst = s.word (ledgeAt c i.w2.toNat) ∧ s.memSame t ∧
        s.completes t c q i (i.pc + 32) [regKey (.sequencer c) .sc (16 * q.val + i.scDst)]) ∧
      (i.scOp = 5 → ∃ t, exec (.scalarStore c q) s = .next t ∧
        t.word (ledgeAt c i.w2.toNat) = s.scReg c q i.scSrc ∧ s.bytesBut t [(ledgeAt c i.w2.toNat, 8)] ∧
        s.completes t c q i (i.pc + 32) []))

/-- FENCE, END and BRANCH (R87): each completes; END leaves its queue IDLE, and a branch whose target lies in the fetch space goes
to its target when its condition holds of its two values and else to the next instruction. It rests on a reading or choice of
the model: notes/assumptions/24.md. -/
def Obligations.ControlFlowResults : Prop :=
  ∀ (s : State) (c : Fin 36) (q : Fin 8) (i : Ins), s.issues c q i → s.calm c q → (s.adds c i).1 = .ok →
    (i.opcode = opFence → ctlFormatOk i (highBits 4) (highBits 0) (highBits 0) = true →
      ∃ t, exec (.fence c q) s = .next t ∧ s.memSame t ∧ s.completes t c q i (i.pc + 32) []) ∧
    (i.opcode = opEnd → ctlFormatOk i (highBits 0) (highBits 0) (highBits 0) = true →
      ∃ t, exec (.endOp c q) s = .next t ∧ (t.queue c q).state = .idle ∧ s.memSame t ∧
        s.completes t c q i (i.pc + 32) []) ∧
    (i.opcode = opBranch → ctlFormatOk i branchRsv 0 (highBits 0) = true → bits i.w1 10 8 ≠ 7 →
      s.targetOk c q (branchTarget i) = true →
      ∀ b, b = (if bit1 i.w1 11 then i.w2 else s.scReg c q (bits i.w1 7 4)) →
      (branchTaken (bits i.w1 10 8) (s.scReg c q (bits i.w1 3 0)) b = true →
        ∃ t, exec (.branch c q) s = .next t ∧ s.memSame t ∧
          t.rd (.sequencer c) .branchTakenCount 0 = s.counted (.sequencer c) .branchTakenCount 0 1 ∧
          s.completes t c q i (branchTarget i).toNat [regKey (.sequencer c) .branchTakenCount 0]) ∧
      (branchTaken (bits i.w1 10 8) (s.scReg c q (bits i.w1 3 0)) b = false →
        ∃ t, exec (.branch c q) s = .next t ∧ s.memSame t ∧ s.completes t c q i (i.pc + 32) []))

/-- ADD, SUB and WAIT_GE on semaphore words (R86): the count moves by the amount inside 0 to 2^48 − 1, saturates at either end with
bit 49 set and E_SAT, and stays as it is, with E_ABORT, on a faulted semaphore; a WAIT_GE waits while the count is below its
value, and ends with E_SAT when a bound that is not 0 is exceeded. ADD and SUB of the device itself, and WAIT_GE (R86, R89): an
ADD or SUB completes with its semaphore moved by its amount, and a WAIT_GE whose count is at its value and inside its bound
completes at once; no register but the queue's changes. A WAIT_GE that waits (R86): it is released when its semaphore reaches
its value, with nothing left in flight and the queue RUNNING again; registers, memory and every semaphore stay as they are,
where the instruction has no post ADD. The core is held by another queue, of the same or a higher class, which keeps it (R78).
It rests on readings and choices of the model: notes/assumptions/24.md, notes/assumptions/70.md. -/
def Obligations.SemaphoreInstructionResults : Prop :=
  (∀ (w : Word) (n bound : Nat),
      (semFaulted w = true → semAdd w n = (w, .eAbort) ∧ semSub w n = (w, .eAbort) ∧ waitDone w n bound = some .eAbort) ∧
      (semFaulted w = false →
        ((semAdd w n).1.toNat % 2 ^ 48 = min (semCount w + n) (2 ^ 48 - 1)) ∧
        ((semSub w n).1.toNat % 2 ^ 48 = semCount w - n) ∧
        ((semAdd w n).2 = if 2 ^ 48 - 1 < semCount w + n then .eSat else .ok) ∧
        ((semSub w n).2 = if semCount w < n then .eSat else .ok) ∧
        (bit1 (semAdd w n).1 49 = (bit1 w 49 || decide (2 ^ 48 - 1 < semCount w + n))) ∧
        (bit1 (semSub w n).1 49 = (bit1 w 49 || decide (semCount w < n))) ∧
        (∀ b < 64, 47 < b → b ≠ 49 → bit1 (semAdd w n).1 b = bit1 w b ∧ bit1 (semSub w n).1 b = bit1 w b) ∧
        (waitDone w n bound =
          if semCount w < n then none else if bound ≠ 0 ∧ n + bound < semCount w then some .eSat else some .ok))) ∧
  (∀ (s : State) (c : Fin 36) (q : Fin 8) (i : Ins), s.issues c q i → s.calm c q →
      (i.opcode = opAdd → s.addCheck i = .ok → bit1 i.w1 17 = false → (s.adds c i).1 = .ok →
        ∃ t, exec (.add c q) s = .next t ∧ s.memSame t ∧ s.completes t c q i (i.pc + 32) [] ∧
          (i.postEn = false → semCount (t.sem i.semScope c i.semIndex) =
            semCount (s.sem i.semScope c i.semIndex) + bits i.w2 47 0)) ∧
      (i.opcode = opSub → s.addCheck i = .ok → bit1 i.w1 17 = false → (s.adds c i).1 = .ok →
        ∃ t, exec (.sub c q) s = .next t ∧ s.memSame t ∧ s.completes t c q i (i.pc + 32) [] ∧
          (i.postEn = false → semCount (t.sem i.semScope c i.semIndex) =
            semCount (s.sem i.semScope c i.semIndex) - bits i.w2 47 0)) ∧
      (i.opcode = opWaitGe → wgCheck i = .ok → ((s.traceWait c i).adds c i).1 = .ok →
        semFaulted (s.sem i.semScope c i.semIndex) = false → bits i.w2 47 0 ≤ semCount (s.sem i.semScope c i.semIndex) →
        (bits i.w3 47 0 = 0 ∨ semCount (s.sem i.semScope c i.semIndex) ≤ bits i.w2 47 0 + bits i.w3 47 0) →
        ∃ t, exec (.waitGe c q) s = .next t ∧ s.memSame t ∧ (s.traceWait c i).completes t c q i (i.pc + 32) [])) ∧
  (∀ (s : State) (c : Fin 36) (q : Fin 8) (f : Flight) (h : Nat), s.up → (s.queue c q).state = .waiting →
      (s.queue c q).flights = [f] → f.ins.opcode = opWaitGe → f.done = false → f.aborted = false → f.atEnd = [] →
      f.scAtEnd = none → f.ins.postEn = false → f.ins.record = false → f.ins.trace = false →
      waitDone (s.sem f.ins.semScope c f.ins.semIndex) (bits f.w2 47 0) (bits f.w3 47 0) = some .ok →
      (s.core c).holder = some h → h ≠ q.val → ((s.core c).queue h).keeps = true → s.qClass c h ≤ s.qClass c q →
      s.higherReady c h = false → (s.core c).waiting = [] → s.faultedWaiter = none → s.est.fast = [] →
      (∀ r, (s.queue c r).state = .waiting → (s.queue c r).inWaitGe = true) →
      ∃ t, exec (.waitGeSatisfied c q) s = .next t ∧ (t.queue c q).state = .running ∧ (t.queue c q).flights = [] ∧
        (∀ d r, ¬(d = c.val ∧ r = q.val) → t.queue d r = s.queue d r) ∧ s.semsSame t ∧
        (∀ d, t.core d = { s.core d with queues := (t.core d).queues, stopping := (t.core d).stopping }) ∧
        t = { s with cores := t.cores })

/-- WLOAD (R60, R61, R83): the instruction is in flight; where its load may begin, its bank is LOADING with its tag and the bytes of
the block as they stand now, and every other bank and everything else of the core is as it was. WEIGHT_LOAD_DONE (R60, R61, R64,
R83): the bank is READY with the bytes of its snapshot, where the source has not changed since and has no uncorrectable word,
and the WLOAD completes with OK. It rests on readings and choices of the model: notes/assumptions/21.md,
notes/assumptions/24.md, notes/assumptions/68.md. -/
def Obligations.WeightLoadResults : Prop :=
  (∀ (s : State) (c : Fin 36) (q : Fin 8) (i : Ins) (x : Wl), s.issues c q i → x = Wl.of i → i.opcode = opWload →
      s.wlCheck i = .ok → (s.queue c q).free { rd := [(ledgeAt c x.wt, blockBytes x.fa x.fw)] } = true →
      ∃ (t : State) (F : Flight), exec (.wload c q) s = .next t ∧ s.memSame t ∧ s.enters t c q F [] ∧ F.ins = i ∧ F.done = false ∧ F.status = .ok ∧
        F.loading = s.loadMayBegin c q (s.queue c q).seq x none ∧
        t.core c = { s.core c with queues := (t.core c).queues, a0 := (t.core c).a0, a1 := (t.core c).a1 } ∧
        ∀ a b : Fin 2, ((t.core c).arr a) = { (s.core c).arr a with
            bank0 := ((t.core c).arr a).bank0, bank1 := ((t.core c).arr a).bank1 } ∧
          ((t.core c).arr a).bank b =
            if F.loading ∧ a.val = x.array ∧ b.val = x.bank then { state := .loading, tag := some x.tag, bytes := s.blockAt c x.tag }
            else ((s.core c).arr a).bank b) ∧
  (∀ (s : State) (c : Fin 36) (q : Fin 8) (a b : Fin 2) (f : Flight) (x : Wl), s.lone c q f → x = Wl.of f.ins →
      f.ins.opcode = opWload → f.loading = true → x.array = a.val → x.bank = b.val →
      (((s.core c).arr a).bank b).bytes = s.blockAt c x.tag → s.badIn (ledgeAt c x.wt) (blockBytes x.fa x.fw) = none →
      ∃ t, exec (.weightLoadDone c a b) s = .next t ∧ s.finishes t c q f [regKey (.array c) .aLedgeStallCycles a] ∧
        ((t.core c).arr a).bank b = { ((s.core c).arr a).bank b with state := .ready } ∧
        ∀ d e : Fin 2, ¬(d = a ∧ e = b) → ((t.core c).arr d).bank e = ((s.core c).arr d).bank e)

/-- VCHAIN (R84, R96, R121, R125): it is in flight with its tiles, its watermark, its status and what it leaves for its completion.
One that writes the Ledge encodes row r of the result at r destination strides, where rows do not overlap and no stage writes
Ledge on the way; beside these rows and what its stages write no byte of memory changes. One that does not write tile registers
leaves them as they are, and one that does not read the score store its row sums. It rests on readings and choices of the model:
notes/assumptions/6.md, notes/assumptions/21.md, notes/assumptions/23.md. -/
def Obligations.VectorChainResults : Prop :=
  ∀ (s : State) (c : Fin 36) (q : Fin 8) (i : Ins) (x : Vc) (f : Flight) (u : State) (o : ChainOut), s.issues c q i → x = Vc.of i →
    i.opcode = opVchain → (s.queue c q).free (s.vcTouch c i) = true → s.vcCheck c q i = .ok → s.lenZero c q i = false →
    f = s.withSr c q { started i (s.vcTouch c i) false with
      m := s.extent c q i 1 x.rows, n := s.extent c q i 2 x.cols, chainW := s.chainWords c x.chainId } →
    u = s.chainStarts c q (x.need (Chain.ofWords f.chainW).stages) → o = u.vcOut c f →
    ∃ (t : State) (F : Flight), exec (.vchain c q) s = .next t ∧
      s.enters t c q F ([regKey (.vector c) .vecBusyCycles 0, regKey (.vector c) .vecLedgeWaitCycles 0,
        regKey (.vector c) .budgetWaitCycles 0] ++ eventKeys (.score c)) ∧
      F.ins = i ∧ F.m = f.m ∧ F.n = f.n ∧ F.done = false ∧ F.total = ceilDiv f.m 64 * ceilDiv f.n 64 ∧
      F.wm = (u.vcBadTile c f x f.m f.n).getD F.total ∧
      F.status = (if (u.vcBadTile c f x f.m f.n).isSome then .eMemUncorr else .ok) ∧
      F.scAtEnd = (if x.sumEn then some (x.sumReg, o.summary) else none) ∧ (x.srcSpace ≠ 1 → F.atEnd = o.atEnd) ∧
      t.core c = { s.core c with
        queues := (t.core c).queues, tregs := (t.core c).tregs, scoreSum := (t.core c).scoreSum } ∧
      (x.dstSpace = 0 → (t.core c).tregs = (s.core c).tregs) ∧ (x.srcSpace ≠ 1 → (t.core c).scoreSum = (s.core c).scoreSum) ∧
      s.bytesBut t ((if x.dstSpace = 0 then
          o.cur.zipIdx.map (fun (r, n) => (ledgeAt c (x.dst * 64) + n * x.dstStride, x.fo.rowBytes r.length)) else []) ++
        o.writes.map (fun p => (ledgeAt c p.1, p.2.length))) ∧
      (x.dstSpace = 0 → o.writes = [] → (∀ r ∈ o.cur, x.fo.rowBytes r.length ≤ x.dstStride) →
        ∀ n r, o.cur[n]? = some r → t.bytes (ledgeAt c (x.dst * 64) + n * x.dstStride) (x.fo.rowBytes r.length) =
          encodeRow x.fo (f.srIn (i.rnd.getD .rne)) ((Chain.ofWords f.chainW).srBase + (Chain.ofWords f.chainW).n) n
            (s.bytes (ledgeAt c (x.dst * 64) + n * x.dstStride) (x.fo.rowBytes r.length)) r)

/-- MATMUL with no arrival gate, the only instruction in flight of the queue that holds the core, whose banks no WLOAD still loads
(R60, R66, R69, R82, R96): it has entered its array with its tiles, its watermark and its status, and the bank of its first
block is ACTIVE with that block's tag. A product that keeps its accumulators writes no byte of memory but the scratch of a
spill, and its tile stands in the array with its queue, unit and shape; one that drains to the score store leaves what the store
holds; and one that drains to the Ledge writes, beside the scratch, its rows and what its stages write, each row encoded at its
stride where rows do not overlap. It rests on readings and choices of the model: notes/assumptions/6.md,
notes/assumptions/19.md, notes/assumptions/21.md, notes/assumptions/65.md, notes/assumptions/66.md, notes/assumptions/67.md,
notes/assumptions/68.md, notes/assumptions/69.md. -/
def Obligations.ProductResults : Prop :=
  ∀ (s : State) (c : Fin 36) (q : Fin 8) (i : Ins) (x : Mm) (f : Flight) (u : State) (sums : List (List (BitVec 96)))
    (o : ChainOut) (spill : List (Nat × Nat)), s.issues c q i → x = Mm.of i → i.opcode = opMatmul →
    (s.queue c q).flights = [] → (s.core c).mmBankWait x = false → s.mmCheck c q i = .ok → s.lenZero c q i = false →
    f = s.withSr c q { started i (s.mmTouch c q i) false with
      m := s.extent c q i 1 x.m, n := s.extent c q i 2 x.n, k := s.extent c q i 3 x.k, units := s.mmLive c q x,
      blocks := x.tags (s.extent c q i 1 x.m) (s.extent c q i 2 x.n) (s.extent c q i 3 x.k),
      chainW := s.chainWords c x.chainId, proW := s.chainWords c (s.chain c x.chainId).proChain } →
    (Chain.ofWords f.chainW).gateEn = false → (∀ b : Fin 2, s.loaderOf c x.array b = none) →
    u = s.mmReady c q f (mmNeed f) → sums = u.mmSums c q f → o = u.mmOut c f sums →
    spill = (if s.spills c q x then [(ledgeAt c (s.spillHalf c x.array).1, (s.spillHalf c x.array).2)] else []) →
    ∃ (t : State) (F : Flight), exec (.matmul c q) s = .next t ∧
      s.enters t c q F ([regKey (.array c) .aSpillStallCycles x.array, regKey (.vector c) .vecBusyCycles 0,
        regKey (.vector c) .vecLedgeWaitCycles 0, regKey (.vector c) .budgetWaitCycles 0,
        regKey (.vector c) .arrivalWaitCycles 0] ++ eventKeys (.array c) ++ eventKeys (.score c)) ∧
      F.ins = i ∧ F.m = f.m ∧ F.n = f.n ∧ F.k = f.k ∧ F.done = false ∧ F.gated = false ∧ F.visited = 1 ∧
      F.total = ceilDiv f.m 64 * ceilDiv f.n 64 ∧
      (u.mmBadTile c f x f.m f.n f.k = none → x.exact = false → F.status = .ok ∧ F.wm = F.total) ∧
      (∀ b, u.mmBadTile c f x f.m f.n f.k = some b → F.status = .eMemUncorr ∧ F.wm = b) ∧
      (let a := (t.core c).arr x.array
       let b : Nat := if a.active then 1 else 0
       b = ((s.core c).arr x.array).firstBank f ∧ (a.bank b).state = .active ∧
       (a.bank b).tag = some (x.tag (x.blockAddr f.k 0 0))) ∧
      (x.keep = true → s.bytesBut t spill ∧
        ∃ k ∈ ((t.core c).arr x.array).kept, k.queue = q.val ∧ k.unit = x.accUnit ∧ k.m = x.m ∧ k.n = x.n ∧ k.exact = x.exact) ∧
      (x.keep = false → x.outScore = true → s.bytesBut t spill ∧
        ∀ w, w = (u.scoreWrite c x (f.srIn (i.rnd.getD .rne)) f.m f.n sums).1 →
          (t.core c).score = (w.core c).score ∧ (t.core c).scoreMax = (w.core c).scoreMax ∧
          (t.core c).scoreValid = (w.core c).scoreValid ∧ w.maxImage c ∈ F.atEnd) ∧
      (x.keep = false → x.outScore = false → x.fo = .x96 →
        s.bytesBut t (spill ++ sums.zipIdx.map (fun (r, n) => (ledgeAt c (x.out + n * x.outStride), 12 * r.length)))) ∧
      (x.keep = false → x.outScore = false → x.fo ≠ .x96 → ∀ (rows : Mat) (point : Nat) (ws : List (Nat × List Byte)),
        (rows, point, ws) = (if x.chainId = 0 ∨ (Chain.ofWords f.chainW).n = 0 then (mmDrainIn f sums, 0, []) else
          (o.cur, (Chain.ofWords f.chainW).srBase + (Chain.ofWords f.chainW).n, o.writes)) →
        s.bytesBut t (spill ++ rows.zipIdx.map (fun (r, n) => (ledgeAt c x.out + n * x.outStride, x.fo.rowBytes r.length)) ++
          ws.map (fun p => (ledgeAt c p.1, p.2.length))) ∧
        (ws = [] → (∀ r ∈ rows, x.fo.rowBytes r.length ≤ x.outStride) → ∀ n r, rows[n]? = some r →
          t.bytes (ledgeAt c x.out + n * x.outStride) (x.fo.rowBytes r.length) =
            encodeRow x.fo (f.srIn (i.rnd.getD .rne)) point n
              (u.bytes (ledgeAt c x.out + n * x.outStride) (x.fo.rowBytes r.length)) r))

/-- RSTEP, the only instruction in flight of the queue that holds the core, whose banks no WLOAD still loads (R60, R169, R173, R178,
R184): it has entered its array with its chunks, the chunks completed as its watermark, its status, and, when the drift summary
is on and it ran to its end, the largest drift for its register; memory changes only from its output's first byte to the end of
its state image; a run that ends with OK keeps its carried state in the array or writes its outputs and its state image. It
rests on readings and choices of the model: notes/assumptions/6.md, notes/assumptions/22.md, notes/assumptions/69.md. -/
def Obligations.RecurrentStepResults : Prop :=
  ∀ (s : State) (c : Fin 36) (q : Fin 8) (i : Ins) (x : Rs) (f : Flight) (o : RsOut), s.issues c q i →
    x = Rs.of i → i.opcode = opRstep → (s.queue c q).flights = [] → (s.core c).rsBankWait x = false →
    s.rsCheck c q i = .ok → s.lenZero c q i = false → (∀ b : Fin 2, s.loaderOf c x.array b = none) →
    f = s.withSr c q { started i (s.rsTouch c i) false with
      m := s.extent c q i 1 x.m, n := x.n, k := s.extent c q i 3 x.k, units := x.units } →
    o = s.rsOut c q f →
    ∃ (t : State) (F : Flight), exec (.rstep c q) s = .next t ∧ s.enters t c q F [] ∧
      F.ins = i ∧ F.m = f.m ∧ F.k = f.k ∧ F.done = false ∧ F.visited = 1 ∧ F.total = ceilDiv f.k x.len ∧ F.wm = o.done ∧
      F.status = o.status ∧ F.chunks = o.notes ∧
      F.atEnd = (if o.status = .ok ∧ bit1 (s.rd (.recurrent c) .recurCtrl 0) 2 = true ∧
          bit1 (s.rd (.recurrent c) .driftLog 0) 18 = true then
        [(64 * bits (s.rd (.recurrent c) .driftLog 0) 17 0, vecBytes o.rows)] else []) ∧
      F.scAtEnd = (if bit1 (s.rd (.recurrent c) .recurCtrl 0) 2 = true ∧ o.status = .ok then
        some (bits (s.rd (.recurrent c) .recurCtrl 0) 6 3, (rne32 o.drift).setWidth 64) else none) ∧
      s.bytesBut t [(ledgeAt c x.out, x.outSpan)] ∧
      (let a := (t.core c).arr x.array
       (a.bank (if a.active then 1 else 0)).state = .active) ∧
      (o.status = .ok → x.keep = true → ∃ k ∈ ((t.core c).arr x.array).carried, k.queue = q.val ∧ k.gated = x.gated ∧
        k.unit = x.unit ∧ k.su = x.su ∧ k.fmt = x.aF ∧
        k.vals = packMat carriedC o.c (packMat 0 o.h (s.rsBase q (s.rsIn c q f)))) ∧
      (o.status = .ok → ∀ a, t.byte a =
        (if x.keep then o.s else o.s.writeImage (s.rsIn c q f) (x.out + x.outBytes) o.h o.c).byte a)

/-- MOVE (R85, R96, R113, R115): it is in flight with its 4 KiB units, all of them committed when no word of its source has an
uncorrectable error. A unicast from Ledge to Ledge leaves at each destination row the bytes of its source row, where rows do not
overlap; one that names HBM4 or CXL memory changes memory in its destination rows alone, and of the registers those of the
memory pages. A multicast leaves the rows at the same offset of every member's Ledge, where no member has an arrival window that
counts. It rests on readings and choices of the model: notes/assumptions/10.md, notes/assumptions/20.md,
notes/assumptions/69.md. -/
def Obligations.CopyResults : Prop :=
  ∀ (s : State) (c : Fin 36) (q : Fin 8) (i : Ins) (x : Mv) (rows : Nat), s.issues c q i → x = Mv.of i →
    i.opcode = opMove → (s.queue c q).free (s.mvTouch c i) = true → (s.core c).dmaTags < 256 → s.mvServed x = true →
    s.mvCheck c q i = .ok → s.lenZero c q i = false → s.faultedWaiter = none → s.est.fast = [] →
    rows = s.extent c q i 1 x.rows → (∀ r < rows, s.badIn (x.src + r * x.srcStride) x.rowBytes = none) →
    (x.group = 0 → (∀ r < rows, harbourAddr (x.src + r * x.srcStride) = false ∧ harbourAddr (x.dst + r * x.dstStride) = false) →
      ∃ (t : State) (F : Flight), exec (.move c q) s = .next t ∧ s.enters t c q F [] ∧ F.ins = i ∧ F.m = rows ∧ F.done = false ∧ F.status = .ok ∧
        F.wm = F.total ∧ F.total = ceilDiv (spanOf rows x.dstStride x.rowBytes) 4096 ∧
        t.core c = { s.core c with queues := (t.core c).queues } ∧
        s.bytesBut t ((List.range rows).map (fun r => (x.dst + r * x.dstStride, x.rowBytes))) ∧
        (x.rowBytes ≤ x.dstStride ∨ rows = 1 → ∀ r < rows,
          t.bytes (x.dst + r * x.dstStride) x.rowBytes = s.bytes (x.src + r * x.srcStride) x.rowBytes)) ∧
    (x.group = 0 → ∃ (t : State) (F : Flight), exec (.move c q) s = .next t ∧ F.ins = i ∧ F.m = rows ∧ F.status = .ok ∧
      F.wm = F.total ∧ F.total = ceilDiv (spanOf rows x.dstStride x.rowBytes) 4096 ∧
      t.queue c q = { s.queue c q with
        flights := (s.queue c q).flights ++ [{ F with seq := (s.queue c q).seq, issued := s.now }],
        seq := ((s.queue c q).seq + 1) % 2 ^ 32 } ∧
      (∀ d r, ¬(d = c.val ∧ r = q.val) → t.queue d r = s.queue d r) ∧ s.coresBut t c ∧ s.semsSame t ∧
      (∀ k, memoryKey k = false → k ∉ [regKey (.sequencer c) .qPc q, regKey (.sequencer c) .issueCount 0] → t.reg k = s.reg k) ∧
      s.bytesBut t ((List.range rows).map (fun r => (x.dst + r * x.dstStride, x.rowBytes)))) ∧
    (x.group ≠ 0 → (∀ m ∈ s.members x.group, ∀ n < 4, (s.window m n).2.2.2 = false) →
      ∃ (t : State) (F : Flight), exec (.move c q) s = .next t ∧ F.ins = i ∧ F.m = rows ∧ F.status = .ok ∧
        F.wm = F.total ∧ F.total = ceilDiv (spanOf rows x.dstStride x.rowBytes) 4096 ∧
        t.queue c q = { s.queue c q with
          flights := (s.queue c q).flights ++ [{ F with seq := (s.queue c q).seq, issued := s.now }],
          seq := ((s.queue c q).seq + 1) % 2 ^ 32 } ∧
        (∀ d r, ¬(d = c.val ∧ r = q.val) → t.queue d r = s.queue d r) ∧ s.coresBut t c ∧ s.semsSame t ∧
        (∀ k, memoryKey k = false → k ∉ [regKey (.sequencer c) .qPc q, regKey (.sequencer c) .issueCount 0] → t.reg k = s.reg k) ∧
        s.bytesBut t ((s.members x.group).flatMap (fun m =>
          (List.range rows).map (fun r => (ledgeAt m x.dst + r * x.dstStride, x.rowBytes)))) ∧
        (x.rowBytes ≤ x.dstStride ∨ rows = 1 → ∀ m ∈ s.members x.group, ∀ r < rows,
          t.bytes (ledgeAt m x.dst + r * x.dstStride) x.rowBytes = s.bytes (x.src + r * x.srcStride) x.rowBytes))

/-- INSTRUCTION_COMPLETE of a MATMUL, RSTEP, VCHAIN or MOVE whose work the hardware has finished (R60, R73, R74, R80, R86, R89, R93,
R189): it completes with OK; PASS_COUNT rises for the instructions of the arrays and the vector engine, the array's pass count
for its products, the multicast page's for a multicast, and RSTEP_CHUNK_COUNT by the chunks committed; a product leaves its
array with its last block ACTIVE. A MOVE whose link has failed, on a queue whose policy is HALT (R96 to R98): with nothing else
in flight and no post ADD the queue is HALTED at the instruction, with E_LINK as its last status and the units committed as its
watermark, and QUEUE_HALTED is raised; the core is free. It rests on readings and choices of the model: notes/assumptions/9.md,
notes/assumptions/11.md, notes/assumptions/12.md, notes/assumptions/69.md, notes/assumptions/87.md. -/
def Obligations.CompletionResults : Prop :=
  (∀ (s : State) (c : Fin 36) (q : Fin 8) (f : Flight) (wm : Nat), s.lone c q f →
      (f.ins.opcode = opMove → ∃ t, exec (.instructionComplete c q f.seq .finished wm []) s = .next t ∧
        s.finishes t c q f (if bits f.w2 55 48 = 0 then [] else [regKey .multicast .mcastMoveCount 0]) ∧
        (bits f.w2 55 48 ≠ 0 → t.rd .multicast .mcastMoveCount 0 = s.counted .multicast .mcastMoveCount 0 1) ∧
        (t.core c).a0 = (s.core c).a0 ∧ (t.core c).a1 = (s.core c).a1) ∧
      (f.ins.opcode = opVchain → ∃ t, exec (.instructionComplete c q f.seq .finished wm []) s = .next t ∧
        s.finishes t c q f [regKey (.sequencer c) .passCount 0] ∧ (t.core c).a0 = (s.core c).a0 ∧ (t.core c).a1 = (s.core c).a1 ∧
        t.rd (.sequencer c) .passCount 0 = s.counted (.sequencer c) .passCount 0 1) ∧
      (f.ins.opcode = opMatmul ∨ f.ins.opcode = opRstep → f.visited ≠ 0 →
        ∃ t, exec (.instructionComplete c q f.seq .finished wm []) s = .next t ∧
          s.finishes t c q f ([regKey (.sequencer c) .passCount 0, regKey (.array c) .aPassCount f.arr,
            regKey (.array c) .aSwapStallCycles f.arr, regKey (.array c) .aLedgeStallCycles f.arr] ++
            (if f.ins.opcode = opRstep then [regKey (.recurrent c) .rstepChunkCount 0, regKey (.recurrent c) .maskedPassCount 0,
              regKey (.recurrent c) .resetAppliedCount 0, regKey (.recurrent c) .driftHighCount 0,
              regKey (.array c) .aStreamCycles f.arr] ++ eventKeys (.recurrent c) else [])) ∧
          (t.core c).arr f.arr = ((s.core c).arr f.arr).finish f (s.blockAt c) ∧
          (t.core c).arr (1 - f.arr) = (s.core c).arr (1 - f.arr) ∧
          t.rd (.sequencer c) .passCount 0 = s.counted (.sequencer c) .passCount 0 1 ∧
          t.rd (.array c) .aPassCount f.arr = s.counted (.array c) .aPassCount f.arr 1 ∧
          (f.ins.opcode = opRstep → t.rd (.recurrent c) .rstepChunkCount 0 =
            s.counted (.recurrent c) .rstepChunkCount 0 (f.chunks.take f.wm).length) ∧
          (f.ins.opcode = opMatmul → (Mm.of f.ins).outScore = true → (t.core c).scoreDone = true))) ∧
  (∀ (s : State) (c : Fin 36) (q : Fin 8) (f : Flight) (wm : Nat), s.lone c q f → f.ins.opcode = opMove →
      f.ins.postEn = false → bit1 (s.rd (.sequencer c) .qCfg q) 2 = false →
      ∃ t, exec (.instructionComplete c q f.seq .link wm []) s = .next t ∧ (t.queue c q).state = .halted ∧
        (t.queue c q).flights = [] ∧ (t.queue c q).lastStatus = Status.eLink.code ∧ (t.queue c q).watermark = min wm f.total ∧
        (t.queue c q).failSeq = f.seq ∧ t.rd (.sequencer c) .qPc q = setBits (s.rd (.sequencer c) .qPc q) 47 5 (f.pc / 32) ∧
        bit1 (t.rd (.sequencer c) .event 0) 0 = true ∧ (t.core c).holder = none ∧ s.semsSame t ∧
        ∀ d r, ¬(d = c.val ∧ r = q.val) → t.queue d r = s.queue d r)

/-- TILE_PASS_BOUNDARY (R60, R78, R93, R94, R296): PASS_COUNT rises and, while no queue of a higher class is ready, nothing else
happens but that a product may have gone on by some of its weight blocks; with one ready the holder lets the core go to the
first of the highest class, and PREEMPT_COUNT rises. ARRIVAL_GATE_OPEN (R136): the groups that the gate lets in have entered,
and with the last of them the product leaves its gate. DEADLINE_PASSED (R29, R93): the work of a queue is late once its deadline
lies before the present, so that its instruction on the arrays ends with E_DEADLINE at its next tile-pass boundary, with the
tiles committed by then; a deadline of 0, and one that has not passed, changes nothing. It rests on readings and choices of the
model: notes/assumptions/9.md, notes/assumptions/61.md, notes/assumptions/68.md, notes/assumptions/69.md,
notes/assumptions/70.md. -/
def Obligations.PassBoundaryResults : Prop :=
  (∀ (s : State) (c : Fin 36) (q : Fin 8) (f : Flight), s.up → s.coreMoves c = true →
      (∀ n, (s.core c).holder = some q.val → (s.queue c q).flights = [f] → f.done = false → opHolds f.ins.opcode = true →
        (f.product = true → f.visited ≠ 0) → (∀ r < 8, ∀ g ∈ (s.queue c r).flights, g.ins.opcode ≠ opWload) →
        f.stopping = false → s.late c q = false → s.higherReady c q = false →
        ∃ (t : State) (v : Nat), exec (.tilePassBoundary c n) s = .next t ∧
          t = { s with regs := t.regs, cores := t.cores, freeIx := t.freeIx } ∧
          t.rd (.sequencer c) .passCount 0 = s.counted (.sequencer c) .passCount 0 1 ∧
          s.regsBut t [regKey (.sequencer c) .passCount 0] ∧ s.coresBut t c ∧
          t.core c = { s.core c with queues := (t.core c).queues, a0 := (t.core c).a0, a1 := (t.core c).a1 } ∧
          t.queue c q = { s.queue c q with flights := [{ f with visited := v }] } ∧ f.visited ≤ v ∧ v ≤ max f.visited f.blocks.length ∧
          (∀ r, r ≠ q.val → t.queue c r = s.queue c r) ∧
          (f.product = false → v = f.visited ∧ (t.core c).a0 = (s.core c).a0 ∧ (t.core c).a1 = (s.core c).a1)) ∧
      (∀ n y, (s.core c).holder = some q.val → (s.queue c q).onUnit = some f → f.stopping = false → s.late c q = false →
        s.higherReady c q = true → y < 8 → (s.queue c y).state = .running → s.qClass c y < s.qClass c q →
        (∀ r < 8, r ≠ y → (s.queue c r).state = .running → s.qClass c y < s.qClass c r) →
        ∃ t, exec (.tilePassBoundary c n) s = .next t ∧ (t.core c).holder = some y ∧ (t.core c).prevHolder = q.val ∧
          t.rd (.sequencer c) .passCount 0 = s.counted (.sequencer c) .passCount 0 1 ∧
          t.rd (.sequencer c) .preemptCount 0 = s.counted (.sequencer c) .preemptCount 0 1) ∧
      ((s.queue c q).flights = [f] → f.gated = true → f.done = false → f.status = .ok → f.groups < s.gateOpen c q f →
        s.gateOpen c q f < ceilDiv f.m (rowsPerGroup (Mm.of f.ins).fa) → (Chain.ofWords f.chainW).gateEn = true →
        ∃ t, exec (.arrivalGateOpen c q) s = .next t ∧ s.memSame t ∧ s.cacheSame t ∧ s.semsSame t ∧
          s.regsBut t [regKey (.vector c) .arrivalWaitCycles 0] ∧
          (t.queue c q).flights = [{ f with groups := s.gateOpen c q f, total := ceilDiv f.m 64 * ceilDiv f.n 64 }] ∧
          ∀ d r, ¬(d = c.val ∧ r = q.val) → t.queue d r = s.queue d r) ∧
      ((s.queue c q).flights = [f] → f.gated = true → f.done = false → f.status = .ok → f.groups < s.gateOpen c q f →
        s.gateOpen c q f = ceilDiv f.m (rowsPerGroup (Mm.of f.ins).fa) →
        ∃ t g, exec (.arrivalGateOpen c q) s = .next t ∧ (t.queue c q).flights = [g] ∧ g.gated = false ∧
          g.groups = s.gateOpen c q f ∧ g.seq = f.seq ∧ g.ins = f.ins ∧ s.semsSame t ∧
          ∀ d r, ¬(d = c.val ∧ r = q.val) → t.queue d r = s.queue d r)) ∧
  (∀ (s : State) (c : Fin 36) (q : Fin 8) (d : Word), s.up → s.coreLive c = true →
      (d = 0 ∨ s.now.toNat ≤ d.toNat → exec (.deadlinePassed (.queue c q d)) s = .next s) ∧
      (d ≠ 0 → d.toNat < s.now.toNat → exec (.deadlinePassed (.queue c q d)) s =
        .next (s.setQueue c q { s.queue c q with deadline := d })) ∧
      (∀ f n, s.coreMoves c = true → (s.core c).holder = some q.val → (s.queue c q).flights = [f] → f.done = false →
        f.ins.opcode = opVchain → f.aborted = false → f.fatal = false → f.gated = false → f.ins.postEn = false →
        (∀ x ∈ f.counts, x.1 = .vector c) →
        (s.queue c q).state = .running → (s.queue c q).deadline ≠ 0 → (s.queue c q).deadline.toNat < s.now.toNat →
        bit1 (s.rd (.sequencer c) .qCfg q) 2 = false → s.faultedWaiter = none → s.est.fast = [] → (s.core c).waiting = [] →
        ∃ t, exec (.tilePassBoundary c n) s = .next t ∧ (t.queue c q).state = .halted ∧
          (t.queue c q).lastStatus = Status.eDeadline.code ∧ (t.queue c q).watermark = min n f.total))

/-- Doorbells of a queue (R78, R99) on a core whose handshake is RUNNING, where no queue waits for a DMA tag, held by another queue
of the same or a higher class that keeps it: a start doorbell leaves an IDLE or HALTED queue RUNNING with sequence number 0 and
nothing in flight, and a resume doorbell leaves a HALTED queue RUNNING with its sequence number; nothing else changes. On a core
that no queue holds or waits for, the queue that starts holds it. An abort doorbell on a queue that waits in a WAIT_GE leaves it
HALTED there with E_ABORT. It rests on readings and choices of the model: notes/assumptions/11.md, notes/assumptions/12.md. -/
def Obligations.DoorbellResults : Prop :=
  ∀ (s : State) (c : Fin 36) (q : Fin 8), s.up → s.coreLive c = true →
    (∀ r, (s.queue c r).state = .waiting → (s.queue c r).inWaitGe = true) →
    (∀ h, s.live (.sequencer c) = .running → (s.core c).holder = some h → h ≠ q.val → ((s.core c).queue h).keeps = true →
      s.qClass c h ≤ s.qClass c q → s.higherReady c h = false →
      ((s.queue c q).state = .idle ∨ (s.queue c q).state = .halted →
        ∃ t, exec (.queueStart c q) s = .next t ∧ t = { s with cores := t.cores } ∧ s.coresBut t c ∧
          t.core c = { s.core c with queues := (t.core c).queues, stopping := false } ∧
          t.queue c q = { s.queue c q with state := .running, discarding := false, flights := [], seq := 0, runStatus := 0,
                                           deadline := 0 } ∧
          ∀ r, r ≠ q.val → t.queue c r = s.queue c r) ∧
      ((s.queue c q).state = .halted →
        ∃ t, exec (.queueResume c q) s = .next t ∧ t = { s with cores := t.cores } ∧ s.coresBut t c ∧
          t.core c = { s.core c with queues := (t.core c).queues, stopping := false } ∧
          t.queue c q = { s.queue c q with state := .running, discarding := false, flights := [] } ∧
          ∀ r, r ≠ q.val → t.queue c r = s.queue c r)) ∧
    (s.live (.sequencer c) = .running → (s.core c).holder = none → (∀ r < 8, (s.queue c r).state ≠ .running) →
      (s.queue c q).state = .idle → ∃ t, exec (.queueStart c q) s = .next t ∧ (t.core c).holder = some q.val ∧
        (t.queue c q).state = .running ∧ (t.queue c q).seq = 0 ∧ (t.queue c q).flights = [] ∧ s.semsSame t ∧ s.coresBut t c) ∧
    (∀ f h, (s.queue c q).state = .waiting → (s.queue c q).flights = [f] → f.ins.opcode = opWaitGe → f.done = false →
      f.aborted = false → f.old.taken = false → f.ins.postEn = false → (s.core c).holder = some h → h ≠ q.val → ((s.core c).queue h).keeps = true →
      s.higherReady c h = false → (s.core c).waiting = [] → s.faultedWaiter = none → s.est.fast = [] →
      ∃ t, exec (.queueAbort c q) s = .next t ∧ (t.queue c q).state = .halted ∧ (t.queue c q).flights = [] ∧
        (t.queue c q).lastStatus = Status.eAbort.code ∧
        t.rd (.sequencer c) .qPc q = setBits (s.rd (.sequencer c) .qPc q) 47 5 (f.pc / 32) ∧
        bit1 (t.rd (.sequencer c) .event 0) 0 = true ∧ s.semsSame t)

/-- Writes of a core's own registers (R135, R143, R166, R189): a write of ARRIVEn gives the register its fields, resets its pointer
and forgets what has landed in that window; a write of STAT_REGION, SCORE_CTRL, RECUR_CTRL, DRIFT_THRESHOLD or DRIFT_LOG takes
effect at once while no instruction in flight holds it back, and otherwise waits behind those that wait, with its counter_clear
where it has one; a value of 3 in state_rnd is ignored. A write of SCORE_CTRL or RECUR_CTRL whose counter_clear is 1 and that no
instruction in flight holds back clears its page's counters (R75, R166, R167, R189). It rests on a reading or choice of the
model: notes/assumptions/64.md. -/
def Obligations.CoreRegisterResults : Prop :=
  (∀ (s : State) (c : Fin 36) (v : Word), s.up → s.coreLive c = true →
      (∀ n : Fin 4, ∃ t, exec (.arriveWrite c n v) s = .next t ∧
        t.rd (.vector c) .arrive n =
          (s.rd (.vector c) .arrive n &&& ~~~ RegName.mask .arrive .rw) ||| (v &&& RegName.mask .arrive .rw) ∧
        t.rd (.vector c) .arrivePtr n = 0 ∧ s.regsBut t [regKey (.vector c) .arrive n, regKey (.vector c) .arrivePtr n] ∧
        t.core c = { s.core c with
          landed := KeySet.delRange (s.core c).landed (2 ^ 20 * n.val) (2 ^ 20 * (n.val + 1))
          landing := (s.core c).landing.filter (fun p => p.1 < 2 ^ 20 * n.val || 2 ^ 20 * (n.val + 1) ≤ p.1) } ∧
        s.coresBut t c ∧ t = { s with regs := t.regs, cores := t.cores }) ∧
      (∀ (p : Pg) (r : RegName) (i : Instr) (b : Option Nat), (p, r, i, b) ∈
          [(.vector c, RegName.statRegion, Instr.statRegionWrite c v, none), (.score c, .scoreCtrl, .scoreCtrlWrite c v, some 19),
            (.recurrent c, .driftThreshold, .recurCtrlWrite c 1 v, none), (.recurrent c, .driftLog, .recurCtrlWrite c 2 v, none)] ++
          (if bits v 1 0 = 3 then [] else [(.recurrent c, .recurCtrl, .recurCtrlWrite c 0 v, some 7)]) →
        ((s.core c).holdsWrite p = false → (∀ w ∈ (s.core c).waiting, w.1 ≠ regKey p r 0) →
          ∃ t, exec i s = .next t ∧
            (let x := (s.rd p r 0 &&& ~~~ r.mask .rw) ||| (v &&& r.mask .rw)
             t.rd p r 0 = b.elim x (fun n => setBits x n n 0)) ∧
            ((∀ n, b = some n → bit1 v n = false) → s.regsBut t [regKey p r 0]) ∧ t = { s with regs := t.regs }) ∧
        ((s.core c).holdsWrite p = true → ∃ (t : State) (w : Word), exec i s = .next t ∧
          w &&& r.mask .rw = v &&& r.mask .rw ∧ (∀ n, b = some n → bit1 w n = bit1 v n) ∧
          t.core c = { s.core c with waiting := (s.core c).waiting ++ [(regKey p r 0, w)] } ∧
          s.coresBut t c ∧ t = { s with cores := t.cores })) ∧
      (bits v 1 0 = 3 → exec (.recurCtrlWrite c 0 v) s = .next s)) ∧
  (∀ (s : State) (c : Fin 36) (v : Word), s.up → s.coreLive c = true →
      (bit1 v 19 = true → (s.core c).holdsWrite (.score c) = false → ∃ t, exec (.scoreCtrlWrite c v) s = .next t ∧
        t.rd (.score c) .scoreTilesWritten 0 = 0 ∧ t.rd (.score c) .scoreTilesRead 0 = 0 ∧ t.rd (.score c) .scoreMasked 0 = 0) ∧
      (bit1 v 7 = true → bits v 1 0 ≠ 3 → (s.core c).holdsWrite (.recurrent c) = false →
        ∃ t, exec (.recurCtrlWrite c 0 v) s = .next t ∧
          t.rd (.recurrent c) .rstepChunkCount 0 = 0 ∧ t.rd (.recurrent c) .driftHighCount 0 = 0))

/-! ### Registers and pages -/

/-- An EVENT bit that hardware sets (R468): each set adds one to EVENT_COUNT, whether or not the bit was set, up to 2^64 − 1, and
gives LAST_EVENT_TIME the tideline time; two sets add two; the mask changes none of this, and a page is pending exactly while an
EVENT bit that its mask does not cover is set, and ALERT_N is asserted while a page with alert_en is pending or an ALERT row is
fired. -/
def Obligations.EventSetIsCounted : Prop :=
  ∀ (s : State) (p : Pg) (a b : Nat) (m : Word), a < 32 → b < 32 →
    s.raised (s.event p b) p b ∧ bit1 ((s.event p b).rd p .event 0) b = true ∧
    s.regsBut (s.event p b) (eventKeys p) ∧ (s.event p b) = { s with regs := (s.event p b).regs } ∧
    ((s.event p b).rd p .eventCount 0).toNat = min ((s.rd p .eventCount 0).toNat + 1) (2 ^ 64 - 1) ∧
    (((s.event p a).event p b).rd p .eventCount 0).toNat = min ((s.rd p .eventCount 0).toNat + 2) (2 ^ 64 - 1) ∧
    ((s.wr p .eventMask 0 m).event p b).rd p .event 0 = (s.event p b).rd p .event 0 ∧
    ((s.wr p .eventMask 0 m).event p b).rd p .eventCount 0 = (s.event p b).rd p .eventCount 0 ∧
    ((s.wr p .eventMask 0 m).event p b).rd p .lastEventTime 0 = s.now ∧
    (s.pendingEvent p = true ↔ ∃ k < 64, bit1 (s.rd p .event 0) k = true ∧ bit1 (s.rd p .eventMask 0) k = false) ∧
    (bit1 (s.pageStat p) 1 = s.pendingEvent p) ∧
    (s.alertN = true ↔ s.firedWith [1] = true ∨ ∃ (i : Nat) (d : Pg), i < 541 ∧ Pg.ofIndex i = some d ∧ s.present d = true ∧
      bit1 (s.rd d .pageCtrl 0) 0 = true ∧ s.pendingEvent d = true)

/-- Counters (R75): a counter that counts rises by its amount and saturates at 2^64 − 1; and one that rises after its page's
counters were cleared reads the amount of that rise. -/
def Obligations.CountersSaturate : Prop :=
  ∀ (s : State) (p : Pg) (r : RegName) (i n : Nat),
    (s.counting p = true → ((s.bump p r i n).rd p r i).toNat = min ((s.rd p r i).toNat + n) (2 ^ 64 - 1)) ∧
    (s.counting p = false → s.bump p r i n = s) ∧ s.regsBut (s.bump p r i n) [regKey p r i] ∧
    (r ∈ countersOf p.type → i < r.entries → (s.clearCounters p).counting p = true → n < 2 ^ 64 →
      (((s.clearCounters p).bump p r i n).rd p r i).toNat = n)

/-- COUNTER_CLEAR, EVENT_CLEAR and EVENT_COUNT_CLEAR (R11, R75, R166, R189, R258, R468, R469) on a page that answers: every counter
of the page reads 0, on the score-store and the recurrent page as soon as no instruction in flight holds the write; on a Harbour
page the time outside SERVICE starts again from now; the EVENT bits written with 1 are clear and the others stay; EVENT_COUNT
reads 0; no other register changes, nor anything else. REGISTER_WRITE by an agent on the device and REG_WRITE over MCTP (R10,
R11, R460, R466, R468): a register whose fields are RW takes the written value in those fields and keeps its other bits,
EVENT_MASK as those of the pages whose chapters confine nothing; EVENT is cleared where 1 is written; an offset that the page
does not map ignores the write; and beside the register nothing changes but, over MCTP, the answer. It rests on readings and
choices of the model: notes/assumptions/2.md, notes/assumptions/60.md. -/
def Obligations.RegisterWriteResults : Prop :=
  (∀ (s : State) (n : BitVec 14) (p : Pg), Pg.ofIndex n.toNat = some p → s.answersAt p = true → s.agentReaches n.toNat 2 = true →
      (p.type.counterCtl.isSome = true → p.type ≠ .score → p.type ≠ .recurrent → ∃ t, exec (.counterClear n) s = .next t ∧
        (∀ r ∈ countersOf p.type, ∀ i < r.entries, t.rd p r i = 0) ∧
        t = { s with regs := t.regs, sys := { s.sys with modeSince := t.sys.modeSince } } ∧
        (∀ h, (p = .harbour h → s.fld p .hbStat 0 21 19 = 0) → FMap.get 0 t.sys.modeSince h.val = FMap.get 0 s.sys.modeSince h.val) ∧
        s.regsBut t ((countersOf p.type).flatMap (fun r => (List.range r.entries).map (regKey p r)) ++
          [regKey .scheduler .schedMaxReflexWait 0])) ∧
      (∀ (c : Fin 36) ctl clr en, p = .score c ∨ p = .recurrent c → p.type.counterCtl = some (ctl, clr, en) →
        (s.core c).waiting = [] →
        ((s.core c).holdsWrite p = false → ∃ t, exec (.counterClear n) s = .next t ∧
          (∀ r ∈ countersOf p.type, ∀ i < r.entries, t.rd p r i = 0) ∧ t = { s with regs := t.regs } ∧
          s.regsBut t (regKey p ctl 0 :: (countersOf p.type).flatMap (fun r => (List.range r.entries).map (regKey p r)))) ∧
        ((s.core c).holdsWrite p = true → ∃ t v, exec (.counterClear n) s = .next t ∧ bit1 v clr = true ∧
          (t.core c).waiting = [(regKey p ctl 0, v)] ∧ t = { s with cores := t.cores })) ∧
      (∀ v, ∃ t, exec (.eventClear n v) s = .next t ∧ t.rd p .event 0 = s.rd p .event 0 &&& ~~~ v.setWidth 64 ∧
        s.regsBut t [regKey p .event 0] ∧ t = { s with regs := t.regs }) ∧
      (∃ t, exec (.eventCountClear n) s = .next t ∧ t.rd p .eventCount 0 = 0 ∧ s.regsBut t [regKey p .eventCount 0] ∧
        t = { s with regs := t.regs })) ∧
  (∀ (s : State) (o : Fin 3) (a : BitVec 48) (v : Word) (safe : Bool) (pg off : Nat) (p : Pg), pageOf a.toNat = some (pg, off) →
      Pg.ofIndex pg = some p → s.answersAt p = true → s.agentReaches pg o = true → s.standby = true →
      (s.sys.dry = true → 1 ≤ pg ∧ pg ≤ 4) → (s.sys.dry = false → s.sys.failed = false) →
      (∀ r j x, findReg p.type off = some (r, j, x) →
        (r = .eventMask ∧ j = 0 ∨ ((p.type = .update ∨ p.type = .array) ∧ r ∈ (regsOf p.type).map (·.1) ∧
          ∀ ctl clr e, p.type.counterCtl = some (ctl, clr, e) → r ≠ ctl ∨ bit1 v clr = false)) →
        (∃ t, exec (.registerWrite o a v) s = .next t ∧ t.rd p r j = (s.rd p r j &&& ~~~ r.mask .rw) ||| (v &&& r.mask .rw) ∧
          s.regsBut t [regKey p r j] ∧ t = { s with regs := t.regs }) ∧
        (∃ t, exec (.regWrite (a.setWidth 64) v safe) s = .next t ∧
          t.rd p r j = (s.rd p r j &&& ~~~ r.mask .rw) ||| (v &&& r.mask .rw) ∧
          s.regsBut t [regKey p r j] ∧ t = { s with regs := t.regs, out := s.out ++ [.mctp 2 .ok []] })) ∧
      (∀ x, findReg p.type off = some (.event, 0, x) →
        ∃ t, exec (.registerWrite o a v) s = .next t ∧ t.rd p .event 0 = s.rd p .event 0 &&& ~~~ v ∧
          s.regsBut t [regKey p .event 0] ∧ t = { s with regs := t.regs }) ∧
      (findReg p.type off = none → exec (.registerWrite o a v) s = .next s))

/-- Reads of control space (R10, R308, R313, R433, R458, R460, R461): REG_READ over MCTP and a read of one register on the
management window, whose context is cached, answer with the register's 8 bytes, and with zero for an offset that is not mapped;
an address outside control space is E_ADDR, and a window access that is not 8-byte aligned is refused and counted; beside these
only the packet of the window access is counted. SUP_MRAM_DATA_READ (R408, R414, R418): a read of the window answers with the 8
bytes of MRAM at SUP_MRAM_ADDR and moves the address on by 8; while standby is lost it reads zero. It rests on readings and
choices of the model: notes/assumptions/55.md, notes/assumptions/60.md, notes/assumptions/62.md. -/
def Obligations.RegisterReadResults : Prop :=
  (∀ (s : State) (a : Word) (pg off : Nat) (p : Pg) (q : Qp), s.standby = true →
      (pageOf a.toNat = some (pg, off) → Pg.ofIndex pg = some p → (s.sys.dry = true → 1 ≤ pg ∧ pg ≤ 4) →
        (∀ r j x, findReg p.type off = some (r, j, x) → r ≠ .supMramData → r ≠ .tidelineNow → s.answersAt p = true →
          exec (.regRead a) s = .next { s with out := s.out ++ [.mctp 1 .ok (leBytes (s.value p r j).toNat 8)] } ∧
          (s.windowServes q → exec (.mgmtWindowAccess a (.read 8)) s =
            .next { (s.ctxLook 1 1).2 with
              out := s.out ++ [.readData 1 (leBytes ((s.ctxLook 1 1).2.value p r j).toNat 8)] })) ∧
        (findReg p.type off = none →
          exec (.regRead a) s = .next { s with out := s.out ++ [.mctp 1 .ok (leBytes 0 8)] })) ∧
      (pageOf a.toNat = none → exec (.regRead a) s = .next { s with out := s.out ++ [.mctp 1 .eAddr []] }) ∧
      (s.windowServes q →
        (∀ n, s.regsBut (s.ctxLook 1 n).2 [regKey .estuary .estRxPkts 0, regKey .estuary .estCtxHits 0] ∧
          (s.ctxLook 1 n).2.rd .estuary .estRxPkts 0 = s.counted .estuary .estRxPkts 0 n ∧
          (s.ctxLook 1 n).2 = { s with regs := (s.ctxLook 1 n).2.regs, est := { s.est with cache := (s.ctxLook 1 n).2.est.cache } }) ∧
        (∀ op, a.toNat % 8 ≠ 0 → ∃ t, exec (.mgmtWindowAccess a op) s = .next t ∧
          t = { s with regs := t.regs, est := { s.est with cache := t.est.cache }, out := s.out ++ [.nak 1 0] } ∧
          t.rd .estuary .estMgmtRejects 0 = s.counted .estuary .estMgmtRejects 0 1 ∧
          s.regsBut t [regKey .estuary .estMgmtRejects 0, regKey .estuary .estRxPkts 0, regKey .estuary .estCtxHits 0]))) ∧
  (∀ s : State, s.up →
      (s.standby = true → ∃ t, exec .supMramDataRead s = .next t ∧
        t.out = s.out ++ [.register 0x3F00000040A0 (BitVec.ofNat 64 (leNat ((List.range 8).map (fun i =>
          s.mramByte (8 * s.fld .tidewatch .supMramAddr 0 19 3 + i)))))] ∧
        t.fld .tidewatch .supMramAddr 0 19 3 = (s.fld .tidewatch .supMramAddr 0 19 3 + 1) % 2 ^ 17 ∧
        s.regsBut t [regKey .tidewatch .supMramAddr 0] ∧ t = { s with regs := t.regs, out := t.out, freeIx := s.freeIx + 1 }) ∧
      (s.standby = false → exec .supMramDataRead s = .next { s with out := s.out ++ [.register 0x3F00000040A0 0] }))

/-! ### The LIVE handshake -/

/-- The handshake of a governing page (R393, R394): a QUIESCE or a DRAIN of a block that is RUNNING begins it for its owner, where
no slice of self-test runs on a core; a DRAIN turns a quiesce into a drain; a request of another owner but Tidewatch is ignored;
RESUME of a block that is RUNNING is ignored and otherwise returns it to RUNNING; nothing but the page's handshake changes.
LIVE_BOUNDARY_REACHED (R393, R394): a block whose work is over completes its handshake, which counts one transition more; a
block that is not at its boundary goes on. It rests on readings and choices of the model: notes/assumptions/2.md,
notes/assumptions/50.md. -/
def Obligations.HandshakeResults : Prop :=
  (∀ (s : State) (n : BitVec 14) (p : Pg) (o : Fin 3) (l : Live), s.up → Pg.ofIndex n.toNat = some p → p.governing = some p →
      s.present p = true → s.swapping p = false → l = s.liveRec p →
      (∀ c, p = .sequencer c → FMap.get none s.sys.slices (s.physOf c) = none ∧ s.sys.granted.contains (s.physOf c) = false) →
      (l.state = .running →
        exec (.quiesce n o) s = .next (s.setLive p { l with state := .quiescing, owner := o }) ∧
        exec (.drain n o) s = .next (s.setLive p { l with state := .draining, owner := o }) ∧
        exec (.resume n o) s = .next s) ∧
      (l.state ≠ .running → l.owner ≠ o.val → o.val ≠ 2 →
        exec (.quiesce n o) s = .next s ∧ exec (.drain n o) s = .next s ∧ exec (.resume n o) s = .next s) ∧
      (l.state = .quiescing → l.owner = o.val ∨ o.val = 2 →
        exec (.drain n o) s = .next (s.setLive p { l with state := .draining, owner := o })) ∧
      (l.state ≠ .running → l.owner = o.val ∨ o.val = 2 → (∀ c, p ≠ .sequencer c) → (∀ q, p ≠ .twPort q) →
        exec (.resume n o) s = .next (s.setLive p { l with state := .running, held := false })) ∧
      (∀ c h, l.state ≠ .running → l.owner = o.val ∨ o.val = 2 → p = .sequencer c → (s.core c).heldBells = [] →
        (s.core c).holder = some h → ((s.core c).queue h).keeps = true → s.higherReady c h = false →
        (∀ r, (s.queue c r).state = .waiting → (s.queue c r).inWaitGe = true) →
        ∃ t, exec (.resume n o) s = .next t ∧ t.liveRec p = { l with state := .running, held := false } ∧
          (∀ d r, t.queue d r = s.queue d r) ∧ t = { s with lives := t.lives, cores := t.cores }) ∧
      (∀ q, l.state ≠ .running → l.owner = o.val ∨ o.val = 2 → p = .twPort q →
        ∃ t, exec (.resume n o) s = .next t ∧ t.liveRec p = { l with state := .running, held := false })) ∧
  (∀ (s : State) (n : BitVec 14) (p : Pg) (l : Live), s.up → Pg.ofIndex n.toNat = some p → p.governing = some p →
      s.swapping p = false → l = s.liveRec p →
      (l.state = .quiescing → s.atBoundary p false = true → ∃ t, exec (.liveBoundaryReached n) s = .next t ∧
        t.liveRec p = { l with state := .quiesced, transitions := (l.transitions + 1) % 65536 } ∧
        (∀ d, d ≠ p → t.liveRec d = s.liveRec d) ∧ t.mem = s.mem ∧ s.semsSame t ∧ t.cores = s.cores) ∧
      (l.state = .draining → s.atBoundary p true = true → ∃ t, exec (.liveBoundaryReached n) s = .next t ∧
        t.liveRec p = { l with state := .drained, transitions := (l.transitions + 1) % 65536 } ∧
        (∀ d, d ≠ p → t.liveRec d = s.liveRec d) ∧ t.mem = s.mem ∧ s.semsSame t ∧ t.cores = s.cores) ∧
      (l.state = .quiescing → s.atBoundary p false = false → exec (.liveBoundaryReached n) s = .next s) ∧
      (l.state = .draining → s.atBoundary p true = false → exec (.liveBoundaryReached n) s = .next s) ∧
      (l.state = .running → exec (.liveBoundaryReached n) s = .next s))

/-! ### The tideline -/

/-- Ticks and slots (R26, R27): an edge inside the window begins a tick at the edge, and in modes TICK and TICK_PTP tells the
discipline of it; one outside it is ignored and raises TICK_EDGE_REJECT, and the first edge of a new period begins tick 0; a
tick of the internal period begins at its expected time once that has come, and so does one whose window closes without an edge,
with its slot counted from there and one missed edge more; and a slot begins when its time has come. Tick configuration (R27,
R34): while ticks run, a write waits for the first tick start after it; a period of 1 to 3,999 is ignored; a period of 0 ends
the running tick at once; while there are no ticks a write takes effect at once and a period other than 0 arms the first tick.
It rests on readings and choices of the model: notes/assumptions/2.md, notes/assumptions/9.md, notes/assumptions/27.md,
notes/assumptions/71.md, notes/assumptions/76.md. -/
def Obligations.TickResults : Prop :=
  (∀ (s : State) (j : Fin 3) (at_ : Nat), at_ = s.now.toNat + j.val - 1 → s.tide.per ≠ 0 →
      (s.tide.internal = false → s.tide.running = true →
        s.tide.widened = true ∨ (s.tide.expected ≤ at_ + s.tide.tolerance ∧ at_ ≤ s.tide.expected + s.tide.tolerance) →
        ∃ t, exec (.tickInEdge j) s = .next t ∧ t.tide.missed = 0 ∧ t.tide.widened = false ∧
          s.ticks t at_ 0 (if s.edgeTells then regKey .tideline .discStat 0 :: eventKeys .tideline else [])) ∧
      (s.tide.internal = false → s.tide.running = true → s.tide.widened = false →
        ¬(s.tide.expected ≤ at_ + s.tide.tolerance ∧ at_ ≤ s.tide.expected + s.tide.tolerance) →
        ∃ t, exec (.tickInEdge j) s = .next t ∧ s.raised t .tideline 4 ∧ s.regsBut t (eventKeys .tideline) ∧
          t = { s with regs := t.regs }) ∧
      (s.tide.internal = false → s.tide.running = false → s.tide.armed.isSome = true →
        ∃ t, exec (.tickInEdge j) s = .next t ∧ s.ticks t at_ 0 []) ∧
      (s.tide.internal = true → s.tide.running = true → s.tide.expected ≤ s.now.toNat →
        ∃ t, exec .tickStart s = .next t ∧ s.ticks t s.tide.expected 0 []) ∧
      (∀ w, s.tide.internal = true → s.tide.running = false → s.tide.armed = some w →
        firstMultiple s.tide.per w.toNat ≤ s.now.toNat →
        ∃ t, exec .tickStart s = .next t ∧ s.ticks t (firstMultiple s.tide.per w.toNat) 0 []) ∧
      (s.tide.internal = false → s.tide.running = true → s.tide.widened = false → s.tide.waiting = [] →
        s.tide.missed + 1 < s.tide.limit → s.tide.expected + s.tide.tolerance ≤ s.now.toNat → s.tide.expected < 2 ^ 64 →
        ∃ t, exec .tickWindowClose s = .next t ∧ t.tide.missed = s.tide.missed + 1 ∧
          s.ticks t s.tide.expected (min (s.tide.slots - 1) ((s.now.toNat - s.tide.expected) / max 1 s.tide.slotLen)) []) ∧
      (s.tide.running = true → s.fld .tideline .tickNow 0 47 40 + 1 < s.tide.slots →
        s.sys.dry = true ∨ bit1 (s.rd .selfTest .stCtrl 0) 2 = false →
        s.tide.start.toNat + (s.fld .tideline .tickNow 0 47 40 + 1) * s.tide.slotLen ≤ s.now.toNat →
        ∃ t, exec .slotStart s = .next t ∧ t.fld .tideline .tickNow 0 47 40 = s.fld .tideline .tickNow 0 47 40 + 1 ∧
          t.fld .tideline .tickNow 0 39 0 = s.fld .tideline .tickNow 0 39 0 ∧ s.regsBut t [regKey .tideline .tickNow 0] ∧
          t = { s with regs := t.regs })) ∧
  (∀ (s : State) (v : Word), s.standby = true →
      (1 ≤ bits v 31 0 → bits v 31 0 ≤ 3999 → exec (.tickinPeriodWrite v) s = .next s) ∧
      (bits v 31 0 = 0 → ∃ t, exec (.tickinPeriodWrite v) s = .next t ∧ t.tide.running = false ∧ t.tide.armed = none ∧
        t.tide.per = 0 ∧ t.tide.waiting = [] ∧ s.regsBut t [regKey .tideline .tickinPeriod 0] ∧
        t = { s with regs := t.regs, tide := t.tide }) ∧
      (∀ w, w = ((s.rd .tideline .tickinPeriod 0 &&& ~~~ RegName.mask .tickinPeriod .rw) ||| (v &&& RegName.mask .tickinPeriod .rw)) →
        3999 < bits v 31 0 → ∃ t, exec (.tickinPeriodWrite v) s = .next t ∧ t.rd .tideline .tickinPeriod 0 = w ∧
          s.regsBut t [regKey .tideline .tickinPeriod 0] ∧ t = { s with regs := t.regs, tide := t.tide } ∧
          t.tide = (if s.tide.running then { s.tide with waiting := s.tide.waiting ++ [⟨s.now, false, w⟩] }
                    else { s.tide with period := w, armed := some s.now, missed := 0, widened := false })) ∧
      (∀ w, w = ((s.rd .tideline .tickCfg 0 &&& ~~~ RegName.mask .tickCfg .rw) ||| (v &&& RegName.mask .tickCfg .rw)) →
        ∃ t, exec (.tickCfgWrite v) s = .next t ∧ t.rd .tideline .tickCfg 0 = w ∧
          s.regsBut t [regKey .tideline .tickCfg 0] ∧ t = { s with regs := t.regs, tide := t.tide } ∧
          (s.tide.running = true → t.tide = { s.tide with waiting := s.tide.waiting ++ [⟨s.now, true, w⟩] }) ∧
          (s.tide.running = false → t.tide.cfg = w ∧ t.tide.period = s.tide.period)))

/-- The discipline (R23, R24, R25, R35, R408): in modes PTP and TICK_PTP a measurement on the port that DISC_CTRL names, whose link
is up, disciplines the count, and in every other case one changes nothing; so does an accepted edge in mode TICK; one forward
step of more than 4,000,000 units is made where it may be; the loss of the reference leads to HOLDOVER. The records of the
count, the pulse, the alarm and the time stamps of PTP (R22, R34, R306, R481): the last whole second passed is recorded; PPS_OUT
is high in the first 100 ms of a second; an alarm that has come wakes a module in Dry; and an event message at a port that is up
is stamped with the time. It rests on readings and choices of the model: notes/assumptions/2.md, notes/assumptions/8.md,
notes/assumptions/26.md. -/
def Obligations.DisciplineResults : Prop :=
  (∀ (s : State) (port : Fin 4) (off : Word) (j : Fin 3) (at_ mode : Nat) (heard may : Prop), at_ = s.now.toNat + j.val - 1 →
      mode = s.fld .tideline .discCtrl 0 1 0 →
      (heard ↔ mode % 2 = 1 ∧ s.standby = true ∧ port.val = s.fld .tideline .discCtrl 0 3 2 ∧ s.linkUp port = true) →
      (may ↔ s.tide.locked = false ∧ s.tide.stepped = false ∧ bit1 (s.rd .tideline .discCtrl 0) 4 = true ∧ 4000000 < off.toInt) →
      (¬heard → exec (.referenceMeasurement port off) s = .next s) ∧
      (heard → ¬may → ∃ t, exec (.referenceMeasurement port off) s = .next t ∧ s.measures t off.toInt) ∧
      (heard → may → ∃ t, exec (.referenceMeasurement port off) s = .next t ∧ t.now = s.now + off ∧ t.tide.stepped = true ∧
          bit1 (t.rd .tideline .event 0) 3 = true ∧ t.fld .tideline .discStat 0 39 8 = sat32 off.toInt ∧
          s.regsBut t (regKey .tideline .discStat 0 :: eventKeys .tideline) ∧
          t = { s with now := t.now, regs := t.regs, tide := t.tide, freeIx := t.freeIx }) ∧
      (mode = 2 → s.standby = true → s.timeFollows = false → s.tide.running = true → (s.tickEdge at_).1 = true →
        ∃ t, exec (.tickInEdge j) s = .next (State.tickBegan (true, t)) ∧
          (s.tickEdge at_).2.measures t ((s.tide.expected : Int) - (at_ : Int))) ∧
      (s.standby = true → s.discState = 1 ∨ s.discState = 2 → ∃ t, exec .referenceLost s = .next t ∧ t.discState = 3 ∧
        t.tide = { s.tide with near := 0, far := 0, slew := 0 } ∧ (s.discState = 2 → s.raised t .tideline 2) ∧
        s.regsBut t (regKey .tideline .discStat 0 :: eventKeys .tideline) ∧ t = { s with regs := t.regs, tide := t.tide }) ∧
      (s.standby = false ∨ (s.discState ≠ 1 ∧ s.discState ≠ 2) → exec .referenceLost s = .next s)) ∧
  (∀ (s : State) (p : Fin 4) (rx : Bool),
      (s.standby = true → s.tide.recorded.toNat < s.now.toNat / 4000000000 * 4000000000 →
        ∃ t, exec .tidelineRecord s = .next t ∧ t.tide.recorded.toNat = s.now.toNat / 4000000000 * 4000000000 ∧
          t = { s with tide := { s.tide with recorded := t.tide.recorded } }) ∧
      (∃ t, exec .ppsOut s = .next t ∧ (t.tide.pps = true ↔ s.now.toNat % 4000000000 < 400000000) ∧
        t = { s with tide := { s.tide with pps := t.tide.pps } }) ∧
      (s.alarmDue = true → s.sys.dry = true → s.latched = false → s.sys.wake = none →
        exec .wakeAlarm s = .next { s with sys := { s.sys with wake := some 3 } }) ∧
      (s.up → s.linkUp p = true → exec (.ptpEventMessage p rx) s =
        .next { s with est := { s.est with ptp := s.est.ptp ++ [(p.val, rx, s.now)] } }))

/-! ### Scenes and streams -/

/-- A message that fails a check (R193, R315, R319): the first check that fails, in the order of the statuses, gives its status,
with no side effect: no scene, stream, page, model, object or memory changes, and it is answered and gone. It rests on readings
and choices of the model: notes/assumptions/39.md, notes/assumptions/40.md. -/
def Obligations.FailedMessageHasNoEffect : Prop :=
  ∀ (s : State) (qp : BitVec 18) (m : Msg) (x : Instr × Nat × (State → Req → List (Bool × Status))) (st : Status),
    s.takes qp.toNat m → x ∈ checkedRows qp m → m.opcode.toNat = x.2.1 →
    firstFailure (x.2.2 (s.accepts qp.toNat m) (msgReq m qp.toNat s.now)) = some st →
    ∃ t, exec x.1 s = .next t ∧ s.answers t m s.gulk.accepted st ∧ t.gulk.scenes = s.gulk.scenes ∧
      t.gulk.pages = s.gulk.pages ∧ t.gulk.models = s.gulk.models ∧ t.gulk.nodes = s.gulk.nodes ∧ t.cliff = s.cliff ∧
      t.jobs = s.jobs ∧ t.cores = s.cores ∧ s.semsSame t ∧ t.gulk.accepted = s.gulk.accepted + 1 ∧
      ∀ i, (t.stream i).map (fun y => { y with work := [] }) = (s.stream i).map (fun y => { y with work := [] })

/-- OPEN_SCENE (R192, R193, R198, R312): where a scene slot, a stream slot and a place for the intake region are free, a scene takes
a free slot with the model, version, class, rounding mode and seed of the message, its root stream takes a free slot at position
0 with the mixed seed, its region is the queue pair's, and the message is answered with OK. FORK, CLOSE and CANCEL (R193, R194,
R197, R198, R325): a FORK of an idle stream creates as many children as it asks for, child o with the seed of R198 under the
scene's fork serial, which rises by one, or its own key, at the source's position; a CLOSE of an idle stream frees its slot with
a new generation, and one of a scene frees the scene's slot and those of its streams; a CANCEL marks its target; each is
answered with OK. It rests on readings and choices of the model: notes/assumptions/34.md, notes/assumptions/37.md,
notes/assumptions/39.md, notes/assumptions/72.md, notes/assumptions/81.md. -/
def Obligations.OpenSceneResults : Prop :=
  (∀ (s : State) (qp : BitVec 18) (m : Msg) (u : State) (v : Nat), s.takes qp.toNat m → s.gulkIdle → m.opcode = 0x01 →
      u = s.accepts qp.toNat m → firstFailure (u.openChecks (msgReq m qp.toNat s.now)) = none → u.openVersion m.body = some v →
      s.openScenes.length < 64 → s.openStreams.length < 16384 → s.est.regions.length < 4096 →
      ((u.intakePlace (field m.body 24 4 / poolUnit)).1).isSome = true →
      ∃ t i j sc st, exec (.openScene qp m) s = .next t ∧ i < 64 ∧ j < 16384 ∧ s.scene i = none ∧ s.stream j = none ∧
        t.scene i = some sc ∧ sc.model = field m.body 0 2 ∧ sc.version = v ∧ sc.cls = field m.body 3 1 ∧
        sc.srMode = field m.body 4 1 ∧ sc.seed = BitVec.ofNat 64 (field m.body 8 8) ∧ sc.root = j ∧ sc.forkSerial = 0 ∧
        t.stream j = some st ∧ st.scene = i ∧ st.seed = srMix sc.seed ∧ st.position = 0 ∧ st.phase = .idle ∧
        (∃ g ∈ t.est.regions, g.addr = sc.intake ∧ g.size = field m.body 24 4 ∧ g.rkey = sc.rkey ∧ g.qp = qp.toNat) ∧
        (∀ d, d ≠ i → t.scene d = s.scene d) ∧ s.answers t m s.gulk.accepted .ok ∧
        ((u.shape sc.model sc.version).recurrent = 0 ∨ u.roomFor 0 (u.shape sc.model sc.version).ckptUnits = true → s.coreSide t)) ∧
  (∀ (s : State) (qp : BitVec 18) (m : Msg) (u : State) (r : Req) (k i : Nat), s.takes qp.toNat m →
      u = s.accepts qp.toNat m → r = msgReq m qp.toNat s.now → k = s.gulk.accepted → i = m.stream.toNat % 16384 →
      (∀ st sc n f, s.gulkIdle → s.stream i = some st → s.scene st.scene = some sc → st.phase = .idle → st.work = [] →
        m.opcode = 0x05 → firstFailure (u.forkChecks r) = none → n = field m.body 0 2 →
        f = (if field m.body 2 2 % 2 = 1 then field m.body 4 4 else sc.forkSerial % 2 ^ 32) →
        u.forkRoom st n = true →
        ∃ (t : State) (l : List Nat), exec (.fork qp m) s = .next t ∧ s.answers t m k .ok ∧ l.length = n ∧ l.Nodup ∧
          t.scene st.scene = some { sc with forkSerial := sc.forkSerial + 1 } ∧
          (∀ o j, l[o]? = some j → s.stream j = none ∧ ∃ y, t.stream j = some y ∧
            y.seed = srMix (st.seed ^^^ srMix (BitVec.ofNat 64 (f * 2 ^ 32 ||| o))) ∧ y.scene = st.scene ∧ y.parent = some i ∧
            y.position = st.position ∧ y.ordinal = o ∧ y.phase = .idle)) ∧
      (∀ st, s.gulkIdle → s.stream i = some st → st.phase = .idle → st.work = [] → m.opcode = 0x06 → msgCloseKind m = 0 →
        firstFailure (u.closeStreamChecks r) = none → ∃ t, exec (.closeStream qp m) s = .next t ∧ t.stream i = none ∧
          FMap.get 0 t.gulk.streamGen i = (st.gen + 1) % 2 ^ 18 ∧ s.answers t m k .ok ∧ t.gulk.scenes = s.gulk.scenes ∧
          ∀ j, j ≠ i → t.stream j = s.stream j) ∧
      (∀ sc j, s.gulkIdle → j = m.scene.toNat % 64 → s.scene j = some sc →
        (∀ x ∈ s.gulk.streams, ∀ y, x.2 = some y → y.scene = j → y.phase = .idle ∧ y.work = []) → m.opcode = 0x06 →
        msgCloseKind m = 1 → firstFailure (u.closeSceneChecks r) = none → ∃ t, exec (.closeScene qp m) s = .next t ∧
          t.scene j = none ∧ FMap.get 0 t.gulk.sceneGen j = (sc.gen + 1) % 2 ^ 26 ∧ (∀ g ∈ t.est.regions, g.rkey ≠ sc.rkey) ∧
          s.answers t m k .ok ∧ (∀ n, n ≠ j → t.scene n = s.scene n)) ∧
      (∀ h x, m.opcode = 0x35 → firstFailure (u.cancelChecks r) = none → u.cancelTarget r = some h → h ≠ k → s.req h = some x →
        x.op = 0x02 → (∀ y, s.stream (x.stream % 16384) = some y → y.phase = .running ∧ y.work.head? = some h) →
        (s.stream (x.stream % 16384)).isSome = true → (∀ y ∈ s.gulk.reqs, y.2 = none ∨ y = (h, some x)) → (∀ (p : Fin 2) (n : Nat), n < 8 → s.decState p n ≠ 3) →
        ∃ t, exec (.cancel qp m) s = .next t ∧ t.req h = some { x with cancel := true } ∧ s.answers t m k .ok ∧
          t.gulk.scenes = s.gulk.scenes ∧ s.coreSide t))

/-- OBSERVE, PLAN and ROLLOUT on an idle stream (R194, R205, R209, R213): OBSERVE waits on its stream for its step's dispatch; PLAN
and ROLLOUT fork their futures from it, as many as they ask for, each with the request as its work and at its source's position,
PLAN with the first of its draws. It rests on readings and choices of the model: notes/assumptions/37.md,
notes/assumptions/39.md, notes/assumptions/41.md, notes/assumptions/72.md, notes/assumptions/77.md. -/
def Obligations.StreamWorkResults : Prop :=
  ∀ (s : State) (qp : BitVec 18) (m : Msg) (u : State) (r : Req) (k i : Nat) (st : Stream), s.takes qp.toNat m → s.gulkIdle →
    u = s.accepts qp.toNat m → r = msgReq m qp.toNat s.now → k = s.gulk.accepted → i = m.stream.toNat % 16384 →
    s.stream i = some st → st.phase = .idle → st.work = [] →
    (m.opcode = 0x02 → firstFailure (u.observeChecks r) = none → ∃ t, exec (.observe qp m) s = .next t ∧ t.req k = some r ∧
      t.stream i = some { st with work := [k] } ∧ (∀ j, j ≠ i → t.stream j = s.stream j) ∧ t.gulk.scenes = s.gulk.scenes ∧
      t.gulk.pages = s.gulk.pages ∧ t.records = s.records ∧ s.coreSide t) ∧
    (∀ p, p = PlanP.of m.body → m.opcode = 0x03 → firstFailure (u.planChecks r) = none →
      u.forkRoom st p.n = true → ∃ t x, exec (.plan qp m) s = .next t ∧ t.req k = some x ∧ x.started = true ∧ x.iter = 0 ∧ x.futures.length = p.n ∧
        x.futures.Nodup ∧ t.records = s.records ∧
        (∀ f ∈ x.futures, f ≠ i ∧ s.stream f = none ∧ ∃ y, t.stream f = some y ∧ y.work = [k] ∧ y.scene = st.scene ∧
          y.position = st.position ∧ y.phase = .idle ∧ y.steps = 0)) ∧
    (∀ p, p = RollP.of m.body → m.opcode = 0x04 → firstFailure (u.rollChecks r) = none → p.n ≠ 0 → p.steps ≠ 0 →
      u.forkRoom st p.n = true →
      ∃ t x y, exec (.rollout qp m) s = .next t ∧ t.req k = some x ∧ x.started = true ∧ x.futures.length = p.n ∧
        x.futures.Nodup ∧ t.records = s.records ∧ t.stream i = some y ∧ y.work = [] ∧
        (∀ f ∈ x.futures, f ≠ i ∧ s.stream f = none ∧ ∃ y, t.stream f = some y ∧ y.work = [k] ∧ y.scene = st.scene ∧
          y.position = st.position ∧ y.phase = .idle ∧ y.steps = 0))

/-- STEP_DISPATCH (R161 to R163, R194, R200, R298) of an OBSERVE that has walked the tree, the one request not answered: with a
version that is COLD the stream waits and the version begins to stage; with the version in place, its pages RESIDENT and units
for what it needs and its step buffers, the step runs as the one member of its dispatch, with its map pinned, its position and
tokens as they were. A slot without a stream does nothing. STEP_COMMIT (R195, R204, R205) of a running OBSERVE, the one request
not answered: a step that finished moves the stream on by the positions it brought and generated, keeps its tokens, and answers
with OK; one that met an uncorrectable error leaves the stream at its last committed position and answers with E_MEM_UNCORR;
either leaves the stream idle; a stream that does not run is not touched. It rests on readings and choices of the model:
notes/assumptions/37.md, notes/assumptions/63.md, notes/assumptions/73.md, notes/assumptions/75.md, notes/assumptions/76.md. -/
def Obligations.StepResults : Prop :=
  (∀ (s : State) (i : Fin 16384) (k : Nat) (r : Req) (st : Stream) (sc : Scene) (v : ModelV) (x : Shape), s.up →
      s.stream i = some st → st.work = [k] → s.req k = some r → (∀ y ∈ s.gulk.reqs, y.2 = none ∨ y = (k, some r)) →
      (∀ (p : Fin 2) (n : Nat), n < 8 → s.decState p n ≠ 3) → r.op = 2 → r.walked = true → r.stop s.now allStatus = none →
      st.phase = .idle → s.scene st.scene = some sc → s.model sc.model sc.version = some v → x = s.shape sc.model sc.version →
      (v.hot = .cold → v.waitTick = false → ∃ t, exec (.stepDispatch i) s = .next t ∧ t.stream i = some { st with phase := .model } ∧
        t.model sc.model sc.version = some { v with hot := .staging } ∧ (∀ j, j ≠ i.val → t.stream j = s.stream j) ∧
        t.records = s.records ∧ t.gulk.pages = s.gulk.pages ∧ s.coreSide t) ∧
      (v.hot = .resident ∨ v.hot = .pinned → st.bring ≠ [] → st.position + st.bring.length ≤ 1048576 →
        s.variantsOk sc x st.bring.length = true → (∀ g ∈ st.map.flatten, (s.page g).st = .resident) →
        (∀ need, need = st.newRows x st.bring.length * x.pages + (s.cowPages st x st.bring.length).length →
          s.gulk.pages.length + need ≤ 2 ^ 28 ∧
          need + s.tokNeed st st.bring.length + x.buffers ≤ (s.modelReady sc.model sc.version).2.freeUnits 0) →
        ∃ t y d, exec (.stepDispatch i) s = .next t ∧ t.stream i = some y ∧ y.phase = .running ∧ y.bring = st.bring ∧ y.gens = 0 ∧
          y.position = st.position ∧ y.tokens = st.tokens ∧ y.work = st.work ∧ y.pinned = y.map.flatten ∧
          y.map.length = st.map.length + st.newRows x st.bring.length ∧
          y.run = some d ∧ d.members = [i.val] ∧ d.seed = st.seed ∧ d.nPos = st.bring.length ∧ d.rne = decide (sc.srMode = 0) ∧
          (∀ g ∈ y.pinned, (t.page g).st = .resident ∧ 0 < (t.page g).pins) ∧ (∀ j, j ≠ i.val → t.stream j = s.stream j) ∧
          t.records = s.records ∧ t.gulk.scenes = s.gulk.scenes)) ∧
  (∀ (s : State) (i : Fin 16384) (bad : Option (BitVec 28)) (k : Nat) (r : Req) (st : Stream) (sc : Scene), s.up →
      s.stream i = some st → st.work = [k] → s.req k = some r → (∀ y ∈ s.gulk.reqs, y.2 = none ∨ y.1 = k) →
      (∀ (p : Fin 2) (n : Nat), n < 8 → s.decState p n ≠ 3) → r.op = 2 → s.scene st.scene = some sc → r.stop s.now allStatus = none →
      (st.phase = .running → ∃ t y, exec (.stepCommit i .finished bad) s = .next t ∧ t.stream i = some y ∧
        y.position = st.position + (st.bring.length + st.gens) ∧ y.phase = .idle ∧ y.work = [] ∧ y.bring = [] ∧ y.pinned = [] ∧
        y.map = st.map ∧ y.seed = st.seed ∧ y.tokens.take (st.tokens ++ st.bring).length = st.tokens ++ st.bring ∧
        y.tokens.length = (st.tokens ++ st.bring).length + st.gens ∧ s.ended t k r .ok ∧ t.gulk.scenes = s.gulk.scenes) ∧
      (∀ site, st.phase = .running → ∃ t y, exec (.stepCommit i (.uncorrected site) bad) s = .next t ∧ t.stream i = some y ∧
        y.position = st.position ∧ y.tokens = st.tokens ∧ y.map = st.map ∧ y.phase = .idle ∧ y.work = [] ∧ y.bring = [] ∧
        s.ended t k r .eMemUncorr ∧ t.gulk.scenes = s.gulk.scenes) ∧
      (∀ e, st.phase = .idle → exec (.stepCommit i e bad) s = .next s))

/-- RECOMPUTE_DONE (R161, R164, R165, R207) with no earlier page to wait for, no stream waiting on the page and no request open: a
page whose recomputation finished holds its bits again, RESIDENT, and is counted; one that failed is DROPPED again; no other
page and no other byte changes; a page that is not RECOMPUTING is not touched. Where a Harbour region lies over the page, its
policy says what a write does. ROLL_NODE_LIMIT_WRITE (R206, R215): a limit from 64 to 4,194,304 is taken, and where the nodes
fit it none is evicted; another value is ignored. It rests on readings and choices of the model: notes/assumptions/36.md,
notes/assumptions/37.md, notes/assumptions/74.md, notes/assumptions/76.md. -/
def Obligations.RecomputeResults : Prop :=
  (∀ (s : State) (g : BitVec 28) (p : KvPage), s.up → p = s.page g.toNat → s.gulkIdle →
      (p.st = .recomputing → p.refs ≠ 0 → s.earlierFirst g.toNat = false → s.waitersOf g.toNat = [] →
        (∃ t, exec (.recomputeDone g .finished) s = .next t ∧
          t.page g.toNat = { p with st := .resident, memCause := false, memo := [] } ∧
          (∀ j, j ≠ g.toNat → t.page j = s.page j) ∧ (∀ i, t.stream i = s.stream i) ∧
          ((∀ a, s.regionAt a = none) → (∀ n < p.memo.length, t.byte (p.loc + n) = p.memo.getD n 0) ∧
            s.bytesBut t [(p.loc, p.memo.length)]) ∧
          t.rd .rollout .recomputePages 0 = s.counted .rollout .recomputePages 0 1 ∧ t.records = s.records) ∧
        (∀ site, ∃ t, exec (.recomputeDone g (.uncorrected site)) s = .next t ∧ t.page g.toNat = { p with st := .dropped, loc := 0 } ∧
          (∀ j, j ≠ g.toNat → t.page j = s.page j) ∧ t = { s with gulk := { s.gulk with pages := t.gulk.pages } })) ∧
      (∀ e, p.st ≠ .recomputing → exec (.recomputeDone g e) s = .next s)) ∧
  (∀ (s : State) (v : Word), s.up →
      (64 ≤ bits v 22 0 → bits v 22 0 ≤ 4194304 → ∃ t, exec (.rollNodeLimitWrite v) s = .next t ∧
        t.rd .rollout .rollNodeLimit 0 = (s.rd .rollout .rollNodeLimit 0 &&& ~~~ RegName.rollNodeLimit.mask .rw) |||
          (v &&& RegName.rollNodeLimit.mask .rw) ∧
        (s.nodeCount ≤ bits v 22 0 → s.regsBut t [regKey .rollout .rollNodeLimit 0] ∧ t = { s with regs := t.regs }) ∧
        t.gulk.streams = s.gulk.streams ∧ t.gulk.scenes = s.gulk.scenes ∧ t.mem = s.mem) ∧
      (bits v 22 0 < 64 ∨ 4194304 < bits v 22 0 → exec (.rollNodeLimitWrite v) s = .next s))

/-- LOAD_MODEL, UNLOAD_MODEL and PREFETCH_MODEL (R298 to R302) whose checks pass: a version that has room begins to stage with the
message's package, pin and cores, its request waiting; an unloaded one is gone; a COLD one begins to stage, a RESIDENT or PINNED
one stays so; the last two are answered with OK, and no other version changes. MODEL_STAGED (R298, R300, R301): a version that
stages and has room is RESIDENT, with a replica in each bay it names, or PINNED where it is to be pinned and the Ledge of its
cores has room, and waits for a tick otherwise; its LOAD_MODEL, where one waits and no older version is live, is answered with
OK and the version is live from now; a version that does not stage changes nothing. It rests on readings and choices of the
model: notes/assumptions/34.md, notes/assumptions/35.md, notes/assumptions/39.md. -/
def Obligations.ModelResults : Prop :=
  (∀ (s : State) (qp : BitVec 18) (m : Msg) (u : State) (r : Req), s.takes qp.toNat m → s.gulkIdle → u = s.accepts qp.toNat m →
      r = msgReq m qp.toNat s.now →
      (∀ x : ModelV, m.opcode = 0x10 → firstFailure (u.loadChecks r) = none →
        x = { package := field m.body 0 4, pin := decide (field m.body 7 1 % 2 = 1), bays := s.bayMask (field m.body 8 1),
              cores := field m.body 16 8, lastUse := s.now, loader := some s.gulk.accepted, hot := .staging } →
        u.stageUnits x ≤ u.freeUnits 0 → ∃ t, exec (.loadModel qp m) s = .next t ∧
        t.model (field m.body 4 2) (field m.body 6 1) = some x ∧ t.req s.gulk.accepted = some r ∧ t.records = s.records ∧
        (∀ a b, modelKey a b ≠ modelKey (field m.body 4 2) (field m.body 6 1) → t.model a b = s.model a b) ∧ s.coreSide t) ∧
      (m.opcode = 0x11 → firstFailure (u.versionChecks r true) = none → ∃ t, exec (.unloadModel qp m) s = .next t ∧
        t.model (field m.body 0 2) (field m.body 2 1) = none ∧ s.answers t m s.gulk.accepted .ok ∧
        (∀ a b, modelKey a b ≠ modelKey (field m.body 0 2) (field m.body 2 1) → t.model a b = s.model a b)) ∧
      (∀ x, m.opcode = 0x12 → firstFailure (u.versionChecks r false) = none →
        s.model (field m.body 0 2) (field m.body 2 1) = some x → ∃ t y, exec (.prefetchModel qp m) s = .next t ∧
        t.model (field m.body 0 2) (field m.body 2 1) = some y ∧ y.package = x.package ∧ y.pin = x.pin ∧ y.live = x.live ∧
        y.hot = (if x.hot = .cold ∧ x.waitTick = false then .staging else x.hot) ∧ s.answers t m s.gulk.accepted .ok ∧
        (∀ a b, modelKey a b ≠ modelKey (field m.body 0 2) (field m.body 2 1) → t.model a b = s.model a b) ∧ s.coreSide t)) ∧
  (∀ (s : State) (m : BitVec 16) (v : BitVec 8) (x : ModelV), s.up → s.model m.toNat v.toNat = some x →
      (∀ (p : Fin 2) (n : Nat), n < 8 → s.decState p n ≠ 3) →
      (x.hot = .staging → s.stageUnits x ≤ (s.setModel m.toNat v.toNat none).freeUnits 0 →
        (x.loader = none → s.gulkIdle → ∃ t y, exec (.modelStaged m v) s = .next t ∧ t.model m.toNat v.toNat = some y ∧
          y.hot = (if x.pin = true ∧ y.waitTick = false then .pinned else .resident) ∧ y.package = x.package ∧ y.lastUse = s.now ∧
          y.live = x.live ∧ y.loader = none ∧ t.records = s.records ∧ (x.pin = false → y.waitTick = false ∧ y.ledge = [] ∧
            y.homes.map (·.1) = (List.range 6).filter (fun b => x.bays / 2 ^ b % 2 = 1)) ∧
          (∀ a b, modelKey a b ≠ modelKey m.toNat v.toNat → t.model a b = s.model a b)) ∧
        (∀ k r, x.loader = some k → s.req k = some r → r.op = 0x10 → (∀ y ∈ s.gulk.reqs, y.2 = none ∨ y.1 = k) →
          (∀ y ∈ s.gulk.models, y.1 / 256 = m.toNat → y.1 % 256 ≠ v.toNat → ∀ z, y.2 = some z → z.live = none) →
          ∃ t y, exec (.modelStaged m v) s = .next t ∧ t.model m.toNat v.toNat = some y ∧
          y.hot = (if x.pin = true ∧ y.waitTick = false then .pinned else .resident) ∧ y.live = some s.now ∧ y.loader = none ∧
          s.ended t k r .ok)) ∧
      (x.hot ≠ .staging → s.gulkIdle → exec (.modelStaged m v) s = .next s))

/-- OBJ_CREATE, OBJ_WRITE, OBJ_READ and OBJ_DELETE (R276, R282, R283, R316) whose checks pass: an object with room in its first
tier, HBM4 or Cliff, is made and answered with OK; a write asks the host for the units' bytes; a read sends them and is
answered; a deleted object is gone; no other object changes. RDMA_READ_RESPONSE and POOL_WAIT_EXPIRE (R276, R285, R316), for the
one request that is not answered: host data for an OBJ_WRITE is kept until it is whole, then stands in the object from its first
unit on, the other bytes of the object as they were, and the request is answered with OK; an OBJ_CREATE without a deadline that
has waited for its limit ends with E_STATE, and one that has not stays. It rests on readings and choices of the model:
notes/assumptions/34.md, notes/assumptions/39.md. -/
def Obligations.ObjectResults : Prop :=
  (∀ (s : State) (qp : BitVec 18) (m : Msg) (u : State) (r : Req) (i k : Nat), s.takes qp.toNat m → s.gulkIdle →
      u = s.accepts qp.toNat m → r = msgReq m qp.toNat s.now → i = field m.body 0 4 → k = s.gulk.accepted →
      (∀ d, m.opcode = 0x20 → firstFailure (u.objCreateChecks r) = none → d = (placement (field m.body 9 1)).headD 2 → d ≠ 1 →
        ceilDiv (field m.body 4 4) 16 ≤ u.freeUnits d → ∃ t, exec (.objCreate qp m) s = .next t ∧
        t.cliffObj i = some { units := field m.body 4 4, cls := field m.body 8 1, tiers := placement (field m.body 9 1), tier := d,
                              lastUse := s.now } ∧
        s.answers t m k .ok ∧ (∀ j, j ≠ i → t.cliffObj j = s.cliffObj j) ∧ s.coreSide t) ∧
      (m.opcode = 0x21 → firstFailure (u.objMoveChecks r true) = none → field m.body 8 4 ≠ 0 → ∃ t, exec (.objWrite qp m) s = .next t ∧
        t.req k = some r ∧ t.records = s.records ∧ t.cliff = s.cliff ∧ s.coreSide t ∧
        ∃ n, Out.wire qp.toNat n (.read (field m.body 16 8) (field m.body 24 4) (field m.body 8 4 * 4096)) ∈ t.out) ∧
      (∀ o, m.opcode = 0x22 → firstFailure (u.objMoveChecks r false) = none → s.cliffObj i = some o → field m.body 8 4 ≠ 0 →
        ∃ t n, exec (.objRead qp m) s = .next t ∧
        Out.wire qp.toNat n (.write (field m.body 16 8) (field m.body 24 4)
          (o.bytes (field m.body 4 4 * 4096) (field m.body 8 4 * 4096))) ∈ t.out ∧
        t.cliffObj i = some { o with lastUse := s.now } ∧ s.answers t m k .ok ∧ (∀ j, j ≠ i → t.cliffObj j = s.cliffObj j) ∧
        s.coreSide t) ∧
      (m.opcode = 0x23 → firstFailure (u.objDeleteChecks r) = none → ∃ t, exec (.objDelete qp m) s = .next t ∧ t.cliffObj i = none ∧
        s.answers t m k .ok ∧ (∀ j, j ≠ i → t.cliffObj j = s.cliffObj j) ∧ s.coreSide t)) ∧
  (∀ (s : State) (k : BitVec 64) (r : Req) (o : CliffObj), s.up → s.req k.toNat = some r →
      (∀ y ∈ s.gulk.reqs, y.2 = none ∨ y = (k.toNat, some r)) →
      (∀ (p : Fin 2) (n : Nat), n < 8 → s.decState p n ≠ 3) → r.stop s.now allStatus = none →
      (∀ data, r.op = 0x21 → (r.data ++ data).length < field r.body 8 4 * 4096 → ∃ t, exec (.rdmaReadResponse k data) s = .next t ∧
        t.req k.toNat = some { r with data := r.data ++ data } ∧ t.cliff = s.cliff ∧ t.records = s.records ∧ s.coreSide t) ∧
      (∀ data, r.op = 0x21 → (r.data ++ data).length = field r.body 8 4 * 4096 → s.cliffObj (field r.body 0 4) = some o →
        (o.tier = 2 → s.cliffReadOnly = false) → ∃ t x, exec (.rdmaReadResponse k data) s = .next t ∧
        t.cliffObj (field r.body 0 4) = some { o with data := x, lastUse := s.now } ∧
        (∀ j < field r.body 8 4 * 4096, FMap.get 0 x (field r.body 4 4 * 4096 + j) = (r.data ++ data).getD j 0) ∧
        (∀ j, j < field r.body 4 4 * 4096 ∨ (field r.body 4 4 + field r.body 8 4) * 4096 ≤ j → FMap.get 0 x j = FMap.get 0 o.data j) ∧
        (∀ j, j ≠ field r.body 0 4 → t.cliffObj j = s.cliffObj j) ∧ s.ended t k.toNat r .ok ∧ s.coreSide t) ∧
      (∀ since, r.op = 0x20 → r.deadline = 0 → r.futures = [] → r.poolWait = some since →
        (since.toNat + s.fld .pool .poolCtrl 0 31 0 ≤ s.now.toNat → ∃ t, exec (.poolWaitExpire k) s = .next t ∧
          s.ended t k.toNat r .eState ∧ t.cliff = s.cliff) ∧
        (s.now.toNat < since.toNat + s.fld .pool .poolCtrl 0 31 0 → exec (.poolWaitExpire k) s = .next s)))

/-! ### On-package memory -/

/-- HB_FLUSH, FLUSH_DONE and HB_REGION_WRITE (R246, R249, R261, R263): a flush is busy once it has begun; when it is done no sector
of the half is dirty, those of the other half and every byte of memory are as they were, flush_busy is clear and FLUSH_DONE is
raised; without a flush nothing happens; a region register takes the written value in its fields, but one that names a reserved
policy or operation is ignored with CFG_IGNORED. PREFETCH_FILL, SCRUB and TEMP_HIGH (R239, R242, R256, R257, R260, R392): a line
that a stream of a core may fetch is counted as issued, in the half's counters and its core's; one that arrived is in Harbour
and waits for its outcome, one that was late or overwritten is there and counted so, and one that failed is not there and
counted as evicted unused; any other line changes nothing; a scrub that finds an uncorrectable word leaves it failing and adds
its row of HBM4 to the repair map, one that corrects a word of HBM4 counts it and begins a record, and a clean one or an address
that does not answer changes nothing; a temperature is shown, with `hot` above 85 °C, and crossing it raises its event. It rests
on readings and choices of the model: notes/assumptions/9.md, notes/assumptions/13.md, notes/assumptions/28.md,
notes/assumptions/80.md. -/
def Obligations.HarbourResults : Prop :=
  (∀ (s : State) (h : Fin 2), s.up →
      (∃ t, exec (.hbFlush h) s = .next t ∧ t.fld (.harbour h) .hbStat 0 18 18 = 1 ∧ s.regsBut t [regKey (.harbour h) .hbStat 0] ∧
        t = { s with regs := t.regs }) ∧
      (s.fld (.harbour h) .hbStat 0 18 18 = 1 → ∃ t, exec (.flushDone h) s = .next t ∧
        (∀ x, x ∈ t.dirty ↔ x ∈ s.dirty ∧ halfOf (x * 64) ≠ h) ∧ t.fld (.harbour h) .hbStat 0 18 18 = 0 ∧ s.raised t (.harbour h) 4 ∧
        t.rd (.harbour h) .hbWritebacks 0 = s.counted (.harbour h) .hbWritebacks 0 (s.dirty.filter (fun x => halfOf (x * 64) == h)).length ∧
        t = { s with regs := t.regs, dirty := t.dirty, wc := t.wc } ∧
        s.regsBut t (regKey (.harbour h) .hbStat 0 :: regKey (.harbour h) .hbWritebacks 0 :: eventKeys (.harbour h) ++
          (List.finRange 12).flatMap (fun k => [regKey (.hbm k) .hbmWcFlushes 0, regKey (.hbm k) .hbmWcRmw 0]))) ∧
      (s.fld (.harbour h) .hbStat 0 18 18 = 0 → exec (.flushDone h) s = .next s) ∧
      (∀ (n : Fin 16) (v : Word), ∃ t, exec (.hbRegionWrite h n true v) s = .next t ∧
        t.rd (.harbour h) .hbRegionSize n = (s.rd (.harbour h) .hbRegionSize n &&& ~~~ RegName.hbRegionSize.mask .rw) |||
          (v &&& RegName.hbRegionSize.mask .rw) ∧
        s.regsBut t [regKey (.harbour h) .hbRegionSize n] ∧ t = { s with regs := t.regs }) ∧
      (∀ (n : Fin 16) (v : Word), bits v 50 48 ≤ 2 → bits v 54 51 ≤ 4 → ∃ t, exec (.hbRegionWrite h n false v) s = .next t ∧
        t.rd (.harbour h) .hbRegionBase n = (s.rd (.harbour h) .hbRegionBase n &&& ~~~ RegName.hbRegionBase.mask .rw) |||
          (v &&& RegName.hbRegionBase.mask .rw) ∧
        s.regsBut t [regKey (.harbour h) .hbRegionBase n] ∧ t = { s with regs := t.regs }) ∧
      (∀ (n : Fin 16) (v : Word), 2 < bits v 50 48 ∨ 4 < bits v 54 51 → ∃ t, exec (.hbRegionWrite h n false v) s = .next t ∧
        s.raised t (.harbour h) 3 ∧ s.regsBut t (eventKeys (.harbour h)) ∧ t = { s with regs := t.regs })) ∧
  (∀ s : State, s.up →
      (∀ (h : Fin 2) (c : Fin 36) (o : Prefetch) (line : Nat) (may : Bool), may = (bit1 (s.rd (.harbour h) .hbCtrl 0) 2 &&
          halfOf (line * 128) == h && harbourAddr (line * 128) && s.reach (line * 128) == .ok && !s.harbour.contains line &&
          (FMap.get {} s.pf (36 * h.val + c.val)).may (s.fld (.harbour h) .hbCtrl 0 10 3) line) →
        (may = false → exec (.prefetchFill h c o line) s = .next s) ∧
        (may = true → ∃ t, exec (.prefetchFill h c o line) s = .next t ∧
          t.rd (.harbour h) .hbPfIssued 0 = s.counted (.harbour h) .hbPfIssued 0 1 ∧
          t.rd (.harbour h) .pfc (5 * c.val) = s.counted (.harbour h) .pfc (5 * c.val) 1 ∧
          (line ∈ t.harbour ↔ o ≠ .failed) ∧ FMap.get 0 t.pfLines line = (if o = .arrived then c.val + 1 else 0) ∧
          (o = .late → t.rd (.harbour h) .hbPfLate 0 = s.counted (.harbour h) .hbPfLate 0 1 ∧
            t.rd (.harbour h) .pfc (5 * c.val + 2) = s.counted (.harbour h) .pfc (5 * c.val + 2) 1) ∧
          (o = .overwritten → t.rd (.harbour h) .hbPfOverwritten 0 = s.counted (.harbour h) .hbPfOverwritten 0 1 ∧
            t.rd (.harbour h) .pfc (5 * c.val + 4) = s.counted (.harbour h) .pfc (5 * c.val + 4) 1) ∧
          (o = .failed → t.harbour = s.harbour ∧
            t.rd (.harbour h) .hbPfEvictedUnused 0 = s.counted (.harbour h) .hbPfEvictedUnused 0 1 ∧
            t.rd (.harbour h) .pfc (5 * c.val + 3) = s.counted (.harbour h) .pfc (5 * c.val + 3) 1) ∧
          s.memSame t ∧ t.out = s.out ∧ s.accessed t)) ∧
      (∀ (a : Word) (n : Nat) (f : Scrubbed), n = a.toNat / 32 * 32 →
        (f = .clean ∨ s.reach n ≠ .ok → exec (.scrub a f) s = .next s) ∧
        (f = .uncorrectable → s.reach n = .ok → ∃ t, exec (.scrub a f) s = .next t ∧
          (∀ w, w ∈ t.bad ↔ w = n / 32 ∨ w ∈ s.bad) ∧ (hbmAddr n = false → t = { s with bad := t.bad }) ∧
          (hbmAddr n = true → (∀ x, x ∈ t.sys.repairRows ↔ x = rowKey n ∨ x ∈ s.sys.repairRows) ∧
            t = { s with bad := t.bad, regs := t.regs, sys := { s.sys with repairRows := t.sys.repairRows } } ∧
            s.regsBut t [regKey .security .secOwner 0])) ∧
        (f = .corrected → s.reach n = .ok → hbmAddr n = true → (∀ h ∈ s.errs.held, h.address ≠ n) →
          ∃ t, exec (.scrub a f) s = .next t ∧ s.raised t (.hbm (stackOf n)) 0 ∧
          t.rd (.hbm (stackOf n)) .hbmEccCorrected 0 = s.counted (.hbm (stackOf n)) .hbmEccCorrected 0 1 ∧
          s.regsBut t (regKey (.hbm (stackOf n)) .hbmEccCorrected 0 :: eventKeys (.hbm (stackOf n))) ∧
          t = { s with regs := t.regs, errs := { s.errs with held := s.errs.held ++
            [{ time := s.now, page := (Pg.hbm (stackOf n)).index, cls := 0, code := Status.eMemUncorr.code, flags := 2, address := n,
               detail := memDetail n }] } })) ∧
      (∀ (k : Fin 12) (x : Fin 256), s.code.stackPresent k = true → ∃ t, exec (.tempHigh k x) s = .next t ∧
        t.fld (.hbm k) .hbmStat 0 7 0 = x.val ∧ t.fld (.hbm k) .hbmStat 0 8 8 = (if 85 < x.val then 1 else 0) ∧
        t = { s with regs := t.regs } ∧
        (s.fld (.hbm k) .hbmStat 0 8 8 = 0 → 85 < x.val → s.raised t (.hbm k) 2 ∧
          s.regsBut t (regKey (.hbm k) .hbmStat 0 :: eventKeys (.hbm k))) ∧
        (s.fld (.hbm k) .hbmStat 0 8 8 = 1 ∨ x.val ≤ 85 → s.regsBut t [regKey (.hbm k) .hbmStat 0])))

/-- ATOMIC (R240, R247) on a word of HBM4 or a CXL window that is served and holds no uncorrectable error: the operation's result
stands at the address, no other byte changes, the old value is answered, HB_ATOMICS counts it, and its line is in Harbour; one
that is not aligned, or outside HBM4 and the CXL windows, is answered E_ADDR and changes nothing; one on a word with an
uncorrectable error is answered E_MEM_UNCORR with a record of the half, and one on CXL memory that is gone E_GONE, and neither
changes memory. Beside these what Harbour and the stacks keep and count may change (R243, R253). It rests on readings and
choices of the model: notes/assumptions/10.md, notes/assumptions/13.md, notes/assumptions/28.md, notes/assumptions/82.md. -/
def Obligations.AtomicResults : Prop :=
  ∀ (s : State) (op : AtomicOp) (a v cmp : Word) (n : Nat), s.up → n = a.toNat → s.served n 8 = true →
    (n % 8 = 0 → harbourAddr n = true → s.access n 8 = .ok → s.badIn n 8 = none → ∃ t, exec (.atomic op a v cmp) s = .next t ∧
      t.word n = (match op with
        | .add => s.word n + v | .and => s.word n &&& v | .or => s.word n ||| v | .xor => s.word n ^^^ v
        | .min => if (s.word n).slt v then s.word n else v | .max => if (s.word n).slt v then v else s.word n
        | .minu => if s.word n < v then s.word n else v | .maxu => if s.word n < v then v else s.word n
        | .swap => v | .cas => if s.word n = cmp then v else s.word n) ∧
      s.bytesBut t [(n, 8)] ∧ t.bad = s.bad ∧ t.out = s.out ++ [.atomic n (s.word n) .ok] ∧
      t.rd (.harbour (halfOf n)) .hbAtomics 0 = s.counted (.harbour (halfOf n)) .hbAtomics 0 1 ∧
      lineOf n ∈ t.harbour ∧ n / 64 ∈ t.dirty ∧ t.errs = s.errs ∧ s.accessed t) ∧
    (∀ w, n % 8 = 0 → harbourAddr n = true → s.access n 8 = .ok → s.badIn n 8 = some w → s.buffers →
      ∃ t, exec (.atomic op a v cmp) s = .next t ∧ s.memSame t ∧ t.out = s.out ++ [.atomic n 0 .eMemUncorr] ∧
        s.logged t (.harbour (halfOf n)) .eMemUncorr ∧ s.cacheSame t) ∧
    (n % 8 = 0 → harbourAddr n = true → s.access n 8 = .eGone → ∃ t, exec (.atomic op a v cmp) s = .next t ∧
      t.out = s.out ++ [.atomic n 0 .eGone] ∧ t = { s with regs := t.regs, out := t.out } ∧
      s.regsBut t [regKey (.cxl 0) .cxlGoneCount 0, regKey (.cxl 1) .cxlGoneCount 0]) ∧
    (n % 8 ≠ 0 ∨ harbourAddr n = false → exec (.atomic op a v cmp) s = .next { s with out := s.out ++ [.atomic n 0 .eAddr] }) ∧
    (n % 8 = 0 → harbourAddr n = true → s.access n 8 = .eAddr →
      exec (.atomic op a v cmp) s = .next { s with out := s.out ++ [.atomic n 0 .eAddr] })

/-- Regulator registers (R254): a write whose four floors sum to 256 at most writes the pages of both stacks of the bay and changes
no setting in force; with floors above 256 it is ignored and raises CFG_IGNORED; at the next window the registers are in force. -/
def Obligations.RegulatorResults : Prop :=
  ∀ (s : State) (b : Fin 6) (k o : Fin 12) (n : Fin 4) (v : Word) (floors : Nat), s.up → s.code.bayEnabled b = true →
    k.val / 2 = b → o.val / 2 = b → o ≠ k → (∀ i < 4, s.rd (.hbm k) .hbmRegClass i = s.rd (.hbm o) .hbmRegClass i) →
    floors = ((List.range 4).map (fun i => if i = n.val then bits v 7 0 else s.fld (.hbm k) .hbmRegClass i 7 0)).sum →
    (floors ≤ 256 → ∃ t u, exec (.hbmRegClassWrite k n v) s = .next t ∧
      t.rd (.hbm k) .hbmRegClass n = (s.rd (.hbm k) .hbmRegClass n &&& ~~~ RegName.hbmRegClass.mask .rw) |||
        (v &&& RegName.hbmRegClass.mask .rw) ∧
      (∀ i < 4, t.rd (.hbm o) .hbmRegClass i = t.rd (.hbm k) .hbmRegClass i) ∧
      s.regsBut t [regKey (.hbm k) .hbmRegClass n, regKey (.hbm o) .hbmRegClass n] ∧ t = { s with regs := t.regs } ∧
      (FMap.get {} t.regulators b).inForce = (FMap.get {} s.regulators b).inForce ∧
      exec (.regulatorWindow b) t = .next u ∧
      (FMap.get {} u.regulators b).inForce = (List.range 4).map (t.rd (.hbm k) .hbmRegClass ·)) ∧
    (256 < floors → ∃ t, exec (.hbmRegClassWrite k n v) s = .next t ∧ s.raised t (.hbm k) 3 ∧ s.regsBut t (eventKeys (.hbm k)) ∧
      t = { s with regs := t.regs })

/-- WC_FLUSH (R249): the oldest entry of a stack's write-combining buffer leaves it once 256 cycles of the fabric clock for each
unit of its limit have passed since it was made, and counts as a flush; a younger one stays; no byte of memory changes.
REGULATOR_WINDOW (R253, R254): at a window each class's bucket gains 32 units for each unit of its ceiling, up to its depth, and
the registers are in force; the partitions of the other bays are as they were. It rests on readings and choices of the model:
notes/assumptions/2.md, notes/assumptions/28.md. -/
def Obligations.MemoryWindowResults : Prop :=
  (∀ (s : State) (k : Fin 12) (e : WcEntry) (r : List WcEntry), s.up → s.wcOf k = e :: r →
      (2 * (256 * max 1 (s.fld (.hbm k) .hbmCtrl 0 9 2)) ≤ (s.now - e.since).toNat → ∃ t, exec (.wcFlush k) s = .next t ∧
        t.wcOf k = r ∧ (∀ j, j ≠ k → t.wcOf j = s.wcOf j) ∧
        t.rd (.hbm k) .hbmWcFlushes 0 = s.counted (.hbm k) .hbmWcFlushes 0 1 ∧
        t.rd (.hbm k) .hbmWcRmw 0 = s.counted (.hbm k) .hbmWcRmw 0 (if partlyCovered e.mask then 1 else 0) ∧
        s.regsBut t [regKey (.hbm k) .hbmWcFlushes 0, regKey (.hbm k) .hbmWcRmw 0] ∧ t = { s with regs := t.regs, wc := t.wc }) ∧
      ((s.now - e.since).toNat < 2 * (256 * max 1 (s.fld (.hbm k) .hbmCtrl 0 9 2)) → exec (.wcFlush k) s = .next s)) ∧
  (∀ (s : State) (b : Fin 6) (k : Fin 12), s.up → s.code.bayEnabled b = true → k.val = 2 * b.val →
      ∃ t, exec (.regulatorWindow b) s = .next t ∧
        (FMap.get {} t.regulators b).inForce = (List.range 4).map (s.rd (.hbm k) .hbmRegClass ·) ∧
        (∀ i < 4, (FMap.get {} t.regulators b).tokens.getD i 0 =
          min (s.fld (.hbm k) .hbmRegClass i 31 16)
            ((FMap.get {} s.regulators b).tokens.getD i 0 + 32 * s.fld (.hbm k) .hbmRegClass i 15 8)) ∧
        (∀ d, d ≠ b.val → FMap.get {} t.regulators d = FMap.get {} s.regulators d) ∧ t = { s with regulators := t.regulators })

/-! ### Far memory, Foreshore and Cliff -/

/-- Hot-add, managed remove and the loss of a link (R269 to R274, R286), while no object stands in CXL memory. A hot-add by register
of a decoder that is OFF, with a window of its port, a link that is up or trains at ×8 or ×16, enough capacity and a check that
succeeds, makes it ONLINE and raises HOT_ADDED, writing the first and the last 4 KiB of its range only; of a decoder that is not
OFF it fails with E_STATE. A remove of an ONLINE decoder with an empty range turns it OFF, with no line of the range left in
Harbour, notes the time and raises its event. The loss of a link fences the ONLINE decoders of its port. CXL_OP (R271, R272,
R316): a message that asks for a hot-add of a decoder that is OFF makes it ONLINE and is answered with OK, and one that asks for
a remove of an ONLINE decoder with an empty range turns it OFF and is answered with OK. It rests on readings and choices of the
model: notes/assumptions/42.md, notes/assumptions/55.md, notes/assumptions/83.md. -/
def Obligations.CxlResults : Prop :=
  (∀ (s : State) (p : Fin 2), s.up → (∀ x ∈ s.gulk.pages, x.2.st ≠ .spilled) →
      (∀ x ∈ s.cliff.objs, ∀ o, x.2 = some o → o.tier ≠ 1) → s.buffers →
      (∀ (d : Fin 8) (t : CxlTrain), s.decState p d = 0 → s.windowOk p d (s.decFields p d) = true →
        bit1 (s.rd (.cxl p) .cxlStat 0) 0 = true ∨ (t.link = true ∧ (t.width = 8 ∨ t.width = 16)) → s.sys.deadPorts.contains (16 + p.val) = false → (s.decFields p d).dpa + (s.decFields p d).size ≤ t.capacity.toNat →
        t.check = true → ∃ u, exec (.cxlHotAdd (.register p d) t) s = .next u ∧ u.decState p d = 2 ∧
        u.decFields p d = s.decFields p d ∧
        u.rd (.cxl p) .cxlStat 0 = (if bit1 (s.rd (.cxl p) .cxlStat 0) 0 = true then s.rd (.cxl p) .cxlStat 0
          else BitVec.ofNat 64 (1 + 2 * t.width.toNat + (if t.rate64 then 64 else 0))) ∧ s.raised u (.cxl p) 0 ∧
        s.regsBehind u [] ∧ s.cxlBut u (regKey (.cxl p) .cxlDec d :: regKey (.cxl p) .cxlStat 0 :: eventKeys (.cxl p)) ∧
        s.bytesBut u [((s.decWindow p d).1, 4096), ((s.decWindow p d).1 + (s.decWindow p d).2 - 4096, 4096)] ∧
        u = { s.cacheOf u with regs := u.regs, mem := u.mem, bad := u.bad, freeIx := u.freeIx }) ∧
      (∀ (d : Fin 8) (t : CxlTrain), s.decState p d ≠ 0 → ∃ u, exec (.cxlHotAdd (.register p d) t) s = .next u ∧
        s.logged u (.cxl p) .eState ∧ s.regsBut u (logKeys (.cxl p)) ∧ u = { s with regs := u.regs, errs := u.errs }) ∧
      (∀ d : Fin 8, s.decState p d = 2 → ∃ u, exec (.cxlHotRemove (.register p d)) s = .next u ∧ u.decState p d = 0 ∧
        u.rd (.cxl p) .cxlRemoveTime 0 = s.now ∧ s.raised u (.cxl p) 1 ∧ u.mem = s.mem ∧
        ((∀ j < 8, j ≠ d.val → s.decState p j ≠ 2 ∧ s.decState p j ≠ 3) → u.rd (.cxl p) .cxlStat 0 = 0) ∧
        ((∃ j < 8, j ≠ d.val ∧ (s.decState p j = 2 ∨ s.decState p j = 3)) → u.rd (.cxl p) .cxlStat 0 = s.rd (.cxl p) .cxlStat 0) ∧
        (∀ l ∈ u.harbour, l ∈ s.harbour ∧ (l < (s.decWindow p d).1 / 128 ∨ ((s.decWindow p d).1 + (s.decWindow p d).2) / 128 ≤ l)) ∧
        s.regsBehind u [] ∧ s.cxlBut u (regKey (.cxl p) .cxlDec d :: regKey (.cxl p) .cxlStat 0 :: regKey (.cxl p) .cxlRemoveTime 0 ::
          eventKeys (.cxl p)) ∧ u = { s.cacheOf u with regs := u.regs, errs := u.errs }) ∧
      (s.gulkIdle → bit1 (s.rd (.cxl p) .cxlStat 0) 0 = true → ∃ u, exec (.cxlLinkDown p) s = .next u ∧
        (∀ n < 8, u.decState p n = if s.decState p n = 2 then 4 else s.decState p n) ∧
        bit1 (u.rd (.cxl p) .cxlStat 0) 0 = false ∧ s.raised u (.cxl p) 2 ∧ s.logged u (.cxl p) .eLink ∧
        s.regsBut u (regKey (.cxl p) .cxlStat 0 :: (List.range 8).map (regKey (.cxl p) .cxlDec) ++ eventKeys (.cxl p) ++
          logKeys (.cxl p)) ∧
        u = { s with regs := u.regs, errs := u.errs }) ∧
      (s.gulkIdle → bit1 (s.rd (.cxl p) .cxlStat 0) 0 = false → exec (.cxlLinkDown p) s = .next s)) ∧
  (∀ (s : State) (qp : BitVec 18) (m : Msg) (u : State) (p : Fin 2) (d : Nat) (x : CxlTrain), s.takes qp.toNat m → s.gulkIdle →
      m.opcode = 0x34 → u = s.accepts qp.toNat m → p.val = field m.body 0 1 → d = field m.body 2 1 → d < 8 →
      firstFailure (u.cxlChecks (msgReq m qp.toNat s.now)) = none →
      (∀ f : DecFields, field m.body 1 1 = 1 → f = ⟨field m.body 4 2, field m.body 6 2, field m.body 8 2⟩ →
        s.windowOk p d f = true → bit1 (s.rd (.cxl p) .cxlStat 0) 0 = true ∨ (x.link = true ∧ (x.width = 8 ∨ x.width = 16)) →
        s.sys.deadPorts.contains (16 + p.val) = false → f.dpa + f.size ≤ x.capacity.toNat →
        x.check = true → ∃ t, exec (.cxlHotAdd (.message qp m) x) s = .next t ∧ t.decState p d = 2 ∧ t.decFields p d = f ∧
          (∀ n < 8, n ≠ d → t.decState p n = s.decState p n) ∧ s.answers t m s.gulk.accepted .ok ∧
          bit1 (t.rd (.cxl p) .event 0) 0 = true) ∧
      (field m.body 1 1 = 2 → (∀ x ∈ s.gulk.pages, x.2.st ≠ .spilled) →
        (∀ x ∈ s.cliff.objs, ∀ o, x.2 = some o → o.tier ≠ 1) → ∃ t, exec (.cxlHotRemove (.message qp m)) s = .next t ∧
          t.decState p d = 0 ∧ t.rd (.cxl p) .cxlRemoveTime 0 = s.now ∧ t.mem = s.mem ∧
          (∀ n < 8, n ≠ d → t.decState p n = s.decState p n) ∧ s.answers t m s.gulk.accepted .ok))

/-- FS_JOB_START and FS_ABORT (R223, R230, R231, R233, R234) on a RUNNING engine: with no job and an empty or disabled ring nothing
happens; a job whose descriptor can be read and passes every check runs, the first job of an unbound context binding it, and
waits while the other engine runs a job on its context; one that waited runs once the context is free and the ring enabled; an
abort marks the job that runs and nothing else. Beside these only what the reads of the descriptor move in Harbour and behind it
may change (R243). FS_JOB_COMPLETE (R218 to R227, R232, R260): a job whose engine finished and that read no uncorrectable word
leaves its output and its history and nothing else in memory but frames_seen and its record, performs its post ADD, and the head
advances past it; one that read such a word ends with E_MEM_UNCORR; one that lost power leaves its context FAULTED, its status
and watermark in FS_STAT with JOB_FAILED raised, and an error record, and the head advances. It rests on readings and choices of
the model: notes/assumptions/29.md, notes/assumptions/31.md, notes/assumptions/81.md, notes/assumptions/82.md. -/
def Obligations.ForeshoreResults : Prop :=
  (∀ (s : State) (h : Fin 2), s.up → s.live (.foreshore h) = .running →
      (s.fsJob h = none → bit1 (s.rd (.foreshore h) .fsCtrl 0) 0 = false ∨
        s.fld (.foreshore h) .fsRingHead 0 31 0 = s.fld (.foreshore h) .fsRingTail 0 31 0 → exec (.fsJobStart h) s = .next s) ∧
      (∀ (n a : Nat) (j : FsJob), s.fsJob h = none → bit1 (s.rd (.foreshore h) .fsCtrl 0) 0 = true →
        n = s.fld (.foreshore h) .fsRingHead 0 31 0 → n ≠ s.fld (.foreshore h) .fsRingTail 0 31 0 →
        a = s.fld (.foreshore h) .fsRingBase 0 47 6 * 64 + 64 * (n % 2 ^ s.fld (.foreshore h) .fsRingCfg 0 3 0) →
        s.access a 64 = .ok → s.badIn a 64 = none →
        j = { words := s.words a 8, layers := s.words (bits (s.word a) 47 0) (4 * (bits (s.word a) 51 48 + 1)), ix := n,
              started := s.now } → s.fsCheck j = .ok →
        (s.fsTaken h j = false → ∃ t, exec (.fsJobStart h) s = .next t ∧ t.fsJob h = some j ∧ t.fsJob (h + 1) = s.fsJob (h + 1) ∧
          t.fld (.foreshore h) .fsStat 0 1 0 = 1 ∧ s.regsBehind t [regKey (.foreshore h) .fsStat 0] ∧
          (j.ctx ≠ 0 → s.word j.ctx = 0 → t.word j.ctx = BitVec.ofNat 64 j.stack) ∧
          (j.ctx = 0 ∨ s.word j.ctx ≠ 0 → t.mem = s.mem) ∧ s.bytesBut t [(j.ctx, 8)] ∧
          t.bad = s.bad ∧ t = { s.cacheOf t with regs := t.regs, fore := t.fore, mem := t.mem, freeIx := t.freeIx }) ∧
        (s.fsTaken h j = true → ∃ t, exec (.fsJobStart h) s = .next t ∧ t.fsJob h = some { j with waiting := true } ∧
          t.fld (.foreshore h) .fsStat 0 1 0 = 2 ∧ t.mem = s.mem ∧
          s.regsBehind t [regKey (.foreshore h) .fsStat 0, regKey (.foreshore h) .fsCtxWaitCycles 0] ∧
          t = { s.cacheOf t with regs := t.regs, fore := t.fore, freeIx := t.freeIx })) ∧
      (∀ j, s.fsJob h = some j → j.waiting = true → s.fsCheck j = .ok → s.fsTaken h j = false →
        (bit1 (s.rd (.foreshore h) .fsCtrl 0) 0 = true → ∃ t, exec (.fsJobStart h) s = .next t ∧
          t.fsJob h = some { j with waiting := false } ∧ t.fld (.foreshore h) .fsStat 0 1 0 = 1) ∧
        (bit1 (s.rd (.foreshore h) .fsCtrl 0) 0 = false → exec (.fsJobStart h) s = .next s)) ∧
      (∀ j, s.fsJob h = some j → j.waiting = false → ∃ t, exec (.fsAbort h) s = .next t ∧
        t.fsJob h = some { j with abort := true } ∧ t.fsJob (h + 1) = s.fsJob (h + 1) ∧
        s.regsBut t [regKey (.foreshore h) .fsStat 0] ∧ t = { s with regs := t.regs, fore := t.fore }) ∧
      (s.fsJob h = none → exec (.fsAbort h) s = .next s)) ∧
  (∀ (s : State) (h : Fin 2) (j : FsJob) (wm slot : Nat) (out : List Byte), s.up → s.fsJob h = some j → j.waiting = false →
      s.faultedWaiter = none → s.est.fast = [] → out = j.outOf (s.fsRun j) s.freeIx → slot = s.fsSlot h j.ix →
      (s.jobBad j = none →
        (bit1 (j.word 0) 55 = true → (semAdd (s.sem true 0 (bits (j.word 6) 15 0)) (bits (j.word 6) 23 16 + 1)).2 = .ok) →
        ∃ t, exec (.fsJobComplete h .finished wm false) s = .next t ∧ t.fsJob h = none ∧ t.fsJob (h + 1) = s.fsJob (h + 1) ∧
          t.fld (.foreshore h) .fsRingHead 0 31 0 = (j.ix + 1) % 2 ^ 32 ∧
          t.rd (.foreshore h) .fsJobCount 0 = s.counted (.foreshore h) .fsJobCount 0 1 ∧
          (∀ i, t.sem true 0 i = if bit1 (j.word 0) 55 = true ∧ i = bits (j.word 6) 15 0 then
            (semAdd (s.sem true 0 i) (bits (j.word 6) 23 16 + 1)).1 else s.sem true 0 i) ∧
          (bit1 (j.word 0) 54 = false → t.records = s.records) ∧
          (bit1 (j.word 0) 54 = true → ∃ c, t.records = s.records ++ [c] ∧ c.status = 0 ∧ c.watermark = j.rows ∧ c.doneTime = s.now) ∧
          s.bytesBut t ((j.outAddr, out.length) :: (j.ctx + 8, 8) :: (slot, 32) ::
            (s.fsRun j).writes.map (fun w => (w.1, w.2.length))) ∧
          (bit1 (j.word 0) 54 = false → j.ctx = 0 → harbourAddr j.outAddr = false → t.bytes j.outAddr out.length = out) ∧
          (∀ k, memoryKey k = false → k / 4096 ≠ (Pg.foreshore h).index → t.reg k = s.reg k) ∧
          t.cores = s.cores ∧ t.gulk = s.gulk ∧ t.cliff = s.cliff ∧ t.out = s.out) ∧
      ((s.jobBad j).isSome = true → s.buffers → bit1 (j.word 0) 55 = false → ∃ t, exec (.fsJobComplete h .finished wm false) s = .next t ∧
          t.fsJob h = none ∧ t.fld (.foreshore h) .fsRingHead 0 31 0 = (j.ix + 1) % 2 ^ 32 ∧
          t.fld (.foreshore h) .fsStat 0 15 8 = Status.eMemUncorr.code ∧ t.fld (.foreshore h) .fsStat 0 31 16 = min (min wm j.rows) 65535 ∧
          bit1 (t.rd (.foreshore h) .event 0) 4 = true ∧ s.logged t (.foreshore h) .eMemUncorr ∧ t.sems = s.sems) ∧
      (s.buffers → bit1 (j.word 0) 55 = false → ∃ t, exec (.fsJobComplete h .power wm false) s = .next t ∧ t.fsJob h = none ∧
          t.fld (.foreshore h) .fsRingHead 0 31 0 = (j.ix + 1) % 2 ^ 32 ∧
          t.fld (.foreshore h) .fsStat 0 15 8 = Status.ePower.code ∧
          t.fld (.foreshore h) .fsStat 0 31 16 = min (min wm j.rows) 65535 ∧
          t.fld (.foreshore h) .fsStat 0 63 32 = j.ix % 2 ^ 32 ∧ bit1 (t.rd (.foreshore h) .event 0) 0 = true ∧
          ((s.fsRun j).nan = false → s.raised t (.foreshore h) 0) ∧ s.logged t (.foreshore h) .ePower ∧ t.sems = s.sems ∧
          (bit1 (j.word 0) 54 = false → j.ctx ≠ 0 → t.word (j.ctx + 16) = 1) ∧ t.cores = s.cores ∧ t.gulk = s.gulk))

/-- Cliff commands start (R280 to R282): the next command of the ring joins those in flight with the status of its checks; a CREATE
that passes makes its object, a DELETE that passes closes its object to later commands, and a WRITE or a READ changes nothing
else yet; a command that fails a check has no effect; with none to start nothing happens. Beside these only what the read of the
command moves in Harbour and behind it may change (R243). CLIFF_COMMAND_COMPLETE (R276, R281, R282): the oldest command in
flight finishes with OK. A WRITE's units are in its object and its other bytes as they were; a READ's bytes stand in Ledge, and
no other byte changes; a CREATE's object stays and a DELETE's is gone; the post ADD and the record are made and the head
advances. A command that lost power undoes its CREATE or its DELETE and leaves an error record. CLIFF_HOUSEKEEPING (R28, R277 to
R279): in slack water, with free blocks below 1 %, or for a block that fails, CLIFF_STAT shows whether the work runs in the
foreground, a relocation, a rewrite or a retired block is counted, and the wear figures are shown; life_used that reaches 900
raises WEAR_HIGH, fewer than 256 spare blocks make Cliff READ_ONLY with its event, and no object changes; outside slack water
other work of the layer does nothing. It rests on readings and choices of the model: notes/assumptions/32.md,
notes/assumptions/44.md, notes/assumptions/83.md. -/
def Obligations.CliffResults : Prop :=
  (∀ s : State, s.up →
      (s.cliffNext = none → exec .create s = .next s ∧ exec .write s = .next s ∧ exec .read s = .next s ∧ exec .delete s = .next s) ∧
      (∀ r : CliffRun, s.cliffNext = some r → r.status = .ok →
        (s.cliffCheck r = .ok →
          (r.op = 1 → ∃ t, exec .create s = .next t ∧ t.cliff.runs = s.cliff.runs ++ [r] ∧
            t.cliffObj r.object = some { units := r.count, cls := r.cls } ∧
            (∀ i, i ≠ r.object → t.cliffObj i = s.cliffObj i) ∧ s.regsBehind t [] ∧
            t = { s.cacheOf t with cliff := t.cliff, regs := t.regs, freeIx := t.freeIx }) ∧
          (r.op = 2 → ∃ t, exec .write s = .next t ∧ t.cliff.runs = s.cliff.runs ++ [r] ∧ t.cliff.objs = s.cliff.objs ∧
            s.regsBehind t [regKey .cliff .cliffFgGcCycles 0] ∧
            t = { s.cacheOf t with cliff := t.cliff, regs := t.regs, freeIx := t.freeIx }) ∧
          (r.op = 3 → ∃ t, exec .read s = .next t ∧ s.regsBehind t [] ∧ 
            t.cliff = { s.cliff with runs := s.cliff.runs ++ [r] } ∧
            t = { s.cacheOf t with cliff := t.cliff, regs := t.regs, freeIx := t.freeIx }) ∧
          (r.op = 4 → ∃ t, exec .delete s = .next t ∧ t.cliff.runs = s.cliff.runs ++ [r] ∧ t.cliffObj r.object = none ∧
            (∀ i, i ≠ r.object → t.cliffObj i = s.cliffObj i) ∧ s.regsBehind t [] ∧
            t = { s.cacheOf t with cliff := t.cliff, regs := t.regs, freeIx := t.freeIx })) ∧
        (s.cliffCheck r ≠ .ok → ∀ x ∈ [((1 : Nat), Instr.create), (2, .write), (3, .read), (4, .delete)], r.op = x.1 →
          ∃ t, exec x.2 s = .next t ∧ s.regsBehind t [] ∧
            t.cliff = { s.cliff with runs := s.cliff.runs ++ [{ r with status := s.cliffCheck r }] } ∧
            t = { s.cacheOf t with cliff := t.cliff, regs := t.regs, freeIx := t.freeIx }))) ∧
  (∀ (s : State) (r : CliffRun) (rest : List CliffRun) (wm : Nat), s.up → s.cliff.runs = r :: rest → r.status = .ok →
      s.faultedWaiter = none → s.est.fast = [] → (r.op = 2 → s.badIn r.addr (r.count * 4096) = none) →
      ((bit1 (r.w 0) 11 = true → (semAdd (s.sem true 0 (bits (r.w 4) 15 0)) (bits (r.w 4) 23 16 + 1)).2 = .ok) →
        ∃ t, exec (.cliffCommandComplete .finished wm 0) s = .next t ∧ t.cliff.runs = rest ∧
          t.fld .cliff .cliffRingHead 0 31 0 = (r.ix + 1) % 2 ^ 32 ∧
          (∀ i, t.sem true 0 i = if bit1 (r.w 0) 11 = true ∧ i = bits (r.w 4) 15 0 then
            (semAdd (s.sem true 0 i) (bits (r.w 4) 23 16 + 1)).1 else s.sem true 0 i) ∧
          (bit1 (r.w 0) 10 = false → t.records = s.records) ∧
          (bit1 (r.w 0) 10 = true → ∃ c, t.records = s.records ++ [c] ∧ c.id = r.ix ∧ c.status = 0 ∧ c.watermark = (if r.op = 2 ∨ r.op = 3 then r.count else 0) ∧
            c.doneTime = s.now) ∧
          (∀ i, i ≠ r.object → t.cliffObj i = s.cliffObj i) ∧ t.cores = s.cores ∧ t.gulk = s.gulk ∧
          (bit1 (r.w 0) 10 = false → r.op ≠ 3 → t.mem = s.mem) ∧
          (r.op = 1 → t.cliff.objs = s.cliff.objs) ∧ (r.op = 4 → t.cliffObj r.object = none) ∧
          (∀ o, r.op = 2 → s.cliffObj r.object = some o → ∃ x, t.cliffObj r.object = some { o with data := x } ∧
            (∀ i < r.count * 4096, FMap.get 0 x (r.first * 4096 + i) = s.byte (r.addr + i)) ∧
            (∀ i, i < r.first * 4096 ∨ (r.first + r.count) * 4096 ≤ i → FMap.get 0 x i = FMap.get 0 o.data i)) ∧
          (∀ o, r.op = 3 → s.cliffObj r.object = some o → bit1 (r.w 0) 10 = false → t.cliff.objs = s.cliff.objs ∧
            s.bytesBut t [(r.addr, r.count * 4096)] ∧
            (harbourAddr r.addr = false → ∀ i < r.count * 4096, t.byte (r.addr + i) = FMap.get 0 o.data (r.first * 4096 + i)))) ∧
      (s.buffers → bit1 (r.w 0) 11 = false → bit1 (r.w 0) 10 = false → ∃ t,
        exec (.cliffCommandComplete .power wm 0) s = .next t ∧ t.cliff.runs = rest ∧
          t.fld .cliff .cliffRingHead 0 31 0 = (r.ix + 1) % 2 ^ 32 ∧ s.logged t .cliff .ePower ∧ t.records = s.records ∧
          t.sems = s.sems ∧ (r.op = 1 → t.cliffObj r.object = none) ∧
          (∀ o, r.op = 4 → FMap.get none s.cliff.objs r.object = some o → t.cliffObj r.object = some { o with gone := false }))) ∧
  (∀ (s : State) (k : Housekeep) (low : Bool) (mean top spare : BitVec 16) (life : Nat), s.up →
      life = min 2047 (mean.toNat * 1000 / 3000) →
      (low = false → k ≠ .retire → s.slackFor 0 = false → exec (.cliffHousekeeping k low mean top spare) s = .next s) ∧
      (low = true ∨ k = .retire ∨ s.slackFor 0 = true → ∃ t, exec (.cliffHousekeeping k low mean top spare) s = .next t ∧
        t.fld .cliff .cliffStat 0 1 1 = (if low then 1 else 0) ∧
        t.fld .cliff .cliffWear 0 15 0 = mean.toNat ∧ t.fld .cliff .cliffWear 0 31 16 = top.toNat ∧
        t.fld .cliff .cliffWear 0 47 32 = spare.toNat ∧ t.fld .cliff .cliffWear 0 58 48 = life ∧
        t.cliffReadOnly = (s.cliffReadOnly || decide (spare.toNat < 256)) ∧
        bit1 (t.rd .cliff .event 0) 0 = (bit1 (s.rd .cliff .event 0) 0 ||
          decide (s.fld .cliff .cliffWear 0 58 48 < 900 ∧ 900 ≤ life)) ∧
        bit1 (t.rd .cliff .event 0) 1 = (bit1 (s.rd .cliff .event 0) 1 || (decide (spare.toNat < 256) && !s.cliffReadOnly)) ∧
        bit1 (t.rd .cliff .event 0) 3 = (bit1 (s.rd .cliff .event 0) 3 || decide (k = .retire)) ∧
        t.rd .cliff .cliffRelocations 0 = s.counted .cliff .cliffRelocations 0 (if k = .collect then 0 else 1) ∧
        s.regsBut t ([regKey .cliff .cliffStat 0, regKey .cliff .cliffWear 0, regKey .cliff .cliffRelocations 0,
          regKey .cliff .cliffNandBytes 0] ++ eventKeys .cliff) ∧
        t = { s with regs := t.regs, freeIx := t.freeIx }))

/-! ### Host service -/

/-- CREATE_QP, DESTROY_QP, BIND_FAST and UNBIND_FAST (R308, R310, R311, R322, R325), each answered with OK where no check fails: a
new queue pair takes a free number above 1 with the message's settings, its context cached; a destroyed one is gone, with its
requests on the fast path; a binding names its core, queue and block and pins the context; an unbound queue pair keeps the rest;
no third queue pair changes. It rests on readings and choices of the model: notes/assumptions/16.md, notes/assumptions/17.md,
notes/assumptions/35.md, notes/assumptions/72.md. -/
def Obligations.QueuePairMessageResults : Prop :=
  ∀ (s : State) (qp : BitVec 18) (m : Msg) (u : State) (r : Req) (n : Nat), s.takes qp.toNat m → s.gulkIdle →
    u = s.accepts qp.toNat m → r = msgReq m qp.toNat s.now → n = field m.body 0 4 →
    (m.opcode = 0x30 → firstFailure (u.createQpChecks r) = none → ∃ (t : State) (k psn : Nat), exec (.createQp qp m) s = .next t ∧
      2 ≤ k ∧ k < 262144 ∧ psn < 2 ^ 24 ∧ s.qp k = none ∧
      t.qp k = some {
        ud := decide (field m.body 0 1 = 1), role := field m.body 1 1, port := field m.body 2 1, cls := field m.body 3 1,
        mtu := 1024 * 2 ^ field m.body 4 1, dscp := field m.body 5 1, prio := field m.body 6 1,
        mgmt := decide (field m.body 7 1 = 1), peerQpn := field m.body 8 4, recvPsn := field m.body 12 4 % 2 ^ 24,
        peerIp := field m.body 16 16, udpPort := field m.body 32 2, sendPsn := psn } ∧
      k ∈ t.ctxSet k ∧ s.answers t m s.gulk.accepted .ok ∧ (∀ j, j ≠ k → j ≠ qp.toNat → t.qp j = s.qp j) ∧ s.coreSide t) ∧
    (m.opcode = 0x31 → firstFailure (u.destroyQpChecks r) = none → ∃ t, exec (.destroyQp qp m) s = .next t ∧ t.qp n = none ∧
      s.answers t m s.gulk.accepted .ok ∧ (∀ j, j ≠ n → j ≠ qp.toNat → t.qp j = s.qp j) ∧
      (∀ f ∈ t.est.fast, f.qp ≠ n) ∧ ((∀ f ∈ s.est.fast, f.qp ≠ n) → s.coreSide t)) ∧
    (∀ q, m.opcode = 0x32 → firstFailure (u.bindChecks r) = none → s.qp n = some q →
      ∃ t, exec (.bindFast qp m) s = .next t ∧ (t.qp n).bind (·.fast) = some (s.bindOf m.body) ∧
        (n ≠ qp.toNat → t.qp n = some { q with fast := some (s.bindOf m.body) }) ∧ n ∈ t.ctxSet n ∧
        s.answers t m s.gulk.accepted .ok ∧ (∀ j, j ≠ n → j ≠ qp.toNat → t.qp j = s.qp j) ∧ s.coreSide t) ∧
    (∀ q, m.opcode = 0x33 → firstFailure (u.unbindChecks r) = none → s.qp n = some q →
      ∃ t, exec (.unbindFast qp m) s = .next t ∧ t.qp n = some { q with fast := none } ∧ t.est.fast = s.est.fast ∧
        s.answers t m s.gulk.accepted .ok ∧ (∀ j, j ≠ n → j ≠ qp.toNat → t.qp j = s.qp j) ∧ s.coreSide t)

/-- FAST_PATH_REQUEST (R17, R18, R323) on a bound queue pair that may send: it is a hit where the payload is in_len bytes, one
packet holds it, its context is cached and the conditions on queue and bank hold, else a miss, and either is counted. With no
request open and its queue IDLE, a hit starts, and a miss too whose context is cached and whose block is there or comes with the
switch: the payload, up to in_len bytes, stands at in_offset and the program starts at its address with sequence number 0.
Behind requests that run, with its queue not IDLE, or, a hit, with an earlier one that Estuary serves on its core, it waits with
nothing else changed. It rests on readings and choices of the model: notes/assumptions/15.md, notes/assumptions/17.md,
notes/assumptions/18.md, notes/assumptions/33.md, notes/assumptions/86.md. -/
def Obligations.FastPathResults : Prop :=
  ∀ (s : State) (qp : BitVec 18) (bs : List Byte) (ce : Bool) (q : Qp) (b : FastBind) (u : State) (hit come : Bool) (f : FastReq), s.up →
    s.qp qp.toNat = some q → q.fast = some b → q.error = false → s.est.closed = false → s.live .estuary = .running →
    u = (s.received qp.toNat bs.length).marked qp.toNat ce →
    hit = (bs.length == b.inLen && decide (bs.length ≤ q.mtu) && (s.ctxSet qp.toNat).contains qp.toNat && u.fastOk b) →
    come = ((s.ctxSet qp.toNat).contains qp.toNat && s.blockComes b) →
    f = { qp := qp.toNat, payload := bs.take b.inLen, miss := !hit, count := q.fastCount, bind := b, accepted := s.now } →
    (s.est.fast = [] → (s.queue b.core b.queue).state = .idle → (hit || come) = true →
      ∃ t, exec (.fastPathRequest qp bs ce) s = .next t ∧ t.est.fast = [{ f with running := true }] ∧
        (t.qp qp.toNat).map (·.fastCount) = some ((q.fastCount + 1) % 2 ^ 16) ∧
        (t.queue b.core b.queue).state = .running ∧ (t.queue b.core b.queue).seq = 0 ∧ (t.queue b.core b.queue).flights = [] ∧
        t.rd (.sequencer b.core) .qPc b.queue = setBits (s.rd (.sequencer b.core) .qPc b.queue) 47 5 (b.pc / 32) ∧
        (∀ h, (s.core b.core).holder = some h → h ≠ b.queue.val → ((s.core b.core).queue h).keeps = true →
          s.qClass b.core h ≤ s.qClass b.core b.queue → s.higherReady b.core h = false →
          (∀ r, (s.queue b.core r).state = .waiting → (s.queue b.core r).inWaitGe = true) →
          (∀ i < f.payload.length, t.byte (ledgeBase b.core.val + b.inOff + i) = f.payload.getD i 0) ∧
          s.bytesBut t [(ledgeBase b.core.val + b.inOff, f.payload.length)]) ∧
        s.coresBut t b.core ∧ s.semsSame t ∧
        t.rd .estuary .estFastCount 0 = s.counted .estuary .estFastCount 0 (if hit then 1 else 0) ∧
        t.rd .estuary .estFastMiss 0 = s.counted .estuary .estFastMiss 0 (if hit then 0 else 1)) ∧
    ((∀ g ∈ s.est.fast, g.running = true ∧ (s.queue g.bind.core g.bind.queue).state = .running) →
      ((s.queue b.core b.queue).state ≠ .idle ∨ (s.est.fast = [] ∧ (hit || come) = false) ∨
        (hit = true ∧ (∃ g ∈ s.est.fast, g.miss = false ∧ g.bind.core = b.core) ∧
          ∀ g ∈ s.est.fast, g.qp ≠ qp.toNat ∨ g.count ≠ q.fastCount)) →
      ∃ t, exec (.fastPathRequest qp bs ce) s = .next t ∧ t.est.fast = s.est.fast ++ [f] ∧
        (t.qp qp.toNat).map (·.fastCount) = some ((q.fastCount + 1) % 2 ^ 16) ∧
        t.mem = s.mem ∧ t.cores = s.cores ∧ t.sems = s.sems ∧
        t.rd .estuary .estFastCount 0 = s.counted .estuary .estFastCount 0 (if hit then 1 else 0) ∧
        t.rd .estuary .estFastMiss 0 = s.counted .estuary .estFastMiss 0 (if hit then 0 else 1))

/-- RDMA on device regions (R305, R308, R312) by a reliable queue pair whose context is cached: a WRITE that a region of the queue
pair holds whole stores its bytes and no other, and is acknowledged; a READ answers with the bytes, and beside its counters
moves only what the access moves in Harbour and behind it; one of a word that is uncorrectable leaves an error record and a
remote-access NAK; one that no region matches receives a remote-access NAK and changes no memory. The transport of a queue pair
that is not in ERROR and whose context is cached (R305, R311, R312, R319): a timeout, once its time has passed, or a
receiver-not-ready NAK sends again, in order, all that is not acknowledged while retries are left, and counts them; an
acknowledgement clears the retries and takes out what it covers; a WRITE that the host refuses goes out no more and leaves an
error record; with no retry left the queue pair enters ERROR with its event; a congestion notification halves the rate, down to
min_rate; a period without one raises it by rate_ai, up to line rate; no other queue pair changes. It rests on readings and
choices of the model: notes/assumptions/43.md, notes/assumptions/72.md, notes/assumptions/84.md. -/
def Obligations.RdmaResults : Prop :=
  (∀ (s : State) (qp : BitVec 18) (q : Qp) (rkey : BitVec 32) (va : BitVec 64) (ce : Bool), s.up → s.qp qp.toNat = some q →
      q.takesRdma = true → s.est.closed = false → (s.ctxSet qp.toNat).contains qp.toNat = true →
      (∀ x ∈ s.est.held, x.1 ≠ qp.toNat) →
      (∀ bs : List Byte, s.served va.toNat bs.length = true →
        ((s.devRegion qp.toNat q rkey.toNat va.toNat bs.length).isSome = true → (∀ a, s.regionAt a = none) →
          ∃ t, exec (.rdmaWriteReceived qp rkey va bs ce) s = .next t ∧
            (∀ i < bs.length, t.byte (va.toNat + i) = bs.getD i 0) ∧ s.bytesBut t [(va.toNat, bs.length)] ∧
            (ce = false →
              t.qp qp.toNat = some { q with recvPsn := (q.recvPsn + max 1 (ceilDiv bs.length q.mtu)) % 2 ^ 24 } ∧
              t.out = s.out ++ [.ack qp.toNat ((q.recvPsn + max 1 (ceilDiv bs.length q.mtu) - 1) % 2 ^ 24)]) ∧
            t.cores = s.cores ∧ t.sems = s.sems ∧ t.gulk = s.gulk ∧ t.records = s.records) ∧
        (s.devRegion qp.toNat q rkey.toNat va.toNat bs.length = none → ∃ t,
          exec (.rdmaWriteReceived qp rkey va bs ce) s = .next t ∧ t.out.getLast? = some (.nak qp.toNat 0) ∧
            (ce = false → t.out = s.out ++ [.nak qp.toNat 0]) ∧ t = { s with regs := t.regs, est := t.est, out := t.out })) ∧
      (∀ len : BitVec 32, s.served va.toNat len.toNat = true →
        ((s.devRegion qp.toNat q rkey.toNat va.toNat len.toNat).isSome = true → s.badIn va.toNat len.toNat = none →
          ∃ t, exec (.rdmaReadRequest qp rkey va len ce) s = .next t ∧
            t.out.getLast? = some (.readData qp.toNat (s.bytes va.toNat len.toNat)) ∧
            (ce = false → t.out = s.out ++ [.readData qp.toNat (s.bytes va.toNat len.toNat)] ∧ t.qp qp.toNat = some q) ∧
            t.rd .estuary .estTxPkts 0 = s.counted .estuary .estTxPkts 0 (max 1 (ceilDiv len.toNat q.mtu)) ∧
            t = { s.cacheOf t with regs := t.regs, est := t.est, out := t.out, freeIx := t.freeIx }) ∧
        (∀ a, (s.devRegion qp.toNat q rkey.toNat va.toNat len.toNat).isSome = true → s.badIn va.toNat len.toNat = some a → s.buffers →
          ∃ t, exec (.rdmaReadRequest qp rkey va len ce) s = .next t ∧ t.out.getLast? = some (.nak qp.toNat 0) ∧
            s.logged t .estuary .eMemUncorr ∧ s.memSame t) ∧
        (s.devRegion qp.toNat q rkey.toNat va.toNat len.toNat = none → ∃ t,
          exec (.rdmaReadRequest qp rkey va len ce) s = .next t ∧ t.out.getLast? = some (.nak qp.toNat 0) ∧
            (ce = false → t.out = s.out ++ [.nak qp.toNat 0]) ∧ t = { s with regs := t.regs, est := t.est, out := t.out }))) ∧
  (∀ (s : State) (qp : BitVec 18) (q : Qp) (n : Nat), s.up → n = qp.toNat → s.qp n = some q → q.error = false →
      (s.ctxSet n).contains n = true → (∀ x ∈ s.est.held, x.1 ≠ n) →
      (q.unacked ≠ [] → q.retries < s.fld .estuary .estRetryCfg 0 7 5 →
        q.timer.toNat + 16384 * 2 ^ s.fld .estuary .estRetryCfg 0 4 0 ≤ s.now.toNat → ∃ t, exec (.ackTimeout qp) s = .next t ∧
        t.qp n = some { q with retries := q.retries + 1, timer := s.now } ∧ t.out = s.out ++ q.unacked.map (fun x => .wire n x.psn x.what) ∧
        (∀ j, j ≠ n → t.qp j = s.qp j) ∧ t = { s with regs := t.regs, est := t.est, out := t.out }) ∧
      (s.now.toNat < q.timer.toNat + 16384 * 2 ^ s.fld .estuary .estRetryCfg 0 4 0 → exec (.ackTimeout qp) s = .next s) ∧
      (q.unacked ≠ [] → s.fld .estuary .estRetryCfg 0 10 8 = 7 ∨ q.rnrRetries < s.fld .estuary .estRetryCfg 0 10 8 →
        ∃ t, exec (.rnrNakReceived qp) s = .next t ∧ t.qp n = some { q with rnrRetries := q.rnrRetries + 1, timer := s.now } ∧
        t.out = s.out ++ q.unacked.map (fun x => .wire n x.psn x.what) ∧
        t.rd .estuary .estRnrNaks 0 = s.counted .estuary .estRnrNaks 0 1 ∧ (∀ j, j ≠ n → t.qp j = s.qp j) ∧
        t = { s with regs := t.regs, est := t.est, out := t.out }) ∧
      (q.unacked ≠ [] → s.fld .estuary .estRetryCfg 0 7 5 ≤ q.retries →
        q.timer.toNat + 16384 * 2 ^ s.fld .estuary .estRetryCfg 0 4 0 ≤ s.now.toNat → s.buffers → (∀ x ∈ q.unacked, x.req = none) →
        ∃ t r, exec (.ackTimeout qp) s = .next t ∧ t.qp n = some { q with error := true, unacked := [] } ∧ s.raised t .estuary 3 ∧
        t.errs.buffered = s.errs.buffered ++ [r] ∧ r.cls = 2 ∧ r.code = Status.eLink.code ∧ r.detail = n ∧ t.out = s.out ∧
        (∀ j, j ≠ n → t.qp j = s.qp j)) ∧
      (∀ psn : BitVec 24, q.ud = false → ∃ t, exec (.ackReceived qp psn .ack) s = .next t ∧
        t.qp n = some { q with retries := 0, rnrRetries := 0, timer := s.now, unacked := acked q.unacked psn.toNat } ∧
        (∀ j, j ≠ n → t.qp j = s.qp j) ∧ t = { s with est := t.est }) ∧
      (∀ psn : BitVec 24, q.ud = false → ∃ t, exec (.ackReceived qp psn .sequence) s = .next t ∧
        t.qp n = some { q with
          retries := 0, rnrRetries := 0, timer := s.now, unacked := acked q.unacked ((psn.toNat + 2 ^ 24 - 1) % 2 ^ 24) } ∧
        t.out = s.out ++ (acked q.unacked ((psn.toNat + 2 ^ 24 - 1) % 2 ^ 24)).map (fun x => .wire n x.psn x.what) ∧
        (∀ j, j ≠ n → t.qp j = s.qp j)) ∧
      (∀ (psn : BitVec 24) (x : Sent) (a k : Nat) (bs : List Byte), q.ud = false → q.unacked = [x] → x.psn = psn.toNat →
        1 ≤ x.packets → x.packets ≤ 2 ^ 22 → x.what = .write a k bs → s.buffers →
        ∃ t r, exec (.ackReceived qp psn .access) s = .next t ∧
          t.qp n = some { q with unacked := [], sendPsn := psn.toNat, timer := s.now } ∧ t.out = s.out ∧
          t.errs.buffered = s.errs.buffered ++ [r] ∧ r.cls = 1 ∧ r.code = Status.eAddr.code ∧ r.detail = n ∧
          (∀ j, j ≠ n → t.qp j = s.qp j)) ∧
      (∃ t, exec (.cnpReceived qp) s = .next t ∧
        t.qp n = some { q with rate := max (q.rate / 2) (min (10 * s.fld .estuary .estCcCfg 0 55 48) 4000), notified := s.now } ∧
        t.rd .estuary .estCnpReceived 0 = s.counted .estuary .estCnpReceived 0 1 ∧
        s.regsBut t [regKey .estuary .estCnpReceived 0] ∧ (∀ j, j ≠ n → t.qp j = s.qp j) ∧ t = { s with regs := t.regs, est := t.est }) ∧
      (q.notified.toNat + 4000 * s.fld .estuary .estCcCfg 0 47 32 ≤ s.now.toNat → ∃ t, exec (.rateIncrease qp) s = .next t ∧
        t.qp n = some { q with rate := min 4000 (q.rate + s.fld .estuary .estCcCfg 0 31 16), notified := s.now } ∧
        (∀ j, j ≠ n → t.qp j = s.qp j) ∧ t = { s with est := t.est }) ∧
      (s.now.toNat < q.notified.toNat + 4000 * s.fld .estuary .estCcCfg 0 47 32 → exec (.rateIncrease qp) s = .next s))

/-- Ethernet ports and contexts (R305, R308, R310, R326, R327, R433): a link that comes up takes the port's configuration and raises
its event; one that goes down ends its pauses and raises its event; a pause or its end on a priority that the port honours sets
or clears that priority; a request for the port's own address is answered with its MAC address; a context that was fetched is
cached and waits no more, and a packet that waited for it has its effect; a frame that is dropped is counted; and queue pair 1
is set up with its peer. It rests on readings and choices of the model: notes/assumptions/2.md, notes/assumptions/35.md,
notes/assumptions/44.md, notes/assumptions/84.md. -/
def Obligations.EthernetResults : Prop :=
  ∀ (s : State) (p : Fin 4), s.up →
    (s.linkUp p = false → bit1 (s.rd .estuary .estPortCfg p) 0 = true → s.sys.deadPorts.contains p.val = false →
      ∃ t, exec (.ethLinkUp p) s = .next t ∧ t.linkUp p = true ∧ (∀ o, o ≠ p → t.linkUp o = s.linkUp o) ∧ s.raised t .estuary 1 ∧
      t.est = { s.est with ports := t.est.ports } ∧ FMap.get none t.est.ports p.val = some (s.rd .estuary .estPortCfg p) ∧
      s.regsBut t (regKey .estuary .estStat 0 :: eventKeys .estuary) ∧ t = { s with regs := t.regs, est := t.est }) ∧
    (s.linkUp p = true ∨ bit1 (s.rd .estuary .estPortCfg p) 0 = false ∨ s.sys.deadPorts.contains p.val = true →
      exec (.ethLinkUp p) s = .next s) ∧
    (s.linkUp p = true → ∃ t, exec (.ethLinkDown p) s = .next t ∧ t.linkUp p = false ∧ (∀ o, o ≠ p → t.linkUp o = s.linkUp o) ∧
      s.raised t .estuary 0 ∧ FMap.get 0 t.est.paused p.val = 0 ∧ s.regsBut t (regKey .estuary .estStat 0 :: eventKeys .estuary) ∧
      t = { s with regs := t.regs, est := { s.est with paused := t.est.paused } }) ∧
    (s.linkUp p = false → exec (.ethLinkDown p) s = .next s) ∧
    (∀ (prio : Fin 8) (on : Bool) (cfg : Word), cfg = (FMap.get none s.est.ports p.val).getD (s.rd .estuary .estPortCfg p) →
      (bit1 cfg (4 + prio.val) = true → ∃ t, exec (.pfcPauseReceived p prio on) s = .next t ∧
        (∀ j, (FMap.get 0 t.est.paused p.val).testBit j =
          if j = prio.val then on else (FMap.get 0 s.est.paused p.val).testBit j) ∧
        (∀ o, o ≠ p.val → FMap.get 0 t.est.paused o = FMap.get 0 s.est.paused o) ∧
        t = { s with est := { s.est with paused := t.est.paused } }) ∧
      (bit1 cfg (4 + prio.val) = false → exec (.pfcPauseReceived p prio on) s = .next s)) ∧
    (∀ hi lo, s.linkUp p = true → bit1 (s.rd .estuary .estPortIpv4 p) 32 = true →
      (bits (s.rd .estuary .estPortIpv4 p) 31 0 = lo.toNat →
        exec (.neighbourRequest p false hi lo) s = .next { s with out := s.out ++ [.neighbour p.val (macOf p.val)] }) ∧
      (bits (s.rd .estuary .estPortIpv4 p) 31 0 ≠ lo.toNat → exec (.neighbourRequest p false hi lo) s = .next s)) ∧
    (∀ qp : BitVec 18, (s.fetching.contains qp.toNat = true → (∀ x ∈ s.est.held, x.1 ≠ qp.toNat) → s.est.fast = [] → ∃ t, exec (.contextFill qp) s = .next t ∧
        qp.toNat ∈ t.ctxSet qp.toNat ∧ (∀ x, x ∈ t.est.misses ↔ x ∈ s.est.misses ∧ x ≠ qp.toNat) ∧
        (∀ j, j % 1024 ≠ qp.toNat % 1024 → t.ctxSet j = s.ctxSet j) ∧
        t = { s with est := { s.est with cache := t.est.cache, misses := t.est.misses } }) ∧
      (∀ q : Qp, s.fetching.contains qp.toNat = true → s.est.held = [(qp.toNat, .cnpReceived qp)] → s.est.fast = [] →
        s.qp qp.toNat = some q → ∃ t, exec (.contextFill qp) s = .next t ∧ t.est.held = [] ∧ qp.toNat ∈ t.ctxSet qp.toNat ∧
          t.qp qp.toNat = some { q with
            rate := max (q.rate / 2) (min (10 * s.fld .estuary .estCcCfg 0 55 48) 4000), notified := s.now } ∧
          t.rd .estuary .estCnpReceived 0 = s.counted .estuary .estCnpReceived 0 1) ∧
      (s.fetching.contains qp.toNat = false → exec (.contextFill qp) s = .next s)) ∧
    (∃ t, exec (.frameDropped p) s = .next t ∧ t.rd .estuary .estDropped 0 = s.counted .estuary .estDropped 0 1 ∧
      s.regsBut t [regKey .estuary .estDropped 0] ∧ t = { s with regs := t.regs }) ∧
    (∀ (ip : BitVec 128) (n psn : BitVec 24), s.standby = true → ∃ t x, exec (.setMgmtQp p ip n psn) s = .next t ∧ x < 2 ^ 24 ∧
      t.qp 1 = some { role := 0, port := p.val, mgmt := true, peerQpn := n.toNat, peerIp := ip.toNat, recvPsn := psn.toNat,
                      sendPsn := x } ∧
      t.out = s.out ++ [.mctp 3 .ok (leBytes x 3)] ∧ (∀ j, j ≠ 1 → t.qp j = s.qp j) ∧
      t = { s with est := t.est, out := t.out, freeIx := s.freeIx + 1 })

/-! ### Tideway -/

/-- Writes of a ring's tail (R233, R288, R341): a tail no more than the ring's size ahead of the head is taken and nothing else
changes; one further ahead is ignored and raises the overrun event of its page. Frames at a Tideway port that carries frames,
while nothing waits to be sent and no collective runs (R30, R333 to R335, R342, R345): a frame that fails its CRC is counted and
refused; one from beyond a gap is refused and not applied, and one received before is acknowledged again; a MULTICAST in order
stores its data, inside an arrival window, and nothing else, or is answered with E_ADDR, and is acknowledged; one of a
collective that is not issued yet is held; an acknowledgement takes the frames it covers out of the replay buffer, and a refusal
sends the others again; credits come back to their channel, up to 64; an abort for a collective not issued yet is kept. A port
that is down does nothing. It rests on readings and choices of the model: notes/assumptions/45.md, notes/assumptions/47.md. -/
def Obligations.TidewayFrameResults : Prop :=
  (∀ (s : State) (v : Word) (p : Pg) (c : Instr) (head tail size bit : Nat) (r : RegName) (ix hi lo : Nat), s.up →
      ((∃ h : Fin 2, p = .foreshore h ∧ c = .fsRingTailWrite h v ∧ head = s.fld p .fsRingHead 0 31 0 ∧ tail = bits v 31 0 ∧
          size = 2 ^ s.fld p .fsRingCfg 0 3 0 ∧ bit = 1 ∧ r = .fsRingTail ∧ ix = 0 ∧ hi = 31 ∧ lo = 0) ∨
        (p = .cliff ∧ c = .cliffRingTailWrite v ∧ head = s.fld p .cliffRingHead 0 31 0 ∧ tail = bits v 31 0 ∧
          size = 2 ^ s.fld p .cliffRingCfg 0 3 0 ∧ bit = 4 ∧ r = .cliffRingTail ∧ ix = 0 ∧ hi = 31 ∧ lo = 0) ∨
        (∃ g : Fin 8, p = .tideway ∧ c = .twRingTailWrite g v ∧ head = s.fld p .twRingPtr g 31 0 ∧ tail = bits v 63 32 ∧
          size = 2 ^ s.fld p .twRing g 51 48 ∧ bit = 5 ∧ r = .twRingPtr ∧ ix = g ∧ hi = 63 ∧ lo = 32)) →
      ((tail + 2 ^ 32 - head) % 2 ^ 32 ≤ size → ∃ t, exec c s = .next t ∧ t.rd p r ix = setBits (s.rd p r ix) hi lo tail ∧
        s.regsBut t [regKey p r ix] ∧ t = { s with regs := t.regs }) ∧
      (size < (tail + 2 ^ 32 - head) % 2 ^ 32 → ∃ t, exec c s = .next t ∧ s.raised t p bit ∧ s.regsBut t (eventKeys p) ∧
        t = { s with regs := t.regs })) ∧
  (∀ (s : State) (p : Fin 16) (f : TwFrame) (x : TwPort) (d : Nat), s.up → x = s.twPort p →
      d = (f.seq.toNat + 65536 - x.expect) % 65536 →
      (s.twUp p = false → (∀ ok, exec (.tidewayDataFrame p f ok) s = .next s) ∧ ∀ k, exec (.tidewayControlFrame p k) s = .next s) ∧
      (s.twUp p = true →
        (∃ t, exec (.tidewayDataFrame p f false) s = .next t ∧ t.rd (twPg p) .twpCrcErrors 0 = s.counted (twPg p) .twpCrcErrors 0 1 ∧
          s.regsBut t [regKey (twPg p) .twpCrcErrors 0, regKey (twPg p) .twpTxFrames 0] ∧
          t = { s with regs := t.regs, out := s.out ++ [.twAck p x.expect false], freeIx := t.freeIx }) ∧
        (s.twCalm →
          (0 < d → d < 32768 → ∃ t, exec (.tidewayDataFrame p f true) s = .next t ∧ t.out = s.out ++ [.twAck p x.expect false] ∧
            (t.twPort p).expect = x.expect ∧ (t.twPort p).rxTime = s.now ∧ (t.twPort p).rxSent = f.time ∧ t.mem = s.mem ∧
            t.cores = s.cores ∧ t.sems = s.sems) ∧
          (32768 ≤ d → s.tw.held = [] → ∃ t, exec (.tidewayDataFrame p f true) s = .next t ∧
            t.out = s.out ++ [.twAck p ((x.expect + 65535) % 65536) true] ∧ (t.twPort p).expect = x.expect ∧ t.mem = s.mem ∧
            t.cores = s.cores ∧ t.sems = s.sems) ∧
          (f.seq.toNat = x.expect → f.op = 5 → s.tw.held = [] →
            (∀ c q, (s.queue c q).state ≠ .waiting ∧ ∀ g ∈ (s.queue c q).flights, g.gated = false) → s.est.fast = [] →
            (s.inWindow f.addr.toNat (TwFrame.data f).length = true →
              ∃ t, exec (.tidewayDataFrame p f true) s = .next t ∧ (t.twPort p).expect = (x.expect + 1) % 65536 ∧
              t.out = s.out ++ [.twAck p x.expect true] ∧
              (∀ i < (TwFrame.data f).length, t.byte (f.addr.toNat + i) = (TwFrame.data f).getD i 0) ∧
              s.bytesBut t [(f.addr.toNat, (TwFrame.data f).length)] ∧ t.gulk = s.gulk ∧ t.est = s.est ∧ t.cliff = s.cliff) ∧
            (s.inWindow f.addr.toNat (TwFrame.data f).length = false →
              ∃ t, exec (.tidewayDataFrame p f true) s = .next t ∧ (t.twPort p).expect = (x.expect + 1) % 65536 ∧
              t.out = s.out ++ [.twAnswer p .eAddr, .twAck p x.expect true] ∧ t.mem = s.mem ∧ t.cores = s.cores ∧ t.sems = s.sems)) ∧
          (f.seq.toNat = x.expect → f.op ≠ 5 → s.unissued f = true → ∃ t, exec (.tidewayDataFrame p f true) s = .next t ∧
            (t.twPort p).expect = (x.expect + 1) % 65536 ∧ t.tw.held = s.tw.held ++ [(p.val, f)] ∧ t.out = s.out ∧ t.mem = s.mem ∧
            t.cores = s.cores ∧ t.sems = s.sems) ∧
          (∀ (vc : Fin 4) (n : BitVec 4), x.credits.length = 4 → ∃ t, exec (.tidewayControlFrame p (.credit vc n)) s = .next t ∧
            (t.twPort p).credits.getD vc 0 = min 64 (x.credits.getD vc 0 + n.toNat) ∧
            (∀ v < 4, v ≠ vc.val → (t.twPort p).credits.getD v 0 = x.credits.getD v 0) ∧
            (∀ o, o ≠ p.val → t.twPort o = s.twPort o) ∧ s.regsBut t [regKey (twPg p) .twpRxFrames 0] ∧
            t = { s with regs := t.regs, tw := t.tw }) ∧
          (∀ (q : BitVec 16) (l : List TwFrame), x.replays = 0 →
            (l = x.replay.filter (fun g => 32768 ≤ (q.toNat + 65536 - g.seq.toNat) % 65536) →
              ∃ t, exec (.tidewayControlFrame p (.ack q)) s = .next t ∧ t.twPort p = { x with replay := l } ∧
              t.rd (twPg p) .twpRxFrames 0 = s.counted (twPg p) .twpRxFrames 0 1 ∧ (∀ o, o ≠ p.val → t.twPort o = s.twPort o) ∧
              s.regsBut t [regKey (twPg p) .twpRxFrames 0] ∧ t = { s with regs := t.regs, tw := t.tw }) ∧
            (l = x.replay.filter (fun g => 32768 ≤ (q.toNat + 65535 + 65536 - g.seq.toNat) % 65536) → l ≠ [] →
              ∃ t, exec (.tidewayControlFrame p (.negative q)) s = .next t ∧
              t.twPort p = { x with replay := l.map (fun g => { g with time := s.now }), replays := 1 } ∧
              t.out = s.out ++ l.map (fun g => .twFrame p { g with time := s.now }) ∧
              (∀ o, o ≠ p.val → t.twPort o = s.twPort o) ∧ t = { s with regs := t.regs, tw := t.tw, out := t.out })) ∧
          (∀ (g : Fin 64) (q : BitVec 26), (q.toNat + 2 ^ 26 - FMap.get 0 s.tw.gseq g.val % 2 ^ 26) % 2 ^ 26 < 2 ^ 25 →
            (g.val, q.toNat) ∉ s.tw.aborted → ∃ t, exec (.tidewayControlFrame p (.abort g q)) s = .next t ∧
            t.tw.aborted = s.tw.aborted ++ [(g.val, q.toNat)] ∧ t = { s with regs := t.regs, tw := t.tw }))))

/-- Tideway ports (R28, R30, R334, R337 to R339): frames not acknowledged in time are sent again, in order, with the time of that
sending, and after 32 consecutive replays the port retrains; a port that has retrained for its limit is down with its frames
gone and its event raised, and one within it waits; a port that trains with the neighbour its entries expect comes up, DEGRADED
with fewer than four lanes; a recalibration, in slack water, notes its time and raises its event; a timing exchange is
published, and disciplines the tideline that follows its port. WAVELENGTH_FAIL (R336, R351): a wavelength that fails is marked;
its lane moves to the spare with its event, or is lost, and the port is DEGRADED while it carries frames with a lane left, and
down, to train again, with none; while the port's source drains, the port may run DEGRADED instead; a wavelength that has failed
before changes nothing. It rests on readings and choices of the model: notes/assumptions/2.md, notes/assumptions/45.md. -/
def Obligations.TidewayPortResults : Prop :=
  (∀ (s : State) (p : Fin 16) (x : TwPort), s.up → x = s.twPort p →
      (s.twUp p = true → s.ackLate p = true → x.replays < 32 → ∃ t, exec (.replayTimeout p) s = .next t ∧
        t.twPort p = { x with replay := x.replay.map (fun g => { g with time := s.now }), replays := x.replays + 1 } ∧
        t.out = s.out ++ x.replay.map (fun g => .twFrame p { g with time := s.now }) ∧
        t.rd (twPg p) .twpReplays 0 = s.counted (twPg p) .twpReplays 0 x.replay.length ∧
        (∀ o, o ≠ p.val → t.twPort o = s.twPort o) ∧ s.regsBut t [regKey (twPg p) .twpReplays 0] ∧
        t = { s with regs := t.regs, tw := t.tw, out := t.out }) ∧
      (s.twUp p = true → s.ackLate p = true → 32 ≤ x.replays → ∃ t, exec (.replayTimeout p) s = .next t ∧ t.twState p = 4 ∧
        t.twPort p = { x with retrain := some s.now, replays := 0 } ∧ t.out = s.out ∧
        s.regsBut t [regKey (twPg p) .twpStat 0, regKey .tideway .twStat 0] ∧ t = { s with regs := t.regs, tw := t.tw }) ∧
      (s.twUp p = false ∨ s.ackLate p = false → exec (.replayTimeout p) s = .next s) ∧
      (∀ a, x.retrain = some a → s.twUp p = false → s.twCalm → (∀ y ∈ s.tw.remote, y.2 ≠ p.val + 1) →
        (4000 * max 1 (s.fld .tideway .twCtrl 0 22 7) ≤ (s.now - a).toNat → ∃ t, exec (.linkTimeout p) s = .next t ∧ t.twState p = 0 ∧
          t.twPort p = { x with replay := [], retrain := none, replays := 0 } ∧ s.raised t (twPg p) 0 ∧
          (∀ h ∈ t.tw.held, h.1 ≠ p.val) ∧ t = { s with regs := t.regs, tw := t.tw }) ∧
        ((s.now - a).toNat < 4000 * max 1 (s.fld .tideway .twCtrl 0 22 7) → exec (.linkTimeout p) s = .next s)) ∧
      (∀ (id : BitVec 32) (a : Word), x.retrain = some a → x.replay = [] → s.twCalm → s.twUp p = false →
        bit1 (s.rd (twPg p) .twpCtrl 0) 0 = true → s.sys.deadPorts.contains (32 + p.val) = false →
        (∀ k < 256, bit1 (s.rd .tideway .twPeer k) 63 = true → p.val ∈ s.peerPorts k → s.fld .tideway .twPeer k 31 0 = id.toNat) →
        0 < s.lanes p → ∃ t, exec (.tidewayLinkUp p id) s = .next t ∧ t.twState p = (if s.lanes p = 4 then 2 else 3) ∧
          t.fld (twPg p) .twpStat 0 63 32 = id.toNat ∧ t.twPort p = { x with retrain := none } ∧
          (s.lanes p = 4 → s.raised t (twPg p) 1) ∧
          (s.lanes p ≠ 4 → bit1 (t.rd (twPg p) .event 0) 1 = true ∧ bit1 (t.rd (twPg p) .event 0) 3 = true) ∧
          (∀ i < 4, t.laneWl p i = s.laneWl p i) ∧ t.out = s.out ∧ t.mem = s.mem) ∧
      (∀ w : Fin 5, (s.twUp p = true → s.wlFailed p w = false → s.slackFor 0 = true → ∃ t, exec (.recalibration p w) s = .next t ∧
        t.rd (twPg p) .twpCalTime 0 = s.now ∧ s.raised t (twPg p) 5 ∧
        s.regsBut t (regKey (twPg p) .twpCalTime 0 :: eventKeys (twPg p)) ∧ t = { s with regs := t.regs }) ∧
        (s.slackFor 0 = false → exec (.recalibration p w) s = .next s)) ∧
      (∀ (d : BitVec 24) (off : Word), s.twUp p = true →
        (s.timeFollows = false → ∃ t, exec (.timingExchange p d off) s = .next t ∧
          t.rd (twPg p) .twpTiming 0 = BitVec.ofNat 64 (d.toNat + sat32 off.toInt * 2 ^ 24) ∧
          s.regsBut t ([RegName.twpTiming, .twpTxFrames, .twpRxFrames].map (regKey (twPg p) · 0)) ∧ t = { s with regs := t.regs }) ∧
        (s.timeFollows = true → s.fld .tideway .twCtrl 0 6 3 = p.val → s.standby = true →
          ∃ t, exec (.timingExchange p d off) s = .next t ∧
          t.rd (twPg p) .twpTiming 0 = BitVec.ofNat 64 (d.toNat + sat32 off.toInt * 2 ^ 24) ∧
          t.fld .tideline .discStat 0 39 8 = sat32 off.toInt))) ∧
  (∀ (s : State) (p : Fin 16) (w : Fin 5), s.up →
      (s.wlFailed p w = true → exec (.wavelengthFail p w) s = .next s) ∧
      (s.wlFailed p w = false → ∃ t, exec (.wavelengthFail p w) s = .next t ∧ t.wlFailed p w = true ∧
        (∀ v < 5, v ≠ w.val → t.wlFailed p v = s.wlFailed p v) ∧
        ((∀ i < 4, s.laneWl p i ≠ w) → (∀ i < 4, t.laneWl p i = s.laneWl p i) ∧ s.regsBut t [regKey (twPg p) .twpStat 0] ∧
          t = { s with regs := t.regs }) ∧
        (∀ i < 4, s.laneWl p i = w → (∀ j < 4, j ≠ i → s.laneWl p j ≠ w) →
          (∀ j < 4, j ≠ i → t.laneWl p j = s.laneWl p j) ∧
          (∀ v, s.spareWl p = some v → t.laneWl p i = v ∧
            (s.fld .tideway .twLaser (p.val / 4) 2 1 ≠ 1 → s.raised t (twPg p) 2 ∧
              t.rd (twPg p) .twpLaneSpares 0 = s.counted (twPg p) .twpLaneSpares 0 1 ∧
              s.regsBut t (regKey (twPg p) .twpStat 0 :: regKey (twPg p) .twpLaneSpares 0 :: eventKeys (twPg p)) ∧
              t = { s with regs := t.regs, errs := t.errs }) ∧
            (s.fld .tideway .twLaser (p.val / 4) 2 1 = 1 → s.raised t (twPg p) 2 ∨ (s.twUp p = true ∧ t.twState p = 3) ∨
              (s.twUp p = false ∧ t.twState p = s.twState p))) ∧
          (s.spareWl p = none → t.laneWl p i = 7 ∧
            ((∀ j < 4, j ≠ i → s.laneWl p j = 7) → t.twState p = 0 ∧ s.raised t (twPg p) 0 ∧
              t.twPort p = { s.twPort p with retrain := some s.now } ∧ t = { s with regs := t.regs, tw := t.tw }) ∧
            ((∃ j < 4, j ≠ i ∧ s.laneWl p j ≠ 7) → t = { s with regs := t.regs } ∧
              (s.twUp p = true → t.twState p = 3 ∧ s.raised t (twPg p) 3))))))

/-- Laser sources (R330 to R332, R352, R484): an ACTIVE module whose secondary source can take its ports drains, and another request
is ignored with CFG_IGNORED; once its ports are moved, in slack water, it is DRAINED, its ports on the secondary source, with
its event; a restore takes them back; a module that fails is in FAULT, its own ports moved where the secondary source can take
them and down where it cannot, with its event; one that is taken out when it is DRAINED raises none; a module that is inserted
is present with its figures; one that is absent does nothing. REMOTE_SEMAPHORE_FRAME (R86, R346, R347) at a port that carries
frames, while no queue waits on a faulted semaphore and no fast-path request is open: an ADD or a SUB acts on the global
semaphore and is answered with its status, a fault marks the semaphore and is answered with OK, the port is remembered, and no
other semaphore, queue or byte changes. It rests on readings and choices of the model: notes/assumptions/2.md,
notes/assumptions/24.md, notes/assumptions/45.md. -/
def Obligations.LaserResults : Prop :=
  (∀ (s : State) (m : Fin 4) (keys : List Nat),
      keys = regKey .tideway .twStat 0 :: (List.range 4).map (regKey .tideway .twLaser) ++
        (List.range 4).map (fun i => regKey (twPg (4 * m.val + i)) .twpStat 0) →
      (s.up → s.laserPresent m = true → s.laserState m = 0 → s.secondaryFree m = true → ∃ t, exec (.laserDrain m) s = .next t ∧
        t.laserState m = 1 ∧ s.regsBut t [regKey .tideway .twLaser m] ∧ t = { s with regs := t.regs }) ∧
      (s.up → s.laserPresent m = false ∨ s.laserState m ≠ 0 ∨ s.secondaryFree m = false → ∃ t, exec (.laserDrain m) s = .next t ∧
        s.raised t .tideway 4 ∧ s.regsBut t (eventKeys .tideway) ∧ t = { s with regs := t.regs }) ∧
      (s.up → s.laserPresent m = true → s.laserState m = 1 → s.slackFor 0 = true → ∃ t, exec (.laserDrained m) s = .next t ∧ t.laserState m = 2 ∧
        (∀ i < 4, ∀ w < 5, t.fld (twPg (4 * m.val + i)) .twpStat 0 (2 * w + 21) (2 * w + 20) = (m.val + 3) % 4) ∧
        s.raised t .tideway 1 ∧ s.regsBut t (keys ++ eventKeys .tideway) ∧ t = { s with regs := t.regs }) ∧
      (s.up → s.laserPresent m = true → s.laserState m ≠ 3 → ∃ t, exec (.laserRestore m) s = .next t ∧ t.laserState m = 0 ∧
        (∀ i < 4, ∀ w < 5, t.fld (twPg (4 * m.val + i)) .twpStat 0 (2 * w + 21) (2 * w + 20) = m.val) ∧
        s.regsBut t keys ∧ t = { s with regs := t.regs }) ∧
      (s.up → s.laserPresent m = false ∨ s.laserState m = 3 → exec (.laserRestore m) s = .next s) ∧
      (s.up → s.laserPresent m = false ∨ s.laserState m ≠ 1 ∨ s.slackFor 0 = false → exec (.laserDrained m) s = .next s) ∧
      (s.laserPresent m = true → s.laserState m ≠ 2 → s.secondaryFree m = true → (∃ q ∈ s.portsFed m, q / 4 = m.val) →
        (∀ q ∈ s.portsFed m, q / 4 = m.val) → ∃ t, exec (.laserFailure m false) s = .next t ∧ t.laserState m = 3 ∧
        (∀ i < 4, ∀ w < 5, t.fld (twPg (4 * m.val + i)) .twpStat 0 (2 * w + 21) (2 * w + 20) = (m.val + 3) % 4) ∧
        s.raised t .tideway 0 ∧ s.regsBut t (keys ++ eventKeys .tideway) ∧ t = { s with regs := t.regs }) ∧
      (s.laserPresent m = true → s.laserState m ≠ 2 → s.secondaryFree m = false → (∃ q ∈ s.portsFed m, q / 4 = m.val) →
        ∃ t, exec (.laserFailure m false) s = .next t ∧ t.laserState m = 3 ∧
        (∀ i < 4, s.twUp (4 * m.val + i) = true → t.twState (4 * m.val + i) = 0 ∧
          (t.twPort (4 * m.val + i)).retrain = some s.now) ∧
        s.raised t .tideway 0 ∧ t = { s with regs := t.regs, tw := t.tw }) ∧
      (s.laserPresent m = true → s.laserState m = 2 → ∃ t, exec (.laserFailure m true) s = .next t ∧ t.laserPresent m = false ∧
        s.regsBut t keys ∧ t = { s with regs := t.regs }) ∧
      (s.laserPresent m = false → exec (.laserFailure m false) s = .next s ∧ exec (.laserFailure m true) s = .next s) ∧
      (∀ (o : BitVec 16) (c : BitVec 8), s.laserPresent m = false → ∃ t, exec (.laserInsert m o c) s = .next t ∧
        t.laserPresent m = true ∧ t.laserState m = 0 ∧ t.fld .tideway .twLaser m 18 3 = o.toNat ∧
        t.fld .tideway .twLaser m 26 19 = c.toNat ∧ bit1 (t.rd .tideway .twStat 0) (32 + m.val) = true ∧
        s.regsBut t keys ∧ t = { s with regs := t.regs }) ∧
      (∀ (o : BitVec 16) (c : BitVec 8), s.laserPresent m = true → exec (.laserInsert m o c) s = .next s)) ∧
  (∀ (s : State) (p : Fin 16) (i : BitVec 16) (n : BitVec 48), s.up → s.twUp p = true → s.est.fast = [] → s.faultedWaiter = none →
      (∀ (op : TwSem) (w : Word × Status), (op = .add ∧ w = semAdd (s.sem true 0 i.toNat) n.toNat) ∨
        (op = .sub ∧ w = semSub (s.sem true 0 i.toNat) n.toNat) → ∃ t, exec (.remoteSemaphoreFrame p op i n) s = .next t ∧
        t.sem true 0 i.toNat = w.1 ∧ t.out = s.out ++ [.twAnswer p w.2] ∧ (∀ j, j ≠ i.toNat → t.sem true 0 j = s.sem true 0 j) ∧
        FMap.get 0 t.tw.remote i.toNat = p.val + 1 ∧ s.regsBut t [regKey (twPg p) .twpRxFrames 0, regKey (twPg p) .twpTxFrames 0] ∧
        t = { s with regs := t.regs, sems := t.sems, tw := t.tw, out := t.out }) ∧
      ((s.markFaulted true 0 i.toNat).faultedWaiter = none → ∃ t, exec (.remoteSemaphoreFrame p .fault i n) s = .next t ∧
        semFaulted (t.sem true 0 i.toNat) = true ∧ semCount (t.sem true 0 i.toNat) = semCount (s.sem true 0 i.toNat) ∧
        t.out = s.out ++ [.twAnswer p .ok] ∧ (∀ j, j ≠ i.toNat → t.sem true 0 j = s.sem true 0 j) ∧
        FMap.get 0 t.tw.remote i.toNat = p.val + 1 ∧ t = { s with regs := t.regs, sems := t.sems, tw := t.tw, out := t.out }))

/-- The next descriptor of an idle ring, which passes its checks, starts at once and is in no doubt, while nothing else goes over
Tideway and no peer it needs is lost (R334, R340 to R344, R348 to R350). In a group of one an ALL_REDUCE, REDUCE_SCATTER,
ALL_GATHER or BROADCAST that keeps its format copies src to dst and writes no other byte; a MULTICAST is numbered for each of
its peers and writes no memory; a PERMUTE in a larger group writes nothing but its staging; each collective of a group takes its
next number. One that needs a lost peer ends with E_LINK and writes nothing. Beside these only what the reads move in Harbour
and behind it may change. The resolution of a PERMUTE in doubt (R350), by the next descriptor of an idle ring: a commit copies
the staged units to dst, advances the group's generation and is counted; a discard writes no memory; either leaves nothing in
doubt. It rests on readings and choices of the model: notes/assumptions/46.md, notes/assumptions/47.md. -/
def Obligations.CollectiveResults : Prop :=
  (∀ (s : State) (ring : Fin 8) (c : Coll), s.up → s.twCalm → s.tw.held = [] → s.tw.aborted = [] → s.twNext ring = some c →
      c.status = .ok → s.collCheck c = .ok → bit1 (c.w 0) 38 = false → s.collBad c = false → c.resolve = 0 →
      (∀ x ∈ [((1 : Nat), Instr.allReduce ring), (2, .reduceScatter ring), (3, .allGather ring), (4, .broadcast ring)], c.op = x.1 →
        s.grpSize c.group = 1 → c.fi = c.fo → (∀ a, s.regionAt a = none) → ∃ t k, exec x.2 s = .next t ∧ t.coll ring = some k ∧
          k.words = c.words ∧ k.running = true ∧ k.status = .ok ∧ t.collDone k = true ∧
          FMap.get 0 t.tw.gseq c.group = FMap.get 0 s.tw.gseq c.group + 1 ∧
          (∀ i < c.srcBytes, t.byte (c.dst + i) = s.byte (c.src + i)) ∧ s.bytesBut t [(c.dst, c.srcBytes)] ∧ t.out = s.out ∧
          t.gulk = s.gulk ∧ t.est = s.est) ∧
      ((s.collPeers c).any s.peerDead = false →
        (c.op = 5 → ∃ t k, exec (.multicast ring) s = .next t ∧ t.coll ring = some k ∧ k.words = c.words ∧ k.running = true ∧
          k.status = .ok ∧ (∀ j, FMap.get 0 t.tw.mcast j = FMap.get 0 s.tw.mcast j + (if j ∈ c.peers then 1 else 0)) ∧
          t = { s.cacheOf t with regs := t.regs, tw := t.tw, out := t.out, freeIx := t.freeIx }) ∧
        (c.op = 6 → 1 < s.grpSize c.group → ∃ t k, exec (.permute ring) s = .next t ∧ t.coll ring = some k ∧ k.words = c.words ∧
          k.running = true ∧ k.committed = false ∧ FMap.get 0 t.tw.gseq c.group = FMap.get 0 s.tw.gseq c.group + 1 ∧
          s.bytesBut t [(c.aux, c.inUnits * 4096 + 65536)] ∧ t.gulk = s.gulk ∧ t.est = s.est)) ∧
      ((s.collPeers c).any s.peerDead = true →
        ∀ x ∈ [((1 : Nat), Instr.allReduce ring), (2, .reduceScatter ring), (3, .allGather ring), (4, .broadcast ring),
          (5, .multicast ring), (6, .permute ring)], c.op = x.1 → ∃ t k, exec x.2 s = .next t ∧ t.coll ring = some k ∧
          k.words = c.words ∧ k.running = false ∧ k.status = .eLink ∧ s.memSame t ∧ t.out = s.out)) ∧
  (∀ (s : State) (ring : Fin 8) (c d : Coll), s.up → s.twCalm → s.tw.held = [] → s.tw.aborted = [] → s.twNext ring = some c →
      c.status = .ok → s.collCheck c = .ok → bit1 (c.w 0) 38 = false → c.op = 6 →
      FMap.get none s.tw.doubt c.group = some d →
      (c.resolve = 1 → (∀ i < d.staged.length, s.badIn (c.aux + 4096 * i) 4096 = none) → ∃ t k,
        exec (.permuteResolveCommit ring) s = .next t ∧ t.coll ring = some k ∧ k.committed = true ∧ k.status = .ok ∧
        k.wm = d.staged.length ∧ t.inDoubt c.group = false ∧ FMap.get none t.tw.doubt c.group = none ∧
        t.grpGen c.group = (s.grpGen c.group + 1) % 65536 ∧
        t.rd .tideway .twPermuteCount 0 = s.counted .tideway .twPermuteCount 0 1 ∧
        s.bytesBut t (d.staged.map (fun o => (c.dst + o, 4096))) ∧
        (∀ o, d.staged = [o] → (∀ a, s.regionAt a = none) → ∀ i < 4096, t.byte (c.dst + o + i) = s.byte (c.aux + i))) ∧
      (c.resolve = 2 → ∃ t k, exec (.permuteResolveDiscard ring) s = .next t ∧ t.coll ring = some k ∧ k.committed = true ∧
        k.status = .ok ∧ t.inDoubt c.group = false ∧ FMap.get none t.tw.doubt c.group = none ∧
        t.grpGen c.group = s.grpGen c.group ∧
        t = { s.cacheOf t with regs := t.regs, tw := t.tw, freeIx := t.freeIx }))

/-- COLLECTIVE_START and COLLECTIVE_COMPLETE (R341, R344, R345). A collective that waits for its start semaphore stays while the
semaphore is below its count and ends with E_ABORT when it is faulted; one that has reached it runs. A collective whose work is
done, with every frame acknowledged, completes with OK: its ring is free, the head moves past it, its post ADD and its record
are made and it is counted. One that failed before it ran tells its neighbours and leaves an error record. It rests on readings
and choices of the model: notes/assumptions/9.md, notes/assumptions/47.md, notes/assumptions/48.md, notes/assumptions/79.md. -/
def Obligations.CollectiveEndResults : Prop :=
  ∀ (s : State) (ring : Fin 8) (c : Coll), s.up → s.coll ring = some c → s.faultedWaiter = none → s.est.fast = [] →
    (c.running = false → c.status = .ok → bit1 (c.w 0) 38 = true →
      (semFaulted (s.sem true 0 (bits (c.w 5) 15 0)) = true →
        exec (.collectiveStart ring) s = .next (s.setColl ring (some { c with status := .eAbort }))) ∧
      (semFaulted (s.sem true 0 (bits (c.w 5) 15 0)) = false → semCount (s.sem true 0 (bits (c.w 5) 15 0)) < bits (c.w 4) 47 0 →
        exec (.collectiveStart ring) s = .next s) ∧
      (semFaulted (s.sem true 0 (bits (c.w 5) 15 0)) = false → bits (c.w 4) 47 0 ≤ semCount (s.sem true 0 (bits (c.w 5) 15 0)) →
        c.op = 4 → s.grpSize c.group = 1 → c.fi = c.fo → c.resolve = 0 → s.collBad c = false → (∀ r, r ≠ ring.val → s.coll r = none) →
        (∀ p, (s.twPort p).queue = []) → s.tw.sems = [] → (∀ a, s.regionAt a = none) →
        ∃ t, exec (.collectiveStart ring) s = .next t ∧ (∃ k, t.coll ring = some k ∧ k.running = true ∧ t.collDone k = true) ∧
          (∀ i < c.srcBytes, t.byte (c.dst + i) = s.byte (c.src + i)) ∧ s.bytesBut t [(c.dst, c.srcBytes)])) ∧
    (c.running = true → c.status = .ok → c.op ≠ 6 → s.collDone c = true → s.collQuiet c = true →
      (bit1 (c.w 0) 36 = true → (semAdd (s.sem true 0 (bits (c.w 5) 31 16)) (bits (c.w 5) 39 32 + 1)).2 = .ok) →
      ∃ t, exec (.collectiveComplete ring .finished) s = .next t ∧ t.coll ring = none ∧ (∀ r, r ≠ ring.val → t.coll r = s.coll r) ∧
        t.fld .tideway .twRingPtr ring 31 0 = (c.ix + 1) % 2 ^ 32 ∧
        t.rd .tideway .twCollCount 0 = s.counted .tideway .twCollCount 0 1 ∧
        (∀ i, t.sem true 0 i = if bit1 (c.w 0) 36 = true ∧ i = bits (c.w 5) 31 16 then
          (semAdd (s.sem true 0 i) (bits (c.w 5) 39 32 + 1)).1 else s.sem true 0 i) ∧
        (bit1 (c.w 0) 35 = false → t.records = s.records ∧ t.mem = s.mem) ∧
        (bit1 (c.w 0) 35 = true → ∃ x, t.records = s.records ++ [x] ∧ x.status = 0 ∧ x.id = c.ix + ring.val * 2 ^ 32 ∧
          s.bytesBut t [(s.twSlot ring c.ix, 32)]) ∧ t.cores = s.cores ∧ t.gulk = s.gulk ∧ t.out = s.out) ∧
    (c.running = false → c.status ≠ .ok → c.status ≠ .eLink → c.status ≠ .eGone → c.op ≠ 5 → c.resolve = 0 → 1 < s.grpSize c.group →
      s.buffers → bit1 (c.w 0) 36 = false → bit1 (c.w 0) 35 = false → ∀ e, ∃ t, exec (.collectiveComplete ring e) s = .next t ∧
        t.coll ring = none ∧ t.fld .tideway .twRingPtr ring 31 0 = (c.ix + 1) % 2 ^ 32 ∧ s.raised t .tideway 3 ∧
        s.logged t .tideway c.status ∧ t.mem = s.mem ∧ t.sems = s.sems ∧
        t.out = s.out ++ [.twToken (s.grpLeft c.group) 0 c.group c.gseq, .twToken (s.grpRight c.group) 0 c.group c.gseq])

/-! ### Training -/

/-- OPEN_JOB, TRAIN_STEP with its two other rows, and CLOSE_JOB (R356, R357, R359, R368, R372, R374) whose checks pass: a job takes
a free number with its configuration, generation and zero moments; a step joins the steps of its job and its request waits; a
closed job is gone; no other job changes. UPDATE_COMMIT (R358 to R368, R371, R374) of a job's oldest step, without a REMAP,
while the update engines run and the links of the stage are enabled. A step that finished runs its micro-batches, reduces their
gradient, and gives every tensor its update and the model its working copies; where the gradient is not finite, it skips the
update with both engines counting it; it is the job's last step and is answered with OK; one that met an uncorrectable error
changes no tensor and is answered with E_MEM_UNCORR. It rests on readings and choices of the model: notes/assumptions/30.md,
notes/assumptions/49.md, notes/assumptions/79.md. -/
def Obligations.TrainingResults : Prop :=
  (∀ (s : State) (qp : BitVec 18) (m : Msg) (u : State) (r : Req) (k j : Nat), s.takes qp.toNat m → s.gulkIdle →
      u = s.accepts qp.toNat m → r = msgReq m qp.toNat s.now → k = s.gulk.accepted → j = field m.body 0 4 →
      (m.opcode = 0x18 → firstFailure (u.openJobChecks r) = none → ∃ (t : State) (n : Nat) (x : Job), exec (.openJob qp m) s = .next t ∧ n < 16 ∧
        s.job n = none ∧ t.job n = some x ∧ x.model = field m.body 0 2 ∧ x.version = field m.body 2 1 ∧ x.gen = field m.body 8 4 ∧
        x.cfg = s.cfgBytes (field m.body 4 4) ∧ x.accum = field x.cfg 28 2 ∧ x.step = 0 ∧ x.runs = [] ∧ x.kept = none ∧ x.doubt = none ∧
        (∀ i y, FMap.get none x.tensors i = some y → (∀ z ∈ y.m, z = 0) ∧ ∀ z ∈ y.v, z = 0) ∧
        s.answers t m k .ok ∧ (∀ i, i ≠ n → t.job i = s.job i) ∧ s.coreSide t) ∧
      (∀ c x, (c, stepRow m) ∈ [(Instr.trainStep qp m, 0), (.remap qp m, 1), (.updateOnly qp m, 2)] → m.opcode = 0x19 →
        firstFailure (u.stepChecks r) = none → s.job j = some x → x.doubt = none → ∃ t y, exec c s = .next t ∧
        t.job j = some { x with runs := x.runs ++ [y] } ∧ y.req = k ∧ y.step = field m.body 8 8 ∧
        y.accum = (if field m.body 4 2 = 0 then x.accum else field m.body 4 2) ∧ y.only = stepOnly m.body ∧
        y.remap.isSome = stepRemap m.body ∧ t.req k = some r ∧ t.records = s.records ∧ (∀ i, i ≠ j → t.job i = s.job i) ∧
        t.gulk.models = s.gulk.models ∧ s.coreSide t) ∧
      (m.opcode = 0x1A → firstFailure (u.closeJobChecks r) = none → ∃ t, exec (.closeJob qp m) s = .next t ∧ t.job j = none ∧
        s.answers t m k .ok ∧ (∀ i, i ≠ j → t.job i = s.job i) ∧ s.coreSide t)) ∧
  (∀ (s : State) (j : Fin 16) (e : TrainEnd) (x : Job) (y : TrainRun) (r : Req) (rest : List TrainRun) (u : State)
        (grad : List (List (BitVec 32))), s.up → s.updates = true → s.job j = some x → x.runs = y :: rest → s.req y.req = some r →
      r.op = 0x19 → y.remap = none → (u, grad) = s.stepRuns x y r →
      (e.how = .finished → (y.only = false → s.stageLinks x (s.stageOf x) = .ok) →
        ∃ t z, exec (.updateCommit j e) s = .next t ∧ t.job j = some z ∧ z.step = y.step ∧ z.runs = rest ∧
        z.kept = some (y.step, grad) ∧ z.cfg = x.cfg ∧ z.gen = x.gen ∧ (cfgStage x.cfg ≠ 0 → z.accum = e.next.toNat) ∧
        (grad.any (·.any nonFinite) = true → z.tensors = x.tensors ∧ t.gulk.models = s.gulk.models ∧ s.memSame t ∧
          ∀ h : Fin 2, t.rd (.update h) .updSkips 0 = s.counted (.update h) .updSkips 0 1) ∧
        (grad.any (·.any nonFinite) = false →
          (∀ h : Fin 2, t.rd (.update h) .updCommits 0 = s.counted (.update h) .updCommits 0 1) ∧
          t.model x.model x.version =
            (s.model x.model x.version).map (fun m => { m with work := u.workCopies x z.tensors m.work }) ∧
          ∀ i c, i < cfgTensors x.cfg → c = cfgEntry x.cfg i →
            FMap.get none z.tensors i = (FMap.get none x.tensors i).map (fun w =>
              updateTensor x.cfg c y.step (tensorShape (s.jobPkg x) (entTensor c)).1 (tensorShape (s.jobPkg x) (entTensor c)).2.1
                (u.rowMarked (u.stepTokens r x.cfg y.accum)) w (grad.getD i []))) ∧
        (∀ h : Fin 2, t.fld (.update h) .updStat 0 47 16 = y.step % 2 ^ 32) ∧ s.ended t y.req r .ok ∧
        (∀ i, i ≠ j.val → t.job i = s.job i) ∧ t.cores = s.cores) ∧
      (∀ site, e.how = .uncorrected site → e.reduced = false → rest = [] → ∃ t, exec (.updateCommit j e) s = .next t ∧
        t.job j = some { x with runs := [] } ∧ s.ended t y.req r .eMemUncorr ∧ (∀ i, i ≠ j.val → t.job i = s.job i) ∧
        t.gulk.models = s.gulk.models ∧ t.cores = s.cores))

/-! ### Recovery in service -/

/-- SEM_RESET, ERR_RING_BASE and the corrected records (R379, R380, R385): a reset gives its semaphore SEM_RESET_VALUE with bits 48
and 49 clear and touches no other, and one that names no semaphore is ignored with CFG_IGNORED; a ring that is given takes the
records that waited, each at the slot of its number, and one out of range is ignored with CFG_IGNORED; the corrected records
whose 1 ms has passed are no longer held, and one that is written takes the next number. It rests on readings and choices of the
model: notes/assumptions/28.md, notes/assumptions/85.md. -/
def Obligations.RecoveryResults : Prop :=
  ∀ s : State, s.up →
    (∀ (v : Word) (scope : Bool) (c i : Nat), scope = bit1 v 16 → c = bits v 22 17 → i = bits v 15 0 →
      (scope = true ∨ i ≤ 4095 ∧ s.coreLive c = true → ∃ t, exec (.semReset v) s = .next t ∧
        semCount (t.sem scope c i) = s.fld .fault .semResetValue 0 47 0 ∧ semFaulted (t.sem scope c i) = false ∧
        bit1 (t.sem scope c i) 49 = false ∧
        (∀ b d j, t.sem b d j ≠ s.sem b d j → b = scope ∧ j = i ∧ (scope = false → d = c)) ∧
        (∀ d, t.core d = { s.core d with sems := (t.core d).sems }) ∧ t = { s with sems := t.sems, cores := t.cores }) ∧
      (scope = false → 4095 < i ∨ s.coreLive c = false → ∃ t, exec (.semReset v) s = .next t ∧ s.raised t .fault 5 ∧
        s.regsBut t (eventKeys .fault) ∧ t = { s with regs := t.regs })) ∧
    (∀ (v : Word) (base n : Nat), base = bits v 47 6 * 64 → n = bits v 52 48 →
      (n < 8 ∨ 20 < n ∨ base ≠ 0 ∧ s.code.hbmOk base (64 * 2 ^ n) = false → ∃ t, exec (.errRingBaseWrite v) s = .next t ∧
        s.raised t .fault 5 ∧ s.regsBut t (eventKeys .fault) ∧ t = { s with regs := t.regs }) ∧
      (8 ≤ n → n ≤ 20 → base = 0 → ∃ t, exec (.errRingBaseWrite v) s = .next t ∧ t.ringBase = 0 ∧ t.ringSize = 2 ^ n ∧
        s.regsBut t [regKey .fault .errRingBase 0] ∧ t = { s with regs := t.regs }) ∧
      (8 ≤ n → n ≤ 20 → base ≠ 0 → s.code.hbmOk base (64 * 2 ^ n) = true →
        (s.errs.buffered.map (fun r => r.seq % 2 ^ n)).Nodup → ∃ t, exec (.errRingBaseWrite v) s = .next t ∧
        t.ringBase = base ∧ t.ringSize = 2 ^ n ∧ t.errs = { s.errs with buffered := [] } ∧
        (∀ r ∈ s.errs.buffered, t.bytes (base + 64 * (r.seq % 2 ^ n)) 64 = r.bytes) ∧
        s.bytesBut t (s.errs.buffered.map (fun r => (base + 64 * (r.seq % 2 ^ n), 64))) ∧
        s.regsBehind t [regKey .fault .errRingBase 0] ∧
        t = { s.cacheOf t with regs := t.regs, errs := t.errs, mem := t.mem, bad := t.bad })) ∧
    (∃ t, exec .correctedRecordFlush s = .next t ∧
      t.errs.held = s.errs.held.filter (fun r => decide (s.now.toNat < r.time.toNat + 4000000)) ∧ s.semsSame t ∧ t.cores = s.cores ∧
      t.records = s.records) ∧
    ((∀ r ∈ s.errs.held, s.now.toNat < r.time.toNat + 4000000) → exec .correctedRecordFlush s = .next s) ∧
    (∀ (r : ErrRec) (p : Pg), s.errs.held = [r] → s.buffers → r.time.toNat + 4000000 ≤ s.now.toNat → Pg.ofIndex r.page = some p →
      ∃ (t : State) (x : ErrRec), exec .correctedRecordFlush s = .next t ∧ t.errs.buffered = s.errs.buffered ++ [x] ∧
        x.seq = (s.rd .fault .errRingHead 0).toNat ∧ x = { r with seq := x.seq, flags := x.flags } ∧
        t.rd .fault .errRingHead 0 = s.rd .fault .errRingHead 0 + 1 ∧
        t.rd p .errHead 0 = setBits (s.rd .fault .errRingHead 0) 63 63 1 ∧ s.regsBut t (logKeys p) ∧
        t = { s with regs := t.regs, errs := t.errs })

/-- SPARE_CORE_SWAP and SWAP_DONE (R187, R387, R388): a swap puts its core's sequencer page in DRAINING for its owner, and Harbour
of the die in RECOVERY; one of an absent core or beside another swap is ignored with CFG_IGNORED, and one without a spare raises
NO_SPARE; at its end the logical core is on the spare, its page reads as it did before, STATE_SAVE_COUNT has risen by the state
units that moved, SWAP_DONE is raised and SWAP_TIME is the time; queues, memory and semaphores are as they were. PC_RETIREMENT
and PC_RETIRED (R391): a retirement flushes the pseudo-channel's write-combining entries and is in progress; one of an absent
stack, beside another, or of a pseudo-channel that is retired is ignored with CFG_IGNORED, and one without a spare image raises
NO_SPARE; at its end PC_RETIRED is raised on the HBM page, retired_pc is one more and a spare image is used; no byte of memory
changes. It rests on readings and choices of the model: notes/assumptions/2.md, notes/assumptions/51.md,
notes/assumptions/68.md. -/
def Obligations.SwapResults : Prop :=
  (∀ (s : State) (c : Fin 36) (p : Pg), s.up → p = .sequencer c →
      (∀ o : Fin 3, s.coreLive c = true → s.sys.swap = none → s.spareFree (c.val / 6) = true →
        FMap.get none s.sys.slices (s.physOf c) = none → FMap.get none s.sys.slices (s.spareOf (c.val / 6)) = none →
        ∃ t, exec (.spareCoreSwap c o) s = .next t ∧
          t.sys.swap = some { core := c.val, before := s.liveRec p, owner := o.val } ∧
          t.liveRec p = { s.liveRec p with state := .draining, owner := o.val } ∧ (∀ d, d ≠ p → t.liveRec d = s.liveRec d) ∧
          t.fld .fault .swapStat 0 5 0 = c.val ∧ t.fld .fault .swapStat 0 6 6 = 1 ∧
          (∀ h : Fin 2, h.val = c.val / 18 → s.sys.fullTest = none → s.fld (.harbour h) .hbStat 0 21 19 ≠ 1 →
            t.fld (.harbour h) .hbStat 0 21 19 = 3) ∧
          s.regsBut t (regKey .fault .swapStat 0 :: [(0 : Fin 2), 1].flatMap (fun h =>
            [regKey (.harbour h) .hbStat 0, regKey (.harbour h) .hbFrozenTime 0])) ∧
          t = { s with regs := t.regs, lives := t.lives, sys := t.sys }) ∧
      (∀ o : Fin 3, s.coreLive c = false ∨ s.sys.swap.isSome = true → ∃ t, exec (.spareCoreSwap c o) s = .next t ∧
        s.raised t .fault 5 ∧ s.regsBut t (eventKeys .fault) ∧ t = { s with regs := t.regs }) ∧
      (∀ o : Fin 3, s.coreLive c = true → s.sys.swap = none → s.spareFree (c.val / 6) = false →
        ∃ t, exec (.spareCoreSwap c o) s = .next t ∧ s.raised t .fault 2 ∧ s.regsBut t (eventKeys .fault) ∧ t = { s with regs := t.regs }) ∧
      (s.sys.swap = none → exec .swapDone s = .next s) ∧
      (∀ w, s.sys.swap = some w → w.core = c.val → s.live p ≠ .drained → exec .swapDone s = .next s) ∧
      (∀ w, s.sys.swap = some w → w.core = c.val → s.live p = .drained → (s.liveRec p).waiting = [] → w.before.state ≠ .running →
        ∃ t, exec .swapDone s = .next t ∧ t.sys.swap = none ∧ t.physOf c = s.spareOf (c.val / 6) ∧
          t.spareFree (c.val / 6) = false ∧ t.fld .fault .swapStat 0 6 6 = 0 ∧ t.rd .fault .swapTime 0 = s.now ∧ s.raised t .fault 1 ∧
          t.liveRec p = { w.before with held := w.before.held || (s.liveRec p).held, waiting := [] } ∧
          (∀ d, d ≠ p → t.liveRec d = s.liveRec d) ∧ t = { s with regs := t.regs, lives := t.lives, sys := t.sys } ∧
          (s.sys.slices = [] → s.sys.fullTest = none → t.rd (.recurrent c) .stateSaveCount 0 =
            s.counted (.recurrent c) .stateSaveCount 0 (s.core c).stateUnits) ∧
          s.regsBut t ([regKey .fault .swapStat 0, regKey .fault .swapTime 0, regKey .security .secOwner 0,
            regKey (.recurrent c) .stateSaveCount 0] ++ eventKeys .fault ++
            eventKeys .multicast ++ [(0 : Fin 2), 1].flatMap (fun h =>
              [regKey (.harbour h) .hbStat 0, regKey (.harbour h) .hbFrozenTime 0]))) ∧
      (∀ w h, s.sys.swap = some w → w.core = c.val → s.live p = .drained → (s.liveRec p).waiting = [] → w.before.state = .running →
        (s.core c).heldBells = [] → (s.core c).holder = some h → ((s.core c).queue h).keeps = true → s.higherReady c h = false →
        (∀ r, (s.queue c r).state = .waiting → (s.queue c r).inWaitGe = true) → ∃ t, exec .swapDone s = .next t ∧ t.sys.swap = none ∧ t.physOf c = s.spareOf (c.val / 6) ∧ s.raised t .fault 1 ∧
          t.liveRec p = { w.before with held := false, waiting := [] } ∧ (∀ d r, t.queue d r = s.queue d r) ∧
          t = { s with regs := t.regs, lives := t.lives, sys := t.sys, cores := t.cores })) ∧
  (∀ (s : State) (k : Fin 12) (n : Fin 64), s.up →
      (s.code.stackPresent k = true → s.sys.retiring = none → s.sys.retiredPcs.contains (64 * k.val + n.val) = false →
        (s.fld .fault .pcStat 0 3 0 ≠ 0 → ∃ t, exec (.pcRetirement k n) s = .next t ∧ t.sys.retiring = some (k.val, n.val) ∧
          t.fld .fault .pcStat 0 4 4 = 1 ∧ t.wcOf k = (s.wcOf k).filter (fun e => pcOf (e.line * 128) != n.val) ∧
          (∀ j, j ≠ k → t.wcOf j = s.wcOf j) ∧ t = { s with regs := t.regs, wc := t.wc, sys := t.sys } ∧
          s.regsBut t ([regKey .fault .pcStat 0, regKey (.hbm k) .hbmWcFlushes 0, regKey (.hbm k) .hbmWcRmw 0] ++
            [(0 : Fin 2), 1].flatMap (fun h => [regKey (.harbour h) .hbStat 0, regKey (.harbour h) .hbFrozenTime 0]))) ∧
        (s.fld .fault .pcStat 0 3 0 = 0 → ∃ t, exec (.pcRetirement k n) s = .next t ∧ s.raised t .fault 2 ∧
          s.regsBut t (eventKeys .fault) ∧ t = { s with regs := t.regs })) ∧
      (s.code.stackPresent k = false ∨ s.sys.retiring.isSome = true ∨ s.sys.retiredPcs.contains (64 * k.val + n.val) = true →
        ∃ t, exec (.pcRetirement k n) s = .next t ∧ s.raised t .fault 5 ∧ s.regsBut t (eventKeys .fault) ∧ t = { s with regs := t.regs }) ∧
      (s.sys.retiring = none → exec .pcRetired s = .next s) ∧
      (s.sys.retiring = some (k.val, n.val) → ∃ t, exec .pcRetired s = .next t ∧ t.sys.retiring = none ∧
        t.sys.retiredPcs.contains (64 * k.val + n.val) = true ∧ s.raised t (.hbm k) 4 ∧
        t.fld (.hbm k) .hbmStat 0 15 9 = (s.fld (.hbm k) .hbmStat 0 15 9 + 1) % 128 ∧ t.fld .fault .pcStat 0 4 4 = 0 ∧
        t.fld .fault .pcStat 0 3 0 = s.fld .fault .pcStat 0 3 0 - 1 ∧
        t.fld .fault .pcStat 0 15 8 = (s.fld .fault .pcStat 0 15 8 + 1) % 256 ∧ t = { s with regs := t.regs, sys := t.sys } ∧
        s.regsBut t (eventKeys (.hbm k) ++ [regKey (.hbm k) .hbmStat 0, regKey .fault .pcStat 0, regKey .security .secOwner 0] ++
          [(0 : Fin 2), 1].flatMap (fun h => [regKey (.harbour h) .hbStat 0, regKey (.harbour h) .hbFrozenTime 0]))))

/-- FW_ACTIVATE, FW_REVERT, FW_SWAP, FW_HEALTH_TIMEOUT and FW_HEALTH_DECLARED (R395, R396, R398, R427): an activation of a bank that
passes its checks is ACTIVATING with its target, and one of a bank that does not, or of a table format that is not in use, is
REFUSED; at its boundary the component swaps its banks and raises FW_ACTIVATED, and after 1 s without a declaration goes back
and raises FW_REVERTED; a declaration in time stays, and raises the floor where the image says so. PLDM_FIRMWARE_UPDATE,
PLDM_FILE_READ and PLDM_SENSOR_READ (R410, R414, R427, R431, R432): an image is written to the inactive bank, refused and
answered so when it fails a check, and activated when it passes, or wakes a device whose boot failed; a part of MRAM beyond its
first 64 KiB is what the logs hold; a sensor is its channel's value; what is not there is answered so. It rests on readings and
choices of the model: notes/assumptions/2.md, notes/assumptions/55.md, notes/assumptions/56.md, notes/assumptions/57.md. -/
def Obligations.FirmwareResults : Prop :=
  (∀ (s : State) (n : Fin 5) (k : Fin 8) (x : FwComp), s.up → k.val = n.val → x = s.fwComp n →
      (∀ (g : Fin 64) (ok : Bool),
        (s.fld .fault .fwStat n 2 1 = 2 → exec (.fwActivate k g ok) s = .next s ∧ exec (.fwRevert k g) s = .next s) ∧
        (s.fld .fault .fwStat n 2 1 ≠ 2 → s.bankOk n (1 - s.fwActive n) = false →
          (∃ t, exec (.fwActivate k g ok) s = .next t ∧ t.fld .fault .fwStat n 2 1 = 3 ∧ s.raised t .security 4 ∧
            s.regsBut t (regKey .fault .fwStat n :: eventKeys .security) ∧ t = { s with regs := t.regs }) ∧
          (∃ t, exec (.fwRevert k g) s = .next t ∧ t.fld .fault .fwStat n 2 1 = 3 ∧ s.raised t .security 4 ∧
            s.regsBut t (regKey .fault .fwStat n :: eventKeys .security) ∧ t = { s with regs := t.regs })) ∧
        (s.fld .fault .fwStat n 2 1 ≠ 2 → s.bankOk n (1 - s.fwActive n) = true →
          (n.val ≠ 0 ∨ ok = true → ∃ t, exec (.fwActivate k g ok) s = .next t ∧ t.fld .fault .fwStat n 2 1 = 2 ∧
            t.fwComp n = { x with target := g.val, revert := false } ∧ s.regsBut t [regKey .fault .fwStat n] ∧
            t = { s with regs := t.regs, sys := t.sys }) ∧
          (n.val = 0 → ok = false → ∃ t, exec (.fwActivate k g ok) s = .next t ∧ t.fld .fault .fwStat n 2 1 = 3 ∧
            s.regsBut t [regKey .fault .fwStat n] ∧ t = { s with regs := t.regs }) ∧
          (∃ t, exec (.fwRevert k g) s = .next t ∧ t.fld .fault .fwStat n 2 1 = 2 ∧
            t.fwComp n = { x with target := g.val, revert := true } ∧ s.regsBut t [regKey .fault .fwStat n] ∧
            t = { s with regs := t.regs, sys := t.sys }))) ∧
      (∀ (j : Fin 8) (g : Fin 64) (ok : Bool), 5 ≤ j.val → (∃ t, exec (.fwActivate j g ok) s = .next t ∧ s.raised t .fault 5 ∧
        s.regsBut t (eventKeys .fault) ∧ t = { s with regs := t.regs }) ∧
        (∃ t, exec (.fwRevert j g) s = .next t ∧ s.raised t .fault 5 ∧ s.regsBut t (eventKeys .fault) ∧ t = { s with regs := t.regs })) ∧
      (s.fld .fault .fwStat n 2 1 = 2 → s.fwBoundary n = true → ∃ t, exec (.fwSwap n) s = .next t ∧
        t.fwActive n = 1 - s.fwActive n ∧ t.fld .fault .fwStat n 2 1 = 0 ∧
        t.fwComp n = { x with revert := false, since := if x.revert then none else some s.now } ∧
        s.raised t .fault (if x.revert then 3 else 4) ∧ s.regsBut t (regKey .fault .fwStat n :: eventKeys .fault) ∧
        t = { s with regs := t.regs, sys := t.sys }) ∧
      (s.fld .fault .fwStat n 2 1 ≠ 2 ∨ s.fwBoundary n = false → exec (.fwSwap n) s = .next s) ∧
      (x.since = none → exec (.fwHealthTimeout n) s = .next s ∧ exec (.fwHealthDeclared n) s = .next s) ∧
      (∀ d, x.since = some d →
        (s.now.toNat < d.toNat + secondUnits → exec (.fwHealthTimeout n) s = .next s ∧
          (∃ t, exec (.fwHealthDeclared n) s = .next t ∧
            (bit1 (BitVec.ofNat 64 ((x.bank (s.fwActive n)).getD 1 0).toNat) 0 = false →
              t.fwComp n = { x with since := none } ∧ t = { s with sys := t.sys }) ∧
            (bit1 (BitVec.ofNat 64 ((x.bank (s.fwActive n)).getD 1 0).toNat) 0 = true →
              t.fwComp n = { x with since := none, floor := leNat (((x.bank (s.fwActive n)).drop 4).take 4) } ∧
              t.fld .security .secOwner 0 63 32 = (s.fld .security .secOwner 0 63 32 + 1) % 2 ^ 32 ∧
              s.regsBut t [regKey .security .secOwner 0] ∧ t = { s with regs := t.regs, sys := t.sys }))) ∧
        (d.toNat + secondUnits ≤ s.now.toNat → exec (.fwHealthDeclared n) s = .next s ∧
          (s.fwBoundary n = true → ∃ t, exec (.fwHealthTimeout n) s = .next t ∧ t.fwActive n = 1 - s.fwActive n ∧
            t.fld .fault .fwStat n 2 1 = 0 ∧ t.fwComp n = { x with revert := false, since := none } ∧ s.raised t .fault 3 ∧
            s.regsBut t (regKey .fault .fwStat n :: eventKeys .fault) ∧ t = { s with regs := t.regs, sys := t.sys })))) ∧
  (∀ s : State, s.standby = true →
      (∀ (k : Fin 8) (n : Nat) (img : List Byte) (ok : Bool), n = k.val →
        (5 ≤ n ∨ s.sys.dry = true ∨ s.fld .fault .fwStat n 2 1 = 2 →
          exec (.pldmFirmwareUpdate k img ok) s = .next { s with out := s.out ++ [.pldm 5 false []] }) ∧
        (n < 5 → s.sys.dry = false → s.fld .fault .fwStat n 2 1 ≠ 2 →
          (s.imageOk n img = false → ∃ t, exec (.pldmFirmwareUpdate k img ok) s = .next t ∧ t.fld .fault .fwStat n 2 1 = 3 ∧
            (t.fwComp n).bank (1 - s.fwActive n) = img ∧ s.raised t .security 4 ∧ t.out = s.out ++ [.pldm 5 false []] ∧
            s.regsBut t (regKey .fault .fwStat n :: eventKeys .security) ∧ t = { s with regs := t.regs, sys := t.sys, out := t.out }) ∧
          (s.imageOk n img = true → s.sys.failed = false → n ≠ 0 ∨ ok = true → ∃ t, exec (.pldmFirmwareUpdate k img ok) s = .next t ∧
            t.fld .fault .fwStat n 2 1 = 2 ∧ (t.fwComp n).bank (1 - s.fwActive n) = img ∧ (t.fwComp n).target = 63 ∧
            (t.fwComp n).revert = false ∧ t.out = s.out ++ [.pldm 5 true []] ∧ s.regsBut t [regKey .fault .fwStat n] ∧
            t = { s with regs := t.regs, sys := t.sys, out := t.out }) ∧
          (s.imageOk n img = true → s.sys.failed = true → ∃ t, exec (.pldmFirmwareUpdate k img ok) s = .next t ∧
            t.sys.wake = some 0 ∧ (t.fwComp n).bank (1 - s.fwActive n) = img ∧ t.out = s.out ++ [.pldm 5 true []] ∧
            s.regsBut t [regKey .fault .fwStat n] ∧ t = { s with regs := t.regs, sys := t.sys, out := t.out }))) ∧
      (∀ off len : BitVec 20, 2 ^ 20 < off.toNat + len.toNat →
        exec (.pldmFileRead off len) s = .next { s with out := s.out ++ [.pldm 7 false []] }) ∧
      (∀ off len : BitVec 20, off.toNat + len.toNat ≤ 2 ^ 20 → exec (.pldmFileRead off len) s = .next { s with
        freeIx := s.freeIx + 1, out := s.out ++ [.pldm 7 true ((List.range len.toNat).map (fun i => s.mramByte (off.toNat + i)))] }) ∧
      (∀ c : Fin 128, channelListed c = true → exec (.pldmSensorRead c) s = .next { s with
        out := s.out ++ [.pldm 2 true (leBytes (s.fld .tidewatch .supValue c 31 0) 4)] }) ∧
      (∀ c : Fin 128, channelListed c = false → exec (.pldmSensorRead c) s = .next { s with out := s.out ++ [.pldm 2 false []] }))

/-! ### Power and Tidewatch -/

/-- ORDERLY_HALT, ENTER_DRY and EMERGENCY_STOP (R378, R402, R409): the device ends in Dry, whatever it did; from rest nothing but
what a halt names is changed, a device-fatal error has its record, and a command over MCTP is answered; in Dry the commands are
answered E_STATE and change nothing. It rests on readings and choices of the model: notes/assumptions/52.md,
notes/assumptions/60.md, notes/assumptions/85.md. -/
def Obligations.HaltResults : Prop :=
  ∀ s : State,
    (∀ n : BitVec 14, s.up → ∃ t, exec (.orderlyHalt n) s = .next t ∧ t.sys.dry = true) ∧
    (s.up → s.standby = true → ∃ t, exec (.enterDry false) s = .next t ∧ t.sys.dry = true) ∧
    (s.up → s.standby = true → ∃ t, exec .emergencyStop s = .next t ∧ t.sys.dry = true) ∧
    (∀ n : BitVec 14, s.atRest → s.buffers → ∃ (t : State) (r : ErrRec), exec (.orderlyHalt n) s = .next t ∧ s.halts t ∧
      t.errs.buffered = s.errs.buffered ++ [r] ∧ r.page = n.toNat ∧ r.cls = 3 ∧ r.time = s.now ∧ t.out = s.out) ∧
    (s.atRest → s.standby = true →
      (∃ t, exec (.enterDry false) s = .next t ∧ s.halts t ∧ t.errs = s.errs ∧ t.out = s.out) ∧
      (∃ t, exec (.enterDry true) s = .next t ∧ s.halts t ∧ t.errs = s.errs ∧ t.out = s.out ++ [.mctp 4 .ok []]) ∧
      (∃ t, exec .emergencyStop s = .next t ∧ s.halts t ∧ t.errs = s.errs ∧ t.out = s.out ++ [.mctp 4 .ok []])) ∧
    (s.sys.dry = true → s.standby = true → exec (.enterDry false) s = .next s ∧
      exec (.enterDry true) s = .next { s with out := s.out ++ [.mctp 4 .eState []] } ∧
      exec .emergencyStop s = .next { s with out := s.out ++ [.mctp 4 .eState []] }) ∧
    (s.standby = false → ∀ m, exec (.enterDry m) s = .next s ∧ exec .emergencyStop s = .next s)

/-- HARD_STOP, CLEAR_STOP, POWER_WAKE and WAKE_N (R402, R409, R415, R416, R438): a hard stop ends in Dry with the latch and its
cause, HBM4 lost, no completion record and one summary; the latch clears only when it is safe to; a wake acts in Dry while the
latch is clear, the lowest code being the cause of two, and at no other time. STANDBY_LOSS and STANDBY_RETURN (R21, R22, R406,
R408): at a loss Tidewatch writes its final record and stops; with main present the device serves on in Neap, or, in Dry, HBM4
is lost; without it, power is gone. At the return the count goes on, or after a loss of all power resumes beyond every value it
reached, and the summaries that were kept are written. It rests on readings and choices of the model: notes/assumptions/2.md,
notes/assumptions/52.md, notes/assumptions/53.md, notes/assumptions/62.md, notes/assumptions/85.md. -/
def Obligations.StopAndStandbyResults : Prop :=
  (∀ s : State,
      (∀ x : StopCause, (∀ p, bit1 (s.rd (.cxl p) .cxlStat 0) 0 = false) → ∃ t, exec (.hardStop x) s = .next t ∧ t.sys.dry = true ∧
        t.sys.cold = true ∧ t.sys.stopped = true ∧ t.sys.wake = none ∧ t.latched = true ∧ t.fld .power .pwrStat 0 4 3 = stopCode x ∧
        t.records = s.records ∧ t.out = s.out ∧
        (s.standby = true → t.errs.summaries =
          pushSummary s.errs.summaries ⟨s.now, Pg.power.index, 3, Status.ePower.code, stopCode x⟩) ∧
        (s.standby = false → t.errs = s.errs)) ∧
      (s.standby = true → s.latched = true → ∃ t, exec (.clearStop true) s = .next t ∧ t.latched = false ∧
        t.fld .power .pwrStat 0 4 3 = 0 ∧ s.regsBut t [regKey .power .pwrStat 0] ∧ t = { s with regs := t.regs }) ∧
      (∀ b, b = false ∨ s.standby = false ∨ s.latched = false → exec (.clearStop b) s = .next s) ∧
      (s.sys.dry = true → s.latched = false →
        (s.standby = true → exec .powerWake s =
          .next { s with sys := { s.sys with wake := some (min 2 (s.sys.wake.getD 2)) }, out := s.out ++ [.mctp 4 .ok []] }) ∧
        (bit1 (s.rd .power .pwrWake 0) 0 = true →
          exec .wakeN s = .next { s with sys := { s.sys with wake := some (min 1 (s.sys.wake.getD 1)) } })) ∧
      (s.sys.dry = false ∨ s.latched = true → exec .wakeN s = .next s ∧
        (s.standby = true → exec .powerWake s = .next { s with out := s.out ++ [.mctp 4 .eState []] })) ∧
      (bit1 (s.rd .power .pwrWake 0) 0 = false → exec .wakeN s = .next s)) ∧
  (∀ s : State,
      (s.standby = true →
        (s.up → ∃ t, exec (.standbyLoss true) s = .next t ∧ t.standby = false ∧ t.tide.final = some s.now ∧
          t.fld .power .pwrStat 0 1 0 = 1 ∧ t.mem = s.mem ∧ s.semsSame t ∧ t.now = s.now ∧ t.records = s.records ∧
          (s.discState = 1 ∨ s.discState = 2 → t.discState = 3)) ∧
        (s.sys.dry = true → ∃ t, exec (.standbyLoss true) s = .next t ∧ t.standby = false ∧ t.tide.final = some s.now ∧
          t.sys.cold = true ∧ t.sys.dry = true) ∧
        (∃ t, exec (.standbyLoss false) s = .next t ∧ t.standby = false ∧ t.tide.final = some s.now ∧ t.sys.mainLost = true ∧
          t.sys.dry = true ∧ t.sys.cold = true) ∧
        ∀ b, exec (.standbyReturn b) s = .next s) ∧
      (s.standby = false →
        exec (.standbyLoss true) s = .next s ∧
        (s.sys.mainLost = false → ∃ t, exec (.standbyLoss false) s = .next t ∧ t.sys.mainLost = true ∧ t.sys.dry = true) ∧
        (∀ b, s.sys.mainLost = true → s.now.toNat + 1 < 2 ^ 64 → ∃ t, exec (.standbyReturn b) s = .next t ∧ t.standby = true ∧
          t.sys.mainLost = false ∧ t.sys.wake = (if s.latched then none else some 0) ∧ s.now.toNat < t.now.toNat ∧
          t.discState = 4 ∧ t.errs = s.errs ∧ t.mem = s.mem) ∧
        (∀ f, s.sys.mainLost = true → s.tide.final = some f → s.now.toNat < (f + 1).toNat → ∃ t, exec (.standbyReturn true) s = .next t ∧
          t.now = f + 1) ∧
        (∀ b, s.sys.mainLost = false → ∃ t, exec (.standbyReturn b) s = .next t ∧ t.standby = true ∧ t.tide.final = none ∧
          t.errs.kept = [] ∧ t.errs.pushed = s.errs.pushed + s.errs.kept.length ∧
          t.errs.summaries = s.errs.kept.foldl pushSummary s.errs.summaries ∧ t.now = s.now ∧ t.mem = s.mem ∧ s.semsSame t)))

/-- NEAP_FORCE and CORE_SLACK_ENTRY (R402): neap_force puts the device in Neap, with NEAP_ENTERED on a change, and holds it there;
without it and without a fired row the clock returns once no core needs a grant; a core with no ready queue and no slice goes
into Slack where slack_delay is not 0, and otherwise stays as it is. BREAKWATER_REQUEST and RAMP_END (R403, R404, R405): a
request that can be made waits with its class and step, and ramps at once when nothing ramps, waits or holds; a ramp ends when
its units have run, and then the earliest request of the highest class ramps, unless a row with action NEAP, HALT or LOSS is
fired; the end of a core's wake takes it out of Slack. It rests on readings and choices of the model: notes/assumptions/2.md,
notes/assumptions/53.md. -/
def Obligations.PowerResults : Prop :=
  (∀ s : State, s.up →
      (s.standby = true →
        (∃ t, exec (.neapForce true) s = .next t ∧ t.fld .power .pwrCtrl 0 1 1 = 1 ∧ t.fld .power .pwrStat 0 1 0 = 1 ∧
          t.mem = s.mem ∧ t.cores = s.cores ∧ s.semsSame t ∧ (s.fld .power .pwrStat 0 1 0 ≠ 1 → s.raised t .power 0 ∧
            t.rd .power .neapEntries 0 = s.counted .power .neapEntries 0 1)) ∧
        (s.firedWith [2] = false → s.fld .power .pwrStat 0 1 0 ≠ 1 → ∃ t, exec (.neapForce false) s = .next t ∧
          t.fld .power .pwrCtrl 0 1 1 = 0 ∧ t.fld .power .pwrStat 0 1 0 = s.springState) ∧
        (s.firedWith [2] = false → s.fld .power .pwrStat 0 1 0 = 1 → s.sys.ramps = [] → s.sys.ramp = none →
          (∀ c : Fin 36, s.coreLive c = true → (s.core c).slack = true) → ∃ t, exec (.neapForce false) s = .next t ∧
          t.fld .power .pwrCtrl 0 1 1 = 0 ∧ t.fld .power .pwrStat 0 1 0 = s.springState ∧ s.raised t .power 1)) ∧
      (s.standby = false → ∀ b, exec (.neapForce b) s = .next s) ∧
      (∀ c : Fin 36, s.coreLive c = true → (s.core c).slack = false → s.fld .power .pwrCtrl 0 15 3 ≠ 0 → s.readyQueues c = [] →
        s.sliceOn c = false → ∃ t, exec (.coreSlackEntry c) s = .next t ∧ t.core c = { s.core c with slack := true } ∧ s.coresBut t c ∧
        t.fld .power .pwrStat 0 (5 + c.val) (5 + c.val) = 1 ∧ s.regsBut t [regKey .power .pwrStat 0] ∧
        t = { s with regs := t.regs, cores := t.cores }) ∧
      (∀ c : Fin 36, s.coreLive c = false ∨ (s.core c).slack = true ∨ s.fld .power .pwrCtrl 0 15 3 = 0 ∨ s.readyQueues c ≠ [] ∨
        s.sliceOn c = true → exec (.coreSlackEntry c) s = .next s)) ∧
  (∀ s : State, s.up →
      (∀ (k : BwKind) (x : BwReq), s.bwMay k = true → x = { kind := k, cls := s.bwClass k, step := bwStep k, arrived := s.now } →
        (s.sys.ramp.isSome = true ∨ s.rampsHeld = true → ∃ t, exec (.breakwaterRequest k none) s = .next t ∧
          t.sys = { s.sys with ramps := s.sys.ramps ++ [x] } ∧ s.regsBut t [regKey .power .bwStat 0] ∧
          t = { s with regs := t.regs, sys := t.sys }) ∧
        (s.sys.ramp = none → s.rampsHeld = false → s.sys.ramps = [] → ∃ t, exec (.breakwaterRequest k none) s = .next t ∧
          t.sys = { s.sys with ramp := some { req := x, start := s.now } } ∧
          t.rd .power .bwGrants 0 = s.counted .power .bwGrants 0 1 ∧
          s.regsBut t [regKey .power .bwStat 0, regKey .power .bwGrants 0, regKey .power .bwWaitUnits 0] ∧
          t = { s with regs := t.regs, sys := t.sys })) ∧
      (∀ (k : BwKind) (m : Option (BitVec 64)), s.bwMay k = false → exec (.breakwaterRequest k m) s = .next s) ∧
      (s.sys.ramp = none → exec .rampEnd s = .next s) ∧
      (∀ x : Ramp, s.sys.ramp = some x → s.now.toNat < x.start.toNat + s.rampUnits x.req.step → exec .rampEnd s = .next s) ∧
      (∀ (x : Ramp) (l r : List BwReq) (y : BwReq) (p : Fin 16), s.sys.ramp = some x → x.req.kind = .tideway p →
        x.start.toNat + s.rampUnits x.req.step ≤ s.now.toNat → s.sys.ramps = l ++ y :: r → (∀ z ∈ l, y.cls < z.cls) →
        (∀ z ∈ r, y.cls ≤ z.cls) → y.msg = none →
        (s.rampsHeld = false → ∃ t, exec .rampEnd s = .next t ∧
          t.sys = { s.sys with ramp := some { req := y, start := s.now }, ramps := l ++ r } ∧
          t.rd .power .bwGrants 0 = s.counted .power .bwGrants 0 1 ∧
          t.rd .power .bwWaitUnits 0 = s.counted .power .bwWaitUnits 0 (s.now - y.arrived).toNat ∧
          s.regsBut t [regKey .power .bwStat 0, regKey .power .bwGrants 0, regKey .power .bwWaitUnits 0] ∧
          t = { s with regs := t.regs, sys := t.sys }) ∧
        (s.rampsHeld = true → ∃ t, exec .rampEnd s = .next t ∧ t.sys = { s.sys with ramp := none } ∧
          s.regsBut t [regKey .power .bwStat 0] ∧ t = { s with regs := t.regs, sys := t.sys })) ∧
      (∀ (x : Ramp) (c : Fin 36) (h : Nat), s.sys.ramp = some x → x.req.kind = .wake c → s.sys.ramps = [] →
        x.start.toNat + s.rampUnits x.req.step ≤ s.now.toNat → (s.core c).holder = some h → ((s.core c).queue h).keeps = true →
        s.higherReady c h = false → (∀ r, (s.queue c r).state = .waiting → (s.queue c r).inWaitGe = true) →
        ∃ t, exec .rampEnd s = .next t ∧ (∀ r, t.queue c r = s.queue c r) ∧
        t.core c = { s.core c with slack := false, stopping := false, queues := (t.core c).queues } ∧
        t.fld .power .pwrStat 0 (5 + c.val) (5 + c.val) = 0 ∧ t.sys = { s.sys with ramp := none } ∧ s.coresBut t c ∧
        s.regsBut t [regKey .power .pwrStat 0, regKey .power .bwStat 0] ∧
        t = { s with regs := t.regs, cores := t.cores, sys := t.sys }) ∧
      (∀ (x : Ramp) (p : Fin 42), s.sys.ramp = some x → x.req.kind = .slice p → s.sys.ramps = [] →
        x.start.toNat + s.rampUnits x.req.step ≤ s.now.toNat → ∃ t, exec .rampEnd s = .next t ∧
        t.sys = { s.sys with ramp := none, granted := s.sys.granted.add p.val } ∧ s.regsBut t [regKey .power .bwStat 0] ∧
        t = { s with regs := t.regs, sys := t.sys }))

/-- RULE_FIRE and RULE_RELEASE (R411, R412, R414, R418): a programmed row, alone on its channel and without a filter, fires with the
last of as many samples in a row beyond its threshold as its duration asks, not before, and is released in the same way; a
firing sets its bit, SUP_LAST_ACTION and an entry of the action log, and raises RULE_FIRED; NEAP takes the device to Neap and
HALT to Dry; SUP_VALUE shows the newest sample. It rests on readings and choices of the model: notes/assumptions/4.md,
notes/assumptions/54.md. -/
def Obligations.RuleResults : Prop :=
  ∀ (s : State) (r : Fin 64) (x : RuleRow) (l : List (BitVec 32)) (v : BitVec 32) (u : BitVec 16), x = s.ruleRow r → 16 ≤ r.val →
    s.standby = true → channelListed x.channel = true → (∀ o < 64, o ≠ r.val → (s.ruleRow o).channel ≠ x.channel) →
    bits (s.rd .tidewatch .supFilter x.channel) 5 0 = 0 → x.enable = true → s.sys.ramps = [] →
    (s.fired r = false → FMap.get 0 s.sys.beyond r.val = 0 →
      (∀ y ∈ l ++ [v], if x.below then y.toInt < x.threshold else x.threshold < y.toInt) →
      (l.length + 1 = max 1 x.duration → x.action ≤ 1 → ∃ (t : State) (e : ActionEntry), exec (.ruleFire r (l ++ [v]) u) s = .next t ∧
        t.fired r = true ∧ t.sys.logged = s.sys.logged + 1 ∧ t.sys.log.getLast? = some e ∧
        e = { time := s.now, row := r.val, action := x.action, channel := x.channel, value := v } ∧
        t.rd .tidewatch .supLastAction 0 = BitVec.ofNat 64 (r.val + x.action * 64) ∧ s.raised t .tidewatch 0 ∧
        t.rd .tidewatch .supValue x.channel = BitVec.ofNat 64 (v.toNat + v.toNat * 2 ^ 32) ∧
        s.regsBut t (eventKeys .tidewatch ++ [regKey .tidewatch .supStat 0, regKey .tidewatch .supLastAction 0,
          regKey .tidewatch .supValue x.channel, regKey .power .bwStat 0]) ∧
        t = { s with regs := t.regs, sys := t.sys, freeIx := t.freeIx }) ∧
      (l.length + 1 = max 1 x.duration → x.action = 2 → s.up → ∃ t, exec (.ruleFire r (l ++ [v]) u) s = .next t ∧
        t.fired r = true ∧ t.fld .power .pwrStat 0 1 0 = 1) ∧
      (l.length + 1 = max 1 x.duration → x.action = 4 → s.up → ∃ t, exec (.ruleFire r (l ++ [v]) u) s = .next t ∧
        t.sys.dry = true) ∧
      (l.length + 1 < max 1 x.duration → (x.action = 4 ∨ x.action = 8 → s.sys.dry = false) →
        ∃ t, exec (.ruleFire r (l ++ [v]) u) s = .next t ∧ t.fired r = false ∧
        FMap.get 0 t.sys.beyond r.val = l.length + 1 ∧ t.sys.log = s.sys.log ∧
        s.regsBut t [regKey .tidewatch .supValue x.channel] ∧ t = { s with regs := t.regs, sys := t.sys, freeIx := t.freeIx })) ∧
    (s.fired r = true → FMap.get 0 s.sys.clear r.val = 0 → x.action ≤ 1 →
      (∀ y ∈ l ++ [v], if x.below then x.release < y.toInt else y.toInt < x.release) →
      (l.length + 1 = max 1 x.clear → ∃ t, exec (.ruleRelease r (l ++ [v]) u) s = .next t ∧ t.fired r = false ∧
        s.raised t .tidewatch 1 ∧ t.sys.log = s.sys.log) ∧
      (l.length + 1 < max 1 x.clear → ∃ t, exec (.ruleRelease r (l ++ [v]) u) s = .next t ∧ t.fired r = true ∧
        s.regsBut t [regKey .tidewatch .supValue x.channel] ∧ t = { s with regs := t.regs, sys := t.sys, freeIx := t.freeIx }))

/-! ### Boot, identity and self-test -/

/-- OWNER_WRITE, DEBUG_TOKEN and BOOT_STATUS over MCTP (R425, R431, R433, R437, R438): a piece of a record is kept; a record that is
whole and passes its checks waits for the next boot, and one that fails them, or comes while one waits, is answered E_STATE; a
piece beyond 240 bytes is E_LENGTH; a good token arms the debug scope for the next boot; the status, the failing check, the
serial number and the nonce are answered. SPDM_MESSAGE, GET_MEASUREMENTS, CHALLENGE, GET_CERTIFICATE and NEGOTIATE_ALGORITHMS
(R308, R422, R434 to R436): a request that reaches the security engine is answered with the measurement asked for, all ten or
their number, the part of the chain of a slot that is there, the algorithms, or an ERROR; one over queue pair 1 counts as a
packet that found its context; nothing else of the device changes. What a signature and a request of the standard alone answer
is free. It rests on readings and choices of the model: notes/assumptions/4.md, notes/assumptions/44.md,
notes/assumptions/57.md, notes/assumptions/60.md. -/
def Obligations.IdentityResults : Prop :=
  (∀ s : State, s.standby = true →
      (∀ (off : BitVec 32) (bs : List Byte),
        (s.secured = false ∨ bit1 (s.rd .security .secStat 0) 6 = true →
          exec (.ownerWrite off bs) s = .next { s with out := s.out ++ [.mctp 5 .eState []] }) ∧
        (s.secured = true → bit1 (s.rd .security .secStat 0) 6 = false → 240 < bs.length →
          exec (.ownerWrite off bs) s = .next { s with out := s.out ++ [.mctp 5 .eLength []] }) ∧
        (s.secured = true → bit1 (s.rd .security .secStat 0) 6 = false → bs.length ≤ 240 →
          ((s.pieceIn off.toNat bs).recordIn = none → ∃ t, exec (.ownerWrite off bs) s = .next t ∧
            t.out = s.out ++ [.mctp 5 .ok []] ∧ t = { s with sys := t.sys, out := t.out } ∧
            (∀ i < bs.length, FMap.get 0 t.sys.pieces (off.toNat + i) = bs.getD i 0) ∧ t.sys.nextOwner = s.sys.nextOwner) ∧
          (∀ r, (s.pieceIn off.toNat bs).recordIn = some r →
            (s.ownerOk r = true → ∃ t, exec (.ownerWrite off bs) s = .next t ∧ t.out = s.out ++ [.mctp 5 .ok []] ∧
              t.sys = { s.sys with nextOwner := r, pieces := [], got := [] } ∧ t.fld .security .secStat 0 6 6 = 1 ∧
              s.raised t .security 3 ∧ s.regsBut t (regKey .security .secStat 0 :: eventKeys .security) ∧
              t = { s with regs := t.regs, sys := t.sys, out := t.out }) ∧
            (s.ownerOk r = false → exec (.ownerWrite off bs) s =
              .next { s with sys := { s.sys with pieces := [], got := [] }, out := s.out ++ [.mctp 5 .eState []] })))) ∧
      (∀ k : List Byte,
        (s.secured = true → s.tokenOk k = true → ∃ t, exec (.debugToken k) s = .next t ∧ t.out = s.out ++ [.mctp 6 .ok []] ∧
          t.sys = { s.sys with token := some ((k.getD 48 0).toNat % 4) } ∧ t.fld .security .secDebug 0 2 2 = 1 ∧
          s.regsBut t [regKey .security .secDebug 0] ∧ t = { s with regs := t.regs, sys := t.sys, out := t.out }) ∧
        (s.secured = false ∨ s.tokenOk k = false →
          exec (.debugToken k) s = .next { s with out := s.out ++ [.mctp 6 .eState []] })) ∧
      (s.sys.dry = true → exec .bootStatus s = .next { s with out := s.out ++ [.mctp 7 .eState []] }) ∧
      (s.sys.dry = false → exec .bootStatus s = .next { s with out := s.out ++ [.mctp 7 .ok (leBytes (s.rd .security .secStat 0).toNat 8 ++
        [BitVec.ofNat 8 (if s.sys.failed then s.sys.bootFail else 0)] ++ serial ++ s.sys.nonce)] })) ∧
  (∀ (s : State) (w : Bool) (u : State), s.spdmReaches w → u = s.spdmAt w →
      (w = true → s.regsBut u [regKey .estuary .estRxPkts 0, regKey .estuary .estCtxHits 0] ∧
        u = { s with regs := u.regs, est := { s.est with cache := u.est.cache } }) ∧
      (∀ (i : Fin 256) (z : List Byte),
        (1 ≤ i.val → i.val ≤ 10 → ∃ sig, exec (.getMeasurements w i z) s =
          .next { u with freeIx := s.freeIx + 1, out := s.out ++ [.spdm w (.measurements [(i.val, s.measure i)] sig)] }) ∧
        (i.val = 255 → ∃ sig, exec (.getMeasurements w i z) s = .next { u with
          freeIx := s.freeIx + 1
          out := s.out ++ [.spdm w (.measurements ((List.range 10).map (fun n => (n + 1, s.measure (n + 1)))) sig)] }) ∧
        (i.val = 0 → ∃ sig, exec (.getMeasurements w i z) s =
          .next { u with freeIx := s.freeIx + 1, out := s.out ++ [.spdm w (.measurements [(0, [10])] sig)] }) ∧
        (10 < i.val → i.val ≠ 255 → exec (.getMeasurements w i z) s = .next { u with out := s.out ++ [.spdm w .error] })) ∧
      (∀ (n : Fin 8) (z : List Byte),
        (s.slotThere n = true → ∃ sig, exec (.challenge w n z) s =
          .next { u with freeIx := s.freeIx + 1, out := s.out ++ [.spdm w (.challenge n.val sig)] }) ∧
        (s.slotThere n = false → exec (.challenge w n z) s = .next { u with out := s.out ++ [.spdm w .error] })) ∧
      (∀ (n : Fin 8) (off len : BitVec 16),
        (s.slotThere n = true → ∃ bs, exec (.getCertificate w n off len) s =
          .next { u with out := s.out ++ [.spdm w (.certificate n.val bs)] } ∧
          (n.val = 1 → bs = (s.ownerChain.drop off.toNat).take len.toNat) ∧ (n.val = 0 → bs.length = len.toNat)) ∧
        (s.slotThere n = false → exec (.getCertificate w n off len) s = .next { u with out := s.out ++ [.spdm w .error] })) ∧
      (exec (.negotiateAlgorithms w true) s = .next { u with out := s.out ++ [.spdm w .algorithms] } ∧
        exec (.negotiateAlgorithms w false) s = .next { u with out := s.out ++ [.spdm w .error] }) ∧
      (w = true → (∀ m, ∃ (a : SpdmAnswer) (ix : Nat), exec (.spdmMessage m) s =
          .next { u with freeIx := ix, out := s.out ++ [.spdm true a] }) ∧
        (∀ i z, exec (.spdmMessage (.measurements i z)) s = exec (.getMeasurements true i z) s)))

/-- SELF_TEST_SLICE, SLICE_COMPLETE and SLICE_ABORT (R441, R444 to R447, R454): a slice with its grant and its conditions runs, and
without them does not start; one that passes counts and leaves its core, the 84th of a cycle gives ST_CYCLE_TIME the time; a
logic slice that mismatches runs again once, and a failure sets the unit's bit, raises ST_FAIL and starts a swap of its core; an
abort counts and leaves the core as it stood. FULL_TEST, ST_FULL_DONE, MARGIN_SWEEP, LOOPBACK and REFERENCE_CHECK (R447, R449 to
R456): a full test begins only with everything DRAINED, puts Harbour in TEST and ends with ST_FULL_DONE, memory outside the
Ledges as it was; each step of an HBM4 sweep, in slack water alone, moves its side on, and ends it where it fails or after 32; a
sweep shows its widths and raises MARGIN_LOW below 6; a loopback shows whether it failed, and a port that fails stays down; a
request beside another is ignored with CFG_IGNORED; a reference check that fails is counted and raises ST_FAIL. It rests on
readings and choices of the model: notes/assumptions/2.md, notes/assumptions/9.md, notes/assumptions/55.md,
notes/assumptions/59.md, notes/assumptions/71.md, notes/assumptions/78.md. -/
def Obligations.SelfTestResults : Prop :=
  (∀ (s : State) (p : Fin 42), s.up →
      (∀ k, s.sys.granted.contains p.val = true → s.sliceMay p k = true → FMap.get none s.sys.slices p.val = none →
        s.baySlices (p.val / 7) < max 1 (s.fld .selfTest .stCfg 0 10 8) → ∃ t, exec (.selfTestSlice p k) s = .next t ∧
        t.sys = { s.sys with granted := s.sys.granted.del p.val,
                             slices := FMap.set none s.sys.slices p.val (some { kind := k, start := s.now }) } ∧
        bit1 (t.rd .selfTest .stStat 0) p.val = true ∧ s.regsBut t [regKey .selfTest .stStat 0] ∧ t = { s with regs := t.regs, sys := t.sys }) ∧
      (∀ k, s.sys.granted.contains p.val = false ∨ s.sliceMay p k = false → exec (.selfTestSlice p k) s = .next s) ∧
      (∀ b, FMap.get none s.sys.slices p.val = none → exec (.sliceComplete p b) s = .next s) ∧
      (∀ x, FMap.get none s.sys.slices p.val = some x →
        (∃ t, exec (.sliceComplete p true) s = .next t ∧ FMap.get none t.sys.slices p.val = none ∧
          t.rd .selfTest .stSlicesRun 0 = s.counted .selfTest .stSlicesRun 0 1 ∧
          t.rd .selfTest .stSliceTime 0 = s.counted .selfTest .stSliceTime 0 (s.now - x.start).toNat ∧
          ((KeySet.add (FMap.get [] s.sys.cycle p.val) (sliceKey x.kind)).length < 84 →
            FMap.get [] t.sys.cycle p.val = KeySet.add (FMap.get [] s.sys.cycle p.val) (sliceKey x.kind)) ∧
          (84 ≤ (KeySet.add (FMap.get [] s.sys.cycle p.val) (sliceKey x.kind)).length →
            FMap.get [] t.sys.cycle p.val = [] ∧ t.rd .selfTest .stCycleTime p.val = s.now) ∧
          s.regsBut t [regKey .selfTest .stStat 0, regKey .selfTest .stSlicesRun 0, regKey .selfTest .stSliceTime 0,
            regKey .selfTest .stCycleTime p.val] ∧ t = { s with regs := t.regs, sys := t.sys }) ∧
        (∀ part seed, x.kind = .logic part seed → x.again = false → exec (.sliceComplete p false) s = .next { s with
          sys := { s.sys with slices := FMap.set none s.sys.slices p.val (some { x with again := true }) } }) ∧
        (∀ (c : Fin 36), (∃ mib, x.kind = .memory mib) ∨ x.again = true → s.logicalOf p = some c.val → s.spareFree (c.val / 6) = true →
          s.sys.swap = none → ∃ t, exec (.sliceComplete p false) s = .next t ∧ FMap.get none t.sys.slices p.val = none ∧
          bit1 (t.rd .selfTest .stFailed 0) p.val = true ∧ s.raised t .selfTest 0 ∧ t.live (.sequencer c) = .draining ∧
          t.sys.swap = some { core := c.val, before := s.liveRec (.sequencer c), owner := 1 } ∧ t.mem = s.mem ∧ t.cores = s.cores) ∧
        (∃ t, exec (.sliceAbort p) s = .next t ∧ FMap.get none t.sys.slices p.val = none ∧ t.sys.granted = s.sys.granted.del p.val ∧
          t.rd .selfTest .stSlicesAborted 0 = s.counted .selfTest .stSlicesAborted 0 1 ∧
          t.rd .selfTest .stSliceTime 0 = s.counted .selfTest .stSliceTime 0 (s.now - x.start).toNat ∧
          s.regsBut t [regKey .selfTest .stStat 0, regKey .selfTest .stSlicesAborted 0, regKey .selfTest .stSliceTime 0] ∧
          t = { s with regs := t.regs, sys := t.sys })) ∧
      (FMap.get none s.sys.slices p.val = none → exec (.sliceAbort p) s =
        .next { s with sys := { s.sys with granted := s.sys.granted.del p.val } })) ∧
  (∀ s : State, s.up →
      (s.fullMay = true → ∃ t, exec .fullTest s = .next t ∧ t.sys.fullTest = some s.now ∧ t.fld .selfTest .stStat 0 42 42 = 1 ∧
        (∀ h : Fin 2, s.fld (.harbour h) .hbStat 0 21 19 ≠ 1 → t.fld (.harbour h) .hbStat 0 21 19 = 2) ∧ t.mem = s.mem ∧
        t.cores = s.cores ∧ t.lives = s.lives) ∧
      (s.fullMay = false → ∃ t, exec .fullTest s = .next t ∧ s.raised t .selfTest 4 ∧ s.regsBut t (eventKeys .selfTest) ∧
        t = { s with regs := t.regs }) ∧
      (∀ l : Battery, s.sys.fullTest = none → exec (.stFullDone l) s = .next s) ∧
      (∀ d, s.sys.fullTest = some d → ∃ t, exec (.stFullDone {}) s = .next t ∧ t.sys.fullTest = none ∧
        t.fld .selfTest .stStat 0 42 42 = 0 ∧ s.raised t .selfTest 3 ∧ (∀ a, t.byte a = if ledgeWindow a then 0 else s.byte a) ∧
        t.lives = s.lives ∧ s.semsSame t) ∧
      (∀ v : Word, s.sys.margin = none → s.marginUnit v = true →
        (∃ t, exec (.marginSweep (.start v)) s = .next t ∧ 
          t.sys = { s.sys with margin := some (setBits v 14 13 1), marginLo := 0, marginHi := 0, marginSide := 0 } ∧
          t.rd .selfTest .stMarginResult 0 = 0 ∧ t.fld .selfTest .stStat 0 43 43 = 1 ∧
          s.regsBut t [regKey .selfTest .stMarginCtrl 0, regKey .selfTest .stMarginResult 0, regKey .selfTest .stStat 0] ∧
          t = { s with regs := t.regs, sys := t.sys }) ∧
        (s.portDisabled v = true → ∃ t, exec (.loopback (.start v)) s = .next t ∧
          t.sys = { s.sys with margin := some (setBits v 14 13 2), marginLo := 0, marginHi := 0, marginSide := 0 } ∧ t.rd .selfTest .stMarginResult 0 = 0 ∧
          t.fld .selfTest .stStat 0 43 43 = 1 ∧
          s.regsBut t [regKey .selfTest .stMarginCtrl 0, regKey .selfTest .stMarginResult 0, regKey .selfTest .stStat 0] ∧
          t = { s with regs := t.regs, sys := t.sys })) ∧
      (∀ v : Word, s.sys.margin.isSome = true ∨ s.marginUnit v = false →
        (∃ t, exec (.marginSweep (.start v)) s = .next t ∧ s.raised t .selfTest 4 ∧ s.regsBut t (eventKeys .selfTest) ∧
          t = { s with regs := t.regs }) ∧
        (∃ t, exec (.loopback (.start v)) s = .next t ∧ s.raised t .selfTest 4 ∧ s.regsBut t (eventKeys .selfTest) ∧
          t = { s with regs := t.regs })) ∧
      (∀ (v : Word) (ok : Bool) (n : Nat), s.sys.margin = some v → bits v 14 13 = 1 → bits v 1 0 = 0 →
        (s.slackFor 0 = true → s.bayReady (bits v 5 2) = false →
          (s.sys.marginSide = 0 → n = s.sys.marginLo + (if ok then 1 else 0) → exec (.marginSweep (.step ok)) s = .next { s with
            sys := { s.sys with marginLo := n, marginSide := if ok = true ∧ n < 32 then 0 else 1 } }) ∧
          (s.sys.marginSide = 1 → n = s.sys.marginHi + (if ok then 1 else 0) → exec (.marginSweep (.step ok)) s = .next { s with
            sys := { s.sys with marginHi := n, marginSide := if ok = true ∧ n < 32 then 1 else 2 } })) ∧
        (s.slackFor 0 = false ∨ s.bayReady (bits v 5 2) = true → exec (.marginSweep (.step ok)) s = .next s) ∧
        (s.sys.marginSide < 2 → ∀ a b z, exec (.marginSweep (.result a b z ok)) s = .next s)) ∧
      (∀ (v : Word) (a b : BitVec 8) (z : BitVec 16) (c : Bool) (lo hi : Nat), s.sys.margin = some v → bits v 14 13 = 1 →
        lo < 256 → hi < 256 → (bits v 1 0 ≠ 0 ∧ lo = a.toNat ∧ hi = b.toNat) ∨
          (bits v 1 0 = 0 ∧ 2 ≤ s.sys.marginSide ∧ lo = s.sys.marginLo ∧ hi = s.sys.marginHi) →
        ∃ t, exec (.marginSweep (.result a b z c)) s = .next t ∧ t.sys = { s.sys with margin := none } ∧
        t.fld .selfTest .stMarginResult 0 7 0 = lo ∧ t.fld .selfTest .stMarginResult 0 15 8 = hi ∧
        t.fld .selfTest .stMarginResult 0 32 32 = 1 ∧ t.fld .selfTest .stStat 0 43 43 = 0 ∧
        (t.fld .selfTest .stMarginResult 0 33 33 = 1 ↔ lo < 6 ∨ hi < 6) ∧ (lo < 6 ∨ hi < 6 → s.raised t .selfTest 2) ∧
        (6 ≤ lo → 6 ≤ hi → s.regsBut t [regKey .selfTest .stMarginResult 0, regKey .selfTest .stStat 0]) ∧
        t = { s with regs := t.regs, sys := t.sys }) ∧
      (∀ (v : Word) (lo hi : BitVec 8) (z : BitVec 16), s.sys.margin = some v → bits v 14 13 = 2 →
        (∃ t, exec (.loopback (.result lo hi z false)) s = .next t ∧ t.sys = { s.sys with margin := none } ∧
          t.fld .selfTest .stMarginResult 0 34 32 = 1 ∧ t.fld .selfTest .stStat 0 43 43 = 0 ∧
          s.regsBut t [regKey .selfTest .stMarginResult 0, regKey .selfTest .stStat 0] ∧ t = { s with regs := t.regs, sys := t.sys }) ∧
        (∀ q : Fin 4, bits v 1 0 = 2 → bits v 5 2 = q.val → s.linkUp q = false → ∃ t,
          exec (.loopback (.result lo hi z true)) s = .next t ∧ t.sys.margin = none ∧ t.fld .selfTest .stMarginResult 0 34 32 = 5 ∧
          t.sys.deadPorts.contains q.val = true ∧ s.raised t .selfTest 0)) ∧
      (s.standby = true → exec (.referenceCheck none) s = .next s ∧
        (∀ (e : RefFail) (n : Nat), (∃ i, e = .sensor i ∧ n = i.val) ∨ (∃ i, e = .rail i ∧ n = 48 + i.val) →
          (∀ x ∈ s.errs.held, x.page ≠ Pg.selfTest.index) → ∃ t, exec (.referenceCheck (some e)) s = .next t ∧
          t.rd .selfTest .stRefFails 0 = s.counted .selfTest .stRefFails 0 1 ∧ s.raised t .selfTest 0 ∧
          (∃ x : ErrRec, x = { time := s.now, page := Pg.selfTest.index, cls := 0, code := Status.eAbort.code, detail := 3 + n * 256 } ∧
            t.errs = { s.errs with held := s.errs.held ++ [x] }) ∧
          s.regsBut t (regKey .selfTest .stRefFails 0 :: eventKeys .selfTest) ∧ t = { s with regs := t.regs, errs := t.errs })))

/-- COLD_BOOT and DRY_EXIT (R401, R402, R424, R425, R427 to R431, R437, R491): a boot that may start and finds everything good ends
with Estuary accepting messages, every queue IDLE, every semaphore 0 and every block RUNNING; a cold boot starts with HBM4 and
the Ledges zero and no queue pair, scene or stream, and one from Dry keeps memory outside the Ledges, the queue pairs and, where
the digest matches, scenes and streams; a record that is not valid in any copy, or Gulkutik without a bank, fails the boot; a
boot that may not start changes nothing. It rests on readings and choices of the model: notes/assumptions/8.md,
notes/assumptions/9.md, notes/assumptions/44.md, notes/assumptions/58.md, notes/assumptions/78.md, notes/assumptions/80.md. -/
def Obligations.BootResults : Prop :=
  ∀ (s : State) (f : BootFound),
    (s.bootMay true = false → exec (.coldBoot f) s = .next s) ∧ (s.bootMay false = false → exec (.dryExit f) s = .next s) ∧
    (∀ b : Bool, s.bootMay b = true → foundGood f → (∀ n < 5, s.bootOwner.bankOk n (s.fwActive n) = true) →
      ∃ t, exec (if b then .coldBoot f else .dryExit f) s = .next t ∧ t.sys.dry = false ∧ t.sys.failed = false ∧
      t.fld .security .secStat 0 3 0 = 6 ∧ t.fld .security .secStat 0 4 4 = (if b then 1 else 0) ∧
      t.rd .security .secBootTime 0 = s.now ∧ t.sys.wake = none ∧ t.sys.owner = s.bootOwner.sys.owner ∧ t.sys.token = none ∧
      t.fld .security .secDebug 0 1 0 = s.sys.token.getD 0 % 4 ∧ t.now = s.now ∧ t.pending = s.pending ∧
      (∀ h : Fin 2, t.fld (.harbour h) .hbStat 0 21 19 = 0) ∧ (∀ p, t.live p = .running) ∧ (∀ c q, t.queue c q = {}) ∧
      (∀ g c i, t.sem g c i = 0) ∧ t.dirty = [] ∧ t.est.regions = (if b ∨ f.digestOk = false then [] else s.est.regions) ∧
      (b = true → t.est.qps = [] ∧ t.gulk = {} ∧ (∀ a, hbmWindow a = true ∨ ledgeWindow a = true → t.byte a = 0) ∧
        (∀ a, hbmWindow a = false → ledgeWindow a = false → t.byte a = s.byte a)) ∧
      (b = false → t.est.qps = s.est.qps ∧ (∀ a, t.byte a = if ledgeWindow a then 0 else s.byte a) ∧
        (f.digestOk = false → t.gulk = {} ∧ bit1 (t.rd .security .event 0) 2 = true) ∧
        (f.digestOk = true → t.gulk.scenes = s.gulk.scenes ∧ t.gulk.streams = s.gulk.streams ∧ t.gulk.pages = s.gulk.pages ∧
          t.gulk.nodes = s.gulk.nodes ∧ t.gulk.reqs = []))) ∧
    (∀ b : Bool, s.bootMay b = true → f.mfgA = false → f.mfgB = false → f.mirror = false →
      ∃ t, exec (if b then .coldBoot f else .dryExit f) s = .next t ∧ t.sys.failed = true ∧ t.sys.bootFail = 1 ∧
      t.fld .security .secStat 0 3 0 = 15) ∧
    (∀ b : Bool, s.bootMay b = true → f.mfgA = true → f.fieldA = true → f.ownerA = false → f.ownerB = false →
      ∃ t, exec (if b then .coldBoot f else .dryExit f) s = .next t ∧ t.sys.failed = true ∧ t.sys.bootFail = 2 ∧
      t.fld .security .secStat 0 3 0 = 15) ∧
    (∀ b : Bool, s.bootMay b = true → f.mfgA = true → f.fieldA = true → f.ownerA = true → (0 : Fin 10) ∈ f.badBanks →
      (1 : Fin 10) ∈ f.badBanks → ∃ t, exec (if b then .coldBoot f else .dryExit f) s = .next t ∧ t.sys.failed = true ∧
      t.sys.bootFail = 3 ∧ t.fld .security .secStat 0 3 0 = 15)
end

