-- ==== Sys2Proof/Laws/Bits.lean ====
section
/-! SUPPORT. Bit fields of words: reading a field after writing one. -/

namespace Sys2Proof.Machine

theorem testBit_maskOf (hi lo b : Nat) : (maskOf hi lo).testBit b = (decide (lo ≤ b) && decide (b - lo < hi + 1 - lo)) := by
  unfold maskOf
  rw [Nat.testBit_mul_two_pow, Nat.testBit_two_pow_sub_one]

/-- A bit of a word one of whose fields has been written. -/
theorem getLsbD_setBits (w : Word) (hi lo x b : Nat) (h : hi < 64) :
    (setBits w hi lo x).getLsbD b = if lo ≤ b ∧ b ≤ hi then x.testBit (b - lo) else w.getLsbD b := by
  unfold setBits
  simp only [BitVec.getLsbD_or, BitVec.getLsbD_and, BitVec.getLsbD_not, BitVec.getLsbD_ofNat, testBit_maskOf,
    Nat.testBit_mul_two_pow, Nat.testBit_mod_two_pow]
  by_cases h1 : lo ≤ b ∧ b ≤ hi
  · have h2 : b < 64 := by omega
    have h3 : b - lo < hi + 1 - lo := by omega
    simp [h1, h2, h3]
  · rw [if_neg h1]
    by_cases h2 : lo ≤ b
    · have h3 : ¬(b - lo < hi + 1 - lo) := by omega
      by_cases h4 : b < 64
      · simp [h3, h4]
      · simp [h3, BitVec.getLsbD_of_ge w b (by omega)]
    · by_cases h4 : b < 64
      · simp [h2, h4]
      · simp [h2, BitVec.getLsbD_of_ge w b (by omega)]

/-- Writing a field leaves every bit outside it. -/
theorem bit1_setBits_other {w : Word} {hi lo x b : Nat} (h : hi < 64) (hb : b < lo ∨ hi < b) :
    bit1 (setBits w hi lo x) b = bit1 w b := by
  unfold bit1
  rw [getLsbD_setBits w hi lo x b h, if_neg (by omega)]

theorem testBit_bits (w : Word) (hi lo j : Nat) :
    (bits w hi lo).testBit j = (decide (j < hi + 1 - lo) && w.getLsbD (lo + j)) := by
  unfold bits
  rw [Nat.testBit_mod_two_pow, Nat.testBit_shiftRight]
  rfl

/-- A field reads as what was written to it. -/
theorem bits_setBits_same {w : Word} {hi lo x : Nat} (h : hi < 64) :
    bits (setBits w hi lo x) hi lo = x % 2 ^ (hi + 1 - lo) := by
  apply Nat.eq_of_testBit_eq
  intro j
  rw [testBit_bits, Nat.testBit_mod_two_pow, getLsbD_setBits _ _ _ _ _ h]
  by_cases hj : j < hi + 1 - lo
  · rw [if_pos (by omega), show lo + j - lo = j by omega]
  · simp [hj]

/-- Writing one field leaves another. -/
theorem bits_setBits_other {w : Word} {hi lo x hi' lo' : Nat} (h : hi < 64) (hd : hi' < lo ∨ hi < lo') :
    bits (setBits w hi lo x) hi' lo' = bits w hi' lo' := by
  apply Nat.eq_of_testBit_eq
  intro j
  rw [testBit_bits, testBit_bits, getLsbD_setBits _ _ _ _ _ h]
  by_cases hj : j < hi' + 1 - lo'
  · rw [if_neg (by omega)]
  · simp [hj]

theorem bits_lt (w : Word) (hi lo : Nat) : bits w hi lo < 2 ^ (hi + 1 - lo) := Nat.mod_lt _ (Nat.two_pow_pos _)

/-! ### Semaphore words (R86) -/

/-- An ADD that does not saturate leaves the faulted bit, which was clear. -/
theorem semAdd_ok {w : Word} {n : Nat} (h : (semAdd w n).2 = .ok) :
    (semAdd w n).1 = setBits w 47 0 (semCount w + n) ∧ semFaulted w = false ∧ semFaulted (semAdd w n).1 = false ∧
      semCount w + n < 2 ^ 48 := by
  unfold semAdd at *
  split at h
  · cases h
  · split at h
    · cases h
    · next h1 h2 =>
      rw [if_neg h1, if_neg h2]
      refine ⟨rfl, by simpa using h1, ?_, by omega⟩
      simp only [semFaulted, bit1_setBits_other (show 47 < 64 by decide) (Or.inr (show 47 < 48 by decide))]
      simpa [semFaulted] using h1

theorem semSub_ok {w : Word} {n : Nat} (h : (semSub w n).2 = .ok) :
    (semSub w n).1 = setBits w 47 0 (semCount w - n) ∧ semFaulted w = false ∧ semFaulted (semSub w n).1 = false ∧
      n ≤ semCount w := by
  unfold semSub at *
  split at h
  · cases h
  · split at h
    · cases h
    · next h1 h2 =>
      rw [if_neg h1, if_neg h2]
      refine ⟨rfl, by simpa using h1, ?_, by omega⟩
      simp only [semFaulted, bit1_setBits_other (show 47 < 64 by decide) (Or.inr (show 47 < 48 by decide))]
      simpa [semFaulted] using h1

end Sys2Proof.Machine
end

