-- ==== Sys2Proof/Laws/Tables.lean ====
section
/-! SUPPORT. The laws of the sparse tables: reading after writing, and the canonical form that every operation keeps. -/

namespace Sys2Proof

/-- Strictly rising keys, as a relation between every two entries. -/
theorem FMap.sorted_iff {α : Type} (m : FMap α) : FMap.sorted m = true ↔ m.Pairwise (fun a b => a.1 < b.1) := by
  induction m with
  | nil => simp [FMap.sorted]
  | cons x m ih =>
    cases m with
    | nil => simp [FMap.sorted]
    | cons y m =>
      rw [FMap.sorted, Bool.and_eq_true, ih, List.pairwise_cons (a := x)]
      simp only [decide_eq_true_eq]
      refine ⟨fun ⟨h, hp⟩ => ⟨fun z hz => ?_, hp⟩, fun ⟨h, hp⟩ => ⟨h y (by simp), hp⟩⟩
      rcases List.mem_cons.1 hz with rfl | hz
      · exact h
      · exact Nat.lt_trans h ((List.pairwise_cons.1 hp).1 z hz)

/-- The canonical form, entry by entry. -/
theorem FMap.wf_iff {α : Type} [DecidableEq α] (d : Nat → α) (m : FMap α) :
    FMap.wf d m = true ↔ m.Pairwise (fun a b => a.1 < b.1) ∧ ∀ x ∈ m, x.2 ≠ d x.1 := by
  simp [FMap.wf, FMap.sorted_iff]

/-- What a table holds that is two tables in a row. -/
theorem FMap.find?_append {α : Type} (m n : FMap α) (i : Nat) :
    FMap.find? (m ++ n) i = (FMap.find? m i).or (FMap.find? n i) := by
  induction m with
  | nil => rfl
  | cons x m ih =>
    rw [List.cons_append, FMap.find?, FMap.find?]
    by_cases h : x.1 = i
    · rw [if_pos h, if_pos h]; rfl
    · rw [if_neg h, if_neg h, ih]

/-- What a table holds whose keys have been picked out. -/
theorem FMap.find?_filter {α : Type} (p : Nat → Bool) (m : FMap α) (i : Nat) :
    FMap.find? (m.filter (fun x => p x.1)) i = if p i = true then FMap.find? m i else none := by
  induction m with
  | nil => simp [FMap.find?]
  | cons x m ih =>
    rw [List.filter_cons]
    by_cases k : p x.1 = true
    · rw [if_pos k, FMap.find?, FMap.find?, ih]
      by_cases h : x.1 = i
      · rw [if_pos h, if_pos h, if_pos (h ▸ k)]
      · rw [if_neg h, if_neg h]
    · rw [if_neg k, ih, FMap.find?]
      by_cases h : x.1 = i
      · rw [if_neg (h ▸ k), if_neg (h ▸ k)]
      · rw [if_neg h]

theorem FMap.mem_put {α : Type} (m : FMap α) (i : Nat) (x : α) (y : Nat × α) (h : y ∈ FMap.put m i x) :
    y = (i, x) ∨ y ∈ m := by
  fun_induction FMap.put m i x <;> grind

theorem FMap.pairwise_put {α : Type} (m : FMap α) (i : Nat) (x : α) (h : m.Pairwise (fun a b => a.1 < b.1)) :
    (FMap.put m i x).Pairwise (fun a b => a.1 < b.1) := by
  fun_induction FMap.put m i x with
  | case1 => simp
  | case2 i x k v m hi =>
    refine List.pairwise_cons.2 ⟨fun z hz => ?_, h⟩
    rcases List.mem_cons.1 hz with rfl | hz
    · exact hi
    · exact Nat.lt_trans hi ((List.pairwise_cons.1 h).1 z hz)
  | case3 => exact List.pairwise_cons.2 ⟨(List.pairwise_cons.1 h).1, (List.pairwise_cons.1 h).2⟩
  | case4 =>
    next m i x hi hk ih =>
    have hc := List.pairwise_cons.1 h
    refine List.pairwise_cons.2 ⟨fun z hz => ?_, ih hc.2⟩
    rcases FMap.mem_put _ _ _ z hz with rfl | hz
    · simp only; omega
    · exact hc.1 z hz

theorem FMap.del_sublist {α : Type} (m : FMap α) (i : Nat) : (FMap.del m i).Sublist m := List.filter_sublist

/-- What a table holds after a value is listed. -/
theorem FMap.find_put {α : Type} (m : FMap α) (i j : Nat) (x : α) :
    FMap.find? (FMap.put m i x) j = if i = j then some x else FMap.find? m j := by
  fun_induction FMap.put m i x <;> grind [FMap.find?]

/-- What a table holds after a key is taken out. -/
theorem FMap.find_del {α : Type} (m : FMap α) (i j : Nat) :
    FMap.find? (FMap.del m i) j = if i = j then none else FMap.find? m j := by
  unfold FMap.del
  induction m with
  | nil => simp [FMap.find?]
  | cons y m ih =>
    obtain ⟨k, v⟩ := y
    by_cases h : k = i
    · subst h
      by_cases e : k = j <;> simp_all [FMap.find?]
    · by_cases e : k = j
      · subst e; simp [FMap.find?, h, Ne.symm h]
      · simp_all [FMap.find?]

/-- Writing one key leaves what every other key reads as. -/
theorem FMap.get_set_other {α : Type} [DecidableEq α] (d e : α) (m : FMap α) (i j : Nat) (x : α) (h : i ≠ j) :
    FMap.get e (FMap.set d m i x) j = FMap.get e m j := by
  unfold FMap.get FMap.set
  split
  · rw [FMap.find_del m i j, if_neg h]
  · rw [FMap.find_put, if_neg h]

/-- A key reads as what was written to it. -/
@[simp] theorem FMap.get_set_same {α : Type} [DecidableEq α] (d : α) (m : FMap α) (i : Nat) (x : α) :
    FMap.get d (FMap.set d m i x) i = x := by
  unfold FMap.get FMap.set
  split
  · next hx => rw [FMap.find_del, if_pos rfl, hx]; rfl
  · rw [FMap.find_put, if_pos rfl]; rfl

/-- What every key reads as after one is written. -/
theorem FMap.get_set {α : Type} [DecidableEq α] (d : α) (m : FMap α) (i j : Nat) (x : α) :
    FMap.get d (FMap.set d m i x) j = if i = j then x else FMap.get d m j := by
  split
  · next h => rw [← h, FMap.get_set_same]
  · next h => exact FMap.get_set_other d d m i j x h

/-- A part of a canonical table, in its order, is canonical. -/
theorem FMap.wf_sublist {α : Type} [DecidableEq α] {d : Nat → α} {m n : FMap α} (h : FMap.wf d m = true)
    (hs : n.Sublist m) : FMap.wf d n = true := by
  rw [FMap.wf_iff] at *
  exact ⟨h.1.sublist hs, fun x hx => h.2 x (hs.subset hx)⟩

/-- Setting the value of a key keeps the canonical form, whatever the value. -/
theorem FMap.wf_set {α : Type} [DecidableEq α] {d : Nat → α} {m : FMap α} (h : FMap.wf d m = true) (i : Nat) (x : α) :
    FMap.wf d (FMap.set (d i) m i x) = true := by
  unfold FMap.set
  split
  · exact FMap.wf_sublist h (FMap.del_sublist m i)
  · next hx =>
    rw [FMap.wf_iff] at *
    refine ⟨FMap.pairwise_put m i x h.1, fun y hy => ?_⟩
    rcases FMap.mem_put m i x y hy with rfl | hy
    · exact hx
    · exact h.2 y hy

/-- Keeping the entries that satisfy a test keeps the canonical form. -/
theorem FMap.wf_filter {α : Type} [DecidableEq α] {d : Nat → α} {m : FMap α} (h : FMap.wf d m = true)
    (p : Nat × α → Bool) : FMap.wf d (m.filter p) = true := FMap.wf_sublist h List.filter_sublist

end Sys2Proof
end

