-- ==== Sys2Proof/Laws/Lines.lean ====
section
/-! SUPPORT. What an access does behind memory: the states before and after differ in what Harbour, the stacks and the CXL ports
keep and count, and in nothing else. -/

namespace Sys2Proof.Machine

variable (s : State)

/-! ### Registers -/

theorem State.rd_eq_reg (s : State) (p : Pg) (r : RegName) (i : Nat) : s.rd p r i = s.reg (regKey p r i) := rfl

/-- A register after a write of one. -/
theorem State.reg_wr (s : State) (p : Pg) (r : RegName) (i : Nat) (v : Word) (k : Nat) :
    (s.wr p r i v).reg k = if regKey p r i = k then v else s.reg k := by
  unfold State.reg State.wr
  split
  · next h => subst h; exact FMap.get_set_same _ _ _ _
  · next h => exact FMap.get_set_other _ _ _ _ _ _ h

/-- The key of a register belongs to its page. -/
theorem memoryKey_regKey {p : Pg} {r : RegName} {i : Nat} (hp : Pg.ofIndex p.index = some p) (hr : r.off i < 4096) :
    memoryKey (regKey p r i) = (p.type == .harbour || p.type == .hbm || p.type == .cxl) := by
  unfold memoryKey regKey
  rw [show (p.index * 4096 + r.off i) / 4096 = p.index by omega, hp]

theorem memoryKey_harbour {h : Fin 2} {r : RegName} {i : Nat} (hr : r.off i < 4096) :
    memoryKey (regKey (.harbour h) r i) = true := by
  rw [memoryKey_regKey (by revert h; decide) hr]; rfl

theorem memoryKey_hbm {k : Fin 12} {r : RegName} {i : Nat} (hr : r.off i < 4096) :
    memoryKey (regKey (.hbm k) r i) = true := by
  rw [memoryKey_regKey (by revert k; decide) hr]; rfl

theorem memoryKey_cxl {p : Fin 2} {r : RegName} {i : Nat} (hr : r.off i < 4096) :
    memoryKey (regKey (.cxl p) r i) = true := by
  rw [memoryKey_regKey (by revert p; decide) hr]; rfl

/-! ### Harbour's lines -/

/-- The two states differ at most in Harbour's lines and sectors, in the write-combining buffers, and in the registers of the pages
that count what goes on behind an access. -/
def State.behind (s t : State) : Prop :=
  t = { s with regs := t.regs, harbour := t.harbour, pfLines := t.pfLines, dirty := t.dirty, wc := t.wc } ∧
  ∀ k, memoryKey k = false → t.reg k = s.reg k

theorem State.behind_refl : s.behind s := ⟨rfl, fun _ _ => rfl⟩

theorem State.behind_trans {s t u : State} (h : s.behind t) (k : t.behind u) : s.behind u := by
  unfold State.behind at *
  exact ⟨by rw [k.1, h.1], fun i hi => (k.2 i hi).trans (h.2 i hi)⟩

theorem State.behind_fold {s : State} {α : Type} {f : State → α → State} (hf : ∀ (t : State) (x : α), t.behind (f t x))
    (l : List α) : s.behind (l.foldl f s) := by
  induction l generalizing s with
  | nil => exact State.behind_refl s
  | cons a l ih => exact State.behind_trans (hf s a) ih

theorem State.bump_behind {p : Pg} {r : RegName} {i : Nat} (h : memoryKey (regKey p r i) = true) (n : Nat) :
    s.behind (s.bump p r i n) := by
  unfold State.bump
  split
  · refine ⟨rfl, fun k hk => ?_⟩
    rw [State.reg_wr, if_neg (fun e => by rw [e, hk] at h; exact absurd h (by decide))]
  · exact State.behind_refl s

theorem State.prefetched_behind (line : Nat) {r : RegName} (hr : r.off 0 < 4096) {k : Nat} (hk : k ≤ 4) :
    s.behind (s.prefetched line r k) := by
  unfold State.prefetched
  split
  · exact State.behind_refl s
  · refine State.behind_trans (t := { s with pfLines := FMap.del s.pfLines line }) ⟨rfl, fun _ _ => rfl⟩ ?_
    refine State.behind_trans (State.bump_behind _ (memoryKey_harbour hr) _) (State.bump_behind _ (memoryKey_harbour ?_) _)
    simp only [RegName.off]
    omega

theorem State.wcFlushed_behind (k : Fin 12) (e : WcEntry) : s.behind (s.wcFlushed k e) := by
  unfold State.wcFlushed
  dsimp only
  split
  · exact State.behind_trans (State.bump_behind _ (memoryKey_hbm (by decide)) _)
      (State.bump_behind _ (memoryKey_hbm (by decide)) _)
  · exact State.bump_behind _ (memoryKey_hbm (by decide)) _

theorem State.setWc_behind (k : Fin 12) (l : List WcEntry) : s.behind (s.setWc k l) := ⟨rfl, fun _ _ => rfl⟩

theorem State.wcPut_behind (line : Nat) (m : BitVec 128) : s.behind (s.wcPut line m) := by
  unfold State.wcPut
  generalize (stackOf (line * 128)) = k
  dsimp only
  repeat' split
  all_goals repeat' first
    | with_reducible exact State.behind_refl _
    | with_reducible exact State.wcFlushed_behind _ _ _
    | with_reducible exact State.setWc_behind _ _ _
    | with_reducible refine State.behind_trans ?_ (State.wcFlushed_behind _ _ _)
    | with_reducible refine State.behind_trans ?_ (State.setWc_behind _ _ _)

theorem State.wcTake_behind (line : Nat) : s.behind (s.wcTake line) := by
  unfold State.wcTake
  split
  · dsimp only
    split
    · exact State.behind_refl s
    · exact ⟨rfl, fun _ _ => rfl⟩
  · exact State.behind_refl s

theorem State.lineBack_behind (line : Nat) : s.behind (s.lineBack line) := by
  unfold State.lineBack
  dsimp only
  have h : ∀ d, s.behind { s.bump (.harbour (halfOf (line * 128))) .hbWritebacks 0
      (s.dirty.filter (fun x => x / 2 = line)).length with dirty := d } := fun _ =>
    State.behind_trans (State.bump_behind _ (memoryKey_harbour (by decide)) _) ⟨rfl, fun _ _ => rfl⟩
  split
  · split
    · exact State.behind_trans (h _) (State.wcPut_behind _ _ _)
    · exact h _
  · exact h _

theorem State.lineOut_behind (line : Nat) : s.behind (s.lineOut line) :=
  State.behind_trans (State.prefetched_behind _ _ (by decide) (by decide))
    (State.behind_trans (State.lineBack_behind _ _) ⟨rfl, fun _ _ => rfl⟩)

theorem State.wayFor_behind (line : Nat) : s.behind (s.wayFor line) := by
  unfold State.wayFor
  dsimp only
  repeat' split
  all_goals first | exact State.behind_refl _ | exact State.lineOut_behind _ _

theorem State.lineIn_behind (line : Nat) : s.behind (s.lineIn line) :=
  State.behind_trans (State.wayFor_behind _ _) (State.behind_trans (State.wcTake_behind _ _) ⟨rfl, fun _ _ => rfl⟩)

/-- An access to one line. -/
theorem State.lineUse_behind (write alloc : Bool) (line : Nat) : s.behind (s.lineUse write alloc line) := by
  unfold State.lineUse
  dsimp only
  have hb := State.bump_behind s (memoryKey_harbour (h := halfOf (line * 128)) (r := .hbHits) (i := 0) (by decide)) 1
  have hm := State.bump_behind s (memoryKey_harbour (h := halfOf (line * 128)) (r := .hbMisses) (i := 0) (by decide)) 1
  split
  · refine State.behind_trans (State.behind_trans hb ?_) ⟨rfl, fun _ _ => rfl⟩
    split
    · exact State.prefetched_behind _ _ (by decide) (by decide)
    · exact State.prefetched_behind _ _ (by decide) (by decide)
  · split
    · exact State.behind_trans hm (State.lineIn_behind _ _)
    · exact hm

theorem State.lines_behind (write alloc : Bool) (l : List Nat) : s.behind (l.foldl (State.lineUse · write alloc) s) :=
  State.behind_fold (fun t x => State.lineUse_behind t write alloc x) l

/-! ### Stores -/

/-- A store changes memory, and what Harbour holds of it, and nothing else. -/
theorem State.store_behind (a : Nat) (bs : List Byte) :
    s.store a bs = { s with
      mem := (s.store a bs).mem, bad := (s.store a bs).bad, regs := (s.store a bs).regs, harbour := (s.store a bs).harbour,
      pfLines := (s.store a bs).pfLines, dirty := (s.store a bs).dirty, wc := (s.store a bs).wc } := by
  unfold State.store
  dsimp only
  split
  · rfl
  · split
    · have h := (State.lines_behind (s.poke a bs) true true (linesOf a bs.length)).1
      generalize List.foldl (State.lineUse · true true) (s.poke a bs) (linesOf a bs.length) = u at h
      rw [h]
      rfl
    · rfl

/-- A store's bytes go to memory, whatever Harbour does for them. -/
theorem State.store_mem (a : Nat) (bs : List Byte) : (s.store a bs).mem = memWrite s.mem a bs := by
  unfold State.store
  dsimp only
  split
  · next h => rw [List.isEmpty_iff] at h; subst h; rfl
  · split
    · exact congrArg State.mem (State.lines_behind (s.poke a bs) true true (linesOf a bs.length)).1
    · rfl

/-- A store writes no register but those that count what goes on behind it. -/
theorem State.reg_store (a : Nat) (bs : List Byte) {k : Nat} (hk : memoryKey k = false) :
    (s.store a bs).reg k = s.reg k := by
  unfold State.store
  dsimp only
  split
  · rfl
  · split
    · exact (State.lines_behind (s.poke a bs) true true (linesOf a bs.length)).2 k hk
    · rfl

/-- A store outside HBM4 and CXL memory, as in a Ledge, moves nothing of Harbour. -/
theorem State.store_ledge {a : Nat} (h : harbourAddr a = false) (bs : List Byte) :
    s.store a bs = if bs = [] then s else s.poke a bs := by
  unfold State.store
  cases bs <;> simp [h]

/-! ### Reads through Harbour -/

/-- The two states differ at most in what a read through Harbour moves. -/
def State.through (s t : State) : Prop :=
  t = { s with
    regs := t.regs, harbour := t.harbour, pfLines := t.pfLines, pf := t.pf, dirty := t.dirty, wc := t.wc,
    regulators := t.regulators, freeIx := t.freeIx } ∧
  ∀ k, memoryKey k = false → t.reg k = s.reg k

theorem State.through_refl : s.through s := ⟨rfl, fun _ _ => rfl⟩

theorem State.through_trans {s t u : State} (h : s.through t) (k : t.through u) : s.through u := by
  unfold State.through at *
  exact ⟨by rw [k.1, h.1], fun i hi => (k.2 i hi).trans (h.2 i hi)⟩

theorem State.through_fold {s : State} {α : Type} {f : State → α → State}
    (hf : ∀ (t : State) (x : α), t.through (f t x)) (l : List α) : s.through (l.foldl f s) := by
  induction l generalizing s with
  | nil => exact State.through_refl s
  | cons a l ih => exact State.through_trans (hf s a) ih

theorem State.through_of_behind {s t : State} (h : s.behind t) : s.through t := by
  unfold State.behind at h
  unfold State.through
  exact ⟨by rw [h.1], h.2⟩

theorem State.bumpFree_through {p : Pg} {r : RegName} {i : Nat} (h : memoryKey (regKey p r i) = true) :
    s.through (s.bumpFree p r i) :=
  State.through_trans (t := s.draw.2) ⟨rfl, fun _ _ => rfl⟩ (State.through_of_behind (State.bump_behind _ h _))

theorem State.bumpAllFree_through {p : Pg} {l : List RegName} (h : ∀ r ∈ l, memoryKey (regKey p r 0) = true) :
    s.through (s.bumpAllFree p l) := by
  unfold State.bumpAllFree
  induction l generalizing s with
  | nil => exact State.through_refl s
  | cons r l ih =>
    exact State.through_trans (State.bumpFree_through s (h r (by simp))) (ih _ (fun x hx => h x (by simp [hx])))

theorem State.traffic_through (cl a lines : Nat) : s.through (s.traffic cl a lines) := by
  unfold State.traffic
  split
  · exact State.through_refl s
  · refine State.through_trans (State.bumpFree_through s (memoryKey_harbour (h := halfOf a) (r := .hbMshrFullCycles) (i := 0)
      (by decide))) ?_
    dsimp only
    split
    · refine State.through_trans ?_ (State.through_fold (fun t k => State.bumpAllFree_through t (p := .hbm k) ?_) _)
      · exact ⟨rfl, fun _ _ => rfl⟩
      · revert k; decide
    · split
      · next p _ => clear * -; exact State.bumpAllFree_through _ (by revert p; decide)
      · exact State.through_refl _

theorem State.reads_through (cl a n : Nat) : s.through (s.reads cl a n) := by
  unfold State.reads
  split
  · exact State.through_refl s
  · exact State.through_trans (State.through_fold (fun t l => State.through_of_behind (State.lineUse_behind t _ _ l)) _)
      (State.traffic_through _ _ _ _)

theorem State.coreReads_through (c : Fin 36) (line : Nat) : s.through (s.coreReads c line) := by
  unfold State.coreReads
  dsimp only
  split
  · exact ⟨rfl, fun _ _ => rfl⟩
  · exact State.through_refl s

/-- A core's read of memory. -/
theorem State.readsBy_through (c : Fin 36) (cl a n : Nat) : s.through (s.readsBy c cl a n) := by
  unfold State.readsBy
  split
  · exact State.through_refl s
  · exact State.through_trans (State.through_fold (fun t l => State.coreReads_through t c l) _) (State.reads_through _ _ _ _)

/-- A queue's fetch. -/
theorem State.fetched_through (c : Fin 36) (q pc : Nat) : s.through (s.fetched c q pc) := by
  unfold State.fetched
  split
  · exact State.readsBy_through _ _ _ _ _
  · exact State.through_refl s

/-! ### Issue -/

/-- Issuing an instruction changes the cores, and what its fetch through Harbour moves, and nothing else. -/
theorem State.issue_through (c : Fin 36) (q : Nat) (f : Flight) (pc : Nat) :
    s.issue c q f pc = { s with
      cores := (s.issue c q f pc).cores, regs := (s.issue c q f pc).regs, harbour := (s.issue c q f pc).harbour,
      pfLines := (s.issue c q f pc).pfLines, pf := (s.issue c q f pc).pf, dirty := (s.issue c q f pc).dirty,
      wc := (s.issue c q f pc).wc, regulators := (s.issue c q f pc).regulators, freeIx := (s.issue c q f pc).freeIx } := by
  unfold State.issue
  dsimp only
  generalize hw : s.setQueue c q _ = w
  have h := (State.fetched_through w c q f.pc).1
  generalize w.fetched c q f.pc = x at h
  have e : w = { s with cores := w.cores } := by rw [← hw]; rfl
  unfold State.bump State.setPc State.setFld State.wr
  split <;> (rw [h, e])

theorem State.issue_cores (c : Fin 36) (q : Nat) (f : Flight) (pc : Nat) :
    (s.issue c q f pc).cores = (s.setQueue c q { s.queue c q with
      flights := (s.queue c q).flights ++ [{ f with seq := (s.queue c q).seq, issued := s.now }],
      seq := ((s.queue c q).seq + 1) % 2 ^ 32 }).cores := by
  unfold State.issue
  dsimp only
  generalize s.setQueue c q _ = w
  have h := congrArg State.cores (State.fetched_through w c q f.pc).1
  generalize w.fetched c q f.pc = x at h
  unfold State.bump
  split <;> exact h

end Sys2Proof.Machine
end

