-- ==== Sys2Proof/Laws/State.lean ====
section
/-! SUPPORT. What each named update leaves of the state, field by field: one lemma for each field that an update does not
change, so that no proof unfolds a record update. -/

namespace Sys2Proof.Machine

variable (s : State)

@[simp] theorem State.wr_code (p : Pg) (r : RegName) (i : Nat) (v : Word) : (s.wr p r i v).code = s.code := rfl
@[simp] theorem State.wr_pending (p : Pg) (r : RegName) (i : Nat) (v : Word) : (s.wr p r i v).pending = s.pending := rfl
@[simp] theorem State.wr_now (p : Pg) (r : RegName) (i : Nat) (v : Word) : (s.wr p r i v).now = s.now := rfl
@[simp] theorem State.wr_freeIx (p : Pg) (r : RegName) (i : Nat) (v : Word) : (s.wr p r i v).freeIx = s.freeIx := rfl
@[simp] theorem State.wr_mem (p : Pg) (r : RegName) (i : Nat) (v : Word) : (s.wr p r i v).mem = s.mem := rfl
@[simp] theorem State.wr_bad (p : Pg) (r : RegName) (i : Nat) (v : Word) : (s.wr p r i v).bad = s.bad := rfl
@[simp] theorem State.wr_harbour (p : Pg) (r : RegName) (i : Nat) (v : Word) : (s.wr p r i v).harbour = s.harbour := rfl
@[simp] theorem State.wr_pfLines (p : Pg) (r : RegName) (i : Nat) (v : Word) : (s.wr p r i v).pfLines = s.pfLines := rfl
@[simp] theorem State.wr_pf (p : Pg) (r : RegName) (i : Nat) (v : Word) : (s.wr p r i v).pf = s.pf := rfl
@[simp] theorem State.wr_dirty (p : Pg) (r : RegName) (i : Nat) (v : Word) : (s.wr p r i v).dirty = s.dirty := rfl
@[simp] theorem State.wr_wc (p : Pg) (r : RegName) (i : Nat) (v : Word) : (s.wr p r i v).wc = s.wc := rfl
@[simp] theorem State.wr_regulators (p : Pg) (r : RegName) (i : Nat) (v : Word) :
    (s.wr p r i v).regulators = s.regulators := rfl
@[simp] theorem State.wr_sems (p : Pg) (r : RegName) (i : Nat) (v : Word) : (s.wr p r i v).sems = s.sems := rfl
@[simp] theorem State.wr_trace (p : Pg) (r : RegName) (i : Nat) (v : Word) : (s.wr p r i v).trace = s.trace := rfl
@[simp] theorem State.wr_tide (p : Pg) (r : RegName) (i : Nat) (v : Word) : (s.wr p r i v).tide = s.tide := rfl
@[simp] theorem State.wr_records (p : Pg) (r : RegName) (i : Nat) (v : Word) : (s.wr p r i v).records = s.records := rfl
@[simp] theorem State.wr_cores (p : Pg) (r : RegName) (i : Nat) (v : Word) : (s.wr p r i v).cores = s.cores := rfl
@[simp] theorem State.wr_lives (p : Pg) (r : RegName) (i : Nat) (v : Word) : (s.wr p r i v).lives = s.lives := rfl
@[simp] theorem State.wr_errs (p : Pg) (r : RegName) (i : Nat) (v : Word) : (s.wr p r i v).errs = s.errs := rfl
@[simp] theorem State.wr_standby (p : Pg) (r : RegName) (i : Nat) (v : Word) : (s.wr p r i v).standby = s.standby := rfl
@[simp] theorem State.wr_fore (p : Pg) (r : RegName) (i : Nat) (v : Word) : (s.wr p r i v).fore = s.fore := rfl
@[simp] theorem State.wr_cliff (p : Pg) (r : RegName) (i : Nat) (v : Word) : (s.wr p r i v).cliff = s.cliff := rfl
@[simp] theorem State.wr_gulk (p : Pg) (r : RegName) (i : Nat) (v : Word) : (s.wr p r i v).gulk = s.gulk := rfl
@[simp] theorem State.wr_est (p : Pg) (r : RegName) (i : Nat) (v : Word) : (s.wr p r i v).est = s.est := rfl
@[simp] theorem State.wr_tw (p : Pg) (r : RegName) (i : Nat) (v : Word) : (s.wr p r i v).tw = s.tw := rfl
@[simp] theorem State.wr_jobs (p : Pg) (r : RegName) (i : Nat) (v : Word) : (s.wr p r i v).jobs = s.jobs := rfl
@[simp] theorem State.wr_sys (p : Pg) (r : RegName) (i : Nat) (v : Word) : (s.wr p r i v).sys = s.sys := rfl
@[simp] theorem State.wr_out (p : Pg) (r : RegName) (i : Nat) (v : Word) : (s.wr p r i v).out = s.out := rfl

@[simp] theorem State.setFld_code (p : Pg) (r : RegName) (i hi lo x : Nat) :
    (s.setFld p r i hi lo x).code = s.code := rfl
@[simp] theorem State.setFld_pending (p : Pg) (r : RegName) (i hi lo x : Nat) :
    (s.setFld p r i hi lo x).pending = s.pending := rfl
@[simp] theorem State.setFld_now (p : Pg) (r : RegName) (i hi lo x : Nat) : (s.setFld p r i hi lo x).now = s.now := rfl
@[simp] theorem State.setFld_freeIx (p : Pg) (r : RegName) (i hi lo x : Nat) :
    (s.setFld p r i hi lo x).freeIx = s.freeIx := rfl
@[simp] theorem State.setFld_mem (p : Pg) (r : RegName) (i hi lo x : Nat) : (s.setFld p r i hi lo x).mem = s.mem := rfl
@[simp] theorem State.setFld_bad (p : Pg) (r : RegName) (i hi lo x : Nat) : (s.setFld p r i hi lo x).bad = s.bad := rfl
@[simp] theorem State.setFld_harbour (p : Pg) (r : RegName) (i hi lo x : Nat) :
    (s.setFld p r i hi lo x).harbour = s.harbour := rfl
@[simp] theorem State.setFld_pfLines (p : Pg) (r : RegName) (i hi lo x : Nat) :
    (s.setFld p r i hi lo x).pfLines = s.pfLines := rfl
@[simp] theorem State.setFld_pf (p : Pg) (r : RegName) (i hi lo x : Nat) : (s.setFld p r i hi lo x).pf = s.pf := rfl
@[simp] theorem State.setFld_dirty (p : Pg) (r : RegName) (i hi lo x : Nat) :
    (s.setFld p r i hi lo x).dirty = s.dirty := rfl
@[simp] theorem State.setFld_wc (p : Pg) (r : RegName) (i hi lo x : Nat) : (s.setFld p r i hi lo x).wc = s.wc := rfl
@[simp] theorem State.setFld_regulators (p : Pg) (r : RegName) (i hi lo x : Nat) :
    (s.setFld p r i hi lo x).regulators = s.regulators := rfl
@[simp] theorem State.setFld_sems (p : Pg) (r : RegName) (i hi lo x : Nat) :
    (s.setFld p r i hi lo x).sems = s.sems := rfl
@[simp] theorem State.setFld_trace (p : Pg) (r : RegName) (i hi lo x : Nat) :
    (s.setFld p r i hi lo x).trace = s.trace := rfl
@[simp] theorem State.setFld_tide (p : Pg) (r : RegName) (i hi lo x : Nat) :
    (s.setFld p r i hi lo x).tide = s.tide := rfl
@[simp] theorem State.setFld_records (p : Pg) (r : RegName) (i hi lo x : Nat) :
    (s.setFld p r i hi lo x).records = s.records := rfl
@[simp] theorem State.setFld_cores (p : Pg) (r : RegName) (i hi lo x : Nat) :
    (s.setFld p r i hi lo x).cores = s.cores := rfl
@[simp] theorem State.setFld_lives (p : Pg) (r : RegName) (i hi lo x : Nat) :
    (s.setFld p r i hi lo x).lives = s.lives := rfl
@[simp] theorem State.setFld_errs (p : Pg) (r : RegName) (i hi lo x : Nat) :
    (s.setFld p r i hi lo x).errs = s.errs := rfl
@[simp] theorem State.setFld_standby (p : Pg) (r : RegName) (i hi lo x : Nat) :
    (s.setFld p r i hi lo x).standby = s.standby := rfl
@[simp] theorem State.setFld_fore (p : Pg) (r : RegName) (i hi lo x : Nat) :
    (s.setFld p r i hi lo x).fore = s.fore := rfl
@[simp] theorem State.setFld_cliff (p : Pg) (r : RegName) (i hi lo x : Nat) :
    (s.setFld p r i hi lo x).cliff = s.cliff := rfl
@[simp] theorem State.setFld_gulk (p : Pg) (r : RegName) (i hi lo x : Nat) :
    (s.setFld p r i hi lo x).gulk = s.gulk := rfl
@[simp] theorem State.setFld_est (p : Pg) (r : RegName) (i hi lo x : Nat) : (s.setFld p r i hi lo x).est = s.est := rfl
@[simp] theorem State.setFld_tw (p : Pg) (r : RegName) (i hi lo x : Nat) : (s.setFld p r i hi lo x).tw = s.tw := rfl
@[simp] theorem State.setFld_jobs (p : Pg) (r : RegName) (i hi lo x : Nat) :
    (s.setFld p r i hi lo x).jobs = s.jobs := rfl
@[simp] theorem State.setFld_sys (p : Pg) (r : RegName) (i hi lo x : Nat) : (s.setFld p r i hi lo x).sys = s.sys := rfl
@[simp] theorem State.setFld_out (p : Pg) (r : RegName) (i hi lo x : Nat) : (s.setFld p r i hi lo x).out = s.out := rfl

@[simp] theorem State.event_code (p : Pg) (b : Nat) : (s.event p b).code = s.code := by simp [State.event]
@[simp] theorem State.event_pending (p : Pg) (b : Nat) : (s.event p b).pending = s.pending := by simp [State.event]
@[simp] theorem State.event_now (p : Pg) (b : Nat) : (s.event p b).now = s.now := by simp [State.event]
@[simp] theorem State.event_freeIx (p : Pg) (b : Nat) : (s.event p b).freeIx = s.freeIx := by simp [State.event]
@[simp] theorem State.event_mem (p : Pg) (b : Nat) : (s.event p b).mem = s.mem := by simp [State.event]
@[simp] theorem State.event_bad (p : Pg) (b : Nat) : (s.event p b).bad = s.bad := by simp [State.event]
@[simp] theorem State.event_harbour (p : Pg) (b : Nat) : (s.event p b).harbour = s.harbour := by simp [State.event]
@[simp] theorem State.event_pfLines (p : Pg) (b : Nat) : (s.event p b).pfLines = s.pfLines := by simp [State.event]
@[simp] theorem State.event_pf (p : Pg) (b : Nat) : (s.event p b).pf = s.pf := by simp [State.event]
@[simp] theorem State.event_dirty (p : Pg) (b : Nat) : (s.event p b).dirty = s.dirty := by simp [State.event]
@[simp] theorem State.event_wc (p : Pg) (b : Nat) : (s.event p b).wc = s.wc := by simp [State.event]
@[simp] theorem State.event_regulators (p : Pg) (b : Nat) :
    (s.event p b).regulators = s.regulators := by simp [State.event]
@[simp] theorem State.event_sems (p : Pg) (b : Nat) : (s.event p b).sems = s.sems := by simp [State.event]
@[simp] theorem State.event_trace (p : Pg) (b : Nat) : (s.event p b).trace = s.trace := by simp [State.event]
@[simp] theorem State.event_tide (p : Pg) (b : Nat) : (s.event p b).tide = s.tide := by simp [State.event]
@[simp] theorem State.event_records (p : Pg) (b : Nat) : (s.event p b).records = s.records := by simp [State.event]
@[simp] theorem State.event_cores (p : Pg) (b : Nat) : (s.event p b).cores = s.cores := by simp [State.event]
@[simp] theorem State.event_lives (p : Pg) (b : Nat) : (s.event p b).lives = s.lives := by simp [State.event]
@[simp] theorem State.event_errs (p : Pg) (b : Nat) : (s.event p b).errs = s.errs := by simp [State.event]
@[simp] theorem State.event_standby (p : Pg) (b : Nat) : (s.event p b).standby = s.standby := by simp [State.event]
@[simp] theorem State.event_fore (p : Pg) (b : Nat) : (s.event p b).fore = s.fore := by simp [State.event]
@[simp] theorem State.event_cliff (p : Pg) (b : Nat) : (s.event p b).cliff = s.cliff := by simp [State.event]
@[simp] theorem State.event_gulk (p : Pg) (b : Nat) : (s.event p b).gulk = s.gulk := by simp [State.event]
@[simp] theorem State.event_est (p : Pg) (b : Nat) : (s.event p b).est = s.est := by simp [State.event]
@[simp] theorem State.event_tw (p : Pg) (b : Nat) : (s.event p b).tw = s.tw := by simp [State.event]
@[simp] theorem State.event_jobs (p : Pg) (b : Nat) : (s.event p b).jobs = s.jobs := by simp [State.event]
@[simp] theorem State.event_sys (p : Pg) (b : Nat) : (s.event p b).sys = s.sys := by simp [State.event]
@[simp] theorem State.event_out (p : Pg) (b : Nat) : (s.event p b).out = s.out := by simp [State.event]

@[simp] theorem State.bump_code (p : Pg) (r : RegName) (i n : Nat) :
    (s.bump p r i n).code = s.code := by unfold State.bump; split <;> rfl
@[simp] theorem State.bump_pending (p : Pg) (r : RegName) (i n : Nat) :
    (s.bump p r i n).pending = s.pending := by unfold State.bump; split <;> rfl
@[simp] theorem State.bump_now (p : Pg) (r : RegName) (i n : Nat) :
    (s.bump p r i n).now = s.now := by unfold State.bump; split <;> rfl
@[simp] theorem State.bump_freeIx (p : Pg) (r : RegName) (i n : Nat) :
    (s.bump p r i n).freeIx = s.freeIx := by unfold State.bump; split <;> rfl
@[simp] theorem State.bump_mem (p : Pg) (r : RegName) (i n : Nat) :
    (s.bump p r i n).mem = s.mem := by unfold State.bump; split <;> rfl
@[simp] theorem State.bump_bad (p : Pg) (r : RegName) (i n : Nat) :
    (s.bump p r i n).bad = s.bad := by unfold State.bump; split <;> rfl
@[simp] theorem State.bump_harbour (p : Pg) (r : RegName) (i n : Nat) :
    (s.bump p r i n).harbour = s.harbour := by unfold State.bump; split <;> rfl
@[simp] theorem State.bump_pfLines (p : Pg) (r : RegName) (i n : Nat) :
    (s.bump p r i n).pfLines = s.pfLines := by unfold State.bump; split <;> rfl
@[simp] theorem State.bump_pf (p : Pg) (r : RegName) (i n : Nat) :
    (s.bump p r i n).pf = s.pf := by unfold State.bump; split <;> rfl
@[simp] theorem State.bump_dirty (p : Pg) (r : RegName) (i n : Nat) :
    (s.bump p r i n).dirty = s.dirty := by unfold State.bump; split <;> rfl
@[simp] theorem State.bump_wc (p : Pg) (r : RegName) (i n : Nat) :
    (s.bump p r i n).wc = s.wc := by unfold State.bump; split <;> rfl
@[simp] theorem State.bump_regulators (p : Pg) (r : RegName) (i n : Nat) :
    (s.bump p r i n).regulators = s.regulators := by unfold State.bump; split <;> rfl
@[simp] theorem State.bump_sems (p : Pg) (r : RegName) (i n : Nat) :
    (s.bump p r i n).sems = s.sems := by unfold State.bump; split <;> rfl
@[simp] theorem State.bump_trace (p : Pg) (r : RegName) (i n : Nat) :
    (s.bump p r i n).trace = s.trace := by unfold State.bump; split <;> rfl
@[simp] theorem State.bump_tide (p : Pg) (r : RegName) (i n : Nat) :
    (s.bump p r i n).tide = s.tide := by unfold State.bump; split <;> rfl
@[simp] theorem State.bump_records (p : Pg) (r : RegName) (i n : Nat) :
    (s.bump p r i n).records = s.records := by unfold State.bump; split <;> rfl
@[simp] theorem State.bump_cores (p : Pg) (r : RegName) (i n : Nat) :
    (s.bump p r i n).cores = s.cores := by unfold State.bump; split <;> rfl
@[simp] theorem State.bump_lives (p : Pg) (r : RegName) (i n : Nat) :
    (s.bump p r i n).lives = s.lives := by unfold State.bump; split <;> rfl
@[simp] theorem State.bump_errs (p : Pg) (r : RegName) (i n : Nat) :
    (s.bump p r i n).errs = s.errs := by unfold State.bump; split <;> rfl
@[simp] theorem State.bump_standby (p : Pg) (r : RegName) (i n : Nat) :
    (s.bump p r i n).standby = s.standby := by unfold State.bump; split <;> rfl
@[simp] theorem State.bump_fore (p : Pg) (r : RegName) (i n : Nat) :
    (s.bump p r i n).fore = s.fore := by unfold State.bump; split <;> rfl
@[simp] theorem State.bump_cliff (p : Pg) (r : RegName) (i n : Nat) :
    (s.bump p r i n).cliff = s.cliff := by unfold State.bump; split <;> rfl
@[simp] theorem State.bump_gulk (p : Pg) (r : RegName) (i n : Nat) :
    (s.bump p r i n).gulk = s.gulk := by unfold State.bump; split <;> rfl
@[simp] theorem State.bump_est (p : Pg) (r : RegName) (i n : Nat) :
    (s.bump p r i n).est = s.est := by unfold State.bump; split <;> rfl
@[simp] theorem State.bump_tw (p : Pg) (r : RegName) (i n : Nat) :
    (s.bump p r i n).tw = s.tw := by unfold State.bump; split <;> rfl
@[simp] theorem State.bump_jobs (p : Pg) (r : RegName) (i n : Nat) :
    (s.bump p r i n).jobs = s.jobs := by unfold State.bump; split <;> rfl
@[simp] theorem State.bump_sys (p : Pg) (r : RegName) (i n : Nat) :
    (s.bump p r i n).sys = s.sys := by unfold State.bump; split <;> rfl
@[simp] theorem State.bump_out (p : Pg) (r : RegName) (i n : Nat) :
    (s.bump p r i n).out = s.out := by unfold State.bump; split <;> rfl

@[simp] theorem State.bumpFree_code (p : Pg) (r : RegName) (i : Nat) :
    (s.bumpFree p r i).code = s.code := by simp [State.bumpFree, State.draw]
@[simp] theorem State.bumpFree_pending (p : Pg) (r : RegName) (i : Nat) :
    (s.bumpFree p r i).pending = s.pending := by simp [State.bumpFree, State.draw]
@[simp] theorem State.bumpFree_now (p : Pg) (r : RegName) (i : Nat) :
    (s.bumpFree p r i).now = s.now := by simp [State.bumpFree, State.draw]
@[simp] theorem State.bumpFree_mem (p : Pg) (r : RegName) (i : Nat) :
    (s.bumpFree p r i).mem = s.mem := by simp [State.bumpFree, State.draw]
@[simp] theorem State.bumpFree_bad (p : Pg) (r : RegName) (i : Nat) :
    (s.bumpFree p r i).bad = s.bad := by simp [State.bumpFree, State.draw]
@[simp] theorem State.bumpFree_harbour (p : Pg) (r : RegName) (i : Nat) :
    (s.bumpFree p r i).harbour = s.harbour := by simp [State.bumpFree, State.draw]
@[simp] theorem State.bumpFree_pfLines (p : Pg) (r : RegName) (i : Nat) :
    (s.bumpFree p r i).pfLines = s.pfLines := by simp [State.bumpFree, State.draw]
@[simp] theorem State.bumpFree_pf (p : Pg) (r : RegName) (i : Nat) :
    (s.bumpFree p r i).pf = s.pf := by simp [State.bumpFree, State.draw]
@[simp] theorem State.bumpFree_dirty (p : Pg) (r : RegName) (i : Nat) :
    (s.bumpFree p r i).dirty = s.dirty := by simp [State.bumpFree, State.draw]
@[simp] theorem State.bumpFree_wc (p : Pg) (r : RegName) (i : Nat) :
    (s.bumpFree p r i).wc = s.wc := by simp [State.bumpFree, State.draw]
@[simp] theorem State.bumpFree_regulators (p : Pg) (r : RegName) (i : Nat) :
    (s.bumpFree p r i).regulators = s.regulators := by simp [State.bumpFree, State.draw]
@[simp] theorem State.bumpFree_sems (p : Pg) (r : RegName) (i : Nat) :
    (s.bumpFree p r i).sems = s.sems := by simp [State.bumpFree, State.draw]
@[simp] theorem State.bumpFree_trace (p : Pg) (r : RegName) (i : Nat) :
    (s.bumpFree p r i).trace = s.trace := by simp [State.bumpFree, State.draw]
@[simp] theorem State.bumpFree_tide (p : Pg) (r : RegName) (i : Nat) :
    (s.bumpFree p r i).tide = s.tide := by simp [State.bumpFree, State.draw]
@[simp] theorem State.bumpFree_records (p : Pg) (r : RegName) (i : Nat) :
    (s.bumpFree p r i).records = s.records := by simp [State.bumpFree, State.draw]
@[simp] theorem State.bumpFree_cores (p : Pg) (r : RegName) (i : Nat) :
    (s.bumpFree p r i).cores = s.cores := by simp [State.bumpFree, State.draw]
@[simp] theorem State.bumpFree_lives (p : Pg) (r : RegName) (i : Nat) :
    (s.bumpFree p r i).lives = s.lives := by simp [State.bumpFree, State.draw]
@[simp] theorem State.bumpFree_errs (p : Pg) (r : RegName) (i : Nat) :
    (s.bumpFree p r i).errs = s.errs := by simp [State.bumpFree, State.draw]
@[simp] theorem State.bumpFree_standby (p : Pg) (r : RegName) (i : Nat) :
    (s.bumpFree p r i).standby = s.standby := by simp [State.bumpFree, State.draw]
@[simp] theorem State.bumpFree_fore (p : Pg) (r : RegName) (i : Nat) :
    (s.bumpFree p r i).fore = s.fore := by simp [State.bumpFree, State.draw]
@[simp] theorem State.bumpFree_cliff (p : Pg) (r : RegName) (i : Nat) :
    (s.bumpFree p r i).cliff = s.cliff := by simp [State.bumpFree, State.draw]
@[simp] theorem State.bumpFree_gulk (p : Pg) (r : RegName) (i : Nat) :
    (s.bumpFree p r i).gulk = s.gulk := by simp [State.bumpFree, State.draw]
@[simp] theorem State.bumpFree_est (p : Pg) (r : RegName) (i : Nat) :
    (s.bumpFree p r i).est = s.est := by simp [State.bumpFree, State.draw]
@[simp] theorem State.bumpFree_tw (p : Pg) (r : RegName) (i : Nat) :
    (s.bumpFree p r i).tw = s.tw := by simp [State.bumpFree, State.draw]
@[simp] theorem State.bumpFree_jobs (p : Pg) (r : RegName) (i : Nat) :
    (s.bumpFree p r i).jobs = s.jobs := by simp [State.bumpFree, State.draw]
@[simp] theorem State.bumpFree_sys (p : Pg) (r : RegName) (i : Nat) :
    (s.bumpFree p r i).sys = s.sys := by simp [State.bumpFree, State.draw]
@[simp] theorem State.bumpFree_out (p : Pg) (r : RegName) (i : Nat) :
    (s.bumpFree p r i).out = s.out := by simp [State.bumpFree, State.draw]

@[simp] theorem State.setCore_code (c : Nat) (k : Core) : (s.setCore c k).code = s.code := rfl
@[simp] theorem State.setCore_pending (c : Nat) (k : Core) : (s.setCore c k).pending = s.pending := rfl
@[simp] theorem State.setCore_now (c : Nat) (k : Core) : (s.setCore c k).now = s.now := rfl
@[simp] theorem State.setCore_freeIx (c : Nat) (k : Core) : (s.setCore c k).freeIx = s.freeIx := rfl
@[simp] theorem State.setCore_regs (c : Nat) (k : Core) : (s.setCore c k).regs = s.regs := rfl
@[simp] theorem State.setCore_mem (c : Nat) (k : Core) : (s.setCore c k).mem = s.mem := rfl
@[simp] theorem State.setCore_bad (c : Nat) (k : Core) : (s.setCore c k).bad = s.bad := rfl
@[simp] theorem State.setCore_harbour (c : Nat) (k : Core) : (s.setCore c k).harbour = s.harbour := rfl
@[simp] theorem State.setCore_pfLines (c : Nat) (k : Core) : (s.setCore c k).pfLines = s.pfLines := rfl
@[simp] theorem State.setCore_pf (c : Nat) (k : Core) : (s.setCore c k).pf = s.pf := rfl
@[simp] theorem State.setCore_dirty (c : Nat) (k : Core) : (s.setCore c k).dirty = s.dirty := rfl
@[simp] theorem State.setCore_wc (c : Nat) (k : Core) : (s.setCore c k).wc = s.wc := rfl
@[simp] theorem State.setCore_regulators (c : Nat) (k : Core) : (s.setCore c k).regulators = s.regulators := rfl
@[simp] theorem State.setCore_sems (c : Nat) (k : Core) : (s.setCore c k).sems = s.sems := rfl
@[simp] theorem State.setCore_trace (c : Nat) (k : Core) : (s.setCore c k).trace = s.trace := rfl
@[simp] theorem State.setCore_tide (c : Nat) (k : Core) : (s.setCore c k).tide = s.tide := rfl
@[simp] theorem State.setCore_records (c : Nat) (k : Core) : (s.setCore c k).records = s.records := rfl
@[simp] theorem State.setCore_lives (c : Nat) (k : Core) : (s.setCore c k).lives = s.lives := rfl
@[simp] theorem State.setCore_errs (c : Nat) (k : Core) : (s.setCore c k).errs = s.errs := rfl
@[simp] theorem State.setCore_standby (c : Nat) (k : Core) : (s.setCore c k).standby = s.standby := rfl
@[simp] theorem State.setCore_fore (c : Nat) (k : Core) : (s.setCore c k).fore = s.fore := rfl
@[simp] theorem State.setCore_cliff (c : Nat) (k : Core) : (s.setCore c k).cliff = s.cliff := rfl
@[simp] theorem State.setCore_gulk (c : Nat) (k : Core) : (s.setCore c k).gulk = s.gulk := rfl
@[simp] theorem State.setCore_est (c : Nat) (k : Core) : (s.setCore c k).est = s.est := rfl
@[simp] theorem State.setCore_tw (c : Nat) (k : Core) : (s.setCore c k).tw = s.tw := rfl
@[simp] theorem State.setCore_jobs (c : Nat) (k : Core) : (s.setCore c k).jobs = s.jobs := rfl
@[simp] theorem State.setCore_sys (c : Nat) (k : Core) : (s.setCore c k).sys = s.sys := rfl
@[simp] theorem State.setCore_out (c : Nat) (k : Core) : (s.setCore c k).out = s.out := rfl

@[simp] theorem State.setQueue_code (c q : Nat) (x : Queue) : (s.setQueue c q x).code = s.code := rfl
@[simp] theorem State.setQueue_pending (c q : Nat) (x : Queue) : (s.setQueue c q x).pending = s.pending := rfl
@[simp] theorem State.setQueue_now (c q : Nat) (x : Queue) : (s.setQueue c q x).now = s.now := rfl
@[simp] theorem State.setQueue_freeIx (c q : Nat) (x : Queue) : (s.setQueue c q x).freeIx = s.freeIx := rfl
@[simp] theorem State.setQueue_regs (c q : Nat) (x : Queue) : (s.setQueue c q x).regs = s.regs := rfl
@[simp] theorem State.setQueue_mem (c q : Nat) (x : Queue) : (s.setQueue c q x).mem = s.mem := rfl
@[simp] theorem State.setQueue_bad (c q : Nat) (x : Queue) : (s.setQueue c q x).bad = s.bad := rfl
@[simp] theorem State.setQueue_harbour (c q : Nat) (x : Queue) : (s.setQueue c q x).harbour = s.harbour := rfl
@[simp] theorem State.setQueue_pfLines (c q : Nat) (x : Queue) : (s.setQueue c q x).pfLines = s.pfLines := rfl
@[simp] theorem State.setQueue_pf (c q : Nat) (x : Queue) : (s.setQueue c q x).pf = s.pf := rfl
@[simp] theorem State.setQueue_dirty (c q : Nat) (x : Queue) : (s.setQueue c q x).dirty = s.dirty := rfl
@[simp] theorem State.setQueue_wc (c q : Nat) (x : Queue) : (s.setQueue c q x).wc = s.wc := rfl
@[simp] theorem State.setQueue_regulators (c q : Nat) (x : Queue) : (s.setQueue c q x).regulators = s.regulators := rfl
@[simp] theorem State.setQueue_sems (c q : Nat) (x : Queue) : (s.setQueue c q x).sems = s.sems := rfl
@[simp] theorem State.setQueue_trace (c q : Nat) (x : Queue) : (s.setQueue c q x).trace = s.trace := rfl
@[simp] theorem State.setQueue_tide (c q : Nat) (x : Queue) : (s.setQueue c q x).tide = s.tide := rfl
@[simp] theorem State.setQueue_records (c q : Nat) (x : Queue) : (s.setQueue c q x).records = s.records := rfl
@[simp] theorem State.setQueue_lives (c q : Nat) (x : Queue) : (s.setQueue c q x).lives = s.lives := rfl
@[simp] theorem State.setQueue_errs (c q : Nat) (x : Queue) : (s.setQueue c q x).errs = s.errs := rfl
@[simp] theorem State.setQueue_standby (c q : Nat) (x : Queue) : (s.setQueue c q x).standby = s.standby := rfl
@[simp] theorem State.setQueue_fore (c q : Nat) (x : Queue) : (s.setQueue c q x).fore = s.fore := rfl
@[simp] theorem State.setQueue_cliff (c q : Nat) (x : Queue) : (s.setQueue c q x).cliff = s.cliff := rfl
@[simp] theorem State.setQueue_gulk (c q : Nat) (x : Queue) : (s.setQueue c q x).gulk = s.gulk := rfl
@[simp] theorem State.setQueue_est (c q : Nat) (x : Queue) : (s.setQueue c q x).est = s.est := rfl
@[simp] theorem State.setQueue_tw (c q : Nat) (x : Queue) : (s.setQueue c q x).tw = s.tw := rfl
@[simp] theorem State.setQueue_jobs (c q : Nat) (x : Queue) : (s.setQueue c q x).jobs = s.jobs := rfl
@[simp] theorem State.setQueue_sys (c q : Nat) (x : Queue) : (s.setQueue c q x).sys = s.sys := rfl
@[simp] theorem State.setQueue_out (c q : Nat) (x : Queue) : (s.setQueue c q x).out = s.out := rfl

@[simp] theorem State.setSem_code (scope : Bool) (c i : Nat) (w : Word) :
    (s.setSem scope c i w).code = s.code := by unfold State.setSem; split <;> rfl
@[simp] theorem State.setSem_pending (scope : Bool) (c i : Nat) (w : Word) :
    (s.setSem scope c i w).pending = s.pending := by unfold State.setSem; split <;> rfl
@[simp] theorem State.setSem_now (scope : Bool) (c i : Nat) (w : Word) :
    (s.setSem scope c i w).now = s.now := by unfold State.setSem; split <;> rfl
@[simp] theorem State.setSem_freeIx (scope : Bool) (c i : Nat) (w : Word) :
    (s.setSem scope c i w).freeIx = s.freeIx := by unfold State.setSem; split <;> rfl
@[simp] theorem State.setSem_regs (scope : Bool) (c i : Nat) (w : Word) :
    (s.setSem scope c i w).regs = s.regs := by unfold State.setSem; split <;> rfl
@[simp] theorem State.setSem_mem (scope : Bool) (c i : Nat) (w : Word) :
    (s.setSem scope c i w).mem = s.mem := by unfold State.setSem; split <;> rfl
@[simp] theorem State.setSem_bad (scope : Bool) (c i : Nat) (w : Word) :
    (s.setSem scope c i w).bad = s.bad := by unfold State.setSem; split <;> rfl
@[simp] theorem State.setSem_harbour (scope : Bool) (c i : Nat) (w : Word) :
    (s.setSem scope c i w).harbour = s.harbour := by unfold State.setSem; split <;> rfl
@[simp] theorem State.setSem_pfLines (scope : Bool) (c i : Nat) (w : Word) :
    (s.setSem scope c i w).pfLines = s.pfLines := by unfold State.setSem; split <;> rfl
@[simp] theorem State.setSem_pf (scope : Bool) (c i : Nat) (w : Word) :
    (s.setSem scope c i w).pf = s.pf := by unfold State.setSem; split <;> rfl
@[simp] theorem State.setSem_dirty (scope : Bool) (c i : Nat) (w : Word) :
    (s.setSem scope c i w).dirty = s.dirty := by unfold State.setSem; split <;> rfl
@[simp] theorem State.setSem_wc (scope : Bool) (c i : Nat) (w : Word) :
    (s.setSem scope c i w).wc = s.wc := by unfold State.setSem; split <;> rfl
@[simp] theorem State.setSem_regulators (scope : Bool) (c i : Nat) (w : Word) :
    (s.setSem scope c i w).regulators = s.regulators := by unfold State.setSem; split <;> rfl
@[simp] theorem State.setSem_trace (scope : Bool) (c i : Nat) (w : Word) :
    (s.setSem scope c i w).trace = s.trace := by unfold State.setSem; split <;> rfl
@[simp] theorem State.setSem_tide (scope : Bool) (c i : Nat) (w : Word) :
    (s.setSem scope c i w).tide = s.tide := by unfold State.setSem; split <;> rfl
@[simp] theorem State.setSem_records (scope : Bool) (c i : Nat) (w : Word) :
    (s.setSem scope c i w).records = s.records := by unfold State.setSem; split <;> rfl
@[simp] theorem State.setSem_lives (scope : Bool) (c i : Nat) (w : Word) :
    (s.setSem scope c i w).lives = s.lives := by unfold State.setSem; split <;> rfl
@[simp] theorem State.setSem_errs (scope : Bool) (c i : Nat) (w : Word) :
    (s.setSem scope c i w).errs = s.errs := by unfold State.setSem; split <;> rfl
@[simp] theorem State.setSem_standby (scope : Bool) (c i : Nat) (w : Word) :
    (s.setSem scope c i w).standby = s.standby := by unfold State.setSem; split <;> rfl
@[simp] theorem State.setSem_fore (scope : Bool) (c i : Nat) (w : Word) :
    (s.setSem scope c i w).fore = s.fore := by unfold State.setSem; split <;> rfl
@[simp] theorem State.setSem_cliff (scope : Bool) (c i : Nat) (w : Word) :
    (s.setSem scope c i w).cliff = s.cliff := by unfold State.setSem; split <;> rfl
@[simp] theorem State.setSem_gulk (scope : Bool) (c i : Nat) (w : Word) :
    (s.setSem scope c i w).gulk = s.gulk := by unfold State.setSem; split <;> rfl
@[simp] theorem State.setSem_est (scope : Bool) (c i : Nat) (w : Word) :
    (s.setSem scope c i w).est = s.est := by unfold State.setSem; split <;> rfl
@[simp] theorem State.setSem_tw (scope : Bool) (c i : Nat) (w : Word) :
    (s.setSem scope c i w).tw = s.tw := by unfold State.setSem; split <;> rfl
@[simp] theorem State.setSem_jobs (scope : Bool) (c i : Nat) (w : Word) :
    (s.setSem scope c i w).jobs = s.jobs := by unfold State.setSem; split <;> rfl
@[simp] theorem State.setSem_sys (scope : Bool) (c i : Nat) (w : Word) :
    (s.setSem scope c i w).sys = s.sys := by unfold State.setSem; split <;> rfl
@[simp] theorem State.setSem_out (scope : Bool) (c i : Nat) (w : Word) :
    (s.setSem scope c i w).out = s.out := by unfold State.setSem; split <;> rfl

@[simp] theorem State.poke_code (a : Nat) (bs : List Byte) : (s.poke a bs).code = s.code := rfl
@[simp] theorem State.poke_pending (a : Nat) (bs : List Byte) : (s.poke a bs).pending = s.pending := rfl
@[simp] theorem State.poke_now (a : Nat) (bs : List Byte) : (s.poke a bs).now = s.now := rfl
@[simp] theorem State.poke_freeIx (a : Nat) (bs : List Byte) : (s.poke a bs).freeIx = s.freeIx := rfl
@[simp] theorem State.poke_regs (a : Nat) (bs : List Byte) : (s.poke a bs).regs = s.regs := rfl
@[simp] theorem State.poke_harbour (a : Nat) (bs : List Byte) : (s.poke a bs).harbour = s.harbour := rfl
@[simp] theorem State.poke_pfLines (a : Nat) (bs : List Byte) : (s.poke a bs).pfLines = s.pfLines := rfl
@[simp] theorem State.poke_pf (a : Nat) (bs : List Byte) : (s.poke a bs).pf = s.pf := rfl
@[simp] theorem State.poke_dirty (a : Nat) (bs : List Byte) : (s.poke a bs).dirty = s.dirty := rfl
@[simp] theorem State.poke_wc (a : Nat) (bs : List Byte) : (s.poke a bs).wc = s.wc := rfl
@[simp] theorem State.poke_regulators (a : Nat) (bs : List Byte) : (s.poke a bs).regulators = s.regulators := rfl
@[simp] theorem State.poke_sems (a : Nat) (bs : List Byte) : (s.poke a bs).sems = s.sems := rfl
@[simp] theorem State.poke_trace (a : Nat) (bs : List Byte) : (s.poke a bs).trace = s.trace := rfl
@[simp] theorem State.poke_tide (a : Nat) (bs : List Byte) : (s.poke a bs).tide = s.tide := rfl
@[simp] theorem State.poke_records (a : Nat) (bs : List Byte) : (s.poke a bs).records = s.records := rfl
@[simp] theorem State.poke_cores (a : Nat) (bs : List Byte) : (s.poke a bs).cores = s.cores := rfl
@[simp] theorem State.poke_lives (a : Nat) (bs : List Byte) : (s.poke a bs).lives = s.lives := rfl
@[simp] theorem State.poke_errs (a : Nat) (bs : List Byte) : (s.poke a bs).errs = s.errs := rfl
@[simp] theorem State.poke_standby (a : Nat) (bs : List Byte) : (s.poke a bs).standby = s.standby := rfl
@[simp] theorem State.poke_fore (a : Nat) (bs : List Byte) : (s.poke a bs).fore = s.fore := rfl
@[simp] theorem State.poke_cliff (a : Nat) (bs : List Byte) : (s.poke a bs).cliff = s.cliff := rfl
@[simp] theorem State.poke_gulk (a : Nat) (bs : List Byte) : (s.poke a bs).gulk = s.gulk := rfl
@[simp] theorem State.poke_est (a : Nat) (bs : List Byte) : (s.poke a bs).est = s.est := rfl
@[simp] theorem State.poke_tw (a : Nat) (bs : List Byte) : (s.poke a bs).tw = s.tw := rfl
@[simp] theorem State.poke_jobs (a : Nat) (bs : List Byte) : (s.poke a bs).jobs = s.jobs := rfl
@[simp] theorem State.poke_sys (a : Nat) (bs : List Byte) : (s.poke a bs).sys = s.sys := rfl
@[simp] theorem State.poke_out (a : Nat) (bs : List Byte) : (s.poke a bs).out = s.out := rfl

@[simp] theorem State.store_code (a : Nat) (bs : List Byte) : (s.store a bs).code = s.code := by rw [State.store_behind]
@[simp] theorem State.store_pending (a : Nat) (bs : List Byte) :
    (s.store a bs).pending = s.pending := by rw [State.store_behind]
@[simp] theorem State.store_now (a : Nat) (bs : List Byte) : (s.store a bs).now = s.now := by rw [State.store_behind]
@[simp] theorem State.store_freeIx (a : Nat) (bs : List Byte) :
    (s.store a bs).freeIx = s.freeIx := by rw [State.store_behind]
@[simp] theorem State.store_pf (a : Nat) (bs : List Byte) : (s.store a bs).pf = s.pf := by rw [State.store_behind]
@[simp] theorem State.store_regulators (a : Nat) (bs : List Byte) :
    (s.store a bs).regulators = s.regulators := by rw [State.store_behind]
@[simp] theorem State.store_sems (a : Nat) (bs : List Byte) : (s.store a bs).sems = s.sems := by rw [State.store_behind]
@[simp] theorem State.store_trace (a : Nat) (bs : List Byte) :
    (s.store a bs).trace = s.trace := by rw [State.store_behind]
@[simp] theorem State.store_tide (a : Nat) (bs : List Byte) : (s.store a bs).tide = s.tide := by rw [State.store_behind]
@[simp] theorem State.store_records (a : Nat) (bs : List Byte) :
    (s.store a bs).records = s.records := by rw [State.store_behind]
@[simp] theorem State.store_cores (a : Nat) (bs : List Byte) :
    (s.store a bs).cores = s.cores := by rw [State.store_behind]
@[simp] theorem State.store_lives (a : Nat) (bs : List Byte) :
    (s.store a bs).lives = s.lives := by rw [State.store_behind]
@[simp] theorem State.store_errs (a : Nat) (bs : List Byte) : (s.store a bs).errs = s.errs := by rw [State.store_behind]
@[simp] theorem State.store_standby (a : Nat) (bs : List Byte) :
    (s.store a bs).standby = s.standby := by rw [State.store_behind]
@[simp] theorem State.store_fore (a : Nat) (bs : List Byte) : (s.store a bs).fore = s.fore := by rw [State.store_behind]
@[simp] theorem State.store_cliff (a : Nat) (bs : List Byte) :
    (s.store a bs).cliff = s.cliff := by rw [State.store_behind]
@[simp] theorem State.store_gulk (a : Nat) (bs : List Byte) : (s.store a bs).gulk = s.gulk := by rw [State.store_behind]
@[simp] theorem State.store_est (a : Nat) (bs : List Byte) : (s.store a bs).est = s.est := by rw [State.store_behind]
@[simp] theorem State.store_tw (a : Nat) (bs : List Byte) : (s.store a bs).tw = s.tw := by rw [State.store_behind]
@[simp] theorem State.store_jobs (a : Nat) (bs : List Byte) : (s.store a bs).jobs = s.jobs := by rw [State.store_behind]
@[simp] theorem State.store_sys (a : Nat) (bs : List Byte) : (s.store a bs).sys = s.sys := by rw [State.store_behind]
@[simp] theorem State.store_out (a : Nat) (bs : List Byte) : (s.store a bs).out = s.out := by rw [State.store_behind]

@[simp] theorem State.scramble_code (a n : Nat) : (s.scramble a n).code = s.code := rfl
@[simp] theorem State.scramble_pending (a n : Nat) : (s.scramble a n).pending = s.pending := rfl
@[simp] theorem State.scramble_now (a n : Nat) : (s.scramble a n).now = s.now := rfl
@[simp] theorem State.scramble_regs (a n : Nat) : (s.scramble a n).regs = s.regs := rfl
@[simp] theorem State.scramble_harbour (a n : Nat) : (s.scramble a n).harbour = s.harbour := rfl
@[simp] theorem State.scramble_pfLines (a n : Nat) : (s.scramble a n).pfLines = s.pfLines := rfl
@[simp] theorem State.scramble_pf (a n : Nat) : (s.scramble a n).pf = s.pf := rfl
@[simp] theorem State.scramble_dirty (a n : Nat) : (s.scramble a n).dirty = s.dirty := rfl
@[simp] theorem State.scramble_wc (a n : Nat) : (s.scramble a n).wc = s.wc := rfl
@[simp] theorem State.scramble_regulators (a n : Nat) : (s.scramble a n).regulators = s.regulators := rfl
@[simp] theorem State.scramble_sems (a n : Nat) : (s.scramble a n).sems = s.sems := rfl
@[simp] theorem State.scramble_trace (a n : Nat) : (s.scramble a n).trace = s.trace := rfl
@[simp] theorem State.scramble_tide (a n : Nat) : (s.scramble a n).tide = s.tide := rfl
@[simp] theorem State.scramble_records (a n : Nat) : (s.scramble a n).records = s.records := rfl
@[simp] theorem State.scramble_cores (a n : Nat) : (s.scramble a n).cores = s.cores := rfl
@[simp] theorem State.scramble_lives (a n : Nat) : (s.scramble a n).lives = s.lives := rfl
@[simp] theorem State.scramble_errs (a n : Nat) : (s.scramble a n).errs = s.errs := rfl
@[simp] theorem State.scramble_standby (a n : Nat) : (s.scramble a n).standby = s.standby := rfl
@[simp] theorem State.scramble_fore (a n : Nat) : (s.scramble a n).fore = s.fore := rfl
@[simp] theorem State.scramble_cliff (a n : Nat) : (s.scramble a n).cliff = s.cliff := rfl
@[simp] theorem State.scramble_gulk (a n : Nat) : (s.scramble a n).gulk = s.gulk := rfl
@[simp] theorem State.scramble_est (a n : Nat) : (s.scramble a n).est = s.est := rfl
@[simp] theorem State.scramble_tw (a n : Nat) : (s.scramble a n).tw = s.tw := rfl
@[simp] theorem State.scramble_jobs (a n : Nat) : (s.scramble a n).jobs = s.jobs := rfl
@[simp] theorem State.scramble_sys (a n : Nat) : (s.scramble a n).sys = s.sys := rfl
@[simp] theorem State.scramble_out (a n : Nat) : (s.scramble a n).out = s.out := rfl

@[simp] theorem State.complete_code (id opcode : Nat) (st : Status) (wm : Nat) (t : Word) (d : Bool) (k x : Nat) :
    (s.complete id opcode st wm t d k x).code = s.code := rfl
@[simp] theorem State.complete_pending (id opcode : Nat) (st : Status) (wm : Nat) (t : Word) (d : Bool) (k x : Nat) :
    (s.complete id opcode st wm t d k x).pending = s.pending := rfl
@[simp] theorem State.complete_now (id opcode : Nat) (st : Status) (wm : Nat) (t : Word) (d : Bool) (k x : Nat) :
    (s.complete id opcode st wm t d k x).now = s.now := rfl
@[simp] theorem State.complete_freeIx (id opcode : Nat) (st : Status) (wm : Nat) (t : Word) (d : Bool) (k x : Nat) :
    (s.complete id opcode st wm t d k x).freeIx = s.freeIx := rfl
@[simp] theorem State.complete_regs (id opcode : Nat) (st : Status) (wm : Nat) (t : Word) (d : Bool) (k x : Nat) :
    (s.complete id opcode st wm t d k x).regs = s.regs := rfl
@[simp] theorem State.complete_mem (id opcode : Nat) (st : Status) (wm : Nat) (t : Word) (d : Bool) (k x : Nat) :
    (s.complete id opcode st wm t d k x).mem = s.mem := rfl
@[simp] theorem State.complete_bad (id opcode : Nat) (st : Status) (wm : Nat) (t : Word) (d : Bool) (k x : Nat) :
    (s.complete id opcode st wm t d k x).bad = s.bad := rfl
@[simp] theorem State.complete_harbour (id opcode : Nat) (st : Status) (wm : Nat) (t : Word) (d : Bool) (k x : Nat) :
    (s.complete id opcode st wm t d k x).harbour = s.harbour := rfl
@[simp] theorem State.complete_pfLines (id opcode : Nat) (st : Status) (wm : Nat) (t : Word) (d : Bool) (k x : Nat) :
    (s.complete id opcode st wm t d k x).pfLines = s.pfLines := rfl
@[simp] theorem State.complete_pf (id opcode : Nat) (st : Status) (wm : Nat) (t : Word) (d : Bool) (k x : Nat) :
    (s.complete id opcode st wm t d k x).pf = s.pf := rfl
@[simp] theorem State.complete_dirty (id opcode : Nat) (st : Status) (wm : Nat) (t : Word) (d : Bool) (k x : Nat) :
    (s.complete id opcode st wm t d k x).dirty = s.dirty := rfl
@[simp] theorem State.complete_wc (id opcode : Nat) (st : Status) (wm : Nat) (t : Word) (d : Bool) (k x : Nat) :
    (s.complete id opcode st wm t d k x).wc = s.wc := rfl
@[simp] theorem State.complete_regulators (id opcode : Nat) (st : Status) (wm : Nat) (t : Word) (d : Bool) (k x : Nat) :
    (s.complete id opcode st wm t d k x).regulators = s.regulators := rfl
@[simp] theorem State.complete_sems (id opcode : Nat) (st : Status) (wm : Nat) (t : Word) (d : Bool) (k x : Nat) :
    (s.complete id opcode st wm t d k x).sems = s.sems := rfl
@[simp] theorem State.complete_trace (id opcode : Nat) (st : Status) (wm : Nat) (t : Word) (d : Bool) (k x : Nat) :
    (s.complete id opcode st wm t d k x).trace = s.trace := rfl
@[simp] theorem State.complete_tide (id opcode : Nat) (st : Status) (wm : Nat) (t : Word) (d : Bool) (k x : Nat) :
    (s.complete id opcode st wm t d k x).tide = s.tide := rfl
@[simp] theorem State.complete_cores (id opcode : Nat) (st : Status) (wm : Nat) (t : Word) (d : Bool) (k x : Nat) :
    (s.complete id opcode st wm t d k x).cores = s.cores := rfl
@[simp] theorem State.complete_lives (id opcode : Nat) (st : Status) (wm : Nat) (t : Word) (d : Bool) (k x : Nat) :
    (s.complete id opcode st wm t d k x).lives = s.lives := rfl
@[simp] theorem State.complete_errs (id opcode : Nat) (st : Status) (wm : Nat) (t : Word) (d : Bool) (k x : Nat) :
    (s.complete id opcode st wm t d k x).errs = s.errs := rfl
@[simp] theorem State.complete_standby (id opcode : Nat) (st : Status) (wm : Nat) (t : Word) (d : Bool) (k x : Nat) :
    (s.complete id opcode st wm t d k x).standby = s.standby := rfl
@[simp] theorem State.complete_fore (id opcode : Nat) (st : Status) (wm : Nat) (t : Word) (d : Bool) (k x : Nat) :
    (s.complete id opcode st wm t d k x).fore = s.fore := rfl
@[simp] theorem State.complete_cliff (id opcode : Nat) (st : Status) (wm : Nat) (t : Word) (d : Bool) (k x : Nat) :
    (s.complete id opcode st wm t d k x).cliff = s.cliff := rfl
@[simp] theorem State.complete_gulk (id opcode : Nat) (st : Status) (wm : Nat) (t : Word) (d : Bool) (k x : Nat) :
    (s.complete id opcode st wm t d k x).gulk = s.gulk := rfl
@[simp] theorem State.complete_est (id opcode : Nat) (st : Status) (wm : Nat) (t : Word) (d : Bool) (k x : Nat) :
    (s.complete id opcode st wm t d k x).est = s.est := rfl
@[simp] theorem State.complete_tw (id opcode : Nat) (st : Status) (wm : Nat) (t : Word) (d : Bool) (k x : Nat) :
    (s.complete id opcode st wm t d k x).tw = s.tw := rfl
@[simp] theorem State.complete_jobs (id opcode : Nat) (st : Status) (wm : Nat) (t : Word) (d : Bool) (k x : Nat) :
    (s.complete id opcode st wm t d k x).jobs = s.jobs := rfl
@[simp] theorem State.complete_sys (id opcode : Nat) (st : Status) (wm : Nat) (t : Word) (d : Bool) (k x : Nat) :
    (s.complete id opcode st wm t d k x).sys = s.sys := rfl
@[simp] theorem State.complete_out (id opcode : Nat) (st : Status) (wm : Nat) (t : Word) (d : Bool) (k x : Nat) :
    (s.complete id opcode st wm t d k x).out = s.out := rfl

@[simp] theorem State.emit_code (o : Out) : (s.emit o).code = s.code := rfl
@[simp] theorem State.emit_pending (o : Out) : (s.emit o).pending = s.pending := rfl
@[simp] theorem State.emit_now (o : Out) : (s.emit o).now = s.now := rfl
@[simp] theorem State.emit_freeIx (o : Out) : (s.emit o).freeIx = s.freeIx := rfl
@[simp] theorem State.emit_regs (o : Out) : (s.emit o).regs = s.regs := rfl
@[simp] theorem State.emit_mem (o : Out) : (s.emit o).mem = s.mem := rfl
@[simp] theorem State.emit_bad (o : Out) : (s.emit o).bad = s.bad := rfl
@[simp] theorem State.emit_harbour (o : Out) : (s.emit o).harbour = s.harbour := rfl
@[simp] theorem State.emit_pfLines (o : Out) : (s.emit o).pfLines = s.pfLines := rfl
@[simp] theorem State.emit_pf (o : Out) : (s.emit o).pf = s.pf := rfl
@[simp] theorem State.emit_dirty (o : Out) : (s.emit o).dirty = s.dirty := rfl
@[simp] theorem State.emit_wc (o : Out) : (s.emit o).wc = s.wc := rfl
@[simp] theorem State.emit_regulators (o : Out) : (s.emit o).regulators = s.regulators := rfl
@[simp] theorem State.emit_sems (o : Out) : (s.emit o).sems = s.sems := rfl
@[simp] theorem State.emit_trace (o : Out) : (s.emit o).trace = s.trace := rfl
@[simp] theorem State.emit_tide (o : Out) : (s.emit o).tide = s.tide := rfl
@[simp] theorem State.emit_records (o : Out) : (s.emit o).records = s.records := rfl
@[simp] theorem State.emit_cores (o : Out) : (s.emit o).cores = s.cores := rfl
@[simp] theorem State.emit_lives (o : Out) : (s.emit o).lives = s.lives := rfl
@[simp] theorem State.emit_errs (o : Out) : (s.emit o).errs = s.errs := rfl
@[simp] theorem State.emit_standby (o : Out) : (s.emit o).standby = s.standby := rfl
@[simp] theorem State.emit_fore (o : Out) : (s.emit o).fore = s.fore := rfl
@[simp] theorem State.emit_cliff (o : Out) : (s.emit o).cliff = s.cliff := rfl
@[simp] theorem State.emit_gulk (o : Out) : (s.emit o).gulk = s.gulk := rfl
@[simp] theorem State.emit_est (o : Out) : (s.emit o).est = s.est := rfl
@[simp] theorem State.emit_tw (o : Out) : (s.emit o).tw = s.tw := rfl
@[simp] theorem State.emit_jobs (o : Out) : (s.emit o).jobs = s.jobs := rfl
@[simp] theorem State.emit_sys (o : Out) : (s.emit o).sys = s.sys := rfl

@[simp] theorem State.setLive_code (p : Pg) (l : Live) : (s.setLive p l).code = s.code := rfl
@[simp] theorem State.setLive_pending (p : Pg) (l : Live) : (s.setLive p l).pending = s.pending := rfl
@[simp] theorem State.setLive_now (p : Pg) (l : Live) : (s.setLive p l).now = s.now := rfl
@[simp] theorem State.setLive_freeIx (p : Pg) (l : Live) : (s.setLive p l).freeIx = s.freeIx := rfl
@[simp] theorem State.setLive_regs (p : Pg) (l : Live) : (s.setLive p l).regs = s.regs := rfl
@[simp] theorem State.setLive_mem (p : Pg) (l : Live) : (s.setLive p l).mem = s.mem := rfl
@[simp] theorem State.setLive_bad (p : Pg) (l : Live) : (s.setLive p l).bad = s.bad := rfl
@[simp] theorem State.setLive_harbour (p : Pg) (l : Live) : (s.setLive p l).harbour = s.harbour := rfl
@[simp] theorem State.setLive_pfLines (p : Pg) (l : Live) : (s.setLive p l).pfLines = s.pfLines := rfl
@[simp] theorem State.setLive_pf (p : Pg) (l : Live) : (s.setLive p l).pf = s.pf := rfl
@[simp] theorem State.setLive_dirty (p : Pg) (l : Live) : (s.setLive p l).dirty = s.dirty := rfl
@[simp] theorem State.setLive_wc (p : Pg) (l : Live) : (s.setLive p l).wc = s.wc := rfl
@[simp] theorem State.setLive_regulators (p : Pg) (l : Live) : (s.setLive p l).regulators = s.regulators := rfl
@[simp] theorem State.setLive_sems (p : Pg) (l : Live) : (s.setLive p l).sems = s.sems := rfl
@[simp] theorem State.setLive_trace (p : Pg) (l : Live) : (s.setLive p l).trace = s.trace := rfl
@[simp] theorem State.setLive_tide (p : Pg) (l : Live) : (s.setLive p l).tide = s.tide := rfl
@[simp] theorem State.setLive_records (p : Pg) (l : Live) : (s.setLive p l).records = s.records := rfl
@[simp] theorem State.setLive_cores (p : Pg) (l : Live) : (s.setLive p l).cores = s.cores := rfl
@[simp] theorem State.setLive_errs (p : Pg) (l : Live) : (s.setLive p l).errs = s.errs := rfl
@[simp] theorem State.setLive_standby (p : Pg) (l : Live) : (s.setLive p l).standby = s.standby := rfl
@[simp] theorem State.setLive_fore (p : Pg) (l : Live) : (s.setLive p l).fore = s.fore := rfl
@[simp] theorem State.setLive_cliff (p : Pg) (l : Live) : (s.setLive p l).cliff = s.cliff := rfl
@[simp] theorem State.setLive_gulk (p : Pg) (l : Live) : (s.setLive p l).gulk = s.gulk := rfl
@[simp] theorem State.setLive_est (p : Pg) (l : Live) : (s.setLive p l).est = s.est := rfl
@[simp] theorem State.setLive_tw (p : Pg) (l : Live) : (s.setLive p l).tw = s.tw := rfl
@[simp] theorem State.setLive_jobs (p : Pg) (l : Live) : (s.setLive p l).jobs = s.jobs := rfl
@[simp] theorem State.setLive_sys (p : Pg) (l : Live) : (s.setLive p l).sys = s.sys := rfl
@[simp] theorem State.setLive_out (p : Pg) (l : Live) : (s.setLive p l).out = s.out := rfl

@[simp] theorem State.setPc_code (c : Fin 36) (q pc : Nat) : (s.setPc c q pc).code = s.code := rfl
@[simp] theorem State.setPc_pending (c : Fin 36) (q pc : Nat) : (s.setPc c q pc).pending = s.pending := rfl
@[simp] theorem State.setPc_now (c : Fin 36) (q pc : Nat) : (s.setPc c q pc).now = s.now := rfl
@[simp] theorem State.setPc_freeIx (c : Fin 36) (q pc : Nat) : (s.setPc c q pc).freeIx = s.freeIx := rfl
@[simp] theorem State.setPc_mem (c : Fin 36) (q pc : Nat) : (s.setPc c q pc).mem = s.mem := rfl
@[simp] theorem State.setPc_bad (c : Fin 36) (q pc : Nat) : (s.setPc c q pc).bad = s.bad := rfl
@[simp] theorem State.setPc_harbour (c : Fin 36) (q pc : Nat) : (s.setPc c q pc).harbour = s.harbour := rfl
@[simp] theorem State.setPc_pfLines (c : Fin 36) (q pc : Nat) : (s.setPc c q pc).pfLines = s.pfLines := rfl
@[simp] theorem State.setPc_pf (c : Fin 36) (q pc : Nat) : (s.setPc c q pc).pf = s.pf := rfl
@[simp] theorem State.setPc_dirty (c : Fin 36) (q pc : Nat) : (s.setPc c q pc).dirty = s.dirty := rfl
@[simp] theorem State.setPc_wc (c : Fin 36) (q pc : Nat) : (s.setPc c q pc).wc = s.wc := rfl
@[simp] theorem State.setPc_regulators (c : Fin 36) (q pc : Nat) : (s.setPc c q pc).regulators = s.regulators := rfl
@[simp] theorem State.setPc_sems (c : Fin 36) (q pc : Nat) : (s.setPc c q pc).sems = s.sems := rfl
@[simp] theorem State.setPc_trace (c : Fin 36) (q pc : Nat) : (s.setPc c q pc).trace = s.trace := rfl
@[simp] theorem State.setPc_tide (c : Fin 36) (q pc : Nat) : (s.setPc c q pc).tide = s.tide := rfl
@[simp] theorem State.setPc_records (c : Fin 36) (q pc : Nat) : (s.setPc c q pc).records = s.records := rfl
@[simp] theorem State.setPc_cores (c : Fin 36) (q pc : Nat) : (s.setPc c q pc).cores = s.cores := rfl
@[simp] theorem State.setPc_lives (c : Fin 36) (q pc : Nat) : (s.setPc c q pc).lives = s.lives := rfl
@[simp] theorem State.setPc_errs (c : Fin 36) (q pc : Nat) : (s.setPc c q pc).errs = s.errs := rfl
@[simp] theorem State.setPc_standby (c : Fin 36) (q pc : Nat) : (s.setPc c q pc).standby = s.standby := rfl
@[simp] theorem State.setPc_fore (c : Fin 36) (q pc : Nat) : (s.setPc c q pc).fore = s.fore := rfl
@[simp] theorem State.setPc_cliff (c : Fin 36) (q pc : Nat) : (s.setPc c q pc).cliff = s.cliff := rfl
@[simp] theorem State.setPc_gulk (c : Fin 36) (q pc : Nat) : (s.setPc c q pc).gulk = s.gulk := rfl
@[simp] theorem State.setPc_est (c : Fin 36) (q pc : Nat) : (s.setPc c q pc).est = s.est := rfl
@[simp] theorem State.setPc_tw (c : Fin 36) (q pc : Nat) : (s.setPc c q pc).tw = s.tw := rfl
@[simp] theorem State.setPc_jobs (c : Fin 36) (q pc : Nat) : (s.setPc c q pc).jobs = s.jobs := rfl
@[simp] theorem State.setPc_sys (c : Fin 36) (q pc : Nat) : (s.setPc c q pc).sys = s.sys := rfl
@[simp] theorem State.setPc_out (c : Fin 36) (q pc : Nat) : (s.setPc c q pc).out = s.out := rfl

@[simp] theorem State.setSc_code (c : Fin 36) (q i : Nat) (v : Word) : (s.setSc c q i v).code = s.code := rfl
@[simp] theorem State.setSc_pending (c : Fin 36) (q i : Nat) (v : Word) : (s.setSc c q i v).pending = s.pending := rfl
@[simp] theorem State.setSc_now (c : Fin 36) (q i : Nat) (v : Word) : (s.setSc c q i v).now = s.now := rfl
@[simp] theorem State.setSc_freeIx (c : Fin 36) (q i : Nat) (v : Word) : (s.setSc c q i v).freeIx = s.freeIx := rfl
@[simp] theorem State.setSc_mem (c : Fin 36) (q i : Nat) (v : Word) : (s.setSc c q i v).mem = s.mem := rfl
@[simp] theorem State.setSc_bad (c : Fin 36) (q i : Nat) (v : Word) : (s.setSc c q i v).bad = s.bad := rfl
@[simp] theorem State.setSc_harbour (c : Fin 36) (q i : Nat) (v : Word) : (s.setSc c q i v).harbour = s.harbour := rfl
@[simp] theorem State.setSc_pfLines (c : Fin 36) (q i : Nat) (v : Word) : (s.setSc c q i v).pfLines = s.pfLines := rfl
@[simp] theorem State.setSc_pf (c : Fin 36) (q i : Nat) (v : Word) : (s.setSc c q i v).pf = s.pf := rfl
@[simp] theorem State.setSc_dirty (c : Fin 36) (q i : Nat) (v : Word) : (s.setSc c q i v).dirty = s.dirty := rfl
@[simp] theorem State.setSc_wc (c : Fin 36) (q i : Nat) (v : Word) : (s.setSc c q i v).wc = s.wc := rfl
@[simp] theorem State.setSc_regulators (c : Fin 36) (q i : Nat) (v : Word) :
    (s.setSc c q i v).regulators = s.regulators := rfl
@[simp] theorem State.setSc_sems (c : Fin 36) (q i : Nat) (v : Word) : (s.setSc c q i v).sems = s.sems := rfl
@[simp] theorem State.setSc_trace (c : Fin 36) (q i : Nat) (v : Word) : (s.setSc c q i v).trace = s.trace := rfl
@[simp] theorem State.setSc_tide (c : Fin 36) (q i : Nat) (v : Word) : (s.setSc c q i v).tide = s.tide := rfl
@[simp] theorem State.setSc_records (c : Fin 36) (q i : Nat) (v : Word) : (s.setSc c q i v).records = s.records := rfl
@[simp] theorem State.setSc_cores (c : Fin 36) (q i : Nat) (v : Word) : (s.setSc c q i v).cores = s.cores := rfl
@[simp] theorem State.setSc_lives (c : Fin 36) (q i : Nat) (v : Word) : (s.setSc c q i v).lives = s.lives := rfl
@[simp] theorem State.setSc_errs (c : Fin 36) (q i : Nat) (v : Word) : (s.setSc c q i v).errs = s.errs := rfl
@[simp] theorem State.setSc_standby (c : Fin 36) (q i : Nat) (v : Word) : (s.setSc c q i v).standby = s.standby := rfl
@[simp] theorem State.setSc_fore (c : Fin 36) (q i : Nat) (v : Word) : (s.setSc c q i v).fore = s.fore := rfl
@[simp] theorem State.setSc_cliff (c : Fin 36) (q i : Nat) (v : Word) : (s.setSc c q i v).cliff = s.cliff := rfl
@[simp] theorem State.setSc_gulk (c : Fin 36) (q i : Nat) (v : Word) : (s.setSc c q i v).gulk = s.gulk := rfl
@[simp] theorem State.setSc_est (c : Fin 36) (q i : Nat) (v : Word) : (s.setSc c q i v).est = s.est := rfl
@[simp] theorem State.setSc_tw (c : Fin 36) (q i : Nat) (v : Word) : (s.setSc c q i v).tw = s.tw := rfl
@[simp] theorem State.setSc_jobs (c : Fin 36) (q i : Nat) (v : Word) : (s.setSc c q i v).jobs = s.jobs := rfl
@[simp] theorem State.setSc_sys (c : Fin 36) (q i : Nat) (v : Word) : (s.setSc c q i v).sys = s.sys := rfl
@[simp] theorem State.setSc_out (c : Fin 36) (q i : Nat) (v : Word) : (s.setSc c q i v).out = s.out := rfl

@[simp] theorem State.setSlot_code (c : Fin 36) (q j v : Nat) : (s.setSlot c q j v).code = s.code := rfl
@[simp] theorem State.setSlot_pending (c : Fin 36) (q j v : Nat) : (s.setSlot c q j v).pending = s.pending := rfl
@[simp] theorem State.setSlot_now (c : Fin 36) (q j v : Nat) : (s.setSlot c q j v).now = s.now := rfl
@[simp] theorem State.setSlot_freeIx (c : Fin 36) (q j v : Nat) : (s.setSlot c q j v).freeIx = s.freeIx := rfl
@[simp] theorem State.setSlot_mem (c : Fin 36) (q j v : Nat) : (s.setSlot c q j v).mem = s.mem := rfl
@[simp] theorem State.setSlot_bad (c : Fin 36) (q j v : Nat) : (s.setSlot c q j v).bad = s.bad := rfl
@[simp] theorem State.setSlot_harbour (c : Fin 36) (q j v : Nat) : (s.setSlot c q j v).harbour = s.harbour := rfl
@[simp] theorem State.setSlot_pfLines (c : Fin 36) (q j v : Nat) : (s.setSlot c q j v).pfLines = s.pfLines := rfl
@[simp] theorem State.setSlot_pf (c : Fin 36) (q j v : Nat) : (s.setSlot c q j v).pf = s.pf := rfl
@[simp] theorem State.setSlot_dirty (c : Fin 36) (q j v : Nat) : (s.setSlot c q j v).dirty = s.dirty := rfl
@[simp] theorem State.setSlot_wc (c : Fin 36) (q j v : Nat) : (s.setSlot c q j v).wc = s.wc := rfl
@[simp] theorem State.setSlot_regulators (c : Fin 36) (q j v : Nat) :
    (s.setSlot c q j v).regulators = s.regulators := rfl
@[simp] theorem State.setSlot_sems (c : Fin 36) (q j v : Nat) : (s.setSlot c q j v).sems = s.sems := rfl
@[simp] theorem State.setSlot_trace (c : Fin 36) (q j v : Nat) : (s.setSlot c q j v).trace = s.trace := rfl
@[simp] theorem State.setSlot_tide (c : Fin 36) (q j v : Nat) : (s.setSlot c q j v).tide = s.tide := rfl
@[simp] theorem State.setSlot_records (c : Fin 36) (q j v : Nat) : (s.setSlot c q j v).records = s.records := rfl
@[simp] theorem State.setSlot_cores (c : Fin 36) (q j v : Nat) : (s.setSlot c q j v).cores = s.cores := rfl
@[simp] theorem State.setSlot_lives (c : Fin 36) (q j v : Nat) : (s.setSlot c q j v).lives = s.lives := rfl
@[simp] theorem State.setSlot_errs (c : Fin 36) (q j v : Nat) : (s.setSlot c q j v).errs = s.errs := rfl
@[simp] theorem State.setSlot_standby (c : Fin 36) (q j v : Nat) : (s.setSlot c q j v).standby = s.standby := rfl
@[simp] theorem State.setSlot_fore (c : Fin 36) (q j v : Nat) : (s.setSlot c q j v).fore = s.fore := rfl
@[simp] theorem State.setSlot_cliff (c : Fin 36) (q j v : Nat) : (s.setSlot c q j v).cliff = s.cliff := rfl
@[simp] theorem State.setSlot_gulk (c : Fin 36) (q j v : Nat) : (s.setSlot c q j v).gulk = s.gulk := rfl
@[simp] theorem State.setSlot_est (c : Fin 36) (q j v : Nat) : (s.setSlot c q j v).est = s.est := rfl
@[simp] theorem State.setSlot_tw (c : Fin 36) (q j v : Nat) : (s.setSlot c q j v).tw = s.tw := rfl
@[simp] theorem State.setSlot_jobs (c : Fin 36) (q j v : Nat) : (s.setSlot c q j v).jobs = s.jobs := rfl
@[simp] theorem State.setSlot_sys (c : Fin 36) (q j v : Nat) : (s.setSlot c q j v).sys = s.sys := rfl
@[simp] theorem State.setSlot_out (c : Fin 36) (q j v : Nat) : (s.setSlot c q j v).out = s.out := rfl

@[simp] theorem State.issue_code (c : Fin 36) (q : Nat) (f : Flight) (pc : Nat) :
    (s.issue c q f pc).code = s.code := by rw [State.issue_through]
@[simp] theorem State.issue_pending (c : Fin 36) (q : Nat) (f : Flight) (pc : Nat) :
    (s.issue c q f pc).pending = s.pending := by rw [State.issue_through]
@[simp] theorem State.issue_now (c : Fin 36) (q : Nat) (f : Flight) (pc : Nat) :
    (s.issue c q f pc).now = s.now := by rw [State.issue_through]
@[simp] theorem State.issue_mem (c : Fin 36) (q : Nat) (f : Flight) (pc : Nat) :
    (s.issue c q f pc).mem = s.mem := by rw [State.issue_through]
@[simp] theorem State.issue_bad (c : Fin 36) (q : Nat) (f : Flight) (pc : Nat) :
    (s.issue c q f pc).bad = s.bad := by rw [State.issue_through]
@[simp] theorem State.issue_sems (c : Fin 36) (q : Nat) (f : Flight) (pc : Nat) :
    (s.issue c q f pc).sems = s.sems := by rw [State.issue_through]
@[simp] theorem State.issue_trace (c : Fin 36) (q : Nat) (f : Flight) (pc : Nat) :
    (s.issue c q f pc).trace = s.trace := by rw [State.issue_through]
@[simp] theorem State.issue_tide (c : Fin 36) (q : Nat) (f : Flight) (pc : Nat) :
    (s.issue c q f pc).tide = s.tide := by rw [State.issue_through]
@[simp] theorem State.issue_records (c : Fin 36) (q : Nat) (f : Flight) (pc : Nat) :
    (s.issue c q f pc).records = s.records := by rw [State.issue_through]
@[simp] theorem State.issue_lives (c : Fin 36) (q : Nat) (f : Flight) (pc : Nat) :
    (s.issue c q f pc).lives = s.lives := by rw [State.issue_through]
@[simp] theorem State.issue_errs (c : Fin 36) (q : Nat) (f : Flight) (pc : Nat) :
    (s.issue c q f pc).errs = s.errs := by rw [State.issue_through]
@[simp] theorem State.issue_standby (c : Fin 36) (q : Nat) (f : Flight) (pc : Nat) :
    (s.issue c q f pc).standby = s.standby := by rw [State.issue_through]
@[simp] theorem State.issue_fore (c : Fin 36) (q : Nat) (f : Flight) (pc : Nat) :
    (s.issue c q f pc).fore = s.fore := by rw [State.issue_through]
@[simp] theorem State.issue_cliff (c : Fin 36) (q : Nat) (f : Flight) (pc : Nat) :
    (s.issue c q f pc).cliff = s.cliff := by rw [State.issue_through]
@[simp] theorem State.issue_gulk (c : Fin 36) (q : Nat) (f : Flight) (pc : Nat) :
    (s.issue c q f pc).gulk = s.gulk := by rw [State.issue_through]
@[simp] theorem State.issue_est (c : Fin 36) (q : Nat) (f : Flight) (pc : Nat) :
    (s.issue c q f pc).est = s.est := by rw [State.issue_through]
@[simp] theorem State.issue_tw (c : Fin 36) (q : Nat) (f : Flight) (pc : Nat) :
    (s.issue c q f pc).tw = s.tw := by rw [State.issue_through]
@[simp] theorem State.issue_jobs (c : Fin 36) (q : Nat) (f : Flight) (pc : Nat) :
    (s.issue c q f pc).jobs = s.jobs := by rw [State.issue_through]
@[simp] theorem State.issue_sys (c : Fin 36) (q : Nat) (f : Flight) (pc : Nat) :
    (s.issue c q f pc).sys = s.sys := by rw [State.issue_through]
@[simp] theorem State.issue_out (c : Fin 36) (q : Nat) (f : Flight) (pc : Nat) :
    (s.issue c q f pc).out = s.out := by rw [State.issue_through]

@[simp] theorem State.setStream_code (i : Nat) (t : Option Stream) : (s.setStream i t).code = s.code := rfl
@[simp] theorem State.setStream_pending (i : Nat) (t : Option Stream) : (s.setStream i t).pending = s.pending := rfl
@[simp] theorem State.setStream_now (i : Nat) (t : Option Stream) : (s.setStream i t).now = s.now := rfl
@[simp] theorem State.setStream_freeIx (i : Nat) (t : Option Stream) : (s.setStream i t).freeIx = s.freeIx := rfl
@[simp] theorem State.setStream_regs (i : Nat) (t : Option Stream) : (s.setStream i t).regs = s.regs := rfl
@[simp] theorem State.setStream_mem (i : Nat) (t : Option Stream) : (s.setStream i t).mem = s.mem := rfl
@[simp] theorem State.setStream_bad (i : Nat) (t : Option Stream) : (s.setStream i t).bad = s.bad := rfl
@[simp] theorem State.setStream_harbour (i : Nat) (t : Option Stream) : (s.setStream i t).harbour = s.harbour := rfl
@[simp] theorem State.setStream_pfLines (i : Nat) (t : Option Stream) : (s.setStream i t).pfLines = s.pfLines := rfl
@[simp] theorem State.setStream_pf (i : Nat) (t : Option Stream) : (s.setStream i t).pf = s.pf := rfl
@[simp] theorem State.setStream_dirty (i : Nat) (t : Option Stream) : (s.setStream i t).dirty = s.dirty := rfl
@[simp] theorem State.setStream_wc (i : Nat) (t : Option Stream) : (s.setStream i t).wc = s.wc := rfl
@[simp] theorem State.setStream_regulators (i : Nat) (t : Option Stream) :
    (s.setStream i t).regulators = s.regulators := rfl
@[simp] theorem State.setStream_sems (i : Nat) (t : Option Stream) : (s.setStream i t).sems = s.sems := rfl
@[simp] theorem State.setStream_trace (i : Nat) (t : Option Stream) : (s.setStream i t).trace = s.trace := rfl
@[simp] theorem State.setStream_tide (i : Nat) (t : Option Stream) : (s.setStream i t).tide = s.tide := rfl
@[simp] theorem State.setStream_records (i : Nat) (t : Option Stream) : (s.setStream i t).records = s.records := rfl
@[simp] theorem State.setStream_cores (i : Nat) (t : Option Stream) : (s.setStream i t).cores = s.cores := rfl
@[simp] theorem State.setStream_lives (i : Nat) (t : Option Stream) : (s.setStream i t).lives = s.lives := rfl
@[simp] theorem State.setStream_errs (i : Nat) (t : Option Stream) : (s.setStream i t).errs = s.errs := rfl
@[simp] theorem State.setStream_standby (i : Nat) (t : Option Stream) : (s.setStream i t).standby = s.standby := rfl
@[simp] theorem State.setStream_fore (i : Nat) (t : Option Stream) : (s.setStream i t).fore = s.fore := rfl
@[simp] theorem State.setStream_cliff (i : Nat) (t : Option Stream) : (s.setStream i t).cliff = s.cliff := rfl
@[simp] theorem State.setStream_est (i : Nat) (t : Option Stream) : (s.setStream i t).est = s.est := rfl
@[simp] theorem State.setStream_tw (i : Nat) (t : Option Stream) : (s.setStream i t).tw = s.tw := rfl
@[simp] theorem State.setStream_jobs (i : Nat) (t : Option Stream) : (s.setStream i t).jobs = s.jobs := rfl
@[simp] theorem State.setStream_sys (i : Nat) (t : Option Stream) : (s.setStream i t).sys = s.sys := rfl
@[simp] theorem State.setStream_out (i : Nat) (t : Option Stream) : (s.setStream i t).out = s.out := rfl

@[simp] theorem State.setScene_code (i : Nat) (t : Option Scene) : (s.setScene i t).code = s.code := rfl
@[simp] theorem State.setScene_pending (i : Nat) (t : Option Scene) : (s.setScene i t).pending = s.pending := rfl
@[simp] theorem State.setScene_now (i : Nat) (t : Option Scene) : (s.setScene i t).now = s.now := rfl
@[simp] theorem State.setScene_freeIx (i : Nat) (t : Option Scene) : (s.setScene i t).freeIx = s.freeIx := rfl
@[simp] theorem State.setScene_regs (i : Nat) (t : Option Scene) : (s.setScene i t).regs = s.regs := rfl
@[simp] theorem State.setScene_mem (i : Nat) (t : Option Scene) : (s.setScene i t).mem = s.mem := rfl
@[simp] theorem State.setScene_bad (i : Nat) (t : Option Scene) : (s.setScene i t).bad = s.bad := rfl
@[simp] theorem State.setScene_harbour (i : Nat) (t : Option Scene) : (s.setScene i t).harbour = s.harbour := rfl
@[simp] theorem State.setScene_pfLines (i : Nat) (t : Option Scene) : (s.setScene i t).pfLines = s.pfLines := rfl
@[simp] theorem State.setScene_pf (i : Nat) (t : Option Scene) : (s.setScene i t).pf = s.pf := rfl
@[simp] theorem State.setScene_dirty (i : Nat) (t : Option Scene) : (s.setScene i t).dirty = s.dirty := rfl
@[simp] theorem State.setScene_wc (i : Nat) (t : Option Scene) : (s.setScene i t).wc = s.wc := rfl
@[simp] theorem State.setScene_regulators (i : Nat) (t : Option Scene) :
    (s.setScene i t).regulators = s.regulators := rfl
@[simp] theorem State.setScene_sems (i : Nat) (t : Option Scene) : (s.setScene i t).sems = s.sems := rfl
@[simp] theorem State.setScene_trace (i : Nat) (t : Option Scene) : (s.setScene i t).trace = s.trace := rfl
@[simp] theorem State.setScene_tide (i : Nat) (t : Option Scene) : (s.setScene i t).tide = s.tide := rfl
@[simp] theorem State.setScene_records (i : Nat) (t : Option Scene) : (s.setScene i t).records = s.records := rfl
@[simp] theorem State.setScene_cores (i : Nat) (t : Option Scene) : (s.setScene i t).cores = s.cores := rfl
@[simp] theorem State.setScene_lives (i : Nat) (t : Option Scene) : (s.setScene i t).lives = s.lives := rfl
@[simp] theorem State.setScene_errs (i : Nat) (t : Option Scene) : (s.setScene i t).errs = s.errs := rfl
@[simp] theorem State.setScene_standby (i : Nat) (t : Option Scene) : (s.setScene i t).standby = s.standby := rfl
@[simp] theorem State.setScene_fore (i : Nat) (t : Option Scene) : (s.setScene i t).fore = s.fore := rfl
@[simp] theorem State.setScene_cliff (i : Nat) (t : Option Scene) : (s.setScene i t).cliff = s.cliff := rfl
@[simp] theorem State.setScene_est (i : Nat) (t : Option Scene) : (s.setScene i t).est = s.est := rfl
@[simp] theorem State.setScene_tw (i : Nat) (t : Option Scene) : (s.setScene i t).tw = s.tw := rfl
@[simp] theorem State.setScene_jobs (i : Nat) (t : Option Scene) : (s.setScene i t).jobs = s.jobs := rfl
@[simp] theorem State.setScene_sys (i : Nat) (t : Option Scene) : (s.setScene i t).sys = s.sys := rfl
@[simp] theorem State.setScene_out (i : Nat) (t : Option Scene) : (s.setScene i t).out = s.out := rfl

@[simp] theorem State.setReq_code (i : Nat) (t : Option Req) : (s.setReq i t).code = s.code := rfl
@[simp] theorem State.setReq_pending (i : Nat) (t : Option Req) : (s.setReq i t).pending = s.pending := rfl
@[simp] theorem State.setReq_now (i : Nat) (t : Option Req) : (s.setReq i t).now = s.now := rfl
@[simp] theorem State.setReq_freeIx (i : Nat) (t : Option Req) : (s.setReq i t).freeIx = s.freeIx := rfl
@[simp] theorem State.setReq_regs (i : Nat) (t : Option Req) : (s.setReq i t).regs = s.regs := rfl
@[simp] theorem State.setReq_mem (i : Nat) (t : Option Req) : (s.setReq i t).mem = s.mem := rfl
@[simp] theorem State.setReq_bad (i : Nat) (t : Option Req) : (s.setReq i t).bad = s.bad := rfl
@[simp] theorem State.setReq_harbour (i : Nat) (t : Option Req) : (s.setReq i t).harbour = s.harbour := rfl
@[simp] theorem State.setReq_pfLines (i : Nat) (t : Option Req) : (s.setReq i t).pfLines = s.pfLines := rfl
@[simp] theorem State.setReq_pf (i : Nat) (t : Option Req) : (s.setReq i t).pf = s.pf := rfl
@[simp] theorem State.setReq_dirty (i : Nat) (t : Option Req) : (s.setReq i t).dirty = s.dirty := rfl
@[simp] theorem State.setReq_wc (i : Nat) (t : Option Req) : (s.setReq i t).wc = s.wc := rfl
@[simp] theorem State.setReq_regulators (i : Nat) (t : Option Req) : (s.setReq i t).regulators = s.regulators := rfl
@[simp] theorem State.setReq_sems (i : Nat) (t : Option Req) : (s.setReq i t).sems = s.sems := rfl
@[simp] theorem State.setReq_trace (i : Nat) (t : Option Req) : (s.setReq i t).trace = s.trace := rfl
@[simp] theorem State.setReq_tide (i : Nat) (t : Option Req) : (s.setReq i t).tide = s.tide := rfl
@[simp] theorem State.setReq_records (i : Nat) (t : Option Req) : (s.setReq i t).records = s.records := rfl
@[simp] theorem State.setReq_cores (i : Nat) (t : Option Req) : (s.setReq i t).cores = s.cores := rfl
@[simp] theorem State.setReq_lives (i : Nat) (t : Option Req) : (s.setReq i t).lives = s.lives := rfl
@[simp] theorem State.setReq_errs (i : Nat) (t : Option Req) : (s.setReq i t).errs = s.errs := rfl
@[simp] theorem State.setReq_standby (i : Nat) (t : Option Req) : (s.setReq i t).standby = s.standby := rfl
@[simp] theorem State.setReq_fore (i : Nat) (t : Option Req) : (s.setReq i t).fore = s.fore := rfl
@[simp] theorem State.setReq_cliff (i : Nat) (t : Option Req) : (s.setReq i t).cliff = s.cliff := rfl
@[simp] theorem State.setReq_est (i : Nat) (t : Option Req) : (s.setReq i t).est = s.est := rfl
@[simp] theorem State.setReq_tw (i : Nat) (t : Option Req) : (s.setReq i t).tw = s.tw := rfl
@[simp] theorem State.setReq_jobs (i : Nat) (t : Option Req) : (s.setReq i t).jobs = s.jobs := rfl
@[simp] theorem State.setReq_sys (i : Nat) (t : Option Req) : (s.setReq i t).sys = s.sys := rfl
@[simp] theorem State.setReq_out (i : Nat) (t : Option Req) : (s.setReq i t).out = s.out := rfl

@[simp] theorem State.setPage_code (i : Nat) (p : KvPage) : (s.setPage i p).code = s.code := rfl
@[simp] theorem State.setPage_pending (i : Nat) (p : KvPage) : (s.setPage i p).pending = s.pending := rfl
@[simp] theorem State.setPage_now (i : Nat) (p : KvPage) : (s.setPage i p).now = s.now := rfl
@[simp] theorem State.setPage_freeIx (i : Nat) (p : KvPage) : (s.setPage i p).freeIx = s.freeIx := rfl
@[simp] theorem State.setPage_regs (i : Nat) (p : KvPage) : (s.setPage i p).regs = s.regs := rfl
@[simp] theorem State.setPage_mem (i : Nat) (p : KvPage) : (s.setPage i p).mem = s.mem := rfl
@[simp] theorem State.setPage_bad (i : Nat) (p : KvPage) : (s.setPage i p).bad = s.bad := rfl
@[simp] theorem State.setPage_harbour (i : Nat) (p : KvPage) : (s.setPage i p).harbour = s.harbour := rfl
@[simp] theorem State.setPage_pfLines (i : Nat) (p : KvPage) : (s.setPage i p).pfLines = s.pfLines := rfl
@[simp] theorem State.setPage_pf (i : Nat) (p : KvPage) : (s.setPage i p).pf = s.pf := rfl
@[simp] theorem State.setPage_dirty (i : Nat) (p : KvPage) : (s.setPage i p).dirty = s.dirty := rfl
@[simp] theorem State.setPage_wc (i : Nat) (p : KvPage) : (s.setPage i p).wc = s.wc := rfl
@[simp] theorem State.setPage_regulators (i : Nat) (p : KvPage) : (s.setPage i p).regulators = s.regulators := rfl
@[simp] theorem State.setPage_sems (i : Nat) (p : KvPage) : (s.setPage i p).sems = s.sems := rfl
@[simp] theorem State.setPage_trace (i : Nat) (p : KvPage) : (s.setPage i p).trace = s.trace := rfl
@[simp] theorem State.setPage_tide (i : Nat) (p : KvPage) : (s.setPage i p).tide = s.tide := rfl
@[simp] theorem State.setPage_records (i : Nat) (p : KvPage) : (s.setPage i p).records = s.records := rfl
@[simp] theorem State.setPage_cores (i : Nat) (p : KvPage) : (s.setPage i p).cores = s.cores := rfl
@[simp] theorem State.setPage_lives (i : Nat) (p : KvPage) : (s.setPage i p).lives = s.lives := rfl
@[simp] theorem State.setPage_errs (i : Nat) (p : KvPage) : (s.setPage i p).errs = s.errs := rfl
@[simp] theorem State.setPage_standby (i : Nat) (p : KvPage) : (s.setPage i p).standby = s.standby := rfl
@[simp] theorem State.setPage_fore (i : Nat) (p : KvPage) : (s.setPage i p).fore = s.fore := rfl
@[simp] theorem State.setPage_cliff (i : Nat) (p : KvPage) : (s.setPage i p).cliff = s.cliff := rfl
@[simp] theorem State.setPage_est (i : Nat) (p : KvPage) : (s.setPage i p).est = s.est := rfl
@[simp] theorem State.setPage_tw (i : Nat) (p : KvPage) : (s.setPage i p).tw = s.tw := rfl
@[simp] theorem State.setPage_jobs (i : Nat) (p : KvPage) : (s.setPage i p).jobs = s.jobs := rfl
@[simp] theorem State.setPage_sys (i : Nat) (p : KvPage) : (s.setPage i p).sys = s.sys := rfl
@[simp] theorem State.setPage_out (i : Nat) (p : KvPage) : (s.setPage i p).out = s.out := rfl

@[simp] theorem State.setQp_code (n : Nat) (q : Option Qp) : (s.setQp n q).code = s.code := rfl
@[simp] theorem State.setQp_pending (n : Nat) (q : Option Qp) : (s.setQp n q).pending = s.pending := rfl
@[simp] theorem State.setQp_now (n : Nat) (q : Option Qp) : (s.setQp n q).now = s.now := rfl
@[simp] theorem State.setQp_freeIx (n : Nat) (q : Option Qp) : (s.setQp n q).freeIx = s.freeIx := rfl
@[simp] theorem State.setQp_regs (n : Nat) (q : Option Qp) : (s.setQp n q).regs = s.regs := rfl
@[simp] theorem State.setQp_mem (n : Nat) (q : Option Qp) : (s.setQp n q).mem = s.mem := rfl
@[simp] theorem State.setQp_bad (n : Nat) (q : Option Qp) : (s.setQp n q).bad = s.bad := rfl
@[simp] theorem State.setQp_harbour (n : Nat) (q : Option Qp) : (s.setQp n q).harbour = s.harbour := rfl
@[simp] theorem State.setQp_pfLines (n : Nat) (q : Option Qp) : (s.setQp n q).pfLines = s.pfLines := rfl
@[simp] theorem State.setQp_pf (n : Nat) (q : Option Qp) : (s.setQp n q).pf = s.pf := rfl
@[simp] theorem State.setQp_dirty (n : Nat) (q : Option Qp) : (s.setQp n q).dirty = s.dirty := rfl
@[simp] theorem State.setQp_wc (n : Nat) (q : Option Qp) : (s.setQp n q).wc = s.wc := rfl
@[simp] theorem State.setQp_regulators (n : Nat) (q : Option Qp) : (s.setQp n q).regulators = s.regulators := rfl
@[simp] theorem State.setQp_sems (n : Nat) (q : Option Qp) : (s.setQp n q).sems = s.sems := rfl
@[simp] theorem State.setQp_trace (n : Nat) (q : Option Qp) : (s.setQp n q).trace = s.trace := rfl
@[simp] theorem State.setQp_tide (n : Nat) (q : Option Qp) : (s.setQp n q).tide = s.tide := rfl
@[simp] theorem State.setQp_records (n : Nat) (q : Option Qp) : (s.setQp n q).records = s.records := rfl
@[simp] theorem State.setQp_cores (n : Nat) (q : Option Qp) : (s.setQp n q).cores = s.cores := rfl
@[simp] theorem State.setQp_lives (n : Nat) (q : Option Qp) : (s.setQp n q).lives = s.lives := rfl
@[simp] theorem State.setQp_errs (n : Nat) (q : Option Qp) : (s.setQp n q).errs = s.errs := rfl
@[simp] theorem State.setQp_standby (n : Nat) (q : Option Qp) : (s.setQp n q).standby = s.standby := rfl
@[simp] theorem State.setQp_fore (n : Nat) (q : Option Qp) : (s.setQp n q).fore = s.fore := rfl
@[simp] theorem State.setQp_cliff (n : Nat) (q : Option Qp) : (s.setQp n q).cliff = s.cliff := rfl
@[simp] theorem State.setQp_gulk (n : Nat) (q : Option Qp) : (s.setQp n q).gulk = s.gulk := rfl
@[simp] theorem State.setQp_tw (n : Nat) (q : Option Qp) : (s.setQp n q).tw = s.tw := rfl
@[simp] theorem State.setQp_jobs (n : Nat) (q : Option Qp) : (s.setQp n q).jobs = s.jobs := rfl
@[simp] theorem State.setQp_sys (n : Nat) (q : Option Qp) : (s.setQp n q).sys = s.sys := rfl
@[simp] theorem State.setQp_out (n : Nat) (q : Option Qp) : (s.setQp n q).out = s.out := rfl

@[simp] theorem State.setTwPort_code (p : Nat) (x : TwPort) : (s.setTwPort p x).code = s.code := rfl
@[simp] theorem State.setTwPort_pending (p : Nat) (x : TwPort) : (s.setTwPort p x).pending = s.pending := rfl
@[simp] theorem State.setTwPort_now (p : Nat) (x : TwPort) : (s.setTwPort p x).now = s.now := rfl
@[simp] theorem State.setTwPort_freeIx (p : Nat) (x : TwPort) : (s.setTwPort p x).freeIx = s.freeIx := rfl
@[simp] theorem State.setTwPort_regs (p : Nat) (x : TwPort) : (s.setTwPort p x).regs = s.regs := rfl
@[simp] theorem State.setTwPort_mem (p : Nat) (x : TwPort) : (s.setTwPort p x).mem = s.mem := rfl
@[simp] theorem State.setTwPort_bad (p : Nat) (x : TwPort) : (s.setTwPort p x).bad = s.bad := rfl
@[simp] theorem State.setTwPort_harbour (p : Nat) (x : TwPort) : (s.setTwPort p x).harbour = s.harbour := rfl
@[simp] theorem State.setTwPort_pfLines (p : Nat) (x : TwPort) : (s.setTwPort p x).pfLines = s.pfLines := rfl
@[simp] theorem State.setTwPort_pf (p : Nat) (x : TwPort) : (s.setTwPort p x).pf = s.pf := rfl
@[simp] theorem State.setTwPort_dirty (p : Nat) (x : TwPort) : (s.setTwPort p x).dirty = s.dirty := rfl
@[simp] theorem State.setTwPort_wc (p : Nat) (x : TwPort) : (s.setTwPort p x).wc = s.wc := rfl
@[simp] theorem State.setTwPort_regulators (p : Nat) (x : TwPort) : (s.setTwPort p x).regulators = s.regulators := rfl
@[simp] theorem State.setTwPort_sems (p : Nat) (x : TwPort) : (s.setTwPort p x).sems = s.sems := rfl
@[simp] theorem State.setTwPort_trace (p : Nat) (x : TwPort) : (s.setTwPort p x).trace = s.trace := rfl
@[simp] theorem State.setTwPort_tide (p : Nat) (x : TwPort) : (s.setTwPort p x).tide = s.tide := rfl
@[simp] theorem State.setTwPort_records (p : Nat) (x : TwPort) : (s.setTwPort p x).records = s.records := rfl
@[simp] theorem State.setTwPort_cores (p : Nat) (x : TwPort) : (s.setTwPort p x).cores = s.cores := rfl
@[simp] theorem State.setTwPort_lives (p : Nat) (x : TwPort) : (s.setTwPort p x).lives = s.lives := rfl
@[simp] theorem State.setTwPort_errs (p : Nat) (x : TwPort) : (s.setTwPort p x).errs = s.errs := rfl
@[simp] theorem State.setTwPort_standby (p : Nat) (x : TwPort) : (s.setTwPort p x).standby = s.standby := rfl
@[simp] theorem State.setTwPort_fore (p : Nat) (x : TwPort) : (s.setTwPort p x).fore = s.fore := rfl
@[simp] theorem State.setTwPort_cliff (p : Nat) (x : TwPort) : (s.setTwPort p x).cliff = s.cliff := rfl
@[simp] theorem State.setTwPort_gulk (p : Nat) (x : TwPort) : (s.setTwPort p x).gulk = s.gulk := rfl
@[simp] theorem State.setTwPort_est (p : Nat) (x : TwPort) : (s.setTwPort p x).est = s.est := rfl
@[simp] theorem State.setTwPort_jobs (p : Nat) (x : TwPort) : (s.setTwPort p x).jobs = s.jobs := rfl
@[simp] theorem State.setTwPort_sys (p : Nat) (x : TwPort) : (s.setTwPort p x).sys = s.sys := rfl
@[simp] theorem State.setTwPort_out (p : Nat) (x : TwPort) : (s.setTwPort p x).out = s.out := rfl

@[simp] theorem State.setColl_code (r : Nat) (x : Option Coll) : (s.setColl r x).code = s.code := rfl
@[simp] theorem State.setColl_pending (r : Nat) (x : Option Coll) : (s.setColl r x).pending = s.pending := rfl
@[simp] theorem State.setColl_now (r : Nat) (x : Option Coll) : (s.setColl r x).now = s.now := rfl
@[simp] theorem State.setColl_freeIx (r : Nat) (x : Option Coll) : (s.setColl r x).freeIx = s.freeIx := rfl
@[simp] theorem State.setColl_regs (r : Nat) (x : Option Coll) : (s.setColl r x).regs = s.regs := rfl
@[simp] theorem State.setColl_mem (r : Nat) (x : Option Coll) : (s.setColl r x).mem = s.mem := rfl
@[simp] theorem State.setColl_bad (r : Nat) (x : Option Coll) : (s.setColl r x).bad = s.bad := rfl
@[simp] theorem State.setColl_harbour (r : Nat) (x : Option Coll) : (s.setColl r x).harbour = s.harbour := rfl
@[simp] theorem State.setColl_pfLines (r : Nat) (x : Option Coll) : (s.setColl r x).pfLines = s.pfLines := rfl
@[simp] theorem State.setColl_pf (r : Nat) (x : Option Coll) : (s.setColl r x).pf = s.pf := rfl
@[simp] theorem State.setColl_dirty (r : Nat) (x : Option Coll) : (s.setColl r x).dirty = s.dirty := rfl
@[simp] theorem State.setColl_wc (r : Nat) (x : Option Coll) : (s.setColl r x).wc = s.wc := rfl
@[simp] theorem State.setColl_regulators (r : Nat) (x : Option Coll) : (s.setColl r x).regulators = s.regulators := rfl
@[simp] theorem State.setColl_sems (r : Nat) (x : Option Coll) : (s.setColl r x).sems = s.sems := rfl
@[simp] theorem State.setColl_trace (r : Nat) (x : Option Coll) : (s.setColl r x).trace = s.trace := rfl
@[simp] theorem State.setColl_tide (r : Nat) (x : Option Coll) : (s.setColl r x).tide = s.tide := rfl
@[simp] theorem State.setColl_records (r : Nat) (x : Option Coll) : (s.setColl r x).records = s.records := rfl
@[simp] theorem State.setColl_cores (r : Nat) (x : Option Coll) : (s.setColl r x).cores = s.cores := rfl
@[simp] theorem State.setColl_lives (r : Nat) (x : Option Coll) : (s.setColl r x).lives = s.lives := rfl
@[simp] theorem State.setColl_errs (r : Nat) (x : Option Coll) : (s.setColl r x).errs = s.errs := rfl
@[simp] theorem State.setColl_standby (r : Nat) (x : Option Coll) : (s.setColl r x).standby = s.standby := rfl
@[simp] theorem State.setColl_fore (r : Nat) (x : Option Coll) : (s.setColl r x).fore = s.fore := rfl
@[simp] theorem State.setColl_cliff (r : Nat) (x : Option Coll) : (s.setColl r x).cliff = s.cliff := rfl
@[simp] theorem State.setColl_gulk (r : Nat) (x : Option Coll) : (s.setColl r x).gulk = s.gulk := rfl
@[simp] theorem State.setColl_est (r : Nat) (x : Option Coll) : (s.setColl r x).est = s.est := rfl
@[simp] theorem State.setColl_jobs (r : Nat) (x : Option Coll) : (s.setColl r x).jobs = s.jobs := rfl
@[simp] theorem State.setColl_sys (r : Nat) (x : Option Coll) : (s.setColl r x).sys = s.sys := rfl
@[simp] theorem State.setColl_out (r : Nat) (x : Option Coll) : (s.setColl r x).out = s.out := rfl

@[simp] theorem State.setFw_code (n : Nat) (x : FwComp) : (s.setFw n x).code = s.code := rfl
@[simp] theorem State.setFw_pending (n : Nat) (x : FwComp) : (s.setFw n x).pending = s.pending := rfl
@[simp] theorem State.setFw_now (n : Nat) (x : FwComp) : (s.setFw n x).now = s.now := rfl
@[simp] theorem State.setFw_freeIx (n : Nat) (x : FwComp) : (s.setFw n x).freeIx = s.freeIx := rfl
@[simp] theorem State.setFw_regs (n : Nat) (x : FwComp) : (s.setFw n x).regs = s.regs := rfl
@[simp] theorem State.setFw_mem (n : Nat) (x : FwComp) : (s.setFw n x).mem = s.mem := rfl
@[simp] theorem State.setFw_bad (n : Nat) (x : FwComp) : (s.setFw n x).bad = s.bad := rfl
@[simp] theorem State.setFw_harbour (n : Nat) (x : FwComp) : (s.setFw n x).harbour = s.harbour := rfl
@[simp] theorem State.setFw_pfLines (n : Nat) (x : FwComp) : (s.setFw n x).pfLines = s.pfLines := rfl
@[simp] theorem State.setFw_pf (n : Nat) (x : FwComp) : (s.setFw n x).pf = s.pf := rfl
@[simp] theorem State.setFw_dirty (n : Nat) (x : FwComp) : (s.setFw n x).dirty = s.dirty := rfl
@[simp] theorem State.setFw_wc (n : Nat) (x : FwComp) : (s.setFw n x).wc = s.wc := rfl
@[simp] theorem State.setFw_regulators (n : Nat) (x : FwComp) : (s.setFw n x).regulators = s.regulators := rfl
@[simp] theorem State.setFw_sems (n : Nat) (x : FwComp) : (s.setFw n x).sems = s.sems := rfl
@[simp] theorem State.setFw_trace (n : Nat) (x : FwComp) : (s.setFw n x).trace = s.trace := rfl
@[simp] theorem State.setFw_tide (n : Nat) (x : FwComp) : (s.setFw n x).tide = s.tide := rfl
@[simp] theorem State.setFw_records (n : Nat) (x : FwComp) : (s.setFw n x).records = s.records := rfl
@[simp] theorem State.setFw_cores (n : Nat) (x : FwComp) : (s.setFw n x).cores = s.cores := rfl
@[simp] theorem State.setFw_lives (n : Nat) (x : FwComp) : (s.setFw n x).lives = s.lives := rfl
@[simp] theorem State.setFw_errs (n : Nat) (x : FwComp) : (s.setFw n x).errs = s.errs := rfl
@[simp] theorem State.setFw_standby (n : Nat) (x : FwComp) : (s.setFw n x).standby = s.standby := rfl
@[simp] theorem State.setFw_fore (n : Nat) (x : FwComp) : (s.setFw n x).fore = s.fore := rfl
@[simp] theorem State.setFw_cliff (n : Nat) (x : FwComp) : (s.setFw n x).cliff = s.cliff := rfl
@[simp] theorem State.setFw_gulk (n : Nat) (x : FwComp) : (s.setFw n x).gulk = s.gulk := rfl
@[simp] theorem State.setFw_est (n : Nat) (x : FwComp) : (s.setFw n x).est = s.est := rfl
@[simp] theorem State.setFw_tw (n : Nat) (x : FwComp) : (s.setFw n x).tw = s.tw := rfl
@[simp] theorem State.setFw_jobs (n : Nat) (x : FwComp) : (s.setFw n x).jobs = s.jobs := rfl
@[simp] theorem State.setFw_out (n : Nat) (x : FwComp) : (s.setFw n x).out = s.out := rfl

@[simp] theorem State.setJob_code (j : Nat) (x : Option Job) : (s.setJob j x).code = s.code := rfl
@[simp] theorem State.setJob_pending (j : Nat) (x : Option Job) : (s.setJob j x).pending = s.pending := rfl
@[simp] theorem State.setJob_now (j : Nat) (x : Option Job) : (s.setJob j x).now = s.now := rfl
@[simp] theorem State.setJob_freeIx (j : Nat) (x : Option Job) : (s.setJob j x).freeIx = s.freeIx := rfl
@[simp] theorem State.setJob_regs (j : Nat) (x : Option Job) : (s.setJob j x).regs = s.regs := rfl
@[simp] theorem State.setJob_mem (j : Nat) (x : Option Job) : (s.setJob j x).mem = s.mem := rfl
@[simp] theorem State.setJob_bad (j : Nat) (x : Option Job) : (s.setJob j x).bad = s.bad := rfl
@[simp] theorem State.setJob_harbour (j : Nat) (x : Option Job) : (s.setJob j x).harbour = s.harbour := rfl
@[simp] theorem State.setJob_pfLines (j : Nat) (x : Option Job) : (s.setJob j x).pfLines = s.pfLines := rfl
@[simp] theorem State.setJob_pf (j : Nat) (x : Option Job) : (s.setJob j x).pf = s.pf := rfl
@[simp] theorem State.setJob_dirty (j : Nat) (x : Option Job) : (s.setJob j x).dirty = s.dirty := rfl
@[simp] theorem State.setJob_wc (j : Nat) (x : Option Job) : (s.setJob j x).wc = s.wc := rfl
@[simp] theorem State.setJob_regulators (j : Nat) (x : Option Job) : (s.setJob j x).regulators = s.regulators := rfl
@[simp] theorem State.setJob_sems (j : Nat) (x : Option Job) : (s.setJob j x).sems = s.sems := rfl
@[simp] theorem State.setJob_trace (j : Nat) (x : Option Job) : (s.setJob j x).trace = s.trace := rfl
@[simp] theorem State.setJob_tide (j : Nat) (x : Option Job) : (s.setJob j x).tide = s.tide := rfl
@[simp] theorem State.setJob_records (j : Nat) (x : Option Job) : (s.setJob j x).records = s.records := rfl
@[simp] theorem State.setJob_cores (j : Nat) (x : Option Job) : (s.setJob j x).cores = s.cores := rfl
@[simp] theorem State.setJob_lives (j : Nat) (x : Option Job) : (s.setJob j x).lives = s.lives := rfl
@[simp] theorem State.setJob_errs (j : Nat) (x : Option Job) : (s.setJob j x).errs = s.errs := rfl
@[simp] theorem State.setJob_standby (j : Nat) (x : Option Job) : (s.setJob j x).standby = s.standby := rfl
@[simp] theorem State.setJob_fore (j : Nat) (x : Option Job) : (s.setJob j x).fore = s.fore := rfl
@[simp] theorem State.setJob_cliff (j : Nat) (x : Option Job) : (s.setJob j x).cliff = s.cliff := rfl
@[simp] theorem State.setJob_gulk (j : Nat) (x : Option Job) : (s.setJob j x).gulk = s.gulk := rfl
@[simp] theorem State.setJob_est (j : Nat) (x : Option Job) : (s.setJob j x).est = s.est := rfl
@[simp] theorem State.setJob_tw (j : Nat) (x : Option Job) : (s.setJob j x).tw = s.tw := rfl
@[simp] theorem State.setJob_sys (j : Nat) (x : Option Job) : (s.setJob j x).sys = s.sys := rfl
@[simp] theorem State.setJob_out (j : Nat) (x : Option Job) : (s.setJob j x).out = s.out := rfl

end Sys2Proof.Machine
end

