-- ==== Sys2Proof/Laws/Ops.lean ====
section
/-! SUPPORT. What the shared operations do, each said once: registers, cores and queues, bytes of memory, semaphores. The
proofs about commands cite these and do not unfold the operations. -/

namespace Sys2Proof.Machine

/-! ### Registers -/

@[simp] theorem State.rd_wr_same (s : State) (p : Pg) (r : RegName) (i : Nat) (v : Word) : (s.wr p r i v).rd p r i = v := by
  rw [State.rd_eq_reg, State.reg_wr, if_pos rfl]

/-- Reading one register after another has been written. -/
theorem State.rd_wr (s : State) (p : Pg) (r : RegName) (i : Nat) (v : Word) (p' : Pg) (r' : RegName) (i' : Nat) :
    (s.wr p r i v).rd p' r' i' = if regKey p r i = regKey p' r' i' then v else s.rd p' r' i' := by
  rw [State.rd_eq_reg, State.reg_wr]; rfl

theorem State.rd_wr_other {s : State} {p : Pg} {r : RegName} {i : Nat} {v : Word} {p' : Pg} {r' : RegName} {i' : Nat}
    (h : regKey p r i ≠ regKey p' r' i') : (s.wr p r i v).rd p' r' i' = s.rd p' r' i' := by
  rw [State.rd_wr, if_neg h]

theorem State.reg_congr {s t : State} (h : t.regs = s.regs) (k : Nat) : t.reg k = s.reg k := by
  unfold State.reg; rw [h]

theorem State.rd_congr {s t : State} (h : t.regs = s.regs) (p : Pg) (r : RegName) (i : Nat) : t.rd p r i = s.rd p r i := by
  unfold State.rd; rw [h]

theorem State.regsBut_refl {s t : State} (h : t.regs = s.regs) (ks : List Nat) : s.regsBut t ks :=
  fun k _ => State.reg_congr h k

theorem State.regsBut_wr {s t : State} {ks : List Nat} {p : Pg} {r : RegName} {i : Nat} {v : Word} (h : s.regsBut t ks)
    (hk : regKey p r i ∈ ks) : s.regsBut (t.wr p r i v) ks := by
  intro k hn
  have e : regKey p r i ≠ k := fun e => hn (e ▸ hk)
  rw [State.reg_wr, if_neg e]
  exact h k hn

theorem State.reg_setFld (s : State) (p : Pg) (r : RegName) (i hi lo x k : Nat) :
    (s.setFld p r i hi lo x).reg k = if regKey p r i = k then setBits (s.rd p r i) hi lo x else s.reg k :=
  State.reg_wr s p r i _ k

/-- A counter after it has been counted up. -/
theorem State.reg_bump (s : State) (p : Pg) (r : RegName) (i n k : Nat) :
    (s.bump p r i n).reg k = if regKey p r i = k then s.counted p r i n else s.reg k := by
  unfold State.bump State.counted
  split
  · exact State.reg_wr s p r i _ k
  · split
    · next h => subst h; rfl
    · rfl

@[simp] theorem State.rd_bump_same (s : State) (p : Pg) (r : RegName) (i n : Nat) :
    (s.bump p r i n).rd p r i = s.counted p r i n := by
  rw [State.rd_eq_reg, State.reg_bump, if_pos rfl]

theorem State.rd_bump (s : State) (p : Pg) (r : RegName) (i n : Nat) (p' : Pg) (r' : RegName) (i' : Nat) :
    (s.bump p r i n).rd p' r' i' = if regKey p r i = regKey p' r' i' then s.counted p r i n else s.rd p' r' i' := by
  rw [State.rd_eq_reg, State.reg_bump]; rfl

theorem State.regsBut_bump {s t : State} {ks : List Nat} {p : Pg} {r : RegName} {i n : Nat} (h : s.regsBut t ks)
    (hk : regKey p r i ∈ ks) : s.regsBut (t.bump p r i n) ks := by
  unfold State.bump
  split
  · exact State.regsBut_wr h hk
  · exact h

theorem eventKeys_ne (p : Pg) :
    regKey p .event 0 ≠ regKey p .eventCount 0 ∧ regKey p .event 0 ≠ regKey p .lastEventTime 0 ∧
      regKey p .eventCount 0 ≠ regKey p .lastEventTime 0 := by
  have h1 : RegName.event.off 0 = 0x28 := rfl
  have h2 : RegName.eventCount.off 0 = 0x38 := rfl
  have h3 : RegName.lastEventTime.off 0 = 0x48 := rfl
  unfold regKey
  omega

/-- A register after an event. -/
theorem State.reg_event (s : State) (p : Pg) (b k : Nat) (h : k ∉ eventKeys p) : (s.event p b).reg k = s.reg k := by
  simp only [eventKeys, List.mem_cons, List.not_mem_nil, or_false, not_or] at h
  simp only [State.event, State.reg_wr]
  rw [if_neg (Ne.symm h.2.2), if_neg (Ne.symm h.2.1), if_neg (Ne.symm h.1)]

/-- What an event does to the registers of its page (R468). -/
theorem State.raised_event (s : State) (p : Pg) (b : Nat) : s.raised (s.event p b) p b := by
  obtain ⟨h1, h2, h3⟩ := eventKeys_ne p
  refine ⟨?_, ?_, ?_⟩
  · simp only [State.event, State.rd_wr, if_neg h1.symm, if_neg h2.symm, if_true]
  · simp only [State.event, State.rd_wr, if_neg h3.symm, if_true, if_neg h1]
  · simp only [State.event, State.rd_wr_same, State.wr_now]

theorem State.regsBut_event {s t : State} {ks : List Nat} {p : Pg} {b : Nat} (h : s.regsBut t ks)
    (hk : ∀ k ∈ eventKeys p, k ∈ ks) : s.regsBut (t.event p b) ks := by
  intro k hn
  rw [State.reg_event t p b k (fun e => hn (hk k e))]
  exact h k hn

/-! ### Cores and queues -/

@[simp] theorem State.core_setCore_same (s : State) (c : Nat) (k : Core) : (s.setCore c k).core c = k :=
  FMap.get_set_same _ _ _ _

theorem State.core_setCore (s : State) (c d : Nat) (k : Core) : (s.setCore c k).core d = if c = d then k else s.core d :=
  FMap.get_set _ _ _ _ _

theorem State.core_setCore_other {s : State} {c d : Nat} {k : Core} (h : c ≠ d) : (s.setCore c k).core d = s.core d := by
  rw [State.core_setCore, if_neg h]

@[simp] theorem Core.queue_setQueue_same (k : Core) (q : Nat) (x : Queue) : (k.setQueue q x).queue q = x :=
  FMap.get_set_same _ _ _ _

theorem Core.queue_setQueue (k : Core) (q r : Nat) (x : Queue) :
    (k.setQueue q x).queue r = if q = r then x else k.queue r := FMap.get_set _ _ _ _ _

@[simp] theorem State.queue_setQueue_same (s : State) (c q : Nat) (x : Queue) : (s.setQueue c q x).queue c q = x := by
  unfold State.setQueue State.queue
  rw [State.core_setCore_same, Core.queue_setQueue_same]

theorem State.queue_setQueue (s : State) (c q d r : Nat) (x : Queue) :
    (s.setQueue c q x).queue d r = if c = d ∧ q = r then x else s.queue d r := by
  unfold State.setQueue State.queue
  rw [State.core_setCore]
  by_cases h : c = d
  · subst h
    simp [Core.queue_setQueue]
  · simp [h]

@[simp] theorem State.core_setQueue_same (s : State) (c q : Nat) (x : Queue) :
    (s.setQueue c q x).core c = (s.core c).setQueue q x := State.core_setCore_same s c _

theorem State.core_setQueue_other {s : State} {c q d : Nat} {x : Queue} (h : c ≠ d) :
    (s.setQueue c q x).core d = s.core d := State.core_setCore_other h

theorem State.core_congr {s t : State} (h : t.cores = s.cores) (c : Nat) : t.core c = s.core c := by
  unfold State.core; rw [h]

theorem State.queue_congr {s t : State} (h : t.cores = s.cores) (c q : Nat) : t.queue c q = s.queue c q := by
  unfold State.queue; rw [State.core_congr h]

/-! ### Memory -/

theorem find?_memRun (a : Nat) (bs : List Byte) (x : Nat) :
    FMap.find? (memRun a bs) x =
      if a ≤ x ∧ x < a + bs.length ∧ bs.getD (x - a) 0 ≠ 0 then some (bs.getD (x - a) 0) else none := by
  induction bs generalizing a with
  | nil => simp [memRun, FMap.find?]
  | cons b bs ih =>
    by_cases h : a = x
    · subst h
      by_cases hb : b = 0
      · rw [memRun, if_pos hb, ih, if_neg (by omega), if_neg (by simp [hb])]
      · rw [memRun, if_neg hb, FMap.find?, if_pos rfl, if_pos ⟨Nat.le_refl _, by simp, by simpa using hb⟩]
        simp
    · have e : FMap.find? (memRun a (b :: bs)) x = FMap.find? (memRun (a + 1) bs) x := by
        by_cases hb : b = 0
        · rw [memRun, if_pos hb]
        · rw [memRun, if_neg hb, FMap.find?, if_neg h]
      rw [e, ih]
      by_cases k : a + 1 ≤ x
      · rw [show x - a = (x - (a + 1)) + 1 by omega, List.getD_cons_succ, List.length_cons]
        refine if_congr ⟨fun ⟨_, p, z⟩ => ⟨by omega, by omega, z⟩, fun ⟨_, p, z⟩ => ⟨k, by omega, z⟩⟩ rfl rfl
      · rw [if_neg (fun p => k p.1), if_neg (fun p => k (by have := p.1; omega))]

theorem get_memWrite (m : FMap Byte) (a : Nat) (bs : List Byte) (x : Nat) :
    FMap.get 0 (memWrite m a bs) x = if a ≤ x ∧ x < a + bs.length then bs.getD (x - a) 0 else FMap.get 0 m x := by
  unfold FMap.get memWrite
  split
  · next e => rw [List.isEmpty_iff.1 e, if_neg (by simp)]
  rw [FMap.find?_append, FMap.find?_append, find?_memRun, FMap.find?_filter (fun k => decide (k < a)),
    FMap.find?_filter (fun k => decide (a + bs.length ≤ k))]
  by_cases h : x < a
  · rw [if_pos (decide_eq_true h), if_neg (fun p => Nat.not_le.2 h p.1), if_neg (c := decide (a + bs.length ≤ x) = true)
      (fun p => by have := of_decide_eq_true p; omega), if_neg (fun p => Nat.not_le.2 h p.1)]
    cases FMap.find? m x <;> rfl
  · rw [if_neg (c := decide (x < a) = true) (fun p => h (of_decide_eq_true p))]
    by_cases k : x < a + bs.length
    · rw [if_neg (c := decide (a + bs.length ≤ x) = true) (fun p => by have := of_decide_eq_true p; omega),
        if_pos (c := a ≤ x ∧ x < a + bs.length) ⟨by omega, k⟩]
      by_cases z : bs.getD (x - a) 0 = 0
      · rw [if_neg (fun p => p.2.2 z), z]; rfl
      · rw [if_pos ⟨by omega, k, z⟩]; rfl
    · rw [if_neg (fun p => k p.2.1), if_pos (decide_eq_true (by omega)), if_neg (fun p => k p.2)]
      rfl

theorem State.byte_congr {s t : State} (h : t.mem = s.mem) (a : Nat) : t.byte a = s.byte a := by
  unfold State.byte; rw [h]

theorem State.byte_poke (s : State) (a : Nat) (bs : List Byte) (x : Nat) :
    (s.poke a bs).byte x = if a ≤ x ∧ x < a + bs.length then bs.getD (x - a) 0 else s.byte x := get_memWrite s.mem a bs x

/-- A byte after a store: the stored one inside its range, as before outside. -/
theorem State.byte_store (s : State) (a : Nat) (bs : List Byte) (x : Nat) :
    (s.store a bs).byte x = if a ≤ x ∧ x < a + bs.length then bs.getD (x - a) 0 else s.byte x := by
  unfold State.byte
  rw [State.store_mem]
  exact get_memWrite s.mem a bs x

theorem State.byte_store_other {s : State} {a : Nat} {bs : List Byte} {x : Nat} (h : ¬(a ≤ x ∧ x < a + bs.length)) :
    (s.store a bs).byte x = s.byte x := by rw [State.byte_store, if_neg h]

theorem State.bytes_congr {s t : State} (h : ∀ a, t.byte a = s.byte a) (a n : Nat) : t.bytes a n = s.bytes a n := by
  induction n generalizing a with
  | zero => rfl
  | succ n ih => rw [State.bytes, State.bytes, h, ih]

@[simp] theorem State.bytes_length (s : State) (a n : Nat) : (s.bytes a n).length = n := by
  induction n generalizing a with
  | zero => rfl
  | succ n ih => rw [State.bytes, List.length_cons, ih]

theorem State.bytes_getD (s : State) (a n i : Nat) (h : i < n) : (s.bytes a n).getD i 0 = s.byte (a + i) := by
  induction n generalizing a i with
  | zero => omega
  | succ n ih =>
    cases i with
    | zero => rfl
    | succ i =>
      rw [State.bytes, List.getD_cons_succ, ih (a + 1) i (by omega)]
      congr 1; omega

/-- Bytes are a list when each is its entry. -/
theorem State.bytes_eq {s : State} {a : Nat} {bs : List Byte} (h : ∀ i, i < bs.length → s.byte (a + i) = bs.getD i 0) :
    s.bytes a bs.length = bs := by
  induction bs generalizing a with
  | nil => rfl
  | cons b bs ih =>
    rw [List.length_cons, State.bytes, ih (fun i hi => ?_)]
    · have := h 0 (by simp)
      simp at this
      rw [this]
    · have := h (i + 1) (by simpa using hi)
      rw [List.getD_cons_succ] at this
      rw [← this]; congr 1; omega

/-- What has been stored reads back. -/
@[simp] theorem State.bytes_store_same (s : State) (a : Nat) (bs : List Byte) : (s.store a bs).bytes a bs.length = bs :=
  State.bytes_eq (fun i hi => by rw [State.byte_store, if_pos (by omega)]; congr 1; omega)

@[simp] theorem leBytes_length (x n : Nat) : (leBytes x n).length = n := by
  induction n generalizing x with
  | zero => rfl
  | succ n ih => rw [leBytes, List.length_cons, ih]

/-- A number comes back from its bytes (R8). -/
theorem leNat_leBytes (x n : Nat) : leNat (leBytes x n) = x % 2 ^ (8 * n) := by
  induction n generalizing x with
  | zero => simp [leBytes, leNat, Nat.mod_one]
  | succ n ih =>
    rw [leBytes, leNat, ih, BitVec.toNat_ofNat, show 8 * (n + 1) = 8 + 8 * n by omega, Nat.pow_add, Nat.mod_mul]

/-- A word that has been stored reads back (R8). -/
theorem State.word_store_same (s : State) (a : Nat) (v : Word) : (s.store a (leBytes v.toNat 8)).word a = v := by
  unfold State.word
  have h := State.bytes_store_same s a (leBytes v.toNat 8)
  rw [leBytes_length] at h
  rw [h, leNat_leBytes, Nat.mod_eq_of_lt v.isLt, BitVec.ofNat_toNat, BitVec.setWidth_eq]

theorem State.word_congr {s t : State} (h : ∀ a, t.byte a = s.byte a) (a : Nat) : t.word a = s.word a := by
  unfold State.word; rw [State.bytes_congr h]

theorem State.bytesBut_refl {s t : State} (h : t.mem = s.mem) (rs : List (Nat × Nat)) : s.bytesBut t rs :=
  fun a _ => State.byte_congr h a

theorem State.bytesBut_store {s t : State} {rs : List (Nat × Nat)} {a : Nat} {bs : List Byte} (h : s.bytesBut t rs)
    (hr : ∃ r ∈ rs, r.1 ≤ a ∧ a + bs.length ≤ r.1 + r.2) : s.bytesBut (t.store a bs) rs := by
  intro x hx
  obtain ⟨r, hm, h1, h2⟩ := hr
  rw [State.byte_store_other (fun e => hx r hm ⟨by omega, by omega⟩)]
  exact h x hx

/-- From s to t nothing but memory, its marks and what Harbour holds of it has changed, and of memory only bytes of the
ranges; where no range is cached in Harbour, nothing but memory and its marks. -/
def State.wrote (s t : State) (rs : List (Nat × Nat)) : Prop :=
  t = { s with
    mem := t.mem, bad := t.bad, regs := t.regs, harbour := t.harbour, pfLines := t.pfLines, dirty := t.dirty, wc := t.wc } ∧
  s.bytesBut t rs ∧
  ((∀ r ∈ rs, harbourAddr r.1 = false) → t = { s with mem := t.mem, bad := t.bad })

theorem State.wrote_refl (s : State) : s.wrote s [] := ⟨rfl, fun _ _ => rfl, fun _ => rfl⟩

theorem State.wrote_trans {s t u : State} {rs qs : List (Nat × Nat)} (h : s.wrote t rs) (k : t.wrote u qs) : s.wrote u (rs ++ qs) := by
  refine ⟨?_, fun a ha => ?_, fun hl => ?_⟩
  · rw [k.1, h.1]
  · rw [k.2.1 a (fun r hr => ha r (List.mem_append.2 (Or.inr hr))),
      h.2.1 a (fun r hr => ha r (List.mem_append.2 (Or.inl hr)))]
  · rw [k.2.2 (fun r hr => hl r (List.mem_append.2 (Or.inr hr))), h.2.2 (fun r hr => hl r (List.mem_append.2 (Or.inl hr)))]

theorem State.wrote_store (s : State) (a : Nat) (bs : List Byte) : s.wrote (s.store a bs) [(a, bs.length)] := by
  refine ⟨State.store_behind s a bs, State.bytesBut_store (fun _ _ => rfl) ⟨_, List.mem_singleton_self _, le_rfl, le_rfl⟩,
    fun h => ?_⟩
  rw [State.store_ledge s (h _ (List.mem_singleton_self _))]
  split <;> rfl

theorem State.wrote_foldl {α : Type} (l : List α) (f : State → α → State) (r : α → Nat × Nat)
    (h : ∀ (s : State) x, x ∈ l → s.wrote (f s x) [r x]) (s : State) : s.wrote (l.foldl f s) (l.map r) := by
  induction l generalizing s with
  | nil => exact State.wrote_refl s
  | cons x l ih =>
    exact State.wrote_trans (h s x (by simp)) (ih (fun s y hy => h s y (by simp [hy])) _)

/-- A read of bytes that lie in none of the ranges written. -/
theorem State.bytes_bytesBut {s t : State} {rs : List (Nat × Nat)} (h : s.bytesBut t rs) {a n : Nat}
    (hd : ∀ r ∈ rs, a + n ≤ r.1 ∨ r.1 + r.2 ≤ a) : t.bytes a n = s.bytes a n := by
  have e := State.bytes_eq (s := t) (a := a) (bs := s.bytes a n) (fun i hi => by
    rw [State.bytes_length] at hi
    rw [State.bytes_getD _ _ _ _ hi]
    exact h _ (fun r hr k => by rcases hd r hr with g | g <;> omega))
  rwa [State.bytes_length] at e

/-! ### Semaphores -/

@[simp] theorem State.sem_setSem_same (s : State) (scope : Bool) (c i : Nat) (w : Word) :
    (s.setSem scope c i w).sem scope c i = w := by
  cases scope
  · simp [State.sem, State.setSem, State.core_setCore_same]
  · simp [State.sem, State.setSem]

theorem State.sem_setSem (s : State) (scope : Bool) (c i : Nat) (w : Word) (scope' : Bool) (c' i' : Nat) :
    (s.setSem scope c i w).sem scope' c' i' =
      if scope = scope' ∧ i = i' ∧ (scope = true ∨ c = c') then w else s.sem scope' c' i' := by
  cases scope <;> cases scope' <;> simp [State.sem, State.setSem, State.core_setCore, FMap.get_set]
  · by_cases h : c = c'
    · subst h; simp [FMap.get_set]
    · simp [h]
  · simp [State.core]

theorem State.sem_congr {s t : State} (hs : t.sems = s.sems) (hc : t.cores = s.cores) (scope : Bool) (c i : Nat) :
    t.sem scope c i = s.sem scope c i := by
  unfold State.sem; rw [hs, State.core_congr hc]

/-! ### The block is up -/

/-- An up block does what its command says. -/
theorem State.awake_up {s : State} (h : s.up) (f : State → State) : s.awake f = f s := by
  unfold State.awake
  rw [h.1, h.2]
  rfl

end Sys2Proof.Machine
end

