-- ==== Sys2Proof/Laws/Tile.lean ====
section
/-! SUPPORT. How a tile instruction is issued and completed with nothing else in flight: one lemma for those that complete at their
issue, one for those that stay in flight, which the proofs about the instructions cite. -/

namespace Sys2Proof.Machine

@[simp] theorem started_ins (i : Ins) (t : Touch) (d : Bool) : (started i t d).ins = i := rfl

/-- What an ADD or SUB that ends with OK does to semaphores: none is faulted by it, and none that it changes was. -/
theorem State.semOp_ok {s : State} {sub scope : Bool} {c i n : Nat} {tr : Bool} (h : (s.semOp sub scope c i n tr).1 = .ok) :
    ∀ sc d j, semFaulted ((s.semOp sub scope c i n tr).2.sem sc d j) = semFaulted (s.sem sc d j) := by
  intro sc d j
  have key : ∀ u : State, u.sems = (s.setSem scope c i (if sub then semSub (s.sem scope c i) n else semAdd (s.sem scope c i) n).1).sems →
      u.cores = (s.setSem scope c i (if sub then semSub (s.sem scope c i) n else semAdd (s.sem scope c i) n).1).cores →
      semFaulted (u.sem sc d j) = semFaulted (s.sem sc d j) := by
    intro u h1 h2
    rw [State.sem_congr h1 h2, State.sem_setSem]
    split
    · next e =>
      have hs : s.sem sc d j = s.sem scope c i := by
        obtain ⟨e1, e2, e3⟩ := e
        subst e1; subst e2
        rcases e3 with e3 | e3
        · subst e3; rfl
        · subst e3; rfl
      rw [hs]
      cases sub
      · have := semAdd_ok (w := s.sem scope c i) (n := n) (by simpa [State.semOp] using h)
        simp [this.2.1, this.2.2.1]
      · have := semSub_ok (w := s.sem scope c i) (n := n) (by simpa [State.semOp] using h)
        simp [this.2.1, this.2.2.1]
    · rfl
  unfold State.semOp
  dsimp only
  split
  · exact key _ rfl rfl
  · exact key _ rfl rfl

/-- From s to t only semaphores and their trace have changed, and no semaphore has become or ceased to be faulted. -/
structure AddsOnly (s t : State) : Prop where
  rest : t = { s with sems := t.sems, cores := t.cores, trace := t.trace }
  core : ∀ d, t.core d = { s.core d with sems := (t.core d).sems }
  faulted : ∀ sc d j, semFaulted (t.sem sc d j) = semFaulted (s.sem sc d j)

theorem AddsOnly.refl (s : State) : AddsOnly s s := ⟨rfl, fun _ => rfl, fun _ _ _ => rfl⟩

theorem AddsOnly.trans {s t u : State} (h : AddsOnly s t) (k : AddsOnly t u) : AddsOnly s u := by
  refine ⟨?_, fun d => ?_, fun sc d j => (k.faulted sc d j).trans (h.faulted sc d j)⟩
  · rw [k.rest, h.rest]
  · rw [k.core d, h.core d]

theorem AddsOnly.queue {s t : State} (h : AddsOnly s t) (d r : Nat) : t.queue d r = s.queue d r := by
  unfold State.queue; rw [h.core d]; rfl

theorem AddsOnly.regs {s t : State} (h : AddsOnly s t) : t.regs = s.regs := by rw [h.rest]

theorem State.semOp_addsOnly {s : State} {sub scope : Bool} {c i n : Nat} {tr : Bool} (h : (s.semOp sub scope c i n tr).1 = .ok) :
    AddsOnly s (s.semOp sub scope c i n tr).2 := by
  refine ⟨?_, fun d => ?_, State.semOp_ok h⟩
  · unfold State.semOp State.setSem
    cases scope <;> cases tr <;> rfl
  · unfold State.semOp State.setSem
    cases scope <;> cases tr <;> dsimp only [State.core, State.setCore] <;> simp only [Bool.false_eq_true, if_false, if_true]
    all_goals
      rw [FMap.get_set]
      split
      · next e => subst e; rfl
      · rfl

/-- Two states with the same semaphores, trace and time. -/
def sameSems (s t : State) : Prop := (∀ sc d j, t.sem sc d j = s.sem sc d j) ∧ t.trace = s.trace ∧ t.now = s.now

theorem State.semOp_same {s t : State} (h : sameSems s t) (sub scope : Bool) (c i n : Nat) (tr : Bool) :
    (t.semOp sub scope c i n tr).1 = (s.semOp sub scope c i n tr).1 ∧
      sameSems (s.semOp sub scope c i n tr).2 (t.semOp sub scope c i n tr).2 := by
  obtain ⟨h1, h2, h3⟩ := h
  have e (w : Word) : sameSems (s.setSem scope c i w) (t.setSem scope c i w) := by
    refine ⟨fun sc d j => ?_, by simp [h2], by simp [h3]⟩
    rw [State.sem_setSem, State.sem_setSem, h1]
  unfold State.semOp
  rw [h1]
  dsimp only
  refine ⟨rfl, ?_⟩
  have k := e (if sub then semSub (s.sem scope c i) n else semAdd (s.sem scope c i) n).1
  split
  · exact ⟨k.1, by simp [h2, h3], k.2.2⟩
  · exact k

theorem State.performOwn_same {s t : State} (h : sameSems s t) (c : Fin 36) {f g : Flight} (hi : f.ins = g.ins) :
    (t.performOwn c f).1 = (s.performOwn c g).1 ∧ sameSems (s.performOwn c g).2 (t.performOwn c f).2 := by
  unfold State.performOwn
  rw [hi]
  dsimp only
  split
  · exact State.semOp_same h _ _ _ _ _ _
  · exact ⟨rfl, h⟩

theorem State.performPost_same {s t : State} (h : sameSems s t) (c : Fin 36) {f g : Flight} (hi : f.ins = g.ins) :
    (t.performPost c f).1 = (s.performPost c g).1 ∧ sameSems (s.performPost c g).2 (t.performPost c f).2 := by
  unfold State.performPost
  rw [hi]
  dsimp only
  split
  · exact State.semOp_same h _ _ _ _ _ _
  · exact ⟨rfl, h⟩

theorem State.performAdds_same {s t : State} (h : sameSems s t) (c : Fin 36) {f g : Flight} (hi : f.ins = g.ins) :
    (t.performAdds c f).1 = (s.performAdds c g).1 ∧ sameSems (s.performAdds c g).2 (t.performAdds c f).2 := by
  obtain ⟨k1, k2⟩ := State.performOwn_same h c hi
  unfold State.performAdds
  dsimp only
  rw [k1]
  split
  · exact State.performPost_same k2 c hi
  · exact ⟨k1, k2⟩

/-- An instruction's ADDs that end with OK: its own one and its post ADD each do, and only semaphores change. -/
theorem State.performAdds_ok {s : State} {c : Fin 36} {f : Flight} (h : (s.performAdds c f).1 = .ok) :
    (s.performOwn c f).1 = .ok ∧ ((s.performOwn c f).2.performPost c f).1 = .ok ∧
      (s.performAdds c f).2 = ((s.performOwn c f).2.performPost c f).2 ∧ AddsOnly s (s.performAdds c f).2 := by
  unfold State.performAdds at *
  dsimp only at *
  by_cases h1 : (s.performOwn c f).1 = .ok
  · rw [if_pos h1] at *
    refine ⟨h1, h, rfl, ?_⟩
    have k1 : AddsOnly s (s.performOwn c f).2 := by
      revert h1
      unfold State.performOwn
      dsimp only
      split
      · exact fun h1 => State.semOp_addsOnly h1
      · exact fun _ => AddsOnly.refl s
    refine k1.trans ?_
    revert h
    generalize (s.performOwn c f).2 = u
    unfold State.performPost
    dsimp only
    split
    · exact fun h => State.semOp_addsOnly h
    · exact fun _ => AddsOnly.refl u
  · rw [if_neg h1] at h
    exact absurd h h1

/-! ### Nothing waits on a faulted semaphore -/

/-- Queue q of core c waits on a faulted semaphore: in a WAIT_GE, or with a product at an arrival gate. -/
def State.faultWaits (s : State) (c q : Nat) : Bool := s.waitsOnFault c q || (s.queue c q).flights.any (s.gateFaulted c)

theorem State.faultedWaiter_none {s t : State} (h : s.faultedWaiter = none)
    (hw : ∀ (c : Fin 36) (q : Nat), q < 8 → t.faultWaits c q = true → s.faultWaits c q = true) : t.faultedWaiter = none := by
  unfold State.faultedWaiter at *
  rw [List.findSome?_eq_none_iff] at *
  intro c hc
  have k := h c hc
  rw [Option.map_eq_none_iff, List.find?_eq_none] at *
  intro q hq e
  exact k q hq (hw c q (List.mem_range.1 hq) e)

theorem State.settled_calm {s : State} (h : s.faultedWaiter = none) (hf : s.est.fast = []) : s.settled = s := by
  have e : s.settle s.waits = s := by
    cases s.waits with
    | zero => rfl
    | succ n => rw [State.settle, h]
  unfold State.settled State.fastPump
  rw [e]
  simp [hf]

/-! ### DMA tags -/

theorem FMap.find_mapVals {α : Type} (f : α → α) (m : FMap α) (i : Nat) :
    FMap.find? (m.map (fun x => (x.1, f x.2))) i = (FMap.find? m i).map f := by
  induction m with
  | nil => rfl
  | cons x m ih =>
    obtain ⟨k, v⟩ := x
    by_cases e : k = i <;> simp [FMap.find?, e, ih]

/-- Where every queue that waits does so in a WAIT_GE, giving tags back changes no queue. -/
theorem Core.queue_freeTags {k : Core} (h : ∀ r, (k.queue r).state = .waiting → (k.queue r).inWaitGe = true) (r : Nat) :
    k.freeTags.queue r = k.queue r := by
  unfold Core.freeTags
  split
  · rfl
  · have e := FMap.find_mapVals (fun x : Queue => if x.state = .waiting ∧ !x.inWaitGe then { x with state := .running } else x)
      k.queues r
    have hr := h r
    unfold Core.queue FMap.get at *
    dsimp only at *
    rw [e]
    cases hf : FMap.find? k.queues r with
    | none => rfl
    | some x =>
      rw [hf] at hr
      simp only [Option.map_some, Option.getD_some] at *
      rw [if_neg]
      rintro ⟨h1, h2⟩
      rw [hr h1] at h2
      exact absurd h2 (by decide)

theorem Core.freeTags_rest (k : Core) : k.freeTags = { k with queues := k.freeTags.queues } := by
  unfold Core.freeTags
  split <;> rfl

/-! ### Issue and completion at once -/

/-- The holder of a core settles again on the queue that runs, when no other queue of the core is ready. -/
theorem State.higherReady_none {s : State} {c : Fin 36} {h : Nat} (hr : ∀ r < 8, r ≠ h → (s.queue c r).state ≠ .running) :
    s.higherReady c h = false := by
  unfold State.higherReady
  rw [List.any_eq_false]
  intro r hm
  by_cases e : r = h
  · simp [e]
  · simp [hr r (List.mem_range.1 hm) e]

theorem State.nextHolder_none {s : State} {c : Fin 36} (hr : ∀ r < 8, (s.queue c r).state ≠ .running) : s.nextHolder c = none := by
  unfold State.nextHolder
  have e : ((List.range 8).map (fun i => ((s.core c).prevHolder + 1 + i) % 8)).filter
      (fun q => (s.queue c q).state == .running) = [] := by
    rw [List.filter_eq_nil_iff]
    intro r hm
    obtain ⟨i, -, rfl⟩ := List.mem_map.1 hm
    simpa using hr _ (Nat.mod_lt _ (by decide))
  dsimp only
  rw [e]
  rfl

/-- What is left of a step once a queue has nothing in flight and holds its core, or has ended: no waiting register write
acts and the holder stays, or lets the core go. -/
theorem State.tail_calm {z : State} {c : Fin 36} {q : Fin 8} (hw : (z.core c).waiting = [])
    (hh : (z.core c).holder = some q.val) (hs : (z.queue c q).state = .running ∨ (z.queue c q).state = .idle)
    (hr : ∀ r < 8, r ≠ q.val → (z.queue c r).state ≠ .running)
    (ht : ∀ r, (z.queue c r).state = .waiting → (z.queue c r).inWaitGe = true) :
    ∃ (F : State) (K : Core), ((z.settleHalt c q).applyWaiting c).arbitrate c = F ∧ F = { z with cores := F.cores } ∧
      (∀ d, d ≠ c.val → F.core d = z.core d) ∧ F.core c = K ∧ (∀ r, K.queue r = z.queue c r) ∧
      K = { z.core c with queues := K.queues, stopping := false, prevHolder := K.prevHolder,
                          holder := if (z.queue c q).state = .running then some q.val else none } := by
  have h1 : z.settleHalt c q = z := by
    unfold State.settleHalt
    rcases hs with hs | hs <;> simp [hs]
  have h2 : z.applyWaiting c = z.setCore c (z.core c) := by
    unfold State.applyWaiting
    simp only [hw, List.filter_nil, List.foldl_nil]
    congr 1
    rw [← hw]
  have hk := Core.queue_freeTags (k := z.core c) ht
  have hk' := Core.freeTags_rest (z.core c)
  rw [h1, h2]
  unfold State.arbitrate
  simp only [State.core_setCore_same]
  generalize (z.core c).freeTags = k at *
  have hkh : k.holder = some q.val := by rw [hk', ← hh]
  simp only [hkh]
  generalize hy : (z.setCore c (z.core c)).setCore c k = y
  have hyz : y = { z with cores := y.cores } := by rw [← hy]; rfl
  have hyc : y.core c = k := by rw [← hy]; exact State.core_setCore_same _ _ _
  have hyo (d : Nat) (h : d ≠ c.val) : y.core d = z.core d := by
    rw [← hy, State.core_setCore_other (Ne.symm h), State.core_setCore_other (Ne.symm h)]
  have hyq (r : Nat) : y.queue c r = z.queue c r := by unfold State.queue; rw [hyc]; exact hk r
  have hkq (r : Nat) : (k.queue r) = z.queue c r := hk r
  rcases hs with hs | hs
  · have e : (k.queue q).keeps = true := by unfold Queue.keeps; rw [hkq, hs]
    rw [if_pos e, State.higherReady_none (fun r h8 hn => by rw [hyq]; exact hr r h8 hn)]
    refine ⟨_, _, rfl, ?_, fun d hd => ?_, State.core_setCore_same _ _ _, fun r => ?_, ?_⟩
    · rw [Bool.not_false, if_pos rfl]
      rw [hyz]; rfl
    · rw [Bool.not_false, if_pos rfl, State.core_setCore_other (Ne.symm hd), hyo d hd]
    · exact hkq r
    · rw [if_pos hs, hk', ← hh]
  · have e : (k.queue q).keeps = false := by unfold Queue.keeps; rw [hkq, hs]
    rw [if_neg (by rw [e]; decide)]
    unfold State.handOn
    simp only [hyc]
    rw [State.nextHolder_none]
    · refine ⟨_, _, rfl, ?_, fun d hd => ?_, State.core_setCore_same _ _ _, fun r => ?_, ?_⟩
      · rw [hyz]; rfl
      · rw [State.core_setCore_other (Ne.symm hd), hyo d hd]
      · exact hkq r
      · rw [if_neg (by rw [hs]; decide), hk']
    · intro r h8
      unfold State.queue
      rw [State.core_setCore_same]
      show (k.queue r).state ≠ _
      rw [hkq]
      by_cases e : r = q.val
      · subst e; rw [hs]; decide
      · exact hr r h8 e

/-- Whether a page of a core counts is fixed by its control register and by self-test. -/
theorem State.counting_sequencer (s t : State) (c : Fin 36) (h : t.rd (.sequencer c) .seqCtrl 0 = s.rd (.sequencer c) .seqCtrl 0)
    (hs : t.sys = s.sys) : t.counting (.sequencer c) = s.counting (.sequencer c) := by
  unfold State.counting State.sliceOn State.physOf
  simp only [Pg.type, PageType.counterCtl]
  rw [h, hs]

theorem keys_pc_ne (c : Fin 36) (q : Fin 8) : regKey (.sequencer c) .qPc q ≠ regKey (.sequencer c) .issueCount 0 ∧
    regKey (.sequencer c) .qPc q ≠ regKey (.sequencer c) .seqCtrl 0 ∧
    regKey (.sequencer c) .issueCount 0 ≠ regKey (.sequencer c) .seqCtrl 0 := by
  unfold regKey
  simp only [RegName.off]
  have := q.isLt
  omega

/-- A register of a core's sequencer page counts nothing of memory. -/
theorem memoryKey_sequencer {c : Fin 36} {r : RegName} {i : Nat} (hr : r.off i < 4096) :
    memoryKey (regKey (.sequencer c) r i) = false := by
  rw [memoryKey_regKey (by revert c; decide) hr]; rfl

/-- The registers after an issue: the counter, the program counter, and, where the queue fetches from a device address, those that
count what its read moves. -/
theorem State.reg_issue (u : State) (c : Fin 36) (q : Fin 8) (f : Flight) (next : Nat) {k : Nat}
    (hk : u.qDevice c q = true → memoryKey k = false) :
    (u.issue c q f next).reg k = if regKey (.sequencer c) .issueCount 0 = k then u.counted (.sequencer c) .issueCount 0 1
      else if regKey (.sequencer c) .qPc q = k then setBits (u.rd (.sequencer c) .qPc q) 47 5 (next / 32) else u.reg k := by
  obtain ⟨k1, k2, k3⟩ := keys_pc_ne c q
  unfold State.issue
  dsimp only
  generalize hw : u.setQueue c q _ = w
  have hwr : w.regs = u.regs := by rw [← hw]; simp
  have hwd : w.qDevice c q = u.qDevice c q := by unfold State.qDevice; rw [State.rd_congr hwr]
  generalize hx : w.fetched c q f.pc = x
  have hf : w.through x := by rw [← hx]; exact State.fetched_through _ _ _ _
  have hxs : x.sys = u.sys := by rw [hf.1, ← hw]; rfl
  have hxr (r : RegName) (i : Nat) (h : r.off i < 4096) : x.rd (.sequencer c) r i = u.rd (.sequencer c) r i := by
    rw [State.rd_eq_reg, hf.2 _ (memoryKey_sequencer h), State.reg_congr hwr]; rfl
  have h8 := q.isLt
  have e1 : (x.setPc c q next).counted (.sequencer c) .issueCount 0 1 = u.counted (.sequencer c) .issueCount 0 1 := by
    have a1 : (x.setPc c q next).rd (.sequencer c) .issueCount 0 = u.rd (.sequencer c) .issueCount 0 := by
      unfold State.setPc State.setFld
      rw [State.rd_wr_other k1, hxr _ _ (by simp only [RegName.off]; omega)]
    have a2 : (x.setPc c q next).counting (.sequencer c) = u.counting (.sequencer c) := by
      refine State.counting_sequencer u _ c ?_ (by simpa using hxs)
      unfold State.setPc State.setFld
      rw [State.rd_wr_other k2, hxr _ _ (by simp only [RegName.off]; omega)]
    unfold State.counted
    rw [a1, a2]
  rw [State.reg_bump, e1]
  unfold State.setPc
  rw [State.reg_setFld, hxr _ _ (by simp only [RegName.off]; omega)]
  have e2 : x.reg k = u.reg k := by
    by_cases hd : u.qDevice c q = true
    · rw [hf.2 _ (hk hd), State.reg_congr hwr]
    · have : x = w := by rw [← hx]; unfold State.fetched; rw [hwd, if_neg hd]
      rw [this, State.reg_congr hwr]
  rw [e2]

/-- Where a queue fetches from its Ledge, its issue moves nothing of memory. -/
theorem State.issue_cache {u : State} {c : Fin 36} {q : Nat} {f : Flight} {next : Nat} (h : u.qDevice c q = false) :
    u.cacheSame (u.issue c q f next) ∧ (u.issue c q f next).freeIx = u.freeIx := by
  have e : ∀ w : State, w.regs = u.regs → w.fetched c q f.pc = w := fun w hw => by
    unfold State.fetched
    rw [show w.qDevice c q = u.qDevice c q by unfold State.qDevice; rw [State.rd_congr hw], h]
    rfl
  unfold State.issue State.cacheSame State.bump
  dsimp only
  rw [e _ (by simp)]
  split <;> exact ⟨rfl, rfl⟩

/-- An instruction whose effect has led from s to u is issued and completes at once. -/
theorem State.issued_completes {s u : State} {c : Fin 36} {q : Fin 8} {i : Ins} {f : Flight} {next : Nat} {ks : List Nat}
    (hm : s.canIssue c q = true) (hc : s.calm c q)
    (hi : f.ins = i) (hd : f.done = true) (hs : f.status = .ok) (he : f.atEnd = []) (hz : f.scAtEnd = none) (hwm : f.wm = 0)
    (ha : (s.adds c i).1 = .ok)
    (hu : u = { s with regs := u.regs, mem := u.mem, bad := u.bad }) (hr : s.regsBut u ks)
    (hp : regKey (.sequencer c) .qPc q ∉ ks) (hn : regKey (.sequencer c) .issueCount 0 ∉ ks)
    (hq : regKey (.sequencer c) .qCfg q ∉ ks) (ht : u.counting (.sequencer c) = s.counting (.sequencer c)) :
    s.completes (((u.issue c q f next).drainQueue c q).settled) c q i next ks ∧
      (∀ k, k ≠ regKey (.sequencer c) .qPc q → k ≠ regKey (.sequencer c) .issueCount 0 →
        (s.qDevice c q = true → memoryKey k = false) → (((u.issue c q f next).drainQueue c q).settled).reg k = u.reg k) ∧
      (((u.issue c q f next).drainQueue c q).settled).mem = u.mem ∧
      (((u.issue c q f next).drainQueue c q).settled).bad = u.bad := by
  -- what the queue may do
  have hst : (s.queue c q).state = .running := by
    simp only [State.canIssue, Bool.and_eq_true] at hm
    simpa using hm.1.2
  have hho : (s.core c).holder = some q.val := by
    simp only [State.canIssue, Bool.and_eq_true] at hm
    simpa using hm.1.1.1.2
  have hcores : u.cores = s.cores := by rw [hu]
  have hnow : u.now = s.now := by rw [hu]
  have hdev : u.qDevice c q = s.qDevice c q := by
    unfold State.qDevice
    rw [State.rd_eq_reg, hr _ hq]; rfl
  -- the instruction is in flight
  generalize hv : u.issue c q f next = v
  generalize hf1 : ({ f with seq := (s.queue c q).seq, issued := s.now } : Flight) = f1
  have hfi : f1.ins = i := by rw [← hf1, ← hi]; rfl
  have hvcores : v.cores = (u.setQueue c q { s.queue c q with flights := [f1], seq := ((s.queue c q).seq + 1) % 2 ^ 32 }).cores := by
    rw [← hv, State.issue_cores, State.queue_congr hcores, hc.flights, hnow, List.nil_append, hf1]
  have hvq : v.queue c q = { s.queue c q with flights := [f1], seq := ((s.queue c q).seq + 1) % 2 ^ 32 } := by
    rw [State.queue_congr hvcores, State.queue_setQueue_same]
  have hvo (d r : Nat) (h : ¬(d = c.val ∧ r = q.val)) : v.queue d r = s.queue d r := by
    rw [State.queue_congr hvcores, State.queue_setQueue, if_neg (fun k => h ⟨k.1.symm, k.2.symm⟩), State.queue_congr hcores]
  have hvc (d : Nat) : v.core d = { s.core d with queues := (v.core d).queues } := by
    rw [State.core_congr hvcores]
    by_cases h : c.val = d
    · subst h; rw [State.core_setQueue_same, State.core_congr hcores]; rfl
    · rw [State.core_setQueue_other h, State.core_congr hcores]
  have hvw : v = { u with
      cores := v.cores, regs := v.regs, harbour := v.harbour, pfLines := v.pfLines, pf := v.pf, dirty := v.dirty,
      wc := v.wc, regulators := v.regulators, freeIx := v.freeIx } := by
    rw [← hv]; exact State.issue_through u c q f next
  have hvs : sameSems s v := by
    refine ⟨fun sc d j => ?_, by rw [hvw, hu], by rw [hvw, hu]⟩
    unfold State.sem
    rw [hvc d]
    have : v.sems = s.sems := by rw [hvw, hu]
    rw [this]
  have hvr (k : Nat) (hk : s.qDevice c q = true → memoryKey k = false) : v.reg k =
      if regKey (.sequencer c) .issueCount 0 = k then s.counted (.sequencer c) .issueCount 0 1
      else if regKey (.sequencer c) .qPc q = k then setBits (s.rd (.sequencer c) .qPc q) 47 5 (next / 32) else u.reg k := by
    rw [← hv, State.reg_issue u c q f next (fun e => hk (hdev ▸ e))]
    have a1 : u.counted (.sequencer c) .issueCount 0 1 = s.counted (.sequencer c) .issueCount 0 1 := by
      unfold State.counted
      rw [ht, State.rd_eq_reg, hr _ hn]; rfl
    have a2 : u.rd (.sequencer c) .qPc q = s.rd (.sequencer c) .qPc q := by rw [State.rd_eq_reg, hr _ hp]; rfl
    rw [a1, a2]
  -- it completes
  have hpa := State.performAdds_same hvs c (f := f1) (g := started i {} true) (by rw [hfi]; rfl)
  have hp1 : (v.performAdds c f1).1 = .ok := by rw [hpa.1]; exact ha
  have hps := hpa.2
  obtain ⟨hown, hpost, hboth, hpo⟩ := State.performAdds_ok hp1
  generalize (v.performAdds c f1).2 = p at hps hboth hpo
  generalize hzq : (if i.opcode = opEnd then { s.queue c q with seq := ((s.queue c q).seq + 1) % 2 ^ 32, state := .idle }
    else { s.queue c q with seq := ((s.queue c q).seq + 1) % 2 ^ 32 } : Queue) = y
  generalize hww : p.tileComplete c q f1 .ok = w
  have hwcores : w.cores = p.cores := by rw [← hww]; unfold State.tileComplete; split <;> simp
  generalize hzz : w.setQueue c q y = z
  have hyf : y.flights = [] := by rw [← hzq]; split <;> exact hc.flights
  have hret : v.retire c q ((v.queue c q).flights.length + 1) = z := by
    rw [hvq]
    have e1 : v.retireHead c q f1 = z := by
      unfold State.retireHead
      have b1 : f1.status = .ok := by rw [← hf1]; exact hs
      have b2 : v.atEnd c q f1 = v := by
        unfold State.atEnd
        rw [show f1.atEnd = [] by rw [← hf1]; exact he, show f1.scAtEnd = none by rw [← hf1]; exact hz]
        rfl
      rw [if_neg (by simp [b1]), b2]
      dsimp only
      rw [hown, hpost]
      simp only [ne_eq, not_true_eq_false, if_false]
      rw [← hboth, hww, hfi]
      have b3 : w.queue c q = { s.queue c q with flights := [f1], seq := ((s.queue c q).seq + 1) % 2 ^ 32 } := by
        rw [State.queue_congr hwcores, hpo.queue, hvq]
      rw [b3, ← hzz, ← hzq]
      congr 1
      have := hc.flights
      split <;> simp [← this]
    have b4 : f1.done = true := by rw [← hf1]; exact hd
    show v.retire c q 2 = z
    have hzf : (z.queue c q).flights = [] := by rw [← hzz, State.queue_setQueue_same]; exact hyf
    rw [State.retire, hvq]
    simp only [b4, if_true, e1]
    rw [State.retire, hzf]
  have hzc (d : Nat) : z.core d = { s.core d with queues := (z.core d).queues, sems := (z.core d).sems } := by
    have e : (w.core d) = { s.core d with queues := (w.core d).queues, sems := (w.core d).sems } := by
      rw [State.core_congr hwcores, hpo.core d, hvc d]
    rw [← hzz]
    by_cases h : c.val = d
    · subst h; rw [State.core_setQueue_same, e]; rfl
    · rw [State.core_setQueue_other h, e]
  have hzq1 : z.queue c q = y := by rw [← hzz, State.queue_setQueue_same]
  have hzqo (d r : Nat) (h : ¬(d = c.val ∧ r = q.val)) : z.queue d r = s.queue d r := by
    rw [← hzz, State.queue_setQueue, if_neg (fun k => h ⟨k.1.symm, k.2.symm⟩), State.queue_congr hwcores, hpo.queue, hvo d r h]
  have hys : y.state = if i.opcode = opEnd then .idle else .running := by
    rw [← hzq]; split <;> [rfl; exact hst]
  obtain ⟨F, K, hFe, hFz, hFo, hFc, hKq, hKe⟩ := State.tail_calm (z := z) (c := c) (q := q)
    (by rw [hzc c]; exact hc.waiting) (by rw [hzc c]; exact hho) (by rw [hzq1, hys]; split <;> simp)
    (fun r h8 hn => by rw [hzqo c r (fun k => hn k.2)]; exact hc.ready r h8 hn)
    (fun r hw => by
      by_cases h : r = q.val
      · subst h; rw [hzq1, hys] at hw; split at hw <;> cases hw
      · rw [hzqo c r (fun k => h k.2)] at *; exact hc.tags r hw)
  have hFq (d r : Nat) : F.queue d r = z.queue d r := by
    by_cases h : d = c.val
    · subst h
      show (F.core c).queue r = _
      rw [hFc]; exact hKq r
    · unfold State.queue
      rw [hFo d h]
  have hzs (sc : Bool) (d j : Nat) : z.sem sc d j = p.sem sc d j := by
    unfold State.sem
    have e1 : z.sems = p.sems := by rw [← hzz, ← hww]; unfold State.tileComplete; split <;> simp
    have e2 : (z.core d).sems = (p.core d).sems := by
      rw [← hzz]
      by_cases h : c.val = d
      · subst h; rw [State.core_setQueue_same, State.core_congr hwcores]; rfl
      · rw [State.core_setQueue_other h, State.core_congr hwcores]
    rw [e1, e2]
  have hFs (sc : Bool) (d j : Nat) : F.sem sc d j = p.sem sc d j := by
    rw [← hzs]
    unfold State.sem
    have e1 : F.sems = z.sems := by rw [hFz]
    have e2 : (F.core d).sems = (z.core d).sems := by
      by_cases h : d = c.val
      · subst h; rw [hFc, hKe]
      · rw [hFo d h]
    rw [e1, e2]
  have hFp : F = { p with cores := F.cores, records := F.records } := by
    have : z = { p with cores := z.cores, records := z.records } := by
      rw [← hzz, ← hww]
      unfold State.tileComplete
      split <;> rfl
    rw [hFz, this]
  have hFf : F.faultedWaiter = none := by
    refine State.faultedWaiter_none hc.faulted (fun d r h8 hw => ?_)
    unfold State.faultWaits State.waitsOnFault State.gateFaulted at *
    have hsf (sc : Bool) (d j : Nat) : semFaulted (F.sem sc d j) = semFaulted (s.sem sc d j) := by
      rw [hFs, hpo.faulted, hvs.1]
    simp only [hsf] at hw
    by_cases h : d.val = c.val ∧ r = q.val
    · rw [hFq, h.1, h.2, hzq1] at hw
      rw [hys, hyf] at hw
      split at hw <;> simp at hw
    · rw [hFq, hzqo d r h] at hw
      exact hw
  have hFe' : F.est.fast = [] := by
    have : F.est = s.est := by
      rw [hFp, hpo.rest]
      show v.est = _
      rw [hvw, hu]
    rw [this]; exact hc.fast
  have hend : ((v.drainQueue c q).settled) = F := by
    unfold State.drainQueue
    rw [hret, hFe]
    exact State.settled_calm hFf hFe'
  rw [hend]
  have hFr (k : Nat) : F.reg k = v.reg k := by
    apply State.reg_congr
    rw [hFp]
    exact hpo.regs
  have hFv : F = { v with cores := F.cores, sems := F.sems, trace := F.trace, records := F.records } := by
    have e1 : F.sems = p.sems := by rw [hFp]
    have e2 : F.trace = p.trace := by rw [hFp]
    rw [e1, e2, hFp, hpo.rest]
  have hnm : memoryKey (regKey (.sequencer c) .qPc q) = false ∧ memoryKey (regKey (.sequencer c) .issueCount 0) = false := by
    have h8 := q.isLt
    constructor <;> apply memoryKey_sequencer <;> simp only [RegName.off] <;> omega
  obtain ⟨k1, k2, k3⟩ := keys_pc_ne c q
  refine ⟨⟨?_, fun d r h => by rw [hFq, hzqo d r h], ?_, ?_, ?_, ?_, fun sc d j => by rw [hFs]; exact hps.1 sc d j, ?_, ?_, ?_,
    ?_, ?_⟩, fun k n1 n2 n3 => ?_, ?_, ?_⟩
  · rw [hFq, hzq1, ← hzq]
    split
    · rfl
    · rw [← hst]
  · rw [State.rd_eq_reg, hFr, hvr _ (fun _ => hnm.1), if_neg k1.symm, if_pos rfl]
  · rw [State.rd_eq_reg, hFr, hvr _ (fun _ => hnm.2), if_pos rfl]
  · intro k hk hdk
    simp only [List.mem_cons, not_or] at hk
    rw [hFr, hvr k hdk, if_neg (Ne.symm hk.2.1), if_neg (Ne.symm hk.1), hr k hk.2.2]
  · intro hd0
    have e := State.issue_cache (f := f) (next := next) (hdev.trans hd0)
    rw [hv] at e
    obtain ⟨e1, e2⟩ := e
    unfold State.cacheSame State.cacheOf at *
    have g : F.harbour = s.harbour ∧ F.pfLines = s.pfLines ∧ F.pf = s.pf ∧ F.dirty = s.dirty ∧ F.wc = s.wc ∧
        F.regulators = s.regulators ∧ F.freeIx = s.freeIx := by
      have c1 := congrArg State.harbour e1
      have c2 := congrArg State.pfLines e1
      have c3 := congrArg State.pf e1
      have c4 := congrArg State.dirty e1
      have c5 := congrArg State.wc e1
      have c6 := congrArg State.regulators e1
      dsimp only at c1 c2 c3 c4 c5 c6
      rw [hFv]
      refine ⟨?_, ?_, ?_, ?_, ?_, ?_, ?_⟩
      · rw [← c1, hu]
      · rw [← c2, hu]
      · rw [← c3, hu]
      · rw [← c4, hu]
      · rw [← c5, hu]
      · rw [← c6, hu]
      · show v.freeIx = _
        rw [e2, hu]
    obtain ⟨g1, g2, g3, g4, g5, g6, g7⟩ := g
    exact ⟨by rw [← g1, ← g2, ← g3, ← g4, ← g5, ← g6], g7⟩
  · have e : F.trace = p.trace := by rw [hFp]
    rw [e]; exact hps.2.1
  · have e : F.records = w.records := by rw [hFz, ← hzz]; rfl
    have e2 : p.records = s.records := by rw [hpo.rest]; show v.records = _; rw [hvw, hu]
    have e3 : (p.queue c q).deadline = (s.queue c q).deadline := by rw [hpo.queue, hvq]
    have e4 : p.now = s.now := by rw [hpo.rest]; show v.now = _; rw [hvw, hu]
    rw [e, ← hww]
    unfold State.tileComplete State.complete State.tileDone
    rw [hfi, e3]
    split
    · dsimp only
      rw [e2, e4, ← hf1]
      simp [hwm, Status.code, units64]
    · rw [e2]; simp
  · rw [hFc, hKe, hzq1, hys]
    dsimp only
    by_cases h : i.opcode = opEnd <;> simp [h]
  · intro d
    by_cases h : d = c.val
    · subst h
      refine ⟨K.holder, K.prevHolder, ?_⟩
      have a1 : (s.core c).stopping = false := by
        simp only [State.canIssue, Bool.and_eq_true] at hm
        simpa using hm.1.1.2
      rw [hFc, hKe, hzc c, ← a1]
    · refine ⟨(s.core d).holder, (s.core d).prevHolder, ?_⟩
      rw [hFo d h, hzc d]
  · unfold State.cacheOf
    rw [hFv, hvw, hu]
  · rw [hFr, hvr k n3, if_neg (Ne.symm n2), if_neg (Ne.symm n1)]
  · rw [hFv, hvw]
  · rw [hFv, hvw]

/-- An instruction whose own work is over at its issue, after an effect that led from s to u. -/
theorem State.issueDone_completes {s u : State} {c : Fin 36} {q : Fin 8} {i : Ins} {t : Touch} {next : Nat} {ks : List Nat}
    (hm : s.canIssue c q = true) (hc : s.calm c q) (ha : (s.adds c i).1 = .ok)
    (hu : u = { s with regs := u.regs, mem := u.mem, bad := u.bad }) (hr : s.regsBut u ks)
    (hp : regKey (.sequencer c) .qPc q ∉ ks) (hn : regKey (.sequencer c) .issueCount 0 ∉ ks)
    (hq : regKey (.sequencer c) .qCfg q ∉ ks) (ht : u.counting (.sequencer c) = s.counting (.sequencer c)) :
    s.completes (u.issueDone c q i t next) c q i next ks ∧
      (∀ k, k ≠ regKey (.sequencer c) .qPc q → k ≠ regKey (.sequencer c) .issueCount 0 →
        (s.qDevice c q = true → memoryKey k = false) → (u.issueDone c q i t next).reg k = u.reg k) ∧
      (u.issueDone c q i t next).mem = u.mem ∧ (u.issueDone c q i t next).bad = u.bad :=
  State.issued_completes hm hc rfl rfl rfl rfl rfl rfl ha hu hr hp hn hq ht

/-- An instruction whose effect happens at its issue. -/
theorem State.issueEffect_completes {s : State} {c : Fin 36} {q : Fin 8} {i : Ins} {t : Touch} {eff : State → State} {ks : List Nat}
    (hm : s.canIssue c q = true) (hc : s.calm c q) (ha : (s.adds c i).1 = .ok)
    (hu : eff s = { s with regs := (eff s).regs, mem := (eff s).mem, bad := (eff s).bad }) (hr : s.regsBut (eff s) ks)
    (hp : regKey (.sequencer c) .qPc q ∉ ks) (hn : regKey (.sequencer c) .issueCount 0 ∉ ks)
    (hq : regKey (.sequencer c) .qCfg q ∉ ks) (ht : (eff s).counting (.sequencer c) = s.counting (.sequencer c)) :
    s.completes (s.issueEffect c q i t eff) c q i (i.pc + 32) ks ∧
      (∀ k, k ≠ regKey (.sequencer c) .qPc q → k ≠ regKey (.sequencer c) .issueCount 0 →
        (s.qDevice c q = true → memoryKey k = false) → (s.issueEffect c q i t eff).reg k = (eff s).reg k) ∧
      (s.issueEffect c q i t eff).mem = (eff s).mem ∧ (s.issueEffect c q i t eff).bad = (eff s).bad :=
  State.issued_completes hm hc rfl rfl rfl rfl rfl rfl ha hu hr hp hn hq ht

/-- A row whose opcode stands at the program counter of a queue that may issue does its own work. -/
theorem State.row_issues {s : State} {c : Fin 36} {q : Fin 8} {i : Ins} {mine : Ins → Bool} {run : State → Ins → State}
    (h : s.issues c q i) (hm : mine i = true) (hl : opListed i.opcode = true)
    (hs : i.opcode = opScalar → bits i.w1 3 0 ≤ 7) : s.row c q mine run = run s i := by
  have h1 : (!opListed i.opcode || (i.opcode == opScalar && decide (7 < bits i.w1 3 0))) = false := by
    rw [hl]
    by_cases e : i.opcode = opScalar
    · have := hs e; simp; omega
    · simp [e]
  have h2 : (i.postEn && !semExists i.postScope i.postIndex) = false := by
    cases hp : i.postEn
    · simp
    · simp [h.post hp]
  unfold State.row
  simp only [h.may, h.served, h.fetch, h.kept, h1, h2, hm, Bool.true_and]
  simp

/-- Issue puts an instruction in flight and changes nothing else but what its fetch moves, after an effect that led from s to u. -/
theorem State.issue_enters {s u : State} {c : Fin 36} {q : Fin 8} {f : Flight} {next : Nat} {ks : List Nat}
    (hn : next = f.pc + 32)
    (hu : u = { s with regs := u.regs, cores := u.cores, mem := u.mem, bad := u.bad, freeIx := u.freeIx })
    (hq : ∀ d r, u.queue d r = s.queue d r) (hs : s.semsSame u) (hc : s.coresBut u c) (hr : s.regsBut u ks)
    (hp : regKey (.sequencer c) .qPc q ∉ ks) (hi : regKey (.sequencer c) .issueCount 0 ∉ ks)
    (hk : regKey (.sequencer c) .seqCtrl 0 ∉ ks) (hg : regKey (.sequencer c) .qCfg q ∉ ks) :
    s.enters (u.issue c q f next) c q f ks ∧
      (u.issue c q f next).core c = { u.core c with queues := ((u.issue c q f next).core c).queues } ∧
      (u.issue c q f next).mem = u.mem ∧ (u.issue c q f next).bad = u.bad := by
  obtain ⟨k1, k2, k3⟩ := keys_pc_ne c q
  have hnow : u.now = s.now := by rw [hu]
  have hsys : u.sys = s.sys := by rw [hu]
  have hdev : u.qDevice c q = s.qDevice c q := by
    unfold State.qDevice
    rw [State.rd_eq_reg, hr _ hg]; rfl
  have hca := fun h => (State.issue_cache (u := u) (f := f) (next := next) (q := q) (c := c) h).1
  have hvr := fun k hk => State.reg_issue u c q f next (k := k) hk
  have hrest := State.issue_through u c q f next
  have hvcores := State.issue_cores u c q f next
  generalize u.issue c q f next = v at *
  rw [hq, hnow] at hvcores
  have hvc (d : Nat) : v.core d = { u.core d with queues := (v.core d).queues } := by
    rw [State.core_congr hvcores]
    by_cases h : c.val = d
    · subst h; rw [State.core_setQueue_same]; rfl
    · rw [State.core_setQueue_other h]
  have a1 : u.counted (.sequencer c) .issueCount 0 1 = s.counted (.sequencer c) .issueCount 0 1 := by
    unfold State.counted
    rw [State.counting_sequencer s u c (by rw [State.rd_eq_reg, hr _ hk]; rfl) hsys, State.rd_eq_reg, hr _ hi]; rfl
  have a2 : u.rd (.sequencer c) .qPc q = s.rd (.sequencer c) .qPc q := by rw [State.rd_eq_reg, hr _ hp]; rfl
  have hnm : memoryKey (regKey (.sequencer c) .qPc q) = false ∧ memoryKey (regKey (.sequencer c) .issueCount 0) = false := by
    have h8 := q.isLt
    constructor <;> apply memoryKey_sequencer <;> simp only [RegName.off] <;> omega
  refine ⟨⟨?_, ?_, ?_, ?_, ?_, ?_, ?_, ?_, ?_⟩, ?_, ?_, ?_⟩
  · rw [State.queue_congr hvcores, State.queue_setQueue_same]
  · intro d r h
    rw [State.queue_congr hvcores, State.queue_setQueue, if_neg (fun k => h ⟨k.1.symm, k.2.symm⟩), hq]
  · rw [State.rd_eq_reg, hvr _ (fun _ => hnm.1), if_neg k1.symm, if_pos rfl, hn, a2]
  · rw [State.rd_eq_reg, hvr _ (fun _ => hnm.2), if_pos rfl, a1]
  · intro k hk hd
    simp only [List.mem_cons, not_or] at hk
    rw [hvr k (fun e => hd (hdev ▸ e)), if_neg (Ne.symm hk.2.1), if_neg (Ne.symm hk.1), hr k hk.2.2]
  · intro hd
    have e := hca (hdev.trans hd)
    unfold State.cacheSame State.cacheOf at *
    rw [hu] at e
    exact e
  · intro sc d j
    rw [← hs sc d j]
    unfold State.sem
    rw [hvc d, hrest]
  · intro d hd
    rw [State.core_congr hvcores, State.core_setQueue_other (Ne.symm hd), hc d hd]
  · unfold State.cacheOf
    rw [hrest, hu]
  · exact hvc c
  all_goals rw [hrest]

end Sys2Proof.Machine
end

