-- ==== Sys2Proof/Laws/Exec.lean ====
section
/-! SUPPORT. What `exec` does with each command, by its constructor. -/

namespace Sys2Proof.Machine

theorem exec_matmul (c : Fin 36) (q : Fin 8) (s : State) :
    exec (.matmul c q) s = execMatmul c q s := rfl
theorem exec_wload (c : Fin 36) (q : Fin 8) (s : State) :
    exec (.wload c q) s = execWload c q s := rfl
theorem exec_weightLoadDone (c : Fin 36) (a : Fin 2) (b : Fin 2) (s : State) :
    exec (.weightLoadDone c a b) s = execWeightLoadDone c a b s := rfl
theorem exec_rstep (c : Fin 36) (q : Fin 8) (s : State) :
    exec (.rstep c q) s = execRstep c q s := rfl
theorem exec_vchain (c : Fin 36) (q : Fin 8) (s : State) :
    exec (.vchain c q) s = execVchain c q s := rfl
theorem exec_move (c : Fin 36) (q : Fin 8) (s : State) :
    exec (.move c q) s = execMove c q s := rfl
theorem exec_waitGe (c : Fin 36) (q : Fin 8) (s : State) :
    exec (.waitGe c q) s = execWaitGe c q s := rfl
theorem exec_waitGeSatisfied (c : Fin 36) (q : Fin 8) (s : State) :
    exec (.waitGeSatisfied c q) s = execWaitGeSatisfied c q s := rfl
theorem exec_add (c : Fin 36) (q : Fin 8) (s : State) :
    exec (.add c q) s = execAdd c q s := rfl
theorem exec_sub (c : Fin 36) (q : Fin 8) (s : State) :
    exec (.sub c q) s = execSub c q s := rfl
theorem exec_branch (c : Fin 36) (q : Fin 8) (s : State) :
    exec (.branch c q) s = execBranch c q s := rfl
theorem exec_scalarSet (c : Fin 36) (q : Fin 8) (s : State) :
    exec (.scalarSet c q) s = execScalarSet c q s := rfl
theorem exec_scalarAdd (c : Fin 36) (q : Fin 8) (s : State) :
    exec (.scalarAdd c q) s = execScalarAdd c q s := rfl
theorem exec_lenImm (c : Fin 36) (q : Fin 8) (s : State) :
    exec (.lenImm c q) s = execLenImm c q s := rfl
theorem exec_lenReg (c : Fin 36) (q : Fin 8) (s : State) :
    exec (.lenReg c q) s = execLenReg c q s := rfl
theorem exec_scalarLoad (c : Fin 36) (q : Fin 8) (s : State) :
    exec (.scalarLoad c q) s = execScalarLoad c q s := rfl
theorem exec_scalarStore (c : Fin 36) (q : Fin 8) (s : State) :
    exec (.scalarStore c q) s = execScalarStore c q s := rfl
theorem exec_srBase (c : Fin 36) (q : Fin 8) (s : State) :
    exec (.srBase c q) s = execSrBase c q s := rfl
theorem exec_srStep (c : Fin 36) (q : Fin 8) (s : State) :
    exec (.srStep c q) s = execSrStep c q s := rfl
theorem exec_fence (c : Fin 36) (q : Fin 8) (s : State) :
    exec (.fence c q) s = execFence c q s := rfl
theorem exec_endOp (c : Fin 36) (q : Fin 8) (s : State) :
    exec (.endOp c q) s = execEnd c q s := rfl
theorem exec_instructionComplete (c : Fin 36) (q : Fin 8) (seq : Nat) (e : HwEnd) (wm : Nat) (ecc : List EccSite) (s : State) :
    exec (.instructionComplete c q seq e wm ecc) s = execInstructionComplete c q seq e wm ecc s := rfl
theorem exec_queueStart (c : Fin 36) (q : Fin 8) (s : State) :
    exec (.queueStart c q) s = execQueueStart c q s := rfl
theorem exec_queueResume (c : Fin 36) (q : Fin 8) (s : State) :
    exec (.queueResume c q) s = execQueueResume c q s := rfl
theorem exec_queueAbort (c : Fin 36) (q : Fin 8) (s : State) :
    exec (.queueAbort c q) s = execQueueAbort c q s := rfl
theorem exec_tilePassBoundary (c : Fin 36) (committed : Nat) (s : State) :
    exec (.tilePassBoundary c committed) s = execTilePassBoundary c committed s := rfl
theorem exec_deadlinePassed (x : Late) (s : State) :
    exec (.deadlinePassed x) s = execDeadlinePassed x s := rfl
theorem exec_arrivalGateOpen (c : Fin 36) (q : Fin 8) (s : State) :
    exec (.arrivalGateOpen c q) s = execArrivalGateOpen c q s := rfl
theorem exec_arriveWrite (c : Fin 36) (n : Fin 4) (v : Word) (s : State) :
    exec (.arriveWrite c n v) s = execArriveWrite c n v s := rfl
theorem exec_statRegionWrite (c : Fin 36) (v : Word) (s : State) :
    exec (.statRegionWrite c v) s = execStatRegionWrite c v s := rfl
theorem exec_scoreCtrlWrite (c : Fin 36) (v : Word) (s : State) :
    exec (.scoreCtrlWrite c v) s = execScoreCtrlWrite c v s := rfl
theorem exec_recurCtrlWrite (c : Fin 36) (which : Fin 3) (v : Word) (s : State) :
    exec (.recurCtrlWrite c which v) s = execRecurCtrlWrite c which v s := rfl
theorem exec_counterClear (page : BitVec 14) (s : State) :
    exec (.counterClear page) s = execCounterClear page s := rfl
theorem exec_eventClear (page : BitVec 14) (bits : BitVec 32) (s : State) :
    exec (.eventClear page bits) s = execEventClear page bits s := rfl
theorem exec_eventCountClear (page : BitVec 14) (s : State) :
    exec (.eventCountClear page) s = execEventCountClear page s := rfl
theorem exec_registerWrite (owner : Fin 3) (addr : BitVec 48) (v : Word) (s : State) :
    exec (.registerWrite owner addr v) s = execRegisterWrite owner addr v s := rfl
theorem exec_supMramDataRead (s : State) :
    exec (.supMramDataRead) s = execSupMramDataRead s := rfl
theorem exec_quiesce (page : BitVec 14) (owner : Fin 3) (s : State) :
    exec (.quiesce page owner) s = execQuiesce page owner s := rfl
theorem exec_drain (page : BitVec 14) (owner : Fin 3) (s : State) :
    exec (.drain page owner) s = execDrain page owner s := rfl
theorem exec_resume (page : BitVec 14) (owner : Fin 3) (s : State) :
    exec (.resume page owner) s = execResume page owner s := rfl
theorem exec_liveBoundaryReached (page : BitVec 14) (s : State) :
    exec (.liveBoundaryReached page) s = execLiveBoundaryReached page s := rfl
theorem exec_tickInEdge (jitter : Fin 3) (s : State) :
    exec (.tickInEdge jitter) s = execTickInEdge jitter s := rfl
theorem exec_tickStart (s : State) :
    exec (.tickStart) s = execTickStart s := rfl
theorem exec_tickWindowClose (s : State) :
    exec (.tickWindowClose) s = execTickWindowClose s := rfl
theorem exec_slotStart (s : State) :
    exec (.slotStart) s = execSlotStart s := rfl
theorem exec_tickinPeriodWrite (v : Word) (s : State) :
    exec (.tickinPeriodWrite v) s = execTickinPeriodWrite v s := rfl
theorem exec_tickCfgWrite (v : Word) (s : State) :
    exec (.tickCfgWrite v) s = execTickCfgWrite v s := rfl
theorem exec_referenceMeasurement (port : Fin 4) (off : Word) (s : State) :
    exec (.referenceMeasurement port off) s = execReferenceMeasurement port off s := rfl
theorem exec_referenceLost (s : State) :
    exec (.referenceLost) s = execReferenceLost s := rfl
theorem exec_tidelineRecord (s : State) :
    exec (.tidelineRecord) s = execTidelineRecord s := rfl
theorem exec_ppsOut (s : State) :
    exec (.ppsOut) s = execPpsOut s := rfl
theorem exec_wakeAlarm (s : State) :
    exec (.wakeAlarm) s = execWakeAlarm s := rfl
theorem exec_ptpEventMessage (p : Fin 4) (rx : Bool) (s : State) :
    exec (.ptpEventMessage p rx) s = execPtpEventMessage p rx s := rfl
theorem exec_openScene (qp : BitVec 18) (m : Msg) (s : State) :
    exec (.openScene qp m) s = execOpenScene qp m s := rfl
theorem exec_observe (qp : BitVec 18) (m : Msg) (s : State) :
    exec (.observe qp m) s = execObserve qp m s := rfl
theorem exec_plan (qp : BitVec 18) (m : Msg) (s : State) :
    exec (.plan qp m) s = execPlan qp m s := rfl
theorem exec_rollout (qp : BitVec 18) (m : Msg) (s : State) :
    exec (.rollout qp m) s = execRollout qp m s := rfl
theorem exec_fork (qp : BitVec 18) (m : Msg) (s : State) :
    exec (.fork qp m) s = execFork qp m s := rfl
theorem exec_closeStream (qp : BitVec 18) (m : Msg) (s : State) :
    exec (.closeStream qp m) s = execCloseStream qp m s := rfl
theorem exec_closeScene (qp : BitVec 18) (m : Msg) (s : State) :
    exec (.closeScene qp m) s = execCloseScene qp m s := rfl
theorem exec_stepDispatch (ix : Fin 16384) (s : State) :
    exec (.stepDispatch ix) s = execStepDispatch ix s := rfl
theorem exec_poolWaitExpire (k : BitVec 64) (s : State) :
    exec (.poolWaitExpire k) s = execPoolWaitExpire k s := rfl
theorem exec_stepCommit (ix : Fin 16384) (e : HwEnd) (badPage : Option (BitVec 28)) (s : State) :
    exec (.stepCommit ix e badPage) s = execStepCommit ix e badPage s := rfl
theorem exec_recomputeDone (g : BitVec 28) (e : HwEnd) (s : State) :
    exec (.recomputeDone g e) s = execRecomputeDone g e s := rfl
theorem exec_loadModel (qp : BitVec 18) (m : Msg) (s : State) :
    exec (.loadModel qp m) s = execLoadModel qp m s := rfl
theorem exec_unloadModel (qp : BitVec 18) (m : Msg) (s : State) :
    exec (.unloadModel qp m) s = execUnloadModel qp m s := rfl
theorem exec_prefetchModel (qp : BitVec 18) (m : Msg) (s : State) :
    exec (.prefetchModel qp m) s = execPrefetchModel qp m s := rfl
theorem exec_modelStaged (m : BitVec 16) (v : BitVec 8) (s : State) :
    exec (.modelStaged m v) s = execModelStaged m v s := rfl
theorem exec_openJob (qp : BitVec 18) (m : Msg) (s : State) :
    exec (.openJob qp m) s = execOpenJob qp m s := rfl
theorem exec_trainStep (qp : BitVec 18) (m : Msg) (s : State) :
    exec (.trainStep qp m) s = execTrainStep qp m s := rfl
theorem exec_remap (qp : BitVec 18) (m : Msg) (s : State) :
    exec (.remap qp m) s = execRemap qp m s := rfl
theorem exec_updateOnly (qp : BitVec 18) (m : Msg) (s : State) :
    exec (.updateOnly qp m) s = execUpdateOnly qp m s := rfl
theorem exec_updateCommit (j : Fin 16) (e : TrainEnd) (s : State) :
    exec (.updateCommit j e) s = execUpdateCommit j e s := rfl
theorem exec_closeJob (qp : BitVec 18) (m : Msg) (s : State) :
    exec (.closeJob qp m) s = execCloseJob qp m s := rfl
theorem exec_objCreate (qp : BitVec 18) (m : Msg) (s : State) :
    exec (.objCreate qp m) s = execObjCreate qp m s := rfl
theorem exec_objWrite (qp : BitVec 18) (m : Msg) (s : State) :
    exec (.objWrite qp m) s = execObjWrite qp m s := rfl
theorem exec_objRead (qp : BitVec 18) (m : Msg) (s : State) :
    exec (.objRead qp m) s = execObjRead qp m s := rfl
theorem exec_objDelete (qp : BitVec 18) (m : Msg) (s : State) :
    exec (.objDelete qp m) s = execObjDelete qp m s := rfl
theorem exec_createQp (qp : BitVec 18) (m : Msg) (s : State) :
    exec (.createQp qp m) s = execCreateQp qp m s := rfl
theorem exec_destroyQp (qp : BitVec 18) (m : Msg) (s : State) :
    exec (.destroyQp qp m) s = execDestroyQp qp m s := rfl
theorem exec_bindFast (qp : BitVec 18) (m : Msg) (s : State) :
    exec (.bindFast qp m) s = execBindFast qp m s := rfl
theorem exec_unbindFast (qp : BitVec 18) (m : Msg) (s : State) :
    exec (.unbindFast qp m) s = execUnbindFast qp m s := rfl
theorem exec_cancel (qp : BitVec 18) (m : Msg) (s : State) :
    exec (.cancel qp m) s = execCancel qp m s := rfl
theorem exec_fastPathRequest (qp : BitVec 18) (payload : List Byte) (ce : Bool) (s : State) :
    exec (.fastPathRequest qp payload ce) s = execFastPathRequest qp payload ce s := rfl
theorem exec_rdmaWriteReceived (qp : BitVec 18) (rkey : BitVec 32) (va : BitVec 64) (data : List Byte) (ce : Bool) (s : State) :
    exec (.rdmaWriteReceived qp rkey va data ce) s = execRdmaWriteReceived qp rkey va data ce s := rfl
theorem exec_rdmaReadRequest (qp : BitVec 18) (rkey : BitVec 32) (va : BitVec 64) (len : BitVec 32) (ce : Bool) (s : State) :
    exec (.rdmaReadRequest qp rkey va len ce) s = execRdmaReadRequest qp rkey va len ce s := rfl
theorem exec_rdmaReadResponse (k : BitVec 64) (data : List Byte) (s : State) :
    exec (.rdmaReadResponse k data) s = execRdmaReadResponse k data s := rfl
theorem exec_mgmtWindowAccess (addr : BitVec 64) (op : WindowOp) (s : State) :
    exec (.mgmtWindowAccess addr op) s = execMgmtWindowAccess addr op s := rfl
theorem exec_spdmMessage (m : Spdm) (s : State) :
    exec (.spdmMessage m) s = execSpdmMessage m s := rfl
theorem exec_ackTimeout (qp : BitVec 18) (s : State) :
    exec (.ackTimeout qp) s = execAckTimeout qp s := rfl
theorem exec_rnrNakReceived (qp : BitVec 18) (s : State) :
    exec (.rnrNakReceived qp) s = execRnrNakReceived qp s := rfl
theorem exec_cnpReceived (qp : BitVec 18) (s : State) :
    exec (.cnpReceived qp) s = execCnpReceived qp s := rfl
theorem exec_rateIncrease (qp : BitVec 18) (s : State) :
    exec (.rateIncrease qp) s = execRateIncrease qp s := rfl
theorem exec_neighbourRequest (p : Fin 4) (v6 : Bool) (hi : Word) (lo : Word) (s : State) :
    exec (.neighbourRequest p v6 hi lo) s = execNeighbourRequest p v6 hi lo s := rfl
theorem exec_contextFill (qp : BitVec 18) (s : State) :
    exec (.contextFill qp) s = execContextFill qp s := rfl
theorem exec_ethLinkUp (p : Fin 4) (s : State) :
    exec (.ethLinkUp p) s = execEthLinkUp p s := rfl
theorem exec_ethLinkDown (p : Fin 4) (s : State) :
    exec (.ethLinkDown p) s = execEthLinkDown p s := rfl
theorem exec_fsRingTailWrite (h : Fin 2) (v : Word) (s : State) :
    exec (.fsRingTailWrite h v) s = execFsRingTailWrite h v s := rfl
theorem exec_fsJobStart (h : Fin 2) (s : State) :
    exec (.fsJobStart h) s = execFsJobStart h s := rfl
theorem exec_fsJobComplete (h : Fin 2) (e : HwEnd) (wm : Nat) (ecc : Bool) (s : State) :
    exec (.fsJobComplete h e wm ecc) s = execFsJobComplete h e wm ecc s := rfl
theorem exec_fsAbort (h : Fin 2) (s : State) :
    exec (.fsAbort h) s = execFsAbort h s := rfl
theorem exec_hbFlush (h : Fin 2) (s : State) :
    exec (.hbFlush h) s = execHbFlush h s := rfl
theorem exec_flushDone (h : Fin 2) (s : State) :
    exec (.flushDone h) s = execFlushDone h s := rfl
theorem exec_hbRegionWrite (h : Fin 2) (n : Fin 16) (size : Bool) (v : Word) (s : State) :
    exec (.hbRegionWrite h n size v) s = execHbRegionWrite h n size v s := rfl
theorem exec_atomic (op : AtomicOp) (a : Word) (v : Word) (cmp : Word) (s : State) :
    exec (.atomic op a v cmp) s = execAtomic op a v cmp s := rfl
theorem exec_wcFlush (k : Fin 12) (s : State) :
    exec (.wcFlush k) s = execWcFlush k s := rfl
theorem exec_prefetchFill (h : Fin 2) (c : Fin 36) (o : Prefetch) (line : Nat) (s : State) :
    exec (.prefetchFill h c o line) s = execPrefetchFill h c o line s := rfl
theorem exec_regulatorWindow (b : Fin 6) (s : State) :
    exec (.regulatorWindow b) s = execRegulatorWindow b s := rfl
theorem exec_hbmRegClassWrite (k : Fin 12) (n : Fin 4) (v : Word) (s : State) :
    exec (.hbmRegClassWrite k n v) s = execHbmRegClassWrite k n v s := rfl
theorem exec_scrub (a : Word) (f : Scrubbed) (s : State) :
    exec (.scrub a f) s = execScrub a f s := rfl
theorem exec_cxlHotAdd (src : CxlSource) (t : CxlTrain) (s : State) :
    exec (.cxlHotAdd src t) s = execCxlHotAdd src t s := rfl
theorem exec_cxlHotRemove (src : CxlSource) (s : State) :
    exec (.cxlHotRemove src) s = execCxlHotRemove src s := rfl
theorem exec_cxlLinkDown (p : Fin 2) (s : State) :
    exec (.cxlLinkDown p) s = execCxlLinkDown p s := rfl
theorem exec_cliffRingTailWrite (v : Word) (s : State) :
    exec (.cliffRingTailWrite v) s = execCliffRingTailWrite v s := rfl
theorem exec_create (s : State) :
    exec (.create) s = execCreate s := rfl
theorem exec_write (s : State) :
    exec (.write) s = execWrite s := rfl
theorem exec_read (s : State) :
    exec (.read) s = execRead s := rfl
theorem exec_delete (s : State) :
    exec (.delete) s = execDelete s := rfl
theorem exec_cliffCommandComplete (e : HwEnd) (wm : Nat) (rebuilt : Nat) (s : State) :
    exec (.cliffCommandComplete e wm rebuilt) s = execCliffCommandComplete e wm rebuilt s := rfl
theorem exec_cliffHousekeeping (k : Housekeep) (low : Bool) (mean : BitVec 16) (top : BitVec 16) (spare : BitVec 16) (s : State) :
    exec (.cliffHousekeeping k low mean top spare) s = execCliffHousekeeping k low mean top spare s := rfl
theorem exec_tidewayDataFrame (p : Fin 16) (f : TwFrame) (crcOk : Bool) (s : State) :
    exec (.tidewayDataFrame p f crcOk) s = execTidewayDataFrame p f crcOk s := rfl
theorem exec_tidewayControlFrame (p : Fin 16) (k : TwControl) (s : State) :
    exec (.tidewayControlFrame p k) s = execTidewayControlFrame p k s := rfl
theorem exec_timingExchange (p : Fin 16) (delay : BitVec 24) (off : Word) (s : State) :
    exec (.timingExchange p delay off) s = execTimingExchange p delay off s := rfl
theorem exec_remoteSemaphoreFrame (p : Fin 16) (op : TwSem) (index : BitVec 16) (amount : BitVec 48) (s : State) :
    exec (.remoteSemaphoreFrame p op index amount) s = execRemoteSemaphoreFrame p op index amount s := rfl
theorem exec_replayTimeout (p : Fin 16) (s : State) :
    exec (.replayTimeout p) s = execReplayTimeout p s := rfl
theorem exec_wavelengthFail (p : Fin 16) (w : Fin 5) (s : State) :
    exec (.wavelengthFail p w) s = execWavelengthFail p w s := rfl
theorem exec_linkTimeout (p : Fin 16) (s : State) :
    exec (.linkTimeout p) s = execLinkTimeout p s := rfl
theorem exec_tidewayLinkUp (p : Fin 16) (id : BitVec 32) (s : State) :
    exec (.tidewayLinkUp p id) s = execTidewayLinkUp p id s := rfl
theorem exec_recalibration (p : Fin 16) (w : Fin 5) (s : State) :
    exec (.recalibration p w) s = execRecalibration p w s := rfl
theorem exec_laserDrain (m : Fin 4) (s : State) :
    exec (.laserDrain m) s = execLaserDrain m s := rfl
theorem exec_laserRestore (m : Fin 4) (s : State) :
    exec (.laserRestore m) s = execLaserRestore m s := rfl
theorem exec_laserFailure (m : Fin 4) (removed : Bool) (s : State) :
    exec (.laserFailure m removed) s = execLaserFailure m removed s := rfl
theorem exec_laserInsert (m : Fin 4) (output : BitVec 16) (temp : BitVec 8) (s : State) :
    exec (.laserInsert m output temp) s = execLaserInsert m output temp s := rfl
theorem exec_twRingTailWrite (ring : Fin 8) (v : Word) (s : State) :
    exec (.twRingTailWrite ring v) s = execTwRingTailWrite ring v s := rfl
theorem exec_allReduce (ring : Fin 8) (s : State) :
    exec (.allReduce ring) s = execAllReduce ring s := rfl
theorem exec_reduceScatter (ring : Fin 8) (s : State) :
    exec (.reduceScatter ring) s = execReduceScatter ring s := rfl
theorem exec_allGather (ring : Fin 8) (s : State) :
    exec (.allGather ring) s = execAllGather ring s := rfl
theorem exec_broadcast (ring : Fin 8) (s : State) :
    exec (.broadcast ring) s = execBroadcast ring s := rfl
theorem exec_multicast (ring : Fin 8) (s : State) :
    exec (.multicast ring) s = execMulticast ring s := rfl
theorem exec_permute (ring : Fin 8) (s : State) :
    exec (.permute ring) s = execPermute ring s := rfl
theorem exec_permuteResolveCommit (ring : Fin 8) (s : State) :
    exec (.permuteResolveCommit ring) s = execPermuteResolveCommit ring s := rfl
theorem exec_permuteResolveDiscard (ring : Fin 8) (s : State) :
    exec (.permuteResolveDiscard ring) s = execPermuteResolveDiscard ring s := rfl
theorem exec_collectiveStart (ring : Fin 8) (s : State) :
    exec (.collectiveStart ring) s = execCollectiveStart ring s := rfl
theorem exec_collectiveComplete (ring : Fin 8) (e : HwEnd) (s : State) :
    exec (.collectiveComplete ring e) s = execCollectiveComplete ring e s := rfl
theorem exec_semReset (v : Word) (s : State) :
    exec (.semReset v) s = execSemReset v s := rfl
theorem exec_spareCoreSwap (c : Fin 36) (owner : Fin 3) (s : State) :
    exec (.spareCoreSwap c owner) s = execSpareCoreSwap c owner s := rfl
theorem exec_swapDone (s : State) :
    exec (.swapDone) s = execSwapDone s := rfl
theorem exec_pcRetirement (k : Fin 12) (pc : Fin 64) (s : State) :
    exec (.pcRetirement k pc) s = execPcRetirement k pc s := rfl
theorem exec_pcRetired (s : State) :
    exec (.pcRetired) s = execPcRetired s := rfl
theorem exec_fwActivate (n : Fin 8) (target : Fin 64) (formatOk : Bool) (s : State) :
    exec (.fwActivate n target formatOk) s = execFwActivate n target formatOk s := rfl
theorem exec_fwRevert (n : Fin 8) (target : Fin 64) (s : State) :
    exec (.fwRevert n target) s = execFwRevert n target s := rfl
theorem exec_fwSwap (n : Fin 5) (s : State) :
    exec (.fwSwap n) s = execFwSwap n s := rfl
theorem exec_fwHealthTimeout (n : Fin 5) (s : State) :
    exec (.fwHealthTimeout n) s = execFwHealthTimeout n s := rfl
theorem exec_orderlyHalt (page : BitVec 14) (s : State) :
    exec (.orderlyHalt page) s = execOrderlyHalt page s := rfl
theorem exec_correctedRecordFlush (s : State) :
    exec (.correctedRecordFlush) s = execCorrectedRecordFlush s := rfl
theorem exec_errRingBaseWrite (v : Word) (s : State) :
    exec (.errRingBaseWrite v) s = execErrRingBaseWrite v s := rfl
theorem exec_rollNodeLimitWrite (v : Word) (s : State) :
    exec (.rollNodeLimitWrite v) s = execRollNodeLimitWrite v s := rfl
theorem exec_enterDry (mctp : Bool) (s : State) :
    exec (.enterDry mctp) s = execEnterDry mctp s := rfl
theorem exec_neapForce (on : Bool) (s : State) :
    exec (.neapForce on) s = execNeapForce on s := rfl
theorem exec_clearStop (safe : Bool) (s : State) :
    exec (.clearStop safe) s = execClearStop safe s := rfl
theorem exec_coreSlackEntry (c : Fin 36) (s : State) :
    exec (.coreSlackEntry c) s = execCoreSlackEntry c s := rfl
theorem exec_breakwaterRequest (k : BwKind) (msg : Option (BitVec 64)) (s : State) :
    exec (.breakwaterRequest k msg) s = execBreakwaterRequest k msg s := rfl
theorem exec_rampEnd (s : State) :
    exec (.rampEnd) s = execRampEnd s := rfl
theorem exec_ruleFire (r : Fin 64) (samples : List (BitVec 32)) (unit : BitVec 16) (s : State) :
    exec (.ruleFire r samples unit) s = execRuleFire r samples unit s := rfl
theorem exec_ruleRelease (r : Fin 64) (samples : List (BitVec 32)) (unit : BitVec 16) (s : State) :
    exec (.ruleRelease r samples unit) s = execRuleRelease r samples unit s := rfl
theorem exec_hardStop (cause : StopCause) (s : State) :
    exec (.hardStop cause) s = execHardStop cause s := rfl
theorem exec_wakeN (s : State) :
    exec (.wakeN) s = execWakeN s := rfl
theorem exec_standbyLoss (main : Bool) (s : State) :
    exec (.standbyLoss main) s = execStandbyLoss main s := rfl
theorem exec_standbyReturn (complete : Bool) (s : State) :
    exec (.standbyReturn complete) s = execStandbyReturn complete s := rfl
theorem exec_coldBoot (f : BootFound) (s : State) :
    exec (.coldBoot f) s = execColdBoot f s := rfl
theorem exec_dryExit (f : BootFound) (s : State) :
    exec (.dryExit f) s = execDryExit f s := rfl
theorem exec_regRead (addr : BitVec 64) (s : State) :
    exec (.regRead addr) s = execRegRead addr s := rfl
theorem exec_regWrite (addr : BitVec 64) (v : Word) (safe : Bool) (s : State) :
    exec (.regWrite addr v safe) s = execRegWrite addr v safe s := rfl
theorem exec_setMgmtQp (p : Fin 4) (ip : BitVec 128) (qpn : BitVec 24) (psn : BitVec 24) (s : State) :
    exec (.setMgmtQp p ip qpn psn) s = execSetMgmtQp p ip qpn psn s := rfl
theorem exec_powerWake (s : State) :
    exec (.powerWake) s = execPowerWake s := rfl
theorem exec_emergencyStop (s : State) :
    exec (.emergencyStop) s = execEmergencyStop s := rfl
theorem exec_ownerWrite (off : BitVec 32) (piece : List Byte) (s : State) :
    exec (.ownerWrite off piece) s = execOwnerWrite off piece s := rfl
theorem exec_debugToken (token : List Byte) (s : State) :
    exec (.debugToken token) s = execDebugToken token s := rfl
theorem exec_bootStatus (s : State) :
    exec (.bootStatus) s = execBootStatus s := rfl
theorem exec_pldmFirmwareUpdate (n : Fin 8) (img : List Byte) (formatOk : Bool) (s : State) :
    exec (.pldmFirmwareUpdate n img formatOk) s = execPldmFirmwareUpdate n img formatOk s := rfl
theorem exec_pldmFileRead (off : BitVec 20) (len : BitVec 20) (s : State) :
    exec (.pldmFileRead off len) s = execPldmFileRead off len s := rfl
theorem exec_pldmSensorRead (c : Fin 128) (s : State) :
    exec (.pldmSensorRead c) s = execPldmSensorRead c s := rfl
theorem exec_getMeasurements (window : Bool) (ix : Fin 256) (nonce : List Byte) (s : State) :
    exec (.getMeasurements window ix nonce) s = execGetMeasurements window ix nonce s := rfl
theorem exec_challenge (window : Bool) (slot : Fin 8) (nonce : List Byte) (s : State) :
    exec (.challenge window slot nonce) s = execChallenge window slot nonce s := rfl
theorem exec_getCertificate (window : Bool) (slot : Fin 8) (off : BitVec 16) (len : BitVec 16) (s : State) :
    exec (.getCertificate window slot off len) s = execGetCertificate window slot off len s := rfl
theorem exec_negotiateAlgorithms (window : Bool) (huaris : Bool) (s : State) :
    exec (.negotiateAlgorithms window huaris) s = execNegotiateAlgorithms window huaris s := rfl
theorem exec_selfTestSlice (p : Fin 42) (kind : SliceKind) (s : State) :
    exec (.selfTestSlice p kind) s = execSelfTestSlice p kind s := rfl
theorem exec_sliceComplete (p : Fin 42) (pass : Bool) (s : State) :
    exec (.sliceComplete p pass) s = execSliceComplete p pass s := rfl
theorem exec_sliceAbort (p : Fin 42) (s : State) :
    exec (.sliceAbort p) s = execSliceAbort p s := rfl
theorem exec_fullTest (s : State) :
    exec (.fullTest) s = execFullTest s := rfl
theorem exec_stFullDone (bad : Battery) (s : State) :
    exec (.stFullDone bad) s = execStFullDone bad s := rfl
theorem exec_marginSweep (x : MarginStep) (s : State) :
    exec (.marginSweep x) s = execMarginSweep x s := rfl
theorem exec_loopback (x : MarginStep) (s : State) :
    exec (.loopback x) s = execLoopback x s := rfl
theorem exec_referenceCheck (bad : Option RefFail) (s : State) :
    exec (.referenceCheck bad) s = execReferenceCheck bad s := rfl
theorem exec_fwHealthDeclared (n : Fin 5) (s : State) :
    exec (.fwHealthDeclared n) s = execFwHealthDeclared n s := rfl
theorem exec_ackReceived (qp : BitVec 18) (psn : BitVec 24) (kind : AckKind) (s : State) :
    exec (.ackReceived qp psn kind) s = execAckReceived qp psn kind s := rfl
theorem exec_pfcPauseReceived (p : Fin 4) (prio : Fin 8) (on : Bool) (s : State) :
    exec (.pfcPauseReceived p prio on) s = execPfcPauseReceived p prio on s := rfl
theorem exec_frameDropped (p : Fin 4) (s : State) :
    exec (.frameDropped p) s = execFrameDropped p s := rfl
theorem exec_tempHigh (k : Fin 12) (t : Fin 256) (s : State) :
    exec (.tempHigh k t) s = execTempHigh k t s := rfl
theorem exec_laserDrained (m : Fin 4) (s : State) :
    exec (.laserDrained m) s = execLaserDrained m s := rfl

end Sys2Proof.Machine
end

