-- ==== Sys2Proof/Laws/Kept.lean ====
section
/-! SUPPORT. What every command keeps: one relation between the state before and the state after, its rules, and its proof
for the operations that touch the parts it speaks of. Every other operation keeps it by these rules. -/

namespace Sys2Proof.Machine

/-- What no command breaks: the ordering code and the queue of commands stay, what has left the device and the completion
records written stay as they are and are only added to, and canonical tables and bounded buffers stay so. -/
structure Kept (s t : State) : Prop where
  code : t.code = s.code
  pending : t.pending = s.pending
  out : s.out <+: t.out
  records : s.records <+: t.records
  mem : Memory.wf s.mem = true → Memory.wf t.mem = true
  regs : Registers.wf s.regs = true → Registers.wf t.regs = true
  sems : Semaphores.wf s.sems = true → Semaphores.wf t.sems = true
  errs : s.errs.ok = true → t.errs.ok = true

/-- An outcome keeps what every command keeps. -/
def KeptO (s : State) : Host.Outcome State Fault Refusal → Prop
  | .next t => Kept s t
  | .fault _ => True
  | .refused _ => True

/-- So does a state that may be absent. -/
def KeptS (s : State) (o : Option State) : Prop := ∀ t, o = some t → Kept s t

theorem Kept.refl (s : State) : Kept s s :=
  ⟨rfl, rfl, List.prefix_rfl, List.prefix_rfl, id, id, id, id⟩

theorem Kept.trans {s t u : State} (h : Kept s t) (k : Kept t u) : Kept s u :=
  ⟨k.code.trans h.code, k.pending.trans h.pending, h.out.trans k.out, h.records.trans k.records,
   fun x => k.mem (h.mem x), fun x => k.regs (h.regs x), fun x => k.sems (h.sems x), fun x => k.errs (h.errs x)⟩

theorem KeptO.next {s t : State} (h : Kept s t) : KeptO s (.next t) := h

theorem KeptS.none {s : State} : KeptS s none := fun _ h => nomatch h

theorem KeptS.some {s t : State} (h : Kept s t) : KeptS s (some t) := fun _ e => by cases e; exact h

theorem foldl_kept {s0 s : State} {α : Type} {f : State → α → State} {l : List α}
    (hf : ∀ t x, Kept s0 t → Kept s0 (f t x)) (h : Kept s0 s) : Kept s0 (l.foldl f s) := by
  induction l generalizing s with
  | nil => exact h
  | cons a l ih => exact ih (hf s a h)

theorem foldl_kept_fst {s0 : State} {α β : Type} {f : State × β → α → State × β} {l : List α} {p : State × β}
    (hf : ∀ t b x, Kept s0 t → Kept s0 (f (t, b) x).1) (h : Kept s0 p.1) : Kept s0 (l.foldl f p).1 := by
  induction l generalizing p with
  | nil => exact h
  | cons a l ih => exact ih (hf p.1 p.2 a h)

theorem foldl_kept_snd {s0 : State} {α β : Type} {f : β × State → α → β × State} {l : List α} {p : β × State}
    (hf : ∀ b t x, Kept s0 t → Kept s0 (f (b, t) x).2) (h : Kept s0 p.2) : Kept s0 (l.foldl f p).2 := by
  induction l generalizing p with
  | nil => exact h
  | cons a l ih => exact ih (hf p.1 p.2 a h)

theorem kept_snd_of_eq {s0 t : State} {α : Type} {p : α × State} {y : α} (e : p = (y, t)) (h : Kept s0 p.2) :
    Kept s0 t := by
  rw [e] at h
  exact h

theorem kept_ite {s0 t u : State} {p : Prop} [Decidable p] (h : Kept s0 t) (k : Kept s0 u) :
    Kept s0 (if p then t else u) := by
  split
  · exact h
  · exact k

theorem kept_ite_fst {s0 : State} {α : Type} {t u : State × α} {p : Prop} [Decidable p] (h : Kept s0 t.1)
    (k : Kept s0 u.1) : Kept s0 (if p then t else u).1 := by
  split
  · exact h
  · exact k

theorem kept_ite_snd {s0 : State} {α : Type} {t u : α × State} {p : Prop} [Decidable p] (h : Kept s0 t.2)
    (k : Kept s0 u.2) : Kept s0 (if p then t else u).2 := by
  split
  · exact h
  · exact k

theorem kept_getD_map {s0 s : State} {α : Type} {f : α → State} {o : Option α} (hf : ∀ x, Kept s0 (f x))
    (h : Kept s0 s) : Kept s0 ((o.map f).getD s) := by
  cases o with
  | none => exact h
  | some x => exact hf x

theorem keptS_map {s0 : State} {α : Type} {f : α → State} {o : Option α} (hf : ∀ x, Kept s0 (f x)) :
    KeptS s0 (o.map f) := by
  cases o with
  | none => exact KeptS.none
  | some x => exact KeptS.some (hf x)

theorem keptS_ite {s0 : State} {t u : Option State} {p : Prop} [Decidable p] (h : KeptS s0 t) (k : KeptS s0 u) :
    KeptS s0 (if p then t else u) := by
  split
  · exact h
  · exact k

/-- A record update that leaves the tables and the buffers as good as they were. -/
theorem Kept.build {s0 s : State} {now : Word} {freeIx : Nat} {regs : FMap Word} {mem : FMap Byte} {bad dirty : KeySet} {harbour : List Nat} {pfLines : FMap Nat} {pf : FMap Prefetcher}
    {wc : FMap (List WcEntry)} {regulators : FMap Regulator} {sems : FMap Word} {trace : List TraceEntry} {tide : Tide}
    {cores : FMap Core} {lives : FMap Live} {errs : Records} {standby : Bool} {fore : FMap (Option FsJob)} {cliff : CliffSt}
    {gulk : Gulk} {est : Est} {tw : TwSt} {jobs : FMap (Option Job)} {sys : Sys} (h : Kept s0 s)
    (hm : Memory.wf s.mem = true → Memory.wf mem = true) (hr : Registers.wf s.regs = true → Registers.wf regs = true)
    (hs : Semaphores.wf s.sems = true → Semaphores.wf sems = true) (he : s.errs.ok = true → errs.ok = true) :
    Kept s0 ⟨s.code, s.pending, now, freeIx, regs, mem, bad, harbour, pfLines, pf, dirty, wc, regulators, sems, trace, tide, s.records,
      cores, lives, errs, standby, fore, cliff, gulk, est, tw, jobs, sys, s.out⟩ :=
  h.trans ⟨rfl, rfl, List.prefix_rfl, List.prefix_rfl, hm, hr, hs, he⟩

/-- A record update that adds to what has left the device. -/
theorem Kept.addOut {s0 s : State} {now : Word} {freeIx : Nat} {bad dirty : KeySet} {harbour : List Nat} {pfLines : FMap Nat} {pf : FMap Prefetcher} {wc : FMap (List WcEntry)}
    {regulators : FMap Regulator} {trace : List TraceEntry} {tide : Tide} {cores : FMap Core} {lives : FMap Live}
    {standby : Bool} {fore : FMap (Option FsJob)} {cliff : CliffSt} {gulk : Gulk} {est : Est} {tw : TwSt}
    {jobs : FMap (Option Job)} {sys : Sys} {l : List Out} (h : Kept s0 s) :
    Kept s0 ⟨s.code, s.pending, now, freeIx, s.regs, s.mem, bad, harbour, pfLines, pf, dirty, wc, regulators, s.sems, trace, tide, s.records,
      cores, lives, s.errs, standby, fore, cliff, gulk, est, tw, jobs, sys, s.out ++ l⟩ :=
  h.trans ⟨rfl, rfl, List.prefix_append _ _, List.prefix_rfl, id, id, id, id⟩

/-- A record update that adds completion records. -/
theorem Kept.addRecords {s0 s : State} {now : Word} {freeIx : Nat} {bad dirty : KeySet} {harbour : List Nat} {pfLines : FMap Nat} {pf : FMap Prefetcher} {wc : FMap (List WcEntry)}
    {regulators : FMap Regulator} {trace : List TraceEntry} {tide : Tide} {cores : FMap Core} {lives : FMap Live}
    {standby : Bool} {fore : FMap (Option FsJob)} {cliff : CliffSt} {gulk : Gulk} {est : Est} {tw : TwSt}
    {jobs : FMap (Option Job)} {sys : Sys} {l : List Completion} (h : Kept s0 s) :
    Kept s0 ⟨s.code, s.pending, now, freeIx, s.regs, s.mem, bad, harbour, pfLines, pf, dirty, wc, regulators, s.sems, trace, tide,
      s.records ++ l, cores, lives, s.errs, standby, fore, cliff, gulk, est, tw, jobs, sys, s.out⟩ :=
  h.trans ⟨rfl, rfl, List.prefix_rfl, List.prefix_append _ _, id, id, id, id⟩

/-- A record update of the parts the relation does not speak of changes nothing for it. -/
theorem Kept.upd {s0 s : State} {now : Word} {freeIx : Nat} {bad dirty : KeySet} {harbour : List Nat} {pfLines : FMap Nat} {pf : FMap Prefetcher} {wc : FMap (List WcEntry)}
    {regulators : FMap Regulator} {trace : List TraceEntry} {tide : Tide} {cores : FMap Core} {lives : FMap Live}
    {standby : Bool} {fore : FMap (Option FsJob)} {cliff : CliffSt} {gulk : Gulk} {est : Est} {tw : TwSt}
    {jobs : FMap (Option Job)} {sys : Sys} :
    Kept s0 ⟨s.code, s.pending, now, freeIx, s.regs, s.mem, bad, harbour, pfLines, pf, dirty, wc, regulators, s.sems, trace, tide, s.records,
      cores, lives, s.errs, standby, fore, cliff, gulk, est, tw, jobs, sys, s.out⟩ ↔ Kept s0 s :=
  ⟨fun ⟨a, b, c, d, e, f, g, h⟩ => ⟨a, b, c, d, e, f, g, h⟩, fun ⟨a, b, c, d, e, f, g, h⟩ => ⟨a, b, c, d, e, f, g, h⟩⟩

/-! ### Memory -/

/-- The entries of a run of bytes: rising, none zero, inside its range. -/
theorem memRun_entries (a : Nat) (bs : List Byte) : (memRun a bs).Pairwise (fun p q => p.1 < q.1) ∧
    ∀ p ∈ memRun a bs, p.2 ≠ 0 ∧ a ≤ p.1 ∧ p.1 < a + bs.length := by
  induction bs generalizing a with
  | nil => simp [memRun]
  | cons b bs ih =>
    obtain ⟨hs, hz⟩ := ih (a + 1)
    simp only [List.length_cons]
    by_cases hb : b = 0
    · rw [memRun, if_pos hb]
      exact ⟨hs, fun p hp => ⟨(hz p hp).1, by have := (hz p hp).2; omega⟩⟩
    · rw [memRun, if_neg hb]
      refine ⟨List.pairwise_cons.2 ⟨fun p hp => by have := (hz p hp).2; simp only; omega, hs⟩, ?_⟩
      intro p hp
      rcases List.mem_cons.1 hp with rfl | hp
      · exact ⟨hb, by simp⟩
      · exact ⟨(hz p hp).1, by have := (hz p hp).2; omega⟩

theorem memWrite_wf {m : FMap Byte} (h : Memory.wf m = true) (a : Nat) (bs : List Byte) :
    Memory.wf (memWrite m a bs) = true := by
  obtain ⟨hs, hz⟩ := (FMap.wf_iff (fun _ => (0 : Byte)) m).1 h
  obtain ⟨rs, rz⟩ := memRun_entries a bs
  unfold memWrite
  split
  · exact h
  refine (FMap.wf_iff (fun _ => (0 : Byte)) _).2 ⟨?_, ?_⟩
  · refine List.pairwise_append.2 ⟨hs.sublist List.filter_sublist, List.pairwise_append.2
      ⟨rs, hs.sublist List.filter_sublist, ?_⟩, ?_⟩
    · intro p hp q hq
      have := (rz p hp).2
      have := of_decide_eq_true (List.mem_filter.1 hq).2
      omega
    · intro p hp q hq
      have := of_decide_eq_true (List.mem_filter.1 hp).2
      rcases List.mem_append.1 hq with hq | hq
      · have := (rz q hq).2
        omega
      · have := of_decide_eq_true (List.mem_filter.1 hq).2
        omega
  · intro p hp
    rcases List.mem_append.1 hp with hp | hp
    · exact hz p (List.mem_filter.1 hp).1
    · rcases List.mem_append.1 hp with hp | hp
      · exact (rz p hp).1
      · exact hz p (List.mem_filter.1 hp).1

/-! ### Semaphores -/

/-- Every semaphore with bit 48 set, in their order, is a canonical table. -/
theorem faultAll_wf (f : Nat → Word) (n : Nat) :
    Semaphores.wf ((List.range n).map (fun i => (i, setBits (f i) 48 48 1))) = true := by
  unfold Semaphores.wf
  rw [FMap.wf_iff]
  constructor
  · rw [List.pairwise_map]
    exact List.pairwise_lt_range
  · intro x hx hz
    obtain ⟨i, -, rfl⟩ := List.mem_map.1 hx
    have := congrArg (fun w => w.getLsbD 48) hz
    simp [setBits, maskOf] at this

/-! ### The buffers of error records (R380, R381) -/

theorem pushSummary_length {l : List Summary} (h : l.length ≤ 32768) (x : Summary) : (pushSummary l x).length ≤ 32768 := by
  unfold pushSummary
  dsimp only
  split <;> simp <;> simp at * <;> omega

theorem foldl_pushSummary_length {k l : List Summary} (h : l.length ≤ 32768) :
    (k.foldl pushSummary l).length ≤ 32768 := by
  induction k generalizing l with
  | nil => exact h
  | cons a k ih => exact ih (pushSummary_length h a)

theorem Records.ok_iff (e : Records) :
    e.ok = true ↔ e.buffered.length ≤ 256 ∧ e.summaries.length ≤ 32768 ∧ e.kept.length ≤ 4096 := by
  simp [Records.ok, and_assoc]

end Sys2Proof.Machine
end

