-- ==== Sys2Proof/Laws/KeptOps.lean ====
section
/-! SUPPORT. That the shared operations of memory, registers, records, the tideline and queues keep what every command keeps (`Kept`): one lemma a definition. -/

namespace Sys2Proof.Machine

/-! ### Ops -/

theorem State.wr_kept {s0 s : State} (h : Kept s0 s) {p r i v} : Kept s0 (State.wr s p r i v) := by
  exact Kept.build h id (fun w => FMap.wf_set w (regKey p r i) v) id id

theorem State.bump_kept {s0 s : State} (h : Kept s0 s) {p r i n} : Kept s0 (State.bump s p r i n) := by
  unfold State.bump
  repeat' first
    | with_reducible assumption
    | with_reducible refine State.wr_kept ?_
    | with_reducible refine foldl_kept ?_ ?_
    | with_reducible refine foldl_kept_fst ?_ ?_
    | with_reducible refine foldl_kept_snd ?_ ?_
    | with_reducible refine kept_ite ?_ ?_

theorem State.draw_kept {s0 s : State} (h : Kept s0 s) : Kept s0 (State.draw s).2 := by
  unfold State.draw
  repeat' first
    | with_reducible assumption
    | with_reducible refine foldl_kept ?_ ?_
    | with_reducible refine foldl_kept_fst ?_ ?_
    | with_reducible refine foldl_kept_snd ?_ ?_
    | with_reducible refine kept_ite ?_ ?_
    | with_reducible refine kept_ite_snd ?_ ?_
    | intro _
    | simp only [Kept.upd]

theorem State.draw_kept_eq {s0 s t9 : State} {y9} (e : State.draw s = (y9, t9)) (h : Kept s0 s) : Kept s0 t9 := by
  have := State.draw_kept h
  rw [e] at this
  exact this

theorem State.bumpFree_kept {s0 s : State} (h : Kept s0 s) {p r i} : Kept s0 (State.bumpFree s p r i) := by
  unfold State.bumpFree
  repeat' first
    | with_reducible assumption
    | with_reducible refine State.bump_kept ?_
    | with_reducible refine State.draw_kept ?_

theorem State.prefetched_kept {s0 s : State} (h : Kept s0 s) {line r k} : Kept s0 (State.prefetched s line r k) := by
  unfold State.prefetched
  repeat' first
    | with_reducible assumption
    | with_reducible refine State.bump_kept ?_
    | with_reducible refine foldl_kept ?_ ?_
    | with_reducible refine foldl_kept_fst ?_ ?_
    | with_reducible refine foldl_kept_snd ?_ ?_
    | with_reducible refine kept_ite ?_ ?_
    | intro _
    | simp only [Kept.upd]
    | dsimp only
    | split

theorem State.setWc_kept {s0 s : State} (h : Kept s0 s) {k l} : Kept s0 (State.setWc s k l) := by
  unfold State.setWc
  repeat' first
    | with_reducible assumption
    | with_reducible refine foldl_kept ?_ ?_
    | with_reducible refine foldl_kept_fst ?_ ?_
    | with_reducible refine foldl_kept_snd ?_ ?_
    | with_reducible refine kept_ite ?_ ?_
    | intro _
    | simp only [Kept.upd]

theorem State.wcFlushed_kept {s0 s : State} (h : Kept s0 s) {k e} : Kept s0 (State.wcFlushed s k e) := by
  unfold State.wcFlushed
  repeat' first
    | with_reducible assumption
    | with_reducible refine State.bump_kept ?_
    | with_reducible refine foldl_kept ?_ ?_
    | with_reducible refine foldl_kept_fst ?_ ?_
    | with_reducible refine foldl_kept_snd ?_ ?_
    | with_reducible refine kept_ite ?_ ?_

theorem State.wcPut_kept {s0 s : State} (h : Kept s0 s) {line m} : Kept s0 (State.wcPut s line m) := by
  unfold State.wcPut
  repeat' first
    | with_reducible assumption
    | with_reducible refine State.setWc_kept ?_
    | with_reducible refine State.wcFlushed_kept ?_
    | with_reducible refine foldl_kept ?_ ?_
    | with_reducible refine foldl_kept_fst ?_ ?_
    | with_reducible refine foldl_kept_snd ?_ ?_
    | with_reducible refine kept_ite ?_ ?_
    | intro _
    | dsimp only
    | split

theorem State.lineBack_kept {s0 s : State} (h : Kept s0 s) {line} : Kept s0 (State.lineBack s line) := by
  unfold State.lineBack
  repeat' first
    | with_reducible assumption
    | with_reducible refine State.wcPut_kept ?_
    | with_reducible refine State.bump_kept ?_
    | with_reducible refine foldl_kept ?_ ?_
    | with_reducible refine foldl_kept_fst ?_ ?_
    | with_reducible refine foldl_kept_snd ?_ ?_
    | with_reducible refine kept_ite ?_ ?_
    | intro _
    | simp only [Kept.upd]
    | dsimp only
    | split

theorem State.lineOut_kept {s0 s : State} (h : Kept s0 s) {line} : Kept s0 (State.lineOut s line) := by
  unfold State.lineOut
  repeat' first
    | with_reducible assumption
    | with_reducible refine State.prefetched_kept ?_
    | with_reducible refine State.lineBack_kept ?_
    | with_reducible refine foldl_kept ?_ ?_
    | with_reducible refine foldl_kept_fst ?_ ?_
    | with_reducible refine foldl_kept_snd ?_ ?_
    | with_reducible refine kept_ite ?_ ?_
    | intro _
    | simp only [Kept.upd]

theorem State.wayFor_kept {s0 s : State} (h : Kept s0 s) {line} : Kept s0 (State.wayFor s line) := by
  unfold State.wayFor
  repeat' first
    | with_reducible assumption
    | with_reducible refine State.lineOut_kept ?_
    | with_reducible refine foldl_kept ?_ ?_
    | with_reducible refine foldl_kept_fst ?_ ?_
    | with_reducible refine foldl_kept_snd ?_ ?_
    | with_reducible refine kept_ite ?_ ?_
    | intro _
    | simp only [Kept.upd]
    | dsimp only
    | split

theorem State.wcTake_kept {s0 s : State} (h : Kept s0 s) {line} : Kept s0 (State.wcTake s line) := by
  unfold State.wcTake
  repeat' first
    | with_reducible assumption
    | with_reducible refine State.setWc_kept ?_
    | with_reducible refine foldl_kept ?_ ?_
    | with_reducible refine foldl_kept_fst ?_ ?_
    | with_reducible refine foldl_kept_snd ?_ ?_
    | with_reducible refine kept_ite ?_ ?_
    | intro _
    | simp only [Kept.upd]
    | dsimp only
    | split

theorem State.lineIn_kept {s0 s : State} (h : Kept s0 s) {line} : Kept s0 (State.lineIn s line) := by
  unfold State.lineIn
  repeat' first
    | with_reducible assumption
    | with_reducible refine State.wayFor_kept ?_
    | with_reducible refine State.wcTake_kept ?_
    | with_reducible refine foldl_kept ?_ ?_
    | with_reducible refine foldl_kept_fst ?_ ?_
    | with_reducible refine foldl_kept_snd ?_ ?_
    | with_reducible refine kept_ite ?_ ?_
    | intro _
    | simp only [Kept.upd]

theorem State.lineUse_kept {s0 s : State} (h : Kept s0 s) {write alloc line} : Kept s0 (State.lineUse s write alloc
    line) := by
  unfold State.lineUse
  repeat' first
    | with_reducible assumption
    | with_reducible refine State.lineIn_kept ?_
    | with_reducible refine State.prefetched_kept ?_
    | with_reducible refine State.bump_kept ?_
    | with_reducible refine foldl_kept ?_ ?_
    | with_reducible refine foldl_kept_fst ?_ ?_
    | with_reducible refine foldl_kept_snd ?_ ?_
    | with_reducible refine kept_ite ?_ ?_
    | intro _
    | simp only [Kept.upd]

theorem State.soil_kept {s0 s : State} (h : Kept s0 s) {a n} : Kept s0 (State.soil s a n) := by
  unfold State.soil
  repeat' first
    | with_reducible assumption
    | with_reducible refine foldl_kept ?_ ?_
    | with_reducible refine foldl_kept_fst ?_ ?_
    | with_reducible refine foldl_kept_snd ?_ ?_
    | with_reducible refine kept_ite ?_ ?_
    | intro _
    | simp only [Kept.upd]

theorem State.poke_kept {s0 s : State} (h : Kept s0 s) {a bs} : Kept s0 (State.poke s a bs) := by
  exact Kept.build h (fun w => memWrite_wf w a bs) id id id

theorem State.store_kept {s0 s : State} (h : Kept s0 s) {a bs} : Kept s0 (State.store s a bs) := by
  unfold State.store
  repeat' first
    | with_reducible assumption
    | with_reducible refine State.lineUse_kept ?_
    | with_reducible refine State.soil_kept ?_
    | with_reducible refine State.poke_kept ?_
    | with_reducible refine foldl_kept ?_ ?_
    | with_reducible refine foldl_kept_fst ?_ ?_
    | with_reducible refine foldl_kept_snd ?_ ?_
    | with_reducible refine kept_ite ?_ ?_
    | intro _

theorem State.bumpAllFree_kept {s0 s : State} (h : Kept s0 s) {p rs} : Kept s0 (State.bumpAllFree s p rs) := by
  unfold State.bumpAllFree
  repeat' first
    | with_reducible assumption
    | with_reducible refine State.bumpFree_kept ?_
    | with_reducible refine foldl_kept ?_ ?_
    | with_reducible refine foldl_kept_fst ?_ ?_
    | with_reducible refine foldl_kept_snd ?_ ?_
    | with_reducible refine kept_ite ?_ ?_
    | intro _

theorem State.setCore_kept {s0 s : State} (h : Kept s0 s) {c k} : Kept s0 (State.setCore s c k) := by
  unfold State.setCore
  repeat' first
    | with_reducible assumption
    | with_reducible refine foldl_kept ?_ ?_
    | with_reducible refine foldl_kept_fst ?_ ?_
    | with_reducible refine foldl_kept_snd ?_ ?_
    | with_reducible refine kept_ite ?_ ?_
    | intro _
    | simp only [Kept.upd]

theorem State.setSem_kept {s0 s : State} (h : Kept s0 s) {scope c i w} : Kept s0 (State.setSem s scope c i w) := by
  unfold State.setSem
  split
  · exact Kept.build h id id (fun k => FMap.wf_set (d := fun _ => (0 : Word)) k i w) id
  · exact State.setCore_kept h

theorem State.semOp_kept {s0 s : State} (h : Kept s0 s) {sub scope c i n trace} : Kept s0 (State.semOp s sub scope
    c i n trace).2 := by
  unfold State.semOp
  repeat' first
    | with_reducible assumption
    | with_reducible refine State.setSem_kept ?_
    | with_reducible refine foldl_kept ?_ ?_
    | with_reducible refine foldl_kept_fst ?_ ?_
    | with_reducible refine foldl_kept_snd ?_ ?_
    | with_reducible refine kept_ite ?_ ?_
    | with_reducible refine kept_ite_snd ?_ ?_
    | intro _
    | simp only [Kept.upd]

theorem State.semOp_kept_eq {s0 s t9 : State} {sub scope c i n trace} {y9} (e : State.semOp s sub scope c i n trace
    = (y9, t9)) (h : Kept s0 s) : Kept s0 t9 := by
  have := State.semOp_kept h (sub := sub) (scope := scope) (c := c) (i := i) (n := n) (trace := trace)
  rw [e] at this
  exact this

theorem State.setFld_kept {s0 s : State} (h : Kept s0 s) {p r i hi lo x} : Kept s0 (State.setFld s p r i hi lo x)
    := by
  unfold State.setFld
  repeat' first
    | with_reducible assumption
    | with_reducible refine State.wr_kept ?_

theorem State.event_kept {s0 s : State} (h : Kept s0 s) {p b} : Kept s0 (State.event s p b) := by
  unfold State.event
  repeat' first
    | with_reducible assumption
    | with_reducible refine State.wr_kept ?_

theorem State.markFaulted_kept {s0 s : State} (h : Kept s0 s) {scope c i} : Kept s0 (State.markFaulted s scope c i)
    := by
  unfold State.markFaulted
  repeat' first
    | with_reducible assumption
    | with_reducible refine State.setSem_kept ?_

theorem State.setQueue_kept {s0 s : State} (h : Kept s0 s) {c q x} : Kept s0 (State.setQueue s c q x) := by
  unfold State.setQueue
  repeat' first
    | with_reducible assumption
    | with_reducible refine State.setCore_kept ?_

theorem State.complete_kept {s0 s : State} (h : Kept s0 s) {id opcode st wm accepted deadline extraKind extra} :
    Kept s0 (State.complete s id opcode st wm accepted deadline extraKind extra) := by
  unfold State.complete
  repeat' first
    | with_reducible assumption
    | with_reducible refine Kept.addRecords ?_

theorem State.goneCount_kept {s0 s : State} (h : Kept s0 s) {st l} : Kept s0 (State.goneCount s st l) := by
  unfold State.goneCount
  repeat' first
    | with_reducible assumption
    | with_reducible refine State.bump_kept ?_
    | with_reducible refine foldl_kept ?_ ?_
    | with_reducible refine foldl_kept_fst ?_ ?_
    | with_reducible refine foldl_kept_snd ?_ ?_
    | with_reducible refine kept_ite ?_ ?_
    | intro _
    | simp only [Kept.upd]
    | dsimp only
    | split

theorem State.ringWrite_kept {s0 s : State} (h : Kept s0 s) {r} : Kept s0 (State.ringWrite s r) := by
  unfold State.ringWrite
  repeat' first
    | with_reducible assumption
    | with_reducible refine State.store_kept ?_

theorem State.summarise_kept {s0 s : State} (h : Kept s0 s) {r} : Kept s0 (State.summarise s r) := by
  unfold State.summarise
  split
  · refine Kept.build h id id id (fun e => ?_)
    rw [Records.ok_iff] at *
    obtain ⟨e1, e2, e3⟩ := e
    by_cases hc : r.cls = 0 <;> by_cases hu : s.tidewatchUp = true <;> by_cases hk : s.errs.kept.length < 4096 <;>
      simp only [hc, hu, hk, if_true, if_false, Bool.false_eq_true]
    all_goals refine ⟨?_, ?_, ?_⟩
    all_goals first
      | assumption
      | exact pushSummary_length e2 _
      | (simp only [List.length_append, List.length_singleton]; omega)
  · exact h

theorem State.commitRecord_kept {s0 s : State} (h : Kept s0 s) {r} : Kept s0 (State.commitRecord s r) := by
  unfold State.commitRecord
  split
  · exact State.summarise_kept (State.bump_kept h)
  · next hb =>
    have h1 : ∀ r' : ErrRec, Kept s0 (if s.ringBase = 0 then { s with errs := { s.errs with buffered :=
    s.errs.buffered ++ [r'] } }
        else s.ringWrite r') := by
      intro r'
      split
      · refine Kept.build h id id id (fun e => ?_)
        rw [Records.ok_iff] at *
        refine ⟨?_, e.2.1, e.2.2⟩
        simp only [List.length_append, List.length_singleton]
        omega
      · exact State.ringWrite_kept h
    repeat' first
      | with_reducible exact h1 _
      | with_reducible refine State.summarise_kept ?_
      | with_reducible refine State.wr_kept ?_
      | with_reducible refine State.bump_kept ?_
      | with_reducible refine State.event_kept ?_
      | with_reducible refine kept_ite ?_ ?_
      | split

theorem State.report_kept {s0 s : State} (h : Kept s0 s) {r} : Kept s0 (State.report s r) := by
  unfold State.report
  have k : ∀ l, Kept s0 { s with errs := { s.errs with held := l } } := fun l =>
    Kept.build h id id id (fun e => by rw [Records.ok_iff] at *; exact e)
  repeat' first
    | with_reducible exact State.commitRecord_kept h
    | with_reducible exact k _
    | with_reducible refine kept_ite ?_ ?_

theorem State.clearCounter_kept {s0 s : State} (h : Kept s0 s) {p r} : Kept s0 (State.clearCounter s p r) := by
  unfold State.clearCounter
  repeat' first
    | with_reducible assumption
    | with_reducible refine State.wr_kept ?_
    | with_reducible refine foldl_kept ?_ ?_
    | with_reducible refine foldl_kept_fst ?_ ?_
    | with_reducible refine foldl_kept_snd ?_ ?_
    | with_reducible refine kept_ite ?_ ?_
    | intro _

theorem State.clearCounters_kept {s0 s : State} (h : Kept s0 s) {p} : Kept s0 (State.clearCounters s p) := by
  unfold State.clearCounters
  repeat' first
    | with_reducible assumption
    | with_reducible refine State.wr_kept ?_
    | with_reducible refine State.clearCounter_kept ?_
    | with_reducible refine foldl_kept ?_ ?_
    | with_reducible refine foldl_kept_fst ?_ ?_
    | with_reducible refine foldl_kept_snd ?_ ?_
    | with_reducible refine kept_ite ?_ ?_
    | intro _
    | dsimp only
    | split

theorem State.storeFree_kept {s0 s : State} (h : Kept s0 s) {a n} : Kept s0 (State.storeFree s a n) := by
  unfold State.storeFree
  repeat' first
    | with_reducible assumption
    | with_reducible refine State.store_kept ?_
    | with_reducible refine foldl_kept ?_ ?_
    | with_reducible refine foldl_kept_fst ?_ ?_
    | with_reducible refine foldl_kept_snd ?_ ?_
    | with_reducible refine kept_ite ?_ ?_
    | intro _
    | simp only [Kept.upd]

theorem State.wrRw_kept {s0 s : State} (h : Kept s0 s) {p r i v} : Kept s0 (State.wrRw s p r i v) := by
  unfold State.wrRw
  repeat' first
    | with_reducible assumption
    | with_reducible refine State.wr_kept ?_

theorem State.awake_kept {s0 s : State} (h : Kept s0 s) {f} (hf : ∀ y0, Kept s0 y0 → Kept s0 (f y0)) : Kept s0
    (State.awake s f) := by
  unfold State.awake
  repeat' first
    | with_reducible assumption
    | with_reducible refine hf _ ?_
    | with_reducible refine foldl_kept ?_ ?_
    | with_reducible refine foldl_kept_fst ?_ ?_
    | with_reducible refine foldl_kept_snd ?_ ?_
    | with_reducible refine kept_ite ?_ ?_

theorem State.ignore_kept {s0 s : State} (h : Kept s0 s) {p} : Kept s0 (State.ignore s p) := by
  unfold State.ignore
  repeat' first
    | with_reducible assumption
    | with_reducible refine State.event_kept ?_
    | with_reducible refine foldl_kept ?_ ?_
    | with_reducible refine foldl_kept_fst ?_ ?_
    | with_reducible refine foldl_kept_snd ?_ ?_
    | with_reducible refine kept_ite ?_ ?_
    | intro _
    | simp only [Kept.upd]
    | dsimp only
    | split

theorem State.contained_kept {s0 s : State} (h : Kept s0 s) {p st a} : Kept s0 (State.contained s p st a) := by
  unfold State.contained
  repeat' first
    | with_reducible assumption
    | with_reducible refine State.report_kept ?_

theorem State.corrected_kept {s0 s : State} (h : Kept s0 s) {p st addr} : Kept s0 (State.corrected s p st addr) := by
  unfold State.corrected
  repeat' first
    | with_reducible assumption
    | with_reducible refine State.report_kept ?_

theorem State.drawBit_kept {s0 s : State} (h : Kept s0 s) {i} : Kept s0 (State.drawBit s i).2 := by
  unfold State.drawBit
  repeat' first
    | with_reducible assumption
    | with_reducible refine foldl_kept ?_ ?_
    | with_reducible refine foldl_kept_fst ?_ ?_
    | with_reducible refine foldl_kept_snd ?_ ?_
    | with_reducible refine kept_ite ?_ ?_
    | with_reducible refine kept_ite_snd ?_ ?_
    | intro _
    | simp only [Kept.upd]

theorem State.drawBit_kept_eq {s0 s t9 : State} {i} {y9} (e : State.drawBit s i = (y9, t9)) (h : Kept s0 s) : Kept
    s0 t9 := by
  have := State.drawBit_kept h (i := i)
  rw [e] at this
  exact this

theorem State.drawUpTo_kept {s0 s : State} (h : Kept s0 s) {limit} : Kept s0 (State.drawUpTo s limit).2 := by
  unfold State.drawUpTo
  repeat' first
    | with_reducible assumption
    | with_reducible refine State.draw_kept ?_

theorem State.drawUpTo_kept_eq {s0 s t9 : State} {limit} {y9} (e : State.drawUpTo s limit = (y9, t9)) (h : Kept s0
    s) : Kept s0 t9 := by
  have := State.drawUpTo_kept h (limit := limit)
  rw [e] at this
  exact this

theorem State.scramble_kept {s0 s : State} (h : Kept s0 s) {a n} : Kept s0 (State.scramble s a n) := by
  unfold State.scramble
  repeat' first
    | with_reducible assumption
    | with_reducible refine State.poke_kept ?_
    | with_reducible refine foldl_kept ?_ ?_
    | with_reducible refine foldl_kept_fst ?_ ?_
    | with_reducible refine foldl_kept_snd ?_ ?_
    | with_reducible refine kept_ite ?_ ?_
    | intro _
    | simp only [Kept.upd]

theorem State.noted_kept {s0 s : State} (h : Kept s0 s) {p st} : Kept s0 (State.noted s p st) := by
  unfold State.noted
  repeat' first
    | with_reducible assumption
    | with_reducible refine State.report_kept ?_

/-! ### Traffic -/

theorem State.traffic_kept {s0 s : State} (h : Kept s0 s) {cl a lines} : Kept s0 (State.traffic s cl a lines) := by
  unfold State.traffic
  repeat' first
    | with_reducible assumption
    | with_reducible refine State.bumpAllFree_kept ?_
    | with_reducible refine State.bumpFree_kept ?_
    | with_reducible refine foldl_kept ?_ ?_
    | with_reducible refine foldl_kept_fst ?_ ?_
    | with_reducible refine foldl_kept_snd ?_ ?_
    | with_reducible refine kept_ite ?_ ?_
    | intro _
    | simp only [Kept.upd]
    | dsimp only
    | split

theorem State.coreReads_kept {s0 s : State} (h : Kept s0 s) {c line} : Kept s0 (State.coreReads s c line) := by
  unfold State.coreReads
  repeat' first
    | with_reducible assumption
    | with_reducible refine foldl_kept ?_ ?_
    | with_reducible refine foldl_kept_fst ?_ ?_
    | with_reducible refine foldl_kept_snd ?_ ?_
    | with_reducible refine kept_ite ?_ ?_
    | intro _
    | simp only [Kept.upd]

theorem State.reads_kept {s0 s : State} (h : Kept s0 s) {cl a n} : Kept s0 (State.reads s cl a n) := by
  unfold State.reads
  repeat' first
    | with_reducible assumption
    | with_reducible refine State.lineUse_kept ?_
    | with_reducible refine State.traffic_kept ?_
    | with_reducible refine foldl_kept ?_ ?_
    | with_reducible refine foldl_kept_fst ?_ ?_
    | with_reducible refine foldl_kept_snd ?_ ?_
    | with_reducible refine kept_ite ?_ ?_
    | intro _

theorem State.readsBy_kept {s0 s : State} (h : Kept s0 s) {c cl a n} : Kept s0 (State.readsBy s c cl a n) := by
  unfold State.readsBy
  repeat' first
    | with_reducible assumption
    | with_reducible refine State.coreReads_kept ?_
    | with_reducible refine State.reads_kept ?_
    | with_reducible refine foldl_kept ?_ ?_
    | with_reducible refine foldl_kept_fst ?_ ?_
    | with_reducible refine foldl_kept_snd ?_ ?_
    | with_reducible refine kept_ite ?_ ?_
    | intro _

/-! ### Wire -/

theorem State.emit_kept {s0 s : State} (h : Kept s0 s) {o} : Kept s0 (State.emit s o) := by
  unfold State.emit
  repeat' first
    | with_reducible assumption
    | with_reducible refine Kept.addOut ?_

theorem State.setQp_kept {s0 s : State} (h : Kept s0 s) {n q} : Kept s0 (State.setQp s n q) := by
  unfold State.setQp
  repeat' first
    | with_reducible assumption
    | with_reducible refine foldl_kept ?_ ?_
    | with_reducible refine foldl_kept_fst ?_ ?_
    | with_reducible refine foldl_kept_snd ?_ ?_
    | with_reducible refine kept_ite ?_ ?_
    | intro _
    | simp only [Kept.upd]

theorem State.ctxLook_kept {s0 s : State} (h : Kept s0 s) {n packets} : Kept s0 (State.ctxLook s n packets).2 := by
  unfold State.ctxLook
  repeat' first
    | with_reducible assumption
    | with_reducible refine State.bump_kept ?_
    | with_reducible refine foldl_kept ?_ ?_
    | with_reducible refine foldl_kept_fst ?_ ?_
    | with_reducible refine foldl_kept_snd ?_ ?_
    | with_reducible refine kept_ite ?_ ?_
    | with_reducible refine kept_ite_snd ?_ ?_
    | intro _
    | simp only [Kept.upd]

theorem State.ctxLook_kept_eq {s0 s t9 : State} {n packets} {y9} (e : State.ctxLook s n packets = (y9, t9)) (h :
    Kept s0 s) : Kept s0 t9 := by
  have := State.ctxLook_kept h (n := n) (packets := packets)
  rw [e] at this
  exact this

theorem State.marked_kept {s0 s : State} (h : Kept s0 s) {n ce} : Kept s0 (State.marked s n ce) := by
  unfold State.marked
  repeat' first
    | with_reducible assumption
    | with_reducible refine State.setQp_kept ?_
    | with_reducible refine State.bump_kept ?_
    | with_reducible refine State.emit_kept ?_
    | with_reducible refine foldl_kept ?_ ?_
    | with_reducible refine foldl_kept_fst ?_ ?_
    | with_reducible refine foldl_kept_snd ?_ ?_
    | with_reducible refine kept_ite ?_ ?_
    | intro _
    | dsimp only
    | split

theorem State.ackOn_kept {s0 s : State} (h : Kept s0 s) {p seq good} : Kept s0 (State.ackOn s p seq good) := by
  unfold State.ackOn
  repeat' first
    | with_reducible assumption
    | with_reducible refine State.emit_kept ?_
    | with_reducible refine State.bumpFree_kept ?_

theorem State.sentOn_kept {s0 s : State} (h : Kept s0 s) {p} : Kept s0 (State.sentOn s p) := by
  unfold State.sentOn
  repeat' first
    | with_reducible assumption
    | with_reducible refine State.bump_kept ?_

theorem State.sentTo_kept {s0 s : State} (h : Kept s0 s) {k} : Kept s0 (State.sentTo s k) := by
  unfold State.sentTo
  repeat' first
    | with_reducible assumption
    | with_reducible refine State.sentOn_kept ?_
    | with_reducible refine foldl_kept ?_ ?_
    | with_reducible refine foldl_kept_fst ?_ ?_
    | with_reducible refine foldl_kept_snd ?_ ?_
    | with_reducible refine kept_ite ?_ ?_
    | intro _
    | simp only [Kept.upd]
    | dsimp only
    | split

theorem State.pumpSems_kept {s0 s : State} (h : Kept s0 s) {x1 x2} : Kept s0 (State.pumpSems s x1 x2) := by
  induction x1 generalizing s x2 with
  | nil =>
    unfold State.pumpSems
    repeat' first
      | with_reducible assumption
      | with_reducible refine State.sentTo_kept ?_
      | with_reducible refine State.emit_kept ?_
      | with_reducible refine foldl_kept ?_ ?_
      | with_reducible refine foldl_kept_fst ?_ ?_
      | with_reducible refine foldl_kept_snd ?_ ?_
      | with_reducible refine kept_ite ?_ ?_
      | intro _
      | simp only [Kept.upd]
  | cons a l ih =>
    unfold State.pumpSems
    repeat' first
      | with_reducible assumption
      | with_reducible refine ih ?_
      | with_reducible refine State.sentTo_kept ?_
      | with_reducible refine State.emit_kept ?_
      | with_reducible refine foldl_kept ?_ ?_
      | with_reducible refine foldl_kept_fst ?_ ?_
      | with_reducible refine foldl_kept_snd ?_ ?_
      | with_reducible refine kept_ite ?_ ?_
      | intro _
      | simp only [Kept.upd]

theorem State.sendSem_kept {s0 s : State} (h : Kept s0 s) {peer op index amount} : Kept s0 (State.sendSem s peer op
    index amount) := by
  unfold State.sendSem
  repeat' first
    | with_reducible assumption
    | with_reducible refine State.pumpSems_kept ?_

theorem State.send_kept {s0 s : State} (h : Kept s0 s) {n req w} : Kept s0 (State.send s n req w) := by
  unfold State.send
  repeat' first
    | with_reducible assumption
    | with_reducible refine State.bump_kept ?_
    | with_reducible refine State.emit_kept ?_
    | with_reducible refine State.setQp_kept ?_
    | with_reducible refine foldl_kept ?_ ?_
    | with_reducible refine foldl_kept_fst ?_ ?_
    | with_reducible refine foldl_kept_snd ?_ ?_
    | with_reducible refine kept_ite ?_ ?_
    | intro _
    | dsimp only
    | split

theorem State.msgError_kept {s0 s : State} (h : Kept s0 s) {qp id st wmUnit wm further} : Kept s0 (State.msgError s
    qp id st wmUnit wm further) := by
  unfold State.msgError
  repeat' first
    | with_reducible assumption
    | with_reducible refine State.report_kept ?_

theorem State.respond_kept {s0 s : State} (h : Kept s0 s) {k r st wmUnit wm body writes} : Kept s0 (State.respond s
    k r st wmUnit wm body writes) := by
  unfold State.respond
  repeat' first
    | with_reducible assumption
    | with_reducible refine Kept.addRecords ?_
    | with_reducible refine State.send_kept ?_
    | with_reducible refine State.msgError_kept ?_
    | with_reducible refine foldl_kept ?_ ?_
    | with_reducible refine foldl_kept_fst ?_ ?_
    | with_reducible refine foldl_kept_snd ?_ ?_
    | with_reducible refine kept_ite ?_ ?_
    | intro _
    | dsimp only
    | split

theorem State.holds_kept {s0 s : State} (h : Kept s0 s) {n packets i} : Kept s0 (State.holds s n packets i) := by
  unfold State.holds
  repeat' first
    | with_reducible assumption
    | with_reducible refine State.bump_kept ?_
    | with_reducible refine foldl_kept ?_ ?_
    | with_reducible refine foldl_kept_fst ?_ ?_
    | with_reducible refine foldl_kept_snd ?_ ?_
    | with_reducible refine kept_ite ?_ ?_
    | intro _
    | simp only [Kept.upd]

theorem State.heard_kept {s0 s : State} (h : Kept s0 s) {n bytes i f} (hf : ∀ y0, Kept s0 y0 → Kept s0 (f y0)) :
    Kept s0 (State.heard s n bytes i f) := by
  unfold State.heard
  repeat' first
    | with_reducible assumption
    | with_reducible refine hf _ ?_
    | with_reducible refine State.holds_kept ?_
    | with_reducible refine State.bump_kept ?_
    | with_reducible refine foldl_kept ?_ ?_
    | with_reducible refine foldl_kept_fst ?_ ?_
    | with_reducible refine foldl_kept_snd ?_ ?_
    | with_reducible refine kept_ite ?_ ?_
    | intro _
    | simp only [Kept.upd]
    | dsimp only
    | split

theorem State.semsAcked_kept {s0 s : State} (h : Kept s0 s) {peer} : Kept s0 (State.semsAcked s peer) := by
  unfold State.semsAcked
  repeat' first
    | with_reducible assumption
    | with_reducible refine State.pumpSems_kept ?_
    | with_reducible refine foldl_kept ?_ ?_
    | with_reducible refine foldl_kept_fst ?_ ?_
    | with_reducible refine foldl_kept_snd ?_ ?_
    | with_reducible refine kept_ite ?_ ?_
    | intro _
    | simp only [Kept.upd]

theorem State.ctxFill_kept {s0 s : State} (h : Kept s0 s) {n} : Kept s0 (State.ctxFill s n) := by
  unfold State.ctxFill
  repeat' first
    | with_reducible assumption
    | with_reducible refine foldl_kept ?_ ?_
    | with_reducible refine foldl_kept_fst ?_ ?_
    | with_reducible refine foldl_kept_snd ?_ ?_
    | with_reducible refine kept_ite ?_ ?_
    | intro _
    | simp only [Kept.upd]

theorem State.qpError_kept {s0 s : State} (h : Kept s0 s) {n} : Kept s0 (State.qpError s n) := by
  unfold State.qpError
  repeat' first
    | with_reducible assumption
    | with_reducible refine State.setQp_kept ?_
    | with_reducible refine State.event_kept ?_
    | with_reducible refine State.msgError_kept ?_
    | with_reducible refine State.report_kept ?_
    | with_reducible refine foldl_kept ?_ ?_
    | with_reducible refine foldl_kept_fst ?_ ?_
    | with_reducible refine foldl_kept_snd ?_ ?_
    | with_reducible refine kept_ite ?_ ?_
    | intro _
    | dsimp only
    | split

theorem State.resend_kept {s0 s : State} (h : Kept s0 s) {n} : Kept s0 (State.resend s n) := by
  unfold State.resend
  repeat' first
    | with_reducible assumption
    | with_reducible refine State.bump_kept ?_
    | with_reducible refine State.emit_kept ?_
    | with_reducible refine State.setQp_kept ?_
    | with_reducible refine foldl_kept ?_ ?_
    | with_reducible refine foldl_kept_fst ?_ ?_
    | with_reducible refine foldl_kept_snd ?_ ?_
    | with_reducible refine kept_ite ?_ ?_
    | intro _
    | dsimp only
    | split

/-! ### Tideline -/

theorem State.beginTick_kept {s0 s : State} (h : Kept s0 s) {start} : Kept s0 (State.beginTick s start) := by
  unfold State.beginTick
  repeat' first
    | with_reducible assumption
    | with_reducible refine State.wr_kept ?_
    | with_reducible refine State.setFld_kept ?_
    | with_reducible refine foldl_kept ?_ ?_
    | with_reducible refine foldl_kept_fst ?_ ?_
    | with_reducible refine foldl_kept_snd ?_ ?_
    | with_reducible refine kept_ite ?_ ?_
    | intro _
    | simp only [Kept.upd]

theorem State.tickConfig_kept {s0 s : State} (h : Kept s0 s) {cfg v} : Kept s0 (State.tickConfig s cfg v) := by
  unfold State.tickConfig
  repeat' first
    | with_reducible assumption
    | with_reducible refine foldl_kept ?_ ?_
    | with_reducible refine foldl_kept_fst ?_ ?_
    | with_reducible refine foldl_kept_snd ?_ ?_
    | with_reducible refine kept_ite ?_ ?_
    | intro _
    | simp only [Kept.upd]

theorem State.tickCfgWrite_kept {s0 s : State} (h : Kept s0 s) {v} : Kept s0 (State.tickCfgWrite s v) := by
  unfold State.tickCfgWrite
  repeat' first
    | with_reducible assumption
    | with_reducible refine State.tickConfig_kept ?_
    | with_reducible refine State.wrRw_kept ?_

theorem State.tickinPeriodWrite_kept {s0 s : State} (h : Kept s0 s) {v} : Kept s0 (State.tickinPeriodWrite s v) := by
  unfold State.tickinPeriodWrite
  repeat' first
    | with_reducible assumption
    | with_reducible refine State.tickConfig_kept ?_
    | with_reducible refine State.wrRw_kept ?_
    | with_reducible refine foldl_kept ?_ ?_
    | with_reducible refine foldl_kept_fst ?_ ?_
    | with_reducible refine foldl_kept_snd ?_ ?_
    | with_reducible refine kept_ite ?_ ?_

theorem State.setDisc_kept {s0 s : State} (h : Kept s0 s) {x} : Kept s0 (State.setDisc s x) := by
  unfold State.setDisc
  repeat' first
    | with_reducible assumption
    | with_reducible refine State.event_kept ?_
    | with_reducible refine State.setFld_kept ?_
    | with_reducible refine foldl_kept ?_ ?_
    | with_reducible refine foldl_kept_fst ?_ ?_
    | with_reducible refine foldl_kept_snd ?_ ?_
    | with_reducible refine kept_ite ?_ ?_

theorem State.discCtrlWrite_kept {s0 s : State} (h : Kept s0 s) {v} : Kept s0 (State.discCtrlWrite s v) := by
  unfold State.discCtrlWrite
  repeat' first
    | with_reducible assumption
    | with_reducible refine State.setDisc_kept ?_
    | with_reducible refine State.wrRw_kept ?_
    | with_reducible refine foldl_kept ?_ ?_
    | with_reducible refine foldl_kept_fst ?_ ?_
    | with_reducible refine foldl_kept_snd ?_ ?_
    | with_reducible refine kept_ite ?_ ?_
    | intro _
    | simp only [Kept.upd]

theorem State.disciplined_kept {s0 s : State} (h : Kept s0 s) {u off} : Kept s0 (State.disciplined s u off) := by
  unfold State.disciplined
  repeat' first
    | with_reducible assumption
    | with_reducible refine State.setDisc_kept ?_
    | with_reducible refine State.event_kept ?_
    | with_reducible refine State.draw_kept ?_
    | with_reducible refine State.draw_kept_eq (by assumption) ?_
    | with_reducible refine State.setFld_kept ?_
    | with_reducible refine foldl_kept ?_ ?_
    | with_reducible refine foldl_kept_fst ?_ ?_
    | with_reducible refine foldl_kept_snd ?_ ?_
    | with_reducible refine kept_ite ?_ ?_
    | intro _
    | simp only [Kept.upd]

theorem State.edgeMeasured_kept {s0 s : State} (h : Kept s0 s) {expected at_} : Kept s0 (State.edgeMeasured s
    expected at_) := by
  unfold State.edgeMeasured
  repeat' first
    | with_reducible assumption
    | with_reducible refine State.draw_kept ?_
    | with_reducible refine State.draw_kept_eq (by assumption) ?_
    | with_reducible refine State.disciplined_kept ?_
    | with_reducible refine foldl_kept ?_ ?_
    | with_reducible refine foldl_kept_fst ?_ ?_
    | with_reducible refine foldl_kept_snd ?_ ?_
    | with_reducible refine kept_ite ?_ ?_
    | intro _
    | simp only [Kept.upd]

theorem State.tickEdge_kept {s0 s : State} (h : Kept s0 s) {at_} : Kept s0 (State.tickEdge s at_).2 := by
  unfold State.tickEdge
  repeat' first
    | with_reducible assumption
    | with_reducible refine State.event_kept ?_
    | with_reducible refine State.beginTick_kept ?_
    | with_reducible refine foldl_kept ?_ ?_
    | with_reducible refine foldl_kept_fst ?_ ?_
    | with_reducible refine foldl_kept_snd ?_ ?_
    | with_reducible refine kept_ite ?_ ?_
    | with_reducible refine kept_ite_snd ?_ ?_
    | intro _
    | simp only [Kept.upd]

theorem State.tickEdge_kept_eq {s0 s t9 : State} {at_} {y9} (e : State.tickEdge s at_ = (y9, t9)) (h : Kept s0 s) :
    Kept s0 t9 := by
  have := State.tickEdge_kept h (at_ := at_)
  rw [e] at this
  exact this

theorem State.edgeComes_kept {s0 s : State} (h : Kept s0 s) {at_} : Kept s0 (State.edgeComes s at_).2 := by
  unfold State.edgeComes
  repeat' first
    | with_reducible assumption
    | with_reducible refine State.edgeMeasured_kept ?_
    | with_reducible refine State.tickEdge_kept ?_
    | with_reducible refine State.tickEdge_kept_eq (by assumption) ?_
    | with_reducible refine foldl_kept ?_ ?_
    | with_reducible refine foldl_kept_fst ?_ ?_
    | with_reducible refine foldl_kept_snd ?_ ?_
    | with_reducible refine kept_ite ?_ ?_
    | with_reducible refine kept_ite_snd ?_ ?_

theorem State.edgeComes_kept_eq {s0 s t9 : State} {at_} {y9} (e : State.edgeComes s at_ = (y9, t9)) (h : Kept s0 s)
    : Kept s0 t9 := by
  have := State.edgeComes_kept h (at_ := at_)
  rw [e] at this
  exact this

theorem State.measured_kept {s0 s : State} (h : Kept s0 s) {port off} : Kept s0 (State.measured s port off) := by
  unfold State.measured
  repeat' first
    | with_reducible assumption
    | with_reducible refine State.disciplined_kept ?_
    | with_reducible refine foldl_kept ?_ ?_
    | with_reducible refine foldl_kept_fst ?_ ?_
    | with_reducible refine foldl_kept_snd ?_ ?_
    | with_reducible refine kept_ite ?_ ?_

theorem State.nextSlot_kept {s0 s : State} (h : Kept s0 s) : Kept s0 (State.nextSlot s) := by
  unfold State.nextSlot
  repeat' first
    | with_reducible assumption
    | with_reducible refine State.setFld_kept ?_
    | with_reducible refine foldl_kept ?_ ?_
    | with_reducible refine foldl_kept_fst ?_ ?_
    | with_reducible refine foldl_kept_snd ?_ ?_
    | with_reducible refine kept_ite ?_ ?_

theorem State.tickInternal_kept {s0 s : State} (h : Kept s0 s) : Kept s0 (State.tickInternal s).2 := by
  unfold State.tickInternal
  repeat' first
    | with_reducible assumption
    | with_reducible refine State.beginTick_kept ?_
    | with_reducible refine foldl_kept ?_ ?_
    | with_reducible refine foldl_kept_fst ?_ ?_
    | with_reducible refine foldl_kept_snd ?_ ?_
    | with_reducible refine kept_ite ?_ ?_
    | with_reducible refine kept_ite_snd ?_ ?_
    | intro _
    | dsimp only
    | split

theorem State.tickInternal_kept_eq {s0 s t9 : State} {y9} (e : State.tickInternal s = (y9, t9)) (h : Kept s0 s) :
    Kept s0 t9 := by
  have := State.tickInternal_kept h
  rw [e] at this
  exact this

theorem State.tickWindow_kept {s0 s : State} (h : Kept s0 s) : Kept s0 (State.tickWindow s).2 := by
  unfold State.tickWindow
  repeat' first
    | with_reducible assumption
    | with_reducible refine State.setFld_kept ?_
    | with_reducible refine State.beginTick_kept ?_
    | with_reducible refine State.event_kept ?_
    | with_reducible refine foldl_kept ?_ ?_
    | with_reducible refine foldl_kept_fst ?_ ?_
    | with_reducible refine foldl_kept_snd ?_ ?_
    | with_reducible refine kept_ite ?_ ?_
    | with_reducible refine kept_ite_snd ?_ ?_
    | intro _
    | simp only [Kept.upd]

theorem State.tickWindow_kept_eq {s0 s t9 : State} {y9} (e : State.tickWindow s = (y9, t9)) (h : Kept s0 s) : Kept
    s0 t9 := by
  have := State.tickWindow_kept h
  rw [e] at this
  exact this

theorem execPpsOut_kept {s0 s : State} (h : Kept s0 s) : KeptO s0 (execPpsOut s) := by
  unfold execPpsOut
  repeat' first
    | with_reducible assumption
    | with_reducible refine KeptO.next ?_
    | with_reducible refine foldl_kept ?_ ?_
    | with_reducible refine foldl_kept_fst ?_ ?_
    | with_reducible refine foldl_kept_snd ?_ ?_
    | with_reducible refine kept_ite ?_ ?_
    | intro _
    | simp only [Kept.upd]

theorem execTidelineRecord_kept {s0 s : State} (h : Kept s0 s) : KeptO s0 (execTidelineRecord s) := by
  unfold execTidelineRecord
  repeat' first
    | with_reducible assumption
    | with_reducible refine KeptO.next ?_
    | with_reducible refine foldl_kept ?_ ?_
    | with_reducible refine foldl_kept_fst ?_ ?_
    | with_reducible refine foldl_kept_snd ?_ ?_
    | with_reducible refine kept_ite ?_ ?_
    | intro _
    | simp only [Kept.upd]

theorem execReferenceLost_kept {s0 s : State} (h : Kept s0 s) : KeptO s0 (execReferenceLost s) := by
  unfold execReferenceLost
  repeat' first
    | with_reducible assumption
    | with_reducible refine KeptO.next ?_
    | with_reducible refine State.setDisc_kept ?_
    | with_reducible refine foldl_kept ?_ ?_
    | with_reducible refine foldl_kept_fst ?_ ?_
    | with_reducible refine foldl_kept_snd ?_ ?_
    | with_reducible refine kept_ite ?_ ?_
    | intro _
    | simp only [Kept.upd]

theorem execReferenceMeasurement_kept {s0 s : State} (h : Kept s0 s) {port off} : KeptO s0
    (execReferenceMeasurement port off s) := by
  unfold execReferenceMeasurement
  repeat' first
    | with_reducible assumption
    | with_reducible refine KeptO.next ?_
    | with_reducible refine State.measured_kept ?_

theorem execTickCfgWrite_kept {s0 s : State} (h : Kept s0 s) {v} : KeptO s0 (execTickCfgWrite v s) := by
  unfold execTickCfgWrite
  repeat' first
    | with_reducible assumption
    | with_reducible refine KeptO.next ?_
    | with_reducible refine State.tickCfgWrite_kept ?_
    | with_reducible refine foldl_kept ?_ ?_
    | with_reducible refine foldl_kept_fst ?_ ?_
    | with_reducible refine foldl_kept_snd ?_ ?_
    | with_reducible refine kept_ite ?_ ?_

theorem execTickinPeriodWrite_kept {s0 s : State} (h : Kept s0 s) {v} : KeptO s0 (execTickinPeriodWrite v s) := by
  unfold execTickinPeriodWrite
  repeat' first
    | with_reducible assumption
    | with_reducible refine KeptO.next ?_
    | with_reducible refine State.tickinPeriodWrite_kept ?_
    | with_reducible refine foldl_kept ?_ ?_
    | with_reducible refine foldl_kept_fst ?_ ?_
    | with_reducible refine foldl_kept_snd ?_ ?_
    | with_reducible refine kept_ite ?_ ?_

/-! ### Seq -/

theorem State.fetched_kept {s0 s : State} (h : Kept s0 s) {c q pc} : Kept s0 (State.fetched s c q pc) := by
  unfold State.fetched
  repeat' first
    | with_reducible assumption
    | with_reducible refine State.readsBy_kept ?_
    | with_reducible refine foldl_kept ?_ ?_
    | with_reducible refine foldl_kept_fst ?_ ?_
    | with_reducible refine foldl_kept_snd ?_ ?_
    | with_reducible refine kept_ite ?_ ?_

theorem State.setPc_kept {s0 s : State} (h : Kept s0 s) {c q pc} : Kept s0 (State.setPc s c q pc) := by
  unfold State.setPc
  repeat' first
    | with_reducible assumption
    | with_reducible refine State.setFld_kept ?_

theorem State.issue_kept {s0 s : State} (h : Kept s0 s) {c q f nextPc} : Kept s0 (State.issue s c q f nextPc) := by
  unfold State.issue
  repeat' first
    | with_reducible assumption
    | with_reducible refine State.fetched_kept ?_
    | with_reducible refine State.setPc_kept ?_
    | with_reducible refine State.bump_kept ?_
    | with_reducible refine State.setQueue_kept ?_

theorem State.tileComplete_kept {s0 s : State} (h : Kept s0 s) {c q f st} : Kept s0 (State.tileComplete s c q f st)
    := by
  unfold State.tileComplete
  repeat' first
    | with_reducible assumption
    | with_reducible refine State.complete_kept ?_
    | with_reducible refine foldl_kept ?_ ?_
    | with_reducible refine foldl_kept_fst ?_ ?_
    | with_reducible refine foldl_kept_snd ?_ ?_
    | with_reducible refine kept_ite ?_ ?_

theorem State.performPost_kept {s0 s : State} (h : Kept s0 s) {c f} : Kept s0 (State.performPost s c f).2 := by
  unfold State.performPost
  repeat' first
    | with_reducible assumption
    | with_reducible refine State.semOp_kept ?_
    | with_reducible refine State.semOp_kept_eq (by assumption) ?_
    | with_reducible refine foldl_kept ?_ ?_
    | with_reducible refine foldl_kept_fst ?_ ?_
    | with_reducible refine foldl_kept_snd ?_ ?_
    | with_reducible refine kept_ite ?_ ?_
    | with_reducible refine kept_ite_snd ?_ ?_

theorem State.performPost_kept_eq {s0 s t9 : State} {c f} {y9} (e : State.performPost s c f = (y9, t9)) (h : Kept
    s0 s) : Kept s0 t9 := by
  have := State.performPost_kept h (c := c) (f := f)
  rw [e] at this
  exact this

theorem State.performOwn_kept {s0 s : State} (h : Kept s0 s) {c f} : Kept s0 (State.performOwn s c f).2 := by
  unfold State.performOwn
  repeat' first
    | with_reducible assumption
    | with_reducible refine State.semOp_kept ?_
    | with_reducible refine State.semOp_kept_eq (by assumption) ?_
    | with_reducible refine foldl_kept ?_ ?_
    | with_reducible refine foldl_kept_fst ?_ ?_
    | with_reducible refine foldl_kept_snd ?_ ?_
    | with_reducible refine kept_ite ?_ ?_
    | with_reducible refine kept_ite_snd ?_ ?_

theorem State.performOwn_kept_eq {s0 s t9 : State} {c f} {y9} (e : State.performOwn s c f = (y9, t9)) (h : Kept s0
    s) : Kept s0 t9 := by
  have := State.performOwn_kept h (c := c) (f := f)
  rw [e] at this
  exact this

theorem State.setSc_kept {s0 s : State} (h : Kept s0 s) {c q i v} : Kept s0 (State.setSc s c q i v) := by
  unfold State.setSc
  repeat' first
    | with_reducible assumption
    | with_reducible refine State.wr_kept ?_

theorem State.atEnd_kept {s0 s : State} (h : Kept s0 s) {c q f} : Kept s0 (State.atEnd s c q f) := by
  unfold State.atEnd
  repeat' first
    | with_reducible assumption
    | with_reducible refine State.setSc_kept ?_
    | with_reducible refine State.store_kept ?_
    | with_reducible refine foldl_kept ?_ ?_
    | with_reducible refine foldl_kept_fst ?_ ?_
    | with_reducible refine foldl_kept_snd ?_ ?_
    | with_reducible refine kept_ite ?_ ?_
    | intro _
    | dsimp only
    | split

theorem State.setSlot_kept {s0 s : State} (h : Kept s0 s) {c q j v} : Kept s0 (State.setSlot s c q j v) := by
  unfold State.setSlot
  repeat' first
    | with_reducible assumption
    | with_reducible refine State.wr_kept ?_

theorem State.putBack_kept {s0 s : State} (h : Kept s0 s) {c q f} : Kept s0 (State.putBack s c q f) := by
  unfold State.putBack
  have hw : ∀ (l : List (Nat × Word)) (m : FMap Word), Registers.wf m = true →
      Registers.wf (List.foldl (fun m p => FMap.set (regReset p.1) m p.1 p.2) m l) = true := by
    intro l
    induction l with
    | nil => exact fun m w => w
    | cons a l ih => exact fun m w => ih _ (FMap.wf_set (d := regReset) w a.1 a.2)
  split
  · exact h
  · have k1 : Kept s0 (f.old.mem.foldl (fun (s : State) p => s.store p.1 p.2) s) :=
      foldl_kept (fun t x k => State.store_kept k) h
    revert k1
    generalize f.old.mem.foldl (fun (s : State) p => s.store p.1 p.2) s = u
    intro k1
    have k2 : Kept s0 { u with regs := List.foldl (fun m p => FMap.set (regReset p.1) m p.1 p.2) u.regs f.old.regs
    } :=
      Kept.build k1 id (hw _ _) id id
    have k3 := foldl_kept (f := fun (s : State) p => s.setSlot c q p.1 p.2) (l := f.old.slots)
      (fun t x k => State.setSlot_kept k) k2
    dsimp only
    split
    · exact State.setCore_kept (State.setCore_kept k3)
    · exact State.setCore_kept k3

theorem State.putAllBack_kept {s0 s : State} (h : Kept s0 s) {c q fs} : Kept s0 (State.putAllBack s c q fs) := by
  unfold State.putAllBack
  repeat' first
    | with_reducible assumption
    | with_reducible refine State.putBack_kept ?_
    | with_reducible refine foldl_kept ?_ ?_
    | with_reducible refine foldl_kept_fst ?_ ?_
    | with_reducible refine foldl_kept_snd ?_ ?_
    | with_reducible refine kept_ite ?_ ?_
    | intro _

theorem State.faultAdd_kept {s0 s : State} (h : Kept s0 s) {c scope i} : Kept s0 (State.faultAdd s c scope i) := by
  unfold State.faultAdd
  repeat' first
    | with_reducible assumption
    | with_reducible refine State.markFaulted_kept ?_
    | with_reducible refine State.event_kept ?_
    | with_reducible refine foldl_kept ?_ ?_
    | with_reducible refine foldl_kept_fst ?_ ?_
    | with_reducible refine foldl_kept_snd ?_ ?_
    | with_reducible refine kept_ite ?_ ?_

theorem State.faultPost_kept {s0 s : State} (h : Kept s0 s) {c i} : Kept s0 (State.faultPost s c i) := by
  unfold State.faultPost
  repeat' first
    | with_reducible assumption
    | with_reducible refine State.faultAdd_kept ?_
    | with_reducible refine foldl_kept ?_ ?_
    | with_reducible refine foldl_kept_fst ?_ ?_
    | with_reducible refine foldl_kept_snd ?_ ?_
    | with_reducible refine kept_ite ?_ ?_

theorem State.faultOwn_kept {s0 s : State} (h : Kept s0 s) {c i} : Kept s0 (State.faultOwn s c i) := by
  unfold State.faultOwn
  repeat' first
    | with_reducible assumption
    | with_reducible refine State.faultAdd_kept ?_
    | with_reducible refine State.sendSem_kept ?_
    | with_reducible refine foldl_kept ?_ ?_
    | with_reducible refine foldl_kept_fst ?_ ?_
    | with_reducible refine foldl_kept_snd ?_ ?_
    | with_reducible refine kept_ite ?_ ?_

theorem State.faultAdds_kept {s0 s : State} (h : Kept s0 s) {c i} : Kept s0 (State.faultAdds s c i) := by
  unfold State.faultAdds
  repeat' first
    | with_reducible assumption
    | with_reducible refine State.faultPost_kept ?_
    | with_reducible refine State.faultOwn_kept ?_

theorem State.tileRecord_kept {s0 s : State} (h : Kept s0 s) {c q f st} : Kept s0 (State.tileRecord s c q f st) := by
  unfold State.tileRecord
  repeat' first
    | with_reducible assumption
    | with_reducible refine State.goneCount_kept ?_
    | with_reducible refine State.report_kept ?_

theorem State.failHead_kept {s0 s : State} (h : Kept s0 s) {c q f st acted} : Kept s0 (State.failHead s c q f st
    acted) := by
  unfold State.failHead
  repeat' first
    | with_reducible assumption
    | with_reducible refine State.setPc_kept ?_
    | with_reducible refine State.event_kept ?_
    | with_reducible refine State.putAllBack_kept ?_
    | with_reducible refine State.setQueue_kept ?_
    | with_reducible refine State.faultPost_kept ?_
    | with_reducible refine State.faultAdds_kept ?_
    | with_reducible refine State.tileComplete_kept ?_
    | with_reducible refine State.tileRecord_kept ?_
    | with_reducible refine foldl_kept ?_ ?_
    | with_reducible refine foldl_kept_fst ?_ ?_
    | with_reducible refine foldl_kept_snd ?_ ?_
    | with_reducible refine kept_ite ?_ ?_
    | intro _
    | simp only [Kept.upd]
    | dsimp only
    | split

theorem State.retireHead_kept {s0 s : State} (h : Kept s0 s) {c q f} : Kept s0 (State.retireHead s c q f) := by
  unfold State.retireHead
  repeat' first
    | with_reducible assumption
    | with_reducible refine State.setQueue_kept ?_
    | with_reducible refine State.tileComplete_kept ?_
    | with_reducible refine State.performPost_kept ?_
    | with_reducible refine State.performPost_kept_eq (by assumption) ?_
    | with_reducible refine State.performOwn_kept ?_
    | with_reducible refine State.performOwn_kept_eq (by assumption) ?_
    | with_reducible refine State.atEnd_kept ?_
    | with_reducible refine State.failHead_kept ?_
    | with_reducible refine foldl_kept ?_ ?_
    | with_reducible refine foldl_kept_fst ?_ ?_
    | with_reducible refine foldl_kept_snd ?_ ?_
    | with_reducible refine kept_ite ?_ ?_

theorem State.retire_kept {s0 s : State} (h : Kept s0 s) {c q x1} : Kept s0 (State.retire s c q x1) := by
  induction x1 generalizing s with
  | zero =>
    unfold State.retire
    repeat' first
      | with_reducible assumption
  | succ n ih =>
    unfold State.retire
    repeat' first
      | with_reducible assumption
      | with_reducible refine ih ?_
      | with_reducible refine State.retireHead_kept ?_
      | with_reducible refine foldl_kept ?_ ?_
      | with_reducible refine foldl_kept_fst ?_ ?_
      | with_reducible refine foldl_kept_snd ?_ ?_
      | with_reducible refine kept_ite ?_ ?_
      | intro _
      | simp only [Kept.upd]
      | dsimp only
      | split

theorem State.settleHalt_kept {s0 s : State} (h : Kept s0 s) {c q} : Kept s0 (State.settleHalt s c q) := by
  unfold State.settleHalt
  repeat' first
    | with_reducible assumption
    | with_reducible refine State.setQueue_kept ?_
    | with_reducible refine State.event_kept ?_
    | with_reducible refine foldl_kept ?_ ?_
    | with_reducible refine foldl_kept_fst ?_ ?_
    | with_reducible refine foldl_kept_snd ?_ ?_
    | with_reducible refine kept_ite ?_ ?_

theorem State.applyCtl_kept {s0 s : State} (h : Kept s0 s) {key v} : Kept s0 (State.applyCtl s key v) := by
  have k : ∀ {t : State}, Kept s0 t → ∀ v, Kept s0 { t with regs := FMap.set (regReset key) t.regs key v } := fun {t} h v =>
    Kept.build h id (fun w => FMap.wf_set (d := regReset) w key v) id id
  unfold State.applyCtl
  dsimp only
  split
  · split
    · split
      · split
        · exact k (State.clearCounters_kept h) _
        · exact k h _
      · exact k h _
    · exact k h _
  · exact k h _

theorem State.applyWaiting_kept {s0 s : State} (h : Kept s0 s) {c} : Kept s0 (State.applyWaiting s c) := by
  unfold State.applyWaiting
  exact foldl_kept (fun t x k => State.applyCtl_kept k) (State.setCore_kept h)

theorem State.switchLoads_kept {s0 s : State} (h : Kept s0 s) {c b rows} : Kept s0 (State.switchLoads s c b rows)
    := by
  unfold State.switchLoads
  repeat' first
    | with_reducible assumption
    | with_reducible refine State.setCore_kept ?_

theorem State.switchBlocks_kept {s0 s : State} (h : Kept s0 s) {c y} : Kept s0 (State.switchBlocks s c y) := by
  unfold State.switchBlocks
  repeat' first
    | with_reducible assumption
    | with_reducible refine State.setCore_kept ?_
    | with_reducible refine foldl_kept ?_ ?_
    | with_reducible refine foldl_kept_fst ?_ ?_
    | with_reducible refine foldl_kept_snd ?_ ?_
    | with_reducible refine kept_ite ?_ ?_
    | intro _
    | dsimp only
    | split

theorem State.switchLedge_kept {s0 s : State} (h : Kept s0 s) {c y} : Kept s0 (State.switchLedge s c y) := by
  unfold State.switchLedge
  repeat' first
    | with_reducible assumption
    | with_reducible refine State.setQueue_kept ?_
    | with_reducible refine State.store_kept ?_
    | with_reducible refine State.setCore_kept ?_
    | with_reducible refine foldl_kept ?_ ?_
    | with_reducible refine foldl_kept_fst ?_ ?_
    | with_reducible refine foldl_kept_snd ?_ ?_
    | with_reducible refine kept_ite ?_ ?_
    | intro _

theorem State.saveArea_kept {s0 s : State} (h : Kept s0 s) {c before} : Kept s0 (State.saveArea s c before) := by
  unfold State.saveArea
  repeat' first
    | with_reducible assumption
    | with_reducible refine State.storeFree_kept ?_
    | with_reducible refine foldl_kept ?_ ?_
    | with_reducible refine foldl_kept_fst ?_ ?_
    | with_reducible refine foldl_kept_snd ?_ ?_
    | with_reducible refine kept_ite ?_ ?_
    | intro _

theorem State.reflexWaited_kept {s0 s : State} (h : Kept s0 s) {c y} : Kept s0 (State.reflexWaited s c y) := by
  unfold State.reflexWaited
  repeat' first
    | with_reducible assumption
    | with_reducible refine State.wr_kept ?_
    | with_reducible refine State.event_kept ?_
    | with_reducible refine State.draw_kept ?_
    | with_reducible refine State.draw_kept_eq (by assumption) ?_
    | with_reducible refine foldl_kept ?_ ?_
    | with_reducible refine foldl_kept_fst ?_ ?_
    | with_reducible refine foldl_kept_snd ?_ ?_
    | with_reducible refine kept_ite ?_ ?_

theorem State.switchTo_kept {s0 s : State} (h : Kept s0 s) {c y} : Kept s0 (State.switchTo s c y) := by
  unfold State.switchTo
  repeat' first
    | with_reducible assumption
    | with_reducible refine kept_getD_map ?_ ?_
    | with_reducible refine State.bump_kept ?_
    | with_reducible refine State.switchLoads_kept ?_
    | with_reducible refine State.switchBlocks_kept ?_
    | with_reducible refine State.setCore_kept ?_
    | with_reducible refine State.switchLedge_kept ?_
    | with_reducible refine State.saveArea_kept ?_
    | with_reducible refine State.reflexWaited_kept ?_
    | with_reducible refine foldl_kept ?_ ?_
    | with_reducible refine foldl_kept_fst ?_ ?_
    | with_reducible refine foldl_kept_snd ?_ ?_
    | with_reducible refine kept_ite ?_ ?_
    | intro _

theorem State.handOn_kept {s0 s : State} (h : Kept s0 s) {c h_} : Kept s0 (State.handOn s c h_) := by
  unfold State.handOn
  repeat' first
    | with_reducible assumption
    | with_reducible refine State.switchTo_kept ?_
    | with_reducible refine State.setCore_kept ?_
    | with_reducible refine foldl_kept ?_ ?_
    | with_reducible refine foldl_kept_fst ?_ ?_
    | with_reducible refine foldl_kept_snd ?_ ?_
    | with_reducible refine kept_ite ?_ ?_
    | intro _
    | dsimp only
    | split

theorem State.arbitrate_kept {s0 s : State} (h : Kept s0 s) {c} : Kept s0 (State.arbitrate s c) := by
  unfold State.arbitrate
  repeat' first
    | with_reducible assumption
    | with_reducible refine State.handOn_kept ?_
    | with_reducible refine State.setCore_kept ?_
    | with_reducible refine foldl_kept ?_ ?_
    | with_reducible refine foldl_kept_fst ?_ ?_
    | with_reducible refine foldl_kept_snd ?_ ?_
    | with_reducible refine kept_ite ?_ ?_
    | intro _
    | dsimp only
    | split

theorem State.drainQueue_kept {s0 s : State} (h : Kept s0 s) {c q} : Kept s0 (State.drainQueue s c q) := by
  unfold State.drainQueue
  repeat' first
    | with_reducible assumption
    | with_reducible refine State.retire_kept ?_
    | with_reducible refine State.settleHalt_kept ?_
    | with_reducible refine State.applyWaiting_kept ?_
    | with_reducible refine State.arbitrate_kept ?_

theorem State.release_kept {s0 s : State} (h : Kept s0 s) {c q} : Kept s0 (State.release s c q) := by
  unfold State.release
  repeat' first
    | with_reducible assumption
    | with_reducible refine State.setQueue_kept ?_

theorem State.settle_kept {s0 s : State} (h : Kept s0 s) {x1} : Kept s0 (State.settle s x1) := by
  induction x1 generalizing s with
  | zero =>
    unfold State.settle
    repeat' first
      | with_reducible assumption
  | succ n ih =>
    unfold State.settle
    repeat' first
      | with_reducible assumption
      | with_reducible refine ih ?_
      | with_reducible refine State.release_kept ?_
      | with_reducible refine State.drainQueue_kept ?_
      | with_reducible refine foldl_kept ?_ ?_
      | with_reducible refine foldl_kept_fst ?_ ?_
      | with_reducible refine foldl_kept_snd ?_ ?_
      | with_reducible refine kept_ite ?_ ?_
      | intro _
      | simp only [Kept.upd]
      | dsimp only
      | split

theorem State.queueRuns_kept {s0 s : State} (h : Kept s0 s) {c q fromZero} : Kept s0 (State.queueRuns s c q
    fromZero) := by
  unfold State.queueRuns
  repeat' first
    | with_reducible assumption
    | with_reducible refine State.setQueue_kept ?_
    | with_reducible refine State.arbitrate_kept ?_

theorem State.fastStart_kept {s0 s : State} (h : Kept s0 s) {f b} : Kept s0 (State.fastStart s f b) := by
  unfold State.fastStart
  repeat' first
    | with_reducible assumption
    | with_reducible refine State.setPc_kept ?_
    | with_reducible refine State.queueRuns_kept ?_
    | with_reducible refine State.store_kept ?_
    | with_reducible refine foldl_kept ?_ ?_
    | with_reducible refine foldl_kept_fst ?_ ?_
    | with_reducible refine foldl_kept_snd ?_ ?_
    | with_reducible refine kept_ite ?_ ?_
    | intro _
    | simp only [Kept.upd]

theorem State.fastAnswer_kept {s0 s : State} (h : Kept s0 s) {f b} : Kept s0 (State.fastAnswer s f b) := by
  unfold State.fastAnswer
  repeat' first
    | with_reducible assumption
    | with_reducible refine State.send_kept ?_

theorem State.fastOne_kept {s0 s : State} (h : Kept s0 s) {f} : Kept s0 (State.fastOne s f) := by
  unfold State.fastOne
  repeat' first
    | with_reducible assumption
    | with_reducible refine State.fastStart_kept ?_
    | with_reducible refine State.fastAnswer_kept ?_
    | with_reducible refine foldl_kept ?_ ?_
    | with_reducible refine foldl_kept_fst ?_ ?_
    | with_reducible refine foldl_kept_snd ?_ ?_
    | with_reducible refine kept_ite ?_ ?_
    | intro _
    | simp only [Kept.upd]
    | dsimp only
    | split

theorem State.fastPump_kept {s0 s : State} (h : Kept s0 s) : Kept s0 (State.fastPump s) := by
  unfold State.fastPump
  repeat' first
    | with_reducible assumption
    | with_reducible refine State.fastOne_kept ?_
    | with_reducible refine foldl_kept ?_ ?_
    | with_reducible refine foldl_kept_fst ?_ ?_
    | with_reducible refine foldl_kept_snd ?_ ?_
    | with_reducible refine kept_ite ?_ ?_
    | intro _

theorem State.settled_kept {s0 s : State} (h : Kept s0 s) : Kept s0 (State.settled s) := by
  unfold State.settled
  repeat' first
    | with_reducible assumption
    | with_reducible refine State.settle_kept ?_
    | with_reducible refine State.fastPump_kept ?_

theorem State.issueFailed_kept {s0 s : State} (h : Kept s0 s) {c q i st fatal} : Kept s0 (State.issueFailed s c q i
    st fatal) := by
  unfold State.issueFailed
  repeat' first
    | with_reducible assumption
    | with_reducible refine State.issue_kept ?_
    | with_reducible refine State.drainQueue_kept ?_
    | with_reducible refine State.settled_kept ?_

theorem State.faultSem_kept {s0 s : State} (h : Kept s0 s) {scope c i} : Kept s0 (State.faultSem s scope c i) := by
  unfold State.faultSem
  repeat' first
    | with_reducible assumption
    | with_reducible refine State.markFaulted_kept ?_
    | with_reducible refine State.settled_kept ?_

theorem State.discard_kept {s0 s : State} (h : Kept s0 s) {c q i} : Kept s0 (State.discard s c q i) := by
  unfold State.discard
  repeat' first
    | with_reducible assumption
    | with_reducible refine State.setPc_kept ?_
    | with_reducible refine State.arbitrate_kept ?_
    | with_reducible refine State.settled_kept ?_
    | with_reducible refine State.setQueue_kept ?_
    | with_reducible refine State.fetched_kept ?_
    | with_reducible refine State.faultAdds_kept ?_

theorem State.row_kept {s0 s : State} (h : Kept s0 s) {c q mine run} (hrun : ∀ y0 y1, Kept s0 y0 → Kept s0 (run y0
    y1)) : Kept s0 (State.row s c q mine run) := by
  unfold State.row
  repeat' first
    | with_reducible assumption
    | with_reducible refine hrun _ _ ?_
    | with_reducible refine State.setQueue_kept ?_
    | with_reducible refine State.discard_kept ?_
    | with_reducible refine State.issueFailed_kept ?_
    | with_reducible refine foldl_kept ?_ ?_
    | with_reducible refine foldl_kept_fst ?_ ?_
    | with_reducible refine foldl_kept_snd ?_ ?_
    | with_reducible refine kept_ite ?_ ?_

/-! ### Memory -/

theorem State.reduceAt_kept {s0 s : State} (h : Kept s0 s) {op a bs} : Kept s0 (State.reduceAt s op a bs) := by
  unfold State.reduceAt
  repeat' first
    | with_reducible assumption
    | with_reducible refine State.bump_kept ?_
    | with_reducible refine State.store_kept ?_

theorem State.streamLine_kept {s0 s : State} (h : Kept s0 s) {a n line} : Kept s0 (State.streamLine s a n line) := by
  unfold State.streamLine
  repeat' first
    | with_reducible assumption
    | with_reducible refine State.wcPut_kept ?_
    | with_reducible refine State.soil_kept ?_
    | with_reducible refine State.lineUse_kept ?_
    | with_reducible refine foldl_kept ?_ ?_
    | with_reducible refine foldl_kept_fst ?_ ?_
    | with_reducible refine foldl_kept_snd ?_ ?_
    | with_reducible refine kept_ite ?_ ?_

theorem State.writeRun_kept {s0 s : State} (h : Kept s0 s) {r} : Kept s0 (State.writeRun s r) := by
  unfold State.writeRun
  repeat' first
    | with_reducible assumption
    | with_reducible refine State.store_kept ?_
    | with_reducible refine State.reduceAt_kept ?_
    | with_reducible refine State.poke_kept ?_
    | with_reducible refine State.streamLine_kept ?_
    | with_reducible refine foldl_kept ?_ ?_
    | with_reducible refine foldl_kept_fst ?_ ?_
    | with_reducible refine foldl_kept_snd ?_ ?_
    | with_reducible refine kept_ite ?_ ?_
    | intro _
    | dsimp only
    | split

theorem State.engineWrite_kept {s0 s : State} (h : Kept s0 s) {cl a bs} : Kept s0 (State.engineWrite s cl a bs).2
    := by
  unfold State.engineWrite
  repeat' first
    | with_reducible assumption
    | with_reducible refine State.writeRun_kept ?_
    | with_reducible refine State.traffic_kept ?_
    | with_reducible refine State.poke_kept ?_
    | with_reducible refine foldl_kept ?_ ?_
    | with_reducible refine foldl_kept_fst ?_ ?_
    | with_reducible refine foldl_kept_snd ?_ ?_
    | with_reducible refine kept_ite ?_ ?_
    | with_reducible refine kept_ite_snd ?_ ?_
    | intro _

theorem State.engineWrite_kept_eq {s0 s t9 : State} {cl a bs} {y9} (e : State.engineWrite s cl a bs = (y9, t9)) (h
    : Kept s0 s) : Kept s0 t9 := by
  have := State.engineWrite_kept h (cl := cl) (a := a) (bs := bs)
  rw [e] at this
  exact this

theorem State.passUnits_kept {s0 s : State} (h : Kept s0 s) {c n units sem x1} : Kept s0 (State.passUnits s c n
    units sem x1) := by
  induction x1 generalizing s with
  | zero =>
    unfold State.passUnits
    repeat' first
      | with_reducible assumption
  | succ n ih =>
    unfold State.passUnits
    repeat' first
      | with_reducible assumption
      | with_reducible refine ih ?_
      | with_reducible refine State.semOp_kept ?_
      | with_reducible refine State.semOp_kept_eq (by assumption) ?_
      | with_reducible refine State.setFld_kept ?_
      | with_reducible refine State.setCore_kept ?_
      | with_reducible refine foldl_kept ?_ ?_
      | with_reducible refine foldl_kept_fst ?_ ?_
      | with_reducible refine foldl_kept_snd ?_ ?_
      | with_reducible refine kept_ite ?_ ?_

theorem State.landSector_kept {s0 s : State} (h : Kept s0 s) {c n sec} : Kept s0 (State.landSector s c n sec) := by
  unfold State.landSector
  repeat' first
    | with_reducible assumption
    | with_reducible refine State.passUnits_kept ?_
    | with_reducible refine State.setFld_kept ?_
    | with_reducible refine State.event_kept ?_
    | with_reducible refine State.markFaulted_kept ?_
    | with_reducible refine State.setCore_kept ?_
    | with_reducible refine foldl_kept ?_ ?_
    | with_reducible refine foldl_kept_fst ?_ ?_
    | with_reducible refine foldl_kept_snd ?_ ?_
    | with_reducible refine kept_ite ?_ ?_

theorem State.landPart_kept {s0 s : State} (h : Kept s0 s) {c n sec m} : Kept s0 (State.landPart s c n sec m) := by
  unfold State.landPart
  repeat' first
    | with_reducible assumption
    | with_reducible refine State.setCore_kept ?_
    | with_reducible refine State.landSector_kept ?_
    | with_reducible refine foldl_kept ?_ ?_
    | with_reducible refine foldl_kept_fst ?_ ?_
    | with_reducible refine foldl_kept_snd ?_ ?_
    | with_reducible refine kept_ite ?_ ?_

theorem State.deliver_kept {s0 s : State} (h : Kept s0 s) {c off bs} : Kept s0 (State.deliver s c off bs) := by
  unfold State.deliver
  repeat' first
    | with_reducible assumption
    | with_reducible refine State.landPart_kept ?_
    | with_reducible refine State.poke_kept ?_
    | with_reducible refine foldl_kept ?_ ?_
    | with_reducible refine foldl_kept_fst ?_ ?_
    | with_reducible refine foldl_kept_snd ?_ ?_
    | with_reducible refine kept_ite ?_ ?_
    | intro _

theorem State.hbmRegClassWrite_kept {s0 s : State} (h : Kept s0 s) {k n v} : Kept s0 (State.hbmRegClassWrite s k n
    v) := by
  unfold State.hbmRegClassWrite
  repeat' first
    | with_reducible assumption
    | with_reducible refine State.wrRw_kept ?_
    | with_reducible refine State.ignore_kept ?_
    | with_reducible refine foldl_kept ?_ ?_
    | with_reducible refine foldl_kept_fst ?_ ?_
    | with_reducible refine foldl_kept_snd ?_ ?_
    | with_reducible refine kept_ite ?_ ?_

theorem State.hbRegionWrite_kept {s0 s : State} (h : Kept s0 s) {h_ n size v} : Kept s0 (State.hbRegionWrite s h_ n
    size v) := by
  unfold State.hbRegionWrite
  repeat' first
    | with_reducible assumption
    | with_reducible refine State.ignore_kept ?_
    | with_reducible refine State.wrRw_kept ?_
    | with_reducible refine foldl_kept ?_ ?_
    | with_reducible refine foldl_kept_fst ?_ ?_
    | with_reducible refine foldl_kept_snd ?_ ?_
    | with_reducible refine kept_ite ?_ ?_

theorem State.hbFlush_kept {s0 s : State} (h : Kept s0 s) {h_} : Kept s0 (State.hbFlush s h_) := by
  unfold State.hbFlush
  repeat' first
    | with_reducible assumption
    | with_reducible refine State.setFld_kept ?_

theorem State.writeBackOf_kept {s0 s : State} (h : Kept s0 s) {mine} : Kept s0 (State.writeBackOf s mine) := by
  unfold State.writeBackOf
  repeat' first
    | with_reducible assumption
    | with_reducible refine State.wcPut_kept ?_
    | with_reducible refine foldl_kept ?_ ?_
    | with_reducible refine foldl_kept_fst ?_ ?_
    | with_reducible refine foldl_kept_snd ?_ ?_
    | with_reducible refine kept_ite ?_ ?_
    | intro _
    | simp only [Kept.upd]

theorem State.writeBack_kept {s0 s : State} (h : Kept s0 s) {h_} : Kept s0 (State.writeBack s h_) := by
  unfold State.writeBack
  repeat' first
    | with_reducible assumption
    | with_reducible refine State.bump_kept ?_
    | with_reducible refine State.writeBackOf_kept ?_

theorem State.eccUncorr_kept {s0 s : State} (h : Kept s0 s) {a} : Kept s0 (State.eccUncorr s a) := by
  unfold State.eccUncorr
  repeat' first
    | with_reducible assumption
    | with_reducible refine State.event_kept ?_
    | with_reducible refine foldl_kept ?_ ?_
    | with_reducible refine foldl_kept_fst ?_ ?_
    | with_reducible refine foldl_kept_snd ?_ ?_
    | with_reducible refine kept_ite ?_ ?_

theorem execTempHigh_kept {s0 s : State} (h : Kept s0 s) {k t} : KeptO s0 (execTempHigh k t s) := by
  unfold execTempHigh
  repeat' first
    | with_reducible assumption
    | with_reducible refine KeptO.next ?_
    | with_reducible refine State.event_kept ?_
    | with_reducible refine State.setFld_kept ?_
    | with_reducible refine State.awake_kept ?_ ?_
    | with_reducible refine foldl_kept ?_ ?_
    | with_reducible refine foldl_kept_fst ?_ ?_
    | with_reducible refine foldl_kept_snd ?_ ?_
    | with_reducible refine kept_ite ?_ ?_
    | intro _

theorem execHbmRegClassWrite_kept {s0 s : State} (h : Kept s0 s) {k n v} : KeptO s0 (execHbmRegClassWrite k n v s)
    := by
  unfold execHbmRegClassWrite
  repeat' first
    | with_reducible assumption
    | with_reducible refine KeptO.next ?_
    | with_reducible refine State.hbmRegClassWrite_kept ?_
    | with_reducible refine State.awake_kept ?_ ?_
    | with_reducible refine foldl_kept ?_ ?_
    | with_reducible refine foldl_kept_fst ?_ ?_
    | with_reducible refine foldl_kept_snd ?_ ?_
    | with_reducible refine kept_ite ?_ ?_
    | intro _

theorem execRegulatorWindow_kept {s0 s : State} (h : Kept s0 s) {b} : KeptO s0 (execRegulatorWindow b s) := by
  unfold execRegulatorWindow
  repeat' first
    | with_reducible assumption
    | with_reducible refine KeptO.next ?_
    | with_reducible refine State.awake_kept ?_ ?_
    | with_reducible refine foldl_kept ?_ ?_
    | with_reducible refine foldl_kept_fst ?_ ?_
    | with_reducible refine foldl_kept_snd ?_ ?_
    | with_reducible refine kept_ite ?_ ?_
    | intro _
    | simp only [Kept.upd]

theorem execPrefetchFill_kept {s0 s : State} (h : Kept s0 s) {h_ c o line} : KeptO s0 (execPrefetchFill h_ c o line
    s) := by
  unfold execPrefetchFill
  repeat' first
    | with_reducible assumption
    | with_reducible refine KeptO.next ?_
    | with_reducible refine State.corrected_kept ?_
    | with_reducible refine State.prefetched_kept ?_
    | with_reducible refine State.coreReads_kept ?_
    | with_reducible refine State.lineIn_kept ?_
    | with_reducible refine State.bump_kept ?_
    | with_reducible refine State.traffic_kept ?_
    | with_reducible refine State.awake_kept ?_ ?_
    | with_reducible refine foldl_kept ?_ ?_
    | with_reducible refine foldl_kept_fst ?_ ?_
    | with_reducible refine foldl_kept_snd ?_ ?_
    | with_reducible refine kept_ite ?_ ?_
    | intro _
    | simp only [Kept.upd]
    | dsimp only
    | split

theorem execWcFlush_kept {s0 s : State} (h : Kept s0 s) {k} : KeptO s0 (execWcFlush k s) := by
  unfold execWcFlush
  repeat' first
    | with_reducible assumption
    | with_reducible refine KeptO.next ?_
    | with_reducible refine State.setWc_kept ?_
    | with_reducible refine State.wcFlushed_kept ?_
    | with_reducible refine State.awake_kept ?_ ?_
    | with_reducible refine foldl_kept ?_ ?_
    | with_reducible refine foldl_kept_fst ?_ ?_
    | with_reducible refine foldl_kept_snd ?_ ?_
    | with_reducible refine kept_ite ?_ ?_
    | intro _
    | dsimp only
    | split

theorem execAtomic_kept {s0 s : State} (h : Kept s0 s) {op a v cmp} : KeptO s0 (execAtomic op a v cmp s) := by
  unfold execAtomic
  repeat' first
    | with_reducible assumption
    | with_reducible refine KeptO.next ?_
    | with_reducible refine Kept.addOut ?_
    | with_reducible refine State.bump_kept ?_
    | with_reducible refine State.store_kept ?_
    | with_reducible refine State.traffic_kept ?_
    | with_reducible refine State.eccUncorr_kept ?_
    | with_reducible refine State.contained_kept ?_
    | with_reducible refine State.goneCount_kept ?_
    | with_reducible refine State.awake_kept ?_ ?_
    | with_reducible refine foldl_kept ?_ ?_
    | with_reducible refine foldl_kept_fst ?_ ?_
    | with_reducible refine foldl_kept_snd ?_ ?_
    | with_reducible refine kept_ite ?_ ?_
    | intro _

theorem execHbRegionWrite_kept {s0 s : State} (h : Kept s0 s) {h_ n size v} : KeptO s0 (execHbRegionWrite h_ n size
    v s) := by
  unfold execHbRegionWrite
  repeat' first
    | with_reducible assumption
    | with_reducible refine KeptO.next ?_
    | with_reducible refine State.hbRegionWrite_kept ?_
    | with_reducible refine State.awake_kept ?_ ?_
    | with_reducible refine foldl_kept ?_ ?_
    | with_reducible refine foldl_kept_fst ?_ ?_
    | with_reducible refine foldl_kept_snd ?_ ?_
    | with_reducible refine kept_ite ?_ ?_
    | intro _

theorem execFlushDone_kept {s0 s : State} (h : Kept s0 s) {h_} : KeptO s0 (execFlushDone h_ s) := by
  unfold execFlushDone
  repeat' first
    | with_reducible assumption
    | with_reducible refine KeptO.next ?_
    | with_reducible refine State.writeBack_kept ?_
    | with_reducible refine State.setFld_kept ?_
    | with_reducible refine State.event_kept ?_
    | with_reducible refine State.awake_kept ?_ ?_
    | with_reducible refine foldl_kept ?_ ?_
    | with_reducible refine foldl_kept_fst ?_ ?_
    | with_reducible refine foldl_kept_snd ?_ ?_
    | with_reducible refine kept_ite ?_ ?_
    | intro _

theorem execHbFlush_kept {s0 s : State} (h : Kept s0 s) {h_} : KeptO s0 (execHbFlush h_ s) := by
  unfold execHbFlush
  repeat' first
    | with_reducible assumption
    | with_reducible refine KeptO.next ?_
    | with_reducible refine State.hbFlush_kept ?_
    | with_reducible refine State.awake_kept ?_ ?_
    | with_reducible refine foldl_kept ?_ ?_
    | with_reducible refine foldl_kept_fst ?_ ?_
    | with_reducible refine foldl_kept_snd ?_ ?_
    | with_reducible refine kept_ite ?_ ?_
    | intro _

/-! ### Operands -/

theorem State.writeRows_kept {s0 s : State} (h : Kept s0 s) {f x point a stride m} : Kept s0 (State.writeRows s f x
    point a stride m) := by
  unfold State.writeRows
  repeat' first
    | with_reducible assumption
    | with_reducible refine State.store_kept ?_
    | with_reducible refine foldl_kept ?_ ?_
    | with_reducible refine foldl_kept_fst ?_ ?_
    | with_reducible refine foldl_kept_snd ?_ ?_
    | with_reducible refine kept_ite ?_ ?_
    | intro _

/-! ### Ring -/

theorem State.tailWrite_kept {s0 s : State} (h : Kept s0 s) {p head tail log2 overrun v} : Kept s0 (State.tailWrite
    s p head tail log2 overrun v) := by
  unfold State.tailWrite
  repeat' first
    | with_reducible assumption
    | with_reducible refine State.setFld_kept ?_
    | with_reducible refine State.event_kept ?_
    | with_reducible refine foldl_kept ?_ ?_
    | with_reducible refine foldl_kept_fst ?_ ?_
    | with_reducible refine foldl_kept_snd ?_ ?_
    | with_reducible refine kept_ite ?_ ?_

theorem State.ringCfgWrite_kept {s0 s : State} (h : Kept s0 s) {p head tail r isCfg v} : Kept s0
    (State.ringCfgWrite s p head tail r isCfg v) := by
  unfold State.ringCfgWrite
  repeat' first
    | with_reducible assumption
    | with_reducible refine State.wrRw_kept ?_
    | with_reducible refine State.ignore_kept ?_
    | with_reducible refine foldl_kept ?_ ?_
    | with_reducible refine foldl_kept_fst ?_ ?_
    | with_reducible refine foldl_kept_snd ?_ ?_
    | with_reducible refine kept_ite ?_ ?_

theorem State.ringRecord_kept {s0 s : State} (h : Kept s0 s) {slot id st wm started deadline} : Kept s0
    (State.ringRecord s slot id st wm started deadline) := by
  unfold State.ringRecord
  have k : ∀ bs, Kept s (s.store slot bs) := fun bs => State.store_kept (Kept.refl s)
  exact h.trans ⟨(k _).code, (k _).pending, (k _).out, List.prefix_append _ _, (k _).mem, (k _).regs, (k _).sems, (k _).errs⟩

theorem State.ringError_kept {s0 s : State} (h : Kept s0 s) {p st id wmUnit wm addr deadline} : Kept s0
    (State.ringError s p st id wmUnit wm addr deadline) := by
  unfold State.ringError
  repeat' first
    | with_reducible assumption
    | with_reducible refine State.report_kept ?_
    | with_reducible refine State.eccUncorr_kept ?_
    | with_reducible refine foldl_kept ?_ ?_
    | with_reducible refine foldl_kept_fst ?_ ?_
    | with_reducible refine foldl_kept_snd ?_ ?_
    | with_reducible refine kept_ite ?_ ?_
    | intro _
    | simp only [Kept.upd]
    | dsimp only
    | split

theorem State.jobPost_kept {s0 s : State} (h : Kept s0 s) {st en trace index inc} : Kept s0 (State.jobPost s st en
    trace index inc).2 := by
  unfold State.jobPost
  repeat' first
    | with_reducible assumption
    | with_reducible refine State.faultSem_kept ?_
    | with_reducible refine State.settled_kept ?_
    | with_reducible refine State.semOp_kept ?_
    | with_reducible refine State.semOp_kept_eq (by assumption) ?_
    | with_reducible refine foldl_kept ?_ ?_
    | with_reducible refine foldl_kept_fst ?_ ?_
    | with_reducible refine foldl_kept_snd ?_ ?_
    | with_reducible refine kept_ite ?_ ?_
    | with_reducible refine kept_ite_snd ?_ ?_

theorem State.jobPost_kept_eq {s0 s t9 : State} {st en trace index inc} {y9} (e : State.jobPost s st en trace index
    inc = (y9, t9)) (h : Kept s0 s) : Kept s0 t9 := by
  have := State.jobPost_kept h (st := st) (en := en) (trace := trace) (index := index) (inc := inc)
  rw [e] at this
  exact this

end Sys2Proof.Machine
end

