-- ==== Sys2Proof/Laws/KeptTile.lean ====
section
/-! SUPPORT. That the tile instructions keep what every command keeps (`Kept`): one lemma a definition. -/

namespace Sys2Proof.Machine

/-! ### Chain -/

theorem State.chainWrites_kept {s0 s : State} (h : Kept s0 s) {c l} : Kept s0 (State.chainWrites s c l) := by
  unfold State.chainWrites
  repeat' first
    | with_reducible assumption
    | with_reducible refine State.store_kept ?_
    | with_reducible refine foldl_kept ?_ ?_
    | with_reducible refine foldl_kept_fst ?_ ?_
    | with_reducible refine foldl_kept_snd ?_ ?_
    | with_reducible refine kept_ite ?_ ?_
    | intro _

/-! ### Arrays -/

theorem State.beginLoad_kept {s0 s : State} (h : Kept s0 s) {c x} : Kept s0 (State.beginLoad s c x) := by
  unfold State.beginLoad
  repeat' first
    | with_reducible assumption
    | with_reducible refine State.setCore_kept ?_

theorem State.setFlight_kept {s0 s : State} (h : Kept s0 s) {c q f} : Kept s0 (State.setFlight s c q f) := by
  unfold State.setFlight
  repeat' first
    | with_reducible assumption
    | with_reducible refine State.setQueue_kept ?_

theorem State.beginWaiting_kept {s0 s : State} (h : Kept s0 s) {c ended} : Kept s0 (State.beginWaiting s c ended)
    := by
  unfold State.beginWaiting
  repeat' first
    | with_reducible assumption
    | with_reducible refine State.beginLoad_kept ?_
    | with_reducible refine State.setFlight_kept ?_
    | with_reducible refine foldl_kept ?_ ?_
    | with_reducible refine foldl_kept_fst ?_ ?_
    | with_reducible refine foldl_kept_snd ?_ ?_
    | with_reducible refine kept_ite ?_ ?_
    | intro _
    | simp only [Kept.upd]
    | dsimp only
    | split

theorem State.enterNext_kept {s0 s : State} (h : Kept s0 s) {c q n} : Kept s0 (State.enterNext s c q n) := by
  unfold State.enterNext
  repeat' first
    | with_reducible assumption
    | with_reducible refine State.setCore_kept ?_
    | with_reducible refine State.setFlight_kept ?_
    | with_reducible refine foldl_kept ?_ ?_
    | with_reducible refine foldl_kept_fst ?_ ?_
    | with_reducible refine foldl_kept_snd ?_ ?_
    | with_reducible refine kept_ite ?_ ?_
    | intro _
    | dsimp only
    | split

theorem State.banksMove_kept {s0 s : State} (h : Kept s0 s) {c ended} : Kept s0 (State.banksMove s c ended) := by
  unfold State.banksMove
  repeat' first
    | with_reducible assumption
    | with_reducible refine State.beginWaiting_kept ?_
    | with_reducible refine State.enterNext_kept ?_
    | with_reducible refine foldl_kept ?_ ?_
    | with_reducible refine foldl_kept_fst ?_ ?_
    | with_reducible refine foldl_kept_snd ?_ ?_
    | with_reducible refine kept_ite ?_ ?_
    | intro _

theorem State.passBanks_kept {s0 s : State} (h : Kept s0 s) {c q f stop} : Kept s0 (State.passBanks s c q f stop).1
    := by
  unfold State.passBanks
  repeat' first
    | with_reducible assumption
    | with_reducible refine State.setCore_kept ?_
    | with_reducible refine State.setFlight_kept ?_
    | with_reducible refine State.draw_kept ?_
    | with_reducible refine State.draw_kept_eq (by assumption) ?_
    | with_reducible refine foldl_kept ?_ ?_
    | with_reducible refine foldl_kept_fst ?_ ?_
    | with_reducible refine foldl_kept_snd ?_ ?_
    | with_reducible refine kept_ite ?_ ?_
    | with_reducible refine kept_ite_fst ?_ ?_

theorem State.passBanks_kept_eq {s0 s t9 : State} {c q f stop} {y9} (e : State.passBanks s c q f stop = (t9, y9))
    (h : Kept s0 s) : Kept s0 t9 := by
  have := State.passBanks_kept h (c := c) (q := q) (f := f) (stop := stop)
  rw [e] at this
  exact this

theorem State.leaveArray_kept {s0 s : State} (h : Kept s0 s) {c q f ran} : Kept s0 (State.leaveArray s c q f ran)
    := by
  unfold State.leaveArray
  repeat' first
    | with_reducible assumption
    | with_reducible refine State.passBanks_kept ?_
    | with_reducible refine State.passBanks_kept_eq (by assumption) ?_
    | with_reducible refine State.setCore_kept ?_
    | with_reducible refine foldl_kept ?_ ?_
    | with_reducible refine foldl_kept_fst ?_ ?_
    | with_reducible refine foldl_kept_snd ?_ ?_
    | with_reducible refine kept_ite ?_ ?_

theorem State.scrambleTiles_kept {s0 s : State} (h : Kept s0 s) {c off stride f m n wm} : Kept s0
    (State.scrambleTiles s c off stride f m n wm) := by
  unfold State.scrambleTiles
  repeat' first
    | with_reducible assumption
    | with_reducible refine State.scramble_kept ?_
    | with_reducible refine foldl_kept ?_ ?_
    | with_reducible refine foldl_kept_fst ?_ ?_
    | with_reducible refine foldl_kept_snd ?_ ?_
    | with_reducible refine kept_ite ?_ ?_
    | intro _

theorem State.chainStarts_kept {s0 s : State} (h : Kept s0 s) {c q need} : Kept s0 (State.chainStarts s c q need)
    := by
  unfold State.chainStarts
  repeat' first
    | with_reducible assumption
    | with_reducible refine State.bumpFree_kept ?_
    | with_reducible refine foldl_kept ?_ ?_
    | with_reducible refine foldl_kept_fst ?_ ?_
    | with_reducible refine foldl_kept_snd ?_ ?_
    | with_reducible refine kept_ite ?_ ?_

theorem State.spillStart_kept {s0 s : State} (h : Kept s0 s) {c q x} : Kept s0 (State.spillStart s c q x) := by
  unfold State.spillStart
  repeat' first
    | with_reducible assumption
    | with_reducible refine State.scramble_kept ?_
    | with_reducible refine State.bumpFree_kept ?_
    | with_reducible refine State.event_kept ?_
    | with_reducible refine foldl_kept ?_ ?_
    | with_reducible refine foldl_kept_fst ?_ ?_
    | with_reducible refine foldl_kept_snd ?_ ?_
    | with_reducible refine kept_ite ?_ ?_

theorem State.mmReady_kept {s0 s : State} (h : Kept s0 s) {c q f need} : Kept s0 (State.mmReady s c q f need) := by
  unfold State.mmReady
  repeat' first
    | with_reducible assumption
    | with_reducible refine State.bumpFree_kept ?_
    | with_reducible refine State.chainStarts_kept ?_
    | with_reducible refine State.spillStart_kept ?_
    | with_reducible refine foldl_kept ?_ ?_
    | with_reducible refine foldl_kept_fst ?_ ?_
    | with_reducible refine foldl_kept_snd ?_ ?_
    | with_reducible refine kept_ite ?_ ?_

theorem State.scoreWrite_kept {s0 s : State} (h : Kept s0 s) {c x sr m q accs} : Kept s0 (State.scoreWrite s c x sr
    m q accs).1 := by
  unfold State.scoreWrite
  repeat' first
    | with_reducible assumption
    | with_reducible refine State.event_kept ?_
    | with_reducible refine State.setCore_kept ?_
    | with_reducible refine foldl_kept ?_ ?_
    | with_reducible refine foldl_kept_fst ?_ ?_
    | with_reducible refine foldl_kept_snd ?_ ?_
    | with_reducible refine kept_ite ?_ ?_

theorem State.scoreWrite_kept_eq {s0 s t9 : State} {c x sr m q accs} {y9} (e : State.scoreWrite s c x sr m q accs =
    (t9, y9)) (h : Kept s0 s) : Kept s0 t9 := by
  have := State.scoreWrite_kept h (c := c) (x := x) (sr := sr) (m := m) (q := q) (accs := accs)
  rw [e] at this
  exact this

theorem State.mmRun_kept {s0 s : State} (h : Kept s0 s) {c q f} : Kept s0 (State.mmRun s c q f).1 := by
  unfold State.mmRun
  repeat' first
    | with_reducible assumption
    | with_reducible refine State.chainWrites_kept ?_
    | with_reducible refine State.writeRows_kept ?_
    | with_reducible refine State.store_kept ?_
    | with_reducible refine State.scoreWrite_kept ?_
    | with_reducible refine State.scoreWrite_kept_eq (by assumption) ?_
    | with_reducible refine State.setCore_kept ?_
    | with_reducible refine foldl_kept ?_ ?_
    | with_reducible refine foldl_kept_fst ?_ ?_
    | with_reducible refine foldl_kept_snd ?_ ?_
    | with_reducible refine kept_ite ?_ ?_
    | with_reducible refine kept_ite_fst ?_ ?_
    | intro _
    | simp only [Kept.upd]

theorem State.mmRun_kept_eq {s0 s t9 : State} {c q f} {y9} (e : State.mmRun s c q f = (t9, y9)) (h : Kept s0 s) :
    Kept s0 t9 := by
  have := State.mmRun_kept h (c := c) (q := q) (f := f)
  rw [e] at this
  exact this

theorem State.mmStart_kept {s0 s : State} (h : Kept s0 s) {c q f} : Kept s0 (State.mmStart s c q f).1 := by
  unfold State.mmStart
  repeat' first
    | with_reducible assumption
    | with_reducible refine State.mmReady_kept ?_
    | with_reducible refine State.mmRun_kept ?_
    | with_reducible refine State.mmRun_kept_eq (by assumption) ?_
    | with_reducible refine foldl_kept ?_ ?_
    | with_reducible refine foldl_kept_fst ?_ ?_
    | with_reducible refine foldl_kept_snd ?_ ?_
    | with_reducible refine kept_ite ?_ ?_
    | with_reducible refine kept_ite_fst ?_ ?_

theorem State.mmStart_kept_eq {s0 s t9 : State} {c q f} {y9} (e : State.mmStart s c q f = (t9, y9)) (h : Kept s0 s)
    : Kept s0 t9 := by
  have := State.mmStart_kept h (c := c) (q := q) (f := f)
  rw [e] at this
  exact this

theorem execArrivalGateOpen_kept {s0 s : State} (h : Kept s0 s) {c q} : KeptO s0 (execArrivalGateOpen c q s) := by
  unfold execArrivalGateOpen
  repeat' first
    | with_reducible assumption
    | with_reducible refine KeptO.next ?_
    | with_reducible refine State.setFlight_kept ?_
    | with_reducible refine State.enterNext_kept ?_
    | with_reducible refine State.mmStart_kept ?_
    | with_reducible refine State.mmStart_kept_eq (by assumption) ?_
    | with_reducible refine State.bumpFree_kept ?_
    | with_reducible refine State.awake_kept ?_ ?_
    | with_reducible refine foldl_kept ?_ ?_
    | with_reducible refine foldl_kept_fst ?_ ?_
    | with_reducible refine foldl_kept_snd ?_ ?_
    | with_reducible refine kept_ite ?_ ?_
    | intro _
    | dsimp only
    | split

theorem execWeightLoadDone_kept {s0 s : State} (h : Kept s0 s) {c a b} : KeptO s0 (execWeightLoadDone c a b s) := by
  unfold execWeightLoadDone
  repeat' first
    | with_reducible assumption
    | with_reducible refine KeptO.next ?_
    | with_reducible refine State.banksMove_kept ?_
    | with_reducible refine State.drainQueue_kept ?_
    | with_reducible refine State.settled_kept ?_
    | with_reducible refine State.setFlight_kept ?_
    | with_reducible refine State.bumpFree_kept ?_
    | with_reducible refine State.setCore_kept ?_
    | with_reducible refine State.awake_kept ?_ ?_
    | with_reducible refine foldl_kept ?_ ?_
    | with_reducible refine foldl_kept_fst ?_ ?_
    | with_reducible refine foldl_kept_snd ?_ ?_
    | with_reducible refine kept_ite ?_ ?_
    | intro _
    | simp only [Kept.upd]
    | dsimp only
    | split

theorem execWload_kept {s0 s : State} (h : Kept s0 s) {c q} : KeptO s0 (execWload c q s) := by
  unfold execWload
  repeat' first
    | with_reducible assumption
    | with_reducible refine KeptO.next ?_
    | with_reducible refine State.beginLoad_kept ?_
    | with_reducible refine State.issue_kept ?_
    | with_reducible refine State.issueFailed_kept ?_
    | with_reducible refine State.row_kept ?_ ?_
    | with_reducible refine State.awake_kept ?_ ?_
    | with_reducible refine foldl_kept ?_ ?_
    | with_reducible refine foldl_kept_fst ?_ ?_
    | with_reducible refine foldl_kept_snd ?_ ?_
    | with_reducible refine kept_ite ?_ ?_
    | intro _

theorem execMatmul_kept {s0 s : State} (h : Kept s0 s) {c q} : KeptO s0 (execMatmul c q s) := by
  unfold execMatmul
  repeat' first
    | with_reducible assumption
    | with_reducible refine KeptO.next ?_
    | with_reducible refine State.enterNext_kept ?_
    | with_reducible refine State.mmStart_kept ?_
    | with_reducible refine State.mmStart_kept_eq (by assumption) ?_
    | with_reducible refine State.issue_kept ?_
    | with_reducible refine State.drainQueue_kept ?_
    | with_reducible refine State.settled_kept ?_
    | with_reducible refine State.event_kept ?_
    | with_reducible refine State.issueFailed_kept ?_
    | with_reducible refine State.row_kept ?_ ?_
    | with_reducible refine State.awake_kept ?_ ?_
    | with_reducible refine foldl_kept ?_ ?_
    | with_reducible refine foldl_kept_fst ?_ ?_
    | with_reducible refine foldl_kept_snd ?_ ?_
    | with_reducible refine kept_ite ?_ ?_
    | intro _

/-! ### Vector -/

theorem State.vcWrite_kept {s0 s : State} (h : Kept s0 s) {c x sr point m} : Kept s0 (State.vcWrite s c x sr point
    m) := by
  unfold State.vcWrite
  repeat' first
    | with_reducible assumption
    | with_reducible refine State.setCore_kept ?_
    | with_reducible refine State.writeRows_kept ?_
    | with_reducible refine foldl_kept ?_ ?_
    | with_reducible refine foldl_kept_fst ?_ ?_
    | with_reducible refine foldl_kept_snd ?_ ?_
    | with_reducible refine kept_ite ?_ ?_

theorem State.vcRun_kept {s0 s : State} (h : Kept s0 s) {c f} : Kept s0 (State.vcRun s c f).1 := by
  unfold State.vcRun
  repeat' first
    | with_reducible assumption
    | with_reducible refine State.event_kept ?_
    | with_reducible refine State.setCore_kept ?_
    | with_reducible refine State.chainWrites_kept ?_
    | with_reducible refine State.vcWrite_kept ?_
    | with_reducible refine foldl_kept ?_ ?_
    | with_reducible refine foldl_kept_fst ?_ ?_
    | with_reducible refine foldl_kept_snd ?_ ?_
    | with_reducible refine kept_ite ?_ ?_
    | with_reducible refine kept_ite_fst ?_ ?_

theorem State.vcRun_kept_eq {s0 s t9 : State} {c f} {y9} (e : State.vcRun s c f = (t9, y9)) (h : Kept s0 s) : Kept
    s0 t9 := by
  have := State.vcRun_kept h (c := c) (f := f)
  rw [e] at this
  exact this

theorem execVchain_kept {s0 s : State} (h : Kept s0 s) {c q} : KeptO s0 (execVchain c q s) := by
  unfold execVchain
  repeat' first
    | with_reducible assumption
    | with_reducible refine KeptO.next ?_
    | with_reducible refine State.chainStarts_kept ?_
    | with_reducible refine State.vcRun_kept ?_
    | with_reducible refine State.vcRun_kept_eq (by assumption) ?_
    | with_reducible refine State.issue_kept ?_
    | with_reducible refine State.drainQueue_kept ?_
    | with_reducible refine State.settled_kept ?_
    | with_reducible refine State.event_kept ?_
    | with_reducible refine State.issueFailed_kept ?_
    | with_reducible refine State.row_kept ?_ ?_
    | with_reducible refine State.awake_kept ?_ ?_
    | with_reducible refine foldl_kept ?_ ?_
    | with_reducible refine foldl_kept_fst ?_ ?_
    | with_reducible refine foldl_kept_snd ?_ ?_
    | with_reducible refine kept_ite ?_ ?_
    | intro _

/-! ### Recurrent -/

theorem State.writeImage_kept {s0 s : State} (h : Kept s0 s) {v a h_ c} : Kept s0 (State.writeImage s v a h_ c) := by
  unfold State.writeImage
  repeat' first
    | with_reducible assumption
    | with_reducible refine State.writeRows_kept ?_
    | with_reducible refine foldl_kept ?_ ?_
    | with_reducible refine foldl_kept_fst ?_ ?_
    | with_reducible refine foldl_kept_snd ?_ ?_
    | with_reducible refine kept_ite ?_ ?_

theorem State.rsWriteY_kept {s0 s : State} (h : Kept s0 s) {v p0 y} : Kept s0 (State.rsWriteY s v p0 y) := by
  unfold State.rsWriteY
  repeat' first
    | with_reducible assumption
    | with_reducible refine State.store_kept ?_
    | with_reducible refine foldl_kept ?_ ?_
    | with_reducible refine foldl_kept_fst ?_ ?_
    | with_reducible refine foldl_kept_snd ?_ ?_
    | with_reducible refine kept_ite ?_ ?_
    | intro _

theorem State.rsRun_kept {s0 s : State} (h : Kept s0 s) {v fuel j o} : Kept s0 (State.rsRun s v fuel j o).s := by
  induction fuel generalizing s j o with
  | zero => exact h
  | succ n ih =>
    unfold State.rsRun
    repeat' first
      | with_reducible assumption
      | with_reducible refine ih ?_
      | with_reducible refine State.rsWriteY_kept ?_
      | dsimp only
      | split

theorem State.rsOut_kept {s0 s : State} (h : Kept s0 s) {c q f} : Kept s0 (State.rsOut s c q f).s :=
  State.rsRun_kept h

theorem State.rsStart_kept {s0 s : State} (h : Kept s0 s) {c q f} : Kept s0 (State.rsStart s c q f).1 := by
  unfold State.rsStart
  repeat' first
    | with_reducible assumption
    | with_reducible refine State.rsOut_kept ?_
    | with_reducible refine State.scramble_kept ?_
    | with_reducible refine State.setCore_kept ?_
    | with_reducible refine State.writeImage_kept ?_
    | with_reducible refine kept_ite ?_ ?_

theorem State.rsStart_kept_eq {s0 s t9 : State} {c q f} {y9} (e : State.rsStart s c q f = (t9, y9)) (h : Kept s0 s)
    : Kept s0 t9 := by
  have := State.rsStart_kept h (c := c) (q := q) (f := f)
  rw [e] at this
  exact this

theorem execRstep_kept {s0 s : State} (h : Kept s0 s) {c q} : KeptO s0 (execRstep c q s) := by
  unfold execRstep
  repeat' first
    | with_reducible assumption
    | with_reducible refine KeptO.next ?_
    | with_reducible refine State.enterNext_kept ?_
    | with_reducible refine State.rsStart_kept ?_
    | with_reducible refine State.rsStart_kept_eq (by assumption) ?_
    | with_reducible refine State.issue_kept ?_
    | with_reducible refine State.drainQueue_kept ?_
    | with_reducible refine State.settled_kept ?_
    | with_reducible refine State.issueFailed_kept ?_
    | with_reducible refine State.row_kept ?_ ?_
    | with_reducible refine State.awake_kept ?_ ?_
    | with_reducible refine foldl_kept ?_ ?_
    | with_reducible refine foldl_kept_fst ?_ ?_
    | with_reducible refine foldl_kept_snd ?_ ?_
    | with_reducible refine kept_ite ?_ ?_
    | intro _

/-! ### Move -/

theorem State.mvScramble_kept {s0 s : State} (h : Kept s0 s) {x dests rows wm} : Kept s0 (State.mvScramble s x
    dests rows wm) := by
  unfold State.mvScramble
  repeat' first
    | with_reducible assumption
    | with_reducible refine State.scramble_kept ?_
    | with_reducible refine foldl_kept ?_ ?_
    | with_reducible refine foldl_kept_fst ?_ ?_
    | with_reducible refine foldl_kept_snd ?_ ?_
    | with_reducible refine kept_ite ?_ ?_
    | intro _

theorem State.mvWrite_kept {s0 s : State} (h : Kept s0 s) {cl x rows} : Kept s0 (State.mvWrite s cl x rows) := by
  unfold State.mvWrite
  repeat' first
    | with_reducible assumption
    | with_reducible refine State.deliver_kept ?_
    | with_reducible refine State.engineWrite_kept ?_
    | with_reducible refine State.engineWrite_kept_eq (by assumption) ?_
    | with_reducible refine foldl_kept ?_ ?_
    | with_reducible refine foldl_kept_fst ?_ ?_
    | with_reducible refine foldl_kept_snd ?_ ?_
    | with_reducible refine kept_ite ?_ ?_
    | intro _

theorem State.mvRun_kept {s0 s : State} (h : Kept s0 s) {c q f} : Kept s0 (State.mvRun s c q f).1 := by
  unfold State.mvRun
  repeat' first
    | with_reducible assumption
    | with_reducible refine State.eccUncorr_kept ?_
    | with_reducible refine State.mvScramble_kept ?_
    | with_reducible refine State.readsBy_kept ?_
    | with_reducible refine State.mvWrite_kept ?_
    | with_reducible refine foldl_kept ?_ ?_
    | with_reducible refine foldl_kept_fst ?_ ?_
    | with_reducible refine foldl_kept_snd ?_ ?_
    | with_reducible refine kept_ite ?_ ?_
    | with_reducible refine kept_ite_fst ?_ ?_
    | intro _
    | dsimp only
    | split

theorem State.mvRun_kept_eq {s0 s t9 : State} {c q f} {y9} (e : State.mvRun s c q f = (t9, y9)) (h : Kept s0 s) :
    Kept s0 t9 := by
  have := State.mvRun_kept h (c := c) (q := q) (f := f)
  rw [e] at this
  exact this

theorem State.tagWait_kept {s0 s : State} (h : Kept s0 s) {c q} : Kept s0 (State.tagWait s c q) := by
  unfold State.tagWait
  repeat' first
    | with_reducible assumption
    | with_reducible refine State.setQueue_kept ?_
    | with_reducible refine State.arbitrate_kept ?_

theorem execMove_kept {s0 s : State} (h : Kept s0 s) {c q} : KeptO s0 (execMove c q s) := by
  unfold execMove
  repeat' first
    | with_reducible assumption
    | with_reducible refine KeptO.next ?_
    | with_reducible refine State.mvRun_kept ?_
    | with_reducible refine State.mvRun_kept_eq (by assumption) ?_
    | with_reducible refine State.issue_kept ?_
    | with_reducible refine State.drainQueue_kept ?_
    | with_reducible refine State.settled_kept ?_
    | with_reducible refine State.event_kept ?_
    | with_reducible refine State.issueFailed_kept ?_
    | with_reducible refine State.tagWait_kept ?_
    | with_reducible refine State.row_kept ?_ ?_
    | with_reducible refine State.awake_kept ?_ ?_
    | with_reducible refine foldl_kept ?_ ?_
    | with_reducible refine foldl_kept_fst ?_ ?_
    | with_reducible refine foldl_kept_snd ?_ ?_
    | with_reducible refine kept_ite ?_ ?_
    | intro _

/-! ### Control -/

theorem State.issueDone_kept {s0 s : State} (h : Kept s0 s) {c q i t nextPc} : Kept s0 (State.issueDone s c q i t
    nextPc) := by
  unfold State.issueDone
  repeat' first
    | with_reducible assumption
    | with_reducible refine State.issue_kept ?_
    | with_reducible refine State.drainQueue_kept ?_
    | with_reducible refine State.settled_kept ?_

theorem State.addSub_kept {s0 s : State} (h : Kept s0 s) {c q i} : Kept s0 (State.addSub s c q i) := by
  unfold State.addSub
  repeat' first
    | with_reducible assumption
    | with_reducible refine State.issueDone_kept ?_
    | with_reducible refine State.issue_kept ?_
    | with_reducible refine State.sendSem_kept ?_
    | with_reducible refine State.issueFailed_kept ?_
    | with_reducible refine foldl_kept ?_ ?_
    | with_reducible refine foldl_kept_fst ?_ ?_
    | with_reducible refine foldl_kept_snd ?_ ?_
    | with_reducible refine kept_ite ?_ ?_

theorem State.issueEffect_kept {s0 s : State} (h : Kept s0 s) {c q i t eff} (heff : ∀ y0, Kept s0 y0 → Kept s0 (eff
    y0)) : Kept s0 (State.issueEffect s c q i t eff) := by
  unfold State.issueEffect
  repeat' first
    | with_reducible assumption
    | with_reducible refine heff _ ?_
    | with_reducible refine State.issue_kept ?_
    | with_reducible refine State.drainQueue_kept ?_
    | with_reducible refine State.settled_kept ?_

theorem State.scalar_kept {s0 s : State} (h : Kept s0 s) {c q op t chk eff} (heff : ∀ y0 y1, Kept s0 y0 → Kept s0
    (eff y0 y1)) : Kept s0 (State.scalar s c q op t chk eff) := by
  unfold State.scalar
  repeat' first
    | with_reducible assumption
    | with_reducible refine heff _ _ ?_
    | with_reducible refine State.issueEffect_kept ?_ ?_
    | with_reducible refine State.issueFailed_kept ?_
    | with_reducible refine State.row_kept ?_ ?_
    | with_reducible refine foldl_kept ?_ ?_
    | with_reducible refine foldl_kept_fst ?_ ?_
    | with_reducible refine foldl_kept_snd ?_ ?_
    | with_reducible refine kept_ite ?_ ?_
    | intro _

theorem State.traceWait_kept {s0 s : State} (h : Kept s0 s) {c i} : Kept s0 (State.traceWait s c i) := by
  unfold State.traceWait
  repeat' first
    | with_reducible assumption
    | with_reducible refine foldl_kept ?_ ?_
    | with_reducible refine foldl_kept_fst ?_ ?_
    | with_reducible refine foldl_kept_snd ?_ ?_
    | with_reducible refine kept_ite ?_ ?_
    | intro _
    | simp only [Kept.upd]

theorem execEnd_kept {s0 s : State} (h : Kept s0 s) {c q} : KeptO s0 (execEnd c q s) := by
  unfold execEnd
  repeat' first
    | with_reducible assumption
    | with_reducible refine KeptO.next ?_
    | with_reducible refine State.issueDone_kept ?_
    | with_reducible refine State.issueFailed_kept ?_
    | with_reducible refine State.row_kept ?_ ?_
    | with_reducible refine State.awake_kept ?_ ?_
    | with_reducible refine foldl_kept ?_ ?_
    | with_reducible refine foldl_kept_fst ?_ ?_
    | with_reducible refine foldl_kept_snd ?_ ?_
    | with_reducible refine kept_ite ?_ ?_
    | intro _

theorem execFence_kept {s0 s : State} (h : Kept s0 s) {c q} : KeptO s0 (execFence c q s) := by
  unfold execFence
  repeat' first
    | with_reducible assumption
    | with_reducible refine KeptO.next ?_
    | with_reducible refine State.issueDone_kept ?_
    | with_reducible refine State.issueFailed_kept ?_
    | with_reducible refine State.row_kept ?_ ?_
    | with_reducible refine State.awake_kept ?_ ?_
    | with_reducible refine foldl_kept ?_ ?_
    | with_reducible refine foldl_kept_fst ?_ ?_
    | with_reducible refine foldl_kept_snd ?_ ?_
    | with_reducible refine kept_ite ?_ ?_
    | intro _

theorem execSrStep_kept {s0 s : State} (h : Kept s0 s) {c q} : KeptO s0 (execSrStep c q s) := by
  unfold execSrStep
  repeat' first
    | with_reducible assumption
    | with_reducible refine KeptO.next ?_
    | with_reducible refine State.wr_kept ?_
    | with_reducible refine State.scalar_kept ?_ ?_
    | with_reducible refine State.awake_kept ?_ ?_
    | with_reducible refine foldl_kept ?_ ?_
    | with_reducible refine foldl_kept_fst ?_ ?_
    | with_reducible refine foldl_kept_snd ?_ ?_
    | with_reducible refine kept_ite ?_ ?_
    | intro _

theorem execSrBase_kept {s0 s : State} (h : Kept s0 s) {c q} : KeptO s0 (execSrBase c q s) := by
  unfold execSrBase
  repeat' first
    | with_reducible assumption
    | with_reducible refine KeptO.next ?_
    | with_reducible refine State.wr_kept ?_
    | with_reducible refine State.scalar_kept ?_ ?_
    | with_reducible refine State.awake_kept ?_ ?_
    | with_reducible refine foldl_kept ?_ ?_
    | with_reducible refine foldl_kept_fst ?_ ?_
    | with_reducible refine foldl_kept_snd ?_ ?_
    | with_reducible refine kept_ite ?_ ?_
    | intro _

theorem execScalarStore_kept {s0 s : State} (h : Kept s0 s) {c q} : KeptO s0 (execScalarStore c q s) := by
  unfold execScalarStore
  repeat' first
    | with_reducible assumption
    | with_reducible refine KeptO.next ?_
    | with_reducible refine State.store_kept ?_
    | with_reducible refine State.scalar_kept ?_ ?_
    | with_reducible refine State.awake_kept ?_ ?_
    | with_reducible refine foldl_kept ?_ ?_
    | with_reducible refine foldl_kept_fst ?_ ?_
    | with_reducible refine foldl_kept_snd ?_ ?_
    | with_reducible refine kept_ite ?_ ?_
    | intro _

theorem execScalarLoad_kept {s0 s : State} (h : Kept s0 s) {c q} : KeptO s0 (execScalarLoad c q s) := by
  unfold execScalarLoad
  repeat' first
    | with_reducible assumption
    | with_reducible refine KeptO.next ?_
    | with_reducible refine State.setSc_kept ?_
    | with_reducible refine State.scalar_kept ?_ ?_
    | with_reducible refine State.awake_kept ?_ ?_
    | with_reducible refine foldl_kept ?_ ?_
    | with_reducible refine foldl_kept_fst ?_ ?_
    | with_reducible refine foldl_kept_snd ?_ ?_
    | with_reducible refine kept_ite ?_ ?_
    | intro _

theorem execLenReg_kept {s0 s : State} (h : Kept s0 s) {c q} : KeptO s0 (execLenReg c q s) := by
  unfold execLenReg
  repeat' first
    | with_reducible assumption
    | with_reducible refine KeptO.next ?_
    | with_reducible refine State.setSlot_kept ?_
    | with_reducible refine State.scalar_kept ?_ ?_
    | with_reducible refine State.awake_kept ?_ ?_
    | with_reducible refine foldl_kept ?_ ?_
    | with_reducible refine foldl_kept_fst ?_ ?_
    | with_reducible refine foldl_kept_snd ?_ ?_
    | with_reducible refine kept_ite ?_ ?_
    | intro _

theorem execLenImm_kept {s0 s : State} (h : Kept s0 s) {c q} : KeptO s0 (execLenImm c q s) := by
  unfold execLenImm
  repeat' first
    | with_reducible assumption
    | with_reducible refine KeptO.next ?_
    | with_reducible refine State.setSlot_kept ?_
    | with_reducible refine State.scalar_kept ?_ ?_
    | with_reducible refine State.awake_kept ?_ ?_
    | with_reducible refine foldl_kept ?_ ?_
    | with_reducible refine foldl_kept_fst ?_ ?_
    | with_reducible refine foldl_kept_snd ?_ ?_
    | with_reducible refine kept_ite ?_ ?_
    | intro _

theorem execScalarAdd_kept {s0 s : State} (h : Kept s0 s) {c q} : KeptO s0 (execScalarAdd c q s) := by
  unfold execScalarAdd
  repeat' first
    | with_reducible assumption
    | with_reducible refine KeptO.next ?_
    | with_reducible refine State.setSc_kept ?_
    | with_reducible refine State.scalar_kept ?_ ?_
    | with_reducible refine State.awake_kept ?_ ?_
    | with_reducible refine foldl_kept ?_ ?_
    | with_reducible refine foldl_kept_fst ?_ ?_
    | with_reducible refine foldl_kept_snd ?_ ?_
    | with_reducible refine kept_ite ?_ ?_
    | intro _

theorem execScalarSet_kept {s0 s : State} (h : Kept s0 s) {c q} : KeptO s0 (execScalarSet c q s) := by
  unfold execScalarSet
  repeat' first
    | with_reducible assumption
    | with_reducible refine KeptO.next ?_
    | with_reducible refine State.setSc_kept ?_
    | with_reducible refine State.scalar_kept ?_ ?_
    | with_reducible refine State.awake_kept ?_ ?_
    | with_reducible refine foldl_kept ?_ ?_
    | with_reducible refine foldl_kept_fst ?_ ?_
    | with_reducible refine foldl_kept_snd ?_ ?_
    | with_reducible refine kept_ite ?_ ?_
    | intro _

theorem execBranch_kept {s0 s : State} (h : Kept s0 s) {c q} : KeptO s0 (execBranch c q s) := by
  unfold execBranch
  repeat' first
    | with_reducible assumption
    | with_reducible refine KeptO.next ?_
    | with_reducible refine State.bump_kept ?_
    | with_reducible refine State.issueDone_kept ?_
    | with_reducible refine State.issueFailed_kept ?_
    | with_reducible refine State.row_kept ?_ ?_
    | with_reducible refine State.awake_kept ?_ ?_
    | with_reducible refine foldl_kept ?_ ?_
    | with_reducible refine foldl_kept_fst ?_ ?_
    | with_reducible refine foldl_kept_snd ?_ ?_
    | with_reducible refine kept_ite ?_ ?_
    | intro _

theorem execSub_kept {s0 s : State} (h : Kept s0 s) {c q} : KeptO s0 (execSub c q s) := by
  unfold execSub
  repeat' first
    | with_reducible assumption
    | with_reducible refine KeptO.next ?_
    | with_reducible refine State.addSub_kept ?_
    | with_reducible refine State.row_kept ?_ ?_
    | with_reducible refine State.awake_kept ?_ ?_
    | with_reducible refine foldl_kept ?_ ?_
    | with_reducible refine foldl_kept_fst ?_ ?_
    | with_reducible refine foldl_kept_snd ?_ ?_
    | with_reducible refine kept_ite ?_ ?_
    | intro _

theorem execAdd_kept {s0 s : State} (h : Kept s0 s) {c q} : KeptO s0 (execAdd c q s) := by
  unfold execAdd
  repeat' first
    | with_reducible assumption
    | with_reducible refine KeptO.next ?_
    | with_reducible refine State.addSub_kept ?_
    | with_reducible refine State.row_kept ?_ ?_
    | with_reducible refine State.awake_kept ?_ ?_
    | with_reducible refine foldl_kept ?_ ?_
    | with_reducible refine foldl_kept_fst ?_ ?_
    | with_reducible refine foldl_kept_snd ?_ ?_
    | with_reducible refine kept_ite ?_ ?_
    | intro _

theorem execWaitGeSatisfied_kept {s0 s : State} (h : Kept s0 s) {c q} : KeptO s0 (execWaitGeSatisfied c q s) := by
  unfold execWaitGeSatisfied
  repeat' first
    | with_reducible assumption
    | with_reducible refine KeptO.next ?_
    | with_reducible refine State.traceWait_kept ?_
    | with_reducible refine State.setQueue_kept ?_
    | with_reducible refine State.drainQueue_kept ?_
    | with_reducible refine State.settled_kept ?_
    | with_reducible refine State.awake_kept ?_ ?_
    | with_reducible refine foldl_kept ?_ ?_
    | with_reducible refine foldl_kept_fst ?_ ?_
    | with_reducible refine foldl_kept_snd ?_ ?_
    | with_reducible refine kept_ite ?_ ?_
    | intro _
    | dsimp only
    | split

theorem execWaitGe_kept {s0 s : State} (h : Kept s0 s) {c q} : KeptO s0 (execWaitGe c q s) := by
  unfold execWaitGe
  repeat' first
    | with_reducible assumption
    | with_reducible refine KeptO.next ?_
    | with_reducible refine State.setQueue_kept ?_
    | with_reducible refine State.arbitrate_kept ?_
    | with_reducible refine State.issue_kept ?_
    | with_reducible refine State.traceWait_kept ?_
    | with_reducible refine State.issueDone_kept ?_
    | with_reducible refine State.issueFailed_kept ?_
    | with_reducible refine State.row_kept ?_ ?_
    | with_reducible refine State.awake_kept ?_ ?_
    | with_reducible refine foldl_kept ?_ ?_
    | with_reducible refine foldl_kept_fst ?_ ?_
    | with_reducible refine foldl_kept_snd ?_ ?_
    | with_reducible refine kept_ite ?_ ?_
    | intro _
    | dsimp only
    | split

/-! ### Completion -/

theorem State.arriveWrite_kept {s0 s : State} (h : Kept s0 s) {c n v} : Kept s0 (State.arriveWrite s c n v) := by
  unfold State.arriveWrite
  repeat' first
    | with_reducible assumption
    | with_reducible refine State.wr_kept ?_
    | with_reducible refine State.wrRw_kept ?_
    | with_reducible refine State.setCore_kept ?_
    | with_reducible refine foldl_kept ?_ ?_
    | with_reducible refine foldl_kept_fst ?_ ?_
    | with_reducible refine foldl_kept_snd ?_ ?_
    | with_reducible refine kept_ite ?_ ?_

theorem State.chunkCounts_kept {s0 s : State} (h : Kept s0 s) {c a n} : Kept s0 (State.chunkCounts s c a n) := by
  unfold State.chunkCounts
  repeat' first
    | with_reducible assumption
    | with_reducible refine State.event_kept ?_
    | with_reducible refine State.bump_kept ?_
    | with_reducible refine foldl_kept ?_ ?_
    | with_reducible refine foldl_kept_fst ?_ ?_
    | with_reducible refine foldl_kept_snd ?_ ?_
    | with_reducible refine kept_ite ?_ ?_

theorem State.rsEnds_kept {s0 s : State} (h : Kept s0 s) {c f} : Kept s0 (State.rsEnds s c f) := by
  unfold State.rsEnds
  repeat' first
    | with_reducible assumption
    | with_reducible refine State.bump_kept ?_
    | with_reducible refine State.event_kept ?_
    | with_reducible refine State.chunkCounts_kept ?_
    | with_reducible refine foldl_kept ?_ ?_
    | with_reducible refine foldl_kept_fst ?_ ?_
    | with_reducible refine foldl_kept_snd ?_ ?_
    | with_reducible refine kept_ite ?_ ?_
    | intro _

theorem State.bumpUpTo_kept {s0 s : State} (h : Kept s0 s) {p r i n} : Kept s0 (State.bumpUpTo s p r i n) := by
  unfold State.bumpUpTo
  repeat' first
    | with_reducible assumption
    | with_reducible refine State.bump_kept ?_
    | with_reducible refine State.draw_kept ?_

theorem State.countsOf_kept {s0 s : State} (h : Kept s0 s) {f} : Kept s0 (State.countsOf s f) := by
  unfold State.countsOf
  repeat' first
    | with_reducible assumption
    | with_reducible refine State.bumpUpTo_kept ?_
    | with_reducible refine State.bump_kept ?_
    | with_reducible refine foldl_kept ?_ ?_
    | with_reducible refine foldl_kept_fst ?_ ?_
    | with_reducible refine foldl_kept_snd ?_ ?_
    | with_reducible refine kept_ite ?_ ?_
    | intro _

theorem State.endCounts_kept {s0 s : State} (h : Kept s0 s) {c f} : Kept s0 (State.endCounts s c f) := by
  unfold State.endCounts
  repeat' first
    | with_reducible assumption
    | with_reducible refine State.event_kept ?_
    | with_reducible refine State.bumpFree_kept ?_
    | with_reducible refine State.rsEnds_kept ?_
    | with_reducible refine State.semsAcked_kept ?_
    | with_reducible refine State.bump_kept ?_
    | with_reducible refine State.countsOf_kept ?_
    | with_reducible refine foldl_kept ?_ ?_
    | with_reducible refine foldl_kept_fst ?_ ?_
    | with_reducible refine foldl_kept_snd ?_ ?_
    | with_reducible refine kept_ite ?_ ?_

theorem State.wlUndo_kept {s0 s : State} (h : Kept s0 s) {c f} : Kept s0 (State.wlUndo s c f) := by
  unfold State.wlUndo
  repeat' first
    | with_reducible assumption
    | with_reducible refine State.setCore_kept ?_
    | with_reducible refine foldl_kept ?_ ?_
    | with_reducible refine foldl_kept_fst ?_ ?_
    | with_reducible refine foldl_kept_snd ?_ ?_
    | with_reducible refine kept_ite ?_ ?_

theorem State.vcUndo_kept {s0 s : State} (h : Kept s0 s) {c f} : Kept s0 (State.vcUndo s c f) := by
  unfold State.vcUndo
  repeat' first
    | with_reducible assumption
    | with_reducible refine State.setCore_kept ?_
    | with_reducible refine State.scrambleTiles_kept ?_
    | with_reducible refine State.scramble_kept ?_
    | with_reducible refine foldl_kept ?_ ?_
    | with_reducible refine foldl_kept_fst ?_ ?_
    | with_reducible refine foldl_kept_snd ?_ ?_
    | with_reducible refine kept_ite ?_ ?_
    | intro _
    | simp only [Kept.upd]

theorem State.rsUndo_kept {s0 s : State} (h : Kept s0 s) {c q f} : Kept s0 (State.rsUndo s c q f) := by
  unfold State.rsUndo
  repeat' first
    | with_reducible assumption
    | with_reducible refine State.scramble_kept ?_
    | with_reducible refine State.setCore_kept ?_
    | with_reducible refine foldl_kept ?_ ?_
    | with_reducible refine foldl_kept_fst ?_ ?_
    | with_reducible refine foldl_kept_snd ?_ ?_
    | with_reducible refine kept_ite ?_ ?_
    | intro _

theorem State.mmUndo_kept {s0 s : State} (h : Kept s0 s) {c q f} : Kept s0 (State.mmUndo s c q f) := by
  unfold State.mmUndo
  repeat' first
    | with_reducible assumption
    | with_reducible refine State.scrambleTiles_kept ?_
    | with_reducible refine State.setCore_kept ?_
    | with_reducible refine State.scramble_kept ?_
    | with_reducible refine foldl_kept ?_ ?_
    | with_reducible refine foldl_kept_fst ?_ ?_
    | with_reducible refine foldl_kept_snd ?_ ?_
    | with_reducible refine kept_ite ?_ ?_
    | intro _
    | simp only [Kept.upd]

theorem State.undo_kept {s0 s : State} (h : Kept s0 s) {c q f} : Kept s0 (State.undo s c q f) := by
  unfold State.undo
  repeat' first
    | with_reducible assumption
    | with_reducible refine State.mvScramble_kept ?_
    | with_reducible refine State.wlUndo_kept ?_
    | with_reducible refine State.vcUndo_kept ?_
    | with_reducible refine State.rsUndo_kept ?_
    | with_reducible refine State.mmUndo_kept ?_
    | with_reducible refine foldl_kept ?_ ?_
    | with_reducible refine foldl_kept_fst ?_ ?_
    | with_reducible refine foldl_kept_snd ?_ ?_
    | with_reducible refine kept_ite ?_ ?_

theorem State.writeLater_kept {s0 s : State} (h : Kept s0 s) {c p r i v} : Kept s0 (State.writeLater s c p r i v)
    := by
  unfold State.writeLater
  repeat' first
    | with_reducible assumption
    | with_reducible refine State.applyCtl_kept ?_
    | with_reducible refine State.setCore_kept ?_
    | with_reducible refine foldl_kept ?_ ?_
    | with_reducible refine foldl_kept_fst ?_ ?_
    | with_reducible refine foldl_kept_snd ?_ ?_
    | with_reducible refine kept_ite ?_ ?_

theorem State.recurCtrlWrite_kept {s0 s : State} (h : Kept s0 s) {c which v} : Kept s0 (State.recurCtrlWrite s c
    which v) := by
  unfold State.recurCtrlWrite
  repeat' first
    | with_reducible assumption
    | with_reducible refine State.writeLater_kept ?_
    | with_reducible refine State.ignore_kept ?_
    | with_reducible refine foldl_kept ?_ ?_
    | with_reducible refine foldl_kept_fst ?_ ?_
    | with_reducible refine foldl_kept_snd ?_ ?_
    | with_reducible refine kept_ite ?_ ?_
    | intro _
    | simp only [Kept.upd]
    | dsimp only
    | split

theorem State.scoreCtrlWrite_kept {s0 s : State} (h : Kept s0 s) {c v} : Kept s0 (State.scoreCtrlWrite s c v) := by
  unfold State.scoreCtrlWrite
  repeat' first
    | with_reducible assumption
    | with_reducible refine State.writeLater_kept ?_
    | with_reducible refine foldl_kept ?_ ?_
    | with_reducible refine foldl_kept_fst ?_ ?_
    | with_reducible refine foldl_kept_snd ?_ ?_
    | with_reducible refine kept_ite ?_ ?_

theorem State.holdBell_kept {s0 s : State} (h : Kept s0 s) {c q v} : Kept s0 (State.holdBell s c q v) := by
  unfold State.holdBell
  repeat' first
    | with_reducible assumption
    | with_reducible refine State.setCore_kept ?_
    | with_reducible refine foldl_kept ?_ ?_
    | with_reducible refine foldl_kept_fst ?_ ?_
    | with_reducible refine foldl_kept_snd ?_ ?_
    | with_reducible refine kept_ite ?_ ?_
    | intro _
    | simp only [Kept.upd]

theorem State.queueResume_kept {s0 s : State} (h : Kept s0 s) {c q} : Kept s0 (State.queueResume s c q) := by
  unfold State.queueResume
  repeat' first
    | with_reducible assumption
    | with_reducible refine State.ignore_kept ?_
    | with_reducible refine State.queueRuns_kept ?_
    | with_reducible refine State.holdBell_kept ?_
    | with_reducible refine foldl_kept ?_ ?_
    | with_reducible refine foldl_kept_fst ?_ ?_
    | with_reducible refine foldl_kept_snd ?_ ?_
    | with_reducible refine kept_ite ?_ ?_

theorem State.queueStart_kept {s0 s : State} (h : Kept s0 s) {c q} : Kept s0 (State.queueStart s c q) := by
  unfold State.queueStart
  repeat' first
    | with_reducible assumption
    | with_reducible refine State.ignore_kept ?_
    | with_reducible refine State.queueRuns_kept ?_
    | with_reducible refine State.holdBell_kept ?_
    | with_reducible refine foldl_kept ?_ ?_
    | with_reducible refine foldl_kept_fst ?_ ?_
    | with_reducible refine foldl_kept_snd ?_ ?_
    | with_reducible refine kept_ite ?_ ?_

theorem State.queueAbort_kept {s0 s : State} (h : Kept s0 s) {c q} : Kept s0 (State.queueAbort s c q) := by
  unfold State.queueAbort
  repeat' first
    | with_reducible assumption
    | with_reducible refine State.drainQueue_kept ?_
    | with_reducible refine State.settled_kept ?_
    | with_reducible refine State.setQueue_kept ?_
    | with_reducible refine State.putAllBack_kept ?_
    | with_reducible refine State.issueFailed_kept ?_
    | with_reducible refine State.ignore_kept ?_
    | with_reducible refine foldl_kept ?_ ?_
    | with_reducible refine foldl_kept_fst ?_ ?_
    | with_reducible refine foldl_kept_snd ?_ ?_
    | with_reducible refine kept_ite ?_ ?_
    | intro _
    | dsimp only
    | split

theorem State.doorbell_kept {s0 s : State} (h : Kept s0 s) {c q v} : Kept s0 (State.doorbell s c q v) := by
  unfold State.doorbell
  repeat' first
    | with_reducible assumption
    | with_reducible refine State.queueResume_kept ?_
    | with_reducible refine State.queueStart_kept ?_
    | with_reducible refine State.queueAbort_kept ?_
    | with_reducible refine foldl_kept ?_ ?_
    | with_reducible refine foldl_kept_fst ?_ ?_
    | with_reducible refine foldl_kept_snd ?_ ?_
    | with_reducible refine kept_ite ?_ ?_

theorem State.scoreEnded_kept {s0 s : State} (h : Kept s0 s) {c f} : Kept s0 (State.scoreEnded s c f) := by
  unfold State.scoreEnded
  repeat' first
    | with_reducible assumption
    | with_reducible refine State.setCore_kept ?_
    | with_reducible refine foldl_kept ?_ ?_
    | with_reducible refine foldl_kept_fst ?_ ?_
    | with_reducible refine foldl_kept_snd ?_ ?_
    | with_reducible refine kept_ite ?_ ?_

theorem State.endFlight_kept {s0 s : State} (h : Kept s0 s) {c q f} : Kept s0 (State.endFlight s c q f) := by
  unfold State.endFlight
  repeat' first
    | with_reducible assumption
    | with_reducible refine State.endCounts_kept ?_
    | with_reducible refine State.scoreEnded_kept ?_
    | with_reducible refine State.leaveArray_kept ?_
    | with_reducible refine State.banksMove_kept ?_
    | with_reducible refine State.undo_kept ?_
    | with_reducible refine State.setFlight_kept ?_
    | with_reducible refine foldl_kept ?_ ?_
    | with_reducible refine foldl_kept_fst ?_ ?_
    | with_reducible refine foldl_kept_snd ?_ ?_
    | with_reducible refine kept_ite ?_ ?_

theorem State.siteCorrected_kept {s0 s : State} (h : Kept s0 s) {c f site} : Kept s0 (State.siteCorrected s c f
    site) := by
  unfold State.siteCorrected
  repeat' first
    | with_reducible assumption
    | with_reducible refine State.corrected_kept ?_
    | with_reducible refine State.bump_kept ?_
    | with_reducible refine State.event_kept ?_
    | with_reducible refine State.noted_kept ?_
    | with_reducible refine foldl_kept ?_ ?_
    | with_reducible refine foldl_kept_fst ?_ ?_
    | with_reducible refine foldl_kept_snd ?_ ?_
    | with_reducible refine kept_ite ?_ ?_
    | intro _
    | dsimp only
    | split

theorem State.siteUncorr_kept {s0 s : State} (h : Kept s0 s) {c f site} : Kept s0 (State.siteUncorr s c f site) := by
  unfold State.siteUncorr
  repeat' first
    | with_reducible assumption
    | with_reducible refine State.eccUncorr_kept ?_
    | with_reducible refine State.setCore_kept ?_
    | with_reducible refine State.event_kept ?_
    | with_reducible refine foldl_kept ?_ ?_
    | with_reducible refine foldl_kept_fst ?_ ?_
    | with_reducible refine foldl_kept_snd ?_ ?_
    | with_reducible refine kept_ite ?_ ?_
    | intro _
    | dsimp only
    | split

theorem State.stopAt_kept {s0 s : State} (h : Kept s0 s) {c q f st committed} : Kept s0 (State.stopAt s c q f st
    committed) := by
  unfold State.stopAt
  repeat' first
    | with_reducible assumption
    | with_reducible refine State.bump_kept ?_
    | with_reducible refine State.drainQueue_kept ?_
    | with_reducible refine State.settled_kept ?_
    | with_reducible refine State.endFlight_kept ?_

theorem execRecurCtrlWrite_kept {s0 s : State} (h : Kept s0 s) {c which v} : KeptO s0 (execRecurCtrlWrite c which v
    s) := by
  unfold execRecurCtrlWrite
  repeat' first
    | with_reducible assumption
    | with_reducible refine KeptO.next ?_
    | with_reducible refine State.recurCtrlWrite_kept ?_
    | with_reducible refine State.awake_kept ?_ ?_
    | with_reducible refine foldl_kept ?_ ?_
    | with_reducible refine foldl_kept_fst ?_ ?_
    | with_reducible refine foldl_kept_snd ?_ ?_
    | with_reducible refine kept_ite ?_ ?_
    | intro _

theorem execScoreCtrlWrite_kept {s0 s : State} (h : Kept s0 s) {c v} : KeptO s0 (execScoreCtrlWrite c v s) := by
  unfold execScoreCtrlWrite
  repeat' first
    | with_reducible assumption
    | with_reducible refine KeptO.next ?_
    | with_reducible refine State.scoreCtrlWrite_kept ?_
    | with_reducible refine State.awake_kept ?_ ?_
    | with_reducible refine foldl_kept ?_ ?_
    | with_reducible refine foldl_kept_fst ?_ ?_
    | with_reducible refine foldl_kept_snd ?_ ?_
    | with_reducible refine kept_ite ?_ ?_
    | intro _

theorem execStatRegionWrite_kept {s0 s : State} (h : Kept s0 s) {c v} : KeptO s0 (execStatRegionWrite c v s) := by
  unfold execStatRegionWrite
  repeat' first
    | with_reducible assumption
    | with_reducible refine KeptO.next ?_
    | with_reducible refine State.writeLater_kept ?_
    | with_reducible refine State.awake_kept ?_ ?_
    | with_reducible refine foldl_kept ?_ ?_
    | with_reducible refine foldl_kept_fst ?_ ?_
    | with_reducible refine foldl_kept_snd ?_ ?_
    | with_reducible refine kept_ite ?_ ?_
    | intro _

theorem execArriveWrite_kept {s0 s : State} (h : Kept s0 s) {c n v} : KeptO s0 (execArriveWrite c n v s) := by
  unfold execArriveWrite
  repeat' first
    | with_reducible assumption
    | with_reducible refine KeptO.next ?_
    | with_reducible refine State.arriveWrite_kept ?_
    | with_reducible refine State.awake_kept ?_ ?_
    | with_reducible refine foldl_kept ?_ ?_
    | with_reducible refine foldl_kept_fst ?_ ?_
    | with_reducible refine foldl_kept_snd ?_ ?_
    | with_reducible refine kept_ite ?_ ?_
    | intro _

theorem execTilePassBoundary_kept {s0 s : State} (h : Kept s0 s) {c committed} : KeptO s0 (execTilePassBoundary c
    committed s) := by
  unfold execTilePassBoundary
  repeat' first
    | with_reducible assumption
    | with_reducible refine KeptO.next ?_
    | with_reducible refine State.setFlight_kept ?_
    | with_reducible refine State.handOn_kept ?_
    | with_reducible refine State.banksMove_kept ?_
    | with_reducible refine State.passBanks_kept ?_
    | with_reducible refine State.passBanks_kept_eq (by assumption) ?_
    | with_reducible refine State.bump_kept ?_
    | with_reducible refine State.stopAt_kept ?_
    | with_reducible refine State.awake_kept ?_ ?_
    | with_reducible refine foldl_kept ?_ ?_
    | with_reducible refine foldl_kept_fst ?_ ?_
    | with_reducible refine foldl_kept_snd ?_ ?_
    | with_reducible refine kept_ite ?_ ?_
    | intro _
    | dsimp only
    | split

theorem execQueueAbort_kept {s0 s : State} (h : Kept s0 s) {c q} : KeptO s0 (execQueueAbort c q s) := by
  unfold execQueueAbort
  repeat' first
    | with_reducible assumption
    | with_reducible refine KeptO.next ?_
    | with_reducible refine State.queueAbort_kept ?_
    | with_reducible refine State.awake_kept ?_ ?_
    | with_reducible refine foldl_kept ?_ ?_
    | with_reducible refine foldl_kept_fst ?_ ?_
    | with_reducible refine foldl_kept_snd ?_ ?_
    | with_reducible refine kept_ite ?_ ?_
    | intro _

theorem execQueueResume_kept {s0 s : State} (h : Kept s0 s) {c q} : KeptO s0 (execQueueResume c q s) := by
  unfold execQueueResume
  repeat' first
    | with_reducible assumption
    | with_reducible refine KeptO.next ?_
    | with_reducible refine State.queueResume_kept ?_
    | with_reducible refine State.awake_kept ?_ ?_
    | with_reducible refine foldl_kept ?_ ?_
    | with_reducible refine foldl_kept_fst ?_ ?_
    | with_reducible refine foldl_kept_snd ?_ ?_
    | with_reducible refine kept_ite ?_ ?_
    | intro _

theorem execQueueStart_kept {s0 s : State} (h : Kept s0 s) {c q} : KeptO s0 (execQueueStart c q s) := by
  unfold execQueueStart
  repeat' first
    | with_reducible assumption
    | with_reducible refine KeptO.next ?_
    | with_reducible refine State.queueStart_kept ?_
    | with_reducible refine State.awake_kept ?_ ?_
    | with_reducible refine foldl_kept ?_ ?_
    | with_reducible refine foldl_kept_fst ?_ ?_
    | with_reducible refine foldl_kept_snd ?_ ?_
    | with_reducible refine kept_ite ?_ ?_
    | intro _

theorem execInstructionComplete_kept {s0 s : State} (h : Kept s0 s) {c q seq e wm ecc} : KeptO s0
    (execInstructionComplete c q seq e wm ecc s) := by
  unfold execInstructionComplete
  repeat' first
    | with_reducible assumption
    | with_reducible refine KeptO.next ?_
    | with_reducible refine State.drainQueue_kept ?_
    | with_reducible refine State.settled_kept ?_
    | with_reducible refine State.siteCorrected_kept ?_
    | with_reducible refine State.siteUncorr_kept ?_
    | with_reducible refine State.endFlight_kept ?_
    | with_reducible refine State.awake_kept ?_ ?_
    | with_reducible refine foldl_kept ?_ ?_
    | with_reducible refine foldl_kept_fst ?_ ?_
    | with_reducible refine foldl_kept_snd ?_ ?_
    | with_reducible refine kept_ite ?_ ?_
    | intro _
    | dsimp only
    | split

end Sys2Proof.Machine
end

