-- ==== Sys2Proof/Laws/KeptService.lean ====
section
/-! SUPPORT. That the service firmware, Foreshore, Cliff, CXL and Estuary keep what every command keeps (`Kept`): one lemma a definition. -/

namespace Sys2Proof.Machine

/-! ### Cliff -/

theorem State.setCliffObj_kept {s0 s : State} (h : Kept s0 s) {i o} : Kept s0 (State.setCliffObj s i o) := by
  unfold State.setCliffObj
  repeat' first
    | with_reducible assumption
    | with_reducible refine foldl_kept ?_ ?_
    | with_reducible refine foldl_kept_fst ?_ ?_
    | with_reducible refine foldl_kept_snd ?_ ?_
    | with_reducible refine kept_ite ?_ ?_
    | intro _
    | simp only [Kept.upd]

theorem State.cliffError_kept {s0 s : State} (h : Kept s0 s) {st id wm unit deadline} : Kept s0 (State.cliffError s
    st id wm unit deadline) := by
  unfold State.cliffError
  repeat' first
    | with_reducible assumption
    | with_reducible refine State.report_kept ?_

theorem State.cliffLoad_kept {s0 s : State} (h : Kept s0 s) {o r wm} : Kept s0 (State.cliffLoad s o r wm) := by
  unfold State.cliffLoad
  repeat' first
    | with_reducible assumption
    | with_reducible refine State.engineWrite_kept ?_
    | with_reducible refine State.engineWrite_kept_eq (by assumption) ?_
    | with_reducible refine foldl_kept ?_ ?_
    | with_reducible refine foldl_kept_fst ?_ ?_
    | with_reducible refine foldl_kept_snd ?_ ?_
    | with_reducible refine kept_ite ?_ ?_
    | intro _

theorem State.cliffEffect_kept {s0 s : State} (h : Kept s0 s) {r st wm} : Kept s0 (State.cliffEffect s r st wm) := by
  unfold State.cliffEffect
  repeat' first
    | with_reducible assumption
    | with_reducible refine State.cliffLoad_kept ?_
    | with_reducible refine State.bump_kept ?_
    | with_reducible refine State.bumpFree_kept ?_
    | with_reducible refine State.reads_kept ?_
    | with_reducible refine State.setCliffObj_kept ?_
    | with_reducible refine foldl_kept ?_ ?_
    | with_reducible refine foldl_kept_fst ?_ ?_
    | with_reducible refine foldl_kept_snd ?_ ?_
    | with_reducible refine kept_ite ?_ ?_
    | intro _
    | simp only [Kept.upd]
    | dsimp only
    | split

theorem State.cliffEnds_kept {s0 s : State} (h : Kept s0 s) {r rest st0 wm rebuilt} : Kept s0 (State.cliffEnds s r
    rest st0 wm rebuilt) := by
  unfold State.cliffEnds
  repeat' first
    | with_reducible assumption
    | with_reducible refine State.setFld_kept ?_
    | with_reducible refine State.ringRecord_kept ?_
    | with_reducible refine State.ringError_kept ?_
    | with_reducible refine State.jobPost_kept ?_
    | with_reducible refine State.jobPost_kept_eq (by assumption) ?_
    | with_reducible refine State.goneCount_kept ?_
    | with_reducible refine State.cliffError_kept ?_
    | with_reducible refine State.eccUncorr_kept ?_
    | with_reducible refine State.cliffEffect_kept ?_
    | with_reducible refine State.bump_kept ?_
    | with_reducible refine State.event_kept ?_
    | with_reducible refine foldl_kept ?_ ?_
    | with_reducible refine foldl_kept_fst ?_ ?_
    | with_reducible refine foldl_kept_snd ?_ ?_
    | with_reducible refine kept_ite ?_ ?_
    | intro _
    | simp only [Kept.upd]
    | dsimp only
    | split

theorem State.cliffStart_kept {s0 s : State} (h : Kept s0 s) {op} : Kept s0 (State.cliffStart s op) := by
  unfold State.cliffStart
  repeat' first
    | with_reducible assumption
    | with_reducible refine State.bump_kept ?_
    | with_reducible refine State.drawUpTo_kept ?_
    | with_reducible refine State.drawUpTo_kept_eq (by assumption) ?_
    | with_reducible refine State.setCliffObj_kept ?_
    | with_reducible refine State.reads_kept ?_
    | with_reducible refine foldl_kept ?_ ?_
    | with_reducible refine foldl_kept_fst ?_ ?_
    | with_reducible refine foldl_kept_snd ?_ ?_
    | with_reducible refine kept_ite ?_ ?_
    | intro _
    | simp only [Kept.upd]
    | dsimp only
    | split

theorem State.cliffWear_kept {s0 s : State} (h : Kept s0 s) {mean top spare} : Kept s0 (State.cliffWear s mean top
    spare) := by
  unfold State.cliffWear
  repeat' first
    | with_reducible assumption
    | with_reducible refine State.setFld_kept ?_
    | with_reducible refine State.event_kept ?_
    | with_reducible refine State.wr_kept ?_
    | with_reducible refine foldl_kept ?_ ?_
    | with_reducible refine foldl_kept_fst ?_ ?_
    | with_reducible refine foldl_kept_snd ?_ ?_
    | with_reducible refine kept_ite ?_ ?_

theorem execCliffHousekeeping_kept {s0 s : State} (h : Kept s0 s) {k low mean top spare} : KeptO s0
    (execCliffHousekeeping k low mean top spare s) := by
  unfold execCliffHousekeeping
  repeat' first
    | with_reducible assumption
    | with_reducible refine KeptO.next ?_
    | with_reducible refine State.bumpFree_kept ?_
    | with_reducible refine State.cliffWear_kept ?_
    | with_reducible refine State.event_kept ?_
    | with_reducible refine State.bump_kept ?_
    | with_reducible refine State.setFld_kept ?_
    | with_reducible refine State.awake_kept ?_ ?_
    | with_reducible refine foldl_kept ?_ ?_
    | with_reducible refine foldl_kept_fst ?_ ?_
    | with_reducible refine foldl_kept_snd ?_ ?_
    | with_reducible refine kept_ite ?_ ?_
    | intro _
    | simp only [Kept.upd]
    | dsimp only
    | split

theorem execCliffCommandComplete_kept {s0 s : State} (h : Kept s0 s) {e wm rebuilt} : KeptO s0
    (execCliffCommandComplete e wm rebuilt s) := by
  unfold execCliffCommandComplete
  repeat' first
    | with_reducible assumption
    | with_reducible refine KeptO.next ?_
    | with_reducible refine State.cliffEnds_kept ?_
    | with_reducible refine State.awake_kept ?_ ?_
    | with_reducible refine foldl_kept ?_ ?_
    | with_reducible refine foldl_kept_fst ?_ ?_
    | with_reducible refine foldl_kept_snd ?_ ?_
    | with_reducible refine kept_ite ?_ ?_
    | intro _
    | simp only [Kept.upd]
    | dsimp only
    | split

theorem execDelete_kept {s0 s : State} (h : Kept s0 s) : KeptO s0 (execDelete s) := by
  unfold execDelete
  repeat' first
    | with_reducible assumption
    | with_reducible refine KeptO.next ?_
    | with_reducible refine State.cliffStart_kept ?_
    | with_reducible refine State.awake_kept ?_ ?_
    | with_reducible refine foldl_kept ?_ ?_
    | with_reducible refine foldl_kept_fst ?_ ?_
    | with_reducible refine foldl_kept_snd ?_ ?_
    | with_reducible refine kept_ite ?_ ?_
    | intro _

theorem execRead_kept {s0 s : State} (h : Kept s0 s) : KeptO s0 (execRead s) := by
  unfold execRead
  repeat' first
    | with_reducible assumption
    | with_reducible refine KeptO.next ?_
    | with_reducible refine State.cliffStart_kept ?_
    | with_reducible refine State.awake_kept ?_ ?_
    | with_reducible refine foldl_kept ?_ ?_
    | with_reducible refine foldl_kept_fst ?_ ?_
    | with_reducible refine foldl_kept_snd ?_ ?_
    | with_reducible refine kept_ite ?_ ?_
    | intro _

theorem execWrite_kept {s0 s : State} (h : Kept s0 s) : KeptO s0 (execWrite s) := by
  unfold execWrite
  repeat' first
    | with_reducible assumption
    | with_reducible refine KeptO.next ?_
    | with_reducible refine State.cliffStart_kept ?_
    | with_reducible refine State.awake_kept ?_ ?_
    | with_reducible refine foldl_kept ?_ ?_
    | with_reducible refine foldl_kept_fst ?_ ?_
    | with_reducible refine foldl_kept_snd ?_ ?_
    | with_reducible refine kept_ite ?_ ?_
    | intro _

theorem execCreate_kept {s0 s : State} (h : Kept s0 s) : KeptO s0 (execCreate s) := by
  unfold execCreate
  repeat' first
    | with_reducible assumption
    | with_reducible refine KeptO.next ?_
    | with_reducible refine State.cliffStart_kept ?_
    | with_reducible refine State.awake_kept ?_ ?_
    | with_reducible refine foldl_kept ?_ ?_
    | with_reducible refine foldl_kept_fst ?_ ?_
    | with_reducible refine foldl_kept_snd ?_ ?_
    | with_reducible refine kept_ite ?_ ?_
    | intro _

theorem execCliffRingTailWrite_kept {s0 s : State} (h : Kept s0 s) {v} : KeptO s0 (execCliffRingTailWrite v s) := by
  unfold execCliffRingTailWrite
  repeat' first
    | with_reducible assumption
    | with_reducible refine KeptO.next ?_
    | with_reducible refine State.tailWrite_kept ?_
    | with_reducible refine State.awake_kept ?_ ?_
    | with_reducible refine foldl_kept ?_ ?_
    | with_reducible refine foldl_kept_fst ?_ ?_
    | with_reducible refine foldl_kept_snd ?_ ?_
    | with_reducible refine kept_ite ?_ ?_
    | intro _

/-! ### Foreshore -/

theorem State.setFsJob_kept {s0 s : State} (h : Kept s0 s) {h_ j} : Kept s0 (State.setFsJob s h_ j) := by
  unfold State.setFsJob
  repeat' first
    | with_reducible assumption
    | with_reducible refine State.setFld_kept ?_
    | with_reducible refine foldl_kept ?_ ?_
    | with_reducible refine foldl_kept_fst ?_ ?_
    | with_reducible refine foldl_kept_snd ?_ ?_
    | with_reducible refine kept_ite ?_ ?_
    | intro _
    | simp only [Kept.upd]

theorem State.fsAbort_kept {s0 s : State} (h : Kept s0 s) {h_} : Kept s0 (State.fsAbort s h_) := by
  unfold State.fsAbort
  repeat' first
    | with_reducible assumption
    | with_reducible refine State.setFsJob_kept ?_
    | with_reducible refine foldl_kept ?_ ?_
    | with_reducible refine foldl_kept_fst ?_ ?_
    | with_reducible refine foldl_kept_snd ?_ ?_
    | with_reducible refine kept_ite ?_ ?_
    | intro _
    | simp only [Kept.upd]
    | dsimp only
    | split

theorem State.fsCtrlWrite_kept {s0 s : State} (h : Kept s0 s) {h_ v} : Kept s0 (State.fsCtrlWrite s h_ v) := by
  unfold State.fsCtrlWrite
  repeat' first
    | with_reducible assumption
    | with_reducible refine State.setFsJob_kept ?_
    | with_reducible refine State.wrRw_kept ?_
    | with_reducible refine State.fsAbort_kept ?_
    | with_reducible refine State.clearCounters_kept ?_
    | with_reducible refine foldl_kept ?_ ?_
    | with_reducible refine foldl_kept_fst ?_ ?_
    | with_reducible refine foldl_kept_snd ?_ ?_
    | with_reducible refine kept_ite ?_ ?_

theorem State.fsRead_kept {s0 s : State} (h : Kept s0 s) {j} : Kept s0 (State.fsRead s j) := by
  unfold State.fsRead
  repeat' first
    | with_reducible assumption
    | with_reducible refine State.reads_kept ?_
    | with_reducible refine foldl_kept ?_ ?_
    | with_reducible refine foldl_kept_fst ?_ ?_
    | with_reducible refine foldl_kept_snd ?_ ?_
    | with_reducible refine kept_ite ?_ ?_
    | intro _

theorem State.fsPartial_kept {s0 s : State} (h : Kept s0 s) {h_ j wm} : Kept s0 (State.fsPartial s h_ j wm) := by
  unfold State.fsPartial
  repeat' first
    | with_reducible assumption
    | with_reducible refine State.store_kept ?_
    | with_reducible refine State.event_kept ?_
    | with_reducible refine State.storeFree_kept ?_
    | with_reducible refine State.scramble_kept ?_
    | with_reducible refine State.bump_kept ?_
    | with_reducible refine State.bumpAllFree_kept ?_
    | with_reducible refine State.drawUpTo_kept ?_
    | with_reducible refine State.drawUpTo_kept_eq (by assumption) ?_
    | with_reducible refine State.fsRead_kept ?_
    | with_reducible refine State.engineWrite_kept ?_
    | with_reducible refine State.engineWrite_kept_eq (by assumption) ?_
    | with_reducible refine foldl_kept ?_ ?_
    | with_reducible refine foldl_kept_fst ?_ ?_
    | with_reducible refine foldl_kept_snd ?_ ?_
    | with_reducible refine kept_ite ?_ ?_
    | intro _

theorem State.fsEnd_kept {s0 s : State} (h : Kept s0 s) {h_ j st wm} : Kept s0 (State.fsEnd s h_ j st wm) := by
  unfold State.fsEnd
  repeat' first
    | with_reducible assumption
    | with_reducible refine State.bump_kept ?_
    | with_reducible refine State.setFsJob_kept ?_
    | with_reducible refine State.event_kept ?_
    | with_reducible refine State.setFld_kept ?_
    | with_reducible refine State.ringRecord_kept ?_
    | with_reducible refine State.jobPost_kept ?_
    | with_reducible refine State.jobPost_kept_eq (by assumption) ?_
    | with_reducible refine State.goneCount_kept ?_
    | with_reducible refine State.ringError_kept ?_
    | with_reducible refine foldl_kept ?_ ?_
    | with_reducible refine foldl_kept_fst ?_ ?_
    | with_reducible refine foldl_kept_snd ?_ ?_
    | with_reducible refine kept_ite ?_ ?_

theorem State.fsBegin_kept {s0 s : State} (h : Kept s0 s) {h_ j} : Kept s0 (State.fsBegin s h_ j) := by
  unfold State.fsBegin
  repeat' first
    | with_reducible assumption
    | with_reducible refine State.store_kept ?_
    | with_reducible refine State.bumpFree_kept ?_
    | with_reducible refine State.setFsJob_kept ?_
    | with_reducible refine foldl_kept ?_ ?_
    | with_reducible refine foldl_kept_fst ?_ ?_
    | with_reducible refine foldl_kept_snd ?_ ?_
    | with_reducible refine kept_ite ?_ ?_

theorem State.fsCommit_kept {s0 s : State} (h : Kept s0 s) {h_ j} : Kept s0 (State.fsCommit s h_ j) := by
  unfold State.fsCommit
  repeat' first
    | with_reducible assumption
    | with_reducible refine State.store_kept ?_
    | with_reducible refine State.bumpAllFree_kept ?_
    | with_reducible refine State.event_kept ?_
    | with_reducible refine State.bump_kept ?_
    | with_reducible refine State.engineWrite_kept ?_
    | with_reducible refine State.engineWrite_kept_eq (by assumption) ?_
    | with_reducible refine State.fsRead_kept ?_
    | with_reducible refine foldl_kept ?_ ?_
    | with_reducible refine foldl_kept_fst ?_ ?_
    | with_reducible refine foldl_kept_snd ?_ ?_
    | with_reducible refine kept_ite ?_ ?_
    | intro _
    | simp only [Kept.upd]

theorem execFsAbort_kept {s0 s : State} (h : Kept s0 s) {h_} : KeptO s0 (execFsAbort h_ s) := by
  unfold execFsAbort
  repeat' first
    | with_reducible assumption
    | with_reducible refine KeptO.next ?_
    | with_reducible refine State.fsAbort_kept ?_
    | with_reducible refine State.awake_kept ?_ ?_
    | with_reducible refine foldl_kept ?_ ?_
    | with_reducible refine foldl_kept_fst ?_ ?_
    | with_reducible refine foldl_kept_snd ?_ ?_
    | with_reducible refine kept_ite ?_ ?_
    | intro _

theorem execFsJobComplete_kept {s0 s : State} (h : Kept s0 s) {h_ e wm ecc} : KeptO s0 (execFsJobComplete h_ e wm
    ecc s) := by
  unfold execFsJobComplete
  repeat' first
    | with_reducible assumption
    | with_reducible refine KeptO.next ?_
    | with_reducible refine State.fsCommit_kept ?_
    | with_reducible refine State.fsPartial_kept ?_
    | with_reducible refine State.fsEnd_kept ?_
    | with_reducible refine State.bump_kept ?_
    | with_reducible refine State.event_kept ?_
    | with_reducible refine State.noted_kept ?_
    | with_reducible refine State.awake_kept ?_ ?_
    | with_reducible refine foldl_kept ?_ ?_
    | with_reducible refine foldl_kept_fst ?_ ?_
    | with_reducible refine foldl_kept_snd ?_ ?_
    | with_reducible refine kept_ite ?_ ?_
    | intro _
    | dsimp only
    | split

theorem execFsJobStart_kept {s0 s : State} (h : Kept s0 s) {h_} : KeptO s0 (execFsJobStart h_ s) := by
  unfold execFsJobStart
  repeat' first
    | with_reducible assumption
    | with_reducible refine KeptO.next ?_
    | with_reducible refine State.reads_kept ?_
    | with_reducible refine State.fsBegin_kept ?_
    | with_reducible refine State.fsEnd_kept ?_
    | with_reducible refine State.awake_kept ?_ ?_
    | with_reducible refine foldl_kept ?_ ?_
    | with_reducible refine foldl_kept_fst ?_ ?_
    | with_reducible refine foldl_kept_snd ?_ ?_
    | with_reducible refine kept_ite ?_ ?_
    | intro _
    | dsimp only
    | split

theorem execFsRingTailWrite_kept {s0 s : State} (h : Kept s0 s) {h_ v} : KeptO s0 (execFsRingTailWrite h_ v s) := by
  unfold execFsRingTailWrite
  repeat' first
    | with_reducible assumption
    | with_reducible refine KeptO.next ?_
    | with_reducible refine State.tailWrite_kept ?_
    | with_reducible refine State.awake_kept ?_ ?_
    | with_reducible refine foldl_kept ?_ ?_
    | with_reducible refine foldl_kept_fst ?_ ?_
    | with_reducible refine foldl_kept_snd ?_ ?_
    | with_reducible refine kept_ite ?_ ?_
    | intro _

/-! ### Pool -/

theorem State.programmed_kept {s0 s : State} (h : Kept s0 s) {bytes} : Kept s0 (State.programmed s bytes) := by
  unfold State.programmed
  repeat' first
    | with_reducible assumption
    | with_reducible refine State.bump_kept ?_
    | with_reducible refine State.bumpFree_kept ?_

theorem State.demoteObj_kept {s0 s : State} (h : Kept s0 s) {i t} : Kept s0 (State.demoteObj s i t) := by
  unfold State.demoteObj
  repeat' first
    | with_reducible assumption
    | with_reducible refine State.setCliffObj_kept ?_
    | with_reducible refine State.programmed_kept ?_
    | with_reducible refine foldl_kept ?_ ?_
    | with_reducible refine foldl_kept_fst ?_ ?_
    | with_reducible refine foldl_kept_snd ?_ ?_
    | with_reducible refine kept_ite ?_ ?_
    | intro _
    | dsimp only
    | split

theorem State.setModel_kept {s0 s : State} (h : Kept s0 s) {m v x} : Kept s0 (State.setModel s m v x) := by
  unfold State.setModel
  repeat' first
    | with_reducible assumption
    | with_reducible refine foldl_kept ?_ ?_
    | with_reducible refine foldl_kept_fst ?_ ?_
    | with_reducible refine foldl_kept_snd ?_ ?_
    | with_reducible refine kept_ite ?_ ?_
    | intro _
    | simp only [Kept.upd]

theorem State.setCkpt_kept {s0 s : State} (h : Kept s0 s) {i t} : Kept s0 (State.setCkpt s i t) := by
  unfold State.setCkpt
  repeat' first
    | with_reducible assumption
    | with_reducible refine foldl_kept ?_ ?_
    | with_reducible refine foldl_kept_fst ?_ ?_
    | with_reducible refine foldl_kept_snd ?_ ?_
    | with_reducible refine kept_ite ?_ ?_
    | intro _
    | simp only [Kept.upd]

theorem State.unrefCkpt_kept {s0 s : State} (h : Kept s0 s) {i} : Kept s0 (State.unrefCkpt s i) := by
  unfold State.unrefCkpt
  repeat' first
    | with_reducible assumption
    | with_reducible refine State.setCkpt_kept ?_
    | with_reducible refine foldl_kept ?_ ?_
    | with_reducible refine foldl_kept_fst ?_ ?_
    | with_reducible refine foldl_kept_snd ?_ ?_
    | with_reducible refine kept_ite ?_ ?_
    | intro _
    | simp only [Kept.upd]
    | dsimp only
    | split

theorem State.setPage_kept {s0 s : State} (h : Kept s0 s) {i p} : Kept s0 (State.setPage s i p) := by
  unfold State.setPage
  repeat' first
    | with_reducible assumption
    | with_reducible refine foldl_kept ?_ ?_
    | with_reducible refine foldl_kept_fst ?_ ?_
    | with_reducible refine foldl_kept_snd ?_ ?_
    | with_reducible refine kept_ite ?_ ?_
    | intro _
    | simp only [Kept.upd]

theorem State.freePage_kept {s0 s : State} (h : Kept s0 s) {i} : Kept s0 (State.freePage s i) := by
  unfold State.freePage
  repeat' first
    | with_reducible assumption
    | with_reducible refine State.setPage_kept ?_

theorem State.unrefPage_kept {s0 s : State} (h : Kept s0 s) {i} : Kept s0 (State.unrefPage s i) := by
  unfold State.unrefPage
  repeat' first
    | with_reducible assumption
    | with_reducible refine State.setPage_kept ?_
    | with_reducible refine State.freePage_kept ?_
    | with_reducible refine foldl_kept ?_ ?_
    | with_reducible refine foldl_kept_fst ?_ ?_
    | with_reducible refine foldl_kept_snd ?_ ?_
    | with_reducible refine kept_ite ?_ ?_

theorem State.setNode_kept {s0 s : State} (h : Kept s0 s) {i t} : Kept s0 (State.setNode s i t) := by
  unfold State.setNode
  repeat' first
    | with_reducible assumption
    | with_reducible refine foldl_kept ?_ ?_
    | with_reducible refine foldl_kept_fst ?_ ?_
    | with_reducible refine foldl_kept_snd ?_ ?_
    | with_reducible refine kept_ite ?_ ?_
    | intro _
    | simp only [Kept.upd]

theorem State.evictNode_kept {s0 s : State} (h : Kept s0 s) {i} : Kept s0 (State.evictNode s i) := by
  unfold State.evictNode
  repeat' first
    | with_reducible assumption
    | with_reducible refine State.bump_kept ?_
    | with_reducible refine State.unrefCkpt_kept ?_
    | with_reducible refine State.unrefPage_kept ?_
    | with_reducible refine State.setNode_kept ?_
    | with_reducible refine foldl_kept ?_ ?_
    | with_reducible refine foldl_kept_fst ?_ ?_
    | with_reducible refine foldl_kept_snd ?_ ?_
    | with_reducible refine kept_ite ?_ ?_
    | intro _
    | simp only [Kept.upd]
    | dsimp only
    | split

theorem State.setTok_kept {s0 s : State} (h : Kept s0 s) {i t} : Kept s0 (State.setTok s i t) := by
  unfold State.setTok
  repeat' first
    | with_reducible assumption
    | with_reducible refine foldl_kept ?_ ?_
    | with_reducible refine foldl_kept_fst ?_ ?_
    | with_reducible refine foldl_kept_snd ?_ ?_
    | with_reducible refine kept_ite ?_ ?_
    | intro _
    | simp only [Kept.upd]

theorem State.dropPage_kept {s0 s : State} (h : Kept s0 s) {i mem} : Kept s0 (State.dropPage s i mem) := by
  unfold State.dropPage
  repeat' first
    | with_reducible assumption
    | with_reducible refine State.setPage_kept ?_

theorem State.moveUnit_kept {s0 s : State} (h : Kept s0 s) {src dst} : Kept s0 (State.moveUnit s src dst) := by
  unfold State.moveUnit
  repeat' first
    | with_reducible assumption
    | with_reducible refine State.reads_kept ?_
    | with_reducible refine State.store_kept ?_

theorem State.pick_kept {s0 s : State} (h : Kept s0 s) {used limit} : Kept s0 (State.pick s used limit).2 := by
  unfold State.pick
  repeat' first
    | with_reducible assumption
    | with_reducible refine State.draw_kept ?_

theorem State.pick_kept_eq {s0 s t9 : State} {used limit} {y9} (e : State.pick s used limit = (y9, t9)) (h : Kept
    s0 s) : Kept s0 t9 := by
  have := State.pick_kept h (used := used) (limit := limit)
  rw [e] at this
  exact this

theorem State.cxlUnit_kept {s0 s : State} (h : Kept s0 s) {d} : Kept s0 (State.cxlUnit s d).2 := by
  unfold State.cxlUnit
  repeat' first
    | with_reducible assumption
    | with_reducible refine State.pick_kept ?_

theorem State.cxlUnit_kept_eq {s0 s t9 : State} {d} {y9} (e : State.cxlUnit s d = (y9, t9)) (h : Kept s0 s) : Kept
    s0 t9 := by
  have := State.cxlUnit_kept h (d := d)
  rw [e] at this
  exact this

theorem State.spillInto_kept {s0 s : State} (h : Kept s0 s) {d i} : Kept s0 (State.spillInto s d i) := by
  have k : ∀ p : Option Nat × State, Kept s0 p.2 → Kept s0 (match p with
      | (some a, s) => (s.moveUnit (s.page i).loc a).setPage i { s.page i with st := .spilled, loc := a }
      | (none, s) => if (s.page i).tail then s else s.dropPage i false) := by
    rintro ⟨_ | a, t⟩ k
    · exact kept_ite k (State.dropPage_kept k)
    · exact State.setPage_kept (State.moveUnit_kept k)
  exact k _ (State.cxlUnit_kept h)

theorem State.spillPage_kept {s0 s : State} (h : Kept s0 s) {i} : Kept s0 (State.spillPage s i) := by
  unfold State.spillPage
  repeat' first
    | with_reducible assumption
    | with_reducible refine State.spillInto_kept ?_
    | with_reducible refine State.dropPage_kept ?_
    | with_reducible refine foldl_kept ?_ ?_
    | with_reducible refine foldl_kept_fst ?_ ?_
    | with_reducible refine foldl_kept_snd ?_ ?_
    | with_reducible refine kept_ite ?_ ?_
    | intro _
    | simp only [Kept.upd]
    | dsimp only
    | split

theorem State.evict_kept {s0 s : State} (h : Kept s0 s) {t v} : Kept s0 (State.evict s t v) := by
  unfold State.evict
  repeat' first
    | with_reducible assumption
    | with_reducible refine State.demoteObj_kept ?_
    | with_reducible refine State.setModel_kept ?_
    | with_reducible refine State.evictNode_kept ?_
    | with_reducible refine State.setCkpt_kept ?_
    | with_reducible refine State.setTok_kept ?_
    | with_reducible refine State.programmed_kept ?_
    | with_reducible refine State.dropPage_kept ?_
    | with_reducible refine State.spillPage_kept ?_
    | with_reducible refine foldl_kept ?_ ?_
    | with_reducible refine foldl_kept_fst ?_ ?_
    | with_reducible refine foldl_kept_snd ?_ ?_
    | with_reducible refine kept_ite ?_ ?_
    | intro _
    | dsimp only
    | split

theorem State.takeVictims_kept {s0 s : State} (h : Kept s0 s) {below c t n keep fuel}
    (hb : ∀ u c t n, Kept s0 u → Kept s0 (below u c t n).2) : Kept s0 (State.takeVictims below s c t n keep fuel).2
    := by
  induction fuel generalizing s keep with
  | zero => exact h
  | succ fuel ih =>
    unfold State.takeVictims
    repeat' first
      | with_reducible assumption
      | with_reducible refine ih ?_
      | with_reducible refine State.evict_kept ?_
      | with_reducible refine kept_snd_of_eq (by assumption) (hb _ _ _ _ ?_)
      | with_reducible refine kept_ite_snd ?_ ?_
      | dsimp only
      | split

theorem State.makeRoom_kept {s0 x2 : State} (h : Kept s0 x2) {keep x1 x3 x4 x5} : Kept s0 (State.makeRoom keep x1
    x2 x3 x4 x5).2 := by
  induction x1 generalizing x2 x3 x4 x5 with
  | zero => exact h
  | succ n ih => exact State.takeVictims_kept h (fun u c t n k => ih k)

theorem State.makeRoom_kept_eq {s0 x2 t9 : State} {keep x1 x3 x4 x5} {y9} (e : State.makeRoom keep x1 x2 x3 x4 x5 =
    (y9, t9)) (h : Kept s0 x2) : Kept s0 t9 := by
  have := State.makeRoom_kept h (keep := keep) (x1 := x1) (x3 := x3) (x4 := x4) (x5 := x5)
  rw [e] at this
  exact this

theorem State.allocate_kept {s0 s : State} (h : Kept s0 s) {c t n keep} : Kept s0 (State.allocate s c t n keep).2
    := by
  unfold State.allocate
  repeat' first
    | with_reducible assumption
    | with_reducible refine State.makeRoom_kept ?_

theorem State.allocate_kept_eq {s0 s t9 : State} {c t n keep} {y9} (e : State.allocate s c t n keep = (y9, t9)) (h
    : Kept s0 s) : Kept s0 t9 := by
  have := State.allocate_kept h (c := c) (t := t) (n := n) (keep := keep)
  rw [e] at this
  exact this

theorem State.hbmUnit_kept {s0 s : State} (h : Kept s0 s) {b} : Kept s0 (State.hbmUnit s b).2 := by
  unfold State.hbmUnit
  repeat' first
    | with_reducible assumption
    | with_reducible refine State.draw_kept ?_

theorem State.hbmUnit_kept_eq {s0 s t9 : State} {b} {y9} (e : State.hbmUnit s b = (y9, t9)) (h : Kept s0 s) : Kept
    s0 t9 := by
  have := State.hbmUnit_kept h (b := b)
  rw [e] at this
  exact this

theorem State.setStream_kept {s0 s : State} (h : Kept s0 s) {i t} : Kept s0 (State.setStream s i t) := by
  unfold State.setStream
  repeat' first
    | with_reducible assumption
    | with_reducible refine foldl_kept ?_ ?_
    | with_reducible refine foldl_kept_fst ?_ ?_
    | with_reducible refine foldl_kept_snd ?_ ?_
    | with_reducible refine kept_ite ?_ ?_
    | intro _
    | simp only [Kept.upd]

theorem State.unrefTok_kept {s0 s : State} (h : Kept s0 s) {i} : Kept s0 (State.unrefTok s i) := by
  unfold State.unrefTok
  repeat' first
    | with_reducible assumption
    | with_reducible refine State.setTok_kept ?_
    | with_reducible refine foldl_kept ?_ ?_
    | with_reducible refine foldl_kept_fst ?_ ?_
    | with_reducible refine foldl_kept_snd ?_ ?_
    | with_reducible refine kept_ite ?_ ?_
    | intro _
    | simp only [Kept.upd]
    | dsimp only
    | split

theorem State.setScene_kept {s0 s : State} (h : Kept s0 s) {i t} : Kept s0 (State.setScene s i t) := by
  unfold State.setScene
  repeat' first
    | with_reducible assumption
    | with_reducible refine foldl_kept ?_ ?_
    | with_reducible refine foldl_kept_fst ?_ ?_
    | with_reducible refine foldl_kept_snd ?_ ?_
    | with_reducible refine kept_ite ?_ ?_
    | intro _
    | simp only [Kept.upd]

theorem State.setReq_kept {s0 s : State} (h : Kept s0 s) {i t} : Kept s0 (State.setReq s i t) := by
  unfold State.setReq
  repeat' first
    | with_reducible assumption
    | with_reducible refine foldl_kept ?_ ?_
    | with_reducible refine foldl_kept_fst ?_ ?_
    | with_reducible refine foldl_kept_snd ?_ ?_
    | with_reducible refine kept_ite ?_ ?_
    | intro _
    | simp only [Kept.upd]

theorem State.poolFloorWrite_kept {s0 s : State} (h : Kept s0 s) {t v} : Kept s0 (State.poolFloorWrite s t v) := by
  unfold State.poolFloorWrite
  repeat' first
    | with_reducible assumption
    | with_reducible refine State.wrRw_kept ?_
    | with_reducible refine State.ignore_kept ?_
    | with_reducible refine foldl_kept ?_ ?_
    | with_reducible refine foldl_kept_fst ?_ ?_
    | with_reducible refine foldl_kept_snd ?_ ?_
    | with_reducible refine kept_ite ?_ ?_

theorem State.unpin_kept {s0 s : State} (h : Kept s0 s) {i} : Kept s0 (State.unpin s i) := by
  unfold State.unpin
  repeat' first
    | with_reducible assumption
    | with_reducible refine State.dropPage_kept ?_
    | with_reducible refine State.freePage_kept ?_
    | with_reducible refine State.setPage_kept ?_
    | with_reducible refine foldl_kept ?_ ?_
    | with_reducible refine foldl_kept_fst ?_ ?_
    | with_reducible refine foldl_kept_snd ?_ ?_
    | with_reducible refine kept_ite ?_ ?_

theorem State.poolWaits_kept {s0 s : State} (h : Kept s0 s) : Kept s0 (State.poolWaits s) := by
  unfold State.poolWaits
  repeat' first
    | with_reducible assumption
    | with_reducible refine State.bump_kept ?_

/-! ### Place -/

theorem State.bindQueue_kept {s0 s : State} (h : Kept s0 s) {scene cls leader seed step c} : Kept s0
    (State.bindQueue s scene cls leader seed step c).2 := by
  unfold State.bindQueue
  repeat' first
    | with_reducible assumption
    | with_reducible refine State.setFld_kept ?_
    | with_reducible refine State.setQueue_kept ?_
    | with_reducible refine State.pick_kept ?_
    | with_reducible refine State.pick_kept_eq (by assumption) ?_
    | with_reducible refine foldl_kept ?_ ?_
    | with_reducible refine foldl_kept_fst ?_ ?_
    | with_reducible refine foldl_kept_snd ?_ ?_
    | with_reducible refine kept_ite ?_ ?_
    | with_reducible refine kept_ite_snd ?_ ?_
    | intro _
    | dsimp only
    | split

theorem State.bindQueue_kept_eq {s0 s t9 : State} {scene cls leader seed step c} {y9} (e : State.bindQueue s scene
    cls leader seed step c = (y9, t9)) (h : Kept s0 s) : Kept s0 t9 := by
  have := State.bindQueue_kept h (scene := scene) (cls := cls) (leader := leader) (seed := seed) (step := step) (c := c)
  rw [e] at this
  exact this

theorem State.bindQueues_kept {s0 s : State} (h : Kept s0 s) {scene cls leader seed step x1} : Kept s0
    (State.bindQueues s scene cls leader seed step x1).2 := by
  induction x1 generalizing s with
  | nil =>
    unfold State.bindQueues
    repeat' first
      | with_reducible assumption
  | cons a l ih =>
    unfold State.bindQueues
    repeat' first
      | with_reducible assumption
      | with_reducible refine ih ?_
      | with_reducible refine kept_snd_of_eq (by assumption) (ih ?_)
      | with_reducible refine State.bindQueue_kept ?_

theorem State.bindQueues_kept_eq {s0 s t9 : State} {scene cls leader seed step x1} {y9} (e : State.bindQueues s
    scene cls leader seed step x1 = (y9, t9)) (h : Kept s0 s) : Kept s0 t9 := by
  have := State.bindQueues_kept h (scene := scene) (cls := cls) (leader := leader) (seed := seed) (step := step) (x1 := x1)
  rw [e] at this
  exact this

theorem State.combineSplit_kept {s0 s : State} (h : Kept s0 s) {cl buffers elems parts} : Kept s0
    (State.combineSplit s cl buffers elems parts) := by
  unfold State.combineSplit
  repeat' first
    | with_reducible assumption
    | with_reducible refine State.reduceAt_kept ?_
    | with_reducible refine State.traffic_kept ?_
    | with_reducible refine State.store_kept ?_
    | with_reducible refine foldl_kept ?_ ?_
    | with_reducible refine foldl_kept_fst ?_ ?_
    | with_reducible refine foldl_kept_snd ?_ ?_
    | with_reducible refine kept_ite ?_ ?_
    | intro _
    | simp only [Kept.upd]

theorem State.unbindQueues_kept {s0 s : State} (h : Kept s0 s) {l} : Kept s0 (State.unbindQueues s l) := by
  unfold State.unbindQueues
  repeat' first
    | with_reducible assumption
    | with_reducible refine State.setQueue_kept ?_
    | with_reducible refine State.setFld_kept ?_
    | with_reducible refine foldl_kept ?_ ?_
    | with_reducible refine foldl_kept_fst ?_ ?_
    | with_reducible refine foldl_kept_snd ?_ ?_
    | with_reducible refine kept_ite ?_ ?_
    | intro _

theorem State.writeHomes_kept {s0 s : State} (h : Kept s0 s) {x} : Kept s0 (State.writeHomes s x) := by
  unfold State.writeHomes
  repeat' first
    | with_reducible assumption
    | with_reducible refine State.store_kept ?_
    | with_reducible refine foldl_kept ?_ ?_
    | with_reducible refine foldl_kept_fst ?_ ?_
    | with_reducible refine foldl_kept_snd ?_ ?_
    | with_reducible refine kept_ite ?_ ?_
    | intro _

theorem State.takeHomes_kept {s0 s : State} (h : Kept s0 s) {x pinned} : Kept s0 (State.takeHomes s x pinned).2 := by
  unfold State.takeHomes
  repeat' first
    | with_reducible assumption
    | with_reducible refine State.draw_kept ?_
    | with_reducible refine State.draw_kept_eq (by assumption) ?_
    | with_reducible refine State.writeHomes_kept ?_
    | with_reducible refine foldl_kept ?_ ?_
    | with_reducible refine foldl_kept_fst ?_ ?_
    | with_reducible refine foldl_kept_snd ?_ ?_
    | with_reducible refine kept_ite ?_ ?_
    | with_reducible refine kept_ite_snd ?_ ?_
    | intro _
    | dsimp only
    | split

theorem State.takeHomes_kept_eq {s0 s t9 : State} {x pinned} {y9} (e : State.takeHomes s x pinned = (y9, t9)) (h :
    Kept s0 s) : Kept s0 t9 := by
  have := State.takeHomes_kept h (x := x) (pinned := pinned)
  rw [e] at this
  exact this

/-! ### Tree -/

theorem State.refCkpt_kept {s0 s : State} (h : Kept s0 s) {i n} : Kept s0 (State.refCkpt s i n) := by
  unfold State.refCkpt
  repeat' first
    | with_reducible assumption
    | with_reducible refine State.setCkpt_kept ?_

theorem State.refPage_kept {s0 s : State} (h : Kept s0 s) {i n} : Kept s0 (State.refPage s i n) := by
  unfold State.refPage
  repeat' first
    | with_reducible assumption
    | with_reducible refine State.setPage_kept ?_

theorem State.nodeRoom_kept {s0 s : State} (h : Kept s0 s) {path} : Kept s0 (State.nodeRoom s path) := by
  unfold State.nodeRoom
  repeat' first
    | with_reducible assumption
    | with_reducible refine State.evictNode_kept ?_
    | with_reducible refine State.event_kept ?_
    | with_reducible refine foldl_kept ?_ ?_
    | with_reducible refine foldl_kept_fst ?_ ?_
    | with_reducible refine foldl_kept_snd ?_ ?_
    | with_reducible refine kept_ite ?_ ?_
    | intro _
    | simp only [Kept.upd]
    | dsimp only
    | split

theorem State.lookNode_kept {s0 s : State} (h : Kept s0 s) {key parent model version tokens} : Kept s0
    (State.lookNode s key parent model version tokens).2 := by
  unfold State.lookNode
  repeat' first
    | with_reducible assumption
    | with_reducible refine State.bump_kept ?_
    | with_reducible refine State.event_kept ?_
    | with_reducible refine foldl_kept ?_ ?_
    | with_reducible refine foldl_kept_fst ?_ ?_
    | with_reducible refine foldl_kept_snd ?_ ?_
    | with_reducible refine kept_ite ?_ ?_
    | with_reducible refine kept_ite_snd ?_ ?_
    | intro _
    | dsimp only
    | split

theorem State.lookNode_kept_eq {s0 s t9 : State} {key parent model version tokens} {y9} (e : State.lookNode s key
    parent model version tokens = (y9, t9)) (h : Kept s0 s) : Kept s0 t9 := by
  have := State.lookNode_kept h (key := key) (parent := parent) (model := model) (version := version) (tokens := tokens)
  rw [e] at this
  exact this

theorem State.insertTree_kept {s0 s : State} (h : Kept s0 s) {model version cls per rows ck parent pkey path x1 x2}
    : Kept s0 (State.insertTree s model version cls per rows ck parent pkey path x1 x2) := by
  induction x2 generalizing s x1 parent pkey path with
  | nil =>
    unfold State.insertTree
    repeat' first
      | with_reducible assumption
  | cons a l ih =>
    unfold State.insertTree
    repeat' first
      | with_reducible assumption
      | with_reducible refine ih ?_
      | with_reducible refine State.refCkpt_kept ?_
      | with_reducible refine State.refPage_kept ?_
      | with_reducible refine State.draw_kept ?_
      | with_reducible refine State.draw_kept_eq (by assumption) ?_
      | with_reducible refine State.pick_kept ?_
      | with_reducible refine State.pick_kept_eq (by assumption) ?_
      | with_reducible refine State.nodeRoom_kept ?_
      | with_reducible refine State.setNode_kept ?_
      | with_reducible refine State.lookNode_kept ?_
      | with_reducible refine State.lookNode_kept_eq (by assumption) ?_
      | with_reducible refine foldl_kept ?_ ?_
      | with_reducible refine foldl_kept_fst ?_ ?_
      | with_reducible refine foldl_kept_snd ?_ ?_
      | with_reducible refine kept_ite ?_ ?_
      | intro _
      | dsimp only
      | split

theorem State.insertStream_kept {s0 s : State} (h : Kept s0 s) {i below} : Kept s0 (State.insertStream s i below)
    := by
  unfold State.insertStream
  repeat' first
    | with_reducible assumption
    | with_reducible refine State.insertTree_kept ?_
    | with_reducible refine foldl_kept ?_ ?_
    | with_reducible refine foldl_kept_fst ?_ ?_
    | with_reducible refine foldl_kept_snd ?_ ?_
    | with_reducible refine kept_ite ?_ ?_
    | intro _
    | dsimp only
    | split

theorem State.evictVersion_kept {s0 s : State} (h : Kept s0 s) {m v x1} : Kept s0 (State.evictVersion s m v x1) := by
  induction x1 generalizing s with
  | zero =>
    unfold State.evictVersion
    repeat' first
      | with_reducible assumption
  | succ n ih =>
    unfold State.evictVersion
    repeat' first
      | with_reducible assumption
      | with_reducible refine ih ?_
      | with_reducible refine State.evictNode_kept ?_
      | with_reducible refine foldl_kept ?_ ?_
      | with_reducible refine foldl_kept_fst ?_ ?_
      | with_reducible refine foldl_kept_snd ?_ ?_
      | with_reducible refine kept_ite ?_ ?_
      | intro _
      | simp only [Kept.upd]
      | dsimp only
      | split

theorem State.refTok_kept {s0 s : State} (h : Kept s0 s) {i n} : Kept s0 (State.refTok s i n) := by
  unfold State.refTok
  repeat' first
    | with_reducible assumption
    | with_reducible refine State.setTok_kept ?_

theorem State.fitNodes_kept {s0 s : State} (h : Kept s0 s) {limit x1} : Kept s0 (State.fitNodes s limit x1) := by
  induction x1 generalizing s with
  | zero =>
    unfold State.fitNodes
    repeat' first
      | with_reducible assumption
  | succ n ih =>
    unfold State.fitNodes
    repeat' first
      | with_reducible assumption
      | with_reducible refine ih ?_
      | with_reducible refine State.evictNode_kept ?_
      | with_reducible refine foldl_kept ?_ ?_
      | with_reducible refine foldl_kept_fst ?_ ?_
      | with_reducible refine foldl_kept_snd ?_ ?_
      | with_reducible refine kept_ite ?_ ?_
      | intro _
      | simp only [Kept.upd]
      | dsimp only
      | split

theorem State.rollNodeLimitWrite_kept {s0 s : State} (h : Kept s0 s) {v} : Kept s0 (State.rollNodeLimitWrite s v)
    := by
  unfold State.rollNodeLimitWrite
  repeat' first
    | with_reducible assumption
    | with_reducible refine State.wrRw_kept ?_
    | with_reducible refine State.fitNodes_kept ?_
    | with_reducible refine foldl_kept ?_ ?_
    | with_reducible refine foldl_kept_fst ?_ ?_
    | with_reducible refine foldl_kept_snd ?_ ?_
    | with_reducible refine kept_ite ?_ ?_

theorem State.walkTree_kept {s0 s : State} (h : Kept s0 s) {model version parent pkey x1} : Kept s0 (State.walkTree
    s model version parent pkey x1).2 := by
  induction x1 generalizing s parent pkey with
  | nil =>
    unfold State.walkTree
    repeat' first
      | with_reducible assumption
  | cons a l ih =>
    unfold State.walkTree
    repeat' first
      | with_reducible assumption
      | with_reducible refine ih ?_
      | with_reducible refine kept_snd_of_eq (by assumption) (ih ?_)
      | with_reducible refine State.setNode_kept ?_
      | with_reducible refine State.lookNode_kept ?_
      | with_reducible refine State.lookNode_kept_eq (by assumption) ?_
      | with_reducible refine foldl_kept ?_ ?_
      | with_reducible refine foldl_kept_fst ?_ ?_
      | with_reducible refine foldl_kept_snd ?_ ?_
      | with_reducible refine kept_ite ?_ ?_
      | with_reducible refine kept_ite_snd ?_ ?_
      | intro _
      | dsimp only
      | split

theorem State.walkTree_kept_eq {s0 s t9 : State} {model version parent pkey x1} {y9} (e : State.walkTree s model
    version parent pkey x1 = (y9, t9)) (h : Kept s0 s) : Kept s0 t9 := by
  have := State.walkTree_kept h (model := model) (version := version) (parent := parent) (pkey := pkey) (x1 := x1)
  rw [e] at this
  exact this

theorem execRollNodeLimitWrite_kept {s0 s : State} (h : Kept s0 s) {v} : KeptO s0 (execRollNodeLimitWrite v s) := by
  unfold execRollNodeLimitWrite
  repeat' first
    | with_reducible assumption
    | with_reducible refine KeptO.next ?_
    | with_reducible refine State.rollNodeLimitWrite_kept ?_
    | with_reducible refine State.awake_kept ?_ ?_
    | with_reducible refine foldl_kept ?_ ?_
    | with_reducible refine foldl_kept_fst ?_ ?_
    | with_reducible refine foldl_kept_snd ?_ ?_
    | with_reducible refine kept_ite ?_ ?_
    | intro _

/-! ### Scene -/

theorem State.dropWork_kept {s0 s : State} (h : Kept s0 s) {k} : Kept s0 (State.dropWork s k) := by
  unfold State.dropWork
  repeat' first
    | with_reducible assumption
    | with_reducible refine foldl_kept ?_ ?_
    | with_reducible refine foldl_kept_fst ?_ ?_
    | with_reducible refine foldl_kept_snd ?_ ?_
    | with_reducible refine kept_ite ?_ ?_
    | intro _
    | simp only [Kept.upd]

theorem State.answer_kept {s0 s : State} (h : Kept s0 s) {k st wmUnit wm body writes} : Kept s0 (State.answer s k
    st wmUnit wm body writes) := by
  unfold State.answer
  repeat' first
    | with_reducible assumption
    | with_reducible refine State.event_kept ?_
    | with_reducible refine State.bump_kept ?_
    | with_reducible refine State.dropWork_kept ?_
    | with_reducible refine State.respond_kept ?_
    | with_reducible refine foldl_kept ?_ ?_
    | with_reducible refine foldl_kept_fst ?_ ?_
    | with_reducible refine foldl_kept_snd ?_ ?_
    | with_reducible refine kept_ite ?_ ?_
    | intro _
    | dsimp only
    | split

theorem State.beginRecompute_kept {s0 s : State} (h : Kept s0 s) {g} : Kept s0 (State.beginRecompute s g) := by
  unfold State.beginRecompute
  repeat' first
    | with_reducible assumption
    | with_reducible refine State.setPage_kept ?_
    | with_reducible refine State.hbmUnit_kept ?_

theorem State.unspill_kept {s0 s : State} (h : Kept s0 s) {g} : Kept s0 (State.unspill s g) := by
  unfold State.unspill
  repeat' first
    | with_reducible assumption
    | with_reducible refine State.moveUnit_kept ?_
    | with_reducible refine State.setPage_kept ?_
    | with_reducible refine State.hbmUnit_kept ?_
    | with_reducible refine State.hbmUnit_kept_eq (by assumption) ?_
    | with_reducible refine foldl_kept ?_ ?_
    | with_reducible refine foldl_kept_fst ?_ ?_
    | with_reducible refine foldl_kept_snd ?_ ?_
    | with_reducible refine kept_ite ?_ ?_
    | intro _
    | dsimp only
    | split

theorem State.refuse_kept {s0 s : State} (h : Kept s0 s) {k st} : Kept s0 (State.refuse s k st) := by
  unfold State.refuse
  repeat' first
    | with_reducible assumption
    | with_reducible refine State.answer_kept ?_
    | with_reducible refine foldl_kept ?_ ?_
    | with_reducible refine foldl_kept_fst ?_ ?_
    | with_reducible refine foldl_kept_snd ?_ ?_
    | with_reducible refine kept_ite ?_ ?_
    | intro _
    | simp only [Kept.upd]
    | dsimp only
    | split

theorem State.closeStream_kept {s0 s : State} (h : Kept s0 s) {i but} : Kept s0 (State.closeStream s i but) := by
  unfold State.closeStream
  repeat' first
    | with_reducible assumption
    | with_reducible refine State.refuse_kept ?_
    | with_reducible refine State.setStream_kept ?_
    | with_reducible refine State.unrefCkpt_kept ?_
    | with_reducible refine State.unrefTok_kept ?_
    | with_reducible refine State.unrefPage_kept ?_
    | with_reducible refine State.insertStream_kept ?_
    | with_reducible refine foldl_kept ?_ ?_
    | with_reducible refine foldl_kept_fst ?_ ?_
    | with_reducible refine foldl_kept_snd ?_ ?_
    | with_reducible refine kept_ite ?_ ?_
    | intro _
    | simp only [Kept.upd]
    | dsimp only
    | split

theorem State.retireCheck_kept {s0 s : State} (h : Kept s0 s) {m v} : Kept s0 (State.retireCheck s m v) := by
  unfold State.retireCheck
  repeat' first
    | with_reducible assumption
    | with_reducible refine State.setModel_kept ?_
    | with_reducible refine State.evictVersion_kept ?_
    | with_reducible refine foldl_kept ?_ ?_
    | with_reducible refine foldl_kept_fst ?_ ?_
    | with_reducible refine foldl_kept_snd ?_ ?_
    | with_reducible refine kept_ite ?_ ?_
    | intro _
    | simp only [Kept.upd]
    | dsimp only
    | split

theorem State.closeScene_kept {s0 s : State} (h : Kept s0 s) {i} : Kept s0 (State.closeScene s i) := by
  unfold State.closeScene
  repeat' first
    | with_reducible assumption
    | with_reducible refine State.retireCheck_kept ?_
    | with_reducible refine State.setScene_kept ?_
    | with_reducible refine State.closeStream_kept ?_
    | with_reducible refine foldl_kept ?_ ?_
    | with_reducible refine foldl_kept_fst ?_ ?_
    | with_reducible refine foldl_kept_snd ?_ ?_
    | with_reducible refine kept_ite ?_ ?_
    | intro _
    | simp only [Kept.upd]
    | dsimp only
    | split

theorem State.pickSlots_kept {s0 s : State} (h : Kept s0 s) {used x1} : Kept s0 (State.pickSlots s used x1).2 := by
  induction x1 generalizing s used with
  | zero =>
    unfold State.pickSlots
    repeat' first
      | with_reducible assumption
  | succ n ih =>
    unfold State.pickSlots
    repeat' first
      | with_reducible assumption
      | with_reducible refine ih ?_
      | with_reducible refine kept_snd_of_eq (by assumption) (ih ?_)
      | with_reducible refine State.pick_kept ?_
      | with_reducible refine State.pick_kept_eq (by assumption) ?_
      | with_reducible refine foldl_kept ?_ ?_
      | with_reducible refine foldl_kept_fst ?_ ?_
      | with_reducible refine foldl_kept_snd ?_ ?_
      | with_reducible refine kept_ite ?_ ?_
      | with_reducible refine kept_ite_snd ?_ ?_
      | intro _
      | dsimp only
      | split

theorem State.pickSlots_kept_eq {s0 s t9 : State} {used x1} {y9} (e : State.pickSlots s used x1 = (y9, t9)) (h :
    Kept s0 s) : Kept s0 t9 := by
  have := State.pickSlots_kept h (used := used) (x1 := x1)
  rw [e] at this
  exact this

theorem State.countAtomics_kept {s0 s : State} (h : Kept s0 s) {n} : Kept s0 (State.countAtomics s n) := by
  unfold State.countAtomics
  repeat' first
    | with_reducible assumption
    | with_reducible refine State.bump_kept ?_
    | with_reducible refine State.drawBit_kept ?_
    | with_reducible refine State.drawBit_kept_eq (by assumption) ?_
    | with_reducible refine foldl_kept ?_ ?_
    | with_reducible refine foldl_kept_fst ?_ ?_
    | with_reducible refine foldl_kept_snd ?_ ?_
    | with_reducible refine kept_ite ?_ ?_
    | intro _

theorem State.fork_kept {s0 s : State} (h : Kept s0 s) {src n key first} : Kept s0 (State.fork s src n key first).2
    := by
  unfold State.fork
  repeat' first
    | with_reducible assumption
    | with_reducible refine State.bump_kept ?_
    | with_reducible refine State.setStream_kept ?_
    | with_reducible refine State.draw_kept ?_
    | with_reducible refine State.draw_kept_eq (by assumption) ?_
    | with_reducible refine State.pickSlots_kept ?_
    | with_reducible refine State.pickSlots_kept_eq (by assumption) ?_
    | with_reducible refine State.countAtomics_kept ?_
    | with_reducible refine State.refCkpt_kept ?_
    | with_reducible refine State.refTok_kept ?_
    | with_reducible refine State.refPage_kept ?_
    | with_reducible refine State.insertStream_kept ?_
    | with_reducible refine State.setScene_kept ?_
    | with_reducible refine State.allocate_kept ?_
    | with_reducible refine State.allocate_kept_eq (by assumption) ?_
    | with_reducible refine State.event_kept ?_
    | with_reducible refine foldl_kept ?_ ?_
    | with_reducible refine foldl_kept_fst ?_ ?_
    | with_reducible refine foldl_kept_snd ?_ ?_
    | with_reducible refine kept_ite ?_ ?_
    | with_reducible refine kept_ite_snd ?_ ?_
    | intro _
    | dsimp only
    | split

theorem State.fork_kept_eq {s0 s t9 : State} {src n key first} {y9} (e : State.fork s src n key first = (y9, t9))
    (h : Kept s0 s) : Kept s0 t9 := by
  have := State.fork_kept h (src := src) (n := n) (key := key) (first := first)
  rw [e] at this
  exact this

theorem State.setGroups_kept {s0 s : State} (h : Kept s0 s) {k x1 x2} : Kept s0 (State.setGroups s k x1 x2) := by
  induction x2 generalizing s x1 with
  | nil =>
    unfold State.setGroups
    repeat' first
      | with_reducible assumption
  | cons a l ih =>
    unfold State.setGroups
    repeat' first
      | with_reducible assumption
      | with_reducible refine ih ?_
      | with_reducible refine State.setStream_kept ?_
      | with_reducible refine foldl_kept ?_ ?_
      | with_reducible refine foldl_kept_fst ?_ ?_
      | with_reducible refine foldl_kept_snd ?_ ?_
      | with_reducible refine kept_ite ?_ ?_
      | intro _

theorem State.waitPhase_kept {s0 s : State} (h : Kept s0 s) {i p} : Kept s0 (State.waitPhase s i p) := by
  unfold State.waitPhase
  repeat' first
    | with_reducible assumption
    | with_reducible refine State.setStream_kept ?_

theorem State.observeEnd_kept {s0 s : State} (h : Kept s0 s) {i k st wm} : Kept s0 (State.observeEnd s i k st wm)
    := by
  unfold State.observeEnd
  repeat' first
    | with_reducible assumption
    | with_reducible refine State.answer_kept ?_

theorem State.breakForks_kept {s0 s : State} (h : Kept s0 s) {l} : Kept s0 (State.breakForks s l) := by
  unfold State.breakForks
  repeat' first
    | with_reducible assumption
    | with_reducible refine State.refuse_kept ?_
    | with_reducible refine foldl_kept ?_ ?_
    | with_reducible refine foldl_kept_fst ?_ ?_
    | with_reducible refine foldl_kept_snd ?_ ?_
    | with_reducible refine kept_ite ?_ ?_
    | intro _

theorem State.takeCkpt_kept {s0 s : State} (h : Kept s0 s) {i anchored} : Kept s0 (State.takeCkpt s i anchored) := by
  unfold State.takeCkpt
  repeat' first
    | with_reducible assumption
    | with_reducible refine State.pick_kept ?_
    | with_reducible refine State.pick_kept_eq (by assumption) ?_
    | with_reducible refine State.allocate_kept ?_
    | with_reducible refine State.allocate_kept_eq (by assumption) ?_
    | with_reducible refine State.setCkpt_kept ?_
    | with_reducible refine State.setStream_kept ?_
    | with_reducible refine foldl_kept ?_ ?_
    | with_reducible refine foldl_kept_fst ?_ ?_
    | with_reducible refine foldl_kept_snd ?_ ?_
    | with_reducible refine kept_ite ?_ ?_
    | intro _
    | dsimp only
    | split

theorem State.reanchor_kept {s0 s : State} (h : Kept s0 s) {i sc x} : Kept s0 (State.reanchor s i sc x) := by
  unfold State.reanchor
  repeat' first
    | with_reducible assumption
    | with_reducible refine State.takeCkpt_kept ?_
    | with_reducible refine State.setStream_kept ?_
    | with_reducible refine foldl_kept ?_ ?_
    | with_reducible refine foldl_kept_fst ?_ ?_
    | with_reducible refine foldl_kept_snd ?_ ?_
    | with_reducible refine kept_ite ?_ ?_
    | intro _
    | dsimp only
    | split

theorem State.carried_kept {s0 s : State} (h : Kept s0 s) {i before sc drift} : Kept s0 (State.carried s i before
    sc drift) := by
  unfold State.carried
  repeat' first
    | with_reducible assumption
    | with_reducible refine State.reanchor_kept ?_
    | with_reducible refine State.takeCkpt_kept ?_
    | with_reducible refine foldl_kept ?_ ?_
    | with_reducible refine foldl_kept_fst ?_ ?_
    | with_reducible refine foldl_kept_snd ?_ ?_
    | with_reducible refine kept_ite ?_ ?_
    | intro _
    | dsimp only
    | split

theorem State.endRun_kept {s0 s : State} (h : Kept s0 s) {i} : Kept s0 (State.endRun s i) := by
  unfold State.endRun
  repeat' first
    | with_reducible assumption
    | with_reducible refine State.unbindQueues_kept ?_
    | with_reducible refine State.setStream_kept ?_
    | with_reducible refine foldl_kept ?_ ?_
    | with_reducible refine foldl_kept_fst ?_ ?_
    | with_reducible refine foldl_kept_snd ?_ ?_
    | with_reducible refine kept_ite ?_ ?_
    | intro _
    | dsimp only
    | split

theorem State.writeKv_kept {s0 s : State} (h : Kept s0 s) {cl x inp j entry loc} : Kept s0 (State.writeKv s cl x
    inp j entry loc) := by
  unfold State.writeKv
  repeat' first
    | with_reducible assumption
    | with_reducible refine State.engineWrite_kept ?_
    | with_reducible refine State.engineWrite_kept_eq (by assumption) ?_
    | with_reducible refine foldl_kept ?_ ?_
    | with_reducible refine foldl_kept_fst ?_ ?_
    | with_reducible refine foldl_kept_snd ?_ ?_
    | with_reducible refine kept_ite ?_ ?_
    | intro _
    | dsimp only
    | split

theorem State.writePos_kept {s0 s : State} (h : Kept s0 s) {cl x inp map j} : Kept s0 (State.writePos s cl x inp
    map j) := by
  unfold State.writePos
  repeat' first
    | with_reducible assumption
    | with_reducible refine State.setPage_kept ?_
    | with_reducible refine State.writeKv_kept ?_
    | with_reducible refine foldl_kept ?_ ?_
    | with_reducible refine foldl_kept_fst ?_ ?_
    | with_reducible refine foldl_kept_snd ?_ ?_
    | with_reducible refine kept_ite ?_ ?_
    | intro _

theorem State.commitStep_kept {s0 s : State} (h : Kept s0 s) {i st sc r} : Kept s0 (State.commitStep s i st sc r)
    := by
  unfold State.commitStep
  repeat' first
    | with_reducible assumption
    | with_reducible refine State.insertStream_kept ?_
    | with_reducible refine State.carried_kept ?_
    | with_reducible refine State.endRun_kept ?_
    | with_reducible refine State.setStream_kept ?_
    | with_reducible refine State.unpin_kept ?_
    | with_reducible refine State.writePos_kept ?_
    | with_reducible refine foldl_kept ?_ ?_
    | with_reducible refine foldl_kept_fst ?_ ?_
    | with_reducible refine foldl_kept_snd ?_ ?_
    | with_reducible refine kept_ite ?_ ?_
    | intro _

theorem State.freeEntries_kept {s0 s : State} (h : Kept s0 s) {x loc from_} : Kept s0 (State.freeEntries s x loc
    from_) := by
  unfold State.freeEntries
  repeat' first
    | with_reducible assumption
    | with_reducible refine State.scramble_kept ?_
    | with_reducible refine foldl_kept ?_ ?_
    | with_reducible refine foldl_kept_fst ?_ ?_
    | with_reducible refine foldl_kept_snd ?_ ?_
    | with_reducible refine kept_ite ?_ ?_
    | intro _

theorem State.newPage_kept {s0 s : State} (h : Kept s0 s) {sc x bays entry first filled tail} : Kept s0
    (State.newPage s sc x bays entry first filled tail).2 := by
  unfold State.newPage
  repeat' first
    | with_reducible assumption
    | with_reducible refine State.setPage_kept ?_
    | with_reducible refine State.freeEntries_kept ?_
    | with_reducible refine State.hbmUnit_kept ?_
    | with_reducible refine State.hbmUnit_kept_eq (by assumption) ?_
    | with_reducible refine State.pick_kept ?_

theorem State.newPage_kept_eq {s0 s t9 : State} {sc x bays entry first filled tail} {y9} (e : State.newPage s sc x
    bays entry first filled tail = (y9, t9)) (h : Kept s0 s) : Kept s0 t9 := by
  have := State.newPage_kept h (sc := sc) (x := x) (bays := bays) (entry := entry) (first := first) (filled := filled) (tail := tail)
  rw [e] at this
  exact this

theorem State.copyPage_kept {s0 s : State} (h : Kept s0 s) {sc x bays g filled} : Kept s0 (State.copyPage s sc x
    bays g filled).2 := by
  unfold State.copyPage
  repeat' first
    | with_reducible assumption
    | with_reducible refine State.unrefPage_kept ?_
    | with_reducible refine State.bump_kept ?_
    | with_reducible refine State.moveUnit_kept ?_
    | with_reducible refine State.freeEntries_kept ?_
    | with_reducible refine State.newPage_kept ?_

theorem State.copyPage_kept_eq {s0 s t9 : State} {sc x bays g filled} {y9} (e : State.copyPage s sc x bays g filled
    = (y9, t9)) (h : Kept s0 s) : Kept s0 t9 := by
  have := State.copyPage_kept h (sc := sc) (x := x) (bays := bays) (g := g) (filled := filled)
  rw [e] at this
  exact this

theorem State.copyRow_kept {s0 s : State} (h : Kept s0 s) {sc x bays x1} : Kept s0 (State.copyRow s sc x bays x1).2
    := by
  induction x1 generalizing s with
  | nil =>
    unfold State.copyRow
    repeat' first
      | with_reducible assumption
  | cons a l ih =>
    unfold State.copyRow
    repeat' first
      | with_reducible assumption
      | with_reducible refine ih ?_
      | with_reducible refine kept_snd_of_eq (by assumption) (ih ?_)
      | with_reducible refine State.copyPage_kept ?_
      | with_reducible refine State.copyPage_kept_eq (by assumption) ?_
      | with_reducible refine foldl_kept ?_ ?_
      | with_reducible refine foldl_kept_fst ?_ ?_
      | with_reducible refine foldl_kept_snd ?_ ?_
      | with_reducible refine kept_ite ?_ ?_
      | with_reducible refine kept_ite_snd ?_ ?_

theorem State.copyRow_kept_eq {s0 s t9 : State} {sc x bays x1} {y9} (e : State.copyRow s sc x bays x1 = (y9, t9))
    (h : Kept s0 s) : Kept s0 t9 := by
  have := State.copyRow_kept h (sc := sc) (x := x) (bays := bays) (x1 := x1)
  rw [e] at this
  exact this

theorem State.copyRows_kept {s0 s : State} (h : Kept s0 s) {sc x bays x1} : Kept s0 (State.copyRows s sc x bays
    x1).2 := by
  induction x1 generalizing s with
  | nil =>
    unfold State.copyRows
    repeat' first
      | with_reducible assumption
  | cons a l ih =>
    unfold State.copyRows
    repeat' first
      | with_reducible assumption
      | with_reducible refine ih ?_
      | with_reducible refine kept_snd_of_eq (by assumption) (ih ?_)
      | with_reducible refine State.copyRow_kept ?_

theorem State.copyRows_kept_eq {s0 s t9 : State} {sc x bays x1} {y9} (e : State.copyRows s sc x bays x1 = (y9, t9))
    (h : Kept s0 s) : Kept s0 t9 := by
  have := State.copyRows_kept h (sc := sc) (x := x) (bays := bays) (x1 := x1)
  rw [e] at this
  exact this

theorem State.cutRow_kept {s0 s : State} (h : Kept s0 s) {sc x bays filled x1} : Kept s0 (State.cutRow s sc x bays
    filled x1).2 := by
  induction x1 generalizing s with
  | nil =>
    unfold State.cutRow
    repeat' first
      | with_reducible assumption
  | cons a l ih =>
    unfold State.cutRow
    repeat' first
      | with_reducible assumption
      | with_reducible refine ih ?_
      | with_reducible refine kept_snd_of_eq (by assumption) (ih ?_)
      | with_reducible refine State.refPage_kept ?_
      | with_reducible refine State.copyPage_kept ?_

theorem State.cutRow_kept_eq {s0 s t9 : State} {sc x bays filled x1} {y9} (e : State.cutRow s sc x bays filled x1 =
    (y9, t9)) (h : Kept s0 s) : Kept s0 t9 := by
  have := State.cutRow_kept h (sc := sc) (x := x) (bays := bays) (filled := filled) (x1 := x1)
  rw [e] at this
  exact this

theorem State.pinAll_kept {s0 s : State} (h : Kept s0 s) {l} : Kept s0 (State.pinAll s l) := by
  unfold State.pinAll
  repeat' first
    | with_reducible assumption
    | with_reducible refine State.setPage_kept ?_
    | with_reducible refine foldl_kept ?_ ?_
    | with_reducible refine foldl_kept_fst ?_ ?_
    | with_reducible refine foldl_kept_snd ?_ ?_
    | with_reducible refine kept_ite ?_ ?_
    | intro _

theorem State.tokPagesFor_kept {s0 s : State} (h : Kept s0 s) {sc st n} : Kept s0 (State.tokPagesFor s sc st n).2
    := by
  unfold State.tokPagesFor
  repeat' first
    | with_reducible assumption
    | with_reducible refine State.setTok_kept ?_
    | with_reducible refine State.pick_kept ?_
    | with_reducible refine State.pick_kept_eq (by assumption) ?_
    | with_reducible refine State.unrefTok_kept ?_
    | with_reducible refine foldl_kept ?_ ?_
    | with_reducible refine foldl_kept_fst ?_ ?_
    | with_reducible refine foldl_kept_snd ?_ ?_
    | with_reducible refine kept_ite ?_ ?_
    | with_reducible refine kept_ite_snd ?_ ?_
    | intro _

theorem State.tokPagesFor_kept_eq {s0 s t9 : State} {sc st n} {y9} (e : State.tokPagesFor s sc st n = (y9, t9)) (h
    : Kept s0 s) : Kept s0 t9 := by
  have := State.tokPagesFor_kept h (sc := sc) (st := st) (n := n)
  rw [e] at this
  exact this

theorem State.newRow_kept {s0 s : State} (h : Kept s0 s) {sc x bays first x1} : Kept s0 (State.newRow s sc x bays
    first x1).2 := by
  induction x1 generalizing s with
  | zero =>
    unfold State.newRow
    repeat' first
      | with_reducible assumption
  | succ n ih =>
    unfold State.newRow
    repeat' first
      | with_reducible assumption
      | with_reducible refine ih ?_
      | with_reducible refine kept_snd_of_eq (by assumption) (ih ?_)
      | with_reducible refine State.newPage_kept ?_

theorem State.newRow_kept_eq {s0 s t9 : State} {sc x bays first x1} {y9} (e : State.newRow s sc x bays first x1 =
    (y9, t9)) (h : Kept s0 s) : Kept s0 t9 := by
  have := State.newRow_kept h (sc := sc) (x := x) (bays := bays) (first := first) (x1 := x1)
  rw [e] at this
  exact this

theorem State.newRows_kept {s0 s : State} (h : Kept s0 s) {sc x bays row x1} : Kept s0 (State.newRows s sc x bays
    row x1).2 := by
  induction x1 generalizing s row with
  | zero =>
    unfold State.newRows
    repeat' first
      | with_reducible assumption
  | succ n ih =>
    unfold State.newRows
    repeat' first
      | with_reducible assumption
      | with_reducible refine ih ?_
      | with_reducible refine kept_snd_of_eq (by assumption) (ih ?_)
      | with_reducible refine State.newRow_kept ?_

theorem State.newRows_kept_eq {s0 s t9 : State} {sc x bays row x1} {y9} (e : State.newRows s sc x bays row x1 =
    (y9, t9)) (h : Kept s0 s) : Kept s0 t9 := by
  have := State.newRows_kept h (sc := sc) (x := x) (bays := bays) (row := row) (x1 := x1)
  rw [e] at this
  exact this

theorem State.runStep_kept {s0 s : State} (h : Kept s0 s) {sc x i bring gens} : Kept s0 (State.runStep s sc x i
    bring gens) := by
  unfold State.runStep
  repeat' first
    | with_reducible assumption
    | with_reducible refine State.setStream_kept ?_
    | with_reducible refine State.pinAll_kept ?_
    | with_reducible refine State.tokPagesFor_kept ?_
    | with_reducible refine State.tokPagesFor_kept_eq (by assumption) ?_
    | with_reducible refine State.newRows_kept ?_
    | with_reducible refine State.newRows_kept_eq (by assumption) ?_
    | with_reducible refine State.copyRows_kept ?_
    | with_reducible refine State.copyRows_kept_eq (by assumption) ?_
    | with_reducible refine foldl_kept ?_ ?_
    | with_reducible refine foldl_kept_fst ?_ ?_
    | with_reducible refine foldl_kept_snd ?_ ?_
    | with_reducible refine kept_ite ?_ ?_
    | intro _
    | dsimp only
    | split

theorem State.dispatchRun_kept {s0 s : State} (h : Kept s0 s) {sc x i gs n} : Kept s0 (State.dispatchRun s sc x i
    gs n) := by
  unfold State.dispatchRun
  repeat' first
    | with_reducible assumption
    | with_reducible refine State.setStream_kept ?_
    | with_reducible refine State.bindQueues_kept ?_
    | with_reducible refine State.bindQueues_kept_eq (by assumption) ?_
    | with_reducible refine State.combineSplit_kept ?_
    | with_reducible refine State.draw_kept ?_
    | with_reducible refine State.draw_kept_eq (by assumption) ?_
    | with_reducible refine foldl_kept ?_ ?_
    | with_reducible refine foldl_kept_fst ?_ ?_
    | with_reducible refine foldl_kept_snd ?_ ?_
    | with_reducible refine kept_ite ?_ ?_
    | intro _
    | dsimp only
    | split

theorem State.runGroup_kept {s0 s : State} (h : Kept s0 s) {sc x r i n gs} : Kept s0 (State.runGroup s sc x r i n
    gs) := by
  unfold State.runGroup
  repeat' first
    | with_reducible assumption
    | with_reducible refine State.runStep_kept ?_
    | with_reducible refine State.dispatchRun_kept ?_
    | with_reducible refine foldl_kept ?_ ?_
    | with_reducible refine foldl_kept_fst ?_ ?_
    | with_reducible refine foldl_kept_snd ?_ ?_
    | with_reducible refine kept_ite ?_ ?_
    | intro _
    | simp only [Kept.upd]
    | dsimp only
    | split

theorem State.waitPool_kept {s0 s : State} (h : Kept s0 s) {i} : Kept s0 (State.waitPool s i) := by
  unfold State.waitPool
  repeat' first
    | with_reducible assumption
    | with_reducible refine State.setReq_kept ?_
    | with_reducible refine State.poolWaits_kept ?_
    | with_reducible refine State.waitPhase_kept ?_
    | with_reducible refine foldl_kept ?_ ?_
    | with_reducible refine foldl_kept_fst ?_ ?_
    | with_reducible refine foldl_kept_snd ?_ ?_
    | with_reducible refine kept_ite ?_ ?_
    | intro _
    | dsimp only
    | split

theorem State.dispatchPages_kept {s0 s : State} (h : Kept s0 s) {i sc x r gs n} : Kept s0 (State.dispatchPages s i
    sc x r gs n) := by
  unfold State.dispatchPages
  repeat' first
    | with_reducible assumption
    | with_reducible refine State.runGroup_kept ?_
    | with_reducible refine State.waitPhase_kept ?_
    | with_reducible refine State.beginRecompute_kept ?_
    | with_reducible refine State.unspill_kept ?_
    | with_reducible refine State.waitPool_kept ?_
    | with_reducible refine State.allocate_kept ?_
    | with_reducible refine State.allocate_kept_eq (by assumption) ?_
    | with_reducible refine foldl_kept ?_ ?_
    | with_reducible refine foldl_kept_fst ?_ ?_
    | with_reducible refine foldl_kept_snd ?_ ?_
    | with_reducible refine kept_ite ?_ ?_
    | intro _

theorem State.freeWritten_kept {s0 s : State} (h : Kept s0 s) {st} : Kept s0 (State.freeWritten s st) := by
  unfold State.freeWritten
  repeat' first
    | with_reducible assumption
    | with_reducible refine State.freeEntries_kept ?_
    | with_reducible refine foldl_kept ?_ ?_
    | with_reducible refine foldl_kept_fst ?_ ?_
    | with_reducible refine foldl_kept_snd ?_ ?_
    | with_reducible refine kept_ite ?_ ?_
    | intro _
    | dsimp only
    | split

theorem State.stepFails_kept {s0 s : State} (h : Kept s0 s) {i code} : Kept s0 (State.stepFails s i code) := by
  unfold State.stepFails
  repeat' first
    | with_reducible assumption
    | with_reducible refine State.observeEnd_kept ?_
    | with_reducible refine State.breakForks_kept ?_
    | with_reducible refine State.setReq_kept ?_
    | with_reducible refine State.setStream_kept ?_
    | with_reducible refine State.endRun_kept ?_
    | with_reducible refine State.unpin_kept ?_
    | with_reducible refine State.freeWritten_kept ?_
    | with_reducible refine foldl_kept ?_ ?_
    | with_reducible refine foldl_kept_fst ?_ ?_
    | with_reducible refine foldl_kept_snd ?_ ?_
    | with_reducible refine kept_ite ?_ ?_
    | intro _
    | dsimp only
    | split

theorem State.groupFails_kept {s0 s : State} (h : Kept s0 s) {gs code} : Kept s0 (State.groupFails s gs code) := by
  unfold State.groupFails
  repeat' first
    | with_reducible assumption
    | with_reducible refine State.stepFails_kept ?_
    | with_reducible refine foldl_kept ?_ ?_
    | with_reducible refine foldl_kept_fst ?_ ?_
    | with_reducible refine foldl_kept_snd ?_ ?_
    | with_reducible refine kept_ite ?_ ?_
    | intro _

theorem State.modelReady_kept {s0 s : State} (h : Kept s0 s) {m v} : Kept s0 (State.modelReady s m v).2 := by
  unfold State.modelReady
  repeat' first
    | with_reducible assumption
    | with_reducible refine State.setModel_kept ?_
    | with_reducible refine foldl_kept ?_ ?_
    | with_reducible refine foldl_kept_fst ?_ ?_
    | with_reducible refine foldl_kept_snd ?_ ?_
    | with_reducible refine kept_ite ?_ ?_
    | with_reducible refine kept_ite_snd ?_ ?_
    | intro _
    | simp only [Kept.upd]
    | dsimp only
    | split

theorem State.modelReady_kept_eq {s0 s t9 : State} {m v} {y9} (e : State.modelReady s m v = (y9, t9)) (h : Kept s0
    s) : Kept s0 t9 := by
  have := State.modelReady_kept h (m := m) (v := v)
  rw [e] at this
  exact this

theorem State.dispatchGroup_kept {s0 s : State} (h : Kept s0 s) {i k r sc} : Kept s0 (State.dispatchGroup s i k r
    sc) := by
  unfold State.dispatchGroup
  repeat' first
    | with_reducible assumption
    | with_reducible refine State.dispatchPages_kept ?_
    | with_reducible refine State.groupFails_kept ?_
    | with_reducible refine State.observeEnd_kept ?_
    | with_reducible refine State.waitPhase_kept ?_
    | with_reducible refine State.modelReady_kept ?_
    | with_reducible refine State.modelReady_kept_eq (by assumption) ?_
    | with_reducible refine foldl_kept ?_ ?_
    | with_reducible refine foldl_kept_fst ?_ ?_
    | with_reducible refine foldl_kept_snd ?_ ?_
    | with_reducible refine kept_ite ?_ ?_
    | intro _
    | dsimp only
    | split

theorem State.gotPage_kept {s0 s : State} (h : Kept s0 s) {g} : Kept s0 (State.gotPage s g) := by
  unfold State.gotPage
  repeat' first
    | with_reducible assumption
    | with_reducible refine foldl_kept ?_ ?_
    | with_reducible refine foldl_kept_fst ?_ ?_
    | with_reducible refine foldl_kept_snd ?_ ?_
    | with_reducible refine kept_ite ?_ ?_
    | intro _
    | simp only [Kept.upd]

theorem State.lostPage_kept {s0 s : State} (h : Kept s0 s) {g} : Kept s0 (State.lostPage s g) := by
  unfold State.lostPage
  repeat' first
    | with_reducible assumption
    | with_reducible refine foldl_kept ?_ ?_
    | with_reducible refine foldl_kept_fst ?_ ?_
    | with_reducible refine foldl_kept_snd ?_ ?_
    | with_reducible refine kept_ite ?_ ?_
    | intro _
    | simp only [Kept.upd]

theorem State.pageBad_kept {s0 s : State} (h : Kept s0 s) {st badPage} : Kept s0 (State.pageBad s st badPage) := by
  unfold State.pageBad
  repeat' first
    | with_reducible assumption
    | with_reducible refine State.setPage_kept ?_
    | with_reducible refine foldl_kept ?_ ?_
    | with_reducible refine foldl_kept_fst ?_ ?_
    | with_reducible refine foldl_kept_snd ?_ ?_
    | with_reducible refine kept_ite ?_ ?_
    | intro _
    | dsimp only
    | split

theorem State.recomputeEnds_kept {s0 s : State} (h : Kept s0 s) {g e} : Kept s0 (State.recomputeEnds s g e) := by
  unfold State.recomputeEnds
  repeat' first
    | with_reducible assumption
    | with_reducible refine State.groupFails_kept ?_
    | with_reducible refine State.lostPage_kept ?_
    | with_reducible refine State.freePage_kept ?_
    | with_reducible refine State.bump_kept ?_
    | with_reducible refine State.gotPage_kept ?_
    | with_reducible refine State.setPage_kept ?_
    | with_reducible refine State.engineWrite_kept ?_
    | with_reducible refine State.engineWrite_kept_eq (by assumption) ?_
    | with_reducible refine foldl_kept ?_ ?_
    | with_reducible refine foldl_kept_fst ?_ ?_
    | with_reducible refine foldl_kept_snd ?_ ?_
    | with_reducible refine kept_ite ?_ ?_
    | intro _
    | dsimp only
    | split

theorem State.takeRows_kept {s0 s : State} (h : Kept s0 s) {sc x i point hits all ckpt} : Kept s0 (State.takeRows s
    sc x i point hits all ckpt) := by
  unfold State.takeRows
  repeat' first
    | with_reducible assumption
    | with_reducible refine State.setStream_kept ?_
    | with_reducible refine State.refCkpt_kept ?_
    | with_reducible refine State.tokPagesFor_kept ?_
    | with_reducible refine State.tokPagesFor_kept_eq (by assumption) ?_
    | with_reducible refine State.cutRow_kept ?_
    | with_reducible refine State.cutRow_kept_eq (by assumption) ?_
    | with_reducible refine State.refPage_kept ?_
    | with_reducible refine State.unrefPage_kept ?_
    | with_reducible refine foldl_kept ?_ ?_
    | with_reducible refine foldl_kept_fst ?_ ?_
    | with_reducible refine foldl_kept_snd ?_ ?_
    | with_reducible refine kept_ite ?_ ?_
    | intro _
    | dsimp only
    | split

theorem State.walkPrefix_kept {s0 s : State} (h : Kept s0 s) {i k r st sc} : Kept s0 (State.walkPrefix s i k r st
    sc).2 := by
  unfold State.walkPrefix
  repeat' first
    | with_reducible assumption
    | with_reducible refine State.takeRows_kept ?_
    | with_reducible refine State.bump_kept ?_
    | with_reducible refine State.beginRecompute_kept ?_
    | with_reducible refine State.allocate_kept ?_
    | with_reducible refine State.allocate_kept_eq (by assumption) ?_
    | with_reducible refine State.walkTree_kept ?_
    | with_reducible refine State.walkTree_kept_eq (by assumption) ?_
    | with_reducible refine State.setReq_kept ?_
    | with_reducible refine State.setScene_kept ?_
    | with_reducible refine State.setStream_kept ?_
    | with_reducible refine foldl_kept ?_ ?_
    | with_reducible refine foldl_kept_fst ?_ ?_
    | with_reducible refine foldl_kept_snd ?_ ?_
    | with_reducible refine kept_ite ?_ ?_
    | with_reducible refine kept_ite_snd ?_ ?_
    | intro _
    | simp only [Kept.upd]
    | dsimp only
    | split

theorem State.walkPrefix_kept_eq {s0 s t9 : State} {i k r st sc} {y9} (e : State.walkPrefix s i k r st sc = (y9,
    t9)) (h : Kept s0 s) : Kept s0 t9 := by
  have := State.walkPrefix_kept h (i := i) (k := k) (r := r) (st := st) (sc := sc)
  rw [e] at this
  exact this

theorem State.stepDispatch_kept {s0 s : State} (h : Kept s0 s) {i} : Kept s0 (State.stepDispatch s i) := by
  unfold State.stepDispatch
  repeat' first
    | with_reducible assumption
    | with_reducible refine State.waitPhase_kept ?_
    | with_reducible refine State.waitPool_kept ?_
    | with_reducible refine State.dispatchGroup_kept ?_
    | with_reducible refine State.walkPrefix_kept ?_
    | with_reducible refine State.walkPrefix_kept_eq (by assumption) ?_
    | with_reducible refine foldl_kept ?_ ?_
    | with_reducible refine foldl_kept_fst ?_ ?_
    | with_reducible refine foldl_kept_snd ?_ ?_
    | with_reducible refine kept_ite ?_ ?_
    | intro _
    | simp only [Kept.upd]
    | dsimp only
    | split

theorem State.stepEnds_kept {s0 s : State} (h : Kept s0 s) {i e badPage} : Kept s0 (State.stepEnds s i e badPage)
    := by
  unfold State.stepEnds
  repeat' first
    | with_reducible assumption
    | with_reducible refine State.observeEnd_kept ?_
    | with_reducible refine State.setStream_kept ?_
    | with_reducible refine State.setReq_kept ?_
    | with_reducible refine State.commitStep_kept ?_
    | with_reducible refine State.stepFails_kept ?_
    | with_reducible refine State.pageBad_kept ?_
    | with_reducible refine foldl_kept ?_ ?_
    | with_reducible refine foldl_kept_fst ?_ ?_
    | with_reducible refine foldl_kept_snd ?_ ?_
    | with_reducible refine kept_ite ?_ ?_
    | intro _
    | dsimp only
    | split

/-! ### Objects -/

theorem State.objCreate_kept {s0 s : State} (h : Kept s0 s) {k r} : Kept s0 (State.objCreate s k r).2 := by
  unfold State.objCreate
  repeat' first
    | with_reducible assumption
    | with_reducible refine State.answer_kept ?_
    | with_reducible refine State.setCliffObj_kept ?_
    | with_reducible refine State.allocate_kept ?_
    | with_reducible refine State.allocate_kept_eq (by assumption) ?_
    | with_reducible refine foldl_kept ?_ ?_
    | with_reducible refine foldl_kept_fst ?_ ?_
    | with_reducible refine foldl_kept_snd ?_ ?_
    | with_reducible refine kept_ite ?_ ?_
    | with_reducible refine kept_ite_snd ?_ ?_

theorem State.objCreate_kept_eq {s0 s t9 : State} {k r} {y9} (e : State.objCreate s k r = (y9, t9)) (h : Kept s0 s)
    : Kept s0 t9 := by
  have := State.objCreate_kept h (k := k) (r := r)
  rw [e] at this
  exact this

theorem State.objRetry_kept {s0 s : State} (h : Kept s0 s) {k r} : KeptS s0 (State.objRetry s k r) := by
  unfold State.objRetry
  repeat' first
    | with_reducible assumption
    | with_reducible exact KeptS.none
    | with_reducible refine KeptS.some ?_
    | with_reducible refine State.objCreate_kept ?_
    | with_reducible refine State.objCreate_kept_eq (by assumption) ?_
    | with_reducible refine foldl_kept ?_ ?_
    | with_reducible refine foldl_kept_fst ?_ ?_
    | with_reducible refine foldl_kept_snd ?_ ?_
    | with_reducible refine kept_ite ?_ ?_
    | with_reducible refine keptS_ite ?_ ?_
    | simp only [Kept.upd]
    | dsimp only
    | split

theorem State.objRetry_kept_eq {s0 s t9 : State} {k r} (e : State.objRetry s k r = some t9) (h : Kept s0 s) : Kept
    s0 t9 :=
  State.objRetry_kept h (k := k) (r := r) t9 e

theorem State.loadStops_kept {s0 s : State} (h : Kept s0 s) {k r st} : Kept s0 (State.loadStops s k r st) := by
  unfold State.loadStops
  repeat' first
    | with_reducible assumption
    | with_reducible refine State.refuse_kept ?_
    | with_reducible refine State.setModel_kept ?_
    | with_reducible refine foldl_kept ?_ ?_
    | with_reducible refine foldl_kept_fst ?_ ?_
    | with_reducible refine foldl_kept_snd ?_ ?_
    | with_reducible refine kept_ite ?_ ?_

theorem State.goLive_kept {s0 s : State} (h : Kept s0 s) {m v} : Kept s0 (State.goLive s m v) := by
  unfold State.goLive
  repeat' first
    | with_reducible assumption
    | with_reducible refine State.retireCheck_kept ?_
    | with_reducible refine State.setModel_kept ?_
    | with_reducible refine foldl_kept ?_ ?_
    | with_reducible refine foldl_kept_fst ?_ ?_
    | with_reducible refine foldl_kept_snd ?_ ?_
    | with_reducible refine kept_ite ?_ ?_
    | intro _

theorem State.loadBegins_kept {s0 s : State} (h : Kept s0 s) {k r} : Kept s0 (State.loadBegins s k r) := by
  unfold State.loadBegins
  repeat' first
    | with_reducible assumption
    | with_reducible refine State.poolWaits_kept ?_
    | with_reducible refine State.setReq_kept ?_
    | with_reducible refine State.setModel_kept ?_
    | with_reducible refine State.allocate_kept ?_
    | with_reducible refine State.allocate_kept_eq (by assumption) ?_
    | with_reducible refine foldl_kept ?_ ?_
    | with_reducible refine foldl_kept_fst ?_ ?_
    | with_reducible refine foldl_kept_snd ?_ ?_
    | with_reducible refine kept_ite ?_ ?_

theorem State.staged_kept {s0 s : State} (h : Kept s0 s) {m v} : Kept s0 (State.staged s m v) := by
  unfold State.staged
  repeat' first
    | with_reducible assumption
    | with_reducible refine State.goLive_kept ?_
    | with_reducible refine State.answer_kept ?_
    | with_reducible refine State.takeHomes_kept ?_
    | with_reducible refine State.takeHomes_kept_eq (by assumption) ?_
    | with_reducible refine State.setModel_kept ?_
    | with_reducible refine State.allocate_kept ?_
    | with_reducible refine State.allocate_kept_eq (by assumption) ?_
    | with_reducible refine foldl_kept ?_ ?_
    | with_reducible refine foldl_kept_fst ?_ ?_
    | with_reducible refine foldl_kept_snd ?_ ?_
    | with_reducible refine kept_ite ?_ ?_
    | intro _
    | dsimp only
    | split

theorem State.modelStaged_kept {s0 s : State} (h : Kept s0 s) {m v} : Kept s0 (State.modelStaged s m v) := by
  unfold State.modelStaged
  repeat' first
    | with_reducible assumption
    | with_reducible refine State.staged_kept ?_

theorem State.objBegin_kept {s0 s : State} (h : Kept s0 s) {k r} : Kept s0 (State.objBegin s k r) := by
  unfold State.objBegin
  repeat' first
    | with_reducible assumption
    | with_reducible refine State.poolWaits_kept ?_
    | with_reducible refine State.setReq_kept ?_
    | with_reducible refine State.objCreate_kept ?_
    | with_reducible refine State.objCreate_kept_eq (by assumption) ?_
    | with_reducible refine foldl_kept ?_ ?_
    | with_reducible refine foldl_kept_fst ?_ ?_
    | with_reducible refine foldl_kept_snd ?_ ?_
    | with_reducible refine kept_ite ?_ ?_
    | intro _
    | simp only [Kept.upd]
    | dsimp only
    | split

theorem State.objRead_kept {s0 s : State} (h : Kept s0 s) {k r} : Kept s0 (State.objRead s k r) := by
  unfold State.objRead
  repeat' first
    | with_reducible assumption
    | with_reducible refine State.answer_kept ?_
    | with_reducible refine State.setCliffObj_kept ?_
    | with_reducible refine State.refuse_kept ?_
    | with_reducible refine foldl_kept ?_ ?_
    | with_reducible refine foldl_kept_fst ?_ ?_
    | with_reducible refine foldl_kept_snd ?_ ?_
    | with_reducible refine kept_ite ?_ ?_
    | intro _
    | dsimp only
    | split

theorem State.objStore_kept {s0 s : State} (h : Kept s0 s) {obj first data} : Kept s0 (State.objStore s obj first
    data) := by
  unfold State.objStore
  repeat' first
    | with_reducible assumption
    | with_reducible refine State.programmed_kept ?_
    | with_reducible refine State.setCliffObj_kept ?_
    | with_reducible refine foldl_kept ?_ ?_
    | with_reducible refine foldl_kept_fst ?_ ?_
    | with_reducible refine foldl_kept_snd ?_ ?_
    | with_reducible refine kept_ite ?_ ?_
    | intro _
    | dsimp only
    | split

theorem State.objWriteBegins_kept {s0 s : State} (h : Kept s0 s) {k r} : Kept s0 (State.objWriteBegins s k r) := by
  unfold State.objWriteBegins
  repeat' first
    | with_reducible assumption
    | with_reducible refine State.send_kept ?_
    | with_reducible refine State.answer_kept ?_
    | with_reducible refine foldl_kept ?_ ?_
    | with_reducible refine foldl_kept_fst ?_ ?_
    | with_reducible refine foldl_kept_snd ?_ ?_
    | with_reducible refine kept_ite ?_ ?_

theorem State.pinnedSwitch_kept {s0 s : State} (h : Kept s0 s) : Kept s0 (State.pinnedSwitch s) := by
  unfold State.pinnedSwitch
  repeat' first
    | with_reducible assumption
    | with_reducible refine State.takeHomes_kept ?_
    | with_reducible refine State.takeHomes_kept_eq (by assumption) ?_
    | with_reducible refine State.setModel_kept ?_
    | with_reducible refine foldl_kept ?_ ?_
    | with_reducible refine foldl_kept_fst ?_ ?_
    | with_reducible refine foldl_kept_snd ?_ ?_
    | with_reducible refine kept_ite ?_ ?_
    | intro _
    | dsimp only
    | split

theorem State.unload_kept {s0 s : State} (h : Kept s0 s) {m v} : Kept s0 (State.unload s m v) := by
  unfold State.unload
  repeat' first
    | with_reducible assumption
    | with_reducible refine State.evictVersion_kept ?_
    | with_reducible refine State.setModel_kept ?_

theorem State.readResponse_kept {s0 s : State} (h : Kept s0 s) {k data} : Kept s0 (State.readResponse s k data) := by
  unfold State.readResponse
  repeat' first
    | with_reducible assumption
    | with_reducible refine State.objStore_kept ?_
    | with_reducible refine State.answer_kept ?_
    | with_reducible refine State.refuse_kept ?_
    | with_reducible refine State.setQp_kept ?_
    | with_reducible refine State.setReq_kept ?_
    | with_reducible refine foldl_kept ?_ ?_
    | with_reducible refine foldl_kept_fst ?_ ?_
    | with_reducible refine foldl_kept_snd ?_ ?_
    | with_reducible refine kept_ite ?_ ?_
    | intro _
    | dsimp only
    | split

/-! ### Plan -/

theorem State.closeNow_kept {s0 s : State} (h : Kept s0 s) {k i} : Kept s0 (State.closeNow s k i) := by
  unfold State.closeNow
  repeat' first
    | with_reducible assumption
    | with_reducible refine State.closeStream_kept ?_
    | with_reducible refine State.answer_kept ?_

theorem State.forkNow_kept {s0 s : State} (h : Kept s0 s) {k src r} : Kept s0 (State.forkNow s k src r) := by
  unfold State.forkNow
  repeat' first
    | with_reducible assumption
    | with_reducible refine State.answer_kept ?_
    | with_reducible refine State.refuse_kept ?_
    | with_reducible refine State.fork_kept ?_
    | with_reducible refine State.fork_kept_eq (by assumption) ?_
    | with_reducible refine foldl_kept ?_ ?_
    | with_reducible refine foldl_kept_fst ?_ ?_
    | with_reducible refine foldl_kept_snd ?_ ?_
    | with_reducible refine kept_ite ?_ ?_
    | intro _
    | dsimp only
    | split

theorem State.endFutures_kept {s0 s : State} (h : Kept s0 s) {k l keep} : Kept s0 (State.endFutures s k l keep) := by
  unfold State.endFutures
  repeat' first
    | with_reducible assumption
    | with_reducible refine State.closeStream_kept ?_
    | with_reducible refine State.setStream_kept ?_
    | with_reducible refine foldl_kept ?_ ?_
    | with_reducible refine foldl_kept_fst ?_ ?_
    | with_reducible refine foldl_kept_snd ?_ ?_
    | with_reducible refine kept_ite ?_ ?_
    | intro _

theorem State.decoded_kept {s0 s : State} (h : Kept s0 s) {sc x fmt l} : Kept s0 (State.decoded s sc x fmt l) := by
  unfold State.decoded
  repeat' first
    | with_reducible assumption
    | with_reducible refine State.setStream_kept ?_
    | with_reducible refine foldl_kept ?_ ?_
    | with_reducible refine foldl_kept_fst ?_ ?_
    | with_reducible refine foldl_kept_snd ?_ ?_
    | with_reducible refine kept_ite ?_ ?_
    | intro _
    | simp only [Kept.upd]
    | dsimp only
    | split

theorem State.rollEnds_kept {s0 s : State} (h : Kept s0 s) {k r st} : Kept s0 (State.rollEnds s k r st) := by
  unfold State.rollEnds
  repeat' first
    | with_reducible assumption
    | with_reducible refine State.endFutures_kept ?_
    | with_reducible refine State.decoded_kept ?_
    | with_reducible refine State.answer_kept ?_
    | with_reducible refine foldl_kept ?_ ?_
    | with_reducible refine foldl_kept_fst ?_ ?_
    | with_reducible refine foldl_kept_snd ?_ ?_
    | with_reducible refine kept_ite ?_ ?_
    | intro _
    | dsimp only
    | split

theorem State.startFutures_kept {s0 s : State} (h : Kept s0 s) {k src n key first limit} : Kept s0
    (State.startFutures s k src n key first limit).2 := by
  unfold State.startFutures
  repeat' first
    | with_reducible assumption
    | with_reducible refine State.setReq_kept ?_
    | with_reducible refine State.setGroups_kept ?_
    | with_reducible refine State.fork_kept ?_
    | with_reducible refine State.fork_kept_eq (by assumption) ?_
    | with_reducible refine foldl_kept ?_ ?_
    | with_reducible refine foldl_kept_fst ?_ ?_
    | with_reducible refine foldl_kept_snd ?_ ?_
    | with_reducible refine kept_ite ?_ ?_
    | with_reducible refine kept_ite_snd ?_ ?_
    | intro _
    | dsimp only
    | split

theorem State.startFutures_kept_eq {s0 s t9 : State} {k src n key first limit} {y9} (e : State.startFutures s k src
    n key first limit = (y9, t9)) (h : Kept s0 s) : Kept s0 t9 := by
  have := State.startFutures_kept h (k := k) (src := src) (n := n) (key := key) (first := first) (limit := limit)
  rw [e] at this
  exact this

theorem State.rollStart_kept {s0 s : State} (h : Kept s0 s) {k src r} : Kept s0 (State.rollStart s k src r) := by
  unfold State.rollStart
  repeat' first
    | with_reducible assumption
    | with_reducible refine State.refuse_kept ?_
    | with_reducible refine State.setStream_kept ?_
    | with_reducible refine State.startFutures_kept ?_
    | with_reducible refine State.startFutures_kept_eq (by assumption) ?_
    | with_reducible refine foldl_kept ?_ ?_
    | with_reducible refine foldl_kept_fst ?_ ?_
    | with_reducible refine foldl_kept_snd ?_ ?_
    | with_reducible refine kept_ite ?_ ?_
    | intro _
    | dsimp only
    | split

theorem State.planEnds_kept {s0 s : State} (h : Kept s0 s) {k r st} : Kept s0 (State.planEnds s k r st) := by
  unfold State.planEnds
  repeat' first
    | with_reducible assumption
    | with_reducible refine State.answer_kept ?_
    | with_reducible refine State.endFutures_kept ?_

theorem State.planIteration_kept {s0 s : State} (h : Kept s0 s) {k root r} : Kept s0 (State.planIteration s k root
    r) := by
  unfold State.planIteration
  repeat' first
    | with_reducible assumption
    | with_reducible refine State.planEnds_kept ?_
    | with_reducible refine State.setReq_kept ?_
    | with_reducible refine State.startFutures_kept ?_
    | with_reducible refine State.startFutures_kept_eq (by assumption) ?_
    | with_reducible refine foldl_kept ?_ ?_
    | with_reducible refine foldl_kept_fst ?_ ?_
    | with_reducible refine foldl_kept_snd ?_ ?_
    | with_reducible refine kept_ite ?_ ?_
    | intro _
    | simp only [Kept.upd]
    | dsimp only
    | split

theorem State.planStep_kept {s0 s : State} (h : Kept s0 s) {k root r m v} : Kept s0 (State.planStep s k root r m v)
    := by
  unfold State.planStep
  repeat' first
    | with_reducible assumption
    | with_reducible refine State.planEnds_kept ?_
    | with_reducible refine State.planIteration_kept ?_
    | with_reducible refine State.endFutures_kept ?_
    | with_reducible refine State.setReq_kept ?_
    | with_reducible refine foldl_kept ?_ ?_
    | with_reducible refine foldl_kept_fst ?_ ?_
    | with_reducible refine foldl_kept_snd ?_ ?_
    | with_reducible refine kept_ite ?_ ?_

theorem State.planStart_kept {s0 s : State} (h : Kept s0 s) {k root r sc} : Kept s0 (State.planStart s k root r sc)
    := by
  unfold State.planStart
  repeat' first
    | with_reducible assumption
    | with_reducible refine State.setReq_kept ?_
    | with_reducible refine State.planIteration_kept ?_

/-! ### Cxl -/

theorem State.setDec_kept {s0 s : State} (h : Kept s0 s) {p n st} : Kept s0 (State.setDec s p n st) := by
  unfold State.setDec
  repeat' first
    | with_reducible assumption
    | with_reducible refine State.setFld_kept ?_

theorem State.setCxlLink_kept {s0 s : State} (h : Kept s0 s) {p up width rate64} : Kept s0 (State.setCxlLink s p up
    width rate64) := by
  unfold State.setCxlLink
  repeat' first
    | with_reducible assumption
    | with_reducible refine State.wr_kept ?_

theorem State.migrateObj_kept {s0 s : State} (h : Kept s0 s) {i o} : Kept s0 (State.migrateObj s i o) := by
  unfold State.migrateObj
  repeat' first
    | with_reducible assumption
    | with_reducible refine State.allocate_kept ?_
    | with_reducible refine State.allocate_kept_eq (by assumption) ?_
    | with_reducible refine State.setCliffObj_kept ?_
    | with_reducible refine foldl_kept ?_ ?_
    | with_reducible refine foldl_kept_fst ?_ ?_
    | with_reducible refine foldl_kept_snd ?_ ?_
    | with_reducible refine kept_ite ?_ ?_
    | intro _
    | dsimp only
    | split

theorem State.migratePage_kept {s0 s : State} (h : Kept s0 s) {g} : Kept s0 (State.migratePage s g) := by
  unfold State.migratePage
  repeat' first
    | with_reducible assumption
    | with_reducible refine State.unspill_kept ?_
    | with_reducible refine State.allocate_kept ?_
    | with_reducible refine State.allocate_kept_eq (by assumption) ?_
    | with_reducible refine State.dropPage_kept ?_
    | with_reducible refine State.moveUnit_kept ?_
    | with_reducible refine State.setPage_kept ?_
    | with_reducible refine State.cxlUnit_kept ?_
    | with_reducible refine State.cxlUnit_kept_eq (by assumption) ?_
    | with_reducible refine foldl_kept ?_ ?_
    | with_reducible refine foldl_kept_fst ?_ ?_
    | with_reducible refine foldl_kept_snd ?_ ?_
    | with_reducible refine kept_ite ?_ ?_
    | intro _
    | dsimp only
    | split

theorem State.drainDecoder_kept {s0 s : State} (h : Kept s0 s) {d} : Kept s0 (State.drainDecoder s d) := by
  unfold State.drainDecoder
  repeat' first
    | with_reducible assumption
    | with_reducible refine State.corrected_kept ?_
    | with_reducible refine State.event_kept ?_
    | with_reducible refine State.setCxlLink_kept ?_
    | with_reducible refine State.setDec_kept ?_
    | with_reducible refine State.wr_kept ?_
    | with_reducible refine State.lineOut_kept ?_
    | with_reducible refine State.migrateObj_kept ?_
    | with_reducible refine State.migratePage_kept ?_
    | with_reducible refine foldl_kept ?_ ?_
    | with_reducible refine foldl_kept_fst ?_ ?_
    | with_reducible refine foldl_kept_snd ?_ ?_
    | with_reducible refine kept_ite ?_ ?_
    | intro _

theorem State.hotRemove_kept {s0 s : State} (h : Kept s0 s) {p n} : Kept s0 (State.hotRemove s p n).2 := by
  unfold State.hotRemove
  repeat' first
    | with_reducible assumption
    | with_reducible refine State.setDec_kept ?_
    | with_reducible refine State.drainDecoder_kept ?_
    | with_reducible refine foldl_kept ?_ ?_
    | with_reducible refine foldl_kept_fst ?_ ?_
    | with_reducible refine foldl_kept_snd ?_ ?_
    | with_reducible refine kept_ite ?_ ?_
    | with_reducible refine kept_ite_snd ?_ ?_

theorem State.hotRemove_kept_eq {s0 s t9 : State} {p n} {y9} (e : State.hotRemove s p n = (y9, t9)) (h : Kept s0 s)
    : Kept s0 t9 := by
  have := State.hotRemove_kept h (p := p) (n := n)
  rw [e] at this
  exact this

theorem State.drainDecoders_kept {s0 s : State} (h : Kept s0 s) : Kept s0 (State.drainDecoders s) := by
  unfold State.drainDecoders
  repeat' first
    | with_reducible assumption
    | with_reducible refine State.drainDecoder_kept ?_
    | with_reducible refine foldl_kept ?_ ?_
    | with_reducible refine foldl_kept_fst ?_ ?_
    | with_reducible refine foldl_kept_snd ?_ ?_
    | with_reducible refine kept_ite ?_ ?_
    | intro _

theorem State.cxlAnswer_kept {s0 s : State} (h : Kept s0 s) {k r} : KeptS s0 (State.cxlAnswer s k r) := by
  unfold State.cxlAnswer
  repeat' first
    | with_reducible assumption
    | with_reducible exact KeptS.none
    | with_reducible refine KeptS.some ?_
    | with_reducible refine State.refuse_kept ?_
    | with_reducible refine State.answer_kept ?_
    | with_reducible refine foldl_kept ?_ ?_
    | with_reducible refine foldl_kept_fst ?_ ?_
    | with_reducible refine foldl_kept_snd ?_ ?_
    | with_reducible refine kept_ite ?_ ?_
    | with_reducible refine keptS_ite ?_ ?_
    | simp only [Kept.upd]
    | dsimp only
    | split

theorem State.cxlAnswer_kept_eq {s0 s t9 : State} {k r} (e : State.cxlAnswer s k r = some t9) (h : Kept s0 s) :
    Kept s0 t9 :=
  State.cxlAnswer_kept h (k := k) (r := r) t9 e

theorem State.hotAdd_kept {s0 s : State} (h : Kept s0 s) {p n f t} : Kept s0 (State.hotAdd s p n f t).2 := by
  unfold State.hotAdd
  repeat' first
    | with_reducible assumption
    | with_reducible refine State.event_kept ?_
    | with_reducible refine State.storeFree_kept ?_
    | with_reducible refine State.setDec_kept ?_
    | with_reducible refine State.setFld_kept ?_
    | with_reducible refine State.setCxlLink_kept ?_
    | with_reducible refine foldl_kept ?_ ?_
    | with_reducible refine foldl_kept_fst ?_ ?_
    | with_reducible refine foldl_kept_snd ?_ ?_
    | with_reducible refine kept_ite ?_ ?_
    | with_reducible refine kept_ite_snd ?_ ?_

theorem State.hotAdd_kept_eq {s0 s t9 : State} {p n f t} {y9} (e : State.hotAdd s p n f t = (y9, t9)) (h : Kept s0
    s) : Kept s0 t9 := by
  have := State.hotAdd_kept h (p := p) (n := n) (f := f) (t := t)
  rw [e] at this
  exact this

theorem State.cxlLost_kept {s0 s : State} (h : Kept s0 s) {p} : Kept s0 (State.cxlLost s p) := by
  unfold State.cxlLost
  repeat' first
    | with_reducible assumption
    | with_reducible refine State.contained_kept ?_
    | with_reducible refine State.event_kept ?_
    | with_reducible refine State.setFld_kept ?_
    | with_reducible refine State.setDec_kept ?_
    | with_reducible refine State.setCliffObj_kept ?_
    | with_reducible refine State.dropPage_kept ?_
    | with_reducible refine foldl_kept ?_ ?_
    | with_reducible refine foldl_kept_fst ?_ ?_
    | with_reducible refine foldl_kept_snd ?_ ?_
    | with_reducible refine kept_ite ?_ ?_
    | intro _

/-! ### Serve -/

theorem State.sceneCloses_kept {s0 s : State} (h : Kept s0 s) {k si r} : KeptS s0 (State.sceneCloses s k si r) := by
  unfold State.sceneCloses
  repeat' first
    | with_reducible assumption
    | with_reducible exact KeptS.none
    | with_reducible refine KeptS.some ?_
    | with_reducible exact fun t x k => State.closeStream_kept k
    | with_reducible refine State.closeStream_kept ?_
    | with_reducible refine State.closeScene_kept ?_
    | with_reducible refine State.answer_kept ?_
    | with_reducible refine foldl_kept ?_ ?_
    | with_reducible refine foldl_kept_fst ?_ ?_
    | with_reducible refine foldl_kept_snd ?_ ?_
    | with_reducible refine kept_ite ?_ ?_
    | with_reducible refine keptS_ite ?_ ?_

theorem State.sceneCloses_kept_eq {s0 s t9 : State} {k si r} (e : State.sceneCloses s k si r = some t9) (h : Kept
    s0 s) : Kept s0 t9 :=
  State.sceneCloses_kept h (k := k) (si := si) (r := r) t9 e

theorem State.serveReq_kept {s0 s : State} (h : Kept s0 s) {k r} : KeptS s0 (State.serveReq s k r) := by
  unfold State.serveReq
  repeat' first
    | with_reducible assumption
    | with_reducible exact KeptS.none
    | with_reducible refine KeptS.some ?_
    | with_reducible refine keptS_map (fun _ => ?_)
    | with_reducible refine State.cxlAnswer_kept ?_
    | with_reducible refine State.cxlAnswer_kept_eq (by assumption) ?_
    | with_reducible refine State.objRetry_kept ?_
    | with_reducible refine State.objRetry_kept_eq (by assumption) ?_
    | with_reducible refine State.loadStops_kept ?_
    | with_reducible refine State.closeNow_kept ?_
    | with_reducible refine State.sceneCloses_kept ?_
    | with_reducible refine State.sceneCloses_kept_eq (by assumption) ?_
    | with_reducible refine State.forkNow_kept ?_
    | with_reducible refine State.rollEnds_kept ?_
    | with_reducible refine State.rollStart_kept ?_
    | with_reducible refine State.refuse_kept ?_
    | with_reducible refine State.planStep_kept ?_
    | with_reducible refine State.planStart_kept ?_
    | with_reducible refine State.planEnds_kept ?_
    | with_reducible refine State.waitPhase_kept ?_
    | with_reducible refine State.observeEnd_kept ?_
    | with_reducible refine foldl_kept ?_ ?_
    | with_reducible refine foldl_kept_fst ?_ ?_
    | with_reducible refine foldl_kept_snd ?_ ?_
    | with_reducible refine kept_ite ?_ ?_
    | with_reducible refine keptS_ite ?_ ?_
    | dsimp only
    | split

theorem State.serveReq_kept_eq {s0 s t9 : State} {k r} (e : State.serveReq s k r = some t9) (h : Kept s0 s) : Kept
    s0 t9 :=
  State.serveReq_kept h (k := k) (r := r) t9 e

theorem State.serveFirst_kept {s0 s : State} (h : Kept s0 s) {x1} : KeptS s0 (State.serveFirst s x1) := by
  induction x1 generalizing s with
  | nil => exact KeptS.none
  | cons a l ih =>
    obtain ⟨k, _ | r⟩ := a
    · exact ih h
    · unfold State.serveFirst
      split
      · next t e => exact KeptS.some (State.serveReq_kept_eq e h)
      · exact ih h

theorem State.serveFirst_kept_eq {s0 s t9 : State} {x1} (e : State.serveFirst s x1 = some t9) (h : Kept s0 s) :
    Kept s0 t9 :=
  State.serveFirst_kept h (x1 := x1) t9 e

theorem State.serveSome_kept {s0 s : State} (h : Kept s0 s) {x1} : Kept s0 (State.serveSome s x1) := by
  induction x1 generalizing s with
  | zero =>
    unfold State.serveSome
    repeat' first
      | with_reducible assumption
  | succ n ih =>
    unfold State.serveSome
    repeat' first
      | with_reducible assumption
      | with_reducible refine ih ?_
      | with_reducible refine State.serveFirst_kept ?_
      | with_reducible refine State.serveFirst_kept_eq (by assumption) ?_
      | with_reducible refine foldl_kept ?_ ?_
      | with_reducible refine foldl_kept_fst ?_ ?_
      | with_reducible refine foldl_kept_snd ?_ ?_
      | with_reducible refine kept_ite ?_ ?_
      | intro _
      | simp only [Kept.upd]
      | dsimp only
      | split

theorem State.serve_kept {s0 s : State} (h : Kept s0 s) : Kept s0 (State.serve s) := by
  unfold State.serve
  repeat' first
    | with_reducible assumption
    | with_reducible refine State.drainDecoders_kept ?_
    | with_reducible refine State.serveSome_kept ?_

theorem execRecomputeDone_kept {s0 s : State} (h : Kept s0 s) {g e} : KeptO s0 (execRecomputeDone g e s) := by
  unfold execRecomputeDone
  repeat' first
    | with_reducible assumption
    | with_reducible refine KeptO.next ?_
    | with_reducible refine State.recomputeEnds_kept ?_
    | with_reducible refine State.serve_kept ?_
    | with_reducible refine State.awake_kept ?_ ?_
    | with_reducible refine foldl_kept ?_ ?_
    | with_reducible refine foldl_kept_fst ?_ ?_
    | with_reducible refine foldl_kept_snd ?_ ?_
    | with_reducible refine kept_ite ?_ ?_
    | intro _

theorem execStepCommit_kept {s0 s : State} (h : Kept s0 s) {i e badPage} : KeptO s0 (execStepCommit i e badPage s)
    := by
  unfold execStepCommit
  repeat' first
    | with_reducible assumption
    | with_reducible refine KeptO.next ?_
    | with_reducible refine State.stepEnds_kept ?_
    | with_reducible refine State.serve_kept ?_
    | with_reducible refine State.awake_kept ?_ ?_
    | with_reducible refine foldl_kept ?_ ?_
    | with_reducible refine foldl_kept_fst ?_ ?_
    | with_reducible refine foldl_kept_snd ?_ ?_
    | with_reducible refine kept_ite ?_ ?_
    | intro _

theorem execStepDispatch_kept {s0 s : State} (h : Kept s0 s) {i} : KeptO s0 (execStepDispatch i s) := by
  unfold execStepDispatch
  repeat' first
    | with_reducible assumption
    | with_reducible refine KeptO.next ?_
    | with_reducible refine State.stepDispatch_kept ?_
    | with_reducible refine State.serve_kept ?_
    | with_reducible refine State.awake_kept ?_ ?_
    | with_reducible refine foldl_kept ?_ ?_
    | with_reducible refine foldl_kept_fst ?_ ?_
    | with_reducible refine foldl_kept_snd ?_ ?_
    | with_reducible refine kept_ite ?_ ?_
    | intro _

/-! ### Message -/

theorem State.received_kept {s0 s : State} (h : Kept s0 s) {qp bytes} : Kept s0 (State.received s qp bytes) := by
  unfold State.received
  repeat' first
    | with_reducible assumption
    | with_reducible refine State.emit_kept ?_
    | with_reducible refine State.setQp_kept ?_
    | with_reducible refine State.ctxLook_kept ?_
    | with_reducible refine State.ctxLook_kept_eq (by assumption) ?_
    | with_reducible refine foldl_kept ?_ ?_
    | with_reducible refine foldl_kept_fst ?_ ?_
    | with_reducible refine foldl_kept_snd ?_ ?_
    | with_reducible refine kept_ite ?_ ?_
    | intro _
    | dsimp only
    | split

theorem State.rnr_kept {s0 s : State} (h : Kept s0 s) {qp} : Kept s0 (State.rnr s qp) := by
  unfold State.rnr
  repeat' first
    | with_reducible assumption
    | with_reducible refine State.emit_kept ?_
    | with_reducible refine State.bump_kept ?_

theorem State.closeBegins_kept {s0 s : State} (h : Kept s0 s) {k i} : Kept s0 (State.closeBegins s k i) := by
  unfold State.closeBegins
  repeat' first
    | with_reducible assumption
    | with_reducible refine State.setStream_kept ?_
    | with_reducible refine foldl_kept ?_ ?_
    | with_reducible refine foldl_kept_fst ?_ ?_
    | with_reducible refine foldl_kept_snd ?_ ?_
    | with_reducible refine kept_ite ?_ ?_
    | intro _
    | simp only [Kept.upd]
    | dsimp only
    | split

theorem State.closeSceneBegins_kept {s0 s : State} (h : Kept s0 s) {k i} : Kept s0 (State.closeSceneBegins s k i)
    := by
  unfold State.closeSceneBegins
  repeat' first
    | with_reducible assumption
    | with_reducible refine State.setScene_kept ?_
    | with_reducible refine foldl_kept ?_ ?_
    | with_reducible refine foldl_kept_fst ?_ ?_
    | with_reducible refine foldl_kept_snd ?_ ?_
    | with_reducible refine kept_ite ?_ ?_
    | intro _
    | simp only [Kept.upd]

theorem State.enqueue_kept {s0 s : State} (h : Kept s0 s) {k i} : Kept s0 (State.enqueue s k i) := by
  unfold State.enqueue
  repeat' first
    | with_reducible assumption
    | with_reducible refine State.setStream_kept ?_

theorem State.intakePlace_kept {s0 s : State} (h : Kept s0 s) {n} : Kept s0 (State.intakePlace s n).2 := by
  unfold State.intakePlace
  repeat' first
    | with_reducible assumption
    | with_reducible refine State.draw_kept ?_
    | with_reducible refine State.draw_kept_eq (by assumption) ?_
    | with_reducible refine foldl_kept ?_ ?_
    | with_reducible refine foldl_kept_fst ?_ ?_
    | with_reducible refine foldl_kept_snd ?_ ?_
    | with_reducible refine kept_ite ?_ ?_
    | with_reducible refine kept_ite_snd ?_ ?_

theorem State.intakePlace_kept_eq {s0 s t9 : State} {n} {y9} (e : State.intakePlace s n = (y9, t9)) (h : Kept s0 s)
    : Kept s0 t9 := by
  have := State.intakePlace_kept h (n := n)
  rw [e] at this
  exact this

theorem State.message_kept {s0 s : State} (h : Kept s0 s) {qp m mine checks act} (hact : ∀ y0 y1 y2, Kept s0 y2 →
    Kept s0 (act y0 y1 y2)) : Kept s0 (State.message s qp m mine checks act) := by
  unfold State.message
  repeat' first
    | with_reducible assumption
    | with_reducible refine hact _ _ _ ?_
    | with_reducible refine State.serve_kept ?_
    | with_reducible refine State.refuse_kept ?_
    | with_reducible refine State.received_kept ?_
    | with_reducible refine State.marked_kept ?_
    | with_reducible refine State.rnr_kept ?_
    | with_reducible refine State.ctxLook_kept ?_
    | with_reducible refine State.ctxLook_kept_eq (by assumption) ?_
    | with_reducible refine State.emit_kept ?_
    | with_reducible refine State.qpError_kept ?_
    | with_reducible refine foldl_kept ?_ ?_
    | with_reducible refine foldl_kept_fst ?_ ?_
    | with_reducible refine foldl_kept_snd ?_ ?_
    | with_reducible refine kept_ite ?_ ?_
    | intro _
    | simp only [Kept.upd]
    | dsimp only
    | split

theorem State.openScene_kept {s0 s : State} (h : Kept s0 s) {k r} : Kept s0 (State.openScene k r s) := by
  unfold State.openScene
  repeat' first
    | with_reducible assumption
    | with_reducible refine State.answer_kept ?_
    | with_reducible refine State.takeCkpt_kept ?_
    | with_reducible refine State.setScene_kept ?_
    | with_reducible refine State.setStream_kept ?_
    | with_reducible refine State.draw_kept ?_
    | with_reducible refine State.draw_kept_eq (by assumption) ?_
    | with_reducible refine State.pick_kept ?_
    | with_reducible refine State.pick_kept_eq (by assumption) ?_
    | with_reducible refine State.intakePlace_kept ?_
    | with_reducible refine State.intakePlace_kept_eq (by assumption) ?_
    | with_reducible refine State.event_kept ?_
    | with_reducible refine State.refuse_kept ?_
    | with_reducible refine foldl_kept ?_ ?_
    | with_reducible refine foldl_kept_fst ?_ ?_
    | with_reducible refine foldl_kept_snd ?_ ?_
    | with_reducible refine kept_ite ?_ ?_
    | intro _
    | simp only [Kept.upd]
    | dsimp only
    | split

theorem State.poolExpires_kept {s0 s : State} (h : Kept s0 s) {k} : Kept s0 (State.poolExpires s k) := by
  unfold State.poolExpires
  repeat' first
    | with_reducible assumption
    | with_reducible refine State.loadStops_kept ?_
    | with_reducible refine State.refuse_kept ?_
    | with_reducible refine State.groupFails_kept ?_
    | with_reducible refine State.serve_kept ?_
    | with_reducible refine foldl_kept ?_ ?_
    | with_reducible refine foldl_kept_fst ?_ ?_
    | with_reducible refine foldl_kept_snd ?_ ?_
    | with_reducible refine kept_ite ?_ ?_
    | intro _
    | dsimp only
    | split

theorem execCancel_kept {s0 s : State} (h : Kept s0 s) {qp m} : KeptO s0 (execCancel qp m s) := by
  unfold execCancel
  repeat' first
    | with_reducible assumption
    | with_reducible refine KeptO.next ?_
    | with_reducible refine State.setReq_kept ?_
    | with_reducible refine State.answer_kept ?_
    | with_reducible refine State.message_kept ?_ ?_
    | with_reducible refine State.heard_kept ?_ ?_
    | with_reducible refine State.awake_kept ?_ ?_
    | with_reducible refine foldl_kept ?_ ?_
    | with_reducible refine foldl_kept_fst ?_ ?_
    | with_reducible refine foldl_kept_snd ?_ ?_
    | with_reducible refine kept_ite ?_ ?_
    | intro _

theorem execObjDelete_kept {s0 s : State} (h : Kept s0 s) {qp m} : KeptO s0 (execObjDelete qp m s) := by
  unfold execObjDelete
  repeat' first
    | with_reducible assumption
    | with_reducible refine KeptO.next ?_
    | with_reducible refine State.setCliffObj_kept ?_
    | with_reducible refine State.answer_kept ?_
    | with_reducible refine State.message_kept ?_ ?_
    | with_reducible refine State.heard_kept ?_ ?_
    | with_reducible refine State.awake_kept ?_ ?_
    | with_reducible refine foldl_kept ?_ ?_
    | with_reducible refine foldl_kept_fst ?_ ?_
    | with_reducible refine foldl_kept_snd ?_ ?_
    | with_reducible refine kept_ite ?_ ?_
    | intro _

theorem execObjRead_kept {s0 s : State} (h : Kept s0 s) {qp m} : KeptO s0 (execObjRead qp m s) := by
  unfold execObjRead
  repeat' first
    | with_reducible assumption
    | with_reducible refine KeptO.next ?_
    | with_reducible refine State.objRead_kept ?_
    | with_reducible refine State.message_kept ?_ ?_
    | with_reducible refine State.heard_kept ?_ ?_
    | with_reducible refine State.awake_kept ?_ ?_
    | with_reducible refine foldl_kept ?_ ?_
    | with_reducible refine foldl_kept_fst ?_ ?_
    | with_reducible refine foldl_kept_snd ?_ ?_
    | with_reducible refine kept_ite ?_ ?_
    | intro _

theorem execObjWrite_kept {s0 s : State} (h : Kept s0 s) {qp m} : KeptO s0 (execObjWrite qp m s) := by
  unfold execObjWrite
  repeat' first
    | with_reducible assumption
    | with_reducible refine KeptO.next ?_
    | with_reducible refine State.objWriteBegins_kept ?_
    | with_reducible refine State.message_kept ?_ ?_
    | with_reducible refine State.heard_kept ?_ ?_
    | with_reducible refine State.awake_kept ?_ ?_
    | with_reducible refine foldl_kept ?_ ?_
    | with_reducible refine foldl_kept_fst ?_ ?_
    | with_reducible refine foldl_kept_snd ?_ ?_
    | with_reducible refine kept_ite ?_ ?_
    | intro _

theorem execObjCreate_kept {s0 s : State} (h : Kept s0 s) {qp m} : KeptO s0 (execObjCreate qp m s) := by
  unfold execObjCreate
  repeat' first
    | with_reducible assumption
    | with_reducible refine KeptO.next ?_
    | with_reducible refine State.objBegin_kept ?_
    | with_reducible refine State.message_kept ?_ ?_
    | with_reducible refine State.heard_kept ?_ ?_
    | with_reducible refine State.awake_kept ?_ ?_
    | with_reducible refine foldl_kept ?_ ?_
    | with_reducible refine foldl_kept_fst ?_ ?_
    | with_reducible refine foldl_kept_snd ?_ ?_
    | with_reducible refine kept_ite ?_ ?_
    | intro _

theorem execPrefetchModel_kept {s0 s : State} (h : Kept s0 s) {qp m} : KeptO s0 (execPrefetchModel qp m s) := by
  unfold execPrefetchModel
  repeat' first
    | with_reducible assumption
    | with_reducible refine KeptO.next ?_
    | with_reducible refine State.modelReady_kept ?_
    | with_reducible refine State.modelReady_kept_eq (by assumption) ?_
    | with_reducible refine State.answer_kept ?_
    | with_reducible refine State.message_kept ?_ ?_
    | with_reducible refine State.heard_kept ?_ ?_
    | with_reducible refine State.awake_kept ?_ ?_
    | with_reducible refine foldl_kept ?_ ?_
    | with_reducible refine foldl_kept_fst ?_ ?_
    | with_reducible refine foldl_kept_snd ?_ ?_
    | with_reducible refine kept_ite ?_ ?_
    | intro _

theorem execUnloadModel_kept {s0 s : State} (h : Kept s0 s) {qp m} : KeptO s0 (execUnloadModel qp m s) := by
  unfold execUnloadModel
  repeat' first
    | with_reducible assumption
    | with_reducible refine KeptO.next ?_
    | with_reducible refine State.unload_kept ?_
    | with_reducible refine State.answer_kept ?_
    | with_reducible refine State.message_kept ?_ ?_
    | with_reducible refine State.heard_kept ?_ ?_
    | with_reducible refine State.awake_kept ?_ ?_
    | with_reducible refine foldl_kept ?_ ?_
    | with_reducible refine foldl_kept_fst ?_ ?_
    | with_reducible refine foldl_kept_snd ?_ ?_
    | with_reducible refine kept_ite ?_ ?_
    | intro _

theorem execLoadModel_kept {s0 s : State} (h : Kept s0 s) {qp m} : KeptO s0 (execLoadModel qp m s) := by
  unfold execLoadModel
  repeat' first
    | with_reducible assumption
    | with_reducible refine KeptO.next ?_
    | with_reducible refine State.loadBegins_kept ?_
    | with_reducible refine State.message_kept ?_ ?_
    | with_reducible refine State.heard_kept ?_ ?_
    | with_reducible refine State.awake_kept ?_ ?_
    | with_reducible refine foldl_kept ?_ ?_
    | with_reducible refine foldl_kept_fst ?_ ?_
    | with_reducible refine foldl_kept_snd ?_ ?_
    | with_reducible refine kept_ite ?_ ?_
    | intro _

theorem execCloseScene_kept {s0 s : State} (h : Kept s0 s) {qp m} : KeptO s0 (execCloseScene qp m s) := by
  unfold execCloseScene
  repeat' first
    | with_reducible assumption
    | with_reducible refine KeptO.next ?_
    | with_reducible refine State.closeSceneBegins_kept ?_
    | with_reducible refine State.message_kept ?_ ?_
    | with_reducible refine State.heard_kept ?_ ?_
    | with_reducible refine State.awake_kept ?_ ?_
    | with_reducible refine foldl_kept ?_ ?_
    | with_reducible refine foldl_kept_fst ?_ ?_
    | with_reducible refine foldl_kept_snd ?_ ?_
    | with_reducible refine kept_ite ?_ ?_
    | intro _

theorem execCloseStream_kept {s0 s : State} (h : Kept s0 s) {qp m} : KeptO s0 (execCloseStream qp m s) := by
  unfold execCloseStream
  repeat' first
    | with_reducible assumption
    | with_reducible refine KeptO.next ?_
    | with_reducible refine State.closeBegins_kept ?_
    | with_reducible refine State.message_kept ?_ ?_
    | with_reducible refine State.heard_kept ?_ ?_
    | with_reducible refine State.awake_kept ?_ ?_
    | with_reducible refine foldl_kept ?_ ?_
    | with_reducible refine foldl_kept_fst ?_ ?_
    | with_reducible refine foldl_kept_snd ?_ ?_
    | with_reducible refine kept_ite ?_ ?_
    | intro _

theorem execFork_kept {s0 s : State} (h : Kept s0 s) {qp m} : KeptO s0 (execFork qp m s) := by
  unfold execFork
  repeat' first
    | with_reducible assumption
    | with_reducible refine KeptO.next ?_
    | with_reducible refine State.enqueue_kept ?_
    | with_reducible refine State.message_kept ?_ ?_
    | with_reducible refine State.heard_kept ?_ ?_
    | with_reducible refine State.awake_kept ?_ ?_
    | with_reducible refine foldl_kept ?_ ?_
    | with_reducible refine foldl_kept_fst ?_ ?_
    | with_reducible refine foldl_kept_snd ?_ ?_
    | with_reducible refine kept_ite ?_ ?_
    | intro _

theorem execRollout_kept {s0 s : State} (h : Kept s0 s) {qp m} : KeptO s0 (execRollout qp m s) := by
  unfold execRollout
  repeat' first
    | with_reducible assumption
    | with_reducible refine KeptO.next ?_
    | with_reducible refine State.enqueue_kept ?_
    | with_reducible refine State.message_kept ?_ ?_
    | with_reducible refine State.heard_kept ?_ ?_
    | with_reducible refine State.awake_kept ?_ ?_
    | with_reducible refine foldl_kept ?_ ?_
    | with_reducible refine foldl_kept_fst ?_ ?_
    | with_reducible refine foldl_kept_snd ?_ ?_
    | with_reducible refine kept_ite ?_ ?_
    | intro _

theorem execPlan_kept {s0 s : State} (h : Kept s0 s) {qp m} : KeptO s0 (execPlan qp m s) := by
  unfold execPlan
  repeat' first
    | with_reducible assumption
    | with_reducible refine KeptO.next ?_
    | with_reducible refine State.enqueue_kept ?_
    | with_reducible refine State.message_kept ?_ ?_
    | with_reducible refine State.heard_kept ?_ ?_
    | with_reducible refine State.awake_kept ?_ ?_
    | with_reducible refine foldl_kept ?_ ?_
    | with_reducible refine foldl_kept_fst ?_ ?_
    | with_reducible refine foldl_kept_snd ?_ ?_
    | with_reducible refine kept_ite ?_ ?_
    | intro _

theorem execObserve_kept {s0 s : State} (h : Kept s0 s) {qp m} : KeptO s0 (execObserve qp m s) := by
  unfold execObserve
  repeat' first
    | with_reducible assumption
    | with_reducible refine KeptO.next ?_
    | with_reducible refine State.enqueue_kept ?_
    | with_reducible refine State.message_kept ?_ ?_
    | with_reducible refine State.heard_kept ?_ ?_
    | with_reducible refine State.awake_kept ?_ ?_
    | with_reducible refine foldl_kept ?_ ?_
    | with_reducible refine foldl_kept_fst ?_ ?_
    | with_reducible refine foldl_kept_snd ?_ ?_
    | with_reducible refine kept_ite ?_ ?_
    | intro _

theorem execOpenScene_kept {s0 s : State} (h : Kept s0 s) {qp m} : KeptO s0 (execOpenScene qp m s) := by
  unfold execOpenScene
  repeat' first
    | with_reducible assumption
    | with_reducible refine KeptO.next ?_
    | with_reducible refine State.openScene_kept ?_
    | with_reducible refine State.message_kept ?_ ?_
    | with_reducible refine State.heard_kept ?_ ?_
    | with_reducible refine State.awake_kept ?_ ?_
    | with_reducible refine foldl_kept ?_ ?_
    | with_reducible refine foldl_kept_fst ?_ ?_
    | with_reducible refine foldl_kept_snd ?_ ?_
    | with_reducible refine kept_ite ?_ ?_
    | intro _

theorem execRdmaReadResponse_kept {s0 s : State} (h : Kept s0 s) {k data} : KeptO s0 (execRdmaReadResponse k data
    s) := by
  unfold execRdmaReadResponse
  repeat' first
    | with_reducible assumption
    | with_reducible refine KeptO.next ?_
    | with_reducible refine State.readResponse_kept ?_
    | with_reducible refine State.serve_kept ?_
    | with_reducible refine State.awake_kept ?_ ?_
    | with_reducible refine foldl_kept ?_ ?_
    | with_reducible refine foldl_kept_fst ?_ ?_
    | with_reducible refine foldl_kept_snd ?_ ?_
    | with_reducible refine kept_ite ?_ ?_
    | intro _

theorem execModelStaged_kept {s0 s : State} (h : Kept s0 s) {m v} : KeptO s0 (execModelStaged m v s) := by
  unfold execModelStaged
  repeat' first
    | with_reducible assumption
    | with_reducible refine KeptO.next ?_
    | with_reducible refine State.modelStaged_kept ?_
    | with_reducible refine State.serve_kept ?_
    | with_reducible refine State.awake_kept ?_ ?_
    | with_reducible refine foldl_kept ?_ ?_
    | with_reducible refine foldl_kept_fst ?_ ?_
    | with_reducible refine foldl_kept_snd ?_ ?_
    | with_reducible refine kept_ite ?_ ?_
    | intro _

theorem execPoolWaitExpire_kept {s0 s : State} (h : Kept s0 s) {k} : KeptO s0 (execPoolWaitExpire k s) := by
  unfold execPoolWaitExpire
  repeat' first
    | with_reducible assumption
    | with_reducible refine KeptO.next ?_
    | with_reducible refine State.poolExpires_kept ?_
    | with_reducible refine State.awake_kept ?_ ?_
    | with_reducible refine foldl_kept ?_ ?_
    | with_reducible refine foldl_kept_fst ?_ ?_
    | with_reducible refine foldl_kept_snd ?_ ?_
    | with_reducible refine kept_ite ?_ ?_
    | intro _

/-! ### Estuary -/

theorem State.ethDown_kept {s0 s : State} (h : Kept s0 s) {p} : Kept s0 (State.ethDown s p) := by
  unfold State.ethDown
  repeat' first
    | with_reducible assumption
    | with_reducible refine State.setFld_kept ?_
    | with_reducible refine State.event_kept ?_
    | with_reducible refine foldl_kept ?_ ?_
    | with_reducible refine foldl_kept_fst ?_ ?_
    | with_reducible refine foldl_kept_snd ?_ ?_
    | with_reducible refine kept_ite ?_ ?_
    | intro _
    | simp only [Kept.upd]

theorem State.estPortWrite_kept {s0 s : State} (h : Kept s0 s) {r p v} : Kept s0 (State.estPortWrite s r p v) := by
  unfold State.estPortWrite
  repeat' first
    | with_reducible assumption
    | with_reducible refine State.ethDown_kept ?_
    | with_reducible refine State.ignore_kept ?_
    | with_reducible refine State.wr_kept ?_
    | with_reducible refine foldl_kept ?_ ?_
    | with_reducible refine foldl_kept_fst ?_ ?_
    | with_reducible refine foldl_kept_snd ?_ ?_
    | with_reducible refine kept_ite ?_ ?_

theorem State.createQp_kept {s0 s : State} (h : Kept s0 s) {k r} : Kept s0 (State.createQp k r s) := by
  unfold State.createQp
  repeat' first
    | with_reducible assumption
    | with_reducible refine State.ctxFill_kept ?_
    | with_reducible refine State.answer_kept ?_
    | with_reducible refine State.setQp_kept ?_
    | with_reducible refine State.refuse_kept ?_
    | with_reducible refine State.draw_kept ?_
    | with_reducible refine State.draw_kept_eq (by assumption) ?_
    | with_reducible refine State.pick_kept ?_
    | with_reducible refine State.pick_kept_eq (by assumption) ?_
    | with_reducible refine foldl_kept ?_ ?_
    | with_reducible refine foldl_kept_fst ?_ ?_
    | with_reducible refine foldl_kept_snd ?_ ?_
    | with_reducible refine kept_ite ?_ ?_
    | intro _
    | dsimp only
    | split

theorem State.destroyQp_kept {s0 s : State} (h : Kept s0 s) {k r} : Kept s0 (State.destroyQp k r s) := by
  unfold State.destroyQp
  repeat' first
    | with_reducible assumption
    | with_reducible refine State.answer_kept ?_
    | with_reducible refine State.msgError_kept ?_
    | with_reducible refine State.setQp_kept ?_
    | with_reducible refine State.setReq_kept ?_
    | with_reducible refine foldl_kept ?_ ?_
    | with_reducible refine foldl_kept_fst ?_ ?_
    | with_reducible refine foldl_kept_snd ?_ ?_
    | with_reducible refine kept_ite ?_ ?_
    | intro _
    | simp only [Kept.upd]

theorem execCnpReceived_kept {s0 s : State} (h : Kept s0 s) {qp} : KeptO s0 (execCnpReceived qp s) := by
  unfold execCnpReceived
  repeat' first
    | with_reducible assumption
    | with_reducible refine KeptO.next ?_
    | with_reducible refine State.setQp_kept ?_
    | with_reducible refine State.bump_kept ?_
    | with_reducible refine State.heard_kept ?_ ?_
    | with_reducible refine State.awake_kept ?_ ?_
    | with_reducible refine foldl_kept ?_ ?_
    | with_reducible refine foldl_kept_fst ?_ ?_
    | with_reducible refine foldl_kept_snd ?_ ?_
    | with_reducible refine kept_ite ?_ ?_
    | intro _
    | dsimp only
    | split

theorem State.refusedAt_kept {s0 s : State} (h : Kept s0 s) {n psn} : Kept s0 (State.refusedAt s n psn) := by
  unfold State.refusedAt
  repeat' first
    | with_reducible assumption
    | with_reducible refine State.msgError_kept ?_
    | with_reducible refine State.resend_kept ?_
    | with_reducible refine State.refuse_kept ?_
    | with_reducible refine State.setQp_kept ?_
    | with_reducible refine foldl_kept ?_ ?_
    | with_reducible refine foldl_kept_fst ?_ ?_
    | with_reducible refine foldl_kept_snd ?_ ?_
    | with_reducible refine kept_ite ?_ ?_
    | intro _
    | dsimp only
    | split

theorem execAckReceived_kept {s0 s : State} (h : Kept s0 s) {qp psn kind} : KeptO s0 (execAckReceived qp psn kind
    s) := by
  unfold execAckReceived
  repeat' first
    | with_reducible assumption
    | with_reducible refine KeptO.next ?_
    | with_reducible refine State.refusedAt_kept ?_
    | with_reducible refine State.resend_kept ?_
    | with_reducible refine State.setQp_kept ?_
    | with_reducible refine State.heard_kept ?_ ?_
    | with_reducible refine State.awake_kept ?_ ?_
    | with_reducible refine foldl_kept ?_ ?_
    | with_reducible refine foldl_kept_fst ?_ ?_
    | with_reducible refine foldl_kept_snd ?_ ?_
    | with_reducible refine kept_ite ?_ ?_
    | intro _
    | dsimp only
    | split

theorem execRnrNakReceived_kept {s0 s : State} (h : Kept s0 s) {qp} : KeptO s0 (execRnrNakReceived qp s) := by
  unfold execRnrNakReceived
  repeat' first
    | with_reducible assumption
    | with_reducible refine KeptO.next ?_
    | with_reducible refine State.setQp_kept ?_
    | with_reducible refine State.resend_kept ?_
    | with_reducible refine State.qpError_kept ?_
    | with_reducible refine State.bump_kept ?_
    | with_reducible refine State.heard_kept ?_ ?_
    | with_reducible refine State.awake_kept ?_ ?_
    | with_reducible refine foldl_kept ?_ ?_
    | with_reducible refine foldl_kept_fst ?_ ?_
    | with_reducible refine foldl_kept_snd ?_ ?_
    | with_reducible refine kept_ite ?_ ?_
    | intro _
    | dsimp only
    | split

theorem execRdmaReadRequest_kept {s0 s : State} (h : Kept s0 s) {qp rkey va len ce} : KeptO s0 (execRdmaReadRequest
    qp rkey va len ce s) := by
  unfold execRdmaReadRequest
  repeat' first
    | with_reducible assumption
    | with_reducible refine KeptO.next ?_
    | with_reducible refine State.reads_kept ?_
    | with_reducible refine State.bump_kept ?_
    | with_reducible refine State.eccUncorr_kept ?_
    | with_reducible refine State.contained_kept ?_
    | with_reducible refine State.emit_kept ?_
    | with_reducible refine State.ctxLook_kept ?_
    | with_reducible refine State.ctxLook_kept_eq (by assumption) ?_
    | with_reducible refine State.marked_kept ?_
    | with_reducible refine State.heard_kept ?_ ?_
    | with_reducible refine State.awake_kept ?_ ?_
    | with_reducible refine foldl_kept ?_ ?_
    | with_reducible refine foldl_kept_fst ?_ ?_
    | with_reducible refine foldl_kept_snd ?_ ?_
    | with_reducible refine kept_ite ?_ ?_
    | intro _
    | dsimp only
    | split

theorem execRdmaWriteReceived_kept {s0 s : State} (h : Kept s0 s) {qp rkey va data ce} : KeptO s0
    (execRdmaWriteReceived qp rkey va data ce s) := by
  unfold execRdmaWriteReceived
  repeat' first
    | with_reducible assumption
    | with_reducible refine KeptO.next ?_
    | with_reducible refine State.received_kept ?_
    | with_reducible refine State.engineWrite_kept ?_
    | with_reducible refine State.engineWrite_kept_eq (by assumption) ?_
    | with_reducible refine State.ctxLook_kept ?_
    | with_reducible refine State.ctxLook_kept_eq (by assumption) ?_
    | with_reducible refine State.marked_kept ?_
    | with_reducible refine State.emit_kept ?_
    | with_reducible refine State.heard_kept ?_ ?_
    | with_reducible refine State.awake_kept ?_ ?_
    | with_reducible refine foldl_kept ?_ ?_
    | with_reducible refine foldl_kept_fst ?_ ?_
    | with_reducible refine foldl_kept_snd ?_ ?_
    | with_reducible refine kept_ite ?_ ?_
    | intro _
    | simp only [Kept.upd]
    | dsimp only
    | split

theorem execUnbindFast_kept {s0 s : State} (h : Kept s0 s) {qp m} : KeptO s0 (execUnbindFast qp m s) := by
  unfold execUnbindFast
  repeat' first
    | with_reducible assumption
    | with_reducible refine KeptO.next ?_
    | with_reducible refine State.setQp_kept ?_
    | with_reducible refine State.answer_kept ?_
    | with_reducible refine State.message_kept ?_ ?_
    | with_reducible refine State.heard_kept ?_ ?_
    | with_reducible refine State.awake_kept ?_ ?_
    | with_reducible refine foldl_kept ?_ ?_
    | with_reducible refine foldl_kept_fst ?_ ?_
    | with_reducible refine foldl_kept_snd ?_ ?_
    | with_reducible refine kept_ite ?_ ?_
    | intro _

theorem execBindFast_kept {s0 s : State} (h : Kept s0 s) {qp m} : KeptO s0 (execBindFast qp m s) := by
  unfold execBindFast
  repeat' first
    | with_reducible assumption
    | with_reducible refine KeptO.next ?_
    | with_reducible refine State.answer_kept ?_
    | with_reducible refine State.ctxFill_kept ?_
    | with_reducible refine State.setQp_kept ?_
    | with_reducible refine State.message_kept ?_ ?_
    | with_reducible refine State.heard_kept ?_ ?_
    | with_reducible refine State.awake_kept ?_ ?_
    | with_reducible refine foldl_kept ?_ ?_
    | with_reducible refine foldl_kept_fst ?_ ?_
    | with_reducible refine foldl_kept_snd ?_ ?_
    | with_reducible refine kept_ite ?_ ?_
    | intro _

theorem execDestroyQp_kept {s0 s : State} (h : Kept s0 s) {qp m} : KeptO s0 (execDestroyQp qp m s) := by
  unfold execDestroyQp
  repeat' first
    | with_reducible assumption
    | with_reducible refine KeptO.next ?_
    | with_reducible refine State.destroyQp_kept ?_
    | with_reducible refine State.message_kept ?_ ?_
    | with_reducible refine State.heard_kept ?_ ?_
    | with_reducible refine State.awake_kept ?_ ?_
    | with_reducible refine foldl_kept ?_ ?_
    | with_reducible refine foldl_kept_fst ?_ ?_
    | with_reducible refine foldl_kept_snd ?_ ?_
    | with_reducible refine kept_ite ?_ ?_
    | intro _

theorem execCreateQp_kept {s0 s : State} (h : Kept s0 s) {qp m} : KeptO s0 (execCreateQp qp m s) := by
  unfold execCreateQp
  repeat' first
    | with_reducible assumption
    | with_reducible refine KeptO.next ?_
    | with_reducible refine State.createQp_kept ?_
    | with_reducible refine State.message_kept ?_ ?_
    | with_reducible refine State.heard_kept ?_ ?_
    | with_reducible refine State.awake_kept ?_ ?_
    | with_reducible refine foldl_kept ?_ ?_
    | with_reducible refine foldl_kept_fst ?_ ?_
    | with_reducible refine foldl_kept_snd ?_ ?_
    | with_reducible refine kept_ite ?_ ?_
    | intro _

theorem execFrameDropped_kept {s0 s : State} (h : Kept s0 s) {_p} : KeptO s0 (execFrameDropped _p s) := by
  unfold execFrameDropped
  repeat' first
    | with_reducible assumption
    | with_reducible refine KeptO.next ?_
    | with_reducible refine State.bump_kept ?_
    | with_reducible refine State.awake_kept ?_ ?_
    | with_reducible refine foldl_kept ?_ ?_
    | with_reducible refine foldl_kept_fst ?_ ?_
    | with_reducible refine foldl_kept_snd ?_ ?_
    | with_reducible refine kept_ite ?_ ?_
    | intro _

theorem execPfcPauseReceived_kept {s0 s : State} (h : Kept s0 s) {p prio on} : KeptO s0 (execPfcPauseReceived p
    prio on s) := by
  unfold execPfcPauseReceived
  repeat' first
    | with_reducible assumption
    | with_reducible refine KeptO.next ?_
    | with_reducible refine State.awake_kept ?_ ?_
    | with_reducible refine foldl_kept ?_ ?_
    | with_reducible refine foldl_kept_fst ?_ ?_
    | with_reducible refine foldl_kept_snd ?_ ?_
    | with_reducible refine kept_ite ?_ ?_
    | intro _
    | simp only [Kept.upd]

theorem execSetMgmtQp_kept {s0 s : State} (h : Kept s0 s) {p ip qpn psn} : KeptO s0 (execSetMgmtQp p ip qpn psn s)
    := by
  unfold execSetMgmtQp
  repeat' first
    | with_reducible assumption
    | with_reducible refine KeptO.next ?_
    | with_reducible refine State.setQp_kept ?_
    | with_reducible refine State.draw_kept ?_
    | with_reducible refine State.draw_kept_eq (by assumption) ?_
    | with_reducible refine State.emit_kept ?_
    | with_reducible refine foldl_kept ?_ ?_
    | with_reducible refine foldl_kept_fst ?_ ?_
    | with_reducible refine foldl_kept_snd ?_ ?_
    | with_reducible refine kept_ite ?_ ?_

theorem execEthLinkDown_kept {s0 s : State} (h : Kept s0 s) {p} : KeptO s0 (execEthLinkDown p s) := by
  unfold execEthLinkDown
  repeat' first
    | with_reducible assumption
    | with_reducible refine KeptO.next ?_
    | with_reducible refine State.ethDown_kept ?_
    | with_reducible refine State.awake_kept ?_ ?_
    | with_reducible refine foldl_kept ?_ ?_
    | with_reducible refine foldl_kept_fst ?_ ?_
    | with_reducible refine foldl_kept_snd ?_ ?_
    | with_reducible refine kept_ite ?_ ?_
    | intro _

theorem execEthLinkUp_kept {s0 s : State} (h : Kept s0 s) {p} : KeptO s0 (execEthLinkUp p s) := by
  unfold execEthLinkUp
  repeat' first
    | with_reducible assumption
    | with_reducible refine KeptO.next ?_
    | with_reducible refine State.setFld_kept ?_
    | with_reducible refine State.event_kept ?_
    | with_reducible refine State.awake_kept ?_ ?_
    | with_reducible refine foldl_kept ?_ ?_
    | with_reducible refine foldl_kept_fst ?_ ?_
    | with_reducible refine foldl_kept_snd ?_ ?_
    | with_reducible refine kept_ite ?_ ?_
    | intro _
    | simp only [Kept.upd]

theorem execNeighbourRequest_kept {s0 s : State} (h : Kept s0 s) {p v6 hi lo} : KeptO s0 (execNeighbourRequest p v6
    hi lo s) := by
  unfold execNeighbourRequest
  repeat' first
    | with_reducible assumption
    | with_reducible refine KeptO.next ?_
    | with_reducible refine State.emit_kept ?_
    | with_reducible refine State.awake_kept ?_ ?_
    | with_reducible refine foldl_kept ?_ ?_
    | with_reducible refine foldl_kept_fst ?_ ?_
    | with_reducible refine foldl_kept_snd ?_ ?_
    | with_reducible refine kept_ite ?_ ?_
    | intro _

theorem execRateIncrease_kept {s0 s : State} (h : Kept s0 s) {qp} : KeptO s0 (execRateIncrease qp s) := by
  unfold execRateIncrease
  repeat' first
    | with_reducible assumption
    | with_reducible refine KeptO.next ?_
    | with_reducible refine State.setQp_kept ?_
    | with_reducible refine State.awake_kept ?_ ?_
    | with_reducible refine foldl_kept ?_ ?_
    | with_reducible refine foldl_kept_fst ?_ ?_
    | with_reducible refine foldl_kept_snd ?_ ?_
    | with_reducible refine kept_ite ?_ ?_
    | intro _
    | simp only [Kept.upd]
    | dsimp only
    | split

theorem execAckTimeout_kept {s0 s : State} (h : Kept s0 s) {qp} : KeptO s0 (execAckTimeout qp s) := by
  unfold execAckTimeout
  repeat' first
    | with_reducible assumption
    | with_reducible refine KeptO.next ?_
    | with_reducible refine State.setQp_kept ?_
    | with_reducible refine State.resend_kept ?_
    | with_reducible refine State.qpError_kept ?_
    | with_reducible refine State.awake_kept ?_ ?_
    | with_reducible refine foldl_kept ?_ ?_
    | with_reducible refine foldl_kept_fst ?_ ?_
    | with_reducible refine foldl_kept_snd ?_ ?_
    | with_reducible refine kept_ite ?_ ?_
    | intro _
    | simp only [Kept.upd]
    | dsimp only
    | split

theorem execFastPathRequest_kept {s0 s : State} (h : Kept s0 s) {qp payload ce} : KeptO s0 (execFastPathRequest qp
    payload ce s) := by
  unfold execFastPathRequest
  repeat' first
    | with_reducible assumption
    | with_reducible refine KeptO.next ?_
    | with_reducible refine State.fastPump_kept ?_
    | with_reducible refine State.setQp_kept ?_
    | with_reducible refine State.bump_kept ?_
    | with_reducible refine State.received_kept ?_
    | with_reducible refine State.marked_kept ?_
    | with_reducible refine State.ctxLook_kept ?_
    | with_reducible refine State.ctxLook_kept_eq (by assumption) ?_
    | with_reducible refine State.rnr_kept ?_
    | with_reducible refine State.awake_kept ?_ ?_
    | with_reducible refine foldl_kept ?_ ?_
    | with_reducible refine foldl_kept_fst ?_ ?_
    | with_reducible refine foldl_kept_snd ?_ ?_
    | with_reducible refine kept_ite ?_ ?_
    | intro _
    | simp only [Kept.upd]
    | dsimp only
    | split

theorem execPtpEventMessage_kept {s0 s : State} (h : Kept s0 s) {p rx} : KeptO s0 (execPtpEventMessage p rx s) := by
  unfold execPtpEventMessage
  repeat' first
    | with_reducible assumption
    | with_reducible refine KeptO.next ?_
    | with_reducible refine State.awake_kept ?_ ?_
    | with_reducible refine foldl_kept ?_ ?_
    | with_reducible refine foldl_kept_fst ?_ ?_
    | with_reducible refine foldl_kept_snd ?_ ?_
    | with_reducible refine kept_ite ?_ ?_
    | intro _
    | simp only [Kept.upd]

/-! ### FarMemory -/

theorem State.cxlDecWrite_kept {s0 s : State} (h : Kept s0 s) {p n v} : Kept s0 (State.cxlDecWrite s p n v) := by
  unfold State.cxlDecWrite
  repeat' first
    | with_reducible assumption
    | with_reducible refine State.ignore_kept ?_
    | with_reducible refine State.wrRw_kept ?_
    | with_reducible refine foldl_kept ?_ ?_
    | with_reducible refine foldl_kept_fst ?_ ?_
    | with_reducible refine foldl_kept_snd ?_ ?_
    | with_reducible refine kept_ite ?_ ?_

theorem State.cxlRemoveReg_kept {s0 s : State} (h : Kept s0 s) {p d} : Kept s0 (State.cxlRemoveReg s p d) := by
  unfold State.cxlRemoveReg
  repeat' first
    | with_reducible assumption
    | with_reducible refine State.contained_kept ?_
    | with_reducible refine State.hotRemove_kept ?_
    | with_reducible refine State.hotRemove_kept_eq (by assumption) ?_
    | with_reducible refine foldl_kept ?_ ?_
    | with_reducible refine foldl_kept_fst ?_ ?_
    | with_reducible refine foldl_kept_snd ?_ ?_
    | with_reducible refine kept_ite ?_ ?_
    | intro _
    | simp only [Kept.upd]
    | dsimp only
    | split

theorem State.cxlAddReg_kept {s0 s : State} (h : Kept s0 s) {p d t} : Kept s0 (State.cxlAddReg s p d t) := by
  unfold State.cxlAddReg
  repeat' first
    | with_reducible assumption
    | with_reducible refine State.contained_kept ?_
    | with_reducible refine State.hotAdd_kept ?_
    | with_reducible refine State.hotAdd_kept_eq (by assumption) ?_
    | with_reducible refine foldl_kept ?_ ?_
    | with_reducible refine foldl_kept_fst ?_ ?_
    | with_reducible refine foldl_kept_snd ?_ ?_
    | with_reducible refine kept_ite ?_ ?_
    | intro _
    | simp only [Kept.upd]
    | dsimp only
    | split

theorem State.cxlCtrlWrite_kept {s0 s : State} (h : Kept s0 s) {p v} : Kept s0 (State.cxlCtrlWrite s p v) := by
  unfold State.cxlCtrlWrite
  repeat' first
    | with_reducible assumption
    | with_reducible refine State.cxlRemoveReg_kept ?_
    | with_reducible refine State.serve_kept ?_
    | with_reducible refine State.cxlAddReg_kept ?_
    | with_reducible refine State.draw_kept ?_
    | with_reducible refine State.draw_kept_eq (by assumption) ?_
    | with_reducible refine State.wrRw_kept ?_
    | with_reducible refine State.clearCounters_kept ?_
    | with_reducible refine foldl_kept ?_ ?_
    | with_reducible refine foldl_kept_fst ?_ ?_
    | with_reducible refine foldl_kept_snd ?_ ?_
    | with_reducible refine kept_ite ?_ ?_
    | intro _
    | dsimp only
    | split

theorem execCxlHotRemove_kept {s0 s : State} (h : Kept s0 s) {src} : KeptO s0 (execCxlHotRemove src s) := by
  unfold execCxlHotRemove
  repeat' first
    | with_reducible assumption
    | with_reducible refine KeptO.next ?_
    | with_reducible refine State.hotRemove_kept ?_
    | with_reducible refine State.hotRemove_kept_eq (by assumption) ?_
    | with_reducible refine State.message_kept ?_ ?_
    | with_reducible refine State.heard_kept ?_ ?_
    | with_reducible refine State.cxlRemoveReg_kept ?_
    | with_reducible refine State.awake_kept ?_ ?_
    | with_reducible refine foldl_kept ?_ ?_
    | with_reducible refine foldl_kept_fst ?_ ?_
    | with_reducible refine foldl_kept_snd ?_ ?_
    | with_reducible refine kept_ite ?_ ?_
    | intro _
    | simp only [Kept.upd]
    | dsimp only
    | split

theorem execCxlHotAdd_kept {s0 s : State} (h : Kept s0 s) {src t} : KeptO s0 (execCxlHotAdd src t s) := by
  unfold execCxlHotAdd
  repeat' first
    | with_reducible assumption
    | with_reducible refine KeptO.next ?_
    | with_reducible refine State.refuse_kept ?_
    | with_reducible refine State.answer_kept ?_
    | with_reducible refine State.hotAdd_kept ?_
    | with_reducible refine State.hotAdd_kept_eq (by assumption) ?_
    | with_reducible refine State.message_kept ?_ ?_
    | with_reducible refine State.heard_kept ?_ ?_
    | with_reducible refine State.cxlAddReg_kept ?_
    | with_reducible refine State.awake_kept ?_ ?_
    | with_reducible refine foldl_kept ?_ ?_
    | with_reducible refine foldl_kept_fst ?_ ?_
    | with_reducible refine foldl_kept_snd ?_ ?_
    | with_reducible refine kept_ite ?_ ?_
    | intro _
    | dsimp only
    | split

theorem execCxlLinkDown_kept {s0 s : State} (h : Kept s0 s) {p} : KeptO s0 (execCxlLinkDown p s) := by
  unfold execCxlLinkDown
  repeat' first
    | with_reducible assumption
    | with_reducible refine KeptO.next ?_
    | with_reducible refine State.cxlLost_kept ?_
    | with_reducible refine State.serve_kept ?_
    | with_reducible refine State.awake_kept ?_ ?_
    | with_reducible refine foldl_kept ?_ ?_
    | with_reducible refine foldl_kept_fst ?_ ?_
    | with_reducible refine foldl_kept_snd ?_ ?_
    | with_reducible refine kept_ite ?_ ?_
    | intro _

end Sys2Proof.Machine
end

