-- ==== Sys2Proof/Laws/KeptLinks.lean ====
section
/-! SUPPORT. That Tideway, collectives and training keep what every command keeps (`Kept`): one lemma a definition. -/

namespace Sys2Proof.Machine

/-! ### Tideway -/

theorem State.setTwPort_kept {s0 s : State} (h : Kept s0 s) {p x} : Kept s0 (State.setTwPort s p x) := by
  unfold State.setTwPort
  repeat' first
    | with_reducible assumption
    | with_reducible refine foldl_kept ?_ ?_
    | with_reducible refine foldl_kept_fst ?_ ?_
    | with_reducible refine foldl_kept_snd ?_ ?_
    | with_reducible refine kept_ite ?_ ?_
    | intro _
    | simp only [Kept.upd]

theorem State.sendFrames_kept {s0 s : State} (h : Kept s0 s) {peer fs} : Kept s0 (State.sendFrames s peer fs) := by
  unfold State.sendFrames
  repeat' first
    | with_reducible assumption
    | with_reducible refine State.setTwPort_kept ?_
    | with_reducible refine foldl_kept ?_ ?_
    | with_reducible refine foldl_kept_fst ?_ ?_
    | with_reducible refine foldl_kept_snd ?_ ?_
    | with_reducible refine kept_ite ?_ ?_
    | intro _

theorem State.setTwState_kept {s0 s : State} (h : Kept s0 s) {p st} : Kept s0 (State.setTwState s p st) := by
  unfold State.setTwState
  repeat' first
    | with_reducible assumption
    | with_reducible refine State.setFld_kept ?_

theorem State.twDark_kept {s0 s : State} (h : Kept s0 s) {p} : Kept s0 (State.twDark s p) := by
  unfold State.twDark
  repeat' first
    | with_reducible assumption
    | with_reducible refine State.setTwState_kept ?_
    | with_reducible refine State.setTwPort_kept ?_
    | with_reducible refine State.event_kept ?_

theorem State.laserCounts_kept {s0 s : State} (h : Kept s0 s) : Kept s0 (State.laserCounts s) := by
  unfold State.laserCounts
  repeat' first
    | with_reducible assumption
    | with_reducible refine State.setFld_kept ?_
    | with_reducible refine foldl_kept ?_ ?_
    | with_reducible refine foldl_kept_fst ?_ ?_
    | with_reducible refine foldl_kept_snd ?_ ?_
    | with_reducible refine kept_ite ?_ ?_
    | intro _

theorem State.moveSource_kept {s0 s : State} (h : Kept s0 s) {m src} : Kept s0 (State.moveSource s m src) := by
  unfold State.moveSource
  repeat' first
    | with_reducible assumption
    | with_reducible refine State.setFld_kept ?_
    | with_reducible refine State.laserCounts_kept ?_
    | with_reducible refine foldl_kept ?_ ?_
    | with_reducible refine foldl_kept_fst ?_ ?_
    | with_reducible refine foldl_kept_snd ?_ ?_
    | with_reducible refine kept_ite ?_ ?_
    | intro _

theorem State.laserRestore_kept {s0 s : State} (h : Kept s0 s) {m} : Kept s0 (State.laserRestore s m) := by
  unfold State.laserRestore
  repeat' first
    | with_reducible assumption
    | with_reducible refine State.setFld_kept ?_
    | with_reducible refine State.moveSource_kept ?_
    | with_reducible refine foldl_kept ?_ ?_
    | with_reducible refine foldl_kept_fst ?_ ?_
    | with_reducible refine foldl_kept_snd ?_ ?_
    | with_reducible refine kept_ite ?_ ?_

theorem State.laserDrain_kept {s0 s : State} (h : Kept s0 s) {m} : Kept s0 (State.laserDrain s m) := by
  unfold State.laserDrain
  repeat' first
    | with_reducible assumption
    | with_reducible refine State.setFld_kept ?_
    | with_reducible refine State.ignore_kept ?_
    | with_reducible refine foldl_kept ?_ ?_
    | with_reducible refine foldl_kept_fst ?_ ?_
    | with_reducible refine foldl_kept_snd ?_ ?_
    | with_reducible refine kept_ite ?_ ?_

theorem State.twCtrlWrite_kept {s0 s : State} (h : Kept s0 s) {v} : Kept s0 (State.twCtrlWrite s v) := by
  unfold State.twCtrlWrite
  repeat' first
    | with_reducible assumption
    | with_reducible refine State.laserRestore_kept ?_
    | with_reducible refine State.laserDrain_kept ?_
    | with_reducible refine State.wrRw_kept ?_
    | with_reducible refine State.clearCounters_kept ?_
    | with_reducible refine State.ignore_kept ?_
    | with_reducible refine foldl_kept ?_ ?_
    | with_reducible refine foldl_kept_fst ?_ ?_
    | with_reducible refine foldl_kept_snd ?_ ?_
    | with_reducible refine kept_ite ?_ ?_
    | intro _
    | dsimp only
    | split

theorem State.sendToken_kept {s0 s : State} (h : Kept s0 s) {peer kind group gseq} : Kept s0 (State.sendToken s
    peer kind group gseq) := by
  unfold State.sendToken
  repeat' first
    | with_reducible assumption
    | with_reducible refine State.sentTo_kept ?_
    | with_reducible refine State.emit_kept ?_

theorem State.pumpPort_kept {s0 s : State} (h : Kept s0 s) {p x1} : Kept s0 (State.pumpPort s p x1) := by
  induction x1 generalizing s with
  | zero =>
    unfold State.pumpPort
    repeat' first
      | with_reducible assumption
  | succ n ih =>
    unfold State.pumpPort
    repeat' first
      | with_reducible assumption
      | with_reducible refine ih ?_
      | with_reducible refine State.emit_kept ?_
      | with_reducible refine State.bump_kept ?_
      | with_reducible refine State.setTwPort_kept ?_
      | with_reducible refine foldl_kept ?_ ?_
      | with_reducible refine foldl_kept_fst ?_ ?_
      | with_reducible refine foldl_kept_snd ?_ ?_
      | with_reducible refine kept_ite ?_ ?_
      | intro _
      | dsimp only
      | split

theorem State.pumpPorts_kept {s0 s : State} (h : Kept s0 s) : Kept s0 (State.pumpPorts s) := by
  unfold State.pumpPorts
  repeat' first
    | with_reducible assumption
    | with_reducible refine State.pumpSems_kept ?_
    | with_reducible refine State.pumpPort_kept ?_
    | with_reducible refine foldl_kept ?_ ?_
    | with_reducible refine foldl_kept_fst ?_ ?_
    | with_reducible refine foldl_kept_snd ?_ ?_
    | with_reducible refine kept_ite ?_ ?_
    | intro _

theorem State.faultRemote_kept {s0 s : State} (h : Kept s0 s) {p} : Kept s0 (State.faultRemote s p) := by
  unfold State.faultRemote
  repeat' first
    | with_reducible assumption
    | with_reducible refine State.faultSem_kept ?_
    | with_reducible refine State.bump_kept ?_
    | with_reducible refine foldl_kept ?_ ?_
    | with_reducible refine foldl_kept_fst ?_ ?_
    | with_reducible refine foldl_kept_snd ?_ ?_
    | with_reducible refine kept_ite ?_ ?_
    | intro _

theorem State.twCredit_kept {s0 s : State} (h : Kept s0 s) {p vc n} : Kept s0 (State.twCredit s p vc n) := by
  unfold State.twCredit
  repeat' first
    | with_reducible assumption
    | with_reducible refine State.setTwPort_kept ?_

theorem State.portsDark_kept {s0 s : State} (h : Kept s0 s) {m} : Kept s0 (State.portsDark s m) := by
  unfold State.portsDark
  repeat' first
    | with_reducible assumption
    | with_reducible refine State.twDark_kept ?_
    | with_reducible refine foldl_kept ?_ ?_
    | with_reducible refine foldl_kept_fst ?_ ?_
    | with_reducible refine foldl_kept_snd ?_ ?_
    | with_reducible refine kept_ite ?_ ?_
    | intro _

theorem State.laserFails_kept {s0 s : State} (h : Kept s0 s) {m removed} : Kept s0 (State.laserFails s m removed)
    := by
  unfold State.laserFails
  repeat' first
    | with_reducible assumption
    | with_reducible refine State.event_kept ?_
    | with_reducible refine State.portsDark_kept ?_
    | with_reducible refine State.moveSource_kept ?_
    | with_reducible refine State.laserCounts_kept ?_
    | with_reducible refine State.setFld_kept ?_
    | with_reducible refine State.wr_kept ?_
    | with_reducible refine foldl_kept ?_ ?_
    | with_reducible refine foldl_kept_fst ?_ ?_
    | with_reducible refine foldl_kept_snd ?_ ?_
    | with_reducible refine kept_ite ?_ ?_

theorem State.twDegraded_kept {s0 s : State} (h : Kept s0 s) {p} : Kept s0 (State.twDegraded s p) := by
  unfold State.twDegraded
  repeat' first
    | with_reducible assumption
    | with_reducible refine State.setTwState_kept ?_
    | with_reducible refine State.event_kept ?_
    | with_reducible refine foldl_kept ?_ ?_
    | with_reducible refine foldl_kept_fst ?_ ?_
    | with_reducible refine foldl_kept_snd ?_ ?_
    | with_reducible refine kept_ite ?_ ?_

theorem State.setLaneWl_kept {s0 s : State} (h : Kept s0 s) {p lane w} : Kept s0 (State.setLaneWl s p lane w) := by
  unfold State.setLaneWl
  repeat' first
    | with_reducible assumption
    | with_reducible refine State.setFld_kept ?_

theorem State.wavelengthFails_kept {s0 s : State} (h : Kept s0 s) {p w} : Kept s0 (State.wavelengthFails s p w) := by
  unfold State.wavelengthFails
  repeat' first
    | with_reducible assumption
    | with_reducible refine State.twDark_kept ?_
    | with_reducible refine State.bump_kept ?_
    | with_reducible refine State.event_kept ?_
    | with_reducible refine State.noted_kept ?_
    | with_reducible refine State.twDegraded_kept ?_
    | with_reducible refine State.setLaneWl_kept ?_
    | with_reducible refine State.draw_kept ?_
    | with_reducible refine State.draw_kept_eq (by assumption) ?_
    | with_reducible refine State.setFld_kept ?_
    | with_reducible refine foldl_kept ?_ ?_
    | with_reducible refine foldl_kept_fst ?_ ?_
    | with_reducible refine foldl_kept_snd ?_ ?_
    | with_reducible refine kept_ite ?_ ?_
    | intro _
    | dsimp only
    | split

theorem State.twAcked_kept {s0 s : State} (h : Kept s0 s) {p seq} : Kept s0 (State.twAcked s p seq) := by
  unfold State.twAcked
  repeat' first
    | with_reducible assumption
    | with_reducible refine State.noted_kept ?_
    | with_reducible refine State.setTwPort_kept ?_
    | with_reducible refine foldl_kept ?_ ?_
    | with_reducible refine foldl_kept_fst ?_ ?_
    | with_reducible refine foldl_kept_snd ?_ ?_
    | with_reducible refine kept_ite ?_ ?_

theorem State.twReplay_kept {s0 s : State} (h : Kept s0 s) {p} : Kept s0 (State.twReplay s p) := by
  unfold State.twReplay
  repeat' first
    | with_reducible assumption
    | with_reducible refine State.bump_kept ?_
    | with_reducible refine State.emit_kept ?_
    | with_reducible refine State.setTwPort_kept ?_
    | with_reducible refine foldl_kept ?_ ?_
    | with_reducible refine foldl_kept_fst ?_ ?_
    | with_reducible refine foldl_kept_snd ?_ ?_
    | with_reducible refine kept_ite ?_ ?_
    | intro _

theorem State.twRetrain_kept {s0 s : State} (h : Kept s0 s) {p} : Kept s0 (State.twRetrain s p) := by
  unfold State.twRetrain
  repeat' first
    | with_reducible assumption
    | with_reducible refine State.setTwState_kept ?_
    | with_reducible refine State.setTwPort_kept ?_

theorem State.twAgain_kept {s0 s : State} (h : Kept s0 s) {p} : Kept s0 (State.twAgain s p) := by
  unfold State.twAgain
  repeat' first
    | with_reducible assumption
    | with_reducible refine State.setTwPort_kept ?_
    | with_reducible refine State.twReplay_kept ?_
    | with_reducible refine State.twRetrain_kept ?_
    | with_reducible refine foldl_kept ?_ ?_
    | with_reducible refine foldl_kept_fst ?_ ?_
    | with_reducible refine foldl_kept_snd ?_ ?_
    | with_reducible refine kept_ite ?_ ?_

theorem State.twLinkUp_kept {s0 s : State} (h : Kept s0 s) {p id} : Kept s0 (State.twLinkUp s p id) := by
  unfold State.twLinkUp
  repeat' first
    | with_reducible assumption
    | with_reducible refine State.twReplay_kept ?_
    | with_reducible refine State.pumpPorts_kept ?_
    | with_reducible refine State.setTwPort_kept ?_
    | with_reducible refine State.setLaneWl_kept ?_
    | with_reducible refine State.setTwState_kept ?_
    | with_reducible refine State.event_kept ?_
    | with_reducible refine State.setFld_kept ?_
    | with_reducible refine foldl_kept ?_ ?_
    | with_reducible refine foldl_kept_fst ?_ ?_
    | with_reducible refine foldl_kept_snd ?_ ?_
    | with_reducible refine kept_ite ?_ ?_
    | intro _

theorem execLaserDrained_kept {s0 s : State} (h : Kept s0 s) {m} : KeptO s0 (execLaserDrained m s) := by
  unfold execLaserDrained
  repeat' first
    | with_reducible assumption
    | with_reducible refine KeptO.next ?_
    | with_reducible refine State.setFld_kept ?_
    | with_reducible refine State.moveSource_kept ?_
    | with_reducible refine State.event_kept ?_
    | with_reducible refine State.awake_kept ?_ ?_
    | with_reducible refine foldl_kept ?_ ?_
    | with_reducible refine foldl_kept_fst ?_ ?_
    | with_reducible refine foldl_kept_snd ?_ ?_
    | with_reducible refine kept_ite ?_ ?_
    | intro _

theorem execLaserInsert_kept {s0 s : State} (h : Kept s0 s) {m output temp} : KeptO s0 (execLaserInsert m output
    temp s) := by
  unfold execLaserInsert
  repeat' first
    | with_reducible assumption
    | with_reducible refine KeptO.next ?_
    | with_reducible refine State.wr_kept ?_
    | with_reducible refine State.laserCounts_kept ?_
    | with_reducible refine foldl_kept ?_ ?_
    | with_reducible refine foldl_kept_fst ?_ ?_
    | with_reducible refine foldl_kept_snd ?_ ?_
    | with_reducible refine kept_ite ?_ ?_

theorem execLaserFailure_kept {s0 s : State} (h : Kept s0 s) {m removed} : KeptO s0 (execLaserFailure m removed s)
    := by
  unfold execLaserFailure
  repeat' first
    | with_reducible assumption
    | with_reducible refine KeptO.next ?_
    | with_reducible refine State.laserFails_kept ?_

theorem execLaserRestore_kept {s0 s : State} (h : Kept s0 s) {m} : KeptO s0 (execLaserRestore m s) := by
  unfold execLaserRestore
  repeat' first
    | with_reducible assumption
    | with_reducible refine KeptO.next ?_
    | with_reducible refine State.laserRestore_kept ?_
    | with_reducible refine State.awake_kept ?_ ?_
    | with_reducible refine foldl_kept ?_ ?_
    | with_reducible refine foldl_kept_fst ?_ ?_
    | with_reducible refine foldl_kept_snd ?_ ?_
    | with_reducible refine kept_ite ?_ ?_
    | intro _

theorem execLaserDrain_kept {s0 s : State} (h : Kept s0 s) {m} : KeptO s0 (execLaserDrain m s) := by
  unfold execLaserDrain
  repeat' first
    | with_reducible assumption
    | with_reducible refine KeptO.next ?_
    | with_reducible refine State.laserDrain_kept ?_
    | with_reducible refine State.awake_kept ?_ ?_
    | with_reducible refine foldl_kept ?_ ?_
    | with_reducible refine foldl_kept_fst ?_ ?_
    | with_reducible refine foldl_kept_snd ?_ ?_
    | with_reducible refine kept_ite ?_ ?_
    | intro _

theorem execRecalibration_kept {s0 s : State} (h : Kept s0 s) {p w} : KeptO s0 (execRecalibration p w s) := by
  unfold execRecalibration
  repeat' first
    | with_reducible assumption
    | with_reducible refine KeptO.next ?_
    | with_reducible refine State.wr_kept ?_
    | with_reducible refine State.event_kept ?_
    | with_reducible refine State.awake_kept ?_ ?_
    | with_reducible refine foldl_kept ?_ ?_
    | with_reducible refine foldl_kept_fst ?_ ?_
    | with_reducible refine foldl_kept_snd ?_ ?_
    | with_reducible refine kept_ite ?_ ?_
    | intro _

theorem execTidewayLinkUp_kept {s0 s : State} (h : Kept s0 s) {p id} : KeptO s0 (execTidewayLinkUp p id s) := by
  unfold execTidewayLinkUp
  repeat' first
    | with_reducible assumption
    | with_reducible refine KeptO.next ?_
    | with_reducible refine State.twLinkUp_kept ?_
    | with_reducible refine State.awake_kept ?_ ?_
    | with_reducible refine foldl_kept ?_ ?_
    | with_reducible refine foldl_kept_fst ?_ ?_
    | with_reducible refine foldl_kept_snd ?_ ?_
    | with_reducible refine kept_ite ?_ ?_
    | intro _

theorem execWavelengthFail_kept {s0 s : State} (h : Kept s0 s) {p w} : KeptO s0 (execWavelengthFail p w s) := by
  unfold execWavelengthFail
  repeat' first
    | with_reducible assumption
    | with_reducible refine KeptO.next ?_
    | with_reducible refine State.wavelengthFails_kept ?_
    | with_reducible refine State.awake_kept ?_ ?_
    | with_reducible refine foldl_kept ?_ ?_
    | with_reducible refine foldl_kept_fst ?_ ?_
    | with_reducible refine foldl_kept_snd ?_ ?_
    | with_reducible refine kept_ite ?_ ?_
    | intro _

theorem execReplayTimeout_kept {s0 s : State} (h : Kept s0 s) {p} : KeptO s0 (execReplayTimeout p s) := by
  unfold execReplayTimeout
  repeat' first
    | with_reducible assumption
    | with_reducible refine KeptO.next ?_
    | with_reducible refine State.twAgain_kept ?_
    | with_reducible refine State.awake_kept ?_ ?_
    | with_reducible refine foldl_kept ?_ ?_
    | with_reducible refine foldl_kept_fst ?_ ?_
    | with_reducible refine foldl_kept_snd ?_ ?_
    | with_reducible refine kept_ite ?_ ?_
    | intro _

theorem execRemoteSemaphoreFrame_kept {s0 s : State} (h : Kept s0 s) {p op index amount} : KeptO s0
    (execRemoteSemaphoreFrame p op index amount s) := by
  unfold execRemoteSemaphoreFrame
  repeat' first
    | with_reducible assumption
    | with_reducible refine KeptO.next ?_
    | with_reducible refine State.settled_kept ?_
    | with_reducible refine State.semOp_kept ?_
    | with_reducible refine State.semOp_kept_eq (by assumption) ?_
    | with_reducible refine State.faultSem_kept ?_
    | with_reducible refine State.sentOn_kept ?_
    | with_reducible refine State.emit_kept ?_
    | with_reducible refine State.bump_kept ?_
    | with_reducible refine State.awake_kept ?_ ?_
    | with_reducible refine foldl_kept ?_ ?_
    | with_reducible refine foldl_kept_fst ?_ ?_
    | with_reducible refine foldl_kept_snd ?_ ?_
    | with_reducible refine kept_ite ?_ ?_
    | intro _
    | simp only [Kept.upd]
    | dsimp only
    | split

theorem execTimingExchange_kept {s0 s : State} (h : Kept s0 s) {p delay off} : KeptO s0 (execTimingExchange p delay
    off s) := by
  unfold execTimingExchange
  repeat' first
    | with_reducible assumption
    | with_reducible refine KeptO.next ?_
    | with_reducible refine State.disciplined_kept ?_
    | with_reducible refine State.wr_kept ?_
    | with_reducible refine State.sentOn_kept ?_
    | with_reducible refine State.bump_kept ?_
    | with_reducible refine State.awake_kept ?_ ?_
    | with_reducible refine foldl_kept ?_ ?_
    | with_reducible refine foldl_kept_fst ?_ ?_
    | with_reducible refine foldl_kept_snd ?_ ?_
    | with_reducible refine kept_ite ?_ ?_
    | intro _

/-! ### Collective -/

theorem State.sendRight_kept {s0 s : State} (h : Kept s0 s) {ring c final_ start bs codes wbits} : Kept s0
    (State.sendRight s ring c final_ start bs codes wbits) := by
  unfold State.sendRight
  repeat' first
    | with_reducible assumption
    | with_reducible refine State.sendFrames_kept ?_

theorem State.twWrite_kept {s0 s : State} (h : Kept s0 s) {cl a bs} : Kept s0 (State.twWrite s cl a bs) := by
  unfold State.twWrite
  repeat' first
    | with_reducible assumption
    | with_reducible refine State.engineWrite_kept ?_
    | with_reducible refine State.engineWrite_kept_eq (by assumption) ?_
    | with_reducible refine State.deliver_kept ?_
    | with_reducible refine foldl_kept ?_ ?_
    | with_reducible refine foldl_kept_fst ?_ ?_
    | with_reducible refine foldl_kept_snd ?_ ?_
    | with_reducible refine kept_ite ?_ ?_

theorem State.storeBlock_kept {s0 s : State} (h : Kept s0 s) {cl f base total first n bs} : Kept s0
    (State.storeBlock s cl f base total first n bs) := by
  unfold State.storeBlock
  repeat' first
    | with_reducible assumption
    | with_reducible refine State.twWrite_kept ?_
    | with_reducible refine foldl_kept ?_ ?_
    | with_reducible refine foldl_kept_fst ?_ ?_
    | with_reducible refine foldl_kept_snd ?_ ?_
    | with_reducible refine kept_ite ?_ ?_

theorem State.landResult_kept {s0 s : State} (h : Kept s0 s) {ring c k b bs} : Kept s0 (State.landResult s ring c k
    b bs) := by
  unfold State.landResult
  repeat' first
    | with_reducible assumption
    | with_reducible refine State.sendRight_kept ?_
    | with_reducible refine State.storeBlock_kept ?_
    | with_reducible refine foldl_kept ?_ ?_
    | with_reducible refine foldl_kept_fst ?_ ?_
    | with_reducible refine foldl_kept_snd ?_ ?_
    | with_reducible refine kept_ite ?_ ?_

theorem State.landChunk_kept {s0 s : State} (h : Kept s0 s) {ring c j xs} : Kept s0 (State.landChunk s ring c j xs)
    := by
  unfold State.landChunk
  repeat' first
    | with_reducible assumption
    | with_reducible refine State.landResult_kept ?_
    | with_reducible refine State.storeBlock_kept ?_
    | with_reducible refine foldl_kept ?_ ?_
    | with_reducible refine foldl_kept_fst ?_ ?_
    | with_reducible refine foldl_kept_snd ?_ ?_
    | with_reducible refine kept_ite ?_ ?_

theorem State.addChunk_kept {s0 s : State} (h : Kept s0 s) {ring c j} : Kept s0 (State.addChunk s ring c j) := by
  unfold State.addChunk
  repeat' first
    | with_reducible assumption
    | with_reducible refine State.sendRight_kept ?_
    | with_reducible refine State.landChunk_kept ?_
    | with_reducible refine foldl_kept ?_ ?_
    | with_reducible refine foldl_kept_fst ?_ ?_
    | with_reducible refine foldl_kept_snd ?_ ?_
    | with_reducible refine kept_ite ?_ ?_

theorem State.setColl_kept {s0 s : State} (h : Kept s0 s) {ring c} : Kept s0 (State.setColl s ring c) := by
  unfold State.setColl
  repeat' first
    | with_reducible assumption
    | with_reducible refine foldl_kept ?_ ?_
    | with_reducible refine foldl_kept_fst ?_ ?_
    | with_reducible refine foldl_kept_snd ?_ ?_
    | with_reducible refine kept_ite ?_ ?_
    | intro _
    | simp only [Kept.upd]

theorem State.collDid_kept {s0 s : State} (h : Kept s0 s) {ring key} : Kept s0 (State.collDid s ring key) := by
  unfold State.collDid
  repeat' first
    | with_reducible assumption
    | with_reducible refine State.setColl_kept ?_
    | with_reducible refine foldl_kept ?_ ?_
    | with_reducible refine foldl_kept_fst ?_ ?_
    | with_reducible refine foldl_kept_snd ?_ ?_
    | with_reducible refine kept_ite ?_ ?_
    | intro _
    | simp only [Kept.upd]
    | dsimp only
    | split

theorem State.addChunks_kept {s0 s : State} (h : Kept s0 s) {ring c} : Kept s0 (State.addChunks s ring c) := by
  unfold State.addChunks
  repeat' first
    | with_reducible assumption
    | with_reducible refine State.addChunk_kept ?_
    | with_reducible refine State.collDid_kept ?_
    | with_reducible refine foldl_kept ?_ ?_
    | with_reducible refine foldl_kept_fst ?_ ?_
    | with_reducible refine foldl_kept_snd ?_ ?_
    | with_reducible refine kept_ite ?_ ?_
    | intro _

theorem State.stage1_kept {s0 s : State} (h : Kept s0 s) {ring c f} : Kept s0 (State.stage1 s ring c f) := by
  unfold State.stage1
  repeat' first
    | with_reducible assumption
    | with_reducible refine State.storeFree_kept ?_
    | with_reducible refine State.twWrite_kept ?_
    | with_reducible refine State.setColl_kept ?_
    | with_reducible refine foldl_kept ?_ ?_
    | with_reducible refine foldl_kept_fst ?_ ?_
    | with_reducible refine foldl_kept_snd ?_ ?_
    | with_reducible refine kept_ite ?_ ?_

theorem State.applyFrame_kept {s0 s : State} (h : Kept s0 s) {ring f} : Kept s0 (State.applyFrame s ring f) := by
  unfold State.applyFrame
  repeat' first
    | with_reducible assumption
    | with_reducible refine State.sendFrames_kept ?_
    | with_reducible refine State.stage1_kept ?_
    | with_reducible refine State.setColl_kept ?_
    | with_reducible refine foldl_kept ?_ ?_
    | with_reducible refine foldl_kept_fst ?_ ?_
    | with_reducible refine foldl_kept_snd ?_ ?_
    | with_reducible refine kept_ite ?_ ?_
    | intro _
    | simp only [Kept.upd]
    | dsimp only
    | split

theorem State.twGroupWrite_kept {s0 s : State} (h : Kept s0 s) {g v} : Kept s0 (State.twGroupWrite s g v) := by
  unfold State.twGroupWrite
  repeat' first
    | with_reducible assumption
    | with_reducible refine State.wrRw_kept ?_
    | with_reducible refine State.ignore_kept ?_
    | with_reducible refine foldl_kept ?_ ?_
    | with_reducible refine foldl_kept_fst ?_ ?_
    | with_reducible refine foldl_kept_snd ?_ ?_
    | with_reducible refine kept_ite ?_ ?_

theorem State.twRingTailWrite_kept {s0 s : State} (h : Kept s0 s) {ring v} : Kept s0 (State.twRingTailWrite s ring
    v) := by
  unfold State.twRingTailWrite
  repeat' first
    | with_reducible assumption
    | with_reducible refine State.setFld_kept ?_
    | with_reducible refine State.event_kept ?_
    | with_reducible refine foldl_kept ?_ ?_
    | with_reducible refine foldl_kept_fst ?_ ?_
    | with_reducible refine foldl_kept_snd ?_ ?_
    | with_reducible refine kept_ite ?_ ?_

theorem State.twRingWrite_kept {s0 s : State} (h : Kept s0 s) {ring v} : Kept s0 (State.twRingWrite s ring v) := by
  unfold State.twRingWrite
  repeat' first
    | with_reducible assumption
    | with_reducible refine State.wrRw_kept ?_
    | with_reducible refine State.ignore_kept ?_
    | with_reducible refine foldl_kept ?_ ?_
    | with_reducible refine foldl_kept_fst ?_ ?_
    | with_reducible refine foldl_kept_snd ?_ ?_
    | with_reducible refine kept_ite ?_ ?_

theorem State.collEnd_kept {s0 s : State} (h : Kept s0 s) {ring c st} : Kept s0 (State.collEnd s ring c st) := by
  unfold State.collEnd
  repeat' first
    | with_reducible assumption
    | with_reducible refine State.bump_kept ?_
    | with_reducible refine State.ringRecord_kept ?_
    | with_reducible refine State.jobPost_kept ?_
    | with_reducible refine State.jobPost_kept_eq (by assumption) ?_
    | with_reducible refine State.goneCount_kept ?_
    | with_reducible refine State.ringError_kept ?_
    | with_reducible refine State.setFld_kept ?_
    | with_reducible refine State.scramble_kept ?_
    | with_reducible refine State.sendToken_kept ?_
    | with_reducible refine State.event_kept ?_
    | with_reducible refine State.setColl_kept ?_
    | with_reducible refine foldl_kept ?_ ?_
    | with_reducible refine foldl_kept_fst ?_ ?_
    | with_reducible refine foldl_kept_snd ?_ ?_
    | with_reducible refine kept_ite ?_ ?_
    | intro _
    | simp only [Kept.upd]

theorem State.collAborted_kept {s0 s : State} (h : Kept s0 s) {g gseq} : Kept s0 (State.collAborted s g gseq) := by
  unfold State.collAborted
  repeat' first
    | with_reducible assumption
    | with_reducible refine State.setColl_kept ?_
    | with_reducible refine foldl_kept ?_ ?_
    | with_reducible refine foldl_kept_fst ?_ ?_
    | with_reducible refine foldl_kept_snd ?_ ?_
    | with_reducible refine kept_ite ?_ ?_
    | intro _
    | simp only [Kept.upd]
    | dsimp only
    | split

theorem State.permuteCommit_kept {s0 s : State} (h : Kept s0 s) {ring c} : Kept s0 (State.permuteCommit s ring c)
    := by
  unfold State.permuteCommit
  repeat' first
    | with_reducible assumption
    | with_reducible refine State.bump_kept ?_
    | with_reducible refine State.setFld_kept ?_
    | with_reducible refine State.setColl_kept ?_
    | with_reducible refine State.twWrite_kept ?_
    | with_reducible refine foldl_kept ?_ ?_
    | with_reducible refine foldl_kept_fst ?_ ?_
    | with_reducible refine foldl_kept_snd ?_ ?_
    | with_reducible refine kept_ite ?_ ?_
    | intro _

theorem State.permuteMove_kept {s0 s : State} (h : Kept s0 s) {ring c} : Kept s0 (State.permuteMove s ring c) := by
  unfold State.permuteMove
  repeat' first
    | with_reducible assumption
    | with_reducible refine State.setColl_kept ?_
    | with_reducible refine State.sendToken_kept ?_
    | with_reducible refine State.permuteCommit_kept ?_
    | with_reducible refine foldl_kept ?_ ?_
    | with_reducible refine foldl_kept_fst ?_ ?_
    | with_reducible refine foldl_kept_snd ?_ ?_
    | with_reducible refine kept_ite ?_ ?_

theorem State.passResults_kept {s0 s : State} (h : Kept s0 s) {ring c} : Kept s0 (State.passResults s ring c) := by
  unfold State.passResults
  repeat' first
    | with_reducible assumption
    | with_reducible refine State.landResult_kept ?_
    | with_reducible refine State.collDid_kept ?_
    | with_reducible refine foldl_kept ?_ ?_
    | with_reducible refine foldl_kept_fst ?_ ?_
    | with_reducible refine foldl_kept_snd ?_ ?_
    | with_reducible refine kept_ite ?_ ?_
    | intro _

theorem State.collGo_kept {s0 s : State} (h : Kept s0 s) {ring} : Kept s0 (State.collGo s ring) := by
  unfold State.collGo
  repeat' first
    | with_reducible assumption
    | with_reducible refine State.permuteMove_kept ?_
    | with_reducible refine State.passResults_kept ?_
    | with_reducible refine State.addChunks_kept ?_
    | with_reducible refine foldl_kept ?_ ?_
    | with_reducible refine foldl_kept_fst ?_ ?_
    | with_reducible refine foldl_kept_snd ?_ ?_
    | with_reducible refine kept_ite ?_ ?_
    | intro _
    | dsimp only
    | split

theorem State.collsGo_kept {s0 s : State} (h : Kept s0 s) : Kept s0 (State.collsGo s) := by
  unfold State.collsGo
  repeat' first
    | with_reducible assumption
    | with_reducible refine State.collGo_kept ?_
    | with_reducible refine State.pumpPorts_kept ?_
    | with_reducible refine foldl_kept ?_ ?_
    | with_reducible refine foldl_kept_fst ?_ ?_
    | with_reducible refine foldl_kept_snd ?_ ?_
    | with_reducible refine kept_ite ?_ ?_
    | intro _

theorem State.multicastOut_kept {s0 s : State} (h : Kept s0 s) {ring c} : Kept s0 (State.multicastOut s ring c) := by
  unfold State.multicastOut
  repeat' first
    | with_reducible assumption
    | with_reducible refine State.sendFrames_kept ?_
    | with_reducible refine State.setColl_kept ?_
    | with_reducible refine foldl_kept ?_ ?_
    | with_reducible refine foldl_kept_fst ?_ ?_
    | with_reducible refine foldl_kept_snd ?_ ?_
    | with_reducible refine kept_ite ?_ ?_
    | intro _
    | simp only [Kept.upd]

theorem State.sendPieces_kept {s0 s : State} (h : Kept s0 s) {ring c} : Kept s0 (State.sendPieces s ring c) := by
  unfold State.sendPieces
  repeat' first
    | with_reducible assumption
    | with_reducible refine State.sendFrames_kept ?_
    | with_reducible refine State.stage1_kept ?_
    | with_reducible refine foldl_kept ?_ ?_
    | with_reducible refine foldl_kept_fst ?_ ?_
    | with_reducible refine foldl_kept_snd ?_ ?_
    | with_reducible refine kept_ite ?_ ?_
    | intro _
    | simp only [Kept.upd]
    | dsimp only
    | split

theorem State.collReads_kept {s0 s : State} (h : Kept s0 s) {ring c} : Kept s0 (State.collReads s ring c) := by
  unfold State.collReads
  repeat' first
    | with_reducible assumption
    | with_reducible refine State.reads_kept ?_
    | with_reducible refine foldl_kept ?_ ?_
    | with_reducible refine foldl_kept_fst ?_ ?_
    | with_reducible refine foldl_kept_snd ?_ ?_
    | with_reducible refine kept_ite ?_ ?_
    | intro _

theorem State.collBegin_kept {s0 s : State} (h : Kept s0 s) {ring c} : Kept s0 (State.collBegin s ring c) := by
  unfold State.collBegin
  repeat' first
    | with_reducible assumption
    | with_reducible refine State.collsGo_kept ?_
    | with_reducible refine State.twWrite_kept ?_
    | with_reducible refine State.multicastOut_kept ?_
    | with_reducible refine State.setFld_kept ?_
    | with_reducible refine State.permuteCommit_kept ?_
    | with_reducible refine State.sendPieces_kept ?_
    | with_reducible refine State.collReads_kept ?_
    | with_reducible refine State.setColl_kept ?_
    | with_reducible refine foldl_kept ?_ ?_
    | with_reducible refine foldl_kept_fst ?_ ?_
    | with_reducible refine foldl_kept_snd ?_ ?_
    | with_reducible refine kept_ite ?_ ?_
    | intro _
    | simp only [Kept.upd]
    | dsimp only
    | split

theorem State.collDeadline_kept {s0 s : State} (h : Kept s0 s) {ring} : Kept s0 (State.collDeadline s ring) := by
  unfold State.collDeadline
  repeat' first
    | with_reducible assumption
    | with_reducible refine State.setColl_kept ?_
    | with_reducible refine foldl_kept ?_ ?_
    | with_reducible refine foldl_kept_fst ?_ ?_
    | with_reducible refine foldl_kept_snd ?_ ?_
    | with_reducible refine kept_ite ?_ ?_
    | intro _
    | simp only [Kept.upd]
    | dsimp only
    | split

theorem State.releaseHeld_kept {s0 s : State} (h : Kept s0 s) {ring c} : Kept s0 (State.releaseHeld s ring c) := by
  unfold State.releaseHeld
  repeat' first
    | with_reducible assumption
    | with_reducible refine State.ackOn_kept ?_
    | with_reducible refine State.applyFrame_kept ?_
    | with_reducible refine foldl_kept ?_ ?_
    | with_reducible refine foldl_kept_fst ?_ ?_
    | with_reducible refine foldl_kept_snd ?_ ?_
    | with_reducible refine kept_ite ?_ ?_
    | intro _
    | simp only [Kept.upd]

theorem State.collTake_kept {s0 s : State} (h : Kept s0 s) {ring op resolve} : Kept s0 (State.collTake s ring op
    resolve) := by
  unfold State.collTake
  repeat' first
    | with_reducible assumption
    | with_reducible refine State.collBegin_kept ?_
    | with_reducible refine State.setColl_kept ?_
    | with_reducible refine State.releaseHeld_kept ?_
    | with_reducible refine State.reads_kept ?_
    | with_reducible refine foldl_kept ?_ ?_
    | with_reducible refine foldl_kept_fst ?_ ?_
    | with_reducible refine foldl_kept_snd ?_ ?_
    | with_reducible refine kept_ite ?_ ?_
    | intro _
    | simp only [Kept.upd]
    | dsimp only
    | split

theorem State.headerCredits_kept {s0 s : State} (h : Kept s0 s) {p w} : Kept s0 (State.headerCredits s p w) := by
  unfold State.headerCredits
  repeat' first
    | with_reducible assumption
    | with_reducible refine State.twCredit_kept ?_
    | with_reducible refine foldl_kept ?_ ?_
    | with_reducible refine foldl_kept_fst ?_ ?_
    | with_reducible refine foldl_kept_snd ?_ ?_
    | with_reducible refine kept_ite ?_ ?_
    | intro _

theorem State.linkLost_kept {s0 s : State} (h : Kept s0 s) {p} : Kept s0 (State.linkLost s p) := by
  unfold State.linkLost
  repeat' first
    | with_reducible assumption
    | with_reducible refine State.setColl_kept ?_
    | with_reducible refine foldl_kept ?_ ?_
    | with_reducible refine foldl_kept_fst ?_ ?_
    | with_reducible refine foldl_kept_snd ?_ ?_
    | with_reducible refine kept_ite ?_ ?_
    | intro _
    | dsimp only
    | split

theorem State.multicastIn_kept {s0 s : State} (h : Kept s0 s) {p f} : Kept s0 (State.multicastIn s p f) := by
  unfold State.multicastIn
  repeat' first
    | with_reducible assumption
    | with_reducible refine State.sentOn_kept ?_
    | with_reducible refine State.emit_kept ?_
    | with_reducible refine State.twWrite_kept ?_
    | with_reducible refine foldl_kept ?_ ?_
    | with_reducible refine foldl_kept_fst ?_ ?_
    | with_reducible refine foldl_kept_snd ?_ ?_
    | with_reducible refine kept_ite ?_ ?_

theorem State.permuteToken_kept {s0 s : State} (h : Kept s0 s) {ring c} : Kept s0 (State.permuteToken s ring c) := by
  unfold State.permuteToken
  repeat' first
    | with_reducible assumption
    | with_reducible refine State.permuteCommit_kept ?_
    | with_reducible refine State.sendToken_kept ?_
    | with_reducible refine foldl_kept ?_ ?_
    | with_reducible refine foldl_kept_fst ?_ ?_
    | with_reducible refine foldl_kept_snd ?_ ?_
    | with_reducible refine kept_ite ?_ ?_

theorem execCollectiveComplete_kept {s0 s : State} (h : Kept s0 s) {ring e} : KeptO s0 (execCollectiveComplete ring
    e s) := by
  unfold execCollectiveComplete
  repeat' first
    | with_reducible assumption
    | with_reducible refine KeptO.next ?_
    | with_reducible refine State.collEnd_kept ?_
    | with_reducible refine State.awake_kept ?_ ?_
    | with_reducible refine foldl_kept ?_ ?_
    | with_reducible refine foldl_kept_fst ?_ ?_
    | with_reducible refine foldl_kept_snd ?_ ?_
    | with_reducible refine kept_ite ?_ ?_
    | intro _
    | simp only [Kept.upd]
    | dsimp only
    | split

theorem execCollectiveStart_kept {s0 s : State} (h : Kept s0 s) {ring} : KeptO s0 (execCollectiveStart ring s) := by
  unfold execCollectiveStart
  repeat' first
    | with_reducible assumption
    | with_reducible refine KeptO.next ?_
    | with_reducible refine State.collBegin_kept ?_
    | with_reducible refine State.setColl_kept ?_
    | with_reducible refine State.awake_kept ?_ ?_
    | with_reducible refine foldl_kept ?_ ?_
    | with_reducible refine foldl_kept_fst ?_ ?_
    | with_reducible refine foldl_kept_snd ?_ ?_
    | with_reducible refine kept_ite ?_ ?_
    | intro _
    | dsimp only
    | split

theorem execPermuteResolveDiscard_kept {s0 s : State} (h : Kept s0 s) {ring} : KeptO s0 (execPermuteResolveDiscard
    ring s) := by
  unfold execPermuteResolveDiscard
  repeat' first
    | with_reducible assumption
    | with_reducible refine KeptO.next ?_
    | with_reducible refine State.collTake_kept ?_
    | with_reducible refine State.awake_kept ?_ ?_
    | with_reducible refine foldl_kept ?_ ?_
    | with_reducible refine foldl_kept_fst ?_ ?_
    | with_reducible refine foldl_kept_snd ?_ ?_
    | with_reducible refine kept_ite ?_ ?_
    | intro _

theorem execPermuteResolveCommit_kept {s0 s : State} (h : Kept s0 s) {ring} : KeptO s0 (execPermuteResolveCommit
    ring s) := by
  unfold execPermuteResolveCommit
  repeat' first
    | with_reducible assumption
    | with_reducible refine KeptO.next ?_
    | with_reducible refine State.collTake_kept ?_
    | with_reducible refine State.awake_kept ?_ ?_
    | with_reducible refine foldl_kept ?_ ?_
    | with_reducible refine foldl_kept_fst ?_ ?_
    | with_reducible refine foldl_kept_snd ?_ ?_
    | with_reducible refine kept_ite ?_ ?_
    | intro _

theorem execPermute_kept {s0 s : State} (h : Kept s0 s) {ring} : KeptO s0 (execPermute ring s) := by
  unfold execPermute
  repeat' first
    | with_reducible assumption
    | with_reducible refine KeptO.next ?_
    | with_reducible refine State.collTake_kept ?_
    | with_reducible refine State.awake_kept ?_ ?_
    | with_reducible refine foldl_kept ?_ ?_
    | with_reducible refine foldl_kept_fst ?_ ?_
    | with_reducible refine foldl_kept_snd ?_ ?_
    | with_reducible refine kept_ite ?_ ?_
    | intro _

theorem execMulticast_kept {s0 s : State} (h : Kept s0 s) {ring} : KeptO s0 (execMulticast ring s) := by
  unfold execMulticast
  repeat' first
    | with_reducible assumption
    | with_reducible refine KeptO.next ?_
    | with_reducible refine State.collTake_kept ?_
    | with_reducible refine State.awake_kept ?_ ?_
    | with_reducible refine foldl_kept ?_ ?_
    | with_reducible refine foldl_kept_fst ?_ ?_
    | with_reducible refine foldl_kept_snd ?_ ?_
    | with_reducible refine kept_ite ?_ ?_
    | intro _

theorem execBroadcast_kept {s0 s : State} (h : Kept s0 s) {ring} : KeptO s0 (execBroadcast ring s) := by
  unfold execBroadcast
  repeat' first
    | with_reducible assumption
    | with_reducible refine KeptO.next ?_
    | with_reducible refine State.collTake_kept ?_
    | with_reducible refine State.awake_kept ?_ ?_
    | with_reducible refine foldl_kept ?_ ?_
    | with_reducible refine foldl_kept_fst ?_ ?_
    | with_reducible refine foldl_kept_snd ?_ ?_
    | with_reducible refine kept_ite ?_ ?_
    | intro _

theorem execAllGather_kept {s0 s : State} (h : Kept s0 s) {ring} : KeptO s0 (execAllGather ring s) := by
  unfold execAllGather
  repeat' first
    | with_reducible assumption
    | with_reducible refine KeptO.next ?_
    | with_reducible refine State.collTake_kept ?_
    | with_reducible refine State.awake_kept ?_ ?_
    | with_reducible refine foldl_kept ?_ ?_
    | with_reducible refine foldl_kept_fst ?_ ?_
    | with_reducible refine foldl_kept_snd ?_ ?_
    | with_reducible refine kept_ite ?_ ?_
    | intro _

theorem execReduceScatter_kept {s0 s : State} (h : Kept s0 s) {ring} : KeptO s0 (execReduceScatter ring s) := by
  unfold execReduceScatter
  repeat' first
    | with_reducible assumption
    | with_reducible refine KeptO.next ?_
    | with_reducible refine State.collTake_kept ?_
    | with_reducible refine State.awake_kept ?_ ?_
    | with_reducible refine foldl_kept ?_ ?_
    | with_reducible refine foldl_kept_fst ?_ ?_
    | with_reducible refine foldl_kept_snd ?_ ?_
    | with_reducible refine kept_ite ?_ ?_
    | intro _

theorem execAllReduce_kept {s0 s : State} (h : Kept s0 s) {ring} : KeptO s0 (execAllReduce ring s) := by
  unfold execAllReduce
  repeat' first
    | with_reducible assumption
    | with_reducible refine KeptO.next ?_
    | with_reducible refine State.collTake_kept ?_
    | with_reducible refine State.awake_kept ?_ ?_
    | with_reducible refine foldl_kept ?_ ?_
    | with_reducible refine foldl_kept_fst ?_ ?_
    | with_reducible refine foldl_kept_snd ?_ ?_
    | with_reducible refine kept_ite ?_ ?_
    | intro _

theorem execTwRingTailWrite_kept {s0 s : State} (h : Kept s0 s) {ring v} : KeptO s0 (execTwRingTailWrite ring v s)
    := by
  unfold execTwRingTailWrite
  repeat' first
    | with_reducible assumption
    | with_reducible refine KeptO.next ?_
    | with_reducible refine State.twRingTailWrite_kept ?_
    | with_reducible refine State.awake_kept ?_ ?_
    | with_reducible refine foldl_kept ?_ ?_
    | with_reducible refine foldl_kept_fst ?_ ?_
    | with_reducible refine foldl_kept_snd ?_ ?_
    | with_reducible refine kept_ite ?_ ?_
    | intro _

theorem execLinkTimeout_kept {s0 s : State} (h : Kept s0 s) {p} : KeptO s0 (execLinkTimeout p s) := by
  unfold execLinkTimeout
  repeat' first
    | with_reducible assumption
    | with_reducible refine KeptO.next ?_
    | with_reducible refine State.linkLost_kept ?_
    | with_reducible refine State.faultRemote_kept ?_
    | with_reducible refine State.collsGo_kept ?_
    | with_reducible refine State.event_kept ?_
    | with_reducible refine State.setTwState_kept ?_
    | with_reducible refine State.setTwPort_kept ?_
    | with_reducible refine State.awake_kept ?_ ?_
    | with_reducible refine foldl_kept ?_ ?_
    | with_reducible refine foldl_kept_fst ?_ ?_
    | with_reducible refine foldl_kept_snd ?_ ?_
    | with_reducible refine kept_ite ?_ ?_
    | intro _
    | simp only [Kept.upd]
    | dsimp only
    | split

theorem execTidewayControlFrame_kept {s0 s : State} (h : Kept s0 s) {p k} : KeptO s0 (execTidewayControlFrame p k
    s) := by
  unfold execTidewayControlFrame
  repeat' first
    | with_reducible assumption
    | with_reducible refine KeptO.next ?_
    | with_reducible refine State.permuteToken_kept ?_
    | with_reducible refine State.setColl_kept ?_
    | with_reducible refine State.collAborted_kept ?_
    | with_reducible refine State.twCredit_kept ?_
    | with_reducible refine State.twAgain_kept ?_
    | with_reducible refine State.twAcked_kept ?_
    | with_reducible refine State.semsAcked_kept ?_
    | with_reducible refine State.collsGo_kept ?_
    | with_reducible refine State.bump_kept ?_
    | with_reducible refine State.awake_kept ?_ ?_
    | with_reducible refine foldl_kept ?_ ?_
    | with_reducible refine foldl_kept_fst ?_ ?_
    | with_reducible refine foldl_kept_snd ?_ ?_
    | with_reducible refine kept_ite ?_ ?_
    | intro _
    | dsimp only
    | split

theorem execTidewayDataFrame_kept {s0 s : State} (h : Kept s0 s) {p f crcOk} : KeptO s0 (execTidewayDataFrame p f
    crcOk s) := by
  unfold execTidewayDataFrame
  repeat' first
    | with_reducible assumption
    | with_reducible refine KeptO.next ?_
    | with_reducible refine State.applyFrame_kept ?_
    | with_reducible refine State.multicastIn_kept ?_
    | with_reducible refine State.settled_kept ?_
    | with_reducible refine State.collsGo_kept ?_
    | with_reducible refine State.twAcked_kept ?_
    | with_reducible refine State.headerCredits_kept ?_
    | with_reducible refine State.setTwPort_kept ?_
    | with_reducible refine State.bumpFree_kept ?_
    | with_reducible refine State.bump_kept ?_
    | with_reducible refine State.ackOn_kept ?_
    | with_reducible refine State.awake_kept ?_ ?_
    | with_reducible refine foldl_kept ?_ ?_
    | with_reducible refine foldl_kept_fst ?_ ?_
    | with_reducible refine foldl_kept_snd ?_ ?_
    | with_reducible refine kept_ite ?_ ?_
    | intro _
    | simp only [Kept.upd]
    | dsimp only
    | split

/-! ### Backward -/

theorem State.passOn_kept {s0 s : State} (h : Kept s0 s) {peer fmt count bs} : Kept s0 (State.passOn s peer fmt
    count bs) := by
  unfold State.passOn
  repeat' first
    | with_reducible assumption
    | with_reducible refine State.sendFrames_kept ?_
    | with_reducible refine State.bump_kept ?_
    | with_reducible refine State.draw_kept ?_
    | with_reducible refine State.draw_kept_eq (by assumption) ?_
    | with_reducible refine foldl_kept ?_ ?_
    | with_reducible refine foldl_kept_fst ?_ ?_
    | with_reducible refine foldl_kept_snd ?_ ?_
    | with_reducible refine kept_ite ?_ ?_
    | intro _
    | simp only [Kept.upd]

theorem PipeStage.run_kept {s0 : State} {p : StageRun × State} (h : Kept s0 p.2) {g inp op} :
    Kept s0 (PipeStage.run g inp p op).2 := by
  unfold PipeStage.run
  repeat' first
    | with_reducible assumption
    | with_reducible refine State.passOn_kept ?_
    | dsimp only
    | split

theorem State.dataCollectives_kept {s0 s : State} (h : Kept s0 s) {k layers} : Kept s0 (State.dataCollectives s k
    layers) := by
  unfold State.dataCollectives
  repeat' first
    | with_reducible assumption
    | with_reducible refine State.bump_kept ?_
    | with_reducible refine foldl_kept ?_ ?_
    | with_reducible refine foldl_kept_fst ?_ ?_
    | with_reducible refine foldl_kept_snd ?_ ?_
    | with_reducible refine kept_ite ?_ ?_
    | intro _
    | simp only [Kept.upd]

/-! ### Train -/

theorem State.onUpdate_kept {s0 s : State} (h : Kept s0 s) {f} (hf : ∀ y0 y1, Kept s0 y0 → Kept s0 (f y0 y1)) :
    Kept s0 (State.onUpdate s f) := by
  unfold State.onUpdate
  repeat' first
    | with_reducible assumption
    | with_reducible refine hf _ _ ?_

theorem State.setJob_kept {s0 s : State} (h : Kept s0 s) {j x} : Kept s0 (State.setJob s j x) := by
  unfold State.setJob
  repeat' first
    | with_reducible assumption
    | with_reducible refine foldl_kept ?_ ?_
    | with_reducible refine foldl_kept_fst ?_ ?_
    | with_reducible refine foldl_kept_snd ?_ ?_
    | with_reducible refine kept_ite ?_ ?_
    | intro _
    | simp only [Kept.upd]

theorem State.trainFails_kept {s0 s : State} (h : Kept s0 s) {j x t st e grad} : Kept s0 (State.trainFails s j x t
    st e grad) := by
  unfold State.trainFails
  repeat' first
    | with_reducible assumption
    | with_reducible refine State.refuse_kept ?_
    | with_reducible refine State.answer_kept ?_
    | with_reducible refine State.event_kept ?_
    | with_reducible refine State.onUpdate_kept ?_ ?_
    | with_reducible refine State.setJob_kept ?_
    | with_reducible refine foldl_kept ?_ ?_
    | with_reducible refine foldl_kept_fst ?_ ?_
    | with_reducible refine foldl_kept_snd ?_ ?_
    | with_reducible refine kept_ite ?_ ?_
    | intro _
    | simp only [Kept.upd]

theorem State.fillTensors_kept {s0 s : State} (h : Kept s0 s) {x old} : Kept s0 (State.fillTensors s x old).2 := by
  unfold State.fillTensors
  repeat' first
    | with_reducible assumption
    | with_reducible refine foldl_kept ?_ ?_
    | with_reducible refine foldl_kept_fst ?_ ?_
    | with_reducible refine foldl_kept_snd ?_ ?_
    | with_reducible refine kept_ite ?_ ?_
    | with_reducible refine kept_ite_snd ?_ ?_
    | intro _
    | simp only [Kept.upd]

theorem State.fillTensors_kept_eq {s0 s t9 : State} {x old} {y9} (e : State.fillTensors s x old = (y9, t9)) (h :
    Kept s0 s) : Kept s0 t9 := by
  have := State.fillTensors_kept h (x := x) (old := old)
  rw [e] at this
  exact this

theorem State.openJob_kept {s0 s : State} (h : Kept s0 s) {k r} : Kept s0 (State.openJob k r s) := by
  unfold State.openJob
  repeat' first
    | with_reducible assumption
    | with_reducible refine State.setJob_kept ?_
    | with_reducible refine State.answer_kept ?_
    | with_reducible refine State.fillTensors_kept ?_
    | with_reducible refine State.fillTensors_kept_eq (by assumption) ?_
    | with_reducible refine State.refuse_kept ?_
    | with_reducible refine State.pick_kept ?_
    | with_reducible refine State.pick_kept_eq (by assumption) ?_
    | with_reducible refine foldl_kept ?_ ?_
    | with_reducible refine foldl_kept_fst ?_ ?_
    | with_reducible refine foldl_kept_snd ?_ ?_
    | with_reducible refine kept_ite ?_ ?_
    | intro _
    | dsimp only
    | split

theorem State.permuteNumbered_kept {s0 s : State} (h : Kept s0 s) {g} : Kept s0 (State.permuteNumbered s g) := by
  unfold State.permuteNumbered
  repeat' first
    | with_reducible assumption
    | with_reducible refine State.bump_kept ?_
    | with_reducible refine foldl_kept ?_ ?_
    | with_reducible refine foldl_kept_fst ?_ ?_
    | with_reducible refine foldl_kept_snd ?_ ?_
    | with_reducible refine kept_ite ?_ ?_
    | intro _
    | simp only [Kept.upd]

theorem execCloseJob_kept {s0 s : State} (h : Kept s0 s) {qp m} : KeptO s0 (execCloseJob qp m s) := by
  unfold execCloseJob
  repeat' first
    | with_reducible assumption
    | with_reducible refine KeptO.next ?_
    | with_reducible refine State.setJob_kept ?_
    | with_reducible refine State.answer_kept ?_
    | with_reducible refine State.message_kept ?_ ?_
    | with_reducible refine State.heard_kept ?_ ?_
    | with_reducible refine State.awake_kept ?_ ?_
    | with_reducible refine foldl_kept ?_ ?_
    | with_reducible refine foldl_kept_fst ?_ ?_
    | with_reducible refine foldl_kept_snd ?_ ?_
    | with_reducible refine kept_ite ?_ ?_
    | intro _

theorem State.stepBegins_kept {s0 s : State} (h : Kept s0 s) {k r} : Kept s0 (State.stepBegins k r s) := by
  unfold State.stepBegins
  repeat' first
    | with_reducible assumption
    | with_reducible refine State.setJob_kept ?_
    | with_reducible refine State.refuse_kept ?_
    | with_reducible refine foldl_kept ?_ ?_
    | with_reducible refine foldl_kept_fst ?_ ?_
    | with_reducible refine foldl_kept_snd ?_ ?_
    | with_reducible refine kept_ite ?_ ?_
    | intro _
    | dsimp only
    | split

theorem State.remapped_kept {s0 s : State} (h : Kept s0 s) {j x c gen} : Kept s0 (State.remapped s j x c gen).2 := by
  unfold State.remapped
  repeat' first
    | with_reducible assumption
    | with_reducible refine State.setJob_kept ?_
    | with_reducible refine State.fillTensors_kept ?_
    | with_reducible refine State.fillTensors_kept_eq (by assumption) ?_
    | with_reducible refine State.setFld_kept ?_
    | with_reducible refine State.bump_kept ?_
    | with_reducible refine foldl_kept ?_ ?_
    | with_reducible refine foldl_kept_fst ?_ ?_
    | with_reducible refine foldl_kept_snd ?_ ?_
    | with_reducible refine kept_ite ?_ ?_
    | with_reducible refine kept_ite_snd ?_ ?_
    | intro _
    | simp only [Kept.upd]

theorem State.remapped_kept_eq {s0 s t9 : State} {j x c gen} {y9} (e : State.remapped s j x c gen = (y9, t9)) (h :
    Kept s0 s) : Kept s0 t9 := by
  have := State.remapped_kept h (j := j) (x := x) (c := c) (gen := gen)
  rw [e] at this
  exact this

theorem State.resolveDoubt_kept {s0 s : State} (h : Kept s0 s) {j} : Kept s0 (State.resolveDoubt s j) := by
  unfold State.resolveDoubt
  repeat' first
    | with_reducible assumption
    | with_reducible refine State.setJob_kept ?_
    | with_reducible refine State.remapped_kept ?_
    | with_reducible refine State.remapped_kept_eq (by assumption) ?_
    | with_reducible refine State.setFld_kept ?_
    | with_reducible refine State.bump_kept ?_
    | with_reducible refine State.draw_kept ?_
    | with_reducible refine State.draw_kept_eq (by assumption) ?_
    | with_reducible refine foldl_kept ?_ ?_
    | with_reducible refine foldl_kept_fst ?_ ?_
    | with_reducible refine foldl_kept_snd ?_ ?_
    | with_reducible refine kept_ite ?_ ?_
    | intro _
    | dsimp only
    | split

theorem execUpdateOnly_kept {s0 s : State} (h : Kept s0 s) {qp m} : KeptO s0 (execUpdateOnly qp m s) := by
  unfold execUpdateOnly
  repeat' first
    | with_reducible assumption
    | with_reducible refine KeptO.next ?_
    | with_reducible refine State.stepBegins_kept ?_
    | with_reducible refine State.resolveDoubt_kept ?_
    | with_reducible refine State.message_kept ?_ ?_
    | with_reducible refine State.heard_kept ?_ ?_
    | with_reducible refine State.awake_kept ?_ ?_
    | with_reducible refine foldl_kept ?_ ?_
    | with_reducible refine foldl_kept_fst ?_ ?_
    | with_reducible refine foldl_kept_snd ?_ ?_
    | with_reducible refine kept_ite ?_ ?_
    | intro _

theorem execRemap_kept {s0 s : State} (h : Kept s0 s) {qp m} : KeptO s0 (execRemap qp m s) := by
  unfold execRemap
  repeat' first
    | with_reducible assumption
    | with_reducible refine KeptO.next ?_
    | with_reducible refine State.stepBegins_kept ?_
    | with_reducible refine State.resolveDoubt_kept ?_
    | with_reducible refine State.message_kept ?_ ?_
    | with_reducible refine State.heard_kept ?_ ?_
    | with_reducible refine State.awake_kept ?_ ?_
    | with_reducible refine foldl_kept ?_ ?_
    | with_reducible refine foldl_kept_fst ?_ ?_
    | with_reducible refine foldl_kept_snd ?_ ?_
    | with_reducible refine kept_ite ?_ ?_
    | intro _

theorem execTrainStep_kept {s0 s : State} (h : Kept s0 s) {qp m} : KeptO s0 (execTrainStep qp m s) := by
  unfold execTrainStep
  repeat' first
    | with_reducible assumption
    | with_reducible refine KeptO.next ?_
    | with_reducible refine State.stepBegins_kept ?_
    | with_reducible refine State.resolveDoubt_kept ?_
    | with_reducible refine State.message_kept ?_ ?_
    | with_reducible refine State.heard_kept ?_ ?_
    | with_reducible refine State.awake_kept ?_ ?_
    | with_reducible refine foldl_kept ?_ ?_
    | with_reducible refine foldl_kept_fst ?_ ?_
    | with_reducible refine foldl_kept_snd ?_ ?_
    | with_reducible refine kept_ite ?_ ?_
    | intro _

theorem execOpenJob_kept {s0 s : State} (h : Kept s0 s) {qp m} : KeptO s0 (execOpenJob qp m s) := by
  unfold execOpenJob
  repeat' first
    | with_reducible assumption
    | with_reducible refine KeptO.next ?_
    | with_reducible refine State.openJob_kept ?_
    | with_reducible refine State.message_kept ?_ ?_
    | with_reducible refine State.heard_kept ?_ ?_
    | with_reducible refine State.awake_kept ?_ ?_
    | with_reducible refine foldl_kept ?_ ?_
    | with_reducible refine foldl_kept_fst ?_ ?_
    | with_reducible refine foldl_kept_snd ?_ ?_
    | with_reducible refine kept_ite ?_ ?_
    | intro _

theorem State.runMicro_kept {s0 s : State} (h : Kept s0 s) {x t r upTo} : Kept s0 (State.runMicro s x t r upTo).2
    := by
  unfold State.runMicro
  exact foldl_kept_snd (fun b t x k => PipeStage.run_kept k) (Kept.upd.2 h)

theorem State.runMicro_kept_eq {s0 s t9 : State} {x t r upTo} {y9} (e : State.runMicro s x t r upTo = (y9, t9)) (h
    : Kept s0 s) : Kept s0 t9 := by
  have := State.runMicro_kept h (x := x) (t := t) (r := r) (upTo := upTo)
  rw [e] at this
  exact this

theorem State.swapWeights_kept {s0 s : State} (h : Kept s0 s) {x ts} : Kept s0 (State.swapWeights s x ts) := by
  unfold State.swapWeights
  repeat' first
    | with_reducible assumption
    | with_reducible refine State.setModel_kept ?_
    | with_reducible refine State.writeHomes_kept ?_
    | with_reducible refine foldl_kept ?_ ?_
    | with_reducible refine foldl_kept_fst ?_ ?_
    | with_reducible refine foldl_kept_snd ?_ ?_
    | with_reducible refine kept_ite ?_ ?_
    | intro _
    | dsimp only
    | split

theorem State.updateBump_kept {s0 s : State} (h : Kept s0 s) {c n} : Kept s0 (State.updateBump s c n) := by
  unfold State.updateBump
  repeat' first
    | with_reducible assumption
    | with_reducible refine State.bump_kept ?_
    | with_reducible refine State.draw_kept ?_

theorem State.trainCommits_kept {s0 s : State} (h : Kept s0 s) {j x t r e g grad q own} : Kept s0
    (State.trainCommits s j x t r e g grad q own) := by
  unfold State.trainCommits
  repeat' first
    | with_reducible assumption
    | with_reducible refine State.answer_kept ?_
    | with_reducible refine State.wr_kept ?_
    | with_reducible refine State.setFld_kept ?_
    | with_reducible refine State.bumpFree_kept ?_
    | with_reducible refine State.bump_kept ?_
    | with_reducible refine State.event_kept ?_
    | with_reducible refine State.onUpdate_kept ?_ ?_
    | with_reducible refine State.swapWeights_kept ?_
    | with_reducible refine State.updateBump_kept ?_
    | with_reducible refine State.setJob_kept ?_
    | with_reducible refine foldl_kept ?_ ?_
    | with_reducible refine foldl_kept_fst ?_ ?_
    | with_reducible refine foldl_kept_snd ?_ ?_
    | with_reducible refine kept_ite ?_ ?_
    | intro _
    | simp only [Kept.upd]

theorem execUpdateCommit_kept {s0 s : State} (h : Kept s0 s) {j e} : KeptO s0 (execUpdateCommit j e s) := by
  unfold execUpdateCommit
  repeat' first
    | with_reducible assumption
    | with_reducible refine KeptO.next ?_
    | with_reducible refine State.trainFails_kept ?_
    | with_reducible refine State.trainCommits_kept ?_
    | with_reducible refine State.setFld_kept ?_
    | with_reducible refine State.event_kept ?_
    | with_reducible refine State.dataCollectives_kept ?_
    | with_reducible refine State.runMicro_kept ?_
    | with_reducible refine State.runMicro_kept_eq (by assumption) ?_
    | with_reducible refine State.remapped_kept ?_
    | with_reducible refine State.remapped_kept_eq (by assumption) ?_
    | with_reducible refine State.permuteNumbered_kept ?_
    | with_reducible refine State.awake_kept ?_ ?_
    | with_reducible refine foldl_kept ?_ ?_
    | with_reducible refine foldl_kept_fst ?_ ?_
    | with_reducible refine foldl_kept_snd ?_ ?_
    | with_reducible refine kept_ite ?_ ?_
    | intro _
    | simp only [Kept.upd]
    | dsimp only
    | split

end Sys2Proof.Machine
end

