-- ==== Sys2Proof/Laws/KeptModule.lean ====
section
/-! SUPPORT. That live service, power, boot, self-test and registers keep what every command keeps (`Kept`): one lemma a definition. -/

namespace Sys2Proof.Machine

/-! ### Live -/

theorem State.sliceBits_kept {s0 s : State} (h : Kept s0 s) : Kept s0 (State.sliceBits s) := by
  unfold State.sliceBits
  repeat' first
    | with_reducible assumption
    | with_reducible refine State.setFld_kept ?_

theorem State.sliceOver_kept {s0 s : State} (h : Kept s0 s) {p} : Kept s0 (State.sliceOver s p) := by
  unfold State.sliceOver
  repeat' first
    | with_reducible assumption
    | with_reducible refine State.bump_kept ?_
    | with_reducible refine State.sliceBits_kept ?_
    | with_reducible refine foldl_kept ?_ ?_
    | with_reducible refine foldl_kept_fst ?_ ?_
    | with_reducible refine foldl_kept_snd ?_ ?_
    | with_reducible refine kept_ite ?_ ?_
    | intro _
    | simp only [Kept.upd]
    | dsimp only
    | split

theorem State.sliceAborts_kept {s0 s : State} (h : Kept s0 s) {p} : Kept s0 (State.sliceAborts s p) := by
  unfold State.sliceAborts
  repeat' first
    | with_reducible assumption
    | with_reducible refine State.sliceOver_kept ?_
    | with_reducible refine State.bump_kept ?_
    | with_reducible refine foldl_kept ?_ ?_
    | with_reducible refine foldl_kept_fst ?_ ?_
    | with_reducible refine foldl_kept_snd ?_ ?_
    | with_reducible refine kept_ite ?_ ?_
    | intro _
    | simp only [Kept.upd]

theorem State.setLive_kept {s0 s : State} (h : Kept s0 s) {p l} : Kept s0 (State.setLive s p l) := by
  unfold State.setLive
  repeat' first
    | with_reducible assumption
    | with_reducible refine foldl_kept ?_ ?_
    | with_reducible refine foldl_kept_fst ?_ ?_
    | with_reducible refine foldl_kept_snd ?_ ?_
    | with_reducible refine kept_ite ?_ ?_
    | intro _
    | simp only [Kept.upd]

theorem State.wcDrain_kept {s0 s : State} (h : Kept s0 s) {k} : Kept s0 (State.wcDrain s k) := by
  unfold State.wcDrain
  repeat' first
    | with_reducible assumption
    | with_reducible refine State.setWc_kept ?_
    | with_reducible refine State.wcFlushed_kept ?_
    | with_reducible refine foldl_kept ?_ ?_
    | with_reducible refine foldl_kept_fst ?_ ?_
    | with_reducible refine foldl_kept_snd ?_ ?_
    | with_reducible refine kept_ite ?_ ?_
    | intro _

theorem State.empties_kept {s0 s : State} (h : Kept s0 s) {p} : Kept s0 (State.empties s p) := by
  unfold State.empties
  repeat' first
    | with_reducible assumption
    | with_reducible refine State.wcDrain_kept ?_
    | with_reducible refine State.writeBack_kept ?_
    | with_reducible refine foldl_kept ?_ ?_
    | with_reducible refine foldl_kept_fst ?_ ?_
    | with_reducible refine foldl_kept_snd ?_ ?_
    | with_reducible refine kept_ite ?_ ?_
    | intro _
    | simp only [Kept.upd]
    | dsimp only
    | split

theorem State.liveAborts_kept {s0 s : State} (h : Kept s0 s) {p} : Kept s0 (State.liveAborts s p) := by
  unfold State.liveAborts
  repeat' first
    | with_reducible assumption
    | with_reducible refine State.sliceAborts_kept ?_
    | with_reducible refine foldl_kept ?_ ?_
    | with_reducible refine foldl_kept_fst ?_ ?_
    | with_reducible refine foldl_kept_snd ?_ ?_
    | with_reducible refine kept_ite ?_ ?_
    | intro _
    | simp only [Kept.upd]
    | dsimp only
    | split

theorem State.resume_kept {s0 s : State} (h : Kept s0 s) {p} : Kept s0 (State.resume s p) := by
  unfold State.resume
  repeat' first
    | with_reducible assumption
    | with_reducible refine State.pumpPorts_kept ?_
    | with_reducible refine State.doorbell_kept ?_
    | with_reducible refine State.arbitrate_kept ?_
    | with_reducible refine State.setCore_kept ?_
    | with_reducible refine State.setLive_kept ?_
    | with_reducible refine foldl_kept ?_ ?_
    | with_reducible refine foldl_kept_fst ?_ ?_
    | with_reducible refine foldl_kept_snd ?_ ?_
    | with_reducible refine kept_ite ?_ ?_
    | intro _
    | dsimp only
    | split

theorem State.liveNow_kept {s0 s : State} (h : Kept s0 s) {p req owner} : Kept s0 (State.liveNow s p req owner) := by
  unfold State.liveNow
  repeat' first
    | with_reducible assumption
    | with_reducible refine State.resume_kept ?_
    | with_reducible refine State.liveAborts_kept ?_
    | with_reducible refine State.setLive_kept ?_
    | with_reducible refine foldl_kept ?_ ?_
    | with_reducible refine foldl_kept_fst ?_ ?_
    | with_reducible refine foldl_kept_snd ?_ ?_
    | with_reducible refine kept_ite ?_ ?_
    | intro _
    | simp only [Kept.upd]
    | dsimp only
    | split

theorem State.liveReached_kept {s0 s : State} (h : Kept s0 s) {p} : Kept s0 (State.liveReached s p) := by
  unfold State.liveReached
  repeat' first
    | with_reducible assumption
    | with_reducible refine State.empties_kept ?_
    | with_reducible refine State.setLive_kept ?_
    | with_reducible refine foldl_kept ?_ ?_
    | with_reducible refine foldl_kept_fst ?_ ?_
    | with_reducible refine foldl_kept_snd ?_ ?_
    | with_reducible refine kept_ite ?_ ?_

theorem State.liveReq_kept {s0 s : State} (h : Kept s0 s) {p req owner} : Kept s0 (State.liveReq s p req owner) := by
  unfold State.liveReq
  repeat' first
    | with_reducible assumption
    | with_reducible refine State.liveNow_kept ?_
    | with_reducible refine State.setLive_kept ?_
    | with_reducible refine State.ignore_kept ?_
    | with_reducible refine foldl_kept ?_ ?_
    | with_reducible refine foldl_kept_fst ?_ ?_
    | with_reducible refine foldl_kept_snd ?_ ?_
    | with_reducible refine kept_ite ?_ ?_

theorem State.liveRow_kept {s0 s : State} (h : Kept s0 s) {page req owner} : Kept s0 (State.liveRow s page req
    owner) := by
  unfold State.liveRow
  repeat' first
    | with_reducible assumption
    | with_reducible refine State.liveReq_kept ?_
    | with_reducible refine foldl_kept ?_ ?_
    | with_reducible refine foldl_kept_fst ?_ ?_
    | with_reducible refine foldl_kept_snd ?_ ?_
    | with_reducible refine kept_ite ?_ ?_
    | intro _
    | simp only [Kept.upd]
    | dsimp only
    | split

theorem execLiveBoundaryReached_kept {s0 s : State} (h : Kept s0 s) {page} : KeptO s0 (execLiveBoundaryReached page
    s) := by
  unfold execLiveBoundaryReached
  repeat' first
    | with_reducible assumption
    | with_reducible refine KeptO.next ?_
    | with_reducible refine State.liveReached_kept ?_
    | with_reducible refine State.awake_kept ?_ ?_
    | with_reducible refine foldl_kept ?_ ?_
    | with_reducible refine foldl_kept_fst ?_ ?_
    | with_reducible refine foldl_kept_snd ?_ ?_
    | with_reducible refine kept_ite ?_ ?_
    | intro _
    | simp only [Kept.upd]
    | dsimp only
    | split

theorem execResume_kept {s0 s : State} (h : Kept s0 s) {page owner} : KeptO s0 (execResume page owner s) := by
  unfold execResume
  repeat' first
    | with_reducible assumption
    | with_reducible refine KeptO.next ?_
    | with_reducible refine State.liveRow_kept ?_
    | with_reducible refine State.awake_kept ?_ ?_
    | with_reducible refine foldl_kept ?_ ?_
    | with_reducible refine foldl_kept_fst ?_ ?_
    | with_reducible refine foldl_kept_snd ?_ ?_
    | with_reducible refine kept_ite ?_ ?_
    | intro _

theorem execDrain_kept {s0 s : State} (h : Kept s0 s) {page owner} : KeptO s0 (execDrain page owner s) := by
  unfold execDrain
  repeat' first
    | with_reducible assumption
    | with_reducible refine KeptO.next ?_
    | with_reducible refine State.liveRow_kept ?_
    | with_reducible refine State.awake_kept ?_ ?_
    | with_reducible refine foldl_kept ?_ ?_
    | with_reducible refine foldl_kept_fst ?_ ?_
    | with_reducible refine foldl_kept_snd ?_ ?_
    | with_reducible refine kept_ite ?_ ?_
    | intro _

theorem execQuiesce_kept {s0 s : State} (h : Kept s0 s) {page owner} : KeptO s0 (execQuiesce page owner s) := by
  unfold execQuiesce
  repeat' first
    | with_reducible assumption
    | with_reducible refine KeptO.next ?_
    | with_reducible refine State.liveRow_kept ?_
    | with_reducible refine State.awake_kept ?_ ?_
    | with_reducible refine foldl_kept ?_ ?_
    | with_reducible refine foldl_kept_fst ?_ ?_
    | with_reducible refine foldl_kept_snd ?_ ?_
    | with_reducible refine kept_ite ?_ ?_
    | intro _

/-! ### Repair -/

theorem State.fieldWrite_kept {s0 s : State} (h : Kept s0 s) : Kept s0 (State.fieldWrite s) := by
  unfold State.fieldWrite
  repeat' first
    | with_reducible assumption
    | with_reducible refine State.setFld_kept ?_

theorem State.addRow_kept {s0 s : State} (h : Kept s0 s) {a} : Kept s0 (State.addRow s a) := by
  unfold State.addRow
  repeat' first
    | with_reducible assumption
    | with_reducible refine State.fieldWrite_kept ?_
    | with_reducible refine foldl_kept ?_ ?_
    | with_reducible refine foldl_kept_fst ?_ ?_
    | with_reducible refine foldl_kept_snd ?_ ?_
    | with_reducible refine kept_ite ?_ ?_
    | intro _
    | simp only [Kept.upd]

theorem State.frozenNow_kept {s0 s : State} (h : Kept s0 s) {h_} : Kept s0 (State.frozenNow s h_) := by
  unfold State.frozenNow
  repeat' first
    | with_reducible assumption
    | with_reducible refine State.wr_kept ?_
    | with_reducible refine foldl_kept ?_ ?_
    | with_reducible refine foldl_kept_fst ?_ ?_
    | with_reducible refine foldl_kept_snd ?_ ?_
    | with_reducible refine kept_ite ?_ ?_
    | intro _
    | simp only [Kept.upd]

theorem State.setMode_kept {s0 s : State} (h : Kept s0 s) {h_ m} : Kept s0 (State.setMode s h_ m) := by
  unfold State.setMode
  repeat' first
    | with_reducible assumption
    | with_reducible refine State.frozenNow_kept ?_
    | with_reducible refine State.setFld_kept ?_
    | with_reducible refine foldl_kept ?_ ?_
    | with_reducible refine foldl_kept_fst ?_ ?_
    | with_reducible refine foldl_kept_snd ?_ ?_
    | with_reducible refine kept_ite ?_ ?_

theorem State.reMode_kept {s0 s : State} (h : Kept s0 s) : Kept s0 (State.reMode s) := by
  unfold State.reMode
  repeat' first
    | with_reducible assumption
    | with_reducible refine State.setMode_kept ?_
    | with_reducible refine foldl_kept ?_ ?_
    | with_reducible refine foldl_kept_fst ?_ ?_
    | with_reducible refine foldl_kept_snd ?_ ?_
    | with_reducible refine kept_ite ?_ ?_
    | intro _

theorem State.pcBegins_kept {s0 s : State} (h : Kept s0 s) {k pc} : Kept s0 (State.pcBegins s k pc).2 := by
  unfold State.pcBegins
  repeat' first
    | with_reducible assumption
    | with_reducible refine State.setFld_kept ?_
    | with_reducible refine State.reMode_kept ?_
    | with_reducible refine State.setWc_kept ?_
    | with_reducible refine State.wcFlushed_kept ?_
    | with_reducible refine State.event_kept ?_
    | with_reducible refine State.ignore_kept ?_
    | with_reducible refine foldl_kept ?_ ?_
    | with_reducible refine foldl_kept_fst ?_ ?_
    | with_reducible refine foldl_kept_snd ?_ ?_
    | with_reducible refine kept_ite ?_ ?_
    | with_reducible refine kept_ite_snd ?_ ?_
    | intro _
    | simp only [Kept.upd]

theorem State.pcBegins_kept_eq {s0 s t9 : State} {k pc} {y9} (e : State.pcBegins s k pc = (y9, t9)) (h : Kept s0 s)
    : Kept s0 t9 := by
  have := State.pcBegins_kept h (k := k) (pc := pc)
  rw [e] at this
  exact this

theorem State.pcRetireWrite_kept {s0 s : State} (h : Kept s0 s) {v} : Kept s0 (State.pcRetireWrite s v) := by
  unfold State.pcRetireWrite
  repeat' first
    | with_reducible assumption
    | with_reducible refine State.ignore_kept ?_
    | with_reducible refine State.pcBegins_kept ?_
    | with_reducible refine State.pcBegins_kept_eq (by assumption) ?_
    | with_reducible refine foldl_kept ?_ ?_
    | with_reducible refine foldl_kept_fst ?_ ?_
    | with_reducible refine foldl_kept_snd ?_ ?_
    | with_reducible refine kept_ite ?_ ?_
    | intro _
    | simp only [Kept.upd]
    | dsimp only
    | split

theorem State.swapBegins_kept {s0 s : State} (h : Kept s0 s) {c owner} : Kept s0 (State.swapBegins s c owner).2 := by
  unfold State.swapBegins
  repeat' first
    | with_reducible assumption
    | with_reducible refine State.reMode_kept ?_
    | with_reducible refine State.setFld_kept ?_
    | with_reducible refine State.setLive_kept ?_
    | with_reducible refine State.sliceAborts_kept ?_
    | with_reducible refine State.event_kept ?_
    | with_reducible refine State.ignore_kept ?_
    | with_reducible refine foldl_kept ?_ ?_
    | with_reducible refine foldl_kept_fst ?_ ?_
    | with_reducible refine foldl_kept_snd ?_ ?_
    | with_reducible refine kept_ite ?_ ?_
    | with_reducible refine kept_ite_snd ?_ ?_
    | intro _
    | simp only [Kept.upd]

theorem State.swapBegins_kept_eq {s0 s t9 : State} {c owner} {y9} (e : State.swapBegins s c owner = (y9, t9)) (h :
    Kept s0 s) : Kept s0 t9 := by
  have := State.swapBegins_kept h (c := c) (owner := owner)
  rw [e] at this
  exact this

theorem State.swapCtrlWrite_kept {s0 s : State} (h : Kept s0 s) {v owner} : Kept s0 (State.swapCtrlWrite s v owner)
    := by
  unfold State.swapCtrlWrite
  repeat' first
    | with_reducible assumption
    | with_reducible refine State.ignore_kept ?_
    | with_reducible refine State.swapBegins_kept ?_
    | with_reducible refine State.swapBegins_kept_eq (by assumption) ?_
    | with_reducible refine foldl_kept ?_ ?_
    | with_reducible refine foldl_kept_fst ?_ ?_
    | with_reducible refine foldl_kept_snd ?_ ?_
    | with_reducible refine kept_ite ?_ ?_
    | intro _
    | simp only [Kept.upd]
    | dsimp only
    | split

theorem State.semReset_kept {s0 s : State} (h : Kept s0 s) {scope core index} : Kept s0 (State.semReset s scope
    core index) := by
  unfold State.semReset
  repeat' first
    | with_reducible assumption
    | with_reducible refine State.setSem_kept ?_
    | with_reducible refine State.ignore_kept ?_
    | with_reducible refine foldl_kept ?_ ?_
    | with_reducible refine foldl_kept_fst ?_ ?_
    | with_reducible refine foldl_kept_snd ?_ ?_
    | with_reducible refine kept_ite ?_ ?_

theorem State.errRingBaseWrite_kept {s0 s : State} (h : Kept s0 s) {v} : Kept s0 (State.errRingBaseWrite s v) := by
  unfold State.errRingBaseWrite
  have k : Kept s0 (s.wrRw .fault .errRingBase 0 v) := State.wrRw_kept h
  repeat' first
    | with_reducible refine State.ignore_kept h
    | with_reducible exact k
    | with_reducible refine kept_ite ?_ ?_
    | with_reducible refine foldl_kept (fun t x k => State.ringWrite_kept k) ?_
    | exact Kept.build k id id id (fun e => by rw [Records.ok_iff] at *; exact ⟨Nat.zero_le _, e.2⟩)

theorem State.flushHeld_kept {s0 s : State} (h : Kept s0 s) {due} : Kept s0 (State.flushHeld s due) := by
  unfold State.flushHeld
  refine foldl_kept (fun t x k => State.commitRecord_kept k) ?_
  exact Kept.build h id id id (fun e => by rw [Records.ok_iff] at *; exact e)

theorem State.haltFlight_kept {s0 s : State} (h : Kept s0 s) {c q st f} : Kept s0 (State.haltFlight s c q st f) := by
  unfold State.haltFlight
  repeat' first
    | with_reducible assumption
    | with_reducible refine State.faultAdds_kept ?_
    | with_reducible refine State.tileRecord_kept ?_
    | with_reducible refine State.tileComplete_kept ?_
    | with_reducible refine State.setFlight_kept ?_
    | with_reducible refine State.endCounts_kept ?_
    | with_reducible refine State.leaveArray_kept ?_
    | with_reducible refine State.undo_kept ?_
    | with_reducible refine State.putBack_kept ?_
    | with_reducible refine State.draw_kept ?_
    | with_reducible refine State.draw_kept_eq (by assumption) ?_
    | with_reducible refine foldl_kept ?_ ?_
    | with_reducible refine foldl_kept_fst ?_ ?_
    | with_reducible refine foldl_kept_snd ?_ ?_
    | with_reducible refine kept_ite ?_ ?_

theorem State.haltQueue_kept {s0 s : State} (h : Kept s0 s) {c q st} : Kept s0 (State.haltQueue s c q st) := by
  unfold State.haltQueue
  repeat' first
    | with_reducible assumption
    | with_reducible refine State.setQueue_kept ?_
    | with_reducible refine State.haltFlight_kept ?_
    | with_reducible refine foldl_kept ?_ ?_
    | with_reducible refine foldl_kept_fst ?_ ?_
    | with_reducible refine foldl_kept_snd ?_ ?_
    | with_reducible refine kept_ite ?_ ?_
    | intro _

theorem State.haltCore_kept {s0 s : State} (h : Kept s0 s) {c st} : Kept s0 (State.haltCore s c st) := by
  unfold State.haltCore
  repeat' first
    | with_reducible assumption
    | with_reducible refine State.setCore_kept ?_
    | with_reducible refine State.haltQueue_kept ?_
    | with_reducible refine foldl_kept ?_ ?_
    | with_reducible refine foldl_kept_fst ?_ ?_
    | with_reducible refine foldl_kept_snd ?_ ?_
    | with_reducible refine kept_ite ?_ ?_
    | intro _

theorem State.retireCore_kept {s0 s : State} (h : Kept s0 s) {c} : Kept s0 (State.retireCore s c) := by
  unfold State.retireCore
  repeat' first
    | with_reducible assumption
    | with_reducible refine State.fieldWrite_kept ?_
    | with_reducible refine State.setCore_kept ?_
    | with_reducible refine State.haltCore_kept ?_
    | with_reducible refine State.settled_kept ?_
    | with_reducible refine foldl_kept ?_ ?_
    | with_reducible refine foldl_kept_fst ?_ ?_
    | with_reducible refine foldl_kept_snd ?_ ?_
    | with_reducible refine kept_ite ?_ ?_
    | intro _
    | simp only [Kept.upd]

theorem State.swapEnds_kept {s0 s : State} (h : Kept s0 s) {w c} : Kept s0 (State.swapEnds s w c) := by
  unfold State.swapEnds
  repeat' first
    | with_reducible assumption
    | with_reducible refine State.liveNow_kept ?_
    | with_reducible refine State.resume_kept ?_
    | with_reducible refine State.setLive_kept ?_
    | with_reducible refine State.bump_kept ?_
    | with_reducible refine State.event_kept ?_
    | with_reducible refine State.fieldWrite_kept ?_
    | with_reducible refine State.reMode_kept ?_
    | with_reducible refine State.setFld_kept ?_
    | with_reducible refine State.wr_kept ?_
    | with_reducible refine foldl_kept ?_ ?_
    | with_reducible refine foldl_kept_fst ?_ ?_
    | with_reducible refine foldl_kept_snd ?_ ?_
    | with_reducible refine kept_ite ?_ ?_
    | intro _
    | simp only [Kept.upd]

theorem execErrRingBaseWrite_kept {s0 s : State} (h : Kept s0 s) {v} : KeptO s0 (execErrRingBaseWrite v s) := by
  unfold execErrRingBaseWrite
  repeat' first
    | with_reducible assumption
    | with_reducible refine KeptO.next ?_
    | with_reducible refine State.errRingBaseWrite_kept ?_
    | with_reducible refine State.awake_kept ?_ ?_
    | with_reducible refine foldl_kept ?_ ?_
    | with_reducible refine foldl_kept_fst ?_ ?_
    | with_reducible refine foldl_kept_snd ?_ ?_
    | with_reducible refine kept_ite ?_ ?_
    | intro _

theorem execCorrectedRecordFlush_kept {s0 s : State} (h : Kept s0 s) : KeptO s0 (execCorrectedRecordFlush s) := by
  unfold execCorrectedRecordFlush
  repeat' first
    | with_reducible assumption
    | with_reducible refine KeptO.next ?_
    | with_reducible refine State.flushHeld_kept ?_
    | with_reducible refine State.awake_kept ?_ ?_
    | with_reducible refine foldl_kept ?_ ?_
    | with_reducible refine foldl_kept_fst ?_ ?_
    | with_reducible refine foldl_kept_snd ?_ ?_
    | with_reducible refine kept_ite ?_ ?_
    | intro _

theorem execPcRetired_kept {s0 s : State} (h : Kept s0 s) : KeptO s0 (execPcRetired s) := by
  unfold execPcRetired
  repeat' first
    | with_reducible assumption
    | with_reducible refine KeptO.next ?_
    | with_reducible refine State.fieldWrite_kept ?_
    | with_reducible refine State.reMode_kept ?_
    | with_reducible refine State.setFld_kept ?_
    | with_reducible refine State.event_kept ?_
    | with_reducible refine State.awake_kept ?_ ?_
    | with_reducible refine foldl_kept ?_ ?_
    | with_reducible refine foldl_kept_fst ?_ ?_
    | with_reducible refine foldl_kept_snd ?_ ?_
    | with_reducible refine kept_ite ?_ ?_
    | intro _
    | simp only [Kept.upd]
    | dsimp only
    | split

theorem execPcRetirement_kept {s0 s : State} (h : Kept s0 s) {k pc} : KeptO s0 (execPcRetirement k pc s) := by
  unfold execPcRetirement
  repeat' first
    | with_reducible assumption
    | with_reducible refine KeptO.next ?_
    | with_reducible refine State.pcBegins_kept ?_
    | with_reducible refine State.pcBegins_kept_eq (by assumption) ?_
    | with_reducible refine State.awake_kept ?_ ?_
    | with_reducible refine foldl_kept ?_ ?_
    | with_reducible refine foldl_kept_fst ?_ ?_
    | with_reducible refine foldl_kept_snd ?_ ?_
    | with_reducible refine kept_ite ?_ ?_
    | intro _

theorem execSwapDone_kept {s0 s : State} (h : Kept s0 s) : KeptO s0 (execSwapDone s) := by
  unfold execSwapDone
  repeat' first
    | with_reducible assumption
    | with_reducible refine KeptO.next ?_
    | with_reducible refine State.swapEnds_kept ?_
    | with_reducible refine State.awake_kept ?_ ?_
    | with_reducible refine foldl_kept ?_ ?_
    | with_reducible refine foldl_kept_fst ?_ ?_
    | with_reducible refine foldl_kept_snd ?_ ?_
    | with_reducible refine kept_ite ?_ ?_
    | intro _
    | simp only [Kept.upd]
    | dsimp only
    | split

theorem execSpareCoreSwap_kept {s0 s : State} (h : Kept s0 s) {c owner} : KeptO s0 (execSpareCoreSwap c owner s) := by
  unfold execSpareCoreSwap
  repeat' first
    | with_reducible assumption
    | with_reducible refine KeptO.next ?_
    | with_reducible refine State.swapBegins_kept ?_
    | with_reducible refine State.swapBegins_kept_eq (by assumption) ?_
    | with_reducible refine State.awake_kept ?_ ?_
    | with_reducible refine foldl_kept ?_ ?_
    | with_reducible refine foldl_kept_fst ?_ ?_
    | with_reducible refine foldl_kept_snd ?_ ?_
    | with_reducible refine kept_ite ?_ ?_
    | intro _

theorem execSemReset_kept {s0 s : State} (h : Kept s0 s) {v} : KeptO s0 (execSemReset v s) := by
  unfold execSemReset
  repeat' first
    | with_reducible assumption
    | with_reducible refine KeptO.next ?_
    | with_reducible refine State.semReset_kept ?_
    | with_reducible refine State.awake_kept ?_ ?_
    | with_reducible refine foldl_kept ?_ ?_
    | with_reducible refine foldl_kept_fst ?_ ?_
    | with_reducible refine foldl_kept_snd ?_ ?_
    | with_reducible refine kept_ite ?_ ?_
    | intro _

theorem execScrub_kept {s0 s : State} (h : Kept s0 s) {a f} : KeptO s0 (execScrub a f s) := by
  unfold execScrub
  repeat' first
    | with_reducible assumption
    | with_reducible refine KeptO.next ?_
    | with_reducible refine State.bump_kept ?_
    | with_reducible refine State.event_kept ?_
    | with_reducible refine State.corrected_kept ?_
    | with_reducible refine State.addRow_kept ?_
    | with_reducible refine State.awake_kept ?_ ?_
    | with_reducible refine foldl_kept ?_ ?_
    | with_reducible refine foldl_kept_fst ?_ ?_
    | with_reducible refine foldl_kept_snd ?_ ?_
    | with_reducible refine kept_ite ?_ ?_
    | intro _
    | simp only [Kept.upd]
    | dsimp only
    | split

/-! ### Power -/

theorem State.setClock_kept {s0 s : State} (h : Kept s0 s) {x} : Kept s0 (State.setClock s x) := by
  unfold State.setClock
  repeat' first
    | with_reducible assumption
    | with_reducible refine State.setFld_kept ?_
    | with_reducible refine State.sliceAborts_kept ?_
    | with_reducible refine foldl_kept ?_ ?_
    | with_reducible refine foldl_kept_fst ?_ ?_
    | with_reducible refine foldl_kept_snd ?_ ?_
    | with_reducible refine kept_ite ?_ ?_
    | intro _
    | simp only [Kept.upd]

theorem State.grantDelay_kept {s0 s : State} (h : Kept s0 s) {msg units} : Kept s0 (State.grantDelay s msg units)
    := by
  unfold State.grantDelay
  repeat' first
    | with_reducible assumption
    | with_reducible refine State.setReq_kept ?_
    | with_reducible refine foldl_kept ?_ ?_
    | with_reducible refine foldl_kept_fst ?_ ?_
    | with_reducible refine foldl_kept_snd ?_ ?_
    | with_reducible refine kept_ite ?_ ?_
    | intro _
    | simp only [Kept.upd]
    | dsimp only
    | split

theorem State.bwStat_kept {s0 s : State} (h : Kept s0 s) : Kept s0 (State.bwStat s) := by
  unfold State.bwStat
  repeat' first
    | with_reducible assumption
    | with_reducible refine State.wr_kept ?_

theorem State.bwGrant_kept {s0 s : State} (h : Kept s0 s) : Kept s0 (State.bwGrant s) := by
  unfold State.bwGrant
  repeat' first
    | with_reducible assumption
    | with_reducible refine State.grantDelay_kept ?_
    | with_reducible refine State.bump_kept ?_
    | with_reducible refine State.bwStat_kept ?_
    | with_reducible refine foldl_kept ?_ ?_
    | with_reducible refine foldl_kept_fst ?_ ?_
    | with_reducible refine foldl_kept_snd ?_ ?_
    | with_reducible refine kept_ite ?_ ?_
    | intro _
    | simp only [Kept.upd]
    | dsimp only
    | split

theorem State.bwAsk_kept {s0 s : State} (h : Kept s0 s) {k cls msg} : Kept s0 (State.bwAsk s k cls msg) := by
  unfold State.bwAsk
  repeat' first
    | with_reducible assumption
    | with_reducible refine State.bwGrant_kept ?_
    | with_reducible refine foldl_kept ?_ ?_
    | with_reducible refine foldl_kept_fst ?_ ?_
    | with_reducible refine foldl_kept_snd ?_ ?_
    | with_reducible refine kept_ite ?_ ?_
    | intro _
    | simp only [Kept.upd]

theorem State.leftNeap_kept {s0 s : State} (h : Kept s0 s) : Kept s0 (State.leftNeap s) := by
  unfold State.leftNeap
  repeat' first
    | with_reducible assumption
    | with_reducible refine State.setClock_kept ?_
    | with_reducible refine State.event_kept ?_
    | with_reducible refine foldl_kept ?_ ?_
    | with_reducible refine foldl_kept_fst ?_ ?_
    | with_reducible refine foldl_kept_snd ?_ ?_
    | with_reducible refine kept_ite ?_ ?_

theorem State.leavesNeap_kept {s0 s : State} (h : Kept s0 s) : Kept s0 (State.leavesNeap s) := by
  unfold State.leavesNeap
  repeat' first
    | with_reducible assumption
    | with_reducible refine State.bwAsk_kept ?_
    | with_reducible refine State.leftNeap_kept ?_
    | with_reducible refine foldl_kept ?_ ?_
    | with_reducible refine foldl_kept_fst ?_ ?_
    | with_reducible refine foldl_kept_snd ?_ ?_
    | with_reducible refine kept_ite ?_ ?_
    | intro _

theorem State.marginAborts_kept {s0 s : State} (h : Kept s0 s) : Kept s0 (State.marginAborts s) := by
  unfold State.marginAborts
  repeat' first
    | with_reducible assumption
    | with_reducible refine State.setFld_kept ?_
    | with_reducible refine foldl_kept ?_ ?_
    | with_reducible refine foldl_kept_fst ?_ ?_
    | with_reducible refine foldl_kept_snd ?_ ?_
    | with_reducible refine kept_ite ?_ ?_
    | intro _
    | simp only [Kept.upd]
    | dsimp only
    | split

theorem State.entersNeap_kept {s0 s : State} (h : Kept s0 s) : Kept s0 (State.entersNeap s) := by
  unfold State.entersNeap
  repeat' first
    | with_reducible assumption
    | with_reducible refine State.marginAborts_kept ?_
    | with_reducible refine State.setClock_kept ?_
    | with_reducible refine State.bump_kept ?_
    | with_reducible refine State.event_kept ?_
    | with_reducible refine State.bwStat_kept ?_
    | with_reducible refine foldl_kept ?_ ?_
    | with_reducible refine foldl_kept_fst ?_ ?_
    | with_reducible refine foldl_kept_snd ?_ ?_
    | with_reducible refine kept_ite ?_ ?_
    | intro _
    | simp only [Kept.upd]

theorem State.reClock_kept {s0 s : State} (h : Kept s0 s) : Kept s0 (State.reClock s) := by
  unfold State.reClock
  repeat' first
    | with_reducible assumption
    | with_reducible refine State.setClock_kept ?_
    | with_reducible refine State.leavesNeap_kept ?_
    | with_reducible refine State.entersNeap_kept ?_
    | with_reducible refine foldl_kept ?_ ?_
    | with_reducible refine foldl_kept_fst ?_ ?_
    | with_reducible refine foldl_kept_snd ?_ ?_
    | with_reducible refine kept_ite ?_ ?_

theorem State.wakes_kept {s0 s : State} (h : Kept s0 s) {cause} : Kept s0 (State.wakes s cause) := by
  unfold State.wakes
  repeat' first
    | with_reducible assumption
    | with_reducible refine foldl_kept ?_ ?_
    | with_reducible refine foldl_kept_fst ?_ ?_
    | with_reducible refine foldl_kept_snd ?_ ?_
    | with_reducible refine kept_ite ?_ ?_
    | intro _
    | simp only [Kept.upd]

theorem State.clearStop_kept {s0 s : State} (h : Kept s0 s) {safe} : Kept s0 (State.clearStop s safe) := by
  unfold State.clearStop
  repeat' first
    | with_reducible assumption
    | with_reducible refine State.setFld_kept ?_
    | with_reducible refine foldl_kept ?_ ?_
    | with_reducible refine foldl_kept_fst ?_ ?_
    | with_reducible refine foldl_kept_snd ?_ ?_
    | with_reducible refine kept_ite ?_ ?_

theorem State.neapForce_kept {s0 s : State} (h : Kept s0 s) {on} : Kept s0 (State.neapForce s on) := by
  unfold State.neapForce
  repeat' first
    | with_reducible assumption
    | with_reducible refine State.setFld_kept ?_
    | with_reducible refine State.reClock_kept ?_
    | with_reducible refine State.bwGrant_kept ?_
    | with_reducible refine foldl_kept ?_ ?_
    | with_reducible refine foldl_kept_fst ?_ ?_
    | with_reducible refine foldl_kept_snd ?_ ?_
    | with_reducible refine kept_ite ?_ ?_

theorem State.setSlack_kept {s0 s : State} (h : Kept s0 s) {c on} : Kept s0 (State.setSlack s c on) := by
  unfold State.setSlack
  repeat' first
    | with_reducible assumption
    | with_reducible refine State.setCore_kept ?_
    | with_reducible refine State.setFld_kept ?_

theorem State.rampGives_kept {s0 s : State} (h : Kept s0 s) {k} : Kept s0 (State.rampGives s k) := by
  unfold State.rampGives
  repeat' first
    | with_reducible assumption
    | with_reducible refine State.leftNeap_kept ?_
    | with_reducible refine State.setSlack_kept ?_
    | with_reducible refine State.arbitrate_kept ?_
    | with_reducible refine foldl_kept ?_ ?_
    | with_reducible refine foldl_kept_fst ?_ ?_
    | with_reducible refine foldl_kept_snd ?_ ?_
    | with_reducible refine kept_ite ?_ ?_
    | intro _
    | simp only [Kept.upd]
    | dsimp only
    | split

theorem State.tickWake_kept {s0 s : State} (h : Kept s0 s) : Kept s0 (State.tickWake s) := by
  unfold State.tickWake
  repeat' first
    | with_reducible assumption
    | with_reducible refine State.wakes_kept ?_
    | with_reducible refine foldl_kept ?_ ?_
    | with_reducible refine foldl_kept_fst ?_ ?_
    | with_reducible refine foldl_kept_snd ?_ ?_
    | with_reducible refine kept_ite ?_ ?_
    | intro _
    | simp only [Kept.upd]

theorem execWakeN_kept {s0 s : State} (h : Kept s0 s) : KeptO s0 (execWakeN s) := by
  unfold execWakeN
  repeat' first
    | with_reducible assumption
    | with_reducible refine KeptO.next ?_
    | with_reducible refine State.wakes_kept ?_
    | with_reducible refine foldl_kept ?_ ?_
    | with_reducible refine foldl_kept_fst ?_ ?_
    | with_reducible refine foldl_kept_snd ?_ ?_
    | with_reducible refine kept_ite ?_ ?_

theorem execRampEnd_kept {s0 s : State} (h : Kept s0 s) : KeptO s0 (execRampEnd s) := by
  unfold execRampEnd
  repeat' first
    | with_reducible assumption
    | with_reducible refine KeptO.next ?_
    | with_reducible refine State.rampGives_kept ?_
    | with_reducible refine State.bwGrant_kept ?_
    | with_reducible refine State.awake_kept ?_ ?_
    | with_reducible refine foldl_kept ?_ ?_
    | with_reducible refine foldl_kept_fst ?_ ?_
    | with_reducible refine foldl_kept_snd ?_ ?_
    | with_reducible refine kept_ite ?_ ?_
    | intro _
    | simp only [Kept.upd]
    | dsimp only
    | split

theorem execBreakwaterRequest_kept {s0 s : State} (h : Kept s0 s) {k msg} : KeptO s0 (execBreakwaterRequest k msg
    s) := by
  unfold execBreakwaterRequest
  repeat' first
    | with_reducible assumption
    | with_reducible refine KeptO.next ?_
    | with_reducible refine State.bwAsk_kept ?_
    | with_reducible refine State.awake_kept ?_ ?_
    | with_reducible refine foldl_kept ?_ ?_
    | with_reducible refine foldl_kept_fst ?_ ?_
    | with_reducible refine foldl_kept_snd ?_ ?_
    | with_reducible refine kept_ite ?_ ?_
    | intro _

theorem execCoreSlackEntry_kept {s0 s : State} (h : Kept s0 s) {c} : KeptO s0 (execCoreSlackEntry c s) := by
  unfold execCoreSlackEntry
  repeat' first
    | with_reducible assumption
    | with_reducible refine KeptO.next ?_
    | with_reducible refine State.setSlack_kept ?_
    | with_reducible refine State.awake_kept ?_ ?_
    | with_reducible refine foldl_kept ?_ ?_
    | with_reducible refine foldl_kept_fst ?_ ?_
    | with_reducible refine foldl_kept_snd ?_ ?_
    | with_reducible refine kept_ite ?_ ?_
    | intro _

theorem execClearStop_kept {s0 s : State} (h : Kept s0 s) {safe} : KeptO s0 (execClearStop safe s) := by
  unfold execClearStop
  repeat' first
    | with_reducible assumption
    | with_reducible refine KeptO.next ?_
    | with_reducible refine State.clearStop_kept ?_

theorem execNeapForce_kept {s0 s : State} (h : Kept s0 s) {on} : KeptO s0 (execNeapForce on s) := by
  unfold execNeapForce
  repeat' first
    | with_reducible assumption
    | with_reducible refine KeptO.next ?_
    | with_reducible refine State.neapForce_kept ?_

theorem execWakeAlarm_kept {s0 s : State} (h : Kept s0 s) : KeptO s0 (execWakeAlarm s) := by
  unfold execWakeAlarm
  repeat' first
    | with_reducible assumption
    | with_reducible refine KeptO.next ?_
    | with_reducible refine State.wakes_kept ?_
    | with_reducible refine foldl_kept ?_ ?_
    | with_reducible refine foldl_kept_fst ?_ ?_
    | with_reducible refine foldl_kept_snd ?_ ?_
    | with_reducible refine kept_ite ?_ ?_

/-! ### Halt -/

theorem State.haltTraining_kept {s0 s : State} (h : Kept s0 s) {st} : Kept s0 (State.haltTraining s st) := by
  unfold State.haltTraining
  repeat' first
    | with_reducible assumption
    | with_reducible refine State.trainFails_kept ?_
    | with_reducible refine State.drawUpTo_kept ?_
    | with_reducible refine State.drawUpTo_kept_eq (by assumption) ?_
    | with_reducible refine foldl_kept ?_ ?_
    | with_reducible refine foldl_kept_fst ?_ ?_
    | with_reducible refine foldl_kept_snd ?_ ?_
    | with_reducible refine kept_ite ?_ ?_
    | intro _
    | dsimp only
    | split

theorem State.haltReq_kept {s0 s : State} (h : Kept s0 s) {st k r} : Kept s0 (State.haltReq s st k r) := by
  unfold State.haltReq
  repeat' first
    | with_reducible assumption
    | with_reducible refine State.loadStops_kept ?_
    | with_reducible refine State.refuse_kept ?_
    | with_reducible refine State.rollEnds_kept ?_
    | with_reducible refine State.planEnds_kept ?_
    | with_reducible refine State.observeEnd_kept ?_
    | with_reducible refine foldl_kept ?_ ?_
    | with_reducible refine foldl_kept_fst ?_ ?_
    | with_reducible refine foldl_kept_snd ?_ ?_
    | with_reducible refine kept_ite ?_ ?_
    | intro _
    | simp only [Kept.upd]
    | dsimp only
    | split

theorem State.haltReqs_kept {s0 s : State} (h : Kept s0 s) {st} : Kept s0 (State.haltReqs s st) := by
  unfold State.haltReqs
  repeat' first
    | with_reducible assumption
    | with_reducible refine State.haltReq_kept ?_
    | with_reducible refine foldl_kept ?_ ?_
    | with_reducible refine foldl_kept_fst ?_ ?_
    | with_reducible refine foldl_kept_snd ?_ ?_
    | with_reducible refine kept_ite ?_ ?_
    | intro _
    | simp only [Kept.upd]
    | dsimp only
    | split

theorem State.haltFast_kept {s0 s : State} (h : Kept s0 s) {st} : Kept s0 (State.haltFast s st) := by
  unfold State.haltFast
  repeat' first
    | with_reducible assumption
    | with_reducible refine State.send_kept ?_
    | with_reducible refine foldl_kept ?_ ?_
    | with_reducible refine foldl_kept_fst ?_ ?_
    | with_reducible refine foldl_kept_snd ?_ ?_
    | with_reducible refine kept_ite ?_ ?_
    | intro _
    | simp only [Kept.upd]

theorem State.haltSteps_kept {s0 s : State} (h : Kept s0 s) : Kept s0 (State.haltSteps s) := by
  unfold State.haltSteps
  repeat' first
    | with_reducible assumption
    | with_reducible refine State.setPage_kept ?_
    | with_reducible refine State.setStream_kept ?_
    | with_reducible refine State.unpin_kept ?_
    | with_reducible refine foldl_kept ?_ ?_
    | with_reducible refine foldl_kept_fst ?_ ?_
    | with_reducible refine foldl_kept_snd ?_ ?_
    | with_reducible refine kept_ite ?_ ?_
    | intro _
    | dsimp only
    | split

theorem State.haltSems_kept {s0 s : State} (h : Kept s0 s) : Kept s0 (State.haltSems s) := by
  exact Kept.build h id id (fun _ => faultAll_wf _ _) id

theorem State.haltCliff_kept {s0 s : State} (h : Kept s0 s) {st} : Kept s0 (State.haltCliff s st) := by
  unfold State.haltCliff
  repeat' first
    | with_reducible assumption
    | with_reducible refine State.cliffEnds_kept ?_
    | with_reducible refine State.drawUpTo_kept ?_
    | with_reducible refine State.drawUpTo_kept_eq (by assumption) ?_
    | with_reducible refine foldl_kept ?_ ?_
    | with_reducible refine foldl_kept_fst ?_ ?_
    | with_reducible refine foldl_kept_snd ?_ ?_
    | with_reducible refine kept_ite ?_ ?_
    | intro _

theorem State.haltColls_kept {s0 s : State} (h : Kept s0 s) {st} : Kept s0 (State.haltColls s st) := by
  unfold State.haltColls
  repeat' first
    | with_reducible assumption
    | with_reducible refine State.collEnd_kept ?_
    | with_reducible refine foldl_kept ?_ ?_
    | with_reducible refine foldl_kept_fst ?_ ?_
    | with_reducible refine foldl_kept_snd ?_ ?_
    | with_reducible refine kept_ite ?_ ?_
    | intro _
    | simp only [Kept.upd]
    | dsimp only
    | split

theorem State.haltFore_kept {s0 s : State} (h : Kept s0 s) {st h_} : Kept s0 (State.haltFore s st h_) := by
  unfold State.haltFore
  repeat' first
    | with_reducible assumption
    | with_reducible refine State.fsPartial_kept ?_
    | with_reducible refine State.drawUpTo_kept ?_
    | with_reducible refine State.drawUpTo_kept_eq (by assumption) ?_
    | with_reducible refine State.fsEnd_kept ?_
    | with_reducible refine foldl_kept ?_ ?_
    | with_reducible refine foldl_kept_fst ?_ ?_
    | with_reducible refine foldl_kept_snd ?_ ?_
    | with_reducible refine kept_ite ?_ ?_
    | intro _
    | dsimp only
    | split

theorem State.haltCores_kept {s0 s : State} (h : Kept s0 s) {st} : Kept s0 (State.haltCores s st) := by
  unfold State.haltCores
  repeat' first
    | with_reducible assumption
    | with_reducible refine State.haltCore_kept ?_
    | with_reducible refine foldl_kept ?_ ?_
    | with_reducible refine foldl_kept_fst ?_ ?_
    | with_reducible refine foldl_kept_snd ?_ ?_
    | with_reducible refine kept_ite ?_ ?_
    | intro _

theorem State.haltWork_kept {s0 s : State} (h : Kept s0 s) {st} : Kept s0 (State.haltWork s st) := by
  unfold State.haltWork
  repeat' first
    | with_reducible assumption
    | with_reducible refine State.flushHeld_kept ?_
    | with_reducible refine State.haltTraining_kept ?_
    | with_reducible refine State.haltReqs_kept ?_
    | with_reducible refine State.haltFast_kept ?_
    | with_reducible refine State.writeBack_kept ?_
    | with_reducible refine State.haltSteps_kept ?_
    | with_reducible refine State.haltSems_kept ?_
    | with_reducible refine State.haltCliff_kept ?_
    | with_reducible refine State.haltColls_kept ?_
    | with_reducible refine State.haltFore_kept ?_
    | with_reducible refine State.haltCores_kept ?_
    | with_reducible refine foldl_kept ?_ ?_
    | with_reducible refine foldl_kept_fst ?_ ?_
    | with_reducible refine foldl_kept_snd ?_ ?_
    | with_reducible refine kept_ite ?_ ?_
    | intro _
    | simp only [Kept.upd]

theorem State.dryRelease_kept {s0 s : State} (h : Kept s0 s) {r} : Kept s0 (State.dryRelease s r) := by
  unfold State.dryRelease
  repeat' first
    | with_reducible assumption
    | with_reducible refine State.setFld_kept ?_
    | with_reducible refine State.event_kept ?_
    | with_reducible refine foldl_kept ?_ ?_
    | with_reducible refine foldl_kept_fst ?_ ?_
    | with_reducible refine foldl_kept_snd ?_ ?_
    | with_reducible refine kept_ite ?_ ?_
    | intro _
    | simp only [Kept.upd]

theorem State.railsOff_kept {s0 s : State} (h : Kept s0 s) {keeps} : Kept s0 (State.railsOff s keeps) := by
  unfold State.railsOff
  repeat' first
    | with_reducible assumption
    | with_reducible refine State.wakes_kept ?_
    | with_reducible refine State.bwStat_kept ?_
    | with_reducible refine State.setFld_kept ?_
    | with_reducible refine State.dryRelease_kept ?_
    | with_reducible refine State.ethDown_kept ?_
    | with_reducible refine State.cxlLost_kept ?_
    | with_reducible refine foldl_kept ?_ ?_
    | with_reducible refine foldl_kept_fst ?_ ?_
    | with_reducible refine foldl_kept_snd ?_ ?_
    | with_reducible refine kept_ite ?_ ?_
    | intro _
    | simp only [Kept.upd]

theorem State.orderlyHalt_kept {s0 s : State} (h : Kept s0 s) {st} : Kept s0 (State.orderlyHalt s st) := by
  unfold State.orderlyHalt
  repeat' first
    | with_reducible assumption
    | with_reducible refine State.haltWork_kept ?_
    | with_reducible refine State.railsOff_kept ?_

theorem State.entersDry_kept {s0 s : State} (h : Kept s0 s) : Kept s0 (State.entersDry s) := by
  unfold State.entersDry
  repeat' first
    | with_reducible assumption
    | with_reducible refine State.orderlyHalt_kept ?_
    | with_reducible refine State.awake_kept ?_ ?_
    | with_reducible refine foldl_kept ?_ ?_
    | with_reducible refine foldl_kept_fst ?_ ?_
    | with_reducible refine foldl_kept_snd ?_ ?_
    | with_reducible refine kept_ite ?_ ?_
    | intro _

theorem State.fatalRecord_kept {s0 s : State} (h : Kept s0 s) {page} : Kept s0 (State.fatalRecord s page) := by
  unfold State.fatalRecord
  repeat' first
    | with_reducible assumption
    | with_reducible refine State.report_kept ?_

theorem State.lossHalt_kept {s0 s : State} (h : Kept s0 s) : Kept s0 (State.lossHalt s) := by
  unfold State.lossHalt
  refine State.railsOff_kept ?_
  have k : Kept s0 ((s.bump .power .inputLossCount 0 1).event .power 3) := State.event_kept (State.bump_kept h)
  have k' := State.haltWork_kept (st := .ePower) (Kept.refl ((s.bump .power .inputLossCount 0 1).event .power 3))
  revert k k'
  generalize (s.bump .power .inputLossCount 0 1).event .power 3 = u
  intro k k'
  generalize u.haltWork .ePower = v at k'
  exact k.trans ⟨k'.code, k'.pending, List.prefix_rfl, k'.records, k'.mem, k'.regs, k'.sems, k'.errs⟩

theorem State.powerGone_kept {s0 s : State} (h : Kept s0 s) : Kept s0 (State.powerGone s) := by
  unfold State.powerGone
  simp only [Kept.upd]
  refine State.railsOff_kept ?_
  exact Kept.build h id id id (fun e => by rw [Records.ok_iff] at *; exact ⟨e.1, e.2.1, Nat.zero_le _⟩)

theorem execEmergencyStop_kept {s0 s : State} (h : Kept s0 s) : KeptO s0 (execEmergencyStop s) := by
  unfold execEmergencyStop
  repeat' first
    | with_reducible assumption
    | with_reducible refine KeptO.next ?_
    | with_reducible refine State.orderlyHalt_kept ?_
    | with_reducible refine State.emit_kept ?_
    | with_reducible refine foldl_kept ?_ ?_
    | with_reducible refine foldl_kept_fst ?_ ?_
    | with_reducible refine foldl_kept_snd ?_ ?_
    | with_reducible refine kept_ite ?_ ?_

theorem execPowerWake_kept {s0 s : State} (h : Kept s0 s) : KeptO s0 (execPowerWake s) := by
  unfold execPowerWake
  repeat' first
    | with_reducible assumption
    | with_reducible refine KeptO.next ?_
    | with_reducible refine State.wakes_kept ?_
    | with_reducible refine State.emit_kept ?_
    | with_reducible refine foldl_kept ?_ ?_
    | with_reducible refine foldl_kept_fst ?_ ?_
    | with_reducible refine foldl_kept_snd ?_ ?_
    | with_reducible refine kept_ite ?_ ?_

theorem execStandbyReturn_kept {s0 s : State} (h : Kept s0 s) {complete} : KeptO s0 (execStandbyReturn complete s)
    := by
  unfold execStandbyReturn
  refine KeptO.next ?_
  refine kept_ite h (kept_ite ?_ ?_)
  · refine State.setFld_kept ?_
    exact Kept.build h id (fun w => FMap.wf_filter w _) id id
  · refine State.bwGrant_kept (State.reClock_kept ?_)
    have k : Kept s0 { s with standby := true, tide := { s.tide with final := none },
                              errs := { s.errs with kept := [], summaries := s.errs.kept.foldl pushSummary s.errs.summaries,
                                                    pushed := s.errs.pushed + s.errs.kept.length } } :=
      Kept.build h id id id (fun e => by
        rw [Records.ok_iff] at *
        exact ⟨e.1, foldl_pushSummary_length e.2.1, Nat.zero_le _⟩)
    exact kept_ite (State.setDisc_kept k) k

theorem execStandbyLoss_kept {s0 s : State} (h : Kept s0 s) {main} : KeptO s0 (execStandbyLoss main s) := by
  unfold execStandbyLoss
  repeat' first
    | with_reducible assumption
    | with_reducible refine KeptO.next ?_
    | with_reducible refine State.reClock_kept ?_
    | with_reducible refine State.sliceAborts_kept ?_
    | with_reducible refine State.setDisc_kept ?_
    | with_reducible refine State.powerGone_kept ?_
    | with_reducible refine foldl_kept ?_ ?_
    | with_reducible refine foldl_kept_fst ?_ ?_
    | with_reducible refine foldl_kept_snd ?_ ?_
    | with_reducible refine kept_ite ?_ ?_
    | intro _
    | simp only [Kept.upd]

theorem execHardStop_kept {s0 s : State} (h : Kept s0 s) {cause} : KeptO s0 (execHardStop cause s) := by
  have k : Kept s0 (s.railsOff false) := State.railsOff_kept h
  unfold execHardStop
  generalize s.railsOff false = u at k
  refine KeptO.next ?_
  refine State.setFld_kept (State.setFld_kept ?_)
  refine kept_ite ?_ ?_
  · refine Kept.build (Kept.upd.2 k) id id id (fun e => ?_)
    rw [Records.ok_iff] at *
    exact ⟨e.1, pushSummary_length e.2.1 _, e.2.2⟩
  · simp only [Kept.upd]
    exact k

theorem execEnterDry_kept {s0 s : State} (h : Kept s0 s) {mctp} : KeptO s0 (execEnterDry mctp s) := by
  unfold execEnterDry
  repeat' first
    | with_reducible assumption
    | with_reducible refine KeptO.next ?_
    | with_reducible refine State.emit_kept ?_
    | with_reducible refine State.entersDry_kept ?_
    | with_reducible refine foldl_kept ?_ ?_
    | with_reducible refine foldl_kept_fst ?_ ?_
    | with_reducible refine foldl_kept_snd ?_ ?_
    | with_reducible refine kept_ite ?_ ?_

theorem execOrderlyHalt_kept {s0 s : State} (h : Kept s0 s) {page} : KeptO s0 (execOrderlyHalt page s) := by
  unfold execOrderlyHalt
  repeat' first
    | with_reducible assumption
    | with_reducible refine KeptO.next ?_
    | with_reducible refine State.fatalRecord_kept ?_
    | with_reducible refine State.orderlyHalt_kept ?_
    | with_reducible refine State.awake_kept ?_ ?_
    | with_reducible refine foldl_kept ?_ ?_
    | with_reducible refine foldl_kept_fst ?_ ?_
    | with_reducible refine foldl_kept_snd ?_ ?_
    | with_reducible refine kept_ite ?_ ?_
    | intro _

/-! ### Tidewatch -/

theorem State.supFilterWrite_kept {s0 s : State} (h : Kept s0 s) {c v} : Kept s0 (State.supFilterWrite s c v) := by
  unfold State.supFilterWrite
  repeat' first
    | with_reducible assumption
    | with_reducible refine State.ignore_kept ?_
    | with_reducible refine State.wrRw_kept ?_
    | with_reducible refine foldl_kept ?_ ?_
    | with_reducible refine foldl_kept_fst ?_ ?_
    | with_reducible refine foldl_kept_snd ?_ ?_
    | with_reducible refine kept_ite ?_ ?_

theorem State.rowCounts_kept {s0 s : State} (h : Kept s0 s) {r b c} : Kept s0 (State.rowCounts s r b c) := by
  unfold State.rowCounts
  repeat' first
    | with_reducible assumption
    | with_reducible refine foldl_kept ?_ ?_
    | with_reducible refine foldl_kept_fst ?_ ?_
    | with_reducible refine foldl_kept_snd ?_ ?_
    | with_reducible refine kept_ite ?_ ?_
    | intro _
    | simp only [Kept.upd]

theorem State.rowRestarts_kept {s0 s : State} (h : Kept s0 s) {r} : Kept s0 (State.rowRestarts s r) := by
  unfold State.rowRestarts
  repeat' first
    | with_reducible assumption
    | with_reducible refine State.setFld_kept ?_
    | with_reducible refine State.reClock_kept ?_
    | with_reducible refine State.bwGrant_kept ?_
    | with_reducible refine State.rowCounts_kept ?_
    | with_reducible refine foldl_kept ?_ ?_
    | with_reducible refine foldl_kept_fst ?_ ?_
    | with_reducible refine foldl_kept_snd ?_ ?_
    | with_reducible refine kept_ite ?_ ?_

theorem State.supRuleWrite_kept {s0 s : State} (h : Kept s0 s) {reg r v} : Kept s0 (State.supRuleWrite s reg r v)
    := by
  unfold State.supRuleWrite
  repeat' first
    | with_reducible assumption
    | with_reducible refine State.wrRw_kept ?_
    | with_reducible refine State.rowRestarts_kept ?_
    | with_reducible refine State.ignore_kept ?_
    | with_reducible refine foldl_kept ?_ ?_
    | with_reducible refine foldl_kept_fst ?_ ?_
    | with_reducible refine foldl_kept_snd ?_ ?_
    | with_reducible refine kept_ite ?_ ?_

theorem State.spareWay_kept {s0 s : State} (h : Kept s0 s) {set_} : Kept s0 (State.spareWay s set_).2 := by
  unfold State.spareWay
  repeat' first
    | with_reducible assumption
    | with_reducible refine State.noted_kept ?_
    | with_reducible refine State.fieldWrite_kept ?_
    | with_reducible refine State.setFld_kept ?_
    | with_reducible refine State.event_kept ?_
    | with_reducible refine foldl_kept ?_ ?_
    | with_reducible refine foldl_kept_fst ?_ ?_
    | with_reducible refine foldl_kept_snd ?_ ?_
    | with_reducible refine kept_ite ?_ ?_
    | with_reducible refine kept_ite_snd ?_ ?_
    | intro _
    | simp only [Kept.upd]

theorem State.spareWay_kept_eq {s0 s t9 : State} {set_} {y9} (e : State.spareWay s set_ = (y9, t9)) (h : Kept s0 s)
    : Kept s0 t9 := by
  have := State.spareWay_kept h (set_ := set_)
  rw [e] at this
  exact this

theorem State.spareSlice_kept {s0 s : State} (h : Kept s0 s) {h_ k} : Kept s0 (State.spareSlice s h_ k).2 := by
  unfold State.spareSlice
  repeat' first
    | with_reducible assumption
    | with_reducible refine State.event_kept ?_
    | with_reducible refine State.noted_kept ?_
    | with_reducible refine State.fieldWrite_kept ?_
    | with_reducible refine State.setFld_kept ?_
    | with_reducible refine State.writeBackOf_kept ?_
    | with_reducible refine foldl_kept ?_ ?_
    | with_reducible refine foldl_kept_fst ?_ ?_
    | with_reducible refine foldl_kept_snd ?_ ?_
    | with_reducible refine kept_ite ?_ ?_
    | with_reducible refine kept_ite_snd ?_ ?_

theorem State.spareSlice_kept_eq {s0 s t9 : State} {h_ k} {y9} (e : State.spareSlice s h_ k = (y9, t9)) (h : Kept
    s0 s) : Kept s0 t9 := by
  have := State.spareSlice_kept h (h_ := h_) (k := k)
  rw [e] at this
  exact this

theorem State.filterAt_kept {s0 s : State} (h : Kept s0 s) {key} : Kept s0 (State.filterAt s key).2 := by
  unfold State.filterAt
  repeat' first
    | with_reducible assumption
    | with_reducible refine foldl_kept ?_ ?_
    | with_reducible refine foldl_kept_fst ?_ ?_
    | with_reducible refine foldl_kept_snd ?_ ?_
    | with_reducible refine kept_ite ?_ ?_
    | with_reducible refine kept_ite_snd ?_ ?_
    | intro _
    | simp only [Kept.upd]
    | dsimp only
    | split

theorem State.filterAt_kept_eq {s0 s t9 : State} {key} {y9} (e : State.filterAt s key = (y9, t9)) (h : Kept s0 s) :
    Kept s0 t9 := by
  have := State.filterAt_kept h (key := key)
  rw [e] at this
  exact this

theorem State.filterIn_kept {s0 s : State} (h : Kept s0 s) {key n k x} : Kept s0 (State.filterIn s key n k x) := by
  unfold State.filterIn
  repeat' first
    | with_reducible assumption
    | with_reducible refine State.filterAt_kept ?_
    | with_reducible refine State.filterAt_kept_eq (by assumption) ?_
    | with_reducible refine foldl_kept ?_ ?_
    | with_reducible refine foldl_kept_fst ?_ ?_
    | with_reducible refine foldl_kept_snd ?_ ?_
    | with_reducible refine kept_ite ?_ ?_
    | intro _
    | simp only [Kept.upd]

theorem State.lossSeen_kept {s0 s : State} (h : Kept s0 s) {r samples} : Kept s0 (State.lossSeen s r samples) := by
  unfold State.lossSeen
  repeat' first
    | with_reducible assumption
    | with_reducible refine State.lossHalt_kept ?_
    | with_reducible refine State.awake_kept ?_ ?_
    | with_reducible refine foldl_kept ?_ ?_
    | with_reducible refine foldl_kept_fst ?_ ?_
    | with_reducible refine foldl_kept_snd ?_ ?_
    | with_reducible refine kept_ite ?_ ?_
    | intro _

theorem State.mramRead_kept {s0 s : State} (h : Kept s0 s) {off n} : Kept s0 (State.mramRead s off n).2 := by
  unfold State.mramRead
  repeat' first
    | with_reducible assumption
    | with_reducible refine foldl_kept ?_ ?_
    | with_reducible refine foldl_kept_fst ?_ ?_
    | with_reducible refine foldl_kept_snd ?_ ?_
    | with_reducible refine kept_ite ?_ ?_
    | with_reducible refine kept_ite_snd ?_ ?_
    | intro _
    | simp only [Kept.upd]

theorem State.mramRead_kept_eq {s0 s t9 : State} {off n} {y9} (e : State.mramRead s off n = (y9, t9)) (h : Kept s0
    s) : Kept s0 t9 := by
  have := State.mramRead_kept h (off := off) (n := n)
  rw [e] at this
  exact this

theorem State.mramNext_kept {s0 s : State} (h : Kept s0 s) : Kept s0 (State.mramNext s).2 := by
  unfold State.mramNext
  repeat' first
    | with_reducible assumption
    | with_reducible refine State.setFld_kept ?_
    | with_reducible refine State.mramRead_kept ?_

theorem State.mramNext_kept_eq {s0 s t9 : State} {y9} (e : State.mramNext s = (y9, t9)) (h : Kept s0 s) : Kept s0
    t9 := by
  have := State.mramNext_kept h
  rw [e] at this
  exact this

theorem State.ruleActs_kept {s0 s : State} (h : Kept s0 s) {action channel unit} : Kept s0 (State.ruleActs s action
    channel unit).2 := by
  unfold State.ruleActs
  repeat' first
    | with_reducible assumption
    | with_reducible refine State.lossHalt_kept ?_
    | with_reducible refine State.spareWay_kept ?_
    | with_reducible refine State.spareWay_kept_eq (by assumption) ?_
    | with_reducible refine State.spareSlice_kept ?_
    | with_reducible refine State.spareSlice_kept_eq (by assumption) ?_
    | with_reducible refine State.pcBegins_kept ?_
    | with_reducible refine State.pcBegins_kept_eq (by assumption) ?_
    | with_reducible refine State.swapBegins_kept ?_
    | with_reducible refine State.swapBegins_kept_eq (by assumption) ?_
    | with_reducible refine State.orderlyHalt_kept ?_
    | with_reducible refine State.awake_kept ?_ ?_
    | with_reducible refine State.reClock_kept ?_
    | with_reducible refine foldl_kept ?_ ?_
    | with_reducible refine foldl_kept_fst ?_ ?_
    | with_reducible refine foldl_kept_snd ?_ ?_
    | with_reducible refine kept_ite ?_ ?_
    | with_reducible refine kept_ite_snd ?_ ?_
    | intro _
    | simp only [Kept.upd]
    | dsimp only
    | split

theorem State.ruleActs_kept_eq {s0 s t9 : State} {action channel unit} {y9} (e : State.ruleActs s action channel
    unit = (y9, t9)) (h : Kept s0 s) : Kept s0 t9 := by
  have := State.ruleActs_kept h (action := action) (channel := channel) (unit := unit)
  rw [e] at this
  exact this

theorem State.rowFires_kept {s0 s : State} (h : Kept s0 s) {r unit} : Kept s0 (State.rowFires s r unit) := by
  unfold State.rowFires
  repeat' first
    | with_reducible assumption
    | with_reducible refine State.bwGrant_kept ?_
    | with_reducible refine State.ruleActs_kept ?_
    | with_reducible refine State.ruleActs_kept_eq (by assumption) ?_
    | with_reducible refine State.event_kept ?_
    | with_reducible refine State.wr_kept ?_
    | with_reducible refine State.setFld_kept ?_
    | with_reducible refine State.rowCounts_kept ?_
    | with_reducible refine foldl_kept ?_ ?_
    | with_reducible refine foldl_kept_fst ?_ ?_
    | with_reducible refine foldl_kept_snd ?_ ?_
    | with_reducible refine kept_ite ?_ ?_
    | intro _
    | simp only [Kept.upd]

theorem State.rowReleased_kept {s0 s : State} (h : Kept s0 s) {r} : Kept s0 (State.rowReleased s r) := by
  unfold State.rowReleased
  repeat' first
    | with_reducible assumption
    | with_reducible refine State.reClock_kept ?_
    | with_reducible refine State.bwGrant_kept ?_
    | with_reducible refine State.setFld_kept ?_
    | with_reducible refine State.rowCounts_kept ?_
    | with_reducible refine State.event_kept ?_

theorem State.rowMeets_kept {s0 s : State} (h : Kept s0 s) {unit r} : Kept s0 (State.rowMeets s unit r) := by
  unfold State.rowMeets
  repeat' first
    | with_reducible assumption
    | with_reducible refine State.rowFires_kept ?_
    | with_reducible refine State.rowCounts_kept ?_
    | with_reducible refine State.rowReleased_kept ?_
    | with_reducible refine foldl_kept ?_ ?_
    | with_reducible refine foldl_kept_fst ?_ ?_
    | with_reducible refine foldl_kept_snd ?_ ?_
    | with_reducible refine kept_ite ?_ ?_

theorem State.sampleIn_kept {s0 s : State} (h : Kept s0 s) {c unit v} : Kept s0 (State.sampleIn s c unit v) := by
  unfold State.sampleIn
  repeat' first
    | with_reducible assumption
    | with_reducible refine State.rowMeets_kept ?_
    | with_reducible refine State.wr_kept ?_
    | with_reducible refine State.filterIn_kept ?_
    | with_reducible refine foldl_kept ?_ ?_
    | with_reducible refine foldl_kept_fst ?_ ?_
    | with_reducible refine foldl_kept_snd ?_ ?_
    | with_reducible refine kept_ite ?_ ?_
    | intro _

theorem State.samplesIn_kept {s0 s : State} (h : Kept s0 s) {r samples unit} : Kept s0 (State.samplesIn s r samples
    unit) := by
  unfold State.samplesIn
  repeat' first
    | with_reducible assumption
    | with_reducible refine State.sampleIn_kept ?_
    | with_reducible refine State.lossSeen_kept ?_
    | with_reducible refine foldl_kept ?_ ?_
    | with_reducible refine foldl_kept_fst ?_ ?_
    | with_reducible refine foldl_kept_snd ?_ ?_
    | with_reducible refine kept_ite ?_ ?_
    | intro _

theorem execPldmSensorRead_kept {s0 s : State} (h : Kept s0 s) {c} : KeptO s0 (execPldmSensorRead c s) := by
  unfold execPldmSensorRead
  repeat' first
    | with_reducible assumption
    | with_reducible refine KeptO.next ?_
    | with_reducible refine State.emit_kept ?_
    | with_reducible refine foldl_kept ?_ ?_
    | with_reducible refine foldl_kept_fst ?_ ?_
    | with_reducible refine foldl_kept_snd ?_ ?_
    | with_reducible refine kept_ite ?_ ?_

theorem execPldmFileRead_kept {s0 s : State} (h : Kept s0 s) {off len} : KeptO s0 (execPldmFileRead off len s) := by
  unfold execPldmFileRead
  repeat' first
    | with_reducible assumption
    | with_reducible refine KeptO.next ?_
    | with_reducible refine State.mramRead_kept ?_
    | with_reducible refine State.mramRead_kept_eq (by assumption) ?_
    | with_reducible refine State.emit_kept ?_
    | with_reducible refine foldl_kept ?_ ?_
    | with_reducible refine foldl_kept_fst ?_ ?_
    | with_reducible refine foldl_kept_snd ?_ ?_
    | with_reducible refine kept_ite ?_ ?_

theorem execRuleRelease_kept {s0 s : State} (h : Kept s0 s) {r samples unit} : KeptO s0 (execRuleRelease r samples
    unit s) := by
  unfold execRuleRelease
  repeat' first
    | with_reducible assumption
    | with_reducible refine KeptO.next ?_
    | with_reducible refine State.samplesIn_kept ?_

theorem execRuleFire_kept {s0 s : State} (h : Kept s0 s) {r samples unit} : KeptO s0 (execRuleFire r samples unit
    s) := by
  unfold execRuleFire
  repeat' first
    | with_reducible assumption
    | with_reducible refine KeptO.next ?_
    | with_reducible refine State.samplesIn_kept ?_

theorem execSupMramDataRead_kept {s0 s : State} (h : Kept s0 s) : KeptO s0 (execSupMramDataRead s) := by
  unfold execSupMramDataRead
  repeat' first
    | with_reducible assumption
    | with_reducible refine KeptO.next ?_
    | with_reducible refine State.emit_kept ?_
    | with_reducible refine State.mramNext_kept ?_
    | with_reducible refine State.mramNext_kept_eq (by assumption) ?_
    | with_reducible refine State.awake_kept ?_ ?_
    | with_reducible refine foldl_kept ?_ ?_
    | with_reducible refine foldl_kept_fst ?_ ?_
    | with_reducible refine foldl_kept_snd ?_ ?_
    | with_reducible refine kept_ite ?_ ?_
    | intro _

/-! ### Firmware -/

theorem State.setFw_kept {s0 s : State} (h : Kept s0 s) {n x} : Kept s0 (State.setFw s n x) := by
  unfold State.setFw
  repeat' first
    | with_reducible assumption
    | with_reducible refine foldl_kept ?_ ?_
    | with_reducible refine foldl_kept_fst ?_ ?_
    | with_reducible refine foldl_kept_snd ?_ ?_
    | with_reducible refine kept_ite ?_ ?_
    | intro _
    | simp only [Kept.upd]

theorem State.setFwState_kept {s0 s : State} (h : Kept s0 s) {n x} : Kept s0 (State.setFwState s n x) := by
  unfold State.setFwState
  repeat' first
    | with_reducible assumption
    | with_reducible refine State.setFld_kept ?_

theorem State.fwRefused_kept {s0 s : State} (h : Kept s0 s) {n} : Kept s0 (State.fwRefused s n) := by
  unfold State.fwRefused
  repeat' first
    | with_reducible assumption
    | with_reducible refine State.setFwState_kept ?_
    | with_reducible refine State.event_kept ?_

theorem State.fwBegins_kept {s0 s : State} (h : Kept s0 s) {n target revert formatOk} : Kept s0 (State.fwBegins s n
    target revert formatOk) := by
  unfold State.fwBegins
  repeat' first
    | with_reducible assumption
    | with_reducible refine State.setFw_kept ?_
    | with_reducible refine State.setFwState_kept ?_
    | with_reducible refine State.fwRefused_kept ?_
    | with_reducible refine State.ignore_kept ?_
    | with_reducible refine foldl_kept ?_ ?_
    | with_reducible refine foldl_kept_fst ?_ ?_
    | with_reducible refine foldl_kept_snd ?_ ?_
    | with_reducible refine kept_ite ?_ ?_

theorem State.fwCtrlWrite_kept {s0 s : State} (h : Kept s0 s) {v} : Kept s0 (State.fwCtrlWrite s v) := by
  unfold State.fwCtrlWrite
  repeat' first
    | with_reducible assumption
    | with_reducible refine State.ignore_kept ?_
    | with_reducible refine State.fwBegins_kept ?_
    | with_reducible refine State.drawBit_kept ?_
    | with_reducible refine State.drawBit_kept_eq (by assumption) ?_
    | with_reducible refine foldl_kept ?_ ?_
    | with_reducible refine foldl_kept_fst ?_ ?_
    | with_reducible refine foldl_kept_snd ?_ ?_
    | with_reducible refine kept_ite ?_ ?_
    | intro _
    | dsimp only
    | split

theorem State.fwSwaps_kept {s0 s : State} (h : Kept s0 s) {n} : Kept s0 (State.fwSwaps s n) := by
  unfold State.fwSwaps
  repeat' first
    | with_reducible assumption
    | with_reducible refine State.event_kept ?_
    | with_reducible refine State.setFw_kept ?_
    | with_reducible refine State.setFld_kept ?_
    | with_reducible refine State.setFwState_kept ?_
    | with_reducible refine foldl_kept ?_ ?_
    | with_reducible refine foldl_kept_fst ?_ ?_
    | with_reducible refine foldl_kept_snd ?_ ?_
    | with_reducible refine kept_ite ?_ ?_

theorem State.imageIn_kept {s0 s : State} (h : Kept s0 s) {n img} : Kept s0 (State.imageIn s n img).2 := by
  unfold State.imageIn
  repeat' first
    | with_reducible assumption
    | with_reducible refine State.fwRefused_kept ?_
    | with_reducible refine State.setFwState_kept ?_
    | with_reducible refine State.setFld_kept ?_
    | with_reducible refine State.setFw_kept ?_
    | with_reducible refine foldl_kept ?_ ?_
    | with_reducible refine foldl_kept_fst ?_ ?_
    | with_reducible refine foldl_kept_snd ?_ ?_
    | with_reducible refine kept_ite ?_ ?_
    | with_reducible refine kept_ite_snd ?_ ?_

theorem State.imageIn_kept_eq {s0 s t9 : State} {n img} {y9} (e : State.imageIn s n img = (y9, t9)) (h : Kept s0 s)
    : Kept s0 t9 := by
  have := State.imageIn_kept h (n := n) (img := img)
  rw [e] at this
  exact this

theorem execFwHealthDeclared_kept {s0 s : State} (h : Kept s0 s) {n} : KeptO s0 (execFwHealthDeclared n s) := by
  unfold execFwHealthDeclared
  repeat' first
    | with_reducible assumption
    | with_reducible refine KeptO.next ?_
    | with_reducible refine State.fieldWrite_kept ?_
    | with_reducible refine State.setFw_kept ?_
    | with_reducible refine State.awake_kept ?_ ?_
    | with_reducible refine foldl_kept ?_ ?_
    | with_reducible refine foldl_kept_fst ?_ ?_
    | with_reducible refine foldl_kept_snd ?_ ?_
    | with_reducible refine kept_ite ?_ ?_
    | intro _
    | dsimp only
    | split

theorem execPldmFirmwareUpdate_kept {s0 s : State} (h : Kept s0 s) {n img formatOk} : KeptO s0
    (execPldmFirmwareUpdate n img formatOk s) := by
  unfold execPldmFirmwareUpdate
  repeat' first
    | with_reducible assumption
    | with_reducible refine KeptO.next ?_
    | with_reducible refine State.fwBegins_kept ?_
    | with_reducible refine State.imageIn_kept ?_
    | with_reducible refine State.imageIn_kept_eq (by assumption) ?_
    | with_reducible refine State.emit_kept ?_
    | with_reducible refine foldl_kept ?_ ?_
    | with_reducible refine foldl_kept_fst ?_ ?_
    | with_reducible refine foldl_kept_snd ?_ ?_
    | with_reducible refine kept_ite ?_ ?_
    | intro _
    | simp only [Kept.upd]

theorem execFwHealthTimeout_kept {s0 s : State} (h : Kept s0 s) {n} : KeptO s0 (execFwHealthTimeout n s) := by
  unfold execFwHealthTimeout
  repeat' first
    | with_reducible assumption
    | with_reducible refine KeptO.next ?_
    | with_reducible refine State.setFw_kept ?_
    | with_reducible refine State.setFwState_kept ?_
    | with_reducible refine State.fwSwaps_kept ?_
    | with_reducible refine State.awake_kept ?_ ?_
    | with_reducible refine foldl_kept ?_ ?_
    | with_reducible refine foldl_kept_fst ?_ ?_
    | with_reducible refine foldl_kept_snd ?_ ?_
    | with_reducible refine kept_ite ?_ ?_
    | intro _
    | dsimp only
    | split

theorem execFwSwap_kept {s0 s : State} (h : Kept s0 s) {n} : KeptO s0 (execFwSwap n s) := by
  unfold execFwSwap
  repeat' first
    | with_reducible assumption
    | with_reducible refine KeptO.next ?_
    | with_reducible refine State.fwSwaps_kept ?_
    | with_reducible refine State.awake_kept ?_ ?_
    | with_reducible refine foldl_kept ?_ ?_
    | with_reducible refine foldl_kept_fst ?_ ?_
    | with_reducible refine foldl_kept_snd ?_ ?_
    | with_reducible refine kept_ite ?_ ?_
    | intro _

theorem execFwRevert_kept {s0 s : State} (h : Kept s0 s) {n target} : KeptO s0 (execFwRevert n target s) := by
  unfold execFwRevert
  repeat' first
    | with_reducible assumption
    | with_reducible refine KeptO.next ?_
    | with_reducible refine State.fwBegins_kept ?_
    | with_reducible refine State.awake_kept ?_ ?_
    | with_reducible refine foldl_kept ?_ ?_
    | with_reducible refine foldl_kept_fst ?_ ?_
    | with_reducible refine foldl_kept_snd ?_ ?_
    | with_reducible refine kept_ite ?_ ?_
    | intro _

theorem execFwActivate_kept {s0 s : State} (h : Kept s0 s) {n target formatOk} : KeptO s0 (execFwActivate n target
    formatOk s) := by
  unfold execFwActivate
  repeat' first
    | with_reducible assumption
    | with_reducible refine KeptO.next ?_
    | with_reducible refine State.fwBegins_kept ?_
    | with_reducible refine State.awake_kept ?_ ?_
    | with_reducible refine foldl_kept ?_ ?_
    | with_reducible refine foldl_kept_fst ?_ ?_
    | with_reducible refine foldl_kept_snd ?_ ?_
    | with_reducible refine kept_ite ?_ ?_
    | intro _

/-! ### SelfTest -/

theorem State.marginBegins_kept {s0 s : State} (h : Kept s0 s) {op v} : Kept s0 (State.marginBegins s op v) := by
  unfold State.marginBegins
  repeat' first
    | with_reducible assumption
    | with_reducible refine State.setFld_kept ?_
    | with_reducible refine State.wrRw_kept ?_
    | with_reducible refine State.wr_kept ?_
    | with_reducible refine State.ignore_kept ?_
    | with_reducible refine foldl_kept ?_ ?_
    | with_reducible refine foldl_kept_fst ?_ ?_
    | with_reducible refine foldl_kept_snd ?_ ?_
    | with_reducible refine kept_ite ?_ ?_
    | intro _
    | simp only [Kept.upd]

theorem State.marginCtrlWrite_kept {s0 s : State} (h : Kept s0 s) {v} : Kept s0 (State.marginCtrlWrite s v) := by
  unfold State.marginCtrlWrite
  repeat' first
    | with_reducible assumption
    | with_reducible refine State.marginBegins_kept ?_
    | with_reducible refine State.wrRw_kept ?_
    | with_reducible refine State.ignore_kept ?_
    | with_reducible refine foldl_kept ?_ ?_
    | with_reducible refine foldl_kept_fst ?_ ?_
    | with_reducible refine foldl_kept_snd ?_ ?_
    | with_reducible refine kept_ite ?_ ?_
    | intro _
    | simp only [Kept.upd]
    | dsimp only
    | split

theorem State.stCfgWrite_kept {s0 s : State} (h : Kept s0 s) {v} : Kept s0 (State.stCfgWrite s v) := by
  unfold State.stCfgWrite
  repeat' first
    | with_reducible assumption
    | with_reducible refine State.wrRw_kept ?_
    | with_reducible refine State.ignore_kept ?_
    | with_reducible refine foldl_kept ?_ ?_
    | with_reducible refine foldl_kept_fst ?_ ?_
    | with_reducible refine foldl_kept_snd ?_ ?_
    | with_reducible refine kept_ite ?_ ?_

theorem State.fullBegins_kept {s0 s : State} (h : Kept s0 s) : Kept s0 (State.fullBegins s) := by
  unfold State.fullBegins
  repeat' first
    | with_reducible assumption
    | with_reducible refine State.setFld_kept ?_
    | with_reducible refine State.reMode_kept ?_
    | with_reducible refine State.sliceAborts_kept ?_
    | with_reducible refine State.ignore_kept ?_
    | with_reducible refine foldl_kept ?_ ?_
    | with_reducible refine foldl_kept_fst ?_ ?_
    | with_reducible refine foldl_kept_snd ?_ ?_
    | with_reducible refine kept_ite ?_ ?_
    | intro _
    | simp only [Kept.upd]

theorem State.stCtrlWrite_kept {s0 s : State} (h : Kept s0 s) {v} : Kept s0 (State.stCtrlWrite s v) := by
  unfold State.stCtrlWrite
  repeat' first
    | with_reducible assumption
    | with_reducible refine State.fullBegins_kept ?_
    | with_reducible refine State.sliceAborts_kept ?_
    | with_reducible refine State.wrRw_kept ?_
    | with_reducible refine State.clearCounters_kept ?_
    | with_reducible refine State.ignore_kept ?_
    | with_reducible refine foldl_kept ?_ ?_
    | with_reducible refine foldl_kept_fst ?_ ?_
    | with_reducible refine foldl_kept_snd ?_ ?_
    | with_reducible refine kept_ite ?_ ?_
    | intro _

theorem State.testFails_kept {s0 s : State} (h : Kept s0 s) {kind unit} : Kept s0 (State.testFails s kind unit) := by
  unfold State.testFails
  repeat' first
    | with_reducible assumption
    | with_reducible refine State.report_kept ?_
    | with_reducible refine State.event_kept ?_

theorem State.blocksFail_kept {s0 s : State} (h : Kept s0 s) {b} : Kept s0 (State.blocksFail s b) := by
  unfold State.blocksFail
  repeat' first
    | with_reducible assumption
    | with_reducible refine State.event_kept ?_
    | with_reducible refine State.spareWay_kept ?_
    | with_reducible refine State.spareWay_kept_eq (by assumption) ?_
    | with_reducible refine State.spareSlice_kept ?_
    | with_reducible refine State.spareSlice_kept_eq (by assumption) ?_
    | with_reducible refine State.fieldWrite_kept ?_
    | with_reducible refine State.testFails_kept ?_
    | with_reducible refine foldl_kept ?_ ?_
    | with_reducible refine foldl_kept_fst ?_ ?_
    | with_reducible refine foldl_kept_snd ?_ ?_
    | with_reducible refine kept_ite ?_ ?_
    | intro _
    | simp only [Kept.upd]

theorem State.portFails_kept {s0 s : State} (h : Kept s0 s) {kind unit} : Kept s0 (State.portFails s kind unit) := by
  unfold State.portFails
  repeat' first
    | with_reducible assumption
    | with_reducible refine State.setTwState_kept ?_
    | with_reducible refine State.event_kept ?_
    | with_reducible refine State.cxlLost_kept ?_
    | with_reducible refine State.ethDown_kept ?_
    | with_reducible refine State.testFails_kept ?_
    | with_reducible refine foldl_kept ?_ ?_
    | with_reducible refine foldl_kept_fst ?_ ?_
    | with_reducible refine foldl_kept_snd ?_ ?_
    | with_reducible refine kept_ite ?_ ?_
    | intro _
    | simp only [Kept.upd]

theorem State.clearCore_kept {s0 s : State} (h : Kept s0 s) {c} : Kept s0 (State.clearCore s c) := by
  unfold State.clearCore
  repeat' first
    | with_reducible assumption
    | with_reducible refine State.setCore_kept ?_

theorem State.clearOnChip_kept {s0 s : State} (h : Kept s0 s) : Kept s0 (State.clearOnChip s) := by
  unfold State.clearOnChip
  exact Kept.build (foldl_kept (fun t x k => State.clearCore_kept k) h) (fun w => FMap.wf_filter w _) id id id

theorem State.coreFails_kept {s0 s : State} (h : Kept s0 s) {c} : Kept s0 (State.coreFails s c) := by
  unfold State.coreFails
  repeat' first
    | with_reducible assumption
    | with_reducible refine State.retireCore_kept ?_
    | with_reducible refine State.swapBegins_kept ?_
    | with_reducible refine State.swapBegins_kept_eq (by assumption) ?_
    | with_reducible refine foldl_kept ?_ ?_
    | with_reducible refine foldl_kept_fst ?_ ?_
    | with_reducible refine foldl_kept_snd ?_ ?_
    | with_reducible refine kept_ite ?_ ?_

theorem State.marginOver_kept {s0 s : State} (h : Kept s0 s) : Kept s0 (State.marginOver s) := by
  unfold State.marginOver
  repeat' first
    | with_reducible assumption
    | with_reducible refine State.setFld_kept ?_
    | with_reducible refine foldl_kept ?_ ?_
    | with_reducible refine foldl_kept_fst ?_ ?_
    | with_reducible refine foldl_kept_snd ?_ ?_
    | with_reducible refine kept_ite ?_ ?_
    | intro _
    | simp only [Kept.upd]

theorem State.loopEnds_kept {s0 s : State} (h : Kept s0 s) {v fail} : Kept s0 (State.loopEnds s v fail) := by
  unfold State.loopEnds
  repeat' first
    | with_reducible assumption
    | with_reducible refine State.portFails_kept ?_
    | with_reducible refine State.testFails_kept ?_
    | with_reducible refine State.wavelengthFails_kept ?_
    | with_reducible refine State.marginOver_kept ?_
    | with_reducible refine State.wr_kept ?_
    | with_reducible refine foldl_kept ?_ ?_
    | with_reducible refine foldl_kept_fst ?_ ?_
    | with_reducible refine foldl_kept_snd ?_ ?_
    | with_reducible refine kept_ite ?_ ?_
    | intro _
    | simp only [Kept.upd]
    | dsimp only
    | split

theorem State.marginEnds_kept {s0 s : State} (h : Kept s0 s) {v lo hi height} : Kept s0 (State.marginEnds s v lo hi
    height) := by
  unfold State.marginEnds
  repeat' first
    | with_reducible assumption
    | with_reducible refine State.event_kept ?_
    | with_reducible refine State.marginOver_kept ?_
    | with_reducible refine State.wr_kept ?_
    | with_reducible refine foldl_kept ?_ ?_
    | with_reducible refine foldl_kept_fst ?_ ?_
    | with_reducible refine foldl_kept_snd ?_ ?_
    | with_reducible refine kept_ite ?_ ?_

theorem State.marginStep_kept {s0 s : State} (h : Kept s0 s) {v pass} : Kept s0 (State.marginStep s v pass) := by
  unfold State.marginStep
  repeat' first
    | with_reducible assumption
    | with_reducible refine foldl_kept ?_ ?_
    | with_reducible refine foldl_kept_fst ?_ ?_
    | with_reducible refine foldl_kept_snd ?_ ?_
    | with_reducible refine kept_ite ?_ ?_
    | intro _
    | simp only [Kept.upd]
    | dsimp only
    | split

theorem State.overdueNow_kept {s0 s : State} (h : Kept s0 s) : Kept s0 (State.overdueNow s) := by
  unfold State.overdueNow
  repeat' first
    | with_reducible assumption
    | with_reducible refine State.event_kept ?_
    | with_reducible refine foldl_kept ?_ ?_
    | with_reducible refine foldl_kept_fst ?_ ?_
    | with_reducible refine foldl_kept_snd ?_ ?_
    | with_reducible refine kept_ite ?_ ?_
    | intro _
    | simp only [Kept.upd]

theorem State.physFails_kept {s0 s : State} (h : Kept s0 s) {p kind} : Kept s0 (State.physFails s p kind) := by
  unfold State.physFails
  repeat' first
    | with_reducible assumption
    | with_reducible refine State.fieldWrite_kept ?_
    | with_reducible refine State.coreFails_kept ?_
    | with_reducible refine State.testFails_kept ?_
    | with_reducible refine State.setFld_kept ?_
    | with_reducible refine foldl_kept ?_ ?_
    | with_reducible refine foldl_kept_fst ?_ ?_
    | with_reducible refine foldl_kept_snd ?_ ?_
    | with_reducible refine kept_ite ?_ ?_
    | intro _
    | simp only [Kept.upd]
    | dsimp only
    | split

theorem State.slicePassed_kept {s0 s : State} (h : Kept s0 s) {p k} : Kept s0 (State.slicePassed s p k) := by
  unfold State.slicePassed
  repeat' first
    | with_reducible assumption
    | with_reducible refine State.wr_kept ?_
    | with_reducible refine foldl_kept ?_ ?_
    | with_reducible refine foldl_kept_fst ?_ ?_
    | with_reducible refine foldl_kept_snd ?_ ?_
    | with_reducible refine kept_ite ?_ ?_
    | intro _
    | simp only [Kept.upd]

theorem State.sweepEnds_kept {s0 s : State} (h : Kept s0 s) {v lo hi height} : Kept s0 (State.sweepEnds s v lo hi
    height) := by
  unfold State.sweepEnds
  repeat' first
    | with_reducible assumption
    | with_reducible refine State.marginEnds_kept ?_
    | with_reducible refine foldl_kept ?_ ?_
    | with_reducible refine foldl_kept_fst ?_ ?_
    | with_reducible refine foldl_kept_snd ?_ ?_
    | with_reducible refine kept_ite ?_ ?_

theorem execReferenceCheck_kept {s0 s : State} (h : Kept s0 s) {bad} : KeptO s0 (execReferenceCheck bad s) := by
  unfold execReferenceCheck
  repeat' first
    | with_reducible assumption
    | with_reducible refine KeptO.next ?_
    | with_reducible refine State.portFails_kept ?_
    | with_reducible refine State.physFails_kept ?_
    | with_reducible refine State.awake_kept ?_ ?_
    | with_reducible refine State.testFails_kept ?_
    | with_reducible refine State.bump_kept ?_
    | with_reducible refine foldl_kept ?_ ?_
    | with_reducible refine foldl_kept_fst ?_ ?_
    | with_reducible refine foldl_kept_snd ?_ ?_
    | with_reducible refine kept_ite ?_ ?_
    | intro _
    | dsimp only
    | split

theorem execLoopback_kept {s0 s : State} (h : Kept s0 s) {x} : KeptO s0 (execLoopback x s) := by
  unfold execLoopback
  repeat' first
    | with_reducible assumption
    | with_reducible refine KeptO.next ?_
    | with_reducible refine State.loopEnds_kept ?_
    | with_reducible refine State.marginBegins_kept ?_
    | with_reducible refine State.awake_kept ?_ ?_
    | with_reducible refine foldl_kept ?_ ?_
    | with_reducible refine foldl_kept_fst ?_ ?_
    | with_reducible refine foldl_kept_snd ?_ ?_
    | with_reducible refine kept_ite ?_ ?_
    | intro _
    | simp only [Kept.upd]
    | dsimp only
    | split

theorem execMarginSweep_kept {s0 s : State} (h : Kept s0 s) {x} : KeptO s0 (execMarginSweep x s) := by
  unfold execMarginSweep
  repeat' first
    | with_reducible assumption
    | with_reducible refine KeptO.next ?_
    | with_reducible refine State.sweepEnds_kept ?_
    | with_reducible refine State.marginStep_kept ?_
    | with_reducible refine State.marginBegins_kept ?_
    | with_reducible refine State.awake_kept ?_ ?_
    | with_reducible refine foldl_kept ?_ ?_
    | with_reducible refine foldl_kept_fst ?_ ?_
    | with_reducible refine foldl_kept_snd ?_ ?_
    | with_reducible refine kept_ite ?_ ?_
    | intro _
    | simp only [Kept.upd]
    | dsimp only
    | split

theorem execStFullDone_kept {s0 s : State} (h : Kept s0 s) {bad} : KeptO s0 (execStFullDone bad s) := by
  unfold execStFullDone
  repeat' first
    | with_reducible assumption
    | with_reducible refine KeptO.next ?_
    | with_reducible refine State.portFails_kept ?_
    | with_reducible refine State.testFails_kept ?_
    | with_reducible refine State.wavelengthFails_kept ?_
    | with_reducible refine State.physFails_kept ?_
    | with_reducible refine State.blocksFail_kept ?_
    | with_reducible refine State.reMode_kept ?_
    | with_reducible refine State.event_kept ?_
    | with_reducible refine State.bump_kept ?_
    | with_reducible refine State.setFld_kept ?_
    | with_reducible refine State.clearOnChip_kept ?_
    | with_reducible refine State.awake_kept ?_ ?_
    | with_reducible refine foldl_kept ?_ ?_
    | with_reducible refine foldl_kept_fst ?_ ?_
    | with_reducible refine foldl_kept_snd ?_ ?_
    | with_reducible refine kept_ite ?_ ?_
    | intro _
    | simp only [Kept.upd]
    | dsimp only
    | split

theorem execFullTest_kept {s0 s : State} (h : Kept s0 s) : KeptO s0 (execFullTest s) := by
  unfold execFullTest
  repeat' first
    | with_reducible assumption
    | with_reducible refine KeptO.next ?_
    | with_reducible refine State.fullBegins_kept ?_
    | with_reducible refine State.awake_kept ?_ ?_
    | with_reducible refine foldl_kept ?_ ?_
    | with_reducible refine foldl_kept_fst ?_ ?_
    | with_reducible refine foldl_kept_snd ?_ ?_
    | with_reducible refine kept_ite ?_ ?_
    | intro _

theorem execSliceAbort_kept {s0 s : State} (h : Kept s0 s) {p} : KeptO s0 (execSliceAbort p s) := by
  unfold execSliceAbort
  repeat' first
    | with_reducible assumption
    | with_reducible refine KeptO.next ?_
    | with_reducible refine State.sliceAborts_kept ?_
    | with_reducible refine State.awake_kept ?_ ?_
    | with_reducible refine foldl_kept ?_ ?_
    | with_reducible refine foldl_kept_fst ?_ ?_
    | with_reducible refine foldl_kept_snd ?_ ?_
    | with_reducible refine kept_ite ?_ ?_
    | intro _

theorem execSliceComplete_kept {s0 s : State} (h : Kept s0 s) {p pass} : KeptO s0 (execSliceComplete p pass s) := by
  unfold execSliceComplete
  repeat' first
    | with_reducible assumption
    | with_reducible refine KeptO.next ?_
    | with_reducible refine State.physFails_kept ?_
    | with_reducible refine State.slicePassed_kept ?_
    | with_reducible refine State.sliceOver_kept ?_
    | with_reducible refine State.bump_kept ?_
    | with_reducible refine State.awake_kept ?_ ?_
    | with_reducible refine foldl_kept ?_ ?_
    | with_reducible refine foldl_kept_fst ?_ ?_
    | with_reducible refine foldl_kept_snd ?_ ?_
    | with_reducible refine kept_ite ?_ ?_
    | intro _
    | simp only [Kept.upd]
    | dsimp only
    | split

theorem execSelfTestSlice_kept {s0 s : State} (h : Kept s0 s) {p kind} : KeptO s0 (execSelfTestSlice p kind s) := by
  unfold execSelfTestSlice
  repeat' first
    | with_reducible assumption
    | with_reducible refine KeptO.next ?_
    | with_reducible refine State.sliceBits_kept ?_
    | with_reducible refine State.awake_kept ?_ ?_
    | with_reducible refine foldl_kept ?_ ?_
    | with_reducible refine foldl_kept_fst ?_ ?_
    | with_reducible refine foldl_kept_snd ?_ ?_
    | with_reducible refine kept_ite ?_ ?_
    | intro _
    | simp only [Kept.upd]

/-! ### Boot -/

theorem State.bootFails_kept {s0 s : State} (h : Kept s0 s) {check} : Kept s0 (State.bootFails s check) := by
  unfold State.bootFails
  repeat' first
    | with_reducible assumption
    | with_reducible refine State.setFld_kept ?_
    | with_reducible refine foldl_kept ?_ ?_
    | with_reducible refine foldl_kept_fst ?_ ?_
    | with_reducible refine foldl_kept_snd ?_ ?_
    | with_reducible refine kept_ite ?_ ?_
    | intro _
    | simp only [Kept.upd]

theorem State.bootBank_kept {s0 s : State} (h : Kept s0 s) {f n} : Kept s0 (State.bootBank s f n) := by
  unfold State.bootBank
  repeat' first
    | with_reducible assumption
    | with_reducible refine State.bootFails_kept ?_
    | with_reducible refine State.setFld_kept ?_
    | with_reducible refine foldl_kept ?_ ?_
    | with_reducible refine foldl_kept_fst ?_ ?_
    | with_reducible refine foldl_kept_snd ?_ ?_
    | with_reducible refine kept_ite ?_ ?_

theorem State.bootCoreFails_kept {s0 s : State} (h : Kept s0 s) {kind p} : Kept s0 (State.bootCoreFails kind s p)
    := by
  unfold State.bootCoreFails
  repeat' first
    | with_reducible assumption
    | with_reducible refine State.setCore_kept ?_
    | with_reducible refine State.testFails_kept ?_
    | with_reducible refine State.setFld_kept ?_
    | with_reducible refine foldl_kept ?_ ?_
    | with_reducible refine foldl_kept_fst ?_ ?_
    | with_reducible refine foldl_kept_snd ?_ ?_
    | with_reducible refine kept_ite ?_ ?_
    | intro _
    | simp only [Kept.upd]
    | dsimp only
    | split

theorem State.bootCores_kept {s0 s : State} (h : Kept s0 s) {bad} : Kept s0 (State.bootCores s bad) := by
  unfold State.bootCores
  repeat' first
    | with_reducible assumption
    | with_reducible refine State.fieldWrite_kept ?_
    | with_reducible refine State.bootCoreFails_kept ?_
    | with_reducible refine foldl_kept ?_ ?_
    | with_reducible refine foldl_kept_fst ?_ ?_
    | with_reducible refine foldl_kept_snd ?_ ?_
    | with_reducible refine kept_ite ?_ ?_
    | intro _

theorem State.bootDebug_kept {s0 s : State} (h : Kept s0 s) : Kept s0 (State.bootDebug s) := by
  unfold State.bootDebug
  repeat' first
    | with_reducible assumption
    | with_reducible refine State.setFld_kept ?_
    | with_reducible refine State.wr_kept ?_
    | with_reducible refine foldl_kept ?_ ?_
    | with_reducible refine foldl_kept_fst ?_ ?_
    | with_reducible refine foldl_kept_snd ?_ ?_
    | with_reducible refine kept_ite ?_ ?_
    | intro _
    | simp only [Kept.upd]

theorem State.emptyTables_kept {s0 s : State} (h : Kept s0 s) : Kept s0 (State.emptyTables s) := by
  unfold State.emptyTables
  repeat' first
    | with_reducible assumption
    | with_reducible refine foldl_kept ?_ ?_
    | with_reducible refine foldl_kept_fst ?_ ?_
    | with_reducible refine foldl_kept_snd ?_ ?_
    | with_reducible refine kept_ite ?_ ?_
    | intro _
    | simp only [Kept.upd]

theorem State.bootDone_kept {s0 s : State} (h : Kept s0 s) {cold digestOk} : Kept s0 (State.bootDone s cold
    digestOk) := by
  unfold State.bootDone
  repeat' first
    | with_reducible assumption
    | with_reducible refine State.reClock_kept ?_
    | with_reducible refine State.bwGrant_kept ?_
    | with_reducible refine State.bumpFree_kept ?_
    | with_reducible refine State.bumpAllFree_kept ?_
    | with_reducible refine State.draw_kept ?_
    | with_reducible refine State.draw_kept_eq (by assumption) ?_
    | with_reducible refine State.wr_kept ?_
    | with_reducible refine State.setFld_kept ?_
    | with_reducible refine State.emptyTables_kept ?_
    | with_reducible refine State.event_kept ?_
    | with_reducible refine foldl_kept ?_ ?_
    | with_reducible refine foldl_kept_fst ?_ ?_
    | with_reducible refine foldl_kept_snd ?_ ?_
    | with_reducible refine kept_ite ?_ ?_
    | intro _
    | simp only [Kept.upd]

theorem State.bootLinks_kept {s0 s : State} (h : Kept s0 s) {b} : Kept s0 (State.bootLinks s b) := by
  unfold State.bootLinks
  repeat' first
    | with_reducible assumption
    | with_reducible refine State.portFails_kept ?_
    | with_reducible refine State.testFails_kept ?_
    | with_reducible refine State.setFld_kept ?_
    | with_reducible refine foldl_kept ?_ ?_
    | with_reducible refine foldl_kept_fst ?_ ?_
    | with_reducible refine foldl_kept_snd ?_ ?_
    | with_reducible refine kept_ite ?_ ?_
    | intro _

theorem State.bootOwner_kept {s0 s : State} (h : Kept s0 s) : Kept s0 (State.bootOwner s) := by
  unfold State.bootOwner
  repeat' first
    | with_reducible assumption
    | with_reducible refine State.setFld_kept ?_
    | with_reducible refine foldl_kept ?_ ?_
    | with_reducible refine foldl_kept_fst ?_ ?_
    | with_reducible refine foldl_kept_snd ?_ ?_
    | with_reducible refine kept_ite ?_ ?_
    | intro _
    | simp only [Kept.upd]

theorem State.repairHbm_kept {s0 s : State} (h : Kept s0 s) : Kept s0 (State.repairHbm s) := by
  unfold State.repairHbm
  repeat' first
    | with_reducible assumption
    | with_reducible refine foldl_kept ?_ ?_
    | with_reducible refine foldl_kept_fst ?_ ?_
    | with_reducible refine foldl_kept_snd ?_ ?_
    | with_reducible refine kept_ite ?_ ?_
    | intro _
    | simp only [Kept.upd]

theorem State.fieldLost_kept {s0 s : State} (h : Kept s0 s) : Kept s0 (State.fieldLost s) := by
  unfold State.fieldLost
  repeat' first
    | with_reducible assumption
    | with_reducible refine State.event_kept ?_
    | with_reducible refine State.fieldWrite_kept ?_
    | with_reducible refine State.wr_kept ?_
    | with_reducible refine State.setFld_kept ?_
    | with_reducible refine foldl_kept ?_ ?_
    | with_reducible refine foldl_kept_fst ?_ ?_
    | with_reducible refine foldl_kept_snd ?_ ?_
    | with_reducible refine kept_ite ?_ ?_
    | intro _
    | simp only [Kept.upd]

theorem State.repaired_kept {s0 s : State} (h : Kept s0 s) {a b} : Kept s0 (State.repaired s a b) := by
  unfold State.repaired
  repeat' first
    | with_reducible assumption
    | with_reducible refine State.noted_kept ?_
    | with_reducible refine State.event_kept ?_
    | with_reducible refine foldl_kept ?_ ?_
    | with_reducible refine foldl_kept_fst ?_ ?_
    | with_reducible refine foldl_kept_snd ?_ ?_
    | with_reducible refine kept_ite ?_ ?_

theorem State.bootRecords_kept {s0 s : State} (h : Kept s0 s) {f} : Kept s0 (State.bootRecords s f) := by
  unfold State.bootRecords
  repeat' first
    | with_reducible assumption
    | with_reducible refine State.repairHbm_kept ?_
    | with_reducible refine State.fieldLost_kept ?_
    | with_reducible refine State.bootFails_kept ?_
    | with_reducible refine State.repaired_kept ?_
    | with_reducible refine foldl_kept ?_ ?_
    | with_reducible refine foldl_kept_fst ?_ ?_
    | with_reducible refine foldl_kept_snd ?_ ?_
    | with_reducible refine kept_ite ?_ ?_

theorem State.bootRegs_kept {s0 s : State} (h : Kept s0 s) : Kept s0 (State.bootRegs s) := by
  unfold State.bootRegs
  have h0 : Kept s0 { s with regs := s.regs.filter (fun x => (1 ≤ x.1 / 4096 && x.1 / 4096 ≤ 4) ||
      (keptRegs.map (fun k => regKey k.1 k.2.1 k.2.2)).contains x.1) } :=
    Kept.build h id (fun w => FMap.wf_filter w _) id id
  repeat' first
    | with_reducible exact h0
    | with_reducible refine State.laserCounts_kept ?_
    | with_reducible refine State.setFld_kept ?_
    | with_reducible refine State.setFwState_kept ?_
    | with_reducible refine State.wr_kept ?_
    | with_reducible refine foldl_kept ?_ ?_
    | with_reducible assumption
    | intro _
    | dsimp only
    | split

theorem State.bootState_kept {s0 s : State} (h : Kept s0 s) {cold} : Kept s0 (State.bootState s cold) := by
  have k : Kept s0 s.bootRegs := State.bootRegs_kept h
  unfold State.bootState
  generalize s.bootRegs = u at k
  refine kept_ite (State.emptyTables_kept ?_) ?_
  all_goals
    refine Kept.build k (fun w => FMap.wf_filter w _) id (fun _ => rfl) (fun e => ?_)
    rw [Records.ok_iff] at *
    exact ⟨Nat.zero_le _, e.2⟩

theorem State.freshRows_kept {s0 s : State} (h : Kept s0 s) : Kept s0 (State.freshRows s) := by
  unfold State.freshRows
  repeat' first
    | with_reducible assumption
    | with_reducible refine State.setFld_kept ?_
    | with_reducible refine State.rowCounts_kept ?_
    | with_reducible refine foldl_kept ?_ ?_
    | with_reducible refine foldl_kept_fst ?_ ?_
    | with_reducible refine foldl_kept_snd ?_ ?_
    | with_reducible refine kept_ite ?_ ?_
    | intro _

theorem State.boots_kept {s0 s : State} (h : Kept s0 s) {cold f} : Kept s0 (State.boots s cold f) := by
  unfold State.boots
  repeat' first
    | with_reducible assumption
    | with_reducible refine State.bootDebug_kept ?_
    | with_reducible refine State.bootCores_kept ?_
    | with_reducible refine State.blocksFail_kept ?_
    | with_reducible refine State.bootLinks_kept ?_
    | with_reducible refine State.bootDone_kept ?_
    | with_reducible refine State.bootOwner_kept ?_
    | with_reducible refine State.bootBank_kept ?_
    | with_reducible refine State.bootState_kept ?_
    | with_reducible refine State.freshRows_kept ?_
    | with_reducible refine State.bootRecords_kept ?_
    | with_reducible refine foldl_kept ?_ ?_
    | with_reducible refine foldl_kept_fst ?_ ?_
    | with_reducible refine foldl_kept_snd ?_ ?_
    | with_reducible refine kept_ite ?_ ?_
    | intro _

theorem execDryExit_kept {s0 s : State} (h : Kept s0 s) {f} : KeptO s0 (execDryExit f s) := by
  unfold execDryExit
  repeat' first
    | with_reducible assumption
    | with_reducible refine KeptO.next ?_
    | with_reducible refine State.boots_kept ?_

theorem execColdBoot_kept {s0 s : State} (h : Kept s0 s) {f} : KeptO s0 (execColdBoot f s) := by
  unfold execColdBoot
  repeat' first
    | with_reducible assumption
    | with_reducible refine KeptO.next ?_
    | with_reducible refine State.boots_kept ?_

/-! ### Manage -/

theorem State.aliasSigns_kept {s0 s : State} (h : Kept s0 s) {bs nonce} : Kept s0 (State.aliasSigns s bs nonce).2
    := by
  unfold State.aliasSigns
  repeat' first
    | with_reducible assumption
    | with_reducible refine foldl_kept ?_ ?_
    | with_reducible refine foldl_kept_fst ?_ ?_
    | with_reducible refine foldl_kept_snd ?_ ?_
    | with_reducible refine kept_ite ?_ ?_
    | with_reducible refine kept_ite_snd ?_ ?_
    | intro _
    | simp only [Kept.upd]

theorem State.aliasSigns_kept_eq {s0 s t9 : State} {bs nonce} {y9} (e : State.aliasSigns s bs nonce = (y9, t9)) (h
    : Kept s0 s) : Kept s0 t9 := by
  have := State.aliasSigns_kept h (bs := bs) (nonce := nonce)
  rw [e] at this
  exact this

theorem State.challenged_kept {s0 s : State} (h : Kept s0 s) {slot nonce} : Kept s0 (State.challenged s slot
    nonce).2 := by
  unfold State.challenged
  repeat' first
    | with_reducible assumption
    | with_reducible refine State.aliasSigns_kept ?_
    | with_reducible refine State.aliasSigns_kept_eq (by assumption) ?_
    | with_reducible refine foldl_kept ?_ ?_
    | with_reducible refine foldl_kept_fst ?_ ?_
    | with_reducible refine foldl_kept_snd ?_ ?_
    | with_reducible refine kept_ite ?_ ?_
    | with_reducible refine kept_ite_snd ?_ ?_

theorem State.challenged_kept_eq {s0 s t9 : State} {slot nonce} {y9} (e : State.challenged s slot nonce = (y9, t9))
    (h : Kept s0 s) : Kept s0 t9 := by
  have := State.challenged_kept h (slot := slot) (nonce := nonce)
  rw [e] at this
  exact this

theorem State.measured__kept {s0 s : State} (h : Kept s0 s) {i nonce} : Kept s0 (State.measured_ s i nonce).2 := by
  unfold State.measured_
  repeat' first
    | with_reducible assumption
    | with_reducible refine State.aliasSigns_kept ?_
    | with_reducible refine State.aliasSigns_kept_eq (by assumption) ?_
    | with_reducible refine foldl_kept ?_ ?_
    | with_reducible refine foldl_kept_fst ?_ ?_
    | with_reducible refine foldl_kept_snd ?_ ?_
    | with_reducible refine kept_ite ?_ ?_
    | with_reducible refine kept_ite_snd ?_ ?_

theorem State.measured__kept_eq {s0 s t9 : State} {i nonce} {y9} (e : State.measured_ s i nonce = (y9, t9)) (h :
    Kept s0 s) : Kept s0 t9 := by
  have := State.measured__kept h (i := i) (nonce := nonce)
  rw [e] at this
  exact this

theorem State.spdm_kept {s0 s : State} (h : Kept s0 s) {m} : Kept s0 (State.spdm s m).2 := by
  unfold State.spdm
  repeat' first
    | with_reducible assumption
    | with_reducible refine State.draw_kept ?_
    | with_reducible refine State.draw_kept_eq (by assumption) ?_
    | with_reducible refine State.challenged_kept ?_
    | with_reducible refine State.challenged_kept_eq (by assumption) ?_
    | with_reducible refine State.measured__kept ?_
    | with_reducible refine State.measured__kept_eq (by assumption) ?_
    | with_reducible refine foldl_kept ?_ ?_
    | with_reducible refine foldl_kept_fst ?_ ?_
    | with_reducible refine foldl_kept_snd ?_ ?_
    | with_reducible refine kept_ite ?_ ?_
    | with_reducible refine kept_ite_snd ?_ ?_
    | intro _
    | simp only [Kept.upd]
    | dsimp only
    | split

theorem State.spdm_kept_eq {s0 s t9 : State} {m} {y9} (e : State.spdm s m = (y9, t9)) (h : Kept s0 s) : Kept s0 t9
    := by
  have := State.spdm_kept h (m := m)
  rw [e] at this
  exact this

theorem State.attests_kept {s0 s : State} (h : Kept s0 s) {window i m} : Kept s0 (State.attests s window i m) := by
  unfold State.attests
  repeat' first
    | with_reducible assumption
    | with_reducible refine State.emit_kept ?_
    | with_reducible refine State.ctxLook_kept ?_
    | with_reducible refine State.ctxLook_kept_eq (by assumption) ?_
    | with_reducible refine State.spdm_kept ?_
    | with_reducible refine State.spdm_kept_eq (by assumption) ?_
    | with_reducible refine State.rnr_kept ?_
    | with_reducible refine State.heard_kept ?_ ?_
    | with_reducible refine State.awake_kept ?_ ?_
    | with_reducible refine foldl_kept ?_ ?_
    | with_reducible refine foldl_kept_fst ?_ ?_
    | with_reducible refine foldl_kept_snd ?_ ?_
    | with_reducible refine kept_ite ?_ ?_
    | intro _

theorem State.pieceIn_kept {s0 s : State} (h : Kept s0 s) {off bs} : Kept s0 (State.pieceIn s off bs) := by
  unfold State.pieceIn
  repeat' first
    | with_reducible assumption
    | with_reducible refine foldl_kept ?_ ?_
    | with_reducible refine foldl_kept_fst ?_ ?_
    | with_reducible refine foldl_kept_snd ?_ ?_
    | with_reducible refine kept_ite ?_ ?_
    | intro _
    | simp only [Kept.upd]

theorem execNegotiateAlgorithms_kept {s0 s : State} (h : Kept s0 s) {window huaris} : KeptO s0
    (execNegotiateAlgorithms window huaris s) := by
  unfold execNegotiateAlgorithms
  repeat' first
    | with_reducible assumption
    | with_reducible refine KeptO.next ?_
    | with_reducible refine State.attests_kept ?_

theorem execGetCertificate_kept {s0 s : State} (h : Kept s0 s) {window slot off len} : KeptO s0 (execGetCertificate
    window slot off len s) := by
  unfold execGetCertificate
  repeat' first
    | with_reducible assumption
    | with_reducible refine KeptO.next ?_
    | with_reducible refine State.attests_kept ?_

theorem execChallenge_kept {s0 s : State} (h : Kept s0 s) {window slot nonce} : KeptO s0 (execChallenge window slot
    nonce s) := by
  unfold execChallenge
  repeat' first
    | with_reducible assumption
    | with_reducible refine KeptO.next ?_
    | with_reducible refine State.attests_kept ?_

theorem execGetMeasurements_kept {s0 s : State} (h : Kept s0 s) {window i nonce} : KeptO s0 (execGetMeasurements
    window i nonce s) := by
  unfold execGetMeasurements
  repeat' first
    | with_reducible assumption
    | with_reducible refine KeptO.next ?_
    | with_reducible refine State.attests_kept ?_

theorem execSpdmMessage_kept {s0 s : State} (h : Kept s0 s) {m} : KeptO s0 (execSpdmMessage m s) := by
  unfold execSpdmMessage
  repeat' first
    | with_reducible assumption
    | with_reducible refine KeptO.next ?_
    | with_reducible refine State.attests_kept ?_

theorem execBootStatus_kept {s0 s : State} (h : Kept s0 s) : KeptO s0 (execBootStatus s) := by
  unfold execBootStatus
  repeat' first
    | with_reducible assumption
    | with_reducible refine KeptO.next ?_
    | with_reducible refine State.emit_kept ?_
    | with_reducible refine foldl_kept ?_ ?_
    | with_reducible refine foldl_kept_fst ?_ ?_
    | with_reducible refine foldl_kept_snd ?_ ?_
    | with_reducible refine kept_ite ?_ ?_

theorem execDebugToken_kept {s0 s : State} (h : Kept s0 s) {token} : KeptO s0 (execDebugToken token s) := by
  unfold execDebugToken
  repeat' first
    | with_reducible assumption
    | with_reducible refine KeptO.next ?_
    | with_reducible refine State.setFld_kept ?_
    | with_reducible refine State.emit_kept ?_
    | with_reducible refine foldl_kept ?_ ?_
    | with_reducible refine foldl_kept_fst ?_ ?_
    | with_reducible refine foldl_kept_snd ?_ ?_
    | with_reducible refine kept_ite ?_ ?_
    | intro _
    | simp only [Kept.upd]

theorem execOwnerWrite_kept {s0 s : State} (h : Kept s0 s) {off piece} : KeptO s0 (execOwnerWrite off piece s) := by
  unfold execOwnerWrite
  repeat' first
    | with_reducible assumption
    | with_reducible refine KeptO.next ?_
    | with_reducible refine State.setFld_kept ?_
    | with_reducible refine State.event_kept ?_
    | with_reducible refine State.pieceIn_kept ?_
    | with_reducible refine State.emit_kept ?_
    | with_reducible refine foldl_kept ?_ ?_
    | with_reducible refine foldl_kept_fst ?_ ?_
    | with_reducible refine foldl_kept_snd ?_ ?_
    | with_reducible refine kept_ite ?_ ?_
    | intro _
    | simp only [Kept.upd]
    | dsimp only
    | split

/-! ### Ticks -/

theorem State.commandLate_kept {s0 s : State} (h : Kept s0 s) {units} : Kept s0 (State.commandLate s units) := by
  unfold State.commandLate
  repeat' first
    | with_reducible assumption
    | with_reducible refine State.cliffEnds_kept ?_
    | with_reducible refine foldl_kept ?_ ?_
    | with_reducible refine foldl_kept_fst ?_ ?_
    | with_reducible refine foldl_kept_snd ?_ ?_
    | with_reducible refine kept_ite ?_ ?_
    | intro _
    | simp only [Kept.upd]
    | dsimp only
    | split

theorem State.idle_kept {s0 s : State} (h : Kept s0 s) : Kept s0 (State.idle s) := by
  unfold State.idle
  repeat' first
    | with_reducible assumption
    | with_reducible refine foldl_kept ?_ ?_
    | with_reducible refine foldl_kept_fst ?_ ?_
    | with_reducible refine foldl_kept_snd ?_ ?_
    | with_reducible refine kept_ite ?_ ?_
    | intro _
    | simp only [Kept.upd]

theorem State.jobLate_kept {s0 s : State} (h : Kept s0 s) {h_ rows} : Kept s0 (State.jobLate s h_ rows) := by
  unfold State.jobLate
  repeat' first
    | with_reducible assumption
    | with_reducible refine State.fsPartial_kept ?_
    | with_reducible refine State.fsEnd_kept ?_
    | with_reducible refine foldl_kept ?_ ?_
    | with_reducible refine foldl_kept_fst ?_ ?_
    | with_reducible refine foldl_kept_snd ?_ ?_
    | with_reducible refine kept_ite ?_ ?_
    | intro _
    | simp only [Kept.upd]
    | dsimp only
    | split

theorem State.queueLate_kept {s0 s : State} (h : Kept s0 s) {c q d} : Kept s0 (State.queueLate s c q d) := by
  unfold State.queueLate
  repeat' first
    | with_reducible assumption
    | with_reducible refine State.setQueue_kept ?_
    | with_reducible refine foldl_kept ?_ ?_
    | with_reducible refine foldl_kept_fst ?_ ?_
    | with_reducible refine foldl_kept_snd ?_ ?_
    | with_reducible refine kept_ite ?_ ?_

theorem State.tickBegan_kept {s0 : State} {x : Bool × State} (h : Kept s0 x.2) : Kept s0 (State.tickBegan x) := by
  unfold State.tickBegan
  repeat' first
    | with_reducible assumption
    | with_reducible refine State.tickWake_kept ?_
    | with_reducible refine State.awake_kept ?_ ?_
    | with_reducible refine State.pinnedSwitch_kept ?_
    | intro _
    | split

theorem execSlotStart_kept {s0 s : State} (h : Kept s0 s) : KeptO s0 (execSlotStart s) := by
  unfold execSlotStart
  repeat' first
    | with_reducible assumption
    | with_reducible refine KeptO.next ?_
    | with_reducible refine State.overdueNow_kept ?_
    | with_reducible refine State.nextSlot_kept ?_
    | with_reducible refine State.awake_kept ?_ ?_
    | with_reducible refine foldl_kept ?_ ?_
    | with_reducible refine foldl_kept_fst ?_ ?_
    | with_reducible refine foldl_kept_snd ?_ ?_
    | with_reducible refine kept_ite ?_ ?_
    | intro _

theorem execTickWindowClose_kept {s0 s : State} (h : Kept s0 s) : KeptO s0 (execTickWindowClose s) := by
  exact KeptO.next (State.tickBegan_kept (State.tickWindow_kept h))

theorem execTickStart_kept {s0 s : State} (h : Kept s0 s) : KeptO s0 (execTickStart s) := by
  exact KeptO.next (State.tickBegan_kept (State.tickInternal_kept h))

theorem execTickInEdge_kept {s0 s : State} (h : Kept s0 s) {jitter} : KeptO s0 (execTickInEdge jitter s) := by
  exact KeptO.next (State.tickBegan_kept (State.edgeComes_kept h))

theorem execDeadlinePassed_kept {s0 s : State} (h : Kept s0 s) {x} : KeptO s0 (execDeadlinePassed x s) := by
  unfold execDeadlinePassed
  repeat' first
    | with_reducible assumption
    | with_reducible refine KeptO.next ?_
    | with_reducible refine State.serve_kept ?_
    | with_reducible refine State.collDeadline_kept ?_
    | with_reducible refine State.commandLate_kept ?_
    | with_reducible refine State.jobLate_kept ?_
    | with_reducible refine State.queueLate_kept ?_
    | with_reducible refine State.awake_kept ?_ ?_
    | with_reducible refine foldl_kept ?_ ?_
    | with_reducible refine foldl_kept_fst ?_ ?_
    | with_reducible refine foldl_kept_snd ?_ ?_
    | with_reducible refine kept_ite ?_ ?_
    | intro _
    | simp only [Kept.upd]
    | dsimp only
    | split

/-! ### Regs -/

theorem State.plainWrite_kept {s0 s : State} (h : Kept s0 s) {p r i v} : Kept s0 (State.plainWrite s p r i v) := by
  unfold State.plainWrite
  repeat' first
    | with_reducible assumption
    | with_reducible refine State.wrRw_kept ?_
    | with_reducible refine State.clearCounters_kept ?_
    | with_reducible refine foldl_kept ?_ ?_
    | with_reducible refine foldl_kept_fst ?_ ?_
    | with_reducible refine foldl_kept_snd ?_ ?_
    | with_reducible refine kept_ite ?_ ?_
    | intro _
    | simp only [Kept.upd]
    | dsimp only
    | split

theorem State.twPortWrite_kept {s0 s : State} (h : Kept s0 s) {p r i v} : Kept s0 (State.twPortWrite s p r i v) := by
  unfold State.twPortWrite
  repeat' first
    | with_reducible assumption
    | with_reducible refine State.twDark_kept ?_
    | with_reducible refine State.plainWrite_kept ?_
    | with_reducible refine foldl_kept ?_ ?_
    | with_reducible refine foldl_kept_fst ?_ ?_
    | with_reducible refine foldl_kept_snd ?_ ?_
    | with_reducible refine kept_ite ?_ ?_

theorem State.foreWrite_kept {s0 s : State} (h : Kept s0 s) {h_ r i v} : Kept s0 (State.foreWrite s h_ r i v) := by
  unfold State.foreWrite
  repeat' first
    | with_reducible assumption
    | with_reducible refine State.plainWrite_kept ?_
    | with_reducible refine State.tailWrite_kept ?_
    | with_reducible refine State.ringCfgWrite_kept ?_
    | with_reducible refine State.fsCtrlWrite_kept ?_
    | with_reducible refine foldl_kept ?_ ?_
    | with_reducible refine foldl_kept_fst ?_ ?_
    | with_reducible refine foldl_kept_snd ?_ ?_
    | with_reducible refine kept_ite ?_ ?_
    | intro _
    | dsimp only
    | split

theorem State.harbourWrite_kept {s0 s : State} (h : Kept s0 s) {h_ r i v} : Kept s0 (State.harbourWrite s h_ r i v)
    := by
  unfold State.harbourWrite
  repeat' first
    | with_reducible assumption
    | with_reducible refine State.hbRegionWrite_kept ?_
    | with_reducible refine State.hbFlush_kept ?_
    | with_reducible refine State.plainWrite_kept ?_
    | with_reducible refine State.frozenNow_kept ?_
    | with_reducible refine foldl_kept ?_ ?_
    | with_reducible refine foldl_kept_fst ?_ ?_
    | with_reducible refine foldl_kept_snd ?_ ?_
    | with_reducible refine kept_ite ?_ ?_
    | intro _
    | dsimp only
    | split

theorem State.cxlWrite_kept {s0 s : State} (h : Kept s0 s) {p r i v} : Kept s0 (State.cxlWrite s p r i v) := by
  unfold State.cxlWrite
  repeat' first
    | with_reducible assumption
    | with_reducible refine State.plainWrite_kept ?_
    | with_reducible refine State.cxlDecWrite_kept ?_
    | with_reducible refine State.cxlCtrlWrite_kept ?_
    | with_reducible refine foldl_kept ?_ ?_
    | with_reducible refine foldl_kept_fst ?_ ?_
    | with_reducible refine foldl_kept_snd ?_ ?_
    | with_reducible refine kept_ite ?_ ?_
    | intro _
    | simp only [Kept.upd]
    | dsimp only
    | split

theorem State.tidewayWrite_kept {s0 s : State} (h : Kept s0 s) {r i v} : Kept s0 (State.tidewayWrite s r i v) := by
  unfold State.tidewayWrite
  repeat' first
    | with_reducible assumption
    | with_reducible refine State.plainWrite_kept ?_
    | with_reducible refine State.twGroupWrite_kept ?_
    | with_reducible refine State.twRingTailWrite_kept ?_
    | with_reducible refine State.twRingWrite_kept ?_
    | with_reducible refine State.twCtrlWrite_kept ?_
    | with_reducible refine foldl_kept ?_ ?_
    | with_reducible refine foldl_kept_fst ?_ ?_
    | with_reducible refine foldl_kept_snd ?_ ?_
    | with_reducible refine kept_ite ?_ ?_
    | intro _
    | simp only [Kept.upd]
    | dsimp only
    | split

theorem State.cliffWrite_kept {s0 s : State} (h : Kept s0 s) {r i v} : Kept s0 (State.cliffWrite s r i v) := by
  unfold State.cliffWrite
  repeat' first
    | with_reducible assumption
    | with_reducible refine State.plainWrite_kept ?_
    | with_reducible refine State.tailWrite_kept ?_
    | with_reducible refine State.ringCfgWrite_kept ?_
    | with_reducible refine foldl_kept ?_ ?_
    | with_reducible refine foldl_kept_fst ?_ ?_
    | with_reducible refine foldl_kept_snd ?_ ?_
    | with_reducible refine kept_ite ?_ ?_
    | intro _
    | simp only [Kept.upd]
    | dsimp only
    | split

theorem State.schedWrite_kept {s0 s : State} (h : Kept s0 s) {r i v} : Kept s0 (State.schedWrite s r i v) := by
  unfold State.schedWrite
  repeat' first
    | with_reducible assumption
    | with_reducible refine State.ignore_kept ?_
    | with_reducible refine State.plainWrite_kept ?_
    | with_reducible refine foldl_kept ?_ ?_
    | with_reducible refine foldl_kept_fst ?_ ?_
    | with_reducible refine foldl_kept_snd ?_ ?_
    | with_reducible refine kept_ite ?_ ?_
    | intro _
    | dsimp only
    | split

theorem State.mcastWrite_kept {s0 s : State} (h : Kept s0 s) {r i v} : Kept s0 (State.mcastWrite s r i v) := by
  unfold State.mcastWrite
  repeat' first
    | with_reducible assumption
    | with_reducible refine State.plainWrite_kept ?_
    | with_reducible refine foldl_kept ?_ ?_
    | with_reducible refine foldl_kept_fst ?_ ?_
    | with_reducible refine foldl_kept_snd ?_ ?_
    | with_reducible refine kept_ite ?_ ?_
    | intro _
    | simp only [Kept.upd]
    | dsimp only
    | split

theorem State.estWrite_kept {s0 s : State} (h : Kept s0 s) {r i v} : Kept s0 (State.estWrite s r i v) := by
  unfold State.estWrite
  repeat' first
    | with_reducible assumption
    | with_reducible refine State.plainWrite_kept ?_
    | with_reducible refine State.estPortWrite_kept ?_
    | with_reducible refine foldl_kept ?_ ?_
    | with_reducible refine foldl_kept_fst ?_ ?_
    | with_reducible refine foldl_kept_snd ?_ ?_
    | with_reducible refine kept_ite ?_ ?_
    | intro _
    | simp only [Kept.upd]
    | dsimp only
    | split

theorem State.testWrite_kept {s0 s : State} (h : Kept s0 s) {r i v} : Kept s0 (State.testWrite s r i v) := by
  unfold State.testWrite
  repeat' first
    | with_reducible assumption
    | with_reducible refine State.plainWrite_kept ?_
    | with_reducible refine State.marginCtrlWrite_kept ?_
    | with_reducible refine State.stCfgWrite_kept ?_
    | with_reducible refine State.stCtrlWrite_kept ?_
    | with_reducible refine foldl_kept ?_ ?_
    | with_reducible refine foldl_kept_fst ?_ ?_
    | with_reducible refine foldl_kept_snd ?_ ?_
    | with_reducible refine kept_ite ?_ ?_
    | intro _
    | simp only [Kept.upd]
    | dsimp only
    | split

theorem State.faultWrite_kept {s0 s : State} (h : Kept s0 s) {r i v owner} : Kept s0 (State.faultWrite s r i v
    owner) := by
  unfold State.faultWrite
  repeat' first
    | with_reducible assumption
    | with_reducible refine State.plainWrite_kept ?_
    | with_reducible refine State.fwCtrlWrite_kept ?_
    | with_reducible refine State.pcRetireWrite_kept ?_
    | with_reducible refine State.swapCtrlWrite_kept ?_
    | with_reducible refine State.semReset_kept ?_
    | with_reducible refine State.errRingBaseWrite_kept ?_
    | with_reducible refine foldl_kept ?_ ?_
    | with_reducible refine foldl_kept_fst ?_ ?_
    | with_reducible refine foldl_kept_snd ?_ ?_
    | with_reducible refine kept_ite ?_ ?_
    | intro _
    | simp only [Kept.upd]
    | dsimp only
    | split

theorem State.securityWrite_kept {s0 s : State} (h : Kept s0 s) {r i v mctp} : Kept s0 (State.securityWrite s r i v
    mctp) := by
  unfold State.securityWrite
  repeat' first
    | with_reducible assumption
    | with_reducible refine State.ignore_kept ?_
    | with_reducible refine State.plainWrite_kept ?_
    | with_reducible refine foldl_kept ?_ ?_
    | with_reducible refine foldl_kept_fst ?_ ?_
    | with_reducible refine foldl_kept_snd ?_ ?_
    | with_reducible refine kept_ite ?_ ?_
    | intro _
    | simp only [Kept.upd]
    | dsimp only
    | split

theorem State.supWrite_kept {s0 s : State} (h : Kept s0 s) {r i v} : Kept s0 (State.supWrite s r i v) := by
  unfold State.supWrite
  repeat' first
    | with_reducible assumption
    | with_reducible refine State.plainWrite_kept ?_
    | with_reducible refine State.supFilterWrite_kept ?_
    | with_reducible refine State.supRuleWrite_kept ?_
    | with_reducible refine foldl_kept ?_ ?_
    | with_reducible refine foldl_kept_fst ?_ ?_
    | with_reducible refine foldl_kept_snd ?_ ?_
    | with_reducible refine kept_ite ?_ ?_
    | intro _
    | simp only [Kept.upd]
    | dsimp only
    | split

theorem State.pwrCtrlWrite_kept {s0 s : State} (h : Kept s0 s) {v mctp safe} : Kept s0 (State.pwrCtrlWrite s v mctp
    safe) := by
  unfold State.pwrCtrlWrite
  repeat' first
    | with_reducible assumption
    | with_reducible refine State.entersDry_kept ?_
    | with_reducible refine State.clearStop_kept ?_
    | with_reducible refine State.neapForce_kept ?_
    | with_reducible refine State.plainWrite_kept ?_
    | with_reducible refine State.ignore_kept ?_
    | with_reducible refine foldl_kept ?_ ?_
    | with_reducible refine foldl_kept_fst ?_ ?_
    | with_reducible refine foldl_kept_snd ?_ ?_
    | with_reducible refine kept_ite ?_ ?_

theorem State.powerWrite_kept {s0 s : State} (h : Kept s0 s) {r i v mctp safe} : Kept s0 (State.powerWrite s r i v
    mctp safe) := by
  unfold State.powerWrite
  repeat' first
    | with_reducible assumption
    | with_reducible refine State.ignore_kept ?_
    | with_reducible refine State.plainWrite_kept ?_
    | with_reducible refine State.pwrCtrlWrite_kept ?_
    | with_reducible refine foldl_kept ?_ ?_
    | with_reducible refine foldl_kept_fst ?_ ?_
    | with_reducible refine foldl_kept_snd ?_ ?_
    | with_reducible refine kept_ite ?_ ?_
    | intro _
    | simp only [Kept.upd]
    | dsimp only
    | split

theorem State.tideWrite_kept {s0 s : State} (h : Kept s0 s) {r i v} : Kept s0 (State.tideWrite s r i v) := by
  unfold State.tideWrite
  repeat' first
    | with_reducible assumption
    | with_reducible refine State.plainWrite_kept ?_
    | with_reducible refine State.wakes_kept ?_
    | with_reducible refine State.wrRw_kept ?_
    | with_reducible refine State.tickCfgWrite_kept ?_
    | with_reducible refine State.tickinPeriodWrite_kept ?_
    | with_reducible refine State.discCtrlWrite_kept ?_
    | with_reducible refine foldl_kept ?_ ?_
    | with_reducible refine foldl_kept_fst ?_ ?_
    | with_reducible refine foldl_kept_snd ?_ ?_
    | with_reducible refine kept_ite ?_ ?_
    | intro _
    | dsimp only
    | split

theorem State.recurWrite_kept {s0 s : State} (h : Kept s0 s) {c r i v} : Kept s0 (State.recurWrite s c r i v) := by
  unfold State.recurWrite
  repeat' first
    | with_reducible assumption
    | with_reducible refine State.plainWrite_kept ?_
    | with_reducible refine State.recurCtrlWrite_kept ?_
    | with_reducible refine foldl_kept ?_ ?_
    | with_reducible refine foldl_kept_fst ?_ ?_
    | with_reducible refine foldl_kept_snd ?_ ?_
    | with_reducible refine kept_ite ?_ ?_
    | intro _
    | simp only [Kept.upd]
    | dsimp only
    | split

theorem State.vecWrite_kept {s0 s : State} (h : Kept s0 s) {c r i v} : Kept s0 (State.vecWrite s c r i v) := by
  unfold State.vecWrite
  repeat' first
    | with_reducible assumption
    | with_reducible refine State.plainWrite_kept ?_
    | with_reducible refine State.arriveWrite_kept ?_
    | with_reducible refine State.writeLater_kept ?_
    | with_reducible refine foldl_kept ?_ ?_
    | with_reducible refine foldl_kept_fst ?_ ?_
    | with_reducible refine foldl_kept_snd ?_ ?_
    | with_reducible refine kept_ite ?_ ?_
    | intro _
    | simp only [Kept.upd]
    | dsimp only
    | split

theorem State.queueWrite_kept {s0 s : State} (h : Kept s0 s) {c r i q v} : Kept s0 (State.queueWrite s c r i q v)
    := by
  unfold State.queueWrite
  repeat' first
    | with_reducible assumption
    | with_reducible refine State.ignore_kept ?_
    | with_reducible refine State.wrRw_kept ?_
    | with_reducible refine foldl_kept ?_ ?_
    | with_reducible refine foldl_kept_fst ?_ ?_
    | with_reducible refine foldl_kept_snd ?_ ?_
    | with_reducible refine kept_ite ?_ ?_

theorem State.seqWrite_kept {s0 s : State} (h : Kept s0 s) {c r i v} : Kept s0 (State.seqWrite s c r i v) := by
  unfold State.seqWrite
  repeat' first
    | with_reducible assumption
    | with_reducible refine State.plainWrite_kept ?_
    | with_reducible refine State.doorbell_kept ?_
    | with_reducible refine State.ignore_kept ?_
    | with_reducible refine State.queueWrite_kept ?_
    | with_reducible refine foldl_kept ?_ ?_
    | with_reducible refine foldl_kept_fst ?_ ?_
    | with_reducible refine foldl_kept_snd ?_ ?_
    | with_reducible refine kept_ite ?_ ?_
    | intro _
    | simp only [Kept.upd]
    | dsimp only
    | split

theorem State.blockWrite_kept {s0 s : State} (h : Kept s0 s) {p r i v owner mctp safe} : Kept s0 (State.blockWrite
    s p r i v owner mctp safe) := by
  unfold State.blockWrite
  repeat' first
    | with_reducible assumption
    | with_reducible refine State.hbmRegClassWrite_kept ?_
    | with_reducible refine State.twPortWrite_kept ?_
    | with_reducible refine State.foreWrite_kept ?_
    | with_reducible refine State.harbourWrite_kept ?_
    | with_reducible refine State.cxlWrite_kept ?_
    | with_reducible refine State.tidewayWrite_kept ?_
    | with_reducible refine State.cliffWrite_kept ?_
    | with_reducible refine State.poolFloorWrite_kept ?_
    | with_reducible refine State.rollNodeLimitWrite_kept ?_
    | with_reducible refine State.schedWrite_kept ?_
    | with_reducible refine State.mcastWrite_kept ?_
    | with_reducible refine State.estWrite_kept ?_
    | with_reducible refine State.testWrite_kept ?_
    | with_reducible refine State.faultWrite_kept ?_
    | with_reducible refine State.securityWrite_kept ?_
    | with_reducible refine State.supWrite_kept ?_
    | with_reducible refine State.powerWrite_kept ?_
    | with_reducible refine State.tideWrite_kept ?_
    | with_reducible refine State.recurWrite_kept ?_
    | with_reducible refine State.plainWrite_kept ?_
    | with_reducible refine State.scoreCtrlWrite_kept ?_
    | with_reducible refine State.vecWrite_kept ?_
    | with_reducible refine State.seqWrite_kept ?_
    | with_reducible refine foldl_kept ?_ ?_
    | with_reducible refine foldl_kept_fst ?_ ?_
    | with_reducible refine foldl_kept_snd ?_ ?_
    | with_reducible refine kept_ite ?_ ?_
    | intro _
    | simp only [Kept.upd]
    | dsimp only
    | split

theorem State.clearWrite_kept {s0 s : State} (h : Kept s0 s) {p} : Kept s0 (State.clearWrite s p) := by
  unfold State.clearWrite
  repeat' first
    | with_reducible assumption
    | with_reducible refine State.frozenNow_kept ?_
    | with_reducible refine State.clearCounters_kept ?_
    | with_reducible refine State.writeLater_kept ?_
    | with_reducible refine foldl_kept ?_ ?_
    | with_reducible refine foldl_kept_fst ?_ ?_
    | with_reducible refine foldl_kept_snd ?_ ?_
    | with_reducible refine kept_ite ?_ ?_
    | intro _
    | simp only [Kept.upd]
    | dsimp only
    | split

theorem State.eventWrite_kept {s0 s : State} (h : Kept s0 s) {p v} : Kept s0 (State.eventWrite s p v) := by
  unfold State.eventWrite
  repeat' first
    | with_reducible assumption
    | with_reducible refine State.wr_kept ?_

theorem State.onPage_kept {s0 s : State} (h : Kept s0 s) {page f} (hf : ∀ y0, Kept s0 (f y0)) : Kept s0
    (State.onPage s page f) := by
  unfold State.onPage
  repeat' first
    | with_reducible assumption
    | with_reducible refine hf _
    | with_reducible refine foldl_kept ?_ ?_
    | with_reducible refine foldl_kept_fst ?_ ?_
    | with_reducible refine foldl_kept_snd ?_ ?_
    | with_reducible refine kept_ite ?_ ?_
    | intro _
    | simp only [Kept.upd]
    | dsimp only
    | split

theorem State.pageCtrlWrite_kept {s0 s : State} (h : Kept s0 s) {p v} : Kept s0 (State.pageCtrlWrite s p v) := by
  unfold State.pageCtrlWrite
  repeat' first
    | with_reducible assumption
    | with_reducible refine State.wrRw_kept ?_
    | with_reducible refine State.wr_kept ?_
    | with_reducible refine foldl_kept ?_ ?_
    | with_reducible refine foldl_kept_fst ?_ ?_
    | with_reducible refine foldl_kept_snd ?_ ?_
    | with_reducible refine kept_ite ?_ ?_

theorem State.writeReg_kept {s0 s : State} (h : Kept s0 s) {page off v owner mctp safe} : Kept s0 (State.writeReg s
    page off v owner mctp safe) := by
  unfold State.writeReg
  repeat' first
    | with_reducible assumption
    | with_reducible refine State.blockWrite_kept ?_
    | with_reducible refine State.wrRw_kept ?_
    | with_reducible refine State.liveReq_kept ?_
    | with_reducible refine State.eventWrite_kept ?_
    | with_reducible refine State.pageCtrlWrite_kept ?_
    | with_reducible refine foldl_kept ?_ ?_
    | with_reducible refine foldl_kept_fst ?_ ?_
    | with_reducible refine foldl_kept_snd ?_ ?_
    | with_reducible refine kept_ite ?_ ?_
    | intro _
    | simp only [Kept.upd]
    | dsimp only
    | split

theorem State.windowWrite_kept {s0 s : State} (h : Kept s0 s) {a bs x1} : Kept s0 (State.windowWrite s a bs x1) := by
  induction x1 generalizing s a bs with
  | zero =>
    unfold State.windowWrite
    repeat' first
      | with_reducible assumption
  | succ n ih =>
    unfold State.windowWrite
    repeat' first
      | with_reducible assumption
      | with_reducible refine ih ?_
      | with_reducible refine State.writeReg_kept ?_
      | with_reducible refine foldl_kept ?_ ?_
      | with_reducible refine foldl_kept_fst ?_ ?_
      | with_reducible refine foldl_kept_snd ?_ ?_
      | with_reducible refine kept_ite ?_ ?_
      | intro _
      | simp only [Kept.upd]
      | dsimp only
      | split

theorem State.readReg_kept {s0 s : State} (h : Kept s0 s) {page off} : Kept s0 (State.readReg s page off).2 := by
  unfold State.readReg
  repeat' first
    | with_reducible assumption
    | with_reducible refine State.mramNext_kept ?_
    | with_reducible refine State.mramNext_kept_eq (by assumption) ?_
    | with_reducible refine foldl_kept ?_ ?_
    | with_reducible refine foldl_kept_fst ?_ ?_
    | with_reducible refine foldl_kept_snd ?_ ?_
    | with_reducible refine kept_ite ?_ ?_
    | with_reducible refine kept_ite_snd ?_ ?_
    | intro _
    | simp only [Kept.upd]
    | dsimp only
    | split

theorem State.readReg_kept_eq {s0 s t9 : State} {page off} {y9} (e : State.readReg s page off = (y9, t9)) (h : Kept
    s0 s) : Kept s0 t9 := by
  have := State.readReg_kept h (page := page) (off := off)
  rw [e] at this
  exact this

theorem State.windowRead_kept {s0 s : State} (h : Kept s0 s) {a x1} : Kept s0 (State.windowRead s a x1).2 := by
  induction x1 generalizing s a with
  | zero =>
    unfold State.windowRead
    repeat' first
      | with_reducible assumption
  | succ n ih =>
    unfold State.windowRead
    repeat' first
      | with_reducible assumption
      | with_reducible refine ih ?_
      | with_reducible refine kept_snd_of_eq (by assumption) (ih ?_)
      | with_reducible refine State.readReg_kept ?_
      | with_reducible refine State.readReg_kept_eq (by assumption) ?_
      | with_reducible refine foldl_kept ?_ ?_
      | with_reducible refine foldl_kept_fst ?_ ?_
      | with_reducible refine foldl_kept_snd ?_ ?_
      | with_reducible refine kept_ite ?_ ?_
      | with_reducible refine kept_ite_snd ?_ ?_
      | intro _
      | simp only [Kept.upd]
      | dsimp only
      | split

theorem State.windowRead_kept_eq {s0 s t9 : State} {a x1} {y9} (e : State.windowRead s a x1 = (y9, t9)) (h : Kept
    s0 s) : Kept s0 t9 := by
  have := State.windowRead_kept h (a := a) (x1 := x1)
  rw [e] at this
  exact this

theorem State.windowRefuses_kept {s0 s : State} (h : Kept s0 s) {qp} : Kept s0 (State.windowRefuses s qp) := by
  unfold State.windowRefuses
  repeat' first
    | with_reducible assumption
    | with_reducible refine State.emit_kept ?_
    | with_reducible refine State.bump_kept ?_

theorem execMgmtWindowAccess_kept {s0 s : State} (h : Kept s0 s) {addr op} : KeptO s0 (execMgmtWindowAccess addr op
    s) := by
  unfold execMgmtWindowAccess
  repeat' first
    | with_reducible assumption
    | with_reducible refine KeptO.next ?_
    | with_reducible refine State.received_kept ?_
    | with_reducible refine State.windowWrite_kept ?_
    | with_reducible refine State.emit_kept ?_
    | with_reducible refine State.windowRead_kept ?_
    | with_reducible refine State.windowRead_kept_eq (by assumption) ?_
    | with_reducible refine State.windowRefuses_kept ?_
    | with_reducible refine State.ctxLook_kept ?_
    | with_reducible refine State.ctxLook_kept_eq (by assumption) ?_
    | with_reducible refine State.heard_kept ?_ ?_
    | with_reducible refine State.awake_kept ?_ ?_
    | with_reducible refine foldl_kept ?_ ?_
    | with_reducible refine foldl_kept_fst ?_ ?_
    | with_reducible refine foldl_kept_snd ?_ ?_
    | with_reducible refine kept_ite ?_ ?_
    | intro _
    | dsimp only
    | split

theorem State.semWrite_kept {s0 s : State} (h : Kept s0 s) {a owner v} : Kept s0 (State.semWrite s a owner v) := by
  unfold State.semWrite
  repeat' first
    | with_reducible assumption
    | with_reducible refine State.setSem_kept ?_
    | with_reducible refine State.awake_kept ?_ ?_
    | with_reducible refine foldl_kept ?_ ?_
    | with_reducible refine foldl_kept_fst ?_ ?_
    | with_reducible refine foldl_kept_snd ?_ ?_
    | with_reducible refine kept_ite ?_ ?_
    | intro _

theorem execRegWrite_kept {s0 s : State} (h : Kept s0 s) {addr v safe} : KeptO s0 (execRegWrite addr v safe s) := by
  unfold execRegWrite
  repeat' first
    | with_reducible assumption
    | with_reducible refine KeptO.next ?_
    | with_reducible refine State.writeReg_kept ?_
    | with_reducible refine State.emit_kept ?_
    | with_reducible refine foldl_kept ?_ ?_
    | with_reducible refine foldl_kept_fst ?_ ?_
    | with_reducible refine foldl_kept_snd ?_ ?_
    | with_reducible refine kept_ite ?_ ?_
    | intro _
    | simp only [Kept.upd]
    | dsimp only
    | split

theorem execRegRead_kept {s0 s : State} (h : Kept s0 s) {addr} : KeptO s0 (execRegRead addr s) := by
  unfold execRegRead
  repeat' first
    | with_reducible assumption
    | with_reducible refine KeptO.next ?_
    | with_reducible refine State.emit_kept ?_
    | with_reducible refine State.readReg_kept ?_
    | with_reducible refine State.readReg_kept_eq (by assumption) ?_
    | with_reducible refine foldl_kept ?_ ?_
    | with_reducible refine foldl_kept_fst ?_ ?_
    | with_reducible refine foldl_kept_snd ?_ ?_
    | with_reducible refine kept_ite ?_ ?_
    | intro _
    | dsimp only
    | split

theorem execRegisterWrite_kept {s0 s : State} (h : Kept s0 s) {owner addr v} : KeptO s0 (execRegisterWrite owner
    addr v s) := by
  unfold execRegisterWrite
  repeat' first
    | with_reducible assumption
    | with_reducible refine KeptO.next ?_
    | with_reducible refine State.semWrite_kept ?_
    | with_reducible refine State.writeReg_kept ?_
    | with_reducible refine foldl_kept ?_ ?_
    | with_reducible refine foldl_kept_fst ?_ ?_
    | with_reducible refine foldl_kept_snd ?_ ?_
    | with_reducible refine kept_ite ?_ ?_
    | intro _
    | simp only [Kept.upd]
    | dsimp only
    | split

theorem execEventCountClear_kept {s0 s : State} (h : Kept s0 s) {page} : KeptO s0 (execEventCountClear page s) := by
  unfold execEventCountClear
  repeat' first
    | with_reducible assumption
    | with_reducible refine KeptO.next ?_
    | with_reducible refine State.wr_kept ?_
    | with_reducible refine State.onPage_kept ?_ ?_
    | with_reducible refine foldl_kept ?_ ?_
    | with_reducible refine foldl_kept_fst ?_ ?_
    | with_reducible refine foldl_kept_snd ?_ ?_
    | with_reducible refine kept_ite ?_ ?_
    | intro _

theorem execEventClear_kept {s0 s : State} (h : Kept s0 s) {page bits} : KeptO s0 (execEventClear page bits s) := by
  unfold execEventClear
  repeat' first
    | with_reducible assumption
    | with_reducible refine KeptO.next ?_
    | with_reducible refine State.eventWrite_kept ?_
    | with_reducible refine State.onPage_kept ?_ ?_
    | with_reducible refine foldl_kept ?_ ?_
    | with_reducible refine foldl_kept_fst ?_ ?_
    | with_reducible refine foldl_kept_snd ?_ ?_
    | with_reducible refine kept_ite ?_ ?_
    | intro _

theorem execCounterClear_kept {s0 s : State} (h : Kept s0 s) {page} : KeptO s0 (execCounterClear page s) := by
  unfold execCounterClear
  repeat' first
    | with_reducible assumption
    | with_reducible refine KeptO.next ?_
    | with_reducible refine State.clearWrite_kept ?_
    | with_reducible refine State.onPage_kept ?_ ?_
    | with_reducible refine foldl_kept ?_ ?_
    | with_reducible refine foldl_kept_fst ?_ ?_
    | with_reducible refine foldl_kept_snd ?_ ?_
    | with_reducible refine kept_ite ?_ ?_
    | intro _

/-! ### Packets -/

theorem packetOf_kept {s0 s : State} (h : Kept s0 s) {i} : KeptO s0 (packetOf i s) := by
  unfold packetOf
  repeat' first
    | with_reducible assumption
    | with_reducible refine KeptO.next ?_
    | with_reducible refine execCnpReceived_kept ?_
    | with_reducible refine execAckReceived_kept ?_
    | with_reducible refine execRnrNakReceived_kept ?_
    | with_reducible refine execRdmaReadRequest_kept ?_
    | with_reducible refine execRdmaWriteReceived_kept ?_
    | with_reducible refine execCxlHotRemove_kept ?_
    | with_reducible refine execCxlHotAdd_kept ?_
    | with_reducible refine execMgmtWindowAccess_kept ?_
    | with_reducible refine execNegotiateAlgorithms_kept ?_
    | with_reducible refine execGetCertificate_kept ?_
    | with_reducible refine execChallenge_kept ?_
    | with_reducible refine execGetMeasurements_kept ?_
    | with_reducible refine execSpdmMessage_kept ?_
    | with_reducible refine execCancel_kept ?_
    | with_reducible refine execUnbindFast_kept ?_
    | with_reducible refine execBindFast_kept ?_
    | with_reducible refine execDestroyQp_kept ?_
    | with_reducible refine execCreateQp_kept ?_
    | with_reducible refine execObjDelete_kept ?_
    | with_reducible refine execObjRead_kept ?_
    | with_reducible refine execObjWrite_kept ?_
    | with_reducible refine execObjCreate_kept ?_
    | with_reducible refine execCloseJob_kept ?_
    | with_reducible refine execUpdateOnly_kept ?_
    | with_reducible refine execRemap_kept ?_
    | with_reducible refine execTrainStep_kept ?_
    | with_reducible refine execOpenJob_kept ?_
    | with_reducible refine execPrefetchModel_kept ?_
    | with_reducible refine execUnloadModel_kept ?_
    | with_reducible refine execLoadModel_kept ?_
    | with_reducible refine execCloseScene_kept ?_
    | with_reducible refine execCloseStream_kept ?_
    | with_reducible refine execFork_kept ?_
    | with_reducible refine execRollout_kept ?_
    | with_reducible refine execPlan_kept ?_
    | with_reducible refine execObserve_kept ?_
    | with_reducible refine execOpenScene_kept ?_
    | with_reducible refine foldl_kept ?_ ?_
    | with_reducible refine foldl_kept_fst ?_ ?_
    | with_reducible refine foldl_kept_snd ?_ ?_
    | with_reducible refine kept_ite ?_ ?_
    | intro _
    | simp only [Kept.upd]
    | dsimp only
    | split

theorem State.proceeds_kept {s0 s : State} (h : Kept s0 s) {i} : Kept s0 (State.proceeds s i) := by
  have k := packetOf_kept (i := i) h
  unfold State.proceeds
  split
  · next t e => rw [e] at k; exact k
  · exact h

theorem execContextFill_kept {s0 s : State} (h : Kept s0 s) {qp} : KeptO s0 (execContextFill qp s) := by
  unfold execContextFill
  repeat' first
    | with_reducible assumption
    | with_reducible refine KeptO.next ?_
    | with_reducible refine State.proceeds_kept ?_
    | with_reducible refine State.fastPump_kept ?_
    | with_reducible refine State.ctxFill_kept ?_
    | with_reducible refine State.awake_kept ?_ ?_
    | with_reducible refine foldl_kept ?_ ?_
    | with_reducible refine foldl_kept_fst ?_ ?_
    | with_reducible refine foldl_kept_snd ?_ ?_
    | with_reducible refine kept_ite ?_ ?_
    | intro _
    | simp only [Kept.upd]

end Sys2Proof.Machine
end

