-- ==== Sys2Proof/Laws/Rows.lean ====
section
/-! SUPPORT. Rows of elements in memory: how long an encoded row is, and what writing rows one after another leaves. -/

namespace Sys2Proof.Machine

theorem chunksOf_length {α : Type} (n : Nat) (hn : 0 < n) (l : List α) (fuel : Nat) (h : l.length < fuel) :
    (chunksOf n l fuel).length = ceilDiv l.length n := by
  induction fuel generalizing l with
  | zero => omega
  | succ fuel ih =>
    unfold chunksOf
    split
    · next e => rw [List.isEmpty_iff] at e; subst e; simp [ceilDiv, Nat.div_eq_of_lt (show n - 1 < n by omega)]
    · next e =>
      have hp : 0 < l.length := by
        rw [List.isEmpty_iff] at e; exact List.length_pos_iff.2 e
      rw [List.length_cons, ih (l.drop n) (by rw [List.length_drop]; omega), List.length_drop]
      unfold ceilDiv
      by_cases h2 : l.length ≤ n
      · rw [show l.length - n = 0 by omega, Nat.div_eq_of_lt (show 0 + n - 1 < n by omega)]
        rw [show l.length + n - 1 = (l.length - 1) + n by omega, Nat.add_div_right _ hn, Nat.div_eq_of_lt (by omega)]
      · rw [show l.length + n - 1 = (l.length - n + n - 1) + n by omega, Nat.add_div_right _ hn]

/-- An encoded row takes the bytes of its format (R40, R125). -/
theorem encodeRow_length (f : Fmt) (x : SrIn) (point i : Nat) (old : List Byte) (r : List FVal) :
    (encodeRow f x point i old r).length = f.rowBytes r.length := by
  have flat (k : Nat) (g : FVal × Nat → Nat) : ((r.zipIdx.map (fun p => leBytes (g p) k)).flatten).length = r.length * k := by
    rw [List.length_flatten, List.map_map]
    have : (List.length ∘ fun p => leBytes (g p) k) = fun _ => k := by funext p; simp
    rw [this, List.map_const', List.sum_replicate, List.length_zipIdx]
    simp
  cases f
  all_goals first
    | (simp only [encodeRow, List.length_append, List.length_map, List.length_range]
       rw [chunksOf_length 32 (by decide) r _ (by omega)]
       simp only [Fmt.rowBytes, Fmt.width, ceilDiv, if_true]
       omega)
    | (simp only [encodeRow, List.length_map, List.length_range, Fmt.rowBytes, Fmt.width, ceilDiv, reduceCtorEq, if_false]
       omega)
    | (simp only [encodeRow]
       rw [flat]
       simp only [Fmt.rowBytes, Fmt.width, ceilDiv, reduceCtorEq, if_false]
       omega)

/-- Rows written one after another change only the rows (R96, R125). -/
theorem State.wrote_writeRows (s : State) (f : Fmt) (x : SrIn) (point a stride : Nat) (m : Mat) :
    s.wrote (s.writeRows f x point a stride m) (m.zipIdx.map (fun (r, n) => (a + n * stride, f.rowBytes r.length))) := by
  unfold State.writeRows
  refine State.wrote_foldl _ _ _ (fun s p _ => ?_) s
  have := State.wrote_store s (a + p.2 * stride) (encodeRow f x point p.2 (s.bytes (a + p.2 * stride) (f.rowBytes p.1.length)) p.1)
  rwa [encodeRow_length] at this

theorem State.bytes_writeRows_aux (f : Fmt) (x : SrIn) (point a stride : Nat) (m : Mat) (h : ∀ r ∈ m, f.rowBytes r.length ≤ stride)
    (k : Nat) (s : State) :
    s.wrote ((m.zipIdx k).foldl (fun (s : State) (r, i) =>
      s.store (a + i * stride) (encodeRow f x point i (s.bytes (a + i * stride) (f.rowBytes r.length)) r)) s)
      ((m.zipIdx k).map (fun (r, n) => (a + n * stride, f.rowBytes r.length))) ∧
    ∀ n r, m[n]? = some r → ((m.zipIdx k).foldl (fun (s : State) (r, i) =>
      s.store (a + i * stride) (encodeRow f x point i (s.bytes (a + i * stride) (f.rowBytes r.length)) r)) s).bytes
        (a + (k + n) * stride) (f.rowBytes r.length) =
      encodeRow f x point (k + n) (s.bytes (a + (k + n) * stride) (f.rowBytes r.length)) r := by
  induction m generalizing k s with
  | nil => exact ⟨State.wrote_refl s, fun n r e => by simp at e⟩
  | cons y m ih =>
    have h' : ∀ r ∈ m, f.rowBytes r.length ≤ stride := fun r hr => h r (by simp [hr])
    have hs := State.wrote_store s (a + k * stride) (encodeRow f x point k (s.bytes (a + k * stride) (f.rowBytes y.length)) y)
    rw [encodeRow_length] at hs
    have hb := State.bytes_store_same s (a + k * stride) (encodeRow f x point k (s.bytes (a + k * stride) (f.rowBytes y.length)) y)
    rw [encodeRow_length] at hb
    simp only [List.zipIdx_cons, List.foldl_cons, List.map_cons]
    generalize s.store (a + k * stride) (encodeRow f x point k (s.bytes (a + k * stride) (f.rowBytes y.length)) y) = u at *
    obtain ⟨i1, i2⟩ := ih h' (k + 1) u
    refine ⟨State.wrote_trans hs i1, fun n r e => ?_⟩
    have hy := h y (by simp)
    cases n with
    | zero =>
      obtain rfl : y = r := by simpa using e
      simp only [Nat.add_zero]
      rw [State.bytes_bytesBut i1.2.1, hb]
      intro q hq
      obtain ⟨⟨z, j⟩, hm, rfl⟩ := List.mem_map.1 hq
      have hj : k + 1 ≤ j := by have := List.mem_zipIdx hm; omega
      left
      have := Nat.mul_le_mul_right stride hj
      rw [Nat.add_mul] at this
      show _ ≤ a + j * stride
      omega
    | succ n =>
      have e' : m[n]? = some r := by simpa using e
      have := i2 n r e'
      rw [show k + 1 + n = k + (n + 1) by omega] at this
      rw [this]
      congr 1
      refine State.bytes_bytesBut hs.2.1 (fun q hq => ?_)
      obtain rfl := List.mem_singleton.1 hq
      right
      show a + k * stride + _ ≤ _
      have := Nat.mul_le_mul_right stride (show k + 1 ≤ k + (n + 1) by omega)
      rw [Nat.add_mul] at this
      omega

/-- Each row that is written reads as its encoding, where rows do not overlap (R96, R125). -/
theorem State.bytes_writeRows (s : State) (f : Fmt) (x : SrIn) (point a stride : Nat) (m : Mat)
    (h : ∀ r ∈ m, f.rowBytes r.length ≤ stride) {n : Nat} {r : List FVal} (e : m[n]? = some r) :
    (s.writeRows f x point a stride m).bytes (a + n * stride) (f.rowBytes r.length) =
      encodeRow f x point n (s.bytes (a + n * stride) (f.rowBytes r.length)) r := by
  have := (State.bytes_writeRows_aux f x point a stride m h 0 s).2 n r e
  rw [Nat.zero_add] at this
  exact this

/-- What a chain writes on the way changes only what it writes. -/
theorem State.wrote_chainWrites (s : State) (c : Fin 36) (l : List (Nat × List Byte)) :
    s.wrote (s.chainWrites c l) (l.map (fun p => (ledgeAt c p.1, p.2.length))) := by
  unfold State.chainWrites
  exact State.wrote_foldl l (fun (s : State) p => s.store (ledgeAt c p.1) p.2) (fun p => (ledgeAt c p.1, p.2.length))
    (fun s p _ => State.wrote_store s _ _) s

end Sys2Proof.Machine
end

