-- ==== Sys2Proof/WellFormed.lean ====
section
/-! DEFINITION. What a command must satisfy beside its type: the sizes of the data it carries and the ranges of its
counts. A meaning is defined on every command; these checks say which of them the device can meet. -/

namespace Sys2Proof

/-- A count that a register or record of 32 bits can hold (R96, R379). -/
def count32 (n : Nat) : Bool := decide (n < 2 ^ 32)

/-- A message whose body is no longer than the body_len field can say (R314). -/
def Msg.wf (m : Msg) : Bool := decide (m.body.length < 2 ^ 16)

/-- A frame's payload: 0 to 4,096 bytes in 64-byte units (R333). -/
def TwFrame.wf (f : TwFrame) : Bool := decide (f.payload.length ≤ 4096) && f.payload.length % 64 == 0

/-- An access through the management window names at most one page (R313). -/
def WindowOp.wf : WindowOp → Bool
  | .read len => decide (len.toNat ≤ 4096)
  | .write data => decide (data.length ≤ 4096)

/-- SPDM nonces have 32 bytes (R434). -/
def Spdm.wf : Spdm → Bool
  | .measurements _ nonce | .challenge _ nonce => nonce.length == 32
  | .certificate .. | .algorithms _ | .other _ => true

/-- The rows or units that a late operation has done. -/
def Late.wf : Late → Bool
  | .job _ rows => decide (rows < 2 ^ 16)
  | .command units => count32 units
  | .queue .. | .collective _ | .message _ => true

/-- The requester of a hot-add or a remove. -/
def CxlSource.wf : CxlSource → Bool
  | .register .. => true
  | .message _ m => m.wf

/-- A command is well formed. -/
def Instr.wf : Instr → Bool
  | .instructionComplete _ _ seq _ wm _ => count32 seq && count32 wm
  | .tilePassBoundary _ committed => count32 committed
  | .deadlinePassed x => x.wf
  | .fsJobComplete _ _ wm _ => decide (wm < 2 ^ 16)
  | .cliffCommandComplete _ wm rebuilt => count32 wm && count32 rebuilt
  | .prefetchFill _ _ _ line => decide (line < 2 ^ 41)
  | .openScene _ m | .observe _ m | .plan _ m | .rollout _ m | .fork _ m | .closeStream _ m | .closeScene _ m
  | .loadModel _ m | .unloadModel _ m | .prefetchModel _ m | .openJob _ m | .trainStep _ m | .remap _ m
  | .updateOnly _ m | .closeJob _ m | .objCreate _ m | .objWrite _ m | .objRead _ m | .objDelete _ m
  | .createQp _ m | .destroyQp _ m | .bindFast _ m | .unbindFast _ m | .cancel _ m => m.wf
  | .cxlHotAdd src _ | .cxlHotRemove src => src.wf
  | .fastPathRequest _ payload _ => decide (payload.length ≤ 4096)
  | .rdmaWriteReceived _ _ _ data _ => decide (data.length < 2 ^ 32)
  | .rdmaReadResponse _ data => decide (data.length < 2 ^ 32)
  | .mgmtWindowAccess _ op => op.wf
  | .spdmMessage m => m.wf
  | .getMeasurements _ _ nonce | .challenge _ _ nonce => nonce.length == 32
  | .tidewayDataFrame _ f _ => f.wf
  | .ruleFire _ samples _ | .ruleRelease _ samples _ => samples != []
  | .ownerWrite _ piece => decide (piece.length ≤ 240)
  | .debugToken token => token.length == 160
  | _ => true

end Sys2Proof
end

