-- ==== Sys2Proof/Tests/Slice0.lean ====
section
/-! SUPPORT. Tests of the model, each expected result worked out from the spec, and for the statements a state and operands that meet
their hypotheses together. -/

namespace Sys2Proof.Tests

open Sys2Proof Sys2Proof.Machine

set_option Elab.async false

/-! ### States of the tests -/

/-- Logical core 0 with queue 0 as its holder, RUNNING. -/
def core0 : Core := { holder := some 0, queues := [(0, { state := .running })] }

/-- A module whose core 0 has an instruction at Ledge offset 0, the program counter of queue 0. -/
def tile (w0 w1 w2 w3 : Word) : State :=
  { State.reset.store (ledgeAt 0 0) (leBytes w0.toNat 8 ++ leBytes w1.toNat 8 ++ leBytes w2.toNat 8 ++ leBytes w3.toNat 8) with
    cores := [(0, core0)] }

/-- The instruction with four words at offset 0. -/
def insAt0 (w0 w1 w2 w3 : Word) : Ins := ⟨0, w0, w1, w2, w3⟩

/-- A flight of an instruction, its own work over. -/
def flightOf (w0 w1 w2 w3 : Word) : Flight := { started (insAt0 w0 w1 w2 w3) {} false with total := 1 }

/-- A module whose queue 0 of core 0 has one instruction in flight. -/
def flying (f : Flight) : State :=
  { State.reset with cores := [(0, { holder := some 0, queues := [(0, { state := .running, flights := [f], seq := 1 })] })] }

/-- Every waiting queue of a core waits in a WAIT_GE. -/
def tagsOk (k : Core) : Bool := k.queues.all (fun e => e.2.state != .waiting || e.2.inWaitGe)

theorem mem_of_find {α : Type} (m : FMap α) (i : Nat) (x : α) (h : FMap.find? m i = some x) : (i, x) ∈ m := by
  induction m with
  | nil => exact absurd h (by simp [FMap.find?])
  | cons e m ih =>
    obtain ⟨k, v⟩ := e
    simp only [FMap.find?] at h
    split at h
    · simp_all
    · exact List.mem_cons_of_mem _ (ih h)

theorem tags_of {s : State} {c : Nat} (h : tagsOk (s.core c) = true) (r : Nat) (hr : (s.queue c r).state = .waiting) :
    (s.queue c r).inWaitGe = true := by
  unfold State.queue Core.queue FMap.get at *
  cases hf : FMap.find? (s.core c).queues r with
  | none => rw [hf] at hr; exact absurd hr (by decide)
  | some x =>
    rw [hf] at hr
    have := List.all_eq_true.mp h _ (mem_of_find _ _ _ hf)
    simp only [Option.getD_some] at hr ⊢
    simpa [hr] using this

theorem issues_of {s : State} {c : Fin 36} {q : Fin 8} {i : Ins} (h : s.sys.dry = false ∧ s.sys.failed = false ∧
    s.canIssue c q = true ∧ s.fetchServed c q = true ∧ s.fetch c q = (.ok, i) ∧ (s.queue c q).discarding = false ∧ i.postEn = false) :
    s.issues c q i :=
  ⟨⟨h.1, h.2.1⟩, h.2.2.1, h.2.2.2.1, h.2.2.2.2.1, h.2.2.2.2.2.1, fun e => by rw [h.2.2.2.2.2.2] at e; exact absurd e (by decide)⟩

theorem calm_of {s : State} {c : Fin 36} {q : Fin 8} (h : (s.queue c q).flights = [] ∧ (s.core c).waiting = [] ∧
    (∀ r < 8, r ≠ q.val → (s.queue c r).state ≠ .running) ∧ tagsOk (s.core c) = true ∧ s.faultedWaiter = none ∧ s.est.fast = []) :
    s.calm c q :=
  ⟨h.1, h.2.1, h.2.2.1, tags_of h.2.2.2.1, h.2.2.2.2.1, h.2.2.2.2.2⟩

theorem lone_of {s : State} {c : Fin 36} {q : Fin 8} {f : Flight} (h : s.sys.dry = false ∧ s.sys.failed = false ∧
    s.coreMoves c = true ∧ (s.queue c q).flights = [f] ∧ (s.queue c q).state = .running ∧ f.done = false ∧ f.status = .ok ∧
    f.aborted = false ∧ f.fatal = false ∧ f.gated = false ∧ f.scAtEnd = none ∧ f.counts = []) (k : (s.performAdds c f).1 = .ok ∧
    (s.core c).holder = some q.val ∧ (s.core c).stopping = false ∧ (s.core c).waiting = [] ∧
    (∀ r < 8, r ≠ q.val → (s.queue c r).state ≠ .running) ∧ tagsOk (s.core c) = true ∧
    (∀ r < 8, r ≠ q.val → ∀ g ∈ (s.queue c r).flights, g.ins.opcode ≠ opWload) ∧ s.faultedWaiter = none ∧ s.est.fast = []) :
    s.lone c q f := by
  obtain ⟨h1, h2, h3, h4, h5, h6, h7, h8, h9, h10, h11, h12⟩ := h
  obtain ⟨k1, k2, k3, k4, k5, k6, k7, k8, k9⟩ := k
  exact ⟨⟨h1, h2⟩, h3, h4, h5, h6, h7, h8, h9, h10, fun p e => by rw [h11] at e; exact absurd e (by simp),
    fun x e => by rw [h12] at e; exact absurd e (by simp), k1, k2, k3, k4, k5, tags_of k6, k7, k8, k9⟩

/-! ### Tile instructions: what the statements assume is met -/

theorem witness_issues : (tile 0x21 0x10 5 0).issues 0 0 (insAt0 0x21 0x10 5 0) := issues_of (by decide +kernel)

theorem witness_calm : (tile 0x21 0x10 5 0).calm 0 0 := calm_of (by decide +kernel)

/-- A word from field values and their lowest bits. -/
def fields (l : List (Nat × Nat)) : Word := BitVec.ofNat 64 (l.map (fun p => p.1 * 2 ^ p.2)).sum

/-- ScalarResults: the eight operations, the last 8-byte offset of the Ledge. -/
theorem witness_ScalarResults (op : Fin 8) : let i := insAt0 0x21 (BitVec.ofNat 64 op.val) 0xFFFFF8 0
    let s := tile i.w0 i.w1 i.w2 i.w3
    s.issues 0 0 i ∧ s.calm 0 0 ∧ (s.adds 0 i).1 = .ok ∧ i.opcode = opScalar ∧ ctlFormatOk i (highBits 19) 0 (highBits 0) = true ∧
      i.scOp = op.val ∧ bit1 (s.rd (.sequencer 0) .qCfg 0) 4 = false ∧ i.w2.toNat % 8 = 0 ∧ i.w2.toNat + 8 ≤ ledgeSize ∧
      s.badIn (ledgeAt 0 i.w2.toNat) 8 = none :=
  ⟨issues_of (by revert op; decide +kernel), calm_of (by revert op; decide +kernel), by revert op; decide +kernel⟩

/-- ControlFlowResults: FENCE, END, a branch that is taken and one that is not. -/
theorem witness_ControlFlowResults :
    (∀ w ∈ [(0x28 : Word), 0x3F], (tile w 0 0 0).issues 0 0 (insAt0 w 0 0 0) ∧ (tile w 0 0 0).calm 0 0 ∧
      ((tile w 0 0 0).adds 0 (insAt0 w 0 0 0)).1 = .ok ∧ ctlFormatOk (insAt0 w 0 0 0) (highBits 0) (highBits 0) (highBits 0) = true) ∧
    (∀ k : Fin 2, let i := insAt0 0x20 (fields [(k.val, 8)]) 0 0
      let s := tile i.w0 i.w1 i.w2 i.w3
      s.issues 0 0 i ∧ s.calm 0 0 ∧ (s.adds 0 i).1 = .ok ∧ i.opcode = opBranch ∧ ctlFormatOk i branchRsv 0 (highBits 0) = true ∧ bits i.w1 10 8 ≠ 7 ∧
        branchTaken (bits i.w1 10 8) (s.scReg 0 0 0) (s.scReg 0 0 0) = (k.val == 0) ∧ s.targetOk 0 0 (branchTarget i) = true) := by
  refine ⟨fun w hw => ?_, fun k => ⟨issues_of (by revert k; decide +kernel), calm_of (by revert k; decide +kernel), by revert k; decide +kernel⟩⟩
  simp only [List.mem_cons, List.not_mem_nil, or_false] at hw
  rcases hw with rfl | rfl
  · exact ⟨issues_of (by decide +kernel), calm_of (by decide +kernel), by decide +kernel⟩
  · exact ⟨issues_of (by decide +kernel), calm_of (by decide +kernel), by decide +kernel⟩

/-- A module like `tile` whose local semaphore 0 of core 0 has count 5. -/
def tileSem (w0 w1 w2 w3 : Word) : State := { tile w0 w1 w2 w3 with cores := [(0, { core0 with sems := [(0, 5)] })] }

/-- A module whose queue 1 of core 0 waits in a WAIT_GE for a count of 5 while queue 0 holds the core. -/
def waiter : State :=
  { State.reset with cores := [(0, { core0 with sems := [(0, 5)], queues := [(0, { state := .running }),
      (1, { state := .waiting, flights := [flightOf 0x18 0 5 0], seq := 1 })] })] }

/-- SemaphoreInstructionResults: ADD and SUB by 5, a WAIT_GE for 5, and one released. -/
theorem witness_SemaphoreInstructionResults :
    (semFaulted (fields [(1, 48)]) = true ∧ semFaulted 5 = false) ∧
    (∀ w ∈ [(0x18 : Word), 0x19, 0x1A], (tileSem w 0 5 0).issues 0 0 (insAt0 w 0 5 0) ∧ (tileSem w 0 5 0).calm 0 0 ∧
      (tileSem w 0 5 0).addCheck (insAt0 w 0 5 0) = .ok ∧ wgCheck (insAt0 w 0 5 0) = .ok ∧ bit1 (insAt0 w 0 5 0).w1 17 = false ∧
      ((tileSem w 0 5 0).adds 0 (insAt0 w 0 5 0)).1 = .ok ∧ (((tileSem w 0 5 0).traceWait 0 (insAt0 w 0 5 0)).adds 0 (insAt0 w 0 5 0)).1 = .ok ∧
      semFaulted ((tileSem w 0 5 0).sem false 0 0) = false ∧ semCount ((tileSem w 0 5 0).sem false 0 0) = 5) ∧
    waiter.up ∧
    (let f := flightOf 0x18 0 5 0
     (waiter.queue 0 1).state = .waiting ∧ (waiter.queue 0 1).flights = [f] ∧ f.ins.opcode = opWaitGe ∧ f.done = false ∧
       f.aborted = false ∧ f.atEnd = [] ∧ f.scAtEnd = none ∧ f.ins.postEn = false ∧ f.ins.record = false ∧ f.ins.trace = false ∧
       waitDone (waiter.sem f.ins.semScope 0 f.ins.semIndex) (bits f.w2 47 0) (bits f.w3 47 0) = some .ok ∧
       (waiter.core 0).holder = some 0 ∧ ((waiter.core 0).queue 0).keeps = true ∧ waiter.qClass 0 0 ≤ waiter.qClass 0 1 ∧
       waiter.higherReady 0 0 = false ∧ (waiter.core 0).waiting = [] ∧ waiter.faultedWaiter = none ∧ waiter.est.fast = []) ∧
    (∀ r, (waiter.queue 0 r).state = .waiting → (waiter.queue 0 r).inWaitGe = true) := by
  refine ⟨by decide +kernel, fun w hw => ?_, ⟨rfl, rfl⟩, by decide +kernel, ?_⟩
  · simp only [List.mem_cons, List.not_mem_nil, or_false] at hw
    rcases hw with rfl | rfl | rfl
    · exact ⟨issues_of (by decide +kernel), calm_of (by decide +kernel), by decide +kernel⟩
    · exact ⟨issues_of (by decide +kernel), calm_of (by decide +kernel), by decide +kernel⟩
    · exact ⟨issues_of (by decide +kernel), calm_of (by decide +kernel), by decide +kernel⟩
  · have h : tagsOk (waiter.core 0) = true := by decide +kernel
    exact tags_of h

/-- A WLOAD of a BF16 block at offset 0x1000 into bank 0 of array 0. -/
def wloadW1 : Word := fields [(64, 0), (1, 21), (1, 25)]

/-- A module where that WLOAD is loading its bank with some bytes. -/
def loading (b : List Byte) : State :=
  let s := flying { flightOf 2 wloadW1 0 0 with loading := true }
  s.setCore 0 { s.core 0 with a0 := { bank0 := { state := .loading, bytes := b } } }

theorem loading_bytes (b : List Byte) : ((((loading b).core 0).arr 0).bank 0).bytes = b := rfl

theorem blockAt_congr {s t : State} (h : t.mem = s.mem) (c : Fin 36) (x : BankTag) : t.blockAt c x = s.blockAt c x :=
  State.bytes_congr (fun a => by simp only [State.byte, h]) _ _

/-- WeightLoadResults: a WLOAD that issues and whose load may begin, and one whose load ends. -/
theorem witness_WeightLoadResults :
    (let i := insAt0 2 wloadW1 0 0
     let s := tile i.w0 i.w1 i.w2 i.w3
     s.issues 0 0 i ∧ i.opcode = opWload ∧ s.wlCheck i = .ok ∧
       (s.queue 0 0).free { rd := [(ledgeAt 0 (Wl.of i).wt, blockBytes (Wl.of i).fa (Wl.of i).fw)] } = true ∧
       s.loadMayBegin 0 0 (s.queue 0 0).seq (Wl.of i) none = true) ∧
    (∀ b, let f := { flightOf 2 wloadW1 0 0 with loading := true }
     (loading b).lone 0 0 f ∧ f.ins.opcode = opWload ∧ f.loading = true ∧ (Wl.of f.ins).array = 0 ∧ (Wl.of f.ins).bank = 0 ∧
       (loading b).badIn (ledgeAt 0 (Wl.of f.ins).wt) (blockBytes (Wl.of f.ins).fa (Wl.of f.ins).fw) = none) ∧
    (∀ x, ∃ b, ((((loading b).core 0).arr 0).bank 0).bytes = (loading b).blockAt 0 x) :=
  have r1 : ∀ r < 8, r ≠ 0 → ((loading []).queue 0 r).state ≠ .running := by decide +kernel
  have r2 : ∀ r < 8, r ≠ 0 → ∀ g ∈ ((loading []).queue 0 r).flights, g.ins.opcode ≠ opWload := by decide +kernel
  ⟨⟨issues_of (by decide +kernel), by decide +kernel⟩, fun b => ⟨lone_of ⟨rfl, rfl, rfl, rfl, rfl, rfl, rfl, rfl, rfl, rfl, rfl, rfl⟩
    ⟨rfl, rfl, rfl, rfl, r1, rfl, r2, rfl, rfl⟩, rfl, rfl, rfl, rfl, rfl⟩,
    fun x => ⟨(loading []).blockAt 0 x, (loading_bytes _).trans
      (blockAt_congr (show (loading []).mem = (loading ((loading []).blockAt 0 x)).mem from rfl) 0 x)⟩⟩

/-- A VCHAIN without stages, one FP32 element, from offset 0x1000 to 0x2000 of the Ledge. -/
theorem witness_VectorChainResults :
    let i := insAt0 8 (fields [(64, 0), (64, 18), (128, 36)]) 0 (fields [(1, 0), (1, 16)])
    let s := tile i.w0 i.w1 i.w2 i.w3
    s.issues 0 0 i ∧ i.opcode = opVchain ∧ (s.queue 0 0).free (s.vcTouch 0 i) = true ∧ s.vcCheck 0 0 i = .ok ∧
      s.lenZero 0 0 i = false ∧ (Vc.of i).srcSpace = 0 ∧ (Vc.of i).dstSpace = 0 :=
  ⟨issues_of (by decide +kernel), by decide +kernel⟩

/-- An INT8 product of one element that drains to the Ledge as X96. -/
def x96Product : Ins := insAt0 1 (fields [(64, 0), (128, 18), (256, 36)]) (fields [(6, 46), (6, 50), (14, 54)]) (fields [(1, 0), (1, 16)])

/-- ProductResults: an FP32 product of one element whose tile stays, drains to the score store, or drains to the Ledge; one that drains
as X96; and one with an uncorrectable word in its operand. -/
theorem witness_ProductResults :
    (∀ k : Fin 3,
      let i := insAt0 1 (fields [(64, 0), (128, 18), (if k.val = 1 then 0 else 256, 36), (if k.val = 0 then 1 else 0, 57), (if k.val = 1 then 1 else 0, 62)])
          (fields [(if k.val = 1 then 63 else 0, 16)]) (fields [(1, 0), (1, 16)])
      let s := tile i.w0 i.w1 i.w2 i.w3
      s.issues 0 0 i ∧ i.opcode = opMatmul ∧ (s.queue 0 0).flights = [] ∧ (s.core 0).mmBankWait (Mm.of i) = false ∧
        (∀ b : Fin 2, s.loaderOf 0 (Mm.of i).array b = none) ∧ s.mmCheck 0 0 i = .ok ∧ s.lenZero 0 0 i = false ∧
        (Chain.ofWords (s.chainWords 0 (Mm.of i).chainId)).gateEn = false ∧ ((Mm.of i).keep = (k.val == 0)) ∧
        ((Mm.of i).outScore = (k.val == 1)) ∧ (Mm.of i).fo ≠ .x96 ∧ (Mm.of i).exact = false ∧
        s.mmBadTile 0 (started i {} false) (Mm.of i) 1 1 1 = none) ∧
    (let i := x96Product
     let s := tile i.w0 i.w1 i.w2 i.w3
     s.issues 0 0 i ∧ s.mmCheck 0 0 i = .ok ∧ (Mm.of i).fo = .x96 ∧ (Mm.of i).keep = false ∧ (Mm.of i).outScore = false ∧
       ({ s with bad := [ledgeAt 0 0x1000 / 32] }).mmBadTile 0 (started i {} false) (Mm.of i) 1 1 1 = some 0) :=
  ⟨fun k => ⟨issues_of (by revert k; decide +kernel), by revert k; decide +kernel⟩, issues_of (by decide +kernel), by decide +kernel⟩

/-- RecurrentStepResults: a step of 64 positions on FP32 state that writes its state image, and one that keeps its state. -/
theorem witness_RecurrentStepResults :
    ∀ k : Fin 2,
      let i := insAt0 3 (fields [(64, 0), (1024, 18), (2048, 36), (k.val, 57)]) (fields [(63, 16)]) (fields [(4, 0), (4, 16), (0x3FFFF, 43)])
      let s := tile i.w0 i.w1 i.w2 i.w3
      s.issues 0 0 i ∧ i.opcode = opRstep ∧ (s.queue 0 0).flights = [] ∧ (s.core 0).rsBankWait (Rs.of i) = false ∧
        (∀ b : Fin 2, s.loaderOf 0 (Rs.of i).array b = none) ∧ s.rsCheck 0 0 i = .ok ∧ s.lenZero 0 0 i = false ∧
        (Rs.of i).keep = (k.val == 1) ∧
        (s.rsOut 0 0 (s.withSr 0 0 { started i (s.rsTouch 0 i) false with
          m := s.extent 0 0 i 1 (Rs.of i).m, n := (Rs.of i).n, k := s.extent 0 0 i 3 (Rs.of i).k, units := (Rs.of i).units })).status = .ok :=
  fun k => ⟨issues_of (by revert k; decide +kernel), by revert k; decide +kernel⟩

/-- CopyResults: a unicast of one row inside the Ledge, one into HBM4, and a multicast to core 1. -/
theorem witness_CopyResults :
    ∀ k : Fin 3,
      let i := insAt0 0x10 (fields [(0x300000001000, 0)])
          (if k.val = 0 then fields [(0x300000002000, 0)] else if k.val = 1 then fields [(0x2000, 0), (1, 48)] else fields [(0x10000, 0)])
          (fields [(64, 0), (1, 24), (1, 44)])
      let s := (tile i.w0 i.w1 i.w2 i.w3).wr .multicast .mcastGroup 0 (fields [(1, 63), (1, 1)])
      s.issues 0 0 i ∧ i.opcode = opMove ∧ (s.queue 0 0).free (s.mvTouch 0 i) = true ∧ (s.core 0).dmaTags < 256 ∧
        s.mvServed (Mv.of i) = true ∧ s.mvCheck 0 0 i = .ok ∧ s.lenZero 0 0 i = false ∧ s.faultedWaiter = none ∧ s.est.fast = [] ∧
        (∀ r < s.extent 0 0 i 1 (Mv.of i).rows, s.badIn ((Mv.of i).src + r * (Mv.of i).srcStride) (Mv.of i).rowBytes = none) ∧
        harbourAddr (Mv.of i).src = false ∧ ((Mv.of i).group = k.val % 2) ∧ (Mv.of i).rowBytes ≤ (Mv.of i).dstStride ∧
        (k.val = 0 → ∀ r < s.extent 0 0 i 1 (Mv.of i).rows, harbourAddr ((Mv.of i).dst + r * (Mv.of i).dstStride) = false) ∧
        (k.val = 1 → 1 ∈ s.members 1 ∧ ∀ m ∈ s.members 1, ∀ n < 4, (s.window m n).2.2.2 = false) ∧
        (k.val = 2 → harbourAddr (Mv.of i).dst = true) :=
  fun k => ⟨issues_of (by revert k; decide +kernel), by revert k; decide +kernel⟩

/-- CompletionResults: a MOVE, a VCHAIN, a MATMUL and an RSTEP alone in flight, under HALT. -/
theorem witness_CompletionResults : ∀ w ∈ [(0x10 : Word), 8, 1, 3], let f := { flightOf w 0 0 0 with visited := 1 }
    (flying f).lone 0 0 f ∧ f.visited ≠ 0 ∧ f.ins.postEn = false ∧ bit1 ((flying f).rd (.sequencer 0) .qCfg 0) 2 = false := by
  intro w hw
  simp only [List.mem_cons, List.not_mem_nil, or_false] at hw
  rcases hw with rfl | rfl | rfl | rfl
  · exact ⟨lone_of (by decide +kernel) (by decide +kernel), by decide +kernel⟩
  · exact ⟨lone_of (by decide +kernel) (by decide +kernel), by decide +kernel⟩
  · exact ⟨lone_of (by decide +kernel) (by decide +kernel), by decide +kernel⟩
  · exact ⟨lone_of (by decide +kernel) (by decide +kernel), by decide +kernel⟩

/-- Queue 1 of core 0 is RUNNING, in class 0, beside a holder in class 1. -/
def rival (s : State) : State :=
  let k := s.core 0
  ((s.setCore 0 { k with queues := k.queues ++ [(1, { state := .running })] }).wr (.sequencer 0) .qCfg 0 1).wr (.sequencer 0) .qCfg 1 0

/-- A product of two rows at its arrival gate, and a module where it is in flight with a semaphore at a count. -/
def gatedFlight : Flight :=
  { started (insAt0 1 0 (fields [(1, 0)]) (fields [(64, 0)])) {} false with
    m := 2, n := 1, k := 1, gated := true, chainW := [fields [(1, 11)]] }
def gate (n : Word) : State :=
  { State.reset with cores := [(0, { holder := some 0, sems := [(0, n)], queues := [(0, { state := .running, flights := [gatedFlight] })] })] }

/-- PassBoundaryResults: a boundary alone and with a higher class ready, a gate that opens in part and in full, and deadlines. -/
theorem witness_PassBoundaryResults :
    (let f := { flightOf 1 0 0 0 with visited := 1 }
     let s := flying f
     f.product = true ∧ f.done = false ∧ opHolds f.ins.opcode = true ∧ (∀ r < 8, ∀ g ∈ (s.queue 0 r).flights, g.ins.opcode ≠ opWload) ∧
     s.coreMoves 0 = true ∧ (s.core 0).holder = some 0 ∧ (s.queue 0 0).onUnit = some f ∧ f.stopping = false ∧ s.late 0 0 = false ∧
       s.higherReady 0 0 = false ∧ ((rival s).queue 0 0).onUnit = some f ∧ (rival s).late 0 0 = false ∧
       (rival s).higherReady 0 0 = true ∧ ((rival s).queue 0 1).state = .running ∧ (rival s).qClass 0 1 < (rival s).qClass 0 0 ∧
       (∀ r < 8, r ≠ 1 → ((rival s).queue 0 r).state = .running → (rival s).qClass 0 1 < (rival s).qClass 0 r)) ∧
    ((gate 1).coreMoves 0 = true ∧ ((gate 1).queue 0 0).flights = [gatedFlight] ∧ gatedFlight.done = false ∧
      gatedFlight.status = .ok ∧ gatedFlight.groups < (gate 1).gateOpen 0 0 gatedFlight ∧
      (gate 1).gateOpen 0 0 gatedFlight < ceilDiv gatedFlight.m (rowsPerGroup (Mm.of gatedFlight.ins).fa) ∧
      (Chain.ofWords gatedFlight.chainW).gateEn = true ∧
      (gate 2).gateOpen 0 0 gatedFlight = ceilDiv gatedFlight.m (rowsPerGroup (Mm.of gatedFlight.ins).fa)) ∧
    (let f := flightOf 8 0 0 0
     let s : State := { State.reset with
       now := 2, cores := [(0, { holder := some 0, queues := [(0, { state := .running, flights := [f], deadline := 1 })] })] }
     s.coreLive 0 = true ∧ s.coreMoves 0 = true ∧ (s.core 0).holder = some 0 ∧ (s.queue 0 0).flights = [f] ∧ f.done = false ∧
       f.ins.opcode = opVchain ∧ f.aborted = false ∧ f.fatal = false ∧ f.gated = false ∧ f.counts = [] ∧ f.ins.postEn = false ∧ (s.queue 0 0).state = .running ∧ s.est.fast = [] ∧ (s.core 0).waiting = [] ∧
       (s.queue 0 0).deadline ≠ 0 ∧
       (s.queue 0 0).deadline.toNat < s.now.toNat ∧ bit1 (s.rd (.sequencer 0) .qCfg 0) 2 = false ∧ s.faultedWaiter = none) := by
  decide +kernel

/-- Queue 1 of core 0 in a state beside the holder. -/
def beside (x : QState) : State :=
  { State.reset with cores := [(0, { core0 with queues := [(0, { state := .running }), (1, { state := x })] })] }

/-- DoorbellResults: queue 1 beside a holder, IDLE and HALTED; a core that no queue holds; and a queue that waits. -/
theorem witness_DoorbellResults :
    (∀ x ∈ [QState.idle, .halted], (beside x).up ∧ (beside x).coreLive 0 = true ∧ (beside x).live (.sequencer 0) = .running ∧
       ((beside x).core 0).holder = some 0 ∧ (((beside x).core 0).queue 0).keeps = true ∧ (beside x).qClass 0 0 ≤ (beside x).qClass 0 1 ∧
       (beside x).higherReady 0 0 = false ∧ ((beside x).queue 0 1).state = x ∧
       ∀ r, ((beside x).queue 0 r).state = .waiting → ((beside x).queue 0 r).inWaitGe = true) ∧
    ((State.reset.core 0).holder = none ∧ (∀ r < 8, (State.reset.queue 0 r).state ≠ .running) ∧ (State.reset.queue 0 0).state = .idle ∧
      ∀ r, (State.reset.queue 0 r).state = .waiting → (State.reset.queue 0 r).inWaitGe = true) ∧
    (waiter.up ∧ ∀ r, (waiter.queue 0 r).state = .waiting → (waiter.queue 0 r).inWaitGe = true) ∧
    (let f := flightOf 0x18 0 5 0
     (waiter.queue 0 1).state = .waiting ∧ (waiter.queue 0 1).flights = [f] ∧ f.ins.opcode = opWaitGe ∧ f.done = false ∧
      f.aborted = false ∧ f.old.taken = false ∧ f.ins.postEn = false ∧ (waiter.core 0).holder = some 0 ∧
      ((waiter.core 0).queue 0).keeps = true ∧ waiter.higherReady 0 0 = false ∧ (waiter.core 0).waiting = [] ∧
      waiter.faultedWaiter = none ∧ waiter.est.fast = [] ∧ waiter.coreLive 0 = true) := by
  have h1 : tagsOk ((beside .idle).core 0) = true := by decide +kernel
  have h2 : tagsOk ((beside .halted).core 0) = true := by decide +kernel
  have h3 : tagsOk (State.reset.core 0) = true := by decide +kernel
  have h4 : tagsOk (waiter.core 0) = true := by decide +kernel
  refine ⟨fun x hx => ?_, ⟨rfl, by decide +kernel, rfl, tags_of h3⟩, ⟨⟨rfl, rfl⟩, tags_of h4⟩, by decide +kernel⟩
  simp only [List.mem_cons, List.not_mem_nil, or_false] at hx
  rcases hx with rfl | rfl
  · exact ⟨⟨rfl, rfl⟩, by decide +kernel, by decide +kernel, rfl, rfl, by decide +kernel, by decide +kernel, rfl, tags_of h1⟩
  · exact ⟨⟨rfl, rfl⟩, by decide +kernel, by decide +kernel, rfl, rfl, by decide +kernel, by decide +kernel, rfl, tags_of h2⟩

/-- CoreRegisterResults: nothing in flight holds a write of DRIFT_LOG back, or an RSTEP does. -/
theorem witness_CoreRegisterResults :
    State.reset.coreLive 0 = true ∧ (State.reset.core 0).holdsWrite (.recurrent 0) = false ∧ (State.reset.core 0).waiting = [] ∧
    ((flying (flightOf 3 0 0 0)).core 0).holdsWrite (.recurrent 0) = true ∧
    bit1 (fields [(1, 19)]) 19 = true ∧ bit1 (fields [(1, 7)]) 7 = true ∧ bits (fields [(1, 7)]) 1 0 ≠ 3 ∧ bits (3 : Word) 1 0 = 3 := by
  decide +kernel

/-! ### Registers, handshake and tideline -/

/-- CountersSaturate: HB_HITS of a half that counts, or does not. -/
theorem witness_CountersSaturate :
    let s := (State.reset.wr (.harbour 0) .hbStat 0 0).wr (.harbour 0) .hbCtrl 0 2
    RegName.hbHits ∈ countersOf (Pg.harbour 0).type ∧ 0 < RegName.hbHits.entries ∧ (s.clearCounters (.harbour 0)).counting (.harbour 0) = true ∧
      (State.reset.wr (.harbour 0) .hbCtrl 0 0).counting (.harbour 0) = false := by
  decide +kernel

/-- EmptyQueueIdles, StepKeepsInvariant and DryBlocksRest: reset has no command waiting and keeps the invariant; standby and main power
may both be lost; and a module in Dry has commands of the main rails. -/
theorem witness_WholeMachine :
    State.reset.pending = [] ∧ State.reset.inv = true ∧ State.reset.sys.mainLost = false ∧
    (∃ s : State, s.pending = [] ∧ s.sys.mainLost = true ∧ s.standby = false) ∧ mainRails (.fence 35 7) = true ∧
    (∃ s : State, s.sys.dry = true) ∧ ∃ s : State, s.sys.failed = true :=
  ⟨rfl, by decide, rfl,
    ⟨{ State.reset with sys := { State.reset.sys with mainLost := true }, standby := false }, rfl, rfl, rfl⟩, rfl,
    ⟨{ State.reset with sys := { State.reset.sys with dry := true } }, rfl⟩,
    ⟨{ State.reset with sys := { State.reset.sys with failed := true } }, rfl⟩⟩

/-- StepTakesTheFront and StepOnlyAdds: a queue of one command, and the step that idles. -/
theorem witness_StepTakesTheFront : ({ State.reset with pending := [.ppsOut] } : State).pending = .ppsOut :: [] ∧
    step State.reset = .next { State.reset with now := State.reset.now + 1 } := ⟨rfl, rfl⟩

/-- EventSetIsCounted: the highest EVENT bit of a page. -/
theorem witness_EventSetIsCounted : 31 < 32 ∧ State.reset.pendingEvent .power = false ∧
    (State.reset.event .power 31).pendingEvent .power = true := by decide +kernel

/-- RegisterWriteResults on the recurrent page of core 0: nothing in flight holds a write back, or an RSTEP does. -/
theorem witness_CounterClear :
    (Pg.ofIndex (Pg.recurrent 0).index = some (.recurrent 0) ∧ State.reset.answersAt (.recurrent 0) = true ∧
      State.reset.agentReaches (Pg.recurrent 0).index 2 = true ∧ (Pg.recurrent 0).type.counterCtl = some (.recurCtrl, 7, 8) ∧
      (State.reset.core 0).waiting = [] ∧ (State.reset.core 0).holdsWrite (.recurrent 0) = false) ∧
    ((flying (flightOf 3 0 0 0)).core 0).waiting = [] ∧ ((flying (flightOf 3 0 0 0)).core 0).holdsWrite (.recurrent 0) = true := by
  decide +kernel

/-- RegisterWriteResults: page 8 answers; EVENT_MASK, EVENT, a register of the update page and an offset that nothing maps, each by
its address. -/
theorem witness_RegisterWriteResults :
    (Pg.ofIndex 8 = some .estuary ∧ State.reset.answersAt .estuary = true ∧ State.reset.agentReaches 8 2 = true ∧
      Pg.estuary.type.counterCtl.isSome = true ∧ State.reset.standby = true ∧ State.reset.sys.dry = false ∧
      State.reset.sys.failed = false ∧ (∀ o < 3, State.reset.agentReaches 8 o = true)) ∧
    (pageOf 0x3F0000008030 = some (8, 0x30) ∧ (findReg Pg.estuary.type 0x30).map (fun x => (x.1, x.2.1)) = some (.eventMask, 0)) ∧
    (pageOf 0x3F0000008028 = some (8, 0x28) ∧ (findReg Pg.estuary.type 0x28).map (fun x => (x.1, x.2.1)) = some (.event, 0)) ∧
    (pageOf 0x3F0000008FF8 = some (8, 0xFF8) ∧ findReg Pg.estuary.type 0xFF8 = none) ∧
    (pageOf 0x3F0000017080 = some (23, 0x80) ∧ Pg.ofIndex 23 = some (.update 1) ∧ State.reset.answersAt (.update 1) = true ∧
      (findReg (Pg.update 1).type 0x80).map (fun x => (x.1, x.2.1)) = some (.updCtrl, 0) ∧
      RegName.updCtrl ∈ (regsOf (Pg.update 1).type).map (·.1) ∧ bit1 (2 : Word) 0 = false) := by decide +kernel

/-- A module whose queue pair 1 is the management window's and whose context is cached. -/
def windowed : State :=
  { State.reset with est := { State.reset.est with qps := [(1, some { role := 1, mgmt := true })], cache := [(1, [1])] } }

/-- RegisterReadResults: EVENT_MASK, an offset that nothing maps, an address past control space, one that is not aligned, and MRAM
with standby present and lost; the window serves. -/
theorem witness_RegisterReadResults :
    windowed.windowServes { role := 1, mgmt := true } ∧ windowed.standby = true ∧
    (pageOf 0x3F0000008030 = some (8, 0x30) ∧ Pg.ofIndex 8 = some .estuary ∧ windowed.answersAt .estuary = true ∧
      (findReg Pg.estuary.type 0x30).map (fun x => (x.1, x.2.1)) = some (.eventMask, 0)) ∧
    (pageOf 0x3F0000008FF8 = some (8, 0xFF8) ∧ findReg Pg.estuary.type 0xFF8 = none) ∧ pageOf 0x3F0004000000 = none ∧
    0x3F0000008031 % 8 ≠ 0 ∧ (∃ s : State, s.up ∧ s.standby = false) :=
  ⟨⟨⟨rfl, rfl⟩, rfl, ⟨rfl, rfl⟩, by decide +kernel, fun x h => absurd h (by decide +kernel +revert)⟩, rfl, by decide +kernel,
    by decide +kernel, by decide +kernel, by decide, ⟨{ State.reset with standby := false }, ⟨rfl, rfl⟩, rfl⟩⟩

/-! ### Handshake and tideline -/

/-- A module with the handshake of a page. -/
def liveAt (p : Pg) (l : Live) : State := State.reset.setLive p l

/-- A module whose core 0 is QUIESCED for its own owner while a queue holds it. -/
def resting : State := { liveAt (.sequencer 0) { state := .quiesced, owner := 1 } with cores := [(0, core0)] }

/-- HandshakeResults: a block in each state, a request of its owner, of Tidewatch and of another, cores, ports and others. -/
theorem witness_HandshakeResults :
    (∀ p ∈ [Pg.estuary, .sequencer 35, .twPort 15], ∀ x ∈ [LiveSt.running, .quiescing, .draining],
      (liveAt p { state := x, owner := 1 }).sys.dry = false ∧ (liveAt p { state := x, owner := 1 }).sys.failed = false ∧
      Pg.ofIndex p.index = some p ∧ p.governing = some p ∧ (liveAt p { state := x, owner := 1 }).present p = true ∧
      (liveAt p { state := x, owner := 1 }).swapping p = false ∧ (liveAt p { state := x, owner := 1 }).liveRec p = { state := x, owner := 1 }) ∧
    (let s := liveAt (.sequencer 35) { state := .quiesced, owner := 1 }
     FMap.get none s.sys.slices (s.physOf 35) = none ∧ s.sys.granted.contains (s.physOf 35) = false) ∧
    ((resting.core 0).heldBells = [] ∧ (resting.core 0).holder = some 0 ∧ ((resting.core 0).queue 0).keeps = true ∧
      resting.higherReady 0 0 = false ∧ (resting.liveRec (.sequencer 0)).state = .quiesced ∧ (resting.liveRec (.sequencer 0)).owner = 1) ∧
    (∀ r, (resting.queue 0 r).state = .waiting → (resting.queue 0 r).inWaitGe = true) ∧
    (liveAt .estuary { state := .quiescing }).atBoundary .estuary false = true ∧
    (liveAt .estuary { state := .draining }).atBoundary .estuary true = true ∧
    (let s : State := { liveAt (.sequencer 0) { state := .quiescing } with cores := [(0, { core0 with queues := [(0, { state := .running, flights := [flightOf 1 0 0 0] })] })] }
     s.atBoundary (.sequencer 0) false = false) ∧
    (let s : State := { liveAt (.sequencer 0) { state := .draining } with cores := [(0, { core0 with queues := [(0, { state := .running, flights := [flightOf 0x10 0 0 0] })] })] }
     s.atBoundary (.sequencer 0) true = false) := by
  have h : tagsOk (resting.core 0) = true := by decide +kernel
  exact ⟨by decide +kernel, by decide +kernel, by decide +kernel, tags_of h, by decide +kernel⟩

/-- A module whose tick configuration has a period of 4,000 and a tolerance of 400, at a time. -/
def tideAt (now : Word) (t : Tide) : State :=
  { State.reset with now := now, tide := { t with period := 0x0000019000000FA0 } }

/-- An edge at a time comes inside the window of a tick expected at 4,000. -/
def inWindow (n : Nat) : Prop :=
  (tideAt 0 { running := true }).tide.expected ≤ n + (tideAt 0 { running := true }).tide.tolerance ∧
  n ≤ (tideAt 0 { running := true }).tide.expected + (tideAt 0 { running := true }).tide.tolerance

/-- TickResults: the first edge, edges at both ends of the window and beyond them, a wide window, ticks of the internal period, a window
that closes, a slot, and configuration at its bounds. -/
theorem witness_TickResults :
    ((tideAt 0 {}).tide.per ≠ 0 ∧ (tideAt 0 {}).tide.internal = false ∧ (tideAt 5 { armed := some 0 }).tide.armed.isSome = true ∧
      (tideAt 5 { armed := some 0 }).tide.running = false) ∧
    (inWindow 3600 ∧ inWindow 4400 ∧ ¬inWindow 3599 ∧ ¬inWindow 4401) ∧
    (let s := tideAt 4000 { cfg := 0x100, running := true }
     s.tide.internal = true ∧ s.tide.expected ≤ s.now.toNat) ∧
    (let s := tideAt 4000 { cfg := 0x100, armed := some 1 }
     s.tide.internal = true ∧ s.tide.running = false ∧ firstMultiple s.tide.per (1 : Word).toNat ≤ s.now.toNat) ∧
    (let s := tideAt 4400 { running := true }
     s.tide.waiting = [] ∧ s.tide.missed + 1 < s.tide.limit ∧ s.tide.expected + s.tide.tolerance ≤ s.now.toNat ∧ s.tide.expected < 2 ^ 64) ∧
    (let s := (tideAt 2000 { cfg := 1, running := true }).wr .selfTest .stCtrl 0 0
     s.fld .tideline .tickNow 0 47 40 + 1 < s.tide.slots ∧ bit1 (s.rd .selfTest .stCtrl 0) 2 = false ∧
       s.tide.start.toNat + (s.fld .tideline .tickNow 0 47 40 + 1) * s.tide.slotLen ≤ s.now.toNat) ∧
    State.reset.standby = true ∧ bits (3999 : Word) 31 0 = 3999 ∧ bits (4000 : Word) 31 0 = 4000 ∧ bits (0 : Word) 31 0 = 0 := by
  refine ⟨by decide +kernel, ?_, by decide +kernel⟩
  unfold inWindow
  decide +kernel

/-- DisciplineResults: modes FREE, PTP and the other that steps, a step just above 4,000,000, the states that the loss of the reference
ends, and a second that has passed, an alarm and a port that is up. -/
theorem witness_DisciplineResults :
    (let s (m : Word) := State.reset.wr .tideline .discCtrl 0 m
     (s 0).fld .tideline .discCtrl 0 1 0 = 0 ∧ (s 0x11).fld .tideline .discCtrl 0 1 0 = 1 ∧ (s 0x13).fld .tideline .discCtrl 0 1 0 = 3 ∧
       bit1 ((s 0x11).rd .tideline .discCtrl 0) 4 = true ∧ (s 0x11).tide.locked = false ∧ (s 0x11).tide.stepped = false ∧
       (4000000 : Word).toInt ≤ 4000000 ∧ 4000000 < (4000001 : Word).toInt) ∧
    ((State.reset.wr .tideline .discStat 0 2).discState = 2 ∧ (State.reset.wr .tideline .discStat 0 1).discState = 1 ∧
      State.reset.discState = 0) ∧
    (let s := ((tideAt 4000 { running := true }).wr .tideline .discCtrl 0 0x11).wr .estuary .estStat 0 1
     s.fld .tideline .discCtrl 0 1 0 % 2 = 1 ∧ s.standby = true ∧ (0 : Fin 4).val = s.fld .tideline .discCtrl 0 3 2 ∧ s.linkUp 0 = true) ∧
    (let s := (tideAt 4000 { running := true }).wr .tideline .discCtrl 0 2
     s.fld .tideline .discCtrl 0 1 0 = 2 ∧ s.timeFollows = false ∧ s.tide.running = true ∧ (s.tickEdge 4000).1 = true) ∧
    (let s : State := { State.reset with now := 4000000000 }
     s.standby = true ∧ s.tide.recorded.toNat < s.now.toNat / 4000000000 * 4000000000) ∧
    (let s : State := { (State.reset.wr .tideline .wakeAlarm 0 1).wr .power .pwrWake 0 2 with
       now := 1, sys := { State.reset.sys with dry := true } }
     s.alarmDue = true ∧ s.latched = false ∧ s.sys.wake = none) ∧
    (State.reset.wr .estuary .estStat 0 8).linkUp 3 = true := by decide +kernel

/-! ### Messages, scenes and streams -/

/-- A message of an opcode with a body, about a scene and a stream. -/
def mkMsg (op : Nat) (body : List Byte) (scene stream : Nat) : Msg :=
  { version := 1, opcode := BitVec.ofNat 8 op, bodyLen := BitVec.ofNat 16 body.length, reserved := 0, requestId := 77,
    scene := BitVec.ofNat 32 scene, stream := BitVec.ofNat 32 stream, deadline := 0, body := body }

/-- A module with a service queue pair, 5, whose context is cached. -/
def served (g : Gulk) : State :=
  { State.reset with
    now := 1000, gulk := g, est := { State.reset.est with qps := [(5, some { role := 0 })], cache := [(5, [5])] } }

theorem takes_of {s : State} {qp : Nat} {m : Msg} (h : s.sys.dry = false ∧ s.sys.failed = false ∧
    (s.qp qp).any (·.service) = true ∧ (s.ctxSet qp).contains qp = true ∧ s.est.held = [] ∧ s.est.closed = false ∧
    32 + m.body.length ≤ 4096 ∧ s.live .estuary = .running ∧ s.unanswered (some qp) < 256 ∧ s.unanswered none < 65536 ∧
    msgHeaderOk m = true ∧ m.deadline = 0) : s.takes qp m := by
  obtain ⟨h1, h2, h3, h4, h5, h6, h7, h8, h9, h10, h11, h12⟩ := h
  exact ⟨⟨h1, h2⟩, by simpa [Option.any_eq_true] using h3, h4, by simp [h5], h6, h7, h8, ⟨h9, h10⟩, h11, .inl h12⟩

theorem gulkIdle_of {s : State} (h : s.gulk.reqs.all (·.2.isNone) = true ∧
    s.gulk.streams.all (fun x => x.2.all (fun y => decide (s.gulk.accepted ∉ y.work))) = true ∧
    ∀ (p : Fin 2) (n : Fin 8), s.decState p n ≠ 3) : s.gulkIdle := by
  refine ⟨fun x hx => ?_, fun x hx y hy => ?_, fun p n hn => h.2.2 p ⟨n, hn⟩⟩
  · simpa using List.all_eq_true.mp h.1 x hx
  · have := List.all_eq_true.mp h.2.1 x hx
    rw [hy] at this
    simpa using this

/-- The opcodes of the rows that the statement on failed messages names, with the sizes of their bodies (R315, R316). -/
def rowSizes : List (Nat × Nat) :=
  [(0x01, 32), (0x02, 24), (0x03, 48), (0x04, 40), (0x05, 24), (0x10, 24), (0x20, 16), (0x23, 8), (0x35, 16), (0x18, 16)]

/-- FailedMessageHasNoEffect: each row with a body of ones, which its first check refuses. -/
theorem witness_FailedMessageHasNoEffect (n : Fin 10) :
    let p := rowSizes.getD n.val (0, 0)
    let m := mkMsg p.1 (List.replicate p.2 0xFF) 0 0
    (served {}).takes 5 m ∧ (checkedRows 5 m).length = 10 ∧
      ((checkedRows 5 m)[n.val]?).map (fun r => (r.2.1 == m.opcode.toNat,
        firstFailure (r.2.2 ((served {}).accepts 5 m) (msgReq m 5 1000)))) = some (true, some Status.eFormat) :=
  ⟨takes_of (by revert n; decide +kernel), by revert n; decide +kernel⟩

/-- A scene of model 1, version 1, and its root stream, both in slot 0, with no version loaded. -/
def scene0 : Scene :=
  { gen := 0, model := 1, version := 1, cls := 1, srMode := 1, frameFmt := 0, seed := 99, interval := 0, threshold := 0, root := 0,
    intake := 0x10000, intakeBytes := 0x10000, rkey := 3 }
def stream0 : Stream := { gen := 0, scene := 0, seed := srMix 99 }
def sceneG : Gulk := { scenes := [(0, some scene0)], streams := [(0, some stream0)] }

/-- An OPEN_SCENE of model 1, version 1, with an intake region of 64 KiB. -/
def openMsg : Msg :=
  mkMsg 1 (leBytes 1 2 ++ leBytes 1 1 ++ leBytes 1 1 ++ leBytes 1 1 ++ leBytes 0 3 ++ leBytes 99 8 ++ leBytes 4 8 ++ leBytes 65536 4 ++ leBytes 0 4) 0 0

/-- A FORK of two children, with the scene's fork serial. -/
def forkMsg : Msg := mkMsg 5 (leBytes 2 2 ++ leBytes 0 14 ++ leBytes 5 4 ++ leBytes 100000 4) 0 0

/-- A CLOSE of a stream or of a scene, and a CANCEL of request 77 of the scene. -/
def closeMsg (kind : Nat) : Msg := mkMsg 6 (leBytes kind 8) 0 0
def cancelMsg : Msg := mkMsg 0x35 (leBytes 77 8 ++ leBytes 5 8) 0 0

/-- A request that queue pair 5 sent. -/
def reqOf (op : Nat) (body : List Byte) : Req :=
  { qp := 5, id := 77, op := op, accepted := 900, deadline := 0, scene := 0, stream := 0, body := body }

/-- An OBSERVE that runs on stream 0. -/
def observing : Gulk :=
  { sceneG with
    reqs := [(0, some (reqOf 2 []))], accepted := 1, streams := [(0, some { stream0 with phase := .running, work := [0] })] }

/-- A version of a model that is live, its package object 7. -/
def version1 (h : Hot) : ModelV := { hot := h, package := 7, pin := false, bays := 1, cores := 0, live := some 0, lastUse := 0 }
def loadedG (h : Hot) : Gulk := { models := [(modelKey 1 1, some (version1 h))] }

theorem intake_of (s : State) (h : s.hbmTaken = []) (k : 1 ≤ s.code.hbmUnits) : ((s.intakePlace 1).1).isSome = true := by
  have hd : (s.draw).2.hbmTaken = s.hbmTaken := rfl
  have hc : (s.draw).2.code = s.code := rfl
  simp only [State.intakePlace, hd, h, hc]
  simp only [Nat.one_ne_zero, if_false, Option.isSome_map, List.find?_isSome]
  exact ⟨0, by simp, by simpa using k⟩

/-- OpenSceneResults: a first scene with the largest intake place; a FORK, both kinds of CLOSE, and a CANCEL of a running OBSERVE. -/
theorem witness_OpenSceneResults :
    (let s := served (loadedG .resident)
     let u := s.accepts 5 openMsg
     s.takes 5 openMsg ∧ s.gulkIdle ∧ openMsg.opcode = 0x01 ∧ firstFailure (u.openChecks (msgReq openMsg 5 s.now)) = none ∧
      u.openVersion openMsg.body = some 1 ∧ s.openScenes.length < 64 ∧ s.openStreams.length < 16384 ∧ s.est.regions.length < 4096 ∧
      field openMsg.body 24 4 / poolUnit = 1 ∧ ((u.intakePlace 1).1).isSome = true) ∧
    (let s := served sceneG
     (∀ m ∈ [forkMsg, closeMsg 0, closeMsg 1], s.takes 5 m) ∧ s.gulkIdle ∧
      (s.stream 0).map (fun x => (x.phase, x.work)) = some (.idle, []) ∧ (s.scene 0).isSome = true ∧
      firstFailure ((s.accepts 5 forkMsg).forkChecks (msgReq forkMsg 5 s.now)) = none ∧
      (s.stream 0).map (fun x => (s.accepts 5 forkMsg).forkRoom x 2) = some true ∧
      firstFailure ((s.accepts 5 (closeMsg 0)).closeStreamChecks (msgReq (closeMsg 0) 5 s.now)) = none ∧ msgCloseKind (closeMsg 0) = 0 ∧
      firstFailure ((s.accepts 5 (closeMsg 1)).closeSceneChecks (msgReq (closeMsg 1) 5 s.now)) = none ∧ msgCloseKind (closeMsg 1) = 1) ∧
    (let s := served observing
     let u := s.accepts 5 cancelMsg
     s.takes 5 cancelMsg ∧ firstFailure (u.cancelChecks (msgReq cancelMsg 5 s.now)) = none ∧
      u.cancelTarget (msgReq cancelMsg 5 s.now) = some 0 ∧ s.gulk.accepted = 1 ∧ (s.req 0).map (fun x => (x.op, x.stream)) = some (2, 0) ∧
      (s.stream 0).map (fun x => (x.phase, x.work)) = some (.running, [0]) ∧ ∀ (p : Fin 2) (n : Fin 8), s.decState p n ≠ 3) := by
  refine ⟨⟨takes_of (by decide +kernel), gulkIdle_of (by decide +kernel), by decide +kernel, by decide +kernel,
    by decide +kernel, by decide +kernel, by decide +kernel, by decide +kernel, by decide +kernel, intake_of _ (by decide +kernel) (by decide +kernel)⟩, ⟨fun m hm => ?_, gulkIdle_of (by decide +kernel),
    by decide +kernel⟩, takes_of (by decide +kernel), by decide +kernel⟩
  simp only [List.mem_cons, List.not_mem_nil, or_false] at hm
  rcases hm with rfl | rfl | rfl <;> exact takes_of (by decide +kernel)

/-- A shape without layers, for a package of which the spec gives no numbers. -/
def flat : Shape :=
  { layers := 0, heads := 0, dim := 0, kvFmt := 0, recurrent := 0, gated := 0, stateBytes := 0, frame := 0, acts := 0, bytes := 0,
    width := 0, height := 0, tiled := 0, buffers := 0 }

theorem firstFailure_none {l : List (Bool × Status)} (h : ∀ x ∈ l, x.1 = false) : firstFailure l = none := by
  induction l with
  | nil => rfl
  | cons x l ih =>
    obtain ⟨b, st⟩ := x
    have hb : b = false := h _ List.mem_cons_self
    simp only [firstFailure, hb, Bool.false_eq_true, if_false]
    exact ih fun y hy => h y (List.mem_cons_of_mem _ hy)

/-- An OBSERVE of three tokens, a PLAN of two futures of one step, and a ROLLOUT of one future. -/
def observeMsg : Msg := mkMsg 2 (leBytes 1 4 ++ leBytes 3 4 ++ leBytes 0 4 ++ leBytes 0xFFFFFFFF 4 ++ leBytes 0 8) 0 0
def planMsg : Msg :=
  mkMsg 3 (leBytes 2 2 ++ leBytes 1 2 ++ leBytes 1 1 ++ leBytes 1 1 ++ leBytes 1 1 ++ leBytes 0 1 ++ leBytes 1 2 ++ leBytes 2 2 ++ leBytes 1 4 ++
    leBytes 0x3F800000 4 ++ leBytes 0x3F000000 4 ++ leBytes 0xFFFFFFFF 4 ++ leBytes 0 4 ++ leBytes 0x1000 8 ++ leBytes 5 4 ++ leBytes 65536 4) 0 0
def rollMsg : Msg :=
  mkMsg 4 (leBytes 1 2 ++ leBytes 1 2 ++ leBytes 0 4 ++ leBytes 9 4 ++ leBytes 0 12 ++ leBytes 0x1000 8 ++ leBytes 5 4 ++ leBytes 65536 4) 0 0

/-- StreamWorkResults: OBSERVE, PLAN and ROLLOUT on an idle stream, where the model's package has the flat shape. -/
theorem witness_StreamWorkResults (h : shapeOf [] = flat) :
    let s := served sceneG
    (∀ m ∈ [observeMsg, planMsg, rollMsg], s.takes 5 m) ∧ s.gulkIdle ∧ s.stream 0 = some stream0 ∧ stream0.phase = .idle ∧
      stream0.work = [] ∧ firstFailure ((s.accepts 5 observeMsg).observeChecks (msgReq observeMsg 5 s.now)) = none ∧
      firstFailure ((s.accepts 5 planMsg).planChecks (msgReq planMsg 5 s.now)) = none ∧
      (s.accepts 5 planMsg).forkRoom stream0 (PlanP.of planMsg.body).n = true ∧
      firstFailure ((s.accepts 5 rollMsg).rollChecks (msgReq rollMsg 5 s.now)) = none ∧ (RollP.of rollMsg.body).n ≠ 0 ∧
      (RollP.of rollMsg.body).steps ≠ 0 ∧ (s.accepts 5 rollMsg).forkRoom stream0 (RollP.of rollMsg.body).n = true := by
  have hp : ((served sceneG).accepts 5 planMsg).reqShape (msgReq planMsg 5 (served sceneG).now) = flat := h
  have hr : ((served sceneG).accepts 5 rollMsg).reqShape (msgReq rollMsg 5 (served sceneG).now) = flat := h
  refine ⟨fun m hm => ?_, gulkIdle_of (by decide +kernel), rfl, rfl, rfl, by decide +kernel, ?_, by decide +kernel, ?_, by decide +kernel,
    by decide +kernel, by decide +kernel⟩
  · simp only [List.mem_cons, List.not_mem_nil, or_false] at hm
    rcases hm with rfl | rfl | rfl <;> exact takes_of (by decide +kernel)
  · simp only [State.planChecks, hp]
    decide +kernel
  · simp only [State.rollChecks, hr]
    decide +kernel

/-- A stream whose OBSERVE has walked the tree, with its version in a state. -/
def stepping (h : Hot) (p : Phase) : State :=
  served { scenes := [(0, some scene0)], streams := [(0, some { stream0 with work := [0], bring := [4, 5, 6], phase := p })],
           reqs := [(0, some { reqOf 2 [] with walked := true })], accepted := 1,
           models := [(modelKey 1 1, some { version1 h with pin := true })] }

/-- StepResults: a step of three positions with its version COLD and with it PINNED, where the package has the flat shape; and a step
that runs. -/
theorem witness_StepResults (h : shapeOf [] = flat) :
    (∀ (p : Fin 2) (n : Fin 8), (stepping .pinned .idle).decState p n ≠ 3) ∧
    (∀ x : Hot, (stepping x .idle).up ∧ ((stepping x .idle).stream 0).map (fun y => (y.work, y.phase)) = some ([0], .idle) ∧
      (((stepping x .idle).req 0).map fun r => (r.op, r.walked, r.stop 1000 allStatus)) = some (2, true, none) ∧
      (stepping x .idle).scene 0 = some scene0 ∧
      ((stepping x .idle).model 1 1).map (fun v => (v.hot, v.waitTick)) = some (x, false) ∧ (stepping x .idle).shape 1 1 = flat) ∧
    ((stepping .pinned .idle).variantsOk scene0 flat 3 = true ∧
      ((stepping .pinned .idle).stream 0).map (fun y => decide (y.position + y.bring.length ≤ 1048576 ∧ y.map = [] ∧
        y.newRows flat y.bring.length * flat.pages + ((stepping .pinned .idle).cowPages y flat y.bring.length).length = 0 ∧
        (stepping .pinned .idle).tokNeed y y.bring.length + flat.buffers ≤ ((stepping .pinned .idle).modelReady 1 1).2.freeUnits 0)) =
          some true) ∧
    ((stepping .pinned .running).stream 0).map (·.phase) = some .running := by
  refine ⟨by decide +kernel, fun x => ?_, by decide +kernel, rfl⟩
  cases x <;> exact ⟨⟨rfl, rfl⟩, rfl, by decide +kernel, rfl, rfl, h⟩

/-- A module with one page. -/
def paged (p : KvPage) : State := served { pages := [(3, p)] }

/-- RecomputeResults: a page whose recomputation is under way, one that is not, and limits at both ends. -/
theorem witness_RecomputeResults :
    (let p : KvPage := { st := .recomputing, refs := 1, loc := 0x20000, memo := [1, 2, 3] }
     (paged p).up ∧ (paged p).page 3 = p ∧ (paged p).gulkIdle ∧ p.refs ≠ 0 ∧ (paged p).earlierFirst 3 = false ∧ (paged p).waitersOf 3 = []) ∧
    (let p : KvPage := { st := .resident, refs := 1, loc := 0x20000 }
     (paged p).page 3 = p ∧ p.st ≠ .recomputing) ∧
    (64 ≤ bits (64 : Word) 22 0 ∧ bits (4194304 : Word) 22 0 ≤ 4194304 ∧ State.reset.nodeCount ≤ bits (64 : Word) 22 0 ∧
      bits (63 : Word) 22 0 < 64 ∧ 4194304 < bits (4194305 : Word) 22 0) :=
  ⟨⟨⟨rfl, rfl⟩, rfl, gulkIdle_of (by decide +kernel), by decide, by decide +kernel, by decide +kernel⟩, by decide +kernel, by decide +kernel⟩

/-- A LOAD_MODEL of object 7 as version 1 of model 4 in bay 0, an UNLOAD_MODEL and a PREFETCH_MODEL of version 1 of model 1. -/
def loadMsg : Msg := mkMsg 0x10 (leBytes 7 4 ++ leBytes 4 2 ++ leBytes 1 1 ++ leBytes 0 1 ++ leBytes 1 1 ++ leBytes 0 15) 0 0
def unloadMsg : Msg := mkMsg 0x11 (leBytes 1 2 ++ leBytes 1 1 ++ leBytes 0 5) 0 0
def prefetchMsg : Msg := mkMsg 0x12 (leBytes 1 2 ++ leBytes 1 1 ++ leBytes 0 5) 0 0

/-- A module with package object 7. -/
def objects (g : Gulk) : State := { served g with cliff := { State.reset.cliff with objs := [(7, some { units := 8 })] } }

/-- ModelResults: a LOAD_MODEL, where LOAD_MODEL accepts the package and its weights take no unit; the other messages; and a version
that stages, with its LOAD_MODEL and without. -/
theorem witness_ModelResults (h : packageOk [] = true) (k : (shapeOf []).units = 0) :
    (let s := objects {}
     let u := s.accepts 5 loadMsg
     s.takes 5 loadMsg ∧ s.gulkIdle ∧ firstFailure (u.loadChecks (msgReq loadMsg 5 s.now)) = none ∧
       ∀ x : ModelV, x.package = 7 → u.stageUnits x ≤ u.freeUnits 0) ∧
    (∀ y ∈ [Hot.cold, .resident], let s := objects (loadedG y)
      s.takes 5 unloadMsg ∧ s.takes 5 prefetchMsg ∧ s.gulkIdle ∧
      firstFailure ((s.accepts 5 unloadMsg).versionChecks (msgReq unloadMsg 5 s.now) true) = none ∧
      firstFailure ((s.accepts 5 prefetchMsg).versionChecks (msgReq prefetchMsg 5 s.now) false) = none ∧
      s.model 1 1 = some (version1 y)) ∧
    (let s := objects (loadedG .staging)
     s.up ∧ s.gulkIdle ∧ s.model 1 1 = some (version1 .staging) ∧ (version1 .staging).loader = none ∧
       s.stageUnits (version1 .staging) ≤ (s.setModel 1 1 none).freeUnits 0) ∧
    (let v := { version1 .staging with loader := some 0 }
     let s := objects { models := [(modelKey 1 1, some v)], reqs := [(0, some (reqOf 0x10 []))], accepted := 1 }
     s.model 1 1 = some v ∧ s.req 0 = some (reqOf 0x10 []) ∧ s.stageUnits v ≤ (s.setModel 1 1 none).freeUnits 0) := by
  have hl : ((objects {}).accepts 5 loadMsg).pkg 7 = [] := by decide +kernel
  have hb : field (msgReq loadMsg 5 (objects {}).now).body 0 4 = 7 := by decide +kernel
  refine ⟨⟨takes_of (by decide +kernel), gulkIdle_of (by decide +kernel), ?_, fun x hx => ?_⟩, fun y hy => ?_,
    ⟨⟨rfl, rfl⟩, gulkIdle_of (by decide +kernel), rfl, rfl, ?_⟩, rfl, rfl, ?_⟩
  · simp only [State.loadChecks, hb, hl, h]
    decide +kernel
  · simp only [State.stageUnits, hx, hl, k, Nat.zero_mul, Nat.zero_le]
  · simp only [List.mem_cons, List.not_mem_nil, or_false] at hy
    rcases hy with rfl | rfl <;>
      exact ⟨takes_of (by decide +kernel), takes_of (by decide +kernel), gulkIdle_of (by decide +kernel), by decide +kernel, by decide +kernel, rfl⟩
  · have e : (objects (loadedG .staging)).pkg 7 = [] := by decide +kernel
    simp only [State.stageUnits, version1, e, k, Nat.zero_mul, Nat.zero_le]
  · have e : (objects { models := [(modelKey 1 1, some { version1 .staging with loader := some 0 })], reqs := [(0, some (reqOf 0x10 []))], accepted := 1 }).pkg 7 = [] := by
      decide +kernel
    simp only [State.stageUnits, version1] at e ⊢
    simp only [e, k, Nat.zero_mul, Nat.zero_le]

/-- Messages about object 9: an OBJ_CREATE in HBM4 or in Cliff, an OBJ_WRITE and an OBJ_READ of its second unit, and an OBJ_DELETE. -/
def createMsg (place : Nat) : Msg := mkMsg 0x20 (leBytes 9 4 ++ leBytes 2 4 ++ leBytes 0 1 ++ leBytes place 1 ++ leBytes 0 6) 0 0
def moveBody : List Byte := leBytes 9 4 ++ leBytes 1 4 ++ leBytes 1 4 ++ leBytes 0 4 ++ leBytes 0x1000 8 ++ leBytes 5 4 ++ leBytes 65536 4
def writeMsg : Msg := mkMsg 0x21 moveBody 0 0
def readMsg : Msg := mkMsg 0x22 moveBody 0 0
def deleteMsg : Msg := mkMsg 0x23 (leBytes 9 4 ++ leBytes 0 4) 0 0

/-- A module with object 9, and with a request not answered. -/
def object9 : CliffObj := { units := 2 }
def storing (r : List (Nat × Option Req)) : State :=
  { served { reqs := r, accepted := r.length } with cliff := { State.reset.cliff with objs := [(9, some object9)] } }

/-- ObjectResults: an object in HBM4 and one in Cliff; a write, a read and a delete; the host's bytes in part and whole; and a wait for
room that lasts and one that ends. -/
theorem witness_ObjectResults :
    (∀ d ∈ [0, 2], let m := createMsg d
      let u := (served {}).accepts 5 m
      (served {}).takes 5 m ∧ firstFailure (u.objCreateChecks (msgReq m 5 1000)) = none ∧ (placement (field m.body 9 1)).headD 2 = d ∧
        ceilDiv (field m.body 4 4) 16 ≤ u.freeUnits d) ∧
    (let s := storing []
     (∀ m ∈ [writeMsg, readMsg, deleteMsg], s.takes 5 m) ∧ s.gulkIdle ∧ s.cliffObj 9 = some object9 ∧ field moveBody 8 4 ≠ 0 ∧
      firstFailure ((s.accepts 5 writeMsg).objMoveChecks (msgReq writeMsg 5 s.now) true) = none ∧
      firstFailure ((s.accepts 5 readMsg).objMoveChecks (msgReq readMsg 5 s.now) false) = none ∧
      firstFailure ((s.accepts 5 deleteMsg).objDeleteChecks (msgReq deleteMsg 5 s.now)) = none) ∧
    (let r := reqOf 0x21 moveBody
     let s := storing [(0, some r)]
     s.up ∧ s.req 0 = some r ∧ r.stop s.now allStatus = none ∧ (r.data ++ [7]).length < field r.body 8 4 * 4096 ∧
       (r.data ++ List.replicate 4096 7).length = field r.body 8 4 * 4096 ∧ s.cliffObj (field r.body 0 4) = some object9 ∧
       s.cliffReadOnly = false) ∧
    (∀ (p : Fin 2) (n : Fin 8), (storing []).decState p n ≠ 3) ∧
    (let s (n : Word) : State := { storing [(0, some { reqOf 0x20 [] with poolWait := some 1000 })] with now := n }
     (s 1000).now.toNat < 1000 + (s 1000).fld .pool .poolCtrl 0 31 0 ∧
       1000 + (s 0xFFFFFFFFFF).fld .pool .poolCtrl 0 31 0 ≤ (s 0xFFFFFFFFFF).now.toNat) := by
  refine ⟨fun d hd => ?_, ⟨fun m hm => ?_, gulkIdle_of (by decide +kernel), by decide +kernel⟩, ⟨⟨rfl, rfl⟩, by decide +kernel⟩, by decide +kernel,
    by decide +kernel⟩
  · simp only [List.mem_cons, List.not_mem_nil, or_false] at hd
    rcases hd with rfl | rfl <;> exact ⟨takes_of (by decide +kernel), by decide +kernel⟩
  · simp only [List.mem_cons, List.not_mem_nil, or_false] at hm
    rcases hm with rfl | rfl | rfl <;> exact takes_of (by decide +kernel)

/-! ### On-package memory and far memory -/

/-- HarbourResults: region settings at both ends of what is defined, a flush that is busy, a prefetch that may be made, words that are
found failing, and a stack at 85 °C, at 86 °C and hot. -/
theorem witness_HarbourResults :
    State.reset.up ∧ State.reset.fld (.harbour 0) .hbStat 0 18 18 = 0 ∧
    (State.reset.wr (.harbour 0) .hbStat 0 0x40000).fld (.harbour 0) .hbStat 0 18 18 = 1 ∧
    (bits (fields [(2, 48), (4, 51)]) 50 48 ≤ 2 ∧ bits (fields [(2, 48), (4, 51)]) 54 51 ≤ 4 ∧ 2 < bits (fields [(3, 48)]) 50 48 ∧
      4 < bits (fields [(5, 51)]) 54 51) ∧
    (let s : State := { State.reset.wr (.harbour 0) .hbCtrl 0 4 with pf := [(35, { streams := [0x30000000 / 128] })] }
     let s := s.wr (.harbour 0) .hbCtrl 0 (fields [(1, 2), (20, 3)])
     let line := 0x30000000 / 128 + 4
     (bit1 (s.rd (.harbour 0) .hbCtrl 0) 2 && halfOf (line * 128) == 0 && harbourAddr (line * 128) && s.reach (line * 128) == .ok &&
       !s.harbour.contains line && (FMap.get {} s.pf (36 * 0 + 35)).may (s.fld (.harbour 0) .hbCtrl 0 10 3) line) = true) ∧
    (∀ a ∈ [(0x30000000 : Nat), 0x3000000000000], (State.reset.reach a = .ok) = (a = 0x30000000) ∧ hbmAddr a = (a == 0x30000000)) ∧
    State.reset.errs.held = [] ∧ State.reset.code.stackPresent 0 = true ∧ State.reset.fld (.hbm 0) .hbmStat 0 8 8 = 0 ∧
    (State.reset.wr (.hbm 0) .hbmStat 0 0x100).fld (.hbm 0) .hbmStat 0 8 8 = 1 ∧ 85 < (86 : Fin 256).val ∧ (85 : Fin 256).val ≤ 85 := by
  refine ⟨⟨rfl, rfl⟩, ?_⟩
  simp only [List.mem_cons, List.not_mem_nil, or_false, forall_eq_or_imp, forall_eq, eq_iff_iff]
  decide +kernel

/-- A module whose decoder 0 of CXL port 0 is in a state, with a window of 256 MiB, and whose port shows a status. -/
def decoder (st : Nat) (port : Word) : State :=
  (State.reset.wr (.cxl 0) .cxlDec 0 (BitVec.ofNat 64 (1 * 2 ^ 14 + st * 2 ^ 43))).wr (.cxl 0) .cxlStat 0 port

/-- AtomicResults: the last word of an 8-byte aligned place, one with an uncorrectable error, one that is not aligned, one outside HBM4
and the CXL windows, and one of a window that no decoder maps. -/
theorem witness_AtomicResults :
    let s : State := { State.reset with bad := [0x30000020 / 32] }
    s.up ∧ (∀ n ∈ [0x30000000, 0x30000028, 0x30000003, 0xC000000000, 0x3000000000000], s.served n 8 = true) ∧
      (harbourAddr 0x30000000 = true ∧ s.access 0x30000000 8 = .ok ∧ s.badIn 0x30000000 8 = none) ∧
      (harbourAddr 0x30000028 = true ∧ s.access 0x30000028 8 = .ok ∧ (s.badIn 0x30000028 8).isSome = true ∧ s.buffers) ∧
      0x30000003 % 8 ≠ 0 ∧ harbourAddr 0x3000000000000 = false ∧ harbourAddr 0xC000000000 = true ∧
      s.access 0xC000000000 8 = .eAddr := by
  refine ⟨⟨rfl, rfl⟩, ?_⟩
  simp only [List.mem_cons, List.not_mem_nil, or_false, forall_eq_or_imp, forall_eq, State.buffers]
  decide +kernel

/-- AtomicResults on a window whose link has been lost: the word is GONE. -/
theorem witness_AtomicGone :
    (decoder 4 0).served 0x100000000000 8 = true ∧ harbourAddr 0x100000000000 = true ∧ (decoder 4 0).access 0x100000000000 8 = .eGone := by
  decide +kernel

/-- RegulatorResults: floors that sum to 256, and to 257, on both stacks of bay 0. -/
theorem witness_RegulatorResults :
    let s := State.reset
    let sum (v : Word) := ((List.range 4).map (fun i => if i = 3 then bits v 7 0 else s.fld (.hbm 0) .hbmRegClass i 7 0)).sum
    s.up ∧ s.code.bayEnabled 0 = true ∧ (∀ i < 4, s.rd (.hbm 0) .hbmRegClass i = s.rd (.hbm 1) .hbmRegClass i) ∧ sum 64 ≤ 256 ∧
      256 < sum 255 := by
  refine ⟨⟨rfl, rfl⟩, ?_⟩
  decide +kernel

/-- MemoryWindowResults: an entry exactly as old as its limit, and one a unit younger. -/
theorem witness_MemoryWindowResults :
    let e : WcEntry := { line := 0x30000000 / 128, mask := 0xFF, since := 0 }
    let s (n : Word) : State := { State.reset with now := n, wc := [(0, [e])] }
    (s 0).up ∧ (s 0).wcOf 0 = [e] ∧ (s 0).code.bayEnabled 5 = true ∧ (∃ n : Word, n ≠ 0 ∧
      2 * (256 * max 1 ((s n).fld (.hbm 0) .hbmCtrl 0 9 2)) ≤ ((s n).now - e.since).toNat ∧
      ((s (n - 1)).now - e.since).toNat < 2 * (256 * max 1 ((s (n - 1)).fld (.hbm 0) .hbmCtrl 0 9 2))) := by
  refine ⟨⟨rfl, rfl⟩, rfl, by decide +kernel, BitVec.ofNat 64 (2 * (256 * max 1 (State.reset.fld (.hbm 0) .hbmCtrl 0 9 2))), ?_⟩
  decide +kernel

/-- A CXL_OP message about decoder 0 of port 0: 1 a hot-add, 2 a remove. -/
def cxlMsg (op : Nat) : Msg :=
  mkMsg 0x34 (leBytes 0 1 ++ leBytes op 1 ++ leBytes 0 1 ++ leBytes 0 1 ++ leBytes 0 2 ++ leBytes 1 2 ++ leBytes 0 2 ++ leBytes 0 6) 0 0

/-- A link that trains at ×16, whose device has capacity for the window and whose check succeeds. -/
def trained : CxlTrain := ⟨true, 16, true, 100, true⟩

/-- The service queue pair of a module may manage it. -/
def managed (s : State) : State :=
  { s with est := { s.est with qps := [(5, some { role := 0, mgmt := true })], cache := [(5, [5])] } }

/-- CxlResults: a decoder that is OFF with its link down or up, ONLINE alone or beside another, and messages that ask for a hot-add and
a remove. -/
theorem witness_CxlResults :
    (let s := decoder 0 0
     s.up ∧ s.gulk.pages = [] ∧ s.cliff.objs = [] ∧ s.buffers ∧ s.decState 0 0 = 0 ∧ s.windowOk 0 0 (s.decFields 0 0) = true ∧
       trained.link = true ∧ trained.width = 16 ∧ bit1 (s.rd (.cxl 0) .cxlStat 0) 0 = false ∧ s.sys.deadPorts.contains 16 = false ∧
       (s.decFields 0 0).dpa + (s.decFields 0 0).size ≤ trained.capacity.toNat ∧ trained.check = true ∧ s.gulkIdle) ∧
    (let s := decoder 2 1
     s.decState 0 0 = 2 ∧ s.decState 0 0 ≠ 0 ∧ bit1 (s.rd (.cxl 0) .cxlStat 0) 0 = true ∧
       (∀ j < 8, j ≠ 0 → s.decState 0 j ≠ 2 ∧ s.decState 0 j ≠ 3) ∧ s.gulkIdle ∧
       (s.wr (.cxl 0) .cxlDec 7 (s.rd (.cxl 0) .cxlDec 0)).decState 0 7 = 2) ∧
    (∀ k : Fin 2, let s := managed (decoder (2 * k.val) 1)
      let m := cxlMsg (k.val + 1)
      s.takes 5 m ∧ s.gulkIdle ∧ m.opcode = 0x34 ∧ field m.body 0 1 = 0 ∧ field m.body 2 1 = 0 ∧ field m.body 1 1 = k.val + 1 ∧
        firstFailure ((s.accepts 5 m).cxlChecks (msgReq m 5 s.now)) = none ∧
        (k.val = 0 → s.windowOk 0 0 ⟨field m.body 4 2, field m.body 6 2, field m.body 8 2⟩ = true)) := by
  refine ⟨⟨⟨rfl, rfl⟩, rfl, rfl, ⟨by decide +kernel, by decide +kernel⟩, by decide +kernel, by decide +kernel, rfl, rfl, by decide +kernel,
    by decide +kernel, by decide +kernel, rfl, gulkIdle_of (by decide +kernel)⟩, ⟨by decide +kernel, by decide +kernel, by decide +kernel,
    by decide +kernel, gulkIdle_of (by decide +kernel), by decide +kernel⟩, fun k => ⟨takes_of (by revert k; decide +kernel),
    gulkIdle_of (by revert k; decide +kernel), by revert k; decide +kernel⟩⟩

/-! ### Foreshore and Cliff -/

/-- Words as bytes. -/
def words8 (l : List Word) : List Byte := l.flatMap (fun w => leBytes w.toNat 8)

/-- A module with a one-layer job over a 16×16 frame in the ring of each engine, its output at an address, on a context or none, whose
layer looks back over kt frames. -/
def foreshore (flags out ctx kt : Nat) : State :=
  let s := State.reset.store 0x30000000 (words8 [BitVec.ofNat 64 (0x30000100 + flags), 0x30010000, BitVec.ofNat 64 out, BitVec.ofNat 64 ctx, 1, 2, 0, 0])
  let s := s.store 0x30000100 (words8 [BitVec.ofNat 64 ((kt - 1) * 2 ^ 8), 0x30020000, BitVec.ofNat 64 (15 + 15 * 2 ^ 16), 0])
  let s := ((s.wr (.foreshore 0) .fsRingBase 0 0x30000000).wr (.foreshore 0) .fsRingTail 0 1).wr (.foreshore 0) .fsCtrl 0 1
  ((s.wr (.foreshore 1) .fsRingBase 0 0x30000000).wr (.foreshore 1) .fsRingTail 0 1).wr (.foreshore 1) .fsCtrl 0 1

/-- The job at the head of the ring. -/
def jobOf (s : State) : FsJob := { words := s.words 0x30000000 8, layers := s.words 0x30000100 4, ix := 0, started := s.now }

/-- Engine 0 runs its job, and engine 1 has nothing or its job waiting. -/
def engines (s : State) (w : Bool) : State :=
  { s with fore := (0, some (jobOf s)) :: if w then [(1, some { jobOf s with waiting := true })] else [] }

/-- ForeshoreResults: no job to start; a job that starts on no context and on a context of its own, and one whose context is taken; jobs
that wait, run, and complete, with every word of theirs in order and with one that is not. -/
theorem witness_ForeshoreResults :
    (State.reset.up ∧ State.reset.live (.foreshore 0) = .running ∧ State.reset.fsJob 0 = none ∧
      State.reset.fld (.foreshore 0) .fsRingHead 0 31 0 = State.reset.fld (.foreshore 0) .fsRingTail 0 31 0) ∧
    (∀ k : Fin 2, let s := foreshore 0 0x30040000 (0x30030000 * k.val) (1 + k.val)
      s.live (.foreshore 0) = .running ∧ s.fsJob 0 = none ∧ bit1 (s.rd (.foreshore 0) .fsCtrl 0) 0 = true ∧
      s.fld (.foreshore 0) .fsRingHead 0 31 0 = 0 ∧ s.fld (.foreshore 0) .fsRingTail 0 31 0 = 1 ∧
      s.fld (.foreshore 0) .fsRingBase 0 47 6 * 64 + 64 * (0 % 2 ^ s.fld (.foreshore 0) .fsRingCfg 0 3 0) = 0x30000000 ∧
      s.access 0x30000000 64 = .ok ∧ s.badIn 0x30000000 64 = none ∧
      s.words (bits (s.word 0x30000000) 47 0) (4 * (bits (s.word 0x30000000) 51 48 + 1)) = (jobOf s).layers ∧
      s.fsCheck (jobOf s) = .ok ∧ s.fsTaken 0 (jobOf s) = false ∧ (k.val = 1 → (jobOf s).ctx ≠ 0 ∧ s.word (jobOf s).ctx = 0)) ∧
    (let s := engines (foreshore 0 0x30040000 0x30030000 2) false
     s.fsJob 1 = none ∧ s.fsCheck (jobOf s) = .ok ∧ s.fsTaken 1 (jobOf s) = true ∧ (s.fsJob 0).map (·.waiting) = some false ∧
       s.faultedWaiter = none ∧ s.est.fast = [] ∧ s.jobBad (jobOf s) = none ∧
       (({ s with bad := [0x30010000 / 32] }).jobBad (jobOf s)).isSome = true ∧ s.ringBase = 0 ∧ s.errs.buffered = [] ∧ bit1 ((jobOf s).word 0) 55 = false ∧
       bit1 ((jobOf s).word 0) 54 = false) ∧
    (let s : State := { foreshore 0 0x30040000 0x30030000 2 with fore := [(1, some { jobOf (foreshore 0 0x30040000 0x30030000 2) with waiting := true })] }
     (s.fsJob 1).map (·.waiting) = some true ∧ s.fsTaken 1 (jobOf s) = false ∧ bit1 (s.rd (.foreshore 1) .fsCtrl 0) 0 = true ∧
       bit1 ((s.wr (.foreshore 1) .fsCtrl 0 0).rd (.foreshore 1) .fsCtrl 0) 0 = false) := by
  refine ⟨⟨⟨rfl, rfl⟩, by decide +kernel⟩, fun k => by revert k; decide +kernel, by decide +kernel, by decide +kernel⟩

/-- A Cliff command in the ring of a module whose Cliff holds object 7. -/
def cliffRing (op obj first n addr : Nat) : State :=
  let s : State := { State.reset with cliff := { State.reset.cliff with objs := [(7, some { units := 3, data := [(0, 1), (4096, 9)] })] } }
  let s := s.store 0x30000000 (words8 [BitVec.ofNat 64 op, BitVec.ofNat 64 obj, BitVec.ofNat 64 (first + n * 2 ^ 32), BitVec.ofNat 64 addr, 0, 0, 0, 0])
  ((s.wr .cliff .cliffRingBase 0 0x30000000).wr .cliff .cliffRingTail 0 1).wr .cliff .cliffCtrl 0 1

/-- That command in flight. -/
def cliffRun (s : State) : State := { s with cliff := { s.cliff with runs := s.cliffNext.toList } }

/-- CliffResults: nothing to start; each command that passes its checks, at the last unit of its object, and each that fails one; each in
flight; and slack water, and a slot in which queue 0 of core 0 runs. -/
theorem witness_CliffResults :
    State.reset.up ∧ State.reset.cliffNext = none ∧
    (∀ p ∈ [(cliffRing 1 9 0 2 0, 1), (cliffRing 2 7 2 1 0x30010000, 2), (cliffRing 3 7 2 1 0x30010000, 3), (cliffRing 4 7 0 0 0, 4)],
      p.1.cliffNext.map (fun r => (r.op, r.status, p.1.cliffCheck r)) = some (p.2, Status.ok, Status.ok)) ∧
    (∀ p ∈ [(cliffRing 1 7 0 2 0, 1), (cliffRing 2 7 2 2 0x30010000, 2), (cliffRing 3 7 3 1 0x30010000, 3), (cliffRing 4 8 0 0 0, 4)],
      p.1.cliffNext.map (fun r => (r.op, r.status, p.1.cliffCheck r == Status.ok)) = some (p.2, Status.ok, false)) ∧
    (∀ p ∈ [(cliffRing 1 9 0 2 0, 1), (cliffRing 2 7 2 1 0x30010000, 2), (cliffRing 3 7 2 1 0x30010000, 3), (cliffRing 4 7 0 0 0, 4)],
      (cliffRun p.1).cliff.runs.map (fun r => (r.op, r.status, (cliffRun p.1).badIn r.addr (r.count * 4096), bit1 (r.w 0) 11, bit1 (r.w 0) 10)) =
        [(p.2, Status.ok, none, false, false)] ∧ (cliffRun p.1).faultedWaiter = none ∧ (cliffRun p.1).est.fast = [] ∧
        (cliffRun p.1).ringBase = 0 ∧ (cliffRun p.1).errs.buffered = []) ∧
    (State.reset.slackFor 0 = true ∧ ({ State.reset with cores := [(0, core0)] } : State).slackFor 0 = false) := by
  refine ⟨⟨rfl, rfl⟩, by decide +kernel, fun p hp => ?_, fun p hp => ?_, fun p hp => ?_, by decide +kernel⟩ <;>
    (simp only [List.mem_cons, List.not_mem_nil, or_false] at hp
     rcases hp with rfl | rfl | rfl | rfl <;> decide +kernel)

/-! ### Host service -/

theorem noRegion_of {s : State} (h : ∀ (x : Fin 2) (n : Fin 16), bit1 (s.rd (.harbour x) .hbRegionBase n) 63 = false) (a : Nat) :
    s.regionAt a = none := by
  unfold State.regionAt
  simp only [Option.map_eq_none_iff, List.find?_eq_none, List.mem_range]
  intro n hn
  simp [h (halfOf a) ⟨n, hn⟩]

/-- A module with two queue pairs beside its service one: a fast one, and a data one whose set of contexts is the service one's. -/
def paired : State :=
  { State.reset with
    est := { State.reset.est with qps := [(5, some { role := 0 }), (9, some { role := 2 }), (1029, some { role := 1 })], cache := [(5, [5])] } }

/-- A CREATE_QP, a DESTROY_QP of queue pair 9, a BIND_FAST of it to queue 0 of core 0, and its UNBIND_FAST. -/
def createQpMsg : Msg := mkMsg 0x30 (leBytes 0 4 ++ leBytes 2 1 ++ leBytes 3 1 ++ leBytes 2 1 ++ leBytes 0 1 ++ leBytes 77 4 ++ leBytes 5 4 ++
  leBytes 0xABCDEF 16 ++ leBytes 4791 2 ++ leBytes 0 14) 0 0
def destroyQpMsg : Msg := mkMsg 0x31 (leBytes 9 4 ++ leBytes 0 4) 0 0
def bindMsg : Msg := mkMsg 0x32 (leBytes 9 4 ++ leBytes 0 2 ++ leBytes 64 2 ++ leBytes 0x1000 4 ++ leBytes 0x2000 4 ++ leBytes 64 2 ++ leBytes 0 1 ++
  leBytes 1 1 ++ leBytes 4 4 ++ leBytes 1 1 ++ leBytes 0 7) 0 0
def unbindMsg : Msg := mkMsg 0x33 (leBytes 9 4 ++ leBytes 0 4) 0 0

/-- The binding of queue pair 9 to queue 0 of core 0, and a module where it is bound. -/
def bind9 : FastBind :=
  { core := 0, queue := 0, pc := 0, inLen := 64, inOff := 0x1000, outOff := 0x2000, outLen := 64, array := 0, bank := 1, wt := 256, wFmt := 1,
    transposed := false }
def bound : State :=
  { paired with est := { paired.est with qps := [(5, some { role := 0 }), (9, some { role := 2, fast := some bind9 })] } }

/-- QueuePairMessageResults: each of the four messages. -/
theorem witness_QueuePairMessageResults :
    (∀ m ∈ [createQpMsg, destroyQpMsg, bindMsg], paired.takes 5 m) ∧ bound.takes 5 unbindMsg ∧ paired.gulkIdle ∧ bound.gulkIdle ∧
      firstFailure ((paired.accepts 5 createQpMsg).createQpChecks (msgReq createQpMsg 5 paired.now)) = none ∧
      firstFailure ((paired.accepts 5 destroyQpMsg).destroyQpChecks (msgReq destroyQpMsg 5 paired.now)) = none ∧
      firstFailure ((paired.accepts 5 bindMsg).bindChecks (msgReq bindMsg 5 paired.now)) = none ∧
      firstFailure ((bound.accepts 5 unbindMsg).unbindChecks (msgReq unbindMsg 5 bound.now)) = none ∧
      (paired.qp 9).isSome = true ∧ (bound.qp 9).isSome = true := by
  refine ⟨fun m hm => ?_, takes_of (by decide +kernel), gulkIdle_of (by decide +kernel), gulkIdle_of (by decide +kernel), by decide +kernel,
    by decide +kernel, by decide +kernel, by decide +kernel, rfl, rfl⟩
  simp only [List.mem_cons, List.not_mem_nil, or_false] at hm
  rcases hm with rfl | rfl | rfl <;> exact takes_of (by decide +kernel)

/-- A module with queue pair 9 bound and its context cached or not, core 0 held by a queue that runs or by none, and the requests open. -/
def fastPath (cached : Bool) (h : Option Nat) (l : List FastReq) : State :=
  let s := State.reset.store (ledgeAt 0 0) (leBytes 1 8 ++ leBytes 0 8 ++ leBytes (2 ^ 46 + 2 ^ 50) 8)
  let s := s.wr .estuary .estCtrl 0 7
  let s : State := { s with cores := [(0, { holder := h, queues := h.toList.map (fun q => (q, { state := .running })) })] }
  { s with est := { s.est with
      qps := [(9, some { role := 2, fast := some bind9, fastCount := 65535 })], cache := if cached then [(9, [9])] else [], fast := l } }

/-- A request of another queue pair that runs on queue 5 of core 0. -/
def other : FastReq := { qp := 10, payload := [1], miss := false, running := true, count := 0, bind := { bind9 with queue := 5 } }

/-- FastPathResults: a hit of 64 bytes and a miss of 63 whose block comes with the switch from a holder that keeps the core; a request
that waits, as core 0 is free and its bank empty, or as its context is not cached; and a queue that is not IDLE, behind a request. -/
theorem witness_FastPathResults :
    (let s := fastPath true (some 5) []
     s.up ∧ (s.qp 9).bind (·.fast) = some bind9 ∧ s.est.closed = false ∧ s.live .estuary = .running ∧ s.est.fast = [] ∧
       (s.queue 0 0).state = .idle ∧ (s.ctxSet 9).contains 9 = true ∧ s.blockComes bind9 = true ∧
       ((s.received 9 64).marked 9 false).fastOk bind9 = true ∧ (63 == bind9.inLen) = false ∧
       (s.core 0).holder = some 5 ∧ ((s.core 0).queue 5).keeps = true ∧ s.qClass 0 5 ≤ s.qClass 0 0 ∧ s.higherReady 0 5 = false ∧
       tagsOk (s.core 0) = true) ∧
    (let s := fastPath true none []
     s.est.fast = [] ∧ s.blockComes bind9 = false ∧ ((s.received 9 64).marked 9 false).fastOk bind9 = false) ∧
    (let s := fastPath false none []
     s.est.fast = [] ∧ (s.ctxSet 9).contains 9 = false) ∧
    (let s := fastPath true (some 5) [other]
     (∀ g ∈ s.est.fast, g.running = true ∧ (s.queue g.bind.core g.bind.queue).state = .running) ∧
       ∀ g ∈ s.est.fast, g.miss = false ∧ g.bind.core = 0 ∧ g.qp ≠ 9) ∧
    (let s := fastPath true (some 0) []
     (s.queue 0 0).state ≠ .idle) := by
  refine ⟨⟨⟨rfl, rfl⟩, by decide +kernel⟩, by decide +kernel, by decide +kernel, by decide +kernel, by decide +kernel⟩

/-- FastPathResults: a hit, whose bank holds the block that its program wants. -/
theorem witness_FastHit :
    let s := fastPath true none []
    let s := s.setCore 0 { s.core 0 with
      a0 := { bank1 := { state := .ready, tag := some ⟨256, 1, false, (s.programRows 0 0 0 4096).getD 0⟩ } } }
    (64 == bind9.inLen && decide (64 ≤ 4096) && (s.ctxSet 9).contains 9 && ((s.received 9 64).marked 9 false).fastOk bind9) = true := by
  decide +kernel

/-- A packet of queue pair 9 that is not acknowledged. -/
def sent9 (psn : Nat) : Sent := { psn := psn, packets := 1, what := .write 0x1000 7 [1, 2, 3], req := none }

/-- A module with queue pair 9, whose regions lie in HBM4 and in Ledge. -/
def reliable (q : Qp) : State :=
  { State.reset with
    now := 100000000000,
    est := { State.reset.est with
      qps := [(9, some q)], cache := [(9, [9])],
      regions := [{ addr := 0x30000000, size := 4096, rkey := 5, qp := 9 }, { addr := ledgeAt 0 0x1000, size := 64, rkey := 6, qp := 9 }] } }

/-- RdmaResults: a WRITE and a READ of all of a region and one past its end, a READ of a word that is uncorrectable, and a queue pair with
retries left, with none, and within its timeout and its period. -/
theorem witness_RdmaResults :
    (let q : Qp := { role := 1 }
     let s := reliable q
     s.up ∧ s.qp 9 = some q ∧ q.takesRdma = true ∧ s.est.closed = false ∧ (s.ctxSet 9).contains 9 = true ∧ s.est.held = [] ∧
       (∀ a, s.regionAt a = none) ∧ (∀ n ∈ [(4096 : Nat), 4097], s.served 0x30000000 n = true) ∧
       (s.devRegion 9 q 5 0x30000000 4096).isSome = true ∧ s.devRegion 9 q 5 0x30000000 4097 = none ∧ s.badIn 0x30000000 4096 = none ∧
       (({ s with bad := [0x30000020 / 32] } : State).badIn 0x30000000 4096).isSome = true ∧ s.buffers) ∧
    (let q : Qp := { role := 1, unacked := [sent9 4], retries := 6, rnrRetries := 6 }
     let s := reliable q
     q.error = false ∧ q.ud = false ∧ q.unacked ≠ [] ∧ q.retries < s.fld .estuary .estRetryCfg 0 7 5 ∧
       q.timer.toNat + 16384 * 2 ^ s.fld .estuary .estRetryCfg 0 4 0 ≤ s.now.toNat ∧
       (s.fld .estuary .estRetryCfg 0 10 8 = 7 ∨ q.rnrRetries < s.fld .estuary .estRetryCfg 0 10 8) ∧
       s.fld .estuary .estRetryCfg 0 7 5 ≤ ({ q with retries := 7 } : Qp).retries ∧ (∀ x ∈ q.unacked, x.req = none) ∧
       q.unacked = [sent9 4] ∧ (sent9 4).packets = 1 ∧ q.notified.toNat + 4000 * s.fld .estuary .estCcCfg 0 47 32 ≤ s.now.toNat) ∧
    (let q : Qp := { role := 1, timer := 99999999999, notified := 99999999999 }
     let s := reliable q
     s.now.toNat < q.timer.toNat + 16384 * 2 ^ s.fld .estuary .estRetryCfg 0 4 0 ∧
       s.now.toNat < q.notified.toNat + 4000 * s.fld .estuary .estCcCfg 0 47 32) :=
  ⟨⟨⟨rfl, rfl⟩, rfl, rfl, rfl, rfl, rfl, noRegion_of (by decide +kernel), by decide +kernel, by decide +kernel, by decide +kernel, by decide +kernel,
    by decide +kernel, ⟨by decide +kernel, by decide +kernel⟩⟩, by decide +kernel, by decide +kernel⟩

/-- A module whose Ethernet port 0 has a configuration and an address, its link up or down, and a queue pair whose context it fetches. -/
def port0 (up : Word) (held : List (Nat × Instr)) : State :=
  let s := ((State.reset.wr .estuary .estPortCfg 0 0x21).wr .estuary .estPortIpv4 0 0x10A000001).wr .estuary .estStat 0 up
  { s with est := { s.est with qps := [(9, some { role := 1 })], misses := [9], held := held } }

/-- EthernetResults: a link that is down, up and dead; a priority that is honoured and one that is not; the port's own address and
another; and a context that is fetched with no packet waiting, with one, and one that is not. -/
theorem witness_EthernetResults :
    (let s := port0 0 []
     s.up ∧ s.linkUp 0 = false ∧ bit1 (s.rd .estuary .estPortCfg 0) 0 = true ∧ s.sys.deadPorts.contains 0 = false ∧ s.standby = true) ∧
    (let s := port0 1 []
     s.linkUp 0 = true ∧ bit1 ((FMap.get none s.est.ports 0).getD (s.rd .estuary .estPortCfg 0)) 5 = true ∧
       bit1 ((FMap.get none s.est.ports 0).getD (s.rd .estuary .estPortCfg 0)) 11 = false ∧ bit1 (s.rd .estuary .estPortIpv4 0) 32 = true ∧
       bits (s.rd .estuary .estPortIpv4 0) 31 0 = 0x0A000001 ∧ s.fetching.contains 9 = true ∧ s.est.held = [] ∧ s.est.fast = [] ∧
       s.fetching.contains 11 = false) ∧
    (port0 1 [(9, .cnpReceived 9)]).est.held = [((9 : BitVec 18).toNat, .cnpReceived 9)] ∧ ((port0 1 [(9, .cnpReceived 9)]).qp 9).isSome = true :=
  ⟨⟨⟨rfl, rfl⟩, by decide +kernel⟩, by decide +kernel, rfl, rfl⟩

/-! ### Tideway -/

theorem get_all {α : Type} (d : α) (P : α → Prop) (hd : P d) (m : FMap α) (h : ∀ e ∈ m, P e.2) (i : Nat) : P (FMap.get d m i) := by
  unfold FMap.get
  cases hf : FMap.find? m i with
  | none => exact hd
  | some x => exact h _ (mem_of_find _ _ _ hf)

theorem twCalm_of {s : State} (h : (∀ e ∈ s.tw.ports, e.2.queue = []) ∧ s.tw.sems = [] ∧ s.tw.colls = []) : s.twCalm :=
  ⟨fun p => get_all ({} : TwPort) (fun x => x.queue = []) rfl _ h.1 p, h.2.1, fun r => by unfold State.coll; rw [h.2.2]; rfl⟩

/-- A frame of a collective operation with a number, a group's number, an address and a payload. -/
def frame (op seq : Nat) (a : Nat) (pl : List Byte) : TwFrame :=
  { vc := 1, last := true, seq := BitVec.ofNat 16 seq, ack := 0xFFFF, credits := 0x1111, time := 42, op := BitVec.ofNat 8 op, group := 0, gseq := 0,
    generation := 0, offset := 0, inFmt := 0, outFmt := 0, redOp := 0, root := 0, count := BitVec.ofNat 32 pl.length, final_ := true, rank := 0,
    addr := BitVec.ofNat 48 a, mapBits := [], payload := pl }

/-- A module whose port 0 is in a state and whose core 0 has an arrival window over its first bytes. -/
def linked (st : Nat) (x : TwPort) : State :=
  { (State.reset.setTwState 0 st).wr (.vector 0) .arrive 0 (fields [(1, 0), (1, 63)]) with now := 50000000, tw := { State.reset.tw with ports := [(0, x)] } }

/-- TidewayFrameResults: tails at the size of each kind of ring and one beyond it; a port that is down; and at one that is up frames from
beyond a gap, in order and received before, in a window and outside, and acknowledgements, refusals, credits and aborts. -/
theorem witness_TidewayFrameResults :
    (∀ t ∈ [(16 : Nat), 17], State.reset.fld (.foreshore 0) .fsRingHead 0 31 0 = 0 ∧
      ((t + 2 ^ 32 - 0) % 2 ^ 32 ≤ 2 ^ State.reset.fld (.foreshore 0) .fsRingCfg 0 3 0 ↔ t = 16)) ∧
    (∀ t ∈ [(16 : Nat), 17], State.reset.fld .cliff .cliffRingHead 0 31 0 = 0 ∧
      ((t + 2 ^ 32 - 0) % 2 ^ 32 ≤ 2 ^ State.reset.fld .cliff .cliffRingCfg 0 3 0 ↔ t = 16)) ∧
    (∀ t ∈ [(16 : Nat), 17], State.reset.fld .tideway .twRingPtr 7 31 0 = 0 ∧
      ((t + 2 ^ 32 - 0) % 2 ^ 32 ≤ 2 ^ State.reset.fld .tideway .twRing 7 51 48 ↔ t = 16)) ∧
    ((linked 0 {}).up ∧ (linked 0 {}).twUp 0 = false ∧ (linked 2 {}).twUp 0 = true ∧ (linked 2 {}).twCalm ∧ (linked 2 {}).tw.held = []) ∧
    ((linked 2 {}).inWindow (ledgeAt 0 0x1000) 4 = true ∧ (linked 2 {}).inWindow (ledgeAt 1 0x1000) 4 = false ∧ (linked 2 {}).est.fast = [] ∧
      (∀ c q, ((linked 2 {}).queue c q).state ≠ .waiting ∧ ∀ g ∈ ((linked 2 {}).queue c q).flights, g.gated = false) ∧
      (linked 2 {}).unissued (frame 1 0 0 [1, 2]) = true ∧ (({} : TwPort).credits.length = 4)) ∧
    (∀ d ∈ [(1 : Nat), 32767, 32768, 65535], (((BitVec.ofNat 16 d).toNat + 65536 - ({} : TwPort).expect) % 65536 = d)) ∧
    (let x : TwPort := { replay := [frame 1 0 0 [1], frame 1 1 0 [2]] }
     x.replays = 0 ∧ x.replay.filter (fun g => 32768 ≤ ((1 : BitVec 16).toNat + 65535 + 65536 - g.seq.toNat) % 65536) ≠ []) ∧
    ((0x1FFFFFF + 2 ^ 26 - FMap.get 0 (linked 2 {}).tw.gseq 0 % 2 ^ 26) % 2 ^ 26 < 2 ^ 25 ∧ (0, 0x1FFFFFF) ∉ (linked 2 {}).tw.aborted) := by
  refine ⟨by decide +kernel, by decide +kernel, by decide +kernel, ⟨⟨rfl, rfl⟩, by decide +kernel, by decide +kernel,
    twCalm_of (by decide +kernel), rfl⟩, ⟨by decide +kernel, by decide +kernel, rfl, fun c q => ⟨?_, ?_⟩, by decide +kernel, rfl⟩, by decide +kernel,
    by decide +kernel, by decide +kernel⟩
  · exact fun e => by cases e
  · exact fun g hg => by cases hg

/-- A module whose four laser sources are inserted, each feeding its own ports, and whose port 0 has its four lanes on wavelengths 0 to 3, in a state. -/
def lit (st : Nat) (x : TwPort) : State :=
  let s := [0, 1, 2, 3].foldl (fun (s : State) (m : Nat) => s.wr .tideway .twLaser m (fields [(1, 0), (100, 3), (20, 19)])) State.reset
  let s := (List.range 16).foldl (fun (s : State) (q : Nat) => s.setFld (twPg q) .twpStat 0 29 20 (q / 4 * 341)) s
  let s := [0, 1, 2, 3].foldl (fun (s : State) (i : Nat) => s.setLaneWl 0 i i) s
  { s.setTwState 0 st with now := 50000000, tw := { s.tw with ports := [(0, x)] } }

/-- TidewayPortResults: replays below and at 32 in a row; a port that has retrained for its limit and one that has not; one that trains
with four lanes and with three; slack water; a tideline that follows the port; and wavelengths that fail with a spare, without one,
and the last. -/
theorem witness_TidewayPortResults :
    (let x : TwPort := { replay := [frame 1 0 0 [1]] }
     (lit 2 x).up ∧ (lit 2 x).twUp 0 = true ∧ (lit 2 x).ackLate 0 = true ∧ x.replays < 32 ∧ (lit 2 {}).ackLate 0 = false ∧
       32 ≤ ({ x with replays := 32 } : TwPort).replays) ∧
    (let x : TwPort := { retrain := some 0 }
     let y : TwPort := { retrain := some 49999999 }
     (lit 4 x).twUp 0 = false ∧ (lit 4 x).twCalm ∧ (lit 4 x).tw.remote = [] ∧
       4000 * max 1 ((lit 4 x).fld .tideway .twCtrl 0 22 7) ≤ ((lit 4 x).now - 0).toNat ∧
       ((lit 4 y).now - 49999999).toNat < 4000 * max 1 ((lit 4 y).fld .tideway .twCtrl 0 22 7) ∧
       bit1 (((lit 4 x).wr (.twPort 0) .twpCtrl 0 1).rd (.twPort 0) .twpCtrl 0) 0 = true ∧
       (lit 4 x).sys.deadPorts.contains 32 = false ∧ (∀ k < 256, bit1 ((lit 4 x).rd .tideway .twPeer k) 63 = false) ∧
       (lit 4 x).lanes 0 = 4 ∧ ((lit 4 x).setLaneWl 0 1 7).lanes 0 = 3) ∧
    ((lit 2 {}).wlFailed 0 0 = false ∧ (lit 2 {}).slackFor 0 = true ∧ ({ lit 2 {} with cores := [(0, core0)] } : State).slackFor 0 = false ∧
      (lit 2 {}).timeFollows = false ∧ ((lit 2 {}).wr .tideway .twCtrl 0 4).timeFollows = true ∧ (lit 2 {}).standby = true ∧
      ((lit 2 {}).wr .tideway .twCtrl 0 4).fld .tideway .twCtrl 0 6 3 = 0) ∧
    ((∀ i < 4, (lit 2 {}).laneWl 0 i ≠ 4) ∧ (lit 2 {}).laneWl 0 0 = 0 ∧ (∀ j < 4, j ≠ 0 → (lit 2 {}).laneWl 0 j ≠ 0) ∧
      (lit 2 {}).spareWl 0 = some 4 ∧ (lit 2 {}).fld .tideway .twLaser 0 2 1 ≠ 1 ∧
      ((lit 2 {}).setFld (twPg 0) .twpStat 0 19 19 1).spareWl 0 = none ∧
      ((lit 2 {}).setFld (twPg 0) .twpStat 0 19 19 1).wlFailed 0 4 = true ∧
      (∀ j < 4, j ≠ 0 → ([1, 2, 3].foldl (fun (s : State) (i : Nat) => s.setLaneWl 0 i 7) (lit 2 {})).laneWl 0 j = 7)) := by
  refine ⟨⟨⟨rfl, rfl⟩, by decide +kernel⟩, ⟨by decide +kernel, twCalm_of (by decide +kernel), rfl, by decide +kernel⟩, by decide +kernel,
    by decide +kernel⟩

/-- Laser source 0 is in a state. -/
def laser0 (st : Nat) (s : State) : State := s.wr .tideway .twLaser 0 (setBits (s.rd .tideway .twLaser 0) 2 1 (BitVec.ofNat 2 st).toNat)

/-- LaserResults: source 0 ACTIVE, DRAINING, DRAINED, in FAULT and absent, its secondary source free or not; and semaphores that a peer's
frames act on, one of them faulted. -/
theorem witness_LaserResults :
    (let s := lit 2 {}
     s.up ∧ s.laserPresent 0 = true ∧ s.laserState 0 = 0 ∧ s.secondaryFree 0 = true ∧ (∃ q ∈ s.portsFed 0, q / 4 = 0) ∧
       (∀ q ∈ s.portsFed 0, q / 4 = 0) ∧ s.slackFor 0 = true ∧ (laser0 1 s).laserState 0 = 1 ∧ (laser0 2 s).laserState 0 = 2 ∧
       (laser0 3 s).laserState 0 = 3 ∧ State.reset.laserPresent 0 = false ∧ ({ s with cores := [(0, core0)] } : State).slackFor 0 = false ∧
       (s.wr .tideway .twLaser 3 0).secondaryFree 0 = false) ∧
    (let s : State := { lit 2 {} with sems := [(3, 5), (4, 0xFFFFFFFFFFFF)] }
     s.up ∧ s.twUp 0 = true ∧ s.est.fast = [] ∧ s.faultedWaiter = none ∧ semAdd (s.sem true 0 4) 1 = (0x2FFFFFFFFFFFF, .eSat) ∧
       (semSub (s.sem true 0 3) 6).2 = .eSat ∧ (s.markFaulted true 0 3).faultedWaiter = none) := by
  refine ⟨⟨⟨rfl, rfl⟩, by decide +kernel⟩, ⟨rfl, rfl⟩, by decide +kernel⟩

/-! ### Collectives -/

/-- A descriptor: op, formats, flags, group, resolve, units, start count, start and post semaphores. -/
def descriptor (op fl g res n units w4 w5 : Nat) : List Word :=
  [BitVec.ofNat 64 (op + 2 * 2 ^ 8 + 2 * 2 ^ 12 + fl + g * 2 ^ 21 + res * 2 ^ 39), 0x30010000, 0x30200000, BitVec.ofNat 64 (n + units * 2 ^ 32),
   BitVec.ofNat 64 w4, BitVec.ofNat 64 w5, 0, 0x30300000]

/-- A module with a descriptor in ring 0; group 0 has one member, group 1 two, and peer 0 is reached over some ports. -/
def ringed (ports : Nat) (d : List Word) : State :=
  let s := (State.reset.setTwState 0 2).store 0x30000000 (words8 d)
  let s := s.store 0x30010000 (words8 [0x30100000, BitVec.ofNat 64 (0x1000 + 2 * 2 ^ 40), BitVec.ofNat 64 (0x30101000 + 2 ^ 48), BitVec.ofNat 64 (2 ^ 40)])
  let s := (s.wr .tideway .twRing 0 (BitVec.ofNat 64 (0x30000000 + 2 ^ 63))).wr .tideway .twRingPtr 0 (BitVec.ofNat 64 (2 ^ 32))
  let s := (s.wr .tideway .twGroup 0 (BitVec.ofNat 64 (2 ^ 63))).wr .tideway .twGroup 1 (BitVec.ofNat 64 (1 + 2 ^ 63))
  s.wr .tideway .twPeer 0 (BitVec.ofNat 64 (7 + ports * 2 ^ 32 + 2 ^ 63))

theorem ringed_tw (p : Nat) (d : List Word) : (ringed p d).tw = State.reset.tw := by simp [ringed, State.setTwState, State.setFld]

/-- A PERMUTE of group 1 whose outcome is in doubt, with one unit staged. -/
def staged1 : Coll := { words := descriptor 6 0 1 0 2 1 0 0, ix := 0, started := 0, staged := [0x2000] }
def doubted (res : Nat) : State :=
  let s := (ringed 1 (descriptor 6 0 1 res 2 1 0 0)).setFld .tideway .twGroup 1 62 62 1
  { s with tw := { s.tw with doubt := [(1, some staged1)] } }

/-- What the next descriptor of ring 0 is, where its checks pass and nothing it reads is bad. -/
def nextColl (s : State) : Option (Nat × Nat × Nat × Bool × Bool) :=
  (s.twNext 0).bind (fun c => if c.status = .ok ∧ s.collCheck c = .ok ∧ bit1 (c.w 0) 38 = false ∧ s.collBad c = false ∧ c.fi = c.fo then
    some (c.op, c.resolve, s.grpSize c.group, (s.collPeers c).any s.peerDead, (FMap.get none s.tw.doubt c.group).isSome) else none)

/-- CollectiveResults: each collective in a group of one, a MULTICAST and a PERMUTE with their peers reached, each collective with a peer
that is lost, and both resolutions. -/
theorem witness_CollectiveResults :
    (∀ op ∈ [1, 2, 3, 4], nextColl (ringed 1 (descriptor op 0 0 0 32 0 0 0)) = some (op, 0, 1, false, false)) ∧
    nextColl (ringed 1 (descriptor 5 0 0 0 10 0 0 0)) = some (5, 0, 1, false, false) ∧
    nextColl (ringed 1 (descriptor 6 0 1 0 2 1 0 0)) = some (6, 0, 2, false, false) ∧
    nextColl (ringed 2 (descriptor 5 0 0 0 10 0 0 0)) = some (5, 0, 1, true, false) ∧
    nextColl (doubted 1) = some (6, 1, 2, false, true) ∧ nextColl (doubted 2) = some (6, 2, 2, false, true) ∧
    (∀ i < 1, (doubted 1).badIn (0x30300000 + 4096 * i) 4096 = none) ∧
    (∀ d, (ringed 1 d).twCalm ∧ (ringed 1 d).tw.held = [] ∧ (ringed 1 d).tw.aborted = []) ∧ ∀ r, (doubted r).twCalm := by
  have hm : ∀ (p : Nat) (d : List Word), (ringed p d).twCalm := fun p d => twCalm_of (by rw [ringed_tw]; decide)
  refine ⟨fun op ho => ?_, by decide +kernel, by decide +kernel, by decide +kernel, by decide +kernel, by decide +kernel, by decide +kernel,
    fun d => ⟨hm 1 d, by rw [ringed_tw]; rfl, by rw [ringed_tw]; rfl⟩, fun r => twCalm_of ?_⟩
  rotate_left
  · have e : (doubted r).tw = { State.reset.tw with doubt := [(1, some staged1)] } := by
      simp only [doubted]
      simp only [State.setFld, State.wr, ringed_tw]
    rw [e]
    decide
  simp only [List.mem_cons, List.not_mem_nil, or_false] at ho
  rcases ho with rfl | rfl | rfl | rfl <;> decide +kernel

/-- A collective of ring 0, and the count of its start semaphore. -/
def collecting (c : Coll) (n : Word) : State :=
  let s := ringed 1 []
  { s with sems := [(9, n)], tw := { s.tw with colls := [(0, some c)] } }

/-- A BROADCAST of group 0 that waits for a count of 5 of semaphore 9. -/
def broadcast9 : Coll := { words := descriptor 4 (2 ^ 38) 0 0 32 0 5 9, ix := 0, started := 0 }

/-- CollectiveEndResults: a start semaphore faulted, below its count and at it; a collective whose work is done; and one of a group of two
that failed before it ran. -/
theorem witness_CollectiveEndResults :
    (let c := broadcast9
     c.running = false ∧ c.status = .ok ∧ bit1 (c.w 0) 38 = true ∧ c.op = 4 ∧ c.fi = c.fo ∧ c.resolve = 0 ∧ bits (c.w 5) 15 0 = 9 ∧
       bits (c.w 4) 47 0 = 5 ∧ (collecting c 5).up ∧ (collecting c 5).coll 0 = some c ∧ (collecting c 5).faultedWaiter = none ∧
       (collecting c 5).est.fast = [] ∧ (collecting c 5).grpSize c.group = 1 ∧ (collecting c 5).collBad c = false ∧
       semFaulted ((collecting c (fields [(1, 48)])).sem true 0 9) = true ∧ semFaulted ((collecting c 4).sem true 0 9) = false ∧
       semCount ((collecting c 4).sem true 0 9) = 4 ∧ semCount ((collecting c 5).sem true 0 9) = 5) ∧
    (∀ r, r ≠ 0 → (collecting broadcast9 5).coll r = none) ∧ (∀ p, ((collecting broadcast9 5).twPort p).queue = []) ∧
    (collecting broadcast9 5).tw.sems = [] ∧ (∀ a, (collecting broadcast9 5).regionAt a = none) ∧
    (let c := { broadcast9 with running := true, done := [resKey 0] }
     c.op ≠ 6 ∧ (collecting c 5).collDone c = true ∧ (collecting c 5).collQuiet c = true ∧ bit1 (c.w 0) 36 = false) ∧
    (let c : Coll := { words := descriptor 1 0 1 0 32 0 0 0, ix := 0, started := 0, status := .eAddr }
     c.running = false ∧ c.op ≠ 5 ∧ c.resolve = 0 ∧ 1 < (collecting c 0).grpSize c.group ∧ (collecting c 0).ringBase = 0 ∧
       (collecting c 0).errs.buffered = [] ∧ bit1 (c.w 0) 36 = false ∧ bit1 (c.w 0) 35 = false) := by
  refine ⟨⟨rfl, rfl, by decide +kernel, by decide +kernel, by decide +kernel, by decide +kernel, by decide +kernel, by decide +kernel, ⟨rfl, rfl⟩,
    by decide +kernel⟩, fun r hr => ?_, fun p => rfl, rfl, noRegion_of (by decide +kernel), by decide +kernel, by decide +kernel⟩
  show FMap.get none [(0, some broadcast9)] r = none
  simp [FMap.get, FMap.find?, hr.symm]

/-! ### Training -/

/-- A configuration object of one stage of one layer, without tensors: 128 bytes (R357). -/
def trainCfg : List Byte :=
  leBytes 0x3F000000 4 ++ leBytes 0x3F000000 4 ++ leBytes 0 4 ++ leBytes 1 1 ++ leBytes 0 1 ++ leBytes 255 1 ++ leBytes 0 1 ++ leBytes 255 1 ++
    leBytes 255 1 ++ leBytes 0 2 ++ leBytes 1 4 ++ leBytes 1 2 ++ leBytes 0 1 ++ leBytes 1 1 ++ leBytes 1 2 ++ leBytes 0 2 ++
    leBytes 0x3F800000 4 ++ leBytes 0x3F800000 4 ++ leBytes 0x3F800000 4 ++ leBytes 0x3F800000 4 ++ leBytes 0 1 ++ leBytes 255 1 ++
    List.replicate 78 0

/-- A job of model 1, version 1, that keeps the gradient of its first step. -/
def job0 : Job := { model := 1, version := 1, cfg := trainCfg, gen := 3, accum := 1, kept := some (1, []) }

/-- A module with a scene, version 1 of model 1, its package object 7, the configuration object 9, and a job. -/
def training (x : Option Job) (r : List (Nat × Option Req)) : State :=
  { served { sceneG with reqs := r, accepted := r.length, models := (loadedG .resident).models } with
    jobs := [(4, x)]
    cliff := { State.reset.cliff with
      objs := [(7, some { units := 8 }), (9, some { units := 1, data := trainCfg.zipIdx.map (fun x => (x.2, x.1)) })] } }

/-- An OPEN_JOB of configuration object 9, a TRAIN_STEP of job 4 with its flags, its step and its bytes, and a CLOSE_JOB of it. -/
def openJobMsg : Msg := mkMsg 0x18 (leBytes 1 2 ++ leBytes 1 1 ++ leBytes 0 1 ++ leBytes 9 4 ++ leBytes 3 4 ++ leBytes 0 4) 0 0
def trainMsg (flags step size : Nat) : Msg :=
  mkMsg 0x19 (leBytes 4 4 ++ leBytes 1 2 ++ leBytes flags 2 ++ leBytes step 8 ++ leBytes 3 4 ++ leBytes 0 4 ++ leBytes size 4 ++ leBytes 0 4 ++
    leBytes 0x1000 8 ++ leBytes 5 4 ++ leBytes 65536 4) 0 0
def closeJobMsg : Msg := mkMsg 0x1A (leBytes 4 4 ++ leBytes 0 4) 0 0

/-- The run of a training step, and its end. -/
def trainRun : TrainRun := { req := 0, step := 1, accum := 1, stats := false, only := false, remap := none }
def trainEnd (h : HwEnd) : TrainEnd := { how := h, micro := 1, remapped := false, reduced := false, sumS := 0, sumG2 := 0, next := 3 }

/-- The scene's intake region starts with the number of object 9. -/
def naming (s : State) : State := { s with mem := [(0x10000, 9)] }

/-- TrainingResults, where the package has one layer: an OPEN_JOB; a TRAIN_STEP of each kind, the REMAP's intake naming object 9, and a
CLOSE_JOB; and a step that ends, with its links and after an uncorrectable word. -/
theorem witness_TrainingResults (h : shapeOf [] = { flat with layers := 1 }) :
    (let s := training none []
     s.takes 5 openJobMsg ∧ s.gulkIdle ∧ openJobMsg.opcode = 0x18 ∧
       firstFailure ((s.accepts 5 openJobMsg).openJobChecks (msgReq openJobMsg 5 s.now)) = none) ∧
    (let s := training (some job0) []
     (∀ m ∈ [trainMsg 0 1 64, trainMsg 1 1 68, trainMsg 4 1 0, closeJobMsg], s.takes 5 m ∧ (naming s).takes 5 m) ∧ s.gulkIdle ∧
       (naming s).gulkIdle ∧ s.job 4 = some job0 ∧ (naming s).job 4 = some job0 ∧
       job0.doubt = none ∧ [trainMsg 0 1 64, trainMsg 1 1 68, trainMsg 4 1 0].map (fun m => (stepRow m, m.opcode)) = [(0, 0x19), (1, 0x19), (2, 0x19)] ∧
       firstFailure ((s.accepts 5 (trainMsg 0 1 64)).stepChecks (msgReq (trainMsg 0 1 64) 5 s.now)) = none ∧
       firstFailure ((s.accepts 5 (trainMsg 4 1 0)).stepChecks (msgReq (trainMsg 4 1 0) 5 s.now)) = none ∧
       firstFailure (((naming s).accepts 5 (trainMsg 1 1 68)).stepChecks (msgReq (trainMsg 1 1 68) 5 s.now)) = none ∧
       closeJobMsg.opcode = 0x1A ∧ firstFailure ((s.accepts 5 closeJobMsg).closeJobChecks (msgReq closeJobMsg 5 s.now)) = none) ∧
    (let x := { job0 with runs := [trainRun] }
     let s := training (some x) [(0, some (reqOf 0x19 []))]
     s.up ∧ s.updates = true ∧ s.job 4 = some x ∧ s.req 0 = some (reqOf 0x19 []) ∧ s.stageLinks x (s.stageOf x) = .ok ∧
       (∃ u grad, (u, grad) = s.stepRuns x trainRun (reqOf 0x19 [])) ∧ (trainEnd .finished).how = .finished ∧
       (trainEnd (.uncorrected .memory)).reduced = false) := by
  have e : ((training none []).accepts 5 openJobMsg).shape 1 1 = { flat with layers := 1 } := h
  have p : ((training none []).accepts 5 openJobMsg).pkg 7 = [] := by decide +kernel
  have k : ((naming (training (some job0) [])).accepts 5 (trainMsg 1 1 68)).shape 1 1 = { flat with layers := 1 } := h
  have hj : ((naming (training (some job0) [])).accepts 5 (trainMsg 1 1 68)).job 4 = some job0 := by decide +kernel
  refine ⟨⟨takes_of (by decide +kernel), gulkIdle_of (by decide +kernel), by decide, ?_⟩,
    ⟨fun m hm => ?_, gulkIdle_of (by decide +kernel), gulkIdle_of (by decide +kernel), by decide +kernel, by decide +kernel, rfl, by decide +kernel, by decide +kernel, by decide +kernel, ?_, by decide,
      by decide +kernel⟩,
    ⟨rfl, rfl⟩, by decide +kernel, by decide +kernel, by decide +kernel, by decide +kernel, ⟨_, _, rfl⟩, rfl, rfl⟩
  · have b0 : field (msgReq openJobMsg 5 (training none []).now).body 0 2 = 1 := by decide +kernel
    have b1 : field (msgReq openJobMsg 5 (training none []).now).body 2 1 = 1 := by decide +kernel
    simp only [State.openJobChecks, b0, b1, e, flat]
    decide +kernel
  · simp only [List.mem_cons, List.not_mem_nil, or_false] at hm
    rcases hm with rfl | rfl | rfl | rfl <;> exact ⟨takes_of (by decide +kernel), takes_of (by decide +kernel)⟩
  · have b0 : field (msgReq (trainMsg 1 1 68) 5 (training (some job0) []).now).body 0 4 = 4 := by decide +kernel
    have m1 : job0.model = 1 := rfl
    have v1 : job0.version = 1 := rfl
    simp only [State.stepChecks, b0, hj, Option.getD_some, m1, v1, k, flat]
    decide +kernel

/-! ### Recovery, power, boot and self-test -/

/-- A corrected record of stack 0, held since a time. -/
def corrected (d : Word) : ErrRec := { time := d, page := (Pg.hbm 0).index, cls := 0, code := 21, address := 64, detail := 0, flags := 2 }
def holdingRec (d : Word) (n : Word) : State := { State.reset with now := n, errs := { State.reset.errs with held := [corrected d] } }

/-- A module with one record in the buffer of error records. -/
def buffered (n : Nat) : State := { State.reset with errs := { State.reset.errs with buffered := [{ corrected 5 with seq := n }] } }

/-- RecoveryResults: the last local semaphore of the last core and the first beyond; a ring of the least and the most records, one
below, one above, one given up and one outside HBM4, with a record waiting; and a held record 1 ms and one unit less after its time. -/
theorem witness_RecoveryResults :
    (buffered 300).up ∧
    (∀ c i, (bits (BitVec.ofNat 64 (4095 + 35 * 2 ^ 17)) 22 17, bits (BitVec.ofNat 64 (4095 + 35 * 2 ^ 17)) 15 0) = (c, i) →
      i ≤ 4095 ∧ (buffered 300).coreLive c = true) ∧
    bit1 (BitVec.ofNat 64 (65535 + 2 ^ 16)) 16 = true ∧ bit1 (4096 : Word) 16 = false ∧ 4095 < bits (4096 : Word) 15 0 ∧
    bit1 (BitVec.ofNat 64 (36 * 2 ^ 17)) 16 = false ∧ (buffered 300).coreLive (bits (BitVec.ofNat 64 (36 * 2 ^ 17)) 22 17) = false ∧
    (∀ n ∈ [8, 20], let v := BitVec.ofNat 64 (0x30000000 + n * 2 ^ 48)
      bits v 52 48 = n ∧ bits v 47 6 * 64 ≠ 0 ∧ (buffered 300).code.hbmOk (bits v 47 6 * 64) (64 * 2 ^ n) = true ∧
        ((buffered 300).errs.buffered.map (fun r => r.seq % 2 ^ n)).Nodup) ∧
    (∀ n ∈ [8, 20], bits (BitVec.ofNat 64 (n * 2 ^ 48)) 52 48 = n ∧ bits (BitVec.ofNat 64 (n * 2 ^ 48)) 47 6 * 64 = 0) ∧
    bits (BitVec.ofNat 64 (7 * 2 ^ 48)) 52 48 < 8 ∧ 20 < bits (BitVec.ofNat 64 (21 * 2 ^ 48)) 52 48 ∧
    (let v := BitVec.ofNat 64 (0xFFFFFFFFFFC0 + 8 * 2 ^ 48)
     bits v 47 6 * 64 ≠ 0 ∧ (buffered 300).code.hbmOk (bits v 47 6 * 64) (64 * 2 ^ 8) = false) ∧
    ((holdingRec 5 4000005).errs.held = [corrected 5] ∧ (holdingRec 5 4000005).buffers ∧
      (corrected 5).time.toNat + 4000000 ≤ (holdingRec 5 4000005).now.toNat ∧ Pg.ofIndex (corrected 5).page = some (.hbm 0)) ∧
    ∀ r ∈ (holdingRec 5 4000004).errs.held, (4000004 : Word).toNat < r.time.toNat + 4000000 := by
  refine ⟨⟨rfl, rfl⟩, fun c i h => ?_, by decide +kernel, by decide +kernel, by decide +kernel, by decide +kernel, by decide +kernel,
    by decide +kernel, by decide +kernel, by decide +kernel, by decide +kernel, by decide +kernel, ⟨rfl, ⟨by decide +kernel, by decide +kernel⟩, by decide +kernel⟩,
    by decide +kernel⟩
  obtain ⟨rfl, rfl⟩ := Prod.mk.inj h
  decide +kernel

/-- A module whose core 0 swaps, its page DRAINED, from a state before. -/
def swappingFrom (x : LiveSt) (l : LiveSt) (cs : FMap Core) : State :=
  { liveAt (.sequencer 0) { state := l } with
    cores := cs, sys := { State.reset.sys with swap := some { core := 0, before := { state := x }, owner := 1 } } }

/-- A module without the spare of bay 0. -/
def spareless : State := { State.reset with sys := { State.reset.sys with spareGone := [0] } }

/-- SwapResults: a swap that begins, one beside another, one without a spare, one that has not drained and one that ends, from QUIESCED
and from RUNNING with a queue that holds the core; and a retirement that begins, one without a spare image, one of an absent
pseudo-channel's stack, one beside another and one that ends. -/
theorem witness_SwapResults :
    (State.reset.up ∧ State.reset.coreLive 0 = true ∧ State.reset.sys.swap = none ∧ State.reset.spareFree 0 = true ∧
      FMap.get none State.reset.sys.slices (State.reset.physOf 0) = none ∧ FMap.get none State.reset.sys.slices (State.reset.spareOf 0) = none) ∧
    (spareless.up ∧ spareless.coreLive 5 = true ∧ spareless.sys.swap = none ∧ spareless.spareFree 0 = false) ∧
    ((swappingFrom .quiesced .draining []).up ∧ (swappingFrom .quiesced .draining []).sys.swap.isSome = true ∧
      (swappingFrom .quiesced .draining []).live (.sequencer 0) ≠ .drained) ∧
    (let s := swappingFrom .quiesced .drained []
     s.live (.sequencer 0) = .drained ∧ (s.liveRec (.sequencer 0)).waiting = [] ∧ s.sys.swap.map (·.before.state) = some .quiesced ∧
       s.sys.slices = [] ∧ s.sys.fullTest = none) ∧
    (let s := swappingFrom .running .drained [(0, core0)]
     s.up ∧ s.sys.swap.map (fun w => (w.core, w.before.state)) = some (0, .running) ∧ s.live (.sequencer 0) = .drained ∧ (s.liveRec (.sequencer 0)).waiting = [] ∧
       (s.core 0).heldBells = [] ∧ (s.core 0).holder = some 0 ∧ ((s.core 0).queue 0).keeps = true ∧ s.higherReady 0 0 = false) ∧
    (∀ r, ((swappingFrom .running .drained [(0, core0)]).queue 0 r).state = .waiting →
      ((swappingFrom .running .drained [(0, core0)]).queue 0 r).inWaitGe = true) ∧
    (State.reset.code.stackPresent 11 = true ∧ State.reset.sys.retiring = none ∧
      State.reset.sys.retiredPcs.contains (64 * 11 + 63) = false ∧ State.reset.fld .fault .pcStat 0 3 0 ≠ 0) ∧
    (State.reset.setFld .fault .pcStat 0 3 0 0).fld .fault .pcStat 0 3 0 = 0 ∧
    (∃ s : State, s.up ∧ s.sys.retiring = some (11, 63)) ∧ ∃ s : State, s.up ∧ s.sys.retiredPcs.contains (64 * 11 + 63) = true := by
  refine ⟨⟨⟨rfl, rfl⟩, by decide +kernel⟩, ⟨⟨rfl, rfl⟩, by decide +kernel⟩, ⟨⟨rfl, rfl⟩, by decide +kernel⟩, by decide +kernel,
    ⟨⟨rfl, rfl⟩, by decide +kernel⟩, tags_of (by decide +kernel), by decide +kernel, by decide +kernel,
    ⟨{ State.reset with sys := { State.reset.sys with retiring := some (11, 63) } }, ⟨rfl, rfl⟩, rfl⟩,
    ⟨{ State.reset with sys := { State.reset.sys with retiredPcs := [64 * 11 + 63] } }, ⟨rfl, rfl⟩, by decide +kernel⟩⟩

/-- A module whose component n is in a state, with its banks. -/
def firmware (n : Nat) (x : FwComp) (st : Nat) : State := (State.reset.setFw n x).setFld .fault .fwStat n 2 1 st

/-- An image of component 1 with no payload: header, digest of its payload, a signature, and no countersignature (R427). -/
def imageHead : List Byte := [1, 0, 0, 0] ++ leBytes 7 4 ++ leBytes 0 4 ++ leBytes 0 4 ++ beBytes (sha384 []).toNat 48
def image1 (sig : List Byte) : List Byte := imageHead ++ sig ++ List.replicate 96 0

/-- A module whose owner asks for no countersignature and allows no debugging. -/
def flagless : State := { State.reset with sys := { State.reset.sys with owner := List.replicate 132 0 } }

/-- FirmwareResults: an activation of a factory bank, of a bank that fails, and of an index that is no component; a swap at its boundary,
and one of a core that runs; a declaration and a timeout at the last unit of 1 s and at its end; and an update that is refused and,
where the signature verifies, one that passes. -/
theorem witness_FirmwareResults :
    (∀ n < 5, State.reset.fld .fault .fwStat n 2 1 ≠ 2 ∧ State.reset.bankOk n (1 - State.reset.fwActive n) = true) ∧ State.reset.up ∧
    (let s := firmware 1 { b := [1] } 0
     s.up ∧ s.fld .fault .fwStat 1 2 1 ≠ 2 ∧ s.bankOk 1 (1 - s.fwActive 1) = false ∧ s.imageOk 1 [1] = false) ∧
    (let s := firmware 1 { target := 5 } 2
     s.up ∧ s.fld .fault .fwStat 1 2 1 = 2 ∧ s.fwBoundary 1 = true) ∧
    (let s := { firmware 1 { target := 63 } 2 with
       cores := [(0, { core0 with queues := [(0, { state := .running, flights := [flightOf 0x10 0 0 0] })] })] }
     s.up ∧ s.fld .fault .fwStat 1 2 1 = 2 ∧ s.fwBoundary 1 = false) ∧
    (let s (n : Word) : State := { firmware 1 { since := some 1000 } 0 with now := n }
     (s 1000).up ∧ ((s 1000).fwComp 1).since = some 1000 ∧ (s 4000000999).now.toNat < 1000 + secondUnits ∧
       1000 + secondUnits ≤ (s 4000001000).now.toNat ∧ (s 4000001000).fwBoundary 1 = true) ∧
    State.reset.standby = true ∧ State.reset.sys.dry = false ∧ (State.reset.fwComp 1).since = none ∧
    (∀ sig, sig.length = 96 → verifies (huarisKey 1) imageHead sig = true →
      flagless.imageOk 1 (image1 sig) = true) ∧
    2 ^ 20 < (0xFFFFF : BitVec 20).toNat + (2 : BitVec 20).toNat ∧ (0xFFFFF : BitVec 20).toNat + (1 : BitVec 20).toNat ≤ 2 ^ 20 ∧
    channelListed 99 = true ∧ channelListed 7 = false := by
  refine ⟨by decide +kernel, ⟨rfl, rfl⟩, ⟨⟨rfl, rfl⟩, by decide +kernel⟩, ⟨⟨rfl, rfl⟩, by decide +kernel⟩, ⟨⟨rfl, rfl⟩, by decide +kernel⟩,
    ⟨⟨rfl, rfl⟩, by decide +kernel⟩, rfl, rfl, by decide +kernel, fun sig hn h => ?_, by decide, by decide, by decide, by decide⟩
  have lh : imageHead.length = 64 := by decide +kernel
  have l : (image1 sig).length = 256 := by simp [image1, lh, hn]
  have a : (image1 sig).take 64 = imageHead := by simp [image1, List.append_assoc, lh]
  have b : ((image1 sig).drop 64).take 96 = sig := by simp [image1, List.append_assoc, lh, ← hn]
  have c : (image1 sig).drop 256 = [] := List.drop_eq_nil_of_le (by omega)
  have f (k n : Nat) (hk : k + n ≤ 64) : ((image1 sig).drop k).take n = (imageHead.drop k).take n := by
    rw [image1, List.append_assoc, List.drop_append_of_le_length (by omega), List.take_append_of_le_length (by simp; omega)]
  have g : (image1 sig).getD 0 0 = 1 := rfl
  have o : flagless.ownerFlags.testBit 0 = false := by decide +kernel
  simp only [State.imageOk, o, Bool.not_false, Bool.true_or, Bool.and_true, l, a, b, c, f _ _ (by decide : 8 + 4 ≤ 64), f _ _ (by decide : 4 + 4 ≤ 64), f _ _ (by decide : 16 + 48 ≤ 64), g, h]
  decide +kernel

theorem queue_reset (c q : Nat) : State.reset.queue c q = {} := rfl

theorem rest : State.reset.atRest :=
  { up := ⟨rfl, rfl⟩, flights := fun _ _ => rfl, queues := fun _ _ => .inl rfl, fore := by decide +kernel, cliff := rfl, colls := fun _ => rfl,
    streams := rfl, pages := rfl, reqs := rfl, jobs := rfl, fast := rfl, held := rfl, cxl := by decide +kernel, rows := by decide +kernel }

/-- HaltResults: reset is at rest, its error records wait in their buffer, and standby is present or lost, in Dry or not. -/
theorem witness_HaltResults : State.reset.atRest ∧ State.reset.buffers ∧ State.reset.standby = true ∧
    (∃ s : State, s.sys.dry = true ∧ s.standby = true) ∧ (∃ s : State, s.up ∧ s.standby = false) :=
  ⟨rest, ⟨by decide +kernel, by decide⟩, rfl, ⟨{ State.reset with sys := { State.reset.sys with dry := true } }, rfl, rfl⟩,
    ⟨{ State.reset with standby := false }, ⟨rfl, rfl⟩, rfl⟩⟩

/-- A module in Dry. -/
def dry : State := { State.reset with sys := { State.reset.sys with dry := true } }

/-- StopAndStandbyResults: with standby and without, the latch set and clear, in Dry and out of it, with main lost and present, and with
a final record later than the count and before it. -/
theorem witness_StopAndStandbyResults :
    (∀ p, bit1 (State.reset.rd (.cxl p) .cxlStat 0) 0 = false) ∧
    (let s := State.reset.setFld .power .pwrStat 0 2 2 1
     s.standby = true ∧ s.latched = true) ∧
    (dry.sys.dry = true ∧ dry.latched = false ∧ dry.standby = true ∧ bit1 (dry.rd .power .pwrWake 0) 0 = true ∧
      bit1 ((dry.wr .power .pwrWake 0 2).rd .power .pwrWake 0) 0 = false) ∧
    (State.reset.up ∧ State.reset.sys.dry = false ∧ (State.reset.setFld .tideline .discStat 0 2 0 2).discState = 2) ∧
    (∃ s : State, s.standby = false ∧ s.sys.mainLost = false) ∧
    (let s : State := { dry with standby := false, now := 1000, sys := { dry.sys with mainLost := true }, tide := { dry.tide with final := some 2000 } }
     s.standby = false ∧ s.sys.mainLost = true ∧ s.now.toNat + 1 < 2 ^ 64 ∧ s.tide.final = some 2000 ∧ s.now.toNat < (2000 + 1 : Word).toNat) :=
  ⟨by decide +kernel, by decide +kernel, by decide +kernel, ⟨⟨rfl, rfl⟩, by decide +kernel⟩, ⟨{ State.reset with standby := false }, rfl, rfl⟩, by decide +kernel⟩

/-- A module whose core 0, in Slack, has queue 0 RUNNING, and a ramp that has run its units, with the requests that wait. -/
def ramping (k : BwKind) (l : List BwReq) : State :=
  { State.reset with
    now := 100000000, cores := [(0, { core0 with slack := true })]
    sys := { State.reset.sys with ramp := some { req := { kind := k, cls := 1, step := bwStep k, arrived := 0 }, start := 0 }, ramps := l } }

/-- Requests of Breakwater in the order of their arrival. -/
def asked (c : Nat) (k : BwKind) : BwReq := { kind := k, cls := c, step := bwStep k, arrived := 3 }

/-- A row 20 of the rule table on channel 8, alone on it, with its action. -/
def ruled (dur act below : Nat) : State :=
  (State.reset.wr .tidewatch .supRuleLo 20 (BitVec.ofNat 64 (2 ^ 63 + 8 + below * 2 ^ 7 + 100 * 2 ^ 8 + dur * 2 ^ 40 + act * 2 ^ 56))).wr .tidewatch
    .supRuleHi 20 (BitVec.ofNat 64 (100 + 2 * 2 ^ 32))

/-- A row of the rule table has fired. -/
def hasFired (s : State) : State := s.wr .tidewatch .supStat 0 (BitVec.ofNat 64 (2 ^ 20))

/-- PowerResults: Neap from Spring and back, the clock held and free; a core that may go into Slack; requests that may be made and not;
and a ramp that has not run, one with four requests waiting, the third of them next, with and without a row that holds ramps, one of a
core and one of a slice. -/
theorem witness_PowerResults :
    (State.reset.up ∧ State.reset.standby = true ∧ State.reset.firedWith [2] = false ∧ State.reset.fld .power .pwrStat 0 1 0 ≠ 1) ∧
    (let s := (List.finRange 36).foldl (fun (s : State) c => s.setSlack c true) (State.reset.setFld .power .pwrStat 0 1 0 1)
     s.up ∧ s.standby = true ∧ s.firedWith [2] = false ∧ s.fld .power .pwrStat 0 1 0 = 1 ∧ s.sys.ramps = [] ∧ s.sys.ramp = none ∧
       ∀ c : Fin 36, s.coreLive c = true → (s.core c).slack = true) ∧
    (∃ s : State, s.up ∧ s.standby = false) ∧
    (let s := State.reset.setFld .power .pwrCtrl 0 15 3 5
     s.up ∧ s.coreLive 35 = true ∧ (s.core 35).slack = false ∧ s.fld .power .pwrCtrl 0 15 3 ≠ 0 ∧ s.readyQueues 35 = [] ∧ s.sliceOn 35 = false) ∧
    (State.reset.bwMay (.stack 11) = true ∧ State.reset.sys.ramp = none ∧ State.reset.rampsHeld = false ∧ State.reset.sys.ramps = [] ∧
      State.reset.bwMay (.wake 0) = false) ∧
    (let l := [asked 3 (.stack 1), asked 2 (.stack 2), asked 1 (.ethernet 0), asked 1 (.cxl 1)]
     let s := ramping (.tideway 3) l
     let h := hasFired (s.wr .tidewatch .supRuleLo 20 (BitVec.ofNat 64 (2 ^ 63 + 2 * 2 ^ 56)))
     (∀ x : Ramp, s.sys.ramp = some x → x.start.toNat + s.rampUnits x.req.step ≤ s.now.toNat) ∧ s.sys.ramp.isSome = true ∧
       s.sys.ramps = l.take 2 ++ asked 1 (.ethernet 0) :: [asked 1 (.cxl 1)] ∧ (∀ z ∈ l.take 2, 1 < z.cls) ∧ s.rampsHeld = false ∧
       h.rampsHeld = true ∧ h.sys.ramps = l ∧ h.up ∧ h.sys.ramp.map (·.start) = some 0) ∧
    (let s := ramping (.wake 0) []
     s.sys.ramp.map (·.req.kind) = some (.wake 0) ∧ s.sys.ramps = [] ∧ (s.core 0).holder = some 0 ∧ ((s.core 0).queue 0).keeps = true ∧
       s.higherReady 0 0 = false) ∧
    (∀ r, ((ramping (.wake 0) []).queue 0 r).state = .waiting → ((ramping (.wake 0) []).queue 0 r).inWaitGe = true) ∧
    ((ramping (.slice 41) []).sys.ramp.map (·.req.kind) = some (.slice 41) ∧ ({ ramping (.slice 41) [] with now := 0 } : State).now = 0) := by
  refine ⟨⟨⟨rfl, rfl⟩, by decide +kernel⟩, ⟨⟨rfl, rfl⟩, by decide +kernel⟩, ⟨{ State.reset with standby := false }, ⟨rfl, rfl⟩, rfl⟩,
    ⟨⟨rfl, rfl⟩, by decide +kernel⟩, by decide +kernel, ⟨fun x h => ?_, by decide +kernel, rfl, by decide +kernel, by decide +kernel,
      by decide +kernel, rfl, ⟨rfl, rfl⟩, rfl⟩, by decide +kernel, tags_of (by decide +kernel), by decide +kernel⟩
  obtain rfl := Option.some.inj h
  decide +kernel

/-- RuleResults: row 20 alone on channel 8, beyond for as many samples as its duration asks and for fewer, above and below, with each kind
of action; and the row fired, clear for as many samples as its release asks and for fewer. -/
theorem witness_RuleResults :
    (∀ p ∈ [(0, 0, 1), (1, 1, 0), (3, 2, 0), (2, 4, 0)], let s := ruled p.1 p.2.1 p.2.2
      let x := s.ruleRow 20
      s.up ∧ s.standby = true ∧ channelListed x.channel = true ∧ (∀ o < 64, o ≠ 20 → (s.ruleRow o).channel ≠ x.channel) ∧
      bits (s.rd .tidewatch .supFilter x.channel) 5 0 = 0 ∧ x.enable = true ∧ s.sys.ramps = [] ∧ s.fired 20 = false ∧
      FMap.get 0 s.sys.beyond 20 = 0 ∧ x.duration = p.1 ∧ x.action = p.2.1 ∧
      (List.replicate 3 (if x.below then (99 : BitVec 32) else 101)).all (fun y =>
        decide (if x.below then y.toInt < x.threshold else x.threshold < y.toInt)) = true) ∧
    (let s := hasFired (ruled 1 1 0)
     let x := s.ruleRow 20
     s.fired 20 = true ∧ FMap.get 0 s.sys.clear 20 = 0 ∧ x.action ≤ 1 ∧ x.clear = 2 ∧ [(99 : BitVec 32), 98].all (fun y => decide (y.toInt < x.release)) = true ∧
       ([99] : List (BitVec 32)).length + 1 = max 1 x.clear ∧ ([] : List (BitVec 32)).length + 1 < max 1 x.clear) := by
  refine ⟨fun p hp => ?_, by decide +kernel⟩
  simp only [List.mem_cons, List.not_mem_nil, or_false] at hp
  rcases hp with rfl | rfl | rfl | rfl <;> exact ⟨⟨rfl, rfl⟩, by decide +kernel⟩

/-- A point of the curve, and the x coordinate of its sum with the base point: what an owner's record hashes to, so that the record is
signed with that number twice. -/
def ownerPoint : Nat × Nat :=
  (0x72019fcba42d4ed00916a08e51ff259a4db0ed1f4200763c9a8a26487c367986843d72c0ec9ea5e36b5e547ae4c5ecc5,
   0x77b34af91f295a7d28b4c4b435d6776cf49bcc8469b4403f913c218170ee8070ca0158e534bc98faa9f353be397a646)
def ownerSum : Nat := 0x2ba5c7a94cd37e3b3e8f8ca6ae38deac6d731dc8c183cb64e1aef14ea633ad193ccb84151b6dd61e6ad6dc42533c3c8d

/-- An owner's record with the next sequence, which names another key and allows debugging; its signature is by `ownerPoint`
(R424, R425). -/
def ownerRecord : List Byte :=
  [3, 0, 0, 0] ++ leBytes 1 4 ++ leBytes 98 4 ++ List.replicate 20 0 ++ [4] ++ List.replicate 96 0 ++ [3] ++ beBytes ownerSum 48 ++ beBytes ownerSum 48

/-- A module whose record in force has the key `ownerPoint`, debugging allowed, and a chain of one byte. -/
def owned : State :=
  { State.reset with
    sys := { State.reset.sys with
      owner := List.replicate 32 0 ++ [4] ++ beBytes ownerPoint.1 48 ++ beBytes ownerPoint.2 48 ++ [2] ++ List.replicate 97 0
      nonce := List.replicate 32 7 } }

/-- A debug token of scope 3 with a signature (R437). -/
def debugTokenOf (sig : List Byte) : List Byte := serial ++ List.replicate 32 7 ++ [3] ++ List.replicate 15 0 ++ sig

/-- IdentityResults: a record whole in its first piece, one in part, one too long, and one while a transfer waits; its
signature verifies, and another's does not; a token passes with a signature that verifies; the chain of slot 1 there and absent; a device that is in Dry or failed; and SPDM over either
way. -/
theorem witness_IdentityResults :
    (State.reset.standby = true ∧ State.reset.secured = true ∧ bit1 (State.reset.rd .security .secStat 0) 6 = false ∧
      State.reset.sys.dry = false) ∧
    (∃ s : State, s.standby = true ∧ s.secured = false ∧ s.sys.dry = true) ∧
    bit1 ((State.reset.setFld .security .secStat 0 6 6 1).rd .security .secStat 0) 6 = true ∧
    ((owned.pieceIn 0 ownerRecord).recordIn = some ownerRecord ∧ ownerRecord.length ≤ 240 ∧
      (owned.pieceIn 0 (ownerRecord.take 225)).recordIn = none ∧ 240 < (List.replicate 241 (0 : Byte)).length) ∧
    (owned.secured = true ∧ bit1 (owned.rd .security .secStat 0) 6 = false ∧ owned.ownerOk ownerRecord = true ∧
      (owned.setFld .security .secOwner 0 31 0 7).ownerOk ownerRecord = false) ∧
    (∀ sig, sig.length = 96 → verifies owned.ownerKey ((debugTokenOf sig).take 64) sig = true → owned.tokenOk (debugTokenOf sig) = true) ∧
    owned.tokenOk [] = false ∧ owned.slotThere 1 = true ∧ State.reset.slotThere 7 = false ∧
    (windowed.spdmReaches true ∧ State.reset.spdmReaches false) := by
  refine ⟨by decide +kernel, ⟨dry, by decide +kernel⟩, by decide +kernel, by decide +kernel, by decide +kernel, fun sig hn h => ?_,
    by decide +kernel, by decide +kernel, by decide +kernel, ⟨⟨rfl, rfl⟩, ⟨_, witness_RegisterReadResults.1⟩, rfl⟩, ⟨rfl, rfl⟩, rfl⟩
  have e : (debugTokenOf sig).take 16 = serial := rfl
  have d : (debugTokenOf sig).drop 64 = sig := rfl
  have f : ((debugTokenOf sig).drop 16).take 32 = List.replicate 32 7 := rfl
  have l : (debugTokenOf sig).length = 160 := by simp [debugTokenOf, serial, hn]
  simp only [State.tokenOk, e, d, f, h, l, BEq.rfl]
  decide +kernel

/-- Self-test may run, and physical core 5 has its grant. -/
def granted (x : Option SliceRun) : State :=
  let s := State.reset.wr .selfTest .stCtrl 0 4
  { s with now := 10000000000, sys := { s.sys with granted := [5], slices := [(5, x)] } }

/-- Every block that takes work has drained. -/
def allDrained : State :=
  ([Pg.estuary, .foreshore 0, .foreshore 1, .update 0, .update 1] ++ (List.finRange 36).map Pg.sequencer).foldl
    (fun (s : State) p => s.setLive p { state := .drained }) State.reset

/-- A sweep or a loopback of a unit in progress. -/
def sweeping (v : Word) (lo hi side : Nat) : State :=
  { State.reset with now := 10000000000, sys := { State.reset.sys with margin := some v, marginLo := lo, marginHi := hi, marginSide := side } }

/-- SelfTestResults: a slice with its grant and its conditions, and without; one in progress of each kind, its first run or its second,
where 83 others of its cycle have passed or none; a full test with everything drained and not, and one in progress; sweeps and loopbacks
of a unit that is there and not, of a port that is disabled, at a step of each side, in slack water and with Bulk work ready, and with
widths of 5 and 6; and a link that is down. -/
theorem witness_SelfTestResults :
    (let s := granted none
     s.up ∧ s.standby = true ∧ s.sys.granted.contains 5 = true ∧ s.sliceMay 5 (.logic 1 2) = true ∧ s.sliceMay 5 (.memory 19) = true ∧
       FMap.get none s.sys.slices 5 = none ∧ s.baySlices (5 / 7) < max 1 (s.fld .selfTest .stCfg 0 10 8) ∧ s.sys.granted.contains 41 = false) ∧
    (∀ x ∈ [SliceRun.mk (.logic 1 2) 5 false, .mk (.logic 1 2) 5 true, .mk (.memory 3) 5 false], let s := granted (some x)
     s.up ∧ FMap.get none s.sys.slices 5 = some x ∧ s.logicalOf 5 = some 5 ∧ s.spareFree (5 / 6) = true ∧ s.sys.swap = none ∧
       (KeySet.add (FMap.get [] s.sys.cycle 5) (sliceKey x.kind)).length < 84) ∧
    84 ≤ (KeySet.add ((List.range 200).filter (fun i => i != sliceKey (.memory 3)) |>.take 83) (sliceKey (.memory 3))).length ∧
    (allDrained.up ∧ allDrained.fullMay = true ∧ allDrained.fld (.harbour 1) .hbStat 0 21 19 = 1 ∧
      (allDrained.setFld (.harbour 1) .hbStat 0 21 19 0).fld (.harbour 1) .hbStat 0 21 19 ≠ 1) ∧
    (State.reset.up ∧ State.reset.fullMay = false ∧ State.reset.sys.fullTest = none ∧ ∃ s : State, s.up ∧ s.sys.fullTest.isSome = true) ∧
    (State.reset.sys.margin = none ∧ State.reset.marginUnit 0 = true ∧ State.reset.marginUnit (BitVec.ofNat 64 (15 * 4)) = false ∧
      (let s := State.reset.wr .estuary .estPortCfg 0 0
       s.marginUnit 2 = true ∧ s.portDisabled 2 = true ∧ s.sys.margin = none)) ∧
    (∀ p ∈ [(31, 0), (0, 1)], let s := sweeping (BitVec.ofNat 64 (2 ^ 13)) p.1 0 p.2
     s.up ∧ bits (BitVec.ofNat 64 (2 ^ 13)) 14 13 = 1 ∧ bits (BitVec.ofNat 64 (2 ^ 13)) 1 0 = 0 ∧ s.slackFor 0 = true ∧ s.bayReady 0 = false ∧
       s.sys.marginSide = p.2 ∧ s.sys.marginSide < 2) ∧
    (let s : State := { sweeping (BitVec.ofNat 64 (2 ^ 13)) 0 0 0 with cores := [(0, core0)] }
     s.slackFor 0 = false ∨ s.bayReady 0 = true) ∧
    (∀ n ∈ [5, 6], let s := sweeping (BitVec.ofNat 64 (2 ^ 13)) n 32 2
     s.sys.margin = some (BitVec.ofNat 64 (2 ^ 13)) ∧ 2 ≤ s.sys.marginSide ∧ s.sys.marginLo = n ∧ s.sys.marginHi = 32) ∧
    (let v := BitVec.ofNat 64 (2 * 2 ^ 13 + 2)
     (sweeping v 0 0 0).up ∧ (sweeping v 0 0 0).sys.margin = some v ∧ bits v 14 13 = 2 ∧ bits v 1 0 = 2 ∧ bits v 5 2 = 0 ∧
       (sweeping v 0 0 0).linkUp 0 = false) ∧
    State.reset.standby = true ∧ ∀ x ∈ State.reset.errs.held, x.page ≠ Pg.selfTest.index := by
  refine ⟨⟨⟨rfl, rfl⟩, by decide +kernel⟩, fun x hx => ?_, by decide +kernel, ⟨⟨rfl, rfl⟩, by decide +kernel⟩,
    ⟨⟨rfl, rfl⟩, by decide +kernel, rfl, ⟨{ State.reset with sys := { State.reset.sys with fullTest := some 1 } }, ⟨rfl, rfl⟩, rfl⟩⟩, by decide +kernel,
    fun p hp => ?_, by decide +kernel, by decide +kernel, ⟨⟨rfl, rfl⟩, by decide +kernel⟩, rfl, fun x hx => absurd hx (List.not_mem_nil)⟩
  · simp only [List.mem_cons, List.not_mem_nil, or_false] at hx
    rcases hx with rfl | rfl | rfl <;> exact ⟨⟨rfl, rfl⟩, by decide +kernel⟩
  · simp only [List.mem_cons, List.not_mem_nil, or_false] at hp
    rcases hp with rfl | rfl <;> exact ⟨⟨rfl, rfl⟩, by decide +kernel⟩

/-- What a boot finds when everything is good. -/
def foundAll : BootFound :=
  { mfgA := true, mfgB := true, mirror := true, fieldA := true, fieldB := true, ownerA := true, ownerB := true, badBanks := [], battery := {},
    digestOk := true }

/-- BootResults: a boot that may start, from Dry with HBM4 kept and lost, and one that may not; and what each kind of boot finds. -/
theorem witness_BootResults :
    (State.reset.bootMay true = true ∧ State.reset.bootMay false = false) ∧
    (∀ b : Bool, let s : State := { dry with sys := { dry.sys with wake := some 1, cold := b } }
      s.bootMay b = true ∧ ∀ n < 5, s.bootOwner.bankOk n (s.fwActive n) = true) ∧
    foundGood foundAll ∧ foundGood { foundAll with digestOk := false } ∧
    (∃ f : BootFound, f.mfgA = false ∧ f.mfgB = false ∧ f.mirror = false) ∧
    (∃ f : BootFound, f.mfgA = true ∧ f.fieldA = true ∧ f.ownerA = false ∧ f.ownerB = false) ∧
    ∃ f : BootFound, f.mfgA = true ∧ f.fieldA = true ∧ f.ownerA = true ∧ (0 : Fin 10) ∈ f.badBanks ∧ (1 : Fin 10) ∈ f.badBanks :=
  ⟨by decide +kernel, by decide +kernel, ⟨rfl, rfl, rfl, rfl, rfl, rfl, rfl, rfl⟩, ⟨rfl, rfl, rfl, rfl, rfl, rfl, rfl, rfl⟩, ⟨{ foundAll with mfgA := false, mfgB := false, mirror := false }, by decide⟩,
    ⟨{ foundAll with ownerA := false, ownerB := false }, by decide⟩, ⟨{ foundAll with badBanks := [1, 0] }, by decide⟩⟩

/-! ### WellFormed refuses, and reset is canonical -/

theorem test_reset_canonical : State.reset.tablesOk = true := by decide

theorem test_wf_refuses_count : Instr.wf (.tilePassBoundary 0 (2 ^ 32)) = false := by decide
theorem test_wf_refuses_sequence : Instr.wf (.instructionComplete 0 0 (2 ^ 32) .finished 0 []) = false := by decide
theorem test_wf_refuses_watermark : Instr.wf (.instructionComplete 0 0 0 .finished (2 ^ 32) []) = false := by decide
theorem test_wf_refuses_rows : Instr.wf (.deadlinePassed (.job 0 (2 ^ 16))) = false := by decide
theorem test_wf_refuses_units : Instr.wf (.deadlinePassed (.command (2 ^ 32))) = false := by decide
theorem test_wf_refuses_job : Instr.wf (.fsJobComplete 0 .finished (2 ^ 16) false) = false := by decide
theorem test_wf_refuses_cliff : Instr.wf (.cliffCommandComplete .finished 0 (2 ^ 32)) = false := by decide
theorem test_wf_refuses_line : Instr.wf (.prefetchFill 0 0 .arrived (2 ^ 41)) = false := by decide
theorem test_wf_refuses_body : Instr.wf (.observe 5 { mkMsg 2 [] 0 0 with body := List.replicate (2 ^ 16) 0 }) = false := by
  simp only [Instr.wf, Msg.wf, List.length_replicate]; decide
theorem test_wf_refuses_source : Instr.wf (.cxlHotRemove (.message 5 { mkMsg 2 [] 0 0 with body := List.replicate (2 ^ 16) 0 })) = false := by
  simp only [Instr.wf, CxlSource.wf, Msg.wf, List.length_replicate]; decide
theorem test_wf_refuses_packet : Instr.wf (.fastPathRequest 5 (List.replicate 4097 0) false) = false := by
  simp only [Instr.wf, List.length_replicate]; decide
theorem test_wf_refuses_write : Instr.wf (.rdmaWriteReceived 5 0 0 (List.replicate (2 ^ 32) 0) false) = false := by
  simp only [Instr.wf, List.length_replicate]; decide
theorem test_wf_refuses_response : Instr.wf (.rdmaReadResponse 0 (List.replicate (2 ^ 32) 0)) = false := by
  simp only [Instr.wf, List.length_replicate]; decide
theorem test_wf_refuses_window : Instr.wf (.mgmtWindowAccess 0 (.write (List.replicate 4097 0))) = false := by
  simp only [Instr.wf, WindowOp.wf, List.length_replicate]; decide
theorem test_wf_refuses_nonce : Instr.wf (.challenge false 0 []) = false ∧ Instr.wf (.getMeasurements false 0 [1]) = false ∧
    Instr.wf (.spdmMessage (.challenge 0 [])) = false := by decide
theorem test_wf_refuses_frame : Instr.wf (.tidewayDataFrame 0 (frame 1 0 0 (List.replicate 63 0)) true) = false := by decide
theorem test_wf_refuses_samples : Instr.wf (.ruleFire 20 [] 0) = false ∧ Instr.wf (.ruleRelease 20 [] 0) = false := by decide
theorem test_wf_refuses_piece : Instr.wf (.ownerWrite 0 (List.replicate 241 0)) = false := by
  simp only [Instr.wf, List.length_replicate]; decide
theorem test_wf_refuses_token : Instr.wf (.debugToken []) = false := by decide

end Sys2Proof.Tests
end

/-! Proofs about control space (R10, R11, R75, R408, R433, R458 to R469): reset, the clears, and the reads and writes of registers. -/

namespace Sys2Proof

/-- A table that lists nothing reads as its default everywhere. -/
@[simp] theorem FMap.get_nil {α : Type} (d : α) (i : Nat) : FMap.get d ([] : FMap α) i = d := rfl

end Sys2Proof

namespace Sys2Proof.Machine

/-! ### Reset -/

/-- Settles O3: every table of the reset state is empty, so each entry reads as its default. -/
theorem resetValues : Obligations.ResetValues := by
  unfold Obligations.ResetValues
  refine ⟨?canonical, rfl, fun g c i => ?semaphore, fun c q => ?queue, fun p r i => ?register, fun a => ?byte, rfl, fun p => ?live⟩
  case canonical => decide
  case semaphore => cases g <;> simp [State.sem, State.core, State.reset]
  case queue => simp [State.queue, State.core, Core.queue, State.reset]
  case register => simp [State.rd, State.reset]
  case byte => simp [State.byte, State.reset]
  case live => simp [State.live, State.reset]

/-! ### Pages and keys -/

/-- The page list gives every page its index (R464). -/
theorem Pg.ofIndex_index (p : Pg) : Pg.ofIndex p.index = some p := by
  cases p with
  | cxl i | harbour i | foreshore i | update i | twPort i | hbm i => revert i; decide
  | sequencer c | array c | vector c | score c | recurrent c => revert c; decide
  | _ => rfl

/-- Two registers of one page at different offsets have different keys. -/
theorem regKey_ne {p : Pg} {r r' : RegName} {i i' : Nat} (h : r.off i ≠ r'.off i') : regKey p r i ≠ regKey p r' i' := by
  unfold regKey; omega

/-! ### Updates that touch registers alone -/

/-- The second state is the first with other registers. -/
def State.regsOnly (s t : State) : Prop := ∃ m, t = { s with regs := m }

theorem State.regsOnly_refl (s : State) : s.regsOnly s := ⟨s.regs, rfl⟩

theorem State.regsOnly_wr {s t : State} (h : s.regsOnly t) (p : Pg) (r : RegName) (i : Nat) (v : Word) : s.regsOnly (t.wr p r i v) := by
  obtain ⟨m, rfl⟩ := h
  exact ⟨_, rfl⟩

theorem State.regsOnly_bump {s t : State} (h : s.regsOnly t) (p : Pg) (r : RegName) (i n : Nat) : s.regsOnly (t.bump p r i n) := by
  unfold State.bump
  split
  · exact State.regsOnly_wr h p r i _
  · exact h

theorem State.regsOnly_foldl {α : Type} {f : State → α → State} (hf : ∀ s t x, State.regsOnly s t → s.regsOnly (f t x)) (l : List α) :
    ∀ {s t : State}, s.regsOnly t → s.regsOnly (l.foldl f t) := by
  induction l with
  | nil => exact id
  | cons x l ih => exact fun h => ih (hf _ _ x h)

theorem State.regsOnly_eq {s t : State} (h : s.regsOnly t) : t = { s with regs := t.regs } := by
  obtain ⟨m, rfl⟩ := h
  rfl

/-! ### Clearing the counters of a page (R75) -/

/-- The keys of the counters of a page. -/
def counterKeys (p : Pg) : List Nat := (countersOf p.type).flatMap (fun r => (List.range r.entries).map (regKey p r))

/-- The keys that a clear of a page's counters writes (R75, R303). -/
def clearedKeys (p : Pg) : List Nat := if p = .scheduler then regKey p .schedMaxReflexWait 0 :: counterKeys p else counterKeys p

theorem mem_counterKeys {p : Pg} {r : RegName} {i : Nat} (hr : r ∈ countersOf p.type) (hi : i < r.entries) :
    regKey p r i ∈ counterKeys p :=
  List.mem_flatMap.2 ⟨r, hr, List.mem_map.2 ⟨i, List.mem_range.2 hi, rfl⟩⟩

theorem counterKeys_subset_clearedKeys (p : Pg) : counterKeys p ⊆ clearedKeys p := by
  unfold clearedKeys
  split
  · exact List.subset_cons_self _ _
  · exact List.Subset.refl _

theorem clearedKeys_subset (p : Pg) : clearedKeys p ⊆ counterKeys p ++ [regKey .scheduler .schedMaxReflexWait 0] := by
  unfold clearedKeys
  split
  · next h =>
    subst h
    exact List.cons_subset.2 ⟨List.mem_append_right _ (List.mem_singleton_self _), List.subset_append_left _ _⟩
  · exact List.subset_append_left _ _

theorem clearedKeys_of_ne {p : Pg} (h : p ≠ .scheduler) : clearedKeys p = counterKeys p := if_neg h

theorem State.reg_clearCounter (s : State) (p : Pg) (r : RegName) (k : Nat) :
    (s.clearCounter p r).reg k = if k ∈ (List.range r.entries).map (regKey p r) then 0 else s.reg k := by
  unfold State.clearCounter
  generalize List.range r.entries = l
  induction l generalizing s with
  | nil => simp
  | cons i l ih =>
    rw [List.foldl_cons, ih, State.reg_wr, List.map_cons]
    grind

/-- A register after the counters of a page have been cleared one after another. -/
theorem State.reg_foldl_clearCounter (s : State) (p : Pg) (l : List RegName) (k : Nat) :
    (l.foldl (fun s r => s.clearCounter p r) s).reg k =
      if k ∈ l.flatMap (fun r => (List.range r.entries).map (regKey p r)) then 0 else s.reg k := by
  induction l generalizing s with
  | nil => simp
  | cons r l ih =>
    rw [List.foldl_cons, ih, State.reg_clearCounter, List.flatMap_cons]
    grind

theorem State.reg_clearCounters (s : State) (p : Pg) (k : Nat) :
    (s.clearCounters p).reg k = if k ∈ clearedKeys p then 0 else s.reg k := by
  unfold State.clearCounters clearedKeys
  split
  · rw [State.reg_wr, State.reg_foldl_clearCounter, if_pos rfl, counterKeys]
    grind
  · next h => rw [State.reg_foldl_clearCounter, if_neg h, counterKeys]

theorem State.regsOnly_clearCounters (s : State) (p : Pg) : s.regsOnly (s.clearCounters p) := by
  have hc : s.regsOnly ((countersOf p.type).foldl (fun s r => s.clearCounter p r) s) :=
    State.regsOnly_foldl (fun _ _ _ h => State.regsOnly_foldl (fun _ _ _ h => State.regsOnly_wr h _ _ _ _) _ h) _ (State.regsOnly_refl s)
  unfold State.clearCounters
  split
  · exact State.regsOnly_wr hc _ _ _ _
  · exact hc

/-- A counter of a page whose counters have been cleared reads 0 (R75). -/
theorem State.rd_clearCounters {s : State} {p : Pg} {r : RegName} {i : Nat} (hr : r ∈ countersOf p.type) (hi : i < r.entries) :
    (s.clearCounters p).rd p r i = 0 := by
  rw [State.rd_eq_reg, State.reg_clearCounters, if_pos (counterKeys_subset_clearedKeys p (mem_counterKeys hr hi))]

theorem State.regsBut_clearCounters {s t : State} {p : Pg} {ks : List Nat} (h : s.regsBut t ks) (hk : clearedKeys p ⊆ ks) :
    s.regsBut (t.clearCounters p) ks := by
  intro k hn
  rw [State.reg_clearCounters, if_neg (fun hc => hn (hk hc)), h k hn]

/-! ### COUNTER_CLEAR on each kind of page (R75, R166, R189, R258) -/

/-- A page that keeps no time outside SERVICE clears its counters and does nothing more. -/
theorem State.clearWrite_eq_clearCounters {s : State} {p : Pg} (hc : p.type.counterCtl.isSome = true) (hs : p.type ≠ .score)
    (hr : p.type ≠ .recurrent) (hz : ∀ h, p = .harbour h → s.fld p .hbStat 0 21 19 = 0) : s.clearWrite p = s.clearCounters p := by
  unfold State.clearWrite
  split
  · exact absurd rfl hs
  · exact absurd rfl hr
  · next h _ _ => rw [if_pos (hz h rfl)]
  · rfl
  · next hn => rw [hn] at hc; cases hc

/-- A Harbour page outside SERVICE first takes its time up to now (R258). -/
theorem State.clearWrite_harbour {s : State} {h : Fin 2} (hz : s.fld (.harbour h) .hbStat 0 21 19 ≠ 0) :
    s.clearWrite (.harbour h) = (s.frozenNow h).clearCounters (.harbour h) := by
  show (if s.fld (.harbour h) .hbStat 0 21 19 = 0 then s else s.frozenNow h).clearCounters (.harbour h) = _
  rw [if_neg hz]

theorem State.clearWrite_ofCore {s : State} {c : Fin 36} {p : Pg} {ctl : RegName} {clr en : Nat} (hp : p = .score c ∨ p = .recurrent c)
    (hc : p.type.counterCtl = some (ctl, clr, en)) :
    s.clearWrite p = s.writeLater c p ctl 0 (s.rd p ctl 0 ||| BitVec.ofNat 64 (2 ^ clr)) := by
  rcases hp with rfl | rfl
  all_goals
    cases hc
    rfl

/-- A write of 1 to counter_clear, where no write waits, waits for the instruction in flight or takes effect at once, with the bit set. -/
theorem State.writeLater_clear {s : State} {c : Fin 36} {p : Pg} {ctl : RegName} {clr en : Nat}
    (hc : p.type.counterCtl = some (ctl, clr, en)) (hw : (s.core c).waiting = []) (hb : clr < 64) :
    ∃ v, bit1 v clr = true ∧ s.writeLater c p ctl 0 (s.rd p ctl 0 ||| BitVec.ofNat 64 (2 ^ clr)) =
      if (s.core c).holdsWrite p then s.setCore c { s.core c with waiting := [(regKey p ctl 0, v)] }
      else s.applyCtl (regKey p ctl 0) v := by
  refine ⟨_, ?_, by simp only [State.writeLater, hc, hw, if_true, List.nil_append]; rfl⟩
  simp only [bit1, BitVec.getLsbD_or, BitVec.getLsbD_and, BitVec.getLsbD_ofNat, Nat.testBit_two_pow_self, hb, decide_true,
    Bool.and_true, Bool.or_true]

/-- A control register written with its counter_clear set: the page's counters are cleared, and the bit itself keeps no value. -/
theorem State.applyCtl_clear {s : State} {p : Pg} {ctl : RegName} {clr en : Nat} {v : Word}
    (hc : p.type.counterCtl = some (ctl, clr, en)) (ho : ctl.off 0 < 4096) (hv : bit1 v clr = true) :
    s.applyCtl (regKey p ctl 0) v = (s.clearCounters p).wr p ctl 0 (setBits v clr clr 0) := by
  have hk : regKey p ctl 0 / 4096 = p.index := by unfold regKey; omega
  simp only [State.applyCtl, hk, Pg.ofIndex_index, hc, if_true, hv]
  rfl

/-- The control register of a score-store or recurrent page lies apart from its counters. -/
theorem ctl_off_ne_counter {t : PageType} {ctl : RegName} {clr en : Nat} (ht : t = .score ∨ t = .recurrent)
    (hc : t.counterCtl = some (ctl, clr, en)) :
    clr < 64 ∧ ctl.off 0 < 4096 ∧ ∀ r ∈ countersOf t, ∀ i < r.entries, ctl.off 0 ≠ r.off i := by
  rcases ht with rfl | rfl
  all_goals
    cases hc
    decide

/-! ### The rows of a page (R75, R468, R469) -/

theorem State.onPage_eq {s : State} {n : BitVec 14} {p : Pg} (hp : Pg.ofIndex n.toNat = some p) (ha : s.answersAt p = true)
    (hr : s.agentReaches n.toNat 2 = true) (f : Pg → State) : s.onPage n f = f p := by
  simp [State.onPage, hp, ha, hr]

theorem exec_counterClear_answers {s : State} {n : BitVec 14} {p : Pg} (hp : Pg.ofIndex n.toNat = some p) (ha : s.answersAt p = true)
    (hr : s.agentReaches n.toNat 2 = true) : exec (.counterClear n) s = .next (s.clearWrite p) := by
  rw [exec_counterClear, execCounterClear, State.onPage_eq hp ha hr]

/-! ### Writing a register that a page maps (R10, R460) -/

/-- A register of the block itself, not of the page's header, is the block's to write. -/
theorem State.writeReg_block {s : State} {pg off j o : Nat} {p : Pg} {r : RegName} {x : RegInfo} {v : Word} {m safe : Bool}
    (hp : Pg.ofIndex pg = some p) (hf : findReg p.type off = some (r, j, x)) (ha : s.answersAt p = true) (hr : r.page ≠ .header) :
    s.writeReg pg off v o m safe = s.blockWrite p r j v o m safe := by
  simp only [State.writeReg, hp, hf, ha, Bool.not_true, Bool.false_eq_true, if_false]
  split
  any_goals exact absurd rfl hr
  rfl

theorem State.writeReg_eventMask {s : State} {pg off o : Nat} {p : Pg} {x : RegInfo} {v : Word} {m safe : Bool}
    (hp : Pg.ofIndex pg = some p) (hf : findReg p.type off = some (.eventMask, 0, x)) (ha : s.answersAt p = true) :
    s.writeReg pg off v o m safe = s.wrRw p .eventMask 0 v := by
  simp [State.writeReg, hp, hf, ha]

theorem State.writeReg_event {s : State} {pg off o : Nat} {p : Pg} {x : RegInfo} {v : Word} {m safe : Bool}
    (hp : Pg.ofIndex pg = some p) (hf : findReg p.type off = some (.event, 0, x)) (ha : s.answersAt p = true) :
    s.writeReg pg off v o m safe = s.eventWrite p v := by
  simp [State.writeReg, hp, hf, ha]

/-- An offset that the page does not map ignores the write (R460). -/
theorem State.writeReg_unmapped {s : State} {pg off o : Nat} {p : Pg} {v : Word} {m safe : Bool}
    (hp : Pg.ofIndex pg = some p) (hf : findReg p.type off = none) : s.writeReg pg off v o m safe = s := by
  simp [State.writeReg, hp, hf]

/-- A write that does not ask for a clear of the page's counters writes the RW fields alone. -/
theorem State.plainWrite_noClear {s : State} {p : Pg} {r : RegName} {j : Nat} {v : Word}
    (h : ∀ ctl clr e, p.type.counterCtl = some (ctl, clr, e) → r ≠ ctl ∨ bit1 v clr = false) :
    s.plainWrite p r j v = s.wrRw p r j v := by
  unfold State.plainWrite
  split
  · next ctl clr e hc =>
    rcases h ctl clr e hc with hr | hv
    · simp [Ne.symm hr]
    · simp [hv]
  · rfl

/-- No chapter confines a write of the update and the array page. -/
theorem State.blockWrite_plain {s : State} {p : Pg} {r : RegName} {j o : Nat} {v : Word} {m safe : Bool}
    (h : p.type = .update ∨ p.type = .array) : s.blockWrite p r j v o m safe = s.plainWrite p r j v := by
  cases p with
  | update | array => rfl
  | _ => simp [Pg.type] at h

theorem page_ne_header_of_mem {t : PageType} {r : RegName} (h : t = .update ∨ t = .array) (hr : r ∈ (regsOf t).map (·.1)) :
    r.page ≠ .header := by
  rcases h with rfl | rfl <;> revert r <;> decide

/-- EVENT_MASK, and a register of the update or the array page whose write does not clear the page's counters. -/
def unconfined (p : Pg) (r : RegName) (j : Nat) (v : Word) : Prop :=
  r = .eventMask ∧ j = 0 ∨ ((p.type = .update ∨ p.type = .array) ∧ r ∈ (regsOf p.type).map (·.1) ∧
    ∀ ctl clr e, p.type.counterCtl = some (ctl, clr, e) → r ≠ ctl ∨ bit1 v clr = false)

/-- A write that no chapter confines writes the RW fields of its register (R10, R11). -/
theorem State.writeReg_unconfined {s : State} {pg off j o : Nat} {p : Pg} {r : RegName} {x : RegInfo} {v : Word} {m safe : Bool}
    (hp : Pg.ofIndex pg = some p) (hf : findReg p.type off = some (r, j, x)) (ha : s.answersAt p = true) (hu : unconfined p r j v) :
    s.writeReg pg off v o m safe = s.wrRw p r j v := by
  rcases hu with ⟨rfl, rfl⟩ | ⟨ht, hr, hn⟩
  · exact State.writeReg_eventMask hp hf ha
  · rw [State.writeReg_block hp hf ha (page_ne_header_of_mem ht hr), State.blockWrite_plain ht, State.plainWrite_noClear hn]

/-! ### The agents' accesses (R433, R458, R460) -/

theorem exec_registerWrite_page {s : State} {o : Fin 3} {a : BitVec 48} {v : Word} {pg off : Nat}
    (hp : pageOf a.toNat = some (pg, off)) (hr : s.agentReaches pg o = true) :
    exec (.registerWrite o a v) s = .next (s.writeReg pg off v o false false) := by
  simp [exec_registerWrite, execRegisterWrite, hp, hr]

/-- An access over MCTP to control space is served, in Dry on the pages of Tidewatch alone (R433, R458). -/
theorem State.mctpStatus_ok {s : State} {a pg off : Nat} (hp : pageOf a = some (pg, off)) (hd : s.sys.dry = true → 1 ≤ pg ∧ pg ≤ 4) :
    s.mctpStatus a = .ok := by
  cases h : s.sys.dry with
  | false => simp [State.mctpStatus, hp, h]
  | true => simp [State.mctpStatus, hp, h, hd h]

theorem exec_regWrite_page {s : State} {a : Word} {v : Word} {safe : Bool} {pg off : Nat} (hp : pageOf a.toNat = some (pg, off))
    (hs : s.standby = true) (hd : s.sys.dry = true → 1 ≤ pg ∧ pg ≤ 4) (hf : s.sys.dry = false → s.sys.failed = false) :
    exec (.regWrite a v safe) s = .next ((s.emit (.mctp 2 .ok [])).writeReg pg off v 0 true safe) := by
  have h : (s.sys.failed && !s.sys.dry) = false := by
    cases e : s.sys.dry <;> simp_all
  simp [exec_regWrite, execRegWrite, hs, State.mctpStatus_ok hp hd, hp, h]

theorem exec_regRead_page {s : State} {a : Word} {pg off : Nat} (hp : pageOf a.toNat = some (pg, off)) (hs : s.standby = true)
    (hd : s.sys.dry = true → 1 ≤ pg ∧ pg ≤ 4) :
    exec (.regRead a) s = .next ((s.readReg pg off).2.emit (.mctp 1 .ok (leBytes (s.readReg pg off).1.toNat 8))) := by
  simp [exec_regRead, execRegRead, hs, State.mctpStatus_ok hp hd, hp]

theorem exec_regRead_outside {s : State} {a : Word} (hp : pageOf a.toNat = none) (hs : s.standby = true) :
    exec (.regRead a) s = .next (s.emit (.mctp 1 .eAddr [])) := by
  simp [exec_regRead, execRegRead, State.mctpStatus, hs, hp]

theorem State.readReg_value {s : State} {pg off j : Nat} {p : Pg} {r : RegName} {x : RegInfo} (hp : Pg.ofIndex pg = some p)
    (hf : findReg p.type off = some (r, j, x)) (hm : r ≠ .supMramData) (ht : r ≠ .tidelineNow) (ha : s.answersAt p = true) :
    s.readReg pg off = (s.value p r j, s) := by
  simp [State.readReg, hp, hf, hm, ht, ha]

/-- An offset that the page does not map reads zero (R460). -/
theorem State.readReg_unmapped {s : State} {pg off : Nat} {p : Pg} (hp : Pg.ofIndex pg = some p) (hf : findReg p.type off = none) :
    s.readReg pg off = (0, s) := by
  simp [State.readReg, hp, hf]

/-! ### What the rows leave -/

/-- COUNTER_CLEAR on a page whose control register takes the clear at once (R75, R258, R303). -/
theorem counterClear_result {s : State} {n : BitVec 14} {p : Pg} (hx : exec (.counterClear n) s = .next (s.clearWrite p))
    (hc : p.type.counterCtl.isSome = true) (hs : p.type ≠ .score) (hr : p.type ≠ .recurrent) :
    ∃ t, exec (.counterClear n) s = .next t ∧ (∀ r ∈ countersOf p.type, ∀ i < r.entries, t.rd p r i = 0) ∧
      t = { s with regs := t.regs, sys := { s.sys with modeSince := t.sys.modeSince } } ∧
      (∀ h, (p = .harbour h → s.fld p .hbStat 0 21 19 = 0) → FMap.get 0 t.sys.modeSince h.val = FMap.get 0 s.sys.modeSince h.val) ∧
      s.regsBut t (clearedKeys p) := by
  refine ⟨_, hx, ?_⟩
  by_cases hz : ∀ h, p = .harbour h → s.fld p .hbStat 0 21 19 = 0
  · rw [State.clearWrite_eq_clearCounters hc hs hr hz]
    obtain ⟨m, hm⟩ := State.regsOnly_clearCounters s p
    refine ⟨fun r hr i hi => State.rd_clearCounters hr hi, by rw [hm], fun h _ => by rw [hm], ?_⟩
    exact State.regsBut_clearCounters (State.regsBut_refl rfl _) (List.Subset.refl _)
  · obtain ⟨h, hz⟩ := not_forall.1 hz
    obtain ⟨rfl, hz⟩ := Classical.not_imp.1 hz
    rw [State.clearWrite_harbour hz]
    obtain ⟨m, hm⟩ := State.regsOnly_clearCounters (s.frozenNow h) (.harbour h)
    refine ⟨fun r hr i hi => State.rd_clearCounters hr hi, by rw [hm]; rfl, fun h' hn => ?_, ?_⟩
    · have hne : h ≠ h' := fun e => hz (hn (e ▸ rfl))
      rw [hm]
      exact FMap.get_set_other _ _ _ _ _ _ (fun e => hne (Fin.ext e))
    · have hk : regKey (.harbour h) .hbFrozenTime 0 ∈ clearedKeys (.harbour h) :=
        counterKeys_subset_clearedKeys _ (mem_counterKeys (p := .harbour h) (show _ ∈ countersOf .harbour by decide) (by decide))
      have hf : s.regsBut (s.frozenNow h) (clearedKeys (.harbour h)) :=
        State.regsBut_wr (State.regsBut_refl rfl _) hk
      exact State.regsBut_clearCounters hf (List.Subset.refl _)

/-- COUNTER_CLEAR on the score-store and the recurrent page (R166, R189): at once where no instruction in flight holds the write, and
otherwise as a write that waits. -/
theorem counterClear_ofCore {s : State} {n : BitVec 14} {c : Fin 36} {p : Pg} {ctl : RegName} {clr en : Nat}
    (hx : exec (.counterClear n) s = .next (s.clearWrite p)) (hp : p = .score c ∨ p = .recurrent c)
    (hc : p.type.counterCtl = some (ctl, clr, en)) (hw : (s.core c).waiting = []) :
    ((s.core c).holdsWrite p = false → ∃ t, exec (.counterClear n) s = .next t ∧
      (∀ r ∈ countersOf p.type, ∀ i < r.entries, t.rd p r i = 0) ∧ t = { s with regs := t.regs } ∧
      s.regsBut t (regKey p ctl 0 :: counterKeys p)) ∧
    ((s.core c).holdsWrite p = true → ∃ t v, exec (.counterClear n) s = .next t ∧ bit1 v clr = true ∧
      (t.core c).waiting = [(regKey p ctl 0, v)] ∧ t = { s with cores := t.cores }) := by
  obtain ⟨hclr, hoff, hne⟩ := ctl_off_ne_counter (hp.imp (congrArg Pg.type) (congrArg Pg.type)) hc
  obtain ⟨v, hv, he⟩ := State.writeLater_clear hc hw hclr
  rw [hx, State.clearWrite_ofCore hp hc, he]
  refine ⟨fun hh => ?_, fun hh => ?_⟩
  · rw [hh, if_neg Bool.false_ne_true, State.applyCtl_clear hc hoff hv]
    have hk : clearedKeys p = counterKeys p := clearedKeys_of_ne (by rcases hp with rfl | rfl <;> exact Pg.noConfusion)
    refine ⟨_, rfl, fun r hr i hi => ?_, State.regsOnly_eq (State.regsOnly_wr (State.regsOnly_clearCounters s p) _ _ _ _), ?_⟩
    · rw [State.rd_wr_other (regKey_ne (hne r hr i hi)), State.rd_clearCounters hr hi]
    · refine State.regsBut_wr (State.regsBut_clearCounters (State.regsBut_refl rfl _) ?_) (List.mem_cons_self ..)
      exact hk ▸ List.subset_cons_self _ _
  · rw [if_pos hh]
    exact ⟨_, v, rfl, hv, by rw [State.core_setCore_same], rfl⟩

/-- A write of the RW fields of one register, after something has left the device (R10, R11). -/
theorem State.wrRw_result (s u : State) (p : Pg) (r : RegName) (j : Nat) (v : Word) (h : u = { s with out := u.out }) :
    (u.wrRw p r j v).rd p r j = (s.rd p r j &&& ~~~ r.mask .rw) ||| (v &&& r.mask .rw) ∧
      s.regsBut (u.wrRw p r j v) [regKey p r j] ∧ u.wrRw p r j v = { s with regs := (u.wrRw p r j v).regs, out := u.out } := by
  have hr : u.regs = s.regs := by rw [h]
  refine ⟨?_, State.regsBut_wr (State.regsBut_refl hr _) (List.mem_singleton_self _), ?_⟩
  · rw [State.wrRw, State.rd_wr_same, State.rd_congr hr]
  · rw [h]; rfl

/-- A write of EVENT clears the bits that it writes with 1 (R11, R468). -/
theorem State.eventWrite_result (s : State) (p : Pg) (v : Word) :
    (s.eventWrite p v).rd p .event 0 = s.rd p .event 0 &&& ~~~ v ∧ s.regsBut (s.eventWrite p v) [regKey p .event 0] ∧
      s.eventWrite p v = { s with regs := (s.eventWrite p v).regs } :=
  ⟨State.rd_wr_same .., State.regsBut_wr (State.regsBut_refl rfl _) (List.mem_singleton_self _), rfl⟩

/-- Settles O22: each row comes down to writes of registers, and a clear writes 0 to the counters one after another. -/
theorem registerWriteResults : Obligations.RegisterWriteResults := by
  unfold Obligations.RegisterWriteResults
  refine ⟨fun s n p hp ha hr => ?_, fun s o a v safe pg off p hpo hp ha hr hs hd hf => ?_⟩
  · have hx := exec_counterClear_answers hp ha hr
    refine ⟨fun hc hscore hrec => ?_, fun c ctl clr en hpc hc hw => counterClear_ofCore hx hpc hc hw, fun v => ?_, ?_⟩
    · obtain ⟨t, he, hz, ht, hm, hk⟩ := counterClear_result hx hc hscore hrec
      exact ⟨t, he, hz, ht, hm, fun k hn => hk k (fun h => hn (clearedKeys_subset p h))⟩
    · rw [exec_eventClear, execEventClear, State.onPage_eq hp ha hr]
      exact ⟨_, rfl, State.eventWrite_result ..⟩
    · rw [exec_eventCountClear, execEventCountClear, State.onPage_eq hp ha hr]
      exact ⟨_, rfl, State.rd_wr_same .., State.regsBut_wr (State.regsBut_refl rfl _) (List.mem_singleton_self _), rfl⟩
  · rw [exec_registerWrite_page hpo hr]
    refine ⟨fun r j x hfr hu => ⟨?_, ?_⟩, fun x hfr => ?_, fun hfr => ?_⟩
    · rw [State.writeReg_unconfined hp hfr ha hu]
      exact ⟨_, rfl, State.wrRw_result s s p r j v rfl⟩
    · have hpo' : pageOf (a.setWidth 64).toNat = some (pg, off) := by rw [BitVec.toNat_setWidth_of_le (by decide), hpo]
      have ha' : (s.emit (.mctp 2 .ok [])).answersAt p = true := ha
      rw [exec_regWrite_page hpo' hs hd hf, State.writeReg_unconfined hp hfr ha' hu]
      exact ⟨_, rfl, State.wrRw_result s (s.emit (.mctp 2 .ok [])) p r j v rfl⟩
    · rw [State.writeReg_event hp hfr ha]
      exact ⟨_, rfl, State.eventWrite_result ..⟩
    · rw [State.writeReg_unmapped hp hfr]

/-! ### The management window (R308, R313, R461) -/

theorem State.heard_serves {s : State} {q : Qp} (h : s.windowServes q) (n : Nat) (i : Instr) (f : State → State) :
    s.heard 1 n i f = f s := by
  obtain ⟨_, hq, ⟨he, hcl⟩, hc, hfirst⟩ := h
  have hheld : s.est.held.any (·.1 == 1) = false := by
    simpa using hfirst
  simp only [State.heard, hq, he, hcl, hc, hheld, Bool.not_true, Bool.or_false, Bool.and_false, Bool.false_eq_true, if_false]

/-- A packet of a queue pair whose context is cached counts as a packet and as a hit (R308). -/
theorem State.ctxLook_cached {s : State} {n : Nat} (hc : (s.ctxSet n).contains n = true) (k : Nat) :
    ∃ c, (s.ctxLook n k).2 =
      { (s.bump .estuary .estRxPkts 0 k).bump .estuary .estCtxHits 0 k with est := { s.est with cache := c } } := by
  refine ⟨FMap.set [] s.est.cache (n % 1024) (n :: (s.ctxSet n).filter (· ≠ n)), ?_⟩
  simp only [State.ctxLook, hc, if_true, State.bump_est]

/-- What the look-up of a cached context may change: registers and the cache (R308). -/
theorem State.ctxLook_frame {s : State} {n : Nat} (hc : (s.ctxSet n).contains n = true) (k : Nat) :
    (s.ctxLook n k).2 = { s with regs := (s.ctxLook n k).2.regs, est := { s.est with cache := (s.ctxLook n k).2.est.cache } } := by
  obtain ⟨c, hl⟩ := State.ctxLook_cached hc k
  obtain ⟨m, hm⟩ := State.regsOnly_bump (State.regsOnly_bump (State.regsOnly_refl s) .estuary .estRxPkts 0 k) .estuary .estCtxHits 0 k
  rw [hl, hm]

theorem State.reg_ctxLook {s : State} {n : Nat} (hc : (s.ctxSet n).contains n = true) (k key : Nat) :
    (s.ctxLook n k).2.reg key = ((s.bump .estuary .estRxPkts 0 k).bump .estuary .estCtxHits 0 k).reg key := by
  obtain ⟨c, hl⟩ := State.ctxLook_cached hc k
  rw [hl]; rfl

theorem State.regsBut_ctxLook {s : State} {n : Nat} (hc : (s.ctxSet n).contains n = true) (k : Nat) :
    s.regsBut (s.ctxLook n k).2 [regKey .estuary .estRxPkts 0, regKey .estuary .estCtxHits 0] := by
  intro key hn
  rw [State.reg_ctxLook hc]
  exact State.regsBut_bump (State.regsBut_bump (State.regsBut_refl rfl _) (by simp)) (by simp) key hn

theorem State.rd_ctxLook_packets {s : State} {n : Nat} (hc : (s.ctxSet n).contains n = true) (k : Nat) :
    (s.ctxLook n k).2.rd .estuary .estRxPkts 0 = s.counted .estuary .estRxPkts 0 k := by
  rw [State.rd_eq_reg, State.reg_ctxLook hc, ← State.rd_eq_reg, State.rd_bump, if_neg (by decide), State.rd_bump_same]

/-- Whether Estuary's page counts is fixed by its control register and by self-test. -/
theorem State.counted_estuary {s t : State} {r : RegName} {i n : Nat} (hc : t.rd .estuary .estCtrl 0 = s.rd .estuary .estCtrl 0)
    (hr : t.rd .estuary r i = s.rd .estuary r i) (hs : t.sys = s.sys) : t.counted .estuary r i n = s.counted .estuary r i n := by
  have h : t.counting .estuary = s.counting .estuary := by
    simp only [State.counting, Pg.type, PageType.counterCtl, hc, hs]
  rw [State.counted, State.counted, h, hr]

theorem windowTakes_register {a pg off : Nat} (h : pageOf a = some (pg, off)) (w : Bool) : windowTakes a 8 w = true := by
  unfold pageOf at h
  split at h
  · next hr =>
    obtain ⟨hlo, hhi, h8⟩ := hr
    have hpage : a / 4096 = (a + 7) / 4096 := by omega
    simp [windowTakes, h8, hlo, hhi, hpage]
  · cases h

theorem windowTakes_unaligned {a : Nat} (h : a % 8 ≠ 0) (n : Nat) (w : Bool) : windowTakes a n w = false := by
  simp [windowTakes, h]

theorem exec_mgmtWindowAccess_read {s : State} {q : Qp} {a : Word} {pg off : Nat} (hq : s.windowServes q)
    (hp : pageOf a.toNat = some (pg, off)) :
    exec (.mgmtWindowAccess a (.read 8)) s = .next ((((s.ctxLook 1 1).2.readReg pg off).2).emit
      (.readData 1 (leBytes ((s.ctxLook 1 1).2.readReg pg off).1.toNat 8))) := by
  rw [exec_mgmtWindowAccess, execMgmtWindowAccess, State.awake_up hq.up, State.heard_serves hq, hq.pair]
  simp [hq.usable, windowTakes_register hp, State.windowRead, hp]

/-- The window refuses an access that is not 8-byte aligned, after its packets have looked the context up (R313). -/
theorem exec_mgmtWindowAccess_unaligned {s : State} {q : Qp} {a : Word} (hq : s.windowServes q) (ha : a.toNat % 8 ≠ 0) (op : WindowOp) :
    ∃ k, exec (.mgmtWindowAccess a op) s = .next ((s.ctxLook 1 k).2.windowRefuses 1) := by
  rw [exec_mgmtWindowAccess]
  unfold execMgmtWindowAccess
  rw [State.awake_up hq.up, State.heard_serves hq, hq.pair]
  cases op with
  | read len => exact ⟨1, by simp [hq.usable, windowTakes_unaligned ha]⟩
  | write data => exact ⟨max 1 (ceilDiv data.length q.mtu), by simp [hq.usable, windowTakes_unaligned ha]⟩

/-- A refusal after a look-up (R313). -/
theorem State.windowRefuses_result {s : State} (hc : (s.ctxSet 1).contains 1 = true) (k : Nat) :
    let t := (s.ctxLook 1 k).2.windowRefuses 1
    t = { s with regs := t.regs, est := { s.est with cache := t.est.cache }, out := s.out ++ [.nak 1 0] } ∧
      t.rd .estuary .estMgmtRejects 0 = s.counted .estuary .estMgmtRejects 0 1 ∧
      s.regsBut t [regKey .estuary .estMgmtRejects 0, regKey .estuary .estRxPkts 0, regKey .estuary .estCtxHits 0] := by
  have hk := State.regsBut_ctxLook hc k
  have hs := State.ctxLook_frame hc k
  generalize (s.ctxLook 1 k).2 = u at hk hs
  have hu (o : Out) : s.regsBut (u.emit o) [regKey .estuary .estRxPkts 0, regKey .estuary .estCtxHits 0] :=
    fun key hn => (State.reg_congr (State.emit_regs u o) key).trans (hk key hn)
  refine ⟨?_, ?_, ?_⟩
  · obtain ⟨m, hm⟩ := State.regsOnly_bump (State.regsOnly_refl (u.emit (.nak 1 0))) .estuary .estMgmtRejects 0 1
    rw [State.windowRefuses, hm, hs]
    rfl
  · rw [State.windowRefuses, State.rd_bump_same]
    exact State.counted_estuary (hu _ _ (by decide)) (hu _ _ (by decide)) (by rw [State.emit_sys, hs])
  · refine State.regsBut_bump (fun key hn => hu _ key (fun h => hn (List.mem_cons_of_mem _ h))) (by simp)

/-! ### MRAM (R408, R414, R418) -/

/-- The address of the MRAM window moves on by 8, and the draw of what is free is used (R418). -/
theorem State.mramNext_state (s : State) :
    s.mramNext.2.fld .tidewatch .supMramAddr 0 19 3 = (s.fld .tidewatch .supMramAddr 0 19 3 + 1) % 2 ^ 17 ∧
      s.regsBut s.mramNext.2 [regKey .tidewatch .supMramAddr 0] ∧
      s.mramNext.2 = { s with regs := s.mramNext.2.regs, freeIx := s.freeIx + 1 } := by
  have h : s.mramNext.2 = { s with freeIx := s.freeIx + 1 }.setFld .tidewatch .supMramAddr 0 19 3
    (s.fld .tidewatch .supMramAddr 0 19 3 + 1) := rfl
  rw [h, State.setFld]
  refine ⟨?_, State.regsBut_wr (State.regsBut_refl rfl _) (List.mem_singleton_self _), ?_⟩
  · rw [State.fld, State.rd_wr_same, bits_setBits_same (by decide)]
  · exact State.regsOnly_eq (State.regsOnly_wr (State.regsOnly_refl _) _ _ _ _)

/-- The MRAM window reads the 8 bytes at its address (R414, R418). -/
theorem State.mramNext_value (s : State) : s.mramNext.1 = BitVec.ofNat 64 (leNat ((List.range 8).map (fun i =>
    s.mramByte (8 * s.fld .tidewatch .supMramAddr 0 19 3 + i)))) := by
  rw [Nat.mul_comm 8]
  rfl

theorem exec_supMramDataRead_served {s : State} (hup : s.up) (hs : s.standby = true) :
    exec .supMramDataRead s = .next (s.mramNext.2.emit (.register 0x3F00000040A0 s.mramNext.1)) := by
  rw [exec_supMramDataRead, execSupMramDataRead, State.awake_up hup, if_pos hs]

/-- Settles O23: each access takes the model's path to one register, which the look-up of the context leaves as it is. -/
theorem registerReadResults : Obligations.RegisterReadResults := by
  unfold Obligations.RegisterReadResults
  refine ⟨fun s a pg off p q hs =>
      ⟨fun hpo hp hd => ⟨fun r j x hf hm ht ha => ⟨?_, fun hq => ?_⟩, fun hf => ?_⟩, fun hpo => ?_, fun hq => ?_⟩,
    fun s hup => ⟨fun hs => ?_, fun hs => ?_⟩⟩
  · rw [exec_regRead_page hpo hs hd, State.readReg_value hp hf hm ht ha]; rfl
  · have hl := State.ctxLook_frame hq.cached 1
    have ha' : (s.ctxLook 1 1).2.answersAt p = true := by rw [hl]; exact ha
    have ho : (s.ctxLook 1 1).2.out = s.out := by rw [hl]
    rw [exec_mgmtWindowAccess_read hq hpo, State.readReg_value hp hf hm ht ha', State.emit, ho]
  · rw [exec_regRead_page hpo hs hd, State.readReg_unmapped hp hf]; rfl
  · rw [exec_regRead_outside hpo hs]; rfl
  · refine ⟨fun n => ⟨State.regsBut_ctxLook hq.cached n, State.rd_ctxLook_packets hq.cached n,
      State.ctxLook_frame hq.cached n⟩, fun op ha => ?_⟩
    obtain ⟨k, hx⟩ := exec_mgmtWindowAccess_unaligned hq ha op
    exact ⟨_, hx, State.windowRefuses_result hq.cached k⟩
  · obtain ⟨ha, hk, hm⟩ := State.mramNext_state s
    have ho : s.mramNext.2.out = s.out := by rw [hm]
    rw [exec_supMramDataRead_served hup hs, ← State.mramNext_value]
    generalize s.mramNext.1 = w
    generalize s.mramNext.2 = u at *
    exact ⟨_, rfl, by rw [State.emit, ho], ha, hk, by rw [hm]; rfl⟩
  · rw [exec_supMramDataRead, execSupMramDataRead, State.awake_up hup, if_neg (by simp [hs])]; rfl

end Sys2Proof.Machine

/-! Proofs about the fast path (R17, R18, R295, R323): the change of holder, the acceptance of a request, and the pump that starts it. -/

namespace Sys2Proof

/-- A listed value is found by every test it meets. -/
theorem FMap.any_of_find {α : Type} {g : α → Bool} {m : FMap α} {i : Nat} {x : α} (hf : FMap.find? m i = some x) (hg : g x = true) :
    m.any (fun z => g z.2) = true := by
  induction m with
  | nil => cases hf
  | cons y m ih =>
    rw [FMap.find?] at hf
    split at hf
    · cases hf; simp [hg]
    · simp [ih hf]

/-- Listing a value in place of one that a test answers alike leaves what the test finds in the table. -/
theorem FMap.any_put {α : Type} {g : α → Bool} {m : FMap α} {i : Nat} {x y : α} (hf : FMap.find? m i = some x) (hg : g y = g x) :
    (FMap.put m i y).any (fun z => g z.2) = m.any (fun z => g z.2) := by
  induction m with
  | nil => cases hf
  | cons z m ih =>
    rw [FMap.put]
    split
    · rw [List.any_cons, hg]
      cases hx : g x with
      | false => rfl
      | true => exact (FMap.any_of_find hf hx).symm
    · split
      · next hi =>
        rw [FMap.find?, if_pos hi.symm] at hf
        cases hf
        simp [hg]
      · next hi =>
        rw [FMap.find?, if_neg (Ne.symm hi)] at hf
        rw [List.any_cons, List.any_cons, ih hf]

end Sys2Proof

namespace Sys2Proof.Machine

/-! ### A change of holder (R78, R295) -/

/-- A queue that has been started and has issued nothing since (R99). -/
def Queue.fresh (x : Queue) : Prop := x.state = .running ∧ x.seq = 0 ∧ x.flights = []

/-- The registers that a change of a core's holder writes (R189, R293, R296). -/
def switchKeys (c : Fin 36) : List Nat :=
  [regKey .scheduler .schedSaveUnits 0, regKey .scheduler .schedSwitchCount 0, regKey .scheduler .schedMaxReflexWait 0,
    regKey (.recurrent c) .stateSaveCount 0] ++ eventKeys .scheduler

/-- What settling the holder of a core leaves: Estuary, the semaphores, the other cores, a queue that has just been started, and every
register but those of a switch and of what goes on behind memory. -/
structure State.arbitrates (s t : State) (c : Fin 36) : Prop where
  est : t.est = s.est
  sems : s.semsSame t
  cores : s.coresBut t c
  fresh : ∀ q, (s.queue c q).fresh → (t.queue c q).fresh
  regs : s.regsBehind t (switchKeys c)

theorem State.arbitrates_refl (s : State) (c : Fin 36) : s.arbitrates s c :=
  ⟨rfl, fun _ _ _ => rfl, fun _ _ => rfl, fun _ h => h, fun _ _ _ => rfl⟩

theorem State.arbitrates_trans {s t u : State} {c : Fin 36} (h : s.arbitrates t c) (k : t.arbitrates u c) : s.arbitrates u c where
  est := k.est.trans h.est
  sems := fun g d i => (k.sems g d i).trans (h.sems g d i)
  cores := fun d hd => (k.cores d hd).trans (h.cores d hd)
  fresh := fun q hq => k.fresh q (h.fresh q hq)
  regs := fun key hn hm => (k.regs key hn hm).trans (h.regs key hn hm)

theorem State.arbitrates_foldl {α : Type} {c : Fin 36} {f : State → α → State} (hf : ∀ s x, State.arbitrates s (f s x) c) (l : List α) :
    ∀ s : State, s.arbitrates (l.foldl f s) c := by
  induction l with
  | nil => exact fun s => State.arbitrates_refl s c
  | cons x l ih => exact fun s => State.arbitrates_trans (hf s x) (ih _)

/-- Another core in place of the one that is settled, with its semaphores and the queues that have just been started. -/
theorem State.arbitrates_setCore {s : State} {c : Fin 36} {k : Core} (hs : k.sems = (s.core c).sems)
    (hq : ∀ q, ((s.core c).queue q).fresh → (k.queue q).fresh) : s.arbitrates (s.setCore c k) c where
  est := rfl
  sems := fun g d i => by
    cases g
    · by_cases hd : c.val = d
      · subst hd; simp [State.sem, hs]
      · simp [State.sem, State.core_setCore_other hd]
    · rfl
  cores := fun d hd => State.core_setCore_other (Ne.symm hd)
  fresh := fun q h => by
    rw [State.queue, State.core_setCore_same]
    exact hq q h
  regs := fun _ _ _ => rfl

/-- A change that leaves Estuary, cores and semaphores alone. -/
theorem State.arbitrates_of_rest {s t : State} {c : Fin 36} (he : t.est = s.est) (hs : t.sems = s.sems) (hc : t.cores = s.cores)
    (hr : s.regsBehind t (switchKeys c)) : s.arbitrates t c where
  est := he
  sems := State.sem_congr hs hc
  cores := fun d _ => State.core_congr hc d
  fresh := fun q h => by rwa [State.queue_congr hc]
  regs := hr

theorem State.arbitrates_wr {s : State} {c : Fin 36} {p : Pg} {r : RegName} {i : Nat} (hk : regKey p r i ∈ switchKeys c) (v : Word) :
    s.arbitrates (s.wr p r i v) c :=
  State.arbitrates_of_rest rfl rfl rfl (fun key hn _ => State.regsBut_wr (State.regsBut_refl rfl _) hk key hn)

theorem State.arbitrates_bump {s : State} {c : Fin 36} {p : Pg} {r : RegName} {i : Nat} (hk : regKey p r i ∈ switchKeys c) (n : Nat) :
    s.arbitrates (s.bump p r i n) c := by
  unfold State.bump
  split
  · exact State.arbitrates_wr hk _
  · exact State.arbitrates_refl s c

theorem State.arbitrates_event (s : State) (c : Fin 36) (b : Nat) : s.arbitrates (s.event .scheduler b) c :=
  State.arbitrates_of_rest (by simp) (by simp) (by simp) (fun key hn _ =>
    State.regsBut_event (State.regsBut_refl rfl _) (fun _ h => List.mem_append.2 (Or.inr h)) key hn)

theorem State.arbitrates_store (s : State) (c : Fin 36) (a : Nat) (bs : List Byte) : s.arbitrates (s.store a bs) c := by
  have h := State.store_behind s a bs
  exact State.arbitrates_of_rest (by rw [h]) (by rw [h]) (by rw [h]) (fun _ _ hm => State.reg_store s a bs hm)

theorem State.arbitrates_storeFree (s : State) (c : Fin 36) (a n : Nat) : s.arbitrates (s.storeFree a n) c :=
  State.arbitrates_trans (State.arbitrates_store s c a (freeBytes s.freeIx n))
    (State.arbitrates_of_rest rfl rfl rfl (fun _ _ _ => rfl))

/-! ### Queues that have just been started -/

theorem Core.fresh_setQueue {k : Core} {q r : Nat} {x : Queue} (hx : (k.queue q).fresh → x.fresh) (h : (k.queue r).fresh) :
    ((k.setQueue q x).queue r).fresh := by
  rw [Core.queue_setQueue]
  split
  · next e => exact hx (e ▸ h)
  · exact h

/-- A change of each queue of a table that keeps those that have just been started. -/
theorem Queue.fresh_mapQueues {f : Nat → Queue → Queue} (hf : ∀ q x, x.fresh → (f q x).fresh) {m : FMap Queue} {q : Nat}
    (h : (FMap.get {} m q).fresh) : (FMap.get {} (m.map (fun y => (y.1, f y.1 y.2))) q).fresh := by
  induction m with
  | nil => exact h
  | cons y m ih =>
    simp only [FMap.get, List.map_cons, FMap.find?] at *
    by_cases e : y.1 = q
    · rw [if_pos e] at h ⊢
      exact hf _ _ h
    · rw [if_neg e] at h ⊢
      exact ih h

theorem Core.fresh_freeTags {k : Core} {q : Nat} (h : (k.queue q).fresh) : (k.freeTags.queue q).fresh := by
  unfold Core.freeTags
  split
  · exact h
  · refine Queue.fresh_mapQueues (f := fun _ x => if x.state = .waiting ∧ !x.inWaitGe then { x with state := .running } else x)
      (fun _ x hx => ?_) h
    rw [if_neg (fun hw => by rw [hx.1] at hw; exact absurd hw.1 (by decide))]
    exact hx

/-! ### The steps of a switch (R295) -/

theorem State.arbitrates_switchLedge (s : State) (c : Fin 36) (y : Nat) : s.arbitrates (s.switchLedge c y) c := by
  unfold State.switchLedge
  dsimp only
  generalize hu : List.foldl _ s (List.range 8) = u
  have hsu : s.arbitrates u c := by
    rw [← hu]
    refine State.arbitrates_foldl (fun t q => ?_) _ s
    split
    · exact State.arbitrates_refl t c
    · exact State.arbitrates_setCore rfl (fun r => Core.fresh_setQueue id)
  generalize hv : List.foldl _ u _ = v
  have huv : u.arbitrates v c := by
    rw [← hv]
    exact State.arbitrates_foldl (fun t p => State.arbitrates_store t c _ _) _ u
  have hq (x : Queue) (hx : (v.queue c y).fresh → x.fresh) : v.arbitrates (v.setQueue c y x) c :=
    State.arbitrates_setCore rfl (fun r => Core.fresh_setQueue hx)
  refine State.arbitrates_trans (State.arbitrates_trans hsu huv)
    (State.arbitrates_trans (hq _ fun h => ?_) (State.arbitrates_setCore rfl (fun _ h => h)))
  exact h

theorem State.arbitrates_saveArea (s : State) (c : Fin 36) (k : Core) : s.arbitrates (s.saveArea c k) c := by
  refine State.arbitrates_foldl (fun t q => ?_) _ s
  dsimp only
  split
  · exact State.arbitrates_refl t c
  · exact State.arbitrates_storeFree t c _ _

theorem State.arbitrates_reflexWaited (s : State) (c : Fin 36) (y : Nat) : s.arbitrates (s.reflexWaited c y) c := by
  unfold State.reflexWaited
  split
  · exact State.arbitrates_refl s c
  · refine State.arbitrates_trans (t := s.draw.2) (State.arbitrates_of_rest rfl rfl rfl (fun _ _ _ => rfl)) ?_
    have he (t : State) (w : Word) : t.arbitrates (if 6144 < bits w 31 0 then t.event .scheduler 1 else t) c := by
      split
      · exact State.arbitrates_event t c 1
      · exact State.arbitrates_refl t c
    dsimp only
    generalize hu : (if 6144 < bits s.draw.1 31 0 then s.draw.2.event .scheduler 1 else s.draw.2) = u
    have hsu : s.draw.2.arbitrates u c := hu ▸ he _ _
    split
    · exact State.arbitrates_trans hsu (State.arbitrates_wr (by simp [switchKeys]) _)
    · exact hsu

theorem State.arbitrates_setArr (s : State) (c : Fin 36) (a : Nat) (x : ArraySt) :
    s.arbitrates (s.setCore c ((s.core c).setArr a x)) c := by
  unfold Core.setArr
  split <;> exact State.arbitrates_setCore rfl (fun _ h => h)

theorem State.arbitrates_switchBlocks (s : State) (c : Fin 36) (y : Nat) : s.arbitrates (s.switchBlocks c y) c := by
  refine State.arbitrates_foldl (fun t f => ?_) _ s
  dsimp only
  split
  · exact State.arbitrates_refl t c
  · split
    · exact State.arbitrates_refl t c
    · exact State.arbitrates_setArr t c _ _

theorem State.arbitrates_switchLoads (s : State) (c : Fin 36) (b : FastBind) (rows : Nat) : s.arbitrates (s.switchLoads c b rows) c :=
  State.arbitrates_setArr s c _ _

/-- The flights of the queues of a core marked for a switch (R295). -/
theorem Core.fresh_switchFlights {k : Core} {y : Nat} {way0 way1 : List Nat} {q : Nat} (h : (k.queue q).fresh) :
    (FMap.get ({} : Queue) (k.queues.map (fun (p : Nat × Queue) =>
      (p.1, { p.2 with flights := switchFlights y p.1 way0 way1 p.2.flights }))) q).fresh :=
  Queue.fresh_mapQueues (f := fun q x => { x with flights := switchFlights y q way0 way1 x.flights })
    (fun _ _ hx => ⟨hx.1, hx.2.1, by rw [switchFlights, hx.2.2]; rfl⟩) h

/-- The states of a switch, one after another: the new holder, the Ledge, the save area, the blocks, and the counters (R295, R296). -/
theorem State.arbitrates_switchTo (s : State) (c : Fin 36) (y : Nat) : s.arbitrates (s.switchTo c y) c := by
  unfold State.switchTo
  dsimp only
  generalize hu : s.setCore c _ = u
  have hsu : s.arbitrates u c := hu ▸ State.arbitrates_setCore rfl (fun _ => Core.fresh_switchFlights)
  generalize hv : ((u.switchLedge c y).saveArea c (s.core c)).reflexWaited c y = v
  have huv : u.arbitrates v c := hv ▸ State.arbitrates_trans
    (State.arbitrates_trans (State.arbitrates_switchLedge u c y) (State.arbitrates_saveArea _ c _)) (State.arbitrates_reflexWaited _ c y)
  generalize hw : ((v.switchBlock c y).map (fun x => v.switchLoads c x.1 x.2)).getD v = w
  have hvw : v.arbitrates w c := by
    rw [← hw]
    cases v.switchBlock c y with
    | none => exact State.arbitrates_refl v c
    | some x => exact State.arbitrates_switchLoads v c x.1 x.2
  have hcount (t : State) (m n : Nat) : t.arbitrates ((t.bump .scheduler .schedSaveUnits 0 m).bump (.recurrent c) .stateSaveCount 0 n) c :=
    State.arbitrates_trans (State.arbitrates_bump (by simp [switchKeys]) m) (State.arbitrates_bump (by simp [switchKeys]) n)
  have hall (m n : Nat) := State.arbitrates_trans (State.arbitrates_trans hsu huv)
    (State.arbitrates_trans hvw (State.arbitrates_trans (State.arbitrates_switchBlocks w c y) (hcount _ m n)))
  split
  · exact State.arbitrates_trans (hall _ _) (State.arbitrates_bump (by simp [switchKeys]) 1)
  · exact hall _ _

theorem State.arbitrates_handOn (s : State) (c : Fin 36) (h : Option Nat) : s.arbitrates (s.handOn c h) c := by
  have hn (t : State) : t.arbitrates (match t.nextHolder c with | some y => t.switchTo c y | none => t) c := by
    split
    · exact State.arbitrates_switchTo t c _
    · exact State.arbitrates_refl t c
  cases h with
  | none => exact hn s
  | some h =>
    exact State.arbitrates_trans (State.arbitrates_setCore (k := { s.core c with holder := none, prevHolder := h, stopping := false })
      rfl (fun _ h => h)) (hn _)

/-- Settling the holder of a core leaves what a change of holder leaves (R78). -/
theorem State.arbitrates_arbitrate (s : State) (c : Fin 36) : s.arbitrates (s.arbitrate c) c := by
  have hf : s.arbitrates (s.setCore c (s.core c).freeTags) c :=
    State.arbitrates_setCore (by rw [Core.freeTags_rest]) (fun _ => Core.fresh_freeTags)
  unfold State.arbitrate
  dsimp only
  generalize hk : (s.core c).freeTags = k
  rw [hk] at hf
  have hs (x : Bool) : (s.setCore c k).arbitrates ((s.setCore c k).setCore c { k with stopping := x }) c :=
    State.arbitrates_setCore (by simp) (fun q h => by rw [State.core_setCore_same] at h; exact h)
  refine State.arbitrates_trans hf ?_
  split
  · split
    · split
      · exact hs false
      · split
        · exact hs true
        · exact State.arbitrates_handOn _ c _
    · exact State.arbitrates_handOn _ c _
  · exact State.arbitrates_handOn _ c _

/-! ### The block of a binding (R61, R323) -/

theorem State.programRows_congr {s t : State} (h : ∀ a, t.byte a = s.byte a) (c : Fin 36) (a : Nat) :
    ∀ fuel pc, t.programRows c a pc fuel = s.programRows c a pc fuel
  | 0, _ => rfl
  | fuel + 1, pc => by
    simp only [State.programRows, State.word_congr h, State.programRows_congr h c a fuel]

/-- The block of a binding is there or comes: memory, the cores and the queues that are bound decide it. -/
theorem State.blockComes_congr {s t : State} (hm : t.mem = s.mem) (hc : t.cores = s.cores)
    (hb : ∀ c q, t.queueFast c q = s.queueFast c q) (b : FastBind) : t.blockComes b = s.blockComes b := by
  simp only [State.blockComes, State.bankHolds, State.core_congr hc, State.programRows_congr (State.byte_congr hm), hb]

/-! ### The packets of a SEND (R305, R308) -/

/-- The registers that the packets of a SEND write before it is a request. -/
def packetKeys : List Nat :=
  [RegName.estRxPkts, .estCtxHits, .estCtxMisses, .estCnpSent].map (regKey .estuary · 0)

/-- What the packets of a SEND leave: all but registers, Estuary and what leaves the device; and of Estuary the requests, the bindings, the
queue pair's count of requests, and whether its context is cached. -/
structure State.packetMoves (s t : State) (n : Nat) : Prop where
  rest : t = { s with regs := t.regs, est := t.est, out := t.out }
  fast : t.est.fast = s.est.fast
  bound : ∀ c q, t.queueFast c q = s.queueFast c q
  pair : (t.qp n).map (fun q => (q.fast, q.fastCount)) = (s.qp n).map (fun q => (q.fast, q.fastCount))
  cached : (t.ctxSet n).contains n = (s.ctxSet n).contains n
  regs : s.regsBut t packetKeys

theorem State.packetMoves_trans {s t u : State} {n : Nat} (h : s.packetMoves t n) (k : t.packetMoves u n) : s.packetMoves u n where
  rest := by rw [k.rest, h.rest]
  fast := k.fast.trans h.fast
  bound := fun c q => (k.bound c q).trans (h.bound c q)
  pair := k.pair.trans h.pair
  cached := k.cached.trans h.cached
  regs := fun key hn => (k.regs key hn).trans (h.regs key hn)

theorem State.packetMoves_refl (s : State) (n : Nat) : s.packetMoves s n :=
  ⟨rfl, rfl, fun _ _ => rfl, rfl, rfl, fun _ _ => rfl⟩

theorem State.packetMoves_emit (s : State) (n : Nat) (o : Out) : s.packetMoves (s.emit o) n :=
  ⟨rfl, rfl, fun _ _ => rfl, rfl, rfl, fun _ _ => rfl⟩

theorem State.packetMoves_bump {s : State} {n : Nat} {r : RegName} (hk : regKey .estuary r 0 ∈ packetKeys) (k : Nat) :
    s.packetMoves (s.bump .estuary r 0 k) n := by
  have hr : s.regsBut (s.bump .estuary r 0 k) packetKeys := State.regsBut_bump (State.regsBut_refl rfl _) hk
  obtain ⟨m, hm⟩ := State.regsOnly_bump (State.regsOnly_refl s) .estuary r 0 k
  rw [hm] at hr ⊢
  exact ⟨rfl, rfl, fun _ _ => rfl, rfl, rfl, hr⟩

@[simp] theorem State.qp_setQp_same (s : State) (n : Nat) (q : Option Qp) : (s.setQp n q).qp n = q := FMap.get_set_same _ _ _ _

/-- A queue pair that keeps its binding in place of itself leaves the queues that are bound. -/
theorem State.queueFast_setQp {s : State} {n : Nat} {q q' : Qp} (hq : s.qp n = some q) (hf : q'.fast = q.fast) (c r : Nat) :
    (s.setQp n (some q')).queueFast c r = s.queueFast c r := by
  have hl : FMap.find? s.est.qps n = some (some q) := by
    unfold State.qp FMap.get at hq
    cases h : FMap.find? s.est.qps n with
    | none => rw [h] at hq; cases hq
    | some x => rw [h] at hq; exact congrArg some hq
  simp only [State.queueFast, State.setQp, FMap.set, reduceCtorEq, if_false]
  exact FMap.any_put (g := fun x : Option Qp => match x.bind (·.fast) with
    | some b => b.core.val == c && b.queue.val == r
    | none => false) hl (by simp [hf])

theorem State.packetMoves_setQp {s : State} {n : Nat} {q : Qp}
    (hq : (s.qp n).map (fun q => (q.fast, q.fastCount)) = some (q.fast, q.fastCount)) : s.packetMoves (s.setQp n (some q)) n where
  rest := rfl
  fast := rfl
  bound := by
    obtain ⟨p, hp, he⟩ := Option.map_eq_some_iff.1 hq
    exact State.queueFast_setQp hp (Prod.ext_iff.1 he).1.symm
  pair := by simp [hq]
  cached := rfl
  regs := fun _ _ => rfl

/-- What Estuary keeps of contexts may change, but not whether the queue pair's own is cached. -/
theorem State.packetMoves_contexts {s : State} {n : Nat} {e : Est} (hq : e.qps = s.est.qps) (hf : e.fast = s.est.fast)
    (hc : (FMap.get [] e.cache (n % 1024)).contains n = (s.ctxSet n).contains n) : s.packetMoves { s with est := e } n where
  rest := rfl
  fast := hf
  bound := fun c r => by simp only [State.queueFast, hq]
  pair := by simp only [State.qp, hq]
  cached := hc
  regs := fun _ _ => rfl

/-- A look-up tells whether the context is cached (R308). -/
theorem State.ctxLook_fst (s : State) (n k : Nat) : (s.ctxLook n k).1 = (s.ctxSet n).contains n := by
  unfold State.ctxLook
  dsimp only
  split <;> simp_all

theorem State.packetMoves_ctxLook (s : State) (n k : Nat) : s.packetMoves (s.ctxLook n k).2 n := by
  have hb {t : State} {r : RegName} (hr : regKey .estuary r 0 ∈ packetKeys) := State.packetMoves_bump (s := t) (n := n) hr k
  have hrx : s.packetMoves (s.bump .estuary .estRxPkts 0 k) n := hb (by decide)
  unfold State.ctxLook
  dsimp only
  split
  · next hc =>
    refine State.packetMoves_trans (State.packetMoves_trans hrx (hb (r := .estCtxHits) (by decide)))
      (State.packetMoves_contexts (by simp) (by simp) ?_)
    rw [FMap.get_set_same, (hb (r := .estCtxHits) (by decide)).cached, hrx.cached, hc]
    simp
  · refine State.packetMoves_trans (State.packetMoves_trans hrx (hb (r := .estCtxMisses) (by decide))) ?_
    split
    · exact State.packetMoves_refl _ n
    · exact State.packetMoves_contexts rfl rfl rfl

theorem State.packetMoves_received (s : State) (n bytes : Nat) : s.packetMoves (s.received n bytes) n := by
  unfold State.received
  split
  · exact State.packetMoves_refl s n
  · next q hq =>
    dsimp only
    generalize max 1 (ceilDiv bytes q.mtu) = k
    have hl := State.packetMoves_ctxLook s n k
    have hs := State.packetMoves_trans hl (State.packetMoves_setQp (q := { q with recvPsn := (q.recvPsn + k) % 2 ^ 24 })
      (by rw [hl.pair, hq]; rfl))
    split
    · exact hs
    · exact State.packetMoves_trans hs (State.packetMoves_emit _ n _)

theorem State.packetMoves_marked (s : State) (n : Nat) (ce : Bool) : s.packetMoves (s.marked n ce) n := by
  unfold State.marked
  split
  · exact State.packetMoves_refl s n
  · next q hq =>
    dsimp only
    generalize (ce && _ && _) = due
    cases due with
    | false => exact State.packetMoves_refl s n
    | true => exact State.packetMoves_trans (State.packetMoves_trans (State.packetMoves_setQp (by rw [hq]; rfl))
        (State.packetMoves_bump (r := .estCnpSent) (by decide) 1)) (State.packetMoves_emit _ n _)

/-! ### The acceptance of a request (R323) -/

/-- The counter of the Estuary page that a request moves (R18, R323). -/
def fastCounter (hit : Bool) : RegName := if hit then .estFastCount else .estFastMiss

/-- A queue pair with one more request accepted (R324). -/
def Qp.counted (q : Qp) : Qp := { q with fastCount := (q.fastCount + 1) % 2 ^ 16 }

/-- A request is counted and joins those that Estuary has. -/
def State.fastTake (s : State) (hit : Bool) (f : FastReq) : State :=
  let t := s.bump .estuary (fastCounter hit) 0 1
  let t := t.setQp f.qp ((t.qp f.qp).map Qp.counted)
  { t with est := { t.est with fast := t.est.fast ++ [f] } }

/-- The command takes the request after the packets of its SEND, and the pump serves it. -/
theorem exec_fastPathRequest_takes {s : State} {qp : BitVec 18} {bs : List Byte} {ce : Bool} {q : Qp} {b : FastBind} {hit : Bool}
    (hup : s.up) (hq : s.qp qp.toNat = some q) (hb : q.fast = some b) (he : q.error = false) (hc : s.est.closed = false)
    (hl : s.live .estuary = .running)
    (hh : hit = (bs.length == b.inLen && decide (bs.length ≤ q.mtu) && (s.ctxSet qp.toNat).contains qp.toNat &&
      ((s.received qp.toNat bs.length).marked qp.toNat ce).fastOk b)) :
    exec (.fastPathRequest qp bs ce) s = .next (((s.received qp.toNat bs.length).marked qp.toNat ce).fastTake hit
      { qp := qp.toNat, payload := bs.take b.inLen, miss := !hit, count := q.fastCount, bind := b, accepted := s.now }).fastPump := by
  have hu := State.packetMoves_trans (State.packetMoves_received s qp.toNat bs.length)
    (State.packetMoves_marked (s.received qp.toNat bs.length) qp.toNat ce)
  have hnow : s.now = ((s.received qp.toNat bs.length).marked qp.toNat ce).now := by rw [hu.rest]
  rw [exec_fastPathRequest, execFastPathRequest, State.awake_up hup]
  simp only [hq, hb, he, hc, hl, State.ctxLook_fst, ← hh, ne_eq, not_true_eq_false, if_false, Bool.false_eq_true, or_self]
  simp only [State.fastTake, fastCounter, hnow, State.bump_now]
  rfl

section
variable (u : State) (hit : Bool) (f : FastReq)

@[simp] theorem State.fastTake_regs : (u.fastTake hit f).regs = (u.bump .estuary (fastCounter hit) 0 1).regs := rfl

@[simp] theorem State.fastTake_fast : (u.fastTake hit f).est.fast = u.est.fast ++ [f] := by simp [State.fastTake, State.setQp]

@[simp] theorem State.fastTake_cache : (u.fastTake hit f).est.cache = u.est.cache := by simp [State.fastTake, State.setQp]

@[simp] theorem State.fastTake_qps : (u.fastTake hit f).est.qps = (u.setQp f.qp ((u.qp f.qp).map Qp.counted)).est.qps := by
  simp [State.fastTake, State.setQp, State.qp]

theorem State.fastTake_rest : u.fastTake hit f = { u with regs := (u.fastTake hit f).regs, est := (u.fastTake hit f).est } := by
  obtain ⟨m, hm⟩ := State.regsOnly_bump (State.regsOnly_refl u) .estuary (fastCounter hit) 0 1
  simp only [State.fastTake, hm]
  rfl

end

theorem State.counted_zero (s : State) (p : Pg) (r : RegName) (i : Nat) : s.counted p r i 0 = s.rd p r i := by
  have h : satAdd (s.rd p r i) 0 = s.rd p r i := by
    rw [satAdd, if_neg (by have := (s.rd p r i).isLt; omega)]
    exact BitVec.add_zero _
  rw [State.counted, h, ite_self]

/-- The registers that the acceptance of a request writes, its packets among them. -/
def requestKeys : List Nat := packetKeys ++ [regKey .estuary .estFastCount 0, regKey .estuary .estFastMiss 0]

/-- What the acceptance of a request leaves beside registers, Estuary and what leaves the device: the requests before it, the bindings
and whether the queue pair's context is cached. -/
structure State.fastTaken (s t : State) (q : Qp) (hit : Bool) (f : FastReq) : Prop where
  rest : t = { s with regs := t.regs, est := t.est, out := t.out }
  fast : t.est.fast = s.est.fast ++ [f]
  bound : ∀ c r, t.queueFast c r = s.queueFast c r
  count : (t.qp f.qp).map (·.fastCount) = some ((q.fastCount + 1) % 2 ^ 16)
  cached : (t.ctxSet f.qp).contains f.qp = (s.ctxSet f.qp).contains f.qp
  regs : s.regsBut t requestKeys
  hits : t.rd .estuary .estFastCount 0 = s.counted .estuary .estFastCount 0 (if hit then 1 else 0)
  misses : t.rd .estuary .estFastMiss 0 = s.counted .estuary .estFastMiss 0 (if hit then 0 else 1)

theorem State.fastTake_taken {s u : State} {q : Qp} {hit : Bool} {f : FastReq} (h : s.packetMoves u f.qp) (hq : s.qp f.qp = some q) :
    s.fastTaken (u.fastTake hit f) q hit f := by
  obtain ⟨p, hp, hpf⟩ := Option.map_eq_some_iff.1 (h.pair.trans (by rw [hq]; rfl))
  have hqps : (u.fastTake hit f).est.qps = (u.setQp f.qp (some p.counted)).est.qps := by simp [hp]
  have hcounted {r : RegName} (hr : regKey .estuary r 0 ∉ packetKeys) (k : Nat) :
      u.counted .estuary r 0 k = s.counted .estuary r 0 k :=
    State.counted_estuary (h.regs _ (by decide)) (h.regs _ hr) (by rw [h.rest])
  have hrd (r : RegName) : (u.fastTake hit f).rd .estuary r 0 = if regKey .estuary (fastCounter hit) 0 = regKey .estuary r 0 then
      u.counted .estuary (fastCounter hit) 0 1 else u.rd .estuary r 0 :=
    (State.rd_congr (State.fastTake_regs u hit f) _ _ _).trans (State.rd_bump u _ _ _ _ _ _ _)
  refine ⟨?rest, ?fast, fun c r => ?bound, ?count, ?cached, fun key hk => ?regs, ?hits, ?misses⟩
  case rest => rw [State.fastTake_rest, h.rest]
  case fast => rw [State.fastTake_fast, h.fast]
  case bound =>
    rw [← h.bound c r, ← State.queueFast_setQp (q' := p.counted) hp rfl c r, State.queueFast, State.queueFast, hqps]
  case count =>
    have hpc : p.fastCount = q.fastCount := (Prod.ext_iff.1 hpf).2
    rw [State.qp, hqps, ← State.qp, State.qp_setQp_same, ← hpc]
    rfl
  case cached => rw [← h.cached, State.ctxSet, State.ctxSet, State.fastTake_cache]
  case regs =>
    rw [State.reg_congr (State.fastTake_regs u hit f)]
    exact State.regsBut_bump (fun k hn => h.regs k (fun hm => hn (List.mem_append.2 (Or.inl hm))))
      (by cases hit <;> decide) key hk
  case hits =>
    have hc := hcounted (r := .estFastCount) (by decide)
    rw [hrd]
    cases hit with
    | false => rw [if_neg (by decide), ← State.counted_zero]; exact hc 0
    | true => exact (if_pos rfl).trans (hc 1)
  case misses =>
    have hc := hcounted (r := .estFastMiss) (by decide)
    rw [hrd]
    cases hit with
    | false => exact (if_pos rfl).trans (hc 1)
    | true => rw [if_neg (by decide), ← State.counted_zero]; exact hc 0

/-! ### Requests that run and requests that wait (R17, R18, R323) -/

theorem FastReq.same_refl (f : FastReq) : f.same f = true := by simp [FastReq.same]

/-- A request that runs is left alone while its program does. -/
theorem State.fastOne_running {s : State} {f : FastReq} (hf : f.running = true) (hq : (s.queue f.bind.core f.bind.queue).state = .running) :
    s.fastOne f = s := by
  cases h : s.qp f.qp with
  | none => simp [State.fastOne, State.fastBind, h]
  | some q => simp [State.fastOne, State.fastBind, h, hf, hq]

/-- A request that waits starts where it may. -/
theorem State.fastOne_waiting {s : State} {f : FastReq} {q : Qp} (hq : s.qp f.qp = some q) (hf : f.running = false) :
    s.fastOne f = if s.fastMayStart f then s.fastStart f f.bind else s := by
  simp [State.fastOne, State.fastBind, hq, hf]

/-- With no request before it and its queue IDLE, a hit may start, and a miss where its context is cached and its block comes. -/
theorem State.fastMayStart_alone {s : State} {f : FastReq} (hs : s.est.fast = [f]) (hf : f.running = false)
    (hq : (s.queue f.bind.core f.bind.queue).state = .idle) :
    s.fastMayStart f = (!f.miss || ((s.ctxSet f.qp).contains f.qp && s.blockComes f.bind)) := by
  cases hm : f.miss <;> simp [State.fastMayStart, hs, hf, hq, hm, FastReq.same_refl]

theorem State.fastMayStart_busy {s : State} {f : FastReq} (hq : (s.queue f.bind.core f.bind.queue).state ≠ .idle) :
    s.fastMayStart f = false := by
  simp [State.fastMayStart, hq]

/-- A hit waits for an earlier request that Estuary serves on its core (R17). -/
theorem State.fastMayStart_behind {s : State} {f g : FastReq} {l : List FastReq} (hs : s.est.fast = l ++ [f]) (hf : f.miss = false)
    (hl : ∀ x ∈ l, x.same f = false) (hg : g ∈ l) (hm : g.miss = false) (hc : g.bind.core = f.bind.core) : s.fastMayStart f = false := by
  have he : s.est.fast.takeWhile (fun g => !g.same f) = l := by
    rw [hs, List.takeWhile_append_of_pos (fun x hx => by simp [hl x hx])]
    simp [FastReq.same_refl]
  have ha : l.any (fun g => !g.miss && g.bind.core == f.bind.core) = true := List.any_eq_true.2 ⟨g, hg, by simp [hm, hc]⟩
  simp [State.fastMayStart, he, hf, ha]

theorem foldl_fixed_of_mem {α β : Type} {f : β → α → β} {b : β} {l : List α} (h : ∀ x ∈ l, f b x = b) : l.foldl f b = b := by
  induction l with
  | nil => rfl
  | cons x l ih => rw [List.foldl_cons, h x (by simp), ih (fun y hy => h y (by simp [hy]))]

/-- Where no request ends and none may start, nothing is changed. -/
theorem State.fastPump_still {s : State} (h : ∀ g ∈ s.est.fast, s.fastOne g = s) : s.fastPump = s := by
  have hf := foldl_fixed_of_mem h
  simp only [State.fastPump, hf]

/-! ### The start of a request (R99, R323) -/

/-- A request g that Estuary has, once the request f has started: the one that is f runs. -/
def FastReq.begun (f g : FastReq) : FastReq := if g.same f then { g with running := true } else g

/-- A queue at its start doorbell (R99). -/
def Queue.begun (x : Queue) : Queue :=
  { x with state := .running, discarding := false, flights := [], seq := 0, runStatus := 0, deadline := 0 }

/-- A request starts, before the holder of its core is settled: its payload is written and its queue runs. -/
def State.fastBegun (s : State) (f : FastReq) (b : FastBind) : State :=
  let t := s.store (ledgeBase b.core.val + b.inOff) f.payload
  let t := { t with est := { t.est with fast := t.est.fast.map f.begun } }
  (t.setPc b.core b.queue b.pc).setQueue b.core b.queue (t.queue b.core b.queue).begun

theorem State.fastStart_arbitrates (s : State) (f : FastReq) (b : FastBind) :
    s.fastStart f b = (s.fastBegun f b).arbitrate b.core := rfl

/-- The Ledge lies outside what Harbour caches, so a payload changes memory alone. -/
theorem State.store_payload (s : State) (c : Fin 36) (off : Nat) (bs : List Byte) :
    s.store (ledgeBase c.val + off) bs = { s with
      mem := (s.store (ledgeBase c.val + off) bs).mem, bad := (s.store (ledgeBase c.val + off) bs).bad } := by
  refine (State.wrote_store s (ledgeBase c.val + off) bs).2.2 (fun r hr => ?_)
  rw [List.mem_singleton.1 hr]
  exact decide_eq_false (by unfold ledgeBase; omega)

section
variable (s : State) (f : FastReq) (b : FastBind)

theorem State.fastBegun_mem : (s.fastBegun f b).mem = (s.store (ledgeBase b.core.val + b.inOff) f.payload).mem := rfl

theorem State.fastBegun_sems : (s.fastBegun f b).sems = s.sems := by
  simp only [State.fastBegun, State.setQueue_sems, State.setPc_sems]
  rw [State.store_payload]

theorem State.fastBegun_est : (s.fastBegun f b).est = { s.est with fast := s.est.fast.map f.begun } := by
  simp only [State.fastBegun, State.setQueue_est, State.setPc_est]
  rw [State.store_payload]

theorem State.fastBegun_cores : (s.fastBegun f b).cores = (s.setQueue b.core b.queue (s.queue b.core b.queue).begun).cores := by
  rw [State.fastBegun, State.store_payload]
  rfl

/-- Of the registers the program counter of the queue is written (R323). -/
theorem State.fastBegun_reg (k : Nat) : (s.fastBegun f b).reg k =
    if regKey (.sequencer b.core) .qPc b.queue = k then setBits (s.rd (.sequencer b.core) .qPc b.queue) 47 5 (b.pc / 32) else s.reg k := by
  have h : (s.fastBegun f b).regs = (s.setPc b.core b.queue b.pc).regs := by
    rw [State.fastBegun, State.store_payload]
    rfl
  rw [State.reg_congr h, State.setPc, State.reg_setFld]

end

/-! ### A holder that keeps its core (R78) -/

/-- No queue of a higher class is ready, where the queues that are ready are those that were and one of no higher class. -/
theorem State.higherReady_of {s t : State} {c : Fin 36} {h q : Nat} (hr : s.higherReady c h = false)
    (hc : ∀ r, t.qClass c r = s.qClass c r) (hq : ∀ r, r ≠ q → t.queue c r = s.queue c r) (hle : s.qClass c h ≤ s.qClass c q) :
    t.higherReady c h = false := by
  unfold State.higherReady at *
  rw [List.any_eq_false] at *
  intro r hm
  by_cases e : r = q
  · subst e
    simp [hc, hle]
  · rw [hq r e, hc, hc]
    exact hr r hm

/-- A holder that keeps its core, with no queue of a higher class ready, goes on, and memory stays as it is. -/
theorem State.arbitrate_keeps_mem {s : State} {c : Fin 36} {h : Nat} (hh : (s.core c).holder = some h)
    (hk : ((s.core c).queue h).keeps = true) (hr : s.higherReady c h = false)
    (ht : ∀ r, (s.queue c r).state = .waiting → (s.queue c r).inWaitGe = true) : (s.arbitrate c).mem = s.mem := by
  have hq (r : Nat) : (s.setCore c (s.core c).freeTags).queue c r = s.queue c r := by
    rw [State.queue, State.core_setCore_same]
    exact Core.queue_freeTags ht r
  have hr' := State.higherReady_of (t := s.setCore c (s.core c).freeTags) hr (fun _ => rfl) (fun r _ => hq r) le_rfl
  have hh' : (s.core c).freeTags.holder = some h := by rw [Core.freeTags_rest, ← hh]
  have hk' : ((s.core c).freeTags.queue h).keeps = true := by rw [Core.queue_freeTags ht h, hk]
  simp [State.arbitrate, hh', hk', hr']

/-! ### What the start of a request leads to (R323) -/

/-- The registers of the sequencer pages lie behind those of the Estuary page. -/
theorem qCfg_not_requestKeys (c : Fin 36) (r : Nat) : regKey (.sequencer c) .qCfg r ∉ requestKeys := by
  have hp : 256 ≤ (Pg.sequencer c).index := by revert c; decide
  have hk : ∀ k ∈ requestKeys, k < 256 * 4096 := by decide
  intro hm
  have := hk _ hm
  unfold regKey at this
  omega

theorem qPc_not_switchKeys (c : Fin 36) (q : Fin 8) : regKey (.sequencer c) .qPc q ∉ switchKeys c := by
  revert c q; decide

theorem fastCounter_not_switchKeys (hit : Bool) (c : Fin 36) : regKey .estuary (fastCounter hit) 0 ∉ switchKeys c := by
  revert hit c; decide

theorem qPc_not_requestKeys (c : Fin 36) (q : Fin 8) : regKey (.sequencer c) .qPc q ∉ requestKeys := by
  revert c q; decide

/-- The class of each queue of a core stands as it stood before the start of a request. -/
theorem State.fastBegun_qClass (s : State) (f : FastReq) (b : FastBind) (r : Nat) :
    (s.fastBegun f b).qClass b.core r = s.qClass b.core r := by
  have hk : regKey (.sequencer b.core) .qPc b.queue ≠ regKey (.sequencer b.core) .qCfg r :=
    regKey_ne (by simp only [RegName.off]; omega)
  rw [State.qClass, State.qClass, State.fld, State.fld, State.rd_eq_reg, State.fastBegun_reg, if_neg hk]
  rfl

theorem State.sem_setQueue (s : State) (c q : Nat) (x : Queue) (g : Bool) (d i : Nat) : (s.setQueue c q x).sem g d i = s.sem g d i := by
  have h : ((s.setQueue c q x).core d).sems = (s.core d).sems := by
    by_cases e : c = d
    · subst e; rw [State.core_setQueue_same]; rfl
    · rw [State.core_setQueue_other e]
  rw [State.sem, State.sem, h, State.setQueue_sems]

/-- The start of a request that is alone: it runs, its queue starts at the address of its program, and no other core and no semaphore
changes. -/
theorem State.fastStart_result {s : State} {f : FastReq} (hs : s.est.fast = [f]) :
    let t := s.fastStart f f.bind
    t.est = { s.est with fast := [{ f with running := true }] } ∧ (t.queue f.bind.core f.bind.queue).fresh ∧
      s.coresBut t f.bind.core ∧ s.semsSame t ∧
      t.rd (.sequencer f.bind.core) .qPc f.bind.queue =
        setBits (s.rd (.sequencer f.bind.core) .qPc f.bind.queue) 47 5 (f.bind.pc / 32) ∧
      ∀ k, k ≠ regKey (.sequencer f.bind.core) .qPc f.bind.queue → k ∉ switchKeys f.bind.core → memoryKey k = false → t.reg k = s.reg k := by
  have ha := State.arbitrates_arbitrate (s.fastBegun f f.bind) f.bind.core
  have hc := State.fastBegun_cores s f f.bind
  rw [← State.fastStart_arbitrates] at ha
  refine ⟨?est, ha.fresh _ ?fresh, fun d hd => ?cores, fun g d i => ?sems, ?pc, fun k hp hk hm => ?regs⟩
  case est => rw [ha.est, State.fastBegun_est, hs]; simp [FastReq.begun, FastReq.same_refl]
  case fresh =>
    rw [State.queue_congr hc, State.queue_setQueue_same]
    exact ⟨rfl, rfl, rfl⟩
  case cores => rw [ha.cores d hd, State.core_congr hc, State.core_setQueue_other (Ne.symm hd)]
  case sems =>
    rw [ha.sems, State.sem_congr (s := s.setQueue _ _ _) (State.fastBegun_sems s f f.bind) hc, State.sem_setQueue]
  case pc =>
    have hm : memoryKey (regKey (.sequencer f.bind.core) .qPc f.bind.queue) = false :=
      memoryKey_sequencer (by simp only [RegName.off]; omega)
    rw [State.rd_eq_reg, ha.regs _ (qPc_not_switchKeys _ _) hm, State.fastBegun_reg, if_pos rfl]
  case regs => rw [ha.regs k hk hm, State.fastBegun_reg, if_neg (Ne.symm hp)]

/-- Where another queue holds the core and keeps it, the start of a request writes its payload and no other byte (R323). -/
theorem State.fastStart_mem {s : State} {f : FastReq} {b : FastBind} {h : Nat} (hh : (s.core b.core).holder = some h) (hn : h ≠ b.queue.val)
    (hk : ((s.core b.core).queue h).keeps = true) (hle : s.qClass b.core h ≤ s.qClass b.core b.queue)
    (hr : s.higherReady b.core h = false) (ht : ∀ r, (s.queue b.core r).state = .waiting → (s.queue b.core r).inWaitGe = true) :
    (s.fastStart f b).mem = (s.store (ledgeBase b.core.val + b.inOff) f.payload).mem := by
  have hc := State.fastBegun_cores s f b
  have hq (r : Nat) (e : r ≠ b.queue.val) : (s.fastBegun f b).queue b.core r = s.queue b.core r := by
    rw [State.queue_congr hc, State.queue_setQueue, if_neg (fun k => e k.2.symm)]
  have hhold : ((s.fastBegun f b).core b.core).holder = some h := by rw [State.core_congr hc, State.core_setQueue_same, ← hh]; rfl
  have hkeeps : (((s.fastBegun f b).core b.core).queue h).keeps = true := by
    rw [← State.queue, hq h hn]
    exact hk
  rw [State.fastStart_arbitrates, State.arbitrate_keeps_mem hhold hkeeps
    (State.higherReady_of hr (State.fastBegun_qClass s f b) hq hle) (fun r hw => ?_), State.fastBegun_mem]
  by_cases e : r = b.queue.val
  · rw [e, State.queue_congr hc, State.queue_setQueue_same] at hw
    cases hw
  · rw [hq r e] at hw ⊢
    exact ht r hw

/-- The pump starts a request that is alone and may start, and then leaves it to its program. -/
theorem State.fastPump_starts {s : State} {f : FastReq} {q : Qp} (hs : s.est.fast = [f]) (hq : s.qp f.qp = some q) (hf : f.running = false)
    (hm : s.fastMayStart f = true) : s.fastPump = s.fastStart f f.bind := by
  obtain ⟨he, hx, -⟩ := State.fastStart_result hs
  have h1 : s.fastOne f = s.fastStart f f.bind := by rw [State.fastOne_waiting hq hf, if_pos hm]
  have h2 : (s.fastStart f f.bind).fastOne { f with running := true } = s.fastStart f f.bind := State.fastOne_running rfl hx.1
  simp only [State.fastPump, hs, List.foldl_cons, List.foldl_nil, h1, he, h2]

/-! ### Requests as a whole -/

/-- A request that is alone, with its queue IDLE, may start by what held before its acceptance: a hit, and a miss whose context is cached
and whose block comes (R18, R323). -/
theorem State.fastTaken_mayStart {s w : State} {q : Qp} {hit : Bool} {f : FastReq} (hw : s.fastTaken w q hit f)
    (hf : f.running = false) (hm : f.miss = !hit) (he : s.est.fast = []) (hq : (s.queue f.bind.core f.bind.queue).state = .idle) :
    w.fastMayStart f = (hit || ((s.ctxSet f.qp).contains f.qp && s.blockComes f.bind)) := by
  have hc : w.cores = s.cores := by rw [hw.rest]
  rw [State.fastMayStart_alone (by rw [hw.fast, he]; rfl) hf (by rw [State.queue_congr hc, hq]), hw.cached,
    State.blockComes_congr (by rw [hw.rest]) hc hw.bound, hm, Bool.not_not]

/-- Where another queue holds the core and keeps it, the payload stands at its place and no other byte has changed (R323). -/
theorem State.fastTaken_payload {s w : State} {q : Qp} {hit : Bool} {f : FastReq} {b : FastBind} {h : Nat} (hw : s.fastTaken w q hit f)
    (hh : (s.core b.core).holder = some h) (hn : h ≠ b.queue.val) (hk : ((s.core b.core).queue h).keeps = true)
    (hle : s.qClass b.core h ≤ s.qClass b.core b.queue) (hr : s.higherReady b.core h = false)
    (ht : ∀ r, (s.queue b.core r).state = .waiting → (s.queue b.core r).inWaitGe = true) :
    (∀ i < f.payload.length, (w.fastStart f b).byte (ledgeBase b.core.val + b.inOff + i) = f.payload.getD i 0) ∧
      s.bytesBut (w.fastStart f b) [(ledgeBase b.core.val + b.inOff, f.payload.length)] := by
  have hc : w.cores = s.cores := by rw [hw.rest]
  have hcl (r : Nat) : w.qClass b.core r = s.qClass b.core r := by
    rw [State.qClass, State.fld, State.rd_eq_reg, hw.regs _ (qCfg_not_requestKeys _ _)]; rfl
  have hq (r : Nat) : w.queue b.core r = s.queue b.core r := State.queue_congr hc _ _
  have hmem : (w.fastStart f b).mem = (s.store (ledgeBase b.core.val + b.inOff) f.payload).mem := by
    rw [State.fastStart_mem (by rw [State.core_congr hc, hh]) hn (by rw [State.core_congr hc, hk]) (by rw [hcl, hcl]; exact hle)
      (State.higherReady_of hr hcl (fun r _ => hq r) le_rfl) (fun r hw => by rw [hq] at hw ⊢; exact ht r hw), State.store_mem,
      State.store_mem, hw.rest]
  refine ⟨fun i hi => ?_, fun a ha => ?_⟩
  · rw [State.byte_congr hmem, State.byte_store, if_pos (by omega), Nat.add_sub_cancel_left]
  · rw [State.byte_congr hmem]
    exact (State.wrote_store s _ f.payload).2.1 a ha

/-- A request that waits behind requests whose programs run leaves the pump nothing to do. -/
theorem State.fastTaken_waits {s w : State} {q p : Qp} {hit : Bool} {f : FastReq} (hw : s.fastTaken w q hit f)
    (hq : w.qp f.qp = some p) (hf : f.running = false) (hm : w.fastMayStart f = false)
    (hr : ∀ g ∈ s.est.fast, g.running = true ∧ (s.queue g.bind.core g.bind.queue).state = .running) : w.fastPump = w := by
  have hc : w.cores = s.cores := by rw [hw.rest]
  refine State.fastPump_still (fun g hg => ?_)
  rw [hw.fast, List.mem_append, List.mem_singleton] at hg
  rcases hg with hg | rfl
  · obtain ⟨hg1, hg2⟩ := hr g hg
    exact State.fastOne_running hg1 (by rw [State.queue_congr hc, hg2])
  · rw [State.fastOne_waiting hq hf, hm]
    rfl

/-- A request that is alone, with its queue IDLE, starts where it may. -/
theorem State.fastTaken_starts {s w : State} {q p : Qp} {hit : Bool} {f : FastReq} (hw : s.fastTaken w q hit f) (hq : w.qp f.qp = some p)
    (hf : f.running = false) (hm : f.miss = !hit) (he : s.est.fast = []) (hidle : (s.queue f.bind.core f.bind.queue).state = .idle)
    (hmay : (hit || ((s.ctxSet f.qp).contains f.qp && s.blockComes f.bind)) = true) :
    w.fastPump = w.fastStart f f.bind ∧ w.est.fast = [f] := by
  have hs : w.est.fast = [f] := by rw [hw.fast, he]; rfl
  exact ⟨State.fastPump_starts hs hq hf ((State.fastTaken_mayStart hw hf hm he hidle).trans hmay), hs⟩

/-- Settles O42: the packets of the SEND leave what decides whether the request may start, so the pump starts it or leaves it waiting. -/
theorem fastPathResults : Obligations.FastPathResults := by
  unfold Obligations.FastPathResults
  intro s qp bs ce q b u hit come f hup hq hb he hcl hl hu hhit hcome hf
  have hx := exec_fastPathRequest_takes (bs := bs) (ce := ce) hup hq hb he hcl hl (hu ▸ hhit)
  obtain ⟨hfq, hfm, hfr, hfc, hfb⟩ : f.qp = qp.toNat ∧ f.miss = !hit ∧ f.running = false ∧ f.count = q.fastCount ∧ f.bind = b := by
    rw [hf]; exact ⟨rfl, rfl, rfl, rfl, rfl⟩
  rw [← hu, ← hf] at hx
  rw [← hfq] at hq hcome ⊢
  have hw : s.fastTaken (u.fastTake hit f) q hit f := State.fastTake_taken
    (by rw [hu, hfq]; exact State.packetMoves_trans (State.packetMoves_received _ _ _) (State.packetMoves_marked _ _ _)) hq
  clear hf hhit hu
  subst hfb
  rw [hx]
  generalize u.fastTake hit f = w at hw
  obtain ⟨p, hp, -⟩ := Option.map_eq_some_iff.1 hw.count
  have hcores : w.cores = s.cores := by rw [hw.rest]
  refine ⟨fun hfast hidle hmay => ?starts, fun hrun hwait => ?waits⟩
  case starts =>
    obtain ⟨hpump, hone⟩ := State.fastTaken_starts hw hp hfr hfm hfast hidle (hcome ▸ hmay)
    obtain ⟨hest, ⟨hstate, hseq, hflights⟩, hother, hsems, hpc, hregs⟩ := State.fastStart_result hone
    have hqp : (w.fastStart f f.bind).qp f.qp = w.qp f.qp := by rw [State.qp, hest]; rfl
    have hcounter (x : Bool) : (w.fastStart f f.bind).rd .estuary (fastCounter x) 0 = w.rd .estuary (fastCounter x) 0 :=
      have hmem : regKey .estuary (fastCounter x) 0 ∈ requestKeys := by cases x <;> decide
      hregs _ (fun e => qPc_not_requestKeys _ _ (e ▸ hmem)) (fastCounter_not_switchKeys x _) (by cases x <;> decide)
    rw [hpump]
    refine ⟨_, rfl, by rw [hest], by rw [hqp, hw.count], hstate, hseq, hflights, ?pc, fun h hh hn hk hle hr ht => ?payload,
      fun d hd => by rw [hother d hd, State.core_congr hcores],
      fun g d i => by rw [hsems, State.sem_congr (by rw [hw.rest]) hcores], ?hits, ?misses⟩
    case pc => rw [hpc, State.rd_eq_reg w, hw.regs _ (qPc_not_requestKeys _ _)]; rfl
    case payload => exact State.fastTaken_payload hw hh hn hk hle hr ht
    case hits => exact (hcounter true).trans hw.hits
    case misses => exact (hcounter false).trans hw.misses
  case waits =>
    have hstill : w.fastPump = w := State.fastTaken_waits hw hp hfr ?may hrun
    case may =>
      rcases hwait with hbusy | ⟨hfast, hno⟩ | ⟨hh, ⟨g, hg, hgm, hgc⟩, hsame⟩
      · exact State.fastMayStart_busy (by rwa [State.queue_congr hcores])
      · by_cases hidle : (s.queue f.bind.core f.bind.queue).state = .idle
        · exact (State.fastTaken_mayStart hw hfr hfm hfast hidle).trans (hcome ▸ hno)
        · exact State.fastMayStart_busy (by rwa [State.queue_congr hcores])
      · refine State.fastMayStart_behind hw.fast (by rw [hfm, hh]; rfl) (fun x hx => ?_) hg hgm hgc
        have := hsame x hx
        rw [← hfc] at this
        simpa [FastReq.same, imp_iff_not_or] using this
    rw [hstill]
    exact ⟨w, rfl, hw.fast, hw.count, by rw [hw.rest], hcores, by rw [hw.rest], hw.hits, hw.misses⟩

end Sys2Proof.Machine

/-! Proofs about tideline time (R21 to R30, R306, R338, R481): the idle step, ticks and slots, the discipline, and
the records of the count. -/

namespace Sys2Proof.Machine

/-! ### The idle step (R21, R22) -/

/-- Settles O2: the idle step stands exactly where standby and main power are both lost. -/
theorem emptyQueueIdles : Obligations.EmptyQueueIdles := by
  unfold Obligations.EmptyQueueIdles
  intro s hp
  have hstep : step s = .next s.idle := by rw [step, hp]
  rw [hstep, State.idle]
  refine ⟨fun h => ?counts, fun hm hs => ?stands⟩
  case counts => rcases h with h | h <;> simp [h]
  case stands => simp [hm, hs]

/-! ### Writes of registers and their fields -/

theorem State.rd_setFld_same (s : State) (p : Pg) (r : RegName) (i hi lo x : Nat) :
    (s.setFld p r i hi lo x).rd p r i = setBits (s.rd p r i) hi lo x := State.rd_wr_same ..

theorem State.rd_setFld_other {s : State} {p p' : Pg} {r r' : RegName} {i i' hi lo x : Nat} (h : regKey p r i ≠ regKey p' r' i') :
    (s.setFld p r i hi lo x).rd p' r' i' = s.rd p' r' i' := State.rd_wr_other h

theorem State.fld_setFld_same {s : State} {p : Pg} {r : RegName} {i hi lo x : Nat} (h : hi < 64) :
    (s.setFld p r i hi lo x).fld p r i hi lo = x % 2 ^ (hi + 1 - lo) := by
  rw [State.fld, State.rd_setFld_same, bits_setBits_same h]

theorem State.fld_setFld_other {s : State} {p : Pg} {r : RegName} {i hi lo x hi' lo' : Nat} (h : hi < 64)
    (hd : hi' < lo ∨ hi < lo') :
    (s.setFld p r i hi lo x).fld p r i hi' lo' = s.fld p r i hi' lo' := by
  rw [State.fld, State.rd_setFld_same, bits_setBits_other h hd, State.fld]

theorem State.fld_congr {s t : State} {p : Pg} {r : RegName} {i : Nat} (h : t.rd p r i = s.rd p r i) (hi lo : Nat) :
    t.fld p r i hi lo = s.fld p r i hi lo := congrArg (bits · hi lo) h

theorem State.rd_event_other {s : State} {p p' : Pg} {b i : Nat} {r : RegName} (h : regKey p' r i ∉ eventKeys p) :
    (s.event p b).rd p' r i = s.rd p' r i := State.reg_event s p b _ h

/-- A key of another register of the page than those of its events. -/
theorem regKey_not_eventKeys {p : Pg} {r : RegName} {i : Nat} (h : r.off i ≠ 0x28 ∧ r.off i ≠ 0x38 ∧ r.off i ≠ 0x48) :
    regKey p r i ∉ eventKeys p := by
  obtain ⟨h1, h2, h3⟩ := h
  simp only [eventKeys, List.mem_cons, List.not_mem_nil, or_false, not_or]
  exact ⟨regKey_ne h1, regKey_ne h2, regKey_ne h3⟩

/-- What an event leaves is read from the registers of the page's events: of the state before, and its time, and of
the state after. -/
theorem State.raised_from {s s' t : State} {p : Pg} {b : Nat} (h : s'.raised t p b)
    (hs : ∀ k ∈ eventKeys p, s'.reg k = s.reg k) (hn : s'.now = s.now) : s.raised t p b := by
  simp only [eventKeys, List.forall_mem_cons, List.not_mem_nil, false_implies, implies_true, and_true] at hs
  obtain ⟨hevent, hcount, -⟩ := hs
  rw [State.raised, State.rd_eq_reg s, State.rd_eq_reg s, ← hevent, ← hcount, ← hn]
  exact h

theorem State.raised_to {s t t' : State} {p : Pg} {b : Nat} (h : s.raised t' p b)
    (ht : ∀ k ∈ eventKeys p, t.reg k = t'.reg k) :
    s.raised t p b := by
  simp only [eventKeys, List.forall_mem_cons, List.not_mem_nil, false_implies, implies_true, and_true] at ht
  obtain ⟨hevent, hcount, htime⟩ := ht
  rw [State.raised, State.rd_eq_reg t, State.rd_eq_reg t, State.rd_eq_reg t, hevent, hcount, htime]
  exact h

theorem State.raised_bit {s t : State} {p : Pg} {b : Nat} (h : s.raised t p b) (hb : b < 64) :
    bit1 (t.rd p .event 0) b = true := by
  rw [h.1, bit1, BitVec.getLsbD_or, BitVec.getLsbD_ofNat, Nat.testBit_two_pow_self]
  simp [hb]

/-- A bit of EVENT stays set through events of its page. -/
theorem State.event_bit_stays {s : State} {p : Pg} {b c : Nat} (h : bit1 (s.rd p .event 0) b = true) :
    bit1 ((s.event p c).rd p .event 0) b = true := by
  rw [(State.raised_event s p c).1, bit1, BitVec.getLsbD_or]
  rw [bit1] at h
  rw [h, Bool.true_or]

theorem State.regsBut_trans {s t u : State} {ks : List Nat} (h : s.regsBut t ks) (k : t.regsBut u ks) :
    s.regsBut u ks :=
  fun x hx => (k x hx).trans (h x hx)

theorem State.regsBut_mono {s t : State} {ks js : List Nat} (h : s.regsBut t ks) (hs : ks ⊆ js) : s.regsBut t js :=
  fun x hx => h x (fun hk => hx (hs hk))

/-- From s to t only registers have been written, those with the given keys. -/
structure State.writes (s t : State) (ks : List Nat) : Prop where
  regs : s.regsBut t ks
  rest : s.regsOnly t

theorem State.writes_refl (s : State) (ks : List Nat) : s.writes s ks :=
    ⟨State.regsBut_refl rfl ks, State.regsOnly_refl s⟩

theorem State.writes_wr {s t : State} {ks : List Nat} (h : s.writes t ks) {p : Pg} {r : RegName} {i : Nat} (v : Word)
    (hk : regKey p r i ∈ ks) : s.writes (t.wr p r i v) ks :=
  ⟨State.regsBut_wr h.regs hk, State.regsOnly_wr h.rest p r i v⟩

theorem State.writes_setFld {s t : State} {ks : List Nat} (h : s.writes t ks) {p : Pg} {r : RegName} {i : Nat} (hi lo x : Nat)
    (hk : regKey p r i ∈ ks) : s.writes (t.setFld p r i hi lo x) ks := State.writes_wr h _ hk

theorem State.writes_bump {s t : State} {ks : List Nat} (h : s.writes t ks) {p : Pg} {r : RegName} {i : Nat} (n : Nat)
    (hk : regKey p r i ∈ ks) : s.writes (t.bump p r i n) ks :=
  ⟨State.regsBut_bump h.regs hk, State.regsOnly_bump h.rest p r i n⟩

theorem State.writes_event {s t : State} {ks : List Nat} (h : s.writes t ks) {p : Pg} (b : Nat)
    (hk : eventKeys p ⊆ ks) :
    s.writes (t.event p b) ks :=
  ⟨State.regsBut_event h.regs (fun _ hm => hk hm),
    State.regsOnly_wr (State.regsOnly_wr (State.regsOnly_wr h.rest _ _ _ _) _ _ _ _) _ _ _ _⟩

theorem State.writes_eq {s t : State} {ks : List Nat} (h : s.writes t ks) : t = { s with regs := t.regs } :=
    State.regsOnly_eq h.rest

theorem State.writes_rd {s t : State} {ks : List Nat} (h : s.writes t ks) {p : Pg} {r : RegName} {i : Nat} (hk : regKey p r i ∉ ks) :
    t.rd p r i = s.rd p r i := h.regs _ hk

/-! ### The state of the discipline (R25, R35) -/

/-- The registers that the discipline writes. -/
def discKeys : List Nat := regKey .tideline .discStat 0 :: eventKeys .tideline

theorem discStat_not_eventKeys : regKey .tideline .discStat 0 ∉ eventKeys .tideline := regKey_not_eventKeys (by decide)

theorem State.setDisc_eq (s : State) (x : Nat) :
    s.setDisc x =
      if s.discState ≠ 2 ∧ x = 2 then (s.setFld .tideline .discStat 0 2 0 x).event .tideline 1
      else if s.discState = 2 ∧ x ≠ 2 then (s.setFld .tideline .discStat 0 2 0 x).event .tideline 2
      else s.setFld .tideline .discStat 0 2 0 x := rfl

theorem State.writes_setDisc (s : State) (x : Nat) : s.writes (s.setDisc x) discKeys := by
  have hf : s.writes (s.setFld .tideline .discStat 0 2 0 x) discKeys :=
    State.writes_setFld (State.writes_refl s _) _ _ _ (List.mem_cons_self ..)
  have he (b : Nat) := State.writes_event hf (p := .tideline) b (List.subset_cons_self _ _)
  rw [State.setDisc_eq]
  split
  · exact he 1
  · split
    · exact he 2
    · exact hf

theorem State.rd_setDisc_discStat (s : State) (x : Nat) :
    (s.setDisc x).rd .tideline .discStat 0 = setBits (s.rd .tideline .discStat 0) 2 0 x := by
  have he (b : Nat) : ((s.setFld .tideline .discStat 0 2 0 x).event .tideline b).rd .tideline .discStat 0 = _ :=
    (State.rd_event_other discStat_not_eventKeys).trans (State.rd_setFld_same ..)
  rw [State.setDisc_eq]
  split
  · exact he 1
  · split
    · exact he 2
    · exact State.rd_setFld_same ..

theorem State.discState_setDisc (s : State) {x : Nat} (hx : x < 8) : (s.setDisc x).discState = x := by
  rw [State.discState, State.fld, State.rd_setDisc_discStat, bits_setBits_same (by decide)]
  exact Nat.mod_eq_of_lt hx

theorem State.discOffset_setDisc (s : State) (x : Nat) :
    (s.setDisc x).fld .tideline .discStat 0 39 8 = s.fld .tideline .discStat 0 39 8 := by
  rw [State.fld, State.rd_setDisc_discStat, bits_setBits_other (by decide) (by decide), State.fld]

/-- A field of DISC_STAT is no register of an event. -/
theorem State.raised_after_setFld (s : State) (b hi lo x : Nat) :
    s.raised ((s.setFld .tideline .discStat 0 hi lo x).event .tideline b) .tideline b := by
  refine State.raised_from (State.raised_event _ _ b) (fun k hk => ?_) (State.setFld_now ..)
  rw [State.reg_setFld, if_neg (ne_of_mem_of_not_mem hk discStat_not_eventKeys).symm]

/-- Lock that is gained raises LOCKED (R35). -/
theorem State.raised_locked {s : State} (h : s.discState ≠ 2) : s.raised (s.setDisc 2) .tideline 1 := by
  rw [State.setDisc_eq, if_pos ⟨h, rfl⟩]
  exact State.raised_after_setFld ..

/-- Lock that is lost raises UNLOCKED (R35). -/
theorem State.raised_unlocked {s : State} {x : Nat} (h : s.discState = 2) (hx : x ≠ 2) :
    s.raised (s.setDisc x) .tideline 2 := by
  rw [State.setDisc_eq, if_neg (fun g => g.1 h), if_pos ⟨h, hx⟩]
  exact State.raised_after_setFld ..

theorem State.setDisc_bit_stays {s : State} {x b : Nat} (h : bit1 (s.rd .tideline .event 0) b = true) :
    bit1 ((s.setDisc x).rd .tideline .event 0) b = true := by
  have hf : bit1 ((s.setFld .tideline .discStat 0 2 0 x).rd .tideline .event 0) b = true := by
    rwa [State.rd_setFld_other (by decide)]
  rw [State.setDisc_eq]
  split
  · exact State.event_bit_stays hf
  · split
    · exact State.event_bit_stays hf
    · exact hf

/-! ### A measurement (R23, R25) -/

/-- A measurement may make the one forward step (R23). -/
def State.mayStep (s : State) (u : DiscUse) (off : Int) : Bool :=
  !s.tide.locked && !s.tide.stepped && u.step && bit1 (s.rd .tideline .discCtrl 0) 4 && decide (4000000 < off)

/-- Measurements in a row within 40 units, once one more has been taken (R25). -/
def Tide.nearAfter (t : Tide) (off : Int) : Nat := if off.natAbs ≤ 40 then t.near + 1 else 0

/-- Measurements in a row beyond 400 units, once one more has been taken (R25). -/
def Tide.farAfter (t : Tide) (off : Int) : Nat := if 400 < off.natAbs then t.far + 1 else 0

/-- HOLDOVER, or what leads to it, keeps the frequency (R25). -/
def keepsFreq (near far disc : Nat) : Bool := near < 16 && (decide (4 ≤ far) || disc == 3)

/-- The counts and the rate after a measurement (R23, R25), the discipline's state being the given one. -/
def State.tideAfter (s : State) (u : DiscUse) (off : Int) (disc : Nat) : Tide :=
  let held := keepsFreq (s.tide.nearAfter off) (s.tide.farAfter off) disc
  { s.tide with
    near := s.tide.nearAfter off, far := s.tide.farAfter off
    freq := if u.freq && !held then freeFreq (Config.freeWord s.freeIx) else s.tide.freq
    slew := if u.phase && !held && !s.mayStep u off then freeSlew (Config.freeWord (s.freeIx + 1)) off else 0 }

/-- What a measurement tells before the discipline's state follows from it: DISC_STAT shows the offset, and two
free values are drawn. -/
def State.takesOffset (s : State) (u : DiscUse) (off : Int) : State :=
  let shown := s.setFld .tideline .discStat 0 39 8 (sat32 off)
  { shown with freeIx := s.freeIx + 1 + 1, tide := s.tideAfter u off shown.discState }

/-- The forward step of the count (R23). -/
def State.stepsCount (s : State) (off : Int) : State :=
  ({ s with now := s.now + BitVec.ofInt 64 off, tide := { s.tide with stepped := true } }).event .tideline 3

/-- The discipline's state follows from the counts (R25). -/
def State.settles (s : State) (near far : Nat) : State :=
  if 16 ≤ near then { s with tide := { s.tide with locked := true } }.setDisc 2
  else if 4 ≤ far ∧ s.discState ≠ 4 then s.setDisc 3
  else if s.discState = 0 then s.setDisc 1
  else s

theorem State.draw_eq (s : State) : s.draw = (Config.freeWord s.freeIx, { s with freeIx := s.freeIx + 1 }) := rfl

theorem State.disciplined_eq (s : State) (u : DiscUse) (off : Int) :
    s.disciplined u off = State.settles (if s.mayStep u off then (s.takesOffset u off).stepsCount off else s.takesOffset u off)
      (s.tide.nearAfter off) (s.tide.farAfter off) := by
  have hix : (s.setFld .tideline .discStat 0 39 8 (sat32 off)).freeIx = s.freeIx := State.setFld_freeIx ..
  unfold State.disciplined State.takesOffset State.tideAfter
  generalize s.setFld .tideline .discStat 0 39 8 (sat32 off) = shown at hix ⊢
  rw [← hix]
  rfl

/-! ### What the discipline's state follows from (R25, R35) -/

theorem State.settles_rest (s : State) (near far : Nat) :
    s.settles near far =
      { s with regs := (s.settles near far).regs, tide := { s.tide with locked := (s.settles near far).tide.locked } } := by
  have hd (t : State) (x : Nat) := State.writes_eq (State.writes_setDisc t x)
  unfold State.settles
  split
  · rw [hd]
  · split
    · rw [hd]
    · split
      · rw [hd]
      · rfl

theorem State.regsBut_settles (s : State) (near far : Nat) : s.regsBut (s.settles near far) discKeys := by
  unfold State.settles
  split
  · exact (State.writes_setDisc { s with tide := { s.tide with locked := true } } 2).regs
  · split
    · exact (State.writes_setDisc s 3).regs
    · split
      · exact (State.writes_setDisc s 1).regs
      · exact State.regsBut_refl rfl _

theorem State.discOffset_settles (s : State) (near far : Nat) :
    (s.settles near far).fld .tideline .discStat 0 39 8 = s.fld .tideline .discStat 0 39 8 := by
  unfold State.settles
  split
  · exact State.discOffset_setDisc { s with tide := { s.tide with locked := true } } 2
  · split
    · exact State.discOffset_setDisc s 3
    · split
      · exact State.discOffset_setDisc s 1
      · rfl

theorem State.settles_bit_stays {s : State} {near far b : Nat} (h : bit1 (s.rd .tideline .event 0) b = true) :
    bit1 ((s.settles near far).rd .tideline .event 0) b = true := by
  unfold State.settles
  split
  · exact State.setDisc_bit_stays (s := { s with tide := { s.tide with locked := true } }) h
  · split
    · exact State.setDisc_bit_stays h
    · split
      · exact State.setDisc_bit_stays h
      · exact h

/-- Sixteen measurements in a row within 40 units lock the discipline. -/
theorem State.settles_locks {s : State} {near far : Nat} (h : 16 ≤ near) :
    (s.settles near far).discState = 2 ∧ (s.settles near far).tide.locked = true ∧
      (s.discState ≠ 2 → s.raised (s.settles near far) .tideline 1) := by
  have he : s.settles near far = { s with tide := { s.tide with locked := true } }.setDisc 2 := if_pos h
  rw [he]
  refine ⟨State.discState_setDisc _ (by decide), ?_,
    fun hn => State.raised_locked (s := { s with tide := { s.tide with locked := true } }) hn⟩
  rw [State.writes_eq (State.writes_setDisc _ 2)]

/-- Four measurements in a row beyond 400 units lead to HOLDOVER, but from the state with code 4. -/
theorem State.settles_loses {s : State} {near far : Nat} (hn : near < 16) (hf : 4 ≤ far) (hd : s.discState ≠ 4) :
    (s.settles near far).discState = 3 ∧ (s.discState = 2 → s.raised (s.settles near far) .tideline 2) := by
  have he : s.settles near far = s.setDisc 3 := by rw [State.settles, if_neg (by omega), if_pos ⟨hf, hd⟩]
  rw [he]
  exact ⟨State.discState_setDisc _ (by decide), fun h => State.raised_unlocked h (by decide)⟩

/-- Any other measurement begins to acquire, or leaves the state as it is. -/
theorem State.settles_stays {s : State} {near far : Nat} (hn : near < 16) (hf : far < 4 ∨ s.discState = 4) :
    (s.settles near far).discState = if s.discState = 0 then 1 else s.discState := by
  have he : s.settles near far = if s.discState = 0 then s.setDisc 1 else s := by
    rw [State.settles, if_neg (by omega), if_neg (by omega)]
  rw [he]
  split
  · exact State.discState_setDisc _ (by decide)
  · rfl

/-! ### The effect of a measurement (R23, R25) -/

theorem State.discState_setFld_offset (s : State) (x : Nat) :
    (s.setFld .tideline .discStat 0 39 8 x).discState = s.discState :=
  State.fld_setFld_other (by decide) (by decide)

theorem State.writes_setFld_offset (s : State) (x : Nat) :
    s.writes (s.setFld .tideline .discStat 0 39 8 x) [regKey .tideline .discStat 0] :=
  State.writes_setFld (State.writes_refl s _) _ _ _ (List.mem_singleton_self _)

theorem State.takesOffset_eq (s : State) (u : DiscUse) (off : Int) :
    s.takesOffset u off = { s with
      regs := (s.setFld .tideline .discStat 0 39 8 (sat32 off)).regs, freeIx := s.freeIx + 1 + 1, tide := s.tideAfter u off s.discState } := by
  unfold State.takesOffset
  dsimp only
  rw [State.discState_setFld_offset, State.writes_eq (State.writes_setFld_offset s _)]

theorem State.reg_takesOffset (s : State) (u : DiscUse) (off : Int) (k : Nat) :
    (s.takesOffset u off).reg k = (s.setFld .tideline .discStat 0 39 8 (sat32 off)).reg k :=
  State.reg_congr (by rw [State.takesOffset_eq]) k

theorem State.regsBut_takesOffset (s : State) (u : DiscUse) (off : Int) :
    s.regsBut (s.takesOffset u off) [regKey .tideline .discStat 0] :=
  fun k hk => (State.reg_takesOffset s u off k).trans ((State.writes_setFld_offset s _).regs k hk)

theorem State.discState_takesOffset (s : State) (u : DiscUse) (off : Int) :
    (s.takesOffset u off).discState = s.discState :=
  (State.fld_congr (State.reg_takesOffset s u off _) 2 0).trans (State.discState_setFld_offset s _)

theorem sat32_lt (x : Int) : sat32 x < 2 ^ 32 := by
  unfold sat32
  dsimp only
  generalize (if 2 ^ 31 - 1 < x then 2 ^ 31 - 1 else if x < -(2 ^ 31) then -(2 ^ 31) else x) = y
  omega

theorem State.discOffset_takesOffset (s : State) (u : DiscUse) (off : Int) :
    (s.takesOffset u off).fld .tideline .discStat 0 39 8 = sat32 off := by
  rw [State.fld_congr (State.reg_takesOffset s u off _), State.fld_setFld_same (by decide)]
  exact Nat.mod_eq_of_lt (sat32_lt off)

theorem State.rate_bounds (t : Tide) : -200000 ≤ t.rate ∧ t.rate ≤ 200000 := by
  unfold Tide.rate
  omega

/-- The count is sped up by at most 200 ppm to be rid of an offset, and slowed by at most 100 ppm (R23). -/
theorem freeSlew_bounds (w : Word) (off : Int) :
    (0 < off → 0 ≤ freeSlew w off ∧ freeSlew w off ≤ 200000) ∧
    (off < 0 → -100000 ≤ freeSlew w off ∧ freeSlew w off ≤ 0) := by
  unfold freeSlew
  constructor <;> intro h <;> split <;> omega

theorem State.tideAfter_slew_bounds (s : State) (u : DiscUse) (off : Int) (disc : Nat) :
    (0 < off → 0 ≤ (s.tideAfter u off disc).slew ∧ (s.tideAfter u off disc).slew ≤ 200000) ∧
      (off < 0 → -100000 ≤ (s.tideAfter u off disc).slew ∧ (s.tideAfter u off disc).slew ≤ 0) := by
  unfold State.tideAfter
  dsimp only
  split
  · exact freeSlew_bounds _ off
  · simp

/-- A measurement leaves what the ticks keep; it moves the discipline's own counts, its rate, and what has locked
and stepped. -/
theorem State.disciplined_tide (s : State) (u : DiscUse) (off : Int) :
    (s.disciplined u off).tide = { s.tide with
      near := s.tide.nearAfter off, far := s.tide.farAfter off, freq := (s.tideAfter u off s.discState).freq,
      slew := (s.tideAfter u off s.discState).slew, locked := (s.disciplined u off).tide.locked,
      stepped := s.mayStep u off || s.tide.stepped } := by
  rw [State.disciplined_eq, State.settles_rest]
  cases s.mayStep u off with
  | false =>
    rw [if_neg Bool.false_ne_true, State.takesOffset_eq]
    rfl
  | true =>
    rw [if_pos rfl, State.stepsCount, State.event_tide, State.takesOffset_eq]
    rfl

theorem State.regsBut_stepsCount (s : State) (off : Int) : s.regsBut (s.stepsCount off) (eventKeys .tideline) :=
  fun k hk => State.reg_event { s with now := s.now + BitVec.ofInt 64 off, tide := { s.tide with stepped := true } } .tideline 3 k hk

/-- The state before the discipline's own state follows has written DISC_STAT, and an event where the count was
stepped. -/
theorem State.regsBut_disciplined (s : State) (u : DiscUse) (off : Int) : s.regsBut (s.disciplined u off) discKeys := by
  rw [State.disciplined_eq]
  have ht : s.regsBut (s.takesOffset u off) discKeys :=
    State.regsBut_mono (State.regsBut_takesOffset s u off) (List.cons_subset_cons _ (List.nil_subset _))
  split
  · exact State.regsBut_trans (State.regsBut_trans ht
      (State.regsBut_mono (State.regsBut_stepsCount _ off) (List.subset_cons_self _ _))) (State.regsBut_settles _ _ _)
  · exact State.regsBut_trans ht (State.regsBut_settles _ _ _)

/-- A measurement shows its offset, saturated to 32 bits (R34). -/
theorem State.disciplined_offset (s : State) (u : DiscUse) (off : Int) :
    (s.disciplined u off).fld .tideline .discStat 0 39 8 = sat32 off := by
  rw [State.disciplined_eq, State.discOffset_settles]
  split
  · rw [State.fld_congr (State.regsBut_stepsCount (s.takesOffset u off) off _ discStat_not_eventKeys),
    State.discOffset_takesOffset]
  · exact State.discOffset_takesOffset s u off

/-- A measurement that does not step the count. -/
theorem State.measures_disciplined {s : State} {u : DiscUse} {off : Int} (h : s.mayStep u off = false) :
    s.measures (s.disciplined u off) off := by
  have he : s.disciplined u off = (s.takesOffset u off).settles (s.tide.nearAfter off) (s.tide.farAfter off) := by
    rw [State.disciplined_eq, h, if_neg Bool.false_ne_true]
  have htide := State.disciplined_tide s u off
  have hnear : (s.disciplined u off).tide.near = s.tide.nearAfter off := by rw [htide]
  have hfar : (s.disciplined u off).tide.far = s.tide.farAfter off := by rw [htide]
  have hdisc := State.discState_takesOffset s u off
  have hraised {t : State} {b : Nat} (hr : (s.takesOffset u off).raised t .tideline b) : s.raised t .tideline b := by
    refine State.raised_from hr (fun k hk => ?_) (by rw [State.takesOffset_eq])
    exact State.regsBut_takesOffset s u off k (fun e => ne_of_mem_of_not_mem hk discStat_not_eventKeys (List.mem_singleton.1 e))
  refine {
    offset := State.disciplined_offset s u off, near := hnear, far := hfar, locks := ?locks, loses := ?loses, stays := ?stays, held := ?held
    rate := State.rate_bounds _, slew := ?slew, regs := State.regsBut_disciplined s u off, rest := ?rest }
  case locks =>
    intro hn
    rw [hnear] at hn
    obtain ⟨h2, hl, hr⟩ := State.settles_locks (s := s.takesOffset u off) (far := s.tide.farAfter off) hn
    rw [he]
    exact ⟨h2, hl, fun hs => hraised (hr (by rwa [hdisc]))⟩
  case loses =>
    intro hn hf h4
    rw [hnear] at hn
    rw [hfar] at hf
    obtain ⟨h3, hr⟩ := State.settles_loses (s := s.takesOffset u off) hn hf (by rwa [hdisc])
    rw [he]
    exact ⟨h3, fun hs => hraised (hr (by rwa [hdisc]))⟩
  case stays =>
    intro hn hf
    rw [hnear] at hn
    rw [hfar] at hf
    rw [he, State.settles_stays hn (by rwa [hdisc]), hdisc]
  case held =>
    intro hn hf
    rw [hnear] at hn
    rw [hfar] at hf
    have hk : keepsFreq (s.tide.nearAfter off) (s.tide.farAfter off) s.discState = true := by
      simpa [keepsFreq, hn] using hf
    rw [htide]
    simp [State.tideAfter, hk]
  case slew =>
    rw [htide]
    exact State.tideAfter_slew_bounds ..
  case rest =>
    rw [he, State.settles_rest, State.takesOffset_eq]

/-- A measurement that makes the one forward step (R23). -/
theorem State.disciplined_steps {s : State} {u : DiscUse} {off : Int} (h : s.mayStep u off = true) :
    (s.disciplined u off).now = s.now + BitVec.ofInt 64 off ∧ (s.disciplined u off).tide.stepped = true ∧
      bit1 ((s.disciplined u off).rd .tideline .event 0) 3 = true ∧
      s.disciplined u off = { s with
        now := (s.disciplined u off).now, regs := (s.disciplined u off).regs, tide := (s.disciplined u off).tide,
        freeIx := (s.disciplined u off).freeIx } := by
  have he : s.disciplined u off = ((s.takesOffset u off).stepsCount off).settles (s.tide.nearAfter off)
    (s.tide.farAfter off) := by
    rw [State.disciplined_eq, h, if_pos rfl]
  have hw : (s.takesOffset u off).stepsCount off = { s with
      now := s.now + BitVec.ofInt 64 off, regs := ((s.takesOffset u off).stepsCount off).regs, freeIx := s.freeIx + 1 + 1
      tide := { s.tideAfter u off s.discState with stepped := true } } := by
    rw [State.stepsCount, State.writes_eq (State.writes_event (State.writes_refl _ _) 3 (List.Subset.refl _)),
      State.takesOffset_eq]
  refine ⟨?now, by rw [State.disciplined_tide, h]; rfl, ?event, ?rest⟩
  case now => rw [he, State.settles_rest, hw]
  case event =>
    rw [he]
    exact State.settles_bit_stays (State.raised_bit (State.raised_event _ _ 3) (by decide))
  case rest => rw [he, State.settles_rest, hw]

/-! ### The start of a tick (R26, R27, R30) -/

/-- The registers that a tick start writes. -/
def tickKeys : List Nat := [regKey .tideline .tickNow 0, regKey .tideline .tickEdgeTime 0]

/-- A write that waited takes effect (R27). -/
def Tide.takes (t : Tide) (w : TickWrite) : Tide :=
    if w.cfg then { t with cfg := w.value } else { t with period := w.value }

theorem Tide.foldl_takes (l : List TickWrite) (t : Tide) :
    (l.foldl Tide.takes t).missed = t.missed ∧ (l.foldl Tide.takes t).widened = t.widened := by
  induction l generalizing t with
  | nil => exact ⟨rfl, rfl⟩
  | cons w l ih =>
    have hw : (t.takes w).missed = t.missed ∧ (t.takes w).widened = t.widened := by
      unfold Tide.takes
      split <;> exact ⟨rfl, rfl⟩
    exact ⟨(ih _).1.trans hw.1, (ih _).2.trans hw.2⟩

/-- Configuration that takes effect leaves the count of missed edges, and whether the window is wide. -/
theorem Tide.apply_missed (t : Tide) (start : Nat) : (t.apply start).missed = t.missed ∧
    (t.apply start).widened = t.widened :=
  Tide.foldl_takes (t.waiting.filter (fun w => w.at_.toNat < start)) t

theorem Tide.apply_of_nil {t : Tide} (h : t.waiting = []) (start : Nat) : t.apply start = t := by
  cases t
  cases h
  rfl

/-- The ticks once one has begun at a time. -/
def State.tickTide (s : State) (start : Nat) : Tide :=
  { s.tide.apply start with running := true, armed := none, start := BitVec.ofNat 64 start }

/-- The index of the tick that begins. -/
def State.nextIndex (s : State) : Nat := if !s.tide.running then 0 else s.fld .tideline .tickNow 0 39 0 + 1

theorem State.beginTick_eq (s : State) (start : Nat) :
    s.beginTick start =
      ((({ s with tide := s.tickTide start }.setFld .tideline .tickNow 0 39 0 s.nextIndex).setFld .tideline .tickNow 0 47 40 0).wr
        .tideline .tickEdgeTime 0 (BitVec.ofNat 64 start)) := rfl

theorem State.writes_beginTick (s : State) (start : Nat) :
    { s with tide := s.tickTide start }.writes (s.beginTick start) tickKeys := by
  have hnow : regKey .tideline .tickNow 0 ∈ tickKeys := List.mem_cons_self ..
  have hedge : regKey .tideline .tickEdgeTime 0 ∈ tickKeys := List.mem_cons_of_mem _ (List.mem_singleton_self _)
  rw [State.beginTick_eq]
  exact State.writes_wr (State.writes_setFld (State.writes_setFld (State.writes_refl _ _) _ _ _ hnow) _ _ _ hnow) _ hedge

theorem State.beginTick_rest (s : State) (start : Nat) :
    s.beginTick start = { s with regs := (s.beginTick start).regs, tide := s.tickTide start } :=
  State.writes_eq (State.writes_beginTick s start)

theorem State.beginTick_tide (s : State) (start : Nat) : (s.beginTick start).tide = s.tickTide start := by
  rw [State.beginTick_rest]

theorem State.beginTick_tickNow (s : State) (start : Nat) :
    (s.beginTick start).rd .tideline .tickNow 0 = setBits (setBits (s.rd .tideline .tickNow 0) 39 0 s.nextIndex) 47 40 0 := by
  rw [State.beginTick_eq, State.rd_wr_other (regKey_ne (by decide)), State.rd_setFld_same, State.rd_setFld_same]
  rfl

/-- A tick start by itself, before what else happens at it. -/
theorem State.ticks_beginTick (s : State) (start : Nat) : s.ticks (s.beginTick start) start 0 [] := by
  have hrest := State.beginTick_rest s start
  refine {
    running := by rw [State.beginTick_tide]; rfl, began := by rw [State.beginTick_tide]; rfl
    edge := by rw [State.beginTick_eq, State.rd_wr_same], index := ?index, slot := ?slot, regs := (State.writes_beginTick s start).regs
    draws := fun _ => by rw [hrest], still := fun _ => by rw [hrest]; exact ⟨rfl, rfl, rfl⟩, rest := by rw [hrest] }
  case index =>
    rw [State.fld, State.beginTick_tickNow, bits_setBits_other (by decide) (by decide), bits_setBits_same (by decide),
      State.nextIndex]
    cases s.tide.running <;> simp
  case slot =>
    rw [State.fld, State.beginTick_tickNow, bits_setBits_same (by decide)]
    rfl

/-- Of the ticks before, only whether they ran matters to what a tick start is. -/
theorem State.ticks_of_tide {s t : State} {x : Tide} {start slot : Nat} {ks : List Nat} (h : { s with tide := x }.ticks t start slot ks)
    (hx : x.running = s.tide.running) : s.ticks t start slot ks where
  running := h.running
  began := h.began
  edge := h.edge
  index := hx ▸ h.index
  slot := h.slot
  regs := h.regs
  draws := h.draws
  still := h.still
  rest := h.rest

/-! ### What else happens at a tick start (R301, R416) -/

/-- From s to t only model versions and the memory that their weights stand in have changed. -/
def State.pins (s t : State) : Prop := t = { s with gulk := { s.gulk with models := t.gulk.models }, mem := t.mem, bad := t.bad }

theorem State.pins_refl (s : State) : s.pins s := rfl

theorem State.pins_trans {s t u : State} (h : s.pins t) (k : t.pins u) : s.pins u := by
  unfold State.pins at *
  rw [k, h]

theorem State.pins_setModel (s : State) (m v : Nat) (x : Option ModelV) : s.pins (s.setModel m v x) := rfl

theorem State.pins_foldl {α : Type} {f : State → α → State} (hf : ∀ s x, State.pins s (f s x)) (l : List α)
    (s : State) :
    s.pins (l.foldl f s) := by
  induction l generalizing s with
  | nil => exact State.pins_refl s
  | cons x l ih => exact State.pins_trans (hf s x) (ih _)

/-- A Ledge lies outside what Harbour caches. -/
theorem harbourAddr_ledgeAt (c : Fin 36) (o : Nat) : harbourAddr (ledgeAt c o) = false := by
  unfold harbourAddr ledgeAt ledgeBase
  exact decide_eq_false (by omega)

theorem State.pins_store_ledge (s : State) (c : Fin 36) (o : Nat) (bs : List Byte) :
    s.pins (s.store (ledgeAt c o) bs) := by
  rw [State.store_ledge s (harbourAddr_ledgeAt c o)]
  split
  · exact State.pins_refl s
  · rfl

/-- A version that is pinned takes its parts of Ledges alone. -/
theorem State.pins_takeHomes (s : State) (x : ModelV) (l : List (Nat × Nat × Nat)) :
    s.pins (s.takeHomes x (some l)).2 := by
  unfold State.takeHomes State.writeHomes
  exact State.pins_foldl (fun _ _ => State.pins_store_ledge _ _ _ _) _ _

theorem State.pins_pinnedSwitch (s : State) : s.pins s.pinnedSwitch := by
  unfold State.pinnedSwitch
  refine State.pins_foldl (fun s y => ?_) _ _
  dsimp only
  split
  · next x _ =>
    split
    · have hold := State.pins_foldl (fun s k => State.pins_setModel s (y.1 / 256) (k % 256)
      ((s.model (y.1 / 256) (k % 256)).map ModelV.cooled))
        ((s.gulk.models.filter (fun z => z.1 / 256 = y.1 / 256 ∧ z.1 ≠ y.1 ∧
          ((z.2.map (fun w => w.hot == .pinned)).getD false))).map (·.1)) s
      split
      · exact State.pins_trans hold (State.pins_trans (State.pins_takeHomes _ _ _) (State.pins_setModel _ _ _ _))
      · exact hold
    · exact State.pins_refl s
  · exact State.pins_refl s

/-- Where no version waits for a tick, none is pinned at one. -/
theorem State.pinnedSwitch_still {s : State} (h : ∀ y ∈ s.gulk.models, ∀ x, y.2 = some x → x.waitTick = false) :
    s.pinnedSwitch = s := by
  unfold State.pinnedSwitch
  refine foldl_fixed_of_mem (fun y hy => ?_)
  dsimp only
  split
  · next x hx =>
    rw [if_neg]
    rw [h y hy x hx]
    exact fun hw => Bool.false_ne_true hw.1
  · rfl

theorem State.tickWake_rest (s : State) :
    s.tickWake = { s with sys := { s.sys with wake := s.tickWake.sys.wake, dryTicks := s.tickWake.sys.dryTicks } } := by
  unfold State.tickWake
  split
  · rfl
  · dsimp only
    split
    · unfold State.wakes
      split <;> rfl
    · rfl

theorem State.pins_awake_pinnedSwitch (s : State) : s.pins (s.awake State.pinnedSwitch) := by
  unfold State.awake
  split
  · exact State.pins_refl s
  · exact State.pins_pinnedSwitch s

theorem State.awake_pinnedSwitch_still {s : State} (h : ∀ y ∈ s.gulk.models, ∀ x, y.2 = some x → x.waitTick = false) :
    s.awake State.pinnedSwitch = s := by
  unfold State.awake
  split
  · rfl
  · exact State.pinnedSwitch_still h

/-- What a tick start brings besides the tick: versions may be pinned, and in Dry the tick is counted. -/
theorem State.tickBegan_rest (s : State) :
    State.tickBegan (true, s) =
      let t := State.tickBegan (true, s)
      { s with
        gulk := { s.gulk with models := t.gulk.models }, mem := t.mem, bad := t.bad
        sys := { s.sys with wake := t.sys.wake, dryTicks := t.sys.dryTicks } } := by
  have he : State.tickBegan (true, s) = (s.awake State.pinnedSwitch).tickWake := rfl
  have hp := State.pins_awake_pinnedSwitch s
  rw [he]
  generalize s.awake State.pinnedSwitch = u at hp
  dsimp only
  rw [State.tickWake_rest u, hp]

theorem State.tickBegan_tide (s : State) : (State.tickBegan (true, s)).tide = s.tide := by rw [State.tickBegan_rest]

theorem State.tickBegan_regs (s : State) : (State.tickBegan (true, s)).regs = s.regs := by rw [State.tickBegan_rest]

theorem State.tickBegan_still {s : State} (h : ∀ y ∈ s.gulk.models, ∀ x, y.2 = some x → x.waitTick = false) :
    (State.tickBegan (true, s)).gulk = s.gulk ∧ s.memSame (State.tickBegan (true, s)) := by
  have he : State.tickBegan (true, s) = s.tickWake := congrArg State.tickWake (State.awake_pinnedSwitch_still h)
  rw [he, State.tickWake_rest]
  exact ⟨rfl, rfl, rfl⟩

/-- It leaves the tick itself. -/
theorem State.ticks_tickBegan {s t : State} {start slot : Nat} {ks : List Nat} (h : s.ticks t start slot ks) :
    s.ticks (State.tickBegan (true, t)) start slot ks where
  running := by rw [State.tickBegan_tide, h.running]
  began := by rw [State.tickBegan_tide, h.began]
  edge := by rw [State.rd_congr (State.tickBegan_regs t), h.edge]
  index := by rw [State.fld_congr (State.rd_congr (State.tickBegan_regs t) ..), h.index]
  slot := by rw [State.fld_congr (State.rd_congr (State.tickBegan_regs t) ..), h.slot]
  regs := fun k hk => by rw [State.reg_congr (State.tickBegan_regs t), h.regs k hk]
  draws := fun hk => by rw [State.tickBegan_rest, h.draws hk]
  still := fun hm => by
    obtain ⟨hg, hmem, hbad⟩ := h.still hm
    obtain ⟨hg', hmem', hbad'⟩ := State.tickBegan_still (s := t) (by rw [hg]; exact hm)
    exact ⟨hg'.trans hg, hmem'.trans hmem, hbad'.trans hbad⟩
  rest := by
    have hr := h.rest
    rw [State.tickBegan_rest, hr]

/-! ### The slot of a tick (R27) -/

theorem State.ticks_setSlot {s t : State} {start slot : Nat} {ks : List Nat} (h : s.ticks t start slot ks) (n : Nat) :
    s.ticks (t.setFld .tideline .tickNow 0 47 40 n) start n ks where
  running := by rw [State.setFld_tide, h.running]
  began := by rw [State.setFld_tide, h.began]
  edge := by rw [State.rd_setFld_other (regKey_ne (by decide)), h.edge]
  index := by rw [State.fld_setFld_other (by decide) (by decide), h.index]
  slot := State.fld_setFld_same (by decide)
  regs := State.regsBut_wr h.regs (List.mem_cons_self ..)
  draws := fun hk => by rw [State.setFld_freeIx, h.draws hk]
  still := fun hm => by
    rw [State.setFld_gulk, State.memSame, State.setFld_mem, State.setFld_bad]
    exact h.still hm
  rest := by
    have hr := h.rest
    rw [State.writes_eq (State.writes_setFld (State.writes_refl t [regKey .tideline .tickNow 0]) _ _ _ (List.mem_singleton_self _)), hr]

/-- A slot that begins shows in TICK_NOW alone. -/
theorem State.nextSlot_writes (s : State) : s.writes s.nextSlot [regKey .tideline .tickNow 0] := by
  unfold State.nextSlot
  dsimp only
  split
  · exact State.writes_setFld (State.writes_refl s _) _ _ _ (List.mem_singleton_self _)
  · exact State.writes_refl s _

/-! ### What an edge tells the discipline (R24) -/

/-- From s to t the discipline may have learnt something: its registers, counts and rate, and the free values drawn. -/
structure State.told (s t : State) : Prop where
  regs : s.regsBut t discKeys
  running : t.tide.running = s.tide.running
  start : t.tide.start = s.tide.start
  missed : t.tide.missed = s.tide.missed
  widened : t.tide.widened = s.tide.widened
  rest : t = { s with regs := t.regs, tide := t.tide, freeIx := t.freeIx }

theorem State.told_refl (s : State) : s.told s := ⟨State.regsBut_refl rfl _, rfl, rfl, rfl, rfl, rfl⟩

theorem State.told_disciplined {s : State} {u : DiscUse} {off : Int} (h : s.mayStep u off = false) :
    s.told (s.disciplined u off) where
  regs := State.regsBut_disciplined s u off
  running := by rw [State.disciplined_tide]
  start := by rw [State.disciplined_tide]
  missed := by rw [State.disciplined_tide]
  widened := by rw [State.disciplined_tide]
  rest := (State.measures_disciplined h).rest

theorem State.mayStep_edge (s : State) (freq phase : Bool) (off : Int) : s.mayStep ⟨freq, phase, false⟩ off = false := by
  simp [State.mayStep]

theorem State.told_edgeMeasured (s : State) (expected at_ : Nat) : s.told (s.edgeMeasured expected at_) := by
  unfold State.edgeMeasured
  dsimp only
  split
  · exact State.told_refl s
  · split
    · exact State.told_disciplined (State.mayStep_edge ..)
    · split
      · exact State.told_refl s
      · exact ⟨State.regsBut_refl rfl _, rfl, rfl, rfl, rfl, rfl⟩

/-- In modes FREE and PTP, and while standby is lost, an edge tells the discipline nothing. -/
theorem State.edgeMeasured_silent {s : State} (h : s.edgeTells = false) (expected at_ : Nat) :
    s.edgeMeasured expected at_ = s := by
  unfold State.edgeMeasured
  dsimp only
  rw [if_pos]
  simp only [State.edgeTells, Bool.and_eq_false_imp, decide_eq_true_eq] at h
  by_cases hm : 2 ≤ s.fld .tideline .discCtrl 0 1 0
  · exact Or.inr (by simp [h hm])
  · exact Or.inl (by omega)

/-- In mode TICK an edge is the reference, unless the phase follows a Tideway port (R24, R338). -/
theorem State.edgeMeasured_tick {s : State} (hm : s.fld .tideline .discCtrl 0 1 0 = 2) (hs : s.standby = true)
    (hf : s.timeFollows = false) (expected at_ : Nat) :
    s.edgeMeasured expected at_ = s.disciplined ⟨true, false, false⟩ ((expected : Int) - (at_ : Int)) := by
  simp [State.edgeMeasured, hm, hs, hf]

theorem discKeys_not_tickKeys : ∀ k ∈ tickKeys, k ∉ discKeys := by decide

theorem State.ticks_told {s t u : State} {start slot : Nat} (h : s.ticks t start slot []) (k : t.told u) :
    s.ticks u start slot discKeys := by
  have hrest := k.rest
  have htick : u.rd .tideline .tickNow 0 = t.rd .tideline .tickNow 0 :=
    k.regs _ (discKeys_not_tickKeys _ (List.mem_cons_self ..))
  refine {
    running := k.running.trans h.running, began := k.start.trans h.began
    edge := (k.regs _ (discKeys_not_tickKeys _ (List.mem_cons_of_mem _ (List.mem_singleton_self _)))).trans h.edge
    index := (State.fld_congr htick ..).trans h.index, slot := (State.fld_congr htick ..).trans h.slot
    regs := fun x hx => ?regs, draws := fun hk => absurd hk (List.cons_ne_nil _ _), still := fun hm => ?still, rest := ?rest }
  case regs =>
    have ht : x ∉ tickKeys ∧ x ∉ discKeys := by simpa [tickKeys, not_or, and_assoc] using hx
    exact (k.regs x ht.2).trans (h.regs x ht.1)
  case still =>
    rw [hrest]
    exact h.still hm
  case rest =>
    have hr := h.rest
    rw [hrest, hr]

theorem State.edgeTells_congr {s t : State} (hd : t.rd .tideline .discCtrl 0 = s.rd .tideline .discCtrl 0)
    (hs : t.standby = s.standby) :
    t.edgeTells = s.edgeTells := by
  rw [State.edgeTells, State.fld_congr hd, hs, State.edgeTells]

/-- The registers that an edge which begins a tick writes beside those of the tick. -/
def State.edgeKeys (s : State) : List Nat := if s.edgeTells then discKeys else []

theorem discCtrl_not_tickKeys : regKey .tideline .discCtrl 0 ∉ tickKeys := by decide

theorem State.ticks_standby {s t : State} {start slot : Nat} {ks : List Nat} (h : s.ticks t start slot ks) :
    t.standby = s.standby := by
  rw [h.rest]

theorem State.ticks_edgeMeasured {s t : State} {start slot : Nat} (h : s.ticks t start slot []) (expected at_ : Nat) :
    s.ticks (t.edgeMeasured expected at_) start slot s.edgeKeys := by
  have htells : t.edgeTells = s.edgeTells :=
    State.edgeTells_congr (h.regs _ discCtrl_not_tickKeys) (State.ticks_standby h)
  unfold State.edgeKeys
  rw [← htells]
  split
  · exact State.ticks_told h (State.told_edgeMeasured t expected at_)
  · next hn => rwa [State.edgeMeasured_silent (by simpa using hn)]

/-! ### Edges (R26) -/

/-- The edge lies within the acceptance window, which is the whole period after TICK_LOST (R26). -/
def Tide.accepts (t : Tide) (at_ : Nat) : Prop :=
  t.widened = true ∨ (t.expected ≤ at_ + t.tolerance ∧ at_ ≤ t.expected + t.tolerance)

/-- The ticks once an edge has come: no edge is missed. -/
def State.edgeCame (s : State) : State := { s with tide := { s.tide with missed := 0, widened := false } }

theorem State.tickEdge_accepts {s : State} {at_ : Nat} (hi : s.tide.internal = false) (hp : s.tide.per ≠ 0)
    (hr : s.tide.running = true) (ha : s.tide.accepts at_) : s.tickEdge at_ = (true, s.edgeCame.beginTick at_) := by
  have hw : (s.tide.widened || (decide (s.tide.expected ≤ at_ + s.tide.tolerance) && decide (at_ ≤ s.tide.expected + s.tide.tolerance))) = true := by
    simpa [Tide.accepts] using ha
  unfold State.tickEdge
  dsimp only
  rw [if_neg (by simp [hi, hp]), if_neg (by simp [hr]), if_pos hw]
  rfl

theorem State.tickEdge_rejects {s : State} {at_ : Nat} (hi : s.tide.internal = false) (hp : s.tide.per ≠ 0)
    (hr : s.tide.running = true) (ha : ¬s.tide.accepts at_) : s.tickEdge at_ = (false, s.event .tideline 4) := by
  have hw : ¬(s.tide.widened || (decide (s.tide.expected ≤ at_ + s.tide.tolerance) && decide (at_ ≤ s.tide.expected + s.tide.tolerance))) = true := by
    simpa [Tide.accepts] using ha
  unfold State.tickEdge
  dsimp only
  rw [if_neg (by simp [hi, hp]), if_neg (by simp [hr]), if_neg hw]

theorem State.tickEdge_first {s : State} {at_ : Nat} (hi : s.tide.internal = false) (hp : s.tide.per ≠ 0)
    (hr : s.tide.running = false)
    (ha : s.tide.armed.isSome = true) : s.tickEdge at_ = (true, s.edgeCame.beginTick at_) := by
  unfold State.tickEdge
  dsimp only
  rw [if_neg (by simp [hi, hp]), if_pos (by simp [hr]), if_pos ha]
  rfl

theorem State.ticks_edge (s : State) (at_ : Nat) : s.ticks (s.edgeCame.beginTick at_) at_ 0 [] :=
  State.ticks_of_tide (x := { s.tide with missed := 0, widened := false }) (State.ticks_beginTick s.edgeCame at_) rfl

theorem State.tickEdge_true {s : State} {at_ : Nat} (h : (s.tickEdge at_).1 = true) :
    s.tickEdge at_ = (true, s.edgeCame.beginTick at_) := by
  unfold State.tickEdge at h ⊢
  dsimp only at h ⊢
  split
  · next hi => rw [if_pos hi] at h; cases h
  · next hi =>
    rw [if_neg hi] at h
    split
    · next hr =>
      rw [if_pos hr] at h
      split
      · rfl
      · next ha => rw [if_neg ha] at h; cases h
    · next hr =>
      rw [if_neg hr] at h
      split
      · rfl
      · next ha => rw [if_neg ha] at h; cases h

theorem exec_tickInEdge_running {s : State} {j : Fin 3} {at_ : Nat} (ha : at_ = s.now.toNat + j.val - 1)
    (hr : s.tide.running = true) (h : s.tickEdge at_ = (true, s.edgeCame.beginTick at_)) :
    exec (.tickInEdge j) s = .next (State.tickBegan (true,
      (s.edgeCame.beginTick at_).edgeMeasured s.tide.expected at_)) := by
  rw [exec_tickInEdge, execTickInEdge, ← ha, State.edgeComes, h, hr]
  rfl

theorem exec_tickInEdge_other {s : State} {j : Fin 3} {at_ : Nat} (ha : at_ = s.now.toNat + j.val - 1)
    (h : (s.tickEdge at_).1 = false ∨ s.tide.running = false) :
    exec (.tickInEdge j) s = .next (State.tickBegan (s.tickEdge at_)) := by
  rw [exec_tickInEdge, execTickInEdge, ← ha, State.edgeComes, if_neg (by rcases h with h | h <;> simp [h])]

/-! ### Ticks of the internal period, windows that close, and slots (R26, R27) -/

theorem State.tickInternal_running {s : State} (hi : s.tide.internal = true) (hp : s.tide.per ≠ 0)
    (hr : s.tide.running = true)
    (hn : s.tide.expected ≤ s.now.toNat) : s.tickInternal = (true, s.beginTick s.tide.expected) := by
  simp [State.tickInternal, hi, hp, hr, hn]

theorem State.tickInternal_first {s : State} {w : Word} (hi : s.tide.internal = true) (hp : s.tide.per ≠ 0)
    (hr : s.tide.running = false) (ha : s.tide.armed = some w) (hn : firstMultiple s.tide.per w.toNat ≤ s.now.toNat) :
    s.tickInternal = (true, s.beginTick (firstMultiple s.tide.per w.toNat)) := by
  simp [State.tickInternal, hi, hp, hr, ha, hn]

/-- The ticks once an edge has been missed. -/
def State.edgeMissed (s : State) : State := { s with tide := { s.tide with missed := s.tide.missed + 1 } }

/-- The window has closed on a tick whose missed edge does not lead to TICK_LOST. -/
theorem State.tickWindow_missed {s : State} (hi : s.tide.internal = false) (hp : s.tide.per ≠ 0)
    (hr : s.tide.running = true) (hw : s.tide.widened = false) (hm : s.tide.missed + 1 < s.tide.limit)
    (hn : s.tide.expected + s.tide.tolerance ≤ s.now.toNat) :
    s.tickWindow = (true, (s.edgeMissed.beginTick s.tide.expected).setFld .tideline .tickNow 0 47 40
      (s.edgeMissed.beginTick s.tide.expected).slotNow) := by
  have hlost : (!s.tide.widened && decide (s.tide.limit ≤ s.tide.missed + 1)) = false := by
    simp [hw, hm]
  unfold State.tickWindow
  dsimp only
  rw [hlost, if_neg Bool.false_ne_true, Bool.or_false]
  rw [if_neg (by simp [hi, hp, hr, hw]; omega)]
  rfl

/-- The slot of a tick that began at its expected time, while no configuration waited. -/
theorem State.slotNow_beginTick {s : State} (hq : s.tide.waiting = []) {start : Nat} (hs : start < 2 ^ 64) :
    (s.beginTick start).slotNow = min (s.tide.slots - 1) ((s.now.toNat - start) / max 1 s.tide.slotLen) := by
  have hnow : (s.beginTick start).now = s.now := by rw [State.beginTick_rest]
  rw [State.slotNow, State.beginTick_tide, hnow, State.tickTide, Tide.apply_of_nil hq]
  have hstart : (BitVec.ofNat 64 start).toNat = start := by
    rw [BitVec.toNat_ofNat]
    exact Nat.mod_eq_of_lt hs
  rw [hstart]
  rfl

/-- Where no cycle of self-test is looked for, none is found overdue. -/
theorem State.overdueNow_off {s : State} (h : bit1 (s.rd .selfTest .stCtrl 0) 2 = false) : s.overdueNow = s := by
  simp [State.overdueNow, h]

theorem State.awake_overdueNow {s : State} (h : s.sys.dry = true ∨ bit1 (s.rd .selfTest .stCtrl 0) 2 = false) :
    s.awake State.overdueNow = s := by
  unfold State.awake
  split
  · rfl
  · next ha =>
    rcases h with hd | hb
    · simp [hd] at ha
    · exact State.overdueNow_off hb

theorem Tide.slots_le (t : Tide) : t.slots ≤ 256 := by
  have := bits_lt t.cfg 7 0
  unfold Tide.slots
  omega

theorem State.nextSlot_due {s : State} (hr : s.tide.running = true)
    (hs : s.fld .tideline .tickNow 0 47 40 + 1 < s.tide.slots)
    (hn : s.tide.start.toNat + (s.fld .tideline .tickNow 0 47 40 + 1) * s.tide.slotLen ≤ s.now.toNat) :
    s.nextSlot = s.setFld .tideline .tickNow 0 47 40 (s.fld .tideline .tickNow 0 47 40 + 1) := if_pos ⟨hr, hs, hn⟩

/-! ### The configuration of ticks (R27, R34) -/

/-- A field that a write covers takes the bits written. -/
theorem bits_written {w v m : Word} {hi lo : Nat} (hm : ∀ b, b ≤ hi → lo ≤ b → m.getLsbD b = true) :
    bits ((w &&& ~~~ m) ||| (v &&& m)) hi lo = bits v hi lo := by
  refine Nat.eq_of_testBit_eq (fun j => ?_)
  rw [testBit_bits, testBit_bits]
  by_cases hj : j < hi + 1 - lo
  · simp [hm (lo + j) (by omega) (by omega)]
  · simp [hj]

theorem period_mask : ∀ b ≤ 31, (RegName.mask .tickinPeriod .rw).getLsbD b = true := by decide

/-- What a register of the tick configuration holds after a write (R10). -/
def State.written (s : State) (p : Pg) (r : RegName) (v : Word) : Word :=
    (s.rd p r 0 &&& ~~~ r.mask .rw) ||| (v &&& r.mask .rw)

theorem State.bits_written_period (s : State) (v : Word) :
    bits (s.written .tideline .tickinPeriod v) 31 0 = bits v 31 0 :=
  bits_written (fun b hb _ => period_mask b hb)

theorem State.wrRw_tide (s : State) (p : Pg) (r : RegName) (i : Nat) (v : Word) : (s.wrRw p r i v).tide = s.tide := rfl

theorem State.wrRw_now (s : State) (p : Pg) (r : RegName) (i : Nat) (v : Word) : (s.wrRw p r i v).now = s.now := rfl

theorem State.tickConfig_rest (s : State) (cfg : Bool) (v : Word) :
    s.tickConfig cfg v = { s with tide := (s.tickConfig cfg v).tide } := by
  unfold State.tickConfig
  dsimp only
  split
  · rfl
  · split <;> rfl

/-- A write of a register of the tick configuration writes that register, and the ticks. -/
theorem State.tickConfig_written (s : State) (cfg : Bool) (r : RegName) (v : Word) :
    let t := (s.wrRw .tideline r 0 v).tickConfig cfg (s.written .tideline r v)
    t.rd .tideline r 0 = s.written .tideline r v ∧ s.regsBut t [regKey .tideline r 0] ∧
      t = { s with regs := t.regs, tide := t.tide } := by
  obtain ⟨hrd, hregs, hrest⟩ := State.wrRw_result s s .tideline r 0 v rfl
  generalize s.wrRw .tideline r 0 v = u at hrd hregs hrest
  have ht := State.tickConfig_rest u cfg (s.written .tideline r v)
  dsimp only
  generalize u.tickConfig cfg (s.written .tideline r v) = t at ht
  have hreg : t.regs = u.regs := by rw [ht]
  refine ⟨(State.rd_congr hreg ..).trans hrd, fun k hk => (State.reg_congr hreg k).trans (hregs k hk), ?_⟩
  rw [ht, hrest]

theorem exec_tickinPeriodWrite_taken {s : State} {v : Word} (hs : s.standby = true)
    (hv : ¬(1 ≤ bits v 31 0 ∧ bits v 31 0 ≤ 3999)) :
    exec (.tickinPeriodWrite v) s = .next ((s.wrRw .tideline .tickinPeriod 0 v).tickConfig false (s.written .tideline .tickinPeriod v)) := by
  rw [exec_tickinPeriodWrite, execTickinPeriodWrite, hs, if_pos rfl, State.tickinPeriodWrite, if_neg hv]
  dsimp only
  rw [State.wrRw, State.rd_wr_same]
  rfl

theorem exec_tickCfgWrite_taken {s : State} {v : Word} (hs : s.standby = true) :
    exec (.tickCfgWrite v) s = .next ((s.wrRw .tideline .tickCfg 0 v).tickConfig true (s.written .tideline .tickCfg v)) := by
  rw [exec_tickCfgWrite, execTickCfgWrite, hs, if_pos rfl, State.tickCfgWrite]
  rw [State.wrRw, State.rd_wr_same]
  rfl

/-- A period of 0 ends the running tick at once (R27). -/
theorem State.tickConfig_end {s : State} {v : Word} (h : bits v 31 0 = 0) :
    (s.tickConfig false v).tide.running = false ∧ (s.tickConfig false v).tide.armed = none ∧
    (s.tickConfig false v).tide.per = 0 ∧
      (s.tickConfig false v).tide.waiting = [] := by
  unfold State.tickConfig
  dsimp only
  rw [if_pos ⟨rfl, h⟩]
  exact ⟨rfl, rfl, h, rfl⟩

/-- While ticks run, configuration waits for the first tick start after it (R27). -/
theorem State.tickConfig_running {s : State} {cfg : Bool} {v : Word} (h : cfg = true ∨ bits v 31 0 ≠ 0)
    (hr : s.tide.running = true) :
    (s.tickConfig cfg v).tide = { s.tide with waiting := s.tide.waiting ++ [⟨s.now, cfg, v⟩] } := by
  unfold State.tickConfig
  dsimp only
  rw [if_neg (by rcases h with h | h <;> simp [h]), if_pos hr]

/-- While there are no ticks a period takes effect at once, and arms the first tick (R27). -/
theorem State.tickConfig_arms {s : State} {v : Word} (h : bits v 31 0 ≠ 0) (hr : s.tide.running = false) :
    (s.tickConfig false v).tide = { s.tide with period := v, armed := some s.now, missed := 0, widened := false } := by
  unfold State.tickConfig
  dsimp only
  rw [if_neg (by simp [h]), if_neg (by simp [hr])]
  exact if_neg h

theorem State.tickConfig_cfg {s : State} {v : Word} (hr : s.tide.running = false) :
    (s.tickConfig true v).tide.cfg = v ∧ (s.tickConfig true v).tide.period = s.tide.period := by
  unfold State.tickConfig
  dsimp only
  rw [if_neg (by simp), if_neg (by simp [hr])]
  by_cases hp : ({ s.tide with cfg := v } : Tide).per = 0
  · exact (if_pos hp).symm ▸ ⟨rfl, rfl⟩
  · exact (if_neg hp).symm ▸ ⟨rfl, rfl⟩

/-! ### The commands of ticks -/

/-- An edge inside the window begins a tick, and tells the discipline of it. -/
theorem exec_tickInEdge_accepted {s : State} {j : Fin 3} {at_ : Nat} (hat : at_ = s.now.toNat + j.val - 1)
    (hi : s.tide.internal = false) (hp : s.tide.per ≠ 0) (hr : s.tide.running = true) (ha : s.tide.accepts at_) :
    ∃ t, exec (.tickInEdge j) s = .next t ∧ t.tide.missed = 0 ∧ t.tide.widened = false ∧ s.ticks t at_ 0 s.edgeKeys := by
  have htold := State.told_edgeMeasured (s.edgeCame.beginTick at_) s.tide.expected at_
  obtain ⟨hm, hw⟩ := Tide.apply_missed s.edgeCame.tide at_
  refine ⟨_, exec_tickInEdge_running hat hr (State.tickEdge_accepts hi hp hr ha), ?missed, ?widened,
    State.ticks_tickBegan (State.ticks_edgeMeasured (State.ticks_edge s at_) s.tide.expected at_)⟩
  case missed =>
    rw [State.tickBegan_tide, htold.missed, State.beginTick_tide]
    exact hm
  case widened =>
    rw [State.tickBegan_tide, htold.widened, State.beginTick_tide]
    exact hw

/-- An edge outside the window is ignored, with TICK_EDGE_REJECT. -/
theorem exec_tickInEdge_rejected {s : State} {j : Fin 3} {at_ : Nat} (hat : at_ = s.now.toNat + j.val - 1)
    (hi : s.tide.internal = false) (hp : s.tide.per ≠ 0) (hr : s.tide.running = true) (ha : ¬s.tide.accepts at_) :
    exec (.tickInEdge j) s = .next (s.event .tideline 4) := by
  have he := State.tickEdge_rejects hi hp hr ha
  rw [exec_tickInEdge_other hat (Or.inl (by rw [he])), he]
  rfl

/-- A window that closes without an edge begins the tick at its expected time, with its slot counted from there. -/
theorem exec_tickWindowClose_missed {s : State} (hi : s.tide.internal = false) (hp : s.tide.per ≠ 0)
    (hr : s.tide.running = true)
    (hw : s.tide.widened = false) (hq : s.tide.waiting = []) (hm : s.tide.missed + 1 < s.tide.limit)
    (hn : s.tide.expected + s.tide.tolerance ≤ s.now.toNat) (hx : s.tide.expected < 2 ^ 64) :
    ∃ t, exec .tickWindowClose s = .next t ∧ t.tide.missed = s.tide.missed + 1 ∧
      s.ticks t s.tide.expected (min (s.tide.slots - 1)
        ((s.now.toNat - s.tide.expected) / max 1 s.tide.slotLen)) [] := by
  have hslot := State.slotNow_beginTick (s := s.edgeMissed) hq hx
  have hticks := State.ticks_setSlot (State.ticks_of_tide (State.ticks_beginTick s.edgeMissed s.tide.expected) rfl)
    (s.edgeMissed.beginTick s.tide.expected).slotNow
  refine ⟨_, by rw [exec_tickWindowClose, execTickWindowClose, State.tickWindow_missed hi hp hr hw hm hn], ?missed,
    ?ticks⟩
  case missed =>
    rw [State.tickBegan_tide, State.setFld_tide, State.beginTick_tide, State.tickTide,
      Tide.apply_of_nil (t := s.edgeMissed.tide) hq]
    rfl
  case ticks =>
    rw [hslot] at hticks ⊢
    exact State.ticks_tickBegan hticks

/-- A slot that is due shows in TICK_NOW alone, where no cycle of self-test is found overdue. -/
theorem exec_slotStart_due {s : State} (hr : s.tide.running = true)
    (hs : s.fld .tideline .tickNow 0 47 40 + 1 < s.tide.slots)
    (ho : s.sys.dry = true ∨ bit1 (s.rd .selfTest .stCtrl 0) 2 = false)
    (hn : s.tide.start.toNat + (s.fld .tideline .tickNow 0 47 40 + 1) * s.tide.slotLen ≤ s.now.toNat) :
    ∃ t, exec .slotStart s = .next t ∧ t.fld .tideline .tickNow 0 47 40 = s.fld .tideline .tickNow 0 47 40 + 1 ∧
      t.fld .tideline .tickNow 0 39 0 = s.fld .tideline .tickNow 0 39 0 ∧ s.regsBut t [regKey .tideline .tickNow 0] ∧
      t = { s with regs := t.regs } := by
  have he := State.nextSlot_due hr hs hn
  have hw := State.nextSlot_writes s
  have hctrl : s.nextSlot.rd .selfTest .stCtrl 0 = s.rd .selfTest .stCtrl 0 := State.writes_rd hw (by decide)
  have hsys : s.nextSlot.sys = s.sys := by rw [State.writes_eq hw]
  have hslots := s.tide.slots_le
  refine ⟨s.nextSlot, ?runs, ?slot, ?index, hw.regs, State.writes_eq hw⟩
  case runs => rw [exec_slotStart, execSlotStart, State.awake_overdueNow (by rwa [hctrl, hsys])]
  case slot =>
    rw [he, State.fld_setFld_same (by decide)]
    exact Nat.mod_eq_of_lt (by omega)
  case index => rw [he, State.fld_setFld_other (by decide) (by decide)]

/-- A period of 4,000 or more waits for a tick start, or arms the first one. -/
theorem exec_tickinPeriodWrite_period {s : State} {v : Word} (hs : s.standby = true) (hv : 3999 < bits v 31 0) :
    ∃ t, exec (.tickinPeriodWrite v) s = .next t ∧
      t.rd .tideline .tickinPeriod 0 = s.written .tideline .tickinPeriod v ∧
      s.regsBut t [regKey .tideline .tickinPeriod 0] ∧ t = { s with regs := t.regs, tide := t.tide } ∧
      t.tide = (if s.tide.running then
          { s.tide with waiting := s.tide.waiting ++ [⟨s.now, false, s.written .tideline .tickinPeriod v⟩] }
        else { s.tide with period := s.written .tideline .tickinPeriod v, armed := some s.now, missed := 0, widened := false }) := by
  have hne : bits (s.written .tideline .tickinPeriod v) 31 0 ≠ 0 := by
    rw [State.bits_written_period]
    omega
  obtain ⟨hrd, hregs, hrest⟩ := State.tickConfig_written s false .tickinPeriod v
  refine ⟨_, exec_tickinPeriodWrite_taken hs (by omega), hrd, hregs, hrest, ?_⟩
  rw [← State.wrRw_tide s .tideline .tickinPeriod 0 v, ← State.wrRw_now s .tideline .tickinPeriod 0 v]
  split
  · next hr => exact State.tickConfig_running (Or.inr hne) hr
  · next hr => exact State.tickConfig_arms hne (by simpa using hr)

/-- A write of TICK_CFG waits for a tick start while ticks run, and takes effect at once otherwise. -/
theorem exec_tickCfgWrite_result {s : State} {v : Word} (hs : s.standby = true) :
    ∃ t, exec (.tickCfgWrite v) s = .next t ∧ t.rd .tideline .tickCfg 0 = s.written .tideline .tickCfg v ∧
      s.regsBut t [regKey .tideline .tickCfg 0] ∧ t = { s with regs := t.regs, tide := t.tide } ∧
      (s.tide.running = true → t.tide = { s.tide with waiting := s.tide.waiting ++ [⟨s.now, true, s.written .tideline .tickCfg v⟩] }) ∧
      (s.tide.running = false → t.tide.cfg = s.written .tideline .tickCfg v ∧ t.tide.period = s.tide.period) := by
  obtain ⟨hrd, hregs, hrest⟩ := State.tickConfig_written s true .tickCfg v
  refine ⟨_, exec_tickCfgWrite_taken hs, hrd, hregs, hrest, ?_⟩
  rw [← State.wrRw_tide s .tideline .tickCfg 0 v, ← State.wrRw_now s .tideline .tickCfg 0 v]
  exact ⟨State.tickConfig_running (Or.inl rfl), State.tickConfig_cfg⟩

/-- Settles O25: each row comes down to one tick start, what an edge tells the discipline, and what waits for a
tick start. -/
theorem tickResults : Obligations.TickResults := by
  unfold Obligations.TickResults
  refine ⟨fun s j at_ hat hp => ⟨fun hi hr ha => exec_tickInEdge_accepted hat hi hp hr ha, ?rejected, ?first,
    ?internal, ?internalFirst,
    fun hi hr hw hq hm hn hx => exec_tickWindowClose_missed hi hp hr hw hq hm hn hx, exec_slotStart_due⟩,
    fun s v hs => ⟨?ignored, ?ended, ?period, ?config⟩⟩
  case rejected =>
    intro hi hr hw ha
    have hout : ¬s.tide.accepts at_ := fun h => h.elim (fun h => by simp [hw] at h) ha
    have he := State.writes_event (State.writes_refl s _) 4 (List.Subset.refl (eventKeys .tideline))
    exact ⟨_, exec_tickInEdge_rejected hat hi hp hr hout, State.raised_event .., he.regs, State.writes_eq he⟩
  case first =>
    intro hi hr ha
    refine ⟨_, ?_, State.ticks_tickBegan (State.ticks_edge s at_)⟩
    rw [exec_tickInEdge_other hat (Or.inr hr), State.tickEdge_first hi hp hr ha]
  case internal =>
    intro hi hr hn
    refine ⟨_, ?_, State.ticks_tickBegan (State.ticks_beginTick s s.tide.expected)⟩
    rw [exec_tickStart, execTickStart, State.tickInternal_running hi hp hr hn]
  case internalFirst =>
    intro w hi hr ha hn
    refine ⟨_, ?_, State.ticks_tickBegan (State.ticks_beginTick s _)⟩
    rw [exec_tickStart, execTickStart, State.tickInternal_first hi hp hr ha hn]
  case ignored =>
    intro h1 h2
    rw [exec_tickinPeriodWrite, execTickinPeriodWrite, hs, if_pos rfl, State.tickinPeriodWrite, if_pos ⟨h1, h2⟩]
  case ended =>
    intro h0
    obtain ⟨-, hregs, hrest⟩ := State.tickConfig_written s false .tickinPeriod v
    obtain ⟨hr, ha, hp, hq⟩ := State.tickConfig_end (s := s.wrRw .tideline .tickinPeriod 0 v)
      (v := s.written .tideline .tickinPeriod v) ((State.bits_written_period s v).trans h0)
    exact ⟨_, exec_tickinPeriodWrite_taken hs (by omega), hr, ha, hp, hq, hregs, hrest⟩
  case period =>
    rintro w rfl hv
    exact exec_tickinPeriodWrite_period hs hv
  case config =>
    rintro w rfl
    exact exec_tickCfgWrite_result hs

/-! ### Measurements and the loss of the reference (R24, R25, R408) -/

/-- A measurement on a port is heard: in modes PTP and TICK_PTP, on the port that DISC_CTRL names, whose link is up
(R24). -/
def State.hears (s : State) (port : Fin 4) : Prop :=
  s.fld .tideline .discCtrl 0 1 0 % 2 = 1 ∧ s.standby = true ∧ port.val = s.fld .tideline .discCtrl 0 3 2 ∧
    s.linkUp port = true

theorem exec_referenceMeasurement_heard {s : State} {port : Fin 4} {off : Word} (h : s.hears port) :
    exec (.referenceMeasurement port off) s =
      .next (s.disciplined ⟨decide (s.fld .tideline .discCtrl 0 1 0 = 1), true, true⟩ off.toInt) := by
  rw [exec_referenceMeasurement, execReferenceMeasurement]
  exact congrArg _ (if_pos h)

theorem exec_referenceMeasurement_unheard {s : State} {port : Fin 4} {off : Word} (h : ¬s.hears port) :
    exec (.referenceMeasurement port off) s = .next s := by
  rw [exec_referenceMeasurement, execReferenceMeasurement]
  exact congrArg _ (if_neg h)

/-- A measurement that is heard may step the count once, before the discipline has locked (R23). -/
theorem State.mayStep_iff (s : State) (freq phase : Bool) (off : Int) :
    s.mayStep ⟨freq, phase, true⟩ off = true ↔
      s.tide.locked = false ∧ s.tide.stepped = false ∧ bit1 (s.rd .tideline .discCtrl 0) 4 = true ∧ 4000000 < off := by
  simp [State.mayStep, and_assoc]

/-- Nothing that a tick start writes bears on what the discipline follows. -/
theorem State.timeFollows_congr {s t : State} (hw : t.rd .tideway .twCtrl 0 = s.rd .tideway .twCtrl 0)
    (hd : t.rd .tideline .discCtrl 0 = s.rd .tideline .discCtrl 0) : t.timeFollows = s.timeFollows := by
  rw [State.timeFollows, hw, State.fld_congr hd, State.timeFollows]

theorem twCtrl_not_tickKeys : regKey .tideway .twCtrl 0 ∉ tickKeys := by decide

/-- An accepted edge in mode TICK is a measurement of what it is early or late by (R24). -/
theorem State.edgeMeasured_beginTick {s : State} {start : Nat} (hm : s.fld .tideline .discCtrl 0 1 0 = 2)
    (hs : s.standby = true) (hf : s.timeFollows = false) (expected at_ : Nat) :
    (s.beginTick start).edgeMeasured expected at_ =
      (s.beginTick start).disciplined ⟨true, false, false⟩ ((expected : Int) - (at_ : Int)) := by
  have hticks := State.ticks_beginTick s start
  have hdisc := hticks.regs _ discCtrl_not_tickKeys
  refine State.edgeMeasured_tick ?mode ?standby ?free expected at_
  case mode => rw [State.fld_congr hdisc, hm]
  case standby => rw [State.ticks_standby hticks, hs]
  case free => rw [State.timeFollows_congr (hticks.regs _ twCtrl_not_tickKeys) hdisc, hf]

/-- The loss of the reference in ACQUIRING or LOCKED leads to HOLDOVER (R25). -/
theorem exec_referenceLost_result {s : State} (hs : s.standby = true) (hd : s.discState = 1 ∨ s.discState = 2) :
    ∃ t, exec .referenceLost s = .next t ∧ t.discState = 3 ∧ t.tide = { s.tide with near := 0, far := 0, slew := 0 } ∧
      (s.discState = 2 → s.raised t .tideline 2) ∧ s.regsBut t discKeys ∧
        t = { s with regs := t.regs, tide := t.tide } := by
  have hw := State.writes_setDisc { s with tide := { s.tide with near := 0, far := 0, slew := 0 } } 3
  have hrest := State.writes_eq hw
  refine ⟨_, by rw [exec_referenceLost, execReferenceLost, if_pos ⟨hs, hd⟩], State.discState_setDisc _ (by decide),
    by rw [hrest], fun h2 => ?_, hw.regs, by rw [hrest]⟩
  exact State.raised_unlocked (s := { s with tide := { s.tide with near := 0, far := 0, slew := 0 } }) h2 (by decide)

/-! ### The records of the count, the pulse and the alarm (R22, R34, R481) -/

theorem exec_tidelineRecord_result {s : State} (hs : s.standby = true)
    (h : s.tide.recorded.toNat < s.now.toNat / secondUnits * secondUnits) :
    ∃ t, exec .tidelineRecord s = .next t ∧ t.tide.recorded.toNat = s.now.toNat / secondUnits * secondUnits ∧
      t = { s with tide := { s.tide with recorded := t.tide.recorded } } := by
  have he : exec .tidelineRecord s =
      .next { s with tide := { s.tide with recorded := BitVec.ofNat 64 (s.now.toNat / secondUnits * secondUnits) } } := by
    rw [exec_tidelineRecord, execTidelineRecord]
    exact congrArg _ (if_pos ⟨hs, h⟩)
  refine ⟨_, he, ?_, rfl⟩
  have hn := s.now.isLt
  have hle := Nat.div_mul_le_self s.now.toNat secondUnits
  rw [BitVec.toNat_ofNat]
  exact Nat.mod_eq_of_lt (by omega)

theorem exec_wakeAlarm_dry {s : State} (ha : s.alarmDue = true) (hd : s.sys.dry = true) (hl : s.latched = false)
    (hw : s.sys.wake = none) :
    exec .wakeAlarm s = .next { s with sys := { s.sys with wake := some 3 } } := by
  simp [exec_wakeAlarm, execWakeAlarm, ha, State.wakes, hd, hl, hw]

/-! ### The statements about the discipline -/

/-- Settles O26: a measurement either makes the one forward step or is one of those that `State.measures` describes. -/
theorem disciplineResults : Obligations.DisciplineResults := by
  unfold Obligations.DisciplineResults
  refine ⟨?discipline, fun s p rx => ⟨exec_tidelineRecord_result, ?pulse, exec_wakeAlarm_dry, ?stamp⟩⟩
  case pulse => exact ⟨_, exec_ppsOut s, decide_eq_true_iff, rfl⟩
  case stamp =>
    intro hup hl
    rw [exec_ptpEventMessage, execPtpEventMessage, State.awake_up hup, if_pos hl]
  rintro s port off j at_ mode heard may hat rfl hheard hmay
  refine ⟨fun h => exec_referenceMeasurement_unheard (fun hs => h (hheard.2 hs)), ?measures, ?steps, ?edge,
    exec_referenceLost_result, ?stays⟩
  case measures =>
    intro h hn
    refine ⟨_, exec_referenceMeasurement_heard (hheard.1 h), State.measures_disciplined ?_⟩
    exact Bool.eq_false_iff.2 (fun hs => hn (hmay.2 ((State.mayStep_iff ..).1 hs)))
  case steps =>
    intro h hs
    obtain ⟨hnow, hstep, hev, hrest⟩ := State.disciplined_steps ((State.mayStep_iff s _ true off.toInt).2 (hmay.1 hs))
    rw [BitVec.ofInt_toInt] at hnow
    exact ⟨_, exec_referenceMeasurement_heard (hheard.1 h), hnow, hstep, hev, State.disciplined_offset ..,
      State.regsBut_disciplined _ _ _, hrest⟩
  case edge =>
    intro hm hs hf hr ha
    have he := State.tickEdge_true ha
    refine ⟨_, exec_tickInEdge_running hat hr he, ?_⟩
    rw [State.edgeMeasured_beginTick (s := s.edgeCame) hm hs hf, he]
    exact State.measures_disciplined (State.mayStep_edge ..)
  case stays =>
    intro h
    rw [exec_referenceLost, execReferenceLost, if_neg]
    rintro ⟨hs, hd⟩
    rcases h with h | ⟨h1, h2⟩
    · exact Bool.false_ne_true (h.symm.trans hs)
    · exact hd.elim h1 h2

end Sys2Proof.Machine

/-! Proofs about the Tideway ports (R28, R30, R334, R336 to R339, R351): replay, retraining, training,
recalibration, timing exchanges, and wavelengths that fail. -/

namespace Sys2Proof.Machine

/-! ### The pages of the ports -/

theorem regKey_ne_of_page {p p' : Pg} {r r' : RegName} {i i' : Nat} (h : p.index ≠ p'.index) (hr : r.off i < 4096)
    (hr' : r'.off i' < 4096) : regKey p r i ≠ regKey p' r' i' := by
  unfold regKey
  omega

theorem twPg_index (n : Nat) : (twPg n).index = 32 + 1 * (n % 16) := rfl

theorem twPg_ne_tideway (n : Nat) : (twPg n).index ≠ Pg.tideway.index := by
  rw [twPg_index]
  exact fun h => absurd (h.trans (show Pg.tideway.index = 14 from rfl)) (by omega)

theorem twPg_ne_tideline (n : Nat) : (twPg n).index ≠ Pg.tideline.index := by
  rw [twPg_index]
  exact fun h => absurd (h.trans (show Pg.tideline.index = 2 from rfl)) (by omega)

/-- The registers that a change of a port's state writes (R352, R354). -/
def portKeys (p : Nat) : List Nat := [regKey (twPg p) .twpStat 0, regKey .tideway .twStat 0]

theorem twpStat_mem_portKeys (p : Nat) : regKey (twPg p) .twpStat 0 ∈ portKeys p := List.mem_cons_self ..

theorem twStat_mem_portKeys (p : Nat) : regKey .tideway .twStat 0 ∈ portKeys p :=
    List.mem_cons_of_mem _ (List.mem_singleton_self _)

theorem twpStat_not_eventKeys (p : Nat) : regKey (twPg p) .twpStat 0 ∉ eventKeys (twPg p) :=
    regKey_not_eventKeys (by decide)

theorem eventKeys_not_portKeys (p : Nat) : ∀ k ∈ eventKeys (twPg p), k ∉ portKeys p := by
  intro k hk
  have hstat : k ≠ regKey (twPg p) .twpStat 0 := ne_of_mem_of_not_mem hk (twpStat_not_eventKeys p)
  simp only [portKeys, List.mem_cons, List.not_mem_nil, or_false, not_or]
  refine ⟨hstat, ?_⟩
  simp only [eventKeys, List.mem_cons, List.not_mem_nil, or_false] at hk
  rcases hk with rfl | rfl | rfl
  all_goals exact regKey_ne_of_page (twPg_ne_tideway p) (by decide) (by decide)

/-- An event of a port is raised from a state whose event registers and time have not moved. -/
theorem State.raised_event_of {s t : State} {p : Pg} (b : Nat) (hs : ∀ k ∈ eventKeys p, t.reg k = s.reg k)
    (hn : t.now = s.now) :
    s.raised (t.event p b) p b := State.raised_from (State.raised_event t p b) hs hn

theorem State.writes_mono {s t : State} {ks js : List Nat} (h : s.writes t ks) (hs : ks ⊆ js) : s.writes t js :=
  ⟨State.regsBut_mono h.regs hs, h.rest⟩

/-! ### The state of a port (R352, R354) -/

theorem State.writes_setTwState (s : State) (p st : Nat) : s.writes (s.setTwState p st) (portKeys p) :=
  State.writes_setFld (State.writes_setFld (State.writes_setFld (State.writes_refl s _) _ _ _ (twpStat_mem_portKeys p)) _ _ _
    (twStat_mem_portKeys p)) _ _ _ (twStat_mem_portKeys p)

theorem State.rd_setTwState (s : State) (p st : Nat) :
    (s.setTwState p st).rd (twPg p) .twpStat 0 = setBits (s.rd (twPg p) .twpStat 0) 2 0 st := by
  have hne := (regKey_ne_of_page (r := .twpStat) (i := 0) (r' := .twStat) (i' := 0) (twPg_ne_tideway p) (by decide)
    (by decide)).symm
  unfold State.setTwState
  rw [State.rd_setFld_other hne, State.rd_setFld_other hne, State.rd_setFld_same]

theorem State.twState_setTwState (s : State) (p : Nat) {st : Nat} (h : st < 8) : (s.setTwState p st).twState p = st := by
  rw [State.twState, State.fld, State.rd_setTwState, bits_setBits_same (by decide)]
  exact Nat.mod_eq_of_lt h

/-- The other fields of a port's status stay when its state changes. -/
theorem State.fld_setTwState (s : State) (p st : Nat) {hi lo : Nat} (h : 2 < lo) :
    (s.setTwState p st).fld (twPg p) .twpStat 0 hi lo = s.fld (twPg p) .twpStat 0 hi lo := by
  rw [State.fld, State.rd_setTwState, bits_setBits_other (by decide) (Or.inr h), State.fld]

theorem State.reg_setTwState_event (s : State) (p st : Nat) : ∀ k ∈ eventKeys (twPg p),
    (s.setTwState p st).reg k = s.reg k :=
  fun k hk => (State.writes_setTwState s p st).regs k (eventKeys_not_portKeys p k hk)

theorem State.now_setTwState (s : State) (p st : Nat) : (s.setTwState p st).now = s.now := by
  rw [State.writes_eq (State.writes_setTwState s p st)]

/-! ### The link engine of a port (R333 to R335) -/

@[simp] theorem State.twPort_setTwPort_same (s : State) (p : Nat) (x : TwPort) : (s.setTwPort p x).twPort p = x :=
  FMap.get_set_same _ _ _ _

theorem State.twPort_setTwPort_other {s : State} {p o : Nat} {x : TwPort} (h : o ≠ p) :
    (s.setTwPort p x).twPort o = s.twPort o :=
  FMap.get_set_other _ _ _ _ _ _ (Ne.symm h)

theorem State.twPort_congr {s t : State} (h : t.tw = s.tw) (p : Nat) : t.twPort p = s.twPort p := by
  unfold State.twPort
  rw [h]

theorem State.twUp_congr {s t : State} {p : Nat} (h : t.twState p = s.twState p) : t.twUp p = s.twUp p := by
  unfold State.twUp
  rw [h]

theorem State.reg_setTwPort (s : State) (p : Nat) (x : TwPort) (k : Nat) : (s.setTwPort p x).reg k = s.reg k := rfl

theorem State.regsBut_setTwPort {s t : State} {ks : List Nat} (h : s.regsBut t ks) (p : Nat) (x : TwPort) :
    s.regsBut (t.setTwPort p x) ks := h

theorem State.twState_setTwPort (s : State) (p q : Nat) (x : TwPort) : (s.setTwPort q x).twState p = s.twState p := rfl

/-- From s to t only registers and the link engines of ports have changed. -/
def State.portsMoved (s t : State) : Prop := t = { s with regs := t.regs, tw := { s.tw with ports := t.tw.ports } }

theorem State.portsMoved_trans {s t u : State} (h : s.portsMoved t) (k : t.portsMoved u) : s.portsMoved u := by
  unfold State.portsMoved at *
  rw [k, h]

theorem State.portsMoved_writes {s t : State} {ks : List Nat} (h : s.writes t ks) : s.portsMoved t := by
  unfold State.portsMoved
  rw [State.writes_eq h]

theorem State.portsMoved_setTwPort (s : State) (p : Nat) (x : TwPort) : s.portsMoved (s.setTwPort p x) := rfl

theorem State.portsMoved_event (s : State) (p : Pg) (b : Nat) : s.portsMoved (s.event p b) :=
  State.portsMoved_writes (State.writes_event (State.writes_refl s (eventKeys p)) b (List.Subset.refl _))

theorem State.portsMoved_setTwState (s : State) (p st : Nat) : s.portsMoved (s.setTwState p st) :=
  State.portsMoved_writes (State.writes_setTwState s p st)

/-! ### Nothing goes over Tideway -/

/-- Tideway stays calm while ports have no frames to send and no SEMAPHORE frame or collective comes. -/
theorem State.twCalm_of {s t : State} (h : s.twCalm) (hq : ∀ o, (t.twPort o).queue = []) (hs : t.tw.sems = [])
    (hc : t.tw.colls = s.tw.colls) :
    t.twCalm where
  queues := hq
  sems := hs
  colls := fun r => by
    have hr := h.colls r
    unfold State.coll at hr ⊢
    rw [hc, hr]

/-- What moves only registers and ports leaves Tideway calm while those ports have nothing to send. -/
theorem State.twCalm_moved {s t : State} (h : s.twCalm) (k : s.portsMoved t) (hq : ∀ o, (t.twPort o).queue = []) :
    t.twCalm :=
  State.twCalm_of h hq (by rw [k]; exact h.sems) (by rw [k])

/-- With nothing to send, the ports send nothing. -/
theorem State.pumpPort_calm {s : State} (h : s.twCalm) (p n : Nat) : s.pumpPort p n = s := by
  cases n with
  | zero => rfl
  | succ n =>
    rw [State.pumpPort]
    dsimp only
    split
    · rfl
    · have hnone : (List.range 4).findSome? (fun _ => (none : Option TwFrame)) = none := rfl
      simp [h.queues p, hnone]

theorem State.pumpPorts_calm {s : State} (h : s.twCalm) : s.pumpPorts = s := by
  have hp : (List.range 16).foldl (fun (s : State) p => s.pumpPort p 128) s = s :=
    foldl_fixed_of_mem (fun p _ => State.pumpPort_calm h p 128)
  have hs := h.sems
  unfold State.pumpPorts
  dsimp only
  rw [hp, hs, State.pumpSems, List.reverse_nil, ← hs]

theorem State.collGo_calm {s : State} (h : s.twCalm) (r : Nat) : s.collGo r = s := by
  unfold State.collGo
  rw [h.colls r]

theorem State.collsGo_calm {s : State} (h : s.twCalm) : s.collsGo = s := by
  unfold State.collsGo
  rw [State.pumpPorts_calm h, foldl_fixed_of_mem (fun r _ => State.collGo_calm h r), State.pumpPorts_calm h]

theorem State.linkLost_calm {s : State} (h : s.twCalm) (p : Nat) : s.linkLost p = s := by
  unfold State.linkLost
  refine foldl_fixed_of_mem (fun r _ => ?_)
  rw [h.colls r]

/-- A port that no remote operation came through faults no semaphore. -/
theorem State.faultRemote_none {s : State} {p : Nat} (h : ∀ y ∈ s.tw.remote, y.2 ≠ p + 1) : s.faultRemote p = s := by
  unfold State.faultRemote
  rw [List.filter_eq_nil_iff.2 (fun y hy => by simpa using h y hy), List.foldl_nil]

/-! ### Replay (R30, R334) -/

theorem State.foldl_emit {α : Type} (g : α → Out) (l : List α) (s : State) :
    l.foldl (fun s f => s.emit (g f)) s = { s with out := s.out ++ l.map g } := by
  induction l generalizing s with
  | nil => simp
  | cons x l ih =>
    rw [List.foldl_cons, ih]
    simp [State.emit]

/-- The frames of a replay buffer, sent again now. -/
def State.again (s : State) (p : Nat) : List TwFrame := (s.twPort p).replay.map (fun g => { g with time := s.now })

theorem State.twReplay_eq (s : State) (p : Nat) :
    s.twReplay p =
      let t := (s.setTwPort p { s.twPort p with replay := s.again p }).bump (twPg p) .twpReplays 0 (s.twPort p).replay.length
      { t with out := t.out ++ (s.again p).map (.twFrame p) } :=
  State.foldl_emit (.twFrame p) (s.again p) _

/-- What a replay of a port does. -/
structure State.replayed (s t : State) (p : Nat) : Prop where
  port : t.twPort p = { s.twPort p with replay := s.again p }
  out : t.out = s.out ++ (s.again p).map (.twFrame p)
  count : t.rd (twPg p) .twpReplays 0 = s.counted (twPg p) .twpReplays 0 (s.twPort p).replay.length
  others : ∀ o, o ≠ p → t.twPort o = s.twPort o
  regs : s.regsBut t [regKey (twPg p) .twpReplays 0]
  rest : t = { s with regs := t.regs, tw := { s.tw with ports := t.tw.ports }, out := t.out }

theorem State.replayed_twReplay (s : State) (p : Nat) : s.replayed (s.twReplay p) p := by
  have hb := State.writes_bump (State.writes_refl (s.setTwPort p { s.twPort p with replay := s.again p }) [regKey (twPg p) .twpReplays 0])
    (p := twPg p) (r := .twpReplays) (i := 0) (s.twPort p).replay.length (List.mem_singleton_self _)
  have hrd := State.rd_bump_same (s.setTwPort p { s.twPort p with replay := s.again p })
    (twPg p) .twpReplays 0 (s.twPort p).replay.length
  rw [State.twReplay_eq]
  generalize (s.setTwPort p { s.twPort p with replay := s.again p }).bump (twPg p) .twpReplays 0 (s.twPort p).replay.length = t at hb hrd
  have htw : t.tw = (s.setTwPort p { s.twPort p with replay := s.again p }).tw := by rw [State.writes_eq hb]
  have hout : t.out = s.out := by rw [State.writes_eq hb]; rfl
  exact {
    port := (State.twPort_congr htw p).trans (State.twPort_setTwPort_same ..)
    out := congrArg (· ++ _) hout
    count := hrd
    others := fun o ho => (State.twPort_congr htw o).trans (State.twPort_setTwPort_other ho)
    regs := hb.regs
    rest := by dsimp only; rw [State.writes_eq hb]; rfl }

theorem State.replay_of_ackLate {s : State} {p : Nat} (h : s.ackLate p = true) :
    (s.twPort p).replay.isEmpty = false := by
  unfold State.ackLate at h
  cases hr : (s.twPort p).replay with
  | nil => simp [hr] at h
  | cons f l => rfl

/-- REPLAY_TIMEOUT below 32 replays in a row sends the replay buffer again (R334). -/
theorem exec_replayTimeout_again {s : State} {p : Fin 16} {x : TwPort} (hup : s.up) (hx : x = s.twPort p)
    (hu : s.twUp p = true) (hl : s.ackLate p = true) (hn : x.replays < 32) : ∃ t, exec (.replayTimeout p) s = .next t ∧
      t.twPort p = { x with replay := x.replay.map (fun g => { g with time := s.now }), replays := x.replays + 1 } ∧
      t.out = s.out ++ x.replay.map (fun g => .twFrame p { g with time := s.now }) ∧
      t.rd (twPg p) .twpReplays 0 = s.counted (twPg p) .twpReplays 0 x.replay.length ∧
      (∀ o, o ≠ p.val → t.twPort o = s.twPort o) ∧ s.regsBut t [regKey (twPg p) .twpReplays 0] ∧
      t = { s with regs := t.regs, tw := t.tw, out := t.out } := by
  subst hx
  have he : s.twAgain p.val = (s.setTwPort p.val { s.twPort p.val with replays := (s.twPort p.val).replays + 1 }).twReplay p.val := by
    unfold State.twAgain
    dsimp only
    rw [if_neg (by simp [hu, State.replay_of_ackLate hl]), if_neg (by omega)]
  have hr := State.replayed_twReplay (s.setTwPort p.val { s.twPort p.val with replays := (s.twPort p.val).replays + 1 }) p.val
  refine ⟨_, by rw [exec_replayTimeout, execReplayTimeout, State.awake_up hup, hl, if_pos rfl, he], ?port, ?out,
    ?count, ?others, hr.regs, ?rest⟩
  case port => rw [hr.port, State.again, State.twPort_setTwPort_same]; rfl
  case out =>
    rw [hr.out, State.again, State.twPort_setTwPort_same, List.map_map]
    rfl
  case count => rw [hr.count, State.twPort_setTwPort_same]; rfl
  case others => exact fun o ho => (hr.others o ho).trans (State.twPort_setTwPort_other ho)
  case rest => rw [hr.rest]; rfl

/-- REPLAY_TIMEOUT after 32 replays in a row: the port retrains (R334). -/
theorem exec_replayTimeout_retrains {s : State} {p : Fin 16} {x : TwPort} (hup : s.up) (hx : x = s.twPort p)
    (hu : s.twUp p = true)
    (hl : s.ackLate p = true) (hn : 32 ≤ x.replays) : ∃ t, exec (.replayTimeout p) s = .next t ∧ t.twState p = 4 ∧
      t.twPort p = { x with retrain := some s.now, replays := 0 } ∧ t.out = s.out ∧
      s.regsBut t [regKey (twPg p) .twpStat 0, regKey .tideway .twStat 0] ∧
        t = { s with regs := t.regs, tw := t.tw } := by
  subst hx
  have hw := State.writes_setTwState s p.val 4
  have he : s.twAgain p.val = s.twRetrain p.val := by
    unfold State.twAgain
    dsimp only
    rw [if_neg (by simp [hu, State.replay_of_ackLate hl]), if_pos hn]
  refine ⟨_, by rw [exec_replayTimeout, execReplayTimeout, State.awake_up hup, hl, if_pos rfl, he], ?_⟩
  unfold State.twRetrain
  have hmoved := State.portsMoved_trans (State.portsMoved_setTwState s p.val 4) (State.portsMoved_setTwPort _ p.val
    { s.twPort p.val with retrain := some s.now, replays := 0 })
  refine ⟨(State.twState_setTwPort ..).trans (State.twState_setTwState s p.val (by decide)),
    State.twPort_setTwPort_same .., ?_, State.regsBut_setTwPort hw.regs _ _, ?_⟩
  · rw [hmoved]
  · rw [hmoved]

theorem exec_replayTimeout_idle {s : State} {p : Fin 16} (hup : s.up) (h : s.twUp p = false ∨ s.ackLate p = false) :
    exec (.replayTimeout p) s = .next s := by
  rw [exec_replayTimeout, execReplayTimeout, State.awake_up hup]
  split
  · next hl =>
    have hu : s.twUp p.val = false := h.resolve_right (by simp [hl])
    unfold State.twAgain
    rw [if_pos (Or.inl (by simp [hu]))]
  · rfl

/-! ### Retraining that ends (R334) -/

/-- A port is down, with its frames gone. -/
def State.portDown (s : State) (p : Nat) : State :=
  ((s.setTwState p 0).setTwPort p { s.twPort p with queue := [], replay := [], retrain := none, replays := 0 }).event (twPg p) 0

/-- What Tideway holds for a port that is down goes with it. -/
def State.dropHeld (s : State) (p : Nat) : State :=
  { s with tw := { s.tw with
      held := s.tw.held.filter (fun h => h.1 ≠ p), sems := s.tw.sems.filter (fun m => !s.peerLost m.1)
      semOut := s.tw.semOut.filter (fun k => !s.peerLost k) } }

theorem State.twState_dropHeld (s : State) (p q : Nat) : (s.dropHeld p).twState q = s.twState q := rfl

theorem State.twPort_dropHeld (s : State) (p q : Nat) : (s.dropHeld p).twPort q = s.twPort q := rfl

theorem State.raised_dropHeld {s t : State} {q : Pg} {b : Nat} (h : s.raised t q b) (p : Nat) :
    s.raised (t.dropHeld p) q b := h

theorem execLinkTimeout_eq {s : State} {p : Fin 16} {a : Word} (hup : s.up) (ha : (s.twPort p).retrain = some a) :
    exec (.linkTimeout p) s = .next (
      if s.twUp p.val ∨ (s.now - a).toNat < 4000 * max 1 (s.fld .tideway .twCtrl 0 22 7) then s
      else ((((s.portDown p.val).dropHeld p.val).linkLost p.val).faultRemote p.val).collsGo) := by
  rw [exec_linkTimeout, execLinkTimeout, State.awake_up hup]
  dsimp only
  rw [ha]
  rfl

/-- What the loss of a port leaves, while nothing else goes over Tideway. -/
structure State.portLost (s t : State) (p : Nat) : Prop where
  state : t.twState p = 0
  port : t.twPort p = { s.twPort p with queue := [], replay := [], retrain := none, replays := 0 }
  raised : s.raised t (twPg p) 0
  others : ∀ o, o ≠ p → t.twPort o = s.twPort o
  rest : s.portsMoved t

theorem State.portLost_portDown (s : State) (p : Nat) : s.portLost (s.portDown p) p := by
  have hset := State.writes_setTwState s p 0
  have htw : (s.portDown p).tw = ((s.setTwState p 0).setTwPort p
    { s.twPort p with queue := [], replay := [], retrain := none, replays := 0 }).tw := State.event_tw ..
  have htwset : (s.setTwState p 0).tw = s.tw := by rw [State.writes_eq hset]
  exact {
    state := (State.fld_congr (State.rd_event_other (twpStat_not_eventKeys p)) 2 0).trans
      ((State.twState_setTwPort ..).trans (State.twState_setTwState s p (by decide)))
    port := (State.twPort_congr htw p).trans (State.twPort_setTwPort_same ..)
    raised := State.raised_event_of 0 (fun k hk => (State.reg_setTwPort ..).trans (State.reg_setTwState_event s p 0 k hk))
      ((State.setTwPort_now ..).trans (State.now_setTwState s p 0))
    others := fun o ho => (State.twPort_congr htw o).trans ((State.twPort_setTwPort_other ho).trans (State.twPort_congr htwset o))
    rest := State.portsMoved_trans (State.portsMoved_trans (State.portsMoved_setTwState s p 0)
      (State.portsMoved_setTwPort ..)) (State.portsMoved_event ..) }

theorem State.twCalm_portLost {s t : State} {p : Nat} (h : s.twCalm) (k : s.portLost t p) : t.twCalm := by
  refine State.twCalm_moved h k.rest (fun o => ?_)
  by_cases ho : o = p
  · rw [ho, k.port]
  · rw [k.others o ho, h.queues o]

theorem State.twCalm_dropHeld {s : State} (h : s.twCalm) (p : Nat) : (s.dropHeld p).twCalm := by
  refine State.twCalm_of h h.queues ?_ rfl
  unfold State.dropHeld
  dsimp only
  rw [h.sems, List.filter_nil]

/-- LINK_TIMEOUT of a port that has retrained for its limit (R334). -/
theorem exec_linkTimeout_lost {s : State} {p : Fin 16} {a : Word} {x : TwPort} (hup : s.up) (hx : x = s.twPort p)
    (ha : x.retrain = some a) (hu : s.twUp p = false) (hc : s.twCalm) (hr : ∀ y ∈ s.tw.remote, y.2 ≠ p.val + 1)
    (hl : 4000 * max 1 (s.fld .tideway .twCtrl 0 22 7) ≤ (s.now - a).toNat) :
    ∃ t, exec (.linkTimeout p) s = .next t ∧ t.twState p = 0 ∧
      t.twPort p = { x with replay := [], retrain := none, replays := 0 } ∧ s.raised t (twPg p) 0 ∧
      (∀ h ∈ t.tw.held, h.1 ≠ p.val) ∧ t = { s with regs := t.regs, tw := t.tw } := by
  subst hx
  have hlost := State.portLost_portDown s p.val
  have hcalm := State.twCalm_dropHeld (State.twCalm_portLost hc hlost) p.val
  have hremote : ∀ y ∈ ((s.portDown p.val).dropHeld p.val).tw.remote, y.2 ≠ p.val + 1 := by
    have he : ((s.portDown p.val).dropHeld p.val).tw.remote = s.tw.remote := by
      unfold State.dropHeld
      dsimp only
      rw [hlost.rest]
    rw [he]
    exact hr
  have hq := hc.queues p.val
  refine ⟨(s.portDown p.val).dropHeld p.val, ?_, (State.twState_dropHeld ..).trans hlost.state,
    (State.twPort_dropHeld ..).trans (hlost.port.trans ?_), State.raised_dropHeld hlost.raised _, ?_, ?_⟩
  · rw [execLinkTimeout_eq hup ha, if_neg (not_or.2 ⟨by simp [hu], Nat.not_lt.2 hl⟩), State.linkLost_calm hcalm,
    State.faultRemote_none hremote,
      State.collsGo_calm hcalm]
  · rw [← hq]
  · intro h hh
    simpa using (List.mem_filter.1 hh).2
  · have hrest := hlost.rest
    unfold State.dropHeld
    rw [hrest]

theorem exec_linkTimeout_waits {s : State} {p : Fin 16} {a : Word} (hup : s.up) (ha : (s.twPort p).retrain = some a)
    (hl : (s.now - a).toNat < 4000 * max 1 (s.fld .tideway .twCtrl 0 22 7)) : exec (.linkTimeout p) s = .next s := by
  rw [execLinkTimeout_eq hup ha, if_pos (Or.inr hl)]

/-! ### Training (R334, R339) -/

theorem State.lanes_congr {s t : State} {p : Nat} (h : ∀ i < 4, t.laneWl p i = s.laneWl p i) :
    t.lanes p = s.lanes p := by
  unfold State.lanes
  rw [List.filter_congr (fun i hi => by rw [h i (List.mem_range.1 hi)])]

/-- Another field of a port's status leaves the wavelengths of its lanes. -/
theorem State.laneWl_setFld {s : State} {p hi lo x i : Nat} (h : hi < 64) (hd : 3 * i + 5 < lo ∨ hi < 3 * i + 3) :
    (s.setFld (twPg p) .twpStat 0 hi lo x).laneWl p i = s.laneWl p i := State.fld_setFld_other h hd

theorem State.laneWl_setTwState (s : State) (p st i : Nat) : (s.setTwState p st).laneWl p i = s.laneWl p i :=
  State.fld_setTwState s p st (by omega)

theorem State.laneWl_event (s : State) (p b i : Nat) : (s.event (twPg p) b).laneWl p i = s.laneWl p i :=
  State.fld_congr (State.rd_event_other (twpStat_not_eventKeys p)) _ _

/-- The neighbour is what the peer entries that name the port expect (R339). -/
def State.expects (s : State) (p id : Nat) : Prop :=
  ∀ k < 256, bit1 (s.rd .tideway .twPeer k) 63 = true → p ∈ s.peerPorts k → s.fld .tideway .twPeer k 31 0 = id

/-- A peer entry that names the port expects another neighbour. -/
def State.refuses (s : State) (p id : Nat) : Bool :=
  (List.range 256).any (fun k => bit1 (s.rd .tideway .twPeer k) 63 && (s.peerPorts k).contains p && s.fld .tideway .twPeer k 31 0 != id)

/-- The neighbour's identity has been read. -/
def State.identified (s : State) (p id : Nat) : State := s.setFld (twPg p) .twpStat 0 63 32 id

theorem State.identified_eq (s : State) (p id : Nat) : s.identified p id = s.setFld (twPg p) .twpStat 0 63 32 id := rfl

theorem State.writes_identified (s : State) (p id : Nat) : s.writes (s.identified p id) [regKey (twPg p) .twpStat 0] :=
  State.writes_setFld (State.writes_refl s _) _ _ _ (List.mem_singleton_self _)

theorem State.twPort_identified (s : State) (p id o : Nat) : (s.identified p id).twPort o = s.twPort o :=
  State.twPort_congr (State.setFld_tw ..) o

theorem State.rd_identified_peer (s : State) (p id : Nat) {k : Nat} (hk : k < 256) :
    (s.identified p id).rd .tideway .twPeer k = s.rd .tideway .twPeer k := by
  have hoff : RegName.twPeer.off k < 4096 := by
    show 0x400 + 8 * k < 4096
    omega
  exact State.rd_setFld_other (regKey_ne_of_page (twPg_ne_tideway p) (by decide) hoff)

theorem State.laneWl_identified (s : State) (p id : Nat) {i : Nat} (hi : i < 4) :
    (s.identified p id).laneWl p i = s.laneWl p i :=
  State.laneWl_setFld (by decide) (Or.inl (by omega))

theorem State.lanes_identified (s : State) (p id : Nat) : (s.identified p id).lanes p = s.lanes p :=
  State.lanes_congr (fun _ hi => State.laneWl_identified s p id hi)

theorem State.twCalm_identified {s : State} (h : s.twCalm) (p id : Nat) : (s.identified p id).twCalm :=
  State.twCalm_moved h (State.portsMoved_writes (State.writes_identified s p id))
    (fun o => by rw [State.twPort_identified, h.queues o])

/-- Keys of events lie apart from one other register of the page. -/
theorem State.event_regs_stay {s t : State} {p : Pg} {r : RegName} {i : Nat} (h : s.regsBut t [regKey p r i])
    (hr : regKey p r i ∉ eventKeys p) : ∀ k ∈ eventKeys p, t.reg k = s.reg k :=
  fun k hk => h k (fun e => ne_of_mem_of_not_mem hk hr (List.mem_singleton.1 e))

/-- No peer entry refuses the neighbour that it expects. -/
theorem State.refuses_identified {s : State} {p id : Nat} (h : s.expects p id) :
    (s.identified p id).refuses p id = false := by
  refine List.any_eq_false.2 (fun k hk => ?_)
  have hk := List.mem_range.1 hk
  have hpeer := State.rd_identified_peer s p id hk
  have hports : (s.identified p id).peerPorts k = s.peerPorts k := by
    unfold State.peerPorts
    rw [hpeer]
  rw [State.fld_congr hpeer, hpeer, hports]
  have hid := h k hk
  simp only [Bool.and_eq_true, List.contains_iff_mem, bne_iff_ne, ne_eq, not_and, not_not, and_imp]
  exact hid

/-- The state code of a port that has trained. -/
def upCode (lanes : Nat) : Nat := if lanes = 4 then 2 else 3

/-- The state and the event of DEGRADED of a port that trains. -/
def State.comesUp (s : State) (p : Nat) : State :=
  if s.lanes p = 4 then s.setTwState p 2 else (s.setTwState p 3).event (twPg p) 3

/-- A port has trained: it carries frames and no longer retrains. -/
def State.trained (s : State) (p : Nat) : State :=
  ((s.comesUp p).setTwPort p { (s.comesUp p).twPort p with retrain := none }).event (twPg p) 1

theorem State.twLinkUp_again {s : State} {p id : Nat} {a : Word} (hu : s.twUp p = false)
    (he : bit1 (s.rd (twPg p) .twpCtrl 0) 0 = true)
    (hd : s.sys.deadPorts.contains (32 + p) = false) (hx : s.expects p id) (ha : (s.twPort p).retrain = some a)
    (hl : 0 < s.lanes p) :
    s.twLinkUp p id = (((s.identified p id).trained p).twReplay p).pumpPorts := by
  have hport := State.twPort_identified s p id p
  have hlanes := State.lanes_identified s p id
  unfold State.twLinkUp
  rw [if_neg (by rw [hu, he, hd]; decide)]
  dsimp only
  change (if (s.identified p id).refuses p id = true then _ else _) = _
  rw [State.refuses_identified hx, if_neg Bool.false_ne_true]
  simp only [← State.identified_eq, hport, ha, Option.isNone_some, Bool.false_and, Bool.false_eq_true, if_false,
    Option.isSome_some, if_true]
  rw [if_neg (by omega)]
  rfl

theorem State.rd_comesUp (s : State) (p : Nat) :
    (s.comesUp p).rd (twPg p) .twpStat 0 = setBits (s.rd (twPg p) .twpStat 0) 2 0 (upCode (s.lanes p)) := by
  unfold State.comesUp upCode
  split
  · exact State.rd_setTwState s p 2
  · exact (State.rd_event_other (twpStat_not_eventKeys p)).trans (State.rd_setTwState s p 3)

theorem State.writes_comesUp (s : State) (p : Nat) : s.writes (s.comesUp p) (portKeys p ++ eventKeys (twPg p)) := by
  have hst (st : Nat) := State.writes_mono (State.writes_setTwState s p st)
    (List.subset_append_left _ (eventKeys (twPg p)))
  unfold State.comesUp
  split
  · exact hst 2
  · exact State.writes_event (hst 3) 3 (List.subset_append_right _ _)

/-- What training leaves of a port. -/
structure State.trainedTo (s t : State) (p : Nat) : Prop where
  stat : t.rd (twPg p) .twpStat 0 = setBits (s.rd (twPg p) .twpStat 0) 2 0 (upCode (s.lanes p))
  port : t.twPort p = { s.twPort p with retrain := none }
  others : ∀ o, o ≠ p → t.twPort o = s.twPort o
  full : s.lanes p = 4 → s.raised t (twPg p) 1
  degraded : s.lanes p ≠ 4 → bit1 (t.rd (twPg p) .event 0) 1 = true ∧ bit1 (t.rd (twPg p) .event 0) 3 = true
  rest : s.portsMoved t

theorem State.trainedTo_trained (s : State) (p : Nat) : s.trainedTo (s.trained p) p := by
  have hw := State.writes_comesUp s p
  have htw : (s.comesUp p).tw = s.tw := by rw [State.writes_eq hw]
  have hstat := State.rd_comesUp s p
  have hfull : s.lanes p = 4 → s.comesUp p = s.setTwState p 2 := fun h => if_pos h
  have hdeg : s.lanes p ≠ 4 → s.comesUp p = (s.setTwState p 3).event (twPg p) 3 := fun h => if_neg h
  rw [State.trained]
  generalize s.comesUp p = u at hw htw hstat hfull hdeg
  have htw' (o : Nat) : ((u.setTwPort p { u.twPort p with retrain := none }).event (twPg p) 1).twPort o =
      (u.setTwPort p { u.twPort p with retrain := none }).twPort o := State.twPort_congr (State.event_tw ..) o
  refine {
    stat := (State.rd_event_other (twpStat_not_eventKeys p)).trans ((State.rd_congr (State.setTwPort_regs ..) ..).trans hstat)
    port := ?port
    others := fun o ho => (htw' o).trans ((State.twPort_setTwPort_other ho).trans (State.twPort_congr htw o))
    full := fun h => ?full, degraded := fun h => ?degraded
    rest := State.portsMoved_trans (State.portsMoved_trans (State.portsMoved_writes hw) (State.portsMoved_setTwPort ..))
      (State.portsMoved_event ..) }
  case port => rw [htw', State.twPort_setTwPort_same, State.twPort_congr htw]
  case full =>
    refine State.raised_event_of 1 (fun k hk => ?_) ?_
    · rw [State.reg_setTwPort, hfull h, State.reg_setTwState_event s p 2 k hk]
    · rw [State.setTwPort_now, hfull h, State.now_setTwState]
  case degraded =>
    have h3 : bit1 (u.rd (twPg p) .event 0) 3 = true := by
      rw [hdeg h]
      exact State.raised_bit (State.raised_event _ _ 3) (by decide)
    exact ⟨State.raised_bit (State.raised_event _ _ 1) (by decide), State.event_bit_stays (h3)⟩

theorem State.trainedTo_calm {s t : State} {p : Nat} (h : s.trainedTo t p) (hc : s.twCalm) : t.twCalm := by
  refine State.twCalm_moved hc h.rest (fun o => ?_)
  by_cases ho : o = p
  · rw [ho, h.port]
    exact hc.queues p
  · rw [h.others o ho, hc.queues o]

/-- A replay leaves what is yet to be sent as it is. -/
theorem State.twCalm_twReplay {s : State} {p : Nat} (hc : s.twCalm) : (s.twReplay p).twCalm := by
  have hr := State.replayed_twReplay s p
  refine State.twCalm_of hc (fun o => ?_) (by rw [hr.rest]; exact hc.sems) (by rw [hr.rest])
  by_cases ho : o = p
  · rw [ho, hr.port]
    exact hc.queues p
  · rw [hr.others o ho, hc.queues o]

theorem twpReplays_not_eventKeys (p : Nat) : regKey (twPg p) .twpReplays 0 ∉ eventKeys (twPg p) :=
    regKey_not_eventKeys (by decide)

/-- TIDEWAY_LINK_UP of a port that retrains, with the neighbour its entries expect (R334, R339). -/
theorem exec_tidewayLinkUp_again {s : State} {p : Fin 16} {id : BitVec 32} {a : Word} {x : TwPort} (hup : s.up)
    (hx : x = s.twPort p) (ha : x.retrain = some a) (hq : x.replay = []) (hc : s.twCalm) (hu : s.twUp p = false)
    (he : bit1 (s.rd (twPg p) .twpCtrl 0) 0 = true) (hd : s.sys.deadPorts.contains (32 + p.val) = false)
    (hi : s.expects p id.toNat)
    (hl : 0 < s.lanes p) : ∃ t, exec (.tidewayLinkUp p id) s = .next t ∧ t.twState p = upCode (s.lanes p) ∧
      t.fld (twPg p) .twpStat 0 63 32 = id.toNat ∧ t.twPort p = { x with retrain := none } ∧
      (s.lanes p = 4 → s.raised t (twPg p) 1) ∧
      (s.lanes p ≠ 4 → bit1 (t.rd (twPg p) .event 0) 1 = true ∧ bit1 (t.rd (twPg p) .event 0) 3 = true) ∧
      (∀ i < 4, t.laneWl p i = s.laneWl p i) ∧ t.out = s.out ∧ t.mem = s.mem := by
  subst hx
  have hidw := State.writes_identified s p id.toNat
  have hlanes := State.lanes_identified s p id.toNat
  have hport := State.twPort_identified s p id.toNat p
  have hnow : (s.identified p id.toNat).now = s.now := by rw [State.writes_eq hidw]
  have hT := State.trainedTo_trained (s.identified p id.toNat) p
  have hidst : (s.identified p id.toNat).rd (twPg p) .twpStat 0 = setBits (s.rd (twPg p) .twpStat 0) 63 32 id.toNat :=
    State.rd_setFld_same ..
  have hev := State.event_regs_stay hidw.regs (twpStat_not_eventKeys p)
  have hexec : exec (.tidewayLinkUp p id) s = .next (((s.identified p id.toNat).trained p).twReplay p) := by
    rw [exec_tidewayLinkUp, execTidewayLinkUp, State.awake_up hup, State.twLinkUp_again hu he hd hi ha hl,
      State.pumpPorts_calm (State.twCalm_twReplay (State.trainedTo_calm hT (State.twCalm_identified hc p id.toNat)))]
  generalize (s.identified p id.toNat).trained p = u at hT hexec
  have hR := State.replayed_twReplay u p
  generalize u.twReplay p = t at hR hexec
  have hq' : u.again p = [] := by rw [State.again, hT.port, hport, hq]; rfl
  have hrd {r : RegName} (hr : r.off 0 ≠ RegName.twpReplays.off 0) : t.rd (twPg p) r 0 = u.rd (twPg p) r 0 :=
    hR.regs _ (fun e => regKey_ne hr (List.mem_singleton.1 e))
  have hstat : t.rd (twPg p) .twpStat 0 = setBits (setBits (s.rd (twPg p) .twpStat 0) 63 32 id.toNat) 2 0 (upCode (s.lanes p)) := by
    rw [hrd (by decide), hT.stat, hidst, hlanes]
  have hevt := State.event_regs_stay hR.regs (twpReplays_not_eventKeys p)
  refine ⟨t, hexec, ?state, ?neighbour, ?port, ?full, ?degraded, ?lanes, ?out, ?mem⟩
  case state =>
    rw [State.twState, State.fld, hstat, bits_setBits_same (by decide)]
    exact Nat.mod_eq_of_lt (by unfold upCode; split <;> decide)
  case neighbour =>
    rw [State.fld, hstat, bits_setBits_other (by decide) (by decide), bits_setBits_same (by decide)]
    exact Nat.mod_eq_of_lt id.isLt
  case port =>
    rw [hR.port, hq', hT.port, hport, ← hq]
  case full => exact fun h => State.raised_to (State.raised_from (hT.full (hlanes.trans h)) hev hnow) hevt
  case degraded =>
    intro h
    rw [hrd (r := .event) (by decide)]
    exact hT.degraded (by rwa [hlanes])
  case lanes =>
    intro i hi
    rw [State.laneWl, State.fld, hstat, bits_setBits_other (by decide) (by omega), bits_setBits_other (by decide)
      (by omega)]
    rfl
  case out => rw [hR.out, hq', hT.rest, State.writes_eq hidw]; exact List.append_nil _
  case mem => rw [hR.rest, hT.rest, State.writes_eq hidw]

/-! ### Recalibration and timing exchanges (R337, R338) -/

theorem exec_recalibration_done {s : State} {p : Fin 16} {w : Fin 5} (hup : s.up) (hu : s.twUp p = true)
    (hw : s.wlFailed p w = false)
    (hs : s.slackFor 0 = true) : ∃ t, exec (.recalibration p w) s = .next t ∧ t.rd (twPg p) .twpCalTime 0 = s.now ∧
      s.raised t (twPg p) 5 ∧ s.regsBut t (regKey (twPg p) .twpCalTime 0 :: eventKeys (twPg p)) ∧
        t = { s with regs := t.regs } := by
  have hcal : regKey (twPg p) .twpCalTime 0 ∉ eventKeys (twPg p) := regKey_not_eventKeys (by decide)
  have hwr := State.writes_event (State.writes_wr (State.writes_refl s (regKey (twPg p) .twpCalTime 0 :: eventKeys (twPg p)))
    (p := twPg p) (r := .twpCalTime) (i := 0) s.now (List.mem_cons_self ..)) 5 (List.subset_cons_self _ _)
  refine ⟨_, ?_, ?_, ?_, hwr.regs, State.writes_eq hwr⟩
  · rw [exec_recalibration, execRecalibration, State.awake_up hup, if_pos ⟨hs, hu, by simp [hw]⟩]
  · rw [State.rd_event_other hcal, State.rd_wr_same]
  · refine State.raised_event_of 5 (fun k hk => ?_) (State.wr_now ..)
    rw [State.reg_wr, if_neg (ne_of_mem_of_not_mem hk hcal).symm]

/-- What a timing exchange publishes (R338). -/
def State.timed (s : State) (p : Nat) (d : BitVec 24) (off : Word) : State :=
  ((s.sentOn p).bump (twPg p) .twpRxFrames 0 1).wr (twPg p) .twpTiming 0 (BitVec.ofNat 64 (d.toNat + sat32 off.toInt * 2 ^ 24))

/-- The registers that a timing exchange writes. -/
def timingKeys (p : Nat) : List Nat := [RegName.twpTiming, .twpTxFrames, .twpRxFrames].map (regKey (twPg p) · 0)

theorem mem_timingKeys {p : Nat} {r : RegName} (h : r ∈ [RegName.twpTiming, .twpTxFrames, .twpRxFrames]) :
    regKey (twPg p) r 0 ∈ timingKeys p := List.mem_map.2 ⟨r, h, rfl⟩

theorem State.writes_timed (s : State) (p : Nat) (d : BitVec 24) (off : Word) : s.writes (s.timed p d off)
    (timingKeys p) :=
  State.writes_wr (State.writes_bump (State.writes_bump (State.writes_refl s _) 1 (mem_timingKeys (by decide))) 1
    (mem_timingKeys (by decide))) _ (mem_timingKeys (by decide))

theorem State.rd_timed (s : State) (p : Nat) (d : BitVec 24) (off : Word) :
    (s.timed p d off).rd (twPg p) .twpTiming 0 = BitVec.ofNat 64 (d.toNat + sat32 off.toInt * 2 ^ 24) :=
    State.rd_wr_same ..

theorem not_timingKeys_of_page {q : Pg} (p : Nat)
    (h : (twPg p).index ≠ q.index) {r : RegName} {i : Nat} (hr : r.off i < 4096) :
    regKey q r i ∉ timingKeys p := by
  intro hm
  obtain ⟨x, hx, he⟩ := List.mem_map.1 hm
  have hoff : ∀ x ∈ [RegName.twpTiming, .twpTxFrames, .twpRxFrames], x.off 0 < 4096 := by decide
  exact regKey_ne_of_page h (hoff x hx) hr he

theorem timing_not_discKeys (p : Nat) : regKey (twPg p) .twpTiming 0 ∉ discKeys := by
  have hne {r : RegName} (hr : r.off 0 < 4096) := regKey_ne_of_page (r := .twpTiming) (i := 0) (twPg_ne_tideline p)
    (by decide) hr
  simp only [discKeys, eventKeys, List.mem_cons, List.not_mem_nil, or_false, not_or]
  exact ⟨hne (by decide), hne (by decide), hne (by decide), hne (by decide)⟩

theorem exec_timingExchange_up {s : State} {p : Fin 16} {d : BitVec 24} {off : Word} (hup : s.up)
    (hu : s.twUp p = true) :
    exec (.timingExchange p d off) s = .next (
      if s.timeFollows ∧ s.fld .tideway .twCtrl 0 6 3 = p.val ∧
        s.standby then (s.timed p d off).disciplined ⟨false, true, true⟩ off.toInt
      else s.timed p d off) := by
  have hw := State.writes_timed s p d off
  have hctrl : (s.timed p d off).rd .tideway .twCtrl 0 = s.rd .tideway .twCtrl 0 :=
    State.writes_rd hw (not_timingKeys_of_page p (twPg_ne_tideway p) (by decide))
  have hfollows : (s.timed p d off).timeFollows = s.timeFollows :=
    State.timeFollows_congr hctrl (State.writes_rd hw (not_timingKeys_of_page p (twPg_ne_tideline p) (by decide)))
  have hstand : (s.timed p d off).standby = s.standby := by rw [State.writes_eq hw]
  rw [exec_timingExchange, execTimingExchange, State.awake_up hup, if_neg (by simp [hu])]
  dsimp only
  change Host.Outcome.next (if (s.timed p d off).timeFollows = true ∧
    (s.timed p d off).fld .tideway .twCtrl 0 6 3 = p.val ∧
    (s.timed p d off).standby = true then (s.timed p d off).disciplined _ _ else s.timed p d off) = _
  rw [hfollows, State.fld_congr hctrl, hstand]

/-! ### Wavelengths and lanes (R336, R337, R354) -/

theorem State.wlFailed_congr {s t : State} {p : Nat} (h : t.rd (twPg p) .twpStat 0 = s.rd (twPg p) .twpStat 0)
    (w : Nat) :
    t.wlFailed p w = s.wlFailed p w := by rw [State.wlFailed, h, State.wlFailed]

theorem State.laneWl_congr {s t : State} {p : Nat} (h : t.rd (twPg p) .twpStat 0 = s.rd (twPg p) .twpStat 0) (i : Nat) :
    t.laneWl p i = s.laneWl p i := State.fld_congr h _ _

theorem State.twState_congr {s t : State} {p : Nat} (h : t.rd (twPg p) .twpStat 0 = s.rd (twPg p) .twpStat 0) :
    t.twState p = s.twState p := State.fld_congr h _ _

theorem bit1_setBits_same (w : Word) {b : Nat} (h : b < 64) : bit1 (setBits w b b 1) b = true := by
  rw [bit1, getLsbD_setBits _ _ _ _ _ h, if_pos ⟨le_rfl, le_rfl⟩, Nat.sub_self]
  rfl

theorem State.laneWl_setLaneWl_same (s : State) (p : Nat) {i v : Nat} (hi : i < 4) (hv : v < 8) :
    (s.setLaneWl p i v).laneWl p i = v := by
  have hw : 3 * i + 5 + 1 - (3 * i + 3) = 3 := by omega
  unfold State.laneWl State.setLaneWl
  rw [State.fld_setFld_same (by omega), hw]
  exact Nat.mod_eq_of_lt hv

theorem State.laneWl_setLaneWl_other (s : State) (p v : Nat) {i j : Nat} (hi : i < 4) (h : j ≠ i) :
    (s.setLaneWl p i v).laneWl p j = s.laneWl p j := State.laneWl_setFld (by omega) (by omega)

theorem State.wlFailed_setLaneWl (s : State) (p v w : Nat) {i : Nat} (hi : i < 4) :
    (s.setLaneWl p i v).wlFailed p w = s.wlFailed p w := by
  rw [State.wlFailed, State.setLaneWl, State.rd_setFld_same, bit1_setBits_other (by omega) (by omega), State.wlFailed]

theorem State.twState_setLaneWl (s : State) (p i v : Nat) (hi : i < 4) : (s.setLaneWl p i v).twState p = s.twState p :=
  State.fld_setFld_other (by omega) (by omega)

theorem State.wlFailed_setTwState (s : State) (p st w : Nat) : (s.setTwState p st).wlFailed p w = s.wlFailed p w := by
  rw [State.wlFailed, State.rd_setTwState, bit1_setBits_other (by decide) (by omega), State.wlFailed]

theorem State.wlFailed_event (s : State) (p b w : Nat) : (s.event (twPg p) b).wlFailed p w = s.wlFailed p w :=
  State.wlFailed_congr (State.rd_event_other (twpStat_not_eventKeys p)) w

/-- A wavelength is marked as failed. -/
def State.withFailed (s : State) (p w : Nat) : State := s.setFld (twPg p) .twpStat 0 (15 + w) (15 + w) 1

theorem State.wlFailed_withFailed_same (s : State) (p : Nat) {w : Nat} (hw : w < 5) :
    (s.withFailed p w).wlFailed p w = true := by
  rw [State.wlFailed, State.withFailed, State.rd_setFld_same, bit1_setBits_same _ (by omega)]

theorem State.wlFailed_withFailed_other (s : State) (p : Nat) {w v : Nat} (hw : w < 5) (h : v ≠ w) :
    (s.withFailed p w).wlFailed p v = s.wlFailed p v := by
  rw [State.wlFailed, State.withFailed, State.rd_setFld_same, bit1_setBits_other (by omega) (by omega), State.wlFailed]

theorem State.laneWl_withFailed (s : State) (p : Nat) {w i : Nat} (hw : w < 5) (hi : i < 4) :
    (s.withFailed p w).laneWl p i = s.laneWl p i := State.laneWl_setFld (by omega) (Or.inl (by omega))

theorem State.twState_withFailed (s : State) (p : Nat) {w : Nat} (hw : w < 5) :
    (s.withFailed p w).twState p = s.twState p :=
  State.fld_setFld_other (by omega) (by omega)

/-- The wavelength of a lane that fails was no spare, and is none. -/
theorem State.spareWl_withFailed {s : State} {p w i : Nat} (hw : w < 5) (hi : i < 4) (hl : s.laneWl p i = w) :
    (s.withFailed p w).spareWl p = s.spareWl p := by
  have hlanes : ∀ j ∈ List.range 4, (s.withFailed p w).laneWl p j = s.laneWl p j :=
    fun j hj => State.laneWl_withFailed s p hw (List.mem_range.1 hj)
  unfold State.spareWl
  refine List.find?_congr (fun v _ => ?_)
  by_cases hv : v = w
  · have hused : (List.range 4).all (fun i => decide (s.laneWl p i ≠ v)) = false :=
      List.all_eq_false.2 ⟨i, List.mem_range.2 hi, by simp [hl, hv]⟩
    rw [hused, hv, State.wlFailed_withFailed_same s p hw]
    simp
  · rw [State.wlFailed_withFailed_other s p hw hv]
    congr 1
    rw [Bool.eq_iff_iff, List.all_eq_true, List.all_eq_true]
    exact forall₂_congr (fun j hj => by rw [hlanes j hj])

theorem State.spareWl_lt {s : State} {p v : Nat} (h : s.spareWl p = some v) : v < 5 :=
    List.mem_range.1 (List.mem_of_find?_eq_some h)

/-! ### What the loss of a wavelength leads to (R336, R351) -/

theorem State.noted_rest (s : State) (p : Pg) (st : Status) : s.noted p st = { s with errs := (s.noted p st).errs } := by
  unfold State.noted State.report
  rw [if_pos rfl]
  dsimp only
  split <;> rfl

/-- A lane has moved to the spare: it is counted, with its event and a record (R336, R377). -/
def State.spared (s : State) (p : Nat) : State :=
    ((s.bump (twPg p) .twpLaneSpares 0 1).event (twPg p) 2).noted (twPg p) .eLink

/-- The registers that a spared lane writes, beside the wavelengths of the port. -/
def spareKeys (p : Nat) : List Nat := regKey (twPg p) .twpLaneSpares 0 :: eventKeys (twPg p)

theorem laneSpares_not_eventKeys (p : Nat) : regKey (twPg p) .twpLaneSpares 0 ∉ eventKeys (twPg p) :=
    regKey_not_eventKeys (by decide)

theorem State.writes_sparedEvent (s : State) (p : Nat) :
    s.writes ((s.bump (twPg p) .twpLaneSpares 0 1).event (twPg p) 2) (spareKeys p) :=
  State.writes_event (State.writes_bump (State.writes_refl s _) 1 (List.mem_cons_self ..)) 2 (List.subset_cons_self _ _)

theorem State.spared_regs (s : State) (p : Nat) :
    (s.spared p).regs = ((s.bump (twPg p) .twpLaneSpares 0 1).event (twPg p) 2).regs := by
  rw [State.spared, State.noted_rest]

theorem State.regsBut_spared (s : State) (p : Nat) : s.regsBut (s.spared p) (spareKeys p) :=
  fun k hk => (State.reg_congr (State.spared_regs s p) k).trans ((State.writes_sparedEvent s p).regs k hk)

theorem State.spared_rest (s : State) (p : Nat) :
    s.spared p = { s with regs := (s.spared p).regs, errs := (s.spared p).errs } := by
  have hw := State.writes_sparedEvent s p
  unfold State.spared
  rw [State.noted_rest, State.writes_eq hw]

theorem State.raised_spared (s : State) (p : Nat) : s.raised (s.spared p) (twPg p) 2 := by
  refine State.raised_to (State.raised_event_of (t := s.bump (twPg p) .twpLaneSpares 0 1) 2 (fun k hk => ?_)
    (State.bump_now ..)) (fun k _ => State.reg_congr (State.spared_regs s p) k)
  rw [State.reg_bump, if_neg (ne_of_mem_of_not_mem hk (laneSpares_not_eventKeys p)).symm]

theorem State.laneSpares_spared (s : State) (p : Nat) :
    (s.spared p).rd (twPg p) .twpLaneSpares 0 = s.counted (twPg p) .twpLaneSpares 0 1 := by
  rw [State.rd_congr (State.spared_regs s p), State.rd_event_other (laneSpares_not_eventKeys p), State.rd_bump_same]

theorem State.stat_spared (s : State) (p : Nat) : (s.spared p).rd (twPg p) .twpStat 0 = s.rd (twPg p) .twpStat 0 := by
  refine State.regsBut_spared s p _ (fun hm => ?_)
  rcases List.mem_cons.1 hm with h | h
  · exact regKey_ne (by decide) h
  · exact twpStat_not_eventKeys p h

/-- What a change of a port's state leaves of its wavelengths. -/
structure State.lanesKept (s t : State) (p : Nat) : Prop where
  lane : ∀ i, t.laneWl p i = s.laneWl p i
  failed : ∀ w, t.wlFailed p w = s.wlFailed p w

theorem State.lanesKept_spared (s : State) (p : Nat) : s.lanesKept (s.spared p) p :=
  ⟨State.laneWl_congr (State.stat_spared s p), State.wlFailed_congr (State.stat_spared s p)⟩

theorem State.lanesKept_stateEvent (s : State) (p st b : Nat) : s.lanesKept ((s.setTwState p st).event (twPg p) b) p :=
  ⟨fun i => (State.laneWl_event _ p b i).trans (State.laneWl_setTwState s p st i),
    fun w => (State.wlFailed_event _ p b w).trans (State.wlFailed_setTwState s p st w)⟩

theorem State.lanesKept_twDegraded (s : State) (p : Nat) : s.lanesKept (s.twDegraded p) p := by
  unfold State.twDegraded
  split
  · exact State.lanesKept_stateEvent s p 3 3
  · exact ⟨fun _ => rfl, fun _ => rfl⟩

theorem State.regsOnly_twDegraded (s : State) (p : Nat) : s.regsOnly (s.twDegraded p) := by
  unfold State.twDegraded
  split
  · exact State.regsOnly_wr (State.regsOnly_wr (State.regsOnly_wr (State.writes_setTwState s p 3).rest _ _ _ _) _ _ _ _) _ _ _ _
  · exact State.regsOnly_refl s

theorem State.twState_stateEvent (s : State) (p b : Nat) {st : Nat} (h : st < 8) :
    ((s.setTwState p st).event (twPg p) b).twState p = st :=
  (State.twState_congr (State.rd_event_other (twpStat_not_eventKeys p))).trans (State.twState_setTwState s p h)

theorem State.raised_stateEvent (s : State) (p st b : Nat) : s.raised ((s.setTwState p st).event (twPg p) b)
    (twPg p) b :=
  State.raised_event_of b (State.reg_setTwState_event s p st) (State.now_setTwState s p st)

theorem State.twDegraded_up {s : State} {p : Nat} (h : s.twUp p = true) :
    (s.twDegraded p).twState p = 3 ∧ s.raised (s.twDegraded p) (twPg p) 3 := by
  rw [State.twDegraded, if_pos h]
  exact ⟨State.twState_stateEvent s p 3 (by decide), State.raised_stateEvent s p 3 3⟩

theorem State.twDegraded_down {s : State} {p : Nat} (h : s.twUp p = false) : s.twDegraded p = s := by
  rw [State.twDegraded, h, if_neg Bool.false_ne_true]

theorem State.twDark_eq (s : State) (p : Nat) :
    s.twDark p = ((s.setTwState p 0).setTwPort p { s.twPort p with retrain := some s.now }).event (twPg p) 0 := rfl

theorem State.lanesKept_twDark (s : State) (p : Nat) : s.lanesKept (s.twDark p) p where
  lane := fun i => by
    rw [State.twDark_eq, State.laneWl_event]
    exact (State.laneWl_congr (State.rd_congr (State.setTwPort_regs ..) ..) i).trans (State.laneWl_setTwState s p 0 i)
  failed := fun w => by
    rw [State.twDark_eq, State.wlFailed_event]
    exact (State.wlFailed_congr (State.rd_congr (State.setTwPort_regs ..) ..) w).trans (State.wlFailed_setTwState s p 0 w)

theorem State.twDark_result (s : State) (p : Nat) :
    (s.twDark p).twState p = 0 ∧ s.raised (s.twDark p) (twPg p) 0 ∧
    (s.twDark p).twPort p = { s.twPort p with retrain := some s.now } ∧
      s.portsMoved (s.twDark p) := by
  rw [State.twDark_eq]
  refine ⟨?state, ?raised, ?port, ?rest⟩
  case state =>
    exact (State.twState_congr (State.rd_event_other (twpStat_not_eventKeys p))).trans
      ((State.twState_setTwPort ..).trans (State.twState_setTwState s p (by decide)))
  case raised =>
    exact State.raised_event_of 0 (fun k hk => (State.reg_setTwPort ..).trans (State.reg_setTwState_event s p 0 k hk))
      ((State.setTwPort_now ..).trans (State.now_setTwState s p 0))
  case port => exact (State.twPort_congr (State.event_tw ..) p).trans (State.twPort_setTwPort_same ..)
  case rest =>
    exact State.portsMoved_trans (State.portsMoved_trans (State.portsMoved_setTwState s p 0)
      (State.portsMoved_setTwPort ..)) (State.portsMoved_event ..)

/-- A lane whose wavelength has failed moves to the spare, or is lost. -/
def State.laneLost (s : State) (p i : Nat) : State :=
  match s.spareWl p with
  | some v =>
    let (r, s) := if s.fld .tideway .twLaser (p / 4) 2 1 = 1 then s.draw else (0, s)
    let s := s.setLaneWl p i v
    if bit1 r 0 then s.twDegraded p else s.spared p
  | none =>
    let s := s.setLaneWl p i 7
    if s.lanes p = 0 then s.twDark p else s.twDegraded p

theorem State.wavelengthFails_eq {s : State} {p w : Nat} (h : s.wlFailed p w = false) :
    s.wavelengthFails p w =
      match (List.range 4).find? (fun i => (s.withFailed p w).laneWl p i = w) with
      | none => s.withFailed p w
      | some i => (s.withFailed p w).laneLost p i := by
  unfold State.wavelengthFails
  rw [h, if_neg Bool.false_ne_true]
  rfl

/-- The state with one free value drawn. -/
def State.drawn (s : State) : State := { s with freeIx := s.freeIx + 1 }

/-- A lane moves to the spare; while the port's source drains the port may run DEGRADED instead (R351). -/
theorem State.laneLost_spare {s : State} {p v : Nat} (h : s.spareWl p = some v) (i : Nat) :
    (s.fld .tideway .twLaser (p / 4) 2 1 ≠ 1 → s.laneLost p i = (s.setLaneWl p i v).spared p) ∧
      (s.fld .tideway .twLaser (p / 4) 2 1 = 1 →
        s.laneLost p i = (s.drawn.setLaneWl p i v).twDegraded p ∨ s.laneLost p i = (s.drawn.setLaneWl p i v).spared p) := by
  unfold State.laneLost
  rw [h]
  dsimp only
  refine ⟨fun hd => ?_, fun hd => ?_⟩
  · rw [if_neg hd]
    exact if_neg (by simp [bit1])
  · rw [if_pos hd, State.draw_eq]
    dsimp only
    split
    · exact Or.inl rfl
    · exact Or.inr rfl

theorem State.laneLost_none {s : State} {p : Nat} (h : s.spareWl p = none) (i : Nat) :
    s.laneLost p i =
      if (s.setLaneWl p i 7).lanes p = 0 then (s.setLaneWl p i 7).twDark p else (s.setLaneWl p i 7).twDegraded p := by
  unfold State.laneLost
  rw [h]

theorem State.wlFailed_laneLost (s : State) (p w : Nat) {i : Nat} (hi : i < 4) :
    (s.laneLost p i).wlFailed p w = s.wlFailed p w := by
  have hset (u : State) (v : Nat) := State.wlFailed_setLaneWl u p v w hi
  cases hs : s.spareWl p with
  | some v =>
    obtain ⟨hmoves, hdrains⟩ := State.laneLost_spare hs i
    by_cases hd : s.fld .tideway .twLaser (p / 4) 2 1 = 1
    · rcases hdrains hd with he | he
      · rw [he, (State.lanesKept_twDegraded _ p).failed, hset]; rfl
      · rw [he, (State.lanesKept_spared _ p).failed, hset]; rfl
    · rw [hmoves hd, (State.lanesKept_spared _ p).failed, hset]
  | none =>
    rw [State.laneLost_none hs]
    split
    · rw [(State.lanesKept_twDark _ p).failed, hset]
    · rw [(State.lanesKept_twDegraded _ p).failed, hset]

/-- Whichever lane it carries, a wavelength that fails is marked, and no other. -/
theorem State.wlFailed_wavelengthFails {s : State} {p w : Nat} (h : s.wlFailed p w = false) (v : Nat) :
    (s.wavelengthFails p w).wlFailed p v = (s.withFailed p w).wlFailed p v := by
  rw [State.wavelengthFails_eq h]
  split
  · rfl
  · next i hi => exact State.wlFailed_laneLost _ p v (List.mem_range.1 (List.mem_of_find?_eq_some hi))

theorem State.wavelengthFails_unused {s : State} {p w : Nat} (hw : w < 5) (h : s.wlFailed p w = false)
    (hn : ∀ i < 4, s.laneWl p i ≠ w) : s.wavelengthFails p w = s.withFailed p w := by
  have hf : (List.range 4).find? (fun i => (s.withFailed p w).laneWl p i = w) = none := by
    refine List.find?_eq_none.2 (fun i hi => ?_)
    have hi := List.mem_range.1 hi
    simpa [State.laneWl_withFailed s p hw hi] using hn i hi
  rw [State.wavelengthFails_eq h, hf]

/-- The one lane that a wavelength carries is lost with it. -/
theorem State.wavelengthFails_lane {s : State} {p w i : Nat} (hw : w < 5) (h : s.wlFailed p w = false) (hi : i < 4)
    (hl : s.laneWl p i = w) (ho : ∀ j < 4, j ≠ i → s.laneWl p j ≠ w) :
    s.wavelengthFails p w = (s.withFailed p w).laneLost p i := by
  have hf : (List.range 4).find? (fun i => (s.withFailed p w).laneWl p i = w) = some i := by
    refine List.find?_range_eq_some.2 ⟨?_, List.mem_range.2 hi, fun j hj => ?_⟩
    · simp [State.laneWl_withFailed s p hw hi, hl]
    · simpa [State.laneWl_withFailed s p hw (hj.trans hi)] using ho j (hj.trans hi) (Nat.ne_of_lt hj)
  rw [State.wavelengthFails_eq h, hf]

/-! ### The effect of WAVELENGTH_FAIL on the lane it carried (R336, R351) -/

/-- From s to t a wavelength of a port has been marked and one of its lanes set to another. -/
structure State.relaned (s t : State) (p i v : Nat) : Prop where
  lane : t.laneWl p i = v
  others : ∀ j < 4, j ≠ i → t.laneWl p j = s.laneWl p j
  state : t.twState p = s.twState p
  writes : s.writes t [regKey (twPg p) .twpStat 0]

theorem State.relaned_setLaneWl {s : State} {p w i v : Nat} (hw : w < 5) (hi : i < 4) (hv : v < 8) :
    s.relaned ((s.withFailed p w).setLaneWl p i v) p i v where
  lane := State.laneWl_setLaneWl_same _ p hi hv
  others := fun _ hj hne => (State.laneWl_setLaneWl_other _ p v hi hne).trans (State.laneWl_withFailed s p hw hj)
  state := (State.twState_setLaneWl _ p i v hi).trans (State.twState_withFailed s p hw)
  writes := State.writes_setFld (State.writes_setFld (State.writes_refl s _) _ _ _ (List.mem_singleton_self _)) _ _ _
    (List.mem_singleton_self _)

theorem State.relaned_now {s t : State} {p i v : Nat} (h : s.relaned t p i v) : t.now = s.now := by rw [State.writes_eq h.writes]

/-- What is raised after a lane has moved is raised from the state before. -/
theorem State.relaned_raised {s t u : State} {p i v b : Nat} (h : s.relaned t p i v) (k : t.raised u (twPg p) b) :
    s.raised u (twPg p) b :=
  State.raised_from k (State.event_regs_stay h.writes.regs (twpStat_not_eventKeys p)) (State.relaned_now h)

theorem State.counting_twPg (s : State) (p : Nat) :
    s.counting (twPg p) = (bit1 (s.rd (twPg p) .twpCtrl 0) 2 && s.sys.fullTest.isNone) := by
  unfold State.counting
  exact Bool.and_true _

theorem State.relaned_counted {s t : State} {p i v : Nat} (h : s.relaned t p i v) (n : Nat) :
    t.counted (twPg p) .twpLaneSpares 0 n = s.counted (twPg p) .twpLaneSpares 0 n := by
  have hrd {r : RegName} (hr : r.off 0 ≠ RegName.twpStat.off 0) : t.rd (twPg p) r 0 = s.rd (twPg p) r 0 :=
    h.writes.regs _ (fun e => regKey_ne hr (List.mem_singleton.1 e))
  have hsys : t.sys = s.sys := by rw [State.writes_eq h.writes]
  rw [State.counted, State.counted, State.counting_twPg, State.counting_twPg, hrd (by decide), hrd (by decide), hsys]

theorem State.relaned_twUp {s t : State} {p i v : Nat} (h : s.relaned t p i v) : t.twUp p = s.twUp p :=
    State.twUp_congr h.state

theorem State.fld_withFailed_laser (s : State) {p : Nat} (w : Nat) (hp : p < 16) :
    (s.withFailed p w).fld .tideway .twLaser (p / 4) 2 1 = s.fld .tideway .twLaser (p / 4) 2 1 := by
  have hoff : RegName.twLaser.off (p / 4) < 4096 := by
    show 0x110 + 8 * (p / 4) < 4096
    omega
  exact State.fld_congr (State.rd_setFld_other (regKey_ne_of_page (twPg_ne_tideway p) (by decide) hoff)) 2 1

/-- The effect of a lane that moves to the spare while its port's source stands. -/
theorem State.relaned_spared {s t : State} {p i v : Nat} (h : s.relaned t p i v) :
    s.raised (t.spared p) (twPg p) 2 ∧ (t.spared p).rd (twPg p) .twpLaneSpares 0 = s.counted (twPg p) .twpLaneSpares 0 1 ∧
      s.regsBut (t.spared p) (regKey (twPg p) .twpStat 0 :: spareKeys p) ∧
      t.spared p = { s with regs := (t.spared p).regs, errs := (t.spared p).errs } := by
  refine ⟨State.relaned_raised h (State.raised_spared t p), ?count, ?regs, ?rest⟩
  case count => rw [State.laneSpares_spared, State.relaned_counted h]
  case regs =>
    exact State.regsBut_trans (State.regsBut_mono h.writes.regs (List.cons_subset_cons _ (List.nil_subset _)))
      (State.regsBut_mono (State.regsBut_spared t p) (List.subset_cons_self _ _))
  case rest => rw [State.spared_rest, State.writes_eq h.writes]

/-- The effect of a lane that moves, or stands already, while its port's source drains. -/
theorem State.relaned_degraded {s t : State} {p i v : Nat} (h : s.relaned t p i v) :
    (s.twUp p = true ∧ (t.drawn.twDegraded p).twState p = 3) ∨ (s.twUp p = false ∧
    (t.drawn.twDegraded p).twState p = s.twState p) := by
  have hup : t.drawn.twUp p = s.twUp p := State.relaned_twUp (t := t) h
  cases hs : s.twUp p with
  | true => exact Or.inl ⟨rfl, (State.twDegraded_up (hup.trans hs)).1⟩
  | false =>
    rw [State.twDegraded_down (hup.trans hs)]
    exact Or.inr ⟨rfl, h.state⟩

/-- A lane that moves to the spare (R336), or while its source drains may stand there already (R351). -/
theorem State.laneLost_moves {s : State} {p w i v : Nat} (hp : p < 16) (hw : w < 5) (hi : i < 4)
    (hv : (s.withFailed p w).spareWl p = some v) :
    let t := (s.withFailed p w).laneLost p i
    (∀ j < 4, j ≠ i → t.laneWl p j = s.laneWl p j) ∧ t.laneWl p i = v ∧
      (s.fld .tideway .twLaser (p / 4) 2 1 ≠ 1 → s.raised t (twPg p) 2 ∧
        t.rd (twPg p) .twpLaneSpares 0 = s.counted (twPg p) .twpLaneSpares 0 1 ∧
        s.regsBut t (regKey (twPg p) .twpStat 0 :: spareKeys p) ∧ t = { s with regs := t.regs, errs := t.errs }) ∧
      (s.fld .tideway .twLaser (p / 4) 2 1 = 1 → s.raised t (twPg p) 2 ∨ (s.twUp p = true ∧ t.twState p = 3) ∨
        (s.twUp p = false ∧ t.twState p = s.twState p)) := by
  have hlt := State.spareWl_lt hv
  have hlaser := State.fld_withFailed_laser s w hp
  obtain ⟨hmoves, hdrains⟩ := State.laneLost_spare hv i
  rw [hlaser] at hmoves hdrains
  have hr := State.relaned_setLaneWl (s := s) (p := p) hw hi (v := v) (by omega)
  have hdrawn : (s.withFailed p w).drawn.setLaneWl p i v = ((s.withFailed p w).setLaneWl p i v).drawn := rfl
  rw [hdrawn] at hdrains
  generalize (s.withFailed p w).setLaneWl p i v = u at hmoves hdrains hr
  dsimp only
  by_cases hd : s.fld .tideway .twLaser (p / 4) 2 1 = 1
  · rcases hdrains hd with he | he
    · have hk := State.lanesKept_twDegraded u.drawn p
      rw [he]
      exact ⟨fun j hj hne => (hk.lane j).trans (hr.others j hj hne), (hk.lane i).trans hr.lane, fun hn => absurd hd hn,
        fun _ => Or.inr (State.relaned_degraded hr)⟩
    · have hk := State.lanesKept_spared u.drawn p
      rw [he]
      exact ⟨fun j hj hne => (hk.lane j).trans (hr.others j hj hne), (hk.lane i).trans hr.lane, fun hn => absurd hd hn,
        fun _ => Or.inl (State.relaned_raised hr (State.raised_spared u.drawn p))⟩
  · have hk := State.lanesKept_spared u p
    rw [hmoves hd]
    exact ⟨fun j hj hne => (hk.lane j).trans (hr.others j hj hne), (hk.lane i).trans hr.lane,
      fun _ => State.relaned_spared hr, fun h => absurd h hd⟩

theorem State.lanes_eq_zero_iff (s : State) (p : Nat) : s.lanes p = 0 ↔ ∀ j < 4, s.laneWl p j = 7 := by
  rw [State.lanes, List.length_eq_zero_iff, List.filter_eq_nil_iff]
  simp [List.mem_range]

/-- A lane that is lost, with no spare to move to (R336). -/
theorem State.laneLost_dark {s : State} {p w i : Nat} (hw : w < 5) (hi : i < 4)
    (hv : (s.withFailed p w).spareWl p = none) :
    let t := (s.withFailed p w).laneLost p i
    (∀ j < 4, j ≠ i → t.laneWl p j = s.laneWl p j) ∧ t.laneWl p i = 7 ∧
      ((∀ j < 4, j ≠ i → s.laneWl p j = 7) → t.twState p = 0 ∧ s.raised t (twPg p) 0 ∧
        t.twPort p = { s.twPort p with retrain := some s.now } ∧ t = { s with regs := t.regs, tw := t.tw }) ∧
      ((∃ j < 4, j ≠ i ∧ s.laneWl p j ≠ 7) → t = { s with regs := t.regs } ∧
        (s.twUp p = true → t.twState p = 3 ∧ s.raised t (twPg p) 3)) := by
  have he := State.laneLost_none hv i
  have hr := State.relaned_setLaneWl (s := s) (p := p) hw hi (v := 7) (by decide)
  generalize (s.withFailed p w).setLaneWl p i 7 = u at he hr
  have hzero : u.lanes p = 0 ↔ ∀ j < 4, j ≠ i → s.laneWl p j = 7 := by
    rw [State.lanes_eq_zero_iff]
    refine ⟨fun h j hj hne => (hr.others j hj hne).symm.trans (h j hj), fun h j hj => ?_⟩
    by_cases hji : j = i
    · rw [hji, hr.lane]
    · rw [hr.others j hj hji, h j hj hji]
  dsimp only
  rw [he]
  split
  · next h0 =>
    have hk := State.lanesKept_twDark u p
    obtain ⟨hstate, hraised, hport, hrest⟩ := State.twDark_result u p
    have htw : u.tw = s.tw := by rw [State.writes_eq hr.writes]
    refine ⟨fun j hj hne => (hk.lane j).trans (hr.others j hj hne), (hk.lane i).trans hr.lane,
      fun _ => ⟨hstate, State.relaned_raised hr hraised, ?_, ?_⟩,
        fun ⟨j, hj, hne, h7⟩ => absurd (hzero.1 h0 j hj hne) h7⟩
    · rw [hport, State.twPort_congr htw, State.relaned_now hr]
    · have hmoved := State.portsMoved_trans (State.portsMoved_writes hr.writes) hrest
      rw [hmoved]
  · next h0 =>
    have hk := State.lanesKept_twDegraded u p
    refine ⟨fun j hj hne => (hk.lane j).trans (hr.others j hj hne), (hk.lane i).trans hr.lane,
      fun h => absurd (hzero.2 h) h0, fun _ => ⟨?_, fun hup => ?_⟩⟩
    · rw [State.regsOnly_eq (State.regsOnly_twDegraded u p), State.writes_eq hr.writes]
    · obtain ⟨hstate, hraised⟩ := State.twDegraded_up ((State.relaned_twUp hr).trans hup)
      exact ⟨hstate, State.relaned_raised hr hraised⟩

theorem exec_wavelengthFail_up {s : State} {p : Fin 16} {w : Fin 5} (hup : s.up) :
    exec (.wavelengthFail p w) s = .next (s.wavelengthFails p.val w.val) := by
  rw [exec_wavelengthFail, execWavelengthFail, State.awake_up hup]

/-- Settles O46: what a port sends again, how it goes down and comes up, and where the lane of a failed wavelength
goes. -/
theorem tidewayPortResults : Obligations.TidewayPortResults := by
  unfold Obligations.TidewayPortResults
  refine ⟨fun s p x hup hx => ⟨exec_replayTimeout_again hup hx, exec_replayTimeout_retrains hup hx,
    exec_replayTimeout_idle hup,
    fun a ha hu hc hr => ⟨exec_linkTimeout_lost hup hx ha hu hc hr, exec_linkTimeout_waits hup (hx ▸ ha)⟩,
    fun id a ha hq hc hu he hd hi hl => exec_tidewayLinkUp_again hup hx ha hq hc hu he hd hi hl,
    fun w => ⟨exec_recalibration_done hup, fun hs => ?busy⟩,
      fun d off hu => ⟨fun hf => ?publishes, fun hf hp hs => ?disciplines⟩⟩,
    fun s p w hup => ⟨fun hf => ?known, fun hf => ⟨_, exec_wavelengthFail_up hup, ?marked, ?unmarked, ?unused, ?lane⟩⟩⟩
  case busy =>
    rw [exec_recalibration, execRecalibration, State.awake_up hup, if_neg (by simp [hs])]
  case publishes =>
    have hw := State.writes_timed s p d off
    exact ⟨_, by rw [exec_timingExchange_up hup hu, if_neg (by simp [hf])], State.rd_timed .., hw.regs,
      State.writes_eq hw⟩
  case disciplines =>
    refine ⟨_, by rw [exec_timingExchange_up hup hu, if_pos ⟨hf, hp, hs⟩], ?_, State.disciplined_offset ..⟩
    exact (State.regsBut_disciplined _ _ _ _ (timing_not_discKeys p)).trans (State.rd_timed ..)
  case known => rw [exec_wavelengthFail_up hup, State.wavelengthFails, if_pos hf]
  case marked => rw [State.wlFailed_wavelengthFails hf, State.wlFailed_withFailed_same s p w.isLt]
  case unmarked =>
    intro v _ hv
    rw [State.wlFailed_wavelengthFails hf, State.wlFailed_withFailed_other s p w.isLt hv]
  case unused =>
    intro hn
    rw [State.wavelengthFails_unused w.isLt hf hn]
    have hw : s.writes (s.withFailed p w) [regKey (twPg p) .twpStat 0] :=
      State.writes_setFld (State.writes_refl s _) _ _ _ (List.mem_singleton_self _)
    exact ⟨fun i hi => State.laneWl_withFailed s p w.isLt hi, hw.regs, State.writes_eq hw⟩
  case lane =>
    intro i hi hl ho
    have hspare := State.spareWl_withFailed w.isLt hi hl
    rw [State.wavelengthFails_lane w.isLt hf hi hl ho]
    refine ⟨?others, fun v hv => ?moves, fun hv => ?lost⟩
    case moves => exact (State.laneLost_moves p.isLt w.isLt hi (hspare.trans hv)).2
    case lost => exact (State.laneLost_dark w.isLt hi (hspare.trans hv)).2
    case others =>
      cases hv : (s.withFailed p w).spareWl p with
      | some v => exact (State.laneLost_moves p.isLt w.isLt hi hv).1
      | none => exact (State.laneLost_dark w.isLt hi hv).1

end Sys2Proof.Machine

/-! Proofs about the cube arrays (R60 to R98, R135, R136, R169 to R189): weight loads, products, recurrent steps, their ends, and the
tile-pass boundaries. -/

namespace Sys2Proof.Machine

/-! ### Counters (R75) -/

theorem toNat_satAdd (a : Word) (n : Nat) : (satAdd a n).toNat = min (a.toNat + n) (2 ^ 64 - 1) := by
  have := a.isLt
  unfold satAdd
  split
  · rw [BitVec.toNat_allOnes]; omega
  · rw [BitVec.toNat_add, BitVec.toNat_ofNat]; omega

theorem satAdd_satAdd (a : Word) (m n : Nat) : satAdd (satAdd a m) n = satAdd a (m + n) := by
  apply BitVec.eq_of_toNat_eq
  simp only [toNat_satAdd]
  omega

/-- Settles O21: a counter is raised by a saturating addition, and a clear leaves it at 0. -/
theorem countersSaturate : Obligations.CountersSaturate := by
  unfold Obligations.CountersSaturate
  intro s p r i n
  refine ⟨fun hc => ?counts, fun hc => ?holds, State.regsBut_bump (State.regsBut_refl rfl _) (List.mem_singleton_self _),
    fun hr hi hc hn => ?cleared⟩
  case counts => rw [State.rd_bump_same, State.counted, if_pos hc, toNat_satAdd]
  case holds => rw [State.bump, hc]; rfl
  case cleared =>
    rw [State.rd_bump_same, State.counted, if_pos hc, toNat_satAdd, State.rd_clearCounters hr hi,
      show BitVec.toNat (0 : Word) = 0 from rfl]
    omega

/-- Whether a page counts is fixed by its control register and by self-test, on a page that keeps no time outside SERVICE. -/
theorem State.counting_congr {s t : State} {p : Pg} {ctl : RegName} {clr en : Nat} (hp : p.type.counterCtl = some (ctl, clr, en))
    (hh : p.type ≠ .harbour) (hc : t.rd p ctl 0 = s.rd p ctl 0) (hs : t.sys = s.sys) : t.counting p = s.counting p := by
  have hslice (c : Nat) : t.sliceOn c = s.sliceOn c := by simp only [State.sliceOn, State.physOf, hs]
  simp only [State.counting, hp, hc, hs, hslice]
  cases p with
  | harbour h => exact absurd rfl hh
  | _ => rfl

theorem State.counted_congr {s t : State} {p : Pg} {r : RegName} {i n : Nat} (hc : t.counting p = s.counting p)
    (hr : t.rd p r i = s.rd p r i) : t.counted p r i n = s.counted p r i n := by
  rw [State.counted, State.counted, hc, hr]

/-- From s to t something has been counted or raised, in registers with the given keys, and free values have been drawn. -/
structure State.tallies (s t : State) (ks : List Nat) : Prop where
  regs : s.regsBut t ks
  rest : t = { s with regs := t.regs, freeIx := t.freeIx }

theorem State.tallies_refl (s : State) (ks : List Nat) : s.tallies s ks := ⟨State.regsBut_refl rfl ks, rfl⟩

theorem State.tallies_trans {s t u : State} {ks : List Nat} (h : s.tallies t ks) (k : t.tallies u ks) : s.tallies u ks :=
  ⟨State.regsBut_trans h.regs k.regs, by rw [k.rest, h.rest]⟩

theorem State.tallies_mono {s t : State} {ks js : List Nat} (h : s.tallies t ks) (hs : ks ⊆ js) : s.tallies t js :=
  ⟨State.regsBut_mono h.regs hs, h.rest⟩

theorem State.tallies_of_writes {s t : State} {ks : List Nat} (h : s.writes t ks) : s.tallies t ks := by
  refine ⟨h.regs, ?_⟩
  obtain ⟨m, rfl⟩ := h.rest
  rfl

theorem State.tallies_bump {s : State} {p : Pg} {r : RegName} {i : Nat} {ks : List Nat} (n : Nat) (hk : regKey p r i ∈ ks) :
    s.tallies (s.bump p r i n) ks := State.tallies_of_writes (State.writes_bump (State.writes_refl s ks) n hk)

theorem State.tallies_event {s : State} {p : Pg} {ks : List Nat} (b : Nat) (hk : eventKeys p ⊆ ks) : s.tallies (s.event p b) ks :=
  State.tallies_of_writes (State.writes_event (State.writes_refl s ks) b hk)

theorem State.tallies_draw (s : State) (ks : List Nat) : s.tallies s.draw.2 ks := ⟨State.regsBut_refl rfl ks, rfl⟩

theorem State.tallies_bumpFree {s : State} {p : Pg} {r : RegName} {i : Nat} {ks : List Nat} (hk : regKey p r i ∈ ks) :
    s.tallies (s.bumpFree p r i) ks := State.tallies_trans (State.tallies_draw s ks) (State.tallies_bump _ hk)

theorem State.tallies_bumpUpTo {s : State} {p : Pg} {r : RegName} {i : Nat} {ks : List Nat} (n : Nat) (hk : regKey p r i ∈ ks) :
    s.tallies (s.bumpUpTo p r i n) ks := State.tallies_trans (State.tallies_draw s ks) (State.tallies_bump _ hk)

theorem State.tallies_foldl {α : Type} {f : State → α → State} {ks : List Nat} (l : List α)
    (hf : ∀ (s : State), ∀ x ∈ l, s.tallies (f s x) ks) (s : State) : s.tallies (l.foldl f s) ks := by
  induction l generalizing s with
  | nil => exact State.tallies_refl s ks
  | cons x l ih =>
    exact State.tallies_trans (hf s x List.mem_cons_self) (ih (fun s y hy => hf s y (List.mem_cons_of_mem _ hy)) _)

theorem State.tallies_cores {s t : State} {ks : List Nat} (h : s.tallies t ks) : t.cores = s.cores := by rw [h.rest]

theorem State.tallies_sys {s t : State} {ks : List Nat} (h : s.tallies t ks) : t.sys = s.sys := by rw [h.rest]

theorem State.tallies_mem {s t : State} {ks : List Nat} (h : s.tallies t ks) : t.mem = s.mem := by rw [h.rest]

theorem State.tallies_rd {s t : State} {ks : List Nat} (h : s.tallies t ks) {p : Pg} {r : RegName} {i : Nat} (hk : regKey p r i ∉ ks) :
    t.rd p r i = s.rd p r i := h.regs _ hk

/-! ### What the work of an instruction leaves -/

/-- Of a core only the arrays, the tile registers, the score store and the arrival windows differ. -/
structure Core.worked (k k' : Core) : Prop where
  holder : k'.holder = k.holder
  prevHolder : k'.prevHolder = k.prevHolder
  stopping : k'.stopping = k.stopping
  queues : k'.queues = k.queues
  sems : k'.sems = k.sems
  waiting : k'.waiting = k.waiting

theorem Core.worked_refl (k : Core) : k.worked k := ⟨rfl, rfl, rfl, rfl, rfl, rfl⟩

theorem Core.worked_trans {k l m : Core} (h : k.worked l) (g : l.worked m) : k.worked m :=
  ⟨g.holder.trans h.holder, g.prevHolder.trans h.prevHolder, g.stopping.trans h.stopping, g.queues.trans h.queues,
    g.sems.trans h.sems, g.waiting.trans h.waiting⟩

theorem Core.worked_setArr (k : Core) (a : Nat) (x : ArraySt) : k.worked (k.setArr a x) := by
  unfold Core.setArr
  split <;> exact ⟨rfl, rfl, rfl, rfl, rfl, rfl⟩

/-- From s to t an instruction of core c has done its work: queues and semaphores are as they were, and beside registers with the given
keys only memory, the rest of core c and the count of free values drawn may differ. -/
structure State.works (s t : State) (c : Fin 36) (ks : List Nat) : Prop where
  regs : s.regsBut t ks
  cores : s.coresBut t c
  core : (s.core c).worked (t.core c)
  rest : t = { s with regs := t.regs, cores := t.cores, mem := t.mem, bad := t.bad, freeIx := t.freeIx }

theorem State.works_refl (s : State) (c : Fin 36) (ks : List Nat) : s.works s c ks :=
  ⟨State.regsBut_refl rfl ks, fun _ _ => rfl, Core.worked_refl _, rfl⟩

theorem State.works_trans {s t u : State} {c : Fin 36} {ks : List Nat} (h : s.works t c ks) (k : t.works u c ks) : s.works u c ks :=
  ⟨State.regsBut_trans h.regs k.regs, fun d hd => (k.cores d hd).trans (h.cores d hd), Core.worked_trans h.core k.core,
    by rw [k.rest, h.rest]⟩

theorem State.works_mono {s t : State} {c : Fin 36} {ks js : List Nat} (h : s.works t c ks) (hs : ks ⊆ js) : s.works t c js :=
  ⟨State.regsBut_mono h.regs hs, h.cores, h.core, h.rest⟩

theorem State.works_of_tallies {s t : State} {ks : List Nat} (h : s.tallies t ks) (c : Fin 36) : s.works t c ks := by
  have hc := State.tallies_cores h
  exact ⟨h.regs, fun d _ => State.core_congr hc d, by rw [State.core_congr hc]; exact Core.worked_refl _, by rw [h.rest]⟩

theorem State.works_setCore {s : State} {c : Fin 36} {k : Core} (ks : List Nat) (h : (s.core c).worked k) : s.works (s.setCore c k) c ks :=
  ⟨State.regsBut_refl rfl ks, fun _ hd => State.core_setCore_other (Ne.symm hd), by rw [State.core_setCore_same]; exact h, rfl⟩

/-- Only memory and its marks differ, so the work of an instruction may be what changed them. -/
theorem State.works_of_mem {s t : State} (h : t = { s with mem := t.mem, bad := t.bad, freeIx := t.freeIx }) (c : Fin 36)
    (ks : List Nat) : s.works t c ks := by
  have hc : t.cores = s.cores := by rw [h]
  exact ⟨State.regsBut_refl (by rw [h]) ks, fun d _ => State.core_congr hc d, by rw [State.core_congr hc]; exact Core.worked_refl _,
    by rw [h]⟩

theorem State.works_scramble (s : State) (c : Fin 36) (ks : List Nat) (a n : Nat) : s.works (s.scramble a n) c ks :=
  State.works_of_mem rfl c ks

theorem State.works_of_wrote {s t : State} {rs : List (Nat × Nat)} (h : s.wrote t rs) (hl : ∀ r ∈ rs, harbourAddr r.1 = false)
    (c : Fin 36) (ks : List Nat) : s.works t c ks := State.works_of_mem (by rw [h.2.2 hl]) c ks

theorem State.works_foldl {α : Type} {f : State → α → State} {c : Fin 36} {ks : List Nat} (hf : ∀ s x, State.works s (f s x) c ks)
    (l : List α) : ∀ s : State, s.works (l.foldl f s) c ks := by
  induction l with
  | nil => exact fun s => State.works_refl s c ks
  | cons x l ih => exact fun s => State.works_trans (hf s x) (ih _)

theorem State.works_queue {s t : State} {c : Fin 36} {ks : List Nat} (h : s.works t c ks) (d r : Nat) : t.queue d r = s.queue d r := by
  by_cases e : d = c.val
  · subst e
    rw [State.queue, Core.queue, h.core.queues]
    rfl
  · rw [State.queue, h.cores d e]
    rfl

theorem State.works_sems {s t : State} {c : Fin 36} {ks : List Nat} (h : s.works t c ks) : s.semsSame t := by
  intro g d i
  have hg : t.sems = s.sems := by rw [h.rest]
  have hd : (t.core d).sems = (s.core d).sems := by
    by_cases e : d = c.val
    · subst e; exact h.core.sems
    · rw [h.cores d e]
  rw [State.sem, State.sem, hg, hd]

theorem State.works_rd {s t : State} {c : Fin 36} {ks : List Nat} (h : s.works t c ks) {p : Pg} {r : RegName} {i : Nat}
    (hk : regKey p r i ∉ ks) : t.rd p r i = s.rd p r i := h.regs _ hk

/-! ### Flights whose banks, loads and units move (R60, R83, R92, R295) -/

/-- A flight but for what loads, banks and switches note in it. -/
def Flight.bare (f : Flight) : Flight := { f with units := [], saved := [], visited := 0, loading := false, old := {} }

theorem Flight.bare_eq {f g : Flight} (h : g.bare = f.bare) :
    g = { f with units := g.units, saved := g.saved, visited := g.visited, loading := g.loading, old := g.old } := by
  cases f; cases g
  simp only [Flight.bare, Flight.mk.injEq] at h
  simp only [Flight.mk.injEq]
  tauto

theorem Flight.bare_ins {f g : Flight} (h : g.bare = f.bare) : g.ins = f.ins := by rw [Flight.bare_eq h]; rfl

/-- The flights of a queue are as they were but for what loads, banks and switches note in them, and the queue that waits for a DMA tag may
be ready. -/
structure Queue.alike (x y : Queue) : Prop where
  rest : y = { x with state := y.state, flights := y.flights, ledgeSaved := y.ledgeSaved }
  state : y.state = x.state ∨ x.state = .waiting ∧ y.state = .running
  length : y.flights.length = x.flights.length
  flights : ∀ g ∈ y.flights, ∃ f ∈ x.flights, g.bare = f.bare
  last : ∀ g, y.flights.getLast? = some g → g.ins.opcode = opWaitGe → ∃ f, x.flights.getLast? = some f ∧ g.bare = f.bare

theorem Queue.alike_refl (x : Queue) : x.alike x := ⟨rfl, .inl rfl, rfl, fun g hg => ⟨g, hg, rfl⟩, fun g hg _ => ⟨g, hg, rfl⟩⟩

theorem Queue.alike_trans {x y z : Queue} (h : x.alike y) (k : y.alike z) : x.alike z where
  rest := by rw [k.rest, h.rest]
  state := by
    rcases k.state with k | ⟨k, e⟩
    · rw [k]; exact h.state
    · rcases h.state with h | ⟨-, h⟩
      · exact .inr ⟨h ▸ k, e⟩
      · rw [h] at k; cases k
  length := k.length.trans h.length
  flights := fun g hg => by
    obtain ⟨f, hf, e⟩ := k.flights g hg
    obtain ⟨f', hf', e'⟩ := h.flights f hf
    exact ⟨f', hf', e.trans e'⟩
  last := fun g hg ho => by
    obtain ⟨f, hf, e⟩ := k.last g hg ho
    obtain ⟨f', hf', e'⟩ := h.last f hf (by rw [← Flight.bare_ins e]; exact ho)
    exact ⟨f', hf', e.trans e'⟩

/-- A note in each flight of a queue that leaves it what it is. -/
theorem Queue.alike_map {x : Queue} {f : Flight → Flight} (h : ∀ g, (f g).bare = g.bare) (l : List (Nat × List Byte)) :
    x.alike { x with flights := x.flights.map f, ledgeSaved := l } where
  rest := rfl
  state := .inl rfl
  length := List.length_map _
  flights := fun g hg => by
    obtain ⟨a, ha, rfl⟩ := List.mem_map.1 hg
    exact ⟨a, ha, h a⟩
  last := fun g hg _ => by
    rw [List.getLast?_map] at hg
    obtain ⟨a, ha, rfl⟩ := Option.map_eq_some_iff.1 hg
    exact ⟨a, ha, h a⟩

/-- A flight that is put in place of those with its number, one of which it is but for its notes. -/
theorem Queue.alike_replace {x : Queue} {f f' : Flight} (hf : f ∈ x.flights) (hb : f'.bare = f.bare) (ho : f'.ins.opcode ≠ opWaitGe) :
    x.alike { x with flights := x.flights.map (fun g => if g.seq = f'.seq then f' else g) } where
  rest := rfl
  state := .inl rfl
  length := List.length_map _
  flights := fun g hg => by
    obtain ⟨a, ha, rfl⟩ := List.mem_map.1 hg
    split
    · exact ⟨f, hf, hb⟩
    · exact ⟨a, ha, rfl⟩
  last := fun g hg hw => by
    rw [List.getLast?_map] at hg
    obtain ⟨a, ha, rfl⟩ := Option.map_eq_some_iff.1 hg
    split at hw
    · exact absurd hw ho
    · next h => exact ⟨a, ha, by rw [if_neg h]⟩

/-- A queue that waits on a faulted semaphore does so before its flights have been noted in. -/
theorem State.faultWaits_alike {s t : State} {d r : Nat} (hs : ∀ g c i, semFaulted (t.sem g c i) = semFaulted (s.sem g c i))
    (hq : (s.queue d r).alike (t.queue d r)) (h : t.faultWaits d r = true) : s.faultWaits d r = true := by
  unfold State.faultWaits at *
  rw [Bool.or_eq_true] at *
  refine h.imp (fun h => ?wait) (fun h => ?gate)
  case wait =>
    simp only [State.waitsOnFault, Queue.inWaitGe, Bool.and_eq_true, beq_iff_eq] at h ⊢
    obtain ⟨hw, h⟩ := h
    cases hl : (t.queue d r).flights.getLast? with
    | none => rw [hl] at h; cases h
    | some g =>
      simp only [hl, Bool.and_eq_true, beq_iff_eq] at h
      obtain ⟨⟨ho, hd⟩, hf⟩ := h
      obtain ⟨f, hfl, hb⟩ := hq.last g hl ho
      rw [Flight.bare_eq hb, hs] at hf
      rw [Flight.bare_ins hb] at ho
      rw [Flight.bare_eq hb] at hd
      refine ⟨?_, ?_⟩
      · rcases hq.state with e | ⟨e, -⟩
        · rw [← e, hw]
        · exact e
      · simp only [hfl, ho, beq_self_eq_true, Bool.true_and, Bool.and_eq_true]
        exact ⟨hd, hf⟩
  case gate =>
    obtain ⟨g, hg, hf⟩ := List.any_eq_true.1 h
    obtain ⟨f, hm, hb⟩ := hq.flights g hg
    refine List.any_eq_true.2 ⟨f, hm, ?_⟩
    rw [Flight.bare_eq hb] at hf
    unfold State.gateFaulted at *
    rwa [hs] at hf

/-! ### Banks and loads that go on (R60, R83, R92) -/

/-- From s to t banks of core c's arrays and what the flights note of them have changed, and free values have been drawn. -/
structure State.banked (s t : State) (c : Fin 36) : Prop where
  rest : t = { s with cores := t.cores, freeIx := t.freeIx }
  cores : s.coresBut t c
  core : t.core c = { s.core c with queues := (t.core c).queues, a0 := (t.core c).a0, a1 := (t.core c).a1 }
  queue : ∀ r, t.queue c r = { s.queue c r with flights := (t.queue c r).flights }
  alike : ∀ r, (s.queue c r).alike (t.queue c r)

theorem State.banked_refl (s : State) (c : Fin 36) : s.banked s c := ⟨rfl, fun _ _ => rfl, rfl, fun _ => rfl, fun _ => Queue.alike_refl _⟩

theorem State.banked_trans {s t u : State} {c : Fin 36} (h : s.banked t c) (k : t.banked u c) : s.banked u c :=
  ⟨by rw [k.rest, h.rest], fun d hd => (k.cores d hd).trans (h.cores d hd), by rw [k.core, h.core], fun r => by rw [k.queue, h.queue],
    fun r => Queue.alike_trans (h.alike r) (k.alike r)⟩

theorem State.banked_foldl {α : Type} {f : State → α → State} {c : Fin 36} (hf : ∀ s x, State.banked s (f s x) c) (l : List α) :
    ∀ s : State, s.banked (l.foldl f s) c := by
  induction l with
  | nil => exact fun s => State.banked_refl s c
  | cons x l ih => exact fun s => State.banked_trans (hf s x) (ih _)

theorem State.banked_draw (s : State) (c : Fin 36) : s.banked s.draw.2 c :=
  ⟨rfl, fun _ _ => rfl, rfl, fun _ => rfl, fun _ => Queue.alike_refl _⟩

theorem Core.setArr_queue (k : Core) (a : Nat) (x : ArraySt) (r : Nat) : (k.setArr a x).queue r = k.queue r := by
  unfold Core.setArr
  split <;> rfl

theorem State.banked_setArr (s : State) (c : Fin 36) (a : Nat) (x : ArraySt) : s.banked (s.setCore c ((s.core c).setArr a x)) c := by
  have hq (r : Nat) : (s.setCore c ((s.core c).setArr a x)).queue c r = s.queue c r := by
    rw [State.queue, State.core_setCore_same, Core.setArr_queue]; rfl
  refine ⟨rfl, fun d hd => State.core_setCore_other (Ne.symm hd), ?_, fun r => by rw [hq], fun r => by rw [hq]; exact Queue.alike_refl _⟩
  rw [State.core_setCore_same]
  unfold Core.setArr
  split <;> rfl

theorem State.banked_setFlight {s : State} {c : Fin 36} {q : Nat} {f f' : Flight} (hf : f ∈ (s.queue c q).flights)
    (hb : f'.bare = f.bare) (ho : f'.ins.opcode ≠ opWaitGe) : s.banked (s.setFlight c q f') c := by
  have hq (r : Nat) : (s.setFlight c q f').queue c r = if q = r then
      { s.queue c q with flights := (s.queue c q).flights.map (fun g => if g.seq = f'.seq then f' else g) } else s.queue c r := by
    rw [State.setFlight, State.queue_setQueue]
    simp
  refine ⟨rfl, fun d hd => State.core_setQueue_other (Ne.symm hd), ?_, fun r => ?_, fun r => ?_⟩
  · rw [State.setFlight, State.core_setQueue_same]; rfl
  · rw [hq]; split
    · next e => subst e; rfl
    · rfl
  · rw [hq]; split
    · next e => subst e; exact Queue.alike_replace hf hb ho
    · exact Queue.alike_refl _

theorem State.banked_beginLoad (s : State) (c : Fin 36) (x : Wl) : s.banked (s.beginLoad c x) c := State.banked_setArr s c _ _

theorem State.beginLoad_queue (s : State) (c : Fin 36) (x : Wl) (r : Nat) : (s.beginLoad c x).queue c r = s.queue c r := by
  rw [State.beginLoad, State.queue, State.core_setCore_same, Core.setArr_queue]; rfl

/-- A WLOAD that stands in flight and has not begun its load. -/
def Flight.waitsToLoad (f : Flight) : Bool := f.ins.opcode == opWload && !f.done && !f.loading

theorem State.banked_beginWaiting (s : State) (c : Fin 36) (e : Option Nat) : s.banked (s.beginWaiting c e) c := by
  refine State.banked_foldl (fun s q => ?_) _ s
  split
  · exact State.banked_refl s c
  · next f hf =>
    split
    · have ho := List.find?_some hf
      simp only [Bool.and_eq_true, beq_iff_eq] at ho
      refine State.banked_trans (State.banked_beginLoad s c _) (State.banked_setFlight (f := f) ?_ rfl ?_)
      · rw [State.beginLoad_queue]; exact List.mem_of_find?_eq_some hf
      · show f.ins.opcode ≠ _
        rw [ho.1.1]; decide
    · exact State.banked_refl s c

theorem Flight.product_opcode {f : Flight} (h : f.product = true) : f.ins.opcode = opMatmul ∨ f.ins.opcode = opRstep := by
  simpa [Flight.product] using h

theorem Flight.product_ne_waitGe {f : Flight} (h : f.product = true) : f.ins.opcode ≠ opWaitGe := by
  rcases Flight.product_opcode h with h | h <;> rw [h] <;> decide

theorem Flight.onArray_product {f : Flight} {n : Nat} (h : f.onArray n = true) : f.product = true ∧ f.done = false ∧ f.arr = n := by
  simpa [Flight.onArray, and_assoc] using h

theorem State.setArr_queue (s : State) (c : Fin 36) (a : Nat) (x : ArraySt) (d r : Nat) :
    (s.setCore c ((s.core c).setArr a x)).queue d r = s.queue d r := by
  by_cases e : c.val = d
  · subst e; rw [State.queue, State.core_setCore_same, Core.setArr_queue]; rfl
  · rw [State.queue, State.core_setCore_other e]; rfl

theorem State.banked_enterNext (s : State) (c : Fin 36) (q n : Nat) : s.banked (s.enterNext c q n) c := by
  unfold State.enterNext
  split
  · exact State.banked_refl s c
  · next f hf =>
    split
    · exact State.banked_refl s c
    · refine State.banked_trans (State.banked_setArr s c _ _) (State.banked_setFlight (f := f) ?_ rfl ?_)
      · rw [State.setArr_queue]; exact List.mem_of_find?_eq_some hf
      · have hp := (Flight.onArray_product (List.find?_some (p := fun f : Flight => f.onArray n) hf)).1
        exact Flight.product_ne_waitGe hp

theorem State.banked_banksMove (s : State) (c : Fin 36) (e : Option Nat) : s.banked (s.banksMove c e) c :=
  State.banked_trans (State.banked_beginWaiting s c e)
    (State.banked_foldl (fun s n => State.banked_foldl (fun s q => State.banked_enterNext s c q n) _ s) _ _)

theorem State.foldl_same {α : Type} {f : State → α → State} {s : State} {l : List α} (h : ∀ x ∈ l, f s x = s) : l.foldl f s = s := by
  induction l with
  | nil => rfl
  | cons x l ih =>
    rw [List.foldl_cons, h x List.mem_cons_self]
    exact ih (fun y hy => h y (List.mem_cons_of_mem _ hy))

theorem State.enterNext_idle {s : State} {c : Fin 36} {q n : Nat} (h : (s.core c).holder = some q →
    ∀ g ∈ (s.queue c q).flights, g.onArray n = true → g.visited ≠ 0) : s.enterNext c q n = s := by
  unfold State.enterNext
  split
  · rfl
  · next f hf =>
    by_cases hh : (s.core c).holder = some q
    · rw [if_pos (.inr (.inl (h hh f (List.mem_of_find?_eq_some hf) (List.find?_some (p := fun f : Flight => f.onArray n) hf))))]
    · rw [if_pos (.inr (.inr (.inl hh)))]

/-- Where no load waits to begin and no product of the holder has still to enter its array, nothing moves. -/
theorem State.banksMove_idle {s : State} {c : Fin 36} (e : Option Nat)
    (hl : ∀ r < 8, ∀ g ∈ (s.queue c r).flights, g.waitsToLoad = false)
    (hp : ∀ r < 8, (s.core c).holder = some r → ∀ g ∈ (s.queue c r).flights, ∀ n, g.onArray n = true → g.visited ≠ 0) :
    s.banksMove c e = s := by
  have hb : s.beginWaiting c e = s := State.foldl_same (fun r hr => by
    have hn : (s.queue c r).flights.find? (fun f => f.ins.opcode == opWload && !f.done && !f.loading) = none :=
      List.find?_eq_none.2 (fun g hg hw => Bool.false_ne_true ((hl r (List.mem_range.1 hr) g hg).symm.trans hw))
    rw [hn])
  rw [State.banksMove, hb]
  refine State.foldl_same (fun n _ => State.foldl_same (fun r hr => State.enterNext_idle (fun hh g hg => ?_)))
  exact hp r (List.mem_range.1 hr) hh g hg n

/-! ### What an instruction leaves at its completion (R89, R129, R130) -/

/-- The key of scalar register i of queue q of core c. -/
def scKey (c : Fin 36) (q i : Nat) : Nat := regKey (.sequencer c) .sc (16 * q + i)

theorem State.wrote_atEnd (s : State) (c : Fin 36) (l : List (Nat × List Byte)) :
    s.wrote (l.foldl (fun (s : State) p => s.store (ledgeAt c p.1) p.2) s) (l.map (fun p => (ledgeAt c p.1, p.2.length))) :=
  State.wrote_foldl l (fun (s : State) (p : Nat × List Byte) => s.store (ledgeAt c p.1) p.2)
    (fun p => (ledgeAt c p.1, p.2.length)) (fun s _ _ => State.wrote_store s _ _) s

/-- From s to t what flight f of queue q leaves for its completion has been stored: Ledge bytes and a scalar register. -/
structure State.endStores (s t : State) (c : Fin 36) (q : Nat) (f : Flight) : Prop where
  rest : t = { s with regs := t.regs, mem := t.mem, bad := t.bad }
  bytes : s.bytesBut t (f.atEnd.map (fun p => (ledgeAt c p.1, p.2.length)))
  stored : ∀ p, f.atEnd = [p] → t.bytes (ledgeAt c p.1) p.2.length = p.2
  scalar : ∀ p, f.scAtEnd = some p → t.scReg c q p.1 = p.2
  regs : s.regsBut t (f.scAtEnd.toList.map (fun p => scKey c q p.1))

theorem State.endStores_atEnd (s : State) (c : Fin 36) (q : Nat) (f : Flight) : s.endStores (s.atEnd c q f) c q f := by
  have hw := State.wrote_atEnd s c f.atEnd
  have hl := hw.2.2 (fun r hr => by
    obtain ⟨p, -, rfl⟩ := List.mem_map.1 hr
    exact harbourAddr_ledgeAt c p.1)
  have hs (p : Nat × List Byte) (h : f.atEnd = [p]) :
      (f.atEnd.foldl (fun (s : State) p => s.store (ledgeAt c p.1) p.2) s).bytes (ledgeAt c p.1) p.2.length = p.2 := by
    rw [h]
    exact State.bytes_store_same s _ _
  unfold State.atEnd
  dsimp only
  generalize f.atEnd.foldl (fun (s : State) p => s.store (ledgeAt c p.1) p.2) s = u at *
  have hr : u.regs = s.regs := by rw [hl]
  cases hz : f.scAtEnd with
  | none =>
    exact ⟨by rw [hl], hw.2.1, hs, fun p h => (by rw [hz] at h; cases h), State.regsBut_refl hr _⟩
  | some p =>
    show s.endStores (u.setSc c q p.1 p.2) c q f
    refine ⟨by rw [hl]; rfl, fun a ha => hw.2.1 a ha, fun p' h => ?_, fun p' h => ?_, ?_⟩
    · exact (State.bytes_congr (s := u) (t := u.setSc c q p.1 p.2) (fun _ => rfl) _ _).trans (hs p' h)
    · rw [hz] at h
      obtain rfl : p = p' := by simpa using h
      exact State.rd_wr_same u _ _ _ _
    · rw [hz]
      exact State.regsBut_wr (State.regsBut_refl hr _) (List.mem_singleton_self _)

/-! ### A queue that goes on alone (R78) -/

/-- From s to t the holder of core c has been settled and is as it was. -/
structure State.staysHeld (s t : State) (c : Fin 36) : Prop where
  rest : t = { s with cores := t.cores }
  cores : s.coresBut t c
  core : t.core c = { s.core c with queues := (t.core c).queues, stopping := false }
  queue : ∀ r, t.queue c r = s.queue c r

theorem State.applyWaiting_none {s : State} {c : Fin 36} (h : (s.core c).waiting = []) : s.applyWaiting c = s.setCore c (s.core c) := by
  unfold State.applyWaiting
  simp only [h, List.filter_nil, List.foldl_nil]
  rw [← h]

theorem State.arbitrate_staysHeld {s : State} {c : Fin 36} {h : Nat} (hh : (s.core c).holder = some h)
    (hk : (s.queue c h).keeps = true) (hr : s.higherReady c h = false)
    (ht : ∀ r, (s.queue c r).state = .waiting → (s.queue c r).inWaitGe = true) : s.staysHeld (s.arbitrate c) c := by
  have hkq := Core.queue_freeTags (k := s.core c) ht
  have hrest := Core.freeTags_rest (s.core c)
  unfold State.arbitrate
  dsimp only
  generalize (s.core c).freeTags = k at *
  have hq (r : Nat) : (s.setCore c k).queue c r = s.queue c r := by
    rw [State.queue, State.core_setCore_same]; exact hkq r
  have hkeeps : (k.queue h).keeps = true := by rw [hkq]; exact hk
  have hready : (s.setCore c k).higherReady c h = false := State.higherReady_of (q := h) hr (fun _ => rfl) (fun r _ => hq r) le_rfl
  have hhold : k.holder = some h := by rw [hrest]; exact hh
  simp only [hhold, hkeeps, hready, if_true, Bool.not_false]
  refine ⟨rfl, fun d hd => ?_, ?_, fun r => ?_⟩
  · rw [State.core_setCore_other (Ne.symm hd), State.core_setCore_other (Ne.symm hd)]
  · rw [State.core_setCore_same]
    conv_lhs => rw [hrest]
    simp only [hh]
  · rw [State.queue, State.core_setCore_same]; exact hkq r

theorem State.queue_setCore_self (s : State) (c : Fin 36) (d r : Nat) : (s.setCore c (s.core c)).queue d r = s.queue d r := by
  by_cases e : c.val = d
  · subst e; rw [State.queue, State.core_setCore_same]; rfl
  · rw [State.queue, State.core_setCore_other e]; rfl

/-- What is left of a step where the holder runs, nothing waits for it and no other queue is ready. -/
theorem State.tail_staysHeld {s : State} {c : Fin 36} {q : Fin 8} (hw : (s.core c).waiting = []) (hh : (s.core c).holder = some q.val)
    (hs : (s.queue c q).state = .running) (hr : ∀ r < 8, r ≠ q.val → (s.queue c r).state ≠ .running)
    (ht : ∀ r, (s.queue c r).state = .waiting → (s.queue c r).inWaitGe = true) :
    s.staysHeld (((s.settleHalt c q).applyWaiting c).arbitrate c) c := by
  have h1 : s.settleHalt c q = s := by
    unfold State.settleHalt
    simp [hs]
  rw [h1, State.applyWaiting_none hw]
  have hq := State.queue_setCore_self s c c
  have hc (d : Nat) : (s.setCore c (s.core c)).core d = s.core d := by
    by_cases e : c.val = d
    · subst e; exact State.core_setCore_same ..
    · exact State.core_setCore_other e
  have k := State.arbitrate_staysHeld (s := s.setCore c (s.core c)) (h := q.val) (by rw [hc]; exact hh)
    (by rw [hq]; unfold Queue.keeps; rw [hs])
    (State.higherReady_none (fun r h8 hn => by rw [hq]; exact hr r h8 hn)) (fun r => by rw [hq]; exact ht r)
  exact ⟨k.rest, fun d hd => (k.cores d hd).trans (hc d), by rw [k.core, hc], fun r => (k.queue r).trans (hq r)⟩

/-! ### An instruction that completes with OK (R89) -/

/-- From s to t flight f of queue q is over, its status OK: registers with the given keys, arrays, whether a score product has completed, and
the count of free values drawn may differ. -/
structure State.workEnds (s t : State) (c : Fin 36) (q : Fin 8) (f : Flight) (ks : List Nat) : Prop where
  queue : t.queue c q = { s.queue c q with flights := [{ f with done := true }] }
  queues : ∀ d r, ¬(d = c.val ∧ r = q.val) → t.queue d r = s.queue d r
  core : t.core c = { s.core c with queues := (t.core c).queues, scoreDone := (t.core c).scoreDone, a0 := (t.core c).a0,
                                    a1 := (t.core c).a1 }
  cores : s.coresBut t c
  regs : s.regsBut t ks
  rest : t = { s with regs := t.regs, cores := t.cores, freeIx := t.freeIx }

theorem State.setQueue_other {s : State} {c : Fin 36} {q : Fin 8} {x : Queue} {d r : Nat} (h : ¬(d = c.val ∧ r = q.val)) :
    (s.setQueue c q x).queue d r = s.queue d r := by
  rw [State.queue_setQueue, if_neg (fun k => h ⟨k.1.symm, k.2.symm⟩)]

/-- A flight that ends with OK is taken off the head of its queue, which has its ADDs performed and its record written. -/
theorem State.retireHead_ok {s : State} {c : Fin 36} {q : Fin 8} {f : Flight} (hs : f.status = .ok) (he : f.ins.opcode ≠ opEnd)
    (ha : ((s.atEnd c q f).performAdds c f).1 = .ok) :
    let w := ((s.atEnd c q f).performAdds c f).2.tileComplete c q f .ok
    s.retireHead c q f = w.setQueue c q { w.queue c q with flights := (w.queue c q).flights.drop 1 } := by
  obtain ⟨hown, hpost, hboth, -⟩ := State.performAdds_ok ha
  unfold State.retireHead
  simp only [hs, ne_eq, not_true_eq_false, if_false, hown, hpost, ← hboth, he]

theorem State.retire_lone {s : State} {c : Fin 36} {q : Nat} {f : Flight} (hf : (s.queue c q).flights = [f]) (hd : f.done = true)
    (hn : ((s.retireHead c q f).queue c q).flights = []) :
    s.retire c q ((s.queue c q).flights.length + 1) = s.retireHead c q f := by
  rw [hf]
  show s.retire c q 2 = _
  rw [State.retire, hf]
  simp only [hd, if_true]
  rw [State.retire, hn]

theorem State.tileComplete_rest (s : State) (c : Fin 36) (q : Nat) (f : Flight) (st : Status) :
    s.tileComplete c q f st = { s with records := (s.tileComplete c q f st).records } := by
  unfold State.tileComplete
  split <;> rfl

theorem State.tileComplete_records (s : State) (c : Fin 36) (q : Fin 8) (f : Flight) :
    (s.tileComplete c q f .ok).records = s.records ++ if f.ins.record then [s.flightDone c q f] else [] := by
  unfold State.tileComplete
  split
  · simp [State.complete, State.flightDone, Status.code]
  · exact (List.append_nil _).symm

theorem State.semOp_coresBut (s : State) (sub g : Bool) (c i n : Nat) (tr : Bool) : s.coresBut (s.semOp sub g c i n tr).2 c := by
  have hset (w : Word) : s.coresBut (s.setSem g c i w) c := by
    unfold State.setSem
    split
    · exact fun d _ => State.core_congr rfl d
    · exact fun d hd => State.core_setCore_other (Ne.symm hd)
  unfold State.semOp
  dsimp only
  split
  · exact fun d hd => (State.core_congr rfl d).trans (hset _ d hd)
  · exact hset _

/-- The semaphores an instruction's ADDs name are of its own core or of the die. -/
theorem State.performAdds_coresBut (s : State) (c : Fin 36) (f : Flight) : s.coresBut (s.performAdds c f).2 c := by
  have how : s.coresBut (s.performOwn c f).2 c := by
    unfold State.performOwn
    dsimp only
    split
    · exact State.semOp_coresBut s _ _ _ _ _ _
    · exact fun _ _ => rfl
  have hpost (u : State) : u.coresBut (u.performPost c f).2 c := by
    unfold State.performPost
    dsimp only
    split
    · exact State.semOp_coresBut u _ _ _ _ _ _
    · exact fun _ _ => rfl
  unfold State.performAdds
  dsimp only
  split
  · exact fun d hd => (hpost _ d hd).trans (how d hd)
  · exact how

/-- From v to z the lone flight f of queue q, over with OK, has left its queue: what it leaves for its completion is stored, its ADDs have
acted and its record is written. -/
structure State.retires (v z : State) (c : Fin 36) (q : Fin 8) (f : Flight) : Prop where
  queue : z.queue c q = { v.queue c q with flights := [] }
  queues : ∀ d r, ¬(d = c.val ∧ r = q.val) → z.queue d r = v.queue d r
  core : ∀ d, z.core d = { v.core d with queues := (z.core d).queues, sems := (z.core d).sems }
  cores : v.coresBut z c
  sems : ∀ g d i, z.sem g d i = (v.performAdds c f).2.sem g d i
  trace : z.trace = (v.performAdds c f).2.trace
  faulted : ∀ g d i, semFaulted (z.sem g d i) = semFaulted (v.sem g d i)
  records : z.records = v.records ++ if f.ins.record then [v.flightDone c q f] else []
  bytes : v.bytesBut z (f.atEnd.map (fun p => (ledgeAt c p.1, p.2.length)))
  stored : ∀ p, f.atEnd = [p] → z.bytes (ledgeAt c p.1) p.2.length = p.2
  scalar : ∀ p, f.scAtEnd = some p → z.scReg c q p.1 = p.2
  regs : v.regsBut z (f.scAtEnd.toList.map (fun p => scKey c q p.1))
  rest : z = { v with regs := z.regs, cores := z.cores, sems := z.sems, trace := z.trace, records := z.records, mem := z.mem, bad := z.bad }

theorem State.retire_retires {v : State} {c : Fin 36} {q : Fin 8} {f : Flight} (hf : (v.queue c q).flights = [f]) (hd : f.done = true)
    (hs : f.status = .ok) (he : f.ins.opcode ≠ opEnd) (ha : (v.performAdds c f).1 = .ok) :
    v.retires (v.retire c q ((v.queue c q).flights.length + 1)) c q f := by
  have hst := State.endStores_atEnd v c q f
  generalize hu : v.atEnd c q f = u at hst
  have hcores : u.cores = v.cores := by rw [hst.rest]
  have hvu : sameSems v u := ⟨fun g d i => State.sem_congr (by rw [hst.rest]) hcores g d i, by rw [hst.rest], by rw [hst.rest]⟩
  obtain ⟨hok, hsems, htrace, hnow⟩ := State.performAdds_same hvu c (f := f) (g := f) rfl
  have hp : (u.performAdds c f).1 = .ok := hok.trans ha
  obtain ⟨-, -, -, hadd⟩ := State.performAdds_ok hp
  have hother := State.performAdds_coresBut u c f
  have hz := State.retireHead_ok (s := v) (q := q) hs he (by rw [hu]; exact hp)
  dsimp only at hz
  rw [hu] at hz
  generalize (u.performAdds c f).2 = p at hsems htrace hadd hother hz
  have hrec := State.tileComplete_records p c q f
  have hrest := State.tileComplete_rest p c q f .ok
  generalize p.tileComplete c q f .ok = w at hrec hrest hz
  have hwp : w.cores = p.cores := by rw [hrest]
  have hwq (d r : Nat) : w.queue d r = v.queue d r := by
    rw [State.queue_congr hwp, hadd.queue, State.queue_congr hcores]
  have hqueue : (w.setQueue c q { w.queue c q with flights := (w.queue c q).flights.drop 1 }).queue c q =
      { v.queue c q with flights := [] } := by rw [State.queue_setQueue_same, hwq, hf]; rfl
  rw [State.retire_lone hf hd (by rw [hz, hqueue]), hz]
  generalize hzz : w.setQueue c q { w.queue c q with flights := (w.queue c q).flights.drop 1 } = z at *
  have hzw : z = { w with cores := z.cores } := by rw [← hzz]; rfl
  have hmem : z.mem = u.mem := by rw [hzw, hrest, hadd.rest]
  have hregs : z.regs = u.regs := by rw [hzw, hrest, hadd.rest]
  have hsem (g : Bool) (d i : Nat) : z.sem g d i = p.sem g d i := by
    rw [← hzz, State.sem_setQueue]
    exact State.sem_congr (by rw [hrest]) hwp g d i
  refine { queue := hqueue, queues := fun d r h => ?_, core := fun d => ?_, cores := fun d hd => ?_,
           sems := fun g d i => ?_, trace := ?_,
           faulted := fun g d i => ?_, records := ?_, bytes := fun a h => ?_, stored := fun x h => ?_, scalar := fun x h => ?_,
           regs := fun k h => ?_, rest := ?_ }
  · rw [← hzz, State.setQueue_other h, hwq]
  · have hw : w.core d = { v.core d with sems := (w.core d).sems } := by
      rw [State.core_congr hwp, hadd.core, State.core_congr hcores]
    rw [← hzz]
    by_cases e : c.val = d
    · subst e; rw [State.core_setQueue_same, hw]; rfl
    · rw [State.core_setQueue_other e, hw]
  · rw [← hzz, State.core_setQueue_other (Ne.symm hd), State.core_congr hwp, hother d hd, State.core_congr hcores]
  · rw [hsem, hsems]
  · rw [hzw, hrest]; exact htrace
  · rw [hsem, hadd.faulted, hvu.1]
  · have hr : p.records = v.records := by rw [hadd.rest, hst.rest]
    have hn : p.now = v.now := by rw [hadd.rest, hst.rest]
    have hq : p.queue c q = v.queue c q := by rw [hadd.queue, State.queue_congr hcores]
    rw [hzw]
    show w.records = _
    rw [hrec, hr, State.flightDone, State.flightDone, hn, hq]
  · exact (State.byte_congr hmem a).trans (hst.bytes a h)
  · exact (State.bytes_congr (State.byte_congr hmem) _ _).trans (hst.stored x h)
  · exact (State.reg_congr hregs _).trans (hst.scalar x h)
  · exact (State.reg_congr hregs k).trans (hst.regs k h)
  · rw [hzw, hrest, hadd.rest, hst.rest]

/-- Where a queue has nothing left in flight and the others are as they were but for their notes, no queue waits on a faulted semaphore. -/
theorem State.faultedWaiter_emptied {s t : State} {c : Fin 36} {q : Fin 8} (h : s.faultedWaiter = none)
    (hs : ∀ g d i, semFaulted (t.sem g d i) = semFaulted (s.sem g d i)) (hf : (t.queue c q).flights = [])
    (hq : ∀ d r, ¬(d = c.val ∧ r = q.val) → (s.queue d r).alike (t.queue d r)) : t.faultedWaiter = none := by
  refine State.faultedWaiter_none h (fun d r _ hw => ?_)
  by_cases e : d.val = c.val ∧ r = q.val
  · rw [State.faultWaits, State.waitsOnFault, e.1, e.2, hf] at hw
    simp at hw
  · exact State.faultWaits_alike hs (hq d r e) hw

theorem State.faultedWaiter_empty {s t : State} {c : Fin 36} {q : Fin 8} (h : s.faultedWaiter = none)
    (hs : ∀ g d i, semFaulted (t.sem g d i) = semFaulted (s.sem g d i)) (hf : (t.queue c q).flights = [])
    (hq : ∀ d r, ¬(d = c.val ∧ r = q.val) → t.queue d r = s.queue d r) : t.faultedWaiter = none :=
  State.faultedWaiter_emptied h hs hf (fun d r e => by rw [hq d r e]; exact Queue.alike_refl _)

/-- The step that ends a lone flight with OK, once its work is over. -/
theorem State.workEnds_finishes {s v : State} {c : Fin 36} {q : Fin 8} {f : Flight} {ks js : List Nat} (hl : s.lone c q f)
    (he : f.ins.opcode ≠ opEnd) (h : s.workEnds v c q f ks) (hk : ks ⊆ js ++ f.counts.map (fun x => regKey x.1 x.2.1 x.2.2.1)) :
    s.finishes (v.drainQueue c q).settled c q f js ∧
    ((v.drainQueue c q).settled.core c).a0 = (v.core c).a0 ∧ ((v.drainQueue c q).settled.core c).a1 = (v.core c).a1 ∧
    ((v.drainQueue c q).settled.core c).scoreDone = (v.core c).scoreDone ∧
    v.regsBut (v.drainQueue c q).settled (f.scAtEnd.toList.map (fun p => scKey c q p.1)) := by
  have hsv : sameSems s v := by
    refine ⟨fun g d i => ?_, by rw [h.rest], by rw [h.rest]⟩
    have hd : (v.core d).sems = (s.core d).sems := by
      by_cases e : d = c.val
      · subst e; rw [h.core]
      · rw [h.cores d e]
    rw [State.sem, State.sem, hd, h.rest]
  obtain ⟨hok, hsems, htrace, -⟩ := State.performAdds_same hsv c (f := { f with done := true }) (g := f) rfl
  obtain ⟨-, -, -, hadd⟩ := State.performAdds_ok hl.adds
  have hz := State.retire_retires (v := v) (c := c) (q := q) (f := { f with done := true }) (by rw [h.queue]) rfl hl.status he (hok.trans hl.adds)
  rw [State.drainQueue]
  generalize v.retire c q ((v.queue c q).flights.length + 1) = z at hz
  have hzq : z.queue c q = { s.queue c q with flights := [] } := by rw [hz.queue, h.queue]
  have hzo (d r : Nat) (e : ¬(d = c.val ∧ r = q.val)) : z.queue d r = s.queue d r := (hz.queues d r e).trans (h.queues d r e)
  have hzc : z.core c = { s.core c with queues := (z.core c).queues, sems := (z.core c).sems, scoreDone := (v.core c).scoreDone,
                                        a0 := (v.core c).a0, a1 := (v.core c).a1 } := by rw [hz.core, h.core]
  have hF := State.tail_staysHeld (s := z) (c := c) (q := q) (by rw [hzc]; exact hl.waiting) (by rw [hzc]; exact hl.holder)
    (by rw [hzq]; exact hl.running) (fun r h8 hn => by rw [hzo c r (fun e => hn e.2)]; exact hl.ready r h8 hn)
    (fun r hw => by
      by_cases e : r = q.val
      · subst e; rw [hzq] at hw; exact absurd (hl.running.symm.trans hw) (by decide)
      · rw [hzo c r (fun k => e k.2)] at hw ⊢; exact hl.tags r hw)
  generalize ((z.settleHalt c q).applyWaiting c).arbitrate c = F at hF
  have hFq (d r : Nat) : F.queue d r = z.queue d r := by
    by_cases e : d = c.val
    · subst e; exact hF.queue r
    · rw [State.queue, hF.cores d e]; rfl
  have hFs (g : Bool) (d i : Nat) : F.sem g d i = (s.performAdds c f).2.sem g d i := by
    have hd : (F.core d).sems = (z.core d).sems := by
      by_cases e : d = c.val
      · subst e; rw [hF.core]
      · rw [hF.cores d e]
    rw [← hsems, ← hz.sems, State.sem, State.sem, hd, hF.rest]
  have hw : F.faultedWaiter = none := State.faultedWaiter_empty (s := s) (c := c) (q := q) hl.faulted
    (fun g d i => by rw [hFs, hadd.faulted]) (by rw [hFq, hzq]) (fun d r e => by rw [hFq, hzo d r e])
  rw [State.settled_calm hw (by rw [hF.rest, hz.rest, h.rest]; exact hl.fast)]
  have hregs : F.regs = z.regs := by rw [hF.rest]
  have hmem : F.mem = z.mem := by rw [hF.rest]
  have hsm : (F.core c).sems = (z.core c).sems := by rw [hF.core]
  have hcore : F.core c = { s.core c with queues := (F.core c).queues, sems := (z.core c).sems, scoreDone := (v.core c).scoreDone,
                                          a0 := (v.core c).a0, a1 := (v.core c).a1 } := by rw [hF.core, hzc, ← hl.stopping]
  have h0 : (F.core c).a0 = (v.core c).a0 := by rw [hcore]
  have h1 : (F.core c).a1 = (v.core c).a1 := by rw [hcore]
  have hsd : (F.core c).scoreDone = (v.core c).scoreDone := by rw [hcore]
  refine ⟨{ queue := by rw [hFq, hzq], queues := fun d r e => by rw [hFq, hzo d r e], sems := hFs, trace := ?_, records := ?_,
            bytes := fun a k => ?_, stored := fun p k => ?_, scalar := fun p k => ?_, regs := fun k hn => ?_, core := ?_,
            cores := fun d e => ?_, rest := ?_ },
    h0, h1, hsd, fun k hn => (State.reg_congr hregs k).trans (hz.regs k hn)⟩
  · rw [hF.rest]; exact hz.trace.trans htrace
  · have hd : v.flightDone c q { f with done := true } = s.flightDone c q f := by
      have hdl : (v.queue c q).deadline = (s.queue c q).deadline := by rw [h.queue]
      have hn : v.now = s.now := by rw [h.rest]
      rw [State.flightDone, State.flightDone, hdl, hn]
      rfl
    have hr : v.records = s.records := by rw [h.rest]
    rw [hF.rest]
    show z.records = _
    rw [hz.records, hd, hr]
    rfl
  · exact (State.byte_congr hmem a).trans ((hz.bytes a k).trans (State.byte_congr (by rw [h.rest]) a))
  · exact (State.bytes_congr (State.byte_congr hmem) _ _).trans (hz.stored p k)
  · exact (State.reg_congr hregs _).trans (hz.scalar p k)
  · have hn' : k ∉ ks ∧ k ∉ f.scAtEnd.toList.map (fun p => scKey c q p.1) := by
      simp only [List.mem_append, not_or] at hn
      exact ⟨fun e => (List.mem_append.1 (hk e)).elim hn.1.1 hn.2, hn.1.2⟩
    exact (State.reg_congr hregs k).trans ((hz.regs k hn'.2).trans (h.regs k hn'.1))
  · exact hcore.trans (by rw [hsm, h0, h1, hsd])
  · rw [hF.cores d e, hz.cores d e, h.cores d e]
  · rw [hF.rest, hz.rest, h.rest]

/-! ### Arrays and their banks (R60) -/

theorem ArraySt.bank_setBank (x : ArraySt) (k : Bank) {b d : Nat} (hb : b < 2) (hd : d < 2) :
    (x.setBank b k).bank d = if d = b then k else x.bank d := by
  interval_cases b <;> interval_cases d <;> rfl

theorem ArraySt.setBank_rest (x : ArraySt) (b : Nat) (k : Bank) :
    x.setBank b k = { x with bank0 := (x.setBank b k).bank0, bank1 := (x.setBank b k).bank1 } := by
  unfold ArraySt.setBank
  split <;> rfl

theorem Core.arr_setArr (k : Core) (x : ArraySt) {a d : Nat} (ha : a < 2) (hd : d < 2) :
    (k.setArr a x).arr d = if d = a then x else k.arr d := by
  interval_cases a <;> interval_cases d <;> rfl

theorem Core.setArr_rest (k : Core) (a : Nat) (x : ArraySt) : k.setArr a x = { k with a0 := (k.setArr a x).a0, a1 := (k.setArr a x).a1 } := by
  unfold Core.setArr
  split <;> rfl

theorem Core.arr_of_arrays {k l : Core} (h0 : l.a0 = k.a0) (h1 : l.a1 = k.a1) (a : Nat) : l.arr a = k.arr a := by
  rw [Core.arr, Core.arr, h0, h1]

theorem State.works_setArr (s : State) (c : Fin 36) (ks : List Nat) (a : Nat) (x : ArraySt) :
    s.works (s.setCore c ((s.core c).setArr a x)) c ks := State.works_setCore ks (Core.worked_setArr _ a x)

/-- An instruction enters the queue after the state has been worked on. -/
theorem State.works_enters {s u : State} {c : Fin 36} {q : Fin 8} {f : Flight} {next : Nat} {ks : List Nat} (hn : next = f.pc + 32)
    (h : s.works u c ks) (hp : regKey (.sequencer c) .qPc q ∉ ks) (hi : regKey (.sequencer c) .issueCount 0 ∉ ks)
    (hk : regKey (.sequencer c) .seqCtrl 0 ∉ ks) (hg : regKey (.sequencer c) .qCfg q ∉ ks) :
    s.enters (u.issue c q f next) c q f ks ∧
      (u.issue c q f next).core c = { u.core c with queues := ((u.issue c q f next).core c).queues } ∧
      (u.issue c q f next).mem = u.mem ∧ (u.issue c q f next).bad = u.bad :=
  State.issue_enters hn h.rest (State.works_queue h) (State.works_sems h) h.cores h.regs hp hi hk hg

/-! ### Weight loads (R60, R61, R83) -/

theorem Wl.array_lt (i : Ins) : (Wl.of i).array < 2 := bits_lt i.w1 18 18

theorem Wl.bank_lt (i : Ins) : (Wl.of i).bank < 2 := bits_lt i.w1 19 19

/-- What a load that begins leaves in the arrays: the bank of its block is LOADING. -/
theorem State.beginLoad_arr (s : State) (c : Fin 36) (x : Wl) {a : Nat} (ha : a < 2) (hx : x.array < 2) :
    ((s.beginLoad c x).core c).arr a = if a = x.array then ((s.core c).arr a).setBank x.bank
      { state := .loading, tag := some x.tag, bytes := s.blockAt c x.tag } else (s.core c).arr a := by
  rw [State.beginLoad, State.core_setCore_same, Core.arr_setArr _ _ hx ha]
  split
  · next e => rw [e]
  · rfl

/-- The state a WLOAD enters in: its load has begun, where it may. -/
def State.wlStarts (s : State) (c : Fin 36) (x : Wl) (may : Bool) : State := if may then s.beginLoad c x else s

theorem State.works_wlStarts (s : State) (c : Fin 36) (x : Wl) (may : Bool) : s.works (s.wlStarts c x may) c [] := by
  unfold State.wlStarts
  split
  · exact State.works_setArr s c [] _ _
  · exact State.works_refl s c []

theorem State.wlStarts_rest (s : State) (c : Fin 36) (x : Wl) (may : Bool) :
    s.wlStarts c x may = { s with cores := (s.wlStarts c x may).cores } ∧
    (s.wlStarts c x may).core c = { s.core c with a0 := ((s.wlStarts c x may).core c).a0, a1 := ((s.wlStarts c x may).core c).a1 } := by
  unfold State.wlStarts
  split
  · refine ⟨rfl, ?_⟩
    rw [State.beginLoad, State.core_setCore_same]
    exact Core.setArr_rest ..
  · exact ⟨rfl, rfl⟩

theorem State.wlStarts_arr (s : State) (c : Fin 36) (x : Wl) (may : Bool) {a b : Nat} (ha : a < 2) (hb : b < 2) (hx : x.array < 2)
    (hy : x.bank < 2) :
    ((s.wlStarts c x may).core c).arr a = { (s.core c).arr a with
      bank0 := (((s.wlStarts c x may).core c).arr a).bank0, bank1 := (((s.wlStarts c x may).core c).arr a).bank1 } ∧
    (((s.wlStarts c x may).core c).arr a).bank b =
      if may ∧ a = x.array ∧ b = x.bank then { state := .loading, tag := some x.tag, bytes := s.blockAt c x.tag }
      else ((s.core c).arr a).bank b := by
  unfold State.wlStarts
  cases may with
  | false => simp
  | true =>
    simp only [if_true, State.beginLoad_arr s c x ha hx, true_and]
    by_cases e : a = x.array
    · simp only [e, if_true, true_and, ArraySt.bank_setBank _ _ hy hb]
      exact ⟨ArraySt.setBank_rest .., trivial⟩
    · simp [e]

theorem execWload_issues {s : State} {c : Fin 36} {q : Fin 8} {i : Ins} (h : s.issues c q i) (ho : i.opcode = opWload)
    (hc : s.wlCheck i = .ok) (hf : (s.queue c q).free { rd := [(ledgeAt c (Wl.of i).wt, blockBytes (Wl.of i).fa (Wl.of i).fw)] } = true) :
    let f := started i { rd := [(ledgeAt c (Wl.of i).wt, blockBytes (Wl.of i).fa (Wl.of i).fw)] } false
    let may := s.loadMayBegin c q (s.queue c q).seq (Wl.of i) none
    execWload c q s = .next ((s.wlStarts c (Wl.of i) may).issue c q (if may then s.loadBegun c f else f) (i.pc + 32)) := by
  unfold execWload
  rw [State.awake_up h.up, State.row_issues h (by simp [ho]) (by rw [ho]; decide) (by rw [ho]; exact fun e => absurd e (by decide))]
  simp only [hc, hf, ne_eq, not_true_eq_false, if_false, Bool.not_true, Bool.false_eq_true]
  unfold State.wlStarts
  split <;> rfl

/-- A WLOAD that is issued: the first part of O11. -/
theorem State.wload_enters {s : State} {c : Fin 36} {q : Fin 8} {i : Ins} (h : s.issues c q i) (ho : i.opcode = opWload)
    (hc : s.wlCheck i = .ok) (hf : (s.queue c q).free { rd := [(ledgeAt c (Wl.of i).wt, blockBytes (Wl.of i).fa (Wl.of i).fw)] } = true) :
    ∃ (t : State) (F : Flight), exec (.wload c q) s = .next t ∧ s.memSame t ∧ s.enters t c q F [] ∧ F.ins = i ∧ F.done = false ∧
      F.status = .ok ∧ F.loading = s.loadMayBegin c q (s.queue c q).seq (Wl.of i) none ∧
      t.core c = { s.core c with queues := (t.core c).queues, a0 := (t.core c).a0, a1 := (t.core c).a1 } ∧
      ∀ a b : Fin 2, ((t.core c).arr a) = { (s.core c).arr a with
          bank0 := ((t.core c).arr a).bank0, bank1 := ((t.core c).arr a).bank1 } ∧
        ((t.core c).arr a).bank b = if F.loading ∧ a.val = (Wl.of i).array ∧ b.val = (Wl.of i).bank then
          { state := .loading, tag := some (Wl.of i).tag, bytes := s.blockAt c (Wl.of i).tag } else ((s.core c).arr a).bank b := by
  rw [exec_wload, execWload_issues h ho hc hf]
  dsimp only
  generalize hm : s.loadMayBegin c q (s.queue c q).seq (Wl.of i) none = may
  generalize hg : (if may then s.loadBegun c _ else _ : Flight) = F
  obtain ⟨hpc, hins, hdone, hok, hload⟩ : F.pc = i.pc ∧ F.ins = i ∧ F.done = false ∧ F.status = .ok ∧ F.loading = may := by
    rw [← hg]
    cases may <;> exact ⟨rfl, rfl, rfl, rfl, rfl⟩
  obtain ⟨hrest, hcore⟩ := State.wlStarts_rest s c (Wl.of i) may
  obtain ⟨he, hkept, hmem, hbad⟩ := State.works_enters (next := i.pc + 32) (f := F) (q := q) (by rw [hpc])
    (State.works_wlStarts s c (Wl.of i) may) List.not_mem_nil List.not_mem_nil List.not_mem_nil List.not_mem_nil
  refine ⟨_, F, rfl, ⟨by rw [hmem, hrest], by rw [hbad, hrest]⟩, he, hins, hdone, hok, hload, ?_, fun a b => ?_⟩
  · rw [hkept, hcore]
  · have ha : ((State.issue (s.wlStarts c (Wl.of i) may) c q F (i.pc + 32)).core c).arr a = ((s.wlStarts c (Wl.of i) may).core c).arr a :=
      Core.arr_of_arrays (by rw [hkept]) (by rw [hkept]) a
    rw [ha, hload]
    exact State.wlStarts_arr s c (Wl.of i) may a.isLt b.isLt (Wl.array_lt i) (Wl.bank_lt i)

theorem findSome?_only {α β : Type} {g : α → Option β} {l : List α} {q : α} (hq : q ∈ l) (h : ∀ r ∈ l, r ≠ q → g r = none) :
    l.findSome? g = g q := by
  cases hg : l.findSome? g with
  | none => exact (List.findSome?_eq_none_iff.1 hg q hq).symm
  | some w =>
    obtain ⟨a, ha, hw⟩ := List.exists_of_findSome?_eq_some hg
    by_cases e : a = q
    · rw [← e, hw]
    · rw [h a ha e] at hw; cases hw

theorem State.loaderOf_lone {s : State} {c : Fin 36} {q : Fin 8} {f : Flight} {a b : Nat} (hl : s.lone c q f)
    (ho : f.ins.opcode = opWload) (hf : f.loading = true) (ha : (Wl.of f.ins).array = a) (hb : (Wl.of f.ins).bank = b) :
    s.loaderOf c a b = some (q.val, f) := by
  have hother (r : Nat) (h8 : r < 8) (hn : r ≠ q.val) : (s.queue c r).flights.find? (fun f => f.ins.opcode == opWload && !f.done &&
      f.loading && (Wl.of f.ins).array == a && (Wl.of f.ins).bank == b) = none := by
    refine List.find?_eq_none.2 (fun g hg => ?_)
    simp [hl.loads r h8 hn g hg]
  have hown : (s.queue c q).flights.find? (fun f => f.ins.opcode == opWload && !f.done &&
      f.loading && (Wl.of f.ins).array == a && (Wl.of f.ins).bank == b) = some f := by
    rw [hl.flights]
    simp [ho, hl.pending, hf, ha, hb]
  rw [State.loaderOf, findSome?_only (q := q.val) (List.mem_range.2 q.isLt) (fun r h8 hn => by
    rw [hother r (List.mem_range.1 h8) hn]; rfl), hown]
  rfl

/-- From s to t something has been counted, and of core c only the arrays and whether a score product has completed differ. -/
structure State.arrayed (s t : State) (c : Fin 36) (ks : List Nat) : Prop where
  core : t.core c = { s.core c with scoreDone := (t.core c).scoreDone, a0 := (t.core c).a0, a1 := (t.core c).a1 }
  cores : s.coresBut t c
  regs : s.regsBut t ks
  rest : t = { s with regs := t.regs, cores := t.cores, freeIx := t.freeIx }

theorem State.arrayed_refl (s : State) (c : Fin 36) (ks : List Nat) : s.arrayed s c ks := ⟨rfl, fun _ _ => rfl, State.regsBut_refl rfl ks, rfl⟩

theorem State.arrayed_trans {s t u : State} {c : Fin 36} {ks : List Nat} (h : s.arrayed t c ks) (k : t.arrayed u c ks) : s.arrayed u c ks :=
  ⟨by rw [k.core, h.core], fun d hd => (k.cores d hd).trans (h.cores d hd), State.regsBut_trans h.regs k.regs, by rw [k.rest, h.rest]⟩

theorem State.arrayed_of_tallies {s t : State} {ks : List Nat} (h : s.tallies t ks) (c : Fin 36) : s.arrayed t c ks := by
  have hc := State.core_congr (State.tallies_cores h)
  exact ⟨by rw [hc], fun d _ => hc d, h.regs, by rw [h.rest]⟩

theorem State.arrayed_setArr (s : State) (c : Fin 36) (ks : List Nat) (a : Nat) (x : ArraySt) :
    s.arrayed (s.setCore c ((s.core c).setArr a x)) c ks := by
  refine ⟨?_, fun d hd => State.core_setCore_other (Ne.symm hd), State.regsBut_refl rfl ks, rfl⟩
  rw [State.core_setCore_same, Core.setArr_rest]

theorem State.arrayed_queue {s t : State} {c : Fin 36} {ks : List Nat} (h : s.arrayed t c ks) (d r : Nat) : t.queue d r = s.queue d r := by
  by_cases e : d = c.val
  · subst e; rw [State.queue, h.core]; rfl
  · rw [State.queue, h.cores d e]; rfl

theorem State.workEnds_arrayed {s t u : State} {c : Fin 36} {q : Fin 8} {f : Flight} {ks : List Nat} (h : s.workEnds t c q f ks)
    (k : t.arrayed u c ks) : s.workEnds u c q f ks where
  queue := (State.arrayed_queue k c q).trans h.queue
  queues := fun d r e => (State.arrayed_queue k d r).trans (h.queues d r e)
  core := by rw [k.core, h.core]
  cores := fun d e => (k.cores d e).trans (h.cores d e)
  regs := State.regsBut_trans h.regs k.regs
  rest := by rw [k.rest, h.rest]

/-- A lone flight whose work is done is marked so. -/
theorem State.workEnds_setFlight {s u : State} {c : Fin 36} {q : Fin 8} {f : Flight} {ks : List Nat} (h : s.arrayed u c ks)
    (hf : (s.queue c q).flights = [f]) : s.workEnds (u.setFlight c q { f with done := true }) c q f ks := by
  have hq := State.arrayed_queue h
  refine ⟨?_, fun d r e => ?_, ?_, fun d e => ?_, h.regs, ?_⟩
  · rw [State.setFlight, State.queue_setQueue_same, hq, hf]
    simp
  · rw [State.setFlight, State.setQueue_other e, hq]
  · rw [State.setFlight, State.core_setQueue_same, h.core]; rfl
  · rw [State.setFlight, State.core_setQueue_other (Ne.symm e), h.cores d e]
  · rw [State.setFlight, State.setQueue, h.rest]; rfl

/-- Where the one flight of the holder is over and no other queue has a WLOAD in flight, no load and no product waits for a bank. -/
theorem State.banksMove_done {v : State} {c : Fin 36} {q : Fin 8} {f : Flight} (hf : (v.queue c q).flights = [f]) (hd : f.done = true)
    (hh : (v.core c).holder = some q.val) (hl : ∀ r < 8, r ≠ q.val → ∀ g ∈ (v.queue c r).flights, g.ins.opcode ≠ opWload)
    (e : Option Nat) : v.banksMove c e = v := by
  refine State.banksMove_idle e (fun r h8 g hg => ?_) (fun r h8 hr g hg n hn => ?_)
  · by_cases k : r = q.val
    · rw [k, hf] at hg
      obtain rfl := List.mem_singleton.1 hg
      simp [Flight.waitsToLoad, hd]
    · simp [Flight.waitsToLoad, hl r h8 k g hg]
  · have k : r = q.val := (Option.some.inj (hh.symm.trans hr)).symm
    rw [k, hf] at hg
    obtain rfl := List.mem_singleton.1 hg
    exact absurd (Flight.onArray_product hn).2.1 (by simp [hd])

theorem State.workEnds_banksMove {s v : State} {c : Fin 36} {q : Fin 8} {f : Flight} {ks : List Nat} (hl : s.lone c q f)
    (h : s.workEnds v c q f ks) (e : Option Nat) : v.banksMove c e = v :=
  State.banksMove_done (f := { f with done := true }) (by rw [h.queue]) rfl (by rw [h.core]; exact hl.holder)
    (fun r h8 hn => by rw [h.queues c r (fun k => hn k.2)]; exact hl.loads r h8 hn) e

/-- A weight load whose source stands: the second part of O11. -/
theorem State.weightLoad_finishes {s : State} {c : Fin 36} {q : Fin 8} {a b : Fin 2} {f : Flight} (hl : s.lone c q f)
    (ho : f.ins.opcode = opWload) (hf : f.loading = true) (ha : (Wl.of f.ins).array = a.val) (hb : (Wl.of f.ins).bank = b.val)
    (hs : (((s.core c).arr a).bank b).bytes = s.blockAt c (Wl.of f.ins).tag)
    (hbad : s.badIn (ledgeAt c (Wl.of f.ins).wt) (blockBytes (Wl.of f.ins).fa (Wl.of f.ins).fw) = none) :
    ∃ t, exec (.weightLoadDone c a b) s = .next t ∧ s.finishes t c q f [regKey (.array c) .aLedgeStallCycles a] ∧
      ((t.core c).arr a).bank b = { ((s.core c).arr a).bank b with state := .ready } ∧
      ∀ d e : Fin 2, ¬(d = a ∧ e = b) → ((t.core c).arr d).bank e = ((s.core c).arr d).bank e := by
  have hst : (if f.status ≠ .ok then f.status else .ok) = f.status := by rw [hl.status]; rfl
  rw [exec_weightLoadDone, execWeightLoadDone, State.awake_up hl.up, hl.moves]
  simp only [if_true, State.loaderOf_lone hl ho hf ha hb, hbad, Option.isSome_none, Bool.false_eq_true, if_false, hst, hs, mixCubes]
  generalize hB : ({ state := BankState.ready, tag := _, bytes := _ } : Bank) = B
  have hready : B = { ((s.core c).arr a).bank b with state := .ready } := by rw [← hB, ← hs]
  have hA := State.arrayed_setArr s c [regKey (.array c) .aLedgeStallCycles a] a (((s.core c).arr a).setBank b B)
  have harr (d e : Fin 2) : (((s.setCore c ((s.core c).setArr a (((s.core c).arr a).setBank b B))).core c).arr d).bank e =
      if d = a ∧ e = b then B else ((s.core c).arr d).bank e := by
    rw [State.core_setCore_same, Core.arr_setArr _ _ a.isLt d.isLt]
    by_cases h : d = a
    · subst h
      simp [ArraySt.bank_setBank _ _ b.isLt e.isLt, Fin.ext_iff]
    · simp [h, Fin.val_inj]
  generalize s.setCore c ((s.core c).setArr a (((s.core c).arr a).setBank b B)) = u at hA harr
  have hT : u.tallies ({ u with freeIx := u.freeIx + 1 }.bumpFree (.array c) .aLedgeStallCycles a) [regKey (.array c) .aLedgeStallCycles a] :=
    State.tallies_trans (State.tallies_draw u _) (State.tallies_bumpFree (List.mem_singleton_self _))
  generalize State.bumpFree _ _ _ _ = w at hT
  have hw := State.core_congr (State.tallies_cores hT)
  have hv := State.workEnds_setFlight (State.arrayed_trans hA (State.arrayed_of_tallies hT c)) hl.flights
  have hvc : (w.setFlight c q { f with done := true }).core c = { u.core c with queues := ((w.setFlight c q { f with done := true }).core c).queues } := by
    rw [State.setFlight, State.core_setQueue_same, hw]; rfl
  rw [State.workEnds_banksMove hl hv]
  obtain ⟨hfin, h0, h1, -, -⟩ := State.workEnds_finishes hl (by rw [ho]; decide) hv (List.subset_append_left ..)
  refine ⟨_, rfl, hfin, ?_, fun d e h => ?_⟩
  · rw [Core.arr_of_arrays h0 h1, hvc]
    exact (harr a b).trans (by rw [if_pos ⟨rfl, rfl⟩, hready])
  · rw [Core.arr_of_arrays h0 h1, hvc]
    exact (harr d e).trans (if_neg h)

/-- Settles O11: a WLOAD enters with its load begun where the banks let it, and its end makes the bank READY. -/
theorem weightLoadResults : Obligations.WeightLoadResults := by
  unfold Obligations.WeightLoadResults
  refine ⟨fun s c q i x h hx ho hc hf => ?enters, fun s c q a b f x hl hx ho hf ha hb hs hbad => ?ends⟩
  case enters =>
    subst hx
    exact State.wload_enters h ho hc hf
  case ends =>
    subst hx
    exact State.weightLoad_finishes hl ho hf ha hb hs hbad

/-! ### What an instruction counts as it ends (R73, R74, R189) -/

/-- The counters of the pages that an instruction's notes name. -/
def noteKeys (c : Fin 36) (a : Nat) : List Nat :=
  [regKey (.array c) .aStreamCycles a, regKey (.array c) .aSpillCount a, regKey (.sequencer c) .skippedTileCount 0,
    regKey (.vector c) .chainTileCount 0, regKey (.score c) .scoreTilesRead 0, regKey (.score c) .scoreTilesWritten 0,
    regKey (.score c) .scoreMasked 0, regKey .multicast .mcastBridgeBytes 0]

/-- What an RSTEP counts and raises as it ends, beside its chunks. -/
def rsKeys (c : Fin 36) (a : Nat) : List Nat :=
  [regKey (.recurrent c) .maskedPassCount 0, regKey (.recurrent c) .resetAppliedCount 0, regKey (.recurrent c) .driftHighCount 0,
    regKey (.array c) .aStreamCycles a] ++ eventKeys (.recurrent c)

/-- The stall counters of an array. -/
def stallKeys (c : Fin 36) (a : Nat) : List Nat := [regKey (.array c) .aSwapStallCycles a, regKey (.array c) .aLedgeStallCycles a]

/-- The counters an end counts for the instruction itself, and the registers that let their pages count. -/
def endKeys (c : Fin 36) (a : Nat) : List Nat :=
  [regKey (.sequencer c) .passCount 0, regKey (.sequencer c) .seqCtrl 0, regKey (.array c) .aPassCount a, regKey (.array c) .arrayCtrl 0,
    regKey (.recurrent c) .rstepChunkCount 0, regKey (.recurrent c) .recurCtrl 0, regKey .multicast .mcastMoveCount 0,
    regKey .multicast .mcastCtrl 0]

theorem endKeys_not_noteKeys {c : Fin 36} {a k : Nat} (h : k ∈ endKeys c a) : k ∉ noteKeys c a := by
  simp only [endKeys, noteKeys, List.mem_cons, List.not_mem_nil, or_false, regKey, Pg.index, Pg.type, PageType.place, Pg.inst,
    RegName.off] at *
  omega

theorem endKeys_not_rsKeys {c : Fin 36} {a k : Nat} (h : k ∈ endKeys c a) : k ∉ rsKeys c a := by
  simp only [endKeys, rsKeys, eventKeys, List.mem_append, List.mem_cons, List.not_mem_nil, or_false, regKey, Pg.index, Pg.type,
    PageType.place, Pg.inst, RegName.off] at *
  omega

theorem endKeys_not_stallKeys {c : Fin 36} {a k : Nat} (h : k ∈ endKeys c a) (ha : a < 2) : k ∉ stallKeys c a := by
  simp only [endKeys, stallKeys, List.mem_cons, List.not_mem_nil, or_false, regKey, Pg.index, Pg.type, PageType.place, Pg.inst,
    RegName.off] at *
  omega

theorem endKeys_not_sc {c : Fin 36} {a k i : Nat} {q : Fin 8} (h : k ∈ endKeys c a) (hi : i < 16) : k ≠ scKey c q i := by
  have := q.isLt
  simp only [endKeys, scKey, List.mem_cons, List.not_mem_nil, or_false, regKey, Pg.index, Pg.type, PageType.place, Pg.inst,
    RegName.off] at *
  omega

/-- A counter of one page is no register of another, nor the counting control of its own. -/
theorem endKeys_distinct (c : Fin 36) (a : Nat) :
    regKey (.sequencer c) .passCount 0 ≠ regKey (.array c) .aPassCount a ∧
    regKey (.array c) .arrayCtrl 0 ≠ regKey (.sequencer c) .passCount 0 ∧
    regKey (.recurrent c) .rstepChunkCount 0 ≠ regKey (.sequencer c) .passCount 0 ∧
    regKey (.recurrent c) .recurCtrl 0 ≠ regKey (.sequencer c) .passCount 0 ∧
    regKey (.recurrent c) .rstepChunkCount 0 ≠ regKey (.array c) .aPassCount a ∧
    regKey (.array c) .aPassCount a ≠ regKey (.recurrent c) .rstepChunkCount 0 ∧
    regKey (.array c) .arrayCtrl 0 ≠ regKey (.recurrent c) .rstepChunkCount 0 := by
  simp only [regKey, Pg.index, Pg.type, PageType.place, Pg.inst, RegName.off]
  omega

theorem Flight.arr_lt (f : Flight) : f.arr < 2 := bits_lt f.w1 54 54

theorem State.lone_notes {s : State} {c : Fin 36} {q : Fin 8} {f : Flight} (hl : s.lone c q f) :
    f.counts.map (fun x => regKey x.1 x.2.1 x.2.2.1) ⊆ noteKeys c f.arr := by
  intro k hk
  obtain ⟨x, hx, rfl⟩ := List.mem_map.1 hk
  have h := List.mem_map_of_mem (f := fun y : Pg × RegName × Nat => regKey y.1 y.2.1 y.2.2) (hl.notes x hx)
  unfold noteKeys
  exact h

/-- A counter that counts between two stretches that leave it, and before which its page's control is left, reads what it counted. -/
theorem State.counted_between {s t v : State} {p : Pg} {r ctl : RegName} {clr en i n : Nat} {ks : List Nat}
    (hp : p.type.counterCtl = some (ctl, clr, en)) (hh : p.type ≠ .harbour) (h : s.regsBut t ks) (hs : t.sys = s.sys)
    (hc : regKey p ctl 0 ∉ ks) (hr : regKey p r i ∉ ks) (hv : v.rd p r i = t.counted p r i n) : v.rd p r i = s.counted p r i n := by
  rw [hv]
  exact State.counted_congr (State.counting_congr hp hh (h _ hc) hs) (h _ hr)

theorem State.tallies_countsOf (s : State) (f : Flight) : s.tallies (s.countsOf f) (f.counts.map (fun x => regKey x.1 x.2.1 x.2.2.1)) := by
  refine State.tallies_foldl f.counts (fun t x hx => ?_) s
  have hk : regKey x.1 x.2.1 x.2.2.1 ∈ f.counts.map (fun x => regKey x.1 x.2.1 x.2.2.1) := List.mem_map_of_mem hx
  dsimp only
  split
  · exact State.tallies_bump _ hk
  · exact State.tallies_bumpUpTo _ hk

theorem State.bump_chunkCounts (s : State) (c : Fin 36) (a : Nat) (n : RsNote) :
    (s.bump (.recurrent c) .rstepChunkCount 0 1).tallies (s.chunkCounts c a n) (rsKeys c a) := by
  have h : (s.bump (.recurrent c) .rstepChunkCount 0 1).tallies ((((s.bump (.recurrent c) .rstepChunkCount 0 1).bump (.recurrent c)
      .maskedPassCount 0 n.masked).bump (.recurrent c) .resetAppliedCount 0 n.resets).bump (.array c) .aStreamCycles a n.groups) (rsKeys c a) :=
    State.tallies_trans (State.tallies_trans (State.tallies_bump _ (by simp [rsKeys])) (State.tallies_bump _ (by simp [rsKeys])))
      (State.tallies_bump _ (by simp [rsKeys]))
  unfold State.chunkCounts
  dsimp only
  split
  · exact State.tallies_trans h (State.tallies_event _ (List.subset_append_right ..))
  · exact h

theorem State.chunkCounts_rd (s : State) (c : Fin 36) (a : Nat) (n : RsNote) :
    (s.chunkCounts c a n).rd (.recurrent c) .rstepChunkCount 0 = s.counted (.recurrent c) .rstepChunkCount 0 1 := by
  rw [State.tallies_rd (State.bump_chunkCounts s c a n) (endKeys_not_rsKeys (by simp [endKeys])), State.rd_bump_same]

theorem State.tallies_chunkCounts (s : State) (c : Fin 36) (a : Nat) (n : RsNote) :
    s.tallies (s.chunkCounts c a n) (regKey (.recurrent c) .rstepChunkCount 0 :: rsKeys c a) :=
  State.tallies_trans (State.tallies_bump _ List.mem_cons_self)
    (State.tallies_mono (State.bump_chunkCounts s c a n) (List.subset_cons_self ..))

theorem State.tallies_chunks (c : Fin 36) (a : Nat) (l : List RsNote) (s : State) :
    s.tallies (l.foldl (fun s n => s.chunkCounts c a n) s) (regKey (.recurrent c) .rstepChunkCount 0 :: rsKeys c a) :=
  State.tallies_foldl l (fun t n _ => State.tallies_chunkCounts t c a n) s

theorem State.chunks_rd {c : Fin 36} {a : Nat} (l : List RsNote) (s : State) :
    (l.foldl (fun s n => s.chunkCounts c a n) s).rd (.recurrent c) .rstepChunkCount 0 =
      s.counted (.recurrent c) .rstepChunkCount 0 l.length := by
  induction l generalizing s with
  | nil => exact (State.counted_zero ..).symm
  | cons n l ih =>
    have h := State.tallies_chunkCounts s c a n
    have hk : regKey (.recurrent c) .recurCtrl 0 ∉ regKey (.recurrent c) .rstepChunkCount 0 :: rsKeys c a :=
      List.not_mem_cons_of_ne_of_not_mem (regKey_ne (by decide)) (endKeys_not_rsKeys (by simp [endKeys]))
    have hc : (s.chunkCounts c a n).counting (.recurrent c) = s.counting (.recurrent c) :=
      State.counting_congr rfl (fun e => by cases e) (State.tallies_rd h hk) (State.tallies_sys h)
    rw [List.foldl_cons, ih, State.counted, hc, State.chunkCounts_rd, State.counted, State.counted, List.length_cons]
    split
    · rw [satAdd_satAdd, Nat.add_comm]
    · rfl

theorem State.chunks_rsEnds {s : State} {c : Fin 36} {f : Flight} (hs : f.status = .ok) :
    ((f.chunks.take f.wm).foldl (fun (s : State) n => s.chunkCounts c f.arr n) s).tallies (s.rsEnds c f) (rsKeys c f.arr) := by
  unfold State.rsEnds
  have hne : ¬f.status = .eShape := by rw [hs]; decide
  simp only [if_neg hne]
  split
  · exact State.tallies_trans (State.tallies_bump _ (by simp [rsKeys])) (State.tallies_event _ (List.subset_append_right ..))
  · exact State.tallies_refl _ _

/-- What an RSTEP that ends with OK counts of its chunks. -/
theorem State.rsEnds_tallies {s : State} {c : Fin 36} {f : Flight} (hs : f.status = .ok) :
    s.tallies (s.rsEnds c f) (regKey (.recurrent c) .rstepChunkCount 0 :: rsKeys c f.arr) ∧
      (s.rsEnds c f).rd (.recurrent c) .rstepChunkCount 0 = s.counted (.recurrent c) .rstepChunkCount 0 (f.chunks.take f.wm).length := by
  have h := State.chunks_rsEnds (s := s) (c := c) hs
  refine ⟨State.tallies_trans (State.tallies_chunks c f.arr _ s) (State.tallies_mono h (List.subset_cons_self ..)), ?_⟩
  rw [State.tallies_rd h (endKeys_not_rsKeys (by simp [endKeys])), State.chunks_rd]

/-! ### INSTRUCTION_COMPLETE of a finished instruction (R89) -/

/-- A lone flight that the hardware has finished is over as it is. -/
theorem State.endable_lone {s : State} {c : Fin 36} {q : Fin 8} {f : Flight} (hl : s.lone c q f)
    (ho : f.ins.opcode = opMove ∨ f.ins.opcode = opVchain ∨ f.product = true ∧ f.visited ≠ 0) : s.endable c q f = true := by
  have hp (e : f.product = true) : f.ins.opcode ≠ opWaitGe ∧ f.ins.opcode ≠ opWload := by
    rcases Flight.product_opcode e with h | h <;> rw [h] <;> decide
  unfold State.endable
  simp only [hl.moves, hl.pending, hl.gated, hl.holder]
  rcases ho with h | h | ⟨h, hv⟩
  · have : f.product = false := by rw [Flight.product, h]; rfl
    simp [h, this, opMove, opWaitGe, opWload]
  · have : f.product = false := by rw [Flight.product, h]; rfl
    simp [h, this, opVchain, opWaitGe, opWload]
  · simp [hp h, hv]

theorem execInstructionComplete_lone {s : State} {c : Fin 36} {q : Fin 8} {f : Flight} (hl : s.lone c q f) (wm : Nat)
    (he : s.endable c q f = true) :
    exec (.instructionComplete c q f.seq .finished wm []) s =
      .next ((s.endFlight c q { f with done := true }).drainQueue c q).settled := by
  have hs : f.stopping = false := by simp [Flight.stopping, hl.aborted, hl.fatal, hl.gated]
  rw [exec_instructionComplete, execInstructionComplete, State.awake_up hl.up, hl.flights]
  simp [he, hs, hwStatus, Flight.ending]

theorem State.arrayed_scoreEnded (s : State) (c : Fin 36) (f : Flight) (ks : List Nat) : s.arrayed (s.scoreEnded c f) c ks := by
  unfold State.scoreEnded
  split
  · exact ⟨by rw [State.core_setCore_same], fun d hd => State.core_setCore_other (Ne.symm hd), State.regsBut_refl rfl ks, rfl⟩
  · exact State.arrayed_refl s c ks

theorem State.arrayed_leaveArray (s : State) (c : Fin 36) (q : Nat) (f : Flight) (ks : List Nat) :
    s.arrayed (s.leaveArray c q f true) c ks := by
  unfold State.leaveArray
  split
  · exact State.arrayed_refl s c ks
  · exact State.arrayed_setArr s c ks _ _

/-- The work of a lone flight that ends with OK: what is counted of it, and how it leaves the score store and its array. -/
def State.worked (s : State) (c : Fin 36) (q : Fin 8) (f : Flight) : State :=
  (((s.setFlight c q f).endCounts c f).scoreEnded c f).leaveArray c q f true

theorem State.worked_workEnds {s : State} {c : Fin 36} {q : Fin 8} {f : Flight} {ks : List Nat} (hl : s.lone c q f)
    (ht : (s.setFlight c q { f with done := true }).tallies ((s.setFlight c q { f with done := true }).endCounts c { f with done := true }) ks) :
    s.workEnds (s.worked c q { f with done := true }) c q f ks :=
  State.workEnds_arrayed (State.workEnds_setFlight (State.arrayed_refl s c ks) hl.flights)
    (State.arrayed_trans (State.arrayed_trans (State.arrayed_of_tallies ht c) (State.arrayed_scoreEnded ..)) (State.arrayed_leaveArray ..))

theorem State.endFlight_lone {s : State} {c : Fin 36} {q : Fin 8} {f : Flight} {ks : List Nat} (hl : s.lone c q f)
    (ht : (s.setFlight c q { f with done := true }).tallies ((s.setFlight c q { f with done := true }).endCounts c { f with done := true }) ks) :
    s.endFlight c q { f with done := true } = s.worked c q { f with done := true } := by
  have hs : ¬(({ f with done := true } : Flight).status ≠ .ok) := by rw [not_not]; exact hl.status
  have hb : (({ f with done := true } : Flight).status == .ok || ({ f with done := true } : Flight).status == .eSat) = true := by
    show (f.status == .ok || f.status == .eSat) = true
    rw [hl.status]; rfl
  unfold State.endFlight
  simp only [if_neg hs, hb]
  exact State.workEnds_banksMove hl (State.worked_workEnds hl ht) _

/-- INSTRUCTION_COMPLETE of a lone flight the hardware has finished. -/
theorem State.instructionComplete_finishes {s : State} {c : Fin 36} {q : Fin 8} {f : Flight} {ks js : List Nat} (hl : s.lone c q f) (wm : Nat)
    (ho : f.ins.opcode = opMove ∨ f.ins.opcode = opVchain ∨ f.product = true ∧ f.visited ≠ 0)
    (ht : (s.setFlight c q { f with done := true }).tallies ((s.setFlight c q { f with done := true }).endCounts c { f with done := true }) ks)
    (hk : ks ⊆ js ++ f.counts.map (fun x => regKey x.1 x.2.1 x.2.2.1)) :
    ∃ t, exec (.instructionComplete c q f.seq .finished wm []) s = .next t ∧ s.finishes t c q f js ∧
      (∀ a, (t.core c).arr a = ((s.worked c q { f with done := true }).core c).arr a) ∧
      (t.core c).a0 = ((s.worked c q { f with done := true }).core c).a0 ∧
      (t.core c).a1 = ((s.worked c q { f with done := true }).core c).a1 ∧
      (t.core c).scoreDone = ((s.worked c q { f with done := true }).core c).scoreDone ∧
      ∀ k ∈ endKeys c f.arr, t.reg k = ((s.setFlight c q { f with done := true }).endCounts c { f with done := true }).reg k := by
  have hne : f.ins.opcode ≠ opEnd := by
    rcases ho with h | h | ⟨h, -⟩
    · rw [h]; decide
    · rw [h]; decide
    · rcases Flight.product_opcode h with h | h <;> rw [h] <;> decide
  obtain ⟨hfin, h0, h1, hd, hr⟩ := State.workEnds_finishes hl hne (State.worked_workEnds hl ht) hk
  rw [← State.endFlight_lone hl ht] at *
  refine ⟨_, execInstructionComplete_lone hl wm (State.endable_lone hl ho), hfin, Core.arr_of_arrays h0 h1, h0, h1, hd, fun k hk => ?_⟩
  have hn : k ∉ f.scAtEnd.toList.map (fun p => scKey c q p.1) := by
    intro h
    obtain ⟨p, hp, rfl⟩ := List.mem_map.1 h
    exact endKeys_not_sc hk (hl.scalar p (Option.mem_toList.1 hp)) rfl
  rw [hr k hn, State.endFlight_lone hl ht]
  exact ((State.arrayed_trans (State.arrayed_scoreEnded _ c _ []) (State.arrayed_leaveArray _ c q _ [])).regs k List.not_mem_nil)

/-! ### The counts of each kind of instruction -/

theorem State.endCounts_move {s : State} {c : Fin 36} {f : Flight} (ho : f.ins.opcode = opMove) (hs : f.status = .ok) :
    s.endCounts c f = if bits f.w2 55 48 ≠ 0 then (s.countsOf f).bump .multicast .mcastMoveCount 0 1 else s.countsOf f := by
  have hp : f.product = false := by rw [Flight.product, ho]; rfl
  have h1 : opHolds opMove = false := rfl
  have h2 : opMove ≠ opAdd ∧ opMove ≠ opSub ∧ opMove ≠ opRstep := by decide
  unfold State.endCounts
  simp [ho, hs, hp, h1, h2]

theorem State.endCounts_vchain {s : State} {c : Fin 36} {f : Flight} (ho : f.ins.opcode = opVchain) :
    s.endCounts c f = (s.countsOf f).bump (.sequencer c) .passCount 0 1 := by
  have hp : f.product = false := by rw [Flight.product, ho]; rfl
  have h1 : opHolds opVchain = true := rfl
  have h2 : opVchain ≠ opAdd ∧ opVchain ≠ opSub ∧ opVchain ≠ opRstep ∧ opVchain ≠ opMove := by decide
  unfold State.endCounts
  simp [ho, hp, h1, h2]

/-- The chunks of a product that is an RSTEP are counted. -/
def State.chunksCounted (s : State) (c : Fin 36) (f : Flight) : State := if f.ins.opcode = opRstep then s.rsEnds c f else s

theorem State.endCounts_product {s : State} {c : Fin 36} {f : Flight} (hp : f.product = true) (hs : f.status = .ok) :
    s.endCounts c f = (((((s.countsOf f).bump (.sequencer c) .passCount 0 1).chunksCounted c f).bump (.array c) .aPassCount f.arr 1).bumpFree
      (.array c) .aSwapStallCycles f.arr).bumpFree (.array c) .aLedgeStallCycles f.arr := by
  unfold State.endCounts State.chunksCounted
  rcases Flight.product_opcode hp with ho | ho
  · have h1 : opHolds opMatmul = true := rfl
    have h2 : opMatmul ≠ opAdd ∧ opMatmul ≠ opSub ∧ opMatmul ≠ opRstep ∧ opMatmul ≠ opMove := by decide
    simp [ho, hp, hs, h1, h2]
  · have h1 : opHolds opRstep = true := rfl
    have h2 : opRstep ≠ opAdd ∧ opRstep ≠ opSub ∧ opRstep ≠ opMove := by decide
    simp [ho, hp, hs, h1, h2]

/-- What an RSTEP changes of the registers beside what every product does. -/
def productKeys (c : Fin 36) (f : Flight) : List Nat :=
  if f.ins.opcode = opRstep then regKey (.recurrent c) .rstepChunkCount 0 :: rsKeys c f.arr else []

theorem State.tallies_chunksCounted (s : State) (c : Fin 36) {f : Flight} (hs : f.status = .ok) :
    s.tallies (s.chunksCounted c f) (productKeys c f) := by
  unfold State.chunksCounted productKeys
  split
  · exact (State.rsEnds_tallies hs).1
  · exact State.tallies_refl s _

theorem append_parts_subset {α : Type} (l m n : List α) (a b : α) : l ++ [a] ++ n ⊆ l ++ [a, b] ++ m ++ n ∧
    [b] ⊆ l ++ [a, b] ++ m ++ n ∧ m ⊆ l ++ [a, b] ++ m ++ n := by
  simp only [List.subset_def, List.mem_append, List.mem_cons, List.not_mem_nil, or_false]
  refine ⟨fun h => by tauto, fun h => by tauto, fun h => by tauto⟩

theorem append_front_subset {α : Type} (l m n p : List α) : l ++ m ++ n ++ p ⊆ m ++ n ++ p ++ l := by
  simp only [List.subset_def, List.mem_append]
  exact fun h => by tauto

/-- A product that ends with OK: the registers its counts change, and what they then read. -/
theorem State.productCounts {s : State} {c : Fin 36} {f : Flight} (hp : f.product = true) (hs : f.status = .ok)
    (hn : f.counts.map (fun x => regKey x.1 x.2.1 x.2.2.1) ⊆ noteKeys c f.arr) :
    s.tallies (s.endCounts c f) (f.counts.map (fun x => regKey x.1 x.2.1 x.2.2.1) ++ [regKey (.sequencer c) .passCount 0,
      regKey (.array c) .aPassCount f.arr] ++ stallKeys c f.arr ++ productKeys c f) ∧
    (s.endCounts c f).rd (.sequencer c) .passCount 0 = s.counted (.sequencer c) .passCount 0 1 ∧
    (s.endCounts c f).rd (.array c) .aPassCount f.arr = s.counted (.array c) .aPassCount f.arr 1 ∧
    (f.ins.opcode = opRstep → (s.endCounts c f).rd (.recurrent c) .rstepChunkCount 0 =
      s.counted (.recurrent c) .rstepChunkCount 0 (f.chunks.take f.wm).length) := by
  rw [State.endCounts_product hp hs]
  obtain ⟨d1, d2, d3, d4, d5, d6, d7⟩ := endKeys_distinct c f.arr
  have hn' {k : Nat} (h : k ∈ endKeys c f.arr) : k ∉ f.counts.map (fun x => regKey x.1 x.2.1 x.2.2.1) :=
    fun e => endKeys_not_noteKeys h (hn e)
  have hu := State.tallies_countsOf s f
  generalize s.countsOf f = u at hu
  generalize h1 : u.bump (.sequencer c) .passCount 0 1 = u1
  have k1 : u.tallies u1 [regKey (.sequencer c) .passCount 0] := h1 ▸ State.tallies_bump _ (List.mem_singleton_self _)
  have s1 : s.tallies u1 (f.counts.map (fun x => regKey x.1 x.2.1 x.2.2.1) ++ [regKey (.sequencer c) .passCount 0]) :=
    State.tallies_trans (State.tallies_mono hu (List.subset_append_left ..)) (State.tallies_mono k1 (List.subset_append_right ..))
  have k2 := State.tallies_chunksCounted u1 c hs
  have hchunk (h : f.ins.opcode = opRstep) : (u1.chunksCounted c f).rd (.recurrent c) .rstepChunkCount 0 =
      u1.counted (.recurrent c) .rstepChunkCount 0 (f.chunks.take f.wm).length := by
    rw [State.chunksCounted, if_pos h]; exact (State.rsEnds_tallies hs).2
  generalize u1.chunksCounted c f = u2 at k2 hchunk
  have s2 := State.tallies_trans (State.tallies_mono s1 (List.subset_append_left _ (productKeys c f)))
    (State.tallies_mono k2 (List.subset_append_right ..))
  generalize h3 : u2.bump (.array c) .aPassCount f.arr 1 = u3
  have k3 : u2.tallies u3 [regKey (.array c) .aPassCount f.arr] := h3 ▸ State.tallies_bump _ (List.mem_singleton_self _)
  have k4 : u3.tallies ((u3.bumpFree (.array c) .aSwapStallCycles f.arr).bumpFree (.array c) .aLedgeStallCycles f.arr) (stallKeys c f.arr) :=
    State.tallies_trans (State.tallies_bumpFree (by simp [stallKeys])) (State.tallies_bumpFree (by simp [stallKeys]))
  generalize State.bumpFree _ _ _ _ = u4 at k4
  have hnot {k : Nat} (h : k ∈ endKeys c f.arr) (hk : k ≠ regKey (.recurrent c) .rstepChunkCount 0) : k ∉ productKeys c f := by
    unfold productKeys
    split
    · exact List.not_mem_cons_of_ne_of_not_mem hk (endKeys_not_rsKeys h)
    · exact List.not_mem_nil
  have hend {p : Pg} {r : RegName} {i : Nat} (h : regKey p r i ∈ endKeys c f.arr) (hk : regKey p r i ≠ regKey (.array c) .aPassCount f.arr) :
      u4.rd p r i = u2.rd p r i := by
    rw [State.tallies_rd k4 (endKeys_not_stallKeys h f.arr_lt), State.tallies_rd k3 (by simpa using hk)]
  refine ⟨?tallied, ?pass, ?product, fun ho => ?chunks⟩
  case tallied =>
    obtain ⟨e1, e2, e3⟩ := append_parts_subset (f.counts.map (fun x => regKey x.1 x.2.1 x.2.2.1)) (stallKeys c f.arr) (productKeys c f)
      (regKey (.sequencer c) .passCount 0) (regKey (.array c) .aPassCount f.arr)
    exact State.tallies_trans (State.tallies_trans (State.tallies_mono s2 e1) (State.tallies_mono k3 e2)) (State.tallies_mono k4 e3)
  case pass =>
    refine State.counted_between rfl (fun e => by cases e) hu.regs (State.tallies_sys hu) (hn' (by simp [endKeys])) (hn' (by simp [endKeys])) ?_
    rw [hend (by simp [endKeys]) d1, State.tallies_rd k2 (hnot (by simp [endKeys]) (Ne.symm d3)), ← h1, State.rd_bump_same]
  case product =>
    have hfar {k : Nat} (h : k ∈ endKeys c f.arr) (h1 : k ≠ regKey (.sequencer c) .passCount 0)
        (h2 : k ≠ regKey (.recurrent c) .rstepChunkCount 0) :
        k ∉ f.counts.map (fun x => regKey x.1 x.2.1 x.2.2.1) ++ [regKey (.sequencer c) .passCount 0] ++ productKeys c f := by
      simp only [List.mem_append, List.mem_singleton, not_or]
      exact ⟨⟨hn' h, h1⟩, hnot h h2⟩
    refine State.counted_between rfl (fun e => by cases e) s2.regs (State.tallies_sys s2) (hfar (by simp [endKeys]) d2 d7)
      (hfar (by simp [endKeys]) (Ne.symm d1) d6) ?_
    rw [State.tallies_rd k4 (endKeys_not_stallKeys (by simp [endKeys]) f.arr_lt), ← h3, State.rd_bump_same]
  case chunks =>
    have hfar {k : Nat} (h : k ∈ endKeys c f.arr) (h1 : k ≠ regKey (.sequencer c) .passCount 0) :
        k ∉ f.counts.map (fun x => regKey x.1 x.2.1 x.2.2.1) ++ [regKey (.sequencer c) .passCount 0] := by
      simp only [List.mem_append, List.mem_singleton, not_or]
      exact ⟨hn' h, h1⟩
    refine State.counted_between rfl (fun e => by cases e) s1.regs (State.tallies_sys s1) (hfar (by simp [endKeys]) d4)
      (hfar (by simp [endKeys]) d3) ?_
    rw [hend (by simp [endKeys]) d5, hchunk ho]

/-! ### A finished instruction: the first part of O16 -/

/-- The lone flight, its work finished, and the state that counts it. -/
theorem State.setFlight_rest (s : State) (c : Fin 36) (q : Nat) (f : Flight) : (s.setFlight c q f).regs = s.regs ∧ (s.setFlight c q f).sys = s.sys ∧
    (s.setFlight c q f).mem = s.mem ∧ (s.setFlight c q f).core c = { s.core c with queues := ((s.setFlight c q f).core c).queues } := by
  refine ⟨rfl, rfl, rfl, ?_⟩
  rw [State.setFlight, State.core_setQueue_same]
  rfl

theorem State.counted_of_regs {s t : State} (hr : t.regs = s.regs) (hs : t.sys = s.sys) {p : Pg} {ctl : RegName} {clr en : Nat}
    (hp : p.type.counterCtl = some (ctl, clr, en)) (hh : p.type ≠ .harbour) (r : RegName) (i n : Nat) : t.counted p r i n = s.counted p r i n :=
  State.counted_congr (State.counting_congr hp hh (State.reg_congr hr _) hs) (State.reg_congr hr _)

/-- An end that leaves no array leaves the arrays as they are. -/
theorem State.worked_noProduct {s : State} {c : Fin 36} {q : Fin 8} {f : Flight} {ks : List Nat} (hp : f.product = false)
    (ht : (s.setFlight c q f).tallies ((s.setFlight c q f).endCounts c f) ks) :
    ((s.worked c q f).core c).a0 = (s.core c).a0 ∧ ((s.worked c q f).core c).a1 = (s.core c).a1 := by
  have ho : ¬(f.ins.opcode = opMatmul ∧ (Mm.of f.ins).outScore ∧ f.status = .ok) := fun e => by
    rw [Flight.product, e.1] at hp; cases hp
  have hw : s.worked c q f = (s.setFlight c q f).endCounts c f := by
    unfold State.worked State.leaveArray State.scoreEnded
    rw [if_neg ho, if_pos (.inl (by rw [hp]; rfl))]
  obtain ⟨-, -, -, hc⟩ := State.setFlight_rest s c q f
  rw [hw, State.core_congr (State.tallies_cores ht), hc]
  exact ⟨rfl, rfl⟩

theorem State.move_finishes {s : State} {c : Fin 36} {q : Fin 8} {f : Flight} (hl : s.lone c q f) (wm : Nat) (ho : f.ins.opcode = opMove) :
    ∃ t, exec (.instructionComplete c q f.seq .finished wm []) s = .next t ∧
      s.finishes t c q f (if bits f.w2 55 48 = 0 then [] else [regKey .multicast .mcastMoveCount 0]) ∧
      (bits f.w2 55 48 ≠ 0 → t.rd .multicast .mcastMoveCount 0 = s.counted .multicast .mcastMoveCount 0 1) ∧
      (t.core c).a0 = (s.core c).a0 ∧ (t.core c).a1 = (s.core c).a1 := by
  obtain ⟨hregs, hsys, -, -⟩ := State.setFlight_rest s c q { f with done := true }
  have hu := State.tallies_countsOf (s.setFlight c q { f with done := true }) { f with done := true }
  have hm := State.endCounts_move (s := s.setFlight c q { f with done := true }) (c := c) (f := { f with done := true }) ho hl.status
  have ht : (s.setFlight c q { f with done := true }).tallies ((s.setFlight c q { f with done := true }).endCounts c { f with done := true })
      ((if bits f.w2 55 48 = 0 then [] else [regKey .multicast .mcastMoveCount 0]) ++ f.counts.map (fun x => regKey x.1 x.2.1 x.2.2.1)) := by
    rw [hm]
    by_cases h : bits f.w2 55 48 = 0
    · rw [if_neg (not_not_intro h), if_pos h]
      exact hu
    · rw [if_pos h, if_neg h]
      exact State.tallies_trans (State.tallies_mono hu (List.subset_append_right ..)) (State.tallies_bump _ List.mem_cons_self)
  obtain ⟨t, he, hf, -, h0, h1, -, hk⟩ := State.instructionComplete_finishes hl wm (.inl ho) ht (List.Subset.refl _)
  obtain ⟨w0, w1⟩ := State.worked_noProduct (f := { f with done := true }) (by rw [Flight.product]; show _ = _; rw [show Flight.ins { f with done := true } = f.ins from rfl, ho]; rfl) ht
  refine ⟨t, he, hf, fun h => ?_, h0.trans w0, h1.trans w1⟩
  have hn {k : Nat} (h : k ∈ endKeys c f.arr) : k ∉ f.counts.map (fun x => regKey x.1 x.2.1 x.2.2.1) :=
    fun e => endKeys_not_noteKeys h (State.lone_notes hl e)
  have hv := State.counted_between rfl (fun e => by cases e) hu.regs (State.tallies_sys hu) (hn (by simp [endKeys])) (hn (by simp [endKeys]))
    (State.rd_bump_same ((s.setFlight c q { f with done := true }).countsOf { f with done := true }) .multicast .mcastMoveCount 0 1)
  rw [if_pos h] at hm
  rw [← hm] at hv
  exact (hk _ (by simp [endKeys])).trans (hv.trans (State.counted_of_regs hregs hsys rfl (fun e => by cases e) _ _ _))

theorem State.vchain_finishes {s : State} {c : Fin 36} {q : Fin 8} {f : Flight} (hl : s.lone c q f) (wm : Nat)
    (ho : f.ins.opcode = opVchain) :
    ∃ t, exec (.instructionComplete c q f.seq .finished wm []) s = .next t ∧ s.finishes t c q f [regKey (.sequencer c) .passCount 0] ∧
      (t.core c).a0 = (s.core c).a0 ∧ (t.core c).a1 = (s.core c).a1 ∧
      t.rd (.sequencer c) .passCount 0 = s.counted (.sequencer c) .passCount 0 1 := by
  obtain ⟨hregs, hsys, -, -⟩ := State.setFlight_rest s c q { f with done := true }
  have hu := State.tallies_countsOf (s.setFlight c q { f with done := true }) { f with done := true }
  have hm := State.endCounts_vchain (s := s.setFlight c q { f with done := true }) (c := c) (f := { f with done := true }) ho
  have ht : (s.setFlight c q { f with done := true }).tallies ((s.setFlight c q { f with done := true }).endCounts c { f with done := true })
      ([regKey (.sequencer c) .passCount 0] ++ f.counts.map (fun x => regKey x.1 x.2.1 x.2.2.1)) := by
    rw [hm]
    exact State.tallies_trans (State.tallies_mono hu (List.subset_append_right ..)) (State.tallies_bump _ List.mem_cons_self)
  obtain ⟨t, he, hf, -, h0, h1, -, hk⟩ := State.instructionComplete_finishes hl wm (.inr (.inl ho)) ht (List.Subset.refl _)
  have hp : ({ f with done := true } : Flight).product = false := by
    show (f.ins.opcode == opMatmul || f.ins.opcode == opRstep) = false
    rw [ho]; rfl
  obtain ⟨w0, w1⟩ := State.worked_noProduct hp ht
  have hn {k : Nat} (h : k ∈ endKeys c f.arr) : k ∉ f.counts.map (fun x => regKey x.1 x.2.1 x.2.2.1) :=
    fun e => endKeys_not_noteKeys h (State.lone_notes hl e)
  have hv := State.counted_between rfl (fun e => by cases e) hu.regs (State.tallies_sys hu) (hn (by simp [endKeys])) (hn (by simp [endKeys]))
    (State.rd_bump_same ((s.setFlight c q { f with done := true }).countsOf { f with done := true }) (.sequencer c) .passCount 0 1)
  rw [← hm] at hv
  exact ⟨t, he, hf, h0.trans w0, h1.trans w1,
    (hk _ (by simp [endKeys])).trans (hv.trans (State.counted_of_regs hregs hsys rfl (fun e => by cases e) _ _ _))⟩

/-- How a product's end leaves its core: the array it leaves, the other, and, for a score product, the store's maxima. -/
theorem State.worked_product {s : State} {c : Fin 36} {q : Fin 8} {f : Flight} {ks : List Nat} (hp : f.product = true) (hv : f.visited ≠ 0)
    (hs : f.status = .ok) (ht : (s.setFlight c q f).tallies ((s.setFlight c q f).endCounts c f) ks) :
    ((s.worked c q f).core c).arr f.arr = ((s.core c).arr f.arr).finish f (s.blockAt c) ∧
    ((s.worked c q f).core c).arr (1 - f.arr) = (s.core c).arr (1 - f.arr) ∧
    (f.ins.opcode = opMatmul → (Mm.of f.ins).outScore = true → ((s.worked c q f).core c).scoreDone = true) := by
  obtain ⟨-, -, hmem, hc⟩ := State.setFlight_rest s c q f
  have ha := State.arrayed_scoreEnded ((s.setFlight c q f).endCounts c f) c f []
  generalize hu : ((s.setFlight c q f).endCounts c f).scoreEnded c f = u at ha
  have hcore := State.core_congr (State.tallies_cores ht) c
  have hum : u.mem = s.mem := by rw [ha.rest]; exact (State.tallies_mem ht).trans hmem
  have harr (a : Nat) : (u.core c).arr a = (s.core c).arr a := by
    have h0 : (u.core c).a0 = (s.core c).a0 ∧ (u.core c).a1 = (s.core c).a1 := by
      rw [← hu]
      unfold State.scoreEnded
      split
      · rw [State.core_setCore_same, hcore, hc]; exact ⟨rfl, rfl⟩
      · rw [hcore, hc]; exact ⟨rfl, rfl⟩
    exact Core.arr_of_arrays h0.1 h0.2 a
  have hb : u.blockAt c = s.blockAt c := funext fun t => State.bytes_congr (State.byte_congr hum) _ _
  have hw : s.worked c q f = u.setCore c ((u.core c).setArr f.arr (((s.core c).arr f.arr).finish f (s.blockAt c))) := by
    unfold State.worked State.leaveArray
    rw [hu, if_neg (by simp [hp, hv]), if_pos rfl]
    dsimp only
    rw [harr, hb]
  have hlt := f.arr_lt
  rw [hw, State.core_setCore_same, Core.arr_setArr _ _ hlt hlt, if_pos rfl, Core.arr_setArr _ _ hlt (by omega), if_neg (by omega), harr]
  refine ⟨rfl, rfl, fun ho hsc => ?_⟩
  rw [Core.setArr_rest, ← hu, State.scoreEnded, if_pos ⟨ho, hsc, hs⟩, State.core_setCore_same]

theorem State.product_finishes {s : State} {c : Fin 36} {q : Fin 8} {f : Flight} (hl : s.lone c q f) (wm : Nat)
    (hp : f.product = true) (hvis : f.visited ≠ 0) :
    ∃ t, exec (.instructionComplete c q f.seq .finished wm []) s = .next t ∧
      s.finishes t c q f ([regKey (.sequencer c) .passCount 0, regKey (.array c) .aPassCount f.arr] ++ stallKeys c f.arr ++ productKeys c f) ∧
      (t.core c).arr f.arr = ((s.core c).arr f.arr).finish f (s.blockAt c) ∧
      (t.core c).arr (1 - f.arr) = (s.core c).arr (1 - f.arr) ∧
      t.rd (.sequencer c) .passCount 0 = s.counted (.sequencer c) .passCount 0 1 ∧
      t.rd (.array c) .aPassCount f.arr = s.counted (.array c) .aPassCount f.arr 1 ∧
      (f.ins.opcode = opRstep → t.rd (.recurrent c) .rstepChunkCount 0 =
        s.counted (.recurrent c) .rstepChunkCount 0 (f.chunks.take f.wm).length) ∧
      (f.ins.opcode = opMatmul → (Mm.of f.ins).outScore = true → (t.core c).scoreDone = true) := by
  obtain ⟨hregs, hsys, -, -⟩ := State.setFlight_rest s c q { f with done := true }
  have hnotes := State.lone_notes hl
  obtain ⟨ht, hpass, harr, hchunk⟩ := State.productCounts (s := s.setFlight c q { f with done := true }) (c := c) (f := { f with done := true })
    hp hl.status hnotes
  obtain ⟨t, he, hf, ha, -, -, hd, hk⟩ := State.instructionComplete_finishes hl wm (.inr (.inr ⟨hp, hvis⟩)) ht
    (js := [regKey (.sequencer c) .passCount 0, regKey (.array c) .aPassCount f.arr] ++ stallKeys c f.arr ++ productKeys c f)
    (append_front_subset ..)
  obtain ⟨w0, w1, w2⟩ := State.worked_product (s := s) (q := q) (f := { f with done := true }) hp hvis hl.status ht
  have hcount {p : Pg} {ctl : RegName} {clr en : Nat} (h : p.type.counterCtl = some (ctl, clr, en)) (hh : p.type ≠ .harbour) (r : RegName) (i n : Nat) :=
    State.counted_of_regs hregs hsys h hh r i n
  exact ⟨t, he, hf, (ha _).trans w0, (ha _).trans w1,
    (hk _ (by simp [endKeys])).trans (hpass.trans (hcount rfl (fun e => by cases e) _ _ _)),
    (hk _ (by simp [endKeys])).trans (harr.trans (hcount rfl (fun e => by cases e) _ _ _)),
    fun ho => (hk _ (by simp [endKeys])).trans ((hchunk ho).trans (hcount rfl (fun e => by cases e) _ _ _)),
    fun ho hs => hd.trans (w2 ho hs)⟩

/-! ### Error records (R379 to R381) -/

/-- The registers an error record of a page writes, beside those that count what its write moves in Harbour. -/
def recordKeys (p : Pg) : List Nat :=
  [regKey p .errHead 0, regKey .fault .errRingHead 0, regKey .fault .errLost 0] ++ eventKeys .fault

/-- From s to t an error record of page p has been written. -/
structure State.recorded (s t : State) (p : Pg) : Prop where
  rest : t = { s with regs := t.regs, mem := t.mem, bad := t.bad, harbour := t.harbour, pfLines := t.pfLines, dirty := t.dirty,
                      wc := t.wc, errs := t.errs }
  regs : s.regsBehind t (recordKeys p)

theorem State.recorded_trans {s t u : State} {p : Pg} (h : s.recorded t p) (k : t.recorded u p) : s.recorded u p :=
  ⟨by rw [k.rest, h.rest], fun key hn hm => (k.regs key hn hm).trans (h.regs key hn hm)⟩

theorem State.recorded_of_writes {s t : State} {p : Pg} (h : s.writes t (recordKeys p)) : s.recorded t p := by
  refine ⟨?_, fun key hn _ => h.regs key hn⟩
  obtain ⟨m, rfl⟩ := h.rest
  rfl

theorem State.recorded_errs (s : State) (p : Pg) (e : Records) : s.recorded { s with errs := e } p := ⟨rfl, fun _ _ _ => rfl⟩

theorem State.recorded_summarise (s : State) (p : Pg) (r : ErrRec) : s.recorded (s.summarise r) p := by
  unfold State.summarise
  split
  · exact State.recorded_errs s p _
  · exact State.recorded_errs s p s.errs

theorem State.recorded_ringWrite (s : State) (p : Pg) (r : ErrRec) : s.recorded (s.ringWrite r) p := by
  have h := State.store_behind s (s.ringBase + 64 * (r.seq % s.ringSize)) r.bytes
  exact ⟨by rw [State.ringWrite]; rw [h], fun _ _ hm => State.reg_store s _ _ hm⟩

theorem State.recorded_slot (s : State) (p : Pg) (r : ErrRec) :
    s.recorded (if s.ringBase = 0 then { s with errs := { s.errs with buffered := s.errs.buffered ++ [r] } } else s.ringWrite r) p := by
  split
  · exact State.recorded_errs s p _
  · exact State.recorded_ringWrite s p r

theorem State.writes_errLost (s : State) (p : Pg) : s.writes (s.bump .fault .errLost 0 1) (recordKeys p) :=
  State.writes_bump (State.writes_refl s _) 1 (by simp [recordKeys])

theorem State.recorded_overflow (s : State) (p : Pg) (n : Nat) :
    s.recorded (if s.ringBase ≠ 0 ∧ (s.rd .fault .errRingAck 0).toNat + s.ringSize ≤ n then
      (s.bump .fault .errLost 0 1).event .fault 0 else s) p := by
  split
  · exact State.recorded_of_writes (State.writes_event (State.writes_errLost s p) 0 (List.subset_append_right ..))
  · exact State.recorded_of_writes (State.writes_refl s _)

theorem State.recorded_heads (s : State) (p : Pg) (a b : Word) : s.recorded ((s.wr .fault .errRingHead 0 a).wr p .errHead 0 b) p :=
  State.recorded_of_writes (State.writes_wr (State.writes_wr (State.writes_refl s _) a (by simp [recordKeys])) b (by simp [recordKeys]))

theorem State.recorded_commitRecord (s : State) {p : Pg} {r : ErrRec} (hp : Pg.ofIndex r.page = some p) : s.recorded (s.commitRecord r) p := by
  unfold State.commitRecord
  split
  · exact State.recorded_trans (State.recorded_of_writes (State.writes_errLost s p)) (State.recorded_summarise _ p r)
  · dsimp only
    rw [hp]
    dsimp only
    exact State.recorded_trans (State.recorded_trans (State.recorded_slot s p _) (State.recorded_heads _ p _ _))
      (State.recorded_trans (State.recorded_overflow _ p _) (State.recorded_summarise _ p _))

theorem ErrRec.at_kept (r : ErrRec) (a : Option Nat) : (r.at a).cls = r.cls ∧ (r.at a).page = r.page := by
  cases a <;> exact ⟨rfl, rfl⟩

theorem Pg.ofIndex_sequencer (c : Fin 36) : Pg.ofIndex (Pg.sequencer c).index = some (.sequencer c) := by
  revert c
  decide

/-- The error record of an instruction that fails, but for one that met memory that is gone. -/
theorem State.recorded_tileRecord (s : State) (c : Fin 36) (q : Nat) (f : Flight) {st : Status} (h : st ≠ .eGone) :
    s.recorded (s.tileRecord c q f st) (.sequencer c) := by
  unfold State.tileRecord State.goneCount
  rw [if_pos h]
  generalize hr : ErrRec.at _ _ = r
  have hcls : r.cls ≠ 0 := by
    rw [← hr, (ErrRec.at_kept _ _).1]
    dsimp only
    split <;> decide
  have hpage : Pg.ofIndex r.page = some (.sequencer c) := by
    rw [← hr, (ErrRec.at_kept _ _).2]
    exact Pg.ofIndex_sequencer c
  rw [State.report, if_neg hcls]
  exact State.recorded_commitRecord s hpage

theorem recordKeys_not_queue {c : Fin 36} {q : Fin 8} {k : Nat} (h : k = regKey (.sequencer c) .qCfg q ∨ k = regKey (.sequencer c) .qPc q) :
    k ∉ recordKeys (.sequencer c) := by
  have := q.isLt
  simp only [recordKeys, eventKeys, List.mem_append, List.mem_cons, List.not_mem_nil, or_false, regKey, Pg.index, Pg.type,
    PageType.place, Pg.inst, RegName.off] at *
  omega

/-! ### An instruction that fails under HALT (R96 to R98) -/

/-- A queue that has failed at its flight f and has nothing else in flight. -/
def Queue.failedAt (x : Queue) (f : Flight) (st : Status) (y : QState) : Queue :=
  { x with lastStatus := st.code, runStatus := st.code, watermark := f.wm, failSeq := f.seq, flights := [], state := y }

/-- From v to z the lone flight f of queue q has ended with status st, and the queue is HALTED at it. -/
structure State.halted (v z : State) (c : Fin 36) (q : Fin 8) (f : Flight) (st : Status) : Prop where
  queue : z.queue c q = (v.queue c q).failedAt f st .halted
  queues : ∀ d r, ¬(d = c.val ∧ r = q.val) → z.queue d r = v.queue d r
  core : z.core c = { v.core c with queues := (z.core c).queues }
  cores : v.coresBut z c
  pc : z.rd (.sequencer c) .qPc q = setBits (v.rd (.sequencer c) .qPc q) 47 5 (f.pc / 32)
  event : bit1 (z.rd (.sequencer c) .event 0) 0 = true
  rest : z = { v with regs := z.regs, cores := z.cores, mem := z.mem, bad := z.bad, harbour := z.harbour, pfLines := z.pfLines,
                      dirty := z.dirty, wc := z.wc, errs := z.errs, records := z.records }

/-- The head of a queue, with nothing behind it and no ADDs of its own, fails under HALT. -/
theorem State.failHead_halt {v w : State} {c : Fin 36} {q : Fin 8} {f : Flight} {st : Status} (hf : (v.queue c q).flights = [f])
    (ha : f.aborted = false) (hfa : f.fatal = false) (hp : f.ins.postEn = false) (ho : f.ins.opcode ≠ opAdd ∧ f.ins.opcode ≠ opSub)
    (hw : (v.tileRecord c q f st).tileComplete c q f st = w) (hq : w.queue c q = v.queue c q)
    (hc : bit1 (w.rd (.sequencer c) .qCfg q) 2 = false) :
    v.failHead c q f st .none = (w.setQueue c q ((v.queue c q).failedAt f st .stopping)).setPc c q f.pc := by
  have hadds (s : State) : s.faultAdds c f.ins = s := by
    rw [State.faultAdds, State.faultPost, hp, State.faultOwn, if_neg (by simp [ho])]
    rfl
  have hback : w.putAllBack c q [] = w := rfl
  unfold State.failHead
  simp only [hf, hadds, hw, hq, ha, hfa, hc, List.drop_succ_cons, List.drop_zero, List.foldl_nil, List.filter_nil, List.map_nil,
    Bool.false_eq_true, if_false, Bool.and_false, hback]
  rfl

/-- Queue q, with the flight that has failed at its head, is stopped and HALTED. -/
theorem State.retire_halted {v : State} {c : Fin 36} {q : Fin 8} {f : Flight} (hf : (v.queue c q).flights = [f]) (hd : f.done = true)
    (hs : f.status ≠ .ok) (hg : f.status ≠ .eGone) (ha : f.aborted = false) (hfa : f.fatal = false) (hp : f.ins.postEn = false)
    (ho : f.ins.opcode ≠ opAdd ∧ f.ins.opcode ≠ opSub) (hc : bit1 (v.rd (.sequencer c) .qCfg q) 2 = false) :
    v.halted ((v.retire c q ((v.queue c q).flights.length + 1)).settleHalt c q) c q f f.status := by
  have hr := State.recorded_tileRecord v c q f hg
  have ht := State.tileComplete_rest (v.tileRecord c q f f.status) c q f f.status
  generalize hw : (v.tileRecord c q f f.status).tileComplete c q f f.status = w at ht
  have hcores : w.cores = v.cores := by rw [ht, hr.rest]
  have hregs (k : Nat) (h : k = regKey (.sequencer c) .qCfg q ∨ k = regKey (.sequencer c) .qPc q) : w.reg k = v.reg k := by
    refine Eq.trans (State.reg_congr (by rw [ht]) _) (hr.regs _ (recordKeys_not_queue h) ?_)
    rcases h with rfl | rfl <;> exact memoryKey_sequencer (by simp only [RegName.off]; omega)
  have hans : f.answered = false := by simp [Flight.answered, ho.1, ho.2]
  have hhead : v.retireHead c q f = _ := (by rw [State.retireHead, if_pos hs, hans]; rfl : _ = v.failHead c q f f.status .none).trans
    (State.failHead_halt hf ha hfa hp ho hw (State.queue_congr hcores c q) (by rw [State.rd_eq_reg, hregs _ (.inl rfl)]; exact hc))
  have hx : ((w.setQueue c q ((v.queue c q).failedAt f f.status .stopping)).setPc c q f.pc).queue c q =
      (v.queue c q).failedAt f f.status .stopping := by
    rw [State.queue_congr (State.setPc_cores ..), State.queue_setQueue_same]
  rw [State.retire_lone hf hd (by rw [hhead, hx]; rfl), hhead]
  generalize hy : (w.setQueue c q ((v.queue c q).failedAt f f.status .stopping)).setPc c q f.pc = y at hx
  have hz : y.settleHalt c q = (y.setQueue c q ((v.queue c q).failedAt f f.status .halted)).event (.sequencer c) 0 := by
    rw [State.settleHalt, hx]
    exact if_pos ⟨rfl, rfl⟩
  have hyw : y = { w with cores := y.cores, regs := y.regs } := by rw [← hy]; rfl
  have hyc : y.cores = (w.setQueue c q ((v.queue c q).failedAt f f.status .stopping)).cores := by rw [← hy, State.setPc_cores]
  have hev := State.writes_event (State.writes_refl (y.setQueue c q ((v.queue c q).failedAt f f.status .halted)) _) 0
    (List.Subset.refl (eventKeys (.sequencer c)))
  have hbit := State.raised_bit (State.raised_event (y.setQueue c q ((v.queue c q).failedAt f f.status .halted)) (.sequencer c) 0) (by decide)
  have hzc := State.event_cores (y.setQueue c q ((v.queue c q).failedAt f f.status .halted)) (.sequencer c) 0
  rw [hz]
  generalize (y.setQueue c q ((v.queue c q).failedAt f f.status .halted)).event (.sequencer c) 0 = z at *
  have hcore (d : Nat) : z.core d = { v.core d with queues := (z.core d).queues } := by
    rw [State.core_congr hzc]
    by_cases e : c.val = d
    · subst e
      rw [State.core_setQueue_same, State.core_congr hyc, State.core_setQueue_same, State.core_congr hcores]
      rfl
    · rw [State.core_setQueue_other e, State.core_congr hyc, State.core_setQueue_other e, State.core_congr hcores]
  refine ⟨?_, fun d r e => ?_, hcore c, fun d e => ?_, ?_, hbit, ?_⟩
  · rw [State.queue_congr hzc, State.queue_setQueue_same]
  · rw [State.queue_congr hzc, State.setQueue_other e, State.queue_congr hyc, State.setQueue_other e, State.queue_congr hcores]
  · rw [State.core_congr hzc, State.core_setQueue_other (Ne.symm e), State.core_congr hyc, State.core_setQueue_other (Ne.symm e),
      State.core_congr hcores]
  · have hne : regKey (.sequencer c) .qPc q ∉ eventKeys (.sequencer c) :=
      regKey_not_eventKeys (by simp only [RegName.off]; omega)
    rw [State.rd_eq_reg, hev.regs _ hne, ← hy]
    refine (State.rd_setFld_same ..).trans ?_
    exact congrArg (fun a => setBits a 47 5 _) (hregs _ (.inr rfl))
  · obtain ⟨m, hm⟩ := hev.rest
    rw [hm, State.setQueue, hyw, ht, hr.rest]
    rfl

/-- From s to t the holder h of core c has let it go and no other queue has taken it. -/
structure State.letsGo (s t : State) (c : Fin 36) (h : Nat) : Prop where
  rest : t = { s with cores := t.cores }
  cores : s.coresBut t c
  core : t.core c = { s.core c with queues := (t.core c).queues, holder := none, prevHolder := h, stopping := false }
  queue : ∀ d r, t.queue d r = s.queue d r

theorem State.arbitrate_letsGo {s : State} {c : Fin 36} {h : Nat} (hh : (s.core c).holder = some h)
    (hk : (s.queue c h).keeps = false) (hr : ∀ r < 8, (s.queue c r).state ≠ .running)
    (ht : ∀ r, (s.queue c r).state = .waiting → (s.queue c r).inWaitGe = true) : s.letsGo (s.arbitrate c) c h := by
  have hkq := Core.queue_freeTags (k := s.core c) ht
  have hrest := Core.freeTags_rest (s.core c)
  unfold State.arbitrate
  dsimp only
  generalize (s.core c).freeTags = k at *
  have hhold : k.holder = some h := by rw [hrest]; exact hh
  have hkeeps : (k.queue h).keeps = false := by rw [hkq]; exact hk
  simp only [hhold, hkeeps, Bool.false_eq_true, if_false, State.handOn]
  generalize ht : (s.setCore c k).setCore c { (s.setCore c k).core c with holder := none, prevHolder := h, stopping := false } = t
  have hcore : t.core c = { k with holder := none, prevHolder := h, stopping := false } := by
    rw [← ht, State.core_setCore_same, State.core_setCore_same]
  have hcores (d : Nat) (hd : d ≠ c.val) : t.core d = s.core d := by
    rw [← ht, State.core_setCore_other (Ne.symm hd), State.core_setCore_other (Ne.symm hd)]
  have hq (d r : Nat) : t.queue d r = s.queue d r := by
    by_cases e : d = c.val
    · subst e; rw [State.queue, hcore]; exact hkq r
    · rw [State.queue, hcores d e]; rfl
  rw [State.nextHolder_none (fun r h8 => by rw [hq]; exact hr r h8)]
  refine ⟨by rw [← ht]; rfl, hcores, ?_, hq⟩
  rw [hcore]
  conv_lhs => rw [hrest]

/-- The lone flight f of queue q as it stands when it has failed. -/
theorem State.queue_setFlight_lone {s : State} {c : Fin 36} {q : Fin 8} {f g : Flight} (hf : (s.queue c q).flights = [f]) (hg : g.seq = f.seq) :
    (s.setFlight c q g).queue c q = { s.queue c q with flights := [g] } := by
  rw [State.setFlight, State.queue_setQueue_same, hf]
  simp [hg]

/-- What the failure of a MOVE leaves, before its queue acts on it. -/
theorem State.works_failedMove {s : State} {c : Fin 36} {q : Fin 8} {f g : Flight} (hl : s.lone c q f) (hg : g.seq = f.seq) (hd : g.done = true)
    (ho : g.ins.opcode = opMove) (hn : g.gated = false) (hs : g.status ≠ .ok) :
    (s.setFlight c q g).works (s.endFlight c q g) c (g.counts.map (fun x => regKey x.1 x.2.1 x.2.2.1)) := by
  have hp : g.product = false := by rw [Flight.product, ho]; rfl
  have hm : opMove ≠ opMatmul ∧ opMove ≠ opRstep ∧ opMove ≠ opVchain ∧ opMove ≠ opWload := by decide
  have hu (u : State) : u.undo c q g = u.mvScramble (Mv.of g.ins) (mvIssued g) g.m g.wm := by
    unfold State.undo
    simp [hn, ho, hm]
  have hcount (u : State) : u.endCounts c g = u.countsOf g := by
    have h1 : opHolds opMove = false := rfl
    have h2 : opMove ≠ opAdd ∧ opMove ≠ opSub := by decide
    unfold State.endCounts
    simp [ho, hs, hp, h1, h2, hm]
  have hscore (u : State) : u.scoreEnded c g = u := by
    unfold State.scoreEnded
    rw [if_neg (fun h => hs h.2.2)]
  have hleave (u : State) (b : Bool) : u.leaveArray c q g b = u := by
    unfold State.leaveArray
    rw [if_pos (.inl (by rw [hp]; rfl))]
  have hscr (u : State) : u.works (u.mvScramble (Mv.of g.ins) (mvIssued g) g.m g.wm) c (g.counts.map (fun x => regKey x.1 x.2.1 x.2.2.1)) := by
    unfold State.mvScramble
    refine State.works_foldl (fun t d => State.works_foldl (fun t r => ?_) _ t) _ u
    dsimp only
    split
    · exact State.works_scramble t c _ _ _
    · exact State.works_refl t c _
  unfold State.endFlight
  simp only [hs, if_true, hu, hcount, hscore, hleave, ne_eq, not_false_eq_true]
  have hw := State.works_trans (hscr (s.setFlight c q g)) (State.works_of_tallies (State.tallies_countsOf _ g) c)
  generalize State.countsOf _ g = w at hw ⊢
  have hq := State.works_queue hw
  rw [State.banksMove_done (q := q) (f := g) (by rw [hq, State.queue_setFlight_lone hl.flights hg]) hd ?_ (fun r h8 hr => ?_)]
  · exact hw
  · rw [hw.core.holder, (State.setFlight_rest s c q g).2.2.2]
    exact hl.holder
  · rw [hq, State.setFlight, State.setQueue_other (fun k => hr k.2)]
    exact hl.loads r h8 hr

theorem State.core_setCore_self (s : State) (c : Fin 36) (d : Nat) : (s.setCore c (s.core c)).core d = s.core d := by
  by_cases e : c.val = d
  · subst e; exact State.core_setCore_same ..
  · exact State.core_setCore_other e

theorem State.tail_letsGo {s : State} {c : Fin 36} {h : Nat} (hw : (s.core c).waiting = []) (hh : (s.core c).holder = some h)
    (hk : (s.queue c h).keeps = false) (hr : ∀ r < 8, (s.queue c r).state ≠ .running)
    (ht : ∀ r, (s.queue c r).state = .waiting → (s.queue c r).inWaitGe = true) : s.letsGo ((s.applyWaiting c).arbitrate c) c h := by
  rw [State.applyWaiting_none hw]
  have hq := State.queue_setCore_self s c
  have hc := State.core_setCore_self s c
  have k := State.arbitrate_letsGo (s := s.setCore c (s.core c)) (h := h) (by rw [hc]; exact hh) (by rw [hq]; exact hk)
    (fun r h8 => by rw [hq]; exact hr r h8) (fun r => by rw [hq]; exact ht r)
  exact ⟨k.rest, fun d hd => (k.cores d hd).trans (hc d), by rw [k.core, hc], fun d r => (k.queue d r).trans (hq d r)⟩

theorem State.semsSame_of_core {s t : State} {c : Fin 36} (hs : t.sems = s.sems) (hc : s.coresBut t c)
    (h : (t.core c).sems = (s.core c).sems) : s.semsSame t := by
  intro g d i
  have hd : (t.core d).sems = (s.core d).sems := by
    by_cases e : d = c.val
    · subst e; exact h
    · rw [hc d e]
  rw [State.sem, State.sem, hs, hd]

theorem queueKeys_not_noteKeys {c : Fin 36} {q : Fin 8} {a k : Nat} (h : k = regKey (.sequencer c) .qCfg q ∨ k = regKey (.sequencer c) .qPc q) :
    k ∉ noteKeys c a := by
  have := q.isLt
  simp only [noteKeys, List.mem_cons, List.not_mem_nil, or_false, regKey, Pg.index, Pg.type, PageType.place, Pg.inst, RegName.off] at *
  omega

theorem execInstructionComplete_link {s : State} {c : Fin 36} {q : Fin 8} {f : Flight} (hl : s.lone c q f) (wm : Nat)
    (ho : f.ins.opcode = opMove) :
    exec (.instructionComplete c q f.seq .link wm []) s =
      .next ((s.endFlight c q { f with done := true, status := .eLink, wm := min wm f.total }).drainQueue c q).settled := by
  have hs : f.stopping = false := by simp [Flight.stopping, hl.aborted, hl.fatal, hl.gated]
  rw [exec_instructionComplete, execInstructionComplete, State.awake_up hl.up, hl.flights]
  simp [State.endable_lone hl (.inl ho), hs, hwStatus, Flight.ending, ho, hl.status]

/-- A MOVE whose link has failed under HALT: the second part of O16. -/
theorem State.move_halts {s : State} {c : Fin 36} {q : Fin 8} {f : Flight} (hl : s.lone c q f) (wm : Nat) (ho : f.ins.opcode = opMove)
    (hp : f.ins.postEn = false) (hc : bit1 (s.rd (.sequencer c) .qCfg q) 2 = false) :
    ∃ t, exec (.instructionComplete c q f.seq .link wm []) s = .next t ∧ (t.queue c q).state = .halted ∧
      (t.queue c q).flights = [] ∧ (t.queue c q).lastStatus = Status.eLink.code ∧ (t.queue c q).watermark = min wm f.total ∧
      (t.queue c q).failSeq = f.seq ∧ t.rd (.sequencer c) .qPc q = setBits (s.rd (.sequencer c) .qPc q) 47 5 (f.pc / 32) ∧
      bit1 (t.rd (.sequencer c) .event 0) 0 = true ∧ (t.core c).holder = none ∧ s.semsSame t ∧
      ∀ d r, ¬(d = c.val ∧ r = q.val) → t.queue d r = s.queue d r := by
  rw [execInstructionComplete_link hl wm ho]
  generalize hg : ({ f with done := true, status := .eLink, wm := min wm f.total } : Flight) = g
  obtain ⟨gseq, gdone, gins, ggated, gstatus, gwm, gpc, gab, gfatal, gcounts⟩ : g.seq = f.seq ∧ g.done = true ∧ g.ins = f.ins ∧
      g.gated = f.gated ∧ g.status = .eLink ∧ g.wm = min wm f.total ∧ g.pc = f.pc ∧ g.aborted = f.aborted ∧ g.fatal = f.fatal ∧
      g.counts = f.counts := by
    rw [← hg]; exact ⟨rfl, rfl, rfl, rfl, rfl, rfl, rfl, rfl, rfl, rfl⟩
  have hw := State.works_failedMove hl gseq gdone (by rw [gins, ho]) (by rw [ggated, hl.gated]) (by rw [gstatus]; decide)
  have hset := State.queue_setFlight_lone hl.flights gseq
  obtain ⟨hregs, -, -, hcore⟩ := State.setFlight_rest s c q g
  have hset' (d r : Nat) (e : ¬(d = c.val ∧ r = q.val)) : (s.setFlight c q g).queue d r = s.queue d r := by
    rw [State.setFlight, State.setQueue_other e]
  have hsems : s.semsSame (s.setFlight c q g) := fun x d i => State.sem_setQueue ..
  have hest : (s.setFlight c q g).est = s.est := rfl
  generalize s.setFlight c q g = u at *
  generalize s.endFlight c q g = v at *
  have hkey {k : Nat} (h : k = regKey (.sequencer c) .qCfg q ∨ k = regKey (.sequencer c) .qPc q) : v.reg k = s.reg k := by
    refine (hw.regs k (fun e => queueKeys_not_noteKeys h (State.lone_notes hl ?_))).trans (State.reg_congr hregs k)
    rwa [gcounts] at e
  have hvq : v.queue c q = { s.queue c q with flights := [g] } := (State.works_queue hw c q).trans hset
  have hvo (d r : Nat) (e : ¬(d = c.val ∧ r = q.val)) : v.queue d r = s.queue d r := (State.works_queue hw d r).trans (hset' d r e)
  have hz := State.retire_halted (v := v) (f := g) (by rw [hvq]) gdone (by rw [gstatus]; decide) (by rw [gstatus]; decide)
    (by rw [gab, hl.aborted]) (by rw [gfatal, hl.fatal]) (by rw [gins, hp]) (by rw [gins, ho]; decide)
    (by rw [State.rd_eq_reg, hkey (.inl rfl)]; exact hc)
  rw [State.drainQueue]
  generalize (v.retire c q ((v.queue c q).flights.length + 1)).settleHalt c q = z at hz
  have hzq : z.queue c q = (v.queue c q).failedAt g .eLink .halted := by rw [hz.queue, gstatus]
  have hzo (d r : Nat) (e : ¬(d = c.val ∧ r = q.val)) : z.queue d r = s.queue d r := (hz.queues d r e).trans (hvo d r e)
  have hF := State.tail_letsGo (s := z) (c := c) (h := q.val) (by rw [hz.core]; exact hw.core.waiting.trans (by rw [hcore]; exact hl.waiting))
    (by rw [hz.core]; exact hw.core.holder.trans (by rw [hcore]; exact hl.holder)) (by rw [hzq]; rfl)
    (fun r h8 => by
      by_cases e : r = q.val
      · rw [e, hzq]; exact fun h => by cases h
      · rw [hzo c r (fun k => e k.2)]; exact hl.ready r h8 e)
    (fun r hr => by
      by_cases e : r = q.val
      · rw [e, hzq] at hr; cases hr
      · rw [hzo c r (fun k => e k.2)] at hr ⊢; exact hl.tags r hr)
  generalize (z.applyWaiting c).arbitrate c = F at hF
  have hFs : s.semsSame F := by
    have h1 : v.semsSame z := State.semsSame_of_core (c := c) (by rw [hz.rest]) hz.cores (by rw [hz.core])
    have h2 : z.semsSame F := State.semsSame_of_core (c := c) (by rw [hF.rest]) hF.cores (by rw [hF.core])
    exact fun x d i => (h2 x d i).trans ((h1 x d i).trans ((State.works_sems hw x d i).trans (hsems x d i)))
  have hFw : F.faultedWaiter = none := State.faultedWaiter_empty (s := s) (c := c) (q := q) hl.faulted (fun x d i => by rw [hFs])
    (by rw [hF.queue, hzq]; rfl) (fun d r e => by rw [hF.queue, hzo d r e])
  rw [State.settled_calm hFw (by rw [hF.rest, hz.rest, hw.rest]; exact (congrArg Est.fast hest).trans hl.fast)]
  have hreg (p : Pg) (r : RegName) (i : Nat) : F.rd p r i = z.rd p r i := State.reg_congr (by rw [hF.rest]) _
  refine ⟨F, rfl, by rw [hF.queue, hzq]; rfl, by rw [hF.queue, hzq]; rfl, by rw [hF.queue, hzq]; rfl, ?_, ?_, ?_, ?_, by rw [hF.core], hFs,
    fun d r e => by rw [hF.queue, hzo d r e]⟩
  · rw [hF.queue, hzq]; exact gwm
  · rw [hF.queue, hzq]; exact gseq
  · rw [hreg, hz.pc, gpc]
    exact congrArg (fun a => setBits a 47 5 _) (hkey (.inr rfl))
  · rw [hreg]; exact hz.event

/-- Settles O16: a finished instruction completes with OK and is counted, and a MOVE whose link has failed halts its queue. -/
theorem completionResults : Obligations.CompletionResults := by
  unfold Obligations.CompletionResults
  refine ⟨fun s c q f wm hl => ⟨State.move_finishes hl wm, State.vchain_finishes hl wm, fun ho hv => ?product⟩,
    fun s c q f wm hl ho hp hc => State.move_halts hl wm ho hp hc⟩
  case product =>
    have hp : f.product = true := by
      rcases ho with h | h <;> rw [Flight.product, h] <;> rfl
    exact State.product_finishes hl wm hp hv

/-! ### What a change of holder leaves of the queues (R78, R295) -/

/-- A change of each queue of a table that leaves a queue that has done nothing. -/
theorem get_mapQueues {f : Nat → Queue → Queue} (h0 : ∀ q, f q {} = {}) (m : FMap Queue) (q : Nat) :
    FMap.get {} (m.map (fun y => (y.1, f y.1 y.2))) q = f q (FMap.get {} m q) := by
  induction m with
  | nil => exact (h0 q).symm
  | cons y m ih =>
    simp only [FMap.get, List.map_cons, FMap.find?] at *
    by_cases e : y.1 = q
    · rw [if_pos e, if_pos e, e]; rfl
    · rw [if_neg e, if_neg e, ih]

theorem State.queue_setCore_same (s : State) (c : Fin 36) (k : Core) (r : Nat) : (s.setCore c k).queue c r = k.queue r := by
  rw [State.queue, State.core_setCore_same]

/-- From s to t the queues of core c are as they were but for what switches note in them, and its holder is the same. -/
structure State.switches (s t : State) (c : Fin 36) : Prop where
  holder : (t.core c).holder = (s.core c).holder
  prevHolder : (t.core c).prevHolder = (s.core c).prevHolder
  alike : ∀ r, (s.queue c r).alike (t.queue c r)

theorem State.switches_refl (s : State) (c : Fin 36) : s.switches s c := ⟨rfl, rfl, fun _ => Queue.alike_refl _⟩

theorem State.switches_trans {s t u : State} {c : Fin 36} (h : s.switches t c) (k : t.switches u c) : s.switches u c :=
  ⟨k.holder.trans h.holder, k.prevHolder.trans h.prevHolder, fun r => Queue.alike_trans (h.alike r) (k.alike r)⟩

theorem State.switches_of_cores {s t : State} (h : t.cores = s.cores) (c : Fin 36) : s.switches t c := by
  refine ⟨by rw [State.core_congr h], by rw [State.core_congr h], fun r => ?_⟩
  rw [State.queue_congr h]
  exact Queue.alike_refl _

theorem State.switches_foldl {α : Type} {f : State → α → State} {c : Fin 36} (hf : ∀ s x, State.switches s (f s x) c) (l : List α) :
    ∀ s : State, s.switches (l.foldl f s) c := by
  induction l with
  | nil => exact fun s => State.switches_refl s c
  | cons x l ih => exact fun s => State.switches_trans (hf s x) (ih _)

theorem State.switches_setArr (s : State) (c : Fin 36) (a : Nat) (x : ArraySt) : s.switches (s.setCore c ((s.core c).setArr a x)) c := by
  refine ⟨?_, ?_, fun r => by rw [State.setArr_queue]; exact Queue.alike_refl _⟩ <;> rw [State.core_setCore_same, Core.setArr_rest]

/-- What a queue has in the save area may change. -/
theorem Queue.alike_ledgeSaved (x : Queue) (l : List (Nat × List Byte)) : x.alike { x with ledgeSaved := l } :=
  ⟨rfl, .inl rfl, rfl, fun g hg => ⟨g, hg, rfl⟩, fun g hg _ => ⟨g, hg, rfl⟩⟩

/-- A queue's part of the save area and the owners of the Ledge change. -/
theorem State.switches_setOwner (s : State) (c : Fin 36) (q : Nat) (l : List (Nat × List Byte)) (m : FMap Nat) :
    s.switches (s.setCore c { (s.core c).setQueue q { s.queue c q with ledgeSaved := l } with ledgeOwner := m }) c := by
  refine ⟨by rw [State.core_setCore_same]; rfl, by rw [State.core_setCore_same]; rfl, fun r => ?_⟩
  rw [State.queue_setCore_same]
  show ((s.core c).queue r).alike (((s.core c).setQueue q _).queue r)
  rw [Core.queue_setQueue]
  split
  · next e => subst e; exact Queue.alike_ledgeSaved _ l
  · exact Queue.alike_refl _

theorem State.switches_switchLedge (s : State) (c : Fin 36) (y : Nat) : s.switches (s.switchLedge c y) c := by
  unfold State.switchLedge
  dsimp only
  generalize hu : List.foldl _ s (List.range 8) = u
  have hsu : s.switches u c := by
    rw [← hu]
    refine State.switches_foldl (fun t q => ?_) _ s
    split
    · exact State.switches_refl t c
    · exact State.switches_setOwner t c q _ _
  generalize hv : List.foldl _ u _ = v
  have huv : u.switches v c := by
    rw [← hv]
    exact State.switches_foldl (fun t p => State.switches_of_cores (by rw [State.store_behind]) c) _ u
  refine State.switches_trans (State.switches_trans hsu huv) ?_
  have h := State.switches_setOwner v c y [] (v.core c).ledgeOwner
  refine State.switches_trans (t := v.setQueue c y { v.queue c y with ledgeSaved := [] }) h ?_
  exact ⟨by rw [State.core_setCore_same], by rw [State.core_setCore_same], fun r => by
    rw [State.queue_setCore_same]; exact Queue.alike_refl _⟩

theorem State.switches_saveArea (s : State) (c : Fin 36) (k : Core) : s.switches (s.saveArea c k) c := by
  refine State.switches_foldl (fun t q => ?_) _ s
  dsimp only
  split
  · exact State.switches_refl t c
  · refine State.switches_of_cores ?_ c
    rw [State.storeFree]
    dsimp only
    rw [State.store_behind]

theorem State.switches_reflexWaited (s : State) (c : Fin 36) (y : Nat) : s.switches (s.reflexWaited c y) c := by
  have he (t : State) (w : Word) : (if 6144 < bits w 31 0 then t.event .scheduler 1 else t).cores = t.cores := by
    split
    · exact State.event_cores ..
    · rfl
  have hd := (he s.draw.2 s.draw.1).trans (show s.draw.2.cores = s.cores from rfl)
  unfold State.reflexWaited
  split
  · exact State.switches_refl s c
  · dsimp only
    generalize (if 6144 < bits s.draw.1 31 0 then s.draw.2.event .scheduler 1 else s.draw.2) = u at hd
    split
    · exact State.switches_trans (State.switches_of_cores hd c) (State.switches_of_cores (State.wr_cores ..) c)
    · exact State.switches_of_cores hd c

theorem State.switches_switchBlocks (s : State) (c : Fin 36) (y : Nat) : s.switches (s.switchBlocks c y) c := by
  refine State.switches_foldl (fun t f => ?_) _ s
  dsimp only
  split
  · exact State.switches_refl t c
  · split
    · exact State.switches_refl t c
    · exact State.switches_setArr t c _ _

/-- A change of holder: the new one holds the core, and the queues are as they were but for what it notes in them. -/
structure State.handsTo (s t : State) (c : Fin 36) (y : Nat) : Prop where
  holder : (t.core c).holder = some y
  prevHolder : (t.core c).prevHolder = (s.core c).prevHolder
  alike : ∀ r, (s.queue c r).alike (t.queue c r)

theorem State.handsTo_switches {s t u : State} {c : Fin 36} {y : Nat} (h : s.handsTo t c y) (k : t.switches u c) : s.handsTo u c y :=
  ⟨k.holder.trans h.holder, k.prevHolder.trans h.prevHolder, fun r => Queue.alike_trans (h.alike r) (k.alike r)⟩

theorem State.handsTo_switchTo (s : State) (c : Fin 36) (y : Nat) : s.handsTo (s.switchTo c y) c y := by
  unfold State.switchTo
  dsimp only
  generalize hu : s.setCore c _ = u
  have hsu : s.handsTo u c y := by
    rw [← hu]
    refine ⟨by rw [State.core_setCore_same], by rw [State.core_setCore_same], fun r => ?_⟩
    rw [State.queue_setCore_same]
    have h := get_mapQueues (f := fun q x => { x with flights := switchFlights y q (s.wayOf c y 0) (s.wayOf c y 1) x.flights })
      (fun _ => rfl) (s.core c).queues r
    show Queue.alike _ (FMap.get {} _ r)
    rw [h]
    exact Queue.alike_map (f := fun f => { f with saved := if r = y then [] else (f.units.filter (fun u =>
      if u < 48 then (s.wayOf c y 0).contains u else (s.wayOf c y 1).contains (u - 48))).foldl KeySet.add f.saved }) (fun _ => rfl) _
  generalize hv : ((u.switchLedge c y).saveArea c (s.core c)).reflexWaited c y = v
  have huv : u.switches v c := hv ▸ State.switches_trans
    (State.switches_trans (State.switches_switchLedge u c y) (State.switches_saveArea _ c _)) (State.switches_reflexWaited _ c y)
  generalize hw : ((v.switchBlock c y).map (fun x => v.switchLoads c x.1 x.2)).getD v = w
  have hvw : v.switches w c := by
    rw [← hw]
    cases v.switchBlock c y with
    | none => exact State.switches_refl v c
    | some x => exact State.switches_setArr v c _ _
  have hbump (t : State) (p : Pg) (r : RegName) (i n : Nat) : t.switches (t.bump p r i n) c := State.switches_of_cores (by simp) c
  have hall (m n : Nat) := State.handsTo_switches hsu (State.switches_trans huv (State.switches_trans hvw
    (State.switches_trans (State.switches_switchBlocks w c y) (State.switches_trans (hbump _ .scheduler .schedSaveUnits 0 m)
      (hbump _ (.recurrent c) .stateSaveCount 0 n)))))
  split
  · exact State.handsTo_switches (hall _ _) (hbump _ _ _ _ _)
  · exact hall _ _

/-- A queue that waits for a DMA tag and is ready again is as it was but for its state. -/
theorem Queue.alike_ready {x : Queue} (h : x.state = .waiting) : x.alike { x with state := .running } :=
  ⟨rfl, .inr ⟨h, rfl⟩, rfl, fun g hg => ⟨g, hg, rfl⟩, fun g hg _ => ⟨g, hg, rfl⟩⟩

theorem Core.alike_freeTags (k : Core) (r : Nat) : (k.queue r).alike (k.freeTags.queue r) := by
  unfold Core.freeTags
  split
  · exact Queue.alike_refl _
  · have h := get_mapQueues (f := fun _ x => if x.state = .waiting ∧ !x.inWaitGe then { x with state := .running } else x)
      (fun _ => rfl) k.queues r
    show (k.queue r).alike (FMap.get {} _ r)
    rw [h]
    show (k.queue r).alike (if (k.queue r).state = .waiting ∧ !(k.queue r).inWaitGe then { k.queue r with state := .running } else k.queue r)
    split
    · next h => exact Queue.alike_ready h.1
    · exact Queue.alike_refl _

theorem State.alike_handOn (s : State) (c : Fin 36) (h : Option Nat) (r : Nat) : (s.queue c r).alike ((s.handOn c h).queue c r) := by
  have hn (t : State) : (t.queue c r).alike ((match t.nextHolder c with | some y => t.switchTo c y | none => t : State).queue c r) := by
    split
    · exact (State.handsTo_switchTo t c _).alike r
    · exact Queue.alike_refl _
  cases h with
  | none => exact hn s
  | some h =>
    have hq : (s.setCore c { s.core c with holder := none, prevHolder := h, stopping := false }).queue c r = s.queue c r :=
      State.queue_setCore_same ..
    have k := hn (s.setCore c { s.core c with holder := none, prevHolder := h, stopping := false })
    rw [hq] at k
    exact k

/-- Settling the holder of a core leaves its queues but for what switches note in them. -/
theorem State.alike_arbitrate (s : State) (c : Fin 36) (r : Nat) : (s.queue c r).alike ((s.arbitrate c).queue c r) := by
  have hf : (s.queue c r).alike ((s.setCore c (s.core c).freeTags).queue c r) := by
    rw [State.queue_setCore_same]; exact Core.alike_freeTags _ r
  have hs (x : Bool) : (s.queue c r).alike (((s.setCore c (s.core c).freeTags).setCore c { (s.core c).freeTags with stopping := x }).queue c r) := by
    rw [State.queue_setCore_same]; exact Core.alike_freeTags _ r
  have hh (h : Option Nat) := Queue.alike_trans hf (State.alike_handOn (s.setCore c (s.core c).freeTags) c h r)
  unfold State.arbitrate
  dsimp only
  split
  · split
    · split
      · exact hs false
      · split
        · exact hs true
        · exact hh _
    · exact hh _
  · exact hh _

/-- The one ready queue of the highest class is the next holder (R78). -/
theorem State.nextHolder_eq {s : State} {c : Fin 36} {y : Nat} (hy : y < 8) (hr : (s.queue c y).state = .running)
    (hu : ∀ r < 8, r ≠ y → (s.queue c r).state = .running → s.qClass c y < s.qClass c r) : s.nextHolder c = some y := by
  unfold State.nextHolder
  dsimp only
  generalize hl : ((List.range 8).map (fun i => ((s.core c).prevHolder + 1 + i) % 8)).filter (fun q => (s.queue c q).state == .running) = l
  have hmem : y ∈ l := by
    rw [← hl, List.mem_filter, List.mem_map]
    refine ⟨⟨(y + 7 - (s.core c).prevHolder % 8) % 8, List.mem_range.2 (by omega), by omega⟩, by rw [hr]; rfl⟩
  have hall : ∀ r ∈ l, r = y ∨ s.qClass c y < s.qClass c r := by
    intro r h
    rw [← hl, List.mem_filter, List.mem_map] at h
    obtain ⟨⟨i, -, rfl⟩, h2⟩ := h
    by_cases e : ((s.core c).prevHolder + 1 + i) % 8 = y
    · exact .inl e
    · exact .inr (hu _ (by omega) e (by simpa using h2))
  have hlow (cl : Nat) (h : cl < s.qClass c y) : l.find? (fun q => decide (s.qClass c q = cl)) = none := by
    refine List.find?_eq_none.2 (fun r hm => ?_)
    rcases hall r hm with e | e
    · rw [e]; simp; omega
    · simp; omega
  have hown : l.find? (fun q => decide (s.qClass c q = s.qClass c y)) = some y := by
    cases hf : l.find? (fun q => decide (s.qClass c q = s.qClass c y)) with
    | none => exact absurd (List.find?_eq_none.1 hf y hmem) (by simp)
    | some z =>
      have hz := List.find?_some (p := fun q => decide (s.qClass c q = s.qClass c y)) hf
      rcases hall z (List.mem_of_find?_eq_some hf) with e | e
      · rw [e]
      · simp at hz; omega
  have hlt : s.qClass c y < 4 := bits_lt _ 1 0
  generalize s.qClass c y = k at *
  interval_cases k <;> simp [List.findSome?, hown, hlow]

/-! ### Tile-pass boundaries (R60, R93, R94) -/

theorem State.qClass_congr {s t : State} {c : Fin 36} (h : ∀ q, t.rd (.sequencer c) .qCfg q = s.rd (.sequencer c) .qCfg q) (q : Nat) :
    t.qClass c q = s.qClass c q := by
  rw [State.qClass, State.qClass, State.fld, State.fld, h]

theorem State.higherReady_congr {s t : State} {c : Fin 36} (hc : ∀ r, t.qClass c r = s.qClass c r)
    (hq : ∀ r, (t.queue c r).state = (s.queue c r).state) (h : Nat) : t.higherReady c h = s.higherReady c h := by
  simp only [State.higherReady, hc, hq]

/-- The counts of a core's sequencer at a boundary. -/
def boundaryKeys (c : Fin 36) : List Nat := [regKey (.sequencer c) .passCount 0, regKey (.sequencer c) .preemptCount 0]

theorem qCfg_not_boundaryKeys (c : Fin 36) (q : Nat) : regKey (.sequencer c) .qCfg q ∉ boundaryKeys c := by
  simp only [boundaryKeys, List.mem_cons, List.not_mem_nil, or_false, regKey, RegName.off]
  omega

/-- What TILE_PASS_BOUNDARY does where nothing stops the instruction: PASS_COUNT has risen, and its banks and those that wait go on. -/
def State.passes (s : State) (c : Fin 36) (q : Nat) (f : Flight) (stop : Bool) : State × Flight :=
  let s := s.bump (.sequencer c) .passCount 0 1
  let p := if f.product then s.passBanks c q f stop else (s, f)
  (p.1.banksMove c none, p.2)

theorem execTilePassBoundary_passes {s : State} {c : Fin 36} {q n : Nat} {f : Flight} (hu : s.up) (hm : s.coreMoves c = true)
    (hh : (s.core c).holder = some q) (hf : (s.queue c q).onUnit = some f) (hs : f.stopping = false) (hl : s.late c q = false) :
    exec (.tilePassBoundary c n) s = .next (
      let p := s.passes c q f (s.higherReady c q)
      if s.higherReady c q then
        ((p.1.setFlight c q (p.2.liveAt n)).bump (.sequencer c) .preemptCount 0 1).handOn c (some q)
      else p.1) := by
  have hr : (s.bump (.sequencer c) .passCount 0 1).higherReady c q = s.higherReady c q := by
    refine State.higherReady_congr (State.qClass_congr fun r => ?_) (fun r => by rw [State.queue_congr (State.bump_cores ..)]) q
    exact State.tallies_rd (State.tallies_bump (ks := boundaryKeys c) 1 (by simp [boundaryKeys])) (qCfg_not_boundaryKeys c r)
  rw [exec_tilePassBoundary, execTilePassBoundary, State.awake_up hu, hm]
  simp only [if_true, hh, hf, hs, hl, Bool.false_eq_true, if_false, hr]
  unfold State.passes
  dsimp only

/-- A product goes on at a pass boundary by some of its blocks. -/
theorem State.passBanks_goes {s : State} {c : Fin 36} {q : Nat} {f : Flight} (stop : Bool) (hv : f.visited ≠ 0) :
    ∃ (v : Nat) (a : ArraySt), f.visited ≤ v ∧ v ≤ max f.visited f.blocks.length ∧
      s.passBanks c q f stop = ((s.draw.2.setCore c ((s.draw.2.core c).setArr f.arr a)).setFlight c q { f with visited := v }, { f with visited := v }) := by
  unfold State.passBanks
  rw [if_neg hv]
  refine ⟨_, _, ?_, ?_, rfl⟩
  · exact Nat.le_add_right ..
  · have hle (x : Nat) : f.visited + x % (f.blocks.length - f.visited + 1) ≤ max f.visited f.blocks.length := by
      have := Nat.mod_lt x (show 0 < f.blocks.length - f.visited + 1 by omega)
      omega
    exact hle _

/-- A boundary at which the holder's instruction goes on: the first part of O17. -/
theorem State.boundary_goesOn {s : State} {c : Fin 36} {q : Fin 8} {f : Flight} (n : Nat) (hu : s.up) (hm : s.coreMoves c = true)
    (hh : (s.core c).holder = some q.val) (hf : (s.queue c q).flights = [f]) (hd : f.done = false) (ho : opHolds f.ins.opcode = true)
    (hp : f.product = true → f.visited ≠ 0) (hw : ∀ r < 8, ∀ g ∈ (s.queue c r).flights, g.ins.opcode ≠ opWload)
    (hs : f.stopping = false) (hl : s.late c q = false) (hr : s.higherReady c q = false) :
    ∃ (t : State) (v : Nat), exec (.tilePassBoundary c n) s = .next t ∧
      t = { s with regs := t.regs, cores := t.cores, freeIx := t.freeIx } ∧
      t.rd (.sequencer c) .passCount 0 = s.counted (.sequencer c) .passCount 0 1 ∧
      s.regsBut t [regKey (.sequencer c) .passCount 0] ∧ s.coresBut t c ∧
      t.core c = { s.core c with queues := (t.core c).queues, a0 := (t.core c).a0, a1 := (t.core c).a1 } ∧
      t.queue c q = { s.queue c q with flights := [{ f with visited := v }] } ∧ f.visited ≤ v ∧ v ≤ max f.visited f.blocks.length ∧
      (∀ r, r ≠ q.val → t.queue c r = s.queue c r) ∧
      (f.product = false → v = f.visited ∧ (t.core c).a0 = (s.core c).a0 ∧ (t.core c).a1 = (s.core c).a1) := by
  have hon : (s.queue c q).onUnit = some f := by rw [Queue.onUnit, hf]; simp [hd, ho]
  rw [execTilePassBoundary_passes hu hm hh hon hs hl, hr]
  simp only [Bool.false_eq_true, if_false]
  have ht : s.tallies (s.bump (.sequencer c) .passCount 0 1) [regKey (.sequencer c) .passCount 0] :=
    State.tallies_bump 1 (List.mem_singleton_self _)
  have hcount := State.rd_bump_same s (.sequencer c) .passCount 0 1
  unfold State.passes
  dsimp only
  generalize s.bump (.sequencer c) .passCount 0 1 = u at *
  have huc := State.tallies_cores ht
  have huq := State.queue_congr huc
  have hidle {v : State} {g : Flight} (hvq : (v.queue c q).flights = [g]) (hvo : ∀ r, r ≠ q.val → v.queue c r = s.queue c r)
      (hvh : (v.core c).holder = some q.val) (hg : g.ins = f.ins) (hgv : g.product = true → g.visited ≠ 0) : v.banksMove c none = v := by
    refine State.banksMove_idle none (fun r h8 x hx => ?_) (fun r h8 hvr x hx m hon => ?_)
    · have hx' : x.ins.opcode ≠ opWload := by
        by_cases e : r = q.val
        · rw [e, hvq] at hx
          obtain rfl := List.mem_singleton.1 hx
          rw [hg]
          exact hw q q.isLt f (by rw [hf]; exact List.mem_singleton_self _)
        · rw [hvo r e] at hx
          exact hw r h8 x hx
      simp [Flight.waitsToLoad, hx']
    · obtain rfl : q.val = r := Option.some.inj (hvh.symm.trans hvr)
      rw [hvq] at hx
      obtain rfl := List.mem_singleton.1 hx
      exact hgv (Flight.onArray_product hon).1
  cases hprod : f.product with
  | false =>
    simp only [Bool.false_eq_true, if_false]
    rw [hidle (v := u) (g := f) (by rw [huq, hf]) (fun r _ => huq c r) (by rw [State.core_congr huc]; exact hh) rfl
      (fun e => by rw [hprod] at e; cases e)]
    refine ⟨u, f.visited, rfl, by rw [ht.rest], hcount, ht.regs, fun d _ => State.core_congr huc d, by rw [State.core_congr huc], ?_, le_rfl,
      le_max_left .., fun r _ => huq c r, fun _ => ⟨rfl, by rw [State.core_congr huc], by rw [State.core_congr huc]⟩⟩
    rw [huq, ← hf]
  | true =>
    simp only [if_true]
    obtain ⟨v, a, hle, hmax, hpass⟩ := State.passBanks_goes (s := u) (c := c) (q := q) false (hp hprod)
    rw [hpass]
    dsimp only
    generalize hw' : u.draw.2.setCore c ((u.draw.2.core c).setArr f.arr a) = w
    have hwq (d r : Nat) : w.queue d r = s.queue d r := by rw [← hw', State.setArr_queue]; exact huq d r
    have hwc : w.core c = (s.core c).setArr f.arr a := by
      rw [← hw', State.core_setCore_same]
      exact congrArg (fun k => Core.setArr k f.arr a) (State.core_congr huc c)
    have hset := State.queue_setFlight_lone (s := w) (c := c) (q := q) (f := f) (g := { f with visited := v }) (by rw [hwq, hf]) rfl
    have hoth (r : Nat) (e : r ≠ q.val) : (w.setFlight c q { f with visited := v }).queue c r = s.queue c r := by
      rw [State.setFlight, State.setQueue_other (fun k => e k.2), hwq]
    have hcore := (State.setFlight_rest w c q { f with visited := v }).2.2.2
    rw [hidle (v := w.setFlight c q { f with visited := v }) (g := { f with visited := v }) (by rw [hset]) hoth
      (by rw [hcore, hwc, Core.setArr_rest]; exact hh) rfl (fun _ => by have := hp hprod; show v ≠ 0; omega)]
    refine ⟨_, v, rfl, ?_, ?_, ?_, fun d hd => ?_, ?_, ?_, hle, hmax, hoth, fun e => by cases e⟩
    · rw [← hw', State.setFlight, State.setQueue, ht.rest]; rfl
    · exact Eq.trans (State.reg_congr (by rw [← hw']; rfl) _) hcount
    · exact fun k hk => Eq.trans (State.reg_congr (by rw [← hw']; rfl) _) (ht.regs k hk)
    · rw [State.setFlight, State.core_setQueue_other (Ne.symm hd), ← hw', State.core_setCore_other (Ne.symm hd)]
      exact State.core_congr huc d
    · rw [hcore, hwc]
      conv_lhs => rw [Core.setArr_rest]
    · rw [hset, hwq]

theorem State.banked_passBanks {s : State} {c : Fin 36} {q : Nat} {f : Flight} (stop : Bool) (hf : f ∈ (s.queue c q).flights)
    (ho : f.ins.opcode ≠ opWaitGe) : s.banked (s.passBanks c q f stop).1 c := by
  by_cases hv : f.visited = 0
  · rw [State.passBanks, if_pos hv]
    exact State.banked_refl s c
  · obtain ⟨v, a, -, -, hp⟩ := State.passBanks_goes (s := s) (c := c) (q := q) stop hv
    rw [hp]
    refine State.banked_trans (State.banked_trans (State.banked_draw s c) (State.banked_setArr s.draw.2 c f.arr a))
      (State.banked_setFlight (f := f) ?_ rfl ho)
    rw [State.setArr_queue]
    exact hf

theorem State.state_setFlight (s : State) (c : Fin 36) (q : Nat) (f : Flight) (d r : Nat) :
    ((s.setFlight c q f).queue d r).state = (s.queue d r).state := by
  rw [State.setFlight, State.queue_setQueue]
  split
  · next e => rw [← e.1, ← e.2]
  · rfl

/-- The holder lets the core go to the next one (R78). -/
theorem State.handOn_handsTo {s : State} {c : Fin 36} {h y : Nat} (hy : y < 8) (hr : (s.queue c y).state = .running)
    (hu : ∀ r < 8, r ≠ y → (s.queue c r).state = .running → s.qClass c y < s.qClass c r) :
    ((s.handOn c (some h)).core c).holder = some y ∧ ((s.handOn c (some h)).core c).prevHolder = h := by
  generalize hw : s.setCore c { s.core c with holder := none, prevHolder := h, stopping := false } = w
  have hq (r : Nat) : w.queue c r = s.queue c r := by rw [← hw]; exact State.queue_setCore_same ..
  have hn : w.nextHolder c = some y := by
    refine State.nextHolder_eq hy (by rw [hq]; exact hr) (fun r h8 hne hrun => ?_)
    rw [hq] at hrun
    have hc (r : Nat) : w.qClass c r = s.qClass c r := by rw [← hw]; rfl
    rw [hc, hc]
    exact hu r h8 hne hrun
  have he : s.handOn c (some h) = w.switchTo c y := by
    unfold State.handOn
    simp only [hw, hn]
  have hk := State.handsTo_switchTo w c y
  rw [he]
  exact ⟨hk.holder, by rw [hk.prevHolder, ← hw, State.core_setCore_same]⟩

theorem boundaryKeys_not_switchKeys {c : Fin 36} {k : Nat} (h : k ∈ boundaryKeys c) : k ∉ switchKeys c := by
  simp only [boundaryKeys, switchKeys, eventKeys, List.mem_append, List.mem_cons, List.not_mem_nil, or_false, regKey, Pg.index, Pg.type,
    PageType.place, Pg.inst, RegName.off] at *
  omega

/-- A boundary at which the holder lets the core go: the second part of O17. -/
theorem State.boundary_handsOn {s : State} {c : Fin 36} {q : Fin 8} {f : Flight} (n : Nat) {y : Nat} (hu : s.up) (hm : s.coreMoves c = true)
    (hh : (s.core c).holder = some q.val) (hf : (s.queue c q).onUnit = some f) (hs : f.stopping = false) (hl : s.late c q = false)
    (hr : s.higherReady c q = true) (hy : y < 8) (hrun : (s.queue c y).state = .running)
    (hfirst : ∀ r < 8, r ≠ y → (s.queue c r).state = .running → s.qClass c y < s.qClass c r) :
    ∃ t, exec (.tilePassBoundary c n) s = .next t ∧ (t.core c).holder = some y ∧ (t.core c).prevHolder = q.val ∧
      t.rd (.sequencer c) .passCount 0 = s.counted (.sequencer c) .passCount 0 1 ∧
      t.rd (.sequencer c) .preemptCount 0 = s.counted (.sequencer c) .preemptCount 0 1 := by
  have ht : s.tallies (s.bump (.sequencer c) .passCount 0 1) [regKey (.sequencer c) .passCount 0] :=
    State.tallies_bump 1 (List.mem_singleton_self _)
  have hcount := State.rd_bump_same s (.sequencer c) .passCount 0 1
  rw [execTilePassBoundary_passes hu hm hh hf hs hl, hr]
  simp only [if_true]
  have hmem : f ∈ (s.queue c q).flights := List.mem_of_find?_eq_some hf
  have hop : f.ins.opcode ≠ opWaitGe := by
    have := List.find?_some (p := fun f : Flight => !f.done && opHolds f.ins.opcode) hf
    intro e
    rw [e] at this
    simp [opHolds, opWaitGe, opMatmul, opRstep, opVchain] at this
  -- up to the hand-over only banks, and what flights note of them, have changed beside PASS_COUNT
  have hbank : (s.bump (.sequencer c) .passCount 0 1).banked (s.passes c q f true).1 c := by
    unfold State.passes
    dsimp only
    refine State.banked_trans ?_ (State.banked_banksMove _ c none)
    split
    · exact State.banked_passBanks true (by rw [State.queue_congr (State.bump_cores ..)]; exact hmem) hop
    · exact State.banked_refl _ c
  generalize s.passes c q f true = p at *
  generalize s.bump (.sequencer c) .passCount 0 1 = u at *
  generalize hw : p.1.setFlight c q (p.2.liveAt n) = w
  have hwr : w.regs = u.regs := by rw [← hw, State.setFlight, State.setQueue, hbank.rest]; rfl
  have hws : w.sys = u.sys := by rw [← hw, State.setFlight, State.setQueue, hbank.rest]; rfl
  have hstate (r : Nat) : (w.queue c r).state = (s.queue c r).state := by
    rw [← hw, State.state_setFlight, hbank.queue, State.queue_congr (State.tallies_cores ht)]
  have hpre := State.tallies_bump (s := w) (p := .sequencer c) (r := .preemptCount) (i := 0) (ks := [regKey (.sequencer c) .preemptCount 0]) 1
    (List.mem_singleton_self _)
  have hprec := State.rd_bump_same w (.sequencer c) .preemptCount 0 1
  generalize w.bump (.sequencer c) .preemptCount 0 1 = x at *
  have hclass (r : Nat) : x.qClass c r = s.qClass c r := by
    refine State.qClass_congr (fun r => ?_) r
    have hk := qCfg_not_boundaryKeys c r
    simp only [boundaryKeys, List.mem_cons, List.not_mem_nil, or_false, not_or] at hk
    exact (State.tallies_rd hpre (by simpa using hk.2)).trans ((State.reg_congr hwr _).trans (State.tallies_rd ht (by simpa using hk.1)))
  have hxq (r : Nat) : (x.queue c r).state = (s.queue c r).state := by
    rw [State.queue_congr (State.tallies_cores hpre), hstate]
  obtain ⟨hhold, hprev⟩ := State.handOn_handsTo (s := x) (c := c) (h := q.val) hy (by rw [hxq]; exact hrun)
    (fun r h8 hne hr' => by rw [hclass, hclass]; exact hfirst r h8 hne (by rw [← hxq]; exact hr'))
  have hregs := (State.arbitrates_handOn x c (some q.val)).regs
  have hfin {r : RegName} (h : regKey (.sequencer c) r 0 ∈ boundaryKeys c) (ho : r.off 0 < 4096) :
      (x.handOn c (some q.val)).rd (.sequencer c) r 0 = x.rd (.sequencer c) r 0 :=
    hregs _ (boundaryKeys_not_switchKeys h) (memoryKey_sequencer ho)
  have hne : regKey (.sequencer c) .passCount 0 ≠ regKey (.sequencer c) .preemptCount 0 := regKey_ne (by decide)
  refine ⟨_, rfl, hhold, hprev, ?_, ?_⟩
  · rw [hfin (by simp [boundaryKeys]) (by decide), State.tallies_rd hpre (by simpa using hne), ← hcount]
    exact State.reg_congr hwr _
  · rw [hfin (by simp [boundaryKeys]) (by decide)]
    have hsw : s.regsBut w [regKey (.sequencer c) .passCount 0] := fun k hk => (State.reg_congr hwr k).trans (ht.regs k hk)
    exact State.counted_between rfl (fun e => by cases e) hsw (hws.trans (State.tallies_sys ht))
      (by simpa using regKey_ne (by decide)) (by simpa using Ne.symm hne) hprec

/-! ### The state a product runs in (R71, R132, R134) -/

/-- What a product counts and raises before it runs. -/
def readyKeys (c : Fin 36) (a : Nat) : List Nat :=
  [regKey (.array c) .aSpillStallCycles a, regKey (.vector c) .vecBusyCycles 0, regKey (.vector c) .vecLedgeWaitCycles 0,
    regKey (.vector c) .budgetWaitCycles 0, regKey (.vector c) .arrivalWaitCycles 0] ++ eventKeys (.array c)

/-- The scratch in Ledge of a product that spills. -/
def State.spillRange (s : State) (c : Fin 36) (q : Nat) (x : Mm) : List (Nat × Nat) :=
  if s.spills c q x then [(ledgeAt c (s.spillHalf c x.array).1, (s.spillHalf c x.array).2)] else []

/-- What a product leaves of memory and of what Harbour holds as it makes ready: its scratch alone is written. -/
structure State.readies (s t : State) (c : Fin 36) (q : Nat) (x : Mm) : Prop where
  regs : s.regsBut t (readyKeys c x.array)
  bytes : s.bytesBut t (s.spillRange c q x)
  rest : t = { s with regs := t.regs, mem := t.mem, bad := t.bad, freeIx := t.freeIx }

theorem State.readies_tallies {s t u : State} {c : Fin 36} {q : Nat} {x : Mm} (h : s.readies t c q x) (k : t.tallies u (readyKeys c x.array)) :
    s.readies u c q x :=
  ⟨State.regsBut_trans h.regs k.regs, fun a ha => (State.byte_congr (State.tallies_mem k) a).trans (h.bytes a ha), by rw [k.rest, h.rest]⟩

theorem State.byte_scramble_other (s : State) {a n b : Nat} (h : ¬(a ≤ b ∧ b < a + n)) :
    (s.scramble a n).byte b = s.byte b := by
  refine (State.byte_congr (s := s.poke a (freeBytes s.freeIx n)) rfl b).trans ?_
  rw [State.byte_poke, if_neg]
  rwa [freeBytes, List.length_map, List.length_range]

theorem State.bytesBut_scramble (s : State) (a n : Nat) : s.bytesBut (s.scramble a n) [(a, n)] :=
  fun _ h => State.byte_scramble_other s (h (a, n) (List.mem_singleton_self _))

theorem State.readies_refl (s : State) (c : Fin 36) (q : Nat) (x : Mm) : s.readies s c q x :=
  ⟨State.regsBut_refl rfl _, fun _ _ => rfl, rfl⟩

theorem State.readies_spillStart (s : State) (c : Fin 36) (q : Nat) (x : Mm) : s.readies (s.spillStart c q x) c q x := by
  unfold State.spillStart
  cases h : s.spills c q x with
  | false => exact State.readies_refl s c q x
  | true =>
    have hr : s.readies (s.scramble (ledgeAt c (s.spillHalf c x.array).1) (s.spillHalf c x.array).2) c q x :=
      ⟨State.regsBut_refl rfl _, by rw [State.spillRange, h]; exact State.bytesBut_scramble s _ _, rfl⟩
    exact State.readies_tallies (State.readies_tallies hr (State.tallies_bumpFree (by simp [readyKeys])))
      (State.tallies_event _ (List.subset_append_right ..))

theorem State.tallies_chainStarts (s : State) (c : Fin 36) (q need a : Nat) : s.tallies (s.chainStarts c q need) (readyKeys c a) := by
  have hwait (t : State) : t.tallies (if 32 < need + (t.queue c q).regNeed then t.bumpFree (.vector c) .budgetWaitCycles 0 else t)
      (readyKeys c a) := by
    split
    · exact State.tallies_bumpFree (by simp [readyKeys])
    · exact State.tallies_refl t _
  exact State.tallies_trans (State.tallies_trans (hwait s) (State.tallies_bumpFree (by simp [readyKeys])))
    (State.tallies_bumpFree (by simp [readyKeys]))

theorem State.readies_mmReady (s : State) (c : Fin 36) (q : Nat) (f : Flight) (need : Nat) :
    s.readies (s.mmReady c q f need) c q (Mm.of f.ins) := by
  have h1 := State.readies_spillStart s c q (Mm.of f.ins)
  have h2 (t : State) (b : Bool) : t.tallies (if b = true then t.chainStarts c q need else t) (readyKeys c (Mm.of f.ins).array) := by
    cases b
    · exact State.tallies_refl t _
    · exact State.tallies_chainStarts t c q need _
  have h := State.readies_tallies h1 (h2 _ (!(Mm.of f.ins).keep && !(Mm.of f.ins).outScore))
  unfold State.mmReady
  dsimp only
  split
  · exact State.readies_tallies h (State.tallies_bumpFree (by simp [readyKeys]))
  · exact h

theorem State.works_of_readies {s t : State} {c : Fin 36} {q : Nat} {x : Mm} (h : s.readies t c q x) : s.works t c (readyKeys c x.array) := by
  have hc : t.cores = s.cores := by rw [h.rest]
  exact ⟨h.regs, fun d _ => State.core_congr hc d, by rw [State.core_congr hc]; exact Core.worked_refl _, by rw [h.rest]⟩

/-! ### The score store as a product's destination (R147 to R149) -/

/-- One entry a score product writes into a core, its limits given (R148). -/
def scoreStep (lims : Option (List Nat)) (x : Mm) (sr : SrIn) (m : Nat) (accs : List (List (BitVec 96))) (k : Core) (e : Nat × Nat) : Core :=
  let key := x.out / 64 * 16 + e.1
  if 8192 ≤ key then k
  else if m ≤ e.1 then { k with score := FMap.set 0 k.score (8192 * e.2 + key) 0xFF800000 }
  else
    let v := accVal x.kind ((accs.getD e.1 []).getD e.2 0)
    let b := BitVec.ofNat 32 (Fmt.fp32.encode sr.rnd sr.sat8 (sr.u 0 e.1 e.2) v)
    k.scoreEntry e.2 key b (lims.isSome && decide ((lims.getD []).getD e.2 0 ≤ key))

/-- The core before a score product's entries: the product of the first keys resets the store (R147). -/
def scoreBegin (lims : Option (List Nat)) (x : Mm) (k : Core) : Core :=
  if x.out / 64 * 16 = 0 then { k.scoreReset with scoreLimit := lims } else k

/-- What a score product leaves of a core (R147, R148). -/
def scoreFill (lims : Option (List Nat)) (x : Mm) (sr : SrIn) (m q : Nat) (accs : List (List (BitVec 96))) (k : Core) : Core :=
  let k := ((List.range (ceilDiv m 64 * 64)).flatMap (fun mm => (List.range q).map (fun n => (mm, n)))).foldl (scoreStep lims x sr m accs)
    (scoreBegin lims x k)
  { k with scoreValid := (List.range (ceilDiv m 64)).foldl (fun v t => v ||| (1#128 <<< (x.out / 64 * 16 / 64 + t))) k.scoreValid }

theorem State.scoreWrite_eq (s : State) (c : Fin 36) (x : Mm) (sr : SrIn) (m q : Nat) (accs : List (List (BitVec 96))) :
    ∃ nan : Bool, (s.scoreWrite c x sr m q accs).1 =
      let t := s.setCore c (scoreFill (s.scoreLimits c (x.out / 64 * 16)) x sr m q accs (s.core c))
      if nan then t.event (.score c) 1 else t := ⟨_, rfl⟩

/-- Of a core only the score store differs. -/
def Core.scored (k l : Core) : Prop :=
  l = { k with score := l.score, scoreMax := l.scoreMax, scoreSum := l.scoreSum, scoreValid := l.scoreValid, scoreDone := l.scoreDone,
               scoreLimit := l.scoreLimit }

theorem Core.scored_trans {k l m : Core} (h : k.scored l) (g : l.scored m) : k.scored m := by
  unfold Core.scored at *
  rw [g, h]

theorem scored_scoreStep (lims : Option (List Nat)) (x : Mm) (sr : SrIn) (m : Nat) (accs : List (List (BitVec 96))) (k : Core) (e : Nat × Nat) :
    k.scored (scoreStep lims x sr m accs k e) := by
  unfold scoreStep
  dsimp only
  split
  · rfl
  · split <;> rfl

theorem scored_scoreFill (lims : Option (List Nat)) (x : Mm) (sr : SrIn) (m q : Nat) (accs : List (List (BitVec 96))) (k : Core) :
    k.scored (scoreFill lims x sr m q accs k) := by
  have hfold (l : List (Nat × Nat)) : ∀ k : Core, k.scored (l.foldl (scoreStep lims x sr m accs) k) := by
    induction l with
    | nil => exact fun k => rfl
    | cons e l ih => exact fun k => Core.scored_trans (scored_scoreStep lims x sr m accs k e) (ih _)
  have hbegin : k.scored (scoreBegin lims x k) := by
    unfold scoreBegin
    split <;> rfl
  exact Core.scored_trans (Core.scored_trans hbegin (hfold _ _)) rfl

/-- The score store does not see the arrays. -/
theorem scoreFill_setArr (lims : Option (List Nat)) (x : Mm) (sr : SrIn) (m q : Nat) (accs : List (List (BitVec 96))) (k : Core) (a : Nat)
    (y : ArraySt) : scoreFill lims x sr m q accs (k.setArr a y) = (scoreFill lims x sr m q accs k).setArr a y := by
  have hstep (k : Core) (e : Nat × Nat) : scoreStep lims x sr m accs (k.setArr a y) e = (scoreStep lims x sr m accs k e).setArr a y := by
    unfold scoreStep Core.setArr
    dsimp only
    by_cases ha : a = 0 <;> simp only [ha, if_true, if_false]
    · split
      · rfl
      · split <;> rfl
    · split
      · rfl
      · split <;> rfl
  have hbegin : scoreBegin lims x (k.setArr a y) = (scoreBegin lims x k).setArr a y := by
    unfold scoreBegin Core.setArr
    by_cases ha : a = 0 <;> simp only [ha, if_true, if_false] <;> split <;> rfl
  unfold scoreFill
  dsimp only
  rw [hbegin, List.foldl_hom (fun k : Core => k.setArr a y) (g₁ := scoreStep lims x sr m accs) (H := fun k e => hstep k e)]
  unfold Core.setArr
  split <;> rfl

theorem State.works_scoreWrite (s : State) (c : Fin 36) (x : Mm) (sr : SrIn) (m q : Nat) (accs : List (List (BitVec 96))) :
    s.works (s.scoreWrite c x sr m q accs).1 c (eventKeys (.score c)) ∧ (s.scoreWrite c x sr m q accs).1.mem = s.mem := by
  obtain ⟨nan, h⟩ := State.scoreWrite_eq s c x sr m q accs
  have hk := scored_scoreFill (s.scoreLimits c (x.out / 64 * 16)) x sr m q accs (s.core c)
  have hw : s.works (s.setCore c (scoreFill (s.scoreLimits c (x.out / 64 * 16)) x sr m q accs (s.core c))) c (eventKeys (.score c)) :=
    State.works_setCore _ (by rw [hk]; exact ⟨rfl, rfl, rfl, rfl, rfl, rfl⟩)
  rw [h]
  dsimp only
  split
  · exact ⟨State.works_trans hw (State.works_of_tallies (State.tallies_event 1 (List.Subset.refl _)) c), by simp⟩
  · exact ⟨hw, rfl⟩

theorem State.core_scoreWrite (s : State) (c : Fin 36) (x : Mm) (sr : SrIn) (m q : Nat) (accs : List (List (BitVec 96))) :
    (s.scoreWrite c x sr m q accs).1.core c = scoreFill (s.scoreLimits c (x.out / 64 * 16)) x sr m q accs (s.core c) := by
  obtain ⟨nan, h⟩ := State.scoreWrite_eq s c x sr m q accs
  rw [h]
  dsimp only
  split
  · rw [State.core_congr (State.event_cores ..), State.core_setCore_same]
  · exact State.core_setCore_same ..

/-! ### How a product runs (R66, R69, R82, R131) -/

/-- The flight of a product that has accumulated: its tiles, its status and its watermark. -/
def State.mmEnded (s : State) (c : Fin 36) (q : Nat) (f : Flight) : Flight :=
  let x := Mm.of f.ins
  let h := Chain.ofWords f.chainW
  let accs := s.mmSums c q f
  let sat : Option Nat := if x.exact && 2 ^ 24 < s.mmTerms c q x f.k then some 0
    else if x.exact then firstTile (ceilDiv f.n 64) accs (fun v => 8 ≤ X96.flags v) else none
  let total := ceilDiv f.m 64 * ceilDiv f.n 64
  let g := { f with
    total := total
    atEnd := f.atEnd ++ s.slotReleases c (if h.proChain = 0 then [] else (Chain.ofWords f.proW).stages)
    counts := f.counts ++ (if !x.keep && !x.outScore then [(Pg.vector c, RegName.chainTileCount, 0, total)] else []) }
  match s.mmBadTile c f x f.m f.n f.k, sat with
  | some t, _ => { g with status := .eMemUncorr, wm := t }
  | none, some t => { g with status := .eSat, wm := t }
  | none, none => { g with wm := total }

/-- The tiles an array keeps after a product has accumulated. -/
def State.mmTiles (s : State) (c : Fin 36) (q : Nat) (f : Flight) : List KeptTiles :=
  let x := Mm.of f.ins
  let kc := s.core c
  let mine := if x.accMode = 1 then (kc.keptMatch q x).elim [] (fun t => [t]) else []
  let others := (kc.arr x.array).kept.filter (fun t => !mine.contains t)
  if x.keep then
    others ++ [{ queue := q, unit := x.accUnit, m := x.m, n := x.n, exact := x.exact, terms := s.mmTerms c q x f.k,
                 vals := overlay x.nt ((mine.head?.map (·.vals)).getD []) (s.mmSums c q f) }]
  else others

/-- The state of a product that has accumulated. -/
def State.mmKept (s : State) (c : Fin 36) (q : Nat) (f : Flight) : State :=
  let x := Mm.of f.ins
  let kc := s.core c
  s.setCore c (kc.setArr x.array { kc.arr x.array with kept := s.mmTiles c q f })


/-- The rows of exact accumulators in the Ledge (R52). -/
def State.exactRows (s : State) (c : Fin 36) (f : Flight) (accs : List (List (BitVec 96))) : State :=
  accs.zipIdx.foldl (fun (s : State) (r, a) =>
    s.store (ledgeAt c ((Mm.of f.ins).out + a * (Mm.of f.ins).outStride))
      (r.zipIdx.map (fun (v, b) => x96Bytes s.freeIx (a * f.n + b) v)).flatten) s

theorem State.mmEnded_rest (s : State) (c : Fin 36) (q : Nat) (f : Flight) :
    s.mmEnded c q f = { f with
      total := ceilDiv f.m 64 * ceilDiv f.n 64, status := (s.mmEnded c q f).status, wm := (s.mmEnded c q f).wm,
      atEnd := (s.mmEnded c q f).atEnd, counts := (s.mmEnded c q f).counts } := by
  unfold State.mmEnded
  dsimp only
  split <;> rfl

/-- A product none of whose words is bad and that cannot saturate ends with OK. -/
theorem State.mmEnded_ok {s : State} {c : Fin 36} {q : Nat} {f : Flight} (hb : s.mmBadTile c f (Mm.of f.ins) f.m f.n f.k = none)
    (hx : (Mm.of f.ins).exact = false) : (s.mmEnded c q f).status = f.status ∧ (s.mmEnded c q f).wm = ceilDiv f.m 64 * ceilDiv f.n 64 := by
  unfold State.mmEnded
  simp [hb, hx]

theorem State.mmEnded_bad {s : State} {c : Fin 36} {q : Nat} {f : Flight} {b : Nat}
    (hb : s.mmBadTile c f (Mm.of f.ins) f.m f.n f.k = some b) : (s.mmEnded c q f).status = .eMemUncorr ∧ (s.mmEnded c q f).wm = b := by
  unfold State.mmEnded
  simp [hb]

theorem State.mmDrainIn_ended (s : State) (c : Fin 36) (q : Nat) (f : Flight) (accs : List (List (BitVec 96))) :
    mmDrainIn (s.mmEnded c q f) accs = mmDrainIn f accs := by
  rw [State.mmEnded_rest]
  rfl

theorem State.mmRun_eq (s : State) (c : Fin 36) (q : Nat) (f : Flight) :
    let x := Mm.of f.ins
    let sr := f.srIn (f.ins.rnd.getD .rne)
    let h := Chain.ofWords f.chainW
    let accs := s.mmSums c q f
    let o := s.mmOut c f accs
    let t := s.mmKept c q f
    let g := s.mmEnded c q f
    s.mmRun c q f =
      if x.keep then (t, g)
      else if x.outScore then
        let w := t.scoreWrite c x sr f.m f.n accs
        (w.1, { g with
          atEnd := g.atEnd ++ [w.1.maxImage c]
          counts := g.counts ++ [(Pg.score c, RegName.scoreTilesWritten, 0, ceilDiv f.m 64), (Pg.score c, RegName.scoreMasked, 0, w.2)] })
      else if x.fo = .x96 then
        ({ t.exactRows c f accs with freeIx := (t.exactRows c f accs).freeIx + 2 * (f.m * f.n) }, g)
      else if x.chainId = 0 ∨ h.n = 0 then (t.writeRows x.fo sr 0 (ledgeAt c x.out) x.outStride (mmDrainIn g accs), g)
      else
        ((t.writeRows x.fo sr (h.srBase + h.n) (ledgeAt c x.out) x.outStride o.cur).chainWrites c o.writes,
          { g with atEnd := g.atEnd ++ o.atEnd }) := by
  unfold State.mmRun State.mmKept State.mmTiles State.mmEnded State.exactRows
  rfl

theorem State.mmKept_rest (s : State) (c : Fin 36) (q : Nat) (f : Flight) :
    s.works (s.mmKept c q f) c [] ∧ (s.mmKept c q f).mem = s.mem ∧
      (s.mmKept c q f).core c = (s.core c).setArr (Mm.of f.ins).array { (s.core c).arr (Mm.of f.ins).array with kept := s.mmTiles c q f } :=
  ⟨State.works_setArr s c [] _ _, rfl, State.core_setCore_same ..⟩

/-- A product that keeps its tiles has one of its own shape among those of its array. -/
theorem State.mmTiles_own {s : State} {c : Fin 36} {q : Nat} {f : Flight} (hk : (Mm.of f.ins).keep = true) :
    ∃ k ∈ s.mmTiles c q f, k.queue = q ∧ k.unit = (Mm.of f.ins).accUnit ∧ k.m = (Mm.of f.ins).m ∧ k.n = (Mm.of f.ins).n ∧
      k.exact = (Mm.of f.ins).exact := by
  unfold State.mmTiles
  simp only [hk, if_true]
  exact ⟨_, List.mem_append_right _ (List.mem_singleton_self _), rfl, rfl, rfl, rfl, rfl⟩

theorem length_x96Bytes (ix i : Nat) (v : X96) : (x96Bytes ix i v).length = 12 := leBytes_length ..

theorem State.wrote_exactRows (s : State) (c : Fin 36) (f : Flight) (accs : List (List (BitVec 96))) :
    s.wrote (s.exactRows c f accs) (accs.zipIdx.map (fun (r, n) => (ledgeAt c ((Mm.of f.ins).out + n * (Mm.of f.ins).outStride), 12 * r.length))) := by
  refine State.wrote_foldl accs.zipIdx _ _ (fun t p _ => ?_) s
  have hl : ((p.1.zipIdx.map (fun (v, b) => x96Bytes t.freeIx (p.2 * f.n + b) v)).flatten).length = 12 * p.1.length := by
    rw [List.length_flatten, List.sum_eq_card_nsmul _ 12 (fun n h => ?_), List.length_map, List.length_map, List.length_zipIdx, smul_eq_mul,
      Nat.mul_comm]
    simp only [List.map_map, List.mem_map] at h
    obtain ⟨y, -, rfl⟩ := h
    exact length_x96Bytes ..
  have h := State.wrote_store t (ledgeAt c ((Mm.of f.ins).out + p.2 * (Mm.of f.ins).outStride))
    (p.1.zipIdx.map (fun (v, b) => x96Bytes t.freeIx (p.2 * f.n + b) v)).flatten
  rw [hl] at h
  exact h

/-! ### What a product's run leaves -/

theorem Mat.wrote_ledge {α : Type} (c : Fin 36) (off stride : Nat) (len : α → Nat) (m : List α) :
    ∀ r ∈ m.zipIdx.map (fun (r, n) => (ledgeAt c off + n * stride, len r)), harbourAddr r.1 = false := by
  intro r hr
  obtain ⟨p, -, rfl⟩ := List.mem_map.1 hr
  show harbourAddr (ledgeAt c off + p.2 * stride) = false
  rw [ledgeAt, Nat.add_assoc]
  exact harbourAddr_ledgeAt c _

theorem State.works_writeRows (s : State) (c : Fin 36) (ks : List Nat) (f : Fmt) (x : SrIn) (point off stride : Nat) (m : Mat) :
    s.works (s.writeRows f x point (ledgeAt c off) stride m) c ks :=
  State.works_of_wrote (State.wrote_writeRows ..) (Mat.wrote_ledge c off stride (fun r => f.rowBytes r.length) m) c ks

theorem State.works_chainWrites (s : State) (c : Fin 36) (ks : List Nat) (l : List (Nat × List Byte)) : s.works (s.chainWrites c l) c ks :=
  State.works_of_wrote (State.wrote_chainWrites ..) (fun r hr => by
    obtain ⟨p, -, rfl⟩ := List.mem_map.1 hr
    exact harbourAddr_ledgeAt c p.1) c ks

theorem State.works_exactRows (s : State) (c : Fin 36) (ks : List Nat) (f : Flight) (accs : List (List (BitVec 96))) :
    s.works (s.exactRows c f accs) c ks :=
  State.works_of_wrote (State.wrote_exactRows ..) (fun r hr => by
    obtain ⟨p, -, rfl⟩ := List.mem_map.1 hr
    exact harbourAddr_ledgeAt c _) c ks

/-- From s to t an instruction of core c has worked and left the arrays as they are. -/
def State.sparesArrays (s t : State) (c : Fin 36) : Prop := (t.core c).a0 = (s.core c).a0 ∧ (t.core c).a1 = (s.core c).a1

theorem State.sparesArrays_of_wrote {s t : State} {rs : List (Nat × Nat)} (h : s.wrote t rs) (c : Fin 36) : s.sparesArrays t c := by
  have hc : t.cores = s.cores := by rw [h.1]
  exact ⟨by rw [State.core_congr hc], by rw [State.core_congr hc]⟩

theorem State.works_mmRun (s : State) (c : Fin 36) (q : Nat) (f : Flight) :
    s.works (s.mmRun c q f).1 c (eventKeys (.score c)) ∧ (s.mmKept c q f).sparesArrays (s.mmRun c q f).1 c := by
  have hk := State.works_mono (State.mmKept_rest s c q f).1 (List.nil_subset (eventKeys (.score c)))
  rw [State.mmRun_eq]
  dsimp only
  generalize s.mmKept c q f = t at *
  split
  · exact ⟨hk, rfl, rfl⟩
  · split
    · have hs := scored_scoreFill (t.scoreLimits c ((Mm.of f.ins).out / 64 * 16)) (Mm.of f.ins) (f.srIn (f.ins.rnd.getD .rne)) f.m f.n
        (s.mmSums c q f) (t.core c)
      refine ⟨State.works_trans hk (State.works_scoreWrite ..).1, ?_, ?_⟩ <;> rw [State.core_scoreWrite, hs]
    · split
      · have hw : (t.exactRows c f (s.mmSums c q f)).works
          { t.exactRows c f (s.mmSums c q f) with freeIx := (t.exactRows c f (s.mmSums c q f)).freeIx + 2 * (f.m * f.n) } c (eventKeys (.score c)) :=
          State.works_of_mem rfl c _
        exact ⟨State.works_trans hk (State.works_trans (State.works_exactRows ..) hw), State.sparesArrays_of_wrote (State.wrote_exactRows ..) c⟩
      · split
        · exact ⟨State.works_trans hk (State.works_writeRows ..), State.sparesArrays_of_wrote (State.wrote_writeRows ..) c⟩
        · exact ⟨State.works_trans hk (State.works_trans (State.works_writeRows ..) (State.works_chainWrites ..)),
            State.sparesArrays_of_wrote (State.wrote_trans (State.wrote_writeRows ..) (State.wrote_chainWrites ..)) c⟩

theorem State.mmRun_flight (s : State) (c : Fin 36) (q : Nat) (f : Flight) :
    (s.mmRun c q f).2 = { s.mmEnded c q f with atEnd := (s.mmRun c q f).2.atEnd, counts := (s.mmRun c q f).2.counts } := by
  rw [State.mmRun_eq]
  dsimp only
  split
  · rfl
  · split
    · rfl
    · split
      · rfl
      · split <;> rfl

/-- The flight of a product that starts: what it replaces, counts and needs are noted (R98, R132, R136). -/
def State.mmStarted (s : State) (c : Fin 36) (q : Nat) (f : Flight) : Flight :=
  let x := Mm.of f.ins
  { f with
    gated := false, groups := ceilDiv f.m (rowsPerGroup x.fa), old := s.snapshot c q f, counts := s.mmCounts c q x f.m f.n f.k,
    need := mmNeed f }

theorem State.mmStart_runs {s : State} {c : Fin 36} {q : Nat} {f : Flight}
    (h : ¬((Chain.ofWords f.chainW).gateEn = true ∧ s.gateOpen c q f < ceilDiv f.m (rowsPerGroup (Mm.of f.ins).fa))) :
    s.mmStart c q f = (s.mmReady c q f (mmNeed f)).mmRun c q (s.mmStarted c q f) := by
  unfold State.mmStart
  exact if_neg h

theorem State.mmStart_gated {s : State} {c : Fin 36} {q : Nat} {f : Flight} (hg : (Chain.ofWords f.chainW).gateEn = true)
    (h : s.gateOpen c q f < ceilDiv f.m (rowsPerGroup (Mm.of f.ins).fa)) :
    s.mmStart c q f = (s, { f with gated := true, groups := s.gateOpen c q f, total := ceilDiv f.m 64 * ceilDiv f.n 64 }) := by
  unfold State.mmStart
  exact if_pos ⟨hg, h⟩

/-- What a product counts and raises in all as it starts. -/
def startKeys (c : Fin 36) (a : Nat) : List Nat := readyKeys c a ++ eventKeys (.score c)

theorem State.works_mmStart (s : State) (c : Fin 36) (q : Nat) (f g : Flight) (need : Nat) :
    s.works ((s.mmReady c q f need).mmRun c q g).1 c (startKeys c (Mm.of f.ins).array) :=
  State.works_trans (State.works_mono (State.works_of_readies (State.readies_mmReady s c q f need)) (List.subset_append_left ..))
    (State.works_mono (State.works_mmRun _ c q g).1 (List.subset_append_right ..))

/-! ### A product that enters its array (R60, R92) -/

/-- Nothing enters, or the first product of the queue on the array does. -/
theorem State.enterNext_cases (s : State) (c : Fin 36) (q n : Nat) : s.enterNext c q n = s ∨
    ∃ f a, f ∈ (s.queue c q).flights ∧ s.enterNext c q n = (s.setCore c ((s.core c).setArr n a)).setFlight c q { f with visited := 1 } := by
  unfold State.enterNext
  split
  · exact .inl rfl
  · next f hf =>
    split
    · exact .inl rfl
    · exact .inr ⟨f, _, List.mem_of_find?_eq_some hf, rfl⟩

/-- A queue with one flight, of which a product may have entered its array. -/
theorem State.enterNext_single {s : State} {c : Fin 36} {q : Fin 8} {f : Flight} (n : Nat) (hf : (s.queue c q).flights = [f]) :
    (∃ v, ((s.enterNext c q n).queue c q).flights = [{ f with visited := v }]) ∧
    (∀ d r, ¬(d = c.val ∧ r = q.val) → (s.enterNext c q n).queue d r = s.queue d r) ∧ s.semsSame (s.enterNext c q n) := by
  rcases State.enterNext_cases s c q n with h | ⟨g, a, hg, h⟩
  · rw [h]
    exact ⟨⟨f.visited, hf⟩, fun _ _ _ => rfl, fun _ _ _ => rfl⟩
  · rw [hf] at hg
    obtain rfl := List.mem_singleton.1 hg
    have hq := State.setArr_queue s c n a
    rw [h]
    refine ⟨⟨1, ?_⟩, fun d r e => ?_, fun x d i => ?_⟩
    · rw [State.queue_setFlight_lone (f := g) (g := { g with visited := 1 }) (by rw [hq, hf]) rfl]
    · rw [State.setFlight, State.setQueue_other e, hq]
    · rw [State.setFlight, State.sem_setQueue]
      exact State.works_sems (State.works_setArr s c [] n a) x d i

/-! ### Arrival gates (R136) -/

theorem execArrivalGateOpen_enters {s : State} {c : Fin 36} {q : Fin 8} {f : Flight} (hu : s.up) (hm : s.coreMoves c = true)
    (hf : (s.queue c q).flights = [f]) (hg : f.gated = true) (hd : f.done = false) (hs : f.status = .ok) (hn : f.groups < s.gateOpen c q f) :
    exec (.arrivalGateOpen c q) s = .next (
      let p := (s.bumpFree (.vector c) .arrivalWaitCycles 0).mmStart c q f
      (p.1.setFlight c q p.2).enterNext c q p.2.arr) := by
  rw [exec_arrivalGateOpen, execArrivalGateOpen, State.awake_up hu, hf]
  have hfind : [f].find? (fun f => s.coreMoves c && f.gated && !f.done && f.status == .ok) = some f := by
    simp [hm, hg, hd, hs]
  simp only [hfind, if_neg (Nat.not_le.2 hn)]

theorem State.bumpFree_tallies (s : State) (c : Fin 36) :
    s.tallies (s.bumpFree (.vector c) .arrivalWaitCycles 0) [regKey (.vector c) .arrivalWaitCycles 0] :=
  State.tallies_bumpFree (List.mem_singleton_self _)

/-- The groups a gate lets in are those of semaphores and scalar registers. -/
theorem State.gateOpen_tallies {s t : State} {c : Fin 36} {q : Nat} {f : Flight} {ks : List Nat} (h : s.tallies t ks)
    (hk : scKey c q (Chain.ofWords f.chainW).gateSc ∉ ks) : t.gateOpen c q f = s.gateOpen c q f := by
  have hs : t.sem false c (Chain.ofWords f.chainW).gateSem = s.sem false c (Chain.ofWords f.chainW).gateSem :=
    State.sem_congr (by rw [h.rest]) (State.tallies_cores h) _ _ _
  have hr : t.scReg c q (Chain.ofWords f.chainW).gateSc = s.scReg c q (Chain.ofWords f.chainW).gateSc := h.regs _ hk
  unfold State.gateOpen
  dsimp only
  rw [hs, hr]

theorem Chain.gateSc_lt (w : List Word) : (Chain.ofWords w).gateSc < 16 := by
  unfold Chain.ofWords
  split
  · decide
  · exact bits_lt (w.getD 0 0) 15 12

theorem scKey_ne_arrivalWait {c : Fin 36} {q : Fin 8} {i : Nat} (h : i < 16) : scKey c q i ∉ [regKey (.vector c) .arrivalWaitCycles 0] := by
  have := q.isLt
  simp only [scKey, List.mem_singleton, regKey, Pg.index, Pg.type, PageType.place, Pg.inst, RegName.off]
  omega

/-- A gate that lets some groups in: the third part of O17. -/
theorem State.gate_lets {s : State} {c : Fin 36} {q : Fin 8} {f : Flight} (hu : s.up) (hm : s.coreMoves c = true)
    (hf : (s.queue c q).flights = [f]) (hg : f.gated = true) (hd : f.done = false) (hs : f.status = .ok) (hn : f.groups < s.gateOpen c q f)
    (hlt : s.gateOpen c q f < ceilDiv f.m (rowsPerGroup (Mm.of f.ins).fa)) (hen : (Chain.ofWords f.chainW).gateEn = true) :
    ∃ t, exec (.arrivalGateOpen c q) s = .next t ∧ s.memSame t ∧ s.cacheSame t ∧ s.semsSame t ∧
      s.regsBut t [regKey (.vector c) .arrivalWaitCycles 0] ∧
      (t.queue c q).flights = [{ f with groups := s.gateOpen c q f, total := ceilDiv f.m 64 * ceilDiv f.n 64 }] ∧
      ∀ d r, ¬(d = c.val ∧ r = q.val) → t.queue d r = s.queue d r := by
  have hb := State.bumpFree_tallies s c
  rw [execArrivalGateOpen_enters hu hm hf hg hd hs hn]
  generalize s.bumpFree (.vector c) .arrivalWaitCycles 0 = u at hb
  have hopen : u.gateOpen c q f = s.gateOpen c q f := State.gateOpen_tallies hb (scKey_ne_arrivalWait (Chain.gateSc_lt _))
  rw [State.mmStart_gated hen (by rw [hopen]; exact hlt), hopen]
  dsimp only
  generalize hG : ({ f with gated := true, groups := _, total := _ } : Flight) = g
  obtain ⟨gseq, ggated⟩ : g.seq = f.seq ∧ g.gated = true := by rw [← hG]; exact ⟨rfl, rfl⟩
  have hcores := State.tallies_cores hb
  have hset := State.queue_setFlight_lone (s := u) (c := c) (q := q) (f := f) (g := g) (by rw [State.queue_congr hcores, hf]) gseq
  have hstay : (u.setFlight c q g).enterNext c q g.arr = u.setFlight c q g := by
    unfold State.enterNext
    rw [hset]
    split
    · rfl
    · next k hk =>
      obtain rfl := List.mem_singleton.1 (List.mem_of_find?_eq_some hk)
      exact if_pos (.inl ggated)
  rw [hstay]
  refine ⟨_, rfl, ?_, ?_, ?_, ?_, ?_, fun d r e => ?_⟩
  · rw [State.memSame, State.setFlight, State.setQueue, hb.rest]; exact ⟨rfl, rfl⟩
  · rw [State.cacheSame, State.setFlight, State.setQueue, hb.rest]; rfl
  · intro x d i
    rw [State.setFlight, State.sem_setQueue]
    exact State.sem_congr (by rw [hb.rest]) hcores x d i
  · exact fun k hk => hb.regs k hk
  · rw [hset, ← hG, ← hg]
  · rw [State.setFlight, State.setQueue_other e, State.queue_congr hcores]

/-- A gate that lets the last groups in: the fourth part of O17. -/
theorem State.gate_opens {s : State} {c : Fin 36} {q : Fin 8} {f : Flight} (hu : s.up) (hm : s.coreMoves c = true)
    (hf : (s.queue c q).flights = [f]) (hg : f.gated = true) (hd : f.done = false) (hs : f.status = .ok) (hn : f.groups < s.gateOpen c q f)
    (heq : s.gateOpen c q f = ceilDiv f.m (rowsPerGroup (Mm.of f.ins).fa)) :
    ∃ t g, exec (.arrivalGateOpen c q) s = .next t ∧ (t.queue c q).flights = [g] ∧ g.gated = false ∧
      g.groups = s.gateOpen c q f ∧ g.seq = f.seq ∧ g.ins = f.ins ∧ s.semsSame t ∧
      ∀ d r, ¬(d = c.val ∧ r = q.val) → t.queue d r = s.queue d r := by
  have hb := State.bumpFree_tallies s c
  rw [execArrivalGateOpen_enters hu hm hf hg hd hs hn]
  generalize s.bumpFree (.vector c) .arrivalWaitCycles 0 = u at hb
  have hopen : u.gateOpen c q f = s.gateOpen c q f := State.gateOpen_tallies hb (scKey_ne_arrivalWait (Chain.gateSc_lt _))
  rw [State.mmStart_runs (by rw [hopen, heq]; exact fun h => absurd h.2 (lt_irrefl _))]
  dsimp only
  have hw := State.works_mmStart u c q f (u.mmStarted c q f) (mmNeed f)
  have hfl : ((u.mmReady c q f (mmNeed f)).mmRun c q (u.mmStarted c q f)).2.gated = false ∧
      ((u.mmReady c q f (mmNeed f)).mmRun c q (u.mmStarted c q f)).2.groups = s.gateOpen c q f ∧
      ((u.mmReady c q f (mmNeed f)).mmRun c q (u.mmStarted c q f)).2.seq = f.seq ∧
      ((u.mmReady c q f (mmNeed f)).mmRun c q (u.mmStarted c q f)).2.ins = f.ins := by
    rw [State.mmRun_flight, State.mmEnded_rest, heq]
    exact ⟨rfl, rfl, rfl, rfl⟩
  generalize (u.mmReady c q f (mmNeed f)).mmRun c q (u.mmStarted c q f) = p at *
  obtain ⟨w, g⟩ := p
  obtain ⟨ggated, ggroups, gseq, gins⟩ := hfl
  have hcores := State.tallies_cores hb
  have hwq (d r : Nat) : w.queue d r = s.queue d r := (State.works_queue hw d r).trans (State.queue_congr hcores d r)
  have hset := State.queue_setFlight_lone (s := w) (c := c) (q := q) (f := f) (g := g) (by rw [hwq, hf]) gseq
  obtain ⟨⟨v, hv⟩, hoth, hsem⟩ := State.enterNext_single (s := w.setFlight c q g) (c := c) (q := q) (f := g) g.arr (by rw [hset])
  refine ⟨_, { g with visited := v }, rfl, hv, ggated, ggroups, gseq, gins, fun x d i => ?_, fun d r e => ?_⟩
  · refine (hsem x d i).trans ?_
    rw [State.setFlight, State.sem_setQueue]
    exact (State.works_sems hw x d i).trans (State.sem_congr (by rw [hb.rest]) hcores x d i)
  · rw [hoth d r e, State.setFlight, State.setQueue_other e, hwq]

/-! ### Deadlines of tile work (R29, R93) -/

theorem State.works_scrambles (s : State) (c : Fin 36) (ks : List Nat) (l : List (Nat × Nat)) :
    s.works (l.foldl (fun (s : State) r => s.scramble r.1 r.2) s) c ks := State.works_foldl (fun t r => State.works_scramble t c ks r.1 r.2) l s

theorem State.works_vcUndo (s : State) (c : Fin 36) (f : Flight) (ks : List Nat) : s.works (s.vcUndo c f) c ks := by
  unfold State.vcUndo
  dsimp only
  have h := State.works_scrambles s c ks (s.chainStores c (Chain.ofWords f.chainW).stages (Vc.of f.ins).rows (Vc.of f.ins).cols)
  generalize List.foldl (fun (s : State) (r : Nat × Nat) => s.scramble r.1 r.2) s _ = u at h ⊢
  split
  · refine State.works_trans h ?_
    unfold State.scrambleTiles
    exact State.works_foldl (fun t r => State.works_scramble t c ks _ _) _ u
  · generalize hk : ({ u.core c with tregs := _ } : Core) = k
    have hw : u.works (u.setCore c k) c ks := State.works_setCore ks (by rw [← hk]; exact ⟨rfl, rfl, rfl, rfl, rfl, rfl⟩)
    generalize u.setCore c k = w at hw ⊢
    exact State.works_trans h (State.works_trans hw (State.works_of_mem rfl c ks))

/-- The registers a VCHAIN that ends counts in. -/
def vchainKeys (c : Fin 36) (g : Flight) : List Nat := g.counts.map (fun x => regKey x.1 x.2.1 x.2.2.1) ++ [regKey (.sequencer c) .passCount 0]

/-- A VCHAIN that fails: what it leaves undefined and what is counted, then the banks that go on. -/
theorem State.endFlight_vchain {s : State} {c : Fin 36} {q : Nat} {g : Flight} (ho : g.ins.opcode = opVchain) (hg : g.gated = false)
    (hs : g.status ≠ .ok) : ∃ w : State, (s.setFlight c q g).works w c (vchainKeys c g) ∧ w.banked (s.endFlight c q g) c := by
  have hp : g.product = false := by rw [Flight.product, ho]; rfl
  have hm : opVchain ≠ opMatmul ∧ opVchain ≠ opRstep := by decide
  have hu (u : State) : u.undo c q g = u.vcUndo c g := by
    unfold State.undo
    simp [hg, ho, hm]
  have hscore (u : State) : u.scoreEnded c g = u := by
    unfold State.scoreEnded
    rw [if_neg (fun h => hs h.2.2)]
  have hleave (u : State) (b : Bool) : u.leaveArray c q g b = u := by
    unfold State.leaveArray
    rw [if_pos (.inl (by rw [hp]; rfl))]
  unfold State.endFlight
  simp only [hs, if_true, hu, State.endCounts_vchain ho, hscore, hleave, ne_eq, not_false_eq_true]
  refine ⟨_, ?_, State.banked_banksMove _ c _⟩
  refine State.works_trans (State.works_vcUndo _ c g _) (State.works_of_tallies (State.tallies_trans
    (State.tallies_mono (State.tallies_countsOf _ g) (List.subset_append_left ..)) (State.tallies_bump 1 ?_)) c)
  exact List.mem_append_right _ (List.mem_singleton_self _)

theorem State.banked_sems {s t : State} {c : Fin 36} (h : s.banked t c) : s.semsSame t :=
  State.semsSame_of_core (by rw [h.rest]) h.cores (by rw [h.core])

theorem execTilePassBoundary_late {s : State} {c : Fin 36} {q : Fin 8} {f : Flight} (n : Nat) (hu : s.up) (hm : s.coreMoves c = true)
    (hh : (s.core c).holder = some q.val) (hf : (s.queue c q).onUnit = some f) (hs : f.stopping = false) (hl : s.late c q = true) :
    exec (.tilePassBoundary c n) s = .next ((((s.endFlight c q { f with done := true, status := .eDeadline, wm := min n f.total }).bump
      (.sequencer c) .preemptCount 0 1).drainQueue c q).settled) := by
  rw [exec_tilePassBoundary, execTilePassBoundary, State.awake_up hu, hm]
  simp only [if_true, hh, hf, hs, hl, Bool.false_eq_true, if_false]
  rfl

theorem State.late_of {s : State} {c : Fin 36} {q : Nat} (h : (s.queue c q).deadline ≠ 0)
    (hl : (s.queue c q).deadline.toNat < s.now.toNat) : s.late c q = true := by
  simp only [State.late, decide_eq_true h, hl, decide_true, Bool.and_self]

/-- A sequencer's queue registers are none that a late VCHAIN counts in. -/
theorem qCfg_not_vchainKeys {c : Fin 36} {q : Fin 8} {g : Flight} (h : ∀ x ∈ g.counts, x.1 = .vector c) :
    regKey (.sequencer c) .qCfg q ∉ vchainKeys c g := by
  have hq := q.isLt
  unfold vchainKeys
  simp only [List.mem_append, List.mem_map, List.mem_singleton, not_or, not_exists, not_and]
  refine ⟨fun x hx => ?_, regKey_ne (by simp only [RegName.off]; omega)⟩
  rw [h x hx]
  simp only [regKey, Pg.index, Pg.type, PageType.place, Pg.inst]
  generalize RegName.off x.2.1 x.2.2.1 = o
  simp only [RegName.off]
  omega

/-- A late VCHAIN at its boundary, under HALT: the last part of O17. -/
theorem State.late_halts {s : State} {c : Fin 36} {q : Fin 8} {f : Flight} (n : Nat) (hu : s.up) (hm : s.coreMoves c = true)
    (hh : (s.core c).holder = some q.val) (hf : (s.queue c q).flights = [f]) (hd : f.done = false) (ho : f.ins.opcode = opVchain)
    (hab : f.aborted = false) (hfa : f.fatal = false) (hga : f.gated = false) (hp : f.ins.postEn = false)
    (hcounts : ∀ x ∈ f.counts, x.1 = .vector c) (hdl : (s.queue c q).deadline ≠ 0) (hnow : (s.queue c q).deadline.toNat < s.now.toNat)
    (hcfg : bit1 (s.rd (.sequencer c) .qCfg q) 2 = false) (hfault : s.faultedWaiter = none) (hfast : s.est.fast = [])
    (hwait : (s.core c).waiting = []) :
    ∃ t, exec (.tilePassBoundary c n) s = .next t ∧ (t.queue c q).state = .halted ∧
      (t.queue c q).lastStatus = Status.eDeadline.code ∧ (t.queue c q).watermark = min n f.total := by
  have hon : (s.queue c q).onUnit = some f := by
    have hh : opHolds opVchain = true := rfl
    rw [Queue.onUnit, hf]
    simp [hd, ho, hh]
  rw [execTilePassBoundary_late n hu hm hh hon (by simp [Flight.stopping, hab, hfa, hga]) (State.late_of hdl hnow)]
  generalize hg : ({ f with done := true, status := .eDeadline, wm := min n f.total } : Flight) = g
  obtain ⟨gseq, gdone, gins, ggated, gstatus, gwm, gab, gfatal, gcounts⟩ : g.seq = f.seq ∧ g.done = true ∧ g.ins = f.ins ∧
      g.gated = f.gated ∧ g.status = .eDeadline ∧ g.wm = min n f.total ∧ g.aborted = f.aborted ∧ g.fatal = f.fatal ∧
      g.counts = f.counts := by
    rw [← hg]; exact ⟨rfl, rfl, rfl, rfl, rfl, rfl, rfl, rfl, rfl⟩
  -- the work ends: what it leaves undefined, what is counted, and the banks that go on
  obtain ⟨w, hw, hv⟩ := State.endFlight_vchain (s := s) (c := c) (q := q.val) (g := g) (by rw [gins, ho]) (by rw [ggated, hga])
    (by rw [gstatus]; decide)
  have hset := State.queue_setFlight_lone hf gseq
  obtain ⟨hregs, -, -, hcore⟩ := State.setFlight_rest s c q g
  have hset' (d r : Nat) (e : ¬(d = c.val ∧ r = q.val)) : (s.setFlight c q g).queue d r = s.queue d r := by
    rw [State.setFlight, State.setQueue_other e]
  have hsems : s.semsSame (s.setFlight c q g) := fun x d i => State.sem_setQueue ..
  have hest : (s.setFlight c q g).est = s.est := rfl
  generalize s.setFlight c q g = u at *
  generalize s.endFlight c q g = v at *
  have hb : v.tallies (v.bump (.sequencer c) .preemptCount 0 1) [regKey (.sequencer c) .preemptCount 0] :=
    State.tallies_bump 1 (List.mem_singleton_self _)
  generalize v.bump (.sequencer c) .preemptCount 0 1 = x at hb ⊢
  have hxq (d r : Nat) : x.queue d r = v.queue d r := State.queue_congr (State.tallies_cores hb) d r
  obtain ⟨g', hg', hbare⟩ : ∃ g', (v.queue c q).flights = [g'] ∧ g'.bare = g.bare := by
    have ha := hv.alike q
    rw [State.works_queue hw, hset] at ha
    obtain ⟨g', hg'⟩ := List.length_eq_one_iff.1 ha.length
    obtain ⟨k, hk, e⟩ := ha.flights g' (by rw [hg']; exact List.mem_singleton_self _)
    obtain rfl := List.mem_singleton.1 hk
    exact ⟨g', hg', e⟩
  obtain ⟨bdone, bins, bstatus, bwm, bab, bfatal⟩ : g'.done = g.done ∧ g'.ins = g.ins ∧ g'.status = g.status ∧ g'.wm = g.wm ∧
      g'.aborted = g.aborted ∧ g'.fatal = g.fatal := by
    rw [Flight.bare_eq hbare]; exact ⟨rfl, rfl, rfl, rfl, rfl, rfl⟩
  have hxcfg : x.rd (.sequencer c) .qCfg q = s.rd (.sequencer c) .qCfg q := by
    have h1 : x.rd (.sequencer c) .qCfg q = v.rd (.sequencer c) .qCfg q :=
      State.tallies_rd hb (by rw [List.mem_singleton]; exact regKey_ne (by simp only [RegName.off]; omega))
    have h2 : v.rd (.sequencer c) .qCfg q = w.rd (.sequencer c) .qCfg q := State.reg_congr (by rw [hv.rest]) _
    have h3 := State.works_rd hw (qCfg_not_vchainKeys (q := q) (g := g) (by rw [gcounts]; exact hcounts))
    rw [h1, h2, h3]
    exact State.reg_congr hregs _
  -- its queue halts
  have hz := State.retire_halted (v := x) (c := c) (q := q) (f := g') (by rw [hxq, hg']) (by rw [bdone, gdone]) (by rw [bstatus, gstatus]; decide)
    (by rw [bstatus, gstatus]; decide) (by rw [bab, gab, hab]) (by rw [bfatal, gfatal, hfa]) (by rw [bins, gins, hp])
    (by rw [bins, gins, ho]; decide) (by rw [hxcfg]; exact hcfg)
  rw [bstatus, gstatus] at hz
  rw [State.drainQueue]
  generalize (x.retire c q ((x.queue c q).flights.length + 1)).settleHalt c q = z at hz ⊢
  have hzwait : (z.core c).waiting = [] := by
    rw [hz.core, State.core_congr (State.tallies_cores hb), hv.core]
    exact hw.core.waiting.trans (by rw [hcore]; exact hwait)
  rw [State.applyWaiting_none hzwait]
  -- and the core is settled, which leaves its queues but for their notes
  have hcq := State.queue_setCore_self z c
  have hcs : z.semsSame (z.setCore c (z.core c)) := State.semsSame_of_core rfl (fun d _ => State.core_setCore_self z c d) (by rw [State.core_setCore_same])
  have hcc := State.core_setCore_self z c
  have hce : (z.setCore c (z.core c)).est = z.est := rfl
  generalize z.setCore c (z.core c) = y at *
  have hA := State.arbitrates_arbitrate y c
  have hAq := State.alike_arbitrate y c
  generalize y.arbitrate c = t at hA hAq ⊢
  have hzq : y.queue c q = (x.queue c q).failedAt g' .eDeadline .halted := by rw [hcq, hz.queue]
  have htq := hAq q
  rw [hzq] at htq
  have hflights : (t.queue c q).flights = [] := List.length_eq_zero_iff.1 htq.length
  have hother (d r : Nat) (e : ¬(d = c.val ∧ r = q.val)) : (s.queue d r).alike (t.queue d r) := by
    have h1 : u.queue d r = s.queue d r := hset' d r e
    have h2 : w.queue d r = u.queue d r := State.works_queue hw d r
    have h3 : y.queue d r = v.queue d r := by rw [hcq, hz.queues d r e, hxq]
    by_cases k : d = c.val
    · subst k
      have h4 := hv.alike r
      have h5 := hAq r
      rw [h2, h1] at h4
      rw [h3] at h5
      exact Queue.alike_trans h4 h5
    · have h4 : v.queue d r = w.queue d r := by rw [State.queue, hv.cores d k]; rfl
      have h5 : t.queue d r = y.queue d r := by rw [State.queue, hA.cores d k]; rfl
      rw [h5, h3, h4, h2, h1]
      exact Queue.alike_refl _
  have hsem : s.semsSame t := by
    have h1 : v.semsSame x := State.semsSame_of_core (c := c) (by rw [hb.rest]) (fun d _ => State.core_congr (State.tallies_cores hb) d)
      (by rw [State.core_congr (State.tallies_cores hb)])
    have h2 : x.semsSame z := State.semsSame_of_core (c := c) (by rw [hz.rest]) hz.cores (by rw [hz.core])
    exact fun a d i => (hA.sems a d i).trans ((hcs a d i).trans ((h2 a d i).trans ((h1 a d i).trans ((State.banked_sems hv a d i).trans
      ((State.works_sems hw a d i).trans (hsems a d i))))))
  have hquiet : t.faultedWaiter = none := State.faultedWaiter_emptied hfault (fun a d i => by rw [hsem]) hflights hother
  have hidle : t.est.fast = [] := by
    rw [hA.est, hce, hz.rest, hb.rest, hv.rest, hw.rest]
    exact (congrArg Est.fast hest).trans hfast
  rw [State.settled_calm hquiet hidle]
  refine ⟨t, rfl, ?_, ?_, ?_⟩
  · rcases htq.state with e | ⟨e, -⟩
    · exact e
    · cases e
  · rw [htq.rest]; rfl
  · rw [htq.rest]
    exact bwm.trans gwm

/-- Settles O17: boundaries, arrival gates and deadlines of tile work. -/
theorem passBoundaryResults : Obligations.PassBoundaryResults := by
  unfold Obligations.PassBoundaryResults
  refine ⟨fun s c q f hu hm => ⟨fun n hh hf hd ho hp hw hs hl hr => ?goesOn, fun n y hh hf hs hl hr hy hrun _ hfirst => ?handsOn,
      fun hf hg hd hs hn hlt hen => ?lets, fun hf hg hd hs hn heq => ?opens⟩,
    fun s c q d hu hlive => ⟨fun h => ?onTime, fun h0 hlt => ?late, fun f n hm hh hf hd ho hab hfa hga hp hc _ hdl hnow hcfg hfw hfast hw => ?halts⟩⟩
  case goesOn => exact State.boundary_goesOn n hu hm hh hf hd ho hp hw hs hl hr
  case handsOn => exact State.boundary_handsOn n hu hm hh hf hs hl hr hy hrun hfirst
  case lets => exact State.gate_lets hu hm hf hg hd hs hn hlt hen
  case opens => exact State.gate_opens hu hm hf hg hd hs hn heq
  case onTime =>
    have hp : s.past d = false := by
      rcases h with h | h
      · simp [State.past, h]
      · simp [State.past, h]
    rw [exec_deadlinePassed, execDeadlinePassed, State.awake_up hu]
    simp [State.queueLate, hp]
  case late =>
    have hp : s.past d = true := by
      simp only [State.past, bne_iff_ne.mpr h0, hlt, decide_true, Bool.and_self]
    rw [exec_deadlinePassed, execDeadlinePassed, State.awake_up hu]
    simp [State.queueLate, hp, hlive]
  case halts => exact State.late_halts n hu hm hh hf hd ho hab hfa hga hp hc hdl hnow hcfg hfw hfast hw

/-! ### A product that enters its array as it issues (R60) -/

theorem ArraySt.firstBank_lt (a : ArraySt) (f : Flight) : a.firstBank f < 2 := by
  unfold ArraySt.firstBank
  split
  · exact bits_lt f.w1 58 58
  · split <;> decide

/-- What an array holds once a product has entered it: its first block's bank is ACTIVE. -/
theorem ArraySt.enter_active (a : ArraySt) (f : Flight) (bytes : List Byte) :
    (if (a.enter f bytes).active then 1 else 0) = a.firstBank f ∧
    (a.enter f bytes).bank (a.firstBank f) = { state := .active, tag := f.blocks.head?, bytes := bytes } ∧
    (a.enter f bytes).kept = a.kept ∧ (a.enter f bytes).carried = a.carried := by
  have hb := ArraySt.firstBank_lt a f
  unfold ArraySt.enter
  generalize a.firstBank f = b at *
  interval_cases b <;> exact ⟨rfl, rfl, rfl, rfl⟩

theorem State.find?_of_loaderOf_none {s : State} {c : Fin 36} {a b : Nat} (h : s.loaderOf c a b = none) {r : Nat} (hr : r < 8) :
    (s.queue c r).flights.find? (fun f => f.ins.opcode == opWload && !f.done && f.loading && (Wl.of f.ins).array == a &&
      (Wl.of f.ins).bank == b) = none :=
  Option.map_eq_none_iff.1 (List.findSome?_eq_none_iff.1 h r (List.mem_range.2 hr))

theorem Flight.product_not_wload {f : Flight} (h : f.product = true) : (f.ins.opcode == opWload) = false := by
  unfold Flight.product at h
  rcases Bool.or_eq_true_iff.1 h with e | e <;> rw [eq_of_beq e] <;> rfl

/-- A product whose banks nothing loads waits for none. -/
theorem State.entryWaits_of_loaderOf {v : State} {c : Fin 36} {g : Flight} (h : ∀ b < 2, v.loaderOf c g.arr b = none) :
    v.entryWaits c g = false := by
  have hfirst := ArraySt.firstBank_lt ((v.core c).arr g.arr) g
  simp only [State.entryWaits, h _ hfirst, h (1 - ((v.core c).arr g.arr).firstBank g) (by omega), Option.isSome_none, Bool.and_false,
    Bool.or_self]

/-- The one product of the holder of its core enters its array, where it waits for no bank. -/
theorem State.enterNext_lone {v : State} {c : Fin 36} {q : Fin 8} {g : Flight} {n : Nat} (hf : (v.queue c q).flights = [g])
    (ha : g.onArray n = true) (hg : g.gated = false) (hv : g.visited = 0) (hh : (v.core c).holder = some q.val)
    (hw : v.entryWaits c g = false) :
    ∃ bytes, v.enterNext c q n =
      (v.setCore c ((v.core c).setArr n (((v.core c).arr n).enter g bytes))).setFlight c q { g with visited := 1 } := by
  have hfind : (v.queue c q).flights.find? (fun f => f.onArray n) = some g := by
    rw [hf, List.find?_singleton]
    exact if_pos ha
  unfold State.enterNext
  simp only [hfind, hg, hv, hh, hw, Bool.false_eq_true, ne_eq, not_true_eq_false, or_self, if_false]
  exact ⟨_, rfl⟩

/-- The flight as which an instruction enters its queue. -/
def State.asIssued (s : State) (c : Fin 36) (q : Nat) (f : Flight) : Flight := { f with seq := (s.queue c q).seq, issued := s.now }

section
variable {s v : State} {c : Fin 36} {q : Fin 8} {f : Flight} {ks : List Nat} (h : s.enters v c q f ks) (hf : (s.queue c q).flights = [])
include h hf

theorem State.enters_flights : (v.queue c q).flights = [s.asIssued c q f] := by
  rw [h.queue, hf]
  rfl

/-- A product that enters its queue loads no bank. -/
theorem State.enters_loaderOf (hp : f.product = true) {a b : Nat} (hl : s.loaderOf c a b = none) : v.loaderOf c a b = none := by
  have hw : ((s.asIssued c q f).ins.opcode == opWload) = false := Flight.product_not_wload hp
  refine List.findSome?_eq_none_iff.2 (fun r hr => Option.map_eq_none_iff.2 ?_)
  by_cases e : r = q.val
  · rw [e, State.enters_flights h hf]
    exact List.find?_eq_none.2 (fun g hg => by rw [List.mem_singleton.1 hg, hw]; simp)
  · rw [h.queues c r (fun k => e k.2)]
    exact State.find?_of_loaderOf_none hl (List.mem_range.1 hr)

/-- A lone product whose banks nothing loads enters its array as it issues. -/
theorem State.enterNext_enters {n : Nat} (ha : f.onArray n = true) (hg : f.gated = false) (hv : f.visited = 0)
    (hh : (v.core c).holder = some q.val) (hl : ∀ b : Fin 2, s.loaderOf c n b = none) :
    ∃ bytes, s.enters (v.enterNext c q n) c q { f with visited := 1 } ks ∧ (v.enterNext c q n).mem = v.mem ∧
      (v.enterNext c q n).core c = { (v.core c).setArr n (((v.core c).arr n).enter f bytes) with
        queues := ((v.enterNext c q n).core c).queues } := by
  obtain ⟨hp, -, hn⟩ : f.product = true ∧ f.done = false ∧ f.arr = n := by simpa [Flight.onArray, and_assoc] using ha
  have hflights := State.enters_flights h hf
  obtain ⟨bytes, he⟩ := State.enterNext_lone hflights ha hg hv hh
    (State.entryWaits_of_loaderOf (fun b hb => State.enters_loaderOf h hf hp ((congrArg (s.loaderOf c · b) hn).trans (hl ⟨b, hb⟩))))
  rw [he, show ((v.core c).arr n).enter (s.asIssued c q f) bytes = ((v.core c).arr n).enter f bytes from rfl]
  generalize hu : v.setCore c ((v.core c).setArr n (((v.core c).arr n).enter f bytes)) = u
  have hw : v.works u c [] := hu ▸ State.works_setArr v c [] n _
  have hreg : u.regs = v.regs := by rw [← hu]; rfl
  have hmem : u.mem = v.mem := by rw [← hu]; rfl
  have hcore : u.core c = (v.core c).setArr n (((v.core c).arr n).enter f bytes) := by rw [← hu, State.core_setCore_same]
  have hqueue : ((u.setFlight c q { s.asIssued c q f with visited := 1 }).queue c q) =
      { s.queue c q with flights := (s.queue c q).flights ++ [s.asIssued c q { f with visited := 1 }],
                         seq := ((s.queue c q).seq + 1) % 2 ^ 32 } := by
    refine (State.queue_setFlight_lone (f := s.asIssued c q f) (g := s.asIssued c q { f with visited := 1 })
      (by rw [State.works_queue hw, hflights]) rfl).trans ?_
    rw [State.works_queue hw, h.queue, hf]
    rfl
  refine ⟨bytes, ?_, hmem, ?_⟩
  · generalize hg2 : ({ s.asIssued c q f with visited := 1 } : Flight) = g at hqueue ⊢
    exact
      { queue := hqueue
        queues := fun d r e => by rw [State.setFlight, State.setQueue_other e, State.works_queue hw, h.queues d r e]
        pc := (congrArg (FMap.get _ · _) hreg).trans h.pc
        issued := (congrArg (FMap.get _ · _) hreg).trans h.issued
        regs := fun k hk hd => (congrArg (FMap.get _ · _) hreg).trans (h.regs k hk hd)
        cache := fun hd => by
          rw [← hu]
          exact congrArg (fun w : State => { w with cores := ((v.setCore c ((v.core c).setArr n (((v.core c).arr n).enter f bytes))).setFlight
            c q g).cores }) (h.cache hd)
        sems := fun x d i => by rw [State.setFlight, State.sem_setQueue, State.works_sems hw x d i, h.sems x d i]
        cores := fun d e => by rw [State.setFlight, State.core_setQueue_other (Ne.symm e), hw.cores d e, h.cores d e]
        rest := by
          have := h.rest
          rw [← hu]
          unfold State.setFlight State.setQueue State.setCore State.cacheOf at *
          rw [this] }
  · rw [State.setFlight, State.core_setQueue_same, hcore]
    rfl
end

/-! ### The first block of a product (R104, R105, R108) -/

theorem ceilDiv_pos {a b : Nat} (ha : 0 < a) (hb : 0 < b) : 0 < ceilDiv a b := by
  unfold ceilDiv
  exact Nat.div_pos (by omega) hb

theorem head?_flatMap_range {α : Type} {n : Nat} {g : Nat → List α} {p : α} (hn : 0 < n) (h : (g 0).head? = some p) :
    ((List.range n).flatMap g).head? = some p := by
  obtain ⟨n, rfl⟩ := Nat.exists_eq_add_one.2 hn
  rw [List.range_succ_eq_map, List.flatMap_cons, List.head?_append, h]
  rfl

theorem head?_map_range {α : Type} {n : Nat} (g : Nat → α) (hn : 0 < n) : ((List.range n).map g).head? = some (g 0) := by
  obtain ⟨n, rfl⟩ := Nat.exists_eq_add_one.2 hn
  rw [List.range_succ_eq_map]
  rfl

theorem blockK_pos (a w : Fmt) : 0 < blockK a w := by
  unfold blockK
  split <;> decide

/-- A product visits the block of the first rows of its first column tile first. -/
theorem Mm.visitSeq_head (x : Mm) {m n k : Nat} (hm : 0 < m) (hn : 0 < n) (hk : 0 < k) : (x.visitSeq m n k).head? = some (0, 0) := by
  have runs {l : List (Nat × Nat)} {r : Nat} (h : l.head? = some (0, 0)) (hr : 0 < r) :
      (if x.l1 % 2 = 1 then l else (List.range r).flatMap (fun _ => l)).head? = some (0, 0) := by
    split
    · exact h
    · exact head?_flatMap_range hr h
  have htm : 0 < max 1 x.tmE := by omega
  have htn : 0 < max 1 x.tnE := by omega
  have mt := ceilDiv_pos hm (b := 64) (by decide)
  have nt := ceilDiv_pos hn (b := 64) (by decide)
  have is := ceilDiv_pos mt htm
  have js := ceilDiv_pos nt htn
  have ks := ceilDiv_pos hk (blockK_pos x.fa x.fw)
  have cols : ((List.range (min (max 1 x.tnE) (ceilDiv n 64 - 0 * max 1 x.tnE))).map (fun b => (0, 0 * max 1 x.tnE + b))).head? = some (0, 0) := by
    rw [head?_map_range _ (by omega)]
    simp
  unfold Mm.visitSeq
  dsimp only
  split
  · exact head?_flatMap_range is (head?_flatMap_range js (head?_flatMap_range ks (runs cols (by omega))))
  · exact head?_flatMap_range js (head?_flatMap_range is (head?_flatMap_range ks (runs cols (by omega))))
  · exact head?_flatMap_range is (head?_flatMap_range ks (head?_flatMap_range js (runs cols (by omega))))
  · exact head?_flatMap_range js (head?_flatMap_range ks (head?_flatMap_range is (runs cols (by omega))))
  · exact head?_flatMap_range ks (head?_flatMap_range is (head?_flatMap_range js (runs cols (by omega))))
  · exact head?_flatMap_range ks (head?_flatMap_range js (head?_flatMap_range is (runs cols (by omega))))

theorem Mm.tags_head (x : Mm) {m n k : Nat} (hm : 0 < m) (hn : 0 < n) (hk : 0 < k) :
    (x.tags m n k).head? = some (x.tag (x.blockAddr k 0 0)) := by
  rw [Mm.tags, List.head?_map, Mm.visitSeq_head x hm hn hk]
  rfl

/-- A runtime extent is positive where its length is not 0 (R90). -/
theorem State.extent_pos {s : State} {c : Fin 36} {q : Nat} {i : Ins} {ax p : Nat} (h : s.lenZero c q i = false) (ha : ax ≠ 0) (hp : 0 < p) :
    0 < s.extent c q i ax p := by
  unfold State.extent
  split
  · next e =>
    simp only [State.lenZero, e, ne_eq, ha, not_false_eq_true, decide_true, Bool.true_and, beq_eq_false_iff_ne] at h
    omega
  · exact hp

/-! ### What a product's run leaves of memory, its array and the score store -/

theorem State.mmRun_keeps {s : State} {c : Fin 36} {q : Nat} {f : Flight} (hk : (Mm.of f.ins).keep = true) :
    (s.mmRun c q f).1 = s.mmKept c q f := by
  rw [State.mmRun_eq]
  simp only [hk, if_true]

theorem State.maxImage_congr {s t : State} {c : Fin 36} (hr : t.rd (.score c) .scoreCtrl 0 = s.rd (.score c) .scoreCtrl 0)
    (hm : (t.core c).scoreMax = (s.core c).scoreMax) : t.maxImage c = s.maxImage c := by
  simp only [State.maxImage, State.fld, hr, Core.maxOf, hm]

theorem scoreCtrl_not_eventKeys (c : Fin 36) : regKey (.score c) .scoreCtrl 0 ∉ eventKeys (.score c) :=
  regKey_not_eventKeys (by decide)

/-- A product that drains to the score store leaves there what the store would hold had no tiles been kept, and notes the row maxima. -/
theorem State.mmRun_scores {s : State} {c : Fin 36} {q : Nat} {f : Flight} (hk : (Mm.of f.ins).keep = false)
    (ho : (Mm.of f.ins).outScore = true) :
    let w := (s.scoreWrite c (Mm.of f.ins) (f.srIn (f.ins.rnd.getD .rne)) f.m f.n (s.mmSums c q f)).1
    (s.mmRun c q f).1.mem = s.mem ∧ ((s.mmRun c q f).1.core c).score = (w.core c).score ∧
      ((s.mmRun c q f).1.core c).scoreMax = (w.core c).scoreMax ∧ ((s.mmRun c q f).1.core c).scoreValid = (w.core c).scoreValid ∧
      w.maxImage c ∈ (s.mmRun c q f).2.atEnd := by
  obtain ⟨hw, hmem, hcore⟩ := State.mmKept_rest s c q f
  have hlim : (s.mmKept c q f).scoreLimits c ((Mm.of f.ins).out / 64 * 16) = s.scoreLimits c ((Mm.of f.ins).out / 64 * 16) := by
    have hb := fun a n => State.bytes_congr (State.byte_congr hmem) a n
    have hr := State.works_rd hw (p := .score c) (r := .scoreCtrl) (i := 0) List.not_mem_nil
    simp only [State.scoreLimits, State.fld, hr, hb, hcore]
    rw [Core.setArr_rest]
  rw [State.mmRun_eq]
  simp only [hk, ho, Bool.false_eq_true, if_false, if_true]
  generalize s.mmSums c q f = accs at *
  generalize f.srIn (f.ins.rnd.getD .rne) = sr at *
  generalize s.mmKept c q f = t at *
  obtain ⟨hs, hsm⟩ := State.works_scoreWrite s c (Mm.of f.ins) sr f.m f.n accs
  obtain ⟨ht, htm⟩ := State.works_scoreWrite t c (Mm.of f.ins) sr f.m f.n accs
  have hsc := State.core_scoreWrite s c (Mm.of f.ins) sr f.m f.n accs
  have htc := State.core_scoreWrite t c (Mm.of f.ins) sr f.m f.n accs
  rw [hlim, hcore, scoreFill_setArr, ← hsc, Core.setArr_rest] at htc
  generalize (t.scoreWrite c (Mm.of f.ins) sr f.m f.n accs).1 = v at *
  generalize (s.scoreWrite c (Mm.of f.ins) sr f.m f.n accs).1 = w at *
  have hctrl : v.rd (.score c) .scoreCtrl 0 = w.rd (.score c) .scoreCtrl 0 := by
    rw [State.works_rd ht (scoreCtrl_not_eventKeys c), State.works_rd hs (scoreCtrl_not_eventKeys c), State.works_rd hw List.not_mem_nil]
  refine ⟨htm.trans hmem, by rw [htc], by rw [htc], by rw [htc], ?_⟩
  rw [← State.maxImage_congr hctrl (by rw [htc])]
  exact List.mem_append_right _ (List.mem_singleton_self _)

/-- A product whose output is exact writes its rows of accumulators. -/
theorem State.mmRun_exact {s : State} {c : Fin 36} {q : Nat} {f : Flight} (hk : (Mm.of f.ins).keep = false)
    (ho : (Mm.of f.ins).outScore = false) (hx : (Mm.of f.ins).fo = .x96) :
    s.bytesBut (s.mmRun c q f).1 ((s.mmSums c q f).zipIdx.map (fun (r, n) =>
      (ledgeAt c ((Mm.of f.ins).out + n * (Mm.of f.ins).outStride), 12 * r.length))) := by
  rw [State.mmRun_eq]
  simp only [hk, ho, hx, Bool.false_eq_true, if_false, if_true]
  intro a ha
  exact (State.byte_congr rfl a).trans (((State.wrote_exactRows (s.mmKept c q f) c f (s.mmSums c q f)).2.1 a ha).trans
    (State.byte_congr (State.mmKept_rest s c q f).2.1 a))

/-- What a product drains to the Ledge: its rows, the conversion point they are rounded at, and what its stages write (R69, R131). -/
def State.mmDrained (s : State) (c : Fin 36) (f : Flight) (accs : List (List (BitVec 96))) : Mat × Nat × List (Nat × List Byte) :=
  let h := Chain.ofWords f.chainW
  if (Mm.of f.ins).chainId = 0 ∨ h.n = 0 then (mmDrainIn f accs, 0, [])
  else ((s.mmOut c f accs).cur, h.srBase + h.n, (s.mmOut c f accs).writes)

/-- A product that drains to the Ledge writes its rows and what its stages write. -/
theorem State.mmRun_drains {s : State} {c : Fin 36} {q : Nat} {f : Flight} (hk : (Mm.of f.ins).keep = false)
    (ho : (Mm.of f.ins).outScore = false) (hx : (Mm.of f.ins).fo ≠ .x96) {rows : Mat} {point : Nat} {ws : List (Nat × List Byte)}
    (h : (rows, point, ws) = s.mmDrained c f (s.mmSums c q f)) :
    (s.mmRun c q f).1 = ((s.mmKept c q f).writeRows (Mm.of f.ins).fo (f.srIn (f.ins.rnd.getD .rne)) point (ledgeAt c (Mm.of f.ins).out)
      (Mm.of f.ins).outStride rows).chainWrites c ws := by
  rw [State.mmRun_eq]
  simp only [hk, ho, hx, Bool.false_eq_true, if_false]
  unfold State.mmDrained at h
  dsimp only at h
  split at h
  · next hn =>
    obtain ⟨rfl, rfl, rfl⟩ : rows = _ ∧ point = 0 ∧ ws = [] := by simpa using h
    simp only [hn, if_true, State.mmDrainIn_ended]
    rfl
  · next hn =>
    obtain ⟨rfl, rfl, rfl⟩ : rows = _ ∧ point = _ ∧ ws = _ := by simpa using h
    simp only [hn, if_false]

/-! ### An instruction of an array that issues -/

/-- A lone product that issues after some work enters its array. -/
theorem State.issues_enterNext {s u : State} {c : Fin 36} {q : Fin 8} {i : Ins} {f : Flight} {ks : List Nat} {n : Nat} (h : s.issues c q i)
    (hf : (s.queue c q).flights = []) (hw : s.works u c ks) (hp : regKey (.sequencer c) .qPc q ∉ ks)
    (hi : regKey (.sequencer c) .issueCount 0 ∉ ks) (hk : regKey (.sequencer c) .seqCtrl 0 ∉ ks) (hg : regKey (.sequencer c) .qCfg q ∉ ks)
    (hn : n < 2) (ha : f.onArray n = true) (hgate : f.gated = false) (hv : f.visited = 0) (hl : ∀ b : Fin 2, s.loaderOf c n b = none) :
    let t := (u.issue c q f (f.pc + 32)).enterNext c q n
    s.enters t c q { f with visited := 1 } ks ∧ t.mem = u.mem ∧
      t.core c = { u.core c with queues := (t.core c).queues, a0 := (t.core c).a0, a1 := (t.core c).a1 } ∧
      ∃ bytes, (t.core c).arr n = ((u.core c).arr n).enter f bytes := by
  obtain ⟨he, hcore, hmem, -⟩ := State.works_enters (q := q) (f := f) rfl hw hp hi hk hg
  have hholder : (s.core c).holder = some q.val := by
    have := h.may
    simp only [State.canIssue, Bool.and_eq_true, beq_iff_eq] at this
    tauto
  have hheld : ((u.issue c q f (f.pc + 32)).core c).holder = some q.val := by rw [hcore]; exact hw.core.holder.trans hholder
  have harr : ((u.issue c q f (f.pc + 32)).core c).arr n = (u.core c).arr n := Core.arr_of_arrays (by rw [hcore]) (by rw [hcore]) n
  obtain ⟨bytes, hent, hsame, hnew⟩ := State.enterNext_enters he hf ha hgate hv hheld hl
  refine ⟨hent, hsame.trans hmem, ?_, bytes, ?_⟩
  · rw [hnew, Core.setArr_rest, hcore]
  · rw [hnew]
    refine (Core.arr_of_arrays rfl rfl n).trans ((Core.arr_setArr _ _ hn hn).trans ?_)
    rw [if_pos rfl, harr]

/-! ### MATMUL (R60, R66, R69, R82, R96) -/

/-- The flight of a MATMUL that starts, before it is noted what it replaces. -/
def State.mmFlight (s : State) (c : Fin 36) (q : Nat) (i : Ins) : Flight :=
  let x := Mm.of i
  s.withSr c q { started i (s.mmTouch c q i) false with
    m := s.extent c q i 1 x.m, n := s.extent c q i 2 x.n, k := s.extent c q i 3 x.k, units := s.mmLive c q x,
    blocks := x.tags (s.extent c q i 1 x.m) (s.extent c q i 2 x.n) (s.extent c q i 3 x.k),
    chainW := s.chainWords c x.chainId, proW := s.chainWords c (s.chain c x.chainId).proChain }

/-- The state and the flight a product has run to. -/
def State.mmRan (s : State) (c : Fin 36) (q : Nat) (f : Flight) : State × Flight :=
  (s.mmReady c q f (mmNeed f)).mmRun c q (s.mmStarted c q f)

theorem State.mmRan_flight (s : State) (c : Fin 36) (q : Nat) (f : Flight) : (s.mmRan c q f).2 = { f with
    gated := false, groups := (s.mmRan c q f).2.groups, old := (s.mmRan c q f).2.old, counts := (s.mmRan c q f).2.counts, need := mmNeed f,
    total := ceilDiv f.m 64 * ceilDiv f.n 64, status := (s.mmRan c q f).2.status, wm := (s.mmRan c q f).2.wm,
    atEnd := (s.mmRan c q f).2.atEnd } := by
  unfold State.mmRan
  rw [State.mmRun_flight, State.mmEnded_rest]
  rfl

/-- The array of a product that has run is as it was but for the tiles it keeps. -/
theorem State.mmRan_arr (s : State) (c : Fin 36) (q : Nat) (f : Flight) (ha : (Mm.of f.ins).array < 2) :
    ((s.mmRan c q f).1.core c).arr (Mm.of f.ins).array =
      { (s.core c).arr (Mm.of f.ins).array with kept := (s.mmReady c q f (mmNeed f)).mmTiles c q f } := by
  have hready := State.readies_mmReady s c q f (mmNeed f)
  obtain ⟨-, h0, h1⟩ := State.works_mmRun (s.mmReady c q f (mmNeed f)) c q (s.mmStarted c q f)
  obtain ⟨-, -, hk⟩ := State.mmKept_rest (s.mmReady c q f (mmNeed f)) c q (s.mmStarted c q f)
  have hc : (s.mmReady c q f (mmNeed f)).core c = s.core c := State.core_congr (by rw [hready.rest]) c
  refine (Core.arr_of_arrays h0 h1 _).trans ?_
  rw [hk, hc]
  exact (Core.arr_setArr _ _ ha ha).trans (if_pos rfl)

theorem Queue.free_of_nil {x : Queue} (h : x.flights = []) (t : Touch) : x.free t = true := by
  rw [Queue.free, h]
  rfl

theorem execMatmul_runs {s : State} {c : Fin 36} {q : Fin 8} {i : Ins} (h : s.issues c q i) (ho : i.opcode = opMatmul)
    (hf : (s.queue c q).flights = []) (hw : (s.core c).mmBankWait (Mm.of i) = false) (hc : s.mmCheck c q i = .ok)
    (hz : s.lenZero c q i = false) (hg : (Chain.ofWords (s.mmFlight c q i).chainW).gateEn = false) :
    exec (.matmul c q) s = .next (((s.mmRan c q (s.mmFlight c q i)).1.issue c q (s.mmRan c q (s.mmFlight c q i)).2 (i.pc + 32)).enterNext
      c q (Mm.of i).array) := by
  have hstart : s.mmStart c q (s.mmFlight c q i) = s.mmRan c q (s.mmFlight c q i) :=
    State.mmStart_runs (fun e => by rw [hg] at e; exact Bool.noConfusion e.1)
  have hgated : (s.mmRan c q (s.mmFlight c q i)).2.gated = false := by rw [State.mmRan_flight]
  rw [exec_matmul, execMatmul, State.awake_up h.up, State.row_issues h (by simp [ho]) (by rw [ho]; decide)
    (by rw [ho]; exact fun e => absurd e (by decide))]
  simp only [Queue.free_of_nil hf, hw, hc, hz, Bool.not_true, Bool.or_self, Bool.false_eq_true, ne_eq, not_true_eq_false, if_false]
  unfold State.mmFlight at hstart hgated ⊢
  dsimp only at hstart hgated ⊢
  simp only [hstart, hgated, Bool.false_eq_true, if_false]

theorem sequencer_not_startKeys (c : Fin 36) {a : Nat} (ha : a < 2) {r : RegName} {i : Nat} (h : r.off i < 4096) :
    regKey (.sequencer c) r i ∉ startKeys c a := by
  simp only [startKeys, readyKeys, eventKeys, List.mem_append, List.mem_cons, List.not_mem_nil, or_false, regKey, Pg.index, Pg.type,
    PageType.place, Pg.inst]
  generalize r.off i = o at *
  simp only [RegName.off]
  omega

theorem Mm.array_lt (i : Ins) : (Mm.of i).array < 2 := bits_lt i.w1 54 54

/-- A MATMUL with no arrival gate that is alone in its queue runs, and enters its array. -/
theorem State.matmul_enters {s : State} {c : Fin 36} {q : Fin 8} {i : Ins} (h : s.issues c q i) (ho : i.opcode = opMatmul)
    (hf : (s.queue c q).flights = []) (hw : (s.core c).mmBankWait (Mm.of i) = false) (hc : s.mmCheck c q i = .ok)
    (hz : s.lenZero c q i = false) (hg : (Chain.ofWords (s.mmFlight c q i).chainW).gateEn = false)
    (hl : ∀ b : Fin 2, s.loaderOf c (Mm.of i).array b = none) :
    ∃ t, exec (.matmul c q) s = .next t ∧
      s.enters t c q { (s.mmRan c q (s.mmFlight c q i)).2 with visited := 1 } (startKeys c (Mm.of i).array) ∧
      t.mem = (s.mmRan c q (s.mmFlight c q i)).1.mem ∧
      t.core c = { (s.mmRan c q (s.mmFlight c q i)).1.core c with
        queues := (t.core c).queues, a0 := (t.core c).a0, a1 := (t.core c).a1 } ∧
      ∃ bytes, (t.core c).arr (Mm.of i).array = ArraySt.enter
        (((s.mmRan c q (s.mmFlight c q i)).1.core c).arr (Mm.of i).array) (s.mmFlight c q i) bytes := by
  have hnext : i.pc + 32 = (s.mmRan c q (s.mmFlight c q i)).2.pc + 32 := by rw [State.mmRan_flight]; rfl
  rw [execMatmul_runs h ho hf hw hc hz hg, hnext]
  have hworks : s.works (s.mmRan c q (s.mmFlight c q i)).1 c (startKeys c (Mm.of i).array) := State.works_mmStart s c q (s.mmFlight c q i) _ _
  have hflight := State.mmRan_flight s c q (s.mmFlight c q i)
  have ha := Mm.array_lt i
  have hkey {r : RegName} {j : Nat} := sequencer_not_startKeys c ha (r := r) (i := j)
  have hq := q.isLt
  have hon : (s.mmRan c q (s.mmFlight c q i)).2.onArray (Mm.of i).array = true := by
    rw [hflight]
    simp only [Flight.onArray, Flight.product, Bool.and_eq_true, Bool.or_eq_true, beq_iff_eq]
    exact ⟨⟨.inl ho, rfl⟩, rfl⟩
  obtain ⟨hent, hmem, hcore, bytes, harr⟩ := State.issues_enterNext h hf hworks (hkey (by simp only [RegName.off]; omega))
    (hkey (by decide)) (hkey (by decide)) (hkey (by simp only [RegName.off]; omega)) ha hon (by rw [hflight]) (by rw [hflight]; rfl) hl
  refine ⟨_, rfl, hent, hmem, hcore, bytes, ?_⟩
  rw [harr, hflight]
  rfl

/-! What the run of a product alone leaves of memory, from the state it issues in. -/

section
variable {s : State} {c : Fin 36} {q : Nat} {f : Flight}

theorem State.bytesBut_trans {s t u : State} {rs qs : List (Nat × Nat)} (h : s.bytesBut t rs) (k : t.bytesBut u qs) : s.bytesBut u (rs ++ qs) :=
  fun a ha => (k a (fun r hr => ha r (List.mem_append_right _ hr))).trans (h a (fun r hr => ha r (List.mem_append_left _ hr)))

theorem State.bytesBut_congr {s t u : State} {rs : List (Nat × Nat)} (h : s.bytesBut t rs) (hm : u.mem = t.mem) : s.bytesBut u rs :=
  fun a ha => (State.byte_congr hm a).trans (h a ha)

theorem State.mmRan_ok (hb : (s.mmReady c q f (mmNeed f)).mmBadTile c f (Mm.of f.ins) f.m f.n f.k = none) (hx : (Mm.of f.ins).exact = false) :
    (s.mmRan c q f).2.status = f.status ∧ (s.mmRan c q f).2.wm = (s.mmRan c q f).2.total := by
  obtain ⟨hst, hwm⟩ := State.mmEnded_ok (q := q) (f := s.mmStarted c q f) hb hx
  rw [State.mmRan, State.mmRun_flight]
  exact ⟨hst, by rw [State.mmEnded_rest]; exact hwm⟩

theorem State.mmRan_bad {b : Nat} (hb : (s.mmReady c q f (mmNeed f)).mmBadTile c f (Mm.of f.ins) f.m f.n f.k = some b) :
    (s.mmRan c q f).2.status = .eMemUncorr ∧ (s.mmRan c q f).2.wm = b := by
  rw [State.mmRan, State.mmRun_flight]
  exact State.mmEnded_bad (f := s.mmStarted c q f) hb

theorem State.mmRan_keeps (hk : (Mm.of f.ins).keep = true) : s.bytesBut (s.mmRan c q f).1 (s.spillRange c q (Mm.of f.ins)) := by
  have h : (s.mmRan c q f).1 = _ := State.mmRun_keeps (f := s.mmStarted c q f) hk
  exact State.bytesBut_congr (State.readies_mmReady s c q f (mmNeed f)).bytes (by rw [h]; exact (State.mmKept_rest ..).2.1)

theorem State.mmRan_scores (hk : (Mm.of f.ins).keep = false) (ho : (Mm.of f.ins).outScore = true) {u : State}
    (hu : u = s.mmReady c q f (mmNeed f)) :
    let w := (u.scoreWrite c (Mm.of f.ins) (f.srIn (f.ins.rnd.getD .rne)) f.m f.n (u.mmSums c q f)).1
    s.bytesBut (s.mmRan c q f).1 (s.spillRange c q (Mm.of f.ins)) ∧ ((s.mmRan c q f).1.core c).score = (w.core c).score ∧
      ((s.mmRan c q f).1.core c).scoreMax = (w.core c).scoreMax ∧ ((s.mmRan c q f).1.core c).scoreValid = (w.core c).scoreValid ∧
      w.maxImage c ∈ (s.mmRan c q f).2.atEnd := by
  subst hu
  obtain ⟨hmem, hrest⟩ := State.mmRun_scores (s := s.mmReady c q f (mmNeed f)) (c := c) (q := q) (f := s.mmStarted c q f) hk ho
  exact ⟨State.bytesBut_congr (State.readies_mmReady s c q f (mmNeed f)).bytes hmem, hrest⟩

theorem State.mmRan_exact (hk : (Mm.of f.ins).keep = false) (ho : (Mm.of f.ins).outScore = false) (hx : (Mm.of f.ins).fo = .x96) :
    s.bytesBut (s.mmRan c q f).1 (s.spillRange c q (Mm.of f.ins) ++ ((s.mmReady c q f (mmNeed f)).mmSums c q f).zipIdx.map (fun (r, n) =>
      (ledgeAt c ((Mm.of f.ins).out + n * (Mm.of f.ins).outStride), 12 * r.length))) :=
  State.bytesBut_trans (State.readies_mmReady s c q f (mmNeed f)).bytes (State.mmRun_exact (f := s.mmStarted c q f) hk ho hx)

theorem State.mmRan_drains (hk : (Mm.of f.ins).keep = false) (ho : (Mm.of f.ins).outScore = false) (hx : (Mm.of f.ins).fo ≠ .x96)
    {u : State} (hu : u = s.mmReady c q f (mmNeed f)) {rows : Mat} {point : Nat} {ws : List (Nat × List Byte)}
    (h : (rows, point, ws) = u.mmDrained c f (u.mmSums c q f)) :
    s.bytesBut (s.mmRan c q f).1 (s.spillRange c q (Mm.of f.ins) ++ rows.zipIdx.map (fun (r, n) =>
      (ledgeAt c (Mm.of f.ins).out + n * (Mm.of f.ins).outStride, (Mm.of f.ins).fo.rowBytes r.length)) ++
      ws.map (fun p => (ledgeAt c p.1, p.2.length))) ∧
    (ws = [] → (∀ r ∈ rows, (Mm.of f.ins).fo.rowBytes r.length ≤ (Mm.of f.ins).outStride) → ∀ n r, rows[n]? = some r →
      (s.mmRan c q f).1.bytes (ledgeAt c (Mm.of f.ins).out + n * (Mm.of f.ins).outStride) ((Mm.of f.ins).fo.rowBytes r.length) =
        encodeRow (Mm.of f.ins).fo (f.srIn (f.ins.rnd.getD .rne)) point n
          (u.bytes (ledgeAt c (Mm.of f.ins).out + n * (Mm.of f.ins).outStride) ((Mm.of f.ins).fo.rowBytes r.length)) r) := by
  subst hu
  have he : (s.mmRan c q f).1 = (((s.mmReady c q f (mmNeed f)).mmKept c q (s.mmStarted c q f)).writeRows (Mm.of f.ins).fo
      (f.srIn (f.ins.rnd.getD .rne)) point (ledgeAt c (Mm.of f.ins).out) (Mm.of f.ins).outStride rows).chainWrites c ws :=
    State.mmRun_drains (f := s.mmStarted c q f) hk ho hx h
  have hready := (State.readies_mmReady s c q f (mmNeed f)).bytes
  obtain ⟨-, hmem, -⟩ := State.mmKept_rest (s.mmReady c q f (mmNeed f)) c q (s.mmStarted c q f)
  rw [he]
  generalize (s.mmReady c q f (mmNeed f)).mmKept c q (s.mmStarted c q f) = t at *
  generalize s.mmReady c q f (mmNeed f) = u at *
  refine ⟨State.bytesBut_trans (State.bytesBut_trans (State.bytesBut_congr hready hmem) (State.wrote_writeRows ..).2.1)
    (State.wrote_chainWrites ..).2.1, ?_⟩
  rintro rfl hs n r hr
  rw [← State.bytes_congr (State.byte_congr hmem)]
  exact State.bytes_writeRows t _ _ _ _ _ rows hs hr
end

/-- Settles O13: a MATMUL enters its array with its first block ACTIVE, and where it drains to it leaves its rows. -/
theorem productResults : Obligations.ProductResults := by
  unfold Obligations.ProductResults
  rintro s c q i x f u sums o spill h rfl ho hf hw hc hz hF hg hl hu rfl rfl hspill
  replace hF : f = s.mmFlight c q i := hF
  have hins : f.ins = i := by rw [hF]; rfl
  have hpend : f.done = false ∧ f.status = .ok := by rw [hF]; exact ⟨rfl, rfl⟩
  have hhead : f.blocks.head? = some ((Mm.of i).tag ((Mm.of i).blockAddr f.k 0 0)) := by
    rw [hF]
    exact Mm.tags_head _ (State.extent_pos hz (by decide) (Nat.succ_pos _)) (State.extent_pos hz (by decide) (Nat.succ_pos _))
      (State.extent_pos hz (by decide) (Nat.succ_pos _))
  obtain ⟨t, ht, hent, hmem, hcore, bytes, harr⟩ := State.matmul_enters h ho hf hw hc hz (hF ▸ hg) hl
  rw [← hF] at hent hmem hcore harr
  clear hF
  subst hins
  have hflight := State.mmRan_flight s c q f
  obtain ⟨hfirst, hbank, hkept, -⟩ := ArraySt.enter_active (((s.mmRan c q f).1.core c).arr (Mm.of f.ins).array) f bytes
  rw [← harr] at hfirst hbank hkept
  have hran := State.mmRan_arr s c q f (Mm.array_lt f.ins)
  refine ⟨t, _, ht, hent, ?ins, ?m, ?n, ?k, ?pending, ?ungated, rfl, ?total, fun hb hx => ?ok, fun b hb => ?bad, ?bank, fun hk => ?keep,
    fun hk hs => ?score, fun hk hs hx => ?exact, fun hk hs hx rows point ws hd => ?drain⟩
  case ins => rw [hflight]; rfl
  case m => rw [hflight]
  case n => rw [hflight]
  case k => rw [hflight]
  case pending => rw [hflight]; exact hpend.1
  case ungated => rw [hflight]
  case total => rw [hflight]
  case ok =>
    subst hu
    obtain ⟨hst, hwm⟩ := State.mmRan_ok hb hx
    exact ⟨hst.trans hpend.2, hwm⟩
  case bad =>
    subst hu
    exact State.mmRan_bad hb
  case bank =>
    dsimp only
    rw [hfirst, hbank, hran]
    exact ⟨rfl, rfl, hhead⟩
  case keep =>
    rw [hspill, hkept, hran]
    exact ⟨State.bytesBut_congr (State.mmRan_keeps hk) hmem, State.mmTiles_own hk⟩
  case score =>
    obtain ⟨hbytes, hscore, hmax, hvalid, himage⟩ := State.mmRan_scores (s := s) (c := c) (q := q.val) (f := f) hk hs hu
    rw [hspill]
    refine ⟨State.bytesBut_congr hbytes hmem, ?_⟩
    rintro w rfl
    rw [hcore]
    exact ⟨hscore, hmax, hvalid, himage⟩
  case exact =>
    subst hu
    rw [hspill]
    exact State.bytesBut_congr (State.mmRan_exact hk hs hx) hmem
  case drain =>
    obtain ⟨hbytes, hrows⟩ := State.mmRan_drains (s := s) (c := c) (q := q.val) (f := f) hk hs hx hu hd
    rw [hspill]
    refine ⟨State.bytesBut_congr hbytes hmem, fun hws hstride n r hr => ?_⟩
    rw [State.bytes_congr (State.byte_congr hmem)]
    exact hrows hws hstride n r hr

/-! ### The shape of a matrix -/

/-- The matrix has at most so many rows, of at most so many elements each. -/
def Mat.fits (m : Mat) (rows cols : Nat) : Prop := m.length ≤ rows ∧ ∀ r ∈ m, r.length ≤ cols

theorem Mat.fits_mono {m : Mat} {a b rows cols : Nat} (h : m.fits a b) (ha : a ≤ rows) (hb : b ≤ cols) : m.fits rows cols :=
  ⟨h.1.trans ha, fun r hr => (h.2 r hr).trans hb⟩

theorem Mat.fits_nil (rows cols : Nat) : Mat.fits [] rows cols := ⟨Nat.zero_le _, fun _ h => absurd h List.not_mem_nil⟩

theorem Mat.fits_map_range {rows cols : Nat} {g : Nat → List FVal} (h : ∀ i, (g i).length ≤ cols) :
    Mat.fits ((List.range rows).map g) rows cols := by
  refine ⟨by rw [List.length_map, List.length_range], fun r hr => ?_⟩
  obtain ⟨i, -, rfl⟩ := List.mem_map.1 hr
  exact h i

theorem Mat.fits_build (rows cols : Nat) (f : Nat → Nat → FVal) : (Mat.build rows cols f).fits rows cols :=
  Mat.fits_map_range (fun i => by rw [List.length_map, List.length_range])

theorem State.fits_readRows (s : State) (f : Fmt) (a stride rows n : Nat) : (s.readRows f a stride rows n).fits rows n :=
  Mat.fits_map_range (fun i => by rw [decodeRow, decodeSpan, List.length_map, List.length_range])

/-- A matrix whose rows are changed one by one, each to at most its length. -/
theorem Mat.fits_map_zipIdx {m : Mat} {rows cols : Nat} {g : List FVal × Nat → List FVal} (h : m.fits rows cols)
    (hg : ∀ p, (g p).length ≤ p.1.length) : Mat.fits (m.zipIdx.map g) rows cols := by
  refine ⟨by rw [List.length_map, List.length_zipIdx]; exact h.1, fun r hr => ?_⟩
  obtain ⟨p, hp, rfl⟩ := List.mem_map.1 hr
  exact (hg p).trans (h.2 p.1 (List.fst_mem_of_mem_zipIdx hp))

theorem flatten_chunksOf {α : Type} {n : Nat} (hn : 0 < n) (l : List α) (fuel : Nat) (h : l.length < fuel) :
    (chunksOf n l fuel).flatten = l := by
  induction fuel generalizing l with
  | zero => exact absurd h (Nat.not_lt_zero _)
  | succ fuel ih =>
    rw [chunksOf]
    split
    · next he => rw [List.isEmpty_iff.1 he]; rfl
    · next he =>
      have hl : 0 < l.length := List.length_pos_iff.2 (fun e => he (List.isEmpty_iff.2 e))
      rw [List.flatten_cons, ih _ (by rw [List.length_drop]; omega), List.take_append_drop]

theorem length_flatten_map_zipIdx {α β : Type} (l : List (List α)) {g : List α × Nat → List β} (h : ∀ p, (g p).length = p.1.length) :
    ((l.zipIdx.map g).flatten).length = l.flatten.length := by
  have hg : List.length ∘ g = List.length ∘ Prod.fst := funext h
  rw [List.length_flatten, List.length_flatten, List.map_map, hg, ← List.map_map, List.zipIdx_map_fst]

theorem Mat.fits_roundTo {m : Mat} {rows cols : Nat} (h : m.fits rows cols) (f : Fmt) (x : SrIn) (point : Nat) :
    (m.roundTo f x point).fits rows cols := by
  have hidx (g : Nat → Nat → FVal → FVal) : (Mat.mapIdx m g).fits rows cols :=
    Mat.fits_map_zipIdx h (fun p => by rw [List.length_map, List.length_zipIdx])
  unfold Mat.roundTo
  split
  · refine Mat.fits_map_zipIdx h (fun p => le_of_eq ?_)
    rw [length_flatten_map_zipIdx _ (fun b => by rw [List.length_map, List.length_zipIdx]),
      flatten_chunksOf (by decide) p.1 _ (Nat.lt_succ_self _)]
  · exact hidx _

/-! ### Rows in a format -/

theorem ceilDiv_mono {a b : Nat} (h : a ≤ b) (n : Nat) : ceilDiv a n ≤ ceilDiv b n :=
  Nat.div_le_div_right (by omega)

theorem Fmt.rowBytes_mono (f : Fmt) {a b : Nat} (h : a ≤ b) : f.rowBytes a ≤ f.rowBytes b := by
  unfold Fmt.rowBytes
  refine Nat.add_le_add (ceilDiv_mono (Nat.mul_le_mul_right _ h) 8) ?_
  split
  · exact ceilDiv_mono h 32
  · exact le_rfl

/-! ### Writes within a range of a core's Ledge -/

/-- From s to t memory has been written within a range of bytes, and nothing else has changed but the free values drawn. -/
structure State.wroteIn (s t : State) (r : Nat × Nat) : Prop where
  bytes : s.bytesBut t [r]
  rest : t = { s with mem := t.mem, bad := t.bad, freeIx := t.freeIx }

theorem State.wroteIn_refl (s : State) (r : Nat × Nat) : s.wroteIn s r := ⟨fun _ _ => rfl, rfl⟩

theorem State.wroteIn_trans {s t u : State} {r : Nat × Nat} (h : s.wroteIn t r) (k : t.wroteIn u r) : s.wroteIn u r :=
  ⟨fun a ha => (k.bytes a ha).trans (h.bytes a ha), by rw [k.rest, h.rest]⟩

theorem State.wroteIn_foldl {α : Type} {f : State → α → State} {r : Nat × Nat} (l : List α) (h : ∀ (s : State), ∀ x ∈ l, s.wroteIn (f s x) r)
    (s : State) : s.wroteIn (l.foldl f s) r := by
  induction l generalizing s with
  | nil => exact State.wroteIn_refl s r
  | cons x l ih =>
    exact State.wroteIn_trans (h s x List.mem_cons_self) (ih (fun s y hy => h s y (List.mem_cons_of_mem _ hy)) _)

theorem State.wroteIn_store (s : State) {c : Fin 36} {off n a : Nat} {bs : List Byte} (ha : ledgeAt c off ≤ a)
    (hn : a + bs.length ≤ ledgeAt c off + n) : s.wroteIn (s.store a bs) (ledgeAt c off, n) := by
  have hw := State.wrote_store s a bs
  have hl : harbourAddr a = false := by
    obtain ⟨o, rfl⟩ : ∃ o, a = ledgeAt c o := ⟨a - ledgeBase c.val, by unfold ledgeAt at *; omega⟩
    exact harbourAddr_ledgeAt c o
  have he := hw.2.2 (fun r hr => by rw [List.mem_singleton.1 hr]; exact hl)
  exact ⟨State.bytesBut_store (fun _ _ => rfl) ⟨_, List.mem_singleton_self _, ha, hn⟩, by rw [he]⟩

theorem State.wroteIn_scramble (s : State) {c : Fin 36} {off n a l : Nat} (ha : ledgeAt c off ≤ a) (hn : a + l ≤ ledgeAt c off + n) :
    s.wroteIn (s.scramble a l) (ledgeAt c off, n) := by
  refine ⟨fun b hb => State.byte_scramble_other s (fun h => hb _ (List.mem_singleton_self _) ?_), rfl⟩
  dsimp only
  omega

theorem State.works_of_wroteIn {s t : State} {r : Nat × Nat} (h : s.wroteIn t r) (c : Fin 36) : s.works t c [] :=
  State.works_of_mem h.rest c []

/-- Rows of a matrix written at a stride stay within a range that holds the last of them. -/
theorem State.wroteIn_writeRows (s : State) {c : Fin 36} {off n a stride rows cols : Nat} {m : Mat} (f : Fmt) (x : SrIn) (point : Nat)
    (h : m.fits rows cols) (ha : ledgeAt c off ≤ a) (hs : f.rowBytes cols ≤ stride) (hn : a + rows * stride ≤ ledgeAt c off + n) :
    s.wroteIn (s.writeRows f x point a stride m) (ledgeAt c off, n) := by
  unfold State.writeRows
  refine State.wroteIn_foldl _ (fun s p hp => ?_) s
  have hlt : p.2 < m.length := List.snd_lt_of_mem_zipIdx hp
  have hlen := (f.rowBytes_mono (h.2 p.1 (List.fst_mem_of_mem_zipIdx hp))).trans hs
  have hmul : (p.2 + 1) * stride ≤ rows * stride := Nat.mul_le_mul_right _ (hlt.trans_le h.1)
  rw [Nat.succ_mul] at hmul
  refine State.wroteIn_store s (by omega) ?_
  rw [encodeRow_length]
  omega

/-! ### What the chunks of an RSTEP leave (R171 to R177) -/

/-- The extents of an RSTEP at run time lie within those planned. -/
structure RsIn.planned (v : RsIn) : Prop where
  rows : v.m ≤ v.x.m
  positions : v.k ≤ v.x.k

theorem length_take_append_drop {α : Type} {a b : List α} (p : Nat) (h : a.length = b.length) : (a.take p ++ b.drop p).length = b.length := by
  rw [List.length_append, List.length_take, List.length_drop]
  omega

/-- A chunk of a long convolution leaves n outputs and the 64 columns of its state for each row. -/
theorem State.convChunk_fits (s : State) (v : RsIn) (p0 n : Nat) (h : Mat) :
    (s.convChunk v p0 n h).y.fits v.m n ∧ (s.convChunk v p0 n h).h.fits v.m 64 := by
  unfold State.convChunk
  dsimp only
  generalize hg : (fun r : Nat => (_ : List (BitVec 96))) = g
  have hlen (r : Nat) : (g r).length = v.x.len + 64 := by
    rw [← hg]
    dsimp only
    split
    · rw [List.length_map, List.length_range]
    · rw [length_take_append_drop _ (by simp only [List.length_map]), List.length_map, List.length_range]
  simp only [List.map_map]
  constructor
  · exact Mat.fits_map_range (fun r => by
      rw [Function.comp_apply, List.length_map, List.length_take]; exact min_le_left ..)
  · exact Mat.fits_map_range (fun r => by
      rw [Function.comp_apply, List.length_map, List.length_drop, hlen]; omega)

/-- A position of a gated cell leaves a row of its width for each row. -/
theorem State.cellStep_fits (s : State) (v : RsIn) (p : Nat) (h c fed : Mat) :
    (s.cellStep v p h c fed).1.fits v.m v.x.n ∧ (s.cellStep v p h c fed).2.1.fits v.m v.x.n := by
  unfold State.cellStep
  dsimp only
  simp only [List.map_map]
  constructor <;> exact Mat.fits_map_range (fun r => by simp)

theorem State.cellRun_fits (s : State) (v : RsIn) (n p : Nat) {h c fed : Mat} {o : ChunkOut} {rows : Nat} (hh : h.fits v.m v.x.n)
    (hc : c.fits v.m v.x.n) (hy : o.y.fits rows v.x.n) :
    (s.cellRun v n p h c fed o).y.fits (rows + n * v.m) v.x.n ∧ (s.cellRun v n p h c fed o).h.fits v.m v.x.n ∧
      (s.cellRun v n p h c fed o).c.fits v.m v.x.n := by
  induction n generalizing p h c fed o rows with
  | zero => exact ⟨Mat.fits_mono hy (Nat.le_add_right ..) le_rfl, hh, hc⟩
  | succ n ih =>
    rw [State.cellRun]
    obtain ⟨h1, h2⟩ := State.cellStep_fits s v p h c fed
    generalize s.cellStep v p h c fed = r at *
    obtain ⟨h', c', fed', sat⟩ := r
    have hy' : Mat.fits (o.y ++ h') (rows + v.m) v.x.n :=
      ⟨by rw [List.length_append]; exact Nat.add_le_add hy.1 h1.1, fun r hr => (List.mem_append.1 hr).elim (hy.2 r) (h1.2 r)⟩
    have := ih (p := p + 1) (fed := fed') (o := { o with
      y := o.y ++ h', sat := o.sat || sat, resets := o.resets + ((List.range v.m).filter (s.rsReset v p)).length,
      groups := o.groups + ceilDiv v.m (rowsPerGroup v.x.fa) }) h1 h2 hy'
    rwa [Nat.add_assoc, Nat.add_comm v.m, ← Nat.succ_mul] at this

/-- The outputs of a chunk of n positions fit their places in the output rows. -/
def RsIn.outFits (v : RsIn) (n : Nat) (y : Mat) : Prop := if v.x.gated then y.fits (n * v.m) v.x.n else y.fits v.m n

theorem State.rsChunk_fits (s : State) (v : RsIn) (p0 n : Nat) {h c : Mat} (hh : h.fits v.m v.x.cols) (hc : c.fits v.m v.x.cols) :
    v.outFits n (s.rsChunk v p0 n h c).y ∧ (s.rsChunk v p0 n h c).h.fits v.m v.x.cols ∧ (s.rsChunk v p0 n h c).c.fits v.m v.x.cols := by
  unfold State.rsChunk RsIn.outFits
  unfold Rs.cols at *
  cases hg : v.x.gated with
  | true =>
    simp only [hg, if_true] at *
    have := State.cellRun_fits s v n p0 (fed := h) (o := { y := [], h := [], c := [], blocks := if p0 = 0 then [(0, 0)] else [] }) hh hc
      (Mat.fits_nil 0 v.x.n)
    rwa [Nat.zero_add] at this
  | false =>
    simp only [Bool.false_eq_true, if_false] at *
    obtain ⟨hy, hs⟩ := State.convChunk_fits s v p0 n h
    exact ⟨hy, hs, Mat.fits_nil v.m 64⟩

/-- The range of bytes an RSTEP may write: its outputs and its state image. -/
def Rs.outRange (x : Rs) (c : Fin 36) : Nat × Nat := (ledgeAt c x.out, x.outSpan)

theorem Rs.lastRow_le (x : Rs) {rows : Nat} {i : Nat} (hr : rows = if x.gated then x.k * x.m else x.m) (h : i < rows) :
    i * x.outStride + x.fo.rowBytes x.outRow ≤ x.outSpan := by
  have hi : i ≤ if x.gated then x.k * x.m - 1 else x.m - 1 := by
    subst hr
    split
    · next hg => rw [if_pos hg] at h; omega
    · next hg => rw [if_neg hg] at h; omega
  exact le_trans (Nat.add_le_add_right (Nat.mul_le_mul_right x.outStride hi) _) (le_max_right _ _)

/-- The place of one position of a gated cell's output row among all of them. -/
theorem cellRow_lt {p0 n k m M i : Nat} (hi : i < n * m) (hm : m ≤ M) (hk : p0 + n ≤ k) : (p0 + i / m) * M + i % m < k * M := by
  have hpos : 0 < m := Nat.pos_of_mul_pos_left (Nat.zero_lt_of_lt hi)
  have hdiv : i / m < n := (Nat.div_lt_iff_lt_mul hpos).2 hi
  have hmod := Nat.mod_lt i hpos
  have hmul : (p0 + i / m + 1) * M ≤ k * M := Nat.mul_le_mul_right _ (by omega)
  rw [Nat.succ_mul] at hmul
  omega

/-- The bytes of a chunk's elements within its row, in a format whose rows carry no scales. -/
theorem partRow_le {w p0 n k : Nat} (hp : 8 ∣ p0) (hk : p0 + n ≤ k) : p0 * w / 8 + ceilDiv (n * w) 8 ≤ ceilDiv (k * w) 8 := by
  obtain ⟨p, rfl⟩ := hp
  have hmul : (8 * p + n) * w ≤ k * w := Nat.mul_le_mul_right _ hk
  rw [Nat.add_mul, Nat.mul_assoc] at hmul
  rw [Nat.mul_assoc, Nat.mul_div_cancel_left _ (by decide)]
  unfold ceilDiv
  omega

/-- A chunk's outputs are written within the output range. -/
theorem State.wroteIn_rsWriteY (s : State) {v : RsIn} {p0 n : Nat} {y : Mat} (hv : v.planned) (hp : 64 ∣ p0) (hn : p0 + n ≤ v.k)
    (hy : v.outFits n y) : s.wroteIn (s.rsWriteY v p0 y) (v.x.outRange v.core) := by
  have hk := hn.trans hv.positions
  unfold State.rsWriteY RsIn.outFits Rs.outRange at *
  dsimp only
  cases hg : v.x.gated with
  | true =>
    simp only [hg, if_true] at hy ⊢
    refine State.wroteIn_foldl _ (fun s r hr => ?_) s
    have hi := (List.snd_lt_of_mem_zipIdx hr).trans_le hy.1
    have hlen := v.x.fo.rowBytes_mono (hy.2 r.1 (List.fst_mem_of_mem_zipIdx hr))
    have hlast := v.x.lastRow_le (by rw [hg]; rfl) (cellRow_lt hi hv.rows hk)
    rw [show v.x.outRow = v.x.n by rw [Rs.outRow, hg]; rfl] at hlast
    refine State.wroteIn_store s (by unfold ledgeAt; omega) ?_
    rw [encodeRow_length]
    unfold ledgeAt
    omega
  | false =>
    simp only [hg, Bool.false_eq_true, if_false] at hy ⊢
    refine State.wroteIn_foldl _ (fun s r hr => ?_) s
    have hi := ((List.snd_lt_of_mem_zipIdx hr).trans_le hy.1).trans_le hv.rows
    have hlen := hy.2 r.1 (List.fst_mem_of_mem_zipIdx hr)
    have hlast := v.x.lastRow_le (by rw [hg]; rfl) hi
    rw [show v.x.outRow = v.x.k by rw [Rs.outRow, hg]; rfl, Fmt.rowBytes] at hlast
    have hpart := partRow_le (w := v.x.fo.width) ((by decide : 8 ∣ 64).trans hp) ((Nat.add_le_add_left hlen p0).trans hk)
    split
    · next he =>
      rw [he, show Fmt.width .e2m1 = 4 from rfl] at hlast hpart
      rw [if_pos rfl] at hlast
      have hscale : p0 / 32 + ceilDiv r.1.length 32 ≤ ceilDiv v.x.k 32 := by unfold ceilDiv; omega
      have hhalf : ceilDiv v.x.k 2 = ceilDiv (v.x.k * 4) 8 := by unfold ceilDiv; omega
      refine State.wroteIn_trans (State.wroteIn_store s (by unfold ledgeAt; omega) ?_) (State.wroteIn_store _ (by unfold ledgeAt; omega) ?_)
      · rw [List.length_take, he, show Fmt.width .e2m1 = 4 from rfl]
        unfold ledgeAt
        omega
      · rw [List.length_drop, encodeRow_length, Fmt.rowBytes, he, if_pos rfl, show Fmt.width .e2m1 = 4 from rfl]
        unfold ledgeAt
        omega
    · next he =>
      refine State.wroteIn_store s (by unfold ledgeAt; omega) ?_
      rw [encodeRow_length, Fmt.rowBytes, if_neg he]
      unfold ledgeAt
      omega

/-- The chunks write within the output range, and the state they hand on keeps its shape. -/
theorem State.rsRun_keeps {v : RsIn} (hv : v.planned) (fuel j : Nat) {s : State} {o : RsOut} (hh : o.h.fits v.m v.x.cols)
    (hc : o.c.fits v.m v.x.cols) :
    s.wroteIn (s.rsRun v fuel j o).s (v.x.outRange v.core) ∧ (s.rsRun v fuel j o).h.fits v.m v.x.cols ∧
      (s.rsRun v fuel j o).c.fits v.m v.x.cols := by
  induction fuel generalizing s j o with
  | zero => exact ⟨State.wroteIn_refl s _, hh, hc⟩
  | succ fuel ih =>
    have hstay : s.wroteIn s (v.x.outRange v.core) ∧ o.h.fits v.m v.x.cols ∧ o.c.fits v.m v.x.cols := ⟨State.wroteIn_refl s _, hh, hc⟩
    rw [State.rsRun]
    dsimp only
    by_cases hk : v.k ≤ j * v.x.len
    · rw [if_pos hk]; exact hstay
    rw [if_neg hk]
    split
    · exact hstay
    split
    · exact hstay
    split
    · exact hstay
    split
    · exact hstay
    obtain ⟨hy, hh', hc'⟩ := State.rsChunk_fits s v (j * v.x.len) (min v.x.len (v.k - j * v.x.len)) hh hc
    have hp : 64 ∣ j * v.x.len := Dvd.dvd.mul_left (Dvd.intro _ rfl) j
    have hw := State.wroteIn_rsWriteY s hv hp (by omega) hy
    refine (ih (j + 1) (Mat.fits_roundTo hh' ..) ?_).imp_left (State.wroteIn_trans hw)
    dsimp only
    split
    · exact Mat.fits_roundTo hc' ..
    · exact Mat.fits_nil ..

/-! ### The carried state (R172, R178) -/

theorem State.readImage_fits (s : State) (v : RsIn) (m a : Nat) :
    (s.readImage v m a).1.fits m v.x.cols ∧ (s.readImage v m a).2.fits m v.x.cols := by
  unfold State.readImage
  dsimp only
  refine ⟨State.fits_readRows .., ?_⟩
  split
  · exact State.fits_readRows ..
  · exact Mat.fits_nil ..

theorem State.rsEnter_fits (s : State) (q : Nat) (v : RsIn) :
    (s.rsEnter q v).1.fits v.m v.x.cols ∧ (s.rsEnter q v).2.fits v.m v.x.cols := by
  have hbuild (g : Nat → Nat → FVal) : Mat.fits (if v.x.hasC then Mat.build v.m v.x.cols g else []) v.m v.x.cols := by
    split
    · exact Mat.fits_build ..
    · exact Mat.fits_nil ..
  unfold State.rsEnter
  dsimp only
  split
  · split
    · exact ⟨Mat.fits_build .., hbuild _⟩
    · exact ⟨Mat.fits_nil .., Mat.fits_nil ..⟩
  · exact State.readImage_fits ..
  · exact ⟨Mat.fits_build .., hbuild _⟩

theorem Rs.imageRow_ge (x : Rs) : x.fa.rowBytes x.cols ≤ x.imageRow := by
  unfold Rs.imageRow ceilDiv
  omega

/-- The state image lies within the output range. -/
theorem State.wroteIn_writeImage (s : State) {v : RsIn} {h c : Mat} (hv : v.planned) (hh : h.fits v.m v.x.cols) (hc : c.fits v.m v.x.cols) :
    s.wroteIn (s.writeImage v (v.x.out + v.x.outBytes) h c) (v.x.outRange v.core) := by
  have hspan : v.x.outBytes + v.x.imageBytes ≤ v.x.outSpan := le_max_left ..
  have hrow := v.x.imageRow_ge
  have hm := hv.rows
  unfold Rs.imageBytes at hspan
  rw [Nat.mul_comm v.x.imageRow] at hspan
  unfold State.writeImage Rs.outRange
  dsimp only
  split
  · next hC =>
    rw [if_pos hC] at hspan
    exact State.wroteIn_trans
      (State.wroteIn_writeRows s _ _ _ (Mat.fits_mono hh hm le_rfl) (by unfold ledgeAt; omega) hrow (by unfold ledgeAt; omega))
      (State.wroteIn_writeRows _ _ _ _ (Mat.fits_mono hc hm le_rfl) (by unfold ledgeAt; omega) hrow (by unfold ledgeAt; omega))
  · next hC =>
    rw [if_neg hC] at hspan
    exact State.wroteIn_writeRows s _ _ _ (Mat.fits_mono hh hm le_rfl) (by unfold ledgeAt; omega) hrow (by unfold ledgeAt; omega)

/-! ### How an RSTEP runs (R169, R173 to R184) -/

/-- What an array carries after an RSTEP. -/
def State.rsCarried (s : State) (c : Fin 36) (q : Nat) (f : Flight) : List Carried :=
  let x := Rs.of f.ins
  let o := s.rsOut c q f
  let others := ((o.s.core c).arr x.array).carried.filter (fun t => !(t.queue = q && t.unit < x.unit + x.su && x.unit < t.unit + t.su))
  if o.status == .ok && x.keep then
    others ++ [{ queue := q, gated := x.gated, unit := x.unit, su := x.su, fmt := x.aF,
                 vals := packMat carriedC o.c (packMat 0 o.h (s.rsBase q (s.rsIn c q f))) }]
  else others

/-- The state of an RSTEP whose chunks have run, with what it carries on in its array. -/
def State.rsKept (s : State) (c : Fin 36) (q : Nat) (f : Flight) : State :=
  let x := Rs.of f.ins
  let o := s.rsOut c q f
  o.s.setCore c ((o.s.core c).setArr x.array { (o.s.core c).arr x.array with carried := s.rsCarried c q f })

/-- The memory an RSTEP leaves: its state image is written where it does not keep its state. -/
def State.rsImage (s : State) (c : Fin 36) (q : Nat) (f : Flight) (t : State) : State :=
  let x := Rs.of f.ins
  let o := s.rsOut c q f
  if x.keep then t
  else if o.status == .ok then t.writeImage (s.rsIn c q f) (x.out + x.outBytes) o.h o.c
  else t.scramble (ledgeAt c (x.out + x.outBytes)) x.imageBytes

theorem State.rsStart_eq (s : State) (c : Fin 36) (q : Nat) (f : Flight) :
    (s.rsStart c q f).1 = s.rsImage c q f (s.rsKept c q f) := by
  unfold State.rsStart State.rsImage State.rsKept State.rsCarried
  rfl

/-- What rows leave in memory is fixed by the memory they are written to. -/
theorem State.byte_writeRows_congr {s t : State} (h : ∀ a, t.byte a = s.byte a) (f : Fmt) (x : SrIn) (point b stride : Nat) (m : Mat) (a : Nat) :
    (t.writeRows f x point b stride m).byte a = (s.writeRows f x point b stride m).byte a := by
  unfold State.writeRows
  generalize m.zipIdx = l
  induction l generalizing s t with
  | nil => exact h a
  | cons p l ih =>
    refine ih (fun a => ?_)
    dsimp only
    rw [State.byte_store, State.byte_store, h, State.bytes_congr h]

theorem State.byte_writeImage_congr {s t : State} (h : ∀ a, t.byte a = s.byte a) (v : RsIn) (b : Nat) (k l : Mat) (a : Nat) :
    (t.writeImage v b k l).byte a = (s.writeImage v b k l).byte a := by
  unfold State.writeImage
  dsimp only
  split
  · exact State.byte_writeRows_congr (fun a => State.byte_writeRows_congr h ..) ..
  · exact State.byte_writeRows_congr h ..

section
variable {s : State} {c : Fin 36} {q : Nat} {f : Flight}

theorem State.byte_rsKept (a : Nat) : (s.rsKept c q f).byte a = (s.rsOut c q f).s.byte a := rfl

theorem State.rsOut_keeps (hv : (s.rsIn c q f).planned) :
    s.wroteIn (s.rsOut c q f).s ((Rs.of f.ins).outRange c) ∧ (s.rsOut c q f).h.fits (s.rsIn c q f).m (Rs.of f.ins).cols ∧
      (s.rsOut c q f).c.fits (s.rsIn c q f).m (Rs.of f.ins).cols := by
  obtain ⟨hh, hc⟩ := State.rsEnter_fits s q (s.rsIn c q f)
  exact State.rsRun_keeps hv _ 0 hh hc

/-- The image an RSTEP leaves stands in its output range. -/
theorem State.wroteIn_rsImage (hv : (s.rsIn c q f).planned) (t : State) : t.wroteIn (s.rsImage c q f t) ((Rs.of f.ins).outRange c) := by
  obtain ⟨-, hh, hc⟩ := State.rsOut_keeps hv
  have hspan : (Rs.of f.ins).outBytes + (Rs.of f.ins).imageBytes ≤ (Rs.of f.ins).outSpan := le_max_left ..
  unfold State.rsImage
  dsimp only
  split
  · exact State.wroteIn_refl t _
  · split
    · exact State.wroteIn_writeImage t hv hh hc
    · exact State.wroteIn_scramble t (by unfold ledgeAt; omega) (by unfold ledgeAt; omega)

/-- An RSTEP writes within its output range, and nothing else of the device changes but the state its array carries. -/
theorem State.works_rsStart (hv : (s.rsIn c q f).planned) :
    s.works (s.rsStart c q f).1 c [] ∧ s.bytesBut (s.rsStart c q f).1 [(Rs.of f.ins).outRange c] := by
  obtain ⟨hout, -, -⟩ := State.rsOut_keeps hv
  have himage := State.wroteIn_rsImage hv (s.rsKept c q f)
  have hkept : (s.rsOut c q f).s.works (s.rsKept c q f) c [] := State.works_setArr _ c [] _ _
  rw [State.rsStart_eq]
  exact ⟨State.works_trans (State.works_of_wroteIn hout c) (State.works_trans hkept (State.works_of_wroteIn himage c)),
    fun a ha => (himage.bytes a ha).trans (hout.bytes a ha)⟩

/-- The bytes an RSTEP that ends with OK leaves. -/
theorem State.byte_rsStart (hok : (s.rsOut c q f).status = .ok) (a : Nat) :
    (s.rsStart c q f).1.byte a = (if (Rs.of f.ins).keep then (s.rsOut c q f).s
      else (s.rsOut c q f).s.writeImage (s.rsIn c q f) ((Rs.of f.ins).out + (Rs.of f.ins).outBytes) (s.rsOut c q f).h (s.rsOut c q f).c).byte a := by
  rw [State.rsStart_eq]
  unfold State.rsImage
  dsimp only
  rw [hok]
  split
  · rfl
  · exact State.byte_writeImage_congr State.byte_rsKept ..

/-- An RSTEP that ends with OK and keeps its state carries it in its array. -/
theorem State.rsCarried_own (hok : (s.rsOut c q f).status = .ok) (hk : (Rs.of f.ins).keep = true) :
    ∃ k ∈ s.rsCarried c q f, k.queue = q ∧ k.gated = (Rs.of f.ins).gated ∧ k.unit = (Rs.of f.ins).unit ∧ k.su = (Rs.of f.ins).su ∧
      k.fmt = (Rs.of f.ins).aF ∧
      k.vals = packMat carriedC (s.rsOut c q f).c (packMat 0 (s.rsOut c q f).h (s.rsBase q (s.rsIn c q f))) := by
  unfold State.rsCarried
  simp only [hok, hk, beq_self_eq_true, Bool.and_self, if_true]
  exact ⟨_, List.mem_append_right _ (List.mem_singleton_self _), rfl, rfl, rfl, rfl, rfl, rfl⟩

/-- An RSTEP's state image leaves the arrays as the chunks left them. -/
theorem State.arr_rsStart (hv : (s.rsIn c q f).planned) (ha : (Rs.of f.ins).array < 2) :
    (((s.rsStart c q f).1.core c).arr (Rs.of f.ins).array).carried = s.rsCarried c q f := by
  have hcores : (s.rsImage c q f (s.rsKept c q f)).cores = (s.rsKept c q f).cores := by
    rw [(State.wroteIn_rsImage hv (s.rsKept c q f)).rest]
  rw [State.rsStart_eq, State.core_congr hcores, State.rsKept, State.core_setCore_same, Core.arr_setArr _ _ ha ha, if_pos rfl]

theorem State.rsStart_flight : (s.rsStart c q f).2 = { f with
    total := ceilDiv f.k (Rs.of f.ins).len, wm := (s.rsOut c q f).done, status := (s.rsOut c q f).status,
    atEnd := (s.rsStart c q f).2.atEnd, scAtEnd := (s.rsStart c q f).2.scAtEnd, old := (s.rsStart c q f).2.old,
    units := (s.rsStart c q f).2.units, chunks := (s.rsOut c q f).notes, counts := (s.rsStart c q f).2.counts,
    blocks := (s.rsStart c q f).2.blocks } := rfl

/-- The drifts of its rows that an RSTEP logs at its end (R184). -/
theorem State.rsStart_atEnd (hv : (s.rsIn c q f).planned) : (s.rsStart c q f).2.atEnd = f.atEnd ++
    if (s.rsOut c q f).status = .ok ∧ bit1 (s.rd (.recurrent c) .recurCtrl 0) 2 = true ∧
        bit1 (s.rd (.recurrent c) .driftLog 0) 18 = true then
      [(64 * bits (s.rd (.recurrent c) .driftLog 0) 17 0, vecBytes (s.rsOut c q f).rows)] else [] := by
  have hlog : (s.rsStart c q f).1.rd (.recurrent c) .driftLog 0 = s.rd (.recurrent c) .driftLog 0 :=
    State.works_rd (State.works_rsStart hv).1 List.not_mem_nil
  have h : (s.rsStart c q f).2.atEnd = f.atEnd ++
      if (bit1 (s.rd (.recurrent c) .recurCtrl 0) 2 && (s.rsOut c q f).status == .ok) &&
          bit1 ((s.rsStart c q f).1.rd (.recurrent c) .driftLog 0) 18 then
        [(64 * bits ((s.rsStart c q f).1.rd (.recurrent c) .driftLog 0) 17 0, vecBytes (s.rsOut c q f).rows)] else [] := rfl
  rw [h, hlog]
  simp only [Bool.and_eq_true, beq_iff_eq, and_assoc, and_left_comm]

/-- The largest drift that an RSTEP leaves for a scalar register at its end (R184). -/
theorem State.rsStart_scAtEnd : (s.rsStart c q f).2.scAtEnd =
    if bit1 (s.rd (.recurrent c) .recurCtrl 0) 2 = true ∧ (s.rsOut c q f).status = .ok then
      some (bits (s.rd (.recurrent c) .recurCtrl 0) 6 3, (rne32 (s.rsOut c q f).drift).setWidth 64) else none := by
  have h : (s.rsStart c q f).2.scAtEnd =
      if bit1 (s.rd (.recurrent c) .recurCtrl 0) 2 && (s.rsOut c q f).status == .ok then
        some (bits (s.rd (.recurrent c) .recurCtrl 0) 6 3, (rne32 (s.rsOut c q f).drift).setWidth 64) else none := rfl
  rw [h]
  refine if_congr ?_ rfl rfl
  simp only [Bool.and_eq_true, beq_iff_eq]
end

/-! ### RSTEP (R60, R169, R173, R178, R184) -/

/-- The flight of an RSTEP that starts. -/
def State.rsFlight (s : State) (c : Fin 36) (q : Nat) (i : Ins) : Flight :=
  let x := Rs.of i
  s.withSr c q { started i (s.rsTouch c i) false with m := s.extent c q i 1 x.m, n := x.n, k := s.extent c q i 3 x.k, units := x.units }

theorem execRstep_runs {s : State} {c : Fin 36} {q : Fin 8} {i : Ins} (h : s.issues c q i) (ho : i.opcode = opRstep)
    (hf : (s.queue c q).flights = []) (hw : (s.core c).rsBankWait (Rs.of i) = false) (hc : s.rsCheck c q i = .ok)
    (hz : s.lenZero c q i = false) :
    exec (.rstep c q) s = .next (((s.rsStart c q (s.rsFlight c q i)).1.issue c q (s.rsStart c q (s.rsFlight c q i)).2 (i.pc + 32)).enterNext
      c q (Rs.of i).array) := by
  rw [exec_rstep, execRstep, State.awake_up h.up, State.row_issues h (by simp [ho]) (by rw [ho]; decide)
    (by rw [ho]; exact fun e => absurd e (by decide))]
  simp only [Queue.free_of_nil hf, hw, hc, hz, Bool.not_true, Bool.or_self, Bool.false_eq_true, ne_eq, not_true_eq_false, if_false]
  unfold State.rsFlight
  rfl

/-- A runtime extent that passes the length check is at most the planned one (R90). -/
theorem State.extent_le {s : State} {c : Fin 36} {q : Nat} {i : Ins} {ax p planned : Nat} (h : s.lenCheck c q i planned = .ok)
    (ha : ax ≠ 0) (hp : i.lenAxis = ax → planned = p) : s.extent c q i ax p ≤ p := by
  unfold State.extent
  split
  · next e =>
    unfold State.lenCheck at h
    rw [if_neg (by rw [e]; exact ha)] at h
    dsimp only at h
    split at h
    · cases h
    · split at h
      · cases h
      · next hle => rw [← hp e]; omega
  · exact le_rfl

theorem State.rsIn_planned {s : State} {c : Fin 36} {q : Nat} {i : Ins} (hc : s.rsCheck c q i = .ok) :
    (s.rsIn c q (s.rsFlight c q i)).planned := by
  have hl : s.lenCheck c q i (if i.lenAxis = 1 then (Rs.of i).m else (Rs.of i).k) = .ok := by
    unfold State.rsCheck at hc
    dsimp only at hc
    split at hc
    · cases hc
    · by_contra hne
      rw [if_pos hne] at hc
      exact hne hc
  exact ⟨State.extent_le hl (by decide) (fun e => if_pos e), State.extent_le hl (by decide) (fun e => if_neg (by rw [e]; decide))⟩

theorem Rs.array_lt (i : Ins) : (Rs.of i).array < 2 := bits_lt i.w1 54 54

/-- Settles O14: an RSTEP enters its array with what its chunks leave, and writes within its output range alone. -/
theorem recurrentStepResults : Obligations.RecurrentStepResults := by
  unfold Obligations.RecurrentStepResults
  rintro s c q i x f o h rfl ho hf hw hc hz hl hF rfl
  replace hF : f = s.rsFlight c q i := hF
  have hins : f.ins = i := by rw [hF]; rfl
  have hfresh : f.done = false ∧ f.gated = false ∧ f.visited = 0 ∧ f.atEnd = [] := by rw [hF]; exact ⟨rfl, rfl, rfl, rfl⟩
  have hv : (s.rsIn c q f).planned := by rw [hF]; exact State.rsIn_planned hc
  have hexec := execRstep_runs h ho hf hw hc hz
  rw [← hF] at hexec
  clear hF
  subst hins
  replace hexec : exec (.rstep c q) s = .next (((s.rsStart c q f).1.issue c q (s.rsStart c q f).2 ((s.rsStart c q f).2.pc + 32)).enterNext
    c q (Rs.of f.ins).array) := hexec
  obtain ⟨hpend, hopen, hwaits, hatEnd⟩ := hfresh
  have ha := Rs.array_lt f.ins
  obtain ⟨hworks, hbytes⟩ := State.works_rsStart hv
  have hon : (s.rsStart c q f).2.onArray (Rs.of f.ins).array = true := by
    rw [State.rsStart_flight]
    simp only [Flight.onArray, Flight.product, Bool.and_eq_true, Bool.or_eq_true, beq_iff_eq]
    exact ⟨⟨.inr ho, by rw [hpend]; rfl⟩, rfl⟩
  obtain ⟨hent, hmem, -, block, harr⟩ := State.issues_enterNext h hf hworks List.not_mem_nil List.not_mem_nil List.not_mem_nil
    List.not_mem_nil ha hon hopen hwaits hl
  generalize State.enterNext _ c q (Rs.of f.ins).array = t at *
  obtain ⟨hfirst, hbank, -, hcarried⟩ := ArraySt.enter_active (((s.rsStart c q f).1.core c).arr (Rs.of f.ins).array) (s.rsStart c q f).2 block
  rw [← harr] at hfirst hbank hcarried
  refine ⟨t, _, hexec, hent, rfl, rfl, rfl, hpend, rfl, rfl, rfl, rfl, rfl, ?log, State.rsStart_scAtEnd, State.bytesBut_congr hbytes hmem,
    ?bank, fun hok hk => ?carries, fun hok a => ?wrote⟩
  case log => exact (State.rsStart_atEnd hv).trans (by rw [hatEnd]; rfl)
  case bank =>
    dsimp only
    rw [hfirst, hbank]
  case carries =>
    rw [hcarried, State.arr_rsStart hv ha]
    exact State.rsCarried_own hok hk
  case wrote => exact (State.byte_congr hmem a).trans (State.byte_rsStart hok a)

end Sys2Proof.Machine

/-! Proofs about tile programs (R78, R79, R84 to R89, R99): scalar instructions, control flow, semaphores, chains, copies and doorbells. -/

namespace Sys2Proof.Machine

/-! ### SCALAR (R87) -/

theorem State.slotVal_setSlot_same (s : State) (c : Fin 36) (q j : Nat) {v : Nat} (hv : v < 2 ^ 32) :
    (s.setSlot c q j v).slotVal c q j = v := by
  unfold State.slotVal State.setSlot
  simp only [State.rd_wr_same]
  split
  · rw [bits_setBits_same (by decide)]; exact Nat.mod_eq_of_lt hv
  · rw [bits_setBits_same (by decide)]; exact Nat.mod_eq_of_lt hv

/-- Two slots stand in two registers, or in the two halves of one. -/
theorem State.slotVal_setSlot_other (s : State) (c : Fin 36) (q : Nat) {j k : Nat} (v : Nat) (h : k ≠ j) :
    (s.setSlot c q j v).slotVal c q k = s.slotVal c q k := by
  unfold State.slotVal State.setSlot
  by_cases e : k / 2 = j / 2
  · simp only [e, State.rd_wr_same]
    by_cases hj : j % 2 = 0
    · simp only [hj, if_true, show k % 2 ≠ 0 by omega, if_false]
      exact bits_setBits_other (by decide) (.inr (by decide))
    · simp only [hj, if_false, show k % 2 = 0 by omega, if_true]
      exact bits_setBits_other (by decide) (.inl (by decide))
  · simp only [State.rd_wr_other (regKey_ne (p := .sequencer c) (r := .slot) (r' := .slot) (i := 32 * q + j / 2)
      (i' := 32 * q + k / 2) (by simp only [RegName.off]; omega))]

/-- The offsets of the registers that an issue of queue q reads or writes. -/
def issueOffsets (q : Fin 8) : List Nat :=
  [RegName.qPc.off q, RegName.issueCount.off 0, RegName.qCfg.off q, RegName.seqCtrl.off 0]

/-- A register at none of these offsets may be what an instruction that completes at its issue writes. -/
theorem issueKeys_ne {c : Fin 36} {q : Fin 8} {r : RegName} {n : Nat} (h : r.off n ∉ issueOffsets q) :
    regKey (.sequencer c) .qPc q ∉ [regKey (.sequencer c) r n] ∧ regKey (.sequencer c) .issueCount 0 ∉ [regKey (.sequencer c) r n] ∧
    regKey (.sequencer c) .qCfg q ∉ [regKey (.sequencer c) r n] ∧ regKey (.sequencer c) .seqCtrl 0 ∉ [regKey (.sequencer c) r n] := by
  simp only [issueOffsets, List.mem_cons, List.not_mem_nil, or_false, not_or] at h
  simp only [List.mem_singleton]
  obtain ⟨hpc, hcount, hcfg, hctrl⟩ := h
  exact ⟨regKey_ne (Ne.symm hpc), regKey_ne (Ne.symm hcount), regKey_ne (Ne.symm hcfg), regKey_ne (Ne.symm hctrl)⟩

/-- A SCALAR of its operation that passes its checks does its effect as it issues. -/
theorem State.scalar_runs {s : State} {c : Fin 36} {q : Fin 8} {i : Ins} {op : Nat} {x : Ins → Touch} {chk : Ins → Status}
    {eff : State → Ins → State} (h : s.issues c q i) (hc : s.calm c q) (ho : i.opcode = opScalar)
    (hf : ctlFormatOk i (highBits 19) 0 (highBits 0) = true) (hop : i.scOp = op) (h7 : op ≤ 7) (hk : chk i = .ok) :
    s.scalar c q op x chk eff = s.issueEffect c q i (x i) (fun s => eff s i) := by
  have hok : firstFail [check (ctlFormatOk i (highBits 19) 0 (highBits 0)) .eFormat, chk i] = .ok := by rw [hf, hk]; rfl
  unfold State.scalar
  rw [State.row_issues h (by simp [ho, hop]) (by rw [ho]; decide) (fun _ => hop.trans_le h7)]
  simp only [Queue.free_of_nil hc.flights, hok, Bool.not_true, Bool.false_eq_true, ne_eq, not_true_eq_false, if_false]

section
variable {s : State} {c : Fin 36} {q : Fin 8} {i : Ins} (h : s.issues c q i) (hc : s.calm c q) (ha : (s.adds c i).1 = .ok)
include h hc ha

/-- An instruction whose effect is the write of one register of its core's sequencer page. -/
theorem State.issueEffect_wr {x : Touch} {eff : State → State} {r : RegName} {n : Nat} {v : Word}
    (he : eff s = s.wr (.sequencer c) r n v) (hr : r.off n ∉ issueOffsets q) :
    s.memSame (s.issueEffect c q i x eff) ∧
    s.completes (s.issueEffect c q i x eff) c q i (i.pc + 32) [regKey (.sequencer c) r n] ∧
    ∀ (r' : RegName) (n' : Nat), r'.off n' < 4096 → r'.off n' ∉ issueOffsets q →
      (s.issueEffect c q i x eff).rd (.sequencer c) r' n' = (s.wr (.sequencer c) r n v).rd (.sequencer c) r' n' := by
  obtain ⟨hpc, hcount, hcfg, hctrl⟩ := issueKeys_ne (c := c) hr
  obtain ⟨hk, hregs, hmem, hbad⟩ := State.issueEffect_completes (t := x) (eff := eff) (ks := [regKey (.sequencer c) r n]) h.may hc ha
    (by rw [he]; rfl) (by rw [he]; exact State.regsBut_wr (State.regsBut_refl rfl _) (List.mem_singleton_self _)) hpc hcount hcfg
    (by
      rw [he]
      exact State.counting_sequencer s _ c (State.rd_wr_other (fun e => hctrl (List.mem_singleton.2 e.symm))) rfl)
  refine ⟨⟨by rw [hmem, he]; rfl, by rw [hbad, he]; rfl⟩, hk, fun r' n' hlt hn => ?_⟩
  obtain ⟨hpc', hcount', -⟩ := issueKeys_ne (c := c) hn
  rw [State.rd_eq_reg, hregs _ (fun e => hpc' (List.mem_singleton.2 e.symm)) (fun e => hcount' (List.mem_singleton.2 e.symm))
    (fun _ => memoryKey_sequencer hlt), he]
  rfl

section
variable {op : Nat} {x : Ins → Touch} {chk : Ins → Status} {eff : State → Ins → State} (ho : i.opcode = opScalar)
  (hf : ctlFormatOk i (highBits 19) 0 (highBits 0) = true) (hop : i.scOp = op) (h7 : op ≤ 7) (hk : chk i = .ok)
include ho hf hop h7 hk

/-- A SCALAR that writes one register of its core's sequencer page. -/
theorem State.scalar_wr {r : RegName} {n : Nat} {v : Word} (he : eff s i = s.wr (.sequencer c) r n v) (hlt : r.off n < 4096)
    (hr : r.off n ∉ issueOffsets q) :
    (s.scalar c q op x chk eff).rd (.sequencer c) r n = v ∧ s.memSame (s.scalar c q op x chk eff) ∧
    s.completes (s.scalar c q op x chk eff) c q i (i.pc + 32) [regKey (.sequencer c) r n] := by
  rw [State.scalar_runs h hc ho hf hop h7 hk]
  obtain ⟨hmem, hcomp, hregs⟩ := State.issueEffect_wr h hc ha (x := x i) (eff := fun s => eff s i) he hr
  exact ⟨(hregs r n hlt hr).trans (State.rd_wr_same ..), hmem, hcomp⟩

/-- A SCALAR that gives a scalar register a value. -/
theorem State.scalar_setSc {v : Word} (he : eff s i = s.setSc c q i.scDst v) :
    (s.scalar c q op x chk eff).scReg c q i.scDst = v ∧ s.memSame (s.scalar c q op x chk eff) ∧
    s.completes (s.scalar c q op x chk eff) c q i (i.pc + 32) [regKey (.sequencer c) .sc (16 * q.val + i.scDst)] := by
  have hd : i.scDst < 16 := bits_lt i.w1 7 4
  have hq := q.isLt
  refine State.scalar_wr h hc ha ho hf hop h7 hk he ?_ ?_
  · simp only [RegName.off]; omega
  · simp only [issueOffsets, RegName.off, List.mem_cons, List.not_mem_nil, or_false]; omega

/-- A SCALAR that gives a runtime-length slot a value. -/
theorem State.scalar_setSlot {v : Nat} (he : eff s i = s.setSlot c q i.scSlot v) (hv : v < 2 ^ 32) :
    (s.scalar c q op x chk eff).slotVal c q i.scSlot = v ∧
    (∀ j < 64, j ≠ i.scSlot → (s.scalar c q op x chk eff).slotVal c q j = s.slotVal c q j) ∧
    s.memSame (s.scalar c q op x chk eff) ∧
    s.completes (s.scalar c q op x chk eff) c q i (i.pc + 32) [regKey (.sequencer c) .slot (32 * q.val + i.scSlot / 2)] := by
  have hs : i.scSlot < 64 := bits_lt i.w1 17 12
  have hq := q.isLt
  have hoff (j : Nat) (hj : j < 64) : RegName.slot.off (32 * q.val + j / 2) < 4096 ∧
      RegName.slot.off (32 * q.val + j / 2) ∉ issueOffsets q := by
    simp only [issueOffsets, RegName.off, List.mem_cons, List.not_mem_nil, or_false]
    omega
  rw [State.scalar_runs h hc ho hf hop h7 hk]
  obtain ⟨hmem, hcomp, hregs⟩ := State.issueEffect_wr h hc ha (x := x i) (eff := fun s => eff s i) he (hoff _ hs).2
  have hslot (j : Nat) (hj : j < 64) :
      (s.issueEffect c q i (x i) (fun s => eff s i)).slotVal c q j = (s.setSlot c q i.scSlot v).slotVal c q j := by
    unfold State.slotVal
    rw [hregs _ _ (hoff j hj).1 (hoff j hj).2]
    rfl
  refine ⟨?_, fun j hj hne => ?_, hmem, hcomp⟩
  · rw [hslot _ hs, State.slotVal_setSlot_same s c q _ hv]
  · rw [hslot j hj, State.slotVal_setSlot_other s c q v hne]

/-- A SCALAR that stores its source register in its core's Ledge. -/
theorem State.scalar_store {off : Nat} {v : Word} (he : eff s i = s.store (ledgeAt c off) (leBytes v.toNat 8)) :
    (s.scalar c q op x chk eff).word (ledgeAt c off) = v ∧ s.bytesBut (s.scalar c q op x chk eff) [(ledgeAt c off, 8)] ∧
    s.completes (s.scalar c q op x chk eff) c q i (i.pc + 32) [] := by
  rw [State.scalar_runs h hc ho hf hop h7 hk]
  have hst : eff s i = s.poke (ledgeAt c off) (leBytes v.toNat 8) := by
    rw [he, State.store_ledge s (harbourAddr_ledgeAt c off), if_neg (fun e => by simpa using congrArg List.length e)]
  obtain ⟨hcomp, -, hmem, -⟩ := State.issueEffect_completes (t := x i) (eff := fun s => eff s i) (ks := []) h.may hc ha
    (by rw [hst]; rfl) (by rw [hst]; exact State.regsBut_refl rfl _) List.not_mem_nil List.not_mem_nil List.not_mem_nil
    (by rw [hst]; rfl)
  have hbyte := State.byte_congr (s := eff s i) hmem
  rw [he] at hbyte
  refine ⟨(State.word_congr hbyte _).trans (State.word_store_same ..), fun a hn => (hbyte a).trans ?_, hcomp⟩
  exact State.byte_store_other (fun e => hn _ (List.mem_singleton_self _) (by rwa [leBytes_length] at e))

end
end

/-- A slot's value with its kind fits in its half of a register. -/
theorem Ins.slotValue_lt (i : Ins) (w : Word) : bits w 30 0 + i.scKind < 2 ^ 32 := by
  have hb := bits_lt w 30 0
  have hk : i.scKind ≤ 2 ^ 31 := by
    unfold Ins.scKind
    split <;> decide
  omega

/-- Settles O8: each SCALAR does one write, of a register or of the Ledge, as it issues. -/
theorem scalarResults : Obligations.ScalarResults := by
  unfold Obligations.ScalarResults
  refine ⟨fun s c q i h hc ha ho hf => ⟨fun e => ?set, fun e => ?add, fun e => ?lenImm, fun e => ?lenReg, fun e => ?srBase,
      fun e hb => ?srStep⟩,
    fun s c q i h hc ha ho hf h8 hin => ⟨fun e hb => ?load, fun e => ?store⟩⟩
  case set =>
    rw [exec_scalarSet, execScalarSet, State.awake_up h.up]
    exact ⟨_, rfl, State.scalar_setSc h hc ha ho hf e (by decide) rfl rfl⟩
  case add =>
    rw [exec_scalarAdd, execScalarAdd, State.awake_up h.up]
    exact ⟨_, rfl, State.scalar_setSc h hc ha ho hf e (by decide) rfl rfl⟩
  case lenImm =>
    rw [exec_lenImm, execLenImm, State.awake_up h.up]
    exact ⟨_, rfl, State.scalar_setSlot h hc ha ho hf e (by decide) rfl rfl (Ins.slotValue_lt i _)⟩
  case lenReg =>
    rw [exec_lenReg, execLenReg, State.awake_up h.up]
    exact ⟨_, rfl, State.scalar_setSlot h hc ha ho hf e (by decide) rfl rfl (Ins.slotValue_lt i _)⟩
  case srBase =>
    rw [exec_srBase, execSrBase, State.awake_up h.up]
    have hq := q.isLt
    refine ⟨_, rfl, State.scalar_wr h hc ha ho hf e (by decide) rfl rfl ?_ ?_⟩
    · simp only [RegName.off]; omega
    · simp only [issueOffsets, RegName.off, List.mem_cons, List.not_mem_nil, or_false]; omega
  case srStep =>
    rw [exec_srStep, execSrStep, State.awake_up h.up]
    have hq := q.isLt
    refine ⟨_, rfl, State.scalar_wr h hc ha ho hf e (by decide) (by simp [hb, check]) rfl ?_ ?_⟩
    · simp only [RegName.off]; omega
    · simp only [issueOffsets, RegName.off, List.mem_cons, List.not_mem_nil, or_false]; omega
  case load =>
    rw [exec_scalarLoad, execScalarLoad, State.awake_up h.up]
    have hk : firstFail [scOffsetOk i, check (s.badIn (ledgeAt c i.w2.toNat) 8).isNone .eMemUncorr] = .ok := by
      simp [scOffsetOk, h8, inLedge, hin, hb, check, firstFail]
    exact ⟨_, rfl, State.scalar_setSc h hc ha ho hf e (by decide) hk rfl⟩
  case store =>
    rw [exec_scalarStore, execScalarStore, State.awake_up h.up]
    have hk : scOffsetOk i = .ok := by simp [scOffsetOk, h8, inLedge, hin, check]
    exact ⟨_, rfl, State.scalar_store h hc ha ho hf e (by decide) hk rfl⟩

end Sys2Proof.Machine

namespace Sys2Proof.Machine

/-! ### FENCE, END and BRANCH (R87) -/

/-- An instruction without an effect that completes as it issues leaves memory as it is. -/
theorem State.issueDone_rests {s : State} {c : Fin 36} {q : Fin 8} {i : Ins} (hm : s.canIssue c q = true) (hc : s.calm c q)
    (ha : (s.adds c i).1 = .ok) (x : Touch) (next : Nat) :
    s.memSame (s.issueDone c q i x next) ∧ s.completes (s.issueDone c q i x next) c q i next [] := by
  obtain ⟨hk, -, hmem, hbad⟩ := State.issueDone_completes (t := x) (next := next) (ks := []) hm hc ha rfl
    (State.regsBut_refl rfl _) List.not_mem_nil List.not_mem_nil List.not_mem_nil rfl
  exact ⟨⟨hmem, hbad⟩, hk⟩

section
variable {s : State} {c : Fin 36} {q : Fin 8} {i : Ins} (h : s.issues c q i)
include h

theorem execFence_done (ho : i.opcode = opFence) (hf : ctlFormatOk i (highBits 4) (highBits 0) (highBits 0) = true) :
    exec (.fence c q) s = .next (s.issueDone c q i {} (i.pc + 32)) := by
  rw [exec_fence, execFence, State.awake_up h.up, State.row_issues h (by simp [ho]) (by rw [ho]; decide)
    (by rw [ho]; exact fun e => absurd e (by decide)), hf]
  rfl

theorem execEnd_done (ho : i.opcode = opEnd) (hf : ctlFormatOk i (highBits 0) (highBits 0) (highBits 0) = true) :
    exec (.endOp c q) s = .next (s.issueDone c q i {} (i.pc + 32)) := by
  rw [exec_endOp, execEnd, State.awake_up h.up, State.row_issues h (by simp [ho]) (by rw [ho]; decide)
    (by rw [ho]; exact fun e => absurd e (by decide)), hf]
  rfl

/-- A BRANCH that passes its checks goes one of its two ways, and counts when it is taken. -/
theorem execBranch_done (hc : s.calm c q) (ho : i.opcode = opBranch) (hf : ctlFormatOk i branchRsv 0 (highBits 0) = true)
    (h7 : bits i.w1 10 8 ≠ 7) (hk : s.targetOk c q (branchTarget i) = true) :
    ∃ x, exec (.branch c q) s = .next (
      if branchTaken (bits i.w1 10 8) (s.scReg c q (bits i.w1 3 0)) (if bit1 i.w1 11 then i.w2 else s.scReg c q (bits i.w1 7 4)) then
        (s.bump (.sequencer c) .branchTakenCount 0 1).issueDone c q i x (branchTarget i).toNat
      else s.issueDone c q i x (i.pc + 32)) := by
  refine ⟨{ scs := if bits i.w1 10 8 = 6 then [] else if bit1 i.w1 11 then [bits i.w1 3 0] else [bits i.w1 3 0, bits i.w1 7 4] }, ?_⟩
  rw [exec_branch, execBranch, State.awake_up h.up, State.row_issues h (by simp [ho]) (by rw [ho]; decide)
    (by rw [ho]; exact fun e => absurd e (by decide))]
  simp only [Queue.free_of_nil hc.flights, hf, h7, hk, Bool.not_true, decide_false, Bool.or_self, Bool.false_eq_true, if_false]

/-- A BRANCH that is taken counts, and goes on at its target. -/
theorem State.branch_counts (hc : s.calm c q) (ha : (s.adds c i).1 = .ok) (x : Touch) (next : Nat) :
    let t := (s.bump (.sequencer c) .branchTakenCount 0 1).issueDone c q i x next
    s.memSame t ∧ t.rd (.sequencer c) .branchTakenCount 0 = s.counted (.sequencer c) .branchTakenCount 0 1 ∧
      s.completes t c q i next [regKey (.sequencer c) .branchTakenCount 0] := by
  have hoff : RegName.branchTakenCount.off 0 ∉ issueOffsets q := by
    simp only [issueOffsets, RegName.off, List.mem_cons, List.not_mem_nil, or_false]; omega
  obtain ⟨hpc, hcount, hcfg, hctrl⟩ := issueKeys_ne (c := c) hoff
  have hb := State.tallies_bump (s := s) (p := .sequencer c) (r := .branchTakenCount) (i := 0) 1 (List.mem_singleton_self _)
  have hrest : s.bump (.sequencer c) .branchTakenCount 0 1 = { s with regs := (s.bump (.sequencer c) .branchTakenCount 0 1).regs } :=
    hb.rest.trans (by rw [State.bump_freeIx])
  obtain ⟨hk, hregs, hmem, hbad⟩ := State.issueDone_completes (u := s.bump (.sequencer c) .branchTakenCount 0 1) (t := x) (next := next)
    h.may hc ha (hrest.trans (by rw [State.bump_mem, State.bump_bad])) hb.regs hpc hcount hcfg
    (State.counting_sequencer s _ c (State.tallies_rd hb hctrl) (State.tallies_sys hb))
  refine ⟨⟨hmem.trans (State.bump_mem ..), hbad.trans (State.bump_bad ..)⟩, ?_, hk⟩
  rw [State.rd_eq_reg, hregs _ (fun e => hpc (List.mem_singleton.2 e.symm)) (fun e => hcount (List.mem_singleton.2 e.symm))
    (fun _ => memoryKey_sequencer (by decide))]
  exact State.rd_bump_same ..

end

/-- Settles O9: FENCE, END and BRANCH complete as they issue, and differ in where their queue goes on. -/
theorem controlFlowResults : Obligations.ControlFlowResults := by
  unfold Obligations.ControlFlowResults
  refine fun s c q i h hc ha => ⟨fun ho hf => ?fence, fun ho hf => ?endOp, fun ho hf h7 hk b hb => ?branch⟩
  case fence => exact ⟨_, execFence_done h ho hf, State.issueDone_rests h.may hc ha _ _⟩
  case endOp =>
    obtain ⟨hm, hcomp⟩ := State.issueDone_rests h.may hc ha {} (i.pc + 32)
    exact ⟨_, execEnd_done h ho hf, by rw [hcomp.queue]; exact if_pos ho, hm, hcomp⟩
  case branch =>
    obtain ⟨x, hx⟩ := execBranch_done h hc ho hf h7 hk
    rw [← hb] at hx
    refine ⟨fun ht => ?_, fun ht => ?_⟩
    · rw [if_pos ht] at hx
      exact ⟨_, hx, State.branch_counts h hc ha x _⟩
    · rw [if_neg (by rw [ht]; decide)] at hx
      exact ⟨_, hx, State.issueDone_rests h.may hc ha x _⟩

end Sys2Proof.Machine

namespace Sys2Proof.Machine

/-! ### Semaphore words (R86) -/

theorem toNat_mod_semCount (w : Word) : w.toNat % 2 ^ 48 = semCount w := rfl

/-- A semaphore word whose count is written: its count, and every bit above. -/
theorem semCount_setCount (w : Word) {n : Nat} (hn : n < 2 ^ 48) :
    semCount (setBits w 47 0 n) = n ∧ ∀ b, 47 < b → bit1 (setBits w 47 0 n) b = bit1 w b :=
  ⟨(bits_setBits_same (by decide)).trans (Nat.mod_eq_of_lt hn), fun _ hb => bit1_setBits_other (by decide) (.inr hb)⟩

/-- A semaphore word that has saturated: its count, bit 49, and every other bit above the count. -/
theorem semCount_saturated (w : Word) {n : Nat} (hn : n < 2 ^ 48) :
    semCount (setBits (setBits w 47 0 n) 49 49 1) = n ∧ bit1 (setBits (setBits w 47 0 n) 49 49 1) 49 = true ∧
      ∀ b, 47 < b → b ≠ 49 → bit1 (setBits (setBits w 47 0 n) 49 49 1) b = bit1 w b := by
  obtain ⟨hcount, hbits⟩ := semCount_setCount w hn
  refine ⟨(bits_setBits_other (by decide) (.inl (by decide))).trans hcount, ?_, fun b hb h49 => ?_⟩
  · rw [bit1, getLsbD_setBits _ _ _ _ _ (by decide)]
    rfl
  · rw [bit1_setBits_other (by decide) (by omega), hbits b hb]

theorem semCount_lt (w : Word) : semCount w < 2 ^ 48 := bits_lt w 47 0

/-- ADD on a word that is not faulted: the count moves by the amount, and saturates with bit 49 set. -/
theorem semAdd_results {w : Word} (n : Nat) (h : semFaulted w = false) :
    semCount (semAdd w n).1 = min (semCount w + n) (2 ^ 48 - 1) ∧
    (semAdd w n).2 = (if 2 ^ 48 - 1 < semCount w + n then .eSat else .ok) ∧
    bit1 (semAdd w n).1 49 = (bit1 w 49 || decide (2 ^ 48 - 1 < semCount w + n)) ∧
    ∀ b, 47 < b → b ≠ 49 → bit1 (semAdd w n).1 b = bit1 w b := by
  unfold semAdd
  rw [if_neg (by simp [h])]
  by_cases hs : 2 ^ 48 ≤ semCount w + n
  · obtain ⟨hcount, h49, hbits⟩ := semCount_saturated w (n := 2 ^ 48 - 1) (by decide)
    have hlt : 2 ^ 48 - 1 < semCount w + n := by omega
    rw [if_pos hs, if_pos hlt]
    exact ⟨by rw [hcount]; omega, rfl, by rw [h49, decide_eq_true hlt, Bool.or_true], hbits⟩
  · obtain ⟨hcount, hbits⟩ := semCount_setCount w (n := semCount w + n) (by omega)
    have hlt : ¬2 ^ 48 - 1 < semCount w + n := by omega
    rw [if_neg hs, if_neg hlt]
    exact ⟨by rw [hcount]; omega, rfl, by rw [hbits 49 (by decide), decide_eq_false hlt, Bool.or_false], fun b hb _ => hbits b hb⟩

/-- SUB on a word that is not faulted: the count moves by the amount, and saturates with bit 49 set. -/
theorem semSub_results {w : Word} (n : Nat) (h : semFaulted w = false) :
    semCount (semSub w n).1 = semCount w - n ∧
    (semSub w n).2 = (if semCount w < n then .eSat else .ok) ∧
    bit1 (semSub w n).1 49 = (bit1 w 49 || decide (semCount w < n)) ∧
    ∀ b, 47 < b → b ≠ 49 → bit1 (semSub w n).1 b = bit1 w b := by
  have hw := semCount_lt w
  unfold semSub
  rw [if_neg (by simp [h])]
  by_cases hs : semCount w < n
  · obtain ⟨hcount, h49, hbits⟩ := semCount_saturated w (n := 0) (by decide)
    rw [if_pos hs, if_pos hs]
    exact ⟨by rw [hcount]; omega, rfl, by rw [h49, decide_eq_true hs, Bool.or_true], hbits⟩
  · obtain ⟨hcount, hbits⟩ := semCount_setCount w (n := semCount w - n) (by omega)
    rw [if_neg hs, if_neg hs]
    exact ⟨hcount, rfl, by rw [hbits 49 (by decide), decide_eq_false hs, Bool.or_false], fun b hb _ => hbits b hb⟩

/-- What a WAIT_GE on a word that is not faulted does. -/
theorem waitDone_results {w : Word} (n bound : Nat) (h : semFaulted w = false) :
    waitDone w n bound = if semCount w < n then none else if bound ≠ 0 ∧ n + bound < semCount w then some .eSat else some .ok := by
  rw [waitDone, if_neg (by simp [h])]

/-- The semaphore that an ADD or SUB names, after it, and its status. -/
theorem State.semOp_sem (s : State) (sub g : Bool) (c i n : Nat) (tr : Bool) :
    (s.semOp sub g c i n tr).1 = (if sub then semSub (s.sem g c i) n else semAdd (s.sem g c i) n).2 ∧
    (s.semOp sub g c i n tr).2.sem g c i = (if sub then semSub (s.sem g c i) n else semAdd (s.sem g c i) n).1 := by
  refine ⟨rfl, ?_⟩
  unfold State.semOp
  dsimp only
  split
  · exact State.sem_setSem_same s g c i _
  · exact State.sem_setSem_same s g c i _

/-! ### ADD and SUB (R86, R89) -/

section
variable {s : State} {c : Fin 36} {q : Fin 8} {i : Ins}

theorem State.addSub_done (hk : s.addCheck i = .ok) (hl : bit1 i.w1 17 = false) :
    s.addSub c q i = s.issueDone c q i {} (i.pc + 32) := by
  simp [State.addSub, hk, hl]

theorem execAdd_done (h : s.issues c q i) (ho : i.opcode = opAdd) (hk : s.addCheck i = .ok) (hl : bit1 i.w1 17 = false) :
    exec (.add c q) s = .next (s.issueDone c q i {} (i.pc + 32)) := by
  rw [exec_add, execAdd, State.awake_up h.up, State.row_issues h (by simp [ho]) (by rw [ho]; decide)
    (by rw [ho]; exact fun e => absurd e (by decide)), if_neg (by simp [hl]), State.addSub_done hk hl]

theorem execSub_done (h : s.issues c q i) (ho : i.opcode = opSub) (hk : s.addCheck i = .ok) (hl : bit1 i.w1 17 = false) :
    exec (.sub c q) s = .next (s.issueDone c q i {} (i.pc + 32)) := by
  rw [exec_sub, execSub, State.awake_up h.up, State.row_issues h (by simp [ho]) (by rw [ho]; decide)
    (by rw [ho]; exact fun e => absurd e (by decide)), if_neg (by simp [hl]), State.addSub_done hk hl]

/-- Without a post ADD, the semaphore operation of an ADD or SUB of the device is its own. -/
theorem State.adds_own (ho : i.opcode = opAdd ∨ i.opcode = opSub) (hl : bit1 i.w1 17 = false) (hp : i.postEn = false) :
    s.adds c i = s.semOp (i.opcode = opSub) i.semScope c i.semIndex (bits i.w2 47 0) i.trace := by
  have how : s.performOwn c (started i {} true) = s.semOp (i.opcode = opSub) i.semScope c i.semIndex (bits i.w2 47 0) i.trace :=
    if_pos ⟨ho, hl⟩
  have hpost (u : State) : u.performPost c (started i {} true) = (.ok, u) := if_neg (by rw [started_ins, hp]; decide)
  rw [State.adds, State.performAdds, how]
  split
  · next e => rw [hpost, ← e]
  · rfl

theorem State.adds_add (ho : i.opcode = opAdd) (hl : bit1 i.w1 17 = false) (hp : i.postEn = false) (ha : (s.adds c i).1 = .ok) :
    semCount ((s.adds c i).2.sem i.semScope c i.semIndex) = semCount (s.sem i.semScope c i.semIndex) + bits i.w2 47 0 := by
  rw [State.adds_own (.inl ho) hl hp] at ha ⊢
  obtain ⟨hst, hsem⟩ := State.semOp_sem s false i.semScope c i.semIndex (bits i.w2 47 0) i.trace
  have hsub : decide (i.opcode = opSub) = false := by rw [ho]; rfl
  rw [hsub] at ha ⊢
  obtain ⟨hw, -, -, hlt⟩ := semAdd_ok (hst.symm.trans ha)
  rw [hsem]
  exact (congrArg semCount hw).trans (semCount_setCount _ hlt).1

theorem State.adds_sub (ho : i.opcode = opSub) (hl : bit1 i.w1 17 = false) (hp : i.postEn = false) (ha : (s.adds c i).1 = .ok) :
    semCount ((s.adds c i).2.sem i.semScope c i.semIndex) = semCount (s.sem i.semScope c i.semIndex) - bits i.w2 47 0 := by
  rw [State.adds_own (.inr ho) hl hp] at ha ⊢
  obtain ⟨hst, hsem⟩ := State.semOp_sem s true i.semScope c i.semIndex (bits i.w2 47 0) i.trace
  have hsub : decide (i.opcode = opSub) = true := by rw [ho]; rfl
  rw [hsub] at ha ⊢
  obtain ⟨hw, -⟩ := semSub_ok (hst.symm.trans ha)
  rw [hsem]
  exact (congrArg semCount hw).trans (semCount_setCount _ (Nat.lt_of_le_of_lt (Nat.sub_le ..) (semCount_lt _))).1

/-! ### WAIT_GE that completes at once (R86) -/

theorem execWaitGe_done (h : s.issues c q i) (ho : i.opcode = opWaitGe) (hk : wgCheck i = .ok)
    (hw : waitDone (s.sem i.semScope c i.semIndex) (bits i.w2 47 0) (bits i.w3 47 0) = some .ok) :
    exec (.waitGe c q) s = .next ((s.traceWait c i).issueDone c q i {} (i.pc + 32)) := by
  rw [exec_waitGe, execWaitGe, State.awake_up h.up, State.row_issues h (by simp [ho]) (by rw [ho]; decide)
    (by rw [ho]; exact fun e => absurd e (by decide))]
  simp only [hk, hw, ne_eq, not_true_eq_false, if_false]

/-- A trace of a WAIT_GE changes nothing that an issue depends on. -/
theorem State.traceWait_calm (hm : s.canIssue c q = true) (hc : s.calm c q) :
    (s.traceWait c i).canIssue c q = true ∧ (s.traceWait c i).calm c q ∧ s.memSame (s.traceWait c i) := by
  unfold State.traceWait
  split
  · exact ⟨hm, ⟨hc.flights, hc.waiting, hc.ready, hc.tags, hc.faulted, hc.fast⟩, rfl, rfl⟩
  · exact ⟨hm, hc, rfl, rfl⟩

end

end Sys2Proof.Machine

namespace Sys2Proof.Machine

/-! ### A queue that changes beside the holder of its core (R78) -/

/-- From s to t nothing but queue q of core c has changed. -/
structure State.requeues (s t : State) (c : Fin 36) (q : Fin 8) : Prop where
  rest : t = { s with cores := t.cores }
  cores : s.coresBut t c
  core : t.core c = { s.core c with queues := (t.core c).queues }
  queue : ∀ r, r ≠ q.val → t.queue c r = s.queue c r

theorem State.requeues_setQueue (s : State) (c : Fin 36) (q : Fin 8) (x : Queue) : s.requeues (s.setQueue c q x) c q :=
  ⟨rfl, fun _ hd => State.core_setQueue_other (Ne.symm hd), by rw [State.core_setQueue_same]; rfl,
    fun _ hr => State.setQueue_other (fun k => hr k.2)⟩

theorem State.requeues_trans {s t u : State} {c : Fin 36} {q : Fin 8} (h : s.requeues t c q) (k : t.requeues u c q) : s.requeues u c q :=
  ⟨by rw [k.rest, h.rest], fun d hd => (k.cores d hd).trans (h.cores d hd), by rw [k.core, h.core],
    fun r hr => (k.queue r hr).trans (h.queue r hr)⟩

theorem State.requeues_sems {s t : State} {c : Fin 36} {q : Fin 8} (h : s.requeues t c q) : s.semsSame t :=
  State.semsSame_of_core (by rw [h.rest]) h.cores (by rw [h.core])

/-- Every queue but one is the same, where the other queues of its core and the other cores are. -/
theorem State.queues_of_core {s t : State} {c : Fin 36} {q : Fin 8} (hc : s.coresBut t c)
    (hq : ∀ r, r ≠ q.val → t.queue c r = s.queue c r) (d r : Nat) (k : ¬(d = c.val ∧ r = q.val)) : t.queue d r = s.queue d r := by
  by_cases e : d = c.val
  · subst e; exact hq r (fun e => k ⟨rfl, e⟩)
  · rw [State.queue, hc d e]; rfl

/-- Another queue holds core c and keeps it, and no queue of a higher class is ready: one that is not of a higher class may change beside
it. -/
structure State.heldBy (s : State) (c : Fin 36) (q : Fin 8) (h : Nat) : Prop where
  holder : (s.core c).holder = some h
  other : h ≠ q.val
  keeps : ((s.core c).queue h).keeps = true
  higher : s.higherReady c h = false
  tags : ∀ r, (s.queue c r).state = .waiting → (s.queue c r).inWaitGe = true

/-- What is left of the holder of a core once a queue beside it has changed: it holds the core still. -/
theorem State.heldBy_arbitrate {s z : State} {c : Fin 36} {q : Fin 8} {h : Nat} (hh : s.heldBy c q h) (hz : s.requeues z c q)
    (hle : (z.queue c q).state = .running → s.qClass c h ≤ s.qClass c q) (hw : (z.queue c q).state ≠ .waiting) :
    z.staysHeld (z.arbitrate c) c := by
  have hclass (r : Nat) : z.qClass c r = s.qClass c r := by rw [hz.rest]; rfl
  refine State.arbitrate_staysHeld (h := h) (by rw [hz.core]; exact hh.holder) (by rw [hz.queue h hh.other]; exact hh.keeps) ?_
    (fun r hr => ?_)
  · by_cases hrun : (z.queue c q).state = .running
    · exact State.higherReady_of hh.higher hclass hz.queue (hle hrun)
    · have hs := hh.higher
      unfold State.higherReady at *
      rw [List.any_eq_false] at *
      intro r hm
      by_cases e : r = q.val
      · simp [e, hrun]
      · rw [hz.queue r e, hclass, hclass]
        exact hs r hm
  · by_cases e : r = q.val
    · subst e; exact absurd hr hw
    · rw [hz.queue r e] at hr ⊢
      exact hh.tags r hr

/-- A queue that has changed and the settling of its core's holder, together. -/
theorem State.requeues_arbitrate {s z t : State} {c : Fin 36} {q : Fin 8} (hz : s.requeues z c q) (ht : z.staysHeld t c) :
    t = { s with cores := t.cores } ∧ s.coresBut t c ∧
    t.core c = { s.core c with queues := (t.core c).queues, stopping := false } ∧ t.queue c q = z.queue c q ∧
    ∀ r, r ≠ q.val → t.queue c r = s.queue c r :=
  ⟨by rw [ht.rest, hz.rest], fun d hd => (ht.cores d hd).trans (hz.cores d hd), by rw [ht.core, hz.core], ht.queue q,
    fun r hr => (ht.queue r).trans (hz.queue r hr)⟩

/-! ### A WAIT_GE that is released (R86) -/

/-- The last instruction in flight, when it is alone, is over with OK, and its queue runs. -/
theorem Queue.endLast_lone {x : Queue} {f : Flight} (hf : x.flights = [f]) (st : Status) :
    x.endLast st = { x with flights := [{ f with done := true, status := st }], state := .running } := by
  simp [Queue.endLast, hf]

theorem execWaitGeSatisfied_done {s : State} {c : Fin 36} {q : Fin 8} {f : Flight} (hu : s.up) (hs : (s.queue c q).state = .waiting)
    (hf : (s.queue c q).flights = [f]) (ho : f.ins.opcode = opWaitGe) (hd : f.done = false) (ht : f.ins.trace = false)
    (hw : waitDone (s.sem f.ins.semScope c f.ins.semIndex) (bits f.w2 47 0) (bits f.w3 47 0) = some .ok) :
    exec (.waitGeSatisfied c q) s = .next ((s.setQueue c q { s.queue c q with
      flights := [{ f with done := true, status := .ok }], state := .running }).drainQueue c q).settled := by
  have htrace : s.traceWait c f.ins = s := if_neg (by rw [ht]; decide)
  rw [exec_waitGeSatisfied, execWaitGeSatisfied, State.awake_up hu]
  simp [hf, hs, ho, hd, hw, htrace, Queue.endLast_lone hf]

/-- An instruction that is over with OK and leaves nothing, has no ADDs and asks for no record, leaves its queue alone. -/
theorem State.retireHead_bare {v : State} {c : Fin 36} {q : Fin 8} {f : Flight} (hs : f.status = .ok) (ho : f.ins.opcode = opWaitGe)
    (he : f.atEnd = []) (hz : f.scAtEnd = none) (hp : f.ins.postEn = false) (hr : f.ins.record = false) :
    v.retireHead c q f = v.setQueue c q { v.queue c q with flights := (v.queue c q).flights.drop 1 } := by
  have hend : v.atEnd c q f = v := by unfold State.atEnd; rw [he, hz]; rfl
  have hadds : v.performAdds c f = (.ok, v) := by
    simp [State.performAdds, State.performOwn, State.performPost, ho, hp, opWaitGe, opAdd, opSub]
  have hrec : v.tileComplete c q f .ok = v := if_neg (by rw [hr]; decide)
  rw [State.retireHead_ok hs (by rw [ho]; decide) (by rw [hend, hadds]), hend, hadds]
  dsimp only
  rw [hrec]

/-- A WAIT_GE whose semaphore has reached its value is taken off its queue, which runs: the third part of O10. -/
theorem State.waitGe_released {s : State} {c : Fin 36} {q : Fin 8} {f : Flight} {h : Nat} (hu : s.up)
    (hs : (s.queue c q).state = .waiting) (hf : (s.queue c q).flights = [f]) (ho : f.ins.opcode = opWaitGe) (hd : f.done = false)
    (he : f.atEnd = []) (hz : f.scAtEnd = none) (hp : f.ins.postEn = false) (hr : f.ins.record = false) (ht : f.ins.trace = false)
    (hw : waitDone (s.sem f.ins.semScope c f.ins.semIndex) (bits f.w2 47 0) (bits f.w3 47 0) = some .ok)
    (hh : s.heldBy c q h) (hle : s.qClass c h ≤ s.qClass c q) (hwait : (s.core c).waiting = []) (hfault : s.faultedWaiter = none)
    (hfast : s.est.fast = []) :
    ∃ z t, exec (.waitGeSatisfied c q) s = .next t ∧ s.requeues z c q ∧ z.staysHeld t c ∧ (z.queue c q).state = .running ∧
      (z.queue c q).flights = [] := by
  rw [execWaitGeSatisfied_done hu hs hf ho hd ht hw]
  generalize hg : ({ f with done := true, status := .ok } : Flight) = g
  generalize hv : s.setQueue c q { s.queue c q with flights := [g], state := .running } = v
  have hsv : s.requeues v c q := hv ▸ State.requeues_setQueue s c q _
  have hvq : v.queue c q = { s.queue c q with flights := [g], state := .running } := by rw [← hv, State.queue_setQueue_same]
  have hhead : v.retireHead c q g = v.setQueue c q { v.queue c q with flights := (v.queue c q).flights.drop 1 } := by
    subst hg
    exact State.retireHead_bare rfl ho he hz hp hr
  generalize hzz : v.setQueue c q { v.queue c q with flights := (v.queue c q).flights.drop 1 } = z at hhead
  have hvz : v.requeues z c q := hzz ▸ State.requeues_setQueue v c q _
  have hsz := State.requeues_trans hsv hvz
  have hzq : z.queue c q = { s.queue c q with flights := [], state := .running } := by
    rw [← hzz, State.queue_setQueue_same, hvq]
    rfl
  have hret : v.retire c q ((v.queue c q).flights.length + 1) = z := by
    rw [State.retire_lone (f := g) (by rw [hvq]) (by rw [← hg]) (by rw [hhead, hzq]), hhead]
  have hhalt : z.settleHalt c q = z := if_neg (by rw [hzq]; simp)
  have happly : z.applyWaiting c = z.setCore c (z.core c) := State.applyWaiting_none (by rw [hsz.core]; exact hwait)
  have hself : z.requeues (z.setCore c (z.core c)) c q :=
    ⟨rfl, fun d _ => State.core_setCore_self z c d, by rw [State.core_setCore_same], fun r _ => State.queue_setCore_self z c c r⟩
  have hyq : (z.setCore c (z.core c)).queue c q = z.queue c q := State.queue_setCore_self z c c q
  have hsy := State.requeues_trans hsz hself
  have hheld := State.heldBy_arbitrate hh hsy (fun _ => hle) (by rw [hyq, hzq]; simp)
  refine ⟨_, _, rfl, hsy, ?_, by rw [hyq, hzq], by rw [hyq, hzq]⟩
  obtain ⟨hrest, hcores, hcore, hq, hqs⟩ := State.requeues_arbitrate hsy hheld
  have hsems : s.semsSame ((z.setCore c (z.core c)).arbitrate c) := State.semsSame_of_core (by rw [hrest]) hcores (by rw [hcore])
  rw [State.drainQueue, hret, hhalt, happly, State.settled_calm ?_ (by rw [hrest]; exact hfast)]
  · exact hheld
  · exact State.faultedWaiter_empty (c := c) (q := q) hfault (fun g d i => by rw [hsems]) (by rw [hq, hyq, hzq])
      (State.queues_of_core hcores hqs)

end Sys2Proof.Machine

namespace Sys2Proof.Machine

/-- Settles O10: the words move by their amounts, ADD, SUB and WAIT_GE complete as they issue, and a WAIT_GE that waits is released. -/
theorem semaphoreInstructionResults : Obligations.SemaphoreInstructionResults := by
  unfold Obligations.SemaphoreInstructionResults
  refine ⟨fun w n bound => ⟨fun hf => ?faulted, fun hf => ?word⟩,
    fun s c q i h hc => ⟨fun ho hk hl ha => ?add, fun ho hk hl ha => ?sub, fun ho hk ha hf hv hb => ?wait⟩,
    fun s c q f h hu hs hfl ho hd _ he hz hp hr ht hw hh hn hkeep hle hhigh hwait hfault hfast htags => ?released⟩
  case faulted => simp [semAdd, semSub, waitDone, hf]
  case word =>
    obtain ⟨hadd, haddSt, hadd49, haddBits⟩ := semAdd_results n hf
    obtain ⟨hsub, hsubSt, hsub49, hsubBits⟩ := semSub_results n hf
    exact ⟨(toNat_mod_semCount _).trans hadd, (toNat_mod_semCount _).trans hsub, haddSt, hsubSt, hadd49, hsub49,
      fun b _ hb h49 => ⟨haddBits b hb h49, hsubBits b hb h49⟩, waitDone_results n bound hf⟩
  case add =>
    obtain ⟨hmem, hcomp⟩ := State.issueDone_rests h.may hc ha {} (i.pc + 32)
    exact ⟨_, execAdd_done h ho hk hl, hmem, hcomp, fun hp => by rw [hcomp.sems, State.adds_add ho hl hp ha]⟩
  case sub =>
    obtain ⟨hmem, hcomp⟩ := State.issueDone_rests h.may hc ha {} (i.pc + 32)
    exact ⟨_, execSub_done h ho hk hl, hmem, hcomp, fun hp => by rw [hcomp.sems, State.adds_sub ho hl hp ha]⟩
  case wait =>
    have hdone : waitDone (s.sem i.semScope c i.semIndex) (bits i.w2 47 0) (bits i.w3 47 0) = some .ok := by
      rw [waitDone_results _ _ hf, if_neg (by omega), if_neg (by omega)]
    obtain ⟨hm, hcalm, hmem⟩ := State.traceWait_calm (i := i) h.may hc
    obtain ⟨hmem', hcomp⟩ := State.issueDone_rests hm hcalm ha {} (i.pc + 32)
    exact ⟨_, execWaitGe_done h ho hk hdone, ⟨hmem'.1.trans hmem.1, hmem'.2.trans hmem.2⟩, hcomp⟩
  case released =>
    obtain ⟨z, t, hx, hz, ht, hrun, hnone⟩ := State.waitGe_released hu hs hfl ho hd he hz hp hr ht hw ⟨hh, hn, hkeep, hhigh, htags⟩ hle
      hwait hfault hfast
    obtain ⟨hrest, hcores, hcore, hq, hqs⟩ := State.requeues_arbitrate hz ht
    refine ⟨t, hx, by rw [hq, hrun], by rw [hq, hnone], State.queues_of_core hcores hqs,
      State.semsSame_of_core (by rw [hrest]) hcores (by rw [hcore]), fun d => ?_, hrest⟩
    by_cases e : d = c.val
    · subst e; rw [hcore]
    · rw [hcores d e]

end Sys2Proof.Machine

namespace Sys2Proof.Machine

/-! ### Doorbells (R78, R99) -/

/-- A queue that runs beside the holder of its core (R78, R99). -/
theorem State.queueRuns_beside {s : State} {c : Fin 36} {q : Fin 8} {h : Nat} (hh : s.heldBy c q h) (hle : s.qClass c h ≤ s.qClass c q)
    (zero : Bool) :
    let t := s.queueRuns c q zero
    let x : Queue := { s.queue c q with state := .running, discarding := false, flights := [] }
    t = { s with cores := t.cores } ∧ s.coresBut t c ∧
      t.core c = { s.core c with queues := (t.core c).queues, stopping := false } ∧
      t.queue c q = (if zero then { x with seq := 0, runStatus := 0, deadline := 0 } else x) ∧
      ∀ r, r ≠ q.val → t.queue c r = s.queue c r := by
  have hz (x : Queue) (hx : x.state = .running) := State.requeues_arbitrate (State.requeues_setQueue s c q x)
    (State.heldBy_arbitrate hh (State.requeues_setQueue s c q x) (fun _ => hle) (by rw [State.queue_setQueue_same, hx]; simp))
  cases zero
  · obtain ⟨hrest, hcores, hcore, hq, hqs⟩ := hz { s.queue c q with state := .running, discarding := false, flights := [] } rfl
    exact ⟨hrest, hcores, hcore, hq.trans (State.queue_setQueue_same ..), hqs⟩
  · obtain ⟨hrest, hcores, hcore, hq, hqs⟩ := hz { s.queue c q with
      state := .running, discarding := false, flights := [], seq := 0, runStatus := 0, deadline := 0 } rfl
    exact ⟨hrest, hcores, hcore, hq.trans (State.queue_setQueue_same ..), hqs⟩

/-- A core that no queue holds goes to the only queue that is ready (R78). -/
theorem State.arbitrate_takes {s : State} {c : Fin 36} {q : Fin 8} (hh : (s.core c).holder = none) (hq : (s.queue c q).state = .running)
    (hr : ∀ r < 8, r ≠ q.val → (s.queue c r).state ≠ .running)
    (ht : ∀ r, (s.queue c r).state = .waiting → (s.queue c r).inWaitGe = true) : ((s.arbitrate c).core c).holder = some q.val := by
  have hkq := Core.queue_freeTags (k := s.core c) ht
  have hrest := Core.freeTags_rest (s.core c)
  unfold State.arbitrate
  dsimp only
  generalize (s.core c).freeTags = k at *
  have hqs (r : Nat) : (s.setCore c k).queue c r = s.queue c r := (State.queue_setCore_same ..).trans (hkq r)
  have hnext : (s.setCore c k).nextHolder c = some q.val := by
    refine State.nextHolder_eq q.isLt (by rw [hqs]; exact hq) (fun r h8 hne hrun => ?_)
    rw [hqs] at hrun
    exact absurd hrun (hr r h8 hne)
  have hnone : k.holder = none := by rw [hrest]; exact hh
  simp only [hnone, State.handOn, hnext]
  exact (State.handsTo_switchTo _ c q).holder

theorem execQueueStart_runs {s : State} {c : Fin 36} {q : Fin 8} (hu : s.up) (hl : s.coreLive c = true)
    (hr : s.live (.sequencer c) = .running) (hs : (s.queue c q).state = .idle ∨ (s.queue c q).state = .halted) :
    exec (.queueStart c q) s = .next (s.queueRuns c q true) := by
  rw [exec_queueStart, execQueueStart, State.awake_up hu, State.queueStart, if_neg (by rw [hl]; decide), if_neg (not_not.2 hr)]
  exact congrArg _ (if_pos hs)

theorem execQueueResume_runs {s : State} {c : Fin 36} {q : Fin 8} (hu : s.up) (hl : s.coreLive c = true)
    (hr : s.live (.sequencer c) = .running) (hs : (s.queue c q).state = .halted) :
    exec (.queueResume c q) s = .next (s.queueRuns c q false) := by
  rw [exec_queueResume, execQueueResume, State.awake_up hu, State.queueResume, if_neg (by rw [hl]; decide), if_neg (not_not.2 hr),
    if_pos hs]

/-- A queue that starts on a core that no queue holds or waits for takes it. -/
theorem State.queueRuns_takes {s : State} {c : Fin 36} {q : Fin 8} (hh : (s.core c).holder = none)
    (hr : ∀ r < 8, (s.queue c r).state ≠ .running) (ht : ∀ r, (s.queue c r).state = .waiting → (s.queue c r).inWaitGe = true) :
    ((s.queueRuns c q true).core c).holder = some q.val ∧ ((s.queueRuns c q true).queue c q).fresh ∧ s.semsSame (s.queueRuns c q true) ∧
      s.coresBut (s.queueRuns c q true) c := by
  unfold State.queueRuns
  simp only [if_true]
  generalize hv : s.setQueue c q _ = v
  have hsv : s.requeues v c q := hv ▸ State.requeues_setQueue s c q _
  have hvq : (v.queue c q).fresh := by
    rw [← hv, State.queue_setQueue_same]
    exact ⟨rfl, rfl, rfl⟩
  have ha := State.arbitrates_arbitrate v c
  refine ⟨State.arbitrate_takes (by rw [hsv.core]; exact hh) hvq.1 (fun r h8 hn => ?_) (fun r hw => ?_), ha.fresh q hvq,
    fun g d i => (ha.sems g d i).trans (State.requeues_sems hsv g d i), fun d hd => (ha.cores d hd).trans (hsv.cores d hd)⟩
  · rw [hsv.queue r hn]
    exact hr r h8
  · by_cases e : r = q.val
    · subst e
      rw [hvq.1] at hw
      exact absurd hw (by decide)
    · rw [hsv.queue r e] at hw ⊢
      exact ht r hw

/-! ### An abort doorbell on a queue that waits (R98, R99, R377) -/

/-- The head of a queue, with nothing behind it and no ADDs of its own, fails fatally: whatever the queue's policy it stops. -/
theorem State.failHead_fatal {v w : State} {c : Fin 36} {q : Fin 8} {f : Flight} {st : Status} (hf : (v.queue c q).flights = [f])
    (ha : f.aborted = false) (hfa : f.fatal = true) (hp : f.ins.postEn = false) (ho : f.ins.opcode ≠ opAdd ∧ f.ins.opcode ≠ opSub)
    (hw : (v.tileRecord c q f st).tileComplete c q f st = w) (hq : w.queue c q = v.queue c q) :
    v.failHead c q f st .none = (w.setQueue c q ((v.queue c q).failedAt f st .stopping)).setPc c q f.pc := by
  have hadds (s : State) : s.faultAdds c f.ins = s := by
    rw [State.faultAdds, State.faultPost, hp, State.faultOwn, if_neg (by simp [ho])]
    rfl
  have hback : w.putAllBack c q [] = w := rfl
  unfold State.failHead
  simp only [hf, hadds, hw, hq, ha, hfa, List.drop_succ_cons, List.drop_zero, List.foldl_nil, List.filter_nil, List.map_nil,
    Bool.not_true, Bool.false_and, Bool.false_eq_true, if_false, hback]
  rfl

/-- From w to z queue q, which had stopped as x with nothing in flight, is HALTED at an instruction. -/
structure State.stopped (w z : State) (c : Fin 36) (q : Fin 8) (x : Queue) (pc : Nat) : Prop where
  queue : z.queue c q = { x with state := .halted }
  queues : ∀ d r, ¬(d = c.val ∧ r = q.val) → z.queue d r = w.queue d r
  core : z.core c = { w.core c with queues := (z.core c).queues }
  cores : w.coresBut z c
  pc : z.rd (.sequencer c) .qPc q = setBits (w.rd (.sequencer c) .qPc q) 47 5 (pc / 32)
  event : bit1 (z.rd (.sequencer c) .event 0) 0 = true
  rest : z = { w with regs := z.regs, cores := z.cores }

theorem State.settleHalt_stopped (w : State) (c : Fin 36) (q : Fin 8) {x : Queue} (hs : x.state = .stopping) (hf : x.flights = []) (pc : Nat) :
    w.stopped (((w.setQueue c q x).setPc c q pc).settleHalt c q) c q x pc := by
  generalize hy : (w.setQueue c q x).setPc c q pc = y
  have hyc : y.cores = (w.setQueue c q x).cores := by rw [← hy, State.setPc_cores]
  have hyq : y.queue c q = x := by rw [State.queue_congr hyc, State.queue_setQueue_same]
  have hz : y.settleHalt c q = (y.setQueue c q { x with state := .halted }).event (.sequencer c) 0 := by
    rw [State.settleHalt, hyq]
    exact if_pos ⟨hs, hf⟩
  have hy2 := State.requeues_setQueue y c q { x with state := .halted }
  have hq2 := State.queue_setQueue_same y c q { x with state := .halted }
  generalize hu : y.setQueue c q { x with state := .halted } = u at *
  have hev := State.tallies_event (s := u) 0 (List.Subset.refl (eventKeys (.sequencer c)))
  have hbit := State.raised_bit (State.raised_event u (.sequencer c) 0) (by decide)
  have hfree := State.event_freeIx u (.sequencer c) 0
  rw [hz]
  generalize u.event (.sequencer c) 0 = z at *
  have hzc := State.tallies_cores hev
  have hwy : w.coresBut y c ∧ y.core c = { w.core c with queues := (y.core c).queues } ∧ ∀ r, r ≠ q.val → y.queue c r = w.queue c r := by
    obtain ⟨-, hcores, hcore, hqs⟩ := State.requeues_setQueue w c q x
    exact ⟨fun d hd => (State.core_congr hyc d).trans (hcores d hd), by rw [State.core_congr hyc, hcore],
      fun r hr => (State.queue_congr hyc c r).trans (hqs r hr)⟩
  obtain ⟨hcores, hcore, hqs⟩ := hwy
  have hall : w.coresBut z c := fun d hd => (State.core_congr hzc d).trans ((hy2.cores d hd).trans (hcores d hd))
  refine ⟨by rw [State.queue_congr hzc, hq2], State.queues_of_core hall (fun r hr => ?_), ?_, hall, ?_, hbit, ?_⟩
  · rw [State.queue_congr hzc, hy2.queue r hr, hqs r hr]
  · rw [State.core_congr hzc, hy2.core, hcore]
  · rw [State.tallies_rd hev (regKey_not_eventKeys (by simp only [RegName.off]; omega)), ← hu]
    exact (congrArg (fun s : State => s.rd (.sequencer c) .qPc q) hy.symm).trans (State.rd_setFld_same ..)
  · have hzu : z = { u with regs := z.regs } := hev.rest.trans (by rw [hfree])
    rw [hzu, ← hu, ← hy]
    rfl

/-- Settling the holder of a core writes neither the events of its sequencer nor a queue's program counter (R78). -/
theorem switchKeys_not_queue {c : Fin 36} {q : Fin 8} {k : Nat} (h : k = regKey (.sequencer c) .event 0 ∨ k = regKey (.sequencer c) .qPc q) :
    k ∉ switchKeys c := by
  have := q.isLt
  simp only [switchKeys, eventKeys, List.mem_append, List.mem_cons, List.not_mem_nil, or_false, regKey, Pg.index, Pg.type,
    PageType.place, Pg.inst, RegName.off] at *
  omega

theorem execQueueAbort_waits {s : State} {c : Fin 36} {q : Fin 8} {f : Flight} (hu : s.up) (hl : s.coreLive c = true)
    (hs : (s.queue c q).state = .waiting) (hf : (s.queue c q).flights = [f]) (ho : f.ins.opcode = opWaitGe) (hd : f.done = false)
    (hold : f.old.taken = false) :
    exec (.queueAbort c q) s = .next ((s.setQueue c q { s.queue c q with
      flights := [{ f with status := .eAbort, fatal := true, done := true, wm := 0 }], state := .stopping }).drainQueue c q).settled := by
  have hun : f.unstarted = true := by simp [Flight.unstarted, hd, ho]
  have hback : s.putAllBack c q [f] = s := by
    show s.putBack c q f = s
    rw [State.putBack, hold]
    rfl
  rw [exec_queueAbort, execQueueAbort, State.awake_up hu, State.queueAbort]
  simp [hl, hs, hf, hun, hback]

/-- A WAIT_GE that waits alone in its queue is aborted: the queue is HALTED at it. -/
theorem State.abort_halts {s : State} {c : Fin 36} {q : Fin 8} {f : Flight} (hu : s.up) (hl : s.coreLive c = true)
    (hs : (s.queue c q).state = .waiting) (hf : (s.queue c q).flights = [f]) (ho : f.ins.opcode = opWaitGe) (hd : f.done = false)
    (hab : f.aborted = false) (hold : f.old.taken = false) (hp : f.ins.postEn = false) (hwait : (s.core c).waiting = [])
    (hfault : s.faultedWaiter = none) (hfast : s.est.fast = []) :
    ∃ t, exec (.queueAbort c q) s = .next t ∧ (t.queue c q).state = .halted ∧ (t.queue c q).flights = [] ∧
      (t.queue c q).lastStatus = Status.eAbort.code ∧
      t.rd (.sequencer c) .qPc q = setBits (s.rd (.sequencer c) .qPc q) 47 5 (f.pc / 32) ∧
      bit1 (t.rd (.sequencer c) .event 0) 0 = true ∧ s.semsSame t := by
  rw [execQueueAbort_waits hu hl hs hf ho hd hold]
  generalize hg : ({ f with status := .eAbort, fatal := true, done := true, wm := 0 } : Flight) = g
  obtain ⟨gins, gpc, gab, gfatal, gstatus, gdone⟩ : g.ins = f.ins ∧ g.pc = f.pc ∧ g.aborted = f.aborted ∧ g.fatal = true ∧
      g.status = .eAbort ∧ g.done = true := by
    rw [← hg]; exact ⟨rfl, rfl, rfl, rfl, rfl, rfl⟩
  have hsv := State.requeues_setQueue s c q { s.queue c q with flights := [g], state := .stopping }
  have hvq := State.queue_setQueue_same s c q { s.queue c q with flights := [g], state := .stopping }
  generalize s.setQueue c q { s.queue c q with flights := [g], state := .stopping } = v at *
  -- the instruction fails at the head of its queue, with an error record and a completion record where it asks for one
  have hrec := State.recorded_tileRecord v c q g (st := .eAbort) (by decide)
  have hcomp := State.tileComplete_rest (v.tileRecord c q g .eAbort) c q g .eAbort
  generalize hw : (v.tileRecord c q g .eAbort).tileComplete c q g .eAbort = w at hcomp
  have hwc : w.cores = v.cores := by rw [hcomp, hrec.rest]
  have hwpc : w.rd (.sequencer c) .qPc q = s.rd (.sequencer c) .qPc q := by
    have h1 : w.rd (.sequencer c) .qPc q = (v.tileRecord c q g .eAbort).rd (.sequencer c) .qPc q := State.rd_congr (by rw [hcomp]) _ _ _
    have h2 : (v.tileRecord c q g .eAbort).rd (.sequencer c) .qPc q = v.rd (.sequencer c) .qPc q :=
      hrec.regs _ (recordKeys_not_queue (.inr rfl)) (memoryKey_sequencer (by simp only [RegName.off]; omega))
    rw [h1, h2]
    exact State.rd_congr (by rw [hsv.rest]) _ _ _
  have hno : g.ins.opcode ≠ opAdd ∧ g.ins.opcode ≠ opSub := by rw [gins, ho]; decide
  have hhead : v.retireHead c q g = (w.setQueue c q ((v.queue c q).failedAt g .eAbort .stopping)).setPc c q g.pc := by
    have hans : g.answered = false := by simp [Flight.answered, hno.1, hno.2]
    rw [State.retireHead, if_pos (by rw [gstatus]; decide), hans, gstatus]
    exact State.failHead_fatal (by rw [hvq]) (by rw [gab, hab]) gfatal (by rw [gins, hp]) hno hw (State.queue_congr hwc c q)
  have hstop := State.settleHalt_stopped w c q (x := (v.queue c q).failedAt g .eAbort .stopping) rfl rfl g.pc
  have hret : v.retire c q ((v.queue c q).flights.length + 1) = v.retireHead c q g :=
    State.retire_lone (by rw [hvq]) gdone (by rw [hhead, State.queue_congr (State.setPc_cores ..), State.queue_setQueue_same]; rfl)
  rw [State.drainQueue, hret, hhead]
  generalize ((w.setQueue c q ((v.queue c q).failedAt g .eAbort .stopping)).setPc c q g.pc).settleHalt c q = z at hstop ⊢
  -- the core is settled, which leaves its queues but for their notes
  have hzs : s.semsSame z := State.semsSame_of_core (by rw [hstop.rest, hcomp, hrec.rest, hsv.rest])
    (fun d e => (hstop.cores d e).trans ((State.core_congr hwc d).trans (hsv.cores d e)))
    (by rw [hstop.core, State.core_congr hwc, hsv.core])
  rw [State.applyWaiting_none (by rw [hstop.core, State.core_congr hwc, hsv.core]; exact hwait)]
  have hyq := State.queue_setCore_self z c
  have hys : z.semsSame (z.setCore c (z.core c)) :=
    State.semsSame_of_core rfl (fun d _ => State.core_setCore_self z c d) (by rw [State.core_setCore_same])
  have hyr : (z.setCore c (z.core c)).regs = z.regs := rfl
  have hye : (z.setCore c (z.core c)).est = z.est := rfl
  generalize z.setCore c (z.core c) = y at *
  have hA := State.arbitrates_arbitrate y c
  have hAq := State.alike_arbitrate y c
  generalize y.arbitrate c = t at hA hAq ⊢
  have htq := hAq q
  rw [hyq, hstop.queue] at htq
  have hflights : (t.queue c q).flights = [] := List.length_eq_zero_iff.1 htq.length
  have hother (d r : Nat) (e : ¬(d = c.val ∧ r = q.val)) : (s.queue d r).alike (t.queue d r) := by
    have h1 : y.queue d r = s.queue d r := by
      rw [hyq, hstop.queues d r e, State.queue_congr hwc, State.queues_of_core hsv.cores hsv.queue d r e]
    by_cases k : d = c.val
    · subst k; rw [← h1]; exact hAq r
    · rw [← h1, show t.queue d r = y.queue d r by rw [State.queue, hA.cores d k]; rfl]
      exact Queue.alike_refl _
  have hsem : s.semsSame t := fun a d i => (hA.sems a d i).trans ((hys a d i).trans (hzs a d i))
  have hidle : t.est.fast = [] := by
    rw [hA.est, hye, hstop.rest, hcomp, hrec.rest, hsv.rest]
    exact hfast
  have hregs {r : RegName} {n : Nat} (h : regKey (.sequencer c) r n ∉ switchKeys c) (hlt : r.off n < 4096) :
      t.rd (.sequencer c) r n = z.rd (.sequencer c) r n :=
    (hA.regs _ h (memoryKey_sequencer hlt)).trans (State.reg_congr hyr _)
  rw [State.settled_calm (State.faultedWaiter_emptied hfault (fun a d i => by rw [hsem]) hflights hother) hidle]
  refine ⟨t, rfl, ?_, hflights, by rw [htq.rest]; rfl, ?_, ?_, hsem⟩
  · rcases htq.state with e | ⟨e, -⟩
    · exact e
    · cases e
  · rw [hregs (switchKeys_not_queue (.inr rfl)) (by simp only [RegName.off]; omega), hstop.pc, hwpc, gpc]
  · rw [hregs (switchKeys_not_queue (q := q) (.inl rfl)) (by decide), hstop.event]

/-- Settles O18: a queue that starts or goes on beside the holder, one that takes a free core, and one that is aborted as it waits. -/
theorem doorbellResults : Obligations.DoorbellResults := by
  unfold Obligations.DoorbellResults
  refine fun s c q hu hl htags => ⟨fun h hr hh hn hk hle hhigh => ⟨fun hs => ?start, fun hs => ?resume⟩, fun hr hh hq hs => ?takes,
    fun f h hs hf ho hd hab hold hp hh hn hk hhigh hwait hfault hfast => ?abort⟩
  case start =>
    exact ⟨_, execQueueStart_runs hu hl hr hs, State.queueRuns_beside ⟨hh, hn, hk, hhigh, htags⟩ hle true⟩
  case resume =>
    exact ⟨_, execQueueResume_runs hu hl hr hs, State.queueRuns_beside ⟨hh, hn, hk, hhigh, htags⟩ hle false⟩
  case takes =>
    obtain ⟨hholder, ⟨hrun, hseq, hflights⟩, hsems, hcores⟩ := State.queueRuns_takes hh hq htags
    exact ⟨_, execQueueStart_runs hu hl hr (.inl hs), hholder, hrun, hseq, hflights, hsems, hcores⟩
  case abort => exact State.abort_halts hu hl hs hf ho hd hab hold hp hwait hfault hfast

end Sys2Proof.Machine

/-! ## VCHAIN (R84, R96, R121, R125) -/

namespace Sys2Proof.Machine

/-! ### The start of a chain -/

/-- The keys of the registers in which a chain that starts in a core's vector engine counts (R132, R143). -/
def chainStartKeys (c : Fin 36) : List Nat :=
  [regKey (.vector c) .vecBusyCycles 0, regKey (.vector c) .vecLedgeWaitCycles 0, regKey (.vector c) .budgetWaitCycles 0]

/-- A chain that starts counts its waits and does nothing else. -/
theorem State.chainStarts_tallies (s : State) (c : Fin 36) (q need : Nat) : s.tallies (s.chainStarts c q need) (chainStartKeys c) := by
  have hwait : s.tallies (if 32 < need + (s.queue c q).regNeed then s.bumpFree (.vector c) .budgetWaitCycles 0 else s)
      (chainStartKeys c) := by
    split
    · exact State.tallies_bumpFree (by simp [chainStartKeys])
    · exact State.tallies_refl s _
  exact State.tallies_trans (State.tallies_trans hwait (State.tallies_bumpFree (by simp [chainStartKeys])))
    (State.tallies_bumpFree (by simp [chainStartKeys]))

/-- The program counter, the issue count and the control of a sequencer are none of the registers that a VCHAIN counts in. -/
theorem sequencer_not_vcKeys (c : Fin 36) {r : RegName} {i : Nat} (h : r.off i < 4096) :
    regKey (.sequencer c) r i ∉ chainStartKeys c ++ eventKeys (.score c) := by
  simp only [chainStartKeys, eventKeys, List.mem_append, List.mem_cons, List.not_mem_nil, or_false, regKey, Pg.index, Pg.type,
    PageType.place, Pg.inst]
  generalize r.off i = o at *
  simp only [RegName.off]
  omega

/-! ### What the run of a VCHAIN writes -/

/-- The state after a VCHAIN's chain has run and its result and what its stages store on the way are written. -/
def State.vcWritten (s : State) (c : Fin 36) (f : Flight) : State :=
  let h := Chain.ofWords f.chainW
  let o := s.vcOut c f
  (s.vcWrite c (Vc.of f.ins) (f.srIn (f.ins.rnd.getD .rne)) (h.srBase + h.n) o.cur).chainWrites c o.writes

/-- The state after the row sums of a VCHAIN over the score store are kept; a row of the store that is empty raises the event of its
page (R130, R150). -/
def State.vcSummed (s : State) (c : Fin 36) (sums : FMap (BitVec 32)) (empty : Bool) : State :=
  let s := s.setCore c { s.core c with scoreSum := sums }
  if empty then s.event (.score c) 0 else s

/-- The row sums of a matrix, by row (R130). -/
def Mat.rowSums (m : Mat) : FMap (BitVec 32) :=
  m.zipIdx.foldl (fun t (r, n) => FMap.set 0 t n (rne32 (chunkSum r))) []

/-- Whether a row of the score store that a VCHAIN reads has no maximum. -/
def State.vcEmpty (s : State) (c : Fin 36) (f : Flight) : Bool :=
  (Vc.of f.ins).srcSpace == 1 && (List.range f.m).any (fun n => (s.core c).maxOf n == 0xFF800000#32)

theorem State.vcRun_state (s : State) (c : Fin 36) (f : Flight) : (s.vcRun c f).1 =
    if (Vc.of f.ins).srcSpace = 1 then (s.vcWritten c f).vcSummed c (Mat.rowSums (s.vcOut c f).cur) (s.vcEmpty c f)
    else s.vcWritten c f := by
  unfold State.vcRun
  dsimp only
  by_cases e : (Vc.of f.ins).srcSpace = 1
  · simp only [e, if_true]
    unfold State.vcSummed State.vcEmpty
    rw [e]
    rfl
  · simp only [if_neg e]
    rfl

section
variable {s : State} {c : Fin 36} {f : Flight}

theorem State.works_vcWrite (s : State) (c : Fin 36) (ks : List Nat) (x : Vc) (sr : SrIn) (p : Nat) (m : Mat) :
    s.works (s.vcWrite c x sr p m) c ks := by
  unfold State.vcWrite
  split
  · exact State.works_writeRows ..
  · exact State.works_setCore ks ⟨rfl, rfl, rfl, rfl, rfl, rfl⟩

theorem State.works_vcWritten (s : State) (c : Fin 36) (f : Flight) (ks : List Nat) : s.works (s.vcWritten c f) c ks :=
  State.works_trans (State.works_vcWrite ..) (State.works_chainWrites ..)

/-- The row sums are kept in the core, and beside them only an event can have risen. -/
theorem State.vcSummed_tallies (s : State) (c : Fin 36) (sums : FMap (BitVec 32)) (empty : Bool) :
    (s.setCore c { s.core c with scoreSum := sums }).tallies (s.vcSummed c sums empty) (eventKeys (.score c)) := by
  cases empty
  · exact State.tallies_refl _ _
  · exact State.tallies_event 0 (List.Subset.refl _)

theorem State.works_vcSummed (s : State) (c : Fin 36) (sums : FMap (BitVec 32)) (empty : Bool) :
    s.works (s.vcSummed c sums empty) c (eventKeys (.score c)) :=
  State.works_trans (State.works_setCore (k := { s.core c with scoreSum := sums }) _ ⟨rfl, rfl, rfl, rfl, rfl, rfl⟩)
    (State.works_of_tallies (State.vcSummed_tallies s c sums empty) c)

theorem State.core_vcSummed (s : State) (c : Fin 36) (sums : FMap (BitVec 32)) (empty : Bool) :
    (s.vcSummed c sums empty).core c = { s.core c with scoreSum := sums } :=
  (State.core_congr (State.tallies_cores (State.vcSummed_tallies s c sums empty)) c).trans (State.core_setCore_same ..)

theorem State.mem_vcSummed (s : State) (c : Fin 36) (sums : FMap (BitVec 32)) (empty : Bool) :
    (s.vcSummed c sums empty).mem = s.mem :=
  (State.tallies_mem (State.vcSummed_tallies s c sums empty)).trans (State.setCore_mem ..)

theorem State.works_vcRun (s : State) (c : Fin 36) (f : Flight) : s.works (s.vcRun c f).1 c (eventKeys (.score c)) := by
  rw [State.vcRun_state]
  split
  · exact State.works_trans (State.works_vcWritten ..) (State.works_vcSummed ..)
  · exact State.works_vcWritten ..

theorem State.mem_vcRun (s : State) (c : Fin 36) (f : Flight) : (s.vcRun c f).1.mem = (s.vcWritten c f).mem := by
  rw [State.vcRun_state]
  split
  · exact State.mem_vcSummed ..
  · rfl

theorem State.core_writeRows (s : State) (f : Fmt) (x : SrIn) (point off stride : Nat) (m : Mat) (c : Fin 36) (d : Nat) :
    (s.writeRows f x point (ledgeAt c off) stride m).core d = s.core d :=
  State.core_congr (by
    rw [(State.wrote_writeRows s f x point _ stride m).2.2 (Mat.wrote_ledge c off stride (fun r => f.rowBytes r.length) m)]) d

theorem State.core_chainWrites (s : State) (c : Fin 36) (l : List (Nat × List Byte)) (d : Nat) :
    (s.chainWrites c l).core d = s.core d :=
  State.core_congr (by rw [(State.wrote_chainWrites s c l).2.2 (fun r hr => by
    obtain ⟨p, -, rfl⟩ := List.mem_map.1 hr
    exact harbourAddr_ledgeAt c p.1)]) d

/-- Of the core, the writes of a VCHAIN change the tile registers alone, and these where its result goes to them (R121). -/
theorem State.core_vcWritten (s : State) (c : Fin 36) (f : Flight) :
    (s.vcWritten c f).core c = { s.core c with tregs := ((s.vcWritten c f).core c).tregs } ∧
      ((Vc.of f.ins).dstSpace = 0 → (s.vcWritten c f).core c = s.core c) := by
  unfold State.vcWritten State.vcWrite
  rw [State.core_chainWrites]
  split
  · rw [State.core_writeRows]
    exact ⟨rfl, fun _ => rfl⟩
  · next h =>
    rw [State.core_setCore_same]
    exact ⟨rfl, fun e => absurd e h⟩

/-- Of the core, a VCHAIN changes tile registers where its result goes to them, and the row sums where it reads the score store. -/
theorem State.core_vcRun (s : State) (c : Fin 36) (f : Flight) :
    (s.vcRun c f).1.core c = { s.core c with
      tregs := ((s.vcRun c f).1.core c).tregs, scoreSum := ((s.vcRun c f).1.core c).scoreSum } ∧
    ((Vc.of f.ins).dstSpace = 0 → ((s.vcRun c f).1.core c).tregs = (s.core c).tregs) ∧
    ((Vc.of f.ins).srcSpace ≠ 1 → ((s.vcRun c f).1.core c).scoreSum = (s.core c).scoreSum) := by
  obtain ⟨hcore, hkeeps⟩ := State.core_vcWritten s c f
  rw [State.vcRun_state]
  split
  · next h =>
    rw [State.core_vcSummed]
    exact ⟨by rw [hcore], fun e => by rw [hkeeps e], fun e => absurd h e⟩
  · have hsum : ((s.vcWritten c f).core c).scoreSum = (s.core c).scoreSum := by rw [hcore]
    exact ⟨by rw [hsum]; exact hcore, fun e => by rw [hkeeps e], fun _ => hsum⟩

/-- The bytes that a VCHAIN can change: its rows in the Ledge and what its stages write there (R84, R125). -/
theorem State.bytesBut_vcWritten (s : State) (c : Fin 36) (f : Flight) :
    s.bytesBut (s.vcWritten c f) ((if (Vc.of f.ins).dstSpace = 0 then
        (s.vcOut c f).cur.zipIdx.map (fun (r, n) => (ledgeAt c ((Vc.of f.ins).dst * 64) + n * (Vc.of f.ins).dstStride,
          (Vc.of f.ins).fo.rowBytes r.length)) else []) ++
      (s.vcOut c f).writes.map (fun p => (ledgeAt c p.1, p.2.length))) := by
  refine State.bytesBut_trans ?_ (State.wrote_chainWrites ..).2.1
  unfold State.vcWrite
  split
  · exact (State.wrote_writeRows ..).2.1
  · exact fun a _ => rfl

/-- Each row of a VCHAIN's result stands encoded in the Ledge, where rows do not overlap and no stage writes there (R125). -/
theorem State.bytes_vcWritten {s : State} {c : Fin 36} {f : Flight} (hd : (Vc.of f.ins).dstSpace = 0) (hw : (s.vcOut c f).writes = [])
    (hr : ∀ r ∈ (s.vcOut c f).cur, (Vc.of f.ins).fo.rowBytes r.length ≤ (Vc.of f.ins).dstStride) {n : Nat} {r : List FVal}
    (e : (s.vcOut c f).cur[n]? = some r) :
    (s.vcWritten c f).bytes (ledgeAt c ((Vc.of f.ins).dst * 64) + n * (Vc.of f.ins).dstStride) ((Vc.of f.ins).fo.rowBytes r.length) =
      encodeRow (Vc.of f.ins).fo (f.srIn (f.ins.rnd.getD .rne)) ((Chain.ofWords f.chainW).srBase + (Chain.ofWords f.chainW).n) n
        (s.bytes (ledgeAt c ((Vc.of f.ins).dst * 64) + n * (Vc.of f.ins).dstStride) ((Vc.of f.ins).fo.rowBytes r.length)) r := by
  unfold State.vcWritten State.vcWrite
  dsimp only
  rw [hw, if_pos hd]
  exact State.bytes_writeRows _ _ _ _ _ _ _ hr e

/-! ### The instruction -/

/-- The flight of a VCHAIN that starts. -/
def State.vcFlight (s : State) (c : Fin 36) (q : Nat) (i : Ins) : Flight :=
  let x := Vc.of i
  s.withSr c q { started i (s.vcTouch c i) false with
    m := s.extent c q i 1 x.rows, n := s.extent c q i 2 x.cols, chainW := s.chainWords c x.chainId }

/-- The tile registers that the chain of a VCHAIN's flight needs (R132, R140). -/
def Flight.vcNeed (f : Flight) : Nat := (Vc.of f.ins).need (Chain.ofWords f.chainW).stages

/-- A VCHAIN's flight with what its effects are about to replace and the tile registers it needs (R98, R132). -/
def State.vcArmed (s : State) (c : Fin 36) (q : Nat) (f : Flight) : Flight := { f with old := s.snapshot c q f, need := f.vcNeed }

/-- A VCHAIN's run from the start of its chain. -/
def State.vcRan (s : State) (c : Fin 36) (q : Nat) (f : Flight) : State × Flight :=
  (s.chainStarts c q f.vcNeed).vcRun c (s.vcArmed c q f)

theorem State.vcRun_atEnd {s : State} {c : Fin 36} {f : Flight} (h : (Vc.of f.ins).srcSpace ≠ 1) :
    (s.vcRun c f).2.atEnd = f.atEnd ++ (s.vcOut c f).atEnd := by
  unfold State.vcRun
  dsimp only
  rw [if_neg h]
  exact List.append_nil _

theorem execVchain_runs {s : State} {c : Fin 36} {q : Fin 8} {i : Ins} (h : s.issues c q i) (ho : i.opcode = opVchain)
    (hf : (s.queue c q).free (s.vcTouch c i) = true) (hc : s.vcCheck c q i = .ok) (hz : s.lenZero c q i = false) :
    exec (.vchain c q) s =
      .next ((s.vcRan c q (s.vcFlight c q i)).1.issue c q (s.vcRan c q (s.vcFlight c q i)).2 (i.pc + 32)) := by
  rw [exec_vchain, execVchain, State.awake_up h.up, State.row_issues h (by simp [ho]) (by rw [ho]; decide)
    (by rw [ho]; exact fun e => absurd e (by decide))]
  simp only [hf, hc, hz, Bool.not_true, Bool.false_eq_true, ne_eq, not_true_eq_false, if_false]
  rfl

theorem State.works_vcRan (s : State) (c : Fin 36) (q : Nat) (f : Flight) :
    s.works (s.vcRan c q f).1 c (chainStartKeys c ++ eventKeys (.score c)) :=
  State.works_trans (State.works_mono (State.works_of_tallies (State.chainStarts_tallies ..) c) (List.subset_append_left ..))
    (State.works_mono (State.works_vcRun ..) (List.subset_append_right ..))

end

/-- Settles O12: a VCHAIN is in flight with what its chain leaves, and writes its rows and what its stages store alone. -/
theorem vectorChainResults : Obligations.VectorChainResults := by
  unfold Obligations.VectorChainResults
  rintro s c q i x f u o h rfl ho hf hc hz hF hu rfl
  replace hF : f = s.vcFlight c q i := hF
  have hins : f.ins = i := by rw [hF]; rfl
  have hatEnd : f.atEnd = [] := by rw [hF]; rfl
  have hdone : f.done = false := by rw [hF]; rfl
  have hexec := execVchain_runs h ho hf hc hz
  rw [← hF] at hexec
  clear hF
  subst hins
  have hkey {r : RegName} {j : Nat} := sequencer_not_vcKeys c (r := r) (i := j)
  have hq := q.isLt
  have hstarts := State.chainStarts_tallies s c q f.vcNeed
  rw [show s.chainStarts c q f.vcNeed = u from hu.symm] at hstarts
  have hran : s.vcRan c q f = u.vcRun c (s.vcArmed c q f) := by rw [hu]; rfl
  obtain ⟨hent, hcore, hmem, -⟩ := State.works_enters (q := q) (f := (s.vcRan c q f).2) (next := f.ins.pc + 32) rfl
    (State.works_vcRan s c q f) (hkey (by simp only [RegName.off]; omega)) (hkey (by decide)) (hkey (by decide))
    (hkey (by simp only [RegName.off]; omega))
  rw [hran] at hexec hent hcore hmem
  obtain ⟨hu_run, htregs, hsums⟩ := State.core_vcRun u c (s.vcArmed c q f)
  rw [State.core_congr (State.tallies_cores hstarts)] at hu_run htregs hsums
  have hwritten := hmem.trans (State.mem_vcRun u c (s.vcArmed c q f))
  have hbyte (a : Nat) : u.byte a = s.byte a := State.byte_congr (State.tallies_mem hstarts) a
  refine ⟨_, _, hexec, hent, rfl, rfl, rfl, hdone, rfl, rfl, rfl, rfl, fun hsrc => ?log, ?core, fun hd => ?tregs, fun hs => ?sums,
    fun a ha => ?frame, fun hd hw hr n r e => ?rows⟩
  case log => exact (State.vcRun_atEnd (f := s.vcArmed c q f) hsrc).trans (congrArg (· ++ _) hatEnd)
  case core =>
    rw [hcore, hu_run]
  case tregs =>
    rw [hcore]
    exact htregs hd
  case sums =>
    rw [hcore]
    exact hsums hs
  case frame =>
    exact (State.byte_congr hwritten a).trans ((State.bytesBut_vcWritten u c (s.vcArmed c q f) a ha).trans (hbyte a))
  case rows =>
    refine (State.bytes_congr (State.byte_congr hwritten) _ _).trans ((State.bytes_vcWritten (s := u) (c := c) (f := s.vcArmed c q f)
      hd hw hr e).trans ?_)
    rw [State.bytes_congr hbyte]
    rfl

end Sys2Proof.Machine

/-! ## Copies -/

namespace Sys2Proof.Machine

/-! ### What the writes of an engine change -/

/-- From s to t a copy has read and written: of memory only bytes of the ranges, and beside memory only what Harbour and the stacks
keep and the registers that count it may differ. -/
structure State.copied (s t : State) (rs : List (Nat × Nat)) : Prop where
  rest : t = { s with
    regs := t.regs, mem := t.mem, bad := t.bad, harbour := t.harbour, pfLines := t.pfLines, pf := t.pf, dirty := t.dirty, wc := t.wc,
    regulators := t.regulators, freeIx := t.freeIx }
  regs : ∀ k, memoryKey k = false → t.reg k = s.reg k
  bytes : s.bytesBut t rs

/-- One of the ranges holds the n bytes from an address on. -/
def inRanges (rs : List (Nat × Nat)) (a n : Nat) : Prop := ∃ r ∈ rs, r.1 ≤ a ∧ a + n ≤ r.1 + r.2

theorem inRanges_sub {rs : List (Nat × Nat)} {a n b l : Nat} (h : inRanges rs a n) (ha : a ≤ b) (hl : b + l ≤ a + n) :
    inRanges rs b l := by
  obtain ⟨r, hr, h1, h2⟩ := h
  exact ⟨r, hr, h1.trans ha, hl.trans h2⟩

section
variable {rs : List (Nat × Nat)}

theorem State.copied_refl (s : State) (rs : List (Nat × Nat)) : s.copied s rs := ⟨rfl, fun _ _ => rfl, fun _ _ => rfl⟩

theorem State.copied_trans {s t u : State} (h : s.copied t rs) (k : t.copied u rs) : s.copied u rs :=
  ⟨by rw [k.rest, h.rest], fun i hi => (k.regs i hi).trans (h.regs i hi), fun a ha => (k.bytes a ha).trans (h.bytes a ha)⟩

theorem State.copied_of_through {s t : State} (h : s.through t) (rs : List (Nat × Nat)) : s.copied t rs :=
  ⟨by rw [h.1], h.2, fun a _ => State.byte_congr (by rw [h.1]) a⟩

theorem State.copied_of_behind {s t : State} (h : s.behind t) (rs : List (Nat × Nat)) : s.copied t rs :=
  State.copied_of_through (State.through_of_behind h) rs

theorem State.copied_foldl {α : Type} {f : State → α → State} (l : List α) (hf : ∀ (s : State), ∀ x ∈ l, s.copied (f s x) rs) (s : State) :
    s.copied (l.foldl f s) rs := by
  induction l generalizing s with
  | nil => exact State.copied_refl s rs
  | cons x l ih =>
    exact State.copied_trans (hf s x List.mem_cons_self) (ih (fun s y hy => hf s y (List.mem_cons_of_mem _ hy)) _)

theorem State.copied_store (s : State) {a : Nat} {bs : List Byte} (h : inRanges rs a bs.length) : s.copied (s.store a bs) rs :=
  ⟨by rw [State.store_behind], fun _ hk => State.reg_store s a bs hk, State.bytesBut_store (fun _ _ => rfl) h⟩

theorem State.copied_poke (s : State) {a : Nat} {bs : List Byte} (h : inRanges rs a bs.length) : s.copied (s.poke a bs) rs := by
  refine ⟨rfl, fun _ _ => rfl, fun x hx => ?_⟩
  obtain ⟨r, hr, h1, h2⟩ := h
  rw [State.byte_poke, if_neg (fun e => hx r hr ⟨by omega, by omega⟩)]

theorem redBytes_length_le (op : Nat) (old new : List Byte) : (redBytes op old new).length ≤ new.length := by
  unfold redBytes
  simp only [List.length_flatMap, leBytes_length, List.map_const', List.sum_replicate, List.length_range, smul_eq_mul]
  exact Nat.div_mul_le_self _ _

theorem State.copied_reduceAt (s : State) (op : Nat) {a : Nat} {bs : List Byte} (h : inRanges rs a bs.length) :
    s.copied (s.reduceAt op a bs) rs := by
  have hle := redBytes_length_le op (s.bytes a bs.length) bs
  exact State.copied_trans (State.copied_store s (inRanges_sub h le_rfl (by omega)))
    (State.copied_of_behind (State.bump_behind _ (memoryKey_harbour (by decide)) _) rs)

theorem State.streamLine_behind (s : State) (a n line : Nat) : s.behind (s.streamLine a n line) := by
  have hsoil (t : State) : t.behind (t.soil a n) := ⟨rfl, fun _ _ => rfl⟩
  unfold State.streamLine
  refine State.behind_trans (State.lineUse_behind s true false line) ?_
  dsimp only
  split
  · exact hsoil _
  · split
    · exact State.wcPut_behind ..
    · exact State.behind_refl _

/-- One piece of a write changes memory in the piece alone, whatever its region does (R245, R248). -/
theorem State.copied_writeRun (s : State) {r : Option Region × Nat × List Byte} (h : inRanges rs r.2.1 r.2.2.length) :
    s.copied (s.writeRun r) rs := by
  obtain ⟨g, a, bs⟩ := r
  unfold State.writeRun
  dsimp only
  split
  · exact State.copied_trans (State.copied_poke s h)
      (State.copied_of_behind (State.behind_fold (fun t l => State.streamLine_behind t _ _ l) _) rs)
  · exact State.copied_reduceAt s _ h
  · exact State.copied_store s h

theorem pages4k_nil (a fuel : Nat) : pages4k a [] fuel = [] := by cases fuel <;> rfl

/-- The pieces of a write lie in what is written. -/
theorem State.mem_joinRuns_pages4k (s : State) (fuel a : Nat) (bs : List Byte) {r : Option Region × Nat × List Byte}
    (h : r ∈ s.joinRuns (pages4k a bs fuel)) : a ≤ r.2.1 ∧ r.2.1 + r.2.2.length ≤ a + bs.length := by
  induction fuel generalizing a bs r with
  | zero => exact absurd h List.not_mem_nil
  | succ fuel ih =>
    rw [pages4k] at h
    split at h
    · exact absurd h List.not_mem_nil
    · rw [State.joinRuns] at h
      have hrest {p} (hp : p ∈ s.joinRuns (pages4k (a + (4096 - a % 4096)) (bs.drop (4096 - a % 4096)) fuel)) := ih _ _ hp
      have hnil (hle : bs.length ≤ 4096 - a % 4096) : s.joinRuns (pages4k (a + (4096 - a % 4096)) (bs.drop (4096 - a % 4096)) fuel) = [] := by
        rw [List.drop_eq_nil_of_le hle, pages4k_nil]
        rfl
      generalize s.joinRuns _ = rest at h hrest hnil
      simp only [List.length_drop] at hrest
      cases rest with
      | nil =>
        rw [List.mem_singleton.1 h]
        simp
      | cons p t =>
        obtain ⟨g, b, cs⟩ := p
        have hfst := hrest List.mem_cons_self
        have hlen : (bs.take (4096 - a % 4096)).length = min (4096 - a % 4096) bs.length := List.length_take ..
        have hmore := mt hnil (List.cons_ne_nil _ _)
        dsimp only at h hfst
        split at h
        · rcases List.mem_cons.1 h with rfl | h
          · simp only [List.length_append, hlen]; omega
          · have := hrest (List.mem_cons_of_mem _ h); omega
        · rcases List.mem_cons.1 h with rfl | h
          · dsimp only; omega
          · rcases List.mem_cons.1 h with rfl | h
            · dsimp only; omega
            · have := hrest (List.mem_cons_of_mem _ h); omega

theorem State.copied_engineWrite (s : State) (cl : Nat) {a : Nat} {bs : List Byte} (h : inRanges rs a bs.length) :
    s.copied (s.engineWrite cl a bs).2 rs := by
  unfold State.engineWrite
  split
  · exact State.copied_refl s rs
  · split
    · exact State.copied_poke s h
    · dsimp only
      split
      · refine State.copied_trans (State.copied_foldl _ (fun t r hr => State.copied_writeRun t ?_) s)
          (State.copied_of_through (State.traffic_through ..) rs)
        have hin := State.mem_joinRuns_pages4k s _ a bs hr
        exact inRanges_sub h hin.1 hin.2
      · exact State.copied_refl s rs

end
end Sys2Proof.Machine

namespace Sys2Proof.Machine

/-! ### Rows stored one after another -/

/-- Rows of bytes stored at a stride. -/
def State.pokeRows (s : State) (a stride : Nat) (rows : List (List Byte)) : State :=
  rows.zipIdx.foldl (fun (s : State) p => s.poke (a + p.2 * stride) p.1) s

/-- The ranges of some rows of n bytes at a stride. -/
def rowRanges (a stride rows n : Nat) : List (Nat × Nat) := (List.range rows).map (fun r => (a + r * stride, n))

theorem inRanges_rowRanges {a stride rows n r : Nat} (h : r < rows) : inRanges (rowRanges a stride rows n) (a + r * stride) n :=
  ⟨_, List.mem_map.2 ⟨r, List.mem_range.2 h, rfl⟩, le_rfl, le_rfl⟩

/-- A row of a list of rows of n bytes, with its number. -/
theorem zipIdx_row {rows : List (List Byte)} {n : Nat} (hl : ∀ bs ∈ rows, bs.length = n) {p : List Byte × Nat} (h : p ∈ rows.zipIdx) :
    p.2 < rows.length ∧ p.1.length = n := by
  obtain ⟨-, hlt, he⟩ := List.mem_zipIdx h
  exact ⟨by omega, hl _ (he ▸ List.getElem_mem _)⟩

/-- Storing rows changes memory and its marks alone. -/
theorem State.pokeRows_rest (s : State) (a stride : Nat) (rows : List (List Byte)) :
    s.pokeRows a stride rows = { s with mem := (s.pokeRows a stride rows).mem, bad := (s.pokeRows a stride rows).bad } := by
  unfold State.pokeRows
  induction rows.zipIdx generalizing s with
  | nil => rfl
  | cons p l ih =>
    rw [List.foldl_cons, ih]
    rfl

theorem State.core_pokeRows (s : State) (a stride : Nat) (rows : List (List Byte)) (d : Nat) :
    (s.pokeRows a stride rows).core d = s.core d := State.core_congr (by rw [State.pokeRows_rest]) d

theorem State.works_pokeRows (s : State) (c : Fin 36) (ks : List Nat) (a stride : Nat) (rows : List (List Byte)) :
    s.works (s.pokeRows a stride rows) c ks := State.works_of_mem (by rw [State.pokeRows_rest]) c ks

theorem State.copied_pokeRows (s : State) {a stride n : Nat} {rows : List (List Byte)} {rs : List (Nat × Nat)}
    (hl : ∀ bs ∈ rows, bs.length = n) (hr : ∀ r < rows.length, inRanges rs (a + r * stride) n) : s.copied (s.pokeRows a stride rows) rs :=
  State.copied_foldl _ (fun s p hp => by
    obtain ⟨hlt, hlen⟩ := zipIdx_row hl hp
    exact State.copied_poke s (by rw [hlen]; exact hr _ hlt)) s

theorem State.bytes_poke_same (s : State) (a : Nat) (bs : List Byte) : (s.poke a bs).bytes a bs.length = bs :=
  State.bytes_eq (fun i hi => by rw [State.byte_poke, if_pos (by omega)]; congr 1; omega)

theorem State.bytes_poke_other (s : State) {a b n : Nat} {bs : List Byte} (h : b + n ≤ a ∨ a + bs.length ≤ b) :
    (s.poke a bs).bytes b n = s.bytes b n :=
  State.bytes_bytesBut (State.copied_poke s ⟨_, List.mem_singleton_self (a, bs.length), le_rfl, le_rfl⟩).bytes
    (fun r hr => by rw [List.mem_singleton.1 hr]; exact h)

theorem State.pokeRows_append (s : State) (a stride : Nat) (rows : List (List Byte)) (bs : List Byte) :
    s.pokeRows a stride (rows ++ [bs]) = (s.pokeRows a stride rows).poke (a + rows.length * stride) bs := by
  unfold State.pokeRows
  rw [List.zipIdx_append, List.foldl_append]
  simp

/-- Each row stored reads back, where rows do not overlap. -/
theorem State.bytes_pokeRows (s : State) {a stride n : Nat} {rows : List (List Byte)} (hl : ∀ bs ∈ rows, bs.length = n)
    (ho : n ≤ stride ∨ rows.length ≤ 1) {r : Nat} {bs : List Byte} (e : rows[r]? = some bs) :
    (s.pokeRows a stride rows).bytes (a + r * stride) n = bs := by
  induction rows using List.reverseRecOn with
  | nil => cases e
  | append_singleton rows last ih =>
    rw [State.pokeRows_append]
    have hlast : last.length = n := hl last (by simp)
    have hlt : r < rows.length + 1 := by
      have := (List.getElem?_eq_some_iff.1 e).1
      simpa using this
    rcases Nat.lt_succ_iff_lt_or_eq.1 hlt with hr | rfl
    · rw [List.getElem?_append_left hr] at e
      have hn : n ≤ stride := ho.resolve_right (by rw [List.length_append, List.length_singleton]; omega)
      have hstep := Nat.mul_le_mul_right stride (Nat.succ_le_of_lt hr)
      rw [Nat.succ_mul] at hstep
      rw [State.bytes_poke_other _ (.inl (by omega))]
      exact ih (fun b hb => hl b (by simp [hb])) (.inl hn) e
    · obtain rfl : last = bs := by simpa using e
      rw [← hlast]
      exact State.bytes_poke_same ..

/-! ### The deliveries of a multicast (R115, R135) -/

theorem State.window_congr {s t : State} {m : Fin 36} {n : Nat} (h : ∀ r, r.off n < 4096 → t.rd (.vector m) r n = s.rd (.vector m) r n)
    (hn : n < 4) : t.window m n = s.window m n := by
  unfold State.window
  rw [h .arrive (by simp only [RegName.off]; omega), h .arrivePtr (by simp only [RegName.off]; omega)]

/-- A member none of whose windows counts. -/
def State.deaf (s : State) (m : Fin 36) : Prop := ∀ n < 4, (s.window m n).2.2.2 = false

/-- A register of a vector page counts nothing of memory. -/
theorem memoryKey_vector {m : Fin 36} {r : RegName} {i : Nat} (hr : r.off i < 4096) : memoryKey (regKey (.vector m) r i) = false := by
  rw [memoryKey_regKey (by revert m; decide) hr]; rfl

/-- A copy writes no register of an arrival window. -/
theorem State.deaf_copied {s t : State} {rs : List (Nat × Nat)} {m : Fin 36} (h : s.deaf m) (hc : s.copied t rs) : t.deaf m := by
  intro n hn
  rw [State.window_congr (fun r hr => ?_) hn]
  · exact h n hn
  · rw [State.rd_eq_reg, hc.regs _ (memoryKey_vector hr)]
    rfl

/-- A delivery where no window counts stores its bytes and does nothing else. -/
theorem State.deliver_deaf {s : State} {m : Fin 36} (h : s.deaf m) (off : Nat) (bs : List Byte) :
    s.deliver m off bs = s.poke (ledgeAt m off) bs := by
  have hw (n : Nat) (hn : n < 4) : ((s.poke (ledgeAt m off) bs).window m n).2.2.2 = false := h n hn
  unfold State.deliver
  simp [List.range_succ, hw]

end Sys2Proof.Machine

namespace Sys2Proof.Machine

/-! ### MOVE (R85, R96, R113, R115) -/

/-- The rows of a MOVE as its source holds them. -/
def State.mvRows (s : State) (x : Mv) (rows : Nat) : List (List Byte) :=
  (List.range rows).map (fun r => s.bytes (x.src + r * x.srcStride) x.rowBytes)

/-- The state after a MOVE has read its rows (R85, R256). -/
def State.mvReads (s : State) (c : Fin 36) (cl : Nat) (x : Mv) (rows : Nat) : State :=
  (s.mvRows x rows).zipIdx.foldl (fun (s : State) r => s.readsBy c cl (x.src + r.2 * x.srcStride) r.1.length) s

/-- The state after a MOVE has read its rows and written them. -/
def State.mvMoved (s : State) (c : Fin 36) (cl : Nat) (x : Mv) (rows : Nat) : State :=
  (s.mvReads c cl x rows).mvWrite cl x (s.mvRows x rows)

/-- The flight of a MOVE whose source has no uncorrectable word: all its units are committed (R96). -/
def State.mvFlight (s : State) (c : Fin 36) (q : Nat) (i : Ins) (rows : Nat) : Flight :=
  let x := Mv.of i
  let f := { started i (s.mvTouch c i) false with m := rows }
  let total := ceilDiv (spanOf rows x.dstStride x.rowBytes) 4096
  { f with
    old := s.snapshot c q f
    counts := if x.group = 0 then []
      else [(Pg.multicast, RegName.mcastBridgeBytes, 0, s.mvBridge c x ((s.mvRows x rows).map List.length).sum)]
    total := total, wm := total }

theorem State.mvRead_good {s : State} {x : Mv} {rows : Nat} (h : ∀ r < rows, s.badIn (x.src + r * x.srcStride) x.rowBytes = none) :
    s.mvRead x rows = (s.mvRows x rows, none) := by
  have hnone : (List.range rows).findSome? (fun r => (s.badIn (x.src + r * x.srcStride) x.rowBytes).map (fun a => (r, a))) = none := by
    rw [List.findSome?_eq_none_iff]
    intro r hr
    rw [h r (List.mem_range.1 hr)]
    rfl
  unfold State.mvRead
  rw [hnone]
  rfl

theorem execMove_runs {s : State} {c : Fin 36} {q : Fin 8} {i : Ins} (h : s.issues c q i) (ho : i.opcode = opMove)
    (hf : (s.queue c q).free (s.mvTouch c i) = true) (htag : (s.core c).dmaTags < 256) (hv : s.mvServed (Mv.of i) = true)
    (hc : s.mvCheck c q i = .ok) (hz : s.lenZero c q i = false)
    (hb : ∀ r < s.extent c q i 1 (Mv.of i).rows, s.badIn ((Mv.of i).src + r * (Mv.of i).srcStride) (Mv.of i).rowBytes = none) :
    let rows := s.extent c q i 1 (Mv.of i).rows
    exec (.move c q) s = .next
      ((s.mvMoved c (s.qClass c q) (Mv.of i) rows).issue c q (s.mvFlight c q i rows) (i.pc + 32)).settled := by
  have hrun := State.mvRead_good hb
  rw [exec_move, execMove, State.awake_up h.up, State.row_issues h (by simp [ho]) (by rw [ho]; decide)
    (by rw [ho]; exact fun e => absurd e (by decide))]
  simp only [hf, hv, hc, hz, Nat.not_le.2 htag, Bool.not_true, Bool.false_eq_true, ne_eq, not_true_eq_false, if_false]
  unfold State.mvRun
  dsimp only
  rw [show Mv.of (Flight.ins { started i (s.mvTouch c i) false with m := s.extent c q i 1 (Mv.of i).rows }) = Mv.of i from rfl, hrun]
  rfl

/-! What the checks of a MOVE leave (R95). -/

/-- Where a list of checks passes, its first check holds and the rest pass. -/
theorem firstFail_check_ok {b : Bool} {st : Status} {l : List Status} (hs : st ≠ .ok) (h : firstFail (check b st :: l) = .ok) :
    b = true ∧ firstFail l = .ok := by
  cases b with
  | true => exact ⟨rfl, h⟩
  | false =>
    rw [show check false st = st from rfl, firstFail] at h
    · exact absurd h hs
    · exact hs

theorem State.mvCheck_ok {s : State} {c : Fin 36} {q : Nat} {i : Ins} (h : s.mvCheck c q i = .ok) (hz : s.lenZero c q i = false) :
    s.extent c q i 1 (Mv.of i).rows ≤ (Mv.of i).rows ∧ (Mv.of i).rowBytes ≠ 0 ∧
      ((Mv.of i).group ≠ 0 → inLedge (Mv.of i).dst (spanOf (Mv.of i).rows (Mv.of i).dstStride (Mv.of i).rowBytes) = true) := by
  unfold State.mvCheck at h
  dsimp only at h
  split at h
  · cases h
  · by_cases hl : s.lenCheck c q i (Mv.of i).rows = .ok
    · rw [if_neg (by simp [hl]), if_neg (by simp [hz])] at h
      split at h
      · cases h
      · next hs =>
        refine ⟨State.extent_le hl (by decide) (fun _ => rfl), fun e => hs (.inl e), fun hg => ?_⟩
        have hgroup := (firstFail_check_ok (by decide) (firstFail_check_ok (by decide) h).2).1
        rw [Bool.or_eq_true, Bool.and_eq_true] at hgroup
        exact (hgroup.resolve_left (by simpa using hg)).2
    · rw [if_pos hl] at h
      exact absurd h hl

/-! What a MOVE leaves of memory before it is in flight. -/

section
variable {s : State} {c : Fin 36} {cl : Nat} {x : Mv} {rows : Nat}

theorem State.mvRows_length : (s.mvRows x rows).length = rows := by simp [State.mvRows]

theorem State.mvRows_rowBytes : ∀ bs ∈ s.mvRows x rows, bs.length = x.rowBytes := by
  intro bs h
  obtain ⟨r, -, rfl⟩ := List.mem_map.1 h
  exact State.bytes_length ..

theorem State.mvRows_getElem {r : Nat} (h : r < rows) :
    (s.mvRows x rows)[r]? = some (s.bytes (x.src + r * x.srcStride) x.rowBytes) := by
  simp [State.mvRows, h]

theorem State.mvReads_through : s.through (s.mvReads c cl x rows) :=
  State.through_fold (fun t _ => State.readsBy_through t ..) _

/-- Reads of a Ledge move nothing of Harbour. -/
theorem State.mvReads_ledge (h : ∀ r < rows, harbourAddr (x.src + r * x.srcStride) = false) : s.mvReads c cl x rows = s := by
  have hid : ∀ l : List (List Byte × Nat), (∀ p ∈ l, p.2 < rows) →
      l.foldl (fun (t : State) r => t.readsBy c cl (x.src + r.2 * x.srcStride) r.1.length) s = s := by
    intro l
    induction l with
    | nil => exact fun _ => rfl
    | cons p l ih =>
      intro hl
      have hp : s.readsBy c cl (x.src + p.2 * x.srcStride) p.1.length = s := by
        unfold State.readsBy
        rw [h _ (hl p List.mem_cons_self)]
        rfl
      rw [List.foldl_cons, hp]
      exact ih (fun p hp => hl p (List.mem_cons_of_mem _ hp))
  refine hid _ (fun p hp => ?_)
  have := (zipIdx_row State.mvRows_rowBytes hp).1
  rwa [State.mvRows_length] at this

/-- A unicast changes memory in its destination rows alone, whatever governs them. -/
theorem State.mvMoved_unicast (hg : x.group = 0) : s.copied (s.mvMoved c cl x rows) (rowRanges x.dst x.dstStride rows x.rowBytes) := by
  refine State.copied_trans (State.copied_of_through (State.mvReads_through (c := c) (cl := cl) (x := x) (rows := rows)) _) ?_
  unfold State.mvMoved State.mvWrite
  rw [if_pos hg]
  refine State.copied_foldl _ (fun t p hp => State.copied_engineWrite t cl ?_) _
  obtain ⟨hlt, hlen⟩ := zipIdx_row State.mvRows_rowBytes hp
  rw [hlen]
  exact inRanges_rowRanges (by rwa [State.mvRows_length] at hlt)

/-- A unicast from Ledge to Ledge stores its rows and does nothing else. -/
theorem State.mvMoved_ledge (hg : x.group = 0) (hn : x.rowBytes ≠ 0)
    (h : ∀ r < rows, harbourAddr (x.src + r * x.srcStride) = false ∧ harbourAddr (x.dst + r * x.dstStride) = false) :
    s.mvMoved c cl x rows = s.pokeRows x.dst x.dstStride (s.mvRows x rows) := by
  unfold State.mvMoved State.mvWrite
  rw [State.mvReads_ledge (fun r hr => (h r hr).1), if_pos hg]
  refine List.foldl_ext _ _ _ (fun t p hp => ?_)
  obtain ⟨hlt, hlen⟩ := zipIdx_row State.mvRows_rowBytes hp
  rw [State.mvRows_length] at hlt
  have hne : p.1.isEmpty = false := by
    rw [List.isEmpty_eq_false_iff_exists_mem, ← List.length_pos_iff_exists_mem]
    omega
  show (t.engineWrite cl (x.dst + p.2 * x.dstStride) p.1).2 = _
  unfold State.engineWrite
  rw [hne, (h p.2 hlt).2]
  rfl

/-- The rows of a multicast to one member (R115). -/
def State.deliverRows (s : State) (m : Fin 36) (x : Mv) (rows : List (List Byte)) : State :=
  rows.zipIdx.foldl (fun (s : State) p => if p.1.isEmpty then s else s.deliver m (x.dst + p.2 * x.dstStride) p.1) s

/-- Rows delivered to a member whose windows do not count are stored and do nothing else. -/
theorem State.deliverRows_deaf {t : State} {m : Fin 36} (h : t.deaf m) (l : List (List Byte)) (hl : ∀ bs ∈ l, bs ≠ []) :
    t.deliverRows m x l = t.pokeRows (ledgeAt m x.dst) x.dstStride l := by
  have hpairs : ∀ (ps : List (List Byte × Nat)) (t : State), t.deaf m → (∀ p ∈ ps, p.1 ≠ []) →
      ps.foldl (fun (s : State) p => if p.1.isEmpty then s else s.deliver m (x.dst + p.2 * x.dstStride) p.1) t =
        ps.foldl (fun (s : State) p => s.poke (ledgeAt m x.dst + p.2 * x.dstStride) p.1) t := by
    intro ps
    induction ps with
    | nil => exact fun _ _ _ => rfl
    | cons p ps ih =>
      intro t ht hp
      rw [List.foldl_cons, List.foldl_cons, List.isEmpty_eq_false_iff.2 (hp p List.mem_cons_self), if_neg Bool.false_ne_true,
        State.deliver_deaf ht, show ledgeAt m (x.dst + p.2 * x.dstStride) = ledgeAt m x.dst + p.2 * x.dstStride from
          (Nat.add_assoc ..).symm]
      exact ih _ ht (fun p h => hp p (List.mem_cons_of_mem _ h))
  exact hpairs _ t h (fun p hp => hl _ (List.fst_mem_of_mem_zipIdx hp))

/-- The members of a group are who they were before a copy. -/
theorem State.members_copied {t : State} {rs : List (Nat × Nat)} (h : s.copied t rs) {g : Nat} (hg : g < 256) : t.members g = s.members g := by
  have hrd : t.rd .multicast .mcastGroup (g - 1) = s.rd .multicast .mcastGroup (g - 1) := by
    rw [State.rd_eq_reg, h.regs _ (by rw [memoryKey_regKey (by decide) (by simp only [RegName.off]; omega)]; rfl)]
    rfl
  have hlive (d : Nat) : t.coreLive d = s.coreLive d := by
    unfold State.coreLive State.core
    rw [h.rest]
  unfold State.members
  simp only [hrd, hlive]

/-- Rows stored in the Ledges of some members. -/
def State.pokeMembers (s : State) (l : List (Fin 36)) (x : Mv) (rows : List (List Byte)) : State :=
  l.foldl (fun (s : State) m => s.pokeRows (ledgeAt m x.dst) x.dstStride rows) s

/-- A multicast to members whose windows do not count stores its rows in each member's Ledge and does nothing else. -/
theorem State.mvMoved_multicast (hg : x.group ≠ 0) (hg8 : x.group < 256) (hn : x.rowBytes ≠ 0) (h : ∀ m ∈ s.members x.group, s.deaf m) :
    s.mvMoved c cl x rows = (s.mvReads c cl x rows).pokeMembers (s.members x.group) x (s.mvRows x rows) := by
  have hreads : s.copied (s.mvReads c cl x rows) [] := State.copied_of_through State.mvReads_through _
  have hne : ∀ bs ∈ s.mvRows x rows, bs ≠ [] := fun bs hb e => by
    have := State.mvRows_rowBytes bs hb
    rw [e] at this
    exact hn this.symm
  have hall : ∀ (l : List (Fin 36)) (t : State), (∀ m ∈ l, t.deaf m) →
      l.foldl (fun (t : State) m => t.deliverRows m x (s.mvRows x rows)) t = t.pokeMembers l x (s.mvRows x rows) := by
    intro l
    induction l with
    | nil => exact fun _ _ => rfl
    | cons m l ih =>
      intro t ht
      rw [List.foldl_cons, State.deliverRows_deaf (ht m List.mem_cons_self) _ hne, State.pokeMembers, List.foldl_cons]
      refine ih _ (fun k hk => ?_)
      rw [State.pokeRows_rest]
      exact ht k (List.mem_cons_of_mem _ hk)
  unfold State.mvMoved State.mvWrite
  rw [if_neg hg, State.members_copied hreads hg8]
  exact hall _ _ (fun m hm => State.deaf_copied (h m hm) hreads)

end

/-! The Ledges that a multicast writes. -/

/-- Ranges inside the Ledges of two cores do not meet. -/
theorem ledgeAt_apart {m k : Fin 36} (h : m ≠ k) {a b n l : Nat} (ha : a + n ≤ ledgeSize) (hb : b + l ≤ ledgeSize) :
    ledgeAt m a + n ≤ ledgeAt k b ∨ ledgeAt k b + l ≤ ledgeAt m a := by
  have hne : m.val ≠ k.val := fun e => h (Fin.ext e)
  unfold ledgeAt ledgeBase ledgeSize at *
  omega

theorem inRanges_flatMap {α : Type} {f : α → List (Nat × Nat)} {l : List α} {m : α} {a n : Nat} (hm : m ∈ l) (h : inRanges (f m) a n) :
    inRanges (l.flatMap f) a n := by
  obtain ⟨p, hp, h⟩ := h
  exact ⟨p, List.mem_flatMap.2 ⟨m, hm, hp⟩, h⟩

/-- Where the rows of a MOVE span bytes inside the Ledge, each row lies inside it. -/
theorem Mv.row_inLedge {x : Mv} (h : inLedge x.dst (spanOf x.rows x.dstStride x.rowBytes) = true) {r : Nat} (hr : r < x.rows) :
    x.dst + r * x.dstStride + x.rowBytes ≤ ledgeSize := by
  have hle : r * x.dstStride ≤ (x.rows - 1) * x.dstStride := Nat.mul_le_mul_right _ (by omega)
  have hspan : x.dst + ((x.rows - 1) * x.dstStride + x.rowBytes) ≤ ledgeSize := of_decide_eq_true h
  omega

section
variable {x : Mv} {rows : List (List Byte)} (hl : ∀ bs ∈ rows, bs.length = x.rowBytes)
include hl

theorem State.copied_pokeMembers (s : State) {l : List (Fin 36)} {rs : List (Nat × Nat)}
    (hr : ∀ m ∈ l, ∀ r < rows.length, inRanges rs (ledgeAt m x.dst + r * x.dstStride) x.rowBytes) :
    s.copied (s.pokeMembers l x rows) rs :=
  State.copied_foldl l (fun t m hm => State.copied_pokeRows t hl (hr m hm)) s

/-- Each member's Ledge holds each row, where rows do not overlap and lie inside the Ledge. -/
theorem State.bytes_pokeMembers (ho : x.rowBytes ≤ x.dstStride ∨ rows.length ≤ 1)
    (hin : ∀ r < rows.length, x.dst + r * x.dstStride + x.rowBytes ≤ ledgeSize) {r : Nat} {bs : List Byte} (e : rows[r]? = some bs)
    {l : List (Fin 36)} {m : Fin 36} (hm : m ∈ l) (s : State) :
    (s.pokeMembers l x rows).bytes (ledgeAt m x.dst + r * x.dstStride) x.rowBytes = bs := by
  induction l generalizing s with
  | nil => exact absurd hm List.not_mem_nil
  | cons k l ih =>
    by_cases h : m ∈ l
    · exact ih h _
    · obtain rfl : m = k := (List.mem_cons.1 hm).resolve_right h
      have hr := (List.getElem?_eq_some_iff.1 e).1
      have hrest := State.copied_pokeMembers (x := x) hl (s.pokeRows (ledgeAt m x.dst) x.dstStride rows) (l := l)
        (rs := l.flatMap (fun k => rowRanges (ledgeAt k x.dst) x.dstStride rows.length x.rowBytes))
        (fun k hk r hr => by
          exact inRanges_flatMap hk (inRanges_rowRanges hr))
      refine (State.bytes_bytesBut hrest.bytes (fun p hp => ?_)).trans (State.bytes_pokeRows s hl ho e)
      obtain ⟨k, hk, hp⟩ := List.mem_flatMap.1 hp
      obtain ⟨j, hj, rfl⟩ := List.mem_map.1 hp
      have hne : m ≠ k := fun e => h (e ▸ hk)
      have := ledgeAt_apart hne (hin r hr) (hin j (List.mem_range.1 hj))
      simpa only [ledgeAt, Nat.add_assoc] using this

end

/-- A multicast to members whose windows do not count changes memory in its rows in their Ledges alone. -/
theorem State.mvMoved_multicast_copied {s : State} {c : Fin 36} {cl : Nat} {x : Mv} {rows : Nat} (hg : x.group ≠ 0) (hg8 : x.group < 256)
    (hn : x.rowBytes ≠ 0) (h : ∀ m ∈ s.members x.group, s.deaf m) :
    s.copied (s.mvMoved c cl x rows)
      ((s.members x.group).flatMap (fun m => rowRanges (ledgeAt m x.dst) x.dstStride rows x.rowBytes)) := by
  rw [State.mvMoved_multicast hg hg8 hn h]
  refine State.copied_trans (State.copied_of_through State.mvReads_through _)
    (State.copied_pokeMembers State.mvRows_rowBytes _ (fun m hm r hr => ?_))
  rw [State.mvRows_length] at hr
  exact inRanges_flatMap hm (inRanges_rowRanges hr)

/-! ### Issue after a copy -/

/-- From s to t, queue q of core c has put an instruction in flight as F after a copy that wrote only in the ranges. -/
structure State.sends (s t : State) (c : Fin 36) (q : Fin 8) (F : Flight) (rs : List (Nat × Nat)) : Prop where
  queue : t.queue c q = { s.queue c q with
    flights := (s.queue c q).flights ++ [{ F with seq := (s.queue c q).seq, issued := s.now }],
    seq := ((s.queue c q).seq + 1) % 2 ^ 32 }
  queues : ∀ d r, ¬(d = c.val ∧ r = q.val) → t.queue d r = s.queue d r
  cores : s.coresBut t c
  sems : s.semsSame t
  regs : ∀ k, memoryKey k = false → k ∉ [regKey (.sequencer c) .qPc q, regKey (.sequencer c) .issueCount 0] → t.reg k = s.reg k
  bytes : s.bytesBut t rs

theorem State.sends_of_copied {s u : State} {c : Fin 36} {q : Fin 8} {F : Flight} {rs : List (Nat × Nat)} (h : s.copied u rs)
    (next : Nat) : s.sends (u.issue c q F next) c q F rs := by
  have hcores : u.cores = s.cores := by rw [h.rest]
  have hissue := State.issue_cores u c q F next
  rw [State.queue_congr hcores, show u.now = s.now by rw [h.rest]] at hissue
  refine ⟨?queue, fun d r hne => ?queues, fun d hd => ?cores, fun g d j => ?sems, fun k hm hk => ?regs,
    State.bytesBut_congr h.bytes (State.issue_mem ..)⟩
  case queue => rw [State.queue_congr hissue, State.queue_setQueue_same]
  case queues =>
    rw [State.queue_congr hissue, State.queue_setQueue, if_neg (fun e => hne ⟨e.1.symm, e.2.symm⟩), State.queue_congr hcores]
  case cores => rw [State.core_congr hissue, State.core_setQueue_other (Ne.symm hd), State.core_congr hcores]
  case sems =>
    have hsems : (u.issue c q F next).sems = u.sems := State.issue_sems ..
    generalize u.issue c q F next = t at hissue hsems
    rw [State.sem_congr (s := u.setQueue c q _) hsems hissue, State.sem_setQueue, State.sem_congr (by rw [h.rest]) hcores]
  case regs =>
    simp only [List.mem_cons, List.not_mem_nil, or_false, not_or] at hk
    rw [State.reg_issue u c q F next (fun _ => hm), if_neg (Ne.symm hk.2), if_neg (Ne.symm hk.1), h.regs k hm]

/-- An instruction that a running queue sends, and that stands at no arrival gate, waits on no faulted semaphore. -/
theorem State.faultedWaiter_sends {s t : State} {c : Fin 36} {q : Fin 8} {F : Flight} {rs : List (Nat × Nat)} (h : s.sends t c q F rs)
    (hr : (s.queue c q).state = .running) (hg : F.gated = false) (hw : s.faultedWaiter = none) : t.faultedWaiter = none := by
  have hsem : ∀ g d i, t.sem g d i = s.sem g d i := h.sems
  have hgate : t.gateFaulted = s.gateFaulted := by
    funext d g
    unfold State.gateFaulted
    rw [hsem]
  refine State.faultedWaiter_none hw (fun d r _ hd => ?_)
  unfold State.faultWaits at *
  by_cases e : d.val = c.val ∧ r = q.val
  · rw [e.1, e.2, State.waitsOnFault, h.queue] at hd
    rw [e.1, e.2]
    have hnew : s.gateFaulted c { F with seq := (s.queue c q).seq, issued := s.now } = false := by
      unfold State.gateFaulted
      simp [hg]
    exact Bool.or_eq_true _ _ ▸ .inr (by simpa [hr, hgate, hnew] using hd)
  · have hwait : t.waitsOnFault d r = s.waitsOnFault d r := by
      unfold State.waitsOnFault
      rw [h.queues d r e]
      simp only [hsem]
    rwa [hwait, h.queues d r e, hgate] at hd

/-- A queue that may issue is running (R78). -/
theorem State.running_of_canIssue {s : State} {c : Fin 36} {q : Nat} (h : s.canIssue c q = true) : (s.queue c q).state = .running := by
  simp only [State.canIssue, Bool.and_eq_true, beq_iff_eq] at h
  tauto

/-- Nothing else happens as an instruction issues after a copy, where no queue waits on a faulted semaphore and no fast-path request
is open. -/
theorem State.settled_issue_copied {s u : State} {c : Fin 36} {q : Fin 8} {F : Flight} {rs : List (Nat × Nat)} (h : s.copied u rs)
    (hr : (s.queue c q).state = .running) (hg : F.gated = false) (hw : s.faultedWaiter = none) (hf : s.est.fast = []) (next : Nat) :
    (u.issue c q F next).settled = u.issue c q F next :=
  State.settled_calm (State.faultedWaiter_sends (State.sends_of_copied h next) hr hg hw) (by rw [State.issue_est, h.rest]; exact hf)

/-- Settles O15: a MOVE is in flight with its units, and its rows stand where it sends them. -/
theorem copyResults : Obligations.CopyResults := by
  unfold Obligations.CopyResults
  rintro s c q i x rows h rfl ho hf htag hv hc hz hw hfast rfl hb
  obtain ⟨hrows, hn, hledge⟩ := State.mvCheck_ok hc hz
  have hexec := execMove_runs h ho hf htag hv hc hz hb
  have hg8 : (Mv.of i).group < 256 := bits_lt i.w2 55 48
  generalize s.extent c q i 1 (Mv.of i).rows = rows at *
  have hsent {rs : List (Nat × Nat)} (hcp : s.copied (s.mvMoved c (s.qClass c q) (Mv.of i) rows) rs) :
      exec (.move c q) s = .next ((s.mvMoved c (s.qClass c q) (Mv.of i) rows).issue c q (s.mvFlight c q i rows) (i.pc + 32)) :=
    hexec.trans (congrArg _ (State.settled_issue_copied hcp (State.running_of_canIssue h.may) rfl hw hfast (i.pc + 32)))
  refine ⟨fun hg hl => ?ledge, fun hg => ?unicast, fun hg hdeaf => ?multicast⟩
  case ledge =>
    have hcopied := State.mvMoved_unicast (s := s) (c := c) (cl := s.qClass c q) (x := Mv.of i) (rows := rows) hg
    have hrun := hsent hcopied
    have hmoved := State.mvMoved_ledge (s := s) (c := c) (cl := s.qClass c q) hg hn hl
    have hworks := State.works_pokeRows s c [] (Mv.of i).dst (Mv.of i).dstStride (s.mvRows (Mv.of i) rows)
    have hcores := State.core_pokeRows s (Mv.of i).dst (Mv.of i).dstStride (s.mvRows (Mv.of i) rows) c
    rw [hmoved] at hrun hcopied
    obtain ⟨hent, hcore, hmem, -⟩ := State.works_enters (q := q) (f := s.mvFlight c q i rows) (next := i.pc + 32) rfl hworks
      List.not_mem_nil List.not_mem_nil List.not_mem_nil List.not_mem_nil
    refine ⟨_, _, hrun, hent, rfl, rfl, rfl, rfl, rfl, rfl, hcore.trans (by rw [hcores]),
      State.bytesBut_congr hcopied.bytes hmem, fun ho r hr => (State.bytes_congr (State.byte_congr hmem) _ _).trans ?_⟩
    exact State.bytes_pokeRows s State.mvRows_rowBytes (by rw [State.mvRows_length]; omega) (State.mvRows_getElem hr)
  case unicast =>
    have hcopied := State.mvMoved_unicast (s := s) (c := c) (cl := s.qClass c q) (x := Mv.of i) (rows := rows) hg
    have hs := State.sends_of_copied (c := c) (q := q) (F := s.mvFlight c q i rows) hcopied (i.pc + 32)
    exact ⟨_, _, hsent hcopied, rfl, rfl, rfl, rfl, rfl, hs.queue, hs.queues, hs.cores, hs.sems, hs.regs, hs.bytes⟩
  case multicast =>
    have hmoved := State.mvMoved_multicast (s := s) (c := c) (cl := s.qClass c q) (rows := rows) hg hg8 hn hdeaf
    have hcopied := State.mvMoved_multicast_copied (s := s) (c := c) (cl := s.qClass c q) (rows := rows) hg hg8 hn hdeaf
    have hs := State.sends_of_copied (c := c) (q := q) (F := s.mvFlight c q i rows) hcopied (i.pc + 32)
    refine ⟨_, _, hsent hcopied, rfl, rfl, rfl, rfl, rfl, hs.queue, hs.queues, hs.cores, hs.sems, hs.regs, hs.bytes,
      fun ho m hm r hr => ?_⟩
    refine (State.bytes_congr (State.byte_congr (State.issue_mem ..)) _ _).trans ?_
    rw [hmoved]
    refine State.bytes_pokeMembers State.mvRows_rowBytes (by rw [State.mvRows_length]; omega) (fun j hj => ?_)
      (State.mvRows_getElem hr) hm _
    rw [State.mvRows_length] at hj
    exact Mv.row_inLedge (hledge hg) (hj.trans_le hrows)

end Sys2Proof.Machine

/-! Proofs about the writes of a core's own registers (R75, R135, R143, R166, R189): ARRIVEn, and the registers whose writes wait for
an instruction in flight. -/

namespace Sys2Proof.Machine

/-! ### The value of a write that merges -/

/-- The mask of counter_clear, of no bit in a register without one. -/
def clearMask (b : Option Nat) : Word := b.elim 0 (fun n => BitVec.ofNat 64 (2 ^ n))

/-- A word whose RW fields, of mask m, and counter_clear are those written, over a base (R10, R166). -/
def mergedWrite (base m v : Word) (b : Option Nat) : Word := (base &&& ~~~m &&& ~~~clearMask b) ||| (v &&& (m ||| clearMask b))

/-- A word as its register keeps it: counter_clear holds no value (R75). -/
def keptWrite (b : Option Nat) (w : Word) : Word := b.elim w (fun n => setBits w n n 0)

theorem mergedWrite_and (base m v : Word) (b : Option Nat) : mergedWrite base m v b &&& m = v &&& m := by
  unfold mergedWrite
  ext j
  simp only [BitVec.getElem_and, BitVec.getElem_or, BitVec.getElem_not]
  cases m[j] <;> simp

theorem getLsbD_clearMask (b : Option Nat) {j : Nat} (hj : j < 64) : (clearMask b).getLsbD j = decide (j ∈ b) := by
  cases b with
  | none => simp [clearMask]
  | some n =>
    simp only [clearMask, Option.elim_some, BitVec.getLsbD_ofNat, Nat.testBit_two_pow, hj, decide_true, Bool.true_and,
      Option.mem_some]

theorem bit1_mergedWrite {n : Nat} (hn : n < 64) (base m v : Word) : bit1 (mergedWrite base m v (some n)) n = bit1 v n := by
  simp [mergedWrite, bit1, getLsbD_clearMask _ hn]

/-- Outside counter_clear the merged word is a write of the RW fields. -/
theorem getLsbD_mergedWrite (base m v : Word) {b : Option Nat} {j : Nat} (hj : j < 64) (hb : j ∉ b) :
    (mergedWrite base m v b).getLsbD j = ((base &&& ~~~m) ||| (v &&& m)).getLsbD j := by
  simp only [mergedWrite, BitVec.getLsbD_or, BitVec.getLsbD_and, BitVec.getLsbD_not, getLsbD_clearMask b hj, hb, hj, decide_true,
    decide_false, Bool.not_false, Bool.and_true, Bool.or_false]

/-- As its register keeps it, the merged word is a write of the RW fields. -/
theorem keptWrite_mergedWrite (base m v : Word) {b : Option Nat} (hb : ∀ n ∈ b, n < 64) :
    keptWrite b (mergedWrite base m v b) = keptWrite b ((base &&& ~~~m) ||| (v &&& m)) := by
  refine BitVec.eq_of_getLsbD_eq (fun j hj => ?_)
  cases b with
  | none => exact getLsbD_mergedWrite base m v hj (Option.not_mem_none j)
  | some n =>
    simp only [keptWrite, Option.elim_some, getLsbD_setBits _ _ _ _ _ (hb n rfl)]
    split
    · rfl
    · next hn => exact getLsbD_mergedWrite base m v hj (fun e => hn (by cases e; omega))

/-! ### Writes that wait or take effect at once (R75, R143, R166, R189) -/

/-- The counter_clear of a register, where it has one (R75). -/
def PageType.clearBit (t : PageType) (r : RegName) : Option Nat :=
  match t.counterCtl with
  | some (ctl, clr, _) => if ctl = r then some clr else none
  | none => none

/-- A register lies within its page, and apart from the control of the page's counters unless it is that control. -/
def PageType.separates (t : PageType) (r : RegName) : Bool :=
  decide (r.off 0 < 4096 ∧ ∀ x ∈ t.counterCtl, x.2.1 < 64 ∧ (x.1 = r ∨ x.1.off 0 ≠ r.off 0))

theorem separates_iff {t : PageType} {r : RegName} : t.separates r = true ↔
    r.off 0 < 4096 ∧ ∀ x ∈ t.counterCtl, x.2.1 < 64 ∧ (x.1 = r ∨ x.1.off 0 ≠ r.off 0) := decide_eq_true_iff

theorem clearBit_lt {t : PageType} {r : RegName} (h : t.separates r = true) : ∀ n ∈ t.clearBit r, n < 64 := by
  intro n hn
  unfold PageType.clearBit at hn
  split at hn
  · next ctl clr e hc =>
    split at hn
    · cases hn
      exact ((separates_iff.1 h).2 _ hc).1
    · cases hn
  · cases hn

/-- What a register holds once the writes that wait for it have taken effect. -/
def State.awaited (s : State) (c : Fin 36) (p : Pg) (r : RegName) (i : Nat) : Word :=
  (((s.core c).waiting.filter (fun w => w.1 = regKey p r i)).getLast?.map (·.2)).getD (s.rd p r i)

theorem State.awaited_none {s : State} {c : Fin 36} {p : Pg} {r : RegName} {i : Nat}
    (h : ∀ w ∈ (s.core c).waiting, w.1 ≠ regKey p r i) : s.awaited c p r i = s.rd p r i := by
  have hf : (s.core c).waiting.filter (fun w => w.1 = regKey p r i) = [] :=
    List.filter_eq_nil_iff.2 (fun w hw => by simpa using h w hw)
  rw [State.awaited, hf]
  rfl

/-- The word that a write to a core's register waits with, or takes effect with. -/
def State.merged (s : State) (c : Fin 36) (p : Pg) (r : RegName) (i : Nat) (v : Word) : Word :=
  mergedWrite (s.awaited c p r i) (r.mask .rw) v (p.type.clearBit r)

/-- A write to a core's register waits where an instruction in flight holds it back, and otherwise takes effect. -/
theorem State.writeLater_eq (s : State) (c : Fin 36) (p : Pg) (r : RegName) (i : Nat) (v : Word) :
    s.writeLater c p r i v =
      if (s.core c).holdsWrite p then
        s.setCore c { s.core c with waiting := (s.core c).waiting ++ [(regKey p r i, s.merged c p r i v)] }
      else s.applyCtl (regKey p r i) (s.merged c p r i v) := by
  unfold State.writeLater State.merged mergedWrite PageType.clearBit
  rcases p.type.counterCtl with _ | ⟨x, n, e⟩
  · rfl
  · simp only [apply_ite clearMask]
    rfl

/-- A register that takes effect: its page's counters are cleared where counter_clear is 1, and that bit keeps no value (R75). -/
theorem State.applyCtl_eq {s : State} {p : Pg} {r : RegName} {w : Word} (h : p.type.separates r = true) :
    s.applyCtl (regKey p r 0) w =
      (if (p.type.clearBit r).any (bit1 w) then s.clearCounters p else s).wr p r 0 (keptWrite (p.type.clearBit r) w) := by
  obtain ⟨hoff, hctl⟩ := separates_iff.1 h
  have hpage : Pg.ofIndex (regKey p r 0 / 4096) = some p := by
    rw [show regKey p r 0 / 4096 = p.index by unfold regKey; omega, Pg.ofIndex_index]
  unfold PageType.clearBit
  rcases hc : p.type.counterCtl with _ | ⟨x, n, e⟩
  · simp only [State.applyCtl, hpage, hc]
    rfl
  · rcases (hctl _ hc).2 with rfl | hne
    · simp only [State.applyCtl, hpage, hc, if_true]
      rfl
    · have hx : x ≠ r := fun e => hne (e ▸ rfl)
      simp only [State.applyCtl, hpage, hc, if_neg (regKey_ne hne.symm), if_neg hx]
      rfl

/-- A write that an instruction in flight holds back waits behind those that wait, with its RW fields and its counter_clear. -/
theorem State.writeLater_held {s : State} {c : Fin 36} {p : Pg} {r : RegName} {v : Word} (h : p.type.separates r = true)
    (hh : (s.core c).holdsWrite p = true) :
    ∃ w : Word, w &&& r.mask .rw = v &&& r.mask .rw ∧ (∀ n, p.type.clearBit r = some n → bit1 w n = bit1 v n) ∧
      s.writeLater c p r 0 v = s.setCore c { s.core c with waiting := (s.core c).waiting ++ [(regKey p r 0, w)] } := by
  refine ⟨s.merged c p r 0 v, mergedWrite_and .., fun n hn => ?_, by rw [State.writeLater_eq, if_pos hh]⟩
  rw [State.merged, hn]
  exact bit1_mergedWrite (clearBit_lt h n hn) ..

theorem State.writeLater_free {s : State} {c : Fin 36} {p : Pg} {r : RegName} {v : Word} (h : p.type.separates r = true)
    (hh : (s.core c).holdsWrite p = false) :
    s.writeLater c p r 0 v =
      (if (p.type.clearBit r).any (bit1 v) then s.clearCounters p else s).wr p r 0
        (keptWrite (p.type.clearBit r) (s.merged c p r 0 v)) := by
  have hbit : (p.type.clearBit r).any (bit1 (s.merged c p r 0 v)) = (p.type.clearBit r).any (bit1 v) := by
    unfold State.merged
    cases hb : p.type.clearBit r with
    | none => rfl
    | some n => exact bit1_mergedWrite (clearBit_lt h n hb) ..
  rw [State.writeLater_eq, hh, if_neg Bool.false_ne_true, State.applyCtl_eq h, hbit]

/-- A write that nothing holds back, where none waits for its register, takes effect at once (R143, R166, R189). -/
theorem State.writeLater_atOnce {s : State} {c : Fin 36} {p : Pg} {r : RegName} {v : Word} (h : p.type.separates r = true)
    (hh : (s.core c).holdsWrite p = false) (hw : ∀ w ∈ (s.core c).waiting, w.1 ≠ regKey p r 0) :
    (s.writeLater c p r 0 v).rd p r 0 = keptWrite (p.type.clearBit r) (s.written p r v) ∧
      ((∀ n, p.type.clearBit r = some n → bit1 v n = false) → s.regsBut (s.writeLater c p r 0 v) [regKey p r 0]) ∧
      s.regsOnly (s.writeLater c p r 0 v) := by
  rw [State.writeLater_free h hh, State.merged, State.awaited_none hw, keptWrite_mergedWrite _ _ _ (clearBit_lt h)]
  refine ⟨State.rd_wr_same .., fun hz => State.regsBut_wr ?_ (List.mem_singleton_self _), State.regsOnly_wr ?_ ..⟩
  · have hno : (p.type.clearBit r).any (bit1 v) = false := by
      cases hb : p.type.clearBit r with
      | none => rfl
      | some n => exact hz n hb
    rw [hno, if_neg Bool.false_ne_true]
    exact State.regsBut_refl rfl _
  · split
    · exact State.regsOnly_clearCounters s p
    · exact State.regsOnly_refl s

/-- A write with counter_clear that nothing holds back clears the page's counters, whatever waits (R75, R166, R189). -/
theorem State.writeLater_clears {s : State} {c : Fin 36} {p : Pg} {t : PageType} {ctl : RegName} {clr en : Nat} {v : Word}
    (ht : p.type = t) (hp : t = .score ∨ t = .recurrent) (hc : t.counterCtl = some (ctl, clr, en)) (hs : t.separates ctl = true)
    (hh : (s.core c).holdsWrite p = false) (hv : bit1 v clr = true) :
    ∀ r ∈ countersOf t, ∀ i < r.entries, (s.writeLater c p ctl 0 v).rd p r i = 0 := by
  subst ht
  intro r hr i hi
  obtain ⟨-, -, hne⟩ := ctl_off_ne_counter hp hc
  have hb : p.type.clearBit ctl = some clr := by simp [PageType.clearBit, hc]
  rw [State.writeLater_free hs hh, hb, Option.any_some, if_pos hv, State.rd_wr_other (regKey_ne (hne r hr i hi)),
    State.rd_clearCounters hr hi]

/-! ### The rows of a core's own registers -/

/-- The writes of a core's registers that may wait: the register, the command and its counter_clear (R143, R166, R189). -/
def waitingWrites (c : Fin 36) (v : Word) : List (Pg × RegName × Instr × Option Nat) :=
  [(.vector c, .statRegion, .statRegionWrite c v, none), (.score c, .scoreCtrl, .scoreCtrlWrite c v, some 19),
    (.recurrent c, .driftThreshold, .recurCtrlWrite c 1 v, none), (.recurrent c, .driftLog, .recurCtrlWrite c 2 v, none)] ++
  (if bits v 1 0 = 3 then [] else [(.recurrent c, .recurCtrl, .recurCtrlWrite c 0 v, some 7)])

section

variable {s : State} {c : Fin 36} (hup : s.up) (hlive : s.coreLive c = true)
include hup hlive

theorem exec_statRegionWrite_live (v : Word) :
    exec (.statRegionWrite c v) s = .next (s.writeLater c (.vector c) .statRegion 0 v) := by
  rw [exec_statRegionWrite, execStatRegionWrite, State.awake_up hup, if_pos hlive]

theorem exec_scoreCtrlWrite_live (v : Word) : exec (.scoreCtrlWrite c v) s = .next (s.writeLater c (.score c) .scoreCtrl 0 v) := by
  rw [exec_scoreCtrlWrite, execScoreCtrlWrite, State.awake_up hup, State.scoreCtrlWrite, if_pos hlive]

theorem exec_driftThreshold_live (v : Word) :
    exec (.recurCtrlWrite c 1 v) s = .next (s.writeLater c (.recurrent c) .driftThreshold 0 v) := by
  rw [exec_recurCtrlWrite, execRecurCtrlWrite, State.awake_up hup]
  exact congrArg _ (if_neg (by simp [hlive]))

theorem exec_driftLog_live (v : Word) : exec (.recurCtrlWrite c 2 v) s = .next (s.writeLater c (.recurrent c) .driftLog 0 v) := by
  rw [exec_recurCtrlWrite, execRecurCtrlWrite, State.awake_up hup]
  exact congrArg _ (if_neg (by simp [hlive]))

theorem exec_recurCtrl_live {v : Word} (hv : bits v 1 0 ≠ 3) :
    exec (.recurCtrlWrite c 0 v) s = .next (s.writeLater c (.recurrent c) .recurCtrl 0 v) := by
  rw [exec_recurCtrlWrite, execRecurCtrlWrite, State.awake_up hup]
  exact congrArg _ ((if_neg (by simp [hlive])).trans (if_neg hv))

/-- A value of 3 in state_rnd is ignored, and the recurrent page defines no CFG_IGNORED (R189, R490). -/
theorem exec_recurCtrl_ignored {v : Word} (hv : bits v 1 0 = 3) : exec (.recurCtrlWrite c 0 v) s = .next s := by
  rw [exec_recurCtrlWrite, execRecurCtrlWrite, State.awake_up hup]
  exact congrArg _ ((if_neg (by simp [hlive])).trans (if_pos hv))

/-- Each of these writes is one that may wait, to a register that lies apart from another control of its page. -/
theorem exec_waitingWrites {v : Word} {p : Pg} {r : RegName} {i : Instr} {b : Option Nat} (h : (p, r, i, b) ∈ waitingWrites c v) :
    exec i s = .next (s.writeLater c p r 0 v) ∧ p.type.separates r = true ∧ p.type.clearBit r = b := by
  simp only [waitingWrites, List.mem_append, List.mem_cons, List.not_mem_nil, or_false, List.mem_ite_nil_left, Prod.mk.injEq] at h
  obtain ⟨⟨rfl, rfl, rfl, rfl⟩ | ⟨rfl, rfl, rfl, rfl⟩ | ⟨rfl, rfl, rfl, rfl⟩ | ⟨rfl, rfl, rfl, rfl⟩⟩ | ⟨hv, rfl, rfl, rfl, rfl⟩ := h
  · exact ⟨exec_statRegionWrite_live hup hlive v, rfl, rfl⟩
  · exact ⟨exec_scoreCtrlWrite_live hup hlive v, rfl, rfl⟩
  · exact ⟨exec_driftThreshold_live hup hlive v, rfl, rfl⟩
  · exact ⟨exec_driftLog_live hup hlive v, rfl, rfl⟩
  · exact ⟨exec_recurCtrl_live hup hlive hv, rfl, rfl⟩

/-- A write of ARRIVEn gives it its fields, resets its pointer and forgets the window's units (R135, R143). -/
theorem arriveWrite_result (n : Fin 4) (v : Word) :
    ∃ t, exec (.arriveWrite c n v) s = .next t ∧
      t.rd (.vector c) .arrive n =
        (s.rd (.vector c) .arrive n &&& ~~~ RegName.mask .arrive .rw) ||| (v &&& RegName.mask .arrive .rw) ∧
      t.rd (.vector c) .arrivePtr n = 0 ∧ s.regsBut t [regKey (.vector c) .arrive n, regKey (.vector c) .arrivePtr n] ∧
      t.core c = { s.core c with
        landed := KeySet.delRange (s.core c).landed (2 ^ 20 * n.val) (2 ^ 20 * (n.val + 1))
        landing := (s.core c).landing.filter (fun p => p.1 < 2 ^ 20 * n.val || 2 ^ 20 * (n.val + 1) ≤ p.1) } ∧
      s.coresBut t c ∧ t = { s with regs := t.regs, cores := t.cores } := by
  have hoff : ∀ n : Fin 4, RegName.arrivePtr.off n ≠ RegName.arrive.off n := by decide
  have hkey : regKey (.vector c) .arrivePtr n ≠ regKey (.vector c) .arrive n := regKey_ne (hoff n)
  rw [exec_arriveWrite, execArriveWrite, State.awake_up hup, State.arriveWrite, hlive, if_neg (by decide), State.wrRw]
  refine ⟨_, rfl, ?value, ?pointer, ?registers, ?core, fun d hd => ?cores, rfl⟩
  case value =>
    rw [State.rd_wr_same, State.rd_wr_other hkey]
    rfl
  case pointer => rw [State.rd_wr_other hkey.symm, State.rd_wr_same]
  case registers => exact State.regsBut_wr (State.regsBut_wr (State.regsBut_refl rfl _) (by simp)) (by simp)
  case core => exact State.core_setCore_same ..
  case cores => exact State.core_setCore_other (Ne.symm hd)

end

/-- Settles O19: a write of a core's register is a write that waits or takes effect at once; ARRIVEn takes its fields at once. -/
theorem coreRegisterResults : Obligations.CoreRegisterResults := by
  unfold Obligations.CoreRegisterResults
  refine ⟨fun s c v hup hlive => ⟨fun n => arriveWrite_result hup hlive n v, fun p r i b hrow => ?rows,
    fun hv => exec_recurCtrl_ignored hup hlive hv⟩, fun s c v hup hlive => ⟨fun hv hh => ?score, fun hv h3 hh => ?recurrent⟩⟩
  case rows =>
    obtain ⟨hexec, hsep, rfl⟩ := exec_waitingWrites hup hlive hrow
    refine ⟨fun hh hw => ?_, fun hh => ?_⟩
    · obtain ⟨hrd, hregs, honly⟩ := State.writeLater_atOnce hsep hh hw
      exact ⟨_, hexec, hrd, hregs, State.regsOnly_eq honly⟩
    · obtain ⟨w, hrw, hclr, hlater⟩ := State.writeLater_held (v := v) hsep hh
      rw [hlater] at hexec
      exact ⟨_, w, hexec, hrw, hclr, State.core_setCore_same .., fun d hd => State.core_setCore_other (Ne.symm hd), rfl⟩
  case score =>
    have hz := State.writeLater_clears (t := .score) rfl (.inl rfl) rfl rfl hh hv
    exact ⟨_, exec_scoreCtrlWrite_live hup hlive v, hz .scoreTilesWritten (by decide) 0 (by decide),
      hz .scoreTilesRead (by decide) 0 (by decide), hz .scoreMasked (by decide) 0 (by decide)⟩
  case recurrent =>
    have hz := State.writeLater_clears (t := .recurrent) rfl (.inr rfl) rfl rfl hh hv
    exact ⟨_, exec_recurCtrl_live hup hlive h3, hz .rstepChunkCount (by decide) 0 (by decide),
      hz .driftHighCount (by decide) 0 (by decide)⟩

end Sys2Proof.Machine

/-! Proofs about the steps of streams and the recomputation of their pages (R161 to R165, R194, R195, R206 to R208, R215). -/

namespace Sys2Proof.Machine

/-! ### Gulkutik when nothing waits for it (R194, R272) -/

theorem State.drainDecoders_still {s : State} (h : ∀ (p : Fin 2) (n : Nat), n < 8 → s.decState p n ≠ 3) : s.drainDecoders = s := by
  unfold State.drainDecoders
  induction List.range 16 with
  | nil => rfl
  | cons d l ih =>
    have hd : s.drainDecoder d = s := if_pos (h _ _ (Nat.mod_lt _ (by decide)))
    rw [List.foldl_cons, hd, ih]

theorem State.serveFirst_none {s : State} {l : List (Nat × Option Req)} (h : ∀ y ∈ l, ∀ r, y.2 = some r → s.serveReq y.1 r = none) :
    s.serveFirst l = none := by
  induction l with
  | nil => rfl
  | cons y l ih =>
    have hl := ih (fun z hz => h z (List.mem_cons_of_mem _ hz))
    obtain ⟨k, o⟩ := y
    cases o with
    | none => exact hl
    | some r => rw [State.serveFirst, h (k, some r) List.mem_cons_self r rfl]; exact hl

/-- Where no decoder drains and no request can go on, Gulkutik changes nothing. -/
theorem State.serve_still {s : State} (hd : ∀ (p : Fin 2) (n : Nat), n < 8 → s.decState p n ≠ 3)
    (hr : ∀ y ∈ s.gulk.reqs, ∀ r, y.2 = some r → s.serveReq y.1 r = none) : s.serve = s := by
  rw [State.serve, State.drainDecoders_still hd, State.serveSome, State.serveFirst_none hr]

theorem State.serve_noRequests {s : State} (hd : ∀ (p : Fin 2) (n : Nat), n < 8 → s.decState p n ≠ 3)
    (hr : ∀ y ∈ s.gulk.reqs, y.2 = none) : s.serve = s :=
  State.serve_still hd (fun y hy r e => by rw [hr y hy] at e; cases e)

/-! ### Accesses to memory leave the CXL decoders (R270, R286) -/

/-- From s to t no decoder register of the CXL ports has changed. -/
def State.sameDecoders (s t : State) : Prop := ∀ (p : Fin 2) (n : Nat), n < 8 → t.rd (.cxl p) .cxlDec n = s.rd (.cxl p) .cxlDec n

theorem State.decState_same {s t : State} (h : s.sameDecoders t) {p : Fin 2} {n : Nat} (hn : n < 8) : t.decState p n = s.decState p n :=
  congrArg (bits · 45 43) (h p n hn)

theorem State.sameDecoders_of_regs {s t : State} (h : t.regs = s.regs) : s.sameDecoders t := fun _ _ _ => State.rd_congr h ..

theorem State.sameDecoders_trans {s t u : State} (h : s.sameDecoders t) (k : t.sameDecoders u) : s.sameDecoders u :=
  fun p n hn => (k p n hn).trans (h p n hn)

theorem State.sameDecoders_foldl {α : Type} {f : State → α → State} (hf : ∀ (s : State) (x : α), s.sameDecoders (f s x)) (l : List α)
    (s : State) : s.sameDecoders (l.foldl f s) := by
  induction l generalizing s with
  | nil => exact State.sameDecoders_of_regs rfl
  | cons x l ih => exact State.sameDecoders_trans (hf s x) (ih _)

/-- A register that is no decoder's. -/
def noDecoder (k : Nat) : Prop := ∀ (p : Fin 2) (n : Nat), n < 8 → k ≠ regKey (.cxl p) .cxlDec n

theorem noDecoder_page {p : Pg} {r : RegName} {i : Nat} (hp : ∀ q : Fin 2, p.index ≠ (Pg.cxl q).index) (hr : r.off i < 4096) :
    noDecoder (regKey p r i) := by
  intro q n hn
  have hq := hp q
  have ho : RegName.cxlDec.off n = 0xC0 + 8 * n := rfl
  unfold regKey
  omega

theorem noDecoder_harbour (h : Fin 2) {r : RegName} {i : Nat} (hr : r.off i < 4096) : noDecoder (regKey (.harbour h) r i) :=
  noDecoder_page (by revert h; decide) hr

theorem noDecoder_hbm (k : Fin 12) {r : RegName} {i : Nat} (hr : r.off i < 4096) : noDecoder (regKey (.hbm k) r i) :=
  noDecoder_page (by revert k; decide) hr

theorem noDecoder_cxlCounters (p : Fin 2) : ∀ r ∈ [RegName.cxlRdBytes, .cxlWrBytes, .cxlLinkRetries], noDecoder (regKey (.cxl p) r 0) := by
  unfold noDecoder
  revert p
  decide

theorem State.sameDecoders_bump (s : State) {p : Pg} {r : RegName} {i : Nat} (h : noDecoder (regKey p r i)) (n : Nat) :
    s.sameDecoders (s.bump p r i n) := fun q m hm => by rw [State.rd_bump, if_neg (h q m hm)]

theorem State.sameDecoders_bumpFree (s : State) {p : Pg} {r : RegName} {i : Nat} (h : noDecoder (regKey p r i)) :
    s.sameDecoders (s.bumpFree p r i) :=
  State.sameDecoders_trans (t := s.draw.2) (State.sameDecoders_of_regs rfl) (State.sameDecoders_bump _ h _)

theorem State.sameDecoders_bumpAllFree (s : State) {p : Pg} {l : List RegName} (h : ∀ r ∈ l, noDecoder (regKey p r 0)) :
    s.sameDecoders (s.bumpAllFree p l) := by
  unfold State.bumpAllFree
  induction l generalizing s with
  | nil => exact State.sameDecoders_of_regs rfl
  | cons r l ih =>
    exact State.sameDecoders_trans (State.sameDecoders_bumpFree s (h r List.mem_cons_self))
      (ih _ (fun x hx => h x (List.mem_cons_of_mem _ hx)))

theorem State.sameDecoders_prefetched (s : State) (line : Nat) {r : RegName} (hr : r.off 0 < 4096) {k : Nat} (hk : k ≤ 4) :
    s.sameDecoders (s.prefetched line r k) := by
  unfold State.prefetched
  split
  · exact State.sameDecoders_of_regs rfl
  · exact State.sameDecoders_trans (State.sameDecoders_bump { s with pfLines := FMap.del s.pfLines line } (noDecoder_harbour _ hr) _)
      (State.sameDecoders_bump _ (noDecoder_harbour _ (by simp only [RegName.off]; omega)) _)

theorem State.sameDecoders_wcFlushed (s : State) (k : Fin 12) (e : WcEntry) : s.sameDecoders (s.wcFlushed k e) := by
  have hf := State.sameDecoders_bump s (noDecoder_hbm k (r := .hbmWcFlushes) (i := 0) (by decide)) 1
  unfold State.wcFlushed
  dsimp only
  split
  · exact State.sameDecoders_trans hf (State.sameDecoders_bump _ (noDecoder_hbm k (by decide)) _)
  · exact hf

theorem State.sameDecoders_wcPut (s : State) (line : Nat) (m : BitVec 128) : s.sameDecoders (s.wcPut line m) := by
  have hset (t : State) (k l) : t.sameDecoders (t.setWc k l) := State.sameDecoders_of_regs rfl
  have hflush (t : State) (k l e) : t.sameDecoders ((t.setWc k l).wcFlushed k e) :=
    State.sameDecoders_trans (hset t k l) (State.sameDecoders_wcFlushed _ k e)
  have hend (t : State) (k : Fin 12) (l : List WcEntry) : t.sameDecoders (match l.find? (fun e => e.line = line && e.mask == BitVec.allOnes 128) with
      | some e => (t.setWc k (l.filter (·.line ≠ line))).wcFlushed k e
      | none => t.setWc k l) := by
    split
    · exact hflush _ _ _ _
    · exact hset _ _ _
  unfold State.wcPut
  dsimp only
  refine State.sameDecoders_trans ?_ (hend _ _ _)
  split
  · split
    · exact hflush _ _ _ _
    · exact State.sameDecoders_of_regs rfl
  · exact State.sameDecoders_of_regs rfl

theorem State.regs_wcTake (s : State) (line : Nat) : (s.wcTake line).regs = s.regs := by
  unfold State.wcTake
  split
  · dsimp only
    split <;> rfl
  · rfl

theorem State.sameDecoders_lineBack (s : State) (line : Nat) : s.sameDecoders (s.lineBack line) := by
  have hb := State.sameDecoders_bump s (noDecoder_harbour (halfOf (line * 128)) (r := .hbWritebacks) (i := 0) (by decide))
    (s.dirty.filter (fun x => x / 2 = line)).length
  unfold State.lineBack
  dsimp only
  split
  · split
    · exact State.sameDecoders_trans hb (State.sameDecoders_wcPut _ _ _)
    · exact hb
  · exact hb

theorem State.sameDecoders_lineOut (s : State) (line : Nat) : s.sameDecoders (s.lineOut line) :=
  State.sameDecoders_trans (State.sameDecoders_prefetched s line (by decide) (by decide)) (State.sameDecoders_lineBack _ line)

theorem State.sameDecoders_lineIn (s : State) (line : Nat) : s.sameDecoders (s.lineIn line) := by
  refine State.sameDecoders_trans (t := s.wayFor line) ?_ (State.sameDecoders_of_regs (State.regs_wcTake _ line))
  unfold State.wayFor
  dsimp only
  repeat' split
  · exact State.sameDecoders_of_regs rfl
  · exact State.sameDecoders_of_regs rfl
  · exact State.sameDecoders_lineOut _ _
  · exact State.sameDecoders_of_regs rfl

theorem State.sameDecoders_lineUse (s : State) (write alloc : Bool) (line : Nat) : s.sameDecoders (s.lineUse write alloc line) := by
  have hb {r : RegName} (hr : r.off 0 < 4096) := State.sameDecoders_bump s (noDecoder_harbour (halfOf (line * 128)) hr) 1
  unfold State.lineUse
  dsimp only
  split
  · refine State.sameDecoders_trans (hb (r := .hbHits) (by decide)) ?_
    split
    · exact State.sameDecoders_prefetched _ line (by decide) (by decide)
    · exact State.sameDecoders_prefetched _ line (by decide) (by decide)
  · split
    · exact State.sameDecoders_trans (hb (r := .hbMisses) (by decide)) (State.sameDecoders_lineIn _ _)
    · exact hb (by decide)

theorem State.sameDecoders_store (s : State) (a : Nat) (bs : List Byte) : s.sameDecoders (s.store a bs) := by
  unfold State.store
  dsimp only
  split
  · exact State.sameDecoders_of_regs rfl
  · split
    · exact State.sameDecoders_foldl (fun t l => State.sameDecoders_lineUse t true true l) (linesOf a bs.length) (s.poke a bs)
    · exact State.sameDecoders_of_regs rfl

theorem State.sameDecoders_streamLine (s : State) (a n line : Nat) : s.sameDecoders (s.streamLine a n line) := by
  unfold State.streamLine
  refine State.sameDecoders_trans (State.sameDecoders_lineUse s true false line) ?_
  dsimp only
  split
  · exact State.sameDecoders_of_regs rfl
  · split
    · exact State.sameDecoders_wcPut _ _ _
    · exact State.sameDecoders_of_regs rfl

theorem State.sameDecoders_writeRun (s : State) (r : Option Region × Nat × List Byte) : s.sameDecoders (s.writeRun r) := by
  obtain ⟨g, a, bs⟩ := r
  unfold State.writeRun
  dsimp only
  split
  · exact State.sameDecoders_foldl (fun t l => State.sameDecoders_streamLine t _ _ l) _ (s.poke a bs)
  · exact State.sameDecoders_trans (State.sameDecoders_store _ _ _) (State.sameDecoders_bump _ (noDecoder_harbour _ (by decide)) _)
  · exact State.sameDecoders_store _ _ _

theorem State.sameDecoders_traffic (s : State) (cl a lines : Nat) : s.sameDecoders (s.traffic cl a lines) := by
  have hoff : ∀ r ∈ [RegName.hbmRdBytes, .hbmWrBytes, .hbmTurnarounds, .hbmActivates, .hbmRefreshStallCycles, .hbmRegWaitCycles,
      .hbmQueueFullCycles], r.off 0 < 4096 := by decide
  unfold State.traffic
  split
  · exact State.sameDecoders_of_regs rfl
  · refine State.sameDecoders_trans (State.sameDecoders_bumpFree s (noDecoder_harbour (halfOf a) (r := .hbMshrFullCycles) (i := 0)
      (by decide))) ?_
    dsimp only
    split
    · refine State.sameDecoders_trans ?_
        (State.sameDecoders_foldl (fun t k => State.sameDecoders_bumpAllFree t (fun r hr => noDecoder_hbm k (hoff r hr))) _ _)
      exact State.sameDecoders_of_regs rfl
    · split
      · exact State.sameDecoders_bumpAllFree _ (noDecoder_cxlCounters _)
      · exact State.sameDecoders_of_regs rfl

/-- A write of an engine turns no CXL decoder. -/
theorem State.sameDecoders_engineWrite (s : State) (cl a : Nat) (bs : List Byte) : s.sameDecoders (s.engineWrite cl a bs).2 := by
  unfold State.engineWrite
  split
  · exact State.sameDecoders_of_regs rfl
  · split
    · exact State.sameDecoders_of_regs rfl
    · dsimp only
      split
      · exact State.sameDecoders_trans (State.sameDecoders_foldl State.sameDecoders_writeRun _ s) (State.sameDecoders_traffic _ _ _ _)
      · exact State.sameDecoders_of_regs rfl

/-! ### The bytes of a write that no region governs (R245) -/

/-- The pieces of a write under no region join into one. -/
theorem State.joinRuns_noRegion {s : State} (h : ∀ a, s.regionAt a = none) (fuel a : Nat) {bs : List Byte} (hb : bs ≠ [])
    (hf : bs.length + a % 4096 ≤ 4096 * fuel) : s.joinRuns (pages4k a bs fuel) = [(none, a, bs)] := by
  induction fuel generalizing a bs with
  | zero => exact absurd (List.length_eq_zero_iff.1 (by omega)) hb
  | succ fuel ih =>
    rw [pages4k, if_neg (by simpa using hb), State.joinRuns]
    by_cases hle : bs.length ≤ 4096 - a % 4096
    · rw [List.drop_eq_nil_of_le hle, pages4k_nil, List.take_of_length_le hle]
      simp [State.joinRuns, h]
    · rw [ih _ (by simpa using hle) (by rw [List.length_drop]; omega)]
      simp [h]

/-- Without a Harbour region every byte of a write is stored. -/
theorem State.mem_engineWrite {s : State} (h : ∀ a, s.regionAt a = none) (cl a : Nat) (bs : List Byte) :
    (s.engineWrite cl a bs).2.mem = memWrite s.mem a bs := by
  unfold State.engineWrite
  split
  · next hb => rw [List.isEmpty_iff.1 hb]; rfl
  · next hb =>
    split
    · rfl
    · have hr : s.runs a bs = [(none, a, bs)] := State.joinRuns_noRegion h _ a (by simpa using hb) (by omega)
      have hw : (s.writeRun (none, a, bs)).mem = memWrite s.mem a bs := State.store_mem s a bs
      rw [hr]
      exact (congrArg State.mem (State.traffic_through (s.writeRun (none, a, bs)) cl a _).1).trans hw

end Sys2Proof.Machine

namespace Sys2Proof.Machine

/-! ### Pages (R159) -/

@[simp] theorem State.page_setPage_same (s : State) (g : Nat) (p : KvPage) : (s.setPage g p).page g = p := FMap.get_set_same _ _ _ _

theorem State.page_setPage_other {s : State} {g j : Nat} {p : KvPage} (h : g ≠ j) : (s.setPage g p).page j = s.page j :=
  FMap.get_set_other _ _ _ _ _ _ h

/-- Replacing a page changes the table of pages alone. -/
theorem State.setPage_rest (s : State) (g : Nat) (p : KvPage) :
    s.setPage g p = { s with gulk := { s.gulk with pages := (s.setPage g p).gulk.pages } } := rfl

theorem State.stream_congr {s t : State} (h : t.gulk.streams = s.gulk.streams) (i : Nat) : t.stream i = s.stream i := by
  unfold State.stream; rw [h]

/-! ### A page that no stream waits on (R164, R208) -/

/-- A function that changes only streams that wait on a page changes none where none waits. -/
theorem State.streams_noWaiter {s : State} {g : Nat} (h : s.waitersOf g = []) {f : Stream → Stream}
    (hf : ∀ y : Stream, y.waitsFor g = false → f y = y) : s.gulk.streams.map (fun x => (x.1, x.2.map f)) = s.gulk.streams := by
  rw [State.waitersOf, List.map_eq_nil_iff, List.filter_eq_nil_iff] at h
  refine (List.map_congr_left fun x hx => ?_).trans (List.map_id _)
  have hw := h x hx
  obtain ⟨i, o⟩ := x
  cases o with
  | none => rfl
  | some y => exact congrArg (fun z => (i, some z)) (hf y (by simpa using hw))

theorem Stream.gotPage_noWait {y : Stream} {g : Nat} (h : y.waitsFor g = false) (now : Word) : y.gotPage g now = y := by
  unfold Stream.waitsFor at h
  unfold Stream.gotPage
  split
  · next l since starter hp =>
    rw [hp] at h
    have hg : g ∉ l := by simpa using h
    have hl : l.filter (· ≠ g) = l := List.filter_eq_self.2 (fun x hx => decide_eq_true (fun e => hg (e ▸ hx)))
    exact if_pos hl.symm
  · rfl

theorem Stream.lostPage_noWait {y : Stream} {g : Nat} (h : y.waitsFor g = false) (now : Word) : y.lostPage g now = y := by
  unfold Stream.waitsFor at h
  unfold Stream.lostPage
  split
  · next l since starter hp =>
    rw [hp] at h
    exact if_neg (by simpa using h)
  · rfl

theorem State.gotPage_noWaiter {s : State} {g : Nat} (h : s.waitersOf g = []) : s.gotPage g = s := by
  rw [State.gotPage, State.streams_noWaiter h (fun _ hy => Stream.gotPage_noWait hy _)]

theorem State.lostPage_noWaiter {s : State} {g : Nat} (h : s.waitersOf g = []) : s.lostPage g = s := by
  rw [State.lostPage, State.streams_noWaiter h (fun _ hy => Stream.lostPage_noWait hy _)]

theorem State.waitersOf_congr {s t : State} (h : t.gulk.streams = s.gulk.streams) (g : Nat) : t.waitersOf g = s.waitersOf g := by
  unfold State.waitersOf; rw [h]

/-! ### The end of a recomputation (R161, R164, R165, R207) -/

theorem State.recomputeEnds_other {s : State} {g : Nat} (h : (s.page g).st ≠ .recomputing) (e : HwEnd) : s.recomputeEnds g e = s :=
  if_pos (.inl h)

/-- The state in which the bits that a page's recomputation gives have been written. -/
def State.recomputed (s : State) (g : Nat) : State := (s.engineWrite (s.recomputeClass g) (s.page g).loc (s.page g).memo).2

/-- Writing a page's bits changes bytes of the page alone, and nothing that Gulkutik keeps. -/
theorem State.copied_recomputed (s : State) (g : Nat) : s.copied (s.recomputed g) [((s.page g).loc, (s.page g).memo.length)] :=
  State.copied_engineWrite s _ ⟨_, List.mem_singleton_self _, le_rfl, le_rfl⟩

theorem State.gulk_recomputed (s : State) (g : Nat) : (s.recomputed g).gulk = s.gulk := by rw [(State.copied_recomputed s g).rest]

/-- Where no Harbour region lies, the page's bytes are the bits it had (R164). -/
theorem State.byte_recomputed {s : State} (h : ∀ a, s.regionAt a = none) (g a : Nat) : (s.recomputed g).byte a =
    if (s.page g).loc ≤ a ∧ a < (s.page g).loc + (s.page g).memo.length then (s.page g).memo.getD (a - (s.page g).loc) 0 else s.byte a := by
  rw [State.byte, State.recomputed, State.mem_engineWrite h]
  exact get_memWrite ..

/-- A page whose bits are back (R164). -/
def KvPage.restored (p : KvPage) : KvPage := { p with st := .resident, memCause := false, memo := [] }

/-- A page whose recomputation failed (R165). -/
def KvPage.lost (p : KvPage) : KvPage := { p with st := .dropped, loc := 0 }

/-- The state after a recomputation that finished: the page is restored, and counted (R207). -/
def State.restores (s : State) (g : Nat) : State :=
  ((s.recomputed g).setPage g (s.page g).restored).bump .rollout .recomputePages 0 1

theorem State.gulk_restores (s : State) (g : Nat) :
    (s.restores g).gulk = { s.gulk with pages := FMap.set {} s.gulk.pages g (s.page g).restored } := by
  rw [State.restores, State.bump_gulk, State.setPage, State.gulk_recomputed]

theorem State.page_restores (s : State) (g j : Nat) : (s.restores g).page j = if g = j then (s.page g).restored else s.page j := by
  unfold State.page
  rw [State.gulk_restores]
  exact FMap.get_set {} s.gulk.pages g j (s.page g).restored

theorem State.mem_restores (s : State) (g : Nat) : (s.restores g).mem = (s.recomputed g).mem := State.bump_mem ..

theorem State.records_restores (s : State) (g : Nat) : (s.restores g).records = s.records := by
  rw [State.restores, State.bump_records, State.setPage, (State.copied_recomputed s g).rest]

theorem State.sameDecoders_restores (s : State) (g : Nat) : s.sameDecoders (s.restores g) :=
  State.sameDecoders_trans (State.sameDecoders_engineWrite s _ _ _)
    (State.sameDecoders_bump ((s.recomputed g).setPage g (s.page g).restored) (noDecoder_page (by decide) (by decide)) 1)

theorem State.recomputePages_restores (s : State) (g : Nat) :
    (s.restores g).rd .rollout .recomputePages 0 = s.counted .rollout .recomputePages 0 1 := by
  have hcopy := State.copied_recomputed s g
  have hreg {r : RegName} (hr : r.off 0 < 4096) : ((s.recomputed g).setPage g (s.page g).restored).rd .rollout r 0 = s.rd .rollout r 0 :=
    hcopy.regs _ (memoryKey_regKey rfl hr)
  have hsys : ((s.recomputed g).setPage g (s.page g).restored).sys = s.sys := by rw [State.setPage, hcopy.rest]
  rw [State.restores, State.rd_bump_same]
  exact State.counted_congr (State.counting_congr rfl (by decide) (hreg (by decide)) hsys) (hreg (by decide))

section
variable {s : State} {g : Nat} (hst : (s.page g).st = .recomputing) (hrefs : (s.page g).refs ≠ 0) (hfirst : s.earlierFirst g = false)
  (hwait : s.waitersOf g = [])
include hst hrefs hfirst hwait

theorem State.recomputeEnds_finished : s.recomputeEnds g .finished = s.restores g := by
  have hgo : ¬((s.page g).st ≠ .recomputing ∨ s.earlierFirst g = true) := by simp [hst, hfirst]
  have hw : ((s.recomputed g).setPage g (s.page g).restored).waitersOf g = [] :=
    (State.waitersOf_congr (congrArg Gulk.streams (State.gulk_recomputed s g)) g).trans hwait
  have he : s.recomputeEnds g .finished =
      (((s.recomputed g).setPage g (s.page g).restored).gotPage g).bump .rollout .recomputePages 0 1 :=
    (if_neg hgo).trans (if_neg hrefs)
  rw [he, State.gotPage_noWaiter hw, State.restores]

theorem State.recomputeEnds_uncorrected (site : EccSite) : s.recomputeEnds g (.uncorrected site) = s.setPage g (s.page g).lost := by
  have hgo : ¬((s.page g).st ≠ .recomputing ∨ s.earlierFirst g = true) := by simp [hst, hfirst]
  have hw : (s.setPage g (s.page g).lost).waitersOf g = [] := hwait
  have hl : (s.setPage g { s.page g with st := .dropped, loc := 0 }).lostPage g = s.setPage g (s.page g).lost := State.lostPage_noWaiter hw
  unfold State.recomputeEnds stepStatus
  dsimp only
  rw [if_neg hgo, if_neg hrefs, hl, hw]
  rfl

end

theorem exec_recomputeDone_up {s : State} (hup : s.up) (g : BitVec 28) (e : HwEnd) :
    exec (.recomputeDone g e) s = .next (s.recomputeEnds g.toNat e).serve := by
  rw [exec_recomputeDone, execRecomputeDone, State.awake_up hup]

/-! ### The limit of the tree of nodes (R206, R215) -/

/-- From s to t nodes have been evicted: of what Gulkutik keeps only nodes, checkpoints and pages have changed, and of the registers
only the count of evictions. -/
structure State.evicts (s t : State) : Prop where
  rest : t = { s with regs := t.regs, gulk := { s.gulk with pages := t.gulk.pages, ckpts := t.gulk.ckpts, nodes := t.gulk.nodes } }
  regs : s.regsBut t [regKey .rollout .nodeEvictCount 0]

theorem State.evicts_of_gulk {s t : State}
    (h : t = { s with gulk := { s.gulk with pages := t.gulk.pages, ckpts := t.gulk.ckpts, nodes := t.gulk.nodes } }) : s.evicts t :=
  ⟨by rw [h], State.regsBut_refl (by rw [h]) _⟩

theorem State.evicts_refl (s : State) : s.evicts s := State.evicts_of_gulk rfl

theorem State.evicts_trans {s t u : State} (h : s.evicts t) (k : t.evicts u) : s.evicts u :=
  ⟨by rw [k.rest, h.rest], State.regsBut_trans h.regs k.regs⟩

theorem State.evicts_streams {s t : State} (h : s.evicts t) : t.gulk.streams = s.gulk.streams := by rw [h.rest]

theorem State.evicts_scenes {s t : State} (h : s.evicts t) : t.gulk.scenes = s.gulk.scenes := by rw [h.rest]

theorem State.evicts_mem {s t : State} (h : s.evicts t) : t.mem = s.mem := by rw [h.rest]

theorem State.evicts_unrefPage (s : State) (g : Nat) : s.evicts (s.unrefPage g) := by
  unfold State.unrefPage
  dsimp only
  split <;> exact State.evicts_of_gulk rfl

theorem State.evicts_unrefPages (l : List Nat) (s : State) : s.evicts (l.foldl State.unrefPage s) := by
  induction l generalizing s with
  | nil => exact State.evicts_refl s
  | cons g l ih => exact State.evicts_trans (State.evicts_unrefPage s g) (ih _)

theorem State.evicts_unrefCkpt (s : State) (c : Nat) : s.evicts (s.unrefCkpt c) := by
  unfold State.unrefCkpt
  split
  · exact State.evicts_of_gulk rfl
  · exact State.evicts_refl s

/-- The count of evictions goes up. -/
theorem State.evicts_counted (s : State) : s.evicts (s.bump .rollout .nodeEvictCount 0 1) := by
  refine ⟨?_, State.regsBut_bump (State.regsBut_refl rfl _) (List.mem_singleton_self _)⟩
  rw [State.regsOnly_eq (State.regsOnly_bump (State.regsOnly_refl s) .rollout .nodeEvictCount 0 1)]

theorem State.evicts_evictNode (s : State) (i : Nat) : s.evicts (s.evictNode i) := by
  unfold State.evictNode
  split
  · exact State.evicts_refl s
  · next n _ =>
    have hckpt (u : State) : u.evicts (match n.ckpt with | some c => u.unrefCkpt c | none => u) := by
      split
      · exact State.evicts_unrefCkpt u _
      · exact State.evicts_refl u
    have hparent (u : State) : u.evicts (match n.parent with
        | some p => (match u.node p with | some m => u.setNode p (some { m with children := m.children - 1 }) | none => u)
        | none => u) := by
      split
      · split
        · exact State.evicts_of_gulk rfl
        · exact State.evicts_refl u
      · exact State.evicts_refl u
    dsimp only
    refine State.evicts_trans ?_ (State.evicts_counted _)
    refine State.evicts_trans ?_ (hparent _)
    refine State.evicts_trans ?_ (hckpt _)
    refine State.evicts_trans ?_ (State.evicts_unrefPages n.row _)
    exact State.evicts_of_gulk rfl

/-- Evictions until the nodes fit a limit change what evictions change. -/
theorem State.evicts_fitNodes (limit fuel : Nat) (s : State) : s.evicts (s.fitNodes limit fuel) := by
  induction fuel generalizing s with
  | zero => exact State.evicts_refl s
  | succ fuel ih =>
    rw [State.fitNodes]
    split
    · exact State.evicts_refl s
    · split
      · exact State.evicts_trans (State.evicts_evictNode s _) (ih _)
      · exact State.evicts_refl s

theorem State.fitNodes_fit {s : State} {limit : Nat} (h : s.nodeCount ≤ limit) (fuel : Nat) : s.fitNodes limit fuel = s := by
  cases fuel with
  | zero => rfl
  | succ fuel => exact if_pos h

/-- Settles O31: a recomputation's end is a write of the page's bits and of its entry, and the limit is a register write after which
nodes are evicted until they fit. -/
theorem recomputeResults : Obligations.RecomputeResults := by
  unfold Obligations.RecomputeResults
  refine ⟨fun s g p hup hp hidle => ⟨fun hst hrefs hfirst hwait => ⟨?finished, fun site => ?uncorrected⟩, fun e hst => ?other⟩,
    fun s v hup => ⟨fun hlo hhi => ?taken, fun hout => ?ignored⟩⟩
  case finished =>
    subst hp
    have hserve : (s.restores g.toNat).serve = s.restores g.toNat :=
      State.serve_noRequests (fun p n hn => by rw [State.decState_same (State.sameDecoders_restores s g.toNat) hn]; exact hidle.drains p n hn)
        (by rw [State.gulk_restores]; exact hidle.reqs)
    refine ⟨s.restores g.toNat, ?step, ?page, fun j hj => ?pages, fun i => ?streams, fun hregion => ⟨fun n hn => ?stored, fun a ha => ?kept⟩,
      State.recomputePages_restores .., State.records_restores ..⟩
    case step => rw [exec_recomputeDone_up hup, State.recomputeEnds_finished hst hrefs hfirst hwait, hserve]
    case page => exact (State.page_restores ..).trans (if_pos rfl)
    case pages => exact (State.page_restores ..).trans (if_neg (Ne.symm hj))
    case streams => exact State.stream_congr (by rw [State.gulk_restores]) i
    case stored =>
      rw [State.byte_congr (State.mem_restores s g.toNat), State.byte_recomputed hregion, if_pos (by omega), Nat.add_sub_cancel_left]
    case kept =>
      rw [State.byte_congr (State.mem_restores s g.toNat)]
      exact (State.copied_recomputed s g.toNat).bytes a ha
  case uncorrected =>
    subst hp
    have hserve : (s.setPage g.toNat (s.page g.toNat).lost).serve = s.setPage g.toNat (s.page g.toNat).lost :=
      State.serve_noRequests hidle.drains hidle.reqs
    refine ⟨s.setPage g.toNat (s.page g.toNat).lost, ?_, State.page_setPage_same .., fun j hj => State.page_setPage_other (Ne.symm hj),
      State.setPage_rest s g.toNat _⟩
    rw [exec_recomputeDone_up hup, State.recomputeEnds_uncorrected hst hrefs hfirst hwait, hserve]
  case other =>
    subst hp
    rw [exec_recomputeDone_up hup, State.recomputeEnds_other hst, State.serve_noRequests hidle.drains hidle.reqs]
  case taken =>
    have hev := State.evicts_fitNodes (bits v 22 0) s.nodeCount (s.wrRw .rollout .rollNodeLimit 0 v)
    have hgulk : (s.wrRw .rollout .rollNodeLimit 0 v).gulk = s.gulk := State.wr_gulk ..
    have hcount : (s.wrRw .rollout .rollNodeLimit 0 v).nodeCount = s.nodeCount := by rw [State.nodeCount, hgulk]; rfl
    refine ⟨(s.wrRw .rollout .rollNodeLimit 0 v).fitNodes (bits v 22 0) s.nodeCount, ?step, ?limit, fun h => ?fits, ?streams, ?scenes, ?memory⟩
    case step =>
      rw [exec_rollNodeLimitWrite, execRollNodeLimitWrite, State.awake_up hup, State.rollNodeLimitWrite]
      exact congrArg _ (if_neg (by omega))
    case limit => exact (hev.regs (regKey .rollout .rollNodeLimit 0) (by decide)).trans (State.rd_wr_same ..)
    case fits =>
      rw [State.fitNodes_fit (hcount.le.trans h)]
      exact ⟨State.regsBut_wr (State.regsBut_refl rfl _) (List.mem_singleton_self _),
        State.regsOnly_eq (State.regsOnly_wr (State.regsOnly_refl s) ..)⟩
    case streams => exact (State.evicts_streams hev).trans (congrArg Gulk.streams hgulk)
    case scenes => exact (State.evicts_scenes hev).trans (congrArg Gulk.scenes hgulk)
    case memory => exact (State.evicts_mem hev).trans (State.wr_mem ..)
  case ignored =>
    rw [exec_rollNodeLimitWrite, execRollNodeLimitWrite, State.awake_up hup, State.rollNodeLimitWrite]
    exact congrArg _ (if_pos hout)

end Sys2Proof.Machine

namespace Sys2Proof.Machine

/-! ### The end of a step that its stream does not run (R195) -/

theorem exec_stepCommit_up {s : State} (hup : s.up) (i : Fin 16384) (e : HwEnd) (bad : Option (BitVec 28)) :
    exec (.stepCommit i e bad) s = .next (s.stepEnds i.val e (bad.map (·.toNat))).serve := by
  rw [exec_stepCommit, execStepCommit, State.awake_up hup]

theorem State.stepEnds_notRunning {s : State} {i : Nat} {st : Stream} (hs : s.stream i = some st) (h : st.phase ≠ .running) (e : HwEnd)
    (bad : Option Nat) : s.stepEnds i e bad = s := by
  unfold State.stepEnds
  rw [hs]
  dsimp only
  split
  · split
    · rfl
    · exact if_pos h
  · rfl

/-- An OBSERVE that goes on has nothing that Gulkutik can serve: its steps are dispatched and committed (R194). -/
theorem State.serveReq_observe {s : State} {r : Req} (ho : r.op = 2) (hstop : r.stop s.now allStatus = none) (k : Nat) : s.serveReq k r = none := by
  unfold State.serveReq
  simp only [ho, hstop]

/-- A commit for an idle stream changes nothing, where the table of requests lists the stream's OBSERVE and nothing else (R195). -/
theorem exec_stepCommit_idle {s : State} {i : Fin 16384} {k : Nat} {r : Req} {st : Stream} (hup : s.up) (hs : s.stream i = some st)
    (hreqs : ∀ y ∈ s.gulk.reqs, y.2 = none ∨ y = (k, some r)) (hd : ∀ (p : Fin 2) (n : Nat), n < 8 → s.decState p n ≠ 3) (ho : r.op = 2)
    (hstop : r.stop s.now allStatus = none) (h : st.phase = .idle) (e : HwEnd) (bad : Option (BitVec 28)) :
    exec (.stepCommit i e bad) s = .next s := by
  have hserve : s.serve = s := State.serve_still hd (fun y hy x hx => by
    rcases hreqs y hy with h0 | rfl
    · rw [h0] at hx; cases hx
    · cases hx; exact State.serveReq_observe ho hstop k)
  rw [exec_stepCommit_up hup, State.stepEnds_notRunning hs (by rw [h]; decide), hserve]

/-- A state whose table of requests is not canonical and lists place 0 twice: first the OBSERVE of idle stream 0, and behind it a CXL_OP
whose decoder is off, so that Gulkutik can answer it. -/
def listedTwice : State :=
  let scene : Scene := { gen := 0, model := 0, version := 0, cls := 0, srMode := 0, frameFmt := 0, seed := 0, interval := 0, threshold := 0,
                         root := 0, intake := 0, intakeBytes := 0, rkey := 0 }
  let req (op : Nat) : Req := { qp := 0, id := 0, op := op, accepted := 0, deadline := 0, scene := 0, stream := 0, body := [] }
  { State.reset with gulk := { scenes := [(0, some scene)], streams := [(0, some { gen := 0, scene := 0, seed := 0, work := [0] })],
                               reqs := [(0, some (req 0x02)), (0, some (req 0x34))] } }

theorem listedTwice_drains : ∀ (p : Fin 2) (n : Nat), n < 8 → listedTwice.decState p n ≠ 3 := by decide

theorem listedTwice_answered : listedTwice.serve.records.length = 1 := by
  rw [State.serve, State.drainDecoders_still listedTwice_drains]
  decide

/-- Refutes O30: its second half asks of the table's requests only that their place is k, where its first half asks that each is (k, r).
A table that lists place k twice meets that, and a commit for an idle stream then answers the second request (`listedTwice`), so it is
not without effect. Where the table lists the OBSERVE alone, that clause holds (`exec_stepCommit_idle`). -/
theorem not_stepResults : ¬ Obligations.StepResults := by
  unfold Obligations.StepResults
  rintro ⟨-, hcommit⟩
  obtain ⟨-, -, hidle⟩ := hcommit listedTwice 0 none 0 _ _ _ ⟨rfl, rfl⟩ rfl rfl rfl (by simp [listedTwice]) listedTwice_drains rfl rfl
    (by decide)
  have hstill : exec (.stepCommit 0 .finished none) listedTwice = .next listedTwice := hidle .finished rfl
  have hserves : exec (.stepCommit 0 .finished none) listedTwice = .next listedTwice.serve := by
    rw [exec_stepCommit_up ⟨rfl, rfl⟩, State.stepEnds_notRunning rfl (by decide)]
  have hsame : listedTwice.serve = listedTwice := Host.Outcome.next.inj (hserves.symm.trans hstill)
  have hone := listedTwice_answered
  rw [hsame] at hone
  exact absurd hone (by decide)

end Sys2Proof.Machine

/-! Proofs about spare-core swaps and retirements of pseudo-channels (R187, R387, R388, R391). -/

namespace Sys2Proof.Machine

/-! ### Registers of other pages -/

theorem Pg.index_ne {p p' : Pg} (h : p ≠ p') : p.index ≠ p'.index :=
  fun e => h (Option.some.inj (by rw [← Pg.ofIndex_index p, e, Pg.ofIndex_index]))

theorem regKey_not_eventKeys_of_page {p p' : Pg} {r : RegName} {i : Nat} (h : p ≠ p') (hr : r.off i < 4096) :
    regKey p r i ∉ eventKeys p' := by
  have hne (e : RegName) (he : e.off 0 < 4096) : regKey p r i ≠ regKey p' e 0 := regKey_ne_of_page (Pg.index_ne h) hr he
  simp only [eventKeys, List.mem_cons, List.not_mem_nil, or_false, not_or]
  exact ⟨hne _ (by decide), hne _ (by decide), hne _ (by decide)⟩

theorem eventKeys_not_of_regKey {p : Pg} {ks : List Nat} (h : ∀ r : RegName, r.off 0 < 4096 → regKey p r 0 ∉ ks) :
    ∀ k ∈ eventKeys p, k ∉ ks := by
  simp only [eventKeys, List.forall_mem_cons, List.not_mem_nil, false_implies, implies_true, and_true]
  exact ⟨h _ (by decide), h _ (by decide), h _ (by decide)⟩

/-- The pages of the cores lie behind those of the module (R464). -/
theorem index_sequencer (c : Fin 36) : 256 ≤ (Pg.sequencer c).index := by revert c; decide

theorem index_recurrent (c : Fin 36) : 256 ≤ (Pg.recurrent c).index := by revert c; decide

theorem regKey_not_lowKeys {p : Pg} (hp : 256 ≤ p.index) (r : RegName) (i : Nat) {ks : List Nat} (hk : ∀ k ∈ ks, k < 256 * 4096) :
    regKey p r i ∉ ks := by
  intro hm
  have := hk _ hm
  unfold regKey at this
  omega

/-- The registers in which the modes of the Harbour halves stand (R258). -/
def modeKeys : List Nat := [(0 : Fin 2), 1].flatMap (fun h => [regKey (.harbour h) .hbStat 0, regKey (.harbour h) .hbFrozenTime 0])

theorem hbStat_mem_modeKeys (h : Fin 2) : regKey (.harbour h) .hbStat 0 ∈ modeKeys := by revert h; decide

theorem hbFrozenTime_mem_modeKeys (h : Fin 2) : regKey (.harbour h) .hbFrozenTime 0 ∈ modeKeys := by revert h; decide

theorem regKey_not_modeKeys {p : Pg} {r : RegName} {i : Nat} (h : ∀ x, p ≠ .harbour x) (hr : r.off i < 4096) : regKey p r i ∉ modeKeys := by
  have hne (x : Fin 2) (m : RegName) (hm : m.off 0 < 4096) : regKey p r i ≠ regKey (.harbour x) m 0 :=
    regKey_ne_of_page (Pg.index_ne (h x)) hr hm
  simp only [modeKeys, List.flatMap_cons, List.flatMap_nil, List.mem_append, List.mem_cons, List.not_mem_nil, or_false, not_or]
  exact ⟨⟨hne 0 _ (by decide), hne 0 _ (by decide)⟩, hne 1 _ (by decide), hne 1 _ (by decide)⟩

/-! ### Registers, and the times from which modes hold (R258) -/

/-- From s to t registers with the given keys have been written, and Harbour halves may have noted the time anew from which they count. -/
structure State.remodes (s t : State) (ks : List Nat) : Prop where
  regs : s.regsBut t ks
  rest : t = { s with regs := t.regs, sys := { s.sys with modeSince := t.sys.modeSince } }

theorem State.remodes_refl (s : State) (ks : List Nat) : s.remodes s ks := ⟨State.regsBut_refl rfl ks, rfl⟩

theorem State.remodes_trans {s t u : State} {ks : List Nat} (h : s.remodes t ks) (k : t.remodes u ks) : s.remodes u ks :=
  ⟨State.regsBut_trans h.regs k.regs, by rw [k.rest, h.rest]⟩

theorem State.remodes_mono {s t : State} {ks js : List Nat} (h : s.remodes t ks) (hs : ks ⊆ js) : s.remodes t js :=
  ⟨State.regsBut_mono h.regs hs, h.rest⟩

theorem State.remodes_of_writes {s t : State} {ks : List Nat} (h : s.writes t ks) : s.remodes t ks := by
  refine ⟨h.regs, ?_⟩
  obtain ⟨m, rfl⟩ := h.rest
  rfl

/-- One change after another, each with its own registers. -/
theorem State.remodes_append {s t u : State} {ks js : List Nat} (h : s.remodes t ks) (k : t.remodes u js) : s.remodes u (ks ++ js) :=
  State.remodes_trans (State.remodes_mono h (List.subset_append_left ..)) (State.remodes_mono k (List.subset_append_right ..))

theorem State.remodes_rd {s t : State} {ks : List Nat} (h : s.remodes t ks) {p : Pg} {r : RegName} {i : Nat} (hk : regKey p r i ∉ ks) :
    t.rd p r i = s.rd p r i := h.regs _ hk

theorem State.remodes_now {s t : State} {ks : List Nat} (h : s.remodes t ks) : t.now = s.now := by rw [h.rest]

theorem State.remodes_core {s t : State} {ks : List Nat} (h : s.remodes t ks) (c : Nat) : t.core c = s.core c :=
  State.core_congr (by rw [h.rest]) c

/-- An event between two changes that leave its registers alone. -/
theorem State.raised_between {s a t : State} {p : Pg} {b : Nat} {ks js : List Nat} (h : s.remodes a ks) (k : (a.event p b).remodes t js)
    (hk : ∀ x ∈ eventKeys p, x ∉ ks) (hj : ∀ x ∈ eventKeys p, x ∉ js) : s.raised t p b :=
  State.raised_to (State.raised_event_of b (fun x hx => h.regs x (hk x hx)) (State.remodes_now h)) (fun x hx => k.regs x (hj x hx))

theorem State.remodes_event (s : State) (p : Pg) (b : Nat) : s.remodes (s.event p b) (eventKeys p) :=
  State.remodes_of_writes (State.writes_event (State.writes_refl s _) b (List.Subset.refl _))

theorem State.remodes_setFld (s : State) (p : Pg) (r : RegName) (i hi lo x : Nat) : s.remodes (s.setFld p r i hi lo x) [regKey p r i] :=
  State.remodes_of_writes (State.writes_setFld (State.writes_refl s _) hi lo x (List.mem_singleton_self _))

/-! ### The modes of the Harbour halves (R258) -/

/-- The mode that holds on a half that has booted (R258). -/
def State.modeOf (s : State) (h : Fin 2) : Nat := if s.sys.fullTest.isSome then 2 else if s.recovering h then 3 else 0

/-- One half takes the mode that holds (R258). -/
def State.halfModed (s : State) (h : Fin 2) : State := if s.fld (.harbour h) .hbStat 0 21 19 = 1 then s else s.setMode h (s.modeOf h)

theorem State.reMode_eq (s : State) : s.reMode = (s.halfModed 0).halfModed 1 := rfl

theorem State.remodes_frozenNow (s : State) (h : Fin 2) : s.remodes (s.frozenNow h) [regKey (.harbour h) .hbFrozenTime 0] :=
  ⟨State.regsBut_wr (State.regsBut_refl rfl _) (List.mem_singleton_self _), rfl⟩

theorem State.remodes_setMode (s : State) (h : Fin 2) (m : Nat) :
    s.remodes (s.setMode h m) [regKey (.harbour h) .hbFrozenTime 0, regKey (.harbour h) .hbStat 0] := by
  unfold State.setMode
  split
  · exact State.remodes_refl s _
  · exact State.remodes_append (State.remodes_frozenNow s h) (State.remodes_setFld ..)

theorem State.remodes_halfModed (s : State) (h : Fin 2) :
    s.remodes (s.halfModed h) [regKey (.harbour h) .hbFrozenTime 0, regKey (.harbour h) .hbStat 0] := by
  unfold State.halfModed
  split
  · exact State.remodes_refl s _
  · exact State.remodes_setMode s h _

theorem State.remodes_reMode (s : State) : s.remodes s.reMode modeKeys := by
  have hsub (h : Fin 2) : [regKey (.harbour h) .hbFrozenTime 0, regKey (.harbour h) .hbStat 0] ⊆ modeKeys :=
    List.cons_subset.2 ⟨hbFrozenTime_mem_modeKeys h, List.cons_subset.2 ⟨hbStat_mem_modeKeys h, List.nil_subset _⟩⟩
  rw [State.reMode_eq]
  exact State.remodes_trans (State.remodes_mono (State.remodes_halfModed s 0) (hsub 0)) (State.remodes_mono (State.remodes_halfModed _ 1) (hsub 1))

theorem State.fld_setMode (s : State) (h : Fin 2) (m : Nat) (hm : m < 8) : (s.setMode h m).fld (.harbour h) .hbStat 0 21 19 = m := by
  unfold State.setMode
  split
  · next e => exact e
  · exact (State.fld_setFld_same (by decide)).trans (Nat.mod_eq_of_lt hm)

theorem State.fld_halfModed {s : State} {h : Fin 2} (hb : s.fld (.harbour h) .hbStat 0 21 19 ≠ 1) :
    (s.halfModed h).fld (.harbour h) .hbStat 0 21 19 = s.modeOf h := by
  unfold State.halfModed
  rw [if_neg hb, State.fld_setMode]
  unfold State.modeOf
  split
  · decide
  · split <;> decide

theorem State.modeOf_remodes {s t : State} {ks : List Nat} (h : s.remodes t ks) (x : Fin 2) : t.modeOf x = s.modeOf x := by
  unfold State.modeOf State.recovering
  rw [h.rest]

/-- A half keeps its mode while the other takes its own. -/
theorem State.fld_halfModed_other (s : State) {h x : Fin 2} (hx : x ≠ h) :
    (s.halfModed h).fld (.harbour x) .hbStat 0 21 19 = s.fld (.harbour x) .hbStat 0 21 19 := by
  have hne (r : RegName) (hr : r.off 0 < 4096) : regKey (.harbour x) .hbStat 0 ≠ regKey (.harbour h) r 0 :=
    regKey_ne_of_page (Pg.index_ne (fun e => hx (Pg.harbour.inj e))) (by decide) hr
  refine State.fld_congr (State.remodes_rd (State.remodes_halfModed s h) ?_) 21 19
  simp only [List.mem_cons, List.not_mem_nil, or_false, not_or]
  exact ⟨hne _ (by decide), hne _ (by decide)⟩

theorem State.fld_reMode {s : State} {h : Fin 2} (hb : s.fld (.harbour h) .hbStat 0 21 19 ≠ 1) :
    s.reMode.fld (.harbour h) .hbStat 0 21 19 = s.modeOf h := by
  rw [State.reMode_eq]
  obtain rfl | rfl : h = 0 ∨ h = 1 := by omega
  · rw [State.fld_halfModed_other _ (by decide), State.fld_halfModed hb]
  · rw [State.fld_halfModed (by rw [State.fld_halfModed_other _ (by decide)]; exact hb)]
    exact State.modeOf_remodes (State.remodes_halfModed s 0) 1

/-! ### The handshakes of pages (R393) -/

theorem State.liveRec_setLive_same (s : State) (p : Pg) (l : Live) : (s.setLive p l).liveRec p = l := FMap.get_set_same ..

theorem State.liveRec_setLive_other (s : State) {p d : Pg} (l : Live) (h : d ≠ p) : (s.setLive p l).liveRec d = s.liveRec d :=
  FMap.get_set_other _ _ _ _ _ _ (Ne.symm (Pg.index_ne h))

theorem State.liveRec_congr {s t : State} (h : t.lives = s.lives) (p : Pg) : t.liveRec p = s.liveRec p := by
  unfold State.liveRec; rw [h]

/-! ### A swap that begins (R387, R388) -/

theorem exec_spareCoreSwap_up {s : State} (hup : s.up) (c : Fin 36) (o : Fin 3) :
    exec (.spareCoreSwap c o) s = .next (s.swapBegins c o.val).2 := by
  rw [exec_spareCoreSwap, execSpareCoreSwap, State.awake_up hup]

/-- An event and nothing else, which is how a request is refused (R387, R391). -/
theorem State.event_result (s : State) (p : Pg) (b : Nat) :
    s.raised (s.event p b) p b ∧ s.regsBut (s.event p b) (eventKeys p) ∧ s.event p b = { s with regs := (s.event p b).regs } :=
  have h := State.writes_event (State.writes_refl s (eventKeys p)) b (List.Subset.refl _)
  ⟨State.raised_event s p b, h.regs, State.writes_eq h⟩

theorem State.ignore_fault (s : State) : s.ignore .fault = s.event .fault 5 := rfl

/-- No grant stands for a slice on a physical core (R446). -/
def State.ungranted (s : State) (p : Nat) : State := { s with sys := { s.sys with granted := s.sys.granted.del p } }

theorem State.sliceAborts_none {s : State} {p : Nat} (h : FMap.get none s.sys.slices p = none) : s.sliceAborts p = s.ungranted p := by
  unfold State.sliceAborts
  simp [h, State.ungranted]

/-- A swap of a core that no slice runs on, before it shows in registers (R388). -/
def State.swapStarts (s : State) (c : Fin 36) (owner : Nat) : State :=
  let u := (s.ungranted (s.physOf c)).ungranted (s.spareOf (c.val / 6))
  { u with sys := { u.sys with swap := some { core := c.val, before := s.liveRec (.sequencer c), owner := owner } } }.setLive
    (.sequencer c) { s.liveRec (.sequencer c) with state := .draining, owner := owner }

theorem State.swapStarts_regs (s : State) (c : Fin 36) (o : Nat) : (s.swapStarts c o).regs = s.regs := by
  simp only [State.swapStarts, State.ungranted, State.setLive_regs]

theorem State.swapStarts_lives (s : State) (c : Fin 36) (o : Nat) :
    (s.swapStarts c o).lives = (s.setLive (.sequencer c) { s.liveRec (.sequencer c) with state := .draining, owner := o }).lives := by
  simp only [State.swapStarts, State.ungranted, State.setLive]

theorem State.swapStarts_fullTest (s : State) (c : Fin 36) (o : Nat) : (s.swapStarts c o).sys.fullTest = s.sys.fullTest := by
  simp only [State.swapStarts, State.ungranted, State.setLive_sys]

theorem State.swapStarts_swap (s : State) (c : Fin 36) (o : Nat) :
    (s.swapStarts c o).sys.swap = some { core := c.val, before := s.liveRec (.sequencer c), owner := o } := by
  simp only [State.swapStarts, State.setLive_sys]

theorem State.swapStarts_rest (s : State) (c : Fin 36) (o : Nat) :
    s.swapStarts c o = { s with lives := (s.swapStarts c o).lives, sys := (s.swapStarts c o).sys } := by
  simp only [State.swapStarts, State.ungranted, State.setLive]

theorem State.swapBegins_ignored {s : State} {c : Fin 36} (h : s.coreLive c = false ∨ s.sys.swap.isSome = true) (owner : Nat) :
    (s.swapBegins c owner).2 = s.event .fault 5 := by
  unfold State.swapBegins
  rw [if_pos (by simpa using h), State.ignore_fault]

theorem State.swapBegins_noSpare {s : State} {c : Fin 36} (hl : s.coreLive c = true) (hw : s.sys.swap = none)
    (hf : s.spareFree (c.val / 6) = false) (owner : Nat) : (s.swapBegins c owner).2 = s.event .fault 2 := by
  unfold State.swapBegins
  rw [if_neg (by simp [hl, hw]), if_pos (by simp [hf])]

theorem State.swapBegins_starts {s : State} {c : Fin 36} (hl : s.coreLive c = true) (hw : s.sys.swap = none)
    (hf : s.spareFree (c.val / 6) = true) (hc : FMap.get none s.sys.slices (s.physOf c) = none)
    (hs : FMap.get none s.sys.slices (s.spareOf (c.val / 6)) = none) (owner : Nat) :
    (s.swapBegins c owner).2 =
      (((s.swapStarts c owner).setFld .fault .swapStat 0 5 0 c.val).setFld .fault .swapStat 0 6 6 1).reMode := by
  unfold State.swapBegins
  rw [if_neg (by simp [hl, hw]), if_neg (by simp [hf]), State.sliceAborts_none hc,
    State.sliceAborts_none (s := s.ungranted _) hs]
  rfl

/-- The swap of a core puts the half of its die in RECOVERY, where no full test runs (R258). -/
theorem State.modeOf_swap {s : State} {h : Fin 2} {w : Swap} (hf : s.sys.fullTest = none) (hw : s.sys.swap = some w)
    (hc : h.val = w.core / 18) : s.modeOf h = 3 := by
  simp [State.modeOf, State.recovering, hf, hw, hc]

/-- What a swap that begins leaves (R388, R258). -/
theorem State.swapBegins_result {s : State} {c : Fin 36} (hl : s.coreLive c = true) (hw : s.sys.swap = none)
    (hf : s.spareFree (c.val / 6) = true) (hc : FMap.get none s.sys.slices (s.physOf c) = none)
    (hs : FMap.get none s.sys.slices (s.spareOf (c.val / 6)) = none) (o : Fin 3) :
    let p : Pg := .sequencer c
    let t := (s.swapBegins c o.val).2
    t.sys.swap = some { core := c.val, before := s.liveRec p, owner := o.val } ∧
      t.liveRec p = { s.liveRec p with state := .draining, owner := o.val } ∧ (∀ d, d ≠ p → t.liveRec d = s.liveRec d) ∧
      t.fld .fault .swapStat 0 5 0 = c.val ∧ t.fld .fault .swapStat 0 6 6 = 1 ∧
      (∀ h : Fin 2, h.val = c.val / 18 → s.sys.fullTest = none → s.fld (.harbour h) .hbStat 0 21 19 ≠ 1 →
        t.fld (.harbour h) .hbStat 0 21 19 = 3) ∧
      s.regsBut t (regKey .fault .swapStat 0 :: modeKeys) ∧ t = { s with regs := t.regs, lives := t.lives, sys := t.sys } := by
  dsimp only
  rw [State.swapBegins_starts hl hw hf hc hs]
  have hregs := s.swapStarts_regs c o.val
  have hlives := s.swapStarts_lives c o.val
  have hfull := s.swapStarts_fullTest c o.val
  have hswap := s.swapStarts_swap c o.val
  have hrest := s.swapStarts_rest c o.val
  generalize s.swapStarts c o.val = v at *
  generalize hu : (v.setFld .fault .swapStat 0 5 0 c.val).setFld .fault .swapStat 0 6 6 1 = u
  have hvu : v.remodes u [regKey .fault .swapStat 0] := hu ▸ State.remodes_trans (State.remodes_setFld ..) (State.remodes_setFld ..)
  have hut := State.remodes_reMode u
  have hvt := State.remodes_append hvu hut
  have hstat : u.reMode.rd .fault .swapStat 0 = u.rd .fault .swapStat 0 :=
    State.remodes_rd hut (regKey_not_modeKeys (by simp) (by decide))
  have hlive : u.reMode.lives = _ := (by rw [hvt.rest] : u.reMode.lives = v.lives).trans hlives
  have hreg (h : Fin 2) : u.fld (.harbour h) .hbStat 0 21 19 = s.fld (.harbour h) .hbStat 0 21 19 := by
    refine State.fld_congr ((State.remodes_rd hvu ?_).trans (State.rd_congr hregs ..)) 21 19
    exact fun e => regKey_ne_of_page (Pg.index_ne (by simp)) (by decide) (by decide) (List.mem_singleton.1 e)
  refine ⟨?swap, ?live, ?others, ?core, ?runs, ?mode, ?regs, ?rest⟩
  case swap => rw [hvt.rest]; exact hswap
  case live => rw [State.liveRec_congr hlive]; exact State.liveRec_setLive_same ..
  case others => intro d hd; rw [State.liveRec_congr hlive]; exact State.liveRec_setLive_other _ _ hd
  case core =>
    rw [State.fld_congr hstat, ← hu, State.fld_setFld_other (by decide) (by decide), State.fld_setFld_same (by decide)]
    exact Nat.mod_eq_of_lt (by omega)
  case runs => rw [State.fld_congr hstat, ← hu]; exact State.fld_setFld_same (by decide)
  case mode =>
    intro h hh htest hboot
    rw [State.fld_reMode (by rw [hreg]; exact hboot)]
    refine State.modeOf_swap (w := ⟨c.val, s.liveRec (.sequencer c), o.val⟩) ?_ ?_ hh
    · rw [hvu.rest]; exact hfull.trans htest
    · rw [hvu.rest]; exact hswap
  case regs => exact fun k hk => (hvt.regs k hk).trans (State.reg_congr hregs k)
  case rest => rw [hvt.rest, hrest]

/-! ### A swap that ends (R187, R388) -/

/-- The spare of the bay holds the core, and no swap is in progress (R388). -/
def State.onSpare (s : State) (c : Fin 36) : State :=
  { s with sys := { s.sys with
      swap := none, phys := FMap.set 0 s.sys.phys c.val (s.spareOf (c.val / 6) + 1), spareGone := s.sys.spareGone.add (c.val / 6) } }

/-- The core is a member of an enabled multicast group (R117). -/
def State.inGroup (s : State) (c : Fin 36) : Bool :=
  (List.range 255).any (fun g => bit1 (s.rd .multicast .mcastGroup g) 63 && bit1 (s.rd .multicast .mcastGroup g) c.val)

/-- The registers of a swap after its end (R398). -/
def State.swapShown (s : State) : State := (s.setFld .fault .swapStat 0 6 6 0).wr .fault .swapTime 0 s.now

/-- What the end of a swap writes beside the page that reports it: the field record, the modes, the units that moved, and a move within
a multicast group (R117, R187, R258, R423). -/
def State.swapCounted (s : State) (c : Fin 36) : State :=
  let s := s.fieldWrite.reMode
  let s := s.bump (.recurrent c) .stateSaveCount 0 (s.core c).stateUnits
  if s.inGroup c then s.event .multicast 1 else s

/-- The state of a core's swap at its end, but for the handshake of the core (R388). -/
def State.swapMoved (s : State) (c : Fin 36) : State := ((s.onSpare c).swapShown.event .fault 1).swapCounted c

/-- The handshake of a core's page as it read before its swap (R388). -/
def State.liveBack (s : State) (w : Swap) (c : Fin 36) : Live :=
  { w.before with held := w.before.held || (s.liveRec (.sequencer c)).held, waiting := [] }

theorem State.swapEnds_eq (s : State) (w : Swap) (c : Fin 36) (h : (s.liveRec (.sequencer c)).waiting = []) :
    s.swapEnds w c = if w.before.state = .running then ((s.swapMoved c).setLive (.sequencer c) (s.liveBack w c)).resume (.sequencer c)
      else (s.swapMoved c).setLive (.sequencer c) (s.liveBack w c) := by
  unfold State.swapEnds
  dsimp only
  rw [h]
  rfl

/-- The registers that the end of a swap writes beside the page that reports it. -/
def swapCountKeys (c : Fin 36) : List Nat :=
  regKey .security .secOwner 0 :: modeKeys ++ ([regKey (.recurrent c) .stateSaveCount 0] ++ eventKeys .multicast)

theorem State.remodes_fieldWrite_reMode (s : State) : s.remodes s.fieldWrite.reMode (regKey .security .secOwner 0 :: modeKeys) :=
  State.remodes_append (State.remodes_setFld ..) (State.remodes_reMode _)

theorem State.remodes_bump (s : State) (p : Pg) (r : RegName) (i n : Nat) : s.remodes (s.bump p r i n) [regKey p r i] :=
  State.remodes_of_writes (State.writes_bump (State.writes_refl s _) n (List.mem_singleton_self _))

/-- The event of a move within a multicast group (R117). -/
theorem State.remodes_groupEvent (s : State) (b : Bool) : s.remodes (if b then s.event .multicast 1 else s) (eventKeys .multicast) := by
  split
  · exact State.remodes_event ..
  · exact State.remodes_refl ..

theorem State.remodes_swapCounted (s : State) (c : Fin 36) : s.remodes (s.swapCounted c) (swapCountKeys c) :=
  State.remodes_append (State.remodes_fieldWrite_reMode s) (State.remodes_append (State.remodes_bump ..) (State.remodes_groupEvent ..))

theorem State.remodes_swapShown (s : State) : s.remodes s.swapShown [regKey .fault .swapStat 0, regKey .fault .swapTime 0] :=
  State.remodes_append (State.remodes_setFld ..)
    (State.remodes_of_writes (State.writes_wr (State.writes_refl _ _) _ (List.mem_singleton_self _)))

/-- Whether the recurrent page of a core counts is fixed by its control register and by full tests, where no slice of self-test runs. -/
theorem State.counted_recurrent {s t : State} {c : Fin 36} {r : RegName} {i : Nat} (hs : s.sys.slices = []) (ht : t.sys.slices = [])
    (hf : t.sys.fullTest = s.sys.fullTest) (hc : t.rd (.recurrent c) .recurCtrl 0 = s.rd (.recurrent c) .recurCtrl 0)
    (hr : t.rd (.recurrent c) r i = s.rd (.recurrent c) r i) (n : Nat) : t.counted (.recurrent c) r i n = s.counted (.recurrent c) r i n := by
  have hoff {u : State} (hu : u.sys.slices = []) : u.sliceOn c.val = false := by simp [State.sliceOn, hu]
  refine State.counted_congr ?_ hr
  simp only [State.counting, Pg.type, PageType.counterCtl, hc, hf, hoff hs, hoff ht]

/-- The state units that moved are counted (R187). -/
theorem State.rd_swapCounted {s : State} {c : Fin 36} (hs : s.sys.slices = []) :
    (s.swapCounted c).rd (.recurrent c) .stateSaveCount 0 = s.counted (.recurrent c) .stateSaveCount 0 (s.core c).stateUnits := by
  have h := State.remodes_fieldWrite_reMode s
  have hlow (r : RegName) : regKey (.recurrent c) r 0 ∉ regKey .security .secOwner 0 :: modeKeys :=
    regKey_not_lowKeys (index_recurrent c) r 0 (by decide)
  unfold State.swapCounted
  dsimp only
  generalize s.fieldWrite.reMode = u at h
  rw [State.remodes_rd (State.remodes_groupEvent ..) (regKey_not_eventKeys_of_page (by simp) (by decide)), State.rd_bump_same,
    State.remodes_core h]
  exact State.counted_recurrent hs (by rw [h.rest]; exact hs) (by rw [h.rest]) (State.remodes_rd h (hlow _))
    (State.remodes_rd h (hlow _)) _

theorem KeySet.contains_add (m : KeySet) (i : Nat) : (m.add i).contains i = true := by
  fun_induction KeySet.add m i <;> simp_all

theorem State.physOf_onSpare (s : State) (c : Fin 36) : (s.onSpare c).physOf c = s.spareOf (c.val / 6) := by
  simp [State.physOf, State.onSpare]

theorem State.spareFree_onSpare (s : State) (c : Fin 36) : (s.onSpare c).spareFree (c.val / 6) = false := by
  unfold State.spareFree State.onSpare
  rw [KeySet.contains_add, Bool.not_true, Bool.and_false]

/-- The registers that the end of a core's swap writes. -/
def swapKeys (c : Fin 36) : List Nat :=
  [regKey .fault .swapStat 0, regKey .fault .swapTime 0, regKey .security .secOwner 0, regKey (.recurrent c) .stateSaveCount 0] ++
    eventKeys .fault ++ eventKeys .multicast ++ modeKeys

/-- From s to t core c has moved to the spare of its bay, and the swap is over (R187, R388). -/
structure State.swapped (s t : State) (c : Fin 36) : Prop where
  ended : t.sys.swap = none
  core : t.physOf c = s.spareOf (c.val / 6)
  spare : t.spareFree (c.val / 6) = false
  stat : t.fld .fault .swapStat 0 6 6 = 0
  time : t.rd .fault .swapTime 0 = s.now
  done : s.raised t .fault 1
  units : s.sys.slices = [] → t.rd (.recurrent c) .stateSaveCount 0 = s.counted (.recurrent c) .stateSaveCount 0 (s.core c).stateUnits
  regs : s.regsBut t (swapKeys c)
  rest : t = { s with regs := t.regs, sys := t.sys }

theorem regKey_fault_not_swapCountKeys (c : Fin 36) {r : RegName} (hr : r.off 0 < 4096) : regKey .fault r 0 ∉ swapCountKeys c := by
  simp only [swapCountKeys, List.cons_append, List.nil_append, List.mem_cons, List.mem_append, not_or]
  exact ⟨regKey_ne_of_page (by decide) hr (by decide), regKey_not_modeKeys (by simp) hr,
    regKey_ne_of_page (Pg.index_ne (by simp)) hr (by decide), regKey_not_eventKeys_of_page (by simp) hr⟩

theorem append_regroup_subset {α : Type} (a b x y : α) (e m n : List α) :
    [a, b] ++ (e ++ (x :: m ++ ([y] ++ n))) ⊆ [a, b, x, y] ++ e ++ n ++ m := by
  simp only [List.subset_def, List.mem_append, List.mem_cons, List.not_mem_nil, or_false]
  exact fun h => by tauto

theorem append_fourth_subset {α : Type} (a b x y : α) (e m n : List α) :
    [a, b, x, y] ++ e ++ n ++ m ⊆ y :: ([a, b, x] ++ (e ++ n ++ m)) := by
  simp only [List.subset_def, List.mem_append, List.mem_cons, List.not_mem_nil, or_false]
  exact fun h => by tauto

theorem State.swapped_swapMoved (s : State) (c : Fin 36) : s.swapped (s.swapMoved c) c := by
  unfold State.swapMoved
  have hva := State.remodes_swapShown (s.onSpare c)
  have hstat : (s.onSpare c).swapShown.fld .fault .swapStat 0 6 6 = 0 :=
    (State.fld_congr (State.rd_wr_other (by decide)) 6 6).trans (State.fld_setFld_same (by decide))
  have htime : (s.onSpare c).swapShown.rd .fault .swapTime 0 = s.now := State.rd_wr_same ..
  generalize (s.onSpare c).swapShown = a at *
  have hab := State.remodes_event a .fault 1
  have hbt := State.remodes_swapCounted (a.event .fault 1) c
  have hvb := State.remodes_append hva hab
  have hvt := State.remodes_mono (State.remodes_append hva (State.remodes_append hab hbt)) (append_regroup_subset ..)
  have hshown {r : RegName} (hr : r.off 0 < 4096) (he : r.off 0 ≠ 0x28 ∧ r.off 0 ≠ 0x38 ∧ r.off 0 ≠ 0x48) :
      ((a.event .fault 1).swapCounted c).rd .fault r 0 = a.rd .fault r 0 :=
    (State.remodes_rd hbt (regKey_fault_not_swapCountKeys c hr)).trans (State.rd_event_other (regKey_not_eventKeys he))
  have hcore (r : RegName) : (a.event .fault 1).rd (.recurrent c) r 0 = s.rd (.recurrent c) r 0 :=
    State.remodes_rd hvb (regKey_not_lowKeys (index_recurrent c) r 0 (by decide))
  refine ⟨?ended, ?core, ?spare, ?stat, ?time, ?done, ?units, hvt.regs, ?rest⟩
  case ended => rw [hvt.rest]; rfl
  case core => rw [hvt.rest]; exact State.physOf_onSpare s c
  case spare => rw [hvt.rest]; exact State.spareFree_onSpare s c
  case stat => rw [State.fld_congr (hshown (by decide) (by decide))]; exact hstat
  case time => rw [hshown (by decide) (by decide)]; exact htime
  case done =>
    exact State.raised_between (s := s.onSpare c) hva hbt (by decide) (eventKeys_not_of_regKey (fun r => regKey_fault_not_swapCountKeys c))
  case units =>
    intro hs
    have hb : (a.event .fault 1).sys.slices = [] := by rw [hvb.rest]; exact hs
    rw [State.rd_swapCounted hb, State.remodes_core hvb]
    exact State.counted_recurrent hs hb (by rw [hvb.rest]; rfl) (hcore _) (hcore _) _
  case rest => rw [hvt.rest]; rfl

/-! ### RESUME of a core that its holder keeps (R78, R393) -/

theorem State.resume_noBells {s : State} {c : Fin 36} (hb : (s.core c).heldBells = []) :
    s.resume (.sequencer c) = ((s.setLive (.sequencer c) { s.liveRec (.sequencer c) with state := .running, held := false }).setCore c
      (s.core c)).arbitrate c := by
  unfold State.resume
  dsimp only
  rw [State.core_congr (State.setLive_cores ..), hb, List.foldl_nil, ← hb]

/-- From s to t the handshake of a page is another, and the holder of a core has been settled: the queues are as they were. -/
structure State.resumes (s t : State) (p : Pg) (l : Live) : Prop where
  lives : t.lives = (s.setLive p l).lives
  queue : ∀ d r, t.queue d r = s.queue d r
  rest : t = { s with lives := t.lives, cores := t.cores }

theorem State.resumes_resume {s : State} {c : Fin 36} {h : Nat} (hb : (s.core c).heldBells = []) (hh : (s.core c).holder = some h)
    (hk : (s.queue c h).keeps = true) (hr : s.higherReady c h = false)
    (ht : ∀ r, (s.queue c r).state = .waiting → (s.queue c r).inWaitGe = true) :
    s.resumes (s.resume (.sequencer c)) (.sequencer c) { s.liveRec (.sequencer c) with state := .running, held := false } := by
  rw [State.resume_noBells hb]
  generalize ({ s.liveRec (.sequencer c) with state := .running, held := false } : Live) = l
  generalize hv : (s.setLive (.sequencer c) l).setCore c (s.core c) = v
  have hq (d r : Nat) : v.queue d r = s.queue d r := hv ▸ State.queue_setCore_self (s.setLive (.sequencer c) l) c d r
  have hcore : v.core c = s.core c := by rw [← hv, State.core_setCore_same]
  have hclass (r : Nat) : v.qClass c r = s.qClass c r := by rw [← hv]; rfl
  have hstays := State.arbitrate_staysHeld (s := v) (c := c) (h := h) (by rw [hcore]; exact hh) (by rw [hq]; exact hk)
    (by rw [State.higherReady_congr hclass (fun r => congrArg Queue.state (hq c r))]; exact hr) (fun r => by rw [hq]; exact ht r)
  refine ⟨?lives, fun d r => ?queue, ?rest⟩
  case lives => rw [hstays.rest, ← hv]; rfl
  case queue =>
    by_cases e : d = c.val
    · rw [e, hstays.queue, hq]
    · rw [State.queue, hstays.cores d e, ← State.queue, hq]
  case rest =>
    rw [hstays.rest, ← hv]
    simp only [State.setCore, State.setLive]

/-! ### SWAP_DONE (R388) -/

theorem exec_swapDone_none {s : State} (hup : s.up) (h : s.sys.swap = none) : exec .swapDone s = .next s := by
  rw [exec_swapDone, execSwapDone, State.awake_up hup, h]

theorem exec_swapDone_some {s : State} {w : Swap} {c : Fin 36} (hup : s.up) (h : s.sys.swap = some w) (hc : w.core = c.val) :
    exec .swapDone s = .next (if s.live (.sequencer c) = .drained then s.swapEnds w c else s) := by
  obtain ⟨core, before, owner⟩ := w
  dsimp only at hc
  subst hc
  rw [exec_swapDone, execSwapDone, State.awake_up hup, h]
  exact congrArg _ (dif_pos c.isLt)

/-- The end of a swap moves no register by which queues of its core are chosen, whatever number a queue has (R78). -/
theorem qCfg_not_swapKeys (c : Fin 36) (q : Nat) : regKey (.sequencer c) .qCfg q ∉ swapKeys c := by
  have hunits : regKey (.sequencer c) .qCfg q ≠ regKey (.recurrent c) .stateSaveCount 0 := by
    simp only [regKey, Pg.index, RegName.off]
    omega
  have hlow : regKey (.sequencer c) .qCfg q ∉ [regKey .fault .swapStat 0, regKey .fault .swapTime 0, regKey .security .secOwner 0] ++
      (eventKeys .fault ++ eventKeys .multicast ++ modeKeys) := regKey_not_lowKeys (index_sequencer c) _ _ (by decide)
  exact fun hm => (List.mem_cons.1 (append_fourth_subset _ _ _ _ _ _ _ hm)).elim hunits hlow

/-- A swap that ends on a page that was not RUNNING before it (R388). -/
theorem State.swapEnds_stopped {s : State} {w : Swap} {c : Fin 36} (hw : (s.liveRec (.sequencer c)).waiting = [])
    (hb : w.before.state ≠ .running) : s.swapEnds w c = (s.swapMoved c).setLive (.sequencer c) (s.liveBack w c) := by
  rw [State.swapEnds_eq s w c hw, if_neg hb]

theorem State.swapped_setLive {s t : State} {c : Fin 36} (h : s.swapped t c) (l : Live) :
    let u := t.setLive (.sequencer c) l
    u.liveRec (.sequencer c) = l ∧ (∀ d, d ≠ .sequencer c → u.liveRec d = s.liveRec d) ∧
      u = { s with regs := u.regs, lives := u.lives, sys := u.sys } := by
  have hlives : t.lives = s.lives := by rw [h.rest]
  refine ⟨State.liveRec_setLive_same .., fun d hd => (State.liveRec_setLive_other _ _ hd).trans (State.liveRec_congr hlives d), ?_⟩
  dsimp only [State.setLive]
  rw [h.rest]

/-- A swap that ends on a page that was RUNNING before it, whose holder goes on (R78, R388). -/
theorem State.swapEnds_running {s : State} {w : Swap} {c : Fin 36} {h : Nat} (hw : (s.liveRec (.sequencer c)).waiting = [])
    (hrun : w.before.state = .running) (hb : (s.core c).heldBells = []) (hh : (s.core c).holder = some h)
    (hk : (s.queue c h).keeps = true) (hr : s.higherReady c h = false)
    (ht : ∀ r, (s.queue c r).state = .waiting → (s.queue c r).inWaitGe = true) :
    let t := s.swapEnds w c
    t.sys.swap = none ∧ t.physOf c = s.spareOf (c.val / 6) ∧ s.raised t .fault 1 ∧
      t.liveRec (.sequencer c) = { w.before with held := false, waiting := [] } ∧ (∀ d r, t.queue d r = s.queue d r) ∧
      t = { s with regs := t.regs, lives := t.lives, sys := t.sys, cores := t.cores } := by
  have hu := State.swapped_swapMoved s c
  rw [State.swapEnds_eq s w c hw, if_pos hrun]
  generalize s.swapMoved c = u at hu
  generalize hv : u.setLive (.sequencer c) (s.liveBack w c) = v
  have hcores : v.cores = s.cores := by rw [← hv, State.setLive_cores, hu.rest]
  have hclass (q : Nat) : v.qClass c q = s.qClass c q := by
    rw [← hv]
    exact State.qClass_congr (fun i => hu.regs _ (qCfg_not_swapKeys c i)) q
  have hq (d r : Nat) : v.queue d r = s.queue d r := State.queue_congr hcores d r
  have hlive : { v.liveRec (.sequencer c) with state := .running, held := false } = { w.before with held := false, waiting := [] } := by
    rw [← hv, State.liveRec_setLive_same, State.liveBack, ← hrun]
  have hres := State.resumes_resume (s := v) (c := c) (h := h) (by rw [State.core_congr hcores]; exact hb)
    (by rw [State.core_congr hcores]; exact hh) (by rw [hq]; exact hk)
    (by rw [State.higherReady_congr hclass (fun r => congrArg Queue.state (hq c r))]; exact hr) (fun r => by rw [hq]; exact ht r)
  rw [hlive] at hres
  generalize v.resume (.sequencer c) = t at hres
  have hrest : t = { u with lives := t.lives, cores := t.cores } := by rw [hres.rest, ← hv]; rfl
  refine ⟨?ended, ?core, ?done, ?live, fun d r => (hres.queue d r).trans (hq d r), ?rest⟩
  case ended => rw [hrest]; exact hu.ended
  case core => rw [hrest]; exact hu.core
  case done => rw [hrest]; exact hu.done
  case live => rw [State.liveRec_congr hres.lives]; exact State.liveRec_setLive_same ..
  case rest => rw [hrest, hu.rest]

/-! ### A retirement that begins (R391) -/

theorem exec_pcRetirement_up {s : State} (hup : s.up) (k : Fin 12) (n : Fin 64) :
    exec (.pcRetirement k n) s = .next (s.pcBegins k n.val).2 := by
  rw [exec_pcRetirement, execPcRetirement, State.awake_up hup]

theorem State.pcBegins_ignored {s : State} {k : Fin 12} {pc : Nat} (h : s.code.stackPresent k = false ∨ s.sys.retiring.isSome = true ∨
    s.sys.retiredPcs.contains (64 * k.val + pc) = true) : (s.pcBegins k pc).2 = s.event .fault 5 := by
  unfold State.pcBegins
  rw [if_pos (by simpa using h), State.ignore_fault]

/-- A retirement that the controller can take up: of a pseudo-channel in service, of a stack that is present, beside no other (R391). -/
structure State.mayRetire (s : State) (k : Fin 12) (pc : Nat) : Prop where
  present : s.code.stackPresent k = true
  alone : s.sys.retiring = none
  served : s.sys.retiredPcs.contains (64 * k.val + pc) = false

theorem State.mayRetire_not_ignored {s : State} {k : Fin 12} {pc : Nat} (h : s.mayRetire k pc) :
    ¬((!s.code.stackPresent k.val) = true ∨ s.sys.retiring.isSome = true ∨ s.sys.retiredPcs.contains (64 * k.val + pc) = true) := by
  rw [h.present, h.alone, h.served]
  decide

theorem State.pcBegins_noSpare {s : State} {k : Fin 12} {pc : Nat} (h : s.mayRetire k pc) (hz : s.fld .fault .pcStat 0 3 0 = 0) :
    (s.pcBegins k pc).2 = s.event .fault 2 := by
  unfold State.pcBegins
  rw [if_neg (State.mayRetire_not_ignored h), if_pos hz]

/-- A stack's write-combining entries of a pseudo-channel are flushed, and the others stay (R249, R391). -/
def State.pcFlushed (s : State) (k : Fin 12) (pc : Nat) : State :=
  ((s.wcOf k).filter (fun e => pcOf (e.line * 128) == pc)).foldl (fun (s : State) e => s.wcFlushed k e)
    (s.setWc k ((s.wcOf k).filter (fun e => !(pcOf (e.line * 128) == pc))))

/-- The retirement of a pseudo-channel is in progress. -/
def State.pcRetiring (s : State) (k : Fin 12) (pc : Nat) : State := { s with sys := { s.sys with retiring := some (k.val, pc) } }

theorem State.pcBegins_begins {s : State} {k : Fin 12} {pc : Nat} (h : s.mayRetire k pc) (hz : s.fld .fault .pcStat 0 3 0 ≠ 0) :
    (s.pcBegins k pc).2 = (((s.pcFlushed k pc).pcRetiring k pc).setFld .fault .pcStat 0 4 4 1).reMode := by
  unfold State.pcBegins
  rw [if_neg (State.mayRetire_not_ignored h), if_neg hz]
  rfl

theorem State.remodes_foldl {α : Type} {f : State → α → State} {ks : List Nat} (hf : ∀ s x, State.remodes s (f s x) ks) (l : List α)
    (s : State) : s.remodes (l.foldl f s) ks := by
  induction l generalizing s with
  | nil => exact State.remodes_refl s ks
  | cons x l ih => exact State.remodes_trans (hf s x) (ih _)

/-- The counters of a stack that a flush of its write-combining entries moves (R249). -/
def flushKeys (k : Fin 12) : List Nat := [regKey (.hbm k) .hbmWcFlushes 0, regKey (.hbm k) .hbmWcRmw 0]

theorem State.remodes_wcFlushed (s : State) (k : Fin 12) (e : WcEntry) : s.remodes (s.wcFlushed k e) (flushKeys k) := by
  have hone := State.remodes_bump s (.hbm k) .hbmWcFlushes 0 1
  unfold State.wcFlushed
  dsimp only
  split
  · exact State.remodes_append hone (State.remodes_bump ..)
  · exact State.remodes_mono hone (List.subset_append_left ..)

theorem State.remodes_pcFlushed (s : State) (k : Fin 12) (pc : Nat) :
    (s.setWc k ((s.wcOf k).filter (fun e => pcOf (e.line * 128) != pc))).remodes (s.pcFlushed k pc) (flushKeys k) :=
  State.remodes_foldl (fun s e => State.remodes_wcFlushed s k e) _ _

theorem State.wcOf_setWc_other (s : State) {k j : Fin 12} (l : List WcEntry) (h : j ≠ k) : (s.setWc k l).wcOf j = s.wcOf j :=
  FMap.get_set_other _ _ _ _ _ _ (fun e => h (Fin.ext e.symm))

theorem append_third_subset {α : Type} (a : α) (l m : List α) : l ++ ([a] ++ m) ⊆ a :: l ++ m := by
  simp only [List.subset_def, List.mem_append, List.mem_cons, List.not_mem_nil, or_false]
  exact fun h => by tauto

/-- What a retirement that begins leaves (R249, R391). -/
theorem State.pcBegins_result {s : State} {k : Fin 12} {pc : Nat} (h : s.mayRetire k pc) (hz : s.fld .fault .pcStat 0 3 0 ≠ 0) :
    let t := (s.pcBegins k pc).2
    t.sys.retiring = some (k.val, pc) ∧ t.fld .fault .pcStat 0 4 4 = 1 ∧ t.wcOf k = (s.wcOf k).filter (fun e => pcOf (e.line * 128) != pc) ∧
      (∀ j, j ≠ k → t.wcOf j = s.wcOf j) ∧ t = { s with regs := t.regs, wc := t.wc, sys := t.sys } ∧
      s.regsBut t (regKey .fault .pcStat 0 :: flushKeys k ++ modeKeys) := by
  dsimp only
  rw [State.pcBegins_begins h hz]
  have hflush := State.remodes_pcFlushed s k pc
  generalize hl : (s.wcOf k).filter (fun e => pcOf (e.line * 128) != pc) = l at hflush
  generalize s.pcFlushed k pc = u at hflush
  have hmode := State.remodes_reMode ((u.pcRetiring k pc).setFld .fault .pcStat 0 4 4 1)
  have hbegin := State.remodes_append (State.remodes_setFld (u.pcRetiring k pc) .fault .pcStat 0 4 4 1) hmode
  have hstat : _ = ((u.pcRetiring k pc).setFld .fault .pcStat 0 4 4 1).rd .fault .pcStat 0 :=
    State.remodes_rd hmode (regKey_not_modeKeys (by simp) (by decide))
  generalize ((u.pcRetiring k pc).setFld .fault .pcStat 0 4 4 1).reMode = t at *
  have hwc (j : Fin 12) : t.wcOf j = (s.setWc k l).wcOf j := by
    unfold State.wcOf
    rw [hbegin.rest, State.pcRetiring, hflush.rest]
  refine ⟨?retiring, ?runs, ?flushed, fun j hj => ?others, ?rest, ?regs⟩
  case retiring => rw [hbegin.rest]; rfl
  case runs => rw [State.fld_congr hstat]; exact State.fld_setFld_same (by decide)
  case flushed => rw [hwc]; exact FMap.get_set_same ..
  case others => rw [hwc, State.wcOf_setWc_other _ _ hj]
  case rest => rw [hbegin.rest, State.pcRetiring, hflush.rest]; rfl
  case regs =>
    have hregs : (s.setWc k l).regsBut t (flushKeys k ++ ([regKey .fault .pcStat 0] ++ modeKeys)) :=
      State.regsBut_trans (State.regsBut_mono hflush.regs (List.subset_append_left ..))
        (State.regsBut_mono (s := u.pcRetiring k pc) hbegin.regs (List.subset_append_right ..))
    exact State.regsBut_mono (s := s.setWc k l) hregs (append_third_subset ..)

/-! ### A retirement that ends (R391) -/

theorem exec_pcRetired_none {s : State} (hup : s.up) (h : s.sys.retiring = none) : exec .pcRetired s = .next s := by
  rw [exec_pcRetired, execPcRetired, State.awake_up hup, h]

/-- The granules of a pseudo-channel are switched to a spare image, and no retirement is in progress (R391). -/
def State.pcSwitched (s : State) (k : Fin 12) (pc : Nat) : State :=
  { s with sys := { s.sys with retiring := none, retiredPcs := s.sys.retiredPcs.add (64 * k.val + pc) } }

/-- The stack counts one retired pseudo-channel more (R391). -/
def State.pcCounted (s : State) (k : Fin 12) : State := s.setFld (.hbm k) .hbmStat 0 15 9 (s.fld (.hbm k) .hbmStat 0 15 9 + 1)

/-- The retirement is over, and has used one spare image (R398). -/
def State.pcShown (s : State) : State :=
  let t := (s.setFld .fault .pcStat 0 4 4 0).setFld .fault .pcStat 0 3 0 (s.fld .fault .pcStat 0 3 0 - 1)
  t.setFld .fault .pcStat 0 15 8 (t.fld .fault .pcStat 0 15 8 + 1)

theorem exec_pcRetired_some {s : State} {k : Fin 12} {pc : Nat} (hup : s.up) (h : s.sys.retiring = some (k.val, pc)) :
    exec .pcRetired s = .next (((s.pcSwitched k pc).pcCounted k).event (.hbm k) 4).pcShown.fieldWrite.reMode := by
  have hk : Fin.ofNat 12 k.val = k := Fin.ext (Nat.mod_eq_of_lt k.isLt)
  rw [exec_pcRetired, execPcRetired, State.awake_up hup, h]
  dsimp only
  rw [hk]
  rfl

theorem State.remodes_pcShown (s : State) : s.remodes s.pcShown [regKey .fault .pcStat 0] :=
  State.remodes_trans (State.remodes_trans (State.remodes_setFld ..) (State.remodes_setFld ..)) (State.remodes_setFld ..)

/-- The fields of PC_STAT after a retirement (R398). -/
theorem State.fld_pcShown (s : State) : s.pcShown.fld .fault .pcStat 0 4 4 = 0 ∧
    s.pcShown.fld .fault .pcStat 0 3 0 = s.fld .fault .pcStat 0 3 0 - 1 ∧
    s.pcShown.fld .fault .pcStat 0 15 8 = (s.fld .fault .pcStat 0 15 8 + 1) % 256 := by
  have hlt : s.fld .fault .pcStat 0 3 0 < 16 := bits_lt ..
  unfold State.pcShown
  dsimp only
  refine ⟨?_, ?_, ?_⟩
  · rw [State.fld_setFld_other (by decide) (by decide), State.fld_setFld_other (by decide) (by decide)]
    exact State.fld_setFld_same (by decide)
  · rw [State.fld_setFld_other (by decide) (by decide), State.fld_setFld_same (by decide)]
    exact Nat.mod_eq_of_lt (by omega)
  · exact (State.fld_setFld_same (by decide)).trans (congrArg (fun x => (x + 1) % 256)
      ((State.fld_setFld_other (by decide) (by decide)).trans (State.fld_setFld_other (by decide) (by decide))))

/-- The registers that the end of a retirement writes beside its stack's page. -/
def pcShownKeys : List Nat := [regKey .fault .pcStat 0] ++ (regKey .security .secOwner 0 :: modeKeys)

theorem regKey_hbm_not_pcShownKeys (k : Fin 12) {r : RegName} (hr : r.off 0 < 4096) : regKey (.hbm k) r 0 ∉ pcShownKeys := by
  simp only [pcShownKeys, List.cons_append, List.nil_append, List.mem_cons, not_or]
  exact ⟨regKey_ne_of_page (Pg.index_ne (by simp)) hr (by decide), regKey_ne_of_page (Pg.index_ne (by simp)) hr (by decide),
    regKey_not_modeKeys (by simp) hr⟩

theorem append_pair_subset {α : Type} (a b c : α) (e m : List α) : [a] ++ (e ++ ([b] ++ (c :: m))) ⊆ e ++ [a, b, c] ++ m := by
  simp only [List.subset_def, List.mem_append, List.mem_cons, List.not_mem_nil, or_false]
  exact fun h => by tauto

/-- What the end of a retirement leaves (R391). -/
theorem State.pcRetired_result (s : State) (k : Fin 12) (pc : Nat) :
    let t := (((s.pcSwitched k pc).pcCounted k).event (.hbm k) 4).pcShown.fieldWrite.reMode
    t.sys.retiring = none ∧ t.sys.retiredPcs.contains (64 * k.val + pc) = true ∧ s.raised t (.hbm k) 4 ∧
      t.fld (.hbm k) .hbmStat 0 15 9 = (s.fld (.hbm k) .hbmStat 0 15 9 + 1) % 128 ∧ t.fld .fault .pcStat 0 4 4 = 0 ∧
      t.fld .fault .pcStat 0 3 0 = s.fld .fault .pcStat 0 3 0 - 1 ∧
      t.fld .fault .pcStat 0 15 8 = (s.fld .fault .pcStat 0 15 8 + 1) % 256 ∧ t = { s with regs := t.regs, sys := t.sys } ∧
      s.regsBut t (eventKeys (.hbm k) ++ [regKey (.hbm k) .hbmStat 0, regKey .fault .pcStat 0, regKey .security .secOwner 0] ++ modeKeys) := by
  dsimp only
  have hva : (s.pcSwitched k pc).remodes ((s.pcSwitched k pc).pcCounted k) [regKey (.hbm k) .hbmStat 0] := State.remodes_setFld ..
  have hcount : ((s.pcSwitched k pc).pcCounted k).fld (.hbm k) .hbmStat 0 15 9 = (s.fld (.hbm k) .hbmStat 0 15 9 + 1) % 128 :=
    State.fld_setFld_same (by decide)
  generalize (s.pcSwitched k pc).pcCounted k = a at *
  have hab := State.remodes_event a (.hbm k) 4
  have hend := State.remodes_fieldWrite_reMode (a.event (.hbm k) 4).pcShown
  have hbt := State.remodes_append (State.remodes_pcShown (a.event (.hbm k) 4)) hend
  have hvt := State.remodes_mono (State.remodes_append hva (State.remodes_append hab hbt)) (append_pair_subset ..)
  obtain ⟨hruns, hleft, hretired⟩ := State.fld_pcShown (a.event (.hbm k) 4)
  have hpc (hi lo : Nat) : (a.event (.hbm k) 4).pcShown.fieldWrite.reMode.fld .fault .pcStat 0 hi lo =
      (a.event (.hbm k) 4).pcShown.fld .fault .pcStat 0 hi lo := State.fld_congr (State.remodes_rd hend (by decide)) hi lo
  have hpc0 (hi lo : Nat) : (a.event (.hbm k) 4).fld .fault .pcStat 0 hi lo = s.fld .fault .pcStat 0 hi lo :=
    State.fld_congr ((State.rd_event_other (regKey_not_eventKeys_of_page (by simp) (by decide))).trans
      (State.remodes_rd hva (fun e => regKey_ne_of_page (Pg.index_ne (by simp)) (by decide) (by decide) (List.mem_singleton.1 e)))) hi lo
  generalize (a.event (.hbm k) 4).pcShown.fieldWrite.reMode = t at *
  refine ⟨?ended, ?switched, ?raised, ?count, ?runs, ?left, ?retired, ?rest, hvt.regs⟩
  case ended => rw [hvt.rest]; rfl
  case switched => rw [hvt.rest]; exact KeySet.contains_add _ _
  case raised =>
    refine State.raised_between (s := s.pcSwitched k pc) hva hbt (fun x hx e => ?_)
      (eventKeys_not_of_regKey (fun r => regKey_hbm_not_pcShownKeys k))
    exact regKey_not_eventKeys (p := .hbm k) (r := .hbmStat) (i := 0) (by decide) (List.mem_singleton.1 e ▸ hx)
  case count =>
    rw [State.fld_congr ((State.remodes_rd hbt (regKey_hbm_not_pcShownKeys k (by decide))).trans
      (State.rd_event_other (regKey_not_eventKeys (by decide))))]
    exact hcount
  case runs => rw [hpc, hruns]
  case left => rw [hpc, hleft, hpc0]
  case retired => rw [hpc, hretired, hpc0]
  case rest => rw [hvt.rest]; rfl

/-! ### The statement about swaps and retirements -/

/-- Settles O52: a swap and a retirement are a change of the machine's own tables and of a handshake, followed by writes of registers
whose keys are known; where the core goes on, its holder is settled as it was. -/
theorem swapResults : Obligations.SwapResults := by
  unfold Obligations.SwapResults
  refine ⟨fun s c p hup hp => ?swap, fun s k n hup => ?retirement⟩
  case swap =>
    subst hp
    refine ⟨fun o hl hw hf hc hs => ⟨_, exec_spareCoreSwap_up hup c o, State.swapBegins_result hl hw hf hc hs o⟩,
      fun o h => ⟨_, exec_spareCoreSwap_up hup c o, ?ignored⟩, fun o hl hw hf => ⟨_, exec_spareCoreSwap_up hup c o, ?noSpare⟩,
      exec_swapDone_none hup, fun w hw hc hl => ?waits, fun w hw hc hl hwait hb => ?stopped,
      fun w h hw hc hl hwait hrun hbells hh hk hr ht => ?running⟩
    case ignored => rw [State.swapBegins_ignored h]; exact State.event_result s .fault 5
    case noSpare => rw [State.swapBegins_noSpare hl hw hf]; exact State.event_result s .fault 2
    case waits => rw [exec_swapDone_some hup hw hc, if_neg hl]
    case stopped =>
      have hm := State.swapped_swapMoved s c
      obtain ⟨hlive, hothers, hrest⟩ := State.swapped_setLive hm (s.liveBack w c)
      refine ⟨_, (exec_swapDone_some hup hw hc).trans (by rw [if_pos hl, State.swapEnds_stopped hwait hb]), ?_⟩
      exact ⟨hm.ended, hm.core, hm.spare, hm.stat, hm.time, hm.done, hlive, hothers, hrest, fun hs _ => hm.units hs, hm.regs⟩
    case running =>
      exact ⟨_, (exec_swapDone_some hup hw hc).trans (by rw [if_pos hl]), State.swapEnds_running hwait hrun hbells hh hk hr ht⟩
  case retirement =>
    refine ⟨fun hp ha hs => ⟨fun hz => ⟨_, exec_pcRetirement_up hup k n, State.pcBegins_result ⟨hp, ha, hs⟩ hz⟩,
        fun hz => ⟨_, exec_pcRetirement_up hup k n, ?noSpare⟩⟩,
      fun h => ⟨_, exec_pcRetirement_up hup k n, ?ignored⟩, exec_pcRetired_none hup,
      fun h => ⟨_, exec_pcRetired_some hup h, State.pcRetired_result s k n⟩⟩
    case noSpare => rw [State.pcBegins_noSpare ⟨hp, ha, hs⟩ hz]; exact State.event_result s .fault 2
    case ignored => rw [State.pcBegins_ignored h]; exact State.event_result s .fault 5

end Sys2Proof.Machine

/-! Proofs about scenes and streams: how a message that a queue pair takes is applied, and the FORK that finds no slots (R192, R194, R197,
R309, R315). -/

namespace Sys2Proof.Machine

/-! ### A message is taken and applied (R309, R315) -/

theorem firstFailure_append_pass {l : List (Bool × Status)} (h : firstFailure l = none) (st : Status) :
    firstFailure (l ++ [(false, st)]) = none := by
  induction l with
  | nil => rfl
  | cons x l ih =>
    obtain ⟨bad, code⟩ := x
    cases bad with
    | true => cases h
    | false => exact ih h

theorem State.heard_takes {s : State} {qp : Nat} {m : Msg} (h : s.takes qp m) (n : Nat) (i : Instr) (f : State → State) :
    s.heard qp n i f = f s := by
  obtain ⟨q, hq, -⟩ := h.pair
  have hheld : s.est.held.any (·.1 == qp) = false := by simpa using h.first
  simp only [State.heard, hq, h.cached, hheld, Bool.not_true, Bool.or_false, Bool.and_false, Bool.false_eq_true, if_false]

theorem State.packetMoves_message (s : State) (qp : Nat) (m : Msg) :
    s.packetMoves ((s.received qp (32 + m.body.length)).marked qp m.ce) qp :=
  State.packetMoves_trans (State.packetMoves_received s qp _) (State.packetMoves_marked _ qp m.ce)

/-- What the acceptance of a message changes: registers, Estuary, what leaves the device, and the table of requests. -/
theorem State.accepts_frame (s : State) (qp : Nat) (m : Msg) :
    s.accepts qp m = { s with
      regs := (s.accepts qp m).regs, est := (s.accepts qp m).est, out := (s.accepts qp m).out,
      gulk := { s.gulk with reqs := FMap.set none s.gulk.reqs s.gulk.accepted (some (msgReq m qp s.now)),
                            accepted := s.gulk.accepted + 1 } } := by
  have h := (State.packetMoves_message s qp m).rest
  unfold State.accepts
  dsimp only
  generalize (s.received qp (32 + m.body.length)).marked qp m.ce = u at h
  rw [h]

section
variable (s : State) (qp : Nat) (m : Msg)

@[simp] theorem State.accepts_now : (s.accepts qp m).now = s.now := by rw [State.accepts_frame]

@[simp] theorem State.accepts_records : (s.accepts qp m).records = s.records := by rw [State.accepts_frame]

@[simp] theorem State.accepts_streams : (s.accepts qp m).gulk.streams = s.gulk.streams := by rw [State.accepts_frame]

@[simp] theorem State.accepts_scenes : (s.accepts qp m).gulk.scenes = s.gulk.scenes := by rw [State.accepts_frame]

@[simp] theorem State.accepts_reqs : (s.accepts qp m).gulk.reqs =
    FMap.set none s.gulk.reqs s.gulk.accepted (some (msgReq m qp s.now)) := by rw [State.accepts_frame]

theorem State.accepts_stream (i : Nat) : (s.accepts qp m).stream i = s.stream i := State.stream_congr (State.accepts_streams s qp m) i

theorem State.accepts_scene (i : Nat) : (s.accepts qp m).scene i = s.scene i := by rw [State.scene, State.accepts_scenes]; rfl

end

theorem State.sameDecoders_accepts (s : State) (qp : Nat) (m : Msg) : s.sameDecoders (s.accepts qp m) := fun p n hn => by
  have hk : regKey (.cxl p) .cxlDec n ∉ packetKeys := by
    intro hm
    obtain ⟨r, hr, he⟩ := List.mem_map.1 hm
    exact noDecoder_page (p := .estuary) (r := r) (i := 0) (by decide) (by clear he; revert r; decide) p n hn he
  exact (State.packetMoves_message s qp m).regs _ hk

/-- A message that passes its row's checks is applied to the state that has accepted it, and Gulkutik serves what it can. -/
theorem State.message_takes {s : State} {qp : Nat} {m : Msg} {mine : Bool} {checks : State → Req → List (Bool × Status)}
    (h : s.takes qp m) (hm : mine = true) (hc : firstFailure (checks (s.accepts qp m) (msgReq m qp s.now)) = none)
    (act : Nat → Req → State → State) :
    s.message qp m mine checks act = (act s.gulk.accepted (msgReq m qp s.now) (s.accepts qp m)).serve := by
  obtain ⟨q, hq, hserv⟩ := h.pair
  have hu := (State.packetMoves_message s qp m).rest
  have hnow : ((s.received qp (32 + m.body.length)).marked qp m.ce).now = s.now := by rw [hu]
  have hacc : ((s.received qp (32 + m.body.length)).marked qp m.ce).gulk.accepted = s.gulk.accepted := by rw [hu]
  have hlate : decide (m.deadline ≠ 0 ∧ m.deadline.toNat < s.now.toNat) = false :=
    decide_eq_false fun e => h.onTime.elim e.1 (Nat.not_le.2 e.2)
  have hpass := firstFailure_append_pass hc .eDeadline
  unfold State.accepts at hpass ⊢
  dsimp only at hpass ⊢
  rw [hnow, hacc] at hpass ⊢
  unfold State.message
  simp only [hq, hserv, hm, h.opened, h.live, h.header, hnow, hacc, Bool.not_true, Bool.false_eq_true, and_false, or_self,
    if_false, Nat.not_lt.2 h.size, ne_eq, not_true_eq_false, Nat.not_le.2 h.room.1, Nat.not_le.2 h.room.2]
  simp only [ne_eq] at hlate
  rw [hlate, hpass]

/-- A request that has just been taken has no reason to stop. -/
theorem State.takes_goes {s : State} {qp : Nat} {m : Msg} (h : s.takes qp m) : (msgReq m qp s.now).stop s.now allStatus = none := by
  have hlate : ¬(m.deadline ≠ 0 ∧ m.deadline.toNat < s.now.toNat) := fun e => h.onTime.elim e.1 (Nat.not_le.2 e.2)
  have happ : (msgReq m qp s.now).applies s.now = [] := by
    rw [Req.applies]
    exact if_neg hlate
  rw [Req.stop, happ]
  rfl

/-! ### Gulkutik serves the one request there is (R309) -/

theorem State.serveFirst_sole {s t : State} {k : Nat} {r : Req} {l : List (Nat × Option Req)}
    (hl : ∀ y ∈ l, y.2 = none ∨ y = (k, some r)) (hm : (k, some r) ∈ l) (hs : s.serveReq k r = some t) :
    s.serveFirst l = some t := by
  induction l with
  | nil => cases hm
  | cons y l ih =>
    rcases hl y List.mem_cons_self with h0 | rfl
    · obtain ⟨j, o⟩ := y
      cases h0
      rw [State.serveFirst]
      exact ih (fun z hz => hl z (List.mem_cons_of_mem _ hz)) ((List.mem_cons.1 hm).resolve_left (by simp))
    · rw [State.serveFirst, hs]

theorem State.serveSome_noRequests {s : State} (hr : ∀ y ∈ s.gulk.reqs, y.2 = none) (fuel : Nat) : s.serveSome fuel = s := by
  cases fuel with
  | zero => rfl
  | succ n => rw [State.serveSome, State.serveFirst_none (fun y hy r e => by rw [hr y hy] at e; cases e)]

theorem FMap.mem_of_get {α : Type} {m : FMap (Option α)} {i : Nat} {x : α} (h : FMap.get none m i = some x) : (i, some x) ∈ m := by
  induction m with
  | nil => cases h
  | cons y m ih =>
    obtain ⟨k, v⟩ := y
    rw [FMap.get, FMap.find?] at h
    split at h
    · next hk =>
      cases hk
      cases h
      exact List.mem_cons_self
    · exact List.mem_cons_of_mem _ (ih h)

/-- Where the one request there is can be served, and leaves none, Gulkutik serves it and nothing else. -/
theorem State.serve_sole {s t : State} {k : Nat} {r : Req} (hd : ∀ (p : Fin 2) (n : Nat), n < 8 → s.decState p n ≠ 3)
    (hl : ∀ y ∈ s.gulk.reqs, y.2 = none ∨ y = (k, some r)) (hr : s.req k = some r) (hs : s.serveReq k r = some t)
    (ht : ∀ y ∈ t.gulk.reqs, y.2 = none) : s.serve = t := by
  rw [State.serve, State.drainDecoders_still hd, State.serveSome, State.serveFirst_sole hl (FMap.mem_of_get hr) hs]
  exact State.serveSome_noRequests ht _

/-! ### A request that is refused (R319) -/

section
variable (s : State) (qp : Nat) (id : Word) (st : Status) (u w : Nat) (l : List Nat) (k : Option Nat) (x : Wire)

theorem State.recorded_msgError : s.recorded (s.msgError qp id st u w l) .estuary := by
  rw [State.msgError, State.report, if_neg Nat.one_ne_zero]
  exact State.recorded_commitRecord s (show Pg.ofIndex Pg.estuary.index = some .estuary by decide)

@[simp] theorem State.msgError_gulk : (s.msgError qp id st u w l).gulk = s.gulk := by
  rw [(State.recorded_msgError s qp id st u w l).rest]

@[simp] theorem State.msgError_records : (s.msgError qp id st u w l).records = s.records := by
  rw [(State.recorded_msgError s qp id st u w l).rest]

@[simp] theorem State.msgError_now : (s.msgError qp id st u w l).now = s.now := by
  rw [(State.recorded_msgError s qp id st u w l).rest]

@[simp] theorem State.send_gulk : (s.send qp k x).gulk = s.gulk := by
  unfold State.send
  split
  · rfl
  · split
    · rfl
    · simp [State.emit, State.setQp]

@[simp] theorem State.send_records : (s.send qp k x).records = s.records := by
  unfold State.send
  split
  · rfl
  · split
    · rfl
    · simp [State.emit, State.setQp]

end

theorem State.sends_kept {α : Type} (f : α → Wire) (l : List α) (s : State) (qp : Nat) (k : Option Nat) :
    (l.foldl (fun t y => t.send qp k (f y)) s).gulk = s.gulk ∧ (l.foldl (fun t y => t.send qp k (f y)) s).records = s.records := by
  induction l generalizing s with
  | nil => exact ⟨rfl, rfl⟩
  | cons y l ih => exact ⟨(ih _).1.trans (State.send_gulk ..), (ih _).2.trans (State.send_records ..)⟩

/-- The completion record of a request (R320). -/
def Req.completion (r : Req) (now : Word) (st : Status) (wm : Nat) : Completion :=
  { id := r.id.toNat, status := st.code, opcode := r.op, extraKind := r.extra.1, flags := if r.deadline ≠ 0 then 2 else 0,
    watermark := wm, doneTime := now, service := units64 (now - r.accepted).toNat, extra := units64 r.extra.2 }

/-- A response leaves one record, and takes its request out of the unanswered ones. -/
theorem State.respond_result (s : State) (k : Nat) (r : Req) (st : Status) (u w : Nat) (body : List Byte)
    (writes : List (Nat × Nat × List Byte)) :
    (s.respond k r st u w body writes).records = s.records ++ [r.completion s.now st w] ∧
      (s.respond k r st u w body writes).gulk = { s.gulk with reqs := FMap.set none s.gulk.reqs k none } := by
  have hfirst (e : State) (he : e = if st ≠ .ok then s.msgError r.qp r.id st u w (furtherCodes (r.applies s.now) st) else s) :
      e.records = s.records ∧ e.gulk = s.gulk ∧ e.now = s.now := by
    subst he
    split <;> simp
  unfold State.respond
  dsimp only
  generalize he : (if st ≠ .ok then s.msgError r.qp r.id st u w (furtherCodes (r.applies s.now) st) else s) = e
  obtain ⟨hrec, hgulk, hnow⟩ := hfirst e he.symm
  rw [← hrec, ← hgulk, ← hnow]
  split
  · exact ⟨rfl, rfl⟩
  · split
    · exact ⟨by rw [State.msgError_records]; rfl, by rw [State.msgError_gulk]⟩
    · obtain ⟨hg, hr⟩ := State.sends_kept (fun y : Nat × Nat × List Byte => .write y.1 y.2.1 y.2.2) writes _ r.qp (some k)
      exact ⟨by rw [State.send_records, hr]; rfl, by rw [State.send_gulk, hg]⟩

/-- A request other than a PLAN that is refused is answered with the status, and is no longer among the unanswered ones. -/
theorem State.refuse_result {s : State} {k : Nat} {r : Req} (hr : s.req k = some r) (hp : r.op ≠ 3) (st : Status) :
    (s.refuse k st).records = s.records ++ [r.completion s.now st 0] ∧
      (s.refuse k st).gulk.reqs = FMap.set none s.gulk.reqs k none := by
  have hreq : { s with freeIx := s.freeIx + 1 }.req k = some r := hr
  obtain ⟨hrec, hgulk⟩ :=
    State.respond_result ({ s with freeIx := s.freeIx + 1 }.dropWork k) k r st 0 0 (failBody r.op s.freeIx) []
  simp only [State.refuse, hr, State.answer, hreq, hp, ne_eq, not_false_eq_true, if_true, hrec, hgulk]
  exact ⟨rfl, rfl⟩

/-! ### A FORK that finds no slots (R192, R197) -/

theorem State.fork_noSlots {s : State} {i n : Nat} {st : Stream} {sc : Scene} (hs : s.stream i = some st)
    (hc : s.scene st.scene = some sc) (hn : 16384 < s.openStreams.length + n) (key : Option Nat) (first : Nat) :
    s.fork i n key first = (none, s.event .rollout 0) := by
  simp only [State.fork, hs, hc, if_pos hn]

theorem State.forkNow_noSlots {s : State} {i : Nat} {r : Req} {st : Stream} {sc : Scene} (hs : s.stream i = some st)
    (hc : s.scene st.scene = some sc) (hn : 16384 < s.openStreams.length + field r.body 0 2) (k : Nat) :
    s.forkNow k i r = (s.event .rollout 0).refuse k .eState := by
  simp only [State.forkNow, State.fork_noSlots hs hc hn]

/-- A FORK at the front of an idle stream is applied (R194). -/
theorem State.serveReq_fork {s : State} {k : Nat} {r : Req} {st : Stream} (ho : r.op = 5) (hstop : r.stop s.now allStatus = none)
    (hs : s.stream (r.stream % 16384) = some st) (hw : st.work.head? = some k) (hi : st.phase = .idle) :
    s.serveReq k r = some (s.forkNow k (r.stream % 16384) r) := by
  simp only [State.serveReq, ho, hstop, hs, Option.map_some, hw, hi, Option.getD_some, beq_self_eq_true, and_self, if_true]

/-- A FORK that is the one request there is, at the front of an idle stream, and finds fewer free slots than children, is refused. -/
theorem State.serve_fork_noSlots {s : State} {k : Nat} {r : Req} {st : Stream} {sc : Scene}
    (hd : ∀ (p : Fin 2) (n : Nat), n < 8 → s.decState p n ≠ 3) (hl : ∀ y ∈ s.gulk.reqs, y.2 = none ∨ y = (k, some r))
    (hr : s.req k = some r) (ho : r.op = 5) (hstop : r.stop s.now allStatus = none) (hs : s.stream (r.stream % 16384) = some st)
    (hw : st.work.head? = some k) (hi : st.phase = .idle) (hc : s.scene st.scene = some sc)
    (hn : 16384 < s.openStreams.length + field r.body 0 2) :
    s.serve = (s.event .rollout 0).refuse k .eState := by
  have hreq : (s.event .rollout 0).req k = some r := by rw [State.req, State.event_gulk]; exact hr
  obtain ⟨-, hleft⟩ := State.refuse_result hreq (by rw [ho]; decide) .eState
  refine State.serve_sole hd hl hr ((State.serveReq_fork ho hstop hs hw hi).trans (congrArg some (State.forkNow_noSlots hs hc hn k)))
    fun y hy => ?_
  rw [hleft, State.event_gulk] at hy
  obtain ⟨hmem, hne⟩ := List.mem_filter.1 hy
  exact (hl y hmem).resolve_right fun e => by simp [e] at hne

@[simp] theorem State.stream_setStream_same (s : State) (i : Nat) (x : Option Stream) : (s.setStream i x).stream i = x :=
  FMap.get_set_same ..

/-- A stream with one more request behind those that act on it (R194). -/
def Stream.queued (st : Stream) (k : Nat) : Stream := { st with work := st.work ++ [k] }

theorem State.enqueue_of_stream {s : State} {i : Nat} {st : Stream} (hs : s.stream i = some st) (k : Nat) :
    s.enqueue k i = s.setStream i (some (st.queued k)) := by
  rw [State.enqueue, hs]
  rfl

/-- A FORK that passes its checks joins the requests of its stream (R194). -/
theorem exec_fork_takes {s : State} {qp : BitVec 18} {m : Msg} {st : Stream} (h : s.takes qp.toNat m) (ho : m.opcode = 0x05)
    (hc : firstFailure ((s.accepts qp.toNat m).forkChecks (msgReq m qp.toNat s.now)) = none)
    (hs : s.stream (m.stream.toNat % 16384) = some st) :
    exec (.fork qp m) s = .next ((s.accepts qp.toNat m).setStream (m.stream.toNat % 16384)
      (some (st.queued s.gulk.accepted))).serve := by
  rw [exec_fork, execFork, State.awake_up h.up, State.heard_takes h, State.message_takes h (by rw [ho]; rfl) hc,
    ← State.enqueue_of_stream ((State.accepts_stream s _ m _).trans hs)]
  rfl

/-- A FORK of an idle stream that finds fewer free slots than children, once it stands among the requests of its stream, is answered with
E_STATE. -/
theorem exec_fork_noSlots {s : State} {qp : BitVec 18} {m : Msg} {st : Stream} {sc : Scene} (h : s.takes qp.toNat m)
    (hidle : s.gulkIdle) (ho : m.opcode = 0x05) (hc : firstFailure ((s.accepts qp.toNat m).forkChecks (msgReq m qp.toNat s.now)) = none)
    (hs : s.stream (m.stream.toNat % 16384) = some st) (hsc : s.scene st.scene = some sc) (hph : st.phase = .idle) (hw : st.work = [])
    (hn : 16384 < (s.setStream (m.stream.toNat % 16384) (some (st.queued s.gulk.accepted))).openStreams.length +
      field m.body 0 2) :
    ∃ t, exec (.fork qp m) s = .next t ∧ t.records = s.records ++ [(msgReq m qp.toNat s.now).completion s.now .eState 0] := by
  have hx := exec_fork_takes h ho hc hs
  generalize hv : (s.accepts qp.toNat m).setStream (m.stream.toNat % 16384) (some (st.queued s.gulk.accepted)) = v
    at hx
  have hstreams : v.gulk.streams =
      (s.setStream (m.stream.toNat % 16384) (some (st.queued s.gulk.accepted))).gulk.streams := by
    rw [← hv, State.setStream, State.accepts_streams]
    rfl
  have hreqs : v.gulk.reqs = FMap.put s.gulk.reqs s.gulk.accepted (some (msgReq m qp.toNat s.now)) := by
    rw [← hv]
    exact State.accepts_reqs s qp.toNat m
  have hnow : v.now = s.now := by simp [← hv]
  have hop : (msgReq m qp.toNat s.now).op = 5 := by rw [msgReq, ho]; rfl
  have hr : v.req s.gulk.accepted = some (msgReq m qp.toNat s.now) := by
    rw [State.req, hreqs, FMap.get, FMap.find_put, if_pos rfl]
    rfl
  have hserve : v.serve = (v.event .rollout 0).refuse s.gulk.accepted .eState := by
    refine State.serve_fork_noSlots (st := st.queued s.gulk.accepted) (sc := sc) ?drains ?sole hr hop
      (by rw [hnow]; exact State.takes_goes h) ?stream (by rw [Stream.queued, hw]; rfl) hph ?scene
      (by rw [State.openStreams, hstreams]; exact hn)
    case drains =>
      intro p n hlt
      have hsame := State.sameDecoders_trans (State.sameDecoders_accepts s qp.toNat m)
        (State.sameDecoders_of_regs (t := v) (by rw [← hv]; rfl))
      rw [State.decState_same hsame hlt]
      exact hidle.drains p n hlt
    case sole =>
      intro y hy
      rw [hreqs] at hy
      exact (FMap.mem_put _ _ _ y hy).symm.imp_left (hidle.reqs y)
    case stream =>
      exact (State.stream_congr hstreams _).trans (State.stream_setStream_same ..)
    case scene =>
      rw [← hv]
      exact (State.accepts_scene s qp.toNat m _).trans hsc
  obtain ⟨hanswer, -⟩ := State.refuse_result (s := v.event .rollout 0) (k := s.gulk.accepted)
    (by rw [State.req, State.event_gulk]; exact hr) (by rw [hop]; decide) .eState
  refine ⟨_, hx, ?_⟩
  rw [hserve, hanswer, State.event_records, State.event_now, hnow, ← hv, State.setStream_records, State.accepts_records]

/-! ### A table of streams that lists slots out of order -/

/-- The one scene and the streams of `disordered`. -/
def loneScene : Scene :=
  { gen := 0, model := 0, version := 0, cls := 0, srMode := 0, frameFmt := 0, seed := 0, interval := 0, threshold := 0, root := 0,
    intake := 0, intakeBytes := 0, rkey := 0 }
def bareStream : Stream := { gen := 0, scene := 0, seed := 0 }

/-- A table that lists slot 1 before slot 0, and n + 1 times: a write at slot 0 goes before them and leaves the entry behind them. -/
def outOfOrder (n : Nat) : FMap (Option Stream) := (1, some bareStream) :: (List.replicate n (1, some bareStream) ++ [(0, some bareStream)])

theorem outOfOrder_zero (n : Nat) : FMap.get none (outOfOrder n) 0 = some bareStream := by
  have h : FMap.find? (List.replicate n (1, some bareStream)) 0 = none := by
    induction n with
    | zero => rfl
    | succ n ih => exact ih
  rw [outOfOrder, FMap.get, FMap.find?, if_neg (by decide), FMap.find?_append, h]
  rfl

theorem outOfOrder_entry {n : Nat} {x : Nat × Option Stream} (h : x ∈ outOfOrder n) : x.2 = some bareStream := by
  simp only [outOfOrder, List.mem_cons, List.mem_append, List.mem_replicate, List.not_mem_nil, or_false] at h
  rcases h with rfl | ⟨-, rfl⟩ | rfl <;> rfl

theorem outOfOrder_open (n : Nat) : ((outOfOrder n).filter (·.2.isSome)).length = n + 2 := by
  rw [List.filter_eq_self.2 fun x hx => by rw [outOfOrder_entry hx]; rfl]
  simp [outOfOrder]

/-- A write at slot 0 makes the table one entry longer. -/
theorem outOfOrder_set_open (n : Nat) (y : Stream) :
    ((FMap.set none (outOfOrder n) 0 (some y)).filter (·.2.isSome)).length = n + 3 :=
  congrArg (· + 1) (outOfOrder_open n)

/-- A module with a service queue pair, 5, whose context is cached, one scene, and 12,288 open streams out of order. -/
def disordered : State :=
  { State.reset with
    est := { State.reset.est with qps := [(5, some { role := 0 })], cache := [(5, [5])] }
    gulk := { scenes := [(0, some loneScene)], streams := outOfOrder 12286 } }

/-- A FORK of stream 0 into 4,096 children, as many as a FORK may ask for. -/
def forkAll : Msg :=
  { version := 1, opcode := 0x05, bodyLen := 24, reserved := 0, requestId := 0, scene := 0, stream := 0, deadline := 0,
    body := leBytes 4096 8 ++ leBytes 0 12 ++ leBytes 16384 4 }

theorem disordered_takes : disordered.takes 5 forkAll where
  up := ⟨rfl, rfl⟩
  pair := ⟨{ role := 0 }, rfl, rfl⟩
  cached := by decide
  first := fun x hx => by cases hx
  opened := rfl
  size := by decide
  live := by decide
  room := by decide
  header := by decide
  onTime := .inl rfl

theorem disordered_idle : disordered.gulkIdle where
  reqs := fun x hx => by cases hx
  fresh := fun x hx y hy => by
    rw [outOfOrder_entry hx] at hy
    cases hy
    decide
  drains := by decide

theorem disordered_stream : disordered.stream 0 = some bareStream := outOfOrder_zero 12286

theorem disordered_checks : firstFailure ((disordered.accepts 5 forkAll).forkChecks (msgReq forkAll 5 disordered.now)) = none := by
  have hs : (disordered.accepts 5 forkAll).stream 0 = some bareStream := (State.accepts_stream ..).trans disordered_stream
  have hc : (disordered.accepts 5 forkAll).scene 0 = some loneScene := State.accepts_scene ..
  generalize disordered.accepts 5 forkAll = u at hs hc
  have hscene : u.reqScene (msgReq forkAll 5 disordered.now) = some loneScene := congrArg _ (congrArg (Option.bind · _) hc)
  have hstream : u.reqStream (msgReq forkAll 5 disordered.now) = some bareStream := congrArg _ (congrArg (Option.bind · _) hs)
  simp only [State.forkChecks, State.handlesOk, State.streamClosed, hscene, hstream, hc, bareStream]
  decide

theorem disordered_room : (disordered.accepts 5 forkAll).forkRoom bareStream 4096 = true := by
  have hopen : (disordered.accepts 5 forkAll).openStreams.length = 12288 := by
    rw [State.openStreams, State.accepts_streams, List.length_map]
    exact outOfOrder_open 12286
  simp [State.forkRoom, hopen, bareStream, State.roomFor, ceilDiv, poolUnit]

theorem disordered_noSlots : 16384 < (disordered.setStream (forkAll.stream.toNat % 16384)
    (some (bareStream.queued disordered.gulk.accepted))).openStreams.length + field forkAll.body 0 2 := by
  have hslot : forkAll.stream.toNat % 16384 = 0 := rfl
  have hopen : (disordered.setStream 0 (some (bareStream.queued disordered.gulk.accepted))).openStreams.length = 12289 :=
    (List.length_map _).trans (outOfOrder_set_open 12286 _)
  have hn : field forkAll.body 0 2 = 4096 := by decide
  rw [hslot, hopen, hn]
  decide

/-- Refutes O28: its clause on FORK asks that the children fit beside the entries of the table of streams as the message finds it, and not
that this table is canonical. In `disordered` the table lists slot 1 before slot 0 and more than once. Writing the FORK into the requests of
stream 0 then adds an entry, so that the FORK, into exactly the slots that were left, finds one too few and is answered with E_STATE
(`exec_fork_noSlots`) and not with OK. -/
theorem not_openSceneResults : ¬ Obligations.OpenSceneResults := by
  unfold Obligations.OpenSceneResults
  rintro ⟨-, hmessages⟩
  obtain ⟨hfork, -⟩ := hmessages disordered 5 forkAll _ _ _ 0 disordered_takes rfl rfl rfl rfl
  obtain ⟨t, l, ht, ⟨-, c, hok, -, hst, -⟩, -⟩ := hfork bareStream loneScene 4096 _ disordered_idle disordered_stream rfl rfl
    rfl rfl disordered_checks (by decide) rfl disordered_room
  obtain ⟨u, hu, hfail⟩ := exec_fork_noSlots (qp := 5) (sc := loneScene) disordered_takes disordered_idle rfl disordered_checks
    disordered_stream rfl rfl rfl disordered_noSlots
  rw [hu] at ht
  cases ht
  rw [hfail] at hok
  rw [← List.singleton_inj.1 (List.append_cancel_left hok)] at hst
  exact absurd hst (by decide)

end Sys2Proof.Machine

/-! Proofs about writes of ring tails (R233, R288, R341) and about frames at a Tideway port (R333 to R335, R342, R345). -/

namespace Sys2Proof.Machine

/-! ### Writes of a ring's tail (R233, R288, R341) -/

theorem waitingIn_eq {head : Nat} (h : head < 2 ^ 32) (tail : Nat) : waitingIn head tail = (tail + 2 ^ 32 - head) % 2 ^ 32 := by
  unfold waitingIn
  rw [Nat.mod_eq_of_lt h]

theorem State.fld_lt (s : State) (p : Pg) (r : RegName) (i hi lo : Nat) : s.fld p r i hi lo < 2 ^ (hi + 1 - lo) := bits_lt ..

/-- A command that takes a tail which is not too far ahead, and raises an event for one that is. -/
theorem State.tailTaken {s : State} {c : Instr} {p : Pg} {r : RegName} {ahead size bit ix hi lo tail : Nat}
    (h : exec c s = .next (if size < ahead then s.event p bit else s.setFld p r ix hi lo tail)) :
    (ahead ≤ size → ∃ t, exec c s = .next t ∧ t.rd p r ix = setBits (s.rd p r ix) hi lo tail ∧ s.regsBut t [regKey p r ix] ∧
      t = { s with regs := t.regs }) ∧
    (size < ahead → ∃ t, exec c s = .next t ∧ s.raised t p bit ∧ s.regsBut t (eventKeys p) ∧ t = { s with regs := t.regs }) := by
  have hset := State.writes_setFld (State.writes_refl s [regKey p r ix]) hi lo tail (List.mem_singleton_self _)
  have hevent := State.writes_event (State.writes_refl s (eventKeys p)) bit (List.Subset.refl _)
  constructor
  · intro hle
    exact ⟨_, by rw [h, if_neg (Nat.not_lt.2 hle)], State.rd_setFld_same .., hset.regs, State.writes_eq hset⟩
  · intro hlt
    exact ⟨_, by rw [h, if_pos hlt], State.raised_event .., hevent.regs, State.writes_eq hevent⟩

/-- A tail write of a descriptor ring (R233, R288). -/
theorem State.tailWrite_eq (s : State) (p : Pg) (head tail : RegName) (log2 overrun : Nat) (v : Word) :
    s.tailWrite p head tail log2 overrun v =
      if 2 ^ log2 < (bits v 31 0 + 2 ^ 32 - s.fld p head 0 31 0) % 2 ^ 32 then s.event p overrun
      else s.setFld p tail 0 31 0 (bits v 31 0) := by
  unfold State.tailWrite
  rw [waitingIn_eq (State.fld_lt s p head 0 31 0)]

theorem State.twRingTailWrite_eq (s : State) (g : Nat) (v : Word) :
    s.twRingTailWrite g v =
      if 2 ^ s.fld .tideway .twRing g 51 48 < (bits v 63 32 + 2 ^ 32 - s.fld .tideway .twRingPtr g 31 0) % 2 ^ 32 then
        s.event .tideway 5
      else s.setFld .tideway .twRingPtr g 63 32 (bits v 63 32) := by
  unfold State.twRingTailWrite
  dsimp only
  rw [waitingIn_eq (State.fld_lt s .tideway .twRingPtr g 31 0)]

/-! ### What a port has heard -/

/-- From s to t link engines of ports have changed, in what nothing but their senders reads, and error records; port p expects the
frame that it expected, and no port has more to send. -/
structure State.linkKept (s t : State) (p : Nat) : Prop where
  expect : (t.twPort p).expect = (s.twPort p).expect
  rxTime : (t.twPort p).rxTime = (s.twPort p).rxTime
  rxSent : (t.twPort p).rxSent = (s.twPort p).rxSent
  queues : ∀ o, (t.twPort o).queue = (s.twPort o).queue
  rest : t = { s with errs := t.errs, tw := { s.tw with ports := t.tw.ports } }

section
variable {s t u : State} {p : Nat}

theorem State.linkKept_refl (s : State) (p : Nat) : s.linkKept s p := ⟨rfl, rfl, rfl, fun _ => rfl, rfl⟩

theorem State.linkKept_trans (h : s.linkKept t p) (k : t.linkKept u p) : s.linkKept u p where
  expect := k.expect.trans h.expect
  rxTime := k.rxTime.trans h.rxTime
  rxSent := k.rxSent.trans h.rxSent
  queues := fun o => (k.queues o).trans (h.queues o)
  rest := by rw [k.rest, h.rest]

theorem State.queue_setTwPort {x : TwPort} (h : x.queue = (s.twPort p).queue) (o : Nat) :
    ((s.setTwPort p x).twPort o).queue = (s.twPort o).queue := by
  by_cases ho : o = p
  · rw [ho, State.twPort_setTwPort_same, h]
  · rw [State.twPort_setTwPort_other ho]

theorem State.linkKept_noted (s : State) (p : Nat) (pg : Pg) (st : Status) : s.linkKept (s.noted pg st) p := by
  rw [State.noted_rest]
  exact ⟨rfl, rfl, rfl, fun _ => rfl, rfl⟩

theorem State.linkKept_twAcked (s : State) (p n : Nat) : s.linkKept (s.twAcked p n) p := by
  unfold State.twAcked
  dsimp only
  generalize List.filter _ (s.twPort p).replay = l
  generalize decide (l.length < (s.twPort p).replay.length) = went
  have hset : s.linkKept (s.setTwPort p { s.twPort p with
      replay := l, replays := if went = true then 0 else (s.twPort p).replays }) p := by
    refine ⟨?_, ?_, ?_, State.queue_setTwPort rfl, rfl⟩
    all_goals rw [State.twPort_setTwPort_same]
  split
  · exact State.linkKept_trans hset (State.linkKept_noted ..)
  · exact hset

theorem State.linkKept_twCredit (s : State) (p vc n : Nat) : s.linkKept (s.twCredit p vc n) p := by
  unfold State.twCredit
  refine ⟨?_, ?_, ?_, State.queue_setTwPort rfl, rfl⟩
  all_goals rw [State.twPort_setTwPort_same]

theorem State.linkKept_headerCredits (s : State) (p : Nat) (w : BitVec 16) : s.linkKept (s.headerCredits p w) p := by
  unfold State.headerCredits
  generalize List.range 4 = l
  induction l generalizing s with
  | nil => exact State.linkKept_refl s p
  | cons i l ih => exact State.linkKept_trans (State.linkKept_twCredit ..) (ih _)

end

/-- A frame has been received: it is counted, with what was corrected in it, and its time is noted (R333, R338). -/
def State.frameRead (s : State) (p : Nat) (f : TwFrame) : State :=
  let t := (s.bump (twPg p) .twpRxFrames 0 1).bumpFree (twPg p) .twpFecCorrected 0
  t.setTwPort p { t.twPort p with rxTime := t.now, rxSent := f.time }

/-- A frame has been received, and what its header acknowledges and gives back is taken (R333 to R335). -/
def State.frameHeard (s : State) (p : Nat) (f : TwFrame) : State :=
  ((s.frameRead p f).twAcked p f.ack.toNat).headerCredits p f.credits

/-- The port expects the frame after the one that it has heard. -/
def State.frameNext (s : State) (p : Nat) (f : TwFrame) : State :=
  (s.frameHeard p f).setTwPort p { (s.frameHeard p f).twPort p with expect := (((s.frameRead p f).twPort p).expect + 1) % 65536 }

/-- The port holds a frame, for a collective that is to come (R335). -/
def State.holdFrame (s : State) (p : Fin 16) (f : TwFrame) : State :=
  { s with tw := { s.tw with held := s.tw.held ++ [(p.val, f)] } }

/-- What has changed as a port hears a frame. -/
structure State.hearsFrame (s t : State) (p : Nat) (f : TwFrame) : Prop where
  expect : (t.twPort p).expect = (s.twPort p).expect
  rxTime : (t.twPort p).rxTime = s.now
  rxSent : (t.twPort p).rxSent = f.time
  queues : ∀ o, (t.twPort o).queue = (s.twPort o).queue
  regs : s.regsBut t [regKey (twPg p) .twpRxFrames 0, regKey (twPg p) .twpFecCorrected 0]
  rest : t = { s with regs := t.regs, freeIx := t.freeIx, errs := t.errs, tw := { s.tw with ports := t.tw.ports } }

theorem State.bumpFree_eq (s : State) (p : Pg) (r : RegName) (i : Nat) :
    s.bumpFree p r i = { s with regs := (s.bumpFree p r i).regs, freeIx := s.freeIx + 1 } := by
  unfold State.bumpFree State.bump
  dsimp only [State.draw]
  split <;> rfl

theorem State.regsBut_bumpFree {s t : State} {ks : List Nat} {p : Pg} {r : RegName} {i : Nat} (h : s.regsBut t ks)
    (hk : regKey p r i ∈ ks) : s.regsBut (t.bumpFree p r i) ks := by
  unfold State.bumpFree
  exact State.regsBut_bump (t := { t with freeIx := t.freeIx + 1 }) h hk

theorem State.hearsFrame_frameRead (s : State) (p : Nat) (f : TwFrame) : s.hearsFrame (s.frameRead p f) p f := by
  have hb := State.writes_bump (State.writes_refl s [regKey (twPg p) .twpRxFrames 0, regKey (twPg p) .twpFecCorrected 0])
    (p := twPg p) (r := .twpRxFrames) (i := 0) 1 List.mem_cons_self
  have hregs := State.regsBut_bumpFree hb.regs (r := .twpFecCorrected) (i := 0) (List.mem_cons_of_mem _ (List.mem_singleton_self _))
  have ht := State.bumpFree_eq (s.bump (twPg p) .twpRxFrames 0 1) (twPg p) .twpFecCorrected 0
  unfold State.frameRead
  generalize (s.bump (twPg p) .twpRxFrames 0 1).bumpFree (twPg p) .twpFecCorrected 0 = t at hregs ht
  generalize s.bump (twPg p) .twpRxFrames 0 1 = v at hb ht
  have ht : t = { s with regs := t.regs, freeIx := t.freeIx } := by rw [ht, State.writes_eq hb]
  have hport (o : Nat) : t.twPort o = s.twPort o := State.twPort_congr (by rw [ht]) o
  have hnow : t.now = s.now := by rw [ht]
  have hset := State.portsMoved_setTwPort t p { t.twPort p with rxTime := t.now, rxSent := f.time }
  have hqueue (o : Nat) := State.queue_setTwPort (s := t) (p := p) (x := { t.twPort p with rxTime := t.now, rxSent := f.time }) rfl o
  have hsame := State.twPort_setTwPort_same t p { t.twPort p with rxTime := t.now, rxSent := f.time }
  have hreg := State.reg_setTwPort t p { t.twPort p with rxTime := t.now, rxSent := f.time }
  have hfree : (t.setTwPort p { t.twPort p with rxTime := t.now, rxSent := f.time }).freeIx = t.freeIx := rfl
  dsimp only
  generalize t.setTwPort p { t.twPort p with rxTime := t.now, rxSent := f.time } = u at hset hqueue hsame hreg hfree
  exact {
    expect := by rw [hsame, ← hport]
    rxTime := by rw [hsame, ← hnow]
    rxSent := by rw [hsame]
    queues := fun o => by rw [hqueue, hport]
    regs := fun k hn => (hreg k).trans (hregs k hn)
    rest := by rw [hset, ht] }

/-- What a port hears, and what of its links has changed then. -/
theorem State.hearsFrame_kept {s t u : State} {p : Nat} {f : TwFrame} (h : s.hearsFrame t p f) (k : t.linkKept u p) : s.hearsFrame u p f where
  expect := k.expect.trans h.expect
  rxTime := k.rxTime.trans h.rxTime
  rxSent := k.rxSent.trans h.rxSent
  queues := fun o => (k.queues o).trans (h.queues o)
  regs := fun i hn => (State.reg_congr (by rw [k.rest]) i).trans (h.regs i hn)
  rest := by rw [k.rest, h.rest]

theorem State.hearsFrame_frameHeard (s : State) (p : Nat) (f : TwFrame) : s.hearsFrame (s.frameHeard p f) p f :=
  State.hearsFrame_kept (State.hearsFrame_frameRead s p f)
    (State.linkKept_trans (State.linkKept_twAcked ..) (State.linkKept_headerCredits ..))

/-! ### Acknowledgements (R334, R335) -/

/-- An acknowledgement goes out. -/
structure State.acks (s t : State) (p n : Nat) (good : Bool) : Prop where
  regs : s.regsBut t [regKey (twPg p) .twpTxFrames 0]
  rest : t = { s with regs := t.regs, out := s.out ++ [.twAck p n good], freeIx := t.freeIx }

theorem State.acks_ackOn (s : State) (p n : Nat) (good : Bool) : s.acks (s.ackOn p n good) p n good := by
  unfold State.ackOn
  refine ⟨State.regsBut_bumpFree (State.regsBut_refl rfl _) (List.mem_singleton_self _), ?_⟩
  rw [State.bumpFree_eq]
  rfl

theorem State.acks_tw {s t : State} {p n : Nat} {good : Bool} (h : s.acks t p n good) : t.tw = s.tw := by rw [h.rest]

theorem State.twCalm_tw {s t : State} (h : s.twCalm) (htw : t.tw = s.tw) : t.twCalm :=
  State.twCalm_of h (fun o => by rw [State.twPort_congr htw, h.queues]) (by rw [htw, h.sems]) (by rw [htw])

theorem State.twCalm_acks {s t : State} {p n : Nat} {good : Bool} (h : s.twCalm) (k : s.acks t p n good) : t.twCalm :=
  State.twCalm_tw h (State.acks_tw k)

theorem State.twCalm_hearsFrame {s t : State} {p : Nat} {f : TwFrame} (h : s.twCalm) (k : s.hearsFrame t p f) : t.twCalm :=
  State.twCalm_of h (fun o => by rw [k.queues, h.queues]) (by rw [k.rest]; exact h.sems) (by rw [k.rest])

/-- A port that holds no frame acknowledges the one before the frame it expects. -/
theorem State.ackFor_nil {s : State} (h : s.tw.held = []) (p : Nat) : s.ackFor p = ((s.twPort p).expect + 65535) % 65536 := by
  unfold State.ackFor
  rw [h]
  rfl

/-! ### DATA frames (R333 to R335) -/

section
variable {s : State} {p : Fin 16} {f : TwFrame}

theorem exec_dataFrame_down (hup : s.up) (h : s.twUp p = false) (ok : Bool) : exec (.tidewayDataFrame p f ok) s = .next s := by
  rw [exec_tidewayDataFrame, execTidewayDataFrame, State.awake_up hup]
  dsimp only
  rw [if_pos (by rw [h]; rfl)]

theorem exec_controlFrame_down (hup : s.up) (h : s.twUp p = false) (k : TwControl) : exec (.tidewayControlFrame p k) s = .next s := by
  rw [exec_tidewayControlFrame, execTidewayControlFrame, State.awake_up hup]
  rw [if_pos (by rw [h]; rfl)]

/-- A frame that fails its CRC is counted and refused (R333, R334). -/
theorem exec_dataFrame_crc (hup : s.up) (h : s.twUp p = true) : ∃ t, exec (.tidewayDataFrame p f false) s = .next t ∧
    t.rd (twPg p) .twpCrcErrors 0 = s.counted (twPg p) .twpCrcErrors 0 1 ∧
    s.regsBut t [regKey (twPg p) .twpCrcErrors 0, regKey (twPg p) .twpTxFrames 0] ∧
    t = { s with regs := t.regs, out := s.out ++ [.twAck p (s.twPort p).expect false], freeIx := t.freeIx } := by
  have hb := State.writes_bump (State.writes_refl s [regKey (twPg p) .twpCrcErrors 0]) (p := twPg p) (r := .twpCrcErrors) (i := 0) 1
    List.mem_cons_self
  have ha := State.acks_ackOn (s.bump (twPg p) .twpCrcErrors 0 1) p (s.twPort p).expect false
  refine ⟨(s.bump (twPg p) .twpCrcErrors 0 1).ackOn p (s.twPort p).expect false, ?_, ?_, ?_, ?_⟩
  · rw [exec_tidewayDataFrame, execTidewayDataFrame, State.awake_up hup]
    dsimp only
    rw [h]
    rfl
  · have hkey : regKey (twPg p) .twpCrcErrors 0 ∉ [regKey (twPg p) .twpTxFrames 0] := by
      rw [List.mem_singleton]
      exact regKey_ne (by decide)
    exact (ha.regs _ hkey).trans (State.rd_bump_same ..)
  · intro k hk
    rw [List.mem_cons, not_or] at hk
    exact (ha.regs k hk.2).trans (hb.regs k (fun e => hk.1 (List.mem_singleton.1 e)))
  · rw [ha.rest, State.writes_eq hb]

/-- A frame with a good CRC, in the terms of what the port has heard. -/
theorem exec_dataFrame_eq (hup : s.up) (h : s.twUp p = true) : exec (.tidewayDataFrame p f true) s = .next (
    let x := (s.frameRead p f).twPort p
    let t := s.frameHeard p f
    if f.seq.toNat ≠ x.expect then
      (if (f.seq.toNat + 65536 - x.expect) % 65536 < 32768 then t.ackOn p x.expect false
       else t.ackOn p (t.ackFor p) true).collsGo
    else
      let t := s.frameNext p f
      if f.op = 5 then ((t.multicastIn p f).ackOn p (t.ackFor p) true).collsGo.settled
      else
        match t.ringOf f.group.val f.gseq.toNat with
        | some r => ((t.applyFrame r f).ackOn p (t.ackFor p) true).collsGo.settled
        | none =>
          if t.unissued f then (t.holdFrame p f).collsGo
          else (t.ackOn p (t.ackFor p) true).collsGo) := by
  rw [exec_tidewayDataFrame, execTidewayDataFrame, State.awake_up hup]
  show Host.Outcome.next (if (!s.twUp p.val) = true then _ else if (!true) = true then _ else _) = _
  rw [if_neg (by rw [h]; decide), if_neg (by decide)]
  rfl

end

/-! ### A delivery that windows count (R135, R342) -/

/-- From s to t only registers and what cores have beside their queues have changed. -/
structure State.lands (s t : State) : Prop where
  queues : ∀ c q, t.queue c q = s.queue c q
  rest : t = { s with regs := t.regs, cores := t.cores }

section
variable {s t u : State}

theorem State.lands_refl (s : State) : s.lands s := ⟨fun _ _ => rfl, rfl⟩

theorem State.lands_trans (h : s.lands t) (k : t.lands u) : s.lands u :=
  ⟨fun c q => (k.queues c q).trans (h.queues c q), by rw [k.rest, h.rest]⟩

theorem State.lands_setCore {c : Nat} {k : Core} (h : k.queues = (s.core c).queues) : s.lands (s.setCore c k) := by
  refine ⟨fun d q => ?_, rfl⟩
  unfold State.queue
  rw [State.core_setCore]
  split
  · next hd =>
    subst hd
    unfold Core.queue
    rw [h]
  · rfl

theorem State.lands_setFld (s : State) (p : Pg) (r : RegName) (i hi lo x : Nat) : s.lands (s.setFld p r i hi lo x) := ⟨fun _ _ => rfl, rfl⟩

theorem State.lands_event (s : State) (p : Pg) (b : Nat) : s.lands (s.event p b) :=
  ⟨State.queue_congr (State.event_cores ..),
    by rw [State.writes_eq (State.writes_event (State.writes_refl s (eventKeys p)) b (List.Subset.refl _))]⟩

theorem State.lands_setSem (s : State) (c i : Nat) (w : Word) : s.lands (s.setSem false c i w) := State.lands_setCore rfl

theorem State.lands_semOp (s : State) (c i n : Nat) : s.lands (s.semOp false false c i n false).2 := State.lands_setSem ..

theorem State.lands_foldl {α : Type} {f : State → α → State} (hf : ∀ (s : State) (x : α), s.lands (f s x)) (l : List α) (s : State) :
    s.lands (l.foldl f s) := by
  induction l generalizing s with
  | nil => exact State.lands_refl s
  | cons x l ih => exact State.lands_trans (hf s x) (ih _)

theorem State.lands_passUnits (s : State) (c : Fin 36) (n units sem fuel : Nat) : s.lands (s.passUnits c n units sem fuel) := by
  induction fuel generalizing s with
  | zero => exact State.lands_refl s
  | succ fuel ih =>
    rw [State.passUnits]
    split
    · refine State.lands_trans (State.lands_trans (State.lands_trans (State.lands_setCore ?_) (State.lands_setFld ..))
        (State.lands_semOp ..)) (ih _)
      rfl
    · exact State.lands_refl s

theorem State.lands_landSector (s : State) (c : Fin 36) (n sec : Nat) : s.lands (s.landSector c n sec) := by
  unfold State.landSector
  split
  dsimp only
  split
  · exact State.lands_refl s
  · next units sem on _ _ =>
    have hcore : s.lands (s.setCore c { s.core c with landed := KeySet.add (s.core c).landed (2 ^ 20 * n + sec) }) :=
      State.lands_setCore rfl
    split
    · exact hcore
    · split
      · exact State.lands_trans (State.lands_trans (State.lands_trans hcore (State.lands_setFld ..)) (State.lands_event ..))
          (State.lands_setSem ..)
      · exact State.lands_trans hcore (State.lands_passUnits ..)

theorem State.lands_landPart (s : State) (c : Fin 36) (n sec : Nat) (m : BitVec 64) : s.lands (s.landPart c n sec m) := by
  unfold State.landPart
  dsimp only
  split
  · have hcore : s.lands (s.setCore c { s.core c with landing := FMap.set 0 (s.core c).landing (2 ^ 20 * n + sec) 0 }) :=
      State.lands_setCore rfl
    exact State.lands_trans hcore (State.lands_landSector ..)
  · exact State.lands_setCore rfl

/-- A delivery stores its bytes; beside them only what the windows count changes. -/
theorem State.lands_deliver (s : State) (c : Fin 36) (off : Nat) (bs : List Byte) :
    (s.poke (ledgeAt c off) bs).lands (s.deliver c off bs) := by
  unfold State.deliver
  refine State.lands_foldl (fun u n => ?_) _ _
  split
  split
  · exact State.lands_refl u
  · exact State.lands_foldl (fun _ _ => State.lands_landPart ..) _ _

end

/-! ### A MULTICAST frame (R342) -/

theorem ledgeAt_of {a : Nat} (h0 : ledgeBase 0 ≤ a) (h : a < ledgeBase 36) :
    ledgeAt (Fin.ofNat 36 ((a - ledgeBase 0) / 0x2000000)) ((a - ledgeBase 0) % 0x2000000) = a := by
  unfold ledgeAt ledgeBase at *
  simp only [Fin.val_ofNat]
  omega

/-- The bytes a frame brings are stored, and of the rest only what the windows of a Ledge count has changed. -/
structure State.stores (s t : State) (a : Nat) (bs : List Byte) : Prop where
  queues : ∀ c q, t.queue c q = s.queue c q
  bytes : ∀ b, t.byte b = (s.poke a bs).byte b
  rest : t = { s with regs := t.regs, cores := t.cores, mem := t.mem, bad := t.bad }

theorem State.stores_twWrite {s : State} {cl a : Nat} {bs : List Byte} (h0 : ledgeBase 0 ≤ a) (h : a + bs.length ≤ ledgeBase 36) :
    s.stores (s.twWrite cl a bs) a bs := by
  unfold State.twWrite
  split
  · next hin =>
    have hl := State.lands_deliver s (Fin.ofNat 36 ((a - ledgeBase 0) / 0x2000000)) ((a - ledgeBase 0) % 0x2000000) bs
    rw [ledgeAt_of h0 hin.2] at hl
    exact ⟨hl.queues, State.byte_congr (by rw [hl.rest]), by rw [hl.rest]; rfl⟩
  · next hout =>
    obtain rfl : bs = [] := List.length_eq_zero_iff.1 (by omega)
    exact ⟨fun _ _ => rfl, fun _ => rfl, rfl⟩

theorem State.inWindow_range {s : State} {a n : Nat} (h : s.inWindow a n = true) : ledgeBase 0 ≤ a ∧ a + n ≤ ledgeBase 36 := by
  unfold State.inWindow at h
  split at h
  · assumption
  · cases h

theorem State.inWindow_congr {s t : State} (hc : t.code = s.code) (hk : t.cores = s.cores)
    (hr : ∀ (c : Fin 36) (r : RegName) (n : Nat), r.off n < 4096 → t.rd (.vector c) r n = s.rd (.vector c) r n) (a n : Nat) :
    t.inWindow a n = s.inWindow a n := by
  have hlive (c : Nat) : t.coreLive c = s.coreLive c := by
    unfold State.coreLive
    rw [hc, State.core_congr hk]
  have hw (c : Fin 36) (n : Nat) (hn : n < 4) : t.window c n = s.window c n := State.window_congr (fun r h => hr c r n h) hn
  have hrange : List.range 4 = [0, 1, 2, 3] := rfl
  unfold State.inWindow
  simp only [hlive, hrange, List.any_cons, List.any_nil, hw _ 0 (by decide), hw _ 1 (by decide), hw _ 2 (by decide), hw _ 3 (by decide)]

/-! ### DATA frames (R333 to R335) -/

/-- What has changed as a port has taken a frame in order. -/
structure State.takesFrame (s t : State) (p : Nat) : Prop where
  expect : (t.twPort p).expect = ((s.twPort p).expect + 1) % 65536
  queues : ∀ o, (t.twPort o).queue = (s.twPort o).queue
  regs : s.regsBut t [regKey (twPg p) .twpRxFrames 0, regKey (twPg p) .twpFecCorrected 0]
  rest : t = { s with regs := t.regs, freeIx := t.freeIx, errs := t.errs, tw := { s.tw with ports := t.tw.ports } }

theorem State.takesFrame_frameNext (s : State) (p : Nat) (f : TwFrame) : s.takesFrame (s.frameNext p f) p := by
  have h := State.hearsFrame_frameHeard s p f
  unfold State.frameNext
  rw [(State.hearsFrame_frameRead s p f).expect]
  generalize s.frameHeard p f = t at h
  exact {
    expect := by rw [State.twPort_setTwPort_same]
    queues := fun o => (State.queue_setTwPort (by rfl) o).trans (h.queues o)
    regs := h.regs
    rest := by rw [State.portsMoved_setTwPort t p, h.rest] }


section
variable {s : State} {p : Fin 16} {f : TwFrame}

/-- A frame that the port has heard and does not apply: it is answered, and nothing else happens. -/
structure State.answersFrame (s t : State) (p : Nat) (f : TwFrame) (n : Nat) (good : Bool) : Prop where
  out : t.out = s.out ++ [.twAck p n good]
  expect : (t.twPort p).expect = (s.twPort p).expect
  rxTime : (t.twPort p).rxTime = s.now
  rxSent : (t.twPort p).rxSent = f.time
  mem : t.mem = s.mem
  cores : t.cores = s.cores
  sems : t.sems = s.sems

theorem State.answersFrame_ackOn (s : State) (p : Nat) (f : TwFrame) (n : Nat) (good : Bool) :
    s.answersFrame ((s.frameHeard p f).ackOn p n good) p f n good := by
  have hh := State.hearsFrame_frameHeard s p f
  generalize s.frameHeard p f = t at hh
  have ha := State.acks_ackOn t p n good
  generalize t.ackOn p n good = u at ha
  have hport := State.twPort_congr (State.acks_tw ha) p
  exact {
    out := by rw [ha.rest, hh.rest]
    expect := by rw [hport, hh.expect]
    rxTime := by rw [hport, hh.rxTime]
    rxSent := by rw [hport, hh.rxSent]
    mem := by rw [ha.rest, hh.rest]
    cores := by rw [ha.rest, hh.rest]
    sems := by rw [ha.rest, hh.rest] }

theorem State.collsGo_ackOn_heard (hc : s.twCalm) (n : Nat) (good : Bool) :
    ((s.frameHeard p f).ackOn p n good).collsGo = (s.frameHeard p f).ackOn p n good :=
  State.collsGo_calm (State.twCalm_acks (State.twCalm_hearsFrame hc (State.hearsFrame_frameHeard s p f)) (State.acks_ackOn ..))

/-- A frame from beyond a gap is refused (R334). -/
theorem exec_dataFrame_gap (hup : s.up) (h : s.twUp p = true) (hc : s.twCalm) (hs : f.seq.toNat ≠ (s.twPort p).expect)
    (hd : (f.seq.toNat + 65536 - (s.twPort p).expect) % 65536 < 32768) :
    exec (.tidewayDataFrame p f true) s = .next ((s.frameHeard p f).ackOn p (s.twPort p).expect false) := by
  have hx := (State.hearsFrame_frameRead s p f).expect
  rw [exec_dataFrame_eq hup h]
  dsimp only
  rw [hx, if_pos hs, if_pos hd, State.collsGo_ackOn_heard hc]

/-- A frame received before is acknowledged again (R334). -/
theorem exec_dataFrame_old (hup : s.up) (h : s.twUp p = true) (hc : s.twCalm) (hs : f.seq.toNat ≠ (s.twPort p).expect)
    (hd : 32768 ≤ (f.seq.toNat + 65536 - (s.twPort p).expect) % 65536) :
    exec (.tidewayDataFrame p f true) s = .next ((s.frameHeard p f).ackOn p ((s.frameHeard p f).ackFor p) true) := by
  have hx := (State.hearsFrame_frameRead s p f).expect
  rw [exec_dataFrame_eq hup h]
  dsimp only
  rw [hx, if_pos hs, if_neg (Nat.not_lt.2 hd), State.collsGo_ackOn_heard hc]

/-- A port that holds nothing acknowledges what it has taken. -/
theorem State.ackFor_heard (hheld : s.tw.held = []) :
    (s.frameHeard p f).ackFor p = ((s.twPort p).expect + 65535) % 65536 := by
  have hh := State.hearsFrame_frameHeard s p f
  rw [State.ackFor_nil (by rw [hh.rest]; exact hheld), hh.expect]

theorem State.ackFor_next (hheld : s.tw.held = []) (hs : f.seq.toNat = (s.twPort p).expect) :
    (s.frameNext p f).ackFor p = (s.twPort p).expect := by
  have hh := State.takesFrame_frameNext s p f
  have hlt : f.seq.toNat < 65536 := f.seq.isLt
  rw [State.ackFor_nil (by rw [hh.rest]; exact hheld), hh.expect]
  omega

theorem State.twCalm_takesFrame {t : State} {p : Nat} (h : s.twCalm) (k : s.takesFrame t p) : t.twCalm :=
  State.twCalm_of h (fun o => by rw [k.queues, h.queues]) (by rw [k.rest]; exact h.sems) (by rw [k.rest])

/-- A MULTICAST frame in order is stored or refused, and acknowledged (R334, R342). -/
theorem exec_dataFrame_multicast (hup : s.up) (h : s.twUp p = true) (hs : f.seq.toNat = (s.twPort p).expect) (ho : f.op = 5) :
    exec (.tidewayDataFrame p f true) s =
      .next (((s.frameNext p f).multicastIn p f).ackOn p ((s.frameNext p f).ackFor p) true).collsGo.settled := by
  have hx := (State.hearsFrame_frameRead s p f).expect
  rw [exec_dataFrame_eq hup h]
  dsimp only
  rw [hx, if_neg (not_not.2 hs), if_pos ho]

/-- While no collective runs, no ring has the one of a frame. -/
theorem State.ringOf_calm {t : State} (h : t.twCalm) (g q : Nat) : t.ringOf g q = none := by
  unfold State.ringOf
  rw [List.find?_eq_none]
  intro r _
  rw [h.colls r]
  exact Bool.false_ne_true

theorem State.unissued_congr {t : State} (hg : t.tw.gseq = s.tw.gseq) (f : TwFrame) : t.unissued f = s.unissued f := by
  unfold State.unissued
  rw [hg]

theorem State.twCalm_holdFrame {t : State} (h : t.twCalm) (p : Fin 16) (f : TwFrame) : (t.holdFrame p f).twCalm :=
  State.twCalm_of h h.queues h.sems rfl

/-- A frame of a collective that is not issued yet is held (R335). -/
theorem exec_dataFrame_held (hup : s.up) (h : s.twUp p = true) (hc : s.twCalm) (hs : f.seq.toNat = (s.twPort p).expect) (ho : f.op ≠ 5)
    (hi : s.unissued f = true) : exec (.tidewayDataFrame p f true) s = .next ((s.frameNext p f).holdFrame p f) := by
  have hx := (State.hearsFrame_frameRead s p f).expect
  have hn := State.takesFrame_frameNext s p f
  have hcalm := State.twCalm_takesFrame hc hn
  have hun : (s.frameNext p f).unissued f = true := (State.unissued_congr (by rw [hn.rest]) f).trans hi
  have hring := State.ringOf_calm hcalm f.group.val f.gseq.toNat
  rw [exec_dataFrame_eq hup h]
  dsimp only
  rw [hx, if_neg (not_not.2 hs), if_neg ho, hring]
  dsimp only
  rw [if_pos hun, State.collsGo_calm (State.twCalm_holdFrame hcalm p f)]

theorem exec_dataFrame_holds (hup : s.up) (h : s.twUp p = true) (hc : s.twCalm)
    (hs : f.seq.toNat = (s.twPort p).expect) (ho : f.op ≠ 5) (hi : s.unissued f = true) :
    ∃ t, exec (.tidewayDataFrame p f true) s = .next t ∧ (t.twPort p).expect = ((s.twPort p).expect + 1) % 65536 ∧
      t.tw.held = s.tw.held ++ [(p.val, f)] ∧ t.out = s.out ∧ t.mem = s.mem ∧ t.cores = s.cores ∧ t.sems = s.sems := by
  have hn := State.takesFrame_frameNext s p f
  have he := exec_dataFrame_held hup h hc hs ho hi
  generalize s.frameNext p f = t at hn he
  have hheld : t.tw.held = s.tw.held := by rw [hn.rest]
  have hout : t.out = s.out := by rw [hn.rest]
  have hmem : t.mem = s.mem := by rw [hn.rest]
  have hcores : t.cores = s.cores := by rw [hn.rest]
  have hsems : t.sems = s.sems := by rw [hn.rest]
  exact ⟨t.holdFrame p f, he, hn.expect, congrArg (· ++ [(p.val, f)]) hheld, hout, hmem, hcores, hsems⟩

end

/-! ### Nothing waits -/

/-- No queue waits, in a WAIT_GE or at an arrival gate. -/
def State.unwaiting (s : State) : Prop := ∀ c q, (s.queue c q).state ≠ .waiting ∧ ∀ g ∈ (s.queue c q).flights, g.gated = false

/-- Where no queue waits, none waits on a faulted semaphore. -/
theorem State.faultedWaiter_unwaiting {s : State} (h : s.unwaiting) : s.faultedWaiter = none := by
  have hnone : ∀ c q, s.faultWaits c q = false := by
    intro c q
    obtain ⟨hstate, hgated⟩ := h c q
    have hwait : s.waitsOnFault c q = false := by
      unfold State.waitsOnFault
      dsimp only
      rw [beq_false_of_ne hstate, Bool.false_and]
    unfold State.faultWaits
    rw [hwait, Bool.false_or, List.any_eq_false]
    intro g hg
    unfold State.gateFaulted
    rw [hgated g hg]
    exact Bool.false_ne_true
  unfold State.faultedWaiter
  rw [List.findSome?_eq_none_iff]
  intro c _
  rw [Option.map_eq_none_iff, List.find?_eq_none]
  intro q _ e
  exact Bool.false_ne_true ((hnone c q).symm.trans e)

section
variable {s : State} {p : Fin 16} {f : TwFrame}

theorem State.inWindow_takesFrame {t : State} {p : Nat} (h : s.takesFrame t p) (a n : Nat) : t.inWindow a n = s.inWindow a n := by
  refine State.inWindow_congr (by rw [h.rest]) (by rw [h.rest]) (fun c r i hr => h.regs _ ?_) a n
  have hpage : (Pg.vector c).index ≠ (twPg p).index := by
    have hv : 48 ≤ (Pg.vector c).index := by revert c; decide
    rw [twPg_index]
    omega
  have hne (r' : RegName) (hr' : r'.off 0 < 4096) : regKey (.vector c) r i ≠ regKey (twPg p) r' 0 := regKey_ne_of_page hpage hr hr'
  simp only [List.mem_cons, List.not_mem_nil, or_false, not_or]
  exact ⟨hne _ (by decide), hne _ (by decide)⟩

/-- A MULTICAST frame in order, for an arrival window (R342). -/
theorem exec_dataFrame_stored (hup : s.up) (h : s.twUp p = true) (hc : s.twCalm) (hs : f.seq.toNat = (s.twPort p).expect) (ho : f.op = 5)
    (hheld : s.tw.held = []) (hw : s.unwaiting) (hf : s.est.fast = []) (hin : s.inWindow f.addr.toNat (TwFrame.data f).length = true) :
    ∃ t, exec (.tidewayDataFrame p f true) s = .next t ∧ (t.twPort p).expect = ((s.twPort p).expect + 1) % 65536 ∧
      t.out = s.out ++ [.twAck p (s.twPort p).expect true] ∧
      (∀ i < (TwFrame.data f).length, t.byte (f.addr.toNat + i) = (TwFrame.data f).getD i 0) ∧
      s.bytesBut t [(f.addr.toNat, (TwFrame.data f).length)] ∧ t.gulk = s.gulk ∧ t.est = s.est ∧ t.cliff = s.cliff := by
  have hn := State.takesFrame_frameNext s p f
  have he := exec_dataFrame_multicast hup h hs ho
  obtain ⟨hlo, hhi⟩ := State.inWindow_range hin
  have hst := State.stores_twWrite (s := s.frameNext p f) (cl := f.vc.val) hlo hhi
  rw [State.multicastIn, if_pos (by rw [State.inWindow_takesFrame hn, hin]), State.ackFor_next hheld hs] at he
  generalize s.frameNext p f = t at hn hst he
  have ha := State.acks_ackOn (t.twWrite f.vc.val f.addr.toNat (TwFrame.data f)) p (s.twPort p).expect true
  generalize t.twWrite f.vc.val f.addr.toNat (TwFrame.data f) = u at hst he ha
  generalize u.ackOn p (s.twPort p).expect true = v at ha he
  have htw : v.tw = t.tw := by rw [ha.rest, hst.rest]
  have hcores : v.cores = u.cores := by rw [ha.rest]
  have hcalm : v.twCalm := State.twCalm_tw (State.twCalm_takesFrame hc hn) htw
  have hidle : v.unwaiting := by
    intro c q
    rw [State.queue_congr hcores, hst.queues, State.queue_congr (show t.cores = s.cores by rw [hn.rest])]
    exact hw c q
  have hest : v.est = s.est := by rw [ha.rest, hst.rest, hn.rest]
  rw [State.collsGo_calm hcalm, State.settled_calm (State.faultedWaiter_unwaiting hidle) (by rw [hest, hf])] at he
  have hbyte (a : Nat) : v.byte a = (t.poke f.addr.toNat (TwFrame.data f)).byte a :=
    (State.byte_congr (by rw [ha.rest]) a).trans (hst.bytes a)
  refine ⟨v, he, ?_, ?_, ?_, ?_, ?_, hest, ?_⟩
  · rw [State.twPort_congr htw, hn.expect]
  · rw [ha.rest, hst.rest, hn.rest]
  · intro i hi
    rw [hbyte, State.byte_poke, if_pos ⟨by omega, by omega⟩, Nat.add_sub_cancel_left]
  · intro a hr
    have hout := hr _ (List.mem_singleton_self _)
    rw [hbyte, State.byte_poke, if_neg hout, State.byte_congr (show t.mem = s.mem by rw [hn.rest])]
  · rw [ha.rest, hst.rest, hn.rest]
  · rw [ha.rest, hst.rest, hn.rest]

/-- A MULTICAST frame in order, for no arrival window (R342). -/
theorem exec_dataFrame_noWindow (hup : s.up) (h : s.twUp p = true) (hc : s.twCalm) (hs : f.seq.toNat = (s.twPort p).expect) (ho : f.op = 5)
    (hheld : s.tw.held = []) (hw : s.unwaiting) (hf : s.est.fast = []) (hin : s.inWindow f.addr.toNat (TwFrame.data f).length = false) :
    ∃ t, exec (.tidewayDataFrame p f true) s = .next t ∧ (t.twPort p).expect = ((s.twPort p).expect + 1) % 65536 ∧
      t.out = s.out ++ [.twAnswer p .eAddr, .twAck p (s.twPort p).expect true] ∧ t.mem = s.mem ∧ t.cores = s.cores ∧
      t.sems = s.sems := by
  have hn := State.takesFrame_frameNext s p f
  have he := exec_dataFrame_multicast hup h hs ho
  have hno : (s.frameNext p f).inWindow f.addr.toNat (TwFrame.data f).length ≠ true := by
    rw [State.inWindow_takesFrame hn, hin]
    decide
  rw [State.multicastIn, if_neg hno, State.ackFor_next hheld hs] at he
  generalize s.frameNext p f = t at hn he
  have hsent := State.writes_bump (State.writes_refl t [regKey (twPg p) .twpTxFrames 0]) (p := twPg p) (r := .twpTxFrames) (i := 0) 1
    List.mem_cons_self
  unfold State.sentOn at he
  generalize t.bump (twPg p) .twpTxFrames 0 1 = u at he hsent
  have ha := State.acks_ackOn (u.emit (.twAnswer p .eAddr)) p (s.twPort p).expect true
  have hu := State.writes_eq hsent
  unfold State.emit at he ha
  generalize State.ackOn _ p (s.twPort p).expect true = v at ha he
  have hv : v = { t with regs := v.regs, out := t.out ++ [.twAnswer p .eAddr, .twAck p (s.twPort p).expect true], freeIx := v.freeIx } := by
    rw [ha.rest, hu]
    simp
  have htw : v.tw = t.tw := by rw [hv]
  have hcalm : v.twCalm := State.twCalm_tw (State.twCalm_takesFrame hc hn) htw
  have hcores : v.cores = s.cores := by rw [hv, hn.rest]
  have hidle : v.unwaiting := by
    intro c q
    rw [State.queue_congr hcores]
    exact hw c q
  have hest : v.est.fast = [] := by rw [hv, hn.rest]; exact hf
  rw [State.collsGo_calm hcalm, State.settled_calm (State.faultedWaiter_unwaiting hidle) hest] at he
  refine ⟨v, he, ?_, ?_, ?_, hcores, ?_⟩
  · rw [State.twPort_congr htw, hn.expect]
  · rw [hv, hn.rest]
  · rw [hv, hn.rest]
  · rw [hv, hn.rest]

end

/-! ### CONTROL frames (R333 to R335, R345) -/

/-- A CONTROL frame has been counted. -/
def State.controlRead (s : State) (p : Fin 16) : State := s.bump (twPg p) .twpRxFrames 0 1

section
variable {s : State} {p : Fin 16}

theorem State.writes_controlRead (s : State) (p : Fin 16) : s.writes (s.controlRead p) [regKey (twPg p) .twpRxFrames 0] :=
  State.writes_bump (State.writes_refl s _) 1 (List.mem_singleton_self _)

theorem State.controlRead_rest (s : State) (p : Fin 16) : s.controlRead p = { s with regs := (s.controlRead p).regs } :=
  State.writes_eq (State.writes_controlRead s p)

theorem State.tw_controlRead (s : State) (p : Fin 16) : (s.controlRead p).tw = s.tw := by rw [State.controlRead_rest]

theorem State.twPort_controlRead (s : State) (p : Fin 16) (o : Nat) : (s.controlRead p).twPort o = s.twPort o :=
  State.twPort_congr (State.tw_controlRead s p) o

theorem State.twCalm_controlRead (h : s.twCalm) (p : Fin 16) : (s.controlRead p).twCalm :=
  State.twCalm_moved h (State.portsMoved_writes (State.writes_controlRead s p)) (fun o => by rw [State.twPort_controlRead, h.queues])

theorem exec_controlFrame_credit (hup : s.up) (h : s.twUp p = true) (vc : Fin 4) (n : BitVec 4) :
    exec (.tidewayControlFrame p (.credit vc n)) s = .next ((s.controlRead p).twCredit p vc n.toNat).collsGo := by
  rw [exec_tidewayControlFrame, execTidewayControlFrame, State.awake_up hup, if_neg (by rw [h]; decide)]
  rfl

theorem exec_controlFrame_ack (hup : s.up) (h : s.twUp p = true) (q : BitVec 16) : exec (.tidewayControlFrame p (.ack q)) s =
    .next (((s.controlRead p).twAcked p q.toNat).semsAcked
      (fun k => ((s.controlRead p).peerPorts k).contains p.val)).collsGo := by
  rw [exec_tidewayControlFrame, execTidewayControlFrame, State.awake_up hup, if_neg (by rw [h]; decide)]
  rfl

theorem exec_controlFrame_negative (hup : s.up) (h : s.twUp p = true) (q : BitVec 16) :
    exec (.tidewayControlFrame p (.negative q)) s =
      .next (((s.controlRead p).twAcked p (q.toNat + 65535)).twAgain p).collsGo := by
  rw [exec_tidewayControlFrame, execTidewayControlFrame, State.awake_up hup, if_neg (by rw [h]; decide)]
  rfl

theorem exec_controlFrame_abort (hup : s.up) (h : s.twUp p = true) (g : Fin 64) (q : BitVec 26) :
    exec (.tidewayControlFrame p (.abort g q)) s = .next ((s.controlRead p).collAborted g.val q.toNat) := by
  rw [exec_tidewayControlFrame, execTidewayControlFrame, State.awake_up hup, if_neg (by rw [h]; decide)]
  rfl

/-- The credits of the channels of a port, after some of one channel have come back. -/
theorem getD_credited (l : List Nat) (vc n : Nat) {v : Nat} (h : v < l.length) :
    (l.zipIdx.map (fun (c, i) => if i = vc then min 64 (c + n) else c)).getD v 0 =
      if v = vc then min 64 (l.getD v 0 + n) else l.getD v 0 := by
  simp [List.getD, List.getElem?_zipIdx, List.getElem?_eq_getElem h]

theorem State.twPort_twCredit (s : State) (p vc n : Nat) : (s.twCredit p vc n).twPort p =
    { s.twPort p with credits := (s.twPort p).credits.zipIdx.map (fun (c, i) => if i = vc then min 64 (c + n) else c) } :=
  State.twPort_setTwPort_same ..

/-- Credits come back to their channel (R335). -/
theorem exec_controlFrame_credited (hup : s.up) (h : s.twUp p = true) (hc : s.twCalm) (vc : Fin 4) (n : BitVec 4)
    (hl : (s.twPort p).credits.length = 4) :
    ∃ t, exec (.tidewayControlFrame p (.credit vc n)) s = .next t ∧
      (t.twPort p).credits.getD vc 0 = min 64 ((s.twPort p).credits.getD vc 0 + n.toNat) ∧
      (∀ v < 4, v ≠ vc.val → (t.twPort p).credits.getD v 0 = (s.twPort p).credits.getD v 0) ∧
      (∀ o, o ≠ p.val → t.twPort o = s.twPort o) ∧ s.regsBut t [regKey (twPg p) .twpRxFrames 0] ∧
      t = { s with regs := t.regs, tw := t.tw } := by
  have hr := State.writes_controlRead s p
  have hk := State.linkKept_twCredit (s.controlRead p) p vc n.toNat
  have hrest := State.controlRead_rest s p
  have hport := State.twPort_controlRead s p
  have hcalm : ((s.controlRead p).twCredit p vc n.toNat).twCalm :=
    State.twCalm_moved (State.twCalm_controlRead hc p) (State.portsMoved_setTwPort ..)
      (fun o => by rw [hk.queues, hport, hc.queues])
  refine ⟨(s.controlRead p).twCredit p vc n.toNat, ?_, ?_, ?_, ?_, hr.regs, ?_⟩
  · rw [exec_controlFrame_credit hup h, State.collsGo_calm hcalm]
  · rw [State.twPort_twCredit, getD_credited _ _ _ (by rw [hport, hl]; exact vc.isLt), if_pos rfl, hport]
  · intro v hv hne
    rw [State.twPort_twCredit, getD_credited _ _ _ (by rw [hport, hl]; exact hv), if_neg hne, hport]
  · exact fun o ho => (State.twPort_setTwPort_other ho).trans (hport o)
  · generalize s.controlRead p = t at hrest
    unfold State.twCredit State.setTwPort
    rw [hrest]

/-- An acknowledgement that no replay brought about takes the frames that it covers (R334). -/
theorem State.twAcked_fresh (h : (s.twPort p).replays = 0) (n : Nat) : s.twAcked p n = s.setTwPort p
    { s.twPort p with replay := (s.twPort p).replay.filter (fun g => 32768 ≤ (n + 65536 - g.seq.toNat) % 65536) } := by
  unfold State.twAcked
  dsimp only
  rw [h, if_neg (by omega), ite_self, ← h]

/-- While no SEMAPHORE frame waits, an acknowledgement sends none. -/
theorem State.semsAcked_calm (h : s.tw.sems = []) (f : Nat → Bool) :
    s.semsAcked f = { s with tw := { s.tw with semOut := s.tw.semOut.filter (fun k => !f k) } } := by
  unfold State.semsAcked
  dsimp only
  rw [h, State.pumpSems, List.reverse_nil]

/-- An acknowledgement takes the frames that it covers out of the replay buffer (R334). -/
theorem exec_controlFrame_acked (hup : s.up) (h : s.twUp p = true) (hc : s.twCalm) (q : BitVec 16) (hz : (s.twPort p).replays = 0) :
    ∃ t, exec (.tidewayControlFrame p (.ack q)) s = .next t ∧
      t.twPort p = { s.twPort p with
        replay := (s.twPort p).replay.filter (fun g => 32768 ≤ (q.toNat + 65536 - g.seq.toNat) % 65536) } ∧
      t.rd (twPg p) .twpRxFrames 0 = s.counted (twPg p) .twpRxFrames 0 1 ∧ (∀ o, o ≠ p.val → t.twPort o = s.twPort o) ∧
      s.regsBut t [regKey (twPg p) .twpRxFrames 0] ∧ t = { s with regs := t.regs, tw := t.tw } := by
  have hr := State.writes_controlRead s p
  have hrest := State.controlRead_rest s p
  have hport := State.twPort_controlRead s p
  have hcalm := State.twCalm_controlRead hc p
  have hrd : (s.controlRead p).rd (twPg p) .twpRxFrames 0 = s.counted (twPg p) .twpRxFrames 0 1 := State.rd_bump_same ..
  have he := exec_controlFrame_ack hup h q
  generalize s.controlRead p = t at hr hrest hport hcalm hrd he
  have hack := State.twAcked_fresh (s := t) (p := p) (by rw [hport]; exact hz) q.toNat
  have hk := State.linkKept_twAcked t p q.toNat
  have hsame : (t.twAcked p q.toNat).twPort p = { s.twPort p with
      replay := (s.twPort p).replay.filter (fun g => 32768 ≤ (q.toNat + 65536 - g.seq.toNat) % 65536) } := by
    rw [hack, State.twPort_setTwPort_same, hport]
  have hother (o : Nat) (ho : o ≠ p.val) : (t.twAcked p q.toNat).twPort o = s.twPort o := by
    rw [hack, State.twPort_setTwPort_other ho, hport]
  have hregs : (t.twAcked p q.toNat).regs = t.regs := by rw [hk.rest]
  have hmoved : t.twAcked p q.toNat = { s with regs := t.regs, tw := (t.twAcked p q.toNat).tw } := by
    rw [hack]
    unfold State.setTwPort
    rw [hrest]
  have hsems : (t.twAcked p q.toNat).tw.sems = [] := by rw [hk.rest]; exact hcalm.sems
  have hqueues (o : Nat) : ((t.twAcked p q.toNat).twPort o).queue = [] := by rw [hk.queues, hcalm.queues]
  have hcolls : (t.twAcked p q.toNat).tw.colls = t.tw.colls := by rw [hk.rest]
  generalize t.twAcked p q.toNat = u at he hsame hother hregs hmoved hsems hqueues hcolls
  have hv := State.semsAcked_calm hsems (fun k => (t.peerPorts k).contains p.val)
  generalize u.semsAcked _ = v at he hv
  have hvport (o : Nat) : v.twPort o = u.twPort o := by rw [hv]; rfl
  have hvregs : v.regs = t.regs := by rw [hv, ← hregs]
  have hvcalm : v.twCalm :=
    State.twCalm_of hcalm (fun o => by rw [hvport, hqueues]) (by rw [hv]; exact hsems) (by rw [hv]; exact hcolls)
  rw [State.collsGo_calm hvcalm] at he
  refine ⟨v, he, (hvport p).trans hsame, (State.rd_congr hvregs ..).trans hrd, fun o ho => (hvport o).trans (hother o ho),
    fun k hk => (State.reg_congr hvregs k).trans (hr.regs k hk), ?_⟩
  rw [hv, hmoved]

/-- A port that carries frames sends them again (R334). -/
theorem State.twAgain_replays {t : State} {p : Nat} (hu : t.twUp p = true) (hne : (t.twPort p).replay ≠ [])
    (hn : (t.twPort p).replays < 32) :
    t.twAgain p = (t.setTwPort p { t.twPort p with replays := (t.twPort p).replays + 1 }).twReplay p := by
  unfold State.twAgain
  dsimp only
  rw [if_neg (by simp [hu, hne]), if_neg (by omega)]

/-- A refusal sends the frames that are left in the replay buffer again (R30, R334). -/
theorem exec_controlFrame_refused (hup : s.up) (h : s.twUp p = true) (hc : s.twCalm) (q : BitVec 16) (hz : (s.twPort p).replays = 0)
    {l : List TwFrame} (hl : l = (s.twPort p).replay.filter (fun g => 32768 ≤ (q.toNat + 65535 + 65536 - g.seq.toNat) % 65536))
    (hne : l ≠ []) : ∃ t, exec (.tidewayControlFrame p (.negative q)) s = .next t ∧
      t.twPort p = { s.twPort p with replay := l.map (fun g => { g with time := s.now }), replays := 1 } ∧
      t.out = s.out ++ l.map (fun g => .twFrame p { g with time := s.now }) ∧
      (∀ o, o ≠ p.val → t.twPort o = s.twPort o) ∧ t = { s with regs := t.regs, tw := t.tw, out := t.out } := by
  have hrest := State.controlRead_rest s p
  have hport := State.twPort_controlRead s p
  have hcalm := State.twCalm_controlRead hc p
  have hstate : (s.controlRead p).twState p = s.twState p :=
    State.fld_congr (State.writes_rd (State.writes_controlRead s p) (by rw [List.mem_singleton]; exact regKey_ne (by decide))) 2 0
  have he := exec_controlFrame_negative hup h q
  generalize s.controlRead p = t at hrest hport hcalm he hstate
  have hup' : t.twUp p = true := (State.twUp_congr hstate).trans h
  rw [State.twAcked_fresh (s := t) (by rw [hport]; exact hz), hport, ← hl] at he
  have hsame := State.twPort_setTwPort_same t p { s.twPort p with replay := l }
  have hother (o : Nat) (ho : o ≠ p.val) : (t.setTwPort p { s.twPort p with replay := l }).twPort o = s.twPort o := by
    rw [State.twPort_setTwPort_other ho, hport]
  have hupu : (t.setTwPort p { s.twPort p with replay := l }).twUp p = true := hup'
  have hmoved := State.portsMoved_setTwPort t p { s.twPort p with replay := l }
  have hq (o : Nat) : ((t.setTwPort p { s.twPort p with replay := l }).twPort o).queue = [] := by
    rw [State.queue_setTwPort (by rw [hport]), hcalm.queues]
  have hcalmu := State.twCalm_moved hcalm hmoved hq
  generalize t.setTwPort p { s.twPort p with replay := l } = u at he hsame hother hupu hmoved hcalmu
  rw [State.twAgain_replays hupu (by rw [hsame]; exact hne) (by rw [hsame, hz]; decide)] at he
  have hset := State.twPort_setTwPort_same u p { u.twPort p with replays := (u.twPort p).replays + 1 }
  have hsetOther (o : Nat) (ho : o ≠ p.val) :=
    State.twPort_setTwPort_other (s := u) (x := { u.twPort p with replays := (u.twPort p).replays + 1 }) ho
  have hsetMoved := State.portsMoved_setTwPort u p { u.twPort p with replays := (u.twPort p).replays + 1 }
  have hsetCalm : (u.setTwPort p { u.twPort p with replays := (u.twPort p).replays + 1 }).twCalm :=
    State.twCalm_moved hcalmu hsetMoved (fun o => by rw [State.queue_setTwPort (by rfl), hcalmu.queues])
  generalize u.setTwPort p { u.twPort p with replays := (u.twPort p).replays + 1 } = v at he hset hsetOther hsetMoved hsetCalm
  have hr := State.replayed_twReplay v p
  have hagain : v.again p = l.map (fun g => { g with time := s.now }) := by
    unfold State.again
    rw [hset, hsame, hsetMoved, hmoved, hrest]
  have hcalmw := State.twCalm_twReplay hsetCalm (p := p)
  generalize v.twReplay p = w at he hr hcalmw
  rw [State.collsGo_calm hcalmw] at he
  refine ⟨w, he, ?_, ?_, ?_, ?_⟩
  · rw [hr.port, hagain, hset, hsame, hz]
  · rw [hr.out, hagain, List.map_map, hsetMoved, hmoved, hrest]
    rfl
  · intro o ho
    rw [hr.others o ho, hsetOther o ho, hother o ho]
  · rw [hr.rest, hsetMoved, hmoved, hrest]

/-- An abort for a collective that is not issued yet waits for it (R345). -/
theorem exec_controlFrame_aborted (hup : s.up) (h : s.twUp p = true) (hc : s.twCalm) (g : Fin 64) (q : BitVec 26)
    (hn : (q.toNat + 2 ^ 26 - FMap.get 0 s.tw.gseq g.val % 2 ^ 26) % 2 ^ 26 < 2 ^ 25) (ha : (g.val, q.toNat) ∉ s.tw.aborted) :
    ∃ t, exec (.tidewayControlFrame p (.abort g q)) s = .next t ∧
      t.tw.aborted = s.tw.aborted ++ [(g.val, q.toNat)] ∧ t = { s with regs := t.regs, tw := t.tw } := by
  have hrest := State.controlRead_rest s p
  have htw := State.tw_controlRead s p
  have hring := State.ringOf_calm (State.twCalm_controlRead hc p) g.val q.toNat
  have he := exec_controlFrame_abort hup h g q
  generalize s.controlRead p = t at hrest htw hring he
  have hnot : (!s.tw.aborted.contains (g.val, q.toNat)) = true := by simpa using ha
  unfold State.collAborted at he
  rw [hring] at he
  dsimp only at he
  rw [htw, if_pos ⟨hn, hnot⟩] at he
  refine ⟨_, he, rfl, ?_⟩
  rw [hrest]

end

/-! ### The obligation -/

/-- Settles O45: a tail write by the ring's rule; a frame by what the port hears, which takes nothing of a collective while none runs. -/
theorem tidewayFrameResults : Obligations.TidewayFrameResults := by
  unfold Obligations.TidewayFrameResults
  refine ⟨?tails, ?frames⟩
  case tails =>
    intro s v p c head tail size bit r ix hi lo hup hc
    rcases hc with ⟨h, rfl, rfl, rfl, rfl, rfl, rfl, rfl, rfl, rfl, rfl⟩ | ⟨rfl, rfl, rfl, rfl, rfl, rfl, rfl, rfl, rfl, rfl⟩ |
      ⟨g, rfl, rfl, rfl, rfl, rfl, rfl, rfl, rfl, rfl, rfl⟩
    · exact State.tailTaken (by rw [exec_fsRingTailWrite, execFsRingTailWrite, State.awake_up hup, State.tailWrite_eq])
    · exact State.tailTaken (by rw [exec_cliffRingTailWrite, execCliffRingTailWrite, State.awake_up hup, State.tailWrite_eq])
    · exact State.tailTaken (by rw [exec_twRingTailWrite, execTwRingTailWrite, State.awake_up hup, State.twRingTailWrite_eq])
  case frames =>
    rintro s p f x d hup rfl rfl
    refine ⟨fun hdown => ⟨exec_dataFrame_down hup hdown, exec_controlFrame_down hup hdown⟩, fun h => ⟨exec_dataFrame_crc hup h, fun hc =>
      ⟨?gap, ?old, ?multicast, ?held, ?credit, ?acks, ?abort⟩⟩⟩
    case gap =>
      intro hpos hlt
      have ha := State.answersFrame_ackOn s p f (s.twPort p).expect false
      exact ⟨_, exec_dataFrame_gap hup h hc (fun e => by rw [e] at hpos; omega) hlt, ha.out, ha.expect, ha.rxTime, ha.rxSent, ha.mem,
        ha.cores, ha.sems⟩
    case old =>
      intro hge hheld
      have ha := State.answersFrame_ackOn s p f ((s.frameHeard p f).ackFor p) true
      refine ⟨_, exec_dataFrame_old hup h hc (fun e => by rw [e] at hge; omega) hge, ?_, ha.expect, ha.mem, ha.cores, ha.sems⟩
      rw [ha.out, State.ackFor_heard hheld]
    case multicast =>
      intro hs ho hheld hw hf
      exact ⟨exec_dataFrame_stored hup h hc hs ho hheld hw hf, exec_dataFrame_noWindow hup h hc hs ho hheld hw hf⟩
    case held => exact exec_dataFrame_holds hup h hc
    case credit => exact exec_controlFrame_credited hup h hc
    case acks =>
      intro q l hz
      exact ⟨fun hl => hl ▸ exec_controlFrame_acked hup h hc q hz, exec_controlFrame_refused hup h hc q hz⟩
    case abort => exact exec_controlFrame_aborted hup h hc

end Sys2Proof.Machine

/-! Proofs about the Foreshore engine: what the checks of a job read, the start of a job and its end (R218 to R234). -/

namespace Sys2Proof.Machine

/-! ### Reads leave Harbour's regions (R245) -/

/-- The keys of the control registers of a Harbour half, its regions among them. -/
def regionKey (k : Nat) : Prop := (∃ h : Fin 2, k / 4096 = (Pg.harbour h).index) ∧ k % 4096 < 0x200

/-- From s to t no control register of a Harbour half has changed. -/
def State.sameRegions (s t : State) : Prop := ∀ k, regionKey k → t.reg k = s.reg k

theorem regionKey_regKey {h : Fin 2} {r : RegName} {i : Nat} (hr : r.off i < 0x200) : regionKey (regKey (.harbour h) r i) := by
  unfold regionKey regKey
  exact ⟨⟨h, by omega⟩, by omega⟩

theorem not_regionKey_counter {h : Fin 2} {r : RegName} {i : Nat} (hr : 0x200 ≤ r.off i ∧ r.off i < 4096) :
    ¬regionKey (regKey (.harbour h) r i) := by
  unfold regionKey regKey
  omega

theorem not_regionKey_page {p : Pg} {r : RegName} {i : Nat} (hp : ∀ h : Fin 2, p.index ≠ (Pg.harbour h).index) (hr : r.off i < 4096) :
    ¬regionKey (regKey p r i) := by
  rintro ⟨⟨h, hh⟩, -⟩
  have := hp h
  unfold regKey at hh
  omega

theorem not_regionKey_hbm {k : Fin 12} {r : RegName} {i : Nat} (hr : r.off i < 4096) : ¬regionKey (regKey (.hbm k) r i) :=
  not_regionKey_page (by revert k; decide) hr

theorem not_regionKey_cxl {p : Fin 2} {r : RegName} {i : Nat} (hr : r.off i < 4096) : ¬regionKey (regKey (.cxl p) r i) :=
  not_regionKey_page (by revert p; decide) hr

section
variable {s t u : State}

theorem State.sameRegions_of_regs (h : t.regs = s.regs) : s.sameRegions t := fun k _ => State.reg_congr h k

theorem State.sameRegions_trans (h : s.sameRegions t) (k : t.sameRegions u) : s.sameRegions u :=
  fun i hi => (k i hi).trans (h i hi)

theorem State.sameRegions_foldl {α : Type} {f : State → α → State} (hf : ∀ (s : State) (x : α), s.sameRegions (f s x)) (l : List α)
    (s : State) : s.sameRegions (l.foldl f s) := by
  induction l generalizing s with
  | nil => exact State.sameRegions_of_regs rfl
  | cons x l ih => exact State.sameRegions_trans (hf s x) (ih _)

theorem State.sameRegions_bump (s : State) {p : Pg} {r : RegName} {i : Nat} (h : ¬regionKey (regKey p r i)) (n : Nat) :
    s.sameRegions (s.bump p r i n) := fun k hk => by
  have hne : regKey p r i ≠ k := fun e => h (by rw [e]; exact hk)
  rw [State.reg_bump, if_neg hne]

theorem State.sameRegions_bumpFree (s : State) {p : Pg} {r : RegName} {i : Nat} (h : ¬regionKey (regKey p r i)) :
    s.sameRegions (s.bumpFree p r i) :=
  State.sameRegions_trans (t := s.draw.2) (State.sameRegions_of_regs rfl) (State.sameRegions_bump _ h _)

theorem State.sameRegions_bumpAllFree (s : State) {p : Pg} {l : List RegName} (h : ∀ r ∈ l, ¬regionKey (regKey p r 0)) :
    s.sameRegions (s.bumpAllFree p l) := by
  unfold State.bumpAllFree
  induction l generalizing s with
  | nil => exact State.sameRegions_of_regs rfl
  | cons r l ih =>
    exact State.sameRegions_trans (State.sameRegions_bumpFree s (h r List.mem_cons_self))
      (ih _ (fun x hx => h x (List.mem_cons_of_mem _ hx)))

theorem State.sameRegions_prefetched (s : State) (line : Nat) {r : RegName} (hr : 0x200 ≤ r.off 0 ∧ r.off 0 < 4096) {k : Nat} (hk : k ≤ 4) :
    s.sameRegions (s.prefetched line r k) := by
  unfold State.prefetched
  split
  · exact State.sameRegions_of_regs rfl
  · exact State.sameRegions_trans (State.sameRegions_bump { s with pfLines := FMap.del s.pfLines line } (not_regionKey_counter hr) _)
      (State.sameRegions_bump _ (not_regionKey_counter (by simp only [RegName.off]; omega)) _)

theorem State.sameRegions_wcFlushed (s : State) (k : Fin 12) (e : WcEntry) : s.sameRegions (s.wcFlushed k e) := by
  have hf := State.sameRegions_bump s (not_regionKey_hbm (k := k) (r := .hbmWcFlushes) (i := 0) (by decide)) 1
  unfold State.wcFlushed
  dsimp only
  split
  · exact State.sameRegions_trans hf (State.sameRegions_bump _ (not_regionKey_hbm (by decide)) _)
  · exact hf

theorem State.sameRegions_setWc_wcFlushed (s : State) (k : Fin 12) (l : List WcEntry) (e : WcEntry) :
    s.sameRegions ((s.setWc k l).wcFlushed k e) :=
  State.sameRegions_trans (State.sameRegions_of_regs rfl) (State.sameRegions_wcFlushed (s.setWc k l) k e)

/-- The last step of a write into a buffer: an entry that is covered whole leaves. -/
theorem State.sameRegions_wcDone (s : State) (k : Fin 12) (line : Nat) (l : List WcEntry) :
    s.sameRegions (match l.find? (fun e => e.line = line && e.mask == BitVec.allOnes 128) with
      | some e => (s.setWc k (l.filter (·.line ≠ line))).wcFlushed k e
      | none => s.setWc k l) := by
  split
  · exact State.sameRegions_setWc_wcFlushed _ _ _ _
  · exact State.sameRegions_of_regs rfl

theorem State.sameRegions_wcPut (s : State) (line : Nat) (m : BitVec 128) : s.sameRegions (s.wcPut line m) := by
  unfold State.wcPut
  dsimp only
  refine State.sameRegions_trans ?_ (State.sameRegions_wcDone _ _ _ _)
  split
  · split
    · exact State.sameRegions_setWc_wcFlushed _ _ _ _
    · exact State.sameRegions_of_regs rfl
  · exact State.sameRegions_of_regs rfl

theorem State.sameRegions_lineBack (s : State) (line : Nat) : s.sameRegions (s.lineBack line) := by
  have hb := State.sameRegions_bump s (not_regionKey_counter (h := halfOf (line * 128)) (r := .hbWritebacks) (i := 0) (by decide))
    (s.dirty.filter (fun x => x / 2 = line)).length
  unfold State.lineBack
  dsimp only
  split
  · split
    · exact State.sameRegions_trans hb (State.sameRegions_wcPut _ _ _)
    · exact hb
  · exact hb

theorem State.sameRegions_lineIn (s : State) (line : Nat) : s.sameRegions (s.lineIn line) := by
  refine State.sameRegions_trans (t := s.wayFor line) ?_ (State.sameRegions_of_regs (State.regs_wcTake _ line))
  unfold State.wayFor
  dsimp only
  split
  · exact State.sameRegions_of_regs rfl
  · split
    · exact State.sameRegions_of_regs rfl
    · split
      · next v _ =>
        exact State.sameRegions_trans (State.sameRegions_prefetched s v (by decide) (by decide)) (State.sameRegions_lineBack _ v)
      · exact State.sameRegions_of_regs rfl

theorem State.sameRegions_lineUse (s : State) (write alloc : Bool) (line : Nat) : s.sameRegions (s.lineUse write alloc line) := by
  have hb {r : RegName} (hr : 0x200 ≤ r.off 0 ∧ r.off 0 < 4096) :=
    State.sameRegions_bump s (not_regionKey_counter (h := halfOf (line * 128)) hr) 1
  unfold State.lineUse
  dsimp only
  split
  · refine State.sameRegions_trans (hb (r := .hbHits) (by decide)) ?_
    split
    · exact State.sameRegions_prefetched _ line (by decide) (by decide)
    · exact State.sameRegions_prefetched _ line (by decide) (by decide)
  · split
    · exact State.sameRegions_trans (hb (r := .hbMisses) (by decide)) (State.sameRegions_lineIn _ _)
    · exact hb (by decide)

theorem State.sameRegions_traffic (s : State) (cl a lines : Nat) : s.sameRegions (s.traffic cl a lines) := by
  have hhbm : ∀ r ∈ [RegName.hbmRdBytes, .hbmWrBytes, .hbmTurnarounds, .hbmActivates, .hbmRefreshStallCycles, .hbmRegWaitCycles,
      .hbmQueueFullCycles], r.off 0 < 4096 := by decide
  have hcxl : ∀ r ∈ [RegName.cxlRdBytes, .cxlWrBytes, .cxlLinkRetries], r.off 0 < 4096 := by decide
  unfold State.traffic
  split
  · exact State.sameRegions_of_regs rfl
  · refine State.sameRegions_trans
      (State.sameRegions_bumpFree s (not_regionKey_counter (h := halfOf a) (r := .hbMshrFullCycles) (i := 0) (by decide))) ?_
    dsimp only
    split
    · refine State.sameRegions_trans ?_
        (State.sameRegions_foldl (fun t k => State.sameRegions_bumpAllFree t (fun r hr => not_regionKey_hbm (k := k) (hhbm r hr))) _ _)
      exact State.sameRegions_of_regs rfl
    · split
      · exact State.sameRegions_bumpAllFree _ (fun r hr => not_regionKey_cxl (hcxl r hr))
      · exact State.sameRegions_of_regs rfl

theorem State.sameRegions_reads (s : State) (cl a n : Nat) : s.sameRegions (s.reads cl a n) := by
  unfold State.reads
  split
  · exact State.sameRegions_of_regs rfl
  · exact State.sameRegions_trans (State.sameRegions_foldl (fun t _ => State.sameRegions_lineUse t _ _ _) _ s)
      (State.sameRegions_traffic _ _ _ _)

theorem State.sameDecoders_reads (s : State) (cl a n : Nat) : s.sameDecoders (s.reads cl a n) := by
  unfold State.reads
  split
  · exact State.sameDecoders_of_regs rfl
  · exact State.sameDecoders_trans (State.sameDecoders_foldl (fun t _ => State.sameDecoders_lineUse t _ _ _) _ s)
      (State.sameDecoders_traffic _ _ _ _)

end

/-- A search whose test and result agree on the members of a list. -/
theorem find?_map_congr {α β : Type} {f g : α → Bool} {F G : α → β} {l : List α} (hf : ∀ x ∈ l, f x = g x) (hF : ∀ x ∈ l, F x = G x) :
    (l.find? f).map F = (l.find? g).map G := by
  induction l with
  | nil => rfl
  | cons x l ih =>
    have ih := ih (fun y hy => hf y (List.mem_cons_of_mem _ hy)) (fun y hy => hF y (List.mem_cons_of_mem _ hy))
    rw [List.find?_cons, List.find?_cons, hf x List.mem_cons_self]
    split
    · exact congrArg some (hF x List.mem_cons_self)
    · exact ih

/-! ### What a check of an access reads (R236, R240, R245, R269) -/

/-- From s to t memory and where its addresses lead are the same: a check of an access finds what it found. -/
structure State.sameRoutes (s t : State) : Prop where
  mem : t.mem = s.mem
  bad : t.bad = s.bad
  code : t.code = s.code
  cores : t.cores = s.cores
  decoders : s.sameDecoders t
  regions : s.sameRegions t

section
variable {s t u : State}

theorem State.sameRoutes_trans (h : s.sameRoutes t) (k : t.sameRoutes u) : s.sameRoutes u :=
  ⟨k.mem.trans h.mem, k.bad.trans h.bad, k.code.trans h.code, k.cores.trans h.cores, State.sameDecoders_trans h.decoders k.decoders,
    State.sameRegions_trans h.regions k.regions⟩

theorem State.sameRoutes_reads (s : State) (cl a n : Nat) : s.sameRoutes (s.reads cl a n) := by
  have h := (State.reads_through s cl a n).1
  exact ⟨by rw [h], by rw [h], by rw [h], by rw [h], State.sameDecoders_reads _ _ _ _, State.sameRegions_reads _ _ _ _⟩

theorem State.sameRoutes_word (h : s.sameRoutes t) (a : Nat) : t.word a = s.word a :=
  State.word_congr (State.byte_congr h.mem) a

theorem State.sameRoutes_badIn (h : s.sameRoutes t) (a n : Nat) : t.badIn a n = s.badIn a n := by
  unfold State.badIn
  rw [h.bad]

theorem State.sameRoutes_decoderAt (h : s.sameRoutes t) (p : Fin 2) (a : Nat) : t.decoderAt p a = s.decoderAt p a := by
  have hstate (n : Nat) (hn : n < 8) : t.decState p n = s.decState p n := State.decState_same h.decoders hn
  have hwindow (n : Nat) (hn : n < 8) : t.decWindow p n = s.decWindow p n := by
    unfold State.decWindow State.fld
    rw [h.decoders p n hn]
  refine find?_map_congr (fun n hn => ?_) (fun n hn => ?_)
  · rw [hstate n (List.mem_range.1 hn), hwindow n (List.mem_range.1 hn)]
  · rw [hstate n (List.mem_range.1 hn)]

theorem State.sameRoutes_coreLive (h : s.sameRoutes t) (c : Nat) : t.coreLive c = s.coreLive c := by
  unfold State.coreLive
  rw [h.code, State.core_congr h.cores]

theorem State.sameRoutes_reach (h : s.sameRoutes t) (a : Nat) : t.reach a = s.reach a := by
  unfold State.reach
  simp only [h.code, State.sameRoutes_decoderAt h, State.sameRoutes_coreLive h]

theorem State.sameRoutes_reachRange (h : s.sameRoutes t) (a fuel off : Nat) : t.reachRange a fuel off = s.reachRange a fuel off := by
  induction fuel generalizing off with
  | zero => rfl
  | succ fuel ih =>
    rw [State.reachRange, State.reachRange, State.sameRoutes_reach h]
    split
    · exact ih _
    · rfl

theorem State.sameRoutes_access (h : s.sameRoutes t) (a n : Nat) : t.access a n = s.access a n := by
  unfold State.access
  rw [State.sameRoutes_reachRange h]

theorem State.sameRoutes_regionAt (h : s.sameRoutes t) (a : Nat) : t.regionAt a = s.regionAt a := by
  have hbase (n : Nat) (hn : n < 16) : t.rd (.harbour (halfOf a)) .hbRegionBase n = s.rd (.harbour (halfOf a)) .hbRegionBase n :=
    h.regions _ (regionKey_regKey (by simp only [RegName.off]; omega))
  have hsize (n : Nat) (hn : n < 16) : t.rd (.harbour (halfOf a)) .hbRegionSize n = s.rd (.harbour (halfOf a)) .hbRegionSize n :=
    h.regions _ (regionKey_regKey (by simp only [RegName.off]; omega))
  unfold State.regionAt State.fld
  refine find?_map_congr (fun n hn => ?_) (fun n hn => ?_)
  · dsimp only
    rw [hbase n (List.mem_range.1 hn), hsize n (List.mem_range.1 hn)]
  · rw [hbase n (List.mem_range.1 hn)]

theorem State.sameRoutes_joinRuns (h : s.sameRoutes t) (l : List (Nat × List Byte)) : t.joinRuns l = s.joinRuns l := by
  induction l with
  | nil => rfl
  | cons x l ih =>
    obtain ⟨a, bs⟩ := x
    rw [State.joinRuns, State.joinRuns, ih, State.sameRoutes_regionAt h]

theorem State.sameRoutes_writeCut (h : s.sameRoutes t) (a n : Nat) : t.writeCut a n = s.writeCut a n := by
  unfold State.writeCut State.runs
  rw [State.sameRoutes_joinRuns h]

end

section
variable {s t u : State}

/-! ### The checks of a job (R231) -/

theorem State.sameRoutes_fsAddr (h : s.sameRoutes t) (j : FsJob) : t.fsAddr j = s.fsAddr j := by
  unfold State.fsAddr
  simp only [State.sameRoutes_access h, State.sameRoutes_writeCut h]

theorem State.sameRoutes_fsCtxOk (h : s.sameRoutes t) (j : FsJob) : t.fsCtxOk j = s.fsCtxOk j := by
  unfold State.fsCtxOk
  rw [State.sameRoutes_word h, State.sameRoutes_word h]

theorem State.sameRoutes_fsCheck (h : s.sameRoutes t) (hn : t.now = s.now) (j : FsJob) : t.fsCheck j = s.fsCheck j := by
  unfold State.fsCheck
  rw [State.sameRoutes_access h, State.sameRoutes_badIn h, State.sameRoutes_fsAddr h, State.sameRoutes_fsCtxOk h, hn]

theorem State.fsJob_congr (h : t.fore = s.fore) (x : Fin 2) : t.fsJob x = s.fsJob x := by
  unfold State.fsJob
  rw [h]

theorem State.fsTaken_congr (h : t.fore = s.fore) (x : Fin 2) (j : FsJob) : t.fsTaken x j = s.fsTaken x j := by
  unfold State.fsTaken
  rw [State.fsJob_congr h]

/-- The addresses of a job that passes its checks are good (R231). -/
theorem State.fsAddr_of_fsCheck {j : FsJob} (h : s.fsCheck j = .ok) : s.fsAddr j = .ok := by
  unfold State.fsCheck at h
  by_contra hne
  split at h
  · cases h
  split at h
  · cases h
  split at h
  · exact absurd h ‹_›
  split at h
  · cases h
  split at h
  · cases h
  split at h
  · cases h
  exact hne h

/-- The context of a job that passes its checks begins at a multiple of 64 (R231). -/
theorem State.ctx_aligned {j : FsJob} (h : s.fsCheck j = .ok) : j.ctx % 64 = 0 := by
  by_cases hz : j.ctx = 0
  · rw [hz]
  have haddr := State.fsAddr_of_fsCheck h
  by_contra hal
  unfold State.fsAddr at haddr
  dsimp only at haddr
  split at haddr
  · next st hst =>
    obtain ⟨x, -, hx⟩ := List.exists_of_findSome?_eq_some hst
    subst haddr
    split at hx
    · cases hx
    · split at hx
      · cases hx
      · next hno => exact hno (Option.some.inj hx)
  · next hnone =>
    rw [List.findSome?_eq_none_iff] at hnone
    have hc := hnone (j.ctx, j.ctxBytes) (by rw [if_neg hz]; simp)
    rw [if_pos hal] at hc
    cases hc

/-! ### The job of an engine (R234) -/

/-- The code of FS_STAT.state with a job, or without one (R234). -/
def State.fsCode (s : State) (h : Fin 2) : Option FsJob → Nat
  | some j => if j.waiting then 2 else 1
  | none => if bit1 (s.rd (.foreshore h) .fsCtrl 0) 0 then 0 else 3

theorem State.setFsJob_eq (s : State) (h : Fin 2) (x : Option FsJob) :
    s.setFsJob h x = { s with fore := FMap.set none s.fore h.val x }.setFld (.foreshore h) .fsStat 0 1 0 (s.fsCode h x) := by
  cases x <;> rfl

theorem State.fsJob_setFsJob_same (s : State) (h : Fin 2) (x : Option FsJob) : (s.setFsJob h x).fsJob h = x := by
  rw [State.setFsJob_eq]
  exact FMap.get_set_same _ _ _ _

theorem State.fsJob_setFsJob_other (s : State) (h : Fin 2) (x : Option FsJob) : (s.setFsJob h x).fsJob (h + 1) = s.fsJob (h + 1) := by
  rw [State.setFsJob_eq]
  exact FMap.get_set_other _ _ _ _ _ _ (by revert h; decide)

theorem State.rd_setFsJob_stat (s : State) (h : Fin 2) (x : Option FsJob) :
    (s.setFsJob h x).rd (.foreshore h) .fsStat 0 = setBits (s.rd (.foreshore h) .fsStat 0) 1 0 (s.fsCode h x) := by
  rw [State.setFsJob_eq]
  exact State.rd_setFld_same ..

theorem State.fsCode_lt (s : State) (h : Fin 2) (x : Option FsJob) : s.fsCode h x < 4 := by
  cases x <;> unfold State.fsCode <;> dsimp only <;> split <;> decide

theorem State.fld_setFsJob_state (s : State) (h : Fin 2) (x : Option FsJob) :
    (s.setFsJob h x).fld (.foreshore h) .fsStat 0 1 0 = s.fsCode h x := by
  unfold State.fld
  rw [State.rd_setFsJob_stat, bits_setBits_same (by decide)]
  exact Nat.mod_eq_of_lt (State.fsCode_lt s h x)

theorem State.setFsJob_regs (s : State) (h : Fin 2) (x : Option FsJob) : s.regsBut (s.setFsJob h x) [regKey (.foreshore h) .fsStat 0] := by
  rw [State.setFsJob_eq]
  exact State.regsBut_wr (State.regsBut_refl rfl _) (List.mem_singleton_self _)

theorem State.setFsJob_rest (s : State) (h : Fin 2) (x : Option FsJob) :
    s.setFsJob h x = { s with regs := (s.setFsJob h x).regs, fore := (s.setFsJob h x).fore } := by
  rw [State.setFsJob_eq]
  rfl

/-! ### A store that covers no 32-byte word whole (R239) -/

theorem State.bad_store (s : State) {a : Nat} {bs : List Byte} (h : (a + bs.length) / 32 ≤ ceilDiv a 32) : (s.store a bs).bad = s.bad := by
  have hpoke : (s.poke a bs).bad = s.bad := by
    unfold State.poke KeySet.delRange coveredWords
    refine List.filter_eq_self.2 (fun k _ => ?_)
    simp only [Bool.or_eq_true, decide_eq_true_eq]
    omega
  unfold State.store
  dsimp only
  split
  · rfl
  · split
    · exact (congrArg State.bad (State.lines_behind (s.poke a bs) true true (linesOf a bs.length)).1).trans hpoke
    · exact hpoke

/-- A word at the start of a 32-byte word covers none whole. -/
theorem State.bad_store_word (s : State) {a : Nat} (h : a % 64 = 0) (x : Nat) : (s.store a (leBytes x 8)).bad = s.bad := by
  refine State.bad_store s ?_
  rw [leBytes_length]
  unfold ceilDiv
  omega

end

section
variable {s t u : State} {h : Fin 2} {j : FsJob}

/-! ### A job begins (R223, R233) -/

/-- From s to t a job has begun to run: FS_STAT shows it, and it has bound an unbound context. -/
structure State.begins (s t : State) (h : Fin 2) (j : FsJob) : Prop where
  job : t.fsJob h = some j
  other : t.fsJob (h + 1) = s.fsJob (h + 1)
  stat : t.fld (.foreshore h) .fsStat 0 1 0 = 1
  regs : s.regsBehind t [regKey (.foreshore h) .fsStat 0]
  bound : j.ctx ≠ 0 → s.word j.ctx = 0 → t.word j.ctx = BitVec.ofNat 64 j.stack
  still : j.ctx = 0 ∨ s.word j.ctx ≠ 0 → t.mem = s.mem
  bytes : s.bytesBut t [(j.ctx, 8)]
  bad : t.bad = s.bad
  rest : t = { s.cacheOf t with regs := t.regs, fore := t.fore, mem := t.mem, freeIx := t.freeIx }

theorem State.begins_of_through (hs : s.through t) (k : t.begins u h j) : s.begins u h j := by
  have hrest := hs.1
  have hbyte (a : Nat) : t.byte a = s.byte a := State.byte_congr (by rw [hrest]) a
  exact {
    job := k.job
    other := k.other.trans (State.fsJob_congr (by rw [hrest]) _)
    stat := k.stat
    regs := fun i hn hm => (k.regs i hn hm).trans (hs.2 i hm)
    bound := fun hc hw => k.bound hc ((State.word_congr hbyte _).trans hw)
    still := fun hc => (k.still (hc.imp_right (fun hw => by rwa [State.word_congr hbyte]))).trans (by rw [hrest])
    bytes := fun a ha => (k.bytes a ha).trans (hbyte a)
    bad := k.bad.trans (by rw [hrest])
    rest := by rw [k.rest, hrest]; rfl }

/-- The setting of FS_STAT and of the job, from a state that has bound the context. -/
theorem State.begins_setFsJob (hw : j.waiting = false) (hfore : t.fore = s.fore) (hbad : t.bad = s.bad)
    (hregs : ∀ k, memoryKey k = false → t.reg k = s.reg k)
    (bound : j.ctx ≠ 0 → s.word j.ctx = 0 → t.word j.ctx = BitVec.ofNat 64 j.stack)
    (still : j.ctx = 0 ∨ s.word j.ctx ≠ 0 → t.mem = s.mem) (bytes : s.bytesBut t [(j.ctx, 8)])
    (hrest : t = { s.cacheOf t with regs := t.regs, mem := t.mem, bad := t.bad }) : s.begins (t.setFsJob h (some j)) h j := by
  have hrest : t = { s.cacheOf t with regs := t.regs, mem := t.mem } := hrest.trans (by rw [hbad]; rfl)
  have hset := State.setFsJob_rest t h (some j)
  have hkeys := State.setFsJob_regs t h (some j)
  have hjob := State.fsJob_setFsJob_same t h (some j)
  have hother := State.fsJob_setFsJob_other t h (some j)
  have hstat := State.fld_setFsJob_state t h (some j)
  generalize t.setFsJob h (some j) = u at hset hkeys hjob hother hstat
  have hbyte (a : Nat) : u.byte a = t.byte a := State.byte_congr (by rw [hset]) a
  exact {
    job := hjob
    other := hother.trans (State.fsJob_congr hfore _)
    stat := by rw [hstat, State.fsCode, hw]; rfl
    regs := fun k hn hm => (hkeys k hn).trans (hregs k hm)
    bound := fun hc hz => (State.word_congr hbyte _).trans (bound hc hz)
    still := fun hc => by rw [← still hc, hset]
    bytes := fun a ha => (hbyte a).trans (bytes a ha)
    bad := by rw [hset]; exact hbad
    rest := by rw [hset, hrest]; rfl }

/-- A job whose context is free runs (R223, R233). -/
theorem State.begins_fsBegin (hw : j.waiting = false) (hc : j.ctx % 64 = 0) (hfree : s.fsTaken h j = false) :
    s.begins (s.fsBegin h j) h j := by
  have hj : { j with waiting := false } = j := by rw [← hw]
  unfold State.fsBegin
  rw [hfree, if_neg Bool.false_ne_true]
  dsimp only
  rw [hj]
  split
  · next hb =>
    have hst := State.store_behind s j.ctx (leBytes j.stack 8)
    refine State.begins_setFsJob hw ?_ (State.bad_store_word s hc _) (fun k hk => State.reg_store s _ _ hk) ?_ ?_ ?_ ?_
    · rw [hst]
    · intro _ _
      have hstack : (BitVec.ofNat 64 j.stack).toNat = j.stack := by
        rw [BitVec.toNat_ofNat]
        exact Nat.mod_eq_of_lt (lt_trans (bits_lt ..) (by decide))
      rw [← hstack]
      exact (State.word_store_same s j.ctx (BitVec.ofNat 64 j.stack)).trans (by rw [hstack])
    · exact fun hno => absurd hb (by rintro ⟨h1, h2⟩; exact hno.elim h1 (fun e => e h2))
    · exact State.bytesBut_store (fun _ _ => rfl) ⟨_, List.mem_singleton_self _, le_rfl, by rw [leBytes_length]⟩
    · generalize s.store j.ctx (leBytes j.stack 8) = v at hst
      rw [hst]
      rfl
  · next hb =>
    refine State.begins_setFsJob hw rfl rfl (fun _ _ => rfl) (fun h1 h2 => absurd ⟨h1, h2⟩ hb) (fun _ => rfl) (fun _ _ => rfl) rfl

/-- From s to t a job waits for its context (R233). -/
structure State.waitsForCtx (s t : State) (h : Fin 2) (j : FsJob) : Prop where
  job : t.fsJob h = some { j with waiting := true }
  stat : t.fld (.foreshore h) .fsStat 0 1 0 = 2
  mem : t.mem = s.mem
  regs : s.regsBehind t [regKey (.foreshore h) .fsStat 0, regKey (.foreshore h) .fsCtxWaitCycles 0]
  rest : t = { s.cacheOf t with regs := t.regs, fore := t.fore, freeIx := t.freeIx }

theorem State.waitsForCtx_of_through (hs : s.through t) (k : t.waitsForCtx u h j) : s.waitsForCtx u h j := by
  have hrest := hs.1
  exact {
    job := k.job
    stat := k.stat
    mem := k.mem.trans (by rw [hrest])
    regs := fun i hn hm => (k.regs i hn hm).trans (hs.2 i hm)
    rest := by rw [k.rest, hrest]; rfl }

/-- A job whose context the other engine runs a job on waits, and its wait is counted (R233). -/
theorem State.waitsForCtx_fsBegin (hbusy : s.fsTaken h j = true) : s.waitsForCtx (s.fsBegin h j) h j := by
  have hwait := State.bumpFree_eq s (.foreshore h) .fsCtxWaitCycles 0
  have hcount : s.regsBut (s.bumpFree (.foreshore h) .fsCtxWaitCycles 0) [regKey (.foreshore h) .fsCtxWaitCycles 0] :=
    State.regsBut_bumpFree (State.regsBut_refl rfl _) (List.mem_singleton_self _)
  unfold State.fsBegin
  rw [if_pos hbusy]
  generalize s.bumpFree (.foreshore h) .fsCtxWaitCycles 0 = v at hwait hcount
  have hset := State.setFsJob_rest v h (some { j with waiting := true })
  have hkeys := State.setFsJob_regs v h (some { j with waiting := true })
  have hjob := State.fsJob_setFsJob_same v h (some { j with waiting := true })
  have hstat := State.fld_setFsJob_state v h (some { j with waiting := true })
  generalize v.setFsJob h (some { j with waiting := true }) = u at hset hkeys hjob hstat
  exact {
    job := hjob
    stat := hstat
    mem := by rw [hset, hwait]
    regs := fun k hn _ => by
      simp only [List.mem_cons, List.not_mem_nil, or_false, not_or] at hn
      exact (hkeys k (by simpa using hn.1)).trans (hcount k (by simpa using hn.2))
    rest := by rw [hset, hwait]; rfl }

/-! ### FS_JOB_START (R231, R233) -/

/-- The job that the ring's next entry describes (R230). -/
def State.fsNext (s : State) (h : Fin 2) : FsJob :=
  let n := s.fld (.foreshore h) .fsRingHead 0 31 0
  let a := s.fsSlot h n
  { words := s.words a 8, layers := s.words (bits (s.word a) 47 0) (4 * (bits (s.word a) 51 48 + 1)), ix := n, started := s.now }

/-- The state after a descriptor and its stack have been read. -/
def State.fsFetched (s : State) (h : Fin 2) (j : FsJob) : State :=
  (s.reads j.cls (s.fsSlot h j.ix) 64).reads j.cls j.stack (32 * j.count)

theorem State.through_fsFetched (s : State) (h : Fin 2) (j : FsJob) : s.through (s.fsFetched h j) :=
  State.through_trans (State.reads_through ..) (State.reads_through ..)

theorem State.sameRoutes_fsFetched (s : State) (h : Fin 2) (j : FsJob) : s.sameRoutes (s.fsFetched h j) :=
  State.sameRoutes_trans (State.sameRoutes_reads ..) (State.sameRoutes_reads ..)

theorem exec_fsJobStart_still (hup : s.up) (hj : s.fsJob h = none)
    (hno : bit1 (s.rd (.foreshore h) .fsCtrl 0) 0 = false ∨
      s.fld (.foreshore h) .fsRingHead 0 31 0 = s.fld (.foreshore h) .fsRingTail 0 31 0) : exec (.fsJobStart h) s = .next s := by
  rw [exec_fsJobStart, execFsJobStart, State.awake_up hup, hj]
  dsimp only
  rw [if_pos (hno.elim (fun e => .inl (by rw [e]; rfl)) (fun e => .inr (.inl e)))]

theorem exec_fsJobStart_next (hup : s.up) (hrun : s.live (.foreshore h) = .running) (hj : s.fsJob h = none)
    (hon : bit1 (s.rd (.foreshore h) .fsCtrl 0) 0 = true)
    (hne : s.fld (.foreshore h) .fsRingHead 0 31 0 ≠ s.fld (.foreshore h) .fsRingTail 0 31 0)
    (hacc : s.access (s.fsSlot h (s.fsNext h).ix) 64 = .ok) (hbad : s.badIn (s.fsSlot h (s.fsNext h).ix) 64 = none)
    (hck : s.fsCheck (s.fsNext h) = .ok) :
    exec (.fsJobStart h) s = .next ((s.fsFetched h (s.fsNext h)).fsBegin h (s.fsNext h)) := by
  have hr := State.sameRoutes_fsFetched s h (s.fsNext h)
  have hnow : (s.fsFetched h (s.fsNext h)).now = s.now := by rw [(State.through_fsFetched s h (s.fsNext h)).1]
  have ha := (State.sameRoutes_access hr (s.fsSlot h (s.fsNext h).ix) 64).trans hacc
  have hb := (State.sameRoutes_badIn hr (s.fsSlot h (s.fsNext h).ix) 64).trans hbad
  have hc := (State.sameRoutes_fsCheck hr hnow (s.fsNext h)).trans hck
  rw [exec_fsJobStart, execFsJobStart, State.awake_up hup, hj]
  dsimp only
  rw [if_neg (by rw [hon, hrun]; simpa using hne)]
  show Host.Outcome.next (if (s.fsFetched h (s.fsNext h)).access (s.fsSlot h (s.fsNext h).ix) 64 ≠ .ok then _
    else if ((s.fsFetched h (s.fsNext h)).badIn (s.fsSlot h (s.fsNext h).ix) 64).isSome then _
    else if (s.fsFetched h (s.fsNext h)).fsCheck (s.fsNext h) ≠ .ok then _ else _) = _
  rw [if_neg (by rw [ha]; simp), if_neg (by rw [hb]; simp), if_neg (by rw [hc]; simp)]
  rfl

theorem exec_fsJobStart_again (hup : s.up) (hrun : s.live (.foreshore h) = .running) (hj : s.fsJob h = some j) (hw : j.waiting = true)
    (hck : s.fsCheck j = .ok) : exec (.fsJobStart h) s =
      .next (if bit1 (s.rd (.foreshore h) .fsCtrl 0) 0 = true then s.fsBegin h j else s) := by
  rw [exec_fsJobStart, execFsJobStart, State.awake_up hup, hj]
  dsimp only
  cases hon : bit1 (s.rd (.foreshore h) .fsCtrl 0) 0 with
  | true => rw [if_neg (by rw [hw, hrun]; decide), if_neg (by rw [hck]; simp), if_pos rfl]
  | false => rw [if_pos (.inr (.inr rfl)), if_neg Bool.false_ne_true]

/-- The next job of the ring, where it can be read and passes its checks (R230, R231, R233). -/
theorem exec_fsJobStart_results {n a : Nat} (hup : s.up) (hrun : s.live (.foreshore h) = .running) (hj : s.fsJob h = none)
    (hon : bit1 (s.rd (.foreshore h) .fsCtrl 0) 0 = true) (hn : n = s.fld (.foreshore h) .fsRingHead 0 31 0)
    (hne : n ≠ s.fld (.foreshore h) .fsRingTail 0 31 0)
    (ha : a = s.fld (.foreshore h) .fsRingBase 0 47 6 * 64 + 64 * (n % 2 ^ s.fld (.foreshore h) .fsRingCfg 0 3 0))
    (hacc : s.access a 64 = .ok) (hbad : s.badIn a 64 = none)
    (hd : j = { words := s.words a 8, layers := s.words (bits (s.word a) 47 0) (4 * (bits (s.word a) 51 48 + 1)), ix := n,
                started := s.now }) (hck : s.fsCheck j = .ok) :
    (s.fsTaken h j = false → ∃ t, exec (.fsJobStart h) s = .next t ∧ s.begins t h j) ∧
      (s.fsTaken h j = true → ∃ t, exec (.fsJobStart h) s = .next t ∧ s.waitsForCtx t h j) := by
  subst hn
  have hslot : a = s.fsSlot h (s.fld (.foreshore h) .fsRingHead 0 31 0) := ha
  subst hslot
  have hnext : j = s.fsNext h := hd
  subst hnext
  have he := exec_fsJobStart_next hup hrun hj hon hne hacc hbad hck
  have hthrough := State.through_fsFetched s h (s.fsNext h)
  have hfore : (s.fsFetched h (s.fsNext h)).fore = s.fore := by rw [hthrough.1]
  have htaken := State.fsTaken_congr hfore h (s.fsNext h)
  exact ⟨fun hfree => ⟨_, he, State.begins_of_through hthrough
      (State.begins_fsBegin rfl (State.ctx_aligned hck) (htaken.trans hfree))⟩,
    fun hbusy => ⟨_, he, State.waitsForCtx_of_through hthrough (State.waitsForCtx_fsBegin (htaken.trans hbusy))⟩⟩

/-- A job that waited runs once its context is free (R233). -/
theorem State.fsBegin_waited (hfree : s.fsTaken h j = false) :
    (s.fsBegin h j).fsJob h = some { j with waiting := false } ∧ (s.fsBegin h j).fld (.foreshore h) .fsStat 0 1 0 = 1 := by
  unfold State.fsBegin
  rw [hfree, if_neg Bool.false_ne_true]
  exact ⟨State.fsJob_setFsJob_same .., State.fld_setFsJob_state ..⟩

/-! ### FS_ABORT (R232, R234) -/

theorem exec_fsAbort_running (hup : s.up) (hj : s.fsJob h = some j) (hw : j.waiting = false) :
    exec (.fsAbort h) s = .next (s.setFsJob h (some { j with abort := true })) := by
  rw [exec_fsAbort, execFsAbort, State.awake_up hup, State.fsAbort, hj]
  dsimp only
  rw [hw, if_neg Bool.false_ne_true]

theorem exec_fsAbort_idle (hup : s.up) (hj : s.fsJob h = none) : exec (.fsAbort h) s = .next s := by
  rw [exec_fsAbort, execFsAbort, State.awake_up hup, State.fsAbort, hj]

end

section
variable {s t u : State} {h : Fin 2} {j : FsJob} {ks : List Nat}

/-! ### What an engine moves (R218 to R227, R232) -/

/-- From s to t an engine has read, counted and written: beside memory and what Harbour and the stacks keep, only registers with the
given keys and the count of free values drawn may differ. -/
structure State.fsWorks (s t : State) (ks : List Nat) : Prop where
  rest : t = { s with
    regs := t.regs, mem := t.mem, bad := t.bad, harbour := t.harbour, pfLines := t.pfLines, pf := t.pf, dirty := t.dirty, wc := t.wc,
    regulators := t.regulators, freeIx := t.freeIx }
  regs : s.regsBehind t ks

theorem State.fsWorks_refl (s : State) (ks : List Nat) : s.fsWorks s ks := ⟨rfl, fun _ _ _ => rfl⟩

theorem State.fsWorks_trans (hs : s.fsWorks t ks) (k : t.fsWorks u ks) : s.fsWorks u ks :=
  ⟨by rw [k.rest, hs.rest], fun i hn hm => (k.regs i hn hm).trans (hs.regs i hn hm)⟩

theorem State.fsWorks_of_copied {rs : List (Nat × Nat)} (hc : s.copied t rs) (ks : List Nat) : s.fsWorks t ks :=
  ⟨hc.rest, fun k _ hm => hc.regs k hm⟩

theorem State.fsWorks_of_writes (hw : s.writes t ks) : s.fsWorks t ks :=
  ⟨by rw [State.writes_eq hw], fun k hn _ => hw.regs k hn⟩

theorem State.fsWorks_freeIx (s : State) (n : Nat) (ks : List Nat) : s.fsWorks { s with freeIx := n } ks := ⟨rfl, fun _ _ _ => rfl⟩

theorem State.fsWorks_bump (s : State) {p : Pg} {r : RegName} {i n : Nat} (hk : regKey p r i ∈ ks) : s.fsWorks (s.bump p r i n) ks :=
  State.fsWorks_of_writes (State.writes_bump (State.writes_refl s ks) n hk)

theorem State.fsWorks_event (s : State) {p : Pg} (b : Nat) (hk : eventKeys p ⊆ ks) : s.fsWorks (s.event p b) ks :=
  State.fsWorks_of_writes (State.writes_event (State.writes_refl s ks) b hk)

theorem State.fsWorks_bumpFree (s : State) {p : Pg} {r : RegName} {i : Nat} (hk : regKey p r i ∈ ks) : s.fsWorks (s.bumpFree p r i) ks :=
  State.fsWorks_trans (State.fsWorks_freeIx s (s.freeIx + 1) ks) (State.fsWorks_bump _ hk)

theorem State.fsWorks_foldl {α : Type} {f : State → α → State} (l : List α) (hf : ∀ (s : State), ∀ x ∈ l, s.fsWorks (f s x) ks)
    (s : State) : s.fsWorks (l.foldl f s) ks := by
  induction l generalizing s with
  | nil => exact State.fsWorks_refl s ks
  | cons x l ih =>
    exact State.fsWorks_trans (hf s x List.mem_cons_self) (ih (fun s y hy => hf s y (List.mem_cons_of_mem _ hy)) _)

theorem State.fsWorks_bumpAllFree (s : State) {p : Pg} {l : List RegName} (hk : ∀ r ∈ l, regKey p r 0 ∈ ks) :
    s.fsWorks (s.bumpAllFree p l) ks :=
  State.fsWorks_foldl l (fun t r hr => State.fsWorks_bumpFree t (hk r hr)) s

theorem State.fsWorks_store (s : State) (a : Nat) (bs : List Byte) (ks : List Nat) : s.fsWorks (s.store a bs) ks :=
  State.fsWorks_of_copied (State.copied_store s ⟨_, List.mem_singleton_self (a, bs.length), le_rfl, le_rfl⟩) ks

theorem State.fsWorks_engineWrite (s : State) (cl a : Nat) (bs : List Byte) (ks : List Nat) : s.fsWorks (s.engineWrite cl a bs).2 ks :=
  State.fsWorks_of_copied (State.copied_engineWrite s cl ⟨_, List.mem_singleton_self (a, bs.length), le_rfl, le_rfl⟩) ks

theorem State.through_fsRead (s : State) (j : FsJob) : s.through (s.fsRead j) :=
  State.through_fold (fun t _ => State.reads_through t ..) _

theorem State.fsWorks_fsRead (s : State) (j : FsJob) (ks : List Nat) : s.fsWorks (s.fsRead j) ks :=
  State.fsWorks_of_copied (State.copied_of_through (State.through_fsRead s j) []) ks

/-! ### A job that commits (R218 to R227, R232) -/

/-- The counters that a job moves on its engine's page. -/
def fsCounters (h : Fin 2) : List Nat :=
  [RegName.fsCodecBlocksOut, .fsCodecBlocksIn, .fsMacCycles, .fsIoWaitCycles].map (regKey (.foreshore h) · 0)

/-- The registers that a job moves on its engine's page: its counters, and those of its events. -/
def fsKeys (h : Fin 2) : List Nat := fsCounters h ++ eventKeys (.foreshore h)

theorem mem_fsCounters {r : RegName} (hr : r ∈ [RegName.fsCodecBlocksOut, .fsCodecBlocksIn, .fsMacCycles, .fsIoWaitCycles]) :
    regKey (.foreshore h) r 0 ∈ fsCounters h := List.mem_map_of_mem hr

/-- The state after a job has read what it reads and written its maps, its history and its output. -/
def State.fsWritten (s : State) (j : FsJob) : State :=
  let r := s.fsRun j
  let t := r.writes.foldl (fun (s : State) (a, bs) => (s.engineWrite j.cls a bs).2) { s.fsRead j with freeIx := s.freeIx + 65536 * 18 }
  (t.engineWrite j.cls j.outAddr (j.outOf r s.freeIx)).2

/-- What a job has done is counted, with CODEC_NAN for a NaN block (R227, R234). -/
def State.fsCounted (s : State) (h : Fin 2) (out in_ : Nat) (nan : Bool) : State :=
  let t := (s.bump (.foreshore h) .fsCodecBlocksOut 0 out).bump (.foreshore h) .fsCodecBlocksIn 0 in_
  (if nan then t.event (.foreshore h) 5 else t).bumpAllFree (.foreshore h) [.fsMacCycles, .fsIoWaitCycles]

/-- frames_seen of a context advances (R223, R232). -/
def State.fsSeen (s : State) (j : FsJob) : State :=
  if j.ctx = 0 then s else s.store (j.ctx + 8) (leBytes ((s.word (j.ctx + 8)).toNat + 1) 8)

theorem State.fsCommit_eq (s : State) (h : Fin 2) (j : FsJob) :
    ∃ n, s.fsCommit h j = ((s.fsWritten j).fsCounted h n (s.fsRun j).blocksIn (s.fsRun j).nan).fsSeen j := ⟨_, rfl⟩

/-- The ranges that a job which commits writes. -/
def State.fsRanges (s : State) (j : FsJob) : List (Nat × Nat) :=
  (j.outAddr, (j.outOf (s.fsRun j) s.freeIx).length) :: (j.ctx + 8, 8) :: (s.fsRun j).writes.map (fun w => (w.1, w.2.length))

theorem State.copied_fsWritten (s : State) (j : FsJob) : s.copied (s.fsWritten j) (s.fsRanges j) := by
  have hread := State.copied_of_through (State.through_fsRead s j) (s.fsRanges j)
  have hfree : s.copied { s.fsRead j with freeIx := s.freeIx + 65536 * 18 } (s.fsRanges j) :=
    State.copied_trans hread ⟨rfl, fun _ _ => rfl, fun _ _ => rfl⟩
  refine State.copied_trans (State.copied_trans hfree (State.copied_foldl _ (fun t w hw => State.copied_engineWrite t _ ?_) _))
    (State.copied_engineWrite _ _ ⟨_, List.mem_cons_self, le_rfl, le_rfl⟩)
  exact ⟨(w.1, w.2.length), List.mem_cons_of_mem _ (List.mem_cons_of_mem _ (List.mem_map_of_mem hw)), le_rfl, le_rfl⟩

theorem State.fsWorks_fsCounted (s : State) (h : Fin 2) (out in_ : Nat) (nan : Bool) : s.fsWorks (s.fsCounted h out in_ nan) (fsKeys h) := by
  have hmem {r : RegName} (hr : r ∈ [RegName.fsCodecBlocksOut, .fsCodecBlocksIn, .fsMacCycles, .fsIoWaitCycles]) :
      regKey (.foreshore h) r 0 ∈ fsKeys h := List.mem_append_left _ (mem_fsCounters hr)
  have hfree : ∀ r ∈ [RegName.fsMacCycles, .fsIoWaitCycles], regKey (.foreshore h) r 0 ∈ fsKeys h :=
    fun r hr => hmem (by revert r; decide)
  have hb := State.fsWorks_trans (State.fsWorks_bump s (n := out) (hmem (r := .fsCodecBlocksOut) (by decide)))
    (State.fsWorks_bump _ (n := in_) (hmem (r := .fsCodecBlocksIn) (by decide)))
  unfold State.fsCounted
  refine State.fsWorks_trans hb (State.fsWorks_trans ?_ (State.fsWorks_bumpAllFree _ hfree))
  split
  · exact State.fsWorks_event _ 5 (List.subset_append_right ..)
  · exact State.fsWorks_refl ..

theorem State.mem_bumpAllFree (s : State) (p : Pg) (l : List RegName) : (s.bumpAllFree p l).mem = s.mem := by
  unfold State.bumpAllFree
  induction l generalizing s with
  | nil => rfl
  | cons r l ih => rw [List.foldl_cons, ih, State.bumpFree_mem]

theorem State.mem_fsCounted (s : State) (h : Fin 2) (out in_ : Nat) (nan : Bool) : (s.fsCounted h out in_ nan).mem = s.mem := by
  unfold State.fsCounted
  dsimp only
  rw [State.mem_bumpAllFree]
  split
  · simp
  · simp

/-- What a job that commits leaves: its maps, its history and its output, and the registers of its page. -/
structure State.fsCommits (s t : State) (h : Fin 2) (j : FsJob) : Prop where
  works : s.fsWorks t (fsKeys h)
  bytes : s.bytesBut t (s.fsRanges j)
  out : j.ctx = 0 → harbourAddr j.outAddr = false →
    t.bytes j.outAddr (j.outOf (s.fsRun j) s.freeIx).length = j.outOf (s.fsRun j) s.freeIx

/-- A write outside HBM4 and CXL memory stores its bytes. -/
theorem State.bytes_engineWrite_ledge (s : State) (cl : Nat) {a : Nat} (hl : harbourAddr a = false) (bs : List Byte) :
    (s.engineWrite cl a bs).2.bytes a bs.length = bs := by
  unfold State.engineWrite
  split
  · next he => rw [List.isEmpty_iff.1 he]; rfl
  · rw [hl, if_pos (by decide)]
    exact State.bytes_poke_same ..

/-- An output outside HBM4 and CXL memory stands where it was written. -/
theorem State.bytes_fsWritten (hl : harbourAddr j.outAddr = false) :
    (s.fsWritten j).bytes j.outAddr (j.outOf (s.fsRun j) s.freeIx).length = j.outOf (s.fsRun j) s.freeIx :=
  State.bytes_engineWrite_ledge _ _ hl _

theorem State.fsCommits_fsCommit (s : State) (h : Fin 2) (j : FsJob) : s.fsCommits (s.fsCommit h j) h j := by
  obtain ⟨n, he⟩ := State.fsCommit_eq s h j
  rw [he]
  have hc := State.copied_fsWritten s j
  have hout := State.bytes_fsWritten (s := s) (j := j)
  generalize s.fsWritten j = t at hc hout
  have hw := State.fsWorks_fsCounted t h n (s.fsRun j).blocksIn (s.fsRun j).nan
  have hm := State.mem_fsCounted t h n (s.fsRun j).blocksIn (s.fsRun j).nan
  generalize t.fsCounted h n (s.fsRun j).blocksIn (s.fsRun j).nan = u at hw hm
  have hbytes : s.bytesBut u (s.fsRanges j) := State.bytesBut_congr hc.bytes hm
  have hworks := State.fsWorks_trans (State.fsWorks_of_copied hc (fsKeys h)) hw
  unfold State.fsSeen
  split
  · next hz =>
    exact ⟨hworks, hbytes, fun _ hl => (State.bytes_congr (State.byte_congr hm) ..).trans (hout hl)⟩
  · next hz =>
    refine ⟨State.fsWorks_trans hworks (State.fsWorks_store ..), ?_, fun h0 => absurd h0 hz⟩
    exact State.bytesBut_store hbytes ⟨_, List.mem_cons_of_mem _ List.mem_cons_self, le_rfl, by rw [leBytes_length]⟩

end

section
variable {s t u : State} {h : Fin 2} {j : FsJob}

/-! ### The end of a job (R232) -/

theorem State.counted_foreshore {r : RegName} {i n : Nat} (hctrl : t.rd (.foreshore h) .fsCtrl 0 = s.rd (.foreshore h) .fsCtrl 0)
    (hr : t.rd (.foreshore h) r i = s.rd (.foreshore h) r i) (hsys : t.sys = s.sys) :
    t.counted (.foreshore h) r i n = s.counted (.foreshore h) r i n :=
  State.counted_congr (State.counting_congr rfl (show PageType.foreshore ≠ .harbour by decide) hctrl hsys) hr

/-- The head passes a job that has ended; it is counted, and the engine has no job (R232 to R234). -/
def State.fsRetire (s : State) (h : Fin 2) (j : FsJob) : State :=
  ((s.setFld (.foreshore h) .fsRingHead 0 31 0 (j.ix + 1)).bump (.foreshore h) .fsJobCount 0 1).setFsJob h none

/-- The registers that the end of a job writes, but for those of a failure. -/
def retireKeys (h : Fin 2) : List Nat := [RegName.fsRingHead, .fsJobCount, .fsStat].map (regKey (.foreshore h) · 0)

theorem fsKey_not_mem {h : Fin 2} {r : RegName} {l : List RegName} (hr : ∀ x ∈ l, r.off 0 ≠ x.off 0) :
    regKey (.foreshore h) r 0 ∉ l.map (regKey (.foreshore h) · 0) := by
  intro hm
  obtain ⟨x, hx, e⟩ := List.mem_map.1 hm
  exact regKey_ne (hr x hx) e.symm

/-- From s to t the head has passed a job, which is counted, and the engine has none (R232 to R234). -/
structure State.fsRetires (s t : State) (h : Fin 2) (j : FsJob) : Prop where
  job : t.fsJob h = none
  other : t.fsJob (h + 1) = s.fsJob (h + 1)
  head : t.fld (.foreshore h) .fsRingHead 0 31 0 = (j.ix + 1) % 2 ^ 32
  count : t.rd (.foreshore h) .fsJobCount 0 = s.counted (.foreshore h) .fsJobCount 0 1
  stat : ∀ hi lo, 1 < lo → t.fld (.foreshore h) .fsStat 0 hi lo = s.fld (.foreshore h) .fsStat 0 hi lo
  regs : s.regsBut t (retireKeys h)
  rest : t = { s with regs := t.regs, fore := t.fore }

theorem State.fsRetires_fsRetire (s : State) (h : Fin 2) (j : FsJob) : s.fsRetires (s.fsRetire h j) h j := by
  have hmem {r : RegName} (hr : r ∈ [RegName.fsRingHead, .fsJobCount, .fsStat]) : regKey (.foreshore h) r 0 ∈ retireKeys h :=
    List.mem_map_of_mem hr
  have hhead := State.writes_setFld (State.writes_refl s [regKey (.foreshore h) .fsRingHead 0]) 31 0 (j.ix + 1) (List.mem_singleton_self _)
  have hrd := State.rd_setFld_same s (.foreshore h) .fsRingHead 0 31 0 (j.ix + 1)
  unfold State.fsRetire
  generalize s.setFld (.foreshore h) .fsRingHead 0 31 0 (j.ix + 1) = t at hhead hrd
  have hcount := State.writes_bump (State.writes_refl t [regKey (.foreshore h) .fsJobCount 0]) 1 (List.mem_singleton_self _)
  have hjobs := State.rd_bump_same t (.foreshore h) .fsJobCount 0 1
  generalize t.bump (.foreshore h) .fsJobCount 0 1 = u at hcount hjobs
  have hset := State.setFsJob_rest u h none
  have hkeys := State.setFsJob_regs u h none
  have hjob := State.fsJob_setFsJob_same u h none
  have hother := State.fsJob_setFsJob_other u h none
  have hstat := State.rd_setFsJob_stat u h none
  generalize u.setFsJob h none = v at hset hkeys hjob hother hstat
  have hne {r x : RegName} (e : r.off 0 ≠ x.off 0) : regKey (.foreshore h) r 0 ∉ [regKey (.foreshore h) x 0] :=
    fun hm => regKey_ne e (List.mem_singleton.1 hm)
  have hurest : u = { s with regs := u.regs } := by rw [State.writes_eq hcount, State.writes_eq hhead]
  have hustat : u.rd (.foreshore h) .fsStat 0 = s.rd (.foreshore h) .fsStat 0 :=
    (State.writes_rd hcount (hne (by decide))).trans (State.writes_rd hhead (hne (by decide)))
  exact {
    job := hjob
    other := hother.trans (State.fsJob_congr (by rw [hurest]) _)
    head := by
      have hv : v.rd (.foreshore h) .fsRingHead 0 = t.rd (.foreshore h) .fsRingHead 0 :=
        (hkeys _ (hne (by decide))).trans (State.writes_rd hcount (hne (by decide)))
      rw [State.fld, hv, hrd, bits_setBits_same (by decide)]
    count := by
      have hv : v.rd (.foreshore h) .fsJobCount 0 = u.rd (.foreshore h) .fsJobCount 0 := hkeys _ (hne (by decide))
      rw [hv, hjobs]
      exact State.counted_foreshore (State.writes_rd hhead (hne (by decide))) (State.writes_rd hhead (hne (by decide)))
        (by rw [State.writes_eq hhead])
    stat := fun hi lo hlo => by
      rw [State.fld, hstat, bits_setBits_other (by decide) (.inr hlo), hustat, State.fld]
    regs := fun k hk => by
      have hnot {r : RegName} (hr : r ∈ [RegName.fsRingHead, .fsJobCount, .fsStat]) : k ∉ [regKey (.foreshore h) r 0] :=
        fun e => hk (List.mem_singleton.1 e ▸ hmem hr)
      exact (hkeys k (hnot (by decide))).trans ((hcount.regs k (hnot (by decide))).trans (hhead.regs k (hnot (by decide))))
    rest := by rw [hset, hurest] }

/-- Where no semaphore has become faulted and queues are as they were, none waits on a faulted semaphore. -/
theorem State.faultedWaiter_same (hw : s.faultedWaiter = none) (hs : ∀ g c i, semFaulted (t.sem g c i) = semFaulted (s.sem g c i))
    (hc : t.cores = s.cores) : t.faultedWaiter = none :=
  State.faultedWaiter_none hw (fun d r _ hd =>
    State.faultWaits_alike hs (by rw [State.queue_congr hc]; exact Queue.alike_refl _) hd)

/-- An ADD on a global semaphore that ends with OK, while nothing waits on a faulted one (R86, R384). -/
theorem State.semOp_global (hw : s.faultedWaiter = none) (hf : s.est.fast = []) {i n : Nat} {trace : Bool}
    (hok : (semAdd (s.sem true 0 i) n).2 = .ok) : ∃ t, s.semOp false true 0 i n trace = (.ok, t) ∧ t.settled = t ∧
      (∀ k, t.sem true 0 k = if k = i then (semAdd (s.sem true 0 k) n).1 else s.sem true 0 k) ∧
      t = { s with sems := t.sems, trace := t.trace } := by
  have hst : (s.semOp false true 0 i n trace).1 = .ok := hok
  have hadds := State.semOp_addsOnly hst
  have hcores : (s.semOp false true 0 i n trace).2.cores = s.cores := by cases trace <;> rfl
  have hsems : (s.semOp false true 0 i n trace).2.sems = FMap.set 0 s.sems i (semAdd (s.sem true 0 i) n).1 := by
    cases trace <;> rfl
  generalize s.semOp false true 0 i n trace = p at hst hadds hcores hsems
  obtain ⟨st, t⟩ := p
  subst hst
  dsimp only at hadds hcores hsems
  refine ⟨t, rfl, ?_, fun k => ?_, by rw [hadds.rest, hcores]⟩
  · exact State.settled_calm (State.faultedWaiter_same hw hadds.faulted hcores) (by rw [hadds.rest]; exact hf)
  · show FMap.get 0 t.sems k = if k = i then (semAdd (FMap.get 0 s.sems k) n).1 else FMap.get 0 s.sems k
    rw [hsems, FMap.get_set]
    by_cases hk : k = i
    · subst hk
      rw [if_pos rfl, if_pos rfl]
      rfl
    · rw [if_neg (Ne.symm hk), if_neg hk]

/-- The post ADD of a job that ends with OK (R232). -/
theorem State.jobPost_ok (hw : s.faultedWaiter = none) (hf : s.est.fast = []) {en trace : Bool} {i n : Nat}
    (hok : en = true → (semAdd (s.sem true 0 i) n).2 = .ok) : ∃ t, s.jobPost .ok en trace i n = (.ok, t) ∧
      (∀ k, t.sem true 0 k = if en = true ∧ k = i then (semAdd (s.sem true 0 k) n).1 else s.sem true 0 k) ∧
      t = { s with sems := t.sems, trace := t.trace } := by
  cases en with
  | false => exact ⟨s, rfl, fun k => by simp, rfl⟩
  | true =>
    obtain ⟨t, he, hset, hsem, hrest⟩ := State.semOp_global hw hf (trace := trace) (hok rfl)
    refine ⟨t, ?_, fun k => by rw [hsem]; simp, hrest⟩
    unfold State.jobPost
    rw [if_neg (by decide), if_pos rfl, he]
    dsimp only
    rw [hset]

/-- The record of a job that asks for one (R232). -/
def State.fsRecord (s : State) (h : Fin 2) (j : FsJob) (st : Status) (wm : Nat) : State :=
  if bit1 (j.word 0) 54 then s.ringRecord (s.fsSlot h j.ix) (j.id h) st wm j.started (j.deadline ≠ 0) else s

theorem State.fsEnd_ok {wm : Nat}
    (hp : s.jobPost .ok (bit1 (j.word 0) 55) (bit1 (j.word 0) 56) (bits (j.word 6) 15 0) (bits (j.word 6) 23 16 + 1) = (.ok, t)) :
    s.fsEnd h j .ok wm = (t.fsRecord h j .ok wm).fsRetire h j := by
  unfold State.fsEnd
  simp only [ne_eq, not_true_eq_false, if_false, hp]
  rfl

theorem Completion.bytes_length (r : Completion) : r.bytes.length = 32 := by
  unfold Completion.bytes
  simp

/-- From s to t the record of a job has been made, where it asks for one: 32 bytes in the ring, and a completion record (R232). -/
structure State.fsRecords (s t : State) (h : Fin 2) (j : FsJob) (st : Status) (wm : Nat) : Prop where
  none : bit1 (j.word 0) 54 = false → t = s
  record : bit1 (j.word 0) 54 = true → ∃ c, t.records = s.records ++ [c] ∧ c.status = st.code ∧ c.watermark = wm ∧ c.doneTime = s.now
  bytes : s.bytesBut t [(s.fsSlot h j.ix, 32)]
  regs : ∀ k, memoryKey k = false → t.reg k = s.reg k
  rest : t = { s with regs := t.regs, mem := t.mem, bad := t.bad, harbour := t.harbour, pfLines := t.pfLines, dirty := t.dirty, wc := t.wc,
                      records := t.records }

theorem State.fsRecords_fsRecord (s : State) (h : Fin 2) (j : FsJob) (st : Status) (wm : Nat) :
    s.fsRecords (s.fsRecord h j st wm) h j st wm := by
  unfold State.fsRecord
  cases hb : bit1 (j.word 0) 54 with
  | false =>
    rw [if_neg Bool.false_ne_true]
    exact ⟨fun _ => rfl, fun e => absurd (hb.symm.trans e) Bool.false_ne_true, fun _ _ => rfl, fun _ _ => rfl, rfl⟩
  | true =>
    rw [if_pos rfl]
    unfold State.ringRecord
    dsimp only
    generalize hr : Completion.mk _ _ _ _ _ _ _ _ _ = r
    have hlen := Completion.bytes_length r
    have hst := State.store_behind s (s.fsSlot h j.ix) r.bytes
    have hbytes : s.bytesBut (s.store (s.fsSlot h j.ix) r.bytes) [(s.fsSlot h j.ix, 32)] :=
      State.bytesBut_store (fun _ _ => rfl) ⟨_, List.mem_singleton_self _, le_rfl, by rw [hlen]⟩
    have hregs (k : Nat) (hk : memoryKey k = false) := State.reg_store s (s.fsSlot h j.ix) r.bytes hk
    generalize s.store (s.fsSlot h j.ix) r.bytes = t at hst hbytes hregs
    refine ⟨fun e => absurd (hb.symm.trans e) Bool.true_eq_false.mp, fun _ => ⟨r, rfl, ?_, ?_, ?_⟩, hbytes, hregs, ?_⟩
    · rw [← hr]
    · rw [← hr]
    · rw [← hr]
    · rw [hst]

end

section
variable {s t u : State} {h : Fin 2} {j : FsJob}

theorem State.fsSlot_congr (hbase : t.rd (.foreshore h) .fsRingBase 0 = s.rd (.foreshore h) .fsRingBase 0)
    (hcfg : t.rd (.foreshore h) .fsRingCfg 0 = s.rd (.foreshore h) .fsRingCfg 0) (n : Nat) : t.fsSlot h n = s.fsSlot h n := by
  unfold State.fsSlot State.fld
  rw [hbase, hcfg]

theorem memoryKey_foreshore {h : Fin 2} {r : RegName} (hr : r.off 0 < 4096) : memoryKey (regKey (.foreshore h) r 0) = false := by
  rw [memoryKey_regKey (by revert h; decide) hr]
  rfl

theorem not_mem_fsKeys {h : Fin 2} {r : RegName}
    (hr : ∀ x ∈ [RegName.fsCodecBlocksOut, .fsCodecBlocksIn, .fsMacCycles, .fsIoWaitCycles], r.off 0 ≠ x.off 0)
    (he : regKey (.foreshore h) r 0 ∉ eventKeys (.foreshore h)) : regKey (.foreshore h) r 0 ∉ fsKeys h := by
  unfold fsKeys
  rw [List.mem_append, not_or]
  exact ⟨fsKey_not_mem hr, he⟩

/-- The key of a register of a page, divided by the size of a page. -/
theorem regKey_page {p : Pg} {r : RegName} {i : Nat} (hr : r.off i < 4096) : regKey p r i / 4096 = p.index := by
  unfold regKey
  omega

theorem page_of_mem_fsKeys {k : Nat} (hk : k ∈ fsKeys h ++ retireKeys h) : k / 4096 = (Pg.foreshore h).index := by
  have hkeys : fsKeys h ++ retireKeys h = [RegName.fsCodecBlocksOut, .fsCodecBlocksIn, .fsMacCycles, .fsIoWaitCycles, .event, .eventCount,
    .lastEventTime, .fsRingHead, .fsJobCount, .fsStat].map (regKey (.foreshore h) · 0) := rfl
  have hoff : ∀ r ∈ [RegName.fsCodecBlocksOut, .fsCodecBlocksIn, .fsMacCycles, .fsIoWaitCycles, .event, .eventCount, .lastEventTime,
      .fsRingHead, .fsJobCount, .fsStat], r.off 0 < 4096 := by decide
  rw [hkeys] at hk
  obtain ⟨r, hr, rfl⟩ := List.mem_map.1 hk
  exact regKey_page (hoff r hr)

theorem exec_fsJobComplete_finished (hup : s.up) (hj : s.fsJob h = some j) (hw : j.waiting = false) (wm : Nat) :
    exec (.fsJobComplete h .finished wm false) s = .next (
      if (s.jobBad j).isSome then ((s.fsPartial h j (min wm j.rows)).event (.foreshore h) 4).fsEnd h j .eMemUncorr (min wm j.rows)
      else (s.fsCommit h j).fsEnd h j .ok j.rows) := by
  rw [exec_fsJobComplete, execFsJobComplete, State.awake_up hup, hj]
  dsimp only
  rw [hw, if_neg Bool.false_ne_true, if_neg Bool.false_ne_true]
  rfl

/-- From s to t a job that ends with OK has left its maps, its history and its output, performed its post ADD, and made its record (R232). -/
structure State.fsFinishes (s t : State) (h : Fin 2) (j : FsJob) : Prop where
  sems : ∀ i, t.sem true 0 i = if bit1 (j.word 0) 55 = true ∧ i = bits (j.word 6) 15 0 then
    (semAdd (s.sem true 0 i) (bits (j.word 6) 23 16 + 1)).1 else s.sem true 0 i
  unrecorded : bit1 (j.word 0) 54 = false → t.records = s.records
  recorded : bit1 (j.word 0) 54 = true →
    ∃ c, t.records = s.records ++ [c] ∧ c.status = 0 ∧ c.watermark = j.rows ∧ c.doneTime = s.now
  bytes : s.bytesBut t ((j.outAddr, (j.outOf (s.fsRun j) s.freeIx).length) :: (j.ctx + 8, 8) :: (s.fsSlot h j.ix, 32) ::
    (s.fsRun j).writes.map (fun w => (w.1, w.2.length)))
  out : bit1 (j.word 0) 54 = false → j.ctx = 0 → harbourAddr j.outAddr = false →
    t.bytes j.outAddr (j.outOf (s.fsRun j) s.freeIx).length = j.outOf (s.fsRun j) s.freeIx
  regs : ∀ k, memoryKey k = false → k ∉ fsKeys h → t.reg k = s.reg k
  rest : t = { s with
    regs := t.regs, mem := t.mem, bad := t.bad, harbour := t.harbour, pfLines := t.pfLines, pf := t.pf, dirty := t.dirty, wc := t.wc,
    regulators := t.regulators, freeIx := t.freeIx, sems := t.sems, trace := t.trace, records := t.records }

/-- What the commit of a job, its post ADD and its record leave together. -/
theorem State.fsFinishes_of {v w : State} (hu : s.fsCommits u h j)
    (hsem : ∀ i, v.sem true 0 i = if bit1 (j.word 0) 55 = true ∧ i = bits (j.word 6) 15 0 then
      (semAdd (u.sem true 0 i) (bits (j.word 6) 23 16 + 1)).1 else u.sem true 0 i)
    (hv : v = { u with sems := v.sems, trace := v.trace }) (hrec : v.fsRecords w h j .ok j.rows) : s.fsFinishes w h j := by
  have hurest := hu.works.rest
  have hvregs {k : Nat} (hm : memoryKey k = false) (hk : k ∉ fsKeys h) : v.reg k = s.reg k :=
    (State.reg_congr (by rw [hv]) k).trans (hu.works.regs k hk hm)
  have hvmem : v.mem = u.mem := by rw [hv]
  have hslot : v.fsSlot h j.ix = s.fsSlot h j.ix :=
    State.fsSlot_congr (hvregs (memoryKey_foreshore (by decide)) (not_mem_fsKeys (by decide) (regKey_not_eventKeys (by decide))))
      (hvregs (memoryKey_foreshore (by decide)) (not_mem_fsKeys (by decide) (regKey_not_eventKeys (by decide)))) _
  have hrecords : v.records = s.records := by rw [hv, hurest]
  have husem (i : Nat) : u.sem true 0 i = s.sem true 0 i := State.sem_congr (by rw [hurest]) (by rw [hurest]) ..
  refine ⟨fun i => ?sems, fun hb => by rw [hrec.none hb, hrecords], fun hb => ?recorded, fun a ha => ?bytes, fun hb hz hl => ?out,
    fun k hm hk => (hrec.regs k hm).trans (hvregs hm hk), ?rest⟩
  case sems =>
    have hi : w.sem true 0 i = v.sem true 0 i := congrArg (FMap.get 0 · i) (by rw [hrec.rest])
    rw [hi, hsem, husem]
  case recorded =>
    obtain ⟨c, hc, hst, hwm, hdone⟩ := hrec.record hb
    exact ⟨c, by rw [hc, hrecords], hst, hwm, hdone.trans (by rw [hv, hurest])⟩
  case bytes =>
    simp only [List.mem_cons, forall_eq_or_imp] at ha
    obtain ⟨houtput, hseen, hrecord, hwrites⟩ := ha
    rw [hrec.bytes a (fun r hr => by rw [List.mem_singleton.1 hr, hslot]; exact hrecord), State.byte_congr hvmem]
    refine hu.bytes a (fun r hr => ?_)
    unfold State.fsRanges at hr
    simp only [List.mem_cons] at hr
    rcases hr with rfl | rfl | hr
    · exact houtput
    · exact hseen
    · exact hwrites r hr
  case out =>
    have hbyte (a : Nat) : w.byte a = u.byte a := State.byte_congr (by rw [hrec.none hb, hvmem]) a
    rw [State.bytes_congr hbyte]
    exact hu.out hz hl
  case rest => rw [hrec.rest, hv, hurest]

/-- A job that ends with OK has finished, and the head passes it. -/
theorem exec_fsJobComplete_ok {wm : Nat} (hup : s.up) (hj : s.fsJob h = some j) (hw : j.waiting = false) (hfault : s.faultedWaiter = none)
    (hfast : s.est.fast = []) (hbad : s.jobBad j = none)
    (hpost : bit1 (j.word 0) 55 = true → (semAdd (s.sem true 0 (bits (j.word 6) 15 0)) (bits (j.word 6) 23 16 + 1)).2 = .ok) :
    ∃ w t : State, exec (.fsJobComplete h .finished wm false) s = .next t ∧ s.fsFinishes w h j ∧ w.fsRetires t h j := by
  have hu := State.fsCommits_fsCommit s h j
  have he := exec_fsJobComplete_finished (h := h) hup hj hw wm
  rw [hbad, if_neg (by decide)] at he
  generalize s.fsCommit h j = u at hu he
  have hrest := hu.works.rest
  have hcores : u.cores = s.cores := by rw [hrest]
  have hsem (g c i) : u.sem g c i = s.sem g c i := State.sem_congr (by rw [hrest]) hcores g c i
  obtain ⟨v, hv, hvsem, hvrest⟩ := State.jobPost_ok (s := u) (State.faultedWaiter_same hfault (fun g c i => by rw [hsem]) hcores)
    (by rw [hrest]; exact hfast) (en := bit1 (j.word 0) 55) (trace := bit1 (j.word 0) 56) (i := bits (j.word 6) 15 0)
    (n := bits (j.word 6) 23 16 + 1) (fun hen => by rw [hsem]; exact hpost hen)
  rw [State.fsEnd_ok hv] at he
  exact ⟨_, _, he, State.fsFinishes_of hu hvsem hvrest (State.fsRecords_fsRecord ..), State.fsRetires_fsRetire ..⟩

/-- A job that read no uncorrectable word ends with OK (R218 to R227, R232). -/
theorem exec_fsJobComplete_commits {wm slot : Nat} {out : List Byte} (hup : s.up) (hj : s.fsJob h = some j) (hw : j.waiting = false)
    (hfault : s.faultedWaiter = none) (hfast : s.est.fast = []) (hout : out = j.outOf (s.fsRun j) s.freeIx) (hslot : slot = s.fsSlot h j.ix)
    (hbad : s.jobBad j = none)
    (hpost : bit1 (j.word 0) 55 = true → (semAdd (s.sem true 0 (bits (j.word 6) 15 0)) (bits (j.word 6) 23 16 + 1)).2 = .ok) :
    ∃ t, exec (.fsJobComplete h .finished wm false) s = .next t ∧ t.fsJob h = none ∧ t.fsJob (h + 1) = s.fsJob (h + 1) ∧
      t.fld (.foreshore h) .fsRingHead 0 31 0 = (j.ix + 1) % 2 ^ 32 ∧
      t.rd (.foreshore h) .fsJobCount 0 = s.counted (.foreshore h) .fsJobCount 0 1 ∧
      (∀ i, t.sem true 0 i = if bit1 (j.word 0) 55 = true ∧ i = bits (j.word 6) 15 0 then
        (semAdd (s.sem true 0 i) (bits (j.word 6) 23 16 + 1)).1 else s.sem true 0 i) ∧
      (bit1 (j.word 0) 54 = false → t.records = s.records) ∧
      (bit1 (j.word 0) 54 = true → ∃ c, t.records = s.records ++ [c] ∧ c.status = 0 ∧ c.watermark = j.rows ∧ c.doneTime = s.now) ∧
      s.bytesBut t ((j.outAddr, out.length) :: (j.ctx + 8, 8) :: (slot, 32) :: (s.fsRun j).writes.map (fun w => (w.1, w.2.length))) ∧
      (bit1 (j.word 0) 54 = false → j.ctx = 0 → harbourAddr j.outAddr = false → t.bytes j.outAddr out.length = out) ∧
      (∀ k, memoryKey k = false → k / 4096 ≠ (Pg.foreshore h).index → t.reg k = s.reg k) ∧
      t.cores = s.cores ∧ t.gulk = s.gulk ∧ t.cliff = s.cliff ∧ t.out = s.out := by
  subst hout
  subst hslot
  obtain ⟨w, t, he, hfin, hret⟩ := exec_fsJobComplete_ok (wm := wm) hup hj hw hfault hfast hbad hpost
  have hrest := hfin.rest
  have hmem : t.mem = w.mem := by rw [hret.rest]
  have hrecords : t.records = w.records := by rw [hret.rest]
  have hcount : w.counted (.foreshore h) .fsJobCount 0 1 = s.counted (.foreshore h) .fsJobCount 0 1 :=
    State.counted_foreshore
      (hfin.regs _ (memoryKey_foreshore (by decide)) (not_mem_fsKeys (by decide) (regKey_not_eventKeys (by decide))))
      (hfin.regs _ (memoryKey_foreshore (by decide)) (not_mem_fsKeys (by decide) (regKey_not_eventKeys (by decide))))
      (by rw [hrest])
  refine ⟨t, he, hret.job, hret.other.trans (State.fsJob_congr (by rw [hrest]) _), hret.head, hret.count.trans hcount, fun i => ?sems,
    fun hb => hrecords.trans (hfin.unrecorded hb), fun hb => hrecords ▸ hfin.recorded hb,
    State.bytesBut_congr hfin.bytes hmem, fun hb hz hl => ?out, fun k hm hp => ?regs, ?cores, ?gulk, ?cliff, ?sent⟩
  case sems =>
    have hi : t.sem true 0 i = w.sem true 0 i := congrArg (FMap.get 0 · i) (by rw [hret.rest])
    rw [hi, hfin.sems]
  case out =>
    rw [State.bytes_congr (State.byte_congr hmem)]
    exact hfin.out hb hz hl
  case regs =>
    have hk : k ∉ fsKeys h ++ retireKeys h := fun e => hp (page_of_mem_fsKeys e)
    rw [List.mem_append, not_or] at hk
    exact (hret.regs k hk.2).trans (hfin.regs k hm hk.1)
  case cores => rw [hret.rest, hrest]
  case gulk => rw [hret.rest, hrest]
  case cliff => rw [hret.rest, hrest]
  case sent => rw [hret.rest, hrest]

end

section
variable {s t u : State} {h : Fin 2} {j : FsJob} {ks : List Nat}

/-! ### A job whose engine stopped (R232) -/

theorem State.fsWorks_scramble (s : State) (a n : Nat) (ks : List Nat) : s.fsWorks (s.scramble a n) ks :=
  State.fsWorks_trans (State.fsWorks_of_copied (rs := [(a, (freeBytes s.freeIx n).length)])
    (State.copied_poke s ⟨_, List.mem_singleton_self _, le_rfl, le_rfl⟩) ks) (State.fsWorks_freeIx _ _ ks)

theorem State.fsWorks_storeFree (s : State) (a n : Nat) (ks : List Nat) : s.fsWorks (s.storeFree a n) ks :=
  State.fsWorks_trans (State.fsWorks_store s a _ ks) (State.fsWorks_freeIx _ _ ks)

/-- The context of a job whose engine stopped is FAULTED (R223, R232). -/
def State.fsFaulted (s : State) (j : FsJob) : State := if j.ctx = 0 then s else s.store (j.ctx + 16) (leBytes 1 8)

/-- What the engine of a job that stopped has moved, before its context is FAULTED (R227, R232). -/
def State.fsStopped (s : State) (h : Fin 2) (j : FsJob) (wm : Nat) : State :=
  let r := s.fsRun j
  let s := ((s.fsRead j).engineWrite j.cls j.outAddr (j.outOf r s.freeIx)).2
  let (k, s) := s.drawUpTo r.blocksOut
  let (n, s) := s.drawUpTo r.blocksIn
  let s := ((s.bump (.foreshore h) .fsCodecBlocksOut 0 k).bump (.foreshore h) .fsCodecBlocksIn 0 n).bumpAllFree (.foreshore h)
    [.fsMacCycles, .fsIoWaitCycles]
  let s := (j.rowRanges wm).foldl (fun (s : State) (a, n) => s.scramble (j.outAddr + a) n) s
  let s := r.writes.foldl (fun (s : State) (a, bs) => s.storeFree a bs.length) s
  if r.nan then s.event (.foreshore h) 5 else s

theorem State.fsPartial_eq (s : State) (h : Fin 2) (j : FsJob) (wm : Nat) : s.fsPartial h j wm = (s.fsStopped h j wm).fsFaulted j := rfl

theorem State.fsWorks_fsStopped (s : State) (h : Fin 2) (j : FsJob) (wm : Nat) (hc : fsCounters h ⊆ ks)
    (hn : (s.fsRun j).nan = true → eventKeys (.foreshore h) ⊆ ks) : s.fsWorks (s.fsStopped h j wm) ks := by
  have hmem {r : RegName} (hr : r ∈ [RegName.fsCodecBlocksOut, .fsCodecBlocksIn, .fsMacCycles, .fsIoWaitCycles]) :
      regKey (.foreshore h) r 0 ∈ ks := hc (mem_fsCounters hr)
  have hfree : ∀ r ∈ [RegName.fsMacCycles, .fsIoWaitCycles], regKey (.foreshore h) r 0 ∈ ks :=
    fun r hr => hmem (by revert r; decide)
  have hdraw (t : State) (m : Nat) : t.fsWorks (t.drawUpTo m).2 ks := State.fsWorks_freeIx t _ ks
  have hmoved := State.fsWorks_trans (State.fsWorks_fsRead s j ks)
    (State.fsWorks_engineWrite (s.fsRead j) j.cls j.outAddr (j.outOf (s.fsRun j) s.freeIx) ks)
  unfold State.fsStopped
  dsimp only
  generalize ((s.fsRead j).engineWrite j.cls j.outAddr (j.outOf (s.fsRun j) s.freeIx)).2 = a at hmoved
  have hdrawn := State.fsWorks_trans (hdraw a (s.fsRun j).blocksOut) (hdraw _ (s.fsRun j).blocksIn)
  generalize ((a.drawUpTo (s.fsRun j).blocksOut).2.drawUpTo (s.fsRun j).blocksIn) = b at hdrawn
  generalize (a.drawUpTo (s.fsRun j).blocksOut).1 = k
  have hcounted := State.fsWorks_trans (State.fsWorks_trans (State.fsWorks_bump b.2 (n := k) (hmem (r := .fsCodecBlocksOut) (by decide)))
    (State.fsWorks_bump _ (n := b.1) (hmem (r := .fsCodecBlocksIn) (by decide)))) (State.fsWorks_bumpAllFree _ hfree)
  have hrows := State.fsWorks_foldl (ks := ks) (f := fun (s : State) (x : Nat × Nat) => s.scramble (j.outAddr + x.1) x.2) (j.rowRanges wm)
    (fun t x _ => State.fsWorks_scramble t ..)
  have hslots := State.fsWorks_foldl (ks := ks) (f := fun (s : State) (x : Nat × List Byte) => s.storeFree x.1 x.2.length)
    (s.fsRun j).writes (fun t x _ => State.fsWorks_storeFree t ..)
  have hdone := State.fsWorks_trans (State.fsWorks_trans hmoved hdrawn) hcounted
  have hall := State.fsWorks_trans (State.fsWorks_trans hdone (hrows _)) (hslots _)
  cases hnan : (s.fsRun j).nan with
  | true => exact State.fsWorks_trans hall (State.fsWorks_event _ 5 (hn hnan))
  | false => exact hall

theorem State.fsWorks_fsPartial (s : State) (h : Fin 2) (j : FsJob) (wm : Nat) (hc : fsCounters h ⊆ ks)
    (hn : (s.fsRun j).nan = true → eventKeys (.foreshore h) ⊆ ks) : s.fsWorks (s.fsPartial h j wm) ks := by
  rw [State.fsPartial_eq]
  unfold State.fsFaulted
  split
  · exact State.fsWorks_fsStopped s h j wm hc hn
  · exact State.fsWorks_trans (State.fsWorks_fsStopped s h j wm hc hn) (State.fsWorks_store ..)

/-- The context of a job whose engine stopped is FAULTED (R223, R232). -/
theorem State.word_fsPartial (hz : j.ctx ≠ 0) (wm : Nat) : (s.fsPartial h j wm).word (j.ctx + 16) = 1 := by
  rw [State.fsPartial_eq, State.fsFaulted, if_neg hz]
  exact State.word_store_same _ _ 1

/-! ### Error records in the buffer (R379, R380) -/

theorem State.summarise_rest (s : State) (r : ErrRec) : s.summarise r = { s with errs := (s.summarise r).errs } := by
  unfold State.summarise
  split <;> rfl

theorem State.summarise_buffered (s : State) (r : ErrRec) : (s.summarise r).errs.buffered = s.errs.buffered := by
  unfold State.summarise
  dsimp only
  split
  · split
    · split <;> rfl
    · split
      · split <;> rfl
      · split <;> rfl
  · rfl

/-- A record, with the number it takes and the flag of a summary (R379, R381). -/
def State.numbered (s : State) (r : ErrRec) : ErrRec :=
  { r with seq := (s.rd .fault .errRingHead 0).toNat, flags := if s.tidewatchUp && s.summarised r then r.flags ||| 4 else r.flags }

/-- A record written into the buffer, before its summary (R380). -/
def State.buffer (s : State) (p : Pg) (r : ErrRec) : State :=
  ({ s with errs := { s.errs with buffered := s.errs.buffered ++ [r] } }.wr .fault .errRingHead 0 (s.rd .fault .errRingHead 0 + 1)).wr p
    .errHead 0 (setBits (BitVec.ofNat 64 r.seq) 63 63 1)

theorem State.commitRecord_buffers {p : Pg} {r : ErrRec} (hb : s.buffers) (hp : Pg.ofIndex r.page = some p)
    (hne : regKey p .errHead 0 ≠ regKey .fault .errRingBase 0) :
    s.commitRecord r = (s.buffer p (s.numbered r)).summarise (s.numbered r) := by
  obtain ⟨hbase, hroom⟩ := hb
  have hring : (s.buffer p (s.numbered r)).ringBase = 0 := by
    rw [← hbase]
    unfold State.ringBase State.buffer State.fld
    rw [State.rd_wr_other hne, State.rd_wr_other (regKey_ne (by decide))]
    rfl
  unfold State.commitRecord
  rw [if_neg (by omega)]
  dsimp only
  rw [if_pos hbase, hp]
  exact congrArg (State.summarise · (s.numbered r)) (if_neg (fun e => e.1 hring))

/-- The registers that an error record of an engine writes while records wait in their buffer. -/
theorem State.writes_buffer (s : State) (p : Pg) (r : ErrRec) : s.regsBut (s.buffer p r) (logKeys p) :=
  State.regsBut_wr (State.regsBut_wr (State.regsBut_refl rfl _) List.mem_cons_self) (List.mem_cons_of_mem _ (List.mem_singleton_self _))

theorem State.buffer_rest (s : State) (p : Pg) (r : ErrRec) :
    s.buffer p r = { s with regs := (s.buffer p r).regs, errs := { s.errs with buffered := s.errs.buffered ++ [r] } } := by
  have hw := State.writes_wr (State.writes_wr (State.writes_refl { s with errs := { s.errs with buffered := s.errs.buffered ++ [r] } }
    (logKeys p)) (s.rd .fault .errRingHead 0 + 1) List.mem_cons_self) (setBits (BitVec.ofNat 64 r.seq) 63 63 1)
    (List.mem_cons_of_mem _ (List.mem_singleton_self _))
  unfold State.buffer
  rw [State.writes_eq hw]

/-- From s to t an error record of a page has been written into the buffer, and nothing else has happened. -/
structure State.logs (s t : State) (p : Pg) (st : Status) : Prop where
  logged : s.logged t p st
  regs : ∀ k, memoryKey k = false → k ∉ logKeys p → t.reg k = s.reg k
  rest : t = { s with regs := t.regs, errs := t.errs }

theorem State.logs_commitRecord {p : Pg} {r : ErrRec} {st : Status} (hb : s.buffers) (hp : Pg.ofIndex p.index = some p)
    (hbase : regKey p .errHead 0 ≠ regKey .fault .errRingBase 0) (hhead : regKey p .errHead 0 ≠ regKey .fault .errRingHead 0)
    (hpage : r.page = p.index) (hcls : r.cls = 1) (hcode : r.code = st.code) (htime : r.time = s.now) : s.logs (s.commitRecord r) p st := by
  rw [State.commitRecord_buffers hb (hpage ▸ hp) hbase]
  have hregs : ((s.buffer p (s.numbered r)).summarise (s.numbered r)).regs = (s.buffer p (s.numbered r)).regs := by
    rw [State.summarise_rest]
  refine ⟨⟨s.numbered r, ?_, hpage, hcls, hcode, htime, rfl, ?_, ?_⟩, fun k _ hk => ?_, ?_⟩
  · rw [State.summarise_buffered]
    rfl
  · rw [State.rd_congr hregs, State.buffer, State.rd_wr_other hhead, State.rd_wr_same]
  · rw [State.rd_congr hregs, State.buffer, State.rd_wr_same, State.numbered, BitVec.ofNat_toNat, BitVec.setWidth_eq]
  · exact (State.reg_congr hregs k).trans (State.writes_buffer s p (s.numbered r) k hk)
  · rw [State.summarise_rest, State.buffer_rest]

/-- ECC_UNCORR is raised on a page of memory alone (R260, R263, R266). -/
theorem State.eccUncorr_results (s : State) (a : Nat) :
    s.eccUncorr a = { s with regs := (s.eccUncorr a).regs } ∧ ∀ k, memoryKey k = false → (s.eccUncorr a).reg k = s.reg k := by
  have hevent (p : Pg) (hm : ∀ k ∈ eventKeys p, memoryKey k = true) (b : Nat) :
      s.event p b = { s with regs := (s.event p b).regs } ∧ ∀ k, memoryKey k = false → (s.event p b).reg k = s.reg k := by
    have he := State.writes_event (State.writes_refl s (eventKeys p)) b (List.Subset.refl _)
    exact ⟨State.writes_eq he, fun k hk => he.regs k (fun hin => Bool.false_ne_true (hk.symm.trans (hm k hin)))⟩
  have hharbour (x : Fin 2) : ∀ k ∈ eventKeys (.harbour x), memoryKey k = true := by revert x; decide
  have hhbm (x : Fin 12) : ∀ k ∈ eventKeys (.hbm x), memoryKey k = true := by revert x; decide
  unfold State.eccUncorr
  split
  · exact ⟨rfl, fun _ _ => rfl⟩
  · split
    · exact hevent _ (hharbour _) 1
    · exact hevent _ (hhbm _) 1

theorem State.logs_of_memory {p : Pg} {st : Status} (hrest : t = { s with regs := t.regs })
    (hregs : ∀ k, memoryKey k = false → t.reg k = s.reg k) (k : t.logs u p st) : s.logs u p st := by
  have hhead : t.rd .fault .errRingHead 0 = s.rd .fault .errRingHead 0 := hregs _ (by decide)
  obtain ⟨⟨r, hbuf, hpage, hcls, hcode, htime, hseq, hnext, herr⟩, hk, hu⟩ := k
  refine ⟨⟨r, ?_, hpage, hcls, hcode, ?_, ?_, ?_, ?_⟩, fun i hm hi => (hk i hm hi).trans (hregs i hm), ?_⟩
  · rw [hbuf, hrest]
  · rw [htime, hrest]
  · rw [hseq, hhead]
  · rw [hnext, hhead]
  · rw [herr, hhead]
  · rw [hu, hrest]

theorem Pg.ofIndex_foreshore (h : Fin 2) : Pg.ofIndex (Pg.foreshore h).index = some (.foreshore h) := by
  revert h
  decide

/-- The error record of a ring entry of an engine that failed (R13, R232, R379). -/
theorem State.logs_ringError {st : Status} {id wmUnit wm : Nat} {addr : Option Nat} {deadline : Word} (hb : s.buffers) :
    s.logs (s.ringError (.foreshore h) st id wmUnit wm addr deadline) (.foreshore h) st := by
  have hpage : (Pg.foreshore h).index ≠ Pg.fault.index := by revert h; decide
  have hcommit (t : State) (ht : t.buffers) (hn : t.now = s.now) (r : ErrRec) (hcls : r.cls = 1) (hpg : r.page = (Pg.foreshore h).index)
      (hcode : r.code = st.code) (htime : r.time = t.now) : t.logs (t.report r) (.foreshore h) st := by
    rw [State.report, if_neg (by rw [hcls]; decide)]
    exact State.logs_commitRecord ht (Pg.ofIndex_foreshore h) (regKey_ne_of_page hpage (by decide) (by decide))
      (regKey_ne_of_page hpage (by decide) (by decide)) hpg hcls hcode htime
  unfold State.ringError
  cases addr with
  | none => exact hcommit s hb rfl _ rfl rfl rfl rfl
  | some a =>
    obtain ⟨hrest, hregs⟩ := State.eccUncorr_results s a
    dsimp only
    generalize s.eccUncorr a = t at hrest hregs
    have hbuf : t.buffers := by
      obtain ⟨hbase, hroom⟩ := hb
      refine ⟨?_, by rw [hrest]; exact hroom⟩
      rw [← hbase]
      unfold State.ringBase
      rw [State.fld_congr (hregs _ (by decide))]
    have hnow : t.now = s.now := by rw [hrest]
    exact State.logs_of_memory hrest hregs (hcommit t hbuf hnow _ rfl rfl rfl rfl)

end

section
variable {s t u : State} {h : Fin 2} {j : FsJob} {st : Status} {wm : Nat}

/-! ### A job that fails (R232, R234) -/

/-- FS_STAT shows the status, the watermark and the count of a job that failed (R234). -/
def State.fsShown (s : State) (h : Fin 2) (j : FsJob) (st : Status) (wm : Nat) : State :=
  ((s.setFld (.foreshore h) .fsStat 0 15 8 st.code).setFld (.foreshore h) .fsStat 0 31 16 (min wm 65535)).setFld (.foreshore h) .fsStat 0 63 32 j.ix

/-- FS_STAT shows a job that failed, and JOB_FAILED is raised (R234). -/
def State.fsFailed (s : State) (h : Fin 2) (j : FsJob) (st : Status) (wm : Nat) : State := (s.fsShown h j st wm).event (.foreshore h) 0

theorem State.fsEnd_failed (hst : st ≠ .ok) (hgone : st ≠ .eGone) (hen : bit1 (j.word 0) 55 = false) :
    s.fsEnd h j st wm = (((s.ringError (.foreshore h) st (j.id h) 4 wm (if st = .eMemUncorr then s.jobBad j else none)
      j.deadline).fsRecord h j st wm).fsFailed h j st wm).fsRetire h j := by
  have hkept : s.goneCount st [j.inAddr, j.stack] = s := if_pos hgone
  unfold State.fsEnd
  simp only [ne_eq, hst, not_false_eq_true, if_true, hkept, hen, State.jobPost, Bool.not_false, decide_true, Bool.not_true,
    Bool.false_eq_true, and_false, if_false]
  rfl

/-- From s to t the failure of a job has come to show on its engine's page (R234). -/
structure State.showsFailure (s t : State) (h : Fin 2) (j : FsJob) (st : Status) (wm : Nat) : Prop where
  code : t.fld (.foreshore h) .fsStat 0 15 8 = st.code
  mark : t.fld (.foreshore h) .fsStat 0 31 16 = min wm 65535
  ix : t.fld (.foreshore h) .fsStat 0 63 32 = j.ix % 2 ^ 32
  raised : s.raised t (.foreshore h) 0
  regs : s.regsBut t (regKey (.foreshore h) .fsStat 0 :: eventKeys (.foreshore h))
  rest : t = { s with regs := t.regs }

theorem Status.code_lt (st : Status) : st.code < 256 := by cases st <;> decide

theorem State.writes_fsShown (s : State) (h : Fin 2) (j : FsJob) (st : Status) (wm : Nat) :
    s.writes (s.fsShown h j st wm) [regKey (.foreshore h) .fsStat 0] := by
  have hmem : regKey (.foreshore h) .fsStat 0 ∈ [regKey (.foreshore h) .fsStat 0] := List.mem_singleton_self _
  exact State.writes_setFld (State.writes_setFld (State.writes_setFld (State.writes_refl s _) 15 8 _ hmem) 31 16 _ hmem) 63 32 _ hmem

theorem State.fld_fsShown_code (s : State) (h : Fin 2) (j : FsJob) (st : Status) (wm : Nat) :
    (s.fsShown h j st wm).fld (.foreshore h) .fsStat 0 15 8 = st.code := by
  rw [State.fsShown, State.fld_setFld_other (by decide) (.inl (by decide)), State.fld_setFld_other (by decide) (.inl (by decide)),
    State.fld_setFld_same (by decide)]
  exact Nat.mod_eq_of_lt (Status.code_lt st)

theorem State.fld_fsShown_mark (s : State) (h : Fin 2) (j : FsJob) (st : Status) (wm : Nat) :
    (s.fsShown h j st wm).fld (.foreshore h) .fsStat 0 31 16 = min wm 65535 := by
  rw [State.fsShown, State.fld_setFld_other (by decide) (.inl (by decide)), State.fld_setFld_same (by decide)]
  exact Nat.mod_eq_of_lt (by omega)

theorem State.fld_fsShown_ix (s : State) (h : Fin 2) (j : FsJob) (st : Status) (wm : Nat) :
    (s.fsShown h j st wm).fld (.foreshore h) .fsStat 0 63 32 = j.ix % 2 ^ 32 := State.fld_setFld_same (by decide)

theorem State.showsFailure_fsFailed (s : State) (h : Fin 2) (j : FsJob) (st : Status) (wm : Nat) :
    s.showsFailure (s.fsFailed h j st wm) h j st wm := by
  have hw := State.writes_fsShown s h j st wm
  have hcode := State.fld_fsShown_code s h j st wm
  have hmark := State.fld_fsShown_mark s h j st wm
  have hix := State.fld_fsShown_ix s h j st wm
  unfold State.fsFailed
  generalize s.fsShown h j st wm = t at hw hcode hmark hix
  have hnot : regKey (.foreshore h) .fsStat 0 ∉ eventKeys (.foreshore h) := regKey_not_eventKeys (by decide)
  have hstat : (t.event (.foreshore h) 0).rd (.foreshore h) .fsStat 0 = t.rd (.foreshore h) .fsStat 0 := State.rd_event_other hnot
  exact {
    code := (State.fld_congr hstat 15 8).trans hcode
    mark := (State.fld_congr hstat 31 16).trans hmark
    ix := (State.fld_congr hstat 63 32).trans hix
    raised := State.raised_event_of 0 (State.event_regs_stay hw.regs hnot) (by rw [State.writes_eq hw])
    regs := (State.writes_event (State.writes_mono hw (List.cons_subset_cons _ (List.nil_subset _))) 0 (List.subset_cons_self ..)).regs
    rest := State.writes_eq (State.writes_event (State.writes_mono hw (List.cons_subset_cons _ (List.nil_subset _))) 0
      (List.subset_cons_self ..)) }

/-- From s to t a job of an engine has ended with a failure: FS_STAT and JOB_FAILED show it, an error record waits in the buffer, and the
head has passed it; beside these and its own record nothing has changed. -/
structure State.endsFailed (s t : State) (h : Fin 2) (j : FsJob) (st : Status) (wm : Nat) : Prop where
  job : t.fsJob h = none
  head : t.fld (.foreshore h) .fsRingHead 0 31 0 = (j.ix + 1) % 2 ^ 32
  code : t.fld (.foreshore h) .fsStat 0 15 8 = st.code
  mark : t.fld (.foreshore h) .fsStat 0 31 16 = min wm 65535
  ix : t.fld (.foreshore h) .fsStat 0 63 32 = j.ix % 2 ^ 32
  raised : s.raised t (.foreshore h) 0
  logged : s.logged t (.foreshore h) st
  sems : t.sems = s.sems
  cores : t.cores = s.cores
  gulk : t.gulk = s.gulk
  mem : bit1 (j.word 0) 54 = false → t.mem = s.mem

theorem State.logged_after {p : Pg} (k : s.logged t p st) (herrs : u.errs = t.errs)
    (hnext : u.rd .fault .errRingHead 0 = t.rd .fault .errRingHead 0) (hhead : u.rd p .errHead 0 = t.rd p .errHead 0) : s.logged u p st := by
  obtain ⟨r, hbuf, hpage, hcls, hcode, htime, hseq, hn, herr⟩ := k
  exact ⟨r, herrs ▸ hbuf, hpage, hcls, hcode, htime, hseq, hnext.trans hn, hhead.trans herr⟩

/-- The registers that the end of a job with a failure writes. -/
def failKeys (h : Fin 2) : List Nat := retireKeys h ++ eventKeys (.foreshore h)

theorem logKeys_not_failKeys : ∀ h : Fin 2, ∀ k ∈ logKeys (.foreshore h), k ∉ failKeys h ∧ memoryKey k = false := by decide

theorem eventKeys_apart : ∀ h : Fin 2, ∀ k ∈ eventKeys (.foreshore h), k ∉ retireKeys h ∧ k ∉ logKeys (.foreshore h) ∧ memoryKey k = false := by
  decide

theorem State.endsFailed_fsEnd (hb : s.buffers) (hst : st ≠ .ok) (hgone : st ≠ .eGone) (hen : bit1 (j.word 0) 55 = false) :
    s.endsFailed (s.fsEnd h j st wm) h j st wm := by
  rw [State.fsEnd_failed hst hgone hen]
  have hlog := State.logs_ringError (s := s) (h := h) (st := st) (id := j.id h) (wmUnit := 4) (wm := wm)
    (addr := if st = .eMemUncorr then s.jobBad j else none) (deadline := j.deadline) hb
  generalize s.ringError (.foreshore h) st (j.id h) 4 wm _ j.deadline = t at hlog
  have hrec := State.fsRecords_fsRecord t h j st wm
  generalize t.fsRecord h j st wm = u at hrec
  have hfail := State.showsFailure_fsFailed u h j st wm
  generalize u.fsFailed h j st wm = v at hfail
  have hret := State.fsRetires_fsRetire v h j
  generalize v.fsRetire h j = w at hret
  have hrest : u = { s with
      regs := u.regs, errs := t.errs, mem := u.mem, bad := u.bad, harbour := u.harbour, pfLines := u.pfLines, dirty := u.dirty,
      wc := u.wc, records := u.records } := by
    rw [hrec.rest, hlog.rest]
  have hwrest : w = { u with regs := w.regs, fore := w.fore } := by rw [hret.rest, hfail.rest]
  have hlogged (k : Nat) (hk : k ∈ logKeys (.foreshore h)) : w.reg k = t.reg k := by
    obtain ⟨hnot, hm⟩ := logKeys_not_failKeys h k hk
    rw [failKeys, List.mem_append, not_or] at hnot
    have hstat : k ≠ regKey (.foreshore h) .fsStat 0 := fun e => hnot.1 (e ▸ List.mem_map_of_mem (by decide))
    exact (hret.regs k hnot.1).trans ((hfail.regs k (by rw [List.mem_cons, not_or]; exact ⟨hstat, hnot.2⟩)).trans (hrec.regs k hm))
  have hevent (k : Nat) (hk : k ∈ eventKeys (.foreshore h)) : w.reg k = v.reg k ∧ u.reg k = s.reg k := by
    obtain ⟨hretire, hnot, hm⟩ := eventKeys_apart h k hk
    exact ⟨hret.regs k hretire, (hrec.regs k hm).trans (hlog.regs k hm hnot)⟩
  exact {
    job := hret.job
    head := hret.head
    code := (hret.stat 15 8 (by decide)).trans hfail.code
    mark := (hret.stat 31 16 (by decide)).trans hfail.mark
    ix := (hret.stat 63 32 (by decide)).trans hfail.ix
    raised := State.raised_to (State.raised_from hfail.raised (fun k hk => (hevent k hk).2) (by rw [hrest])) (fun k hk => (hevent k hk).1)
    logged := State.logged_after hlog.logged (by rw [hwrest, hrest]) (hlogged _ List.mem_cons_self)
      (hlogged _ (List.mem_cons_of_mem _ (List.mem_singleton_self _)))
    sems := by rw [hwrest, hrest]
    cores := by rw [hwrest, hrest]
    gulk := by rw [hwrest, hrest]
    mem := fun hno => by rw [hwrest, hrec.none hno, hlog.rest] }

end

section
variable {s t u : State} {h : Fin 2} {j : FsJob} {st : Status} {wm : Nat} {ks : List Nat}

/-! ### A job that reads an uncorrectable word, or loses power (R232, R260) -/

theorem State.buffers_fsWorks (hw : s.fsWorks t (fsKeys h)) (hb : s.buffers) : t.buffers := by
  have hkey : ∀ h : Fin 2, regKey .fault .errRingBase 0 ∉ fsKeys h := by decide
  obtain ⟨hbase, hroom⟩ := hb
  refine ⟨?_, by rw [hw.rest]; exact hroom⟩
  rw [← hbase]
  unfold State.ringBase
  rw [State.fld_congr (hw.regs _ (hkey h) (by decide))]

/-- A record that waits after an engine has worked is one more from the state before. -/
theorem State.logged_fsWorks {p : Pg} (hw : s.fsWorks t (fsKeys h)) (k : t.logged u p st) : s.logged u p st := by
  have hkey : ∀ h : Fin 2, regKey .fault .errRingHead 0 ∉ fsKeys h := by decide
  have hhead : t.rd .fault .errRingHead 0 = s.rd .fault .errRingHead 0 := hw.regs _ (hkey h) (by decide)
  obtain ⟨r, hbuf, hpage, hcls, hcode, htime, hseq, hnext, herr⟩ := k
  exact ⟨r, by rw [hbuf, hw.rest], hpage, hcls, hcode, by rw [htime, hw.rest], by rw [hseq, hhead], by rw [hnext, hhead], by rw [herr, hhead]⟩

theorem State.bit_raised {p : Pg} {b c : Nat} (k : s.raised t p c) (hb : bit1 (s.rd p .event 0) b = true) :
    bit1 (t.rd p .event 0) b = true := by
  rw [bit1] at hb
  rw [k.1, bit1, BitVec.getLsbD_or, hb, Bool.true_or]

/-- A job that read an uncorrectable word ends with E_MEM_UNCORR (R232, R260). -/
theorem exec_fsJobComplete_uncorrected (hup : s.up) (hj : s.fsJob h = some j) (hw : j.waiting = false) (hbad : (s.jobBad j).isSome = true)
    (hb : s.buffers) (hen : bit1 (j.word 0) 55 = false) : ∃ t, exec (.fsJobComplete h .finished wm false) s = .next t ∧
      t.fsJob h = none ∧ t.fld (.foreshore h) .fsRingHead 0 31 0 = (j.ix + 1) % 2 ^ 32 ∧
      t.fld (.foreshore h) .fsStat 0 15 8 = Status.eMemUncorr.code ∧ t.fld (.foreshore h) .fsStat 0 31 16 = min (min wm j.rows) 65535 ∧
      bit1 (t.rd (.foreshore h) .event 0) 4 = true ∧ s.logged t (.foreshore h) .eMemUncorr ∧ t.sems = s.sems := by
  have he := exec_fsJobComplete_finished (h := h) hup hj hw wm
  rw [if_pos hbad] at he
  have hp := State.fsWorks_fsPartial (ks := fsKeys h) s h j (min wm j.rows) (List.subset_append_left ..) (fun _ => List.subset_append_right ..)
  have hu := State.fsWorks_trans hp (State.fsWorks_event _ 4 (List.subset_append_right ..))
  have hbit := State.raised_bit (State.raised_event (s.fsPartial h j (min wm j.rows)) (.foreshore h) 4) (by decide)
  generalize (s.fsPartial h j (min wm j.rows)).event (.foreshore h) 4 = u at he hu hbit
  have hend := State.endsFailed_fsEnd (h := h) (wm := min wm j.rows) (State.buffers_fsWorks hu hb) (st := .eMemUncorr) (by decide) (by decide) hen
  exact ⟨_, he, hend.job, hend.head, hend.code, hend.mark, State.bit_raised hend.raised hbit, State.logged_fsWorks hu hend.logged,
    hend.sems.trans (by rw [hu.rest])⟩

theorem exec_fsJobComplete_power (hup : s.up) (hj : s.fsJob h = some j) (hw : j.waiting = false) (wm : Nat) :
    exec (.fsJobComplete h .power wm false) s = .next ((s.fsPartial h j (min wm j.rows)).fsEnd h j .ePower (min wm j.rows)) := by
  rw [exec_fsJobComplete, execFsJobComplete, State.awake_up hup, hj]
  dsimp only
  rw [hw, if_neg Bool.false_ne_true, if_neg Bool.false_ne_true]
  rfl

/-- A job that lost power leaves its context FAULTED, and ends with E_POWER (R232). -/
theorem exec_fsJobComplete_powerLost (hup : s.up) (hj : s.fsJob h = some j) (hw : j.waiting = false) (hb : s.buffers)
    (hen : bit1 (j.word 0) 55 = false) : ∃ t, exec (.fsJobComplete h .power wm false) s = .next t ∧ t.fsJob h = none ∧
      t.fld (.foreshore h) .fsRingHead 0 31 0 = (j.ix + 1) % 2 ^ 32 ∧
      t.fld (.foreshore h) .fsStat 0 15 8 = Status.ePower.code ∧ t.fld (.foreshore h) .fsStat 0 31 16 = min (min wm j.rows) 65535 ∧
      t.fld (.foreshore h) .fsStat 0 63 32 = j.ix % 2 ^ 32 ∧ bit1 (t.rd (.foreshore h) .event 0) 0 = true ∧
      ((s.fsRun j).nan = false → s.raised t (.foreshore h) 0) ∧ s.logged t (.foreshore h) .ePower ∧ t.sems = s.sems ∧
      (bit1 (j.word 0) 54 = false → j.ctx ≠ 0 → t.word (j.ctx + 16) = 1) ∧ t.cores = s.cores ∧ t.gulk = s.gulk := by
  have he := exec_fsJobComplete_power (h := h) hup hj hw wm
  have hu := State.fsWorks_fsPartial (ks := fsKeys h) s h j (min wm j.rows) (List.subset_append_left ..) (fun _ => List.subset_append_right ..)
  have hstill (hnan : (s.fsRun j).nan = false) := State.fsWorks_fsPartial (ks := fsCounters h) s h j (min wm j.rows) (List.Subset.refl _)
    (fun e => absurd (hnan.symm.trans e) Bool.false_ne_true)
  have hword (hz : j.ctx ≠ 0) := State.word_fsPartial (s := s) (h := h) hz (min wm j.rows)
  generalize s.fsPartial h j (min wm j.rows) = u at he hu hstill hword
  have hend := State.endsFailed_fsEnd (h := h) (wm := min wm j.rows) (State.buffers_fsWorks hu hb) (st := .ePower) (by decide) (by decide) hen
  have hevents : ∀ h : Fin 2, ∀ k ∈ eventKeys (.foreshore h), k ∉ fsCounters h ∧ memoryKey k = false := by decide
  refine ⟨_, he, hend.job, hend.head, hend.code, hend.mark, hend.ix, State.raised_bit hend.raised (by decide), fun hnan => ?_,
    State.logged_fsWorks hu hend.logged, hend.sems.trans (by rw [hu.rest]), fun hno hz => ?_, hend.cores.trans (by rw [hu.rest]),
    hend.gulk.trans (by rw [hu.rest])⟩
  · refine State.raised_from hend.raised (fun k hk => ?_) (by rw [hu.rest])
    obtain ⟨hcounter, hm⟩ := hevents h k hk
    exact (hstill hnan).regs k hcounter hm
  · rw [← hword hz]
    exact State.word_congr (State.byte_congr (hend.mem hno)) _

end

/-! ### The obligation -/

/-- Settles O39: a start by what the reads of a descriptor leave, which its checks find as it was; an end by what the engine moved, and
by what the head's passing writes. -/
theorem foreshoreResults : Obligations.ForeshoreResults := by
  unfold Obligations.ForeshoreResults
  refine ⟨fun s h hup hrun => ⟨?idle, ?next, ?waited, ?abort, ?noJob⟩,
    fun s h j wm slot out hup hj hw hfault hfast hout hslot => ⟨?ok, ?bad, ?power⟩⟩
  case idle => exact exec_fsJobStart_still hup
  case next =>
    intro n a j hj hon hn hne ha hacc hbad hd hck
    obtain ⟨hfree, hbusy⟩ := exec_fsJobStart_results hup hrun hj hon hn hne ha hacc hbad hd hck
    constructor
    · intro ht
      obtain ⟨t, he, hb⟩ := hfree ht
      exact ⟨t, he, hb.job, hb.other, hb.stat, hb.regs, hb.bound, hb.still, hb.bytes, hb.bad, hb.rest⟩
    · intro ht
      obtain ⟨t, he, hb⟩ := hbusy ht
      exact ⟨t, he, hb.job, hb.stat, hb.mem, hb.regs, hb.rest⟩
  case waited =>
    intro j hj hw hck hfree
    have he := exec_fsJobStart_again hup hrun hj hw hck
    refine ⟨fun hon => ⟨_, he.trans (by rw [if_pos hon]), State.fsBegin_waited hfree⟩, fun hoff => he.trans ?_⟩
    rw [if_neg (by rw [hoff]; exact Bool.false_ne_true)]
  case abort =>
    intro j hj hw
    exact ⟨_, exec_fsAbort_running hup hj hw, State.fsJob_setFsJob_same .., State.fsJob_setFsJob_other .., State.setFsJob_regs _ _ _,
      State.setFsJob_rest ..⟩
  case noJob => exact exec_fsAbort_idle hup
  case ok => exact exec_fsJobComplete_commits hup hj hw hfault hfast hout hslot
  case bad => exact exec_fsJobComplete_uncorrected hup hj hw
  case power => exact exec_fsJobComplete_powerLost hup hj hw

end Sys2Proof.Machine
